-- ==== Sys2Proof/Syntax.lean ====
section
/-! DEFINITION. The commands of the part: one constructor of `Instr` per row of spec/opcode_table.json.
A command is one step of the part, "whole and indivisible" (spec/95_what_each_step_holds.md). -/

namespace Sys2Proof

/-- The parties of Table 1.3 (R25). -/
inductive Party where
  | g (n : Fin 16)
  | gs
  | gx
deriving DecidableEq, Repr

/-- A hardware thread of a leaf (R62). -/
structure Thr where
  leaf : Fin 168
  thread : Fin 64
deriving DecidableEq, Repr

/-- An initiator of bus transactions (Tables 1.4 and 1.9). For a core and a TSN port the party it acts for is an
operand, because the hypervisor decides which guest runs on a core (R364). -/
inductive Initiator where
  | leaf (n : Fin 168)
  | core (n : Fin 16) (acting : Party)
  | safetyIsland (pair : Fin 2)
  | kettle
  | pour
  | isp (stream : Fin 16)
  | codec (session : Fin 64)
  | display (pipe : Fin 6)
  | fusion
  | crossing (port : Fin 3) (win : BitVec 8)
  | tsn (port : Fin 12) (acting : Party)
  | ioHost (unit : Fin 14)
  | safetySpi
  | taster
deriving DecidableEq, Repr

/-- A bus transaction that reaches its target (R31): a read of `len` bytes, or a write of `data`. -/
structure Access where
  ini : Initiator
  write : Bool
  posted : Bool
  addr : BitVec 48
  len : Nat
  data : List Byte
deriving DecidableEq, Repr

/-- An access to a 64-bit register (R542): who makes it, its size in bytes and its byte offset within the register. -/
structure BusAcc where
  ini : Initiator
  size : Nat
  off : Nat
deriving DecidableEq, Repr

/-- Registers with an RC field that a bus read clears (R10, Tables 5.4 and 15.7). -/
inductive RcReg where
  | qptPushed (q : BitVec 18)
  | qptPopped (q : BitVec 18)
  | brgCount
  | brgDiscard
deriving DecidableEq, Repr

/-- Registers whose bus write has no row of its own (R9, R10). -/
inductive WrReg where
  | qptStat (q : BitVec 18)
  | qptReadOnly (q : BitVec 18) (off : BitVec 6)
  | dblStatus (page : Party)
  | dblReadOnly (page : Party) (off : BitVec 12)
  | brgLog (off : BitVec 16)
deriving DecidableEq, Repr

/-- How a unicast pull of Pour packets ended (R387, R388). -/
inductive PullResult where
  | good
  | crcFail
  | dataError
deriving DecidableEq, Repr

/-- How the codec's work on one picture ended (R276 to R278): `kind` 0 conforming, 1 concealed, 2 outside the session, and
the bytes of the access unit that an encoder made. -/
structure CodecResult where
  kind : Fin 3
  bytes : Nat
deriving DecidableEq, Repr

/-- A packet at a CSI-2 receiver (R289, R294). -/
inductive CsiPacket where
  | frameStart (vc : BitVec 4)
  | line (vc : BitVec 4) (dt : BitVec 8) (data : List Byte) (crcOk : Bool)
  | badHeader (vc : BitVec 4) (dt : BitVec 8)
  | overflow (vc : BitVec 4) (dt : BitVec 8)
  | frameEnd (vc : BitVec 4)
deriving DecidableEq, Repr

/-- A request arriving at a PCIe port (R451, R455): an offset in BAR0 or in the port kind's inbound aperture. -/
structure PcieReq where
  port : Fin 3
  bar0 : Bool
  off : BitVec 40
  write : Bool
  posted : Bool
  len : Nat
  data : List Byte
  requester : BitVec 16
  device : Fin 4
deriving DecidableEq, Repr

/-- A PCIe completion (Table 15.6): a peer's status byte, a Successful Completion, UR, CA, or EP set. -/
inductive PcieCpl where
  | peer (status : Byte)
  | sc (data : List Byte)
  | ur
  | ca
  | ep
deriving DecidableEq, Repr

/-- Power-management requests of the host port's link partner (R433). -/
inductive PciePm where
  | dState (d : Fin 4)
  | l2
deriving DecidableEq, Repr

/-- A CAN frame (Table 16.3). -/
structure CanFrame where
  id : BitVec 29
  ide : Bool
  fdf : Bool
  xlf : Bool
  brs : Bool
  esi : Bool
  rtr : Bool
  xlCtrl : Word
  xlAf : Word
  data : List Byte
deriving DecidableEq, Repr

/-- What an Ethernet frame carries, as far as the gateway rules look (R477 to R480). -/
inductive EthBody where
  | acf (stream : BitVec 64) (seq : BitVec 8) (msgs : List CanFrame)
  | avtp (stream : BitVec 64) (eof : Bool) (stamp : BitVec 64)
  | udp (port : BitVec 16) (marker : Bool) (rtp : BitVec 32)
  | other
deriving DecidableEq, Repr, Inhabited

/-- An Ethernet frame; `bytes` is the frame without FCS, `payload` what follows its IEEE 1722 or UDP header. -/
structure EthFrame where
  vlan : BitVec 12
  pcp : BitVec 3
  dst : BitVec 48
  src : BitVec 48
  body : EthBody
  bytes : List Byte
  payload : List Byte
  csumGood : Bool
deriving DecidableEq, Repr

/-- Why a lamp output turns off (R484). -/
inductive LampCause where
  | currentLimit
  | overCurrent
  | overTemp
deriving DecidableEq, Repr

/-- What an integrated transceiver finds (R487). -/
inductive CanBusFault where
  | shortToBattery
  | shortToGround
  | cleared
deriving DecidableEq, Repr

/-- What bring-up meets (R440, R505 to R508, R413): which images verify, which leaves fail, which
injection steps fail, and the straps of R533. -/
structure BringupInput where
  afzanA : Bool
  afzanB : Bool
  ucode : Bool
  bootCfg : Bool
  worlds : Bool
  debugAuth : Option (BitVec 64)
  leafMapOk : Bool
  leafFail : List (Fin 168)
  injectFail : List (Fin 7)
  endpoint : Bool
  srisClk : Bool
  gxPcie : Bool
deriving DecidableEq, Repr

/-- How an I/O command ended (R497 to R501): the command by its USER_TAG, its status and detail, and the bytes read. -/
structure IoResult where
  tag : BitVec 64
  status : Byte
  detail : BitVec 16
  bytes : Nat
  data : List Byte
deriving DecidableEq, Repr

/-- A mailbox request as the Kettle reads it from the request page (Table 12.1): its sender, the header fields a
request fills, and the payload. MSG is the command itself. -/
structure Msg where
  sender : Party
  length : BitVec 16
  status : Byte
  flags : Byte
  afi : BitVec 16
  tag : BitVec 64
  detail : BitVec 64
  rsv : BitVec 320
  payload : List Byte
deriving DecidableEq, Repr

/-- The commands, one per row of spec/opcode_table.json, in its order. -/
inductive Instr where
  /-- ADD (R154). Scalar instruction: rd gets rs1 + rs2. -/
  | add (w : Thr) (rd rs1 rs2 : BitVec 5)
  /-- SUB (R154). Scalar instruction: rd gets rs1 − rs2. -/
  | sub (w : Thr) (rd rs1 rs2 : BitVec 5)
  /-- AND (R154). Scalar instruction: bitwise AND of two registers. -/
  | and (w : Thr) (rd rs1 rs2 : BitVec 5)
  /-- OR (R154). Scalar instruction: bitwise OR of two registers. -/
  | or (w : Thr) (rd rs1 rs2 : BitVec 5)
  /-- XOR (R154). Scalar instruction: bitwise XOR of two registers. -/
  | xor (w : Thr) (rd rs1 rs2 : BitVec 5)
  /-- SLL (R154). Scalar instruction: logical left shift. -/
  | sll (w : Thr) (rd rs1 rs2 : BitVec 5)
  /-- SRL (R154). Scalar instruction: logical right shift. -/
  | srl (w : Thr) (rd rs1 rs2 : BitVec 5)
  /-- SRA (R154). Scalar instruction: arithmetic right shift. -/
  | sra (w : Thr) (rd rs1 rs2 : BitVec 5)
  /-- MUL (R154). Scalar instruction: low 32 bits of the product. -/
  | mul (w : Thr) (rd rs1 rs2 : BitVec 5)
  /-- MULHU (R154). Scalar instruction: high 32 bits of the unsigned product. -/
  | mulhu (w : Thr) (rd rs1 rs2 : BitVec 5)
  /-- MIN (R154). Scalar instruction: signed minimum. -/
  | min (w : Thr) (rd rs1 rs2 : BitVec 5)
  /-- MAX (R154). Scalar instruction: signed maximum. -/
  | max (w : Thr) (rd rs1 rs2 : BitVec 5)
  /-- PEQ (R154). Sets a predicate when two registers are equal. -/
  | peq (w : Thr) (rd rs1 rs2 : BitVec 5)
  /-- PNE (R154). Sets a predicate when two registers differ. -/
  | pne (w : Thr) (rd rs1 rs2 : BitVec 5)
  /-- PLT (R154). Sets a predicate on a signed less-than. -/
  | plt (w : Thr) (rd rs1 rs2 : BitVec 5)
  /-- PLTU (R154). Sets a predicate on an unsigned less-than. -/
  | pltu (w : Thr) (rd rs1 rs2 : BitVec 5)
  /-- ADDI (R154). Adds a signed 12-bit immediate. -/
  | addi (w : Thr) (rd rs1 : BitVec 5) (imm : BitVec 12)
  /-- ANDI (R154). ANDs with an immediate. -/
  | andi (w : Thr) (rd rs1 : BitVec 5) (imm : BitVec 12)
  /-- ORI (R154). ORs with an immediate. -/
  | ori (w : Thr) (rd rs1 : BitVec 5) (imm : BitVec 12)
  /-- XORI (R154). XORs with an immediate. -/
  | xori (w : Thr) (rd rs1 : BitVec 5) (imm : BitVec 12)
  /-- SLLI (R154). Logical left shift by an immediate. -/
  | slli (w : Thr) (rd rs1 : BitVec 5) (imm : BitVec 12)
  /-- SRLI (R154). Logical right shift by an immediate. -/
  | srli (w : Thr) (rd rs1 : BitVec 5) (imm : BitVec 12)
  /-- SRAI (R154). Arithmetic right shift by an immediate. -/
  | srai (w : Thr) (rd rs1 : BitVec 5) (imm : BitVec 12)
  /-- LUI (R154). Sets rd to imm17 shifted left by 15. -/
  | lui (w : Thr) (rd : BitVec 5) (imm : BitVec 17)
  /-- LLI (R154). ORs imm17[14:0] into rd. -/
  | lli (w : Thr) (rd : BitVec 5) (imm : BitVec 17)
  /-- LB (R154). Loads a sign-extended byte from the own scratchpad in the narrow view. -/
  | lb (w : Thr) (rd rs1 : BitVec 5) (imm : BitVec 12)
  /-- LBU (R154). Loads a zero-extended byte from the own scratchpad. -/
  | lbu (w : Thr) (rd rs1 : BitVec 5) (imm : BitVec 12)
  /-- LH (R154). Loads a sign-extended halfword from the own scratchpad. -/
  | lh (w : Thr) (rd rs1 : BitVec 5) (imm : BitVec 12)
  /-- LHU (R154). Loads a zero-extended halfword from the own scratchpad. -/
  | lhu (w : Thr) (rd rs1 : BitVec 5) (imm : BitVec 12)
  /-- LW (R154). Loads a word from the own scratchpad. -/
  | lw (w : Thr) (rd rs1 : BitVec 5) (imm : BitVec 12)
  /-- LD (R154). Loads 8 bytes into a register pair from the own scratchpad. -/
  | ld (w : Thr) (rd rs1 : BitVec 5) (imm : BitVec 12)
  /-- SB (R154). Stores a byte to the own scratchpad. -/
  | sb (w : Thr) (rd rs1 : BitVec 5) (imm : BitVec 12)
  /-- SH (R154). Stores a halfword to the own scratchpad. -/
  | sh (w : Thr) (rd rs1 : BitVec 5) (imm : BitVec 12)
  /-- SW (R154). Stores a word to the own scratchpad. -/
  | sw (w : Thr) (rd rs1 : BitVec 5) (imm : BitVec 12)
  /-- SD (R154). Stores a register pair to the own scratchpad. -/
  | sd (w : Thr) (rd rs1 : BitVec 5) (imm : BitVec 12)
  /-- LWX (R154). Loads a word from any physical address. -/
  | lwx (w : Thr) (rd rs1 : BitVec 5) (imm : BitVec 12)
  /-- SWX (R154). Stores a word to any physical address, signed by the Taster when it falls in an output buffer. -/
  | swx (w : Thr) (rd rs1 : BitVec 5) (imm : BitVec 12)
  /-- BR (R154). Branches when a predicate matches the sense bit. -/
  | br (w : Thr) (p : BitVec 3) (sense : Bool) (off : BitVec 18)
  /-- JAL (R154). Jumps relative to PC and links. -/
  | jal (w : Thr) (rd : BitVec 5) (imm : BitVec 17)
  /-- JR (R154). Jumps to a register offset and links. -/
  | jr (w : Thr) (rd rs1 : BitVec 5)
  /-- VADD (R128). Vector FP32 add. -/
  | vadd (w : Thr) (vd va vb : BitVec 5) (rm : BitVec 2)
  /-- VSUB (R128). Vector FP32 subtract. -/
  | vsub (w : Thr) (vd va vb : BitVec 5) (rm : BitVec 2)
  /-- VMUL (R128). Vector FP32 multiply. -/
  | vmul (w : Thr) (vd va vb : BitVec 5) (rm : BitVec 2)
  /-- VFMA (R128). Vector FP32 fused multiply-add into vd. -/
  | vfma (w : Thr) (vd va vb : BitVec 5) (rm : BitVec 2)
  /-- VMIN (R128). Vector minimumNumber. -/
  | vmin (w : Thr) (vd va vb : BitVec 5) (rm : BitVec 2)
  /-- VMAX (R128). Vector maximumNumber. -/
  | vmax (w : Thr) (vd va vb : BitVec 5) (rm : BitVec 2)
  /-- VIADD (R129). Vector INT32 wrapping add. -/
  | viadd (w : Thr) (vd va vb : BitVec 5) (rm : BitVec 2)
  /-- VISUB (R129). Vector INT32 wrapping subtract. -/
  | visub (w : Thr) (vd va vb : BitVec 5) (rm : BitVec 2)
  /-- VIMUL (R129). Vector INT32 low multiply. -/
  | vimul (w : Thr) (vd va vb : BitVec 5) (rm : BitVec 2)
  /-- VIADDS (R129). Vector INT32 saturating add. -/
  | viadds (w : Thr) (vd va vb : BitVec 5) (rm : BitVec 2)
  /-- VISUBS (R129). Vector INT32 saturating subtract. -/
  | visubs (w : Thr) (vd va vb : BitVec 5) (rm : BitVec 2)
  /-- VSLL (R129). Vector logical left shift. -/
  | vsll (w : Thr) (vd va vb : BitVec 5) (rm : BitVec 2)
  /-- VSRL (R129). Vector logical right shift. -/
  | vsrl (w : Thr) (vd va vb : BitVec 5) (rm : BitVec 2)
  /-- VSRA (R129). Vector arithmetic right shift. -/
  | vsra (w : Thr) (vd va vb : BitVec 5) (rm : BitVec 2)
  /-- VRSUM (R154). Reduces 128 lanes by sum into lane 0. -/
  | vrsum (w : Thr) (vd va : BitVec 5) (rm : BitVec 2)
  /-- VRMAX (R154). Reduces 128 lanes by maximum into lane 0. -/
  | vrmax (w : Thr) (vd va : BitVec 5) (rm : BitVec 2)
  /-- VBC (R154). Broadcasts a scalar register to every lane. -/
  | vbc (w : Thr) (vd rs1 : BitVec 5)
  /-- VMOVS (R154). Moves lane 0 of a vector register to a scalar register. -/
  | vmovs (w : Thr) (rd va : BitVec 5)
  /-- VLDR (R155). Loads 128 elements from consecutive bytes, widening them. -/
  | vldr (w : Thr) (vr rs1 rs2 : BitVec 5) (fmt : BitVec 4) (sat : Bool) (rm : BitVec 2)
  /-- VLDC (R155). Loads two words from a strided column of lines. -/
  | vldc (w : Thr) (vr rs1 rs2 : BitVec 5) (fmt : BitVec 4) (sat : Bool) (rm : BitVec 2)
  /-- VLDA (R155). Loads two rows of an owned accumulator tile. -/
  | vlda (w : Thr) (vr rs1 rs2 : BitVec 5) (fmt : BitVec 4) (sat : Bool) (rm : BitVec 2)
  /-- VSTR (R155). Stores 128 lanes to consecutive bytes, narrowing them. -/
  | vstr (w : Thr) (vr rs1 rs2 : BitVec 5) (fmt : BitVec 4) (sat : Bool) (rm : BitVec 2)
  /-- VSTC (R155). Stores two words into a strided column of lines. -/
  | vstc (w : Thr) (vr rs1 rs2 : BitVec 5) (fmt : BitVec 4) (sat : Bool) (rm : BitVec 2)
  /-- VSTA (R155). Stores two rows into an owned accumulator tile. -/
  | vsta (w : Thr) (vr rs1 rs2 : BitVec 5) (fmt : BitVec 4) (sat : Bool) (rm : BitVec 2)
  /-- SEXP2 (R131). Special function exp2 on 128 lanes. -/
  | sexp2 (w : Thr) (vd va : BitVec 5)
  /-- SLOG2 (R131). Special function log2. -/
  | slog2 (w : Thr) (vd va : BitVec 5)
  /-- SRCP (R131). Special function reciprocal. -/
  | srcp (w : Thr) (vd va : BitVec 5)
  /-- SRSQ (R131). Special function reciprocal square root. -/
  | srsq (w : Thr) (vd va : BitVec 5)
  /-- SSQRT (R131). Special function square root. -/
  | ssqrt (w : Thr) (vd va : BitVec 5)
  /-- SSIN (R131). Special function sine. -/
  | ssin (w : Thr) (vd va : BitVec 5)
  /-- SCOS (R131). Special function cosine. -/
  | scos (w : Thr) (vd va : BitVec 5)
  /-- STANH (R131). Special function tanh. -/
  | stanh (w : Thr) (vd va : BitVec 5)
  /-- SSIG (R131). Special function sigmoid. -/
  | ssig (w : Thr) (vd va : BitVec 5)
  /-- MMA (R70). Issues an asynchronous matrix operation from a command block into an accumulator tile. -/
  | mma (w : Thr) (rs1 : BitVec 5) (tok : BitVec 4) (a clear : Bool)
  /-- DRAIN (R125). Issues an asynchronous drain of an accumulator tile in an output format. -/
  | drain (w : Thr) (rs1 : BitVec 5) (tok : BitVec 4) (a : Bool)
  /-- ACCST (R118). Reads the NV, OF and SAT flags of an owned tile. -/
  | accst (w : Thr) (rd : BitVec 5) (a : Bool)
  /-- DMA (R81). Issues the 32-byte DMA descriptor at a scratchpad offset. -/
  | dma (w : Thr) (rs1 : BitVec 5)
  /-- QPUSH (R156). Pushes an entry to a mapped queue, ending a step and possibly reaching a Taster checkpoint. -/
  | qpush (w : Thr) (rs1 rs2 : BitVec 5) (qn : BitVec 8)
  /-- QPOP (R156). Pops the next entry of a mapped queue, waiting while it is empty. -/
  | qpop (w : Thr) (rs1 rs2 : BitVec 5) (qn : BitVec 8)
  /-- QTRY (R156). Pops an entry if present and sets a predicate, without waiting. -/
  | qtry (w : Thr) (rs1 rs2 : BitVec 5) (qn : BitVec 8) (p : BitVec 3)
  /-- QWAIT (R156). Waits for a free slot of a produced TILE queue and returns its buffer address. -/
  | qwait (w : Thr) (rd rs2 : BitVec 5) (qn : BitVec 8)
  /-- QRET (R156). Ends a step and retires popped TILE entries. -/
  | qret (w : Thr) (rs1 rs2 : BitVec 5) (qn : BitVec 8)
  /-- QLEN (R156). Returns the number of entries present in a queue. -/
  | qlen (w : Thr) (rd rs2 : BitVec 5) (qn : BitVec 8)
  /-- WAIT (R154). Waits until a completion token is zero. -/
  | wait (w : Thr) (n : BitVec 4)
  /-- BAR (R154). Barrier among threads of the station instance. -/
  | bar (w : Thr) (n : BitVec 4) (cnt : BitVec 6)
  /-- STEP (R88). Ends a step and copies the thread's state to its checkpoint shadow. -/
  | stepEnd (w : Thr)
  /-- HALT (R156). Waits for outstanding operations and halts the thread. -/
  | halt (w : Thr)
  /-- RBINW (R256). Bins a triangle block into the pass's bin lists. -/
  | rbinw (w : Thr) (rs1 : BitVec 5) (tok : BitVec 4)
  /-- RDRAW (R256). Marks the end of one draw in binning; a draw boundary. -/
  | rdraw (w : Thr)
  /-- RBIN (R252). Claims the next bin of the pass; a bin boundary. -/
  | rbin (w : Thr) (rd : BitVec 5)
  /-- RLOAD (R256). Clears or loads the claimed bin's attachments. -/
  | rload (w : Thr) (rs1 : BitVec 5) (tok : BitVec 4)
  /-- RSETUP (R254). Sets up and rasterises the bin's next triangles in order-key order. -/
  | rsetup (w : Thr) (rs1 : BitVec 5) (tok : BitVec 4)
  /-- RFRAG (R256). Returns the next fragment batch of a ring. -/
  | rfrag (w : Thr) (rd rs1 : BitVec 5)
  /-- RTEX (R256). Samples a texture into four vector registers. -/
  | rtex (w : Thr) (vr rs1 rs2 : BitVec 5)
  /-- RDEPTH (R255). Late depth and stencil test of a fragment batch. -/
  | rdepth (w : Thr) (vr rs1 : BitVec 5)
  /-- RBLEND (R254). Blends a fragment batch into a bin-buffer attachment in order. -/
  | rblend (w : Thr) (vr rs1 rs2 : BitVec 5)
  /-- RSTORE (R256). Stores or resolves the claimed bin's attachments. -/
  | rstore (w : Thr) (rs1 : BitVec 5) (tok : BitVec 4)
  /-- LOAD_RETURN (R65). A load issued to memory outside the leaf returns its data or error. -/
  | loadReturn (w : Thr)
  /-- MMA_COMPLETE (R73). A matrix operation finishes and decrements its token. -/
  | mmaComplete (leaf : Fin 168)
  /-- DRAIN_COMPLETE (R119). A drain finishes, ORs tile flags into the report word and decrements its token. -/
  | drainComplete (leaf : Fin 168)
  /-- DMA_PIECE_COMPLETE (R84). A DMA piece's read or write returns, advancing or stopping its descriptor. -/
  | dmaPieceComplete (leaf : Fin 168) (slot : Fin 16)
  /-- RASTER_OP_COMPLETE (R256). An asynchronous raster operation finishes and decrements its token. -/
  | rasterOpComplete (leaf : Fin 168)
  /-- STEP_REPLAY (R91). After outstanding operations finish, the line is reloaded and the thread restarts its step from the shadow. -/
  | stepReplay (w : Thr)
  /-- LEAF_HEARTBEAT (R102). The Kettle's 1 ms heartbeat; two consecutive misses fence the leaf. -/
  | leafHeartbeat (leaf : Fin 168) (answered : Bool)
  /-- RECOVERY_END (R239). The recovery of an estate finishes; it admits jobs again and any replay starts. -/
  | recoveryEnd
  /-- SEGMENT_CLOSE_TIMEOUT (R97). 100 µs after a segment is marked closing, further writes are answered BANK_OFF. -/
  | segmentCloseTimeout (leaf : Fin 168) (seg : Fin 8)
  /-- SEGMENT_OFF (R97). The outstanding-write counter of a closing segment reaches zero and the segment switches off. -/
  | segmentOff (leaf : Fin 168) (seg : Fin 8)
  /-- SEGMENT_ZEROED (R99). A switched-on segment finishes zeroing and accepts accesses. -/
  | segmentZeroed (leaf : Fin 168) (seg : Fin 8)
  /-- TARGET_ACCESS (R31). A bus transaction reaches its target and is accepted or refused. -/
  | targetAccess (t : Access)
  /-- QPT_TAIL_WRITE (R143). Software writes QPT_TAIL of a RECORD queue, accepted or refused with BADPTR. -/
  | qptTailWrite (b : BusAcc) (q : BitVec 18) (v : BitVec 64)
  /-- QPT_HEAD_WRITE (R143). Software writes QPT_HEAD of a queue it consumes, accepted or refused with BADPTR. -/
  | qptHeadWrite (b : BusAcc) (q : BitVec 18) (v : BitVec 64)
  /-- DBL_SUBMIT_WRITE (R145). A write to DBL_SUBMIT sets a SUBMIT queue's TAIL and wakes the Kettle, or is refused. -/
  | dblSubmitWrite (b : BusAcc) (page : Party) (v : BitVec 64)
  /-- DBL_MBOX_RING (R358). RING written to DBL_MBOX announces a mailbox message and sets MBOX_BUSY. -/
  | dblMboxRing (b : BusAcc) (page : Party) (v : BitVec 64)
  /-- DBL_NOTIFY_READ (R146). A read of DBL_NOTIFY returns and removes the oldest pending notification. -/
  | dblNotifyRead (b : BusAcc) (page : Party)
  /-- RC_FIELD_READ (R10). A read of an RC field returns its value and clears it. -/
  | rcFieldRead (b : BusAcc) (r : RcReg)
  /-- REGISTER_WRITE (R9). A write to a register field with no behaviour of its own, such as a W1C bit. -/
  | registerWrite (b : BusAcc) (r : WrReg) (v : BitVec 64)
  /-- RECORD_TAKE (R163). The Kettle takes a submission record, refusing it at once or letting it wait for an estate. -/
  | recordTake (q : BitVec 18)
  /-- JOB_START (R222). A waiting record is admitted to an idle candidate or lent estate and the switch begins. -/
  | jobStart (q : BitVec 18)
  /-- ESTATE_SWITCH_DONE (R233). The switch between jobs finishes and Pour of the station images begins. -/
  | estateSwitchDone (e : Fin 16)
  /-- POUR_BROADCAST_END (R387). The last Pour packet has passed every leaf; leaves repair or all threads start. -/
  | pourBroadcastEnd (e : Fin 16) (missed : List (Fin 168 × List Nat))
  /-- POUR_PULL_DONE (R387). A leaf's unicast pull of a missed Pour packet returns and is checked. -/
  | pourPullDone (leaf : Fin 168) (r : PullResult)
  /-- POUR_RELOAD_DONE (R388). A whole unicast reload ends; the attempt passes or fails, possibly fencing the leaf. -/
  | pourReloadDone (leaf : Fin 168) (r : PullResult)
  /-- JOB_STALLED (R165). No progress for STALL_US ends the job ABORTED with TIMEOUT. -/
  | jobStalled (e : Fin 16)
  /-- DURATION_OVERRUN (R227). A job's run reaches DURATION_TCLK cycles and an event is written. -/
  | durationOverrun (e : Fin 16)
  /-- LEND_KILL (R231). A lent job reaches 1.1 × DURATION_TCLK and ends ABORTED with OVERDUE. -/
  | lendKill (e : Fin 16)
  /-- HUSH_ENTRY (R54). No estate has had work for 1 ms, so the Kettle enters Hush. -/
  | hushEntry
  /-- WAKE (R57). A wake source fires and the part returns to Run. -/
  | wake (cls : Fin 10) (inst : BitVec 16)
  /-- DRAM_ZEROING_DONE (R56). Background zeroing after Park passes a pending grant's DRAM. -/
  | dramZeroingDone
  /-- PLL_UNLOCK (R38). The root PLL loses lock; clocks stop and FAULT_N asserts. -/
  | pllUnlock (periods : BitVec 32)
  /-- FAST_CURRENT_LIMIT (R45). VDD_LEAF exceeds 150 A for 5 µs and the divider is forced to /16. -/
  | fastCurrentLimit
  /-- POWER_LIMIT_WINDOW (R46). A 1 ms power window ends and power_step may move. -/
  | powerLimitWindow (deciwatts : Nat)
  /-- THERMAL_THROTTLE (R47). The hottest sensor crosses or stays beyond a threshold and thermal_step moves. -/
  | thermalThrottle (sensor : Fin 28) (deci : Int)
  /-- THERMAL_DOZE (R48). The hottest sensor reaches 125 °C and the part enters hardware Doze. -/
  | thermalDoze (sensor : Fin 28) (deci : Int)
  /-- THERMAL_DOZE_EXIT (R48). After 1 s at or below 105 °C the part returns to Run at /16. -/
  | thermalDozeExit (deci : Int)
  /-- THERMAL_TRIP (R49). The analog comparator detects 130 °C and THERM_TRIP_N cuts the core supplies. -/
  | thermalTrip
  /-- TRIP_RESTART (R49). 10 s after a trip the field die starts a full bring-up if a Park wake source is active. -/
  | tripRestart
  /-- VOLTAGE_TRIM_CYCLE (R44). The Kettle trims VDD_LEAF, clamping out-of-range requests. -/
  | voltageTrimCycle (mv : Nat)
  /-- SELFTEST_SLICE_START (R410). A self-test slice starts at a job boundary in a gap or when due. -/
  | selftestSliceStart (e : Fin 16)
  /-- SELFTEST_SLICE_END (R408). A self-test slice ends, fencing any leaf that failed. -/
  | selftestSliceEnd (e : Fin 16) (failed : List (Fin 168))
  /-- SELFTEST_OVERDUE (R411). A DTI passes with the self-test cycle unfinished. -/
  | selftestOverdue (e : Fin 16)
  /-- PAIR_WINDOW_MISS (R406). A checkpoint's twin has not arrived within WINDOW_US. -/
  | pairWindowMiss (e : Fin 16)
  /-- GOLDEN_FRAME_DONE (R407). The localisation golden frame ends; a failing leaf is fenced or the job ends. -/
  | goldenFrameDone (failed : List (Fin 168))
  /-- SAFETY_ISLAND_MISMATCH (R415). A lockstep mismatch in a safety-island pair asserts FAULT_N. -/
  | safetyIslandMismatch (pair : Fin 2)
  /-- KETTLE_LOCKSTEP_MISMATCH (R356). The Kettle's lockstep pair disagrees; a Kettle fault halts every estate. -/
  | kettleLockstepMismatch
  /-- KETTLE_WATCHDOG_EXPIRY (R356). 10 ms pass without a watchdog kick; a Kettle fault. -/
  | kettleWatchdogExpiry
  /-- BIN_GROW_TIMEOUT (R258). No bin growth within BIN_GROW_US, so the pass is flushed mid-way. -/
  | binGrowTimeout (e : Fin 16)
  /-- PREEMPT_ABANDONED (R262). A leaf misses its boundary within PREEMPT_US and the pre-emption is abandoned. -/
  | preemptAbandoned (e : Fin 16)
  /-- VBLANK_LATCH (R271). A pipe's last active line ends; ready flips apply and a status record is pushed. -/
  | vblankLatch (pipe : Fin 6)
  /-- LINK_TRAINING_RESULT (R265). DP or eDP training for PIPE_SET ends OK or fails. -/
  | linkTrainingResult (pipe : Fin 6) (hpd : Bool) (lanes rate : Nat)
  /-- DISPLAY_LINK_LOSS (R266). A scanning pipe loses its link and drives it idle. -/
  | displayLinkLoss (pipe : Fin 6) (training : Bool)
  /-- DISPLAY_RETRAIN (R266). Every 100 ms a pipe with a dropped link retrains. -/
  | displayRetrain (pipe : Fin 6) (ok : Bool)
  /-- SCANOUT_UNDERFLOW (R273). A scan-out fetch is late and the line shows BACKGROUND. -/
  | scanoutUnderflow (pipe : Fin 6)
  /-- CODEC_PICTURE_DONE (R277). The codec completes a picture or access unit and pushes its record. -/
  | codecPictureDone (session : Fin 64) (r : CodecResult)
  /-- CSI_PACKET (R294). A CSI-2 receiver takes a packet: frame start, line, or frame end. -/
  | csiPacket (rcv : Fin 4) (p : CsiPacket)
  /-- MISSING_FRAME_END (R294). No frame end within twice the frame time; the frame ends SHORT. -/
  | missingFrameEnd (stream : Fin 24)
  /-- ISP_TILE_PUSH (R295). The ISP pushes or drops an output tile in MODE 2 as slots allow. -/
  | ispTilePush (stream : Fin 16)
  /-- TIME_SNAPSHOT (R303). Every 10 ms Afzan latches all time counters and refits conversions. -/
  | timeSnapshot (eth : List (BitVec 64))
  /-- FUS_MEAS_POP (R308). The fusion engine pops a measurement record into its batch. -/
  | fusMeasPop
  /-- FUS_BATCH_PROCESS (R310). A closed batch of SENSOR `sensor` is processed: checked for lateness, gated, assigned and tracked. -/
  | fusBatchProcess (sensor : BitVec 8)
  /-- FUS_LIST_PUSH (R319). With two slots free the engine writes the track list and pushes its record. -/
  | fusListPush
  /-- EGO_TIMEOUT (R312). No scan has been registered for 200 ms and ego-motion becomes DEGRADED. -/
  | egoTimeout
  /-- STRAINER_ARBITRATE (R348). Each FCLK the Strainer passes one request by the rules of R348. -/
  | strainerArbitrate (cg : Fin 8)
  /-- PATROL_SCRUB (R338). A controller's 12-hour patrol read of its channel group. -/
  | patrolScrub (cg : Fin 8) (line : Nat)
  /-- CHANNEL_FAIL (R339). A channel fails retraining or a controller is silent for 100 µs. -/
  | channelFail (cg : Fin 8) (ch : Fin 4) (silent : Bool)
  /-- CACHE_OP_DONE (R344). A cache clean operation has written back every dirty line in scope. -/
  | cacheOpDone (party : Party)
  /-- GRANULE_ZEROED (R431). A DRAM granule changing hands finishes zeroing. -/
  | granuleZeroed (granule : Nat)
  /-- ALARM_FIRE (R377). A party's Kettle alarm fires and a KIND 2 notice is pushed. -/
  | alarmFire (party : Party)
  /-- ACTIVATION_WINDOW_OPEN (R381). The activation window opens once no recovery is in flight and no kill point is near. -/
  | activationWindowOpen
  /-- ACTIVATION_READY (R382). The new Afzan declares ready; mailboxes and admission resume. -/
  | activationReady
  /-- ACTIVATION_WATCHDOG (R383). Step 5 is not reached within 20 ms and the old image is restored. -/
  | activationWatchdog
  /-- FW_STAGE_DONE (R380). Staging of a firmware image into the other slot finishes. -/
  | fwStageDone (readBackOk : Bool)
  /-- TEMPLATE_LOAD_DONE (R371). The background copy and check of a template finishes. -/
  | templateLoadDone (party : Party)
  /-- HART_STOP_TIMEOUT (R430). 100 ms pass in a world change and the Kettle stops the remaining harts. -/
  | hartStopTimeout (cluster : Fin 4)
  /-- ALIAS_DERIVED (R442). The key engine finishes deriving new alias keys. -/
  | aliasDerived
  /-- ATTEST_SIGNED (R445). An attestation report finishes signing and is written. -/
  | attestSigned (ms : Nat)
  /-- SAFETY_SPI_WRITE (R365). A safety SPI write frame into the GX space. -/
  | safetySpiWrite (frame : List Byte)
  /-- SAFETY_SPI_READ (R365). A safety SPI read frame returns data and a CRC. -/
  | safetySpiRead (frame : List Byte)
  /-- SAFETY_SPI_STATUS (R365). A safety SPI status frame returns status and clears CRC_ERR. -/
  | safetySpiStatus (frame : List Byte)
  /-- SERVICE_SPI_WRITE (R493). A field-die service port write frame. -/
  | serviceSpiWrite (frame : List Byte)
  /-- SERVICE_SPI_READ (R493). A field-die service port read frame. -/
  | serviceSpiRead (frame : List Byte)
  /-- SERVICE_SPI_STATUS (R493). A field-die service port status frame. -/
  | serviceSpiStatus (frame : List Byte)
  /-- WAKE_NOW (R493). A write of WAKE_NOW to FLD_CMD sets SERVICE and wakes the part. -/
  | wakeNow (v : BitVec 32)
  /-- FIELD_FRAME_CRC_FAIL (R17). A field control link frame fails CRC; it is resent or the link goes down. -/
  | fieldFrameCrcFail (fromCore : Bool)
  /-- FIELD_OUTPUT_HOLD_EXPIRY (R17). 100 ms after link-down the field die sets its Park defaults. -/
  | fieldOutputHoldExpiry
  /-- PCIE_INBOUND_REQUEST (R455). A request arrives at an inbound window and enters the fabric or is refused. -/
  | pcieInboundRequest (r : PcieReq)
  /-- WRITE_GROUP_END (R458). An outbound write group ends and its confirm read is sent. -/
  | writeGroupEnd (win : BitVec 8) (ini : BitVec 16)
  /-- PCIE_COMPLETION (R458). A completion arrives for an outbound read or confirm read. -/
  | pcieCompletion (tag : Nat) (c : PcieCpl)
  /-- OUTBOUND_READ_TIMEOUT (R460). An outbound read has no full completion within TIMEOUT_US. -/
  | outboundReadTimeout (tag : Nat)
  /-- WINDOW_DRAIN_END (R465). A closing window has no transactions outstanding; its slot is freed. -/
  | windowDrainEnd (win : BitVec 8)
  /-- PCIE_PERST (R451). PERST# resets the host port and its link. -/
  | pciePerst
  /-- PCIE_POWER_MANAGEMENT (R433). A link partner's D-state or L2 request acts on the port alone. -/
  | pciePowerManagement (r : PciePm)
  /-- PEER_LINK_UP (R466). A peer link comes up and exchanges ring number and size. -/
  | peerLinkUp (port : Fin 2) (n d : Nat)
  /-- PCIE_LINK_DOWN (R467). A PCIe link goes down; in-flight transactions end TIMEOUT. -/
  | pcieLinkDown (port : Fin 3)
  /-- CAN_FRAME_RECEIVED (R473). A controller receives a frame, pushes its record and routes it. -/
  | canFrameReceived (ctrl : Fin 12) (f : CanFrame)
  /-- CAN_FRAME_SENT (R473). A controller finishes sending a frame and echoes it. -/
  | canFrameSent (ctrl : Fin 12) (ok : Bool)
  /-- CAN_BUS_OFF_RECOVERY (R473). A bus-off controller recovers after 128 × 11 recessive bits. -/
  | canBusOffRecovery (ctrl : Fin 12)
  /-- CAN_DOMINANT (R471). TXD held dominant for 1 ms is released from the bus. -/
  | canDominant (ctrl : Fin 12)
  /-- CAN_WUP (R471). A transceiver in standby detects the wake-up pattern. -/
  | canWup (ctrl : Fin 12)
  /-- ETH_FRAME_INGRESS (R478). The switch takes in a frame and forwards or routes it. -/
  | ethFrameIngress (port : Fin 12) (f : EthFrame)
  /-- ROUTE_DEST_TIMEOUT (R478). A CAN destination's buffers stay full for 10 ms and the frame is dropped. -/
  | routeDestTimeout (ctrl : Fin 12)
  /-- ACF_TALKER_SEND (R479). An ACF talker sends its batch at MAX_WAIT_US or MAX_BYTES. -/
  | acfTalkerSend (rule : Fin 4096)
  /-- GATE_LIST_ACTIVATE (R476). A new gate control list takes effect at its base time. -/
  | gateListActivate (port : Fin 12)
  /-- SWITCH_INPUT_CHANGE (R482). A debounced switch input changes state. -/
  | switchInputChange (ch : Fin 48) (closed : Bool)
  /-- PAIR_IMPLAUSIBLE (R482). A switch pair reads both open or both closed for 100 ms. -/
  | pairImplausible (ch : Fin 48)
  /-- TOUCH_SCAN (R483). A touch channel scan compares with its baseline. -/
  | touchScan (ch : Fin 16) (count : Nat)
  /-- LAMP_TURN_OFF (R484). A lamp output turns off for current limit, overcurrent or overtemperature. -/
  | lampTurnOff (ch : Fin 12) (cause : LampCause) (ma : BitVec 32)
  /-- LAMP_RETRY (R484). A lamp retries after 100 ms, or latches off when retries are spent. -/
  | lampRetry (ch : Fin 12)
  /-- LAMP_OPEN_LOAD (R484). An on-state current below 20 mA for 10 ms reports OPEN_LOAD. -/
  | lampOpenLoad (ch : Fin 12) (ma : BitVec 32)
  /-- ANALOG_SAMPLE (R485). An analog input is sampled and threshold crossings are reported. -/
  | analogSample (ch : Fin 4) (raw : BitVec 12)
  /-- WAKE_INPUT_EDGE (R492). A filtered edge on a wake input. -/
  | wakeInputEdge (ch : Fin 8) (rising : Bool)
  /-- PARK_SWITCH_POLL (R492). In Park, wake switch inputs are polled every 20 ms. -/
  | parkSwitchPoll (closed : BitVec 48)
  /-- FIELD_TIMER_EXPIRY (R492). FLD_TIMER expires and wakes the part from Park. -/
  | fieldTimerExpiry
  /-- USBC_ATTACH (R490). A USB-C attach, detach or new contract on a port. -/
  | usbcAttach (port : Fin 4) (state : Fin 3) (mv ma : BitVec 16)
  /-- VBUS_FAULT (R491). A short or overcurrent switches VBUS off and sends a hard reset. -/
  | vbusFault (port : Fin 4)
  /-- VBUS_RETRY (R491). 1 s after a VBUS fault the port retries. -/
  | vbusRetry (port : Fin 4)
  /-- CC_OVERVOLTAGE (R491). CC above 6 V disconnects CC and switches VBUS off. -/
  | ccOvervoltage (port : Fin 4)
  /-- VBAT_CHANGE (R488). VBAT crosses a range boundary of Table 16.11. -/
  | vbatChange (centivolts : Int)
  /-- VBAT_CUT (R488). 10 ms after VBAT_WARN without recovery the core supplies are cut. -/
  | vbatCut
  /-- BRINGUP (R505). VBAT enters range and bring-up from Off starts. -/
  | bringup (r : BringupInput)
  /-- DRAM_TEST_ROUND (R508). A 36 s DRAM test hold ends and every line is read and checked. -/
  | dramTestRound (oneBit rows : List Nat) (bad : List (Fin 8))
  /-- TRAINING (R506). A link trainer reports its result. -/
  | training (unit : Fin 20) (ok : Bool)
  /-- LINK_RETRAIN (R506). A failed PCIe or Ethernet link retrains every 1 s. -/
  | linkRetrain (unit : Fin 20) (ok : Bool)
  /-- PGOOD_SAMPLE (R527). At the end of the power-up steps PGOOD is sampled. -/
  | pgoodSample (good : Bool)
  /-- POWER_UP_RETRY (R527). 1 s after a low PGOOD the power-up sequence is retried. -/
  | powerUpRetry
  /-- PGOOD_FALL (R529). PGOOD falls for 10 µs with EN_CORE high and every enable drops. -/
  | pgoodFall
  /-- RESET_N_PIN (R511). RESET_N low starts a warm or cold reset by its duration. -/
  | resetNPin (lowUs : Nat)
  /-- RESET_BEGIN (R513). 100 µs after a RESET answer, the reset of scope 2–4 begins. -/
  | resetBegin
  /-- CADDY_BACKGROUND_FLUSH (R519). The flush engine copies unflushed records at 1,024 records or 1 s. -/
  | caddyBackgroundFlush
  /-- I2S_FRAME (R500). An I²S/TDM frame at FSYNC is sent or recorded. -/
  | i2sFrame (port : Fin 4) (samples : List (BitVec 32))
  /-- USB_PORT_RESET (R498). Command 0x01 resets a USB root port. -/
  | usbPortReset (unit : Fin 14)
  /-- USB_ADDRESS (R498). Command 0x02 assigns a USB device address. -/
  | usbAddress (unit : Fin 14)
  /-- USB_ENDPOINT_SET (R498). Command 0x03 configures a USB endpoint. -/
  | usbEndpointSet (unit : Fin 14)
  /-- USB_TRANSFER (R498). Command 0x04 moves data to or from a USB endpoint. -/
  | usbTransfer (unit : Fin 14)
  /-- USB_ENDPOINT_CLEAR (R498). Command 0x05 stops an endpoint and clears a halt. -/
  | usbEndpointClear (unit : Fin 14)
  /-- USB_ATTACH (R498). A device attaches and unsolicited record 0x80 is pushed. -/
  | usbAttach (unit : Fin 14) (speed : BitVec 16) (route : BitVec 32)
  /-- USB_DETACH (R498). A device detaches; record 0x81 and NOT_READY completions. -/
  | usbDetach (unit : Fin 14) (route : BitVec 32)
  /-- UFS_SCSI (R499). Command 0x10 sends a SCSI command UPIU. -/
  | ufsScsi (unit : Fin 14)
  /-- UFS_QUERY (R499). Command 0x11 sends a UFS query request. -/
  | ufsQuery (unit : Fin 14)
  /-- UFS_TASK (R499). Command 0x12 sends a task-management function. -/
  | ufsTask (unit : Fin 14)
  /-- UFS_LINK (R499). Command 0x13 hibernates, wakes or resets the UFS link. -/
  | ufsLink (unit : Fin 14)
  /-- UFS_LINK_LOST (R499). The UFS link is lost; record 0x90 and NOT_READY completions. -/
  | ufsLinkLost
  /-- UFS_SCSI_TIMEOUT (R499). A SCSI command not done in 30 s ends TIMEOUT and is aborted. -/
  | ufsScsiTimeout (tag : BitVec 64)
  /-- I2S_PLAY (R500). Command 0x20 queues a playback buffer. -/
  | i2sPlay (unit : Fin 14)
  /-- I2S_RECORD (R500). Command 0x21 queues a recording buffer. -/
  | i2sRecord (unit : Fin 14)
  /-- I2S_STOP (R500). Command 0x22 ends one direction. -/
  | i2sStop (unit : Fin 14)
  /-- XSPI_READ (R501). Command 0x30 reads flash into DRAM. -/
  | xspiRead (unit : Fin 14)
  /-- XSPI_PROGRAM (R501). Command 0x31 programs flash pages. -/
  | xspiProgram (unit : Fin 14)
  /-- XSPI_ERASE (R501). Command 0x32 erases flash sectors. -/
  | xspiErase (unit : Fin 14)
  /-- IO_COMPLETION (R497). An I/O command's operation finishes and its completion is pushed. -/
  | ioCompletion (unit : Fin 14) (r : IoResult)
  /-- VNIC_TRANSMIT (R503). A virtual interface pops a transmit record and sends the frame. -/
  | vnicTransmit (v : Fin 32)
  /-- VNIC_RECEIVE (R503). A virtual interface receives a frame into a free buffer or drops it. -/
  | vnicReceive (v : Fin 32) (f : EthFrame)
  /-- AFI_VERSION (R366). Returns the running AFI version and firmware state. -/
  | afiVersion (m : Msg)
  /-- MBOX_SET (R369). Moves the mailbox and binds the notice queue. -/
  | mboxSet (m : Msg)
  /-- IRQ_ROUTE (R364). Routes the party's two interrupt sources. -/
  | irqRoute (m : Msg)
  /-- QUEUE_BIND (R140). Binds a queue with a stream descriptor. -/
  | queueBind (m : Msg)
  /-- QUEUE_UNBIND (R140). Unbinds a queue. -/
  | queueUnbind (m : Msg)
  /-- TEMPLATE_LOAD (R371). Loads a job template and returns its handle. -/
  | templateLoad (m : Msg)
  /-- TEMPLATE_FREE (R371). Frees a template handle once no job of it runs. -/
  | templateFree (m : Msg)
  /-- LEAF_STATS (R372). Returns the leaf statistics counters of a leaf or estate. -/
  | leafStats (m : Msg)
  /-- LEAF_FENCE (R373). GS fences a leaf with cause COMMAND. -/
  | leafFence (m : Msg)
  /-- GRANT_SET (R213). GS sets a party's grant. -/
  | grantSet (m : Msg)
  /-- ESTATE_SET (R217). Creates or reshapes an estate. -/
  | estateSet (m : Msg)
  /-- ESTATE_FREE (R216). Frees an estate. -/
  | estateFree (m : Msg)
  /-- GUEST_FREEZE (R242). Stops taking a guest's records. -/
  | guestFreeze (m : Msg)
  /-- GUEST_SAVE (R244). Writes a frozen guest's state image. -/
  | guestSave (m : Msg)
  /-- GUEST_RESTORE (R245). Rebuilds a guest from a state image. -/
  | guestRestore (m : Msg)
  /-- GUEST_THAW (R242). Resumes taking a guest's records. -/
  | guestThaw (m : Msg)
  /-- POWER_VOTE (R374). Records a party's power-state vote and divider request. -/
  | powerVote (m : Msg)
  /-- POWER_LIMIT_SET (R375). Lowers the power cap or throttle threshold. -/
  | powerLimitSet (m : Msg)
  /-- PARK_KEEP (R376). Replaces the sender's list of allocations kept in Park. -/
  | parkKeep (m : Msg)
  /-- ALARM_SET (R377). Sets or cancels the sender's Kettle alarm. -/
  | alarmSet (m : Msg)
  /-- BLOCK_POWER (R378). Sends a power or clock request to a block. -/
  | blockPower (m : Msg)
  /-- RESUME_SET (R379). Registers a world's resume vector. -/
  | resumeSet (m : Msg)
  /-- MEM_WAYS_SET (R351). Sets the cache allocation mask for non-leaf traffic. -/
  | memWaysSet (m : Msg)
  /-- MEM_CACHE_OP (R352). Cleans, or cleans and invalidates, a range or ways. -/
  | memCacheOp (m : Msg)
  /-- MEM_RANGE_SET (R346). Configures a Strainer range. -/
  | memRangeSet (m : Msg)
  /-- MEM_STATS (R353). Returns memory statistics. -/
  | memStats (m : Msg)
  /-- GFX_QUEUE_SET (R279). Sets graphics priority and timeouts for a SUBMIT queue. -/
  | gfxQueueSet (m : Msg)
  /-- GFX_BIN_GROW (R280). Adds DRAM ranges to a job's bin memory. -/
  | gfxBinGrow (m : Msg)
  /-- PIPE_SET (R264). Starts a display pipe with a timing record. -/
  | pipeSet (m : Msg)
  /-- PIPE_STOP (R282). Stops a pipe's scan-out and optionally releases it. -/
  | pipeStop (m : Msg)
  /-- PIPE_QUEUES (R281). Binds a pipe's flip and status queues. -/
  | pipeQueues (m : Msg)
  /-- DSP_STATS (R283). Returns a pipe's frame number and statistics. -/
  | dspStats (m : Msg)
  /-- CODEC_OPEN (R284). Opens an encode or decode session. -/
  | codecOpen (m : Msg)
  /-- CODEC_CLOSE (R285). Closes a codec session, optionally draining. -/
  | codecClose (m : Msg)
  /-- CAPTURE_OPEN (R291). Opens a capture stream. -/
  | captureOpen (m : Msg)
  /-- CAPTURE_CLOSE (R323). Closes a capture stream at a frame boundary. -/
  | captureClose (m : Msg)
  /-- CAPTURE_STATS (R324). Returns a stream's conversion and counters. -/
  | captureStats (m : Msg)
  /-- ISP_TUNE (R325). Loads a tuning block for an ISP stream. -/
  | ispTune (m : Msg)
  /-- FUS_OPEN (R304). Opens the fusion engine. -/
  | fusOpen (m : Msg)
  /-- FUS_CLOSE (R326). Closes the fusion engine and clears its tables. -/
  | fusClose (m : Msg)
  /-- FUS_TRANSFORM_LOAD (R327). Loads a sensor transform entry. -/
  | fusTransformLoad (m : Msg)
  /-- FUS_STATS (R328). Returns fusion statistics. -/
  | fusStats (m : Msg)
  /-- SAFETY_PAIR_SET (R396). Forms or dissolves a pair of estates. -/
  | safetyPairSet (m : Msg)
  /-- SELFTEST_GAPS (R409). Configures periodic self-test for an estate. -/
  | selftestGaps (m : Msg)
  /-- SAFE_STATE (R417). GX requests a safe-state level. -/
  | safeState (m : Msg)
  /-- FAULT_STATUS (R418). Returns the fault and safety status. -/
  | faultStatus (m : Msg)
  /-- WORLD_SET (R427). GS changes SWM, LWM or cluster worlds. -/
  | worldSet (m : Msg)
  /-- SECURE_RESTART (R435). Restarts the secure world from an image. -/
  | secureRestart (m : Msg)
  /-- ATTEST (R445). Requests a signed attestation report. -/
  | attest (m : Msg)
  /-- IDENTITY_GET (R444). Returns identity and alias statement digests. -/
  | identityGet (m : Msg)
  /-- WINDOW_OPEN (R456). Opens a Crossing window. -/
  | windowOpen (m : Msg)
  /-- WINDOW_CLOSE (R465). Closes a Crossing window and drains it. -/
  | windowClose (m : Msg)
  /-- PEER_LINK (R466). Sets the ring size and device number of linked Uzotars. -/
  | peerLink (m : Msg)
  /-- CAN_OPEN (R472). Opens a CAN controller. -/
  | canOpen (m : Msg)
  /-- CAN_CLOSE (R472). Closes a CAN controller. -/
  | canClose (m : Msg)
  /-- ROUTE_SET (R477). Sets or deletes a gateway routing rule. -/
  | routeSet (m : Msg)
  /-- TSN_SET (R476). Applies a TSN switch configuration block. -/
  | tsnSet (m : Msg)
  /-- FIELD_SET (R481). Configures, commands or releases a field channel. -/
  | fieldSet (m : Msg)
  /-- FIELD_READ (R481). Returns the state of field channels. -/
  | fieldRead (m : Msg)
  /-- USBC_SET (R490). Sets a USB Type-C port's role and power. -/
  | usbcSet (m : Msg)
  /-- IO_OPEN (R496). Binds an I/O host to the sender. -/
  | ioOpen (m : Msg)
  /-- IO_CLOSE (R504). Unbinds an I/O host, aborting commands in flight. -/
  | ioClose (m : Msg)
  /-- VNIC_OPEN (R502). Opens a virtual network interface. -/
  | vnicOpen (m : Msg)
  /-- VNIC_CLOSE (R504). Closes a virtual network interface. -/
  | vnicClose (m : Msg)
  /-- FW_STAGE (R380). Stages a signed Afzan image in the other slot. -/
  | fwStage (m : Msg)
  /-- FW_ACTIVATE (R381). Requests activation of the staged image or a revert. -/
  | fwActivate (m : Msg)
  /-- FW_COMMIT (R384). Commits the running slot and advances rollback fuses. -/
  | fwCommit (m : Msg)
  /-- UCODE_LOAD (R390). Loads new leaf microcode. -/
  | ucodeLoad (m : Msg)
  /-- CAL_LOAD (R391). Loads a signed calibration table. -/
  | calLoad (m : Msg)
  /-- CADDY_MARK (R521). Writes a user mark into the Caddy and returns its status. -/
  | caddyMark (m : Msg)
  /-- CADDY_FLUSH (R521). Flushes the Caddy to flash immediately. -/
  | caddyFlush (m : Msg)
  /-- RESET (R513). GS or GX requests a reset of scope 1–4. -/
  | reset (m : Msg)
  /-- VDD_LEAF_REACHES_SETTING (R41). VDD_LEAF finishes its ramp to a new setting, and the faster divider then takes effect on a common root edge; leaving Hush, the leaf clocks restart at /16 at this point. -/
  | vddLeafReachesSetting
  /-- PIPE_LINK_IDLE (R282). A stopping pipe ends scan-out at the end of the current line (NOW), drives and releases its link idle, and PIPE_STOP answers OK. -/
  | pipeLinkIdle (pipe : Fin 6)
  /-- HARTS_STOP (R430). The old world stops the harts of a cluster that is changing world, and the Kettle continues with steps 2 to 5 of Table 14.4. -/
  | hartsStop (cluster : Fin 4)
  /-- SECURE_RESTART_DONE (R435). The secure restart finishes reading, checking and measuring the image, then releases the secure harts or ends DENIED. -/
  | secureRestartDone (imageOk : Bool)
  /-- IMMEDIATE_FLUSH_DONE (R519). An immediate Caddy flush to xSPI flash completes, within 6 ms, so CADDY_FLUSH answers OK and Park entry may continue. -/
  | immediateFlushDone
  /-- TSN_LINK_CHANGE (R476). An external Ethernet port's link goes down or comes up, or its gPTP port role changes, and event 0x600B is written. -/
  | tsnLinkChange (port : Fin 12) (up : Bool) (speed role : BitVec 8)
  /-- CSI_LANE_SYNC_LOST (R329). A CSI-2 receiver loses lane synchronisation within a frame and writes event 0x9001 with kind 3. -/
  | csiLaneSyncLost (stream : Fin 16)
  /-- CAN_BUS_FAULT (R487). An integrated transceiver finds CANH or CANL shorted to battery or ground while recessive, or finds that such a fault has cleared. -/
  | canBusFault (ctrl : Fin 12) (f : CanBusFault)
  /-- CAN_OPEN_LOAD (R487). No bit is received on a CAN bus for 1 s after TXD was sent, and OPEN_LOAD is reported. -/
  | canOpenLoad (ctrl : Fin 12)
  /-- CAN_TRANSMITTER_RETRY (R487). Every 10 ms a transmitter turned off for a short to battery is retried. -/
  | canTransmitterRetry (ctrl : Fin 12)
  /-- LAMP_OFF_DIAG (R484). An off lamp output with DIAG_OFF is tested with a pull-down and then a pull-up, finding SHORT_TO_GROUND or OPEN_LOAD. -/
  | lampOffDiag (ch : Fin 12) (downMv upMv : Nat)
  /-- SAFETY_ISLAND_HEARTBEAT_MISS (R415). A safety-island pair misses its 1 ms heartbeat from the Kettle or from the other pair, and can assert FAULT_N. -/
  | safetyIslandHeartbeatMiss (pair : Fin 2) (fromKettle : Bool)
deriving DecidableEq, Repr

end Sys2Proof
end

