-- ==== Sys2Proof/WellFormed.lean ====
section
/-! DEFINITION. Which commands are well formed: a station instruction with no reserved field in use (R152 to R157,
R256), and a bus transaction of a legal size (R31, R79). Every other command is well formed as its type is. -/

namespace Sys2Proof

/-- Whether a register number is even, as a register pair needs (R154, R156). -/
def evenReg (r : BitVec 5) : Bool := !r.getLsbD 0

/-- A predicate number in an R-format destination: rd[4:3] = 0 (Table 5.8). -/
def predReg (r : BitVec 5) : Bool := decide (r.toNat < 8)

/-- A bus transaction: 1 to 64 bytes within one 64-byte line, and a write carries its bytes (R31, R79). -/
def Access.wf (t : Access) : Bool :=
  decide (1 ≤ t.len) && decide (t.addr.toNat % 64 + t.len ≤ 64) && decide (t.data.length = if t.write then t.len else 0)

/-- Well-formedness of a command. -/
def Instr.wf (i : Instr) : Bool :=
  match i with
  | .peq _ rd _ _ | .pne _ rd _ _ | .plt _ rd _ _ | .pltu _ rd _ _ => predReg rd
  | .lli _ _ imm => decide (imm.toNat < 2 ^ 15)
  | .ld _ rd _ _ | .sd _ rd _ _ | .qwait _ rd _ _ => evenReg rd
  | .lwx _ _ base _ | .swx _ _ base _ => evenReg base
  | .viadd _ _ _ _ rm | .visub _ _ _ _ rm | .vimul _ _ _ _ rm | .viadds _ _ _ _ rm | .visubs _ _ _ _ rm
  | .vsll _ _ _ _ rm | .vsrl _ _ _ _ rm | .vsra _ _ _ _ rm => rm == 0
  | .vldr _ _ _ _ fmt _ _ | .vstr _ _ _ _ fmt _ _ => decide (fmt.toNat < 14)
  | .vldc _ _ _ _ fmt _ _ | .vstc _ _ _ _ fmt _ _ => decide (fmt.toNat < 2)
  | .vlda _ _ _ rs2 fmt sat rm | .vsta _ _ _ rs2 fmt sat rm => rs2 == 0 && fmt == 0 && !sat && rm == 0
  | .targetAccess t => t.wf
  | _ => true

end Sys2Proof
end

