-- ==== Sys2Proof/Decode.lean ====
section
/-! DEFINITION. The station-instruction words (R152 to R157, R256): a decoder, total on 32-bit words, that answers none
for a reserved encoding, and an encoder. The commands of the part itself carry no bits (no row of opcode_table.json has
any), so `decodeTableWord` answers none. -/

namespace Sys2Proof

/-! ### Fields of Table 5.6 -/

def fcls (x : Word) : BitVec 4 := x.extractLsb' 28 4
def fop (x : Word) : BitVec 6 := x.extractLsb' 22 6
def fa (x : Word) : BitVec 5 := x.extractLsb' 17 5
def fb (x : Word) : BitVec 5 := x.extractLsb' 12 5
def fc (x : Word) : BitVec 5 := x.extractLsb' 7 5
def fi (x : Word) : BitVec 12 := x.extractLsb' 0 12
def fu (x : Word) : BitVec 17 := x.extractLsb' 0 17
def fp (x : Word) : BitVec 3 := x.extractLsb' 19 3
def fs (x : Word) : Bool := x.getLsbD 18
def fo (x : Word) : BitVec 18 := x.extractLsb' 0 18
def frm (x : Word) : BitVec 2 := x.extractLsb' 5 2
def ffmt (x : Word) : BitVec 4 := x.extractLsb' 3 4
def fsat (x : Word) : Bool := x.getLsbD 2
def frm0 (x : Word) : BitVec 2 := x.extractLsb' 0 2
def ft (x : Word) : BitVec 4 := x.extractLsb' 13 4
def ftl (x : Word) : Bool := x.getLsbD 12
def fcl (x : Word) : Bool := x.getLsbD 11
def fqn (x : Word) : BitVec 8 := x.extractLsb' 4 8
def fqp (x : Word) : BitVec 3 := x.extractLsb' 1 3
def flo (x : Word) : Bool := x.getLsbD 0
def fn (x : Word) : BitVec 4 := x.extractLsb' 18 4
def fcnt (x : Word) : BitVec 6 := x.extractLsb' 12 6
def lo5 (x : Word) : BitVec 5 := x.extractLsb' 0 5
def lo7 (x : Word) : BitVec 7 := x.extractLsb' 0 7
def lo11 (x : Word) : BitVec 11 := x.extractLsb' 0 11
def lo12 (x : Word) : BitVec 12 := x.extractLsb' 0 12
def lo13 (x : Word) : BitVec 13 := x.extractLsb' 0 13
def lo17 (x : Word) : BitVec 17 := x.extractLsb' 0 17
def lo18 (x : Word) : BitVec 18 := x.extractLsb' 0 18
def lo22 (x : Word) : BitVec 22 := x.extractLsb' 0 22

/-! ### Encoders, one per format of Table 5.6 -/

def encR (cls : BitVec 4) (op : BitVec 6) (a b c : BitVec 5) : Word := cls ++ op ++ a ++ b ++ c ++ 0#7
def encI (cls : BitVec 4) (op : BitVec 6) (a b : BitVec 5) (i : BitVec 12) : Word := cls ++ op ++ a ++ b ++ i
def encU (cls : BitVec 4) (op : BitVec 6) (a : BitVec 5) (u : BitVec 17) : Word := cls ++ op ++ a ++ u
def encB (cls : BitVec 4) (op : BitVec 6) (p : BitVec 3) (s : Bool) (o : BitVec 18) : Word :=
  cls ++ op ++ p ++ BitVec.ofBool s ++ o
def encV (cls : BitVec 4) (op : BitVec 6) (a b c : BitVec 5) (rm : BitVec 2) : Word := cls ++ op ++ a ++ b ++ c ++ rm ++ 0#5
def encM (cls : BitVec 4) (op : BitVec 6) (a b c : BitVec 5) (f : BitVec 4) (st : Bool) (rm : BitVec 2) : Word :=
  cls ++ op ++ a ++ b ++ c ++ f ++ BitVec.ofBool st ++ rm
def encX (cls : BitVec 4) (op : BitVec 6) (a : BitVec 5) (t : BitVec 4) (tl cl : Bool) : Word :=
  cls ++ op ++ a ++ t ++ BitVec.ofBool tl ++ BitVec.ofBool cl ++ 0#11
def encQ (cls : BitVec 4) (op : BitVec 6) (a b : BitVec 5) (qn : BitVec 8) (p : BitVec 3) : Word :=
  cls ++ op ++ a ++ b ++ qn ++ p ++ 0#1
def encS (cls : BitVec 4) (op : BitVec 6) (n : BitVec 4) (c : BitVec 6) : Word := cls ++ op ++ n ++ c ++ 0#12

/-! ### The decoder -/

/-- Class 0x0 of Table 5.8. -/
def decScalar (w : Thr) (x : Word) : Option Instr :=
  match (fop x).toNat with
  | 0x00 => if lo7 x == 0 then some (.add w (fa x) (fb x) (fc x)) else none
  | 0x01 => if lo7 x == 0 then some (.sub w (fa x) (fb x) (fc x)) else none
  | 0x02 => if lo7 x == 0 then some (.and w (fa x) (fb x) (fc x)) else none
  | 0x03 => if lo7 x == 0 then some (.or w (fa x) (fb x) (fc x)) else none
  | 0x04 => if lo7 x == 0 then some (.xor w (fa x) (fb x) (fc x)) else none
  | 0x05 => if lo7 x == 0 then some (.sll w (fa x) (fb x) (fc x)) else none
  | 0x06 => if lo7 x == 0 then some (.srl w (fa x) (fb x) (fc x)) else none
  | 0x07 => if lo7 x == 0 then some (.sra w (fa x) (fb x) (fc x)) else none
  | 0x08 => if lo7 x == 0 then some (.mul w (fa x) (fb x) (fc x)) else none
  | 0x09 => if lo7 x == 0 then some (.mulhu w (fa x) (fb x) (fc x)) else none
  | 0x0A => if lo7 x == 0 then some (.min w (fa x) (fb x) (fc x)) else none
  | 0x0B => if lo7 x == 0 then some (.max w (fa x) (fb x) (fc x)) else none
  | 0x10 => if lo7 x == 0 then some (.peq w (fa x) (fb x) (fc x)) else none
  | 0x11 => if lo7 x == 0 then some (.pne w (fa x) (fb x) (fc x)) else none
  | 0x12 => if lo7 x == 0 then some (.plt w (fa x) (fb x) (fc x)) else none
  | 0x13 => if lo7 x == 0 then some (.pltu w (fa x) (fb x) (fc x)) else none
  | _ => none

/-- Class 0x1 of Table 5.8. -/
def decImm (w : Thr) (x : Word) : Option Instr :=
  match (fop x).toNat with
  | 0x00 => some (.addi w (fa x) (fb x) (fi x))
  | 0x02 => some (.andi w (fa x) (fb x) (fi x))
  | 0x03 => some (.ori w (fa x) (fb x) (fi x))
  | 0x04 => some (.xori w (fa x) (fb x) (fi x))
  | 0x05 => some (.slli w (fa x) (fb x) (fi x))
  | 0x06 => some (.srli w (fa x) (fb x) (fi x))
  | 0x07 => some (.srai w (fa x) (fb x) (fi x))
  | 0x08 => some (.lui w (fa x) (fu x))
  | 0x09 => some (.lli w (fa x) (fu x))
  | _ => none

/-- Class 0x2 of Table 5.8. -/
def decScalMem (w : Thr) (x : Word) : Option Instr :=
  match (fop x).toNat with
  | 0x00 => some (.lb w (fa x) (fb x) (fi x))
  | 0x01 => some (.lbu w (fa x) (fb x) (fi x))
  | 0x02 => some (.lh w (fa x) (fb x) (fi x))
  | 0x03 => some (.lhu w (fa x) (fb x) (fi x))
  | 0x04 => some (.lw w (fa x) (fb x) (fi x))
  | 0x05 => some (.ld w (fa x) (fb x) (fi x))
  | 0x08 => some (.sb w (fa x) (fb x) (fi x))
  | 0x09 => some (.sh w (fa x) (fb x) (fi x))
  | 0x0A => some (.sw w (fa x) (fb x) (fi x))
  | 0x0B => some (.sd w (fa x) (fb x) (fi x))
  | 0x10 => some (.lwx w (fa x) (fb x) (fi x))
  | 0x11 => some (.swx w (fa x) (fb x) (fi x))
  | _ => none

/-- Class 0x3 of Table 5.8. -/
def decCtrl (w : Thr) (x : Word) : Option Instr :=
  match (fop x).toNat with
  | 0x00 => some (.br w (fp x) (fs x) (fo x))
  | 0x01 => some (.jal w (fa x) (fu x))
  | 0x02 => if lo12 x == 0 then some (.jr w (fa x) (fb x)) else none
  | _ => none

/-- Class 0x4 of Table 5.8. -/
def decVec (w : Thr) (x : Word) : Option Instr :=
  match (fop x).toNat with
  | 0x00 => if lo5 x == 0 then some (.vadd w (fa x) (fb x) (fc x) (frm x)) else none
  | 0x01 => if lo5 x == 0 then some (.vsub w (fa x) (fb x) (fc x) (frm x)) else none
  | 0x02 => if lo5 x == 0 then some (.vmul w (fa x) (fb x) (fc x) (frm x)) else none
  | 0x03 => if lo5 x == 0 then some (.vfma w (fa x) (fb x) (fc x) (frm x)) else none
  | 0x04 => if lo5 x == 0 then some (.vmin w (fa x) (fb x) (fc x) (frm x)) else none
  | 0x05 => if lo5 x == 0 then some (.vmax w (fa x) (fb x) (fc x) (frm x)) else none
  | 0x08 => if lo5 x == 0 then some (.viadd w (fa x) (fb x) (fc x) (frm x)) else none
  | 0x09 => if lo5 x == 0 then some (.visub w (fa x) (fb x) (fc x) (frm x)) else none
  | 0x0A => if lo5 x == 0 then some (.vimul w (fa x) (fb x) (fc x) (frm x)) else none
  | 0x0B => if lo5 x == 0 then some (.viadds w (fa x) (fb x) (fc x) (frm x)) else none
  | 0x0C => if lo5 x == 0 then some (.visubs w (fa x) (fb x) (fc x) (frm x)) else none
  | 0x0D => if lo5 x == 0 then some (.vsll w (fa x) (fb x) (fc x) (frm x)) else none
  | 0x0E => if lo5 x == 0 then some (.vsrl w (fa x) (fb x) (fc x) (frm x)) else none
  | 0x0F => if lo5 x == 0 then some (.vsra w (fa x) (fb x) (fc x) (frm x)) else none
  | 0x10 => if lo5 x == 0 && fc x == 0 then some (.vrsum w (fa x) (fb x) (frm x)) else none
  | 0x11 => if lo5 x == 0 && fc x == 0 then some (.vrmax w (fa x) (fb x) (frm x)) else none
  | 0x12 => if lo12 x == 0 then some (.vbc w (fa x) (fb x)) else none
  | 0x13 => if lo12 x == 0 then some (.vmovs w (fa x) (fb x)) else none
  | _ => none

/-- Class 0x5 of Table 5.8. -/
def decVecMem (w : Thr) (x : Word) : Option Instr :=
  match (fop x).toNat with
  | 0x00 => some (.vldr w (fa x) (fb x) (fc x) (ffmt x) (fsat x) (frm0 x))
  | 0x01 => some (.vldc w (fa x) (fb x) (fc x) (ffmt x) (fsat x) (frm0 x))
  | 0x02 => some (.vlda w (fa x) (fb x) (fc x) (ffmt x) (fsat x) (frm0 x))
  | 0x04 => some (.vstr w (fa x) (fb x) (fc x) (ffmt x) (fsat x) (frm0 x))
  | 0x05 => some (.vstc w (fa x) (fb x) (fc x) (ffmt x) (fsat x) (frm0 x))
  | 0x06 => some (.vsta w (fa x) (fb x) (fc x) (ffmt x) (fsat x) (frm0 x))
  | _ => none

/-- Class 0x6 of Table 5.8. -/
def decSfu (w : Thr) (x : Word) : Option Instr :=
  match (fop x).toNat with
  | 0x00 => if lo12 x == 0 then some (.sexp2 w (fa x) (fb x)) else none
  | 0x01 => if lo12 x == 0 then some (.slog2 w (fa x) (fb x)) else none
  | 0x02 => if lo12 x == 0 then some (.srcp w (fa x) (fb x)) else none
  | 0x03 => if lo12 x == 0 then some (.srsq w (fa x) (fb x)) else none
  | 0x04 => if lo12 x == 0 then some (.ssqrt w (fa x) (fb x)) else none
  | 0x05 => if lo12 x == 0 then some (.ssin w (fa x) (fb x)) else none
  | 0x06 => if lo12 x == 0 then some (.scos w (fa x) (fb x)) else none
  | 0x07 => if lo12 x == 0 then some (.stanh w (fa x) (fb x)) else none
  | 0x08 => if lo12 x == 0 then some (.ssig w (fa x) (fb x)) else none
  | _ => none

/-- Class 0x7 of Table 5.8. -/
def decMat (w : Thr) (x : Word) : Option Instr :=
  match (fop x).toNat with
  | 0x00 => if lo11 x == 0 then some (.mma w (fa x) (ft x) (ftl x) (fcl x)) else none
  | 0x01 => if lo11 x == 0 && !fcl x then some (.drain w (fa x) (ft x) (ftl x)) else none
  | 0x02 => if lo11 x == 0 && !fcl x && ft x == 0 then some (.accst w (fa x) (ftl x)) else none
  | _ => none

/-- Class 0x8 of Table 5.8. -/
def decDma (w : Thr) (x : Word) : Option Instr :=
  match (fop x).toNat with
  | 0x00 => if lo17 x == 0 then some (.dma w (fa x)) else none
  | _ => none

/-- Class 0x9 of Table 5.8. -/
def decQueue (w : Thr) (x : Word) : Option Instr :=
  match (fop x).toNat with
  | 0x00 => if !flo x && fqp x == 0 then some (.qpush w (fa x) (fb x) (fqn x)) else none
  | 0x01 => if !flo x && fqp x == 0 then some (.qpop w (fa x) (fb x) (fqn x)) else none
  | 0x02 => if !flo x then some (.qtry w (fa x) (fb x) (fqn x) (fqp x)) else none
  | 0x03 => if !flo x && fqp x == 0 then some (.qwait w (fa x) (fb x) (fqn x)) else none
  | 0x04 => if !flo x && fqp x == 0 then some (.qret w (fa x) (fb x) (fqn x)) else none
  | 0x05 => if !flo x && fqp x == 0 then some (.qlen w (fa x) (fb x) (fqn x)) else none
  | _ => none

/-- Class 0xA of Table 5.8. -/
def decSync (w : Thr) (x : Word) : Option Instr :=
  match (fop x).toNat with
  | 0x00 => if lo18 x == 0 then some (.wait w (fn x)) else none
  | 0x01 => if lo12 x == 0 then some (.bar w (fn x) (fcnt x)) else none
  | 0x02 => if lo22 x == 0 then some (.stepEnd w) else none
  | 0x03 => if lo22 x == 0 then some (.halt w) else none
  | _ => none

/-- Class 0xB of Table 9.3. -/
def decRaster (w : Thr) (x : Word) : Option Instr :=
  match (fop x).toNat with
  | 0x00 => if lo13 x == 0 then some (.rbinw w (fa x) (ft x)) else none
  | 0x01 => if lo22 x == 0 then some (.rdraw w) else none
  | 0x02 => if lo17 x == 0 then some (.rbin w (fa x)) else none
  | 0x03 => if lo13 x == 0 then some (.rload w (fa x) (ft x)) else none
  | 0x04 => if lo13 x == 0 then some (.rsetup w (fa x) (ft x)) else none
  | 0x05 => if lo12 x == 0 then some (.rfrag w (fa x) (fb x)) else none
  | 0x06 => if lo7 x == 0 then some (.rtex w (fa x) (fb x) (fc x)) else none
  | 0x07 => if lo12 x == 0 then some (.rdepth w (fa x) (fb x)) else none
  | 0x08 => if lo7 x == 0 then some (.rblend w (fa x) (fb x) (fc x)) else none
  | 0x09 => if lo13 x == 0 then some (.rstore w (fa x) (ft x)) else none
  | _ => none

/-- The instruction that a word spells by Tables 5.6, 5.8 and 9.3, before the checks on the values of its fields. -/
def decFields (w : Thr) (x : Word) : Option Instr :=
  match (fcls x).toNat with
  | 0 => decScalar w x
  | 1 => decImm w x
  | 2 => decScalMem w x
  | 3 => decCtrl w x
  | 4 => decVec w x
  | 5 => decVecMem w x
  | 6 => decSfu w x
  | 7 => decMat w x
  | 8 => decDma w x
  | 9 => decQueue w x
  | 10 => decSync w x
  | 11 => decRaster w x
  | _ => none

/-- The instruction that a station word spells; none for a reserved encoding (R152). -/
def decodeStation (w : Thr) (x : Word) : Option Instr := (decFields w x).filter Instr.wf

/-- The word of a station instruction (Tables 5.6, 5.8, 9.3); none for a command that is no station instruction. -/
def encodeStation (i : Instr) : Option Word :=
  match i with
  | .add _ a b c => some (encR 0 0 a b c)
  | .sub _ a b c => some (encR 0 1 a b c)
  | .and _ a b c => some (encR 0 2 a b c)
  | .or _ a b c => some (encR 0 3 a b c)
  | .xor _ a b c => some (encR 0 4 a b c)
  | .sll _ a b c => some (encR 0 5 a b c)
  | .srl _ a b c => some (encR 0 6 a b c)
  | .sra _ a b c => some (encR 0 7 a b c)
  | .mul _ a b c => some (encR 0 8 a b c)
  | .mulhu _ a b c => some (encR 0 9 a b c)
  | .min _ a b c => some (encR 0 10 a b c)
  | .max _ a b c => some (encR 0 11 a b c)
  | .peq _ a b c => some (encR 0 16 a b c)
  | .pne _ a b c => some (encR 0 17 a b c)
  | .plt _ a b c => some (encR 0 18 a b c)
  | .pltu _ a b c => some (encR 0 19 a b c)
  | .addi _ a b i => some (encI 1 0 a b i)
  | .andi _ a b i => some (encI 1 2 a b i)
  | .ori _ a b i => some (encI 1 3 a b i)
  | .xori _ a b i => some (encI 1 4 a b i)
  | .slli _ a b i => some (encI 1 5 a b i)
  | .srli _ a b i => some (encI 1 6 a b i)
  | .srai _ a b i => some (encI 1 7 a b i)
  | .lui _ a u => some (encU 1 8 a u)
  | .lli _ a u => some (encU 1 9 a u)
  | .lb _ a b i => some (encI 2 0 a b i)
  | .lbu _ a b i => some (encI 2 1 a b i)
  | .lh _ a b i => some (encI 2 2 a b i)
  | .lhu _ a b i => some (encI 2 3 a b i)
  | .lw _ a b i => some (encI 2 4 a b i)
  | .ld _ a b i => some (encI 2 5 a b i)
  | .sb _ a b i => some (encI 2 8 a b i)
  | .sh _ a b i => some (encI 2 9 a b i)
  | .sw _ a b i => some (encI 2 10 a b i)
  | .sd _ a b i => some (encI 2 11 a b i)
  | .lwx _ a b i => some (encI 2 16 a b i)
  | .swx _ a b i => some (encI 2 17 a b i)
  | .br _ p s o => some (encB 3 0 p s o)
  | .jal _ a u => some (encU 3 1 a u)
  | .jr _ a b => some (encR 3 2 a b 0)
  | .vadd _ a b c rm => some (encV 4 0 a b c rm)
  | .vsub _ a b c rm => some (encV 4 1 a b c rm)
  | .vmul _ a b c rm => some (encV 4 2 a b c rm)
  | .vfma _ a b c rm => some (encV 4 3 a b c rm)
  | .vmin _ a b c rm => some (encV 4 4 a b c rm)
  | .vmax _ a b c rm => some (encV 4 5 a b c rm)
  | .viadd _ a b c rm => some (encV 4 8 a b c rm)
  | .visub _ a b c rm => some (encV 4 9 a b c rm)
  | .vimul _ a b c rm => some (encV 4 10 a b c rm)
  | .viadds _ a b c rm => some (encV 4 11 a b c rm)
  | .visubs _ a b c rm => some (encV 4 12 a b c rm)
  | .vsll _ a b c rm => some (encV 4 13 a b c rm)
  | .vsrl _ a b c rm => some (encV 4 14 a b c rm)
  | .vsra _ a b c rm => some (encV 4 15 a b c rm)
  | .vrsum _ a b rm => some (encV 4 16 a b 0 rm)
  | .vrmax _ a b rm => some (encV 4 17 a b 0 rm)
  | .vbc _ a b => some (encR 4 18 a b 0)
  | .vmovs _ a b => some (encR 4 19 a b 0)
  | .vldr _ a b c f st rm => some (encM 5 0 a b c f st rm)
  | .vldc _ a b c f st rm => some (encM 5 1 a b c f st rm)
  | .vlda _ a b c f st rm => some (encM 5 2 a b c f st rm)
  | .vstr _ a b c f st rm => some (encM 5 4 a b c f st rm)
  | .vstc _ a b c f st rm => some (encM 5 5 a b c f st rm)
  | .vsta _ a b c f st rm => some (encM 5 6 a b c f st rm)
  | .sexp2 _ a b => some (encR 6 0 a b 0)
  | .slog2 _ a b => some (encR 6 1 a b 0)
  | .srcp _ a b => some (encR 6 2 a b 0)
  | .srsq _ a b => some (encR 6 3 a b 0)
  | .ssqrt _ a b => some (encR 6 4 a b 0)
  | .ssin _ a b => some (encR 6 5 a b 0)
  | .scos _ a b => some (encR 6 6 a b 0)
  | .stanh _ a b => some (encR 6 7 a b 0)
  | .ssig _ a b => some (encR 6 8 a b 0)
  | .mma _ a t tl cl => some (encX 7 0 a t tl cl)
  | .drain _ a t tl => some (encX 7 1 a t tl false)
  | .accst _ a tl => some (encX 7 2 a 0 tl false)
  | .dma _ a => some (encX 8 0 a 0 false false)
  | .qpush _ a b qn => some (encQ 9 0 a b qn 0)
  | .qpop _ a b qn => some (encQ 9 1 a b qn 0)
  | .qtry _ a b qn p => some (encQ 9 2 a b qn p)
  | .qwait _ a b qn => some (encQ 9 3 a b qn 0)
  | .qret _ a b qn => some (encQ 9 4 a b qn 0)
  | .qlen _ a b qn => some (encQ 9 5 a b qn 0)
  | .wait _ n => some (encS 10 0 n 0)
  | .bar _ n c => some (encS 10 1 n c)
  | .stepEnd _ => some (encS 10 2 0 0)
  | .halt _ => some (encS 10 3 0 0)
  | .rbinw _ a t => some (encX 11 0 a t false false)
  | .rdraw _ => some (encS 11 1 0 0)
  | .rbin _ a => some (encX 11 2 a 0 false false)
  | .rload _ a t => some (encX 11 3 a t false false)
  | .rsetup _ a t => some (encX 11 4 a t false false)
  | .rfrag _ a b => some (encR 11 5 a b 0)
  | .rtex _ a b c => some (encR 11 6 a b c)
  | .rdepth _ a b => some (encR 11 7 a b 0)
  | .rblend _ a b c => some (encR 11 8 a b c)
  | .rstore _ a t => some (encX 11 9 a t false false)
  | _ => none

/-- The thread that issues a station instruction. -/
def thrOf (i : Instr) : Thr :=
  match i with
  | .stepEnd w | .halt w | .rdraw w => w
  | .dma w _ | .wait w _ | .rbin w _ => w
  | .lui w _ _ | .lli w _ _ | .jal w _ _ | .jr w _ _ | .vbc w _ _ | .vmovs w _ _ | .sexp2 w _ _ | .slog2 w _ _ | .srcp w _ _
  | .srsq w _ _ | .ssqrt w _ _ | .ssin w _ _ | .scos w _ _ | .stanh w _ _ | .ssig w _ _ | .accst w _ _ | .bar w _ _
  | .rbinw w _ _ | .rload w _ _ | .rsetup w _ _ | .rfrag w _ _ | .rdepth w _ _ | .rstore w _ _ => w
  | .add w _ _ _ | .sub w _ _ _ | .and w _ _ _ | .or w _ _ _ | .xor w _ _ _ | .sll w _ _ _ | .srl w _ _ _ | .sra w _ _ _
  | .mul w _ _ _ | .mulhu w _ _ _ | .min w _ _ _ | .max w _ _ _ | .peq w _ _ _ | .pne w _ _ _ | .plt w _ _ _ | .pltu w _ _ _
  | .addi w _ _ _ | .andi w _ _ _ | .ori w _ _ _ | .xori w _ _ _ | .slli w _ _ _ | .srli w _ _ _ | .srai w _ _ _
  | .lb w _ _ _ | .lbu w _ _ _ | .lh w _ _ _ | .lhu w _ _ _ | .lw w _ _ _ | .ld w _ _ _ | .sb w _ _ _ | .sh w _ _ _
  | .sw w _ _ _ | .sd w _ _ _ | .lwx w _ _ _ | .swx w _ _ _ | .br w _ _ _ | .vrsum w _ _ _ | .vrmax w _ _ _ | .drain w _ _ _
  | .qpush w _ _ _ | .qpop w _ _ _ | .qwait w _ _ _ | .qret w _ _ _ | .qlen w _ _ _ | .rtex w _ _ _ | .rblend w _ _ _ => w
  | .vadd w _ _ _ _ | .vsub w _ _ _ _ | .vmul w _ _ _ _ | .vfma w _ _ _ _ | .vmin w _ _ _ _ | .vmax w _ _ _ _
  | .viadd w _ _ _ _ | .visub w _ _ _ _ | .vimul w _ _ _ _ | .viadds w _ _ _ _ | .visubs w _ _ _ _ | .vsll w _ _ _ _
  | .vsrl w _ _ _ _ | .vsra w _ _ _ _ | .mma w _ _ _ _ | .qtry w _ _ _ _ => w
  | .vldr w _ _ _ _ _ _ | .vldc w _ _ _ _ _ _ | .vlda w _ _ _ _ _ _ | .vstr w _ _ _ _ _ _ | .vstc w _ _ _ _ _ _
  | .vsta w _ _ _ _ _ _ => w
  | _ => ⟨0, 0⟩

/-- The command that a word spells by the bits of opcode_table.json: no row of the table has bits. -/
def decodeTableWord (_nbits _w : Nat) : Option Instr := none

end Sys2Proof
end

