-- ==== Sys2Proof/Config.lean ====
section
/-! DEFINITION. What the spec leaves open: free values (constants with no body, so that no proof can see them).
Each is named in a row of notes/assumptions. -/

namespace Sys2Proof

/-- A free 32-bit value, one for each number drawn from `State.fresh` (assumption 5). -/
opaque Config.freeWord : Nat → BitVec 32

/-- A free byte, one for each number drawn from `State.fresh` (assumption 5). -/
opaque Config.freeByte : Nat → BitVec 8

/-- A free number below `bound`'s argument is taken by `%` where it is used (assumption 5). -/
opaque Config.freeNat : Nat → Nat

/-- A free choice, one for each number drawn from `State.fresh` (assumption 5). -/
opaque Config.freeBool : Nat → Bool

/-- The special-function unit's result under a leaf microcode version for function `f` and an input code, where Table 4.5 gives a
bound and not the bits (R131); under one version every leaf returns the same bits (R132, assumption 6). -/
opaque Config.sfu : (ucode f : Nat) → BitVec 32 → BitVec 32

/-- VRSUM's result where the order of its additions, which the spec does not state, could matter (R154, assumption 8).
Equal lanes give equal results (R134). -/
opaque Config.vrsum : List (BitVec 32) → BitVec 32

/-- The result of a scalar shift by 32 or more, which the spec does not state, by opcode, value and amount (R154,
assumption 23). -/
opaque Config.shiftOver : Nat → BitVec 32 → BitVec 32 → BitVec 32

/-- The fused VDD_LEAF of each TCLK divider in mV, which each part holds for itself (R44, assumption 12). -/
opaque Config.fusedMv : Nat → Nat

/-- The initiator argument of an event for the safety SPI port (0), the Taster (1) and queue slice n (2 + n), to which
Table 1.9 gives no class (assumption 25). -/
opaque Config.iniCode : Nat → Nat

/-- Place along its side of the mesh of an edge stop, by unit; Table 1.2 gives the side (R18, assumption 121). -/
opaque Config.edgeAt : (unit : Nat) → Nat

/-- Whether a queue slice is one of the eight on the west side (Table 1.2, assumption 121). -/
opaque Config.sliceWest : (slice : Nat) → Bool

/-- Whether an event code that is no error, no fence and no halt carries severity 1, warning, or 0, note (Table 17.5 gives
the meanings and not the codes; assumption 10). -/
opaque Config.isWarning : (code : Nat) → Bool

/-- The severity of event 0x7003 or 0xA044, which more than one meaning of Table 17.5 fits (assumption 10). -/
opaque Config.severity : (code : Nat) → Nat

/-- SOURCE of a refusal at an address behind which no unit of Table 17.10 stands: a reserved range, or DRAM above the usable
end (R541, assumption 106). -/
opaque Config.gapSource : Nat

/-! ### Render passes: the layouts of the pass block, the triangle block, the bin lists and the fragment rings are not given, so
what each of them says is read by these constants (assumption 14). -/

/-- An attachment as a pass block names it. -/
structure Att where
  /-- its image descriptor (32 bytes, Table 9.1) -/
  desc : List (BitVec 8)
  /-- mip level and layer -/
  level : Nat
  layer : Nat
  /-- what RLOAD does: 0 neither, 1 clears, 2 loads -/
  load : Nat
  /-- bytes of a cleared sample -/
  clear : List (BitVec 8)
  /-- RSTORE stores it -/
  store : Bool
  /-- it is stored resolved -/
  resolve : Bool
deriving DecidableEq, Repr, Inhabited

/-- A pass block (R253, R256). -/
structure PassInfo where
  /-- scratchpad offset of the bin buffer -/
  buf : Nat
  /-- scratchpad offset of the fragment ring that RSETUP fills -/
  ring : Nat
  /-- samples per pixel -/
  samples : Nat
  /-- colour attachments, in order -/
  cols : List Att
  /-- depth-stencil attachment -/
  depth : Option Att
deriving DecidableEq, Repr, Inhabited

/-- What a pass block says. -/
opaque Config.passInfo : (block : List (BitVec 8)) → PassInfo

/-- The pass block and the number of bins of pass `n` of a graphics job, by its template's image and its arguments. -/
opaque Config.passBlock : (img : List (BitVec 8)) → (args : List (List (BitVec 8))) → (n : Nat) → List (BitVec 8)
opaque Config.passBins : (img : List (BitVec 8)) → (args : List (List (BitVec 8))) → (n : Nat) → Nat

/-- What a triangle block says: its order key, and the bins that the triangle touches. -/
opaque Config.triInfo : (tri : List (BitVec 8)) → Nat × List Nat

/-- Bytes that a triangle and its list entries take in bin memory, and those that the rest of its draw needs. -/
opaque Config.binBytes : (tri : List (BitVec 8)) → Nat
opaque Config.drawRest : (tri : List (BitVec 8)) → Nat

/-- How many triangles one RSETUP delivers, of those left in a bin. -/
opaque Config.setupTake : (block : List (BitVec 8)) → (bin left : Nat) → Nat

/-- The fragments of a triangle in a bin: pixel, samples covered, depth, and whether its draw is late-test. -/
opaque Config.fragments : (block tri : List (BitVec 8)) → (bin : Nat) → List (Nat × Nat × BitVec 32 × Bool)

/-- Place of a fragment batch in its ring, by the batches delivered before it, and its bytes there. -/
opaque Config.fragOff : (block : List (BitVec 8)) → (bin n : Nat) → Nat
opaque Config.fragBytes : (block : List (BitVec 8)) → (keys pixels covers : List Nat) → List (BitVec 8)

/-- The depth and stencil test of a triangle's state: the stored value and the fragment's depth give whether the sample passes
and the value stored after. -/
opaque Config.depthTest : (block tri : List (BitVec 8)) → (stored : Nat) → (depth : BitVec 32) → Bool × Nat

/-- Blending of a colour into an attachment by a triangle's state: the sample's bytes before, and RGBA. -/
opaque Config.blend : (block tri : List (BitVec 8)) → (att : Nat) → (old : List (BitVec 8)) → (rgba : List (BitVec 32)) → List (BitVec 8)

/-- The bytes of a resolved pixel from those of its samples, by format. -/
opaque Config.resolve : (fmt : Nat) → List (List (BitVec 8)) → List (BitVec 8)

/-- Where sample `i` of a pixel lies behind the pixel's first sample in a multisampled image of a format, by the image's descriptor. -/
opaque Config.sampleAt : (desc : List (BitVec 8)) → (i : Nat) → Nat

/-- The bytes of a sample of a bin as a mid-pass flush renders it, from the keys of the triangles of its list (R258). -/
opaque Config.flushBytes : (block : List (BitVec 8)) → (keys : List Nat) → (att bin pixel sample : Nat) → List (BitVec 8)

/-- The linear value of an sRGB code (R256), and the four channels of element (x, y) of a compressed block (Table 9.2). -/
opaque Config.srgb : (code : Nat) → BitVec 32
opaque Config.texBlock : (fmt : Nat) → (block : List (BitVec 8)) → (x y : Nat) → List (BitVec 32)

/-- The weight between two mip levels in trilinear sampling, by the level register and the lane's coordinates. -/
opaque Config.mipFrac : (level u v : BitVec 32) → BitVec 32

/-- The texel that a coordinate which is no number or infinite names. -/
opaque Config.texCoord : (c : BitVec 32) → Int

/-- Which line of a full texture cache a new line replaces (R100). -/
opaque Config.texVictim : (lines : List Nat) → Nat

/-- Where a station program keeps what report section `type` (1, 2 or 3) of its station reports: offset in the instance's region
and length; none for a station with no such section. The programs' layouts are not given (R179, R211, assumption 15). -/
opaque Config.reportAt : (img : List (BitVec 8)) → (station type : Nat) → Option (Nat × Nat)

/-- Where the placer lays the ring (part 0) or the tile buffers (part 1) of internal queue `qi` in the region of consumer
instance `inst`; the spec leaves it to the placer (R235, assumption 29). -/
opaque Config.placed : (img : List (BitVec 8)) → (qi inst part : Nat) → Nat

/-- ISP stages that the tuning block sets, whose layout the spec does not give (assumption 31): stages 1 and 2 of a pixel of one
exposure, and the value where an exposure has no line; knee, saturation level and exposure ratios of the merge. -/
opaque Config.ispLinear : (tune : List (BitVec 8)) → (dt e : Nat) → (lines : List (Option (List (BitVec 8)))) → (x y : Nat) → Nat
opaque Config.ispNoLine : (tune : List (BitVec 8)) → (e x y : Nat) → Nat
opaque Config.ispKnee : (tune : List (BitVec 8)) → Nat
opaque Config.ispSat : (tune : List (BitVec 8)) → Nat
opaque Config.ispRatio : (tune : List (BitVec 8)) → (e : Nat) → Rat
/-- Stages 4 to 8 of the ISP up to its gamma curve, from the merged values: R, G and B of a pixel (assumption 31). -/
opaque Config.ispColour : (tune : List (BitVec 8)) → (merged : Nat → Nat → Rat) → (x y : Nat) → Rat × Rat × Rat
/-- What the spec does not state of the ISP's output: rounding, chroma beyond the image's edge, alpha, bytes of a tile beyond the
image, and the layout of the statistics (assumption 31). -/
opaque Config.ispUp : Rat → Bool
opaque Config.ispBorder : (tune : List (BitVec 8)) → (cr : Bool) → (x y : Int) → Rat
opaque Config.ispAlpha : BitVec 8
opaque Config.ispPad : (x y : Nat) → BitVec 8
opaque Config.ispStats : (tune : List (BitVec 8)) → (merged : Nat → Nat → Rat) → (i : Nat) → BitVec 8

/-- The fit of a port's conversion from its last 16 snapshots, and of a sensor's from its last 64 pairs: C0, K0 and RATIO. The
method is not given (R303, assumption 32). -/
opaque Config.portFit : List (Nat × Nat) → Nat × Nat × Nat
opaque Config.sensorFit : List (Nat × Nat) → Nat × Nat × Nat

/-- The BT.709 limited-range conversion of a pixel of an NV12 or P010 layer to R, G and B in FP32, from its luma code and the chroma
codes around it. The order of its roundings and the place of the chroma samples are not given (R268, assumption 45). -/
opaque Config.toRgb : (bits y : Nat) → (chroma : Nat → Nat → Nat × Nat) → (px py : Nat) → BitVec 32 × BitVec 32 × BitVec 32

/-- What H.265 makes of a decoder session's pieces, each its record and its bytes: pictures in display order that they complete, the
piece that carries a picture, its samples, its damaged places, its nearest reference picture. H.265 is outside the spec (R278,
assumption 44). -/
opaque Config.decPics : (pieces : List (List (BitVec 8) × List (BitVec 8))) → Nat
opaque Config.decPiece : (pieces : List (List (BitVec 8) × List (BitVec 8))) → (n : Nat) → Nat
opaque Config.decSample : (pieces : List (List (BitVec 8) × List (BitVec 8))) → (concealed : List Bool) → (n plane x y : Nat) → Nat
opaque Config.decDamaged : (pieces : List (List (BitVec 8) × List (BitVec 8))) → (n plane x y : Nat) → Bool
opaque Config.decRef : (pieces : List (List (BitVec 8) × List (BitVec 8))) → (n : Nat) → Option Nat
/-- What an encoder makes: which of the pictures it holds it codes next, and the bytes of its access unit, from the firmware release,
the settings, and the pictures coded so far with their IDR marks (R274, R278, assumption 44). -/
opaque Config.encNext : (settings : List (BitVec 8)) → (coded : Nat) → Nat
opaque Config.encByte : (release : Nat) → (settings : List (BitVec 8)) → (fed : List (List (BitVec 8) × Bool)) → (i : Nat) → BitVec 8

/-- What the spec does not give of the fusion engine's arithmetic (assumption 30): an FP32 result from its operands and the exact value
of its formula; the rotation matrix of a rotation vector other than 0, in the numbers that the engine reaches; a pose before the oldest
of the history; the undistorted coordinate of a pixel off the grid; a measured yaw taken into O, next to a track's yaw; which points of a
scan are looked at first; the plane fitted to map points, with its residual in metres; the pose that a registration ends with, from the
planes kept, the flow vectors and the pose it begins with; the rest of a new track's state and covariance; an extent smoothed in FP16;
the rotation of the list header; and the FP16 deviations of a track entry. -/
opaque Config.fusRound : (operands : List (BitVec 32)) → (exact : Rat) → BitVec 32
opaque Config.rotMat : (w : List Rat) → List (List Rat)
opaque Config.poseBefore : (poses : List (Nat × List (BitVec 32))) → (time : Nat) → List Rat
opaque Config.offGrid : (entry : List (BitVec 8)) → (u v : BitVec 32) → BitVec 32
opaque Config.yawInO : (rot : List (List Rat)) → (yaw near : Rat) → Rat
opaque Config.voxelOrder : (points : List (List (BitVec 32))) → List Nat
opaque Config.planeFit : (near : List (List (BitVec 32))) → List (BitVec 32) × Rat
opaque Config.register : (planes : List (List (BitVec 32) × List (BitVec 32))) → (flows : List (List (BitVec 8) × Nat × Nat × List (List (BitVec 32)))) →
  (start : List Rat) → List (BitVec 32)
opaque Config.fusInit : (record : List (BitVec 8)) → (i : Nat) → BitVec 32
opaque Config.fusHalf : (old new : Nat) → List (BitVec 8)
opaque Config.eulerOf : (w : List Rat) → (i : Nat) → BitVec 32
opaque Config.fusSigma : (state cov : List (BitVec 32)) → (i : Nat) → List (BitVec 8)

/-- Whether the body of a TSN_SET section of a type is malformed; the bodies' layouts are not given (R476, assumption 33). -/
opaque Config.tsnBad : (type : Nat) → List (BitVec 8) → Bool

/-- Field `i` of the body of a TSN_SET section, whose layout is not given (R476, assumption 33). -/
opaque Config.tsnField : List (BitVec 8) → (i : Nat) → Nat

/-- Bytes of an ACF message for a CAN frame with `n` data bytes; the spec names IEEE 1722 and gives no layout (R479,
assumption 34). -/
opaque Config.acfBytes : (n : Nat) → Nat

/-- KIND that a CAN bus fault carries in events 0x6002 and 0x6003, to which no KIND of Table 16.7 applies (R487,
assumption 35). -/
opaque Config.canKind : Nat

/-- Whether a 64 KiB sector of xSPI flash lies in a partition that only Afzan writes; the partition table's layout is not
given (R501, assumption 36). -/
opaque Config.flashOwn : (sector : Nat) → Bool

/-- What the bytes of a frame from a virtual interface carry, and its payload: the layouts of IEEE 1722, IP and UDP are not
given (R503, assumption 38). -/
opaque Config.ethBody : List (BitVec 8) → EthBody

/-- The payload of those bytes (assumption 38). -/
opaque Config.ethPayload : List (BitVec 8) → List (BitVec 8)

/-- Those bytes with IPv4, TCP and UDP checksums computed (R503, assumption 38). -/
opaque Config.ethCsum : List (BitVec 8) → List (BitVec 8)

/-- Version and rollback level of the microcode that an Afzan release carries; the body of an Afzan image is not given
(R390, assumption 39). -/
opaque Config.carriedUcode : (release : Nat) → Nat × Nat

/-- Stepping of the part and of the field die, which each part holds for itself (R522, R493, assumption 40). -/
opaque Config.stepping : Nat

/-- Stepping of the field die in FLD_ID (R493, assumption 40). -/
opaque Config.fieldStepping : BitVec 8

/-- SHA-384 of bytes, which the spec names and does not write out (R436, R440, R446, assumption 58). -/
opaque Config.sha384 : List (BitVec 8) → List (BitVec 8)

/-- Whether both signatures of a signed header verify and both its public keys hash to the fused digests of its key slot, of the
vendor set (0) or the owner set (1); the algorithms and the fuses are not written out (R436, R437, assumption 58). -/
opaque Config.signed : (set : Nat) → (header : List (BitVec 8)) → Bool

/-- A signature of `n` bytes over bytes, by the alias keys of a generation, by the identity keys (generation 0) or by
Waillida (R443, R446, assumption 58). -/
opaque Config.signature : (n who : Nat) → List (BitVec 8) → List (BitVec 8)

/-- What each part holds for itself (R442, R443, R446, assumption 58): 0 SERIAL, 1 the measurement of the ROM, 2 of the microcode
that release `x` of Afzan carries, 3 of that release, 4 and 5 the identity RSA and SLH-DSA public keys, 6 and 7 the alias keys of
generation `x`. -/
opaque Config.ident : (what x : Nat) → List (BitVec 8)

/-- The payloads of GUEST_FREEZE, GUEST_SAVE, GUEST_RESTORE and GUEST_THAW, whose layouts are not given (R242, R245, assumption 59):
whether a LENGTH fits the message, the payload offset of the first malformed field, and the fields: 0 the guest's number, 1 the
address of the image buffer, 2 its size. -/
opaque Config.guestLen : (code len : Nat) → Bool
opaque Config.guestBad : (code : Nat) → List (BitVec 8) → Option Nat
opaque Config.guestField : (code which : Nat) → List (BitVec 8) → Nat

/-- CRC-32C of the bytes (R365, R386). The polynomial is Castagnoli's, which the spec names and does not write out
(assumption 7). -/
def Config.crcPoly : BitVec 32 := 0x82F63B78#32

end Sys2Proof
end

