-- ==== Sys2Proof/Machine/Tab.lean ====
section
/-! DEFINITION. Sparse tables: a list of keys and values with strictly rising keys and no value equal to the default,
so that equal tables are equal data. A key that is not listed reads as the default. Memory is a table of bytes. -/

namespace Sys2Proof.Machine

/-- A sparse table. -/
abbrev Tab (α : Type) := List (Nat × α)

/-- The value at key `k`. -/
def tget {α : Type} [Inhabited α] (t : Tab α) (k : Nat) : α :=
  match t with
  | [] => default
  | (k', v) :: r => if k' = k then v else tget r k

/-- Puts `v` in front of a table whose keys are all above `k`. -/
def tcons {α : Type} [DecidableEq α] [Inhabited α] (k : Nat) (v : α) (t : Tab α) : Tab α :=
  if v = default then t else (k, v) :: t

/-- Puts `v` at key `k` in front of the first key above it, in a table that does not list `k`. -/
def tins {α : Type} [DecidableEq α] [Inhabited α] (k : Nat) (v : α) (t : Tab α) : Tab α :=
  match t with
  | [] => tcons k v []
  | (k', w) :: r => if k < k' then tcons k v ((k', w) :: r) else (k', w) :: tins k v r

/-- The table with `v` at key `k`; the default value removes the entry. -/
def tput {α : Type} [DecidableEq α] [Inhabited α] (t : Tab α) (k : Nat) (v : α) : Tab α := tins k v (t.filter fun e => decide (e.1 ≠ k))

/-- The table with the value at `k` changed by `f`. -/
def tmod {α : Type} [DecidableEq α] [Inhabited α] (t : Tab α) (k : Nat) (f : α → α) : Tab α := tput t k (f (tget t k))

/-- The table with every key in [lo, lo + n) back at its default. -/
def tclear {α : Type} (t : Tab α) (lo n : Nat) : Tab α := t.filter fun e => !(lo ≤ e.1 && e.1 < lo + n)

/-- The table with every listed value changed by `f`; what becomes the default is no longer listed. -/
def tmap {α : Type} [DecidableEq α] [Inhabited α] (f : α → α) (t : Tab α) : Tab α :=
  (t.map fun e => (e.1, f e.2)).filter fun e => decide (e.2 ≠ default)

/-- The keys listed. -/
def tkeys {α : Type} (t : Tab α) : List Nat := t.map (·.1)

/-- The canonical form: keys strictly rising, no entry at the default. -/
def Tab.wf {α : Type} [DecidableEq α] [Inhabited α] (t : Tab α) : Bool :=
  match t with
  | [] => true
  | (k, v) :: r => decide (v ≠ default) && (match r with | [] => true | (k', _) :: _ => decide (k < k')) && Tab.wf r

/-- `n` consecutive values from key `a`. -/
def tread {α : Type} [Inhabited α] (t : Tab α) (a : Nat) : Nat → List α
  | 0 => []
  | n + 1 => tget t a :: tread t (a + 1) n

/-- The table with the values `vs` written from key `a` up. -/
def twrite {α : Type} [DecidableEq α] [Inhabited α] (t : Tab α) (a : Nat) (vs : List α) : Tab α :=
  match vs with
  | [] => t
  | v :: r => twrite (tput t a v) (a + 1) r

end Sys2Proof.Machine
end

