-- ==== Sys2Proof/Machine/State.lean ====
section
/-! DEFINITION. The state of the part, as plain data, and the state after reset. Each field's docstring gives its
width, the file and rule of spec/ that names it and its reset value; the default value of each field IS its reset value,
and `State.reset` is the record of all of them. Fields named "model's own" are bookkeeping of this model (assumption 3). -/

namespace Sys2Proof.Machine

/-- A statistics counter of R11: 48 bits, saturating, with a sticky OVF bit. -/
structure Stat where
  /-- COUNT (48) — 00 R11; reset: 0 -/
  n : Nat := 0
  /-- OVF (1) — 00 R11; reset: 0 -/
  ovf : Bool := false
deriving DecidableEq, Repr, Inhabited

/-- A message whose final answer is outstanding (R361). -/
structure Pend where
  /-- sender of the message (5) — 12 R361; reset: G0 (no message pending) -/
  party : Nat := 0
  /-- TAG of the message (64) — 12 R361; reset: 0 -/
  tag : Nat := 0
  /-- MSG code (16) — 12 R361; reset: 0 -/
  msg : Nat := 0
  /-- whether the final answer goes to the notice queue (1) — 12 R361; reset: 0 -/
  notice : Bool := false
deriving DecidableEq, Repr, Inhabited

/-- The part ordered (Table 0.1). -/
structure Part where
  /-- divider floor fuse (8, 10 or 12) — 00 R2, 02 R39; reset: DESIGN CHOICE 8 (UZT-7165), assumption 4 -/
  floor : Nat := 8
  /-- 64 GiB fitted (1) — 00 R1; reset: DESIGN CHOICE 1 (-64 part), assumption 4 -/
  big : Bool := true
deriving DecidableEq, Repr, Inhabited

/-- A Caddy record (Table 17.5). -/
structure CadRec where
  /-- SEQ (32) — 17 R517; reset: 0 -/
  seq : Nat := 0
  /-- KTIME (64) — 17 R517; reset: 0 -/
  ktime : Nat := 0
  /-- SOURCE (16) — 17 R517; reset: 0 -/
  source : Nat := 0
  /-- CODE (16), 0 in a slot never written — 17 R517; reset: 0 -/
  code : Nat := 0
  /-- PARTY (8) — 17 R517; reset: 0 -/
  party : Nat := 0
  /-- SEVERITY (8) — 17 R517; reset: 0 -/
  sev : Nat := 0
  /-- ARGS (12 bytes) — 17 R517; reset: none -/
  args : List Byte := []
deriving DecidableEq, Repr, Inhabited

/-- The Caddy (R516 to R521). -/
structure Caddy where
  /-- ring of 65,536 records, by slot (32 bytes each) — 17 R516; reset: no slot written -/
  ring : Tab CadRec := []
  /-- next sequence number (32) — 17 R516; reset: 0 -/
  next : Nat := 0
  /-- records written since the ring last started empty (model's own) — 17 R516; reset: 0 -/
  count : Nat := 0
  /-- FROZEN (1) — 17 R518; reset: 0 -/
  frozen : Bool := false
  /-- slot of the freeze marker (16) — 17 R518; reset: 0 -/
  marker : Nat := 0
  /-- records written since the freeze (32) — 17 R518; reset: 0 -/
  tail : Nat := 0
  /-- LOST (48 + OVF) — 17 R521; reset: 0 -/
  lost : Stat := {}
  /-- FLASH_LOST (48 + OVF) — 17 R521; reset: 0 -/
  flashLost : Stat := {}
  /-- next sequence number to be flushed (32) — 17 R519; reset: 0 -/
  unflushed : Nat := 0
  /-- FLUSHED: SEQ of the newest record in flash (32) — 17 R521; reset: 0 -/
  flushed : Nat := 0
  /-- CADDY partition of xSPI flash, by position in the 16 MiB circle (32 bytes each) — 17 R519; reset: empty -/
  flash : Tab CadRec := []
  /-- write point of the circle, in records (19) — 17 R519; reset: 0 -/
  flashAt : Nat := 0
  /-- Kettle time of the last flush (64) — 17 R519; reset: 0 -/
  lastFlush : Nat := 0
  /-- an immediate flush is under way (1) — 17 R519; reset: 0 -/
  flushing : Bool := false
  /-- CADDY_FLUSH messages that wait for the flush — 17 R521; reset: none -/
  flushPend : List Pend := []
deriving DecidableEq, Repr, Inhabited

/-- Where one interrupt source of a party goes (R364). -/
structure IrqEntry where
  /-- TARGET hart (4) — 12 R364; reset: 0 -/
  hart : Nat := 0
  /-- PCIE (1) — 12 R364; reset: 0 -/
  pcie : Bool := false
  /-- ENABLE (1) — 12 R364; reset: 0 -/
  enable : Bool := false
  /-- IDENTITY (16) — 12 R364; reset: 0 -/
  ident : Nat := 0
deriving DecidableEq, Repr, Inhabited

/-- A party's Kettle alarm (R377). -/
structure Alarm where
  /-- an alarm is set (1) — 12 R377; reset: 0 -/
  set : Bool := false
  /-- TIME (64) — 12 R377; reset: 0 -/
  time : Nat := 0
  /-- WAKE (1) — 12 R377; reset: 0 -/
  wake : Bool := false
  /-- TAG of the ALARM_SET (64) — 12 R377; reset: 0 -/
  tag : Nat := 0
deriving DecidableEq, Repr, Inhabited

/-- A DRAM range of a grant (Table 8.1). -/
structure DramRange where
  /-- first 64 MiB granule (16) — 08 R212; reset: 0 -/
  first : Nat := 0
  /-- granule count (16) — 08 R212; reset: 0 -/
  count : Nat := 0
  /-- JOB_POOL (1) — 08 R212; reset: 0 -/
  pool : Bool := false
deriving DecidableEq, Repr, Inhabited

/-- A queue block of a grant (Table 8.1). -/
structure QBlock where
  /-- block number (12) — 08 R212; reset: 0 -/
  block : Nat := 0
  /-- JOB_POOL (1) — 08 R212; reset: 0 -/
  pool : Bool := false
deriving DecidableEq, Repr, Inhabited

/-- A party's grant (Table 8.1). -/
structure Grant where
  /-- CADDY_READ (1) — 08 R212; reset: 0 -/
  caddyRead : Bool := false
  /-- LEAVES (16) — 08 R212; reset: 0 -/
  leaves : Nat := 0
  /-- CG_MASK (8) — 08 R212; reset: 0 -/
  cg : Nat := 0
  /-- ESTATES (8) — 08 R212; reset: 0 -/
  estates : Nat := 0
  /-- WAY_MASK (16) — 08 R212; reset: 0 -/
  ways : Nat := 0
  /-- RANGE_MASK (16) — 08 R212; reset: 0 -/
  ranges : Nat := 0
  /-- queue blocks — 08 R212; reset: none -/
  qblocks : List QBlock := []
  /-- DRAM ranges — 08 R212; reset: none -/
  dram : List DramRange := []
deriving DecidableEq, Repr, Inhabited

/-- A pending GRANT_SET (R213, R214). -/
structure GrantPend where
  /-- the new grant — 08 R214; reset: none -/
  grant : Grant := {}
  /-- its message — 08 R214; reset: none -/
  pend : Pend := {}
  /-- estates that give up leaves, and how many — 08 R214; reset: none -/
  shrink : List (Nat × Nat) := []
deriving DecidableEq, Repr, Inhabited

/-- One allocation kept in Park (R376). -/
structure Keep where
  /-- address of the allocation (48) — 12 R376; reset: 0 -/
  addr : Nat := 0
  /-- its size in 2 MiB units (16) — 12 R376; reset: 0 -/
  units : Nat := 0
deriving DecidableEq, Repr, Inhabited

/-- What the Kettle keeps for one party: G0 to G15 at 0 to 15, GS at 16, GX at 17. -/
structure PartySt where
  /-- grant record — 08 R212; reset: none granted (the boot configuration grants at bring-up) -/
  grant : Grant := {}
  /-- GRANT_SET that waits — 08 R214; reset: none -/
  grantPend : Option GrantPend := none
  /-- refused accesses of its units that it has been told: initiator code of Table 1.9 and status — 01 R32; reset: none -/
  told : List (Nat × Nat) := []
  /-- mailbox address (48), 0 while it is the default place — 12 R357; reset: 0 -/
  mbox : Nat := 0
  /-- mailbox address that takes effect after the answer of an MBOX_SET (48), 0 for none — 12 R369; reset: 0 -/
  mboxNext : Nat := 0
  /-- MBOX_BUSY (1) — 05 R144; reset: 0 -/
  busy : Bool := false
  /-- RING taken, message not yet read by the Kettle (1) — 12 R358; reset: 0 -/
  rung : Bool := false
  /-- notice queue ENABLE (1) — 12 R369; reset: 0 -/
  noticeOn : Bool := false
  /-- notice queue ID (18) — 12 R369; reset: 0 -/
  notice : Nat := 0
  /-- notices held in order at the Kettle (32 bytes each) — 12 R361; reset: none -/
  heldNotices : List (List Byte) := []
  /-- messages outstanding with a notice to come (6) — 12 R361; reset: 0 -/
  outstanding : Nat := 0
  /-- header AFI mismatch already reported since the last activation (1) — 12 R367; reset: 0 -/
  afiSeen : Bool := false
  /-- interrupt route of source 0 — 12 R364; reset: disabled -/
  irq0 : IrqEntry := {}
  /-- interrupt route of source 1 — 12 R364; reset: disabled -/
  irq1 : IrqEntry := {}
  /-- Kettle alarm — 12 R377; reset: none -/
  alarm : Alarm := {}
  /-- NOTIFY_OVF (1) — 05 R144; reset: 0 -/
  notifyOvf : Bool := false
  /-- SUBMIT_ERR (1) — 05 R144; reset: 0 -/
  submitErr : Bool := false
  /-- DBL_SUBMIT_ERR QID (18) — 05 R144; reset: 0 -/
  errQid : Nat := 0
  /-- DBL_SUBMIT_ERR STATUS (8) — 05 R144; reset: 0 -/
  errStatus : Nat := 0
  /-- notification list (up to 256 queue IDs, oldest first) — 05 R146; reset: empty -/
  notify : List Nat := []
  /-- a vote was sent since resources were granted (1) — 02 R54; reset: 0 -/
  voted : Bool := false
  /-- vote STATE (8) — 12 R374; reset: 0 -/
  vote : Nat := 0
  /-- vote SAVED (1) — 12 R374; reset: 0 -/
  saved : Bool := false
  /-- requested TCLK divider (8), 0 for the floor — 12 R374; reset: 0 -/
  divider : Nat := 0
  /-- allocations kept in Park — 12 R376; reset: none -/
  keep : List Keep := []
  /-- MEM_WAYS_SET mask for non-leaf traffic (16), none until set — 11 R351; reset: none -/
  memWays : Option Nat := none
  /-- guest state: 0 running, 1 freezing, 2 frozen (2) — 08 R242; reset: 0 -/
  frozen : Nat := 0
  /-- GUEST_FREEZE that waits — 08 R242; reset: none -/
  freezePend : Option Pend := none
  /-- next template handle to try (16) — 12 R371; reset: 1 (DESIGN CHOICE, assumption 20) -/
  nextHandle : Nat := 1
  /-- TEMPLATE_LOAD under way: message, address, size — 12 R371; reset: none -/
  loading : List (Pend × Nat × Nat) := []
deriving DecidableEq, Repr, Inhabited

/-- A hardware queue (R137 to R143). -/
structure Queue where
  /-- QPT_CFG BOUND (1) — 05 R142; reset: 0 -/
  bound : Bool := false
  /-- BASE (48) — 05 R142; reset: 0 -/
  base : Nat := 0
  /-- LOG2_ENTRIES (5) — 05 R142; reset: 0 -/
  lg : Nat := 0
  /-- ESIZE (2) — 05 R142; reset: 0 -/
  esize : Nat := 0
  /-- KIND (2) — 05 R142; reset: 0 -/
  kind : Nat := 0
  /-- PRODUCER class (4) — 05 R140; reset: 0 -/
  prod : Nat := 0
  /-- CONSUMER class (4) — 05 R140; reset: 0 -/
  cons : Nat := 0
  /-- FLAGS[3:0] (4) — 05 R142; reset: 0 -/
  flags : Nat := 0
  /-- TILE_STRIDE (32) — 05 R140; reset: 0 -/
  stride : Nat := 0
  /-- TILE_BASE (48) — 05 R140; reset: 0 -/
  tbase : Nat := 0
  /-- TAIL (17) — 05 R142; reset: 0 -/
  tail : Nat := 0
  /-- HEAD (17) — 05 R142; reset: 0 -/
  head : Nat := 0
  /-- RETIRE (17) — 05 R142; reset: 0 -/
  retire : Nat := 0
  /-- QPT_PUSHED — 05 R142; reset: 0 -/
  pushed : Stat := {}
  /-- QPT_POPPED — 05 R142; reset: 0 -/
  popped : Stat := {}
  /-- BADPTR (1) — 05 R142; reset: 0 -/
  badptr : Bool := false
  /-- completion records the Kettle holds; CQ_HOLD while not empty — 05 R149; reset: none -/
  held : List (List Byte) := []
  /-- Kettle times at which the untaken records of a SUBMIT queue were announced — 08 R221; reset: none -/
  ann : List Nat := []
  /-- Kettle time of arrival of each entry for a codec consumer (64 each) — 09 R277; reset: none -/
  came : List Nat := []
  /-- internal queue of the job on estate e, as e + 1 (5), else 0 — 05 R160; reset: 0 -/
  owner : Nat := 0
  /-- producing station of an internal queue (6) — 05 R160; reset: 0 -/
  pStation : Nat := 0
  /-- consuming station of an internal queue (6) — 05 R160; reset: 0 -/
  cStation : Nat := 0
  /-- consuming instance of an internal queue (8) — 05 R160; reset: 0 -/
  cInst : Nat := 0
  /-- the producing thread of a TILE queue, as key + 1 once it has pushed — 05 R138; reset: 0 -/
  pThread : Nat := 0
  /-- the consuming thread of a TILE queue, as key + 1 once it has popped — 05 R138; reset: 0 -/
  cThread : Nat := 0
  /-- graphics PRIORITY (8) — 09 R279; reset: 0 -/
  gfxPrio : Nat := 0
  /-- PREEMPT_US (32), 0 for the default — 09 R279; reset: 0 -/
  preemptUs : Nat := 0
  /-- BIN_GROW_US (32), 0 for the default — 09 R279; reset: 0 -/
  binGrowUs : Nat := 0
deriving DecidableEq, Repr, Inhabited

/-- What a leaf is to the part (R507, R103). -/
inductive LeafKind where
  | fusedOff
  | spare
  | enabled
  | fenced
deriving DecidableEq, Repr, Inhabited

/-- State of a scratchpad segment (R95 to R99). `refusing` is closing after the 100 µs of R97 step 2. -/
inductive Seg where
  | off
  | zeroing
  | on
  | closing
  | refusing
deriving DecidableEq, Repr, Inhabited

/-- What a hardware thread is doing (R64, R65, R88, R91, R404). -/
inductive ThMode where
  /-- bound to no image, or halted -/
  | halted
  /-- may issue -/
  | running
  /-- waits at barrier n for `count` threads -/
  | barrier (n count : Nat)
  /-- stopped by a parity error, until the replay -/
  | parity
  /-- waits at a checkpoint for the Taster -/
  | taster
  /-- waits at a draw or bin boundary for a pre-emption -/
  | preempted
deriving DecidableEq, Repr, Inhabited

/-- A load issued to memory outside the leaf (R65). -/
structure PendLoad where
  /-- destination register (5) — 03 R65; reset: 0 -/
  rd : Nat := 0
  /-- physical address (48) — 03 R65; reset: 0 -/
  addr : Nat := 0
  /-- outbound PCIe read it waits for, as tag + 1 — 15 R460; reset: 0 -/
  pcie : Nat := 0
  /-- it fills a line of the texture cache in place of a register (model's own) — 03 R101; reset: 0 -/
  tex : Bool := false
deriving DecidableEq, Repr, Inhabited

/-- The checkpoint shadow of a thread (R88). -/
structure Shadow where
  /-- scalar registers (31 × 32) — 03 R88; reset: 0 -/
  regs : Tab Word := []
  /-- predicates (8) — 03 R88; reset: 0 -/
  preds : BitVec 8 := 0#8
  /-- program counter (32) — 03 R88; reset: 0 -/
  pc : Nat := 0
  /-- owned vector registers, by register × 128 + lane (32 each) — 03 R88; reset: 0 -/
  vregs : Tab Word := []
  /-- owned accumulator tiles, by tile × 2048 + entry (32 each) — 03 R88; reset: 0 -/
  acc : Tab Word := []
  /-- flags of the owned tiles, by tile (3 each) — 03 R88, 04 R118; reset: 0 -/
  flags : Tab Nat := []
  /-- accumulator type of the leaf's tiles at the step end (2) — 04 R125; reset: 0 -/
  ttype : Nat := 0
deriving DecidableEq, Repr, Inhabited

/-- A hardware thread (Table 3.1). -/
structure Thread where
  /-- issue state (model's own form of R65) — 03 R63; reset: halted -/
  mode : ThMode := .halted
  /-- bound to a station image (1) — 03 R63; reset: 0 -/
  bound : Bool := false
  /-- scalar registers s1 to s31 (32 each) — 03 R62; reset: 0 -/
  regs : Tab Word := []
  /-- predicates p0 to p7 (8) — 03 R62; reset: 0 -/
  preds : BitVec 8 := 0#8
  /-- program counter (32) — 03 R62; reset: 0 -/
  pc : Nat := 0
  /-- completion tokens t0 to t15 (8 each) — 03 R67; reset: 0 -/
  toks : Tab Nat := []
  /-- station index (6) — 05 R159; reset: 0 -/
  station : Nat := 0
  /-- instance number (8) — 05 R159; reset: 0 -/
  inst : Nat := 0
  /-- thread number within the instance (6) — 05 R159; reset: 0 -/
  tnum : Nat := 0
  /-- owned vector registers (0, 1, 2, 4 or 8) — 03 R63; reset: 0 -/
  nv : Nat := 0
  /-- first of the leaf's vector registers that it owns (5) — 03 R63; reset: 0 -/
  vbase : Nat := 0
  /-- owned accumulator tiles (2) — 03 R63; reset: 0 -/
  accs : Nat := 0
  /-- outstanding load outside the leaf — 03 R65; reset: none -/
  load : Option PendLoad := none
  /-- checkpoint shadow — 03 R88; reset: 0 -/
  shadow : Shadow := {}
  /-- replays of the current step (2) — 03 R92; reset: 0 -/
  replays : Nat := 0
  /-- bytes reloaded for the replay (16) — 03 R107; reset: 0 -/
  reloaded : Nat := 0
  /-- scratchpad offset whose read failed parity, for the replay (21) — 03 R91; reset: none -/
  badAt : Option Nat := none
  /-- Taster signature register (64) — 13 R402; reset: 0 -/
  sig : BitVec 64 := 0#64
  /-- checkpoints reached (32) — 13 R404; reset: 0 -/
  ckpt : Nat := 0
  /-- entry of the QPUSH that waits at a checkpoint, with its queue — 13 R404; reset: none -/
  heldPush : Option (Nat × List Byte) := none
  /-- bin claimed (20), as number + 1 — 09 R252; reset: 0 -/
  bin : Nat := 0
deriving DecidableEq, Repr, Inhabited

/-- A matrix operation, drain or raster operation in an engine's queue (R67). -/
structure EngOp where
  /-- issuing thread (6) — 03 R67; reset: 0 -/
  thread : Nat := 0
  /-- token (4) — 03 R67; reset: 0 -/
  tok : Nat := 0
  /-- tile (1), or raster opcode for a raster operation — 05 R157; reset: 0 -/
  tile : Nat := 0
  /-- clear bit (1) — 03 R70; reset: 0 -/
  clear : Bool := false
  /-- command block read at issue — 05 R157; reset: none -/
  blk : List Byte := []
  /-- order of issue among the leaf's matrix and drain operations (model's own) — 03 R73; reset: 0 -/
  seq : Nat := 0
deriving DecidableEq, Repr, Inhabited

/-- A DMA descriptor in one of the 16 slots (R81). -/
structure DmaOp where
  /-- slot number (4) — 03 R62; reset: 0 -/
  slot : Nat := 0
  /-- issuing thread (6) — 03 R67; reset: 0 -/
  thread : Nat := 0
  /-- descriptor (32 bytes) — 03 R81; reset: none -/
  desc : List Byte := []
  /-- row in progress (16) — 03 R83; reset: 0 -/
  row : Nat := 0
  /-- bytes of the row already moved (16) — 03 R83; reset: 0 -/
  done : Nat := 0
  /-- reload-log tag of the lines it fills (7), 0 for none — 03 R90; reset: 0 -/
  tag : Nat := 0
  /-- outbound PCIe transaction it waits for, as tag + 1 — 15 R458; reset: 0 -/
  pcie : Nat := 0
  /-- it has started: its first piece is read (1) — 03 R68, R83; reset: 0 -/
  started : Bool := false
deriving DecidableEq, Repr, Inhabited

/-- A fragment of a batch: one pixel of one triangle (R254 to R256). -/
structure Frag where
  /-- order key: draw index [43:24], primitive index [23:0] (44) — 09 R254; reset: 0 -/
  key : Nat := 0
  /-- pixel within the bin, y × 32 + x (10) — 09 R252; reset: 0 -/
  pixel : Nat := 0
  /-- samples covered (4) — 09 R251; reset: 0 -/
  cover : Nat := 0
  /-- interpolated depth (32) — 09 R255; reset: 0 -/
  depth : Word := 0#32
  /-- its draw is late-test (1) — 09 R255; reset: 0 -/
  late : Bool := false
  /-- its lane of the batch is set: no test has cleared it (1) — 09 R256; reset: 0 -/
  live : Bool := false
  /-- its depth and stencil test is done (1) — 09 R255; reset: 0 -/
  tested : Bool := false
  /-- attachments it has been written to (8) — 09 R254; reset: 0 -/
  done : Nat := 0
  /-- triangle block that it comes from (64 bytes) — 09 R256; reset: none -/
  tri : List Byte := []
deriving DecidableEq, Repr, Inhabited

/-- A batch of up to 128 fragments in a fragment ring (R256). -/
structure FragBatch where
  /-- scratchpad offset (21) — 09 R256; reset: 0 -/
  off : Nat := 0
  /-- ring it lies in: its scratchpad offset (21) — 09 R256; reset: 0 -/
  ring : Nat := 0
  /-- bin (20) — 09 R252; reset: 0 -/
  bin : Nat := 0
  /-- RFRAG has delivered it (1) — 09 R256; reset: 0 -/
  given : Bool := false
  /-- pass block of its RSETUP (64 bytes) — 09 R256; reset: none -/
  pass : List Byte := []
  /-- what that pass block says — 09 R253; reset: no attachment -/
  info : PassInfo := { buf := 0, ring := 0, samples := 0, cols := [], depth := none }
  /-- fragments, lane by lane — 09 R256; reset: none -/
  frags : List Frag := []
deriving DecidableEq, Repr, Inhabited

/-- A station instance placed on a leaf (R159, R544). -/
structure Inst where
  /-- station index (6) — 05 R159; reset: 0 -/
  station : Nat := 0
  /-- instance number (8) — 05 R159; reset: 0 -/
  inst : Nat := 0
  /-- leaf it lies on (8) — 08 R543; reset: 0 -/
  leaf : Nat := 0
  /-- first hardware thread (6) — 05 R159; reset: 0 -/
  first : Nat := 0
  /-- region start (21) — 05 R544; reset: 0 -/
  region : Nat := 0
  /-- first vector register of its threads (5) — 03 R63; reset: 0 -/
  vbase : Nat := 0
deriving DecidableEq, Repr, Inhabited

/-- A leaf (R62). Its threads, registers, tiles and scratchpad stand in tables of `Leaves`. -/
structure Leaf where
  /-- enabled, spare, fenced or fused off — 17 R507; reset: fused off (the leaf map sets it at bring-up) -/
  kind : LeafKind := .fusedOff
  /-- eight segments (3 bits each) — 03 R95; reset: off -/
  segs : Tab Seg := []
  /-- Kettle time at which a segment was marked closing, by segment (64) — 03 R97; reset: 0 -/
  closeAt : Tab Nat := []
  /-- matrix operations queued, oldest first (up to 8) — 03 R67; reset: none -/
  mma : List EngOp := []
  /-- drains queued, oldest first — 03 R67; reset: none -/
  drain : List EngOp := []
  /-- raster operations queued, oldest first — 09 R256; reset: none -/
  raster : List EngOp := []
  /-- DMA descriptors in flight, in issue order (up to 16) — 03 R67; reset: none -/
  dma : List DmaOp := []
  /-- next issue order number (model's own) — 03 R68; reset: 0 -/
  seq : Nat := 0
  /-- reload log, by entry 0 to 63 (32-byte descriptors) — 03 R90; reset: empty -/
  rlog : Tab (List Byte) := []
  /-- next reload-log entry (6) — 03 R90; reset: 0 -/
  rnext : Nat := 0
  /-- queue maps of the instances on the leaf, by first hardware thread × 256 + local number, as queue ID + 1 (19) — 05 R156, R160; reset: none -/
  qmap : Tab Nat := []
  /-- issued instructions — 03 R94; reset: 0 -/
  issued : Stat := {}
  /-- idle cycles — 03 R94; reset: 0 -/
  idle : Stat := {}
  /-- bank-conflict cycles — 03 R94; reset: 0 -/
  conflicts : Stat := {}
  /-- parity errors — 03 R94; reset: 0 -/
  parity : Stat := {}
  /-- step replays — 03 R94; reset: 0 -/
  replays : Stat := {}
  /-- consecutive heartbeat misses (2) — 03 R102; reset: 0 -/
  misses : Nat := 0
  /-- accumulator type of tiles 0 and 1, as the last operation issued to each: 0 FP32, 1 INT32 (1 each) — 04 R125; reset: DESIGN CHOICE FP32, assumption 22 -/
  ttype : Nat := 0
  /-- microcode version (16) — 12 R390; reset: 0 -/
  ucode : Nat := 0
  /-- image held from the last Pour: template owner, handle and estate size + 1, or 0 (model's own) — 12 R389; reset: 0 -/
  image : Nat := 0
  /-- missed Pour packets still to pull, ascending — 12 R387; reset: none -/
  missed : List Nat := []
  /-- packets of the broadcast that it missed (32) — 12 R387; reset: 0 -/
  missedN : Nat := 0
  /-- Pour attempt in progress (2), 0 when none — 12 R388; reset: 0 -/
  attempt : Nat := 0
  /-- fragment batches in the leaf's rings, oldest first — 09 R256; reset: none -/
  batches : List FragBatch := []
  /-- triangles of the claimed bin that RSETUP has delivered, by thread (24) — 09 R254; reset: 0 -/
  setup : Tab Nat := []
  /-- texture cache (16 KiB): line number and its 64 bytes, oldest first (up to 256 lines) — 03 R100, R101; reset: empty -/
  tex : List (Nat × List Byte) := []
deriving DecidableEq, Repr, Inhabited

/-- The leaves and what lies in them. -/
structure Leaves where
  /-- leaves 0 to 167 — 03 R62; reset: all fused off until the leaf map is read -/
  leaf : Tab Leaf := []
  /-- hardware threads, by leaf × 64 + thread — 03 R62; reset: halted -/
  threads : Tab Thread := []
  /-- vector registers, by leaf × 4096 + register × 128 + lane (32 each) — 03 R62; reset: DESIGN CHOICE 0, assumption 4 -/
  vregs : Tab Word := []
  /-- accumulator tiles, by (leaf × 2 + tile) × 2048 + entry (32 each) — 03 R62; reset: DESIGN CHOICE 0, assumption 4 -/
  acc : Tab Word := []
  /-- tile flags [0] NV, [1] OF, [2] SAT, by leaf × 2 + tile (3 each) — 04 R118; reset: 0 -/
  accFlags : Tab Nat := []
  /-- tag of the log entry that filled a line, by leaf × 8192 + line: 0 none, 1 to 64 entry + 1, 65 Pour — 03 R90; reset: 0 -/
  lineTag : Tab Nat := []
  /-- scratchpad bytes whose parity fails, by physical address: 1 once, 2 until rewritten (an upset from outside) — 03 R87; reset: 0 -/
  badByte : Tab Nat := []
  /-- scalar registers whose parity fails, by (leaf × 64 + thread) × 32 + register — 03 R87; reset: 0 -/
  badReg : Tab Nat := []
  /-- vector lanes whose parity fails, by key of `vregs` — 03 R87; reset: 0 -/
  badVec : Tab Nat := []
  /-- accumulator entries whose parity fails, by key of `acc` — 03 R87; reset: 0 -/
  badAcc : Tab Nat := []
  /-- checkpoint shadows whose parity fails, by leaf × 64 + thread — 03 R87; reset: 0 -/
  badShadow : Tab Nat := []
  /-- reload-log entries whose parity fails, by leaf × 64 + entry — 03 R87; reset: 0 -/
  badLog : Tab Nat := []
deriving DecidableEq, Repr, Inhabited

/-- A binned triangle (R254). -/
structure Tri where
  /-- order key: draw index [43:24], primitive index [23:0] (44) — 09 R254; reset: 0 -/
  key : Nat := 0
  /-- bins whose lists it is in (20 each) — 09 R252; reset: none -/
  bins : List Nat := []
  /-- triangle block (64 bytes) — 09 R256; reset: none -/
  blk : List Byte := []
deriving DecidableEq, Repr, Inhabited

/-- What GFX_QUEUE_SET has set for a queue, as a job's record found it (R259, R279). -/
structure GfxSet where
  /-- PRIORITY (2) — 09 R259; reset: 0 -/
  prio : Nat := 0
  /-- PREEMPT_US in force (17) — 09 R259; reset: 1,000 -/
  preemptUs : Nat := 1000
  /-- BIN_GROW_US in force (17) — 09 R259; reset: 2,000 -/
  growUs : Nat := 2000
  /-- graphics fault queue, as ID + 1, 0 for none (19) — 09 R259; reset: 0 -/
  faultQ : Nat := 0
deriving DecidableEq, Repr, Inhabited

/-- Render-pass state of a graphics job on an estate (R251 to R262). -/
structure Gfx where
  /-- pass index within the job (16) — 09 R258; reset: 0 -/
  pass : Nat := 0
  /-- rendering phase (1) — 09 R252; reset: 0 (binning) -/
  render : Bool := false
  /-- claim counter of the pass (20) — 09 R252; reset: 0 -/
  claim : Nat := 0
  /-- bins of the pass (20); the pass block's layout is not given, so a free value (assumption 14) — 09 R251; reset: 0 -/
  bins : Nat := 0
  /-- triangles of the bin lists, in the order binned — 09 R254; reset: none -/
  tris : List Tri := []
  /-- bins that a flush has rendered and stored: their later render loads (20 each) — 09 R258; reset: none -/
  flushed : List Nat := []
  /-- draw of the last flush, as index + 1 (21) — 09 R258; reset: 0 -/
  flushedIn : Nat := 0
  /-- draw of the triangle that stopped for growth (20) — 09 R257; reset: 0 -/
  stopDraw : Nat := 0
  /-- bin memory in bytes (64) — 09 R257; reset: 0 -/
  cap : Nat := 0
  /-- bin memory used in bytes (64) — 09 R257; reset: 0 -/
  used : Nat := 0
  /-- draws ended in the pass, by thread key (20) — 09 R256; reset: 0 -/
  draws : Tab Nat := []
  /-- growth pending (1) — 09 R257; reset: 0 -/
  grow : Bool := false
  /-- pieces added by GFX_BIN_GROW (48 each) — 09 R257; reset: none -/
  grown : List Nat := []
  /-- pre-emption asked by the record of this queue, as ID + 1 (19) — 09 R260; reset: 0 -/
  ask : Nat := 0
  /-- PREEMPT_US of that record (17) — 09 R262; reset: 0 -/
  askUs : Nat := 0
  /-- Kettle time of the request (64) — 09 R262; reset: 0 -/
  askAt : Nat := 0
  /-- boundary at which the last leaf stopped: 0 draw, 1 bin (1) — 09 R286; reset: 0 -/
  boundary : Nat := 0
  /-- fault record of kind 1 written at this Kettle time, for BIN_GROW_US (64) — 09 R258; reset: 0 -/
  growAt : Nat := 0
deriving DecidableEq, Repr, Inhabited

/-- A submission record taken and waiting for an estate (R163, R222). -/
structure WaitRec where
  /-- submission queue (18) — 05 R163; reset: 0 -/
  qid : Nat := 0
  /-- party (5) — 05 R163; reset: 0 -/
  party : Nat := 0
  /-- record (64 bytes) — 05 R162; reset: none -/
  record : List Byte := []
  /-- Kettle time at which it was taken (64) — 05 R166; reset: 0 -/
  takenAt : Nat := 0
  /-- Kettle time at which it was announced (64) — 08 R221; reset: 0 -/
  annAt : Nat := 0
  /-- pre-empted graphics job to be resumed: saved state (model's own) — 09 R261; reset: 0 -/
  resumed : Bool := false
  /-- run cycles counted before the pre-emption (64) — 09 R261; reset: 0 -/
  ranTclk : Nat := 0
  /-- thread states of a pre-empted job, by (station × 256 + instance) × 64 + thread — 09 R261; reset: none -/
  saved : List (Nat × Shadow) := []
  /-- pass context of a pre-empted job — 09 R261; reset: none -/
  gfx : Gfx := {}
  /-- BE by the submission queue's CLASS when it was taken (1) — 05 R162; reset: 0 -/
  be : Bool := false
  /-- REPLAY of the submission queue when it was taken (1) — 05 R162; reset: 0 -/
  replay : Bool := false
  /-- graphics settings of the queue when it was taken — 09 R279; reset: defaults -/
  gset : GfxSet := {}
  /-- number of the record among those taken (model's own) — 05 R164; reset: 0 -/
  serial : Nat := 0
  /-- DURATION_OVERRUN written before the pre-emption (1) — 08 R227; reset: 0 -/
  overrun : Bool := false
  /-- report words of a pre-empted job, by station (3 each) — 04 R119; reset: 0 -/
  accRep : Tab Nat := []
  /-- REPLAY_UNARMED, inputs changed, KEPT_LOST of a pre-empted job (1 each) — 05 R164; reset: 0 -/
  marks : Bool × Bool × Bool := (false, false, false)
  /-- bins claimed by the threads of a pre-empted job, keyed as `saved` (20) — 09 R261; reset: none -/
  bins : List (Nat × Nat) := []
  /-- argument entries of a pre-empted job (16 bytes each) — 05 R162; reset: none -/
  args : List (List Byte) := []
  /-- working DRAM of a pre-empted job (48 each) — 09 R261; reset: none -/
  pieces : List Nat := []
deriving DecidableEq, Repr, Inhabited

/-- An armed write watch (R164). -/
structure Watch where
  /-- job it is armed for, by its serial number (model's own) — 05 R164; reset: 0 -/
  serial : Nat := 0
  /-- first 4 KiB page (36) — 05 R164; reset: 0 -/
  lo : Nat := 0
  /-- one past the last 4 KiB page (36) — 05 R164; reset: 0 -/
  hi : Nat := 0
deriving DecidableEq, Repr, Inhabited

/-- Phases of a job on its estate. -/
inductive JobPhase where
  /-- the switch of R233 -/
  | switching
  /-- Pour of the station images (R389) -/
  | pouring
  /-- its threads run -/
  | running
  /-- both copies stopped for localisation (R407) -/
  | stopped
  /-- halted by R105 or SAFE_STATE level 4 -/
  | halted
deriving DecidableEq, Repr, Inhabited

/-- A job that owns an estate (R223). -/
structure Job where
  /-- submitting party (5) — 05 R162; reset: 0 -/
  party : Nat := 0
  /-- submission queue (18) — 05 R162; reset: 0 -/
  qid : Nat := 0
  /-- submission record (64 bytes) — 05 R162; reset: none -/
  record : List Byte := []
  /-- phase — 08 R233; reset: switching -/
  phase : JobPhase := .switching
  /-- lent to this job by the estate's owner (1) — 08 R229; reset: 0 -/
  lent : Bool := false
  /-- 0 single, 1 copy A, 2 copy B (2) — 13 R398; reset: 0 -/
  copy : Nat := 0
  /-- estate of the other copy (4) — 13 R398; reset: 0 -/
  twin : Nat := 0
  /-- BE by its queue's CLASS when its record was taken (1) — 05 R162; reset: 0 -/
  be : Bool := false
  /-- REPLAY of its queue when its record was taken (1) — 05 R162; reset: 0 -/
  replay : Bool := false
  /-- graphics settings of its queue when its record was taken — 09 R279; reset: defaults -/
  gset : GfxSet := {}
  /-- number of its record among those taken (model's own) — 05 R164; reset: 0 -/
  serial : Nat := 0
  /-- it resumes after a pre-emption (1) — 09 R261; reset: 0 -/
  resumed : Bool := false
  /-- DURATION_TCLK in force (64) — 08 R224; reset: 0 -/
  durTclk : Nat := 0
  /-- effective divider at admission (8) — 08 R225; reset: 0 -/
  div : Nat := 0
  /-- Kettle time at which the record was taken (64) — 05 R166; reset: 0 -/
  takenAt : Nat := 0
  /-- Kettle time at which the record was announced (64) — 08 R221; reset: 0 -/
  annAt : Nat := 0
  /-- Kettle time at which the job started (64) — 05 R166; reset: 0 -/
  startAt : Nat := 0
  /-- run time in TCLK cycles (64) — 02 R51; reset: 0 -/
  runTclk : Nat := 0
  /-- root clocks over, toward the next TCLK cycle (model's own) — 02 R51; reset: 0 -/
  runRem : Nat := 0
  /-- Kettle time of the last progress (64) — 05 R165; reset: 0 -/
  progress : Nat := 0
  /-- DURATION_OVERRUN written (1) — 08 R227; reset: 0 -/
  overrun : Bool := false
  /-- this run is the automatic replay (1) — 03 R104; reset: 0 -/
  replayed : Bool := false
  /-- a watch fired: inputs changed (1) — 05 R164; reset: 0 -/
  fired : Bool := false
  /-- REPLAY_UNARMED (1) — 05 R164; reset: 0 -/
  unarmed : Bool := false
  /-- KEPT_LOST to be set (1) — 05 R161; reset: 0 -/
  keptLost : Bool := false
  /-- station instances as placed — 08 R543; reset: none -/
  insts : List Inst := []
  /-- internal queues bound for it — 05 R160; reset: none -/
  queues : List Nat := []
  /-- 2 MiB pieces of working DRAM, in the order allocated (48 each) — 08 R235; reset: none -/
  pieces : List Nat := []
  /-- argument entries read from its argument table (16 bytes each) — 05 R162; reset: none -/
  args : List (List Byte) := []
  /-- OR of drained tile flags, by station (3 each) — 04 R119; reset: 0 -/
  accRep : Tab Nat := []
  /-- report sections and QUEUE_LEFT as a fault found them, for a replay that cannot start (R167) — 05 R166; reset: none -/
  ended : List (List Byte) × Bool × Bool := ([], false, false)
  /-- leaves still loading station images — 12 R387; reset: none -/
  loading : List Nat := []
  /-- its estate's switch has ended; a dual job waits for the other's (1) — 13 R398; reset: 0 -/
  switched : Bool := false
  /-- image identifier of the Pour in progress (32) — 12 R386; reset: 0 -/
  image : Nat := 0
  /-- thread states to resume from after a pre-emption — 09 R261; reset: none -/
  saved : List (Nat × Shadow) := []
  /-- bins that its threads had claimed, keyed as `saved` (20) — 09 R261; reset: none -/
  bins : List (Nat × Nat) := []
  /-- a GRAPHICS job's pass state stands in `Gfx` (1) — 05 R158; reset: 0 -/
  graphics : Bool := false
deriving DecidableEq, Repr, Inhabited

/-- Saved or in-place kept buffers of one template on one estate (R161). -/
structure Kept where
  /-- template owner (5) — 05 R161; reset: 0 -/
  party : Nat := 0
  /-- template handle (16) — 05 R161; reset: 0 -/
  handle : Nat := 0
  /-- bytes saved, kept entry by kept entry and instance by instance — 05 R161; reset: none -/
  data : List (List Byte) := []
  /-- the contents were lost (1) — 05 R161; reset: 0 -/
  lost : Bool := false
  /-- estate size they belong to (8) — 05 R161; reset: 0 -/
  leaves : Nat := 0
  /-- 2 MiB pieces of JOB_POOL DRAM that hold the save — 08 R235; reset: none -/
  pieces : List Nat := []
deriving DecidableEq, Repr, Inhabited

/-- Self-test of one estate (R409). -/
structure SelfTest where
  /-- SOURCE (8) — 13 R409; reset: 0 -/
  source : Nat := 0
  /-- PIPE (8) — 13 R409; reset: 0 -/
  pipe : Nat := 0
  /-- PERIOD_US (32) — 13 R409; reset: 0 -/
  period : Nat := 0
  /-- OFFSET_US (32) — 13 R409; reset: 0 -/
  offset : Nat := 0
  /-- LENGTH_US (32) — 13 R409; reset: 0 -/
  len : Nat := 0
  /-- DTI_US (32) — 13 R409; reset: 0 -/
  dti : Nat := 0
  /-- next slice due, 0 to 4 for slices 1 to 5 (3) — 13 R408; reset: 0 -/
  next : Nat := 0
  /-- a slice runs (1) — 13 R408; reset: 0 -/
  running : Bool := false
  /-- Kettle time at which the previous cycle ended (64) — 13 R411; reset: 0 -/
  cycleAt : Nat := 0
  /-- overdue since (1) — 13 R411; reset: 0 -/
  overdue : Bool := false
  /-- number of the gap whose skip was counted last, plus 1 (model's own) — 13 R410; reset: 0 -/
  skipAt : Nat := 0
deriving DecidableEq, Repr, Inhabited

/-- The estate descriptor (Table 8.2). -/
structure EstDesc where
  /-- CLASS [0] BE (1) — 08 R216; reset: 0 -/
  be : Bool := false
  /-- CLASS [1] SECURE (1) — 08 R216; reset: 0 -/
  secure : Bool := false
  /-- LEAVES (16) — 08 R216; reset: 0 -/
  leaves : Nat := 0
  /-- CG_MASK (8) — 08 R216; reset: 0 -/
  cg : Nat := 0
  /-- LEND MODE (2) — 08 R216; reset: 0 -/
  mode : Nat := 0
  /-- LEND SOURCE (2) — 08 R216; reset: 0 -/
  source : Nat := 0
  /-- LEND PIPE (3) — 08 R216; reset: 0 -/
  pipe : Nat := 0
  /-- WAY_MASK (16) — 08 R216; reset: 0 -/
  ways : Nat := 0
  /-- HORIZON_US (32) — 08 R216; reset: 0 -/
  horizon : Nat := 0
  /-- PERIOD_US (32) — 08 R216; reset: 0 -/
  period : Nat := 0
  /-- OFFSET_US (32) — 08 R216; reset: 0 -/
  offset : Nat := 0
  /-- GUARD_US (32) — 08 R216; reset: 0 -/
  guard : Nat := 0
deriving DecidableEq, Repr, Inhabited

/-- A pending change of an estate (R217). -/
inductive EstChange where
  | none
  /-- ESTATE_SET that waits for the job's end -/
  | set (d : EstDesc) (p : Pend)
  /-- ESTATE_FREE that waits for the job's end -/
  | free (p : Pend)
deriving DecidableEq, Repr, Inhabited

/-- An estate (R216). -/
structure Estate where
  /-- exists (1) — 08 R216; reset: 0 -/
  live : Bool := false
  /-- owner (5) — 08 R216; reset: 0 -/
  party : Nat := 0
  /-- descriptor — 08 R216; reset: 0 -/
  desc : EstDesc := {}
  /-- its leaves, ascending — 08 R219; reset: none -/
  leaves : List Nat := []
  /-- the job that owns it — 08 R221; reset: none -/
  job : Option Job := none
  /-- last job's template owner, handle and estate size, size 0 for none — 08 R222; reset: none -/
  last : Nat × Nat × Nat := (0, 0, 0)
  /-- switching back to its owner (1) — 08 R232; reset: 0 -/
  switchBack : Bool := false
  /-- template owner and handle of the lent job whose kept buffers are in place — 08 R232; reset: none -/
  lentBy : Option (Nat × Nat) := none
  /-- kept buffers in place or saved — 05 R161; reset: none -/
  kept : List Kept := []
  /-- change that waits — 08 R217; reset: none -/
  change : EstChange := .none
  /-- held behind a recovery (1) — 03 R105; reset: 0 -/
  held : Bool := false
  /-- in recovery or localisation (1) — 03 R105; reset: 0 -/
  recovering : Bool := false
  /-- Kettle time of the fault (64) — 08 R239; reset: 0 -/
  faultAt : Nat := 0
  /-- job to replay at the recovery's end — 03 R104; reset: none -/
  replay : Option Job := none
  /-- completion held until the estate's own recovery: queue, number of its job, record (R240) — 08 R240; reset: none -/
  heldDone : Option (Nat × Nat × List Byte) := none
  /-- SAFE_STATE level 1 or 2 names it (1) — 13 R417; reset: 0 -/
  safeStop : Bool := false
  /-- halted by R105 or SAFE_STATE level 4 (1) — 03 R105; reset: 0 -/
  halted : Bool := false
  /-- self-test — 13 R409; reset: off -/
  test : SelfTest := {}
  /-- party served last among those that borrow it (5) — 08 R229; reset: 0 -/
  lastBorrower : Nat := 0
deriving DecidableEq, Repr, Inhabited

/-- A loaded template (R158, R371). -/
structure Tmpl where
  /-- owner (5) — 12 R371; reset: 0 -/
  party : Nat := 0
  /-- handle (16) — 12 R371; reset: 0 -/
  handle : Nat := 0
  /-- the Kettle's copy of the image — 05 R158; reset: none -/
  image : List Byte := []
  /-- 2 MiB pieces of JOB_POOL DRAM that hold the copy (48 each) — 12 R371; reset: none -/
  pieces : List Nat := []
  /-- TEMPLATE_FREE that waits for its jobs — 12 R371; reset: none -/
  freePend : Option Pend := none
deriving DecidableEq, Repr, Inhabited

/-- A pair of estates (R396). -/
structure Pair where
  /-- PRIMARY (4) — 13 R396; reset: 0 -/
  primary : Nat := 0
  /-- PARTNER (4) — 13 R396; reset: 0 -/
  partner : Nat := 0
  /-- WINDOW_US in force (32) — 13 R396; reset: 0 -/
  window : Nat := 0
deriving DecidableEq, Repr, Inhabited

/-- A report held by the Taster (R405). -/
structure TstReport where
  /-- primary estate of the pair (4) — 13 R404; reset: 0 -/
  primary : Nat := 0
  /-- copy that reported: 1 A, 2 B (2) — 13 R405; reset: 0 -/
  copy : Nat := 0
  /-- station (6) — 13 R404; reset: 0 -/
  station : Nat := 0
  /-- instance (8) — 13 R404; reset: 0 -/
  inst : Nat := 0
  /-- thread (6) — 13 R404; reset: 0 -/
  thread : Nat := 0
  /-- checkpoint number (32) — 13 R404; reset: 0 -/
  ckpt : Nat := 0
  /-- signature (64) — 13 R404; reset: 0 -/
  sig : BitVec 64 := 0#64
  /-- hardware thread key, leaf × 64 + thread (model's own) — 13 R404; reset: 0 -/
  key : Nat := 0
  /-- Kettle time of the report (64) — 13 R406; reset: 0 -/
  at_ : Nat := 0
deriving DecidableEq, Repr, Inhabited

/-- What a guest's state image holds (R244). -/
structure GuestImage where
  /-- 1: the grant record — 08 R244; reset: none -/
  grant : Grant := {}
  /-- 2: estates by number: descriptor with its current size — 08 R244; reset: none -/
  ests : List (Nat × EstDesc) := []
  /-- 3: templates by handle — 08 R244; reset: none -/
  tmpls : List (Nat × List Byte) := []
  /-- 4: bound queues by ID, with their pointers — 08 R244; reset: none -/
  queues : List (Nat × Queue) := []
  /-- 5: kept buffers by estate number — 08 R244; reset: none -/
  kept : List (Nat × Kept) := []
  /-- 5: rings in scratchpads: address and bytes — 08 R244; reset: none -/
  rings : List (Nat × List Byte) := []
  /-- 6: the notification list — 08 R244; reset: none -/
  notify : List Nat := []
  /-- 6: NOTIFY_OVF and SUBMIT_ERR with its queue and status — 08 R244; reset: none -/
  bits : Bool × Bool × Nat × Nat := (false, false, 0, 0)
deriving DecidableEq, Repr, Inhabited

/-- Scheduling state of the Kettle and the Taster. -/
structure Jobs where
  /-- estates E0 to E15 — 08 R216; reset: none exists -/
  est : Tab Estate := []
  /-- templates loaded — 12 R371; reset: none -/
  tmpls : List Tmpl := []
  /-- records taken and waiting, oldest first — 08 R222; reset: none -/
  waiting : List WaitRec := []
  /-- armed watches (up to 256) — 05 R164; reset: none -/
  watches : List Watch := []
  /-- estates held, in the order of their faults — 08 R240; reset: none -/
  heldQ : List Nat := []
  /-- recovery in flight, as estate + 1, 0 when none (5) — 03 R105; reset: 0 -/
  recovery : Nat := 0
  /-- Kettle time at which the recovery began (64) — 08 R239; reset: 0 -/
  recAt : Nat := 0
  /-- pairs — 13 R396; reset: none -/
  pairs : List Pair := []
  /-- SAFETY_PAIR_SET that waits — 13 R396; reset: none -/
  pairPend : List (Pair × Bool × Pend) := []
  /-- reports held by the Taster (up to 4,096) — 13 R406; reset: none -/
  reports : List TstReport := []
  /-- localisations: primary estate, and 0 for a mismatch or 1 for a miss; the one whose estate is in recovery runs, the others wait — 13 R407; reset: none -/
  localise : List (Nat × Nat) := []
  /-- MISMATCHES — 13 R418; reset: 0 -/
  mismatches : Stat := {}
  /-- SKIPPED_GAPS — 13 R418; reset: 0 -/
  skipped : Stat := {}
  /-- ESTATE_SET that creates the secure estate and waits — 08 R220; reset: none -/
  securePend : Option (EstDesc × Pend) := none
  /-- Kettle time since which no estate has had work (64) — 02 R54; reset: 0 -/
  idleSince : Nat := 0
  /-- party served last by R64-style turns of submission (5) — 08 R221; reset: 0 -/
  lastParty : Nat := 0
  /-- number of the next record taken (model's own) — 05 R164; reset: 1 -/
  serial : Nat := 1
  /-- next Pour image identifier (32) — 12 R386; reset: DESIGN CHOICE 1, assumption 20 -/
  imageId : Nat := 1
deriving DecidableEq, Repr, Inhabited

/-- The power-state ladder (Table 2.3). -/
inductive PState where
  | run
  | hush
  | doze
  | rest
  | park
deriving DecidableEq, Repr, Inhabited

/-- Clocks, voltage, power and temperature (chapter 2). -/
structure Power where
  /-- power state — 02 R53; reset: Run (DESIGN CHOICE: the state that admission starts in, assumption 4) -/
  st : PState := .run
  /-- divider in force (8) — 02 R40; reset: the floor -/
  div : Nat := 8
  /-- divider that waits for VDD_LEAF (8), 0 when none — 02 R41; reset: 0 -/
  divNext : Nat := 0
  /-- power_step (8), 8 when it does not limit — 02 R46; reset: 8 -/
  powerStep : Nat := 8
  /-- thermal_step (8), 8 when it does not limit — 02 R47; reset: 8 -/
  thermalStep : Nat := 8
  /-- the fast current limiter acts (1) — 02 R45; reset: 0 -/
  fast : Bool := false
  /-- consecutive windows below 95 % of the cap (4) — 02 R46; reset: 0 -/
  lowWindows : Nat := 0
  /-- power cap set by firmware, in W (16), 0 for the fused cap — 12 R375; reset: 0 -/
  capW : Nat := 0
  /-- throttle threshold set by firmware in °C (8), 0 for 115 — 12 R375; reset: 0 -/
  throttleC : Nat := 0
  /-- Kettle time since the hottest sensor has been at or above the threshold (64) — 02 R47; reset: none -/
  hotSince : Option Nat := none
  /-- Kettle time since it has been below the release threshold (64) — 02 R47; reset: none -/
  coolSince : Option Nat := none
  /-- hardware Doze of R48 in force (1) — 02 R48; reset: 0 -/
  thermalDoze : Bool := false
  /-- Doze forced by GX (1) — 12 R374; reset: 0 -/
  forced : Bool := false
  /-- VDD_LEAF in mV (10) — 02 R44; reset: 750 (nominal) -/
  vdd : Nat := 750
  /-- VDD_LEAF setting it ramps to, in mV (10) — 02 R44; reset: 750 -/
  vddTarget : Nat := 750
  /-- calibration KIND 1: offsets in 5 mV steps per TCLK step — 12 R391; reset: none -/
  trim : List Int := []
  /-- the root PLL has lost lock (1) — 02 R38; reset: 0 -/
  pllLost : Bool := false
  /-- THERM_TRIP_N low (1) — 02 R49; reset: 0 -/
  trip : Bool := false
  /-- core supplies in regulation: CORE_ON of FLD_STATE (1) — 16 R493, 18 R527; reset: 0 -/
  supplied : Bool := false
  /-- Park entry waits for the Caddy's flush: deciding voter + 1 (5), 0 when none — 17 R519; reset: 0 -/
  parking : Nat := 0
  /-- a hardware Doze waits for the Caddy's flush: voter of its event 0x7005 + 1 (9), 0 when none — 02 R48; reset: 0 -/
  dozing : Nat := 0
  /-- wake source, class and instance, that fired during a Park entry — 02 R58; reset: none -/
  woken : Option (Nat × Nat) := none
  /-- leaf clocks stand since Hush until VDD_LEAF reaches the fused voltage of /16 (1) — 02 R44; reset: 0 -/
  vddWait : Bool := false
  /-- blocks clock-stopped by BLOCK_POWER, and clusters powered off, by kind × 65536 + instance, as REQUEST — 12 R378; reset: all run -/
  blocks : Tab Nat := []
  /-- RESUME_SET vectors: normal, secure (64 each), 0 for the image entry — 12 R379; reset: 0 -/
  resumeN : Nat := 0
  /-- RESUME_SET vector of the secure world (64) — 12 R379; reset: 0 -/
  resumeS : Nat := 0
  /-- where each hart was last released: a0 and pc, by hart — 12 R379; reset: 0 -/
  hartA0 : Tab Nat := []
  /-- release vector of each hart, as vector + 1, 0 for the image entry — 12 R379; reset: 0 -/
  hartPc : Tab Nat := []
deriving DecidableEq, Repr, Inhabited

/-- One way of one set of a system-cache slice (R340). -/
structure CLine where
  /-- line held, as line number + 1 (36), 0 when invalid — 11 R340; reset: 0 -/
  line : Nat := 0
  /-- dirty (1) — 11 R340; reset: 0 -/
  dirty : Bool := false
  /-- DRAM's own bytes of a dirty line, which the cached bytes hide — 11 R342; reset: none -/
  old : List Byte := []
  /-- SRAM error of the line: 1 correctable, 2 not (an upset from outside) — 11 R342; reset: 0 -/
  err : Nat := 0
deriving DecidableEq, Repr, Inhabited

/-- Traffic classes (R345). -/
inductive TClass where
  | be
  | rt
  | maint
  | lcCeil
  /-- LC through Strainer range r -/
  | lc (r : Nat)
deriving DecidableEq, Repr, Inhabited

/-- A request that waits in a Strainer (R345). -/
structure SReq where
  /-- class — 11 R345; reset: BE -/
  cls : TClass := .be
  /-- Kettle time of entry (64) — 11 R347; reset: 0 -/
  at_ : Nat := 0
  /-- entry order in the Strainer (model's own) — 11 R347; reset: 0 -/
  ord : Nat := 0
deriving DecidableEq, Repr, Inhabited

/-- The Strainer, controller and statistics of one channel group. -/
structure Cg where
  /-- RT budget counter (7) — 11 R348; reset: DESIGN CHOICE 64, assumption 4 -/
  budget : Nat := 64
  /-- FCLK since the last BE grant (8, held at 64) — 11 R348; reset: 0 -/
  beAge : Nat := 0
  /-- FCLK since the last MAINT grant (8, held at 64) — 11 R348; reset: 0 -/
  maintAge : Nat := 0
  /-- waiting requests — 11 R348; reset: none -/
  reqs : List SReq := []
  /-- next entry order number (model's own) — 11 R347; reset: 0 -/
  ord : Nat := 0
  /-- LC range served last (4) — 11 R348; reset: 0 -/
  lastLc : Nat := 0
  /-- link-ECC corrections, by channel 0 to 3 — 11 R333, R350; reset: 0 -/
  linkCorr : Tab Stat := []
  /-- inline corrections — 11 R350; reset: 0 -/
  corr : Stat := {}
  /-- uncorrectable reads — 11 R350; reset: 0 -/
  uncorr : Stat := {}
  /-- RT grants over budget — 11 R350; reset: 0 -/
  rtOver : Stat := {}
  /-- BE floor grants — 11 R350; reset: 0 -/
  beFloor : Stat := {}
  /-- MAINT floor grants — 11 R350; reset: 0 -/
  maintFloor : Stat := {}
  /-- cache hits — 11 R350; reset: 0 -/
  hits : Stat := {}
  /-- cache misses — 11 R350; reset: 0 -/
  misses : Stat := {}
  /-- corrections since event 0x2002 was last written (16) — 11 R335; reset: 0 -/
  corrSince : Nat := 0
  /-- Kettle time of the last event 0x2002, as time + 1 (64), 0 for none — 11 R335; reset: 0 -/
  corrAt : Nat := 0
  /-- channels that failed (4) — 11 R339; reset: 0 -/
  failed : Nat := 0
deriving DecidableEq, Repr, Inhabited

/-- A Strainer range (Table 11.3). -/
structure SRange where
  /-- CLASS (2) — 11 R346; reset: 0 (disabled) -/
  cls : Nat := 0
  /-- NOALLOC (1) — 11 R346; reset: 0 -/
  noalloc : Bool := false
  /-- BASE granule (16) — 11 R346; reset: 0 -/
  base : Nat := 0
  /-- COUNT (16) — 11 R346; reset: 0 -/
  count : Nat := 0
  /-- TARGET in 10 ns (32) — 11 R346; reset: 0 -/
  target : Nat := 0
  /-- measured latency M in ns (32) — 11 R347; reset: 0 -/
  m : Nat := 0
  /-- requests — 11 R350; reset: 0 -/
  reqs : Stat := {}
  /-- bytes — 11 R350; reset: 0 -/
  bytes : Stat := {}
  /-- summed latency in ns — 11 R350; reset: 0 -/
  lat : Stat := {}
  /-- completions over target — 11 R350; reset: 0 -/
  misses : Stat := {}
  /-- event 0x2006 written and not yet re-armed (1) — 11 R350; reset: 0 -/
  missed : Bool := false
  /-- Kettle time of the last event 0x2006 (64) — 11 R350; reset: 0 -/
  missAt : Nat := 0
deriving DecidableEq, Repr, Inhabited

/-- A cache operation under way (R344). -/
structure CacheOp where
  /-- its message — 11 R344; reset: none -/
  pend : Pend := {}
  /-- invalidate too (1) — 11 R352; reset: 0 -/
  inval : Bool := false
  /-- SCOPE ways (1) — 11 R352; reset: 0 -/
  byWays : Bool := false
  /-- WAY_MASK (16) — 11 R352; reset: 0 -/
  ways : Nat := 0
  /-- first line (36) — 11 R352; reset: 0 -/
  lo : Nat := 0
  /-- lines (36) — 11 R352; reset: 0 -/
  n : Nat := 0
deriving DecidableEq, Repr, Inhabited

/-- Memory, the system cache and the Strainers. -/
structure Mem where
  /-- bytes of DRAM and of the leaf scratchpads by physical address; unlisted 0 — 01 R28; reset: DRAM DESIGN CHOICE 0, assumption 9; scratchpad 0 (R99) -/
  cells : List Host.Cell := []
  /-- DRAM line errors, by line: 1 correctable, 2 uncorrectable (an upset from outside) — 11 R334; reset: 0 -/
  lineErr : Tab Nat := []
  /-- link errors that the next transfer of a channel meets, by channel group × 4 + channel: 1 a single bit, 2 more (an upset from outside) — 11 R333; reset: 0 -/
  linkErr : Tab Nat := []
  /-- cache ways, by (slice × 4096 + set) × 16 + way — 11 R340; reset: invalid -/
  cache : Tab CLine := []
  /-- tree pseudo-LRU bits, by slice × 4096 + set (15) — 11 R340; reset: 0 -/
  plru : Tab Nat := []
  /-- lines that application cores hold, by slice, oldest first — 11 R343; reset: none -/
  snoop : Tab (List Nat) := []
  /-- channel groups — 11 R348; reset: idle -/
  cg : Tab Cg := []
  /-- Strainer ranges 0 to 15 — 11 R346; reset: disabled -/
  ranges : Tab SRange := []
  /-- cache operations under way — 11 R344; reset: none -/
  ops : List CacheOp := []
  /-- granules changing hands that are not yet zeroed — 14 R431; reset: none -/
  zeroing : List Nat := []
  /-- party that last held each granule, as party + 1 (5) — 14 R431; reset: none -/
  lastOwner : Tab Nat := []
  /-- DRAM outside the Park range is not yet zeroed after a Park exit (1) — 02 R56; reset: 0 -/
  unzeroed : Bool := false
  /-- corrected flit errors — 13 R395; reset: 0 -/
  flitCorr : Stat := {}
  /-- corrected cache SRAM errors of each slice — 11 R342; reset: 0 -/
  sramCorr : Tab Stat := []
  /-- mesh stops with an uncorrectable flit error, and slices with a parity error, by leaf or 168 + slice (an upset from outside) — 13 R395; reset: 0 -/
  fabricErr : Tab Nat := []
deriving DecidableEq, Repr, Inhabited

/-- Functional safety (chapter 13). -/
structure Safety where
  /-- causes of FAULT_N in force, bits of Table 13.7 (8); FAULT_N is asserted while not 0 — 13 R416; reset: 0 -/
  causes : Nat := 0
  /-- INJECTION: bit s − 1 set when step s passed (8) — 13 R418; reset: 0x7F (DESIGN CHOICE: a part whose sequence passed, assumption 4) -/
  injection : Nat := 0x7F
  /-- SAFE_LEVEL (3) — 13 R417; reset: 0 -/
  level : Nat := 0
  /-- estates of SAFE_STATE level 1 or 2 (16) — 13 R417; reset: 0 -/
  levelEst : Nat := 0
  /-- SAFE_STATE that waits — 13 R417; reset: none -/
  levelPend : Option Pend := none
  /-- safety-island pair in lockstep fault (2) — 13 R415; reset: 0 -/
  pairFault : Nat := 0
  /-- the Kettle has faulted (1) — 12 R356; reset: 0 -/
  kettleFault : Bool := false
  /-- the two-fault halt of R105 or SAFE_STATE level 4 (1) — 03 R105; reset: 0 -/
  halted : Bool := false
  /-- an answer awaits GX: GX_IRQ_N held low (1) — 12 R365; reset: 0 -/
  gxIrq : Bool := false
  /-- a GX event awaits GX: GX_IRQ_N held low (1) — 12 R365; reset: 0 -/
  gxEvent : Bool := false
  /-- CRC_ERR of the safety SPI port (1) — 12 R365; reset: 0 -/
  spiCrcErr : Bool := false
  /-- GX mailbox pages in Kettle SRAM, by offset 0 to 0x1FFF (8 each) — 12 R357; reset: DESIGN CHOICE 0, assumption 4 -/
  gxPages : List Host.Cell := []
  /-- bytes returned by the last safety SPI frame (model's own output port) — 12 R365; reset: none -/
  spiOut : List Byte := []
deriving DecidableEq, Repr, Inhabited

/-- Worlds, watermarks and clusters (chapter 14). -/
structure World where
  /-- SWM in 64 MiB granules (16) — 14 R425; reset: DESIGN CHOICE 4 (its least value; the boot configuration sets it), assumption 4 -/
  swm : Nat := 4
  /-- LWM (8) — 14 R426; reset: DESIGN CHOICE 0, assumption 4 -/
  lwm : Nat := 0
  /-- bit i: cluster i is secure (4) — 14 R427; reset: DESIGN CHOICE 1, assumption 4 -/
  clusters : Nat := 1
  /-- clusters changing world, with their new bits (4 each) — 14 R430; reset: 0 -/
  changing : Nat := 0
  /-- the new world bits of the clusters changing (4) — 14 R430; reset: 0 -/
  target : Nat := 0
  /-- clusters whose harts are all stopped (4) — 12 R378; reset: 0 -/
  stopped : Nat := 0
  /-- Kettle time at which the change of clusters began (64) — 14 R430; reset: 0 -/
  changeAt : Nat := 0
  /-- LWM that waits for normal estates to give up leaves (8) — 14 R429; reset: none -/
  lwmNext : Option Nat := none
  /-- WORLD_SET that waits — 14 R427; reset: none -/
  pend : Option Pend := none
  /-- NW_PARTY (5) — 14 R439; reset: DESIGN CHOICE G0, assumption 4 -/
  nwParty : Nat := 0
  /-- secure restarts since bring-up (32) — 14 R435; reset: 0 -/
  restarts : Nat := 0
  /-- the last secure restart used WIPE (1) — 14 R446; reset: 0 -/
  wiped : Bool := false
  /-- secure restart under way: WIPE, image address, size, message — 14 R435; reset: none -/
  restart : Option (Bool × Nat × Nat × Pend) := none
  /-- GS's doorbell and mailbox closed (1) — 14 R435; reset: 0 -/
  gsClosed : Bool := false
  /-- secure harts stopped after a failed restart (1) — 14 R435; reset: 0 -/
  secureDown : Bool := false
  /-- interrupts pending in the harts' interrupt files, by hart × 2048 + identity (1) — 12 R364; reset: none -/
  irqs : Tab Nat := []
  /-- MSI-X vectors raised on the host port (1 each) — 12 R364; reset: none -/
  msix : Tab Nat := []
deriving DecidableEq, Repr, Inhabited

/-- A firmware slot of xSPI flash (R380). -/
structure Slot where
  /-- holds an image (1) — 12 R380; reset: 0 -/
  full : Bool := false
  /-- RELEASE (32) — 12 R366; reset: 0 -/
  release : Nat := 0
  /-- AFI (16) — 12 R366; reset: 0 -/
  afi : Nat := 0
  /-- ROLLBACK level (16) — 14 R438; reset: 0 -/
  rollback : Nat := 0
  /-- REVOKE bits (8) — 14 R436; reset: 0 -/
  revoke : Nat := 0
  /-- SHA-384 measurement (48 bytes) — 14 R446; reset: none -/
  digest : List Byte := []
deriving DecidableEq, Repr, Inhabited

/-- A leaf microcode image (R390). -/
structure Ucode where
  /-- version, 0 for no image (16) — 12 R366; reset: 0 -/
  version : Nat := 0
  /-- ROLLBACK level (16) — 14 R438; reset: 0 -/
  rollback : Nat := 0
  /-- REVOKE bits (8) — 14 R436; reset: 0 -/
  revoke : Nat := 0
  /-- SHA-384 measurement (48 bytes) — 14 R446; reset: none -/
  digest : List Byte := []
deriving DecidableEq, Repr, Inhabited

/-- The activation window (Table 12.7). -/
inductive ActPhase where
  | none
  /-- FW_ACTIVATE answered PENDING; the window has not opened -/
  | asked
  /-- the window is open -/
  | open_
deriving DecidableEq, Repr, Inhabited

/-- Firmware, microcode, calibration, identity (chapters 12 and 14). -/
structure Firm where
  /-- running slot: 0 A, 1 B (1) — 12 R366; reset: DESIGN CHOICE 0, assumption 4 -/
  slot : Nat := 0
  /-- slot A — 12 R366; reset: DESIGN CHOICE release 1, AFI 4.0, assumption 4 -/
  a : Slot := { full := true, release := 1, afi := 0x0400 }
  /-- slot B — 12 R366; reset: empty -/
  b : Slot := {}
  /-- running slot committed (1) — 12 R366; reset: 1 -/
  committed : Bool := true
  /-- other slot holds a staged image (1) — 12 R366; reset: 0 -/
  staged : Bool := false
  /-- FW_STAGE under way: message, image, and the status (8) and DETAIL (64) of its verification — 12 R380; reset: none -/
  staging : Option (Pend × Slot × Nat × Nat) := none
  /-- final answers that the Kettle is about to give: message, status (8), DETAIL (64) — 12 R361; reset: none -/
  due : List (Pend × Nat × Nat) := []
  /-- activation — 12 R381; reset: none -/
  act : ActPhase := .none
  /-- FW_ACTIVATE's FLAGS (2) — 12 R381; reset: 0 -/
  actFlags : Nat := 0
  /-- FW_ACTIVATE's message — 12 R381; reset: none -/
  actPend : Pend := {}
  /-- Kettle time at which the window opened (64) — 12 R382; reset: 0 -/
  openedAt : Nat := 0
  /-- completions and notices held during the window, in order: party × 2^18 + queue, record — 12 R382; reset: none -/
  heldOut : List (Nat × List Byte) := []
  /-- rollback counters 0 to 3 (16 each) — 14 R438; reset: 0 -/
  counters : Tab Nat := []
  /-- revoke bits of the vendor and owner key sets (4 each), by set — 14 R437; reset: 0 -/
  revoked : Tab Nat := []
  /-- REVOKE bits and highest level verified for counter 3 since bring-up (16) — 14 R438; reset: 0 -/
  level3 : Nat := 0
  /-- microcode version in force (16) — 12 R366; reset: DESIGN CHOICE 1, assumption 4 -/
  ucode : Nat := 1
  /-- UCODE_LOAD under way: message and image — 12 R390; reset: none -/
  ucodeLoad : Option (Pend × Ucode) := none
  /-- UCODE partition of xSPI flash — 12 R390; reset: empty -/
  ucodePart : Ucode := {}
  /-- measurement of the microcode in force (48 bytes) — 14 R446; reset: none -/
  mUcode : List Byte := []
  /-- measurements of the boot configuration, the secure-world and the normal-world image (48 bytes each) — 14 R446; reset: none -/
  mBoot : List Byte := []
  mSecure : List Byte := []
  mNormal : List Byte := []
  /-- calibration tables in force, by KIND (bytes) — 12 R391; reset: none -/
  cal : Tab (List Byte) := []
  /-- alias keys being derived (1) — 14 R442; reset: 0 -/
  deriving_ : Bool := false
  /-- generation of the alias keys (model's own) — 14 R442; reset: 0 -/
  aliasGen : Nat := 0
  /-- ATTEST messages in order: message, address, nonce — 14 R445; reset: none -/
  attest : List (Pend × Nat × List Byte) := []
  /-- body of the report being signed (512 bytes) — 14 R446; reset: none -/
  body : List Byte := []
  /-- test access port open (1) — 14 R441; reset: 0 -/
  debug : Bool := false
  /-- parties restored by GUEST_RESTORE: DIGEST of the image, by party (48 bytes) — 14 R446; reset: none -/
  restored : Tab (List Byte) := []
  /-- the model's own: what the body of each image stands for that GUEST_SAVE wrote, whose layout is not given — 08 R244, R245; reset: none, DESIGN CHOICE assumption 59 -/
  images : List (List Byte × GuestImage) := []
  /-- who the Kettle serves next: 0 GX, 1 GS, 2 the next Gn (2) — 12 R360; reset: 0 -/
  turn : Nat := 0
  /-- Gn served last (4) — 12 R360; reset: 15 (so that G0 is next) -/
  lastG : Nat := 15
deriving DecidableEq, Repr, Inhabited

/-- A display pipe (R263). -/
structure Pipe where
  /-- bound party + 1 (5), 0 when unbound — 09 R281; reset: 0 -/
  owner : Nat := 0
  /-- scans out (1) — 09 R264; reset: 0 -/
  scan : Bool := false
  /-- PIPE_SET waiting for link training — 09 R265; reset: none -/
  training : Option Pend := none
  /-- timing record (32 bytes) — 09 R264; reset: none -/
  timing : List Byte := []
  /-- flip queue, as ID + 1 (19) — 09 R281; reset: 0 -/
  flip : Nat := 0
  /-- status queue, as ID + 1 (19) — 09 R281; reset: 0 -/
  status : Nat := 0
  /-- status queue that takes effect at the next latch, as ID + 2, 1 for none, 0 for no change (19) — 09 R281; reset: 0 -/
  statusNext : Nat := 0
  /-- frame number (64) — 09 R270; reset: 0 -/
  frame : Nat := 0
  /-- Kettle time of the last latch (64) — 09 R270; reset: 0 -/
  latchAt : Nat := 0
  /-- current layer entries 0 to 7 (64 bytes each) — 09 R267; reset: none -/
  layers : Tab (List Byte) := []
  /-- the link is up (1) — 09 R266; reset: 0 -/
  link : Bool := false
  /-- lane count and rate trained — 09 R265; reset: 0 -/
  lanes : Nat := 0
  /-- lane rate trained, in 10 Mbit/s (16) — 09 R265; reset: 0 -/
  rate : Nat := 0
  /-- stop asked: FLAGS and message — 09 R282; reset: none -/
  stop : Option (Nat × Pend) := none
  /-- frames repeated — 09 R283; reset: 0 -/
  repeats : Stat := {}
  /-- lines underflowed — 09 R283; reset: 0 -/
  under : Stat := {}
  /-- status records dropped — 09 R283; reset: 0 -/
  dropped : Stat := {}
  /-- link losses — 09 R283; reset: 0 -/
  losses : Stat := {}
  /-- lines underflowed in this frame (16) — 09 R273; reset: 0 -/
  lineUnder : Nat := 0
  /-- status that stopped the pipe, 0 while it runs (8) — 01 R32; reset: 0 -/
  stopped : Nat := 0
  /-- cause of the last link loss: 0 hot-plug, 1 training (1) — 09 R286; reset: 0 -/
  lossCause : Nat := 0
  /-- Kettle time of the last link loss or attempt to retrain (64) — 09 R266; reset: 0 -/
  triedAt : Nat := 0
  /-- the link has retrained; output resumes at the next latch (1) — 09 R266; reset: 0 -/
  relink : Bool := false
  /-- USER_TAG and status of the last flip that was not applied — 09 R247; reset: none -/
  bad : Option (Nat × Nat) := none
  /-- pixels of the frame that scans out, by line: R, G, B codes of BPC bits; none while the link is idle — 09 R268; reset: none -/
  out : List (List (Nat × Nat × Nat)) := []
deriving DecidableEq, Repr, Inhabited

/-- A codec session (R275). -/
structure Session where
  /-- owner + 1 (5), 0 when closed — 09 R275; reset: 0 -/
  owner : Nat := 0
  /-- CODEC_OPEN payload (64 bytes) — 09 R284; reset: none -/
  open_ : List Byte := []
  /-- input records popped and not yet coded, in order (32 or 64 bytes each) — 09 R276; reset: none -/
  work : List (List Byte) := []
  /-- TILE_OUT: tiles of the picture in progress already pushed (16) — 09 R276; reset: 0 -/
  tile : Nat := 0
  /-- status that stopped the session, 0 while it runs: a refused access, a stream outside the session, an uncorrectable read (8) — 09 R278; reset: 0 -/
  stopped : Nat := 0
  /-- CODEC_CLOSE that waits for the drain — 09 R285; reset: none -/
  closing : Option Pend := none
  /-- pictures since the last IDR (16) — 09 R284; reset: 0 -/
  sinceIdr : Nat := 0
  /-- pictures coded or output (64) — 09 R276; reset: 0 -/
  count : Nat := 0
  /-- Kettle time of arrival of each record of `work`, or of a decoder's last piece (64 each) — 09 R277; reset: none -/
  due : List Nat := []
  /-- decoder: pieces taken, each its record and its bytes — 09 R276; reset: none -/
  pieces : List (List Byte × List Byte) := []
  /-- decoder: pictures that those pieces hold complete — 09 R276; reset: 0 -/
  pics : Nat := 0
  /-- decoder: which of the pictures output were concealed (1 each) — 09 R278; reset: none -/
  errs : List Bool := []
  /-- encoder: samples and IDR mark of the pictures coded — 09 R278; reset: none -/
  fed : List (List Byte × Bool) := []
  /-- USER_TAG and status of the last record that was not applied — 09 R247; reset: none -/
  bad : Option (Nat × Nat) := none
deriving DecidableEq, Repr, Inhabited

/-- Graphics, display and codec. -/
structure Media where
  /-- graphics jobs, by estate — 09 R251; reset: none -/
  gfx : Tab Gfx := []
  /-- pipes 0 to 5 — 09 R263; reset: idle -/
  pipe : Tab Pipe := []
  /-- sessions 0 to 63 — 09 R274; reset: closed -/
  ses : Tab Session := []
  /-- graphics fault queue of each SUBMIT queue, as ID + 1, by ID (19) — 09 R259; reset: none -/
  faultQ : Tab Nat := []
deriving DecidableEq, Repr, Inhabited

/-- A conversion from a counter to Kettle time (R302, R303). -/
structure Conv where
  /-- C0 (64) — 10 R302; reset: 0 -/
  c0 : Nat := 0
  /-- K0 (64) — 10 R302; reset: 0 -/
  k0 : Nat := 0
  /-- RATIO with 40 fractional bits (64) — 10 R302; reset: DESIGN CHOICE 2³⁹ (a receiver's; the first snapshot sets the others), assumption 4 -/
  ratio : Nat := 0x8000000000
  /-- Kettle time of the last refresh, for the coefficient age (64) — 10 R303; reset: 0 -/
  at_ : Nat := 0
  /-- the last 16 snapshots of a port conversion: port counter and Kettle time (64 each) — 10 R303; reset: none -/
  snaps : List (Nat × Nat) := []
deriving DecidableEq, Repr, Inhabited

/-- A frame in progress on a stream (R293 to R295). -/
structure Frame where
  /-- dropped whole (1) — 10 R293; reset: 0 -/
  dropped : Bool := false
  /-- buffer b (16) — 10 R293; reset: 0 -/
  buf : Nat := 0
  /-- FRAME number (64) — 10 R293; reset: 0 -/
  num : Nat := 0
  /-- Kettle time of the frame start (64) — 10 R294; reset: 0 -/
  at_ : Nat := 0
  /-- port counter at the frame start (64) — 10 R300; reset: 0 -/
  arrival : Nat := 0
  /-- sensor stamp, once it arrived (64) — 10 R301; reset: none -/
  sensor : Option Nat := none
  /-- conversion in force at the frame start — 10 R302; reset: none -/
  conv : Conv := {}
  /-- lines received (16) — 10 R294; reset: 0 -/
  lines : Nat := 0
  /-- input lines of an ISP frame in their order, none where one was lost — 10 R298; reset: none -/
  rows : List (Option (List Byte)) := []
  /-- lines lost to header errors (16) — 10 R294; reset: 0 -/
  lost : Nat := 0
  /-- bytes received (32) — 10 R290; reset: 0 -/
  bytes : Nat := 0
  /-- errors (16) — 10 R329; reset: 0 -/
  errs : Nat := 0
  /-- kind of the first error (8) — 10 R329; reset: 0 -/
  kind : Nat := 0
  /-- event 0x9001 written (1) — 10 R294; reset: 0 -/
  evented : Bool := false
  /-- ERROR (1) — 10 R294; reset: 0 -/
  err : Bool := false
  /-- SHORT, by a header error, an overflow or a missing end (1) — 10 R294; reset: 0 -/
  short : Bool := false
  /-- TRUNCATED (1) — 10 R293; reset: 0 -/
  trunc : Bool := false
  /-- DROPPED_BEFORE (1) — 10 R293; reset: 0 -/
  before : Bool := false
  /-- the rest is discarded after an overflow (1) — 10 R294; reset: 0 -/
  discard : Bool := false
  /-- next tile (16) — 10 R295; reset: 0 -/
  tile : Nat := 0
  /-- TILES_DROPPED (1) — 10 R295; reset: 0 -/
  tilesLost : Bool := false
  /-- the input has ended; the last tiles are still to be pushed (1) — 10 R295; reset: 0 -/
  ended : Bool := false
deriving DecidableEq, Repr, Inhabited

/-- A capture stream (R288, Table 10.3). -/
structure Stream where
  /-- owner + 1 (5), 0 when closed — 10 R288; reset: 0 -/
  owner : Nat := 0
  /-- status that stopped the stream, 0 while it runs (8) — 01 R32; reset: 0 -/
  stopped : Nat := 0
  /-- CAPTURE_OPEN payload (64 bytes) — 10 R291; reset: none -/
  conf : List Byte := []
  /-- CAPTURE_CLOSE messages that wait for the frame boundary — 10 R323; reset: none -/
  closing : List Pend := []
  /-- frame in progress — 10 R293; reset: none -/
  frame : Option Frame := none
  /-- frames started (64) — 10 R293; reset: 0 -/
  frames : Nat := 0
  /-- a frame was dropped since the last record (1) — 10 R293; reset: 0 -/
  before : Bool := false
  /-- tuning block in force (up to 64 KiB) — 10 R299; reset: none -/
  tune : List Byte := []
  /-- tuning block that takes effect at the next frame start — 10 R299; reset: none -/
  tuneNext : Option (List Byte) := none
  /-- DROPPED — 10 R324; reset: 0 -/
  dropped : Stat := {}
  /-- SHORT — 10 R324; reset: 0 -/
  short : Stat := {}
  /-- ERROR — 10 R324; reset: 0 -/
  error : Stat := {}
  /-- TILES_DROPPED — 10 R324; reset: 0 -/
  tiles : Stat := {}
  /-- the stream's own fit for STAMP source 2 — 10 R303; reset: none -/
  fit : Conv := {}
  /-- pairs in the fit, up to 64: sensor stamp and arrival KTIME (64 each) — 10 R303; reset: none -/
  pairs : List (Nat × Nat) := []
  /-- external port its frames arrived on (4) — 10 R301; reset: DESIGN CHOICE port 4 (the first external port), assumption 4 -/
  port : Nat := 4
  /-- last RTP time stamp extended to 64 bits, with its wraps (64) — 16 R480; reset: 0 -/
  rtp : Nat := 0
deriving DecidableEq, Repr, Inhabited

/-- A batch of measurements (R309). -/
structure Batch where
  /-- SENSOR (8) — 10 R309; reset: 0 -/
  sensor : Nat := 0
  /-- TIME (64) — 10 R309; reset: 0 -/
  time : Nat := 0
  /-- records (64 bytes each), oldest first, up to 1,024 — 10 R309; reset: none -/
  recs : List (List Byte) := []
  /-- records discarded beyond 1,024 (16) — 10 R309; reset: 0 -/
  over_ : Nat := 0
deriving DecidableEq, Repr, Inhabited

/-- A track (R313). -/
structure Track where
  /-- live (1) — 10 R317; reset: 0 -/
  live : Bool := false
  /-- starts in this slot so far (21): its generation is one less, modulo 2²⁰ — 10 R317; reset: 0 -/
  gen : Nat := 0
  /-- confirmed (1) — 10 R317; reset: 0 -/
  confirmed : Bool := false
  /-- updated in the batch last processed (1) — 10 R319; reset: 0 -/
  now : Bool := false
  /-- TIME of its start (64) — 10 R317; reset: 0 -/
  start : Nat := 0
  /-- T_UPDATE (64) — 10 R319; reset: 0 -/
  update : Nat := 0
  /-- t_track: TIME its state stands at (64) — 10 R313; reset: 0 -/
  at_ : Nat := 0
  /-- updates since the start (16) — 10 R319; reset: 0 -/
  hits : Nat := 0
  /-- CLASS (8) — 10 R314; reset: 0 -/
  cls : Nat := 0
  /-- state [x, y, z, vx, vy, vz, ψ, ω] in O (8 × FP32) — 10 R313; reset: none -/
  x : List Word := []
  /-- covariance P (8 × 8 FP32) — 10 R313; reset: none -/
  cov : List Word := []
  /-- extent (3 × FP16) — 10 R314; reset: none -/
  extent : List Byte := []
  /-- TIME + 1 at which each sensor updated it last (64 each) — 10 R319; reset: none -/
  sensors : Tab Nat := []
deriving DecidableEq, Repr, Inhabited

/-- A track list that waits for two free slots (R319). -/
structure FusList where
  /-- batch TIME (64) — 10 R319; reset: 0 -/
  time : Nat := 0
  /-- batch SENSOR (8) — 10 R319; reset: 0 -/
  sensor : Nat := 0
  /-- TRANSFORM_GEN when the batch was processed (32) — 10 R307; reset: 0 -/
  gen : Nat := 0
deriving DecidableEq, Repr, Inhabited

/-- FLOW vectors that wait for a scan (R311). -/
structure Flow where
  /-- TIME0 and TIME (64 each) — 10 R311; reset: 0 -/
  t0 : Nat := 0
  /-- TIME (64) — 10 R311; reset: 0 -/
  t1 : Nat := 0
  /-- transform entry of the camera (128 bytes) — 10 R307; reset: none -/
  cam : List Byte := []
  /-- undistorted ends of each vector (4 × FP32) — 10 R307; reset: none -/
  ends : List (List Word) := []
deriving DecidableEq, Repr, Inhabited

/-- The fusion engine (R304). -/
structure Fusion where
  /-- owner + 1 (5), 0 when closed — 10 R304; reset: 0 -/
  owner : Nat := 0
  /-- status that stopped the engine, 0 while it runs (8) — 01 R32; reset: 0 -/
  stopped : Nat := 0
  /-- FUS_OPEN payload (64 bytes) — 10 R304; reset: none -/
  conf : List Byte := []
  /-- transform table, entries 0 to 31 (128 bytes each) — 10 R306; reset: none -/
  xf : Tab (List Byte) := []
  /-- TRANSFORM_GEN (32) — 10 R307; reset: 0 -/
  gen : Nat := 0
  /-- LIST (64) — 10 R319; reset: 0 -/
  lists : Nat := 0
  /-- open batches, oldest first (up to 32) — 10 R309; reset: none -/
  open_ : List Batch := []
  /-- closed batches, in the order they closed — 10 R309; reset: none -/
  closed : List Batch := []
  /-- list of the batch just processed, waiting — 10 R319; reset: none -/
  wait : Option FusList := none
  /-- tracks by slot — 10 R317; reset: none -/
  tracks : Tab Track := []
  /-- pose history, newest last: TIME and pose (up to 64; 6 × FP32) — 10 R311; reset: none -/
  poses : List (Nat × List Word) := []
  /-- the last four registered scans, which make the map: TIME and points in O (up to 8,192; 3 × FP32) — 10 R311; reset: none -/
  scans : List (Nat × List (List Word)) := []
  /-- FLOW vectors that wait for the scan that ends their interval — 10 R311; reset: none -/
  flows : List Flow := []
  /-- DEGRADED (1) — 10 R312; reset: 0 -/
  degraded : Bool := false
  /-- Kettle time of the last registered scan, or of FUS_OPEN (64) — 10 R312; reset: 0 -/
  regAt : Nat := 0
  /-- LATE — 10 R328; reset: 0 -/
  late : Stat := {}
  /-- FUTURE — 10 R328; reset: 0 -/
  future : Stat := {}
  /-- BAD — 10 R328; reset: 0 -/
  bad : Stat := {}
  /-- UNASSIGNED — 10 R328; reset: 0 -/
  unassigned : Stat := {}
  /-- OVERFLOWED — 10 R328; reset: 0 -/
  overflowed : Stat := {}
  /-- NOT_STARTED — 10 R328; reset: 0 -/
  notStarted : Stat := {}
  /-- FUS_CLOSE that waits — 10 R326; reset: none -/
  closing : Option Pend := none
deriving DecidableEq, Repr, Inhabited

/-- Capture and fusion. -/
structure Capture where
  /-- streams 0 to 23 — 10 R288; reset: closed -/
  str : Tab Stream := []
  /-- Kettle time at which each receiver's counter was 0 (64) — 10 R300; reset: 0 -/
  upAt : Tab Nat := []
  /-- conversions: receivers 0 to 3, external Ethernet ports 4 to 11 — 10 R302; reset: not yet refreshed -/
  conv : Tab Conv := []
  /-- fusion engine — 10 R304; reset: closed -/
  fus : Fusion := {}
deriving DecidableEq, Repr, Inhabited

/-- A Crossing window (R453, Table 15.4). -/
structure Window where
  /-- accepts traffic (1) — 15 R453; reset: 0 -/
  live : Bool := false
  /-- closing: refuses, and drains (1) — 15 R465; reset: 0 -/
  closing : Bool := false
  /-- OWNER (5) — 15 R456; reset: 0 -/
  owner : Nat := 0
  /-- DEVICE (8) — 15 R456; reset: 0 -/
  device : Nat := 0
  /-- FLAGS (8) — 15 R456; reset: 0 -/
  flags : Nat := 0
  /-- TIMEOUT_US in force (32) — 15 R456; reset: 0 -/
  timeout : Nat := 0
  /-- LOCAL (64) — 15 R456; reset: 0 -/
  loc : Nat := 0
  /-- REMOTE (64) — 15 R456; reset: 0 -/
  remote : Nat := 0
  /-- SIZE in bytes (48) — 15 R456; reset: 0 -/
  size : Nat := 0
  /-- ERR_QUEUE, as queue ID + 1 while ENABLE is set (19) — 15 R456; reset: 0 -/
  errQ : Nat := 0
  /-- WINDOW_CLOSE messages that wait for the drain — 15 R465; reset: none -/
  pend : List Pend := []
deriving DecidableEq, Repr, Inhabited

/-- Phases of what the bridge has sent out (R458, R460). -/
inductive OutPhase where
  /-- a group that gathers writes -/
  | gather
  /-- a group whose confirm read is out -/
  | confirm
  /-- a read -/
  | read
  /-- a read or group that has ended TIMEOUT; completions that arrive later are discarded -/
  | late
deriving DecidableEq, Repr, Inhabited

/-- An outbound write group or read (R458, R460). -/
structure OutTx where
  /-- transaction tag (model's own) — 15 R458; reset: 0 -/
  tag : Nat := 0
  /-- phase — 15 R458; reset: gathering -/
  phase : OutPhase := .gather
  /-- window (8) — 15 R458; reset: 0 -/
  win : Nat := 0
  /-- initiator, by Table 1.9 (16) — 15 R458; reset: 0 -/
  ini : Nat := 0
  /-- first local address (48) — 15 R458; reset: 0 -/
  addr : Nat := 0
  /-- bytes of the group, or of the read (16) — 15 R458; reset: 0 -/
  len : Nat := 0
  /-- local address of the last doubleword written (48) — 15 R458; reset: 0 -/
  last : Nat := 0
  /-- Kettle time at which the read or the confirm read was sent (64) — 15 R460; reset: 0 -/
  sentAt : Nat := 0
  /-- leaf engines that wait for it: leaf × 16 + DMA slot, or 2^16 + thread key for a load or a store — 15 R459; reset: none -/
  waits : List Nat := []
deriving DecidableEq, Repr, Inhabited

/-- A bridge error-log entry (Table 15.8). -/
structure BrgEntry where
  /-- KTIME (64), 0 in a slot never written — 15 R464; reset: 0 -/
  ktime : Nat := 0
  /-- WINDOW (16) — 15 R464; reset: 0 -/
  win : Nat := 0
  /-- OWNER (8) — 15 R464; reset: 0 -/
  owner : Nat := 0
  /-- STATUS (8) — 15 R464; reset: 0 -/
  status : Nat := 0
  /-- KIND (8) — 15 R464; reset: 0 -/
  kind : Nat := 0
  /-- PORT (8) — 15 R464; reset: 0 -/
  port : Nat := 0
  /-- REQUESTER (16) — 15 R464; reset: 0 -/
  requester : Nat := 0
  /-- LOCAL (48) — 15 R464; reset: 0 -/
  loc : Nat := 0
  /-- LENGTH (16) — 15 R464; reset: 0 -/
  len : Nat := 0
  /-- REMOTE (64) — 15 R464; reset: 0 -/
  remote : Nat := 0
deriving DecidableEq, Repr, Inhabited

/-- A PCIe port (R450, R466). -/
structure PciePort where
  /-- link up (1) — 15 R466; reset: 0 -/
  up : Bool := false
  /-- held without traffic for a ring mismatch (1) — 15 R466; reset: 0 -/
  held : Bool := false
  /-- lanes trained (4) — 15 R450; reset: 0 -/
  lanes : Nat := 0
  /-- rate in GT/s × 10 (8) — 15 R450; reset: 0 -/
  rate : Nat := 0
  /-- D-state of the function (2) — 15 R451; reset: 0 -/
  dState : Nat := 0
  /-- link state L2 (1) — 15 R451; reset: 0 -/
  l2 : Bool := false
deriving DecidableEq, Repr, Inhabited

/-- The Crossing bridge (chapter 15). -/
structure Crossing where
  /-- windows by ID (8) — 15 R453; reset: none open -/
  win : Tab Window := []
  /-- COUNT of PEER_LINK (3) — 15 R466; reset: 1 (not linked) -/
  count : Nat := 1
  /-- DEVICE of PEER_LINK (2) — 15 R466; reset: 0 -/
  device : Nat := 0
  /-- PEER_LINK whose final answer is due — 15 R466; reset: none -/
  linkPend : Option Pend := none
  /-- host port and peer ports 1 and 2 — 15 R450; reset: links down -/
  port : Tab PciePort := []
  /-- outbound groups and reads, oldest first — 15 R458; reset: none -/
  out : List OutTx := []
  /-- next transaction tag (model's own) — 15 R458; reset: 0 -/
  tag : Nat := 0
  /-- last packet sent, as PCIe address and bytes on the link in order (model's own output port) — 15 R457; reset: none -/
  sent : Nat × List Byte := (0, [])
  /-- first status other than OK since a requester's last zero-length read, by window × 65536 + requester (8) — 15 R461; reset: OK -/
  bad : Tab Nat := []
  /-- error log, by slot — 15 R464; reset: empty -/
  log : Tab BrgEntry := []
  /-- NEXT (10) — 15 R464; reset: 0 -/
  next : Nat := 0
  /-- COUNT for each party's windows — 15 R464; reset: 0 -/
  counts : Tab Stat := []
  /-- COUNT as GS and the Kettle see it — 15 R464; reset: 0 -/
  countAll : Stat := {}
  /-- BRG_DISCARD for each party's windows — 15 R464; reset: 0 -/
  discards : Tab Stat := []
  /-- BRG_DISCARD as GS and the Kettle see it — 15 R464; reset: 0 -/
  discardAll : Stat := {}
  /-- MSI-X table, by byte (4 KiB) — 15 R451; reset: DESIGN CHOICE 0, assumption 4 -/
  msixTab : Tab Byte := []
deriving DecidableEq, Repr, Inhabited

/-- A frame in a controller's transmit buffers (R473). -/
structure CanBuf where
  /-- the frame — 16 R473; reset: none -/
  frame : CanFrame
  /-- rule that routed it, as number + 1, or 0 for one of TX_QUEUE (13) — 16 R478; reset: none -/
  rule : Nat := 0
  /-- Kettle time at which a routed frame began to wait for a buffer (64) — 16 R478; reset: 0 -/
  at_ : Nat := 0
deriving DecidableEq, Repr

/-- A CAN controller with its transceiver (R469 to R473, R487). -/
structure CanCtl where
  /-- owner + 1 (5), 0 when closed — 16 R472; reset: 0 -/
  owner : Nat := 0
  /-- CAN_OPEN payload (32 bytes) — 16 R472; reset: none -/
  conf : List Byte := []
  /-- prescaler and quanta per bit of the arbitration phase (8 each) — 16 R470; reset: 0 -/
  nom : Nat × Nat := (0, 0)
  /-- prescaler and quanta per bit of the data phase (8 each) — 16 R470; reset: 0 -/
  dat : Nat × Nat := (0, 0)
  /-- transmit buffers, in order of entry (up to 8) — 16 R473; reset: empty -/
  buf : List CanBuf := []
  /-- routed frames that wait for a buffer, oldest first — 16 R478; reset: none -/
  wait : List CanBuf := []
  /-- error state: 0 active, 1 passive, 2 bus-off (2) — 16 R473; reset: 0 -/
  err : Nat := 0
  /-- transmitter off for a harness fault (1) — 16 R487; reset: 0 -/
  txOff : Bool := false
  /-- faults of Table 16.10 in force (16) — 16 R487; reset: none -/
  faults : List Nat := []
  /-- transceiver in standby (1) — 16 R492; reset: 0 -/
  standby : Bool := false
  /-- frames dropped for a full RX_QUEUE — 16 R473; reset: 0 -/
  dropped : Stat := {}
  /-- frames dropped since the last event 0x6005 (32) — 16 R473; reset: 0 -/
  since : Nat := 0
  /-- Kettle time + 1 of the last event 0x6005, 0 for none (64) — 16 R473; reset: 0 -/
  evAt : Nat := 0
  /-- frames the controller put on the bus last (model's own output port) — 16 R473; reset: none -/
  sent : List CanFrame := []
deriving DecidableEq, Repr, Inhabited

/-- A routing rule (R477, Table 16.6). -/
structure Rule where
  /-- owner + 1 (5), 0 when free — 16 R477; reset: 0 -/
  owner : Nat := 0
  /-- rule record (64 bytes) — 16 R477; reset: none -/
  conf : List Byte := []
  /-- talker's batch: frames in order — 16 R479; reset: none -/
  batch : List CanFrame := []
  /-- Kettle time of the batch's first frame (64) — 16 R479; reset: 0 -/
  batchAt : Nat := 0
  /-- talker's sequence_num (8) — 16 R479; reset: 0 -/
  seq : Nat := 0
  /-- listener's next sequence_num (8), none before the first frame — 16 R479; reset: none -/
  want : Option Nat := none
  /-- frames dropped, XL frames among them — 16 R478; reset: 0 -/
  drops : Stat := {}
  /-- sequence gaps — 16 R479; reset: 0 -/
  gaps : Stat := {}
deriving DecidableEq, Repr, Inhabited

/-- A VLAN of the switch (R476 type 2). -/
structure Vlan where
  /-- member-port mask (12) — 16 R476; reset: 0 -/
  ports : Nat := 0
  /-- owner party + 1 (5), 0 when not given — 16 R476; reset: 0 -/
  owner : Nat := 0
deriving DecidableEq, Repr, Inhabited

/-- A port of the switch (R474). -/
structure TsnPort where
  /-- enabled by a section of type 1 (1) — 16 R476; reset: DESIGN CHOICE 1, assumption 4 -/
  on : Bool := true
  /-- speed in 100 Mbit/s (8), 0 until set — 16 R476; reset: 0 -/
  speed : Nat := 0
  /-- link up (1) — 16 R476; reset: 0 -/
  up : Bool := false
  /-- gPTP role: 0 disabled, 1 master, 2 slave, 3 passive (2) — 16 R495; reset: 0 -/
  role : Nat := 0
  /-- the port's own time counter in 1 ns, as last latched (64) — 10 R300; reset: 0 -/
  clock : Nat := 0
  /-- gate control list in force (section bytes) — 16 R476; reset: none -/
  gate : List Byte := []
  /-- gate control list that waits for its base time — 16 R476; reset: none -/
  gateNext : Option (List Byte) := none
deriving DecidableEq, Repr, Inhabited

/-- The TSN switch and the gateway routing engine. -/
structure Gateway where
  /-- CAN controllers 0 to 11 — 16 R469; reset: closed -/
  can : Tab CanCtl := []
  /-- rules 0 to 4,095 — 16 R477; reset: free -/
  rule : Tab Rule := []
  /-- switch ports 0 to 11 — 16 R474; reset: links down -/
  port : Tab TsnPort := []
  /-- VLANs by ID (12) — 16 R476; reset: none -/
  vlan : Tab Vlan := []
  /-- static forwarding entries: MAC, VLAN, port mask (up to 4,096) — 16 R476; reset: none -/
  static_ : List (Nat × Nat × Nat) := []
  /-- learned addresses: MAC, VLAN, port — 16 R476; reset: none -/
  learned : List (Nat × Nat × Nat) := []
  /-- sections in force, by type × 256 + port — 16 R476; reset: none -/
  sect : Tab (List Byte) := []
  /-- TSN_SET that waits for its sections — 16 R476; reset: none -/
  tsnPend : Option Pend := none
  /-- frames sent by the last command, by port (model's own output port) — 16 R478; reset: none -/
  out : List (Nat × EthFrame) := []
deriving DecidableEq, Repr, Inhabited

/-- A field channel (R481). -/
structure FieldCh where
  /-- owner + 1 (5), 0 when not bound — 16 R481; reset: 0 -/
  owner : Nat := 0
  /-- EVENT_QUEUE, as queue ID + 1 (19), 0 when not enabled — 16 R481; reset: 0 -/
  evq : Nat := 0
  /-- CONFIG (16 bytes) — 16 R481; reset: none -/
  conf : List Byte := []
  /-- STATE (8) — 16 R486; reset: 0 -/
  state : Nat := 0
  /-- FAULT in force (16) — 16 R486; reset: 0 -/
  fault : Nat := 0
  /-- VALUE (32) — 16 R486; reset: 0 -/
  value : Nat := 0
  /-- lamp: retries left (3) — 16 R484; reset: 0 -/
  retries : Nat := 0
  /-- lamp: waits for a retry (1) — 16 R484; reset: 0 -/
  waiting : Bool := false
  /-- touch: baseline in 1/1,000 counts (26), as value + 1, 0 until the first scan — 16 R483; reset: 0 -/
  base : Nat := 0
  /-- touch: consecutive scans that disagree with STATE (4) — 16 R483; reset: 0 -/
  scans : Nat := 0
deriving DecidableEq, Repr, Inhabited

/-- A USB Type-C port (R489 to R491). -/
structure UsbcPort where
  /-- party that bound it + 1 (5), 0 when none — 16 R496; reset: 0 -/
  owner : Nat := 0
  /-- ROLE (2) — 16 R490; reset: 0 -/
  role : Nat := 0
  /-- MAX_W (8) — 16 R490; reset: 0 -/
  maxW : Nat := 0
  /-- EVENT_QUEUE, as queue ID + 1 (19) — 16 R490; reset: 0 -/
  evq : Nat := 0
  /-- 0 detached, 1 attached, 2 contract (2) — 16 R495; reset: 0 -/
  state : Nat := 0
  /-- contract voltage in mV (16) — 16 R495; reset: 0 -/
  mv : Nat := 0
  /-- contract current in mA (16) — 16 R495; reset: 0 -/
  ma : Nat := 0
  /-- VBUS on (1) — 16 R491; reset: 0 -/
  vbus : Bool := false
  /-- fault in force: 0, 9 or 10 (4) — 16 R491; reset: 0 -/
  fault : Nat := 0
  /-- CC connected (1) — 16 R487; reset: 1 -/
  cc : Bool := true
deriving DecidableEq, Repr, Inhabited

/-- The field die (R481 to R494): its registers, its log and its channels. -/
structure Field where
  /-- channels, by KIND × 256 + channel — 16 R481; reset: not bound -/
  ch : Tab FieldCh := []
  /-- USB Type-C ports 0 to 3 — 16 R489; reset: off -/
  usbc : Tab UsbcPort := []
  /-- FLD_STATE LINK_UP (1) — 16 R493; reset: 0 -/
  linkUp : Bool := false
  /-- FLD_STATE PARK (1) — 16 R493; reset: 1 -/
  park : Bool := true
  /-- FLD_VBAT, signed in 10 mV (16) — 16 R493; reset: 0 -/
  vbat : Int := 0
  /-- FLD_WAKE (24) — 16 R493; reset: 0 -/
  wake : Nat := 0
  /-- FLD_WAKE_EN (24) — 16 R493; reset: 0x40_0000 -/
  wakeEn : Nat := 0x400000
  /-- FLD_TIMER (32) — 16 R493; reset: 0 -/
  timer : Nat := 0
  /-- FLD_PARKTIME (64) — 16 R493; reset: 0 -/
  parktime : Nat := 0
  /-- FLD_FAULT (27) — 16 R493; reset: 0 -/
  fault : Nat := 0
  /-- FLD_SWITCH (48) — 16 R493; reset: 0 -/
  switch : Nat := 0
  /-- FLD_LOG_NEXT (8) — 16 R493; reset: DESIGN CHOICE 0 (EEPROM of a new part), assumption 4 -/
  logNext : Nat := 0
  /-- FLD_PWRON (48 + OVF) — 16 R493; reset: DESIGN CHOICE 0 (EEPROM of a new part), assumption 4 -/
  pwron : Stat := {}
  /-- FLD_KSAVE (64) — 16 R493; reset: 0 -/
  ksave : Nat := 0
  /-- power-fail log, by slot (16 bytes each) — 16 R494; reset: DESIGN CHOICE empty (a new part), assumption 4 -/
  log : Tab (List Byte) := []
  /-- log entries not yet copied into the Caddy (9) — 16 R494; reset: 0 -/
  uncopied : Nat := 0
  /-- CRC_ERR of the service port (1) — 16 R493; reset: 0 -/
  crcErr : Bool := false
  /-- bytes returned by the last service frame (model's own output port) — 16 R493; reset: none -/
  spiOut : List Byte := []
  /-- resends of the frame in progress, from the field die and from the core die (2 each) — 01 R17; reset: 0 -/
  resends : Nat × Nat := (0, 0)
  /-- the link is down and the outputs are held (1) — 01 R17; reset: 0 -/
  holding : Bool := false
  /-- VBAT_WARN asserted, the cut due in 10 ms (1) — 16 R488; reset: 0 -/
  warn : Bool := false
  /-- switch states at the last Park poll (48) — 16 R492; reset: 0 -/
  polled : Nat := 0
  /-- a trip frame was received since the supplies came up (1) — 02 R49; reset: 0 -/
  tripped : Bool := false
deriving DecidableEq, Repr, Inhabited

/-- An I/O command in flight (R497). -/
structure IoCmd where
  /-- command record (64 bytes) — 16 R497; reset: none -/
  cmd : List Byte := []
  /-- bytes moved (32) — 16 R500; reset: 0 -/
  done : Nat := 0
  /-- Kettle time of the first frame + 1 (64), 0 before it — 16 R500; reset: 0 -/
  first : Nat := 0
  /-- zero or lost frames before it (16) — 16 R500; reset: 0 -/
  gap : Nat := 0
  /-- Kettle time at which it was taken (64) — 16 R499; reset: 0 -/
  at_ : Nat := 0
deriving DecidableEq, Repr, Inhabited

/-- An I/O host (R496). -/
structure IoUnit where
  /-- owner + 1 (5), 0 when unbound — 16 R496; reset: 0 -/
  owner : Nat := 0
  /-- status that stopped the host's traffic, 0 while it runs (8) — 01 R32; reset: 0 -/
  stopped : Nat := 0
  /-- IO_OPEN payload (32 bytes) — 16 R496; reset: none -/
  conf : List Byte := []
  /-- commands in flight, oldest first — 16 R497; reset: none -/
  fly : List IoCmd := []
  /-- completions held for a full CPL_QUEUE (32 bytes each) — 16 R497; reset: none -/
  held : List (List Byte) := []
  /-- IO_CLOSE that waits for the completions — 16 R504; reset: none -/
  closing : Option Pend := none
  /-- USB: device addresses given, by address, as route + 1 — 16 R498; reset: none -/
  addrs : Tab Nat := []
  /-- USB: endpoints configured, by TARGET, as their PARAM — 16 R498; reset: none -/
  eps : Tab (List Byte) := []
  /-- USB: endpoints halted, by TARGET (1) — 16 R498; reset: none -/
  halted : Tab Nat := []
  /-- UFS: link state 0 active, 1 hibernate, 2 lost (2) — 16 R499; reset: 0 -/
  link : Nat := 0
  /-- I²S: zero frames sent since a PLAY buffer ended (32) — 16 R500; reset: 0 -/
  zeros : Nat := 0
  /-- I²S: frames lost since a RECORD buffer ended (32) — 16 R500; reset: 0 -/
  lost : Nat := 0
  /-- I²S: samples of the last frame sent (model's own output port) — 16 R500; reset: none -/
  frameOut : List Word := []
  /-- bytes the host sent to its device last (model's own output port) — 16 R497; reset: none -/
  dataOut : List Byte := []
deriving DecidableEq, Repr, Inhabited

/-- A virtual network interface (R502). -/
structure Vnic where
  /-- owner + 1 (5), 0 when closed — 16 R502; reset: 0 -/
  owner : Nat := 0
  /-- VNIC_OPEN payload (32 bytes) — 16 R502; reset: none -/
  conf : List Byte := []
  /-- frames sent — 16 R504; reset: 0 -/
  sent : Stat := {}
  /-- frames received — 16 R504; reset: 0 -/
  recvd : Stat := {}
  /-- frames dropped — 16 R504; reset: 0 -/
  dropped : Stat := {}
  /-- transmit-done records that wait for RX_QUEUE — 16 R503; reset: none -/
  held : List (List Byte) := []
  /-- VNIC_CLOSE that waits for them — 16 R504; reset: none -/
  closing : Option Pend := none
deriving DecidableEq, Repr, Inhabited

/-- I/O hosts, virtual network interfaces and xSPI flash. -/
structure IoState where
  /-- units 0 to 13 — 16 R496; reset: unbound -/
  unit : Tab IoUnit := []
  /-- interfaces 0 to 31 — 16 R502; reset: closed -/
  vnic : Tab Vnic := []
  /-- xSPI flash as R501's commands left it, by byte: 0 not touched (the device's content), 1 erased, else value + 2 — 16 R501; reset: not touched -/
  flash : Tab Nat := []
deriving DecidableEq, Repr, Inhabited

/-- Bring-up, straps and resets (chapter 17). -/
structure Boot where
  /-- bring-up phase: 0 Off, 1 kept off by R49, 2 supplies rising, 5 training, 6 DRAM test, 10 ended, 11 waiting 1 s to retry the supplies (4) — 17 R505; reset: 0 -/
  phase : Nat := 0
  /-- phase 9 has ended: the Kettle admits jobs (1) — 17 R509; reset: 0 -/
  ready : Bool := false
  /-- service state (1) — 17 R509; reset: 0 -/
  service : Bool := false
  /-- kind of the run: 0 Off, 1 cold, 2 warm, 3 Park exit (2) — 17 R522; reset: 0 -/
  kind : Nat := 0
  /-- Kettle time at which the run started (64) — 17 R522; reset: 0 -/
  startAt : Nat := 0
  /-- leaf map of xSPI flash, by leaf: 0 fused off, 1 spare, 2 enabled, 3 fenced (2) — 17 R507; reset: DESIGN CHOICE leaves 0 to 159 enabled, 160 to 167 spare, assumption 4 -/
  map : Tab Nat := (List.range 168).map fun i => (i, if i < 160 then 2 else 1)
  /-- manufacturing fuses of the leaf map, by leaf (2) — 17 R507; reset: DESIGN CHOICE as the map, assumption 4 -/
  fuses : Tab Nat := (List.range 168).map fun i => (i, if i < 160 then 2 else 1)
  /-- boot configuration's grants, by party — 14 R439; reset: none (DESIGN CHOICE, assumption 4) -/
  grants : Tab Grant := []
  /-- boot configuration's SWM (16) — 14 R439; reset: DESIGN CHOICE 4, assumption 4 -/
  swm : Nat := 4
  /-- boot configuration's LWM (8) — 14 R439; reset: DESIGN CHOICE 0, assumption 4 -/
  lwm : Nat := 0
  /-- boot configuration's cluster worlds (4) — 14 R439; reset: DESIGN CHOICE 1, assumption 4 -/
  clusters : Nat := 1
  /-- boot configuration's NW_PARTY (5) — 14 R439; reset: DESIGN CHOICE G0, assumption 4 -/
  nwParty : Nat := 0
  /-- failed training attempts, by unit of event 0xA035 (2) — 17 R506; reset: 0 -/
  attempts : Tab Nat := []
  /-- links that are up, by unit of event 0xA035 (1) — 17 R506; reset: 0 -/
  linkUp : Tab Nat := []
  /-- what bring-up will meet (the command's operand) — 17 R505; reset: none -/
  input : Option BringupInput := none
  /-- DRAM test round in progress, 1 to 4, 0 when none (3) — 17 R508; reset: 0 -/
  round : Nat := 0
  /-- straps: host port is an endpoint (1) — 18 R533; reset: DESIGN CHOICE 0, assumption 4 -/
  endpoint : Bool := false
  /-- strap PCIE_CLK (1) — 18 R533; reset: DESIGN CHOICE 0, assumption 4 -/
  pcieClk : Bool := false
  /-- strap: GX reaches the part over PCIe (1) — 18 R533; reset: DESIGN CHOICE 0, assumption 4 -/
  gxPcie : Bool := false
  /-- RESET answered, waiting 100 µs: scope (3) and requester (5) — 17 R513; reset: none -/
  resetAsk : Option (Nat × Nat) := none
  /-- RESET of scope 1 whose final answer is due — 17 R513; reset: none -/
  resetPend : Option Pend := none
  /-- Kettle time at which the compute reset began (64), with its requester (7) — 17 R511; reset: 0 -/
  resetAt : Nat × Nat := (0, 0)
  /-- a compute reset is in progress: refused transactions so far (32) — 17 R512; reset: none -/
  resetting : Option Nat := none
  /-- enables dropped by PGOOD; power-up attempts failed (4) — 18 R527; reset: 0 -/
  pgoodFails : Nat := 0
  /-- the core die is held with FAULT_N asserted (1) — 14 R440; reset: 0 -/
  held : Bool := false
deriving DecidableEq, Repr, Inhabited

/-- Why the machine stops. The spec gives every command of this part an effect, so no meaning of this model raises a
fault: the type has no constructor, and nothing that the model says rests on one. -/
inductive Fault where
deriving DecidableEq, Repr

/-- Why a command has no meaning. -/
inductive Refusal where
  /-- raised by `exec` for a command whose meaning is not written yet; safe -/
  | notModelled (mnemonic : String)
deriving DecidableEq, Repr

/-- The answer of the last bus transaction or register read, as its initiator sees it. -/
structure Resp where
  /-- status code of Table 12.3 (8) — 01 R32; reset: 0 -/
  status : Nat := 0
  /-- bytes returned — 01 R32; reset: none -/
  data : List Byte := []
deriving DecidableEq, Repr, Inhabited

/-- The whole state of the part. -/
structure State where
  /-- commands that wait, first in first out (the interface's queue); reset: empty -/
  pending : List Instr := []
  /-- the part ordered — 00 R1; reset: UZT-7165-64 (DESIGN CHOICE, assumption 4) -/
  part : Part := {}
  /-- Kettle time in 10 ns units (64) — 02 R59; reset: 0 -/
  ktime : Nat := 0
  /-- free values drawn so far (model's own, assumption 5); reset: DESIGN CHOICE 0 -/
  fresh : Nat := 0
  /-- answer of the last bus transaction (model's own output port, assumption 3) — 01 R32; reset: none -/
  resp : Resp := {}
  /-- Caddy — 17 R516; reset: empty -/
  caddy : Caddy := {}
  /-- parties, by number — 01 R25; reset: nothing granted -/
  party : Tab PartySt := []
  /-- queues, by ID — 05 R137; reset: unbound -/
  queue : Tab Queue := []
  /-- leaves — 03 R62; reset: fused off until the leaf map is read -/
  lv : Leaves := {}
  /-- scheduling — 08 R216; reset: no estate -/
  jobs : Jobs := {}
  /-- power — 02 R53; reset: Run -/
  pw : Power := {}
  /-- memory — 11 R330; reset: empty -/
  mem : Mem := {}
  /-- safety — 13 R393; reset: no fault -/
  safe : Safety := {}
  /-- worlds — 14 R422; reset: SWM 4, LWM 0 -/
  world : World := {}
  /-- graphics, display and codec — 09 R247; reset: idle -/
  media : Media := {}
  /-- bring-up and resets — 17 R505; reset: before bring-up -/
  boot : Boot := {}
  /-- capture and fusion — 10 R287; reset: closed -/
  cap : Capture := {}
  /-- CAN controllers, switch and routing engine — 16 R469; reset: closed -/
  gw : Gateway := {}
  /-- field die — 16 R481; reset: powered from VBAT for the first time -/
  field : Field := {}
  /-- I/O hosts — 16 R495; reset: unbound -/
  io : IoState := {}
  /-- Crossing bridge — 15 R450; reset: no window open -/
  cross : Crossing := {}
  /-- firmware — 12 R366; reset: slot A committed -/
  firm : Firm := {}
deriving DecidableEq, Repr

/-- The part right after reset: every field at the value its docstring names. -/
def State.reset : State := {}

end Sys2Proof.Machine
end

