-- ==== Sys2Proof/Machine/Ops.lean ====
section
/-! DEFINITION. The shared operations: counters, memory, Caddy events, queues, notices, interrupts, the TCLK divider
and the passing of time. -/

namespace Sys2Proof.Machine

/-- What a command answers. -/
abbrev Res := Host.Outcome State Fault Refusal

/-! ### Counters (R11) -/

/-- All ones of a statistics counter. -/
def statMax : Nat := 2 ^ 48 - 1

/-- Adds `k` to a statistics counter: it saturates at all ones and sets OVF at that moment (R11). -/
def Stat.add (c : Stat) (k : Nat) : Stat :=
  if c.n + k < statMax then { c with n := c.n + k }
  else { n := statMax, ovf := c.ovf || decide (c.n < statMax) }

/-- A counter as a 64-bit value: the count in [47:0] and OVF in [63]. -/
def Stat.val (c : Stat) : Nat := c.n + b2n c.ovf * 2 ^ 63

/-- A counter after a read that clears OVF (RC, R10). -/
def Stat.read (c : Stat) : Stat := { c with ovf := false }

/-- A saturating sum of counters, with OVF where a summand had it or the sum saturated. -/
def statSum (cs : List Stat) : Stat :=
  cs.foldl (fun (a : Stat) c => { (a.add c.n) with ovf := (a.add c.n).ovf || c.ovf }) {}

/-- Puts a number into an ascending list, once. -/
def insertNat (n : Nat) : List Nat → List Nat
  | [] => [n]
  | x :: xs => if n < x then n :: x :: xs else if n = x then x :: xs else x :: insertNat n xs

/-- Numbers in ascending order, each once. -/
def insertAll (ns : List Nat) : List Nat := ns.foldl (fun l n => insertNat n l) []

/-! ### Free values -/

/-- Takes the next free-value number (assumption 5). -/
def draw (s : State) : Nat × State := (s.fresh, { s with fresh := s.fresh + 1 })

/-! ### Physical memory -/

/-- Memory is in its canonical form: addresses strictly rising, no byte listed that reads as an unlisted one. -/
abbrev Memory.wf (s : State) : Bool := Tab.wf s.mem.cells

/-- `n` bytes from physical address `a`. -/
def memRead (s : State) (a n : Nat) : List Byte := tread s.mem.cells a n

/-- The number held by `n` bytes at `a` (R8). -/
def memNat (s : State) (a n : Nat) : Nat := leNat (memRead s a n)

/-- Writes bytes at physical address `a`: no check, no cache. -/
def memWrite (s : State) (a : Nat) (bs : List Byte) : State :=
  { s with mem := { s.mem with cells := twrite s.mem.cells a bs } }

/-- Sets `n` bytes from `a` to 0. -/
def memZero (s : State) (a n : Nat) : State :=
  { s with mem := { s.mem with cells := tclear s.mem.cells a n } }

/-- 64 MiB granule of an address (R425). -/
def granuleOf (a : Nat) : Nat := a / 0x4000000

/-- Bytes of one channel group, G of R331. -/
def cgBytes (s : State) : Nat := if s.part.big then 0x1F0000000 else 0xF8000000

/-- One past the last byte of usable DRAM (R29). -/
def dramEnd (s : State) : Nat := 8 * cgBytes s

/-- Channel group of a DRAM address (R331). -/
def cgOf (s : State) (a : Nat) : Nat := a / cgBytes s

/-- Base address of a leaf's scratchpad (Table 1.5). -/
def spBase (leaf : Nat) : Nat := 0x1000000000 + leaf * 0x200000

/-- The leaf whose scratchpad holds an address. -/
def spLeaf (a : Nat) : Option Nat :=
  if 0x1000000000 ≤ a ∧ a < 0x1015000000 then some ((a - 0x1000000000) / 0x200000) else none

/-! ### Caddy (R516 to R519) -/

/-- PARTY byte of a record: bit 7 is the world, and 0x7F names no party (Table 17.5). -/
def partyByte (p : Nat) : Nat := if p = 16 then 0x90 else p

/-- No party, in a Caddy record. -/
def noParty : Nat := 0x7F

/-- SEVERITY of an event code. Table 17.9 gives 3 for 0x1004 and R518 gives 4 for 0xA0F0; the others follow the
meanings of Table 17.5, and between a note and a warning the value is free (assumption 10). -/
def sevOf (code : Nat) : Nat :=
  if code = 0xA0F0 ∨ code = 0x3006 ∨ code = 0xA020 ∨ code = 0x7008 then 4
  else if code = 0x1003 ∨ code = 0x1004 ∨ code = 0x3002 ∨ code = 0x3003 ∨ code = 0x3008 ∨ code = 0x3009 ∨
    code = 0x2005 ∨ code = 0xA045 then 3
  else if code = 0x7003 ∨ code = 0xA044 then Config.severity code % 5
  else if code = 0x1007 ∨ code = 0x1006 ∨ code = 0x2001 ∨ code = 0x2003 ∨ code = 0x2004 ∨ code = 0x4001 ∨
    code = 0x4002 ∨ code = 0x4003 ∨ code = 0xA040 ∨ code = 0xA041 then 2
  else b2n (Config.isWarning code)

/-- Slot of the next record: while the ring is frozen, records cycle through the 1,024 slots after the marker (R518). -/
def Caddy.slot (c : Caddy) : Nat :=
  if c.frozen then (c.marker + 1 + c.tail % 1024) % 65536 else c.next % 65536

/-- The distance from one sequence number to a later one, modulo 2³² (R11). -/
def seqDist (a b : Nat) : Nat := (b + 2 ^ 32 - a) % 2 ^ 32

/-- Whether a record of the ring is one that has not been flushed. -/
def Caddy.isUnflushed (c : Caddy) (r : CadRec) : Bool :=
  decide (r.code ≠ 0) && decide (seqDist c.unflushed r.seq < seqDist c.unflushed c.next)

/-- Writes one record into the ring (R516, R518, R519). -/
def Caddy.put (c : Caddy) (r : CadRec) : Caddy :=
  let old := tget c.ring c.slot
  { c with
    ring := tput c.ring c.slot { r with seq := c.next }
    next := (c.next + 1) % 2 ^ 32
    count := c.count + 1
    tail := if c.frozen then c.tail + 1 else c.tail
    lost := if c.frozen && decide (1024 ≤ c.tail) then c.lost.add 1 else c.lost
    flashLost := if c.isUnflushed old then c.flashLost.add 1 else c.flashLost }

/-- Writes a Caddy event with SOURCE `src`, CODE `code`, PARTY `party` and ARGS `args` (R517). Safety events also go to
GX (R421), which GX_IRQ_N announces (R365). -/
def event (src code party : Nat) (args : List Byte) (s : State) : State :=
  { s with
    caddy := s.caddy.put { ktime := s.ktime, source := src, code := code, party := partyByte party,
                           sev := sevOf code, args := args.take 12 }
    safe := if code / 0x100 = 0x30 then { s.safe with gxEvent := true } else s.safe }

/-- SOURCE of Afzan, of the keep island, of the Taster and of the field die (Tables 17.5 and 17.10). -/
def srcAfzan : Nat := 0xD000
def srcKeep : Nat := 0xC000
def srcTaster : Nat := 0xE000
def srcField : Nat := 0xB000
def srcCaddy : Nat := 0xF000
def srcMc (cg : Nat) : Nat := 0xC010 + cg
def srcCache (cg : Nat) : Nat := 0xC020 + cg
def srcStrainer (cg : Nat) : Nat := 0xC030 + cg
def srcSlice (n : Nat) : Nat := 0xC040 + n

/-- Starts an immediate flush (R519). -/
def flushNow (s : State) : State := { s with caddy := { s.caddy with flushing := true } }

/-- The estate in recovery, or 0xFF (Table 17.8). -/
def recoveryEst (s : State) : Nat := if s.jobs.recovery = 0 then 0xFF else s.jobs.recovery - 1

/-- Writes a freeze marker: it protects the records that end with it, and starts an immediate flush (R518, R519). A
marker written while the ring is frozen leaves the protection as it stands. -/
def freezeMarker (causeBit estate src : Nat) (s : State) : State :=
  let slot := s.caddy.slot
  let was := s.caddy.frozen
  let s := event srcCaddy 0xA0F0 noParty (leBytes 1 causeBit ++ leBytes 1 estate ++ leBytes 2 src) s
  let s := if was then s else { s with caddy := { s.caddy with frozen := true, marker := slot, tail := 0 } }
  flushNow s

/-- Puts a record into a list sorted by distance from `base`. -/
def insertRec (base : Nat) (r : CadRec) : List CadRec → List CadRec
  | [] => [r]
  | x :: xs => if seqDist base r.seq ≤ seqDist base x.seq then r :: x :: xs else x :: insertRec base r xs

/-- Appends a record at the write point of the flash circle, keeping the sector ahead erased (R519). -/
def flashPut (c : Caddy) (r : CadRec) : Caddy :=
  let ahead := ((c.flashAt / 2048 + 1) % 256) * 2048
  let fl := if c.flashAt % 2048 = 0 then tclear c.flash ahead 2048 else c.flash
  { c with flash := tput fl c.flashAt r, flashAt := (c.flashAt + 1) % 524288, flushed := r.seq }

/-- Copies every unflushed record that the ring still holds to flash, oldest first (R519). -/
def Caddy.flush (c : Caddy) (now : Nat) : Caddy :=
  let rs := (c.ring.filter fun e => c.isUnflushed e.2).foldl (fun l e => insertRec c.unflushed e.2 l) []
  let c := rs.foldl flashPut c
  { c with unflushed := c.next, lastFlush := now }

/-- A flush by the engine (R519). -/
def flushCaddy (s : State) : State := { s with caddy := s.caddy.flush s.ktime }

/-- SEQ of the oldest record still held (Table 17.7). -/
def Caddy.oldest (c : Caddy) : Nat :=
  let after := if c.frozen then min c.tail 1024 else 0
  let base := if c.frozen then (c.next + 2 ^ 32 - c.tail + after) % 2 ^ 32 else c.next
  let held := if c.frozen then min (c.count - c.tail + after) 65536 else min c.count 65536
  (base + 2 ^ 32 - held) % 2 ^ 32

/-! ### Parties -/

/-- The party's record. -/
def getParty (s : State) (p : Nat) : PartySt := tget s.party p
/-- Changes a party's record. -/
def modParty (s : State) (p : Nat) (f : PartySt → PartySt) : State := { s with party := tmod s.party p f }

/-- Whether an address range lies in DRAM ranges that pass `f`, granule by granule. -/
def inRanges (rs : List DramRange) (a n : Nat) (f : DramRange → Bool) : Bool :=
  (List.range (granuleOf (a + n - 1) + 1 - granuleOf a)).all fun i =>
    rs.any fun r => f r && decide (r.first ≤ granuleOf a + i) && decide (granuleOf a + i < r.first + r.count)

/-- Whether [a, a + n) lies in the DRAM grant of party `p`. -/
def inGrant (s : State) (p a n : Nat) : Bool :=
  decide (a + n ≤ dramEnd s) && inRanges (getParty s p).grant.dram a (max n 1) fun _ => true

/-- Whether [a, a + n) lies in the party's grant outside JOB_POOL ranges. -/
def inGrantNoPool (s : State) (p a n : Nat) : Bool :=
  decide (a + n ≤ dramEnd s) && inRanges (getParty s p).grant.dram a (max n 1) fun r => !r.pool

/-- Whether an address lies in a JOB_POOL range of the party. -/
def inPool (s : State) (p a : Nat) : Bool := inRanges (getParty s p).grant.dram a 1 fun r => r.pool

/-- Whether a queue lies in a block of the party's grant; `pool` asks for JOB_POOL blocks. -/
def qInGrant (s : State) (p q : Nat) (pool : Bool) : Bool :=
  (getParty s p).grant.qblocks.any fun b => decide (b.block = q / 64) && (b.pool == pool)

/-- The party that owns a queue's block. -/
def qOwner (s : State) (q : Nat) : Option Nat :=
  (List.range 17).find? fun p => (getParty s p).grant.qblocks.any fun b => decide (b.block = q / 64)

/-- The mailbox address: MBOX_SET's, or the first DRAM range that is not JOB_POOL (R357). -/
def mboxAddr (s : State) (p : Nat) : Option Nat :=
  let st := getParty s p
  if st.mbox ≠ 0 then some st.mbox
  else match st.grant.dram.find? fun r => !r.pool with
    | some r => some (r.first * 0x4000000)
    | none => none

/-- Raises an interrupt as the entry routes it (R364): the identity goes pending in the hart's interrupt file, or the
MSI-X vector is sent. -/
def raiseIrq (e : IrqEntry) (s : State) : State :=
  if !e.enable then s
  else if e.pcie then { s with world := { s.world with msix := tput s.world.msix e.ident 1 } }
  else { s with world := { s.world with irqs := tput s.world.irqs (e.hart * 2048 + e.ident) 1 } }

/-- Raises a party's source 0, for answers and notices; GX has GX_IRQ_N instead (R365). -/
def raiseMbox (p : Nat) (s : State) : State :=
  if p = 17 then { s with safe := { s.safe with gxIrq := true } } else raiseIrq (getParty s p).irq0 s

/-! ### Queues (R137 to R149) -/

/-- The queue's record. -/
def getQ (s : State) (q : Nat) : Queue := tget s.queue q
/-- Changes a queue's record. -/
def modQ (s : State) (q : Nat) (f : Queue → Queue) : State := { s with queue := tmod s.queue q f }

/-- N, the entries of the ring (R139). -/
def Queue.n (q : Queue) : Nat := 2 ^ q.lg
/-- Entry size in bytes. -/
def Queue.esz (q : Queue) : Nat := 16 * 2 ^ q.esize
/-- Entries present (R139). -/
def Queue.len (q : Queue) : Nat := (q.tail + 2 * q.n - q.head) % (2 * q.n)
/-- Slots in use (R139). -/
def Queue.used (q : Queue) : Nat := (q.tail + 2 * q.n - q.retire) % (2 * q.n)
/-- Full: every slot is in use (R139). -/
def Queue.full (q : Queue) : Bool := decide (q.used = q.n)
/-- Advances a pointer by `k` (R139). -/
def Queue.adv (q : Queue) (p k : Nat) : Nat := (p + k) % (2 * q.n)
/-- Address of the slot that pointer `p` names. -/
def Queue.slotAddr (q : Queue) (p : Nat) : Nat := q.base + (p % q.n) * q.esz
/-- Address of the tile buffer of the slot that pointer `p` names (R141). -/
def Queue.bufAddr (q : Queue) (p : Nat) : Nat := q.tbase + (p % q.n) * q.stride
/-- Kinds of Table 5.1. -/
def Queue.isTile (q : Queue) : Bool := decide (q.kind = 0)

/-- Adds a queue ID to its owner's notification list and raises source 1; an ID that is in the list is not added again, and
one that does not fit sets NOTIFY_OVF (R146). -/
def notify (p q : Nat) (s : State) : State :=
  let st := getParty s p
  if q ∈ st.notify then s
  else if 256 ≤ st.notify.length then modParty s p fun t => { t with notifyOvf := true }
  else raiseIrq st.irq1 (modParty s p fun t => { t with notify := t.notify ++ [q] })

/-- The notification that `k` pushed entries cause on queue `q`, which held `before` entries (R146). -/
def notifyPush (q before : Nat) (s : State) : State :=
  let f := (getQ s q).flags
  if bitOf f 0 && (bitOf f 1 || decide (before = 0)) then
    match qOwner s q with
    | some p => notify p q s
    | none => s
  else s

/-- The leaf's record. -/
def getLeaf (s : State) (l : Nat) : Leaf := tget s.lv.leaf l
/-- Changes a leaf's record. -/
def modLeaf (s : State) (l : Nat) (f : Leaf → Leaf) : State :=
  { s with lv := { s.lv with leaf := tmod s.lv.leaf l f } }

/-- The states of the segments that [off, off + n) touches. -/
def segsOf (s : State) (l off n : Nat) : List Seg :=
  (List.range ((off + n - 1) / 0x40000 + 1 - off / 0x40000)).map fun i => tget (getLeaf s l).segs (off / 0x40000 + i)

/-- The state after bytes land in a leaf's scratchpad: parity is written with them, and every line touched takes the
reload tag `tag` (R90). -/
def spPut (l off tag : Nat) (bs : List Byte) (s : State) : State :=
  let s := memWrite s (spBase l + off) bs
  let lines := (List.range ((off + bs.length - 1) / 256 + 1 - off / 256)).map fun i => l * 8192 + off / 256 + i
  if bs.isEmpty then s
  else { s with lv := { s.lv with badByte := tclear s.lv.badByte (spBase l + off) bs.length
                                  lineTag := lines.foldl (fun t x => tput t x tag) s.lv.lineTag } }

/-- Event 0x1006 (R98, R107); `ini` is the initiator of Table 1.9 and `p` the party it acts for. -/
def bankOffEvent (l ini p off : Nat) (write : Bool) (s : State) : State :=
  event l 0x1006 p (leBytes 2 l ++ leBytes 1 (off / 0x40000) ++ leBytes 2 ini ++ leBytes 1 (b2n write) ++ leBytes 3 off) s

/-- The event of a refused transaction (Table 1.8), code 0x2001 or 0x4001, from the unit that detected it. During a compute
reset it is counted instead (R512). -/
def refusal (src code party ini a : Nat) (sec write : Bool) (s : State) : State :=
  match s.boot.resetting with
  | some n => { s with boot := { s.boot with resetting := some (n + 1) } }
  | none => event src code party (leBytes 2 ini ++ leBytes 6 a ++ leBytes 1 (b2n sec) ++ leBytes 1 (b2n write)) s

/-- A job's inputs have changed (R164). -/
def Job.fire (ns : List Nat) (j : Job) : Job := if ns.contains j.serial then { j with fired := true } else j

/-- A write to a watched page marks the job's inputs changed, wherever the job stands: on its estate, waiting for its
replay, or pre-empted (R164). -/
def fireWatches (a n : Nat) (s : State) : State :=
  let ns := (s.jobs.watches.filter fun x => decide (x.lo ≤ (a + n - 1) / 4096) && decide (a / 4096 < x.hi)).map (·.serial)
  if ns.isEmpty then s
  else { s with jobs := { s.jobs with
    est := tmap (fun e : Estate => { e with job := e.job.map (Job.fire ns), replay := e.replay.map (Job.fire ns) }) s.jobs.est
    waiting := s.jobs.waiting.map fun w => if ns.contains w.serial then { w with marks := (w.marks.1, true, w.marks.2.2) } else w } }

/-- Who writes for the Kettle or a queue slice: initiator of Table 1.9 and security attribute. -/
structure Writer where
  ini : Nat
  sec : Bool
deriving DecidableEq, Repr

/-- The Kettle and its Pour engine (Tables 1.4 and 1.9). -/
def byKettle : Writer := { ini := 0x3000, sec := true }

/-- A queue slice, to which Table 1.9 gives no class (assumption 25). It acts for the owner of the queue. -/
def bySlice (s : State) (q : Nat) : Writer :=
  { ini := Config.iniCode (2 + q / 0x4000) % 0x10000, sec := decide (qOwner s q = some 16) }

/-- Bytes written by the Kettle or a queue slice, in one place: a fenced leaf is unbacked (R103), a segment that is off drops
them (R98), a scratchpad line stops being reloadable (R90), and in DRAM a write watch fires (R164). -/
def putBytes (w : Writer) (a : Nat) (bs : List Byte) (s : State) : State :=
  match spLeaf a with
  | none => fireWatches a bs.length (memWrite s a bs)
  | some l =>
    if (getLeaf s l).kind = .fenced then refusal l 0x2001 noParty w.ini a w.sec true s
    else if Seg.off ∈ segsOf s l (a - spBase l) bs.length then bankOffEvent l w.ini noParty (a - spBase l) true s
    else spPut l (a - spBase l) 0 bs s

/-- Bytes read by the Kettle or a queue slice: a fenced leaf and a segment that is off give none, which read 0. -/
def getBytes (w : Writer) (a n : Nat) (s : State) : State × List Byte :=
  match spLeaf a with
  | none => (s, memRead s a n)
  | some l =>
    if (getLeaf s l).kind = .fenced then (refusal l 0x2001 noParty w.ini a w.sec false s, List.replicate n 0#8)
    else if Seg.off ∈ segsOf s l (a - spBase l) n then (bankOffEvent l w.ini noParty (a - spBase l) false s, List.replicate n 0#8)
    else (s, memRead s a n)

/-- Pushes an entry: it lands in the slot of TAIL, the slice fills a TILE entry's ADDR, and TAIL advances (R139, R141).
The queue is bound and not full. -/
def pushEntry (q : Nat) (bs : List Byte) (s : State) : State :=
  let k := getQ s q
  let e := if k.isTile then leBytes 6 (k.bufAddr k.tail) ++ bs.drop 6 else bs
  let s := putBytes (bySlice s q) (k.slotAddr k.tail) e s
  let s := modQ s q fun x => { x with tail := x.adv x.tail 1, pushed := x.pushed.add 1, came := x.came ++ (if x.cons = 5 then [s.ktime] else []) }
  notifyPush q k.len s

/-- Reads the entry at HEAD. -/
def headRead (q : Nat) (s : State) : State × List Byte :=
  let k := getQ s q
  getBytes (bySlice s q) (k.slotAddr k.head) k.esz s

/-- The entry at HEAD. -/
def headEntry (s : State) (q : Nat) : List Byte := (headRead q s).2

/-- Pops the entry at HEAD: it is read, HEAD advances, and RETIRE with it except in a TILE queue (R139). -/
def popEntry (q : Nat) (s : State) : State :=
  modQ (headRead q s).1 q fun x =>
    { x with head := x.adv x.head 1, retire := if x.isTile then x.retire else x.adv x.head 1, popped := x.popped.add 1, came := x.came.drop 1 }

/-- Whether a queue is bound, of kind RECORD, and can take one entry. -/
def canPush (s : State) (q : Nat) : Bool := (getQ s q).bound && !(getQ s q).full

/-- Pushes records that the Kettle holds for a COMPLETE queue while it has space (R149). -/
def drainHeld (q : Nat) : Nat → State → State
  | 0, s => s
  | n + 1, s =>
    match (getQ s q).held with
    | [] => s
    | r :: rs =>
      if canPush s q then drainHeld q n (pushEntry q r (modQ s q fun x => { x with held := rs })) else s

/-- Writes a completion record to a COMPLETE queue, or holds it in order while the queue is full (R149). During an
activation window it is held at the Kettle (Table 12.8). -/
def complete (q : Nat) (bs : List Byte) (s : State) : State :=
  if s.firm.act = .open_ then { s with firm := { s.firm with heldOut := s.firm.heldOut ++ [(q, bs)] } }
  else
    let s := modQ s q fun x => { x with held := x.held ++ [bs] }
    drainHeld q ((getQ s q).held.length) s

/-- Pushes held notices of a party while its notice queue has space (R361). -/
def drainNotices (p : Nat) : Nat → State → State
  | 0, s => s
  | n + 1, s =>
    match (getParty s p).heldNotices with
    | [] => s
    | r :: rs =>
      let q := (getParty s p).notice
      if canPush s q then
        drainNotices p n (raiseMbox p (pushEntry q r (modParty s p fun t => { t with heldNotices := rs })))
      else s

/-- Pushes a notice record to a party (Table 12.2), held in order while the queue is full or the activation window is
open. A party with no notice queue gets none. -/
def pushNotice (p : Nat) (bs : List Byte) (s : State) : State :=
  if !(getParty s p).noticeOn then s
  else
    let s := modParty s p fun t => { t with heldNotices := t.heldNotices ++ [bs] }
    if s.firm.act = .open_ then s else drainNotices p ((getParty s p).heldNotices.length) s

/-- A notice record (Table 12.2). -/
def noticeRec (tag msg status kind detail result : Nat) : List Byte :=
  leBytes 8 tag ++ leBytes 2 msg ++ leBytes 1 status ++ leBytes 1 kind ++ leBytes 4 0 ++ leBytes 8 detail ++ leBytes 8 result

/-! ### The TCLK divider (R40, R41) -/

/-- TCLK steps in order, fastest first. -/
def tclkSteps : List Nat := [8, 9, 10, 11, 12, 14, 16]

/-- One step down: the next divider in the list. -/
def stepDown (d : Nat) : Nat := (tclkSteps.find? fun x => decide (d < x)).getD 16
/-- One step back up. -/
def stepUp (d : Nat) : Nat := (tclkSteps.reverse.find? fun x => decide (x < d)).getD 8

/-- The estate's record. -/
def getEst (s : State) (e : Nat) : Estate := tget s.jobs.est e
/-- Changes an estate's record. -/
def modEst (s : State) (e : Nat) (f : Estate → Estate) : State :=
  { s with jobs := { s.jobs with est := tmod s.jobs.est e f } }

/-- The numbers of the estates that exist. -/
def estates (s : State) : List Nat := (List.range 16).filter fun e => (getEst s e).live

/-- The requested divider: the smallest asked for by a party that holds an estate; a party that never asked, asks for
the floor (R374). With no estate held, the floor (assumption 11). -/
def requestedDiv (s : State) : Nat :=
  let ps := (List.range 17).filter fun p => (estates s).any fun e => decide ((getEst s e).party = p)
  let ds := ps.map fun p => if (getParty s p).divider = 0 then s.part.floor else (getParty s p).divider
  match ds with
  | [] => s.part.floor
  | d :: r => r.foldl min d

/-- The effective divider (R40); the fast current limiter forces /16 (R45). -/
def effDiv (s : State) : Nat :=
  if s.pw.fast then 16
  else max (max s.part.floor (requestedDiv s)) (max s.pw.powerStep s.pw.thermalStep)

/-- Fused VDD_LEAF of a TCLK step, in mV: held per part and not stated, at most 700 for /16 (R44, assumption 12). -/
def fusedMv (d : Nat) : Nat := if d = 16 then min 700 (max 650 (Config.fusedMv d)) else max 650 (min 850 (Config.fusedMv d))

/-- Brings the divider in force toward the effective divider: a slower clock takes effect at once and the voltage
follows; a faster one waits until VDD_LEAF reaches its setting (R41). In Hush, and until the leaf clocks have restarted at /16 after
it, divider and voltage stand (R44). -/
def settleDiv (s : State) : State :=
  let d := effDiv s
  if s.pw.st = .hush ∨ s.pw.vddWait then s
  else if d = s.pw.div then { s with pw := { s.pw with divNext := 0, vddTarget := fusedMv d } }
  else if s.pw.div < d then { s with pw := { s.pw with div := d, divNext := 0, vddTarget := fusedMv d } }
  else { s with pw := { s.pw with divNext := d, vddTarget := fusedMv d } }

/-! ### Time (assumption 2) -/

/-- The leaf clocks run: in Run, with the root locked, the core supplied, and VDD_LEAF above the retention voltage (R37,
R38, R44, R48, R53). -/
def clocked (s : State) : Bool :=
  decide (s.pw.st = .run) && !s.pw.thermalDoze && !s.pw.forced && !s.pw.pllLost && s.pw.supplied && decide (650 ≤ s.pw.vdd) && !s.pw.vddWait

/-- A job after 10 ns of running: 132 periods of the root clock, divided by the divider in force (R35, R51). -/
def Job.tick (d : Nat) (j : Job) : Job :=
  if j.phase = .running ∨ j.phase = .pouring then
    { j with runTclk := j.runTclk + (j.runRem + 132) / d, runRem := (j.runRem + 132) % d }
  else j

/-- 10 ns pass, or one crystal period in Rest: Kettle time counts, and so do the run cycles of jobs (R51, R59). With the
core die off the Kettle's counter stands. -/
def tick (s : State) : State :=
  { s with
    ktime := if s.pw.st = .park ∨ !s.pw.supplied then s.ktime else (s.ktime + if s.pw.st = .rest then 4 else 1) % 2 ^ 64
    jobs := { s.jobs with est := s.jobs.est.map fun x => (x.1, { x.2 with job := if clocked s then x.2.job.map (Job.tick s.pw.div) else x.2.job }) } }

/-! ### CRCs -/

/-- One bit of a reflected CRC-32. -/
def crc32Bits (poly : BitVec 32) : Nat → BitVec 32 → BitVec 32
  | 0, c => c
  | n + 1, c => crc32Bits poly n (if c.getLsbD 0 then (c >>> 1) ^^^ poly else c >>> 1)

/-- CRC-32C of bytes (assumption 7). -/
def crc32c (bs : List Byte) : Nat :=
  (~~~ (bs.foldl (fun c b => crc32Bits Config.crcPoly 8 (c ^^^ b.setWidth 32)) 0xFFFFFFFF#32)).toNat

/-- One bit of the CRC-64 of R402. -/
def crc64Bits : Nat → BitVec 64 → BitVec 64
  | 0, c => c
  | n + 1, c => crc64Bits n (if c.getLsbD 63 then (c <<< 1) ^^^ 0x42F0E1EBA9EA3693#64 else c <<< 1)

/-- Folds bytes into a CRC-64 (R402): no reflection, no final XOR. -/
def crc64 (c : BitVec 64) (bs : List Byte) : BitVec 64 :=
  bs.foldl (fun (c : BitVec 64) (b : Byte) => crc64Bits 8 (c ^^^ (b.setWidth 64 <<< (56 : Nat)))) c

end Sys2Proof.Machine
end

