-- ==== Sys2Proof/Machine/Msg.lean ====
section
/-! DEFINITION. The mailbox protocol: the order of service, the checks every message passes, the answer page and the
notices (R357 to R363). -/

namespace Sys2Proof.Machine

/-- Status codes (Table 12.3). -/
def stOK : Nat := 0x00
def stPENDING : Nat := 0x01
def stBUSY : Nat := 0x02
def stDENIED : Nat := 0x03
def stBAD_ARG : Nat := 0x04
def stNO_RESOURCE : Nat := 0x05
def stTIMEOUT : Nat := 0x06
def stFENCED : Nat := 0x07
def stWINDOW_CLOSED : Nat := 0x08
def stBANK_OFF : Nat := 0x09
def stOVERDUE : Nat := 0x0B
def stABORTED : Nat := 0x0C
def stDATA_ERROR : Nat := 0x0D
def stREPLAY_LIMIT : Nat := 0x0E
def stNOT_READY : Nat := 0x0F

/-- The number of a party: G0 to G15, GS 16, GX 17 (Table 17.5). -/
def pidx (p : Party) : Nat := match p with | .g n => n.val | .gs => 16 | .gx => 17

/-- "Party" of Table 12.5: G0 to G15 and GS. -/
def isParty (p : Nat) : Bool := p ≤ 16
/-- Party or GX. -/
def isPartyGx (p : Nat) : Bool := p ≤ 17
/-- GS only. -/
def isGs (p : Nat) : Bool := p == 16
/-- GX only. -/
def isGx (p : Nat) : Bool := p == 17
/-- GS or GX. -/
def isGsGx (p : Nat) : Bool := p == 16 || p == 17

/-- What a message is answered with. -/
structure Ans where
  status : Nat
  detail : Nat := 0
  payload : List Byte := []
deriving DecidableEq, Repr

/-- OK with a payload. -/
def okWith (bs : List Byte) : Ans := { status := stOK, payload := bs }
/-- OK with nothing. -/
def ok : Ans := { status := stOK }
/-- BAD_ARG with DETAIL naming the payload byte `off` of the first failing field (Table 12.1). -/
def badArg (off : Nat) : Ans := { status := stBAD_ARG, detail := 64 + off }
/-- BAD_ARG for a field in a buffer that the message names (Table 12.1). -/
def badBuf (off : Nat) : Ans := { status := stBAD_ARG, detail := 2 ^ 63 + off }
/-- A status alone. -/
def sts (x : Nat) : Ans := { status := x }
/-- NO_RESOURCE with the amount lacking. -/
def noRes (lack : Nat) : Ans := { status := stNO_RESOURCE, detail := lack }

/-- The running slot. -/
def runSlot (s : State) : Slot := if s.firm.slot = 0 then s.firm.a else s.firm.b
/-- The other slot. -/
def otherSlot (s : State) : Slot := if s.firm.slot = 0 then s.firm.b else s.firm.a

/-- An answer header and payload (Table 12.1). -/
def ansBytes (s : State) (msg tag : Nat) (a : Ans) : List Byte :=
  leBytes 2 msg ++ leBytes 2 a.payload.length ++ leBytes 1 a.status ++ leBytes 1 1 ++ leBytes 2 (runSlot s).afi ++
    leBytes 8 tag ++ leBytes 8 a.detail ++ leBytes 40 0 ++ a.payload

/-- Writes bytes into a party's mailbox at offset `off`; GX's lies in Kettle SRAM (R357). -/
def mboxWrite (p off : Nat) (bs : List Byte) (s : State) : State :=
  if p = 17 then { s with safe := { s.safe with gxPages := twrite s.safe.gxPages off bs } }
  else match mboxAddr s p with
    | some a => putBytes byKettle (a + off) bs s
    | none => s

/-- Writes the answer page, clears MBOX_BUSY and raises the party's mailbox interrupt (R358 steps 4 and 5). -/
def answer (p msg tag : Nat) (a : Ans) (s : State) : State :=
  let s := mboxWrite p 4096 (ansBytes s msg tag a) s
  raiseMbox p (modParty s p fun t => { t with busy := false, rung := false })

/-- The final answer of a message that had answered PENDING, or that held MBOX_BUSY (R361). A party whose notice queue a secure
restart took away gets it in its mailbox (R435). -/
def finish (d : Pend) (a : Ans) (s : State) : State :=
  if d.notice then
    let s := modParty s d.party fun t => { t with outstanding := t.outstanding - 1 }
    if !(getParty s d.party).noticeOn then mboxWrite d.party 4096 (ansBytes s d.msg d.tag a) s
    else pushNotice d.party (noticeRec d.tag d.msg a.status 0 a.detail (field a.payload 0 8)) s
  else answer d.party d.msg d.tag a s

/-- Finishes several messages with the same answer, in order. -/
def finishAll (ds : List Pend) (a : Ans) (s : State) : State := ds.foldl (fun s d => finish d a s) s

/-- The Gn that is next in ascending order after the one served last, among those that have rung (R360). -/
def nextG (s : State) : Option Nat :=
  ((List.range 16).map fun i => (s.firm.lastG + 1 + i) % 16).find? fun p => (getParty s p).rung

/-- The mailbox that the Kettle takes next: passes of GX, GS and the next Gn (R360). -/
def nextMailbox (s : State) : Option Nat :=
  let gx := if (getParty s 17).rung then some 17 else none
  let gs := if (getParty s 16).rung then some 16 else none
  match s.firm.turn with
  | 0 => gx.orElse fun _ => gs.orElse fun _ => nextG s
  | 1 => gs.orElse fun _ => (nextG s).orElse fun _ => gx
  | _ => (nextG s).orElse fun _ => gx.orElse fun _ => gs

/-- Records whose turn it is after `p` was served. -/
def tookTurn (p : Nat) (s : State) : State :=
  { s with firm := { s.firm with
      turn := if p = 17 then 1 else if p = 16 then 2 else 0
      lastG := if p < 16 then p else s.firm.lastG } }

/-- Whether the Kettle takes this sender's message now: it has rung, it is next (R360), the Kettle has not faulted
(R513), the core die runs, and GS's mailbox is not closed (Table 14.5). -/
def served (p : Nat) (s : State) : Bool :=
  (getParty s p).rung && decide (nextMailbox s = some p) && !s.safe.kettleFault && s.pw.supplied && !s.boot.held
    && decide (s.pw.st ≠ .rest) && decide (s.pw.st ≠ .park) && !(decide (p = 16) && s.world.gsClosed)

/-- Header check 2 of R362: the offset of the first failing field. -/
def headerBad (m : Msg) (len : Msg → Bool) : Option Nat :=
  if m.payload.length ≠ m.length.toNat ∨ !len m then some 2
  else if m.status ≠ 0 then some 4
  else if m.flags ≠ 0 then some 5
  else if m.detail ≠ 0 then some 16
  else if m.rsv ≠ 0 then some 24
  else none

/-- Messages that the Kettle answers before phase 9 of bring-up ends (R509). -/
def earlyMsg (code : Nat) : Bool :=
  code == 0x0001 || code == 0x0703 || code == 0x0B10 || code == 0x0B11 || code == 0x0B12

/-- Messages that a frozen guest may send (R243). -/
def frozenMsg (code : Nat) : Bool := code == 0x0001 || code == 0x0203 || code == 0x0204 || code == 0x0205 || code == 0x0206

/-- Event 0xA021 at the first header AFI that differs from the running version (R367). -/
def afiNote (p : Nat) (m : Msg) (s : State) : State :=
  if m.afi.toNat ≠ (runSlot s).afi ∧ !(getParty s p).afiSeen then
    event srcAfzan 0xA021 p (leBytes 1 p ++ leBytes 2 m.afi.toNat ++ leBytes 2 (runSlot s).afi)
      (modParty s p fun t => { t with afiSeen := true })
  else s

/-- The message as an outstanding one. -/
def pendOf (s : State) (code : Nat) (m : Msg) : Pend :=
  { party := (pidx m.sender), tag := m.tag.toNat, msg := code, notice := (getParty s (pidx m.sender)).noticeOn }

/-- What a message's own checks and effect give: a new state, and its answer or none for PENDING. -/
abbrev Own := Msg → Pend → State → State × Option Ans

/-- Acts on a rung message: the checks of R362 in order, then the message's own (R358, R361). A message that may not answer
PENDING (Table 12.5) keeps MBOX_BUSY until it finishes. -/
def serveAs (mayPend : Bool) (code : Nat) (allow : Nat → Bool) (len : Msg → Bool) (own : Own) (m : Msg) (s : State) : State :=
  let p := (pidx m.sender)
  if !served p s then s
  else
    let s := tookTurn p s
    let tag := m.tag.toNat
    if s.firm.act = .open_ then answer p code tag (sts stBUSY) s
    else
      let s := afiNote p m s
      if !s.boot.ready && !earlyMsg code then answer p code tag (sts stNOT_READY) s
      else match headerBad m len with
        | some off => answer p code tag { status := stBAD_ARG, detail := off } s
        | none =>
          if !allow p then answer p code tag (sts stDENIED) s
          else if (getParty s p).frozen ≠ 0 && !frozenMsg code then answer p code tag (sts stBUSY) s
          else
            let d := pendOf s code m
            let d := { d with notice := d.notice && mayPend }
            match own m d s with
            | (t, some a) => answer p code tag a t
            | (t, none) =>
              if d.notice then
                if 32 ≤ (getParty s p).outstanding then answer p code tag (sts stBUSY) s
                else answer p code tag (sts stPENDING)
                  (modParty t p fun x => { x with outstanding := x.outstanding + 1 })
              else modParty t p fun x => { x with rung := false }

/-- A message that may answer PENDING, or that always answers at once. -/
def serve (code : Nat) (allow : Nat → Bool) (len : Msg → Bool) (own : Own) (m : Msg) (s : State) : State := serveAs true code allow len own m s

/-- A payload field. -/
def fld (m : Msg) (off n : Nat) : Nat := field m.payload off n
/-- A LENGTH of exactly `n`. -/
def lenIs (n : Nat) : Msg → Bool := fun m => m.length.toNat == n

end Sys2Proof.Machine
end

