-- ==== Sys2Proof/Machine/Template.lean ====
section
/-! DEFINITION. Job templates: reading the image, its checks (R158), and the placer's plan (R159, R543). -/

namespace Sys2Proof.Machine

/-- STATIONS, QUEUES, BUFFERS and KEPT of the header (Table 5.11). -/
def tStations (img : List Byte) : Nat := field img 40 2
def tQueues (img : List Byte) : Nat := field img 42 2
def tBuffers (img : List Byte) : Nat := field img 44 2
def tKept (img : List Byte) : Nat := field img 46 2
def tLeavesMin (img : List Byte) : Nat := field img 8 2
def tLeavesMax (img : List Byte) : Nat := field img 10 2
def tReplaySafe (img : List Byte) : Bool := bitOf (field img 6 2) 0
def tGraphics (img : List Byte) : Bool := bitOf (field img 6 2) 1
def tDuration (img : List Byte) : Nat := field img 16 8
def tDramBytes (img : List Byte) : Nat := field img 24 8
def tKeptBytes (img : List Byte) : Nat := field img 32 4
def tReportBytes (img : List Byte) : Nat := field img 36 4
/-- STALL_US, where 0 means 10,000 µs. -/
def tStallUs (img : List Byte) : Nat := if field img 12 4 = 0 then 10000 else field img 12 4

/-- A field of station `i` (Table 5.12). -/
def tStation (img : List Byte) (i off n : Nat) : Nat := field img (field img 48 4 + 48 * i + off) n
/-- A field of internal queue `i` (Table 5.13). -/
def tQueue (img : List Byte) (i off n : Nat) : Nat := field img (field img 52 4 + 16 * i + off) n
/-- A field of buffer `i` (Table 5.14). -/
def tBuffer (img : List Byte) (i off n : Nat) : Nat := field img (field img 56 4 + 16 * i + off) n
/-- A field of kept entry `i` (Table 5.15). -/
def tKeptE (img : List Byte) (i off n : Nat) : Nat := field img (field img 60 4 + 16 * i + off) n

/-- Threads per instance, vector registers per thread, accumulator owners, scratchpad bytes, image place and entry. -/
def sThreads (img : List Byte) (i : Nat) : Nat := tStation img i 20 1
def sVregs (img : List Byte) (i : Nat) : Nat := tStation img i 21 1
def sAcc (img : List Byte) (i : Nat) : Nat := tStation img i 22 1
def sScratch (img : List Byte) (i : Nat) : Nat := tStation img i 24 4 * 1024
def sImageBytes (img : List Byte) (i : Nat) : Nat := tStation img i 32 4
def sEntry (img : List Byte) (i : Nat) : Nat := tStation img i 36 4
/-- The bytes of a station's image (R158). -/
def sImage (img : List Byte) (i : Nat) : List Byte :=
  (img.drop (field img 64 4 + tStation img i 28 4)).take (sImageBytes img i)
/-- Offset of the argument block within a region (R544). -/
def argOff (img : List Byte) (i : Nat) : Nat := (sImageBytes img i + 255) / 256 * 256

/-! ### Pour packets (R386) -/

/-- COUNT: the packets of an image of `b` bytes. -/
def pourCount (b : Nat) : Nat := (b + 4063) / 4064

/-- Packet `n` of an image that goes to scratchpad offset `target` (Table 12.9); `flags` bit 0 marks microcode. -/
def pourPacket (id flags : Nat) (image : List Byte) (target n : Nat) : List Byte :=
  let pay := (image.drop (n * 4064)).take 4064
  let p := leBytes 4 id ++ leBytes 4 n ++ leBytes 4 (pourCount image.length) ++ leBytes 2 pay.length ++ leBytes 2 flags ++ leBytes 4 target ++
    leBytes 8 0 ++ pay ++ List.replicate (4064 - pay.length) 0#8
  p ++ leBytes 4 (crc32c p)

/-- The packets of a station image, in ascending SEQ. -/
def pourPackets (id : Nat) (image : List Byte) (target : Nat) : List (List Byte) :=
  (List.range (pourCount image.length)).map (pourPacket id 0 image target)

/-- What the copy of a template takes in DRAM: the image, and each station's image as a run of whole packets (R158, R386). -/
def copyBytes (img : List Byte) : Nat :=
  img.length + ((List.range (tStations img)).map fun i => pourCount (sImageBytes img i) * 4096).sum

/-- Whether an instance of station `i` fits beside the instances `here` of one leaf (R159). -/
def fitsOn (img : List Byte) (here : List Inst) (i : Nat) : Bool :=
  let all := i :: here.map (·.station)
  let sum := fun (f : Nat → Nat) => (all.map f).sum
  decide (sum (sThreads img) ≤ 64) && decide (sum (fun k => sThreads img k * sVregs img k) ≤ 32) &&
  decide (sum (fun k => b2n (bitOf (sAcc img k) 0)) ≤ 1) && decide (sum (fun k => b2n (bitOf (sAcc img k) 1)) ≤ 1) &&
  decide (sum (sScratch img) ≤ 0x200000)

/-- The instances on leaf `l`. -/
def onLeaf (is : List Inst) (l : Nat) : List Inst := is.filter fun x => decide (x.leaf = l)

/-- Puts instance `k` of station `i` on the lowest-indexed empty leaf where it fits, else on the lowest-indexed leaf
where it fits (R543 step 3), with its first thread, vector registers and region (step 5, R159). -/
def layOne (img : List Byte) (leaves : List Nat) (is : List Inst) (i k : Nat) : Option (List Inst) :=
  let pick := (leaves.find? fun l => (onLeaf is l).isEmpty && fitsOn img [] i).orElse fun _ =>
    leaves.find? fun l => fitsOn img (onLeaf is l) i
  pick.map fun l =>
    let here := onLeaf is l
    let sum := fun (f : Nat → Nat) => (here.map fun x => f x.station).sum
    is ++ [{ station := i, inst := k, leaf := l, first := sum (sThreads img),
             vbase := sum (fun j => sThreads img j * sVregs img j), region := sum (sScratch img) }]

/-- Lays `n` instances of station `i`, from number `k`. -/
def layMany (img : List Byte) (leaves : List Nat) (i : Nat) : Nat → Nat → List Inst → Option (List Inst)
  | 0, _, is => some is
  | n + 1, k, is => (layOne img leaves is i k).bind fun js => layMany img leaves i n (k + 1) js

/-- R543 steps 2 and 3: every station at INST_MIN. -/
def layMin (img : List Byte) (leaves : List Nat) : Option (List Inst) :=
  (List.range (tStations img)).foldl (fun o i => o.bind fun is => layMany img leaves i (tStation img i 16 2) 0 is) (some [])

/-- Instances of station `i` laid so far. -/
def countOf (is : List Inst) (i : Nat) : Nat := (is.filter fun x => decide (x.station = i)).length

/-- The map limit of R160 with `c` instances of station `i`. -/
def mapFits (img : List Byte) (i c : Nat) : Bool :=
  (List.range (tQueues img)).all fun j => decide (tQueue img j 1 1 ≠ i) || decide (tQueue img j 4 1 + c ≤ 256)

/-- INST_MAX of station `i`; 0 stands for `u` minus the minima of the others (R543 step 2). -/
def instMax (img : List Byte) (u i : Nat) : Nat :=
  let m := tStation img i 18 2
  if m = 0 then u - ((List.range (tStations img)).map fun j => if j = i then 0 else tStation img j 16 2).sum else m

/-- The lowest leaf that holds no instance. -/
def emptyLeaf (leaves : List Nat) (is : List Inst) : Option Nat := leaves.find? fun l => (onLeaf is l).isEmpty

/-- One round of R543 step 4. -/
def layRound (img : List Byte) (leaves : List Nat) (is : List Inst) : List Inst :=
  (List.range (tStations img)).foldl (fun is i =>
    match emptyLeaf leaves is with
    | none => is
    | some l =>
      let c := countOf is i
      if c < instMax img leaves.length i && mapFits img i (c + 1) then
        is ++ [{ station := i, inst := c, leaf := l, first := 0, vbase := 0, region := 0 }]
      else is) is

/-- Rounds until none adds an instance (R543 step 4). -/
def layRounds (img : List Byte) (leaves : List Nat) : Nat → List Inst → List Inst
  | 0, is => is
  | n + 1, is =>
    let js := layRound img leaves is
    if js.length = is.length then is else layRounds img leaves n js

/-- The plan of a job on the leaves of an estate (R543): none where the template cannot run on them. -/
def plan (img : List Byte) (estLeaves : List Nat) : Option (List Inst) :=
  let leaves := estLeaves.take (tLeavesMax img)
  (layMin img leaves).bind fun is =>
    if (List.range (tStations img)).all fun i => mapFits img i (countOf is i) then
      some (layRounds img leaves leaves.length is)
    else none

/-- Q: hardware queues of a plan, one per internal queue and consumer instance (R160). -/
def planQ (img : List Byte) (is : List Inst) : Nat :=
  ((List.range (tQueues img)).map fun j => countOf is (tQueue img j 1 1)).sum

/-- ASCII, padded with 0 (Table 5.12). -/
def nameOk (bs : List Byte) : Bool :=
  bs.all (fun b => decide (b.toNat < 128)) && ((bs.dropWhile fun b => decide (b ≠ 0)).all fun b => decide (b = 0))

/-- One past the largest instance number of a station. -/
def instTop (img : List Byte) (i : Nat) : Nat := if tStation img i 18 2 = 0 then 160 else tStation img i 18 2

/-- The first failing field of a template image, as its offset in the image (R158): each check with its offset, the header first
and each table in its order. A kept entry names an instance that its station may have, and lies in that station's region (DEDUCED,
assumption 111). -/
def tmplBad (img : List Byte) (total : Nat) : Option Nat :=
  let bad := fun (off : Nat) (b : Bool) => if b then [off] else []
  let tab := fun (off n sz : Nat) => decide (total < field img off 4 + n * sz)
  let hdr := bad 0 (field img 0 4 != 0x4E545A31) ++ bad 4 (field img 4 2 != 4) ++ bad 6 (decide (4 ≤ field img 6 2)) ++
    bad 8 (tLeavesMin img == 0 || decide (160 < tLeavesMin img)) ++
    bad 10 (decide (tLeavesMax img < tLeavesMin img) || decide (160 < tLeavesMax img)) ++
    bad 16 (tDuration img == 0) ++
    bad 32 (decide (tKept img ≤ 64) && !tab 60 (tKept img) 16 && ((List.range (tKept img)).map fun k => tKeptE img k 8 4).sum != tKeptBytes img) ++
    bad 36 (decide (65536 < tReportBytes img)) ++
    bad 40 (tStations img == 0 || decide (64 < tStations img)) ++ bad 42 (decide (128 < tQueues img)) ++
    bad 44 (decide (64 < tBuffers img)) ++ bad 46 (decide (64 < tKept img)) ++
    bad 48 (tab 48 (tStations img) 48) ++ bad 52 (tab 52 (tQueues img) 16) ++ bad 56 (tab 56 (tBuffers img) 16) ++
    bad 60 (tab 60 (tKept img) 16) ++ bad 64 (decide (total < field img 64 4 + field img 68 4)) ++
    bad 72 (field img 72 4 != total || decide (0x4000000 < total)) ++ bad 76 (field img 76 52 != 0)
  let st := (List.range (tStations img)).flatMap fun i =>
    let o := field img 48 4 + 48 * i
    bad o (!nameOk ((img.drop o).take 16)) ++
    bad (o + 16) (tStation img i 16 2 == 0 || decide (160 < tStation img i 16 2)) ++
    bad (o + 18) (tStation img i 18 2 != 0 && (decide (tStation img i 18 2 < tStation img i 16 2) || decide (160 < tStation img i 18 2))) ++
    bad (o + 20) (sThreads img i == 0 || decide (64 < sThreads img i)) ++
    bad (o + 21) (!([0, 1, 2, 4, 8].contains (sVregs img i))) ++ bad (o + 22) (decide (4 ≤ sAcc img i)) ++
    bad (o + 23) (tStation img i 23 1 != 0) ++
    bad (o + 24) (tStation img i 24 4 == 0 || decide (2048 < tStation img i 24 4)) ++
    bad (o + 32) (decide (field img 68 4 < tStation img i 28 4 + sImageBytes img i)) ++
    bad (o + 36) (sEntry img i % 4 != 0 || decide (sImageBytes img i ≤ sEntry img i)) ++
    bad (o + 40) (tStation img i 40 8 != 0)
  let qs := (List.range (tQueues img)).flatMap fun j =>
    let o := field img 52 4 + 16 * j
    let kind := bitsOf (tQueue img j 3 1) 3 2
    let esz := bitsOf (tQueue img j 3 1) 1 0
    bad o (decide (tStations img ≤ tQueue img j 0 1)) ++ bad (o + 1) (decide (tStations img ≤ tQueue img j 1 1)) ++
    bad (o + 2) (decide (tQueue img j 2 1 < 2) || decide (16 < tQueue img j 2 1)) ++
    bad (o + 3) (decide (2 ≤ kind) || esz == 3 || (kind == 0 && esz != 0) || decide (16 ≤ tQueue img j 3 1)) ++
    bad (o + 5) (tQueue img j 5 3 != 0) ++
    bad (o + 8) (if kind = 0 then tQueue img j 8 4 == 0 || tQueue img j 8 4 % 256 != 0 else tQueue img j 8 4 != 0) ++
    bad (o + 12) (tQueue img j 12 4 != 0)
  let bs := (List.range (tBuffers img)).flatMap fun j =>
    let o := field img 56 4 + 16 * j
    let k := tBuffer img j 0 1
    bad o (decide (4 ≤ k)) ++
    bad (o + 1) (decide (2 ≤ tBuffer img j 1 1) || (tBuffer img j 1 1 == 1 && k != 0)) ++
    bad (o + 2) (decide (tBuffer img j 2 1 < 6) || decide (30 < tBuffer img j 2 1)) ++ bad (o + 3) (tBuffer img j 3 1 != 0) ++
    bad (o + 4) (k == 3 && tBuffer img j 4 4 != 0) ++
    bad (o + 8) (if k = 3 then decide (tStations img ≤ tBuffer img j 8 1) else tBuffer img j 8 1 != 0) ++
    bad (o + 9) (k != 3 && tBuffer img j 9 1 != 0) ++ bad (o + 10) (tBuffer img j 10 6 != 0)
  let ks := (List.range (tKept img)).flatMap fun j =>
    let o := field img 60 4 + 16 * j
    bad o (decide (tStations img ≤ tKeptE img j 0 1)) ++ bad (o + 1) (tKeptE img j 1 1 != 0) ++
    bad (o + 2) (tKeptE img j 2 2 != 0xFFFF && decide (instTop img (tKeptE img j 0 1) ≤ tKeptE img j 2 2)) ++
    bad (o + 4) (tKeptE img j 4 4 % 256 != 0 || decide (sScratch img (tKeptE img j 0 1) < tKeptE img j 4 4 + tKeptE img j 8 4)) ++ bad (o + 8) (tKeptE img j 8 4 % 256 != 0) ++ bad (o + 12) (tKeptE img j 12 4 != 0)
  match hdr ++ st ++ qs ++ bs ++ ks with
  | off :: _ => some off
  | [] =>
    let leaves := List.range (tLeavesMin img)
    match layMin img leaves with
    | none => some 8
    | some is => if (List.range (tStations img)).all fun i => mapFits img i (countOf is i) then none else some 8

end Sys2Proof.Machine
end

