-- ==== Sys2Proof/Machine/JobOps.lean ====
section
/-! DEFINITION. Jobs and estates: leaves and segments, ending a job, its completion and report, fencing, recovery,
holding and halting, reshaping (R96, R103 to R105, R165 to R167, R214 to R220, R236 to R240). -/

namespace Sys2Proof.Machine

/-! ### Leaves -/

/-- The thread's record, by leaf × 64 + thread. -/
def getTh (s : State) (k : Nat) : Thread := tget s.lv.threads k
/-- Changes a thread's record. -/
def modTh (s : State) (k : Nat) (f : Thread → Thread) : State :=
  { s with lv := { s.lv with threads := tmod s.lv.threads k f } }

/-- All 168 leaf indices. -/
def leafIdx : List Nat := List.range 168
/-- Leaves of a kind. -/
def leavesOf (s : State) (k : LeafKind) : List Nat := leafIdx.filter fun l => decide ((getLeaf s l).kind = k)
/-- Spares remaining. -/
def spareCount (s : State) : Nat := (leavesOf s .spare).length
/-- The estate that holds a leaf. -/
def estOf (s : State) (l : Nat) : Option Nat := (estates s).find? fun e => (getEst s e).leaves.contains l
/-- Whether a secure estate exists (R220). -/
def secureEst (s : State) : Option Nat := (estates s).find? fun e => (getEst s e).desc.secure
/-- Security attribute of a leaf (Table 1.4). -/
def leafSecure (s : State) (l : Nat) : Bool := decide (l < s.world.lwm) && (secureEst s).isSome

/-- Mask of the segments that are on or zeroing (R107). -/
def segMask (s : State) (l : Nat) : Nat :=
  ((List.range 8).map fun k => if tget (getLeaf s l).segs k = .off then 0 else 2 ^ k).sum

/-- Clears what lies in segment `k` of leaf `l`: its bytes, tags and parity upsets are lost (R97 step 3). -/
def segWipe (l k : Nat) (s : State) : State :=
  let a := spBase l + k * 0x40000
  let s := memZero s a 0x40000
  { s with lv := { s.lv with lineTag := tclear s.lv.lineTag (l * 8192 + k * 1024) 1024
                             badByte := tclear s.lv.badByte a 0x40000 } }

/-- Sets the state of one segment. -/
def segSet (l k : Nat) (g : Seg) (s : State) : State := modLeaf s l fun x => { x with segs := tput x.segs k g }

/-- PARTY of an event about a leaf: the party of its estate, or none (Table 17.5, assumption 106). -/
def leafOwner (s : State) (l : Nat) : Nat := match estOf s l with | some e => (getEst s e).party | none => noParty

/-- Event 0x1008 where the mask of powered segments has changed (R96). -/
def segEvent (l before : Nat) (s : State) : State :=
  if before = segMask s l then s
  else event l 0x1008 (leafOwner s l) (leBytes 2 l ++ leBytes 1 before ++ leBytes 1 (segMask s l)) s

/-- Switches every segment of a leaf off at once (R96, R97): no write is outstanding on a leaf whose engines are stopped. -/
def segsOff (l : Nat) (s : State) : State :=
  let b := segMask s l
  let s := (List.range 8).foldl (fun s k => segWipe l k (segSet l k .off s)) s
  segEvent l b s

/-- Clears a leaf's threads and engines (R103 step 2, end of a job). -/
def leafStop (l : Nat) (s : State) : State :=
  let s := { s with lv := { s.lv with threads := tclear s.lv.threads (l * 64) 64
                                      badShadow := tclear s.lv.badShadow (l * 64) 64
                                      badReg := tclear s.lv.badReg (l * 2048) 2048 } }
  let mine := fun (w : Nat) => decide ((if w < 65536 then w / 16 else (w - 65536) / 64) = l)
  let s := { s with cross := { s.cross with out := s.cross.out.map fun x => { x with waits := x.waits.filter fun w => !mine w } } }
  modLeaf s l fun x => { x with mma := [], drain := [], raster := [], dma := [], missed := [], attempt := 0, qmap := [],
                                batches := [], setup := [], tex := [] }

/-- All state of a leaf is lost (R103 step 2). -/
def leafWipe (l : Nat) (s : State) : State :=
  let s := leafStop l (segsOff l s)
  let s := { s with lv := { s.lv with vregs := tclear s.lv.vregs (l * 4096) 4096
                                      acc := tclear s.lv.acc (l * 4096) 4096
                                      accFlags := tclear s.lv.accFlags (l * 2) 2
                                      badVec := tclear s.lv.badVec (l * 4096) 4096
                                      badAcc := tclear s.lv.badAcc (l * 4096) 4096
                                      badLog := tclear s.lv.badLog (l * 64) 64 } }
  modLeaf s l fun x => { x with issued := {}, idle := {}, conflicts := {}, parity := {}, replays := {}, misses := 0, image := 0,
                                rlog := [], rnext := 0 }

/-- The leaf map's code of a kind (R507). -/
def kindCode (k : LeafKind) : Nat := match k with | .fusedOff => 0 | .spare => 1 | .enabled => 2 | .fenced => 3

/-- Sets a leaf's kind; the Kettle rewrites the leaf map at every change (R507). -/
def setKind (l : Nat) (k : LeafKind) (s : State) : State :=
  let s := modLeaf s l fun x => { x with kind := k }
  { s with boot := { s.boot with map := tput s.boot.map l (kindCode k) } }

/-! ### Jobs -/

/-- The template of a party with a handle. -/
def tmplOf (s : State) (p h : Nat) : Option Tmpl :=
  s.jobs.tmpls.find? fun t => decide (t.party = p) && decide (t.handle = h)
/-- Handle, USER_TAG, completion queue and SAFETY of a submission record (Table 5.16). -/
def recHandle (r : List Byte) : Nat := field r 0 2
def recTag (r : List Byte) : Nat := field r 8 8
def recCq (r : List Byte) : Nat := field r 4 4 % 2 ^ 18
def recSafety (r : List Byte) : Nat := field r 2 2 % 4
/-- The image of a job's template. -/
def jobImg (s : State) (j : Job) : List Byte :=
  match tmplOf s j.party (recHandle j.record) with | some t => t.image | none => []
/-- The job on an estate. -/
def jobOf (s : State) (e : Nat) : Option Job := (getEst s e).job
/-- Changes the job on an estate. -/
def modJob (s : State) (e : Nat) (f : Job → Job) : State := modEst s e fun x => { x with job := x.job.map f }
/-- The leaves a job uses. -/
def jobLeaves (j : Job) : List Nat := (j.insts.map (·.leaf)).eraseDups

/-- A completion record (Table 5.18). -/
def compRec (tag status reason estate flags leaves run wait : Nat) : List Byte :=
  leBytes 8 tag ++ leBytes 1 status ++ leBytes 1 reason ++ leBytes 1 estate ++ leBytes 1 flags ++ leBytes 2 leaves ++
    leBytes 2 0 ++ leBytes 8 run ++ leBytes 4 wait ++ leBytes 4 0

/-- Writes a completion to the record's CQ. -/
def completeRec (r : List Byte) (status reason estate flags leaves run wait : Nat) (s : State) : State :=
  complete (recCq r) (compRec (recTag r) status reason estate flags leaves run wait) s

/-- Whole µs between two Kettle times, held at 0xFFFF_FFFF (Table 5.18). -/
def usBetween (a b : Nat) : Nat := min ((b - a) / 100) 0xFFFFFFFF

/-- A report section (R167). -/
def section_ (type st : Nat) (data : List Byte) : List Byte :=
  leBytes 2 type ++ leBytes 2 data.length ++ leBytes 2 st ++ leBytes 2 0 ++ data

/-- Report section 0x0004 of a station (R119, R167). -/
def accSection (st v : Nat) : List Byte := section_ 4 st (leBytes 4 v)

/-- What each instance of a station keeps for a report section, in its own scratchpad, at a place that its program gives
and the spec does not (assumption 15). -/
def sectionParts (j : Job) (st : Nat) (pl : Nat × Nat) (s : State) : List (List Byte) :=
  (j.insts.filter fun x => decide (x.station = st)).map fun x => memRead s (spBase x.leaf + x.region + pl.1) pl.2

/-- The sum of the skipped-tap counters of a station's instances: it saturates, and OVF of one is OVF of the sum (R11, R179). -/
def tapSum (ps : List (List Byte)) : Stat :=
  ps.foldl (fun (c : Stat) p =>
    let d := c.add (field p 0 8 % 2 ^ 48)
    { d with ovf := d.ovf || bitOf (field p 0 8) 63 }) {}

/-- Bitmaps of a station's instances, ORed (R211). -/
def orBytes (n : Nat) (ps : List (List Byte)) : List Byte :=
  (List.range n).map fun i => ps.foldl (fun (b : Byte) p => b ||| p.getD i 0) 0#8

/-- The section of a type that a station writes at the end of its job: the skipped-tap counter (R179), the two bitmaps of an
attention station (R211), and the accumulator flags where one is set (R119). -/
def stationSection (j : Job) (img : List Byte) (st type : Nat) (s : State) : Option (List Byte) :=
  if type = 4 then (if tget j.accRep st = 0 then none else some (accSection st (tget j.accRep st)))
  else (Config.reportAt img st type).map fun pl =>
    let ps := sectionParts j st pl s
    section_ type st (if type = 1 then leBytes 8 (tapSum ps).val else orBytes pl.2 ps)

/-- The sections of a job's report, in ascending station, then ascending type (R167). A job with no report has none. -/
def jobSections (j : Job) (img : List Byte) (s : State) : List (List Byte) :=
  if tReportBytes img = 0 then []
  else (List.range (tStations img)).flatMap fun st => [1, 2, 3, 4].filterMap fun ty => stationSection j img st ty s

/-- The sections that fit in `room` bytes, in order, and whether any did not fit (R167). -/
def fitSections : Nat → List (List Byte) → List (List Byte) × Bool
  | _, [] => ([], false)
  | room, x :: xs =>
    if x.length ≤ room then
      let r := fitSections (room - x.length) xs
      (x :: r.1, r.2)
    else ((fitSections room xs).1, true)

/-- Whether a section holds a set flag or a non-zero counter. -/
def sectionSet (x : List Byte) : Bool := (x.drop 8).any fun b => decide (b ≠ 0)

/-- Writes a job's report and answers REPORT_SET and REPORT_SHORT as completion flags (R166, R167). Where not even the header
fits, nothing is written. -/
def writeReport (j : Job) (img : List Byte) (secs : List (List Byte)) (s : State) : State × Nat :=
  let size := tReportBytes img
  if size < 8 then (s, b2n (!secs.isEmpty) * 32)
  else
    let r := fitSections (size - 8) secs
    let body := r.1.flatMap id
    let bs := leBytes 4 (8 + body.length) ++ leBytes 4 r.1.length ++ body
    (putBytes byKettle (field j.record 24 6) bs s, b2n (r.1.any sectionSet) * 2 + b2n r.2 * 32)

/-- Unbinds a job's internal queues, and whether any held entries (R140, R165). -/
def closeQueues (j : Job) (s : State) : State × Bool :=
  let left := j.queues.any fun q => decide ((getQ s q).len ≠ 0)
  ({ s with queue := s.queue.filter fun x => !(j.queues.contains x.1) }, left)

/-- Stops a job's threads and unbinds its queues; answers QUEUE_LEFT (R165). -/
def stopJob (e : Nat) (j : Job) (s : State) : State × Bool :=
  let s := (jobLeaves j).foldl (fun s l => leafStop l s) s
  let r := closeQueues j s
  ({ r.1 with jobs := { r.1.jobs with reports := r.1.jobs.reports.filter (fun t => decide (t.primary ≠ e ∧ t.primary ≠ j.twin)) } },
   r.2)

/-- Removes the watches of a job, when its completion is written (R164). -/
def dropWatches (n : Nat) (s : State) : State :=
  { s with jobs := { s.jobs with watches := s.jobs.watches.filter fun w => decide (w.serial ≠ n) } }

/-- Whether any estate has a job, or a record waits or is queued (R54). -/
def anyWork (s : State) : Bool :=
  (estates s).any (fun e => (getEst s e).job.isSome || (getEst s e).replay.isSome) || !s.jobs.waiting.isEmpty ||
    s.queue.any (fun x => decide (x.2.kind = 2) && x.2.bound && decide (x.2.len ≠ 0))

/-- Frees an estate from its job: the estate remembers the template it ran last (R222), and a lent estate switches back
to its owner (R232). -/
def freeEst (e : Nat) (j : Job) (s : State) : State :=
  let s := modEst s e fun x =>
    { x with job := none
             last := if j.lent then x.last else (j.party, recHandle j.record, x.leaves.length)
             switchBack := j.lent
             lentBy := if j.lent then some (j.party, recHandle j.record) else none }
  let s := { s with media := { s.media with gfx := tput s.media.gfx e {} } }
  if anyWork s then s else { s with jobs := { s.jobs with idleSince := s.ktime } }

/-! ### Kept buffers (R161, R218, R232, R238) -/

/-- The kept buffers of a template of party `p` with handle `h`, of an estate of `n` leaves: none until its first job. An
entry with no data that is not lost stands for buffers in place on the leaves. -/
def keptOf (s : State) (e p h n : Nat) : Option Kept :=
  (getEst s e).kept.find? fun k => decide (k.party = p ∧ k.handle = h ∧ k.leaves = n)

/-- Replaces such an entry. -/
def putKept (e : Nat) (k : Kept) (s : State) : State :=
  modEst s e fun x => { x with kept := (x.kept.filter fun y => !decide (y.party = k.party ∧ y.handle = k.handle ∧ y.leaves = k.leaves)) ++ [k] }

/-- The estate whose `kept` list and channel groups serve a template of party `p` that runs on estate `e`: `e` itself for
its owner, the party's lowest BE estate for a borrower, or `e` where it has none (R233, assumption 28). -/
def homeOf (s : State) (e p : Nat) : Nat :=
  if (getEst s e).party = p then e
  else ((estates s).find? fun x => decide ((getEst s x).party = p) && (getEst s x).desc.be).getD e

/-- Where the kept buffers of a plan lie: address and size, kept entry by kept entry and instance by instance. -/
def keptPlaces (img : List Byte) (is : List Inst) : List (Nat × Nat) :=
  (List.range (tKept img)).flatMap fun k =>
    (is.filter fun i => decide (i.station = tKeptE img k 0 1) && (tKeptE img k 2 2 == 0xFFFF || decide (tKeptE img k 2 2 = i.inst))).map fun i =>
      (spBase i.leaf + i.region + tKeptE img k 4 4, tKeptE img k 8 4)

/-- The places of a template's kept buffers on the leaves of estate `e`. -/
def placesOn (s : State) (e p h : Nat) : List (Nat × Nat) :=
  match tmplOf s p h with
  | none => []
  | some t => match plan t.image (getEst s e).leaves with | some is => keptPlaces t.image is | none => []

/-- The template whose kept buffers may be in place on estate `e`. -/
def inPlace (s : State) (e : Nat) : Option (Nat × Nat) :=
  let x := getEst s e
  if x.switchBack then x.lentBy else if x.last.2.2 = 0 then none else some (x.last.1, x.last.2.1)

/-- Reads the kept buffers in place on estate `e` into their entry. -/
def readKept (e : Nat) (s : State) : State :=
  match inPlace s e with
  | none => s
  | some (p, h) =>
    let home := homeOf s e p
    match keptOf s home p h (getEst s e).leaves.length with
    | none => s
    | some k =>
      if k.lost || !k.data.isEmpty then s
      else putKept home { k with data := (placesOn s e p h).map fun x => memRead s x.1 x.2 } s

/-- A segment is on, its zeroing ended (R99). -/
def segUp (l k : Nat) (s : State) : State := if tget (getLeaf s l).segs k = .on then s else segSet l k .on s

/-- Puts saved kept buffers of a template back on the leaves of estate `e`; the segments they lie in come up, zeroed (R96, R99). -/
def writeKept (e p h : Nat) (s : State) : State :=
  let home := homeOf s e p
  match keptOf s home p h (getEst s e).leaves.length with
  | none => s
  | some k =>
    if k.data.isEmpty then s
    else
      let ls := (getEst s e).leaves
      let before := ls.map fun l => (l, segMask s l)
      let s := ((placesOn s e p h).zip k.data).foldl (fun s x =>
        let l := (spLeaf x.1.1).getD 0
        let o := x.1.1 - spBase l
        let s := (List.range ((o + x.1.2 - 1) / 0x40000 + 1 - o / 0x40000)).foldl (fun s i => segUp l (o / 0x40000 + i) s) s
        spPut l o 0 x.2 s) s
      putKept home { k with data := [], pieces := [] } (before.foldl (fun s x => segEvent x.1 x.2 s) s)

/-- Marks the kept buffers of a template on an estate as lost (R161, R231). -/
def loseKept (e p h n : Nat) (s : State) : State :=
  match keptOf s e p h n with
  | none => s
  | some k => putKept e { k with data := [], lost := true, pieces := [] } s

/-- The fenced leaf's part of the kept buffers that were in place comes back as zeros, with KEPT_LOST (R238). -/
def fenceKept (e l : Nat) (s : State) : State :=
  match inPlace s e with
  | none => s
  | some (p, h) =>
    let home := homeOf s e p
    match keptOf s home p h (getEst s e).leaves.length with
    | none => s
    | some k => if (placesOn s e p h).any fun x => decide (spLeaf x.1 = some l) then putKept home { k with lost := true } s else s

/-- The estates of a job: its own, and its twin's for a dual job (R398). -/
def jobEsts (e : Nat) (j : Job) : List Nat := if j.copy = 0 then [e] else if j.copy = 1 then [e, j.twin] else [j.twin, e]

/-- What a job that has stopped leaves behind. -/
structure Left where
  /-- the job, of copy A where it is dual -/
  job : Job
  /-- its estate -/
  est : Nat
  /-- sections of its report -/
  secs : List (List Byte)
  /-- entries were left in its internal queues -/
  left : Bool
  /-- RUN_TCLK -/
  run : Nat
deriving DecidableEq, Repr

/-- The run of the job on estate `e` ends, both copies where it is dual: its report is gathered, its threads stop, its queues
are unbound, and its estates are free (R165, R167, R401). -/
def closeJob (e : Nat) (j : Job) (s : State) : State × Left :=
  let es := jobEsts e j
  let p := es.headD e
  let jp := ((getEst s p).job).getD j
  let secs := jobSections jp (jobImg s jp) s
  let run := (es.filterMap fun x => (getEst s x).job).foldl (fun a x => max a x.runTclk) 0
  let r := es.foldl (fun (a : State × Bool) x =>
    match jobOf a.1 x with
    | none => a
    | some k => let t := stopJob x k a.1; (freeEst x k t.1, a.2 || t.2)) (s, false)
  (r.1, { job := jp, est := p, secs := secs, left := r.2, run := run })

/-- The report and the completion record of a run that has ended (R166, R167). -/
def closeRec (x : Left) (status reason : Nat) (s : State) : State × List Byte :=
  let j := x.job
  let r := writeReport j (jobImg s j) x.secs s
  let flags := b2n j.replayed + r.2 + b2n j.unarmed * 4 + b2n x.left * 8 + b2n j.keptLost * 16
  (r.1, compRec (recTag j.record) status reason x.est flags (getEst s x.est).leaves.length x.run (usBetween j.takenAt j.startAt))

/-- Writes a completion that stands ready: queue, serial number of its job, record. The job's watches go (R164). -/
def writeDone (d : Nat × Nat × List Byte) (s : State) : State := complete d.1 d.2.2 (dropWatches d.2.1 s)

/-- Ends the job on estate `e` and writes its one completion (R165, R166, R401). -/
def endJob (e status reason : Nat) (s : State) : State :=
  match jobOf s e with
  | none => s
  | some j =>
    let r := closeJob e j s
    let c := closeRec r.2 status reason r.1
    writeDone (recCq r.2.job.record, r.2.job.serial, c.2) c.1

/-- Ends the job ABORTED with a reason. -/
def abortJob (e reason : Nat) (s : State) : State := endJob e stABORTED reason s

/-! ### Mesh distance and placement (R236, R238) -/

/-- Column and row of a leaf (Table 0.5). -/
def leafCol (l : Nat) : Nat := l % 12
def leafRow (l : Nat) : Nat := l / 12
/-- |Δcol| + |Δrow|. -/
def meshDist (a b : Nat) : Nat :=
  (leafCol a - leafCol b) + (leafCol b - leafCol a) + (leafRow a - leafRow b) + (leafRow b - leafRow a)

/-- Whether leaf `x` is on the correct side of LWM for an estate, or for no estate: while a secure estate exists, it has the
leaves below LWM and every other estate those at or above (R220, R238, assumption 122). -/
def sideOk (s : State) (e : Option Nat) (x : Nat) : Bool :=
  match secureEst s with
  | none => true
  | some z => decide (x < s.world.lwm) == decide (e = some z)

/-- The spare that replaces leaf `l` of an estate: on its side of LWM, nearest, then lowest index (R238). -/
def spareFor (s : State) (e : Option Nat) (l : Nat) : Option Nat :=
  ((leavesOf s .spare).filter (sideOk s e)).foldl
    (fun (b : Option Nat) x => match b with
      | none => some x
      | some y => if meshDist x l < meshDist y l then some x else some y) none

/-- Leaves that may join estate `e` (16 for a new one): enabled, unfenced, in no other estate, and at or above LWM for
a normal estate while a secure estate exists (R236). -/
def mayJoin (s : State) (e : Nat) (l : Nat) : Bool :=
  decide ((getLeaf s l).kind = .enabled) && (match estOf s l with | none => true | some x => decide (x = e)) &&
    ((secureEst s).isNone || decide (s.world.lwm ≤ l))

/-- One candidate of R236: a rectangle, its area, leaves of other estates inside, and the chosen indices. -/
structure Rect where
  area : Nat
  others : Nat
  sum : Nat
  pick : List Nat
deriving DecidableEq, Repr

/-- Whether a candidate comes before another: area, then others, then sum. -/
def Rect.before (a b : Rect) : Bool :=
  decide (a.area < b.area) || (decide (a.area = b.area) && (decide (a.others < b.others) ||
    (decide (a.others = b.others) && decide (a.sum < b.sum))))

/-- The best set of `n` leaves among those that `f` allows (R236). `other` says that a leaf belongs to another estate. -/
def bestRect (f other : Nat → Bool) (n : Nat) : Option (List Nat) :=
  let cand := (List.range 12).flatMap fun c0 => (List.range (12 - c0)).flatMap fun w =>
    (List.range 14).flatMap fun r0 => (List.range (14 - r0)).filterMap fun h =>
      let ins := (List.range (h + 1)).flatMap fun i => (List.range (w + 1)).map fun j => (r0 + i) * 12 + c0 + j
      let ok := ins.filter f
      if ok.length < n then none
      else some { area := (w + 1) * (h + 1), others := (ins.filter other).length, sum := (ok.take n).sum, pick := ok.take n }
  (cand.foldl (fun (b : Option Rect) x => match b with
    | none => some x
    | some y => if x.before y then some x else some y) none).map (·.pick)

/-- The leaves of an estate of `n` leaves, chosen by the placer (R236). -/
def placeEst (s : State) (e n : Nat) : Option (List Nat) :=
  bestRect (mayJoin s e) (fun l => match estOf s l with | none => false | some x => decide (x ≠ e)) n

/-! ### Pairs (R397) -/

/-- The pair of an estate. -/
def pairOf (s : State) (e : Nat) : Option Pair := s.jobs.pairs.find? fun p => decide (p.primary = e ∨ p.partner = e)

/-- Event 0x300A. -/
def pairEvent (p : Pair) (st cause : Nat) (s : State) : State :=
  event srcAfzan 0x300A (getEst s p.primary).party
    (leBytes 1 p.primary ++ leBytes 1 p.partner ++ leBytes 1 st ++ leBytes 1 cause) s

/-- Dissolves a pair with its cause (R397). -/
def dissolve (p : Pair) (cause : Nat) (s : State) : State :=
  pairEvent p 1 cause { s with jobs := { s.jobs with pairs := s.jobs.pairs.filter fun x => decide (x ≠ p) } }

/-- Dissolves the estate's pair where its two estates hold different numbers of leaves (R397 cause 1). -/
def pairCheck (e : Nat) (s : State) : State :=
  match pairOf s e with
  | none => s
  | some p => if (getEst s p.primary).leaves.length = (getEst s p.partner).leaves.length then s else dissolve p 1 s

/-- Gives an estate other leaves: leaves that go are switched off, and event 0xA043 names the cause (R218, R237). -/
def putLeaves (e : Nat) (ls : List Nat) (cause : Nat) (s : State) : State :=
  let x := getEst s e
  let gone := x.leaves.filter fun l => !(ls.contains l)
  let s := gone.foldl (fun s l => if (getLeaf s l).kind = .fenced then s else segsOff l (leafStop l s)) s
  let s := modEst s e fun y => { y with leaves := ls, desc := { y.desc with leaves := ls.length } }
  let s := event srcAfzan 0xA043 x.party (leBytes 1 e ++ leBytes 1 x.party ++ leBytes 2 x.leaves.length ++
    leBytes 2 ls.length ++ leBytes 1 cause) s
  pairCheck e s

/-- The kept buffers of one template after a reshape from `n` leaves to `m` leaves: zeros, which KEPT_LOST reports (R218). -/
def Kept.reshaped (n m : Nat) (k : Kept) : Kept :=
  if k.leaves = n then { k with data := [], lost := true, pieces := [], leaves := m } else k

/-- Reshapes an estate (R218, R220, R429): the first job of each template finds its kept buffers zero, and no content of the
leaves counts as in place. -/
def setLeaves (e : Nat) (ls : List Nat) (cause : Nat) (s : State) : State :=
  let x := getEst s e
  let s := putLeaves e ls cause s
  if ls = x.leaves then s
  else modEst s e fun y => { y with last := (0, 0, 0), kept := y.kept.map (Kept.reshaped x.leaves.length ls.length) }

/-! ### FAULT_N, halts (R105, R416) -/

/-- Asserts FAULT_N with a cause bit, from a source of the safety island (R416). -/
def assertFrom (src bit : Nat) (s : State) : State :=
  let c := if bitOf s.safe.causes bit then s.safe.causes else s.safe.causes + 2 ^ bit
  event src 0x3006 noParty (leBytes 1 c ++ leBytes 1 bit) { s with safe := { s.safe with causes := c } }

/-- Asserts FAULT_N with a cause bit; the event's source is pair 0. -/
def assertFaultN (bit : Nat) (s : State) : State := assertFrom 0x2000 bit s

/-- Halts an estate: its threads stop, and its job writes no completion until the reset (R240, R515). -/
def haltEst (e : Nat) (s : State) : State :=
  let s := match jobOf s e with
    | none => s
    | some j => modJob ((jobLeaves j).foldl (fun s l => leafStop l s) s) e fun k => { k with phase := .halted }
  modEst s e fun x => { x with halted := true }

/-- The two-fault halt: every affected estate halts, FAULT_N is asserted and a freeze marker is written (R105). -/
def twoFault (es : List Nat) (src : Nat) (s : State) : State :=
  let r := recoveryEst s
  let s := es.foldl (fun s e => haltEst e s) s
  freezeMarker 0 r src (assertFaultN 0 { s with safe := { s.safe with halted := true } })

/-- A fault in shared infrastructure during a recovery: every estate it affects and those in recovery halt; outside
a recovery it halts the affected estates as well when it is a Kettle fault, which its own rule says (R105, R339). -/
def sharedFault (es : List Nat) (src : Nat) (s : State) : State :=
  if s.jobs.recovery = 0 then s
  else twoFault ((estates s).filter fun e => es.contains e || decide (s.jobs.recovery = e + 1) || (getEst s e).recovering) src s

/-! ### Recovery (R104, R238 to R240) -/

/-- Names of a plan's kept buffers, in the order of `keptPlaces`: kept entry and instance. -/
def keptNames (img : List Byte) (is : List Inst) : List (Nat × Nat) :=
  (List.range (tKept img)).flatMap fun k =>
    (is.filter fun i => decide (i.station = tKeptE img k 0 1) && (tKeptE img k 2 2 == 0xFFFF || decide (tKeptE img k 2 2 = i.inst))).map fun i =>
      (k, i.inst)

/-- The saved kept buffers of a template, given to its plan on fewer leaves by kept entry and instance; a buffer that no instance
had before is zero and lost (R238, assumption 123). -/
def Kept.remap (s : State) (old new : List Nat) (k : Kept) : Kept :=
  if k.leaves ≠ old.length then k
  else match tmplOf s k.party k.handle with
    | none => { k with leaves := new.length }
    | some t =>
      let names := fun (ls : List Nat) => match plan t.image ls with | some is => keptNames t.image is | none => []
      let from_ := (names old).zip k.data
      if k.data.isEmpty then { k with leaves := new.length }
      else { k with
        leaves := new.length
        data := (names new).map fun n => match from_.find? fun x => decide (x.1 = n) with
          | some x => x.2
          | none => List.replicate (tKeptE t.image n.1 8 4) 0#8
        lost := k.lost || (names new).any fun n => !(from_.any fun x => decide (x.1 = n)) }

/-- Shrinks an estate by a fenced leaf: kept buffers of surviving leaves are saved before the re-plan and restored after it, and
the fenced leaf's are zeros (R238, Table 8.4). -/
def shrinkBy (e l : Nat) (s : State) : State :=
  let old := (getEst s e).leaves
  let new := old.filter fun x => decide (x ≠ l)
  let t := inPlace s e
  let s := fenceKept e l (readKept e s)
  let s := putLeaves e new 1 s
  let s := modEst s e fun y => { y with kept := y.kept.map (Kept.remap s old new)
                                        last := if y.last.2.2 = old.length then (y.last.1, y.last.2.1, new.length) else y.last }
  match t with
  | some x => writeKept e x.1 x.2 s
  | none => s

/-- Promotes a spare for a fenced leaf of an estate, with its kept buffers saved before and put back after, or shrinks the
estate (R238, Table 8.4). The spare takes the microcode of the leaf it replaces, so that no estate mixes two (R390). -/
def repairLeaf (e l : Nat) (s : State) : State :=
  match spareFor s (some e) l with
  | some sp =>
    let t := inPlace s e
    let s := fenceKept e l (readKept e s)
    let s := setKind sp .enabled s
    let s := modLeaf s sp fun x => { x with ucode := (getLeaf s l).ucode }
    let ls := ((getEst s e).leaves.map fun x => if x = l then sp else x)
    let s := event srcAfzan 0xA044 (getEst s e).party (leBytes 2 sp ++ leBytes 2 l ++ leBytes 1 e ++ leBytes 1 (spareCount s)) s
    let s := putLeaves e (leafIdx.filter fun x => ls.contains x) 2 s
    match t with
    | some x => writeKept e x.1 x.2 s
    | none => s
  | none => shrinkBy e l s

/-- Repairs each fenced leaf of an estate. -/
def repairEst (e : Nat) (s : State) : State :=
  ((getEst s e).leaves.filter fun l => decide ((getLeaf s l).kind = .fenced)).foldl (fun s l => repairLeaf e l s) s

/-- Begins the recovery of an estate (R239). During an activation window it is in flight, and its repair waits (R382). -/
def beginRecovery (e : Nat) (s : State) : State :=
  let s := { s with jobs := { s.jobs with recovery := e + 1, recAt := s.ktime } }
  let s := modEst s e fun x => { x with recovering := true, held := false }
  if s.firm.act = .open_ then s else repairEst e s

/-- The estates of the recovery in flight: the estate itself and the other of its pair while a pair is localised (R407). -/
def inRecovery (s : State) (e : Nat) : Bool := (getEst s e).recovering

/-- Whether a job may be replayed automatically: its queue had REPLAY set when its record was taken, its inputs are watched
and unchanged, and it is not a replay already (R104, R164). -/
def mayReplay (j : Job) : Bool := j.replay && !j.unarmed && !j.fired && !j.replayed

/-- A faulted job leaves its estate: it waits for its replay, on the primary where it is dual, or its completion is written,
or held until its own recovery (R104, R240). -/
def faultJob (e : Nat) (hold : Bool) (s : State) : State :=
  match jobOf s e with
  | none => s
  | some j =>
    let p := (jobEsts e j).headD e
    let jp := ((getEst s p).job).getD j
    if mayReplay jp then
      let r := closeJob e j s
      modEst r.1 p fun x => { x with replay := some { jp with ended := (r.2.secs, r.2.left, true), runTclk := r.2.run } }
    else if hold then
      let r := closeJob e j s
      let c := closeRec r.2 stABORTED stFENCED r.1
      modEst c.1 e fun x => { x with heldDone := some (recCq jp.record, jp.serial, c.2) }
    else abortJob e stFENCED s

/-- A fault of estate `e` with Caddy source `src`: it starts the recovery, or is held behind another, or is a second
fault of the same estate (R105, R240). An estate that is held already stays held. -/
def estFault (e src : Nat) (s : State) : State :=
  if s.jobs.recovery = 0 then beginRecovery e (faultJob e false s)
  else if inRecovery s e then twoFault ((estates s).filter fun x => (getEst s x).recovering) src s
  else if (getEst s e).held then s
  else
    let s := faultJob e true s
    let s := modEst s e fun x => { x with held := true, faultAt := s.ktime }
    let s := { s with jobs := { s.jobs with heldQ := s.jobs.heldQ ++ [e] } }
    event srcAfzan 0xA045 (getEst s e).party (leBytes 1 e ++ leBytes 1 (s.jobs.recovery - 1) ++ leBytes 2 src) s

/-- The fence itself (R103): the leaf's state is lost, and event 0x1004 names the cause of Table 3.8. -/
def fenceOnly (l cause : Nat) (s : State) : State :=
  let est := estOf s l
  let s := setKind l .fenced (leafWipe l s)
  event l 0x1004 (leafOwner s l)
    (leBytes 2 l ++ leBytes 1 cause ++ leBytes 1 (spareCount s) ++ leBytes 1 (est.getD 0xFF)) s

/-- Fences a leaf for a cause of Table 3.8 (R103, R104). A leaf in no estate is repaired the same way, without an abort. -/
def fenceLeaf (l cause : Nat) (s : State) : State :=
  let was := (getLeaf s l).kind
  let est := estOf s l
  let s := fenceOnly l cause s
  match est with
  | some e => estFault e l s
  | none =>
    if was = .enabled then
      match spareFor s none l with
      | some sp => event srcAfzan 0xA044 noParty (leBytes 2 sp ++ leBytes 2 l ++ leBytes 1 0xFF ++ leBytes 1 (spareCount s - 1))
          (modLeaf (setKind sp .enabled s) sp fun x => { x with ucode := (getLeaf s l).ucode })
      | none => s
    else s

/-- Event 0x1007, and the job of the thread's leaf ends ABORTED with reason BAD_ARG (R69). -/
def programFault (w kind : Nat) (s : State) : State :=
  let l := w / 64
  match estOf s l with
  | none => s
  | some e =>
    let s := event l 0x1007 (match jobOf s e with | some j => j.party | none => (getEst s e).party)
      (leBytes 2 l ++ leBytes 1 (w % 64) ++ leBytes 1 kind ++ leBytes 4 (getTh s w).pc) s
    abortJob e stBAD_ARG s

/-- The job on a leaf's estate ends ABORTED with a reason. -/
def leafAbort (l reason : Nat) (s : State) : State :=
  match estOf s l with
  | none => s
  | some e => abortJob e reason s

end Sys2Proof.Machine
end

