-- ==== Sys2Proof/Machine/Cache.lean ====
section
/-! DEFINITION. The system cache and the Strainers: lookup, allocation, write-back, classes, arbitration and the
counters (chapter 11). Data stand in `Mem.cells`, as the cache shows them; a dirty line keeps DRAM's own bytes. -/

namespace Sys2Proof.Machine

/-- Slice × 4096 + set of a line number (R340). -/
def setKey (s : State) (line : Nat) : Nat :=
  let a := line * 64
  let c := cgOf s a
  c * 4096 + (a - c * cgBytes s) / 64 % 4096

/-- The way that holds a line. -/
def cacheWay (s : State) (line : Nat) : Option Nat :=
  (List.range 16).find? fun w => decide ((tget s.mem.cache (setKey s line * 16 + w)).line = line + 1)

/-- Leaf of the pseudo-LRU tree, from node `n` with `d` levels to go, among ways of `mask`: each node's bit names the
half to replace next, unless that half holds no allowed way (R340). -/
def plruPick (bits mask : Nat) : Nat → Nat → Nat → Option Nat
  | 0, _, lo => if bitOf mask lo then some lo else none
  | d + 1, n, lo =>
    let half := 2 ^ d
    let a := plruPick bits mask d (2 * n) lo
    let b := plruPick bits mask d (2 * n + 1) (lo + half)
    if bitOf bits n then b.orElse fun _ => a else a.orElse fun _ => b

/-- Pseudo-LRU bits after way `w` was used: each node on its path points to the other half. -/
def plruTouch (bits w : Nat) : Nat → Nat → Nat → Nat
  | 0, _, _ => bits
  | d + 1, n, lo =>
    let half := 2 ^ d
    let up := decide (lo + half ≤ w)
    let bits := if up then (if bitOf bits n then bits - 2 ^ n else bits) else (if bitOf bits n then bits else bits + 2 ^ n)
    plruTouch bits w d (2 * n + b2n up) (if up then lo + half else lo)

/-- Changes a channel group's record. -/
def modCg (s : State) (c : Nat) (f : Cg → Cg) : State := { s with mem := { s.mem with cg := tmod s.mem.cg c f } }
/-- The channel group's record. -/
def getCg (s : State) (c : Nat) : Cg := tget s.mem.cg c

/-! ### Link ECC and corrections (R331, R333 to R335) -/

/-- The channel of a line within its group (R331). -/
def chanOf (s : State) (line : Nat) : Nat := (line - cgOf s (line * 64) * (cgBytes s / 64)) % 4

/-- A correction is counted for event 0x2002, which comes at most once per millisecond (R335). Kinds: 0 inline, 1 link on write,
2 link on read (Table 11.5). -/
def corrected (line kind : Nat) (s : State) : State :=
  let c := cgOf s (line * 64)
  let s := modCg s c fun x => { x with corrSince := x.corrSince + 1 }
  let x := getCg s c
  if x.corrAt = 0 ∨ x.corrAt - 1 + 100000 ≤ s.ktime then
    let s := event (srcMc c) 0x2002 noParty (leBytes 1 c ++ leBytes 1 (chanOf s line) ++ leBytes 1 kind ++
      leBytes 2 x.corrSince ++ leBytes 6 (line * 64)) s
    modCg s c fun y => { y with corrSince := 0, corrAt := s.ktime + 1 }
  else s

/-- A line crosses the LPDDR5X interface: link ECC corrects an error of one bit and counts it for its channel. True where an error
remains, which the inline code then catches (R333). -/
def linkCross (write : Bool) (line : Nat) (s : State) : State × Bool :=
  let c := cgOf s (line * 64)
  let ch := chanOf s line
  let e := tget s.mem.linkErr (c * 4 + ch)
  if e = 0 then (s, false)
  else
    let s := { s with mem := { s.mem with linkErr := tput s.mem.linkErr (c * 4 + ch) 0 } }
    if e = 1 then (corrected line (if write then 1 else 2) (modCg s c fun x => { x with linkCorr := tmod x.linkCorr ch fun n => n.add 1 }), false)
    else (s, true)

/-- A line is written to the device: an error that link ECC leaves makes it uncorrectable there (R333, R334). -/
def linkWrite (line : Nat) (s : State) : State :=
  let r := linkCross true line s
  if r.2 then { r.1 with mem := { r.1.mem with lineErr := tput r.1.mem.lineErr line 2 } } else r.1

/-- Puts a cache line's record. -/
def putLine (key : Nat) (l : CLine) (s : State) : State := { s with mem := { s.mem with cache := tput s.mem.cache key l } }

/-- Marks way `w` of a line's set as used. -/
def touchWay (line w : Nat) (s : State) : State :=
  let k := setKey s line
  { s with mem := { s.mem with plru := tput s.mem.plru k (plruTouch (tget s.mem.plru k) w 4 1 0) } }

/-- What a way holds is written back where it is dirty. -/
def writeBack (key : Nat) (s : State) : State :=
  let l := tget s.mem.cache key
  if l.line ≠ 0 ∧ l.dirty = true then linkWrite (l.line - 1) s else s

/-- Allocates a line in the ways of `mask`; the line it replaces is written back (R340, R341). -/
def allocLine (line mask : Nat) (dirty : Bool) (old : List Byte) (s : State) : State :=
  let k := setKey s line
  let free := (List.range 16).find? fun w => bitOf mask w && decide ((tget s.mem.cache (k * 16 + w)).line = 0)
  match free.orElse fun _ => plruPick (tget s.mem.plru k) mask 4 1 0 with
  | none => s
  | some w => touchWay line w (putLine (k * 16 + w) { line := line + 1, dirty := dirty, old := if dirty then old else [] } (writeBack (k * 16 + w) s))

/-- Writes back a way, and invalidates it where asked (R344). -/
def cleanWay (key : Nat) (inval : Bool) (s : State) : State :=
  let l := tget s.mem.cache key
  if l.line = 0 then s
  else putLine key (if inval then {} else { l with dirty := false, old := [] }) (writeBack key s)

/-- Cleans every line that passes `f` (key, line number). -/
def cleanLines (f : Nat → Nat → Bool) (inval : Bool) (s : State) : State :=
  s.mem.cache.foldl (fun s e => if f e.1 (e.2.line - 1) then cleanWay e.1 inval s else s) s

/-- Writes back and invalidates ways of a mask in every slice (R214). -/
def cleanWays (mask : Nat) (s : State) : State := cleanLines (fun k _ => bitOf mask (k % 16)) true s

/-! ### Classes and ranges (R345 to R347) -/

/-- The Strainer range's record. -/
def getRange (s : State) (r : Nat) : SRange := tget s.mem.ranges r
/-- Changes a Strainer range's record. -/
def modRange (s : State) (r : Nat) (f : SRange → SRange) : State :=
  { s with mem := { s.mem with ranges := tmod s.mem.ranges r f } }

/-- The lowest-numbered enabled range of party `p` that holds the address (R345 rule 4). -/
def rangeOf (s : State) (p a : Nat) : Option Nat :=
  (List.range 16).find? fun r => let x := getRange s r
    decide (x.cls ≠ 0) && bitOf (getParty s p).grant.ranges r && decide (x.base ≤ granuleOf a) && decide (granuleOf a < x.base + x.count)

/-- Adds a request to the Strainer of a channel group, and counts it for its range (R345, R350). -/
def strainerIn (c : Nat) (cls : TClass) (rng : Option Nat) (bytes : Nat) (s : State) : State :=
  let s := modCg s c fun x => { x with reqs := x.reqs ++ [{ cls := cls, at_ := s.ktime, ord := x.ord }], ord := x.ord + 1 }
  match rng with
  | some r => modRange s r fun x => { x with reqs := x.reqs.add 1, bytes := x.bytes.add bytes }
  | none => s

/-- Priority of a range's requests in this FCLK (R347). -/
def lcPriority (s : State) (r : Nat) (oldest : Nat) : Nat :=
  let x := getRange s r
  let t := x.target * 10
  let l := max x.m ((s.ktime - oldest) * 10)
  64 + 191 * min l t / max t 1

/-- Priority of a request under rule 4 of R348, times 4 with the tie order RT, LC, BE in the low bits. -/
def reqPriority (s : State) (reqs : List SReq) (q : SReq) : Nat :=
  match q.cls with
  | .lcCeil => 256 * 4 + 1
  | .rt => 192 * 4 + 2
  | .be => 64 * 4
  | .maint => 0
  | .lc r =>
    let oldest := (reqs.filter fun x => decide (x.cls = .lc r)).foldl (fun a x => min a x.at_) q.at_
    lcPriority s r oldest * 4 + 1

/-- The oldest request of a class that passes `f`. -/
def oldestReq (reqs : List SReq) (f : SReq → Bool) : Option SReq := reqs.find? f

/-- Which rule of R348 passes which request: 1 to 5. -/
def strainerPick (s : State) (c : Nat) : Option (Nat × SReq) :=
  let x := getCg s c
  let rt := oldestReq x.reqs fun q => decide (q.cls = .rt)
  let be := oldestReq x.reqs fun q => decide (q.cls = .be)
  let mt := oldestReq x.reqs fun q => decide (q.cls = .maint)
  if rt.isSome && decide (2 ≤ x.budget) then rt.map fun q => (1, q)
  else if be.isSome && decide (32 ≤ x.beAge) then be.map fun q => (2, q)
  else if mt.isSome && decide (64 ≤ x.maintAge) then mt.map fun q => (3, q)
  else
    let top := (x.reqs.filter fun q => decide (q.cls ≠ .maint)).foldl (fun (b : Option SReq) q => match b with
      | none => some q
      | some y =>
        let pq := reqPriority s x.reqs q
        let py := reqPriority s x.reqs y
        let turn : Bool := match q.cls, y.cls with
          | .lc a, .lc b => decide (a ≠ b) && decide ((a + 15 - x.lastLc) % 16 < (b + 15 - x.lastLc) % 16)
          | _, _ => false
        if py < pq ∨ (py = pq ∧ turn = true) then some q else some y) none
    match top with
    | some q => some (4, q)
    | none => mt.map fun q => (5, q)

/-- A completion of an LC range with latency `x` ns: M moves by an eighth, and event 0x2006 is written when M first
exceeds the target (R347, R350). -/
def lcDone (c r lat : Nat) (s : State) : State :=
  let x := getRange s r
  let m : Nat := ((x.m : Int) + ((lat : Int) - (x.m : Int)) / 8).toNat
  let t := x.target * 10
  let rearm := if m < t ∧ x.missAt + 1000000 ≤ s.ktime then false else x.missed
  let fire := decide (t < m) && !rearm
  let s := modRange s r fun y => { y with
    m := m, lat := y.lat.add lat, misses := if t < lat then y.misses.add 1 else y.misses
    missed := rearm || fire, missAt := if fire then s.ktime else y.missAt }
  let owner := ((List.range 17).find? fun p => bitOf (getParty s p).grant.ranges r).getD noParty
  if fire then event (srcStrainer c) 0x2006 owner (leBytes 1 r ++ leBytes 1 owner ++ leBytes 4 m ++ leBytes 4 x.target) s else s

/-- One FCLK of a Strainer: the budget gains 1, and one request passes (R348). -/
def strainerCycle (c : Nat) (s : State) : State :=
  let s := modCg s c fun x => { x with budget := min 64 (x.budget + 1) }
  let age := fun (x : Cg) => { x with
    beAge := if x.reqs.any (fun (q : SReq) => decide (q.cls = TClass.be)) then min 64 (x.beAge + 1) else x.beAge
    maintAge := if x.reqs.any (fun (q : SReq) => decide (q.cls = TClass.maint)) then min 64 (x.maintAge + 1) else x.maintAge }
  match strainerPick s c with
  | none => s
  | some (rule, q) =>
    let s := modCg s c fun x => { age x with
      reqs := x.reqs.filter fun y => decide (y.ord ≠ q.ord)
      budget := if rule = 1 then x.budget - 2 else x.budget
      beAge := if q.cls = TClass.be then 0 else (age x).beAge
      maintAge := if q.cls = TClass.maint then 0 else (age x).maintAge
      rtOver := if rule = 4 ∧ q.cls = TClass.rt then x.rtOver.add 1 else x.rtOver
      beFloor := if rule = 2 then x.beFloor.add 1 else x.beFloor
      maintFloor := if rule = 3 then x.maintFloor.add 1 else x.maintFloor
      lastLc := (match q.cls with | TClass.lc r => r | _ => x.lastLc) }
    match q.cls with
    | .lc r => lcDone c r ((s.ktime - q.at_) * 10) s
    | _ => s

end Sys2Proof.Machine
end

