-- ==== Sys2Proof/Machine/EstOps.lean ====
section
/-! DEFINITION. Grants, JOB_POOL resources, switch times, and the work the Kettle does at a job boundary: pending estate
changes, grants, pairs, freezes, template frees, watermarks (R213 to R220, R224, R233, R235, R396, R429). -/

namespace Sys2Proof.Machine

/-! ### Grants -/

/-- The 64 MiB granules of a list of DRAM ranges. -/
def granules (rs : List DramRange) : List Nat := rs.flatMap fun r => (List.range r.count).map fun i => r.first + i

/-- What two grants have in common: while a GRANT_SET is pending, new requests are checked against it (R214). -/
def Grant.meet (a b : Grant) : Grant :=
  { caddyRead := a.caddyRead && b.caddyRead, leaves := min a.leaves b.leaves, cg := a.cg &&& b.cg,
    estates := min a.estates b.estates, ways := a.ways &&& b.ways, ranges := a.ranges &&& b.ranges,
    qblocks := a.qblocks.filter fun q => b.qblocks.contains q,
    dram := a.dram.flatMap fun r => ((List.range r.count).map fun i => r.first + i).filterMap fun g =>
      if b.dram.any fun x => decide (x.first ≤ g) && decide (g < x.first + x.count) && (x.pool == r.pool) then
        some { first := g, count := 1, pool := r.pool } else none }

/-- The grant that a party's new requests are checked against. -/
def reqGrant (s : State) (p : Nat) : Grant :=
  match (getParty s p).grantPend with
  | none => (getParty s p).grant
  | some g => (getParty s p).grant.meet g.grant

/-- Whether [a, a + n) lies in the grant that new requests are checked against, outside JOB_POOL ranges. -/
def inReq (s : State) (p a n : Nat) : Bool :=
  decide (a + n ≤ dramEnd s) && inRanges (reqGrant s p).dram a (max n 1) fun r => !r.pool

/-- The party's estates, ascending. -/
def estatesOf (s : State) (p : Nat) : List Nat := (estates s).filter fun e => decide ((getEst s e).party = p)

/-- Number of set bits among bits 0 to 15. -/
def bitCount (m : Nat) : Nat := ((List.range 16).filter fun i => bitOf m i).length

/-! ### JOB_POOL DRAM and queues (R215, R224, R235) -/

/-- Bytes of one piece. -/
def pieceBytes : Nat := 0x200000

/-- All pieces of a party's JOB_POOL ranges in channel group `c`, ascending. -/
def poolPieces (s : State) (p c : Nat) : List Nat :=
  (((reqGrant s p).dram.filter fun r => r.pool).flatMap fun r =>
    (List.range (r.count * 32)).map fun i => r.first * 0x4000000 + i * pieceBytes).filter fun a => decide (cgOf s a = c)

/-- Pieces in use: working DRAM, kept saves, template copies and bin memory. -/
def usedPieces (s : State) : List Nat :=
  ((estates s).flatMap fun e => (match jobOf s e with | some j => j.pieces | none => []) ++
    (match (getEst s e).replay with | some j => j.pieces | none => []) ++
    (getEst s e).kept.flatMap (·.pieces) ++ (tget s.media.gfx e).grown) ++ s.jobs.tmpls.flatMap (·.pieces) ++
    s.jobs.waiting.flatMap fun w => w.pieces ++ w.gfx.grown

/-- Entries of several lists taken in turn; an exhausted list is passed over (R235). -/
def inTurn (ls : List (List Nat)) : List Nat :=
  (List.range ((ls.map (·.length)).foldl max 0)).flatMap fun i => ls.filterMap fun l => l[i]?

/-- Free pieces of the party in the channel groups of a mask, in the order R235 takes them. -/
def freeTurn (s : State) (p mask : Nat) : List Nat :=
  let used := usedPieces s
  inTurn (((List.range 8).filter fun c => bitOf mask c).map fun c => (poolPieces s p c).filter fun a => !used.contains a)

/-- `n` pieces for a party, or none. -/
def allocPieces (s : State) (p mask n : Nat) : Option (List Nat) :=
  let l := (freeTurn s p mask).take n
  if l.length < n then none else some l

/-- Pieces that hold `b` bytes. -/
def piecesFor (b : Nat) : Nat := (b + pieceBytes - 1) / pieceBytes

/-- Free queues of a party's JOB_POOL blocks, lowest ID first (assumption 21). -/
def poolQueues (s : State) (p : Nat) : List Nat :=
  ((reqGrant s p).qblocks.filter fun b => b.pool).flatMap fun b => (List.range 64).map fun i => b.block * 64 + i

/-- Those that are not bound and that no job holds. -/
def freeQueues (s : State) (p : Nat) : List Nat :=
  let held := (estates s).flatMap fun e => (match jobOf s e with | some j => j.queues | none => []) ++
    (match (getEst s e).replay with | some j => j.queues | none => [])
  (poolQueues s p).filter fun q => !(getQ s q).bound && !held.contains q

/-! ### Kept buffers (R161, R218) -/

/-- KEPT_BYTES of a template, 0 for none. -/
def keptBytesOf (s : State) (p h : Nat) : Nat := match tmplOf s p h with | some t => tKeptBytes t.image | none => 0

/-- Drops every kept buffer and save of an estate. -/
def dropKept (e : Nat) (s : State) : State := modEst s e fun x => { x with kept := [], last := (0, 0, 0) }

/-- The pieces of a save with those outside channel groups `cg` replaced by free ones, and the free ones left. -/
def movePieces (s : State) (cg : Nat) (ps free : List Nat) : List Nat × List Nat :=
  ps.foldl (fun (a : List Nat × List Nat) x => if bitOf cg (cgOf s x) then (a.1 ++ [x], a.2) else (a.1 ++ a.2.take 1, a.2.drop 1)) ([], free)

/-- Moves what saves have in channel groups that leave an estate (R218): the new state, or the bytes lacking. -/
def moveKept (e cg : Nat) (s : State) : State ⊕ Nat :=
  let x := getEst s e
  let need := (x.kept.flatMap fun k => k.pieces.filter fun a => !bitOf cg (cgOf s a)).length
  let free := freeTurn s x.party cg
  if free.length < need then .inr ((need - free.length) * pieceBytes)
  else
    let r := x.kept.foldl (fun (a : List Kept × List Nat) k =>
      let m := movePieces s cg k.pieces a.2
      (a.1 ++ [{ k with pieces := m.1 }], m.2)) ([], free)
    .inl (modEst s e fun y => { y with kept := r.1 })

/-! ### Switch time (R233) -/

/-- Units of one picosecond in which switch times come out whole for every k from 1 to 8, and frame periods for every
timing. -/
def swUnit : Nat := 7096320

/-- t_switch in those units, for `bytes` of S_out + S_in, `k` channel groups and `q` queues. -/
def switchTime (bytes k q : Nat) : Nat :=
  (2500000 + 400000 * ((q + 1023) / 1024)) * swUnit + bytes * 10000 * 9240 / max k 1

/-- Whether the last template of an estate is still in place there for a party's template (R161, R222). -/
def sameTmpl (s : State) (e p h : Nat) : Bool :=
  let x := getEst s e
  decide (x.last = (p, h, x.leaves.length)) && decide (x.leaves.length ≠ 0)

/-- S_out of a switch: KEPT_BYTES of the outgoing job's template on an estate, 0 where its kept buffers were discarded or lost
(R233). -/
def keptOut (s : State) (e : Nat) : Nat :=
  let l := (getEst s e).last
  if l.2.2 = 0 then 0
  else match keptOf s (homeOf s e l.1) l.1 l.2.1 l.2.2 with
    | none => 0
    | some k => if k.lost && k.data.isEmpty then 0 else keptBytesOf s l.1 l.2.1

/-- Channel groups counted for a lent job of party `p` (R233): its BE estate's, or those of its JOB_POOL ranges. -/
def borrowK (s : State) (p : Nat) : Nat :=
  match (estatesOf s p).find? fun e => (getEst s e).desc.be with
  | some e => bitCount (getEst s e).desc.cg
  | none => ((List.range 8).filter fun c => !(poolPieces s p c).isEmpty).length

/-- Queues of a template's plan on `leaves`, 0 where it has none. -/
def planQOf (img : List Byte) (leaves : List Nat) : Nat := match plan img leaves with | some is => planQ img is | none => 0

/-- Switch time into a job of template `h` of party `p` on its own estate `e`; `ctx` is what a resumed graphics job adds to
S_in (R233, R261). -/
def switchIn (s : State) (e p h : Nat) (img : List Byte) (ctx : Nat) : Nat :=
  let x := getEst s e
  let q := planQOf img x.leaves
  if sameTmpl s e p h then switchTime ctx (bitCount x.desc.cg) q
  else switchTime (keptOut s e + tKeptBytes img + ctx) (bitCount x.desc.cg) q

/-- Switch time into a lent job and back (R229, R233). -/
def lendTimes (s : State) (e p : Nat) (img : List Byte) : Nat × Nat :=
  let x := getEst s e
  let k := min (bitCount x.desc.cg) (borrowK s p)
  let back := match tmplOf s x.last.1 x.last.2.1 with | some t => planQOf t.image x.leaves | none => 0
  (switchTime (keptOut s e + tKeptBytes img) k (planQOf img x.leaves), switchTime (keptOut s e + tKeptBytes img) k back)

/-- 1.1 × D in switch-time units (R225, R229): DURATION_TCLK × d / 13.2 GHz is 250 / 3 ps × 1.1 per cycle and divider step. -/
def elevenTenths (dur d : Nat) : Nat := dur * d * 250 * (swUnit / 3)

/-- 10 ns in switch-time units. -/
def tenNs : Nat := 10000 * swUnit

/-! ### Boundaries -/

/-- No job, slice, recovery, hold or halt on the estate: a change may be made. -/
def boundary (s : State) (e : Nat) : Bool :=
  let x := getEst s e
  x.live && x.job.isNone && !x.held && !x.recovering && !x.halted && !x.test.running && x.replay.isNone && !x.switchBack

/-- Makes an ESTATE_SET (R217, R218). -/
def applySet (e : Nat) (d : EstDesc) (s : State) : State × Ans :=
  let x := getEst s e
  let fin := fun (s : State) => (settleDiv (modEst s e fun y => { y with desc := { d with leaves := y.leaves.length } }),
    okWith (leBytes 1 e ++ leBytes 3 0))
  match (if d.cg = x.desc.cg then Sum.inl s else moveKept e d.cg s) with
  | .inr lack => (s, noRes lack)
  | .inl t =>
    if d.leaves = x.leaves.length then fin t
    else match (if x.desc.secure then some (leafIdx.filter fun l => decide (l < s.world.lwm ∧ (getLeaf s l).kind = .enabled))
        else placeEst s e d.leaves) with
      | none => (s, noRes (d.leaves - x.leaves.length))
      | some ls => fin (setLeaves e ls 0 t)

/-- Frees an estate (R216, R218). -/
def freeEstate (e : Nat) (s : State) : State :=
  let x := getEst s e
  let s := match pairOf s e with | some p => dissolve p 2 s | none => s
  let s := x.leaves.foldl (fun s l => if (getLeaf s l).kind = .fenced then s else segsOff l (leafStop l s)) s
  let s := modEst s e fun _ => {}
  settleDiv (event srcAfzan 0xA043 x.party (leBytes 1 e ++ leBytes 1 x.party ++ leBytes 2 x.leaves.length ++ leBytes 2 0 ++
    leBytes 1 5) s)

/-- Makes an estate's pending change at its boundary (R217). -/
def settleEst (e : Nat) (s : State) : State :=
  if !boundary s e then s
  else match (getEst s e).change with
    | .none => s
    | .set d p =>
      let r := applySet e d (modEst s e fun x => { x with change := .none })
      finish p r.2 r.1
    | .free p => finish p ok (freeEstate e s)

/-! ### Grants that wait (R214, R431) -/

/-- The target size of each estate under a reduced grant: descending estate number, each down to one leaf; none where
the party must free estates first. -/
def shrinkPlan (s : State) (p : Nat) (g : Grant) : Option (List (Nat × Nat)) :=
  let es := estatesOf s p
  let total := (es.map fun e => (getEst s e).leaves.length).sum
  if g.estates < es.length then none
  else
    let r := es.reverse.foldl (fun (a : List (Nat × Nat) × Nat) e =>
      if (getEst s e).desc.secure then a
      else
        let n := (getEst s e).leaves.length
        let k := min a.2 (n - 1)
        if k = 0 then a else (a.1 ++ [(e, n - k)], a.2 - k)) ([], total - g.leaves)
    if r.2 = 0 then some r.1 else none

/-- Reshapes an idle estate to `n` leaves among those it holds and free ones (R214). -/
def shrinkEst (e n : Nat) (s : State) : State :=
  if (getEst s e).leaves.length ≤ n || !boundary s e then s
  else match placeEst s e n with
    | some ls => setLeaves e ls 3 s
    | none => s

/-- Takes channel groups and ways that a new grant lacks from the party's idle estates; an estate that would be left with none
keeps them, and the grant waits for the party (R214; DESIGN CHOICE, assumption 124). -/
def trimEst (g : Grant) (e : Nat) (s : State) : State :=
  let d := (getEst s e).desc
  let cg := d.cg &&& g.cg
  let ways := d.ways &&& g.ways
  if !boundary s e || (decide (cg = d.cg) && decide (ways = d.ways)) || decide (cg = 0) || decide (ways = 0) then s
  else match moveKept e cg s with
    | .inl t => modEst t e fun x => { x with desc := { x.desc with cg := cg, ways := ways } }
    | .inr _ => s

/-- Whether a granule lies in the lowest 512 MiB of its channel group, which Park retains (R56). -/
def keptGranule (s : State) (g : Nat) : Bool := decide (g * 0x4000000 % cgBytes s < 0x20000000)

/-- What a pending grant still waits for. -/
def grantBusy (s : State) (p : Nat) (g : GrantPend) : Bool :=
  let old := (getParty s p).grant
  let newG := granules g.grant.dram
  let gone := (granules old.dram).filter fun x => !newG.contains x
  let es := estatesOf s p
  decide (g.grant.estates < es.length) || decide (g.grant.leaves < (es.map fun e => (getEst s e).leaves.length).sum) ||
    es.any (fun e => decide ((getEst s e).desc.cg ||| g.grant.cg ≠ g.grant.cg) || decide ((getEst s e).desc.ways ||| g.grant.ways ≠ g.grant.ways)) ||
    (usedPieces s).any (fun a => gone.contains (granuleOf a)) ||
    old.qblocks.any (fun b => !(g.grant.qblocks.any fun c => decide (c.block = b.block)) &&
      (List.range 64).any fun i => (getQ s (b.block * 64 + i)).bound) ||
    (match mboxAddr s p with | some a => gone.contains (granuleOf a) | none => false) ||
    newG.any (fun x => s.mem.zeroing.contains x || (s.mem.unzeroed && !keptGranule s x))

/-- Event 0xA048. -/
def grantEvent (p : Nat) (g : Grant) (done : Bool) (s : State) : State :=
  event srcAfzan 0xA048 16 (leBytes 1 p ++ leBytes 2 g.leaves ++ leBytes 1 g.cg ++ leBytes 2 g.ways ++ leBytes 1 (b2n done)) s

/-- A local target that an inbound window of a party may have, over a whole range: DRAM of its grant outside JOB_POOL
ranges, scratchpads of its estates' leaves, or its queue-pointer pages (R455). -/
def winTarget (s : State) (p a n : Nat) : Bool :=
  if a < 0x1000000000 then inGrantNoPool s p a n
  else if 0x1000000000 ≤ a ∧ a + n ≤ 0x1015000000 then
    let l := (a - 0x1000000000) / 0x200000
    (List.range ((a + max n 1 - 1 - 0x1000000000) / 0x200000 + 1 - l)).all fun i =>
      match estOf s (l + i) with | some e => decide ((getEst s e).party = p) | none => false
  else if 0x2100000000 ≤ a ∧ a + n ≤ 0x2101000000 then
    let b := (a - 0x2100000000) / 4096
    (List.range ((a + max n 1 - 1 - 0x2100000000) / 4096 + 1 - b)).all fun i => decide (qOwner s ((b + i) * 64) = some p)
  else false

/-- The first byte of [a, a + n) that is no such target (R33); what a party holds ends on 4 KiB boundaries. -/
def firstOut (s : State) (p a n : Nat) : Nat :=
  ((a :: ((List.range (n / 4096 + 1)).map fun k => (a / 4096 + 1 + k) * 4096).filter fun x => decide (x < a + n)).find? fun x => !winTarget s p x 1).getD a

/-- Event 0x5005. -/
def winEvent (id st : Nat) (s : State) : State :=
  let p := (tget s.cross.win id).owner
  event (0x8000 + id / 128) 0x5005 p (leBytes 1 id ++ leBytes 1 p ++ leBytes 1 st) s

/-- A window closes: it stops accepting, and drains (R465). -/
def closeWin (id : Nat) (s : State) : State :=
  let w := tget s.cross.win id
  if !w.live || w.closing then s
  else winEvent id 1 { s with cross := { s.cross with win := tput s.cross.win id { w with closing := true } } }

/-- A party's inbound windows whose target it no longer has close (R214, R465). -/
def closeLost (p : Nat) (s : State) : State :=
  (s.cross.win.filter fun x => x.2.live && decide (x.2.owner = p) && bitOf x.1 6 && !winTarget s p x.2.loc x.2.size).foldl
    (fun s x => closeWin x.1 s) s

/-- The new grant covers (R213, R214): Strainer ranges that leave are disabled, removed ways are written back and invalidated, and the granules that leave are
marked as holding the party's data. -/
def grantDone (p : Nat) (g : Grant) (s : State) : State :=
  let old := (getParty s p).grant
  let newG := granules g.dram
  let gone := (granules old.dram).filter fun x => !newG.contains x
  let s := cleanWays (old.ways &&& (0xFFFF ^^^ g.ways)) s
  let lost := (List.range 16).filter fun r => bitOf old.ranges r && !bitOf g.ranges r
  let s := { s with mem := { s.mem with lastOwner := gone.foldl (fun t x => tput t x (p + 1)) s.mem.lastOwner
                                        ranges := lost.foldl (fun t r => tput t r {}) s.mem.ranges } }
  grantEvent p g true (closeLost p (modParty s p fun x =>
    { x with grant := g, grantPend := none, memWays := x.memWays.map fun w => w &&& g.ways }))

/-- Moves a pending grant forward, and completes it when nothing it removes is in use and every granule is zeroed. -/
def settleGrant (p : Nat) (s : State) : State :=
  match (getParty s p).grantPend with
  | none => s
  | some g =>
    let plan := if g.shrink.isEmpty then (shrinkPlan s p g.grant).getD [] else g.shrink
    let s := plan.foldl (fun s x => shrinkEst x.1 x.2 s) s
    let s := (estatesOf s p).foldl (fun s e => trimEst g.grant e s) s
    if grantBusy s p g then modParty s p fun x => { x with grantPend := some { g with shrink := plan } }
    else finish g.pend ok (grantDone p g.grant s)

/-! ### Watermark and secure estate (R220, R429) -/

/-- Leaves below LWM that normal estates hold. -/
def lowHeld (s : State) (lwm : Nat) : List Nat :=
  (estates s).flatMap fun e => if (getEst s e).desc.secure then [] else (getEst s e).leaves.filter fun l => decide (l < lwm)

/-- Replaces an idle normal estate's leaves below `lwm` with leaves at or above it. -/
def raiseEst (lwm e : Nat) (s : State) : State :=
  let x := getEst s e
  if x.desc.secure || !boundary s e || !(x.leaves.any fun l => decide (l < lwm)) then s
  else match bestRect (fun l => decide (lwm ≤ l) && decide ((getLeaf s l).kind = .enabled) &&
      (match estOf s l with | none => true | some y => decide (y = e))) (fun l => match estOf s l with | none => false | some y => decide (y ≠ e))
      x.leaves.length with
    | some ls => setLeaves e ls 0 s
    | none => s

/-- Forms an estate on the given leaves (R216): the lowest free number. -/
def createEst (p : Nat) (d : EstDesc) (ls : List Nat) (s : State) : State × Ans :=
  match (List.range 16).find? fun e => !(getEst s e).live with
  | none => (s, noRes 1)
  | some e =>
    let s := modEst s e fun _ => { live := true, party := p, desc := { d with leaves := ls.length }, leaves := ls }
    let s := event srcAfzan 0xA043 p (leBytes 1 e ++ leBytes 1 p ++ leBytes 2 0 ++ leBytes 2 ls.length ++ leBytes 1 0) s
    (settleDiv s, okWith (leBytes 1 e ++ leBytes 3 0))

/-- The enabled, unfenced leaves below LWM. -/
def secureLeaves (s : State) : List Nat :=
  leafIdx.filter fun l => decide (l < s.world.lwm) && decide ((getLeaf s l).kind = .enabled)

/-- Event 0x4004. -/
def worldEvent (item old new forced : Nat) (s : State) : State :=
  event srcAfzan 0x4004 16 (leBytes 1 item ++ leBytes 2 old ++ leBytes 2 new ++ leBytes 1 forced) s

/-- A new LWM is in force: leaves in no estate that cross it lose their segments first (R429). -/
def putLwm (lwm : Nat) (s : State) : State :=
  let old := s.world.lwm
  let cross := leafIdx.filter fun l => decide (min old lwm ≤ l) && decide (l < max old lwm) && (estOf s l).isNone
  worldEvent 1 old lwm 0 { (cross.foldl (fun s l => segsOff l s) s) with world := { s.world with lwm := lwm, lwmNext := none } }

/-- Moves a raised LWM and a waiting secure estate forward (R220, R429). -/
def settleWorld (s : State) : State :=
  let s := match s.world.lwmNext with
    | none => s
    | some lwm =>
      let s := (estates s).foldl (fun s e => raiseEst lwm e s) s
      if lowHeld s lwm = [] then
        let s := putLwm lwm s
        if s.world.changing = 0 then
          match s.world.pend with
          | some p => finish p ok { s with world := { s.world with pend := none } }
          | none => s
        else s
      else s
  match s.jobs.securePend with
  | none => s
  | some (d, p) =>
    let s := (estates s).foldl (fun s e => raiseEst s.world.lwm e s) s
    if lowHeld s s.world.lwm = [] then
      let r := createEst 16 d (secureLeaves s) { s with jobs := { s.jobs with securePend := none } }
      finish p r.2 r.1
    else s

/-! ### Pairs, freezes, templates, safe state -/

/-- Forms a pair (R396). -/
def formPair (p : Pair) (s : State) : State :=
  pairEvent p 0 0 { s with jobs := { s.jobs with pairs := (s.jobs.pairs.filter fun x => decide (x.primary ≠ p.primary)) ++ [p] } }

/-- Whether the two estates of a pair still stand as SAFETY_PAIR_SET found them. -/
def pairStands (s : State) (p : Pair) : Bool :=
  let a := getEst s p.primary
  let b := getEst s p.partner
  a.live && b.live && decide (a.party = b.party) && decide (a.leaves.length = b.leaves.length)

/-- Forms or removes pairs whose SAFETY_PAIR_SET waited for a job's end; records already taken finish first (R396). One whose
estates no longer fit when the job ends is ABORTED. -/
def settlePairs (s : State) : State :=
  s.jobs.pairPend.foldl (fun s x =>
    if (jobOf s x.1.primary).isSome || (jobOf s x.1.partner).isSome then s
    else
      let s := { s with jobs := { s.jobs with pairPend := s.jobs.pairPend.filter fun y => decide (y ≠ x) } }
      if x.2.1 then finish x.2.2 ok (if s.jobs.pairs.contains x.1 then dissolve x.1 0 s else s)
      else if pairStands s x.1 then finish x.2.2 ok (formPair x.1 s)
      else finish x.2.2 (sts stABORTED) s) s

/-- Whether a job of party `p` runs, lent or not. -/
def partyRuns (s : State) (p : Nat) : Bool :=
  (estates s).any fun e => (match jobOf s e with | some j => decide (j.party = p) | none => false) ||
    (match (getEst s e).replay with | some j => decide (j.party = p) | none => false)

/-- Event 0xA047. -/
def guestEvent (p st : Nat) (s : State) : State := event srcAfzan 0xA047 p (leBytes 1 p ++ leBytes 1 st) s

/-- Completes GUEST_FREEZE when no job of the guest runs (R242). -/
def settleFreeze (p : Nat) (s : State) : State :=
  match (getParty s p).freezePend with
  | none => s
  | some d =>
    if partyRuns s p then s
    else finish d ok (guestEvent p 2 (modParty s p fun x => { x with frozen := 2, freezePend := none }))

/-- Whether a job of a template runs or waits for its replay, or a record already taken will still run (R371,
assumption 69). -/
def tmplRuns (s : State) (p h : Nat) : Bool :=
  (s.jobs.waiting.any fun w => decide (w.party = p ∧ recHandle w.record = h)) ||
  (estates s).any fun e => (match jobOf s e with | some j => decide (j.party = p ∧ recHandle j.record = h) | none => false) ||
    (match (getEst s e).replay with | some j => decide (j.party = p ∧ recHandle j.record = h) | none => false)

/-- An estate without the kept buffers of a template. -/
def Estate.forget (p h : Nat) (x : Estate) : Estate :=
  { x with kept := x.kept.filter fun k => !(decide (k.party = p) && decide (k.handle = h))
           last := if x.last.1 = p ∧ x.last.2.1 = h then (0, 0, 0) else x.last
           lentBy := if x.lentBy = some (p, h) then none else x.lentBy }

/-- Removes a template: the memory of its copy and of its saves is free again. -/
def dropTmpl (p h : Nat) (s : State) : State :=
  { s with jobs := { s.jobs with tmpls := s.jobs.tmpls.filter fun t => !(decide (t.party = p) && decide (t.handle = h))
                                 est := tmap (Estate.forget p h) s.jobs.est } }

/-- Frees templates whose last job has ended (R371). -/
def settleTmpls (s : State) : State :=
  s.jobs.tmpls.foldl (fun s t => match t.freePend with
    | some d => if tmplRuns s t.party t.handle then s else finish d ok (dropTmpl t.party t.handle s)
    | none => s) s

/-- Completes SAFE_STATE level 1 once no job runs on the named estates (R417). -/
def settleSafe (s : State) : State :=
  match s.safe.levelPend with
  | none => s
  | some d =>
    if (estates s).any fun e => (getEst s e).safeStop && (jobOf s e).isSome then s
    else finish d ok { s with safe := { s.safe with levelPend := none } }

/-! ### Microcode (R390, R438, R442) -/

/-- Advances a rollback counter and blows revoke bits of a key set; event 0x4006 where either changes (R438). -/
def advance (c level set revoke : Nat) (s : State) : State :=
  let old := tget s.firm.counters c
  let was := tget s.firm.revoked set
  if level ≤ old ∧ was ||| revoke = was then s
  else
    event srcAfzan 0x4006 noParty (leBytes 1 c ++ leBytes 1 old ++ leBytes 1 (max old level) ++ leBytes 1 revoke)
      { s with firm := { s.firm with counters := tput s.firm.counters c (max old level), revoked := tput s.firm.revoked set (was ||| revoke) } }

/-- Event 0xA005. -/
def ucodeEvent (e v n : Nat) (s : State) : State :=
  event srcAfzan 0xA005 noParty (leBytes 1 e ++ leBytes 2 v ++ leBytes 2 n) s

/-- Gives leaves a microcode version. -/
def pourUcode (e v : Nat) (ls : List Nat) (s : State) : State :=
  let need := ls.filter fun l => decide ((getLeaf s l).ucode ≠ v) && decide ((getLeaf s l).kind = .enabled)
  if need = [] then s else ucodeEvent e v need.length (need.foldl (fun s l => modLeaf s l fun x => { x with ucode := v }) s)

/-- An estate takes new microcode at its boundary; the two of a pair take it together (R390). -/
def ucodeEst (v e : Nat) (s : State) : State :=
  let both := match pairOf s e with | some p => boundary s p.primary && boundary s p.partner | none => boundary s e
  if both then pourUcode e v (getEst s e).leaves s else s

/-- Moves a UCODE_LOAD forward: leaves in no estate at once, estates at their boundary, and OK when every enabled leaf runs
the new microcode, which then stands in its flash partition too. -/
def settleUcode (s : State) : State :=
  match s.firm.ucodeLoad with
  | none => s
  | some (d, u) =>
    let s := pourUcode 0xFF u.version (leafIdx.filter fun l => (estOf s l).isNone) s
    let s := (estates s).foldl (fun s e => ucodeEst u.version e s) s
    if (leavesOf s .enabled).all fun l => decide ((getLeaf s l).ucode = u.version) then
      let s := { s with firm := { s.firm with ucodeLoad := none, ucodePart := u, ucode := u.version, mUcode := u.digest } }
      finish d ok (advance 1 u.rollback 0 u.revoke s)
    else s

/-- The Kettle's work at job boundaries: everything that waited for a job's end and can now be done. It does nothing
where nothing waits. -/
def settle (s : State) : State :=
  let s := settleUcode s
  let s := (List.range 16).foldl (fun s e => settleEst e s) s
  let s := settlePairs s
  let s := (List.range 17).foldl (fun s p => settleGrant p s) s
  let s := settleWorld s
  let s := (List.range 16).foldl (fun s p => settleFreeze p s) s
  settleSafe (settleTmpls s)

/-! ### Ends of jobs, with the boundary's work -/

/-- A program fault of a thread (R69), with the boundary's work. -/
def progFault (w kind : Nat) (s : State) : State := settle (programFault w kind s)
/-- The job on a leaf's estate ends ABORTED. -/
def abortOn (l reason : Nat) (s : State) : State := settle (leafAbort l reason s)
/-- A leaf is fenced. -/
def fence (l cause : Nat) (s : State) : State := settle (fenceLeaf l cause s)

end Sys2Proof.Machine
end

