-- ==== Sys2Proof/Machine/Mesh.lean ====
section
/-! DEFINITION. The mesh: where packets enter and leave it, the stops they pass, and fabric faults (R18, R21, R105, R395). -/

namespace Sys2Proof.Machine

/-- The mesh stop next to an edge stop (Table 1.2): the side is given, the place along it is not (assumption 121). -/
def westStop (u : Nat) : Nat := 12 * (Config.edgeAt u % 14)
def eastStop (u : Nat) : Nat := 12 * (Config.edgeAt u % 14) + 11
def northStop (u : Nat) : Nat := Config.edgeAt u % 12
def southStop (u : Nat) : Nat := 156 + Config.edgeAt u % 12

/-- Stop of a queue slice: eight are west and eight east. -/
def sliceStop (q : Nat) : Nat := if Config.sliceWest q then westStop (200 + q) else eastStop (200 + q)

/-- Stop at which an initiator's packets enter the mesh. -/
def iniStop (i : Initiator) : Nat :=
  match i with
  | .leaf n => n.val
  | .core n _ => westStop (n.val / 4)
  | .safetyIsland _ => westStop 4
  | .kettle => westStop 5
  | .pour => westStop 5
  | .safetySpi => westStop 5
  | .taster => westStop 6
  | .isp _ => eastStop 7
  | .fusion => eastStop 8
  | .codec n => eastStop (9 + n.val / 32)
  | .display _ => eastStop 11
  | .tsn _ _ => eastStop 12
  | .crossing p _ => eastStop (13 + p.val)
  | .ioHost n => southStop (20 + n.val)

/-- Stop at which an address's target leaves the mesh; none for an address with no target. -/
def targetStop (s : State) (a : Nat) : Option Nat :=
  match spLeaf a with
  | some l => some l
  | none =>
    if a < dramEnd s then some (if cgOf s a < 4 then northStop (100 + cgOf s a) else southStop (100 + cgOf s a))
    else if 0x2000000000 ≤ a ∧ a < 0x2000012000 then some (westStop 5)
    else if 0x2100000000 ≤ a ∧ a < 0x2101000000 then some (sliceStop ((a - 0x2100000000) / 64 / 0x4000))
    else if 0x2200000000 ≤ a ∧ a < 0x2200200000 then some (westStop 5)
    else if 0x2300000000 ≤ a ∧ a < 0x2300010000 then some (eastStop 13)
    else if 0x3000000000 ≤ a ∧ a < 0x8000000000 then some (eastStop (if a < 0x4000000000 then 13 else 14))
    else none

/-- The numbers from `a` to `b`, in that order, both included. -/
def walk (a b : Nat) : List Nat :=
  if a ≤ b then (List.range (b - a + 1)).map fun i => a + i else (List.range (a - b + 1)).map fun i => a - i

/-- The mesh stops that a packet passes: along its row to the destination column, then along that column (R21). -/
def meshPath (a b : Nat) : List Nat :=
  ((walk (leafCol a) (leafCol b)).map fun c => 12 * leafRow a + c) ++ ((walk (leafRow a) (leafRow b)).drop 1).map fun r => 12 * r + leafCol b

/-- The mesh stop with an uncorrectable flit error that a packet between two stops meets (R395). -/
def flitError (s : State) (a b : Nat) : Option Nat :=
  if s.mem.fabricErr = [] then none else (meshPath a b).find? fun l => decide (tget s.mem.fabricErr l ≠ 0)

/-- The mesh stop or queue slice with an uncorrectable error that the transaction meets: kind, unit and queue of event 0x3009. -/
def fabricAt (s : State) (i : Initiator) (a : Nat) : Option (Nat × Nat × Nat) :=
  let q := (a - 0x2100000000) / 64
  (match targetStop s a with | some t => (flitError s (iniStop i) t).map fun l => (0, l, 0) | none => none).orElse fun _ =>
    if 0x2100000000 ≤ a ∧ a < 0x2101000000 ∧ tget s.mem.fabricErr (168 + q / 0x4000) ≠ 0 then some (1, q / 0x4000, q) else none

/-- A fabric fault (R395): event 0x3009, and R105 for the estates it affects. -/
def fabricFault (kind unit q : Nat) (s : State) : State :=
  let src := if kind = 0 then unit else srcSlice unit
  let s := event src 0x3009 noParty (leBytes 1 kind ++ leBytes 2 unit ++ leBytes 3 q) s
  let es := if kind = 0 then (match estOf s unit with | some e => [e] | none => []) else
    (estates s).filter fun e => match jobOf s e with | some j => j.queues.any fun x => decide (x / 0x4000 = unit) | none => false
  sharedFault es src s

/-- The error is reported once, and its event and R105 follow. -/
def fabricHit (x : Nat × Nat × Nat) (s : State) : State :=
  fabricFault x.1 x.2.1 x.2.2 { s with mem := { s.mem with fabricErr := tput s.mem.fabricErr (if x.1 = 0 then x.2.1 else 168 + x.2.1) 0 } }

/-- What a packet from leaf `l` to the slice of queue `q` meets: a flit error on its way, or a parity error in the slice. -/
def sliceAt (s : State) (l q : Nat) : Option (Nat × Nat × Nat) :=
  let n := q / 0x4000
  if s.mem.fabricErr = [] then none
  else ((flitError s l (sliceStop n)).map fun x => (0, x, 0)).orElse fun _ =>
    if tget s.mem.fabricErr (168 + n) ≠ 0 then some (1, n, q) else none

end Sys2Proof.Machine
end

