-- ==== Sys2Proof/Machine/Issue.lean ====
section
/-! DEFINITION. How a thread issues an instruction: readiness, fetch, operand reads with their checks, program faults,
parity errors, BANK_OFF, checkpoints and replay (R62 to R69, R76 to R78, R87 to R92, R98). -/

namespace Sys2Proof.Machine

/-- Why an instruction does not take effect. -/
inductive Stop where
  /-- the thread is not ready: nothing issues (R65) -/
  | wait
  /-- a program fault of a kind of R69 -/
  | fault (kind : Nat)
  /-- a read fails parity, at a location kind and place of event 0x1001 (R91, R107) -/
  | parity (kind loc : Nat)
  /-- an access to a segment that is off (R98) -/
  | bankOff (off : Nat) (write : Bool)
  /-- a fabric error on the way to a queue's slice, or in it: kind, unit and queue of event 0x3009 (R395) -/
  | fabric (kind unit q : Nat)
deriving DecidableEq, Repr

/-- A checked step of an instruction. -/
abbrev Chk (α : Type) := Except Stop α

/-- Key of a thread: leaf × 64 + thread. -/
def thrKey (w : Thr) : Nat := w.leaf.val * 64 + w.thread.val

/-- The job that a leaf works for, with its estate, while its threads run. -/
def runningJob (s : State) (l : Nat) : Option (Nat × Job) :=
  match estOf s l with
  | none => none
  | some e => match jobOf s e with
    | some j => if j.phase = .running then some (e, j) else none
    | none => none

/-- The thread may issue: it is not halted, waiting, or stopped, no load of it is outstanding, and its job runs (R65). -/
def ready (s : State) (k : Nat) : Bool :=
  let t := getTh s k
  decide (t.mode = .running) && t.load.isNone && decide ((getLeaf s (k / 64)).kind = .enabled) && clocked s &&
    (runningJob s (k / 64)).isSome

/-! ### Scratchpad (R76 to R78, R95, R98, R99) -/

/-- Bytes of a scratchpad. -/
def spBytes : Nat := 0x200000

/-- The first word of [off, off + n) that fails parity; whole 32-bit words are read (R87). -/
def badWord (s : State) (l off n : Nat) : Option Nat :=
  let a := off / 4 * 4
  ((List.range ((off + n + 3) / 4 * 4 - a)).map fun i => a + i).find? fun x => decide (tget s.lv.badByte (spBase l + x) ≠ 0)

/-- Reads `n` bytes of a leaf's own scratchpad; `kind` is the location kind of a parity error (0, or 5 for a fetch). -/
def spRead (s : State) (l off n kind : Nat) : Chk (List Byte) :=
  if spBytes < off + n then .error (.fault 2)
  else if Seg.off ∈ segsOf s l off n then .error (.bankOff off false)
  else if Seg.zeroing ∈ segsOf s l off n then .error .wait
  else match badWord s l off n with
    | some x => .error (.parity kind x)
    | none => .ok (memRead s (spBase l + off) n)

/-- Writes bytes to a leaf's own scratchpad. -/
def spWrite (l off tag : Nat) (bs : List Byte) (s : State) : Chk State :=
  let g := segsOf s l off bs.length
  if spBytes < off + bs.length then .error (.fault 2)
  else if Seg.off ∈ g ∨ Seg.refusing ∈ g then .error (.bankOff off true)
  else if Seg.zeroing ∈ g then .error .wait
  else .ok (spPut l off tag bs s)

/-! ### Registers -/

/-- Scalar register `r` of a thread: s0 reads 0 (Table 3.1). -/
def sreg (s : State) (k : Nat) (r : BitVec 5) : Chk Word :=
  if r = 0 then .ok 0#32
  else if tget s.lv.badReg (k * 32 + r.toNat) ≠ 0 then .error (.parity 1 r.toNat)
  else .ok (tget (getTh s k).regs r.toNat)

/-- Writes a scalar register: a write to s0 is ignored. -/
def setReg (k : Nat) (r : BitVec 5) (v : Word) (s : State) : State :=
  if r = 0 then s
  else
    let s := modTh s k fun t => { t with regs := tput t.regs r.toNat v }
    { s with lv := { s.lv with badReg := tput s.lv.badReg (k * 32 + r.toNat) 0 } }

/-- A predicate of a thread. -/
def getPred (s : State) (k : Nat) (p : BitVec 3) : Bool := (getTh s k).preds.getLsbD p.toNat
/-- Writes a predicate. -/
def setPred (k : Nat) (p : Nat) (b : Bool) (s : State) : State :=
  modTh s k fun t => { t with preds := if b then t.preds ||| (1#8 <<< p) else t.preds &&& ~~~ (1#8 <<< p) }

/-- Key of lane 0 of a thread's vector register (assumption 24: a thread names its own registers from v0). -/
def vkey (s : State) (k r : Nat) : Nat := k / 64 * 4096 + ((getTh s k).vbase + r) * 128

/-- The 128 lanes of an owned vector register (R69 kind 1, R91). -/
def vread (s : State) (k r : Nat) : Chk (List Word) :=
  if (getTh s k).nv ≤ r then .error (.fault 1)
  else if (tread s.lv.badVec (vkey s k r) 128).any fun b => decide (b ≠ 0) then .error (.parity 2 r)
  else .ok (tread s.lv.vregs (vkey s k r) 128)

/-- Writes an owned vector register. -/
def vwrite (k r : Nat) (ws : List Word) (s : State) : Chk State :=
  if (getTh s k).nv ≤ r then .error (.fault 1)
  else .ok { s with lv := { s.lv with vregs := twrite s.lv.vregs (vkey s k r) (ws.take 128)
                                      badVec := tclear s.lv.badVec (vkey s k r) 128 } }

/-- Whether the thread owns accumulator tile `a` (R63). -/
def ownsTile (s : State) (k : Nat) (a : Bool) : Bool := bitOf (getTh s k).accs (b2n a)

/-- Key of entry 0 of a leaf's tile. -/
def akey (l : Nat) (a : Bool) : Nat := (l * 2 + b2n a) * 2048

/-- `n` entries of a tile from entry `i` (R91: location kind 3 with the tile's number). -/
def accRead (s : State) (l : Nat) (a : Bool) (i n : Nat) : Chk (List Word) :=
  if (tread s.lv.badAcc (akey l a + i) n).any fun b => decide (b ≠ 0) then .error (.parity 3 (b2n a))
  else .ok (tread s.lv.acc (akey l a + i) n)

/-- Writes entries of a tile. -/
def accWrite (l : Nat) (a : Bool) (i : Nat) (ws : List Word) (s : State) : State :=
  { s with lv := { s.lv with acc := twrite s.lv.acc (akey l a + i) ws
                             badAcc := tclear s.lv.badAcc (akey l a + i) ws.length } }

/-! ### Checkpoints (R88) -/

/-- The entries of a table with keys in [lo, lo + n), counted from `lo`. -/
def tsub {α : Type} (t : Tab α) (lo n : Nat) : Tab α :=
  (t.filter fun e => decide (lo ≤ e.1) && decide (e.1 < lo + n)).map fun e => (e.1 - lo, e.2)

/-- The table with [lo, lo + n) replaced by `sub`. -/
def tback {α : Type} [DecidableEq α] [Inhabited α] (t : Tab α) (lo n : Nat) (sub : Tab α) : Tab α :=
  sub.foldl (fun t e => tput t (lo + e.1) e.2) (tclear t lo n)

/-- Whether the thread has no outstanding matrix operation, drain, raster operation or DMA descriptor, and no store that
waits for a confirmation (R88, R147). -/
def idleTh (s : State) (k : Nat) : Bool :=
  let x := getLeaf s (k / 64)
  !(s.cross.out.any fun o => o.waits.contains (65536 + k)) &&
  let mine := fun (o : EngOp) => decide (o.thread = k % 64)
  !(x.mma.any mine) && !(x.drain.any mine) && !(x.raster.any mine) && !(x.dma.any fun d => decide (d.thread = k % 64))

/-- The tiles a thread owns. -/
def ownTiles (t : Thread) : List Bool := (if bitOf t.accs 0 then [false] else []) ++ (if bitOf t.accs 1 then [true] else [])

/-- Copies the thread's state into its checkpoint shadow; the replay count starts again (R88, R92). -/
def checkpoint (k : Nat) (s : State) : State :=
  let l := k / 64
  let t := getTh s k
  let sh : Shadow :=
    { regs := t.regs, preds := t.preds, pc := t.pc
      vregs := tsub s.lv.vregs (vkey s k 0) (t.nv * 128)
      acc := (ownTiles t).foldl (fun c a => tback c (b2n a * 2048) 2048 (tsub s.lv.acc (akey l a) 2048)) []
      flags := (ownTiles t).foldl (fun c a => tput c (b2n a) (tget s.lv.accFlags (l * 2 + b2n a))) []
      ttype := (getLeaf s l).ttype }
  let s := modTh s k fun t => { t with shadow := sh, replays := 0 }
  { s with lv := { s.lv with badShadow := tput s.lv.badShadow k 0 } }

/-- A number with bit `i` set or cleared. -/
def setBit (n i : Nat) (b : Bool) : Nat := n - b2n (bitOf n i) * 2 ^ i + b2n b * 2 ^ i

/-- Restores the thread's state from its checkpoint shadow (R91 step 4); what is written anew has good parity. -/
def restore (k : Nat) (s : State) : State :=
  let l := k / 64
  let t := getTh s k
  let sh := t.shadow
  let own := ownTiles t
  let lv := s.lv
  let s := { s with lv := { lv with
    vregs := tback lv.vregs (vkey s k 0) (t.nv * 128) sh.vregs
    badVec := tclear lv.badVec (vkey s k 0) (t.nv * 128)
    badReg := tclear lv.badReg (k * 32) 32
    acc := own.foldl (fun c a => tback c (akey l a) 2048 (tsub sh.acc (b2n a * 2048) 2048)) lv.acc
    badAcc := own.foldl (fun c a => tclear c (akey l a) 2048) lv.badAcc
    accFlags := own.foldl (fun c a => tput c (l * 2 + b2n a) (tget sh.flags (b2n a))) lv.accFlags } }
  let s := modLeaf s l fun x => { x with ttype := own.foldl (fun t a => setBit t (b2n a) (bitOf sh.ttype (b2n a))) x.ttype }
  modTh s k fun t => { t with regs := sh.regs, preds := sh.preds, pc := sh.pc, mode := .running, badAt := none }

/-- A step end: the thread waits for its outstanding operations, then its state is copied (R88). -/
def stepEnd (k : Nat) (s : State) : Chk State := if idleTh s k then .ok (checkpoint k s) else .error .wait

/-! ### Parity errors and BANK_OFF -/

/-- Event 0x1001, which the leaf counts (R91 step 1, R94, R107). -/
def parityEvent (k kind loc : Nat) (s : State) : State :=
  let l := k / 64
  let p := match runningJob s l with | some x => x.2.party | none => noParty
  let s := event l 0x1001 p (leBytes 2 l ++ leBytes 1 (k % 64) ++ leBytes 1 kind ++ leBytes 3 loc ++ leBytes 1 (getTh s k).replays) s
  modLeaf s l fun x => { x with parity := x.parity.add 1 }

/-- A read for the thread fails parity: event 0x1001 and the thread stops (R91 step 1); the fourth in one execution of the
step also writes event 0x1003 and fences the leaf (R92). Replays are what is counted, and an error outside the scratchpad has
offset 0 in event 0x1003 (DESIGN CHOICE, assumptions 115 and 116). -/
def parityErr (k kind loc : Nat) (s : State) : State :=
  let l := k / 64
  let t := getTh s k
  let p := match runningJob s l with | some x => x.2.party | none => noParty
  let sp := kind = 0 ∨ kind = 5
  let s := parityEvent k kind loc s
  if 3 ≤ t.replays then
    fence l 1 (event l 0x1003 p (leBytes 2 l ++ leBytes 1 (k % 64) ++ leBytes 1 stREPLAY_LIMIT ++ leBytes 3 (if sp then loc else 0)) s)
  else
    modTh s k fun t => { t with mode := .parity, badAt := if sp then some loc else t.badAt }

/-- What follows when an instruction does not take effect. -/
def stopTh (k : Nat) (e : Stop) (s : State) : State :=
  match e with
  | .wait => s
  | .fault kind => progFault k kind s
  | .fabric kind unit q => fabricHit (kind, unit, q) s
  | .parity kind loc => parityErr k kind loc s
  | .bankOff off wr => abortOn (k / 64) stBANK_OFF
      (bankOffEvent (k / 64) (k / 64) (match runningJob s (k / 64) with | some x => x.2.party | none => noParty) off wr s)

/-! ### Issue -/

/-- The fetch of the instruction at the program counter (R69, R91): a reserved encoding there is fault kind 3 (R152). That the
command is the one its word spells is the sender's part (DESIGN CHOICE, assumption 118). -/
def fetchChk (s : State) (k : Nat) : Chk Unit :=
  let pc := (getTh s k).pc
  if pc % 4 ≠ 0 then .error (.fault 5)
  else if spBytes < pc + 4 then .error (.fault 2)
  else (spRead s (k / 64) pc 4 5).bind fun bs =>
    if (decodeStation ⟨Fin.ofNat 168 (k / 64), Fin.ofNat 64 (k % 64)⟩ (BitVec.ofNat 32 (leNat bs))).isSome then .ok () else .error (.fault 3)

/-- Marks progress of the job on a leaf (R165). -/
def progress (l : Nat) (s : State) : State :=
  match estOf s l with
  | some e => modJob s e fun j => { j with progress := s.ktime }
  | none => s

/-- An instruction issued: the leaf counts it (R94), and its job makes progress (R165). -/
def issued (k : Nat) (s : State) : State :=
  progress (k / 64) (modLeaf s (k / 64) fun x => { x with issued := x.issued.add 1 })

/-- A thread issues an instruction whose effect, with its checks, is `f`; nothing issues while it is not ready (R65). -/
def issue (w : Thr) (f : Nat → State → Chk State) (s : State) : State :=
  let k := thrKey w
  if !ready s k then s
  else match fetchChk s k with
    | .error e => stopTh k e s
    | .ok _ => match f k s with
      | .error e => stopTh k e s
      | .ok t => issued k t

/-- The next instruction. -/
def adv (k : Nat) (s : State) : State := modTh s k fun t => { t with pc := (t.pc + 4) % 2 ^ 32 }

/-- A jump. -/
def jumpTo (k pc : Nat) (s : State) : State := modTh s k fun t => { t with pc := pc % 2 ^ 32 }

/-- An instruction that goes on to the next one. -/
def issueNext (w : Thr) (f : Nat → State → Chk State) (s : State) : State :=
  issue w (fun k s => (f k s).map (adv k)) s

end Sys2Proof.Machine
end

