-- ==== Sys2Proof/Machine/Float.lean ====
section
/-! DEFINITION. Number formats and exact arithmetic (spec/04_arithmetic.md). Every finite value is a dyadic number
m × 2^e, held exactly; a result is rounded once, where the rule says so. -/

namespace Sys2Proof.Machine

/-- A rounding mode (R128): RNE, RTZ, RDN, RUP. -/
inductive Rm where
  | rne
  | rtz
  | rdn
  | rup
deriving DecidableEq, Repr

/-- The rounding mode of a 2-bit RM field (Table 5.6). -/
def Rm.ofCode (c : Nat) : Rm := match c with | 0 => .rne | 1 => .rtz | 2 => .rdn | _ => .rup

/-- An exact finite number m × 2^e. -/
structure Dy where
  m : Int
  e : Int
deriving DecidableEq, Repr

/-- A value of a floating-point format: NaN, an infinity or a finite number with its sign. -/
inductive FVal where
  | nan
  | inf (neg : Bool)
  | fin (neg : Bool) (m : Nat) (e : Int)
deriving DecidableEq, Repr

/-- A floating-point format of Table 4.1: exponent and mantissa bits, bias, the largest finite magnitude code, the
code of +Inf where there is one, and the code of the NaN written. -/
structure Fmt where
  eb : Nat
  mb : Nat
  bias : Int
  maxFin : Nat
  infCode : Option Nat
  nanCode : Nat
deriving DecidableEq, Repr

def fp32 : Fmt := ⟨8, 23, 127, 0x7F7FFFFF, some 0x7F800000, 0x7FC00000⟩
def fp16 : Fmt := ⟨5, 10, 15, 0x7BFF, some 0x7C00, 0x7E00⟩
def bf16 : Fmt := ⟨8, 7, 127, 0x7F7F, some 0x7F80, 0x7FC0⟩
def e4m3 : Fmt := ⟨4, 3, 7, 0x7E, none, 0x7F⟩
def e5m2 : Fmt := ⟨5, 2, 15, 0x7B, some 0x7C, 0x7F⟩
def e3m2 : Fmt := ⟨3, 2, 3, 0x1F, none, 0⟩
def e2m3 : Fmt := ⟨2, 3, 1, 0x1F, none, 0⟩
def e2m1 : Fmt := ⟨2, 1, 1, 0x7, none, 0⟩

/-- The least exponent of a unit in the last place. -/
def Fmt.qmin (f : Fmt) : Int := 1 - f.bias - f.mb

/-- The value of a code (Table 4.1). -/
def Fmt.decode (f : Fmt) (code : Nat) : FVal :=
  let mag := code % 2 ^ (f.eb + f.mb)
  let neg := bitOf code (f.eb + f.mb)
  if mag ≤ f.maxFin then
    let ex := mag / 2 ^ f.mb
    if ex = 0 then .fin neg mag f.qmin
    else .fin neg (mag % 2 ^ f.mb + 2 ^ f.mb) (f.qmin + (ex : Int) - 1)
  else match f.infCode with
    | some i => if mag = i then .inf neg else .nan
    | none => .nan

/-- ⌊log₂⌋ of a nonzero magnitude m × 2^e. -/
def flog (m : Nat) (e : Int) : Int := (Nat.log2 m : Int) + e

/-- A nonnegative m × 2^e as a whole number of units of 2^q, rounded; `neg` is the sign of the value. -/
def roundUnits (rm : Rm) (neg : Bool) (m : Nat) (e q : Int) : Nat :=
  if q ≤ e then m * 2 ^ (e - q).toNat
  else
    let sh := (q - e).toNat
    let hi := m / 2 ^ sh
    let lo := m % 2 ^ sh
    let up := match rm with
      | .rne => decide (2 ^ sh < 2 * lo) || (decide (2 * lo = 2 ^ sh) && decide (hi % 2 = 1))
      | .rtz => false
      | .rdn => neg && decide (lo ≠ 0)
      | .rup => !neg && decide (lo ≠ 0)
    hi + b2n up

/-- The magnitude code of a finite value, before any overflow: it exceeds `maxFin` where the value overflows. -/
def Fmt.magCode (f : Fmt) (rm : Rm) (neg : Bool) (m : Nat) (e : Int) : Nat :=
  if m = 0 then 0 else
  let q := max f.qmin (flog m e - f.mb)
  (q - f.qmin).toNat * 2 ^ f.mb + roundUnits rm neg m e q

/-- Puts the sign on a magnitude code. -/
def Fmt.signed (f : Fmt) (neg : Bool) (mag : Nat) : Nat := b2n neg * 2 ^ (f.eb + f.mb) + mag

/-- Whether IEEE 754 rounds an overflow of this sign to infinity. -/
def ovfToInf (rm : Rm) (neg : Bool) : Bool :=
  match rm with | .rne => true | .rtz => false | .rdn => neg | .rup => !neg

/-- The code of infinity, or of the NaN of the sign for E4M3 (Table 4.4, SAT = 0). -/
def Fmt.infOut (f : Fmt) (neg : Bool) : Nat :=
  match f.infCode with
  | some i => f.signed neg i
  | none => f.signed neg f.nanCode

/-- Conversion of a value to the format under Table 4.4: the code, and whether it saturated or overflowed (R118, R126). An
overflow of E4M3, which has no infinity, is the table's NaN in every rounding mode (assumption 105). -/
def Fmt.encode (f : Fmt) (rm : Rm) (sat : Bool) (v : FVal) : Nat × Bool :=
  match v with
  | .nan => (f.nanCode, false)
  | .inf neg => if sat then (f.signed neg f.maxFin, true) else (f.infOut neg, false)
  | .fin neg m e =>
    let c := f.magCode rm neg m e
    if c ≤ f.maxFin then (f.signed neg c, false)
    else if sat then (f.signed neg f.maxFin, true)
    else if ovfToInf rm neg || f.infCode.isNone then (f.infOut neg, true)
    else (f.signed neg f.maxFin, true)

/-- Adds two exact numbers. -/
def Dy.add (a b : Dy) : Dy :=
  let e := min a.e b.e
  ⟨a.m * 2 ^ (a.e - e).toNat + b.m * 2 ^ (b.e - e).toNat, e⟩

/-- Multiplies two exact numbers. -/
def Dy.mul (a b : Dy) : Dy := ⟨a.m * b.m, a.e + b.e⟩

/-- An exact finite number of a sign and magnitude. -/
def dyOf (neg : Bool) (m : Nat) (e : Int) : Dy := ⟨if neg then -(m : Int) else m, e⟩

/-- The finite value of an exact number; a zero takes the sign `zneg`. -/
def Dy.toF (d : Dy) (zneg : Bool) : FVal :=
  if d.m = 0 then .fin zneg 0 d.e else .fin (decide (d.m < 0)) d.m.natAbs d.e

/-- Whether a value is a NaN, and the sign of a value. -/
def FVal.isNan (v : FVal) : Bool := match v with | .nan => true | _ => false
def FVal.neg? (v : FVal) : Bool := match v with | .nan => false | .inf n => n | .fin n _ _ => n
def FVal.isZero (v : FVal) : Bool := match v with | .fin _ m _ => decide (m = 0) | _ => false

/-- Exact sum of two values with IEEE 754 signs of zero. -/
def FVal.add (rm : Rm) (a b : FVal) : FVal :=
  match a, b with
  | .nan, _ => .nan
  | _, .nan => .nan
  | .inf x, .inf y => if x = y then .inf x else .nan
  | .inf x, .fin _ _ _ => .inf x
  | .fin _ _ _, .inf y => .inf y
  | .fin s m e, .fin t n g =>
    (Dy.add (dyOf s m e) (dyOf t n g)).toF (if s = t then s else decide (rm = .rdn))

/-- Exact product of two values. -/
def FVal.mul (a b : FVal) : FVal :=
  match a, b with
  | .nan, _ => .nan
  | _, .nan => .nan
  | .inf x, .inf y => .inf (x != y)
  | .inf x, .fin s m _ => if m = 0 then .nan else .inf (x != s)
  | .fin s m _, .inf y => if m = 0 then .nan else .inf (s != y)
  | .fin s m e, .fin t n g => .fin (s != t) (m * n) (e + g)

/-- The negative of a value. -/
def FVal.opp (a : FVal) : FVal :=
  match a with | .nan => .nan | .inf x => .inf (!x) | .fin s m e => .fin (!s) m e

/-- Whether a < b, with −0 below +0; neither is NaN. -/
def FVal.lt (a b : FVal) : Bool :=
  match a, b with
  | .nan, _ => false
  | _, .nan => false
  | .inf x, .inf y => x && !y
  | .inf x, .fin _ _ _ => x
  | .fin _ _ _, .inf y => !y
  | .fin s m e, .fin t n g =>
    let d := Dy.add (dyOf s m e) (dyOf (!t) n g)
    if d.m = 0 then s && !t && decide (m = 0) else decide (d.m < 0)

/-- The FP32 value of a word. -/
def f32 (w : Word) : FVal := fp32.decode w.toNat
/-- The FP32 word of a value rounded by `rm` (R128). -/
def toF32 (rm : Rm) (v : FVal) : Word := BitVec.ofNat 32 (fp32.encode rm false v).1

/-- Vector FP32 add, subtract, multiply and fused multiply-add (R128). -/
def fadd (rm : Rm) (a b : Word) : Word := toF32 rm (FVal.add rm (f32 a) (f32 b))
def fsub (rm : Rm) (a b : Word) : Word := toF32 rm (FVal.add rm (f32 a) (f32 b).opp)
def fmul (rm : Rm) (a b : Word) : Word := toF32 rm (FVal.mul (f32 a) (f32 b))
def ffma (rm : Rm) (a b c : Word) : Word := toF32 rm (FVal.add rm (FVal.mul (f32 a) (f32 b)) (f32 c))

/-- minimumNumber and maximumNumber (R128). -/
def fmin (a b : Word) : Word :=
  if (f32 a).isNan then (if (f32 b).isNan then 0x7FC00000#32 else b)
  else if (f32 b).isNan then a else if (f32 b).lt (f32 a) then b else a
def fmax (a b : Word) : Word :=
  if (f32 a).isNan then (if (f32 b).isNan then 0x7FC00000#32 else b)
  else if (f32 b).isNan then a else if (f32 a).lt (f32 b) then b else a

/-- sat32 of R114 and R129. -/
def sat32 (i : Int) : Int := max (-2147483648) (min 2147483647 i)

/-- The number of trailing zero bits of `m`, at most the fuel. -/
def ctz : Nat → Nat → Nat
  | 0, _ => 0
  | n + 1, m => if m % 2 = 0 then 1 + ctz n (m / 2) else 0

/-- The exact sum of values, where every order of additions gives it: no partial sum needs rounding. None where the
order could matter, since the order of the reduction is not stated (assumption 8). -/
def exactSum (rm : Rm) (ws : List Word) : Option Word :=
  let vs := ws.map f32
  let pinf := vs.any fun v => decide (v = .inf false)
  let ninf := vs.any fun v => decide (v = .inf true)
  if vs.any FVal.isNan || (pinf && ninf) then some 0x7FC00000#32
  else
    let ds := vs.filterMap fun v => match v with | .fin s m e => some (s, m, e) | _ => none
    let mags := ds.foldl (fun (a : Dy) x => Dy.add a ⟨x.2.1, x.2.2⟩) ⟨0, -149⟩
    if pinf || ninf then
      if mags.m < (2 : Int) ^ (149 + 127) then some (toF32 rm (.inf ninf)) else none
    else
      let q := ds.foldl (fun (a : Int) x => if x.2.1 = 0 then a else min a (x.2.2 + ctz 24 x.2.1)) 104
      if mags.m ≤ (2 : Int) ^ (24 + (q + 149).toNat) then
        let sum := ds.foldl (fun (a : Dy) x => Dy.add a (dyOf x.1 x.2.1 x.2.2)) ⟨0, -149⟩
        let zneg := if rm = .rdn then vs.any FVal.neg? else vs.all FVal.neg?
        some (toF32 rm (sum.toF zneg))
      else none

/-- VRSUM's result in lane 0 (R154). -/
def vrsumOf (rm : Rm) (ws : List Word) : Word :=
  match exactSum rm ws with
  | some w => w
  | none => Config.vrsum ws

/-- VRMAX's result in lane 0 (R154, maximumNumber of R128). -/
def vrmaxOf (ws : List Word) : Word := ws.foldl fmax 0x7FC00000#32

/-! ### Formats of Table 5.7 -/

/-- Element bits in memory of a format code (R109): 6-bit elements take a byte. -/
def fmtBits (c : Nat) : Nat :=
  match c with
  | 0 => 32 | 1 => 32 | 2 => 8 | 3 => 4 | 4 => 16 | 5 => 16 | 6 => 8 | 7 => 8 | 8 => 8 | 9 => 8
  | 10 => 8 | 11 => 8 | 12 => 4 | 13 => 8 | _ => 0

/-- Codes 0xE and 0xF are reserved (Table 5.7). -/
def fmtReserved (c : Nat) : Bool := 14 ≤ c
/-- Whether a format is block scaled (R111). -/
def fmtMx (c : Nat) : Bool := 8 ≤ c && c ≤ 13
/-- Whether a format is an integer format of Table 4.1 without a scale. -/
def fmtInt (c : Nat) : Bool := c == 0 || c == 2 || c == 3

/-- The floating-point format of a code, for the codes that have one. -/
def fmtFloat (c : Nat) : Fmt :=
  match c with
  | 1 => fp32 | 4 => fp16 | 5 => bf16 | 6 => e4m3 | 7 => e5m2 | 8 => e4m3 | 9 => e5m2 | 10 => e3m2 | 11 => e2m3
  | _ => e2m1

/-- The value of an element code, without its block scale; MXINT8 counts in units of 2⁻⁶ (R110). -/
def elemVal (fmt code : Nat) : FVal :=
  match fmt with
  | 13 => let i := signedOf 8 code; .fin (decide (i < 0)) i.natAbs (-6)
  | 0 => let i := signedOf 32 code; .fin (decide (i < 0)) i.natAbs 0
  | 2 => let i := signedOf 8 code; .fin (decide (i < 0)) i.natAbs 0
  | 3 => let i := signedOf 4 code; .fin (decide (i < 0)) i.natAbs 0
  | f => (fmtFloat f).decode (code % 2 ^ (if f = 10 || f = 11 then 6 else fmtBits f))

/-- A value times 2^k. -/
def FVal.scale (v : FVal) (k : Int) : FVal :=
  match v with | .fin s m e => .fin s m (e + k) | x => x

/-- A lane loaded from an element code with its block scale (R130); integers without a scale load as INT32. -/
def widen (fmt code scale : Nat) : Word :=
  if fmt = 0 || fmt = 1 then BitVec.ofNat 32 code
  else if fmt = 2 then BitVec.ofInt 32 (signedOf 8 code)
  else if fmt = 3 then BitVec.ofInt 32 (signedOf 4 code)
  else if fmtMx fmt then
    if scale = 255 then 0x7FC00000#32 else toF32 .rne ((elemVal fmt code).scale ((scale : Int) - 127))
  else toF32 .rne (elemVal fmt code)

/-- An integer conversion of a value: rounded, saturated to `w` bits, NaN to 0 (Table 4.4, R130). -/
def toIntCode (w : Nat) (rm : Rm) (v : FVal) : Nat × Bool :=
  let lim : Int := 2 ^ (w - 1)
  match v with
  | .nan => (0, false)
  | .inf neg => (codeOf w (if neg then -lim else lim - 1), true)
  | .fin neg m e =>
    let u : Int := roundUnits rm neg m e 0
    let i : Int := if neg then -u else u
    if i < -lim then (codeOf w (-lim), true)
    else if lim - 1 < i then (codeOf w (lim - 1), true) else (codeOf w i, false)

/-- An arithmetic right shift that rounds half to even, then saturates to `w` bits (R125). -/
def shiftSat (w sh : Nat) (i : Int) : Nat × Bool :=
  toIntCode w .rne (.fin (decide (i < 0)) i.natAbs (-(sh : Int)))

/-- The exponent e of R127 step 4 for an MX format code. -/
def mxE (fmt : Nat) : Int := match fmt with | 8 => 8 | 9 => 15 | 10 => 4 | 11 => 2 | 12 => 2 | _ => 0

/-- An MX element's code for a value already scaled (R127 step 5), with whether it saturated. -/
def mxElem (fmt : Nat) (v : FVal) (rm : Rm) : Nat × Bool :=
  if fmt = 13 then
    match v.scale 6 with
    | .fin neg m e =>
      let u : Int := roundUnits rm neg m e 0
      if 127 < u then (codeOf 8 (if neg then -127 else 127), true) else (codeOf 8 (if neg then -u else u), false)
    | _ => (0, false)
  else (fmtFloat fmt).encode rm true v

/-- Quantises a block of values to an MX format (R127): the scale, the element codes, and whether any element
saturated. Step 5 rounds to nearest even; `rm` is RNE for a drain and the store's mode for a store (R130). -/
def mxBlock (fmt : Nat) (rm : Rm) (vs : List FVal) : Nat × List Nat × Bool :=
  let special := vs.any fun v => match v with | .fin _ _ _ => false | _ => true
  if special then (255, vs.map fun _ => 0, false)
  else
    let lg := vs.filterMap fun v => match v with | .fin _ m e => if m = 0 then none else some (flog m e) | _ => none
    match lg with
    | [] => (0, vs.map fun _ => 0, false)
    | l :: ls =>
      let x := max (-127) (min 127 (ls.foldl max l - mxE fmt))
      let cs := vs.map fun v => mxElem fmt (v.scale (-x)) rm
      ((x + 127).toNat, cs.map (·.1), cs.any (·.2))

/-- A list cut into blocks of 32, `n` of them. -/
def blocks32 {α : Type} : Nat → List α → List (List α)
  | 0, _ => []
  | n + 1, l => l.take 32 :: blocks32 n (l.drop 32)

/-- A lane stored to a format that is not block scaled (R130): the code and whether it saturated. Lanes carry no type: a lane
stored to INT8 or INT4 is read as FP32, and FMT INT32 copies its bits (DESIGN CHOICE, assumption 130). -/
def narrow (fmt : Nat) (rm : Rm) (sat : Bool) (w : Word) : Nat × Bool :=
  if fmt = 0 || fmt = 1 then (w.toNat, false)
  else if fmt = 2 then toIntCode 8 rm (f32 w)
  else if fmt = 3 then toIntCode 4 rm (f32 w)
  else (fmtFloat fmt).encode rm sat (f32 w)

/-- Packs element codes of a format into bytes (R109); two 4-bit elements share a byte. -/
def packCodes (fmt : Nat) (cs : List Nat) : List Byte :=
  match fmtBits fmt with
  | 4 => packNibbles cs
  | 16 => cs.flatMap (leBytes 2)
  | 32 => cs.flatMap (leBytes 4)
  | _ => cs.map (BitVec.ofNat 8)
where
  /-- Pairs of 4-bit codes, the even index in bits [3:0]. -/
  packNibbles : List Nat → List Byte
    | a :: b :: r => BitVec.ofNat 8 (a % 16 + 16 * (b % 16)) :: packNibbles r
    | [a] => [BitVec.ofNat 8 (a % 16)]
    | [] => []

/-- Element `i` of packed bytes (R109). -/
def elemCode (fmt : Nat) (bs : List Byte) (i : Nat) : Nat :=
  match fmtBits fmt with
  | 4 => let b := field bs (i / 2) 1; if i % 2 = 0 then b % 16 else b / 16
  | 16 => field bs (2 * i) 2
  | 32 => field bs (4 * i) 4
  | _ => field bs i 1

/-! ### Matrix sums (R114 to R118) -/

/-- One entry's exact integer sum and saturation (R114). -/
def intEntry (acc : Int) (ps : List (Int × Int)) : Int × Bool :=
  let s := ps.foldl (fun a p => a + p.1 * p.2) acc
  (sat32 s, decide (s ≠ sat32 s))

/-- A group's sum P (R115 steps 1 to 3, R117): an exact value, an infinity or NaN. -/
def groupSum (ps : List (FVal × FVal)) : FVal :=
  let prods := ps.map fun p => FVal.mul p.1 p.2
  let pinf := prods.any fun v => decide (v = .inf false)
  let ninf := prods.any fun v => decide (v = .inf true)
  if prods.any FVal.isNan || (pinf && ninf) then .nan
  else if pinf then .inf false
  else if ninf then .inf true
  else
    let fs := prods.filterMap fun v => match v with | .fin s m e => if m = 0 then none else some (s, m, e) | _ => none
    match fs.map (fun x => flog x.2.1 x.2.2) with
    | [] => .fin false 0 0
    | l :: ls =>
      let q := ls.foldl max l - 31
      let sum := fs.foldl (fun (a : Int) x =>
        let t : Int := roundUnits .rtz x.1 x.2.1 x.2.2 q
        if x.1 then a - t else a + t) 0
      .fin (decide (sum < 0)) sum.natAbs q

/-- One group applied to an entry (R115 step 5, R116, R117): the new word, whether the entry became NaN (NV) and
whether a finite sum rounded to an infinity (OF). -/
def applyGroup (acc : Word) (p : FVal) : Word × Bool × Bool :=
  match FVal.add .rne (f32 acc) p with
  | .nan => (0x7FC00000#32, !(f32 acc).isNan, false)
  | .inf neg => (toF32 .rne (.inf neg), false, false)
  | .fin neg m e =>
    let w := toF32 .rne (.fin neg m e)
    if (f32 w).isZero then (0#32, false, false) else (w, false, decide (f32 w = .inf neg))

/-- All groups of one entry, in ascending k (R115 step 6). Each group is its products and the exponent of its
block scales; a scale of 0xFF has made its elements NaN already. -/
def applyGroups (acc : Word) (gs : List (List (FVal × FVal) × Int)) : Word × Bool × Bool :=
  gs.foldl (fun (a : Word × Bool × Bool) g =>
    let r := applyGroup a.1 ((groupSum g.1).scale g.2)
    (r.1, a.2.1 || r.2.1, a.2.2 || r.2.2)) (acc, false, false)

end Sys2Proof.Machine
end

