-- ==== Sys2Proof/Machine/Special.lean ====
section
/-! DEFINITION. The special-function unit (R131, R132): special values, and results within the bounds of Table 4.5. The bits within a
bound are free, one result for a microcode version, function and input (assumption 6). -/

namespace Sys2Proof.Machine

/-! ### Enclosures and bounds -/

/-- The exact result of a function lies between two numbers, whose distance is far below every bound of Table 4.5. -/
structure Enc where
  lo : Dy
  hi : Dy
deriving DecidableEq, Repr

/-- Order of exact numbers, and the opposite number. -/
def Dy.opp (a : Dy) : Dy := ⟨-a.m, a.e⟩
def Dy.le (a b : Dy) : Bool := decide ((a.add b.opp).m ≤ 0)

/-- An enclosure with its sign set. -/
def Enc.signed (neg : Bool) (b : Enc) : Enc := if neg then ⟨b.hi.opp, b.lo.opp⟩ else b

/-- `k` ulp: the spacing of FP32 values at the exact result (R131). -/
def ulps (k : Nat) (b : Enc) : Dy := ⟨k, max (flog b.lo.m.natAbs b.lo.e) (-126) - 23⟩

/-- Whether an FP32 word lies within `tol` of the exact result. -/
def sfuIn (tol : Dy) (b : Enc) (w : Word) : Bool :=
  match f32 w with
  | .fin neg m e => (b.lo.add tol.opp).le (dyOf neg m e) && (dyOf neg m e).le (b.hi.add tol)
  | _ => false

/-- A nonzero result below 2⁻¹²⁶ is returned as zero of the same sign (R131). -/
def ftz (w : Word) : Word := if w.toNat % 2 ^ 31 < 0x00800000 then w &&& 0x80000000#32 else w

/-- A result of special function `f` under microcode `u`: the free value where it lies within the bound, else the FP32 value nearest
to the exact result, which does (assumption 6). -/
def sfuPick (u f : Nat) (x : Word) (tol : Dy) (b : Enc) : Word :=
  ftz (if sfuIn tol b (Config.sfu u f x) then Config.sfu u f x else toF32 .rne (b.lo.toF false))

/-! ### Exact results, enclosed -/

/-- Integer square root by bits, from bit `n`. -/
def isqrt : Nat → Nat → Nat → Nat
  | 0, _, r => r
  | n + 1, x, r => let t := r + 2 ^ n; isqrt n x (if t * t ≤ x then t else r)

/-- The whole part of n × 2^e. -/
def scaleInt (n e : Int) : Int := if 0 ≤ e then n * 2 ^ e.toNat else n / 2 ^ (-e).toNat

/-- 2^(f / 2⁶⁴) in units of 2⁻¹²⁸: the product of the repeated square roots of 2 that the bits of `f` name, from bit `i` down. -/
def pow2Frac (f : Nat) : Nat → Nat → Nat → Nat
  | 0, _, acc => acc
  | i + 1, r, acc => pow2Frac f i (isqrt 129 (r * 2 ^ 128) 0) (if bitOf f i then acc * r / 2 ^ 128 else acc)

/-- 2^x. -/
def exp2Enc (neg : Bool) (m : Nat) (e : Int) : Enc :=
  let x := scaleInt (dyOf neg m e).m (e + 64)
  let v := pow2Frac (x % 2 ^ 64).toNat 64 (isqrt 129 (2 ^ 257) 0) (2 ^ 128)
  ⟨⟨v, x / 2 ^ 64 - 128⟩, ⟨v + v / 2 ^ 60, x / 2 ^ 64 - 128⟩⟩

/-- Bits of log2 of a number from 1 to 2 in units of 2⁻¹²⁸, by repeated squaring. -/
def log2Bits : Nat → Nat → Nat → Nat
  | 0, _, acc => acc
  | n + 1, y, acc =>
    let z := y * y / 2 ^ 128
    if 2 ^ 129 ≤ z then log2Bits n (z / 2) (2 * acc + 1) else log2Bits n z (2 * acc)

/-- log2 x for x > 0. -/
def log2Enc (m : Nat) (e : Int) : Enc :=
  let l : Int := flog m e * 2 ^ 64 + log2Bits 64 (m * 2 ^ (128 - Nat.log2 m)) 0
  ⟨⟨l, -64⟩, ⟨l + 64, -64⟩⟩

/-- 1 / x for x > 0. -/
def rcpEnc (m : Nat) (e : Int) : Enc := ⟨⟨2 ^ 128 / m, -e - 128⟩, ⟨2 ^ 128 / m + b2n (decide (2 ^ 128 % m ≠ 0)), -e - 128⟩⟩

/-- 1 / √x for x > 0. -/
def rsqrtEnc (m : Nat) (e : Int) : Enc :=
  let m' := if e % 2 = 1 then 2 * m else m
  let r := isqrt 129 (2 ^ 256 / m') 0
  ⟨⟨r, -(e / 2) - 128⟩, ⟨r + 2, -(e / 2) - 128⟩⟩

/-- An alternating series in units of 2⁻ᵖ: each term is the one before × −y / d. -/
def series (p y : Int) (d : Nat → Int) : Nat → Nat → Int → Int → Int
  | 0, _, _, acc => acc
  | n + 1, i, t, acc => let t := -(t * y / 2 ^ p.toNat / d i); series p y d n (i + 1) t (acc + t)

/-- Sine and cosine of the double angle, `n` times. -/
def doubled : Nat → Int × Int → Int × Int
  | 0, a => a
  | n + 1, a => doubled n (2 * a.1 * a.2 / 2 ^ 220, 2 * a.2 * a.2 / 2 ^ 220 - 2 ^ 220)

/-- sin x or cos x for |x| ≤ 65,536: the series at x / 2²⁴, doubled 24 times. -/
def trigEnc (cosine neg : Bool) (m : Nat) (e : Int) : Enc :=
  let y := scaleInt (dyOf neg m e).m (e + 196)
  let q := y * y / 2 ^ 220
  let a := doubled 24 (series 220 q (fun i => 2 * i * (2 * i + 1)) 12 1 y y, series 220 q (fun i => (2 * i - 1) * (2 * i)) 12 1 (2 ^ 220) (2 ^ 220))
  let v := if cosine then a.2 else a.1
  ⟨⟨v - 2 ^ 100, -220⟩, ⟨v + 2 ^ 100, -220⟩⟩

/-- e⁻ᶻ in units of 2⁻¹⁶⁰ for z = m × 2^e: the series at z / 2¹⁶, squared 16 times. -/
def expNeg (m : Nat) (e : Int) : Int :=
  if !FVal.lt (.fin false m e) (.fin false 128 0) then 0
  else
    let v := series 160 (scaleInt m (e + 144)) (fun i => i) 20 1 (2 ^ 160) (2 ^ 160)
    (List.range 16).foldl (fun v _ => v * v / 2 ^ 160) v

/-- A number known to 2⁻¹²⁰ in units of 2⁻¹⁶⁰. -/
def nearEnc (v : Int) : Enc := ⟨⟨v - 2 ^ 40, -160⟩, ⟨v + 2 ^ 40, -160⟩⟩

/-- tanh of a magnitude: (1 − e⁻²ˣ) / (1 + e⁻²ˣ). -/
def tanhEnc (m : Nat) (e : Int) : Enc :=
  let q := expNeg m (e + 1)
  nearEnc ((2 ^ 160 - q) * 2 ^ 160 / (2 ^ 160 + q))

/-- The sigmoid: 1 / (1 + e⁻ˣ). -/
def sigEnc (neg : Bool) (m : Nat) (e : Int) : Enc :=
  let q := expNeg m e
  nearEnc ((if neg then q else 2 ^ 160) * 2 ^ 160 / (2 ^ 160 + q))

/-! ### The functions -/

/-- SEXP2 (R131); of ±0 it is exactly 1.0 on every part (R189). -/
def sexp2Of (u : Nat) (x : Word) : Word :=
  match f32 x with
  | .nan => 0x7FC00000#32
  | .inf neg => if neg then 0#32 else 0x7F800000#32
  | .fin neg m e =>
    if m = 0 then 0x3F800000#32
    else if !neg && decide (7 ≤ flog m e) then 0x7F800000#32
    else if neg && FVal.lt (.fin neg m e) (.fin true 126 0) then 0#32
    else let b := exp2Enc neg m e; sfuPick u 0 x (ulps 2 b) b

/-- SLOG2 (R131): absolute 2⁻²² from 0.5 to 2, and 2 ulp elsewhere. -/
def slog2Of (u : Nat) (x : Word) : Word :=
  match f32 x with
  | .nan => 0x7FC00000#32
  | .inf neg => if neg then 0x7FC00000#32 else 0x7F800000#32
  | .fin neg m e =>
    if m = 0 then 0xFF800000#32
    else if neg then 0x7FC00000#32
    else
      let b := log2Enc m e
      let near := !FVal.lt (.fin false m e) (.fin false 1 (-1)) && !FVal.lt (.fin false 2 0) (.fin false m e)
      sfuPick u 1 x (if near then ⟨1, -22⟩ else ulps 2 b) b

/-- SRCP (R131). A quotient of 2¹²⁸ or more, beyond every finite FP32 value, is infinite (assumption 6). -/
def srcpOf (u : Nat) (x : Word) : Word :=
  match f32 x with
  | .nan => 0x7FC00000#32
  | .inf neg => if neg then 0x80000000#32 else 0#32
  | .fin neg m e =>
    let inf := if neg then 0xFF800000#32 else 0x7F800000#32
    if m = 0 then inf
    else if !FVal.lt (.fin false 1 (-128)) (.fin false m e) then inf
    else let b := (rcpEnc m e).signed neg; sfuPick u 2 x (ulps 1 b) b

/-- SRSQ (R131). -/
def srsqOf (u : Nat) (x : Word) : Word :=
  match f32 x with
  | .nan => 0x7FC00000#32
  | .inf neg => if neg then 0x7FC00000#32 else 0#32
  | .fin neg m e =>
    if m = 0 then (if neg then 0xFF800000#32 else 0x7F800000#32)
    else if neg then 0x7FC00000#32
    else let b := rsqrtEnc m e; sfuPick u 3 x (ulps 2 b) b

/-- Square root, correctly rounded (RNE): a sticky bit below the 64 exact bits keeps the rounding exact (Table 4.5). -/
def sqrtPos (m : Nat) (e : Int) : Word :=
  let odd := e % 2 = 1
  let m' := (if odd then 2 * m else m) * 2 ^ 64
  let e' := (if odd then e - 1 else e) - 64
  let r := isqrt 64 m' 0
  toF32 .rne (.fin false (2 * r + b2n (decide (r * r ≠ m'))) (e' / 2 - 1))

/-- SSQRT (R131). -/
def ssqrtOf (x : Word) : Word :=
  match f32 x with
  | .nan => 0x7FC00000#32
  | .inf neg => if neg then 0x7FC00000#32 else 0x7F800000#32
  | .fin neg m e =>
    if m = 0 then x else if neg then 0x7FC00000#32 else sqrtPos m e

/-- SSIN (5) and SCOS (6) (R131): beyond 65,536 in magnitude the result is NaN. -/
def strigOf (u f : Nat) (x : Word) : Word :=
  match f32 x with
  | .nan => 0x7FC00000#32
  | .inf _ => 0x7FC00000#32
  | .fin neg m e =>
    if FVal.lt (.fin false 65536 0) (.fin false m e) then 0x7FC00000#32 else sfuPick u f x ⟨1, -21⟩ (trigEnc (f == 6) neg m e)

/-- STANH (R131). -/
def stanhOf (u : Nat) (x : Word) : Word :=
  match f32 x with
  | .nan => 0x7FC00000#32
  | .inf neg => if neg then 0xBF800000#32 else 0x3F800000#32
  | .fin neg m e => sfuPick u 7 x ⟨1, -22⟩ ((tanhEnc m e).signed neg)

/-- SSIG (R131). -/
def ssigOf (u : Nat) (x : Word) : Word :=
  match f32 x with
  | .nan => 0x7FC00000#32
  | .inf neg => if neg then 0#32 else 0x3F800000#32
  | .fin neg m e => sfuPick u 8 x ⟨1, -23⟩ (sigEnc neg m e)

end Sys2Proof.Machine
end

