-- ==== Sys2Proof/Machine/Vector.lean ====
section
/-! DEFINITION. Vector and special-function instructions on 128 lanes (R74, R75, R128, R129, R131, R154 classes 0x4 and
0x6). -/

namespace Sys2Proof.Machine

/-- The rounding mode of an instruction's RM field. -/
def rmOf (rm : BitVec 2) : Rm := Rm.ofCode rm.toNat

/-- The check that the thread owns every register an instruction names, made before any is read (R69). -/
def vowned (s : State) (k : Nat) (rs : List (BitVec 5)) (f : Chk State) : Chk State :=
  if rs.any fun r => decide ((getTh s k).nv ≤ r.toNat) then .error (.fault 1) else f

/-- vd ← f(va, vb), lane by lane. -/
def vecRR (f : Word → Word → Word) (vd va vb : BitVec 5) (k : Nat) (s : State) : Chk State :=
  vowned s k [vd, va, vb] <| match vread s k va.toNat, vread s k vb.toNat with
  | .ok a, .ok b => vwrite k vd.toNat (List.zipWith f a b) s
  | .error e, _ => .error e
  | _, .error e => .error e

/-- An integer form, which takes RM = 0; any other is a reserved encoding (Table 5.8). -/
def vecInt (f : Word → Word → Word) (vd va vb : BitVec 5) (rm : BitVec 2) (k : Nat) (s : State) : Chk State :=
  if rm ≠ 0 then .error (.fault 3) else vecRR f vd va vb k s

/-- vd ← f(va), lane by lane. -/
def vecR (f : Word → Word) (vd va : BitVec 5) (k : Nat) (s : State) : Chk State :=
  vowned s k [vd, va] <| match vread s k va.toNat with
  | .ok a => vwrite k vd.toNat (a.map f) s
  | .error e => .error e

/-- Lane 0 of vd ← f(lanes of va); the other lanes of vd stay (Table 5.8). -/
def vecReduce (f : List Word → Word) (vd va : BitVec 5) (k : Nat) (s : State) : Chk State :=
  vowned s k [vd, va] <| match vread s k va.toNat, vread s k vd.toNat with
  | .ok a, .ok d => vwrite k vd.toNat (f a :: d.drop 1) s
  | .error e, _ => .error e
  | _, .error e => .error e

/-- Saturating INT32 results (R129). -/
def addSat (a b : Word) : Word := BitVec.ofInt 32 (sat32 (a.toInt + b.toInt))
def subSat (a b : Word) : Word := BitVec.ofInt 32 (sat32 (a.toInt - b.toInt))
/-- Shift amounts of vector shifts: bits [4:0] (R129). -/
def amt (b : Word) : Nat := b.toNat % 32

/-- VADD (R128). -/
def execVadd (w : Thr) (vd va vb : BitVec 5) (rm : BitVec 2) (s : State) : Res := .next (issueNext w (vecRR (fadd (rmOf rm)) vd va vb) s)
/-- VSUB (R128). -/
def execVsub (w : Thr) (vd va vb : BitVec 5) (rm : BitVec 2) (s : State) : Res := .next (issueNext w (vecRR (fsub (rmOf rm)) vd va vb) s)
/-- VMUL (R128). -/
def execVmul (w : Thr) (vd va vb : BitVec 5) (rm : BitVec 2) (s : State) : Res := .next (issueNext w (vecRR (fmul (rmOf rm)) vd va vb) s)
/-- VFMA: vd ← va × vb + vd, rounded once (R128). -/
def execVfma (w : Thr) (vd va vb : BitVec 5) (rm : BitVec 2) (s : State) : Res :=
  .next (issueNext w (fun k s =>
    vowned s k [vd, va, vb] <| match vread s k va.toNat, vread s k vb.toNat, vread s k vd.toNat with
    | .ok a, .ok b, .ok d => vwrite k vd.toNat (List.zipWith (fun (p : Word × Word) c => ffma (rmOf rm) p.1 p.2 c) (a.zip b) d) s
    | .error e, _, _ => .error e
    | _, .error e, _ => .error e
    | _, _, .error e => .error e) s)
/-- VMIN: minimumNumber (R128). -/
def execVmin (w : Thr) (vd va vb : BitVec 5) (_rm : BitVec 2) (s : State) : Res := .next (issueNext w (vecRR fmin vd va vb) s)
/-- VMAX: maximumNumber (R128). -/
def execVmax (w : Thr) (vd va vb : BitVec 5) (_rm : BitVec 2) (s : State) : Res := .next (issueNext w (vecRR fmax vd va vb) s)
/-- VIADD: wraps (R129). -/
def execViadd (w : Thr) (vd va vb : BitVec 5) (rm : BitVec 2) (s : State) : Res := .next (issueNext w (vecInt (fun a b => a + b) vd va vb rm) s)
/-- VISUB: wraps (R129). -/
def execVisub (w : Thr) (vd va vb : BitVec 5) (rm : BitVec 2) (s : State) : Res := .next (issueNext w (vecInt (fun a b => a - b) vd va vb rm) s)
/-- VIMUL: the low 32 bits. R129 names a saturating form of each of add, subtract and multiply, and Table 5.8 lists VIADDS
and VISUBS only: no saturating multiply (DESIGN CHOICE, assumption 127). -/
def execVimul (w : Thr) (vd va vb : BitVec 5) (rm : BitVec 2) (s : State) : Res := .next (issueNext w (vecInt (fun a b => a * b) vd va vb rm) s)
/-- VIADDS: saturates (R129). -/
def execViadds (w : Thr) (vd va vb : BitVec 5) (rm : BitVec 2) (s : State) : Res := .next (issueNext w (vecInt addSat vd va vb rm) s)
/-- VISUBS: saturates (R129). -/
def execVisubs (w : Thr) (vd va vb : BitVec 5) (rm : BitVec 2) (s : State) : Res := .next (issueNext w (vecInt subSat vd va vb rm) s)
/-- VSLL (R129). -/
def execVsll (w : Thr) (vd va vb : BitVec 5) (rm : BitVec 2) (s : State) : Res := .next (issueNext w (vecInt (fun a b => a <<< amt b) vd va vb rm) s)
/-- VSRL (R129). -/
def execVsrl (w : Thr) (vd va vb : BitVec 5) (rm : BitVec 2) (s : State) : Res := .next (issueNext w (vecInt (fun a b => a >>> amt b) vd va vb rm) s)
/-- VSRA (R129). -/
def execVsra (w : Thr) (vd va vb : BitVec 5) (rm : BitVec 2) (s : State) : Res := .next (issueNext w (vecInt (fun a b => a.sshiftRight (amt b)) vd va vb rm) s)
/-- VRSUM: the sum of the 128 lanes into lane 0 (R154); the order of its additions is not stated (assumption 8). -/
def execVrsum (w : Thr) (vd va : BitVec 5) (rm : BitVec 2) (s : State) : Res := .next (issueNext w (vecReduce (vrsumOf (rmOf rm)) vd va) s)
/-- VRMAX: the maximum of the 128 lanes into lane 0 (R154). -/
def execVrmax (w : Thr) (vd va : BitVec 5) (_rm : BitVec 2) (s : State) : Res := .next (issueNext w (vecReduce vrmaxOf vd va) s)
/-- VBC: every lane of vd ← s[rs1]. -/
def execVbc (w : Thr) (vd rs1 : BitVec 5) (s : State) : Res :=
  .next (issueNext w (fun k s => vowned s k [vd] <| (sreg s k rs1).bind fun a => vwrite k vd.toNat (List.replicate 128 a) s) s)
/-- VMOVS: s[rd] ← lane 0 of va. -/
def execVmovs (w : Thr) (rd va : BitVec 5) (s : State) : Res :=
  .next (issueNext w (fun k s => (vread s k va.toNat).map fun a => setReg k rd (a.headD 0#32) s) s)

/-- vd ← f(va) under the leaf's microcode (R132). -/
def vecFn (f : Nat → Word → Word) (vd va : BitVec 5) (k : Nat) (s : State) : Chk State := vecR (f (getLeaf s (k / 64)).ucode) vd va k s

/-- SEXP2 (R131). -/
def execSexp2 (w : Thr) (vd va : BitVec 5) (s : State) : Res := .next (issueNext w (vecFn sexp2Of vd va) s)
/-- SLOG2 (R131). -/
def execSlog2 (w : Thr) (vd va : BitVec 5) (s : State) : Res := .next (issueNext w (vecFn slog2Of vd va) s)
/-- SRCP (R131). -/
def execSrcp (w : Thr) (vd va : BitVec 5) (s : State) : Res := .next (issueNext w (vecFn srcpOf vd va) s)
/-- SRSQ (R131). -/
def execSrsq (w : Thr) (vd va : BitVec 5) (s : State) : Res := .next (issueNext w (vecFn srsqOf vd va) s)
/-- SSQRT (R131). -/
def execSsqrt (w : Thr) (vd va : BitVec 5) (s : State) : Res := .next (issueNext w (vecR ssqrtOf vd va) s)
/-- SSIN (R131). -/
def execSsin (w : Thr) (vd va : BitVec 5) (s : State) : Res := .next (issueNext w (vecFn (fun u => strigOf u 5) vd va) s)
/-- SCOS (R131). -/
def execScos (w : Thr) (vd va : BitVec 5) (s : State) : Res := .next (issueNext w (vecFn (fun u => strigOf u 6) vd va) s)
/-- STANH (R131). -/
def execStanh (w : Thr) (vd va : BitVec 5) (s : State) : Res := .next (issueNext w (vecFn stanhOf vd va) s)
/-- SSIG (R131). -/
def execSsig (w : Thr) (vd va : BitVec 5) (s : State) : Res := .next (issueNext w (vecFn ssigOf vd va) s)

end Sys2Proof.Machine
end

