-- ==== Sys2Proof/Machine/VecMem.lean ====
section
/-! DEFINITION. Vector memory instructions (R74, R77, R130, R155 class 0x5). -/

namespace Sys2Proof.Machine

/-- Bytes of 128 elements of a format. -/
def rowBytes (fmt : Nat) : Nat := fmtBits fmt * 16

/-- Alignment of VLDR and VSTR: 128 elements, and 64 bytes for 4-bit formats (R155). -/
def rowAlign (fmt : Nat) : Nat := if fmtBits fmt = 4 then 64 else rowBytes fmt

/-- The four E8M0 scales at offset s[rs2] of an MX access; no other format uses rs2. -/
def scaleAt (s : State) (k : Nat) (rs2 : BitVec 5) (fmt : Nat) : Chk Nat :=
  if fmtMx fmt then (sreg s k rs2).map BitVec.toNat else .ok 0

/-- The lanes of a row of element codes with their scales (R130). -/
def laneCodes (fmt : Nat) (bs : List Byte) (sc : List Byte) : List Word :=
  (List.range 128).map fun i => widen fmt (elemCode fmt bs i) (field sc (i / 32) 1)

/-- VLDR: 128 elements from consecutive bytes, widened (R130, R155). -/
def vldrOp (vr rs1 rs2 : BitVec 5) (fmt : Nat) (k : Nat) (s : State) : Chk State :=
  let l := k / 64
  if fmtReserved fmt then .error (.fault 3)
  else vowned s k [vr] <| (sreg s k rs1).bind fun a => (scaleAt s k rs2 fmt).bind fun c =>
    if a.toNat % rowAlign fmt ≠ 0 then .error (.fault 5)
    else (spRead s l a.toNat (rowBytes fmt) 0).bind fun bs =>
      (if fmtMx fmt then spRead s l c 4 0 else .ok []).bind fun sc => vwrite k vr.toNat (laneCodes fmt bs sc) s

/-- The bytes, and the scales, that a store of 128 lanes writes (R126, R130); MX blocks round to nearest even whatever the
store's mode (R127 step 5). -/
def storeCodes (fmt : Nat) (sat : Bool) (rm : Rm) (ws : List Word) : List Byte × List Byte :=
  if fmtMx fmt then
    let bs := (blocks32 4 (ws.map f32)).map (mxBlock fmt .rne)
    (packCodes fmt (bs.flatMap fun b => b.2.1), bs.map fun b => BitVec.ofNat 8 b.1)
  else (packCodes fmt (ws.map fun w => (narrow fmt rm sat w).1), [])

/-- VSTR: 128 lanes to consecutive bytes, narrowed. -/
def vstrOp (vr rs1 rs2 : BitVec 5) (fmt : Nat) (sat : Bool) (rm : Rm) (k : Nat) (s : State) : Chk State :=
  let l := k / 64
  if fmtReserved fmt then .error (.fault 3)
  else vowned s k [vr] <| (sreg s k rs1).bind fun a => (scaleAt s k rs2 fmt).bind fun c =>
    if a.toNat % rowAlign fmt ≠ 0 then .error (.fault 5)
    else (vread s k vr.toNat).bind fun ws =>
      let o := storeCodes fmt sat rm ws
      (spWrite l a.toNat 0 o.1 s).bind fun s => if fmtMx fmt then spWrite l c 0 o.2 s else .ok s

/-- The column that s[rs1] and s[rs2] name: line L0, word j, stride, with the limits of R77 and R155. -/
def column (s : State) (k : Nat) (rs1 rs2 : BitVec 5) : Chk (Nat × Nat × Nat) :=
  (sreg s k rs1).bind fun a => (sreg s k rs2).bind fun d =>
    let l0 := a.toNat / 256
    let j := a.toNat / 4 % 64
    if a.toNat % 4 ≠ 0 then .error (.fault 5)
    else if 62 < j ∨ d.toNat = 0 ∨ 8191 < d.toNat ∨ 8191 < l0 + 63 * d.toNat then .error (.fault 2)
    else .ok (l0, j, d.toNat)

/-- VLDC: words j and j + 1 of 64 lines. -/
def vldcOp (vr rs1 rs2 : BitVec 5) (fmt : Nat) (k : Nat) (s : State) : Chk State :=
  if 1 < fmt then .error (.fault 3)
  else vowned s k [vr] <| (column s k rs1 rs2).bind fun c =>
    let get := fun (w : Nat) => (List.range 64).foldl (fun (r : Chk (List Word)) i => r.bind fun ws =>
      (spRead s (k / 64) ((c.1 + i * c.2.2) * 256 + w * 4) 4 0).map fun bs => ws ++ [BitVec.ofNat 32 (leNat bs)]) (.ok [])
    (get c.2.1).bind fun lo => (get (c.2.1 + 1)).bind fun hi => vwrite k vr.toNat (lo ++ hi) s

/-- VSTC: lanes 0 to 63 to word j and lanes 64 to 127 to word j + 1 of 64 lines. -/
def vstcOp (vr rs1 rs2 : BitVec 5) (fmt : Nat) (k : Nat) (s : State) : Chk State :=
  if 1 < fmt then .error (.fault 3)
  else vowned s k [vr] <| (column s k rs1 rs2).bind fun c => (vread s k vr.toNat).bind fun ws =>
    (List.range 64).foldl (fun (r : Chk State) i => r.bind fun s =>
      spWrite (k / 64) ((c.1 + i * c.2.2) * 256 + c.2.1 * 4) 0
        (leBytes 4 (ws.getD i 0).toNat ++ leBytes 4 (ws.getD (64 + i) 0).toNat) s) (.ok s)

/-- The tile and the row pair of VLDA and VSTA: q = s[rs1][3:0], the tile s[rs1][4]; rs2, FMT, SAT and RM must be 0. -/
def tileRow (s : State) (k : Nat) (rs1 rs2 : BitVec 5) (fmt : BitVec 4) (sat : Bool) (rm : BitVec 2) : Chk (Bool × Nat) :=
  if rs2 ≠ 0 ∨ fmt ≠ 0 ∨ sat ∨ rm ≠ 0 then .error (.fault 3)
  else (sreg s k rs1).bind fun a =>
    if ownsTile s k (a.getLsbD 4) then .ok (a.getLsbD 4, a.toNat % 16) else .error (.fault 1)

/-- VLDR (R155). SAT and RM apply to stores only (R155). -/
def execVldr (w : Thr) (vr rs1 rs2 : BitVec 5) (fmt : BitVec 4) (_sat : Bool) (_rm : BitVec 2) (s : State) : Res :=
  .next (issueNext w (vldrOp vr rs1 rs2 fmt.toNat) s)
/-- VLDC (R155). -/
def execVldc (w : Thr) (vr rs1 rs2 : BitVec 5) (fmt : BitVec 4) (_sat : Bool) (_rm : BitVec 2) (s : State) : Res :=
  .next (issueNext w (vldcOp vr rs1 rs2 fmt.toNat) s)
/-- VLDA: rows 2q and 2q + 1 of an owned tile (R155). -/
def execVlda (w : Thr) (vr rs1 rs2 : BitVec 5) (fmt : BitVec 4) (sat : Bool) (rm : BitVec 2) (s : State) : Res :=
  .next (issueNext w (fun k s => vowned s k [vr] <| (tileRow s k rs1 rs2 fmt sat rm).bind fun t =>
    (accRead s (k / 64) t.1 (t.2 * 128) 128).bind fun ws => vwrite k vr.toNat ws s) s)
/-- VSTR (R155). -/
def execVstr (w : Thr) (vr rs1 rs2 : BitVec 5) (fmt : BitVec 4) (sat : Bool) (rm : BitVec 2) (s : State) : Res :=
  .next (issueNext w (vstrOp vr rs1 rs2 fmt.toNat sat (rmOf rm)) s)
/-- VSTC (R155). -/
def execVstc (w : Thr) (vr rs1 rs2 : BitVec 5) (fmt : BitVec 4) (_sat : Bool) (_rm : BitVec 2) (s : State) : Res :=
  .next (issueNext w (vstcOp vr rs1 rs2 fmt.toNat) s)
/-- VSTA: rows 2q and 2q + 1 of an owned tile (R155). -/
def execVsta (w : Thr) (vr rs1 rs2 : BitVec 5) (fmt : BitVec 4) (sat : Bool) (rm : BitVec 2) (s : State) : Res :=
  .next (issueNext w (fun k s => vowned s k [vr] <| (tileRow s k rs1 rs2 fmt sat rm).bind fun t =>
    (vread s k vr.toNat).map fun ws => accWrite (k / 64) t.1 (t.2 * 128) ws s) s)

end Sys2Proof.Machine
end

