-- ==== Sys2Proof/Machine/Matrix.lean ====
section
/-! DEFINITION. The matrix engine and the accumulator drains (R67, R70 to R73, R111 to R127, R157). -/

namespace Sys2Proof.Machine

/-! ### Tokens -/

/-- A token may be taken: it counts to 255 (R67). -/
def tokFree (s : State) (k tok : Nat) : Bool := decide (tget (getTh s k).toks tok < 255)
/-- Issuing an operation increments its token. -/
def tokInc (k tok : Nat) (s : State) : State := modTh s k fun t => { t with toks := tmod t.toks tok fun n => n + 1 }
/-- Completing it, or abandoning it, decrements the token. -/
def tokDec (k tok : Nat) (s : State) : State := modTh s k fun t => { t with toks := tmod t.toks tok fun n => n - 1 }

/-- A command block of `n` bytes at s[rs1], aligned to `n` (R157). -/
def blockAt (rs1 : BitVec 5) (n : Nat) (k : Nat) (s : State) : Chk (List Byte) :=
  (sreg s k rs1).bind fun a => if a.toNat % n ≠ 0 then .error (.fault 5) else spRead s (k / 64) a.toNat n 0

/-! ### MMA -/

/-- Whether a pair of formats is in Table 4.2. -/
def pairOk (a b : Nat) : Bool :=
  (a == 2 && b == 2) || (a == 3 && b == 3) || ((a == 6 || a == 7) && (b == 6 || b == 7)) || (a == 4 && b == 4) ||
  (a == 5 && b == 5) || ((a == 8 || a == 9) && (b == 8 || b == 9)) || ((a == 10 || a == 11) && (b == 10 || b == 11)) ||
  (a == 12 && b == 12) || (a == 13 && b == 13)

/-- B formats that may be sparse (R120). -/
def sparseOk (b : Nat) : Bool := b == 2 || b == 6 || b == 7 || b == 13 || b == 8 || b == 9

/-- Whether K is allowed (R71, R124). -/
def kOk (fmt k : Nat) (sparse : Bool) : Bool :=
  let base := match fmtBits fmt with
    | 4 => decide (k ≤ 512) && decide (k % 8 = 0)
    | 16 => decide (k ≤ 128) && decide (k % 2 = 0)
    | _ => decide (k ≤ 256) && decide (k % 4 = 0)
  decide (1 ≤ k) && base && (!fmtMx fmt || decide (k % 32 = 0)) && (!sparse || decide (k % 32 = 0))

/-- G: rows of B to a line (R70). -/
def bRows (fmt : Nat) : Nat := match fmtBits fmt with | 4 => 8 | 16 => 2 | _ => 4

/-- Lines of B, of its metadata and of the scales that an operation reads. -/
def bLines (b : List Byte) : Nat :=
  let k := field b 6 2
  if bitOf (field b 10 1) 0 then k / 8 else (k + bRows (field b 9 1) - 1) / bRows (field b 9 1)

/-- The checks of an MMA block: kind 4 for its fields, bits [15:13] of every line field among them (R157), kind 2 for a range past the scratchpad (R69, R71, R113, R124). -/
def mmaChk (b : List Byte) : Chk Unit :=
  let f := fun (o : Nat) => field b o 2
  let fa := field b 8 1
  let fb := field b 9 1
  let sp := bitOf (field b 10 1) 0
  let mx := fmtMx fa
  let line := fun (x n : Nat) => decide (x + n ≤ 8192)
  if !pairOk fa fb || 1 < field b 10 1 || field b 11 1 ≠ 0 || field b 18 14 ≠ 0 || !kOk fa (f 6) sp || (sp && !sparseOk fb) ||
    f 2 = 0 || 8191 < f 2 || 8191 < f 0 || 8191 < f 4 || 8191 < f 12 || 8191 < f 14 || 8191 < f 16 then .error (.fault 4)
  else if !line (f 0) (31 * f 2 + 1) || !line (f 4) (bLines b) || (mx && (!line (f 12) ((f 6 / 32 + 7) / 8) || !line (f 14) ((f 6 / 32 + 3) / 4))) ||
    (sp && !line (f 16) (f 6 / 32)) then .error (.fault 2)
  else .ok ()

/-- MMA: the block is read and checked, and the operation joins the queue of 8 (R67, R157). -/
def execMma (w : Thr) (rs1 : BitVec 5) (tok : BitVec 4) (a clear : Bool) (s : State) : Res :=
  .next (issueNext w (fun k s =>
    let l := k / 64
    if !ownsTile s k a then .error (.fault 1)
    else (blockAt rs1 32 k s).bind fun b => (mmaChk b).bind fun _ =>
      if 8 ≤ (getLeaf s l).mma.length || !tokFree s k tok.toNat then .error .wait
      else
        let op : EngOp := { thread := k % 64, tok := tok.toNat, tile := b2n a, clear := clear, blk := b, seq := (getLeaf s l).seq }
        let t := if field b 8 1 = 2 ∨ field b 8 1 = 3 then 1 else 0
        .ok (tokInc k tok.toNat (modLeaf s l fun x => { x with
          mma := x.mma ++ [op], seq := x.seq + 1
          ttype := if a then x.ttype % 2 + 2 * t else x.ttype / 2 * 2 + t }))) s)

/-- Several reads in order, stopping at the first that fails. -/
def readAll (s : State) (l : Nat) (ps : List (Nat × Nat)) : Chk (List (List Byte)) :=
  ps.foldl (fun (r : Chk (List (List Byte))) p => r.bind fun xs => (spRead s l p.1 p.2 0).map fun x => xs ++ [x]) (.ok [])

/-- The code of A[m][k] in the rows read. -/
def aCode (fmt : Nat) (rows : List (List Byte)) (m k : Nat) : Nat := elemCode fmt (rows.getD m []) k

/-- The code of B[k][n] in the lines read of a dense B (R70). -/
def bCode (fmt : Nat) (lines : List (List Byte)) (k n : Nat) : Nat :=
  let g := bRows fmt
  elemCode fmt (lines.getD (k / g) []) (k % g * 64 + n)

/-- The values of column n of a sparse B, each with its k: in each group of four the two stored ones, and exact zeros at the positions
that are not stored (R120 to R123). -/
def sparseCol (lines meta_ : List (List Byte)) (kTotal n : Nat) : List (Nat × Nat) :=
  (List.range (kTotal / 4)).flatMap fun g =>
    let word := field (meta_.getD (g / 8) []) (4 * n) 4
    let nib := bitsOf word (4 * (g % 8) + 3) (4 * (g % 8))
    let line := lines.getD (g / 2) []
    let v := fun (i : Nat) => field line ((2 * (g % 2) + i) * 64 + n) 1
    let no := (List.range 4).filter fun i => decide (i ≠ nib % 4 ∧ i ≠ nib / 4)
    [(4 * g + nib % 4, v 0), (4 * g + nib / 4, v 1)] ++ no.map fun i => (4 * g + i, 0)

/-- The values of column n of B, each with its k. -/
def bCol (b : List Byte) (lines meta_ : List (List Byte)) (n : Nat) : List (Nat × Nat) :=
  let k := field b 6 2
  if bitOf (field b 10 1) 0 then sparseCol lines meta_ k n
  else (List.range k).map fun i => (i, bCode (field b 9 1) lines i n)

/-- One entry of a matrix operation, with the flags NV, OF, SAT that it sets (R114 to R118). -/
def mmaEntry (b : List Byte) (rows lines meta_ sa sb : List (List Byte)) (m n : Nat) (acc : Word) : Word × Bool × Bool × Bool :=
  let fa := field b 8 1
  let fb := field b 9 1
  let col := bCol b lines meta_ n
  if fa = 2 ∨ fa = 3 then
    let w := if fa = 2 then 8 else 4
    let r := intEntry acc.toInt (col.map fun c => (signedOf w (aCode fa rows m c.1), signedOf w c.2))
    (BitVec.ofInt 32 r.1, false, false, r.2)
  else
    let mx := fmtMx fa
    let gs := (List.range ((field b 6 2 + 31) / 32)).map fun g =>
      let xa := field (sa.getD (g / 8) []) (g % 8 * 32 + m) 1
      let xb := field (sb.getD (g / 4) []) (g % 4 * 64 + n) 1
      let bad := mx && (xa == 255 || xb == 255)
      let ps := (col.filter fun c => decide (c.1 / 32 = g)).map fun c =>
        (if bad then FVal.nan else elemVal fa (aCode fa rows m c.1), elemVal fb c.2)
      (ps, if mx then (xa : Int) + (xb : Int) - 254 else 0)
    let r := applyGroups acc gs
    (r.1, r.2.1, r.2.2, false)

/-- The whole operation: its operand reads, then the 2,048 entries and the tile's flags. -/
def mmaRun (l : Nat) (op : EngOp) (s : State) : Chk State :=
  let b := op.blk
  let f := fun (o : Nat) => field b o 2
  let k := f 6
  let fa := field b 8 1
  let fb := field b 9 1
  let tile := op.tile = 1
  let aBytes := (k * fmtBits fa + 7) / 8
  let bLine := fun (j : Nat) => if bitOf (field b 10 1) 0 then 256 else (min (bRows fb) (k - j * bRows fb)) * 8 * fmtBits fb
  (readAll s l ((List.range 32).map fun m => ((f 0 + m * f 2) * 256, aBytes))).bind fun rows =>
  (readAll s l ((List.range (bLines b)).map fun j => ((f 4 + j) * 256, bLine j))).bind fun lines =>
  (readAll s l (if bitOf (field b 10 1) 0 then (List.range (k / 32)).map fun j => ((f 16 + j) * 256, 256) else [])).bind fun meta_ =>
  (readAll s l (if fmtMx fa then (List.range ((k / 32 + 7) / 8)).map fun j => ((f 12 + j) * 256, 32 * min 8 (k / 32 - 8 * j)) else [])).bind fun sa =>
  (readAll s l (if fmtMx fa then (List.range ((k / 32 + 3) / 4)).map fun j => ((f 14 + j) * 256, 64 * min 4 (k / 32 - 4 * j)) else [])).bind fun sb =>
  (if op.clear then .ok (List.replicate 2048 0#32) else accRead s l tile 0 2048).map fun acc =>
    let es := (List.range 2048).map fun i => mmaEntry b rows lines meta_ sa sb (i / 64) (i % 64) (acc.getD i 0#32)
    let key := l * 2 + op.tile
    let old := if op.clear then 0 else tget s.lv.accFlags key
    let fl := old ||| (b2n (es.any fun e => e.2.1) + 2 * b2n (es.any fun e => e.2.2.1) + 4 * b2n (es.any fun e => e.2.2.2))
    let s := accWrite l tile 0 (es.map (·.1)) s
    { s with lv := { s.lv with accFlags := tput s.lv.accFlags key fl } }

/-- What follows when an operation that a thread issued cannot finish: it is abandoned, and its failure is the thread's
(R91, Table 3.5). -/
def engStop (k tok : Nat) (e : Stop) (s : State) : State := stopTh k e (tokDec k tok s)

/-- The leaf's engines run: its job runs and its clocks do. -/
def engOn (s : State) (l : Nat) : Bool :=
  clocked s && (runningJob s l).isSome && decide ((getLeaf s l).kind = .enabled)

/-- MMA_COMPLETE: the oldest matrix operation finishes, unless an earlier drain of its tile has yet to read it (R73). -/
def execMmaComplete (leaf : Fin 168) (s : State) : Res :=
  let l := leaf.val
  .next (match (getLeaf s l).mma with
    | [] => s
    | op :: rest =>
      if !engOn s l || (getLeaf s l).drain.any (fun d => decide (d.tile = op.tile ∧ d.seq < op.seq)) then s
      else
        let k := l * 64 + op.thread
        match mmaRun l op s with
        | .error .wait => s
        | .error e => engStop k op.tok e (modLeaf s l fun x => { x with mma := rest })
        | .ok t => progress l (tokDec k op.tok (modLeaf t l fun x => { x with mma := rest })))

/-! ### DRAIN (R125 to R127) -/

/-- The checks of a DRAIN block for a tile of the type given (1 INT32). -/
def drainChk (b : List Byte) (ttype : Nat) : Chk Unit :=
  let ld := field b 0 2
  let sd := field b 2 2
  let fmt := field b 4 1
  let sh := field b 6 1
  let okFmt := if ttype = 1 then fmt == 0 || fmt == 2 || fmt == 3 else fmt == 1 || (4 ≤ fmt && fmt ≤ 13)
  if !okFmt || 1 < field b 5 1 || 31 < sh || (sh ≠ 0 && !(fmt == 2 || fmt == 3)) || field b 7 1 ≠ 0 || field b 10 6 ≠ 0 ||
    sd = 0 || 8191 < sd || 8191 < ld || 8191 < field b 8 2 then .error (.fault 4)
  else if 8192 < ld + 31 * sd + 1 then .error (.fault 2)
  else .ok ()

/-- DRAIN: the block is read and checked, and the drain is queued. -/
def execDrain (w : Thr) (rs1 : BitVec 5) (tok : BitVec 4) (a : Bool) (s : State) : Res :=
  .next (issueNext w (fun k s =>
    let l := k / 64
    if !ownsTile s k a then .error (.fault 1)
    else (blockAt rs1 16 k s).bind fun b => (drainChk b ((getLeaf s l).ttype / 2 ^ b2n a % 2)).bind fun _ =>
      if !tokFree s k tok.toNat then .error .wait
      else
        let op : EngOp := { thread := k % 64, tok := tok.toNat, tile := b2n a, blk := b, seq := (getLeaf s l).seq }
        .ok (tokInc k tok.toNat (modLeaf s l fun x => { x with drain := x.drain ++ [op], seq := x.seq + 1 }))) s)

/-- One row of a drain: its bytes, its two scales, and whether it saturates or overflows. -/
def drainRow (b : List Byte) (ws : List Word) : List Byte × List Byte × Bool :=
  let fmt := field b 4 1
  let sat := bitOf (field b 5 1) 0
  let sh := field b 6 1
  if fmt = 0 ∨ fmt = 1 then (ws.flatMap fun w => leBytes 4 w.toNat, [], false)
  else if fmt = 2 ∨ fmt = 3 then
    let cs := ws.map fun w => shiftSat (if fmt = 2 then 8 else 4) sh w.toInt
    (packCodes fmt (cs.map (·.1)), [], cs.any (·.2))
  else if fmtMx fmt then
    let bs := (blocks32 2 (ws.map f32)).map (mxBlock fmt .rne)
    (packCodes fmt (bs.flatMap fun x => x.2.1), bs.map fun x => BitVec.ofNat 8 x.1, bs.any fun x => x.2.2)
  else
    let cs := ws.map fun w => narrow fmt .rne sat w
    (packCodes fmt (cs.map (·.1)), [], cs.any (·.2))

/-- The whole drain (R73, R118, R119, R125). -/
def drainRun (l : Nat) (op : EngOp) (s : State) : Chk State :=
  let b := op.blk
  let tile := op.tile = 1
  (accRead s l tile 0 2048).bind fun acc =>
    let rows := (List.range 32).map fun m => drainRow b ((acc.drop (m * 64)).take 64)
    let put := (rows.zipIdx).foldl (fun (r : Chk State) x => r.bind fun s =>
      (spWrite l ((field b 0 2 + x.2 * field b 2 2) * 256) 0 x.1.1 s).bind fun s =>
        if x.1.2.1.isEmpty then .ok s else spWrite l (field b 8 2 * 256 + 2 * x.2) 0 x.1.2.1 s) (.ok s)
    put.map fun s =>
      let key := l * 2 + op.tile
      let fl := tget s.lv.accFlags key ||| (if rows.any fun x => x.2.2 then 4 else 0)
      let s := { s with lv := { s.lv with accFlags := tput s.lv.accFlags key fl } }
      match estOf s l with
      | some e => modJob s e fun j => { j with accRep := tmod j.accRep (getTh s (l * 64 + op.thread)).station fun v => v ||| fl }
      | none => s

/-- DRAIN_COMPLETE: the oldest drain finishes. -/
def execDrainComplete (leaf : Fin 168) (s : State) : Res :=
  let l := leaf.val
  .next (match (getLeaf s l).drain with
    | [] => s
    | op :: rest =>
      if !engOn s l then s
      else
        let k := l * 64 + op.thread
        match drainRun l op s with
        | .error .wait => s
        | .error e => engStop k op.tok e (modLeaf s l fun x => { x with drain := rest })
        | .ok t => progress l (tokDec k op.tok (modLeaf t l fun x => { x with drain := rest })))

/-- ACCST: rd ← flags of an owned tile (R118). -/
def execAccst (w : Thr) (rd : BitVec 5) (a : Bool) (s : State) : Res :=
  .next (issueNext w (fun k s =>
    if ownsTile s k a then .ok (setReg k rd (BitVec.ofNat 32 (tget s.lv.accFlags (k / 64 * 2 + b2n a))) s) else .error (.fault 1)) s)

end Sys2Proof.Machine
end

