-- ==== Sys2Proof/Machine/Pointers.lean ====
section
/-! DEFINITION. The registers on the bus: queue-pointer slots, doorbell pages and the bridge error log, and what a bus
read or write of each does (R9, R10, R142 to R146, R358, R464, R542). -/

namespace Sys2Proof.Machine

/-! ### Leaving Hush and Doze -/

/-- The alarm fires: its notice of KIND 2 is pushed (R377). -/
def fireAlarm (p : Nat) (s : State) : State :=
  let a := (getParty s p).alarm
  pushNotice p (noticeRec a.tag 0x0303 stOK 2 0 s.ktime) (modParty s p fun t => { t with alarm := {} })

/-- Alarms whose time fell in Doze or deeper fire when the part is back in Run (R377). -/
def lateAlarms (s : State) : State :=
  (List.range 17).foldl (fun s p =>
    if (getParty s p).alarm.set && decide ((getParty s p).alarm.time ≤ s.ktime) then fireAlarm p s else s) s

/-- The part is back in Run: event 0x7006 with the time the exit took, which the spec bounds and does not state, a free value
(assumption 5), and after Doze or deeper the alarms that waited. -/
def exitEvent (old : Nat) (s : State) : State :=
  let d := draw s
  let s := event srcAfzan 0x7006 noParty (leBytes 1 old ++ leBytes 4 (Config.freeNat d.1)) d.2
  if 2 ≤ old then lateAlarms s else s

/-- The power state becomes `st`: out of Hush VDD_LEAF rises to the fused voltage of /16, and the leaf clocks wait for it (R44). -/
def leaveTo (st : PState) (s : State) : State :=
  if s.pw.st = .hush then { s with pw := { s.pw with st := st, vddWait := true, divNext := 0, vddTarget := fusedMv 16 } }
  else { s with pw := { s.pw with st := st } }

/-- A wake source leaves Hush or a Doze entered by votes: event 0x7007, then Run (R44, R54, R57). A hardware Doze does not end so
(R48). A source that Table 2.4 lists for Doze or deeper and that fires during a Park entry stops the entry after the flush (R58,
DEDUCED, assumption 128). -/
def wakeFrom (doze : Bool) (cls inst : Nat) (s : State) : State :=
  let held := s.pw.thermalDoze || s.pw.forced
  if s.pw.parking ≠ 0 then
    (if doze && s.pw.woken.isNone then { s with pw := { s.pw with woken := some (cls, inst) } } else s)
  else if (s.pw.st = .hush || (s.pw.st = .doze && doze)) && !held then
    let old := if s.pw.st = .hush then 1 else 2
    exitEvent old (leaveTo .run (event srcKeep 0x7007 noParty (leBytes 1 cls ++ leBytes 2 inst) s))
  else s

/-! ### Queue-pointer slots (Table 5.4) -/

/-- Value of the 64-bit register at offset `off` of a queue's slot. -/
def qptVal (s : State) (q off : Nat) : Nat :=
  let k := getQ s q
  match off with
  | 0x00 => k.tail
  | 0x08 => k.head
  | 0x10 => k.retire
  | 0x18 => if k.bound then k.base + k.lg * 2 ^ 48 + k.esize * 2 ^ 53 + k.kind * 2 ^ 55 + k.flags * 2 ^ 57 + 2 ^ 63 else 0
  | 0x20 => b2n (decide (k.tail = k.head)) + 2 * b2n k.full + 4 * b2n k.badptr + 8 * b2n (!k.held.isEmpty)
  | 0x28 => k.pushed.val
  | 0x30 => k.popped.val
  | _ => 0

/-- What a whole read of the register changes: RC fields clear (R10). -/
def qptReadEffect (q off : Nat) (s : State) : State :=
  match off with
  | 0x28 => modQ s q fun k => { k with pushed := k.pushed.read }
  | 0x30 => modQ s q fun k => { k with popped := k.popped.read }
  | _ => s

/-- The forward distance between two pointer values. -/
def Queue.dist (k : Queue) (a b : Nat) : Nat := (b + 2 * k.n - a) % (2 * k.n)

/-- Whether a class is software: an application core or the PCIe host port (R138). -/
def isSoftware (c : Nat) : Bool := c == 1 || c == 8

/-- Whether a TAIL value is one that R143 accepts. -/
def Queue.tailOk (k : Queue) (v : Nat) : Bool :=
  decide (v < 2 * k.n) && decide (k.dist k.tail v ≤ k.dist k.tail (k.adv k.retire k.n))

/-- Whether a HEAD value is one that R143 accepts. -/
def Queue.headOk (k : Queue) (v : Nat) : Bool := decide (v < 2 * k.n) && decide (k.dist k.head v ≤ k.len)

/-- A refused pointer write sets BADPTR (R143). -/
def setBadptr (q : Nat) (s : State) : State := modQ s q fun k => { k with badptr := true }

/-- Sets TAIL to an accepted value: the entries up to it count as pushed (R146). -/
def setTail (q v : Nat) (s : State) : State :=
  let k := getQ s q
  let d := k.dist k.tail v
  if d = 0 then s else notifyPush q k.len (modQ s q fun x => { x with
    tail := v, pushed := x.pushed.add d, came := x.came ++ (if x.cons = 5 then List.replicate d s.ktime else []) })

/-- A write of QPT_TAIL: an accepted one is a queue post, which leaves Hush (R57). -/
def writeTail (whole : Bool) (q v : Nat) (s : State) : State :=
  let k := getQ s q
  if whole && k.bound && decide (k.kind = 1) && isSoftware k.prod && k.tailOk v then
    wakeFrom false 0 ((qOwner s q).getD 0xFF) (setTail q v s)
  else setBadptr q s

/-- Pushes what the Kettle holds for a queue whose consumer made room: completion records and notices (R149, R361). -/
def roomMade (q : Nat) (s : State) : State :=
  let s := drainHeld q (getQ s q).held.length s
  (List.range 18).foldl (fun s p =>
    if (getParty s p).noticeOn && decide ((getParty s p).notice = q) && decide (s.firm.act ≠ .open_) then
      drainNotices p (getParty s p).heldNotices.length s else s) s

/-- A write of QPT_HEAD. -/
def writeHead (whole : Bool) (q v : Nat) (s : State) : State :=
  let k := getQ s q
  if whole && k.bound && isSoftware k.cons && k.headOk v then
    let d := k.dist k.head v
    if d = 0 then s
    else roomMade q (modQ s q fun x =>
      { x with head := v, retire := if x.isTile then x.retire else v, popped := x.popped.add d })
  else setBadptr q s

/-- A write to offset `off` of a queue's slot; the other registers take no write but BADPTR's W1C (Table 5.4). -/
def qptWrite (whole : Bool) (q off v : Nat) (s : State) : State :=
  match off with
  | 0x00 => writeTail whole q v s
  | 0x08 => writeHead whole q v s
  | 0x20 => if whole && bitOf v 2 then modQ s q fun k => { k with badptr := false } else s
  | _ => s

/-! ### Doorbell pages (Table 5.5) -/

/-- Value of the register at offset `off` of party `p`'s doorbell page. -/
def dblVal (s : State) (p off : Nat) : Nat :=
  let t := getParty s p
  match off with
  | 0x010 => match t.notify with | [] => 0 | q :: _ => q + 2 ^ 63
  | 0x018 => b2n t.notifyOvf + 2 * b2n t.submitErr + 4 * b2n ((estatesOf s p).any fun e => (getEst s e).held) + 8 * b2n t.busy
  | 0x020 => t.errQid + t.errStatus * 2 ^ 24
  | _ => 0

/-- A whole read of DBL_NOTIFY removes the oldest notification (R146). -/
def dblReadEffect (p off : Nat) (s : State) : State :=
  match off with
  | 0x010 => modParty s p fun t => { t with notify := t.notify.drop 1 }
  | _ => s

/-- A refused DBL_SUBMIT write (R145). -/
def submitRefuse (p q status : Nat) (s : State) : State :=
  modParty s p fun t => { t with submitErr := true, errQid := q, errStatus := status }

/-- A write of DBL_SUBMIT (R145): it sets the TAIL of a SUBMIT queue, wakes the Kettle and leaves Hush (R54). The records
it announces take their place in the order of R221. -/
def dblSubmit (whole : Bool) (p v : Nat) (s : State) : State :=
  let q := v % 2 ^ 18
  let tail := bitsOf v 48 32
  let k := getQ s q
  if !whole then submitRefuse p 0 stBAD_ARG s
  else if qOwner s q ≠ some p then submitRefuse p q stDENIED s
  else if !(k.bound && decide (k.kind = 2)) then submitRefuse p q stBAD_ARG s
  else if !(k.tailOk tail) then submitRefuse p q stBAD_ARG s
  else
    let d := k.dist k.tail tail
    let s := setTail q tail s
    let s := modQ s q fun x => { x with ann := x.ann ++ List.replicate d s.ktime }
    wakeFrom false 0 p s

/-- A write of DBL_MBOX: RING announces a message and sets MBOX_BUSY; a ring while MBOX_BUSY is set, or of a party with
no mailbox, is ignored (R357 to R359). It leaves Hush, or a Doze entered by votes (Table 2.4). -/
def dblRing (whole : Bool) (p v : Nat) (s : State) : State :=
  let box := decide (p = 17) || (mboxAddr s p).isSome
  if whole && bitOf v 0 && !(getParty s p).busy && box && !(decide (p = 16) && s.world.gsClosed) then
    wakeFrom true (if s.pw.st = .hush then 0 else 1) p (modParty s p fun t => { t with busy := true, rung := true })
  else s

/-- A write to offset `off` of a doorbell page. -/
def dblWrite (whole : Bool) (p off v : Nat) (s : State) : State :=
  match off with
  | 0x000 => dblSubmit whole p v s
  | 0x008 => dblRing whole p v s
  | 0x018 => if whole then modParty s p fun t =>
      { t with notifyOvf := t.notifyOvf && !bitOf v 0, submitErr := t.submitErr && !bitOf v 1 } else s
  | _ => s

/-! ### Bridge error log (Tables 15.7 and 15.8) -/

/-- A log entry in its 32 bytes. -/
def BrgEntry.bytes (e : BrgEntry) : List Byte :=
  leBytes 8 e.ktime ++ leBytes 2 e.win ++ leBytes 1 e.owner ++ leBytes 1 e.status ++ leBytes 1 e.kind ++ leBytes 1 e.port ++
    leBytes 2 e.requester ++ leBytes 6 e.loc ++ leBytes 2 e.len ++ leBytes 8 e.remote

/-- Who reads the log: GS and the Kettle see every entry, a window owner its own (R464). -/
def seesAll (reader : Nat) : Bool := reader == 16 || reader == 18

/-- Value of the 64-bit word at offset `off` of the log for a reader (party number, or 18 for the Kettle). -/
def brgVal (s : State) (reader off : Nat) : Nat :=
  let c := s.cross
  if off = 0 then c.next
  else if off = 8 then (if seesAll reader then c.countAll else tget c.counts reader).val
  else if off = 16 then (if seesAll reader then c.discardAll else tget c.discards reader).val
  else if off < 0x8000 then 0
  else
    let e := tget c.log ((off - 0x8000) / 32)
    if e.status = 0 ∨ !(seesAll reader || decide (e.owner = reader)) then 0 else field e.bytes ((off - 0x8000) % 32) 8

/-- A whole read of BRG_COUNT or BRG_DISCARD clears OVF for the reader. -/
def brgReadEffect (reader off : Nat) (s : State) : State :=
  let c := s.cross
  if off = 8 then
    if seesAll reader then { s with cross := { c with countAll := c.countAll.read } }
    else { s with cross := { c with counts := tmod c.counts reader Stat.read } }
  else if off = 16 then
    if seesAll reader then { s with cross := { c with discardAll := c.discardAll.read } }
    else { s with cross := { c with discards := tmod c.discards reader Stat.read } }
  else s

/-! ### Caddy window (R520) -/

/-- A Caddy record in its 32 bytes. -/
def CadRec.bytes (r : CadRec) : List Byte :=
  leBytes 4 r.seq ++ leBytes 8 r.ktime ++ leBytes 2 r.source ++ leBytes 2 r.code ++ leBytes 1 r.party ++ leBytes 1 r.sev ++
    leBytes 2 0 ++ (r.args ++ leBytes 12 0).take 12

/-- `n` bytes at offset `off` of a slot as a reader sees them: in full for GS, GX and the Kettle, else bytes 0 to 11 of a
record that does not name the reader. -/
def cadBytes (s : State) (reader slot off n : Nat) : List Byte :=
  let r := tget s.caddy.ring slot
  let bs := if r.code = 0 then leBytes 32 0
    else if 16 ≤ reader ∨ r.party = reader then r.bytes
    else r.bytes.take 12 ++ leBytes 20 0
  (bs.drop off).take n

end Sys2Proof.Machine
end

