-- ==== Sys2Proof/Machine/Access.lean ====
section
/-! DEFINITION. Bus transactions: who the initiator is and acts for, the target checks, refusals, DRAM with its cache and
error correction, scratchpads from outside, registers, and outbound windows (R22 to R33, R79, R93, R98, R164, R333 to
R348, R395, R424, R454 to R461). -/

namespace Sys2Proof.Machine

/-! ### Initiators -/

/-- An initiator as its transactions carry it. -/
structure Who where
  /-- Table 1.9 -/
  code : Nat
  /-- party it acts for; 18 for the Kettle and its Pour engine, none where no party is served -/
  party : Option Nat
  /-- security attribute (Table 1.4) -/
  sec : Bool
deriving DecidableEq, Repr

/-- Number under which the Kettle stands among parties in this file. -/
def kettleParty : Nat := 18

/-- The world of a party's blocks: S for GS. -/
def ofParty (code : Nat) (owner : Nat) : Who :=
  if owner = 0 then { code := code, party := none, sec := false }
  else { code := code, party := some (owner - 1), sec := decide (owner - 1 = 16) }

/-- The party whose job runs on a leaf. -/
def leafParty (s : State) (l : Nat) : Option Nat := (runningJob s l).map fun x => x.2.party

/-- The initiator's code, party and attribute (Tables 1.4 and 1.9). -/
def whoOf (s : State) (i : Initiator) : Who :=
  match i with
  | .leaf n => { code := n.val, party := leafParty s n.val, sec := leafSecure s n.val }
  | .core n p => { code := 0x1000 + n.val, party := some (pidx p), sec := bitOf s.world.clusters (n.val / 4) }
  | .safetyIsland n => { code := 0x2000 + n.val, party := none, sec := true }
  | .kettle => { code := 0x3000, party := some kettleParty, sec := true }
  | .pour => { code := 0x3000, party := some kettleParty, sec := true }
  | .isp n => ofParty (0x4000 + n.val) (tget s.cap.str n.val).owner
  | .codec n => ofParty (0x5000 + n.val) (tget s.media.ses n.val).owner
  | .display n => ofParty (0x6000 + n.val) (tget s.media.pipe n.val).owner
  | .fusion => ofParty 0x7000 s.cap.fus.owner
  | .crossing port w => ofParty (0x8000 + port.val) ((tget s.cross.win w.toNat).owner + 1)
  | .tsn n p => if n.val = 3 then { code := 0x9003, party := none, sec := true }
      else { code := 0x9000 + n.val, party := some (pidx p), sec := decide (pidx p = 16) }
  | .ioHost n => ofParty (0xA000 + n.val) (tget s.io.unit n.val).owner
  | .safetySpi => { code := Config.iniCode 0 % 0x10000, party := some 17, sec := false }
  | .taster => { code := Config.iniCode 1 % 0x10000, party := none, sec := true }

/-- PARTY of an event about an initiator's request: the party it acts for, or none (Table 17.5, assumption 106). -/
def Who.caddyParty (w : Who) : Nat := match w.party with | some p => if p < 18 then p else noParty | none => noParty

/-- The Kettle or its Pour engine. -/
def isKettle (i : Initiator) : Bool := match i with | .kettle => true | .pour => true | _ => false
/-- A leaf. -/
def isLeaf (i : Initiator) : Bool := match i with | .leaf _ => true | _ => false
/-- A core. -/
def isCore (i : Initiator) : Bool := match i with | .core _ _ => true | _ => false

/-! ### Target checks (Table 1.6) -/

/-- What a target answers to one address. -/
inductive Verdict where
  | accept
  /-- event 0x4001 -/
  | refused
  /-- event 0x2001 -/
  | unbacked
deriving DecidableEq, Repr

/-- Whether an address lies in a JOB_POOL range of any party. -/
def anyPool (s : State) (a : Nat) : Bool := (List.range 17).any fun p => inPool s p a

/-- A leaf pulls or reloads microcode packets: it is enabled, runs no job, and does not hold the microcode that the running
firmware or a UCODE_LOAD gives it (R31, R387, R390, assumption 120). -/
def pullsUcode (s : State) (l : Nat) : Bool :=
  let v := match s.firm.ucodeLoad with | some x => x.2.version | none => s.firm.ucode
  decide ((getLeaf s l).kind = .enabled) && (runningJob s l).isNone && decide ((getLeaf s l).ucode ≠ v)

/-- Reading or writing DRAM. The Kettle's range is open to the Kettle and Pour, and to reads of microcode packets. Writes in a JOB_POOL range come only from the leaves that run the
party's jobs, the Kettle and Pour (R215). -/
def dramCheck (s : State) (i : Initiator) (w : Who) (write : Bool) (a : Nat) : Verdict :=
  if a < 0x10000000 then
    if isKettle i || (isLeaf i && !write && pullsUcode s w.code) then .accept else .refused
  else if isKettle i then .accept
  else if granuleOf a < s.world.swm && !w.sec then .refused
  else if write && !isLeaf i && anyPool s a then .refused
  else if isCore i && w.sec then .accept
  else match w.party with
    | none => if w.sec && !isLeaf i then .accept else .refused
    | some p => if inGrant s p a 1 then .accept else .refused

/-- A scratchpad from outside (R103 step 1 for fenced leaves). -/
def spCheck (s : State) (i : Initiator) (w : Who) (l : Nat) : Verdict :=
  match (getLeaf s l).kind with
  | .fenced => .unbacked
  | .spare => if isKettle i then .accept else .unbacked
  | .fusedOff => if isKettle i then .accept else .unbacked
  | .enabled => if leafSecure s l && !w.sec then .refused else .accept

/-- The party of a doorbell page by its offset from the first page. -/
def pageParty (o : Nat) : Nat := o / 0x1000

/-- A doorbell page: its party's initiators and the Kettle; GS's page by attribute; GX's from the safety SPI port, or the
PCIe host port when GX is assigned to it. -/
def dblCheck (s : State) (i : Initiator) (w : Who) (p : Nat) : Verdict :=
  let ok := if isKettle i then true
    else if p = 16 then w.sec
    else if p = 17 then (match i with | .safetySpi => !s.boot.gxPcie | .crossing ⟨0, _⟩ _ => s.boot.gxPcie | _ => false)
    else decide (w.party = some p)
  if ok then .accept else .refused

/-- The window of a kind that covers a local address. -/
def outWindow (s : State) (a : Nat) : Option Nat :=
  ((List.range 64) ++ (List.range 64).map (· + 128)).find? fun id =>
    let w := tget s.cross.win id
    w.live && decide (w.loc ≤ a) && decide (a < w.loc + w.size)

/-- The target checks, for one address. -/
def target (s : State) (i : Initiator) (w : Who) (write : Bool) (a : Nat) : Verdict :=
  if a < 0x1000000000 then (if a < dramEnd s then dramCheck s i w write a else .unbacked)
  else if a < 0x1015000000 then spCheck s i w ((a - 0x1000000000) / 0x200000)
  else if a < 0x2000000000 then .unbacked
  else if a < 0x2000012000 then dblCheck s i w (pageParty (a - 0x2000000000))
  else if 0x2100000000 ≤ a ∧ a < 0x2101000000 then
    if isKettle i then .accept
    else match qOwner s ((a - 0x2100000000) / 64) with
      | some p => if w.party = some p then .accept else .refused
      | none => .refused
  else if 0x2200000000 ≤ a ∧ a < 0x2200200000 then
    if write then .refused
    else match w.party with
      | some p => if 16 ≤ p || (getParty s p).grant.caddyRead then .accept else .refused
      | none => .refused
  else if 0x2300000000 ≤ a ∧ a < 0x2300010000 then
    if write then .refused
    else match w.party with
      | some p => if seesAll p || (s.cross.win.any fun x => x.2.live && decide (x.2.owner = p)) then .accept else .refused
      | none => .refused
  else if 0x3000000000 ≤ a ∧ a < 0x8000000000 then
    match outWindow s a with
    | none => .unbacked
    | some id =>
      let x := tget s.cross.win id
      if w.party ≠ some x.owner then .refused
      else if write && bitOf x.flags 3 then .refused
      else .accept
  else .unbacked

/-- The first address of [a, a + n) that is refused, going line by line (R33); every region begins and ends on a 64-byte
boundary. A transaction that crosses from one outbound window into another is refused whole (R454). -/
def firstRefused (s : State) (i : Initiator) (w : Who) (write : Bool) (a n : Nat) : Option (Nat × Verdict) :=
  let pts := a :: ((List.range (n / 64 + 2)).map fun k => (a / 64 + 1 + k) * 64).filter fun x => decide (x < a + n)
  let one := pts.findSome? fun x => match target s i w write x with | .accept => none | v => some (x, v)
  match one with
  | some r => some r
  | none =>
    if 0x3000000000 ≤ a ∧ a < 0x8000000000 then
      (pts.find? fun x => decide (outWindow s x ≠ outWindow s a)).map fun x => (x, Verdict.refused)
    else none

/-! ### Refusals (R32) -/

/-- SOURCE of a refusal: the unit that detected it (R541). Behind a doorbell page stands the Kettle, and behind the windows
and the error log the bridge's port (assumption 106). -/
def detector (s : State) (a : Nat) : Nat :=
  if a < dramEnd s then srcMc (cgOf s a)
  else if 0x1000000000 ≤ a ∧ a < 0x1015000000 then (a - 0x1000000000) / 0x200000
  else if 0x2000000000 ≤ a ∧ a < 0x2000012000 then 0x3000
  else if 0x2100000000 ≤ a ∧ a < 0x2101000000 then srcSlice ((a - 0x2100000000) / 64 / 0x4000)
  else if 0x2200000000 ≤ a ∧ a < 0x2200200000 then srcCaddy
  else if 0x2300000000 ≤ a ∧ a < 0x2300010000 then 0x8000
  else if 0x3000000000 ≤ a ∧ a < 0x8000000000 then
    if a < 0x4000000000 then 0x8000 else 0x8001
  else Config.gapSource % 0x10000

/-- The event of a refused transaction of an initiator. -/
def refuseEvent (src : Nat) (w : Who) (write : Bool) (a : Nat) (v : Verdict) (s : State) : State :=
  refusal src (if v = .unbacked then 0x2001 else 0x4001) w.caddyParty w.code a w.sec write s

/-! ### DRAM: cache, error correction, watches -/

/-- Traffic class of a request (R345), with the range that counts it. -/
def classOf (s : State) (i : Initiator) (w : Who) (a : Nat) : TClass × Option Nat :=
  let rng := match w.party with | some p => if p < 17 then rangeOf s p a else none | none => none
  let capture : Bool := match i with | .isp _ => true | .display _ => true | .tsn n _ => decide (n.val = 1) | _ => false
  if capture then (.rt, rng)
  else if isKettle i && decide (a < 0x10000000) then (.maint, rng)
  else if isKettle i && (decide (s.jobs.recovery ≠ 0) || s.jobs.est.any fun e =>
      match e.2.job with | some j => decide (j.phase = .switching) | none => false) then (.lcCeil, rng)
  else match rng with
    | none => (.be, none)
    | some r =>
      let low := match i with
        | .leaf n => (match estOf s n.val with
          | some e => (getEst s e).desc.be || (match jobOf s e with | some j => j.lent | none => false)
          | none => true)
        | _ => false
      match (getRange s r).cls with
      | 1 => (if low then .be else .lc r, rng)
      | 3 => (.maint, rng)
      | _ => (.be, rng)

/-- The ways a request may allocate in (R341, R424). -/
def allocMask (s : State) (i : Initiator) (w : Who) (a : Nat) (c : TClass) (rng : Option Nat) : Nat :=
  let no := match rng with | some r => (getRange s r).noalloc | none => false
  if no || decide (c = .maint) then 0
  else if w.sec && !inGrant s 16 a 1 then 0
  else match i with
    | .leaf n => (match estOf s n.val with | some e => (getEst s e).desc.ways | none => 0)
    | _ => match w.party with
      | some p => if p < 17 then (getParty s p).memWays.getD (getParty s p).grant.ways else 0
      | none => 0

/-- The snoop filter notes a line that a core holds, evicting the oldest (R343). -/
def snoopAdd (line : Nat) (s : State) : State :=
  let c := cgOf s (line * 64)
  let l := (tget s.mem.snoop c).filter (fun x => decide (x ≠ line)) ++ [line]
  { s with mem := { s.mem with snoop := tput s.mem.snoop c (if 32768 < l.length then l.drop 1 else l) } }

/-- A write by another initiator invalidates the cores' copies of a line (R23). -/
def snoopDrop (line : Nat) (s : State) : State :=
  let c := cgOf s (line * 64)
  { s with mem := { s.mem with snoop := tput s.mem.snoop c ((tget s.mem.snoop c).filter fun x => decide (x ≠ line)) } }

/-- A correctable error is corrected and written back in class MAINT, and counted (R335). -/
def dramCorrected (line : Nat) (s : State) : State :=
  let c := cgOf s (line * 64)
  let s := { s with mem := { s.mem with lineErr := tput s.mem.lineErr line 0 } }
  let s := linkWrite line (strainerIn c .maint none 64 s)
  corrected line 0 (modCg s c fun x => { x with corr := x.corr.add 1 })

/-- An uncorrectable error (R336 to R338): event 0x2003; the line is left as it is. -/
def dramUncorrectable (w : Who) (line src : Nat) (s : State) : State :=
  let c := cgOf s (line * 64)
  let s := modCg s c fun x => { x with uncorr := x.uncorr.add 1 }
  event (srcMc c) 0x2003 w.caddyParty (leBytes 2 w.code ++ leBytes 6 (line * 64) ++ leBytes 1 src) s

/-- A lookup of a line before it is used: an SRAM error of the way that holds it is corrected, or invalidates the line; the
flag says that dirty data were lost (R342). -/
def cacheCheck (line : Nat) (s : State) : State × Bool :=
  match cacheWay s line with
  | none => (s, false)
  | some w =>
    let key := setKey s line * 16 + w
    let l := tget s.mem.cache key
    let c := cgOf s (line * 64)
    if l.err = 0 then (s, false)
    else if l.err = 1 then
      let s := putLine key { l with err := 0 } s
      ({ s with mem := { s.mem with sramCorr := tmod s.mem.sramCorr c fun x => x.add 1 } }, false)
    else
      let s := putLine key {} s
      let s := if l.dirty then memWrite s (line * 64) l.old else s
      (event (srcCache c) 0x2004 noParty (leBytes 1 c ++ leBytes 1 w ++ leBytes 2 (setKey s line % 4096) ++
        leBytes 1 (b2n l.dirty) ++ leBytes 6 (line * 64)) s, l.dirty)

/-- One line of a read: OK, or DATA_ERROR (R335, R336, R340 to R343). -/
def readLine (i : Initiator) (w : Who) (line : Nat) (s : State) : State × Bool :=
  let a := line * 64
  let c := cgOf s a
  let k := cacheCheck line s
  if k.2 then (k.1, false)
  else
    let s := if isCore i then snoopAdd line k.1 else k.1
    match cacheWay s line with
    | some way => (touchWay line way (modCg s c fun x => { x with hits := x.hits.add 1 }), true)
    | none =>
      let cl := classOf s i w a
      let s := strainerIn c cl.1 cl.2 64 (modCg s c fun x => { x with misses := x.misses.add 1 })
      let x := linkCross false line s
      let s := x.1
      if x.2 || decide (tget s.mem.lineErr line = 2) then (dramUncorrectable w line 0 s, false)
      else
        let s := if tget s.mem.lineErr line = 1 then dramCorrected line s else s
        let m := allocMask s i w a cl.1 cl.2
        (if m = 0 then s else allocLine line m false [] s, true)

/-- One line of a write of `n` bytes in it: OK, or DATA_ERROR (R337, R340 to R343). The bytes are written by the caller. -/
def writeLine (i : Initiator) (w : Who) (line n : Nat) (s : State) : State × Bool :=
  let a := line * 64
  let c := cgOf s a
  let k := cacheCheck line s
  if k.2 then (k.1, false)
  else
    let s := if isCore i then snoopAdd line k.1 else snoopDrop line k.1
    match cacheWay s line with
    | some way =>
      let key := setKey s line * 16 + way
      let l := tget s.mem.cache key
      let s := modCg s c fun x => { x with hits := x.hits.add 1 }
      (touchWay line way (putLine key (if l.dirty then l else { l with dirty := true, old := memRead s a 64 }) s), true)
    | none =>
      let cl := classOf s i w a
      let s := strainerIn c cl.1 cl.2 n (modCg s c fun x => { x with misses := x.misses.add 1 })
      let x := if n < 64 then linkCross false line s else (s, false)
      let s := x.1
      let e := tget s.mem.lineErr line
      if n < 64 ∧ (x.2 ∨ e = 2) then (dramUncorrectable w line 1 s, false)
      else
        let s := if e = 1 ∧ n < 64 then dramCorrected line s
          else { s with mem := { s.mem with lineErr := tput s.mem.lineErr line 0 } }
        let m := allocMask s i w a cl.1 cl.2
        (if m = 0 then linkWrite line s else allocLine line m true (memRead s a 64) s, true)

/-- The lines of [a, a + n), each with the bytes of the range that lie in it. -/
def linesOf (a n : Nat) : List (Nat × Nat) :=
  (List.range ((a + n - 1) / 64 + 1 - a / 64)).map fun k =>
    let l := a / 64 + k
    (l, min (a + n) (l * 64 + 64) - max a (l * 64))

/-! ### Answers -/

/-- How a transaction ends. -/
inductive Ended where
  /-- complete, with a status code and the bytes read -/
  | done (status : Nat) (data : List Byte)
  /-- sent through an outbound window: its completion comes with this tag (R458, R460) -/
  | sent (tag : Nat)
  /-- waits for a segment to be zeroed (R99) -/
  | waits
deriving DecidableEq, Repr

/-- DRAM, after the target accepted. -/
def dramAccess (i : Initiator) (w : Who) (write : Bool) (a n : Nat) (data : List Byte) (s : State) : State × Ended :=
  if write then
    let r := (linesOf a n).foldl (fun (x : State × Bool) l =>
      let y := writeLine i w l.1 l.2 x.1
      (y.1, x.2 && y.2)) (s, true)
    if r.2 then (fireWatches a n (memWrite r.1 a data), .done stOK []) else (r.1, .done stDATA_ERROR [])
  else
    let r := (linesOf a n).foldl (fun (x : State × Bool) l =>
      let y := readLine i w l.1 x.1
      (y.1, x.2 && y.2)) (s, true)
    if r.2 then (r.1, .done stOK (memRead r.1 a n)) else (r.1, .done stDATA_ERROR [])

/-- The transactions of a transfer: none crosses a 64-byte line (R79). -/
def lineParts (a n : Nat) : List (Nat × Nat) :=
  if n = 0 then []
  else (List.range ((a + n - 1) / 64 + 1 - a / 64)).map fun k =>
    let lo := max a ((a / 64 + k) * 64)
    (lo, min (a + n) ((a / 64 + k + 1) * 64) - lo)

/-- One access of up to 64 bytes to a scratchpad from outside its leaf, after the target accepted (R79, R93, R97 to R99). -/
def spOne (w : Who) (write : Bool) (l off n : Nat) (data : List Byte) (s : State) : State × Ended :=
  let g := segsOf s l off n
  if Seg.off ∈ g || (write && decide (Seg.refusing ∈ g)) then (bankOffEvent l w.code w.caddyParty off write s, .done stBANK_OFF [])
  else if Seg.zeroing ∈ g then (s, .waits)
  else if write then (spPut l off 0 data s, .done stOK [])
  else if (badWord s l off n).isSome then (s, .done stDATA_ERROR [])
  else (s, .done stOK (memRead s (spBase l + off) n))

/-- An access to scratchpads from outside. The Crossing's longer request is made of accesses that end at each 64-byte boundary
(R79): each has its own effect, and the first failure is the answer. -/
def spAccess (w : Who) (write : Bool) (a n : Nat) (data : List Byte) (s : State) : State × Ended :=
  let ps := lineParts a n
  let at_ := fun (p : Nat × Nat) => ((p.1 - 0x1000000000) / 0x200000, (p.1 - 0x1000000000) % 0x200000)
  if ps.any fun p => let g := segsOf s (at_ p).1 (at_ p).2 p.2; decide (Seg.zeroing ∈ g) && !decide (Seg.off ∈ g) then (s, .waits)
  else ps.foldl (fun (x : State × Ended) p =>
    let r := spOne w write (at_ p).1 (at_ p).2 p.2 ((data.drop (p.1 - a)).take p.2) x.1
    (r.1, match x.2, r.2 with
      | .done st d, .done st2 d2 => if st ≠ stOK then .done st d else if st2 ≠ stOK then .done st2 [] else .done stOK (d ++ d2)
      | e, _ => e)) (s, .done stOK [])

/-- A register access: a whole one is 8 bytes aligned to 8; any other reads 0 and writes nothing (R542). -/
def regAccess (write : Bool) (a n : Nat) (data : List Byte) (val : Nat → Nat) (rd : Nat → State → State)
    (wr : Bool → Nat → Nat → State → State) (base : Nat) (s : State) : State × Ended :=
  let whole := decide (n = 8 ∧ a % 8 = 0)
  let off := (a - base) / 8 * 8
  if write then (wr whole off (leNat data) s, .done stOK [])
  else if whole then (rd off s, .done stOK (leBytes 8 (val off)))
  else (s, .done stOK (leBytes n 0))

/-! ### Outbound windows (R457 to R460) -/

/-- The unit of a data-invariant window in bytes, 1 for an address-invariant one. -/
def laneUnit (w : Window) : Nat := match w.flags % 4 with | 1 => 4 | 2 => 8 | _ => 1

/-- Bytes as they stand on the other side of a window: each unit reversed (R457). -/
def lanes (u : Nat) : Nat → List Byte → List Byte
  | 0, _ => []
  | n + 1, bs => if bs.isEmpty then [] else (bs.take u).reverse ++ lanes u n (bs.drop u)

/-- Bytes through a window. -/
def throughLanes (w : Window) (bs : List Byte) : List Byte := if laneUnit w = 1 then bs else lanes (laneUnit w) bs.length bs

/-- Port of the ring that traffic to device `e` takes, or none when neither way is up (R467). -/
def peerRoute (s : State) (e : Nat) : Option Nat :=
  let n := s.cross.count
  let d := (e + n - s.cross.device % n) % n
  let up := fun (p : Nat) => (tget s.cross.port p).up && !(tget s.cross.port p).held
  let a := if d ≤ n / 2 then 1 else 2
  if up a then some a else if up (3 - a) then some (3 - a) else none

/-- The port an outbound window uses, or none when the route is down. -/
def routeOf (s : State) (id : Nat) : Option Nat :=
  if id < 128 then (if (tget s.cross.port 0).up && !(tget s.cross.port 0).l2 then some 0 else none)
  else peerRoute s (tget s.cross.win id).device

/-- PCIe address of a local address in a window. -/
def remoteOf (w : Window) (a : Nat) : Nat := w.remote + (a - w.loc)

/-- Sends the confirm read of a group (R458). -/
def sendConfirm (tag : Nat) (s : State) : State :=
  { s with cross := { s.cross with
    out := s.cross.out.map fun x => if x.tag = tag ∧ x.phase = .gather then { x with phase := .confirm, sentAt := s.ktime } else x
    sent := match s.cross.out.find? fun x => decide (x.tag = tag) with
      | some x => (remoteOf (tget s.cross.win x.win) x.last, [])
      | none => s.cross.sent } }

/-- Ends the groups of an initiator that `f` names (R458). -/
def endGroups (ini : Nat) (f : OutTx → Bool) (s : State) : State :=
  (s.cross.out.filter fun x => decide (x.ini = ini ∧ x.phase = .gather) && f x).foldl (fun s x => sendConfirm x.tag s) s

/-- An access to an outbound window that its target accepted. -/
def outAccess (w : Who) (write : Bool) (a n : Nat) (data : List Byte) (waiter : List Nat) (s : State) : State × Ended :=
  match outWindow s a with
  | none => (s, .done stDENIED [])
  | some id =>
    let x := tget s.cross.win id
    let u := laneUnit x
    if x.closing then (s, .done stWINDOW_CLOSED [])
    else if a % u ≠ 0 ∨ n % u ≠ 0 then
      (event 0x8000 0x5003 x.owner (leBytes 1 id ++ leBytes 1 0 ++ leBytes 6 a) s, .done stBAD_ARG [])
    else match routeOf s id with
      | none => (s, .done stNOT_READY [])
      | some _ =>
        if write then
          let s := endGroups w.code (fun g => decide (g.win ≠ id)) s
          let s := { s with cross := { s.cross with sent := (remoteOf x a, throughLanes x data) } }
          match s.cross.out.find? fun g => decide (g.ini = w.code ∧ g.win = id ∧ g.phase = .gather) with
          | some g =>
            let s := { s with cross := { s.cross with out := s.cross.out.map fun y => if y.tag = g.tag then
              { y with len := y.len + n, last := (a + n - 1) / 4 * 4, waits := y.waits ++ waiter } else y } }
            (if 4096 ≤ g.len + n then sendConfirm g.tag s else s, .sent g.tag)
          | none =>
            let g : OutTx := { tag := s.cross.tag, win := id, ini := w.code, addr := a, len := n, last := (a + n - 1) / 4 * 4,
                               sentAt := s.ktime, waits := waiter }
            let s := { s with cross := { s.cross with out := s.cross.out ++ [g], tag := s.cross.tag + 1 } }
            (if 4096 ≤ n then sendConfirm g.tag s else s, .sent g.tag)
        else
          let s := endGroups w.code (fun _ => true) s
          let g : OutTx := { tag := s.cross.tag, phase := .read, win := id, ini := w.code, addr := a, len := n, last := a,
                             sentAt := s.ktime, waits := waiter }
          ({ s with cross := { s.cross with out := s.cross.out ++ [g], tag := s.cross.tag + 1, sent := (remoteOf x a, []) } },
           .sent g.tag)

/-! ### A transaction -/

/-- Carries out a transaction of `n` bytes: the target checks, then the effect at the target. `waiter` names the leaf
engine that waits for an answer from beyond a window. -/
def access (i : Initiator) (write : Bool) (a n : Nat) (data : List Byte) (waiter : List Nat) (s : State) : State × Ended :=
  let w := whoOf s i
  let reader := if isKettle i then kettleParty else w.party.getD 19
  if s.boot.resetting.isSome && !isKettle i then (refuseEvent (detector s a) w write a .refused s, .done stDENIED [])
  else match fabricAt s i a with
    | some x => (fabricHit x s, .done stDATA_ERROR [])
    | none =>
      match firstRefused s i w write a n with
      | some (x, v) => (refuseEvent (detector s x) w write x v s, .done stDENIED [])
      | none =>
        if a < 0x1000000000 then dramAccess i w write a n data s
        else if a < 0x1015000000 then
          spAccess w write a n data s
        else if a < 0x2000012000 then
          let p := pageParty (a - 0x2000000000)
          regAccess write a n data (dblVal s p) (dblReadEffect p) (fun wh off v => dblWrite wh p off v) (0x2000000000 + p * 0x1000) s
        else if a < 0x2101000000 then
          let q := (a - 0x2100000000) / 64
          regAccess write a n data (qptVal s q) (qptReadEffect q) (fun wh off v => qptWrite wh q off v) (0x2100000000 + q * 64) s
        else if a < 0x2200200000 then
          let o := a - 0x2200000000
          if o % 32 + n ≤ 32 then (s, .done stOK (cadBytes s reader (o / 32) (o % 32) n))
          else (s, .done stOK (cadBytes s reader (o / 32) (o % 32) (32 - o % 32) ++ cadBytes s reader (o / 32 + 1) 0 (n - (32 - o % 32))))
        else if a < 0x2300010000 then
          regAccess write a n data (brgVal s reader) (brgReadEffect reader) (fun _ _ _ s => s) 0x2300000000 s
        else outAccess w write a n data waiter s

end Sys2Proof.Machine
end

