-- ==== Sys2Proof/Machine/ScalarMem.lean ====
section
/-! DEFINITION. Scalar loads and stores (R154 class 0x2, R78), loads outside the leaf (R65), and the Taster's signing of
what a thread writes to its job's output buffers (R400, R403). -/

namespace Sys2Proof.Machine

/-! ### Signatures (R402, R403) -/

/-- The argument buffer of kind 1 or 2 that holds an address: its index and its start. -/
def outBuffer (s : State) (j : Job) (a : Nat) : Option (Nat × Nat) :=
  let img := jobImg s j
  ((List.range j.args.length).find? fun i =>
    let e := j.args.getD i []
    (tBuffer img i 0 1 == 1 || tBuffer img i 0 1 == 2) && decide (field e 0 6 ≤ a) && decide (a < field e 0 6 + field e 8 4)).map
    fun i => (i, field (j.args.getD i []) 0 6)

/-- Folds a transfer into a thread's signature: an 8-byte head, then its data (R403). -/
def sign (k buffer off : Nat) (bs : List Byte) (s : State) : State :=
  modTh s k fun t => { t with sig := crc64 t.sig (leBytes 2 buffer ++ leBytes 4 off ++ leBytes 2 bs.length ++ bs) }

/-- A write that a thread sends outside its leaf: signed where it falls in an output buffer; the flag says that it is
dropped, as copy B's are (R400, R403). -/
def signWrite (k a : Nat) (bs : List Byte) (s : State) : State × Bool :=
  match runningJob s (k / 64) with
  | none => (s, false)
  | some (_, j) => match outBuffer s j a with
    | none => (s, false)
    | some (i, base) => (sign k i (a - base) bs s, decide (j.copy = 2))

/-! ### The own scratchpad -/

/-- Own-scratchpad offset s[rs1] + imm12, modulo 2³². -/
def spAddr (s : State) (k : Nat) (rs1 : BitVec 5) (imm : BitVec 12) : Chk Nat :=
  (sreg s k rs1).map fun a => (a + imm.signExtend 32).toNat

/-- A narrow load of `n` bytes (R78): alignment, then range. -/
def loadN (n : Nat) (rs1 : BitVec 5) (imm : BitVec 12) (k : Nat) (s : State) : Chk (List Byte) :=
  match spAddr s k rs1 imm with
  | .error e => .error e
  | .ok a => if a % n ≠ 0 then .error (.fault 5) else spRead s (k / 64) a n 0

/-- A narrow load into one register, extended by `f`. -/
def loadTo (n : Nat) (f : Nat → Word) (rd rs1 : BitVec 5) (imm : BitVec 12) (k : Nat) (s : State) : Chk State :=
  (loadN n rs1 imm k s).map fun bs => setReg k rd (f (leNat bs)) s

/-- A narrow store of `n` bytes. -/
def storeN (n : Nat) (bs : List Byte) (rs1 : BitVec 5) (imm : BitVec 12) (k : Nat) (s : State) : Chk State :=
  match spAddr s k rs1 imm with
  | .error e => .error e
  | .ok a => if a % n ≠ 0 then .error (.fault 5) else spWrite (k / 64) a 0 bs s

/-- A narrow store from one register. -/
def storeFrom (n : Nat) (rd rs1 : BitVec 5) (imm : BitVec 12) (k : Nat) (s : State) : Chk State :=
  match sreg s k rd with
  | .error e => .error e
  | .ok v => storeN n (leBytes n v.toNat) rs1 imm k s

/-- LB: a sign-extended byte. -/
def execLb (w : Thr) (rd rs1 : BitVec 5) (imm : BitVec 12) (s : State) : Res :=
  .next (issueNext w (loadTo 1 (fun v => BitVec.ofInt 32 (signedOf 8 v)) rd rs1 imm) s)
/-- LBU: a zero-extended byte. -/
def execLbu (w : Thr) (rd rs1 : BitVec 5) (imm : BitVec 12) (s : State) : Res :=
  .next (issueNext w (loadTo 1 (fun v => BitVec.ofNat 32 v) rd rs1 imm) s)
/-- LH: a sign-extended halfword. -/
def execLh (w : Thr) (rd rs1 : BitVec 5) (imm : BitVec 12) (s : State) : Res :=
  .next (issueNext w (loadTo 2 (fun v => BitVec.ofInt 32 (signedOf 16 v)) rd rs1 imm) s)
/-- LHU: a zero-extended halfword. -/
def execLhu (w : Thr) (rd rs1 : BitVec 5) (imm : BitVec 12) (s : State) : Res :=
  .next (issueNext w (loadTo 2 (fun v => BitVec.ofNat 32 v) rd rs1 imm) s)
/-- LW: a word. -/
def execLw (w : Thr) (rd rs1 : BitVec 5) (imm : BitVec 12) (s : State) : Res :=
  .next (issueNext w (loadTo 4 (fun v => BitVec.ofNat 32 v) rd rs1 imm) s)
/-- LD: 8 bytes into the pair rd, rd + 1; an odd rd is a reserved encoding. -/
def execLd (w : Thr) (rd rs1 : BitVec 5) (imm : BitVec 12) (s : State) : Res :=
  .next (issueNext w (fun k s =>
    if !evenReg rd then .error (.fault 3)
    else (loadN 8 rs1 imm k s).map fun bs =>
      setReg k (rd + 1) (BitVec.ofNat 32 (field bs 4 4)) (setReg k rd (BitVec.ofNat 32 (field bs 0 4)) s)) s)
/-- SB: a byte. -/
def execSb (w : Thr) (rd rs1 : BitVec 5) (imm : BitVec 12) (s : State) : Res := .next (issueNext w (storeFrom 1 rd rs1 imm) s)
/-- SH: a halfword. -/
def execSh (w : Thr) (rd rs1 : BitVec 5) (imm : BitVec 12) (s : State) : Res := .next (issueNext w (storeFrom 2 rd rs1 imm) s)
/-- SW: a word. -/
def execSw (w : Thr) (rd rs1 : BitVec 5) (imm : BitVec 12) (s : State) : Res := .next (issueNext w (storeFrom 4 rd rs1 imm) s)
/-- SD: the pair rd, rd + 1; an odd rd is a reserved encoding. -/
def execSd (w : Thr) (rd rs1 : BitVec 5) (imm : BitVec 12) (s : State) : Res :=
  .next (issueNext w (fun k s =>
    if !evenReg rd then .error (.fault 3)
    else match sreg s k rd, sreg s k (rd + 1) with
      | .ok a, .ok b => storeN 8 (leBytes 4 a.toNat ++ leBytes 4 b.toNat) rs1 imm k s
      | .error e, _ => .error e
      | _, .error e => .error e) s)

/-! ### Any physical address -/

/-- The physical address s[rs1+1][15:0] : s[rs1] + imm12, modulo 2⁴⁸; an odd rs1 is a reserved encoding (R154). -/
def physAddr (s : State) (k : Nat) (rs1 : BitVec 5) (imm : BitVec 12) : Chk Nat :=
  if !evenReg rs1 then .error (.fault 3)
  else match sreg s k rs1, sreg s k (rs1 + 1) with
    | .ok lo, .ok hi =>
      let a := (((hi.toNat % 2 ^ 16 * 2 ^ 32 + lo.toNat : Nat) : Int) + imm.toInt) % (2 ^ 48 : Int)
      if a.toNat % 4 ≠ 0 then .error (.fault 5) else .ok a.toNat
    | .error e, _ => .error e
    | _, .error e => .error e

/-- Whether an address lies in an outbound window's region. -/
def isOutside (a : Nat) : Bool := decide (0x3000000000 ≤ a) && decide (a < 0x8000000000)

/-- The initiator of a leaf. -/
def leafIni (l : Nat) : Initiator := .leaf (Fin.ofNat 168 l)

/-- A line joins the leaf's texture cache of 256 lines; a full cache gives one up (R100). -/
def texInsert (l line : Nat) (bs : List Byte) (s : State) : State :=
  modLeaf s l fun x =>
    let c := if 256 ≤ x.tex.length then x.tex.eraseIdx (Config.texVictim (x.tex.map (·.1)) % x.tex.length) else x.tex
    { x with tex := c ++ [(line, bs)] }

/-- A load's answer arrives at its thread: the word, or a status that ends the job (R65, R84 and Table 1.7). -/
def loadAnswer (k : Nat) (e : Ended) (s : State) : State :=
  match (getTh s k).load with
  | none => s
  | some p =>
    match e with
    | .done st data =>
      let s := modTh s k fun t => { t with load := none }
      if p.tex ∧ st = stOK then progress (k / 64) (texInsert (k / 64) (p.addr / 64) data s)
      else if st = stOK then progress (k / 64) (setReg k (BitVec.ofNat 5 p.rd) (BitVec.ofNat 32 (leNat data)) s)
      else abortOn (k / 64) st s
    | .sent tag => modTh s k fun t => { t with load := some { p with pcie := tag + 1 } }
    | .waits => s

/-- LWX: the load goes out, and the thread is not ready until it returns (R65). A read through an outbound window leaves
the part at once. -/
def execLwx (w : Thr) (rd rs1 : BitVec 5) (imm : BitVec 12) (s : State) : Res :=
  let k := thrKey w
  let t := issueNext w (fun k s => (physAddr s k rs1 imm).map fun a =>
    modTh s k fun t => { t with load := some { rd := rd.toNat, addr := a } }) s
  match (getTh s k).load, (getTh t k).load with
  | none, some p =>
    if isOutside p.addr then
      let r := access (leafIni (k / 64)) false p.addr 4 [] [65536 + k] t
      .next (loadAnswer k r.2 r.1)
    else .next t
  | _, _ => .next t

/-- LOAD_RETURN (R65): the load of a thread returns its data or its error. A load that waits for a PCIe completion returns
with it. A parity error in the leaf's own scratchpad is one of the thread (R91). -/
def execLoadReturn (w : Thr) (s : State) : Res :=
  let k := thrKey w
  match (getTh s k).load with
  | none => .next s
  | some p =>
    if p.pcie ≠ 0 then .next s
    else if spLeaf p.addr = some (k / 64) ∧ (getLeaf s (k / 64)).kind = .enabled then
      match spRead s (k / 64) (p.addr - spBase (k / 64)) 4 0 with
      | .ok bs => .next (loadAnswer k (.done stOK bs) s)
      | .error .wait => .next s
      | .error e => .next (stopTh k e (modTh s k fun t => { t with load := none }))
    else
      let r := access (leafIni (k / 64)) false p.addr 4 [] [] s
      .next (loadAnswer k r.2 r.1)

/-- SWX: the word is stored at a physical address, and signed where it falls in an output buffer (R154, R403). A refused
or failed store ends the job with its status. -/
def execSwx (w : Thr) (rd rs1 : BitVec 5) (imm : BitVec 12) (s : State) : Res :=
  let k := thrKey w
  let l := k / 64
  if !ready s k then .next s
  else match (fetchChk s k).bind (fun _ => (physAddr s k rs1 imm).bind fun a => (sreg s k rd).map fun v => (a, v)) with
    | .error e => .next (stopTh k e s)
    | .ok (a, v) =>
      let bs := leBytes 4 v.toNat
      let g := signWrite k a bs s
      if g.2 then .next (issued k (adv k g.1))
      else
        let r := access (leafIni l) true a 4 bs [65536 + k] g.1
        match r.2 with
        | .waits => .next s
        | .done st _ => if st = stOK then .next (issued k (adv k r.1)) else .next (abortOn l st (issued k r.1))
        | .sent _ => .next (issued k (adv k r.1))

end Sys2Proof.Machine
end

