-- ==== Sys2Proof/Machine/Dma.lean ====
section
/-! DEFINITION. The DMA engine (R67, R81 to R84, R90, R400, R403). -/

namespace Sys2Proof.Machine

/-! ### Descriptor fields (Table 3.4) -/

def dSrc (d : List Byte) : Nat := field d 0 6
def dOp (d : List Byte) : Nat := field d 6 2 % 16
def dTok (d : List Byte) : Nat := bitsOf (field d 6 2) 7 4
def dNolog (d : List Byte) : Bool := bitOf (field d 6 2) 8
def dDst (d : List Byte) : Nat := field d 8 6
def dRowBytes (d : List Byte) : Nat := field d 16 2
def dRows (d : List Byte) : Nat := field d 18 2
def dSrcStride (d : List Byte) : Int := signedOf 32 (field d 20 4)
def dDstStride (d : List Byte) : Int := signedOf 32 (field d 24 4)
def dFill (d : List Byte) : Nat := field d 28 4

/-- An address plus a signed distance, modulo 2⁴⁸. -/
def addr48 (a : Nat) (d : Int) : Nat := (((a : Int) + d) % (2 ^ 48 : Int)).toNat

/-- Whether an address lies in a leaf's own scratchpad. -/
def ownSp (l a : Nat) : Bool := decide (spLeaf a = some l)

/-- Whether every row of a side that starts in the own scratchpad stays in it. -/
def rowsIn (l a : Nat) (rows : Nat) (stride : Int) (bytes : Nat) : Bool :=
  let o : Int := (a : Int) - (spBase l : Int)
  let last : Int := o + ((rows : Int) - 1) * stride
  decide (0 ≤ min o last) && decide (max o last + (bytes : Int) ≤ (spBytes : Int))

/-- The form of a TRANSPOSE (R82). -/
def transposeOk (l : Nat) (d : List Byte) : Bool :=
  ownSp l (dDst d) && decide (dDst d % 4 = 0) && decide (dRowBytes d % 4 = 0) && decide (dRowBytes d ≤ 256) &&
  decide (dRows d ≤ 64) && decide (dDstStride d % 256 = 0) && decide (dDst d / 4 % 64 + dRows d ≤ 64)

/-- The checks at issue: kind 4 for the descriptor (R82), kind 2 for a range past the own scratchpad (R69). A field that
Table 3.4 gives as 0 for the operation is checked, and a range may leave the scratchpad at either end (DESIGN CHOICE,
assumptions 112 and 113). -/
def dmaChk (l : Nat) (d : List Byte) : Chk Unit :=
  let op := dOp d
  if 2 < op || 512 ≤ field d 6 2 || field d 14 2 ≠ 0 || dRowBytes d = 0 || dRows d = 0 || (op = 1 && dSrc d ≠ 0) ||
    (op ≠ 1 && dFill d ≠ 0) || (if op = 1 then !ownSp l (dDst d) else !ownSp l (dSrc d) && !ownSp l (dDst d)) ||
    (op = 2 && !transposeOk l d) then .error (.fault 4)
  else
    let src := op = 1 || !ownSp l (dSrc d) || rowsIn l (dSrc d) (dRows d) (dSrcStride d) (dRowBytes d)
    let dst := !ownSp l (dDst d) || (if op = 2 then rowsIn l (dDst d / 256 * 256) (dRowBytes d / 4) (dDstStride d) 256
      else rowsIn l (dDst d) (dRows d) (dDstStride d) (dRowBytes d))
    if src && dst then .ok () else .error (.fault 2)

/-- Notes a logged transfer: its log entry is reused, so the lines it had filled stop being reloadable (R90). Answers the
tag that lines filled by the transfer take, 0 where it is not logged. -/
def logDma (l : Nat) (d : List Byte) (s : State) : State × Nat :=
  if dNolog d || dOp d = 1 || !ownSp l (dDst d) || dramEnd s ≤ dSrc d then (s, 0)
  else
    let n := (getLeaf s l).rnext
    let s := { s with lv := { s.lv with lineTag := s.lv.lineTag.filter fun x =>
      !(decide (l * 8192 ≤ x.1) && decide (x.1 < (l + 1) * 8192) && decide (x.2 = n + 1))
                                        badLog := tput s.lv.badLog (l * 64 + n) 0 } }
    (modLeaf s l fun x => { x with rlog := tput x.rlog n d, rnext := (n + 1) % 64 }, n + 1)

/-- DMA: the descriptor is read and checked, and takes one of the 16 slots (R67, R81). -/
def execDma (w : Thr) (rs1 : BitVec 5) (s : State) : Res :=
  .next (issueNext w (fun k s =>
    let l := k / 64
    (blockAt rs1 32 k s).bind fun d => (dmaChk l d).bind fun _ =>
      match (List.range 16).find? fun i => !((getLeaf s l).dma.any fun o => decide (o.slot = i)) with
      | none => .error .wait
      | some slot =>
        if !tokFree s k (dTok d) then .error .wait
        else
          let r := logDma l d s
          .ok (tokInc k (dTok d) (modLeaf r.1 l fun x =>
            { x with dma := x.dma ++ [{ slot := slot, thread := k % 64, desc := d, tag := r.2 }] }))) s)

/-! ### Pieces (R83, R84) -/

/-- Source address of row `r`, and destination address of row `r`. -/
def srcRow (d : List Byte) (r : Nat) : Nat := addr48 (dSrc d) ((r : Int) * dSrcStride d)
def dstRow (d : List Byte) (r : Nat) : Nat := addr48 (dDst d) ((r : Int) * dDstStride d)

/-- Bytes of the next piece: up to the next 64-byte boundary of the destination, a whole row for a TRANSPOSE. -/
def pieceLen (o : DmaOp) : Nat :=
  if dOp o.desc = 2 then dRowBytes o.desc
  else min (dRowBytes o.desc - o.done) (64 - addr48 (dstRow o.desc o.row) o.done % 64)

/-- FILL's bytes at destination `a`: byte (a mod 4) of the pattern at each address (R82). -/
def fillBytes (d : List Byte) (a n : Nat) : List Byte := (List.range n).map fun i => BitVec.ofNat 8 (dFill d / 256 ^ ((a + i) % 4))

/-- Key under which an outbound transaction names a descriptor. -/
def dmaKey (l slot : Nat) : Nat := l * 16 + slot

/-- Changes the descriptor in a slot. -/
def modDma (l slot : Nat) (f : DmaOp → DmaOp) (s : State) : State :=
  modLeaf s l fun x => { x with dma := x.dma.map fun o => if o.slot = slot then f o else o }
/-- Drops the descriptor in a slot. -/
def dropDma (l slot : Nat) (s : State) : State := modLeaf s l fun x => { x with dma := x.dma.filter fun o => decide (o.slot ≠ slot) }

/-- A descriptor may move a piece: it has started, or every descriptor issued before it on the leaf has (R68, R83). -/
def mayStart (s : State) (l : Nat) (o : DmaOp) : Bool :=
  o.started || ((getLeaf s l).dma.takeWhile fun x => decide (x.slot ≠ o.slot)).all (·.started)

/-- A descriptor that has moved every row and waits for nothing completes: its token decrements (R84). -/
def dmaDone (l slot : Nat) (s : State) : State :=
  match (getLeaf s l).dma.find? fun o => decide (o.slot = slot) with
  | none => s
  | some o =>
    if o.row < dRows o.desc || s.cross.out.any (fun t => t.waits.contains (dmaKey l slot)) then s
    else tokDec (l * 64 + o.thread) (dTok o.desc) (dropDma l slot s)

/-- A piece has landed: the descriptor goes on to the next one. -/
def dmaNext (l : Nat) (o : DmaOp) (s : State) : State :=
  let d := o.done + pieceLen o
  let s := modDma l o.slot (fun x => if dOp o.desc = 2 ∨ dRowBytes o.desc ≤ d then { x with row := x.row + 1, done := 0, pcie := 0 }
    else { x with done := d, pcie := 0 }) s
  dmaDone l o.slot (progress l s)

/-- A piece fails: the descriptor stops, and the job ends ABORTED with the status (R84). -/
def dmaFail (l st : Nat) (s : State) : State := abortOn l st s

/-- The words of a TRANSPOSE row: word c of row r goes to word (DST[7:2] + r) of line DST line + c × DST_STRIDE / 256. -/
def transposeRow (l : Nat) (o : DmaOp) (bs : List Byte) (s : State) : Chk State :=
  let d := o.desc
  (List.range (dRowBytes d / 4)).foldl (fun (r : Chk State) (c : Nat) => r.bind fun s =>
    let a := addr48 (dDst d) (Int.ofNat c * dDstStride d) + 4 * o.row
    spWrite l (a - spBase l) o.tag ((bs.drop (4 * c)).take 4) s) (.ok s)

/-- Writes a piece whose bytes are read. -/
def dmaLand (l : Nat) (o : DmaOp) (bs : List Byte) (s : State) : State :=
  let k := l * 64 + o.thread
  let d := o.desc
  let a := addr48 (dstRow d o.row) o.done
  if dOp d = 2 then
    match transposeRow l o bs s with
    | .ok t => dmaNext l o t
    | .error .wait => s
    | .error e => engStop k (dTok d) e (dropDma l o.slot s)
  else if ownSp l a then
    match spWrite l (a - spBase l) o.tag bs s with
    | .ok t => dmaNext l o t
    | .error .wait => s
    | .error e => engStop k (dTok d) e (dropDma l o.slot s)
  else
    let g := signWrite k a bs s
    if g.2 then dmaNext l o g.1
    else
      let r := access (leafIni l) true a bs.length bs [dmaKey l o.slot] g.1
      match r.2 with
      | .waits => s
      | .sent _ => dmaNext l o r.1
      | .done st _ => if st = stOK then dmaNext l o r.1 else dmaFail l st r.1

/-- DMA_PIECE_COMPLETE (R83, R84): the next piece of a descriptor is read, then written. One that waits for a PCIe read
goes on with its completion. -/
def execDmaPieceComplete (leaf : Fin 168) (slot : Fin 16) (s : State) : Res :=
  let l := leaf.val
  .next (match (getLeaf s l).dma.find? fun o => decide (o.slot = slot.val) with
    | none => s
    | some o =>
      let k := l * 64 + o.thread
      let d := o.desc
      if !engOn s l || o.pcie ≠ 0 || dRows d ≤ o.row || !mayStart s l o then s
      else
        let s := modDma l o.slot (fun x => { x with started := true }) s
        let n := pieceLen o
        let a := addr48 (srcRow d o.row) o.done
        if dOp d = 1 then dmaLand l o (fillBytes d (addr48 (dstRow d o.row) o.done) n) s
        else if ownSp l a then
          match spRead s l (a - spBase l) n 0 with
          | .ok bs => dmaLand l o bs s
          | .error .wait => s
          | .error e => engStop k (dTok d) e (dropDma l o.slot s)
        else
          let r := access (leafIni l) false a n [] [dmaKey l o.slot] s
          match r.2 with
          | .waits => s
          | .sent tag => modDma l o.slot (fun x => { x with pcie := tag + 1 }) r.1
          | .done st bs => if st = stOK then dmaLand l o bs r.1 else dmaFail l st r.1)

/-! ### Outstanding writes of a segment (R97) -/

/-- Whether [lo, lo + n) of a leaf's scratchpad, as offsets, touches segment `g`. -/
def inSeg (g lo n : Nat) : Bool := decide (lo < (g + 1) * 0x40000) && decide (g * 0x40000 < lo + n)

/-- Whether a queued drain has a line to write in segment `g`. -/
def drainWrites (op : EngOp) (g : Nat) : Bool :=
  let b := op.blk
  (List.range 32).any (fun m => inSeg g ((field b 0 2 + m * field b 2 2) * 256) 256) ||
    (fmtMx (field b 4 1) && inSeg g (field b 8 2 * 256) 64)

/-- Whether a descriptor has a row to write in segment `g` of leaf `l`. -/
def dmaWrites (l : Nat) (o : DmaOp) (g : Nat) : Bool :=
  let d := o.desc
  ownSp l (dDst d) &&
    (if dOp d = 2 then (List.range (dRowBytes d / 4)).any fun c => inSeg g (addr48 (dDst d) (Int.ofNat c * dDstStride d) - spBase l) 256
     else (List.range (dRows d - o.row)).any fun r => inSeg g (dstRow d (o.row + r) - spBase l) (dRowBytes d))

/-- The outstanding-write counter of a segment: drains and descriptors that the leaf's engines have accepted for it and have
not yet written. A write from outside lands in the command that brings it, so none of those is outstanding (R97). -/
def segWrites (s : State) (l g : Nat) : Nat :=
  ((getLeaf s l).drain.filter fun op => drainWrites op g).length + ((getLeaf s l).dma.filter fun o => dmaWrites l o g).length

end Sys2Proof.Machine
end

