-- ==== Sys2Proof/Machine/Station.lean ====
section
/-! DEFINITION. Queue and synchronisation instructions, the end of a job by its threads, the Taster's comparison, and
step replay (R88 to R92, R138, R147 to R149, R154, R156, R165, R398 to R407). -/

namespace Sys2Proof.Machine

/-! ### A job's threads -/

/-- Keys of the threads of a job. -/
def jobThreads (s : State) (j : Job) : List Nat :=
  let img := jobImg s j
  j.insts.flatMap fun x => (List.range (sThreads img x.station)).map fun i => x.leaf * 64 + x.first + i

/-- Every thread of the job on estate `e` has halted. -/
def allHalted (s : State) (e : Nat) : Bool :=
  match jobOf s e with
  | none => true
  | some j => (jobThreads s j).all fun k => decide ((getTh s k).mode = .halted)

/-- The job of estate `e` ends OK once all its threads, of both copies for a dual job, have halted (R165, R405). -/
def jobEndCheck (e : Nat) (s : State) : State :=
  match jobOf s e with
  | none => s
  | some j =>
    if j.phase = .running && (jobEsts e j).all (allHalted s) then settle (endJob e stOK 0 s) else s

/-- A thread halts. -/
def haltThread (k : Nat) (s : State) : State :=
  let s := modTh s k fun t => { t with mode := .halted }
  match estOf s (k / 64) with
  | some e => jobEndCheck e s
  | none => s

/-! ### The Taster (R404 to R407) -/

/-- Begins a localisation (R407): both copies stop, held pushes are discarded, and it is a recovery in flight. Behind
another recovery it is held (R240). `trigger` is 0 for a mismatch and 1 for a pair-window miss. -/
def beginLocalise (p trigger : Nat) (s : State) : State :=
  match jobOf s p with
  | none => s
  | some j =>
    let es := jobEsts p j
    let stop := fun (s : State) (e : Nat) =>
      let s := match jobOf s e with
        | some x => (jobThreads s x).foldl (fun s k => modTh s k fun t => { t with heldPush := none, mode := if t.mode = .taster then .halted else t.mode }) s
        | none => s
      modJob s e fun x => { x with phase := .stopped }
    let s := es.foldl stop s
    let s := { s with jobs := { s.jobs with reports := s.jobs.reports.filter fun r => decide (r.primary ≠ p)
                                            localise := s.jobs.localise ++ [(p, trigger)] } }
    if s.jobs.recovery = 0 then
      es.foldl (fun s e => modEst s e fun x => { x with recovering := true }) { s with jobs := { s.jobs with recovery := p + 1, recAt := s.ktime } }
    else if es.any fun e => (getEst s e).recovering then twoFault ((estates s).filter fun x => (getEst s x).recovering || es.contains x) srcTaster s
    else
      let s := { s with jobs := { s.jobs with heldQ := s.jobs.heldQ ++ [p] } }
      es.foldl (fun s e => event srcAfzan 0xA045 (getEst s e).party (leBytes 1 e ++ leBytes 1 (s.jobs.recovery - 1) ++ leBytes 2 srcTaster)
        (modEst s e fun x => { x with held := true, faultAt := s.ktime })) s

/-- Arguments of events 0x3002: the pair, then the key. -/
def keyArgs (r : TstReport) : List Byte := leBytes 1 r.station ++ leBytes 2 r.inst ++ leBytes 1 r.thread ++ leBytes 4 r.ckpt

/-- A checkpointed thread goes on after an equal comparison: copy B's push is discarded; copy A's is accepted, or is
pushed when the queue has room; a halt takes effect (R405). -/
def releaseTaster (k copy : Nat) (s : State) : State :=
  let t := getTh s k
  match t.heldPush with
  | none => haltThread k (modTh s k fun t => { t with mode := .running })
  | some (q, bs) =>
    if copy = 2 then checkpoint k (adv k (modTh s k fun t => { t with mode := .running, heldPush := none }))
    else if canPush s q then
      checkpoint k (adv k (pushEntry q bs (modTh s k fun t => { t with mode := .running, heldPush := none })))
    else modTh s k fun t => { t with mode := .running }

/-- A thread reaches a checkpoint: its report is held, or compared with its twin's (R404, R405). -/
def tasterReport (e : Nat) (j : Job) (k : Nat) (s : State) : State :=
  let s := modTh s k fun t => { t with ckpt := t.ckpt + 1, mode := .taster }
  let t := getTh s k
  let p := if j.copy = 1 then e else j.twin
  let r : TstReport := { primary := p, copy := j.copy, station := t.station, inst := t.inst, thread := t.tnum, ckpt := t.ckpt,
                         sig := t.sig, key := k, at_ := s.ktime }
  match s.jobs.reports.find? fun x => decide (x.primary = p ∧ x.copy ≠ j.copy ∧ x.station = r.station ∧ x.inst = r.inst ∧
      x.thread = r.thread ∧ x.ckpt = r.ckpt) with
  | none => { s with jobs := { s.jobs with reports := s.jobs.reports ++ [r] } }
  | some x =>
    let s := { s with jobs := { s.jobs with reports := s.jobs.reports.filter fun y => decide (y ≠ x) } }
    if x.sig = r.sig then
      let ka := if j.copy = 1 then k else x.key
      let kb := if j.copy = 1 then x.key else k
      releaseTaster kb 2 (releaseTaster ka 1 s)
    else
      let partner := if j.copy = 1 then j.twin else e
      let s := { s with jobs := { s.jobs with mismatches := s.jobs.mismatches.add 1 } }
      beginLocalise p 0 (event srcTaster 0x3002 j.party (leBytes 1 p ++ leBytes 1 partner ++ keyArgs r) s)

/-- PAIR_WINDOW_MISS (R406): the oldest report of the pair whose twin has not come within WINDOW_US; MISMATCHES counts it
(Table 13.9). -/
def execPairWindowMiss (e : Fin 16) (s : State) : Res :=
  .next (match pairOf s e.val with
    | none => s
    | some p =>
      match s.jobs.reports.find? fun r => decide (r.primary = p.primary ∧ r.at_ + p.window * 100 ≤ s.ktime) with
      | none => s
      | some r =>
        let s := { s with jobs := { s.jobs with mismatches := s.jobs.mismatches.add 1 } }
        beginLocalise p.primary 1 (event srcTaster 0x3003 (getEst s p.primary).party
          (leBytes 1 p.primary ++ leBytes 1 (r.copy - 1) ++ keyArgs r) s))

/-! ### Queue instructions (R156) -/

/-- The hardware queue of local number (qn + s[rs2]) mod 256 in the map of the thread's instance; an entry that holds none is
a reserved encoding. -/
def localQ (k : Nat) (rs2 : BitVec 5) (qn : BitVec 8) (s : State) : Chk Nat :=
  (sreg s k rs2).bind fun a =>
    let m := tget (getLeaf s (k / 64)).qmap ((k % 64 - (getTh s k).tnum) * 256 + (qn.toNat + a.toNat) % 256)
    if m = 0 then .error (.fault 3)
    else match sliceAt s (k / 64) (m - 1) with
      | some x => .error (.fabric x.1 x.2.1 x.2.2)
      | none => .ok (m - 1)

/-- The external-queue buffer of the job through which a thread's station pushes to queue `q`. -/
def extBuffer (s : State) (j : Job) (station q : Nat) : Option Nat :=
  let img := jobImg s j
  (List.range j.args.length).find? fun i =>
    tBuffer img i 0 1 == 3 && tBuffer img i 8 1 == station && decide (field (j.args.getD i []) 0 6 % 2 ^ 18 = q)

/-- Whether the thread is at a producer end of the queue: a RECORD queue's station, or a TILE queue's one thread (R138). -/
def isProducer (s : State) (k q : Nat) : Bool :=
  let x := getQ s q
  let t := getTh s k
  decide (x.prod = 0) &&
    (if x.owner = 0 then (match runningJob s (k / 64) with | some (_, j) => (extBuffer s j t.station q).isSome | none => false)
     else decide (x.pStation = t.station) && (!x.isTile || x.pThread = 0 || x.pThread = k + 1))

/-- Whether the thread is at a consumer end of the queue. -/
def isConsumer (s : State) (k q : Nat) : Bool :=
  let x := getQ s q
  let t := getTh s k
  decide (x.cons = 0) && decide (x.owner ≠ 0) && decide (x.cStation = t.station) && decide (x.cInst = t.inst) &&
    (!x.isTile || x.cThread = 0 || x.cThread = k + 1)

/-- Ends a step at the next instruction (R88). -/
def endStep (k : Nat) (s : State) : State := checkpoint k (adv k s)

/-- QPUSH (R147, R149, R156): the entry at s[rs1] is pushed and the step ends. In a dual job a push to an external queue
is a checkpoint (R404). The one thread of an internal TILE end (R138) is the first that pushes, as popTo's is the first that
pops (DESIGN CHOICE, assumption 133). -/
def execQpush (w : Thr) (rs1 rs2 : BitVec 5) (qn : BitVec 8) (s : State) : Res :=
  .next (issue w (fun k s =>
    (localQ k rs2 qn s).bind fun q => (sreg s k rs1).bind fun a =>
      let x := getQ s q
      if !isProducer s k q then .error (.fault 3)
      else if a.toNat % x.esz ≠ 0 then .error (.fault 5)
      else (spRead s (k / 64) a.toNat x.esz 0).bind fun bs =>
        if !idleTh s k then .error .wait
        else
          let t := getTh s k
          let ext := match runningJob s (k / 64) with
            | some (e, j) => if x.owner = 0 then (extBuffer s j t.station q).map fun i => (e, j, i) else none
            | none => none
          match ext with
          | some (e, j, i) =>
            if j.copy ≠ 0 && t.heldPush.isNone then
              .ok (tasterReport e j k (modTh (sign k i 0 bs s) k fun t => { t with heldPush := some (q, bs) }))
            else if x.full then .error .wait
            else
              let s := if t.heldPush.isNone then sign k i 0 bs s else s
              .ok (endStep k (pushEntry q bs (modTh s k fun t => { t with heldPush := none })))
          | none =>
            if x.full then .error .wait
            else .ok (endStep k (pushEntry q bs (modQ s q fun x => if x.isTile then { x with pThread := k + 1 } else x)))) s)

/-- Pops the next entry into own-scratchpad offset s[rs1]. The first thread that pops an internal TILE queue is its consumer
(DESIGN CHOICE, assumption 133). -/
def popTo (k q : Nat) (a : Word) (s : State) : Chk State :=
  (spWrite (k / 64) a.toNat 0 (headEntry s q) s).map fun s =>
    popEntry q (modQ s q fun x => if x.isTile then { x with cThread := k + 1 } else x)

/-- The checks that QPOP and QTRY share. -/
def popChk (rs1 rs2 : BitVec 5) (qn : BitVec 8) (k : Nat) (s : State) : Chk (Nat × Word) :=
  (localQ k rs2 qn s).bind fun q => (sreg s k rs1).bind fun a =>
    if !isConsumer s k q then .error (.fault 3)
    else if a.toNat % (getQ s q).esz ≠ 0 then .error (.fault 5)
    else if spBytes < a.toNat + (getQ s q).esz then .error (.fault 2)
    else if !idleTh s k then .error .wait
    else .ok (q, a)

/-- QPOP: waits while the queue is empty (R149); the step ends. -/
def execQpop (w : Thr) (rs1 rs2 : BitVec 5) (qn : BitVec 8) (s : State) : Res :=
  .next (issue w (fun k s => (popChk rs1 rs2 qn k s).bind fun x =>
    if (getQ s x.1).len = 0 then .error .wait else (popTo k x.1 x.2 s).map (endStep k)) s)

/-- QTRY: pops and sets p, or clears p on an empty queue; the step ends either way. -/
def execQtry (w : Thr) (rs1 rs2 : BitVec 5) (qn : BitVec 8) (p : BitVec 3) (s : State) : Res :=
  .next (issue w (fun k s => (popChk rs1 rs2 qn k s).bind fun x =>
    if (getQ s x.1).len = 0 then .ok (endStep k (setPred k p.toNat false s))
    else (popTo k x.1 x.2 s).map fun s => endStep k (setPred k p.toNat true s)) s)

/-- QWAIT: the buffer of slot TAIL mod N of a TILE queue that this thread produces, once a slot is free; rd is even. -/
def execQwait (w : Thr) (rd rs2 : BitVec 5) (qn : BitVec 8) (s : State) : Res :=
  .next (issueNext w (fun k s =>
    if !evenReg rd then .error (.fault 3)
    else (localQ k rs2 qn s).bind fun q =>
      let x := getQ s q
      if !x.isTile || !isProducer s k q then .error (.fault 3)
      else if x.full then .error .wait
      else
        let a := x.bufAddr x.tail
        .ok (setReg k (rd + 1) (BitVec.ofNat 32 (a / 2 ^ 32)) (setReg k rd (BitVec.ofNat 32 a) s))) s)

/-- QRET: a step end, then the s[rs1] oldest popped entries of a TILE queue that this thread consumes are retired; a count
of 0, or above those popped, is a range fault. -/
def execQret (w : Thr) (rs1 rs2 : BitVec 5) (qn : BitVec 8) (s : State) : Res :=
  .next (issue w (fun k s =>
    (localQ k rs2 qn s).bind fun q => (sreg s k rs1).bind fun a =>
      let x := getQ s q
      if !x.isTile || !isConsumer s k q then .error (.fault 3)
      else if a.toNat = 0 ∨ x.dist x.retire x.head < a.toNat then .error (.fault 2)
      else if !idleTh s k then .error .wait
      else .ok (modQ (endStep k s) q fun y => { y with retire := y.adv y.retire a.toNat })) s)

/-- QLEN: the number of entries present, in a queue of which the thread has an end. -/
def execQlen (w : Thr) (rd rs2 : BitVec 5) (qn : BitVec 8) (s : State) : Res :=
  .next (issueNext w (fun k s => (localQ k rs2 qn s).bind fun q =>
    if !(isProducer s k q || isConsumer s k q) then .error (.fault 3)
    else .ok (setReg k rd (BitVec.ofNat 32 (getQ s q).len) s)) s)

/-! ### Synchronisation -/

/-- WAIT: until the token is zero. -/
def execWait (w : Thr) (n : BitVec 4) (s : State) : Res :=
  .next (issueNext w (fun k s => if tget (getTh s k).toks n.toNat = 0 then .ok s else .error .wait) s)

/-- Threads of the same station instance that wait at barrier `n`. -/
def atBarrier (s : State) (k n : Nat) : List Nat :=
  let t := getTh s k
  ((List.range 64).map fun i => k / 64 * 64 + i).filter fun x =>
    let y := getTh s x
    y.bound && decide (y.station = t.station) && decide (y.inst = t.inst) &&
      (match y.mode with | .barrier m _ => decide (m = n) | _ => false)

/-- BAR: a step end; the threads at the barrier go on once the number that its field gives, which is the count less 1, of the
instance wait there (Table 5.6). -/
def execBar (w : Thr) (n : BitVec 4) (cnt : BitVec 6) (s : State) : Res :=
  .next (issue w (fun k s =>
    if !idleTh s k then .error .wait
    else
      let s := modTh (endStep k s) k fun t => { t with mode := .barrier n.toNat (cnt.toNat + 1) }
      let at_ := atBarrier s k n.toNat
      .ok (if cnt.toNat + 1 ≤ at_.length then at_.foldl (fun s x => modTh s x fun t => { t with mode := .running }) s else s)) s)

/-- STEP: ends a step (R88). -/
def execStepEnd (w : Thr) (s : State) : Res :=
  .next (issue w (fun k s => if idleTh s k then .ok (endStep k s) else .error .wait) s)

/-- HALT: waits for the thread's outstanding operations and ends its last step; in a dual job it is a checkpoint (R404). -/
def execHalt (w : Thr) (s : State) : Res :=
  .next (issue w (fun k s =>
    if !idleTh s k then .error .wait
    else
      let s := checkpoint k s
      match runningJob s (k / 64) with
      | some (e, j) => .ok (if j.copy ≠ 0 then tasterReport e j k s else haltThread k s)
      | none => .ok (haltThread k s)) s)

/-! ### Step replay (R91, R92) -/

/-- Bytes that a logged descriptor wrote into [a, a + 256): pairs of destination and source address. -/
def logPairs (d : List Byte) (a : Nat) : List (Nat × Nat) :=
  let inLine := fun (x : Nat) => decide (a ≤ x) && decide (x < a + 256)
  (List.range (dRows d)).flatMap fun r =>
    if dOp d = 2 then (List.range (dRowBytes d / 4)).flatMap fun c => (List.range 4).filterMap fun b =>
      let x := addr48 (dDst d) (Int.ofNat c * dDstStride d) + 4 * r + b
      if inLine x then some (x, addr48 (srcRow d r) (4 * c + b)) else none
    else (List.range (dRowBytes d)).filterMap fun i =>
      let x := addr48 (dstRow d r) i
      if inLine x then some (x, addr48 (srcRow d r) i) else none

/-- Bytes of a station image that Pour wrote into [o, o + 256) of a leaf: pairs of offset and byte. -/
def pourPairs (s : State) (l o : Nat) : List (Nat × Byte) :=
  match runningJob s l with
  | none => []
  | some (_, j) =>
    let img := jobImg s j
    (onLeaf j.insts l).flatMap fun x => ((sImage img x.station).zipIdx).filterMap fun b =>
      if o ≤ x.region + b.2 ∧ x.region + b.2 < o + 256 then some (x.region + b.2, b.1) else none

/-- Rewrites the bytes of a line that its tag covers, from DRAM through the system cache; answers the bytes rewritten. None
where the log entry itself fails parity, or where a DRAM line it needs is uncorrectable: the line cannot be reloaded then, as one
without a tag (DESIGN CHOICE, assumption 110). -/
def reloadLine (l line : Nat) (s : State) : State × Option Nat :=
  let tag := tget s.lv.lineTag (l * 8192 + line)
  let put := fun (s : State) (x : Nat) (b : Byte) =>
    { memWrite s x [b] with lv := { s.lv with badByte := tput s.lv.badByte x 0 } }
  if tag = 65 then
    let ps := pourPairs s l (line * 256)
    (ps.foldl (fun s p => put s (spBase l + p.1) p.2) s, some ps.length)
  else if tget s.lv.badLog (l * 64 + (tag - 1)) ≠ 0 then (s, none)
  else
    let i := leafIni l
    let ps := logPairs (tget (getLeaf s l).rlog (tag - 1)) (spBase l + line * 256)
    let r := ((ps.map fun p => p.2 / 64).eraseDups).foldl (fun (x : State × Bool) d =>
      let y := readLine i (whoOf x.1 i) d x.1
      (y.1, x.2 && y.2)) (s, true)
    if r.2 then (ps.foldl (fun s p => put s p.1 ((memRead s p.2 1).headD 0)) r.1, some ps.length) else (r.1, none)

/-- Step 3 of R91 for the word at offset `o`: read again, then reloaded. Answers the state and the bytes reloaded, or none
where the job must end. -/
def rereadWord (l o : Nat) (s : State) : State × Option Nat :=
  let w := spBase l + o / 4 * 4
  let s := { s with lv := { s.lv with badByte := (List.range 4).foldl (fun t i => if tget t (w + i) = 1 then tput t (w + i) 0 else t) s.lv.badByte } }
  let still := fun (s : State) => (List.range 4).any fun i => decide (tget s.lv.badByte (w + i) ≠ 0)
  if !still s then (s, some 0)
  else if tget s.lv.lineTag (l * 8192 + o / 256) = 0 then (s, none)
  else
    let r := reloadLine l (o / 256) s
    if still r.1 then (r.1, none) else r

/-- STEP_REPLAY (R91): once the thread's other operations have finished, the word is reread or its line reloaded, and the
thread restarts its step from the shadow. Else the job ends DATA_ERROR; a shadow that fails parity is event 0x1001 with location
kind 4. -/
def execStepReplay (w : Thr) (s : State) : Res :=
  let k := thrKey w
  let l := k / 64
  let t := getTh s k
  .next (
    if t.mode ≠ .parity ∨ t.load.isSome ∨ !idleTh s k ∨ !engOn s l then s
    else
      let r := match t.badAt with | some o => rereadWord l o s | none => (s, some 0)
      match r.2 with
      | none => abortOn l stDATA_ERROR r.1
      | some n =>
        let s := r.1
        if tget s.lv.badShadow k ≠ 0 then abortOn l stDATA_ERROR (parityEvent k 4 0 s)
        else
          let s := restore k s
          let s := modTh s k fun t => { t with replays := t.replays + 1, reloaded := n }
          let s := modLeaf s l fun x => { x with replays := x.replays.add 1 }
          let p := match runningJob s l with | some x => x.2.party | none => noParty
          event l 0x1002 p (leBytes 2 l ++ leBytes 1 (k % 64) ++ leBytes 1 (t.replays + 1) ++ leBytes 2 n) s)

end Sys2Proof.Machine
end

