-- ==== Sys2Proof/Machine/Candidates.lean ====
section
/-! DEFINITION. The estates that could run a waiting record, and the pre-emption of graphics jobs that R260 lets the Kettle
request (R222, R259, R260, R398). -/

namespace Sys2Proof.Machine

/-- The pass state of the graphics job on estate `e`. -/
def getGfx (s : State) (e : Nat) : Gfx := tget s.media.gfx e
/-- Changes it. -/
def modGfx (s : State) (e : Nat) (f : Gfx → Gfx) : State := { s with media := { s.media with gfx := tmod s.media.gfx e f } }

/-- What GFX_QUEUE_SET has set for a queue, with the defaults of R258 and R259; a job keeps what its record found (R279). -/
def gsetOf (s : State) (q : Nat) : GfxSet :=
  let k := getQ s q
  { prio := k.gfxPrio, preemptUs := if k.preemptUs = 0 then 1000 else k.preemptUs
    growUs := if k.binGrowUs = 0 then 2000 else k.binGrowUs, faultQ := tget s.media.faultQ q }

/-- The image of a waiting record's template. -/
def recImg (s : State) (w : WaitRec) : List Byte := match tmplOf s w.party (recHandle w.record) with | some t => t.image | none => []

/-- A record that asks for dual execution. -/
def recDual (r : List Byte) : Bool := decide (recSafety r = 1)

/-- The estates that could hold a record by class and size; for a dual record, the primaries of its party's pairs. -/
def candidates (s : State) (p : Nat) (be dual : Bool) (img : List Byte) : List Nat :=
  (estatesOf s p).filter fun e =>
    ((getEst s e).desc.be == be) && decide (tLeavesMin img ≤ (getEst s e).leaves.length) &&
      (!dual || (match pairOf s e with | some x => decide (x.primary = e) | none => false))

/-- The graphics job on an estate that a record of priority `prio` may pre-empt (R260). -/
def lowJob (s : State) (prio e : Nat) : Option Job :=
  match jobOf s e with
  | some j => if j.graphics && !j.lent && decide (j.gset.prio < prio) && decide (j.phase ≠ .stopped) && decide (j.phase ≠ .halted) then some j else none
  | none => none

/-- Requests the pre-emption that a waiting graphics record allows: its candidates that are idle or run all run such jobs, and
the one of lowest priority is picked, the oldest among equals (R260). One request at a time stands for a job. -/
def askPreempt (w : WaitRec) (s : State) : State :=
  let img := recImg s w
  let cs := (candidates s w.party w.be (recDual w.record) img).filter fun e => !(getEst s e).held && !(getEst s e).recovering
  if !tGraphics img || cs.isEmpty || !(cs.all fun e => (lowJob s w.gset.prio e).isSome) then s
  else
    let best := (cs.filterMap fun e => (lowJob s w.gset.prio e).map fun j => (e, j)).foldl (fun (b : Option (Nat × Job)) x => match b with
      | none => some x
      | some y => if x.2.gset.prio < y.2.gset.prio ∨ (x.2.gset.prio = y.2.gset.prio ∧ x.2.startAt < y.2.startAt) then some x else some y) none
    match best with
    | some (e, _) =>
      if (getGfx s e).ask = 0 then
        modGfx s e fun g => { g with ask := w.qid + 1, askUs := w.gset.preemptUs, askAt := s.ktime }
      else s
    | none => s

/-- Requests every pre-emption that waiting records allow now (R260). -/
def askAll (s : State) : State := s.jobs.waiting.foldl (fun s w => askPreempt w s) s

end Sys2Proof.Machine
end

