-- ==== Sys2Proof/Machine/Raster.lean ====
section
/-! DEFINITION. Raster instructions, image descriptors, bin memory, textures, and pre-emption of graphics jobs (R247 to R262).
The layouts of the pass block, the triangle block, the bin lists and the fragment rings are not given, so what they say is
read by constants of `Config` (assumption 14). -/

namespace Sys2Proof.Machine

/-! ### Image descriptors (Tables 9.1 and 9.2) -/

/-- Element bytes of an image format, 0 for a reserved code; 4:2:0 formats by their luma plane. -/
def imgBytes (f : Nat) : Nat :=
  match f with
  | 1 => 1 | 2 => 2 | 3 => 4 | 4 => 4 | 5 => 4 | 6 => 4 | 7 => 2 | 8 => 8 | 9 => 4 | 10 => 16 | 11 => 4 | 12 => 4
  | 13 => 8 | 14 => 16 | 15 => 16 | 16 => 1 | 17 => 2 | _ => 0

/-- The uses of Table 9.2. -/
inductive ImgUse where
  | texture
  | attachment
  | layer
  | codec
deriving DecidableEq, Repr

/-- Whether a format may be used so. -/
def useOk (u : ImgUse) (f : Nat) : Bool :=
  match u with
  | .texture => decide (1 ≤ f) && decide (f ≤ 15)
  | .attachment => decide (1 ≤ f) && decide (f ≤ 12)
  | .layer => (decide (3 ≤ f) && decide (f ≤ 6)) || f == 8 || f == 16 || f == 17
  | .codec => f == 16 || f == 17

/-- Whether a descriptor keeps every range of Table 9.1 for a use. -/
def imgOk (u : ImgUse) (d : List Byte) : Bool :=
  let f := fun (o n : Nat) => field d o n
  let lay := f 7 1
  let swz := lay % 4 == 1
  let two := f 6 1 == 16 || f 6 1 == 17
  useOk u (f 6 1) && decide (lay % 4 < 2) && decide (bitsOf lay 3 2 < 3) && decide (bitsOf lay 7 4 < 15) &&
  (f 0 6 % (if swz then 4096 else 256) == 0) && decide (1 ≤ f 8 2) && decide (f 8 2 ≤ 16384) && decide (1 ≤ f 10 2) &&
  decide (f 10 2 ≤ 16384) && decide (1 ≤ f 12 2) && decide (f 12 2 ≤ 2048) && decide (f 14 2 < 64) && decide (f 14 2 % 4 < 3) &&
  (if swz then f 16 4 == 0 else f 16 4 != 0 && f 16 4 % 256 == 0) && (f 20 4 % (if swz then 4096 else 256) == 0) &&
  (if two then true else f 24 6 == 0) && f 30 2 == 0 && (swz || (bitsOf lay 3 2 == 0 && bitsOf lay 7 4 == 0))

/-- Block size in elements of a 64-byte line, by element size (R249). -/
def blockDim (e : Nat) : Nat × Nat :=
  match e with | 1 => (8, 8) | 2 => (8, 4) | 4 => (4, 4) | 8 => (4, 2) | _ => (2, 2)

/-- Offset of element (x, y) in a swizzled plane level of `w` elements a row (R249). -/
def swizzle (e w x y : Nat) : Nat :=
  let b := blockDim e
  let tpr := (w + 8 * b.1 - 1) / (8 * b.1)
  let tile := y / (8 * b.2) * tpr + x / (8 * b.1)
  let bx := x / b.1 % 8
  let by_ := y / b.2 % 8
  let line := bx % 2 + 2 * (by_ % 2) + 4 * (bx / 2 % 2) + 8 * (by_ / 2 % 2) + 16 * (bx / 4) + 32 * (by_ / 4)
  tile * 4096 + line * 64 + (y % b.2 * b.1 + x % b.1) * e

/-- Size in elements of mip level `l`. -/
def mipDim (n l : Nat) : Nat := max 1 (n / 2 ^ l)
/-- Elements along a side of `p` pixels: 4 × 4 blocks for compressed formats. -/
def elemDim (f p : Nat) : Nat := if 13 ≤ f ∧ f ≤ 15 then (p + 3) / 4 else p

/-- Bytes of mip level `l` of a swizzled image: whole tiles. -/
def mipBytes (d : List Byte) (l : Nat) : Nat :=
  let e := imgBytes (field d 6 1)
  let b := blockDim e
  let w := elemDim (field d 6 1) (mipDim (field d 8 2) l)
  let h := elemDim (field d 6 1) (mipDim (field d 10 2) l)
  (w + 8 * b.1 - 1) / (8 * b.1) * ((h + 8 * b.2 - 1) / (8 * b.2)) * 4096

/-- Physical address of element (x, y) of mip level `l`, layer 0 (R249, R250). -/
def texelAddr (d : List Byte) (l x y : Nat) : Nat :=
  let e := imgBytes (field d 6 1)
  if field d 7 1 % 4 = 1 then
    field d 0 6 + ((List.range l).map (mipBytes d)).sum + swizzle e (elemDim (field d 6 1) (mipDim (field d 8 2) l)) x y
  else field d 0 6 + y * field d 16 4 + x * e

/-! ### The job's pass -/

/-- A graphics fault record (Table 9.4), to the fault queue that GFX_QUEUE_SET had given the job's queue; none without one. -/
def faultRec (e kind bytes : Nat) (s : State) : State :=
  match jobOf s e with
  | none => s
  | some j =>
    let q := j.gset.faultQ
    if q = 0 || !canPush s (q - 1) then s
    else pushEntry (q - 1) (leBytes 8 (recTag j.record) ++ leBytes 1 kind ++ leBytes 1 e ++ leBytes 2 (getGfx s e).pass ++
      leBytes 4 bytes ++ leBytes 8 s.ktime ++ leBytes 8 0) s

/-- The pass block and the bins of the job's pass. -/
def passBlk (s : State) (e : Nat) (j : Job) : List Byte := Config.passBlock (jobImg s j) j.args (getGfx s e).pass
def passBinsOf (s : State) (e : Nat) (j : Job) : Nat := Config.passBins (jobImg s j) j.args (getGfx s e).pass % 262145

/-- A binning instruction after a pass's bins are all claimed begins the next pass: the texture caches of its leaves are
invalidated (R101). -/
def nextPass (e : Nat) (s : State) : State :=
  let g := getGfx s e
  if g.render && decide (g.bins ≤ g.claim) then
    let s := modGfx s e fun x => { x with pass := x.pass + 1, render := false, claim := 0, bins := 0, used := 0, draws := []
                                          tris := [], flushed := [], flushedIn := 0 }
    match jobOf s e with
    | some j => (jobLeaves j).foldl (fun s l => modLeaf s l fun x => { x with tex := [], batches := [], setup := [] }) s
    | none => s
  else s

/-- Order among triangles: by key (R254). -/
def Tri.insert (t : Tri) : List Tri → List Tri
  | [] => [t]
  | x :: xs => if t.key < x.key then t :: x :: xs else if t = x then x :: xs else x :: Tri.insert t xs

/-- The triangles of a bin, in ascending order key (R254). -/
def binList (g : Gfx) (b : Nat) : List Tri := g.tris.filter fun t => t.bins.contains b

/-! ### Attachments (R247, R248, R251, R253) -/

/-- Bytes of a sample of an attachment in the bin buffer: an element, 4 for depth. -/
def attBytes (a : Att) : Nat := imgBytes (field a.desc 6 1)
/-- Colour bytes of a sample, over all attachments. -/
def colourBytes (p : PassInfo) : Nat := (p.cols.map attBytes).sum
/-- The attachments in order, depth last, each with the offset in the bin buffer at which its samples begin. -/
def attsOf (p : PassInfo) : List (Att × Nat) :=
  let r := p.cols.foldl (fun (x : List (Att × Nat) × Nat) a => (x.1 ++ [(a, x.2)], x.2 + 1024 * p.samples * attBytes a)) ([], 0)
  r.1 ++ (match p.depth with | some d => [(d, 1024 * p.samples * colourBytes p)] | none => [])

/-- The checks of a pass block: at most 8 colour attachments, one sample count of 1, 2 or 4, every descriptor in its ranges and of
that count where it is not stored resolved, and a bin buffer of at most 512 KiB (R247, R251, R253). -/
def passOk (p : PassInfo) : Bool :=
  let one := fun (a : Att) => imgOk .attachment a.desc && decide (a.layer < field a.desc 12 2) && decide (a.level ≤ bitsOf (field a.desc 7 1) 7 4) &&
    (a.resolve || decide (2 ^ bitsOf (field a.desc 7 1) 3 2 = p.samples))
  decide (p.cols.length ≤ 8) && (p.samples == 1 || p.samples == 2 || p.samples == 4) && p.cols.all one &&
    (match p.depth with | some d => one d && (field d.desc 6 1 == 11 || field d.desc 6 1 == 12) | none => true) &&
    decide (1024 * p.samples * (colourBytes p + 4) ≤ 0x80000)

/-- Offset in the own scratchpad of a sample of an attachment whose samples begin at `base` in the bin buffer. -/
def bufOff (p : PassInfo) (a : Att) (base pixel i : Nat) : Nat := p.buf + base + (pixel * p.samples + i) * attBytes a

/-- Pixel `n` of bin `b` in an attachment: none past its edges. Bins are numbered in row-major order over its width (R252). -/
def pixelAt (a : Att) (b n : Nat) : Option (Nat × Nat) :=
  let w := mipDim (field a.desc 8 2) a.level
  let h := mipDim (field a.desc 10 2) a.level
  let row := (w + 31) / 32
  let x := b % row * 32 + n % 32
  let y := b / row * 32 + n / 32
  if x < w ∧ y < h then some (x, y) else none

/-- Physical address of sample `i` of a pixel of an attachment. -/
def sampleAddr (a : Att) (x y i : Nat) : Nat :=
  texelAddr a.desc a.level x y + a.layer * field a.desc 20 4 + (if i = 0 then 0 else Config.sampleAt a.desc i)

/-- Sample `i` of every pixel of an attachment in bin `b`: pixel, sample and address. -/
def binSamples (a : Att) (samples b : Nat) : List (Nat × Nat × Nat) :=
  (List.range 1024).flatMap fun n => match pixelAt a b n with
    | some xy => (List.range samples).map fun i => (n, i, sampleAddr a xy.1 xy.2 i)
    | none => []

/-- A transfer of a raster operation goes on with the state it leaves, or fails with a status of the bus or a stop of the thread. -/
inductive Moved where
  | ok (s : State)
  | failed (status : Nat) (s : State)
  | stop (e : Stop)
deriving DecidableEq

/-- Goes on after a transfer that did not fail. -/
def Moved.andThen (m : Moved) (f : State → Moved) : Moved := match m with | .ok s => f s | x => x

/-- A checked step of the leaf's own state. -/
def moved (c : Chk State) : Moved := match c with | .ok t => .ok t | .error e => .stop e

/-- Loads or clears one attachment of a bin (R256): a bin that a flush has stored loads what was stored (R258). -/
def loadAtt (l : Nat) (p : PassInfo) (flushed : Bool) (b : Nat) (x : Att × Nat) (s : State) : Moved :=
  let a := x.1
  if !flushed && decide (a.load = 0) then .ok s
  else (binSamples a p.samples b).foldl (fun (m : Moved) y => m.andThen fun s =>
    let o := bufOff p a x.2 y.1 y.2.1
    if !flushed && decide (a.load = 1) then moved (spWrite l o 0 ((a.clear ++ List.replicate (attBytes a) 0#8).take (attBytes a)) s)
    else
      let r := access (leafIni l) false y.2.2 (attBytes a) [] [] s
      match r.2 with
      | .done st d => if st = stOK then moved (spWrite l o 0 d r.1) else .failed st r.1
      | .sent _ => .failed stNOT_READY r.1
      | .waits => .stop .wait) (.ok s)

/-- Writes one element of an attachment. -/
def storeOne (l addr : Nat) (bs : List Byte) (s : State) : Moved :=
  let r := access (leafIni l) true addr bs.length bs [] s
  match r.2 with
  | .done st _ => if st = stOK then .ok r.1 else .failed st r.1
  | .sent _ => .ok r.1
  | .waits => .stop .wait

/-- Stores one attachment of a bin, sample by sample, or resolved to one sample a pixel (R256). -/
def storeAtt (l : Nat) (p : PassInfo) (b : Nat) (x : Att × Nat) (s : State) : Moved :=
  let a := x.1
  if !a.store then .ok s
  else if a.resolve then
    (binSamples a 1 b).foldl (fun (m : Moved) y => m.andThen fun s =>
      match spRead s l (bufOff p a x.2 y.1 0) (p.samples * attBytes a) 0 with
      | .error e => .stop e
      | .ok d =>
        let ss := (List.range p.samples).map fun i => (d.drop (i * attBytes a)).take (attBytes a)
        storeOne l y.2.2 ((Config.resolve (field a.desc 6 1) ss ++ List.replicate (attBytes a) 0#8).take (attBytes a)) s) (.ok s)
  else
    (binSamples a p.samples b).foldl (fun (m : Moved) y => m.andThen fun s =>
      match spRead s l (bufOff p a x.2 y.1 y.2.1) (attBytes a) 0 with
      | .error e => .stop e
      | .ok d => storeOne l y.2.2 d s) (.ok s)

/-! ### Fragments (R254, R255) -/

/-- The depth and stencil test of a fragment, sample by sample, against the bin buffer: it updates what is stored, and the samples
that fail are no longer covered. With no depth attachment every sample passes. -/
def depthTest (l : Nat) (p : PassInfo) (blk : List Byte) (f : Frag) (depth : Word) (s : State) : Chk (State × Frag) :=
  match p.depth with
  | none => .ok (s, { f with tested := true })
  | some d =>
    let base := 1024 * p.samples * colourBytes p
    ((List.range p.samples).filter fun i => bitOf f.cover i).foldl (fun (r : Chk (State × Frag)) i => r.bind fun x =>
      let o := bufOff p d base f.pixel i
      (spRead x.1 l o 4 0).bind fun bs =>
        let t := Config.depthTest blk f.tri (leNat bs) depth
        (spWrite l o 0 (leBytes 4 t.2) x.1).map fun s =>
          (s, if t.1 then x.2 else { x.2 with cover := setBit x.2.cover i false })) (.ok (s, f))
    |>.map fun x => (x.1, { x.2 with tested := true, live := decide (x.2.cover ≠ 0) })

/-- The fragments of a bin's batches on a leaf, in order. -/
def fragsOf (s : State) (l b : Nat) : List Frag := ((getLeaf s l).batches.filter fun x => decide (x.bin = b)).flatMap (·.frags)

/-- Whether an earlier fragment of the same pixel has not passed its test yet: the tests of one pixel keep the order (R254). -/
def untestedBefore (fs : List Frag) (f : Frag) : Bool :=
  (fs.takeWhile fun g => decide (g ≠ f)).any fun g => decide (g.pixel = f.pixel) && g.live && !g.tested

/-- The fragments of the next triangles, in order key, with the early tests of those whose draw is not late-test (R255). One that
has an untested earlier fragment at its pixel is tested later, in its turn. -/
def newFrags (l b : Nat) (blk : List Byte) (ts : List Tri) (s : State) : Chk (State × List Frag) :=
  let raw := ts.flatMap fun t => (Config.fragments blk t.blk b).map fun x =>
    ({ key := t.key, pixel := x.1 % 1024, cover := x.2.1 % 16, depth := x.2.2.1, late := x.2.2.2, live := decide (x.2.1 % 16 ≠ 0), tri := t.blk } : Frag)
  raw.foldl (fun (r : Chk (State × List Frag)) f => r.bind fun x =>
    if f.late || (fragsOf s l b ++ x.2).any (fun g => decide (g.pixel = f.pixel) && g.live && !g.tested) then .ok (x.1, x.2 ++ [f])
    else (depthTest l (Config.passInfo blk) blk f f.depth x.1).map fun y => (y.1, x.2 ++ [y.2])) (.ok (s, []))

/-- Fragments in batches of up to 128. -/
def batchFrags : Nat → List Frag → List (List Frag)
  | 0, _ => []
  | n + 1, fs => if fs.isEmpty then [] else fs.take 128 :: batchFrags n (fs.drop 128)

/-- RSETUP's work: the next triangles of the claimed bin are rasterised into the fragment ring that the pass block names. -/
def setupRun (e l th : Nat) (blk : List Byte) (s : State) : Moved :=
  let b := (getTh s (l * 64 + th)).bin - 1
  let p := Config.passInfo blk
  let at_ := tget (getLeaf s l).setup th
  let left := (binList (getGfx s e) b).drop at_
  if (getTh s (l * 64 + th)).bin = 0 || left.isEmpty then .ok s
  else
    let n := max 1 (Config.setupTake blk b left.length)
    match newFrags l b blk (left.take n) s with
    | .error x => .stop x
    | .ok r =>
      let have_ := ((getLeaf s l).batches.filter fun x => decide (x.bin = b)).length
      let bs := (batchFrags r.2.length r.2).zipIdx.map fun x =>
        ({ off := Config.fragOff blk b (have_ + x.2) % spBytes, ring := p.ring, bin := b, pass := blk, info := p, frags := x.1 } : FragBatch)
      let s := bs.foldl (fun (m : Moved) x => m.andThen fun s =>
        moved (spWrite l x.off 0 (Config.fragBytes blk (x.frags.map (·.key)) (x.frags.map (·.pixel)) (x.frags.map (·.cover))) s)) (.ok r.1)
      s.andThen fun s => .ok (modLeaf s l fun x => { x with batches := x.batches ++ bs, setup := tput x.setup th (at_ + (left.take n).length) })

/-! ### Bin memory (R257, R258) -/

/-- A flush stores every attachment of a bin in full, unresolved: what a bin's samples are is the spec's rendering of its lists by
the job's own shaders (assumption 14). -/
def flushBin (blk : List Byte) (l : Nat) (g : Gfx) (s : State) (b : Nat) : State :=
  let p := Config.passInfo blk
  (attsOf p).zipIdx.foldl (fun s a =>
    (binSamples a.1.1 p.samples b).foldl (fun s y =>
      (access (leafIni l) true y.2.2 (attBytes a.1.1)
        ((Config.flushBytes blk ((binList g b).map (·.key)) a.2 b y.1 y.2.1 ++ List.replicate (attBytes a.1.1) 0#8).take (attBytes a.1.1)) [] s).1) s) s

/-- The mid-pass flush (R258): every bin with a non-empty list is rendered and stored, the lists are freed, and the fault record
of kind 2 and event 0x8004 are written. `draw` is the draw of the stopped triangle. -/
def flushPass (e draw : Nat) (s : State) : State :=
  match jobOf s e with
  | none => s
  | some j =>
    let g := getGfx s e
    let bins := insertAll (g.tris.flatMap (·.bins))
    let l := (jobLeaves j).headD 0
    let s := bins.foldl (flushBin (passBlk s e j) l g) s
    let s := event srcAfzan 0x8004 j.party (leBytes 1 e ++ leBytes 1 j.party ++ leBytes 2 g.pass ++ leBytes 4 bins.length) s
    faultRec e 2 0 (modGfx s e fun x => { x with used := 0, grow := false, tris := [], flushed := insertAll (x.flushed ++ bins), flushedIn := draw + 1 })

/-- Bin memory for `need` more bytes (R257): there is room, or 2 MiB pieces of the party's free JOB_POOL DRAM are added. -/
def binRoom (e need : Nat) (j : Job) (s : State) : Option State :=
  let g := getGfx s e
  if g.used + need ≤ g.cap then some (modGfx s e fun x => { x with used := x.used + need })
  else (allocPieces s j.party (getEst s e).desc.cg (piecesFor (g.used + need - g.cap))).map fun ps =>
    modGfx s e fun x => { x with grown := x.grown ++ ps, cap := x.cap + ps.length * pieceBytes, used := x.used + need }

/-- Bin memory is full and no piece is free (R257, R258): a second time within one draw, after a flush, the job ends NO_RESOURCE;
without a graphics fault queue the pass is flushed at once; else growth is pending, and the driver may answer. -/
def binFull (e draw need : Nat) (blk : List Byte) (j : Job) (s : State) : State :=
  let g := getGfx s e
  if j.gset.faultQ = 0 then
    (if g.flushedIn = draw + 1 then settle (abortJob e stNO_RESOURCE s) else flushPass e draw s)
  else
    let more := need + Config.drawRest blk % 2 ^ 31
    let s := modGfx s e fun x => { x with grow := true, growAt := s.ktime, stopDraw := draw }
    let s := event srcAfzan 0x8001 j.party (leBytes 1 e ++ leBytes 1 j.party ++ leBytes 2 g.pass ++ leBytes 4 more) s
    faultRec e 1 more s

/-- BIN_GROW_TIMEOUT (R258): no growth came within BIN_GROW_US, so the pass is flushed in the middle; where it was flushed in
this draw already, its triangles do not fit, and the job ends NO_RESOURCE. -/
def execBinGrowTimeout (e : Fin 16) (s : State) : Res :=
  .next (match jobOf s e.val with
    | none => s
    | some j =>
      let g := getGfx s e.val
      if !g.grow || decide (s.ktime < g.growAt + j.gset.growUs * 100) then s
      else if g.flushedIn = g.stopDraw + 1 then settle (abortJob e.val stNO_RESOURCE (modGfx s e.val fun x => { x with grow := false }))
      else flushPass e.val g.stopDraw s)

/-! ### Asynchronous raster operations -/

/-- Queues a raster operation with its block, which is read at issue. -/
def rasterOp (code : Nat) (rs1 : BitVec 5) (tok : BitVec 4) (k : Nat) (s : State) : Chk State :=
  (sreg s k rs1).bind fun a => (spRead s (k / 64) a.toNat 64 0).bind fun b =>
    if (code = 3 || code = 9) && !passOk (Config.passInfo b) then .error (.fault 4)
    else if !tokFree s k tok.toNat then .error .wait
    else .ok (tokInc k tok.toNat (modLeaf s (k / 64) fun x =>
      { x with raster := x.raster ++ [{ thread := k % 64, tok := tok.toNat, tile := code, blk := b }] }))

/-- The block at s[rs1], for the checks of RBINW. -/
def rasterBlk (rs1 : BitVec 5) (k : Nat) (s : State) : List Byte :=
  match sreg s k rs1 with | .ok a => memRead s (spBase (k / 64) + a.toNat) 64 | .error _ => []

/-- RBINW: the triangle block joins the lists of the bins it touches, in bin memory (R254, R257). The thread stops here while
growth is pending, and where bin memory is full. -/
def execRbinw (w : Thr) (rs1 : BitVec 5) (tok : BitVec 4) (s : State) : Res :=
  let k := thrKey w
  .next (
    if !ready s k then s
    else match runningJob s (k / 64) with
      | none => s
      | some (e, j) =>
        if (getGfx s e).grow then s
        else match (fetchChk s k).bind fun _ => rasterOp 0 rs1 tok k s with
          | .error x => stopTh k x s
          | .ok t =>
            let b := rasterBlk rs1 k s
            let i := Config.triInfo b
            let need := Config.binBytes b % 2 ^ 32
            let draw := i.1 / 2 ^ 24 % 2 ^ 20
            match binRoom e need j (nextPass e t) with
            | none => binFull e draw need b j (nextPass e s)
            | some t =>
              let tri : Tri := { key := i.1 % 2 ^ 44, bins := i.2.filter fun x => decide (x < passBinsOf t e j), blk := b }
              issued k (adv k (modGfx t e fun g => { g with tris := tri.insert g.tris })))

/-! ### Pre-emption (R260 to R262) -/

/-- A thread that a stopping leaf holds up: it may issue, or waits at a barrier. -/
def stopsWith (t : Thread) : Bool := match t.mode with | .running => true | .barrier _ _ => true | _ => false

/-- The leaf can stop at a boundary: none of its threads has anything outstanding. -/
def leafIdle (s : State) (l : Nat) : Bool :=
  (List.range 64).all fun i => !stopsWith (getTh s (l * 64 + i)) || (idleTh s (l * 64 + i) && (getTh s (l * 64 + i)).load.isNone)

/-- The threads of leaf `l` stop at a boundary (R260), each with its state saved as it stands; one that waits at a barrier is to
come to it again. -/
def stopLeaf (l : Nat) (s : State) : State :=
  (List.range 64).foldl (fun s i =>
    let k := l * 64 + i
    match (getTh s k).mode with
    | .running => modTh (checkpoint k s) k fun t => { t with mode := .preempted }
    | .barrier _ _ => modTh (checkpoint k (modTh s k fun t => { t with pc := (t.pc + 2 ^ 32 - 4) % 2 ^ 32 })) k fun t => { t with mode := .preempted }
    | _ => s) s

/-- Key of a thread within its job. -/
def jobKey (t : Thread) : Nat := (t.station * 256 + t.inst) * 64 + t.tnum

/-- The threads of a job that a pre-emption saves: those that have not halted. -/
def liveThreads (s : State) (j : Job) : List Thread := ((jobThreads s j).map (getTh s)).filter fun t => decide (t.mode ≠ .halted)

/-- A pre-emption takes effect once every leaf of the job has stopped (R261): the job goes back to the head of its queue,
with its context, which the record holds (assumption 125). -/
def preemptDone (e : Nat) (s : State) : State :=
  match jobOf s e with
  | none => s
  | some j =>
    let g := getGfx s e
    if g.ask = 0 || (jobThreads s j).any fun k => match (getTh s k).mode with | .preempted => false | .halted => false | _ => true then s
    else
      let s := event srcAfzan 0x8003 j.party (leBytes 1 e ++ leBytes 1 j.party ++ leBytes 1 g.boundary ++
        leBytes 4 ((s.ktime - g.askAt) / 100)) s
      let s := faultRec e 3 0 s
      let ts := liveThreads s j
      let r : WaitRec :=
        { qid := j.qid, party := j.party, record := j.record, takenAt := j.takenAt, annAt := j.annAt, resumed := true
          ranTclk := j.runTclk, saved := ts.map fun t => (jobKey t, t.shadow), gfx := { g with ask := 0 }, args := j.args, pieces := j.pieces
          be := j.be, replay := j.replay, gset := j.gset, serial := j.serial, overrun := j.overrun, accRep := j.accRep
          marks := (j.unarmed, j.fired, j.keptLost), bins := ts.map fun t => (jobKey t, t.bin) }
      let t := stopJob e j s
      let s := freeEst e j t.1
      settle { s with jobs := { s.jobs with waiting := r :: s.jobs.waiting } }

/-- A boundary of kind `b` under a request: the leaf stops once nothing of it is outstanding, and the pre-emption may take
effect. -/
def boundaryStop (e l b : Nat) (s : State) : Chk State :=
  if !leafIdle s l then .error .wait else .ok (preemptDone e (stopLeaf l (modGfx s e fun g => { g with boundary := b })))

/-- RDRAW: the end of one draw; a step end, and a draw boundary (R88, R260). A pass has at most 1,048,576 draws (R251). -/
def execRdraw (w : Thr) (s : State) : Res :=
  .next (issue w (fun k s =>
    if !idleTh s k then .error .wait
    else match runningJob s (k / 64) with
      | none => .error .wait
      | some (e, _) =>
        let s := endStep k (modGfx (nextPass e (askAll s)) e fun g => { g with draws := tmod g.draws k fun n => min 1048576 (n + 1) })
        if (getGfx s e).ask = 0 then .ok s else boundaryStop e (k / 64) 0 s) s)

/-- RBIN: claims the next bin of the pass, in row-major order (R252); a step end, and a bin boundary. Under a request the thread
stops before it claims. -/
def execRbin (w : Thr) (rd : BitVec 5) (s : State) : Res :=
  .next (issue w (fun k s =>
    if !idleTh s k then .error .wait
    else match runningJob s (k / 64) with
      | none => .error .wait
      | some (e, j) =>
        let s := askAll s
        if (getGfx s e).ask ≠ 0 then boundaryStop e (k / 64) 1 s
        else
          let s := if (getGfx s e).render then s
            else modGfx s e fun g => { g with render := true, claim := 0, bins := passBinsOf s e j }
          let g := getGfx s e
          let s := modLeaf s (k / 64) fun x => { x with setup := tput x.setup (k % 64) 0 }
          if g.claim < g.bins then
            .ok (endStep k (setReg k rd (BitVec.ofNat 32 g.claim)
              (modTh (modGfx s e fun x => { x with claim := x.claim + 1 }) k fun t => { t with bin := g.claim + 1 })))
          else .ok (endStep k (setReg k rd 0xFFFFFFFF#32 (modTh s k fun t => { t with bin := 0 })))) s)

/-! ### Rendering -/

/-- RLOAD: clears or loads the claimed bin's attachments; a pass beyond the limits of R251 and R253 ends the job. -/
def execRload (w : Thr) (rs1 : BitVec 5) (tok : BitVec 4) (s : State) : Res := .next (issueNext w (rasterOp 3 rs1 tok) s)
/-- RSETUP: sets up and rasterises the bin's next triangles in order-key order (R254). -/
def execRsetup (w : Thr) (rs1 : BitVec 5) (tok : BitVec 4) (s : State) : Res := .next (issueNext w (rasterOp 4 rs1 tok) s)
/-- RSTORE: stores or resolves the claimed bin's attachments. -/
def execRstore (w : Thr) (rs1 : BitVec 5) (tok : BitVec 4) (s : State) : Res := .next (issueNext w (rasterOp 9 rs1 tok) s)

/-- What a raster operation does when it finishes; RBINW has done it at issue. -/
def rasterRun (e l : Nat) (op : EngOp) (s : State) : Moved :=
  let t := getTh s (l * 64 + op.thread)
  let p := Config.passInfo op.blk
  let b := t.bin - 1
  if op.tile = 0 || t.bin = 0 then .ok s
  else if op.tile = 3 then
    (attsOf p).foldl (fun (m : Moved) a => m.andThen (loadAtt l p ((getGfx s e).flushed.contains b) b a)) (.ok s)
  else if op.tile = 4 then setupRun e l op.thread op.blk s
  else
    ((attsOf p).foldl (fun (m : Moved) a => m.andThen (storeAtt l p b a)) (.ok s)).andThen fun s =>
      .ok (modLeaf s l fun x => { x with batches := x.batches.filter fun y => decide (y.bin ≠ b) })

/-- RASTER_OP_COMPLETE: the oldest raster operation of the leaf finishes. A transfer that a target refuses ends the job with its
status. -/
def execRasterOpComplete (leaf : Fin 168) (s : State) : Res :=
  let l := leaf.val
  .next (match (getLeaf s l).raster with
    | [] => s
    | op :: rest =>
      let k := l * 64 + op.thread
      let drop := fun (s : State) => modLeaf s l fun x => { x with raster := rest }
      if !engOn s l then s
      else match runningJob s l with
        | none => s
        | some (e, _) => match rasterRun e l op s with
          | .ok t => progress l (tokDec k op.tok (drop t))
          | .failed st t => abortOn l st (drop t)
          | .stop .wait => s
          | .stop x => engStop k op.tok x (drop s))

/-- RFRAG: s[rd] ← the offset of the next batch of the thread's bin in the ring at s[rs1], or all ones at the end of the bin's
list. While an RSETUP is to fill the ring, the thread is not ready. -/
def execRfrag (w : Thr) (rd rs1 : BitVec 5) (s : State) : Res :=
  .next (issueNext w (fun k s => (sreg s k rs1).bind fun a =>
    let l := k / 64
    let b := (getTh s k).bin
    let x := getLeaf s l
    match x.batches.find? fun y => decide (y.ring = a.toNat) && decide (y.bin + 1 = b) && !y.given with
    | some y =>
      .ok (setReg k rd (BitVec.ofNat 32 y.off) (modLeaf s l fun x => { x with
        batches := x.batches.map fun z => if z = y then { z with given := true } else z }))
    | none =>
      let all := match runningJob s l with | some (e, _) => (binList (getGfx s e) (b - 1)).length | none => 0
      if b ≠ 0 ∧ tget x.setup (k % 64) < all then .error .wait else .ok (setReg k rd 0xFFFFFFFF#32 s)) s)

/-- The batch at an offset that RFRAG has delivered for the thread's bin: the newest there. -/
def batchAt (s : State) (k off : Nat) : Option FragBatch :=
  ((getLeaf s (k / 64)).batches.reverse.find? fun y => decide (y.off = off) && y.given && decide (y.bin + 1 = (getTh s k).bin))

/-- Puts a batch's fragments back. -/
def putFrags (l : Nat) (y : FragBatch) (fs : List Frag) (s : State) : State :=
  modLeaf s l fun x => { x with batches := x.batches.map fun z => if z = y then { z with frags := fs } else z }

/-- Whether every earlier fragment of the pixel, in batches before this one or in its lanes before, is written to the
attachments of `mask`, or cleared (R254). -/
def writtenBefore (s : State) (l : Nat) (y : FragBatch) (mask : Nat) (f : Frag) : Bool :=
  let old := ((getLeaf s l).batches.filter fun z => decide (z.bin = y.bin)).takeWhile fun z => decide (z ≠ y)
  (old.flatMap (·.frags)).all fun g => decide (g.pixel ≠ f.pixel) || !g.live || decide (g.done &&& mask = mask)

/-- Tests the untested fragments of a batch in order (R255), with the depths `depth` gives them; a lane whose fragment fails clears.
The thread waits for an earlier batch whose fragment at the same pixel is untested. -/
def testBatch (l : Nat) (y : FragBatch) (depth : Frag → Nat → Word) (s : State) : Chk (State × List Frag) :=
  let old := (((getLeaf s l).batches.filter fun z => decide (z.bin = y.bin)).takeWhile fun z => decide (z ≠ y)).flatMap (·.frags)
  if y.frags.any fun f => f.live && !f.tested && old.any fun g => decide (g.pixel = f.pixel) && g.live && !g.tested then .error .wait
  else y.frags.zipIdx.foldl (fun (r : Chk (State × List Frag)) f => r.bind fun x =>
    if !f.1.live || f.1.tested then .ok (x.1, x.2 ++ [f.1])
    else (depthTest l y.info y.pass f.1 (depth f.1 f.2) x.1).map fun z => (z.1, x.2 ++ [z.2])) (.ok (s, []))

/-- RDEPTH: the late depth and stencil test of the batch at s[rs1], with depth from v[vr]; lanes that fail clear (R255). An offset
at which no batch was delivered is a range fault (assumption 14). -/
def execRdepth (w : Thr) (vr rs1 : BitVec 5) (s : State) : Res :=
  .next (issueNext w (fun k s => (vread s k vr.toNat).bind fun ds => (sreg s k rs1).bind fun a =>
    match batchAt s k a.toNat with
    | none => .error (.fault 2)
    | some y => (testBatch (k / 64) y (fun f i => if f.late then ds.getD i 0 else f.depth) s).map fun r => putFrags (k / 64) y r.2 r.1) s)

/-- Blends one fragment into attachment `a` of the bin buffer, sample by sample. -/
def blendFrag (l : Nat) (p : PassInfo) (blk : List Byte) (n : Nat) (x : Att × Nat) (f : Frag) (rgba : List Word) (s : State) : Chk State :=
  let e := attBytes x.1
  ((List.range p.samples).filter fun i => bitOf f.cover i).foldl (fun (r : Chk State) i => r.bind fun s =>
    let o := bufOff p x.1 x.2 f.pixel i
    (spRead s l o e 0).bind fun old => spWrite l o 0 ((Config.blend blk f.tri n old rgba ++ old).take e) s) (.ok s)

/-- Blends the live lanes of a batch in order, each with its lane of the four vectors of `px`. -/
def blendLanes (l : Nat) (p : PassInfo) (blk : List Byte) (n : Nat) (x : Att × Nat) (px : List (List Word)) (fs : List Frag) (s : State) : Chk State :=
  fs.zipIdx.foldl (fun (c : Chk State) f => c.bind fun s =>
    if f.1.live then blendFrag l p blk n x f.1 (px.map fun v => v.getD f.2 0) s else .ok s) (.ok s)

/-- RBLEND: v[vr] to v[vr+3] of the batch at s[rs1] are blended into attachment s[rs2] of the bin buffer, lane by lane in order;
the thread waits until every earlier fragment to the same pixels has been written (R254). Lanes not tested yet are tested first
(R255). No such batch or attachment is a range fault (assumption 14). -/
def execRblend (w : Thr) (vr rs1 rs2 : BitVec 5) (s : State) : Res :=
  .next (issueNext w (fun k s =>
    let l := k / 64
    if (getTh s k).nv < vr.toNat + 4 then .error (.fault 1)
    else (vread s k vr.toNat).bind fun r => (vread s k (vr.toNat + 1)).bind fun g => (vread s k (vr.toNat + 2)).bind fun b =>
      (vread s k (vr.toNat + 3)).bind fun al => (sreg s k rs1).bind fun a => (sreg s k rs2).bind fun n =>
        match batchAt s k a.toNat with
        | none => .error (.fault 2)
        | some y =>
          let p := y.info
          match (attsOf p)[n.toNat]? with
          | none => .error (.fault 2)
          | some x =>
            if p.cols.length ≤ n.toNat then .error (.fault 2)
            else if !(y.frags.all fun f => !f.live || writtenBefore s l y (2 ^ n.toNat) f) then .error .wait
            else (testBatch l y (fun f _ => f.depth) s).bind fun t =>
              (blendLanes l p y.pass n.toNat x [r, g, b, al] t.2 t.1).map fun s =>
                putFrags l y (t.2.map fun f => { f with done := setBit f.done n.toNat true }) s) s)

/-! ### Textures (R101, R186, R249, R250, R256) -/

/-- The FP32 value nearest to a fraction, ties to even: the quotient is taken to more bits than FP32 keeps, with a sticky bit. -/
def ratF32 (num den : Nat) : Word :=
  let q := num * 2 ^ 190 / den
  toF32 .rne (.fin false (2 * q + b2n (decide (num * 2 ^ 190 % den ≠ 0))) (-191))

/-- 1.0 and the n-bit normalised value of a code. -/
def oneF : Word := 0x3F800000#32
def unorm (bits c : Nat) : Word := ratF32 c (2 ^ bits - 1)

/-- The RGBA of an element's bytes; a compressed block's by the element within it. Channels that a format lacks are 0, and alpha
1 (PRESUMED, assumption 126). -/
def texelRgba (fmt : Nat) (bs : List Byte) (x y : Nat) : List Word :=
  let u8 := fun (i : Nat) => unorm 8 (field bs i 1)
  let h := fun (i : Nat) => toF32 .rne (fp16.decode (field bs (2 * i) 2))
  let w := fun (i : Nat) => BitVec.ofNat 32 (field bs (4 * i) 4)
  let n := field bs 0 4
  match fmt with
  | 1 => [u8 0, 0, 0, oneF]
  | 2 => [u8 0, u8 1, 0, oneF]
  | 3 => [u8 0, u8 1, u8 2, u8 3]
  | 4 => [Config.srgb (field bs 0 1), Config.srgb (field bs 1 1), Config.srgb (field bs 2 1), u8 3]
  | 5 => [u8 2, u8 1, u8 0, u8 3]
  | 6 => [unorm 10 (bitsOf n 9 0), unorm 10 (bitsOf n 19 10), unorm 10 (bitsOf n 29 20), unorm 2 (bitsOf n 31 30)]
  | 7 => [h 0, 0, 0, oneF]
  | 8 => [h 0, h 1, h 2, h 3]
  | 9 => [w 0, 0, 0, oneF]
  | 10 => [w 0, w 1, w 2, w 3]
  | 11 => [w 0, 0, 0, oneF]
  | 12 => [unorm 24 (n % 2 ^ 24), 0, 0, oneF]
  | _ => (Config.texBlock fmt bs x y ++ List.replicate 4 0#32).take 4

/-- A coordinate in texels of the level: its floor and the fraction in FP32, of the coordinate less `half` halves (R186). -/
def coordAt (c : Word) (half : Nat) (lvl : Nat) : Int × Word :=
  match f32 c with
  | .fin neg m e =>
    let den : Nat := 2 ^ ((-e).toNat + lvl + 1)
    let num : Int := (if neg then -(m : Int) else m) * 2 ^ e.toNat * 2 - half * 2 ^ ((-e).toNat + lvl)
    let i := num / (den : Int)
    (i, ratF32 (num - i * den).toNat den)
  | _ => (Config.texCoord c, 0#32)

/-- A texel index by address mode (Table 9.1): repeat, mirror, clamp to edge, or none for the border. -/
def wrap (mode : Nat) (n : Nat) (i : Int) : Option Nat :=
  let m : Int := n
  match mode with
  | 0 => some (i % m).toNat
  | 1 => let r := i % (2 * m); some (if r < m then r.toNat else (2 * m - 1 - r).toNat)
  | 2 => some (max 0 (min (m - 1) i)).toNat
  | _ => if 0 ≤ i ∧ i < m then some i.toNat else none

/-- One tap of a lane: level, and texel or border. -/
abbrev Tap := Nat × Option (Nat × Nat)

/-- The taps of one level for a lane, `lvl` levels below the one whose texels the coordinates count, with the two weights. -/
def levelTaps (d : List Byte) (m lvl : Nat) (u v : Word) : List Tap × Word × Word :=
  let s := field d 14 2
  let w := mipDim (field d 8 2) (m + lvl)
  let h := mipDim (field d 10 2) (m + lvl)
  let near := decide (s % 4 = 0)
  let x := coordAt u (if near then 0 else 1) lvl
  let y := coordAt v (if near then 0 else 1) lvl
  let at_ := fun (i j : Int) => ((m + lvl, match wrap (bitsOf s 3 2) w i, wrap (bitsOf s 5 4) h j with
    | some a, some b => some (a, b)
    | _, _ => none) : Tap)
  if near then ([at_ x.1 y.1], 0#32, 0#32)
  else ([at_ x.1 y.1, at_ (x.1 + 1) y.1, at_ x.1 (y.1 + 1), at_ (x.1 + 1) (y.1 + 1)], x.2, y.2)

/-- VFMA(f, b − a, a), channel by channel, with b − a rounded first (R186). -/
def lerp (f : Word) (a b : List Word) : List Word := (a.zip b).map fun x => ffma .rne f (fsub .rne x.2 x.1) x.1

/-- The sample of a level from the values of its taps: rows first, then between the rows (R186). -/
def filterTaps (vs : List (List Word)) (fx fy : Word) : List Word :=
  match vs with
  | [a, b, c, e] => lerp fy (lerp fx a b) (lerp fx c e)
  | a :: _ => a
  | [] => []

/-- Address of the element of a tap, and the pixel within a compressed block. -/
def tapAddr (d : List Byte) (t : Tap) : Option (Nat × Nat × Nat) :=
  t.2.map fun xy =>
    let c := fun (n : Nat) => if 13 ≤ field d 6 1 ∧ field d 6 1 ≤ 15 then n / 4 else n
    (texelAddr d t.1 (c xy.1) (c xy.2), xy.1 % 4, xy.2 % 4)

/-- The levels that a sample reads: two for a trilinear filter where there is another (Table 9.1). -/
def levelsOf (d : List Byte) (m : Nat) : List Nat :=
  if field d 14 2 % 4 = 2 ∧ m < bitsOf (field d 7 1) 7 4 then [0, 1] else [0]

/-- The sample of a lane, from the bytes of the lines read. -/
def sampleLane (d : List Byte) (m : Word) (line : Nat → List Byte) (u v : Word) : List Word :=
  let one := fun (lvl : Nat) =>
    let t := levelTaps d m.toNat lvl u v
    filterTaps (t.1.map fun x => match tapAddr d x with
      | none => List.replicate 4 0#32
      | some a => texelRgba (field d 6 1) (((line (a.1 / 64)).drop (a.1 % 64)).take (imgBytes (field d 6 1))) a.2.1 a.2.2) t.2.1 t.2.2
  match levelsOf d m.toNat with
  | [_, _] => lerp (Config.mipFrac m u v) (one 0) (one 1)
  | _ => one 0

/-- The 64-byte lines that a sample of all lanes reads. -/
def linesFor (d : List Byte) (m : Word) (us vs : List Word) : List Nat :=
  ((us.zip vs).flatMap fun c => (levelsOf d m.toNat).flatMap fun lvl =>
    (levelTaps d m.toNat lvl c.1 c.2).1.filterMap fun t => (tapAddr d t).map fun a => a.1 / 64).eraseDups

/-- A line of the texture cache, read through it: a line that it holds answers with the texels it had, another is read from memory
and joins the cache (R101). -/
def texLine (k line : Nat) (s : State) : Moved × List Byte :=
  let l := k / 64
  match (getLeaf s l).tex.find? fun x => decide (x.1 = line) with
  | some x => (.ok s, x.2)
  | none =>
    if spLeaf (line * 64) = some l then
      match spRead s l (line * 64 - spBase l) 64 0 with
      | .ok bs => (.ok (texInsert l line bs s), bs)
      | .error e => (.stop e, [])
    else
      let r := access (leafIni l) false (line * 64) 64 [] [65536 + k] s
      match r.2 with
      | .done st bs => if st = stOK then (.ok (texInsert l line bs r.1), bs) else (.failed st r.1, [])
      | .sent tag => (.failed stPENDING (modTh r.1 k fun t => { t with load := some { addr := line * 64, pcie := tag + 1, tex := true } }), [])
      | .waits => (.stop .wait, [])

/-- Reads lines in order: what follows, and the bytes of each. -/
def texLines (k : Nat) (ls : List Nat) (s : State) : Moved × List (Nat × List Byte) :=
  ls.foldl (fun (r : Moved × List (Nat × List Byte)) n => match r.1 with
    | .ok t => let x := texLine k n t; (x.1, r.2 ++ [(n, x.2)])
    | _ => r) (.ok s, [])

/-- The bytes of a line among those read. -/
def lineBytes (ls : List (Nat × List Byte)) (n : Nat) : List Byte := match ls.find? fun x => decide (x.1 = n) with | some x => x.2 | none => []

/-- RTEX: samples the image descriptor at s[rs1], mip level s[rs2], into v[vr] to v[vr+3] for every lane (R249, R250, R256). The
descriptor must keep its ranges (R247). A line beyond an outbound window arrives first: the thread is not ready until then
(R65), and the instruction issues after it. -/
def execRtex (w : Thr) (vr rs1 rs2 : BitVec 5) (s : State) : Res :=
  let k := thrKey w
  let l := k / 64
  .next (
    if !ready s k then s
    else
      let op : Chk (List Byte × Word × List Word × List Word) :=
        if (getTh s k).nv < vr.toNat + 4 then .error (.fault 1)
        else (fetchChk s k).bind fun _ => (sreg s k rs1).bind fun a => (sreg s k rs2).bind fun m =>
          (spRead s l a.toNat 32 0).bind fun d =>
            if !imgOk .texture d then .error (.fault 4)
            else if bitsOf (field d 7 1) 7 4 < m.toNat then .error (.fault 2)
            else (vread s k vr.toNat).bind fun u => (vread s k (vr.toNat + 1)).map fun v => (d, m, u, v)
      match op with
      | .error e => stopTh k e s
      | .ok (d, m, us, vs) =>
        let r := texLines k (linesFor d m us vs) s
        match r.1 with
        | .stop e => stopTh k e s
        | .failed st t => if st = stPENDING then t else abortOn l st (issued k t)
        | .ok t =>
          let px := (us.zip vs).map fun c => sampleLane d m (lineBytes r.2) c.1 c.2
          match (List.range 4).foldl (fun (c : Chk State) i => c.bind (vwrite k (vr.toNat + i) (px.map fun p => p.getD i 0))) (.ok t) with
          | .ok t => issued k (adv k t)
          | .error e => stopTh k e s)

/-- PREEMPT_ABANDONED (R262): a leaf has not reached a boundary within PREEMPT_US, so the stopped leaves resume. -/
def execPreemptAbandoned (e : Fin 16) (s : State) : Res :=
  .next (match jobOf s e.val with
    | none => s
    | some j =>
      let g := getGfx s e.val
      if g.ask = 0 || decide (s.ktime < g.askAt + g.askUs * 100) then s
      else
        let busy := (jobLeaves j).filter fun l => (jobThreads s j).any fun k => decide (k / 64 = l) &&
          (match (getTh s k).mode with | .preempted => false | .halted => false | _ => true)
        let s := (jobThreads s j).foldl (fun s k =>
          if (getTh s k).mode = .preempted then modTh s k fun t => { t with mode := .running } else s) s
        let s := modGfx s e.val fun x => { x with ask := 0 }
        let s := event srcAfzan 0x800A j.party (leBytes 1 e.val ++ leBytes 1 j.party ++ leBytes 2 busy.length) s
        faultRec e.val 5 0 s)

end Sys2Proof.Machine
end

