-- ==== Sys2Proof/Machine/Jobs.lean ====
section
/-! DEFINITION. Taking and admitting submission records, lending, switching, Pour, and the limits of a run (R163, R164,
R221 to R234, R240, R260, R386 to R389, R398, R399, R544). -/

namespace Sys2Proof.Machine

/-! ### When the Kettle takes records and admits jobs -/

/-- The Kettle takes records and starts jobs: after phase 9 of bring-up, in Run with the core's clocks running, outside an
activation window, and not after a Kettle fault (R38, R53, R356, R382, R509). -/
def admitting (s : State) : Bool :=
  s.boot.ready && decide (s.pw.st = .run) && !s.pw.thermalDoze && !s.pw.forced && decide (s.firm.act ≠ .open_) &&
    !s.safe.kettleFault && s.pw.supplied && !s.pw.pllLost && !s.boot.held && s.boot.resetting.isNone

/-- Whether [a, a + n) is the party's own: its DRAM grant outside JOB_POOL ranges, or the scratchpad of a leaf of one of
its estates. -/
def ownBytes (s : State) (p a n : Nat) : Bool :=
  inReq s p a n ||
    (match spLeaf a with
     | some l => decide (a + n ≤ spBase l + 0x200000) &&
         (match estOf s l with | some e => decide ((getEst s e).party = p) | none => false)
     | none => false)

/-- The class of a submission queue: BE or LC (Table 5.2). -/
def queueBe (s : State) (q : Nat) : Bool := bitOf (getQ s q).flags 3

/-- A record's completion queue is a bound COMPLETE queue of the party (R163). -/
def cqOk (s : State) (p : Nat) (r : List Byte) : Bool :=
  decide (recCq r < 2 ^ 18) && (getQ s (recCq r)).bound && decide ((getQ s (recCq r)).kind = 3) && qInGrant s p (recCq r) false

/-- A record whose completion queue is not: it is discarded, and DBL_SUBMIT_ERR records its queue (R163). -/
def discardRec (p q : Nat) (s : State) : State := submitRefuse p q stBAD_ARG s

/-- The argument entries of a record (16 bytes each). -/
def readArgs (s : State) (r : List Byte) : List (List Byte) :=
  (List.range (field r 22 2)).map fun i => memRead s (field r 16 6 + 16 * i) 16

/-! ### Checks of a record (R163) -/

/-- One argument entry against its buffer: BAD_ARG where it is malformed (Tables 5.14 and 5.17). -/
def argBad (img : List Byte) (i : Nat) (a : List Byte) : Bool :=
  let k3 := decide (tBuffer img i 0 1 = 3)
  decide (field a 6 2 ≠ i) || decide (field a 12 4 ≠ 0) ||
    (if k3 then decide (field a 8 4 ≠ 0) || decide (2 ^ 18 ≤ field a 0 6)
     else decide (field a 8 4 < tBuffer img i 4 4) || decide (field a 0 6 % 2 ^ tBuffer img i 2 1 ≠ 0))

/-- One argument entry outside what the party may name: DENIED. -/
def argDenied (s : State) (p : Nat) (img : List Byte) (i : Nat) (a : List Byte) : Bool :=
  if tBuffer img i 0 1 = 3 then
    let q := getQ s (field a 0 6)
    !(q.bound && decide (q.kind = 1) && decide (q.prod = 0) && qInGrant s p (field a 0 6) false)
  else decide (field a 8 4 ≠ 0) && !ownBytes s p (field a 0 6) (field a 8 4)

/-- The checks that need no estate: none passes. An argument table that cannot be read is DENIED first (assumption 26). -/
def recBad (s : State) (p q : Nat) (r : List Byte) : Option Nat :=
  match tmplOf s p (recHandle r) with
  | none => some stBAD_ARG
  | some t =>
    let img := t.image
    let n := field r 22 2
    let dur := field r 32 8
    if 4 ≤ field r 2 2 ∨ 2 ≤ recSafety r ∨ 2 ^ 18 ≤ field r 4 4 ∨ field r 30 2 ≠ 0 ∨ field r 40 24 ≠ 0 then some stBAD_ARG
    else if n ≠ tBuffers img ∨ field r 16 6 % 16 ≠ 0 ∨ field r 24 6 % 64 ≠ 0 ∨ tDuration img < dur then some stBAD_ARG
    else if tReportBytes img = 0 ∧ field r 24 6 ≠ 0 then some stBAD_ARG
    else if bitOf (getQ s q).flags 2 && !tReplaySafe img then some stBAD_ARG
    else if n ≠ 0 ∧ ownBytes s p (field r 16 6) (16 * n) = false then some stDENIED
    else
      let as := (readArgs s r).zipIdx
      if as.any fun x => argBad img x.2 x.1 then some stBAD_ARG
      else if as.any fun x => argDenied s p img x.2 x.1 then some stDENIED
      else if tReportBytes img ≠ 0 ∧ ownBytes s p (field r 24 6) (tReportBytes img) = false then some stDENIED
      else none

/-! ### Candidates (R222, R398) -/

/-- The other estate of a primary's pair. -/
def partnerOf (s : State) (e : Nat) : Nat := match pairOf s e with | some x => x.partner | none => e

/-- Leaf placement queues and pieces that a job of a template needs on an estate. -/
def needQ (s : State) (e : Nat) (img : List Byte) : Nat := planQOf img (getEst s e).leaves
def needPieces (img : List Byte) : Nat := piecesFor (tDramBytes img)

/-- Whether the party's whole grant holds what a job on estate `e` needs (R224): `n` copies. -/
def grantHolds (s : State) (p e n : Nat) (img : List Byte) : Bool :=
  decide (n * needQ s e img ≤ (poolQueues s p).length) &&
    decide (needPieces img ≤ (((List.range 8).filter fun c => bitOf (getEst s e).desc.cg c).map fun c => (poolPieces s p c).length).sum)

/-! ### Lending (R228 to R230) -/

/-- One microsecond in switch-time units. -/
def usUnit : Nat := 1000000 * swUnit

/-- A pipe's frame period in switch-time units: N × H_TOTAL × V_TOTAL / 13.2 GHz (R270). -/
def framePeriod (t : List Byte) : Nat := field t 1 1 * field t 4 2 * field t 12 2 * 2500 * (swUnit / 33)

/-- The lend horizon of estate `e` now, in switch-time units (R228). -/
def horizon (s : State) (e : Nat) : Nat :=
  let d := (getEst s e).desc
  let t := s.ktime * tenNs
  if d.mode = 0 then 0
  else match d.source with
    | 0 => d.horizon * usUnit
    | 1 =>
      let p := d.period * usUnit
      let o := d.offset * usUnit
      if p = 0 then 0
      else
        let ph := (t % p + p - o % p) % p
        (p - ph) - d.guard * usUnit
    | _ =>
      let x := tget s.media.pipe d.pipe
      let f := framePeriod x.timing
      if !x.scan || decide (x.frame = 0) || decide (f = 0) then 0
      else
        let latch := x.latchAt * tenNs
        let ph := ((t - latch) + d.offset * usUnit) % f
        (f - ph) - d.guard * usUnit

/-- The largest horizon an estate can offer (R230). -/
def maxHorizon (s : State) (e : Nat) : Nat :=
  let d := (getEst s e).desc
  match d.source with
  | 0 => d.horizon * usUnit
  | 1 => (d.period - d.guard) * usUnit
  | _ => framePeriod (tget s.media.pipe d.pipe).timing - d.guard * usUnit

/-- Whether estate `e` is open to a BE job of party `p` that needs `n` leaves (R229), by mode, owner and size. -/
def openTo (s : State) (e p n : Nat) : Bool :=
  let x := getEst s e
  x.live && !x.desc.be && !x.desc.secure && decide (p < 16) &&
    (decide (x.desc.mode = 2) || (decide (x.desc.mode = 1) && decide (x.party = p))) && decide (n ≤ x.leaves.length)

/-- The lend test for a horizon `h`: 1.1 × D + t_in + t_back ≤ H (R229). -/
def lendTest (s : State) (e p dur h : Nat) (img : List Byte) : Bool :=
  let t := lendTimes s e p img
  decide (elevenTenths dur (effDiv s) + t.1 + t.2 ≤ h)

/-- DURATION_TCLK of a record, or its template's bound for 0 (R162, R224). -/
def durOf (r : List Byte) (img : List Byte) : Nat := if field r 32 8 = 0 then tDuration img else field r 32 8

/-- Whether some estate open to the party could ever pass the test (R230). -/
def couldBorrow (s : State) (p : Nat) (r : List Byte) (img : List Byte) : Bool :=
  (estates s).any fun e => openTo s e p (tLeavesMin img) && lendTest s e p (durOf r img) (maxHorizon s e) img

/-! ### Taking a record (R163, R221, R240) -/

/-- A completion of a record that starts no job (ESTATE 0xFF). -/
def refuseRec (r : List Byte) (status : Nat) (s : State) : State := completeRec r status 0 0xFF 0 0 0 0 s

/-- Whether a record is graphics, by its template. -/
def recGfx (s : State) (p : Nat) (r : List Byte) : Bool := match tmplOf s p (recHandle r) with | some t => tGraphics t.image | none => false

/-- Channel groups that the working DRAM of a lent job comes from: its BE estate's, or its grant's (R228, R233). -/
def lentMask (s : State) (p : Nat) : Nat :=
  match (estatesOf s p).find? fun e => (getEst s e).desc.be with
  | some e => (getEst s e).desc.cg
  | none => (reqGrant s p).cg

/-- The party's whole grant holds what a lent job needs on the least leaves it can run on (R224). -/
def lentHolds (s : State) (p : Nat) (img : List Byte) : Bool :=
  decide (planQOf img (List.range (tLeavesMin img)) ≤ (poolQueues s p).length) &&
    decide (needPieces img ≤ (((List.range 8).filter fun c => bitOf (lentMask s p) c).map fun c => (poolPieces s p c).length).sum)

/-- RECORD_TAKE (R163): the record at the head of a SUBMIT queue is taken, and refused at once, or waits for an estate. A
record that waits stops later ones of its queue (R221); a frozen guest's are not taken (R242). -/
def execRecordTake (q : BitVec 18) (s : State) : Res :=
  let q := q.toNat
  let k := getQ s q
  .next (match qOwner s q with
    | none => s
    | some p =>
      if !admitting s || !k.bound || decide (k.kind ≠ 2) || decide (k.len = 0) || (s.jobs.waiting.any fun w => decide (w.qid = q)) ||
          decide ((getParty s p).frozen ≠ 0) then s
      else
        let r := headEntry s q
        let ann := k.ann.headD s.ktime
        let s := popEntry q (modQ s q fun x => { x with ann := x.ann.drop 1 })
        if !cqOk s p r then discardRec p q s
        else match recBad s p q r with
          | some st => refuseRec r st s
          | none =>
            let img := match tmplOf s p (recHandle r) with | some t => t.image | none => []
            let be := queueBe s q
            let cs := candidates s p be (recDual r) img
            let n := if recDual r then 2 else 1
            let w : WaitRec := { qid := q, party := p, record := r, takenAt := s.ktime, annAt := ann, args := readArgs s r, be := be
                                 replay := bitOf (getQ s q).flags 2, gset := gsetOf s q, serial := s.jobs.serial }
            let keep := askPreempt w { s with jobs := { s.jobs with waiting := s.jobs.waiting ++ [w], serial := s.jobs.serial + 1 } }
            if cs.isEmpty then
              (if be && !recDual r && couldBorrow s p r img && lentHolds s p img then keep else refuseRec r stNO_RESOURCE s)
            else if !(cs.any fun e => grantHolds s p e n img) then refuseRec r stNO_RESOURCE s
            else if cs.all fun e => (getEst s e).held then refuseRec r stBUSY s
            else keep)

/-! ### Admission (R221 to R224, R229, R398) -/

/-- An estate that a job may start on: idle, with no change waiting, and not stopped by SAFE_STATE (R221, R222, R417). -/
def startable (s : State) (e : Nat) : Bool :=
  boundary s e && !(getEst s e).safeStop && (match (getEst s e).change with | .none => true | _ => false)

/-- A BE estate whose next self-test slice has fallen due: the slice goes first (R410). -/
def sliceDue (s : State) (e : Nat) : Bool :=
  let x := getEst s e
  x.desc.be && decide (x.test.source ≠ 0) && decide (x.test.cycleAt + x.test.next * x.test.dti * 100 / 5 ≤ s.ktime)

/-- The instances, queues and pieces of a job on estate `e`, for party `p` and the channel groups of `mask`. -/
def allocFor (s : State) (p e mask : Nat) (img : List Byte) : Option (List Inst × List Nat × List Nat) :=
  match plan img (getEst s e).leaves with
  | none => none
  | some is =>
    let fq := (freeQueues s p).take (planQ img is)
    if fq.length < planQ img is then none
    else (allocPieces s p mask (needPieces img)).map fun ps => (is, fq, ps)

/-- The job of a record on an estate, as it starts to switch. What its queue said when the record was taken stays with it (R162,
R279), and a pre-empted job goes on with what it had (R261). -/
def mkJob (s : State) (w : WaitRec) (img : List Byte) (lent : Bool) (copy twin : Nat) (a : List Inst × List Nat × List Nat) : Job :=
  { party := w.party, qid := w.qid, record := w.record, lent := lent, copy := copy, twin := twin, durTclk := durOf w.record img,
    div := effDiv s, takenAt := w.takenAt, annAt := w.annAt, insts := a.1, queues := a.2.1, pieces := if w.resumed then w.pieces else a.2.2,
    args := w.args, runTclk := w.ranTclk, saved := w.saved, graphics := tGraphics img, progress := s.ktime, startAt := s.ktime
    be := w.be, replay := w.replay, gset := w.gset, serial := w.serial, resumed := w.resumed, overrun := w.overrun, accRep := w.accRep
    unarmed := w.marks.1, fired := w.marks.2.1, keptLost := w.marks.2.2, bins := w.bins }

/-- Arms a write watch over each IMMUTABLE argument in DRAM of a job on a REPLAY queue, or leaves the job unarmed (R164). -/
def armWatches (e : Nat) (s : State) : State :=
  match jobOf s e with
  | none => s
  | some j =>
    if !j.replay || j.resumed then s
    else
      let img := jobImg s j
      let im := j.args.zipIdx.filter fun a => tBuffer img a.2 0 1 == 0 && bitOf (tBuffer img a.2 1 1) 0
      let ws := im.map fun a => ({ serial := j.serial, lo := field a.1 0 6 / 4096, hi := (field a.1 0 6 + max 1 (field a.1 8 4) - 1) / 4096 + 1 } : Watch)
      if (im.any fun a => decide (0x1000000000 ≤ field a.1 0 6)) || decide (256 < s.jobs.watches.length + ws.length) then
        modJob s e fun x => { x with unarmed := true }
      else { s with jobs := { s.jobs with watches := s.jobs.watches ++ ws } }

/-- Saves the kept buffers in place on an estate before other leaves' work (R161, R234). Without room in the party's JOB_POOL
DRAM the save is lost (assumption 28). -/
def saveKept (e : Nat) (s : State) : State :=
  match inPlace s e with
  | none => s
  | some (p, h) =>
    let home := homeOf s e p
    let n := (getEst s e).leaves.length
    match keptOf (readKept e s) home p h n with
    | none => s
    | some k =>
      if k.lost && k.data.isEmpty then s
      else if !k.pieces.isEmpty then s
      else match allocPieces s p (if (getEst s home).party = p then (getEst s home).desc.cg else lentMask s p) (piecesFor (keptBytesOf s p h)) with
        | some ps => putKept home { k with pieces := ps } s
        | none => putKept home { k with data := [], lost := true } s

/-- The segments that the instances of a job need on a leaf (R159). -/
def segNeed (img : List Byte) (is : List Inst) (l : Nat) : List Nat :=
  (List.range 8).filter fun k => (onLeaf is l).any fun i =>
    decide (i.region < (k + 1) * 0x40000) && decide (k * 0x40000 < i.region + sScratch img i.station)

/-- Switches the segments of an estate's leaves for its next job: those it does not need begin to close (R97), those it
needs come up and are zeroed (R99, R233). With `same` what is up stays as it is. -/
def segSwitch (e : Nat) (img : List Byte) (is : List Inst) (same : Bool) (s : State) : State :=
  (getEst s e).leaves.foldl (fun s l =>
    let b := segMask s l
    let need := segNeed img is l
    let s := (List.range 8).foldl (fun s k =>
      let g := tget (getLeaf s l).segs k
      if need.contains k then
        (if g = .off then segSet l k .zeroing s else if same then segSet l k .on s else segSet l k .zeroing (segWipe l k s))
      else if g = .off then s
      else modLeaf (segSet l k .closing s) l fun x => { x with closeAt := tput x.closeAt k s.ktime }) s
    let s := if same && decide (b = segMask s l) then s else modLeaf s l fun x => { x with image := if same then x.image else 0 }
    segEvent l b s) s

/-- Ends the switching of segments: zeroing has finished, and a closing one with no outstanding write is off (R97, R99). -/
def segSettle (e : Nat) (s : State) : State :=
  (getEst s e).leaves.foldl (fun s l =>
    let b := segMask s l
    let s := (List.range 8).foldl (fun s k => match tget (getLeaf s l).segs k with
      | .zeroing => segSet l k .on s
      | .closing => if segWrites s l k = 0 then segWipe l k (segSet l k .off s) else s
      | .refusing => if segWrites s l k = 0 then segWipe l k (segSet l k .off s) else s
      | _ => s) s
    segEvent l b s) s

/-- Notes the template among those whose kept buffers the estate holds, and whether they were lost (R161, R218). -/
def noteKept (home p h n : Nat) (s : State) : State × Bool :=
  if keptBytesOf s p h = 0 then (s, false)
  else match keptOf s home p h n with
    | none => (putKept home { party := p, handle := h, leaves := n } s, false)
    | some k => (putKept home { k with lost := false } s, k.lost)

/-- Puts a job on an estate and begins the switch (R233): the outgoing kept buffers are saved, and the segments switch. -/
def beginSwitch (e : Nat) (j : Job) (s : State) : State :=
  let h := recHandle j.record
  let same := !j.lent && sameTmpl s e j.party h
  let s := if same then s else saveKept e s
  let r := noteKept (homeOf s e j.party) j.party h (getEst s e).leaves.length s
  let s := modEst r.1 e fun x => { x with job := some { j with keptLost := j.keptLost || r.2 } }
  segSwitch e (jobImg s j) j.insts same s

/-- Admits a record to estate `e`, and to the partner for a dual record; none where the party's queues or DRAM are in use
(R224). -/
def admitRec (s : State) (w : WaitRec) (e : Nat) (lent : Bool) : Option State :=
  let img := recImg s w
  let dual := recDual w.record
  let mask := if lent then lentMask s w.party else (getEst s e).desc.cg
  (allocFor s w.party e mask img).bind fun a =>
    let f := partnerOf s e
    let s1 := beginSwitch e (mkJob s w img lent (if dual then 1 else 0) f a) s
    if dual then
      (allocFor s1 w.party f (getEst s f).desc.cg img).map fun b => beginSwitch f (mkJob s1 w img false 2 e b) s1
    else some s1

/-- The estate a record would start on as its own (R222): the same template and size, then the smallest switch time, then
the lowest number. -/
def ownPick (s : State) (w : WaitRec) : Option Nat :=
  let img := recImg s w
  let h := recHandle w.record
  let dual := recDual w.record
  let ok := fun (e : Nat) => startable s e && !sliceDue s e && (!dual || startable s (partnerOf s e)) && (plan img (getEst s e).leaves).isSome
  let ctx := fun (e : Nat) => if w.resumed then 65536 * (getEst s e).leaves.length else 0
  let cost := fun (e : Nat) => (if sameTmpl s e w.party h then 0 else 1,
    max (switchIn s e w.party h img (ctx e)) (if dual then switchIn s (partnerOf s e) w.party h img 0 else 0))
  ((candidates s w.party w.be dual img).filter ok).foldl (fun (b : Option Nat) e => match b with
    | none => some e
    | some y => if (cost e).1 < (cost y).1 ∨ ((cost e).1 = (cost y).1 ∧ (cost e).2 < (cost y).2) then some e else some y) none

/-- The estate a BE record would borrow (R229): it passes the test with the smallest t_in, then the lowest number. After
FW_ACTIVATE answered PENDING no lent job starts (R381). -/
def lendPick (s : State) (w : WaitRec) : Option Nat :=
  let img := recImg s w
  if decide (s.firm.act ≠ .none) || !w.be || recDual w.record then none
  else
    let ok := fun (e : Nat) => startable s e && (pairOf s e).isNone && openTo s e w.party (tLeavesMin img) &&
      (plan img (getEst s e).leaves).isSome && lendTest s e w.party (durOf w.record img) (horizon s e) img
    ((estates s).filter ok).foldl (fun (b : Option Nat) e => match b with
      | none => some e
      | some y => if (lendTimes s e w.party img).1 < (lendTimes s y w.party img).1 then some e else some y) none

/-- Whether the record's completion queue lets a job start: the Kettle holds none of its records (R149). -/
def cqFree (s : State) (w : WaitRec) : Bool := (getQ s (recCq w.record)).held.isEmpty

/-- A record before another in the order of service: by the time of its announcement, then by queue (R221). -/
def recBefore (a b : WaitRec) : Bool := decide (a.annAt < b.annAt) || (decide (a.annAt = b.annAt) && decide (a.qid < b.qid))

/-- The start of a record on its own party's estate, if it can be made now. -/
def ownStart (s : State) (w : WaitRec) : Option State :=
  if !cqFree s w || decide ((getParty s w.party).frozen ≠ 0) then none else (ownPick s w).bind fun e => admitRec s w e false

/-- The start of a record on a borrowed estate, if it can be made now. -/
def lentStart (s : State) (w : WaitRec) : Option State :=
  if !cqFree s w || decide ((getParty s w.party).frozen ≠ 0) then none else (lendPick s w).bind fun e => admitRec s w e true

/-- An older announced record of another queue of the party and class is still to be taken (R221). -/
def olderUntaken (s : State) (w : WaitRec) : Bool :=
  s.queue.any fun x => decide (x.2.kind = 2) && x.2.bound && decide (x.2.len ≠ 0) && decide (x.1 ≠ w.qid) &&
    decide (qOwner s x.1 = some w.party) && (bitOf x.2.flags 3 == w.be) && !(s.jobs.waiting.any fun y => decide (y.qid = x.1)) &&
    (match x.2.ann with | a :: _ => decide (a < w.annAt) || (decide (a = w.annAt) && decide (x.1 < w.qid)) | [] => false)

/-- No older record of the same party and class is still to be taken, or could start in its place (R221). -/
def isTurn (s : State) (w : WaitRec) (f : WaitRec → Option State) : Bool :=
  !olderUntaken s w &&
  !(s.jobs.waiting.any fun x => decide (x.party = w.party) && (x.be == w.be) && decide (x.qid ≠ w.qid) && recBefore x w && (f x).isSome)

/-- No party served before this one in turn could borrow with its oldest record (R229). -/
def lendTurn (s : State) (w : WaitRec) : Bool :=
  let dist := fun (p : Nat) => (p + 31 - s.jobs.lastParty) % 16
  !(s.jobs.waiting.any fun x => decide (dist x.party < dist w.party) && isTurn s x (lentStart s) && (lentStart s x).isSome)

/-- The record no longer waits. -/
def dropRec (w : WaitRec) (s : State) : State :=
  { s with jobs := { s.jobs with waiting := s.jobs.waiting.filter fun x => decide (x.serial ≠ w.serial) } }

/-- After a start: the record no longer waits, its inputs are watched, a graphics job has its bin memory, and records that still
wait may ask for a pre-emption (R260). -/
def started (w : WaitRec) (s : State) : State :=
  let s := dropRec w s
  match (estates s).find? fun e => match jobOf s e with | some j => decide (j.serial = w.serial ∧ j.phase = .switching ∧ j.copy ≠ 2) | none => false with
  | none => s
  | some e =>
    let s := armWatches e s
    match jobOf s e with
    | some j =>
      askAll (if j.graphics then modGfx s e fun _ => if w.resumed then w.gfx else { cap := j.pieces.length * pieceBytes } else s)
    | none => s

/-- JOB_START (R221 to R225, R229): the waiting record of queue `q` is admitted to an idle candidate, or to a lent estate,
and the switch begins. With every candidate held it ends BUSY (R240). -/
def execJobStart (q : BitVec 18) (s : State) : Res :=
  .next (match s.jobs.waiting.find? fun w => decide (w.qid = q.toNat) with
    | none => s
    | some w =>
      if !admitting s then s
      else
        let drop := dropRec w
        let cs := candidates s w.party w.be (recDual w.record) (recImg s w)
        if !cqOk s w.party w.record then discardRec w.party w.qid (drop s)
        else if !cs.isEmpty && cs.all fun e => (getEst s e).held then refuseRec w.record stBUSY (drop s)
        else match (if isTurn s w (ownStart s) then ownStart s w else none) with
          | some t => started w t
          | none =>
            if (ownPick s w).isNone && isTurn s w (lentStart s) && lendTurn s w then
              match lentStart s w with
              | some t => started w { t with jobs := { t.jobs with lastParty := w.party } }
              | none => s
            else s)

/-! ### The start of a run (R159, R160, R233, R389, R544) -/

/-- Bytes that an instance's argument block takes (R544). -/
def argBytes (j : Job) : Nat := 16 * (j.args.length + 1) + 8 * j.pieces.length

/-- What an instance's region holds before its rings are placed: its image and argument block, and its kept buffers. -/
def regionUsed (j : Job) (img : List Byte) (x : Inst) : List (Nat × Nat) :=
  (0, argOff img x.station + argBytes j) :: (keptPlaces img [x]).map fun k => (k.1 - (spBase x.leaf + x.region), k.2)

/-- Offsets in a region at which `size` bytes fit aligned and overlap nothing that it holds. -/
def roomsIn (img : List Byte) (x : Inst) (used : List (Nat × Nat)) (size align : Nat) : List Nat :=
  let base := spBase x.leaf + x.region
  let first := (base + align - 1) / align * align - base
  ((List.range (sScratch img x.station / align + 1)).map fun i => first + i * align).filter fun o =>
    decide (o + size ≤ sScratch img x.station) && used.all fun u => decide (o + size ≤ u.1) || decide (u.1 + u.2 ≤ o)

/-- Where the placer puts a queue's ring (part 0) or tile buffers (part 1) in its consumer's region: one of the aligned places
left, chosen by the placer (R160, R235, assumption 29). -/
def ringPlace (img : List Byte) (x : Inst) (used : List (Nat × Nat)) (qi part size align : Nat) : Nat :=
  let rs := roomsIn img x used size align
  rs.getD (Config.placed img qi x.inst part % max 1 rs.length) 0

/-- The ring and the tile buffers of each internal queue of a consumer instance, queue by queue: queue, offsets in the region. -/
def ringsOf (j : Job) (img : List Byte) (x : Inst) : List (Nat × Nat × Nat) :=
  (((List.range (tQueues img)).filter fun i => decide (tQueue img i 1 1 = x.station)).foldl
    (fun (a : List (Nat × Nat × Nat) × List (Nat × Nat)) i =>
      let n := 2 ^ tQueue img i 2 1
      let sh := tQueue img i 3 1
      let ring := n * (16 * 2 ^ (sh % 4))
      let tiles := if bitsOf sh 3 2 = 0 then n * tQueue img i 8 4 else 0
      let r := ringPlace img x a.2 i 0 ring ring
      let u := a.2 ++ [(r, ring)]
      let b := if tiles = 0 then 0 else ringPlace img x u i 1 tiles 256
      (a.1 ++ [(i, r, b)], u ++ [(b, tiles)])) ([], regionUsed j img x)).1

/-- Sets entry `n` of the queue map of an instance. -/
def mapPut (x : Inst) (n q : Nat) (s : State) : State := modLeaf s x.leaf fun f => { f with qmap := tput f.qmap (x.first * 256 + n) (q + 1) }

/-- Binds the internal queues of a job and fills its instances' queue maps (R160). -/
def bindInternal (e : Nat) (j : Job) (img : List Byte) (s : State) : State :=
  let all := (List.range (tQueues img)).flatMap fun i =>
    (j.insts.filter fun x => decide (x.station = tQueue img i 1 1)).map fun x => (i, x)
  (all.zip j.queues).foldl (fun s a =>
    let i := a.1.1
    let x := a.1.2
    let lg := tQueue img i 2 1
    let sh := tQueue img i 3 1
    let base := spBase x.leaf + x.region
    let at_ := (((ringsOf j img x).find? fun y => decide (y.1 = i)).map (·.2)).getD (0, 0)
    let s := modQ s a.2 fun _ =>
      { bound := true, base := base + at_.1, lg := lg, esize := sh % 4, kind := bitsOf sh 3 2
        stride := tQueue img i 8 4, tbase := if bitsOf sh 3 2 = 0 then base + at_.2 else 0
        owner := e + 1, pStation := tQueue img i 0 1, cStation := x.station, cInst := x.inst }
    let b := tQueue img i 4 1
    let s := (j.insts.filter fun y => decide (y.station = tQueue img i 0 1)).foldl (fun s y => mapPut y (b + x.inst) a.2 s) s
    mapPut x b a.2 s) s

/-- Names the external queues in the maps of their producing stations' instances (Table 5.14). -/
def bindExternal (j : Job) (img : List Byte) (s : State) : State :=
  j.args.zipIdx.foldl (fun s a =>
    if tBuffer img a.2 0 1 = 3 then
      (j.insts.filter fun x => decide (x.station = tBuffer img a.2 8 1)).foldl (fun s x =>
        mapPut x (tBuffer img a.2 9 1) (field a.1 0 6 % 2 ^ 18) s) s
    else s) s

/-- The argument block of R544. -/
def argBlock (j : Job) : List Byte :=
  j.args.flatMap id ++ leBytes 6 0 ++ leBytes 2 0xFFFF ++ leBytes 4 j.pieces.length ++ leBytes 4 0 ++ j.pieces.flatMap fun a => leBytes 8 a

/-- Starts every thread of a job (R389, R544), or resumes those of a pre-empted job that had not halted (R261). -/
def startThreads (e : Nat) (s : State) : State :=
  match jobOf s e with
  | none => s
  | some j =>
    let img := jobImg s j
    let s := j.insts.foldl (fun s x => (List.range (sThreads img x.station)).foldl (fun s t =>
      let k := x.leaf * 64 + x.first + t
      let nv := sVregs img x.station
      let regs : Tab Word := tput (tput (tput (tput [] 1 (BitVec.ofNat 32 t)) 2 (BitVec.ofNat 32 x.inst)) 3 (BitVec.ofNat 32 x.region))
        4 (BitVec.ofNat 32 (x.region + argOff img x.station))
      let s := modTh s k fun _ =>
        { mode := .running, bound := true, regs := regs, pc := x.region + sEntry img x.station, station := x.station, inst := x.inst
          tnum := t, nv := nv, vbase := x.vbase + t * nv, accs := if t = 0 then sAcc img x.station else 0 }
      let s := { s with lv := { s.lv with vregs := tclear s.lv.vregs (vkey s k 0) (nv * 128), badVec := tclear s.lv.badVec (vkey s k 0) (nv * 128) } }
      let key := (x.station * 256 + x.inst) * 64 + t
      match j.saved.find? fun y => decide (y.1 = key) with
      | some y => checkpoint k (restore k (modTh s k fun u =>
          { u with shadow := y.2, bin := match j.bins.find? fun z => decide (z.1 = key) with | some z => z.2 | none => 0 }))
      | none => checkpoint k (if j.resumed then modTh s k fun u => { u with mode := .halted } else s)) s) s
    let s := modJob s e fun x => { x with phase := .running, progress := s.ktime, saved := [], bins := [], resumed := false }
    if j.resumed then faultRec e 4 0 s else s

/-- The leaf holds every image of its instances from the last Pour (R389). -/
def holdsImages (s : State) (j : Job) (img : List Byte) (mark l : Nat) : Bool :=
  decide ((getLeaf s l).image = mark) && (onLeaf j.insts l).all fun x =>
    decide (memRead s (spBase l + x.region) (sImageBytes img x.station) = sImage img x.station)

/-- The mark of a template on an estate of `n` leaves. -/
def imageMark (p h n : Nat) : Nat := (p * 65536 + h) * 256 + n + 1

/-- A packet's payload lands at its place in a leaf's scratchpad, reloadable from the copy it came from (R90, R386). -/
def landPacket (l : Nat) (p : List Byte) (s : State) : State :=
  spPut l (field p 16 4 + field p 4 4 * 4064) 65 ((p.drop 28).take (field p 12 2)) s

/-- Every packet of the images of a leaf's instances has landed (R386, R389). -/
def landImages (j : Job) (img : List Byte) (mark l : Nat) (s : State) : State :=
  let s := (onLeaf j.insts l).foldl (fun s x =>
    (pourPackets j.image (sImage img x.station) x.region).foldl (fun s p => landPacket l p s) s) s
  modLeaf s l fun f => { f with image := mark, missed := [], missedN := 0, attempt := 0 }

/-- A leaf has its images: once every leaf has, all threads start (R389). -/
def leafLoaded (e l : Nat) (s : State) : State :=
  match jobOf s e with
  | none => s
  | some j =>
    let s := landImages j (jobImg s j) (imageMark j.party (recHandle j.record) (getEst s e).leaves.length) l s
    let s := modJob s e fun x => { x with loading := x.loading.filter fun y => decide (y ≠ l) }
    match jobOf s e with
    | some k => if k.loading.isEmpty then startThreads e s else s
    | none => s

/-- Starts the job on an estate after its switch: kept buffers are restored, queues bound, argument blocks written, and
Pour begins; with nothing to pour the threads start at once (R389). -/
def startRun (e : Nat) (s : State) : State :=
  match jobOf s e with
  | none => s
  | some j =>
    let img := jobImg s j
    let h := recHandle j.record
    let s := writeKept e j.party h (segSettle e s)
    let s := bindExternal j img (bindInternal e j img s)
    let s := j.insts.foldl (fun s x => spPut x.leaf (x.region + argOff img x.station) 0 (argBlock j) s) s
    let mark := imageMark j.party h (getEst s e).leaves.length
    let ls := (jobLeaves j).filter fun l => !holdsImages s j img mark l
    let ls := leafIdx.filter fun l => ls.contains l
    let s := ls.foldl (fun s l => modLeaf s l fun f => { f with attempt := 1, missed := [], missedN := 0 }) s
    let id := s.jobs.imageId
    let s := modJob s e fun x => { x with phase := .pouring, startAt := if x.replayed then x.startAt else s.ktime,
                                          progress := s.ktime, loading := ls, image := id }
    let s := { s with jobs := { s.jobs with imageId := (id + 1) % 2 ^ 32 } }
    if ls.isEmpty then startThreads e s else s

/-- The switch back to the owner of a lent estate ends: the lent job's kept buffers are saved and the owner's restored
(R232, R234). -/
def finishBack (e : Nat) (s : State) : State :=
  let s := saveKept e s
  let x := getEst s e
  let own := if x.last.2.2 = 0 then none else some (x.last.1, x.last.2.1)
  let img := match own with | some t => (match tmplOf s t.1 t.2 with | some y => y.image | none => []) | none => []
  let is := (plan img x.leaves).getD []
  let s := segSettle e (segSwitch e img is false s)
  let s := match own with | some t => writeKept e t.1 t.2 s | none => s
  modEst s e fun y => { y with switchBack := false, lentBy := none }

/-- ESTATE_SWITCH_DONE (R233): the switch on an estate ends. A dual job starts once both of its estates have switched
(R398). -/
def execEstateSwitchDone (e : Fin 16) (s : State) : Res :=
  let e := e.val
  let x := getEst s e
  .next (match x.job with
    | some j =>
      if j.phase ≠ .switching || decide (s.pw.st ≠ .run) || s.pw.pllLost then s
      else if j.copy = 0 then startRun e s
      else
        let s := modJob s e fun k => { k with switched := true }
        match jobOf s j.twin with
        | some t => if t.switched && decide (t.phase = .switching) then startRun (max e j.twin) (startRun (min e j.twin) s) else s
        | none => s
    | none => if x.live && x.switchBack && !x.recovering && !x.held && !s.pw.pllLost then settle (finishBack e s) else s)

/-! ### Pour (R386 to R389) -/

/-- Event 0xA010, with the packets pulled. -/
def pullEvent (l img pulled : Nat) (p : Nat) (s : State) : State :=
  event srcAfzan 0xA010 p (leBytes 2 l ++ leBytes 4 img ++ leBytes 2 pulled) s

/-- Event 0xA011. -/
def reloadEvent (l img attempt missed : Nat) (p : Nat) (s : State) : State :=
  event srcAfzan 0xA011 p (leBytes 2 l ++ leBytes 4 img ++ leBytes 1 attempt ++ leBytes 2 missed) s

/-- What Pour's packets to a leaf meet on the mesh: an uncorrectable flit error is reported (R21, R395). -/
def pourFabric (l : Nat) (s : State) : State :=
  match flitError s (iniStop .pour) l with
  | some x => fabricHit (0, x, 0) s
  | none => s

/-- The first address of a template's copy that is refused to the Pour engine, with why (R31, R32). -/
def pourRefused (s : State) (j : Job) : Option (Nat × Verdict) :=
  let ps := match tmplOf s j.party (recHandle j.record) with | some t => t.pieces | none => []
  (ps.flatMap fun a => [a, a + pieceBytes - 64]).findSome? fun a =>
    match target s .pour (whoOf s .pour) false a with | .accept => none | v => some (a, v)

/-- A load whose copy is refused fails: its job ends ABORTED with DENIED, and no leaf is fenced (Table 1.7). -/
def pourDenied (e : Nat) (x : Nat × Verdict) (s : State) : State :=
  settle (abortJob e stDENIED (refuseEvent (detector s x.1) (whoOf s .pour) false x.1 x.2 s))

/-- POUR_BROADCAST_END (R387): every leaf that missed nothing holds its images; one that missed 1 to 64 packets pulls them,
and one that missed more reloads the whole image. -/
def execPourBroadcastEnd (e : Fin 16) (missed : List (Fin 168 × List Nat)) (s : State) : Res :=
  let e := e.val
  .next (match jobOf s e with
    | none => s
    | some j =>
      if j.phase ≠ .pouring then s
      else match pourRefused s j with
      | some x => pourDenied e x s
      | none =>
        let s := j.loading.foldl (fun s l => pourFabric l s) s
        (j.loading.filter fun l => decide ((getLeaf s l).attempt = 1) && (getLeaf s l).missed.isEmpty && decide ((getLeaf s l).missedN = 0)).foldl
        (fun s l =>
          let m := ((missed.filter fun x => decide (x.1.val = l)).flatMap (·.2)).foldl (fun a n => insertNat n a) []
          if m.isEmpty then leafLoaded e l s
          else
            let s := modLeaf s l fun f => { f with missedN := m.length, missed := if m.length ≤ 64 then m else [] }
            if m.length ≤ 64 then s else reloadEvent l j.image 1 m.length j.party s) s)

/-- An attempt on leaf `l` failed: the next is a whole reload, and after the third the leaf is fenced (R388). -/
def pourFailed (l : Nat) (j : Job) (s : State) : State :=
  let f := getLeaf s l
  if 3 ≤ f.attempt then fence l 2 s
  else reloadEvent l j.image (f.attempt + 1) f.missedN j.party (modLeaf s l fun x => { x with attempt := x.attempt + 1, missed := [] })

/-- The job whose images a leaf is loading. -/
def loadingJob (s : State) (l : Nat) : Option (Nat × Job) :=
  (estOf s l).bind fun e => (jobOf s e).bind fun j => if j.phase = .pouring ∧ j.loading.contains l then some (e, j) else none

/-- POUR_PULL_DONE (R387, R388): a missed packet returns, in ascending order. Event 0xA010 comes with the last, or with the
one whose CRC fails (assumption 107). -/
def execPourPullDone (leaf : Fin 168) (r : PullResult) (s : State) : Res :=
  let l := leaf.val
  .next (match loadingJob s l with
    | none => s
    | some (e, j) =>
      match (getLeaf s l).missed with
      | [] => s
      | _ :: rest =>
        let s := pourFabric l s
        match pourRefused s j with
        | some x => pourDenied e x s
        | none =>
        match r with
        | .dataError => abortOn l stDATA_ERROR s
        | .crcFail => pourFailed l j (pullEvent l j.image ((getLeaf s l).missedN - rest.length) j.party s)
        | .good =>
          if rest.isEmpty then leafLoaded e l (pullEvent l j.image (getLeaf s l).missedN j.party s)
          else modLeaf s l fun f => { f with missed := rest })

/-- POUR_RELOAD_DONE (R388): a whole unicast reload ends. -/
def execPourReloadDone (leaf : Fin 168) (r : PullResult) (s : State) : Res :=
  let l := leaf.val
  .next (match loadingJob s l with
    | none => s
    | some (e, j) =>
      let f := getLeaf s l
      let s := pourFabric l s
      if !f.missed.isEmpty || decide (f.missedN = 0) then s
      else match pourRefused s j with
      | some x => pourDenied e x s
      | none =>
      match r with
        | .dataError => abortOn l stDATA_ERROR s
        | .crcFail => pourFailed l j s
        | .good => leafLoaded e l s)

/-! ### Limits of a run -/

/-- JOB_STALLED (R165): STALL_US passed without progress; suspended while a thread of a dual job waits at a checkpoint
(R401), and checked only after an activation window (R382). -/
def execJobStalled (e : Fin 16) (s : State) : Res :=
  let e := e.val
  .next (match jobOf s e with
    | none => s
    | some j =>
      let run := decide (j.phase = .running) || decide (j.phase = .pouring)
      let wait := (jobThreads s j).any fun k => match (getTh s k).mode with | .taster => true | _ => false
      if !run || wait || decide (s.firm.act = .open_) || decide (s.ktime < j.progress + tStallUs (jobImg s j) * 100) then s
      else
        let s := event srcAfzan 0xA040 j.party (leBytes 1 e ++ leBytes 2 (recHandle j.record) ++ leBytes 4 (recTag j.record)) s
        settle (abortJob e stTIMEOUT s))

/-- DURATION_OVERRUN (R227): a job on its own party's estate reaches DURATION_TCLK cycles; the event is written once. -/
def execDurationOverrun (e : Fin 16) (s : State) : Res :=
  let e := e.val
  .next (match jobOf s e with
    | none => s
    | some j =>
      if j.lent || j.overrun || decide (j.runTclk < j.durTclk) then s
      else event srcAfzan 0xA042 j.party (leBytes 1 e ++ leBytes 1 j.party ++ leBytes 2 (recHandle j.record) ++
          leBytes 4 (j.durTclk * j.div / 13200)) (modJob s e fun x => { x with overrun := true }))

/-- LEND_KILL (R231): a lent job reaches 1.1 × DURATION_TCLK cycles. Its kept buffers are lost. -/
def execLendKill (e : Fin 16) (s : State) : Res :=
  let e := e.val
  .next (match jobOf s e with
    | none => s
    | some j =>
      if !j.lent || decide (10 * j.runTclk < 11 * j.durTclk) then s
      else
        let h := recHandle j.record
        let s := event srcAfzan 0xA041 j.party (leBytes 1 e ++ leBytes 1 (getEst s e).party ++ leBytes 1 j.party ++ leBytes 2 h ++
          leBytes 4 (recTag j.record)) s
        let s := loseKept (homeOf s e j.party) j.party h (getEst s e).leaves.length (abortJob e stOVERDUE s)
        settle (modEst s e fun x => { x with lentBy := none }))

end Sys2Proof.Machine
end

