-- ==== Sys2Proof/Machine/Recovery.lean ====
section
/-! DEFINITION. Leaf heartbeats, segments, the end of a recovery with its replay, and localisation (R97, R99, R102, R104,
R239, R240, R407). -/

namespace Sys2Proof.Machine

/-- LEAF_HEARTBEAT (R102, R382): a leaf answers, or misses; two consecutive misses fence it. Paused in an activation
window. -/
def execLeafHeartbeat (leaf : Fin 168) (answered : Bool) (s : State) : Res :=
  let l := leaf.val
  let x := getLeaf s l
  .next (
    if x.kind ≠ .enabled ∨ s.firm.act = .open_ ∨ s.pw.st ≠ .run then s
    else if answered then modLeaf s l fun y => { y with misses := 0 }
    else
      let n := x.misses + 1
      let s := modLeaf s l fun y => { y with misses := n }
      let s := event srcAfzan 0x1005 (leafOwner s l) (leBytes 2 l ++ leBytes 1 n) s
      if 2 ≤ n then fence l 3 s else s)

/-! ### Segments (R97, R99) -/

/-- SEGMENT_CLOSE_TIMEOUT: 100 µs after the mark, a closing segment whose outstanding-write counter is not zero takes no more
writes. -/
def execSegmentCloseTimeout (leaf : Fin 168) (seg : Fin 8) (s : State) : Res :=
  let x := getLeaf s leaf.val
  .next (if tget x.segs seg.val = .closing ∧ tget x.closeAt seg.val + 10000 ≤ s.ktime ∧ segWrites s leaf.val seg.val ≠ 0 then
      segSet leaf.val seg.val .refusing s
    else s)

/-- SEGMENT_OFF: the outstanding-write counter of a closing segment is zero; its contents are lost. -/
def execSegmentOff (leaf : Fin 168) (seg : Fin 8) (s : State) : Res :=
  let g := tget (getLeaf s leaf.val).segs seg.val
  .next (if (g = .closing ∨ g = .refusing) ∧ segWrites s leaf.val seg.val = 0 then
      segEvent leaf.val (segMask s leaf.val) (segWipe leaf.val seg.val (segSet leaf.val seg.val .off s))
    else s)

/-- SEGMENT_ZEROED: a segment that was switched on accepts accesses. -/
def execSegmentZeroed (leaf : Fin 168) (seg : Fin 8) (s : State) : Res :=
  .next (if tget (getLeaf s leaf.val).segs seg.val = .zeroing then segSet leaf.val seg.val .on s else s)

/-! ### The end of a recovery (R104, R232, R239, R240) -/

/-- Starts the automatic replay of a job on its estate, where it can run there again: its inputs are unchanged, there are enough
leaves, its pair still stands, and a lent job passes the lend test again (R104, R164, R232, R238, R407). -/
def replayStart (s : State) (e : Nat) (j : Job) : Option State :=
  let img := jobImg s j
  let dual := decide (j.copy ≠ 0)
  let f := j.twin
  let lentOk := openTo s e j.party (tLeavesMin img) && lendTest s e j.party j.durTclk (horizon s e) img && decide (s.firm.act = .none)
  let pairOk := match pairOf s e with | some x => decide (x.primary = e) && decide (x.partner = f) | none => false
  if j.fired = true ∨ (getEst s e).leaves.length < tLeavesMin img ∨ (j.lent && !lentOk) = true ∨ (dual && !pairOk) = true then none
  else
    let mask := if j.lent then lentMask s j.party else (getEst s e).desc.cg
    let put := fun (s : State) (x copy twin : Nat) (a : List Inst × List Nat × List Nat) =>
      let r := noteKept (homeOf s x j.party) j.party (recHandle j.record) (getEst s x).leaves.length s
      let k : Job := { j with phase := .switching, copy := copy, twin := twin, replayed := true, div := effDiv s, runTclk := 0, runRem := 0,
                              overrun := false, keptLost := j.keptLost || r.2, insts := a.1, queues := a.2.1, pieces := a.2.2,
                              accRep := [], loading := [], switched := false, ended := ([], false, false), saved := [], bins := [],
                              resumed := false, progress := s.ktime }
      let s := modEst r.1 x fun y => { y with job := some k, switchBack := false, lentBy := none, replay := none }
      let s := if j.graphics then modGfx s x fun _ => { cap := a.2.2.length * pieceBytes } else s
      segSwitch x img a.1 true s
    let s0 := modEst s e fun x => { x with replay := none }
    (allocFor s0 j.party e mask img).bind fun a =>
      let s1 := put s0 e j.copy f a
      if dual then (allocFor s1 j.party f (getEst s f).desc.cg img).map fun b => startRun f (startRun e (put s1 f 2 e b))
      else some (startRun e s1)

/-- A replay that waits does not start: its job's completion is written, with the report its run left (R166, R167). -/
def dropReplay (e status reason : Nat) (s : State) : State :=
  match (getEst s e).replay with
  | none => s
  | some j =>
    let s := modEst s e fun x => { x with replay := none }
    let c := closeRec { job := j, est := e, secs := j.ended.1, left := j.ended.2.1, run := j.runTclk } status reason s
    writeDone (recCq j.record, j.serial, c.2) c.1

/-- The replay of an estate's job starts, or the job ends ABORTED with reason FENCED and the report its run left. Answers whether
it started (R104, R166). -/
def endReplay (e : Nat) (s : State) : State × Bool :=
  match (getEst s e).replay with
  | none => (s, false)
  | some j =>
    match replayStart s e j with
    | some t => (t, true)
    | none => (dropReplay e stABORTED stFENCED s, false)

/-- The next held estate is recovered, in the order of the faults; its held completion is written (R240). -/
def nextHeld (s : State) : State :=
  match s.jobs.heldQ with
  | [] => s
  | h :: rest =>
    let s := { s with jobs := { s.jobs with heldQ := rest } }
    if s.jobs.localise.any fun x => decide (x.1 = h) then
      let es := match jobOf s h, pairOf s h with
        | some j, _ => jobEsts h j
        | none, some x => [x.primary, x.partner]
        | none, none => [h]
      es.foldl (fun s e => modEst s e fun x => { x with recovering := true, held := false })
        { s with jobs := { s.jobs with recovery := h + 1, recAt := s.ktime } }
    else
      let s := match (getEst s h).heldDone with
        | some d => writeDone d (modEst s h fun x => { x with heldDone := none })
        | none => s
      beginRecovery h s

/-- The estates in recovery (R105, R407). -/
def recoveringEsts (s : State) : List Nat := (estates s).filter fun e => (getEst s e).recovering

/-- Ends the recovery in flight: the estates admitRec jobs again, and the next held estate follows. -/
def endRecovery (s : State) : State :=
  let es := recoveringEsts s
  let s := es.foldl (fun s e => modEst s e fun x => { x with recovering := false }) s
  nextHeld { s with jobs := { s.jobs with recovery := 0 } }

/-- Whether the recovery in flight is a localisation whose golden frame has not ended (R407). -/
def localising (s : State) : Option (Nat × Nat) :=
  s.jobs.localise.find? fun x => decide (s.jobs.recovery = x.1 + 1) && (getEst s x.1).recovering

/-- RECOVERY_END (R239): event 0xA046, the estate admits jobs, its replay starts, and a lent estate goes back to its owner.
It waits for the end of an activation window (R382) and of a localisation (R407). -/
def execRecoveryEnd (s : State) : Res :=
  .next (
    if s.jobs.recovery = 0 ∨ s.firm.act = .open_ ∨ (localising s).isSome ∨ s.safe.halted then s
    else
      let e := s.jobs.recovery - 1
      let us := (s.ktime - s.jobs.recAt) / 100
      let es := recoveringEsts s
      let s := es.foldl (fun s x => modEst s x fun y => { y with recovering := false }) s
      let rs := (estates s).filter fun x => match (getEst s x).replay with
        | some j => (jobEsts x j).any fun y => es.contains y
        | none => false
      let r := rs.foldl (fun (a : State × Bool) x => let t := endReplay x a.1; (t.1, a.2 || t.2)) (s, false)
      let s := es.foldl (fun s x => if (getEst s x).switchBack && (getEst s x).job.isNone then finishBack x s else s) r.1
      let s := event srcAfzan 0xA046 (getEst s e).party (leBytes 1 e ++ leBytes 4 us ++ leBytes 1 (b2n r.2)) s
      settle (nextHeld { s with jobs := { s.jobs with recovery := 0 } }))

/-! ### Localisation (R407) -/

/-- Event 0x3008. -/
def localEvent (p leaf trigger : Nat) (s : State) : State :=
  event srcAfzan 0x3008 (getEst s p).party (leBytes 1 p ++ leBytes 2 leaf ++ leBytes 1 trigger) s

/-- GOLDEN_FRAME_DONE: a leaf whose golden signature differs is fenced and the recovery goes on; with none the job ends
ABORTED, DATA_ERROR after a mismatch and TIMEOUT after a miss. -/
def execGoldenFrameDone (failed : List (Fin 168)) (s : State) : Res :=
  .next (match localising s with
    | none => s
    | some (p, trig) =>
      if s.firm.act = .open_ ∨ s.safe.halted then s
      else
        let es := match jobOf s p with | some j => jobEsts p j | none => [p]
        let ls := leafIdx.filter fun l => (failed.any fun f => decide (f.val = l)) && es.any fun e => (getEst s e).leaves.contains l
        let s := { s with jobs := { s.jobs with localise := s.jobs.localise.filter fun x => decide (x.1 ≠ p) } }
        match ls with
        | [] =>
          let s := localEvent p 0xFFFF trig s
          settle (endRecovery (abortJob p (if trig = 0 then stDATA_ERROR else stTIMEOUT) s))
        | l :: _ =>
          let e := (es.find? fun x => (getEst s x).leaves.contains l).getD p
          let s := ls.foldl (fun s x => fenceOnly x 5 (localEvent p x trig s)) s
          let s := faultJob p false s
          let s := { s with jobs := { s.jobs with recovery := e + 1, recAt := s.ktime } }
          settle (es.foldl (fun s x => repairEst x s) s))

end Sys2Proof.Machine
end

