-- ==== Sys2Proof/Machine/Units.lean ====
section
/-! DEFINITION. Shared work of the hardware units and of the mailbox messages that open them: transfers over the bus in
line-sized transactions, queue forms, image descriptors with the field that fails, and free values (R79, R138, R147, R247). -/

namespace Sys2Proof.Machine

/-! ### Checks of a message -/

/-- The offset of the first field of a list that fails. -/
def firstBad : List (Nat × Bool) → Option Nat
  | [] => none
  | (o, b) :: r => if b then some o else firstBad r

/-- BAD_ARG for the first field of the payload that fails, else the rest of the message's checks. -/
def checked (fs : List (Nat × Bool)) (s : State) (k : State × Option Ans) : State × Option Ans :=
  match firstBad fs with | some o => (s, some (badArg o)) | none => k

/-- An answer at once. -/
def say (a : Ans) (s : State) : State × Option Ans := (s, some a)
/-- The first refusal of a list whose condition holds, else the rest. -/
def refusedBy (rs : List (Bool × Nat)) (s : State) (k : State × Option Ans) : State × Option Ans :=
  match rs.find? (·.1) with | some r => (s, some (sts r.2)) | none => k

/-- Whether payload bytes [off, off + n) are not all 0. -/
def rsvBad (m : Msg) (off n : Nat) : Bool := decide (fld m off n ≠ 0)

/-- A queue of the party's own range for a new request: not in a JOB_POOL block (R140, R214). -/
def qReq (s : State) (p q : Nat) : Bool := (reqGrant s p).qblocks.any fun b => decide (b.block = q / 64) && !b.pool

/-- Whether a queue is bound in a form: kind, entry size code, and the class at its producer or consumer end. -/
def qForm (s : State) (q kind esz : Nat) (prod cons : Option Nat) : Bool :=
  let k := getQ s q
  k.bound && decide (k.kind = kind) && decide (k.esize = esz) && (match prod with | some c => decide (k.prod = c) | none => true) &&
    (match cons with | some c => decide (k.cons = c) | none => true)

/-- Free slots of a queue. -/
def freeSlots (s : State) (q : Nat) : Nat := (getQ s q).n - (getQ s q).used

/-- The initiator class to which a queue's ends give software: an application core or the PCIe host port (R138). -/
def swEnd (c : Nat) : Bool := c == 1 || c == 8

/-- A power of two not above 2¹⁶. -/
def isPow2 (n : Nat) : Bool := (List.range 17).any fun i => decide (n = 2 ^ i)

/-! ### Image descriptors -/

/-- Offset of the first field of an image descriptor that breaks a range of Table 9.1, for a use given by its formats. -/
def imgBad (use : Nat → Bool) (d : List Byte) : Option Nat :=
  let f := fun (o n : Nat) => field d o n
  let lay := f 7 1
  let swz := lay % 4 == 1
  let two := f 6 1 == 16 || f 6 1 == 17
  firstBad [(0, decide (f 0 6 % (if swz then 4096 else 256) ≠ 0)), (6, !use (f 6 1)),
    (7, decide (2 ≤ lay % 4) || decide (bitsOf lay 3 2 = 3) || decide (bitsOf lay 7 4 = 15) || (!swz && decide (lay ≠ 0))),
    (8, decide (f 8 2 = 0) || decide (16384 < f 8 2)), (10, decide (f 10 2 = 0) || decide (16384 < f 10 2)),
    (12, decide (f 12 2 = 0) || decide (2048 < f 12 2)), (14, decide (64 ≤ f 14 2) || decide (f 14 2 % 4 = 3)),
    (16, if swz then decide (f 16 4 ≠ 0) else decide (f 16 4 = 0) || decide (f 16 4 % 256 ≠ 0)),
    (20, decide (f 20 4 % (if swz then 4096 else 256) ≠ 0)), (24, !two && decide (f 24 6 ≠ 0)), (30, decide (f 30 2 ≠ 0))]

/-- Bytes of one layer's plane 0, and of plane 1, of a linear image. -/
def planeSizes (d : List Byte) : Nat × Nat :=
  let p := field d 16 4
  let h := field d 10 2
  (p * h, if field d 6 1 = 16 ∨ field d 6 1 = 17 then p * ((h + 1) / 2) else 0)

/-- One past the last byte of a plane at `base` over the image's layers. -/
def planeSpan (d : List Byte) (bytes : Nat) : Nat := (field d 12 2 - 1) * field d 20 4 + bytes

/-- Bytes of a swizzled plane of `w` × `h` elements of `e` bytes: whole tiles (R249). -/
def swzBytes (e w h : Nat) : Nat :=
  let b := blockDim e
  (w + 8 * b.1 - 1) / (8 * b.1) * ((h + 8 * b.2 - 1) / (8 * b.2)) * 4096

/-- Whether an image has a chroma plane. -/
def twoPlane (d : List Byte) : Bool := field d 6 1 == 16 || field d 6 1 == 17

/-- Whether every layer of an image lies in the party's grant, in both planes. -/
def imgIn (s : State) (p : Nat) (d : List Byte) : Bool :=
  let swz := field d 7 1 % 4 == 1
  let z := if swz then (((List.range (bitsOf (field d 7 1) 7 4 + 1)).map (mipBytes d)).sum,
      swzBytes (2 * imgBytes (field d 6 1)) ((field d 8 2 + 1) / 2) ((field d 10 2 + 1) / 2)) else planeSizes d
  inReq s p (field d 0 6) (planeSpan d z.1) && (!twoPlane d || inReq s p (field d 24 6) (planeSpan d z.2))

/-! ### Transfers over the bus -/

/-- The status of a transaction that a unit makes. -/
def endedStatus (e : Ended) : Nat := match e with | .done st _ => st | .sent _ => stOK | .waits => stBUSY
/-- The bytes a transaction returned. -/
def endedData (e : Ended) : List Byte := match e with | .done _ d => d | _ => []

/-- The zeroing of the segments that [a, a + n) touches ends. -/
def zeroDone (a n : Nat) (s : State) : State :=
  match spLeaf a with
  | none => s
  | some l =>
    let o := a - spBase l
    (List.range ((o + n - 1) / 0x40000 + 1 - o / 0x40000)).foldl (fun s i =>
      let k := o / 0x40000 + i
      if tget (getLeaf s l).segs k = .zeroing then segSet l k .on s else s) s

/-- A transaction of a unit, which stalls while a segment is being zeroed: the zeroing ends and the access goes on (R99,
assumption 119). -/
def unitAccess (i : Initiator) (write : Bool) (a n : Nat) (data : List Byte) (s : State) : State × Ended :=
  let r := access i write a n data [] s
  if r.2 = .waits then access i write a n data [] (zeroDone a n s) else r

/-- A unit writes bytes, transaction by transaction, and stops at the first that is refused or fails. -/
def busWrite (i : Initiator) (a : Nat) (bs : List Byte) (s : State) : State × Nat :=
  (lineParts a bs.length).foldl (fun (x : State × Nat) p =>
    if x.2 ≠ stOK then x
    else
      let r := unitAccess i true p.1 p.2 ((bs.drop (p.1 - a)).take p.2) x.1
      (r.1, endedStatus r.2)) (s, stOK)

/-- A unit reads bytes. -/
def busRead (i : Initiator) (a n : Nat) (s : State) : State × Nat × List Byte :=
  (lineParts a n).foldl (fun (x : State × Nat × List Byte) p =>
    if x.2.1 ≠ stOK then x
    else
      let r := unitAccess i false p.1 p.2 [] x.1
      (r.1, endedStatus r.2, x.2.2 ++ endedData r.2)) (s, stOK, [])

/-- A unit's owner, given as party + 1, receives the status of an access that was refused to it (Table 1.7). How it arrives is not
given (assumption 131). -/
def tell (owner : Nat) (i : Initiator) (st : Nat) (s : State) : State :=
  modParty s (owner - 1) fun t => { t with told := t.told ++ [((whoOf s i).code, st)] }

/-- Address of element (x, y) of a plane of an image at `base` (R249, R250). -/
def planeAddr (d : List Byte) (base e w x y : Nat) : Nat :=
  if field d 7 1 % 4 = 1 then base + swizzle e w x y else base + y * field d 16 4 + x * e

/-- Runs of elements of a row, from `x0`, `n` of them, that lie side by side in memory: first element and length. -/
def rowRuns (d : List Byte) (e x0 n : Nat) : List (Nat × Nat) :=
  if n = 0 then []
  else if field d 7 1 % 4 = 1 then
    let b := (blockDim e).1
    (List.range ((x0 + n - 1) / b + 1 - x0 / b)).map fun j =>
      let lo := max x0 ((x0 / b + j) * b)
      (lo, min (x0 + n) ((x0 / b + j + 1) * b) - lo)
  else [(x0, n)]

/-- Writes a row of a plane of `w` elements, element by element as `px` gives them. -/
def putRow (i : Initiator) (d : List Byte) (base e w y : Nat) (px : Nat → List Byte) (x : State × Nat) : State × Nat :=
  (rowRuns d e 0 w).foldl (fun (x : State × Nat) r =>
    if x.2 ≠ stOK then x
    else busWrite i (planeAddr d base e w r.1 y) ((List.range r.2).flatMap fun c => px (r.1 + c)) x.1) x

/-- Writes the rows of an image that `keep` names, `h` of them, in both planes. -/
def putImage (i : Initiator) (d : List Byte) (base0 base1 h : Nat) (keep : Nat → Bool) (p0 p1 : Nat → Nat → List Byte) (s : State) : State × Nat :=
  let e := imgBytes (field d 6 1)
  let w := field d 8 2
  (List.range (min h (field d 10 2))).foldl (fun (x : State × Nat) y =>
    if !keep y then x
    else
      let x := putRow i d base0 e w y (fun c => p0 c y) x
      if twoPlane d && y % 2 == 0 then putRow i d base1 (2 * e) ((w + 1) / 2) (y / 2) (fun c => p1 c (y / 2)) x else x) (s, stOK)

/-- Reads rows [y0, y0 + h) of a plane of `w` elements, elements [x0, x0 + n) of each. -/
def getRows (i : Initiator) (d : List Byte) (base e w x0 n y0 h : Nat) (s : State) : State × Nat × List (List Byte) :=
  (List.range h).foldl (fun (x : State × Nat × List (List Byte)) j =>
    if x.2.1 ≠ stOK then x
    else
      let r := (rowRuns d e x0 n).foldl (fun (y : State × Nat × List Byte) r =>
        if y.2.1 ≠ stOK then y
        else
          let t := busRead i (planeAddr d base e w r.1 (y0 + j)) (r.2 * e) y.1
          (t.1, t.2.1, y.2.2 ++ t.2.2)) (x.1, stOK, [])
      (r.1, r.2.1, x.2.2 ++ [r.2.2])) (s, stOK, [])

/-- Reads a rectangle of an image in both planes: status, rows of plane 0 and rows of plane 1. -/
def getImage (i : Initiator) (d : List Byte) (x0 n y0 h : Nat) (s : State) : State × Nat × List (List Byte) × List (List Byte) :=
  let e := imgBytes (field d 6 1)
  let w := field d 8 2
  let a := getRows i d (field d 0 6) e w x0 n y0 h s
  if a.2.1 ≠ stOK ∨ !twoPlane d ∨ n = 0 ∨ h = 0 then (a.1, a.2.1, a.2.2, [])
  else
    let b := getRows i d (field d 24 6) (2 * e) ((w + 1) / 2) (x0 / 2) ((x0 + n - 1) / 2 + 1 - x0 / 2) (y0 / 2) ((y0 + h - 1) / 2 + 1 - y0 / 2) a.1
    (b.1, b.2.1, a.2.2, b.2.2)

/-- Element `x` of a row of elements of `e` bytes. -/
def elemAt (rows : List (List Byte)) (e x y : Nat) : List Byte := ((rows.getD y []).drop (x * e)).take e

/-- `n` free bytes (assumption 5). -/
def freeBytes (n : Nat) (s : State) : List Byte × State :=
  ((List.range n).map fun i => Config.freeByte (s.fresh + i), { s with fresh := s.fresh + n })

/-- `n` free words (assumption 5). -/
def freeWords (n : Nat) (s : State) : List Word × State :=
  ((List.range n).map fun i => Config.freeWord (s.fresh + i), { s with fresh := s.fresh + n })

/-- A free number (assumption 5). -/
def freeNum (s : State) : Nat × State := (Config.freeNat s.fresh, { s with fresh := s.fresh + 1 })

/-- The party number whose block a unit is, from its owner field. -/
def ownerOf (o : Nat) : Nat := o - 1

/-- The party as the initiator type names it. -/
def partyOf (p : Nat) : Party := if h : p < 16 then .g ⟨p, h⟩ else if p = 16 then .gs else .gx

/-- A fabric-side unit works: the core die is supplied and clocked, not in Doze or below, and not in a compute reset's
refusal time for memory (R53, R512). -/
def fabricUp (s : State) : Bool :=
  s.pw.supplied && !s.boot.held && !s.pw.pllLost && (decide (s.pw.st = .run) || decide (s.pw.st = .hush)) && !s.pw.thermalDoze && !s.pw.forced

/-- A block that BLOCK_POWER has stopped or powered off, by kind and instance (R378). -/
def blockOff (s : State) (kind inst : Nat) : Bool := decide (tget s.pw.blocks (kind * 65536 + inst) ≠ 0)

/-- The ports power up: their time counters restart from 0 (R59, R300). -/
def portsUp (s : State) : State :=
  { s with
    cap := { s.cap with upAt := (List.range 4).foldl (fun t r => tput t r s.ktime) s.cap.upAt }
    gw := { s.gw with port := tmap (fun (p : TsnPort) => { p with clock := 0 }) s.gw.port } }

/-- Kettle time differences, which wrap (R11). -/
def ktSince (s : State) (t : Nat) : Nat := (s.ktime + 2 ^ 64 - t) % 2 ^ 64

end Sys2Proof.Machine
end

