-- ==== Sys2Proof/Machine/Isp.lean ====
section
/-! DEFINITION. The image signal processor: what it computes from the lines of a frame and the stream's tuning block (R295, R297 to
R299). The tuning block's layout is not given, so a stage that it tunes is a `Config` constant of the block and of the lines; the
merge, the matrix and the chroma filter are the spec's (assumption 31). -/

namespace Sys2Proof.Machine

/-- What a frame's pixels are computed from. -/
structure IspIn where
  /-- tuning block in force -/
  tune : List Byte
  /-- data type (Table 10.2) -/
  dt : Nat
  /-- exposures -/
  exps : Nat
  /-- lines between exposures of one output line -/
  stagger : Nat
  /-- width and height of an exposure -/
  w : Nat
  h : Nat
  /-- input lines in their order of arrival, none where one was lost -/
  rows : List (Option (List Byte))
deriving DecidableEq, Repr

/-- The input lines of exposure `e`: exposures arrive in the order long, medium, short (R298). -/
def IspIn.lines (p : IspIn) (e : Nat) : List (Option (List Byte)) :=
  (List.range ((p.rows.length + p.exps - 1 - e) / p.exps)).map fun i => p.rows.getD (i * p.exps + e) none

/-- Stages 1 and 2: the 20-bit linear value of exposure `e` that output pixel (x, y) needs, e × STAGGER lines up (R298). -/
def IspIn.linear (p : IspIn) (e x y : Nat) : Nat :=
  (if e * p.stagger ≤ y then Config.ispLinear p.tune p.dt e (p.lines e) x (y - e * p.stagger) else Config.ispNoLine p.tune e x y) % 2 ^ 20

/-- The HDR merge of a pixel's exposures, longest first, each with its ratio: the longest below the knee, scaled; between the knee
and the saturation level a linear blend with the next shorter one (R298). -/
def hdrMerge (knee sat : Nat) : List (Nat × Rat) → Rat
  | [] => 0
  | [v] => v.1 * v.2
  | v :: u :: r =>
    if v.1 < knee then v.1 * v.2
    else if v.1 < sat then
      let t : Rat := (Rat.ofInt (Int.ofNat (v.1 - knee))) / (Rat.ofInt (Int.ofNat (sat - knee)))
      v.1 * v.2 * (1 - t) + u.1 * u.2 * t
    else hdrMerge knee sat (u :: r)

/-- Stage 3: the merged value of a pixel; skipped for one exposure. -/
def IspIn.merged (p : IspIn) (x y : Nat) : Rat :=
  if p.exps ≤ 1 then p.linear 0 x y
  else hdrMerge (Config.ispKnee p.tune) (Config.ispSat p.tune) ((List.range p.exps).map fun e => (p.linear e x y, Config.ispRatio p.tune e))

/-- Stages 4 to 8 up to the gamma curve: R, G and B in units of full scale. -/
def IspIn.rgb (p : IspIn) (x y : Nat) : Rat × Rat × Rat := Config.ispColour p.tune p.merged x y

/-- A number of the form n / 10000. -/
def tenK (n : Nat) : Rat := Rat.ofInt (Int.ofNat n) / 10000

/-- The BT.709 luma of R, G and B. -/
def luma709 (c : Rat × Rat × Rat) : Rat := tenK 2126 * c.1 + tenK 7152 * c.2.1 + tenK 722 * c.2.2

/-- Y, Cb and Cr of the BT.709 matrix in limited range, on the 8-bit scale (Table 10.5, stage 8). -/
def ycc709 (c : Rat × Rat × Rat) : Rat × Rat × Rat :=
  let y := luma709 c
  (16 + 219 * y, 128 + 224 * ((c.2.2 - y) / tenK 18556), 128 + 224 * ((c.1 - y) / tenK 15748))

/-- A code of `n` bits: one of the two integers beside the value, held to the range; the rounding is not given (assumption 31). -/
def quantise (n : Nat) (v : Rat) : Nat := min (2 ^ n - 1) (v.floor + if Config.ispUp v then 1 else 0).toNat

/-- The [1 2 1] / 4 filter at `i`. -/
def tap121 (f : Int → Rat) (i : Int) : Rat := (f (i - 1) + 2 * f i + f (i + 1)) / 4

/-- Cb or Cr of a pixel; beyond the edge of the image the value is not given. -/
def IspIn.chromaAt (p : IspIn) (cr : Bool) (x y : Int) : Rat :=
  if 0 ≤ x ∧ x < p.w ∧ 0 ≤ y ∧ y < p.h then
    let v := ycc709 (p.rgb x.toNat y.toNat)
    if cr then v.2.2 else v.2.1
  else Config.ispBorder p.tune cr x y

/-- Stage 9, chroma: the filter along both axes at every second pixel (DEDUCED, assumption 31). -/
def IspIn.chroma (p : IspIn) (cr : Bool) (cx cy : Nat) : Rat :=
  tap121 (fun x => tap121 (fun y => p.chromaAt cr x y) (Int.ofNat (2 * cy))) (Int.ofNat (2 * cx))

/-- Bytes of a pixel of plane 0: luma of NV12 and P010, or RGBA8 (Tables 9.2 and 10.5). -/
def IspIn.plane0 (p : IspIn) (fmt x y : Nat) : List Byte :=
  let c := p.rgb x y
  if fmt = 16 then leBytes 1 (quantise 8 (ycc709 c).1)
  else if fmt = 17 then leBytes 2 (64 * quantise 10 (4 * (ycc709 c).1))
  else leBytes 1 (quantise 8 (255 * c.1)) ++ leBytes 1 (quantise 8 (255 * c.2.1)) ++ leBytes 1 (quantise 8 (255 * c.2.2)) ++ [Config.ispAlpha]

/-- Bytes of an element of plane 1: Cb and Cr. -/
def IspIn.plane1 (p : IspIn) (fmt cx cy : Nat) : List Byte :=
  if fmt = 16 then leBytes 1 (quantise 8 (p.chroma false cx cy)) ++ leBytes 1 (quantise 8 (p.chroma true cx cy))
  else leBytes 2 (64 * quantise 10 (4 * p.chroma false cx cy)) ++ leBytes 2 (64 * quantise 10 (4 * p.chroma true cx cy))

/-- Whether every input line that output line `y` needs was received (R294, R298). -/
def IspIn.have_ (p : IspIn) (y : Nat) : Bool :=
  (List.range p.exps).all fun e => decide (y < e * p.stagger) || (p.rows.getD ((y - e * p.stagger) * p.exps + e) none).isSome

/-- The 16,384 bytes of a MODE 2 tile at column `tx` and row `ty` of its plane: bytes beyond the image are not given (R295). -/
def IspIn.tile (p : IspIn) (chroma : Bool) (tx ty : Nat) : List Byte :=
  (List.range 16384).map fun i =>
    let x := tx * 256 + i % 256
    let y := ty * 64 + i / 256
    if chroma then
      (if x / 2 < (p.w + 1) / 2 ∧ y < (p.h + 1) / 2 then (p.plane1 16 (x / 2) y).getD (x % 2) 0 else Config.ispPad x y)
    else if x < p.w ∧ y < p.h then (p.plane0 16 x y).getD 0 0 else Config.ispPad x y

/-- The 16 KiB of statistics of a frame: histograms and zone means of the merged values (R299). Their layout is not given. -/
def IspIn.stats (p : IspIn) : List Byte := (List.range 16384).map fun i => Config.ispStats p.tune p.merged i

end Sys2Proof.Machine
end

