-- ==== Sys2Proof/Machine/Capture.lean ====
section
/-! DEFINITION. Capture streams: opening and closing, CSI-2 packets, frames and their records, tiles, stamps and their
translation into Kettle time (R287 to R303, R323 to R325, R329). -/

namespace Sys2Proof.Machine

/-! ### A stream's record (Table 10.3) -/

/-- The stream's record in force. -/
def getStr (s : State) (k : Nat) : Stream := tget s.cap.str k
/-- Changes a stream. -/
def modStr (s : State) (k : Nat) (f : Stream → Stream) : State := { s with cap := { s.cap with str := tmod s.cap.str k f } }
/-- Changes the frame in progress. -/
def modFrame (s : State) (k : Nat) (f : Frame → Frame) : State := modStr s k fun t => { t with frame := t.frame.map f }

def cMode (c : List Byte) : Nat := field c 3 1 % 4
def cExp (c : List Byte) : Nat := bitsOf (field c 3 1) 3 2 + 1
def cStamp (c : List Byte) : Nat := bitsOf (field c 3 1) 5 4
def cWidth (c : List Byte) : Nat := field c 4 2
def cHeight (c : List Byte) : Nat := field c 6 2
def cRate (c : List Byte) : Nat := field c 8 4
def cOut (c : List Byte) : Nat := field c 16 3 % 2 ^ 18
def cTileQ (c : List Byte) : Nat := field c 21 3 % 2 ^ 18
def cImage (c : List Byte) : List Byte := (c.drop 24).take 32
def cStats (c : List Byte) : Nat := field c 56 6
/-- The Ethernet-fed streams (R287). -/
def isEth (k : Nat) : Bool := decide (16 ≤ k)

/-- The initiator a stream writes as (R287). -/
def strIni (s : State) (k : Nat) : Initiator :=
  if h : k < 16 then .isp ⟨k, h⟩ else .tsn 1 (partyOf (ownerOf (getStr s k).owner))

/-- The data types of Table 10.2, by mode. -/
def dtOk (mode dt : Nat) : Bool :=
  (decide (0x2A ≤ dt) && decide (dt ≤ 0x2F)) ||
    (mode == 1 && (dt == 0x1E || dt == 0x24 || dt == 0x12 || (decide (0x30 ≤ dt) && decide (dt ≤ 0x37))))

/-! ### Conversions (R302) -/

/-- The nearest integer to n / 2⁴⁰, half away from zero. -/
def roundShift40 (n : Int) : Int := if 0 ≤ n then (n + 2 ^ 39) / 2 ^ 40 else -((-n + 2 ^ 39) / 2 ^ 40)

/-- KTIME of a stamp (R302). -/
def Conv.ktime (c : Conv) (stamp : Nat) : Nat :=
  codeOf 64 (Int.ofNat c.k0 + roundShift40 (signedOf 64 (stamp + 2 ^ 64 - c.c0 % 2 ^ 64) * Int.ofNat c.ratio))

/-- The counter of a CSI-2 receiver in 5 ns units (R300); within a Kettle count its half is free. -/
def rcvCounter (s : State) (r : Nat) : Nat × State :=
  let d := freeNum s
  ((2 * ((s.ktime + 2 ^ 64 - tget s.cap.upAt r) % 2 ^ 64) + d.1 % 2) % 2 ^ 64, d.2)

/-- The conversion of a stream's arrival counter. -/
def arrivalConv (s : State) (k : Nat) : Conv := tget s.cap.conv (if isEth k then (getStr s k).port else k / 4)

/-- The conversion that a stream's STAMP source uses (R324). -/
def stampConv (s : State) (k : Nat) : Conv :=
  if cStamp (getStr s k).conf = 2 then (getStr s k).fit else arrivalConv s k

/-- A step of a source-2 conversion in µs. -/
def stepUs (a b : Nat) : Int := signedOf 64 (b + 2 ^ 64 - a % 2 ^ 64) / 100

/-- A source-2 conversion is refitted from the pair of the frame that ends and the 63 before it; a pair whose residual exceeds 1 ms
restarts the fit (R303). -/
def refit (k : Nat) (f : Frame) (s : State) : State :=
  match f.sensor with
  | none => s
  | some c =>
    if cStamp (getStr s k).conf ≠ 2 then s
    else
      let t := getStr s k
      let arr := (arrivalConv s k).ktime f.arrival
      let far := !t.pairs.isEmpty && decide (100000 < (signedOf 64 (arr + 2 ^ 64 - t.fit.ktime c)).natAbs)
      let ps := ((if far then [] else t.pairs) ++ [(c, arr)]).drop ((if far then 0 else t.pairs.length) - 63)
      let r := Config.sensorFit ps
      let s := if far then
          event srcAfzan 0x9005 noParty (leBytes 1 (0x10 + k) ++ leBytes 4 (codeOf 32 (stepUs (t.fit.ktime c) arr))) s
        else s
      modStr s k fun t => { t with fit := { c0 := r.1 % 2 ^ 64, k0 := r.2.1 % 2 ^ 64, ratio := r.2.2 % 2 ^ 64, at_ := s.ktime }, pairs := ps }

/-- STAMP and KTIME of a frame (R301, R302); without a sensor stamp where the source needs one, both are free. -/
def stamps (s : State) (k : Nat) (f : Frame) : (Nat × Nat) × State :=
  let src := cStamp (getStr s k).conf
  let a := freeNum s
  let b := freeNum a.2
  if src = 0 then ((f.arrival, f.conv.ktime f.arrival), s)
  else match f.sensor with
    | none => ((a.1 % 2 ^ 64, b.1 % 2 ^ 64), b.2)
    | some c => if src = 2 && (getStr s k).pairs.isEmpty then ((c, a.1 % 2 ^ 64), a.2) else ((c, f.conv.ktime c), s)

/-! ### Closing -/

/-- A stream closes: its owner may open it again (R323). -/
def closeStr (k : Nat) (s : State) : State := { s with cap := { s.cap with str := tput s.cap.str k {} } }

/-- Completes CAPTURE_CLOSE at a frame boundary. -/
def closeIfAsked (k : Nat) (s : State) : State :=
  let t := getStr s k
  if t.closing.isEmpty || t.frame.isSome then s else finishAll t.closing ok (closeStr k s)

/-- A stream stops: one of its accesses was refused or failed, which its owner is told (Table 1.7). -/
def stopStr (k st : Nat) (s : State) : State :=
  closeIfAsked k (tell (getStr s k).owner (strIni s k) st (modStr s k fun t => { t with stopped := st, frame := none }))

/-! ### Frames -/

/-- Tiles of a MODE 2 frame: luma, then chroma (R295). -/
def tileRows (c : List Byte) : Nat × Nat × Nat :=
  let w := (cWidth c + 255) / 256
  (w, (cHeight c + 63) / 64 * w, (cHeight c + 127) / 128 * w)
/-- How many tiles a frame has. -/
def tileCount (c : List Byte) : Nat := (tileRows c).2.1 + (tileRows c).2.2
/-- Input lines that tile `i` needs. -/
def tileNeeds (c : List Byte) (i : Nat) : Nat :=
  let t := tileRows c
  cExp c * (if i < t.2.1 then min (cHeight c) (64 * (i / t.1 + 1)) else min (cHeight c) (128 * ((i - t.2.1) / t.1 + 1)))

/-- Lines or bytes that a whole frame brings. -/
def expected (k : Nat) (c : List Byte) : Nat :=
  if isEth k then 0 else if cMode c = 1 then cWidth c * cHeight c * cExp c else cHeight c * cExp c

/-- What the ISP computes a stream's frame from. -/
def ispIn (t : Stream) (f : Frame) : IspIn :=
  { tune := t.tune, dt := field t.conf 2 1, exps := cExp t.conf, stagger := field t.conf 12 1, w := cWidth t.conf, h := cHeight t.conf, rows := f.rows }

/-- The ISP's output of a frame to DRAM: both planes of every output line whose input lines were received; the others hold the bytes
of an earlier frame (R294, R297). -/
def ispRows (i : Initiator) (p : IspIn) (d : List Byte) (base0 base1 : Nat) (s : State) : State × Nat :=
  let fmt := field d 6 1
  putImage i d base0 base1 p.h p.have_ (p.plane0 fmt) (p.plane1 fmt) s

/-- Event 0x9001, written at most once per frame (R294). -/
def linkError (k kind errs : Nat) (s : State) : State :=
  event srcAfzan 0x9001 (ownerOf (getStr s k).owner) (leBytes 1 (k / 4) ++ leBytes 1 k ++ leBytes 1 kind ++ leBytes 2 errs) s

/-- The frame's record goes to OUT_QUEUE (Table 10.4), with its counters and events. -/
def pushFrame (k : Nat) (f : Frame) (s : State) : State :=
  let t := getStr s k
  let c := t.conf
  let got := if cMode c = 1 then f.bytes else f.lines - f.lost
  let short := f.short || decide (got < expected k c)
  let st := stamps s k f
  let s := st.2
  let flags := b2n f.err + 2 * b2n short + 4 * b2n f.trunc + 8 * b2n f.before + 16 * b2n f.tilesLost
  let size := if cMode c = 1 then f.bytes else (f.lines - f.lost) / cExp c
  let r := leBytes 1 k ++ leBytes 1 flags ++ leBytes 1 (if cMode c = 2 then 0xFF else f.buf) ++ leBytes 1 0 ++ leBytes 4 size ++
    leBytes 8 f.num ++ leBytes 8 st.1.1 ++ leBytes 8 st.1.2
  let s := if short then
      event srcAfzan 0x9003 (ownerOf t.owner) (leBytes 1 k ++ leBytes 4 got ++ leBytes 4 (expected k c)) s else s
  let s := modStr s k fun t => { t with short := if short then t.short.add 1 else t.short
                                        error := if f.err then t.error.add 1 else t.error, frame := none }
  let s := refit k f s
  let s := if canPush s (cOut c) then pushEntry (cOut c) r s else s
  closeIfAsked k s

/-- The input of the frame in progress ends: `cut` when its end was missed (R294). -/
def endFrame (k : Nat) (cut : Bool) (s : State) : State :=
  let t := getStr s k
  match t.frame with
  | none => s
  | some f =>
    if f.dropped then closeIfAsked k (modStr s k fun t => { t with frame := none })
    else if f.ended then s
    else
      let c := t.conf
      let f := { f with short := f.short || cut }
      let s := if decide (f.errs ≠ 0) && !f.evented then linkError k f.kind f.errs s else s
      let p := ispIn t f
      let w := if cMode c = 1 ∨ cStats c = 0 then (s, stOK) else busWrite (strIni s k) (cStats c + f.buf * 16384) p.stats s
      let d := cImage c
      let w := if cMode c = 0 ∧ w.2 = stOK then
          ispRows (strIni s k) p d (field d 0 6 + f.buf * field d 20 4) (field d 24 6 + f.buf * field d 20 4) w.1
        else w
      if w.2 ≠ stOK then stopStr k w.2 w.1
      else if cMode c = 2 ∧ f.tile < tileCount c then modStr w.1 k fun t => { t with frame := some { f with ended := true } }
      else pushFrame k f w.1

/-- A new frame start ends what is left of the frame before it: one whose end was missed ends SHORT; tiles that still
wait are dropped (R294, R295). -/
def cutFrame (k : Nat) (s : State) : State :=
  let s := endFrame k true s
  match (getStr s k).frame with
  | none => s
  | some f =>
    let left := tileCount (getStr s k).conf - f.tile
    let s := if left ≠ 0 ∧ !f.tilesLost then
        event srcAfzan 0x9002 (ownerOf (getStr s k).owner) (leBytes 1 k ++ leBytes 1 2 ++ leBytes 4 f.num) s else s
    pushFrame k { f with tilesLost := f.tilesLost || decide (left ≠ 0) } (modStr s k fun t => { t with tiles := t.tiles.add left })

/-- The frame is dropped whole, with event 0x9002 where a reason of Table 10.13 applies (R293, R296). -/
def dropFrame (k num : Nat) (reason : Option Nat) (s : State) : State :=
  let s := match reason with
    | some r => event srcAfzan 0x9002 (ownerOf (getStr s k).owner) (leBytes 1 k ++ leBytes 1 r ++ leBytes 4 num) s
    | none => s
  modStr s k fun t => { t with dropped := t.dropped.add 1, before := true, frame := some { dropped := true, num := num, at_ := s.ktime } }

/-- A new tuning block takes effect (R299). -/
def applyTune (k num : Nat) (s : State) : State :=
  match (getStr s k).tuneNext with
  | none => s
  | some b => event srcAfzan 0x9004 (ownerOf (getStr s k).owner) (leBytes 1 k ++ leBytes 4 num)
      (modStr s k fun t => { t with tune := b, tuneNext := none })

/-- Whether the part is in Doze, where a frame start wakes it and its frames are dropped (R296). -/
def dozing (s : State) : Bool := decide (s.pw.st = .doze) || s.pw.thermalDoze || s.pw.forced

/-- A frame starts on an open stream (R293, R296, R378). `stamp` is the port counter; `dz` says that it fell in Doze. -/
def startFrame (dz : Bool) (k stamp : Nat) (sensor : Option Nat) (s : State) : State :=
  let s := cutFrame k s
  let t := getStr s k
  if t.owner = 0 ∨ t.stopped ≠ 0 then s
  else
    let num := (t.frames + 1) % 2 ^ 64
    let s := applyTune k num (modStr s k fun t => { t with frames := num })
    if dz then wakeFrom true 3 k (dropFrame k num (some 1) s)
    else
      let s := wakeFrom true 3 k s
      if blockOff s 5 k || (!isEth k && blockOff s 7 (k / 4)) then dropFrame k num none s
      else if freeSlots s (cOut t.conf) < 2 then dropFrame k num (some 0) s
      else
        let q := getQ s (cOut t.conf)
        modStr s k fun x => { x with before := false
                                     frame := some { buf := q.tail % q.n, num := num, at_ := s.ktime, arrival := stamp, sensor := sensor
                                                     conv := if cStamp t.conf = 2 then t.fit else arrivalConv s k, before := x.before } }

/-- The open streams of a receiver on a virtual channel, ascending; `dt` restricts to one data type (R289). -/
def strOn (s : State) (r : Nat) (vc : BitVec 4) (dt : Option (BitVec 8)) : List Nat :=
  ((List.range 4).map fun i => r * 4 + i).filter fun k =>
    let t := getStr s k
    decide (t.owner ≠ 0) && decide (field t.conf 1 1 = vc.toNat) &&
      (match dt with | some d => decide (field t.conf 2 1 = d.toNat) | none => true)

/-- A line of a bypass stream is written as received; what lies beyond the line's width or the buffer is discarded (R293, R294). -/
def bypassLine (k : Nat) (f : Frame) (data : List Byte) (s : State) : State :=
  let c := (getStr s k).conf
  let d := cImage c
  if cHeight c * cExp c ≤ f.lines then modFrame s k fun f => { f with trunc := true }
  else
    let o := f.lines * field d 16 4
    let bs := (data.take (cWidth c)).take (field d 20 4 - o)
    let r := busWrite (strIni s k) (field d 0 6 + f.buf * field d 20 4 + o) bs s
    if r.2 ≠ stOK then stopStr k r.2 r.1
    else modFrame r.1 k fun f => { f with lines := f.lines + 1, bytes := f.bytes + bs.length
                                          trunc := f.trunc || decide (bs.length < data.length) }

/-- A line arrives on a stream. -/
def lineIn (k : Nat) (data : List Byte) (crcOk : Bool) (s : State) : State :=
  match (getStr s k).frame with
  | none => s
  | some f =>
    if f.dropped || f.ended || f.discard || !fabricUp s then s
    else
      let s := if crcOk then s else
        modFrame s k fun f => { f with err := true, errs := f.errs + 1, kind := if f.errs = 0 then 2 else f.kind }
      let c := (getStr s k).conf
      if cMode c = 1 then bypassLine k f data s
      else if cHeight c * cExp c ≤ f.lines then modFrame s k fun f => { f with trunc := true }
      else modFrame s k fun f => { f with lines := f.lines + 1, rows := f.rows ++ [some data] }

/-- The sensor stamp of an embedded-data line, for the streams of its virtual channel that use one (R301). -/
def embedded (r : Nat) (vc : BitVec 4) (data : List Byte) (s : State) : State :=
  if data.length < 8 then s
  else (strOn s r vc none).foldl (fun s k =>
    if cStamp (getStr s k).conf = 0 then s
    else modFrame s k fun f => { f with sensor := f.sensor.orElse fun _ => some (field data 0 8) }) s

/-- CSI_PACKET (R289, R293, R294, R301): a receiver takes a packet. Frame starts and ends are those of a virtual channel. -/
def execCsiPacket (rcv : Fin 4) (p : CsiPacket) (s : State) : Res :=
  let r := rcv.val
  .next (if !s.pw.supplied || s.boot.held || decide (s.pw.st = .rest) || decide (s.pw.st = .park) || s.pw.pllLost then s
    else match p with
    | .frameStart vc =>
      let dz := dozing s
      let st := rcvCounter s r
      (strOn s r vc none).foldl (fun s k => startFrame dz k st.1 none s) st.2
    | .line vc dt data ok =>
      let s := if dt = 0x12#8 && !(strOn s r vc (some dt)).isEmpty then embedded r vc data s else s
      (strOn s r vc (some dt)).foldl (fun s k => lineIn k data ok s) s
    | .badHeader vc dt => (strOn s r vc (some dt)).foldl (fun s k =>
        if (match (getStr s k).frame with | some f => f.dropped || f.ended | none => true) then s
        else modFrame s k fun f => { f with err := true, short := true, errs := f.errs + 1, lines := f.lines + 1, lost := f.lost + 1
                                            rows := f.rows ++ [none]
                                            kind := if f.errs = 0 then 1 else f.kind }) s
    | .overflow vc dt => (strOn s r vc (some dt)).foldl (fun s k =>
        if cMode (getStr s k).conf = 1 then s else modFrame s k fun f => { f with discard := true, short := true }) s
    | .frameEnd vc => (strOn s r vc none).foldl (fun s k => endFrame k false s) s)

/-- The frame time that RATE implies, in 10 ns units (R294). -/
def frameTime (c : List Byte) : Nat := if cRate c = 0 then 0 else cWidth c * cHeight c * cExp c * 100000000 / cRate c

/-- MISSING_FRAME_END (R294): no frame end within twice the frame time. With RATE 0 the spec gives no time, so the command
says when. -/
def execMissingFrameEnd (stream : Fin 24) (s : State) : Res :=
  let k := stream.val
  .next (match (getStr s k).frame with
    | none => s
    | some f => if f.ended || decide (ktSince s f.at_ < 2 * frameTime (getStr s k).conf) then s else endFrame k true s)

/-- CSI_LANE_SYNC_LOST (R329): event 0x9001 of kind 3, at most once per frame. -/
def execCsiLaneSyncLost (stream : Fin 16) (s : State) : Res :=
  let k := stream.val
  .next (match (getStr s k).frame with
    | none => s
    | some f =>
      if f.dropped || f.ended then s
      else
        let s := modFrame s k fun f => { f with errs := f.errs + 1, kind := if f.errs = 0 then 3 else f.kind, evented := true }
        if f.evented then s else linkError k 3 (f.errs + 1) s)

/-! ### Tiles (R295) -/

/-- A TILE entry of the ISP: 64 rows of 64 words, bytes read as unsigned. -/
def tileEntry (i : Nat) (last : Bool) : List Byte :=
  leBytes 6 0 ++ leBytes 1 64 ++ leBytes 1 64 ++ leBytes 2 1 ++ leBytes 1 2 ++ leBytes 1 (b2n last) ++ leBytes 4 i

/-- The frame's tile `f.tile` is done; after the last one the frame record follows. -/
def tileDone (k : Nat) (s : State) : State :=
  let s := modFrame s k fun f => { f with tile := f.tile + 1 }
  match (getStr s k).frame with
  | some f => if f.ended && decide (tileCount (getStr s k).conf ≤ f.tile) then pushFrame k f s else s
  | none => s

/-- ISP_TILE_PUSH (R295): the next tile of a MODE 2 frame is pushed or dropped, as slots allow. -/
def execIspTilePush (stream : Fin 16) (s : State) : Res :=
  let k := stream.val
  let t := getStr s k
  let c := t.conf
  .next (match t.frame with
    | none => s
    | some f =>
      let q := cTileQ c
      let last := decide (f.tile + 1 = tileCount c)
      let room := freeSlots s q
      if cMode c ≠ 2 || f.dropped || decide (tileCount c ≤ f.tile) || !fabricUp s ||
          (!f.ended && decide (f.lines < tileNeeds c f.tile)) then s
      else if 2 ≤ room || (last && decide (1 ≤ room)) then
        let n := tileRows c
        let cr := decide (n.2.1 ≤ f.tile)
        let i := if cr then f.tile - n.2.1 else f.tile
        let r := busWrite (strIni s k) ((getQ s q).bufAddr (getQ s q).tail) ((ispIn t f).tile cr (i % n.1) (i / n.1)) s
        if r.2 ≠ stOK then stopStr k r.2 r.1
        else tileDone k (pushEntry q (tileEntry f.tile last) r.1)
      else if last then s
      else
        let s := if f.tilesLost then s else
          event srcAfzan 0x9002 (ownerOf t.owner) (leBytes 1 k ++ leBytes 1 2 ++ leBytes 4 f.num) s
        tileDone k (modFrame (modStr s k fun t => { t with tiles := t.tiles.add 1 }) k fun f => { f with tilesLost := true }))

/-! ### Ethernet-fed streams (R290) -/

/-- A packet for an Ethernet-fed stream: its payload goes to the next byte of the current buffer, and the capture frame
ends at a marked packet or with a full buffer. The answer says whether a write was refused: the packet is then dropped for this
destination only (Table 1.7). The port's counter is its own, and a free value here (R300). -/
def ethCapture (dz : Bool) (k port : Nat) (payload : List Byte) (eof : Bool) (sensor : Option Nat) (s : State) : State × Bool :=
  let t := getStr s k
  if t.owner = 0 ∨ t.stopped ≠ 0 then (s, false)
  else
    let st := freeNum s
    let c := st.1 % 2 ^ 64
    let s := if t.frame.isSome then s else
      startFrame dz k c (if cStamp t.conf = 0 then none else sensor)
        { (modStr st.2 k fun t => { t with port := port }) with gw := { s.gw with port := tmod s.gw.port port fun p => { p with clock := c } } }
    match (getStr s k).frame with
    | none => (s, false)
    | some f =>
      let d := cImage t.conf
      let bs := payload.take (field d 20 4 - f.bytes)
      let full := decide (field d 20 4 ≤ f.bytes + payload.length)
      let r := if f.dropped then (s, stOK) else busWrite (strIni s k) (field d 0 6 + f.buf * field d 20 4 + f.bytes) bs s
      if r.2 ≠ stOK then (r.1, true)
      else
        let s := modFrame r.1 k fun f => { f with bytes := f.bytes + bs.length
                                                  trunc := f.trunc || decide (field d 20 4 < f.bytes + payload.length) }
        (if eof || full then endFrame k false s else s, false)

/-! ### Time (R303) -/

/-- TIME_SNAPSHOT (R303): every counter is latched and each port conversion is refitted from its last 16 snapshots. A receiver's
conversion has RATIO 2³⁹ and an error of at most 20 ns. `eth` holds the counters of external ports 4, 5, …. -/
def execTimeSnapshot (eth : List (BitVec 64)) (s : State) : Res :=
  let s := (List.range 4).foldl (fun s r =>
    let c := rcvCounter s r
    let d := freeNum c.2
    let s := d.2
    let old := tget s.cap.conv r
    { s with cap := { s.cap with conv := tput s.cap.conv r { c0 := c.1, k0 := (s.ktime + 2 ^ 64 + d.1 % 5 - 2) % 2 ^ 64, ratio := 2 ^ 39, at_ := s.ktime
                                                             snaps := (old.snaps ++ [(c.1, s.ktime)]).drop (old.snaps.length - 15) } } }) s
  .next ((List.range (min eth.length 8)).foldl (fun s i =>
    let c := (eth.getD i 0#64).toNat
    let old := tget s.cap.conv (4 + i)
    let ps := (old.snaps ++ [(c, s.ktime)]).drop (old.snaps.length - 15)
    let r := Config.portFit ps
    { s with
      cap := { s.cap with conv := tput s.cap.conv (4 + i) { c0 := r.1 % 2 ^ 64, k0 := r.2.1 % 2 ^ 64, ratio := r.2.2 % 2 ^ 64, at_ := s.ktime, snaps := ps } }
      gw := { s.gw with port := tmod s.gw.port (4 + i) fun p => { p with clock := c } } }) s)

/-! ### Messages -/

/-- Σ RATE over the open ISP streams (R292). -/
def ispRate (s : State) : Nat :=
  ((List.range 16).map fun k => if (getStr s k).owner ≠ 0 ∧ cMode (getStr s k).conf ≠ 1 then cRate (getStr s k).conf else 0).sum

/-- The party to which a receiver is bound, from its open streams (R288). -/
def rcvOwner (s : State) (r : Nat) : Nat :=
  (((List.range 4).map fun i => (getStr s (r * 4 + i)).owner).find? fun o => decide (o ≠ 0)).getD 0

/-- An open stream's record on a receiver. -/
def rcvConf (s : State) (r : Nat) : Option (List Byte) :=
  ((List.range 4).find? fun i => decide ((getStr s (r * 4 + i)).owner ≠ 0)).map fun i => (getStr s (r * 4 + i)).conf

/-- Whether an open stream of the receiver other than `k` carries the same virtual channel and data type (R289). -/
def sameFlow (s : State) (k vc dt : Nat) : Bool :=
  !isEth k && (List.range 4).any fun i =>
    let x := getStr s (k / 4 * 4 + i)
    decide (k / 4 * 4 + i ≠ k) && decide (x.owner ≠ 0) && decide (field x.conf 1 1 = vc) && decide (field x.conf 2 1 = dt)

/-- The field checks of CAPTURE_OPEN (R289, R291). The form of a queue outside the party's range is not looked at: DENIED answers. -/
def captureBad (s : State) (m : Msg) : List (Nat × Bool) :=
  let c := m.payload
  let f := fun (o n : Nat) => fld m o n
  let k := f 0 1
  let eth := isEth k
  let mode := cMode c
  let img := cImage c
  let n := (getQ s (cOut c)).n
  let other := if eth then none else rcvConf s (k / 4)
  let cls := if eth then 9 else 4
  let use := fun (x : Nat) => if mode = 1 then x == 1 else if mode = 2 then x == 16 else x == 3 || x == 16 || x == 17
  [(0, decide (23 < k)),
      (1, if eth then decide (f 1 1 ≠ 0) else decide (16 ≤ f 1 1)),
      (2, if eth then decide (f 2 1 ≠ 0) else !dtOk mode (f 2 1) || (f 2 1 == 0x2F && decide (cExp c ≠ 1)) || sameFlow s k (f 1 1) (f 2 1)),
      (3, decide (64 ≤ f 3 1) || decide (mode = 3) || decide (cExp c = 4) || (eth && decide (mode ≠ 1)) || decide (cStamp c = 3) ||
        (!eth && decide (cStamp c = 1))),
      (4, if mode = 1 then decide (f 4 2 = 0) else decide (f 4 2 < 64) || decide (4096 < f 4 2)),
      (6, if eth then decide (f 6 2 ≠ 0) else decide (f 6 2 = 0) || decide (4096 < f 6 2)),
      (8, mode == 1 && decide (f 8 4 ≠ 0)),
      (12, decide (32 < f 12 1)),
      (13, decide (8 ≤ f 13 1) || decide (bitsOf (f 13 1) 2 1 = 3) ||
        (match other with | some o => decide (field o 13 1 ≠ f 13 1) | none => false)),
      (14, !eth && (decide (f 14 2 < 8) || decide ((if bitOf (f 13 1) 0 then 600 else 450) < f 14 2) ||
        (match other with | some o => decide (field o 14 2 ≠ f 14 2) | none => false))),
      (16, decide (2 ^ 18 ≤ f 16 3) || (qReq s (pidx m.sender) (cOut c) && (!qForm s (cOut c) 1 1 (some cls) none || !(n == 4 || n == 8 || n == 16)))),
      (19, rsvBad m 19 2),
      (21, if mode = 2 then decide (2 ^ 18 ≤ f 21 3) || (qReq s (pidx m.sender) (cTileQ c) && !qForm s (cTileQ c) 0 0 (some 4) none) else decide (f 21 3 ≠ 0)),
      (24 + (imgBad use img).getD 0, (imgBad use img).isSome || (mode == 1 && decide (field img 7 1 ≠ 0))),
      (36, qReq s (pidx m.sender) (cOut c) && decide (field img 12 2 ≠ n)), (56, decide (cStats c % 4096 ≠ 0)), (62, rsvBad m 62 2)]

/-- A binding message powers on a receiver that was powered off; its counter restarts from 0 (R300, R378). -/
def rcvUp (r : Nat) (s : State) : State :=
  if 4 ≤ r ∨ tget s.pw.blocks (7 * 65536 + r) ≠ 2 then s
  else { s with pw := { s.pw with blocks := tput s.pw.blocks (7 * 65536 + r) 0 }, cap := { s.cap with upAt := tput s.cap.upAt r s.ktime } }

/-- Own checks and effect of CAPTURE_OPEN (R291, R292). -/
def ownCaptureOpen : Own := fun m d s =>
  let c := m.payload
  let f := fun (o n : Nat) => fld m o n
  let k := f 0 1
  let eth := isEth k
  let mode := cMode c
  let q := getQ s (cOut c)
  let img := cImage c
  let n := q.n
  checked (captureBad s m) s
  (refusedBy [(!qReq s d.party (cOut c) || (mode == 2 && !qReq s d.party (cTileQ c)), stDENIED),
      (if eth then !inReq s d.party (field img 0 6) (n * field img 20 4) else mode != 2 && !imgIn s d.party img, stDENIED),
      (decide (cStats c ≠ 0) && !inReq s d.party (cStats c) (n * 16384), stDENIED),
      (!eth && decide (rcvOwner s (k / 4) ≠ 0) && decide (rcvOwner s (k / 4) ≠ d.party + 1), stDENIED)] s
  (if mode ≠ 1 ∧ 1200000000 < cRate c then say (noRes (cRate c - 1200000000)) s
   else if mode ≠ 1 ∧ 4000000000 < ispRate s + cRate c then say (noRes (ispRate s + cRate c - 4000000000)) s
   else if (getStr s k).owner ≠ 0 then say (sts stBUSY) s
   else say ok (rcvUp (k / 4) (modStr s k fun _ => { owner := d.party + 1, conf := c }))))

/-- CAPTURE_OPEN (R291). -/
def execCaptureOpen (m : Msg) (s : State) : Res := .next (serve 0x0600 isParty (lenIs 64) ownCaptureOpen m s)

/-- Own checks and effect of CAPTURE_CLOSE (R323). -/
def ownCaptureClose : Own := fun m d s =>
  let k := fld m 0 1
  checked [(0, decide (23 < k)), (1, rsvBad m 1 3)] s
  (if (getStr s k).owner = 0 then say (sts stNOT_READY) s
   else if (getStr s k).owner ≠ d.party + 1 then say (sts stDENIED) s
   else (modStr s k fun t => { t with closing := t.closing ++ [d] }, none))

/-- CAPTURE_CLOSE (R323). -/
def execCaptureClose (m : Msg) (s : State) : Res :=
  .next ((List.range 24).foldl (fun s k => closeIfAsked k s) (serve 0x0601 isParty (lenIs 4) ownCaptureClose m s))

/-- A coefficient age as a statistics counter (R303). -/
def ageVal (s : State) (at_ : Nat) : Nat := (Stat.add {} (ktSince s at_ / 100)).val

/-- The payload of CAPTURE_STATS (R324). -/
def captureStats (s : State) (k : Nat) : List Byte :=
  let t := getStr s k
  let v := stampConv s k
  leBytes 8 v.c0 ++ leBytes 8 v.k0 ++ leBytes 8 v.ratio ++ leBytes 8 (ageVal s v.at_) ++ leBytes 8 t.dropped.val ++ leBytes 8 t.short.val ++
    leBytes 8 t.error.val ++ leBytes 8 t.tiles.val

/-- Own checks and effect of CAPTURE_STATS: a read clears OVF, CLEAR the counters (R11, R324). -/
def ownCaptureStats : Own := fun m d s =>
  let k := fld m 0 1
  let t := getStr s k
  checked [(0, decide (23 < k)), (1, decide (2 ≤ fld m 1 1)), (2, rsvBad m 2 2)] s
  (if t.owner = 0 then say (sts stNOT_READY) s
   else if t.owner ≠ d.party + 1 then say (sts stDENIED) s
   else say (okWith (captureStats s k))
     (if fld m 1 1 = 1 then modStr s k fun t => { t with dropped := {}, short := {}, error := {}, tiles := {} }
      else modStr s k fun t => { t with dropped := t.dropped.read, short := t.short.read, error := t.error.read, tiles := t.tiles.read }))

/-- CAPTURE_STATS (R324). -/
def execCaptureStats (m : Msg) (s : State) : Res := .next (serve 0x0602 isParty (lenIs 4) ownCaptureStats m s)

/-- Own checks and effect of ISP_TUNE (R325). -/
def ownIspTune : Own := fun m d s =>
  let k := fld m 0 1
  let n := fld m 4 4
  let a := fld m 8 6
  let t := getStr s k
  checked [(0, decide (23 < k)), (1, rsvBad m 1 3), (4, decide (n < 64) || decide (65536 < n)), (8, decide (a % 64 ≠ 0)), (14, rsvBad m 14 2)] s
  (if !inReq s d.party a n ∨ (t.owner ≠ 0 ∧ t.owner ≠ d.party + 1) then say (sts stDENIED) s
   else if t.owner = 0 ∨ cMode t.conf = 1 then say (sts stNOT_READY) s
   else if memNat s a 4 ≠ 0x5A495350 then say (badBuf 0) s
   else if memNat s (a + 4) 4 ≠ n then say (badBuf 4) s
   else say ok (modStr s k fun t => { t with tuneNext := some (memRead s a n) }))

/-- ISP_TUNE (R299, R325). -/
def execIspTune (m : Msg) (s : State) : Res := .next (serve 0x0603 isParty (lenIs 16) ownIspTune m s)

/-- On entry to Rest or Park the Kettle closes every stream (R296); a CAPTURE_CLOSE that waits is answered. -/
def closeAllStr (s : State) : State :=
  (List.range 24).foldl (fun s k => let p := (getStr s k).closing
                                    finishAll p ok (closeStr k s)) s

end Sys2Proof.Machine
end

