-- ==== Sys2Proof/Machine/Ego.lean ====
section
/-! DEFINITION. The arithmetic of the fusion engine: transforms, undistortion, ego-motion and the Kalman filter (R305 to R307, R311,
R313 to R315, R317). Each result is the value that the spec's formula gives, rounded to FP32; the order of the engine's operations is
not given, so that the rounding is a `Config` constant of the operands and of that value (assumption 30). -/

namespace Sys2Proof.Machine

/-! ### Numbers and matrices -/

abbrev Vec := List Rat
/-- A matrix by rows. -/
abbrev Mat := List (List Rat)

/-- 2^e. -/
def pow2 (e : Int) : Rat := if 0 ≤ e then Rat.ofInt (2 ^ e.toNat) else 1 / Rat.ofInt (2 ^ (-e).toNat)
/-- The number of a finite value; one that is not finite stands as 0 in a formula. -/
def FVal.rat (v : FVal) : Rat := match v with | .fin neg m e => Rat.ofInt (if neg then -(m : Int) else m) * pow2 e | _ => 0
/-- The numbers of an FP32 word, of an FP32 field of a record and of an FP16 field. -/
def ratOf (w : Word) : Rat := (f32 w).rat
def fp32At (r : List Byte) (o : Nat) : Word := BitVec.ofNat 32 (field r o 4)
def fp16At (r : List Byte) (o : Nat) : Rat := (fp16.decode (field r o 2)).rat
/-- An FP32 result: its exact value, and the operands that it is computed from (assumption 30). -/
def rnd (ins : List Word) (v : Rat) : Word := Config.fusRound ins v

def dot (a b : Vec) : Rat := ((a.zip b).map fun x => x.1 * x.2).sum
def vadd (a b : Vec) : Vec := (a.zip b).map fun x => x.1 + x.2
def vsub (a b : Vec) : Vec := (a.zip b).map fun x => x.1 - x.2
def vscale (k : Rat) (a : Vec) : Vec := a.map fun x => k * x
/-- Column `j`, the transpose to `n` rows, products, sums, and the identity of size `n`. -/
def col (m : Mat) (j : Nat) : Vec := m.map fun r => r.getD j 0
def transpose (n : Nat) (m : Mat) : Mat := (List.range n).map (col m)
def mmul (n : Nat) (a b : Mat) : Mat := a.map fun r => (List.range n).map fun j => dot r (col b j)
def mvec (a : Mat) (v : Vec) : Vec := a.map fun r => dot r v
def madd (a b : Mat) : Mat := (a.zip b).map fun x => vadd x.1 x.2
def idMat (n : Nat) : Mat := (List.range n).map fun i => (List.range n).map fun j => if i = j then 1 else 0
def diag (v : Vec) : Mat := (List.range v.length).map fun i => (List.range v.length).map fun j => if i = j then v.getD i 0 else 0

/-- One column of the elimination of an augmented matrix. -/
def eliminate (m : Mat) (c : Nat) : Mat :=
  match (List.range m.length).find? fun r => decide (c ≤ r) && decide ((m.getD r []).getD c 0 ≠ 0) with
  | none => m
  | some p =>
    let top := vscale (1 / (m.getD p []).getD c 0) (m.getD p [])
    let m := (m.set p (m.getD c [])).set c top
    (List.range m.length).map fun r => if r = c then top else vsub (m.getD r []) (vscale ((m.getD r []).getD c 0) top)

/-- The inverse of a matrix of size `n`. -/
def inverse (n : Nat) (m : Mat) : Mat :=
  ((List.range n).foldl eliminate ((m.zip (idMat n)).map fun x => x.1 ++ x.2)).map fun r => r.drop n

/-! ### Frames (R305, R306, R311) -/

/-- The rotation of a rotation vector. -/
def rotOf (w : Vec) : Mat := if w.all fun x => decide (x = 0) then idMat 3 else Config.rotMat w

/-- The transform of a rotation and a translation. -/
def rigid (r : Mat) (t : Vec) : Mat := ((r.zip t).map fun x => x.1 ++ [x.2]) ++ [[0, 0, 0, 1]]

/-- The transform of a pose: translation, then rotation vector. -/
def poseMat (p : Vec) : Mat := rigid (rotOf (p.drop 3)) (p.take 3)

/-- T × p for a point. -/
def apply (t : Mat) (p : Vec) : Vec := (mvec t (p ++ [1])).take 3
/-- The rotation of a transform. -/
def rotPart (t : Mat) : Mat := (t.take 3).map fun r => r.take 3

/-- EXTRINSIC of a transform entry: T_s (Table 10.8). -/
def extrinsic (e : List Byte) : Mat := (List.range 4).map fun i => (List.range 4).map fun j => ratOf (fp32At e (16 * i + 4 * j))

/-- A pose at a TIME. -/
abbrev Pose := Nat × List Word

/-- a − b for Kettle times, as a signed number (R11). -/
def timeDiff (a b : Nat) : Int := signedOf 64 (a + 2 ^ 64 - b % 2 ^ 64)
/-- Seconds from b to a. -/
def secs (a b : Nat) : Rat := Rat.ofInt (timeDiff a b) / 100000000

/-- A pose on the line through two poses, in translation and in rotation vector. -/
def between (a b : Pose) (t : Nat) : Vec :=
  let p := a.2.map ratOf
  vadd p (vscale (if secs b.1 a.1 = 0 then 0 else secs t a.1 / secs b.1 a.1) (vsub (b.2.map ratOf) p))

/-- The newest pose, extrapolated at constant velocity. -/
def newest : List Pose → Nat → Vec
  | [], _ => List.replicate 6 0
  | [a], _ => a.2.map ratOf
  | [a, b], t => between a b t
  | _ :: ps, t => newest ps t

/-- T_ego(t) as a pose: between two poses of the history, or beyond the newest (R311). Before the oldest pose it is not given. -/
def tEgo (ps : List Pose) (t : Nat) : Vec :=
  match (ps.zip (ps.drop 1)).find? fun x => decide (0 ≤ timeDiff t x.1.1) && decide (timeDiff t x.2.1 ≤ 0) with
  | some x => between x.1 x.2 t
  | none =>
    match ps with
    | a :: _ :: _ => if timeDiff t a.1 < 0 then Config.poseBefore ps t else newest ps t
    | _ => newest ps t

/-- Ego velocity in O, by translation and rotation vector, in units per second. -/
def egoRate (ps : List Pose) : Vec :=
  match ps.drop (ps.length - 2) with
  | [a, b] => if secs b.1 a.1 = 0 then List.replicate 6 0 else vscale (1 / secs b.1 a.1) (vsub (b.2.map ratOf) (a.2.map ratOf))
  | _ => List.replicate 6 0

/-- From a sensor's frame to O at a TIME: T_ego(t) × T_s; with EGO_OFF T_ego is the identity (R305). -/
def toO (off : Bool) (ps : List Pose) (e : List Byte) (t : Nat) : Mat :=
  mmul 4 (if off then idMat 4 else poseMat (tEgo ps t)) (extrinsic e)

/-! ### Camera (R306, R307) -/

/-- The intrinsics FX, FY, CX and CY. -/
def fx (e : List Byte) : Rat := ratOf (fp32At e 64)
def fy (e : List Byte) : Rat := ratOf (fp32At e 68)

/-- Where a pixel coordinate lies in the grid of a LUT: the point before it and the fraction to the next. None outside the image, where
the grid says nothing. -/
def gridAt (e : List Byte) (size : Nat) (c : Word) : Option (Nat × Rat) :=
  let x := ratOf c / Rat.ofInt (2 ^ field e 85 1)
  if (match f32 c with | .fin _ _ _ => true | _ => false) && decide (0 ≤ x) && decide (ratOf c ≤ Rat.ofInt size) then
    let i := min x.floor.toNat ((size + 2 ^ field e 85 1 - 1) / 2 ^ field e 85 1 - 1)
    some (i, x - Rat.ofInt i)
  else none

/-- Points of a row of the grid. -/
def gridCols (e : List Byte) : Nat := (field e 80 2 + 2 ^ field e 85 1 - 1) / 2 ^ field e 85 1 + 1

/-- The undistorted coordinates of a pixel: four grid points, each two FP16 values, interpolated bilinearly (R307). -/
def undistort (e : List Byte) (u v : Word) (s : State) : State × Nat × List Word :=
  match gridAt e (field e 80 2) u, gridAt e (field e 82 2) v with
  | some (i, a), some (j, b) =>
    let row := fun (j : Nat) (s : State) => busRead .fusion (field e 88 6 + (j * gridCols e + i) * 4) 8 s
    let r0 := row j s
    if r0.2.1 ≠ stOK then (r0.1, r0.2.1, [])
    else
      let r1 := row (j + 1) r0.1
      let at_ := fun (k : Nat) =>
        let p := fun (r : List Byte) (o : Nat) => fp16At r (o + 2 * k)
        let x0 := p r0.2.2 0 + a * (p r0.2.2 4 - p r0.2.2 0)
        let x1 := p r1.2.2 0 + a * (p r1.2.2 4 - p r1.2.2 0)
        rnd [u, v] (x0 + b * (x1 - x0))
      (r1.1, r1.2.1, [at_ 0, at_ 1])
  | _, _ => (s, stOK, [Config.offGrid e u v, Config.offGrid e v u])

/-! ### Registration (R311) -/

/-- A point in O. -/
abbrev Point := List Word

/-- A point of a scan in O, de-skewed: taken at TIME plus its offset with the current velocity (R311). The record's point is x, y, z in
FP32, then the time offset in µs. -/
def deskew (off : Bool) (ps : List Pose) (e : List Byte) (time : Nat) (p : List Byte) : Point :=
  let t := ((time : Int) + 100 * signedOf 16 (field p 12 2)) % 2 ^ 64
  let ins := (List.range 3).map fun i => fp32At p (4 * i)
  (apply (mmul 4 (if off then idMat 4 else poseMat (newest ps t.toNat)) (extrinsic e)) (ins.map ratOf)).map (rnd ins)

/-- The cell of a point on the 0.2 m voxel grid. -/
def voxel (p : Point) : List Int := p.map fun w => (ratOf w * 5).floor

/-- Keeps the first point of each voxel. -/
def oneEach : List Point → List (List Int) → List Point
  | [], _ => []
  | p :: ps, seen => if seen.contains (voxel p) then oneEach ps seen else p :: oneEach ps (voxel p :: seen)

/-- At most 8,192 points, at most one in each voxel; which of a voxel's points stays is not given. -/
def reduceScan (ps : List Point) : List Point := (oneEach ((Config.voxelOrder ps).map fun i => ps.getD i []) []).take 8192

/-- Squared distance. -/
def dist2 (a b : Point) : Rat := let d := vsub (a.map ratOf) (b.map ratOf); dot d d

/-- Puts a point into a list by its distance from `p`. -/
def insertNear (p q : Point) : List Point → List Point
  | [] => [q]
  | x :: xs => if dist2 p q < dist2 p x then q :: x :: xs else x :: insertNear p q xs

/-- The 8 nearest map points of a point. -/
def near8 (map : List Point) (p : Point) : List Point := map.foldl (fun l q => (insertNear p q l).take 8) []

/-- The points of a reduced scan that keep a plane, each with its plane: the fit to its 8 nearest map points has a residual under 0.05 m. -/
def planesOf (map scan : List Point) : List (Point × List Word) :=
  scan.filterMap fun p =>
    let n := near8 map p
    let f := Config.planeFit n
    if n.length = 8 ∧ f.2 < 1 / 20 then some (p, f.1) else none

/-! ### The filter (R313 to R315) -/

/-- A measurement of a track: what it says, the row of H and the model's value for each component, and its noise R. -/
structure Meas where
  z : Vec
  h : Vec
  rows : Mat
  noise : Mat
deriving DecidableEq, Repr

/-- Row of H with the given entries at x, y, z, and one at ψ. -/
def row8 (p : Vec) (yaw : Rat) : Vec := p ++ [0, 0, 0, yaw, 0]

/-- POSE3D: the measured place in O, its rotated covariance, and yaw with HAS_YAW (R314). `t` takes the sensor's frame to O. -/
def poseMeas (t : Mat) (r : List Byte) (x : Vec) : Meas :=
  let sg := fun (i : Nat) => ratOf (fp32At r (32 + 4 * i))
  let z := apply t ((List.range 3).map fun i => ratOf (fp32At r (16 + 4 * i)))
  let rot := rotPart t
  let c := mmul 3 (mmul 3 rot (diag [sg 0 * sg 0, sg 1 * sg 1, sg 2 * sg 2])) (transpose 3 rot)
  if bitOf (field r 3 1) 1 then
    { z := z ++ [Config.yawInO rot (ratOf (fp32At r 28)) (x.getD 6 0)], h := x.take 3 ++ [x.getD 6 0]
      rows := (idMat 3).map (fun p => row8 p 0) ++ [row8 [0, 0, 0] 1]
      noise := (c.map fun q => q ++ [0]) ++ [[0, 0, 0, sg 3 * sg 3]] }
  else { z := z, h := x.take 3, rows := (idMat 3).map (fun p => row8 p 0), noise := c }

/-- IMAGE: h = (X_c / Z_c, Y_c / Z_c), with Z_c where HAS_DEPTH is set; noise SIGMA over FX and FY (R314). `xy` are the undistorted
coordinates. -/
def imageMeas (t : Mat) (e r : List Byte) (xy : List Word) (x : Vec) : Meas :=
  let inv := inverse 4 t
  let c := apply inv (x.take 3)
  let xc := c.getD 0 0
  let yc := c.getD 1 0
  let zc := c.getD 2 0
  let rot := rotPart inv
  let sg := fun (i : Nat) => ratOf (fp32At r (32 + 4 * i))
  let lift := fun (j : Vec) => row8 ((transpose 3 rot).map fun q => dot j q) 0
  let sx := sg 0 / fx e
  let sy := sg 1 / fy e
  let rows := [lift [1 / zc, 0, -(xc / (zc * zc))], lift [0, 1 / zc, -(yc / (zc * zc))]]
  if bitOf (field r 3 1) 2 then
    { z := xy.map ratOf ++ [ratOf (fp32At r 24)], h := [xc / zc, yc / zc, zc], rows := rows ++ [lift [0, 0, 1]]
      noise := diag [sx * sx, sy * sy, sg 2 * sg 2] }
  else { z := xy.map ratOf, h := [xc / zc, yc / zc], rows := rows, noise := diag [sx * sx, sy * sy] }

/-- Only the first two components of a measurement: those that gating looks at (R315). -/
def Meas.two (m : Meas) : Meas :=
  { z := m.z.take 2, h := m.h.take 2, rows := m.rows.take 2, noise := (m.noise.take 2).map fun r => r.take 2 }

/-- S = H P Hᵀ + R. -/
def Meas.s (m : Meas) (p : Mat) : Mat :=
  madd (mmul m.z.length (mmul 8 m.rows p) (transpose 8 m.rows)) m.noise

/-- d² = νᵀ S⁻¹ ν on the components of gating (R315). -/
def Meas.d2 (m : Meas) (p : Mat) : Rat :=
  let v := vsub m.two.z m.two.h
  dot v (mvec (inverse 2 (m.two.s p)) v)

/-- The update: x + K ν and (I − K H) P, averaged with its transpose (R314). -/
def Meas.update (m : Meas) (x : Vec) (p : Mat) : Vec × Mat :=
  let n := m.z.length
  let k := mmul n (mmul n p (transpose 8 m.rows)) (inverse n (m.s p))
  let kh := mmul 8 k m.rows
  let q := mmul 8 (madd (idMat 8) (kh.map (vscale (-1)))) p
  (vadd x (mvec k (vsub m.z m.h)), (madd q (transpose 8 q)).map (vscale (1 / 2)))

/-- A covariance of 64 words as a matrix, and back. -/
def covMat (c : List Word) : Mat := (List.range 8).map fun i => (List.range 8).map fun j => ratOf (c.getD (8 * i + j) 0#32)

/-- Prediction by `dt` seconds: F x and F P Fᵀ + Q, with the noise densities of x and y, of z and of ψ (R313). -/
def predicted (dt qa qv qy : Rat) (x : Vec) (p : Mat) : Vec × Mat :=
  let mate := fun (i : Nat) => if i < 3 then some (i + 3) else if i = 6 then some 7 else none
  let f := (List.range 8).map fun i => (List.range 8).map fun j => if i = j then 1 else if mate i = some j then dt else 0
  let a := if dt < 0 then -dt else dt
  let dens := fun (i : Nat) => if i = 0 ∨ i = 1 then qa else if i = 2 then qv else qy
  let q := (List.range 8).map fun i => (List.range 8).map fun j =>
    let lo := min i j
    match mate lo with
    | some r =>
      if i = j then dens lo * a * a * a / 3
      else if max i j = r then dens lo * dt * dt / 2
      else 0
    | none => if i = j then dens (if i = 7 then 6 else i - 3) * a else 0
  (mvec f x, madd (mmul 8 (mmul 8 f p) (transpose 8 f)) q)

end Sys2Proof.Machine
end

