-- ==== Sys2Proof/Machine/Fusion.lean ====
section
/-! DEFINITION. The fusion engine: measurements, batches, ego-motion, tracks and track lists (R304 to R321, R326 to R328), over the
arithmetic of `Ego`. -/

namespace Sys2Proof.Machine

/-! ### Configuration (Table 10.7) -/

def getFus (s : State) : Fusion := s.cap.fus
/-- Changes the engine. -/
def modFus (s : State) (f : Fusion → Fusion) : State := { s with cap := { s.cap with fus := f s.cap.fus } }

/-- A field with its default for 0. -/
def dflt (v d : Nat) : Nat := if v = 0 then d else v
def fMeas (c : List Byte) : Nat := field c 0 4 % 2 ^ 18
def fOut (c : List Byte) : Nat := field c 4 4 % 2 ^ 18
def fMax (c : List Byte) : Nat := dflt (field c 14 2) 4096
/-- Milliseconds as Kettle counts. -/
def msUnits (n : Nat) : Nat := n * 100000
def fLate (c : List Byte) : Nat := msUnits (dflt (field c 20 2) 100)
def fConfirm (c : List Byte) : Nat := msUnits (dflt (field c 22 2) 300)
/-- GATE as an FP32 code; the default is 9.21. -/
def fGate (c : List Byte) : Nat := dflt (field c 24 4) 0x41135C29
def fHits (c : List Byte) : Nat := dflt (field c 28 1) 3
def fEgoOff (c : List Byte) : Bool := bitOf (field c 29 1) 0
def fCoast (c : List Byte) : Nat := msUnits (dflt (field c 30 2) 500)
def fTent (c : List Byte) : Nat := msUnits (dflt (field c 32 2) 150)

/-- FP32 fields with their defaults. -/
def fAcc (c : List Byte) : Rat := ratOf (BitVec.ofNat 32 (dflt (field c 36 4) 0x40800000))
def fVert (c : List Byte) : Rat := ratOf (BitVec.ofNat 32 (dflt (field c 40 4) 0x3E800000))
def fYaw (c : List Byte) : Rat := ratOf (BitVec.ofNat 32 (dflt (field c 44 4) 0x3F000000))
def fSigmaV (c : List Byte) : Rat := ratOf (BitVec.ofNat 32 (dflt (field c 48 4) 0x41200000))

/-! ### Measurement records (Table 10.9) -/

def mKind (r : List Byte) : Nat := field r 0 1
def mSensor (r : List Byte) : Nat := field r 1 1
def mFlag (r : List Byte) (i : Nat) : Bool := bitOf (field r 3 1) i
def mTime (r : List Byte) : Nat := field r 8 8
/-- POSE3D or IMAGE: a record that a track can take. -/
def mTracks (r : List Byte) : Bool := mKind r == 1 || mKind r == 2

/-- An FP32 code that is positive and finite. -/
def posFinite (c : Nat) : Bool := decide (0 < c) && decide (c < 0x7F800000)

/-- Whether the engine discards a record as bad (R308). The standard deviations looked at are those its KIND uses. -/
def measBad (s : State) (r : List Byte) : Bool :=
  let xk := if mSensor r < 32 then field (tget (getFus s).xf (mSensor r)) 84 1 else 0
  let pair := match mKind r with | 1 => decide (1 ≤ xk) && decide (xk ≤ 3) | 2 => xk == 1 | 3 => xk == 1 | 4 => xk == 2 | _ => false
  let sg := fun (i : Nat) => posFinite (field r (32 + 4 * i) 4)
  !pair || decide (field r 3 1 / 8 ≠ 0) || decide (field r 4 4 ≠ 0) || decide (field r 54 2 ≠ 0) ||
    (mKind r == 1 && !(sg 0 && sg 1 && sg 2 && (!mFlag r 1 || sg 3))) ||
    (mKind r == 2 && !(sg 0 && sg 1 && (!mFlag r 2 || sg 2)))

/-! ### Batches (R309) -/

/-- A batch closes; event 0x9015 tells what it lost. -/
def closeBatch (b : Batch) (s : State) : State :=
  let s := modFus s fun f => { f with open_ := f.open_.filter (fun x => !(decide (x.sensor = b.sensor) && decide (x.time = b.time)))
                                      closed := f.closed ++ [b] }
  if b.over_ = 0 then s else event srcAfzan 0x9015 (ownerOf (getFus s).owner) (leBytes 1 b.sensor ++ leBytes 2 b.over_) s

/-- The open batch of a record. -/
def batchOf (s : State) (r : List Byte) : Option Batch :=
  (getFus s).open_.find? fun b => decide (b.sensor = mSensor r) && decide (b.time = mTime r)

/-- A record joins its batch, opening it where needed; the 33rd open batch closes the oldest first. -/
def joinBatch (r : List Byte) (s : State) : State :=
  let s := if (batchOf s r).isSome then s
    else
      let s := match (getFus s).open_ with
        | b :: rest => if 31 ≤ rest.length then closeBatch b s else s
        | [] => s
      modFus s fun f => { f with open_ := f.open_ ++ [{ sensor := mSensor r, time := mTime r }] }
  match batchOf s r with
  | none => s
  | some b =>
    let full := decide (1024 ≤ b.recs.length)
    let b := if full then { b with over_ := b.over_ + 1 } else { b with recs := b.recs ++ [r] }
    let s := modFus s fun f =>
      { f with overflowed := if full then f.overflowed.add 1 else f.overflowed
               open_ := f.open_.map fun x => if x.sensor = b.sensor ∧ x.time = b.time then b else x }
    if mFlag r 0 then closeBatch b s else s

/-- The engine works: it is open, has not stopped, and no list waits (R319). -/
def fusOn (s : State) : Bool := decide ((getFus s).owner ≠ 0) && decide ((getFus s).stopped = 0) && fabricUp s

/-- FUS_MEAS_POP (R308, R309). -/
def execFusMeasPop (s : State) : Res :=
  let q := fMeas (getFus s).conf
  .next (if !fusOn s || (getFus s).wait.isSome || !(getQ s q).bound || decide ((getQ s q).len = 0) then s
    else
      let r := headEntry s q
      let s := roomMade q (popEntry q s)
      if measBad s r then modFus s fun f => { f with bad := f.bad.add 1 } else joinBatch r s)

/-! ### Ego-motion (R311, R312) -/

/-- A change of the DEGRADED state, with event 0x9014. -/
def setEgo (deg : Bool) (cause : Nat) (s : State) : State :=
  if (getFus s).degraded = deg then s
  else event srcAfzan 0x9014 (ownerOf (getFus s).owner) (leBytes 1 (b2n deg) ++ leBytes 1 cause) (modFus s fun f => { f with degraded := deg })

/-- The transform entry of a sensor. -/
def xfOf (s : State) (sensor : Nat) : List Byte := tget (getFus s).xf sensor

/-- The points or vectors that a record names, 16 bytes each. -/
def readPoints (r : List Byte) (s : State) : State × Nat × List (List Byte) :=
  let c := field r 62 2
  let n := if mKind r = 4 ∧ c = 0 then 65536 else c
  let x := busRead .fusion (field r 56 6) (16 * n) s
  (x.1, x.2.1, (List.range n).map fun i => (x.2.2.drop (16 * i)).take 16)

/-- A scan joins the map with its pose, which keeps 4 scans and 64 poses (R311). -/
def addScan (time : Nat) (pose : List Word) (pts : List Point) (s : State) : State :=
  setEgo false 0 (modFus s fun f => { f with
    poses := (f.poses ++ [(time, pose)]).drop (f.poses.length + 1 - 64)
    scans := (f.scans ++ [(time, pts)]).drop (f.scans.length + 1 - 4), regAt := s.ktime, flows := [] })

/-- Registers one scan (R311, R312): de-skewed and reduced, it is matched against the map; with 500 planes or more its pose joins the
history, and it the map at that pose. The first scan makes the map where the pose history puts it (assumption 30). -/
def registerScan (sensor time : Nat) (raw : List (List Byte)) (s : State) : State :=
  let f := getFus s
  let e := xfOf s sensor
  let pts := reduceScan (raw.map (deskew false f.poses e time))
  let map := f.scans.flatMap (·.2)
  let start := newest f.poses time
  if map.isEmpty then addScan time (start.map (rnd [])) pts s
  else
    let ps := planesOf map pts
    if ps.length < 500 then setEgo true 1 s
    else
      let last := match f.scans.getLast? with | some x => x.1 | none => time
      let fl := f.flows.filter fun x => decide (0 ≤ timeDiff x.t0 last) && decide (timeDiff x.t1 time ≤ 0)
      let pose := (Config.register ps (fl.map fun x => (x.cam, x.t0, x.t1, x.ends)) start ++ List.replicate 6 0#32).take 6
      let move := mmul 4 (poseMat (pose.map ratOf)) (inverse 4 (poseMat start))
      addScan time pose (pts.map fun p => (apply move (p.map ratOf)).map (rnd p)) s

/-- Undistorts points one after the other, up to the first refused or failed read. -/
def undistortAll (e : List Byte) (ps : List (Word × Word)) (s : State) : State × Nat × List (List Word) :=
  ps.foldl (fun (x : State × Nat × List (List Word)) p =>
    if x.2.1 ≠ stOK then x
    else
      let r := undistort e p.1 p.2 x.1
      (r.1, r.2.1, x.2.2 ++ [r.2.2])) (s, stOK, [])

/-- FLOW vectors are undistorted and wait for the scan that ends their interval (R307, R311). -/
def takeFlow (r : List Byte) (raw : List (List Byte)) (s : State) : State × Nat :=
  let e := xfOf s (mSensor r)
  let x := undistortAll e (raw.flatMap fun v => [(fp32At v 0, fp32At v 4), (fp32At v 8, fp32At v 12)]) s
  if x.2.1 ≠ stOK then (x.1, x.2.1)
  else
    let ends := (List.range raw.length).map fun i => x.2.2.getD (2 * i) [] ++ x.2.2.getD (2 * i + 1) []
    (modFus x.1 fun f => { f with flows := f.flows ++ [{ t0 := field r 16 8, t1 := mTime r, cam := e, ends := ends }] }, stOK)

/-- Ego-motion takes a SCAN or a FLOW record of a batch (R311). -/
def egoRecord (r : List Byte) (s : State) : State × Nat :=
  let x := readPoints r s
  if x.2.1 ≠ stOK then (x.1, x.2.1)
  else if mKind r = 4 then (registerScan (mSensor r) (mTime r) x.2.2 x.1, stOK)
  else takeFlow r x.2.2 x.1

/-- The newest pose's time. -/
def newestPose (s : State) : Nat := match (getFus s).poses.getLast? with | some p => p.1 | none => 0

/-- EGO_TIMEOUT (R312): no scan has been registered for 200 ms. -/
def execEgoTimeout (s : State) : Res :=
  .next (if !fusOn s || fEgoOff (getFus s).conf || decide (ktSince s (getFus s).regAt < msUnits 200) then s else setEgo true 2 s)

/-! ### Tracks (R313 to R318) -/

/-- The live tracks' slots, ascending. -/
def liveSlots (s : State) : List Nat := ((getFus s).tracks.filter fun x => x.2.live).map (·.1)
def getTrack (s : State) (k : Nat) : Track := tget (getFus s).tracks k
/-- Changes a track. -/
def modTrack (s : State) (k : Nat) (f : Track → Track) : State := modFus s fun x => { x with tracks := tmod x.tracks k f }

/-- The operands of a track's arithmetic. -/
def Track.words (t : Track) : List Word := t.x ++ t.cov
/-- A new state and covariance of a track, rounded. -/
def Track.put (t : Track) (ins : List Word) (v : Vec × Mat) : Track :=
  { t with x := v.1.map (rnd ins), cov := v.2.flatten.map (rnd ins) }

/-- Predicts a track to TIME (R313). With dt = 0 nothing changes. -/
def predict (time : Nat) (s : State) (k : Nat) : State :=
  let c := (getFus s).conf
  modTrack s k fun t =>
    if t.at_ = time then { t with now := false }
    else { (t.put t.words (predicted (secs time t.at_) (fAcc c) (fVert c) (fYaw c) (t.x.map ratOf) (covMat t.cov))) with now := false, at_ := time }

/-- The words of a measurement record. -/
def recWords (r : List Byte) : List Word := (List.range 16).map fun i => fp32At r (4 * i)

/-- A POSE3D or IMAGE record as it is used: the sensor's transform to O, its entry, and an IMAGE's undistorted coordinates. -/
structure Seen where
  t : Mat
  e : List Byte
  r : List Byte
  xy : List Word
deriving DecidableEq, Repr

/-- The measurement of a track at state `x`. -/
def Seen.meas (m : Seen) (x : Vec) : Meas := if mKind m.r = 1 then poseMeas m.t m.r x else imageMeas m.t m.e m.r m.xy x

/-- A pair of a record and a track, with its d² as an FP32 code (R315). -/
structure FusPair where
  d : Nat
  slot : Nat
  rec_ : Nat
deriving DecidableEq, Repr

/-- Whether one pair is taken before another (R316). -/
def FusPair.before (a b : FusPair) : Bool :=
  decide (a.d < b.d) || (decide (a.d = b.d) && (decide (a.slot < b.slot) || (decide (a.slot = b.slot) && decide (a.rec_ < b.rec_))))

/-- Puts a pair in its place. -/
def insertPair (p : FusPair) : List FusPair → List FusPair
  | [] => [p]
  | x :: xs => if p.before x then p :: x :: xs else x :: insertPair p xs

/-- d² of a pair as an FP32 code (R315). -/
def gateOf (m : Seen) (t : Track) : Nat :=
  (rnd (t.words ++ recWords m.r) ((m.meas (t.x.map ratOf)).d2 (covMat t.cov))).toNat % 2 ^ 31

/-- The pairs inside their gates, in the order they are taken (R315, R316). -/
def gatedPairs (gate : Nat) (ms : List (Nat × Seen)) (ts : List (Nat × Track)) : List FusPair :=
  (ms.flatMap fun m => ts.map fun t => (⟨gateOf m.2 t.2, t.1, m.1⟩ : FusPair)).foldl (fun l p => if p.d ≤ gate then insertPair p l else l) []

/-- The greedy assignment (R316): each track and each record at most once. -/
def assign : List FusPair → List (Nat × Nat) → List (Nat × Nat)
  | [], acc => acc
  | p :: ps, acc => if acc.any fun a => decide (a.1 = p.slot) || decide (a.2 = p.rec_) then assign ps acc else assign ps (acc ++ [(p.slot, p.rec_)])

/-- A tentative track with enough hits in time becomes confirmed (R317). -/
def confirm (c : List Byte) (t : Track) : Track :=
  if !t.confirmed && decide (fHits c ≤ t.hits) && decide (timeDiff t.update t.start ≤ (fConfirm c : Int)) then { t with confirmed := true } else t

/-- EXTENT smoothed into a track's with weight 0.25, in FP16; the first one given is the track's (R314). -/
def smooth (old : List Byte) (r : List Byte) : List Byte :=
  if field r 48 6 = 0 then old
  else if leNat old = 0 then (r.drop 48).take 6
  else (List.range 3).flatMap fun i => (Config.fusHalf (field old (2 * i) 2) (field r (48 + 2 * i) 2) ++ leBytes 2 0).take 2

/-- A record updates a track (R314). -/
def updateTrack (k : Nat) (m : Seen) (s : State) : State :=
  let r := m.r
  modTrack s k fun t =>
    let x := t.x.map ratOf
    confirm (getFus s).conf
      { (t.put (t.words ++ recWords r) ((m.meas x).update x (covMat t.cov))) with
        extent := smooth t.extent r, cls := field r 2 1, hits := min (t.hits + 1) 65535
        update := mTime r, now := true, sensors := tput t.sensors (mSensor r) (mTime r + 1) }

/-- The lowest free slot. -/
def freeSlot (s : State) : Nat := ((List.range 4096).find? fun k => !(getTrack s k).live).getD 4096

/-- π as the engine's FP32 constant. -/
def piF : Rat := ratOf 0x40490FDB#32

/-- State and covariance of a track that a record starts: at the measurement, or along the ray of an IMAGE with depth, with velocity 0
and speed deviation INIT_SIGMA_V. Without HAS_YAW yaw is 0 with deviation π. The rest is not given (R317, assumption 30). -/
def firstState (sv : Rat) (m : Seen) : List Word × List Word :=
  let r := m.r
  let ins := recWords r
  let pose := decide (mKind r = 1)
  let z := if pose then poseMeas m.t r (List.replicate 8 0)
    else
      let d := ratOf (fp32At r 24)
      { z := apply m.t ((m.xy.map fun w => ratOf w * d) ++ [d]), h := [], rows := [], noise := [] }
  let yaw := pose && mFlag r 1
  let free := Config.fusInit r
  let p := fun (i : Nat) => if i < 3 then z.z.getD i 0 else if i = 6 ∧ yaw then z.z.getD 3 0 else 0
  let x := (List.range 8).map fun i => if i = 7 ∨ (i = 6 ∧ !pose) then free i else if i < 3 ∨ (i = 6 ∧ yaw) then rnd ins (p i) else 0#32
  let c := (List.range 64).map fun k =>
    let i := k / 8
    let j := k % 8
    if i < 3 ∧ j < 3 then (if pose then rnd ins ((z.noise.getD i []).getD j 0) else free (8 + k))
    else if i ≠ j then 0#32
    else if i < 6 then rnd ins (sv * sv)
    else if i = 6 ∧ pose then rnd ins (if yaw then (z.noise.getD 3 []).getD 3 0 else piF * piF)
    else free (8 + k)
  (x, c)

/-- A record outside every gate starts a tentative track, if it can (R317, R318); answers whether the table was full. -/
def startTrack (m : Seen) (s : State) : State × Bool :=
  let c := (getFus s).conf
  let r := m.r
  if mKind r = 2 ∧ mFlag r 2 = false then (modFus s fun f => { f with unassigned := f.unassigned.add 1 }, false)
  else if fMax c ≤ (liveSlots s).length ∨ freeSlot s = 4096 then (modFus s fun f => { f with notStarted := f.notStarted.add 1 }, true)
  else
    let x := firstState (fSigmaV c) m
    (modTrack s (freeSlot s) fun t => confirm c
      { live := true, gen := t.gen + 1, now := true, start := mTime r, update := mTime r, at_ := mTime r, hits := 1, cls := field r 2 1
        x := x.1, cov := x.2, extent := smooth [] r, sensors := [(mSensor r, mTime r + 1)] }, false)

/-- Deletes the tracks that have coasted too long at a batch's TIME; the slot keeps its count of starts (R317). -/
def dropTracks (time : Nat) (s : State) : State :=
  let c := (getFus s).conf
  (liveSlots s).foldl (fun s k =>
    let t := getTrack s k
    if ((if t.confirmed then fCoast c else fTent c) : Int) ≤ timeDiff time t.update then modTrack s k fun t => { gen := t.gen } else s) s

/-- The POSE3D and IMAGE records of a batch as they are used, by their places in it; images are undistorted (R305, R307). -/
def seenOf (b : Batch) (s : State) : State × Nat × List (Nat × Seen) :=
  let e := xfOf s b.sensor
  let f := getFus s
  let t := toO (fEgoOff f.conf) f.poses e b.time
  ((List.range b.recs.length).filter fun i => mTracks (b.recs.getD i [])).foldl (fun (x : State × Nat × List (Nat × Seen)) i =>
    let r := b.recs.getD i []
    if x.2.1 ≠ stOK then x
    else
      let u := if mKind r = 2 then undistort e (fp32At r 16) (fp32At r 20) x.1 else (x.1, stOK, [])
      (u.1, u.2.1, x.2.2 ++ [(i, { t := t, e := e, r := r, xy := u.2.2 })])) (s, stOK, [])

/-- Applies the records of a batch to the track table (R313 to R318). -/
def trackBatch (b : Batch) (ms : List (Nat × Seen)) (s : State) : State :=
  let s := (liveSlots s).foldl (predict b.time) s
  let g := gatedPairs (fGate (getFus s).conf) ms ((liveSlots s).map fun k => (k, getTrack s k))
  let a := assign g []
  let s := a.foldl (fun s x => match ms.find? fun m => decide (m.1 = x.2) with | some m => updateTrack x.1 m.2 s | none => s) s
  let r := ms.foldl (fun (x : State × Nat) m =>
    if a.any fun y => decide (y.2 = m.1) then x
    else if g.any fun y => decide (y.rec_ = m.1) then (modFus x.1 fun f => { f with unassigned := f.unassigned.add 1 }, x.2)
    else
      let y := startTrack m.2 x.1
      (y.1, if y.2 then x.2 + 1 else x.2)) (s, 0)
  let s := if r.2 = 0 then r.1 else event srcAfzan 0x9012 (ownerOf (getFus r.1).owner) (leBytes 1 b.sensor ++ leBytes 2 r.2) r.1
  dropTracks b.time s

/-! ### Processing (R310) -/

/-- The engine closes: its tables are cleared, and it is free for another party (R326). -/
def closeFus (s : State) : State := { s with cap := { s.cap with fus := {} } }

/-- Completes FUS_CLOSE once no batch is in progress. -/
def fusCloseIfAsked (s : State) : State :=
  match (getFus s).closing with
  | none => s
  | some d => if (getFus s).wait.isSome then s else finish d ok (closeFus s)

/-- The engine stops: one of its accesses was refused or failed (Table 1.7). -/
def stopFus (st : Nat) (s : State) : State :=
  fusCloseIfAsked (tell (getFus s).owner .fusion st (modFus s fun f => { f with stopped := st, wait := none }))

/-- Applies a batch at its TIME: ego-motion first, record by record, then the tracks. With EGO_OFF there is no ego-motion. -/
def applyBatch (b : Batch) (s : State) : State :=
  let off := fEgoOff (getFus s).conf
  let r := b.recs.foldl (fun (x : State × Nat) r => if x.2 ≠ stOK ∨ mTracks r ∨ off then x else egoRecord r x.1) (s, stOK)
  if r.2 ≠ stOK then stopFus r.2 r.1
  else if !(b.recs.any mTracks) then r.1
  else
    let s := r.1
    let s := if !off && decide ((msUnits 200 : Int) < timeDiff b.time (newestPose s)) then setEgo true 3 s else s
    let m := seenOf b s
    if m.2.1 ≠ stOK then stopFus m.2.1 m.1
    else modFus (trackBatch b m.2.2 m.1) fun f => { f with wait := some { time := b.time, sensor := b.sensor, gen := f.gen } }

/-- FUS_BATCH_PROCESS (R310 to R318): the batch that closed first is processed, where it is one of the sensor named (R309). -/
def execFusBatchProcess (sensor : BitVec 8) (s : State) : Res :=
  .next (match (getFus s).closed with
    | [] => s
    | b :: rest =>
      if !fusOn s || (getFus s).wait.isSome || decide (b.sensor ≠ sensor.toNat) then s
      else
        let late := timeDiff s.ktime b.time
        let n := b.recs.length
        let s := modFus s fun f => { f with closed := rest }
        if (fLate (getFus s).conf : Int) < late then
          event srcAfzan 0x9011 (ownerOf (getFus s).owner) (leBytes 1 b.sensor ++ leBytes 2 n ++ leBytes 4 (late.toNat / 100))
            (modFus s fun f => { f with late := f.late.add n })
        else if late < -(msUnits 10 : Int) then modFus s fun f => { f with future := f.future.add n }
        else applyBatch b s)

/-! ### Track lists (R319) -/

/-- A track's entry (Table 10.12) in a list of TIME `time`. Its deviations are not given to the bit (assumption 30). -/
def trackEntry (c : List Byte) (time : Nat) (k : Nat) (t : Track) : List Byte :=
  let coast := if t.confirmed then fCoast c else fTent c
  let w := fun (i : Nat) => leBytes 4 (t.x.getD i 0#32).toNat
  let mask := ((List.range 32).map fun i =>
    if tget t.sensors i ≠ 0 ∧ timeDiff time (tget t.sensors i - 1) ≤ (coast : Int) then 2 ^ i else 0).sum
  leBytes 4 (k + 4096 * ((t.gen - 1) % 2 ^ 20)) ++ leBytes 1 (if !t.confirmed then 0 else if t.now then 1 else 2) ++ leBytes 1 t.cls ++
    leBytes 2 t.hits ++ leBytes 8 t.update ++ w 0 ++ w 1 ++ w 2 ++ w 3 ++ w 4 ++ w 5 ++ w 6 ++ w 7 ++ (t.extent ++ leBytes 6 0).take 6 ++
    ((List.range 3).flatMap fun i => (Config.fusSigma t.x t.cov i ++ leBytes 2 0).take 2) ++ leBytes 4 mask

/-- EGO_POS, EGO_ROT and EGO_VEL of a list header (Table 10.11): T_ego at TIME, the identity with EGO_OFF (R305). -/
def egoBytes (f : Fusion) (time : Nat) : List Byte :=
  if fEgoOff f.conf then leBytes 36 0
  else
    let p := tEgo f.poses time
    let ins := f.poses.flatMap (·.2)
    let put := fun (v : Vec) => v.flatMap fun x => leBytes 4 (rnd ins x).toNat
    put ((p ++ [0, 0, 0]).take 3) ++ ((List.range 3).flatMap fun i => leBytes 4 (Config.eulerOf (p.drop 3) i).toNat) ++ put ((egoRate f.poses ++ [0, 0, 0]).take 3)

/-- The bytes of a track list: the header of Table 10.11, and an entry for every live track, in ascending slot (R319). -/
def listBytes (s : State) (l : FusList) : List Byte :=
  let f := getFus s
  leBytes 8 ((f.lists + 1) % 2 ^ 64) ++ leBytes 8 l.time ++ egoBytes f l.time ++ leBytes 2 (liveSlots s).length ++
    leBytes 1 (b2n (f.degraded && !fEgoOff f.conf)) ++ leBytes 1 l.sensor ++ leBytes 4 l.gen ++ leBytes 4 0 ++
    (liveSlots s).flatMap fun k => trackEntry f.conf l.time k (getTrack s k)

/-- FUS_LIST_PUSH (R319): with two slots free, the list of the batch just processed is written and its record pushed. -/
def execFusListPush (s : State) : Res :=
  let f := getFus s
  let c := f.conf
  let q := fOut c
  .next (match f.wait with
    | none => s
    | some l =>
      if !fusOn s || !(getQ s q).bound || decide (freeSlots s q < 2) then s
      else
        let k := getQ s q
        let a := field c 8 6 + k.tail % k.n * field c 16 4
        let num := (f.lists + 1) % 2 ^ 64
        let r := busWrite .fusion a (listBytes s l) s
        if r.2 ≠ stOK then stopFus r.2 r.1
        else
          let s := modFus r.1 fun f => { f with lists := num, wait := none }
          let rec_ := leBytes 8 num ++ leBytes 8 l.time ++ leBytes 6 a ++ leBytes 2 (liveSlots s).length ++
            leBytes 1 (b2n (f.degraded && !fEgoOff c)) ++ leBytes 1 l.sensor ++ leBytes 6 0
          fusCloseIfAsked (pushEntry q rec_ s))

/-! ### Messages -/

/-- A field outside [lo, hi], 0 standing for its default. -/
def outOf (v lo hi : Nat) : Bool := decide (v ≠ 0) && (decide (v < lo) || decide (hi < v))

/-- The field checks of FUS_OPEN (R304). -/
def fusBad (s : State) (m : Msg) : List (Nat × Bool) :=
  let c := m.payload
  let f := fun (o n : Nat) => fld m o n
  [(0, decide (2 ^ 18 ≤ f 0 4) || !qForm s (fMeas c) 1 2 none (some 7)),
      (4, decide (2 ^ 18 ≤ f 4 4) || !qForm s (fOut c) 1 1 (some 7) none),
      (8, decide (f 8 6 % 4096 ≠ 0)), (14, outOf (f 14 2) 1 4096),
      (16, decide (f 16 4 % 4096 ≠ 0) || decide (f 16 4 < 64 * (fMax c + 1))), (20, outOf (f 20 2) 1 1000), (22, outOf (f 22 2) 10 5000),
      (24, outOf (f 24 4) 0x3F800000 0x42C80000), (28, decide (16 < f 28 1)), (29, decide (2 ≤ f 29 1)), (30, outOf (f 30 2) 10 10000),
      (32, outOf (f 32 2) 10 10000), (34, rsvBad m 34 2), (52, rsvBad m 52 12)]

/-- Own checks and effect of FUS_OPEN (R304). A party that already holds the engine is answered BUSY too (assumption 32).
The order of its answers: DESIGN CHOICE, assumption 117. -/
def ownFusOpen : Own := fun m d s =>
  let c := m.payload
  let f := fun (o n : Nat) => fld m o n
  let n := (getQ s (fOut c)).n
  if (getFus s).owner ≠ 0 then say (sts stBUSY) s
  else checked (fusBad s m) s
    (refusedBy [(!qReq s d.party (fMeas c) || !qReq s d.party (fOut c), stDENIED),
        (!inReq s d.party (f 8 6) ((n - 1) * f 16 4 + 64 * (fMax c + 1)), stDENIED)] s
      (say ok (modFus s fun _ => { owner := d.party + 1, conf := c, regAt := s.ktime, poses := [(s.ktime, List.replicate 6 0#32)] })))

/-- FUS_OPEN (R304). -/
def execFusOpen (m : Msg) (s : State) : Res := .next (serve 0x0610 isParty (lenIs 64) ownFusOpen m s)

/-- Own checks and effect of FUS_CLOSE (R326). -/
def ownFusClose : Own := fun _ d s =>
  if (getFus s).owner ≠ d.party + 1 then say (sts stDENIED) s
  else if (getFus s).wait.isNone then say ok (closeFus s)
  else (modFus s fun f => { f with closing := some d }, none)

/-- FUS_CLOSE (R326). -/
def execFusClose (m : Msg) (s : State) : Res := .next (serveAs false 0x0611 isParty (lenIs 0) ownFusClose m s)

/-- An FP32 code that is 0. -/
def isZero32 (c : Nat) : Bool := decide (c % 2 ^ 31 = 0)

/-- The first field of a transform entry that fails (R327, Table 10.8). -/
def xfBad (e : List Byte) : Option Nat :=
  let f := fun (o n : Nat) => field e o n
  let cam := f 84 1 == 1
  let step := 2 ^ f 85 1
  let pts := ((f 80 2 + step - 1) / step + 1) * ((f 82 2 + step - 1) / step + 1)
  firstBad [(48, !isZero32 (f 48 4)), (52, !isZero32 (f 52 4)), (56, !isZero32 (f 56 4)), (60, decide (f 60 4 ≠ 0x3F800000)),
    (84, decide (3 < f 84 1)), (85, cam && (decide (f 85 1 < 3) || decide (6 < f 85 1))), (86, decide (f 86 2 ≠ 0)), (94, decide (f 94 2 ≠ 0)),
    (96, cam && decide (f 96 4 ≠ 4 * pts)), (104, decide (f 104 24 ≠ 0))]

/-- Own checks and effect of FUS_TRANSFORM_LOAD (R307, R327). -/
def ownFusTransformLoad : Own := fun m d s =>
  let a := fld m 0 6
  let k := fld m 6 1
  let e := memRead s a 128
  checked [(0, decide (a % 64 ≠ 0)), (6, decide (31 < k)), (7, rsvBad m 7 1)] s
  (if (getFus s).owner ≠ d.party + 1 ∨ !inReq s d.party a 128 then say (sts stDENIED) s
   else match xfBad e with
    | some o => say (badBuf o) s
    | none =>
      if field e 84 1 = 1 ∧ !inReq s d.party (field e 88 6) (field e 96 4) then say (sts stDENIED) s
      else
        let g := ((getFus s).gen + 1) % 2 ^ 32
        say ok (event srcAfzan 0x9013 d.party (leBytes 1 k ++ leBytes 4 (field e 100 4) ++ leBytes 4 g)
          (modFus s fun f => { f with gen := g, xf := tput f.xf k (if field e 84 1 = 0 then [] else e) })))

/-- FUS_TRANSFORM_LOAD (R327). -/
def execFusTransformLoad (m : Msg) (s : State) : Res := .next (serve 0x0612 isParty (lenIs 8) ownFusTransformLoad m s)

/-- The payload of FUS_STATS (R328). -/
def fusStats (s : State) : List Byte :=
  let f := getFus s
  leBytes 2 (liveSlots s).length ++ leBytes 2 0 ++ leBytes 4 f.gen ++ leBytes 8 f.late.val ++ leBytes 8 f.future.val ++ leBytes 8 f.bad.val ++
    leBytes 8 f.unassigned.val ++ leBytes 8 f.overflowed.val ++ leBytes 8 f.notStarted.val ++
    (List.range 32).flatMap fun i => leBytes 4 (field (tget f.xf i) 100 4)

/-- Own checks and effect of FUS_STATS (R328): a read clears OVF (R10, R11), CLEAR the counters. -/
def ownFusStats : Own := fun m d s =>
  let f := getFus s
  checked [(0, decide (2 ≤ fld m 0 1)), (1, rsvBad m 1 3)] s
  (if f.owner ≠ d.party + 1 then say (sts stDENIED) s
   else say (okWith (fusStats s))
     (let g := fun (c : Stat) => if fld m 0 1 = 1 then {} else c.read
      modFus s fun f => { f with
        late := g f.late, future := g f.future, bad := g f.bad, unassigned := g f.unassigned, overflowed := g f.overflowed
        notStarted := g f.notStarted }))

/-- FUS_STATS (R328). -/
def execFusStats (m : Msg) (s : State) : Res := .next (serve 0x0613 isParty (lenIs 4) ownFusStats m s)

/-- On entry to Rest or Park the engine is closed (R296). -/
def closeAllFus (s : State) : State :=
  match (getFus s).closing with | some d => finish d ok (closeFus s) | none => closeFus s

end Sys2Proof.Machine
end

