-- ==== Sys2Proof/Machine/Gateway.lean ====
section
/-! DEFINITION. CAN controllers, the TSN switch and the gateway routing engine (R469 to R480). -/

namespace Sys2Proof.Machine

/-! ### CAN controllers -/

/-- A controller's record. -/
def getCan (s : State) (c : Nat) : CanCtl := tget s.gw.can c
/-- Changes a controller. -/
def modCan (s : State) (c : Nat) (f : CanCtl → CanCtl) : State := { s with gw := { s.gw with can := tmod s.gw.can c f } }
/-- A routing rule. -/
def getRule (s : State) (r : Nat) : Rule := tget s.gw.rule r
/-- Changes a rule. -/
def modRule (s : State) (r : Nat) (f : Rule → Rule) : State := { s with gw := { s.gw with rule := tmod s.gw.rule r f } }

/-- MODE of a CAN_OPEN payload: 0 classic, 1 FD, 2 XL. -/
def canMode (c : List Byte) : Nat := field c 1 1 % 4
def canListen (c : List Byte) : Bool := bitOf (field c 1 1) 2
def canWake (c : List Byte) : Bool := bitOf (field c 1 1) 3
def canRxOn (c : List Byte) : Bool := bitOf (field c 8 4) 31
def canTxOn (c : List Byte) : Bool := bitOf (field c 12 4) 31
def canRx (c : List Byte) : Nat := field c 8 4 % 2 ^ 18
def canTx (c : List Byte) : Nat := field c 12 4 % 2 ^ 18

/-- The smallest prescaler that reaches a rate, with its quanta per bit (R470). -/
def canTiming (kbps maxPre lo hi : Nat) : Option (Nat × Nat) :=
  if kbps = 0 ∨ 200000 % kbps ≠ 0 then none
  else
    let n := 200000 / kbps
    ((List.range maxPre).map (· + 1)).findSome? fun p =>
      if n % p = 0 ∧ lo ≤ n / p ∧ n / p ≤ hi then some (p, n / p) else none

/-- Timing of the arbitration phase, within Table 16.1. -/
def canNominal (mode kbps : Nat) : Option (Nat × Nat) :=
  if kbps < (if mode = 0 then 10 else 125) ∨ 1000 < kbps then none else canTiming kbps 256 8 160
/-- Timing of the data phase, within Table 16.1. -/
def canData (mode kbps : Nat) : Option (Nat × Nat) :=
  if (if mode = 1 then 8000 else 20000) < kbps then none else canTiming kbps 32 5 50

/-- Largest frame of a format in bytes. -/
def canMax (mode : Nat) : Nat := match mode with | 0 => 8 | 1 => 64 | _ => 2048

/-- Whether a frame is one of the controller's formats. -/
def canFits (mode : Nat) (f : CanFrame) : Bool :=
  (!f.xlf || mode == 2) && (!f.fdf || mode != 0) &&
    decide (f.data.length ≤ (if f.xlf then 2048 else if f.fdf then 64 else 8)) && (!f.xlf || decide (1 ≤ f.data.length))

/-- KTIME of an event of the gateway, within the 20 ns of R473. -/
def kt20 (s : State) : Nat × State :=
  let d := freeNum s
  ((s.ktime + 2 ^ 64 + d.1 % 5 - 2) % 2 ^ 64, d.2)

/-- FLAGS of a frame record (Table 16.3). -/
def canFlags (f : CanFrame) (done err : Bool) : Nat :=
  b2n f.ide + 2 * b2n f.fdf + 4 * b2n f.xlf + 8 * b2n f.brs + 16 * b2n f.esi + 32 * b2n f.rtr + 64 * b2n done + 128 * b2n err

/-- A frame record (Table 16.3). -/
def canRecord (ktime c addr : Nat) (f : CanFrame) (done err : Bool) : List Byte :=
  leBytes 8 ktime ++ leBytes 4 f.id.toNat ++ leBytes 1 (canFlags f done err) ++ leBytes 1 c ++ leBytes 2 f.data.length ++
    leBytes 4 f.xlCtrl.toNat ++ leBytes 4 f.xlAf.toNat ++ leBytes 6 addr ++ leBytes 2 0

/-- The frame that a transmit record names, with its data. -/
def canOfRecord (r : List Byte) (data : List Byte) : CanFrame :=
  let g := fun (i : Nat) => bitOf (field r 12 1) i
  { id := BitVec.ofNat 29 (field r 8 4), ide := g 0, fdf := g 1, xlf := g 2, brs := g 3, esi := g 4, rtr := g 5
    xlCtrl := BitVec.ofNat 32 (field r 16 4), xlAf := BitVec.ofNat 32 (field r 20 4), data := data }

/-- The initiator of the controllers and the routing engine (R469). -/
def gwIni (party : Nat) : Initiator := .tsn 2 (partyOf party)

/-- A controller runs: open, not stopped by BLOCK_POWER, and the fabric up. -/
def canOn (s : State) (c : Nat) : Bool := decide ((getCan s c).owner ≠ 0) && !blockOff s 10 c && fabricUp s

/-- A frame that finds RX_QUEUE full, or whose write is refused, is dropped and counted; event 0x6005 at most once per
millisecond (R473). -/
def canDrop (c : Nat) (s : State) : State :=
  let t := getCan s c
  let s := modCan s c fun t => { t with dropped := t.dropped.add 1, since := t.since + 1 }
  if t.evAt = 0 ∨ 100000 ≤ ktSince s (t.evAt - 1) then
    event srcAfzan 0x6005 (ownerOf t.owner) (leBytes 1 c ++ leBytes 4 (t.since + 1))
      (modCan s c fun t => { t with since := 0, evAt := s.ktime + 1 })
  else s

/-- Takes waiting routed frames, then records of TX_QUEUE, into the transmit buffers (R473). -/
def canFeedN (c : Nat) : Nat → State → State
  | 0, s => s
  | n + 1, s =>
    let t := getCan s c
    if !canOn s c || decide (8 ≤ t.buf.length) then s
    else match t.wait with
      | b :: rest => canFeedN c n (modCan s c fun t => { t with buf := t.buf ++ [b], wait := rest })
      | [] =>
        let q := canTx t.conf
        if !canTxOn t.conf || !(getQ s q).bound || decide ((getQ s q).len = 0) then s
        else
          let r := headEntry s q
          let s := roomMade q (popEntry q s)
          let d := busRead (gwIni (ownerOf t.owner)) (field r 24 6) (field r 14 2) s
          canFeedN c n (if d.2.1 = stOK then modCan d.1 c fun t => { t with buf := t.buf ++ [{ frame := canOfRecord r d.2.2 }] }
            else canDrop c d.1)

/-- Fills the transmit buffers of a controller. -/
def canFeed (c : Nat) (s : State) : State := canFeedN c 16 s
/-- Fills those of every controller whose TX_QUEUE is `q` (QPT_TAIL_WRITE). -/
def canFeedQ (q : Nat) (s : State) : State :=
  (List.range 12).foldl (fun s c => if (getCan s c).owner ≠ 0 ∧ canTxOn (getCan s c).conf ∧ canTx (getCan s c).conf = q then canFeed c s else s) s

/-- The priority identifier by which buffered frames leave: an 11-bit one stands above the extension bits. -/
def canPrio (f : CanFrame) : Nat := if f.ide then f.id.toNat else (f.id.toNat % 2 ^ 11) * 2 ^ 18

/-- The buffered frame that goes next: lowest identifier, then order of entry; with its position. -/
def canNext (bs : List CanBuf) : Option (Nat × CanBuf) :=
  (List.range bs.length).foldl (fun (x : Option (Nat × CanBuf)) i =>
    match bs[i]?, x with
    | some b, none => some (i, b)
    | some b, some y => if canPrio b.frame < canPrio y.2.frame then some (i, b) else some y
    | none, x => x) none

/-- The echo of a frame that was sent, or abandoned (R473). Its ADDR, which the spec does not state, is free. -/
def canEcho (c : Nat) (f : CanFrame) (err : Bool) (s : State) : State :=
  let t := getCan s c
  if !canRxOn t.conf then s
  else
    let k := kt20 s
    let a := freeNum k.2
    if canPush s (canRx t.conf) then pushEntry (canRx t.conf) (canRecord k.1 c (a.1 % 2 ^ 48) f true err) a.2 else canDrop c a.2

/-- Event 0x6004; the error counters are not given (assumption 37). -/
def canState (c st : Nat) (s : State) : State :=
  let a := freeNum s
  let b := freeNum a.2
  event srcAfzan 0x6004 (ownerOf (getCan s c).owner) (leBytes 1 c ++ leBytes 1 st ++ leBytes 1 a.1 ++ leBytes 1 b.1) b.2

/-- CAN_FRAME_SENT (R473): the controller finishes with the frame of lowest identifier; `ok` is false where it goes bus-off
and abandons the frame. -/
def execCanFrameSent (ctrl : Fin 12) (ok : Bool) (s : State) : Res :=
  let c := ctrl.val
  let s := canFeed c s
  let t := getCan s c
  .next (if !canOn s c || t.err == 2 || t.txOff || t.standby || canListen t.conf then s
    else match canNext t.buf with
      | none => s
      | some b =>
        let s := modCan s c fun t => { t with buf := t.buf.eraseIdx b.1, sent := if ok then [b.2.frame] else [] }
        let s := canEcho c b.2.frame (!ok) s
        let s := if ok then s else canState c 2 (modCan s c fun t => { t with err := 2 })
        canFeed c s)

/-- CAN_BUS_OFF_RECOVERY (R473): 128 occurrences of 11 recessive bits. -/
def execCanBusOffRecovery (ctrl : Fin 12) (s : State) : Res :=
  let c := ctrl.val
  .next (if (getCan s c).owner = 0 ∨ (getCan s c).err ≠ 2 then s
    else canFeed c (canState c 3 (modCan s c fun t => { t with err := 0 })))

/-! ### Drops and destinations of the routing engine (R478) -/

/-- A frame is dropped for one destination: counted at the rule, with event 0x6006 (R478, R479). -/
def routeDrop (r reason : Nat) (s : State) : State :=
  let s := modRule s r fun x => if reason = 2 then { x with gaps := x.gaps.add 1 } else { x with drops := x.drops.add 1 }
  let n := if reason = 2 then (getRule s r).gaps.n else (getRule s r).drops.n
  event srcAfzan 0x6006 (ownerOf (getRule s r).owner) (leBytes 2 r ++ leBytes 1 reason ++ leBytes 4 n) s

/-- A CAN destination: the frame enters the transmit buffers, or waits for one (R478). -/
def toCan (r dst : Nat) (f : CanFrame) (s : State) : State :=
  let t := getCan s dst
  if t.owner = 0 then modRule s r fun x => { x with drops := x.drops.add 1 }
  else if t.buf.length < 8 && t.wait.isEmpty then modCan s dst fun t => { t with buf := t.buf ++ [{ frame := f, rule := r + 1 }] }
  else modCan s dst fun t => { t with wait := t.wait ++ [{ frame := f, rule := r + 1, at_ := s.ktime }] }

/-- A queue destination: the data goes to its slot, then the record is pushed (R478). -/
def toQueue (r src : Nat) (f : CanFrame) (s : State) : State :=
  let x := getRule s r
  let q := field x.conf 20 4 % 2 ^ 18
  if !canPush s q then routeDrop r 1 s
  else
    let k := getQ s q
    let a := field x.conf 48 6 + k.tail % k.n * 2048
    let w := busWrite (gwIni (ownerOf x.owner)) a f.data s
    if w.2 ≠ stOK then modRule w.1 r fun x => { x with drops := x.drops.add 1 }
    else
      let t := kt20 w.1
      pushEntry q (canRecord t.1 src a f false false) t.2

/-- ROUTE_DEST_TIMEOUT (R478): a controller's buffers stay full for 10 ms. -/
def execRouteDestTimeout (ctrl : Fin 12) (s : State) : Res :=
  let c := ctrl.val
  .next (match (getCan s c).wait with
    | [] => s
    | b :: rest => if ktSince s b.at_ < 1000000 then s
      else routeDrop (b.rule - 1) 1 (modCan s c fun t => { t with wait := rest }))

/-! ### The switch (R474 to R476) -/

def getPort (s : State) (p : Nat) : TsnPort := tget s.gw.port p
/-- Changes a switch port. -/
def modPort (s : State) (p : Nat) (f : TsnPort → TsnPort) : State := { s with gw := { s.gw with port := tmod s.gw.port p f } }

/-- The ports a frame is forwarded to, other than its own: a static entry, a learned address, or all members (R476). -/
def forwardMask (s : State) (port : Nat) (f : EthFrame) : List Nat :=
  let v := tget s.gw.vlan f.vlan.toNat
  let key := fun (e : Nat × Nat × Nat) => decide (e.1 = f.dst.toNat) && decide (e.2.1 = f.vlan.toNat)
  let mask := match s.gw.static_.find? key with
    | some e => v.ports &&& e.2.2
    | none => match s.gw.learned.find? key with
      | some e => v.ports &&& 2 ^ e.2.2
      | none => v.ports
  (List.range 12).filter fun p => bitOf mask p && decide (p ≠ port) && (getPort s p).on && (decide (p < 4) || (getPort s p).up)

/-- Other addresses are learned (R476). -/
def learn (port : Nat) (f : EthFrame) (s : State) : State :=
  let key := fun (e : Nat × Nat × Nat) => decide (e.1 = f.src.toNat) && decide (e.2.1 = f.vlan.toNat)
  if s.gw.static_.any key then s
  else { s with gw := { s.gw with learned := s.gw.learned.filter (fun e => !key e) ++ [(f.src.toNat, f.vlan.toNat, port)] } }

/-- Whether stream filters or elimination drop the frame. Their sections' layouts are not given: with one in force the
choice is free (assumption 33). -/
def filtered (s : State) : Bool × State :=
  if s.gw.sect.any fun e => decide (e.1 / 256 = 7) || decide (e.1 / 256 = 8) then
    (Config.freeBool s.fresh, { s with fresh := s.fresh + 1 })
  else (false, s)

/-- Frames out of the switch, for the world outside and for the interfaces of port 0. -/
def sendOut (ps : List Nat) (f : EthFrame) (s : State) : State :=
  { s with gw := { s.gw with out := s.gw.out ++ (ps.filter fun p => p ≠ 1 && p ≠ 2).map fun p => (p, f) } }

/-! ### The routing engine (R477 to R480) -/

/-- The CAN bits that MATCH compares (Table 16.6). -/
def canWord (f : CanFrame) : Nat := f.id.toNat + b2n f.ide * 2 ^ 29 + b2n f.fdf * 2 ^ 30 + b2n f.xlf * 2 ^ 31

/-- Whether a rule matches a CAN frame of a controller. -/
def matchCan (x : Rule) (c : Nat) (f : CanFrame) : Bool :=
  decide (x.owner ≠ 0) && decide (field x.conf 4 1 = 0) && decide (field x.conf 5 1 = c) &&
    decide ((canWord f ^^^ field x.conf 8 4) &&& field x.conf 12 4 = 0)

/-- Whether a rule matches an Ethernet frame: only the VLAN's owner sees it, or GS (R476, R477). -/
def matchEth (s : State) (x : Rule) (f : EthFrame) : Bool :=
  let own := x.owner == 17 || (tget s.gw.vlan f.vlan.toNat).owner == x.owner
  decide (x.owner ≠ 0) && decide (field x.conf 4 1 = 1) && decide (field x.conf 6 2 = f.vlan.toNat) && own &&
    (match f.body with
     | .udp port _ _ => bitOf (field x.conf 3 1) 2 && decide (field x.conf 8 2 = port.toNat)
     | .acf stream _ _ => !bitOf (field x.conf 3 1) 2 && decide (field x.conf 8 8 = stream.toNat)
     | .avtp stream _ _ => !bitOf (field x.conf 3 1) 2 && decide (field x.conf 8 8 = stream.toNat)
     | .other => false)

/-- The rules in force, ascending, that pass `p`, as R478 tests them: the first that matches, and on while CONTINUE is set. -/
def matching (s : State) (p : Rule → Bool) : List Nat :=
  let all := (s.gw.rule.filter fun e => p e.2).map (·.1)
  let stop := all.findIdx? fun r => !bitOf (field (getRule s r).conf 3 1) 0
  match stop with | some i => all.take (i + 1) | none => all

/-- Bytes of a talker's batch (assumption 34). -/
def batchBytes (fs : List CanFrame) : Nat := (fs.map fun f => Config.acfBytes f.data.length).sum

/-- A talker's batch leaves through port 2 with its tag (R479). The frame's bytes stand for its body. -/
def sendBatch (r : Nat) (s : State) : State :=
  let x := getRule s r
  if x.batch.isEmpty then s
  else
    let src := freeNum s
    let f : EthFrame :=
      { vlan := BitVec.ofNat 12 (field x.conf 38 2), pcp := BitVec.ofNat 3 (field x.conf 38 2 / 2 ^ 13), dst := BitVec.ofNat 48 (field x.conf 32 6)
        src := BitVec.ofNat 48 src.1, body := .acf (BitVec.ofNat 64 (field x.conf 24 8)) (BitVec.ofNat 8 x.seq) x.batch
        bytes := [], payload := [], csumGood := true }
    let s := modRule src.2 r fun x => { x with batch := [], seq := (x.seq + 1) % 256 }
    sendOut (forwardMask s 2 f) f s

/-- A talker takes a frame (R479). -/
def toTalker (r : Nat) (f : CanFrame) (s : State) : State :=
  if f.xlf then routeDrop r 0 s
  else
    let x := getRule s r
    let s := if field x.conf 40 2 < batchBytes (x.batch ++ [f]) then sendBatch r s else s
    modRule s r fun x => { x with batch := x.batch ++ [f], batchAt := if x.batch.isEmpty then s.ktime else x.batchAt }

/-- A rule sends one CAN frame to its destination. -/
def routeTo (r src : Nat) (f : CanFrame) (s : State) : State :=
  let x := getRule s r
  match field x.conf 16 1 with
  | 0 => toCan r (field x.conf 17 1) f s
  | 1 => toTalker r f s
  | 2 => toQueue r src f s
  | _ => s

/-- A frame of a controller goes through its rules (R478). -/
def routeCan (c : Nat) (f : CanFrame) (s : State) : State :=
  (matching s fun x => matchCan x c f).foldl (fun s r => routeTo r c f s) s

/-- The RTP time stamp extended across its wraps, given the last one as value + 1 (R480). -/
def rtpExtend (last rtp : Nat) : Nat :=
  if last = 0 then rtp
  else
    let l := last - 1
    let d := (rtp + 2 ^ 32 - l % 2 ^ 32) % 2 ^ 32
    if d < 2 ^ 31 then l + d else l - (2 ^ 32 - d)

/-- A rule feeds an Ethernet-fed capture stream (R290, R480). A packet whose write is refused is counted at the rule (Table 1.7). -/
def toCapture (dz : Bool) (r port : Nat) (f : EthFrame) (s : State) : State :=
  let x := getRule s r
  let k := field x.conf 17 1
  let hz := field x.conf 44 4
  let put := fun (eof : Bool) (stamp : Option Nat) (s : State) =>
    let c := ethCapture dz k port f.payload eof stamp s
    if c.2 then modRule c.1 r fun x => { x with drops := x.drops.add 1 } else c.1
  match f.body with
  | .avtp _ eof stamp => put eof (some stamp.toNat) s
  | .udp _ marker rtp =>
    if hz = 0 then put false none s
    else
      let e := rtpExtend (getStr s k).rtp rtp.toNat
      let d := freeNum s
      put marker (some ((e * 1000000000 / hz + d.1 % 2) % 2 ^ 64)) (modStr d.2 k fun t => { t with rtp := e + 1 })
  | _ => s

/-- A listener unpacks the CAN messages of a stream and watches its sequence numbers (R479). -/
def listen (r : Nat) (seq : BitVec 8) (msgs : List CanFrame) (s : State) : State :=
  let x := getRule s r
  let s := match x.want with
    | some w => if w = seq.toNat then s else routeDrop r 2 s
    | none => s
  let s := modRule s r fun x => { x with want := some ((seq.toNat + 1) % 256) }
  msgs.foldl (fun s f => routeTo r 0 f s) s

/-- Whether a rule feeds a capture stream. -/
def feedsCapture (x : Rule) : Bool := decide (field x.conf 16 1 = 3)

/-- An Ethernet frame goes through the rules: those of capture streams where the switch forwards it to port 1 or 2, the others where it
forwards it to port 2 (R19, R477). -/
def routeEth (dz gate : Bool) (port : Nat) (f : EthFrame) (s : State) : State :=
  (matching s fun x => matchEth s x f && (gate || feedsCapture x)).foldl (fun s r =>
    if feedsCapture (getRule s r) then toCapture dz r port f s
    else match f.body with
      | .acf _ seq msgs => listen r seq msgs s
      | _ => s) s

/-- A frame enters the switch at a port (R474, R476, R478); `dz` says that the part was in Doze. -/
def ingress (dz : Bool) (port : Nat) (f : EthFrame) (s : State) : State :=
  let x := filtered (learn port f s)
  if x.1 then x.2
  else
    let ps := forwardMask x.2 port f
    let s := sendOut ps f x.2
    if ps.contains 1 || ps.contains 2 then routeEth dz (ps.contains 2) port f s else s

/-- No frame out yet, at the start of a command. -/
def clearOut (s : State) : State := { s with gw := { s.gw with out := [] } }

/-- ETH_FRAME_INGRESS (R474, R478): a frame received on a port. It leaves Hush or a Doze entered by votes (Table 2.4). -/
def execEthFrameIngress (port : Fin 12) (f : EthFrame) (s : State) : Res :=
  let p := port.val
  .next (if !s.pw.supplied || s.boot.held || decide (s.pw.st = .rest) || decide (s.pw.st = .park) || s.pw.pllLost || !(getPort s p).on ||
      (decide (4 ≤ p) && !(getPort s p).up) || decide (f.bytes.length < 60) || decide (9212 < f.bytes.length) then s
    else
      let dz := dozing s
      let s := wakeFrom true 4 p (clearOut s)
      ingress dz p f s)

/-- CAN_FRAME_RECEIVED (R473, R478): the record is pushed and the frame routed. A received frame ends OPEN_LOAD and a
dominant bus, which `Field` reports. It leaves Hush or a Doze entered by votes. -/
def canReceive (c : Nat) (f : CanFrame) (s : State) : State :=
  let t := getCan s c
  if t.owner = 0 ∨ t.standby ∨ blockOff s 10 c ∨ !canFits (canMode t.conf) f ∨ !s.pw.supplied ∨ s.boot.held ∨ s.pw.st = .rest ∨
      s.pw.st = .park ∨ s.pw.pllLost then s
  else
    let s := wakeFrom true 5 c s
    if !fabricUp s then canDrop c s
    else
      let q := canRx t.conf
      let s :=
        if !canRxOn t.conf then s
        else if !canPush s q then canDrop c s
        else
          let a := field t.conf 16 6 + (getQ s q).tail % (getQ s q).n * field t.conf 22 2
          let w := busWrite (gwIni (ownerOf t.owner)) a f.data s
          if w.2 ≠ stOK then canDrop c w.1
          else
            let k := kt20 w.1
            pushEntry q (canRecord k.1 c a f false false) k.2
      routeCan c f (clearOut s)

/-- ACF_TALKER_SEND (R479): MAX_WAIT_US has run since the first frame of the batch. -/
def execAcfTalkerSend (rule : Fin 4096) (s : State) : Res :=
  let r := rule.val
  let x := getRule s r
  .next (if x.owner = 0 ∨ x.batch.isEmpty ∨ ktSince s x.batchAt < 100 * field x.conf 42 2 then s else sendBatch r (clearOut s))

/-- GATE_LIST_ACTIVATE (R476): a new gate control list takes effect at its base time. -/
def execGateListActivate (port : Fin 12) (s : State) : Res :=
  .next (match (getPort s port.val).gateNext with
    | none => s
    | some g => modPort s port.val fun p => { p with gate := g, gateNext := none })

/-- Event 0x600B. -/
def tsnEvent (p : Nat) (s : State) : State :=
  let t := getPort s p
  event srcAfzan 0x600B noParty (leBytes 1 p ++ leBytes 1 (b2n t.up) ++ leBytes 1 t.speed ++ leBytes 1 t.role) s

/-- TSN_LINK_CHANGE (R476): the link of an external port, or its gPTP role, changes. -/
def execTsnLinkChange (port : Fin 12) (up : Bool) (speed role : BitVec 8) (s : State) : Res :=
  let p := port.val
  let t := getPort s p
  .next (if p < 4 ∨ (t.up = up ∧ t.role = role.toNat % 4) then s
    else tsnEvent p (modPort s p fun x => { x with up := up, speed := speed.toNat, role := role.toNat % 4 }))

/-! ### Messages -/

/-- The field checks of CAN_OPEN (R472). -/
def canBad (s : State) (m : Msg) : List (Nat × Bool) :=
  let p := m.payload
  let f := fun (o n : Nat) => fld m o n
  let c := f 0 1
  let mode := canMode p
  let nom := canNominal mode (f 2 2)
  let dat := if mode = 0 then some (0, 0) else canData mode (f 4 2)
  let sp := fun (v : Nat) => decide (50 ≤ v) && decide (v ≤ 90)
  let slot := f 22 2
  [(0, decide (11 < c)), (1, decide (mode = 3) || decide (16 ≤ f 1 1) || (canWake p && decide (8 ≤ c))), (2, nom.isNone),
      (4, if mode = 0 then decide (f 4 2 ≠ 0) else dat.isNone), (6, !sp (f 6 1)), (7, if mode = 0 then decide (f 7 1 ≠ 0) else !sp (f 7 1)),
      (8, decide (bitsOf (f 8 4) 30 18 ≠ 0) || (canRxOn p && !qForm s (canRx p) 1 1 (some 9) none)),
      (12, decide (bitsOf (f 12 4) 30 18 ≠ 0) || (canTxOn p && !qForm s (canTx p) 1 1 none (some 9))),
      (16, decide (f 16 6 % 64 ≠ 0)), (22, !isPow2 slot || decide (slot < 64) || decide (2048 < slot) || decide (slot < canMax mode)),
      (24, rsvBad m 24 8)]

/-- Own checks and effect of CAN_OPEN (R470, R472).
The order of its answers: DESIGN CHOICE, assumption 117. -/
def ownCanOpen : Own := fun m d s =>
  let p := m.payload
  let f := fun (o n : Nat) => fld m o n
  let c := f 0 1
  let mode := canMode p
  let nom := canNominal mode (f 2 2)
  let dat := if mode = 0 then some (0, 0) else canData mode (f 4 2)
  let slot := f 22 2
  if c < 12 ∧ (getCan s c).owner ≠ 0 then say (sts stBUSY) s
  else checked (canBad s m) s
    (refusedBy [(canRxOn p && !qReq s d.party (canRx p), stDENIED), (canTxOn p && !qReq s d.party (canTx p), stDENIED),
        (canRxOn p && !inReq s d.party (f 16 6) ((getQ s (canRx p)).n * slot), stDENIED)] s
      (say ok (canFeed c (modCan s c fun t =>
        { t with owner := d.party + 1, conf := p, nom := nom.getD (0, 0), dat := dat.getD (0, 0), buf := [], wait := [], err := 0
                 dropped := {}, since := 0, evAt := 0, sent := [], standby := false, txOff := false, faults := [] }))))

/-- CAN_OPEN (R472). -/
def execCanOpen (m : Msg) (s : State) : Res := .next (serve 0x0A00 isParty (lenIs 32) ownCanOpen m s)

/-- A controller closes; frames still in its buffers are not sent. -/
def closeCan (c : Nat) (s : State) : State := { s with gw := { s.gw with can := tput s.gw.can c {} } }

/-- Own checks and effect of CAN_CLOSE (R472). -/
def ownCanClose : Own := fun m d s =>
  let c := fld m 0 1
  checked [(0, decide (11 < c))] s
  (if (getCan s c).owner = 0 then say (sts stNOT_READY) s
   else if (getCan s c).owner ≠ d.party + 1 then say (sts stDENIED) s
   else say ok (closeCan c s))

/-- CAN_CLOSE (R472). -/
def execCanClose (m : Msg) (s : State) : Res := .next (serve 0x0A01 isParty (lenIs 1) ownCanClose m s)

/-- Whether a rule's source is one the party may name: GS may name any party's (R477). -/
def routeSrcOk (s : State) (p : Nat) (r : List Byte) : Bool :=
  let own := fun (o : Nat) => decide (o = p + 1) || (p == 16 && decide (o ≠ 0))
  if field r 4 1 = 0 then own (getCan s (field r 5 1)).owner else own (tget s.gw.vlan (field r 6 2)).owner || p == 16

/-- Whether a rule's destination is one the party may name. -/
def routeDstOk (s : State) (p : Nat) (r : List Byte) : Bool :=
  let own := fun (o : Nat) => decide (o = p + 1) || (p == 16 && decide (o ≠ 0))
  let q := field r 20 4 % 2 ^ 18
  let qp := if p = 16 then (qOwner s q).getD 16 else p
  match field r 16 1 with
  | 0 => own (getCan s (field r 17 1)).owner
  | 1 => true
  | 2 => qReq s qp q && inReq s qp (field r 48 6) ((getQ s q).n * 2048)
  | _ => own (getStr s (field r 17 1)).owner

/-- The field checks of ROUTE_SET (R477). -/
def routeBad (s : State) (m : Msg) : List (Nat × Bool) :=
  let f := fun (o n : Nat) => fld m o n
  let dk := f 16 1
  let del := f 2 1 == 1
  let q := f 20 4 % 2 ^ 18
  let set := fun (b : Bool) => !del && b
  [(0, decide (4095 < f 0 2) && (del || decide (f 0 2 ≠ 0xFFFF))), (2, decide (1 < f 2 1)), (3, decide (8 ≤ f 3 1)),
      (4, set (decide (1 < f 4 1))), (5, set (if f 4 1 = 0 then decide (11 < f 5 1) else decide (f 5 1 ≠ 0))), (6, set (decide (4095 < f 6 2))),
      (16, set (decide (3 < dk) || (dk == 3 && decide (f 4 1 = 0)))),
      (17, set ((dk == 0 && decide (11 < f 17 1)) || (dk == 3 && (decide (f 17 1 < 16) || decide (23 < f 17 1))))), (18, rsvBad m 18 2),
      (20, set (dk == 2 && (decide (2 ^ 18 ≤ f 20 4) || !qForm s q 1 1 (some 9) none))),
      (40, set (dk == 1 && (decide (f 40 2 < 64) || decide (1480 < f 40 2)))), (42, set (dk == 1 && decide (10000 < f 42 2))),
      (48, set (if dk = 2 then decide (f 48 6 % 64 ≠ 0) else decide (f 48 6 ≠ 0))), (54, rsvBad m 54 10)]

/-- Own checks and effect of ROUTE_SET (R477, R478). -/
def ownRouteSet : Own := fun m d s =>
  let r := m.payload
  let f := fun (o n : Nat) => fld m o n
  let del := f 2 1 == 1
  let slot := if f 0 2 = 0xFFFF then ((List.range 4096).find? fun i => decide ((getRule s i).owner = 0)) else some (f 0 2)
  checked (routeBad s m) s
  (match slot with
   | none => say (noRes 1) s
   | some i =>
     let held := (getRule s i).owner
     if held ≠ 0 ∧ held ≠ d.party + 1 ∧ d.party ≠ 16 then say (sts stDENIED) s
     else if del then say (okWith (leBytes 2 i)) { s with gw := { s.gw with rule := tput s.gw.rule i {} } }
     else if !routeSrcOk s d.party r || !routeDstOk s d.party r then say (sts stDENIED) s
     else
       let s := sendBatch i (clearOut s)
       say (okWith (leBytes 2 i)) { s with gw := { s.gw with rule := tput s.gw.rule i { owner := d.party + 1, conf := r } } })

/-- ROUTE_SET (R477). -/
def execRouteSet (m : Msg) (s : State) : Res := .next (serve 0x0A02 isParty (lenIs 64) ownRouteSet m s)

/-- A section of a TSN_SET block: its offset, type, port and body. -/
structure TsnSect where
  off : Nat
  type_ : Nat
  port : Nat
  body : List Byte
deriving DecidableEq, Repr

/-- The sections of a block, or the offset of the first malformed one (R476). -/
def tsnSects (blk : List Byte) : Nat → Nat → List TsnSect → List TsnSect ⊕ Nat
  | 0, _, acc => .inl acc
  | n + 1, o, acc =>
    if blk.length ≤ o then .inl acc
    else
      let t := field blk o 2
      let p := field blk (o + 2) 1
      let len := field blk (o + 4) 4
      let body := (blk.drop (o + 8)).take len
      if blk.length < o + 8 + len ∨ t = 0 ∨ 8 < t ∨ 11 < p ∨ field blk (o + 3) 1 ≠ 0 ∨ Config.tsnBad t body then .inr o
      else tsnSects blk n (o + 8 + len) (acc ++ [{ off := o, type_ := t, port := p, body := body }])

/-- A section takes effect (R476); the fields of its body are the part's own layout (assumption 33). -/
def applySect (s : State) (x : TsnSect) : State :=
  let g := fun (i : Nat) => Config.tsnField x.body i
  let s := { s with gw := { s.gw with sect := tput s.gw.sect (x.type_ * 256 + x.port) x.body } }
  match x.type_ with
  | 1 =>
    let t := getPort s x.port
    let sp := g 0 % 256
    let s := modPort s x.port fun p => { p with on := decide (g 1 % 2 = 1), speed := sp, up := p.up && decide (t.speed = sp) }
    if t.up ∧ t.speed ≠ sp then tsnEvent x.port s else s
  | 2 => { s with gw := { s.gw with vlan := tput s.gw.vlan (g 0 % 4096) { ports := g 1 % 4096, owner := g 2 % 18 } } }
  | 3 =>
    let es := (List.range (g 0 % 4097)).map fun i => (g (3 * i + 1) % 2 ^ 48, g (3 * i + 2) % 4096, g (3 * i + 3) % 4096)
    { s with gw := { s.gw with static_ := es } }
  | 5 => modPort s x.port fun p => { p with gateNext := some x.body }
  | _ => s

/-- Own checks and effect of TSN_SET (R476). -/
def ownTsnSet : Own := fun m d s =>
  let a := fld m 0 6
  let n := fld m 8 4
  checked [(6, rsvBad m 6 2), (12, rsvBad m 12 4)] s
  (if !inReq s d.party a n then say (sts stDENIED) s
   else match tsnSects (memRead s a n) (n / 8 + 1) 0 [] with
    | .inr o => say (badBuf o) s
    | .inl xs =>
      let s := xs.foldl applySect s
      ({ s with gw := { s.gw with tsnPend := some d } }, none))

/-- Completes TSN_SET: every section is in force. -/
def tsnDone (s : State) : State :=
  match s.gw.tsnPend with
  | none => s
  | some d => finish d ok { s with gw := { s.gw with tsnPend := none } }

/-- TSN_SET (R476). -/
def execTsnSet (m : Msg) (s : State) : Res := .next (tsnDone (serve 0x0A03 isGs (lenIs 16) ownTsnSet m s))

end Sys2Proof.Machine
end

