-- ==== Sys2Proof/Machine/IoHosts.lean ====
section
/-! DEFINITION. I/O hosts (USB, UFS, I²S/TDM, xSPI) and virtual network interfaces (R495 to R504). -/

namespace Sys2Proof.Machine

/-! ### Command and completion records (Tables 16.17 and 16.18) -/

/-- An I/O host's record. -/
def getUnit (s : State) (u : Nat) : IoUnit := tget s.io.unit u
/-- Changes an I/O host. -/
def modUnit (s : State) (u : Nat) (f : IoUnit → IoUnit) : State := { s with io := { s.io with unit := tmod s.io.unit u f } }

def ioTag (c : List Byte) : Nat := field c 0 8
def ioOp (c : List Byte) : Nat := field c 8 1
def ioTarget (c : List Byte) : Nat := field c 10 2
def ioBytes (c : List Byte) : Nat := field c 12 4
def ioAddr (c : List Byte) : Nat := field c 16 6
/-- PARAM bytes [o, o + n). -/
def ioParam (c : List Byte) (o n : Nat) : Nat := field c (24 + o) n

def cmdQ (u : IoUnit) : Nat := field u.conf 4 4 % 2 ^ 18
def cplQ (u : IoUnit) : Nat := field u.conf 8 4 % 2 ^ 18

/-- The operations of a unit (R498 to R501). -/
def ioOps (u : Nat) : List Nat :=
  if u < 8 then [1, 2, 3, 4, 5] else if u = 8 then [0x10, 0x11, 0x12, 0x13] else if u = 9 then [0x30, 0x31, 0x32] else [0x20, 0x21, 0x22]

/-- The initiator of a unit. -/
def ioIni (u : Nat) : Initiator := if h : u < 14 then .ioHost ⟨u, h⟩ else .ioHost 0

/-- A unit runs: bound, not stopped, and the fabric up (R378, R497). -/
def ioOn (s : State) (u : Nat) : Bool :=
  decide ((getUnit s u).owner ≠ 0) && decide ((getUnit s u).stopped = 0) && !blockOff s 9 u && fabricUp s

/-- A completion record (Table 16.18). -/
def cplRec (tag status op detail bytes ktime : Nat) : List Byte :=
  leBytes 8 tag ++ leBytes 1 status ++ leBytes 1 op ++ leBytes 2 detail ++ leBytes 4 bytes ++ leBytes 8 ktime ++ leBytes 8 0

/-- A unit is unbound once IO_CLOSE waits for nothing (R504). -/
def ioCloseIfDone (u : Nat) (s : State) : State :=
  match (getUnit s u).closing with
  | none => s
  | some d => if (getUnit s u).held.isEmpty then finish d ok { s with io := { s.io with unit := tput s.io.unit u {} } } else s

/-- Pushes held completions while CPL_QUEUE has space. -/
def ioDrain (u : Nat) : Nat → State → State
  | 0, s => s
  | n + 1, s =>
    let t := getUnit s u
    match t.held with
    | [] => s
    | r :: rs => if canPush s (cplQ t) then ioDrain u n (pushEntry (cplQ t) r (modUnit s u fun x => { x with held := rs })) else s

/-- Pushes a completion, or holds it in order while CPL_QUEUE is full (R497). -/
def ioPush (u : Nat) (r : List Byte) (s : State) : State :=
  let s := modUnit s u fun x => { x with held := x.held ++ [r] }
  ioDrain u (getUnit s u).held.length s

/-- A command completes. -/
def ioDone (u : Nat) (c : List Byte) (status detail bytes ktime : Nat) (s : State) : State :=
  ioPush u (cplRec (ioTag c) status (ioOp c) detail bytes ktime) s

/-- A unit stops at a refused or failed access, and the command ends with that status (Table 1.7). -/
def ioStop (u st : Nat) (c : List Byte) (s : State) : State :=
  ioDone u c st 0 0 s.ktime (modUnit s u fun x => { x with stopped := st })

/-- Commands in flight that pass `f` complete with a status, in order. -/
def ioAbort (u status : Nat) (f : IoCmd → Bool) (s : State) : State :=
  let xs := (getUnit s u).fly.filter f
  xs.foldl (fun s x => ioDone u x.cmd status 0 x.done s.ktime s) (modUnit s u fun t => { t with fly := t.fly.filter fun x => !f x })

/-! ### Taking a command (R497) -/

/-- Whether a command record has a non-zero reserved field, or an ADDR with no bytes. -/
def ioRsvBad (c : List Byte) : Bool :=
  decide (field c 9 1 ≠ 0) || decide (field c 22 2 ≠ 0) || decide (field c 56 8 ≠ 0) || (decide (ioBytes c = 0) && decide (ioAddr c ≠ 0))

/-- The 64 KiB sectors that an xSPI command touches. -/
def sectors (off n : Nat) : List Nat := (List.range ((off + n + 65535) / 65536 - off / 65536)).map fun i => off / 65536 + i

/-- The status that a command completes with at once, without action (R497, R499, R501). -/
def ioRefused (s : State) (u : Nat) (c : List Byte) : Option Nat :=
  let p := ownerOf (getUnit s u).owner
  let op := ioOp c
  if !(ioOps u).contains op || ioRsvBad c then some stBAD_ARG
  else if op = 0x13 ∧ 2 < ioParam c 0 1 then some stBAD_ARG
  else if op = 0x22 ∧ 1 < ioParam c 0 1 then some stBAD_ARG
  else if op = 0x32 ∧ (ioParam c 0 4 % 65536 ≠ 0 ∨ ioBytes c % 65536 ≠ 0) then some stBAD_ARG
  else if op ≠ 0x32 ∧ ioBytes c ≠ 0 ∧ !inGrantNoPool s p (ioAddr c) (ioBytes c) then some stDENIED
  else if op = 0x10 ∧ ioParam c 24 6 ≠ 0 ∧ !inGrantNoPool s p (ioParam c 24 6) 18 then some stDENIED
  else if (op = 0x31 ∨ op = 0x32) ∧ (sectors (ioParam c 0 4) (ioBytes c)).any Config.flashOwn then some stDENIED
  else none

/-- Takes the head command of a unit where it is of operation `op`, and gives it to `f`; a command that completes without
action does so here. While completions are held the host takes none. -/
def ioTake (u op : Nat) (room : IoUnit → List Byte → Bool) (f : List Byte → State → State) (s : State) : State :=
  let t := getUnit s u
  let q := cmdQ t
  if !ioOn s u || t.closing.isSome || !t.held.isEmpty || !(getQ s q).bound || decide ((getQ s q).len = 0) then s
  else
    let c := headEntry s q
    if (ioOps u).contains (ioOp c) && decide (ioOp c ≠ op) then s
    else match ioRefused s u c with
      | some st => ioDone u c st 0 0 s.ktime (roomMade q (popEntry q s))
      | none => if room t c then f c (roomMade q (popEntry q s)) else s

/-- A command goes into flight. -/
def ioFly (u : Nat) (c : List Byte) (s : State) : State := modUnit s u fun t => { t with fly := t.fly ++ [{ cmd := c, at_ := s.ktime }] }

/-- A command that sends its buffer to the device goes into flight: the buffer is read. -/
def ioSend (u : Nat) (c : List Byte) (s : State) : State :=
  let r := busRead (ioIni u) (ioAddr c) (ioBytes c) s
  if r.2.1 ≠ stOK then ioStop u r.2.1 c r.1
  else ioFly u c (modUnit r.1 u fun t => { t with dataOut := r.2.2 })

/-! ### USB hosts (R498) -/

/-- Whether a unit is a USB host. -/
def isUsb (u : Nat) : Bool := decide (u < 8)
/-- A TARGET's endpoint key: address, endpoint and direction. -/
def epKey (c : List Byte) : Nat := ioTarget c % 2 ^ 12
/-- A TARGET that is IN. -/
def epIn (c : List Byte) : Bool := bitOf (ioTarget c) 11

/-- USB_PORT_RESET: command 0x01 goes to the root port. -/
def execUsbPortReset (unit : Fin 14) (s : State) : Res :=
  .next (if isUsb unit.val then ioTake unit.val 1 (fun _ _ => true) (ioFly unit.val) s else s)
/-- USB_ADDRESS: command 0x02 goes to the device at the default address. -/
def execUsbAddress (unit : Fin 14) (s : State) : Res :=
  .next (if isUsb unit.val then ioTake unit.val 2 (fun _ _ => true) (ioFly unit.val) s else s)
/-- USB_ENDPOINT_SET: command 0x03 configures an endpoint; a 65th is NOT_READY with DETAIL 5. -/
def execUsbEndpointSet (unit : Fin 14) (s : State) : Res :=
  let u := unit.val
  .next (if isUsb u then ioTake u 3 (fun _ _ => true) (fun c s =>
      if tget (getUnit s u).eps (epKey c) = [] ∧ 64 ≤ (getUnit s u).eps.length then ioDone u c stNOT_READY 5 0 s.ktime s
      else ioFly u c s) s else s)
/-- USB_TRANSFER: command 0x04 is queued; beyond 512 it waits in CMD_QUEUE. -/
def execUsbTransfer (unit : Fin 14) (s : State) : Res :=
  let u := unit.val
  .next (if isUsb u then ioTake u 4 (fun t _ => decide ((t.fly.filter fun x => decide (ioOp x.cmd = 4)).length < 512))
      (fun c s => if epIn c then ioFly u c s else ioSend u c s) s else s)
/-- USB_ENDPOINT_CLEAR: command 0x05 stops an endpoint, clears a halt, and its queued transfers complete ABORTED. -/
def execUsbEndpointClear (unit : Fin 14) (s : State) : Res :=
  let u := unit.val
  .next (if isUsb u then ioTake u 5 (fun _ _ => true) (fun c s =>
      let s := ioAbort u stABORTED (fun x => decide (ioOp x.cmd = 4) && decide (epKey x.cmd = epKey c)) s
      ioDone u c stOK 0 0 s.ktime (modUnit s u fun t => { t with halted := tput t.halted (epKey c) 0 })) s else s)

/-- USB_ATTACH: unsolicited record 0x80. -/
def execUsbAttach (unit : Fin 14) (speed : BitVec 16) (route : BitVec 32) (s : State) : Res :=
  .next (if isUsb unit.val && ioOn s unit.val then ioPush unit.val (cplRec 0 stOK 0x80 speed.toNat route.toNat s.ktime) s else s)

/-- The number of tiers of a route: its non-zero hub ports before the first 0. -/
def tiers (r : Nat) : Nat := ((List.range 5).takeWhile fun i => decide (bitsOf r (4 * i + 3) (4 * i) ≠ 0)).length
/-- Whether a device at route `d` is on route `r`, itself or behind it. -/
def onRoute (r d : Nat) : Bool := decide (d % 16 ^ tiers r = r % 16 ^ tiers r)

/-- USB_DETACH: unsolicited record 0x81; the transfers of the devices on the route complete NOT_READY. -/
def execUsbDetach (unit : Fin 14) (route : BitVec 32) (s : State) : Res :=
  let u := unit.val
  .next (if isUsb u && ioOn s u then
      let r := route.toNat
      let gone := fun (a : Nat) => decide (tget (getUnit s u).addrs a ≠ 0) && onRoute r (tget (getUnit s u).addrs a - 1)
      let s := ioPush u (cplRec 0 stOK 0x81 0 r s.ktime) s
      let s := ioAbort u stNOT_READY (fun x => decide (ioOp x.cmd = 4) && gone (ioTarget x.cmd % 128)) s
      modUnit s u fun t => { t with addrs := t.addrs.filter (fun e => !onRoute r (e.2 - 1)), eps := t.eps.filter (fun e => !gone (e.1 % 128))
                                    halted := t.halted.filter fun e => !gone (e.1 % 128) }
    else s)

/-! ### UFS (R499) -/

/-- UFS_SCSI: command 0x10, up to 32 outstanding. -/
def execUfsScsi (unit : Fin 14) (s : State) : Res :=
  .next (if unit.val = 8 then ioTake 8 0x10 (fun t _ => decide ((t.fly.filter fun x => decide (ioOp x.cmd = 0x10)).length < 32))
      (fun c s => if ioParam c 16 1 = 2 then ioSend 8 c s else ioFly 8 c s) s else s)
/-- UFS_QUERY: command 0x11. -/
def execUfsQuery (unit : Fin 14) (s : State) : Res :=
  .next (if unit.val = 8 then ioTake 8 0x11 (fun _ _ => true) (ioSend 8) s else s)
/-- UFS_TASK: command 0x12. -/
def execUfsTask (unit : Fin 14) (s : State) : Res :=
  .next (if unit.val = 8 then ioTake 8 0x12 (fun _ _ => true) (ioFly 8) s else s)
/-- UFS_LINK: command 0x13. -/
def execUfsLink (unit : Fin 14) (s : State) : Res :=
  .next (if unit.val = 8 then ioTake 8 0x13 (fun _ _ => true) (ioFly 8) s else s)
/-- UFS_LINK_LOST: unsolicited record 0x90; the commands in flight complete NOT_READY. -/
def execUfsLinkLost (s : State) : Res :=
  .next (if ioOn s 8 then
      let s := ioPush 8 (cplRec 0 stOK 0x90 0 0 s.ktime) s
      ioAbort 8 stNOT_READY (fun _ => true) (modUnit s 8 fun t => { t with link := 2 })
    else s)
/-- UFS_SCSI_TIMEOUT: a SCSI command not completed within 30 s. -/
def execUfsScsiTimeout (tag : BitVec 64) (s : State) : Res :=
  .next (match (getUnit s 8).fly.find? fun x => decide (ioOp x.cmd = 0x10) && decide (ioTag x.cmd = tag.toNat) with
    | none => s
    | some x =>
      if !ioOn s 8 || decide (ktSince s x.at_ < 3000000000) then s
      else ioDone 8 x.cmd stTIMEOUT 0 0 s.ktime (modUnit s 8 fun t => { t with fly := t.fly.erase x }))

/-! ### xSPI (R501) -/

/-- The flash is in use by the flush engine: a command waits (R501). -/
def flashFree (s : State) : Bool := !s.caddy.flushing
/-- XSPI_READ: command 0x30. -/
def execXspiRead (unit : Fin 14) (s : State) : Res :=
  .next (if unit.val = 9 && flashFree s then ioTake 9 0x30 (fun _ _ => true) (ioFly 9) s else s)
/-- XSPI_PROGRAM: command 0x31; the buffer is read as the pages are written. -/
def execXspiProgram (unit : Fin 14) (s : State) : Res :=
  .next (if unit.val = 9 && flashFree s then ioTake 9 0x31 (fun _ _ => true) (ioFly 9) s else s)
/-- XSPI_ERASE: command 0x32. -/
def execXspiErase (unit : Fin 14) (s : State) : Res :=
  .next (if unit.val = 9 && flashFree s then ioTake 9 0x32 (fun _ _ => true) (ioFly 9) s else s)

/-- Bytes of flash as the last commands left them; where none did, what the device answers. -/
def flashRead (s : State) (off : Nat) (dev : List Byte) (n : Nat) : List Byte :=
  (List.range n).map fun i => let v := tget s.io.flash (off + i)
                              if 2 ≤ v then BitVec.ofNat 8 (v - 2) else dev.getD i 0#8

/-- Programs bytes: on erased flash they stand, elsewhere what results is not given and so unknown again. -/
def flashProgram (off : Nat) (bs : List Byte) (s : State) : State :=
  { s with io := { s.io with flash := (List.range bs.length).foldl (fun (t : Tab Nat) i =>
      tput t (off + i) (if tget t (off + i) = 1 then (bs.getD i 0#8).toNat + 2 else 0)) s.io.flash } }

/-! ### Completion (R497 to R501) -/

/-- The first command in flight with a tag that may complete: USB transfers of one endpoint stay in order. -/
def ioFind (t : IoUnit) (usb : Bool) (tag : Nat) : Option IoCmd :=
  match t.fly.find? fun x => decide (ioTag x.cmd = tag) with
  | none => none
  | some x =>
    let first := t.fly.find? fun y => decide (ioOp y.cmd = 4) && decide (epKey y.cmd = epKey x.cmd)
    if usb && decide (ioOp x.cmd = 4) && decide (first ≠ some x) then none else some x

/-- What a command's completion writes to memory and to the unit; answers the status of its last access. -/
def ioEffect (u : Nat) (c : List Byte) (r : IoResult) (s : State) : State × Nat :=
  let bs := r.data.take (ioBytes c)
  let okay := decide (r.status.toNat = stOK)
  match ioOp c with
  | 0x02 => (if okay then modUnit s u fun t => { t with addrs := tput t.addrs (ioTarget c % 128) (ioParam c 4 4 % 2 ^ 20 + 1) } else s, stOK)
  | 0x03 => (if okay then modUnit s u fun t => { t with eps := tput t.eps (epKey c) ((c.drop 24).take 5) } else s, stOK)
  | 0x04 =>
    let s := if r.status.toNat = stDATA_ERROR ∧ r.detail = 1 then modUnit s u fun t => { t with halted := tput t.halted (epKey c) 1 } else s
    if epIn c then busWrite (ioIni u) (ioAddr c) bs s else (s, stOK)
  | 0x10 =>
    let w := if ioParam c 16 1 = 1 then busWrite (ioIni u) (ioAddr c) bs s else (s, stOK)
    if w.2 = stOK ∧ r.detail.toNat % 256 = 2 ∧ ioParam c 24 6 ≠ 0 then
      let f := freeBytes 18 w.1
      busWrite (ioIni u) (ioParam c 24 6) f.1 f.2
    else w
  | 0x11 => busWrite (ioIni u) (ioAddr c) bs s
  | 0x13 => (if okay then modUnit s u fun t => { t with link := if ioParam c 0 1 = 0 then 1 else 0 } else s, stOK)
  | 0x30 => if okay then busWrite (ioIni u) (ioAddr c) (flashRead s (ioParam c 0 4) r.data (ioBytes c)) s else (s, stOK)
  | 0x31 =>
    if okay then
      let d := busRead (ioIni u) (ioAddr c) (ioBytes c) s
      (if d.2.1 = stOK then flashProgram (ioParam c 0 4) d.2.2 d.1 else d.1, d.2.1)
    else (s, stOK)
  | 0x32 => (if okay then { s with io := { s.io with flash := twrite s.io.flash (ioParam c 0 4) (List.replicate (ioBytes c) 1) } } else s, stOK)
  | _ => (s, stOK)

/-- Statuses that a device's end may give a command (Table 16.18). -/
def ioStatusOk (st : Nat) : Bool := st == stOK || st == stTIMEOUT || st == stABORTED || st == stDATA_ERROR || st == stNOT_READY

/-- IO_COMPLETION (R497): an operation finishes, and its completion is pushed after its writes. I²S buffers complete with
their frames. -/
def execIoCompletion (unit : Fin 14) (r : IoResult) (s : State) : Res :=
  let u := unit.val
  .next (if !ioOn s u || decide (10 ≤ u) || !ioStatusOk r.status.toNat || (decide (u = 9) && !flashFree s) then s
    else match ioFind (getUnit s u) (isUsb u) r.tag.toNat with
      | none => s
      | some x =>
        let s := modUnit s u fun t => { t with fly := t.fly.erase x }
        let e := ioEffect u x.cmd r s
        if e.2 ≠ stOK then ioStop u e.2 x.cmd e.1
        else ioDone u x.cmd r.status.toNat r.detail.toNat r.bytes e.1.ktime e.1)

/-! ### I²S/TDM (R500) -/

/-- Whether a unit is an I²S/TDM port. -/
def isI2s (u : Nat) : Bool := decide (10 ≤ u)
/-- I2S_PLAY: command 0x20 queues a playback buffer. -/
def execI2sPlay (unit : Fin 14) (s : State) : Res :=
  .next (if isI2s unit.val then ioTake unit.val 0x20 (fun _ _ => true) (ioFly unit.val) s else s)
/-- I2S_RECORD: command 0x21 queues a recording buffer. -/
def execI2sRecord (unit : Fin 14) (s : State) : Res :=
  .next (if isI2s unit.val then ioTake unit.val 0x21 (fun _ _ => true) (ioFly unit.val) s else s)
/-- I2S_STOP: command 0x22 ends one direction; its queued buffers complete ABORTED. -/
def execI2sStop (unit : Fin 14) (s : State) : Res :=
  let u := unit.val
  .next (if isI2s u then ioTake u 0x22 (fun _ _ => true) (fun c s =>
      let s := ioAbort u stABORTED (fun x => decide (ioOp x.cmd = 0x20 + ioParam c 0 1)) s
      ioDone u c stOK 0 0 s.ktime s) s else s)

/-- Bytes of a stored sample, and of a frame. -/
def sampleBytes (c : List Byte) : Nat := if field c 19 1 = 16 then 2 else 4
def frameBytes (c : List Byte) : Nat := field c 17 1 * sampleBytes c

/-- A buffer has moved one more frame; it completes when no whole frame is left. -/
def i2sMoved (u : Nat) (x : IoCmd) (gap : Nat) (s : State) : State :=
  let n := frameBytes (getUnit s u).conf
  let y := { x with done := x.done + n, first := if x.done = 0 then s.ktime + 1 else x.first, gap := if x.done = 0 then min gap 0xFFFF else x.gap }
  if ioBytes x.cmd < y.done + n then
    ioDone u x.cmd stOK y.gap y.done (y.first - 1) (modUnit s u fun t => { t with fly := t.fly.erase x })
  else modUnit s u fun t => { t with fly := t.fly.map fun z => if z = x then y else z }

/-- The samples held by the bytes of a frame. -/
def samplesOf (n : Nat) : Nat → List Byte → List Word
  | 0, _ => []
  | k + 1, bs => BitVec.ofNat 32 (leNat (bs.take n)) :: samplesOf n k (bs.drop n)

/-- The playback side of a frame: the next frame of the oldest PLAY buffer, or zero samples. -/
def i2sOut (u : Nat) (s : State) : State :=
  let t := getUnit s u
  let n := frameBytes t.conf
  match t.fly.find? fun x => decide (ioOp x.cmd = 0x20) && decide (x.done + n ≤ ioBytes x.cmd) with
  | none => modUnit s u fun t => { t with zeros := t.zeros + 1, frameOut := List.replicate (field t.conf 17 1) 0#32 }
  | some x =>
    let r := busRead (ioIni u) (ioAddr x.cmd + x.done) n s
    if r.2.1 ≠ stOK then ioStop u r.2.1 x.cmd (modUnit r.1 u fun t => { t with fly := t.fly.erase x })
    else
      let s := modUnit r.1 u fun t => { t with frameOut := samplesOf (sampleBytes t.conf) (field t.conf 17 1) r.2.2
                                               zeros := if x.done = 0 then 0 else t.zeros }
      i2sMoved u x t.zeros s

/-- The recording side of a frame. -/
def i2sIn (u : Nat) (samples : List (BitVec 32)) (s : State) : State :=
  let t := getUnit s u
  let n := frameBytes t.conf
  match t.fly.find? fun x => decide (ioOp x.cmd = 0x21) && decide (x.done + n ≤ ioBytes x.cmd) with
  | none => modUnit s u fun t => { t with lost := t.lost + 1 }
  | some x =>
    let bs := (List.range (field t.conf 17 1)).flatMap fun i =>
      leBytes (sampleBytes t.conf) ((samples.getD i 0#32).toNat % 2 ^ field t.conf 19 1)
    let w := busWrite (ioIni u) (ioAddr x.cmd + x.done) bs s
    if w.2 ≠ stOK then ioStop u w.2 x.cmd (modUnit w.1 u fun t => { t with fly := t.fly.erase x })
    else i2sMoved u x t.lost (modUnit w.1 u fun t => { t with lost := if x.done = 0 then 0 else t.lost })

/-- A buffer too short for one frame completes when its turn comes, with no bytes moved. -/
def i2sShort (u : Nat) (s : State) : State :=
  let t := getUnit s u
  t.fly.foldl (fun s x => if ioBytes x.cmd < frameBytes t.conf then
    ioDone u x.cmd stOK 0 0 s.ktime (modUnit s u fun t => { t with fly := t.fly.erase x }) else s) s

/-- I2S_FRAME (R500): a frame at FSYNC is sent and recorded. -/
def execI2sFrame (port : Fin 4) (samples : List (BitVec 32)) (s : State) : Res :=
  let u := 10 + port.val
  .next (if ioOn s u then
      let s := i2sOut u (i2sShort u s)
      if ioOn s u then i2sIn u samples s else s
    else s)

/-! ### Virtual network interfaces (R502, R503) -/

def getVnic (s : State) (v : Nat) : Vnic := tget s.io.vnic v
/-- Changes an interface. -/
def modVnic (s : State) (v : Nat) (f : Vnic → Vnic) : State := { s with io := { s.io with vnic := tmod s.io.vnic v f } }
def vTx (c : List Byte) : Nat := field c 12 4 % 2 ^ 18
def vRx (c : List Byte) : Nat := field c 16 4 % 2 ^ 18
def vFree (c : List Byte) : Nat := field c 20 4 % 2 ^ 18
/-- The initiator of port 0 for an interface's owner. -/
def vnicIni (party : Nat) : Initiator := .tsn 0 (partyOf party)

/-- An RX_QUEUE record (R503). -/
def vnicRec (kind flags bytes addr pcp tag ktime : Nat) : List Byte :=
  leBytes 1 kind ++ leBytes 1 flags ++ leBytes 2 bytes ++ leBytes 6 addr ++ leBytes 1 pcp ++ leBytes 1 0 ++ leBytes 8 tag ++
    leBytes 8 ktime ++ leBytes 4 0

/-- An interface closes, with its three counters as the answer (R504). -/
def vnicCloseIfDone (v : Nat) (s : State) : State :=
  let t := getVnic s v
  match t.closing with
  | none => s
  | some d =>
    if t.held.isEmpty then
      finish d (okWith (leBytes 8 t.sent.val ++ leBytes 8 t.recvd.val ++ leBytes 8 t.dropped.val))
        { s with io := { s.io with vnic := tput s.io.vnic v {} } }
    else s

/-- Pushes transmit-done records that wait. -/
def vnicDrain (v : Nat) : Nat → State → State
  | 0, s => s
  | n + 1, s =>
    let t := getVnic s v
    match t.held with
    | [] => s
    | r :: rs => if canPush s (vRx t.conf) then vnicDrain v n (pushEntry (vRx t.conf) r (modVnic s v fun x => { x with held := rs })) else s

/-- An interface works. -/
def vnicOn (s : State) (v : Nat) : Bool := decide ((getVnic s v).owner ≠ 0) && (getVnic s v).closing.isNone && fabricUp s

/-- VNIC_TRANSMIT (R503): the next record of TX_QUEUE is popped and its frame enters port 0. A frame whose buffer read is
refused is dropped and counted (Table 1.7). -/
def execVnicTransmit (v : Fin 32) (s : State) : Res :=
  let v := v.val
  let t := getVnic s v
  let q := vTx t.conf
  .next (if !vnicOn s v || !t.held.isEmpty || !(getQ s q).bound || decide ((getQ s q).len = 0) then s
    else
      let r := headEntry s q
      let s := clearOut (roomMade q (popEntry q s))
      let n := field r 8 2
      let d := busRead (vnicIni (ownerOf t.owner)) (field r 0 6) n s
      if n < 60 ∨ 9212 < n then modVnic s v fun t => { t with dropped := t.dropped.add 1 }
      else if d.2.1 ≠ stOK then modVnic d.1 v fun t => { t with dropped := t.dropped.add 1 }
      else
        let bs := if bitOf (field r 10 1) 0 && bitOf (field t.conf 1 1) 1 then Config.ethCsum d.2.2 else d.2.2
        let pcp := if bitOf (field r 11 1) 3 then field r 11 1 % 8 else field t.conf 10 1
        let f : EthFrame := { vlan := BitVec.ofNat 12 (field t.conf 2 2), pcp := BitVec.ofNat 3 pcp, dst := BitVec.ofNat 48 (field bs 0 6)
                              src := BitVec.ofNat 48 (field bs 6 6), body := Config.ethBody bs, bytes := bs, payload := Config.ethPayload bs
                              csumGood := true }
        let s := modVnic d.1 v fun t => { t with sent := t.sent.add 1 }
        let s := if bitOf (field r 10 1) 1 then
            let rec_ := vnicRec 1 0 n (field r 0 6) pcp (field r 12 8) s.ktime
            let s := modVnic s v fun t => { t with held := t.held ++ [rec_] }
            vnicDrain v 1 s
          else s
        ingress (dozing s) 0 f s)

/-- Whether an interface takes a frame: its VLAN, and its MAC, a group address, or PROMISC. -/
def vnicFor (c : List Byte) (f : EthFrame) : Bool :=
  decide (f.vlan.toNat = field c 2 2) && (bitOf (field c 1 1) 0 || decide (f.dst.toNat = field c 4 6) || f.dst.getLsbD 0)

/-- VNIC_RECEIVE (R503): a frame goes into an empty buffer, or is dropped and counted. KTIME is translated by a conversion
that is fitted, and so is free; whether the VLAN tag was removed is not given. -/
def execVnicReceive (v : Fin 32) (f : EthFrame) (s : State) : Res :=
  let v := v.val
  let t := getVnic s v
  let c := t.conf
  let q := vFree c
  .next (if !vnicOn s v || !vnicFor c f then s
    else if !(getQ s q).bound || decide ((getQ s q).len = 0) || !canPush s (vRx c) || !t.held.isEmpty || decide (field c 24 2 < f.bytes.length) then
      modVnic s v fun t => { t with dropped := t.dropped.add 1 }
    else
      let a := field (headEntry s q) 0 6
      let s := roomMade q (popEntry q s)
      let w := busWrite (vnicIni (ownerOf t.owner)) a f.bytes s
      if w.2 ≠ stOK then modVnic w.1 v fun t => { t with dropped := t.dropped.add 1 }
      else
        let k := freeNum w.1
        let g := freeNum k.2
        let cs := if bitOf (field c 1 1) 1 then (if f.csumGood then 1 else 2) else 0
        pushEntry (vRx c) (vnicRec 0 (cs + 4 * (g.1 % 2)) f.bytes.length a f.pcp.toNat 0 (k.1 % 2 ^ 64))
          (modVnic g.2 v fun t => { t with recvd := t.recvd.add 1 }))

/-! ### Room made in a queue -/

/-- What waits in a unit for space in queue `q` moves on (R497, R503). -/
def unitRoom (q : Nat) (s : State) : State :=
  let s := (List.range 14).foldl (fun s u =>
    if (getUnit s u).owner ≠ 0 ∧ cplQ (getUnit s u) = q then ioCloseIfDone u (ioDrain u (getUnit s u).held.length s) else s) s
  (List.range 32).foldl (fun s v =>
    if (getVnic s v).owner ≠ 0 ∧ vRx (getVnic s v).conf = q then vnicCloseIfDone v (vnicDrain v (getVnic s v).held.length s) else s) s

/-! ### Messages -/

/-- The first byte of CONFIG that is outside Table 16.16, as a payload offset. -/
def ioConfBad (u : Nat) (c : List Byte) : Option Nat :=
  let b := fun (i : Nat) => field c (16 + i) 1
  let width := fun (v : Nat) => v == 16 || v == 24 || v == 32
  let rest := fun (n : Nat) => (16 + n, decide (field c (16 + n) (16 - n) ≠ 0))
  if u < 8 then firstBad [(16, decide (b 0 = 0) || decide (32 < b 0)), rest 1]
  else if u = 8 then firstBad [(16, decide (b 0 = 0) || decide (4 < b 0)), (17, decide (b 1 = 0) || decide (2 < b 1)), (18, decide (1 < b 2)), rest 3]
  else if u = 9 then firstBad [(16, decide (1 < b 0)), (17, decide (b 1 < 25) || decide (200 < b 1)), rest 2]
  else firstBad [(16, decide (3 < b 0)),
    (17, if b 0 % 2 = 0 then decide (b 1 ≠ 2) else decide (b 1 = 0) || decide (16 < b 1)), (18, !width (b 2)),
    (19, !width (b 3) || decide (b 2 < b 3)), rest 4]

/-- The field checks of IO_OPEN (R496). -/
def ioOpenBad (s : State) (m : Msg) : List (Nat × Bool) :=
  let c := m.payload
  let u := fld m 0 1
  let cq := fld m 4 4 % 2 ^ 18
  let pq := fld m 8 4 % 2 ^ 18
  [(0, decide (13 < u)), (1, rsvBad m 1 3), (4, decide (2 ^ 18 ≤ fld m 4 4) || !qForm s cq 1 2 none (some 10)),
        (8, decide (2 ^ 18 ≤ fld m 8 4) || !qForm s pq 1 1 (some 10) none), (12, rsvBad m 12 4),
        ((ioConfBad u c).getD 0, (ioConfBad u c).isSome)]

/-- Own checks and effect of IO_OPEN (R496).
The order of its answers: DESIGN CHOICE, assumption 117. -/
def ownIoOpen : Own := fun m d s =>
  let c := m.payload
  let u := fld m 0 1
  let cq := fld m 4 4 % 2 ^ 18
  let pq := fld m 8 4 % 2 ^ 18
  let tc := (tget s.field.usbc (u % 4)).owner
  if u < 14 ∧ (getUnit s u).owner ≠ 0 then say (sts stBUSY) s
  else refusedBy [(!qReq s d.party cq || !qReq s d.party pq, stDENIED), (decide (u = 9) && decide (d.party ≠ 16), stDENIED),
      (isUsb u && decide (tc ≠ 0) && decide (tc ≠ d.party + 1), stDENIED)] s
    (checked (ioOpenBad s m) s
      (say ok (modUnit s u fun _ => { owner := d.party + 1, conf := c })))

/-- IO_OPEN (R496). -/
def execIoOpen (m : Msg) (s : State) : Res := .next (serve 0x0A20 isParty (lenIs 32) ownIoOpen m s)

/-- Own checks and effect of IO_CLOSE (R504): the commands in flight complete ABORTED. -/
def ownIoClose : Own := fun m d s =>
  let u := fld m 0 1
  checked [(0, decide (13 < u)), (1, rsvBad m 1 3)] s
  (if (getUnit s u).owner = 0 then say (sts stNOT_READY) s
   else if (getUnit s u).owner ≠ d.party + 1 then say (sts stDENIED) s
   else if (getUnit s u).closing.isSome then say (sts stBUSY) s
   else (ioAbort u stABORTED (fun _ => true) (modUnit s u fun t => { t with closing := some d }), none))

/-- IO_CLOSE (R504). -/
def execIoClose (m : Msg) (s : State) : Res :=
  .next ((List.range 14).foldl (fun s u => ioCloseIfDone u s) (serve 0x0A21 isParty (lenIs 4) ownIoClose m s))

/-- The field checks of VNIC_OPEN (R502). -/
def vnicBad (s : State) (m : Msg) : List (Nat × Bool) :=
  let c := m.payload
  let f := fun (o n : Nat) => fld m o n
  [(0, decide (31 < f 0 1) && decide (f 0 1 ≠ 0xFF)), (1, decide (4 ≤ f 1 1)), (2, decide (4095 < f 2 2)), (4, bitOf (f 4 1) 0),
         (10, decide (8 ≤ f 10 1)), (11, rsvBad m 11 1), (12, decide (2 ^ 18 ≤ f 12 4) || !qForm s (vTx c) 1 1 none (some 9)),
         (16, decide (2 ^ 18 ≤ f 16 4) || !qForm s (vRx c) 1 1 (some 9) none), (20, decide (2 ^ 18 ≤ f 20 4) || !qForm s (vFree c) 1 0 none (some 9)),
         (24, decide (f 24 2 < 64) || decide (9216 < f 24 2) || decide (f 24 2 % 64 ≠ 0)), (26, rsvBad m 26 6)]

/-- Own checks and effect of VNIC_OPEN (R502).
The order of its answers: DESIGN CHOICE, assumption 117. -/
def ownVnicOpen : Own := fun m d s =>
  let c := m.payload
  let f := fun (o n : Nat) => fld m o n
  let vs := List.range 32
  let live := vs.filter fun v => decide ((getVnic s v).owner ≠ 0)
  let slot := if f 0 1 = 0xFF then vs.find? fun v => decide ((getVnic s v).owner = 0) else some (f 0 1)
  let dup := live.any fun v => decide (field (getVnic s v).conf 2 2 = f 2 2) && decide (field (getVnic s v).conf 4 6 = f 4 6)
  refusedBy [(decide ((tget s.gw.vlan (f 2 2)).owner ≠ d.party + 1), stDENIED),
      (!qReq s d.party (vTx c) || !qReq s d.party (vRx c) || !qReq s d.party (vFree c), stDENIED), (dup, stBUSY),
      (decide (f 0 1 < 32) && decide ((getVnic s (f 0 1)).owner ≠ 0), stBUSY)] s
    (if 32 ≤ live.length ∨ 8 ≤ (live.filter fun v => decide ((getVnic s v).owner = d.party + 1)).length then say (noRes 1) s
     else checked (vnicBad s m) s
       (match slot with
        | none => say (noRes 1) s
        | some v => say (okWith (leBytes 1 v)) (modVnic s v fun _ => { owner := d.party + 1, conf := c })))

/-- VNIC_OPEN (R502). -/
def execVnicOpen (m : Msg) (s : State) : Res := .next (serve 0x0A22 isParty (lenIs 32) ownVnicOpen m s)

/-- Own checks and effect of VNIC_CLOSE (R504). -/
def ownVnicClose : Own := fun m d s =>
  let v := fld m 0 1
  checked [(0, decide (31 < v)), (1, rsvBad m 1 3)] s
  (if (getVnic s v).owner = 0 then say (sts stNOT_READY) s
   else if (getVnic s v).owner ≠ d.party + 1 then say (sts stDENIED) s
   else if (getVnic s v).closing.isSome then say (sts stBUSY) s
   else (modVnic s v fun t => { t with closing := some d }, none))

/-- VNIC_CLOSE (R504). -/
def execVnicClose (m : Msg) (s : State) : Res :=
  .next ((List.range 32).foldl (fun s v => vnicCloseIfDone v s) (serve 0x0A23 isParty (lenIs 4) ownVnicClose m s))

end Sys2Proof.Machine
end

