-- ==== Sys2Proof/Machine/Boot.lean ====
section
/-! DEFINITION. Bring-up, leaf repair, the start-up injections and the reset scopes (chapter 17, R38, R413, R414, R436 to
R442, R494, R505 to R515, R527, R529). -/

namespace Sys2Proof.Machine

/-- Changes the boot record. -/
def modBoot (s : State) (f : Boot → Boot) : State := { s with boot := f s.boot }
/-- Changes the power record. -/
def modPw (s : State) (f : Power → Power) : State := { s with pw := f s.pw }
/-- Changes the field die. -/
def modField (s : State) (f : Field → Field) : State := { s with field := f s.field }
/-- Changes the firmware record. -/
def modFirm (s : State) (f : Firm → Firm) : State := { s with firm := f s.firm }
/-- Changes the safety record. -/
def modSafe (s : State) (f : Safety → Safety) : State := { s with safe := f s.safe }

/-! ### The power-fail log (R494) -/

/-- Writes an entry of the power-fail log. TIME is the field die's own counter, a free value (assumption 41). -/
def fieldLog (code detail : Nat) (s : State) : State :=
  let d := draw s
  let f := d.2.field
  let e := leBytes 8 (Config.freeNat d.1) ++ leBytes 2 f.pwron.n ++ leBytes 1 code ++ leBytes 1 detail ++
    leBytes 2 (codeOf 16 (f.vbat / 10)) ++ leBytes 2 0
  modField d.2 fun f => { f with log := tput f.log f.logNext e, logNext := (f.logNext + 1) % 256, uncopied := min 256 (f.uncopied + 1) }

/-- Copies one entry of the log into the Caddy. -/
def copyLog (slot : Nat) (s : State) : State :=
  let e := tget s.field.log slot
  event srcField (if field e 10 1 = 4 then 0x7004 else 0x600A) noParty
    (leBytes 6 (field e 0 6) ++ leBytes 2 (field e 8 2) ++ leBytes 1 (field e 10 1) ++ leBytes 1 (field e 11 1) ++ leBytes 2 (field e 12 2)) s

/-- At bring-up the Kettle copies every entry not yet copied, oldest first. -/
def copyLogs (s : State) : State :=
  let n := s.field.uncopied
  modField ((List.range n).foldl (fun s i => copyLog ((s.field.logNext + 256 - n + i) % 256) s) s) fun f => { f with uncopied := 0 }

/-- The lowest set bit of FLD_WAKE (Tables 2.8 and 16.13). -/
def wakeBit (s : State) : Nat := ((List.range 24).find? fun i => bitOf s.field.wake i).getD 0

/-! ### The Caddy across resets (R516, R518) -/

/-- A reset lifts the protection of a freeze (R518). -/
def liftFreeze (s : State) : State := { s with caddy := { s.caddy with frozen := false, tail := 0 } }

/-- The keep-island rail comes up: the ring starts empty, and counting goes on after the newest record in flash (R516). -/
def caddyRestart (s : State) : State :=
  let c := s.caddy
  let n := if c.flash.isEmpty then 0 else (c.flushed + 1) % 2 ^ 32
  { s with caddy := { flash := c.flash, flashAt := c.flashAt, flushed := c.flushed, next := n, unflushed := n, lastFlush := s.ktime } }

/-! ### Losing what the core die holds (R511, R529) -/

/-- DRAM loses its contents, but for the lowest 512 MiB of each channel group where they are kept (R56). -/
def dramLost (keep : Bool) (s : State) : State :=
  let g := cgBytes s
  if keep then { s with mem := { s.mem with cells := s.mem.cells.filter fun e => decide (e.1 < dramEnd s) && decide (e.1 % g < 0x20000000) } }
  else { s with mem := { s.mem with cells := [], lineErr := [] } }

/-- The leaves as the leaf map names them, with nothing in them. -/
def mapLeaves (s : State) : Leaves :=
  { leaf := (s.boot.map.filter fun e => decide (e.2 ≠ 0)).map fun e =>
      (e.1, { kind := if e.2 = 1 then .spare else if e.2 = 2 then .enabled else .fenced }) }

/-- Microcode for every enabled leaf. -/
def setUcode (s : State) : State :=
  (leavesOf s .enabled).foldl (fun s l => modLeaf s l fun x => { x with ucode := s.firm.ucode }) s

/-- The core die loses its state: what stands in flash, fuses, the Caddy, DRAM and the field die remains. Field channels and
USB-C ports are no longer bound to a party (assumption 42). -/
def coreLost (s : State) : State :=
  let f := s.firm
  { s with
    resp := {}, party := [], queue := [], lv := mapLeaves s, jobs := {}
    pw := { trim := s.pw.trim, trip := s.pw.trip, supplied := s.pw.supplied, div := s.part.floor, vdd := fusedMv s.part.floor,
            vddTarget := fusedMv s.part.floor }
    mem := { cells := s.mem.cells, lineErr := s.mem.lineErr }
    safe := { causes := s.safe.causes, injection := 0, kettleFault := s.safe.kettleFault, halted := s.safe.halted, pairFault := s.safe.pairFault }
    world := {}, media := {}, cap := {}, gw := {}
    io := { flash := s.io.flash }
    cross := {}
    firm := { slot := f.slot, a := f.a, b := f.b, committed := f.committed, staged := f.staged, counters := f.counters,
              revoked := f.revoked, images := f.images, ucode := f.ucode, ucodePart := f.ucodePart, mUcode := f.mUcode, cal := f.cal, aliasGen := f.aliasGen }
    field := { s.field with
      ch := tmap (fun (c : FieldCh) => { c with owner := 0, evq := 0 }) s.field.ch
      usbc := tmap (fun (c : UsbcPort) => { c with owner := 0, evq := 0 }) s.field.usbc, linkUp := false, resends := (0, 0) }
    boot := { s.boot with ready := false, service := false, held := false, attempts := [], linkUp := [], round := 0,
                          resetAsk := none, resetPend := none, resetting := none } }

/-- The core supplies go off: DRAM is lost, FAULT_N is no longer driven (R529). -/
def coreOff (phase : Nat) (s : State) : State :=
  let s := coreLost (dramLost false s)
  let s := modPw s fun p => { p with supplied := false }
  modBoot { s with safe := {}, caddy := { s.caddy with flushing := false, flushPend := [] } } fun b => { b with phase := phase, kind := 0 }

/-! ### Start-up injections (R413, R414, R514) -/

/-- Whether an injection step of the part passes: as its last bring-up met it (assumption 43). -/
def stepPasses (s : State) (k : Nat) : Bool :=
  match s.boot.input with | none => true | some r => !(r.injectFail.any fun x => decide (x.val + 1 = k))

/-- One injection step: event 0x3001, and its bit of INJECTION. The first failing unit is a free value. -/
def injectStep (s : State) (k : Nat) : State :=
  let okK := stepPasses s k
  let d := draw s
  let s := if okK then s else d.2
  let i := s.safe.injection
  let s := event srcAfzan 0x3001 noParty (leBytes 1 k ++ leBytes 1 (b2n !okK) ++ leBytes 2 (if okK then 0 else Config.freeNat d.1)) s
  modSafe s fun f => { f with injection := i - (if bitOf i (k - 1) then 2 ^ (k - 1) else 0) + (if okK then 2 ^ (k - 1) else 0) }

/-- The steps of an injection sequence; a failure asserts FAULT_N and dissolves every pair (R397, R414). -/
def inject (ks : List Nat) (s : State) : State :=
  let s := ks.foldl injectStep s
  if ks.all (stepPasses s) then s
  else assertFaultN 3 (s.jobs.pairs.foldl (fun s p => dissolve p 3 s) s)

/-- The whole sequence. -/
def allSteps : List Nat := [1, 2, 3, 4, 5, 6, 7]

/-- Causes of FAULT_N whose least scope a compute reset reaches (Table 17.4). -/
def computeCauses : List Nat := [0, 3, 5]

/-- After the injection sequence of a reset passes, FAULT_N loses the causes the reset covers (R514). -/
def releaseFaults (bits : List Nat) (s : State) : State :=
  if allSteps.all (stepPasses s) then
    modSafe s fun f => { f with causes := bits.foldl (fun c b => if bitOf c b then c - 2 ^ b else c) f.causes }
  else s

/-! ### Verification (R436 to R441) -/

/-- What bring-up meets; before the first BRINGUP everything verifies. -/
def bootInput (s : State) : BringupInput :=
  s.boot.input.getD { afzanA := true, afzanB := true, ucode := true, bootCfg := true, worlds := true, debugAuth := none,
                      leafMapOk := true, leafFail := [], injectFail := [], endpoint := false, srisClk := false, gxPcie := false }

/-- A part that boots nothing: held, with FAULT_N for a Kettle fault, and event 0x4002 (R440). Which of the checks failed is
a free value. -/
def bootHeld (stage kind place : Nat) (s : State) : State :=
  let d := draw s
  let s := event (if stage = 0 then srcKeep else srcAfzan) 0x4002 noParty
    (leBytes 1 stage ++ leBytes 1 kind ++ leBytes 1 (1 + Config.freeNat d.1 % 5) ++ leBytes 1 place) d.2
  assertFaultN 1 (modBoot s fun b => { b with held := true })

/-- The slot of an index. -/
def slotOf (s : State) (i : Nat) : Slot := if i = 0 then s.firm.a else s.firm.b
/-- Whether a slot holds an image that the ROM accepts. -/
def slotGood (s : State) (i : Nat) : Bool :=
  (slotOf s i).full && (if i = 0 then (bootInput s).afzanA else (bootInput s).afzanB)

/-- The ROM boots the committed slot, else the other (R384, R440). -/
def bootAfzan (s : State) : State :=
  let c := if s.firm.committed then s.firm.slot else 1 - s.firm.slot
  let s := if s.firm.committed then s
    else event srcAfzan 0xA003 noParty (leBytes 1 c ++ leBytes 1 2) (modFirm s fun f => { f with slot := c, committed := true, staged := false })
  if slotGood s c then s
  else if slotGood s (1 - c) && decide (tget s.firm.counters 0 ≤ (slotOf s (1 - c)).rollback) then modFirm s fun f => { f with slot := 1 - c }
  else bootHeld 0 1 c s

/-- The microcode that bring-up takes, with its measurement, or none (R390). -/
def bootUcode (s : State) : Option (Nat × List Byte) :=
  let r := (runSlot s).release
  let c := Config.carriedUcode r
  let p := s.firm.ucodePart
  let c1 := tget s.firm.counters 1
  if !(bootInput s).ucode then none
  else if p.version ≠ 0 ∧ c1 ≤ p.rollback ∧ (c.2 ≤ p.rollback ∨ c.2 < c1) then some (p.version, p.digest)
  else if c1 ≤ c.2 then some (c.1, Config.ident 2 r)
  else none

/-- The boot configuration comes into force (R439): grants, watermarks, clusters, NW_PARTY. With the test port open SWM is
granule 4 (R441). -/
def bootConfig (s : State) : State :=
  let b := s.boot
  { s with
    party := b.grants.foldl (fun (t : Tab PartySt) g => tput t g.1 { grant := g.2 }) []
    world := { s.world with swm := if (bootInput s).debugAuth.isSome then 4 else b.swm, lwm := b.lwm, clusters := b.clusters, nwParty := b.nwParty } }

/-- The test access port opens, or closes (R441). -/
def bootDebug (s : State) : State :=
  match (bootInput s).debugAuth with
  | none => modFirm s fun f => { f with debug := false }
  | some serial => event srcAfzan 0x4008 noParty (leBytes 8 serial.toNat) (modFirm s fun f => { f with debug := true })

/-- An image of the owner set verified: counter 3 goes to the highest level since bring-up at the next FW_COMMIT. The level and the
revoke bits, which stand in flash partitions of no given layout, are free values that pass the checks (R438, assumption 36). -/
def verifyOwner (s : State) : State :=
  let a := freeNum s
  let b := freeNum a.2
  let c3 := tget b.2.firm.counters 3
  let lv := c3 + a.1 % (33 - c3)
  modFirm b.2 fun f => { f with level3 := (f.level3 / 256 ||| b.1 % 8) * 256 + max (f.level3 % 256) lv }

/-- Measures what bring-up verified; the images' bytes are those of flash partitions, so the measurements are free values
(R440, R446, assumption 36). -/
def measure (s : State) : State :=
  let a := freeBytes 48 s
  let b := freeBytes 48 a.2
  let c := freeBytes 48 b.2
  verifyOwner (modFirm c.2 fun f => { f with mBoot := a.1, mSecure := b.1, mNormal := c.1, level3 := 0 })

/-- Phase 4: Afzan, the boot configuration and the microcode are verified (R390, R440). A microcode failure leads to the
service state. -/
def verify (s : State) : State × Bool :=
  let s := bootAfzan s
  if s.boot.held then (s, false)
  else if !(bootInput s).bootCfg then (bootHeld 1 4 0 s, false)
  else
    let s := measure (bootDebug (bootConfig s))
    match bootUcode s with
    | some v => (modFirm s fun f => { f with ucode := v.1, mUcode := v.2, aliasGen := f.aliasGen + 1 }, true)
    | none =>
      let d := draw s
      (event srcAfzan 0x4002 noParty (leBytes 1 1 ++ leBytes 1 2 ++ leBytes 1 (1 + Config.freeNat d.1 % 5) ++ leBytes 1 0) d.2, false)

/-- The service state (R509): the Caddy is flushed, and READY carries result 1. -/
def service (s : State) : State :=
  let d := draw s
  let s := modBoot d.2 fun b => { b with service := true }
  flushNow (event srcAfzan 0xA031 noParty (leBytes 1 s.boot.kind ++ leBytes 4 (Config.freeNat d.1) ++
    leBytes 1 (leavesOf s .enabled).length ++ leBytes 1 (spareCount s) ++ leBytes 1 1) s)

/-! ### Releasing the harts (R379, R440) -/

/-- A cluster mask without the clusters that pass `f`. -/
def without (f : Nat → Bool) (m : Nat) : Nat := (((List.range 4).filter fun c => bitOf m c && !f c).map fun c => 2 ^ c).sum

/-- Releases the harts of clusters that pass `f`: at the image entry, or at their world's resume vector. After
a secure restart that failed, secure clusters stay stopped (R435). -/
def releaseHarts (g : Nat → Bool) (cause : Nat) (s : State) : State :=
  let f := fun (c : Nat) => g c && !(s.world.secureDown && bitOf s.world.clusters c)
  let s := { s with world := { s.world with stopped := without f s.world.stopped } }
  (List.range 16).foldl (fun s h =>
    if !f (h / 4) then s
    else
      let v := if cause = 0 then 0 else if bitOf s.world.clusters (h / 4) then s.pw.resumeS else s.pw.resumeN
      modPw s fun p => { p with hartA0 := tput p.hartA0 h cause, hartPc := tput p.hartPc h (if v = 0 then 0 else v + 1) }) s

/-! ### Leaf repair (R507) -/

/-- Event 0xA032. -/
def repairEvent (l res runs : Nat) (s : State) : State :=
  event srcAfzan 0xA032 noParty (leBytes 2 l ++ leBytes 1 res ++ leBytes 1 runs) s

/-- Tests one leaf that is not fused off. -/
def repairTest (s : State) (l : Nat) : State :=
  let k := (getLeaf s l).kind
  let runs := if k = .fenced then 3 else 1
  if k = .fusedOff then s
  else if (bootInput s).leafFail.any fun x => decide (x.val = l) then
    let s := repairEvent l 1 runs (setKind l .fusedOff s)
    modBoot s fun b => { b with fuses := tput b.fuses l 0 }
  else if k = .fenced then repairEvent l 2 runs (setKind l .spare s)
  else repairEvent l 0 runs s

/-- Replaces one enabled leaf that was fused off (R238). -/
def repairReplace (s : State) (l : Nat) : State :=
  match spareFor s (estOf s l) l with
  | some x => repairEvent x 3 1 (setKind x .enabled s)
  | none => s

/-- Leaf repair: the map is read, every leaf is tested, spares take the place of enabled leaves that failed, and with fewer
than 160 good leaves every one is enabled. -/
def leafRepair (s : State) : State :=
  let s := modBoot s fun b => { b with map := if (bootInput s).leafMapOk then b.map else b.fuses }
  let s := { s with lv := mapLeaves s }
  let was := leavesOf s .enabled
  let s := leafIdx.foldl repairTest s
  let s := (was.filter fun l => decide ((getLeaf s l).kind = .fusedOff)).foldl repairReplace s
  let s := if (leavesOf s .enabled).length + spareCount s < 160 then
      (leavesOf s .spare).foldl (fun s l => repairEvent l 3 1 (setKind l .enabled s)) s
    else s
  setUcode s

/-! ### The run (R505, R509) -/

/-- Event 0xA030, the first record of a run. -/
def bringupEvent (kind : Nat) (s : State) : State :=
  event srcAfzan 0xA030 noParty (leBytes 1 kind ++ leBytes 2 s.field.pwron.n ++ leBytes 2 Config.stepping)
    { (modBoot s fun b => { b with kind := kind, startAt := s.ktime }) with ktime := max 1 s.ktime }

/-- Phases 7 to 9: the world images, the injections, the clusters, and the Kettle admits jobs (Table 17.1). -/
def finishBoot (causes : List Nat) (s : State) : State :=
  if !(bootInput s).worlds then bootHeld 1 5 0 s
  else
    let s := releaseFaults causes (inject allSteps s)
    let s := releaseHarts (fun _ => true) 0 s
    let d := draw s
    let s := event srcAfzan 0xA031 noParty (leBytes 1 s.boot.kind ++ leBytes 4 (Config.freeNat d.1) ++
      leBytes 1 (leavesOf s .enabled).length ++ leBytes 1 (spareCount s) ++ leBytes 1 0) d.2
    { (modBoot s fun b => { b with phase := 10, ready := true }) with jobs := { s.jobs with idleSince := s.ktime } }

/-- All causes of FAULT_N. -/
def allCauses : List Nat := [0, 1, 2, 3, 4, 5]

/-- The core die powered, phases 3 and 4 run, with the straps sampled (R440, R505, R533); training starts. -/
def coreStart (s : State) : State :=
  let r := bootInput s
  let s := modBoot s fun b => { b with phase := 5, endpoint := r.endpoint, pcieClk := r.srisClk, gxPcie := r.gxPcie }
  let kind := s.boot.kind
  let s := if kind = 1 then s else caddyRestart s
  let s := copyLogs (portsUp (bringupEvent kind s))
  let v := verify s
  if v.2 then v.1 else if v.1.boot.held then v.1 else service v.1

/-! ### Resets (R511 to R515) -/

/-- Event 0xA034. -/
def resetEvent (scope req refused : Nat) (s : State) : State :=
  event srcAfzan 0xA034 (if req = 0x7F then noParty else req) (leBytes 1 scope ++ leBytes 1 (if req = 16 then 0x10 else if req = 17 then 0x11 else req) ++
    leBytes 4 refused) s

/-- Every kept buffer of an estate reads as zeros with KEPT_LOST. -/
def keptZero (e : Nat) (s : State) : State :=
  modEst s e fun x => { x with kept := x.kept.map (fun (k : Kept) => { k with data := [], lost := true, pieces := [] }), last := (0, 0, 0), lentBy := none, switchBack := false }

/-- Scope 1: an estate's leaves and internal queues; its job ends ABORTED with NOT_READY. A halted estate waits for a wider
scope (Table 17.4). -/
def estateReset (e req : Nat) (s : State) : State :=
  let s := if (getEst s e).halted then s else dropReplay e stABORTED stNOT_READY (abortJob e stNOT_READY s)
  let s := keptZero e s
  let s := (getEst s e).leaves.foldl (fun s l => if (getLeaf s l).kind = .fenced then s else leafWipe l s) s
  settle (resetEvent 1 req 0 (liftFreeze s))

/-- Scope 2 begins: every estate stops, the cache is written back and invalidated, and the fabric refuses (R511, R512). -/
def computeBegin (req : Nat) (s : State) : State :=
  let s := (estates s).foldl (fun s e => haltEst e s) s
  modBoot (cleanLines (fun _ _ => true) true s) fun b => { b with resetting := some 0, resetAt := (s.ktime, req) }

/-- A queue after a compute reset: its descriptor stays, its pointers and counters are 0 (R512). -/
def Queue.emptied (q : Queue) : Queue :=
  { q with tail := 0, head := 0, retire := 0, pushed := {}, popped := {}, badptr := false, ann := [], came := [], pThread := 0, cThread := 0 }

/-- A channel group's Strainer and counters after a compute reset; a failed channel stays failed. -/
def Cg.cleared (c : Cg) : Cg := { failed := c.failed }

/-- What a compute reset clears outside the estates. Every segment goes off first (R96). -/
def computeClear (s : State) : State :=
  let s := leafIdx.foldl (fun s l => if segMask s l = 0 then s else segsOff l s) s
  { s with
    queue := tmap Queue.emptied s.queue
    party := tmap (fun (p : PartySt) => { p with notify := [], notifyOvf := false }) s.party
    lv := (setUcode { s with lv := mapLeaves s }).lv
    mem := { s.mem with plru := [], snoop := [], cg := tmap Cg.cleared s.mem.cg
                        ranges := tmap (fun (x : SRange) => { x with m := 0, reqs := {}, bytes := {}, lat := {}, misses := {}, missed := false, missAt := 0 }) s.mem.ranges
                        cells := s.mem.cells.filter fun e => decide (e.1 < dramEnd s), fabricErr := [], flitCorr := {}, sramCorr := [] }
    jobs := { s.jobs with reports := [], watches := [], recovery := 0, heldQ := [], localise := [] } }

/-- An estate after a compute reset: its job, its waiting replay and its held completion are written, and nothing is
halted, held or in recovery (R515). A leaf that was fenced meanwhile is replaced, or the estate shrinks (R104). -/
def computeEst (s : State) (e : Nat) : State :=
  let s := modEst s e fun x => { x with halted := false, held := false, recovering := false, test := { x.test with next := 0, running := false, cycleAt := s.ktime } }
  let s := dropReplay e stABORTED stNOT_READY (abortJob e stNOT_READY s)
  let s := match (getEst s e).heldDone with
    | some d => writeDone d (modEst s e fun x => { x with heldDone := none })
    | none => s
  repairEst e (keptZero e s)

/-- A reset releases SAFE_STATE level 4; lower levels asked for before it stay until level 0 (R417, assumption 108). -/
def levelReset (s : State) : State :=
  if s.safe.level = 4 then
    modSafe s fun f => { f with level := if s.pw.forced then 3 else if f.levelEst = 0 then 0 else 1 }
  else s

/-- Scope 2 ends: queues are emptied, jobs end ABORTED with NOT_READY, the injections run again, FAULT_N loses what the scope
covers, and event 0xA034 counts the refusals (R511 to R515). -/
def computeEnd (s : State) : State :=
  match s.boot.resetting with
  | none => s
  | some n =>
    let req := s.boot.resetAt.2
    let s := computeClear (modBoot s fun b => { b with resetting := none })
    let s := (estates s).foldl computeEst s
    let s := levelReset (modSafe (releaseFaults computeCauses (inject allSteps s)) fun f => { f with halted := false })
    settle (resetEvent 2 req n (liftFreeze s))

/-- Whether a compute reset ends now: within 20 ms, at a moment that is a free value (R512). -/
def computeOver (s : State) : Bool := s.boot.resetting.isSome && (Config.freeBool s.fresh || decide (2000000 ≤ ktSince s s.boot.resetAt.1))

/-- What passes on an empty queue: 10 ns, and the end of a compute reset (assumption 2). -/
def idle (s : State) : State :=
  let s := tick s
  if s.boot.resetting.isNone then s
  else if computeOver s then computeEnd { s with fresh := s.fresh + 1 } else { s with fresh := s.fresh + 1 }

/-- Scope 3: the core die but for the Caddy and its rail; DRAM is handled as after a Park exit (Table 17.3). -/
def warmReset (req : Nat) (s : State) : State :=
  let s := resetEvent 3 req 0 (liftFreeze s)
  let s := coreLost (dramLost true s)
  let s := { s with mem := { s.mem with unzeroed := true }, safe := { s.safe with kettleFault := false, halted := false, pairFault := 0 } }
  let s := bringupEvent 2 s
  let v := verify s
  let s := copyLogs v.1
  if v.2 then finishBoot allCauses (setUcode s) else if s.boot.held then s else service s

/-- Scope 4: every rail but the keep-island rail is dropped and raised again; bring-up runs from phase 2 (R511, R529). -/
def coldReset (req : Nat) (s : State) : State :=
  let s := resetEvent 4 req 0 (liftFreeze s)
  let s := coreLost (dramLost false s)
  let s := modPw s fun p => { p with supplied := false }
  modBoot { s with safe := { causes := s.safe.causes } } fun b => { b with phase := 2, kind := 1 }

/-- RESET (R513): scope 1 finishes with the estate; scopes 2 to 4 begin 100 µs after the answer. -/
def ownReset : Own := fun m d s =>
  let scope := fld m 0 1
  let e := fld m 1 1
  checked [(0, decide (scope = 0) || decide (4 < scope)), (1, decide (scope = 1) && (decide (16 ≤ e) || !(getEst s e).live)), (2, rsvBad m 2 6)] s
    (if scope = 1 then (modBoot (estateReset e d.party s) fun b => { b with resetPend := some d }, none)
     else say ok (modBoot s fun b => { b with resetAsk := some (scope, d.party) }))

/-- The final answer of a RESET of scope 1. -/
def resetDone (s : State) : State :=
  match s.boot.resetPend with
  | some d => finish d ok (modBoot s fun b => { b with resetPend := none })
  | none => s

/-- RESET, sent by GS or GX (R513). -/
def execReset (m : Msg) (s : State) : Res := .next (resetDone (serve 0x0B12 isGsGx (lenIs 8) ownReset m s))

/-- A reset of scope 2 to 4. -/
def resetScope (scope req : Nat) (s : State) : State :=
  if scope = 2 then computeBegin req s else if scope = 3 then warmReset req s else coldReset req s

/-- RESET_BEGIN: 100 µs after the answer (R513). A Kettle that has faulted since carries out nothing. -/
def execResetBegin (s : State) : Res :=
  .next (match s.boot.resetAsk with
    | none => s
    | some (scope, req) => if s.safe.kettleFault then s else resetScope scope req (modBoot s fun b => { b with resetAsk := none }))

/-- RESET_N_PIN: low for 10 µs to 100 ms is a warm reset, longer a cold one (Table 17.3). -/
def execResetNPin (lowUs : Nat) (s : State) : Res :=
  .next (if lowUs < 10 ∨ !s.pw.supplied then s else if lowUs ≤ 100000 then warmReset 0x7F s else coldReset 0x7F s)

/-! ### Bring-up (R505 to R509, R527) -/

/-- The field die's power comes on: its registers are at reset, and FLD_PWRON counts (R493). -/
def fieldOn (s : State) : State :=
  let f := s.field
  { s with field := { vbat := f.vbat, log := f.log, logNext := f.logNext, uncopied := f.uncopied, pwron := f.pwron.add 1, polled := f.polled } }

/-- BRINGUP: VBAT enters its range and bring-up from Off starts (R505). A VBAT not yet known to be in range is a free value
there (assumption 5). -/
def execBringup (r : BringupInput) (s : State) : Res :=
  .next (if s.boot.phase ≠ 0 then s
    else
      let s := if s.field.vbat < 450 then fieldOn s else s
      let d := draw s
      let s := if 600 ≤ s.field.vbat ∧ s.field.vbat ≤ 3600 then s
        else modField d.2 fun f => { f with vbat := 600 + Int.ofNat (Config.freeNat d.1 % 3001) }
      modBoot (modField s fun f => { f with park := false, tripped := false }) fun b => { b with phase := 2, kind := 0, input := some r, pgoodFails := 0 })

/-- PGOOD_SAMPLE: at the end of the power-up steps. A low PGOOD drops the enables (R527). -/
def execPgoodSample (good : Bool) (s : State) : Res :=
  .next (if s.boot.phase ≠ 2 then s
    else if good then coreStart (modPw s fun p => { p with supplied := true, trip := false })
    else modBoot s fun b => { b with phase := 11, pgoodFails := min 15 (b.pgoodFails + 1) })

/-- POWER_UP_RETRY: 1 s later the sequence runs again (R527). -/
def execPowerUpRetry (s : State) : Res :=
  .next (if s.boot.phase = 11 then modBoot s fun b => { b with phase := 2 } else s)

/-- PGOOD_FALL with EN_CORE high: every enable drops, and the field die logs CODE 5, or CODE 4 where a trip frame came
(R49, R529). -/
def execPgoodFall (s : State) : Res :=
  .next (if !s.pw.supplied ∨ s.pw.st = .rest ∨ s.pw.st = .park then s else fieldLog 5 0 (coreOff 1 s))

/-- Event 0xA035. -/
def trainEvent (unit : Nat) (okT : Bool) (attempts : Nat) (s : State) : State :=
  event srcAfzan 0xA035 noParty (leBytes 1 unit ++ leBytes 1 (b2n !okT) ++ leBytes 1 attempts) s

/-- Event 0x5004. -/
def crossEvent (port cause : Nat) (s : State) : State :=
  let p := tget s.cross.port port
  event (0x8000 + port) 0x5004 noParty (leBytes 1 port ++ leBytes 1 (b2n p.up) ++ leBytes 1 p.lanes ++ leBytes 1 p.rate ++ leBytes 1 cause) s

/-- A PCIe port's link comes up. The width and the rate that both ends support are free values (R450, assumption 5). -/
def crossUp (port cause : Nat) (s : State) : State :=
  let a := freeNum s
  let b := freeNum a.2
  let s := b.2
  let lanes := if port = 0 then 2 ^ (a.1 % 4) else 2 ^ (a.1 % 3)
  let rate := ([25, 50, 80, 160] : List Nat).getD (b.1 % 4) 25
  crossEvent port cause { s with cross := { s.cross with port := tmod s.cross.port port fun p => { p with up := true, held := decide (cause = 2), lanes := lanes, rate := rate, l2 := false } } }

/-- A link outside the memory comes up (R506). With the field control link, transceivers leave the standby of the Park
defaults. -/
def linkIsUp (unit : Nat) (s : State) : State :=
  let s := modBoot s fun b => { b with linkUp := tput b.linkUp unit 1 }
  if unit = 19 then
    let s := { s with gw := { s.gw with can := tmap (fun (c : CanCtl) => { c with standby := false }) s.gw.can } }
    modField s fun f => { f with linkUp := true, holding := false, resends := (0, 0) }
  else if unit = 8 then crossUp 0 0 s
  else if 11 ≤ unit then { s with gw := { s.gw with port := tmod s.gw.port (unit - 7) fun p => { p with up := true } } }
  else s

/-- TRAINING: a trainer's result (R506). A channel group retrains twice; the eighth that passes starts phase 6, with leaf
repair beside it (R507); a third failure is the service state. -/
def execTraining (unit : Fin 20) (ok : Bool) (s : State) : Res :=
  let u := unit.val
  let n := tget s.boot.attempts u + 1
  .next (
    if !s.pw.supplied ∨ s.boot.held ∨ s.boot.service ∨ tget s.boot.linkUp u = 1 then s
    else if u < 8 then
      if s.boot.phase ≠ 5 then s
      else
        let s := trainEvent u ok n (modBoot s fun b => { b with attempts := tput b.attempts u n })
        if ok then
          let s := modBoot s fun b => { b with linkUp := tput b.linkUp u 1 }
          if (List.range 8).all fun c => decide (tget s.boot.linkUp c = 1) then modBoot (leafRepair s) fun b => { b with phase := 6, round := 1 } else s
        else if 3 ≤ n then service s
        else s
    else
      let s := trainEvent u ok n (modBoot s fun b => { b with attempts := tput b.attempts u (min 255 n) })
      if ok then linkIsUp u s else s)

/-- DRAM_TEST_ROUND: lines with one-bit errors of each channel group, rows repaired after round 4, and the channel groups
with a row that cannot be repaired (R508). -/
def execDramTestRound (oneBit rows : List Nat) (bad : List (Fin 8)) (s : State) : Res :=
  let isBad := fun (c : Nat) => bad.any fun x => decide (x.val = c)
  let k := s.boot.round
  .next (
    if s.boot.phase ≠ 6 ∨ s.boot.service ∨ s.boot.held then s
    else
      let s := (List.range 8).foldl (fun s c => event (srcMc c) 0xA033 noParty
        (leBytes 1 c ++ leBytes 1 k ++ leBytes 4 (oneBit.getD c 0) ++ leBytes 2 0 ++ leBytes 1 0) s) s
      if k < 4 then modBoot s fun b => { b with round := k + 1 }
      else
        let s := (List.range 8).foldl (fun s c => if rows.getD c 0 = 0 ∧ !isBad c then s else event (srcMc c) 0xA033 noParty
          (leBytes 1 c ++ leBytes 1 0 ++ leBytes 4 0 ++ leBytes 2 (rows.getD c 0) ++ leBytes 1 (b2n (isBad c))) s) s
        let s := dramLost false (modBoot s fun b => { b with round := 0 })
        if bad.isEmpty then finishBoot allCauses s else service s)

/-! ### The Caddy's flushes (R519, R521) -/

/-- CADDY_BACKGROUND_FLUSH: with 1,024 records unflushed, or 1 s after the last flush (R519). -/
def execCaddyBackgroundFlush (s : State) : Res :=
  let c := s.caddy
  .next (if s.boot.phase < 5 ∨ s.boot.phase = 11 ∨ s.pw.st = .park then s
    else if 1024 ≤ seqDist c.unflushed c.next ∨ 100000000 ≤ ktSince s c.lastFlush then flushCaddy s else s)

/-- The status of Table 17.7. -/
def caddyStatus (s : State) : List Byte :=
  let c := s.caddy
  leBytes 4 ((c.next + 2 ^ 32 - 1) % 2 ^ 32) ++ leBytes 4 c.oldest ++ leBytes 4 c.flushed ++ leBytes 1 (b2n c.frozen) ++ leBytes 3 0 ++
    leBytes 8 c.lost.val ++ leBytes 8 c.flashLost.val

/-- A read of the status clears OVF of its counters (R10, R11). -/
def caddyRead (s : State) : State := { s with caddy := { s.caddy with lost := s.caddy.lost.read, flashLost := s.caddy.flashLost.read } }

/-- CADDY_MARK writes event 0xA0F1 and answers the status (R521). -/
def execCaddyMark (m : Msg) (s : State) : Res :=
  .next (serve 0x0B10 isGsGx (lenIs 12) (fun m d s =>
    let s := event srcCaddy 0xA0F1 d.party (m.payload.take 12) s
    say (okWith (caddyStatus s)) (caddyRead s)) m s)

/-- CADDY_FLUSH flushes at once (R521). -/
def execCaddyFlush (m : Msg) (s : State) : Res :=
  .next (serve 0x0B11 isGsGx (lenIs 0) (fun _ d s =>
    (flushNow { s with caddy := { s.caddy with flushPend := s.caddy.flushPend ++ [d] } }, none)) m s)

end Sys2Proof.Machine
end

