-- ==== Sys2Proof/Machine/Control.lean ====
section
/-! DEFINITION. Control instructions (R154, Table 5.8 class 0x3): program counters are own-scratchpad byte offsets. A
target that is off alignment or range faults when it would be fetched (R69). -/

namespace Sys2Proof.Machine

/-- BR: when p = sense, branch to PC + 4 × offset18. -/
def execBr (w : Thr) (p : BitVec 3) (sense : Bool) (off : BitVec 18) (s : State) : Res :=
  .next (issue w (fun k s =>
    if getPred s k p = sense then .ok (jumpTo k (((getTh s k).pc + 4 * off.toInt) % (2 ^ 32 : Int)).toNat s) else .ok (adv k s)) s)

/-- JAL: rd ← PC + 4, jump to PC + 4 × imm17. -/
def execJal (w : Thr) (rd : BitVec 5) (imm : BitVec 17) (s : State) : Res :=
  .next (issue w (fun k s =>
    let pc := (getTh s k).pc
    .ok (jumpTo k ((pc + 4 * imm.toInt) % (2 ^ 32 : Int)).toNat (setReg k rd (BitVec.ofNat 32 (pc + 4)) s))) s)

/-- JR: rd ← PC + 4, jump to s[rs1]. -/
def execJr (w : Thr) (rd rs1 : BitVec 5) (s : State) : Res :=
  .next (issue w (fun k s =>
    (sreg s k rs1).map fun a => jumpTo k a.toNat (setReg k rd (BitVec.ofNat 32 ((getTh s k).pc + 4)) s)) s)

end Sys2Proof.Machine
end

