-- ==== Sys2Proof/Machine/Scanout.lean ====
section
/-! DEFINITION. What a display pipe shows: conversion, scaling and composition of its layers in FP32 (R263, R267, R268). -/

namespace Sys2Proof.Machine

/-- FP32 division by a whole number with RNE: the quotient is taken to more bits than FP32 keeps, with a sticky bit. -/
def fdivN (w : Word) (n : Nat) : Word :=
  match f32 w with
  | .fin neg m e => toF32 .rne (.fin neg (2 * (m * 2 ^ 64 / n) + b2n (decide (m * 2 ^ 64 % n ≠ 0))) (e - 65))
  | v => toF32 .rne v

/-- The code of a channel: clamped to 0 to 1, then rounded by RNE to `bpc` bits (R268). -/
def chanCode (bpc : Nat) (v : Word) : Nat :=
  match f32 (fmin (fmax v 0#32) oneF) with
  | .fin _ m e => roundUnits .rne false (m * (2 ^ bpc - 1)) e 0
  | _ => 0

/-- A pixel as it leaves a pipe: codes of R, G and B. -/
abbrev Pixel := Nat × Nat × Nat

/-- Fields of a layer entry (Table 9.7). -/
structure Layer where
  /-- image descriptor -/
  img : List Byte
  /-- SRC and DST: x, y, width and height -/
  src : Nat × Nat × Nat × Nat
  dst : Nat × Nat × Nat × Nat
  alpha : Nat
  flags : Nat
  /-- rows of SRC in plane 0 and in plane 1 -/
  rows : List (List Byte)
  chroma : List (List Byte)
deriving DecidableEq, Repr

/-- The layer of an entry, its pixels not yet fetched. -/
def layerOf (e : List Byte) : Layer :=
  let f := fun (o : Nat) => field e o 2
  { img := e.take 32, src := (f 32, f 34, f 36, f 38), dst := (f 40, f 42, f 44, f 46), alpha := field e 48 1, flags := field e 49 1
    rows := [], chroma := [] }

/-- R, G, B and alpha of pixel (x, y) of a layer's SRC. NV12 and P010 are converted first; sRGB values stay encoded (R268). -/
def Layer.pixel (l : Layer) (x y : Nat) : List Word :=
  let fmt := field l.img 6 1
  if twoPlane l.img then
    let n := if fmt = 16 then 1 else 2
    let code := fun (bs : List Byte) => if fmt = 16 then field bs 0 1 else field bs 0 2 / 64
    let at_ := fun (cx cy : Nat) =>
      let e := elemAt l.chroma (2 * n) (cx - l.src.1 / 2) (cy - l.src.2.1 / 2)
      (code (e.take n), code (e.drop n))
    let c := Config.toRgb (if fmt = 16 then 8 else 10) (code (elemAt l.rows n x y)) at_ (l.src.1 + x) (l.src.2.1 + y)
    [c.1, c.2.1, c.2.2, oneF]
  else texelRgba (if fmt = 4 then 3 else fmt) (elemAt l.rows (imgBytes fmt) x y) 0 0

/-- The two source indexes and the weight of output `x` along an axis from `win` to `wout`: half-pixel mode of R186. -/
def halfPixel (win wout x : Nat) : Nat × Nat × Word :=
  let num : Int := (2 * x + 1 : Int) * win - wout
  if num < 0 then (0, 0, 0#32)
  else
    let n := num.toNat
    let i := min (n / (2 * wout)) (win - 1)
    (i, min (i + 1) (win - 1), ratF32 (n % (2 * wout)) (2 * wout))

/-- A layer's R, G, B and alpha at pixel (x, y) of its DST, mirrored and turned by its flags; both rows first, then between
them (R186, R268). -/
def Layer.sample (l : Layer) (x y : Nat) : List Word :=
  let turn := bitOf l.flags 4
  let sx := halfPixel l.src.2.2.1 l.dst.2.2.1 (if turn != bitOf l.flags 3 then l.dst.2.2.1 - 1 - x else x)
  let sy := halfPixel l.src.2.2.2 l.dst.2.2.2 (if turn then l.dst.2.2.2 - 1 - y else y)
  filterTaps [l.pixel sx.1 sy.1, l.pixel sx.2.1 sy.1, l.pixel sx.1 sy.2.1, l.pixel sx.2.1 sy.2.1] sx.2.2 sy.2.2

/-- A layer over what lies below it at a pixel (R268). -/
def Layer.over (l : Layer) (ox oy : Nat) (below : List Word) : List Word :=
  let d := l.dst
  if d.1 ≤ ox ∧ ox < d.1 + d.2.2.1 ∧ d.2.1 ≤ oy ∧ oy < d.2.1 + d.2.2.2 then
    let p := l.sample (ox - d.1) (oy - d.2.1)
    let ga := toF32 .rne (.fin false l.alpha 0)
    let a := fdivN (fmul .rne (if bitOf l.flags 2 then p.getD 3 oneF else oneF) ga) 255
    let rest := fsub .rne oneF a
    ((p.take 3).zip below).map fun c =>
      fadd .rne (if bitOf l.flags 1 then fdivN (fmul .rne c.1 ga) 255 else fmul .rne c.1 a) (fmul .rne c.2 rest)
  else below

/-- R, G and B of a timing record's BACKGROUND (Table 9.6). -/
def backRgb (t : List Byte) : List Word := (List.range 3).map fun i => unorm 8 (field t (25 + i) 1)

/-- The codes of R, G and B at a timing record's BPC. -/
def pixelOf (t : List Byte) (c : List Word) : Pixel :=
  let v := fun (i : Nat) => chanCode (field t 18 1) (c.getD i 0#32)
  (v 0, v 1, v 2)

/-- A frame: layers upward over BACKGROUND, within the active area (R263, R268). -/
def compose (t : List Byte) (ls : List Layer) : List (List Pixel) :=
  (List.range (field t 10 2)).map fun y => (List.range (field t 2 2)).map fun x =>
    pixelOf t (ls.foldl (fun c l => l.over x y c) (backRgb t))

/-- A line from pixel `x` on shows BACKGROUND (R273). -/
def cutLine (t : List Byte) (x : Nat) (line : List Pixel) : List Pixel :=
  line.take x ++ List.replicate (line.length - x) (pixelOf t (backRgb t))

/-- A display pipe as an initiator. -/
def pipeIni (p : Nat) : Initiator := if h : p < 6 then .display ⟨p, h⟩ else .display 0

/-- Fetches the pixels of a layer: SRC of its image. An image not wholly in the owner's grant is read whole, so that the access
outside the grant is met (R267). -/
def fetchLayer (p owner : Nat) (e : List Byte) (s : State) : State × Nat × Layer :=
  let l := layerOf e
  let whole := if imgIn s owner l.img then (s, stOK)
    else
      let r := getImage (pipeIni p) l.img 0 (field l.img 8 2) 0 (field l.img 10 2) s
      (r.1, r.2.1)
  if whole.2 ≠ stOK then (whole.1, whole.2, l)
  else
    let r := getImage (pipeIni p) l.img l.src.1 l.src.2.2.1 l.src.2.1 l.src.2.2.2 whole.1
    (r.1, r.2.1, { l with rows := r.2.2.1, chroma := r.2.2.2 })

/-- Fetches the enabled layers, from the bottom to the top, up to the first that is refused or fails. -/
def fetchLayers (p owner : Nat) (es : List (List Byte)) (s : State) : State × Nat × List Layer :=
  (es.filter fun e => bitOf (field e 49 1) 0).foldl (fun (x : State × Nat × List Layer) e =>
    if x.2.1 ≠ stOK then x
    else
      let r := fetchLayer p owner e x.1
      (r.1, r.2.1, x.2.2 ++ [r.2.2])) (s, stOK, [])

end Sys2Proof.Machine
end

