-- ==== Sys2Proof/Machine/Display.lean ====
section
/-! DEFINITION. Display pipes and the HEVC codec, and the messages of graphics queues (R257 to R286). What H.265 makes of a stream is
outside the spec and a `Config` constant (assumption 44). -/

namespace Sys2Proof.Machine

/-- The pipe's record. -/
def getPipe (s : State) (p : Nat) : Pipe := tget s.media.pipe p
/-- Changes a pipe's record. -/
def modPipe (s : State) (p : Nat) (f : Pipe → Pipe) : State := { s with media := { s.media with pipe := tmod s.media.pipe p f } }

/-! ### Timing records (R264) -/

/-- Fields of a timing record (Table 9.6). -/
def tN (t : List Byte) : Nat := field t 1 1
def tHAct (t : List Byte) : Nat := field t 2 2
def tHTot (t : List Byte) : Nat := field t 4 2
def tVAct (t : List Byte) : Nat := field t 10 2
def tVTot (t : List Byte) : Nat := field t 12 2
/-- A pipe with D-PHY or C-PHY lanes (DSI-2). -/
def isDsi (p : Nat) : Bool := decide (4 ≤ p)
/-- C-PHY of the record's FLAGS. -/
def tCphy (t : List Byte) : Bool := bitOf (field t 24 1) 0

/-- Bits per pixel of the stream × 16 (R264). -/
def bpp16 (t : List Byte) : Nat := if field t 22 2 = 0 then 48 * field t 18 1 else field t 22 2

/-- Lane rates of a pipe's output in 10 Mbit/s (Table 9.5). -/
def lanesOk (p : Nat) (cphy : Bool) (n : Nat) : Bool :=
  if isDsi p then decide (1 ≤ n) && decide (n ≤ if cphy then 3 else 4) else n == 1 || n == 2 || n == 4
/-- Whether a rate is one of the output's; 0 leaves the choice to DP and eDP. -/
def rateOk (p : Nat) (cphy : Bool) (r : Nat) : Bool :=
  if isDsi p then decide (1 ≤ r) && decide (r ≤ if cphy then 600 else 450)
  else if p < 2 then [162, 216, 243, 270, 324, 432, 540, 810].contains r
  else [162, 270, 540, 810].contains r

/-- Whether the stream fits the payload rate of `n` lanes at `r` (R264, Table 9.5). -/
def streamFits (p : Nat) (t : List Byte) (n r : Nat) : Bool :=
  let need := 13200000000 * bpp16 t * 7
  let per := 16 * tN t
  if !isDsi p then decide (need ≤ per * (n * r * 8000000) * 7)
  else if tCphy t then decide (need ≤ per * (n * r * 10000000) * 16)
  else decide (need ≤ per * (n * r * 10000000) * 7)

/-- Fields of a timing record that break R264, in order. -/
def timingBad (t : List Byte) : List (Nat × Bool) :=
  let p := field t 0 1
  let f := fun (o n : Nat) => field t o n
  let h := tHTot t - tHAct t
  let v := tVTot t - tVAct t
  let r := if f 20 2 = 0 then 810 else f 20 2
  [(1, decide (f 1 1 < 22)), (2, decide (f 2 2 < 64) || decide (3840 < f 2 2)),
   (4, decide (8192 < f 4 2) || decide (f 4 2 < f 2 2) || decide (h < if isDsi p then 32 else 64)),
   (6, decide (h < f 6 2 + f 8 2)), (8, decide (f 8 2 = 0) || decide (1023 < f 8 2)),
   (10, decide (f 10 2 < 64) || decide (2160 < f 10 2)),
   (12, decide (8192 < f 12 2) || decide (f 12 2 < f 10 2) || decide (v < if isDsi p then 4 else 8)),
   (14, decide (v < f 14 2 + f 16 2)), (16, decide (f 16 2 = 0) || decide (63 < f 16 2)),
   (18, f 18 1 != 8 && f 18 1 != 10), (19, !lanesOk p (tCphy t) (f 19 1)),
   (20, if f 20 2 = 0 then isDsi p else !rateOk p (tCphy t) (f 20 2)),
   (22, decide (f 22 2 ≠ 0) && (decide (f 22 2 < 128) || decide (48 * f 18 1 < f 22 2))),
   (24, decide (32 ≤ f 24 1) || decide (bitsOf (f 24 1) 4 3 = 3) || (tCphy t && !isDsi p)), (28, decide (f 28 4 ≠ 0)),
   (20, !streamFits p t (f 19 1) r)]

/-- Starts scan-out: frames count from 1 (R270). -/
def pipeStart (p : Nat) (lanes rate : Nat) (s : State) : State :=
  modPipe s p fun x => { x with scan := true, training := none, frame := 0, latchAt := s.ktime, layers := [], link := true, relink := false,
                                lanes := lanes, rate := rate, lineUnder := 0, stopped := 0, bad := none, out := [] }

/-- Event 0x8007 for the frame that ends, where lines of it underflowed (R273). -/
def underEvent (p : Nat) (s : State) : State :=
  let x := getPipe s p
  if x.lineUnder = 0 then s
  else event (0x6000 + p) 0x8007 (ownerOf x.owner) (leBytes 1 p ++ leBytes 4 x.frame ++ leBytes 2 x.lineUnder)
    (modPipe s p fun y => { y with lineUnder := 0 })

/-- A PIPE_SET that waits for training ends ABORTED (assumption 132). -/
def dropTraining (p : Nat) (s : State) : State :=
  match (getPipe s p).training with
  | none => s
  | some d => finish d (sts stABORTED) (modPipe s p fun x => { x with training := none })

/-- PIPE_SET (R264, R265, R281).
The order of its answers: DESIGN CHOICE, assumption 117. -/
def ownPipeSet : Own := fun m d s =>
  let t := m.payload
  let p := fld m 0 1
  let x := getPipe s p
  checked [(0, decide (6 ≤ p))] s
  (refusedBy [(decide (x.owner ≠ 0) && decide (x.owner ≠ d.party + 1), stDENIED)] s
  (checked (timingBad t) s
  (refusedBy [(x.scan || x.training.isSome || x.stop.isSome, stBUSY)] s
    (let s := modPipe s p fun y => { y with owner := d.party + 1, timing := t }
     if isDsi p then say ok (pipeStart p (field t 19 1) (field t 20 2) s)
     else (modPipe s p fun y => { y with training := some d }, none)))))

/-- PIPE_SET starts a pipe. -/
def execPipeSet (m : Msg) (s : State) : Res := .next (serve 0x0510 isParty (lenIs 32) ownPipeSet m s)

/-- LINK_TRAINING_RESULT: hot-plug detect, and the lanes and rate that training reached, 0 lanes for none (R265). -/
def execLinkTrainingResult (pipe : Fin 6) (hpd : Bool) (lanes rate : Nat) (s : State) : Res :=
  let p := pipe.val
  let x := getPipe s p
  .next (match x.training with
    | none => s
    | some d =>
      let s := modPipe s p fun y => { y with training := none }
      if !hpd then finish d (sts stNOT_READY) s
      else if lanesOk p false lanes && decide (lanes ≤ field x.timing 19 1) && rateOk p false rate &&
          (decide (field x.timing 20 2 = 0) || decide (rate ≤ field x.timing 20 2)) && streamFits p x.timing lanes rate then
        finish d ok (pipeStart p lanes rate s)
      else
        let need := (13200000000 * bpp16 x.timing + 16 * tN x.timing * 10000000 - 1) / (16 * tN x.timing * 10000000)
        finish d (sts stNO_RESOURCE) (event (0x6000 + p) 0x8005 (ownerOf x.owner) (leBytes 1 p ++ leBytes 2 rate ++ leBytes 1 lanes ++ leBytes 4 need) s))

/-- Event 0x8006. -/
def linkEvent (p st cause : Nat) (s : State) : State :=
  event (0x6000 + p) 0x8006 (ownerOf (getPipe s p).owner) (leBytes 1 p ++ leBytes 1 st ++ leBytes 1 cause) s

/-- DISPLAY_LINK_LOSS while a pipe scans out: its timing goes on (R266). A loss before output has resumed drops the link again. -/
def execDisplayLinkLoss (pipe : Fin 6) (training : Bool) (s : State) : Res :=
  let p := pipe.val
  let x := getPipe s p
  .next (if !x.scan || !(x.link || x.relink) then s
    else linkEvent p 0 (b2n training) (modPipe s p fun y => { y with
      link := false, relink := false, losses := y.losses.add 1, lossCause := b2n training, triedAt := s.ktime, out := [] }))

/-- 100 ms in units of Kettle time (R266). -/
def retrainTicks : Nat := 10000000

/-- DISPLAY_RETRAIN: every 100 ms after a loss; output resumes at the first latch after success (R266). -/
def execDisplayRetrain (pipe : Fin 6) (ok : Bool) (s : State) : Res :=
  let p := pipe.val
  let x := getPipe s p
  .next (if !x.scan || x.link || x.relink || decide (ktSince s x.triedAt < retrainTicks) then s
    else
      let s := modPipe s p fun y => { y with triedAt := s.ktime, relink := ok }
      if ok then linkEvent p 1 x.lossCause s else s)

/-- SCANOUT_UNDERFLOW: a line's pixels were not there in time; the rest of the line shows BACKGROUND (R273). Which line and from
where is free. The event of the frame is written when its lines are counted, at its end. -/
def execScanoutUnderflow (pipe : Fin 6) (s : State) : Res :=
  let p := pipe.val
  .next (if !(getPipe s p).scan || s.pw.pllLost then s
    else
      let f := freeNum s
      let g := freeNum f.2
      modPipe g.2 p fun x =>
        let y := f.1 % max 1 x.out.length
        { x with under := x.under.add 1, lineUnder := min 65535 (x.lineUnder + 1)
                 out := x.out.set y (cutLine x.timing (g.1 % max 1 (field x.timing 2 2)) (x.out.getD y [])) })

/-! ### The vblank latch (R267 to R273) -/

/-- A pipe stops for a refused access or a failed read: its owner receives the status (Table 1.7). -/
def pipeStopped (p st : Nat) (s : State) : State :=
  let s := underEvent p s
  tell (getPipe s p).owner (pipeIni p) st (modPipe s p fun x => { x with scan := false, stopped := st, out := [] })

/-- Whether a scale factor lies from 1/4 to 8 (R268). -/
def scaleOk (src dst : Nat) : Bool := decide (src ≠ 0) && decide (src ≤ 4 * dst) && decide (dst ≤ 8 * src)

/-- Formats of use L (Table 9.2). -/
def layerFmt (x : Nat) : Bool := [3, 4, 5, 6, 8, 16, 17].contains x

/-- Whether a layer entry breaks Table 9.7 or R268. A layer that is not enabled is not looked at further. -/
def layerBad (e : List Byte) : Bool :=
  let img := e.take 32
  let f := fun (o : Nat) => field e o 2
  decide (32 ≤ field e 49 1) || decide (field e 50 14 ≠ 0) ||
    (bitOf (field e 49 1) 0 && ((imgBad layerFmt img).isSome || decide (bitsOf (field img 7 1) 3 2 ≠ 0) || !scaleOk (f 36) (f 44) ||
      !scaleOk (f 38) (f 46) || decide (field img 8 2 < f 32 + f 36) || decide (field img 10 2 < f 34 + f 38)))

/-- Whether a flip record breaks an alignment of Table 9.8: LAYERSET to 64, FENCE to 8. -/
def flipBad (r : List Byte) : Bool := decide (field r 0 6 % 64 ≠ 0) || decide (field r 16 6 % 8 ≠ 0)

/-- A flip whose fence and target allow it: none where the fence read was refused (R271). -/
def fenceMet (p : Nat) (r : List Byte) (s : State) : State × Option Bool :=
  let a := field r 16 6
  if a = 0 then (s, some true)
  else
    let x := busRead (pipeIni p) a 8 s
    if x.2.1 ≠ stOK then (pipeStopped p x.2.1 x.1, none) else (x.1, some (decide (field r 24 8 ≤ leNat x.2.2)))

/-- What a latch has done: flips taken, the last one's tag, and whether the head's fence was not met. -/
structure Latch where
  taken : Nat := 0
  tag : Nat := 0
  blocked : Bool := false
deriving DecidableEq, Repr

/-- A flip that breaks a range answers BAD_ARG and is not applied (R247, assumption 45). -/
def refuseFlip (p : Nat) (r : List Byte) (s : State) : State := modPipe s p fun y => { y with bad := some (field r 32 8, stBAD_ARG) }

/-- Applies a flip: the layers of MASK come from the set (R269). -/
def applyFlip (p : Nat) (r : List Byte) (l : Latch) (s : State) : State × Latch :=
  let x := busRead (pipeIni p) (field r 0 6) 512 s
  if x.2.1 ≠ stOK then (pipeStopped p x.2.1 x.1, l)
  else
    let es := ((List.range 8).filter fun i => bitOf (field r 6 1) i).map fun i => (i, (x.2.2.drop (i * 64)).take 64)
    if es.any fun e => layerBad e.2 then (refuseFlip p r x.1, l)
    else (modPipe x.1 p fun y => { y with layers := es.foldl (fun t e => tput t e.1 e.2) y.layers },
      { l with taken := l.taken + 1, tag := field r 32 8 })

/-- Takes flips from the head while they are ready (R271). -/
def takeFlips (p q : Nat) : Nat → State → Latch → State × Latch
  | 0, s, l => (s, l)
  | n + 1, s, l =>
    if (getQ s q).len = 0 || !(getPipe s p).scan then (s, l)
    else
      let r := headEntry s q
      if (getPipe s p).frame < field r 8 8 then (s, l)
      else if flipBad r then takeFlips p q n (refuseFlip p r (popEntry q s)) l
      else
        let f := fenceMet p r s
        match f.2 with
        | none => (f.1, l)
        | some false => (f.1, { l with blocked := true })
        | some true =>
          let a := applyFlip p r l (popEntry q f.1)
          takeFlips p q n a.1 a.2

/-- The status record of a latch (Table 9.9). -/
def pushStatus (p : Nat) (l : Latch) (s : State) : State :=
  let x := getPipe s p
  if x.status = 0 then s
  else
    let kind := if 0 < l.taken then 0 else if l.blocked then 2 else 1
    if canPush s (x.status - 1) then
      pushEntry (x.status - 1) (leBytes 8 x.frame ++ leBytes 8 x.latchAt ++ leBytes 8 l.tag ++ leBytes 1 kind ++ leBytes 1 l.taken ++ leBytes 6 0) s
    else modPipe s p fun y => { y with dropped := y.dropped.add 1 }

/-- The pixels of the frame that begins: nothing on an idle link or from a pipe that is stopped, BACKGROUND while the fabric
refuses (R266, R512), else the layers composed from what memory holds at the latch (R268, assumption 45). -/
def showFrame (p : Nat) (s : State) : State :=
  let x := getPipe s p
  let put := fun (s : State) (f : List (List Pixel)) => modPipe s p fun y => { y with out := f }
  if !x.link || blockOff s 4 p then put s []
  else if !fabricUp s || s.boot.resetting.isSome then put s (compose x.timing [])
  else
    let r := fetchLayers p (ownerOf x.owner) ((List.range 8).map (tget x.layers)) s
    if r.2.1 ≠ stOK then pipeStopped p r.2.1 r.1 else put r.1 (compose x.timing r.2.2)

/-- Whether a latch can be now: a frame lasts its period (R270). The first latch after PIPE_SET may be at any time. -/
def latchDue (s : State) (x : Pipe) : Bool :=
  decide (x.frame = 0) || decide (framePeriod x.timing < (ktSince s x.latchAt + 1) * tenNs)

/-- A new frame's number and time, and what takes effect at a latch (R266, R270, R281). -/
def nextFrame (p : Nat) (s : State) : State :=
  modPipe s p fun y => { y with
    frame := (y.frame + 1) % 2 ^ 64, latchAt := s.ktime, link := y.link || y.relink, relink := false
    status := if y.statusNext = 0 then y.status else y.statusNext - 1, statusNext := 0 }

/-- Flips of a latch, and event 0x8002 where the head's fence is not met and no flip was taken (R271, R272). -/
def latchFlips (p : Nat) (s : State) : State × Latch :=
  let x := getPipe s p
  let r := if x.flip = 0 then (s, ({} : Latch)) else takeFlips p (x.flip - 1) (getQ s (x.flip - 1)).len s {}
  if (getPipe r.1 p).scan && r.2.blocked && decide (r.2.taken = 0) then
    (event (0x6000 + p) 0x8002 (ownerOf x.owner) (leBytes 1 p ++ leBytes 4 (getPipe r.1 p).frame ++ leBytes 2 (getQ r.1 (x.flip - 1)).len)
      (modPipe r.1 p fun y => { y with repeats := y.repeats.add 1 }), r.2)
  else r

/-- VBLANK_LATCH: a pipe's last active line ends (R269 to R273). While the fabric refuses, the pipe keeps its timing and
takes no flip (R512); without the display clock there is no latch (R38). -/
def execVblankLatch (pipe : Fin 6) (s : State) : Res :=
  let p := pipe.val
  let x := getPipe s p
  .next (
    if !x.scan || s.pw.pllLost || !latchDue s x then s
    else
      let s := underEvent p s
      if x.stop.isSome then modPipe s p fun y => { y with scan := false, out := [] }
      else
        let s := nextFrame p s
        if !fabricUp s || s.boot.resetting.isSome then showFrame p s
        else
          let r := latchFlips p s
          if !(getPipe r.1 p).scan then r.1 else showFrame p (pushStatus p r.2 r.1))

/-! ### Stopping and queues (R281 to R283) -/

/-- The pipe's link is idle: for DP and eDP it is released; RELEASE unbinds (R282). -/
def pipeIdle (p flags : Nat) (s : State) : State :=
  let s := underEvent p s
  if bitOf flags 1 then
    modPipe (dropTraining p s) p fun x => { repeats := x.repeats, under := x.under, dropped := x.dropped, losses := x.losses, frame := x.frame }
  else modPipe s p fun x => { x with scan := false, link := false, relink := false, lanes := 0, rate := 0, stop := none, out := [] }

/-- PIPE_STOP (R282). -/
def ownPipeStop : Own := fun m d s =>
  let p := fld m 0 1
  let flags := fld m 1 1
  let x := getPipe s p
  checked [(0, decide (6 ≤ p)), (1, decide (4 ≤ flags)), (2, rsvBad m 2 2)] s
  (refusedBy [(decide (x.owner ≠ d.party + 1), stDENIED), (x.stop.isSome, stBUSY)] s
    (if !x.scan then say ok (if bitOf flags 1 then pipeIdle p flags s else s)
     else
       let s := modPipe s p fun y => { y with stop := some (flags, d) }
       (if bitOf flags 0 then modPipe (underEvent p s) p fun y => { y with scan := false, out := [] } else s, none)))

/-- PIPE_STOP. -/
def execPipeStop (m : Msg) (s : State) : Res := .next (serve 0x0511 isParty (lenIs 4) ownPipeStop m s)

/-- PIPE_LINK_IDLE: the link of a stopping pipe is idle; the final answer follows (R282). -/
def execPipeLinkIdle (pipe : Fin 6) (s : State) : Res :=
  let p := pipe.val
  let x := getPipe s p
  .next (match x.stop with
    | none => s
    | some (flags, d) => if x.scan then s else finish d ok (pipeIdle p flags s))

/-- A queue operand: [17:0] ID, [30:18] reserved, [31] ENABLE. -/
def qOpBad (v : Nat) : Bool := decide (bitsOf v 30 18 ≠ 0)
def qOpOn (v : Nat) : Bool := bitOf v 31
def qOpId (v : Nat) : Nat := v % 2 ^ 18

/-- PIPE_QUEUES (R269, R281).
The order of its answers: DESIGN CHOICE, assumption 117. -/
def ownPipeQueues : Own := fun m d s =>
  let p := fld m 0 1
  let x := getPipe s p
  let a := fld m 4 4
  let b := fld m 8 4
  let flip := if qOpOn a then qOpId a + 1 else 0
  let stq := if qOpOn b then qOpId b + 1 else 0
  checked [(0, decide (6 ≤ p))] s
  (refusedBy [(decide (x.owner ≠ 0) && decide (x.owner ≠ d.party + 1), stDENIED), (qOpOn a && !qReq s d.party (qOpId a), stDENIED),
      (qOpOn b && !qReq s d.party (qOpId b), stDENIED)] s
  (checked [(1, rsvBad m 1 3), (4, qOpBad a || (qOpOn a && !qForm s (qOpId a) 1 2 none (some 6))),
      (8, qOpBad b || (qOpOn b && !qForm s (qOpId b) 1 1 (some 6) none))] s
  (refusedBy [(x.scan && decide (flip ≠ x.flip), stBUSY)] s
    (say ok (modPipe s p fun y => { y with
      owner := d.party + 1, flip := flip
      status := if y.scan then y.status else stq, statusNext := if y.scan then stq + 1 else 0 })))))

/-- PIPE_QUEUES binds a pipe's queues. -/
def execPipeQueues (m : Msg) (s : State) : Res := .next (serve 0x0512 isParty (lenIs 12) ownPipeQueues m s)

/-- The payload of DSP_STATS. -/
def dspStats (x : Pipe) : List Byte :=
  leBytes 8 x.frame ++ leBytes 8 x.repeats.val ++ leBytes 8 x.under.val ++ leBytes 8 x.dropped.val ++ leBytes 8 x.losses.val

/-- DSP_STATS (R283): a read clears OVF (R10, R11), CLEAR the counters. -/
def ownDspStats : Own := fun m d s =>
  let p := fld m 0 1
  let x := getPipe s p
  checked [(0, decide (6 ≤ p)), (1, decide (2 ≤ fld m 1 1)), (2, rsvBad m 2 2)] s
  (refusedBy [(decide (x.owner ≠ d.party + 1), stDENIED)] s
    (say (okWith (dspStats x)) (modPipe s p fun y =>
      if bitOf (fld m 1 1) 0 then { y with repeats := {}, under := {}, dropped := {}, losses := {} }
      else { y with repeats := y.repeats.read, under := y.under.read, dropped := y.dropped.read, losses := y.losses.read })))

/-- DSP_STATS reads a pipe's statistics. -/
def execDspStats (m : Msg) (s : State) : Res := .next (serve 0x0513 isParty (lenIs 4) ownDspStats m s)

/-! ### Graphics queues (R257, R259, R279, R280) -/

/-- GFX_QUEUE_SET (R279, Table 9.14).
The order of its answers: DESIGN CHOICE, assumption 117. -/
def ownGfxQueueSet : Own := fun m d s =>
  let q := fld m 0 4
  let f := fld m 16 4
  let pre := fld m 8 4
  let bg := fld m 12 4
  refusedBy [(!qReq s d.party (q % 2 ^ 18), stDENIED), (qOpOn f && !qReq s d.party (qOpId f), stDENIED)] s
  (checked [(0, decide (2 ^ 18 ≤ q) || !((getQ s q).bound && decide ((getQ s q).kind = 2))), (4, decide (4 ≤ fld m 4 1)), (5, rsvBad m 5 3),
      (8, decide (pre ≠ 0) && (decide (pre < 50) || decide (100000 < pre))), (12, decide (bg ≠ 0) && (decide (bg < 100) || decide (100000 < bg))),
      (16, qOpBad f || (qOpOn f && !qForm s (qOpId f) 1 1 (some 3) none)), (20, rsvBad m 20 4)] s
    (let s := modQ s q fun x => { x with gfxPrio := fld m 4 1, preemptUs := pre, binGrowUs := bg }
     say ok { s with media := { s.media with faultQ := tput s.media.faultQ q (if qOpOn f then qOpId f + 1 else 0) } }))

/-- GFX_QUEUE_SET sets a graphics queue. -/
def execGfxQueueSet (m : Msg) (s : State) : Res := .next (serve 0x0500 isParty (lenIs 24) ownGfxQueueSet m s)

/-- The entries of GFX_BIN_GROW: address and pieces. -/
def growEntries (m : Msg) : List (Nat × Nat) := (List.range (fld m 1 1)).map fun i => (fld m (8 + 8 * i) 6, fld m (14 + 8 * i) 2)

/-- GFX_BIN_GROW (R257, R280). -/
def ownGfxBinGrow : Own := fun m d s =>
  let e := fld m 0 1
  let es := growEntries m
  let p := match jobOf s e with | some j => j.party | none => (getEst s e).party
  checked ([(0, decide (16 ≤ e) || !(getEst s e).live), (1, decide (fld m 1 1 = 0) || decide (16 < fld m 1 1)), (2, rsvBad m 2 6)] ++
      (List.range es.length).flatMap fun i => [(8 + 8 * i, decide ((es.getD i (0, 0)).1 % pieceBytes ≠ 0)), (14 + 8 * i, decide ((es.getD i (0, 0)).2 = 0))]) s
  (refusedBy [(decide (p ≠ d.party), stDENIED), (es.any fun x => !inReq s d.party x.1 (x.2 * pieceBytes), stDENIED),
      (!(tget s.media.gfx e).grow, stNOT_READY)] s
    (let ps := es.flatMap fun x => (List.range x.2).map fun i => x.1 + i * pieceBytes
     say ok { s with media := { s.media with gfx := tmod s.media.gfx e fun g =>
       { g with grown := g.grown ++ ps, cap := g.cap + ps.length * pieceBytes, grow := false } } }))

/-- GFX_BIN_GROW gives memory to a pass that waits. -/
def execGfxBinGrow (m : Msg) (s : State) : Res :=
  .next (serve 0x0501 isParty (fun m => decide (8 ≤ m.length.toNat) && (decide (m.length.toNat = 8 + 8 * fld m 1 1) || decide (16 < fld m 1 1)))
    ownGfxBinGrow m s)

/-! ### The codec (R274 to R278, R284, R285) -/

/-- The session's record. -/
def getSes (s : State) (k : Nat) : Session := tget s.media.ses k
/-- Changes a session's record. -/
def modSes (s : State) (k : Nat) (f : Session → Session) : State := { s with media := { s.media with ses := tmod s.media.ses k f } }
/-- Fields of CODEC_OPEN (Table 9.15). -/
def cdDec (c : List Byte) : Bool := bitOf (field c 0 1) 0
def cdMain10 (c : List Byte) : Bool := bitOf (field c 0 1) 1
def cdTile (c : List Byte) : Bool := bitOf (field c 0 1) 2
def cdW (c : List Byte) : Nat := field c 2 2
def cdH (c : List Byte) : Nat := field c 4 2
def cdIn (c : List Byte) : Nat := field c 12 4 % 2 ^ 18
def cdOut (c : List Byte) : Nat := field c 16 4 % 2 ^ 18
def cdFree (c : List Byte) : Nat := field c 20 4 % 2 ^ 18
/-- The session as an initiator. -/
def sesIni (k : Nat) : Initiator := if h : k < 64 then .codec ⟨k, h⟩ else .codec 0

/-- Sessions open in a direction. -/
def sesOpen (s : State) (dec : Bool) : List Nat :=
  ((List.range 32).map fun i => i + if dec then 32 else 0).filter fun k => decide ((getSes s k).owner ≠ 0)
/-- Sum of RATE of a direction (R275). -/
def sesRate (s : State) (dec : Bool) : Nat := ((sesOpen s dec).map fun k => field (getSes s k).open_ 8 4).sum
/-- Working DRAM a session needs (R284). -/
def sesWork (c : List Byte) : Nat := cdW c * cdH c * (if cdMain10 c then 6 else 3) / 2 * (if cdDec c then 17 else 4) + 1048576

/-- The field checks of CODEC_OPEN (R284). The form of a queue is looked at where the queue is the party's own: one outside the grant
answers DENIED (R275). -/
def codecBad (s : State) (p : Nat) (m : Msg) : List (Nat × Bool) :=
  let c := m.payload
  let form := fun (q kind esz : Nat) (a b : Option Nat) => qReq s p q && !qForm s q kind esz a b
  let f := fun (o n : Nat) => fld m o n
  let dec := cdDec c
  let enc := !dec
  let cls := some 5
  [(0, decide (8 ≤ f 0 1) || (cdTile c && (enc || cdMain10 c))), (1, decide (153 < f 1 1)),
      (2, decide (f 2 2 < 64) || decide (8192 < f 2 2) || decide (f 2 2 % 8 ≠ 0)),
      (4, decide (f 4 2 < 64) || decide (4352 < f 4 2) || decide (f 4 2 % 8 ≠ 0) || decide (8912896 < f 2 2 * f 4 2)), (6, rsvBad m 6 2),
      (8, decide (f 8 4 = 0) || decide (534773760 < f 8 4)),
      (12, decide (2 ^ 18 ≤ f 12 4) || form (cdIn c) 1 (if dec then 1 else 2) none cls),
      (16, decide (2 ^ 18 ≤ f 16 4) || (if cdTile c then form (cdOut c) 0 0 cls none else form (cdOut c) 1 (if dec then 2 else 1) cls none)),
      (20, if dec then (if cdTile c then decide (2 ^ 18 ≤ f 20 4) else decide (2 ^ 18 ≤ f 20 4) || form (cdFree c) 1 2 none cls) else decide (f 20 4 ≠ 0)),
      (24, decide (f 24 6 % 4096 ≠ 0)), (30, rsvBad m 30 2), (36, if dec then decide (f 36 1 ≠ 0) else decide (3 ≤ f 36 1)),
      (37, enc && decide (51 < f 37 1)), (38, enc && decide (3 < f 38 1)), (39, enc && decide ((f 4 2 + 63) / 64 < f 39 1)),
      (40, enc && decide (f 36 1 ≠ 0) && decide (f 40 4 = 0)), (44, enc && decide (f 36 1 = 2) && decide (f 44 4 < f 40 4)),
      (50, if dec then decide (2 ≤ f 50 1) else decide (f 50 1 ≠ 0)), (51, rsvBad m 51 13)]

/-- CODEC_OPEN (R275, R284). -/
def ownCodecOpen : Own := fun m d s =>
  let c := m.payload
  let f := fun (o n : Nat) => fld m o n
  let dec := cdDec c
  let open_ := sesOpen s dec
  checked (codecBad s d.party m) s
  (refusedBy [(!qReq s d.party (cdIn c) || !qReq s d.party (cdOut c) || (dec && !cdTile c && !qReq s d.party (cdFree c)), stDENIED),
      (!inReq s d.party (f 24 6) (f 32 4), stDENIED)] s
  (if f 32 4 < sesWork c then say (noRes (sesWork c - f 32 4)) s
   else if 2000000000 < sesRate s dec + f 8 4 then say (noRes (sesRate s dec + f 8 4 - 2000000000)) s
   else match ((List.range 32).map fun i => i + if dec then 32 else 0).find? fun k => !open_.contains k with
    | none => say (noRes 1) s
    | some k => say (okWith (leBytes 1 k)) (modSes s k fun _ => { owner := d.party + 1, open_ := c })))

/-- CODEC_OPEN opens a session. -/
def execCodecOpen (m : Msg) (s : State) : Res := .next (serve 0x0520 isParty (lenIs 64) ownCodecOpen m s)

/-- Closes a session: work in progress is discarded, and its RATE leaves the sum (R285). -/
def closeSes (k : Nat) (s : State) : State := { s with media := { s.media with ses := tput s.media.ses k {} } }

/-- A picture record (Table 9.11), and a bitstream record (Table 9.12). -/
def picRec (img : List Byte) (pts flags tag : Nat) : List Byte :=
  (img ++ leBytes 32 0).take 32 ++ leBytes 8 pts ++ leBytes 1 flags ++ leBytes 7 0 ++ leBytes 8 tag ++ leBytes 8 0
def bitRec (addr bytes flags pts tag : Nat) : List Byte :=
  leBytes 6 addr ++ leBytes 2 0 ++ leBytes 4 bytes ++ leBytes 1 flags ++ leBytes 3 0 ++ leBytes 8 pts ++ leBytes 8 tag

/-- Pictures that a decoder session has ready from the pieces it has taken. -/
def picsLeft (t : Session) : Nat := t.pics - t.count

/-- Whether a session still holds work that DRAIN finishes. -/
def sesBusy (t : Session) : Bool := if cdDec t.open_ then decide (picsLeft t ≠ 0) else !t.work.isEmpty

/-- Ends a CODEC_CLOSE: without DRAIN at once, with DRAIN after every popped record and a last record with EOS (R285). -/
def closeSesIfDone (k : Nat) (s : State) : State :=
  let t := getSes s k
  let c := t.open_
  match t.closing with
  | none => s
  | some d =>
    if sesBusy t && decide (t.stopped = 0) then s
    else if cdTile c || decide (t.stopped ≠ 0) then finish d ok (closeSes k s)
    else if !canPush s (cdOut c) then s
    else finish d ok (closeSes k (pushEntry (cdOut c) (if cdDec c then picRec [] 0 2 0 else bitRec 0 0 1 0 0) s))

/-- CODEC_CLOSE (R285). -/
def ownCodecClose : Own := fun m d s =>
  let k := fld m 0 1
  let t := getSes s k
  checked [(0, decide (64 ≤ k)), (1, decide (2 ≤ fld m 1 1)), (2, rsvBad m 2 2)] s
  (refusedBy [(decide (t.owner ≠ d.party + 1), stDENIED), (t.closing.isSome, stBUSY)] s
    (let drain := bitOf (fld m 1 1) 0
     (modSes s k fun x => { x with
       closing := some d, work := if drain then x.work else [], pieces := if drain then x.pieces else [], pics := if drain then x.pics else 0
       stopped := if drain then x.stopped else max 1 x.stopped }, none)))

/-- CODEC_CLOSE closes a session. -/
def execCodecClose (m : Msg) (s : State) : Res :=
  .next (closeSesIfDone (fld m 0 1 % 64) (serve 0x0521 isParty (lenIs 4) ownCodecClose m s))

/-- Event 0x8008. -/
def decodeError (k kind pts : Nat) (s : State) : State :=
  event (0x5000 + k) 0x8008 (ownerOf (getSes s k).owner) (leBytes 1 k ++ leBytes 1 kind ++ leBytes 4 pts) s

/-- A session stops, its work discarded. -/
def haltSes (k st : Nat) (s : State) : State := closeSesIfDone k (modSes s k fun x => { x with stopped := st, work := [], pieces := [], pics := 0, due := [], tile := 0 })

/-- A session stops for a refused or failed access, and its owner receives the status (Table 1.7). -/
def stopSes (k st : Nat) (s : State) : State := haltSes k st (tell (getSes s k).owner (sesIni k) st s)

/-- Tiles of a picture of a TILE_OUT session: luma, then CbCr (R276). -/
def sesTiles (c : List Byte) : Nat := (cdW c + 255) / 256 * ((cdH c + 63) / 64) + (cdW c + 255) / 256 * ((cdH c / 2 + 63) / 64)

/-! ### Decoded samples (R276, R278) -/

/-- A sample of picture `n` of a decoder session, in `bits` bits: what H.265 decodes, or where it is damaged the co-located sample
of the nearest reference picture, or mid-grey where there is none (R278). -/
def decoded (bits : Nat) (pieces : List (List Byte × List Byte)) (errs : List Bool) (plane x y : Nat) : Nat → Nat → Nat
  | 0, _ => 2 ^ (bits - 1)
  | fuel + 1, n =>
    if errs.getD n false && Config.decDamaged pieces n plane x y then
      match Config.decRef pieces n with
      | none => 2 ^ (bits - 1)
      | some m => decoded bits pieces errs plane x y fuel m
    else Config.decSample pieces errs n plane x y % 2 ^ bits

/-- Bytes of a sample of the picture in progress of a session: 8 bits, or P010's 10 bits in [15:6] (Table 9.2). -/
def sesSample (t : Session) (plane x y : Nat) : List Byte :=
  let bits := if cdMain10 t.open_ then 10 else 8
  let v := decoded bits t.pieces t.errs plane x y (t.count + 1) t.count
  if cdMain10 t.open_ then leBytes 2 (64 * v) else leBytes 1 v

/-- The 16,384 bytes of tile `i` of a picture: luma in row-major tile order, then CbCr (R276). Bytes beyond the picture are not given. -/
def tileBytes (t : Session) (i : Nat) : List Byte :=
  let c := t.open_
  let per := (cdW c + 255) / 256
  let nl := per * ((cdH c + 63) / 64)
  let chroma := decide (nl ≤ i)
  let j := if nl ≤ i then i - nl else i
  let h := if nl ≤ i then cdH c / 2 else cdH c
  (List.range 16384).map fun b =>
    let x := j % per * 256 + b % 256
    let y := j / per * 64 + b / 256
    if cdW c ≤ x ∨ h ≤ y then Config.ispPad x y
    else (if chroma then sesSample t (1 + x % 2) (x / 2) y else sesSample t 0 x y).getD 0 0

/-- Pushes tiles of the picture in progress while there is room (R276). -/
def pushTiles (k : Nat) : Nat → State → State
  | 0, s => s
  | n + 1, s =>
    let t := getSes s k
    let q := cdOut t.open_
    if t.stopped ≠ 0 || decide (sesTiles t.open_ ≤ t.tile) || !canPush s q then s
    else
      let r := busWrite (sesIni k) ((getQ s q).bufAddr (getQ s q).tail) (tileBytes t t.tile) s
      if r.2 ≠ stOK then stopSes k r.2 r.1
      else
        let last := decide (t.tile + 1 = sesTiles t.open_)
        pushTiles k n (pushEntry q (tileEntry t.tile last) (modSes r.1 k fun x => { x with tile := x.tile + 1 }))

/-! ### Input records (R276, R277) -/

/-- Whether a picture record's image fits the session: Table 9.1, with NV12 for Main and P010 for Main10 (Table 9.10). -/
def picOk (c r : List Byte) : Bool := (imgBad (fun f => f == if cdMain10 c then 17 else 16) (r.take 32)).isNone

/-- A picture record that breaks a range answers BAD_ARG and is not applied (R247, assumption 45). -/
def refusePic (k : Nat) (r : List Byte) (s : State) : State := modSes s k fun x => { x with bad := some (field r 48 8, stBAD_ARG) }

/-- Drops bad picture records from the head of queue `q`. -/
def dropBad (k q : Nat) (c : List Byte) : Nat → State → State
  | 0, s => s
  | n + 1, s => if (getQ s q).len = 0 ∨ picOk c (headEntry s q) then s else dropBad k q c n (popEntry q (refusePic k (headEntry s q) s))

/-- Arrival time of a queue's head. -/
def headAt (s : State) (q : Nat) : Nat := (getQ s q).came.headD s.ktime

/-- An encoder session takes picture records, as many as B_FRAMES lets it hold. -/
def takePics (k : Nat) : Nat → State → State
  | 0, s => s
  | n + 1, s =>
    let t := getSes s k
    let q := cdIn t.open_
    let s := dropBad k q t.open_ (getQ s q).len s
    if t.closing.isSome ∨ (getQ s q).len = 0 ∨ field t.open_ 38 1 < t.work.length then s
    else takePics k n (modSes (popEntry q s) k fun x => { x with work := x.work ++ [headEntry s q], due := x.due ++ [headAt s q] })

/-- A decoder session takes bitstream records and reads their bytes, until a picture is complete (R276). -/
def takePieces (k : Nat) : Nat → State → State
  | 0, s => s
  | n + 1, s =>
    let t := getSes s k
    let q := cdIn t.open_
    if t.closing.isSome ∨ t.stopped ≠ 0 ∨ (getQ s q).len = 0 ∨ picsLeft t ≠ 0 then s
    else
      let r := headEntry s q
      let at_ := headAt s q
      let x := busRead (sesIni k) (field r 0 6) (field r 8 4) (popEntry q s)
      if x.2.1 ≠ stOK then stopSes k x.2.1 x.1
      else takePieces k n (modSes x.1 k fun y => { y with
          pieces := y.pieces ++ [(r, x.2.2)], pics := Config.decPics (y.pieces ++ [(r, x.2.2)]), due := [at_] })

/-- Whether a session has an input to work on and room for its result (R277). -/
def sesReady (s : State) (k : Nat) : Bool :=
  let t := getSes s k
  let c := t.open_
  decide (t.owner ≠ 0) && decide (t.stopped = 0) && !blockOff s 6 k && canPush s (cdOut c) &&
    (sesBusy t || (t.closing.isNone && decide ((getQ s (cdIn c)).len ≠ 0))) &&
    (!cdDec c || cdTile c || decide ((getQ s (cdFree c)).len ≠ 0))

/-- Time since the arrival of the input that a session works on next. -/
def sesAge (s : State) (k : Nat) : Nat :=
  let t := getSes s k
  ktSince s (if sesBusy t then t.due.headD s.ktime else headAt s (cdIn t.open_))

/-- Whether session `a` has an earlier deadline than `b`: arrival plus picture size / RATE (R277), in units of 10 ns. -/
def earlier (s : State) (a b : Nat) : Bool :=
  let size := fun (k : Nat) => cdW (getSes s k).open_ * cdH (getSes s k).open_ * 100000000
  let rate := fun (k : Nat) => field (getSes s k).open_ 8 4
  decide (size a * rate b + sesAge s b * rate a * rate b < size b * rate a + sesAge s a * rate a * rate b)

/-- Whether a session's picture is the next of its direction (R277). -/
def sesNext (s : State) (k : Nat) : Bool := (sesOpen s (decide (32 ≤ k))).all fun j => j == k || !sesReady s j || !earlier s j k

/-! ### Pictures -/

/-- One access unit of an encoder: which picture it codes, its bytes and where they go (R274, R276, R278). The buffer is the one that
the output queue's next slot names (assumption 46). -/
def encodeDone (k bytes : Nat) (s : State) : State :=
  let t := getSes s k
  let c := t.open_
  let q := cdOut c
  let i := Config.encNext (c.take 12 ++ c.drop 36) t.count % max 1 t.work.length
  let r := t.work.getD i []
  let img := r.take 32
  if t.work.isEmpty || !canPush s q then s
  else
    let px := getImage (sesIni k) img 0 (field img 8 2) 0 (field img 10 2) s
    if px.2.1 ≠ stOK then stopSes k px.2.1 px.1
    else
      let s := px.1
      let period := field c 48 2
      let idr := decide (t.count = 0) || bitOf (field r 40 1) 0 || (decide (period ≠ 0) && decide (period ≤ t.sinceIdr))
      let fed := t.fed ++ [(px.2.2.1.flatten ++ px.2.2.2.flatten, idr)]
      let slot := memRead s ((getQ s q).slotAddr (getQ s q).tail) 32
      let space := field slot 8 4
      let n := min bytes space
      let w := busWrite (sesIni k) (field slot 0 6) ((List.range n).map (Config.encByte (runSlot s).release (c.take 12 ++ c.drop 36) fed)) s
      if w.2 ≠ stOK then stopSes k w.2 w.1
      else
        let cut := decide (space < bytes)
        let s := if cut then event (0x5000 + k) 0x8009 (ownerOf t.owner) (leBytes 1 k ++ leBytes 4 bytes) w.1 else w.1
        let s := modSes s k fun x => { x with
          sinceIdr := if idr then 0 else x.sinceIdr + 1, count := x.count + 1, fed := fed, work := x.work.eraseIdx i, due := x.due.eraseIdx i }
        pushEntry q (bitRec (field slot 0 6) n (b2n (bitOf (field r 40 1) 1) + 4 * b2n idr + 8 * b2n cut) (field r 32 8) (field r 48 8)) s

/-- A stream outside its session's CODEC_OPEN stops the session, with a last picture record (R278). -/
def outside (k : Nat) (s : State) : State :=
  let t := getSes s k
  let q := cdOut t.open_
  let r := (t.pieces.getLastD ([], [])).1
  if !cdTile t.open_ && !canPush s q then s
  else haltSes k stBAD_ARG (decodeError k 2 (field r 16 8) (if cdTile t.open_ then s else pushEntry q (picRec [] (field r 16 8) 6 (field r 24 8)) s))

/-- A picture of a decoder session is out: the next one is its next in display order. -/
def picOut (k : Nat) (s : State) : State := modSes s k fun x => { x with count := x.count + 1, tile := 0 }

/-- One picture of a decoder, in display order (R276, R278). -/
def decodeDone (k : Nat) (concealed : Bool) (s : State) : State :=
  let t := getSes s k
  let c := t.open_
  let q := cdOut c
  let r := (t.pieces.getD (Config.decPiece t.pieces t.count % max 1 t.pieces.length) ([], [])).1
  let pts := field r 16 8
  if picsLeft t = 0 then s
  else
    let s := if t.tile = 0 then modSes s k fun x => { x with errs := x.errs.take x.count ++ [concealed] } else s
    let said := fun (s : State) => if concealed then decodeError k 1 pts s else s
    if cdTile c then
      let s := pushTiles k (sesTiles c) s
      if (getSes s k).tile = sesTiles c then picOut k (said s) else s
    else
      let s := dropBad k (cdFree c) c (getQ s (cdFree c)).len s
      if !canPush s q || decide ((getQ s (cdFree c)).len = 0) then s
      else
        let img := (headEntry s (cdFree c)).take 32
        let t := getSes s k
        let w := putImage (sesIni k) img (field img 0 6) (field img 24 6) (cdH c) (fun _ => true) (sesSample t 0)
          (fun x y => sesSample t 1 x y ++ sesSample t 2 x y) (popEntry (cdFree c) s)
        if w.2 ≠ stOK then stopSes k w.2 w.1
        else
          let eos := bitOf (field r 12 1) 0 && decide (picsLeft t = 1)
          pushEntry q (picRec img pts (2 * b2n eos + 4 * b2n concealed) (field r 24 8)) (picOut k (said w.1))

/-- CODEC_PICTURE_DONE: a session whose picture is next by deadline takes the input it needs, and completes a picture or an access
unit (R276 to R278). -/
def execCodecPictureDone (session : Fin 64) (r : CodecResult) (s : State) : Res :=
  let k := session.val
  let t := getSes s k
  .next (
    if t.owner = 0 || decide (t.stopped ≠ 0) || !fabricUp s || blockOff s 6 k || s.boot.resetting.isSome || !sesNext s k then closeSesIfDone k s
    else if cdDec t.open_ then
      let s := takePieces k (getQ s (cdIn t.open_)).len s
      closeSesIfDone k (if r.kind.val = 2 then outside k s else decodeDone k (r.kind.val == 1) s)
    else closeSesIfDone k (encodeDone k r.bytes (takePics k 4 s)))

end Sys2Proof.Machine
end

