-- ==== Sys2Proof/Machine/Power.lean ====
section
/-! DEFINITION. Clocks, voltage, the power-state ladder, the hardware limits, alarms and block power (chapter 2, R365, R374
to R379, R413, R434, R492, R510). -/

namespace Sys2Proof.Machine

/-! ### The root PLL, current, power and temperature limits (R38, R45 to R47) -/

/-- PLL_UNLOCK: the Kettle and the Caddy go on from the crystal; FAULT_N is asserted and the Caddy freezes (R38). -/
def execPllUnlock (periods : BitVec 32) (s : State) : Res :=
  .next (if s.pw.pllLost || !s.pw.supplied || decide (s.pw.st = .rest) || decide (s.pw.st = .park) then s
    else
      let s := assertFaultN 2 (modPw s fun p => { p with pllLost := true })
      freezeMarker 2 (recoveryEst s) srcKeep
        (event srcKeep 0x7008 noParty (leBytes 4 periods.toNat) s))

/-- Event 0x7001. -/
def powerEvent (old new power cause : Nat) (s : State) : State :=
  event srcKeep 0x7001 noParty (leBytes 1 old ++ leBytes 1 new ++ leBytes 2 power ++ leBytes 1 cause) s

/-- FAST_CURRENT_LIMIT: the divider goes to /16 (R45). -/
def execFastCurrentLimit (s : State) : Res :=
  .next (if s.pw.fast || !clocked s then s
    else settleDiv (powerEvent (effDiv s) 16 0xFFFF 1 (modPw s fun p => { p with fast := true })))

/-- The fused power cap of the variant in W (Table 0.1). -/
def fusedCap (s : State) : Nat := if s.part.floor = 8 then 165 else if s.part.floor = 10 then 125 else 95
/-- The cap in force in 0.1 W (R46, R375). -/
def capDw (s : State) : Nat := 10 * (if s.pw.capW = 0 then fusedCap s else s.pw.capW)

/-- Moves power_step, never faster than the requested divider (R46). -/
def movePower (down : Bool) (dw : Nat) (s : State) : State :=
  let req := max s.part.floor (requestedDiv s)
  let base := max s.pw.powerStep req
  let new := max req (if down then stepDown base else stepUp base)
  if new = base then s else powerEvent base new (min dw 0xFFFE) 0 (modPw s fun p => { p with powerStep := new })

/-- POWER_LIMIT_WINDOW: a 1 ms window ends with its mean package power in 0.1 W (R45, R46). -/
def execPowerLimitWindow (deciwatts : Nat) (s : State) : Res :=
  .next (
    if !s.pw.supplied || decide (s.pw.st = .rest) || decide (s.pw.st = .park) then s
    else
      let s := if s.pw.fast then
          let t := modPw s fun p => { p with fast := false }
          powerEvent 16 (effDiv t) 0xFFFF 1 t
        else s
      let cap := capDw s
      settleDiv (
        if cap < deciwatts then movePower true deciwatts (modPw s fun p => { p with lowWindows := 0 })
        else if 100 * deciwatts < 95 * cap then
          if 9 ≤ s.pw.lowWindows then movePower false deciwatts (modPw s fun p => { p with lowWindows := 0 })
          else modPw s fun p => { p with lowWindows := p.lowWindows + 1 }
        else modPw s fun p => { p with lowWindows := 0 }))

/-- The throttle threshold in °C (R50, R375). -/
def throttleC (s : State) : Nat := if s.pw.throttleC = 0 then 115 else s.pw.throttleC

/-- Event 0x7002. -/
def thermalEvent (old new sensor : Nat) (deci : Int) (s : State) : State :=
  event srcKeep 0x7002 noParty (leBytes 1 old ++ leBytes 1 new ++ leBytes 1 sensor ++ leBytes 2 (codeOf 16 deci)) s

/-- What limits the clock apart from thermal_step. -/
def otherDiv (s : State) : Nat := max (max s.part.floor (requestedDiv s)) s.pw.powerStep

/-- thermal_step moves one step down, from its own value; a divider below the floor is none of the part's steps (R47, assumption
129). -/
def thermalDown (sensor : Nat) (deci : Int) (s : State) : State :=
  let old := max s.pw.thermalStep s.part.floor
  let new := stepDown old
  if new = old then s else thermalEvent old new sensor deci (modPw s fun p => { p with thermalStep := new })

/-- thermal_step moves one step back up, while it limits the clock (R47). -/
def thermalUp (sensor : Nat) (deci : Int) (s : State) : State :=
  let old := s.pw.thermalStep
  if old ≤ otherDiv s then s
  else thermalEvent old (stepUp old) sensor deci (modPw s fun p => { p with thermalStep := stepUp old })

/-- THERMAL_THROTTLE: the hottest sensor's reading in 0.1 °C, when it crosses a threshold and each time it has stayed there
(R47, R50). -/
def execThermalThrottle (sensor : Fin 28) (deci : Int) (s : State) : Res :=
  let hot := Int.ofNat (10 * throttleC s)
  .next (
    if !s.pw.supplied || decide (s.pw.st = .rest) || decide (s.pw.st = .park) then s
    else if hot ≤ deci then
      match s.pw.hotSince with
      | some t => if ktSince s t < 100000 then s
          else settleDiv (thermalDown sensor.val deci (modPw s fun p => { p with hotSince := some s.ktime }))
      | none => settleDiv (thermalDown sensor.val deci (modPw s fun p => { p with hotSince := some s.ktime, coolSince := none }))
    else if deci < hot - 50 then
      match s.pw.coolSince with
      | none => modPw s fun p => { p with hotSince := none, coolSince := some s.ktime }
      | some t => if ktSince s t < 1000000 then s
          else settleDiv (thermalUp sensor.val deci (modPw s fun p => { p with hotSince := none, coolSince := some s.ktime }))
    else modPw s fun p => { p with hotSince := none, coolSince := none })

/-! ### Voltage (R41, R44) -/

/-- VOLTAGE_TRIM_CYCLE: the Kettle asks for `mv`, with the calibration's offset for the step in force; a request outside
0.65 to 0.85 V is clamped (R44, Table 12.11). -/
def execVoltageTrimCycle (mv : Nat) (s : State) : Res :=
  let off := (s.pw.trim.getD (tclkSteps.idxOf s.pw.div) 0) * 5
  let ask := (Int.ofNat mv + off).toNat
  let got := max 650 (min 850 (ask / 5 * 5))
  .next (
    if !clocked s then s
    else
      let s := modPw s fun p => { p with vddTarget := got }
      if ask < 650 ∨ 850 < ask then event srcAfzan 0x7009 noParty (leBytes 2 (min ask 65535) ++ leBytes 2 got) s else s)

/-- VDD_LEAF_REACHES_SETTING: after Hush the leaf clocks restart at /16; a faster divider that waited takes effect (R41, R44). -/
def execVddLeafReachesSetting (s : State) : Res :=
  .next (
    if !s.pw.supplied then s
    else
      let s := modPw s fun p => { p with vdd := p.vddTarget }
      if s.pw.vddWait && decide (s.pw.st ≠ .hush) then settleDiv (modPw s fun p => { p with div := 16, divNext := 0, vddWait := false })
      else if s.pw.divNext = 0 || decide (s.pw.st ≠ .run) then s
      else settleDiv (modPw s fun p => { p with div := p.divNext, divNext := 0 }))

/-! ### Going down the ladder (R48, R53 to R56) -/

/-- Code of a power state in events (R374). -/
def pCode (x : PState) : Nat := match x with | .run => 0 | .hush => 1 | .doze => 2 | .rest => 3 | .park => 4

/-- Event 0x7005. -/
def enterEvent (new voter : Nat) (s : State) : State :=
  event srcAfzan 0x7005 noParty (leBytes 1 (pCode s.pw.st) ++ leBytes 1 new ++ leBytes 1 voter) s

/-- Kept buffers in place on an estate are lost (R161). -/
def loseInPlace (s : State) (e : Nat) : State :=
  let s := match inPlace s e with
    | none => s
    | some (p, h) =>
      let home := homeOf s e p
      match keptOf s home p h (getEst s e).leaves.length with
      | some k => if k.data.isEmpty then loseKept home p h (getEst s e).leaves.length s else s
      | none => s
  modEst s e fun x => { x with last := (0, 0, 0), switchBack := false, lentBy := none, test := { x.test with running := false } }

/-- The estates are power-gated: scratchpads are lost, leaf by leaf (R53, R96). -/
def gateLeaves (s : State) : State :=
  let s := (estates s).foldl loseInPlace s
  leafIdx.foldl (fun s l => match (getLeaf s l).kind with
    | .enabled => leafWipe l s
    | .spare => leafWipe l s
    | _ => s) s

/-- Every running job ends ABORTED with NO_RESOURCE, and none is replayed; the second part counts them (R48). -/
def abortAll (s : State) : State × Nat :=
  (estates s).foldl (fun (a : State × Nat) e =>
    let a := match (getEst a.1 e).replay with
      | some _ => (dropReplay e stABORTED stNO_RESOURCE a.1, a.2 + 1)
      | none => a
    match jobOf a.1 e with
    | none => a
    | some _ => if (getEst a.1 e).halted then a else (abortJob e stNO_RESOURCE a.1, a.2 + 1)) (s, 0)

/-- Pipes stop scan-out and drive their links idle; a PIPE_STOP that waited is answered (R48). -/
def pipesIdle (s : State) : State :=
  (List.range 6).foldl (fun s p =>
    let x := getPipe s p
    match x.stop with
    | some (flags, d) => finish d ok (pipeIdle p flags s)
    | none => if x.scan then pipeIdle p 0 s else dropTraining p s) s

/-- The estates are gated, and the part is in Doze (R48, R53). -/
def dozeNow (voter : Nat) (s : State) : State :=
  let s := gateLeaves s
  if s.pw.st = .doze then s else leaveTo .doze (enterEvent 2 voter s)

/-- The hardware Doze begins (R48): jobs end, pipes go idle, event 0x7003 is written and the Caddy is flushed. The estates are gated
when the flush has ended. -/
def hardDoze (voter sensor reading : Nat) (s : State) : State :=
  let a := abortAll s
  let s := pipesIdle a.1
  let s := flushNow (event srcKeep 0x7003 noParty (leBytes 1 sensor ++ leBytes 2 reading ++ leBytes 2 a.2) s)
  settle (modPw s fun p => { p with parking := 0, woken := none, dozing := voter + 1 })

/-- Whether the part is in Run, Hush or Doze with its core die running. -/
def awake (s : State) : Bool := s.pw.supplied && s.boot.ready && decide (s.pw.st ≠ .rest) && decide (s.pw.st ≠ .park)

/-- THERMAL_DOZE: 125 °C or more, whatever the votes (R48). -/
def execThermalDoze (sensor : Fin 28) (deci : Int) (s : State) : Res :=
  .next (if deci < 1250 || s.pw.thermalDoze || !awake s then s
    else hardDoze 0xFF sensor.val (codeOf 16 deci) (modPw s fun p => { p with thermalDoze := true }))

/-- THERMAL_DOZE_EXIT: 1 s at or below 105 °C; thermal_step stands at /16 (R48). A Doze that GX forces goes on. -/
def execThermalDozeExit (deci : Int) (s : State) : Res :=
  .next (if !s.pw.thermalDoze || decide (1050 < deci) || decide (s.pw.dozing ≠ 0) then s
    else
      let old := s.pw.thermalStep
      let d := draw s
      let s := if old = 16 then s else thermalEvent old 16 (Config.freeNat d.1 % 28) deci d.2
      let s := settleDiv (modPw s fun p => { p with thermalDoze := false, thermalStep := 16, hotSince := none, coolSince := some s.ktime })
      if s.pw.forced then s else exitEvent 2 (leaveTo .run s))

/-- GX forces Doze (R374); the sensor and the reading of event 0x7003 are free values. -/
def forceDoze (s : State) : State :=
  if s.pw.forced || !awake s then s
  else
    let d := draw s
    let e := draw d.2
    hardDoze 0x11 (Config.freeNat d.1 % 28) (Config.freeNat e.1 % 65536) (modPw e.2 fun p => { p with forced := true })

/-- The forced Doze ends; GS gets a notice after the exit, whose form the spec does not give (R434, assumption 47). Where its flush
still runs, the estates are not gated (R58). -/
def releaseDoze (s : State) : State :=
  if !s.pw.forced then s
  else
    let s := modPw s fun p => { p with forced := false }
    if s.pw.thermalDoze then s
    else
      let d := draw (exitEvent 2 (leaveTo .run (modPw s fun p => { p with dozing := 0 })))
      pushNotice 16 (noticeRec 0 (Config.freeNat d.1) stOK 0 0 0) d.2

/-- Whether a party holds resources: its grant names any (R54). -/
def holds (s : State) (p : Nat) : Bool :=
  let g := (getParty s p).grant
  decide (g.leaves ≠ 0) || decide (g.cg ≠ 0) || decide (g.estates ≠ 0) || decide (g.ways ≠ 0) || decide (g.ranges ≠ 0) || !g.qblocks.isEmpty || !g.dram.isEmpty

/-- A party's vote in force: Run until it votes, and Doze at most until it has saved (R54, R55, R374). -/
def voteOf (s : State) (p : Nat) : Nat :=
  let t := getParty s p
  if !t.voted then 0 else if 2 < t.vote && !t.saved then 2 else t.vote

/-- The state all votes allow, and the voter that decides: the lowest-numbered of those with the shallowest vote; Run where no
party holds resources (R54, assumption 48). -/
def voteLevel (s : State) : Nat × Nat :=
  match (List.range 17).filter (holds s) with
  | [] => (0, 0xFF)
  | p :: ps => ps.foldl (fun (a : Nat × Nat) q => if voteOf s q < a.1 then (voteOf s q, q) else a) (voteOf s p, p)

/-- Sources that the Kettle enables for a wake from Rest or Park: what the parties have configured as wake sources, a timer
that is set, and what is enabled already (assumption 49). -/
def wakeSources (s : State) : Nat :=
  let ins := ((List.range 8).map fun i => if (tget s.field.ch (3 * 256 + i)).owner ≠ 0 then 2 ^ i else 0).sum
  let can := ((List.range 8).map fun i => if (getCan s i).owner ≠ 0 ∧ canWake (getCan s i).conf then 2 ^ (8 + i) else 0).sum
  let usb := ((List.range 4).map fun i => if (tget s.field.usbc i).role ≠ 0 then 2 ^ (16 + i) else 0).sum
  let sw := if (List.range 48).any fun i => decide ((tget s.field.ch i).owner ≠ 0) && bitOf (field (tget s.field.ch i).conf 0 1) 3 then 2 ^ 20 else 0
  let tm := if s.field.timer ≠ 0 then 2 ^ 21 else 0
  s.field.wakeEn ||| (ins + can + usb + sw + tm)

/-- What Rest and Park lose of the core die (R53, R55, R296): the cache is written back, streams and the fusion engine are
closed, links go down. The Kettle restores bindings and block state at the exit (assumption 50). -/
def restDown (s : State) : State :=
  let s := pipesIdle (closeAllFus (closeAllStr (cleanLines (fun _ _ => true) true s)))
  let s := gateLeaves s
  { s with
    mem := { s.mem with plru := [], snoop := [] }
    cross := { s.cross with port := tmap (fun (p : PciePort) => { p with up := false }) s.cross.port }
    gw := { s.gw with port := s.gw.port.map fun x => (x.1, { x.2 with up := false }) }
    boot := { s.boot with linkUp := s.boot.linkUp.filter fun e => decide (e.1 < 8) || decide (e.1 = 19) } }

/-- The Park defaults of the field die (R492). -/
def fieldDefaults (s : State) : State :=
  let s := { s with gw := { s.gw with can := (tmap (fun (c : CanCtl) => if c.owner = 0 then c else { c with standby := true }) (s.gw.can.filter (fun e => decide (e.1 < 8)))) ++
    (s.gw.can.filter (fun e => decide (8 ≤ e.1))) } }
  modField s fun f => { f with
    ch := (f.ch.map fun x => (x.1, if x.1 / 256 = 2 then { x.2 with state := 0, retries := 0, waiting := false } else x.2)).filter fun x => decide (x.2 ≠ default)
    usbc := tmap (fun (u : UsbcPort) => { u with vbus := false, state := 0, mv := 0, ma := 0 }) f.usbc
    polled := f.switch }

/-- Field-die wake bits cleared, and the sources enabled, as Rest or Park begins. -/
def armWake (s : State) : State := modField s fun f => { f with wake := 0, wakeEn := wakeSources s }

/-- Kettle time from now to the earliest alarm with WAKE, in whole ms rounded up (R377). -/
def wakeAlarmMs (s : State) : Option Nat :=
  (List.range 17).foldl (fun (b : Option Nat) p =>
    let a := (getParty s p).alarm
    if !a.set || !a.wake then b
    else
      let ms := (a.time - s.ktime + 99999) / 100000
      match b with | none => some ms | some x => some (min x ms)) none

/-- Entry to Rest (R53, R55). -/
def restEntry (voter : Nat) (s : State) : State :=
  let s := armWake (restDown s)
  modPw (enterEvent 3 voter s) fun p => { p with st := .rest, hotSince := none, coolSince := none }

/-- Entry to Park begins: STATE_ENTER, then the Caddy's flush (R55). -/
def parkBegin (voter : Nat) (s : State) : State :=
  flushNow (modPw (enterEvent 4 voter s) fun p => { p with parking := voter + 1, woken := none })

/-- Entry to Park after the flush: the Kettle's time and timer go to the field die, which logs CODE 7 and goes to its Park
defaults; DRAM outside the retained range is lost (R56, R59, R377, R492, R494). -/
def parkEntry (s : State) : State :=
  let s := restDown s
  let s := modField s fun f => { f with
    ksave := s.ktime, parktime := 0, timer := (wakeAlarmMs s).getD f.timer % 2 ^ 32, park := true, linkUp := false, resends := (0, 0) }
  let s := fieldDefaults (fieldLog 7 0 (armWake s))
  let s := dramLost true (modBoot s fun b => { b with linkUp := b.linkUp.filter fun e => decide (e.1 < 8) })
  modPw { s with safe := { s.safe with gxPages := [] } } fun p => { p with st := .park, supplied := false, parking := 0, hotSince := none, coolSince := none }

/-- The Kettle enters the state that the votes allow, where no work is queued or running (R54). -/
def enterByVotes (s : State) : State :=
  let v := voteLevel s
  if !awake s || s.pw.thermalDoze || s.pw.forced || anyWork s || decide (s.firm.act ≠ .none) || decide (s.pw.parking ≠ 0) || decide (s.pw.dozing ≠ 0) ||
      decide (v.1 < 2) || decide (v.1 ≤ pCode s.pw.st) then s
  else if v.1 = 2 then dozeNow v.2 s
  else if v.1 = 3 then restEntry v.2 s
  else parkBegin v.2 s

/-- Whether a message of this sender was taken between two states. -/
def taken (p : Nat) (s t : State) : Bool := (getParty s p).rung && !(getParty t p).rung

/-- A Park entry stops after its flush: the source's event, and the part is back in Run (R58). Work or a message that the Kettle
finds itself is class 0, of no party. -/
def parkStop (s : State) : State :=
  let w := s.pw.woken.getD (0, 0xFF)
  let s := event srcKeep 0x7007 noParty (leBytes 1 w.1 ++ leBytes 2 w.2) s
  exitEvent 4 (leaveTo .run (modPw s fun p => { p with parking := 0, woken := none }))

/-- IMMEDIATE_FLUSH_DONE: the records are in flash, CADDY_FLUSH answers OK, a hardware Doze gates the estates, and a Park entry goes
on, unless a wake source, work or a message came meanwhile or a vote no longer allows Park (R48, R54, R58, R519, R521). -/
def execImmediateFlushDone (s : State) : Res :=
  .next (
    if !s.caddy.flushing then s
    else
      let s := flushCaddy s
      let ds := s.caddy.flushPend
      let s := { s with caddy := { s.caddy with flushing := false, flushPend := [] } }
      let s := finishAll ds (okWith (caddyStatus s)) (if ds.isEmpty then s else caddyRead s)
      if s.pw.dozing ≠ 0 then settle (dozeNow (s.pw.dozing - 1) (modPw s fun p => { p with dozing := 0 }))
      else if s.pw.parking = 0 then s
      else if s.pw.woken.isSome || anyWork s || decide ((voteLevel s).1 < 4) || (List.range 18).any fun p => (getParty s p).rung then parkStop s
      else parkEntry s)

/-- HUSH_ENTRY: no estate has had work for 1 ms. Where the votes allow a deeper state the Kettle enters that (R54). -/
def execHushEntry (s : State) : Res :=
  .next (
    if !awake s || decide (s.pw.st ≠ .run) || anyWork s || s.pw.pllLost || decide (s.firm.act ≠ .none) || decide (s.pw.parking ≠ 0) ||
        decide (s.pw.dozing ≠ 0) || s.boot.resetting.isSome || decide (ktSince s s.jobs.idleSince < 100000) then s
    else if 2 ≤ (voteLevel s).1 then enterByVotes s
    else modPw (enterEvent 1 0xFF s) fun p => { p with st := .hush, vdd := 550, vddTarget := 550, divNext := 0 })

/-! ### Coming back (R57 to R59, R379, R413, R510) -/

/-- Each estate's self-test cycle starts afresh (R413). -/
def freshCycles (s : State) : State :=
  (estates s).foldl (fun s e => modEst s e fun x => { x with test := { x.test with next := 0, running := false, cycleAt := s.ktime, overdue := false } }) s

/-- The ports and the leaf clock as the supplies come up: the floor divider at its voltage, then the divider in force (R300, R528). -/
def clockUp (s : State) : State :=
  let s := portsUp s
  settleDiv (modPw s fun p => { p with st := .run, div := s.part.floor, divNext := 0, vddWait := false, vdd := fusedMv s.part.floor, vddTarget := fusedMv s.part.floor })

/-- Exit from Rest (Table 2.5). -/
def restExit (cls inst : Nat) (s : State) : State :=
  let s := event srcKeep 0x7007 noParty (leBytes 1 cls ++ leBytes 2 inst) s
  let s := releaseHarts (fun _ => true) 2 (freshCycles (inject [1, 7] s))
  exitEvent 3 (clockUp { s with jobs := { s.jobs with idleSince := s.ktime } })

/-- Whether the retained DRAM that holds Afzan's resume image reads without an uncorrectable error (R436, R510). -/
def resumeGood (s : State) : Bool := !(s.mem.lineErr.any fun e => decide (e.2 = 2) && decide (e.1 * 64 < 0x10000000))

/-- Exit from Park (Table 17.2): the Caddy's ring starts empty, Kettle time is rebuilt from the field die's counters, the
injections run, harts go to their resume vectors, and DRAM outside the retained range waits to be zeroed (R56, R59, R510,
R516). Where the resume image fails, a cold reset runs. The time in Park is a free value. -/
def parkExit (s : State) : State :=
  let b := wakeBit s
  let s := fieldLog 8 b s
  let d := draw s
  let pt := Config.freeNat d.1 % 2 ^ 64
  let s := modField d.2 fun f => { f with park := false, parktime := pt }
  let s := { (modPw s fun p => { p with supplied := true }) with ktime := (s.field.ksave + pt * 100000) % 2 ^ 64 }
  let s := bringupEvent 3 (caddyRestart s)
  let s := copyLogs (event srcKeep 0x7007 noParty (leBytes 1 8 ++ leBytes 2 b) s)
  if !resumeGood s then coldReset 0x7F (modPw s fun p => { p with st := .run })
  else
    let s := setUcode { s with lv := mapLeaves s, mem := { s.mem with unzeroed := true } }
    let s := releaseHarts (fun _ => true) 4 (freshCycles (inject allSteps s))
    let d := draw s
    let s := event srcAfzan 0xA031 noParty (leBytes 1 3 ++ leBytes 4 (Config.freeNat d.1) ++ leBytes 1 (leavesOf s .enabled).length ++
      leBytes 1 (spareCount s) ++ leBytes 1 0) d.2
    exitEvent 4 (clockUp { s with jobs := { s.jobs with idleSince := s.ktime } })

/-- A wake source of the field die fires: its bit of FLD_WAKE is set, and where it is enabled it ends Rest or Park (R492). -/
def fieldWake (bit : Nat) (s : State) : State :=
  let s := modField s fun f => { f with wake := f.wake ||| 2 ^ bit }
  if !bitOf s.field.wakeEn bit then s
  else if s.pw.st = .park then parkExit s
  else if s.pw.st = .rest then restExit 8 (wakeBit s) s
  else s

/-- A wake source named by class and instance of Table 2.8 acts in the states that Table 2.4 lists it for (R57, R58). -/
def wakeBy (cls inst : Nat) (s : State) : State :=
  match s.pw.st with
  | .rest => if cls = 8 then fieldWake (inst % 24) s else if cls = 9 ∨ cls = 2 then restExit cls inst s else s
  | .park => if cls = 8 then fieldWake (inst % 24) s else s
  | _ => wakeFrom (decide (cls ≠ 0)) cls inst s

/-- WAKE: a wake source fires and the part returns to Run (R57). -/
def execWake (cls : Fin 10) (inst : BitVec 16) (s : State) : Res := .next (wakeBy cls.val inst.toNat s)

/-- DRAM_ZEROING_DONE: the zeroing after a Park exit or a warm reset is complete, and grants that waited for it move on (R56). -/
def execDramZeroingDone (s : State) : Res :=
  .next (if s.mem.unzeroed && fabricUp s then settle { s with mem := { s.mem with unzeroed := false } } else s)

/-! ### The trip (R49) -/

/-- THERMAL_TRIP: 130 °C. THERM_TRIP_N goes low, the supplies fall, and the field die logs the trip frame, or an unexpected
loss where no frame reached it (R49). -/
def execThermalTrip (s : State) : Res :=
  .next (
    if !s.pw.supplied then s
    else
      let up := s.field.linkUp
      let s := coreOff 1 s
      fieldLog (if up then 4 else 5) 0 (modField (modPw s fun p => { p with trip := true }) fun f => { f with tripped := up }))

/-- TRIP_RESTART: 10 s later bring-up from Off starts, if a Park wake source is active (R49). -/
def execTripRestart (s : State) : Res :=
  .next (
    if s.boot.phase ≠ 1 ∨ s.field.wake &&& s.field.wakeEn = 0 then s
    else modBoot (modField (modPw s fun p => { p with trip := false }) fun f => { f with tripped := false }) fun b => { b with phase := 2, kind := 0 })

/-! ### Messages (R374 to R379) -/

/-- POWER_VOTE (R374). -/
def ownPowerVote : Own := fun m d s =>
  let st := fld m 0 1
  let flags := fld m 1 1
  let dv := fld m 2 1
  let force := bitOf flags 1
  checked [(0, decide (st = 1) || decide (4 < st)), (1, decide (4 ≤ flags)),
      (2, decide (dv ≠ 0) && (!tclkSteps.contains dv || decide (dv < s.part.floor))), (3, rsvBad m 3 5)] s
  (refusedBy [(force && decide (d.party ≠ 17), stDENIED)] s
    (let s := modParty s d.party fun t => { t with voted := true, vote := st, saved := bitOf flags 0, divider := if dv = 0 then t.divider else dv }
     let s := settleDiv s
     say ok (if d.party ≠ 17 then s else if force then forceDoze s else releaseDoze s)))

/-- POWER_VOTE records a vote; the state changes after the answer (R54, R374). -/
def execPowerVote (m : Msg) (s : State) : Res :=
  let t := serve 0x0300 isPartyGx (lenIs 8) ownPowerVote m s
  .next (if taken (pidx m.sender) s t then enterByVotes t else t)

/-- POWER_LIMIT_SET (R46, R50, R375). -/
def ownPowerLimitSet : Own := fun m _ s =>
  let w := fld m 0 2
  let c := fld m 2 1
  checked [(0, decide (w ≠ 0) && (decide (fusedCap s < w) || decide (2 * w < fusedCap s))), (2, decide (c ≠ 0) && (decide (c < 95) || decide (115 < c))),
      (3, rsvBad m 3 1)] s
    (say ok (modPw s fun p => { p with capW := w, throttleC := c }))

/-- POWER_LIMIT_SET tightens the limits. -/
def execPowerLimitSet (m : Msg) (s : State) : Res := .next (serve 0x0301 isGs (lenIs 4) ownPowerLimitSet m s)

/-- Whether an allocation lies in one channel group's retained range and outside the Kettle's (R56, R332). -/
def inKept (s : State) (a n : Nat) : Bool :=
  decide (a + n ≤ dramEnd s) && decide (a % cgBytes s + n ≤ 0x20000000) && decide (0x10000000 ≤ a)

/-- Entries of PARK_KEEP. -/
def keepList (m : Msg) : List Keep := (List.range (fld m 0 1)).map fun i => { addr := fld m (8 + 8 * i) 6, units := fld m (14 + 8 * i) 2 }

/-- 2 MiB units of the retained ranges that other parties keep. -/
def keptUnits (s : State) (p : Nat) : Nat :=
  (((List.range 17).filter fun q => decide (q ≠ p)).map fun q => ((getParty s q).keep.map (·.units)).sum).sum

/-- PARK_KEEP (R376). -/
def ownParkKeep : Own := fun m d s =>
  let ks := keepList m
  let need := keptUnits s d.party + (ks.map (·.units)).sum
  checked ([(0, decide (16 < fld m 0 1)), (1, rsvBad m 1 7)] ++ (List.range ks.length).map fun i => (8 + 8 * i, decide ((ks.getD i {}).addr % 0x200000 ≠ 0))) s
  (refusedBy [(ks.any fun k => !inReq s d.party k.addr (k.units * 0x200000) || !inKept s k.addr (k.units * 0x200000), stDENIED)] s
    (if 1920 < need then say (noRes (need - 1920)) s else say ok (modParty s d.party fun t => { t with keep := ks })))

/-- PARK_KEEP replaces the sender's list. -/
def execParkKeep (m : Msg) (s : State) : Res :=
  .next (serve 0x0302 isParty (fun m => decide (8 ≤ m.length.toNat) && (decide (m.length.toNat = 8 + 8 * fld m 0 1) || decide (16 < fld m 0 1)))
    ownParkKeep m s)

/-- ALARM_SET (R377). -/
def ownAlarmSet : Own := fun m d s =>
  let time := fld m 0 8
  let a : Alarm := if time = 0 then {} else { set := true, time := time, wake := bitOf (fld m 8 1) 0, tag := d.tag }
  checked [(8, decide (2 ≤ fld m 8 1)), (9, rsvBad m 9 7)] s
  (refusedBy [(!(getParty s d.party).noticeOn, stNOT_READY)] s
    (let s := modParty s d.party fun t => { t with alarm := a }
     say ok (if time ≠ 0 ∧ time ≤ s.ktime then fireAlarm d.party s else s)))

/-- ALARM_SET sets, replaces or cancels the sender's alarm. -/
def execAlarmSet (m : Msg) (s : State) : Res := .next (serve 0x0303 isParty (lenIs 16) ownAlarmSet m s)

/-- ALARM_FIRE: Kettle time reaches an alarm. In Doze or deeper only one with WAKE acts: it wakes the part, and the notice
follows (R377). One without WAKE leaves Hush by its notice's interrupt, which is class 0 of Table 2.8 (DESIGN CHOICE, assumption
114). -/
def execAlarmFire (party : Party) (s : State) : Res :=
  let p := pidx party
  let a := (getParty s p).alarm
  .next (
    if !a.set || decide (s.ktime < a.time) || !s.pw.supplied then s
    else
      let s := if a.wake then wakeBy 2 p s else wakeFrom false 0 p s
      if (getParty s p).alarm.set && (decide (s.pw.st = .run) || decide (s.pw.st = .hush)) then fireAlarm p s else s)

/-- Whether a kind and an instance name a block (R378). -/
def blockRange (kind inst : Nat) : Bool :=
  decide (inst < match kind with | 1 => 4 | 4 => 6 | 5 => 16 | 6 => 64 | 7 => 4 | 9 => 14 | 10 => 12 | _ => 0)

/-- Party + 1 that holds a block; for a cluster GS or NW_PARTY (R378). -/
def blockOwner (s : State) (kind inst : Nat) : Nat :=
  match kind with
  | 1 => if bitOf s.world.clusters inst then 17 else s.world.nwParty + 1
  | 4 => (getPipe s inst).owner
  | 5 => (getStr s inst).owner
  | 6 => (getSes s inst).owner
  | 7 => rcvOwner s inst
  | 9 => (getUnit s inst).owner
  | _ => (getCan s inst).owner

/-- Kinds that GS's binding makes secure-held (Table 2.6). -/
def heldKind (kind : Nat) : Bool := kind == 1 || kind == 4 || kind == 5 || kind == 6 || kind == 7

/-- Event 0x4003: a secure-held block ignores a request (R27, R433). A request to run has no code there, and is a free value. -/
def secureHeld (kind inst req code : Nat) (s : State) : State :=
  event srcAfzan 0x4003 req (leBytes 1 kind ++ leBytes 2 inst ++ leBytes 1 req ++ leBytes 1 code) s

/-- Power off closes the block as its own close message would, with work in flight ending ABORTED (R378). -/
def blockClose (kind inst : Nat) (s : State) : State :=
  match kind with
  | 4 => match (getPipe s inst).stop with
    | some (_, d) => finish d ok (pipeIdle inst 2 s)
    | none => pipeIdle inst 2 s
  | 5 => finishAll (getStr s inst).closing ok (closeStr inst s)
  | 6 => haltSes inst (max 1 (getSes s inst).stopped) s
  | 7 => (List.range 4).foldl (fun s v => let k := inst * 4 + v; finishAll (getStr s k).closing ok (closeStr k s)) s
  | 9 => ioAbort inst stABORTED (fun _ => true) s
  | 10 => closeCan inst s
  | _ => s

/-- BLOCK_POWER (R27, R378).
The order of its answers: DESIGN CHOICE, assumption 117. -/
def ownBlockPower : Own := fun m d s =>
  let kind := fld m 0 1
  let inst := fld m 1 2
  let r := fld m 3 1
  let o := blockOwner s kind inst
  let mark := fun (s : State) (v : Nat) => modPw s fun p => { p with blocks := tput p.blocks (kind * 65536 + inst) v }
  checked [(0, !(kind == 1 || (decide (4 ≤ kind) && decide (kind ≤ 7)) || kind == 9 || kind == 10)), (1, !blockRange kind inst)] s
  (if o ≠ d.party + 1 then
     let f := draw s
     say (sts stDENIED) (if o = 17 ∧ heldKind kind then
         secureHeld kind inst d.party (if r = 2 then 0 else if r = 1 then 1 else Config.freeNat f.1) f.2 else s)
   else refusedBy [(kind == 1 && decide (r ≠ 0) && !bitOf s.world.stopped inst, stBUSY)] s
     (checked [(3, decide (3 ≤ r)), (4, rsvBad m 4 4)] s
       (say ok (if r = 1 then mark s 1
         else if r = 0 then mark s 0
         else if kind = 1 then mark s 2
         else if kind = 7 then mark (blockClose kind inst s) 2
         else
           let s := mark (blockClose kind inst s) 0
           if kind = 6 then closeSes inst s else if kind = 9 then modUnit s inst fun _ => {} else s))))

/-- BLOCK_POWER runs, stops or powers off one block. -/
def execBlockPower (m : Msg) (s : State) : Res := .next (serve 0x0304 isParty (lenIs 8) ownBlockPower m s)

/-- RESUME_SET (R379).
The order of its answers: DESIGN CHOICE, assumption 117. -/
def ownResumeSet : Own := fun m d s =>
  let w := fld m 0 1
  let v := fld m 8 8
  let swm := s.world.swm * 0x4000000
  let okV := if w = 1 then decide (v < swm) && inReq s 16 v 4 else decide (swm ≤ v) && decide (v + 4 ≤ dramEnd s) && !inGrant s 16 v 4
  refusedBy [(decide (d.party ≠ 16) && decide (d.party ≠ s.world.nwParty), stDENIED)] s
  (checked [(0, decide (2 ≤ w)), (1, rsvBad m 1 7), (8, decide (v % 4 ≠ 0))] s
  (refusedBy [(decide (d.party ≠ if w = 1 then 16 else s.world.nwParty), stDENIED), (decide (v ≠ 0) && !okV, stDENIED)] s
    (say ok (modPw s fun p => if w = 1 then { p with resumeS := v } else { p with resumeN := v }))))

/-- RESUME_SET registers a world's resume vector. -/
def execResumeSet (m : Msg) (s : State) : Res := .next (serve 0x0305 isParty (lenIs 16) ownResumeSet m s)

end Sys2Proof.Machine
end

