-- ==== Sys2Proof/Machine/Field.lean ====
section
/-! DEFINITION. The field die: channels, harness faults, USB Type-C ports, VBAT, the field control link, and the service and
safety SPI ports (R17, R365, R471, R481 to R494). -/

namespace Sys2Proof.Machine

/-! ### Channels and reports -/

/-- A field channel's key. -/
def chKey (kind ch : Nat) : Nat := kind * 256 + ch
/-- A field channel. -/
def getCh (s : State) (kind ch : Nat) : FieldCh := tget s.field.ch (chKey kind ch)
/-- Changes a field channel. -/
def modCh (s : State) (kind ch : Nat) (f : FieldCh → FieldCh) : State := modField s fun x => { x with ch := tmod x.ch (chKey kind ch) f }
/-- A USB Type-C port. -/
def getUc (s : State) (p : Nat) : UsbcPort := tget s.field.usbc p
/-- Changes a USB Type-C port. -/
def modUc (s : State) (p : Nat) (f : UsbcPort → UsbcPort) : State := modField s fun x => { x with usbc := tmod x.usbc p f }

/-- The field die has power: VBAT at 4.5 V or more (Table 16.11). -/
def fieldPowered (s : State) : Bool := decide (450 ≤ s.field.vbat)
/-- The field die's inputs and outputs are not at the Park defaults (R17, R492). -/
def fieldRuns (s : State) : Bool := fieldPowered s && !s.field.park && (s.field.linkUp || s.field.holding)
/-- The Kettle hears the field die over the field control link. -/
def fieldHeard (s : State) : Bool :=
  s.field.linkUp && s.pw.supplied && !s.boot.held && decide (s.pw.st ≠ .rest) && decide (s.pw.st ≠ .park)
/-- The party that a channel or port is bound to, as an event names it. -/
def ownerParty (o : Nat) : Nat := if o = 0 then noParty else ownerOf o

/-- Pushes a record of Table 16.9 to an EVENT_QUEUE (R486). It wakes a Doze entered by votes (Table 2.4). A full queue drops
the record. -/
def fieldRecord (evq kind ch code state fault value : Nat) (s : State) : State :=
  if !fieldHeard s then s
  else
    let s := wakeFrom true 6 (kind * 256 + ch) (modField s fun f => { f with resends := (0, f.resends.2) })
    if evq = 0 ∨ !fabricUp s ∨ !canPush s (evq - 1) then s
    else pushEntry (evq - 1) (leBytes 8 s.ktime ++ leBytes 1 kind ++ leBytes 1 ch ++ leBytes 1 code ++ leBytes 1 state ++
      leBytes 2 fault ++ leBytes 2 0 ++ leBytes 4 value ++ leBytes 12 0) s

/-- The record of a channel as it stands. -/
def chRecord (kind ch code fault : Nat) (s : State) : State :=
  let c := getCh s kind ch
  fieldRecord c.evq kind ch code c.state fault c.value s

/-- Event 0x6002. -/
def harnessFault (kind ch fault : Nat) (latched : Bool) (value party : Nat) (s : State) : State :=
  if !fieldHeard s then s
  else event srcField 0x6002 party (leBytes 1 kind ++ leBytes 1 ch ++ leBytes 2 fault ++ leBytes 1 (b2n latched) ++ leBytes 4 value) s
/-- Event 0x6003. -/
def harnessClear (kind ch fault party : Nat) (s : State) : State :=
  if !fieldHeard s then s else event srcField 0x6003 party (leBytes 1 kind ++ leBytes 1 ch ++ leBytes 2 fault) s

/-- Sets a bit of FLD_FAULT. -/
def fldFault (bit : Nat) (s : State) : State := modField s fun f => { f with fault := f.fault ||| 2 ^ bit }

/-- A channel's fault is found: once, with its record and event (R487). -/
def chFault (kind ch fault : Nat) (latched : Bool) (s : State) : State :=
  let s := modCh s kind ch fun c => { c with fault := fault }
  let s := if kind = 2 then fldFault ch s else s
  let c := getCh s kind ch
  harnessFault kind ch fault latched c.value (ownerParty c.owner) (chRecord kind ch 1 fault s)

/-- A channel's fault clears: a record of CODE 2 and event 0x6003. -/
def chClear (kind ch : Nat) (s : State) : State :=
  let c := getCh s kind ch
  if c.fault = 0 then s
  else
    let s := modCh s kind ch fun c => { c with fault := 0 }
    harnessClear kind ch c.fault (ownerParty c.owner) (chRecord kind ch 2 c.fault s)

/-- A new STATE, with its record. -/
def chState (kind ch st : Nat) (s : State) : State :=
  if (getCh s kind ch).state = st then s
  else
    let s := modCh s kind ch fun c => { c with state := st }
    chRecord kind ch 0 (getCh s kind ch).fault s

/-- A byte of a channel's CONFIG. -/
def chByte (c : FieldCh) (i : Nat) : Nat := field c.conf i 1

/-! ### Switch, touch, wake and analog inputs -/

/-- The pair that a switch input belongs to: its even channel, where PAIR is set. -/
def pairBase (s : State) (ch : Nat) : Option Nat :=
  let e := ch / 2 * 2
  if bitOf (chByte (getCh s 0 e) 0) 4 then some e else none

/-- SWITCH_INPUT_CHANGE (R482): a debounced input changes. A pair whose contacts differ again ends PAIR_IMPLAUSIBLE. -/
def execSwitchInputChange (ch : Fin 48) (closed : Bool) (s : State) : Res :=
  let c := ch.val
  let was := bitOf s.field.switch c
  .next (
    if !fieldRuns s ∨ was = closed then s
    else
      let s := modField s fun f => { f with switch := f.switch ^^^ 2 ^ c }
      if (getCh s 0 c).owner = 0 then s
      else
        let s := if bitOf (chByte (getCh s 0 c) 0) 3 then fieldWake 20 s else s
        let s := chState 0 c (b2n closed) s
        match pairBase s c with
        | some e => if (getCh s 0 e).fault = 7 ∧ bitOf s.field.switch e ≠ bitOf s.field.switch (e + 1) then chClear 0 e s else s
        | none => s)

/-- PAIR_IMPLAUSIBLE (R482): both contacts open, or both closed, for 100 ms. -/
def execPairImplausible (ch : Fin 48) (s : State) : Res :=
  let c := ch.val
  .next (if fieldRuns s && decide (pairBase s c = some c) && decide ((getCh s 0 c).owner ≠ 0) && decide ((getCh s 0 c).fault ≠ 7) &&
      (bitOf s.field.switch c == bitOf s.field.switch (c + 1)) then chFault 0 c 7 false s else s)

/-- A calibration table in force; with none loaded its bytes are free values (R485, assumption 5). -/
def calTable (kind n : Nat) (s : State) : List Byte × State :=
  let t := tget s.firm.cal kind
  if t.length = n then (t, s) else freeBytes n s

/-- TOUCH_SCAN (R483): the count against the channel's baseline, which starts from calibration KIND 3 and drifts by one count
a second while the channel is not touched. A touch raises the count by the threshold, and ends below threshold less hysteresis
(assumption 52). -/
def execTouchScan (ch : Fin 16) (count : Nat) (s : State) : Res :=
  let c := ch.val
  let x := getCh s 1 c
  .next (
    if !fieldRuns s ∨ x.owner = 0 then s
    else
      let t := calTable 3 128 s
      let s := t.2
      let base := if x.base = 0 then field t.1 (8 * c) 2 * 1000 else x.base - 1
      let thr := field t.1 (8 * c + 2) 2
      let hys := field t.1 (8 * c + 4) 2
      let delta : Int := Int.ofNat count - Int.ofNat (base / 1000)
      let now := if x.state = 1 then decide (Int.ofNat thr - Int.ofNat hys ≤ delta) else decide (Int.ofNat thr ≤ delta)
      let period := chByte x 0
      let drift := if x.state = 1 then base
        else if base < count * 1000 then min (count * 1000) (base + period) else max (count * 1000) (base - period)
      let flips := decide (b2n now ≠ x.state)
      let n := if flips then x.scans + 1 else 0
      let done := flips && decide (chByte x 1 ≤ n)
      let s := modCh s 1 c fun x => { x with base := drift + 1, value := codeOf 32 delta, scans := if done then 0 else n }
      if done then chState 1 c (b2n now) s else s)

/-- ANALOG_SAMPLE (R485): raw × gain + offset of calibration KIND 2, in mV; the way it rounds to a whole mV, and a result
that does not fit, are free. A threshold crossing changes STATE; above 38 V is SHORT_TO_BATTERY (Table 16.10). -/
def execAnalogSample (ch : Fin 4) (raw : BitVec 12) (s : State) : Res :=
  let c := ch.val
  let x := getCh s 4 c
  .next (
    if !fieldRuns s ∨ x.owner = 0 then s
    else
      let t := calTable 2 32 s
      let d := freeNum t.2
      let s := d.2
      let gain := fp32.decode (field t.1 (8 * c) 4)
      let off := fp32.decode (field t.1 (8 * c + 4) 4)
      let x0 := FVal.add .rne (FVal.mul (.fin false raw.toNat 0) gain) off
      let r := toIntCode 32 (Rm.ofCode (d.1 % 4)) x0
      let v := if x0.isNan || r.2 then d.1 % 2 ^ 32 else r.1
      let mv := signedOf 32 v
      let s := modCh s 4 c fun x => { x with value := v }
      let s := chState 4 c (if mv < Int.ofNat (field x.conf 4 2) then 1 else if Int.ofNat (field x.conf 6 2) < mv then 2 else 0) s
      if 38000 < mv then (if x.fault = 1 then s else chFault 4 c 1 false s) else chClear 4 c s)

/-- WAKE_INPUT_EDGE (R492): a filtered edge of a configured kind fires the input's wake source. Table 16.9 gives a wake input
no STATE: it is a free value. -/
def execWakeInputEdge (ch : Fin 8) (rising : Bool) (s : State) : Res :=
  let c := ch.val
  let x := getCh s 3 c
  let e := chByte x 0 % 4
  .next (
    if !fieldPowered s ∨ x.conf = [] ∨ !(e == 2 || (e == 0) == rising) then s
    else
      let s := fieldWake c s
      if x.owner = 0 then s
      else
        let d := freeNum s
        chRecord 3 c 0 0 (modCh d.2 3 c fun x => { x with state := d.1 % 256 }))

/-- PARK_SWITCH_POLL (R492): in Park the switch inputs with WAKE are polled; a change is a wake source. -/
def execParkSwitchPoll (closed : BitVec 48) (s : State) : Res :=
  .next (
    if !fieldPowered s ∨ !s.field.park then s
    else
      let on := fun (i : Nat) => bitOf (chByte (getCh s 0 i) 0) 3
      let bit := fun (i : Nat) => bitOf closed.toNat i
      let hit := (List.range 48).any fun i => on i && (bit i != bitOf s.field.polled i)
      let sw := ((List.range 48).map fun i => if (if on i then bit i else bitOf s.field.switch i) then 2 ^ i else 0).sum
      let s := modField s fun f => { f with switch := sw, polled := sw }
      let s := (List.range 48).foldl (fun s i => if on i then modCh s 0 i fun c => { c with state := b2n (bit i) } else s) s
      if hit then fieldWake 20 s else s)

/-- FIELD_TIMER_EXPIRY (R492): the Park wake timer. -/
def execFieldTimerExpiry (s : State) : Res :=
  .next (if !fieldPowered s ∨ !s.field.park ∨ s.field.timer = 0 then s else fieldWake 21 s)

/-! ### Lamps (R484) -/

/-- LAMP_TURN_OFF: the output turns off and waits 100 ms for a retry, or latches where no retry is left. A fault already in
force is not reported again until it latches (R487, worked example). -/
def execLampTurnOff (ch : Fin 12) (cause : LampCause) (ma : BitVec 32) (s : State) : Res :=
  let c := ch.val
  let x := getCh s 2 c
  let fault := match cause with | .overTemp => 4 | _ => 1
  .next (
    if !fieldRuns s ∨ x.state ≠ 1 then s
    else
      let latch := decide (x.retries = 0)
      let s := modCh s 2 c fun x => { x with state := if latch then 2 else 0, waiting := !latch, value := ma.toNat }
      if x.fault ≠ fault then chFault 2 c fault latch s
      else if latch then
        harnessFault 2 c fault true ma.toNat (ownerParty x.owner) (chRecord 2 c 0 fault s)
      else s)

/-- LAMP_RETRY: 100 ms after the turn-off the output is tried again. -/
def execLampRetry (ch : Fin 12) (s : State) : Res :=
  let c := ch.val
  .next (if !fieldRuns s ∨ !(getCh s 2 c).waiting then s
    else modCh s 2 c fun x => { x with state := 1, waiting := false, retries := x.retries - 1 })

/-- LAMP_OPEN_LOAD: an on-state current below 20 mA for 10 ms. A current of 20 mA or more ends an OPEN_LOAD. -/
def execLampOpenLoad (ch : Fin 12) (ma : BitVec 32) (s : State) : Res :=
  let c := ch.val
  .next (
    if !fieldRuns s ∨ (getCh s 2 c).state ≠ 1 then s
    else
      let s := modCh s 2 c fun x => { x with value := ma.toNat }
      if ma.toNat < 20 then (if (getCh s 2 c).fault = 3 then s else chFault 2 c 3 false s)
      else if (getCh s 2 c).fault = 3 then chClear 2 c s else s)

/-- LAMP_OFF_DIAG: the pin under the 100 µA pull-down and under the 1 mA pull-up. -/
def execLampOffDiag (ch : Fin 12) (downMv upMv : Nat) (s : State) : Res :=
  let c := ch.val
  let x := getCh s 2 c
  .next (
    if !fieldRuns s ∨ x.owner = 0 ∨ x.state = 1 ∨ !bitOf (chByte x 0) 2 then s
    else if downMv < 1000 ∧ upMv < 1000 then (if x.fault = 2 then s else chFault 2 c 2 false s)
    else if 3000 < upMv ∧ downMv ≤ 3000 then (if x.fault = 3 then s else chFault 2 c 3 false s)
    else if x.fault = 2 ∨ x.fault = 3 then chClear 2 c s else s)

/-! ### FIELD_SET and FIELD_READ (R481, R482, R484) -/

/-- Channels of a kind; a release names any channel number. -/
def kindChannels (k : Nat) : Nat := match k with | 0 => 48 | 1 => 16 | 2 => 12 | 3 => 8 | 4 => 4 | _ => 48

/-- The fields of Table 16.8 that are out of range, by payload offset. -/
def confBad (k ch : Nat) (m : Msg) : List (Nat × Bool) :=
  let b := fun (i : Nat) => fld m (8 + i) 1
  let out := fun (lo hi v : Nat) => decide (v < lo) || decide (hi < v)
  match k with
  | 0 => [(8, bitOf (b 0) 7 || (bitOf (b 0) 4 && decide (ch % 2 = 1))), (9, decide (b 1 = 0)), (10, rsvBad m 10 14)]
  | 1 => [(8, out 5 100 (b 0)), (9, out 1 8 (b 1)), (10, rsvBad m 10 14)]
  | 2 => [(8, decide (8 ≤ b 0)), (9, decide (b 1 ≠ 0)), (10, (bitOf (b 0) 1 || decide (fld m 10 2 ≠ 0)) && out 1000 10000 (fld m 10 2)),
      (13, decide (7 < b 5)), (14, decide (100 < b 6)), (15, rsvBad m 15 9)]
  | 3 => [(8, decide (2 < b 0)), (9, decide (b 1 = 0)), (10, rsvBad m 10 14)]
  | 4 => [(8, decide (1 < b 0)), (9, decide (b 1 ≠ 0)), (10, out 1 1000 (fld m 10 2)), (16, rsvBad m 16 8)]
  | _ => []

/-- A lamp's command: ON clears a latch and starts a fresh retry count, but keeps a retry in wait; ON cleared cancels
retries (R484). -/
def lampCommand (c : Nat) (s : State) : State :=
  let x := getCh s 2 c
  let full := chByte x 5
  if bitOf (chByte x 0) 0 then
    if x.waiting then s
    else
      let s := modCh s 2 c fun x => { x with retries := full }
      let s := chState 2 c 1 s
      if x.fault = 1 ∨ x.fault = 4 then chClear 2 c s else s
  else
    let s := modCh s 2 c fun x => { x with waiting := false, retries := 0 }
    if x.state = 1 then chState 2 c 0 s else s

/-- A pair that should be at rest reads the reverse of REST_CLOSED: CROSSED_PAIR (R482). -/
def restCheck (c : Nat) (s : State) : State :=
  let x := getCh s 0 c
  let b := chByte x 0
  if !bitOf b 4 || !bitOf b 6 then s
  else
    let even := bitOf s.field.switch c
    let odd := bitOf s.field.switch (c + 1)
    if even != bitOf b 5 && odd == bitOf b 5 then (if x.fault = 6 then s else chFault 0 c 6 false s)
    else if x.fault = 6 then chClear 0 c s else s

/-- FIELD_SET's configuration of a channel. -/
def setChannel (k c p : Nat) (m : Msg) (s : State) : State :=
  let q := fld m 4 4
  let conf := (m.payload.drop 8).take 16
  let s := modCh s k c fun x =>
    { x with owner := p + 1, evq := if bitOf q 31 then q % 2 ^ 18 + 1 else 0, conf := conf, scans := 0
             state := if k = 0 then b2n (bitOf s.field.switch c) else x.state }
  match k with | 0 => restCheck c s | 2 => lampCommand c s | _ => s

/-- Releases a channel: it goes back to its default. -/
def releaseCh (k c : Nat) (s : State) : State :=
  modField s fun f => { f with ch := tput f.ch (chKey k c) {} }

/-- FIELD_SET (R481). A release names a channel number; it frees the sender's channels of that number (assumption 51). Where
the field control link is down the field die does not answer: TIMEOUT.
The order of its answers: DESIGN CHOICE, assumption 117. -/
def ownFieldSet : Own := fun m d s =>
  let k := fld m 0 1
  let c := fld m 1 1
  let q := fld m 4 4
  let held := (List.range 5).filter fun k => decide (c < kindChannels k) && decide ((getCh s k c).owner ≠ 0)
  let mine := held.filter fun k => decide ((getCh s k c).owner = d.party + 1)
  checked [(0, decide (5 < k)), (1, decide (kindChannels k ≤ c)), (2, rsvBad m 2 2), (24, k == 5 && rsvBad m 24 8)] s
  (if k = 5 then
    if mine.isEmpty && !held.isEmpty then say (sts stDENIED) s
    else if !s.field.linkUp then say (sts stTIMEOUT) s
    else say ok (mine.foldl (fun s k => releaseCh k c s) s)
  else if (getCh s k c).owner ≠ 0 ∧ (getCh s k c).owner ≠ d.party + 1 then say (sts stDENIED) s
  else checked ((4, bitsOf q 30 18 != 0 || (bitOf q 31 && !qForm s (q % 2 ^ 18) 1 1 (some 3) none)) :: confBad k c m ++ [(24, rsvBad m 24 8)]) s
    (if bitOf q 31 && !qReq s d.party (q % 2 ^ 18) then say (sts stDENIED) s
    else if !s.field.linkUp then say (sts stTIMEOUT) s
    else say ok (setChannel k c d.party m (modField s fun f => { f with resends := (f.resends.1, 0) }))))

/-- FIELD_SET (R481). -/
def execFieldSet (m : Msg) (s : State) : Res := .next (serve 0x0A10 isParty (lenIs 32) ownFieldSet m s)

/-- FIELD_READ's 8 bytes of a channel. -/
def readCh (s : State) (k c : Nat) : List Byte :=
  let x := getCh s k c
  leBytes 1 x.state ++ leBytes 2 x.fault ++ leBytes 1 0 ++ leBytes 4 x.value

/-- FIELD_READ (R481): a kind and a channel, or channel 0xFF for all channels of the kind. -/
def ownFieldRead : Own := fun m d s =>
  let k := fld m 0 1
  let c := fld m 1 1
  let cs := if c = 0xFF then List.range (kindChannels k) else [c]
  checked [(0, decide (4 < k)), (1, decide (kindChannels k ≤ c) && decide (c ≠ 0xFF))] s
  (if decide (d.party ≠ 17) && cs.any fun c => decide ((getCh s k c).owner ≠ d.party + 1) then say (sts stDENIED) s
  else if !s.field.linkUp then say (sts stTIMEOUT) s
  else say (okWith (cs.flatMap (readCh s k))) (modField s fun f => { f with resends := (f.resends.1, 0) }))

/-- FIELD_READ (R481). -/
def execFieldRead (m : Msg) (s : State) : Res := .next (serve 0x0A11 isPartyGx (lenIs 2) ownFieldRead m s)

/-! ### CAN transceivers (R471, R487) -/

/-- A fault of an integrated transceiver is found: once, with event 0x6002 and its bit of FLD_FAULT. Its KIND and value are
not given (assumption 35). -/
def canFault (c fault : Nat) (off : Bool) (s : State) : State :=
  let t := getCan s c
  let s := modCan s c fun t => { t with txOff := t.txOff || off }
  if t.faults.contains fault then s
  else
    let d := freeNum s
    let s := fldFault (12 + c) (modCan d.2 c fun t => { t with faults := t.faults ++ [fault] })
    harnessFault Config.canKind c fault false d.1 (ownerParty t.owner) s

/-- Faults of a transceiver end. -/
def canClear (c : Nat) (which : Nat → Bool) (s : State) : State :=
  let t := getCan s c
  let s := modCan s c fun t => { t with faults := t.faults.filter fun f => !which f }
  (t.faults.filter which).foldl (fun s f => harnessClear Config.canKind c f (ownerParty t.owner) s) s

/-- An integrated transceiver out of standby, of a controller that is open. -/
def canWired (s : State) (c : Nat) : Bool := decide (c < 8) && decide ((getCan s c).owner ≠ 0) && !(getCan s c).standby && fieldRuns s

/-- CAN_FRAME_RECEIVED (R473): a received frame also ends OPEN_LOAD and a dominant bus. -/
def execCanFrameReceived (ctrl : Fin 12) (f : CanFrame) (s : State) : Res :=
  let c := ctrl.val
  let s := if canWired s c && (getCan s c).faults.any (fun x => x == 3 || x == 8) then
      let dom := (getCan s c).faults.contains 8
      let s := canClear c (fun x => x == 3 || x == 8) s
      modCan s c fun t => { t with txOff := t.txOff && !(dom && !t.faults.contains 1) }
    else s
  .next (canReceive c f s)

/-- CAN_DOMINANT (R471): TXD held dominant, or a bus held dominant, for 1 ms. -/
def execCanDominant (ctrl : Fin 12) (s : State) : Res :=
  .next (if canWired s ctrl.val then canFault ctrl.val 8 true s else s)

/-- CAN_WUP (R471): in standby, on a controller opened with WAKE. -/
def execCanWup (ctrl : Fin 12) (s : State) : Res :=
  let t := getCan s ctrl.val
  .next (if ctrl.val < 8 ∧ fieldPowered s ∧ t.standby ∧ t.owner ≠ 0 ∧ canWake t.conf then fieldWake (8 + ctrl.val) s else s)

/-- CAN_BUS_FAULT (R487): a short while recessive, or its end. -/
def execCanBusFault (ctrl : Fin 12) (f : CanBusFault) (s : State) : Res :=
  let c := ctrl.val
  .next (if !canWired s c then s
    else match f with
      | .shortToBattery => canFault c 1 true s
      | .shortToGround => canFault c 2 false s
      | .cleared => canFeed c (modCan (canClear c (fun x => x == 1 || x == 2 || x == 8) s) c fun t => { t with txOff := false }))

/-- CAN_OPEN_LOAD (R487): no bit received for 1 s after TXD was sent. -/
def execCanOpenLoad (ctrl : Fin 12) (s : State) : Res :=
  .next (if canWired s ctrl.val then canFault ctrl.val 3 false s else s)

/-- CAN_TRANSMITTER_RETRY (R487): every 10 ms a transmitter turned off for a short to battery is tried again. -/
def execCanTransmitterRetry (ctrl : Fin 12) (s : State) : Res :=
  let c := ctrl.val
  let t := getCan s c
  .next (if canWired s c && t.txOff && t.faults.contains 1 && !t.faults.contains 8 then canFeed c (modCan s c fun t => { t with txOff := false }) else s)

/-! ### USB Type-C ports (R489 to R491) -/

/-- A record of a port. Table 16.9 gives it no KIND and no VALUE: both are free values. -/
def usbcRecord (p code fault : Nat) (s : State) : State :=
  let a := freeNum s
  let b := freeNum a.2
  fieldRecord (getUc s p).evq (a.1 % 256) p code (getUc s p).state fault (b.1 % 2 ^ 32) b.2

/-- Event 0x6007. -/
def usbcState (p : Nat) (s : State) : State :=
  let x := getUc s p
  if !fieldHeard s then s
  else event srcField 0x6007 (ownerParty x.owner) (leBytes 1 p ++ leBytes 1 x.state ++ leBytes 2 x.mv ++ leBytes 2 x.ma) s

/-- A contract that the port offers as a source (R489): a fixed supply within MAX_W and 5 A. A sink for data takes what its
partner offers. -/
def contractOk (x : UsbcPort) (mv ma : Nat) : Bool :=
  decide (x.role = 2) || ([5000, 9000, 15000, 20000].contains mv && decide (ma ≤ 5000) && decide (mv * ma ≤ x.maxW * 1000000))

/-- USBC_ATTACH (R490): an attach, a detach or a new contract. An attach is a wake source (Table 2.4). -/
def execUsbcAttach (port : Fin 4) (state : Fin 3) (mv ma : BitVec 16) (s : State) : Res :=
  let p := port.val
  let x := getUc s p
  let st := state.val
  .next (
    if !fieldPowered s ∨ !x.cc ∨ (x.role = 0 ∧ !s.field.park) ∨ (st = 2 ∧ (x.state = 0 ∨ s.field.park ∨ !contractOk x mv.toNat ma.toNat)) then s
    else if s.field.park then (if st = 1 then fieldWake (16 + p) s else s)
    else
      let s := modUc s p fun x => { x with
        state := st, mv := if st = 0 then 0 else mv.toNat, ma := if st = 0 then 0 else ma.toNat
        vbus := decide (x.role = 1) && decide (st ≠ 0) && decide (x.fault = 0) && decide (s.field.vbat ≤ 3600) }
      let s := if st = 1 then fieldWake (16 + p) s else s
      usbcRecord p 0 (getUc s p).fault (usbcState p s))

/-- A port's fault: VBUS off, FLD_FAULT, event 0x6008 and a record, once (R491). -/
def usbcFault (p fault : Nat) (s : State) : State :=
  let x := getUc s p
  let s := modUc s p fun x => { x with vbus := false, fault := fault, cc := x.cc && decide (fault ≠ 10) }
  if x.fault = fault then s
  else
    let s := fldFault (20 + p) s
    let s := if fieldHeard s then event srcField 0x6008 (ownerParty x.owner) (leBytes 1 p ++ leBytes 2 fault) s else s
    usbcRecord p 1 fault s

/-- VBUS_FAULT (R491): a short at enable or an overcurrent. The hard reset ends the contract. -/
def execVbusFault (port : Fin 4) (s : State) : Res :=
  let p := port.val
  .next (if !fieldRuns s ∨ !(getUc s p).vbus then s
    else usbcFault p 9 (modUc s p fun x => { x with state := min 1 x.state, mv := 0, ma := 0 }))

/-- VBUS_RETRY (R491): 1 s later the port enables VBUS again. -/
def execVbusRetry (port : Fin 4) (s : State) : Res :=
  let p := port.val
  .next (if !fieldRuns s ∨ (getUc s p).fault ≠ 9 then s
    else
      let s := modUc s p fun x => { x with fault := 0, vbus := decide (x.role = 1) && decide (x.state ≠ 0) && decide (s.field.vbat ≤ 3600) }
      usbcRecord p 2 9 s)

/-- CC_OVERVOLTAGE (R491): CC above 6 V. -/
def execCcOvervoltage (port : Fin 4) (s : State) : Res :=
  .next (if !fieldRuns s ∨ (getUc s port.val).role = 0 then s else usbcFault port.val 10 s)

/-- USBC_SET (R490). A port stays with the party that set it until ROLE 0; a new setting connects CC again. -/
def ownUsbcSet : Own := fun m d s =>
  let p := fld m 0 1
  let role := fld m 1 1
  let q := fld m 4 4
  let x := getUc s p
  checked [(0, decide (3 < p)), (1, decide (2 < role)), (2, decide (fld m 2 1 < 15) || decide (100 < fld m 2 1)), (3, rsvBad m 3 1),
      (4, bitsOf q 30 18 != 0 || (bitOf q 31 && !qForm s (q % 2 ^ 18) 1 1 (some 3) none))] s
  (if x.owner ≠ 0 ∧ x.owner ≠ d.party + 1 then say (sts stDENIED) s
  else if bitOf q 31 && !qReq s d.party (q % 2 ^ 18) then say (sts stDENIED) s
  else if !s.field.linkUp then say (sts stTIMEOUT) s
  else
    let s := modField s fun f => { f with resends := (f.resends.1, 0) }
    let s := modUc s p fun u => { u with
      owner := if role = 0 then 0 else d.party + 1, role := role, maxW := fld m 2 1, evq := if bitOf q 31 then q % 2 ^ 18 + 1 else 0, cc := true, fault := 0
      state := if role = 0 then 0 else u.state, mv := if role = 0 then 0 else u.mv, ma := if role = 0 then 0 else u.ma
      vbus := decide (role = 1) && decide (u.state ≠ 0) && decide (s.field.vbat ≤ 3600) }
    let s := if x.fault ≠ 0 then usbcRecord p 2 x.fault s else s
    say ok (if role = 0 ∧ x.state ≠ 0 then usbcState p s else s))

/-- USBC_SET (R490). -/
def execUsbcSet (m : Msg) (s : State) : Res := .next (serve 0x0A12 isParty (lenIs 8) ownUsbcSet m s)

/-! ### VBAT (R488, Table 16.11) -/

/-- The row of Table 16.11 that a voltage in 10 mV lies in. -/
def vbatRange (v : Int) : Nat := if v < -100 then 0 else if v < 450 then 1 else if v < 600 then 2 else if v ≤ 3600 then 3 else 4

/-- Event 0x6009. -/
def vbatEvent (st : Nat) (s : State) : State :=
  if fieldHeard s then event srcField 0x6009 noParty (leBytes 1 st ++ leBytes 2 (codeOf 16 s.field.vbat)) s else s

/-- The core and memory supplies are on, or DRAM is retained. -/
def coreAlive (s : State) : Bool := s.pw.supplied || decide (s.pw.st = .park) || decide (s.pw.st = .rest)

/-- Lamps and VBUS go off above 36 V. -/
def overvoltOff (s : State) : State :=
  let s := (List.range 12).foldl (fun s c => if (getCh s 2 c).state = 1 then chState 2 c 0 s else s) s
  modField s fun f => { f with usbc := tmap (fun (u : UsbcPort) => { u with vbus := false }) f.usbc }
/-- Back in range, they follow what was commanded (assumption 53). -/
def overvoltBack (s : State) : State :=
  let s := (List.range 12).foldl (fun s c =>
    let x := getCh s 2 c
    if bitOf (chByte x 0) 0 && decide (x.state = 0) && !x.waiting && fieldRuns s then chState 2 c 1 s else s) s
  modField s fun f => { f with usbc := tmap (fun (u : UsbcPort) => { u with vbus := decide (u.role = 1) && decide (u.state ≠ 0) && decide (u.fault = 0) }) f.usbc }

/-- The supplies of a part that VBAT leaves: everything but flash, fuses and the field die's EEPROM is lost. -/
def vbatLost (code : Nat) (s : State) : State :=
  let s := fieldLog code 0 s
  let s := if s.boot.phase = 0 ∧ !coreAlive s then s else coreOff 0 s
  modField s fun f => { f with linkUp := false, holding := false, warn := false, park := true }

/-- VBAT_CHANGE (R488): VBAT in 10 mV. -/
def execVbatChange (centivolts : Int) (s : State) : Res :=
  let old := s.field.vbat
  let v := max (-2800) (min 5800 centivolts)
  let a := vbatRange old
  let b := vbatRange v
  let s := if a ≤ 1 ∧ 2 ≤ b then fieldOn s else s
  let s := modField s fun f => { f with vbat := v, warn := f.warn && decide (v ≤ 650) }
  .next (
    if a = b then (if 4000 < v ∧ old ≤ 4000 then fieldLog 3 0 s else s)
    else match b with
      | 0 => vbatLost 2 (fldFault 24 s)
      | 1 => if a = 0 then s else vbatLost 1 s
      | 2 =>
        let s := fldFault 26 s
        if a ≤ 1 ∨ !coreAlive s then s else flushNow (vbatEvent 1 (modField s fun f => { f with warn := true }))
      | 3 =>
        let s := if a = 4 then overvoltBack s else s
        fieldWake 22 (vbatEvent 0 s)
      | _ =>
        let s := vbatEvent 2 (overvoltOff (fldFault 25 s))
        if 4000 < v then fieldLog 3 0 s else s)

/-- VBAT_CUT (R488): 10 ms after VBAT_WARN, with VBAT not back above 6.5 V. -/
def execVbatCut (s : State) : Res :=
  .next (if !s.field.warn then s else modField (coreOff 0 s) fun f => { f with warn := false })

/-! ### The field control link (R17) -/

/-- FIELD_FRAME_CRC_FAIL: the frame is sent again; after three failed resends the link is down, the field die holds its
outputs and the Kettle retrains the link. A message cannot be pending here: each ends in its own step (assumption 54). -/
def execFieldFrameCrcFail (fromCore : Bool) (s : State) : Res :=
  let n := if fromCore then s.field.resends.2 else s.field.resends.1
  .next (
    if !s.field.linkUp ∨ !s.pw.supplied ∨ s.pw.st = .rest ∨ s.pw.st = .park then s
    else if n < 3 then modField s fun f => { f with resends := if fromCore then (f.resends.1, n + 1) else (n + 1, f.resends.2) }
    else
      let s := event (if fromCore then srcAfzan else srcField) 0x6001 noParty (leBytes 1 (b2n fromCore) ++ leBytes 1 3) s
      let s := modBoot s fun b => { b with linkUp := tput b.linkUp 19 0 }
      fieldLog 6 0 (modField s fun f => { f with linkUp := false, holding := true, resends := (0, 0) }))

/-- FIELD_OUTPUT_HOLD_EXPIRY: 100 ms later the outputs take their Park defaults. -/
def execFieldOutputHoldExpiry (s : State) : Res :=
  .next (if !s.field.holding then s else modField (fieldDefaults s) fun f => { f with holding := false })

/-! ### SPI frames (Table 12.4) -/

/-- A frame's CRC is right. -/
def frameCrcOk (f : List Byte) : Bool :=
  decide (4 ≤ f.length) && decide (crc32c (f.take (f.length - 4)) = field f (f.length - 4) 4)
def frameAddr (f : List Byte) : Nat := field f 1 3
def frameLen (f : List Byte) : Nat := field f 4 2
/-- A write or read frame is well formed. -/
def frameOk (cmd : Nat) (f : List Byte) : Bool :=
  let n := frameLen f
  decide (field f 0 1 = cmd) && decide (f.length = 10 + (if cmd = 2 then n else 0)) && decide (4 ≤ n) && decide (n ≤ 4096) &&
    decide (n % 4 = 0) && decide (frameAddr f % 4 = 0) && frameCrcOk f
def frameData (f : List Byte) : List Byte := (f.drop 6).take (frameLen f)
/-- Bytes with their CRC-32C. -/
def withCrc (bs : List Byte) : List Byte := bs ++ leBytes 4 (crc32c bs)

/-! ### The service port (R493) -/

/-- The registers of Table 16.12: offset, bytes and value. -/
def fldRegs (s : State) : List (Nat × Nat × Nat) :=
  let f := s.field
  let on := s.pw.supplied && decide (s.pw.st ≠ .rest) && decide (s.pw.st ≠ .park)
  let okV := decide (600 ≤ f.vbat) && decide (f.vbat ≤ 3600)
  [(0x00, 4, 0x5A46 + Config.fieldStepping.toNat * 0x10000), (0x04, 4, b2n on + 2 * b2n f.linkUp + 4 * b2n f.park + 8 * b2n okV),
    (0x08, 4, codeOf 16 f.vbat), (0x0C, 4, f.wake), (0x10, 4, f.wakeEn), (0x14, 4, f.timer), (0x18, 8, f.parktime), (0x20, 4, f.fault),
    (0x24, 8, f.switch), (0x2C, 4, f.logNext), (0x30, 8, f.pwron.val), (0x38, 4, 0), (0x3C, 4, 0), (0x40, 8, f.ksave)]

/-- The bytes of one register; part of a 64-bit register, and FLD_PARKTIME while it counts, are free values. -/
def fldRegBytes (whole : Bool) (off n v : Nat) (s : State) : List Byte × State :=
  if whole && !(off == 0x18 && s.field.park) then (leBytes n v, s) else freeBytes n s

/-- Bytes [a, a + n) of the register space, of registers and log; none where an address is not there. -/
def fldRead (a n : Nat) (s : State) : Option (List Byte × State) :=
  if 0x1000 ≤ a ∧ a + n ≤ 0x2000 then
    let img := (List.range (n / 16 + 2)).flatMap fun i => (tget s.field.log ((a - 0x1000) / 16 + i) ++ leBytes 16 0).take 16
    some ((img.drop (a % 16)).take n, s)
  else
    let img := (fldRegs s).foldl (fun (x : List Byte × State) r =>
      if a + n ≤ r.1 ∨ r.1 + r.2.1 ≤ a then (x.1 ++ leBytes r.2.1 0, x.2)
      else
        let b := fldRegBytes (decide (a ≤ r.1) && decide (r.1 + r.2.1 ≤ a + n)) r.1 r.2.1 r.2.2 x.2
        (x.1 ++ b.1, b.2)) ([], s)
    if a + n ≤ 0x48 then some ((img.1.drop a).take n, img.2) else none

/-- WAKE_NOW: SERVICE is set and the part wakes, whatever FLD_WAKE_EN holds (R493). -/
def serviceWake (s : State) : State :=
  let s := modField s fun f => { f with wake := f.wake ||| 2 ^ 23 }
  match s.pw.st with
  | .park => parkExit s
  | .rest => restExit 8 (wakeBit s) s
  | _ => wakeFrom true 8 (wakeBit s) s

/-- A write of FLD_CMD. -/
def fldCmd (v : Nat) (s : State) : State := if bitOf v 0 then serviceWake s else s

/-- A write of one 32-bit register from the service port. -/
def fldWrite (off v : Nat) (s : State) : State :=
  match off with
  | 0x0C => modField s fun f => { f with wake := f.wake &&& (2 ^ 24 - 1 - v % 2 ^ 24) }
  | 0x10 => modField s fun f => { f with wakeEn := v % 2 ^ 24 }
  | 0x14 => modField s fun f => { f with timer := v % 2 ^ 32 }
  | 0x20 => modField s fun f => { f with fault := f.fault &&& (2 ^ 27 - 1 - v % 2 ^ 27) }
  | 0x38 => fldCmd v s
  | _ => s

/-- WAKE_NOW (R493): a write of FLD_CMD. -/
def execWakeNow (v : BitVec 32) (s : State) : Res := .next (if fieldPowered s then fldCmd v.toNat s else s)

/-- A frame that the service port refuses. -/
def serviceRefuse (out : List Byte) (s : State) : State := modField s fun f => { f with crcErr := true, spiOut := out }

/-- SERVICE_SPI_WRITE (R493). -/
def execServiceSpiWrite (frame : List Byte) (s : State) : Res :=
  let a := frameAddr frame
  let n := frameLen frame
  .next (
    if !fieldPowered s then s
    else if !frameOk 2 frame ∨ 0x48 < a + n then serviceRefuse [] s
    else (List.range (n / 4)).foldl (fun s i => fldWrite (a + 4 * i) (field (frameData frame) (4 * i) 4) s) (modField s fun f => { f with spiOut := [] }))

/-- SERVICE_SPI_READ (R493): the bytes and their CRC; a whole read of FLD_PWRON clears OVF. -/
def execServiceSpiRead (frame : List Byte) (s : State) : Res :=
  let a := frameAddr frame
  let n := frameLen frame
  .next (
    if !fieldPowered s then s
    else if !frameOk 3 frame then serviceRefuse (withCrc (leBytes n 0)) s
    else match fldRead a n s with
      | none => serviceRefuse (withCrc (leBytes n 0)) s
      | some (bs, s) =>
        modField s fun f => { f with spiOut := withCrc bs, pwron := if a ≤ 0x30 ∧ 0x38 ≤ a + n ∧ a < 0x1000 then f.pwron.read else f.pwron })

/-- SERVICE_SPI_STATUS (R493): CRC_ERR, which the read clears; the field die has no MBOX_BUSY or FAULT_N of its own, and bits
1 and 2 are free values. -/
def execServiceSpiStatus (frame : List Byte) (s : State) : Res :=
  .next (
    if !fieldPowered s ∨ field frame 0 1 ≠ 5 then s
    else
      let d := freeNum s
      modField d.2 fun f => { f with crcErr := false, spiOut := leBytes 1 (b2n f.crcErr + 2 * (d.1 % 4)) })

/-! ### The safety SPI port (R365) -/

/-- The keep island is powered, so the port answers. -/
def keepOn (s : State) : Bool := s.pw.supplied && decide (s.pw.st ≠ .park)

/-- The range of the GX space that holds [a, a + n): 1 mailbox, 2 doorbell page, 3 Caddy window, 0 none. -/
def gxRange (a n : Nat) : Nat :=
  if a + n ≤ 0x2000 then 1 else if 0x2000 ≤ a ∧ a + n ≤ 0x3000 then 2 else if 0x10000 ≤ a ∧ a + n ≤ 0x210000 then 3 else 0

/-- A frame that the safety port refuses. -/
def safetyRefuse (out : List Byte) (s : State) : State := modSafe s fun f => { f with spiCrcErr := true, spiOut := out }

/-- The 8-byte registers of the doorbell page that lie in [a, a + n) whole. -/
def wholeRegs (a n : Nat) : List Nat := ((List.range (n / 8 + 2)).map fun i => a / 8 * 8 + 8 * i).filter fun o => decide (a ≤ o) && decide (o + 8 ≤ a + n)
/-- The registers that [a, a + n) meets in part. -/
def partRegs (a n : Nat) : List Nat := ((List.range (n / 8 + 2)).map fun i => a / 8 * 8 + 8 * i).filter fun o =>
  decide (o < a + n) && decide (a < o + 8) && !(decide (a ≤ o) && decide (o + 8 ≤ a + n))

/-- SAFETY_SPI_WRITE (R365): into the mailbox or the doorbell page. A write of a part of a register is the partial write of
R542. -/
def execSafetySpiWrite (frame : List Byte) (s : State) : Res :=
  let a := frameAddr frame
  let n := frameLen frame
  let bs := frameData frame
  .next (
    if !keepOn s then s
    else if !frameOk 2 frame ∨ s.boot.gxPcie then safetyRefuse [] s
    else
      let t := modSafe s fun f => { f with spiOut := [] }
      match gxRange a n with
      | 1 => mboxWrite 17 a bs t
      | 2 =>
        let t := (partRegs a n).foldl (fun s o => dblWrite false 17 (o - 0x2000) 0 s) t
        (wholeRegs a n).foldl (fun s o => dblWrite true 17 (o - 0x2000) (field bs (o - a) 8) s) t
      | _ => safetyRefuse [] s)

/-- What the port returns of the doorbell page: whole registers, and 0 for a part of one. -/
def dblBytes (s : State) (a n : Nat) : List Byte :=
  let img := (List.range (n / 8 + 2)).flatMap fun i =>
    let o := a / 8 * 8 + 8 * i
    if a ≤ o ∧ o + 8 ≤ a + n then leBytes 8 (dblVal s 17 (o - 0x2000)) else leBytes 8 0
  (img.drop (a % 8)).take n

/-- SAFETY_SPI_READ (R365). Reading the answer page ends the wait for an answer, and reading the Caddy window the wait for an
event (assumption 55). -/
def execSafetySpiRead (frame : List Byte) (s : State) : Res :=
  let a := frameAddr frame
  let n := frameLen frame
  .next (
    if !keepOn s then s
    else if !frameOk 3 frame ∨ s.boot.gxPcie then safetyRefuse (withCrc (leBytes n 0)) s
    else match gxRange a n with
      | 1 => modSafe s fun f => { f with spiOut := withCrc (tread f.gxPages a n), gxIrq := f.gxIrq && decide (a + n ≤ 0x1000) }
      | 2 => (wholeRegs a n).foldl (fun s o => dblReadEffect 17 (o - 0x2000) s) (modSafe s fun f => { f with spiOut := withCrc (dblBytes s a n) })
      | 3 =>
        let img := (List.range (n / 32 + 2)).flatMap fun i => cadBytes s 17 (((a - 0x10000) / 32 + i) % 0x10000) 0 32
        modSafe s fun f => { f with spiOut := withCrc ((img.drop (a % 32)).take n), gxEvent := false }
      | _ => safetyRefuse (withCrc (leBytes n 0)) s)

/-- SAFETY_SPI_STATUS (R365). -/
def execSafetySpiStatus (frame : List Byte) (s : State) : Res :=
  .next (
    if !keepOn s ∨ field frame 0 1 ≠ 5 then s
    else modSafe s fun f => { f with
      spiCrcErr := false, spiOut := leBytes 1 (b2n f.spiCrcErr + 2 * b2n (getParty s 17).busy + 4 * b2n (decide (f.causes ≠ 0))) })

end Sys2Proof.Machine
end

