-- ==== Sys2Proof/Machine/Cross.lean ====
section
/-! DEFINITION. The Crossing bridge: inbound requests, outbound groups and reads, the error log, windows and links (chapter 15,
R506). -/

namespace Sys2Proof.Machine

/-- Changes the bridge. -/
def modCross (s : State) (f : Crossing → Crossing) : State := { s with cross := f s.cross }
/-- A window. -/
def getWin (s : State) (id : Nat) : Window := tget s.cross.win id
/-- A PCIe port. -/
def getPcie (s : State) (p : Nat) : PciePort := tget s.cross.port p
/-- Sets what the last transaction returned (the model's own output port). -/
def respond (st : Nat) (bs : List Byte) (s : State) : State := { s with resp := { status := st, data := bs } }

/-! ### A unit's refused or failed access (Table 1.7) -/

/-- What a refused or failed access does to the block that made it, by its code of Table 1.9. A TSN port counts its drop where
its own command meets the refusal. -/
def unitStops (code st : Nat) (s : State) : State :=
  let i := code % 4096
  match code / 4096 with
  | 0 => abortOn i st s
  | 4 => stopStr i st s
  | 5 => stopSes i st s
  | 6 => pipeStopped i st s
  | 7 => stopFus st s
  | 10 =>
    match (getUnit s i).fly with
    | c :: _ => ioStop i st c.cmd (modUnit s i fun x => { x with fly := x.fly.drop 1 })
    | [] => modUnit s i fun x => { x with stopped := st }
  | _ => s

/-! ### The error log (R463, R464) -/

/-- Writes a log entry; KIND 0 is copied to the window's ERR_QUEUE where it has room. -/
def brgLog (e : BrgEntry) (errQ : Nat) (s : State) : State :=
  let s := modCross s fun c => { c with
    log := tput c.log c.next e, next := (c.next + 1) % 1024, counts := tmod c.counts e.owner (fun x => x.add 1), countAll := c.countAll.add 1 }
  if e.kind ≠ 0 ∨ errQ = 0 ∨ !canPush s (errQ - 1) then s else pushEntry (errQ - 1) e.bytes s

/-- The party number of an entry's OWNER byte, for a transaction that met no window. -/
def noOwner : Nat := 0xFF

/-! ### Inbound requests (R451, R455, R461 to R463) -/

/-- The inbound window of a port that covers an aperture offset. -/
def inWindow (s : State) (port off : Nat) : Option Nat :=
  ((List.range 64).map fun i => (if port = 0 then 64 else 192) + i).find? fun id =>
    let w := getWin s id
    w.live && decide (w.remote ≤ off) && decide (off < w.remote + w.size)

/-- The status of earlier writes that a zero-length read returns, and its key (R458, R461). -/
def badKey (id requester : Nat) : Nat := id * 65536 + requester

/-- An inbound request that does not land: what the far side and the log see (Table 1.7, R463). -/
def inFail (r : PcieReq) (win : Option Nat) (st loc : Nat) (s : State) : State :=
  let w := match win with | some id => getWin s id | none => default
  let owner := match win with | some _ => w.owner | none => noOwner
  let kind := if r.write && r.posted then 0 else 2
  let e : BrgEntry := { ktime := s.ktime, win := win.getD 0xFFFF, owner := owner, status := st, kind := kind, port := r.port.val
                        requester := r.requester.toNat, loc := loc, len := r.len, remote := r.off.toNat }
  let s := respond st [] s
  let slot := s.cross.next
  if r.write && r.posted then
    let s := match win with
      | some id =>
        let k := badKey id r.requester.toNat
        if tget s.cross.bad k = 0 then modCross s fun c => { c with bad := tput c.bad k st } else s
      | none => s
    if r.port.val ≠ 0 then s
    else event 0x8000 0x5001 (if owner = noOwner then noParty else owner)
      (leBytes 1 (win.getD 0xFF) ++ leBytes 1 st ++ leBytes 2 slot ++ leBytes 6 loc) (brgLog e w.errQ s)
  else brgLog e 0 s

/-- The refusal event of an inbound request at the port. -/
def inRefuse (r : PcieReq) (id loc : Nat) (v : Verdict) (s : State) : State :=
  refuseEvent (0x8000 + r.port.val) (whoOf s (.crossing r.port (BitVec.ofNat 8 id))) r.write loc v s

/-- What waits for space in a queue that software reads, or for entries in one that it writes, moves on. -/
def queueMoved (q : Nat) (s : State) : State :=
  let s := unitRoom q (canFeedQ q s)
  (List.range 64).foldl (fun s k => if (getSes s k).closing.isSome ∧ cdOut (getSes s k).open_ = q then closeSesIfDone k s else s) s

/-- The queue whose pointer slot an address lies in. -/
def slotQueue (a : Nat) : Option Nat := if 0x2100000000 ≤ a ∧ a < 0x2101000000 then some ((a - 0x2100000000) / 64) else none

/-- After an accepted write. -/
def afterWrite (write : Bool) (a : Nat) (s : State) : State :=
  match slotQueue a with | some q => if write then queueMoved q s else s | none => s

/-- A request through an inbound window. -/
def inThrough (r : PcieReq) (id : Nat) (s : State) : State :=
  let w := getWin s id
  let off := r.off.toNat
  let loc := w.loc + (off - w.remote)
  let n := r.len
  let u := laneUnit w
  let host := decide (r.port.val = 0)
  if !r.write && decide (n = 0) && !(host && w.closing) then
    let k := badKey id r.requester.toNat
    respond stOK (leBytes 4 (tget s.cross.bad k)) (modCross s fun c => { c with bad := tput c.bad k 0 })
  else if w.closing then inFail r (some id) stWINDOW_CLOSED loc s
  else if w.remote + w.size < off + n then inFail r (some id) stDENIED (w.loc + w.size) (inRefuse r id (w.loc + w.size) .refused s)
  else if (!host && !bitOf w.device r.device.val) || (r.write && bitOf w.flags 3) then inFail r (some id) stDENIED loc (inRefuse r id loc .refused s)
  else if loc % u ≠ 0 ∨ n % u ≠ 0 then
    inFail r (some id) stBAD_ARG loc (event (0x8000 + r.port.val) 0x5003 w.owner (leBytes 1 id ++ leBytes 1 1 ++ leBytes 6 loc) s)
  else if r.write && bitOf w.flags 2 then respond stOK [] (raiseIrq (getParty s w.owner).irq1 s)
  else if !winTarget s w.owner loc n then
    let a := firstOut s w.owner loc n
    inFail r (some id) stDENIED a (inRefuse r id a .refused s)
  else
    let t := access (.crossing r.port (BitVec.ofNat 8 id)) r.write loc n (throughLanes w r.data) [] s
    match t.2 with
    | .waits => s
    | .sent _ => t.1
    | .done st bs => if st = stOK then respond stOK (throughLanes w bs) (afterWrite r.write loc t.1) else inFail r (some id) st loc t.1

/-- A party that owns an inbound window on the host port (R451), as that window. -/
def hostParty (s : State) (p : Nat) : Option Nat :=
  ((List.range 64).map (· + 64)).find? fun id => (getWin s id).live && decide ((getWin s id).owner = p)

/-- The log as BAR0 shows it: the entries of host-port parties. -/
def barLog (s : State) (o : Nat) : Nat :=
  let ps := (List.range 17).filter fun p => (hostParty s p).isSome
  let total := fun (t : Tab Stat) =>
    let n := (ps.map fun p => (tget t p).n).sum
    min n statMax + (if ps.any (fun p => (tget t p).ovf) then 2 ^ 63 else 0)
  if o = 8 then total s.cross.counts
  else if o = 16 then total s.cross.discards
  else if 0x8000 ≤ o ∧ !ps.contains (tget s.cross.log ((o - 0x8000) / 32)).owner then 0
  else brgVal s 16 o

/-- BAR0 of the endpoint (Table 15.3). Its MSI-X pending bits show raised vectors that the table masks (assumption 56). -/
def barRequest (r : PcieReq) (s : State) : State :=
  let o := r.off.toNat
  let n := r.len
  let e := o + max n 1
  let refuse := fun (a : Nat) => inFail r none stDENIED a (inRefuse r 0 a .refused s)
  let door := fun (id a : Nat) =>
    let t := access (.crossing r.port (BitVec.ofNat 8 id)) r.write a n r.data [] s
    match t.2 with
    | .done st bs => if st = stOK then respond stOK bs t.1 else inFail r (if o < 0x10000 then some id else none) st a t.1
    | _ => s
  if o < 0x10000 ∧ e ≤ (o / 0x1000 + 1) * 0x1000 then
    match hostParty s (o / 0x1000) with
    | some id => door id (0x2000000000 + o)
    | none => refuse (0x2000000000 + o)
  else if 0x11000 ≤ o ∧ e ≤ 0x12000 ∧ s.boot.gxPcie then door 0 (0x2000000000 + o)
  else if 0x12000 ≤ o ∧ e ≤ 0x14000 ∧ s.boot.gxPcie then
    let a := o - 0x12000
    if r.write then respond stOK [] (mboxWrite 17 a r.data s)
    else respond stOK (tread s.safe.gxPages a n) (modSafe s fun f => { f with gxIrq := f.gxIrq && decide (a + n ≤ 0x1000) })
  else if 0x14000 ≤ o ∧ e ≤ 0x15000 then
    if r.write then respond stOK [] (modCross s fun c => { c with msixTab := twrite c.msixTab (o - 0x14000) r.data })
    else respond stOK (tread s.cross.msixTab (o - 0x14000) n) s
  else if 0x15000 ≤ o ∧ e ≤ 0x16000 then
    let pend := ((List.range 256).map fun v => if tget s.world.msix v = 1 ∧ bitOf (tget s.cross.msixTab (v * 16 + 12)).toNat 0 then 2 ^ v else 0).sum
    if r.write then respond stOK [] s else respond stOK (((leBytes 4096 pend).drop (o - 0x15000)).take n) s
  else if 0x20000 ≤ o ∧ e ≤ 0x30000 ∧ !r.write then
    let a := o - 0x20000
    if n = 8 ∧ a % 8 = 0 then
      let rd := fun (t : Tab Stat) => (List.range 17).foldl (fun t p => if (hostParty s p).isSome then tmod t p Stat.read else t) t
      respond stOK (leBytes 8 (barLog s a)) (if a = 8 then modCross s fun c => { c with counts := rd c.counts }
        else if a = 16 then modCross s fun c => { c with discards := rd c.discards } else s)
    else respond stOK (leBytes n 0) s
  else
    let page := o / 0x1000
    let mine := if page < 16 then (hostParty s page).isSome else page == 17 && s.boot.gxPcie
    refuse (if o < 0x12000 then 0x2000000000 + (if mine then (page + 1) * 0x1000 else o) else 0)

/-- A port carries requests: the link is up, not held, in D0 and not in L2. -/
def portOn (s : State) (p : Nat) : Bool :=
  let x := getPcie s p
  s.pw.supplied && !s.boot.held && decide (s.pw.st ≠ .rest) && decide (s.pw.st ≠ .park) && x.up && !x.held && decide (x.dState = 0) && !x.l2

/-- PCIE_INBOUND_REQUEST (R455): the request enters the fabric or is refused. It leaves Hush or a Doze entered by votes; while
the fabric is stopped it waits in the link. Where no window matches, no local address exists: the event's is a free value. -/
def execPcieInboundRequest (r : PcieReq) (s : State) : Res :=
  let p := r.port.val
  .next (
    if !portOn s p ∨ (r.write ∧ r.data.length ≠ r.len) ∨ 4096 < r.len ∨ (r.bar0 ∧ !(decide (p = 0) && s.boot.endpoint)) then s
    else
      let s := wakeFrom true 7 p s
      if !fabricUp s then s
      else if r.bar0 then barRequest r s
      else match inWindow s p r.off.toNat with
        | some id => inThrough r id s
        | none =>
          let d := freeNum s
          inFail r none stDENIED (d.1 % 2 ^ 48) (refuseEvent (0x8000 + p) { code := 0x8000 + p, party := none, sec := false } r.write (d.1 % 2 ^ 48) .unbacked d.2))

/-! ### Outbound groups and reads (R458 to R460) -/

/-- An outbound transaction leaves the list. -/
def dropTx (tag : Nat) (s : State) : State := modCross s fun c => { c with out := c.out.filter fun x => decide (x.tag ≠ tag) }

/-- Its end reaches one leaf engine that waits for it (R459). -/
def wakeWaiter (x : OutTx) (st : Nat) (bs : List Byte) (key : Nat) (s : State) : State :=
  if key < 65536 then
    let l := key / 16
    let slot := key % 16
    match (getLeaf s l).dma.find? fun o => decide (o.slot = slot) with
    | none => s
    | some o =>
      if x.phase = .read then
        if o.pcie ≠ x.tag + 1 then s
        else if st = stOK then dmaLand l { o with pcie := 0 } bs (modDma l slot (fun y => { y with pcie := 0 }) s)
        else dmaFail l st s
      else if st = stOK then dmaDone l slot s else dmaFail l st s
  else
    let k := key - 65536
    if x.phase = .read then loadAnswer k (.done st bs) s else if st = stOK then s else abortOn (k / 64) st s

/-- An outbound group or read ends with a status: the log, the leaf engines, or the block that made it (Table 1.7). -/
def endTx (x : OutTx) (st : Nat) (bs : List Byte) (s : State) : State :=
  let w := getWin s x.win
  let port := (routeOf s x.win).getD (x.win / 128)
  let s := dropTx x.tag s
  let s := if x.phase = .read ∨ st = stOK then s
    else brgLog { ktime := s.ktime, win := x.win, owner := w.owner, status := st, kind := 3, port := port, loc := x.addr, len := x.len, remote := remoteOf w x.addr } 0 s
  let s := x.waits.eraseDups.foldl (fun s k => wakeWaiter x st bs k s) s
  if st = stOK then s else if x.ini < 4096 then s else unitStops x.ini st s

/-- A completion that comes too late is discarded, counted and logged (R460). -/
def discard (x : OutTx) (s : State) : State :=
  let w := getWin s x.win
  let port := (routeOf s x.win).getD (x.win / 128)
  let slot := s.cross.next
  let s := brgLog { ktime := s.ktime, win := x.win, owner := w.owner, status := stTIMEOUT, kind := 1, port := port, loc := x.addr, len := x.len, remote := remoteOf w x.addr } 0 (dropTx x.tag s)
  let s := modCross s fun c => { c with discards := tmod c.discards w.owner (fun y => y.add 1), discardAll := c.discardAll.add 1 }
  event (0x8000 + port) 0x5002 w.owner (leBytes 1 x.win ++ leBytes 1 port ++ leBytes 2 slot ++ leBytes 4 (ktSince s x.sentAt / 100 - w.timeout)) s

/-- The status that a completion carries (Table 15.6). -/
def cplStatus (win : Nat) (c : PcieCpl) : Nat :=
  match c with
  | .peer b => if 128 ≤ win then b.toNat else stOK
  | .sc _ => stOK
  | .ur => stDENIED
  | .ca => stABORTED
  | .ep => stDATA_ERROR

/-- WRITE_GROUP_END (R458): 200 ns with no further write of the group. -/
def execWriteGroupEnd (win : BitVec 8) (ini : BitVec 16) (s : State) : Res :=
  .next (endGroups ini.toNat (fun g => decide (g.win = win.toNat)) s)

/-- PCIE_COMPLETION (R458, R460): for a confirm read, an outbound read, or one that has ended TIMEOUT. -/
def execPcieCompletion (tag : Nat) (c : PcieCpl) (s : State) : Res :=
  .next (match s.cross.out.find? fun x => decide (x.tag = tag) with
    | none => s
    | some x =>
      let w := getWin s x.win
      match x.phase with
      | .gather => s
      | .late => discard x s
      | .confirm => endTx x (match c with | .sc (b :: _) => (if 128 ≤ x.win then b.toNat else stOK) | c => cplStatus x.win c) [] s
      | .read =>
        match c with
        | .sc bs => if bs.length = x.len then endTx x stOK (throughLanes w bs) s else s
        | .peer b => if b.toNat = 0 then s else endTx x b.toNat [] s
        | c => endTx x (cplStatus x.win c) [] s)

/-- OUTBOUND_READ_TIMEOUT (R458, R460): no full completion within TIMEOUT_US. -/
def execOutboundReadTimeout (tag : Nat) (s : State) : Res :=
  .next (match s.cross.out.find? fun x => decide (x.tag = tag) with
    | none => s
    | some x =>
      if x.phase = .gather ∨ x.phase = .late ∨ ktSince s x.sentAt < (getWin s x.win).timeout * 100 then s
      else
        let s := endTx x stTIMEOUT [] s
        modCross s fun c => { c with out := c.out ++ [{ x with phase := .late, waits := [] }] })

/-! ### Links (R433, R450, R451, R466, R467, R506) -/

/-- A link goes down: what is in flight on it ends TIMEOUT, and windows stay open (R467). -/
def linkDown (port : Nat) (s : State) : State :=
  let onIt := s.cross.out.filter fun x => decide (routeOf s x.win = some port)
  let s := modCross s fun c => { c with port := tmod c.port port fun p => { p with up := false, held := false } }
  let s := modBoot s fun b => { b with linkUp := tput b.linkUp (8 + port) 0 }
  let s := crossEvent port 1 s
  onIt.foldl (fun s x => if x.phase = .late then dropTx x.tag s else endTx x stTIMEOUT [] s) s

/-- PCIE_LINK_DOWN (R467). -/
def execPcieLinkDown (port : Fin 3) (s : State) : Res :=
  .next (if (getPcie s port.val).up then linkDown port.val s else s)

/-- PCIE_PERST (R451): in endpoint mode the partner resets the port and its link; it wakes the part from Rest and every
shallower state (R57, Table 2.4). -/
def execPciePerst (s : State) : Res :=
  .next (
    if !s.pw.supplied ∨ s.boot.held ∨ !s.boot.endpoint then s
    else
      let s := wakeBy 9 1 s
      let s := if (getPcie s 0).up then linkDown 0 s else s
      modCross s fun c => { c with port := tmod c.port 0 fun p => { p with dState := 0, l2 := false } })

/-- Whether the secure world holds a block of a class of event 0x4003 (Table 2.6). -/
def classHeld (s : State) (k : Nat) : Bool :=
  match k with
  | 0 => (secureEst s).isSome && (leafIdx.any fun l => decide (l < s.world.lwm) && decide ((getLeaf s l).kind = .enabled))
  | 1 => decide (s.world.clusters ≠ 0)
  | 2 => decide ((getParty s 16).grant.ways ≠ 0)
  | 4 => (List.range 6).any fun i => decide (blockOwner s 4 i = 17)
  | 5 => (List.range 16).any fun i => decide (blockOwner s 5 i = 17)
  | 6 => (List.range 64).any fun i => decide (blockOwner s 6 i = 17)
  | 7 => (List.range 4).any fun i => decide (blockOwner s 7 i = 17)
  | _ => true

/-- The secure-held blocks ignore a request of the host port's link partner, 0x12: one event for each class; the instance and the
request that it names are free values (R433, R449). -/
def pmDenied (s : State) : State :=
  ((List.range 9).filter (classHeld s)).foldl (fun s k =>
    let i := draw s
    let r := draw i.2
    secureHeld k (Config.freeNat i.1) 0x12 (Config.freeNat r.1 % 4) r.2) s

/-- PCIE_POWER_MANAGEMENT (R433): the link partner of an endpoint changes the function's D-state, or the link goes to L2. The
request completes at the link; one that asks for power to go meets the secure-held blocks, which keep their state. -/
def execPciePowerManagement (r : PciePm) (s : State) : Res :=
  .next (
    if !s.pw.supplied ∨ s.boot.held ∨ !s.boot.endpoint ∨ !(getPcie s 0).up then s
    else
      let down := match r with | .dState d => decide (d.val ≠ 0) | .l2 => true
      let s := modCross s fun c => { c with port := tmod c.port 0 fun p => match r with | .dState d => { p with dState := d.val } | .l2 => { p with l2 := true } }
      if down then pmDenied s else s)

/-- PEER_LINK_UP (R466): the ends exchange ring size and number; a link with the wrong partner is held, with cause 2. -/
def execPeerLinkUp (port : Fin 2) (n d : Nat) (s : State) : Res :=
  let p := port.val + 1
  let c := s.cross
  let want := if p = 1 then (c.device + 1) % c.count else (c.device + c.count - 1) % c.count
  .next (
    if !s.pw.supplied ∨ s.boot.held ∨ s.boot.phase < 5 ∨ s.pw.st = .rest ∨ s.pw.st = .park ∨ s.boot.phase = 11 ∨ (getPcie s p).up then s
    else crossUp p (if n = c.count ∧ 2 ≤ n ∧ d = want then 0 else 2) (modBoot s fun b => { b with linkUp := tput b.linkUp (8 + p) 1 }))

/-- LINK_RETRAIN (R506): a PCIe or Ethernet link that is down trains again. A peer link that trains waits for its partner's
message (`execPeerLinkUp`). -/
def execLinkRetrain (unit : Fin 20) (ok : Bool) (s : State) : Res :=
  let u := unit.val
  .next (
    if u < 8 ∨ u = 19 ∨ !s.pw.supplied ∨ s.boot.held ∨ s.boot.phase < 5 ∨ s.boot.phase = 11 ∨ s.pw.st = .rest ∨ s.pw.st = .park ∨
        tget s.boot.linkUp u = 1 then s
    else
      let n := min 255 (tget s.boot.attempts u + 1)
      let s := trainEvent u ok n (modBoot s fun b => { b with attempts := tput b.attempts u n })
      if ok then (if 11 ≤ u then tsnEvent (u - 7) (linkIsUp u s) else linkIsUp u s)
      else if 11 ≤ u then tsnEvent (u - 7) s else crossEvent (u - 8) 0 s)

/-! ### Messages (R456, R465, R466) -/

/-- Bytes of a window that WINDOW_OPEN asks for. -/
def winBytes (m : Msg) : Nat := fld m 24 4 * 4096

/-- The fields of Table 15.4 out of range. -/
def winBad (s : State) (m : Msg) : List (Nat × Bool) :=
  let k := fld m 1 1
  let inb := bitOf k 0
  let peer := bitOf k 1
  let fl := fld m 3 1
  let dev := fld m 2 1
  let us := fld m 4 4
  let n := winBytes m
  let q := fld m 28 4
  [(0, decide (16 < fld m 0 1)), (1, decide (4 ≤ k)), (2, if peer then (if inb then decide (16 ≤ dev) else decide (4 ≤ dev)) else decide (dev ≠ 0)),
    (3, decide (16 ≤ fl) || decide (fl % 4 = 3) || (bitOf fl 2 && !(inb && !peer && !s.boot.endpoint))),
    (4, decide (us ≠ 0) && (decide (us < 50) || decide (50000 < us))), (8, decide (fld m 8 8 % 4096 ≠ 0)),
    (16, decide (fld m 16 8 % 4096 ≠ 0) || ((inb || peer) && decide (2 ^ 36 < fld m 16 8 + n))), (24, decide (n = 0) || decide (2 ^ 36 < n)),
    (28, bitsOf q 30 18 != 0 || (bitOf q 31 && !qForm s (q % 2 ^ 18) 1 1 (some 8) none))]

/-- Whether the local range or target is one that the window may have (R454 to R456). -/
def winAllowed (s : State) (m : Msg) : Bool :=
  let k := fld m 1 1
  let a := fld m 8 8
  let n := winBytes m
  let dev := fld m 2 1
  if bitOf k 0 then winTarget s (fld m 0 1) a n
  else if bitOf k 1 then
    let b := 0x4000000000 + dev * 0x1000000000
    decide (b ≤ a) && decide (a + n ≤ b + 0x1000000000) && decide (dev ≠ s.cross.device)
  else decide (0x3000000000 ≤ a) && decide (a + n ≤ 0x4000000000)

/-- WINDOW_OPEN (R456). The slot is the lowest free one (assumption 57). -/
def ownWindowOpen : Own := fun m d s =>
  let o := fld m 0 1
  let k := fld m 1 1
  let base := (if bitOf k 1 then 128 else 0) + (if bitOf k 0 then 64 else 0)
  let ids := (List.range 64).map (· + base)
  let a := fld m (if bitOf k 0 then 16 else 8) 8
  let n := winBytes m
  let q := fld m 28 4
  let us := fld m 4 4
  let start := fun (w : Window) => if bitOf k 0 then w.remote else w.loc
  let overlaps := ids.any fun id => let w := getWin s id; w.live && decide (start w < a + n) && decide (a < start w + w.size)
  checked (winBad s m) s
  (refusedBy [(decide (d.party ≠ 16) && decide (o ≠ d.party), stDENIED), (bitOf q 31 && !qReq s o (q % 2 ^ 18), stDENIED), (!winAllowed s m, stDENIED),
      (overlaps, stBUSY)] s
   (match ids.find? fun id => !(getWin s id).live with
    | none => say (noRes 1) s
    | some id =>
      if bitOf k 1 ∧ s.cross.count < 2 then say (sts stNOT_READY) s
      else
        let w : Window := { live := true, owner := o, device := fld m 2 1, flags := fld m 3 1, timeout := if us = 0 then 10000 else us, loc := fld m 8 8
                            remote := fld m 16 8, size := n, errQ := if bitOf q 31 then q % 2 ^ 18 + 1 else 0 }
        say (okWith (leBytes 1 id)) (winEvent id 0 (modCross s fun c => { c with win := tput c.win id w }))))

/-- WINDOW_OPEN (R456). -/
def execWindowOpen (m : Msg) (s : State) : Res := .next (serve 0x0900 isParty (lenIs 32) ownWindowOpen m s)

/-- WINDOW_CLOSE (R465). -/
def ownWindowClose : Own := fun m d s =>
  let id := fld m 0 1
  let w := getWin s id
  checked [(1, rsvBad m 1 7)] s
  (refusedBy [(!w.live, stNOT_READY), (decide (d.party ≠ 16) && decide (w.owner ≠ d.party), stDENIED)] s
   (let s := closeWin id s
    (modCross s fun c => { c with win := tmod c.win id fun w => { w with pend := w.pend ++ [d] } }, none)))

/-- WINDOW_CLOSE (R465). -/
def execWindowClose (m : Msg) (s : State) : Res := .next (serve 0x0901 isParty (lenIs 8) ownWindowClose m s)

/-- WINDOW_DRAIN_END (R465): nothing of a closing window is outstanding; its slot is free. -/
def execWindowDrainEnd (win : BitVec 8) (s : State) : Res :=
  let id := win.toNat
  let w := getWin s id
  .next (
    if !w.closing ∨ s.cross.out.any (fun x => decide (x.win = id) && decide (x.phase ≠ .late)) then s
    else
      let s := winEvent id 2 s
      finishAll w.pend ok (modCross s fun c => { c with
        win := tput c.win id {}, out := c.out.filter fun x => decide (x.win ≠ id), bad := tclear c.bad (id * 65536) 65536 }))

/-- PEER_LINK (R466): the setting is in force once the answer is out; the links then train on their own. -/
def ownPeerLink : Own := fun m d s =>
  let n := fld m 0 1
  let e := fld m 1 1
  checked [(0, decide (n = 0) || decide (4 < n)), (1, decide (n ≤ e)), (2, rsvBad m 2 6)] s
  (if s.cross.win.any (fun x => x.2.live && decide (128 ≤ x.1)) then say (sts stBUSY) s
   else
     let s := [1, 2].foldl (fun s p => if (getPcie s p).up then linkDown p s else s) s
     (modCross s fun c => { c with count := n, device := e, linkPend := some d }, none))

/-- The setting is in force. -/
def linkSet (s : State) : State :=
  match s.cross.linkPend with
  | none => s
  | some d => finish d ok (modCross s fun c => { c with linkPend := none })

/-- PEER_LINK (R466). -/
def execPeerLink (m : Msg) (s : State) : Res := .next (linkSet (serve 0x0902 isGs (lenIs 8) ownPeerLink m s))

end Sys2Proof.Machine
end

