-- ==== Sys2Proof/Machine/Target.lean ====
section
/-! DEFINITION. Transactions that reach their targets, and the accesses to queue-pointer slots, doorbell pages and the error
log (R9, R10, R31 to R33, R142 to R146, R464, R542). -/

namespace Sys2Proof.Machine

/-- The posted write that a refusal of the Crossing's own transaction stands for. -/
def crossReq (t : Access) (port : Fin 3) : PcieReq :=
  { port := port, bar0 := false, off := 0, write := t.write, posted := t.posted, len := t.len, data := t.data, requester := 0, device := 0 }

/-- What a transaction's end does to its initiator (Tables 1.7 and 15.6): a refusal stops a unit, and the Crossing logs it. -/
def initiatorSees (t : Access) (st : Nat) (s : State) : State :=
  match t.ini with
  | .crossing port w => inFail (crossReq t port) (some w.toNat) st t.addr.toNat s
  | i => unitStops (whoOf s i).code st s

/-- An address of a doorbell page, which the Kettle keeps in reach in Doze as well (Table 2.4). -/
def doorReach (s : State) (a : Nat) : Bool :=
  decide (0x2000000000 ≤ a) && decide (a < 0x2000012000) && s.pw.supplied && !s.boot.held && decide (s.pw.st ≠ .rest) && decide (s.pw.st ≠ .park)

/-- An address of a leaf's scratchpad, whose mesh stop stays powered and answers in Doze as well (R86). -/
def stopReach (s : State) (a : Nat) : Bool :=
  decide (0x1000000000 ≤ a) && decide (a < 0x1015000000) && s.pw.supplied && !s.boot.held && !s.pw.pllLost && decide (s.pw.st ≠ .rest) &&
    decide (s.pw.st ≠ .park)

/-- A transaction of an initiator: the target accepts or refuses it, and the answer goes back. A bus transaction lies within
one 64-byte line, or is a whole read or write of up to 4 KiB of the Crossing. -/
def transact (t : Access) (s : State) : State :=
  let a := t.addr.toNat
  if t.len = 0 ∨ 4096 < t.len ∨ (t.write ∧ t.data.length ≠ t.len) ∨ !(fabricUp s || doorReach s a || stopReach s a) then s
  else
    let r := access t.ini t.write a t.len t.data [] s
    match r.2 with
    | .waits => s
    | .sent _ => respond stPENDING [] r.1
    | .done st bs =>
      let s := respond st bs r.1
      if st = stOK then afterWrite t.write a s else initiatorSees t st s

/-- An access to a register at an address, as `b` makes it. -/
def regAcc (b : BusAcc) (write : Bool) (base v : Nat) : Access :=
  { ini := b.ini, write := write, posted := false, addr := BitVec.ofNat 48 (base + b.off % 8), len := min b.size 64
    data := if write then leBytes (min b.size 64) v else [] }

/-- Base of a queue's pointer slot (R142). -/
def slotBase (q : Nat) : Nat := 0x2100000000 + q * 64
/-- Base of a party's doorbell page (Table 1.5). -/
def pageBase (p : Party) : Nat := 0x2000000000 + pidx p * 0x1000

/-- TARGET_ACCESS (R31, R32). -/
def execTargetAccess (t : Access) (s : State) : Res := .next (transact t s)

/-- QPT_TAIL_WRITE (R143, R542). -/
def execQptTailWrite (b : BusAcc) (q : BitVec 18) (v : BitVec 64) (s : State) : Res :=
  .next (transact (regAcc b true (slotBase q.toNat) v.toNat) s)

/-- QPT_HEAD_WRITE (R143, R542). -/
def execQptHeadWrite (b : BusAcc) (q : BitVec 18) (v : BitVec 64) (s : State) : Res :=
  .next (transact (regAcc b true (slotBase q.toNat + 8) v.toNat) s)

/-- DBL_SUBMIT_WRITE (R145, R542). -/
def execDblSubmitWrite (b : BusAcc) (page : Party) (v : BitVec 64) (s : State) : Res :=
  .next (transact (regAcc b true (pageBase page) v.toNat) s)

/-- DBL_MBOX_RING (R358). -/
def execDblMboxRing (b : BusAcc) (page : Party) (v : BitVec 64) (s : State) : Res :=
  .next (transact (regAcc b true (pageBase page + 8) v.toNat) s)

/-- DBL_NOTIFY_READ (R146). -/
def execDblNotifyRead (b : BusAcc) (page : Party) (s : State) : Res :=
  .next (transact (regAcc b false (pageBase page + 16) 0) s)

/-- RC_FIELD_READ (R10): the read returns the register and clears its RC field. -/
def execRcFieldRead (b : BusAcc) (r : RcReg) (s : State) : Res :=
  let base := match r with
    | .qptPushed q => slotBase q.toNat + 0x28
    | .qptPopped q => slotBase q.toNat + 0x30
    | .brgCount => 0x2300000008
    | .brgDiscard => 0x2300000010
  .next (transact (regAcc b false base 0) s)

/-- REGISTER_WRITE (R9, R10): W1C bits clear, read-only registers keep their value, and the error log refuses. -/
def execRegisterWrite (b : BusAcc) (r : WrReg) (v : BitVec 64) (s : State) : Res :=
  let base := match r with
    | .qptStat q => slotBase q.toNat + 0x20
    | .qptReadOnly q off => slotBase q.toNat + off.toNat
    | .dblStatus p => pageBase p + 0x18
    | .dblReadOnly p off => pageBase p + off.toNat
    | .brgLog off => 0x2300000000 + off.toNat
  .next (transact (regAcc b true base v.toNat) s)

end Sys2Proof.Machine
end

