-- ==== Sys2Proof/Machine/Memory.lean ====
section
/-! DEFINITION. The memory controllers, the Strainers and the memory messages (R335 to R353, R431). -/

namespace Sys2Proof.Machine

/-- STRAINER_ARBITRATE (R348): one FCLK of a Strainer. -/
def execStrainerArbitrate (cg : Fin 8) (s : State) : Res := .next (if fabricUp s then strainerCycle cg.val s else s)

/-- DRAM answers: it is supplied, and not in self-refresh (R338). -/
def dramOn (s : State) : Bool :=
  s.pw.supplied && !s.boot.held && decide (6 ≤ s.boot.phase) && decide (s.boot.phase ≠ 11) && decide (s.pw.st ≠ .rest) && decide (s.pw.st ≠ .park)

/-- PATROL_SCRUB (R338): the patrol reads one line of its channel group, numbered from the group's first. An uncorrectable
error writes event 0x2003 with source 2 and changes nothing; Table 1.9 has no initiator for the patrol, so the argument is a
free value. -/
def execPatrolScrub (cg : Fin 8) (line : Nat) (s : State) : Res :=
  let c := cg.val
  let l := c * (cgBytes s / 64) + line
  .next (
    if !dramOn s ∨ cgBytes s / 64 ≤ line then s
    else
      let s := strainerIn c .maint none 64 s
      let x := linkCross false l s
      let s := x.1
      match if x.2 then 2 else tget s.mem.lineErr l with
      | 0 => s
      | 1 => dramCorrected l s
      | _ =>
        let d := freeNum s
        event (srcMc c) 0x2003 noParty (leBytes 2 d.1 ++ leBytes 6 (l * 64) ++ leBytes 1 2) d.2)

/-- CHANNEL_FAIL (R339): a memory fault in the sense of R105 for the estates whose channel groups include it. -/
def execChannelFail (cg : Fin 8) (ch : Fin 4) (silent : Bool) (s : State) : Res :=
  let c := cg.val
  .next (
    if !dramOn s ∨ bitOf (getCg s c).failed ch.val then s
    else
      let s := event (srcMc c) 0x2005 noParty (leBytes 1 c ++ leBytes 1 ch.val ++ leBytes 1 (b2n silent))
        (modCg s c fun x => { x with failed := x.failed ||| 2 ^ ch.val })
      settle (sharedFault ((estates s).filter fun e => bitOf (getEst s e).desc.cg c) (srcMc c) s))

/-- The lines that a cache operation covers (R344, R352). -/
def opCovers (s : State) (o : CacheOp) (key line : Nat) : Bool :=
  if o.byWays then bitOf o.ways (key % 16) && bitOf (getParty s o.pend.party).grant.cg (key / 65536)
  else decide (o.lo ≤ line) && decide (line < o.lo + o.n)

/-- CACHE_OP_DONE (R344): the party's oldest operation has written back every dirty line in scope. -/
def execCacheOpDone (party : Party) (s : State) : Res :=
  .next (match s.mem.ops.find? fun o => decide (o.pend.party = pidx party) with
    | none => s
    | some o =>
      if !fabricUp s then s
      else
        let s := cleanLines (opCovers s o) o.inval s
        finish o.pend ok { s with mem := { s.mem with ops := s.mem.ops.erase o } })

/-- Zeroes a granule: no line of it stays in the cache, and every line has a fresh code (R431, R336). -/
def zeroGranule (g : Nat) (s : State) : State :=
  let n := 0x4000000 / 64
  let s := cleanLines (fun _ l => decide (g * n ≤ l) && decide (l < (g + 1) * n)) true s
  let s := memZero s (g * 0x4000000) 0x4000000
  { s with mem := { s.mem with lineErr := tclear s.mem.lineErr (g * n) n, lastOwner := tput s.mem.lastOwner g 0 } }

/-- GRANULE_ZEROED (R431): the granule that its channel group zeroes now is done, and grants that waited move on. -/
def execGranuleZeroed (granule : Nat) (s : State) : Res :=
  let grp := fun (g : Nat) => cgOf s (g * 0x4000000)
  .next (
    if !fabricUp s ∨ (s.mem.zeroing.find? fun g => decide (grp g = grp granule)) ≠ some granule then s
    else
      let s := zeroGranule granule s
      settle { s with mem := { s.mem with zeroing := s.mem.zeroing.filter fun g => decide (g ≠ granule) } })

/-! ### Messages (R351 to R353) -/

/-- MEM_WAYS_SET (R341, R351). -/
def ownMemWaysSet : Own := fun m d s =>
  let w := fld m 0 2
  checked [(2, rsvBad m 2 2)] s
  (if w &&& (reqGrant s d.party).ways ≠ w then say (sts stDENIED) s
   else say ok (modParty s d.party fun t => { t with memWays := some w }))

/-- MEM_WAYS_SET (R351). -/
def execMemWaysSet (m : Msg) (s : State) : Res := .next (serve 0x0400 isParty (lenIs 4) ownMemWaysSet m s)

/-- MEM_CACHE_OP (R352). -/
def ownMemCacheOp : Own := fun m d s =>
  let op := fld m 0 1
  let byWays := bitOf op 1
  let ways := fld m 2 2
  let a := fld m 8 6
  let n := fld m 16 8
  let g := reqGrant s d.party
  checked [(0, decide (4 ≤ op)), (1, rsvBad m 1 1), (2, !byWays && decide (ways ≠ 0)), (4, rsvBad m 4 4),
      (8, if byWays then decide (a ≠ 0) else decide (a % 64 ≠ 0)), (14, rsvBad m 14 2),
      (16, if byWays then decide (n ≠ 0) else decide (n % 64 ≠ 0) || decide (n = 0))] s
  (if (if byWays then decide (ways &&& g.ways ≠ ways) else !(decide (a + n ≤ dramEnd s) && inRanges g.dram a n fun _ => true)) then say (sts stDENIED) s
   else
     let o : CacheOp := { pend := d, inval := bitOf op 0, byWays := byWays, ways := ways, lo := a / 64, n := n / 64 }
     ({ s with mem := { s.mem with ops := s.mem.ops ++ [o] } }, none))

/-- MEM_CACHE_OP (R352). -/
def execMemCacheOp (m : Msg) (s : State) : Res := .next (serve 0x0401 isParty (lenIs 24) ownMemCacheOp m s)

/-- MEM_RANGE_SET (R346).
The order of its answers: DESIGN CHOICE, assumption 117. -/
def ownMemRangeSet : Own := fun m d s =>
  let r := fld m 0 1
  let cls := fld m 1 1
  let b := fld m 4 2
  let n := fld m 6 2
  let t := fld m 8 4
  let g := reqGrant s d.party
  checked [(0, decide (15 < r))] s
  (if !bitOf g.ranges r then say (sts stDENIED) s
   else checked [(1, decide (4 ≤ cls)), (2, decide (2 ≤ fld m 2 1)), (3, rsvBad m 3 1), (6, decide (n = 0)),
      (8, if cls = 1 then decide (t < 20) || decide (10000 < t) else decide (t ≠ 0)), (12, rsvBad m 12 4)] s
   (if !(inRanges g.dram (b * 0x4000000) (n * 0x4000000) fun _ => true) then say (sts stDENIED) s
    else say ok (modRange s r fun x => { x with cls := cls, noalloc := bitOf (fld m 2 1) 0, base := b, count := n, target := t, m := 0, missed := false })))

/-- MEM_RANGE_SET (R346). -/
def execMemRangeSet (m : Msg) (s : State) : Res := .next (serve 0x0402 isParty (lenIs 16) ownMemRangeSet m s)

/-- A counter's 8 bytes (R11). -/
def statBytes (c : Stat) : List Byte := leBytes 8 c.val
/-- A range's record of MEM_STATS. -/
def rangeStats (s : State) (r : Nat) : List Byte :=
  let x := getRange s r
  leBytes 1 r ++ leBytes 7 0 ++ statBytes x.reqs ++ statBytes x.bytes ++ statBytes x.lat ++ statBytes x.misses
/-- A channel group's record of MEM_STATS. -/
def cgStats (s : State) (c : Nat) : List Byte :=
  let x := getCg s c
  leBytes 1 c ++ leBytes 7 0 ++ statBytes (statSum (x.linkCorr.map (·.2))) ++ statBytes x.corr ++ statBytes x.uncorr ++ statBytes x.rtOver ++ statBytes x.beFloor ++
    statBytes x.maintFloor ++ statBytes x.hits ++ statBytes x.misses

/-- The ranges and the channel groups that MEM_STATS gives a party: those of its grant, and every one to GS (R353). -/
def statRanges (s : State) (p : Nat) : List Nat := (List.range 16).filter fun r => decide (p = 16) || bitOf (getParty s p).grant.ranges r
def statCgs (s : State) (p : Nat) : List Nat := (List.range 8).filter fun c => decide (p = 16) || bitOf (getParty s p).grant.cg c
/-- The payload of MEM_STATS. -/
def memStats (s : State) (p : Nat) : List Byte :=
  leBytes 1 (statRanges s p).length ++ leBytes 1 (statCgs s p).length ++ leBytes 6 0 ++ (statRanges s p).flatMap (rangeStats s) ++
    (statCgs s p).flatMap (cgStats s)

/-- MEM_STATS (R350, R353): a read clears OVF (R10, R11), CLEAR the counters. -/
def ownMemStats : Own := fun m d s =>
  let rs := statRanges s d.party
  let cs := statCgs s d.party
  let body := memStats s d.party
  checked [(0, decide (2 ≤ fld m 0 1)), (1, rsvBad m 1 3)] s
  (let g := fun (c : Stat) => if bitOf (fld m 0 1) 0 then {} else c.read
   let s := rs.foldl (fun s r => modRange s r fun x => { x with reqs := g x.reqs, bytes := g x.bytes, lat := g x.lat, misses := g x.misses }) s
   let s := cs.foldl (fun s c => modCg s c fun x => { x with
     linkCorr := tmap g x.linkCorr, corr := g x.corr, uncorr := g x.uncorr, rtOver := g x.rtOver, beFloor := g x.beFloor
     maintFloor := g x.maintFloor, hits := g x.hits, misses := g x.misses }) s
   say (okWith body) s)

/-- MEM_STATS (R353). -/
def execMemStats (m : Msg) (s : State) : Res := .next (serve 0x0403 isParty (lenIs 4) ownMemStats m s)

end Sys2Proof.Machine
end

