-- ==== Sys2Proof/Machine/Firm.lean ====
section
/-! DEFINITION. Signed images, firmware staging and activation, microcode and calibration (R380 to R385, R390 to R392,
R436 to R438). -/

namespace Sys2Proof.Machine

/-! ### Signed images (R436, R437) -/

/-- Bytes of a signed header. -/
def hdrBytes : Nat := 17408

/-- Offset of the first field of a signed image that breaks Table 14.6: KIND `kind`, a level up to `levels`, `n` bytes in all. -/
def hdrBad (kind levels n : Nat) (h : List Byte) : Option Nat :=
  firstBad [(0, decide (field h 0 4 ≠ 0x5A534731)), (4, decide (field h 4 2 ≠ kind)), (6, decide (kind ≠ 1) && decide (field h 6 2 ≠ 0)),
    (12, decide (levels < field h 12 2)), (14, decide (4 ≤ field h 14 1)), (15, decide (2 ^ (field h 14 1 % 4) ≤ field h 15 1)),
    (16, decide (hdrBytes + field h 16 4 ≠ n)), (20, decide (field h 20 4 ≠ 0)), (504, decide (field h 504 8 ≠ 0)),
    (17120, decide (field h 17120 288 ≠ 0))]

/-- SHA-384 of bytes, as 48 bytes. -/
def sha (bs : List Byte) : List Byte := ((Config.sha384 bs) ++ leBytes 48 0).take 48

/-- Whether an image passes R436 for a key set and a rollback counter. -/
def accepted (s : State) (set counter : Nat) (img : List Byte) : Bool :=
  Config.signed set (img.take hdrBytes) && !bitOf (tget s.firm.revoked set) (field img 14 1 % 4) &&
    decide (tget s.firm.counters counter ≤ field img 12 2) && decide (sha (img.drop hdrBytes) = (img.drop 24).take 48)

/-- What verification of an image answers: status and DETAIL. -/
def verdict (s : State) (kind levels set counter : Nat) (img : List Byte) : Nat × Nat :=
  match hdrBad kind levels img.length img with
  | some o => (stBAD_ARG, 2 ^ 63 + o)
  | none => if accepted s set counter img then (stOK, 0) else (stDENIED, 0)

/-! ### Final answers that follow a PENDING at once (R361) -/

/-- Gives the final answers that are due. -/
def giveDue (s : State) : State :=
  s.firm.due.foldl (fun s x => finish x.1 { status := x.2.1, detail := x.2.2 } s) (modFirm s fun f => { f with due := [] })

/-- A final answer is due. -/
def addDue (d : Pend) (st detail : Nat) (s : State) : State := modFirm s fun f => { f with due := f.due ++ [(d, st, detail)] }

/-- The last answer of a message that PENDING answered, with its status and DETAIL. -/
def later (d : Pend) (v : Nat × Nat) (s : State) : State × Option Ans := (addDue d v.1 v.2 s, none)

/-! ### Staging (R380) -/

/-- FW_STAGE: the image is copied and verified as it stands; the slot that does not run takes it at FW_STAGE_DONE. -/
def ownFwStage : Own := fun m d s =>
  let a := fld m 0 6
  let n := fld m 8 4
  checked [(6, rsvBad m 6 2), (8, decide (n < hdrBytes) || decide (0x800000 < n)), (12, rsvBad m 12 4)] s
    (refusedBy [(!inReq s 16 a n, stDENIED),
        (!s.firm.committed || decide (s.firm.act ≠ .none) || s.firm.staging.isSome, stBUSY)] s
      (let img := memRead s a n
       let slot : Slot := { full := true, release := field img 8 4, afi := field img 6 2, rollback := field img 12 2, revoke := field img 15 1,
                            digest := sha img }
       (modFirm s fun f => { f with staging := some (d, slot, verdict s 1 64 0 0 img) }, none)))

/-- FW_STAGE, sent by GS. -/
def execFwStage (m : Msg) (s : State) : Res := .next (serve 0x0B00 isGs (lenIs 16) ownFwStage m s)

/-- Puts an image into the slot that does not run. -/
def putOther (x : Slot) (s : State) : State := modFirm s fun f => if f.slot = 0 then { f with b := x } else { f with a := x }

/-- FW_STAGE_DONE: staging ends. An image that failed its checks was not written; one whose read-back differs leaves the slot
without an image. -/
def execFwStageDone (readBackOk : Bool) (s : State) : Res :=
  .next (match s.firm.staging with
    | none => s
    | some (d, x, v) =>
      let s := modFirm s fun f => { f with staging := none }
      if v.1 ≠ stOK then finish d { status := v.1, detail := v.2 } s
      else if !readBackOk then finish d (sts stDATA_ERROR) (modFirm (putOther {} s) fun f => { f with staged := false })
      else
        let s := modFirm (putOther x s) fun f => { f with staged := true }
        let s := event srcAfzan 0xA001 noParty (leBytes 1 (1 - s.firm.slot) ++ leBytes 4 x.release ++ leBytes 2 x.afi) s
        finish d (okWith (leBytes 2 x.afi ++ leBytes 4 x.release)) s)

/-! ### Activation (R381 to R385) -/

/-- FW_ACTIVATE. With REVERT the window runs the committed slot's image; AFI_CHANGE concerns the staged image.
The order of its answers: DESIGN CHOICE, assumption 117. -/
def ownFwActivate : Own := fun m d s =>
  let fl := fld m 0 1
  let revert := bitOf fl 1
  checked [(0, decide (4 ≤ fl)), (1, rsvBad m 1 7)] s
    (refusedBy [((if revert then s.firm.committed else !s.firm.staged), stNOT_READY)] s
      (checked [(0, !revert && !bitOf fl 0 && decide ((otherSlot s).afi ≠ (runSlot s).afi))] s
        (refusedBy [(decide (2 ≤ pCode s.pw.st) || s.pw.thermalDoze || s.pw.forced, stNOT_READY),
            (decide (s.firm.act ≠ .none) || s.firm.staging.isSome, stBUSY)] s
          (modFirm s fun f => { f with act := .asked, actFlags := fl, actPend := d }, none))))

/-- FW_ACTIVATE, sent by GS. -/
def execFwActivate (m : Msg) (s : State) : Res := .next (serve 0x0B01 isGs (lenIs 8) ownFwActivate m s)

/-- Whether a running lent job's kill point lies within the next 20 ms at the divider in force (R231, R381). -/
def killNear (s : State) : Bool :=
  (estates s).any fun e => match jobOf s e with
    | some j => j.lent && decide (11 * j.durTclk ≤ 10 * (j.runTclk + 264000000 / s.pw.div))
    | none => false

/-- Every report being signed, or waiting, ends ABORTED (R445). -/
def abortAttests (s : State) : State :=
  let ds := s.firm.attest.map fun x => x.1
  finishAll ds (sts stABORTED) (modFirm s fun f => { f with attest := [], body := [] })

/-- ACTIVATION_WINDOW_OPEN (R381, R382): no recovery is in flight and no kill point is near. -/
def execActivationWindowOpen (s : State) : Res :=
  .next (
    if s.firm.act ≠ .asked ∨ s.jobs.recovery ≠ 0 ∨ killNear s ∨ s.safe.kettleFault ∨ !s.pw.supplied then s
    else
      let s := abortAttests (wakeFrom false 2 0xFF s)
      modFirm s fun f => { f with act := .open_, openedAt := s.ktime })

/-- After the window: held completions are written in order, then held notices, and recoveries start (Table 12.8). -/
def endWindow (s : State) : State :=
  let held := s.firm.heldOut
  let s := modFirm s fun f => { f with act := .none, actFlags := 0, actPend := {}, heldOut := [] }
  let s := held.foldl (fun s x => complete x.1 x.2 s) s
  let s := (List.range 18).foldl (fun s p => drainNotices p ((getParty s p).heldNotices.length) s) s
  settle ((recoveringEsts s).foldl (fun s e => repairEst e s) s)

/-- After an activation with AFI_CHANGE: a notice of KIND 1 to every party with a notice queue, and GX_IRQ_N (R385). -/
def afiNotices (s : State) : State :=
  let s := (List.range 17).foldl (fun s p => pushNotice p (noticeRec 0 0 0 1 0 0) s) s
  { s with safe := { s.safe with gxIrq := true } }

/-- The Kettle's time in the window. -/
def windowTime (s : State) : Nat := ktSince s s.firm.openedAt

/-- ACTIVATION_READY (R383): the new Afzan runs. A revert leaves the slot committed; an activation leaves it uncommitted. -/
def execActivationReady (s : State) : Res :=
  .next (
    if s.firm.act ≠ .open_ ∨ 2000000 ≤ windowTime s then s
    else
      let d := s.firm.actPend
      let revert := bitOf s.firm.actFlags 1
      let change := bitOf s.firm.actFlags 0
      let us := windowTime s / 100
      let s := modFirm s fun f => { f with slot := 1 - f.slot, committed := revert, staged := false, deriving_ := true }
      let s := { s with party := tmap (fun (p : PartySt) => { p with afiSeen := false }) s.party }
      let s := event srcAfzan 0xA002 noParty (leBytes 1 s.firm.slot ++ leBytes 4 (runSlot s).release ++ leBytes 4 us) s
      let s := if revert then event srcAfzan 0xA003 noParty (leBytes 1 s.firm.slot ++ leBytes 1 1) s else s
      let s := finish d ok (endWindow s)
      if change then afiNotices s else s)

/-- The old image resumes: event 0xA003 with cause 0, and FW_ACTIVATE ends ABORTED (R383). -/
def rollback (s : State) : State :=
  let d := s.firm.actPend
  let s := event srcAfzan 0xA003 noParty (leBytes 1 s.firm.slot ++ leBytes 1 0) s
  finish d (sts stABORTED) (endWindow s)

/-- ACTIVATION_WATCHDOG: step 5 is not reached within 20 ms of step 1 (R383). -/
def execActivationWatchdog (s : State) : Res :=
  .next (if s.firm.act ≠ .open_ ∨ windowTime s < 2000000 then s else rollback s)

/-- FW_COMMIT (R384, R438): counter 0 goes to the image's level and counter 3 to the highest level verified. -/
def ownFwCommit : Own := fun _ _ s =>
  refusedBy [(s.firm.committed, stNOT_READY)] s
    (let x := runSlot s
     let s := modFirm s fun f => { f with committed := true }
     let s := advance 3 (s.firm.level3 % 256) 1 (s.firm.level3 / 256) (advance 0 x.rollback 0 x.revoke s)
     say ok (event srcAfzan 0xA004 noParty (leBytes 1 s.firm.slot ++ leBytes 2 x.rollback) s))

/-- FW_COMMIT, sent by GS. -/
def execFwCommit (m : Msg) (s : State) : Res := .next (serve 0x0B02 isGs (lenIs 0) ownFwCommit m s)

/-! ### Microcode and calibration (R390, R391) -/

/-- UCODE_LOAD: the version is the low half of RELEASE (assumption 39). -/
def ownUcodeLoad : Own := fun m d s =>
  let a := fld m 0 6
  let n := fld m 8 4
  checked [(6, rsvBad m 6 2), (8, decide (n < hdrBytes) || decide (0x40000 < n)), (12, rsvBad m 12 4)] s
    (refusedBy [(!inReq s 16 a n, stDENIED), (s.firm.ucodeLoad.isSome, stBUSY)] s
      (let img := memRead s a n
       let v := verdict s 2 32 0 1 img
       if v.1 ≠ stOK then later d v s
       else
         let u : Ucode := { version := field img 8 2, rollback := field img 12 2, revoke := field img 15 1, digest := sha img }
         (modFirm s fun f => { f with ucodeLoad := some (d, u), deriving_ := true }, none)))

/-- UCODE_LOAD, sent by GS: leaves that can take the microcode at once do so after the PENDING. -/
def execUcodeLoad (m : Msg) (s : State) : Res :=
  let t := serve 0x0B04 isGs (lenIs 16) ownUcodeLoad m s
  .next (if taken 16 s t then settle (giveDue t) else t)

/-- Bytes of a calibration table's body (Table 12.11, R485). -/
def calBytes (kind : Nat) : Nat := if kind = 1 then 7 else if kind = 2 then 32 else 128

/-- The signed bytes of a VDD_LEAF trim table. -/
def trimOf (body : List Byte) : List Int := (List.range 7).map fun i => signedOf 8 (field body i 1)

/-- Offset of the first trim out of −10 to +10. -/
def trimBad (kind : Nat) (body : List Byte) : Option Nat :=
  if kind ≠ 1 then none
  else (List.range 7).find? fun i => let t := signedOf 8 (field body i 1); decide (t < -10) || decide (10 < t)

/-- The table comes into force (R391). -/
def applyCal (kind : Nat) (img : List Byte) (s : State) : State :=
  let body := img.drop hdrBytes
  let s := modFirm s fun f => { f with cal := tput f.cal kind body }
  let s := if kind = 1 then modPw s fun p => { p with trim := trimOf body } else s
  event srcAfzan 0xA006 noParty (leBytes 1 kind ++ leBytes 4 (field img 8 4)) s

/-- CAL_LOAD: KIND 1 is of the vendor's key set, the others of the owner's (R437). -/
def ownCalLoad : Own := fun m d s =>
  let a := fld m 0 6
  let n := fld m 8 4
  let k := fld m 12 1
  checked [(6, rsvBad m 6 2), (8, decide (n = 0) || decide (0x10000 < n)), (12, decide (k = 0) || decide (4 ≤ k)), (13, rsvBad m 13 3)] s
    (checked [(8, decide (n ≠ hdrBytes + calBytes k))] s
      (refusedBy [(!inReq s 16 a n, stDENIED)] s
        (let img := memRead s a n
         let set := if k = 1 then 0 else 1
         let v := verdict s 3 32 set 2 img
         if v.1 ≠ stOK then later d v s
         else match trimBad k (img.drop hdrBytes) with
           | some o => later d (stBAD_ARG, 2 ^ 63 + hdrBytes + o) s
           | none => later d (stOK, 0) (advance 2 (field img 12 2) set (field img 15 1) (applyCal k img s)))))

/-- CAL_LOAD, sent by GS. -/
def execCalLoad (m : Msg) (s : State) : Res :=
  let t := serve 0x0B05 isGs (lenIs 16) ownCalLoad m s
  .next (if taken 16 s t then giveDue t else t)

/-! ### Alias keys (R442) -/

/-- ALIAS_DERIVED: the key engine has derived new alias keys. -/
def execAliasDerived (s : State) : Res :=
  .next (if s.firm.deriving_ then modFirm s fun f => { f with deriving_ := false, aliasGen := f.aliasGen + 1 } else s)

end Sys2Proof.Machine
end

