-- ==== Sys2Proof/Machine/SelfTest.lean ====
section
/-! DEFINITION. Self-test, pairs, safe states and the faults of the Kettle and the safety island (R356, R396, R397, R408 to R412,
R415 to R418). -/

namespace Sys2Proof.Machine

/-! ### Self-test (R408 to R412) -/

/-- Changes an estate's self-test record. -/
def modTest (s : State) (e : Nat) (f : SelfTest → SelfTest) : State := modEst s e fun x => { x with test := f x.test }

/-- The declared gap that holds the present moment on an LC estate with SOURCE 2 or 3: the time since its start and its start,
in switch-time units. -/
def gapAt (s : State) (e : Nat) : Option (Nat × Nat) :=
  let t := s.ktime * tenNs
  let x := (getEst s e).test
  let p := tget s.media.pipe x.pipe
  let per := if x.source = 2 then x.period * usUnit else if p.scan then framePeriod p.timing else 0
  let base := if x.source = 2 then 0 else p.latchAt * tenNs
  if per = 0 then none
  else
    let ph := ((t - base) + per - (x.offset * usUnit) % per) % per
    if ph < x.len * usUnit then some (ph, t - ph) else none

/-- Whether at least one slice, 250 µs, is left of a gap. -/
def gapLeft (s : State) (e : Nat) : Bool :=
  match gapAt s e with
  | some g => decide (g.1 + 250 * usUnit ≤ (getEst s e).test.len * usUnit)
  | none => false

/-- Counts a gap, or the remaining part of one, that is shorter than a slice: once for each gap (R410). -/
def noteSkip (e : Nat) (s : State) : State :=
  match gapAt s e with
  | none => s
  | some g =>
    let k := g.2 / tenNs + 1
    if gapLeft s e ∨ (getEst s e).test.skipAt = k then s
    else
      let s := modTest s e fun x => { x with skipAt := k }
      { s with jobs := { s.jobs with skipped := s.jobs.skipped.add 1 } }

/-- An LC record of the estate waits (R410). -/
def lcWaits (s : State) (e : Nat) : Bool :=
  s.jobs.waiting.any fun w => !queueBe s w.qid && (candidates s w.party false (recDual w.record) (recImg s w)).contains e

/-- Whether the rule for the estate's class and source lets a slice start (R410). -/
def sliceMay (s : State) (e : Nat) : Bool :=
  let x := getEst s e
  if x.desc.be then sliceDue s e
  else !lcWaits s e && (if x.test.source = 1 then decide (250 * usUnit ≤ horizon s e) else gapLeft s e)

/-- SELFTEST_SLICE_START (R410): at a job boundary. An estate stopped by SAFE_STATE is still tested. -/
def execSelftestSliceStart (e : Fin 16) (s : State) : Res :=
  let e := e.val
  .next (
    if !admitting s || !boundary s e || decide ((getEst s e).test.source = 0) then s
    else if sliceMay s e then modTest s e fun x => { x with running := true }
    else if 2 ≤ (getEst s e).test.source ∧ (getEst s e).desc.be = false then noteSkip e s
    else s)

/-- Event 0x3004, and the fence with cause SELF_TEST. -/
def sliceFail (e slice l : Nat) (s : State) : State :=
  fence l 4 (event srcAfzan 0x3004 (if e = 0xFF then noParty else (getEst s e).party) (leBytes 1 e ++ leBytes 2 l ++ leBytes 1 slice) s)

/-- A leaf in no estate failed a slice of the Kettle's own cycles; which slice is a free value (R412). -/
def ownFail (s : State) (l : Nat) : State := let d := draw s; sliceFail 0xFF (1 + Config.freeNat d.1 % 5) l d.2

/-- The next slice falls due; after the fifth the cycle ends (R408, R411). -/
def SelfTest.nextSlice (x : SelfTest) (now : Nat) : SelfTest :=
  if 4 ≤ x.next then { x with running := false, next := 0, cycleAt := now, overdue := false }
  else { x with running := false, next := x.next + 1 }

/-- SELFTEST_SLICE_END (R408, R412): leaves of the estate that failed its slice are fenced, and so are leaves in no estate that
failed a slice of the Kettle's own. -/
def execSelftestSliceEnd (e : Fin 16) (failed : List (Fin 168)) (s : State) : Res :=
  let e := e.val
  let bad := leafIdx.filter fun l => failed.any fun x => decide (x.val = l)
  let free := bad.filter fun l => (estOf s l).isNone && (decide ((getLeaf s l).kind = .enabled) || decide ((getLeaf s l).kind = .spare))
  let mine := bad.filter fun l => (getEst s e).leaves.contains l && decide ((getLeaf s l).kind = .enabled)
  let x := (getEst s e).test
  .next (
    let s := if admitting s then free.foldl ownFail s else s
    if !x.running then s
    else
      let s := modTest s e fun y => y.nextSlice s.ktime
      let s := if (getEst s e).desc.be ∨ x.source < 2 then s else noteSkip e s
      settle (mine.foldl (fun s l => sliceFail e (x.next + 1) l s) s))

/-- SELFTEST_OVERDUE (R411): DTI_US passes with the cycle unfinished. The Taster raises it once for the interval. -/
def execSelftestOverdue (e : Fin 16) (s : State) : Res :=
  let e := e.val
  let x := (getEst s e).test
  let t := ktSince s x.cycleAt
  .next (
    if !(getEst s e).live ∨ x.source = 0 ∨ x.overdue ∨ t < x.dti * 100 ∨ !s.pw.supplied then s
    else event srcTaster 0x3005 (getEst s e).party (leBytes 1 e ++ leBytes 1 (x.next + 1) ++ leBytes 4 (t / 100))
      (modTest s e fun y => { y with overdue := true }))

/-- The field checks of SELFTEST_GAPS after those of its estate (R409). -/
def gapsBad (s : State) (m : Msg) : List (Nat × Bool) :=
  let x := getEst s (fld m 0 1)
  let src := fld m 1 1
  let lc := fun (k : Nat) => !x.desc.be && decide (src = k)
  let frame := framePeriod (tget s.media.pipe (fld m 2 1)).timing
  let dti := fld m 16 4
  [(1, decide (4 ≤ src) || (lc 1 && decide (x.desc.mode = 0))), (2, lc 3 && decide (6 ≤ fld m 2 1)), (3, rsvBad m 3 1),
    (4, lc 2 && (decide (fld m 4 4 < 1000) || decide (10000000 < fld m 4 4))),
    (8, (lc 2 && decide (fld m 4 4 ≤ fld m 8 4)) || (lc 3 && decide (frame ≤ fld m 8 4 * usUnit))),
    (12, (lc 2 || lc 3) && (decide (fld m 12 4 = 0) || decide (1000000 < fld m 12 4))),
    (16, decide (dti ≠ 0) && (decide (dti < 5000) || decide (1000000 < dti))), (20, rsvBad m 20 4)]

/-- SELFTEST_GAPS (R409).
The order of its answers: DESIGN CHOICE, assumption 117. -/
def ownSelftestGaps : Own := fun m d s =>
  let e := fld m 0 1
  let x := getEst s e
  let dti := fld m 16 4
  checked [(0, decide (16 ≤ e) || !x.live)] s
    (refusedBy [(decide (x.party ≠ d.party), stDENIED)] s
      (checked (gapsBad s m) s
        (say ok (modTest s e fun t =>
          { source := fld m 1 1, pipe := fld m 2 1, period := fld m 4 4, offset := fld m 8 4, len := fld m 12 4,
            dti := if dti = 0 then 50000 else dti, next := 0, running := t.running, cycleAt := s.ktime, overdue := false }))))

/-- SELFTEST_GAPS, sent by any party. -/
def execSelftestGaps (m : Msg) (s : State) : Res := .next (serve 0x0701 isParty (lenIs 24) ownSelftestGaps m s)

/-! ### Pairs (R396, R397) -/

/-- Whether an estate is in a pair, formed or waiting to be. -/
def paired (s : State) (e : Nat) : Bool :=
  (pairOf s e).isSome || s.jobs.pairPend.any fun x => !x.2.1 && (decide (x.1.primary = e) || decide (x.1.partner = e))

/-- Whether either estate of a pair runs a job. -/
def pairRuns (s : State) (p : Pair) : Bool := (jobOf s p.primary).isSome || (jobOf s p.partner).isSome

/-- SAFETY_PAIR_SET.
The order of its answers: DESIGN CHOICE, assumption 117. -/
def ownSafetyPairSet : Own := fun m d s =>
  let a := fld m 0 1
  let b := fld m 1 1
  let w := fld m 4 4
  let x := getEst s a
  let y := getEst s b
  let gone := bitOf (fld m 2 1) 0
  checked [(0, decide (16 ≤ a) || !x.live), (1, decide (16 ≤ b) || (!gone && !y.live))] s
    (refusedBy [(decide (x.party ≠ d.party) || (!gone && decide (y.party ≠ d.party)), stDENIED)] s
      (checked [(2, decide (2 ≤ fld m 2 1)), (3, rsvBad m 3 1), (4, decide (w ≠ 0) && (decide (w < 50) || decide (100000 < w))), (8, rsvBad m 8 8)] s
        (if gone then
          match s.jobs.pairs.find? fun p => decide (p.primary = a) with
          | none => (s, some (badArg 0))
          | some p => if pairRuns s p then ({ s with jobs := { s.jobs with pairPend := s.jobs.pairPend ++ [(p, true, d)] } }, none)
              else say ok (dissolve p 0 s)
        else
          let p : Pair := { primary := a, partner := b, window := if w = 0 then 2000 else w }
          checked [(0, x.desc.be || paired s a), (1, decide (a = b) || y.desc.be || paired s b ||
              decide (x.leaves.length ≠ y.leaves.length) || decide (x.desc.secure ≠ y.desc.secure))] s
            (refusedBy [(decide (s.safe.injection ≠ 0x7F), stNOT_READY)] s
              (if pairRuns s p then ({ s with jobs := { s.jobs with pairPend := s.jobs.pairPend ++ [(p, false, d)] } }, none)
               else say ok (formPair p s))))))

/-- SAFETY_PAIR_SET, sent by any party. -/
def execSafetyPairSet (m : Msg) (s : State) : Res := .next (serve 0x0700 isParty (lenIs 16) ownSafetyPairSet m s)

/-! ### Faults of the Kettle and the safety island (R356, R383, R415) -/

/-- A Kettle fault: outside the activation window every estate halts and FAULT_N is asserted; inside it the watchdog restarts the
old image (R356, R383). -/
def kettleFault (cause : Nat) (s : State) : State :=
  if s.safe.kettleFault ∨ !s.pw.supplied ∨ s.boot.held ∨ s.pw.st = .rest then s
  else if s.firm.act = .open_ then rollback s
  else
    let s := { s with safe := { s.safe with kettleFault := true } }
    let s := assertFaultN 1 ((estates s).foldl (fun s e => haltEst e s) s)
    freezeMarker 1 (recoveryEst s) srcKeep (event srcKeep 0xA020 noParty (leBytes 1 cause) s)

/-- KETTLE_LOCKSTEP_MISMATCH. -/
def execKettleLockstepMismatch (s : State) : Res := .next (kettleFault 0 s)

/-- KETTLE_WATCHDOG_EXPIRY: 10 ms without a kick. -/
def execKettleWatchdogExpiry (s : State) : Res := .next (kettleFault 1 s)

/-- SAFETY_ISLAND_MISMATCH: the other pair asserts FAULT_N (R415). -/
def execSafetyIslandMismatch (pair : Fin 2) (s : State) : Res :=
  .next (
    if bitOf s.safe.pairFault pair.val ∨ !s.pw.supplied ∨ s.pw.st = .rest then s
    else assertFrom (0x2000 + (1 - pair.val)) 4 (modSafe s fun f => { f with pairFault := f.pairFault + 2 ^ pair.val }))

/-- SAFETY_ISLAND_HEARTBEAT_MISS (R415): a pair misses the Kettle's heartbeat, or the other pair's. It can assert FAULT_N; whether
it does is a free value. -/
def execSafetyIslandHeartbeatMiss (pair : Fin 2) (_fromKettle : Bool) (s : State) : Res :=
  .next (
    if bitOf s.safe.pairFault pair.val ∨ !s.pw.supplied ∨ s.pw.st = .rest then s
    else
      let d := draw s
      if Config.freeBool d.1 then assertFrom (0x2000 + pair.val) 4 d.2 else d.2)

/-! ### Safe states (R417, R418) -/

/-- Stops the named estates for new records. -/
def stopEsts (es : List Nat) (s : State) : State := es.foldl (fun s e => modEst s e fun x => { x with safeStop := true }) s

/-- Ends the running job of an estate ABORTED with DENIED; a job that waits for its replay ends too. -/
def denyJob (s : State) (e : Nat) : State :=
  let s := if (getEst s e).halted then s else abortJob e stDENIED s
  dropReplay e stABORTED stDENIED s

/-- Level 4: every estate halts. -/
def haltAll (s : State) : State :=
  let s := (estates s).foldl (fun s e => haltEst e s) s
  freezeMarker 5 (recoveryEst s) srcAfzan (assertFaultN 5 (modSafe s fun f => { f with halted := true }))

/-- Level 0 releases levels 1 to 3. -/
def releaseLevels (s : State) : State :=
  let s := (estates s).foldl (fun s e => modEst s e fun x => { x with safeStop := false }) s
  if 3 ≤ s.safe.level then releaseDoze s else s

/-- A request that SAFE_STATE supersedes ends ABORTED. -/
def supersede (s : State) : State :=
  match s.safe.levelPend with
  | some d => finish d (sts stABORTED) (modSafe s fun f => { f with levelPend := none })
  | none => s

/-- SAFE_STATE: the levels add up until level 0. -/
def ownSafeState : Own := fun m d s =>
  let l := fld m 0 1
  let mask := fld m 2 2
  checked [(0, decide (5 ≤ l)), (1, rsvBad m 1 1), (4, rsvBad m 4 4)] s
    (refusedBy [(decide (s.safe.level = 4), stBUSY)] s
      (let es := (estates s).filter fun e => bitOf mask e
       let named := decide (l = 1) || decide (l = 2)
       let s := event srcAfzan 0x3007 17 (leBytes 1 l ++ leBytes 2 mask) (supersede s)
       let s := if l = 0 then releaseLevels s else if named then stopEsts es s else s
       let s := if l = 2 then es.foldl denyJob s else if l = 3 then forceDoze s else if l = 4 then haltAll s else s
       let s := modSafe s fun f => { f with level := if l = 0 then 0 else max f.level l
                                            levelEst := if l = 0 then 0 else if named then f.levelEst ||| mask else f.levelEst }
       if l = 1 then (modSafe s fun f => { f with levelPend := some d }, none) else later d (stOK, 0) s))

/-- SAFE_STATE, sent by GX. -/
def execSafeState (m : Msg) (s : State) : Res :=
  let t := serve 0x0702 isGx (lenIs 8) ownSafeState m s
  .next (if taken 17 s t then settle (giveDue t) else t)

/-- Bit e for each estate that passes `f`. -/
def estMask (s : State) (f : Nat → Bool) : Nat := (((estates s).filter f).map fun e => 2 ^ e).sum

/-- FAULT_STATUS answer (Table 13.9). -/
def faultStatus (s : State) : List Byte :=
  leBytes 1 (b2n (decide (s.safe.causes ≠ 0))) ++ leBytes 1 s.safe.causes ++ leBytes 1 s.safe.injection ++
    leBytes 1 (if s.jobs.recovery = 0 then 0xFF else s.jobs.recovery - 1) ++ leBytes 2 (estMask s fun e => (getEst s e).held) ++
    leBytes 2 (estMask s fun e => (getEst s e).test.overdue) ++ leBytes 2 (estMask s fun e => decide ((getEst s e).test.source ≠ 0)) ++
    leBytes 2 (estMask s fun e => (pairOf s e).isSome) ++ leBytes 1 (spareCount s) ++ leBytes 1 s.safe.level ++ leBytes 2 0 ++
    statBytes s.jobs.mismatches ++ statBytes s.jobs.skipped

/-- FAULT_STATUS, sent by GS or GX: it clears nothing but the counters' OVF. -/
def ownFaultStatus : Own := fun _ _ s => say (okWith (faultStatus s)) { s with jobs := { s.jobs with mismatches := s.jobs.mismatches.read, skipped := s.jobs.skipped.read } }

/-- FAULT_STATUS. -/
def execFaultStatus (m : Msg) (s : State) : Res := .next (serve 0x0703 isGsGx (lenIs 0) ownFaultStatus m s)

end Sys2Proof.Machine
end

