-- ==== Sys2Proof/Machine/Messages.lean ====
section
/-! DEFINITION. The core messages: AFI_VERSION, MBOX_SET, IRQ_ROUTE, queues, templates, leaf counters, fences, grants and estates
(R140, R158, R212 to R220, R357, R364, R366, R369 to R373). -/

namespace Sys2Proof.Machine

/-! ### AFI_VERSION, MBOX_SET, IRQ_ROUTE (R357, R364, R366, R369) -/

/-- AFI_VERSION answer (Table 12.6). -/
def versionBytes (s : State) : List Byte :=
  let x := runSlot s
  let y := otherSlot s
  leBytes 2 x.afi ++ leBytes 2 Config.stepping ++ leBytes 4 x.release ++ leBytes 1 s.firm.slot ++
    leBytes 1 (b2n s.firm.committed + 2 * b2n s.firm.staged) ++ leBytes 2 (tget s.firm.counters 0) ++
    leBytes 4 (if y.full then y.release else 0) ++ leBytes 2 (if y.full then y.afi else 0) ++ leBytes 2 s.firm.ucode ++ leBytes 12 0

/-- AFI_VERSION. -/
def ownAfiVersion : Own := fun _ _ s => say (okWith (versionBytes s)) s

/-- AFI_VERSION, sent by any party or GX (R366). -/
def execAfiVersion (m : Msg) (s : State) : Res := .next (serve 0x0001 isPartyGx (lenIs 0) ownAfiVersion m s)

/-- MBOX_SET: the new mailbox takes effect after the answer, which goes to the old one.
The order of its answers: DESIGN CHOICE, assumption 117. -/
def ownMboxSet : Own := fun m d s =>
  let a := fld m 0 6
  let n := fld m 8 4
  let q := n % 2 ^ 18
  let on := bitOf n 31
  let x := getParty s d.party
  checked [(0, decide (a % 8192 ≠ 0)), (6, rsvBad m 6 2), (8, decide (bitsOf n 30 18 ≠ 0)), (12, rsvBad m 12 4)] s
    (refusedBy [(decide (a ≠ 0) && !inReq s d.party a 8192, stDENIED), (on && !qReq s d.party q, stDENIED)] s
      (checked [(8, on && !((getQ s q).bound && decide ((getQ s q).kind = 1) && decide ((getQ s q).esize = 1) &&
          decide ((getQ s q).prod = 3) && swEnd (getQ s q).cons))] s
        (refusedBy [(decide (x.outstanding ≠ 0) && !(x.noticeOn == on && (!on || decide (x.notice = q))), stBUSY)] s
          (say ok (modParty s d.party fun t => { t with mboxNext := a, noticeOn := on, notice := if on then q else 0 })))))

/-- The new mailbox comes into use, and notices held for a new notice queue are pushed. -/
def moveMbox (p : Nat) (s : State) : State :=
  let s := modParty s p fun t => { t with mbox := if t.mboxNext = 0 then t.mbox else t.mboxNext, mboxNext := 0 }
  if (getParty s p).noticeOn ∧ s.firm.act ≠ .open_ then drainNotices p (getParty s p).heldNotices.length s else s

/-- MBOX_SET, sent by any party; a mailbox that left a range may let a GRANT_SET finish (R357). -/
def execMboxSet (m : Msg) (s : State) : Res :=
  let p := pidx m.sender
  let t := serve 0x0002 isParty (lenIs 16) ownMboxSet m s
  .next (if taken p s t then settle (moveMbox p t) else t)

/-- One entry of IRQ_ROUTE. -/
def irqEntry (m : Msg) (o : Nat) : IrqEntry :=
  { hart := fld m o 1 % 16, pcie := bitOf (fld m o 1) 6, enable := bitOf (fld m o 1) 7, ident := fld m (o + 2) 2 }

/-- Field checks of one entry. An identity is checked where the entry is enabled. -/
def irqBad (m : Msg) (o : Nat) : List (Nat × Bool) :=
  let e := irqEntry m o
  [(o, decide (bitsOf (fld m o 1) 5 4 ≠ 0)), (o + 1, rsvBad m (o + 1) 1),
   (o + 2, e.enable && (if e.pcie then decide (255 < e.ident) else decide (e.ident = 0) || decide (2047 < e.ident))), (o + 4, rsvBad m (o + 4) 4)]

/-- An enabled entry that names a hart of the other world, or PCIE for a party that is not reached through the host port. -/
def irqDenied (s : State) (p : Nat) (e : IrqEntry) : Bool :=
  e.enable && (if e.pcie then (hostParty s p).isNone else bitOf s.world.clusters (e.hart / 4) != decide (p = 16))

/-- IRQ_ROUTE. -/
def ownIrqRoute : Own := fun m d s =>
  let a := irqEntry m 0
  let b := irqEntry m 8
  checked (irqBad m 0 ++ irqBad m 8) s
    (refusedBy [(irqDenied s d.party a || irqDenied s d.party b, stDENIED)] s
      (say ok (modParty s d.party fun t => { t with irq0 := a, irq1 := b })))

/-- IRQ_ROUTE, sent by any party. -/
def execIrqRoute (m : Msg) (s : State) : Res := .next (serve 0x0003 isParty (lenIs 16) ownIrqRoute m s)

/-! ### Queues (R140, R370) -/

/-- A queue as a stream descriptor gives it (Table 5.2), at offset `o` of the payload. -/
def queueOf (m : Msg) (o : Nat) : Queue :=
  { bound := true, base := fld m o 6, lg := fld m (o + 6) 1, esize := fld m (o + 7) 1 % 4, kind := fld m (o + 7) 1 / 4 % 4,
    prod := fld m (o + 8) 1 % 16, cons := fld m (o + 9) 1 % 16, flags := fld m (o + 10) 2, stride := fld m (o + 12) 4, tbase := fld m (o + 16) 6 }

/-- Whether the entry size fits the kind (Table 5.1). -/
def Queue.sizeOk (q : Queue) : Bool :=
  match q.kind with
  | 0 => q.esize == 0
  | 1 => decide (q.esize ≤ 2)
  | 2 => q.esize == 2
  | _ => q.esize == 1

/-- Whether the producer and the consumer end fit the kind (Table 5.1); classes 0xB to 0xF are reserved. -/
def Queue.prodOk (q : Queue) : Bool :=
  match q.kind with
  | 0 => q.prod == 0 || q.prod == 4 || q.prod == 5
  | 1 => decide (q.prod ≤ 10)
  | 2 => swEnd q.prod
  | _ => q.prod == 3
def Queue.consOk (q : Queue) : Bool :=
  match q.kind with
  | 0 => q.cons == 0
  | 1 => decide (q.cons ≤ 10)
  | 2 => q.cons == 3
  | _ => swEnd q.cons

/-- Field checks of a stream descriptor at offset 8. -/
def bindBad (m : Msg) (q : Queue) : List (Nat × Bool) :=
  let tile := decide (q.kind = 0)
  [(8, decide (2 ≤ q.lg) && decide (q.lg ≤ 16) && q.sizeOk && decide (q.base % (q.n * q.esz) ≠ 0)), (14, decide (q.lg < 2) || decide (16 < q.lg)),
   (15, decide (16 ≤ fld m 15 1) || !q.sizeOk), (16, decide (16 ≤ fld m 16 1) || !q.prodOk), (17, decide (16 ≤ fld m 17 1) || !q.consOk),
   (18, decide (16 ≤ q.flags) || (decide (q.kind ≠ 2) && decide (4 ≤ q.flags % 16))),
   (20, if tile then decide (q.stride < 256) || decide (q.stride % 256 ≠ 0) else decide (q.stride ≠ 0)),
   (24, if tile then decide (q.tbase % 256 ≠ 0) else decide (q.tbase ≠ 0)), (30, rsvBad m 30 10)]

/-- Queues that a running job names: its completion queue and its KIND 3 arguments. -/
def jobNames (s : State) (j : Job) : List Nat :=
  let img := jobImg s j
  recCq j.record :: (j.args.zipIdx.filterMap fun x => if tBuffer img x.2 0 1 = 3 then some (field x.1 0 6) else none)

/-- Whether a queue holds entries or a running job names it. -/
def queueBusy (s : State) (q : Nat) : Bool :=
  decide ((getQ s q).used ≠ 0) || (estates s).any fun e => (match jobOf s e with | some j => (jobNames s j).contains q | none => false) ||
    (match (getEst s e).replay with | some j => (jobNames s j).contains q | none => false)

/-- QUEUE_BIND.
The order of its answers: DESIGN CHOICE, assumption 117. -/
def ownQueueBind : Own := fun m d s =>
  let id := fld m 0 4
  let q := queueOf m 8
  checked [(0, decide (2 ^ 18 ≤ id)), (4, rsvBad m 4 4)] s
    (refusedBy [(!qReq s d.party id, stDENIED)] s
      (checked (bindBad m q) s
        (refusedBy [(!ownBytes s d.party q.base (q.n * q.esz) || (decide (q.kind = 0) && !ownBytes s d.party q.tbase (q.n * q.stride)), stDENIED),
            (queueBusy s id, stBUSY)] s
          (say ok { s with queue := tput s.queue id q }))))

/-- QUEUE_BIND, sent by any party. -/
def execQueueBind (m : Msg) (s : State) : Res := .next (serve 0x0100 isParty (lenIs 40) ownQueueBind m s)

/-- QUEUE_UNBIND. A block that a smaller grant takes away goes once its queues are unbound (R214), so the grant in force
counts here. -/
def ownQueueUnbind : Own := fun m d s =>
  let id := fld m 0 4
  checked [(0, decide (2 ^ 18 ≤ id))] s
    (refusedBy [(!qInGrant s d.party id false, stDENIED), (!(getQ s id).bound, stNOT_READY), (queueBusy s id, stBUSY)] s
      (say ok { s with queue := tput s.queue id {} }))

/-- QUEUE_UNBIND, sent by any party; a grant that waits for the block may move on. -/
def execQueueUnbind (m : Msg) (s : State) : Res :=
  let p := pidx m.sender
  let t := serve 0x0101 isParty (lenIs 4) ownQueueUnbind m s
  .next (if taken p s t then settle t else t)

/-! ### Templates (R158, R371) -/

/-- TEMPLATE_LOAD: the copy and the check run in the background. -/
def ownTemplateLoad : Own := fun m d s =>
  let a := fld m 0 6
  let n := fld m 8 4
  checked [(6, rsvBad m 6 2), (8, decide (n = 0) || decide (0x4000000 < n)), (12, rsvBad m 12 4)] s
    (refusedBy [(!inReq s d.party a n, stDENIED)] s
      (modParty s d.party fun t => { t with loading := t.loading ++ [(d, a, n)] }, none))

/-- TEMPLATE_LOAD, sent by any party. -/
def execTemplateLoad (m : Msg) (s : State) : Res := .next (serve 0x0102 isParty (lenIs 16) ownTemplateLoad m s)

/-- A party's templates. -/
def tmplsOf (s : State) (p : Nat) : List Tmpl := s.jobs.tmpls.filter fun t => decide (t.party = p)

/-- The next free handle of a party, 1 to 65,535 (assumption 20). -/
def freeHandle (s : State) (p : Nat) : Nat :=
  (((List.range 257).map fun i => ((getParty s p).nextHandle - 1 + i) % 65535 + 1).find? fun h => (tmplOf s p h).isNone).getD 1

/-- The end of a TEMPLATE_LOAD: the image's checks, then its memory. The copy holds the image and the packets of its station
images (R371, R386). -/
def loadTmpl (d : Pend) (a n : Nat) (s : State) : State :=
  let p := d.party
  let img := memRead s a n
  let need := piecesFor (copyBytes img)
  let mask := (reqGrant s p).cg
  match tmplBad img n with
  | some o => finish d (badBuf o) s
  | none =>
    if 256 ≤ (tmplsOf s p).length then finish d (noRes 1) s
    else match allocPieces s p mask need with
      | none => finish d (noRes ((need - (freeTurn s p mask).length) * pieceBytes)) s
      | some ps =>
        let h := freeHandle s p
        let t : Tmpl := { party := p, handle := h, image := img, pieces := ps }
        finish d (okWith (leBytes 2 h))
          (modParty { s with jobs := { s.jobs with tmpls := s.jobs.tmpls ++ [t] } } p fun x => { x with nextHandle := h % 65535 + 1 })

/-- TEMPLATE_LOAD_DONE: in Run, outside an activation window, the party's oldest load ends. -/
def execTemplateLoadDone (party : Party) (s : State) : Res :=
  let p := pidx party
  .next (match (getParty s p).loading with
    | [] => s
    | (d, a, n) :: rest => if !admitting s then s else loadTmpl d a n (modParty s p fun t => { t with loading := rest }))

/-- TEMPLATE_FREE. -/
def ownTemplateFree : Own := fun m d s =>
  let p := d.party
  let h := fld m 0 2
  match tmplOf s p h with
  | none => (s, some (badArg 0))
  | some t =>
    if t.freePend.isSome then say (sts stBUSY) s
    else if tmplRuns s p h then
      ({ s with jobs := { s.jobs with tmpls := s.jobs.tmpls.map fun x => if x = t then { x with freePend := some d } else x } }, none)
    else say ok (dropTmpl p h s)

/-- TEMPLATE_FREE, sent by any party; a grant that waits for its memory may move on. -/
def execTemplateFree (m : Msg) (s : State) : Res :=
  let p := pidx m.sender
  let t := serve 0x0103 isParty (lenIs 2) ownTemplateFree m s
  .next (if taken p s t then settle t else t)

/-! ### Leaves (R372, R373) -/

/-- The five counters of a leaf (R94). -/
def leafCounters (x : Leaf) : List Stat := [x.issued, x.idle, x.conflicts, x.parity, x.replays]

/-- Counter `k` of several leaves, summed. -/
def leafStat (s : State) (ls : List Nat) (k : Nat) : Stat := statSum (ls.map fun l => ((leafCounters (getLeaf s l)).getD k {}))

/-- What reading the counters changes: OVF clears, and CLEAR sets them to 0. -/
def readStats (clear : Bool) (x : Leaf) : Leaf :=
  let f := fun (c : Stat) => if clear then {} else c.read
  { x with issued := f x.issued, idle := f x.idle, conflicts := f x.conflicts, parity := f x.parity, replays := f x.replays }

/-- LEAF_STATS. -/
def ownLeafStats : Own := fun m d s =>
  let scope := fld m 0 1
  let e := fld m 1 1
  let l := fld m 2 2
  let any := decide (16 ≤ d.party)
  let ls := if scope = 0 then [l] else (getEst s e).leaves
  let mine := fun (l : Nat) => match estOf s l with | some x => decide ((getEst s x).party = d.party) | none => false
  checked [(0, decide (2 ≤ scope)), (1, decide (scope = 1) && (decide (16 ≤ e) || !(getEst s e).live)),
      (2, decide (scope = 0) && (decide (168 ≤ l) || decide ((getLeaf s l).kind = .fusedOff))), (4, decide (2 ≤ fld m 4 1)), (5, rsvBad m 5 3)] s
    (refusedBy [(!any && (if scope = 0 then !mine l else decide ((getEst s e).party ≠ d.party)), stDENIED),
        (decide (scope = 0) && decide ((getLeaf s l).kind = .fenced), stFENCED)] s
      (say (okWith ((List.range 5).flatMap fun k => statBytes (leafStat s ls k)))
        (ls.foldl (fun s l => modLeaf s l (readStats (bitOf (fld m 4 1) 0))) s)))

/-- LEAF_STATS, sent by any party or GX. -/
def execLeafStats (m : Msg) (s : State) : Res := .next (serve 0x0104 isPartyGx (lenIs 8) ownLeafStats m s)

/-- LEAF_FENCE: cause COMMAND. -/
def ownLeafFence : Own := fun m _ s =>
  let l := fld m 0 2
  checked [(0, decide (168 ≤ l) || decide ((getLeaf s l).kind = .fusedOff))] s
    (refusedBy [(decide ((getLeaf s l).kind = .fenced), stFENCED)] s (say ok (fence l 6 s)))

/-- LEAF_FENCE, sent by GS. -/
def execLeafFence (m : Msg) (s : State) : Res := .next (serve 0x0105 isGs (lenIs 2) ownLeafFence m s)

/-! ### Grants (R212 to R214, R425, R431) -/

/-- Bytes that queue-block entries take: padded to 8. -/
def qbPad (n : Nat) : Nat := 8 * ((n + 3) / 4)
/-- Offset of the DRAM ranges of a grant record. -/
def dramOff (m : Msg) : Nat := 16 + qbPad (fld m 10 2)
/-- The LENGTH of a grant record. -/
def grantLen (m : Msg) : Bool := m.length.toNat == dramOff m + 8 * fld m 12 2

/-- The grant that a record gives (Table 8.1). -/
def grantOf (m : Msg) : Grant :=
  { caddyRead := bitOf (fld m 1 1) 0, leaves := fld m 2 2, cg := fld m 4 1, estates := fld m 5 1, ways := fld m 6 2, ranges := fld m 8 2,
    qblocks := (List.range (fld m 10 2)).map fun i => { block := fld m (16 + 2 * i) 2 % 4096, pool := bitOf (fld m (16 + 2 * i) 2) 15 },
    dram := (List.range (fld m 12 2)).map fun i => let o := dramOff m + 8 * i
      { first := fld m o 2, count := fld m (o + 2) 2, pool := bitOf (fld m (o + 4) 1) 0 } }

/-- A grant as a record (Table 8.1). -/
def grantBytes (p : Nat) (g : Grant) : List Byte :=
  let q := g.qblocks.flatMap fun b => leBytes 2 (b.block + 32768 * b2n b.pool)
  leBytes 1 p ++ leBytes 1 (b2n g.caddyRead) ++ leBytes 2 g.leaves ++ leBytes 1 g.cg ++ leBytes 1 g.estates ++ leBytes 2 g.ways ++
    leBytes 2 g.ranges ++ leBytes 2 g.qblocks.length ++ leBytes 2 g.dram.length ++ leBytes 2 0 ++ q ++
    leBytes (qbPad g.qblocks.length - 2 * g.qblocks.length) 0 ++
    g.dram.flatMap fun r => leBytes 2 r.first ++ leBytes 2 r.count ++ leBytes 4 (b2n r.pool)

/-- Whether every granule of a range lies in DRAM and in a channel group of a mask. -/
def rangeIn (s : State) (cg : Nat) (r : DramRange) : Bool :=
  decide ((r.first + r.count) * 0x4000000 ≤ dramEnd s) && (List.range r.count).all fun i => bitOf cg (cgOf s ((r.first + i) * 0x4000000))

/-- Field checks of a grant record. -/
def grantBad (s : State) (m : Msg) (g : Grant) : List (Nat × Bool) :=
  [(0, decide (0x10 < fld m 0 1)), (1, decide (2 ≤ fld m 1 1)), (2, decide (160 < g.leaves)), (5, decide (16 < g.estates)),
   (10, decide (4096 < fld m 10 2)), (12, decide (64 < fld m 12 2)), (14, rsvBad m 14 2)] ++
  ((List.range (fld m 10 2)).map fun i => (16 + 2 * i, decide (bitsOf (fld m (16 + 2 * i) 2) 14 12 ≠ 0))) ++
  ((List.range (fld m 12 2)).map fun i => let o := dramOff m + 8 * i
    (o, decide (fld m (o + 2) 2 = 0) || decide (2 ≤ fld m (o + 4) 4) || !rangeIn s g.cg ((g.dram.getD i {}))))

/-- Channel groups that hold a granule below SWM. -/
def secureCgs (s : State) : List Nat := (List.range 8).filter fun c => decide (c * cgBytes s < s.world.swm * 0x4000000)

/-- The refusals of R213, R214 and R425 for what a grant may not name or leave out. -/
def grantDenied (s : State) (p : Nat) (g : Grant) : Bool :=
  let gs := granules g.dram
  gs.any (fun x => decide (x < 4)) || (decide (p ≠ 16) && gs.any fun x => decide (x < s.world.swm)) ||
    (decide (p = 16) && (!((List.range s.world.swm).all fun x => decide (x < 4) || gs.contains x) ||
      !((secureCgs s).all fun c => bitOf g.cg c) ||
      (match secureEst s with | some e => decide (g.leaves < (getEst s e).leaves.length) | none => false)))

/-- The grants that other parties hold or wait for. -/
def otherGrants (s : State) (p : Nat) : List Grant :=
  ((List.range 17).filter fun x => decide (x ≠ p)).flatMap fun x =>
    (getParty s x).grant :: (match (getParty s x).grantPend with | some g => [g.grant] | none => [])

/-- Items of a grant that another party holds. -/
def grantShared (s : State) (p : Nat) (g : Grant) : Nat :=
  let os := otherGrants s p
  bitCount (os.foldl (fun a o => a ||| (o.cg &&& g.cg)) 0) + bitCount (os.foldl (fun a o => a ||| (o.ways &&& g.ways)) 0) +
    bitCount (os.foldl (fun a o => a ||| (o.ranges &&& g.ranges)) 0) +
    (g.qblocks.filter fun b => os.any fun o => o.qblocks.any fun c => decide (c.block = b.block)).length +
    ((granules g.dram).filter fun x => os.any fun o => (granules o.dram).contains x).length

/-- Leaves by which the sum of LEAVES would exceed the enabled leaves. -/
def leavesLack (s : State) (p : Nat) (g : Grant) : Nat :=
  let sum := (((List.range 17).filter fun x => decide (x ≠ p)).map fun x =>
    max (getParty s x).grant.leaves (match (getParty s x).grantPend with | some y => y.grant.leaves | none => 0)).sum
  sum + g.leaves - (leavesOf s .enabled).length

/-- Whether a grant adds something to another (R54). -/
def grantAdds (old g : Grant) : Bool :=
  decide (old.leaves < g.leaves) || decide (old.estates < g.estates) || decide (old.cg ||| g.cg ≠ old.cg) || decide (old.ways ||| g.ways ≠ old.ways) ||
    decide (old.ranges ||| g.ranges ≠ old.ranges) || g.qblocks.any (fun b => !old.qblocks.contains b) ||
    (granules g.dram).any (fun x => !(granules old.dram).contains x)

/-- The Kettle takes a grant: granules that held another party's data queue for zeroing, idle estates shrink at once, and what is
still in use makes the message wait (R214, R431). -/
def takeGrant (p : Nat) (g : Grant) (d : Pend) (s : State) : State × Option Ans :=
  let old := (getParty s p).grant
  let fresh := (granules g.dram).filter fun x => !(granules old.dram).contains x && decide (tget s.mem.lastOwner x ≠ 0) && !s.mem.zeroing.contains x
  let plan := (shrinkPlan s p g).getD []
  let gp : GrantPend := { grant := g, pend := d, shrink := plan }
  let s := { s with mem := { s.mem with zeroing := s.mem.zeroing ++ fresh } }
  let s := modParty s p fun x => { x with voted := x.voted && !grantAdds old g, grantPend := some gp }
  let s := plan.foldl (fun s x => shrinkEst x.1 x.2 s) s
  let s := (estatesOf s p).foldl (fun s e => trimEst g e s) s
  if grantBusy s p gp then (grantEvent p g false s, none) else say ok (grantDone p g s)

/-- GRANT_SET. -/
def ownGrantSet : Own := fun m d s =>
  let p := fld m 0 1
  let g := grantOf m
  checked (grantBad s m g) s
    (refusedBy [(grantDenied s p g, stDENIED), ((getParty s p).grantPend.isSome, stBUSY)] s
      (if grantShared s p g ≠ 0 then say (noRes (grantShared s p g)) s
       else if leavesLack s p g ≠ 0 then say (noRes (leavesLack s p g)) s
       else takeGrant p g d s))

/-- GRANT_SET, sent by GS. The states that the votes allow may change with the resources (R54). -/
def execGrantSet (m : Msg) (s : State) : Res :=
  let t := serve 0x0200 isGs grantLen ownGrantSet m s
  .next (if taken 16 s t then enterByVotes (settle t) else t)

/-! ### Estates (R216 to R220) -/

/-- The descriptor that a payload gives (Table 8.2). -/
def descOf (m : Msg) : EstDesc :=
  let l := fld m 5 1
  { be := bitOf (fld m 1 1) 0, secure := bitOf (fld m 1 1) 1, leaves := fld m 2 2, cg := fld m 4 1, mode := l % 4, source := l / 4 % 4,
    pipe := l / 16 % 8, ways := fld m 6 2, horizon := fld m 8 4, period := fld m 12 4, offset := fld m 16 4, guard := fld m 20 4 }

/-- Field checks of a descriptor: ranges, and zeros where the lend mode and source use no field. A frame of the pipe bounds
OFFSET_US where the pipe is the party's own and has a timing (R217). -/
def descBad (s : State) (p : Nat) (m : Msg) (d : EstDesc) : List (Nat × Bool) :=
  let lent := decide (d.mode ≠ 0)
  let src := fun (k : Nat) => lent && decide (d.source = k)
  let pipe := tget s.media.pipe d.pipe
  let frame := framePeriod pipe.timing
  [(1, decide (4 ≤ fld m 1 1)), (2, decide (d.leaves = 0) || decide (160 < d.leaves)), (4, decide (d.cg = 0)),
   (5, decide (128 ≤ fld m 5 1) || decide (d.mode = 3) || decide (d.source = 3) || (!lent && decide (fld m 5 1 ≠ 0)) ||
     (if src 2 then decide (6 ≤ d.pipe) else decide (d.pipe ≠ 0)) || (d.be && decide (fld m 5 1 ≠ 0))),
   (6, decide (d.ways = 0)), (8, if src 0 then decide (1000000 < d.horizon) else decide (d.horizon ≠ 0)),
   (12, if src 1 then decide (d.period < 1000) || decide (10000000 < d.period) else decide (d.period ≠ 0)),
   (16, if src 1 then decide (d.period ≤ d.offset) else if src 2 then decide (pipe.owner = p + 1) && decide (frame ≠ 0) && decide (frame ≤ d.offset * usUnit) else decide (d.offset ≠ 0)),
   (20, if src 1 || src 2 then decide (1000000 < d.guard) else decide (d.guard ≠ 0)), (24, rsvBad m 24 8)]

/-- The checks that a descriptor meets against the sender's grant: DENIED. -/
def descDenied (s : State) (p : Nat) (d : EstDesc) : Bool :=
  let g := reqGrant s p
  decide (g.cg ||| d.cg ≠ g.cg) || decide (g.ways ||| d.ways ≠ g.ways) ||
    (decide (d.mode ≠ 0) && decide (d.source = 2) && decide ((tget s.media.pipe d.pipe).owner ≠ p + 1))

/-- Leaves by which the party's estates would exceed its grant, with estate `e` (16 for a new one) at `n`. -/
def estLack (s : State) (p e n : Nat) : Nat :=
  (((estatesOf s p).filter fun x => decide (x ≠ e)).map fun x => (getEst s x).leaves.length).sum + n - (reqGrant s p).leaves

/-- Leaves that the placer lacks for estate `e` at `n`. -/
def placeLack (s : State) (e n : Nat) : Nat := n - (leafIdx.filter (mayJoin s e)).length

/-- Leaves above LWM, outside every estate, that could replace those that normal estates hold below it (R220). -/
def spareRoom (s : State) : Nat :=
  (leafIdx.filter fun l => decide (s.world.lwm ≤ l) && decide ((getLeaf s l).kind = .enabled) && (estOf s l).isNone).length

/-- Creates the secure estate (R220): at once, or when no normal estate holds a leaf below LWM any longer. -/
def createSecure (x : EstDesc) (d : Pend) (s : State) : State × Option Ans :=
  let low := (lowHeld s s.world.lwm).length
  if estLack s 16 16 x.leaves ≠ 0 then say (noRes (estLack s 16 16 x.leaves)) s
  else if (reqGrant s 16).estates ≤ (estatesOf s 16).length then say (noRes 1) s
  else if low = 0 then let r := createEst 16 x (secureLeaves s) s; (r.1, some r.2)
  else if spareRoom s < low then say (noRes (low - spareRoom s)) s
  else ({ s with jobs := { s.jobs with securePend := some (x, d) } }, none)

/-- Creates a normal estate. -/
def createNormal (p : Nat) (x : EstDesc) (s : State) : State × Option Ans :=
  if estLack s p 16 x.leaves ≠ 0 then say (noRes (estLack s p 16 x.leaves)) s
  else if (reqGrant s p).estates ≤ (estatesOf s p).length then say (noRes 1) s
  else match placeEst s 16 x.leaves with
    | none => say (noRes (max 1 (placeLack s 16 x.leaves))) s
    | some ls => let r := createEst p x ls s; (r.1, some r.2)

/-- Whether an estate is held, in recovery, or has a change that waits (R217). -/
def estBusy (s : State) (e : Nat) : Bool :=
  (getEst s e).held || (getEst s e).recovering || (match (getEst s e).change with | .none => false | _ => true)

/-- Changes an existing estate: now, or at the end of its job. -/
def changeEst (e : Nat) (x : EstDesc) (d : Pend) (s : State) : State × Option Ans :=
  let y := getEst s e
  if estLack s y.party e x.leaves ≠ 0 then say (noRes (estLack s y.party e x.leaves)) s
  else if decide (x.leaves ≠ y.leaves.length) && !x.secure && decide (placeLack s e x.leaves ≠ 0) then say (noRes (placeLack s e x.leaves)) s
  else if estBusy s e then say (sts stBUSY) s
  else if boundary s e then let r := applySet e x s; (r.1, some r.2)
  else (modEst s e fun z => { z with change := .set x d }, none)

/-- ESTATE_SET.
The order of its answers: DESIGN CHOICE, assumption 117. -/
def ownEstateSet : Own := fun m d s =>
  let p := d.party
  let e := fld m 0 1
  let x := descOf m
  let new := decide (e = 0xFF)
  let sec := (secureEst s).isSome || s.jobs.securePend.isSome
  let n := (secureLeaves s).length
  checked [(0, !new && (decide (16 ≤ e) || !(getEst s e).live))] s
    (refusedBy [(x.secure && decide (p ≠ 16), stDENIED)] s
      (if new && x.secure && (decide (s.world.lwm = 0) || sec) then say (noRes 1) s
       else checked (descBad s p m x ++ [(1, (x.secure && x.be) || (!new && (x.secure != (getEst s e).desc.secure))),
           (5, x.secure && decide (fld m 5 1 ≠ 0)), (2, x.secure && decide (x.leaves ≠ n))]) s
         (refusedBy [(!new && decide ((getEst s e).party ≠ p), stDENIED), (descDenied s p x, stDENIED)] s
           (if !new then changeEst e x d s else if x.secure then createSecure x d s else createNormal p x s))))

/-- ESTATE_SET, sent by any party. -/
def execEstateSet (m : Msg) (s : State) : Res :=
  let p := pidx m.sender
  let t := serve 0x0201 isParty (lenIs 32) ownEstateSet m s
  .next (if taken p s t then settle t else t)

/-- ESTATE_FREE.
The order of its answers: DESIGN CHOICE, assumption 117. -/
def ownEstateFree : Own := fun m d s =>
  let e := fld m 0 1
  checked [(0, decide (16 ≤ e) || !(getEst s e).live)] s
    (refusedBy [(decide ((getEst s e).party ≠ d.party), stDENIED)] s
      (checked [(1, rsvBad m 1 3)] s
        (refusedBy [(estBusy s e, stBUSY)] s
          (if boundary s e then say ok (freeEstate e s) else (modEst s e fun z => { z with change := .free d }, none)))))

/-- ESTATE_FREE, sent by any party. -/
def execEstateFree (m : Msg) (s : State) : Res :=
  let p := pidx m.sender
  let t := serve 0x0202 isParty (lenIs 4) ownEstateFree m s
  .next (if taken p s t then enterByVotes (settle t) else t)

end Sys2Proof.Machine
end

