-- ==== Sys2Proof/Machine/Guest.lean ====
section
/-! DEFINITION. Freezing, saving, restoring and thawing a guest (R242 to R245). -/

namespace Sys2Proof

/-- The sections of a guest's state image as bytes after its header: their contents are given and their layout is not (R244,
assumption 59). -/
opaque Config.guestEncode : Machine.GuestImage → List (BitVec 8)

/-- What those bytes hold, where they hold sections (R244, assumption 59). -/
opaque Config.guestDecode : List (BitVec 8) → Option Machine.GuestImage

end Sys2Proof

namespace Sys2Proof.Machine

/-! ### Freeze and thaw (R242, R243) -/

/-- The guest that a message names. -/
def guestOf (code : Nat) (m : Msg) : Nat := Config.guestField code 0 m.payload

/-- The checks that the guest-state messages share: a well-formed payload, a normal guest, and a sender that may act for it. -/
def guestChecks (code : Nat) (m : Msg) (d : Pend) (s : State) (k : State × Option Ans) : State × Option Ans :=
  match Config.guestBad code m.payload with
  | some o => (s, some (badArg o))
  | none =>
    if 16 ≤ guestOf code m then say (sts stBAD_ARG) s
    else refusedBy [(decide (d.party ≠ 16) && decide (d.party ≠ guestOf code m), stDENIED)] s k

/-- The LENGTH of a guest-state message. -/
def guestLenIs (code : Nat) (m : Msg) : Bool := Config.guestLen code m.length.toNat

/-- GUEST_FREEZE: the Kettle takes no more records of the guest, and the message completes when none of its jobs runs. -/
def ownGuestFreeze : Own := fun m d s =>
  guestChecks 0x0203 m d s
    (let p := guestOf 0x0203 m
     let x := getParty s p
     if x.frozen = 1 then say (sts stBUSY) s
     else if x.frozen = 2 then say ok s
     else if partyRuns s p then (guestEvent p 1 (modParty s p fun t => { t with frozen := 1, freezePend := some d }), none)
     else say ok (guestEvent p 2 (modParty s p fun t => { t with frozen := 2 })))

/-- GUEST_FREEZE, sent by the guest or by GS. -/
def execGuestFreeze (m : Msg) (s : State) : Res := .next (serve 0x0203 isParty (guestLenIs 0x0203) ownGuestFreeze m s)

/-- GUEST_THAW. -/
def ownGuestThaw : Own := fun m d s =>
  guestChecks 0x0206 m d s
    (let p := guestOf 0x0206 m
     refusedBy [(decide ((getParty s p).frozen ≠ 2), stNOT_READY)] s
       (say ok (guestEvent p 0 (modParty s p fun t => { t with frozen := 0 }))))

/-- GUEST_THAW, sent by the guest or by GS. -/
def execGuestThaw (m : Msg) (s : State) : Res := .next (serve 0x0206 isParty (guestLenIs 0x0206) ownGuestThaw m s)

/-! ### Save (R244) -/

/-- The guest's bound queues. -/
def boundQueues (s : State) (p : Nat) : List (Nat × Queue) := s.queue.filter fun x => x.2.bound && qInGrant s p x.1 false

/-- The state that an image holds; kept buffers in place are read, also those of lent jobs that stand with a lender's estate, and rings
in scratchpads are copied. -/
def guestState (s : State) (p : Nat) : GuestImage :=
  let x := getParty s p
  let t := (List.range 16).foldl (fun s e => readKept e s) s
  let qs := boundQueues s p
  { grant := x.grant
    ests := (estatesOf s p).map fun e => (e, { (getEst s e).desc with leaves := (getEst s e).leaves.length })
    tmpls := (tmplsOf s p).map fun y => (y.handle, y.image)
    queues := qs
    kept := (List.range 16).flatMap fun e => ((getEst t e).kept.filter fun k => decide (k.party = p)).map fun k => (e, k)
    rings := (qs.filter fun q => (spLeaf q.2.base).isSome).map fun q => (q.2.base, memRead s q.2.base (q.2.n * q.2.esz))
    notify := x.notify
    bits := (x.notifyOvf, x.submitErr, x.errQid, x.errStatus) }

/-- The header of an image (Table 8.6), with a DIGEST. -/
def imageHeader (s : State) (p n : Nat) (digest : List Byte) : List Byte :=
  leBytes 4 0x47535431 ++ leBytes 2 (runSlot s).afi ++ leBytes 1 p ++ leBytes 1 6 ++ leBytes 8 n ++ digest ++ leBytes 64 0

/-- The state image: its DIGEST is the SHA-384 of the image with that field 0. -/
def guestBytes (s : State) (p : Nat) : List Byte :=
  let body := Config.guestEncode (guestState s p)
  let n := 128 + body.length
  imageHeader s p n (sha (imageHeader s p n (leBytes 48 0) ++ body)) ++ body

/-- What an image's body holds: what GUEST_SAVE put there, or what the layout makes of other bytes (assumption 59). -/
def imageState (s : State) (body : List Byte) : Option GuestImage :=
  match s.firm.images.find? fun x => decide (x.1 = body) with
  | some x => some x.2
  | none => Config.guestDecode body

/-- Notes what the body of a guest's image stands for. -/
def noteImage (p : Nat) (s : State) : State :=
  let g := guestState s p
  modFirm s fun f => { f with images := (Config.guestEncode g, g) :: f.images.filter fun x => decide (x.1 ≠ Config.guestEncode g) }

/-- GUEST_SAVE. -/
def ownGuestSave : Own := fun m d s =>
  guestChecks 0x0204 m d s
    (let p := guestOf 0x0204 m
     let a := Config.guestField 0x0204 1 m.payload
     let n := Config.guestField 0x0204 2 m.payload
     refusedBy [(decide ((getParty s p).frozen ≠ 2), stNOT_READY), (!inReq s p a n, stDENIED)] s
       (let img := guestBytes s p
        if n < img.length then (s, some { status := stNO_RESOURCE, detail := img.length })
        else say ok (guestEvent p 3 (putBytes byKettle a img (noteImage p s)))))

/-- GUEST_SAVE, sent by the guest or by GS. -/
def execGuestSave (m : Msg) (s : State) : Res := .next (serve 0x0204 isParty (guestLenIs 0x0204) ownGuestSave m s)

/-! ### Restore (R245) -/

/-- Whether a grant is smaller than a saved one in any respect. -/
def grantSmaller (g saved : Grant) : Bool :=
  decide (g.leaves < saved.leaves) || decide (g.estates < saved.estates) || decide (g.cg ||| saved.cg ≠ g.cg) ||
    decide (g.ways ||| saved.ways ≠ g.ways) || decide (g.ranges ||| saved.ranges ≠ g.ranges) ||
    saved.qblocks.any (fun b => !(g.qblocks.any fun c => decide (c.block = b.block))) ||
    (granules saved.dram).any (fun x => !(granules g.dram).contains x)

/-- Puts one saved estate back: with its number where that is free, else the lowest free one. -/
def restoreEst (p : Nat) (x : Nat × EstDesc) (a : State × List (Nat × Nat)) : Option (State × List (Nat × Nat)) :=
  let s := a.1
  let free := fun (e : Nat) => !(getEst s e).live
  let pick := if x.1 < 16 ∧ free x.1 then some x.1 else (List.range 16).find? free
  match pick, placeEst s 16 x.2.leaves with
  | some e, some ls =>
    let s := modEst s e fun _ => { live := true, party := p, desc := x.2, leaves := ls }
    some (event srcAfzan 0xA043 p (leBytes 1 e ++ leBytes 1 p ++ leBytes 2 0 ++ leBytes 2 ls.length ++ leBytes 1 4) s, a.2 ++ [(x.1, e)])
  | _, _ => none

/-- Puts one saved template back. -/
def restoreTmpl (p : Nat) (x : Nat × List Byte) (s : State) : Option State :=
  (allocPieces s p (reqGrant s p).cg (piecesFor (copyBytes x.2))).map fun ps =>
    { s with jobs := { s.jobs with tmpls := s.jobs.tmpls ++ [{ party := p, handle := x.1, image := x.2, pieces := ps }] } }

/-- Puts one saved kept buffer back, with memory for its save: on the estate that took its estate's place, or where a lender's estate
served it (assumption 28). -/
def restoreKept (p : Nat) (nums : List (Nat × Nat)) (x : Nat × Kept) (s : State) : Option State :=
  let e := match nums.find? fun y => decide (y.1 = x.1) with | some y => y.2 | none => homeOf s x.1 p
  if !(getEst s e).live then some s
  else (allocPieces s p (getEst s e).desc.cg (piecesFor (x.2.data.map (·.length)).sum)).map fun ps =>
    putKept e { x.2 with party := p, pieces := ps } s

/-- Puts the bytes of one saved ring back where a leaf of the guest's estates holds the address. -/
def restoreRing (p : Nat) (s : State) (x : Nat × List Byte) : State := if ownBytes s p x.1 x.2.length then memWrite s x.1 x.2 else s

/-- Rebuilds a guest, frozen: none where a resource does not suffice. -/
def rebuild (p : Nat) (g : GuestImage) (s : State) : Option State :=
  (g.ests.foldl (fun (o : Option (State × List (Nat × Nat))) x => o.bind (restoreEst p x)) (some (s, []))).bind fun a =>
  (g.tmpls.foldl (fun (o : Option State) x => o.bind (restoreTmpl p x)) (some a.1)).bind fun s =>
  (g.kept.foldl (fun (o : Option State) x => o.bind (restoreKept p a.2 x)) (some s)).map fun s =>
    let s := { s with queue := g.queues.foldl (fun t x => tput t x.1 x.2) s.queue }
    let s := g.rings.foldl (restoreRing p) s
    settleDiv (modParty s p fun x =>
      { x with frozen := 2, notify := g.notify, notifyOvf := g.bits.1, submitErr := g.bits.2.1, errQid := g.bits.2.2.1, errStatus := g.bits.2.2.2 })

/-- Offset of the first header field of a state image that R245 refuses. -/
def restoreBad (s : State) (img : List Byte) : Option Nat :=
  firstBad [(0, decide (field img 0 4 ≠ 0x47535431)), (5, decide (field img 5 1 ≠ (runSlot s).afi / 256)), (7, decide (field img 7 1 ≠ 6))]

/-- An image with its DIGEST field set to 0. -/
def digestless (img : List Byte) : List Byte := img.take 16 ++ leBytes 48 0 ++ img.drop 64

/-- GUEST_RESTORE: a refusal changes nothing. -/
def ownGuestRestore : Own := fun m d s =>
  guestChecks 0x0205 m d s
    (let p := guestOf 0x0205 m
     let a := Config.guestField 0x0205 1 m.payload
     refusedBy [(!inReq s 16 a 128, stDENIED)] s
       (let hdr := memRead s a 128
        let n := field hdr 8 8
        match restoreBad s hdr with
        | some o => (s, some (badBuf o))
        | none =>
          if n < 128 ∨ inReq s 16 a n = false then (s, some (badBuf 8))
          else
            let img := memRead s a n
            let digest := (img.drop 16).take 48
            if sha (digestless img) ≠ digest then say (sts stDATA_ERROR) s
            else match imageState s (img.drop 128) with
              | none => (s, some (badBuf 128))
              | some g =>
                if !(estatesOf s p).isEmpty || !(tmplsOf s p).isEmpty || !(boundQueues s p).isEmpty then say (sts stBUSY) s
                else if grantSmaller (reqGrant s p) g.grant then say (sts stNO_RESOURCE) s
                else match rebuild p g s with
                  | none => say (sts stNO_RESOURCE) s
                  | some t => say ok (guestEvent p 4 (modFirm t fun f => { f with restored := tput f.restored p digest }))))

/-- GUEST_RESTORE, sent by GS. -/
def execGuestRestore (m : Msg) (s : State) : Res := .next (serve 0x0205 isGs (guestLenIs 0x0205) ownGuestRestore m s)

end Sys2Proof.Machine
end

