-- ==== Sys2Proof/Machine/Scalar.lean ====
section
/-! DEFINITION. Scalar and immediate instructions (R154, Table 5.8 classes 0x0 and 0x1). -/

namespace Sys2Proof.Machine

/-- A scalar shift by `n`, or the free result where the amount is 32 or more, which the spec does not state
(assumption 23). -/
def shiftBy (op : Nat) (f : Word → Nat → Word) (a n : Word) : Word :=
  if n.toNat < 32 then f a n.toNat else Config.shiftOver op a n

/-- SLL, SRL and SRA on words. -/
def sllW (a n : Word) : Word := shiftBy 5 (fun x k => x <<< k) a n
def srlW (a n : Word) : Word := shiftBy 6 (fun x k => x >>> k) a n
def sraW (a n : Word) : Word := shiftBy 7 (fun x k => x.sshiftRight k) a n

/-- The high 32 bits of the unsigned product. -/
def mulhuW (a b : Word) : Word := BitVec.ofNat 32 (a.toNat * b.toNat / 2 ^ 32)
/-- Signed minimum and maximum. -/
def minW (a b : Word) : Word := if b.toInt < a.toInt then b else a
def maxW (a b : Word) : Word := if a.toInt < b.toInt then b else a

/-- rd ← f(rs1, rs2). -/
def aluRR (f : Word → Word → Word) (rd rs1 rs2 : BitVec 5) (k : Nat) (s : State) : Chk State :=
  match sreg s k rs1, sreg s k rs2 with
  | .ok a, .ok b => .ok (setReg k rd (f a b) s)
  | .error e, _ => .error e
  | _, .error e => .error e

/-- Predicate rd[2:0] ← f(rs1, rs2); rd[4:3] other than 0 is a reserved encoding. -/
def aluPred (f : Word → Word → Bool) (rd rs1 rs2 : BitVec 5) (k : Nat) (s : State) : Chk State :=
  if !predReg rd then .error (.fault 3)
  else match sreg s k rs1, sreg s k rs2 with
    | .ok a, .ok b => .ok (setPred k rd.toNat (f a b) s)
    | .error e, _ => .error e
    | _, .error e => .error e

/-- rd ← f(rs1, imm12), the immediate sign-extended (Table 5.6). -/
def aluRI (f : Word → Word → Word) (rd rs1 : BitVec 5) (imm : BitVec 12) (k : Nat) (s : State) : Chk State :=
  (sreg s k rs1).map fun a => setReg k rd (f a (imm.signExtend 32)) s

/-- rd ← rd OR imm17[14:0]; imm17[16:15] other than 0 is a reserved encoding (Table 5.8). -/
def orLow (rd : BitVec 5) (imm : BitVec 17) (k : Nat) (s : State) : Chk State :=
  if 2 ^ 15 ≤ imm.toNat then .error (.fault 3)
  else (sreg s k rd).map fun a => setReg k rd (a ||| imm.setWidth 32) s

/-- ADD: rd ← rs1 + rs2 (R154). -/
def execAdd (w : Thr) (rd rs1 rs2 : BitVec 5) (s : State) : Res := .next (issueNext w (aluRR (fun a b => a + b) rd rs1 rs2) s)
/-- SUB: rd ← rs1 − rs2 (R154). -/
def execSub (w : Thr) (rd rs1 rs2 : BitVec 5) (s : State) : Res := .next (issueNext w (aluRR (fun a b => a - b) rd rs1 rs2) s)
/-- AND: bitwise AND (R154). -/
def execAnd (w : Thr) (rd rs1 rs2 : BitVec 5) (s : State) : Res := .next (issueNext w (aluRR (fun a b => a &&& b) rd rs1 rs2) s)
/-- OR: bitwise OR (R154). -/
def execOr (w : Thr) (rd rs1 rs2 : BitVec 5) (s : State) : Res := .next (issueNext w (aluRR (fun a b => a ||| b) rd rs1 rs2) s)
/-- XOR: bitwise XOR (R154). -/
def execXor (w : Thr) (rd rs1 rs2 : BitVec 5) (s : State) : Res := .next (issueNext w (aluRR (fun a b => a ^^^ b) rd rs1 rs2) s)
/-- SLL: logical left shift (R154). -/
def execSll (w : Thr) (rd rs1 rs2 : BitVec 5) (s : State) : Res := .next (issueNext w (aluRR (sllW) rd rs1 rs2) s)
/-- SRL: logical right shift (R154). -/
def execSrl (w : Thr) (rd rs1 rs2 : BitVec 5) (s : State) : Res := .next (issueNext w (aluRR (srlW) rd rs1 rs2) s)
/-- SRA: arithmetic right shift (R154). -/
def execSra (w : Thr) (rd rs1 rs2 : BitVec 5) (s : State) : Res := .next (issueNext w (aluRR (sraW) rd rs1 rs2) s)
/-- MUL: low 32 bits of the product (R154). -/
def execMul (w : Thr) (rd rs1 rs2 : BitVec 5) (s : State) : Res := .next (issueNext w (aluRR (fun a b => a * b) rd rs1 rs2) s)
/-- MULHU: high 32 bits of the unsigned product (R154). -/
def execMulhu (w : Thr) (rd rs1 rs2 : BitVec 5) (s : State) : Res := .next (issueNext w (aluRR (mulhuW) rd rs1 rs2) s)
/-- MIN: signed minimum (R154). -/
def execMin (w : Thr) (rd rs1 rs2 : BitVec 5) (s : State) : Res := .next (issueNext w (aluRR (minW) rd rs1 rs2) s)
/-- MAX: signed maximum (R154). -/
def execMax (w : Thr) (rd rs1 rs2 : BitVec 5) (s : State) : Res := .next (issueNext w (aluRR (maxW) rd rs1 rs2) s)
/-- PEQ (R154). -/
def execPeq (w : Thr) (rd rs1 rs2 : BitVec 5) (s : State) : Res := .next (issueNext w (aluPred (fun a b => a == b) rd rs1 rs2) s)
/-- PNE (R154). -/
def execPne (w : Thr) (rd rs1 rs2 : BitVec 5) (s : State) : Res := .next (issueNext w (aluPred (fun a b => a != b) rd rs1 rs2) s)
/-- PLT (R154). -/
def execPlt (w : Thr) (rd rs1 rs2 : BitVec 5) (s : State) : Res := .next (issueNext w (aluPred (fun a b => a.slt b) rd rs1 rs2) s)
/-- PLTU (R154). -/
def execPltu (w : Thr) (rd rs1 rs2 : BitVec 5) (s : State) : Res := .next (issueNext w (aluPred (fun a b => a.ult b) rd rs1 rs2) s)
/-- ADDI (R154). -/
def execAddi (w : Thr) (rd rs1 : BitVec 5) (imm : BitVec 12) (s : State) : Res := .next (issueNext w (aluRI (fun a b => a + b) rd rs1 imm) s)
/-- ANDI (R154). -/
def execAndi (w : Thr) (rd rs1 : BitVec 5) (imm : BitVec 12) (s : State) : Res := .next (issueNext w (aluRI (fun a b => a &&& b) rd rs1 imm) s)
/-- ORI (R154). -/
def execOri (w : Thr) (rd rs1 : BitVec 5) (imm : BitVec 12) (s : State) : Res := .next (issueNext w (aluRI (fun a b => a ||| b) rd rs1 imm) s)
/-- XORI (R154). -/
def execXori (w : Thr) (rd rs1 : BitVec 5) (imm : BitVec 12) (s : State) : Res := .next (issueNext w (aluRI (fun a b => a ^^^ b) rd rs1 imm) s)
/-- SLLI (R154). -/
def execSlli (w : Thr) (rd rs1 : BitVec 5) (imm : BitVec 12) (s : State) : Res := .next (issueNext w (aluRI (sllW) rd rs1 imm) s)
/-- SRLI (R154). -/
def execSrli (w : Thr) (rd rs1 : BitVec 5) (imm : BitVec 12) (s : State) : Res := .next (issueNext w (aluRI (srlW) rd rs1 imm) s)
/-- SRAI (R154). -/
def execSrai (w : Thr) (rd rs1 : BitVec 5) (imm : BitVec 12) (s : State) : Res := .next (issueNext w (aluRI (sraW) rd rs1 imm) s)
/-- LUI: rd ← imm17 << 15 (R154). -/
def execLui (w : Thr) (rd : BitVec 5) (imm : BitVec 17) (s : State) : Res :=
  .next (issueNext w (fun k s => .ok (setReg k rd (imm.setWidth 32 <<< 15) s)) s)
/-- LLI (R154). -/
def execLli (w : Thr) (rd : BitVec 5) (imm : BitVec 17) (s : State) : Res := .next (issueNext w (orLow rd imm) s)

end Sys2Proof.Machine
end

