-- ==== Sys2Proof/Machine/Security.lean ====
section
/-! DEFINITION. Worlds, the secure restart, identity and attestation (R422 to R435, R442 to R446). -/

namespace Sys2Proof.Machine

/-- Changes the world record. -/
def modWorld (s : State) (f : World → World) : State := { s with world := f s.world }

/-! ### Changing a cluster's world (R430) -/

/-- Step 4 of Table 14.4 for clusters that pass `f`: interrupt files are cleared, and routes to their harts lose ENABLE. -/
def clearIrqs (f : Nat → Bool) (s : State) : State :=
  let off := fun (e : IrqEntry) => if !e.pcie && f (e.hart / 4) then { e with enable := false } else e
  let s := { s with party := tmap (fun (p : PartySt) => { p with irq0 := off p.irq0, irq1 := off p.irq1 }) s.party }
  modWorld s fun w => { w with irqs := w.irqs.filter fun e => !f (e.1 / 2048 / 4) }

/-- Completes WORLD_SET when every change is in force (R427). -/
def worldDone (s : State) : State :=
  if s.world.changing ≠ 0 ∨ s.world.lwmNext.isSome then s
  else match s.world.pend with
    | some d => finish d ok (modWorld s fun w => { w with pend := none })
    | none => s

/-- Steps 2 to 5 of Table 14.4: the cluster joins its new world, and its harts are released at the new image's entry. -/
def changeCluster (c forced : Nat) (s : State) : State :=
  let old := s.world.clusters
  let new := setBit old c (bitOf s.world.target c)
  let s := clearIrqs (fun x => decide (x = c)) s
  let s := modWorld s fun w => { w with clusters := new, changing := setBit w.changing c false }
  worldDone (releaseHarts (fun x => decide (x = c)) 0 (worldEvent 2 old new forced s))

/-- HARTS_STOP: a world has stopped the harts of a cluster; one that changes world goes on (R378, R430). -/
def execHartsStop (cluster : Fin 4) (s : State) : Res :=
  let c := cluster.val
  .next (
    if !awake s then s
    else if bitOf s.world.changing c then changeCluster c 0 s
    else modWorld s fun w => { w with stopped := setBit w.stopped c true })

/-- HART_STOP_TIMEOUT: after 100 ms the Kettle stops the harts that still run; how many is a free value. -/
def execHartStopTimeout (cluster : Fin 4) (s : State) : Res :=
  let c := cluster.val
  .next (
    if !awake s ∨ !bitOf s.world.changing c ∨ ktSince s s.world.changeAt < 10000000 then s
    else let d := draw s; changeCluster c (1 + Config.freeNat d.1 % 4) d.2)

/-! ### WORLD_SET (R425 to R429) -/

/-- Bits 0 to 3 in which two masks differ. -/
def diffMask (a b : Nat) : Nat := (((List.range 4).filter fun c => bitOf a c != bitOf b c).map fun c => 2 ^ c).sum

/-- Granules from 4 up to a new SWM that GS does not hold. -/
def swmLack (s : State) (swm : Nat) : Nat :=
  let gs := granules (reqGrant s 16).dram
  ((List.range swm).filter fun x => decide (4 ≤ x) && !gs.contains x).length

/-- Leaves by which a raised LWM would leave fewer leaves than the normal grants name. -/
def lwmLack (s : State) (lwm : Nat) : Nat :=
  (((List.range 16).map fun p => (getParty s p).grant.leaves).sum) - (leafIdx.filter fun l => decide (lwm ≤ l) && decide ((getLeaf s l).kind = .enabled)).length

/-- The changes that a WORLD_SET makes, once its checks have passed. -/
def applyWorld (d : Pend) (swm lwm clusters : Option Nat) (s : State) : State × Option Ans :=
  let s := match swm with
    | some v => if v = s.world.swm then s else worldEvent 0 s.world.swm v 0 (modWorld s fun w => { w with swm := v })
    | none => s
  let wait : Bool := match lwm with | some v => !(lowHeld s v).isEmpty && decide (s.world.lwm < v) | none => false
  let s := match lwm with
    | some v => if v = s.world.lwm then s else if wait then modWorld s fun w => { w with lwmNext := some v } else putLwm v s
    | none => s
  let ch := match clusters with | some v => diffMask v s.world.clusters | none => 0
  let s := modWorld s fun w => { w with changing := ch, target := clusters.getD 0, changeAt := if ch = 0 then w.changeAt else s.ktime }
  if wait || decide (ch ≠ 0) then (modWorld s fun w => { w with pend := some d }, none) else say ok s

/-- WORLD_SET: the fields named are checked in the order SWM, LWM, clusters.
The order of its answers: DESIGN CHOICE, assumption 117. -/
def ownWorldSet : Own := fun m d s =>
  let f := fld m 0 1
  let cl := fld m 1 1
  let lwm := fld m 2 1
  let swm := fld m 4 2
  let on := fun (k : Nat) => bitOf f k
  let cgs := (List.range 8).filter fun c => decide (c * cgBytes s < swm * 0x4000000)
  let ask := fun (k v : Nat) => if on k then some v else none
  let sec := (secureEst s).isSome || s.jobs.securePend.isSome
  checked [(0, decide (f = 0) || decide (8 ≤ f)), (3, rsvBad m 3 1), (6, rsvBad m 6 2),
      (4, if on 0 then decide (swm < 4) || decide (4 * cgBytes s < swm * 0x4000000) || !(cgs.all fun c => bitOf (reqGrant s 16).cg c)
          else decide (swm ≠ 0))] s
    (if on 0 ∧ swmLack s swm ≠ 0 then say (noRes (swmLack s swm)) s
     else checked [(2, if on 1 then decide (lwm % 12 ≠ 0) || decide (84 < lwm) else decide (lwm ≠ 0))] s
       (refusedBy [(on 1 && decide (lwm ≠ s.world.lwm) && sec, stBUSY)] s
         (if on 1 ∧ s.world.lwm < lwm ∧ lwmLack s lwm ≠ 0 then say (noRes (lwmLack s lwm)) s
          else checked [(1, if on 2 then decide (16 ≤ cl) else decide (cl ≠ 0))] s
            (refusedBy [(s.world.pend.isSome, stBUSY)] s (applyWorld d (ask 0 swm) (ask 1 lwm) (ask 2 cl) s)))))

/-- WORLD_SET, sent by GS. -/
def execWorldSet (m : Msg) (s : State) : Res :=
  let t := serve 0x0800 isGs (lenIs 8) ownWorldSet m s
  .next (if taken 16 s t then settle t else t)

/-! ### The secure restart (R435) -/

/-- SECURE_RESTART: its steps begin after the PENDING. -/
def ownSecureRestart : Own := fun m d s =>
  let a := fld m 0 6
  let n := fld m 8 4
  let fl := fld m 12 1
  checked [(6, rsvBad m 6 2), (8, decide (0x4000000 < n) || (decide (a = 0) != decide (n = 0))), (12, decide (2 ≤ fl)), (13, rsvBad m 13 3)] s
    (refusedBy [(decide (a ≠ 0) && (!inReq s 16 a n || decide (s.world.swm * 0x4000000 < a + n)), stDENIED)] s
      (modWorld s fun w => { w with restart := some (bitOf fl 0, a, n, d) }, none))

/-- Step 2, with WIPE: what is bound to GS closes; its templates and its estates are freed. -/
def wipeGs (s : State) : State :=
  let close := fun (s : State) (k n : Nat) => (List.range n).foldl (fun s i => if blockOwner s k i = 17 then
    (let t := blockClose k i s; if k = 6 then closeSes i t else t) else s) s
  let s := close (close (close (close s 4 6) 5 16) 6 64) 7 4
  let s := (s.cross.win.filter fun x => x.2.live && decide (x.2.owner = 16)).foldl (fun s x => closeWin x.1 s) s
  let s := { s with queue := s.queue.filter fun x => !(qInGrant s 16 x.1 false || qInGrant s 16 x.1 true) }
  let s := (estatesOf s 16).foldl (fun s e => freeEstate e (if (getEst s e).halted then s else denyJob s e)) s
  (tmplsOf s 16).foldl (fun s t => dropTmpl 16 t.handle s) s

/-- Step 4, with WIPE: secure DRAM outside the Kettle's range and outside the image reads as zeros. -/
def wipeDram (a n : Nat) (s : State) : State :=
  let hi := s.world.swm * 0x4000000
  let s := cleanLines (fun _ l => decide (0x400000 ≤ l) && decide (l * 64 < hi)) true s
  { s with mem := { s.mem with cells := s.mem.cells.filter fun e =>
      !(decide (0x10000000 ≤ e.1) && decide (e.1 < hi) && !(decide (a ≤ e.1) && decide (e.1 < a + n))) } }

/-- Steps 1 to 4 of Table 14.5. -/
def restartBegin (wipe : Bool) (a n : Nat) (s : State) : State :=
  let s := modWorld s fun w => { w with gsClosed := true, stopped := (List.range 4).foldl (fun m c => if bitOf w.clusters c then setBit m c true else m) w.stopped }
  let s := match secureEst s with | some e => denyJob s e | none => s
  let s := if wipe then wipeGs s else s
  let s := clearIrqs (fun c => bitOf s.world.clusters c) s
  settle (if wipe then wipeDram a n s else s)

/-- SECURE_RESTART, sent by GS. -/
def execSecureRestart (m : Msg) (s : State) : Res :=
  let t := serve 0x0801 isGs (lenIs 16) ownSecureRestart m s
  .next (match s.world.restart, t.world.restart with
    | none, some (wipe, a, n, _) => restartBegin wipe a n t
    | _, _ => t)

/-- The image that the restart reads: from DRAM it is checked here; what flash holds is given by the command. -/
def restartImage (s : State) (a n : Nat) : Option (List Byte) := if a = 0 then none else some (memRead s a n)

/-- GS's mailbox goes back to its default place with no notice queue, and the answer of the restart is written there. -/
def restartAnswer (d : Pend) (a : Ans) (s : State) : State :=
  let s := modParty s 16 fun t => { t with mbox := 0, mboxNext := 0, noticeOn := false, notice := 0, heldNotices := [],
                                           outstanding := t.outstanding - b2n d.notice }
  answer 16 d.msg d.tag a s

/-- SECURE_RESTART_DONE: steps 5 and 6. Where the image fails the secure harts stay stopped and GS's mailbox stays closed. -/
def execSecureRestartDone (imageOk : Bool) (s : State) : Res :=
  .next (match s.world.restart with
    | none => s
    | some (wipe, a, n, d) =>
      if s.safe.kettleFault ∨ s.firm.act = .open_ ∨ !awake s then s
      else
        let img := restartImage s a n
        let good := imageOk && (match img with | some b => decide ((verdict s 5 32 1 3 b).1 = stOK) | none => true)
        let s := modWorld s fun w => { w with restart := none }
        if !good then
          let s := event srcAfzan 0x4005 16 (leBytes 1 1 ++ leBytes 1 (b2n wipe) ++ leBytes 4 s.world.restarts) s
          restartAnswer d (sts stDENIED) (modWorld s fun w => { w with secureDown := true })
        else
          let s := match img with
            | some b => modFirm s fun f => { f with mSecure := sha b, level3 := (f.level3 / 256 ||| field b 15 1) * 256 + max (f.level3 % 256) (field b 12 2) }
            | none => let x := freeBytes 48 s; verifyOwner (modFirm x.2 fun f => { f with mSecure := x.1 })
          let s := modWorld s fun w => { w with restarts := (w.restarts + 1) % 2 ^ 32, wiped := wipe, gsClosed := false }
          let s := restartAnswer d ok s
          let s := event srcAfzan 0x4005 16 (leBytes 1 0 ++ leBytes 1 (b2n wipe) ++ leBytes 4 s.world.restarts) s
          releaseHarts (fun c => bitOf s.world.clusters c) 0 s)

/-! ### Identity (R442 to R444) -/

/-- Bytes of an identity value, as `n` bytes. -/
def ident (what x n : Nat) : List Byte := ((Config.ident what x) ++ leBytes n 0).take n

/-- The measurement of the running Afzan image. -/
def mAfzan (s : State) : List Byte := let x := runSlot s; if x.digest = [] then ident 3 x.release 48 else x.digest

/-- A measurement as 48 bytes. -/
def m48 (b : List Byte) : List Byte := (b ++ leBytes 48 0).take 48

/-- FW_DIGEST (R442). -/
def fwDigest (s : State) : List Byte := sha (ident 1 0 48 ++ mAfzan s ++ m48 s.firm.mUcode)

/-- PART and DRAM_GIB of a statement. -/
def partNo (s : State) : Nat := if s.part.floor = 8 then 7165 else if s.part.floor = 10 then 7132 else 7110
def dramGib (s : State) : Nat := if s.part.big then 64 else 32

/-- A statement body (Table 14.8): KIND 1 identity, KIND 2 alias. -/
def stmtBody (s : State) (kind : Nat) : List Byte :=
  let g := s.firm.aliasGen
  let alias2 := decide (kind = 2)
  leBytes 4 0x5A494431 ++ leBytes 4 kind ++ ident 0 0 16 ++ leBytes 2 Config.stepping ++ leBytes 2 (partNo s) ++ leBytes 1 (dramGib s) ++ leBytes 3 0 ++
    (if alias2 then ident 7 g 48 else ident 5 0 48) ++ (if alias2 then fwDigest s else leBytes 48 0) ++
    leBytes 4 (if alias2 then (runSlot s).release else 0) ++ leBytes 124 0 ++ (if alias2 then ident 6 g 384 else ident 4 0 384)

/-- A signature pair of bytes by a key: RSA, then SLH-DSA. -/
def signedBy (who : Nat) (body : List Byte) : List Byte :=
  ((Config.signature 384 who body) ++ leBytes 384 0).take 384 ++ ((Config.signature 16224 who body) ++ leBytes 16224 0).take 16224

/-- A statement of 17,248 bytes: the identity statement is signed by Waillida, the alias statement by the identity keys. -/
def statement (s : State) (kind : Nat) : List Byte := let b := stmtBody s kind; b ++ signedBy (if kind = 1 then 0 else 1) b

/-- IDENTITY_GET answer. -/
def identityBytes (s : State) : List Byte :=
  ident 0 0 16 ++ leBytes 2 Config.stepping ++ leBytes 2 (partNo s) ++ leBytes 1 (dramGib s) ++ leBytes 11 0 ++ sha (statement s 1) ++ sha (statement s 2)

/-- IDENTITY_GET. -/
def ownIdentityGet : Own := fun m d s =>
  let a := fld m 0 6
  checked [(6, rsvBad m 6 2)] s
    (refusedBy [(decide (a ≠ 0) && (decide (d.party = 17) || !inReq s d.party a 34496), stDENIED), (s.firm.deriving_, stNOT_READY)] s
      (say (okWith (identityBytes s)) (if a = 0 then s else putBytes byKettle a (statement s 1 ++ statement s 2) s)))

/-- IDENTITY_GET, sent by any party or GX. -/
def execIdentityGet (m : Msg) (s : State) : Res := .next (serve 0x0803 isPartyGx (lenIs 8) ownIdentityGet m s)

/-! ### Attestation (R445, R446) -/

/-- Puts a template into a list in ascending handle order. -/
def byHandle (t : Tmpl) : List Tmpl → List Tmpl
  | [] => [t]
  | x :: xs => if t.handle ≤ x.handle then t :: x :: xs else x :: byHandle t xs

/-- M_PARTY: over the grant record, then the SHA-384 of each loaded template in ascending handle order. -/
def mParty (s : State) (p : Nat) : List Byte :=
  sha (grantBytes p (getParty s p).grant ++ ((tmplsOf s p).foldl (fun l t => byHandle t l) []).flatMap fun t => sha t.image)

/-- FLAGS of a report (Table 14.10). -/
def reportFlags (s : State) (p : Nat) : Nat :=
  b2n s.firm.debug + 2 * b2n (decide (tget s.firm.restored p ≠ [])) + 4 * b2n (decide (s.safe.injection = 0x7F)) +
    8 * b2n (decide (s.safe.causes ≠ 0)) + 16 * b2n s.world.wiped

/-- A report body (Table 14.10). -/
def reportBody (s : State) (p : Nat) (nonce : List Byte) : List Byte :=
  let c := fun (k : Nat) => leBytes 2 (tget s.firm.counters k)
  leBytes 4 0x5A415431 ++ leBytes 2 (runSlot s).afi ++ leBytes 1 p ++ leBytes 1 (reportFlags s p) ++ leBytes 8 s.ktime ++ m48 nonce ++ ident 0 0 16 ++
    leBytes 4 (runSlot s).release ++ c 0 ++ c 1 ++ c 2 ++ c 3 ++ leBytes 4 s.world.restarts ++ ident 1 0 48 ++ mAfzan s ++ m48 s.firm.mUcode ++
    m48 s.firm.mBoot ++ m48 s.firm.mSecure ++ m48 s.firm.mNormal ++ mParty s p ++ m48 (tget s.firm.restored p) ++ leBytes 32 0

/-- The Kettle fixes the body of the report that is first in line. -/
def fixBody (s : State) : State :=
  match s.firm.attest with
  | [] => modFirm s fun f => { f with body := [] }
  | (d, _, nonce) :: _ => modFirm s fun f => { f with body := reportBody s d.party nonce }

/-- ATTEST. -/
def ownAttest : Own := fun m d s =>
  let a := fld m 0 6
  let n := fld m 8 4
  checked [(0, decide (a % 64 ≠ 0)), (6, rsvBad m 6 2), (12, rsvBad m 12 4)] s
    (refusedBy [(!inReq s d.party a n, stDENIED)] s
      (if n < 17120 then say (noRes 17120) s
       else if s.firm.attest.any fun x => decide (x.1.party = d.party) then say (sts stBUSY) s
       else
         let first := s.firm.attest.isEmpty
         let t := modFirm s fun f => { f with attest := f.attest ++ [(d, a, (m.payload.drop 16).take 48)] }
         (if first then fixBody t else t, none)))

/-- ATTEST, sent by any party. -/
def execAttest (m : Msg) (s : State) : Res := .next (serve 0x0802 isParty (lenIs 64) ownAttest m s)

/-- ATTEST_SIGNED: the report that is first in line is signed by the alias keys and written; the next is begun. Where the party
no longer holds the buffer it ends DENIED. -/
def execAttestSigned (ms : Nat) (s : State) : Res :=
  .next (match s.firm.attest with
    | [] => s
    | (d, a, _) :: rest =>
      if s.firm.act = .open_ ∨ s.safe.kettleFault ∨ !awake s then s
      else
        let body := s.firm.body
        let s := fixBody (modFirm s fun f => { f with attest := rest })
        if !inGrantNoPool s d.party a 17120 then finish d (sts stDENIED) s
        else
          let s := putBytes byKettle a (body ++ signedBy (2 + s.firm.aliasGen) body) s
          finish d (okWith (leBytes 4 17120)) (event srcAfzan 0x4007 d.party (leBytes 1 d.party ++ leBytes 4 ms) s))

end Sys2Proof.Machine
end

