-- ==== Sys2Proof/Machine/Dispatch.lean ====
section
/-! DEFINITION. The meaning of each command: one arm per row of spec/opcode_table.json, each one call. -/

namespace Sys2Proof.Machine

/-- The effect of a command on everything but the queue. -/
def exec (i : Instr) (s : State) : Host.Outcome State Fault Refusal :=
  match i with
  | .add w rd rs1 rs2 => Sys2Proof.Machine.execAdd w rd rs1 rs2 s
  | .sub w rd rs1 rs2 => Sys2Proof.Machine.execSub w rd rs1 rs2 s
  | .and w rd rs1 rs2 => Sys2Proof.Machine.execAnd w rd rs1 rs2 s
  | .or w rd rs1 rs2 => Sys2Proof.Machine.execOr w rd rs1 rs2 s
  | .xor w rd rs1 rs2 => Sys2Proof.Machine.execXor w rd rs1 rs2 s
  | .sll w rd rs1 rs2 => Sys2Proof.Machine.execSll w rd rs1 rs2 s
  | .srl w rd rs1 rs2 => Sys2Proof.Machine.execSrl w rd rs1 rs2 s
  | .sra w rd rs1 rs2 => Sys2Proof.Machine.execSra w rd rs1 rs2 s
  | .mul w rd rs1 rs2 => Sys2Proof.Machine.execMul w rd rs1 rs2 s
  | .mulhu w rd rs1 rs2 => Sys2Proof.Machine.execMulhu w rd rs1 rs2 s
  | .min w rd rs1 rs2 => Sys2Proof.Machine.execMin w rd rs1 rs2 s
  | .max w rd rs1 rs2 => Sys2Proof.Machine.execMax w rd rs1 rs2 s
  | .peq w rd rs1 rs2 => Sys2Proof.Machine.execPeq w rd rs1 rs2 s
  | .pne w rd rs1 rs2 => Sys2Proof.Machine.execPne w rd rs1 rs2 s
  | .plt w rd rs1 rs2 => Sys2Proof.Machine.execPlt w rd rs1 rs2 s
  | .pltu w rd rs1 rs2 => Sys2Proof.Machine.execPltu w rd rs1 rs2 s
  | .addi w rd rs1 imm => Sys2Proof.Machine.execAddi w rd rs1 imm s
  | .andi w rd rs1 imm => Sys2Proof.Machine.execAndi w rd rs1 imm s
  | .ori w rd rs1 imm => Sys2Proof.Machine.execOri w rd rs1 imm s
  | .xori w rd rs1 imm => Sys2Proof.Machine.execXori w rd rs1 imm s
  | .slli w rd rs1 imm => Sys2Proof.Machine.execSlli w rd rs1 imm s
  | .srli w rd rs1 imm => Sys2Proof.Machine.execSrli w rd rs1 imm s
  | .srai w rd rs1 imm => Sys2Proof.Machine.execSrai w rd rs1 imm s
  | .lui w rd imm => Sys2Proof.Machine.execLui w rd imm s
  | .lli w rd imm => Sys2Proof.Machine.execLli w rd imm s
  | .lb w rd rs1 imm => Sys2Proof.Machine.execLb w rd rs1 imm s
  | .lbu w rd rs1 imm => Sys2Proof.Machine.execLbu w rd rs1 imm s
  | .lh w rd rs1 imm => Sys2Proof.Machine.execLh w rd rs1 imm s
  | .lhu w rd rs1 imm => Sys2Proof.Machine.execLhu w rd rs1 imm s
  | .lw w rd rs1 imm => Sys2Proof.Machine.execLw w rd rs1 imm s
  | .ld w rd rs1 imm => Sys2Proof.Machine.execLd w rd rs1 imm s
  | .sb w rd rs1 imm => Sys2Proof.Machine.execSb w rd rs1 imm s
  | .sh w rd rs1 imm => Sys2Proof.Machine.execSh w rd rs1 imm s
  | .sw w rd rs1 imm => Sys2Proof.Machine.execSw w rd rs1 imm s
  | .sd w rd rs1 imm => Sys2Proof.Machine.execSd w rd rs1 imm s
  | .lwx w rd rs1 imm => Sys2Proof.Machine.execLwx w rd rs1 imm s
  | .swx w rd rs1 imm => Sys2Proof.Machine.execSwx w rd rs1 imm s
  | .br w p sense off => Sys2Proof.Machine.execBr w p sense off s
  | .jal w rd imm => Sys2Proof.Machine.execJal w rd imm s
  | .jr w rd rs1 => Sys2Proof.Machine.execJr w rd rs1 s
  | .vadd w vd va vb rm => Sys2Proof.Machine.execVadd w vd va vb rm s
  | .vsub w vd va vb rm => Sys2Proof.Machine.execVsub w vd va vb rm s
  | .vmul w vd va vb rm => Sys2Proof.Machine.execVmul w vd va vb rm s
  | .vfma w vd va vb rm => Sys2Proof.Machine.execVfma w vd va vb rm s
  | .vmin w vd va vb rm => Sys2Proof.Machine.execVmin w vd va vb rm s
  | .vmax w vd va vb rm => Sys2Proof.Machine.execVmax w vd va vb rm s
  | .viadd w vd va vb rm => Sys2Proof.Machine.execViadd w vd va vb rm s
  | .visub w vd va vb rm => Sys2Proof.Machine.execVisub w vd va vb rm s
  | .vimul w vd va vb rm => Sys2Proof.Machine.execVimul w vd va vb rm s
  | .viadds w vd va vb rm => Sys2Proof.Machine.execViadds w vd va vb rm s
  | .visubs w vd va vb rm => Sys2Proof.Machine.execVisubs w vd va vb rm s
  | .vsll w vd va vb rm => Sys2Proof.Machine.execVsll w vd va vb rm s
  | .vsrl w vd va vb rm => Sys2Proof.Machine.execVsrl w vd va vb rm s
  | .vsra w vd va vb rm => Sys2Proof.Machine.execVsra w vd va vb rm s
  | .vrsum w vd va rm => Sys2Proof.Machine.execVrsum w vd va rm s
  | .vrmax w vd va rm => Sys2Proof.Machine.execVrmax w vd va rm s
  | .vbc w vd rs1 => Sys2Proof.Machine.execVbc w vd rs1 s
  | .vmovs w rd va => Sys2Proof.Machine.execVmovs w rd va s
  | .vldr w vr rs1 rs2 fmt sat rm => Sys2Proof.Machine.execVldr w vr rs1 rs2 fmt sat rm s
  | .vldc w vr rs1 rs2 fmt sat rm => Sys2Proof.Machine.execVldc w vr rs1 rs2 fmt sat rm s
  | .vlda w vr rs1 rs2 fmt sat rm => Sys2Proof.Machine.execVlda w vr rs1 rs2 fmt sat rm s
  | .vstr w vr rs1 rs2 fmt sat rm => Sys2Proof.Machine.execVstr w vr rs1 rs2 fmt sat rm s
  | .vstc w vr rs1 rs2 fmt sat rm => Sys2Proof.Machine.execVstc w vr rs1 rs2 fmt sat rm s
  | .vsta w vr rs1 rs2 fmt sat rm => Sys2Proof.Machine.execVsta w vr rs1 rs2 fmt sat rm s
  | .sexp2 w vd va => Sys2Proof.Machine.execSexp2 w vd va s
  | .slog2 w vd va => Sys2Proof.Machine.execSlog2 w vd va s
  | .srcp w vd va => Sys2Proof.Machine.execSrcp w vd va s
  | .srsq w vd va => Sys2Proof.Machine.execSrsq w vd va s
  | .ssqrt w vd va => Sys2Proof.Machine.execSsqrt w vd va s
  | .ssin w vd va => Sys2Proof.Machine.execSsin w vd va s
  | .scos w vd va => Sys2Proof.Machine.execScos w vd va s
  | .stanh w vd va => Sys2Proof.Machine.execStanh w vd va s
  | .ssig w vd va => Sys2Proof.Machine.execSsig w vd va s
  | .mma w rs1 tok a clear => Sys2Proof.Machine.execMma w rs1 tok a clear s
  | .drain w rs1 tok a => Sys2Proof.Machine.execDrain w rs1 tok a s
  | .accst w rd a => Sys2Proof.Machine.execAccst w rd a s
  | .dma w rs1 => Sys2Proof.Machine.execDma w rs1 s
  | .qpush w rs1 rs2 qn => Sys2Proof.Machine.execQpush w rs1 rs2 qn s
  | .qpop w rs1 rs2 qn => Sys2Proof.Machine.execQpop w rs1 rs2 qn s
  | .qtry w rs1 rs2 qn p => Sys2Proof.Machine.execQtry w rs1 rs2 qn p s
  | .qwait w rd rs2 qn => Sys2Proof.Machine.execQwait w rd rs2 qn s
  | .qret w rs1 rs2 qn => Sys2Proof.Machine.execQret w rs1 rs2 qn s
  | .qlen w rd rs2 qn => Sys2Proof.Machine.execQlen w rd rs2 qn s
  | .wait w n => Sys2Proof.Machine.execWait w n s
  | .bar w n cnt => Sys2Proof.Machine.execBar w n cnt s
  | .stepEnd w => Sys2Proof.Machine.execStepEnd w s
  | .halt w => Sys2Proof.Machine.execHalt w s
  | .rbinw w rs1 tok => Sys2Proof.Machine.execRbinw w rs1 tok s
  | .rdraw w => Sys2Proof.Machine.execRdraw w s
  | .rbin w rd => Sys2Proof.Machine.execRbin w rd s
  | .rload w rs1 tok => Sys2Proof.Machine.execRload w rs1 tok s
  | .rsetup w rs1 tok => Sys2Proof.Machine.execRsetup w rs1 tok s
  | .rfrag w rd rs1 => Sys2Proof.Machine.execRfrag w rd rs1 s
  | .rtex w vr rs1 rs2 => Sys2Proof.Machine.execRtex w vr rs1 rs2 s
  | .rdepth w vr rs1 => Sys2Proof.Machine.execRdepth w vr rs1 s
  | .rblend w vr rs1 rs2 => Sys2Proof.Machine.execRblend w vr rs1 rs2 s
  | .rstore w rs1 tok => Sys2Proof.Machine.execRstore w rs1 tok s
  | .loadReturn w => Sys2Proof.Machine.execLoadReturn w s
  | .mmaComplete leaf => Sys2Proof.Machine.execMmaComplete leaf s
  | .drainComplete leaf => Sys2Proof.Machine.execDrainComplete leaf s
  | .dmaPieceComplete leaf slot => Sys2Proof.Machine.execDmaPieceComplete leaf slot s
  | .rasterOpComplete leaf => Sys2Proof.Machine.execRasterOpComplete leaf s
  | .stepReplay w => Sys2Proof.Machine.execStepReplay w s
  | .leafHeartbeat leaf answered => Sys2Proof.Machine.execLeafHeartbeat leaf answered s
  | .recoveryEnd => Sys2Proof.Machine.execRecoveryEnd s
  | .segmentCloseTimeout leaf seg => Sys2Proof.Machine.execSegmentCloseTimeout leaf seg s
  | .segmentOff leaf seg => Sys2Proof.Machine.execSegmentOff leaf seg s
  | .segmentZeroed leaf seg => Sys2Proof.Machine.execSegmentZeroed leaf seg s
  | .targetAccess t => Sys2Proof.Machine.execTargetAccess t s
  | .qptTailWrite b q v => Sys2Proof.Machine.execQptTailWrite b q v s
  | .qptHeadWrite b q v => Sys2Proof.Machine.execQptHeadWrite b q v s
  | .dblSubmitWrite b page v => Sys2Proof.Machine.execDblSubmitWrite b page v s
  | .dblMboxRing b page v => Sys2Proof.Machine.execDblMboxRing b page v s
  | .dblNotifyRead b page => Sys2Proof.Machine.execDblNotifyRead b page s
  | .rcFieldRead b r => Sys2Proof.Machine.execRcFieldRead b r s
  | .registerWrite b r v => Sys2Proof.Machine.execRegisterWrite b r v s
  | .recordTake q => Sys2Proof.Machine.execRecordTake q s
  | .jobStart q => Sys2Proof.Machine.execJobStart q s
  | .estateSwitchDone e => Sys2Proof.Machine.execEstateSwitchDone e s
  | .pourBroadcastEnd e missed => Sys2Proof.Machine.execPourBroadcastEnd e missed s
  | .pourPullDone leaf r => Sys2Proof.Machine.execPourPullDone leaf r s
  | .pourReloadDone leaf r => Sys2Proof.Machine.execPourReloadDone leaf r s
  | .jobStalled e => Sys2Proof.Machine.execJobStalled e s
  | .durationOverrun e => Sys2Proof.Machine.execDurationOverrun e s
  | .lendKill e => Sys2Proof.Machine.execLendKill e s
  | .hushEntry => Sys2Proof.Machine.execHushEntry s
  | .wake cls inst => Sys2Proof.Machine.execWake cls inst s
  | .dramZeroingDone => Sys2Proof.Machine.execDramZeroingDone s
  | .pllUnlock periods => Sys2Proof.Machine.execPllUnlock periods s
  | .fastCurrentLimit => Sys2Proof.Machine.execFastCurrentLimit s
  | .powerLimitWindow deciwatts => Sys2Proof.Machine.execPowerLimitWindow deciwatts s
  | .thermalThrottle sensor deci => Sys2Proof.Machine.execThermalThrottle sensor deci s
  | .thermalDoze sensor deci => Sys2Proof.Machine.execThermalDoze sensor deci s
  | .thermalDozeExit deci => Sys2Proof.Machine.execThermalDozeExit deci s
  | .thermalTrip => Sys2Proof.Machine.execThermalTrip s
  | .tripRestart => Sys2Proof.Machine.execTripRestart s
  | .voltageTrimCycle mv => Sys2Proof.Machine.execVoltageTrimCycle mv s
  | .selftestSliceStart e => Sys2Proof.Machine.execSelftestSliceStart e s
  | .selftestSliceEnd e failed => Sys2Proof.Machine.execSelftestSliceEnd e failed s
  | .selftestOverdue e => Sys2Proof.Machine.execSelftestOverdue e s
  | .pairWindowMiss e => Sys2Proof.Machine.execPairWindowMiss e s
  | .goldenFrameDone failed => Sys2Proof.Machine.execGoldenFrameDone failed s
  | .safetyIslandMismatch pair => Sys2Proof.Machine.execSafetyIslandMismatch pair s
  | .kettleLockstepMismatch => Sys2Proof.Machine.execKettleLockstepMismatch s
  | .kettleWatchdogExpiry => Sys2Proof.Machine.execKettleWatchdogExpiry s
  | .binGrowTimeout e => Sys2Proof.Machine.execBinGrowTimeout e s
  | .preemptAbandoned e => Sys2Proof.Machine.execPreemptAbandoned e s
  | .vblankLatch pipe => Sys2Proof.Machine.execVblankLatch pipe s
  | .linkTrainingResult pipe hpd lanes rate => Sys2Proof.Machine.execLinkTrainingResult pipe hpd lanes rate s
  | .displayLinkLoss pipe training => Sys2Proof.Machine.execDisplayLinkLoss pipe training s
  | .displayRetrain pipe ok => Sys2Proof.Machine.execDisplayRetrain pipe ok s
  | .scanoutUnderflow pipe => Sys2Proof.Machine.execScanoutUnderflow pipe s
  | .codecPictureDone session r => Sys2Proof.Machine.execCodecPictureDone session r s
  | .csiPacket rcv p => Sys2Proof.Machine.execCsiPacket rcv p s
  | .missingFrameEnd stream => Sys2Proof.Machine.execMissingFrameEnd stream s
  | .ispTilePush stream => Sys2Proof.Machine.execIspTilePush stream s
  | .timeSnapshot eth => Sys2Proof.Machine.execTimeSnapshot eth s
  | .fusMeasPop => Sys2Proof.Machine.execFusMeasPop s
  | .fusBatchProcess sensor => Sys2Proof.Machine.execFusBatchProcess sensor s
  | .fusListPush => Sys2Proof.Machine.execFusListPush s
  | .egoTimeout => Sys2Proof.Machine.execEgoTimeout s
  | .strainerArbitrate cg => Sys2Proof.Machine.execStrainerArbitrate cg s
  | .patrolScrub cg line => Sys2Proof.Machine.execPatrolScrub cg line s
  | .channelFail cg ch silent => Sys2Proof.Machine.execChannelFail cg ch silent s
  | .cacheOpDone party => Sys2Proof.Machine.execCacheOpDone party s
  | .granuleZeroed granule => Sys2Proof.Machine.execGranuleZeroed granule s
  | .alarmFire party => Sys2Proof.Machine.execAlarmFire party s
  | .activationWindowOpen => Sys2Proof.Machine.execActivationWindowOpen s
  | .activationReady => Sys2Proof.Machine.execActivationReady s
  | .activationWatchdog => Sys2Proof.Machine.execActivationWatchdog s
  | .fwStageDone readBackOk => Sys2Proof.Machine.execFwStageDone readBackOk s
  | .templateLoadDone party => Sys2Proof.Machine.execTemplateLoadDone party s
  | .hartStopTimeout cluster => Sys2Proof.Machine.execHartStopTimeout cluster s
  | .aliasDerived => Sys2Proof.Machine.execAliasDerived s
  | .attestSigned ms => Sys2Proof.Machine.execAttestSigned ms s
  | .safetySpiWrite frame => Sys2Proof.Machine.execSafetySpiWrite frame s
  | .safetySpiRead frame => Sys2Proof.Machine.execSafetySpiRead frame s
  | .safetySpiStatus frame => Sys2Proof.Machine.execSafetySpiStatus frame s
  | .serviceSpiWrite frame => Sys2Proof.Machine.execServiceSpiWrite frame s
  | .serviceSpiRead frame => Sys2Proof.Machine.execServiceSpiRead frame s
  | .serviceSpiStatus frame => Sys2Proof.Machine.execServiceSpiStatus frame s
  | .wakeNow v => Sys2Proof.Machine.execWakeNow v s
  | .fieldFrameCrcFail fromCore => Sys2Proof.Machine.execFieldFrameCrcFail fromCore s
  | .fieldOutputHoldExpiry => Sys2Proof.Machine.execFieldOutputHoldExpiry s
  | .pcieInboundRequest r => Sys2Proof.Machine.execPcieInboundRequest r s
  | .writeGroupEnd win ini => Sys2Proof.Machine.execWriteGroupEnd win ini s
  | .pcieCompletion tag c => Sys2Proof.Machine.execPcieCompletion tag c s
  | .outboundReadTimeout tag => Sys2Proof.Machine.execOutboundReadTimeout tag s
  | .windowDrainEnd win => Sys2Proof.Machine.execWindowDrainEnd win s
  | .pciePerst => Sys2Proof.Machine.execPciePerst s
  | .pciePowerManagement r => Sys2Proof.Machine.execPciePowerManagement r s
  | .peerLinkUp port n d => Sys2Proof.Machine.execPeerLinkUp port n d s
  | .pcieLinkDown port => Sys2Proof.Machine.execPcieLinkDown port s
  | .canFrameReceived ctrl f => Sys2Proof.Machine.execCanFrameReceived ctrl f s
  | .canFrameSent ctrl ok => Sys2Proof.Machine.execCanFrameSent ctrl ok s
  | .canBusOffRecovery ctrl => Sys2Proof.Machine.execCanBusOffRecovery ctrl s
  | .canDominant ctrl => Sys2Proof.Machine.execCanDominant ctrl s
  | .canWup ctrl => Sys2Proof.Machine.execCanWup ctrl s
  | .ethFrameIngress port f => Sys2Proof.Machine.execEthFrameIngress port f s
  | .routeDestTimeout ctrl => Sys2Proof.Machine.execRouteDestTimeout ctrl s
  | .acfTalkerSend rule => Sys2Proof.Machine.execAcfTalkerSend rule s
  | .gateListActivate port => Sys2Proof.Machine.execGateListActivate port s
  | .switchInputChange ch closed => Sys2Proof.Machine.execSwitchInputChange ch closed s
  | .pairImplausible ch => Sys2Proof.Machine.execPairImplausible ch s
  | .touchScan ch count => Sys2Proof.Machine.execTouchScan ch count s
  | .lampTurnOff ch cause ma => Sys2Proof.Machine.execLampTurnOff ch cause ma s
  | .lampRetry ch => Sys2Proof.Machine.execLampRetry ch s
  | .lampOpenLoad ch ma => Sys2Proof.Machine.execLampOpenLoad ch ma s
  | .analogSample ch raw => Sys2Proof.Machine.execAnalogSample ch raw s
  | .wakeInputEdge ch rising => Sys2Proof.Machine.execWakeInputEdge ch rising s
  | .parkSwitchPoll closed => Sys2Proof.Machine.execParkSwitchPoll closed s
  | .fieldTimerExpiry => Sys2Proof.Machine.execFieldTimerExpiry s
  | .usbcAttach port state mv ma => Sys2Proof.Machine.execUsbcAttach port state mv ma s
  | .vbusFault port => Sys2Proof.Machine.execVbusFault port s
  | .vbusRetry port => Sys2Proof.Machine.execVbusRetry port s
  | .ccOvervoltage port => Sys2Proof.Machine.execCcOvervoltage port s
  | .vbatChange centivolts => Sys2Proof.Machine.execVbatChange centivolts s
  | .vbatCut => Sys2Proof.Machine.execVbatCut s
  | .bringup r => Sys2Proof.Machine.execBringup r s
  | .dramTestRound oneBit rows bad => Sys2Proof.Machine.execDramTestRound oneBit rows bad s
  | .training unit ok => Sys2Proof.Machine.execTraining unit ok s
  | .linkRetrain unit ok => Sys2Proof.Machine.execLinkRetrain unit ok s
  | .pgoodSample good => Sys2Proof.Machine.execPgoodSample good s
  | .powerUpRetry => Sys2Proof.Machine.execPowerUpRetry s
  | .pgoodFall => Sys2Proof.Machine.execPgoodFall s
  | .resetNPin lowUs => Sys2Proof.Machine.execResetNPin lowUs s
  | .resetBegin => Sys2Proof.Machine.execResetBegin s
  | .caddyBackgroundFlush => Sys2Proof.Machine.execCaddyBackgroundFlush s
  | .i2sFrame port samples => Sys2Proof.Machine.execI2sFrame port samples s
  | .usbPortReset unit => Sys2Proof.Machine.execUsbPortReset unit s
  | .usbAddress unit => Sys2Proof.Machine.execUsbAddress unit s
  | .usbEndpointSet unit => Sys2Proof.Machine.execUsbEndpointSet unit s
  | .usbTransfer unit => Sys2Proof.Machine.execUsbTransfer unit s
  | .usbEndpointClear unit => Sys2Proof.Machine.execUsbEndpointClear unit s
  | .usbAttach unit speed route => Sys2Proof.Machine.execUsbAttach unit speed route s
  | .usbDetach unit route => Sys2Proof.Machine.execUsbDetach unit route s
  | .ufsScsi unit => Sys2Proof.Machine.execUfsScsi unit s
  | .ufsQuery unit => Sys2Proof.Machine.execUfsQuery unit s
  | .ufsTask unit => Sys2Proof.Machine.execUfsTask unit s
  | .ufsLink unit => Sys2Proof.Machine.execUfsLink unit s
  | .ufsLinkLost => Sys2Proof.Machine.execUfsLinkLost s
  | .ufsScsiTimeout tag => Sys2Proof.Machine.execUfsScsiTimeout tag s
  | .i2sPlay unit => Sys2Proof.Machine.execI2sPlay unit s
  | .i2sRecord unit => Sys2Proof.Machine.execI2sRecord unit s
  | .i2sStop unit => Sys2Proof.Machine.execI2sStop unit s
  | .xspiRead unit => Sys2Proof.Machine.execXspiRead unit s
  | .xspiProgram unit => Sys2Proof.Machine.execXspiProgram unit s
  | .xspiErase unit => Sys2Proof.Machine.execXspiErase unit s
  | .ioCompletion unit r => Sys2Proof.Machine.execIoCompletion unit r s
  | .vnicTransmit v => Sys2Proof.Machine.execVnicTransmit v s
  | .vnicReceive v f => Sys2Proof.Machine.execVnicReceive v f s
  | .afiVersion m => Sys2Proof.Machine.execAfiVersion m s
  | .mboxSet m => Sys2Proof.Machine.execMboxSet m s
  | .irqRoute m => Sys2Proof.Machine.execIrqRoute m s
  | .queueBind m => Sys2Proof.Machine.execQueueBind m s
  | .queueUnbind m => Sys2Proof.Machine.execQueueUnbind m s
  | .templateLoad m => Sys2Proof.Machine.execTemplateLoad m s
  | .templateFree m => Sys2Proof.Machine.execTemplateFree m s
  | .leafStats m => Sys2Proof.Machine.execLeafStats m s
  | .leafFence m => Sys2Proof.Machine.execLeafFence m s
  | .grantSet m => Sys2Proof.Machine.execGrantSet m s
  | .estateSet m => Sys2Proof.Machine.execEstateSet m s
  | .estateFree m => Sys2Proof.Machine.execEstateFree m s
  | .guestFreeze m => Sys2Proof.Machine.execGuestFreeze m s
  | .guestSave m => Sys2Proof.Machine.execGuestSave m s
  | .guestRestore m => Sys2Proof.Machine.execGuestRestore m s
  | .guestThaw m => Sys2Proof.Machine.execGuestThaw m s
  | .powerVote m => Sys2Proof.Machine.execPowerVote m s
  | .powerLimitSet m => Sys2Proof.Machine.execPowerLimitSet m s
  | .parkKeep m => Sys2Proof.Machine.execParkKeep m s
  | .alarmSet m => Sys2Proof.Machine.execAlarmSet m s
  | .blockPower m => Sys2Proof.Machine.execBlockPower m s
  | .resumeSet m => Sys2Proof.Machine.execResumeSet m s
  | .memWaysSet m => Sys2Proof.Machine.execMemWaysSet m s
  | .memCacheOp m => Sys2Proof.Machine.execMemCacheOp m s
  | .memRangeSet m => Sys2Proof.Machine.execMemRangeSet m s
  | .memStats m => Sys2Proof.Machine.execMemStats m s
  | .gfxQueueSet m => Sys2Proof.Machine.execGfxQueueSet m s
  | .gfxBinGrow m => Sys2Proof.Machine.execGfxBinGrow m s
  | .pipeSet m => Sys2Proof.Machine.execPipeSet m s
  | .pipeStop m => Sys2Proof.Machine.execPipeStop m s
  | .pipeQueues m => Sys2Proof.Machine.execPipeQueues m s
  | .dspStats m => Sys2Proof.Machine.execDspStats m s
  | .codecOpen m => Sys2Proof.Machine.execCodecOpen m s
  | .codecClose m => Sys2Proof.Machine.execCodecClose m s
  | .captureOpen m => Sys2Proof.Machine.execCaptureOpen m s
  | .captureClose m => Sys2Proof.Machine.execCaptureClose m s
  | .captureStats m => Sys2Proof.Machine.execCaptureStats m s
  | .ispTune m => Sys2Proof.Machine.execIspTune m s
  | .fusOpen m => Sys2Proof.Machine.execFusOpen m s
  | .fusClose m => Sys2Proof.Machine.execFusClose m s
  | .fusTransformLoad m => Sys2Proof.Machine.execFusTransformLoad m s
  | .fusStats m => Sys2Proof.Machine.execFusStats m s
  | .safetyPairSet m => Sys2Proof.Machine.execSafetyPairSet m s
  | .selftestGaps m => Sys2Proof.Machine.execSelftestGaps m s
  | .safeState m => Sys2Proof.Machine.execSafeState m s
  | .faultStatus m => Sys2Proof.Machine.execFaultStatus m s
  | .worldSet m => Sys2Proof.Machine.execWorldSet m s
  | .secureRestart m => Sys2Proof.Machine.execSecureRestart m s
  | .attest m => Sys2Proof.Machine.execAttest m s
  | .identityGet m => Sys2Proof.Machine.execIdentityGet m s
  | .windowOpen m => Sys2Proof.Machine.execWindowOpen m s
  | .windowClose m => Sys2Proof.Machine.execWindowClose m s
  | .peerLink m => Sys2Proof.Machine.execPeerLink m s
  | .canOpen m => Sys2Proof.Machine.execCanOpen m s
  | .canClose m => Sys2Proof.Machine.execCanClose m s
  | .routeSet m => Sys2Proof.Machine.execRouteSet m s
  | .tsnSet m => Sys2Proof.Machine.execTsnSet m s
  | .fieldSet m => Sys2Proof.Machine.execFieldSet m s
  | .fieldRead m => Sys2Proof.Machine.execFieldRead m s
  | .usbcSet m => Sys2Proof.Machine.execUsbcSet m s
  | .ioOpen m => Sys2Proof.Machine.execIoOpen m s
  | .ioClose m => Sys2Proof.Machine.execIoClose m s
  | .vnicOpen m => Sys2Proof.Machine.execVnicOpen m s
  | .vnicClose m => Sys2Proof.Machine.execVnicClose m s
  | .fwStage m => Sys2Proof.Machine.execFwStage m s
  | .fwActivate m => Sys2Proof.Machine.execFwActivate m s
  | .fwCommit m => Sys2Proof.Machine.execFwCommit m s
  | .ucodeLoad m => Sys2Proof.Machine.execUcodeLoad m s
  | .calLoad m => Sys2Proof.Machine.execCalLoad m s
  | .caddyMark m => Sys2Proof.Machine.execCaddyMark m s
  | .caddyFlush m => Sys2Proof.Machine.execCaddyFlush m s
  | .reset m => Sys2Proof.Machine.execReset m s
  | .vddLeafReachesSetting => Sys2Proof.Machine.execVddLeafReachesSetting s
  | .pipeLinkIdle pipe => Sys2Proof.Machine.execPipeLinkIdle pipe s
  | .hartsStop cluster => Sys2Proof.Machine.execHartsStop cluster s
  | .secureRestartDone imageOk => Sys2Proof.Machine.execSecureRestartDone imageOk s
  | .immediateFlushDone => Sys2Proof.Machine.execImmediateFlushDone s
  | .tsnLinkChange port up speed role => Sys2Proof.Machine.execTsnLinkChange port up speed role s
  | .csiLaneSyncLost stream => Sys2Proof.Machine.execCsiLaneSyncLost stream s
  | .canBusFault ctrl f => Sys2Proof.Machine.execCanBusFault ctrl f s
  | .canOpenLoad ctrl => Sys2Proof.Machine.execCanOpenLoad ctrl s
  | .canTransmitterRetry ctrl => Sys2Proof.Machine.execCanTransmitterRetry ctrl s
  | .lampOffDiag ch downMv upMv => Sys2Proof.Machine.execLampOffDiag ch downMv upMv s
  | .safetyIslandHeartbeatMiss pair fromKettle => Sys2Proof.Machine.execSafetyIslandHeartbeatMiss pair fromKettle s

end Sys2Proof.Machine
end

