-- ==== Sys2Proof/Safety.lean ====
section
/-! DEFINITION. The terms that the claims use: when a step is safe, when a command completes, when a thread can issue and a
message is taken, and what a command leaves as it was. -/

namespace Sys2Proof

/-- The step answers a next state. -/
def SafeStep (s : Machine.State) : Prop := ∃ t, Machine.step s = .next t

namespace Claims

open Sys2Proof.Machine

/-- The command answers a next state, and `P` holds of it. -/
def Runs (c : Instr) (s : State) (P : State → Prop) : Prop := ∃ t, exec c s = .next t ∧ P t

/-- The thread can issue the instruction at its program counter (R65, R69): it is ready, and the fetch raises nothing. -/
abbrev CanIssue (w : Thr) (s : State) : Prop := ready s (thrKey w) = true ∧ fetchChk s (thrKey w) = .ok ()

/-- Register `r` of the thread reads `v`, with good parity. -/
abbrev Reads (w : Thr) (s : State) (r : BitVec 5) (v : Word) : Prop := sreg s (thrKey w) r = .ok v

/-- Vector register `r` of the thread is its own and reads the lanes `ws`, with good parity. -/
abbrev VReads (w : Thr) (s : State) (r : BitVec 5) (ws : List Word) : Prop := vread s (thrKey w) r.toNat = .ok ws

/-- Bytes [off, off + n) of leaf `l`'s own scratchpad are in range, on, and of good parity, and hold `bs`. -/
abbrev SpReads (s : State) (l off n : Nat) (bs : List Byte) : Prop := spRead s l off n 0 = .ok bs

/-- The command answers `f` of a state of which `P` holds: `P` says its own effect, and `f` is the work that an end or a change sets off
(estate changes that waited for a boundary, units that waited for a queue). -/
def RunsThen (c : Instr) (s : State) (f : State → State) (P : State → Prop) : Prop := ∃ u, exec c s = .next (f u) ∧ P u

/-- What the last transaction answers (the model's own output port, assumption 3). -/
abbrev Answers (t : State) (status : Nat) (data : List Byte) : Prop := t.resp.status = status ∧ t.resp.data = data

/-- No queue but `q` changed. -/
def OnlyQ (q : Nat) (s t : State) : Prop := ∀ j, j ≠ q → getQ t j = getQ s j

/-- No leaf but `l` changed. -/
def OnlyLeafRec (l : Nat) (s t : State) : Prop := ∀ j, j ≠ l → getLeaf t j = getLeaf s j

/-- Only the leaves changed, and an event may have been written. -/
def LvOnly (s t : State) : Prop := t = { s with lv := t.lv, caddy := t.caddy, safe := t.safe }

/-- Only the leaves changed, and the progress mark of the job that leaf `l` works for (R165). -/
def OnlyLeaf (l : Nat) (s t : State) : Prop := t = { s with lv := t.lv, jobs := (progress l s).jobs }

/-- What an instruction of thread `k` that touches its own scalar state alone leaves as it was: everything but the thread's scalar
registers, predicates and program counter, its leaf's count of issued instructions (R94), and its job's progress mark. -/
def ScalarFrame (k : Nat) (s t : State) : Prop :=
  OnlyLeaf (k / 64) s t ∧
  t.lv = { s.lv with leaf := t.lv.leaf, threads := t.lv.threads, badReg := t.lv.badReg } ∧
  (∀ j, j ≠ k → getTh t j = getTh s j) ∧
  getTh t k = { getTh s k with regs := (getTh t k).regs, preds := (getTh t k).preds, pc := (getTh t k).pc } ∧
  (∀ l, l ≠ k / 64 → getLeaf t l = getLeaf s l) ∧
  getLeaf t (k / 64) = { getLeaf s (k / 64) with issued := (getLeaf s (k / 64)).issued.add 1 }

/-- The program counter advances by one instruction. -/
abbrev Steps (k : Nat) (s t : State) : Prop := (getTh t k).pc = ((getTh s k).pc + 4) % 2 ^ 32

/-- Register `rd` holds `v`, unless it is s0, which reads 0 and takes no write (Table 3.1); every other register of the thread reads
as before. -/
def WritesReg (k : Nat) (rd : BitVec 5) (v : Word) (s t : State) : Prop :=
  (rd ≠ 0 → sreg t k rd = .ok v) ∧ sreg t k 0 = .ok 0#32 ∧ ∀ r, r ≠ rd → sreg t k r = sreg s k r

/-- No register of the thread reads otherwise than before. -/
def KeepsRegs (k : Nat) (s t : State) : Prop := ∀ r, sreg t k r = sreg s k r

/-- Every byte of physical memory outside [a, a + n) reads as before (R78, R90). -/
def MemOutside (a n : Nat) (s t : State) : Prop := ∀ x, (x < a ∨ a + n ≤ x) → tget t.mem.cells x = tget s.mem.cells x

/-- Every byte of physical memory reads as before. -/
def MemSame (s t : State) : Prop := ∀ x, tget t.mem.cells x = tget s.mem.cells x

/-- The target of [a, a + n) accepts the transaction, and no fabric unit on its way has an error (Table 1.6, R395). -/
abbrev Accepted (s : State) (i : Initiator) (write : Bool) (a n : Nat) : Prop :=
  s.boot.resetting = none ∧ fabricAt s i a = none ∧ firstRefused s i (whoOf s i) write a n = none

/-- A register access of 8 bytes at an address aligned to 8 reaches its target (R542), which accepts it. -/
abbrev RegAccess (b : BusAcc) (write : Bool) (base : Nat) (s : State) : Prop :=
  b.size = 8 ∧ b.off % 8 = 0 ∧ (fabricUp s = true ∨ doorReach s base = true) ∧ Accepted s b.ini write base 8

/-- The line that holds `a` has no uncorrectable error, in DRAM, on its channel's link or in a cache way (R333, R336, R337, R342). -/
abbrev LineGood (s : State) (a : Nat) : Prop :=
  tget s.mem.lineErr (a / 64) ≠ 2 ∧ tget s.mem.linkErr (cgOf s (a / 64 * 64) * 4 + chanOf s (a / 64)) ≤ 1 ∧
  ∀ w ∈ cacheWay s (a / 64), (tget s.mem.cache (setKey s (a / 64) * 16 + w)).err ≤ 1

/-- Vector register `vd` of the thread holds the lanes `ws`, and every other vector register of the leaf reads as before. -/
def WritesVec (k vd : Nat) (ws : List Word) (s t : State) : Prop :=
  vread t k vd = .ok ws ∧ ∀ x, (x < vkey s k vd ∨ vkey s k vd + 128 ≤ x) → tget t.lv.vregs x = tget s.lv.vregs x

/-- What an instruction that writes one vector register leaves as it was: all of the part outside the leaf, all memory, the scalar
state of every thread but the program counter of its own, tiles, and the records of other leaves. -/
def VecFrame (k : Nat) (s t : State) : Prop :=
  OnlyLeaf (k / 64) s t ∧
  t.lv = { s.lv with leaf := t.lv.leaf, threads := t.lv.threads, vregs := t.lv.vregs, badVec := t.lv.badVec } ∧
  (∀ j, j ≠ k → getTh t j = getTh s j) ∧ getTh t k = { getTh s k with pc := ((getTh s k).pc + 4) % 2 ^ 32 } ∧
  (∀ l, l ≠ k / 64 → getLeaf t l = getLeaf s l) ∧
  getLeaf t (k / 64) = { getLeaf s (k / 64) with issued := (getLeaf s (k / 64)).issued.add 1 }

/-- [off, off + n) can be stored to in leaf `l`: in range, and every segment it touches is on, or closing and still open to writes (R97). -/
abbrev SpOpen (s : State) (l off n : Nat) : Prop := off + n ≤ 0x200000 ∧ ∀ g ∈ segsOf s l off n, g = .on ∨ g = .closing

/-- Bytes [a, a + n) can be written and read there by a queue slice or the Kettle: in DRAM, or in the scratchpad of a leaf that is not
fenced, with no segment that is off (R98, R103). -/
abbrev PlaceOpen (s : State) (a n : Nat) : Prop :=
  ∀ l ∈ spLeaf a, (getLeaf s l).kind ≠ .fenced ∧ Seg.off ∉ segsOf s l (a - spBase l) n

/-- The bytes at physical address `a` are `bs`, with good parity, and no other byte of memory changed (R78, R87). -/
def Stored (a : Nat) (bs : List Byte) (s t : State) : Prop :=
  memRead t a bs.length = bs ∧ (∀ i < bs.length, tget t.lv.badByte (a + i) = 0) ∧ MemOutside a bs.length s t

/-- What a store of thread `k` leaves as it was: registers and predicates of every thread, all of the part outside the leaves and
memory, and of the leaves everything but the parity and reload tags of the bytes stored, the thread's program counter and the count of
issued instructions. -/
def StoreFrame (k : Nat) (s t : State) : Prop :=
  t = { s with lv := t.lv, jobs := (progress (k / 64) s).jobs, mem := { s.mem with cells := t.mem.cells } } ∧
  t.lv = { s.lv with leaf := t.lv.leaf, threads := t.lv.threads, badByte := t.lv.badByte, lineTag := t.lv.lineTag } ∧
  (∀ j, j ≠ k → getTh t j = getTh s j) ∧ getTh t k = { getTh s k with pc := (getTh t k).pc } ∧
  (∀ l, l ≠ k / 64 → getLeaf t l = getLeaf s l) ∧
  getLeaf t (k / 64) = { getLeaf s (k / 64) with issued := (getLeaf s (k / 64)).issued.add 1 }

/-- The record that the Caddy writes next carries this code, source and arguments (R516, R517). -/
def Logs (code src : Nat) (args : List Byte) (s t : State) : Prop :=
  (tget t.caddy.ring s.caddy.slot).code = code ∧ (tget t.caddy.ring s.caddy.slot).source = src ∧
  (tget t.caddy.ring s.caddy.slot).args = args ∧ (tget t.caddy.ring s.caddy.slot).seq = s.caddy.next ∧
  (tget t.caddy.ring s.caddy.slot).ktime = s.ktime

/-- The `i`-th record that the Caddy writes from here, counted from 0, carries this code, source and arguments. -/
def LogsNth (i code src : Nat) (args : List Byte) (s t : State) : Prop :=
  let k := if s.caddy.frozen then (s.caddy.marker + 1 + (s.caddy.tail + i) % 1024) % 65536 else (s.caddy.next + i) % 65536
  (tget t.caddy.ring k).code = code ∧ (tget t.caddy.ring k).source = src ∧ (tget t.caddy.ring k).args = args ∧ (tget t.caddy.ring k).ktime = s.ktime

/-- Only the power record changed, and events may have been written. -/
def PwOnly (s t : State) : Prop := t = { s with pw := t.pw, caddy := t.caddy, safe := t.safe, fresh := t.fresh }

/-- Only the display, codec and graphics records changed, and events may have been written. -/
def MediaOnly (s t : State) : Prop := t = { s with media := t.media, caddy := t.caddy, safe := t.safe, fresh := t.fresh }

/-- Only the capture and fusion records changed, and events may have been written. -/
def CapOnly (s t : State) : Prop := t = { s with cap := t.cap, caddy := t.caddy, safe := t.safe, fresh := t.fresh }

/-- Only the estates' records changed, and events may have been written. -/
def EstOnly (e : Nat) (s t : State) : Prop :=
  t = { s with jobs := { s.jobs with est := t.jobs.est }, caddy := t.caddy, safe := t.safe } ∧ ∀ x, x ≠ e → getEst t x = getEst s x

/-- The Kettle takes message `m` now, and the checks of R362 that come before its own pass (R360, R362). -/
abbrev Taken (code : Nat) (allow : Nat → Bool) (len : Msg → Bool) (m : Msg) (s : State) : Prop :=
  served (pidx m.sender) s = true ∧ s.firm.act ≠ .open_ ∧ (s.boot.ready = true ∨ earlyMsg code = true) ∧ headerBad m len = none ∧
  allow (pidx m.sender) = true ∧ ((getParty s (pidx m.sender)).frozen = 0 ∨ frozenMsg code = true)

/-- The state in which a message's own checks run: the turn is taken, and a first different AFI is noted (R360, R367). -/
def atTaking (m : Msg) (s : State) : State := afiNote (pidx m.sender) m (tookTurn (pidx m.sender) s)

/-- The message is answered `a` at once; `P` relates the state at its taking to the one that the answer leaves from, and `f` is the work
that the answer sets off. -/
def Says (f : State → State) (c : Instr) (code : Nat) (m : Msg) (s : State) (a : Ans) (P : State → State → Prop) : Prop :=
  ∃ u, exec c s = .next (f (answer (pidx m.sender) code m.tag.toNat a u)) ∧ P (atTaking m s) u

/-- The message cannot finish at once: it is answered PENDING where its sender has a notice queue, and holds MBOX_BUSY where it has none
(R361). `P` is given the outstanding message, the state at its taking, and the state in which it waits. -/
def Waits (f : State → State) (c : Instr) (code : Nat) (m : Msg) (s : State) (P : Pend → State → State → Prop) : Prop :=
  ∃ u, exec c s = .next (f (if (getParty s (pidx m.sender)).noticeOn then
      answer (pidx m.sender) code m.tag.toNat (sts stPENDING)
        (modParty u (pidx m.sender) fun x => { x with outstanding := x.outstanding + 1 })
    else modParty u (pidx m.sender) fun x => { x with rung := false })) ∧ P (pendOf s code m) (atTaking m s) u

/-- The sender has fewer than 32 messages outstanding, where it has a notice queue (R361). -/
abbrev Room (m : Msg) (s : State) : Prop := (getParty s (pidx m.sender)).noticeOn = true → (getParty s (pidx m.sender)).outstanding < 32

end Claims

end Sys2Proof
end

