-- ==== Sys2Proof/Certificates/Slice0/Obligations.lean ====
section
/-! DEFINITION. The statements for the provers: each `Obligations.<Name>` is a proposition about the model, and its docstring
names the rules of spec/ it rests on. The tables and predicates before a statement are what it is stated with. -/

open Sys2Proof Sys2Proof.Machine Sys2Proof.Claims

/-- A step with a command at the front of the queue is its meaning on the queue's rest. -/
def Obligations.StepRunsFront : Prop :=
  ∀ (c : Instr) (rest : List Instr) (s : State), step { s with pending := c :: rest } = exec c { s with pending := rest }

/-- No command ends a run: every one answers a next state, in every state. -/
def Sys2Proof.Claims.NoCommandStops : Prop := ∀ (c : Instr) (s : State), ∃ t, exec c s = .next t

/-- R51, R59 and the model's choice of assumption 2: with no command waiting and no compute reset in progress, 10 ns pass. The Kettle's
64-bit counter advances (by 4 in Rest, where it counts crystal periods; not while the core die is off), each running job's cycle count
advances by 132 root periods over the divider in force, and nothing else changes. -/
def Sys2Proof.Claims.IdleTick : Prop :=
  ∀ (s : State), s.pending = [] → s.boot.resetting = none → ∃ t, step s = .next t ∧
    t = { s with ktime := t.ktime, jobs := { s.jobs with est := t.jobs.est } } ∧
    t.ktime = (if s.pw.st = .park ∨ s.pw.supplied = false then s.ktime else (s.ktime + if s.pw.st = .rest then 4 else 1) % 2 ^ 64) ∧
    (∀ e, getEst t e = { getEst s e with job := (getEst t e).job }) ∧
    ∀ e j, jobOf s e = some j → ∃ k, jobOf t e = some k ∧
      (if clocked s = true ∧ (j.phase = .running ∨ j.phase = .pouring) then
        k = { j with runTclk := k.runTclk, runRem := k.runRem } ∧ k.runTclk = j.runTclk + (j.runRem + 132) / s.pw.div ∧
        k.runRem = (j.runRem + 132) % s.pw.div
       else k = j)

/-- Every command answers a next state, and so does a step with no command waiting. -/
def Obligations.EveryStepAnswers : Prop := NoCommandStops ∧ IdleTick

/-- The state before bring-up: no command waits, memory lists nothing, no leaf has state, no queue is bound, no estate or template exists,
the core die is not supplied, and every counter of the Caddy is 0 (values the spec gives where it gives one, else assumption 4). -/
def Obligations.ResetState : Prop :=
  State.reset.pending = [] ∧ Memory.wf State.reset = true ∧ (∀ a, tget State.reset.mem.cells a = 0) ∧
  (∀ q, (getQ State.reset q).bound = false) ∧ (∀ e, (getEst State.reset e).live = false) ∧
  (∀ l, (getLeaf State.reset l).kind = .fusedOff) ∧ (∀ p, (getParty State.reset p).busy = false) ∧
  State.reset.jobs.tmpls = [] ∧ State.reset.boot.phase = 0 ∧ State.reset.boot.ready = false ∧ State.reset.pw.supplied = false ∧
  State.reset.caddy.next = 0 ∧ State.reset.ktime = 0 ∧ State.reset.safe.causes = 0

/-- R152 to R157, R256: the word of a well-formed station instruction decodes to that instruction, with every operand at every value the
encoding admits. -/
def Sys2Proof.Claims.StationRoundTripPart : Prop :=
  ∀ (i : Instr) (x : Word), i.wf = true → encodeStation i = some x → decodeStation (thrOf i) x = some i

/-- A word decodes to one instruction and encodes back to itself: no word has two spellings, and a reserved encoding has none (R152). -/
def Sys2Proof.Claims.StationWordsUnique : Prop :=
  ∀ (w : Thr) (x : Word) (i : Instr), decodeStation w x = some i → i.wf = true ∧ encodeStation i = some x ∧ thrOf i = w

/-- R152 to R157: encoding and decoding of station instructions are inverse to one another. -/
def Obligations.StationRoundTrip : Prop := StationRoundTripPart ∧ StationWordsUnique

/-- Words written out from the encodings of Tables 5.6, 5.8 and 9.3: one of each format. -/
def Obligations.StationWords : Prop :=
  ∀ (w : Thr),
    decodeStation w 0b0000_000000_00001_00010_00011_0000000#32 = some (.add w 1 2 3) ∧
    decodeStation w 0b0001_000000_00101_00110_111111111111#32 = some (.addi w 5 6 0xFFF) ∧
    decodeStation w 0b0001_001000_00111_10000000000000001#32 = some (.lui w 7 0x10001) ∧
    decodeStation w 0b0011_000000_101_1_000000000000000100#32 = some (.br w 5 true 4) ∧
    decodeStation w 0b0100_000011_00001_00010_00011_10_00000#32 = some (.vfma w 1 2 3 2) ∧
    decodeStation w 0b0101_000000_00001_00010_00011_0100_1_01#32 = some (.vldr w 1 2 3 4 true 1) ∧
    decodeStation w 0b0111_000000_00100_0011_1_1_00000000000#32 = some (.mma w 4 3 true true) ∧
    decodeStation w 0b1001_000010_00001_00010_10000001_110_0#32 = some (.qtry w 1 2 0x81 6) ∧
    decodeStation w 0b1010_000001_0011_000101_000000000000#32 = some (.bar w 3 5) ∧
    decodeStation w 0b1011_000110_00001_00010_00011_0000000#32 = some (.rtex w 1 2 3) ∧
    decodeStation w 0b0000_000000_00001_00010_00011_0000001#32 = none ∧
    decodeStation w 0b1111_000000_00000_00000_00000_0000000#32 = none

/-- The memory of the part keeps its canonical form at every step, whatever command waits: addresses strictly rise, and no entry is what an
unlisted address reads as (assumption 9). So equal memories are equal data. -/
def Obligations.MemoryStaysCanonical : Prop :=
  ∀ (s t : State), Memory.wf s = true → step s = .next t → Memory.wf t = true
/-! ### Scalar, immediate and control instructions (R154, Table 5.8) -/

namespace Sys2Proof.Claims

/-- The register forms of class 0x0 and their results. A shift by 32 or more, whose result the spec does not state, gives a free value
(assumption 23). -/
def rrForms : List ((Thr → BitVec 5 → BitVec 5 → BitVec 5 → Instr) × (Word → Word → Word)) :=
  [(.add, fun a b => a + b), (.sub, fun a b => a - b), (.and, fun a b => a &&& b), (.or, fun a b => a ||| b),
   (.xor, fun a b => a ^^^ b),
   (.sll, fun a b => if b.toNat < 32 then a <<< b.toNat else Config.shiftOver 5 a b),
   (.srl, fun a b => if b.toNat < 32 then a >>> b.toNat else Config.shiftOver 6 a b),
   (.sra, fun a b => if b.toNat < 32 then a.sshiftRight b.toNat else Config.shiftOver 7 a b),
   (.mul, fun a b => BitVec.ofNat 32 (a.toNat * b.toNat)),
   (.mulhu, fun a b => ((a.setWidth 64 * b.setWidth 64) >>> 32).setWidth 32),
   (.min, fun a b => if a.toInt ≤ b.toInt then a else b), (.max, fun a b => if a.toInt ≤ b.toInt then b else a)]

/-- The immediate forms of class 0x1 and their results of the register and the sign-extended immediate. -/
def riForms : List ((Thr → BitVec 5 → BitVec 5 → BitVec 12 → Instr) × (Word → Word → Word)) :=
  [(.addi, fun a b => a + b), (.andi, fun a b => a &&& b), (.ori, fun a b => a ||| b), (.xori, fun a b => a ^^^ b),
   (.slli, fun a b => if b.toNat < 32 then a <<< b.toNat else Config.shiftOver 5 a b),
   (.srli, fun a b => if b.toNat < 32 then a >>> b.toNat else Config.shiftOver 6 a b),
   (.srai, fun a b => if b.toNat < 32 then a.sshiftRight b.toNat else Config.shiftOver 7 a b)]

/-- The compares of class 0x0. -/
def predForms : List ((Thr → BitVec 5 → BitVec 5 → BitVec 5 → Instr) × (Word → Word → Bool)) :=
  [(.peq, fun a b => decide (a = b)), (.pne, fun a b => decide (a ≠ b)), (.plt, fun a b => decide (a.toInt < b.toInt)),
   (.pltu, fun a b => decide (a.toNat < b.toNat))]

end Sys2Proof.Claims

/-- R154, class 0x0: rd ← rs1 op rs2, and nothing else of the thread or the part changes. -/
def Sys2Proof.Claims.ScalarRegisterForms : Prop :=
  ∀ x ∈ rrForms, ∀ (w : Thr) (rd rs1 rs2 : BitVec 5) (s : State) (a b : Word),
    CanIssue w s → Reads w s rs1 a → Reads w s rs2 b →
    Runs (x.1 w rd rs1 rs2) s fun t => WritesReg (thrKey w) rd (x.2 a b) s t ∧
      (getTh t (thrKey w)).preds = (getTh s (thrKey w)).preds ∧ Steps (thrKey w) s t ∧ ScalarFrame (thrKey w) s t

/-- R154, class 0x1: rd ← rs1 op imm12 sign-extended; LUI puts imm17 above 15 zeros, and LLI ORs imm17[14:0] into rd. -/
def Sys2Proof.Claims.ScalarImmediateForms : Prop :=
  (∀ x ∈ riForms, ∀ (w : Thr) (rd rs1 : BitVec 5) (imm : BitVec 12) (s : State) (a : Word),
    CanIssue w s → Reads w s rs1 a →
    Runs (x.1 w rd rs1 imm) s fun t => WritesReg (thrKey w) rd (x.2 a (imm.signExtend 32)) s t ∧
      (getTh t (thrKey w)).preds = (getTh s (thrKey w)).preds ∧ Steps (thrKey w) s t ∧ ScalarFrame (thrKey w) s t) ∧
  (∀ (w : Thr) (rd : BitVec 5) (imm : BitVec 17) (s : State), CanIssue w s →
    Runs (.lui w rd imm) s fun t => WritesReg (thrKey w) rd (BitVec.ofNat 32 (imm.toNat * 2 ^ 15)) s t ∧
      (getTh t (thrKey w)).preds = (getTh s (thrKey w)).preds ∧ Steps (thrKey w) s t ∧ ScalarFrame (thrKey w) s t) ∧
  (∀ (w : Thr) (rd : BitVec 5) (imm : BitVec 17) (s : State) (a : Word), CanIssue w s → Reads w s rd a → imm.toNat < 2 ^ 15 →
    Runs (.lli w rd imm) s fun t => WritesReg (thrKey w) rd (a ||| BitVec.ofNat 32 imm.toNat) s t ∧
      (getTh t (thrKey w)).preds = (getTh s (thrKey w)).preds ∧ Steps (thrKey w) s t ∧ ScalarFrame (thrKey w) s t)

/-- Scalar arithmetic, register and immediate forms. -/
def Obligations.ScalarArithmetic : Prop := ScalarRegisterForms ∧ ScalarImmediateForms

/-- R154: PEQ, PNE, PLT and PLTU write predicate rd[2:0] where rd[4:3] is 0, and no register. -/
def Sys2Proof.Claims.PredicateForms : Prop :=
  ∀ x ∈ predForms, ∀ (w : Thr) (rd rs1 rs2 : BitVec 5) (s : State) (a b : Word),
    CanIssue w s → Reads w s rs1 a → Reads w s rs2 b → rd.toNat < 8 →
    Runs (x.1 w rd rs1 rs2) s fun t =>
      (∀ i < 8, (getTh t (thrKey w)).preds.getLsbD i = if i = rd.toNat then x.2 a b else (getTh s (thrKey w)).preds.getLsbD i) ∧
      KeepsRegs (thrKey w) s t ∧ Steps (thrKey w) s t ∧ ScalarFrame (thrKey w) s t

/-- R154, class 0x3: BR goes to PC + 4 × offset18 where the predicate equals the sense, and to the next instruction otherwise; JAL and
JR write PC + 4 to rd and jump to PC + 4 × imm17 and to s[rs1]. -/
def Sys2Proof.Claims.ControlForms : Prop :=
  (∀ (w : Thr) (p : BitVec 3) (sense : Bool) (off : BitVec 18) (s : State), CanIssue w s →
    Runs (.br w p sense off) s fun t =>
      ((getTh t (thrKey w)).pc : Int) = (if (getTh s (thrKey w)).preds.getLsbD p.toNat = sense then
        ((getTh s (thrKey w)).pc : Int) + 4 * off.toInt else (getTh s (thrKey w)).pc + 4) % 2 ^ 32 ∧
      (getTh t (thrKey w)).preds = (getTh s (thrKey w)).preds ∧ KeepsRegs (thrKey w) s t ∧ ScalarFrame (thrKey w) s t) ∧
  (∀ (w : Thr) (rd : BitVec 5) (imm : BitVec 17) (s : State), CanIssue w s →
    Runs (.jal w rd imm) s fun t =>
      ((getTh t (thrKey w)).pc : Int) = (((getTh s (thrKey w)).pc : Int) + 4 * imm.toInt) % 2 ^ 32 ∧
      WritesReg (thrKey w) rd (BitVec.ofNat 32 ((getTh s (thrKey w)).pc + 4)) s t ∧
      (getTh t (thrKey w)).preds = (getTh s (thrKey w)).preds ∧ ScalarFrame (thrKey w) s t) ∧
  (∀ (w : Thr) (rd rs1 : BitVec 5) (s : State) (a : Word), CanIssue w s → Reads w s rs1 a →
    Runs (.jr w rd rs1) s fun t => (getTh t (thrKey w)).pc = a.toNat ∧
      WritesReg (thrKey w) rd (BitVec.ofNat 32 ((getTh s (thrKey w)).pc + 4)) s t ∧
      (getTh t (thrKey w)).preds = (getTh s (thrKey w)).preds ∧ ScalarFrame (thrKey w) s t)

/-- Predicates, branches and jumps. -/
def Obligations.PredicatesAndControl : Prop := PredicateForms ∧ ControlForms
/-! ### Scalar memory (R65, R76, R78, R90, R154 class 0x2) -/

namespace Sys2Proof.Claims

/-- The loads of one register: bytes moved, and how they are extended. -/
def loadForms : List ((Thr → BitVec 5 → BitVec 5 → BitVec 12 → Instr) × Nat × (Nat → Word)) :=
  [(.lb, 1, fun v => (BitVec.ofNat 8 v).signExtend 32), (.lbu, 1, fun v => BitVec.ofNat 32 v),
   (.lh, 2, fun v => (BitVec.ofNat 16 v).signExtend 32), (.lhu, 2, fun v => BitVec.ofNat 32 v), (.lw, 4, fun v => BitVec.ofNat 32 v)]

/-- The stores of one register, with the bytes moved. -/
def storeForms : List ((Thr → BitVec 5 → BitVec 5 → BitVec 12 → Instr) × Nat) := [(.sb, 1), (.sh, 2), (.sw, 4)]

/-- The scratchpad offset of a narrow access: s[rs1] + imm12 sign-extended, modulo 2³². -/
def spOff (b : Word) (imm : BitVec 12) : Nat := (b + imm.signExtend 32).toNat

end Sys2Proof.Claims

/-- R78, R154: LB, LBU, LH, LHU and LW read 1, 2 or 4 naturally aligned bytes, little-endian (R8), and extend them into rd; LD reads 8
into the pair rd, rd + 1. Memory is as before: `ScalarFrame` says so. -/
def Sys2Proof.Claims.NarrowLoads : Prop :=
  (∀ x ∈ loadForms, ∀ (w : Thr) (rd rs1 : BitVec 5) (imm : BitVec 12) (s : State) (b : Word) (bs : List Byte),
    CanIssue w s → Reads w s rs1 b → spOff b imm % x.2.1 = 0 → SpReads s (thrKey w / 64) (spOff b imm) x.2.1 bs →
    Runs (x.1 w rd rs1 imm) s fun t => WritesReg (thrKey w) rd (x.2.2 (leNat bs)) s t ∧
      (getTh t (thrKey w)).preds = (getTh s (thrKey w)).preds ∧ Steps (thrKey w) s t ∧ ScalarFrame (thrKey w) s t) ∧
  (∀ (w : Thr) (rd rs1 : BitVec 5) (imm : BitVec 12) (s : State) (b : Word) (bs : List Byte),
    CanIssue w s → Reads w s rs1 b → rd.toNat % 2 = 0 → spOff b imm % 8 = 0 → SpReads s (thrKey w / 64) (spOff b imm) 8 bs →
    Runs (.ld w rd rs1 imm) s fun t =>
      (rd ≠ 0 → sreg t (thrKey w) rd = .ok (BitVec.ofNat 32 (leNat (bs.take 4)))) ∧
      sreg t (thrKey w) (rd + 1) = .ok (BitVec.ofNat 32 (leNat (bs.drop 4))) ∧
      (∀ r, r ≠ rd → r ≠ rd + 1 → sreg t (thrKey w) r = sreg s (thrKey w) r) ∧
      (getTh t (thrKey w)).preds = (getTh s (thrKey w)).preds ∧ Steps (thrKey w) s t ∧ ScalarFrame (thrKey w) s t)

/-- R78, R90, R154: SB, SH and SW store the low 1, 2 or 4 bytes of rd at the naturally aligned offset, and SD the pair rd, rd + 1; the
bytes stored have good parity, and no other byte changes. -/
def Sys2Proof.Claims.NarrowStores : Prop :=
  (∀ x ∈ storeForms, ∀ (w : Thr) (rd rs1 : BitVec 5) (imm : BitVec 12) (s : State) (b v : Word),
    CanIssue w s → Reads w s rs1 b → Reads w s rd v → spOff b imm % x.2 = 0 → SpOpen s (thrKey w / 64) (spOff b imm) x.2 →
    Runs (x.1 w rd rs1 imm) s fun t => Stored (spBase (thrKey w / 64) + spOff b imm) (leBytes x.2 v.toNat) s t ∧
      Steps (thrKey w) s t ∧ StoreFrame (thrKey w) s t) ∧
  (∀ (w : Thr) (rd rs1 : BitVec 5) (imm : BitVec 12) (s : State) (b lo hi : Word),
    CanIssue w s → Reads w s rs1 b → rd.toNat % 2 = 0 → Reads w s rd lo → Reads w s (rd + 1) hi → spOff b imm % 8 = 0 →
    SpOpen s (thrKey w / 64) (spOff b imm) 8 →
    Runs (.sd w rd rs1 imm) s fun t =>
      Stored (spBase (thrKey w / 64) + spOff b imm) (leBytes 4 lo.toNat ++ leBytes 4 hi.toNat) s t ∧
      Steps (thrKey w) s t ∧ StoreFrame (thrKey w) s t)

/-- Loads and stores of bytes, halves and words. -/
def Sys2Proof.Claims.NarrowAccesses : Prop := NarrowLoads ∧ NarrowStores

namespace Sys2Proof.Claims

/-- The physical address s[rs1 + 1][15:0] : s[rs1] + imm12, modulo 2⁴⁸ (Table 5.8). -/
def physOff (lo hi : Word) (imm : BitVec 12) : Nat := (((((hi.toNat % 2 ^ 16) * 2 ^ 32 + lo.toNat : Nat) : Int) + imm.toInt) % 2 ^ 48).toNat

end Sys2Proof.Claims

/-- R65, R154: LWX sends a load of 4 bytes at a physical address that is a multiple of 4, and the thread waits for it; LOAD_RETURN, from
the own scratchpad or from DRAM, writes the word to rd and frees the thread; SWX to DRAM stores the word at that address and nowhere
else. -/
def Sys2Proof.Claims.LongLoadsAndStores : Prop :=
  (∀ (w : Thr) (rd rs1 : BitVec 5) (imm : BitVec 12) (s : State) (lo hi : Word), CanIssue w s → rs1.toNat % 2 = 0 →
    Reads w s rs1 lo → Reads w s (rs1 + 1) hi → physOff lo hi imm % 4 = 0 → isOutside (physOff lo hi imm) = false →
    Runs (.lwx w rd rs1 imm) s fun t =>
      getTh t (thrKey w) = { getTh s (thrKey w) with pc := ((getTh s (thrKey w)).pc + 4) % 2 ^ 32, load := some { rd := rd.toNat, addr := physOff lo hi imm } } ∧
      ready t (thrKey w) = false ∧ MemSame s t ∧ ∀ j, j ≠ thrKey w → getTh t j = getTh s j) ∧
  (∀ (w : Thr) (s : State) (p : PendLoad) (bs : List Byte), (getTh s (thrKey w)).load = some p → p.pcie = 0 → p.tex = false → p.rd < 32 →
    spLeaf p.addr = some (thrKey w / 64) → (getLeaf s (thrKey w / 64)).kind = .enabled →
    SpReads s (thrKey w / 64) (p.addr - spBase (thrKey w / 64)) 4 bs →
    Runs (.loadReturn w) s fun t =>
      WritesReg (thrKey w) (BitVec.ofNat 5 p.rd) (BitVec.ofNat 32 (leNat bs)) s t ∧ (getTh t (thrKey w)).load = none ∧
      (getTh t (thrKey w)).pc = (getTh s (thrKey w)).pc ∧ MemSame s t ∧ ∀ j, j ≠ thrKey w → getTh t j = getTh s j) ∧
  (∀ (w : Thr) (s : State) (p : PendLoad), (getTh s (thrKey w)).load = some p → p.pcie = 0 → p.tex = false → p.rd < 32 →
    p.addr < 0x1000000000 → p.addr % 4 = 0 → Accepted s (leafIni (thrKey w / 64)) false p.addr 4 → LineGood s p.addr →
    Runs (.loadReturn w) s fun t =>
      WritesReg (thrKey w) (BitVec.ofNat 5 p.rd) (BitVec.ofNat 32 (leNat (memRead s p.addr 4))) s t ∧
      (getTh t (thrKey w)).load = none ∧ (getTh t (thrKey w)).pc = (getTh s (thrKey w)).pc ∧ MemSame s t ∧
      ∀ j, j ≠ thrKey w → getTh t j = getTh s j) ∧
  (∀ (w : Thr) (rd rs1 : BitVec 5) (imm : BitVec 12) (s : State) (lo hi v : Word), CanIssue w s → rs1.toNat % 2 = 0 →
    Reads w s rs1 lo → Reads w s (rs1 + 1) hi → Reads w s rd v →
    physOff lo hi imm % 4 = 0 →
    physOff lo hi imm < 0x1000000000 → (∀ e j, runningJob s (thrKey w / 64) = some (e, j) → outBuffer s j (physOff lo hi imm) = none) →
    Accepted s (leafIni (thrKey w / 64)) true (physOff lo hi imm) 4 → LineGood s (physOff lo hi imm) →
    Runs (.swx w rd rs1 imm) s fun t =>
      memRead t (physOff lo hi imm) 4 = leBytes 4 v.toNat ∧ MemOutside (physOff lo hi imm) 4 s t ∧
      (∀ j, getTh t j = { getTh s j with pc := if j = thrKey w then ((getTh s j).pc + 4) % 2 ^ 32 else (getTh s j).pc }) ∧
      t.queue = s.queue ∧ t.party = s.party)

/-- Scalar loads and stores of every width. -/
def Obligations.ScalarLoadsAndStores : Prop := NarrowAccesses ∧ LongLoadsAndStores
/-- R69: an access that is not aligned, one outside the scratchpad, a register pair that begins at an odd register, and a vector register
beyond the thread's own write event 0x1007 with the leaf, the thread, the kind and the program counter, and end the job. -/
def Obligations.ProgramFaults : Prop :=
  let Faulted := fun (w : Thr) (kind e : Nat) (s t : State) =>
    Logs 0x1007 (thrKey w / 64) (leBytes 2 (thrKey w / 64) ++ leBytes 1 (thrKey w % 64) ++ leBytes 1 kind ++ leBytes 4 (getTh s (thrKey w)).pc) s t ∧
    jobOf t e = none
  (∀ (w : Thr) (rd rs1 : BitVec 5) (imm : BitVec 12) (s : State) (b : Word) (e : Nat), CanIssue w s → Reads w s rs1 b →
    spOff b imm % 4 ≠ 0 → estOf s (thrKey w / 64) = some e → RunsThen (.lw w rd rs1 imm) s settle (Faulted w 5 e s)) ∧
  (∀ (w : Thr) (rd rs1 : BitVec 5) (imm : BitVec 12) (s : State) (b v : Word) (e : Nat), CanIssue w s → Reads w s rs1 b → Reads w s rd v →
    spOff b imm % 4 = 0 → 0x200000 < spOff b imm + 4 → estOf s (thrKey w / 64) = some e →
    RunsThen (.sw w rd rs1 imm) s settle (Faulted w 2 e s)) ∧
  (∀ (w : Thr) (rd rs1 rs2 : BitVec 5) (rm : BitVec 2) (s : State) (e : Nat), CanIssue w s → (getTh s (thrKey w)).nv ≤ rs1.toNat →
    estOf s (thrKey w / 64) = some e → RunsThen (.vadd w rd rs1 rs2 rm) s settle (Faulted w 1 e s)) ∧
  (∀ (w : Thr) (rd : BitVec 5) (a : Bool) (s : State) (e : Nat), CanIssue w s → ownsTile s (thrKey w) a = false →
    estOf s (thrKey w / 64) = some e → RunsThen (.accst w rd a) s settle (Faulted w 1 e s))

/-! ### Vector and special-function instructions (R128, R129, R131, R154 classes 0x4 and 0x6) -/

namespace Sys2Proof.Claims

/-- The saturating forms clamp the exact result to the range of INT32 (R129). -/
def clamp32 (i : Int) : Word := BitVec.ofInt 32 (if i < -2147483648 then -2147483648 else if 2147483647 < i then 2147483647 else i)

/-- The three-register forms that take a rounding mode. -/
def vecFloatForms : List ((Thr → BitVec 5 → BitVec 5 → BitVec 5 → BitVec 2 → Instr) × (Rm → Word → Word → Word)) :=
  [(.vadd, fadd), (.vsub, fsub), (.vmul, fmul), (.vmin, fun _ => fmin), (.vmax, fun _ => fmax)]

/-- The integer forms, which take RM = 0; vector shifts take their amount from bits [4:0] (R129). -/
def vecIntForms : List ((Thr → BitVec 5 → BitVec 5 → BitVec 5 → BitVec 2 → Instr) × (Word → Word → Word)) :=
  [(.viadd, fun a b => a + b), (.visub, fun a b => a - b), (.vimul, fun a b => a * b),
   (.viadds, fun a b => clamp32 (a.toInt + b.toInt)), (.visubs, fun a b => clamp32 (a.toInt - b.toInt)),
   (.vsll, fun a b => a <<< (b.toNat % 32)), (.vsrl, fun a b => a >>> (b.toNat % 32)), (.vsra, fun a b => a.sshiftRight (b.toNat % 32))]

/-- The special functions, with the leaf's microcode version (R132). -/
def sfuForms : List ((Thr → BitVec 5 → BitVec 5 → Instr) × (Nat → Word → Word)) :=
  [(.sexp2, sexp2Of), (.slog2, slog2Of), (.srcp, srcpOf), (.srsq, srsqOf), (.ssqrt, fun _ => ssqrtOf),
   (.ssin, fun u => strigOf u 5), (.scos, fun u => strigOf u 6), (.stanh, stanhOf), (.ssig, ssigOf)]

/-- The thread owns vector register `r` (R69 kind 1). -/
abbrev OwnsVec (w : Thr) (s : State) (r : BitVec 5) : Prop := r.toNat < (getTh s (thrKey w)).nv

end Sys2Proof.Claims

/-- R128, R129, R154: vd ← va op vb in every lane, in FP32 with the rounding mode named or in INT32; VFMA gives va × vb + vd, rounded
once. -/
def Obligations.VectorElementwise : Prop :=
  (∀ x ∈ vecFloatForms, ∀ (w : Thr) (vd va vb : BitVec 5) (rm : BitVec 2) (s : State) (a b : List Word),
    CanIssue w s → OwnsVec w s vd → VReads w s va a → VReads w s vb b →
    Runs (x.1 w vd va vb rm) s fun t =>
      WritesVec (thrKey w) vd.toNat (List.zipWith (x.2 (Rm.ofCode rm.toNat)) a b) s t ∧ VecFrame (thrKey w) s t) ∧
  (∀ (w : Thr) (vd va vb : BitVec 5) (rm : BitVec 2) (s : State) (a b d : List Word),
    CanIssue w s → VReads w s vd d → VReads w s va a → VReads w s vb b →
    Runs (.vfma w vd va vb rm) s fun t =>
      WritesVec (thrKey w) vd.toNat
        ((List.range 128).map fun i => ffma (Rm.ofCode rm.toNat) (a.getD i 0) (b.getD i 0) (d.getD i 0)) s t ∧
      VecFrame (thrKey w) s t) ∧
  (∀ x ∈ vecIntForms, ∀ (w : Thr) (vd va vb : BitVec 5) (s : State) (a b : List Word),
    CanIssue w s → OwnsVec w s vd → VReads w s va a → VReads w s vb b →
    Runs (x.1 w vd va vb 0) s fun t =>
      WritesVec (thrKey w) vd.toNat (List.zipWith x.2 a b) s t ∧ VecFrame (thrKey w) s t)

/-- R131, R154: the special functions act on every lane; VRSUM and VRMAX put their result in lane 0 of vd and keep its other lanes; VBC
copies s[rs1] to every lane, and VMOVS copies lane 0 to a scalar register. -/
def Obligations.VectorMovesAndReductions : Prop :=
  (∀ x ∈ sfuForms, ∀ (w : Thr) (vd va : BitVec 5) (s : State) (a : List Word), CanIssue w s → OwnsVec w s vd → VReads w s va a →
    Runs (x.1 w vd va) s fun t =>
      WritesVec (thrKey w) vd.toNat (a.map (x.2 (getLeaf s (thrKey w / 64)).ucode)) s t ∧ VecFrame (thrKey w) s t) ∧
  (∀ (w : Thr) (vd va : BitVec 5) (rm : BitVec 2) (s : State) (a d : List Word), CanIssue w s → VReads w s vd d → VReads w s va a →
    Runs (.vrsum w vd va rm) s fun t =>
      WritesVec (thrKey w) vd.toNat (vrsumOf (Rm.ofCode rm.toNat) a :: d.drop 1) s t ∧ VecFrame (thrKey w) s t) ∧
  (∀ (w : Thr) (vd va : BitVec 5) (rm : BitVec 2) (s : State) (a d : List Word), CanIssue w s → VReads w s vd d → VReads w s va a →
    Runs (.vrmax w vd va rm) s fun t =>
      WritesVec (thrKey w) vd.toNat (vrmaxOf a :: d.drop 1) s t ∧ VecFrame (thrKey w) s t) ∧
  (∀ (w : Thr) (vd rs1 : BitVec 5) (s : State) (a : Word), CanIssue w s → OwnsVec w s vd → Reads w s rs1 a →
    Runs (.vbc w vd rs1) s fun t => WritesVec (thrKey w) vd.toNat (List.replicate 128 a) s t ∧ VecFrame (thrKey w) s t) ∧
  (∀ (w : Thr) (rd va : BitVec 5) (s : State) (a : List Word), CanIssue w s → VReads w s va a →
    Runs (.vmovs w rd va) s fun t => WritesReg (thrKey w) rd (a.headD 0) s t ∧
      (getTh t (thrKey w)).preds = (getTh s (thrKey w)).preds ∧ Steps (thrKey w) s t ∧ ScalarFrame (thrKey w) s t)

/-- R131, Table 4.5: the special values of the special functions, whatever the microcode. A NaN input gives 0x7FC0_0000; reciprocal and
reciprocal square root of ±0 are ±Inf; square root and log2 below 0 are NaN; tanh and sigmoid saturate; exp2 saturates at 128 and
below −126, and exp2 of ±0 is exactly 1 (R189). -/
def Sys2Proof.Claims.SpecialFunctionValues : Prop :=
  (∀ x ∈ sfuForms, ∀ (u : Nat) (v : Word), f32 v = .nan → x.2 u v = 0x7FC00000#32) ∧
  (∀ u, srcpOf u 0x00000000#32 = 0x7F800000#32 ∧ srcpOf u 0x80000000#32 = 0xFF800000#32 ∧ srcpOf u 0x7F800000#32 = 0#32 ∧
    srcpOf u 0xFF800000#32 = 0x80000000#32) ∧
  (∀ u, srsqOf u 0x00000000#32 = 0x7F800000#32 ∧ srsqOf u 0x80000000#32 = 0xFF800000#32 ∧ srsqOf u 0x7F800000#32 = 0#32) ∧
  (∀ u, slog2Of u 0x00000000#32 = 0xFF800000#32 ∧ slog2Of u 0x80000000#32 = 0xFF800000#32 ∧ slog2Of u 0x7F800000#32 = 0x7F800000#32) ∧
  (∀ (u : Nat) (v : Word), v.toInt < 0 → v ≠ 0x80000000#32 → (f32 v).isNan = false →
    slog2Of u v = 0x7FC00000#32 ∧ srsqOf u v = 0x7FC00000#32 ∧ ssqrtOf v = 0x7FC00000#32) ∧
  ssqrtOf 0x80000000#32 = 0x80000000#32 ∧
  (∀ (u : Nat) (v : Word), 0x43000000 ≤ v.toNat → v.toNat ≤ 0x7F800000 → sexp2Of u v = 0x7F800000#32) ∧
  (∀ (u : Nat) (v : Word), 0xC2FC0000 < v.toNat → v.toNat ≤ 0xFF800000 → sexp2Of u v = 0#32) ∧
  (∀ u, sexp2Of u 0x00000000#32 = 0x3F800000#32 ∧ sexp2Of u 0x80000000#32 = 0x3F800000#32) ∧
  (∀ (u : Nat) (v : Word), 0x47800000 < v.toNat % 2 ^ 31 → v.toNat % 2 ^ 31 ≤ 0x7F800000 →
    strigOf u 5 v = 0x7FC00000#32 ∧ strigOf u 6 v = 0x7FC00000#32) ∧
  (∀ u, stanhOf u 0x7F800000#32 = 0x3F800000#32 ∧ stanhOf u 0xFF800000#32 = 0xBF800000#32 ∧ ssigOf u 0x7F800000#32 = 0x3F800000#32 ∧
    ssigOf u 0xFF800000#32 = 0#32)

/-- R128: every NaN result of the vector unit is 0x7FC0_0000, and minimumNumber and maximumNumber ignore one NaN operand. -/
def Sys2Proof.Claims.VectorNaN : Prop :=
  (∀ (rm : Rm) (a b c : Word), (f32 a = .nan ∨ f32 b = .nan) →
    fadd rm a b = 0x7FC00000#32 ∧ fsub rm a b = 0x7FC00000#32 ∧ fmul rm a b = 0x7FC00000#32 ∧ ffma rm a b c = 0x7FC00000#32 ∧
    ffma rm a c b = 0x7FC00000#32 ∧ ffma rm c a b = 0x7FC00000#32) ∧
  (∀ a b : Word, f32 a = .nan → f32 b ≠ .nan → fmin a b = b ∧ fmin b a = b ∧ fmax a b = b ∧ fmax b a = b) ∧
  (∀ a b : Word, f32 a = .nan → f32 b = .nan → fmin a b = 0x7FC00000#32 ∧ fmax a b = 0x7FC00000#32) ∧
  (∀ (rm : Rm) (n : Bool), fadd rm 0x7F800000#32 0xFF800000#32 = 0x7FC00000#32 ∧
    fmul rm 0x7F800000#32 (if n then 0x80000000#32 else 0#32) = 0x7FC00000#32)

/-- Special functions, and what arithmetic makes of a NaN. -/
def Obligations.SpecialAndNaNValues : Prop := SpecialFunctionValues ∧ VectorNaN
/-! ### Vector memory (R77, R126, R127, R130, R155 class 0x5) -/

namespace Sys2Proof.Claims

/-- The first byte of word `j` of line `l0 + i × d` of a scratchpad (R76, R77). -/
def colOff (a d : Word) (i word : Nat) : Nat := (a.toNat / 256 + i * d.toNat) * 256 + (a.toNat / 4 % 64 + word) * 4

/-- s[rs1] and s[rs2] name a column of 64 lines with two words to a line, within the limits of R77. -/
abbrev ColOk (a d : Word) : Prop :=
  a.toNat % 4 = 0 ∧ a.toNat / 4 % 64 ≤ 62 ∧ 1 ≤ d.toNat ∧ d.toNat ≤ 8191 ∧ a.toNat / 256 + 63 * d.toNat ≤ 8191

/-- The element codes of 128 lanes with their block scales, widened (R130). -/
def lanesOf (fmt : Nat) (bs sc : List Byte) : List Word :=
  (List.range 128).map fun i => widen fmt (elemCode fmt bs i) (field sc (i / 32) 1)

end Sys2Proof.Claims

/-- R130, R155: VLDR widens 128 consecutive elements, MX elements with the four scales at s[rs2]; VLDC loads words j and j + 1 of 64
lines; VLDA loads rows 2q and 2q + 1 of an owned tile. -/
def Sys2Proof.Claims.VectorLoads : Prop :=
  (∀ (w : Thr) (vr rs1 rs2 : BitVec 5) (fmt : BitVec 4) (sat : Bool) (rm : BitVec 2) (s : State) (a : Word) (bs : List Byte),
    CanIssue w s → OwnsVec w s vr → fmt.toNat < 14 → fmtMx fmt.toNat = false → Reads w s rs1 a →
    a.toNat % rowAlign fmt.toNat = 0 → SpReads s (thrKey w / 64) a.toNat (rowBytes fmt.toNat) bs →
    Runs (.vldr w vr rs1 rs2 fmt sat rm) s fun t =>
      WritesVec (thrKey w) vr.toNat (lanesOf fmt.toNat bs []) s t ∧ VecFrame (thrKey w) s t) ∧
  (∀ (w : Thr) (vr rs1 rs2 : BitVec 5) (fmt : BitVec 4) (sat : Bool) (rm : BitVec 2) (s : State) (a c : Word) (bs sc : List Byte),
    CanIssue w s → OwnsVec w s vr → fmtMx fmt.toNat = true → Reads w s rs1 a → Reads w s rs2 c →
    a.toNat % rowAlign fmt.toNat = 0 → SpReads s (thrKey w / 64) a.toNat (rowBytes fmt.toNat) bs →
    SpReads s (thrKey w / 64) c.toNat 4 sc →
    Runs (.vldr w vr rs1 rs2 fmt sat rm) s fun t =>
      WritesVec (thrKey w) vr.toNat (lanesOf fmt.toNat bs sc) s t ∧ VecFrame (thrKey w) s t) ∧
  (∀ (w : Thr) (vr rs1 rs2 : BitVec 5) (fmt : BitVec 4) (sat : Bool) (rm : BitVec 2) (s : State) (a d : Word)
    (lo hi : Nat → List Byte), CanIssue w s → OwnsVec w s vr → fmt.toNat < 2 → Reads w s rs1 a → Reads w s rs2 d → ColOk a d →
    (∀ i < 64, SpReads s (thrKey w / 64) (colOff a d i 0) 4 (lo i) ∧ SpReads s (thrKey w / 64) (colOff a d i 1) 4 (hi i)) →
    Runs (.vldc w vr rs1 rs2 fmt sat rm) s fun t =>
      WritesVec (thrKey w) vr.toNat (((List.range 64).map fun i => BitVec.ofNat 32 (leNat (lo i))) ++
        (List.range 64).map fun i => BitVec.ofNat 32 (leNat (hi i))) s t ∧ VecFrame (thrKey w) s t) ∧
  (∀ (w : Thr) (vr rs1 : BitVec 5) (s : State) (a : Word) (ws : List Word), CanIssue w s → OwnsVec w s vr → Reads w s rs1 a →
    ownsTile s (thrKey w) (a.getLsbD 4) = true → accRead s (thrKey w / 64) (a.getLsbD 4) (a.toNat % 16 * 128) 128 = .ok ws →
    Runs (.vlda w vr rs1 0 0 false 0) s fun t => WritesVec (thrKey w) vr.toNat ws s t ∧ VecFrame (thrKey w) s t)

/-- R126, R127, R130, R155: VSTR narrows the lanes to 128 consecutive elements, and to blocks with four scales at s[rs2] for an MX
format; VSTC stores lanes i and 64 + i to words j and j + 1 of line i of the column; VSTA stores to rows 2q and 2q + 1 of an owned
tile. No other byte, and no other entry of a tile, changes. -/
def Sys2Proof.Claims.VectorStores : Prop :=
  (∀ (w : Thr) (vr rs1 rs2 : BitVec 5) (fmt : BitVec 4) (sat : Bool) (rm : BitVec 2) (s : State) (a : Word) (ws : List Word),
    CanIssue w s → VReads w s vr ws → fmt.toNat < 14 → fmtMx fmt.toNat = false → Reads w s rs1 a →
    a.toNat % rowAlign fmt.toNat = 0 →
    SpOpen s (thrKey w / 64) a.toNat (packCodes fmt.toNat (ws.map fun x => (narrow fmt.toNat (Rm.ofCode rm.toNat) sat x).1)).length →
    Runs (.vstr w vr rs1 rs2 fmt sat rm) s fun t =>
      Stored (spBase (thrKey w / 64) + a.toNat) (packCodes fmt.toNat (ws.map fun x => (narrow fmt.toNat (Rm.ofCode rm.toNat) sat x).1)) s t ∧
      Steps (thrKey w) s t ∧ StoreFrame (thrKey w) s t) ∧
  (∀ (w : Thr) (vr rs1 rs2 : BitVec 5) (fmt : BitVec 4) (sat : Bool) (rm : BitVec 2) (s : State) (a c : Word) (ws : List Word),
    CanIssue w s → VReads w s vr ws → fmtMx fmt.toNat = true → Reads w s rs1 a → Reads w s rs2 c →
    a.toNat % rowAlign fmt.toNat = 0 →
    SpOpen s (thrKey w / 64) a.toNat (storeCodes fmt.toNat sat (Rm.ofCode rm.toNat) ws).1.length →
    SpOpen s (thrKey w / 64) c.toNat (storeCodes fmt.toNat sat (Rm.ofCode rm.toNat) ws).2.length →
    Runs (.vstr w vr rs1 rs2 fmt sat rm) s fun t =>
      memRead t (spBase (thrKey w / 64) + c.toNat) (storeCodes fmt.toNat sat (Rm.ofCode rm.toNat) ws).2.length =
        (storeCodes fmt.toNat sat (Rm.ofCode rm.toNat) ws).2 ∧
      (c.toNat + (storeCodes fmt.toNat sat (Rm.ofCode rm.toNat) ws).2.length ≤ a.toNat ∨
          a.toNat + (storeCodes fmt.toNat sat (Rm.ofCode rm.toNat) ws).1.length ≤ c.toNat →
        memRead t (spBase (thrKey w / 64) + a.toNat) (storeCodes fmt.toNat sat (Rm.ofCode rm.toNat) ws).1.length =
          (storeCodes fmt.toNat sat (Rm.ofCode rm.toNat) ws).1) ∧
      (∀ x, (x < spBase (thrKey w / 64) + a.toNat ∨
          spBase (thrKey w / 64) + a.toNat + (storeCodes fmt.toNat sat (Rm.ofCode rm.toNat) ws).1.length ≤ x) →
        (x < spBase (thrKey w / 64) + c.toNat ∨
          spBase (thrKey w / 64) + c.toNat + (storeCodes fmt.toNat sat (Rm.ofCode rm.toNat) ws).2.length ≤ x) →
        tget t.mem.cells x = tget s.mem.cells x) ∧
      Steps (thrKey w) s t ∧ StoreFrame (thrKey w) s t) ∧
  (∀ (w : Thr) (vr rs1 rs2 : BitVec 5) (fmt : BitVec 4) (sat : Bool) (rm : BitVec 2) (s : State) (a d : Word) (ws : List Word),
    CanIssue w s → VReads w s vr ws → fmt.toNat < 2 → Reads w s rs1 a → Reads w s rs2 d → ColOk a d →
    (∀ i < 64, SpOpen s (thrKey w / 64) (colOff a d i 0) 8) →
    Runs (.vstc w vr rs1 rs2 fmt sat rm) s fun t =>
      (∀ i < 64, memRead t (spBase (thrKey w / 64) + colOff a d i 0) 8 =
        leBytes 4 (ws.getD i 0).toNat ++ leBytes 4 (ws.getD (64 + i) 0).toNat) ∧
      (∀ x, (∀ i < 64, x < spBase (thrKey w / 64) + colOff a d i 0 ∨ spBase (thrKey w / 64) + colOff a d i 0 + 8 ≤ x) →
        tget t.mem.cells x = tget s.mem.cells x) ∧
      Steps (thrKey w) s t ∧ StoreFrame (thrKey w) s t) ∧
  (∀ (w : Thr) (vr rs1 : BitVec 5) (s : State) (a : Word) (ws : List Word), CanIssue w s → VReads w s vr ws → Reads w s rs1 a →
    ownsTile s (thrKey w) (a.getLsbD 4) = true →
    Runs (.vsta w vr rs1 0 0 false 0) s fun t =>
      accRead t (thrKey w / 64) (a.getLsbD 4) (a.toNat % 16 * 128) 128 = .ok ws ∧
      (∀ x, (x < akey (thrKey w / 64) (a.getLsbD 4) + a.toNat % 16 * 128 ∨
          akey (thrKey w / 64) (a.getLsbD 4) + a.toNat % 16 * 128 + 128 ≤ x) → tget t.lv.acc x = tget s.lv.acc x) ∧
      MemSame s t ∧ KeepsRegs (thrKey w) s t ∧ Steps (thrKey w) s t ∧ OnlyLeaf (thrKey w / 64) s t ∧
      t.lv = { s.lv with leaf := t.lv.leaf, threads := t.lv.threads, acc := t.lv.acc, badAcc := t.lv.badAcc })

/-- Vector loads and stores. -/
def Obligations.VectorLoadsAndStores : Prop := VectorLoads ∧ VectorStores
/-! ### Matrix operations, drains and DMA (R67, R70 to R73, R81 to R84, R113 to R118, R125, R154 classes 0x7 and 0x8) -/

namespace Sys2Proof.Claims

/-- What the issue of an engine operation of thread `k` with token `tok` does beside queueing it: the token counts up, the program
counter advances, and no register, tile or byte of memory changes. -/
def Queued (k tok : Nat) (s t : State) : Prop :=
  getTh t k = { getTh s k with pc := ((getTh s k).pc + 4) % 2 ^ 32, toks := tput (getTh s k).toks tok (tget (getTh s k).toks tok + 1) } ∧
  (∀ j, j ≠ k → getTh t j = getTh s j) ∧ (∀ l, l ≠ k / 64 → getLeaf t l = getLeaf s l) ∧ MemSame s t ∧
  t.lv.vregs = s.lv.vregs ∧ t.lv.acc = s.lv.acc ∧ t.lv.accFlags = s.lv.accFlags ∧ KeepsRegs k s t

/-- An aligned command block or descriptor of `n` bytes at s[rs1] (R81, R157). -/
abbrev Block (w : Thr) (s : State) (rs1 : BitVec 5) (n : Nat) (b : List Byte) : Prop :=
  ∃ a, Reads w s rs1 a ∧ a.toNat % n = 0 ∧ SpReads s (thrKey w / 64) a.toNat n b

/-- The token that a completion gives back. -/
def TokBack (k tok : Nat) (s t : State) : Prop := tget (getTh t k).toks tok = tget (getTh s k).toks tok - 1

end Sys2Proof.Claims

/-- R67, R81, R157: MMA, DRAIN and DMA read their block, check it, join their queue and take their token; ACCST reads a tile's flags. -/
def Sys2Proof.Claims.EngineIssue : Prop :=
  (∀ (w : Thr) (rs1 : BitVec 5) (tok : BitVec 4) (a clear : Bool) (s : State) (b : List Byte),
    CanIssue w s → ownsTile s (thrKey w) a = true → Block w s rs1 32 b → mmaChk b = .ok () →
    (getLeaf s (thrKey w / 64)).mma.length < 8 → tget (getTh s (thrKey w)).toks tok.toNat < 255 →
    Runs (.mma w rs1 tok a clear) s fun t =>
      (∃ op : EngOp, op.thread = thrKey w % 64 ∧ op.tok = tok.toNat ∧ op.tile = b2n a ∧ op.clear = clear ∧ op.blk = b ∧
        (getLeaf t (thrKey w / 64)).mma = (getLeaf s (thrKey w / 64)).mma ++ [op]) ∧
      (getLeaf t (thrKey w / 64)).drain = (getLeaf s (thrKey w / 64)).drain ∧ Queued (thrKey w) tok.toNat s t) ∧
  (∀ (w : Thr) (rs1 : BitVec 5) (tok : BitVec 4) (a : Bool) (s : State) (b : List Byte),
    CanIssue w s → ownsTile s (thrKey w) a = true → Block w s rs1 16 b →
    drainChk b ((getLeaf s (thrKey w / 64)).ttype / 2 ^ b2n a % 2) = .ok () → tget (getTh s (thrKey w)).toks tok.toNat < 255 →
    Runs (.drain w rs1 tok a) s fun t =>
      (∃ op : EngOp, op.thread = thrKey w % 64 ∧ op.tok = tok.toNat ∧ op.tile = b2n a ∧ op.blk = b ∧
        (getLeaf t (thrKey w / 64)).drain = (getLeaf s (thrKey w / 64)).drain ++ [op]) ∧
      (getLeaf t (thrKey w / 64)).mma = (getLeaf s (thrKey w / 64)).mma ∧ Queued (thrKey w) tok.toNat s t) ∧
  (∀ (w : Thr) (rs1 : BitVec 5) (s : State) (d : List Byte) (free : Nat),
    CanIssue w s → Block w s rs1 32 d → dmaChk (thrKey w / 64) d = .ok () → tget (getTh s (thrKey w)).toks (dTok d) < 255 →
    free < 16 → (∀ o ∈ (getLeaf s (thrKey w / 64)).dma, o.slot ≠ free) →
    (∀ i < free, ∃ o ∈ (getLeaf s (thrKey w / 64)).dma, o.slot = i) →
    Runs (.dma w rs1) s fun t =>
      (∃ o : DmaOp, o.slot = free ∧ o.thread = thrKey w % 64 ∧ o.desc = d ∧ o.row = 0 ∧ o.done = 0 ∧
        (getLeaf t (thrKey w / 64)).dma = (getLeaf s (thrKey w / 64)).dma ++ [o]) ∧
      Queued (thrKey w) (dTok d) s t) ∧
  (∀ (w : Thr) (rd : BitVec 5) (a : Bool) (s : State), CanIssue w s → ownsTile s (thrKey w) a = true →
    Runs (.accst w rd a) s fun t =>
      WritesReg (thrKey w) rd (BitVec.ofNat 32 (tget s.lv.accFlags (thrKey w / 64 * 2 + b2n a))) s t ∧
      Steps (thrKey w) s t ∧ ScalarFrame (thrKey w) s t)

/-- R70, R73, R84, R118, R125: a matrix operation whose operands can be read gives the tile its new entries and flags, and returns its
token; a drain in INT32 or FP32 writes row m of the tile to line LD + m × SD; a FILL piece writes byte (a mod 4) of the pattern at every
address a of the piece, and a COPY piece from DRAM the bytes it reads. Nothing else of memory changes. -/
def Sys2Proof.Claims.EngineCompletion : Prop :=
  (∀ (leaf : Fin 168) (s u : State) (op : EngOp) (rest : List EngOp), (getLeaf s leaf.val).mma = op :: rest →
    engOn s leaf.val = true → (∀ d ∈ (getLeaf s leaf.val).drain, ¬(d.tile = op.tile ∧ d.seq < op.seq)) →
    op.tile < 2 → mmaRun leaf.val op s = .ok u →
    Runs (.mmaComplete leaf) s fun t =>
      (getLeaf t leaf.val).mma = rest ∧ t.lv.acc = u.lv.acc ∧ t.lv.accFlags = u.lv.accFlags ∧
      (∀ x, (x < (leaf.val * 2 + op.tile) * 2048 ∨ (leaf.val * 2 + op.tile) * 2048 + 2048 ≤ x) → tget t.lv.acc x = tget s.lv.acc x) ∧
      TokBack (leaf.val * 64 + op.thread) op.tok s t ∧ MemSame s t ∧ t.lv.vregs = s.lv.vregs) ∧
  (∀ (leaf : Fin 168) (s : State) (op : EngOp) (rest : List EngOp) (acc : List Word), (getLeaf s leaf.val).drain = op :: rest →
    engOn s leaf.val = true → op.tile < 2 → accRead s leaf.val (decide (op.tile = 1)) 0 2048 = .ok acc →
    field op.blk 4 1 ≤ 1 → 1 ≤ field op.blk 2 2 →
    (∀ m < 32, SpOpen s leaf.val ((field op.blk 0 2 + m * field op.blk 2 2) * 256) 256) →
    Runs (.drainComplete leaf) s fun t =>
      (∀ m < 32, memRead t (spBase leaf.val + (field op.blk 0 2 + m * field op.blk 2 2) * 256) 256 =
        ((acc.drop (m * 64)).take 64).flatMap fun v => leBytes 4 v.toNat) ∧
      (∀ x, (∀ m < 32, x < spBase leaf.val + (field op.blk 0 2 + m * field op.blk 2 2) * 256 ∨
          spBase leaf.val + (field op.blk 0 2 + m * field op.blk 2 2) * 256 + 256 ≤ x) → tget t.mem.cells x = tget s.mem.cells x) ∧
      (getLeaf t leaf.val).drain = rest ∧ TokBack (leaf.val * 64 + op.thread) op.tok s t ∧ t.lv.acc = s.lv.acc ∧
      ∀ x, tget t.lv.accFlags x = tget s.lv.accFlags x) ∧
  (∀ (leaf : Fin 168) (slot : Fin 16) (s : State) (o : DmaOp), (getLeaf s leaf.val).dma = [o] → o.slot = slot.val →
    engOn s leaf.val = true → o.pcie = 0 → o.row < dRows o.desc → o.done < dRowBytes o.desc → dOp o.desc = 1 →
    ownSp leaf.val (addr48 (dstRow o.desc o.row) o.done) = true →
    SpOpen s leaf.val (addr48 (dstRow o.desc o.row) o.done - spBase leaf.val) (pieceLen o) →
    (∀ x ∈ s.cross.out, dmaKey leaf.val slot.val ∉ x.waits) →
    Runs (.dmaPieceComplete leaf slot) s fun t =>
      (∀ i < pieceLen o, tget t.mem.cells (addr48 (dstRow o.desc o.row) o.done + i) =
        BitVec.ofNat 8 (dFill o.desc / 256 ^ ((addr48 (dstRow o.desc o.row) o.done + i) % 4))) ∧
      MemOutside (addr48 (dstRow o.desc o.row) o.done) (pieceLen o) s t ∧
      (if dRowBytes o.desc ≤ o.done + pieceLen o then
        if o.row + 1 = dRows o.desc then (getLeaf t leaf.val).dma = [] ∧ TokBack (leaf.val * 64 + o.thread) (dTok o.desc) s t
        else (getLeaf t leaf.val).dma = [{ o with row := o.row + 1, done := 0, started := true }]
      else (getLeaf t leaf.val).dma = [{ o with done := o.done + pieceLen o, started := true }])) ∧
  (∀ (leaf : Fin 168) (slot : Fin 16) (s : State) (o : DmaOp), (getLeaf s leaf.val).dma = [o] → o.slot = slot.val →
    engOn s leaf.val = true → o.pcie = 0 → o.row < dRows o.desc → o.done < dRowBytes o.desc → dOp o.desc = 0 →
    addr48 (srcRow o.desc o.row) o.done % 64 + pieceLen o ≤ 64 → addr48 (srcRow o.desc o.row) o.done < 0x1000000000 →
    Accepted s (leafIni leaf.val) false (addr48 (srcRow o.desc o.row) o.done) (pieceLen o) →
    LineGood s (addr48 (srcRow o.desc o.row) o.done) →
    ownSp leaf.val (addr48 (dstRow o.desc o.row) o.done) = true →
    SpOpen s leaf.val (addr48 (dstRow o.desc o.row) o.done - spBase leaf.val) (pieceLen o) →
    Runs (.dmaPieceComplete leaf slot) s fun t =>
      memRead t (addr48 (dstRow o.desc o.row) o.done) (pieceLen o) = memRead s (addr48 (srcRow o.desc o.row) o.done) (pieceLen o) ∧
      MemOutside (addr48 (dstRow o.desc o.row) o.done) (pieceLen o) s t)

/-- What a leaf's engines are given, and what they complete. -/
def Obligations.LeafEngines : Prop := EngineIssue ∧ EngineCompletion

/-- R117: the special values of a group and of an accumulator entry, in the rule's order. R116: no entry that a floating-point operation writes
is −0. R114: an INT8 entry is ACC plus the exact sum of its products, clamped to INT32. The worked example of Table 4.3 gives 0x48C3_FEC9. -/
def Obligations.MatrixEntries : Prop :=
  (∀ (ps : List (FVal × FVal)), (∃ p ∈ ps, p.1 = .nan ∨ p.2 = .nan ∨ ((∃ n, p.1 = .inf n) ∧ p.2.isZero = true) ∨ (p.1.isZero = true ∧ (∃ n, p.2 = .inf n))) →
    groupSum ps = .nan) ∧
  (∀ (ps : List (FVal × FVal)), (∀ p ∈ ps, FVal.mul p.1 p.2 ≠ .nan) →
    ((∃ p ∈ ps, FVal.mul p.1 p.2 = .inf false) → (∃ p ∈ ps, FVal.mul p.1 p.2 = .inf true) → groupSum ps = .nan) ∧
    (∀ n, (∃ p ∈ ps, FVal.mul p.1 p.2 = .inf n) → (∀ p ∈ ps, FVal.mul p.1 p.2 ≠ .inf !n) → groupSum ps = .inf n) ∧
    ((∀ p ∈ ps, ∀ n, FVal.mul p.1 p.2 ≠ .inf n) → ∃ n m e, groupSum ps = .fin n m e)) ∧
  (∀ (b : List Byte) (rows lines meta_ sa sb : List (List Byte)) (m n g : Nat) (acc : Word), fmtMx (field b 8 1) = true →
    bitOf (field b 10 1) 0 = false → g * 32 < field b 6 2 →
    (field (sa.getD (g / 8) []) (g % 8 * 32 + m) 1 = 255 ∨ field (sb.getD (g / 4) []) (g % 4 * 64 + n) 1 = 255) →
    (mmaEntry b rows lines meta_ sa sb m n acc).1 = 0x7FC00000#32) ∧
  (∀ (acc : Word) (p : FVal), f32 acc = .nan → applyGroup acc p = (0x7FC00000#32, false, false)) ∧
  (∀ (acc : Word), (f32 acc).isNan = false → applyGroup acc .nan = (0x7FC00000#32, true, false)) ∧
  (∀ (n s : Bool) (m : Nat) (e : Int), let inf := if n then 0xFF800000#32 else 0x7F800000#32
    applyGroup inf (.fin s m e) = (inf, false, false) ∧ applyGroup inf (.inf n) = (inf, false, false) ∧
    applyGroup inf (.inf !n) = (0x7FC00000#32, true, false)) ∧
  (∀ (acc : Word) (p : FVal), f32 (applyGroup acc p).1 = .nan → (applyGroup acc p).1 = 0x7FC00000#32) ∧
  (∀ (acc : Word) (gs : List (List (FVal × FVal) × Int)), gs ≠ [] → (applyGroups acc gs).1 ≠ 0x80000000#32 ∧
    ((f32 (applyGroups acc gs).1).isZero = true → (applyGroups acc gs).1 = 0#32)) ∧
  (∀ (b : List Byte) (rows lines meta_ sa sb : List (List Byte)) (m n : Nat) (acc : Word),
    field b 8 1 = 2 → field b 9 1 = 2 → bitOf (field b 10 1) 0 = false →
    (mmaEntry b rows lines meta_ sa sb m n acc).1 = clamp32 (acc.toInt + ((List.range (field b 6 2)).map fun k =>
      signedOf 8 (field (rows.getD m []) k 1) * signedOf 8 (field (lines.getD (k / 4) []) (k % 4 * 64 + n) 1)).sum) ∧
    (mmaEntry b rows lines meta_ sa sb m n acc).2.1 = false ∧ (mmaEntry b rows lines meta_ sa sb m n acc).2.2.1 = false) ∧
  (applyGroups 0#32
    [([(e4m3.decode 0x7E, e4m3.decode 0x7E), (e4m3.decode 0xC5, e4m3.decode 0x3C), (e4m3.decode 0x01, e4m3.decode 0x01)], 1),
     ([(e4m3.decode 0x38, e4m3.decode 0x58), (e4m3.decode 0x30, e4m3.decode 0x30)], -10)]).1 = 0x48C3FEC9#32
/-! ### Queues and synchronisation (R88, R91, R138 to R149, R154, R156) -/

namespace Sys2Proof.Claims

/-- The local queue number of the instruction names queue `q` (R156). -/
abbrev LocalQ (w : Thr) (s : State) (rs2 : BitVec 5) (qn : BitVec 8) (q : Nat) : Prop := localQ (thrKey w) rs2 qn s = .ok q

/-- A step of thread `k` ended at the next instruction: its scalar registers, predicates and program counter stand in its shadow (R88). -/
def StepEnded (k : Nat) (s t : State) : Prop :=
  Steps k s t ∧ (getTh t k).shadow.pc = (getTh t k).pc ∧ (getTh t k).shadow.regs = (getTh t k).regs ∧
  (getTh t k).shadow.preds = (getTh t k).preds ∧ (getTh t k).replays = 0 ∧ tget t.lv.badShadow k = 0

/-- The bytes that a push puts into a slot: in a TILE entry the slice fills ADDR (R141). -/
def entryOf (x : Queue) (bs : List Byte) : List Byte := if x.kind = 0 then leBytes 6 (x.tbase + x.tail % 2 ^ x.lg * x.stride) ++ bs.drop 6 else bs

/-- Queue `q` took one entry at TAIL, and no other queue changed (R139, R142). -/
def Pushed (q : Nat) (s t : State) : Prop :=
  (getQ t q).tail = ((getQ s q).tail + 1) % (2 * 2 ^ (getQ s q).lg) ∧ (getQ t q).head = (getQ s q).head ∧
  (getQ t q).retire = (getQ s q).retire ∧ (getQ t q).pushed = (getQ s q).pushed.add 1 ∧ ∀ j, j ≠ q → getQ t j = getQ s j

/-- Queue `q` gave the entry at HEAD: RETIRE moves with HEAD except in a TILE queue (R139). -/
def Popped (q : Nat) (s t : State) : Prop :=
  (getQ t q).head = ((getQ s q).head + 1) % (2 * 2 ^ (getQ s q).lg) ∧ (getQ t q).tail = (getQ s q).tail ∧
  (getQ t q).retire = (if (getQ s q).kind = 0 then (getQ s q).retire else (getQ t q).head) ∧
  (getQ t q).popped = (getQ s q).popped.add 1 ∧ ∀ j, j ≠ q → getQ t j = getQ s j

end Sys2Proof.Claims

/-- R139, R141, R147, R149, R156: QPUSH puts the entry at s[rs1] into the slot of TAIL; QPOP brings the entry at HEAD to s[rs1]; QTRY does
the same and sets its predicate, or clears it on an empty queue; each ends a step. QPUSH waits on a full queue and QPOP on an empty one.
(In a dual job a push to an external queue is a checkpoint instead, R404.) -/
def Sys2Proof.Claims.QueuePushAndPop : Prop :=
  (∀ (w : Thr) (rs1 rs2 : BitVec 5) (qn : BitVec 8) (s : State) (q : Nat) (a : Word) (bs : List Byte),
    CanIssue w s → LocalQ w s rs2 qn q → Reads w s rs1 a → isProducer s (thrKey w) q = true → a.toNat % (getQ s q).esz = 0 →
    SpReads s (thrKey w / 64) a.toNat (getQ s q).esz bs → idleTh s (thrKey w) = true → (getQ s q).full = false →
    (∀ e j, runningJob s (thrKey w / 64) = some (e, j) → j.copy = 0) → (getTh s (thrKey w)).heldPush = none →
    PlaceOpen s ((getQ s q).base + (getQ s q).tail % 2 ^ (getQ s q).lg * (getQ s q).esz) (getQ s q).esz →
    Runs (.qpush w rs1 rs2 qn) s fun t => Pushed q s t ∧
      memRead t ((getQ s q).base + (getQ s q).tail % 2 ^ (getQ s q).lg * (getQ s q).esz) (getQ s q).esz = entryOf (getQ s q) bs ∧
      MemOutside ((getQ s q).base + (getQ s q).tail % 2 ^ (getQ s q).lg * (getQ s q).esz) (getQ s q).esz s t ∧
      StepEnded (thrKey w) s t ∧ KeepsRegs (thrKey w) s t) ∧
  (∀ (w : Thr) (rs1 rs2 : BitVec 5) (qn : BitVec 8) (s : State) (q : Nat) (a : Word) (bs : List Byte),
    CanIssue w s → LocalQ w s rs2 qn q → Reads w s rs1 a → isProducer s (thrKey w) q = true → a.toNat % (getQ s q).esz = 0 →
    SpReads s (thrKey w / 64) a.toNat (getQ s q).esz bs → (getQ s q).full = true →
    (∀ e j, runningJob s (thrKey w / 64) = some (e, j) → j.copy = 0) →
    exec (.qpush w rs1 rs2 qn) s = .next s) ∧
  (∀ (w : Thr) (rs1 rs2 : BitVec 5) (qn : BitVec 8) (s : State) (q : Nat) (a : Word),
    CanIssue w s → LocalQ w s rs2 qn q → Reads w s rs1 a → isConsumer s (thrKey w) q = true → a.toNat % (getQ s q).esz = 0 →
    SpOpen s (thrKey w / 64) a.toNat (getQ s q).esz → idleTh s (thrKey w) = true →
    if (getQ s q).len = 0 then exec (.qpop w rs1 rs2 qn) s = .next s
    else Runs (.qpop w rs1 rs2 qn) s fun t => Popped q s t ∧
      Stored (spBase (thrKey w / 64) + a.toNat) (headEntry s q) s t ∧ StepEnded (thrKey w) s t ∧ KeepsRegs (thrKey w) s t) ∧
  (∀ (w : Thr) (rs1 rs2 : BitVec 5) (qn : BitVec 8) (p : BitVec 3) (s : State) (q : Nat) (a : Word),
    CanIssue w s → LocalQ w s rs2 qn q → Reads w s rs1 a → isConsumer s (thrKey w) q = true → a.toNat % (getQ s q).esz = 0 →
    SpOpen s (thrKey w / 64) a.toNat (getQ s q).esz → idleTh s (thrKey w) = true →
    Runs (.qtry w rs1 rs2 qn p) s fun t =>
      (getTh t (thrKey w)).preds.getLsbD p.toNat = decide ((getQ s q).len ≠ 0) ∧ StepEnded (thrKey w) s t ∧ KeepsRegs (thrKey w) s t ∧
      (if (getQ s q).len = 0 then MemSame s t ∧ t.queue = s.queue
       else Popped q s t ∧ Stored (spBase (thrKey w / 64) + a.toNat) (headEntry s q) s t))

/-- R141, R149, R156: QWAIT gives the buffer of slot TAIL in the pair rd, rd + 1; QRET retires the s[rs1] oldest popped entries of a TILE
queue; QLEN gives the number of entries present. -/
def Sys2Proof.Claims.QueueWaitRetireLength : Prop :=
  (∀ (w : Thr) (rd rs2 : BitVec 5) (qn : BitVec 8) (s : State) (q : Nat),
    CanIssue w s → LocalQ w s rs2 qn q → isProducer s (thrKey w) q = true → (getQ s q).kind = 0 → (getQ s q).full = false → rd.toNat % 2 = 0 →
    Runs (.qwait w rd rs2 qn) s fun t =>
      (rd ≠ 0 → sreg t (thrKey w) rd = .ok (BitVec.ofNat 32 ((getQ s q).tbase + (getQ s q).tail % 2 ^ (getQ s q).lg * (getQ s q).stride))) ∧
      sreg t (thrKey w) (rd + 1) = .ok (BitVec.ofNat 32 (((getQ s q).tbase + (getQ s q).tail % 2 ^ (getQ s q).lg * (getQ s q).stride) / 2 ^ 32)) ∧
      (∀ r, r ≠ rd → r ≠ rd + 1 → sreg t (thrKey w) r = sreg s (thrKey w) r) ∧ Steps (thrKey w) s t ∧ ScalarFrame (thrKey w) s t) ∧
  (∀ (w : Thr) (rs1 rs2 : BitVec 5) (qn : BitVec 8) (s : State) (q : Nat) (a : Word),
    CanIssue w s → LocalQ w s rs2 qn q → Reads w s rs1 a → isConsumer s (thrKey w) q = true → (getQ s q).kind = 0 → 1 ≤ a.toNat →
    a.toNat ≤ ((getQ s q).head + 2 * (getQ s q).n - (getQ s q).retire) % (2 * (getQ s q).n) → idleTh s (thrKey w) = true →
    Runs (.qret w rs1 rs2 qn) s fun t =>
      (getQ t q) = { getQ s q with retire := ((getQ s q).retire + a.toNat) % (2 * (getQ s q).n) } ∧ (∀ j, j ≠ q → getQ t j = getQ s j) ∧
      StepEnded (thrKey w) s t ∧ KeepsRegs (thrKey w) s t ∧ MemSame s t) ∧
  (∀ (w : Thr) (rd rs2 : BitVec 5) (qn : BitVec 8) (s : State) (q : Nat),
    CanIssue w s → LocalQ w s rs2 qn q → (isProducer s (thrKey w) q || isConsumer s (thrKey w) q) = true →
    Runs (.qlen w rd rs2 qn) s fun t =>
      WritesReg (thrKey w) rd (BitVec.ofNat 32 (((getQ s q).tail + 2 * (getQ s q).n - (getQ s q).head) % (2 * (getQ s q).n))) s t ∧
      Steps (thrKey w) s t ∧ ScalarFrame (thrKey w) s t)

/-- The queue instructions. -/
def Obligations.QueueInstructions : Prop := QueuePushAndPop ∧ QueueWaitRetireLength

/-- R65, R88, R154: WAIT goes on when its token is zero, and waits otherwise; BAR holds the thread until the number of threads of its
instance that its field gives as count − 1 wait at the barrier, and then frees them all; STEP copies the thread's state to its shadow; HALT halts the thread. R91: a replay restores
the thread from its shadow, and event 0x1002 records it. -/
def Obligations.Synchronisation : Prop :=
  (∀ (w : Thr) (n : BitVec 4) (s : State), CanIssue w s → tget (getTh s (thrKey w)).toks n.toNat = 0 →
    Runs (.wait w n) s fun t => Steps (thrKey w) s t ∧ KeepsRegs (thrKey w) s t ∧ ScalarFrame (thrKey w) s t) ∧
  (∀ (w : Thr) (n : BitVec 4) (s : State), CanIssue w s → tget (getTh s (thrKey w)).toks n.toNat ≠ 0 →
    exec (.wait w n) s = .next s) ∧
  (∀ (w : Thr) (n : BitVec 4) (cnt : BitVec 6) (s : State), CanIssue w s → idleTh s (thrKey w) = true → (getTh s (thrKey w)).bound = true →
    Runs (.bar w n cnt) s fun t => KeepsRegs (thrKey w) s t ∧ StepEnded (thrKey w) s t ∧ MemSame s t ∧
      (if (atBarrier s (thrKey w) n.toNat).length + 1 < cnt.toNat + 1 then
        (getTh t (thrKey w)).mode = .barrier n.toNat (cnt.toNat + 1) ∧ ∀ j, j ≠ thrKey w → getTh t j = getTh s j
      else (getTh t (thrKey w)).mode = .running ∧ (∀ j ∈ atBarrier s (thrKey w) n.toNat, (getTh t j).mode = .running) ∧
        ∀ j, j ≠ thrKey w → j ∉ atBarrier s (thrKey w) n.toNat → getTh t j = getTh s j)) ∧
  (∀ (w : Thr) (s : State), CanIssue w s → idleTh s (thrKey w) = true →
    Runs (.stepEnd w) s fun t => StepEnded (thrKey w) s t ∧ KeepsRegs (thrKey w) s t ∧ MemSame s t ∧ ∀ j, j ≠ thrKey w → getTh t j = getTh s j) ∧
  (∀ (w : Thr) (s : State) (e : Nat) (j : Job) (k' : Nat), CanIssue w s → idleTh s (thrKey w) = true →
    runningJob s (thrKey w / 64) = some (e, j) → j.copy = 0 → k' ∈ jobThreads s j → k' ≠ thrKey w → (getTh s k').mode ≠ .halted →
    Runs (.halt w) s fun t => (getTh t (thrKey w)).mode = .halted ∧ KeepsRegs (thrKey w) s t ∧ MemSame s t ∧ t.queue = s.queue ∧
      ∀ i, i ≠ thrKey w → getTh t i = getTh s i) ∧
  (∀ (w : Thr) (s : State), (getTh s (thrKey w)).mode = .parity → (getTh s (thrKey w)).load = none → idleTh s (thrKey w) = true → engOn s (thrKey w / 64) = true →
    (getTh s (thrKey w)).badAt = none → tget s.lv.badShadow (thrKey w) = 0 →
    Runs (.stepReplay w) s fun t =>
      (getTh t (thrKey w)).mode = .running ∧ (getTh t (thrKey w)).regs = (getTh s (thrKey w)).shadow.regs ∧
      (getTh t (thrKey w)).preds = (getTh s (thrKey w)).shadow.preds ∧ (getTh t (thrKey w)).pc = (getTh s (thrKey w)).shadow.pc ∧
      (getTh t (thrKey w)).replays = (getTh s (thrKey w)).replays + 1 ∧
      (getLeaf t (thrKey w / 64)).replays = (getLeaf s (thrKey w / 64)).replays.add 1 ∧
      Logs 0x1002 (thrKey w / 64) (leBytes 2 (thrKey w / 64) ++ leBytes 1 (thrKey w % 64) ++ leBytes 1 ((getTh s (thrKey w)).replays + 1) ++ leBytes 2 0) s t ∧
      MemSame s t ∧ t.queue = s.queue)
/-! ### Raster instructions and graphics jobs (R247 to R262) -/

namespace Sys2Proof.Claims

/-- The asynchronous raster operations with their opcodes (R256). -/
def rasterForms : List ((Thr → BitVec 5 → BitVec 4 → Instr) × Nat) := [(.rload, 3), (.rsetup, 4), (.rstore, 9)]

/-- The raster operation that joined the leaf's queue. -/
def RasterQueued (w : Thr) (tok : BitVec 4) (code : Nat) (b : List Byte) (s t : State) : Prop :=
  (∃ op : EngOp, op.thread = thrKey w % 64 ∧ op.tok = tok.toNat ∧ op.tile = code ∧ op.blk = b ∧
    (getLeaf t (thrKey w / 64)).raster = (getLeaf s (thrKey w / 64)).raster ++ [op]) ∧ Queued (thrKey w) tok.toNat s t

/-- The triangle that a block bins in a pass of the job (R254). -/
def triOf (s : State) (e : Nat) (j : Job) (b : List Byte) : Tri :=
  { key := (Config.triInfo b).1 % 2 ^ 44, bins := (Config.triInfo b).2.filter fun x => decide (x < passBinsOf s e j), blk := b }

/-- The thread's leaf, station and everything outside it are as they were but for the leaf's fragment batches. -/
def BatchFrame (k : Nat) (s t : State) : Prop :=
  t.lv.vregs = s.lv.vregs ∧ t.lv.acc = s.lv.acc ∧ t.queue = s.queue ∧ t.party = s.party ∧ (∀ j, j ≠ k → getTh t j = getTh s j) ∧
  ∀ l, l ≠ k / 64 → getLeaf t l = getLeaf s l

/-- A batch with other fragments, in its place among the leaf's batches. -/
def swapFrags (y : FragBatch) (fs : List Frag) (ys : List FragBatch) : List FragBatch :=
  ys.map fun z => if z = y then { z with frags := fs } else z

end Sys2Proof.Claims

/-- R67, R256: RLOAD, RSETUP and RSTORE read their block, and join the raster queue with their token; a pass that breaks the limits of R247,
R251 and R253 ends the job with fault kind 4 (what a block says is not given: assumption 14). RBINW does so where bin memory has room, and its triangle joins the lists of the bins it touches (R254, R257). The oldest
operation finishes when it has done its work on the claimed bin, and gives its token back. -/
def Obligations.RasterOperations : Prop :=
  (∀ x ∈ rasterForms, ∀ (w : Thr) (rs1 : BitVec 5) (tok : BitVec 4) (s : State) (a : Word) (b : List Byte),
    CanIssue w s → Reads w s rs1 a → SpReads s (thrKey w / 64) a.toNat 64 b →
    tget (getTh s (thrKey w)).toks tok.toNat < 255 →
    if x.2 = 4 ∨ passOk (Config.passInfo b) = true then Runs (x.1 w rs1 tok) s fun t => RasterQueued w tok x.2 b s t
    else exec (x.1 w rs1 tok) s = .next (progFault (thrKey w) 4 s)) ∧
  (∀ (w : Thr) (rs1 : BitVec 5) (tok : BitVec 4) (s : State) (a : Word) (b : List Byte) (e : Nat) (j : Job),
    CanIssue w s → runningJob s (thrKey w / 64) = some (e, j) → (getGfx s e).grow = false → (getGfx s e).render = false → Reads w s rs1 a →
    SpReads s (thrKey w / 64) a.toNat 64 b → tget (getTh s (thrKey w)).toks tok.toNat < 255 →
    (getGfx s e).used + Config.binBytes b % 2 ^ 32 ≤ (getGfx s e).cap →
    Runs (.rbinw w rs1 tok) s fun t => RasterQueued w tok 0 b s t ∧ (getGfx t e).grow = false ∧ (getGfx t e).cap = (getGfx s e).cap ∧
      (getGfx t e).used = (getGfx s e).used + Config.binBytes b % 2 ^ 32 ∧
      ∀ y, y ∈ (getGfx t e).tris ↔ y ∈ (getGfx s e).tris ∨ y = triOf s e j b) ∧
  (∀ (leaf : Fin 168) (s : State) (op : EngOp) (rest : List EngOp), (getLeaf s leaf.val).raster = op :: rest → engOn s leaf.val = true →
    op.tile = 0 ∨ (getTh s (leaf.val * 64 + op.thread)).bin = 0 →
    Runs (.rasterOpComplete leaf) s fun t => (getLeaf t leaf.val).raster = rest ∧ TokBack (leaf.val * 64 + op.thread) op.tok s t ∧
      MemSame s t ∧ t.lv.vregs = s.lv.vregs ∧ t.lv.acc = s.lv.acc) ∧
  (∀ (leaf : Fin 168) (s u : State) (op : EngOp) (rest : List EngOp) (e : Nat) (j : Job), (getLeaf s leaf.val).raster = op :: rest →
    engOn s leaf.val = true → runningJob s leaf.val = some (e, j) → rasterRun e leaf.val op s = .ok u →
    Runs (.rasterOpComplete leaf) s fun t => (getLeaf t leaf.val).raster = rest ∧ TokBack (leaf.val * 64 + op.thread) op.tok u t ∧
      MemSame u t ∧ t.lv.vregs = u.lv.vregs ∧ t.lv.acc = u.lv.acc ∧ t.queue = u.queue)

/-- R88, R251, R252: RDRAW ends a step and counts a draw, up to 1,048,576 in a pass; RBIN claims bins in row-major order, each once, answers
0xFFFF_FFFF when none is left, and ends a step; the first RBIN of a pass begins its rendering with the bins of its pass block. -/
def Sys2Proof.Claims.DrawsAndBins : Prop :=
  (∀ (w : Thr) (s : State) (e : Nat) (j : Job), CanIssue w s → idleTh s (thrKey w) = true → runningJob s (thrKey w / 64) = some (e, j) →
    askAll s = s → (getGfx s e).ask = 0 → (getGfx s e).render = false →
    Runs (.rdraw w) s fun t => StepEnded (thrKey w) s t ∧ KeepsRegs (thrKey w) s t ∧ MemSame s t ∧
      tget (getGfx t e).draws (thrKey w) = min 1048576 (tget (getGfx s e).draws (thrKey w) + 1) ∧ (getGfx t e).pass = (getGfx s e).pass) ∧
  (∀ (w : Thr) (rd : BitVec 5) (s : State) (e : Nat) (j : Job), CanIssue w s → idleTh s (thrKey w) = true →
    runningJob s (thrKey w / 64) = some (e, j) → askAll s = s → (getGfx s e).ask = 0 →
    let claim := if (getGfx s e).render then (getGfx s e).claim else 0
    let bins := if (getGfx s e).render then (getGfx s e).bins else passBinsOf s e j
    Runs (.rbin w rd) s fun t => StepEnded (thrKey w) s t ∧ MemSame s t ∧ (getGfx t e).render = true ∧ (getGfx t e).bins = bins ∧
      (if claim < bins then
        WritesReg (thrKey w) rd (BitVec.ofNat 32 claim) s t ∧ (getGfx t e).claim = claim + 1 ∧ (getTh t (thrKey w)).bin = claim + 1
      else WritesReg (thrKey w) rd 0xFFFFFFFF#32 s t ∧ (getGfx t e).claim = claim ∧ (getTh t (thrKey w)).bin = 0))

/-- R254, R256: RFRAG gives the next batch of the thread's bin in the ring at s[rs1], once, and all ones at the end of the bin's list; while
triangles are left to set up the thread waits. R255: RDEPTH tests the batch at s[rs1]; the samples that fail are no longer covered. R254:
RBLEND blends the lanes of the batch into attachment s[rs2] once every earlier fragment to the same pixels has been written there. -/
def Sys2Proof.Claims.FragmentOrder : Prop :=
  (∀ (w : Thr) (rd rs1 : BitVec 5) (s : State) (a : Word) (y : FragBatch), CanIssue w s → Reads w s rs1 a →
    ((getLeaf s (thrKey w / 64)).batches.find? fun y => decide (y.ring = a.toNat) && decide (y.bin + 1 = (getTh s (thrKey w)).bin) && !y.given) = some y →
    Runs (.rfrag w rd rs1) s fun t => WritesReg (thrKey w) rd (BitVec.ofNat 32 y.off) s t ∧ Steps (thrKey w) s t ∧ MemSame s t ∧
      BatchFrame (thrKey w) s t ∧ (getLeaf t (thrKey w / 64)).batches =
        (getLeaf s (thrKey w / 64)).batches.map fun z => if z = y then { z with given := true } else z) ∧
  (∀ (w : Thr) (rd rs1 : BitVec 5) (s : State) (a : Word) (e : Nat) (j : Job), CanIssue w s → Reads w s rs1 a →
    ((getLeaf s (thrKey w / 64)).batches.find? fun y => decide (y.ring = a.toNat) && decide (y.bin + 1 = (getTh s (thrKey w)).bin) && !y.given) = none →
    runningJob s (thrKey w / 64) = some (e, j) →
    if (getTh s (thrKey w)).bin ≠ 0 ∧ tget (getLeaf s (thrKey w / 64)).setup (thrKey w % 64) < (binList (getGfx s e) ((getTh s (thrKey w)).bin - 1)).length then
      exec (.rfrag w rd rs1) s = .next s
    else Runs (.rfrag w rd rs1) s fun t => WritesReg (thrKey w) rd 0xFFFFFFFF#32 s t ∧ Steps (thrKey w) s t ∧ ScalarFrame (thrKey w) s t) ∧
  (∀ (w : Thr) (vr rs1 : BitVec 5) (s u : State) (a : Word) (ds : List Word) (y : FragBatch) (fs : List Frag), CanIssue w s → VReads w s vr ds →
    Reads w s rs1 a → batchAt s (thrKey w) a.toNat = some y →
    testBatch (thrKey w / 64) y (fun f i => if f.late then ds.getD i 0 else f.depth) s = .ok (u, fs) →
    Runs (.rdepth w vr rs1) s fun t => Steps (thrKey w) u t ∧ KeepsRegs (thrKey w) u t ∧ MemSame u t ∧ BatchFrame (thrKey w) u t ∧
      (getLeaf t (thrKey w / 64)).batches = swapFrags y fs (getLeaf u (thrKey w / 64)).batches) ∧
  (∀ (w : Thr) (vr rs1 rs2 : BitVec 5) (s u q : State) (a n : Word) (r g b al : List Word) (y : FragBatch) (x : Att × Nat) (fs : List Frag),
    CanIssue w s → vr.toNat + 4 ≤ (getTh s (thrKey w)).nv → vread s (thrKey w) vr.toNat = .ok r → vread s (thrKey w) (vr.toNat + 1) = .ok g →
    vread s (thrKey w) (vr.toNat + 2) = .ok b → vread s (thrKey w) (vr.toNat + 3) = .ok al → Reads w s rs1 a → Reads w s rs2 n →
    batchAt s (thrKey w) a.toNat = some y → (attsOf y.info)[n.toNat]? = some x →
    n.toNat < y.info.cols.length → (∀ f ∈ y.frags, f.live = true → writtenBefore s (thrKey w / 64) y (2 ^ n.toNat) f = true) →
    testBatch (thrKey w / 64) y (fun f _ => f.depth) s = .ok (u, fs) →
    blendLanes (thrKey w / 64) y.info y.pass n.toNat x [r, g, b, al] fs u = .ok q →
    Runs (.rblend w vr rs1 rs2) s fun t => Steps (thrKey w) q t ∧ KeepsRegs (thrKey w) q t ∧ MemSame q t ∧ BatchFrame (thrKey w) q t ∧
      (getLeaf t (thrKey w / 64)).batches =
        swapFrags y (fs.map fun f => { f with done := setBit f.done n.toNat true }) (getLeaf q (thrKey w / 64)).batches) ∧
  (∀ (w : Thr) (vr rs1 rs2 : BitVec 5) (s : State) (a n : Word) (r g b al : List Word) (y : FragBatch) (x : Att × Nat) (f : Frag),
    CanIssue w s → vr.toNat + 4 ≤ (getTh s (thrKey w)).nv → vread s (thrKey w) vr.toNat = .ok r → vread s (thrKey w) (vr.toNat + 1) = .ok g →
    vread s (thrKey w) (vr.toNat + 2) = .ok b → vread s (thrKey w) (vr.toNat + 3) = .ok al → Reads w s rs1 a → Reads w s rs2 n →
    batchAt s (thrKey w) a.toNat = some y → (attsOf y.info)[n.toNat]? = some x →
    n.toNat < y.info.cols.length → f ∈ y.frags → f.live = true →
    writtenBefore s (thrKey w / 64) y (2 ^ n.toNat) f = false → exec (.rblend w vr rs1 rs2) s = .next s)

/-- R101, R249, R250, R256: RTEX samples the texture at every lane's coordinates and writes the four channels to v[vr] to v[vr + 3], and no
other vector register; a line that the leaf's texture cache holds answers with the texels it had, and another is read from DRAM and joins
the cache. -/
def Sys2Proof.Claims.TextureSamples : Prop :=
  (∀ (w : Thr) (vr rs1 rs2 : BitVec 5) (s q : State) (a m : Word) (d : List Byte) (u v : List Word) (ls : List (Nat × List Byte)), CanIssue w s →
    vr.toNat + 4 ≤ (getTh s (thrKey w)).nv → Reads w s rs1 a → Reads w s rs2 m → SpReads s (thrKey w / 64) a.toNat 32 d →
    imgOk .texture d = true → m.toNat ≤ bitsOf (field d 7 1) 7 4 → vread s (thrKey w) vr.toNat = .ok u →
    vread s (thrKey w) (vr.toNat + 1) = .ok v → texLines (thrKey w) (linesFor d m u v) s = (.ok q, ls) → getTh q (thrKey w) = getTh s (thrKey w) →
    Runs (.rtex w vr rs1 rs2) s fun t => Steps (thrKey w) s t ∧ MemSame q t ∧ KeepsRegs (thrKey w) q t ∧
      (∀ i < 4, vread t (thrKey w) (vr.toNat + i) = .ok ((u.zip v).map fun c => (sampleLane d m (lineBytes ls) c.1 c.2).getD i 0)) ∧
      ∀ x, (x < vkey q (thrKey w) vr.toNat ∨ vkey q (thrKey w) vr.toNat + 512 ≤ x) → tget t.lv.vregs x = tget q.lv.vregs x) ∧
  (∀ (k n : Nat) (s : State) (x : Nat × List Byte), ((getLeaf s (k / 64)).tex.find? fun y => decide (y.1 = n)) = some x →
    texLine k n s = (.ok s, x.2)) ∧
  (∀ (k n : Nat) (s : State), ((getLeaf s (k / 64)).tex.find? fun y => decide (y.1 = n)) = none → n * 64 < 0x1000000000 →
    Accepted s (leafIni (k / 64)) false (n * 64) 64 → LineGood s (n * 64) →
    ∃ q, texLine k n s = (.ok (texInsert (k / 64) n (memRead s (n * 64) 64) q), memRead s (n * 64) 64) ∧ q.mem.cells = s.mem.cells ∧
      q.lv = s.lv ∧ q.queue = s.queue ∧ q.party = s.party ∧ q.jobs = s.jobs)

/-- The instructions that shade a bin's fragments. -/
def Obligations.FragmentInstructions : Prop := FragmentOrder ∧ TextureSamples

/-- R258, R262: a growth that stays pending for BIN_GROW_US is ended by a mid-pass flush with event 0x8004, which frees the lists; where the
same draw has been flushed before, the job ends. A pre-emption whose leaves have not all stopped within PREEMPT_US is abandoned with event
0x800A, and the stopped threads run on. -/
def Sys2Proof.Claims.GraphicsTimeouts : Prop :=
  (∀ (e : Fin 16) (s : State) (j : Job), jobOf s e.val = some j → (getGfx s e.val).grow = true →
    (getGfx s e.val).growAt + j.gset.growUs * 100 ≤ s.ktime → (getGfx s e.val).flushedIn ≠ (getGfx s e.val).stopDraw + 1 →
    Runs (.binGrowTimeout e) s fun t => (getGfx t e.val).used = 0 ∧ (getGfx t e.val).grow = false ∧ (getGfx t e.val).tris = [] ∧
      (getGfx t e.val).flushedIn = (getGfx s e.val).stopDraw + 1 ∧
      ((getGfx s e.val).tris = [] → t.lv.threads = s.lv.threads ∧ (getGfx t e.val).pass = (getGfx s e.val).pass ∧
        Logs 0x8004 srcAfzan (leBytes 1 e.val ++ leBytes 1 j.party ++ leBytes 2 (getGfx s e.val).pass ++ leBytes 4 0) s t)) ∧
  (∀ (e : Fin 16) (s : State) (j : Job), jobOf s e.val = some j → (getGfx s e.val).grow = true →
    (getGfx s e.val).growAt + j.gset.growUs * 100 ≤ s.ktime → (getGfx s e.val).flushedIn = (getGfx s e.val).stopDraw + 1 →
    RunsThen (.binGrowTimeout e) s settle fun u => jobOf u e.val = none) ∧
  (∀ (e : Fin 16) (s : State) (j : Job), jobOf s e.val = some j → (getGfx s e.val).ask ≠ 0 →
    (getGfx s e.val).askAt + (getGfx s e.val).askUs * 100 ≤ s.ktime →
    Runs (.preemptAbandoned e) s fun t => (getGfx t e.val).ask = 0 ∧
      (∀ k ∈ jobThreads s j, (getTh s k).mode = .preempted → (getTh t k).mode = .running) ∧
      (∀ k, (getTh s k).mode ≠ .preempted → getTh t k = getTh s k) ∧ (tget t.caddy.ring s.caddy.slot).code = 0x800A)

/-- Draws, bins, and the times that a draw may take. -/
def Obligations.DrawsBinsAndTimeouts : Prop := DrawsAndBins ∧ GraphicsTimeouts
/-! ### Transactions and registers on the bus (R9, R10, R31 to R33, R142 to R146, R335 to R342, R358, R542) -/

namespace Sys2Proof.Claims

/-- A wake source takes effect at once: no Park entry is under way, and no hardware Doze holds (R48, R58). -/
abbrev CanWake (s : State) : Prop := s.pw.parking = 0 ∧ s.pw.thermalDoze = false ∧ s.pw.forced = false

end Sys2Proof.Claims

/-- R31, R78, R335 to R342: an accepted read within one good DRAM line returns its bytes, and an accepted write stores them and changes no
other byte; a write answers OK. R32: a refused access answers DENIED, and event 0x4001, or 0x2001 for an address that nothing backs,
from the unit that detected the refusal, names the initiator, the address, the attribute and the direction; nothing else changes (which unit
detects it: DEDUCED, assumption 106). -/
def Sys2Proof.Claims.BusAccessPart : Prop :=
  (∀ (s : State) (x : Access), x.write = false → 1 ≤ x.len → x.addr.toNat % 64 + x.len ≤ 64 → x.addr.toNat < 0x1000000000 →
    fabricUp s = true → Accepted s x.ini false x.addr.toNat x.len → LineGood s x.addr.toNat →
    Runs (.targetAccess x) s fun t => Answers t stOK (memRead s x.addr.toNat x.len) ∧ MemSame s t ∧
      t = { s with mem := t.mem, caddy := t.caddy, resp := t.resp }) ∧
  (∀ (s : State) (x : Access), x.write = true → 1 ≤ x.len → x.data.length = x.len → x.addr.toNat % 64 + x.len ≤ 64 →
    x.addr.toNat < 0x1000000000 → fabricUp s = true → Accepted s x.ini true x.addr.toNat x.len → LineGood s x.addr.toNat →
    Runs (.targetAccess x) s fun t => Answers t stOK [] ∧ memRead t x.addr.toNat x.len = x.data ∧ MemOutside x.addr.toNat x.len s t ∧
      t = { s with mem := t.mem, caddy := t.caddy, resp := t.resp, jobs := t.jobs }) ∧
  (∀ (s : State) (x : Access) (n : Fin 16) (p : Party) (a : Nat) (v : Verdict), x.ini = .core n p → 1 ≤ x.len → x.len ≤ 64 →
    (x.write = true → x.data.length = x.len) → fabricUp s = true → s.boot.resetting = none → fabricAt s x.ini x.addr.toNat = none →
    firstRefused s x.ini (whoOf s x.ini) x.write x.addr.toNat x.len = some (a, v) →
    Runs (.targetAccess x) s fun t => Answers t stDENIED [] ∧
      Logs (if v = .unbacked then 0x2001 else 0x4001) (detector s a)
        (leBytes 2 (0x1000 + n.val) ++ leBytes 6 a ++ leBytes 1 (b2n (bitOf s.world.clusters (n.val / 4))) ++ leBytes 1 (b2n x.write)) s t ∧
      t = { s with caddy := t.caddy, resp := t.resp })

/-- R142, R143, R146: an accepted write of QPT_TAIL or QPT_HEAD moves the pointer, and the entries passed count as pushed or popped, and a queue
post leaves Hush (R57); a write that R143 does not accept leaves the pointers and sets BADPTR. What waited for the queue then moves on. -/
def Obligations.QueuePointerWrites : Prop :=
  (∀ (b : BusAcc) (q : BitVec 18) (v : BitVec 64) (s : State), RegAccess b true (slotBase q.toNat) s →
    (getQ s q.toNat).tail < 2 * (getQ s q.toNat).n → (getQ s q.toNat).pushed.n ≤ statMax →
    RunsThen (.qptTailWrite b q v) s (queueMoved q.toNat) fun u => Answers u stOK [] ∧ MemSame s u ∧ OnlyQ q.toNat s u ∧
      (if (getQ s q.toNat).bound && decide ((getQ s q.toNat).kind = 1) && isSoftware (getQ s q.toNat).prod && (getQ s q.toNat).tailOk v.toNat then
        getQ u q.toNat = { getQ s q.toNat with tail := v.toNat
                                               pushed := (getQ s q.toNat).pushed.add ((getQ s q.toNat).dist (getQ s q.toNat).tail v.toNat)
                                               came := (getQ s q.toNat).came ++ (if (getQ s q.toNat).cons = 5 then
                                                 List.replicate ((getQ s q.toNat).dist (getQ s q.toNat).tail v.toNat) s.ktime else []) } ∧
        (s.pw.st = .hush → CanWake s → u.pw.st = .run) ∧ (s.pw.st ≠ .hush → u.pw = s.pw)
       else getQ u q.toNat = { getQ s q.toNat with badptr := true })) ∧
  (∀ (b : BusAcc) (q : BitVec 18) (v : BitVec 64) (s : State), RegAccess b true (slotBase q.toNat + 8) s →
    (getQ s q.toNat).head < 2 * (getQ s q.toNat).n → (getQ s q.toNat).popped.n ≤ statMax →
    RunsThen (.qptHeadWrite b q v) s (queueMoved q.toNat) fun u => Answers u stOK [] ∧ OnlyQ q.toNat s u ∧
      (if (getQ s q.toNat).bound && isSoftware (getQ s q.toNat).cons && (getQ s q.toNat).headOk v.toNat then
        (getQ u q.toNat).head = v.toNat ∧ (getQ u q.toNat).retire = (if (getQ s q.toNat).kind = 0 then (getQ s q.toNat).retire else v.toNat) ∧
        (getQ u q.toNat).popped = (getQ s q.toNat).popped.add ((getQ s q.toNat).dist (getQ s q.toNat).head v.toNat)
       else getQ u q.toNat = { getQ s q.toNat with badptr := true } ∧ MemSame s u))

/-- R54, R145, R146, R358: DBL_SUBMIT sets the TAIL of the party's SUBMIT queue and leaves Hush, or is refused into DBL_SUBMIT_ERR;
DBL_MBOX rings the mailbox and sets MBOX_BUSY; a read of DBL_NOTIFY returns the oldest notification with its VALID bit and removes it. -/
def Obligations.DoorbellPages : Prop :=
  (∀ (b : BusAcc) (p : Party) (v : BitVec 64) (s : State), RegAccess b true (pageBase p) s →
    (getQ s (v.toNat % 2 ^ 18)).tail < 2 * (getQ s (v.toNat % 2 ^ 18)).n →
    Runs (.dblSubmitWrite b p v) s fun t => Answers t stOK [] ∧ MemSame s t ∧
      (if qOwner s (v.toNat % 2 ^ 18) = some (pidx p) ∧ (getQ s (v.toNat % 2 ^ 18)).bound = true ∧ (getQ s (v.toNat % 2 ^ 18)).kind = 2 ∧
          (getQ s (v.toNat % 2 ^ 18)).tailOk (bitsOf v.toNat 48 32) = true then
        (getQ t (v.toNat % 2 ^ 18)).tail = bitsOf v.toNat 48 32 ∧ (getQ t (v.toNat % 2 ^ 18)).head = (getQ s (v.toNat % 2 ^ 18)).head ∧
        OnlyQ (v.toNat % 2 ^ 18) s t ∧ (s.pw.st = .hush → CanWake s → t.pw.st = .run) ∧ (s.pw.st ≠ .hush → t.pw = s.pw)
       else t.queue = s.queue ∧ t.pw = s.pw ∧ (getParty t (pidx p)).submitErr = true ∧
        (getParty t (pidx p)).errQid = v.toNat % 2 ^ 18 ∧
        (getParty t (pidx p)).errStatus = (if qOwner s (v.toNat % 2 ^ 18) = some (pidx p) then stBAD_ARG else stDENIED))) ∧
  (∀ (b : BusAcc) (p : Party) (v : BitVec 64) (s : State), RegAccess b true (pageBase p + 8) s → v.toNat % 2 = 1 →
    (getParty s (pidx p)).busy = false → (pidx p = 17 ∨ (mboxAddr s (pidx p)).isSome = true) → ¬(pidx p = 16 ∧ s.world.gsClosed = true) →
    (s.pw.st = .doze → ∀ j < 17, (getParty s j).alarm.set = false) →
    Runs (.dblMboxRing b p v) s fun t => Answers t stOK [] ∧
      getParty t (pidx p) = { getParty s (pidx p) with busy := true, rung := true } ∧ (s.pw.st = .hush ∨ s.pw.st = .doze → CanWake s → t.pw.st = .run) ∧
      t.queue = s.queue ∧ t.mem = s.mem ∧ ∀ j, j ≠ pidx p → getParty t j = getParty s j) ∧
  (∀ (b : BusAcc) (p : Party) (s : State), RegAccess b false (pageBase p + 16) s →
    Runs (.dblNotifyRead b p) s fun t =>
      Answers t stOK (leBytes 8 (match (getParty s (pidx p)).notify with | [] => 0 | q :: _ => q + 2 ^ 63)) ∧
      getParty t (pidx p) = { getParty s (pidx p) with notify := (getParty s (pidx p)).notify.drop 1 } ∧
      t = { s with party := t.party, resp := t.resp } ∧ ∀ j, j ≠ pidx p → getParty t j = getParty s j)

/-- R9, R10: a read of QPT_PUSHED or QPT_POPPED returns the count with OVF and clears OVF only; QPT_STAT's BADPTR clears where a 1 is written,
DBL_STATUS's error bits likewise; a read-only register keeps its value, and the error log takes no write. -/
def Sys2Proof.Claims.RegisterKinds : Prop :=
  (∀ (b : BusAcc) (q : BitVec 18) (s : State), RegAccess b false (slotBase q.toNat + 0x28) s →
    Runs (.rcFieldRead b (.qptPushed q)) s fun t =>
      Answers t stOK (leBytes 8 ((getQ s q.toNat).pushed.n + b2n (getQ s q.toNat).pushed.ovf * 2 ^ 63)) ∧ OnlyQ q.toNat s t ∧
      getQ t q.toNat = { getQ s q.toNat with pushed := { n := (getQ s q.toNat).pushed.n, ovf := false } } ∧
      t = { s with queue := t.queue, resp := t.resp }) ∧
  (∀ (b : BusAcc) (q : BitVec 18) (s : State), RegAccess b false (slotBase q.toNat + 0x30) s →
    Runs (.rcFieldRead b (.qptPopped q)) s fun t =>
      Answers t stOK (leBytes 8 ((getQ s q.toNat).popped.n + b2n (getQ s q.toNat).popped.ovf * 2 ^ 63)) ∧ OnlyQ q.toNat s t ∧
      getQ t q.toNat = { getQ s q.toNat with popped := { n := (getQ s q.toNat).popped.n, ovf := false } } ∧
      t = { s with queue := t.queue, resp := t.resp }) ∧
  (∀ (b : BusAcc) (q : BitVec 18) (v : BitVec 64) (s : State), RegAccess b true (slotBase q.toNat + 0x20) s →
    RunsThen (.registerWrite b (.qptStat q) v) s (queueMoved q.toNat) fun u => Answers u stOK [] ∧ OnlyQ q.toNat s u ∧
      getQ u q.toNat = { getQ s q.toNat with badptr := (getQ s q.toNat).badptr && !v.getLsbD 2 } ∧
      u = { s with queue := u.queue, resp := u.resp }) ∧
  (∀ (b : BusAcc) (p : Party) (v : BitVec 64) (s : State), RegAccess b true (pageBase p + 0x18) s →
    Runs (.registerWrite b (.dblStatus p) v) s fun t => Answers t stOK [] ∧
      getParty t (pidx p) = { getParty s (pidx p) with notifyOvf := (getParty s (pidx p)).notifyOvf && !v.getLsbD 0
                                                       submitErr := (getParty s (pidx p)).submitErr && !v.getLsbD 1 } ∧
      t = { s with party := t.party, resp := t.resp }) ∧
  (∀ (b : BusAcc) (p : Party) (v : BitVec 64) (s : State), RegAccess b true (pageBase p + 0x20) s →
    Runs (.registerWrite b (.dblReadOnly p 0x20) v) s fun t => t = { s with resp := t.resp } ∧ Answers t stOK []) ∧
  (∀ (b : BusAcc) (n : Fin 16) (p : Party) (v : BitVec 64) (s : State), b.ini = .core n p → b.size = 8 → b.off % 8 = 0 → fabricUp s = true →
    s.boot.resetting = none → fabricAt s (.core n p) 0x2300000008 = none →
    Runs (.registerWrite b (.brgLog 8) v) s fun t => Answers t stDENIED [] ∧ t = { s with caddy := t.caddy, resp := t.resp } ∧
      (tget t.caddy.ring s.caddy.slot).code = 0x4001)

/-- Accesses on the bus, and the kinds of registers. -/
def Obligations.BusAccess : Prop := BusAccessPart ∧ RegisterKinds
/-! ### Leaf recovery (R97, R99, R102 to R104, R239, R240, R407) -/

/-- R102: a leaf that answers its heartbeat has missed none; one that misses writes event 0x1005; a second consecutive miss fences it. -/
def Sys2Proof.Claims.Heartbeats : Prop :=
  ∀ (leaf : Fin 168) (s : State), (getLeaf s leaf.val).kind = .enabled → s.firm.act ≠ .open_ → s.pw.st = .run →
    Runs (.leafHeartbeat leaf true) s (fun t => getLeaf t leaf.val = { getLeaf s leaf.val with misses := 0 } ∧ OnlyLeafRec leaf.val s t ∧
      LvOnly s t ∧ t.caddy = s.caddy) ∧
    ((getLeaf s leaf.val).misses = 0 → Runs (.leafHeartbeat leaf false) s fun t =>
      getLeaf t leaf.val = { getLeaf s leaf.val with misses := 1 } ∧ OnlyLeafRec leaf.val s t ∧ LvOnly s t ∧
      Logs 0x1005 srcAfzan (leBytes 2 leaf.val ++ leBytes 1 1) s t) ∧
    (1 ≤ (getLeaf s leaf.val).misses → estOf s leaf.val = none → RunsThen (.leafHeartbeat leaf false) s settle fun u =>
      (getLeaf u leaf.val).kind = .fenced ∧ tget u.boot.map leaf.val = 3 ∧ (∀ i < 64, getTh u (leaf.val * 64 + i) = {}) ∧
      ∀ i < 4096, tget u.lv.vregs (leaf.val * 4096 + i) = 0)

/-- R97, R99: 100 µs after the mark a closing segment with writes outstanding takes no more; with none outstanding it is off, its contents are
lost and event 0x1008 gives the masks; a zeroed segment is on. R104, R239: the end of a recovery writes event 0xA046 and its estate takes jobs
again. R407: a localisation that finds a leaf writes event 0x3008 and fences it; one that finds none writes it with 0xFFFF and ends the
job. -/
def Sys2Proof.Claims.SegmentsAndRecovery : Prop :=
  (∀ (leaf : Fin 168) (seg : Fin 8) (s : State), tget (getLeaf s leaf.val).segs seg.val = .closing →
    tget (getLeaf s leaf.val).closeAt seg.val + 10000 ≤ s.ktime → segWrites s leaf.val seg.val ≠ 0 →
    Runs (.segmentCloseTimeout leaf seg) s fun t => tget (getLeaf t leaf.val).segs seg.val = .refusing ∧
      (∀ k, k ≠ seg.val → tget (getLeaf t leaf.val).segs k = tget (getLeaf s leaf.val).segs k) ∧
      getLeaf t leaf.val = { getLeaf s leaf.val with segs := (getLeaf t leaf.val).segs } ∧ OnlyLeafRec leaf.val s t ∧ LvOnly s t) ∧
  (∀ (leaf : Fin 168) (seg : Fin 8) (s : State),
    (tget (getLeaf s leaf.val).segs seg.val = .closing ∨ tget (getLeaf s leaf.val).segs seg.val = .refusing) →
    segWrites s leaf.val seg.val = 0 → Runs (.segmentOff leaf seg) s fun t => tget (getLeaf t leaf.val).segs seg.val = .off ∧
      (∀ k, k ≠ seg.val → tget (getLeaf t leaf.val).segs k = tget (getLeaf s leaf.val).segs k) ∧
      (∀ i < 0x40000, tget t.mem.cells (spBase leaf.val + seg.val * 0x40000 + i) = 0) ∧
      MemOutside (spBase leaf.val + seg.val * 0x40000) 0x40000 s t ∧ OnlyLeafRec leaf.val s t ∧
      Logs 0x1008 leaf.val (leBytes 2 leaf.val ++ leBytes 1 (segMask s leaf.val) ++ leBytes 1 (segMask s leaf.val - 2 ^ seg.val)) s t) ∧
  (∀ (leaf : Fin 168) (seg : Fin 8) (s : State), tget (getLeaf s leaf.val).segs seg.val = .zeroing →
    Runs (.segmentZeroed leaf seg) s fun t => tget (getLeaf t leaf.val).segs seg.val = .on ∧
      (∀ k, k ≠ seg.val → tget (getLeaf t leaf.val).segs k = tget (getLeaf s leaf.val).segs k) ∧
      getLeaf t leaf.val = { getLeaf s leaf.val with segs := (getLeaf t leaf.val).segs } ∧ OnlyLeafRec leaf.val s t ∧ LvOnly s t) ∧
  (∀ (s : State) (e : Nat), s.jobs.recovery = e + 1 → s.firm.act ≠ .open_ → localising s = none → s.safe.halted = false →
    recoveringEsts s = [e] → (∀ x j, (getEst s x).replay = some j → e ∉ jobEsts x j) → (getEst s e).switchBack = false → s.jobs.heldQ = [] →
    RunsThen .recoveryEnd s settle fun u => u.jobs.recovery = 0 ∧ getEst u e = { getEst s e with recovering := false } ∧
      Logs 0xA046 srcAfzan (leBytes 1 e ++ leBytes 4 ((s.ktime - s.jobs.recAt) / 100) ++ leBytes 1 0) s u ∧ u.lv = s.lv ∧ MemSame s u ∧
      ∀ x, x ≠ e → getEst u x = getEst s x) ∧
  (∀ (s : State) (p trig : Nat), localising s = some (p, trig) → s.firm.act ≠ .open_ → s.safe.halted = false → s.jobs.heldQ = [] →
    recoveringEsts s = [p] →
    RunsThen (.goldenFrameDone []) s settle fun u => jobOf u p = none ∧ u.jobs.recovery = 0 ∧ (getEst u p).recovering = false ∧
      (∀ x ∈ u.jobs.localise, x.1 ≠ p) ∧ Logs 0x3008 srcAfzan (leBytes 1 p ++ leBytes 2 0xFFFF ++ leBytes 1 trig) s u) ∧
  (∀ (s : State) (p trig : Nat) (l : Fin 168), localising s = some (p, trig) → s.firm.act ≠ .open_ → s.safe.halted = false →
    l.val ∈ (getEst s p).leaves → (∀ j, jobOf s p = some j → j.copy = 0) →
    RunsThen (.goldenFrameDone [l]) s settle fun u => (getLeaf u l.val).kind = .fenced ∧ u.jobs.recovery = p + 1 ∧
      (∀ x ∈ u.jobs.localise, x.1 ≠ p) ∧ Logs 0x3008 srcAfzan (leBytes 1 p ++ leBytes 2 l.val ++ leBytes 1 trig) s u)

/-- Heartbeats, segments and recovery. -/
def Obligations.HeartbeatsAndRecovery : Prop := Heartbeats ∧ SegmentsAndRecovery

/-! ### Records, jobs and Pour (R159 to R166, R221 to R224, R227, R231, R233, R386 to R389, R398, R544) -/

namespace Sys2Proof.Claims

/-- The SUBMIT queue with its head record taken. -/
def afterTake (q : Nat) (s : State) : State := popEntry q (modQ s q fun x => { x with ann := x.ann.drop 1 })

/-- A record of SUBMIT queue `q` of party `p` can be taken: the Kettle admits, the queue is bound and not empty, no record of it waits, and
the party is not frozen (R221, R242). -/
abbrev CanTake (q p : Nat) (s : State) : Prop :=
  qOwner s q = some p ∧ admitting s = true ∧ (getQ s q).bound = true ∧ (getQ s q).kind = 2 ∧ (getQ s q).len ≠ 0 ∧
  (∀ w ∈ s.jobs.waiting, w.qid ≠ q) ∧ (getParty s p).frozen = 0

/-- The one instance `x` of a job on estate `e` has its image on leaf `l`, and its threads run from the entry with their first registers
set (R386, R389, R544). -/
def Loaded (e l : Nat) (j : Job) (x : Inst) (s t : State) : Prop :=
  memRead t (spBase l + x.region) (sImage (jobImg s j) x.station).length = sImage (jobImg s j) x.station ∧
  (getLeaf t l).image = imageMark j.party (recHandle j.record) (getEst s e).leaves.length ∧
  (∃ k, jobOf t e = some k ∧ k.phase = .running ∧ k.record = j.record ∧ k.loading = []) ∧
  ∀ i < sThreads (jobImg s j) x.station,
    (getTh t (l * 64 + x.first + i)).mode = .running ∧ (getTh t (l * 64 + x.first + i)).pc = x.region + sEntry (jobImg s j) x.station ∧
    tget (getTh t (l * 64 + x.first + i)).regs 1 = BitVec.ofNat 32 i ∧ tget (getTh t (l * 64 + x.first + i)).regs 2 = BitVec.ofNat 32 x.inst ∧
    tget (getTh t (l * 64 + x.first + i)).regs 3 = BitVec.ofNat 32 x.region ∧
    tget (getTh t (l * 64 + x.first + i)).regs 4 = BitVec.ofNat 32 (x.region + argOff (jobImg s j) x.station) ∧
    (getTh t (l * 64 + x.first + i)).nv = sVregs (jobImg s j) x.station

/-- Estate `e` is pouring a job of one instance, on leaf `l`, which alone still loads; its template's copy is open to Pour, and no
fabric unit has an error. -/
abbrev Pouring (e l : Nat) (j : Job) (x : Inst) (s : State) : Prop :=
  jobOf s e = some j ∧ j.phase = .pouring ∧ j.loading = [l] ∧ j.insts = [x] ∧ x.leaf = l ∧ x.region < 0x200000 ∧ j.saved = [] ∧ j.resumed = false ∧
  estOf s l = some e ∧ pourRefused s j = none ∧ s.mem.fabricErr = []

end Sys2Proof.Claims

/-- R163, R221, R222: taking a record pops it. A record whose completion queue is no COMPLETE queue of its party is discarded into
DBL_SUBMIT_ERR; one that fails a check completes with the check's status; any other waits for an estate, where some estate of its class and
size whose grant holds it is not held. JOB_START: a record that waits, whose turn it is, starts to switch on the estate that R222 picks,
and waits no longer. -/
def Sys2Proof.Claims.TakingRecords : Prop :=
  (∀ (q : BitVec 18) (s : State) (p : Nat), CanTake q.toNat p s → cqOk (afterTake q.toNat s) p (headEntry s q.toNat) = false →
    Runs (.recordTake q) s fun t => Popped q.toNat s t ∧ t.jobs = s.jobs ∧ MemSame s t ∧
      getParty t p = { getParty s p with submitErr := true, errQid := q.toNat, errStatus := stBAD_ARG } ∧
      ∀ j, j ≠ p → getParty t j = getParty s j) ∧
  (∀ (q : BitVec 18) (s : State) (p st : Nat), CanTake q.toNat p s → cqOk (afterTake q.toNat s) p (headEntry s q.toNat) = true →
    recBad (afterTake q.toNat s) p q.toNat (headEntry s q.toNat) = some st →
    Runs (.recordTake q) s fun t =>
      t = complete (recCq (headEntry s q.toNat)) (compRec (recTag (headEntry s q.toNat)) st 0 0xFF 0 0 0 0) (afterTake q.toNat s)) ∧
  (∀ (q : BitVec 18) (s : State) (p : Nat) (tm : Tmpl), CanTake q.toNat p s → cqOk (afterTake q.toNat s) p (headEntry s q.toNat) = true →
    recBad (afterTake q.toNat s) p q.toNat (headEntry s q.toNat) = none →
    tmplOf (afterTake q.toNat s) p (recHandle (headEntry s q.toNat)) = some tm →
    (∃ e ∈ candidates (afterTake q.toNat s) p (queueBe s q.toNat) (recDual (headEntry s q.toNat)) tm.image,
      grantHolds (afterTake q.toNat s) p e (if recDual (headEntry s q.toNat) then 2 else 1) tm.image = true) →
    (∃ e ∈ candidates (afterTake q.toNat s) p (queueBe s q.toNat) (recDual (headEntry s q.toNat)) tm.image,
      (getEst s e).held = false) →
    Runs (.recordTake q) s fun t => Popped q.toNat s t ∧ MemSame s t ∧ t.lv = s.lv ∧
      ∃ w : WaitRec, t.jobs = { s.jobs with waiting := s.jobs.waiting ++ [w], serial := s.jobs.serial + 1 } ∧ w.qid = q.toNat ∧
        w.party = p ∧ w.record = headEntry s q.toNat ∧ w.takenAt = s.ktime ∧ w.be = queueBe s q.toNat ∧ w.serial = s.jobs.serial ∧
        w.args = readArgs s (headEntry s q.toNat)) ∧
  (∀ (q : BitVec 18) (s : State) (w : WaitRec) (e : Nat) (a : List Inst × List Nat × List Nat),
    s.jobs.waiting.find? (fun x => decide (x.qid = q.toNat)) = some w → admitting s = true → cqOk s w.party w.record = true →
    cqFree s w = true → (getParty s w.party).frozen = 0 → isTurn s w (ownStart s) = true → ownPick s w = some e →
    ((candidates s w.party w.be (recDual w.record) (recImg s w)).all fun x => (getEst s x).held) = false →
    recDual w.record = false → allocFor s w.party e (getEst s e).desc.cg (recImg s w) = some a →
    Runs (.jobStart q) s fun t => (∀ x ∈ t.jobs.waiting, x.serial ≠ w.serial) ∧
      ∃ j, jobOf t e = some j ∧ j.phase = .switching ∧ j.record = w.record ∧ j.party = w.party ∧ j.lent = false ∧ j.insts = a.1 ∧
        j.queues = a.2.1 ∧ j.qid = w.qid)

/-- R233, R386 to R389, R544: when a switch ends, the argument block lies at its place and Pour begins, with the next image identifier; a
leaf that missed nothing, one whose pulls have all returned, and one whose reload ends good hold their image, and with the last of them
every thread starts. A failed attempt counts one more and reloads, with event 0xA011; a DATA_ERROR ends the job. -/
def Sys2Proof.Claims.SwitchAndPour : Prop :=
  (∀ (e : Fin 16) (s : State) (j : Job) (x : Inst), jobOf s e.val = some j → j.phase = .switching → s.pw.st = .run →
    s.pw.pllLost = false → j.copy = 0 → j.insts = [x] → j.saved = [] → j.resumed = false →
    Runs (.estateSwitchDone e) s fun t =>
      memRead t (spBase x.leaf + x.region + argOff (jobImg s j) x.station) (argBlock j).length = argBlock j ∧
      t.jobs.imageId = (s.jobs.imageId + 1) % 2 ^ 32 ∧
      ∃ k, jobOf t e.val = some k ∧ (k.phase = .pouring ∨ k.phase = .running) ∧ k.record = j.record ∧ k.image = s.jobs.imageId) ∧
  (∀ (e : Fin 16) (missed : List (Fin 168 × List Nat)) (s : State) (l : Nat) (j : Job) (x : Inst), Pouring e.val l j x s →
    (getLeaf s l).attempt = 1 → (getLeaf s l).missed = [] → (getLeaf s l).missedN = 0 → (∀ m ∈ missed, m.1.val = l → m.2 = []) →
    Runs (.pourBroadcastEnd e missed) s fun t => Loaded e.val l j x s t) ∧
  (∀ (leaf : Fin 168) (s : State) (e : Nat) (j : Job) (x : Inst) (n : Nat), Pouring e leaf.val j x s → (getLeaf s leaf.val).missed = [n] →
    Runs (.pourPullDone leaf .good) s fun t => Loaded e leaf.val j x s t ∧
      Logs 0xA010 srcAfzan (leBytes 2 leaf.val ++ leBytes 4 j.image ++ leBytes 2 (getLeaf s leaf.val).missedN) s t) ∧
  (∀ (leaf : Fin 168) (s : State) (e : Nat) (j : Job) (x : Inst) (n m : Nat) (r : List Nat), Pouring e leaf.val j x s →
    (getLeaf s leaf.val).missed = n :: m :: r →
    Runs (.pourPullDone leaf .good) s fun t => getLeaf t leaf.val = { getLeaf s leaf.val with missed := m :: r } ∧
      OnlyLeafRec leaf.val s t ∧ LvOnly s t) ∧
  (∀ (leaf : Fin 168) (s : State) (e : Nat) (j : Job) (x : Inst), Pouring e leaf.val j x s → (getLeaf s leaf.val).missed = [] →
    (getLeaf s leaf.val).missedN ≠ 0 → Runs (.pourReloadDone leaf .good) s fun t => Loaded e leaf.val j x s t) ∧
  (∀ (leaf : Fin 168) (s : State) (e : Nat) (j : Job) (x : Inst), Pouring e leaf.val j x s → (getLeaf s leaf.val).missed = [] →
    (getLeaf s leaf.val).missedN ≠ 0 → (getLeaf s leaf.val).attempt < 3 →
    Runs (.pourReloadDone leaf .crcFail) s fun t =>
      (getLeaf t leaf.val).attempt = (getLeaf s leaf.val).attempt + 1 ∧ OnlyLeafRec leaf.val s t ∧ LvOnly s t ∧
      Logs 0xA011 srcAfzan (leBytes 2 leaf.val ++ leBytes 4 j.image ++ leBytes 1 ((getLeaf s leaf.val).attempt + 1) ++
        leBytes 2 (getLeaf s leaf.val).missedN) s t) ∧
  (∀ (leaf : Fin 168) (s : State) (e : Nat) (j : Job) (x : Inst), Pouring e leaf.val j x s → (getLeaf s leaf.val).missed ≠ [] →
    RunsThen (.pourPullDone leaf .dataError) s settle fun u => jobOf u e = none)

/-- Taking a job record, the switch and the Pour. -/
def Obligations.RecordsSwitchAndPour : Prop := TakingRecords ∧ SwitchAndPour

/-- R165, R227, R231: a job without progress for STALL_US writes event 0xA040 and ends; a job of its own party that reaches its declared
length writes event 0xA042 once and goes on; a lent job at 1.1 times its length writes event 0xA041 and ends. -/
def Obligations.RunLimits : Prop :=
  (∀ (e : Fin 16) (s : State) (j : Job), jobOf s e.val = some j → (j.phase = .running ∨ j.phase = .pouring) →
    (∀ k ∈ jobThreads s j, (getTh s k).mode ≠ .taster) →
    s.firm.act ≠ .open_ → j.progress + tStallUs (jobImg s j) * 100 ≤ s.ktime →
    RunsThen (.jobStalled e) s settle fun u => jobOf u e.val = none ∧
      Logs 0xA040 srcAfzan (leBytes 1 e.val ++ leBytes 2 (recHandle j.record) ++ leBytes 4 (recTag j.record)) s u) ∧
  (∀ (e : Fin 16) (s : State) (j : Job), jobOf s e.val = some j → j.lent = false → j.overrun = false → j.durTclk ≤ j.runTclk →
    Runs (.durationOverrun e) s fun t => jobOf t e.val = some { j with overrun := true } ∧
      Logs 0xA042 srcAfzan (leBytes 1 e.val ++ leBytes 1 j.party ++ leBytes 2 (recHandle j.record) ++ leBytes 4 (j.durTclk * j.div / 13200)) s t ∧
      t = { s with caddy := t.caddy, jobs := { s.jobs with est := t.jobs.est } } ∧ ∀ x, x ≠ e.val → getEst t x = getEst s x) ∧
  (∀ (e : Fin 16) (s : State) (j : Job), jobOf s e.val = some j → (j.lent = true ∨ j.overrun = true ∨ j.runTclk < j.durTclk) →
    Runs (.durationOverrun e) s fun t => t = s) ∧
  (∀ (e : Fin 16) (s : State) (j : Job), jobOf s e.val = some j → (j.lent = false ∨ 10 * j.runTclk < 11 * j.durTclk) →
    Runs (.lendKill e) s fun t => t = s) ∧
  (∀ (e : Fin 16) (s : State) (j : Job), jobOf s e.val = some j → j.lent = true → 11 * j.durTclk ≤ 10 * j.runTclk →
    RunsThen (.lendKill e) s settle fun u => jobOf u e.val = none ∧ (getEst u e.val).lentBy = none ∧
      Logs 0xA041 srcAfzan (leBytes 1 e.val ++ leBytes 1 (getEst s e.val).party ++ leBytes 1 j.party ++ leBytes 2 (recHandle j.record) ++
        leBytes 4 (recTag j.record)) s u)
/-! ### Pairs, wakes, flushes, clocks, power and temperature (R38 to R50, R54 to R58, R406, R407, R519) -/

/-- R406, R407: a checkpoint whose twin has not come within WINDOW_US writes event 0x3003 and counts as a mismatch, and the pair is localised: its job stops
and its estates are in recovery. R56: with DRAM zeroed, grants that waited for it move on. R519: the flush ends with every record of the ring
flushed, and CADDY_FLUSH is answered. -/
def Sys2Proof.Claims.PairMissZeroingFlush : Prop :=
  (∀ (e : Fin 16) (s : State) (p : Pair) (r : TstReport) (j : Job), pairOf s e.val = some p →
    s.jobs.reports.find? (fun x => decide (x.primary = p.primary ∧ x.at_ + p.window * 100 ≤ s.ktime)) = some r →
    jobOf s p.primary = some j → s.jobs.recovery = 0 →
    Runs (.pairWindowMiss e) s fun t => Logs 0x3003 srcTaster (leBytes 1 p.primary ++ leBytes 1 (r.copy - 1) ++ keyArgs r) s t ∧
      t.jobs.mismatches = s.jobs.mismatches.add 1 ∧ t.jobs.localise = s.jobs.localise ++ [(p.primary, 1)] ∧ t.jobs.recovery = p.primary + 1 ∧ (getEst t p.primary).recovering = true ∧
      MemSame s t ∧ ∃ k, jobOf t p.primary = some k ∧ k.phase = .stopped ∧ k.record = j.record) ∧
  (∀ (s : State), s.mem.unzeroed = true → fabricUp s = true →
    RunsThen .dramZeroingDone s settle fun u => u = { s with mem := { s.mem with unzeroed := false } }) ∧
  (∀ (s : State), s.caddy.flushing = true → s.pw.parking = 0 → s.pw.dozing = 0 → s.caddy.flashAt < 524288 →
    ∃ u, exec .immediateFlushDone s =
        .next (finishAll s.caddy.flushPend (okWith (caddyStatus u)) (if s.caddy.flushPend = [] then u else caddyRead u)) ∧ u = { s with caddy := u.caddy } ∧
      u.caddy.unflushed = s.caddy.next ∧ u.caddy.flushing = false ∧ u.caddy.flushPend = [] ∧ u.caddy.lastFlush = s.ktime ∧
      u.caddy.ring = s.caddy.ring ∧ u.caddy.next = s.caddy.next ∧
      u.caddy.flashAt = (s.caddy.flashAt + (s.caddy.ring.filter fun e => s.caddy.isUnflushed e.2).length) % 524288)

/-- R54: 1 ms without work leads to Hush at 0.55 V, with event 0x7005, or to Doze where the votes allow it, with every scratchpad off. R57:
a wake source leads back to Run: out of Hush with event 0x7007, the leaf clocks waiting for VDD_LEAF (R44), out of a voted Doze, and out of
Rest; after Doze and Rest the alarms whose time fell there then fire (R377). R48: where a hardware Doze has begun, the end of its flush
gates the estates. -/
def Sys2Proof.Claims.HushDozeWake : Prop :=
  (∀ (s : State), awake s = true → s.pw.st = .run → anyWork s = false → s.pw.pllLost = false → s.firm.act = .none → s.pw.parking = 0 →
    s.pw.dozing = 0 → s.boot.resetting = none → 100000 ≤ ktSince s s.jobs.idleSince →
    ((voteLevel s).1 < 2 → Runs .hushEntry s fun t => t.pw = { s.pw with st := .hush, vdd := 550, vddTarget := 550, divNext := 0 } ∧
      PwOnly s t ∧ Logs 0x7005 srcAfzan (leBytes 1 0 ++ leBytes 1 1 ++ leBytes 1 0xFF) s t) ∧
    ((voteLevel s).1 = 2 → s.pw.thermalDoze = false → s.pw.forced = false → Runs .hushEntry s fun t => t.pw.st = .doze ∧
      ∀ l < 168, (getLeaf s l).kind = .enabled → ∀ k < 8, tget (getLeaf t l).segs k = .off)) ∧
  (∀ (cls : Fin 10) (inst : BitVec 16) (s : State), s.pw.st = .hush → s.pw.thermalDoze = false → s.pw.forced = false → s.pw.parking = 0 →
    Runs (.wake cls inst) s fun t => t.pw = { s.pw with st := .run, vddWait := true, divNext := 0, vddTarget := fusedMv 16 } ∧ PwOnly s t ∧
      Logs 0x7007 srcKeep (leBytes 1 cls.val ++ leBytes 2 inst.toNat) s t) ∧
  (∀ (cls : Fin 10) (inst : BitVec 16) (s : State), s.pw.st = .doze → cls ≠ 0 → s.pw.thermalDoze = false → s.pw.forced = false →
    s.pw.parking = 0 → RunsThen (.wake cls inst) s lateAlarms fun u => u.pw = { s.pw with st := .run } ∧ PwOnly s u ∧
      Logs 0x7007 srcKeep (leBytes 1 cls.val ++ leBytes 2 inst.toNat) s u) ∧
  (∀ (cls : Fin 10) (inst : BitVec 16) (s : State), s.pw.st = .rest → (cls = 9 ∨ cls = 2) →
    RunsThen (.wake cls inst) s lateAlarms fun u => u.pw.st = .run ∧
      Logs 0x7007 srcKeep (leBytes 1 cls.val ++ leBytes 2 inst.toNat) s u) ∧
  (∀ (inst : BitVec 16) (s : State), s.pw.st = .rest → bitOf s.field.wakeEn (inst.toNat % 24) = false →
    Runs (.wake 8 inst) s fun t => t.field = { s.field with wake := s.field.wake ||| 2 ^ (inst.toNat % 24) } ∧ t.pw.st = .rest) ∧
  (∀ (s : State), s.caddy.flushing = true → s.pw.dozing ≠ 0 → s.pw.st ≠ .doze → s.pw.st ≠ .hush → s.caddy.flushPend = [] →
    RunsThen .immediateFlushDone s settle fun u => u.pw = { s.pw with st := .doze, dozing := 0 } ∧ u.caddy.unflushed = s.caddy.next ∧
      ∀ l < 168, (getLeaf s l).kind = .enabled → ∀ k < 8, tget (getLeaf u l).segs k = .off)

/-- Power states, and what waits for zeroing, a twin or a flush. -/
def Obligations.PowerStatesAndFlush : Prop := PairMissZeroingFlush ∧ HushDozeWake

/-- R38: an unlocked PLL asserts FAULT_N with its cause and freezes the Caddy. R45: the fast limiter goes to /16 with event 0x7001. R46: a
window above the cap moves power_step one step down, and the tenth in a row below 95 % of it one step up; the divider then follows. R41, R44: when VDD_LEAF reaches its setting, a faster divider that waited takes effect, and after Hush
the leaf clocks restart at /16. -/
def Sys2Proof.Claims.CurrentAndPowerLimits : Prop :=
  (∀ (n : BitVec 32) (s : State), s.pw.pllLost = false → s.pw.supplied = true → s.pw.st ≠ .rest → s.pw.st ≠ .park →
    Runs (.pllUnlock n) s fun t => t.pw = { s.pw with pllLost := true } ∧ bitOf t.safe.causes 2 = true ∧ t.caddy.frozen = true ∧
      t.caddy.flushing = true ∧ PwOnly s t ∧ Logs 0x3006 0x2000 (leBytes 1 t.safe.causes ++ leBytes 1 2) s t ∧
      LogsNth 1 0x7008 srcKeep (leBytes 4 n.toNat) s t) ∧
  (∀ (s : State), s.pw.fast = false → clocked s = true → s.pw.div ≤ 16 →
    Runs .fastCurrentLimit s fun t => t.pw = { s.pw with fast := true, div := 16, divNext := 0, vddTarget := fusedMv 16 } ∧ PwOnly s t ∧
      Logs 0x7001 srcKeep (leBytes 1 (effDiv s) ++ leBytes 1 16 ++ leBytes 2 0xFFFF ++ leBytes 1 1) s t) ∧
  (∀ (dw : Nat) (s : State), s.pw.supplied = true → s.pw.st ≠ .rest → s.pw.st ≠ .park → s.pw.fast = false → capDw s < dw →
    max s.pw.powerStep (max s.part.floor (requestedDiv s)) < 16 →
    RunsThen (.powerLimitWindow dw) s settleDiv fun u => PwOnly s u ∧
      u.pw = { s.pw with lowWindows := 0, powerStep := stepDown (max s.pw.powerStep (max s.part.floor (requestedDiv s))) } ∧
      Logs 0x7001 srcKeep (leBytes 1 (max s.pw.powerStep (max s.part.floor (requestedDiv s))) ++ leBytes 1 u.pw.powerStep ++
        leBytes 2 (min dw 0xFFFE) ++ leBytes 1 0) s u) ∧
  (∀ (dw : Nat) (s : State), s.pw.supplied = true → s.pw.st ≠ .rest → s.pw.st ≠ .park → s.pw.fast = false → 100 * dw < 95 * capDw s →
    s.pw.lowWindows < 9 →
    RunsThen (.powerLimitWindow dw) s settleDiv fun u => u = { s with pw := { s.pw with lowWindows := s.pw.lowWindows + 1 } }) ∧
  (∀ (dw : Nat) (s : State), s.pw.supplied = true → s.pw.st ≠ .rest → s.pw.st ≠ .park → s.pw.fast = false → 100 * dw < 95 * capDw s →
    9 ≤ s.pw.lowWindows → max s.part.floor (requestedDiv s) ≤ stepUp s.pw.powerStep → stepUp s.pw.powerStep < s.pw.powerStep →
    RunsThen (.powerLimitWindow dw) s settleDiv fun u => PwOnly s u ∧ u.pw = { s.pw with lowWindows := 0, powerStep := stepUp s.pw.powerStep }) ∧
  (∀ (dw : Nat) (s : State), s.pw.supplied = true → s.pw.st ≠ .rest → s.pw.st ≠ .park → s.pw.fast = true →
    Runs (.powerLimitWindow dw) s fun t => t.pw.fast = false ∧ PwOnly s t) ∧
  (∀ (mv : Nat) (s : State), clocked s = true →
    Runs (.voltageTrimCycle mv) s fun t => 650 ≤ t.pw.vddTarget ∧ t.pw.vddTarget ≤ 850 ∧ t.pw.vddTarget % 5 = 0 ∧
      t.pw = { s.pw with vddTarget := t.pw.vddTarget } ∧ PwOnly s t ∧
      (s.pw.trim.getD (tclkSteps.idxOf s.pw.div) 0 = 0 → 650 ≤ mv → mv ≤ 850 → t.pw.vddTarget = mv / 5 * 5 ∧ t.caddy = s.caddy)) ∧
  (∀ (s : State), s.pw.supplied = true → s.pw.vddWait = false → s.pw.divNext = 0 →
    Runs .vddLeafReachesSetting s fun t => t = { s with pw := { s.pw with vdd := s.pw.vddTarget } }) ∧
  (∀ (s : State), s.pw.supplied = true → s.pw.vddWait = true → s.pw.st ≠ .hush →
    RunsThen .vddLeafReachesSetting s settleDiv fun u =>
      u = { s with pw := { s.pw with vdd := s.pw.vddTarget, div := 16, divNext := 0, vddWait := false } }) ∧
  (∀ (s : State), s.pw.supplied = true → s.pw.vddWait = false → s.pw.divNext ≠ 0 → s.pw.st = .run →
    RunsThen .vddLeafReachesSetting s settleDiv fun u =>
      u = { s with pw := { s.pw with vdd := s.pw.vddTarget, div := s.pw.divNext, divNext := 0 } })

/-- R47, R50: at the threshold, and each ms that it stays there, thermal_step goes one step down, with event 0x7002; below it less 5 °C for
10 ms it goes one step up. R48: at 125 °C every job ends and the Caddy is flushed before Doze; 1 s at 105 °C or less ends it with thermal_step at /16. R49: 130 °C
takes the supplies away, and 10 s later a wake source starts bring-up. -/
def Sys2Proof.Claims.ThermalLimits : Prop :=
  (∀ (n : Fin 28) (deci : Int) (s : State), s.pw.supplied = true → s.pw.st ≠ .rest → s.pw.st ≠ .park → Int.ofNat (10 * throttleC s) ≤ deci →
    (∀ t, s.pw.hotSince = some t → 100000 ≤ ktSince s t) → max s.pw.thermalStep s.part.floor < 16 →
    RunsThen (.thermalThrottle n deci) s settleDiv fun u => PwOnly s u ∧
      u.pw.thermalStep = stepDown (max s.pw.thermalStep s.part.floor) ∧ u.pw.hotSince = some s.ktime ∧
      u.pw = { s.pw with thermalStep := u.pw.thermalStep, hotSince := u.pw.hotSince, coolSince := u.pw.coolSince } ∧
      Logs 0x7002 srcKeep (leBytes 1 (max s.pw.thermalStep s.part.floor) ++ leBytes 1 u.pw.thermalStep ++ leBytes 1 n.val ++
        leBytes 2 (codeOf 16 deci)) s u) ∧
  (∀ (n : Fin 28) (deci : Int) (s : State) (t0 : Nat), s.pw.hotSince = some t0 → ktSince s t0 < 100000 → Int.ofNat (10 * throttleC s) ≤ deci →
    exec (.thermalThrottle n deci) s = .next s) ∧
  (∀ (n : Fin 28) (deci : Int) (s : State) (t0 : Nat), s.pw.supplied = true → s.pw.st ≠ .rest → s.pw.st ≠ .park →
    deci < Int.ofNat (10 * throttleC s) - 50 → s.pw.coolSince = some t0 → 1000000 ≤ ktSince s t0 → otherDiv s < s.pw.thermalStep →
    RunsThen (.thermalThrottle n deci) s settleDiv fun u => PwOnly s u ∧
      u.pw = { s.pw with thermalStep := stepUp s.pw.thermalStep, hotSince := none, coolSince := some s.ktime } ∧
      Logs 0x7002 srcKeep (leBytes 1 s.pw.thermalStep ++ leBytes 1 u.pw.thermalStep ++ leBytes 1 n.val ++ leBytes 2 (codeOf 16 deci)) s u) ∧
  (∀ (n : Fin 28) (deci : Int) (s : State), 1250 ≤ deci → s.pw.thermalDoze = false → awake s = true →
    RunsThen (.thermalDoze n deci) s settle fun u => u.pw = { s.pw with thermalDoze := true, dozing := 0x100, parking := 0, woken := none } ∧
      u.caddy.flushing = true ∧ ∀ e < 16, (getEst s e).live = true → (getEst s e).halted = false → jobOf u e = none) ∧
  (∀ (deci : Int) (s : State), s.pw.thermalDoze = true → s.pw.dozing = 0 → deci ≤ 1050 →
    RunsThen (.thermalDozeExit deci) s (if s.pw.forced then id else lateAlarms) fun u => u.pw.thermalDoze = false ∧ u.pw.thermalStep = 16 ∧
      PwOnly s u ∧ u.pw.st = (if s.pw.forced then s.pw.st else .run)) ∧
  (∀ (s : State), s.pw.supplied = true →
    Runs .thermalTrip s fun t => t.pw.trip = true ∧ t.pw.supplied = false ∧ t.boot.phase = 1 ∧ t.queue = [] ∧ t.jobs = {} ∧
      field (tget t.field.log s.field.logNext) 10 1 = (if s.field.linkUp then 4 else 5)) ∧
  (∀ (s : State), s.boot.phase = 1 → s.field.wake &&& s.field.wakeEn ≠ 0 →
    Runs .tripRestart s fun t => t.boot = { s.boot with phase := 2, kind := 0 } ∧ t.pw = { s.pw with trip := false } ∧
      t.caddy = s.caddy ∧ t.mem = s.mem)

/-- The limits on current, power and temperature. -/
def Obligations.PowerAndThermalLimits : Prop := CurrentAndPowerLimits ∧ ThermalLimits
/-! ### Self-test, the Kettle's and the safety island's faults (R356, R408 to R412, R415) -/

/-- R408, R410 to R412: a slice that may start makes its estate run it; the end of a good slice leaves the next one due, and after the fifth
the cycle begins again; a leaf in no estate that fails is fenced, with event 0x3004 before it; a cycle that is not finished within its
interval is overdue, with event 0x3005, once. -/
def Sys2Proof.Claims.SelfTestSlices : Prop :=
  (∀ (e : Fin 16) (s : State), admitting s = true → boundary s e.val = true → (getEst s e.val).test.source ≠ 0 → sliceMay s e.val = true →
    Runs (.selftestSliceStart e) s fun t =>
      getEst t e.val = { getEst s e.val with test := { (getEst s e.val).test with running := true } } ∧ EstOnly e.val s t) ∧
  (∀ (e : Fin 16) (s : State), (getEst s e.val).test.running = true → ((getEst s e.val).desc.be = true ∨ (getEst s e.val).test.source < 2) →
    RunsThen (.selftestSliceEnd e []) s settle fun u => EstOnly e.val s u ∧
      getEst u e.val = { getEst s e.val with test :=
        if 4 ≤ (getEst s e.val).test.next then
          { (getEst s e.val).test with running := false, next := 0, cycleAt := s.ktime, overdue := false }
        else { (getEst s e.val).test with running := false, next := (getEst s e.val).test.next + 1 } }) ∧
  (∀ (e : Fin 16) (leaf : Fin 168) (s : State), admitting s = true → (getEst s e.val).test.running = false → estOf s leaf.val = none →
    (getLeaf s leaf.val).kind = .spare →
    RunsThen (.selftestSliceEnd e [leaf]) s settle fun u => (getLeaf u leaf.val).kind = .fenced ∧
      ∃ n, 1 ≤ n ∧ n ≤ 5 ∧ Logs 0x3004 srcAfzan (leBytes 1 0xFF ++ leBytes 2 leaf.val ++ leBytes 1 n) s u) ∧
  (∀ (e : Fin 16) (s : State), (getEst s e.val).live = true → (getEst s e.val).test.source ≠ 0 → (getEst s e.val).test.overdue = false →
    (getEst s e.val).test.dti * 100 ≤ ktSince s (getEst s e.val).test.cycleAt → s.pw.supplied = true →
    Runs (.selftestOverdue e) s fun t => EstOnly e.val s t ∧
      getEst t e.val = { getEst s e.val with test := { (getEst s e.val).test with overdue := true } } ∧
      Logs 0x3005 srcTaster (leBytes 1 e.val ++ leBytes 1 ((getEst s e.val).test.next + 1) ++
        leBytes 4 (ktSince s (getEst s e.val).test.cycleAt / 100)) s t)

/-- R356: a lockstep mismatch (0) or an expired watchdog (1) of the Kettle halts every estate, asserts FAULT_N with cause bit 1, writes event
0xA020 and freezes the Caddy. R415: a mismatch in a pair of the safety island makes the other pair assert FAULT_N; a heartbeat miss can. -/
def Sys2Proof.Claims.KettleAndIslandFaults : Prop :=
  (∀ (x : Instr × Nat), x ∈ [(.kettleLockstepMismatch, 0), (.kettleWatchdogExpiry, 1)] → ∀ (s : State), s.safe.kettleFault = false →
    s.pw.supplied = true → s.boot.held = false → s.pw.st ≠ .rest → s.firm.act ≠ .open_ →
    Runs x.1 s fun t => t.safe.kettleFault = true ∧ bitOf t.safe.causes 1 = true ∧ t.caddy.frozen = true ∧ t.caddy.flushing = true ∧
      (∀ e < 16, (getEst s e).live = true → (getEst t e).halted = true) ∧
      Logs 0x3006 0x2000 (leBytes 1 t.safe.causes ++ leBytes 1 1) s t ∧ LogsNth 1 0xA020 srcKeep (leBytes 1 x.2) s t) ∧
  (∀ (n : Fin 2) (s : State), bitOf s.safe.pairFault n.val = false → s.pw.supplied = true → s.pw.st ≠ .rest →
    Runs (.safetyIslandMismatch n) s fun t => t.safe.pairFault = s.safe.pairFault + 2 ^ n.val ∧ bitOf t.safe.causes 4 = true ∧
      t = { s with safe := t.safe, caddy := t.caddy } ∧ Logs 0x3006 (0x2000 + (1 - n.val)) (leBytes 1 t.safe.causes ++ leBytes 1 4) s t) ∧
  (∀ (n : Fin 2) (b : Bool) (s : State), bitOf s.safe.pairFault n.val = false → s.pw.supplied = true → s.pw.st ≠ .rest →
    Runs (.safetyIslandHeartbeatMiss n b) s fun t => t = { s with safe := t.safe, caddy := t.caddy, fresh := s.fresh + 1 } ∧
      ((t.safe = s.safe ∧ t.caddy = s.caddy) ∨
       (bitOf t.safe.causes 4 = true ∧ Logs 0x3006 (0x2000 + n.val) (leBytes 1 t.safe.causes ++ leBytes 1 4) s t)))

/-- Self-test, and the faults of the Kettle and of the safety island. -/
def Obligations.SelfTestAndSafetyFaults : Prop := SelfTestSlices ∧ KettleAndIslandFaults
/-! ### Display pipes and the codec (R264 to R273, R276, R282) -/

/-- R265: training that reaches enough lanes at a fast enough rate starts the pipe, and PIPE_SET's answer is OK; without hot-plug detect it is
NOT_READY; where the stream does not fit it is NO_RESOURCE, with event 0x8005. R266: a loss while scanning out writes event 0x8006 and
the pipe goes on; 100 ms after the loss or the last try a retraining ends, and one that succeeds writes event 0x8006 and waits for the next
latch. R282: a stopping pipe whose link is idle is answered. -/
def Obligations.DisplayLinks : Prop :=
  (∀ (pipe : Fin 6) (lanes rate : Nat) (s : State) (d : Pend), (getPipe s pipe.val).training = some d →
    lanesOk pipe.val false lanes = true → lanes ≤ field (getPipe s pipe.val).timing 19 1 → rateOk pipe.val false rate = true →
    (field (getPipe s pipe.val).timing 20 2 = 0 ∨ rate ≤ field (getPipe s pipe.val).timing 20 2) →
    streamFits pipe.val (getPipe s pipe.val).timing lanes rate = true →
    RunsThen (.linkTrainingResult pipe true lanes rate) s (finish d ok) fun u => MediaOnly s u ∧
      (getPipe u pipe.val).scan = true ∧ (getPipe u pipe.val).link = true ∧ (getPipe u pipe.val).lanes = lanes ∧
      (getPipe u pipe.val).rate = rate ∧ (getPipe u pipe.val).frame = 0 ∧ (getPipe u pipe.val).latchAt = s.ktime ∧
      (getPipe u pipe.val).training = none ∧ ∀ j, j ≠ pipe.val → getPipe u j = getPipe s j) ∧
  (∀ (pipe : Fin 6) (lanes rate : Nat) (s : State) (d : Pend), (getPipe s pipe.val).training = some d →
    RunsThen (.linkTrainingResult pipe false lanes rate) s (finish d (sts stNOT_READY)) fun u => MediaOnly s u ∧
      getPipe u pipe.val = { getPipe s pipe.val with training := none }) ∧
  (∀ (pipe : Fin 6) (lanes rate : Nat) (s : State) (d : Pend), (getPipe s pipe.val).training = some d → lanesOk pipe.val false lanes = false →
    RunsThen (.linkTrainingResult pipe true lanes rate) s (finish d (sts stNO_RESOURCE)) fun u => MediaOnly s u ∧
      getPipe u pipe.val = { getPipe s pipe.val with training := none } ∧ (tget u.caddy.ring s.caddy.slot).code = 0x8005) ∧
  (∀ (pipe : Fin 6) (b : Bool) (s : State), (getPipe s pipe.val).scan = true → (getPipe s pipe.val).link = true →
    Runs (.displayLinkLoss pipe b) s fun t => MediaOnly s t ∧
      getPipe t pipe.val = { getPipe s pipe.val with
        link := false, relink := false, losses := (getPipe s pipe.val).losses.add 1, lossCause := b2n b, triedAt := s.ktime, out := [] } ∧
      (∀ j, j ≠ pipe.val → getPipe t j = getPipe s j) ∧
      Logs 0x8006 (0x6000 + pipe.val) (leBytes 1 pipe.val ++ leBytes 1 0 ++ leBytes 1 (b2n b)) s t) ∧
  (∀ (pipe : Fin 6) (ok : Bool) (s : State), (getPipe s pipe.val).scan = true → (getPipe s pipe.val).link = false →
    (getPipe s pipe.val).relink = false → 10000000 ≤ ktSince s (getPipe s pipe.val).triedAt →
    Runs (.displayRetrain pipe ok) s fun t => MediaOnly s t ∧
      getPipe t pipe.val = { getPipe s pipe.val with triedAt := s.ktime, relink := ok } ∧
      (∀ j, j ≠ pipe.val → getPipe t j = getPipe s j) ∧
      (ok = false → t.caddy = s.caddy) ∧
      (ok = true → Logs 0x8006 (0x6000 + pipe.val) (leBytes 1 pipe.val ++ leBytes 1 1 ++ leBytes 1 (getPipe s pipe.val).lossCause) s t)) ∧
  (∀ (pipe : Fin 6) (s : State) (flags : Nat) (d : Pend), (getPipe s pipe.val).stop = some (flags, d) → (getPipe s pipe.val).scan = false →
    (getPipe s pipe.val).training = none → RunsThen (.pipeLinkIdle pipe) s (finish d ok) fun u => MediaOnly s u ∧ (getPipe u pipe.val).stop = none ∧ (getPipe u pipe.val).link = false ∧
      (getPipe u pipe.val).scan = false ∧ (bitOf flags 1 = true → (getPipe u pipe.val).owner = 0) ∧
      (bitOf flags 1 = false → (getPipe u pipe.val).owner = (getPipe s pipe.val).owner) ∧ ∀ j, j ≠ pipe.val → getPipe u j = getPipe s j)

namespace Sys2Proof.Claims

/-- A latch of pipe `p` can come: it scans out, the display clock runs, and its frame period has passed (R38, R270). -/
abbrev LatchNow (p : Nat) (s : State) : Prop := (getPipe s p).scan = true ∧ s.pw.pllLost = false ∧ latchDue s (getPipe s p) = true

/-- The pipe takes no flip and writes no status record at its next latch. -/
abbrev Plain (p : Nat) (s : State) : Prop :=
  (getPipe s p).stop = none ∧ (getPipe s p).status = 0 ∧ (getPipe s p).statusNext = 0

end Sys2Proof.Claims

/-- R263, R266 to R273: at a latch the frame number advances, the Kettle's time is kept, a retrained link is up again, and the layers are
composed; a flip of the queue that is due is taken; lines that underran are told in event 0x8007; a stopping pipe stops. R273: a line that
was not there in time counts, and shows BACKGROUND from some pixel on. -/
def Sys2Proof.Claims.ScanOut : Prop :=
  (∀ (pipe : Fin 6) (s : State), (getPipe s pipe.val).scan = true → s.pw.pllLost = false →
    Runs (.scanoutUnderflow pipe) s fun t => MediaOnly s t ∧ t.caddy = s.caddy ∧ (∀ j, j ≠ pipe.val → getPipe t j = getPipe s j) ∧
      ∃ x y, getPipe t pipe.val = { getPipe s pipe.val with
        under := (getPipe s pipe.val).under.add 1
        lineUnder := min 65535 ((getPipe s pipe.val).lineUnder + 1)
        out := (getPipe s pipe.val).out.set y (cutLine (getPipe s pipe.val).timing x ((getPipe s pipe.val).out.getD y [])) }) ∧
  (∀ (pipe : Fin 6) (s : State), LatchNow pipe.val s → Plain pipe.val s → (getPipe s pipe.val).flip = 0 →
    (∀ i < 8, bitOf (field (tget (getPipe s pipe.val).layers i) 49 1) 0 = false) →
    Runs (.vblankLatch pipe) s fun t => MediaOnly s t ∧
      getPipe t pipe.val = { getPipe s pipe.val with
        frame := ((getPipe s pipe.val).frame + 1) % 2 ^ 64, latchAt := s.ktime, lineUnder := 0
        link := (getPipe s pipe.val).link || (getPipe s pipe.val).relink, relink := false
        out := if ((getPipe s pipe.val).link || (getPipe s pipe.val).relink) = true ∧ blockOff s 4 pipe.val = false then
          compose (getPipe s pipe.val).timing [] else [] } ∧
      (∀ j, j ≠ pipe.val → getPipe t j = getPipe s j) ∧
      ((getPipe s pipe.val).lineUnder ≠ 0 → Logs 0x8007 (0x6000 + pipe.val) (leBytes 1 pipe.val ++ leBytes 4 (getPipe s pipe.val).frame ++
        leBytes 2 (getPipe s pipe.val).lineUnder) s t)) ∧
  (∀ (pipe : Fin 6) (s v : State) (ls : List Layer), LatchNow pipe.val s → Plain pipe.val s → (getPipe s pipe.val).flip = 0 →
    (getPipe s pipe.val).link = true → blockOff s 4 pipe.val = false → fabricUp s = true → s.boot.resetting = none →
    fetchLayers pipe.val (ownerOf (getPipe s pipe.val).owner) ((List.range 8).map (tget (getPipe s pipe.val).layers))
      (nextFrame pipe.val (underEvent pipe.val s)) = (v, stOK, ls) →
    Runs (.vblankLatch pipe) s fun t => t = modPipe v pipe.val (fun y => { y with out := compose (getPipe s pipe.val).timing ls })) ∧
  (∀ (pipe : Fin 6) (s : State) (x : Nat × Pend), LatchNow pipe.val s → (getPipe s pipe.val).stop = some x →
    Runs (.vblankLatch pipe) s fun t => MediaOnly s t ∧
      getPipe t pipe.val = { getPipe s pipe.val with scan := false, lineUnder := 0, out := [] }) ∧
  (∀ (pipe : Fin 6) (s v : State) (q : Nat) (l : Latch), LatchNow pipe.val s → Plain pipe.val s → (getPipe s pipe.val).flip = q + 1 →
    fabricUp s = true → s.boot.resetting = none → (getQ s q).len = 1 →
    field (headEntry s q) 8 8 ≤ ((getPipe s pipe.val).frame + 1) % 2 ^ 64 → field (headEntry s q) 16 6 = 0 →
    field (headEntry s q) 0 6 % 64 = 0 → field (headEntry s q) 0 6 + 512 ≤ 0x1000000000 →
    applyFlip pipe.val (headEntry s q) {} (popEntry q (nextFrame pipe.val (underEvent pipe.val s))) = (v, l) → l.taken = 1 →
    Runs (.vblankLatch pipe) s fun t => t = showFrame pipe.val v ∧ Popped q s v ∧
      (getPipe v pipe.val).frame = ((getPipe s pipe.val).frame + 1) % 2 ^ 64 ∧ (getPipe v pipe.val).latchAt = s.ktime ∧
      l.tag = field (headEntry s q) 32 8)

namespace Sys2Proof.Claims

/-- Session `k` is open and works, and its picture is the next of its direction (R277). -/
abbrev SesRuns (k : Nat) (s : State) : Prop :=
  (getSes s k).owner ≠ 0 ∧ (getSes s k).stopped = 0 ∧ fabricUp s = true ∧ blockOff s 6 k = false ∧ s.boot.resetting = none ∧
  sesNext s k = true ∧ (getSes s k).closing = none

/-- The bitstream record that carried the picture which session `k` decodes next. -/
def pieceOf (s : State) (k : Nat) : List Byte :=
  ((getSes s k).pieces.getD (Config.decPiece (getSes s k).pieces (getSes s k).count % max 1 (getSes s k).pieces.length) ([], [])).1

/-- Session `k` notes whether its next picture is concealed (R278). -/
def noteErr (k : Nat) (c : Bool) (s : State) : State := modSes s k fun x => { x with errs := x.errs.take x.count ++ [c] }

/-- The samples of the picture in progress of decoder session `k`, written to an image (R276). -/
def putPicture (k : Nat) (img : List Byte) (s : State) : State × Nat :=
  putImage (sesIni k) img (field img 0 6) (field img 24 6) (cdH (getSes s k).open_) (fun _ => true) (sesSample (getSes s k) 0)
    (fun x y => sesSample (getSes s k) 1 x y ++ sesSample (getSes s k) 2 x y) (popEntry (cdFree (getSes s k).open_) s)

/-- The picture record of session `k` that the encoder codes next, and whether it is coded as IDR (R274, R276). -/
def encRec (s : State) (k : Nat) : List Byte :=
  (getSes s k).work.getD (Config.encNext ((getSes s k).open_.take 12 ++ (getSes s k).open_.drop 36) (getSes s k).count % max 1 (getSes s k).work.length) []
def encIdr (s : State) (k : Nat) : Bool :=
  decide ((getSes s k).count = 0) || bitOf (field (encRec s k) 40 1) 0 ||
    (decide (field (getSes s k).open_ 48 2 ≠ 0) && decide (field (getSes s k).open_ 48 2 ≤ (getSes s k).sinceIdr))

/-- The pictures that an access unit is coded from, and the output slot's buffer: address and size (R276, R278). -/
def encFed (s : State) (k : Nat) (p0 p1 : List (List Byte)) : List (List Byte × Bool) := (getSes s k).fed ++ [(p0.flatten ++ p1.flatten, encIdr s k)]
def encBuf (s : State) (k : Nat) : Nat × Nat :=
  let r := memRead s ((getQ s (cdOut (getSes s k).open_)).slotAddr (getQ s (cdOut (getSes s k).open_)).tail) 32
  (field r 0 6, field r 8 4)

end Sys2Proof.Claims

/-- R276 to R278: a decoder session with a picture ready and a free picture writes its samples there and pushes its record, with event
0x8008 of kind 1 where it was concealed; an encoder session reads its picture and pushes an access unit with the bytes that fit its buffer;
an input outside the session's CODEC_OPEN ends the session with event 0x8008 of kind 2. -/
def Sys2Proof.Claims.CodecSession : Prop :=
  (∀ (k : Fin 64) (r : CodecResult) (s v : State), SesRuns k.val s → cdDec (getSes s k.val).open_ = true → cdTile (getSes s k.val).open_ = false →
    picsLeft (getSes s k.val) ≠ 0 → (getSes s k.val).tile = 0 → r.kind.val ≤ 1 → canPush s (cdOut (getSes s k.val).open_) = true →
    (getQ s (cdFree (getSes s k.val).open_)).len ≠ 0 →
    picOk (getSes s k.val).open_ (headEntry s (cdFree (getSes s k.val).open_)) = true →
    putPicture k.val ((headEntry s (cdFree (getSes s k.val).open_)).take 32) (noteErr k.val (r.kind.val == 1) s) = (v, stOK) →
    Runs (.codecPictureDone k r) s fun t =>
      t = pushEntry (cdOut (getSes s k.val).open_)
        (picRec ((headEntry s (cdFree (getSes s k.val).open_)).take 32) (field (pieceOf s k.val) 16 8)
          (2 * b2n (bitOf (field (pieceOf s k.val) 12 1) 0 && decide (picsLeft (getSes s k.val) = 1)) + 4 * b2n (r.kind.val == 1))
          (field (pieceOf s k.val) 24 8))
        (picOut k.val (if r.kind.val = 1 then decodeError k.val 1 (field (pieceOf s k.val) 16 8) v else v))) ∧
  (∀ (k : Fin 64) (r : CodecResult) (s v w : State) (p0 p1 : List (List Byte)), SesRuns k.val s → cdDec (getSes s k.val).open_ = false →
    (getSes s k.val).work ≠ [] → (getQ s (cdIn (getSes s k.val).open_)).len = 0 → canPush s (cdOut (getSes s k.val).open_) = true →
    getImage (sesIni k.val) ((encRec s k.val).take 32) 0 (field (encRec s k.val) 8 2) 0 (field (encRec s k.val) 10 2) s = (v, stOK, p0, p1) →
    r.bytes ≤ (encBuf v k.val).2 →
    busWrite (sesIni k.val) (encBuf v k.val).1 ((List.range r.bytes).map
      (Config.encByte (runSlot v).release ((getSes s k.val).open_.take 12 ++ (getSes s k.val).open_.drop 36) (encFed s k.val p0 p1))) v = (w, stOK) →
    Runs (.codecPictureDone k r) s fun t =>
      ∃ u, t = pushEntry (cdOut (getSes s k.val).open_) (bitRec (encBuf v k.val).1 r.bytes
          (b2n (bitOf (field (encRec s k.val) 40 1) 1) + 4 * b2n (encIdr s k.val)) (field (encRec s k.val) 32 8) (field (encRec s k.val) 48 8)) u ∧
        u = { w with media := u.media } ∧ (getSes u k.val).count = (getSes s k.val).count + 1 ∧
        (getSes u k.val).sinceIdr = (if encIdr s k.val then 0 else (getSes s k.val).sinceIdr + 1) ∧
        (getSes u k.val).work.length + 1 = (getSes s k.val).work.length ∧ (getSes u k.val).fed = encFed s k.val p0 p1 ∧
        ∀ j, j ≠ k.val → getSes u j = getSes s j) ∧
  (∀ (k : Fin 64) (r : CodecResult) (s : State), SesRuns k.val s → cdDec (getSes s k.val).open_ = true → cdTile (getSes s k.val).open_ = true →
    picsLeft (getSes s k.val) ≠ 0 → r.kind.val = 2 →
    Runs (.codecPictureDone k r) s fun t => t = { s with media := t.media, caddy := t.caddy, safe := t.safe } ∧
      getSes t k.val = { getSes s k.val with stopped := stBAD_ARG, work := [], pieces := [], pics := 0, due := [], tile := 0 } ∧
      Logs 0x8008 (0x5000 + k.val) (leBytes 1 k.val ++ leBytes 1 2 ++ leBytes 4 (field ((getSes s k.val).pieces.getLastD ([], [])).1 16 8)) s t ∧
      ∀ j, j ≠ k.val → getSes t j = getSes s j)

/-- Scan-out, and a session of the codec. -/
def Obligations.ScanOutAndCodec : Prop := ScanOut ∧ CodecSession

/-! ### Capture and fusion (R293 to R295, R303, R308 to R312, R319, R329) -/

namespace Sys2Proof.Claims

/-- Receiver `r` takes packets, and stream `k` alone listens to virtual channel `vc` on it. -/
abbrev Listens (r k : Nat) (vc : BitVec 4) (s : State) : Prop :=
  s.pw.supplied = true ∧ s.boot.held = false ∧ s.pw.st = .run ∧ s.pw.parking = 0 ∧ s.pw.thermalDoze = false ∧ s.pw.forced = false ∧ s.pw.pllLost = false ∧
  strOn s r vc none = [k]

/-- A frame of stream `k` is in progress: neither dropped, nor ended, nor discarded. -/
abbrev InFrame (k : Nat) (f : Frame) (s : State) : Prop :=
  (getStr s k).frame = some f ∧ f.dropped = false ∧ f.ended = false ∧ f.discard = false

/-- Only stream `k` changed, and events may have been written. -/
abbrev StreamOnly (k : Nat) (s t : State) : Prop := CapOnly s t ∧ ∀ j, j ≠ k → getStr t j = getStr s j

/-- Where the next track list goes (R319). -/
def listAt (s : State) : Nat :=
  field (getFus s).conf 8 6 + (getQ s (fOut (getFus s).conf)).tail % (getQ s (fOut (getFus s).conf)).n * field (getFus s).conf 16 4

/-- The bytes of the tile that stream `k` pushes next (R295). -/
def tileData (s : State) (k : Nat) (f : Frame) : List Byte :=
  let n := tileRows (getStr s k).conf
  let i := if n.2.1 ≤ f.tile then f.tile - n.2.1 else f.tile
  (ispIn (getStr s k) f).tile (decide (n.2.1 ≤ f.tile)) (i % n.1) (i / n.1)

end Sys2Proof.Claims

/-- R293, R296: a frame start opens a frame with the next number in the next buffer where OUT_QUEUE has two slots free, and drops the frame
with event 0x9002 where it has not. R294: a line counts and is kept for the ISP, or is written as received in bypass; one whose header is bad
is lost; an overflow discards the rest; a frame end pushes a bypass frame's record, and ends the input of a frame whose tiles still wait; a
missed end ends it SHORT; lost lane synchronisation counts an error, with event 0x9001 once. -/
def Sys2Proof.Claims.CaptureFramesPart : Prop :=
  (∀ (r : Fin 4) (k : Nat) (vc : BitVec 4) (s : State), Listens r.val k vc s → (getStr s k).stopped = 0 → (getStr s k).frame = none →
    (getStr s k).tuneNext = none → blockOff s 5 k = false → blockOff s 7 r.val = false → 2 ≤ freeSlots s (cOut (getStr s k).conf) →
    Runs (.csiPacket r (.frameStart vc)) s fun t => StreamOnly k s t ∧ t.caddy = s.caddy ∧
      (getStr t k).frames = ((getStr s k).frames + 1) % 2 ^ 64 ∧
      ∃ f, (getStr t k).frame = some f ∧ f.num = ((getStr s k).frames + 1) % 2 ^ 64 ∧ f.dropped = false ∧ f.lines = 0 ∧ f.at_ = s.ktime ∧
        f.buf = (getQ s (cOut (getStr s k).conf)).tail % (getQ s (cOut (getStr s k).conf)).n ∧ f.before = (getStr s k).before) ∧
  (∀ (r : Fin 4) (k : Nat) (vc : BitVec 4) (s : State), Listens r.val k vc s → (getStr s k).stopped = 0 → (getStr s k).frame = none →
    (getStr s k).tuneNext = none → blockOff s 5 k = false → blockOff s 7 r.val = false → freeSlots s (cOut (getStr s k).conf) < 2 →
    Runs (.csiPacket r (.frameStart vc)) s fun t => StreamOnly k s t ∧ (getStr t k).before = true ∧
      (getStr t k).dropped = (getStr s k).dropped.add 1 ∧ (∃ f, (getStr t k).frame = some f ∧ f.dropped = true) ∧
      Logs 0x9002 srcAfzan (leBytes 1 k ++ leBytes 1 0 ++ leBytes 4 (((getStr s k).frames + 1) % 2 ^ 64)) s t) ∧
  (∀ (r : Fin 4) (k : Nat) (vc : BitVec 4) (dt : BitVec 8) (data : List Byte) (s : State) (f : Frame), Listens r.val k vc s →
    field (getStr s k).conf 2 1 = dt.toNat → dt ≠ 0x12#8 → InFrame k f s → fabricUp s = true → cMode (getStr s k).conf ≠ 1 →
    f.lines < cHeight (getStr s k).conf * cExp (getStr s k).conf →
    Runs (.csiPacket r (.line vc dt data true)) s fun t => StreamOnly k s t ∧
      getStr t k = { getStr s k with frame := some { f with lines := f.lines + 1, rows := f.rows ++ [some data] } }) ∧
  (∀ (r : Fin 4) (k : Nat) (vc : BitVec 4) (dt : BitVec 8) (data : List Byte) (s v : State) (f : Frame), Listens r.val k vc s →
    field (getStr s k).conf 2 1 = dt.toNat → dt ≠ 0x12#8 → InFrame k f s → fabricUp s = true → cMode (getStr s k).conf = 1 →
    f.lines < cHeight (getStr s k).conf * cExp (getStr s k).conf → data.length ≤ cWidth (getStr s k).conf →
    f.lines * field (cImage (getStr s k).conf) 16 4 + data.length ≤ field (cImage (getStr s k).conf) 20 4 →
    busWrite (strIni s k) (field (cImage (getStr s k).conf) 0 6 + f.buf * field (cImage (getStr s k).conf) 20 4 +
      f.lines * field (cImage (getStr s k).conf) 16 4) data s = (v, stOK) →
    Runs (.csiPacket r (.line vc dt data true)) s fun t => t = modStr v k (fun _ =>
      { getStr v k with frame := (getStr v k).frame.map fun g => { g with lines := g.lines + 1, bytes := g.bytes + data.length, trunc := g.trunc || false } })) ∧
  (∀ (r : Fin 4) (k : Nat) (vc : BitVec 4) (dt : BitVec 8) (s : State) (f : Frame), Listens r.val k vc s →
    field (getStr s k).conf 2 1 = dt.toNat → InFrame k f s →
    Runs (.csiPacket r (.badHeader vc dt)) s fun t => StreamOnly k s t ∧ getStr t k = { getStr s k with frame := some { f with
      err := true, short := true, errs := f.errs + 1, lines := f.lines + 1, lost := f.lost + 1, rows := f.rows ++ [none]
      kind := if f.errs = 0 then 1 else f.kind } }) ∧
  (∀ (r : Fin 4) (k : Nat) (vc : BitVec 4) (dt : BitVec 8) (s : State) (f : Frame), Listens r.val k vc s →
    field (getStr s k).conf 2 1 = dt.toNat → InFrame k f s → cMode (getStr s k).conf ≠ 1 →
    Runs (.csiPacket r (.overflow vc dt)) s fun t => StreamOnly k s t ∧
      getStr t k = { getStr s k with frame := some { f with discard := true, short := true } }) ∧
  (∀ (r : Fin 4) (k : Nat) (vc : BitVec 4) (s : State) (f : Frame), Listens r.val k vc s → InFrame k f s → cMode (getStr s k).conf = 1 →
    f.errs = 0 → f.sensor = none → (getStr s k).closing = [] → f.num < 2 ^ 64 → canPush s (cOut (getStr s k).conf) = true →
    (getQ s (cOut (getStr s k).conf)).kind = 1 → (getQ s (cOut (getStr s k).conf)).esize = 1 →
    PlaceOpen s ((getQ s (cOut (getStr s k).conf)).slotAddr (getQ s (cOut (getStr s k).conf)).tail) 32 →
    Runs (.csiPacket r (.frameEnd vc)) s fun t => Pushed (cOut (getStr s k).conf) s t ∧ (getStr t k).frame = none ∧
      (∀ j, j ≠ k → getStr t j = getStr s j) ∧
      field (memRead t ((getQ s (cOut (getStr s k).conf)).slotAddr (getQ s (cOut (getStr s k).conf)).tail) 32) 8 8 = f.num) ∧
  (∀ (r : Fin 4) (k : Nat) (vc : BitVec 4) (s : State) (f : Frame), Listens r.val k vc s → InFrame k f s → cMode (getStr s k).conf = 2 →
    cStats (getStr s k).conf = 0 → f.errs = 0 → f.tile < tileCount (getStr s k).conf →
    Runs (.csiPacket r (.frameEnd vc)) s fun t => StreamOnly k s t ∧ getStr t k = { getStr s k with frame := some { f with ended := true } }) ∧
  (∀ (k : Fin 24) (s : State) (f : Frame), InFrame k.val f s → 2 * frameTime (getStr s k.val).conf ≤ ktSince s f.at_ →
    cMode (getStr s k.val).conf = 2 → cStats (getStr s k.val).conf = 0 → f.errs = 0 → f.tile < tileCount (getStr s k.val).conf →
    Runs (.missingFrameEnd k) s fun t => StreamOnly k.val s t ∧
      getStr t k.val = { getStr s k.val with frame := some { f with ended := true, short := true } }) ∧
  (∀ (k : Fin 16) (s : State) (f : Frame), (getStr s k.val).frame = some f → f.dropped = false → f.ended = false →
    Runs (.csiLaneSyncLost k) s fun t => StreamOnly k.val s t ∧
      getStr t k.val = { getStr s k.val with frame := some { f with errs := f.errs + 1, kind := if f.errs = 0 then 3 else f.kind, evented := true } } ∧
      (f.evented = false → Logs 0x9001 srcAfzan (leBytes 1 (k.val / 4) ++ leBytes 1 k.val ++ leBytes 1 3 ++ leBytes 2 (f.errs + 1)) s t))

/-- R295: the next tile of a frame is pushed where two slots are free, and dropped, with event 0x9002 once for the frame, where they are not.
R303: a snapshot latches every counter: a receiver's conversion has RATIO 2³⁹ and an error of at most 20 ns, and a port keeps its last 16. -/
def Sys2Proof.Claims.TilesAndTime : Prop :=
  (∀ (k : Fin 16) (s : State) (f : Frame), (getStr s k.val).frame = some f → f.dropped = false → cMode (getStr s k.val).conf = 2 →
    f.tile + 1 < tileCount (getStr s k.val).conf → fabricUp s = true → tileNeeds (getStr s k.val).conf f.tile ≤ f.lines →
    (freeSlots s (cTileQ (getStr s k.val).conf) < 2 →
      Runs (.ispTilePush k) s fun t => StreamOnly k.val s t ∧
        getStr t k.val = { getStr s k.val with frame := some { f with tile := f.tile + 1, tilesLost := true }
                                               tiles := (getStr s k.val).tiles.add 1 } ∧
        (f.tilesLost = false → Logs 0x9002 srcAfzan (leBytes 1 k.val ++ leBytes 1 2 ++ leBytes 4 f.num) s t)) ∧
    (2 ≤ freeSlots s (cTileQ (getStr s k.val).conf) →
      (getQ s (cTileQ (getStr s k.val).conf)).bufAddr (getQ s (cTileQ (getStr s k.val).conf)).tail + 16384 ≤ 0x1000000000 →
      (busWrite (strIni s k.val) ((getQ s (cTileQ (getStr s k.val).conf)).bufAddr (getQ s (cTileQ (getStr s k.val).conf)).tail)
        (tileData s k.val f) s).2 = stOK →
      Runs (.ispTilePush k) s fun t => Pushed (cTileQ (getStr s k.val).conf) s t ∧
        getStr t k.val = { getStr s k.val with frame := some { f with tile := f.tile + 1 } })) ∧
  (∀ (eth : List (BitVec 64)) (s : State), Runs (.timeSnapshot eth) s fun t =>
    t = { s with cap := { s.cap with conv := t.cap.conv }, gw := { s.gw with port := t.gw.port }, fresh := t.fresh } ∧
    (∀ r < 4, (tget t.cap.conv r).ratio = 2 ^ 39 ∧ (tget t.cap.conv r).at_ = s.ktime ∧
      ∃ d < 5, (tget t.cap.conv r).k0 = (s.ktime + 2 ^ 64 + d - 2) % 2 ^ 64) ∧
    ∀ i < min eth.length 8, (tget t.cap.conv (4 + i)).at_ = s.ktime ∧ (tget t.gw.port (4 + i)).clock = (eth.getD i 0#64).toNat ∧
      (tget t.cap.conv (4 + i)).snaps =
        ((tget s.cap.conv (4 + i)).snaps ++ [((eth.getD i 0#64).toNat, s.ktime)]).drop ((tget s.cap.conv (4 + i)).snaps.length - 15))

/-- Frames, their tiles, and the times they carry. -/
def Obligations.CaptureFrames : Prop := CaptureFramesPart ∧ TilesAndTime

/-- R308, R309: a bad record counts; a good one opens a batch of its sensor and time, and one with the last flag closes it. R310: a late batch
is dropped with event 0x9011, one too far ahead is counted, and one with tracks leaves its list to be written. R312: 200 ms without a
registered scan degrade the ego-motion, with event 0x9014. R319: a list that is written takes the next number and is announced. -/
def Obligations.FusionEngine : Prop :=
  (∀ (s : State), fusOn s = true → (getFus s).wait = none → (getQ s (fMeas (getFus s).conf)).bound = true →
    (getQ s (fMeas (getFus s).conf)).len ≠ 0 →
    Runs .fusMeasPop s fun t =>
      (getQ t (fMeas (getFus s).conf)).head = (getQ s (fMeas (getFus s).conf)).adv (getQ s (fMeas (getFus s).conf)).head 1 ∧
      (measBad s (headEntry s (fMeas (getFus s).conf)) = true → getFus t = { getFus s with bad := (getFus s).bad.add 1 }) ∧
      (measBad s (headEntry s (fMeas (getFus s).conf)) = false → batchOf s (headEntry s (fMeas (getFus s).conf)) = none →
        (getFus s).open_.length < 32 →
        if mFlag (headEntry s (fMeas (getFus s).conf)) 0 then
          (getFus t).open_ = (getFus s).open_ ∧ (getFus t).closed = (getFus s).closed ++
            [{ sensor := mSensor (headEntry s (fMeas (getFus s).conf)), time := mTime (headEntry s (fMeas (getFus s).conf))
               recs := [headEntry s (fMeas (getFus s).conf)] }]
        else (getFus t).closed = (getFus s).closed ∧ (getFus t).open_ = (getFus s).open_ ++
            [{ sensor := mSensor (headEntry s (fMeas (getFus s).conf)), time := mTime (headEntry s (fMeas (getFus s).conf))
               recs := [headEntry s (fMeas (getFus s).conf)] }])) ∧
  (∀ (s : State), fusOn s = true → fEgoOff (getFus s).conf = false → msUnits 200 ≤ ktSince s (getFus s).regAt → (getFus s).degraded = false →
    Runs .egoTimeout s fun t => CapOnly s t ∧ getFus t = { getFus s with degraded := true } ∧
      Logs 0x9014 srcAfzan (leBytes 1 1 ++ leBytes 1 2) s t) ∧
  (∀ (s : State) (b : Batch) (rest : List Batch) (n : BitVec 8), (getFus s).closed = b :: rest → b.sensor = n.toNat → fusOn s = true → (getFus s).wait = none →
    ((fLate (getFus s).conf : Int) < timeDiff s.ktime b.time → Runs (.fusBatchProcess n) s fun t => CapOnly s t ∧
      getFus t = { getFus s with closed := rest, late := (getFus s).late.add b.recs.length } ∧
      Logs 0x9011 srcAfzan (leBytes 1 b.sensor ++ leBytes 2 b.recs.length ++ leBytes 4 ((timeDiff s.ktime b.time).toNat / 100)) s t) ∧
    (timeDiff s.ktime b.time < -(msUnits 10 : Int) → Runs (.fusBatchProcess n) s fun t => CapOnly s t ∧
      getFus t = { getFus s with closed := rest, future := (getFus s).future.add b.recs.length }) ∧
    (timeDiff s.ktime b.time ≤ (fLate (getFus s).conf : Int) → -(msUnits 10 : Int) ≤ timeDiff s.ktime b.time → fEgoOff (getFus s).conf = true →
      (b.recs.any mTracks) = true → (∀ r ∈ b.recs, mKind r ≠ 2) → Runs (.fusBatchProcess n) s fun t => CapOnly s t ∧ (getFus t).closed = rest ∧
        (getFus t).wait = some { time := b.time, sensor := b.sensor, gen := (getFus s).gen })) ∧
  (∀ (s : State) (l : FusList), (getFus s).wait = some l → fusOn s = true → (getQ s (fOut (getFus s).conf)).bound = true →
    2 ≤ freeSlots s (fOut (getFus s).conf) → (getFus s).closing = none → listAt s + (listBytes s l).length ≤ 0x1000000000 →
    (busWrite .fusion (listAt s) (listBytes s l) s).2 = stOK →
    Runs .fusListPush s fun t => (getFus t).lists = ((getFus s).lists + 1) % 2 ^ 64 ∧ (getFus t).wait = none ∧
      Pushed (fOut (getFus s).conf) s t)
/-! ### Memory (R335 to R339, R344, R348, R431) -/

/-- R348: in one FCLK a Strainer's budget gains 1 (up to 64); rule 1 passes the oldest RT request for 2 of the budget, rule 2 the oldest BE
request after 32 others; with no request nothing else happens. -/
def Sys2Proof.Claims.StrainerRules : Prop :=
  (∀ (c : Fin 8) (s : State), fabricUp s = true → (getCg s c.val).reqs = [] →
    Runs (.strainerArbitrate c) s fun t => getCg t c.val = { getCg s c.val with budget := min 64 ((getCg s c.val).budget + 1) } ∧
      t = { s with mem := { s.mem with cg := t.mem.cg } } ∧ ∀ j, j ≠ c.val → getCg t j = getCg s j) ∧
  (∀ (c : Fin 8) (s : State) (q : SReq), fabricUp s = true → (getCg s c.val).reqs.find? (fun x => decide (x.cls = .rt)) = some q →
    2 ≤ min 64 ((getCg s c.val).budget + 1) →
    Runs (.strainerArbitrate c) s fun t => (getCg t c.val).budget = min 64 ((getCg s c.val).budget + 1) - 2 ∧
      (getCg t c.val).reqs = (getCg s c.val).reqs.filter (fun x => decide (x.ord ≠ q.ord)) ∧
      t = { s with mem := { s.mem with cg := t.mem.cg } } ∧ ∀ j, j ≠ c.val → getCg t j = getCg s j) ∧
  (∀ (c : Fin 8) (s : State) (q : SReq), fabricUp s = true → (∀ x ∈ (getCg s c.val).reqs, x.cls ≠ .rt) →
    (getCg s c.val).reqs.find? (fun x => decide (x.cls = .be)) = some q → 32 ≤ (getCg s c.val).beAge →
    Runs (.strainerArbitrate c) s fun t => (getCg t c.val).beAge = 0 ∧ (getCg t c.val).beFloor = (getCg s c.val).beFloor.add 1 ∧
      (getCg t c.val).reqs = (getCg s c.val).reqs.filter (fun x => decide (x.ord ≠ q.ord)) ∧
      t = { s with mem := { s.mem with cg := t.mem.cg } } ∧ ∀ j, j ≠ c.val → getCg t j = getCg s j)

/-- R338: the patrol corrects a correctable line and counts it, and writes event 0x2003 for an uncorrectable one. R333: a one-bit error of
the link that its read meets is corrected and counted for its channel. R339: a channel that fails is marked, with event 0x2005. R344: a cache
operation ends with every line in scope written back. R431: a zeroed granule reads 0, and no other byte changes. -/
def Sys2Proof.Claims.MemoryUpkeep : Prop :=
  (∀ (c : Fin 8) (line : Nat) (s : State), dramOn s = true → line < cgBytes s / 64 →
    (tget s.mem.lineErr (c.val * (cgBytes s / 64) + line) = 0 → tget s.mem.linkErr (c.val * 4 + line % 4) = 0 →
      Runs (.patrolScrub c line) s fun t => MemSame s t ∧ t.caddy = s.caddy ∧
      t = { s with mem := t.mem } ∧ (getCg t c.val).corr = (getCg s c.val).corr) ∧
    (tget s.mem.lineErr (c.val * (cgBytes s / 64) + line) = 0 → tget s.mem.linkErr (c.val * 4 + line % 4) = 1 →
      Runs (.patrolScrub c line) s fun t => MemSame s t ∧ t = { s with mem := t.mem, caddy := t.caddy } ∧
        t.mem.linkErr = tput s.mem.linkErr (c.val * 4 + line % 4) 0 ∧
        tget (getCg t c.val).linkCorr (line % 4) = (tget (getCg s c.val).linkCorr (line % 4)).add 1) ∧
    (tget s.mem.lineErr (c.val * (cgBytes s / 64) + line) = 1 → tget s.mem.linkErr (c.val * 4 + line % 4) = 0 →
      Runs (.patrolScrub c line) s fun t => MemSame s t ∧
      t = { s with mem := t.mem, caddy := t.caddy } ∧ tget t.mem.lineErr (c.val * (cgBytes s / 64) + line) = 0 ∧
      (getCg t c.val).corr = (getCg s c.val).corr.add 1) ∧
    (2 ≤ tget s.mem.lineErr (c.val * (cgBytes s / 64) + line) → tget s.mem.linkErr (c.val * 4 + line % 4) = 0 →
      Runs (.patrolScrub c line) s fun t => MemSame s t ∧
      t.mem.lineErr = s.mem.lineErr ∧
      ∃ x, Logs 0x2003 (srcMc c.val) (leBytes 2 x ++ leBytes 6 ((c.val * (cgBytes s / 64) + line) * 64) ++ leBytes 1 2) s t)) ∧
  (∀ (c : Fin 8) (ch : Fin 4) (b : Bool) (s : State), dramOn s = true → bitOf (getCg s c.val).failed ch.val = false →
    RunsThen (.channelFail c ch b) s settle fun u => (getCg u c.val).failed = (getCg s c.val).failed ||| 2 ^ ch.val ∧
      Logs 0x2005 (srcMc c.val) (leBytes 1 c.val ++ leBytes 1 ch.val ++ leBytes 1 (b2n b)) s u ∧
      (s.jobs.recovery = 0 → u = { s with mem := u.mem, caddy := u.caddy })) ∧
  (∀ (p : Party) (s : State) (o : CacheOp), s.mem.ops.find? (fun x => decide (x.pend.party = pidx p)) = some o → fabricUp s = true →
    RunsThen (.cacheOpDone p) s (finish o.pend ok) fun u => u.mem.ops = s.mem.ops.erase o ∧ MemSame s u ∧
      u = { s with mem := u.mem, caddy := u.caddy } ∧
      ∀ k, (tget s.mem.cache k).line ≠ 0 → opCovers s o k ((tget s.mem.cache k).line - 1) = true → (tget u.mem.cache k).dirty = false) ∧
  (∀ (g : Nat) (s : State), fabricUp s = true →
    s.mem.zeroing.find? (fun x => decide (cgOf s (x * 0x4000000) = cgOf s (g * 0x4000000))) = some g →
    RunsThen (.granuleZeroed g) s settle fun u => (∀ i < 0x4000000, tget u.mem.cells (g * 0x4000000 + i) = 0) ∧
      MemOutside (g * 0x4000000) 0x4000000 s u ∧ u.mem.zeroing = s.mem.zeroing.filter (fun x => decide (x ≠ g)) ∧
      u = { s with mem := u.mem, caddy := u.caddy })

/-- Arbitration at the Strainers, and the upkeep of memory. -/
def Obligations.StrainersAndUpkeep : Prop := StrainerRules ∧ MemoryUpkeep

/-! ### Firmware, templates, alarms, worlds and attestation (R377, R380 to R385, R430, R435, R442, R445) -/

/-- R381 to R383: the window opens where no recovery is in flight and no kill point is near; when the new Afzan is ready its slot runs, event
0xA002 is written and FW_ACTIVATE is answered OK after the window's work; a watchdog expiry rolls back with event 0xA003 and answers
ABORTED. R380: a staged image stands in the other slot, with event 0xA001. R442: new alias keys are a new generation. -/
def Obligations.FirmwareActivation : Prop :=
  (∀ (s : State), s.firm.act = .asked → s.jobs.recovery = 0 → killNear s = false → s.safe.kettleFault = false → s.pw.supplied = true →
    Runs .activationWindowOpen s fun t => t.firm.act = .open_ ∧ t.firm.openedAt = s.ktime ∧ t.firm.attest = [] ∧ t.firm.slot = s.firm.slot ∧
      (s.pw.st = .hush → s.pw.parking = 0 → s.pw.thermalDoze = false → s.pw.forced = false → t.pw.st = .run)) ∧
  (∀ (s : State), s.firm.act = .open_ → windowTime s < 2000000 →
    RunsThen .activationReady s
        (fun u => if bitOf s.firm.actFlags 0 then afiNotices (finish s.firm.actPend ok (endWindow u)) else finish s.firm.actPend ok (endWindow u))
      fun u => u.firm.slot = 1 - s.firm.slot ∧ u.firm.committed = bitOf s.firm.actFlags 1 ∧ u.firm.staged = false ∧
        u = { s with firm := u.firm, party := u.party, caddy := u.caddy } ∧
        Logs 0xA002 srcAfzan (leBytes 1 u.firm.slot ++ leBytes 4 (runSlot u).release ++ leBytes 4 (windowTime s / 100)) s u ∧
        (bitOf s.firm.actFlags 1 = true → LogsNth 1 0xA003 srcAfzan (leBytes 1 u.firm.slot ++ leBytes 1 1) s u)) ∧
  (∀ (s : State), s.firm.act = .open_ → 2000000 ≤ windowTime s →
    RunsThen .activationWatchdog s (fun u => finish s.firm.actPend (sts stABORTED) (endWindow u)) fun u => u = { s with caddy := u.caddy } ∧
      Logs 0xA003 srcAfzan (leBytes 1 s.firm.slot ++ leBytes 1 0) s u) ∧
  (∀ (s : State) (d : Pend) (x : Slot) (v : Nat × Nat), s.firm.staging = some (d, x, v) → v.1 = stOK →
    RunsThen (.fwStageDone true) s (finish d (okWith (leBytes 2 x.afi ++ leBytes 4 x.release))) fun u => otherSlot u = x ∧
      runSlot u = runSlot s ∧ u.firm.staged = true ∧ u.firm.staging = none ∧ u = { s with firm := u.firm, caddy := u.caddy } ∧
      Logs 0xA001 srcAfzan (leBytes 1 (1 - s.firm.slot) ++ leBytes 4 x.release ++ leBytes 2 x.afi) s u) ∧
  (∀ (s : State) (b : Bool) (d : Pend) (x : Slot) (v : Nat × Nat), s.firm.staging = some (d, x, v) → v.1 ≠ stOK →
    RunsThen (.fwStageDone b) s (finish d { status := v.1, detail := v.2 }) fun u => u = { s with firm := { s.firm with staging := none } }) ∧
  (∀ (s : State) (d : Pend) (x : Slot) (v : Nat × Nat), s.firm.staging = some (d, x, v) → v.1 = stOK →
    RunsThen (.fwStageDone false) s (finish d (sts stDATA_ERROR)) fun u => otherSlot u = {} ∧ runSlot u = runSlot s ∧ u.firm.staged = false) ∧
  (∀ (s : State), s.firm.deriving_ = true →
    Runs .aliasDerived s fun t => t = { s with firm := { s.firm with deriving_ := false, aliasGen := s.firm.aliasGen + 1 } })

/-- R371: a template load that ends well gives a handle and the pieces of its copy; a bad image is answered BAD_ARG with the offset. R377:
an alarm that fires is cleared, and its notice is pushed. -/
def Obligations.TemplatesAndAlarms : Prop :=
  (∀ (p : Party) (s : State) (d : Pend) (a n : Nat) (rest : List (Pend × Nat × Nat)) (ps : List Nat),
    (getParty s (pidx p)).loading = (d, a, n) :: rest → d.party = pidx p → admitting s = true → tmplBad (memRead s a n) n = none →
    (tmplsOf s (pidx p)).length < 256 →
    allocPieces (modParty s (pidx p) fun t => { t with loading := rest }) (pidx p)
      (reqGrant (modParty s (pidx p) fun t => { t with loading := rest }) (pidx p)).cg (piecesFor (copyBytes (memRead s a n))) = some ps →
    ∃ h u, exec (.templateLoadDone p) s = .next (finish d (okWith (leBytes 2 h)) u) ∧ 1 ≤ h ∧ h ≤ 65535 ∧
      u.jobs = { s.jobs with tmpls := s.jobs.tmpls ++ [{ party := pidx p, handle := h, image := memRead s a n, pieces := ps }] } ∧
      (getParty u (pidx p)).loading = rest ∧ (getParty u (pidx p)).nextHandle = h % 65535 + 1 ∧ u = { s with jobs := u.jobs, party := u.party }) ∧
  (∀ (p : Party) (s : State) (d : Pend) (a n o : Nat) (rest : List (Pend × Nat × Nat)),
    (getParty s (pidx p)).loading = (d, a, n) :: rest → admitting s = true → tmplBad (memRead s a n) n = some o →
    RunsThen (.templateLoadDone p) s (finish d (badBuf o)) fun u => u = modParty s (pidx p) fun t => { t with loading := rest }) ∧
  (∀ (p : Party) (s : State), (getParty s (pidx p)).alarm.set = true → (getParty s (pidx p)).alarm.time ≤ s.ktime → s.pw.supplied = true →
    (s.pw.st = .run ∨ s.pw.st = .hush ∧ s.pw.parking = 0 ∧ s.pw.thermalDoze = false ∧ s.pw.forced = false) →
    RunsThen (.alarmFire p) s (pushNotice (pidx p) (noticeRec (getParty s (pidx p)).alarm.tag 0x0303 stOK 2 0 s.ktime)) fun u =>
      getParty u (pidx p) = { getParty s (pidx p) with alarm := {} } ∧ u.pw.st = .run ∧ MemSame s u ∧ u.queue = s.queue)

/-- R430: when a cluster's harts have stopped, or the Kettle has stopped them after 100 ms, the cluster joins its new world, with event 0x4004,
and WORLD_SET moves on; outside a change its harts stay stopped. R435: a secure restart ends with GS's mailbox open again, or DENIED with
the secure harts down, with event 0x4005. R445: a signed report is written to its buffer, with event 0x4007. -/
def Obligations.WorldsAndAttestation : Prop :=
  (∀ (c : Fin 4) (s : State), awake s = true → bitOf s.world.changing c.val = true →
    RunsThen (.hartsStop c) s worldDone fun u => u.world.clusters = setBit s.world.clusters c.val (bitOf s.world.target c.val) ∧
      u.world.changing = setBit s.world.changing c.val false ∧
      Logs 0x4004 srcAfzan (leBytes 1 2 ++ leBytes 2 s.world.clusters ++ leBytes 2 u.world.clusters ++ leBytes 1 0) s u ∧ MemSame s u) ∧
  (∀ (c : Fin 4) (s : State), awake s = true → bitOf s.world.changing c.val = false →
    Runs (.hartsStop c) s fun t => t = { s with world := { s.world with stopped := setBit s.world.stopped c.val true } }) ∧
  (∀ (c : Fin 4) (s : State), awake s = true → bitOf s.world.changing c.val = true → 10000000 ≤ ktSince s s.world.changeAt →
    RunsThen (.hartStopTimeout c) s worldDone fun u => u.world.clusters = setBit s.world.clusters c.val (bitOf s.world.target c.val) ∧
      u.world.changing = setBit s.world.changing c.val false ∧ ∃ n, 1 ≤ n ∧ n ≤ 4 ∧
      Logs 0x4004 srcAfzan (leBytes 1 2 ++ leBytes 2 s.world.clusters ++ leBytes 2 u.world.clusters ++ leBytes 1 n) s u) ∧
  (∀ (s : State) (wipe : Bool) (a n : Nat) (d : Pend), s.world.restart = some (wipe, a, n, d) → s.safe.kettleFault = false →
    s.firm.act ≠ .open_ → awake s = true →
    RunsThen (.secureRestartDone false) s (restartAnswer d (sts stDENIED)) fun u => u.world = { s.world with restart := none, secureDown := true } ∧
      Logs 0x4005 srcAfzan (leBytes 1 1 ++ leBytes 1 (b2n wipe) ++ leBytes 4 s.world.restarts) s u ∧
      u = { s with world := u.world, caddy := u.caddy }) ∧
  (∀ (s : State) (wipe : Bool) (a n : Nat) (d : Pend), s.world.restart = some (wipe, a, n, d) → s.safe.kettleFault = false →
    s.firm.act ≠ .open_ → awake s = true → a ≠ 0 →
    Runs (.secureRestartDone true) s fun t => t.world.restart = none ∧ ((verdict s 5 32 1 3 (memRead s a n)).1 = stOK →
      t.world.gsClosed = false ∧ t.world.wiped = wipe ∧ t.world.restarts = (s.world.restarts + 1) % 2 ^ 32 ∧
      (getParty t 16).noticeOn = false ∧ t.firm.mSecure = sha (memRead s a n) ∧
      Logs 0x4005 srcAfzan (leBytes 1 0 ++ leBytes 1 (b2n wipe) ++ leBytes 4 t.world.restarts) s t)) ∧
  (∀ (ms : Nat) (s : State) (d : Pend) (a : Nat) (nonce : List Byte) (rest : List (Pend × Nat × List Byte)),
    s.firm.attest = (d, a, nonce) :: rest → s.firm.act ≠ .open_ → s.safe.kettleFault = false → awake s = true →
    inGrantNoPool s d.party a 17120 = true →
    RunsThen (.attestSigned ms) s (finish d (okWith (leBytes 4 17120))) fun u => u.firm.attest = rest ∧
      memRead u a (s.firm.body ++ signedBy (2 + s.firm.aliasGen) s.firm.body).length = s.firm.body ++ signedBy (2 + s.firm.aliasGen) s.firm.body ∧
      MemOutside a (s.firm.body ++ signedBy (2 + s.firm.aliasGen) s.firm.body).length s u ∧
      Logs 0x4007 srcAfzan (leBytes 1 d.party ++ leBytes 4 ms) s u) ∧
  (∀ (ms : Nat) (s : State) (d : Pend) (a : Nat) (nonce : List Byte) (rest : List (Pend × Nat × List Byte)),
    s.firm.attest = (d, a, nonce) :: rest → s.firm.act ≠ .open_ → s.safe.kettleFault = false → awake s = true →
    inGrantNoPool s d.party a 17120 = false →
    RunsThen (.attestSigned ms) s (finish d (sts stDENIED)) fun u => u.firm.attest = rest ∧ u = { s with firm := u.firm })

/-! ### The mailbox protocol (R357 to R362) -/

namespace Sys2Proof.Claims

/-- A sample of messages whose answer sets off no further work, with what R362 checks of each: code, LENGTH and senders. -/
abbrev PlainMsg (f : Msg → Instr) (code len : Nat) (allow : Nat → Bool) : Prop :=
  (f = .afiVersion ∧ code = 0x0001 ∧ len = 0 ∧ allow = isPartyGx) ∨ (f = .irqRoute ∧ code = 0x0003 ∧ len = 16 ∧ allow = isParty) ∨
  (f = .queueBind ∧ code = 0x0100 ∧ len = 40 ∧ allow = isParty) ∨ (f = .leafStats ∧ code = 0x0104 ∧ len = 8 ∧ allow = isPartyGx) ∨
  (f = .powerLimitSet ∧ code = 0x0301 ∧ len = 4 ∧ allow = isGs) ∨ (f = .memStats ∧ code = 0x0403 ∧ len = 4 ∧ allow = isParty) ∨
  (f = .dspStats ∧ code = 0x0513 ∧ len = 4 ∧ allow = isParty) ∨ (f = .fusOpen ∧ code = 0x0610 ∧ len = 64 ∧ allow = isParty) ∨
  (f = .faultStatus ∧ code = 0x0703 ∧ len = 0 ∧ allow = isGsGx) ∨ (f = .windowOpen ∧ code = 0x0900 ∧ len = 32 ∧ allow = isParty) ∨
  (f = .fieldRead ∧ code = 0x0A11 ∧ len = 2 ∧ allow = isPartyGx) ∨ (f = .fwCommit ∧ code = 0x0B02 ∧ len = 0 ∧ allow = isGs)

end Sys2Proof.Claims

/-- R362: the checks that come before a message's own, in their order, with their answers: BUSY in an activation window; BAD_ARG for a LENGTH
that does not match, a STATUS, FLAGS or DETAIL that is not 0, or a reserved field that is not 0; DENIED for another sender; BUSY for a
frozen guest. Nothing of the message takes effect: the answer leaves from the state in which the message was read. -/
def Obligations.MessageChecks : Prop :=
  ∀ (f : Msg → Instr) (code len : Nat) (allow : Nat → Bool), PlainMsg f code len allow → ∀ (m : Msg) (s : State),
    served (pidx m.sender) s = true →
    let p := pidx m.sender
    let say := fun (a : Ans) (u : State) => exec (f m) s = .next (answer p code m.tag.toNat a u)
    (s.firm.act = .open_ → say (sts stBUSY) (tookTurn p s)) ∧
    (s.firm.act ≠ .open_ → s.boot.ready = true →
      ((m.payload.length ≠ m.length.toNat ∨ m.length.toNat ≠ len) → say { status := stBAD_ARG, detail := 2 } (atTaking m s)) ∧
      (m.payload.length = m.length.toNat → m.length.toNat = len →
        (m.status ≠ 0 → say { status := stBAD_ARG, detail := 4 } (atTaking m s)) ∧
        (m.status = 0 → m.flags ≠ 0 → say { status := stBAD_ARG, detail := 5 } (atTaking m s)) ∧
        (m.status = 0 → m.flags = 0 → m.detail ≠ 0 → say { status := stBAD_ARG, detail := 16 } (atTaking m s)) ∧
        (m.status = 0 → m.flags = 0 → m.detail = 0 → m.rsv ≠ 0 → say { status := stBAD_ARG, detail := 24 } (atTaking m s)) ∧
        (m.status = 0 → m.flags = 0 → m.detail = 0 → m.rsv = 0 →
          (allow p = false → say (sts stDENIED) (atTaking m s)) ∧
          (allow p = true → (getParty s p).frozen ≠ 0 → frozenMsg code = false → say (sts stBUSY) (atTaking m s)))))

/-! ### Core messages (R140, R158, R212 to R220, R242 to R245, R364, R366, R369 to R373) -/

/-- AFI_VERSION answers the running version and changes nothing; MBOX_SET moves the mailbox once its answer is out; IRQ_ROUTE sets both routes;
QUEUE_BIND gives a queue its descriptor, empty, and QUEUE_UNBIND takes it away; TEMPLATE_LOAD waits for its copy; TEMPLATE_FREE frees a
template at once, or waits for the last job that runs it; LEAF_STATS reads counters and clears OVF, or clears them; LEAF_FENCE fences. -/
def Obligations.CoreMessages : Prop :=
  (∀ (m : Msg) (s : State), Taken 0x0001 isPartyGx (lenIs 0) m s →
    Says id (.afiVersion m) 0x0001 m s (okWith (versionBytes s)) fun r u => u = r) ∧
  (∀ (m : Msg) (s : State), Taken 0x0002 isParty (lenIs 16) m s → fld m 0 6 % 8192 = 0 → fld m 6 2 = 0 → fld m 12 4 = 0 →
    bitsOf (fld m 8 4) 30 18 = 0 → (fld m 0 6 ≠ 0 → inReq s (pidx m.sender) (fld m 0 6) 8192 = true) →
    (bitOf (fld m 8 4) 31 = true → qReq s (pidx m.sender) (fld m 8 4 % 2 ^ 18) = true ∧ (getQ s (fld m 8 4 % 2 ^ 18)).bound = true ∧
      (getQ s (fld m 8 4 % 2 ^ 18)).kind = 1 ∧ (getQ s (fld m 8 4 % 2 ^ 18)).esize = 1 ∧ (getQ s (fld m 8 4 % 2 ^ 18)).prod = 3 ∧
      swEnd (getQ s (fld m 8 4 % 2 ^ 18)).cons = true) →
    (getParty s (pidx m.sender)).outstanding = 0 →
    Says (fun t => settle (moveMbox (pidx m.sender) t)) (.mboxSet m) 0x0002 m s ok fun r u =>
      u = modParty r (pidx m.sender) fun x => { x with
        mboxNext := fld m 0 6, noticeOn := bitOf (fld m 8 4) 31, notice := if bitOf (fld m 8 4) 31 then fld m 8 4 % 2 ^ 18 else 0 }) ∧
  (∀ (m : Msg) (s : State), Taken 0x0003 isParty (lenIs 16) m s → firstBad (irqBad m 0 ++ irqBad m 8) = none →
    irqDenied s (pidx m.sender) (irqEntry m 0) = false → irqDenied s (pidx m.sender) (irqEntry m 8) = false →
    Says id (.irqRoute m) 0x0003 m s ok fun r u =>
      u = modParty r (pidx m.sender) fun x => { x with irq0 := irqEntry m 0, irq1 := irqEntry m 8 }) ∧
  (∀ (m : Msg) (s : State), Taken 0x0100 isParty (lenIs 40) m s → fld m 0 4 < 2 ^ 18 → fld m 4 4 = 0 → qReq s (pidx m.sender) (fld m 0 4) = true →
    firstBad (bindBad m (queueOf m 8)) = none →
    ownBytes s (pidx m.sender) (queueOf m 8).base ((queueOf m 8).n * (queueOf m 8).esz) = true →
    ((queueOf m 8).kind = 0 → ownBytes s (pidx m.sender) (queueOf m 8).tbase ((queueOf m 8).n * (queueOf m 8).stride) = true) →
    queueBusy s (fld m 0 4) = false →
    Says id (.queueBind m) 0x0100 m s ok fun r u => getQ u (fld m 0 4) = queueOf m 8 ∧ (getQ u (fld m 0 4)).tail = 0 ∧
      (getQ u (fld m 0 4)).head = 0 ∧ (getQ u (fld m 0 4)).bound = true ∧ OnlyQ (fld m 0 4) r u ∧ u = { r with queue := u.queue }) ∧
  (∀ (m : Msg) (s : State), Taken 0x0101 isParty (lenIs 4) m s → fld m 0 4 < 2 ^ 18 → qInGrant s (pidx m.sender) (fld m 0 4) false = true →
    (getQ s (fld m 0 4)).bound = true → queueBusy s (fld m 0 4) = false →
    Says settle (.queueUnbind m) 0x0101 m s ok fun r u => (getQ u (fld m 0 4)).bound = false ∧ OnlyQ (fld m 0 4) r u ∧
      u = { r with queue := u.queue }) ∧
  (∀ (m : Msg) (s : State), Taken 0x0102 isParty (lenIs 16) m s → Room m s → fld m 6 2 = 0 → fld m 8 4 ≠ 0 → fld m 8 4 ≤ 0x4000000 →
    fld m 12 4 = 0 → inReq s (pidx m.sender) (fld m 0 6) (fld m 8 4) = true →
    Waits id (.templateLoad m) 0x0102 m s fun d r u =>
      u = modParty r (pidx m.sender) fun x => { x with loading := x.loading ++ [(d, fld m 0 6, fld m 8 4)] }) ∧
  (∀ (m : Msg) (s : State) (x : Tmpl), Taken 0x0103 isParty (lenIs 2) m s → tmplOf s (pidx m.sender) (fld m 0 2) = some x → x.freePend = none →
    tmplRuns s (pidx m.sender) (fld m 0 2) = false →
    Says settle (.templateFree m) 0x0103 m s ok fun r u => tmplOf u (pidx m.sender) (fld m 0 2) = none ∧ u = { r with jobs := u.jobs } ∧
      ∀ y ∈ s.jobs.tmpls, (y.party ≠ pidx m.sender ∨ y.handle ≠ fld m 0 2) → y ∈ u.jobs.tmpls) ∧
  (∀ (m : Msg) (s : State) (x : Tmpl), Taken 0x0103 isParty (lenIs 2) m s → Room m s → tmplOf s (pidx m.sender) (fld m 0 2) = some x →
    x.freePend = none → tmplRuns s (pidx m.sender) (fld m 0 2) = true →
    Waits settle (.templateFree m) 0x0103 m s fun d r u =>
      u = { r with jobs := { r.jobs with tmpls := r.jobs.tmpls.map fun y => if y = x then { y with freePend := some d } else y } }) ∧
  (∀ (m : Msg) (s : State), Taken 0x0104 isPartyGx (lenIs 8) m s → fld m 4 1 < 2 → fld m 5 3 = 0 →
    let ls := if fld m 0 1 = 0 then [fld m 2 2] else (getEst s (fld m 1 1)).leaves
    ((fld m 0 1 = 0 ∧ fld m 2 2 < 168 ∧ ((getLeaf s (fld m 2 2)).kind = .enabled ∨ (getLeaf s (fld m 2 2)).kind = .spare) ∧
        (16 ≤ pidx m.sender ∨ ∃ e, estOf s (fld m 2 2) = some e ∧ (getEst s e).party = pidx m.sender)) ∨
      (fld m 0 1 = 1 ∧ fld m 1 1 < 16 ∧ (getEst s (fld m 1 1)).live = true ∧
        (16 ≤ pidx m.sender ∨ (getEst s (fld m 1 1)).party = pidx m.sender))) →
    Says id (.leafStats m) 0x0104 m s (okWith ((List.range 5).flatMap fun k => statBytes (leafStat s ls k))) fun r u =>
      u = { r with lv := u.lv } ∧ ∀ l, getLeaf u l = if l ∈ ls then readStats (bitOf (fld m 4 1) 0) (getLeaf s l) else getLeaf s l) ∧
  (∀ (m : Msg) (s : State), Taken 0x0105 isGs (lenIs 2) m s → fld m 0 2 < 168 →
    ((getLeaf s (fld m 0 2)).kind = .enabled ∨ (getLeaf s (fld m 0 2)).kind = .spare) → estOf s (fld m 0 2) = none →
    Says id (.leafFence m) 0x0105 m s ok fun r u => ∃ v, u = settle v ∧ v = fenceLeaf (fld m 0 2) 6 r ∧
      (getLeaf v (fld m 0 2)).kind = .fenced ∧ tget v.boot.map (fld m 0 2) = 3)

/-! ### Grants, estates and guests (R212 to R220, R242 to R245) -/

namespace Sys2Proof.Claims

/-- A guest-state message of GS that passes the header checks but for its LENGTH, whose value for each message the spec does not give
(assumption 59). -/
abbrev GuestTaken (m : Msg) (s : State) : Prop :=
  served 16 s = true ∧ pidx m.sender = 16 ∧ s.firm.act ≠ .open_ ∧ s.boot.ready = true ∧ headerBad m (fun _ => true) = none ∧
  (getParty s 16).frozen = 0

/-- The payload is one that the message's layout, which the spec does not give, takes as well-formed, and it names a guest. -/
abbrev GuestGood (code : Nat) (m : Msg) : Prop :=
  Config.guestLen code m.length.toNat = true ∧ Config.guestBad code m.payload = none ∧ guestOf code m < 16

/-- What a guest-state message of GS does: `P` where its payload is well-formed, BAD_ARG and nothing else where it is not. -/
def GuestSays (c : Instr) (code : Nat) (m : Msg) (s : State) (P : Ans → State → State → Prop) : Prop :=
  ∃ a u, exec c s = .next (answer 16 code m.tag.toNat a u) ∧ (GuestGood code m → P a (atTaking m s) u) ∧
    (¬ GuestGood code m → a.status = stBAD_ARG ∧ u = atTaking m s)

end Sys2Proof.Claims

/-- R213, R431: a first grant that nobody else holds is taken at once, with event 0xA048; one that names what others hold is refused
NO_RESOURCE. R216: a new estate has the lowest free number, with event 0xA043; a change of an estate that runs a job waits for its end
(R217); an estate that rests is freed at once. R242 to R245: a guest that runs nothing freezes at once, is saved to its own grant in an image
that stands for its state, rebuilt and thawed, with event 0xA047. -/
def Obligations.GrantEstateAndGuestMessages : Prop :=
  (∀ (m : Msg) (s : State), Taken 0x0200 isGs grantLen m s → firstBad (grantBad s m (grantOf m)) = none →
    grantDenied s (fld m 0 1) (grantOf m) = false → (getParty s (fld m 0 1)).grantPend = none → grantShared s (fld m 0 1) (grantOf m) = 0 →
    leavesLack s (fld m 0 1) (grantOf m) = 0 → (getParty s (fld m 0 1)).grant = {} → estatesOf s (fld m 0 1) = [] → s.mem.unzeroed = false →
    (∀ g ∈ granules (grantOf m).dram, tget s.mem.lastOwner g = 0 ∧ g ∉ s.mem.zeroing) → (∀ x ∈ s.cross.win, x.2.owner ≠ fld m 0 1) →
    Says (fun t => enterByVotes (settle t)) (.grantSet m) 0x0200 m s ok fun r u => (getParty u (fld m 0 1)).grant = grantOf m ∧
      (getParty u (fld m 0 1)).grantPend = none ∧ (∀ p, p ≠ fld m 0 1 → getParty u p = getParty r p) ∧
      Logs 0xA048 srcAfzan (leBytes 1 (fld m 0 1) ++ leBytes 2 (grantOf m).leaves ++ leBytes 1 (grantOf m).cg ++
        leBytes 2 (grantOf m).ways ++ leBytes 1 1) r u) ∧
  (∀ (m : Msg) (s : State), Taken 0x0200 isGs grantLen m s → firstBad (grantBad s m (grantOf m)) = none →
    grantDenied s (fld m 0 1) (grantOf m) = false → (getParty s (fld m 0 1)).grantPend = none → grantShared s (fld m 0 1) (grantOf m) ≠ 0 →
    Says (fun t => enterByVotes (settle t)) (.grantSet m) 0x0200 m s (noRes (grantShared s (fld m 0 1) (grantOf m))) fun r u => u = r) ∧
  (∀ (m : Msg) (s : State) (ls : List Nat) (e : Nat), Taken 0x0201 isParty (lenIs 32) m s → fld m 0 1 = 0xFF → (descOf m).secure = false →
    firstBad (descBad s (pidx m.sender) m (descOf m)) = none → descDenied s (pidx m.sender) (descOf m) = false →
    estLack s (pidx m.sender) 16 (descOf m).leaves = 0 → (estatesOf s (pidx m.sender)).length < (reqGrant s (pidx m.sender)).estates →
    placeEst s 16 (descOf m).leaves = some ls → (List.range 16).find? (fun x => !(getEst s x).live) = some e →
    Says settle (.estateSet m) 0x0201 m s (okWith (leBytes 1 e ++ leBytes 3 0)) fun r u =>
      getEst u e = { live := true, party := pidx m.sender, desc := { descOf m with leaves := ls.length }, leaves := ls } ∧
      (∀ j, j ≠ e → getEst u j = getEst s j) ∧
      Logs 0xA043 srcAfzan (leBytes 1 e ++ leBytes 1 (pidx m.sender) ++ leBytes 2 0 ++ leBytes 2 ls.length ++ leBytes 1 0) r u) ∧
  (∀ (m : Msg) (s : State), Taken 0x0201 isParty (lenIs 32) m s → Room m s → fld m 0 1 < 16 → (getEst s (fld m 0 1)).live = true →
    (getEst s (fld m 0 1)).party = pidx m.sender → (descOf m).secure = false → (getEst s (fld m 0 1)).desc.secure = false →
    firstBad (descBad s (pidx m.sender) m (descOf m)) = none → descDenied s (pidx m.sender) (descOf m) = false →
    estLack s (pidx m.sender) (fld m 0 1) (descOf m).leaves = 0 →
    ((descOf m).leaves = (getEst s (fld m 0 1)).leaves.length ∨ placeLack s (fld m 0 1) (descOf m).leaves = 0) →
    estBusy s (fld m 0 1) = false → boundary s (fld m 0 1) = false →
    Waits settle (.estateSet m) 0x0201 m s fun d r u => u = modEst r (fld m 0 1) fun z => { z with change := .set (descOf m) d }) ∧
  (∀ (m : Msg) (s : State), Taken 0x0202 isParty (lenIs 4) m s → fld m 0 1 < 16 → (getEst s (fld m 0 1)).party = pidx m.sender →
    fld m 1 3 = 0 → estBusy s (fld m 0 1) = false → boundary s (fld m 0 1) = true →
    Says (fun t => enterByVotes (settle t)) (.estateFree m) 0x0202 m s ok fun r u => u = freeEstate (fld m 0 1) r ∧
      getEst u (fld m 0 1) = {}) ∧
  (∀ (m : Msg) (s : State), GuestTaken m s → (∀ p < 16, (getParty s p).frozen = 0 ∧ partyRuns s p = false) →
    GuestSays (.guestFreeze m) 0x0203 m s fun a r u => a = ok ∧
      getParty u (guestOf 0x0203 m) = { getParty s (guestOf 0x0203 m) with frozen := 2 } ∧
      u = { r with party := u.party, caddy := u.caddy } ∧ Logs 0xA047 srcAfzan (leBytes 1 (guestOf 0x0203 m) ++ leBytes 1 2) r u) ∧
  (∀ (m : Msg) (s : State), GuestTaken m s → (∀ p < 16, (getParty s p).frozen = 2) →
    GuestSays (.guestThaw m) 0x0206 m s fun a r u => a = ok ∧
      getParty u (guestOf 0x0206 m) = { getParty s (guestOf 0x0206 m) with frozen := 0 } ∧
      u = { r with party := u.party, caddy := u.caddy } ∧ Logs 0xA047 srcAfzan (leBytes 1 (guestOf 0x0206 m) ++ leBytes 1 0) r u) ∧
  (∀ (m : Msg) (s : State), GuestTaken m s → (∀ p < 16, (getParty s p).frozen = 2) →
    let p := guestOf 0x0204 m
    let a := Config.guestField 0x0204 1 m.payload
    let n := Config.guestField 0x0204 2 m.payload
    GuestSays (.guestSave m) 0x0204 m s fun x r u =>
      (inReq s p a n = false → x = sts stDENIED ∧ u = r) ∧
      (inReq s p a n = true → n < (guestBytes r p).length → x = noRes (guestBytes r p).length ∧ u = r) ∧
      (inReq s p a n = true → (guestBytes r p).length ≤ n → x = ok ∧
        u = guestEvent p 3 (putBytes byKettle a (guestBytes r p) (noteImage p r)) ∧
        memRead u a (guestBytes r p).length = guestBytes r p ∧
        imageState u (Config.guestEncode (guestState r p)) = some (guestState r p))) ∧
  (∀ (m : Msg) (s : State), GuestTaken m s →
    let p := guestOf 0x0205 m
    let a := Config.guestField 0x0205 1 m.payload
    let hdr := memRead s a 128
    let img := memRead s a (field hdr 8 8)
    GuestSays (.guestRestore m) 0x0205 m s fun x r u =>
      (inReq s 16 a 128 = false → x = sts stDENIED ∧ u = r) ∧
      (∀ g t, inReq s 16 a 128 = true → restoreBad s hdr = none → 128 ≤ field hdr 8 8 → inReq s 16 a (field hdr 8 8) = true →
        sha (digestless img) = (img.drop 16).take 48 → imageState s (img.drop 128) = some g → estatesOf s p = [] → tmplsOf s p = [] →
        boundQueues s p = [] → grantSmaller (reqGrant s p) g.grant = false → rebuild p g r = some t →
        x = ok ∧ (getParty u p).frozen = 2 ∧ tget u.firm.restored p = (img.drop 16).take 48))

/-! ### Power and memory messages (R351 to R353, R374 to R379) -/

/-- R374: POWER_VOTE records the vote and the divider, which the clock follows; GX's FORCE_DOZE forces Doze, and its vote without it ends a
forced Doze. R375: POWER_LIMIT_SET sets the limits. R376: PARK_KEEP replaces
the sender's list. R377: ALARM_SET sets, replaces or cancels the alarm, and one whose time has come fires at once. R378: BLOCK_POWER runs,
stops or powers off a block of the sender, which power off also closes; a request for a secure-held block of GS is refused DENIED, with event 0x4003. R379: RESUME_SET registers a resume vector. -/
def Sys2Proof.Claims.PowerMessages : Prop :=
  (∀ (m : Msg) (s : State), Taken 0x0300 isPartyGx (lenIs 8) m s →
    (fld m 0 1 = 0 ∨ fld m 0 1 = 2 ∨ fld m 0 1 = 3 ∨ fld m 0 1 = 4) → fld m 1 1 < 4 → (2 ≤ fld m 1 1 → pidx m.sender = 17) →
    (fld m 2 1 = 0 ∨ (fld m 2 1 ∈ tclkSteps ∧ s.part.floor ≤ fld m 2 1)) → fld m 3 5 = 0 →
    Says enterByVotes (.powerVote m) 0x0300 m s ok fun r u =>
      let v := settleDiv (modParty r (pidx m.sender) fun x => { x with
        voted := true, vote := fld m 0 1, saved := bitOf (fld m 1 1) 0, divider := if fld m 2 1 = 0 then x.divider else fld m 2 1 })
      u = if pidx m.sender = 17 then (if 2 ≤ fld m 1 1 then forceDoze v else releaseDoze v) else v) ∧
  (∀ (m : Msg) (s : State), Taken 0x0301 isGs (lenIs 4) m s →
    (fld m 0 2 = 0 ∨ (fld m 0 2 ≤ fusedCap s ∧ fusedCap s ≤ 2 * fld m 0 2)) → (fld m 2 1 = 0 ∨ (95 ≤ fld m 2 1 ∧ fld m 2 1 ≤ 115)) →
    fld m 3 1 = 0 →
    Says id (.powerLimitSet m) 0x0301 m s ok fun r u => u = { r with pw := { r.pw with capW := fld m 0 2, throttleC := fld m 2 1 } }) ∧
  (∀ (m : Msg) (s : State),
    Taken 0x0302 isParty (fun m => decide (8 ≤ m.length.toNat) && (decide (m.length.toNat = 8 + 8 * fld m 0 1) || decide (16 < fld m 0 1))) m s →
    fld m 0 1 ≤ 16 → fld m 1 7 = 0 →
    (∀ k ∈ keepList m, k.addr % 0x200000 = 0 ∧ inReq s (pidx m.sender) k.addr (k.units * 0x200000) = true ∧
      inKept s k.addr (k.units * 0x200000) = true) →
    keptUnits s (pidx m.sender) + ((keepList m).map (·.units)).sum ≤ 1920 →
    Says id (.parkKeep m) 0x0302 m s ok fun r u => u = modParty r (pidx m.sender) fun x => { x with keep := keepList m }) ∧
  (∀ (m : Msg) (s : State), Taken 0x0303 isParty (lenIs 16) m s → (getParty s (pidx m.sender)).noticeOn = true → fld m 8 1 < 2 →
    fld m 9 7 = 0 →
    Says id (.alarmSet m) 0x0303 m s ok fun r u =>
      let v := modParty r (pidx m.sender) fun x => { x with
        alarm := if fld m 0 8 = 0 then {} else { set := true, time := fld m 0 8, wake := bitOf (fld m 8 1) 0, tag := m.tag.toNat } }
      u = if fld m 0 8 ≠ 0 ∧ fld m 0 8 ≤ s.ktime then fireAlarm (pidx m.sender) v else v) ∧
  (∀ (m : Msg) (s : State), Taken 0x0304 isParty (lenIs 8) m s → (fld m 0 1 ∈ [1, 4, 5, 6, 7, 9, 10]) →
    blockRange (fld m 0 1) (fld m 1 2) = true → blockOwner s (fld m 0 1) (fld m 1 2) = pidx m.sender + 1 → fld m 3 1 < 2 → fld m 4 4 = 0 →
    (fld m 0 1 = 1 → fld m 3 1 = 1 → bitOf s.world.stopped (fld m 1 2) = true) →
    Says id (.blockPower m) 0x0304 m s ok fun r u => u = { r with pw := { r.pw with blocks := u.pw.blocks } } ∧
      tget u.pw.blocks (fld m 0 1 * 65536 + fld m 1 2) = fld m 3 1 ∧
      ∀ k, k ≠ fld m 0 1 * 65536 + fld m 1 2 → tget u.pw.blocks k = tget s.pw.blocks k) ∧
  (∀ (m : Msg) (s : State), Taken 0x0304 isParty (lenIs 8) m s → (fld m 0 1 ∈ [1, 4, 5, 6, 7, 9, 10]) →
    blockRange (fld m 0 1) (fld m 1 2) = true → blockOwner s (fld m 0 1) (fld m 1 2) = pidx m.sender + 1 → fld m 3 1 = 2 → fld m 4 4 = 0 →
    (fld m 0 1 = 1 → bitOf s.world.stopped (fld m 1 2) = true) →
    Says id (.blockPower m) 0x0304 m s ok fun _ u =>
      tget u.pw.blocks (fld m 0 1 * 65536 + fld m 1 2) = (if fld m 0 1 = 1 ∨ fld m 0 1 = 7 then 2 else 0) ∧
      (fld m 0 1 ≠ 1 → blockOwner u (fld m 0 1) (fld m 1 2) = 0)) ∧
  (∀ (m : Msg) (s : State), Taken 0x0304 isParty (lenIs 8) m s → (fld m 0 1 ∈ [1, 4, 5, 6, 7]) →
    blockRange (fld m 0 1) (fld m 1 2) = true → blockOwner s (fld m 0 1) (fld m 1 2) = 17 → pidx m.sender ≠ 16 →
    (fld m 3 1 = 1 ∨ fld m 3 1 = 2) →
    Says id (.blockPower m) 0x0304 m s (sts stDENIED) fun r u => u.pw = r.pw ∧ u.media = r.media ∧ u.cap = r.cap ∧
      Logs 0x4003 srcAfzan (leBytes 1 (fld m 0 1) ++ leBytes 2 (fld m 1 2) ++ leBytes 1 (pidx m.sender) ++
        leBytes 1 (if fld m 3 1 = 2 then 0 else 1)) r u) ∧
  (∀ (m : Msg) (s : State), Taken 0x0305 isParty (lenIs 16) m s → fld m 0 1 < 2 → fld m 1 7 = 0 → fld m 8 8 % 4 = 0 →
    (if fld m 0 1 = 1 then pidx m.sender = 16 ∧ (fld m 8 8 = 0 ∨ (fld m 8 8 < s.world.swm * 0x4000000 ∧ inReq s 16 (fld m 8 8) 4 = true))
     else pidx m.sender = s.world.nwParty ∧ (fld m 8 8 = 0 ∨
       (s.world.swm * 0x4000000 ≤ fld m 8 8 ∧ fld m 8 8 + 4 ≤ dramEnd s ∧ inGrant s 16 (fld m 8 8) 4 = false))) →
    Says id (.resumeSet m) 0x0305 m s ok fun r u => u = modPw r fun x =>
      if fld m 0 1 = 1 then { x with resumeS := fld m 8 8 } else { x with resumeN := fld m 8 8 })

/-- R351: MEM_WAYS_SET sets the mask of the sender's other traffic, within its ways. R352: MEM_CACHE_OP waits for its lines to be written back.
R346: MEM_RANGE_SET gives a Strainer range of the grant its class, place and target. R353: MEM_STATS answers the counters of the sender's
ranges and channel groups; a read clears OVF (R11), and CLEAR the counters. -/
def Sys2Proof.Claims.MemoryMessages : Prop :=
  (∀ (m : Msg) (s : State), Taken 0x0400 isParty (lenIs 4) m s → fld m 2 2 = 0 →
    fld m 0 2 &&& (reqGrant s (pidx m.sender)).ways = fld m 0 2 →
    Says id (.memWaysSet m) 0x0400 m s ok fun r u => u = modParty r (pidx m.sender) fun x => { x with memWays := some (fld m 0 2) }) ∧
  (∀ (m : Msg) (s : State), Taken 0x0401 isParty (lenIs 24) m s → Room m s → fld m 0 1 < 4 → fld m 1 1 = 0 → fld m 4 4 = 0 → fld m 14 2 = 0 →
    (if bitOf (fld m 0 1) 1 then fld m 8 6 = 0 ∧ fld m 16 8 = 0 ∧ fld m 2 2 &&& (reqGrant s (pidx m.sender)).ways = fld m 2 2
     else fld m 2 2 = 0 ∧ fld m 8 6 % 64 = 0 ∧ fld m 16 8 % 64 = 0 ∧ fld m 16 8 ≠ 0 ∧ fld m 8 6 + fld m 16 8 ≤ dramEnd s ∧
       inRanges (reqGrant s (pidx m.sender)).dram (fld m 8 6) (fld m 16 8) (fun _ => true) = true) →
    Waits id (.memCacheOp m) 0x0401 m s fun d r u => u = { r with mem := { r.mem with ops := r.mem.ops ++
      [{ pend := d, inval := bitOf (fld m 0 1) 0, byWays := bitOf (fld m 0 1) 1, ways := fld m 2 2, lo := fld m 8 6 / 64, n := fld m 16 8 / 64 }] } }) ∧
  (∀ (m : Msg) (s : State), Taken 0x0402 isParty (lenIs 16) m s → fld m 0 1 ≤ 15 → bitOf (reqGrant s (pidx m.sender)).ranges (fld m 0 1) = true →
    fld m 1 1 < 4 → fld m 2 1 < 2 → fld m 3 1 = 0 → fld m 6 2 ≠ 0 → fld m 12 4 = 0 →
    (if fld m 1 1 = 1 then 20 ≤ fld m 8 4 ∧ fld m 8 4 ≤ 10000 else fld m 8 4 = 0) →
    inRanges (reqGrant s (pidx m.sender)).dram (fld m 4 2 * 0x4000000) (fld m 6 2 * 0x4000000) (fun _ => true) = true →
    Says id (.memRangeSet m) 0x0402 m s ok fun r u => u = { r with mem := { r.mem with ranges := u.mem.ranges } } ∧
      getRange u (fld m 0 1) = { getRange s (fld m 0 1) with
        cls := fld m 1 1, noalloc := bitOf (fld m 2 1) 0, base := fld m 4 2, count := fld m 6 2, target := fld m 8 4, m := 0, missed := false } ∧
      ∀ j, j ≠ fld m 0 1 → getRange u j = getRange s j) ∧
  (∀ (m : Msg) (s : State), Taken 0x0403 isParty (lenIs 4) m s → fld m 0 1 < 2 → fld m 1 3 = 0 →
    let g := fun (c : Stat) => if fld m 0 1 = 1 then {} else { c with ovf := false }
    Says id (.memStats m) 0x0403 m s (okWith (memStats s (pidx m.sender))) fun r u => u = { r with mem := u.mem } ∧ MemSame r u ∧
      (∀ x ∈ statRanges s (pidx m.sender), getRange u x = { getRange s x with
        reqs := g (getRange s x).reqs, bytes := g (getRange s x).bytes, lat := g (getRange s x).lat, misses := g (getRange s x).misses }) ∧
      (∀ x, x ∉ statRanges s (pidx m.sender) → getRange u x = getRange s x) ∧
      (∀ c ∈ statCgs s (pidx m.sender), (getCg u c).corr = g (getCg s c).corr ∧ (getCg u c).uncorr = g (getCg s c).uncorr ∧
        (getCg u c).hits = g (getCg s c).hits ∧ (getCg u c).misses = g (getCg s c).misses ∧
        (getCg u c).linkCorr = tmap g (getCg s c).linkCorr ∧ (getCg u c).reqs = (getCg s c).reqs) ∧
      ∀ c, c ∉ statCgs s (pidx m.sender) → getCg u c = getCg s c)

/-- Messages of power, clocks, memory and its classes. -/
def Obligations.PowerAndMemoryMessages : Prop := PowerMessages ∧ MemoryMessages

/-! ### Safety and security messages (R396, R409, R417, R418, R429, R430, R435, R443, R445) -/

/-- R396: a pair forms at once where neither estate runs a job, with event 0x300A, and waits where one does. R409: SELFTEST_GAPS sets an
estate's self-test and begins its cycle afresh. R417: SAFE_STATE writes event 0x3007; level 1 stops the named estates for new records and
is answered when their jobs have ended, level 0 releases them. R418: FAULT_STATUS answers the state of safety and clears only OVF. -/
def Sys2Proof.Claims.SafetyMessages : Prop :=
  (∀ (m : Msg) (s : State), Taken 0x0700 isParty (lenIs 16) m s → fld m 0 1 < 16 → fld m 1 1 < 16 → fld m 0 1 ≠ fld m 1 1 →
    (getEst s (fld m 0 1)).live = true → (getEst s (fld m 1 1)).live = true → (getEst s (fld m 0 1)).party = pidx m.sender →
    (getEst s (fld m 1 1)).party = pidx m.sender → fld m 2 1 = 0 → fld m 3 1 = 0 → (fld m 4 4 = 0 ∨ (50 ≤ fld m 4 4 ∧ fld m 4 4 ≤ 100000)) → fld m 8 8 = 0 →
    (getEst s (fld m 0 1)).desc.be = false → (getEst s (fld m 1 1)).desc.be = false → paired s (fld m 0 1) = false → paired s (fld m 1 1) = false →
    (getEst s (fld m 0 1)).leaves.length = (getEst s (fld m 1 1)).leaves.length →
    (getEst s (fld m 0 1)).desc.secure = (getEst s (fld m 1 1)).desc.secure → s.safe.injection = 0x7F →
    let p : Pair := { primary := fld m 0 1, partner := fld m 1 1, window := if fld m 4 4 = 0 then 2000 else fld m 4 4 }
    (pairRuns s p = false → Says id (.safetyPairSet m) 0x0700 m s ok fun r u =>
      u.jobs = { r.jobs with pairs := (r.jobs.pairs.filter fun x => decide (x.primary ≠ p.primary)) ++ [p] } ∧
      Logs 0x300A srcAfzan (leBytes 1 p.primary ++ leBytes 1 p.partner ++ leBytes 1 0 ++ leBytes 1 0) r u) ∧
    (pairRuns s p = true → Room m s → Waits id (.safetyPairSet m) 0x0700 m s fun d r u =>
      u = { r with jobs := { r.jobs with pairPend := r.jobs.pairPend ++ [(p, false, d)] } })) ∧
  (∀ (m : Msg) (s : State), Taken 0x0701 isParty (lenIs 24) m s → fld m 0 1 < 16 → (getEst s (fld m 0 1)).live = true →
    (getEst s (fld m 0 1)).party = pidx m.sender → firstBad (gapsBad s m) = none →
    Says id (.selftestGaps m) 0x0701 m s ok fun r u => EstOnly (fld m 0 1) r u ∧ u.caddy = r.caddy ∧
      getEst u (fld m 0 1) = { getEst s (fld m 0 1) with test :=
        { source := fld m 1 1, pipe := fld m 2 1, period := fld m 4 4, offset := fld m 8 4, len := fld m 12 4
          dti := if fld m 16 4 = 0 then 50000 else fld m 16 4, next := 0, running := (getEst s (fld m 0 1)).test.running
          cycleAt := s.ktime, overdue := false } }) ∧
  (∀ (m : Msg) (s : State), Taken 0x0702 isGx (lenIs 8) m s → Room m s → fld m 0 1 = 1 → fld m 1 1 = 0 → fld m 4 4 = 0 → s.safe.level ≠ 4 →
    s.safe.levelPend = none →
    Waits (fun t => settle (giveDue t)) (.safeState m) 0x0702 m s fun d r u => u.safe.level = max s.safe.level 1 ∧
      u.safe.levelPend = some d ∧ u.safe.levelEst = s.safe.levelEst ||| fld m 2 2 ∧ Logs 0x3007 srcAfzan (leBytes 1 1 ++ leBytes 2 (fld m 2 2)) r u ∧
      ∀ e, getEst u e = { getEst s e with safeStop := (getEst s e).safeStop || ((estates s).contains e && bitOf (fld m 2 2) e) }) ∧
  (∀ (m : Msg) (s : State), Taken 0x0702 isGx (lenIs 8) m s → Room m s → fld m 0 1 = 0 → fld m 1 1 = 0 → fld m 4 4 = 0 → s.safe.level < 3 →
    s.safe.levelPend = none →
    Waits (fun t => settle (giveDue t)) (.safeState m) 0x0702 m s fun d r u => u.safe.level = 0 ∧ u.safe.levelEst = 0 ∧
      u.firm.due = s.firm.due ++ [(d, stOK, 0)] ∧ Logs 0x3007 srcAfzan (leBytes 1 0 ++ leBytes 2 (fld m 2 2)) r u ∧
      ∀ e ∈ estates s, getEst u e = { getEst s e with safeStop := false }) ∧
  (∀ (m : Msg) (s : State), Taken 0x0703 isGsGx (lenIs 0) m s →
    Says id (.faultStatus m) 0x0703 m s (okWith (faultStatus s)) fun r u =>
      u = { r with jobs := { r.jobs with mismatches := r.jobs.mismatches.read, skipped := r.jobs.skipped.read } })

/-- R429, R430: WORLD_SET moves SWM at once, with event 0x4004; a change of clusters waits until their harts have stopped. R435:
SECURE_RESTART waits for its steps, which begin after the PENDING. R443: IDENTITY_GET answers the identity, and writes both statements where
a buffer is named. R445: ATTEST takes its place in line for the signature. -/
def Sys2Proof.Claims.SecurityMessages : Prop :=
  (∀ (m : Msg) (s : State), Taken 0x0800 isGs (lenIs 8) m s → fld m 0 1 = 1 → fld m 1 1 = 0 → fld m 2 1 = 0 → fld m 3 1 = 0 → fld m 6 2 = 0 →
    4 ≤ fld m 4 2 → fld m 4 2 * 0x4000000 ≤ 4 * cgBytes s →
    (∀ c < 8, c * cgBytes s < fld m 4 2 * 0x4000000 → bitOf (reqGrant s 16).cg c = true) → swmLack s (fld m 4 2) = 0 →
    fld m 4 2 ≠ s.world.swm → s.world.pend = none →
    Says settle (.worldSet m) 0x0800 m s ok fun r u => u.world.swm = fld m 4 2 ∧ u.world.lwm = s.world.lwm ∧
      u.world.clusters = s.world.clusters ∧ u = { r with world := u.world, caddy := u.caddy } ∧
      Logs 0x4004 srcAfzan (leBytes 1 0 ++ leBytes 2 s.world.swm ++ leBytes 2 (fld m 4 2) ++ leBytes 1 0) r u) ∧
  (∀ (m : Msg) (s : State), Taken 0x0800 isGs (lenIs 8) m s → Room m s → fld m 0 1 = 4 → fld m 1 1 < 16 → fld m 2 1 = 0 → fld m 3 1 = 0 →
    fld m 4 2 = 0 → fld m 6 2 = 0 → diffMask (fld m 1 1) s.world.clusters ≠ 0 → s.world.pend = none →
    Waits settle (.worldSet m) 0x0800 m s fun d r u => u = { r with world := { r.world with
      changing := diffMask (fld m 1 1) s.world.clusters, target := fld m 1 1, changeAt := s.ktime, pend := some d } }) ∧
  (∀ (m : Msg) (s : State), Taken 0x0801 isGs (lenIs 16) m s → Room m s → fld m 6 2 = 0 → fld m 8 4 ≤ 0x4000000 →
    (fld m 0 6 = 0 ↔ fld m 8 4 = 0) → fld m 12 1 < 2 → fld m 13 3 = 0 →
    (fld m 0 6 ≠ 0 → inReq s 16 (fld m 0 6) (fld m 8 4) = true ∧ fld m 0 6 + fld m 8 4 ≤ s.world.swm * 0x4000000) → s.world.restart = none →
    Waits (restartBegin (bitOf (fld m 12 1) 0) (fld m 0 6) (fld m 8 4)) (.secureRestart m) 0x0801 m s fun d r u =>
      u = { r with world := { r.world with restart := some (bitOf (fld m 12 1) 0, fld m 0 6, fld m 8 4, d) } }) ∧
  (∀ (m : Msg) (s : State), Taken 0x0802 isParty (lenIs 64) m s → Room m s → fld m 0 6 % 64 = 0 → fld m 6 2 = 0 → fld m 12 4 = 0 →
    inReq s (pidx m.sender) (fld m 0 6) (fld m 8 4) = true → 17120 ≤ fld m 8 4 → (∀ x ∈ s.firm.attest, x.1.party ≠ pidx m.sender) →
    Waits id (.attest m) 0x0802 m s fun d r u => u.firm.attest = s.firm.attest ++ [(d, fld m 0 6, (m.payload.drop 16).take 48)] ∧
      u = { r with firm := { r.firm with attest := u.firm.attest, body := u.firm.body } } ∧
      (s.firm.attest = [] → u.firm.body = reportBody r (pidx m.sender) ((m.payload.drop 16).take 48)) ∧
      (s.firm.attest ≠ [] → u.firm.body = s.firm.body)) ∧
  (∀ (m : Msg) (s : State), Taken 0x0803 isPartyGx (lenIs 8) m s → fld m 6 2 = 0 → s.firm.deriving_ = false →
    (fld m 0 6 ≠ 0 → pidx m.sender ≠ 17 ∧ inReq s (pidx m.sender) (fld m 0 6) 34496 = true) →
    Says id (.identityGet m) 0x0803 m s (okWith (identityBytes s)) fun r u => (fld m 0 6 = 0 → u = r) ∧
      (fld m 0 6 ≠ 0 → u = putBytes byKettle (fld m 0 6) (statement s 1 ++ statement s 2) r ∧
        memRead u (fld m 0 6) (statement s 1 ++ statement s 2).length = statement s 1 ++ statement s 2))

/-- Messages of safety and of security. -/
def Obligations.SafetyAndSecurityMessages : Prop := SafetyMessages ∧ SecurityMessages

/-! ### Graphics, display, codec, capture and fusion messages (R264, R269, R279 to R285, R291, R304, R323 to R328) -/

/-- R279, R280: GFX_QUEUE_SET sets a graphics queue; GFX_BIN_GROW gives memory to a pass that waits. R264, R265: PIPE_SET starts a DSI pipe at
once, and waits for the training of another. R282: PIPE_STOP waits for the link to be idle, or answers at once for a pipe that does not
scan out; NOW ends the frame, with its event 0x8007. R281: PIPE_QUEUES binds a pipe's queues. R284, R285: CODEC_OPEN opens the lowest free
session of its direction; CODEC_CLOSE ends one. -/
def Obligations.DisplayAndCodecMessages : Prop :=
  (∀ (m : Msg) (s : State), Taken 0x0500 isParty (lenIs 24) m s → fld m 0 4 < 2 ^ 18 → qReq s (pidx m.sender) (fld m 0 4) = true →
    (getQ s (fld m 0 4)).bound = true → (getQ s (fld m 0 4)).kind = 2 → fld m 4 1 < 4 → fld m 5 3 = 0 →
    (fld m 8 4 = 0 ∨ (50 ≤ fld m 8 4 ∧ fld m 8 4 ≤ 100000)) → (fld m 12 4 = 0 ∨ (100 ≤ fld m 12 4 ∧ fld m 12 4 ≤ 100000)) →
    qOpBad (fld m 16 4) = false → (qOpOn (fld m 16 4) = true → qReq s (pidx m.sender) (qOpId (fld m 16 4)) = true ∧
      qForm s (qOpId (fld m 16 4)) 1 1 (some 3) none = true) → fld m 20 4 = 0 →
    Says id (.gfxQueueSet m) 0x0500 m s ok fun r u => OnlyQ (fld m 0 4) r u ∧
      getQ u (fld m 0 4) = { getQ s (fld m 0 4) with gfxPrio := fld m 4 1, preemptUs := fld m 8 4, binGrowUs := fld m 12 4 } ∧
      tget u.media.faultQ (fld m 0 4) = (if qOpOn (fld m 16 4) then qOpId (fld m 16 4) + 1 else 0) ∧
      u = { r with queue := u.queue, media := { r.media with faultQ := u.media.faultQ } }) ∧
  (∀ (m : Msg) (s : State) (j : Job),
    Taken 0x0501 isParty (fun m => decide (8 ≤ m.length.toNat) && (decide (m.length.toNat = 8 + 8 * fld m 1 1) || decide (16 < fld m 1 1))) m s →
    fld m 0 1 < 16 → (getEst s (fld m 0 1)).live = true → jobOf s (fld m 0 1) = some j → j.party = pidx m.sender → fld m 1 1 ≠ 0 → fld m 1 1 ≤ 16 →
    fld m 2 6 = 0 → (∀ x ∈ growEntries m, x.1 % pieceBytes = 0 ∧ x.2 ≠ 0 ∧ inReq s (pidx m.sender) x.1 (x.2 * pieceBytes) = true) →
    (tget s.media.gfx (fld m 0 1)).grow = true →
    let ps := (growEntries m).flatMap fun x => (List.range x.2).map fun i => x.1 + i * pieceBytes
    Says id (.gfxBinGrow m) 0x0501 m s ok fun r u => u = { r with media := { r.media with gfx := u.media.gfx } } ∧
      tget u.media.gfx (fld m 0 1) = { tget s.media.gfx (fld m 0 1) with
        grown := (tget s.media.gfx (fld m 0 1)).grown ++ ps, cap := (tget s.media.gfx (fld m 0 1)).cap + ps.length * pieceBytes, grow := false } ∧
      ∀ e, e ≠ fld m 0 1 → tget u.media.gfx e = tget s.media.gfx e) ∧
  (∀ (m : Msg) (s : State), Taken 0x0510 isParty (lenIs 32) m s → fld m 0 1 < 6 →
    ((getPipe s (fld m 0 1)).owner = 0 ∨ (getPipe s (fld m 0 1)).owner = pidx m.sender + 1) → firstBad (timingBad m.payload) = none →
    (getPipe s (fld m 0 1)).scan = false → (getPipe s (fld m 0 1)).training = none → (getPipe s (fld m 0 1)).stop = none →
    (4 ≤ fld m 0 1 → Says id (.pipeSet m) 0x0510 m s ok fun r u => MediaOnly r u ∧ (∀ j, j ≠ fld m 0 1 → getPipe u j = getPipe s j) ∧
      getPipe u (fld m 0 1) = { getPipe s (fld m 0 1) with
        owner := pidx m.sender + 1, timing := m.payload, scan := true, training := none, frame := 0, latchAt := s.ktime, layers := []
        link := true, relink := false, lanes := fld m 19 1, rate := fld m 20 2, lineUnder := 0, stopped := 0, bad := none, out := [] }) ∧
    (fld m 0 1 < 4 → Room m s → Waits id (.pipeSet m) 0x0510 m s fun d r u => MediaOnly r u ∧
      (∀ j, j ≠ fld m 0 1 → getPipe u j = getPipe s j) ∧
      getPipe u (fld m 0 1) = { getPipe s (fld m 0 1) with owner := pidx m.sender + 1, timing := m.payload, training := some d })) ∧
  (∀ (m : Msg) (s : State), Taken 0x0511 isParty (lenIs 4) m s → fld m 0 1 < 6 → fld m 1 1 < 4 → fld m 2 2 = 0 →
    (getPipe s (fld m 0 1)).owner = pidx m.sender + 1 → (getPipe s (fld m 0 1)).stop = none →
    ((getPipe s (fld m 0 1)).scan = true → Room m s → Waits id (.pipeStop m) 0x0511 m s fun d r u => MediaOnly r u ∧
      (∀ j, j ≠ fld m 0 1 → getPipe u j = getPipe s j) ∧
      getPipe u (fld m 0 1) = { getPipe s (fld m 0 1) with
        stop := some (fld m 1 1, d), scan := !bitOf (fld m 1 1) 0
        lineUnder := if bitOf (fld m 1 1) 0 then 0 else (getPipe s (fld m 0 1)).lineUnder
        out := if bitOf (fld m 1 1) 0 then [] else (getPipe s (fld m 0 1)).out } ∧
      (bitOf (fld m 1 1) 0 = true → (getPipe s (fld m 0 1)).lineUnder ≠ 0 →
        Logs 0x8007 (0x6000 + fld m 0 1) (leBytes 1 (fld m 0 1) ++ leBytes 4 (getPipe s (fld m 0 1)).frame ++
          leBytes 2 (getPipe s (fld m 0 1)).lineUnder) r u)) ∧
    ((getPipe s (fld m 0 1)).scan = false → bitOf (fld m 1 1) 1 = false → Says id (.pipeStop m) 0x0511 m s ok fun r u => u = r) ∧
    ((getPipe s (fld m 0 1)).scan = false → bitOf (fld m 1 1) 1 = true → Says id (.pipeStop m) 0x0511 m s ok fun r u =>
      (getPipe u (fld m 0 1)).owner = 0 ∧ (getPipe u (fld m 0 1)).training = none ∧ (∀ j, j ≠ fld m 0 1 → getPipe u j = getPipe s j) ∧
      ((getPipe s (fld m 0 1)).training = none → MediaOnly r u))) ∧
  (∀ (m : Msg) (s : State), Taken 0x0512 isParty (lenIs 12) m s → fld m 0 1 < 6 → fld m 1 3 = 0 →
    ((getPipe s (fld m 0 1)).owner = 0 ∨ (getPipe s (fld m 0 1)).owner = pidx m.sender + 1) → (getPipe s (fld m 0 1)).scan = false →
    qOpBad (fld m 4 4) = false → qOpBad (fld m 8 4) = false →
    (qOpOn (fld m 4 4) = true → qReq s (pidx m.sender) (qOpId (fld m 4 4)) = true ∧ qForm s (qOpId (fld m 4 4)) 1 2 none (some 6) = true) →
    (qOpOn (fld m 8 4) = true → qReq s (pidx m.sender) (qOpId (fld m 8 4)) = true ∧ qForm s (qOpId (fld m 8 4)) 1 1 (some 6) none = true) →
    Says id (.pipeQueues m) 0x0512 m s ok fun r u => MediaOnly r u ∧ (∀ j, j ≠ fld m 0 1 → getPipe u j = getPipe s j) ∧
      getPipe u (fld m 0 1) = { getPipe s (fld m 0 1) with
        owner := pidx m.sender + 1, flip := if qOpOn (fld m 4 4) then qOpId (fld m 4 4) + 1 else 0
        status := if qOpOn (fld m 8 4) then qOpId (fld m 8 4) + 1 else 0, statusNext := 0 }) ∧
  (∀ (m : Msg) (s : State) (k : Nat), Taken 0x0520 isParty (lenIs 64) m s → firstBad (codecBad s (pidx m.sender) m) = none →
    qReq s (pidx m.sender) (cdIn m.payload) = true → qReq s (pidx m.sender) (cdOut m.payload) = true →
    (cdDec m.payload = true → cdTile m.payload = false → qReq s (pidx m.sender) (cdFree m.payload) = true) →
    inReq s (pidx m.sender) (fld m 24 6) (fld m 32 4) = true → sesWork m.payload ≤ fld m 32 4 →
    sesRate s (cdDec m.payload) + fld m 8 4 ≤ 2000000000 →
    ((List.range 32).map fun i => i + if cdDec m.payload then 32 else 0).find? (fun k => !(sesOpen s (cdDec m.payload)).contains k) = some k →
    Says id (.codecOpen m) 0x0520 m s (okWith (leBytes 1 k)) fun r u => MediaOnly r u ∧
      getSes u k = { owner := pidx m.sender + 1, open_ := m.payload } ∧ ∀ j, j ≠ k → getSes u j = getSes s j) ∧
  (∀ (m : Msg) (s : State), Taken 0x0521 isParty (lenIs 4) m s → Room m s → fld m 0 1 < 64 → fld m 1 1 < 2 → fld m 2 2 = 0 →
    (getSes s (fld m 0 1)).owner = pidx m.sender + 1 → (getSes s (fld m 0 1)).closing = none →
    Waits (closeSesIfDone (fld m 0 1)) (.codecClose m) 0x0521 m s fun d r u => MediaOnly r u ∧
      (∀ j, j ≠ fld m 0 1 → getSes u j = getSes s j) ∧
      (fld m 1 1 = 1 → getSes u (fld m 0 1) = { getSes s (fld m 0 1) with closing := some d }) ∧
      (fld m 1 1 = 0 → getSes u (fld m 0 1) = { getSes s (fld m 0 1) with
        closing := some d, work := [], pieces := [], pics := 0, stopped := max 1 (getSes s (fld m 0 1)).stopped }))

/-- A counter after a read that clears OVF, or clears the counter where CLEAR is 1 (R11). -/
def Sys2Proof.Claims.afterRead (clear : Nat) (c : Stat) : Stat := if clear = 1 then {} else { c with ovf := false }

/-- R291, R292: CAPTURE_OPEN opens a stream; one of a receiver that is off powers it on, and its counter restarts (R300). R323: CAPTURE_CLOSE waits for the frame to end. R324: CAPTURE_STATS answers a stream's conversion and
counters. R325: ISP_TUNE takes a configuration block for the next frame. R304: FUS_OPEN opens the engine afresh; R326: FUS_CLOSE closes it,
when the batch in progress is done. R307, R327: FUS_TRANSFORM_LOAD loads a sensor's transform, with a new generation and event 0x9013. -/
def Obligations.CaptureAndFusionMessages : Prop :=
  (∀ (m : Msg) (s : State), Taken 0x0600 isParty (lenIs 64) m s → firstBad (captureBad s m) = none →
    let k := fld m 0 1
    let c := m.payload
    let p := pidx m.sender
    qReq s p (cOut c) = true → (cMode c = 2 → qReq s p (cTileQ c) = true) →
    (isEth k = true → inReq s p (field (cImage c) 0 6) ((getQ s (cOut c)).n * field (cImage c) 20 4) = true) →
    (isEth k = false → cMode c ≠ 2 → imgIn s p (cImage c) = true) →
    (cStats c ≠ 0 → inReq s p (cStats c) ((getQ s (cOut c)).n * 16384) = true) →
    (isEth k = false → rcvOwner s (k / 4) = 0 ∨ rcvOwner s (k / 4) = p + 1) →
    (cMode c ≠ 1 → cRate c ≤ 1200000000 ∧ ispRate s + cRate c ≤ 4000000000) → (getStr s k).owner = 0 →
    Says id (.captureOpen m) 0x0600 m s ok fun r u => getStr u k = { owner := p + 1, conf := c } ∧
      (∀ j, j ≠ k → getStr u j = getStr s j) ∧ u = { r with cap := u.cap, pw := u.pw } ∧
      (isEth k = true ∨ tget s.pw.blocks (7 * 65536 + k / 4) ≠ 2 → u.pw = r.pw ∧ u.cap.upAt = r.cap.upAt) ∧
      (isEth k = false → tget s.pw.blocks (7 * 65536 + k / 4) = 2 →
        tget u.pw.blocks (7 * 65536 + k / 4) = 0 ∧ tget u.cap.upAt (k / 4) = s.ktime)) ∧
  (∀ (m : Msg) (s : State), Taken 0x0601 isParty (lenIs 4) m s → Room m s → fld m 0 1 ≤ 23 → fld m 1 3 = 0 →
    (getStr s (fld m 0 1)).owner = pidx m.sender + 1 →
    Waits (fun t => (List.range 24).foldl (fun t k => closeIfAsked k t) t) (.captureClose m) 0x0601 m s fun d r u => CapOnly r u ∧
      getStr u (fld m 0 1) = { getStr s (fld m 0 1) with closing := (getStr s (fld m 0 1)).closing ++ [d] } ∧
      ∀ j, j ≠ fld m 0 1 → getStr u j = getStr s j) ∧
  (∀ (m : Msg) (s : State), Taken 0x0602 isParty (lenIs 4) m s → fld m 0 1 ≤ 23 → fld m 1 1 < 2 → fld m 2 2 = 0 →
    (getStr s (fld m 0 1)).owner = pidx m.sender + 1 →
    Says id (.captureStats m) 0x0602 m s (okWith (captureStats s (fld m 0 1))) fun r u => CapOnly r u ∧
      (∀ j, j ≠ fld m 0 1 → getStr u j = getStr s j) ∧
      let x := getStr s (fld m 0 1)
      let g := afterRead (fld m 1 1)
      getStr u (fld m 0 1) = { x with dropped := g x.dropped, short := g x.short, error := g x.error, tiles := g x.tiles }) ∧
  (∀ (m : Msg) (s : State), Taken 0x0603 isParty (lenIs 16) m s → fld m 0 1 ≤ 23 → fld m 1 3 = 0 → 64 ≤ fld m 4 4 → fld m 4 4 ≤ 65536 →
    fld m 8 6 % 64 = 0 → fld m 14 2 = 0 → inReq s (pidx m.sender) (fld m 8 6) (fld m 4 4) = true →
    (getStr s (fld m 0 1)).owner = pidx m.sender + 1 → cMode (getStr s (fld m 0 1)).conf ≠ 1 → memNat s (fld m 8 6) 4 = 0x5A495350 →
    memNat s (fld m 8 6 + 4) 4 = fld m 4 4 →
    Says id (.ispTune m) 0x0603 m s ok fun r u => CapOnly r u ∧ (∀ j, j ≠ fld m 0 1 → getStr u j = getStr s j) ∧
      getStr u (fld m 0 1) = { getStr s (fld m 0 1) with tuneNext := some (memRead s (fld m 8 6) (fld m 4 4)) }) ∧
  (∀ (m : Msg) (s : State), Taken 0x0610 isParty (lenIs 64) m s → (getFus s).owner = 0 → firstBad (fusBad s m) = none →
    qReq s (pidx m.sender) (fMeas m.payload) = true → qReq s (pidx m.sender) (fOut m.payload) = true →
    inReq s (pidx m.sender) (fld m 8 6) (((getQ s (fOut m.payload)).n - 1) * fld m 16 4 + 64 * (fMax m.payload + 1)) = true →
    Says id (.fusOpen m) 0x0610 m s ok fun r u => CapOnly r u ∧ getFus u =
      { owner := pidx m.sender + 1, conf := m.payload, regAt := s.ktime, poses := [(s.ktime, List.replicate 6 0#32)] }) ∧
  (∀ (m : Msg) (s : State), Taken 0x0611 isParty (lenIs 0) m s → (getFus s).owner = pidx m.sender + 1 → (getFus s).wait = none →
    Says id (.fusClose m) 0x0611 m s ok fun r u => CapOnly r u ∧ getFus u = {}) ∧
  (∀ (m : Msg) (s : State), Taken 0x0611 isParty (lenIs 0) m s → (getFus s).owner = pidx m.sender + 1 → (getFus s).wait ≠ none →
    Runs (.fusClose m) s fun t => getFus t = { getFus s with closing := some { pendOf s 0x0611 m with notice := false } }) ∧
  (∀ (m : Msg) (s : State), Taken 0x0612 isParty (lenIs 8) m s → fld m 0 6 % 64 = 0 → fld m 6 1 ≤ 31 → fld m 7 1 = 0 →
    (getFus s).owner = pidx m.sender + 1 → inReq s (pidx m.sender) (fld m 0 6) 128 = true →
    let e := memRead s (fld m 0 6) 128
    xfBad e = none → (field e 84 1 = 1 → inReq s (pidx m.sender) (field e 88 6) (field e 96 4) = true) →
    Says id (.fusTransformLoad m) 0x0612 m s ok fun r u => CapOnly r u ∧ (getFus u).gen = ((getFus s).gen + 1) % 2 ^ 32 ∧
      tget (getFus u).xf (fld m 6 1) = (if field e 84 1 = 0 then [] else e) ∧
      getFus u = { getFus s with gen := (getFus u).gen, xf := (getFus u).xf } ∧
      Logs 0x9013 srcAfzan (leBytes 1 (fld m 6 1) ++ leBytes 4 (field e 100 4) ++ leBytes 4 (((getFus s).gen + 1) % 2 ^ 32)) r u)

/-- The bytes of a statistics counter in an answer (R11): the count in [47:0], and OVF in [63]. -/
def Sys2Proof.Claims.counter (c : Stat) : List Byte := leBytes 8 (c.n + if c.ovf then 2 ^ 63 else 0)

/-- R283: DSP_STATS answers the current frame number and four counters of its pipe, whose OVF the read clears (R11) and which CLEAR sets to 0 after the read; a pipe of another
party answers DENIED. R328: FUS_STATS answers Table 10.15, and CLEAR sets its six counters to 0 after the read; a party that does not hold
the engine is answered DENIED. A reserved bit or byte that is not 0 is BAD_ARG (R9). -/
def Obligations.StatisticsMessages : Prop :=
  (∀ (m : Msg) (s : State), Taken 0x0513 isParty (lenIs 4) m s → fld m 0 1 < 6 → fld m 1 1 < 2 → fld m 2 2 = 0 →
    let x := getPipe s (fld m 0 1)
    (x.owner = pidx m.sender + 1 → Says id (.dspStats m) 0x0513 m s
      (okWith (leBytes 8 x.frame ++ counter x.repeats ++ counter x.under ++ counter x.dropped ++ counter x.losses)) fun r u =>
        MediaOnly r u ∧ (∀ j, j ≠ fld m 0 1 → getPipe u j = getPipe s j) ∧
        let g := afterRead (fld m 1 1)
        getPipe u (fld m 0 1) = { x with repeats := g x.repeats, under := g x.under, dropped := g x.dropped, losses := g x.losses }) ∧
    (x.owner ≠ pidx m.sender + 1 → Says id (.dspStats m) 0x0513 m s (sts stDENIED) fun r u => u = r)) ∧
  (∀ (m : Msg) (s : State), Taken 0x0513 isParty (lenIs 4) m s → fld m 0 1 < 6 →
    (2 ≤ fld m 1 1 → Says id (.dspStats m) 0x0513 m s (badArg 1) fun r u => u = r) ∧
    (fld m 1 1 < 2 → fld m 2 2 ≠ 0 → Says id (.dspStats m) 0x0513 m s (badArg 2) fun r u => u = r)) ∧
  (∀ (m : Msg) (s : State), Taken 0x0613 isParty (lenIs 4) m s → fld m 0 1 < 2 → fld m 1 3 = 0 →
    let f := getFus s
    (f.owner = pidx m.sender + 1 → Says id (.fusStats m) 0x0613 m s
      (okWith (leBytes 2 (f.tracks.filter fun x => x.2.live).length ++ leBytes 2 0 ++ leBytes 4 f.gen ++ counter f.late ++ counter f.future ++
        counter f.bad ++ counter f.unassigned ++ counter f.overflowed ++ counter f.notStarted ++
        (List.range 32).flatMap fun i => leBytes 4 (field (tget f.xf i) 100 4))) fun r u =>
        CapOnly r u ∧
        let g := afterRead (fld m 0 1)
        getFus u = { f with
          late := g f.late, future := g f.future, bad := g f.bad, unassigned := g f.unassigned, overflowed := g f.overflowed
          notStarted := g f.notStarted }) ∧
    (f.owner ≠ pidx m.sender + 1 → Says id (.fusStats m) 0x0613 m s (sts stDENIED) fun r u => u = r)) ∧
  (∀ (m : Msg) (s : State), Taken 0x0613 isParty (lenIs 4) m s →
    (2 ≤ fld m 0 1 → Says id (.fusStats m) 0x0613 m s (badArg 0) fun r u => u = r) ∧
    (fld m 0 1 < 2 → fld m 1 3 ≠ 0 → Says id (.fusStats m) 0x0613 m s (badArg 1) fun r u => u = r))

/-! ### Bridge, gateway, field and I/O host messages (R456, R465, R466, R472, R476, R477, R481, R490, R496, R502, R504) -/

/-- Only the bridge's windows changed, and events may have been written. -/
def Sys2Proof.Claims.WinOnly (s t : State) : Prop := t = { s with cross := { s.cross with win := t.cross.win }, caddy := t.caddy }

/-- Only the gateway's record changed, and events may have been written. -/
def Sys2Proof.Claims.GwOnly (s t : State) : Prop := t = { s with gw := t.gw, caddy := t.caddy, fresh := t.fresh }

/-- R456: WINDOW_OPEN opens the lowest free slot of its direction, with event 0x5005. R465: WINDOW_CLOSE closes a window to new transactions and
waits for those outstanding. R466: PEER_LINK sets the ring once its answer is out. -/
def Sys2Proof.Claims.WindowMessages : Prop :=
  (∀ (m : Msg) (s : State) (w : Nat), Taken 0x0900 isParty (lenIs 32) m s → firstBad (winBad s m) = none →
    (pidx m.sender = 16 ∨ fld m 0 1 = pidx m.sender) →
    (bitOf (fld m 28 4) 31 = true → qReq s (fld m 0 1) (fld m 28 4 % 2 ^ 18) = true) → winAllowed s m = true →
    let k := fld m 1 1
    let base := (if bitOf k 1 then 128 else 0) + (if bitOf k 0 then 64 else 0)
    let a := fld m (if bitOf k 0 then 16 else 8) 8
    let start := fun (x : Window) => if bitOf k 0 then x.remote else x.loc
    (∀ j, base ≤ j → j < base + 64 → (getWin s j).live = true →
      a + winBytes m ≤ start (getWin s j) ∨ start (getWin s j) + (getWin s j).size ≤ a) →
    base ≤ w → w < base + 64 → (getWin s w).live = false → (∀ j, base ≤ j → j < w → (getWin s j).live = true) →
    (bitOf k 1 = true → 2 ≤ s.cross.count) →
    Says id (.windowOpen m) 0x0900 m s (okWith (leBytes 1 w)) fun r u => WinOnly r u ∧ (∀ j, j ≠ w → getWin u j = getWin s j) ∧
      getWin u w = { live := true, owner := fld m 0 1, device := fld m 2 1, flags := fld m 3 1, loc := fld m 8 8, remote := fld m 16 8
                     timeout := if fld m 4 4 = 0 then 10000 else fld m 4 4, size := winBytes m
                     errQ := if bitOf (fld m 28 4) 31 then fld m 28 4 % 2 ^ 18 + 1 else 0 } ∧
      Logs 0x5005 (0x8000 + w / 128) (leBytes 1 w ++ leBytes 1 (fld m 0 1) ++ leBytes 1 0) r u) ∧
  (∀ (m : Msg) (s : State), Taken 0x0901 isParty (lenIs 8) m s → Room m s → fld m 1 7 = 0 → (getWin s (fld m 0 1)).live = true →
    (pidx m.sender = 16 ∨ (getWin s (fld m 0 1)).owner = pidx m.sender) →
    Waits id (.windowClose m) 0x0901 m s fun d r u => WinOnly r u ∧ (∀ j, j ≠ fld m 0 1 → getWin u j = getWin s j) ∧
      getWin u (fld m 0 1) = { getWin s (fld m 0 1) with closing := true, pend := (getWin s (fld m 0 1)).pend ++ [d] } ∧
      ((getWin s (fld m 0 1)).closing = false → Logs 0x5005 (0x8000 + fld m 0 1 / 128)
        (leBytes 1 (fld m 0 1) ++ leBytes 1 (getWin s (fld m 0 1)).owner ++ leBytes 1 1) r u)) ∧
  (∀ (m : Msg) (s : State), Taken 0x0902 isGs (lenIs 8) m s → Room m s → 1 ≤ fld m 0 1 → fld m 0 1 ≤ 4 → fld m 1 1 < fld m 0 1 → fld m 2 6 = 0 →
    (∀ x ∈ s.cross.win, x.2.live = true → x.1 < 128) →
    Waits linkSet (.peerLink m) 0x0902 m s fun d r u => u.cross.count = fld m 0 1 ∧ u.cross.device = fld m 1 1 ∧ u.cross.linkPend = some d ∧
      ((getPcie s 1).up = false → (getPcie s 2).up = false →
        u = { r with cross := { r.cross with count := fld m 0 1, device := fld m 1 1, linkPend := some d } }) ∧
      (s.cross.out = [] → ∀ p, p = 1 ∨ p = 2 → (getPcie s p).up = true →
        getPcie u p = { getPcie s p with up := false, held := false } ∧ tget u.boot.linkUp (8 + p) = 0))

/-- R470, R472: CAN_OPEN opens a controller with its bit timing, and its TX_QUEUE is served at once; CAN_CLOSE closes it. R477, R478: ROUTE_SET
sets a rule, or clears it; what its batch held is sent first. R476: TSN_SET brings each section of its block into force, in order, or names
the first malformed one; the bodies' layouts are not given (assumption 33). -/
def Sys2Proof.Claims.GatewayMessages : Prop :=
  (∀ (m : Msg) (s : State), Taken 0x0A00 isParty (lenIs 32) m s → fld m 0 1 < 12 → (getCan s (fld m 0 1)).owner = 0 →
    firstBad (canBad s m) = none → (canRxOn m.payload = true → qReq s (pidx m.sender) (canRx m.payload) = true ∧
      inReq s (pidx m.sender) (fld m 16 6) ((getQ s (canRx m.payload)).n * fld m 22 2) = true) →
    (canTxOn m.payload = true → qReq s (pidx m.sender) (canTx m.payload) = true) →
    Says id (.canOpen m) 0x0A00 m s ok fun r u => ∃ v, u = canFeed (fld m 0 1) v ∧ GwOnly r v ∧
      (∀ j, j ≠ fld m 0 1 → getCan v j = getCan s j) ∧
      getCan v (fld m 0 1) = { owner := pidx m.sender + 1, conf := m.payload, nom := (canNominal (canMode m.payload) (fld m 2 2)).getD (0, 0)
                               dat := if canMode m.payload = 0 then (0, 0) else (canData (canMode m.payload) (fld m 4 2)).getD (0, 0) }) ∧
  (∀ (m : Msg) (s : State), Taken 0x0A01 isParty (lenIs 1) m s → fld m 0 1 ≤ 11 → (getCan s (fld m 0 1)).owner = pidx m.sender + 1 →
    Says id (.canClose m) 0x0A01 m s ok fun r u => GwOnly r u ∧ getCan u (fld m 0 1) = {} ∧
      ∀ j, j ≠ fld m 0 1 → getCan u j = getCan s j) ∧
  (∀ (m : Msg) (s : State) (i : Nat), Taken 0x0A02 isParty (lenIs 64) m s → firstBad (routeBad s m) = none →
    (fld m 0 2 ≠ 0xFFFF → i = fld m 0 2) →
    (fld m 0 2 = 0xFFFF → i < 4096 ∧ (getRule s i).owner = 0 ∧ ∀ j < i, (getRule s j).owner ≠ 0) →
    ((getRule s i).owner = 0 ∨ (getRule s i).owner = pidx m.sender + 1 ∨ pidx m.sender = 16) →
    (fld m 2 1 = 1 → Says id (.routeSet m) 0x0A02 m s (okWith (leBytes 2 i)) fun r u => GwOnly r u ∧ (getRule u i).owner = 0 ∧
      (getRule u i).conf = [] ∧ ∀ j, j ≠ i → getRule u j = getRule s j) ∧
    (fld m 2 1 = 0 → routeSrcOk s (pidx m.sender) m.payload = true → routeDstOk s (pidx m.sender) m.payload = true →
      Says id (.routeSet m) 0x0A02 m s (okWith (leBytes 2 i)) fun r u => GwOnly r u ∧ (∀ j, j ≠ i → getRule u j = getRule s j) ∧
        getRule u i = { owner := pidx m.sender + 1, conf := m.payload } ∧ u.gw.out = (sendBatch i (clearOut r)).gw.out ∧
        u.gw = { s.gw with rule := u.gw.rule, out := u.gw.out })) ∧
  (∀ (m : Msg) (s : State), Taken 0x0A03 isGs (lenIs 16) m s → Room m s → fld m 6 2 = 0 → fld m 12 4 = 0 →
    inReq s 16 (fld m 0 6) (fld m 8 4) = true →
    match tsnSects (memRead s (fld m 0 6) (fld m 8 4)) (fld m 8 4 / 8 + 1) 0 [] with
    | .inr o => Says tsnDone (.tsnSet m) 0x0A03 m s (badBuf o) fun r u => u = r
    | .inl xs => Waits tsnDone (.tsnSet m) 0x0A03 m s fun d r u => GwOnly r u ∧ u.gw.tsnPend = some d ∧
        u.gw = { (xs.foldl applySect r).gw with tsnPend := some d }) ∧
  (∀ (s : State) (x : TsnSect), GwOnly s (applySect s x) ∧ tget (applySect s x).gw.sect (x.type_ * 256 + x.port) = x.body ∧
    (∀ j, j ≠ x.port → getPort (applySect s x) j = getPort s j) ∧
    (x.type_ = 5 → (getPort (applySect s x) x.port) = { getPort s x.port with gateNext := some x.body }))

/-- The bridge's and the gateway's messages. -/
def Obligations.BridgeAndGatewayMessages : Prop := WindowMessages ∧ GatewayMessages

/-- R481: FIELD_SET gives a channel to its sender with its CONFIG and event queue; a switch input's STATE is its contact, and a lamp follows
ON. A release returns the sender's channels of that number to their default. FIELD_READ answers 8 bytes a channel. R490: USBC_SET sets a
USB Type-C port's role and connects CC again. With the field control link down they answer TIMEOUT (assumption 54). -/
def Sys2Proof.Claims.FieldMessages : Prop :=
  (∀ (m : Msg) (s : State), Taken 0x0A10 isParty (lenIs 32) m s → fld m 0 1 = 5 → fld m 1 1 < 48 → fld m 2 2 = 0 →
    fld m 24 8 = 0 → s.field.linkUp = true →
    ((∀ k < 5, fld m 1 1 < kindChannels k → (getCh s k (fld m 1 1)).owner = 0) ∨
     ∃ k < 5, fld m 1 1 < kindChannels k ∧ (getCh s k (fld m 1 1)).owner = pidx m.sender + 1) →
    Says id (.fieldSet m) 0x0A10 m s ok fun r u => u = { r with field := { r.field with ch := u.field.ch } } ∧
      ∀ k c, c < 256 → getCh u k c = (if k < 5 ∧ c = fld m 1 1 ∧ c < kindChannels k ∧ (getCh s k c).owner = pidx m.sender + 1 then {} else getCh s k c)) ∧
  (∀ (m : Msg) (s : State), Taken 0x0A10 isParty (lenIs 32) m s → fld m 0 1 < 5 → fld m 1 1 < kindChannels (fld m 0 1) → fld m 2 2 = 0 →
    let k := fld m 0 1
    let c := fld m 1 1
    let q := fld m 4 4
    let own := pidx m.sender + 1
    let x := getCh s k c
    ((getCh s k c).owner = 0 ∨ (getCh s k c).owner = own) → bitsOf q 30 18 = 0 → firstBad (confBad k c m) = none → fld m 24 8 = 0 →
    (bitOf q 31 = true → qForm s (q % 2 ^ 18) 1 1 (some 3) none = true ∧ qReq s (pidx m.sender) (q % 2 ^ 18) = true) →
    (s.field.linkUp = false → Says id (.fieldSet m) 0x0A10 m s (sts stTIMEOUT) fun r u => u = r) ∧
    (s.field.linkUp = true → Says id (.fieldSet m) 0x0A10 m s ok fun _ u =>
      (∀ k' c', c' < 256 → (k' ≠ k ∨ c' ≠ c) → getCh u k' c' = getCh s k' c') ∧ (getCh u k c).owner = own ∧
      (getCh u k c).evq = (if bitOf q 31 then q % 2 ^ 18 + 1 else 0) ∧ (getCh u k c).conf = (m.payload.drop 8).take 16 ∧
      (k = 0 → (getCh u k c).state = b2n (bitOf s.field.switch c) ∧
        (bitOf (fld m 8 1) 4 = true → bitOf (fld m 8 1) 6 = true → bitOf s.field.switch c = !bitOf (fld m 8 1) 5 →
          bitOf s.field.switch (c + 1) = bitOf (fld m 8 1) 5 → (getCh u k c).fault = 6)) ∧
      (k = 1 ∨ k = 3 ∨ k = 4 → getCh u k c = { x with owner := own, evq := (getCh u k c).evq, conf := (getCh u k c).conf, scans := 0 }) ∧
      (k = 2 → bitOf (fld m 8 1) 0 = true → x.waiting = false → (getCh u k c).state = 1 ∧ (getCh u k c).retries = fld m 13 1 ∧
        (x.fault = 1 ∨ x.fault = 4 → (getCh u k c).fault = 0)) ∧
      (k = 2 → bitOf (fld m 8 1) 0 = true → x.waiting = true → (getCh u k c).state = x.state ∧ (getCh u k c).waiting = true) ∧
      (k = 2 → bitOf (fld m 8 1) 0 = false → (getCh u k c).waiting = false ∧ (getCh u k c).retries = 0 ∧
        (getCh u k c).state = if x.state = 1 then 0 else x.state))) ∧
  (∀ (m : Msg) (s : State), Taken 0x0A11 isPartyGx (lenIs 2) m s → fld m 0 1 < 5 →
    (fld m 1 1 = 0xFF ∨ fld m 1 1 < kindChannels (fld m 0 1)) →
    let cs := if fld m 1 1 = 0xFF then List.range (kindChannels (fld m 0 1)) else [fld m 1 1]
    (pidx m.sender = 17 ∨ ∀ c ∈ cs, (getCh s (fld m 0 1) c).owner = pidx m.sender + 1) →
    (s.field.linkUp = false → Says id (.fieldRead m) 0x0A11 m s (sts stTIMEOUT) fun r u => u = r) ∧
    (s.field.linkUp = true → Says id (.fieldRead m) 0x0A11 m s
      (okWith (cs.flatMap fun c => let x := getCh s (fld m 0 1) c; leBytes 1 x.state ++ leBytes 2 x.fault ++ leBytes 1 0 ++ leBytes 4 x.value))
      fun r u => u = { r with field := { r.field with resends := (r.field.resends.1, 0) } })) ∧
  (∀ (m : Msg) (s : State), Taken 0x0A12 isParty (lenIs 8) m s → fld m 0 1 ≤ 3 → fld m 1 1 ≤ 2 → 15 ≤ fld m 2 1 → fld m 2 1 ≤ 100 → fld m 3 1 = 0 →
    let p := fld m 0 1
    let role := fld m 1 1
    let q := fld m 4 4
    bitsOf q 30 18 = 0 → ((getUc s p).owner = 0 ∨ (getUc s p).owner = pidx m.sender + 1) →
    (bitOf q 31 = true → qForm s (q % 2 ^ 18) 1 1 (some 3) none = true ∧ qReq s (pidx m.sender) (q % 2 ^ 18) = true) →
    (s.field.linkUp = false → Says id (.usbcSet m) 0x0A12 m s (sts stTIMEOUT) fun r u => u = r) ∧
    (s.field.linkUp = true → Says id (.usbcSet m) 0x0A12 m s ok fun _ u => (∀ j, j ≠ p → getUc u j = getUc s j) ∧
      getUc u p = { getUc s p with
        owner := if role = 0 then 0 else pidx m.sender + 1, role := role, maxW := fld m 2 1, evq := if bitOf q 31 then q % 2 ^ 18 + 1 else 0
        cc := true, fault := 0, state := if role = 0 then 0 else (getUc s p).state, mv := if role = 0 then 0 else (getUc s p).mv
        ma := if role = 0 then 0 else (getUc s p).ma
        vbus := decide (role = 1) && decide ((getUc s p).state ≠ 0) && decide (s.field.vbat ≤ 3600) }))

/-- R496: IO_OPEN gives a host to its sender with its queues and CONFIG. R504: IO_CLOSE ends every command in flight ABORTED and waits for the
completions to be pushed. R502: VNIC_OPEN opens an interface on a VLAN of its sender; R504: VNIC_CLOSE waits for its records. -/
def Sys2Proof.Claims.HostMessages : Prop :=
  (∀ (m : Msg) (s : State), Taken 0x0A20 isParty (lenIs 32) m s → fld m 0 1 < 14 → (getUnit s (fld m 0 1)).owner = 0 →
    qReq s (pidx m.sender) (fld m 4 4 % 2 ^ 18) = true → qReq s (pidx m.sender) (fld m 8 4 % 2 ^ 18) = true →
    (fld m 0 1 = 9 → pidx m.sender = 16) → (fld m 0 1 < 8 → (getUc s (fld m 0 1 % 4)).owner = 0 ∨ (getUc s (fld m 0 1 % 4)).owner = pidx m.sender + 1) →
    firstBad (ioOpenBad s m) = none →
    Says id (.ioOpen m) 0x0A20 m s ok fun r u => u = { r with io := { r.io with unit := u.io.unit } } ∧
      getUnit u (fld m 0 1) = { owner := pidx m.sender + 1, conf := m.payload } ∧ ∀ j, j ≠ fld m 0 1 → getUnit u j = getUnit s j) ∧
  (∀ (m : Msg) (s : State), Taken 0x0A21 isParty (lenIs 4) m s → Room m s → fld m 0 1 < 14 → fld m 1 3 = 0 →
    (getUnit s (fld m 0 1)).owner = pidx m.sender + 1 → (getUnit s (fld m 0 1)).closing = none →
    Waits (fun t => (List.range 14).foldl (fun t u => ioCloseIfDone u t) t) (.ioClose m) 0x0A21 m s fun d r u =>
      (getUnit u (fld m 0 1)).closing = some d ∧ (getUnit u (fld m 0 1)).fly = [] ∧ (getUnit u (fld m 0 1)).owner = pidx m.sender + 1 ∧
      (∀ j, j ≠ fld m 0 1 → getUnit u j = getUnit s j) ∧
      ((getUnit s (fld m 0 1)).fly = [] → u = { r with io := { r.io with unit := u.io.unit } } ∧
        getUnit u (fld m 0 1) = { getUnit s (fld m 0 1) with closing := some d })) ∧
  (∀ (m : Msg) (s : State) (v : Nat), Taken 0x0A22 isParty (lenIs 32) m s → (tget s.gw.vlan (fld m 2 2)).owner = pidx m.sender + 1 →
    qReq s (pidx m.sender) (vTx m.payload) = true → qReq s (pidx m.sender) (vRx m.payload) = true → qReq s (pidx m.sender) (vFree m.payload) = true →
    (∀ j < 32, (getVnic s j).owner ≠ 0 → field (getVnic s j).conf 2 2 ≠ fld m 2 2 ∨ field (getVnic s j).conf 4 6 ≠ fld m 4 6) →
    ((List.range 32).filter fun j => decide ((getVnic s j).owner = pidx m.sender + 1)).length < 8 → firstBad (vnicBad s m) = none →
    v < 32 → (getVnic s v).owner = 0 → (fld m 0 1 ≠ 0xFF → v = fld m 0 1) → (fld m 0 1 = 0xFF → ∀ j < v, (getVnic s j).owner ≠ 0) →
    Says id (.vnicOpen m) 0x0A22 m s (okWith (leBytes 1 v)) fun r u => u = { r with io := { r.io with vnic := u.io.vnic } } ∧
      getVnic u v = { owner := pidx m.sender + 1, conf := m.payload } ∧ ∀ j, j ≠ v → getVnic u j = getVnic s j) ∧
  (∀ (m : Msg) (s : State), Taken 0x0A23 isParty (lenIs 4) m s → Room m s → fld m 0 1 < 32 → fld m 1 3 = 0 →
    (getVnic s (fld m 0 1)).owner = pidx m.sender + 1 → (getVnic s (fld m 0 1)).closing = none →
    Waits (fun t => (List.range 32).foldl (fun t v => vnicCloseIfDone v t) t) (.vnicClose m) 0x0A23 m s fun d r u =>
      u = { r with io := { r.io with vnic := u.io.vnic } } ∧ getVnic u (fld m 0 1) = { getVnic s (fld m 0 1) with closing := some d } ∧
      ∀ j, j ≠ fld m 0 1 → getVnic u j = getVnic s j)

/-- Messages of the field die, the I/O hosts and the virtual interfaces. -/
def Obligations.FieldAndHostMessages : Prop := FieldMessages ∧ HostMessages

/-! ### Firmware, Caddy and reset messages (R380, R381, R384, R390, R391, R436, R438, R513, R519, R521) -/

/-- Only the firmware record changed, and events may have been written. -/
def Sys2Proof.Claims.FirmOnly (s t : State) : Prop := t = { s with firm := t.firm, caddy := t.caddy }

/-- R380: FW_STAGE takes an image to stage, and its verification's answer. R381: FW_ACTIVATE asks for an activation window. R384, R438: FW_COMMIT
commits the running slot and advances counters 0 and 3, with event 0xA004. R390: UCODE_LOAD verifies microcode, which leaves then take. R391:
CAL_LOAD verifies a calibration table and brings it into force. Whether a signature verifies is not given to the model (assumption 58): a
statement covers either outcome. -/
def Sys2Proof.Claims.FirmwareMessages : Prop :=
  (∀ (m : Msg) (s : State), Taken 0x0B00 isGs (lenIs 16) m s → Room m s → fld m 6 2 = 0 → fld m 12 4 = 0 → hdrBytes ≤ fld m 8 4 →
    fld m 8 4 ≤ 0x800000 → inReq s 16 (fld m 0 6) (fld m 8 4) = true → s.firm.committed = true → s.firm.act = .none → s.firm.staging = none →
    let img := memRead s (fld m 0 6) (fld m 8 4)
    Waits id (.fwStage m) 0x0B00 m s fun d r u => u = { r with firm := { r.firm with
      staging := some (d, { full := true, release := field img 8 4, afi := field img 6 2, rollback := field img 12 2, revoke := field img 15 1
                            digest := sha img }, verdict s 1 64 0 0 img) } }) ∧
  (∀ (m : Msg) (s : State), Taken 0x0B01 isGs (lenIs 8) m s → Room m s → fld m 0 1 < 4 → fld m 1 7 = 0 →
    (bitOf (fld m 0 1) 1 = true → s.firm.committed = false) →
    (bitOf (fld m 0 1) 1 = false → s.firm.staged = true ∧ (bitOf (fld m 0 1) 0 = true ∨ (otherSlot s).afi = (runSlot s).afi)) →
    (s.pw.st = .run ∨ s.pw.st = .hush) → s.pw.thermalDoze = false → s.pw.forced = false → s.firm.act = .none → s.firm.staging = none →
    Waits id (.fwActivate m) 0x0B01 m s fun d r u => u = { r with firm := { r.firm with act := .asked, actFlags := fld m 0 1, actPend := d } }) ∧
  (∀ (m : Msg) (s : State), Taken 0x0B02 isGs (lenIs 0) m s → s.firm.committed = false →
    Says id (.fwCommit m) 0x0B02 m s ok fun r u => FirmOnly r u ∧ u.firm.committed = true ∧ u.firm.slot = s.firm.slot ∧
      tget u.firm.counters 0 = max (tget s.firm.counters 0) (runSlot s).rollback ∧
      tget u.firm.counters 3 = max (tget s.firm.counters 3) (s.firm.level3 % 256) ∧
      (∀ c, c ≠ 0 → c ≠ 3 → tget u.firm.counters c = tget s.firm.counters c) ∧
      tget u.firm.revoked 0 = tget s.firm.revoked 0 ||| (runSlot s).revoke ∧
      tget u.firm.revoked 1 = tget s.firm.revoked 1 ||| s.firm.level3 / 256 ∧
      ∃ i ≤ 2, LogsNth i 0xA004 srcAfzan (leBytes 1 s.firm.slot ++ leBytes 2 (runSlot s).rollback) r u) ∧
  (∀ (m : Msg) (s : State), Taken 0x0B04 isGs (lenIs 16) m s → Room m s → fld m 6 2 = 0 → fld m 12 4 = 0 → hdrBytes ≤ fld m 8 4 →
    fld m 8 4 ≤ 0x40000 → inReq s 16 (fld m 0 6) (fld m 8 4) = true → s.firm.ucodeLoad = none →
    let img := memRead s (fld m 0 6) (fld m 8 4)
    let v := verdict s 2 32 0 1 img
    Waits (fun t => settle (giveDue t)) (.ucodeLoad m) 0x0B04 m s fun d r u =>
      (v.1 ≠ stOK → u = { r with firm := { r.firm with due := r.firm.due ++ [(d, v.1, v.2)] } }) ∧
      (v.1 = stOK → u = { r with firm := { r.firm with
        ucodeLoad := some (d, { version := field img 8 2, rollback := field img 12 2, revoke := field img 15 1, digest := sha img })
        deriving_ := true } })) ∧
  (∀ (m : Msg) (s : State), Taken 0x0B05 isGs (lenIs 16) m s → Room m s → fld m 6 2 = 0 → 1 ≤ fld m 12 1 → fld m 12 1 ≤ 3 → fld m 13 3 = 0 →
    fld m 8 4 = hdrBytes + calBytes (fld m 12 1) → inReq s 16 (fld m 0 6) (fld m 8 4) = true →
    let k := fld m 12 1
    let img := memRead s (fld m 0 6) (fld m 8 4)
    let body := img.drop hdrBytes
    let set := if k = 1 then 0 else 1
    let v := verdict s 3 32 set 2 img
    Waits giveDue (.calLoad m) 0x0B05 m s fun d r u =>
      (v.1 ≠ stOK → u = { r with firm := { r.firm with due := r.firm.due ++ [(d, v.1, v.2)] } }) ∧
      (v.1 = stOK → ∀ o, trimBad k body = some o →
        u = { r with firm := { r.firm with due := r.firm.due ++ [(d, stBAD_ARG, 2 ^ 63 + hdrBytes + o)] } }) ∧
      (v.1 = stOK → trimBad k body = none → u.firm.due = r.firm.due ++ [(d, stOK, 0)] ∧ tget u.firm.cal k = body ∧
        (∀ j, j ≠ k → tget u.firm.cal j = tget s.firm.cal j) ∧ (k = 1 → u.pw.trim = trimOf body) ∧ (k ≠ 1 → u.pw = r.pw) ∧
        tget u.firm.counters 2 = max (tget s.firm.counters 2) (field img 12 2) ∧
        tget u.firm.revoked set = tget s.firm.revoked set ||| field img 15 1 ∧
        Logs 0xA006 srcAfzan (leBytes 1 k ++ leBytes 4 (field img 8 4)) r u ∧
        u = { r with firm := u.firm, pw := u.pw, caddy := u.caddy }))

/-- R521: CADDY_MARK writes event 0xA0F1 with its payload and answers the status, which clears OVF (R11); CADDY_FLUSH flushes at once and ends with the flush. R513: a
RESET of scope 2 to 4 is answered and begins 100 µs later; one of scope 1 resets the estate: its job has ended, its kept buffers read as
zeros, and event 0xA034 is written. -/
def Sys2Proof.Claims.CaddyAndResetMessages : Prop :=
  (∀ (m : Msg) (s : State), Taken 0x0B10 isGsGx (lenIs 12) m s →
    let t := event srcCaddy 0xA0F1 (pidx m.sender) m.payload (atTaking m s)
    Says id (.caddyMark m) 0x0B10 m s
      (okWith (leBytes 4 ((t.caddy.next + 2 ^ 32 - 1) % 2 ^ 32) ++ leBytes 4 t.caddy.oldest ++ leBytes 4 t.caddy.flushed ++
        leBytes 1 (b2n t.caddy.frozen) ++ leBytes 3 0 ++ leBytes 8 t.caddy.lost.val ++ leBytes 8 t.caddy.flashLost.val))
      fun r u => Logs 0xA0F1 srcCaddy m.payload r u ∧
        u = { t with caddy := { t.caddy with lost := { t.caddy.lost with ovf := false }, flashLost := { t.caddy.flashLost with ovf := false } } }) ∧
  (∀ (m : Msg) (s : State), Taken 0x0B11 isGsGx (lenIs 0) m s → Room m s →
    Waits id (.caddyFlush m) 0x0B11 m s fun d r u =>
      u = { r with caddy := { r.caddy with flushing := true, flushPend := r.caddy.flushPend ++ [d] } }) ∧
  (∀ (m : Msg) (s : State), Taken 0x0B12 isGsGx (lenIs 8) m s → 2 ≤ fld m 0 1 → fld m 0 1 ≤ 4 → fld m 2 6 = 0 →
    Says resetDone (.reset m) 0x0B12 m s ok fun r u =>
      u = { r with boot := { r.boot with resetAsk := some (fld m 0 1, pidx m.sender) } }) ∧
  (∀ (m : Msg) (s : State), Taken 0x0B12 isGsGx (lenIs 8) m s → Room m s → fld m 0 1 = 1 → fld m 1 1 < 16 → (getEst s (fld m 1 1)).live = true →
    fld m 2 6 = 0 → (getEst s (fld m 1 1)).halted = false →
    Waits resetDone (.reset m) 0x0B12 m s fun d _ u => ∃ w, u = { settle w with boot := { (settle w).boot with resetPend := some d } } ∧
      jobOf w (fld m 1 1) = none ∧ (getEst w (fld m 1 1)).replay = none ∧ (∀ k ∈ (getEst w (fld m 1 1)).kept, k.data = [] ∧ k.lost = true) ∧
      w.caddy.frozen = false)

/-- Messages of firmware, the Caddy and resets. -/
def Obligations.FirmwareAndResetMessages : Prop := FirmwareMessages ∧ CaddyAndResetMessages

/-! ### The field die (R17, R365, R471, R481 to R494, R54 to R57) -/

/-- What a set bit of FLD_WAKE leads to where FLD_WAKE_EN holds it: out of Park or Rest, and nothing elsewhere (R57, R492). -/
def Sys2Proof.Claims.afterWake (bit : Nat) (s : State) : State :=
  if bitOf s.field.wakeEn bit then
    match s.pw.st with
    | .park => parkExit s
    | .rest => restExit 8 (wakeBit s) s
    | _ => s
  else s

/-- The command sets one bit of FLD_WAKE and changes nothing else before the wake that this leads to. -/
def Sys2Proof.Claims.Fires (c : Instr) (bit : Nat) (s : State) : Prop :=
  RunsThen c s (afterWake bit) fun u => u = { s with field := { s.field with wake := s.field.wake ||| 2 ^ bit } }

/-- The part is out of Rest and Park. -/
abbrev Sys2Proof.Claims.Up (s : State) : Prop := s.pw.st ≠ .rest ∧ s.pw.st ≠ .park

/-- No field channel but one changed. -/
abbrev Sys2Proof.Claims.OnlyCh (kind ch : Nat) (s t : State) : Prop :=
  ∀ k c, c < 256 → (k ≠ kind ∨ c ≠ ch) → getCh t k c = getCh s k c

/-- Event 0x6002 of a channel's fault is the next record, where the Kettle hears the field die in Run (R487). -/
def Sys2Proof.Claims.FaultLogged (kind ch fault : Nat) (latched : Bool) (value : Nat) (s t : State) : Prop :=
  fieldHeard s = true → s.pw.st = .run →
    Logs 0x6002 srcField (leBytes 1 kind ++ leBytes 1 ch ++ leBytes 2 fault ++ leBytes 1 (b2n latched) ++ leBytes 4 value) s t

/-- R482: a debounced change of a switch input changes its STATE, and a WAKE input fires SWITCH; a pair whose contacts differ again ends
PAIR_IMPLAUSIBLE; contacts alike for 100 ms are PAIR_IMPLAUSIBLE. R492: in Park the WAKE inputs are polled; a change fires SWITCH; the Park timer
fires TIMER; a configured edge of a wake input fires its source. -/
def Sys2Proof.Claims.SwitchAndWakeInputs : Prop :=
  (∀ (ch : Fin 48) (b : Bool) (s : State), fieldRuns s = true → bitOf s.field.switch ch.val ≠ b → (getCh s 0 ch.val).owner = 0 →
    Runs (.switchInputChange ch b) s fun t => t = { s with field := { s.field with switch := s.field.switch ^^^ 2 ^ ch.val } }) ∧
  (∀ (ch : Fin 48) (b : Bool) (s : State), fieldRuns s = true → bitOf s.field.switch ch.val ≠ b → (getCh s 0 ch.val).owner ≠ 0 → Up s →
    Runs (.switchInputChange ch b) s fun t => t.field.switch = s.field.switch ^^^ 2 ^ ch.val ∧ bitOf t.field.switch ch.val = b ∧
      (getCh t 0 ch.val).state = b2n b ∧ (∀ c < 48, c ≠ ch.val → (getCh t 0 c).state = (getCh s 0 c).state) ∧
      t.field.wake = (if bitOf (chByte (getCh s 0 ch.val) 0) 3 then s.field.wake ||| 2 ^ 20 else s.field.wake) ∧
      (bitOf (chByte (getCh s 0 (ch.val / 2 * 2)) 0) 4 = true → (getCh s 0 (ch.val / 2 * 2)).fault = 7 →
        bitOf t.field.switch (ch.val / 2 * 2) ≠ bitOf t.field.switch (ch.val / 2 * 2 + 1) → (getCh t 0 (ch.val / 2 * 2)).fault = 0)) ∧
  (∀ (ch : Fin 48) (s : State), fieldRuns s = true → ch.val % 2 = 0 → bitOf (chByte (getCh s 0 ch.val) 0) 4 = true →
    (getCh s 0 ch.val).owner ≠ 0 → (getCh s 0 ch.val).fault ≠ 7 → bitOf s.field.switch ch.val = bitOf s.field.switch (ch.val + 1) →
    Runs (.pairImplausible ch) s fun t => OnlyCh 0 ch.val s t ∧ getCh t 0 ch.val = { getCh s 0 ch.val with fault := 7 } ∧
      FaultLogged 0 ch.val 7 false (getCh s 0 ch.val).value s t) ∧
  (∀ (bits : BitVec 48) (s : State), fieldPowered s = true → s.field.park = true →
    RunsThen (.parkSwitchPoll bits) s
      (fun u => if (List.range 48).any (fun i => bitOf (chByte (getCh s 0 i) 0) 3 && (bitOf bits.toNat i != bitOf s.field.polled i)) then fieldWake 20 u else u)
      fun u => (∀ i < 48, bitOf u.field.switch i = (if bitOf (chByte (getCh s 0 i) 0) 3 then bitOf bits.toNat i else bitOf s.field.switch i)) ∧
        u.field.polled = u.field.switch ∧
        (∀ k c, c < 256 → getCh u k c = if k = 0 ∧ c < 48 ∧ bitOf (chByte (getCh s 0 c) 0) 3 = true then
          { getCh s 0 c with state := b2n (bitOf bits.toNat c) } else getCh s k c) ∧
        u = { s with field := { s.field with switch := u.field.switch, polled := u.field.polled, ch := u.field.ch } }) ∧
  (∀ (s : State), fieldPowered s = true → s.field.park = true → s.field.timer ≠ 0 → Fires .fieldTimerExpiry 21 s) ∧
  (∀ (ch : Fin 8) (b : Bool) (s : State), fieldPowered s = true → (getCh s 3 ch.val).conf ≠ [] →
    (chByte (getCh s 3 ch.val) 0 % 4 = 2 ∨ chByte (getCh s 3 ch.val) 0 % 4 = if b then 0 else 1) →
    ((getCh s 3 ch.val).owner = 0 → Fires (.wakeInputEdge ch b) ch.val s) ∧
    ((getCh s 3 ch.val).owner ≠ 0 → Up s → Runs (.wakeInputEdge ch b) s fun t => t.field.wake = s.field.wake ||| 2 ^ ch.val ∧
      OnlyCh 3 ch.val s t ∧ getCh t 3 ch.val = { getCh s 3 ch.val with state := (getCh t 3 ch.val).state }))

/-- R483: a touch channel's VALUE is its count over its baseline, which stands while the channel is touched and else moves toward the count
by at most the scan period, in thousandths; STATE changes after the configured number of scans. R485: an analog input's VALUE is raw × gain +
offset in mV, STATE its place against the thresholds, and above 38 V it is SHORT_TO_BATTERY. The calibration tables stand as loaded, and are
free values where none was (assumption 5). -/
def Sys2Proof.Claims.TouchAndAnalogInputs : Prop :=
  (∀ (ch : Fin 16) (n : Nat) (s : State), fieldRuns s = true → (getCh s 1 ch.val).owner ≠ 0 →
    let x := getCh s 1 ch.val
    let ct := (calTable 3 128 s).1
    let base := if x.base = 0 then field ct (8 * ch.val) 2 * 1000 else x.base - 1
    let delta : Int := (n : Int) - ((base / 1000 : Nat) : Int)
    let thr : Int := field ct (8 * ch.val + 2) 2
    let hys : Int := field ct (8 * ch.val + 4) 2
    Runs (.touchScan ch n) s fun t => OnlyCh 1 ch.val s t ∧ (getCh t 1 ch.val).value = codeOf 32 delta ∧
      (getCh t 1 ch.val).base = (if x.state = 1 then base
        else if base < n * 1000 then min (n * 1000) (base + chByte x 0) else max (n * 1000) (base - chByte x 0)) + 1 ∧
      (x.state = 0 → thr ≤ delta → chByte x 1 ≤ x.scans + 1 → (getCh t 1 ch.val).state = 1) ∧
      (x.state = 0 → thr ≤ delta → x.scans + 1 < chByte x 1 → (getCh t 1 ch.val).state = 0 ∧ (getCh t 1 ch.val).scans = x.scans + 1) ∧
      (x.state = 0 → delta < thr → (getCh t 1 ch.val).state = 0 ∧ (getCh t 1 ch.val).scans = 0) ∧
      (x.state = 1 → delta < thr - hys → chByte x 1 ≤ x.scans + 1 → (getCh t 1 ch.val).state = 0) ∧
      (x.state = 1 → thr - hys ≤ delta → (getCh t 1 ch.val).state = 1 ∧ (getCh t 1 ch.val).scans = 0)) ∧
  (∀ (ch : Fin 4) (raw : BitVec 12) (s : State), fieldRuns s = true → (getCh s 4 ch.val).owner ≠ 0 →
    let x := getCh s 4 ch.val
    let ct := (calTable 2 32 s).1
    let mv := FVal.add .rne (FVal.mul (.fin false raw.toNat 0) (fp32.decode (field ct (8 * ch.val) 4))) (fp32.decode (field ct (8 * ch.val + 4) 4))
    Runs (.analogSample ch raw) s fun t => OnlyCh 4 ch.val s t ∧
      (let v := (getCh t 4 ch.val).value
       v < 2 ^ 32 ∧ (mv.isNan = true ∨ (∃ rm, (toIntCode 32 rm mv).2 = true) ∨ ∃ rm, v = (toIntCode 32 rm mv).1) ∧
       (getCh t 4 ch.val).state = (if signedOf 32 v < (field x.conf 4 2 : Int) then 1 else if (field x.conf 6 2 : Int) < signedOf 32 v then 2 else 0) ∧
       (getCh t 4 ch.val).fault = if 38000 < signedOf 32 v then 1 else 0))

/-- The inputs of the field die. -/
def Sys2Proof.Claims.FieldInputs : Prop := SwitchAndWakeInputs ∧ TouchAndAnalogInputs

/-- R484, R487: a lamp output that turns off waits for its retry, or latches where none is left; the fault is over-temperature or a short to
battery's, and is logged with LATCHED where it is new or latches. A retry turns the output on again. Below 20 mA for 10 ms it has OPEN_LOAD,
which 20 mA ends; the off-state diagnosis finds SHORT_TO_GROUND and OPEN_LOAD. -/
def Sys2Proof.Claims.Lamps : Prop :=
  (∀ (ch : Fin 12) (cause : LampCause) (ma : BitVec 32) (s : State), fieldRuns s = true → (getCh s 2 ch.val).state = 1 →
    let x := getCh s 2 ch.val
    let fault := if cause = .overTemp then 4 else 1
    Runs (.lampTurnOff ch cause ma) s fun t => OnlyCh 2 ch.val s t ∧
      getCh t 2 ch.val = { x with state := if x.retries = 0 then 2 else 0, waiting := decide (x.retries ≠ 0), value := ma.toNat, fault := fault } ∧
      t.field.fault = (if x.fault ≠ fault then s.field.fault ||| 2 ^ ch.val else s.field.fault) ∧
      (x.fault ≠ fault ∨ x.retries = 0 → FaultLogged 2 ch.val fault (decide (x.retries = 0)) ma.toNat s t)) ∧
  (∀ (ch : Fin 12) (s : State), fieldRuns s = true → (getCh s 2 ch.val).waiting = true →
    Runs (.lampRetry ch) s fun t => t = { s with field := { s.field with ch := t.field.ch } } ∧ OnlyCh 2 ch.val s t ∧
      getCh t 2 ch.val = { getCh s 2 ch.val with state := 1, waiting := false, retries := (getCh s 2 ch.val).retries - 1 }) ∧
  (∀ (ch : Fin 12) (ma : BitVec 32) (s : State), fieldRuns s = true → (getCh s 2 ch.val).state = 1 →
    Runs (.lampOpenLoad ch ma) s fun t => OnlyCh 2 ch.val s t ∧ getCh t 2 ch.val = { getCh s 2 ch.val with
        value := ma.toNat, fault := if ma.toNat < 20 then 3 else if (getCh s 2 ch.val).fault = 3 then 0 else (getCh s 2 ch.val).fault } ∧
      (ma.toNat < 20 → (getCh s 2 ch.val).fault ≠ 3 → FaultLogged 2 ch.val 3 false ma.toNat s t)) ∧
  (∀ (ch : Fin 12) (down up : Nat) (s : State), fieldRuns s = true → (getCh s 2 ch.val).owner ≠ 0 → (getCh s 2 ch.val).state ≠ 1 →
    bitOf (chByte (getCh s 2 ch.val) 0) 2 = true →
    Runs (.lampOffDiag ch down up) s fun t => OnlyCh 2 ch.val s t ∧ getCh t 2 ch.val = { getCh s 2 ch.val with
      fault := if down < 1000 ∧ up < 1000 then 2 else if 3000 < up ∧ down ≤ 3000 then 3
        else if (getCh s 2 ch.val).fault = 2 ∨ (getCh s 2 ch.val).fault = 3 then 0 else (getCh s 2 ch.val).fault })

/-- R489 to R491: an attach, a detach or a contract stands in the port's record with event 0x6007, and an attach fires its wake source; a VBUS
short or overcurrent is fault 9, tried again 1 s later; CC above 6 V is fault 10 and disconnects CC. -/
def Sys2Proof.Claims.TypeCPorts : Prop :=
  (∀ (p : Fin 4) (st : Fin 3) (mv ma : BitVec 16) (s : State), fieldPowered s = true → (getUc s p.val).cc = true → (getUc s p.val).role ≠ 0 →
    s.field.park = false → Up s → (st = 2 → (getUc s p.val).state ≠ 0 ∧ contractOk (getUc s p.val) mv.toNat ma.toNat = true) →
    Runs (.usbcAttach p st mv ma) s fun t => (∀ j, j ≠ p.val → getUc t j = getUc s j) ∧
      getUc t p.val = { getUc s p.val with
        state := st.val, mv := if st = 0 then 0 else mv.toNat, ma := if st = 0 then 0 else ma.toNat
        vbus := decide ((getUc s p.val).role = 1) && decide (st ≠ 0) && decide ((getUc s p.val).fault = 0) && decide (s.field.vbat ≤ 3600) } ∧
      t.field.wake = (if st = 1 then s.field.wake ||| 2 ^ (16 + p.val) else s.field.wake) ∧
      (fieldHeard s = true → Logs 0x6007 srcField (leBytes 1 p.val ++ leBytes 1 st.val ++ leBytes 2 (getUc t p.val).mv ++ leBytes 2 (getUc t p.val).ma) s t)) ∧
  (∀ (p : Fin 4) (mv ma : BitVec 16) (s : State), fieldPowered s = true → (getUc s p.val).cc = true → s.field.park = true →
    Fires (.usbcAttach p 1 mv ma) (16 + p.val) s) ∧
  (∀ (p : Fin 4) (s : State), fieldRuns s = true → (getUc s p.val).vbus = true →
    Runs (.vbusFault p) s fun t => (∀ j, j ≠ p.val → getUc t j = getUc s j) ∧
      getUc t p.val = { getUc s p.val with state := min 1 (getUc s p.val).state, mv := 0, ma := 0, vbus := false, fault := 9 } ∧
      ((getUc s p.val).fault ≠ 9 → t.field.fault = s.field.fault ||| 2 ^ (20 + p.val) ∧
        (fieldHeard s = true → Logs 0x6008 srcField (leBytes 1 p.val ++ leBytes 2 9) s t))) ∧
  (∀ (p : Fin 4) (s : State), fieldRuns s = true → (getUc s p.val).fault = 9 →
    Runs (.vbusRetry p) s fun t => (∀ j, j ≠ p.val → getUc t j = getUc s j) ∧ getUc t p.val = { getUc s p.val with
      fault := 0, vbus := decide ((getUc s p.val).role = 1) && decide ((getUc s p.val).state ≠ 0) && decide (s.field.vbat ≤ 3600) }) ∧
  (∀ (p : Fin 4) (s : State), fieldRuns s = true → (getUc s p.val).role ≠ 0 →
    Runs (.ccOvervoltage p) s fun t => (∀ j, j ≠ p.val → getUc t j = getUc s j) ∧
      getUc t p.val = { getUc s p.val with vbus := false, fault := 10, cc := false } ∧
      ((getUc s p.val).fault ≠ 10 → t.field.fault = s.field.fault ||| 2 ^ (20 + p.val) ∧
        (fieldHeard s = true → Logs 0x6008 srcField (leBytes 1 p.val ++ leBytes 2 10) s t)))

/-- The lamp outputs and the USB Type-C ports. -/
def Sys2Proof.Claims.LampsAndTypeC : Prop := Lamps ∧ TypeCPorts

/-- The inputs, lamps and USB Type-C ports of the field die. -/
def Obligations.FieldChannels : Prop := FieldInputs ∧ LampsAndTypeC

/-- R488, Table 16.11: below 6 V the part warns and flushes, with event 0x6009; back in range it fires VBAT; above 36 V lamps and VBUS are off;
below 4.5 V, or reversed, the core die loses its supply. 10 ms after the warning the core supply is cut. R17: a field frame is sent three
times again, then the link is down with event 0x6001 and the outputs hold; 100 ms later they take their Park defaults. R57: out of Park the
Kettle's time goes on from what was saved, and the part is in Run, or in a cold reset where the resume image is lost. -/
def Obligations.SupplyAndFieldLink : Prop :=
  (∀ (v : Int) (s : State), 600 ≤ s.field.vbat → 450 ≤ v → v < 600 → coreAlive s = true →
    Runs (.vbatChange v) s fun t => t.field = { s.field with vbat := v, warn := true, fault := s.field.fault ||| 2 ^ 26 } ∧
      t.caddy.flushing = true ∧ t = { s with field := t.field, caddy := t.caddy } ∧
      (fieldHeard s = true → Logs 0x6009 srcField (leBytes 1 1 ++ leBytes 2 v.toNat) s t)) ∧
  (∀ (v : Int) (s : State), 450 ≤ s.field.vbat → s.field.vbat < 600 → 600 ≤ v → v ≤ 3600 →
    RunsThen (.vbatChange v) s (afterWake 22) fun u =>
      u.field = { s.field with vbat := v, warn := s.field.warn && decide (v ≤ 650), wake := s.field.wake ||| 2 ^ 22 } ∧
      u = { s with field := u.field, caddy := u.caddy } ∧
      (fieldHeard s = true → Logs 0x6009 srcField (leBytes 1 0 ++ leBytes 2 v.toNat) s u)) ∧
  (∀ (v : Int) (s : State), 600 ≤ s.field.vbat → s.field.vbat ≤ 3600 → 3600 < v → v ≤ 5800 →
    Runs (.vbatChange v) s fun t => t.field.vbat = v ∧ t.field.fault = s.field.fault ||| 2 ^ 25 ∧
      (∀ c < 12, (getCh t 2 c).state = if (getCh s 2 c).state = 1 then 0 else (getCh s 2 c).state) ∧ ∀ p, (getUc t p).vbus = false) ∧
  (∀ (v : Int) (s : State), 450 ≤ s.field.vbat → v < 450 → s.boot.phase ≠ 0 →
    Runs (.vbatChange v) s fun t => t.pw.supplied = false ∧ t.boot.phase = 0 ∧ (∀ a, tget t.mem.cells a = 0) ∧ t.safe.causes = 0 ∧
      t.field.linkUp = false ∧ t.field.park = true ∧ t.field.logNext = (s.field.logNext + 1) % 256 ∧
      field (tget t.field.log s.field.logNext) 10 1 = (if v < -100 then 2 else 1)) ∧
  (∀ (v : Int) (s : State), 600 ≤ s.field.vbat → s.field.vbat ≤ 3600 → 600 ≤ v → v ≤ 3600 →
    Runs (.vbatChange v) s fun t => t = { s with field := { s.field with vbat := v, warn := s.field.warn && decide (v ≤ 650) } }) ∧
  (∀ (s : State), s.field.warn = true →
    Runs .vbatCut s fun t => t.pw.supplied = false ∧ t.boot.phase = 0 ∧ t.field.warn = false ∧ (∀ a, tget t.mem.cells a = 0)) ∧
  (∀ (fromCore : Bool) (s : State), s.field.linkUp = true → s.pw.supplied = true → Up s →
    ((if fromCore then s.field.resends.2 else s.field.resends.1) < 3 → Runs (.fieldFrameCrcFail fromCore) s fun t =>
      t = { s with field := { s.field with resends := if fromCore then (s.field.resends.1, s.field.resends.2 + 1)
        else (s.field.resends.1 + 1, s.field.resends.2) } }) ∧
    (3 ≤ (if fromCore then s.field.resends.2 else s.field.resends.1) → Runs (.fieldFrameCrcFail fromCore) s fun t =>
      t.field.linkUp = false ∧ t.field.holding = true ∧ t.field.resends = (0, 0) ∧ tget t.boot.linkUp 19 = 0 ∧
      Logs 0x6001 (if fromCore then srcAfzan else srcField) (leBytes 1 (b2n fromCore) ++ leBytes 1 3) s t)) ∧
  (∀ (s : State), s.field.holding = true → Tab.wf s.field.ch = true → Tab.wf s.field.usbc = true →
    Runs .fieldOutputHoldExpiry s fun t => t.field.holding = false ∧ t = { s with field := t.field, gw := t.gw } ∧
      (∀ c < 256, getCh t 2 c = { getCh s 2 c with state := 0, retries := 0, waiting := false }) ∧
      (∀ k c, c < 256 → k ≠ 2 → getCh t k c = getCh s k c) ∧
      ∀ p, getUc t p = { getUc s p with vbus := false, state := 0, mv := 0, ma := 0 }) ∧
  (∀ (inst : BitVec 16) (s : State), s.pw.st = .park → bitOf s.field.wakeEn (inst.toNat % 24) = true →
    (resumeGood s = true → RunsThen (.wake 8 inst) s lateAlarms fun u => u.pw.st = .run ∧ u.pw.supplied = true ∧ u.field.park = false ∧
      u.mem.unzeroed = true) ∧
    (resumeGood s = false → Runs (.wake 8 inst) s fun t => t.boot.phase = 2 ∧ t.pw.supplied = false ∧ (∀ a, tget t.mem.cells a = 0)))

/-- R493, Table 16.12: the service port's frames. A good write changes the registers that it covers; FLD_CMD bit 0 wakes the part; a good read
returns whole registers with their CRC; a bad frame sets CRC_ERR, which reading the status clears. -/
def Sys2Proof.Claims.ServicePort : Prop :=
  (∀ (v : BitVec 32) (s : State), fieldPowered s = true →
    (v.getLsbD 0 = true → RunsThen (.wakeNow v) s (fun u => match u.pw.st with
        | .park => parkExit u | .rest => restExit 8 (wakeBit u) u | _ => wakeFrom true 8 (wakeBit u) u)
      fun u => u = { s with field := { s.field with wake := s.field.wake ||| 2 ^ 23 } }) ∧
    (v.getLsbD 0 = false → Runs (.wakeNow v) s fun t => t = s)) ∧
  (∀ (f : List Byte) (s : State), fieldPowered s = true → frameOk 2 f = true → frameAddr f + frameLen f ≤ 0x48 →
    let cov := fun (o : Nat) => decide (frameAddr f ≤ o) && decide (o < frameAddr f + frameLen f)
    let val := fun (o : Nat) => field (frameData f) (o - frameAddr f) 4
    RunsThen (.serviceSpiWrite f) s (fun u => if cov 0x38 && bitOf (val 0x38) 0 then serviceWake u else u)
      fun u => u = { s with field := { s.field with
        spiOut := [], wake := if cov 0x0C then s.field.wake &&& (2 ^ 24 - 1 - val 0x0C % 2 ^ 24) else s.field.wake
        wakeEn := if cov 0x10 then val 0x10 % 2 ^ 24 else s.field.wakeEn, timer := if cov 0x14 then val 0x14 else s.field.timer
        fault := if cov 0x20 then s.field.fault &&& (2 ^ 27 - 1 - val 0x20 % 2 ^ 27) else s.field.fault } }) ∧
  (∀ (f : List Byte) (s : State), fieldPowered s = true → (frameOk 2 f = false ∨ 0x48 < frameAddr f + frameLen f) →
    Runs (.serviceSpiWrite f) s fun t => t = { s with field := { s.field with crcErr := true, spiOut := [] } }) ∧
  (∀ (f : List Byte) (s : State), fieldPowered s = true → frameOk 3 f = true → frameAddr f + frameLen f ≤ 0x48 →
    Runs (.serviceSpiRead f) s fun t => t = { s with field := { s.field with spiOut := t.field.spiOut, pwron := t.field.pwron }, fresh := t.fresh } ∧
      t.field.spiOut.length = frameLen f + 4 ∧
      (∀ x ∈ fldRegs s, frameAddr f ≤ x.1 → x.1 + x.2.1 ≤ frameAddr f + frameLen f → (x.1 ≠ 0x18 ∨ s.field.park = false) →
        (t.field.spiOut.drop (x.1 - frameAddr f)).take x.2.1 = leBytes x.2.1 x.2.2) ∧
      t.field.pwron = if frameAddr f ≤ 0x30 ∧ 0x38 ≤ frameAddr f + frameLen f then s.field.pwron.read else s.field.pwron) ∧
  (∀ (f : List Byte) (s : State) (i : Nat), fieldPowered s = true → frameOk 3 f = true → i < 256 → frameAddr f = 0x1000 + 16 * i → frameLen f = 16 →
    (tget s.field.log i).length = 16 →
    Runs (.serviceSpiRead f) s fun t => t = { s with field := { s.field with spiOut := withCrc (tget s.field.log i) } }) ∧
  (∀ (f : List Byte) (s : State), fieldPowered s = true → (frameOk 3 f = false ∨ (0x48 < frameAddr f + frameLen f ∧ frameAddr f < 0x1000)) →
    Runs (.serviceSpiRead f) s fun t =>
      t = { s with field := { s.field with crcErr := true, spiOut := withCrc (leBytes (frameLen f) 0) } }) ∧
  (∀ (f : List Byte) (s : State), fieldPowered s = true → field f 0 1 = 5 →
    Runs (.serviceSpiStatus f) s fun t => t = { s with field := { s.field with crcErr := false, spiOut := t.field.spiOut }, fresh := t.fresh } ∧
      ∃ b, t.field.spiOut = [b] ∧ b.getLsbD 0 = s.field.crcErr ∧ b.toNat < 8)

/-- R365: the safety port's frames reach GX's mailbox, its doorbell page and, for reads, the Caddy window; with GX_SEL at PCIe, or outside them,
a frame is refused with CRC_ERR. -/
def Sys2Proof.Claims.SafetyPort : Prop :=
  (∀ (f : List Byte) (s : State), keepOn s = true → frameOk 2 f = true → s.boot.gxPcie = false →
    (frameAddr f + frameLen f ≤ 0x2000 → Runs (.safetySpiWrite f) s fun t =>
      t = { s with safe := { s.safe with spiOut := [], gxPages := t.safe.gxPages } } ∧
      (∀ i < frameLen f, tget t.safe.gxPages (frameAddr f + i) = (frameData f).getD i 0#8) ∧
      ∀ a, (a < frameAddr f ∨ frameAddr f + frameLen f ≤ a) → tget t.safe.gxPages a = tget s.safe.gxPages a) ∧
    (0x2000 ≤ frameAddr f → frameAddr f + 8 ≤ 0x3000 → frameLen f = 8 → frameAddr f % 8 = 0 →
      RunsThen (.safetySpiWrite f) s (dblWrite true 17 (frameAddr f - 0x2000) (field (frameData f) 0 8))
        fun u => u = { s with safe := { s.safe with spiOut := [] } }) ∧
    (0x2000 ≤ frameAddr f → frameAddr f + 4 ≤ 0x3000 → frameLen f = 4 →
      RunsThen (.safetySpiWrite f) s (dblWrite false 17 (frameAddr f / 8 * 8 - 0x2000) 0)
        fun u => u = { s with safe := { s.safe with spiOut := [] } }) ∧
    (0x10000 ≤ frameAddr f → Runs (.safetySpiWrite f) s fun t => t = { s with safe := { s.safe with spiCrcErr := true, spiOut := [] } })) ∧
  (∀ (f : List Byte) (s : State), keepOn s = true → (frameOk 2 f = false ∨ s.boot.gxPcie = true) →
    Runs (.safetySpiWrite f) s fun t => t = { s with safe := { s.safe with spiCrcErr := true, spiOut := [] } }) ∧
  (∀ (f : List Byte) (s : State), keepOn s = true → frameOk 3 f = true → s.boot.gxPcie = false →
    (frameAddr f + frameLen f ≤ 0x2000 → Runs (.safetySpiRead f) s fun t => t = { s with safe := { s.safe with
      spiOut := withCrc (tread s.safe.gxPages (frameAddr f) (frameLen f))
      gxIrq := s.safe.gxIrq && decide (frameAddr f + frameLen f ≤ 0x1000) } }) ∧
    (0x2000 ≤ frameAddr f → frameAddr f + 8 ≤ 0x3000 → frameLen f = 8 → frameAddr f % 8 = 0 →
      RunsThen (.safetySpiRead f) s (dblReadEffect 17 (frameAddr f - 0x2000))
        fun u => u = { s with safe := { s.safe with spiOut := withCrc (leBytes 8 (dblVal s 17 (frameAddr f - 0x2000))) } }) ∧
    (0x10000 ≤ frameAddr f → frameAddr f + 32 ≤ 0x210000 → frameLen f = 32 → frameAddr f % 32 = 0 →
      Runs (.safetySpiRead f) s fun t => t = { s with safe := { s.safe with
        spiOut := withCrc (cadBytes s 17 ((frameAddr f - 0x10000) / 32) 0 32), gxEvent := false } })) ∧
  (∀ (f : List Byte) (s : State), keepOn s = true → (frameOk 3 f = false ∨ s.boot.gxPcie = true) →
    Runs (.safetySpiRead f) s fun t => t = { s with safe := { s.safe with spiCrcErr := true, spiOut := withCrc (leBytes (frameLen f) 0) } }) ∧
  (∀ (f : List Byte) (s : State), keepOn s = true → field f 0 1 = 5 →
    Runs (.safetySpiStatus f) s fun t => t = { s with safe := { s.safe with
      spiCrcErr := false, spiOut := [BitVec.ofNat 8 (b2n s.safe.spiCrcErr + 2 * b2n (getParty s 17).busy + 4 * b2n (decide (s.safe.causes ≠ 0)))] } })

/-- The service and the safety SPI ports. -/
def Obligations.SpiPorts : Prop := ServicePort ∧ SafetyPort

/-! ### CAN controllers, the switch and the routing engine (R471, R473 to R480, R487) -/

/-- No CAN controller but one changed. -/
abbrev Sys2Proof.Claims.OnlyCan (c : Nat) (s t : State) : Prop := ∀ j, j ≠ c → getCan t j = getCan s j

/-- R473: a received frame goes into its slot with a frame record, KTIME within 20 ns, and through the routing rules; one that finds RX_QUEUE
full is dropped and counted. It ends OPEN_LOAD and a dominant bus. A sent frame is the buffered one of lowest identifier, with an echo; one
that is abandoned leaves the controller bus-off, which recovery ends, with event 0x6004 each. -/
def Sys2Proof.Claims.CanFrames : Prop :=
  (∀ (c : Fin 12) (f : CanFrame) (s : State), fabricUp s = true → s.pw.st = .run → s.pw.parking = 0 → (getCan s c.val).owner ≠ 0 → (getCan s c.val).standby = false →
    blockOff s 10 c.val = false → canFits (canMode (getCan s c.val).conf) f = true → (∀ x ∈ (getCan s c.val).faults, x ≠ 3 ∧ x ≠ 8) →
    let conf := (getCan s c.val).conf
    let q := canRx conf
    let a := field conf 16 6 + (getQ s q).tail % (getQ s q).n * field conf 22 2
    let w := busWrite (gwIni (ownerOf (getCan s c.val).owner)) a f.data s
    (canRxOn conf = false → RunsThen (.canFrameReceived c f) s (fun u => routeCan c.val f (clearOut u)) fun u => u = s) ∧
    (canRxOn conf = true → canPush s q = false → RunsThen (.canFrameReceived c f) s (fun u => routeCan c.val f (clearOut u)) fun u =>
      GwOnly s u ∧ OnlyCan c.val s u ∧ (getCan u c.val).dropped = (getCan s c.val).dropped.add 1) ∧
    (canRxOn conf = true → canPush s q = true → w.2 = stOK → RunsThen (.canFrameReceived c f) s (fun u => routeCan c.val f (clearOut u)) fun u =>
      ∃ k n, (k = (w.1.ktime + 2 ^ 64 - 2 + n) % 2 ^ 64 ∧ n ≤ 4) ∧
        u = pushEntry q (canRecord k c.val a f false false) { w.1 with fresh := w.1.fresh + 1 }) ∧
    (canRxOn conf = true → canPush s q = true → w.2 ≠ stOK → RunsThen (.canFrameReceived c f) s (fun u => routeCan c.val f (clearOut u)) fun u =>
      GwOnly w.1 u ∧ (getCan u c.val).dropped = (getCan w.1 c.val).dropped.add 1)) ∧
  (∀ (c : Fin 12) (f : CanFrame) (s : State), canWired s c.val = true → (3 ∈ (getCan s c.val).faults ∨ 8 ∈ (getCan s c.val).faults) →
    RunsThen (.canFrameReceived c f) s (canReceive c.val f) fun u => OnlyCan c.val s u ∧ GwOnly s u ∧
      getCan u c.val = { getCan s c.val with
        faults := (getCan s c.val).faults.filter (fun x => decide (x ≠ 3 ∧ x ≠ 8))
        txOff := (getCan s c.val).txOff && (!(getCan s c.val).faults.contains 8 || (getCan s c.val).faults.contains 1) }) ∧
  (∀ (c : Fin 12) (ok : Bool) (s : State) (i : Nat) (b : CanBuf),
    let v := canFeed c.val s
    canOn v c.val = true → (getCan v c.val).err ≠ 2 → (getCan v c.val).txOff = false → (getCan v c.val).standby = false →
    canListen (getCan v c.val).conf = false → (getCan v c.val).buf[i]? = some b →
    (∀ j x, (getCan v c.val).buf[j]? = some x → canPrio b.frame < canPrio x.frame ∨ (canPrio b.frame = canPrio x.frame ∧ i ≤ j)) →
    RunsThen (.canFrameSent c ok) s (canFeed c.val) fun u => OnlyCan c.val v u ∧ (getCan u c.val).buf = (getCan v c.val).buf.eraseIdx i ∧
      (getCan u c.val).sent = (if ok then [b.frame] else []) ∧ (getCan u c.val).err = (if ok then (getCan v c.val).err else 2) ∧
      (canRxOn (getCan v c.val).conf = false → GwOnly v u) ∧
      (ok = true → canRxOn (getCan v c.val).conf = true → canPush v (canRx (getCan v c.val).conf) = true → ∃ k a w,
        u = pushEntry (canRx (getCan v c.val).conf) (canRecord k c.val a b.frame true false) w ∧ GwOnly v w)) ∧
  (∀ (c : Fin 12) (s : State), (getCan s c.val).owner ≠ 0 → (getCan s c.val).err = 2 →
    RunsThen (.canBusOffRecovery c) s (canFeed c.val) fun u => OnlyCan c.val s u ∧ GwOnly s u ∧
      getCan u c.val = { getCan s c.val with err := 0 } ∧
      ∃ a b, Logs 0x6004 srcAfzan (leBytes 1 c.val ++ leBytes 1 3 ++ leBytes 1 a ++ leBytes 1 b) s u)

/-- R471, R487: a transceiver's fault is found once, with its bit of FLD_FAULT and event 0x6002, whose KIND and value are not given (assumption
35); a dominant bus and a short to battery turn the transmitter off; it is tried again every 10 ms, and an end of the short clears the faults.
A wake-up pattern in standby fires the controller's wake source. -/
def Sys2Proof.Claims.CanTransceivers : Prop :=
  (∀ (x : Instr × Fin 12 × Nat × Bool), (∃ c, x = (.canDominant c, c, 8, true) ∨ x = (.canBusFault c .shortToBattery, c, 1, true) ∨
      x = (.canBusFault c .shortToGround, c, 2, false) ∨ x = (.canOpenLoad c, c, 3, false)) →
    ∀ (s : State), canWired s x.2.1.val = true →
    let c := x.2.1.val
    let t := getCan s c
    (t.faults.contains x.2.2.1 = true → Runs x.1 s fun u => OnlyCan c s u ∧ getCan u c = { t with txOff := t.txOff || x.2.2.2 } ∧
      u = { s with gw := { s.gw with can := u.gw.can } }) ∧
    (t.faults.contains x.2.2.1 = false → Runs x.1 s fun u => OnlyCan c s u ∧
      getCan u c = { t with txOff := t.txOff || x.2.2.2, faults := t.faults ++ [x.2.2.1] } ∧
      u.field = { s.field with fault := s.field.fault ||| 2 ^ (12 + c) } ∧
      u = { s with gw := { s.gw with can := u.gw.can }, field := u.field, caddy := u.caddy, fresh := u.fresh } ∧
      (fieldHeard s = true → ∃ v, Logs 0x6002 srcField
        (leBytes 1 Config.canKind ++ leBytes 1 c ++ leBytes 2 x.2.2.1 ++ leBytes 1 0 ++ leBytes 4 v) s u))) ∧
  (∀ (c : Fin 12) (s : State), canWired s c.val = true →
    RunsThen (.canBusFault c .cleared) s (canFeed c.val) fun u => OnlyCan c.val s u ∧ GwOnly s u ∧ getCan u c.val = { getCan s c.val with
      txOff := false, faults := (getCan s c.val).faults.filter (fun x => decide (x ≠ 1 ∧ x ≠ 2 ∧ x ≠ 8)) }) ∧
  (∀ (c : Fin 12) (s : State), canWired s c.val = true → (getCan s c.val).txOff = true → (getCan s c.val).faults.contains 1 = true →
    (getCan s c.val).faults.contains 8 = false →
    RunsThen (.canTransmitterRetry c) s (canFeed c.val) fun u => OnlyCan c.val s u ∧ getCan u c.val = { getCan s c.val with txOff := false } ∧
      u = { s with gw := { s.gw with can := u.gw.can } }) ∧
  (∀ (c : Fin 12) (s : State), c.val < 8 → fieldPowered s = true → (getCan s c.val).standby = true → (getCan s c.val).owner ≠ 0 →
    canWake (getCan s c.val).conf = true → Fires (.canWup c) (8 + c.val) s)

/-- CAN controllers and their transceivers. -/
def Obligations.CanControllers : Prop := CanFrames ∧ CanTransceivers

/-- R476, R478, R479: a frame that no filter drops is learned from and leaves through the ports of its VLAN that its destination selects, never
its own; with the capture or the gateway port among them it goes through the rules, those but of capture streams for the gateway port
alone (R19). A frame that waited 10 ms for a transmit buffer is dropped with event
0x6006. A talker's batch leaves as one ACF message with its sequence number. A gate list takes effect, and a port's link or role changes with
event 0x600B. -/
def Obligations.SwitchAndRoutes : Prop :=
  (∀ (p : Fin 12) (f : EthFrame) (s : State), fabricUp s = true → s.pw.st = .run → s.pw.parking = 0 → (getPort s p.val).on = true →
    (4 ≤ p.val → (getPort s p.val).up = true) → 60 ≤ f.bytes.length → f.bytes.length ≤ 9212 →
    (s.gw.sect.any fun e => decide (e.1 / 256 = 7) || decide (e.1 / 256 = 8)) = false →
    RunsThen (.ethFrameIngress p f) s
        (fun u => if (forwardMask u p.val f).contains 1 || (forwardMask u p.val f).contains 2 then
          routeEth (dozing s) ((forwardMask u p.val f).contains 2) p.val f u else u)
      fun u => u = { s with gw := { s.gw with learned := u.gw.learned, out := u.gw.out } } ∧
        u.gw.out = ((forwardMask u p.val f).filter fun q => q ≠ 1 && q ≠ 2).map (fun q => (q, f)) ∧
        ((∀ e ∈ s.gw.static_, ¬(e.1 = f.src.toNat ∧ e.2.1 = f.vlan.toNat)) → ∀ e,
          e ∈ u.gw.learned ↔ (e = (f.src.toNat, f.vlan.toNat, p.val) ∨ (e ∈ s.gw.learned ∧ ¬(e.1 = f.src.toNat ∧ e.2.1 = f.vlan.toNat))))) ∧
  (∀ (p q : Nat) (f : EthFrame) (s : State), q ∈ forwardMask s p f → q < 12 ∧ q ≠ p ∧ bitOf (tget s.gw.vlan f.vlan.toNat).ports q = true ∧
    (getPort s q).on = true ∧ (4 ≤ q → (getPort s q).up = true)) ∧
  (∀ (c : Fin 12) (s : State) (b : CanBuf) (rest : List CanBuf), (getCan s c.val).wait = b :: rest → 1000000 ≤ ktSince s b.at_ →
    Runs (.routeDestTimeout c) s fun t => OnlyCan c.val s t ∧ getCan t c.val = { getCan s c.val with wait := rest } ∧
      getRule t (b.rule - 1) = { getRule s (b.rule - 1) with drops := (getRule s (b.rule - 1)).drops.add 1 } ∧ GwOnly s t ∧
      Logs 0x6006 srcAfzan (leBytes 2 (b.rule - 1) ++ leBytes 1 1 ++ leBytes 4 (getRule t (b.rule - 1)).drops.n) s t) ∧
  (∀ (r : Fin 4096) (s : State), (getRule s r.val).owner ≠ 0 → (getRule s r.val).batch ≠ [] →
    100 * field (getRule s r.val).conf 42 2 ≤ ktSince s (getRule s r.val).batchAt →
    Runs (.acfTalkerSend r) s fun t => GwOnly s t ∧ (∀ j, j ≠ r.val → getRule t j = getRule s j) ∧
      getRule t r.val = { getRule s r.val with batch := [], seq := ((getRule s r.val).seq + 1) % 256 } ∧
      ∃ f : EthFrame, t.gw.out = ((forwardMask s 2 f).filter fun q => q ≠ 1 && q ≠ 2).map (fun q => (q, f)) ∧
        f.body = .acf (BitVec.ofNat 64 (field (getRule s r.val).conf 24 8)) (BitVec.ofNat 8 (getRule s r.val).seq) (getRule s r.val).batch ∧
        f.dst = BitVec.ofNat 48 (field (getRule s r.val).conf 32 6) ∧ f.vlan = BitVec.ofNat 12 (field (getRule s r.val).conf 38 2)) ∧
  (∀ (p : Fin 12) (s : State) (g : List Byte), (getPort s p.val).gateNext = some g →
    Runs (.gateListActivate p) s fun t => t = { s with gw := { s.gw with port := t.gw.port } } ∧ (∀ j, j ≠ p.val → getPort t j = getPort s j) ∧
      getPort t p.val = { getPort s p.val with gate := g, gateNext := none }) ∧
  (∀ (p : Fin 12) (up : Bool) (speed role : BitVec 8) (s : State), 4 ≤ p.val → ((getPort s p.val).up ≠ up ∨ (getPort s p.val).role ≠ role.toNat % 4) →
    Runs (.tsnLinkChange p up speed role) s fun t => GwOnly s t ∧ (∀ j, j ≠ p.val → getPort t j = getPort s j) ∧
      getPort t p.val = { getPort s p.val with up := up, speed := speed.toNat, role := role.toNat % 4 } ∧
      Logs 0x600B srcAfzan (leBytes 1 p.val ++ leBytes 1 (b2n up) ++ leBytes 1 speed.toNat ++ leBytes 1 (role.toNat % 4)) s t)

/-! ### The Crossing bridge (R433, R450, R451, R455, R458 to R467, R506) -/

/-- The bridge's log takes one entry: its slot, its counts (R463, R464). -/
def Sys2Proof.Claims.BridgeLogs (e : BrgEntry) (s t : State) : Prop :=
  tget t.cross.log s.cross.next = e ∧ t.cross.next = (s.cross.next + 1) % 1024 ∧ t.cross.countAll = s.cross.countAll.add 1 ∧
  tget t.cross.counts e.owner = (tget s.cross.counts e.owner).add 1

/-- The request is complete and in bounds, and finds its port and the fabric up (R455). -/
abbrev Sys2Proof.Claims.Arrives (r : PcieReq) (s : State) : Prop :=
  portOn s r.port.val = true ∧ (r.write = true → r.data.length = r.len) ∧ r.len ≤ 4096 ∧ s.pw.st = .run ∧ s.pw.parking = 0 ∧ fabricUp s = true

/-- The log entry of an inbound request. -/
def Sys2Proof.Claims.inEntry (r : PcieReq) (win owner st loc : Nat) (s : State) : BrgEntry :=
  { ktime := s.ktime, win := win, owner := owner, status := st, kind := if r.write && r.posted then 0 else 2, port := r.port.val
    requester := r.requester.toNat, loc := loc, len := r.len, remote := r.off.toNat }

/-- R455, R461, R463: a request that no window covers, or that its window refuses, is answered with its status and logged; posted writes of a
ring port are not logged. A zero-length read returns the status of the earlier writes. A window that signals raises the owner's interrupt. An
accepted request is the access at its local address, with its lanes. R451, Table 15.3: BAR0's MSI-X table is read and written, and a party's
doorbell page is reached through it. -/
def Sys2Proof.Claims.InboundRequests : Prop :=
  (∀ (r : PcieReq) (s : State), Arrives r s → r.bar0 = false → inWindow s r.port.val r.off.toNat = none →
    Runs (.pcieInboundRequest r) s fun t => Answers t stDENIED [] ∧ t.mem = s.mem ∧ t.queue = s.queue ∧
      (r.port = 0 ∨ r.write = false ∨ r.posted = false → ∃ loc, BridgeLogs (inEntry r 0xFFFF 0xFF stDENIED loc s) s t)) ∧
  (∀ (r : PcieReq) (s : State) (w : Nat), Arrives r s → r.bar0 = false → inWindow s r.port.val r.off.toNat = some w →
    let x := getWin s w
    let loc := x.loc + (r.off.toNat - x.remote)
    (r.write = false → r.len = 0 → (r.port ≠ 0 ∨ x.closing = false) → Runs (.pcieInboundRequest r) s fun t =>
      Answers t stOK (leBytes 4 (tget s.cross.bad (badKey w r.requester.toNat))) ∧ tget t.cross.bad (badKey w r.requester.toNat) = 0 ∧
      t = { s with cross := { s.cross with bad := t.cross.bad }, resp := t.resp }) ∧
    (x.closing = true → r.len ≠ 0 → Runs (.pcieInboundRequest r) s fun t => Answers t stWINDOW_CLOSED [] ∧ (x.errQ = 0 → t.mem = s.mem) ∧
      (r.port = 0 ∨ r.write = false ∨ r.posted = false → BridgeLogs (inEntry r w x.owner stWINDOW_CLOSED loc s) s t)) ∧
    (x.closing = false → r.len ≠ 0 → r.off.toNat + r.len ≤ x.remote + x.size →
      ((r.port ≠ 0 ∧ bitOf x.device r.device.val = false) ∨ (r.write = true ∧ bitOf x.flags 3 = true)) →
      Runs (.pcieInboundRequest r) s fun t => Answers t stDENIED [] ∧ (x.errQ = 0 → t.mem = s.mem) ∧
        (r.port = 0 ∨ r.write = false ∨ r.posted = false → BridgeLogs (inEntry r w x.owner stDENIED loc s) s t)) ∧
    (x.closing = false → r.len ≠ 0 → r.off.toNat + r.len ≤ x.remote + x.size → (r.port = 0 ∨ bitOf x.device r.device.val = true) →
      (r.write = true → bitOf x.flags 3 = false) → loc % laneUnit x = 0 → r.len % laneUnit x = 0 →
      (r.write = true → bitOf x.flags 2 = true → Runs (.pcieInboundRequest r) s fun t =>
        t = { raiseIrq (getParty s x.owner).irq1 s with resp := t.resp } ∧ Answers t stOK []) ∧
      ((r.write = true → bitOf x.flags 2 = false) → winTarget s x.owner loc r.len = true → ∀ v bs,
        access (.crossing r.port (BitVec.ofNat 8 w)) r.write loc r.len (throughLanes x r.data) [] s = (v, .done stOK bs) →
        RunsThen (.pcieInboundRequest r) s (fun u => respond stOK (throughLanes x bs) (afterWrite r.write loc u)) fun u => u = v))) ∧
  (∀ (r : PcieReq) (s : State), Arrives r s → r.bar0 = true → r.port = 0 → s.boot.endpoint = true → r.len ≠ 0 →
    (0x14000 ≤ r.off.toNat → r.off.toNat + r.len ≤ 0x15000 → r.write = true → Runs (.pcieInboundRequest r) s fun t => Answers t stOK [] ∧
      (∀ i < r.len, tget t.cross.msixTab (r.off.toNat - 0x14000 + i) = r.data.getD i 0#8) ∧
      t = { s with cross := { s.cross with msixTab := t.cross.msixTab }, resp := t.resp }) ∧
    (0x14000 ≤ r.off.toNat → r.off.toNat + r.len ≤ 0x15000 → r.write = false → Runs (.pcieInboundRequest r) s fun t =>
      Answers t stOK (tread s.cross.msixTab (r.off.toNat - 0x14000) r.len) ∧ t = { s with resp := t.resp }) ∧
    (∀ w v bs, r.off.toNat + r.len ≤ (r.off.toNat / 0x1000 + 1) * 0x1000 → r.off.toNat < 0x10000 →
      hostParty s (r.off.toNat / 0x1000) = some w →
      access (.crossing r.port (BitVec.ofNat 8 w)) r.write (0x2000000000 + r.off.toNat) r.len r.data [] s = (v, .done stOK bs) →
      Runs (.pcieInboundRequest r) s fun t => Answers t stOK bs ∧ t = { v with resp := t.resp }))

/-- What the end of an outbound transaction sets off: the leaf engines that wait for it, and the block that made it (R459, Table 1.7). -/
def Sys2Proof.Claims.afterTx (x : OutTx) (st : Nat) (bs : List Byte) (s : State) : State :=
  let v := x.waits.eraseDups.foldl (fun s k => wakeWaiter x st bs k s) s
  if st = stOK ∨ x.ini < 4096 then v else unitStops x.ini st v

/-- The log entry of a write group that fails. -/
def Sys2Proof.Claims.groupEntry (x : OutTx) (st : Nat) (s : State) : BrgEntry :=
  { ktime := s.ktime, win := x.win, owner := (getWin s x.win).owner, status := st, kind := 3, port := (routeOf s x.win).getD (x.win / 128)
    loc := x.addr, len := x.len, remote := remoteOf (getWin s x.win) x.addr }

/-- The transaction ends with a status: it leaves the list, and a write group that fails is logged (R463). -/
def Sys2Proof.Claims.EndsTx (c : Instr) (f : State → State) (s : State) (x : OutTx) (st : Nat) (bs : List Byte) : Prop :=
  RunsThen c s (fun u => f (afterTx x st bs u)) fun u => u.cross.out = s.cross.out.filter (fun y => decide (y.tag ≠ x.tag)) ∧
    u = { s with cross := u.cross } ∧ (x.phase = .read ∨ st = stOK → u = { s with cross := { s.cross with out := u.cross.out } }) ∧
    (x.phase ≠ .read → st ≠ stOK → BridgeLogs (groupEntry x st s) s u)

/-- R458 to R460: a group of writes ends when no further write comes, with its confirm read. A completion ends a read or a confirm with its
data, or with the status of Table 15.6; one that comes after a TIMEOUT is discarded, counted and logged with event 0x5002. -/
def Sys2Proof.Claims.OutboundTransactions : Prop :=
  (∀ (win : BitVec 8) (ini : BitVec 16) (s : State), (s.cross.out.map fun x => x.tag).Nodup →
    Runs (.writeGroupEnd win ini) s fun t => t = { s with cross := { s.cross with out := t.cross.out, sent := t.cross.sent } } ∧
      t.cross.out = s.cross.out.map fun x => if x.ini = ini.toNat ∧ x.phase = .gather ∧ x.win = win.toNat then
        { x with phase := .confirm, sentAt := s.ktime } else x) ∧
  (∀ (tag : Nat) (s : State) (x : OutTx), s.cross.out.find? (fun y => decide (y.tag = tag)) = some x →
    (x.phase = .confirm → x.win < 128 → ∀ b bs, EndsTx (.pcieCompletion tag (.sc (b :: bs))) id s x stOK []) ∧
    (x.phase = .confirm → 128 ≤ x.win → ∀ b, EndsTx (.pcieCompletion tag (.peer b)) id s x b.toNat []) ∧
    (x.phase = .read → ∀ bs : List Byte, bs.length = x.len →
      EndsTx (.pcieCompletion tag (.sc bs)) id s x stOK (throughLanes (getWin s x.win) bs)) ∧
    (x.phase = .read → ∀ b : Byte, b ≠ 0 → EndsTx (.pcieCompletion tag (.peer b)) id s x b.toNat []) ∧
    (x.phase = .read ∨ x.phase = .confirm → EndsTx (.pcieCompletion tag .ur) id s x stDENIED [] ∧
      EndsTx (.pcieCompletion tag .ca) id s x stABORTED [] ∧ EndsTx (.pcieCompletion tag .ep) id s x stDATA_ERROR []) ∧
    (x.phase = .late → ∀ c, Runs (.pcieCompletion tag c) s fun t => t = { s with cross := t.cross, caddy := t.caddy } ∧
      t.cross.out = s.cross.out.filter (fun y => decide (y.tag ≠ tag)) ∧ t.cross.discardAll = s.cross.discardAll.add 1 ∧
      tget t.cross.discards (getWin s x.win).owner = (tget s.cross.discards (getWin s x.win).owner).add 1 ∧
      (tget t.cross.log s.cross.next).kind = 1 ∧ (tget t.cross.log s.cross.next).status = stTIMEOUT ∧
      (tget t.caddy.ring s.caddy.slot).code = 0x5002) ∧
    (x.phase = .read ∨ x.phase = .confirm → (getWin s x.win).timeout * 100 ≤ ktSince s x.sentAt →
      EndsTx (.outboundReadTimeout tag)
        (fun v => { v with cross := { v.cross with out := v.cross.out ++ [{ x with phase := .late, waits := [] }] } }) s x stTIMEOUT []))

/-- Inbound and outbound traffic of the bridge. -/
def Obligations.BridgeTraffic : Prop := InboundRequests ∧ OutboundTransactions

/-- R465: a closing window with nothing outstanding is free, and its WINDOW_CLOSE is answered. R467: a link that goes down writes event 0x5004.
R451, R433: PERST resets the endpoint's port, and wakes the part from Hush and from Doze (R57); a D-state or L2 request completes at the link, and secure-held blocks keep their state. R466: a
ring link with the right partner comes up, and with the wrong one is held. R506: a link that is down trains again. -/
def Obligations.BridgeLinks : Prop :=
  (∀ (w : BitVec 8) (s : State), (getWin s w.toNat).closing = true → (∀ x ∈ s.cross.out, x.win = w.toNat → x.phase = .late) →
    RunsThen (.windowDrainEnd w) s (finishAll (getWin s w.toNat).pend ok) fun u => (getWin u w.toNat).live = false ∧
      (∀ j, j ≠ w.toNat → getWin u j = getWin s j) ∧ u.cross.out = s.cross.out.filter (fun x => decide (x.win ≠ w.toNat)) ∧
      u = { s with cross := { s.cross with win := u.cross.win, out := u.cross.out, bad := u.cross.bad }, caddy := u.caddy } ∧
      Logs 0x5005 (0x8000 + w.toNat / 128) (leBytes 1 w.toNat ++ leBytes 1 (getWin s w.toNat).owner ++ leBytes 1 2) s u) ∧
  (∀ (p : Fin 3) (s : State), (getPcie s p.val).up = true → (∀ x ∈ s.cross.out, routeOf s x.win ≠ some p.val) →
    Runs (.pcieLinkDown p) s fun t => getPcie t p.val = { getPcie s p.val with up := false, held := false } ∧
      (∀ j, j ≠ p.val → getPcie t j = getPcie s j) ∧ tget t.boot.linkUp (8 + p.val) = 0 ∧
      t = { s with cross := { s.cross with port := t.cross.port }, boot := { s.boot with linkUp := t.boot.linkUp }, caddy := t.caddy } ∧
      Logs 0x5004 (0x8000 + p.val) (leBytes 1 p.val ++ leBytes 1 0 ++ leBytes 1 (getPcie s p.val).lanes ++ leBytes 1 (getPcie s p.val).rate ++
        leBytes 1 1) s t) ∧
  (∀ (s : State), s.pw.supplied = true → s.boot.held = false → s.boot.endpoint = true →
    (s.pw.st = .run ∨ s.pw.st = .hush ∨ s.pw.st = .doze) → s.pw.parking = 0 → s.pw.thermalDoze = false → s.pw.forced = false →
    (∀ x ∈ s.cross.out, routeOf s x.win ≠ some 0) →
    Runs .pciePerst s fun t => t.pw.st = .run ∧ getPcie t 0 = { getPcie s 0 with
        up := false, held := if (getPcie s 0).up then false else (getPcie s 0).held, dState := 0, l2 := false } ∧
      (∀ j, j ≠ 0 → getPcie t j = getPcie s j) ∧ (s.pw.st = .run →
        t = { s with cross := { s.cross with port := t.cross.port }, boot := { s.boot with linkUp := t.boot.linkUp }, caddy := t.caddy })) ∧
  (∀ (x : PciePm) (s : State), s.pw.supplied = true → s.boot.held = false → s.boot.endpoint = true → (getPcie s 0).up = true →
    Runs (.pciePowerManagement x) s fun t => (∀ j, j ≠ 0 → getPcie t j = getPcie s j) ∧ t.pw = s.pw ∧ t.media = s.media ∧ t.lv = s.lv ∧
      (∀ d, x = .dState d → getPcie t 0 = { getPcie s 0 with dState := d.val }) ∧ (x = .l2 → getPcie t 0 = { getPcie s 0 with l2 := true }) ∧
      (x = .dState 0 → t = { s with cross := { s.cross with port := t.cross.port } }) ∧
      (x ≠ .dState 0 → (tget t.caddy.ring s.caddy.slot).code = 0x4003)) ∧
  (∀ (p : Fin 2) (n d : Nat) (s : State), s.pw.supplied = true → s.boot.held = false → 5 ≤ s.boot.phase → s.boot.phase ≠ 11 → Up s →
    (getPcie s (p.val + 1)).up = false →
    let good := n = s.cross.count ∧ 2 ≤ n ∧ d = (if p = 0 then (s.cross.device + 1) % s.cross.count else (s.cross.device + s.cross.count - 1) % s.cross.count)
    Runs (.peerLinkUp p n d) s fun t => (getPcie t (p.val + 1)).up = true ∧ ((getPcie t (p.val + 1)).held = true ↔ ¬good) ∧
      (getPcie t (p.val + 1)).l2 = false ∧ (∀ j, j ≠ p.val + 1 → getPcie t j = getPcie s j) ∧ tget t.boot.linkUp (9 + p.val) = 1 ∧
      Logs 0x5004 (0x8001 + p.val) (leBytes 1 (p.val + 1) ++ leBytes 1 1 ++ leBytes 1 (getPcie t (p.val + 1)).lanes ++
        leBytes 1 (getPcie t (p.val + 1)).rate ++ leBytes 1 (if (getPcie t (p.val + 1)).held then 2 else 0)) s t) ∧
  (∀ (u : Fin 20) (good : Bool) (s : State), 8 ≤ u.val → u ≠ 19 → s.pw.supplied = true → s.boot.held = false → 5 ≤ s.boot.phase →
    s.boot.phase ≠ 11 → Up s → tget s.boot.linkUp u.val ≠ 1 →
    let n := min 255 (tget s.boot.attempts u.val + 1)
    Runs (.linkRetrain u good) s fun t => tget t.boot.attempts u.val = n ∧
      Logs 0xA035 srcAfzan (leBytes 1 u.val ++ leBytes 1 (b2n !good) ++ leBytes 1 n) s t ∧
      (good = true → tget t.boot.linkUp u.val = 1 ∧ (u = 8 → (getPcie t 0).up = true) ∧
        (11 ≤ u.val → (getPort t (u.val - 7)).up = true)) ∧
      (good = false → t.boot.linkUp = s.boot.linkUp ∧ t.cross = s.cross ∧ t.gw = s.gw))

/-! ### Bring-up and the reset scopes (R38, R390, R397, R413, R414, R436 to R440, R494, R505 to R515, R519, R527, R529) -/

/-- The core die has lost what a wider reset takes: queues, jobs, estates, leaves' contents, worlds, and the records of media, capture,
gateway, hosts and the bridge (R511). -/
def Sys2Proof.Claims.CoreEmpty (t : State) : Prop :=
  t.queue = [] ∧ t.jobs.est = [] ∧ t.jobs.tmpls = [] ∧ t.media = {} ∧ t.cap = {} ∧ t.gw = {} ∧ t.cross = {} ∧ t.io.unit = [] ∧ t.io.vnic = []

/-- A warm reset (R511, Table 17.3): what stands outside the core die is kept, with the lowest 512 MiB of each channel group, event 0xA034
first; with images that verify, the Kettle admits jobs again. -/
def Sys2Proof.Claims.WarmReset (req : Nat) (s t : State) : Prop :=
  CoreEmpty t ∧ (∀ a, tget t.mem.cells a = if a < dramEnd s ∧ a % cgBytes s < 0x20000000 then tget s.mem.cells a else 0) ∧ t.mem.unzeroed = true ∧
  t.io.flash = s.io.flash ∧ t.boot.kind = 2 ∧ t.pw.supplied = s.pw.supplied ∧
  (s.caddy.frozen = false → s.field.uncopied ≤ 256 → Logs 0xA034 srcAfzan (leBytes 1 3 ++ leBytes 1 (if req = 16 then 0x10 else if req = 17 then 0x11 else req) ++ leBytes 4 0) s t)

/-- A cold reset (R511, R529): the supplies but the keep-island's drop, DRAM is lost, and bring-up runs from phase 2. -/
def Sys2Proof.Claims.ColdReset (req : Nat) (s t : State) : Prop :=
  CoreEmpty t ∧ (∀ a, tget t.mem.cells a = 0) ∧ t.pw.supplied = false ∧ t.boot.phase = 2 ∧ t.boot.kind = 1 ∧ t.io.flash = s.io.flash ∧
  (s.caddy.frozen = false → Logs 0xA034 srcAfzan (leBytes 1 4 ++ leBytes 1 (if req = 16 then 0x10 else if req = 17 then 0x11 else req) ++ leBytes 4 0) s t)

/-- Afzan's committed slot and the boot configuration verify at the next bring-up, and the part's microcode is the one that the release
carries (R390, R440). -/
abbrev Sys2Proof.Claims.Verifies (s : State) : Prop :=
  s.firm.committed = true ∧ slotGood s s.firm.slot = true ∧ (bootInput s).bootCfg = true ∧ (bootInput s).ucode = true ∧
  s.firm.ucodePart.version = 0 ∧ tget s.firm.counters 1 = 0

/-- R505, R527: bring-up starts with VBAT in range; PGOOD at the end of the power-up steps starts the core die, and without it the enables drop
for 1 s. R440: with images that verify, grants, watermarks and clusters are those of the boot configuration; with no Afzan that verifies the
part is held, with FAULT_N; without microcode it is in the service state. R49, R529: a PGOOD that falls takes the supply and is logged by the
field die. -/
def Sys2Proof.Claims.PowerUp : Prop :=
  (∀ (r : BringupInput) (s : State), s.boot.phase = 0 → 600 ≤ s.field.vbat → s.field.vbat ≤ 3600 →
    Runs (.bringup r) s fun t => t.boot = { s.boot with phase := 2, kind := 0, input := some r, pgoodFails := 0 } ∧
      t.field = { s.field with park := false, tripped := false } ∧ t = { s with boot := t.boot, field := t.field, fresh := t.fresh }) ∧
  (∀ (r : BringupInput) (s : State), s.boot.phase = 0 → s.field.vbat < 450 →
    Runs (.bringup r) s fun t => t.boot = { s.boot with phase := 2, kind := 0, input := some r, pgoodFails := 0 } ∧ 600 ≤ t.field.vbat ∧
      t.field.vbat ≤ 3600 ∧ t.field.pwron = s.field.pwron.add 1 ∧ t.field.wakeEn = 0x400000 ∧ t.field.log = s.field.log ∧ t.field.park = false) ∧
  (∀ (s : State), s.boot.phase = 2 →
    Runs (.pgoodSample false) s fun t =>
      t = { s with boot := { s.boot with phase := 11, pgoodFails := min 15 (s.boot.pgoodFails + 1) } }) ∧
  (∀ (s : State), s.boot.phase = 11 → Runs .powerUpRetry s fun t => t = { s with boot := { s.boot with phase := 2 } }) ∧
  (∀ (s : State), s.boot.phase = 2 → s.boot.held = false → Verifies s →
    Runs (.pgoodSample true) s fun t => t.pw.supplied = true ∧ t.boot.phase = 5 ∧ t.boot.held = false ∧ t.boot.service = s.boot.service ∧
      t.boot.endpoint = (bootInput s).endpoint ∧ t.boot.gxPcie = (bootInput s).gxPcie ∧ t.firm.slot = s.firm.slot ∧
      t.firm.ucode = (Config.carriedUcode (runSlot s).release).1 ∧ t.world.lwm = s.boot.lwm ∧ t.world.clusters = s.boot.clusters ∧
      t.world.nwParty = s.boot.nwParty ∧ t.field.uncopied = 0 ∧
      (s.boot.kind = 1 → s.field.uncopied ≤ 256 → (tget t.caddy.ring s.caddy.slot).code = 0xA030)) ∧
  (∀ (s : State), s.boot.phase = 2 → s.firm.committed = true → slotGood s 0 = false → slotGood s 1 = false →
    Runs (.pgoodSample true) s fun t => t.boot.held = true ∧ bitOf t.safe.causes 1 = true) ∧
  (∀ (s : State), s.boot.phase = 2 → s.boot.held = false → s.firm.committed = true → slotGood s s.firm.slot = true →
    (bootInput s).bootCfg = true → (bootInput s).ucode = false →
    Runs (.pgoodSample true) s fun t => t.boot.service = true ∧ t.boot.held = false ∧ t.caddy.flushing = true) ∧
  (∀ (s : State), s.pw.supplied = true → Up s →
    Runs .pgoodFall s fun t => CoreEmpty t ∧ t.pw.supplied = false ∧ t.boot.phase = 1 ∧ (∀ a, tget t.mem.cells a = 0) ∧ t.safe.causes = 0 ∧
      field (tget t.field.log s.field.logNext) 10 1 = 5)

/-- R506, R507: training's result is event 0xA035; a channel group trains three times, and the third failure is the service state; the eighth
that passes starts the memory test, with leaf repair: with no leaf that fails, the leaf map's enabled leaves are enabled and its others are
spares. R508: each of four rounds of the memory test writes an event of every channel group; after the fourth the Kettle admits jobs where
every bad row was repaired, else the service state is entered. -/
def Sys2Proof.Claims.TrainingAndTest : Prop :=
  (∀ (u : Fin 20) (good : Bool) (s : State), s.pw.supplied = true → s.boot.held = false → s.boot.service = false → tget s.boot.linkUp u.val ≠ 1 →
    (u.val < 8 → s.boot.phase = 5) →
    Runs (.training u good) s fun t =>
      Logs 0xA035 srcAfzan (leBytes 1 u.val ++ leBytes 1 (b2n !good) ++ leBytes 1 (tget s.boot.attempts u.val + 1)) s t ∧
      (good = true → tget t.boot.linkUp u.val = 1) ∧ (good = false → t.boot.linkUp = s.boot.linkUp) ∧
      (u.val < 8 → tget t.boot.attempts u.val = tget s.boot.attempts u.val + 1) ∧
      (u.val < 8 → good = false → (t.boot.service = true ↔ 2 ≤ tget s.boot.attempts u.val)) ∧
      (u.val < 8 → good = true → (∃ j < 8, j ≠ u.val ∧ tget s.boot.linkUp j ≠ 1) → t.boot.phase = 5) ∧
      (u = 19 → good = true → t.field.linkUp = true ∧ t.field.holding = false)) ∧
  (∀ (u : Fin 20) (s : State), u.val < 8 → s.pw.supplied = true → s.boot.held = false → s.boot.service = false → tget s.boot.linkUp u.val ≠ 1 →
    s.boot.phase = 5 → (∀ j < 8, j ≠ u.val → tget s.boot.linkUp j = 1) → (bootInput s).leafFail = [] → (bootInput s).leafMapOk = true →
    Tab.wf s.boot.map = true →
    Runs (.training u true) s fun t => t.boot.phase = 6 ∧ t.boot.round = 1 ∧ (∀ l < 168, tget s.boot.map l = 2 → (getLeaf t l).kind = .enabled) ∧
      (160 ≤ ((List.range 168).filter fun l => decide (tget s.boot.map l ≠ 0)).length → ∀ l < 168,
        (tget s.boot.map l = 1 ∨ 3 ≤ tget s.boot.map l) → (getLeaf t l).kind = .spare)) ∧
  (∀ (one rows : List Nat) (bad : List (Fin 8)) (s : State), s.boot.phase = 6 → s.boot.service = false → s.boot.held = false →
    (s.boot.round < 4 → Runs (.dramTestRound one rows bad) s fun t => t.boot = { s.boot with round := s.boot.round + 1 } ∧
      t = { s with boot := t.boot, caddy := t.caddy } ∧ ∀ c < 8, LogsNth c 0xA033 (srcMc c)
        (leBytes 1 c ++ leBytes 1 s.boot.round ++ leBytes 4 (one.getD c 0) ++ leBytes 2 0 ++ leBytes 1 0) s t) ∧
    (4 ≤ s.boot.round → bad = [] → (bootInput s).worlds = true → Runs (.dramTestRound one rows bad) s fun t =>
      t.boot.ready = true ∧ t.boot.phase = 10 ∧ t.boot.round = 0 ∧ (∀ a, tget t.mem.cells a = 0) ∧
      ((bootInput s).injectFail = [] → ∀ b ≤ 5, bitOf t.safe.causes b = false) ∧
      ((bootInput s).injectFail ≠ [] → bitOf t.safe.causes 3 = true)) ∧
    (4 ≤ s.boot.round → bad = [] → (bootInput s).worlds = false → Runs (.dramTestRound one rows bad) s fun t =>
      t.boot.held = true ∧ t.boot.ready = s.boot.ready ∧ bitOf t.safe.causes 1 = true) ∧
    (4 ≤ s.boot.round → bad ≠ [] → Runs (.dramTestRound one rows bad) s fun t => t.boot.service = true ∧ t.boot.ready = s.boot.ready ∧
      ∃ c < 8, ∃ i < 17, LogsNth i 0xA033 (srcMc c) (leBytes 1 c ++ leBytes 1 0 ++ leBytes 4 0 ++ leBytes 2 (rows.getD c 0) ++ leBytes 1 1) s t))

/-- Bring-up. -/
def Obligations.BringUp : Prop := PowerUp ∧ TrainingAndTest

/-- R511 to R515: 100 µs after its answer a reset of scope 2 stops every estate and makes the fabric refuse, until it ends: jobs end, and event
0xA034 counts the refusals; scopes 3 and 4 are a warm and a cold reset, as RESET_N is for 10 µs and for more than 100 ms. A faulted Kettle
carries out none. R519: the background flush writes every record not yet in flash. -/
def Obligations.ResetScopes : Prop :=
  (∀ (s : State) (req : Nat), s.boot.resetAsk = some (2, req) → s.safe.kettleFault = false →
    Runs .resetBegin s fun t => t.boot.resetting = some 0 ∧ t.boot.resetAt = (s.ktime, req) ∧ t.boot.resetAsk = none ∧
      (∀ e < 16, (getEst s e).live = true → (getEst t e).halted = true) ∧ MemSame s t ∧ t.queue = s.queue) ∧
  (∀ (s : State) (req : Nat), s.boot.resetAsk = some (3, req) → s.safe.kettleFault = false →
    Runs .resetBegin s fun t => WarmReset req s t ∧ t.boot.resetAsk = none) ∧
  (∀ (s : State) (req : Nat), s.boot.resetAsk = some (4, req) → s.safe.kettleFault = false →
    Runs .resetBegin s fun t => ColdReset req s t ∧ t.boot.resetAsk = none) ∧
  (∀ (s : State) (x : Nat × Nat), s.boot.resetAsk = some x → s.safe.kettleFault = true → Runs .resetBegin s fun t => t = s) ∧
  (∀ (s : State) (n : Nat), s.pending = [] → s.boot.resetting = some n → 2000000 ≤ ktSince (tick s) s.boot.resetAt.1 →
    ∃ w, step s = .next (settle w) ∧ w.boot.resetting = none ∧ w.caddy.frozen = false ∧
      ∀ e < 16, (getEst s e).live = true → jobOf w e = none ∧ (getEst w e).halted = false ∧ (getEst w e).replay = none) ∧
  (∀ (us : Nat) (s : State), us < 10 → Runs (.resetNPin us) s fun t => t = s) ∧
  (∀ (us : Nat) (s : State), s.pw.supplied = true → 10 ≤ us → us ≤ 100000 → Runs (.resetNPin us) s fun t => WarmReset 0x7F s t) ∧
  (∀ (us : Nat) (s : State), s.pw.supplied = true → 100000 < us → Runs (.resetNPin us) s fun t => ColdReset 0x7F s t) ∧
  (∀ (s : State), 5 ≤ s.boot.phase → s.boot.phase ≠ 11 → s.pw.st ≠ .park →
    (1024 ≤ seqDist s.caddy.unflushed s.caddy.next ∨ 100000000 ≤ ktSince s s.caddy.lastFlush) →
    Runs .caddyBackgroundFlush s fun t => t = { s with caddy := t.caddy } ∧ t.caddy.unflushed = s.caddy.next ∧ t.caddy.lastFlush = s.ktime ∧
      t.caddy.ring = s.caddy.ring ∧ t.caddy.next = s.caddy.next)

/-! ### I/O hosts and virtual network interfaces (R495 to R504) -/

/-- The unit takes command `c` of operation `op` from the head of its CMD_QUEUE now, and no field of it is out of place (R497). -/
abbrev Sys2Proof.Claims.Commands (u op : Nat) (c : List Byte) (s : State) : Prop :=
  ioOn s u = true ∧ (getUnit s u).closing = none ∧ (getUnit s u).held = [] ∧ (getQ s (cmdQ (getUnit s u))).bound = true ∧
  (getQ s (cmdQ (getUnit s u))).len ≠ 0 ∧ headEntry s (cmdQ (getUnit s u)) = c ∧ ioOp c = op ∧ op ∈ ioOps u ∧ ioRefused s u c = none

/-- The state in which the command has left its queue. -/
abbrev Sys2Proof.Claims.fetched (u : Nat) (s : State) : State := roomMade (cmdQ (getUnit s u)) (popEntry (cmdQ (getUnit s u)) s)

/-- No host but one changed its record, and nothing else changed. -/
abbrev Sys2Proof.Claims.OnlyUnit (u : Nat) (s t : State) : Prop :=
  t = { s with io := { s.io with unit := t.io.unit } } ∧ ∀ j, j ≠ u → getUnit t j = getUnit s j

/-- The command is in flight, and nothing else changed after it left its queue. -/
abbrev Sys2Proof.Claims.Flies (u : Nat) (c : List Byte) (s t : State) : Prop :=
  OnlyUnit u (fetched u s) t ∧
  getUnit t u = { getUnit s u with fly := (getUnit s u).fly ++ [{ cmd := c, at_ := s.ktime }] }

/-- A completion record is pushed to CPL_QUEUE, or is held while that is full (R497). -/
abbrev Sys2Proof.Claims.Ends (u : Nat) (r : List Byte) (s t : State) : Prop :=
  (canPush s (cplQ (getUnit s u)) = true → OnlyUnit u (pushEntry (cplQ (getUnit s u)) r s) t ∧ (getUnit t u).held = []) ∧
  (canPush s (cplQ (getUnit s u)) = false → OnlyUnit u s t ∧ (getUnit t u).held = [r])

/-- R497 to R501: each host takes the command at the head of its queue, and the operation is under way, its buffer read where it sends one.
R497: a command with a field out of range, or a buffer outside the party's grants, completes at once with its status. R498: at most 512 transfers
are under way, and an endpoint beyond 64 is NOT_READY; a clear of an endpoint ends its transfers ABORTED. R500: a stop ends one direction's
buffers ABORTED. -/
def Sys2Proof.Claims.HostCommands : Prop :=
  (∀ (x : Instr × Nat × Nat), (∃ u : Fin 14,
      (u.val < 8 ∧ (x = (.usbPortReset u, u.val, 1) ∨ x = (.usbAddress u, u.val, 2))) ∨
      (u = 8 ∧ (x = (.ufsTask u, 8, 0x12) ∨ x = (.ufsLink u, 8, 0x13))) ∨
      (10 ≤ u.val ∧ (x = (.i2sPlay u, u.val, 0x20) ∨ x = (.i2sRecord u, u.val, 0x21)))) →
    ∀ (s : State) (c : List Byte), Commands x.2.1 x.2.2 c s → Runs x.1 s (Flies x.2.1 c s)) ∧
  (∀ (x : Instr × Nat), x ∈ [(.xspiRead 9, 0x30), (.xspiProgram 9, 0x31), (.xspiErase 9, 0x32)] →
    ∀ (s : State) (c : List Byte), Commands 9 x.2 c s → s.caddy.flushing = false → Runs x.1 s (Flies 9 c s)) ∧
  (∀ (u : Fin 14) (s : State) (c : List Byte), u.val < 8 → Commands u.val 3 c s →
    (tget (getUnit s u.val).eps (epKey c) ≠ [] ∨ (getUnit s u.val).eps.length < 64) → Runs (.usbEndpointSet u) s (Flies u.val c s)) ∧
  (∀ (u : Fin 14) (s : State) (c : List Byte), u.val < 8 → Commands u.val 3 c s → tget (getUnit s u.val).eps (epKey c) = [] →
    64 ≤ (getUnit s u.val).eps.length → Runs (.usbEndpointSet u) s fun t =>
      Ends u.val (cplRec (ioTag c) stNOT_READY 3 5 0 s.ktime) (fetched u.val s) t) ∧
  (∀ (u : Fin 14) (s : State) (c : List Byte), u.val < 8 → Commands u.val 4 c s → epIn c = true →
    ((getUnit s u.val).fly.filter fun x => decide (ioOp x.cmd = 4)).length < 512 → Runs (.usbTransfer u) s (Flies u.val c s)) ∧
  (∀ (x : Instr × Nat × Nat) (s : State) (c : List Byte) (v : State) (bs : List Byte),
    (∃ u : Fin 14, (u.val < 8 ∧ x = (.usbTransfer u, u.val, 4) ∧ epIn c = false ∧
        ((getUnit s u.val).fly.filter fun x => decide (ioOp x.cmd = 4)).length < 512) ∨
      (u = 8 ∧ x = (.ufsScsi u, 8, 0x10) ∧ ioParam c 16 1 = 2 ∧ ((getUnit s 8).fly.filter fun x => decide (ioOp x.cmd = 0x10)).length < 32) ∨
      (u = 8 ∧ x = (.ufsQuery u, 8, 0x11))) →
    Commands x.2.1 x.2.2 c s → busRead (ioIni x.2.1) (ioAddr c) (ioBytes c) (fetched x.2.1 s) = (v, stOK, bs) →
    Runs x.1 s fun t => OnlyUnit x.2.1 v t ∧ (getUnit t x.2.1).dataOut = bs ∧
      (getUnit t x.2.1).fly = (getUnit v x.2.1).fly ++ [{ cmd := c, at_ := v.ktime }]) ∧
  (∀ (s : State) (c : List Byte), Commands 8 0x10 c s → ioParam c 16 1 ≠ 2 →
    ((getUnit s 8).fly.filter fun x => decide (ioOp x.cmd = 0x10)).length < 32 → Runs (.ufsScsi 8) s (Flies 8 c s)) ∧
  (∀ (u : Fin 14) (s : State) (c : List Byte), u.val < 8 → Commands u.val 5 c s →
    (∀ x ∈ (getUnit s u.val).fly, ioOp x.cmd = 4 → epKey x.cmd ≠ epKey c) →
    Runs (.usbEndpointClear u) s fun t => Ends u.val (cplRec (ioTag c) stOK 5 0 0 s.ktime) (fetched u.val s) t ∧
      tget (getUnit t u.val).halted (epKey c) = 0 ∧ (getUnit t u.val).fly = (getUnit s u.val).fly) ∧
  (∀ (u : Fin 14) (s : State) (c : List Byte), u.val < 8 → Commands u.val 5 c s →
    Runs (.usbEndpointClear u) s fun t => tget (getUnit t u.val).halted (epKey c) = 0 ∧ (∀ j, j ≠ u.val → getUnit t j = getUnit s j) ∧
      (getUnit t u.val).fly = (getUnit s u.val).fly.filter fun x => !(decide (ioOp x.cmd = 4) && decide (epKey x.cmd = epKey c))) ∧
  (∀ (u : Fin 14) (s : State) (c : List Byte), 10 ≤ u.val → Commands u.val 0x22 c s →
    Runs (.i2sStop u) s fun t => (∀ j, j ≠ u.val → getUnit t j = getUnit s j) ∧
      (getUnit t u.val).fly = ((getUnit s u.val).fly.filter fun x => !decide (ioOp x.cmd = 0x20 + ioParam c 0 1)) ∧
      ((getUnit t u.val).fly = (getUnit s u.val).fly → Ends u.val (cplRec (ioTag c) stOK 0x22 0 0 s.ktime) (fetched u.val s) t)) ∧
  (∀ (u : Fin 14) (s : State) (c : List Byte) (st : Nat), u.val < 8 → ioOn s u.val = true → (getUnit s u.val).closing = none →
    (getUnit s u.val).held = [] → (getQ s (cmdQ (getUnit s u.val))).bound = true → (getQ s (cmdQ (getUnit s u.val))).len ≠ 0 →
    headEntry s (cmdQ (getUnit s u.val)) = c → ioOp c = 1 → ioRefused s u.val c = some st →
    Runs (.usbPortReset u) s fun t => Ends u.val (cplRec (ioTag c) st 1 0 0 s.ktime) (fetched u.val s) t)

/-- R497: an operation that finishes leaves flight, and its completion carries the device's status, detail and byte count, after the writes of
the data that it received. R498: an attach and a detach are unsolicited records, and a detach ends the transfers of the devices behind it;
R499: a lost link is one, and ends every command NOT_READY; a SCSI command not done in 30 s ends TIMEOUT. -/
def Sys2Proof.Claims.HostEvents : Prop :=
  (∀ (u : Fin 14) (r : IoResult) (s : State) (x : IoCmd), ioOn s u.val = true → u.val < 10 → ioStatusOk r.status.toNat = true →
    (u = 9 → s.caddy.flushing = false) → (getUnit s u.val).held = [] → ioFind (getUnit s u.val) (isUsb u.val) r.tag.toNat = some x →
    let rec_ := fun (v : State) => cplRec (ioTag x.cmd) r.status.toNat (ioOp x.cmd) r.detail.toNat r.bytes v.ktime
    (ioOp x.cmd ∈ [1, 0x12, 0x22] → Runs (.ioCompletion u r) s fun t => Ends u.val (rec_ s) s t ∧
      getUnit t u.val = { getUnit s u.val with fly := (getUnit s u.val).fly.erase x, held := (getUnit t u.val).held }) ∧
    (ioOp x.cmd = 2 → Runs (.ioCompletion u r) s fun t => Ends u.val (rec_ s) s t ∧ (getUnit t u.val).fly = (getUnit s u.val).fly.erase x ∧
      tget (getUnit t u.val).addrs (ioTarget x.cmd % 128) = if r.status = 0 then ioParam x.cmd 4 4 % 2 ^ 20 + 1
        else tget (getUnit s u.val).addrs (ioTarget x.cmd % 128)) ∧
    (ioOp x.cmd = 3 → Runs (.ioCompletion u r) s fun t => Ends u.val (rec_ s) s t ∧ (getUnit t u.val).fly = (getUnit s u.val).fly.erase x ∧
      tget (getUnit t u.val).eps (epKey x.cmd) = if r.status = 0 then (x.cmd.drop 24).take 5 else tget (getUnit s u.val).eps (epKey x.cmd)) ∧
    (ioOp x.cmd = 4 → epIn x.cmd = false → Runs (.ioCompletion u r) s fun t => Ends u.val (rec_ s) s t ∧
      (getUnit t u.val).fly = (getUnit s u.val).fly.erase x ∧
      tget (getUnit t u.val).halted (epKey x.cmd) = if r.status.toNat = stDATA_ERROR ∧ r.detail = 1 then 1
        else tget (getUnit s u.val).halted (epKey x.cmd)) ∧
    ((ioOp x.cmd = 4 ∧ epIn x.cmd = true ∧ r.detail = 0) ∨ ioOp x.cmd = 0x11 →
      ∀ v w, v = { s with io := { s.io with unit := tmod s.io.unit u.val fun t => { t with fly := t.fly.erase x } } } →
      busWrite (ioIni u.val) (ioAddr x.cmd) (r.data.take (ioBytes x.cmd)) v = (w, stOK) →
      Runs (.ioCompletion u r) s fun t => Ends u.val (rec_ w) w t) ∧
    (ioOp x.cmd = 0x10 → ioParam x.cmd 16 1 ≠ 1 → r.detail.toNat % 256 ≠ 2 → Runs (.ioCompletion u r) s fun t => Ends u.val (rec_ s) s t ∧
      (getUnit t u.val).fly = (getUnit s u.val).fly.erase x) ∧
    (ioOp x.cmd = 0x13 → Runs (.ioCompletion u r) s fun t => Ends u.val (rec_ s) s t ∧ (getUnit t u.val).fly = (getUnit s u.val).fly.erase x ∧
      (getUnit t u.val).link = if r.status = 0 then (if ioParam x.cmd 0 1 = 0 then 1 else 0) else (getUnit s u.val).link) ∧
    (ioOp x.cmd = 0x30 → r.status = 0 →
      ∀ v w, v = { s with io := { s.io with unit := tmod s.io.unit u.val fun t => { t with fly := t.fly.erase x } } } →
      busWrite (ioIni u.val) (ioAddr x.cmd) (flashRead s (ioParam x.cmd 0 4) r.data (ioBytes x.cmd)) v = (w, stOK) →
      Runs (.ioCompletion u r) s fun t => Ends u.val (rec_ w) w t) ∧
    (ioOp x.cmd = 0x31 → r.status = 0 →
      ∀ v w bs, v = { s with io := { s.io with unit := tmod s.io.unit u.val fun t => { t with fly := t.fly.erase x } } } →
      busRead (ioIni u.val) (ioAddr x.cmd) (ioBytes x.cmd) v = (w, stOK, bs) → w.io = v.io →
      Runs (.ioCompletion u r) s fun t => (∀ i < bs.length, tget t.io.flash (ioParam x.cmd 0 4 + i) =
          if tget s.io.flash (ioParam x.cmd 0 4 + i) = 1 then (bs.getD i 0#8).toNat + 2 else 0) ∧
        ∀ a, (a < ioParam x.cmd 0 4 ∨ ioParam x.cmd 0 4 + bs.length ≤ a) → tget t.io.flash a = tget s.io.flash a) ∧
    (ioOp x.cmd = 0x32 → r.status = 0 → Runs (.ioCompletion u r) s fun t =>
      ∀ a, (ioParam x.cmd 0 4 ≤ a ∧ a < ioParam x.cmd 0 4 + ioBytes x.cmd → tget t.io.flash a = 1) ∧
        (a < ioParam x.cmd 0 4 ∨ ioParam x.cmd 0 4 + ioBytes x.cmd ≤ a → tget t.io.flash a = tget s.io.flash a))) ∧
  (∀ (u : Fin 14) (sp : BitVec 16) (route : BitVec 32) (s : State), u.val < 8 → ioOn s u.val = true → (getUnit s u.val).held = [] →
    Runs (.usbAttach u sp route) s fun t => Ends u.val (cplRec 0 stOK 0x80 sp.toNat route.toNat s.ktime) s t ∧
      getUnit t u.val = { getUnit s u.val with held := (getUnit t u.val).held }) ∧
  (∀ (u : Fin 14) (route : BitVec 32) (s : State), u.val < 8 → ioOn s u.val = true → (getUnit s u.val).held = [] →
    let gone := fun (a : Nat) => decide (tget (getUnit s u.val).addrs a ≠ 0) && onRoute route.toNat (tget (getUnit s u.val).addrs a - 1)
    Runs (.usbDetach u route) s fun t => (∀ j, j ≠ u.val → getUnit t j = getUnit s j) ∧
      (getUnit t u.val).fly = ((getUnit s u.val).fly.filter fun x => !(decide (ioOp x.cmd = 4) && gone (ioTarget x.cmd % 128))) ∧
      (∀ e ∈ (getUnit t u.val).addrs, onRoute route.toNat (e.2 - 1) = false) ∧ (∀ e ∈ (getUnit t u.val).eps, gone (e.1 % 128) = false) ∧
      ((getUnit s u.val).fly = [] → Ends u.val (cplRec 0 stOK 0x81 0 route.toNat s.ktime) s t)) ∧
  (∀ (s : State), ioOn s 8 = true → (getUnit s 8).held = [] →
    Runs .ufsLinkLost s fun t => (getUnit t 8).link = 2 ∧ (getUnit t 8).fly = [] ∧ (∀ j, j ≠ 8 → getUnit t j = getUnit s j) ∧
      ((getUnit s 8).fly = [] → Ends 8 (cplRec 0 stOK 0x90 0 0 s.ktime) s t)) ∧
  (∀ (tag : BitVec 64) (s : State) (x : IoCmd), ioOn s 8 = true → (getUnit s 8).held = [] →
    (getUnit s 8).fly.find? (fun y => decide (ioOp y.cmd = 0x10) && decide (ioTag y.cmd = tag.toNat)) = some x → 3000000000 ≤ ktSince s x.at_ →
    Runs (.ufsScsiTimeout tag) s fun t => Ends 8 (cplRec (ioTag x.cmd) stTIMEOUT 0x10 0 0 s.ktime) s t ∧
      (getUnit t 8).fly = (getUnit s 8).fly.erase x)

/-- The I/O hosts. -/
def Obligations.IoHosts : Prop := HostCommands ∧ HostEvents

/-- R500: at a frame, an I²S port with no buffer sends zero samples and counts what it loses; with a playback buffer it sends the buffer's next
samples. R503: an interface's next record is popped and its frame enters the switch at port 0; a received frame goes into the next empty
buffer with its record, or is dropped and counted. -/
def Obligations.FramesAndInterfaces : Prop :=
  (∀ (p : Fin 4) (xs : List (BitVec 32)) (s : State), ioOn s (10 + p.val) = true → (getUnit s (10 + p.val)).fly = [] →
    Runs (.i2sFrame p xs) s fun t => OnlyUnit (10 + p.val) s t ∧ getUnit t (10 + p.val) = { getUnit s (10 + p.val) with
      zeros := (getUnit s (10 + p.val)).zeros + 1, lost := (getUnit s (10 + p.val)).lost + 1
      frameOut := List.replicate (field (getUnit s (10 + p.val)).conf 17 1) 0#32 }) ∧
  (∀ (p : Fin 4) (xs : List (BitVec 32)) (s : State) (x : IoCmd) (v : State) (bs : List Byte),
    let u := 10 + p.val
    let n := frameBytes (getUnit s u).conf
    ioOn s u = true → (getUnit s u).fly = [x] → ioOp x.cmd = 0x20 → x.done + 2 * n ≤ ioBytes x.cmd → x.done ≠ 0 →
    busRead (ioIni u) (ioAddr x.cmd + x.done) n s = (v, stOK, bs) → v.io = s.io → ioOn v u = true →
    Runs (.i2sFrame p xs) s fun t => OnlyUnit u v t ∧ getUnit t u = { getUnit s u with
      frameOut := samplesOf (sampleBytes (getUnit s u).conf) (field (getUnit s u).conf 17 1) bs, lost := (getUnit s u).lost + 1
      fly := [{ x with done := x.done + n }] }) ∧
  (∀ (v : Fin 32) (s : State) (w : State) (bs : List Byte),
    let c := (getVnic s v.val).conf
    let q := vTx c
    let r := headEntry s q
    vnicOn s v.val = true → (getVnic s v.val).held = [] → (getQ s q).bound = true → (getQ s q).len ≠ 0 → 60 ≤ field r 8 2 → field r 8 2 ≤ 9212 →
    field r 10 1 = 0 →
    busRead (vnicIni (ownerOf (getVnic s v.val).owner)) (field r 0 6) (field r 8 2) (clearOut (roomMade q (popEntry q s))) = (w, stOK, bs) →
    ∃ f : EthFrame, f.bytes = bs ∧ f.vlan = BitVec.ofNat 12 (field c 2 2) ∧ f.dst = BitVec.ofNat 48 (field bs 0 6) ∧ f.body = Config.ethBody bs ∧
      RunsThen (.vnicTransmit v) s (ingress (dozing s) 0 f) fun u => u = { w with io := { w.io with vnic := u.io.vnic } } ∧
        getVnic u v.val = { getVnic w v.val with sent := (getVnic w v.val).sent.add 1 } ∧ ∀ j, j ≠ v.val → getVnic u j = getVnic w j) ∧
  (∀ (v : Fin 32) (f : EthFrame) (s : State),
    let c := (getVnic s v.val).conf
    let q := vFree c
    vnicOn s v.val = true → vnicFor c f = true →
    ((getQ s q).bound = false ∨ (getQ s q).len = 0 ∨ canPush s (vRx c) = false ∨ field c 24 2 < f.bytes.length →
      Runs (.vnicReceive v f) s fun t => t = { s with io := { s.io with vnic := t.io.vnic } } ∧
        getVnic t v.val = { getVnic s v.val with dropped := (getVnic s v.val).dropped.add 1 } ∧ ∀ j, j ≠ v.val → getVnic t j = getVnic s j) ∧
    ((getQ s q).bound = true → (getQ s q).len ≠ 0 → canPush s (vRx c) = true → (getVnic s v.val).held = [] → f.bytes.length ≤ field c 24 2 →
      ∀ w, busWrite (vnicIni (ownerOf (getVnic s v.val).owner)) (field (headEntry s q) 0 6) f.bytes (roomMade q (popEntry q s)) = (w, stOK) →
      Runs (.vnicReceive v f) s fun t => ∃ k fl u, t = pushEntry (vRx c) (vnicRec 0 fl f.bytes.length (field (headEntry s q) 0 6) f.pcp.toNat 0 k) u ∧
        fl % 4 = (if bitOf (field c 1 1) 1 then (if f.csumGood then 1 else 2) else 0) ∧
        u = { w with io := { w.io with vnic := u.io.vnic }, fresh := u.fresh } ∧
        getVnic u v.val = { getVnic w v.val with recvd := (getVnic w v.val).recvd.add 1 }))
end

