-- ==== Sys2Proof/Laws/Tab.lean ====
section
/-! SUPPORT. The laws of sparse tables: what a read gives after each update, and that every update keeps the canonical form. -/

namespace Sys2Proof.Machine

variable {α : Type} [DecidableEq α] [Inhabited α]

/-- All keys of a table are above `k`. -/
def Tab.above (k : Nat) (t : Tab α) : Prop := ∀ e ∈ t, k < e.1

theorem Tab.wf_cons {k : Nat} {v : α} {r : Tab α} :
    Tab.wf ((k, v) :: r) = true ↔ v ≠ default ∧ Tab.above k r ∧ Tab.wf r = true := by
  induction r generalizing k v with
  | nil => simp [Tab.wf, Tab.above]
  | cons e r ih =>
    obtain ⟨k', v'⟩ := e
    have h : Tab.wf ((k, v) :: (k', v') :: r) = (decide (v ≠ default) && decide (k < k') && Tab.wf ((k', v') :: r)) := rfl
    rw [h]
    simp only [Bool.and_eq_true, decide_eq_true_eq, and_assoc]
    constructor
    · rintro ⟨a, b, c⟩
      refine ⟨a, ?_, c⟩
      intro x hx
      rcases List.mem_cons.1 hx with rfl | hx
      · exact b
      · exact Nat.lt_trans b ((ih.1 c).2.1 x hx)
    · rintro ⟨a, b, c⟩
      exact ⟨a, b (k', v') (List.mem_cons_self ..), c⟩

omit [DecidableEq α] in
theorem tget_above {k : Nat} {t : Tab α} (h : Tab.above k t) : tget t k = default := by
  induction t with
  | nil => rfl
  | cons e r ih =>
    obtain ⟨k', v⟩ := e
    have h1 : k < k' := h (k', v) (List.mem_cons_self ..)
    simp only [tget, Nat.ne_of_gt h1, if_false]
    exact ih fun x hx => h x (List.mem_cons_of_mem _ hx)

/-- No entry of a table has key `k`. -/
def Tab.lacks (k : Nat) (t : Tab α) : Prop := ∀ e ∈ t, e.1 ≠ k

omit [DecidableEq α] in
theorem tget_lacks {k : Nat} {t : Tab α} (h : Tab.lacks k t) : tget t k = default := by
  induction t with
  | nil => rfl
  | cons e r ih =>
    obtain ⟨k', v⟩ := e
    have h1 : k' ≠ k := h (k', v) (List.mem_cons_self ..)
    simp only [tget, h1, if_false]
    exact ih fun x hx => h x (List.mem_cons_of_mem _ hx)

theorem tget_tcons_same (k : Nat) (v : α) (t : Tab α) (h : Tab.lacks k t) : tget (tcons k v t) k = v := by
  unfold tcons
  split
  · rename_i hv; rw [hv]; exact tget_lacks h
  · simp [tget]

theorem tget_tcons_ne {k j : Nat} (v : α) (t : Tab α) (h : j ≠ k) : tget (tcons k v t) j = tget t j := by
  unfold tcons
  split
  · rfl
  · simp [tget, Ne.symm h]

theorem tget_tins_same (k : Nat) (v : α) (t : Tab α) (h : Tab.lacks k t) : tget (tins k v t) k = v := by
  induction t with
  | nil => exact tget_tcons_same k v [] h
  | cons e r ih =>
    obtain ⟨k', x⟩ := e
    have h1 : k' ≠ k := h (k', x) (List.mem_cons_self ..)
    unfold tins
    split
    · exact tget_tcons_same k v _ h
    · simp only [tget, h1, if_false]
      exact ih fun y hy => h y (List.mem_cons_of_mem _ hy)

theorem tget_tins_ne {k j : Nat} (v : α) (t : Tab α) (h : j ≠ k) : tget (tins k v t) j = tget t j := by
  induction t with
  | nil => exact tget_tcons_ne v [] h
  | cons e r ih =>
    obtain ⟨k', x⟩ := e
    unfold tins
    split
    · exact tget_tcons_ne v _ h
    · simp only [tget]
      split
      · rfl
      · exact ih

omit [DecidableEq α] in
theorem tget_drop {k j : Nat} (t : Tab α) (h : j ≠ k) : tget (t.filter fun e => decide (e.1 ≠ k)) j = tget t j := by
  induction t with
  | nil => rfl
  | cons e r ih =>
    obtain ⟨k', x⟩ := e
    rw [List.filter_cons]
    split
    · simp only [tget]
      split
      · rfl
      · exact ih
    · rename_i hk
      have hk : k' = k := by simpa using hk
      subst hk
      simp only [tget, Ne.symm h, if_false]
      exact ih

omit [DecidableEq α] [Inhabited α] in
theorem lacks_drop (k : Nat) (t : Tab α) : Tab.lacks k (t.filter fun e => decide (e.1 ≠ k)) := by
  intro e he
  simpa using (List.mem_filter.1 he).2

/-- A read at the key of an update gives the value. -/
@[simp] theorem tget_tput_same (t : Tab α) (k : Nat) (v : α) : tget (tput t k v) k = v := tget_tins_same k v _ (lacks_drop k t)

/-- A read at any other key gives what it gave before. -/
theorem tget_tput_ne (t : Tab α) {k j : Nat} (v : α) (h : j ≠ k) : tget (tput t k v) j = tget t j := by
  rw [tput, tget_tins_ne v _ h, tget_drop t h]

theorem tget_tput (t : Tab α) (k j : Nat) (v : α) : tget (tput t k v) j = if j = k then v else tget t j := by
  split
  · rename_i h; subst h; simp
  · rename_i h; exact tget_tput_ne t v h

/-- Entries that a filter drops leave the canonical form. -/
theorem wf_filter (t : Tab α) (f : Nat × α → Bool) (w : Tab.wf t = true) : Tab.wf (t.filter f) = true := by
  induction t with
  | nil => rfl
  | cons e r ih =>
    obtain ⟨k', x⟩ := e
    obtain ⟨hx, ha, hr⟩ := Tab.wf_cons.1 w
    rw [List.filter_cons]
    split
    · exact Tab.wf_cons.2 ⟨hx, fun y hy => ha y (List.mem_of_mem_filter hy), ih hr⟩
    · exact ih hr

theorem wf_tcons (k : Nat) (v : α) (t : Tab α) (h : Tab.above k t) (w : Tab.wf t = true) : Tab.wf (tcons k v t) = true := by
  unfold tcons
  split
  · exact w
  · rename_i hv; exact Tab.wf_cons.2 ⟨hv, h, w⟩

omit [Inhabited α] [DecidableEq α] in
theorem above_cons {j k : Nat} {x : α} {t : Tab α} (h : j < k) (w : Tab.above j t) : Tab.above j ((k, x) :: t) := by
  intro y hy
  rcases List.mem_cons.1 hy with rfl | hy
  · exact h
  · exact w y hy

theorem above_tins {j k : Nat} (v : α) (t : Tab α) (h : j < k) (w : Tab.above j t) : Tab.above j (tins k v t) := by
  have hc : ∀ u : Tab α, Tab.above j u → Tab.above j (tcons k v u) := by
    intro u hu
    unfold tcons
    split
    · exact hu
    · exact above_cons h hu
  induction t with
  | nil => exact hc [] w
  | cons e r ih =>
    obtain ⟨k', x⟩ := e
    unfold tins
    split
    · exact hc _ w
    · exact above_cons (w (k', x) (List.mem_cons_self ..)) (ih fun y hy => w y (List.mem_cons_of_mem _ hy))

theorem wf_tins (k : Nat) (v : α) (t : Tab α) (h : Tab.lacks k t) (w : Tab.wf t = true) : Tab.wf (tins k v t) = true := by
  induction t with
  | nil => exact wf_tcons k v [] (fun _ h => nomatch h) w
  | cons e r ih =>
    obtain ⟨k', x⟩ := e
    obtain ⟨hx, ha, hr⟩ := Tab.wf_cons.1 w
    have hk' : k' ≠ k := h (k', x) (List.mem_cons_self ..)
    unfold tins
    split
    · rename_i hk
      exact wf_tcons k v _ (above_cons hk fun y hy => Nat.lt_trans hk (ha y hy)) w
    · exact Tab.wf_cons.2 ⟨hx, above_tins v r (by omega) ha, ih (fun y hy => h y (List.mem_cons_of_mem _ hy)) hr⟩

/-- An update keeps the canonical form. -/
theorem wf_tput (t : Tab α) (k : Nat) (v : α) (w : Tab.wf t = true) : Tab.wf (tput t k v) = true :=
  wf_tins k v _ (lacks_drop k t) (wf_filter t _ w)

theorem wf_tmod (t : Tab α) (k : Nat) (f : α → α) (w : Tab.wf t = true) : Tab.wf (tmod t k f) = true := wf_tput t k _ w

@[simp] theorem tget_tmod_same (t : Tab α) (k : Nat) (f : α → α) : tget (tmod t k f) k = f (tget t k) := tget_tput_same t k _

theorem tget_tmod_ne (t : Tab α) {k j : Nat} (f : α → α) (h : j ≠ k) : tget (tmod t k f) j = tget t j := tget_tput_ne t _ h

theorem tget_tmod (t : Tab α) (k j : Nat) (f : α → α) : tget (tmod t k f) j = if j = k then f (tget t k) else tget t j := tget_tput t k j _

theorem wf_tclear (t : Tab α) (lo n : Nat) (w : Tab.wf t = true) : Tab.wf (tclear t lo n) = true := wf_filter t _ w

omit [DecidableEq α] in
theorem tget_filter {t : Tab α} {f : Nat × α → Bool} {k : Nat} (h : ∀ e ∈ t, e.1 = k → f e = true) : tget (t.filter f) k = tget t k := by
  induction t with
  | nil => rfl
  | cons e r ih =>
    obtain ⟨k', x⟩ := e
    have ih := ih fun y hy => h y (List.mem_cons_of_mem _ hy)
    rw [List.filter_cons]
    by_cases hk : k' = k
    · rw [if_pos (h _ (List.mem_cons_self ..) hk)]; simp [tget, hk]
    · split
      · simp only [tget, hk, if_false]; exact ih
      · simp only [tget, hk, if_false]; exact ih

omit [DecidableEq α] in
theorem tget_filter_none {t : Tab α} {f : Nat × α → Bool} {k : Nat} (h : ∀ e ∈ t, e.1 = k → f e = false) :
    tget (t.filter f) k = default := by
  induction t with
  | nil => rfl
  | cons e r ih =>
    obtain ⟨k', x⟩ := e
    have ih := ih fun y hy => h y (List.mem_cons_of_mem _ hy)
    rw [List.filter_cons]
    split
    · rename_i hf
      by_cases hk : k' = k
      · rw [h _ (List.mem_cons_self ..) hk] at hf; exact absurd hf (by simp)
      · simp only [tget, hk, if_false]; exact ih
    · exact ih

omit [DecidableEq α] in
/-- A cleared key reads as the default; any other as before. -/
theorem tget_tclear_in (t : Tab α) {lo n k : Nat} (h : lo ≤ k ∧ k < lo + n) : tget (tclear t lo n) k = default :=
  tget_filter_none fun e _ he => by subst he; simp [h]

omit [DecidableEq α] in
theorem tget_tclear_out (t : Tab α) {lo n k : Nat} (h : ¬(lo ≤ k ∧ k < lo + n)) :
    tget (tclear t lo n) k = tget t k :=
  tget_filter fun e _ he => by subst he; simp only [Bool.not_eq_true', Bool.and_eq_false_iff, decide_eq_false_iff_not]; omega

omit [DecidableEq α] [Inhabited α] in
theorem above_map {k : Nat} {t : Tab α} {β : Type} (f : α → β) (h : Tab.above k t) :
    ∀ e ∈ t.map (fun e => (e.1, f e.2)), k < e.1 := by
  intro e he
  obtain ⟨x, hx, rfl⟩ := List.mem_map.1 he
  exact h x hx

theorem wf_tmap (f : α → α) (t : Tab α) (w : Tab.wf t = true) : Tab.wf (tmap f t) = true := by
  unfold tmap
  induction t with
  | nil => rfl
  | cons e r ih =>
    obtain ⟨k, x⟩ := e
    obtain ⟨hx, ha, hr⟩ := Tab.wf_cons.1 w
    rw [List.map_cons, List.filter_cons]
    split
    · rename_i hf
      refine Tab.wf_cons.2 ⟨by simpa using hf, ?_, ih hr⟩
      intro y hy
      exact above_map f ha y (List.mem_of_mem_filter hy)
    · exact ih hr

theorem wf_twrite (vs : List α) (t : Tab α) (a : Nat) (w : Tab.wf t = true) : Tab.wf (twrite t a vs) = true := by
  induction vs generalizing t a with
  | nil => exact w
  | cons v r ih => exact ih (tput t a v) (a + 1) (wf_tput t a v w)

/-- A write leaves every other key alone. -/
theorem tget_twrite_out (vs : List α) (t : Tab α) {a k : Nat} (h : k < a ∨ a + vs.length ≤ k) : tget (twrite t a vs) k = tget t k := by
  induction vs generalizing t a with
  | nil => rfl
  | cons v r ih =>
    rw [List.length_cons] at h
    simp only [twrite]
    rw [ih (tput t a v) (a := a + 1) (by omega), tget_tput_ne t v (by omega)]

/-- A read inside a write gives the value written there. -/
theorem tget_twrite_in (vs : List α) (t : Tab α) (a i : Nat) (h : i < vs.length) :
    tget (twrite t a vs) (a + i) = vs[i] := by
  induction vs generalizing t a i with
  | nil => exact absurd h (Nat.not_lt_zero i)
  | cons v r ih =>
    simp only [twrite]
    cases i with
    | zero =>
      rw [tget_twrite_out r (tput t a v) (a := a + 1) (by omega)]
      exact tget_tput_same t a v
    | succ i =>
      have := ih (tput t a v) (a + 1) i (by simpa using h)
      rw [show a + (i + 1) = a + 1 + i by omega, this]
      rfl

omit [DecidableEq α] in
theorem tread_length (t : Tab α) (a n : Nat) : (tread t a n).length = n := by
  induction n generalizing a with
  | zero => rfl
  | succ n ih => simp [tread, ih]

/-- Reading what was written gives the bytes back. -/
theorem tread_twrite (vs : List α) (t : Tab α) (a : Nat) : tread (twrite t a vs) a vs.length = vs := by
  induction vs generalizing t a with
  | nil => rfl
  | cons v r ih =>
    simp only [List.length_cons, tread, twrite]
    rw [tget_twrite_out r (tput t a v) (a := a + 1) (by omega), tget_tput_same t a v, ih (tput t a v) (a + 1)]

/-- A read apart from a write gives what it gave before. -/
theorem tread_twrite_out (vs : List α) (t : Tab α) {a b n : Nat} (h : b + n ≤ a ∨ a + vs.length ≤ b) :
    tread (twrite t a vs) b n = tread t b n := by
  induction n generalizing b with
  | zero => rfl
  | succ n ih =>
    simp only [tread]
    rw [tget_twrite_out vs t (by omega), ih (by omega)]

end Sys2Proof.Machine
end

