-- ==== Sys2Proof/Laws/State.lean ====
section
/-! SUPPORT. One lemma per field of `State` for each update of one of its records, and the laws of the counters and of the memory
operations that change one field. -/

namespace Sys2Proof.Machine

@[simp] theorem modParty_pending (s : State) (p : Nat) (f : PartySt → PartySt) : (modParty s p f).pending = s.pending := rfl
@[simp] theorem modParty_part (s : State) (p : Nat) (f : PartySt → PartySt) : (modParty s p f).part = s.part := rfl
@[simp] theorem modParty_ktime (s : State) (p : Nat) (f : PartySt → PartySt) : (modParty s p f).ktime = s.ktime := rfl
@[simp] theorem modParty_fresh (s : State) (p : Nat) (f : PartySt → PartySt) : (modParty s p f).fresh = s.fresh := rfl
@[simp] theorem modParty_resp (s : State) (p : Nat) (f : PartySt → PartySt) : (modParty s p f).resp = s.resp := rfl
@[simp] theorem modParty_caddy (s : State) (p : Nat) (f : PartySt → PartySt) : (modParty s p f).caddy = s.caddy := rfl
@[simp] theorem modParty_queue (s : State) (p : Nat) (f : PartySt → PartySt) : (modParty s p f).queue = s.queue := rfl
@[simp] theorem modParty_lv (s : State) (p : Nat) (f : PartySt → PartySt) : (modParty s p f).lv = s.lv := rfl
@[simp] theorem modParty_jobs (s : State) (p : Nat) (f : PartySt → PartySt) : (modParty s p f).jobs = s.jobs := rfl
@[simp] theorem modParty_pw (s : State) (p : Nat) (f : PartySt → PartySt) : (modParty s p f).pw = s.pw := rfl
@[simp] theorem modParty_mem (s : State) (p : Nat) (f : PartySt → PartySt) : (modParty s p f).mem = s.mem := rfl
@[simp] theorem modParty_safe (s : State) (p : Nat) (f : PartySt → PartySt) : (modParty s p f).safe = s.safe := rfl
@[simp] theorem modParty_world (s : State) (p : Nat) (f : PartySt → PartySt) : (modParty s p f).world = s.world := rfl
@[simp] theorem modParty_media (s : State) (p : Nat) (f : PartySt → PartySt) : (modParty s p f).media = s.media := rfl
@[simp] theorem modParty_boot (s : State) (p : Nat) (f : PartySt → PartySt) : (modParty s p f).boot = s.boot := rfl
@[simp] theorem modParty_cap (s : State) (p : Nat) (f : PartySt → PartySt) : (modParty s p f).cap = s.cap := rfl
@[simp] theorem modParty_gw (s : State) (p : Nat) (f : PartySt → PartySt) : (modParty s p f).gw = s.gw := rfl
@[simp] theorem modParty_field (s : State) (p : Nat) (f : PartySt → PartySt) : (modParty s p f).field = s.field := rfl
@[simp] theorem modParty_io (s : State) (p : Nat) (f : PartySt → PartySt) : (modParty s p f).io = s.io := rfl
@[simp] theorem modParty_cross (s : State) (p : Nat) (f : PartySt → PartySt) : (modParty s p f).cross = s.cross := rfl
@[simp] theorem modParty_firm (s : State) (p : Nat) (f : PartySt → PartySt) : (modParty s p f).firm = s.firm := rfl

@[simp] theorem modQ_pending (s : State) (q : Nat) (f : Queue → Queue) : (modQ s q f).pending = s.pending := rfl
@[simp] theorem modQ_part (s : State) (q : Nat) (f : Queue → Queue) : (modQ s q f).part = s.part := rfl
@[simp] theorem modQ_ktime (s : State) (q : Nat) (f : Queue → Queue) : (modQ s q f).ktime = s.ktime := rfl
@[simp] theorem modQ_fresh (s : State) (q : Nat) (f : Queue → Queue) : (modQ s q f).fresh = s.fresh := rfl
@[simp] theorem modQ_resp (s : State) (q : Nat) (f : Queue → Queue) : (modQ s q f).resp = s.resp := rfl
@[simp] theorem modQ_caddy (s : State) (q : Nat) (f : Queue → Queue) : (modQ s q f).caddy = s.caddy := rfl
@[simp] theorem modQ_party (s : State) (q : Nat) (f : Queue → Queue) : (modQ s q f).party = s.party := rfl
@[simp] theorem modQ_lv (s : State) (q : Nat) (f : Queue → Queue) : (modQ s q f).lv = s.lv := rfl
@[simp] theorem modQ_jobs (s : State) (q : Nat) (f : Queue → Queue) : (modQ s q f).jobs = s.jobs := rfl
@[simp] theorem modQ_pw (s : State) (q : Nat) (f : Queue → Queue) : (modQ s q f).pw = s.pw := rfl
@[simp] theorem modQ_mem (s : State) (q : Nat) (f : Queue → Queue) : (modQ s q f).mem = s.mem := rfl
@[simp] theorem modQ_safe (s : State) (q : Nat) (f : Queue → Queue) : (modQ s q f).safe = s.safe := rfl
@[simp] theorem modQ_world (s : State) (q : Nat) (f : Queue → Queue) : (modQ s q f).world = s.world := rfl
@[simp] theorem modQ_media (s : State) (q : Nat) (f : Queue → Queue) : (modQ s q f).media = s.media := rfl
@[simp] theorem modQ_boot (s : State) (q : Nat) (f : Queue → Queue) : (modQ s q f).boot = s.boot := rfl
@[simp] theorem modQ_cap (s : State) (q : Nat) (f : Queue → Queue) : (modQ s q f).cap = s.cap := rfl
@[simp] theorem modQ_gw (s : State) (q : Nat) (f : Queue → Queue) : (modQ s q f).gw = s.gw := rfl
@[simp] theorem modQ_field (s : State) (q : Nat) (f : Queue → Queue) : (modQ s q f).field = s.field := rfl
@[simp] theorem modQ_io (s : State) (q : Nat) (f : Queue → Queue) : (modQ s q f).io = s.io := rfl
@[simp] theorem modQ_cross (s : State) (q : Nat) (f : Queue → Queue) : (modQ s q f).cross = s.cross := rfl
@[simp] theorem modQ_firm (s : State) (q : Nat) (f : Queue → Queue) : (modQ s q f).firm = s.firm := rfl

@[simp] theorem modEst_pending (s : State) (e : Nat) (f : Estate → Estate) : (modEst s e f).pending = s.pending := rfl
@[simp] theorem modEst_part (s : State) (e : Nat) (f : Estate → Estate) : (modEst s e f).part = s.part := rfl
@[simp] theorem modEst_ktime (s : State) (e : Nat) (f : Estate → Estate) : (modEst s e f).ktime = s.ktime := rfl
@[simp] theorem modEst_fresh (s : State) (e : Nat) (f : Estate → Estate) : (modEst s e f).fresh = s.fresh := rfl
@[simp] theorem modEst_resp (s : State) (e : Nat) (f : Estate → Estate) : (modEst s e f).resp = s.resp := rfl
@[simp] theorem modEst_caddy (s : State) (e : Nat) (f : Estate → Estate) : (modEst s e f).caddy = s.caddy := rfl
@[simp] theorem modEst_party (s : State) (e : Nat) (f : Estate → Estate) : (modEst s e f).party = s.party := rfl
@[simp] theorem modEst_queue (s : State) (e : Nat) (f : Estate → Estate) : (modEst s e f).queue = s.queue := rfl
@[simp] theorem modEst_lv (s : State) (e : Nat) (f : Estate → Estate) : (modEst s e f).lv = s.lv := rfl
@[simp] theorem modEst_pw (s : State) (e : Nat) (f : Estate → Estate) : (modEst s e f).pw = s.pw := rfl
@[simp] theorem modEst_mem (s : State) (e : Nat) (f : Estate → Estate) : (modEst s e f).mem = s.mem := rfl
@[simp] theorem modEst_safe (s : State) (e : Nat) (f : Estate → Estate) : (modEst s e f).safe = s.safe := rfl
@[simp] theorem modEst_world (s : State) (e : Nat) (f : Estate → Estate) : (modEst s e f).world = s.world := rfl
@[simp] theorem modEst_media (s : State) (e : Nat) (f : Estate → Estate) : (modEst s e f).media = s.media := rfl
@[simp] theorem modEst_boot (s : State) (e : Nat) (f : Estate → Estate) : (modEst s e f).boot = s.boot := rfl
@[simp] theorem modEst_cap (s : State) (e : Nat) (f : Estate → Estate) : (modEst s e f).cap = s.cap := rfl
@[simp] theorem modEst_gw (s : State) (e : Nat) (f : Estate → Estate) : (modEst s e f).gw = s.gw := rfl
@[simp] theorem modEst_field (s : State) (e : Nat) (f : Estate → Estate) : (modEst s e f).field = s.field := rfl
@[simp] theorem modEst_io (s : State) (e : Nat) (f : Estate → Estate) : (modEst s e f).io = s.io := rfl
@[simp] theorem modEst_cross (s : State) (e : Nat) (f : Estate → Estate) : (modEst s e f).cross = s.cross := rfl
@[simp] theorem modEst_firm (s : State) (e : Nat) (f : Estate → Estate) : (modEst s e f).firm = s.firm := rfl
@[simp] theorem modEst_jobs_tmpls (s : State) (e : Nat) (f : Estate → Estate) : (modEst s e f).jobs.tmpls = s.jobs.tmpls := rfl
@[simp] theorem modEst_jobs_waiting (s : State) (e : Nat) (f : Estate → Estate) : (modEst s e f).jobs.waiting = s.jobs.waiting := rfl
@[simp] theorem modEst_jobs_watches (s : State) (e : Nat) (f : Estate → Estate) : (modEst s e f).jobs.watches = s.jobs.watches := rfl
@[simp] theorem modEst_jobs_heldQ (s : State) (e : Nat) (f : Estate → Estate) : (modEst s e f).jobs.heldQ = s.jobs.heldQ := rfl
@[simp] theorem modEst_jobs_recovery (s : State) (e : Nat) (f : Estate → Estate) : (modEst s e f).jobs.recovery = s.jobs.recovery := rfl
@[simp] theorem modEst_jobs_recAt (s : State) (e : Nat) (f : Estate → Estate) : (modEst s e f).jobs.recAt = s.jobs.recAt := rfl
@[simp] theorem modEst_jobs_pairs (s : State) (e : Nat) (f : Estate → Estate) : (modEst s e f).jobs.pairs = s.jobs.pairs := rfl
@[simp] theorem modEst_jobs_pairPend (s : State) (e : Nat) (f : Estate → Estate) : (modEst s e f).jobs.pairPend = s.jobs.pairPend := rfl
@[simp] theorem modEst_jobs_reports (s : State) (e : Nat) (f : Estate → Estate) : (modEst s e f).jobs.reports = s.jobs.reports := rfl
@[simp] theorem modEst_jobs_localise (s : State) (e : Nat) (f : Estate → Estate) : (modEst s e f).jobs.localise = s.jobs.localise := rfl
@[simp] theorem modEst_jobs_mismatches (s : State) (e : Nat) (f : Estate → Estate) : (modEst s e f).jobs.mismatches = s.jobs.mismatches := rfl
@[simp] theorem modEst_jobs_skipped (s : State) (e : Nat) (f : Estate → Estate) : (modEst s e f).jobs.skipped = s.jobs.skipped := rfl
@[simp] theorem modEst_jobs_securePend (s : State) (e : Nat) (f : Estate → Estate) : (modEst s e f).jobs.securePend = s.jobs.securePend := rfl
@[simp] theorem modEst_jobs_idleSince (s : State) (e : Nat) (f : Estate → Estate) : (modEst s e f).jobs.idleSince = s.jobs.idleSince := rfl
@[simp] theorem modEst_jobs_lastParty (s : State) (e : Nat) (f : Estate → Estate) : (modEst s e f).jobs.lastParty = s.jobs.lastParty := rfl
@[simp] theorem modEst_jobs_serial (s : State) (e : Nat) (f : Estate → Estate) : (modEst s e f).jobs.serial = s.jobs.serial := rfl
@[simp] theorem modEst_jobs_imageId (s : State) (e : Nat) (f : Estate → Estate) : (modEst s e f).jobs.imageId = s.jobs.imageId := rfl

@[simp] theorem modLeaf_pending (s : State) (l : Nat) (f : Leaf → Leaf) : (modLeaf s l f).pending = s.pending := rfl
@[simp] theorem modLeaf_part (s : State) (l : Nat) (f : Leaf → Leaf) : (modLeaf s l f).part = s.part := rfl
@[simp] theorem modLeaf_ktime (s : State) (l : Nat) (f : Leaf → Leaf) : (modLeaf s l f).ktime = s.ktime := rfl
@[simp] theorem modLeaf_fresh (s : State) (l : Nat) (f : Leaf → Leaf) : (modLeaf s l f).fresh = s.fresh := rfl
@[simp] theorem modLeaf_resp (s : State) (l : Nat) (f : Leaf → Leaf) : (modLeaf s l f).resp = s.resp := rfl
@[simp] theorem modLeaf_caddy (s : State) (l : Nat) (f : Leaf → Leaf) : (modLeaf s l f).caddy = s.caddy := rfl
@[simp] theorem modLeaf_party (s : State) (l : Nat) (f : Leaf → Leaf) : (modLeaf s l f).party = s.party := rfl
@[simp] theorem modLeaf_queue (s : State) (l : Nat) (f : Leaf → Leaf) : (modLeaf s l f).queue = s.queue := rfl
@[simp] theorem modLeaf_jobs (s : State) (l : Nat) (f : Leaf → Leaf) : (modLeaf s l f).jobs = s.jobs := rfl
@[simp] theorem modLeaf_pw (s : State) (l : Nat) (f : Leaf → Leaf) : (modLeaf s l f).pw = s.pw := rfl
@[simp] theorem modLeaf_mem (s : State) (l : Nat) (f : Leaf → Leaf) : (modLeaf s l f).mem = s.mem := rfl
@[simp] theorem modLeaf_safe (s : State) (l : Nat) (f : Leaf → Leaf) : (modLeaf s l f).safe = s.safe := rfl
@[simp] theorem modLeaf_world (s : State) (l : Nat) (f : Leaf → Leaf) : (modLeaf s l f).world = s.world := rfl
@[simp] theorem modLeaf_media (s : State) (l : Nat) (f : Leaf → Leaf) : (modLeaf s l f).media = s.media := rfl
@[simp] theorem modLeaf_boot (s : State) (l : Nat) (f : Leaf → Leaf) : (modLeaf s l f).boot = s.boot := rfl
@[simp] theorem modLeaf_cap (s : State) (l : Nat) (f : Leaf → Leaf) : (modLeaf s l f).cap = s.cap := rfl
@[simp] theorem modLeaf_gw (s : State) (l : Nat) (f : Leaf → Leaf) : (modLeaf s l f).gw = s.gw := rfl
@[simp] theorem modLeaf_field (s : State) (l : Nat) (f : Leaf → Leaf) : (modLeaf s l f).field = s.field := rfl
@[simp] theorem modLeaf_io (s : State) (l : Nat) (f : Leaf → Leaf) : (modLeaf s l f).io = s.io := rfl
@[simp] theorem modLeaf_cross (s : State) (l : Nat) (f : Leaf → Leaf) : (modLeaf s l f).cross = s.cross := rfl
@[simp] theorem modLeaf_firm (s : State) (l : Nat) (f : Leaf → Leaf) : (modLeaf s l f).firm = s.firm := rfl
@[simp] theorem modLeaf_lv_threads (s : State) (l : Nat) (f : Leaf → Leaf) : (modLeaf s l f).lv.threads = s.lv.threads := rfl
@[simp] theorem modLeaf_lv_vregs (s : State) (l : Nat) (f : Leaf → Leaf) : (modLeaf s l f).lv.vregs = s.lv.vregs := rfl
@[simp] theorem modLeaf_lv_acc (s : State) (l : Nat) (f : Leaf → Leaf) : (modLeaf s l f).lv.acc = s.lv.acc := rfl
@[simp] theorem modLeaf_lv_accFlags (s : State) (l : Nat) (f : Leaf → Leaf) : (modLeaf s l f).lv.accFlags = s.lv.accFlags := rfl
@[simp] theorem modLeaf_lv_lineTag (s : State) (l : Nat) (f : Leaf → Leaf) : (modLeaf s l f).lv.lineTag = s.lv.lineTag := rfl
@[simp] theorem modLeaf_lv_badByte (s : State) (l : Nat) (f : Leaf → Leaf) : (modLeaf s l f).lv.badByte = s.lv.badByte := rfl
@[simp] theorem modLeaf_lv_badReg (s : State) (l : Nat) (f : Leaf → Leaf) : (modLeaf s l f).lv.badReg = s.lv.badReg := rfl
@[simp] theorem modLeaf_lv_badVec (s : State) (l : Nat) (f : Leaf → Leaf) : (modLeaf s l f).lv.badVec = s.lv.badVec := rfl
@[simp] theorem modLeaf_lv_badAcc (s : State) (l : Nat) (f : Leaf → Leaf) : (modLeaf s l f).lv.badAcc = s.lv.badAcc := rfl
@[simp] theorem modLeaf_lv_badShadow (s : State) (l : Nat) (f : Leaf → Leaf) : (modLeaf s l f).lv.badShadow = s.lv.badShadow := rfl
@[simp] theorem modLeaf_lv_badLog (s : State) (l : Nat) (f : Leaf → Leaf) : (modLeaf s l f).lv.badLog = s.lv.badLog := rfl

@[simp] theorem modTh_pending (s : State) (k : Nat) (f : Thread → Thread) : (modTh s k f).pending = s.pending := rfl
@[simp] theorem modTh_part (s : State) (k : Nat) (f : Thread → Thread) : (modTh s k f).part = s.part := rfl
@[simp] theorem modTh_ktime (s : State) (k : Nat) (f : Thread → Thread) : (modTh s k f).ktime = s.ktime := rfl
@[simp] theorem modTh_fresh (s : State) (k : Nat) (f : Thread → Thread) : (modTh s k f).fresh = s.fresh := rfl
@[simp] theorem modTh_resp (s : State) (k : Nat) (f : Thread → Thread) : (modTh s k f).resp = s.resp := rfl
@[simp] theorem modTh_caddy (s : State) (k : Nat) (f : Thread → Thread) : (modTh s k f).caddy = s.caddy := rfl
@[simp] theorem modTh_party (s : State) (k : Nat) (f : Thread → Thread) : (modTh s k f).party = s.party := rfl
@[simp] theorem modTh_queue (s : State) (k : Nat) (f : Thread → Thread) : (modTh s k f).queue = s.queue := rfl
@[simp] theorem modTh_jobs (s : State) (k : Nat) (f : Thread → Thread) : (modTh s k f).jobs = s.jobs := rfl
@[simp] theorem modTh_pw (s : State) (k : Nat) (f : Thread → Thread) : (modTh s k f).pw = s.pw := rfl
@[simp] theorem modTh_mem (s : State) (k : Nat) (f : Thread → Thread) : (modTh s k f).mem = s.mem := rfl
@[simp] theorem modTh_safe (s : State) (k : Nat) (f : Thread → Thread) : (modTh s k f).safe = s.safe := rfl
@[simp] theorem modTh_world (s : State) (k : Nat) (f : Thread → Thread) : (modTh s k f).world = s.world := rfl
@[simp] theorem modTh_media (s : State) (k : Nat) (f : Thread → Thread) : (modTh s k f).media = s.media := rfl
@[simp] theorem modTh_boot (s : State) (k : Nat) (f : Thread → Thread) : (modTh s k f).boot = s.boot := rfl
@[simp] theorem modTh_cap (s : State) (k : Nat) (f : Thread → Thread) : (modTh s k f).cap = s.cap := rfl
@[simp] theorem modTh_gw (s : State) (k : Nat) (f : Thread → Thread) : (modTh s k f).gw = s.gw := rfl
@[simp] theorem modTh_field (s : State) (k : Nat) (f : Thread → Thread) : (modTh s k f).field = s.field := rfl
@[simp] theorem modTh_io (s : State) (k : Nat) (f : Thread → Thread) : (modTh s k f).io = s.io := rfl
@[simp] theorem modTh_cross (s : State) (k : Nat) (f : Thread → Thread) : (modTh s k f).cross = s.cross := rfl
@[simp] theorem modTh_firm (s : State) (k : Nat) (f : Thread → Thread) : (modTh s k f).firm = s.firm := rfl
@[simp] theorem modTh_lv_leaf (s : State) (k : Nat) (f : Thread → Thread) : (modTh s k f).lv.leaf = s.lv.leaf := rfl
@[simp] theorem modTh_lv_vregs (s : State) (k : Nat) (f : Thread → Thread) : (modTh s k f).lv.vregs = s.lv.vregs := rfl
@[simp] theorem modTh_lv_acc (s : State) (k : Nat) (f : Thread → Thread) : (modTh s k f).lv.acc = s.lv.acc := rfl
@[simp] theorem modTh_lv_accFlags (s : State) (k : Nat) (f : Thread → Thread) : (modTh s k f).lv.accFlags = s.lv.accFlags := rfl
@[simp] theorem modTh_lv_lineTag (s : State) (k : Nat) (f : Thread → Thread) : (modTh s k f).lv.lineTag = s.lv.lineTag := rfl
@[simp] theorem modTh_lv_badByte (s : State) (k : Nat) (f : Thread → Thread) : (modTh s k f).lv.badByte = s.lv.badByte := rfl
@[simp] theorem modTh_lv_badReg (s : State) (k : Nat) (f : Thread → Thread) : (modTh s k f).lv.badReg = s.lv.badReg := rfl
@[simp] theorem modTh_lv_badVec (s : State) (k : Nat) (f : Thread → Thread) : (modTh s k f).lv.badVec = s.lv.badVec := rfl
@[simp] theorem modTh_lv_badAcc (s : State) (k : Nat) (f : Thread → Thread) : (modTh s k f).lv.badAcc = s.lv.badAcc := rfl
@[simp] theorem modTh_lv_badShadow (s : State) (k : Nat) (f : Thread → Thread) : (modTh s k f).lv.badShadow = s.lv.badShadow := rfl
@[simp] theorem modTh_lv_badLog (s : State) (k : Nat) (f : Thread → Thread) : (modTh s k f).lv.badLog = s.lv.badLog := rfl

@[simp] theorem modCg_pending (s : State) (c : Nat) (f : Cg → Cg) : (modCg s c f).pending = s.pending := rfl
@[simp] theorem modCg_part (s : State) (c : Nat) (f : Cg → Cg) : (modCg s c f).part = s.part := rfl
@[simp] theorem modCg_ktime (s : State) (c : Nat) (f : Cg → Cg) : (modCg s c f).ktime = s.ktime := rfl
@[simp] theorem modCg_fresh (s : State) (c : Nat) (f : Cg → Cg) : (modCg s c f).fresh = s.fresh := rfl
@[simp] theorem modCg_resp (s : State) (c : Nat) (f : Cg → Cg) : (modCg s c f).resp = s.resp := rfl
@[simp] theorem modCg_caddy (s : State) (c : Nat) (f : Cg → Cg) : (modCg s c f).caddy = s.caddy := rfl
@[simp] theorem modCg_party (s : State) (c : Nat) (f : Cg → Cg) : (modCg s c f).party = s.party := rfl
@[simp] theorem modCg_queue (s : State) (c : Nat) (f : Cg → Cg) : (modCg s c f).queue = s.queue := rfl
@[simp] theorem modCg_lv (s : State) (c : Nat) (f : Cg → Cg) : (modCg s c f).lv = s.lv := rfl
@[simp] theorem modCg_jobs (s : State) (c : Nat) (f : Cg → Cg) : (modCg s c f).jobs = s.jobs := rfl
@[simp] theorem modCg_pw (s : State) (c : Nat) (f : Cg → Cg) : (modCg s c f).pw = s.pw := rfl
@[simp] theorem modCg_safe (s : State) (c : Nat) (f : Cg → Cg) : (modCg s c f).safe = s.safe := rfl
@[simp] theorem modCg_world (s : State) (c : Nat) (f : Cg → Cg) : (modCg s c f).world = s.world := rfl
@[simp] theorem modCg_media (s : State) (c : Nat) (f : Cg → Cg) : (modCg s c f).media = s.media := rfl
@[simp] theorem modCg_boot (s : State) (c : Nat) (f : Cg → Cg) : (modCg s c f).boot = s.boot := rfl
@[simp] theorem modCg_cap (s : State) (c : Nat) (f : Cg → Cg) : (modCg s c f).cap = s.cap := rfl
@[simp] theorem modCg_gw (s : State) (c : Nat) (f : Cg → Cg) : (modCg s c f).gw = s.gw := rfl
@[simp] theorem modCg_field (s : State) (c : Nat) (f : Cg → Cg) : (modCg s c f).field = s.field := rfl
@[simp] theorem modCg_io (s : State) (c : Nat) (f : Cg → Cg) : (modCg s c f).io = s.io := rfl
@[simp] theorem modCg_cross (s : State) (c : Nat) (f : Cg → Cg) : (modCg s c f).cross = s.cross := rfl
@[simp] theorem modCg_firm (s : State) (c : Nat) (f : Cg → Cg) : (modCg s c f).firm = s.firm := rfl
@[simp] theorem modCg_mem_cells (s : State) (c : Nat) (f : Cg → Cg) : (modCg s c f).mem.cells = s.mem.cells := rfl
@[simp] theorem modCg_mem_lineErr (s : State) (c : Nat) (f : Cg → Cg) : (modCg s c f).mem.lineErr = s.mem.lineErr := rfl
@[simp] theorem modCg_mem_linkErr (s : State) (c : Nat) (f : Cg → Cg) : (modCg s c f).mem.linkErr = s.mem.linkErr := rfl
@[simp] theorem modCg_mem_cache (s : State) (c : Nat) (f : Cg → Cg) : (modCg s c f).mem.cache = s.mem.cache := rfl
@[simp] theorem modCg_mem_plru (s : State) (c : Nat) (f : Cg → Cg) : (modCg s c f).mem.plru = s.mem.plru := rfl
@[simp] theorem modCg_mem_snoop (s : State) (c : Nat) (f : Cg → Cg) : (modCg s c f).mem.snoop = s.mem.snoop := rfl
@[simp] theorem modCg_mem_ranges (s : State) (c : Nat) (f : Cg → Cg) : (modCg s c f).mem.ranges = s.mem.ranges := rfl
@[simp] theorem modCg_mem_ops (s : State) (c : Nat) (f : Cg → Cg) : (modCg s c f).mem.ops = s.mem.ops := rfl
@[simp] theorem modCg_mem_zeroing (s : State) (c : Nat) (f : Cg → Cg) : (modCg s c f).mem.zeroing = s.mem.zeroing := rfl
@[simp] theorem modCg_mem_lastOwner (s : State) (c : Nat) (f : Cg → Cg) : (modCg s c f).mem.lastOwner = s.mem.lastOwner := rfl
@[simp] theorem modCg_mem_unzeroed (s : State) (c : Nat) (f : Cg → Cg) : (modCg s c f).mem.unzeroed = s.mem.unzeroed := rfl
@[simp] theorem modCg_mem_flitCorr (s : State) (c : Nat) (f : Cg → Cg) : (modCg s c f).mem.flitCorr = s.mem.flitCorr := rfl
@[simp] theorem modCg_mem_sramCorr (s : State) (c : Nat) (f : Cg → Cg) : (modCg s c f).mem.sramCorr = s.mem.sramCorr := rfl
@[simp] theorem modCg_mem_fabricErr (s : State) (c : Nat) (f : Cg → Cg) : (modCg s c f).mem.fabricErr = s.mem.fabricErr := rfl

@[simp] theorem modRange_pending (s : State) (r : Nat) (f : SRange → SRange) : (modRange s r f).pending = s.pending := rfl
@[simp] theorem modRange_part (s : State) (r : Nat) (f : SRange → SRange) : (modRange s r f).part = s.part := rfl
@[simp] theorem modRange_ktime (s : State) (r : Nat) (f : SRange → SRange) : (modRange s r f).ktime = s.ktime := rfl
@[simp] theorem modRange_fresh (s : State) (r : Nat) (f : SRange → SRange) : (modRange s r f).fresh = s.fresh := rfl
@[simp] theorem modRange_resp (s : State) (r : Nat) (f : SRange → SRange) : (modRange s r f).resp = s.resp := rfl
@[simp] theorem modRange_caddy (s : State) (r : Nat) (f : SRange → SRange) : (modRange s r f).caddy = s.caddy := rfl
@[simp] theorem modRange_party (s : State) (r : Nat) (f : SRange → SRange) : (modRange s r f).party = s.party := rfl
@[simp] theorem modRange_queue (s : State) (r : Nat) (f : SRange → SRange) : (modRange s r f).queue = s.queue := rfl
@[simp] theorem modRange_lv (s : State) (r : Nat) (f : SRange → SRange) : (modRange s r f).lv = s.lv := rfl
@[simp] theorem modRange_jobs (s : State) (r : Nat) (f : SRange → SRange) : (modRange s r f).jobs = s.jobs := rfl
@[simp] theorem modRange_pw (s : State) (r : Nat) (f : SRange → SRange) : (modRange s r f).pw = s.pw := rfl
@[simp] theorem modRange_safe (s : State) (r : Nat) (f : SRange → SRange) : (modRange s r f).safe = s.safe := rfl
@[simp] theorem modRange_world (s : State) (r : Nat) (f : SRange → SRange) : (modRange s r f).world = s.world := rfl
@[simp] theorem modRange_media (s : State) (r : Nat) (f : SRange → SRange) : (modRange s r f).media = s.media := rfl
@[simp] theorem modRange_boot (s : State) (r : Nat) (f : SRange → SRange) : (modRange s r f).boot = s.boot := rfl
@[simp] theorem modRange_cap (s : State) (r : Nat) (f : SRange → SRange) : (modRange s r f).cap = s.cap := rfl
@[simp] theorem modRange_gw (s : State) (r : Nat) (f : SRange → SRange) : (modRange s r f).gw = s.gw := rfl
@[simp] theorem modRange_field (s : State) (r : Nat) (f : SRange → SRange) : (modRange s r f).field = s.field := rfl
@[simp] theorem modRange_io (s : State) (r : Nat) (f : SRange → SRange) : (modRange s r f).io = s.io := rfl
@[simp] theorem modRange_cross (s : State) (r : Nat) (f : SRange → SRange) : (modRange s r f).cross = s.cross := rfl
@[simp] theorem modRange_firm (s : State) (r : Nat) (f : SRange → SRange) : (modRange s r f).firm = s.firm := rfl
@[simp] theorem modRange_mem_cells (s : State) (r : Nat) (f : SRange → SRange) : (modRange s r f).mem.cells = s.mem.cells := rfl
@[simp] theorem modRange_mem_lineErr (s : State) (r : Nat) (f : SRange → SRange) : (modRange s r f).mem.lineErr = s.mem.lineErr := rfl
@[simp] theorem modRange_mem_linkErr (s : State) (r : Nat) (f : SRange → SRange) : (modRange s r f).mem.linkErr = s.mem.linkErr := rfl
@[simp] theorem modRange_mem_cache (s : State) (r : Nat) (f : SRange → SRange) : (modRange s r f).mem.cache = s.mem.cache := rfl
@[simp] theorem modRange_mem_plru (s : State) (r : Nat) (f : SRange → SRange) : (modRange s r f).mem.plru = s.mem.plru := rfl
@[simp] theorem modRange_mem_snoop (s : State) (r : Nat) (f : SRange → SRange) : (modRange s r f).mem.snoop = s.mem.snoop := rfl
@[simp] theorem modRange_mem_cg (s : State) (r : Nat) (f : SRange → SRange) : (modRange s r f).mem.cg = s.mem.cg := rfl
@[simp] theorem modRange_mem_ops (s : State) (r : Nat) (f : SRange → SRange) : (modRange s r f).mem.ops = s.mem.ops := rfl
@[simp] theorem modRange_mem_zeroing (s : State) (r : Nat) (f : SRange → SRange) : (modRange s r f).mem.zeroing = s.mem.zeroing := rfl
@[simp] theorem modRange_mem_lastOwner (s : State) (r : Nat) (f : SRange → SRange) : (modRange s r f).mem.lastOwner = s.mem.lastOwner := rfl
@[simp] theorem modRange_mem_unzeroed (s : State) (r : Nat) (f : SRange → SRange) : (modRange s r f).mem.unzeroed = s.mem.unzeroed := rfl
@[simp] theorem modRange_mem_flitCorr (s : State) (r : Nat) (f : SRange → SRange) : (modRange s r f).mem.flitCorr = s.mem.flitCorr := rfl
@[simp] theorem modRange_mem_sramCorr (s : State) (r : Nat) (f : SRange → SRange) : (modRange s r f).mem.sramCorr = s.mem.sramCorr := rfl
@[simp] theorem modRange_mem_fabricErr (s : State) (r : Nat) (f : SRange → SRange) : (modRange s r f).mem.fabricErr = s.mem.fabricErr := rfl

@[simp] theorem modBoot_pending (s : State) (f : Boot → Boot) : (modBoot s f).pending = s.pending := rfl
@[simp] theorem modBoot_part (s : State) (f : Boot → Boot) : (modBoot s f).part = s.part := rfl
@[simp] theorem modBoot_ktime (s : State) (f : Boot → Boot) : (modBoot s f).ktime = s.ktime := rfl
@[simp] theorem modBoot_fresh (s : State) (f : Boot → Boot) : (modBoot s f).fresh = s.fresh := rfl
@[simp] theorem modBoot_resp (s : State) (f : Boot → Boot) : (modBoot s f).resp = s.resp := rfl
@[simp] theorem modBoot_caddy (s : State) (f : Boot → Boot) : (modBoot s f).caddy = s.caddy := rfl
@[simp] theorem modBoot_party (s : State) (f : Boot → Boot) : (modBoot s f).party = s.party := rfl
@[simp] theorem modBoot_queue (s : State) (f : Boot → Boot) : (modBoot s f).queue = s.queue := rfl
@[simp] theorem modBoot_lv (s : State) (f : Boot → Boot) : (modBoot s f).lv = s.lv := rfl
@[simp] theorem modBoot_jobs (s : State) (f : Boot → Boot) : (modBoot s f).jobs = s.jobs := rfl
@[simp] theorem modBoot_pw (s : State) (f : Boot → Boot) : (modBoot s f).pw = s.pw := rfl
@[simp] theorem modBoot_mem (s : State) (f : Boot → Boot) : (modBoot s f).mem = s.mem := rfl
@[simp] theorem modBoot_safe (s : State) (f : Boot → Boot) : (modBoot s f).safe = s.safe := rfl
@[simp] theorem modBoot_world (s : State) (f : Boot → Boot) : (modBoot s f).world = s.world := rfl
@[simp] theorem modBoot_media (s : State) (f : Boot → Boot) : (modBoot s f).media = s.media := rfl
@[simp] theorem modBoot_cap (s : State) (f : Boot → Boot) : (modBoot s f).cap = s.cap := rfl
@[simp] theorem modBoot_gw (s : State) (f : Boot → Boot) : (modBoot s f).gw = s.gw := rfl
@[simp] theorem modBoot_field (s : State) (f : Boot → Boot) : (modBoot s f).field = s.field := rfl
@[simp] theorem modBoot_io (s : State) (f : Boot → Boot) : (modBoot s f).io = s.io := rfl
@[simp] theorem modBoot_cross (s : State) (f : Boot → Boot) : (modBoot s f).cross = s.cross := rfl
@[simp] theorem modBoot_firm (s : State) (f : Boot → Boot) : (modBoot s f).firm = s.firm := rfl

@[simp] theorem modPw_pending (s : State) (f : Power → Power) : (modPw s f).pending = s.pending := rfl
@[simp] theorem modPw_part (s : State) (f : Power → Power) : (modPw s f).part = s.part := rfl
@[simp] theorem modPw_ktime (s : State) (f : Power → Power) : (modPw s f).ktime = s.ktime := rfl
@[simp] theorem modPw_fresh (s : State) (f : Power → Power) : (modPw s f).fresh = s.fresh := rfl
@[simp] theorem modPw_resp (s : State) (f : Power → Power) : (modPw s f).resp = s.resp := rfl
@[simp] theorem modPw_caddy (s : State) (f : Power → Power) : (modPw s f).caddy = s.caddy := rfl
@[simp] theorem modPw_party (s : State) (f : Power → Power) : (modPw s f).party = s.party := rfl
@[simp] theorem modPw_queue (s : State) (f : Power → Power) : (modPw s f).queue = s.queue := rfl
@[simp] theorem modPw_lv (s : State) (f : Power → Power) : (modPw s f).lv = s.lv := rfl
@[simp] theorem modPw_jobs (s : State) (f : Power → Power) : (modPw s f).jobs = s.jobs := rfl
@[simp] theorem modPw_mem (s : State) (f : Power → Power) : (modPw s f).mem = s.mem := rfl
@[simp] theorem modPw_safe (s : State) (f : Power → Power) : (modPw s f).safe = s.safe := rfl
@[simp] theorem modPw_world (s : State) (f : Power → Power) : (modPw s f).world = s.world := rfl
@[simp] theorem modPw_media (s : State) (f : Power → Power) : (modPw s f).media = s.media := rfl
@[simp] theorem modPw_boot (s : State) (f : Power → Power) : (modPw s f).boot = s.boot := rfl
@[simp] theorem modPw_cap (s : State) (f : Power → Power) : (modPw s f).cap = s.cap := rfl
@[simp] theorem modPw_gw (s : State) (f : Power → Power) : (modPw s f).gw = s.gw := rfl
@[simp] theorem modPw_field (s : State) (f : Power → Power) : (modPw s f).field = s.field := rfl
@[simp] theorem modPw_io (s : State) (f : Power → Power) : (modPw s f).io = s.io := rfl
@[simp] theorem modPw_cross (s : State) (f : Power → Power) : (modPw s f).cross = s.cross := rfl
@[simp] theorem modPw_firm (s : State) (f : Power → Power) : (modPw s f).firm = s.firm := rfl

@[simp] theorem modField_pending (s : State) (f : Field → Field) : (modField s f).pending = s.pending := rfl
@[simp] theorem modField_part (s : State) (f : Field → Field) : (modField s f).part = s.part := rfl
@[simp] theorem modField_ktime (s : State) (f : Field → Field) : (modField s f).ktime = s.ktime := rfl
@[simp] theorem modField_fresh (s : State) (f : Field → Field) : (modField s f).fresh = s.fresh := rfl
@[simp] theorem modField_resp (s : State) (f : Field → Field) : (modField s f).resp = s.resp := rfl
@[simp] theorem modField_caddy (s : State) (f : Field → Field) : (modField s f).caddy = s.caddy := rfl
@[simp] theorem modField_party (s : State) (f : Field → Field) : (modField s f).party = s.party := rfl
@[simp] theorem modField_queue (s : State) (f : Field → Field) : (modField s f).queue = s.queue := rfl
@[simp] theorem modField_lv (s : State) (f : Field → Field) : (modField s f).lv = s.lv := rfl
@[simp] theorem modField_jobs (s : State) (f : Field → Field) : (modField s f).jobs = s.jobs := rfl
@[simp] theorem modField_pw (s : State) (f : Field → Field) : (modField s f).pw = s.pw := rfl
@[simp] theorem modField_mem (s : State) (f : Field → Field) : (modField s f).mem = s.mem := rfl
@[simp] theorem modField_safe (s : State) (f : Field → Field) : (modField s f).safe = s.safe := rfl
@[simp] theorem modField_world (s : State) (f : Field → Field) : (modField s f).world = s.world := rfl
@[simp] theorem modField_media (s : State) (f : Field → Field) : (modField s f).media = s.media := rfl
@[simp] theorem modField_boot (s : State) (f : Field → Field) : (modField s f).boot = s.boot := rfl
@[simp] theorem modField_cap (s : State) (f : Field → Field) : (modField s f).cap = s.cap := rfl
@[simp] theorem modField_gw (s : State) (f : Field → Field) : (modField s f).gw = s.gw := rfl
@[simp] theorem modField_io (s : State) (f : Field → Field) : (modField s f).io = s.io := rfl
@[simp] theorem modField_cross (s : State) (f : Field → Field) : (modField s f).cross = s.cross := rfl
@[simp] theorem modField_firm (s : State) (f : Field → Field) : (modField s f).firm = s.firm := rfl

@[simp] theorem modFirm_pending (s : State) (f : Firm → Firm) : (modFirm s f).pending = s.pending := rfl
@[simp] theorem modFirm_part (s : State) (f : Firm → Firm) : (modFirm s f).part = s.part := rfl
@[simp] theorem modFirm_ktime (s : State) (f : Firm → Firm) : (modFirm s f).ktime = s.ktime := rfl
@[simp] theorem modFirm_fresh (s : State) (f : Firm → Firm) : (modFirm s f).fresh = s.fresh := rfl
@[simp] theorem modFirm_resp (s : State) (f : Firm → Firm) : (modFirm s f).resp = s.resp := rfl
@[simp] theorem modFirm_caddy (s : State) (f : Firm → Firm) : (modFirm s f).caddy = s.caddy := rfl
@[simp] theorem modFirm_party (s : State) (f : Firm → Firm) : (modFirm s f).party = s.party := rfl
@[simp] theorem modFirm_queue (s : State) (f : Firm → Firm) : (modFirm s f).queue = s.queue := rfl
@[simp] theorem modFirm_lv (s : State) (f : Firm → Firm) : (modFirm s f).lv = s.lv := rfl
@[simp] theorem modFirm_jobs (s : State) (f : Firm → Firm) : (modFirm s f).jobs = s.jobs := rfl
@[simp] theorem modFirm_pw (s : State) (f : Firm → Firm) : (modFirm s f).pw = s.pw := rfl
@[simp] theorem modFirm_mem (s : State) (f : Firm → Firm) : (modFirm s f).mem = s.mem := rfl
@[simp] theorem modFirm_safe (s : State) (f : Firm → Firm) : (modFirm s f).safe = s.safe := rfl
@[simp] theorem modFirm_world (s : State) (f : Firm → Firm) : (modFirm s f).world = s.world := rfl
@[simp] theorem modFirm_media (s : State) (f : Firm → Firm) : (modFirm s f).media = s.media := rfl
@[simp] theorem modFirm_boot (s : State) (f : Firm → Firm) : (modFirm s f).boot = s.boot := rfl
@[simp] theorem modFirm_cap (s : State) (f : Firm → Firm) : (modFirm s f).cap = s.cap := rfl
@[simp] theorem modFirm_gw (s : State) (f : Firm → Firm) : (modFirm s f).gw = s.gw := rfl
@[simp] theorem modFirm_field (s : State) (f : Firm → Firm) : (modFirm s f).field = s.field := rfl
@[simp] theorem modFirm_io (s : State) (f : Firm → Firm) : (modFirm s f).io = s.io := rfl
@[simp] theorem modFirm_cross (s : State) (f : Firm → Firm) : (modFirm s f).cross = s.cross := rfl

@[simp] theorem modSafe_pending (s : State) (f : Safety → Safety) : (modSafe s f).pending = s.pending := rfl
@[simp] theorem modSafe_part (s : State) (f : Safety → Safety) : (modSafe s f).part = s.part := rfl
@[simp] theorem modSafe_ktime (s : State) (f : Safety → Safety) : (modSafe s f).ktime = s.ktime := rfl
@[simp] theorem modSafe_fresh (s : State) (f : Safety → Safety) : (modSafe s f).fresh = s.fresh := rfl
@[simp] theorem modSafe_resp (s : State) (f : Safety → Safety) : (modSafe s f).resp = s.resp := rfl
@[simp] theorem modSafe_caddy (s : State) (f : Safety → Safety) : (modSafe s f).caddy = s.caddy := rfl
@[simp] theorem modSafe_party (s : State) (f : Safety → Safety) : (modSafe s f).party = s.party := rfl
@[simp] theorem modSafe_queue (s : State) (f : Safety → Safety) : (modSafe s f).queue = s.queue := rfl
@[simp] theorem modSafe_lv (s : State) (f : Safety → Safety) : (modSafe s f).lv = s.lv := rfl
@[simp] theorem modSafe_jobs (s : State) (f : Safety → Safety) : (modSafe s f).jobs = s.jobs := rfl
@[simp] theorem modSafe_pw (s : State) (f : Safety → Safety) : (modSafe s f).pw = s.pw := rfl
@[simp] theorem modSafe_mem (s : State) (f : Safety → Safety) : (modSafe s f).mem = s.mem := rfl
@[simp] theorem modSafe_world (s : State) (f : Safety → Safety) : (modSafe s f).world = s.world := rfl
@[simp] theorem modSafe_media (s : State) (f : Safety → Safety) : (modSafe s f).media = s.media := rfl
@[simp] theorem modSafe_boot (s : State) (f : Safety → Safety) : (modSafe s f).boot = s.boot := rfl
@[simp] theorem modSafe_cap (s : State) (f : Safety → Safety) : (modSafe s f).cap = s.cap := rfl
@[simp] theorem modSafe_gw (s : State) (f : Safety → Safety) : (modSafe s f).gw = s.gw := rfl
@[simp] theorem modSafe_field (s : State) (f : Safety → Safety) : (modSafe s f).field = s.field := rfl
@[simp] theorem modSafe_io (s : State) (f : Safety → Safety) : (modSafe s f).io = s.io := rfl
@[simp] theorem modSafe_cross (s : State) (f : Safety → Safety) : (modSafe s f).cross = s.cross := rfl
@[simp] theorem modSafe_firm (s : State) (f : Safety → Safety) : (modSafe s f).firm = s.firm := rfl

@[simp] theorem modWorld_pending (s : State) (f : World → World) : (modWorld s f).pending = s.pending := rfl
@[simp] theorem modWorld_part (s : State) (f : World → World) : (modWorld s f).part = s.part := rfl
@[simp] theorem modWorld_ktime (s : State) (f : World → World) : (modWorld s f).ktime = s.ktime := rfl
@[simp] theorem modWorld_fresh (s : State) (f : World → World) : (modWorld s f).fresh = s.fresh := rfl
@[simp] theorem modWorld_resp (s : State) (f : World → World) : (modWorld s f).resp = s.resp := rfl
@[simp] theorem modWorld_caddy (s : State) (f : World → World) : (modWorld s f).caddy = s.caddy := rfl
@[simp] theorem modWorld_party (s : State) (f : World → World) : (modWorld s f).party = s.party := rfl
@[simp] theorem modWorld_queue (s : State) (f : World → World) : (modWorld s f).queue = s.queue := rfl
@[simp] theorem modWorld_lv (s : State) (f : World → World) : (modWorld s f).lv = s.lv := rfl
@[simp] theorem modWorld_jobs (s : State) (f : World → World) : (modWorld s f).jobs = s.jobs := rfl
@[simp] theorem modWorld_pw (s : State) (f : World → World) : (modWorld s f).pw = s.pw := rfl
@[simp] theorem modWorld_mem (s : State) (f : World → World) : (modWorld s f).mem = s.mem := rfl
@[simp] theorem modWorld_safe (s : State) (f : World → World) : (modWorld s f).safe = s.safe := rfl
@[simp] theorem modWorld_media (s : State) (f : World → World) : (modWorld s f).media = s.media := rfl
@[simp] theorem modWorld_boot (s : State) (f : World → World) : (modWorld s f).boot = s.boot := rfl
@[simp] theorem modWorld_cap (s : State) (f : World → World) : (modWorld s f).cap = s.cap := rfl
@[simp] theorem modWorld_gw (s : State) (f : World → World) : (modWorld s f).gw = s.gw := rfl
@[simp] theorem modWorld_field (s : State) (f : World → World) : (modWorld s f).field = s.field := rfl
@[simp] theorem modWorld_io (s : State) (f : World → World) : (modWorld s f).io = s.io := rfl
@[simp] theorem modWorld_cross (s : State) (f : World → World) : (modWorld s f).cross = s.cross := rfl
@[simp] theorem modWorld_firm (s : State) (f : World → World) : (modWorld s f).firm = s.firm := rfl

@[simp] theorem modCross_pending (s : State) (f : Crossing → Crossing) : (modCross s f).pending = s.pending := rfl
@[simp] theorem modCross_part (s : State) (f : Crossing → Crossing) : (modCross s f).part = s.part := rfl
@[simp] theorem modCross_ktime (s : State) (f : Crossing → Crossing) : (modCross s f).ktime = s.ktime := rfl
@[simp] theorem modCross_fresh (s : State) (f : Crossing → Crossing) : (modCross s f).fresh = s.fresh := rfl
@[simp] theorem modCross_resp (s : State) (f : Crossing → Crossing) : (modCross s f).resp = s.resp := rfl
@[simp] theorem modCross_caddy (s : State) (f : Crossing → Crossing) : (modCross s f).caddy = s.caddy := rfl
@[simp] theorem modCross_party (s : State) (f : Crossing → Crossing) : (modCross s f).party = s.party := rfl
@[simp] theorem modCross_queue (s : State) (f : Crossing → Crossing) : (modCross s f).queue = s.queue := rfl
@[simp] theorem modCross_lv (s : State) (f : Crossing → Crossing) : (modCross s f).lv = s.lv := rfl
@[simp] theorem modCross_jobs (s : State) (f : Crossing → Crossing) : (modCross s f).jobs = s.jobs := rfl
@[simp] theorem modCross_pw (s : State) (f : Crossing → Crossing) : (modCross s f).pw = s.pw := rfl
@[simp] theorem modCross_mem (s : State) (f : Crossing → Crossing) : (modCross s f).mem = s.mem := rfl
@[simp] theorem modCross_safe (s : State) (f : Crossing → Crossing) : (modCross s f).safe = s.safe := rfl
@[simp] theorem modCross_world (s : State) (f : Crossing → Crossing) : (modCross s f).world = s.world := rfl
@[simp] theorem modCross_media (s : State) (f : Crossing → Crossing) : (modCross s f).media = s.media := rfl
@[simp] theorem modCross_boot (s : State) (f : Crossing → Crossing) : (modCross s f).boot = s.boot := rfl
@[simp] theorem modCross_cap (s : State) (f : Crossing → Crossing) : (modCross s f).cap = s.cap := rfl
@[simp] theorem modCross_gw (s : State) (f : Crossing → Crossing) : (modCross s f).gw = s.gw := rfl
@[simp] theorem modCross_field (s : State) (f : Crossing → Crossing) : (modCross s f).field = s.field := rfl
@[simp] theorem modCross_io (s : State) (f : Crossing → Crossing) : (modCross s f).io = s.io := rfl
@[simp] theorem modCross_firm (s : State) (f : Crossing → Crossing) : (modCross s f).firm = s.firm := rfl

@[simp] theorem modPipe_pending (s : State) (p : Nat) (f : Pipe → Pipe) : (modPipe s p f).pending = s.pending := rfl
@[simp] theorem modPipe_part (s : State) (p : Nat) (f : Pipe → Pipe) : (modPipe s p f).part = s.part := rfl
@[simp] theorem modPipe_ktime (s : State) (p : Nat) (f : Pipe → Pipe) : (modPipe s p f).ktime = s.ktime := rfl
@[simp] theorem modPipe_fresh (s : State) (p : Nat) (f : Pipe → Pipe) : (modPipe s p f).fresh = s.fresh := rfl
@[simp] theorem modPipe_resp (s : State) (p : Nat) (f : Pipe → Pipe) : (modPipe s p f).resp = s.resp := rfl
@[simp] theorem modPipe_caddy (s : State) (p : Nat) (f : Pipe → Pipe) : (modPipe s p f).caddy = s.caddy := rfl
@[simp] theorem modPipe_party (s : State) (p : Nat) (f : Pipe → Pipe) : (modPipe s p f).party = s.party := rfl
@[simp] theorem modPipe_queue (s : State) (p : Nat) (f : Pipe → Pipe) : (modPipe s p f).queue = s.queue := rfl
@[simp] theorem modPipe_lv (s : State) (p : Nat) (f : Pipe → Pipe) : (modPipe s p f).lv = s.lv := rfl
@[simp] theorem modPipe_jobs (s : State) (p : Nat) (f : Pipe → Pipe) : (modPipe s p f).jobs = s.jobs := rfl
@[simp] theorem modPipe_pw (s : State) (p : Nat) (f : Pipe → Pipe) : (modPipe s p f).pw = s.pw := rfl
@[simp] theorem modPipe_mem (s : State) (p : Nat) (f : Pipe → Pipe) : (modPipe s p f).mem = s.mem := rfl
@[simp] theorem modPipe_safe (s : State) (p : Nat) (f : Pipe → Pipe) : (modPipe s p f).safe = s.safe := rfl
@[simp] theorem modPipe_world (s : State) (p : Nat) (f : Pipe → Pipe) : (modPipe s p f).world = s.world := rfl
@[simp] theorem modPipe_boot (s : State) (p : Nat) (f : Pipe → Pipe) : (modPipe s p f).boot = s.boot := rfl
@[simp] theorem modPipe_cap (s : State) (p : Nat) (f : Pipe → Pipe) : (modPipe s p f).cap = s.cap := rfl
@[simp] theorem modPipe_gw (s : State) (p : Nat) (f : Pipe → Pipe) : (modPipe s p f).gw = s.gw := rfl
@[simp] theorem modPipe_field (s : State) (p : Nat) (f : Pipe → Pipe) : (modPipe s p f).field = s.field := rfl
@[simp] theorem modPipe_io (s : State) (p : Nat) (f : Pipe → Pipe) : (modPipe s p f).io = s.io := rfl
@[simp] theorem modPipe_cross (s : State) (p : Nat) (f : Pipe → Pipe) : (modPipe s p f).cross = s.cross := rfl
@[simp] theorem modPipe_firm (s : State) (p : Nat) (f : Pipe → Pipe) : (modPipe s p f).firm = s.firm := rfl
@[simp] theorem modPipe_media_gfx (s : State) (p : Nat) (f : Pipe → Pipe) : (modPipe s p f).media.gfx = s.media.gfx := rfl
@[simp] theorem modPipe_media_ses (s : State) (p : Nat) (f : Pipe → Pipe) : (modPipe s p f).media.ses = s.media.ses := rfl
@[simp] theorem modPipe_media_faultQ (s : State) (p : Nat) (f : Pipe → Pipe) : (modPipe s p f).media.faultQ = s.media.faultQ := rfl

@[simp] theorem modSes_pending (s : State) (k : Nat) (f : Session → Session) : (modSes s k f).pending = s.pending := rfl
@[simp] theorem modSes_part (s : State) (k : Nat) (f : Session → Session) : (modSes s k f).part = s.part := rfl
@[simp] theorem modSes_ktime (s : State) (k : Nat) (f : Session → Session) : (modSes s k f).ktime = s.ktime := rfl
@[simp] theorem modSes_fresh (s : State) (k : Nat) (f : Session → Session) : (modSes s k f).fresh = s.fresh := rfl
@[simp] theorem modSes_resp (s : State) (k : Nat) (f : Session → Session) : (modSes s k f).resp = s.resp := rfl
@[simp] theorem modSes_caddy (s : State) (k : Nat) (f : Session → Session) : (modSes s k f).caddy = s.caddy := rfl
@[simp] theorem modSes_party (s : State) (k : Nat) (f : Session → Session) : (modSes s k f).party = s.party := rfl
@[simp] theorem modSes_queue (s : State) (k : Nat) (f : Session → Session) : (modSes s k f).queue = s.queue := rfl
@[simp] theorem modSes_lv (s : State) (k : Nat) (f : Session → Session) : (modSes s k f).lv = s.lv := rfl
@[simp] theorem modSes_jobs (s : State) (k : Nat) (f : Session → Session) : (modSes s k f).jobs = s.jobs := rfl
@[simp] theorem modSes_pw (s : State) (k : Nat) (f : Session → Session) : (modSes s k f).pw = s.pw := rfl
@[simp] theorem modSes_mem (s : State) (k : Nat) (f : Session → Session) : (modSes s k f).mem = s.mem := rfl
@[simp] theorem modSes_safe (s : State) (k : Nat) (f : Session → Session) : (modSes s k f).safe = s.safe := rfl
@[simp] theorem modSes_world (s : State) (k : Nat) (f : Session → Session) : (modSes s k f).world = s.world := rfl
@[simp] theorem modSes_boot (s : State) (k : Nat) (f : Session → Session) : (modSes s k f).boot = s.boot := rfl
@[simp] theorem modSes_cap (s : State) (k : Nat) (f : Session → Session) : (modSes s k f).cap = s.cap := rfl
@[simp] theorem modSes_gw (s : State) (k : Nat) (f : Session → Session) : (modSes s k f).gw = s.gw := rfl
@[simp] theorem modSes_field (s : State) (k : Nat) (f : Session → Session) : (modSes s k f).field = s.field := rfl
@[simp] theorem modSes_io (s : State) (k : Nat) (f : Session → Session) : (modSes s k f).io = s.io := rfl
@[simp] theorem modSes_cross (s : State) (k : Nat) (f : Session → Session) : (modSes s k f).cross = s.cross := rfl
@[simp] theorem modSes_firm (s : State) (k : Nat) (f : Session → Session) : (modSes s k f).firm = s.firm := rfl
@[simp] theorem modSes_media_gfx (s : State) (k : Nat) (f : Session → Session) : (modSes s k f).media.gfx = s.media.gfx := rfl
@[simp] theorem modSes_media_pipe (s : State) (k : Nat) (f : Session → Session) : (modSes s k f).media.pipe = s.media.pipe := rfl
@[simp] theorem modSes_media_faultQ (s : State) (k : Nat) (f : Session → Session) : (modSes s k f).media.faultQ = s.media.faultQ := rfl

@[simp] theorem modStr_pending (s : State) (k : Nat) (f : Stream → Stream) : (modStr s k f).pending = s.pending := rfl
@[simp] theorem modStr_part (s : State) (k : Nat) (f : Stream → Stream) : (modStr s k f).part = s.part := rfl
@[simp] theorem modStr_ktime (s : State) (k : Nat) (f : Stream → Stream) : (modStr s k f).ktime = s.ktime := rfl
@[simp] theorem modStr_fresh (s : State) (k : Nat) (f : Stream → Stream) : (modStr s k f).fresh = s.fresh := rfl
@[simp] theorem modStr_resp (s : State) (k : Nat) (f : Stream → Stream) : (modStr s k f).resp = s.resp := rfl
@[simp] theorem modStr_caddy (s : State) (k : Nat) (f : Stream → Stream) : (modStr s k f).caddy = s.caddy := rfl
@[simp] theorem modStr_party (s : State) (k : Nat) (f : Stream → Stream) : (modStr s k f).party = s.party := rfl
@[simp] theorem modStr_queue (s : State) (k : Nat) (f : Stream → Stream) : (modStr s k f).queue = s.queue := rfl
@[simp] theorem modStr_lv (s : State) (k : Nat) (f : Stream → Stream) : (modStr s k f).lv = s.lv := rfl
@[simp] theorem modStr_jobs (s : State) (k : Nat) (f : Stream → Stream) : (modStr s k f).jobs = s.jobs := rfl
@[simp] theorem modStr_pw (s : State) (k : Nat) (f : Stream → Stream) : (modStr s k f).pw = s.pw := rfl
@[simp] theorem modStr_mem (s : State) (k : Nat) (f : Stream → Stream) : (modStr s k f).mem = s.mem := rfl
@[simp] theorem modStr_safe (s : State) (k : Nat) (f : Stream → Stream) : (modStr s k f).safe = s.safe := rfl
@[simp] theorem modStr_world (s : State) (k : Nat) (f : Stream → Stream) : (modStr s k f).world = s.world := rfl
@[simp] theorem modStr_media (s : State) (k : Nat) (f : Stream → Stream) : (modStr s k f).media = s.media := rfl
@[simp] theorem modStr_boot (s : State) (k : Nat) (f : Stream → Stream) : (modStr s k f).boot = s.boot := rfl
@[simp] theorem modStr_gw (s : State) (k : Nat) (f : Stream → Stream) : (modStr s k f).gw = s.gw := rfl
@[simp] theorem modStr_field (s : State) (k : Nat) (f : Stream → Stream) : (modStr s k f).field = s.field := rfl
@[simp] theorem modStr_io (s : State) (k : Nat) (f : Stream → Stream) : (modStr s k f).io = s.io := rfl
@[simp] theorem modStr_cross (s : State) (k : Nat) (f : Stream → Stream) : (modStr s k f).cross = s.cross := rfl
@[simp] theorem modStr_firm (s : State) (k : Nat) (f : Stream → Stream) : (modStr s k f).firm = s.firm := rfl
@[simp] theorem modStr_cap_upAt (s : State) (k : Nat) (f : Stream → Stream) : (modStr s k f).cap.upAt = s.cap.upAt := rfl
@[simp] theorem modStr_cap_conv (s : State) (k : Nat) (f : Stream → Stream) : (modStr s k f).cap.conv = s.cap.conv := rfl
@[simp] theorem modStr_cap_fus (s : State) (k : Nat) (f : Stream → Stream) : (modStr s k f).cap.fus = s.cap.fus := rfl

@[simp] theorem modUnit_pending (s : State) (u : Nat) (f : IoUnit → IoUnit) : (modUnit s u f).pending = s.pending := rfl
@[simp] theorem modUnit_part (s : State) (u : Nat) (f : IoUnit → IoUnit) : (modUnit s u f).part = s.part := rfl
@[simp] theorem modUnit_ktime (s : State) (u : Nat) (f : IoUnit → IoUnit) : (modUnit s u f).ktime = s.ktime := rfl
@[simp] theorem modUnit_fresh (s : State) (u : Nat) (f : IoUnit → IoUnit) : (modUnit s u f).fresh = s.fresh := rfl
@[simp] theorem modUnit_resp (s : State) (u : Nat) (f : IoUnit → IoUnit) : (modUnit s u f).resp = s.resp := rfl
@[simp] theorem modUnit_caddy (s : State) (u : Nat) (f : IoUnit → IoUnit) : (modUnit s u f).caddy = s.caddy := rfl
@[simp] theorem modUnit_party (s : State) (u : Nat) (f : IoUnit → IoUnit) : (modUnit s u f).party = s.party := rfl
@[simp] theorem modUnit_queue (s : State) (u : Nat) (f : IoUnit → IoUnit) : (modUnit s u f).queue = s.queue := rfl
@[simp] theorem modUnit_lv (s : State) (u : Nat) (f : IoUnit → IoUnit) : (modUnit s u f).lv = s.lv := rfl
@[simp] theorem modUnit_jobs (s : State) (u : Nat) (f : IoUnit → IoUnit) : (modUnit s u f).jobs = s.jobs := rfl
@[simp] theorem modUnit_pw (s : State) (u : Nat) (f : IoUnit → IoUnit) : (modUnit s u f).pw = s.pw := rfl
@[simp] theorem modUnit_mem (s : State) (u : Nat) (f : IoUnit → IoUnit) : (modUnit s u f).mem = s.mem := rfl
@[simp] theorem modUnit_safe (s : State) (u : Nat) (f : IoUnit → IoUnit) : (modUnit s u f).safe = s.safe := rfl
@[simp] theorem modUnit_world (s : State) (u : Nat) (f : IoUnit → IoUnit) : (modUnit s u f).world = s.world := rfl
@[simp] theorem modUnit_media (s : State) (u : Nat) (f : IoUnit → IoUnit) : (modUnit s u f).media = s.media := rfl
@[simp] theorem modUnit_boot (s : State) (u : Nat) (f : IoUnit → IoUnit) : (modUnit s u f).boot = s.boot := rfl
@[simp] theorem modUnit_cap (s : State) (u : Nat) (f : IoUnit → IoUnit) : (modUnit s u f).cap = s.cap := rfl
@[simp] theorem modUnit_gw (s : State) (u : Nat) (f : IoUnit → IoUnit) : (modUnit s u f).gw = s.gw := rfl
@[simp] theorem modUnit_field (s : State) (u : Nat) (f : IoUnit → IoUnit) : (modUnit s u f).field = s.field := rfl
@[simp] theorem modUnit_cross (s : State) (u : Nat) (f : IoUnit → IoUnit) : (modUnit s u f).cross = s.cross := rfl
@[simp] theorem modUnit_firm (s : State) (u : Nat) (f : IoUnit → IoUnit) : (modUnit s u f).firm = s.firm := rfl
@[simp] theorem modUnit_io_vnic (s : State) (u : Nat) (f : IoUnit → IoUnit) : (modUnit s u f).io.vnic = s.io.vnic := rfl
@[simp] theorem modUnit_io_flash (s : State) (u : Nat) (f : IoUnit → IoUnit) : (modUnit s u f).io.flash = s.io.flash := rfl

@[simp] theorem modCan_pending (s : State) (c : Nat) (f : CanCtl → CanCtl) : (modCan s c f).pending = s.pending := rfl
@[simp] theorem modCan_part (s : State) (c : Nat) (f : CanCtl → CanCtl) : (modCan s c f).part = s.part := rfl
@[simp] theorem modCan_ktime (s : State) (c : Nat) (f : CanCtl → CanCtl) : (modCan s c f).ktime = s.ktime := rfl
@[simp] theorem modCan_fresh (s : State) (c : Nat) (f : CanCtl → CanCtl) : (modCan s c f).fresh = s.fresh := rfl
@[simp] theorem modCan_resp (s : State) (c : Nat) (f : CanCtl → CanCtl) : (modCan s c f).resp = s.resp := rfl
@[simp] theorem modCan_caddy (s : State) (c : Nat) (f : CanCtl → CanCtl) : (modCan s c f).caddy = s.caddy := rfl
@[simp] theorem modCan_party (s : State) (c : Nat) (f : CanCtl → CanCtl) : (modCan s c f).party = s.party := rfl
@[simp] theorem modCan_queue (s : State) (c : Nat) (f : CanCtl → CanCtl) : (modCan s c f).queue = s.queue := rfl
@[simp] theorem modCan_lv (s : State) (c : Nat) (f : CanCtl → CanCtl) : (modCan s c f).lv = s.lv := rfl
@[simp] theorem modCan_jobs (s : State) (c : Nat) (f : CanCtl → CanCtl) : (modCan s c f).jobs = s.jobs := rfl
@[simp] theorem modCan_pw (s : State) (c : Nat) (f : CanCtl → CanCtl) : (modCan s c f).pw = s.pw := rfl
@[simp] theorem modCan_mem (s : State) (c : Nat) (f : CanCtl → CanCtl) : (modCan s c f).mem = s.mem := rfl
@[simp] theorem modCan_safe (s : State) (c : Nat) (f : CanCtl → CanCtl) : (modCan s c f).safe = s.safe := rfl
@[simp] theorem modCan_world (s : State) (c : Nat) (f : CanCtl → CanCtl) : (modCan s c f).world = s.world := rfl
@[simp] theorem modCan_media (s : State) (c : Nat) (f : CanCtl → CanCtl) : (modCan s c f).media = s.media := rfl
@[simp] theorem modCan_boot (s : State) (c : Nat) (f : CanCtl → CanCtl) : (modCan s c f).boot = s.boot := rfl
@[simp] theorem modCan_cap (s : State) (c : Nat) (f : CanCtl → CanCtl) : (modCan s c f).cap = s.cap := rfl
@[simp] theorem modCan_field (s : State) (c : Nat) (f : CanCtl → CanCtl) : (modCan s c f).field = s.field := rfl
@[simp] theorem modCan_io (s : State) (c : Nat) (f : CanCtl → CanCtl) : (modCan s c f).io = s.io := rfl
@[simp] theorem modCan_cross (s : State) (c : Nat) (f : CanCtl → CanCtl) : (modCan s c f).cross = s.cross := rfl
@[simp] theorem modCan_firm (s : State) (c : Nat) (f : CanCtl → CanCtl) : (modCan s c f).firm = s.firm := rfl
@[simp] theorem modCan_gw_rule (s : State) (c : Nat) (f : CanCtl → CanCtl) : (modCan s c f).gw.rule = s.gw.rule := rfl
@[simp] theorem modCan_gw_port (s : State) (c : Nat) (f : CanCtl → CanCtl) : (modCan s c f).gw.port = s.gw.port := rfl
@[simp] theorem modCan_gw_vlan (s : State) (c : Nat) (f : CanCtl → CanCtl) : (modCan s c f).gw.vlan = s.gw.vlan := rfl
@[simp] theorem modCan_gw_static_ (s : State) (c : Nat) (f : CanCtl → CanCtl) : (modCan s c f).gw.static_ = s.gw.static_ := rfl
@[simp] theorem modCan_gw_learned (s : State) (c : Nat) (f : CanCtl → CanCtl) : (modCan s c f).gw.learned = s.gw.learned := rfl
@[simp] theorem modCan_gw_sect (s : State) (c : Nat) (f : CanCtl → CanCtl) : (modCan s c f).gw.sect = s.gw.sect := rfl
@[simp] theorem modCan_gw_tsnPend (s : State) (c : Nat) (f : CanCtl → CanCtl) : (modCan s c f).gw.tsnPend = s.gw.tsnPend := rfl
@[simp] theorem modCan_gw_out (s : State) (c : Nat) (f : CanCtl → CanCtl) : (modCan s c f).gw.out = s.gw.out := rfl

@[simp] theorem modRule_pending (s : State) (r : Nat) (f : Rule → Rule) : (modRule s r f).pending = s.pending := rfl
@[simp] theorem modRule_part (s : State) (r : Nat) (f : Rule → Rule) : (modRule s r f).part = s.part := rfl
@[simp] theorem modRule_ktime (s : State) (r : Nat) (f : Rule → Rule) : (modRule s r f).ktime = s.ktime := rfl
@[simp] theorem modRule_fresh (s : State) (r : Nat) (f : Rule → Rule) : (modRule s r f).fresh = s.fresh := rfl
@[simp] theorem modRule_resp (s : State) (r : Nat) (f : Rule → Rule) : (modRule s r f).resp = s.resp := rfl
@[simp] theorem modRule_caddy (s : State) (r : Nat) (f : Rule → Rule) : (modRule s r f).caddy = s.caddy := rfl
@[simp] theorem modRule_party (s : State) (r : Nat) (f : Rule → Rule) : (modRule s r f).party = s.party := rfl
@[simp] theorem modRule_queue (s : State) (r : Nat) (f : Rule → Rule) : (modRule s r f).queue = s.queue := rfl
@[simp] theorem modRule_lv (s : State) (r : Nat) (f : Rule → Rule) : (modRule s r f).lv = s.lv := rfl
@[simp] theorem modRule_jobs (s : State) (r : Nat) (f : Rule → Rule) : (modRule s r f).jobs = s.jobs := rfl
@[simp] theorem modRule_pw (s : State) (r : Nat) (f : Rule → Rule) : (modRule s r f).pw = s.pw := rfl
@[simp] theorem modRule_mem (s : State) (r : Nat) (f : Rule → Rule) : (modRule s r f).mem = s.mem := rfl
@[simp] theorem modRule_safe (s : State) (r : Nat) (f : Rule → Rule) : (modRule s r f).safe = s.safe := rfl
@[simp] theorem modRule_world (s : State) (r : Nat) (f : Rule → Rule) : (modRule s r f).world = s.world := rfl
@[simp] theorem modRule_media (s : State) (r : Nat) (f : Rule → Rule) : (modRule s r f).media = s.media := rfl
@[simp] theorem modRule_boot (s : State) (r : Nat) (f : Rule → Rule) : (modRule s r f).boot = s.boot := rfl
@[simp] theorem modRule_cap (s : State) (r : Nat) (f : Rule → Rule) : (modRule s r f).cap = s.cap := rfl
@[simp] theorem modRule_field (s : State) (r : Nat) (f : Rule → Rule) : (modRule s r f).field = s.field := rfl
@[simp] theorem modRule_io (s : State) (r : Nat) (f : Rule → Rule) : (modRule s r f).io = s.io := rfl
@[simp] theorem modRule_cross (s : State) (r : Nat) (f : Rule → Rule) : (modRule s r f).cross = s.cross := rfl
@[simp] theorem modRule_firm (s : State) (r : Nat) (f : Rule → Rule) : (modRule s r f).firm = s.firm := rfl
@[simp] theorem modRule_gw_can (s : State) (r : Nat) (f : Rule → Rule) : (modRule s r f).gw.can = s.gw.can := rfl
@[simp] theorem modRule_gw_port (s : State) (r : Nat) (f : Rule → Rule) : (modRule s r f).gw.port = s.gw.port := rfl
@[simp] theorem modRule_gw_vlan (s : State) (r : Nat) (f : Rule → Rule) : (modRule s r f).gw.vlan = s.gw.vlan := rfl
@[simp] theorem modRule_gw_static_ (s : State) (r : Nat) (f : Rule → Rule) : (modRule s r f).gw.static_ = s.gw.static_ := rfl
@[simp] theorem modRule_gw_learned (s : State) (r : Nat) (f : Rule → Rule) : (modRule s r f).gw.learned = s.gw.learned := rfl
@[simp] theorem modRule_gw_sect (s : State) (r : Nat) (f : Rule → Rule) : (modRule s r f).gw.sect = s.gw.sect := rfl
@[simp] theorem modRule_gw_tsnPend (s : State) (r : Nat) (f : Rule → Rule) : (modRule s r f).gw.tsnPend = s.gw.tsnPend := rfl
@[simp] theorem modRule_gw_out (s : State) (r : Nat) (f : Rule → Rule) : (modRule s r f).gw.out = s.gw.out := rfl

@[simp] theorem modPort_pending (s : State) (p : Nat) (f : TsnPort → TsnPort) : (modPort s p f).pending = s.pending := rfl
@[simp] theorem modPort_part (s : State) (p : Nat) (f : TsnPort → TsnPort) : (modPort s p f).part = s.part := rfl
@[simp] theorem modPort_ktime (s : State) (p : Nat) (f : TsnPort → TsnPort) : (modPort s p f).ktime = s.ktime := rfl
@[simp] theorem modPort_fresh (s : State) (p : Nat) (f : TsnPort → TsnPort) : (modPort s p f).fresh = s.fresh := rfl
@[simp] theorem modPort_resp (s : State) (p : Nat) (f : TsnPort → TsnPort) : (modPort s p f).resp = s.resp := rfl
@[simp] theorem modPort_caddy (s : State) (p : Nat) (f : TsnPort → TsnPort) : (modPort s p f).caddy = s.caddy := rfl
@[simp] theorem modPort_party (s : State) (p : Nat) (f : TsnPort → TsnPort) : (modPort s p f).party = s.party := rfl
@[simp] theorem modPort_queue (s : State) (p : Nat) (f : TsnPort → TsnPort) : (modPort s p f).queue = s.queue := rfl
@[simp] theorem modPort_lv (s : State) (p : Nat) (f : TsnPort → TsnPort) : (modPort s p f).lv = s.lv := rfl
@[simp] theorem modPort_jobs (s : State) (p : Nat) (f : TsnPort → TsnPort) : (modPort s p f).jobs = s.jobs := rfl
@[simp] theorem modPort_pw (s : State) (p : Nat) (f : TsnPort → TsnPort) : (modPort s p f).pw = s.pw := rfl
@[simp] theorem modPort_mem (s : State) (p : Nat) (f : TsnPort → TsnPort) : (modPort s p f).mem = s.mem := rfl
@[simp] theorem modPort_safe (s : State) (p : Nat) (f : TsnPort → TsnPort) : (modPort s p f).safe = s.safe := rfl
@[simp] theorem modPort_world (s : State) (p : Nat) (f : TsnPort → TsnPort) : (modPort s p f).world = s.world := rfl
@[simp] theorem modPort_media (s : State) (p : Nat) (f : TsnPort → TsnPort) : (modPort s p f).media = s.media := rfl
@[simp] theorem modPort_boot (s : State) (p : Nat) (f : TsnPort → TsnPort) : (modPort s p f).boot = s.boot := rfl
@[simp] theorem modPort_cap (s : State) (p : Nat) (f : TsnPort → TsnPort) : (modPort s p f).cap = s.cap := rfl
@[simp] theorem modPort_field (s : State) (p : Nat) (f : TsnPort → TsnPort) : (modPort s p f).field = s.field := rfl
@[simp] theorem modPort_io (s : State) (p : Nat) (f : TsnPort → TsnPort) : (modPort s p f).io = s.io := rfl
@[simp] theorem modPort_cross (s : State) (p : Nat) (f : TsnPort → TsnPort) : (modPort s p f).cross = s.cross := rfl
@[simp] theorem modPort_firm (s : State) (p : Nat) (f : TsnPort → TsnPort) : (modPort s p f).firm = s.firm := rfl
@[simp] theorem modPort_gw_can (s : State) (p : Nat) (f : TsnPort → TsnPort) : (modPort s p f).gw.can = s.gw.can := rfl
@[simp] theorem modPort_gw_rule (s : State) (p : Nat) (f : TsnPort → TsnPort) : (modPort s p f).gw.rule = s.gw.rule := rfl
@[simp] theorem modPort_gw_vlan (s : State) (p : Nat) (f : TsnPort → TsnPort) : (modPort s p f).gw.vlan = s.gw.vlan := rfl
@[simp] theorem modPort_gw_static_ (s : State) (p : Nat) (f : TsnPort → TsnPort) : (modPort s p f).gw.static_ = s.gw.static_ := rfl
@[simp] theorem modPort_gw_learned (s : State) (p : Nat) (f : TsnPort → TsnPort) : (modPort s p f).gw.learned = s.gw.learned := rfl
@[simp] theorem modPort_gw_sect (s : State) (p : Nat) (f : TsnPort → TsnPort) : (modPort s p f).gw.sect = s.gw.sect := rfl
@[simp] theorem modPort_gw_tsnPend (s : State) (p : Nat) (f : TsnPort → TsnPort) : (modPort s p f).gw.tsnPend = s.gw.tsnPend := rfl
@[simp] theorem modPort_gw_out (s : State) (p : Nat) (f : TsnPort → TsnPort) : (modPort s p f).gw.out = s.gw.out := rfl

@[simp] theorem modVnic_pending (s : State) (v : Nat) (f : Vnic → Vnic) : (modVnic s v f).pending = s.pending := rfl
@[simp] theorem modVnic_part (s : State) (v : Nat) (f : Vnic → Vnic) : (modVnic s v f).part = s.part := rfl
@[simp] theorem modVnic_ktime (s : State) (v : Nat) (f : Vnic → Vnic) : (modVnic s v f).ktime = s.ktime := rfl
@[simp] theorem modVnic_fresh (s : State) (v : Nat) (f : Vnic → Vnic) : (modVnic s v f).fresh = s.fresh := rfl
@[simp] theorem modVnic_resp (s : State) (v : Nat) (f : Vnic → Vnic) : (modVnic s v f).resp = s.resp := rfl
@[simp] theorem modVnic_caddy (s : State) (v : Nat) (f : Vnic → Vnic) : (modVnic s v f).caddy = s.caddy := rfl
@[simp] theorem modVnic_party (s : State) (v : Nat) (f : Vnic → Vnic) : (modVnic s v f).party = s.party := rfl
@[simp] theorem modVnic_queue (s : State) (v : Nat) (f : Vnic → Vnic) : (modVnic s v f).queue = s.queue := rfl
@[simp] theorem modVnic_lv (s : State) (v : Nat) (f : Vnic → Vnic) : (modVnic s v f).lv = s.lv := rfl
@[simp] theorem modVnic_jobs (s : State) (v : Nat) (f : Vnic → Vnic) : (modVnic s v f).jobs = s.jobs := rfl
@[simp] theorem modVnic_pw (s : State) (v : Nat) (f : Vnic → Vnic) : (modVnic s v f).pw = s.pw := rfl
@[simp] theorem modVnic_mem (s : State) (v : Nat) (f : Vnic → Vnic) : (modVnic s v f).mem = s.mem := rfl
@[simp] theorem modVnic_safe (s : State) (v : Nat) (f : Vnic → Vnic) : (modVnic s v f).safe = s.safe := rfl
@[simp] theorem modVnic_world (s : State) (v : Nat) (f : Vnic → Vnic) : (modVnic s v f).world = s.world := rfl
@[simp] theorem modVnic_media (s : State) (v : Nat) (f : Vnic → Vnic) : (modVnic s v f).media = s.media := rfl
@[simp] theorem modVnic_boot (s : State) (v : Nat) (f : Vnic → Vnic) : (modVnic s v f).boot = s.boot := rfl
@[simp] theorem modVnic_cap (s : State) (v : Nat) (f : Vnic → Vnic) : (modVnic s v f).cap = s.cap := rfl
@[simp] theorem modVnic_gw (s : State) (v : Nat) (f : Vnic → Vnic) : (modVnic s v f).gw = s.gw := rfl
@[simp] theorem modVnic_field (s : State) (v : Nat) (f : Vnic → Vnic) : (modVnic s v f).field = s.field := rfl
@[simp] theorem modVnic_cross (s : State) (v : Nat) (f : Vnic → Vnic) : (modVnic s v f).cross = s.cross := rfl
@[simp] theorem modVnic_firm (s : State) (v : Nat) (f : Vnic → Vnic) : (modVnic s v f).firm = s.firm := rfl
@[simp] theorem modVnic_io_unit (s : State) (v : Nat) (f : Vnic → Vnic) : (modVnic s v f).io.unit = s.io.unit := rfl
@[simp] theorem modVnic_io_flash (s : State) (v : Nat) (f : Vnic → Vnic) : (modVnic s v f).io.flash = s.io.flash := rfl

@[simp] theorem modFus_pending (s : State) (f : Fusion → Fusion) : (modFus s f).pending = s.pending := rfl
@[simp] theorem modFus_part (s : State) (f : Fusion → Fusion) : (modFus s f).part = s.part := rfl
@[simp] theorem modFus_ktime (s : State) (f : Fusion → Fusion) : (modFus s f).ktime = s.ktime := rfl
@[simp] theorem modFus_fresh (s : State) (f : Fusion → Fusion) : (modFus s f).fresh = s.fresh := rfl
@[simp] theorem modFus_resp (s : State) (f : Fusion → Fusion) : (modFus s f).resp = s.resp := rfl
@[simp] theorem modFus_caddy (s : State) (f : Fusion → Fusion) : (modFus s f).caddy = s.caddy := rfl
@[simp] theorem modFus_party (s : State) (f : Fusion → Fusion) : (modFus s f).party = s.party := rfl
@[simp] theorem modFus_queue (s : State) (f : Fusion → Fusion) : (modFus s f).queue = s.queue := rfl
@[simp] theorem modFus_lv (s : State) (f : Fusion → Fusion) : (modFus s f).lv = s.lv := rfl
@[simp] theorem modFus_jobs (s : State) (f : Fusion → Fusion) : (modFus s f).jobs = s.jobs := rfl
@[simp] theorem modFus_pw (s : State) (f : Fusion → Fusion) : (modFus s f).pw = s.pw := rfl
@[simp] theorem modFus_mem (s : State) (f : Fusion → Fusion) : (modFus s f).mem = s.mem := rfl
@[simp] theorem modFus_safe (s : State) (f : Fusion → Fusion) : (modFus s f).safe = s.safe := rfl
@[simp] theorem modFus_world (s : State) (f : Fusion → Fusion) : (modFus s f).world = s.world := rfl
@[simp] theorem modFus_media (s : State) (f : Fusion → Fusion) : (modFus s f).media = s.media := rfl
@[simp] theorem modFus_boot (s : State) (f : Fusion → Fusion) : (modFus s f).boot = s.boot := rfl
@[simp] theorem modFus_gw (s : State) (f : Fusion → Fusion) : (modFus s f).gw = s.gw := rfl
@[simp] theorem modFus_field (s : State) (f : Fusion → Fusion) : (modFus s f).field = s.field := rfl
@[simp] theorem modFus_io (s : State) (f : Fusion → Fusion) : (modFus s f).io = s.io := rfl
@[simp] theorem modFus_cross (s : State) (f : Fusion → Fusion) : (modFus s f).cross = s.cross := rfl
@[simp] theorem modFus_firm (s : State) (f : Fusion → Fusion) : (modFus s f).firm = s.firm := rfl
@[simp] theorem modFus_cap_str (s : State) (f : Fusion → Fusion) : (modFus s f).cap.str = s.cap.str := rfl
@[simp] theorem modFus_cap_upAt (s : State) (f : Fusion → Fusion) : (modFus s f).cap.upAt = s.cap.upAt := rfl
@[simp] theorem modFus_cap_conv (s : State) (f : Fusion → Fusion) : (modFus s f).cap.conv = s.cap.conv := rfl

@[simp] theorem modCh_pending (s : State) (kind ch : Nat) (f : FieldCh → FieldCh) : (modCh s kind ch f).pending = s.pending := rfl
@[simp] theorem modCh_part (s : State) (kind ch : Nat) (f : FieldCh → FieldCh) : (modCh s kind ch f).part = s.part := rfl
@[simp] theorem modCh_ktime (s : State) (kind ch : Nat) (f : FieldCh → FieldCh) : (modCh s kind ch f).ktime = s.ktime := rfl
@[simp] theorem modCh_fresh (s : State) (kind ch : Nat) (f : FieldCh → FieldCh) : (modCh s kind ch f).fresh = s.fresh := rfl
@[simp] theorem modCh_resp (s : State) (kind ch : Nat) (f : FieldCh → FieldCh) : (modCh s kind ch f).resp = s.resp := rfl
@[simp] theorem modCh_caddy (s : State) (kind ch : Nat) (f : FieldCh → FieldCh) : (modCh s kind ch f).caddy = s.caddy := rfl
@[simp] theorem modCh_party (s : State) (kind ch : Nat) (f : FieldCh → FieldCh) : (modCh s kind ch f).party = s.party := rfl
@[simp] theorem modCh_queue (s : State) (kind ch : Nat) (f : FieldCh → FieldCh) : (modCh s kind ch f).queue = s.queue := rfl
@[simp] theorem modCh_lv (s : State) (kind ch : Nat) (f : FieldCh → FieldCh) : (modCh s kind ch f).lv = s.lv := rfl
@[simp] theorem modCh_jobs (s : State) (kind ch : Nat) (f : FieldCh → FieldCh) : (modCh s kind ch f).jobs = s.jobs := rfl
@[simp] theorem modCh_pw (s : State) (kind ch : Nat) (f : FieldCh → FieldCh) : (modCh s kind ch f).pw = s.pw := rfl
@[simp] theorem modCh_mem (s : State) (kind ch : Nat) (f : FieldCh → FieldCh) : (modCh s kind ch f).mem = s.mem := rfl
@[simp] theorem modCh_safe (s : State) (kind ch : Nat) (f : FieldCh → FieldCh) : (modCh s kind ch f).safe = s.safe := rfl
@[simp] theorem modCh_world (s : State) (kind ch : Nat) (f : FieldCh → FieldCh) : (modCh s kind ch f).world = s.world := rfl
@[simp] theorem modCh_media (s : State) (kind ch : Nat) (f : FieldCh → FieldCh) : (modCh s kind ch f).media = s.media := rfl
@[simp] theorem modCh_boot (s : State) (kind ch : Nat) (f : FieldCh → FieldCh) : (modCh s kind ch f).boot = s.boot := rfl
@[simp] theorem modCh_cap (s : State) (kind ch : Nat) (f : FieldCh → FieldCh) : (modCh s kind ch f).cap = s.cap := rfl
@[simp] theorem modCh_gw (s : State) (kind ch : Nat) (f : FieldCh → FieldCh) : (modCh s kind ch f).gw = s.gw := rfl
@[simp] theorem modCh_io (s : State) (kind ch : Nat) (f : FieldCh → FieldCh) : (modCh s kind ch f).io = s.io := rfl
@[simp] theorem modCh_cross (s : State) (kind ch : Nat) (f : FieldCh → FieldCh) : (modCh s kind ch f).cross = s.cross := rfl
@[simp] theorem modCh_firm (s : State) (kind ch : Nat) (f : FieldCh → FieldCh) : (modCh s kind ch f).firm = s.firm := rfl
@[simp] theorem modCh_field_usbc (s : State) (kind ch : Nat) (f : FieldCh → FieldCh) : (modCh s kind ch f).field.usbc = s.field.usbc := rfl
@[simp] theorem modCh_field_linkUp (s : State) (kind ch : Nat) (f : FieldCh → FieldCh) : (modCh s kind ch f).field.linkUp = s.field.linkUp := rfl
@[simp] theorem modCh_field_park (s : State) (kind ch : Nat) (f : FieldCh → FieldCh) : (modCh s kind ch f).field.park = s.field.park := rfl
@[simp] theorem modCh_field_vbat (s : State) (kind ch : Nat) (f : FieldCh → FieldCh) : (modCh s kind ch f).field.vbat = s.field.vbat := rfl
@[simp] theorem modCh_field_wake (s : State) (kind ch : Nat) (f : FieldCh → FieldCh) : (modCh s kind ch f).field.wake = s.field.wake := rfl
@[simp] theorem modCh_field_wakeEn (s : State) (kind ch : Nat) (f : FieldCh → FieldCh) : (modCh s kind ch f).field.wakeEn = s.field.wakeEn := rfl
@[simp] theorem modCh_field_timer (s : State) (kind ch : Nat) (f : FieldCh → FieldCh) : (modCh s kind ch f).field.timer = s.field.timer := rfl
@[simp] theorem modCh_field_parktime (s : State) (kind ch : Nat) (f : FieldCh → FieldCh) : (modCh s kind ch f).field.parktime = s.field.parktime := rfl
@[simp] theorem modCh_field_fault (s : State) (kind ch : Nat) (f : FieldCh → FieldCh) : (modCh s kind ch f).field.fault = s.field.fault := rfl
@[simp] theorem modCh_field_switch (s : State) (kind ch : Nat) (f : FieldCh → FieldCh) : (modCh s kind ch f).field.switch = s.field.switch := rfl
@[simp] theorem modCh_field_logNext (s : State) (kind ch : Nat) (f : FieldCh → FieldCh) : (modCh s kind ch f).field.logNext = s.field.logNext := rfl
@[simp] theorem modCh_field_pwron (s : State) (kind ch : Nat) (f : FieldCh → FieldCh) : (modCh s kind ch f).field.pwron = s.field.pwron := rfl
@[simp] theorem modCh_field_ksave (s : State) (kind ch : Nat) (f : FieldCh → FieldCh) : (modCh s kind ch f).field.ksave = s.field.ksave := rfl
@[simp] theorem modCh_field_log (s : State) (kind ch : Nat) (f : FieldCh → FieldCh) : (modCh s kind ch f).field.log = s.field.log := rfl
@[simp] theorem modCh_field_uncopied (s : State) (kind ch : Nat) (f : FieldCh → FieldCh) : (modCh s kind ch f).field.uncopied = s.field.uncopied := rfl
@[simp] theorem modCh_field_crcErr (s : State) (kind ch : Nat) (f : FieldCh → FieldCh) : (modCh s kind ch f).field.crcErr = s.field.crcErr := rfl
@[simp] theorem modCh_field_spiOut (s : State) (kind ch : Nat) (f : FieldCh → FieldCh) : (modCh s kind ch f).field.spiOut = s.field.spiOut := rfl
@[simp] theorem modCh_field_resends (s : State) (kind ch : Nat) (f : FieldCh → FieldCh) : (modCh s kind ch f).field.resends = s.field.resends := rfl
@[simp] theorem modCh_field_holding (s : State) (kind ch : Nat) (f : FieldCh → FieldCh) : (modCh s kind ch f).field.holding = s.field.holding := rfl
@[simp] theorem modCh_field_warn (s : State) (kind ch : Nat) (f : FieldCh → FieldCh) : (modCh s kind ch f).field.warn = s.field.warn := rfl
@[simp] theorem modCh_field_polled (s : State) (kind ch : Nat) (f : FieldCh → FieldCh) : (modCh s kind ch f).field.polled = s.field.polled := rfl
@[simp] theorem modCh_field_tripped (s : State) (kind ch : Nat) (f : FieldCh → FieldCh) : (modCh s kind ch f).field.tripped = s.field.tripped := rfl

@[simp] theorem modUc_pending (s : State) (p : Nat) (f : UsbcPort → UsbcPort) : (modUc s p f).pending = s.pending := rfl
@[simp] theorem modUc_part (s : State) (p : Nat) (f : UsbcPort → UsbcPort) : (modUc s p f).part = s.part := rfl
@[simp] theorem modUc_ktime (s : State) (p : Nat) (f : UsbcPort → UsbcPort) : (modUc s p f).ktime = s.ktime := rfl
@[simp] theorem modUc_fresh (s : State) (p : Nat) (f : UsbcPort → UsbcPort) : (modUc s p f).fresh = s.fresh := rfl
@[simp] theorem modUc_resp (s : State) (p : Nat) (f : UsbcPort → UsbcPort) : (modUc s p f).resp = s.resp := rfl
@[simp] theorem modUc_caddy (s : State) (p : Nat) (f : UsbcPort → UsbcPort) : (modUc s p f).caddy = s.caddy := rfl
@[simp] theorem modUc_party (s : State) (p : Nat) (f : UsbcPort → UsbcPort) : (modUc s p f).party = s.party := rfl
@[simp] theorem modUc_queue (s : State) (p : Nat) (f : UsbcPort → UsbcPort) : (modUc s p f).queue = s.queue := rfl
@[simp] theorem modUc_lv (s : State) (p : Nat) (f : UsbcPort → UsbcPort) : (modUc s p f).lv = s.lv := rfl
@[simp] theorem modUc_jobs (s : State) (p : Nat) (f : UsbcPort → UsbcPort) : (modUc s p f).jobs = s.jobs := rfl
@[simp] theorem modUc_pw (s : State) (p : Nat) (f : UsbcPort → UsbcPort) : (modUc s p f).pw = s.pw := rfl
@[simp] theorem modUc_mem (s : State) (p : Nat) (f : UsbcPort → UsbcPort) : (modUc s p f).mem = s.mem := rfl
@[simp] theorem modUc_safe (s : State) (p : Nat) (f : UsbcPort → UsbcPort) : (modUc s p f).safe = s.safe := rfl
@[simp] theorem modUc_world (s : State) (p : Nat) (f : UsbcPort → UsbcPort) : (modUc s p f).world = s.world := rfl
@[simp] theorem modUc_media (s : State) (p : Nat) (f : UsbcPort → UsbcPort) : (modUc s p f).media = s.media := rfl
@[simp] theorem modUc_boot (s : State) (p : Nat) (f : UsbcPort → UsbcPort) : (modUc s p f).boot = s.boot := rfl
@[simp] theorem modUc_cap (s : State) (p : Nat) (f : UsbcPort → UsbcPort) : (modUc s p f).cap = s.cap := rfl
@[simp] theorem modUc_gw (s : State) (p : Nat) (f : UsbcPort → UsbcPort) : (modUc s p f).gw = s.gw := rfl
@[simp] theorem modUc_io (s : State) (p : Nat) (f : UsbcPort → UsbcPort) : (modUc s p f).io = s.io := rfl
@[simp] theorem modUc_cross (s : State) (p : Nat) (f : UsbcPort → UsbcPort) : (modUc s p f).cross = s.cross := rfl
@[simp] theorem modUc_firm (s : State) (p : Nat) (f : UsbcPort → UsbcPort) : (modUc s p f).firm = s.firm := rfl
@[simp] theorem modUc_field_ch (s : State) (p : Nat) (f : UsbcPort → UsbcPort) : (modUc s p f).field.ch = s.field.ch := rfl
@[simp] theorem modUc_field_linkUp (s : State) (p : Nat) (f : UsbcPort → UsbcPort) : (modUc s p f).field.linkUp = s.field.linkUp := rfl
@[simp] theorem modUc_field_park (s : State) (p : Nat) (f : UsbcPort → UsbcPort) : (modUc s p f).field.park = s.field.park := rfl
@[simp] theorem modUc_field_vbat (s : State) (p : Nat) (f : UsbcPort → UsbcPort) : (modUc s p f).field.vbat = s.field.vbat := rfl
@[simp] theorem modUc_field_wake (s : State) (p : Nat) (f : UsbcPort → UsbcPort) : (modUc s p f).field.wake = s.field.wake := rfl
@[simp] theorem modUc_field_wakeEn (s : State) (p : Nat) (f : UsbcPort → UsbcPort) : (modUc s p f).field.wakeEn = s.field.wakeEn := rfl
@[simp] theorem modUc_field_timer (s : State) (p : Nat) (f : UsbcPort → UsbcPort) : (modUc s p f).field.timer = s.field.timer := rfl
@[simp] theorem modUc_field_parktime (s : State) (p : Nat) (f : UsbcPort → UsbcPort) : (modUc s p f).field.parktime = s.field.parktime := rfl
@[simp] theorem modUc_field_fault (s : State) (p : Nat) (f : UsbcPort → UsbcPort) : (modUc s p f).field.fault = s.field.fault := rfl
@[simp] theorem modUc_field_switch (s : State) (p : Nat) (f : UsbcPort → UsbcPort) : (modUc s p f).field.switch = s.field.switch := rfl
@[simp] theorem modUc_field_logNext (s : State) (p : Nat) (f : UsbcPort → UsbcPort) : (modUc s p f).field.logNext = s.field.logNext := rfl
@[simp] theorem modUc_field_pwron (s : State) (p : Nat) (f : UsbcPort → UsbcPort) : (modUc s p f).field.pwron = s.field.pwron := rfl
@[simp] theorem modUc_field_ksave (s : State) (p : Nat) (f : UsbcPort → UsbcPort) : (modUc s p f).field.ksave = s.field.ksave := rfl
@[simp] theorem modUc_field_log (s : State) (p : Nat) (f : UsbcPort → UsbcPort) : (modUc s p f).field.log = s.field.log := rfl
@[simp] theorem modUc_field_uncopied (s : State) (p : Nat) (f : UsbcPort → UsbcPort) : (modUc s p f).field.uncopied = s.field.uncopied := rfl
@[simp] theorem modUc_field_crcErr (s : State) (p : Nat) (f : UsbcPort → UsbcPort) : (modUc s p f).field.crcErr = s.field.crcErr := rfl
@[simp] theorem modUc_field_spiOut (s : State) (p : Nat) (f : UsbcPort → UsbcPort) : (modUc s p f).field.spiOut = s.field.spiOut := rfl
@[simp] theorem modUc_field_resends (s : State) (p : Nat) (f : UsbcPort → UsbcPort) : (modUc s p f).field.resends = s.field.resends := rfl
@[simp] theorem modUc_field_holding (s : State) (p : Nat) (f : UsbcPort → UsbcPort) : (modUc s p f).field.holding = s.field.holding := rfl
@[simp] theorem modUc_field_warn (s : State) (p : Nat) (f : UsbcPort → UsbcPort) : (modUc s p f).field.warn = s.field.warn := rfl
@[simp] theorem modUc_field_polled (s : State) (p : Nat) (f : UsbcPort → UsbcPort) : (modUc s p f).field.polled = s.field.polled := rfl
@[simp] theorem modUc_field_tripped (s : State) (p : Nat) (f : UsbcPort → UsbcPort) : (modUc s p f).field.tripped = s.field.tripped := rfl

@[simp] theorem memWrite_pending (s : State) (a : Nat) (bs : List Byte) : (memWrite s a bs).pending = s.pending := rfl
@[simp] theorem memWrite_part (s : State) (a : Nat) (bs : List Byte) : (memWrite s a bs).part = s.part := rfl
@[simp] theorem memWrite_ktime (s : State) (a : Nat) (bs : List Byte) : (memWrite s a bs).ktime = s.ktime := rfl
@[simp] theorem memWrite_fresh (s : State) (a : Nat) (bs : List Byte) : (memWrite s a bs).fresh = s.fresh := rfl
@[simp] theorem memWrite_resp (s : State) (a : Nat) (bs : List Byte) : (memWrite s a bs).resp = s.resp := rfl
@[simp] theorem memWrite_caddy (s : State) (a : Nat) (bs : List Byte) : (memWrite s a bs).caddy = s.caddy := rfl
@[simp] theorem memWrite_party (s : State) (a : Nat) (bs : List Byte) : (memWrite s a bs).party = s.party := rfl
@[simp] theorem memWrite_queue (s : State) (a : Nat) (bs : List Byte) : (memWrite s a bs).queue = s.queue := rfl
@[simp] theorem memWrite_lv (s : State) (a : Nat) (bs : List Byte) : (memWrite s a bs).lv = s.lv := rfl
@[simp] theorem memWrite_jobs (s : State) (a : Nat) (bs : List Byte) : (memWrite s a bs).jobs = s.jobs := rfl
@[simp] theorem memWrite_pw (s : State) (a : Nat) (bs : List Byte) : (memWrite s a bs).pw = s.pw := rfl
@[simp] theorem memWrite_safe (s : State) (a : Nat) (bs : List Byte) : (memWrite s a bs).safe = s.safe := rfl
@[simp] theorem memWrite_world (s : State) (a : Nat) (bs : List Byte) : (memWrite s a bs).world = s.world := rfl
@[simp] theorem memWrite_media (s : State) (a : Nat) (bs : List Byte) : (memWrite s a bs).media = s.media := rfl
@[simp] theorem memWrite_boot (s : State) (a : Nat) (bs : List Byte) : (memWrite s a bs).boot = s.boot := rfl
@[simp] theorem memWrite_cap (s : State) (a : Nat) (bs : List Byte) : (memWrite s a bs).cap = s.cap := rfl
@[simp] theorem memWrite_gw (s : State) (a : Nat) (bs : List Byte) : (memWrite s a bs).gw = s.gw := rfl
@[simp] theorem memWrite_field (s : State) (a : Nat) (bs : List Byte) : (memWrite s a bs).field = s.field := rfl
@[simp] theorem memWrite_io (s : State) (a : Nat) (bs : List Byte) : (memWrite s a bs).io = s.io := rfl
@[simp] theorem memWrite_cross (s : State) (a : Nat) (bs : List Byte) : (memWrite s a bs).cross = s.cross := rfl
@[simp] theorem memWrite_firm (s : State) (a : Nat) (bs : List Byte) : (memWrite s a bs).firm = s.firm := rfl
@[simp] theorem memWrite_mem_lineErr (s : State) (a : Nat) (bs : List Byte) : (memWrite s a bs).mem.lineErr = s.mem.lineErr := rfl
@[simp] theorem memWrite_mem_linkErr (s : State) (a : Nat) (bs : List Byte) : (memWrite s a bs).mem.linkErr = s.mem.linkErr := rfl
@[simp] theorem memWrite_mem_cache (s : State) (a : Nat) (bs : List Byte) : (memWrite s a bs).mem.cache = s.mem.cache := rfl
@[simp] theorem memWrite_mem_plru (s : State) (a : Nat) (bs : List Byte) : (memWrite s a bs).mem.plru = s.mem.plru := rfl
@[simp] theorem memWrite_mem_snoop (s : State) (a : Nat) (bs : List Byte) : (memWrite s a bs).mem.snoop = s.mem.snoop := rfl
@[simp] theorem memWrite_mem_cg (s : State) (a : Nat) (bs : List Byte) : (memWrite s a bs).mem.cg = s.mem.cg := rfl
@[simp] theorem memWrite_mem_ranges (s : State) (a : Nat) (bs : List Byte) : (memWrite s a bs).mem.ranges = s.mem.ranges := rfl
@[simp] theorem memWrite_mem_ops (s : State) (a : Nat) (bs : List Byte) : (memWrite s a bs).mem.ops = s.mem.ops := rfl
@[simp] theorem memWrite_mem_zeroing (s : State) (a : Nat) (bs : List Byte) : (memWrite s a bs).mem.zeroing = s.mem.zeroing := rfl
@[simp] theorem memWrite_mem_lastOwner (s : State) (a : Nat) (bs : List Byte) : (memWrite s a bs).mem.lastOwner = s.mem.lastOwner := rfl
@[simp] theorem memWrite_mem_unzeroed (s : State) (a : Nat) (bs : List Byte) : (memWrite s a bs).mem.unzeroed = s.mem.unzeroed := rfl
@[simp] theorem memWrite_mem_flitCorr (s : State) (a : Nat) (bs : List Byte) : (memWrite s a bs).mem.flitCorr = s.mem.flitCorr := rfl
@[simp] theorem memWrite_mem_sramCorr (s : State) (a : Nat) (bs : List Byte) : (memWrite s a bs).mem.sramCorr = s.mem.sramCorr := rfl
@[simp] theorem memWrite_mem_fabricErr (s : State) (a : Nat) (bs : List Byte) : (memWrite s a bs).mem.fabricErr = s.mem.fabricErr := rfl

@[simp] theorem memZero_pending (s : State) (a n : Nat) : (memZero s a n).pending = s.pending := rfl
@[simp] theorem memZero_part (s : State) (a n : Nat) : (memZero s a n).part = s.part := rfl
@[simp] theorem memZero_ktime (s : State) (a n : Nat) : (memZero s a n).ktime = s.ktime := rfl
@[simp] theorem memZero_fresh (s : State) (a n : Nat) : (memZero s a n).fresh = s.fresh := rfl
@[simp] theorem memZero_resp (s : State) (a n : Nat) : (memZero s a n).resp = s.resp := rfl
@[simp] theorem memZero_caddy (s : State) (a n : Nat) : (memZero s a n).caddy = s.caddy := rfl
@[simp] theorem memZero_party (s : State) (a n : Nat) : (memZero s a n).party = s.party := rfl
@[simp] theorem memZero_queue (s : State) (a n : Nat) : (memZero s a n).queue = s.queue := rfl
@[simp] theorem memZero_lv (s : State) (a n : Nat) : (memZero s a n).lv = s.lv := rfl
@[simp] theorem memZero_jobs (s : State) (a n : Nat) : (memZero s a n).jobs = s.jobs := rfl
@[simp] theorem memZero_pw (s : State) (a n : Nat) : (memZero s a n).pw = s.pw := rfl
@[simp] theorem memZero_safe (s : State) (a n : Nat) : (memZero s a n).safe = s.safe := rfl
@[simp] theorem memZero_world (s : State) (a n : Nat) : (memZero s a n).world = s.world := rfl
@[simp] theorem memZero_media (s : State) (a n : Nat) : (memZero s a n).media = s.media := rfl
@[simp] theorem memZero_boot (s : State) (a n : Nat) : (memZero s a n).boot = s.boot := rfl
@[simp] theorem memZero_cap (s : State) (a n : Nat) : (memZero s a n).cap = s.cap := rfl
@[simp] theorem memZero_gw (s : State) (a n : Nat) : (memZero s a n).gw = s.gw := rfl
@[simp] theorem memZero_field (s : State) (a n : Nat) : (memZero s a n).field = s.field := rfl
@[simp] theorem memZero_io (s : State) (a n : Nat) : (memZero s a n).io = s.io := rfl
@[simp] theorem memZero_cross (s : State) (a n : Nat) : (memZero s a n).cross = s.cross := rfl
@[simp] theorem memZero_firm (s : State) (a n : Nat) : (memZero s a n).firm = s.firm := rfl
@[simp] theorem memZero_mem_lineErr (s : State) (a n : Nat) : (memZero s a n).mem.lineErr = s.mem.lineErr := rfl
@[simp] theorem memZero_mem_linkErr (s : State) (a n : Nat) : (memZero s a n).mem.linkErr = s.mem.linkErr := rfl
@[simp] theorem memZero_mem_cache (s : State) (a n : Nat) : (memZero s a n).mem.cache = s.mem.cache := rfl
@[simp] theorem memZero_mem_plru (s : State) (a n : Nat) : (memZero s a n).mem.plru = s.mem.plru := rfl
@[simp] theorem memZero_mem_snoop (s : State) (a n : Nat) : (memZero s a n).mem.snoop = s.mem.snoop := rfl
@[simp] theorem memZero_mem_cg (s : State) (a n : Nat) : (memZero s a n).mem.cg = s.mem.cg := rfl
@[simp] theorem memZero_mem_ranges (s : State) (a n : Nat) : (memZero s a n).mem.ranges = s.mem.ranges := rfl
@[simp] theorem memZero_mem_ops (s : State) (a n : Nat) : (memZero s a n).mem.ops = s.mem.ops := rfl
@[simp] theorem memZero_mem_zeroing (s : State) (a n : Nat) : (memZero s a n).mem.zeroing = s.mem.zeroing := rfl
@[simp] theorem memZero_mem_lastOwner (s : State) (a n : Nat) : (memZero s a n).mem.lastOwner = s.mem.lastOwner := rfl
@[simp] theorem memZero_mem_unzeroed (s : State) (a n : Nat) : (memZero s a n).mem.unzeroed = s.mem.unzeroed := rfl
@[simp] theorem memZero_mem_flitCorr (s : State) (a n : Nat) : (memZero s a n).mem.flitCorr = s.mem.flitCorr := rfl
@[simp] theorem memZero_mem_sramCorr (s : State) (a n : Nat) : (memZero s a n).mem.sramCorr = s.mem.sramCorr := rfl
@[simp] theorem memZero_mem_fabricErr (s : State) (a n : Nat) : (memZero s a n).mem.fabricErr = s.mem.fabricErr := rfl

@[simp] theorem event_pending (s : State) (src code party : Nat) (args : List Byte) : (event src code party args s).pending = s.pending := rfl
@[simp] theorem event_part (s : State) (src code party : Nat) (args : List Byte) : (event src code party args s).part = s.part := rfl
@[simp] theorem event_ktime (s : State) (src code party : Nat) (args : List Byte) : (event src code party args s).ktime = s.ktime := rfl
@[simp] theorem event_fresh (s : State) (src code party : Nat) (args : List Byte) : (event src code party args s).fresh = s.fresh := rfl
@[simp] theorem event_resp (s : State) (src code party : Nat) (args : List Byte) : (event src code party args s).resp = s.resp := rfl
@[simp] theorem event_party (s : State) (src code party : Nat) (args : List Byte) : (event src code party args s).party = s.party := rfl
@[simp] theorem event_queue (s : State) (src code party : Nat) (args : List Byte) : (event src code party args s).queue = s.queue := rfl
@[simp] theorem event_lv (s : State) (src code party : Nat) (args : List Byte) : (event src code party args s).lv = s.lv := rfl
@[simp] theorem event_jobs (s : State) (src code party : Nat) (args : List Byte) : (event src code party args s).jobs = s.jobs := rfl
@[simp] theorem event_pw (s : State) (src code party : Nat) (args : List Byte) : (event src code party args s).pw = s.pw := rfl
@[simp] theorem event_mem (s : State) (src code party : Nat) (args : List Byte) : (event src code party args s).mem = s.mem := rfl
@[simp] theorem event_world (s : State) (src code party : Nat) (args : List Byte) : (event src code party args s).world = s.world := rfl
@[simp] theorem event_media (s : State) (src code party : Nat) (args : List Byte) : (event src code party args s).media = s.media := rfl
@[simp] theorem event_boot (s : State) (src code party : Nat) (args : List Byte) : (event src code party args s).boot = s.boot := rfl
@[simp] theorem event_cap (s : State) (src code party : Nat) (args : List Byte) : (event src code party args s).cap = s.cap := rfl
@[simp] theorem event_gw (s : State) (src code party : Nat) (args : List Byte) : (event src code party args s).gw = s.gw := rfl
@[simp] theorem event_field (s : State) (src code party : Nat) (args : List Byte) : (event src code party args s).field = s.field := rfl
@[simp] theorem event_io (s : State) (src code party : Nat) (args : List Byte) : (event src code party args s).io = s.io := rfl
@[simp] theorem event_cross (s : State) (src code party : Nat) (args : List Byte) : (event src code party args s).cross = s.cross := rfl
@[simp] theorem event_firm (s : State) (src code party : Nat) (args : List Byte) : (event src code party args s).firm = s.firm := rfl
@[simp] theorem event_safe_causes (s : State) (src code party : Nat) (args : List Byte) : (event src code party args s).safe.causes = s.safe.causes := by unfold event; dsimp only; split <;> rfl
@[simp] theorem event_safe_injection (s : State) (src code party : Nat) (args : List Byte) : (event src code party args s).safe.injection = s.safe.injection := by unfold event; dsimp only; split <;> rfl
@[simp] theorem event_safe_level (s : State) (src code party : Nat) (args : List Byte) : (event src code party args s).safe.level = s.safe.level := by unfold event; dsimp only; split <;> rfl
@[simp] theorem event_safe_levelEst (s : State) (src code party : Nat) (args : List Byte) : (event src code party args s).safe.levelEst = s.safe.levelEst := by unfold event; dsimp only; split <;> rfl
@[simp] theorem event_safe_levelPend (s : State) (src code party : Nat) (args : List Byte) : (event src code party args s).safe.levelPend = s.safe.levelPend := by unfold event; dsimp only; split <;> rfl
@[simp] theorem event_safe_pairFault (s : State) (src code party : Nat) (args : List Byte) : (event src code party args s).safe.pairFault = s.safe.pairFault := by unfold event; dsimp only; split <;> rfl
@[simp] theorem event_safe_kettleFault (s : State) (src code party : Nat) (args : List Byte) : (event src code party args s).safe.kettleFault = s.safe.kettleFault := by unfold event; dsimp only; split <;> rfl
@[simp] theorem event_safe_halted (s : State) (src code party : Nat) (args : List Byte) : (event src code party args s).safe.halted = s.safe.halted := by unfold event; dsimp only; split <;> rfl
@[simp] theorem event_safe_gxIrq (s : State) (src code party : Nat) (args : List Byte) : (event src code party args s).safe.gxIrq = s.safe.gxIrq := by unfold event; dsimp only; split <;> rfl
@[simp] theorem event_safe_spiCrcErr (s : State) (src code party : Nat) (args : List Byte) : (event src code party args s).safe.spiCrcErr = s.safe.spiCrcErr := by unfold event; dsimp only; split <;> rfl
@[simp] theorem event_safe_gxPages (s : State) (src code party : Nat) (args : List Byte) : (event src code party args s).safe.gxPages = s.safe.gxPages := by unfold event; dsimp only; split <;> rfl
@[simp] theorem event_safe_spiOut (s : State) (src code party : Nat) (args : List Byte) : (event src code party args s).safe.spiOut = s.safe.spiOut := by unfold event; dsimp only; split <;> rfl

@[simp] theorem draw_pending (s : State) : (draw s).2.pending = s.pending := rfl
@[simp] theorem draw_part (s : State) : (draw s).2.part = s.part := rfl
@[simp] theorem draw_ktime (s : State) : (draw s).2.ktime = s.ktime := rfl
@[simp] theorem draw_resp (s : State) : (draw s).2.resp = s.resp := rfl
@[simp] theorem draw_caddy (s : State) : (draw s).2.caddy = s.caddy := rfl
@[simp] theorem draw_party (s : State) : (draw s).2.party = s.party := rfl
@[simp] theorem draw_queue (s : State) : (draw s).2.queue = s.queue := rfl
@[simp] theorem draw_lv (s : State) : (draw s).2.lv = s.lv := rfl
@[simp] theorem draw_jobs (s : State) : (draw s).2.jobs = s.jobs := rfl
@[simp] theorem draw_pw (s : State) : (draw s).2.pw = s.pw := rfl
@[simp] theorem draw_mem (s : State) : (draw s).2.mem = s.mem := rfl
@[simp] theorem draw_safe (s : State) : (draw s).2.safe = s.safe := rfl
@[simp] theorem draw_world (s : State) : (draw s).2.world = s.world := rfl
@[simp] theorem draw_media (s : State) : (draw s).2.media = s.media := rfl
@[simp] theorem draw_boot (s : State) : (draw s).2.boot = s.boot := rfl
@[simp] theorem draw_cap (s : State) : (draw s).2.cap = s.cap := rfl
@[simp] theorem draw_gw (s : State) : (draw s).2.gw = s.gw := rfl
@[simp] theorem draw_field (s : State) : (draw s).2.field = s.field := rfl
@[simp] theorem draw_io (s : State) : (draw s).2.io = s.io := rfl
@[simp] theorem draw_cross (s : State) : (draw s).2.cross = s.cross := rfl
@[simp] theorem draw_firm (s : State) : (draw s).2.firm = s.firm := rfl

theorem getParty_modParty (s : State) (p j : Nat) (f : PartySt → PartySt) : getParty (modParty s p f) j = if j = p then f (getParty s p) else getParty s j := tget_tmod _ _ _ _
@[simp] theorem getParty_modParty_same (s : State) (p : Nat) (f : PartySt → PartySt) : getParty (modParty s p f) p = f (getParty s p) := by simp [getParty_modParty]
theorem getParty_modParty_ne (s : State) {p j : Nat} (f : PartySt → PartySt) (h : j ≠ p) : getParty (modParty s p f) j = getParty s j := by simp [getParty_modParty, h]
theorem getQ_modQ (s : State) (q j : Nat) (f : Queue → Queue) : getQ (modQ s q f) j = if j = q then f (getQ s q) else getQ s j := tget_tmod _ _ _ _
@[simp] theorem getQ_modQ_same (s : State) (q : Nat) (f : Queue → Queue) : getQ (modQ s q f) q = f (getQ s q) := by simp [getQ_modQ]
theorem getQ_modQ_ne (s : State) {q j : Nat} (f : Queue → Queue) (h : j ≠ q) : getQ (modQ s q f) j = getQ s j := by simp [getQ_modQ, h]
theorem getEst_modEst (s : State) (e j : Nat) (f : Estate → Estate) : getEst (modEst s e f) j = if j = e then f (getEst s e) else getEst s j := tget_tmod _ _ _ _
@[simp] theorem getEst_modEst_same (s : State) (e : Nat) (f : Estate → Estate) : getEst (modEst s e f) e = f (getEst s e) := by simp [getEst_modEst]
theorem getEst_modEst_ne (s : State) {e j : Nat} (f : Estate → Estate) (h : j ≠ e) : getEst (modEst s e f) j = getEst s j := by simp [getEst_modEst, h]
theorem getLeaf_modLeaf (s : State) (l j : Nat) (f : Leaf → Leaf) : getLeaf (modLeaf s l f) j = if j = l then f (getLeaf s l) else getLeaf s j := tget_tmod _ _ _ _
@[simp] theorem getLeaf_modLeaf_same (s : State) (l : Nat) (f : Leaf → Leaf) : getLeaf (modLeaf s l f) l = f (getLeaf s l) := by simp [getLeaf_modLeaf]
theorem getLeaf_modLeaf_ne (s : State) {l j : Nat} (f : Leaf → Leaf) (h : j ≠ l) : getLeaf (modLeaf s l f) j = getLeaf s j := by simp [getLeaf_modLeaf, h]
theorem getTh_modTh (s : State) (k j : Nat) (f : Thread → Thread) : getTh (modTh s k f) j = if j = k then f (getTh s k) else getTh s j := tget_tmod _ _ _ _
@[simp] theorem getTh_modTh_same (s : State) (k : Nat) (f : Thread → Thread) : getTh (modTh s k f) k = f (getTh s k) := by simp [getTh_modTh]
theorem getTh_modTh_ne (s : State) {k j : Nat} (f : Thread → Thread) (h : j ≠ k) : getTh (modTh s k f) j = getTh s j := by simp [getTh_modTh, h]
theorem getCg_modCg (s : State) (c j : Nat) (f : Cg → Cg) : getCg (modCg s c f) j = if j = c then f (getCg s c) else getCg s j := tget_tmod _ _ _ _
@[simp] theorem getCg_modCg_same (s : State) (c : Nat) (f : Cg → Cg) : getCg (modCg s c f) c = f (getCg s c) := by simp [getCg_modCg]
theorem getCg_modCg_ne (s : State) {c j : Nat} (f : Cg → Cg) (h : j ≠ c) : getCg (modCg s c f) j = getCg s j := by simp [getCg_modCg, h]
theorem getRange_modRange (s : State) (r j : Nat) (f : SRange → SRange) : getRange (modRange s r f) j = if j = r then f (getRange s r) else getRange s j := tget_tmod _ _ _ _
@[simp] theorem getRange_modRange_same (s : State) (r : Nat) (f : SRange → SRange) : getRange (modRange s r f) r = f (getRange s r) := by simp [getRange_modRange]
theorem getRange_modRange_ne (s : State) {r j : Nat} (f : SRange → SRange) (h : j ≠ r) : getRange (modRange s r f) j = getRange s j := by simp [getRange_modRange, h]
theorem getPipe_modPipe (s : State) (p j : Nat) (f : Pipe → Pipe) : getPipe (modPipe s p f) j = if j = p then f (getPipe s p) else getPipe s j := tget_tmod _ _ _ _
@[simp] theorem getPipe_modPipe_same (s : State) (p : Nat) (f : Pipe → Pipe) : getPipe (modPipe s p f) p = f (getPipe s p) := by simp [getPipe_modPipe]
theorem getPipe_modPipe_ne (s : State) {p j : Nat} (f : Pipe → Pipe) (h : j ≠ p) : getPipe (modPipe s p f) j = getPipe s j := by simp [getPipe_modPipe, h]
theorem getSes_modSes (s : State) (k j : Nat) (f : Session → Session) : getSes (modSes s k f) j = if j = k then f (getSes s k) else getSes s j := tget_tmod _ _ _ _
@[simp] theorem getSes_modSes_same (s : State) (k : Nat) (f : Session → Session) : getSes (modSes s k f) k = f (getSes s k) := by simp [getSes_modSes]
theorem getSes_modSes_ne (s : State) {k j : Nat} (f : Session → Session) (h : j ≠ k) : getSes (modSes s k f) j = getSes s j := by simp [getSes_modSes, h]
theorem getStr_modStr (s : State) (k j : Nat) (f : Stream → Stream) : getStr (modStr s k f) j = if j = k then f (getStr s k) else getStr s j := tget_tmod _ _ _ _
@[simp] theorem getStr_modStr_same (s : State) (k : Nat) (f : Stream → Stream) : getStr (modStr s k f) k = f (getStr s k) := by simp [getStr_modStr]
theorem getStr_modStr_ne (s : State) {k j : Nat} (f : Stream → Stream) (h : j ≠ k) : getStr (modStr s k f) j = getStr s j := by simp [getStr_modStr, h]
theorem getUnit_modUnit (s : State) (u j : Nat) (f : IoUnit → IoUnit) : getUnit (modUnit s u f) j = if j = u then f (getUnit s u) else getUnit s j := tget_tmod _ _ _ _
@[simp] theorem getUnit_modUnit_same (s : State) (u : Nat) (f : IoUnit → IoUnit) : getUnit (modUnit s u f) u = f (getUnit s u) := by simp [getUnit_modUnit]
theorem getUnit_modUnit_ne (s : State) {u j : Nat} (f : IoUnit → IoUnit) (h : j ≠ u) : getUnit (modUnit s u f) j = getUnit s j := by simp [getUnit_modUnit, h]
theorem getCan_modCan (s : State) (c j : Nat) (f : CanCtl → CanCtl) : getCan (modCan s c f) j = if j = c then f (getCan s c) else getCan s j := tget_tmod _ _ _ _
@[simp] theorem getCan_modCan_same (s : State) (c : Nat) (f : CanCtl → CanCtl) : getCan (modCan s c f) c = f (getCan s c) := by simp [getCan_modCan]
theorem getCan_modCan_ne (s : State) {c j : Nat} (f : CanCtl → CanCtl) (h : j ≠ c) : getCan (modCan s c f) j = getCan s j := by simp [getCan_modCan, h]
theorem getRule_modRule (s : State) (r j : Nat) (f : Rule → Rule) : getRule (modRule s r f) j = if j = r then f (getRule s r) else getRule s j := tget_tmod _ _ _ _
@[simp] theorem getRule_modRule_same (s : State) (r : Nat) (f : Rule → Rule) : getRule (modRule s r f) r = f (getRule s r) := by simp [getRule_modRule]
theorem getRule_modRule_ne (s : State) {r j : Nat} (f : Rule → Rule) (h : j ≠ r) : getRule (modRule s r f) j = getRule s j := by simp [getRule_modRule, h]
theorem getPort_modPort (s : State) (p j : Nat) (f : TsnPort → TsnPort) : getPort (modPort s p f) j = if j = p then f (getPort s p) else getPort s j := tget_tmod _ _ _ _
@[simp] theorem getPort_modPort_same (s : State) (p : Nat) (f : TsnPort → TsnPort) : getPort (modPort s p f) p = f (getPort s p) := by simp [getPort_modPort]
theorem getPort_modPort_ne (s : State) {p j : Nat} (f : TsnPort → TsnPort) (h : j ≠ p) : getPort (modPort s p f) j = getPort s j := by simp [getPort_modPort, h]
theorem getVnic_modVnic (s : State) (v j : Nat) (f : Vnic → Vnic) : getVnic (modVnic s v f) j = if j = v then f (getVnic s v) else getVnic s j := tget_tmod _ _ _ _
@[simp] theorem getVnic_modVnic_same (s : State) (v : Nat) (f : Vnic → Vnic) : getVnic (modVnic s v f) v = f (getVnic s v) := by simp [getVnic_modVnic]
theorem getVnic_modVnic_ne (s : State) {v j : Nat} (f : Vnic → Vnic) (h : j ≠ v) : getVnic (modVnic s v f) j = getVnic s j := by simp [getVnic_modVnic, h]
theorem getUc_modUc (s : State) (p j : Nat) (f : UsbcPort → UsbcPort) : getUc (modUc s p f) j = if j = p then f (getUc s p) else getUc s j := tget_tmod _ _ _ _
@[simp] theorem getUc_modUc_same (s : State) (p : Nat) (f : UsbcPort → UsbcPort) : getUc (modUc s p f) p = f (getUc s p) := by simp [getUc_modUc]
theorem getUc_modUc_ne (s : State) {p j : Nat} (f : UsbcPort → UsbcPort) (h : j ≠ p) : getUc (modUc s p f) j = getUc s j := by simp [getUc_modUc, h]

end Sys2Proof.Machine
end

