-- ==== Sys2Proof/Laws/Leaf.lean ====
section
/-! SUPPORT. What the shared operations of a leaf do: records, registers, the scratchpad, and the issue of an instruction. -/

namespace Sys2Proof.Machine

/-! ### Records -/

@[simp] theorem getLeaf_modTh (s : State) (k l : Nat) (f : Thread → Thread) : getLeaf (modTh s k f) l = getLeaf s l := rfl
@[simp] theorem getTh_modLeaf (s : State) (k l : Nat) (f : Leaf → Leaf) : getTh (modLeaf s l f) k = getTh s k := rfl
@[simp] theorem getTh_modJob (s : State) (k e : Nat) (f : Job → Job) : getTh (modJob s e f) k = getTh s k := rfl
@[simp] theorem getLeaf_modJob (s : State) (k e : Nat) (f : Job → Job) : getLeaf (modJob s e f) k = getLeaf s k := rfl

/-! ### Progress and issue -/

/-- Progress changes the scheduler's records alone. -/
theorem progress_eq (l : Nat) (s : State) : progress l s = { s with jobs := (progress l s).jobs } := by
  unfold progress; split <;> rfl
@[simp] theorem progress_lv (l : Nat) (s : State) : (progress l s).lv = s.lv := by rw [progress_eq]
@[simp] theorem progress_mem (l : Nat) (s : State) : (progress l s).mem = s.mem := by rw [progress_eq]
@[simp] theorem progress_queue (l : Nat) (s : State) : (progress l s).queue = s.queue := by rw [progress_eq]
@[simp] theorem progress_party (l : Nat) (s : State) : (progress l s).party = s.party := by rw [progress_eq]
@[simp] theorem progress_caddy (l : Nat) (s : State) : (progress l s).caddy = s.caddy := by rw [progress_eq]
@[simp] theorem progress_pending (l : Nat) (s : State) : (progress l s).pending = s.pending := by rw [progress_eq]
@[simp] theorem getTh_progress (l k : Nat) (s : State) : getTh (progress l s) k = getTh s k := by simp [getTh]
@[simp] theorem getLeaf_progress (l k : Nat) (s : State) : getLeaf (progress l s) k = getLeaf s k := by simp [getLeaf]

@[simp] theorem issued_mem (k : Nat) (s : State) : (issued k s).mem = s.mem := by simp [issued]
@[simp] theorem issued_queue (k : Nat) (s : State) : (issued k s).queue = s.queue := by simp [issued]
@[simp] theorem getTh_issued (k j : Nat) (s : State) : getTh (issued k s) j = getTh s j := by simp [issued]
theorem getLeaf_issued (k l : Nat) (s : State) : getLeaf (issued k s) l =
    if l = k / 64 then { getLeaf s (k / 64) with issued := (getLeaf s (k / 64)).issued.add 1 } else getLeaf s l := by
  simp [issued, getLeaf_modLeaf]

/-- An instruction that can issue and whose checks pass takes its effect, and is counted (R65, R94). -/
theorem issue_ok {w : Thr} {f : Nat → State → Chk State} {s t : State} (h : Claims.CanIssue w s) (hf : f (thrKey w) s = .ok t) :
    issue w f s = issued (thrKey w) t := by
  simp [issue, h.1, h.2, hf]

/-- The same for one that goes on to the next instruction. -/
theorem issueNext_ok {w : Thr} {f : Nat → State → Chk State} {s t : State} (h : Claims.CanIssue w s) (hf : f (thrKey w) s = .ok t) :
    issueNext w f s = issued (thrKey w) (adv (thrKey w) t) := by
  unfold issueNext
  exact issue_ok h (by simp [hf, Except.map])

/-- A thread that is not ready issues nothing (R65). -/
theorem issue_wait {w : Thr} {f : Nat → State → Chk State} {s : State} (h : ready s (thrKey w) = false) : issue w f s = s := by
  simp [issue, h]

/-- An instruction whose checks fail takes no effect but that of the check (R69, R91, R98). -/
theorem issue_stop {w : Thr} {f : Nat → State → Chk State} {s : State} {e : Stop} (h : Claims.CanIssue w s)
    (hf : f (thrKey w) s = .error e) : issue w f s = stopTh (thrKey w) e s := by
  simp [issue, h.1, h.2, hf]

/-! ### The thread's own scalar state -/

/-- Only the scalar registers, predicates and program counter of thread `k` changed. -/
def OwnRegs (k : Nat) (s t : State) : Prop :=
  t = { s with lv := { s.lv with threads := t.lv.threads, badReg := t.lv.badReg } } ∧ (∀ j, j ≠ k → getTh t j = getTh s j) ∧
  getTh t k = { getTh s k with regs := (getTh t k).regs, preds := (getTh t k).preds, pc := (getTh t k).pc }

theorem OwnRegs.refl (k : Nat) (s : State) : OwnRegs k s s := ⟨rfl, fun _ _ => rfl, rfl⟩

theorem OwnRegs.trans {k : Nat} {s t u : State} (a : OwnRegs k s t) (b : OwnRegs k t u) : OwnRegs k s u := by
  have others : ∀ j, j ≠ k → getTh u j = getTh s j := fun j hj => by rw [b.2.1 j hj, a.2.1 j hj]
  have whole := b.1
  have mine := b.2.2
  rw [a.1] at whole
  rw [a.2.2] at mine
  exact ⟨whole, others, mine⟩

theorem ownRegs_modTh (k : Nat) (s : State) (f : Thread → Thread)
    (h : ∀ t, f t = { t with regs := (f t).regs, preds := (f t).preds, pc := (f t).pc }) : OwnRegs k s (modTh s k f) := by
  refine ⟨rfl, fun j hj => getTh_modTh_ne s f hj, ?_⟩
  rw [getTh_modTh_same]; exact h _

theorem getTh_setReg_same (s : State) (k : Nat) {r : BitVec 5} (v : Word) (h : r ≠ 0) :
    getTh (setReg k r v s) k = { getTh s k with regs := tput (getTh s k).regs r.toNat v } := by
  rw [setReg, if_neg h]; simp [getTh, modTh]

theorem ownRegs_setReg (k : Nat) (r : BitVec 5) (v : Word) (s : State) : OwnRegs k s (setReg k r v s) := by
  by_cases h : r = 0
  · simp only [setReg, h, if_true]; exact .refl k s
  · refine ⟨?_, ?_, by rw [getTh_setReg_same s k v h]⟩
    · simp only [setReg, h, if_false]; rfl
    · intro j hj; rw [setReg, if_neg h]; simp [getTh, modTh, tget_tmod, hj]

theorem ownRegs_setPred (k p : Nat) (b : Bool) (s : State) : OwnRegs k s (setPred k p b s) := ownRegs_modTh k s _ fun _ => rfl
theorem ownRegs_adv (k : Nat) (s : State) : OwnRegs k s (adv k s) := ownRegs_modTh k s _ fun _ => rfl
theorem ownRegs_jumpTo (k pc : Nat) (s : State) : OwnRegs k s (jumpTo k pc s) := ownRegs_modTh k s _ fun _ => rfl

/-- Estates do not read what lies in a leaf, so the progress mark is the same. -/
theorem progress_lvSet (l : Nat) (s : State) (v : Leaves) : progress l { s with lv := v } = { progress l s with lv := v } := by
  have h : estOf { s with lv := v } l = estOf s l := rfl
  simp only [progress, h]
  cases estOf s l <;> rfl

/-- Counting an instruction changes its leaf's record and the progress mark. -/
theorem issued_eq (k : Nat) (s : State) :
    issued k s = { s with lv := { s.lv with leaf := tmod s.lv.leaf (k / 64) fun x => { x with issued := x.issued.add 1 } }
                          jobs := (progress (k / 64) s).jobs } := by
  show progress (k / 64) { s with lv := _ } = _
  rw [progress_lvSet, progress_eq]

/-- An instruction that changed only its thread's own scalar state keeps to the scalar frame when it is counted. -/
theorem scalarFrame_issued {k : Nat} {s t : State} (h : OwnRegs k s t) : Claims.ScalarFrame k s (issued k t) := by
  obtain ⟨h1, h2, h3⟩ := h
  have hl : ∀ l, getLeaf t l = getLeaf s l := by intro l; unfold getLeaf; rw [h1]
  refine ⟨?_, ?_, ?_, ?_, ?_, ?_⟩
  · unfold Claims.OnlyLeaf
    rw [issued_eq]
    generalize t.lv.threads = a, t.lv.badReg = b at h1
    subst h1
    rw [progress_lvSet]
  · rw [issued_eq]
    generalize t.lv.threads = a, t.lv.badReg = b at h1
    subst h1
    rfl
  · intro j hj; rw [getTh_issued]; exact h2 j hj
  · rw [getTh_issued]; exact h3
  · intro l hl'
    rw [getLeaf_issued, if_neg hl', hl]
  · rw [getLeaf_issued, if_pos rfl, hl]

/-! ### Scalar registers -/

@[simp] theorem sreg_zero (s : State) (k : Nat) : sreg s k 0 = .ok 0#32 := by simp [sreg]
@[simp] theorem sreg_issued (s : State) (k j : Nat) (r : BitVec 5) : sreg (issued k s) j r = sreg s j r := by
  simp [sreg, issued, getTh]
@[simp] theorem sreg_adv (s : State) (k : Nat) (r : BitVec 5) : sreg (adv k s) k r = sreg s k r := by
  simp [sreg, adv]
@[simp] theorem sreg_jumpTo (s : State) (k pc : Nat) (r : BitVec 5) : sreg (jumpTo k pc s) k r = sreg s k r := by
  simp [sreg, jumpTo]
@[simp] theorem sreg_setPred (s : State) (k p : Nat) (b : Bool) (r : BitVec 5) : sreg (setPred k p b s) k r = sreg s k r := by
  simp [sreg, setPred]

theorem badReg_setReg (s : State) (k : Nat) {r : BitVec 5} (v : Word) (h : r ≠ 0) :
    (setReg k r v s).lv.badReg = tput s.lv.badReg (k * 32 + r.toNat) 0 := by rw [setReg, if_neg h]; rfl

/-- A written register reads what was written; s0 does not take it. -/
theorem sreg_setReg_same (s : State) (k : Nat) {r : BitVec 5} (v : Word) (h : r ≠ 0) : sreg (setReg k r v s) k r = .ok v := by
  have e := getTh_setReg_same s k v h
  rw [sreg, if_neg h, e, badReg_setReg s k v h]
  simp
theorem sreg_setReg_ne (s : State) (k : Nat) {r x : BitVec 5} (v : Word) (h : x ≠ r) : sreg (setReg k r v s) k x = sreg s k x := by
  by_cases hr : r = 0
  · simp [setReg, hr]
  · have e := getTh_setReg_same s k v hr
    have hn : x.toNat ≠ r.toNat := fun c => h (BitVec.eq_of_toNat_eq c)
    simp only [sreg, e, badReg_setReg s k v hr]
    rw [tget_tput_ne _ _ (by omega), tget_tput_ne _ _ hn]

/-- Writing a register gives what `Claims.WritesReg` says. -/
theorem writesReg_setReg (s : State) (k : Nat) (r : BitVec 5) (v : Word) : Claims.WritesReg k r v s (setReg k r v s) :=
  ⟨sreg_setReg_same s k v, sreg_zero _ _, fun _ h => sreg_setReg_ne s k v h⟩

@[simp] theorem pc_setReg (s : State) (k : Nat) (r : BitVec 5) (v : Word) : (getTh (setReg k r v s) k).pc = (getTh s k).pc := by
  by_cases h : r = 0
  · rw [setReg, if_pos h]
  · rw [getTh_setReg_same s k v h]
@[simp] theorem pc_adv (s : State) (k : Nat) : (getTh (adv k s) k).pc = ((getTh s k).pc + 4) % 2 ^ 32 := by simp [adv]
@[simp] theorem pc_jumpTo (s : State) (k pc : Nat) : (getTh (jumpTo k pc s) k).pc = pc % 2 ^ 32 := by simp [jumpTo]
@[simp] theorem pc_setPred (s : State) (k p : Nat) (b : Bool) : (getTh (setPred k p b s) k).pc = (getTh s k).pc := by simp [setPred]

@[simp] theorem preds_setReg (s : State) (k : Nat) (r : BitVec 5) (v : Word) :
    (getTh (setReg k r v s) k).preds = (getTh s k).preds := by
  by_cases h : r = 0
  · rw [setReg, if_pos h]
  · rw [getTh_setReg_same s k v h]

/-- What every instruction does that reads registers, writes `v` to `rd` and goes on. -/
theorem regResult {w : Thr} {f : Nat → State → Chk State} {s : State} {rd : BitVec 5} {v : Word} (h : Claims.CanIssue w s)
    (hf : f (thrKey w) s = .ok (setReg (thrKey w) rd v s)) :
    Claims.WritesReg (thrKey w) rd v s (issueNext w f s) ∧
      (getTh (issueNext w f s) (thrKey w)).preds = (getTh s (thrKey w)).preds ∧ Claims.Steps (thrKey w) s (issueNext w f s) ∧
      Claims.ScalarFrame (thrKey w) s (issueNext w f s) := by
  rw [issueNext_ok h hf]
  refine ⟨⟨?_, ?_, ?_⟩, ?_, ?_, scalarFrame_issued ((ownRegs_setReg _ _ _ _).trans (ownRegs_adv _ _))⟩
  · intro hr; simp [sreg_setReg_same s _ v hr]
  · exact sreg_zero _ _
  · intro r hr; simp [sreg_setReg_ne s _ v hr]
  · simp [adv]
  · simp [Claims.Steps]

/-! ### The scratchpad -/

/-- Bytes put into a scratchpad change memory, parity and reload tags alone. -/
theorem spPut_eq (l off tag : Nat) (bs : List Byte) (s : State) :
    spPut l off tag bs s = { s with mem := { s.mem with cells := (spPut l off tag bs s).mem.cells }
                                    lv := { s.lv with badByte := (spPut l off tag bs s).lv.badByte, lineTag := (spPut l off tag bs s).lv.lineTag } } := by
  unfold spPut; split <;> rfl

@[simp] theorem spPut_cells (l off tag : Nat) (bs : List Byte) (s : State) :
    (spPut l off tag bs s).mem.cells = twrite s.mem.cells (spBase l + off) bs := by
  unfold spPut; split <;> rfl

theorem spPut_badByte (l off tag : Nat) (bs : List Byte) (s : State) {i : Nat} (h : i < bs.length) :
    tget (spPut l off tag bs s).lv.badByte (spBase l + off + i) = 0 := by
  have hb : bs.isEmpty = false := by cases bs with | nil => simp at h | cons => rfl
  simp only [spPut, hb]
  exact tget_tclear_in _ ⟨by omega, by omega⟩

/-- A store that its segments let through takes effect (R97 to R99). -/
theorem spWrite_ok {l off tag : Nat} {bs : List Byte} {s : State} (hr : off + bs.length ≤ 0x200000)
    (hs : ∀ g ∈ segsOf s l off bs.length, g = .on ∨ g = .closing) : spWrite l off tag bs s = .ok (spPut l off tag bs s) := by
  have h1 : ¬ (Seg.off ∈ segsOf s l off bs.length ∨ Seg.refusing ∈ segsOf s l off bs.length) := by
    rintro (h | h) <;> rcases hs _ h with h | h <;> cases h
  have h2 : ¬ Seg.zeroing ∈ segsOf s l off bs.length := by
    intro h; rcases hs _ h with h | h <;> cases h
  simp only [spWrite, if_neg h1, if_neg h2, if_neg (show ¬ spBytes < off + bs.length by simp only [spBytes]; omega)]

/-- A read of a scratchpad is what memory holds there. -/
theorem spRead_mem {s : State} {l off n kind : Nat} {bs : List Byte} (h : spRead s l off n kind = .ok bs) :
    bs = memRead s (spBase l + off) n := by
  revert h
  unfold spRead
  repeat' split
  all_goals rintro ⟨⟩
  rfl

@[simp] theorem leBytes_length (n v : Nat) : (leBytes n v).length = n := by
  induction n generalizing v with
  | zero => rfl
  | succ n ih => simp [leBytes, ih]

end Sys2Proof.Machine
end

