-- ==== Sys2Proof/Laws/Mem.lean ====
section
/-! SUPPORT. What the memory path does: lines, DRAM transactions, and the canonical form of memory. -/

namespace Sys2Proof.Machine

/-! ### The canonical form -/

theorem memory_wf_reset : Memory.wf State.reset = true := rfl
theorem memory_wf_memWrite {s : State} (a : Nat) (bs : List Byte) (h : Memory.wf s = true) : Memory.wf (memWrite s a bs) = true :=
  wf_twrite bs _ a h
theorem memory_wf_memZero {s : State} (a n : Nat) (h : Memory.wf s = true) : Memory.wf (memZero s a n) = true := wf_tclear _ a n h
theorem memory_wf_spPut {s : State} (l off tag : Nat) (bs : List Byte) (h : Memory.wf s = true) :
    Memory.wf (spPut l off tag bs s) = true := by unfold Memory.wf; rw [spPut_cells]; exact wf_twrite bs _ _ h
@[simp] theorem fireWatches_mem (a n : Nat) (s : State) : (fireWatches a n s).mem = s.mem := by
  unfold fireWatches; dsimp only; split <;> rfl
@[simp] theorem refusal_mem (src code p ini a : Nat) (sec write : Bool) (s : State) : (refusal src code p ini a sec write s).mem = s.mem := by
  unfold refusal; split <;> rfl
@[simp] theorem bankOffEvent_mem (l ini p off : Nat) (write : Bool) (s : State) : (bankOffEvent l ini p off write s).mem = s.mem := rfl
theorem memory_wf_putBytes {s : State} (w : Writer) (a : Nat) (bs : List Byte) (h : Memory.wf s = true) :
    Memory.wf (putBytes w a bs s) = true := by
  unfold putBytes
  split
  · simpa [Memory.wf] using memory_wf_memWrite a bs h
  · split
    · simpa [Memory.wf] using h
    · split
      · simpa [Memory.wf] using h
      · exact memory_wf_spPut _ _ _ _ h

/-! ### Reads and writes of memory -/

@[simp] theorem memRead_memWrite (s : State) (a : Nat) (bs : List Byte) : memRead (memWrite s a bs) a bs.length = bs := tread_twrite bs _ a
theorem memRead_memWrite_out (s : State) {a b n : Nat} (bs : List Byte) (h : b + n ≤ a ∨ a + bs.length ≤ b) :
    memRead (memWrite s a bs) b n = memRead s b n := tread_twrite_out bs _ h
@[simp] theorem memRead_length (s : State) (a n : Nat) : (memRead s a n).length = n := tread_length _ a n

/-! ### What changes only bookkeeping of the memory path -/

/-- Only the memory path's records, the Caddy and the safety island's event flag changed: every byte of memory reads as before. -/
structure PathOnly (s t : State) : Prop where
  cells : t.mem.cells = s.mem.cells
  lv : t.lv = s.lv
  queue : t.queue = s.queue
  party : t.party = s.party
  jobs : t.jobs = s.jobs
  pw : t.pw = s.pw
  boot : t.boot = s.boot
  part : t.part = s.part
  ktime : t.ktime = s.ktime
  pending : t.pending = s.pending
  cross : t.cross = s.cross
  firm : t.firm = s.firm
  world : t.world = s.world

theorem PathOnly.refl (s : State) : PathOnly s s := ⟨rfl, rfl, rfl, rfl, rfl, rfl, rfl, rfl, rfl, rfl, rfl, rfl, rfl⟩
theorem PathOnly.trans {s t u : State} (a : PathOnly s t) (b : PathOnly t u) : PathOnly s u :=
  ⟨b.cells.trans a.cells, b.lv.trans a.lv, b.queue.trans a.queue, b.party.trans a.party, b.jobs.trans a.jobs, b.pw.trans a.pw,
   b.boot.trans a.boot, b.part.trans a.part, b.ktime.trans a.ktime, b.pending.trans a.pending, b.cross.trans a.cross,
   b.firm.trans a.firm, b.world.trans a.world⟩

theorem path_modCg (s : State) (c : Nat) (f : Cg → Cg) : PathOnly s (modCg s c f) := ⟨rfl, rfl, rfl, rfl, rfl, rfl, rfl, rfl, rfl, rfl, rfl, rfl, rfl⟩
theorem path_putLine (k : Nat) (l : CLine) (s : State) : PathOnly s (putLine k l s) := ⟨rfl, rfl, rfl, rfl, rfl, rfl, rfl, rfl, rfl, rfl, rfl, rfl, rfl⟩
theorem path_touchWay (l w : Nat) (s : State) : PathOnly s (touchWay l w s) := ⟨rfl, rfl, rfl, rfl, rfl, rfl, rfl, rfl, rfl, rfl, rfl, rfl, rfl⟩
theorem path_event (src code p : Nat) (bs : List Byte) (s : State) : PathOnly s (event src code p bs s) := ⟨rfl, rfl, rfl, rfl, rfl, rfl, rfl, rfl, rfl, rfl, rfl, rfl, rfl⟩
theorem path_snoopAdd (l : Nat) (s : State) : PathOnly s (snoopAdd l s) := ⟨rfl, rfl, rfl, rfl, rfl, rfl, rfl, rfl, rfl, rfl, rfl, rfl, rfl⟩
theorem path_snoopDrop (l : Nat) (s : State) : PathOnly s (snoopDrop l s) := ⟨rfl, rfl, rfl, rfl, rfl, rfl, rfl, rfl, rfl, rfl, rfl, rfl, rfl⟩
theorem path_strainerIn (c : Nat) (k : TClass) (r : Option Nat) (n : Nat) (s : State) : PathOnly s (strainerIn c k r n s) := by
  unfold strainerIn; cases r <;> exact ⟨rfl, rfl, rfl, rfl, rfl, rfl, rfl, rfl, rfl, rfl, rfl, rfl, rfl⟩
theorem path_lineErr (t : Tab Nat) (s : State) : PathOnly s { s with mem := { s.mem with lineErr := t } } := ⟨rfl, rfl, rfl, rfl, rfl, rfl, rfl, rfl, rfl, rfl, rfl, rfl, rfl⟩
theorem path_corrected (l k : Nat) (s : State) : PathOnly s (corrected l k s) := by
  have h := path_modCg s (cgOf s (l * 64)) fun x => { x with corrSince := x.corrSince + 1 }
  unfold corrected; dsimp only; split
  · exact (h.trans (path_event _ _ _ _ _)).trans (path_modCg _ _ _)
  · exact h
theorem path_linkErr (t : Tab Nat) (s : State) : PathOnly s { s with mem := { s.mem with linkErr := t } } := ⟨rfl, rfl, rfl, rfl, rfl, rfl, rfl, rfl, rfl, rfl, rfl, rfl, rfl⟩
theorem path_linkCross (w : Bool) (l : Nat) (s : State) : PathOnly s (linkCross w l s).1 := by
  unfold linkCross; dsimp only; split
  · exact .refl s
  · split
    · exact ((path_linkErr _ s).trans (path_modCg _ _ _)).trans (path_corrected _ _ _)
    · exact path_linkErr _ s
theorem path_linkWrite (l : Nat) (s : State) : PathOnly s (linkWrite l s) := by
  unfold linkWrite; dsimp only; split
  · exact (path_linkCross true l s).trans (path_lineErr _ _)
  · exact path_linkCross true l s
theorem path_writeBack (k : Nat) (s : State) : PathOnly s (writeBack k s) := by
  unfold writeBack; dsimp only; split
  · exact path_linkWrite _ s
  · exact .refl s
theorem path_allocLine (l m : Nat) (d : Bool) (o : List Byte) (s : State) : PathOnly s (allocLine l m d o s) := by
  unfold allocLine; dsimp only; split
  · exact .refl s
  · exact ((path_writeBack _ s).trans (path_putLine _ _ _)).trans (path_touchWay _ _ _)
theorem path_dramCorrected (l : Nat) (s : State) : PathOnly s (dramCorrected l s) :=
  ((((path_lineErr _ s).trans (path_strainerIn _ _ _ _ _)).trans (path_linkWrite _ _)).trans (path_modCg _ _ _)).trans (path_corrected _ _ _)

/-- The errors of lines and links, and the map of addresses, are as they were. -/
structure SameErr (s t : State) : Prop where
  lineErr : t.mem.lineErr = s.mem.lineErr
  linkErr : t.mem.linkErr = s.mem.linkErr
  part : t.part = s.part

theorem SameErr.refl (s : State) : SameErr s s := ⟨rfl, rfl, rfl⟩
theorem SameErr.trans {s t u : State} (a : SameErr s t) (b : SameErr t u) : SameErr s u :=
  ⟨b.lineErr.trans a.lineErr, b.linkErr.trans a.linkErr, b.part.trans a.part⟩
theorem SameErr.link {s t : State} (h : SameErr s t) (l : Nat) :
    tget t.mem.linkErr (cgOf t (l * 64) * 4 + chanOf t l) = tget s.mem.linkErr (cgOf s (l * 64) * 4 + chanOf s l) := by
  simp [chanOf, cgOf, cgBytes, h.linkErr, h.part]
theorem same_modCg (s : State) (c : Nat) (f : Cg → Cg) : SameErr s (modCg s c f) := ⟨rfl, rfl, rfl⟩
theorem same_snoopAdd (l : Nat) (s : State) : SameErr s (snoopAdd l s) := ⟨rfl, rfl, rfl⟩
theorem same_snoopDrop (l : Nat) (s : State) : SameErr s (snoopDrop l s) := ⟨rfl, rfl, rfl⟩
theorem same_strainerIn (c : Nat) (k : TClass) (r : Option Nat) (n : Nat) (s : State) : SameErr s (strainerIn c k r n s) := by
  unfold strainerIn; cases r <;> exact ⟨rfl, rfl, rfl⟩

/-- A line with good link and device bits crosses the link without an uncorrectable error (R333). -/
theorem linkCross_ok {s : State} {line : Nat} (w : Bool) (h : tget s.mem.linkErr (cgOf s (line * 64) * 4 + chanOf s line) ≤ 1) :
    (linkCross w line s).2 = false ∧ (linkCross w line s).1.mem.lineErr = s.mem.lineErr := by
  unfold linkCross; dsimp only
  split
  · exact ⟨rfl, rfl⟩
  · split
    · refine ⟨rfl, ?_⟩
      unfold corrected; dsimp only; split <;> rfl
    · omega

/-- A lookup that meets no uncorrectable error loses nothing (R342). -/
theorem cacheCheck_ok {s : State} {line : Nat} (h : ∀ w, cacheWay s line = some w → (tget s.mem.cache (setKey s line * 16 + w)).err ≤ 1) :
    (cacheCheck line s).2 = false ∧ PathOnly s (cacheCheck line s).1 ∧ SameErr s (cacheCheck line s).1 := by
  unfold cacheCheck
  split
  · exact ⟨rfl, .refl s, .refl s⟩
  · next w hw =>
    have := h w hw
    dsimp only
    split
    · exact ⟨rfl, .refl s, .refl s⟩
    · split
      · exact ⟨rfl, ⟨rfl, rfl, rfl, rfl, rfl, rfl, rfl, rfl, rfl, rfl, rfl, rfl, rfl⟩, ⟨rfl, rfl, rfl⟩⟩
      · omega

/-- A miss of a good line reads DRAM with no uncorrectable error: its bookkeeping before the line is filled. -/
theorem missed_ok {s u : State} (line c : Nat) (k : TClass) (r : Option Nat) (n : Nat) (h4 : PathOnly s u) (h5 : SameErr s u)
    (he : tget s.mem.lineErr line ≠ 2) (hl : tget s.mem.linkErr (cgOf s (line * 64) * 4 + chanOf s line) ≤ 1) :
    let v := strainerIn c k r n (modCg u c fun x => { x with misses := x.misses.add 1 })
    PathOnly s v ∧ (linkCross false line v).2 = false ∧ PathOnly s (linkCross false line v).1 ∧
      tget (linkCross false line v).1.mem.lineErr line ≠ 2 := by
  intro v
  have hv : PathOnly s v := h4.trans ((path_modCg u c _).trans (path_strainerIn c k r n _))
  have hs : SameErr s v := h5.trans ((same_modCg u c _).trans (same_strainerIn c k r n _))
  obtain ⟨h1, h2⟩ := linkCross_ok false (s := v) (line := line) (by rw [hs.link]; exact hl)
  exact ⟨hv, h1, hv.trans (path_linkCross _ _ _), by rw [h2, hs.lineErr]; exact he⟩

/-- A read of a line with no uncorrectable error is OK and changes no byte (R333, R335, R340 to R343). -/
theorem readLine_ok {s : State} (i : Initiator) (w : Who) {line : Nat} (he : tget s.mem.lineErr line ≠ 2)
    (hl : tget s.mem.linkErr (cgOf s (line * 64) * 4 + chanOf s line) ≤ 1)
    (h : ∀ v, cacheWay s line = some v → (tget s.mem.cache (setKey s line * 16 + v)).err ≤ 1) :
    (readLine i w line s).2 = true ∧ PathOnly s (readLine i w line s).1 := by
  obtain ⟨h1, h2, h3⟩ := cacheCheck_ok h
  unfold readLine
  simp only [h1, Bool.false_eq_true, if_false]
  have hs : PathOnly s (if isCore i then snoopAdd line (cacheCheck line s).1 else (cacheCheck line s).1) ∧
      SameErr s (if isCore i then snoopAdd line (cacheCheck line s).1 else (cacheCheck line s).1) := by
    split
    · exact ⟨h2.trans (path_snoopAdd _ _), h3.trans (same_snoopAdd _ _)⟩
    · exact ⟨h2, h3⟩
  generalize (if isCore i then snoopAdd line (cacheCheck line s).1 else (cacheCheck line s).1) = u at hs ⊢
  obtain ⟨h4, h5⟩ := hs
  split
  · exact ⟨rfl, h4.trans ((path_modCg _ _ _).trans (path_touchWay _ _ _))⟩
  · obtain ⟨-, h7, h8, h9⟩ := missed_ok line (cgOf s (line * 64)) (classOf u i w (line * 64)).1 (classOf u i w (line * 64)).2 64 h4 h5 he hl
    generalize hx : linkCross false line _ = x at h7 h8 h9 ⊢
    simp only [h7, h9, decide_false, Bool.or_self, Bool.false_eq_true, if_false, true_and]
    have h10 : PathOnly s (if tget x.1.mem.lineErr line = 1 then dramCorrected line x.1 else x.1) := by
      split
      · exact h8.trans (path_dramCorrected _ _)
      · exact h8
    generalize (if tget x.1.mem.lineErr line = 1 then dramCorrected line x.1 else x.1) = y at h10 ⊢
    split
    · exact h10
    · exact h10.trans (path_allocLine _ _ _ _ _)

/-- A write of a line with no uncorrectable error is OK; its bytes are written by the caller (R333, R337, R340 to R343). -/
theorem writeLine_ok {s : State} (i : Initiator) (w : Who) {line n : Nat} (he : tget s.mem.lineErr line ≠ 2)
    (hl : tget s.mem.linkErr (cgOf s (line * 64) * 4 + chanOf s line) ≤ 1)
    (h : ∀ v, cacheWay s line = some v → (tget s.mem.cache (setKey s line * 16 + v)).err ≤ 1) :
    (writeLine i w line n s).2 = true ∧ PathOnly s (writeLine i w line n s).1 := by
  obtain ⟨h1, h2, h3⟩ := cacheCheck_ok h
  unfold writeLine
  simp only [h1, Bool.false_eq_true, if_false]
  have hs : PathOnly s (if isCore i then snoopAdd line (cacheCheck line s).1 else snoopDrop line (cacheCheck line s).1) ∧
      SameErr s (if isCore i then snoopAdd line (cacheCheck line s).1 else snoopDrop line (cacheCheck line s).1) := by
    split
    · exact ⟨h2.trans (path_snoopAdd _ _), h3.trans (same_snoopAdd _ _)⟩
    · exact ⟨h2.trans (path_snoopDrop _ _), h3.trans (same_snoopDrop _ _)⟩
  generalize (if isCore i then snoopAdd line (cacheCheck line s).1 else snoopDrop line (cacheCheck line s).1) = u at hs ⊢
  obtain ⟨h4, h5⟩ := hs
  split
  · exact ⟨rfl, ((h4.trans (path_modCg _ _ _)).trans (path_putLine _ _ _)).trans (path_touchWay _ _ _)⟩
  · obtain ⟨h6, h7, h8, h9⟩ := missed_ok line (cgOf s (line * 64)) (classOf u i w (line * 64)).1 (classOf u i w (line * 64)).2 n h4 h5 he hl
    generalize strainerIn _ _ _ _ _ = v at h6 h7 h8 h9 ⊢
    have hx : (if n < 64 then linkCross false line v else (v, false)).2 = false ∧
        PathOnly s (if n < 64 then linkCross false line v else (v, false)).1 ∧
        (n < 64 → tget (if n < 64 then linkCross false line v else (v, false)).1.mem.lineErr line ≠ 2) := by
      split
      · exact ⟨h7, h8, fun _ => h9⟩
      · exact ⟨rfl, h6, fun c => absurd c (by assumption)⟩
    generalize (if n < 64 then linkCross false line v else (v, false)) = x at hx ⊢
    obtain ⟨h10, h11, h12⟩ := hx
    have h13 : ¬ (n < 64 ∧ (x.2 = true ∨ tget x.1.mem.lineErr line = 2)) := by
      rintro ⟨a, b | b⟩
      · rw [h10] at b; cases b
      · exact h12 a b
    simp only [h13, if_false, true_and]
    have h14 : PathOnly s (if tget x.1.mem.lineErr line = 1 ∧ n < 64 then dramCorrected line x.1
        else { x.1 with mem := { x.1.mem with lineErr := tput x.1.mem.lineErr line 0 } }) := by
      split
      · exact h11.trans (path_dramCorrected _ _)
      · exact h11.trans (path_lineErr _ _)
    generalize (if tget x.1.mem.lineErr line = 1 ∧ n < 64 then dramCorrected line x.1
        else { x.1 with mem := { x.1.mem with lineErr := tput x.1.mem.lineErr line 0 } }) = y at h14 ⊢
    split
    · exact h14.trans (path_linkWrite _ _)
    · exact h14.trans (path_allocLine _ _ _ _ _)

/-- A transaction within one 64-byte line meets that line alone. -/
theorem linesOf_one {a n : Nat} (h1 : 1 ≤ n) (h2 : a % 64 + n ≤ 64) : linesOf a n = [(a / 64, n)] := by
  have h3 : (a + n - 1) / 64 + 1 - a / 64 = 1 := by omega
  unfold linesOf
  rw [h3]
  simp
  omega

/-- The watches mark jobs, and change nothing else (R164). -/
theorem fireWatches_eq (a n : Nat) (s : State) : fireWatches a n s = { s with jobs := (fireWatches a n s).jobs } := by
  unfold fireWatches; dsimp only; split <;> rfl

/-- A DRAM write within one good line stores its bytes, and changes no other byte (R337). -/
theorem dramWrite_ok {s : State} (i : Initiator) (w : Who) {a : Nat} (data : List Byte) (h1 : 1 ≤ data.length)
    (h2 : a % 64 + data.length ≤ 64) (h : Claims.LineGood s a) :
    ∃ u, dramAccess i w true a data.length data s = (fireWatches a data.length (memWrite u a data), .done stOK []) ∧ PathOnly s u := by
  obtain ⟨h3, h4⟩ := writeLine_ok (n := data.length) i w h.1 h.2.1 h.2.2
  refine ⟨(writeLine i w (a / 64) data.length s).1, ?_, h4⟩
  simp [dramAccess, linesOf_one h1 h2, h3]

/-- A DRAM read within one good line answers what memory holds, and changes no byte. -/
theorem dramRead_ok {s : State} (i : Initiator) (w : Who) {a n : Nat} (data : List Byte) (h1 : 1 ≤ n) (h2 : a % 64 + n ≤ 64)
    (h : Claims.LineGood s a) :
    ∃ t, dramAccess i w false a n data s = (t, .done stOK (memRead s a n)) ∧ PathOnly s t := by
  obtain ⟨h3, h4⟩ := readLine_ok i w h.1 h.2.1 h.2.2
  refine ⟨(readLine i w (a / 64) s).1, ?_, h4⟩
  simp [dramAccess, linesOf_one h1 h2, h3, memRead, h4.cells]

end Sys2Proof.Machine
end

