-- ==== Sys2Proof/Laws/Vec.lean ====
section
/-! SUPPORT. What writing a vector register does, and what an instruction that writes one leaves as it was. -/

namespace Sys2Proof.Machine

theorem vread_own {s : State} {k r : Nat} {ws : List Word} (h : vread s k r = .ok ws) : r < (getTh s k).nv := by
  unfold vread at h
  split at h
  · cases h
  · omega

theorem vread_length {s : State} {k r : Nat} {ws : List Word} (h : vread s k r = .ok ws) : ws.length = 128 := by
  unfold vread at h
  split at h
  · cases h
  · split at h
    · cases h
    · cases h; exact tread_length _ _ _

theorem tread_default {α : Type} [Inhabited α] (t : Tab α) (a : Nat) : (n : Nat) → (∀ i, a ≤ i → i < a + n → tget t i = default) →
    tread t a n = List.replicate n default
  | 0, _ => rfl
  | n + 1, h => by
    rw [tread, h a (by omega) (by omega), tread_default t (a + 1) n fun i h1 h2 => h i (by omega) (by omega)]
    rfl

/-- The state after the lanes `ws` land in a vector register. -/
def vput (k r : Nat) (ws : List Word) (s : State) : State :=
  { s with lv := { s.lv with vregs := twrite s.lv.vregs (vkey s k r) ws, badVec := tclear s.lv.badVec (vkey s k r) 128 } }

/-- A write of an owned vector register, and the issue of the instruction, give what `Claims.WritesVec` and `Claims.VecFrame` say. -/
theorem vecResult {w : Thr} {f : Nat → State → Chk State} {s : State} {r : Nat} {ws : List Word} (h : Claims.CanIssue w s)
    (ho : r < (getTh s (thrKey w)).nv) (hl : ws.length = 128) (hf : f (thrKey w) s = vwrite (thrKey w) r ws s) :
    Claims.WritesVec (thrKey w) r ws s (issueNext w f s) ∧ Claims.VecFrame (thrKey w) s (issueNext w f s) := by
  have hw : vwrite (thrKey w) r ws s = .ok (vput (thrKey w) r ws s) := by
    rw [vwrite, if_neg (by omega)]; conv => { lhs; rw [← hl, List.take_length] }; simp [vput, hl]
  rw [hw] at hf
  rw [issueNext_ok h hf]
  generalize thrKey w = k at *
  have hth : ∀ j, getTh (issued k (adv k (vput k r ws s))) j =
      if j = k then { getTh s k with pc := ((getTh s k).pc + 4) % 2 ^ 32 } else getTh s j := by
    intro j
    rw [getTh_issued, adv, getTh_modTh]
    rfl
  refine ⟨⟨?_, ?_⟩, ?_, ?_, ?_, ?_, ?_, ?_⟩
  · have hk : vkey (issued k (adv k (vput k r ws s))) k r = vkey s k r := by
      rw [vkey, hth]; simp [vkey]
    have hn : (getTh (issued k (adv k (vput k r ws s))) k).nv = (getTh s k).nv := by
      rw [hth]; simp
    have hb : ((tread (issued k (adv k (vput k r ws s))).lv.badVec (vkey s k r) 128).any fun b => decide (b ≠ 0)) = false := by
      have : (issued k (adv k (vput k r ws s))).lv.badVec = tclear s.lv.badVec (vkey s k r) 128 := by rw [issued_eq]; rfl
      rw [this, tread_default _ _ _ fun i h1 h2 => tget_tclear_in _ ⟨h1, h2⟩]
      simp
    have hv : tread (issued k (adv k (vput k r ws s))).lv.vregs (vkey s k r) 128 = ws := by
      have h1 : (issued k (adv k (vput k r ws s))).lv.vregs = twrite s.lv.vregs (vkey s k r) ws := by rw [issued_eq]; rfl
      have h2 := tread_twrite ws s.lv.vregs (vkey s k r)
      rw [hl] at h2
      rw [h1, h2]
    rw [vread, hk, hn, if_neg (by omega), if_neg (by rw [hb]; exact Bool.false_ne_true), hv]
  · intro x hx
    rw [issued_eq]
    simp only [adv, modTh_lv_vregs, vput]
    exact tget_twrite_out _ _ (by omega)
  · unfold Claims.OnlyLeaf
    rw [issued_eq]
    have : (progress (k / 64) (adv k (vput k r ws s))).jobs = (progress (k / 64) s).jobs := by
      show (progress (k / 64) { s with lv := _ }).jobs = _
      rw [progress_lvSet]
    rw [this]
    rfl
  · rw [issued_eq]; rfl
  · intro j hj; rw [hth, if_neg hj]
  · rw [hth, if_pos rfl]
  · intro l hl; rw [getLeaf_issued, if_neg hl]; rfl
  · rw [getLeaf_issued, if_pos rfl]; rfl

end Sys2Proof.Machine
end

