-- ==== Sys2Proof/Tests/Slice0.lean ====
section
/-! SUPPORT. Tests of the model on small states, with expected results from the spec, and for every statement with hypotheses a
state and operands that meet all of them together. -/

set_option Elab.async false

namespace Sys2Proof.Tests

open Sys2Proof.Machine Sys2Proof.Claims

/-! ### A small state: leaf 0 in estate 0, which runs a job of G0; thread 0 runs at pc 0 -/

/-- A guest's grant: granules 8 to 11, and pool granule 12; queue block 0, and pool block 1. -/
def grant0 : Grant :=
  { caddyRead := true, leaves := 4, cg := 1, estates := 2, ways := 0xFF, ranges := 3, qblocks := [⟨0, false⟩, ⟨1, true⟩],
    dram := [⟨8, 4, false⟩, ⟨12, 1, true⟩] }

/-- The secure party's grant: granules 20 and 21, and queue block 2. -/
def grantS : Grant :=
  { caddyRead := true, leaves := 2, cg := 1, estates := 1, ways := 0xFF, ranges := 0xF0, qblocks := [⟨2, false⟩], dram := [⟨4, 2, false⟩] }

/-- `n` bytes with fields of `w` bytes at offset `o`, the others 0. -/
def bytesOf (n : Nat) (fs : List (Nat × Nat × Nat)) : List Byte :=
  fs.foldl (fun b f => b.take f.1 ++ leBytes f.2.1 f.2.2 ++ b.drop (f.1 + f.2.1)) (List.replicate n 0)

/-- A template of one station with two threads (Tables 5.11 and 5.12). -/
def img1 : List Byte :=
  bytesOf 180 [(0, 4, 0x4E545A31), (4, 2, 4), (6, 2, 1), (8, 2, 1), (10, 2, 1), (16, 8, 1000), (40, 2, 1), (48, 4, 128), (52, 4, 176),
    (56, 4, 176), (60, 4, 176), (64, 4, 176), (68, 4, 4), (72, 4, 180), (144, 2, 1), (148, 1, 2), (149, 1, 4), (150, 1, 1), (152, 4, 1), (160, 4, 4)]

/-- A submission record of template 1 with completion queue 4 (Table 5.16). -/
def rec1 : List Byte := bytesOf 64 [(0, 2, 1), (4, 4, 4), (8, 8, 9)]

/-- A job of G0 on leaf 0. -/
def job0 : Job := { record := rec1,  party := 0, phase := .running, durTclk := 1000, div := 8, insts := [{ leaf := 0 }] }

/-- Thread 0 of leaf 0: it owns four vector registers and tile 0. -/
def thread0 : Thread := { mode := .running, bound := true, nv := 4, accs := 1, regs := [(1, 256#32), (2, 3#32), (3, 0x80000001#32)] }

/-- The part after bring-up. -/
def up : State :=
  { State.reset with
    ktime := 1000000, pw := { supplied := true }, boot := { phase := 9, ready := true }
    field := { linkUp := true, vbat := 1200, park := false }
    party := [(0, { grant := grant0 }), (16, { grant := grantS })]
    lv := { leaf := [(0, { kind := .enabled, segs := (List.range 8).map fun i => (i, .on) }),
                     (1, { kind := .enabled, segs := (List.range 8).map fun i => (i, .on) })], threads := [(0, thread0)] }
    jobs := { tmpls := [{ party := 0, handle := 1, image := img1 }]
              est := [(0, { live := true, party := 0, desc := { leaves := 1, cg := 1 }, leaves := [0], job := some job0 })] } }

/-- Thread 0 of leaf 0. -/
def th0 : Thr := ⟨0, 0⟩

/-- A message of `p` with this payload, as Table 12.1 lays it out. -/
def msg (p : Party) (bs : List Byte) : Msg :=
  { sender := p, length := BitVec.ofNat 16 bs.length, status := 0, flags := 0, afi := 0x0400#16
    tag := 7#64, detail := 0, rsv := 0, payload := bs }

/-- The mailbox of party `p` has rung, and it is next. -/
def rings (p : Nat) (s : State) : State :=
  { (modParty s p fun x => { x with busy := true, rung := true }) with firm := { s.firm with turn := if p = 17 then 0 else if p = 16 then 1 else 2 } }

/-- Vector registers 0 to 2 of leaf 0 hold values. -/
def upV : State :=
  { up with lv := { up.lv with vregs := [(0, 0x3F800000#32), (1, 0xC0000000#32), (2, 0x7FFFFFFF#32), (127, 5#32), (128, 0x40400000#32),
                                         (129, 0x80000000#32), (130, 0xFF#32), (256, 0x7F800000#32), (257, 1#32)]
                               acc := [(0, 1#32), (129, 2#32)] } }

/-- The lanes of vector register `r` of leaf 0 in `upV`. -/
def lanes (r : Nat) : List Word := tread upV.lv.vregs (r * 128) 128

/-- Bytes 0x100 to 0x1FF of leaf 0's scratchpad hold values. -/
def upR : State := memWrite up 0x1000000100 ((List.range 8).map fun i => BitVec.ofNat 8 (i * 37 + 1))

/-- Queue 5 is a RECORD queue and queue 6 a TILE queue between station 0 and itself, with an entry each; queue 7 is full. -/
def upQ : State :=
  { up with queue := [(4, { bound := true, base := 0x20000000, lg := 3, esize := 2, kind := 2, prod := 3, cons := 1 }),
                      (5, { bound := true, base := 0x20001000, lg := 2, esize := 1, kind := 1, owner := 1, tail := 2, head := 1, retire := 1 }),
                      (6, { bound := true, base := 0x20002000, lg := 2, kind := 0, owner := 1, tail := 3, head := 2, tbase := 0x20003000, stride := 256 }),
                      (7, { bound := true, base := 0x20001800, lg := 2, esize := 1, kind := 1, owner := 1, tail := 5, head := 1, retire := 1 })]
            lv := { up.lv with leaf := [(0, { getLeaf up 0 with qmap := [(0, 6), (1, 7), (2, 8)] })] } }

/-- The pass of a graphics job on estate 0. -/
def upG (g : Gfx) : State := { upQ with media := { gfx := [(0, g)] } }

/-- Leaf 0's matrix queue holds `op`; token 3 of thread 0 is 2. -/
def withMma (op : EngOp) : State :=
  { up with lv := { up.lv with threads := [(0, { thread0 with toks := [(3, 2)] })], leaf := [(0, { getLeaf up 0 with mma := [op] })] } }

/-- Leaf 0's only DMA transfer is `o`. -/
def withDma (o : DmaOp) : State :=
  { up with mem := { up.mem with cells := twrite [] 0x20000010 [1, 2, 3] }
            lv := { up.lv with threads := [(0, { thread0 with toks := [(0, 2)] })], leaf := [(0, { getLeaf up 0 with dma := [o] })] } }

/-- A matrix operation of K = 0 in FP32 on tile 0, whose operands can be read. -/
def zeroMma : EngOp := { tok := 3, blk := bytesOf 32 [] }

theorem ok_some {α : Type} {x : Chk α} (h : (match x with | .ok _ => true | .error _ => false) = true) : ∃ u, x = .ok u := by
  cases x <;> simp_all

theorem mma_reads : ∃ u, mmaRun 0 zeroMma (withMma zeroMma) = .ok u := ok_some (by decide +kernel)

/-- Leaf 0 of `upQ` runs a single job. -/
theorem upQ_single : ∀ e j, runningJob upQ (thrKey th0 / 64) = some (e, j) → j.copy = 0 := by
  intro e j h
  rw [show runningJob upQ (thrKey th0 / 64) = some (0, job0) by decide +kernel] at h
  cases h; rfl

/-- Leaf 0's raster queue holds an operation of thread 0. -/
def withRaster : State :=
  { up with lv := { up.lv with threads := [(0, { thread0 with toks := [(3, 2)] })], leaf := [(0, { getLeaf up 0 with raster := [zeroMma] })] } }

/-- Some bytes of DRAM of G0 hold values. -/
def upD : State := memWrite up 0x20001000 [1, 2, 3, 4, 5, 6, 7, 8, 9, 10]

/-- Queue 9 is a RECORD queue of software, queue 3 a SUBMIT queue and queue 4 a COMPLETE queue of G0, which waits in Hush. -/
def upS : State :=
  { up with pw := { up.pw with st := .hush }
            queue := [(3, { bound := true, base := 0x20004000, lg := 3, esize := 2, kind := 2, prod := 1, cons := 3 }),
                      (4, { bound := true, base := 0x20000000, lg := 3, esize := 1, kind := 3, prod := 3, cons := 1 }),
                      (9, { bound := true, base := 0x20005000, lg := 2, esize := 1, kind := 1, prod := 1, cons := 3 })] }

/-- Queue 3 holds a submission record. -/
def taking (r : List Byte) : State := memWrite { (modQ upS 3 fun q => { q with tail := 1, ann := [5] }) with pw := up.pw } 0x20004000 r

/-- A record of queue 3 waits for estate 0, which rests. -/
def waitingRec : State :=
  { upS with pw := up.pw, jobs := { up.jobs with waiting := [{ qid := 3, record := rec1 }], est := [(0, { getEst up 0 with job := none })] } }

/-- A job whose images are being poured on leaf 0. -/
def pourJob : Job := { job0 with phase := .pouring, loading := [0], image := 1 }

/-- Leaf 0 has these Pour fields while estate 0 pours. -/
def pouringJob (l : Leaf) : State :=
  modLeaf (modJob up 0 fun _ => pourJob) 0 fun x => { x with attempt := l.attempt, missed := l.missed, missedN := l.missedN }

/-- Estates 0 and 1 of G0 are a pair that runs a dual job, whose copy A has reported a checkpoint. -/
def pairUp : State :=
  { up with jobs := { up.jobs with pairs := [{ primary := 0, partner := 1, window := 100 }]
                                   reports := [{ primary := 0, copy := 1, ckpt := 4, at_ := 5 }]
                                   est := [(0, { getEst up 0 with job := some { job0 with copy := 1, twin := 1 } }),
                                           (1, { getEst up 0 with leaves := [1], job := some { job0 with copy := 2, twin := 0, insts := [{ leaf := 1 }] } })] } }

/-- No party has work, and both have voted for Doze. -/
def idleVoted : State :=
  { up with jobs := {}, party := [(0, { grant := grant0, voted := true, vote := 2 }), (16, { grant := grantS, voted := true, vote := 2 })] }

theorem up_cool : ∀ t, up.pw.hotSince = some t → 100000 ≤ ktSince up t := fun _ h => nomatch (show none = some _ from h)

theorem none_all {α : Type} {P : α → Prop} {x : Option α} (h : x.isNone = true) : ∀ j, x = some j → P j := by
  intro j hj; rw [hj] at h; cases h

theorem one_all {α : Type} {P : α → Prop} {x : Option α} {a : α} (h : x = some a) (p : P a) : ∀ j, x = some j → P j := by
  intro j hj; rw [h] at hj; cases hj; exact p

theorem pair_ok {α β : Type} {x : α × β} {b : β} (h : x.2 = b) : x = (x.1, b) := by rw [← h]

theorem tri_ok {α β γ : Type} {x : α × β × γ} {b : β} (h : x.2.1 = b) : x = (x.1, b, x.2.2) := by rw [← h]

/-! ### Ill-formed commands, one for each check of `Instr.wf` -/

/-- A predicate number above 7 (Table 5.8), and an LLI immediate of 16 bits. -/
theorem test_wf_refuses_operands :
    (Instr.peq th0 8 1 2).wf = false ∧ (Instr.pne th0 16 1 2).wf = false ∧ (Instr.plt th0 31 1 2).wf = false ∧ (Instr.pltu th0 9 1 2).wf = false ∧
    (Instr.lli th0 1 0x8000).wf = false := by decide

/-- An odd register pair (R154, R156). -/
theorem test_wf_refuses_odd_pairs :
    (Instr.ld th0 3 1 0).wf = false ∧ (Instr.sd th0 5 1 0).wf = false ∧ (Instr.lwx th0 2 1 0).wf = false ∧ (Instr.swx th0 2 7 0).wf = false ∧
    (Instr.qwait th0 1 2 3).wf = false := by decide

/-- A rounding mode on an integer vector operation (Table 5.8). -/
theorem test_wf_refuses_rounding :
    (Instr.viadd th0 1 2 3 1).wf = false ∧ (Instr.visub th0 1 2 3 2).wf = false ∧ (Instr.vimul th0 1 2 3 1).wf = false ∧
    (Instr.viadds th0 1 2 3 3).wf = false ∧ (Instr.visubs th0 1 2 3 1).wf = false ∧ (Instr.vsll th0 1 2 3 1).wf = false ∧
    (Instr.vsrl th0 1 2 3 2).wf = false ∧ (Instr.vsra th0 1 2 3 1).wf = false := by decide

/-- A reserved vector format, and reserved fields of VLDA and VSTA (R157). -/
theorem test_wf_refuses_formats :
    (Instr.vldr th0 1 2 3 14 false 0).wf = false ∧ (Instr.vstr th0 1 2 3 15 false 0).wf = false ∧ (Instr.vldc th0 1 2 3 2 false 0).wf = false ∧
    (Instr.vstc th0 1 2 3 2 false 0).wf = false ∧ (Instr.vlda th0 1 2 3 0 false 0).wf = false ∧ (Instr.vlda th0 1 2 0 1 false 0).wf = false ∧
    (Instr.vsta th0 1 2 0 0 true 0).wf = false ∧ (Instr.vsta th0 1 2 0 0 false 1).wf = false := by decide

/-- A bus transaction that is empty, crosses a line, or carries too few bytes (R31, R79). -/
theorem test_wf_refuses_accesses :
    (Instr.targetAccess { ini := .leaf 0, write := false, posted := false, addr := 0, len := 0, data := [] }).wf = false ∧
    (Instr.targetAccess { ini := .leaf 0, write := false, posted := false, addr := 60, len := 8, data := [] }).wf = false ∧
    (Instr.targetAccess { ini := .leaf 0, write := true, posted := false, addr := 0, len := 4, data := [1] }).wf = false := by decide

/-! ### Values that the spec states -/

/-- With no command waiting, the part idles. -/
theorem test_reset_idle : (match step State.reset with | .next t => t.pending | _ => []) = [] := by decide

/-- The worked example of Table 4.3. -/
theorem test_mxfp8_entry :
    (applyGroups 0#32
      [([(e4m3.decode 0x7E, e4m3.decode 0x7E), (e4m3.decode 0xC5, e4m3.decode 0x3C), (e4m3.decode 0x01, e4m3.decode 0x01)], 1),
       ([(e4m3.decode 0x38, e4m3.decode 0x58), (e4m3.decode 0x30, e4m3.decode 0x30)], -10)]).1 = 0x48C3FEC9#32 := by decide +kernel

/-- The four rates of R470. -/
theorem test_can_timing :
    canNominal 0 10 = some (125, 160) ∧ canNominal 0 500 = some (4, 100) ∧ canData 1 8000 = some (1, 25) ∧ canData 2 20000 = some (1, 10) := by
  decide +kernel

/-- Texel (77, 45) of chapter 9's example lies at offset 0x2_23D4. -/
theorem test_texel : swizzle 4 1000 77 45 = 0x223D4 := by decide

/-- Leaf 115's scratchpad starts at 0x10_0E60_0000 (scope, example). -/
theorem test_scratchpad_base : spBase 115 = 0x100E600000 := by decide

/-- The word of ADDI r5, r6, −1, bit by bit from Table 5.6, and its encoding. -/
theorem test_addi_word : encodeStation (.addi th0 5 6 0xFFF) = some 0b0001_000000_00101_00110_111111111111#32 := by decide

/-- A reserved major opcode decodes to nothing (R152). -/
theorem test_reserved_word : decodeStation th0 0b1111_000000_00000_00000_00000_0000000#32 = none := by decide


/-! ### For every statement with hypotheses, a state and operands that meet them together -/

theorem wit_IdleTick : up.pending = [] ∧ up.boot.resetting = none ∧ jobOf up 0 = some job0 ∧ clocked up = true :=
  ⟨rfl, by decide +kernel⟩

theorem wit_MemoryStaysCanonical : ∃ s t : State, Memory.wf s = true ∧ s.pending ≠ [] ∧ step s = .next t :=
  ⟨{ upD with pending := [.pgoodSample false] }, _, by decide +kernel, by simp, rfl⟩

theorem wit_StationRoundTripPart : ∃ (i : Instr) (x : Word),
    i.wf = true ∧
    encodeStation i = some x :=
  ⟨.qtry th0 1 2 0x81 6, 0b1001_000010_00001_00010_10000001_110_0#32, by decide +kernel⟩

theorem wit_StationWordsUnique : ∃ (w : Thr) (x : Word) (i : Instr),
    decodeStation w x = some i :=
  ⟨th0, 0b1001_000010_00001_00010_10000001_110_0#32, .qtry th0 1 2 0x81 6, by decide +kernel⟩

theorem wit_ScalarRegisterForms : ∃ x ∈ rrForms, ∃ (w : Thr) (rs1 : BitVec 5) (rs2 : BitVec 5) (s : State) (a : Word) (b : Word),
    CanIssue w s ∧
    Reads w s rs1 a ∧
    Reads w s rs2 b :=
  ⟨(.add, fun a b => a + b), by simp [rrForms], th0, 1, 3, up, 256#32, 0x80000001#32, by decide +kernel⟩

theorem wit_ScalarImmediateForms :
    (∃ x ∈ riForms, ∃ (w : Thr) (rs1 : BitVec 5) (s : State) (a : Word),
    CanIssue w s ∧
    Reads w s rs1 a) ∧
    (∃ (w : Thr) (s : State),
    CanIssue w s) ∧
    (∃ (w : Thr) (rd : BitVec 5) (imm : BitVec 17) (s : State) (a : Word),
    CanIssue w s ∧
    Reads w s rd a ∧
    imm.toNat < 2 ^ 15) :=
  ⟨⟨(.addi, fun a b => a + b), by simp [riForms], th0, 1, up, 256#32, by decide +kernel⟩,
   ⟨th0, up, by decide +kernel⟩,
   ⟨th0, 2, 0xF0#17, up, 3#32, by decide +kernel⟩⟩

theorem wit_PredicateForms : ∃ x ∈ predForms, ∃ (w : Thr) (rd : BitVec 5) (rs1 : BitVec 5) (rs2 : BitVec 5) (s : State) (a : Word),
  ∃ (b : Word),
    CanIssue w s ∧
    Reads w s rs1 a ∧
    Reads w s rs2 b ∧
    rd.toNat < 8 :=
  ⟨(.plt, fun a b => decide (a.toInt < b.toInt)), by simp [predForms], th0, 5, 1, 3, up, 256#32, 0x80000001#32, by decide +kernel⟩

theorem wit_ControlForms :
    (∃ (w : Thr) (s : State),
    CanIssue w s) ∧
    (∃ (w : Thr) (s : State),
    CanIssue w s) ∧
    (∃ (w : Thr) (rs1 : BitVec 5) (s : State) (a : Word),
    CanIssue w s ∧
    Reads w s rs1 a) :=
  ⟨⟨th0, up, by decide +kernel⟩,
   ⟨th0, up, by decide +kernel⟩,
   ⟨th0, 1, up, 256#32, by decide +kernel⟩⟩

theorem wit_NarrowLoads :
    (∃ x ∈ loadForms, ∃ (w : Thr) (rs1 : BitVec 5) (imm : BitVec 12) (s : State) (b : Word) (bs : List Byte),
    CanIssue w s ∧
    Reads w s rs1 b ∧
    spOff b imm % x.2.1 = 0 ∧
    SpReads s (thrKey w / 64) (spOff b imm) x.2.1 bs) ∧
    (∃ (w : Thr) (rd : BitVec 5) (rs1 : BitVec 5) (imm : BitVec 12) (s : State) (b : Word) (bs : List Byte),
    CanIssue w s ∧
    Reads w s rs1 b ∧
    rd.toNat % 2 = 0 ∧
    spOff b imm % 8 = 0 ∧
    SpReads s (thrKey w / 64) (spOff b imm) 8 bs) :=
  ⟨⟨(.lw, 4, fun v => BitVec.ofNat 32 v), by simp [loadForms], th0, 1, 0#12, memWrite up 0x1000000100 [1#8, 2#8, 3#8, 4#8, 5#8], 256#32, [1#8, 2#8,
    3#8, 4#8], by decide +kernel⟩,
   ⟨th0, 6, 1, 0#12, memWrite up 0x1000000100 [1#8, 2#8, 3#8, 4#8, 5#8], 256#32, [1#8, 2#8, 3#8, 4#8, 5#8, 0#8, 0#8, 0#8], by decide +kernel⟩⟩

theorem wit_NarrowStores :
    (∃ x ∈ storeForms, ∃ (w : Thr) (rd : BitVec 5) (rs1 : BitVec 5) (imm : BitVec 12) (s : State) (b : Word) (v : Word),
    CanIssue w s ∧
    Reads w s rs1 b ∧
    Reads w s rd v ∧
    spOff b imm % x.2 = 0 ∧
    SpOpen s (thrKey w / 64) (spOff b imm) x.2) ∧
    (∃ (w : Thr) (rd : BitVec 5) (rs1 : BitVec 5) (imm : BitVec 12) (s : State) (b : Word) (lo : Word) (hi : Word),
    CanIssue w s ∧
    Reads w s rs1 b ∧
    rd.toNat % 2 = 0 ∧
    Reads w s rd lo ∧
    Reads w s (rd + 1) hi ∧
    spOff b imm % 8 = 0 ∧
    SpOpen s (thrKey w / 64) (spOff b imm) 8) :=
  ⟨⟨(.sh, 2), by simp [storeForms], th0, 3, 1, 4#12, up, 256#32, 0x80000001#32, by decide +kernel⟩,
   ⟨th0, 2, 1, 8#12, up, 256#32, 3#32, 0x80000001#32, by decide +kernel⟩⟩

/-- Registers 4 and 5 of thread 0 hold the address 0x20000100. -/
def upL : State :=
  { up with lv := { up.lv with threads := [(0, { thread0 with regs := [(2, 3#32), (4, 0x20000100#32), (5, 0#32)] })] } }

theorem wit_VectorNaN_2 : ∃ a b : Word, f32 a = .nan ∧ f32 b ≠ .nan := ⟨0x7F800001#32, 5#32, by decide +kernel⟩

theorem wit_VectorNaN_3 : ∃ a b : Word, f32 a = .nan ∧ f32 b = .nan := ⟨0x7F800001#32, 0xFF800001#32, by decide +kernel⟩

theorem wit_LongLoadsAndStores :
    (∃ (w : Thr) (rs1 : BitVec 5) (imm : BitVec 12) (s : State) (lo : Word) (hi : Word),
    CanIssue w s ∧
    rs1.toNat % 2 = 0 ∧
    Reads w s rs1 lo ∧
    Reads w s (rs1 + 1) hi ∧
    physOff lo hi imm % 4 = 0 ∧
    isOutside (physOff lo hi imm) = false) ∧
    (∃ (w : Thr) (s : State) (p : PendLoad) (bs : List Byte),
    (getTh s (thrKey w)).load = some p ∧
    p.pcie = 0 ∧
    p.tex = false ∧
    p.rd < 32 ∧
    spLeaf p.addr = some (thrKey w / 64) ∧
    (getLeaf s (thrKey w / 64)).kind = .enabled ∧
    SpReads s (thrKey w / 64) (p.addr - spBase (thrKey w / 64)) 4 bs) ∧
    (∃ (w : Thr) (s : State) (p : PendLoad),
    (getTh s (thrKey w)).load = some p ∧
    p.pcie = 0 ∧
    p.tex = false ∧
    p.rd < 32 ∧
    p.addr < 0x1000000000 ∧
    p.addr % 4 = 0 ∧
    Accepted s (leafIni (thrKey w / 64)) false p.addr 4 ∧
    LineGood s p.addr) ∧
    (∃ (w : Thr) (rd : BitVec 5) (rs1 : BitVec 5) (imm : BitVec 12) (s : State) (lo : Word) (hi : Word) (v : Word),
    CanIssue w s ∧
    rs1.toNat % 2 = 0 ∧
    Reads w s rs1 lo ∧
    Reads w s (rs1 + 1) hi ∧
    Reads w s rd v ∧
    physOff lo hi imm % 4 = 0 ∧
    physOff lo hi imm < 0x1000000000 ∧
    (∀ e j, runningJob s (thrKey w / 64) = some (e, j) → outBuffer s j (physOff lo hi imm) = none) ∧
    Accepted s (leafIni (thrKey w / 64)) true (physOff lo hi imm) 4 ∧
    LineGood s (physOff lo hi imm)) :=
  ⟨⟨th0, 4, 0xFFC#12, { up with lv := { up.lv with threads := [(0, { thread0 with regs := [(2, 3#32), (4, 0x20000100#32), (5, 0#32)] })] } },
    0x20000100#32, 0#32, by decide +kernel⟩,
   ⟨th0, memWrite ({ up with lv := { up.lv with threads := [(0, { thread0 with load := some { rd := 6, addr := 0x1000000104 } })] } }) 0x1000000104 [1,
     2, 3, 0x84], { rd := 6, addr := 0x1000000104 }, [1, 2, 3, 0x84], by decide +kernel⟩,
   ⟨th0, memWrite ({ up with lv := { up.lv with threads := [(0, { thread0 with load := some { rd := 6, addr := 0x20000104 } })] } }) 0x20000104 [1, 2,
     3, 0x84], { rd := 6, addr := 0x20000104 }, by decide +kernel⟩,
   ⟨th0, 2, 4, 0xFFC#12, upL, 0x20000100#32, 0#32, 3#32, by decide +kernel, by decide +kernel, by decide +kernel, by decide +kernel,
     by decide +kernel, by decide +kernel, by decide +kernel,
    fun e j h => by rw [show runningJob upL (thrKey th0 / 64) = some (0, job0) by decide +kernel] at h; cases h; decide +kernel, by decide +kernel⟩⟩

theorem wit_ProgramFaults :
    (∃ (w : Thr) (rs1 : BitVec 5) (imm : BitVec 12) (s : State) (b : Word) (e : Nat),
    CanIssue w s ∧
    Reads w s rs1 b ∧
    spOff b imm % 4 ≠ 0 ∧
    estOf s (thrKey w / 64) = some e) ∧
    (∃ (w : Thr) (rd : BitVec 5) (rs1 : BitVec 5) (imm : BitVec 12) (s : State) (b : Word) (v : Word) (e : Nat),
    CanIssue w s ∧
    Reads w s rs1 b ∧
    Reads w s rd v ∧
    spOff b imm % 4 = 0 ∧
    0x200000 < spOff b imm + 4 ∧
    estOf s (thrKey w / 64) = some e) ∧
    (∃ (w : Thr) (rs1 : BitVec 5) (s : State) (e : Nat),
    CanIssue w s ∧
    (getTh s (thrKey w)).nv ≤ rs1.toNat ∧
    estOf s (thrKey w / 64) = some e) ∧
    (∃ (w : Thr) (a : Bool) (s : State) (e : Nat),
    CanIssue w s ∧
    ownsTile s (thrKey w) a = false ∧
    estOf s (thrKey w / 64) = some e) :=
  ⟨⟨th0, 1, 2#12, up, 256#32, 0, by decide +kernel⟩,
   ⟨th0, 3, 1, 0x700#12, setReg 0 1 0x1FFF00 up, 0x1FFF00#32, 0x80000001#32, 0, by decide +kernel⟩,
   ⟨th0, 4, up, 0, by decide +kernel⟩,
   ⟨th0, true, up, 0, by decide +kernel⟩⟩

theorem wit_VectorElementwise :
    (∃ x ∈ vecFloatForms, ∃ (w : Thr) (vd : BitVec 5) (va : BitVec 5) (vb : BitVec 5) (s : State) (a : List Word) (b : List Word),
    CanIssue w s ∧
    OwnsVec w s vd ∧
    VReads w s va a ∧
    VReads w s vb b) ∧
    (∃ (w : Thr) (vd : BitVec 5) (va : BitVec 5) (vb : BitVec 5) (s : State) (a : List Word) (b : List Word) (d : List Word),
    CanIssue w s ∧
    VReads w s vd d ∧
    VReads w s va a ∧
    VReads w s vb b) ∧
    (∃ x ∈ vecIntForms, ∃ (w : Thr) (vd : BitVec 5) (va : BitVec 5) (vb : BitVec 5) (s : State) (a : List Word) (b : List Word),
    CanIssue w s ∧
    OwnsVec w s vd ∧
    VReads w s va a ∧
    VReads w s vb b) :=
  ⟨⟨(.vadd, fadd), by simp [vecFloatForms], th0, 3, 0, 1, upV, lanes 0, lanes 1, by decide +kernel⟩,
   ⟨th0, 3, 0, 1, upV, lanes 0, lanes 1, lanes 3, by decide +kernel⟩,
   ⟨(.viadds, fun a b => clamp32 (a.toInt + b.toInt)), by simp [vecIntForms], th0, 3, 0, 1, upV, lanes 0, lanes 1, by decide +kernel⟩⟩

theorem wit_VectorMovesAndReductions :
    (∃ x ∈ sfuForms, ∃ (w : Thr) (vd : BitVec 5) (va : BitVec 5) (s : State) (a : List Word),
    CanIssue w s ∧
    OwnsVec w s vd ∧
    VReads w s va a) ∧
    (∃ (w : Thr) (vd : BitVec 5) (va : BitVec 5) (s : State) (a : List Word) (d : List Word),
    CanIssue w s ∧
    VReads w s vd d ∧
    VReads w s va a) ∧
    (∃ (w : Thr) (vd : BitVec 5) (va : BitVec 5) (s : State) (a : List Word) (d : List Word),
    CanIssue w s ∧
    VReads w s vd d ∧
    VReads w s va a) ∧
    (∃ (w : Thr) (vd : BitVec 5) (rs1 : BitVec 5) (s : State) (a : Word),
    CanIssue w s ∧
    OwnsVec w s vd ∧
    Reads w s rs1 a) ∧
    (∃ (w : Thr) (va : BitVec 5) (s : State) (a : List Word),
    CanIssue w s ∧
    VReads w s va a) :=
  ⟨⟨(.srcp, srcpOf), by simp [sfuForms], th0, 3, 0, upV, lanes 0, by decide +kernel⟩,
   ⟨th0, 2, 0, upV, lanes 0, lanes 2, by decide +kernel⟩,
   ⟨th0, 2, 0, upV, lanes 0, lanes 2, by decide +kernel⟩,
   ⟨th0, 3, 1, upV, 256#32, by decide +kernel⟩,
   ⟨th0, 0, upV, lanes 0, by decide +kernel⟩⟩

theorem wit_SpecialFunctionValues :
    (∃ x ∈ sfuForms, ∃ (v : Word),
    f32 v = .nan) ∧
    (∃ (v : Word),
    v.toInt < 0 ∧
    v ≠ 0x80000000#32 ∧
    (f32 v).isNan = false) ∧
    (∃ (v : Word),
    0x43000000 ≤ v.toNat ∧
    v.toNat ≤ 0x7F800000) ∧
    (∃ (v : Word),
    0xC2FC0000 < v.toNat ∧
    v.toNat ≤ 0xFF800000) ∧
    (∃ (v : Word),
    0x47800000 < v.toNat % 2 ^ 31 ∧
    v.toNat % 2 ^ 31 ≤ 0x7F800000) :=
  ⟨⟨(.srcp, srcpOf), by simp [sfuForms], 0x7F800001#32, by decide +kernel⟩,
   ⟨0xBF800000#32, by decide +kernel⟩,
   ⟨0x43000000#32, by decide +kernel⟩,
   ⟨0xC2FC0001#32, by decide +kernel⟩,
   ⟨0x4B000000#32, by decide +kernel⟩⟩

theorem wit_VectorNaN : ∃ (a : Word) (b : Word),
    (f32 a = .nan ∨ f32 b = .nan) :=
  ⟨0x7FC00000#32, 0x3F800000#32, by decide +kernel⟩

theorem wit_VectorLoads :
    (∃ (w : Thr) (vr : BitVec 5) (rs1 : BitVec 5) (fmt : BitVec 4) (s : State) (a : Word) (bs : List Byte),
    CanIssue w s ∧
    OwnsVec w s vr ∧
    fmt.toNat < 14 ∧
    fmtMx fmt.toNat = false ∧
    Reads w s rs1 a ∧
    a.toNat % rowAlign fmt.toNat = 0 ∧
    SpReads s (thrKey w / 64) a.toNat (rowBytes fmt.toNat) bs) ∧
    (∃ (w : Thr) (vr : BitVec 5) (rs1 : BitVec 5) (rs2 : BitVec 5) (fmt : BitVec 4) (s : State) (a : Word) (c : Word),
      ∃ (bs : List Byte) (sc : List Byte),
    CanIssue w s ∧
    OwnsVec w s vr ∧
    fmtMx fmt.toNat = true ∧
    Reads w s rs1 a ∧
    Reads w s rs2 c ∧
    a.toNat % rowAlign fmt.toNat = 0 ∧
    SpReads s (thrKey w / 64) a.toNat (rowBytes fmt.toNat) bs ∧
    SpReads s (thrKey w / 64) c.toNat 4 sc) ∧
    (∃ (w : Thr) (vr : BitVec 5) (rs1 : BitVec 5) (rs2 : BitVec 5) (fmt : BitVec 4) (s : State) (a : Word) (d : Word),
      ∃ (lo : Nat → List Byte) (hi : Nat → List Byte),
    CanIssue w s ∧
    OwnsVec w s vr ∧
    fmt.toNat < 2 ∧
    Reads w s rs1 a ∧
    Reads w s rs2 d ∧
    ColOk a d ∧
    (∀ i < 64, SpReads s (thrKey w / 64) (colOff a d i 0) 4 (lo i) ∧ SpReads s (thrKey w / 64) (colOff a d i 1) 4 (hi i))) ∧
    (∃ (w : Thr) (vr : BitVec 5) (rs1 : BitVec 5) (s : State) (a : Word) (ws : List Word),
    CanIssue w s ∧
    OwnsVec w s vr ∧
    Reads w s rs1 a ∧
    ownsTile s (thrKey w) (a.getLsbD 4) = true ∧
    accRead s (thrKey w / 64) (a.getLsbD 4) (a.toNat % 16 * 128) 128 = .ok ws) :=
  ⟨⟨th0, 1, 1, 5, upR, 256#32, memRead upR 0x1000000100 (rowBytes 5), by decide +kernel⟩,
   ⟨th0, 1, 1, 2, 8, upR, 256#32, 3#32, memRead upR 0x1000000100 (rowBytes 8), memRead upR 0x1000000003 4, by decide +kernel⟩,
   ⟨th0, 1, 1, 2, 1, up, 256#32, 3#32, fun _ => leBytes 4 0, fun _ => leBytes 4 0, by decide +kernel⟩,
   ⟨th0, 1, 2, upV, 3#32, tread upV.lv.acc 384 128, by decide +kernel⟩⟩

theorem wit_VectorStores :
    (∃ (w : Thr) (vr : BitVec 5) (rs1 : BitVec 5) (fmt : BitVec 4) (sat : Bool) (rm : BitVec 2) (s : State) (a : Word),
      ∃ (ws : List Word),
    CanIssue w s ∧
    VReads w s vr ws ∧
    fmt.toNat < 14 ∧
    fmtMx fmt.toNat = false ∧
    Reads w s rs1 a ∧
    a.toNat % rowAlign fmt.toNat = 0 ∧
    SpOpen s (thrKey w / 64) a.toNat (packCodes fmt.toNat (ws.map fun x => (narrow fmt.toNat (Rm.ofCode rm.toNat) sat x).1)).length) ∧
    (∃ (w : Thr) (vr : BitVec 5) (rs1 : BitVec 5) (rs2 : BitVec 5) (fmt : BitVec 4) (sat : Bool) (rm : BitVec 2) (s : State),
      ∃ (a : Word) (c : Word) (ws : List Word),
    CanIssue w s ∧
    VReads w s vr ws ∧
    fmtMx fmt.toNat = true ∧
    Reads w s rs1 a ∧
    Reads w s rs2 c ∧
    a.toNat % rowAlign fmt.toNat = 0 ∧
    SpOpen s (thrKey w / 64) a.toNat (storeCodes fmt.toNat sat (Rm.ofCode rm.toNat) ws).1.length ∧
    SpOpen s (thrKey w / 64) c.toNat (storeCodes fmt.toNat sat (Rm.ofCode rm.toNat) ws).2.length) ∧
    (∃ (w : Thr) (vr : BitVec 5) (rs1 : BitVec 5) (rs2 : BitVec 5) (fmt : BitVec 4) (s : State) (a : Word) (d : Word),
      ∃ (ws : List Word),
    CanIssue w s ∧
    VReads w s vr ws ∧
    fmt.toNat < 2 ∧
    Reads w s rs1 a ∧
    Reads w s rs2 d ∧
    ColOk a d ∧
    (∀ i < 64, SpOpen s (thrKey w / 64) (colOff a d i 0) 8)) ∧
    (∃ (w : Thr) (vr : BitVec 5) (rs1 : BitVec 5) (s : State) (a : Word) (ws : List Word),
    CanIssue w s ∧
    VReads w s vr ws ∧
    Reads w s rs1 a ∧
    ownsTile s (thrKey w) (a.getLsbD 4) = true) :=
  ⟨⟨th0, 3, 1, 5, true, 0, upV, 256#32, lanes 3, by decide +kernel⟩,
   ⟨th0, 3, 1, 2, 8, true, 0, upV, 256#32, 3#32, lanes 3, by decide +kernel⟩,
   ⟨th0, 0, 1, 2, 1, upV, 256#32, 3#32, lanes 0, by decide +kernel⟩,
   ⟨th0, 0, 2, upV, 3#32, lanes 0, by decide +kernel⟩⟩

theorem wit_MatrixEntries_2_2 : ∃ (ps : List (FVal × FVal)) (n : Bool), (∀ p ∈ ps, FVal.mul p.1 p.2 ≠ .nan) ∧
    (∃ p ∈ ps, FVal.mul p.1 p.2 = .inf n) ∧ ∀ p ∈ ps, FVal.mul p.1 p.2 ≠ .inf !n :=
  ⟨[(.inf true, .fin false 1 0)], true, by decide +kernel⟩

theorem wit_EngineIssue :
    (∃ (w : Thr) (rs1 : BitVec 5) (tok : BitVec 4) (a : Bool) (s : State) (b : List Byte),
    CanIssue w s ∧
    ownsTile s (thrKey w) a = true ∧
    Block w s rs1 32 b ∧
    mmaChk b = .ok () ∧
    (getLeaf s (thrKey w / 64)).mma.length < 8 ∧
    tget (getTh s (thrKey w)).toks tok.toNat < 255) ∧
    (∃ (w : Thr) (rs1 : BitVec 5) (tok : BitVec 4) (a : Bool) (s : State) (b : List Byte),
    CanIssue w s ∧
    ownsTile s (thrKey w) a = true ∧
    Block w s rs1 16 b ∧
    drainChk b ((getLeaf s (thrKey w / 64)).ttype / 2 ^ b2n a % 2) = .ok () ∧
    tget (getTh s (thrKey w)).toks tok.toNat < 255) ∧
    (∃ (w : Thr) (rs1 : BitVec 5) (s : State) (d : List Byte) (free : Nat),
    CanIssue w s ∧
    Block w s rs1 32 d ∧
    dmaChk (thrKey w / 64) d = .ok () ∧
    tget (getTh s (thrKey w)).toks (dTok d) < 255 ∧
    free < 16 ∧
    (∀ o ∈ (getLeaf s (thrKey w / 64)).dma, o.slot ≠ free) ∧
    (∀ i < free, ∃ o ∈ (getLeaf s (thrKey w / 64)).dma, o.slot = i)) ∧
    (∃ (w : Thr) (a : Bool) (s : State),
    CanIssue w s ∧
    ownsTile s (thrKey w) a = true) :=
  ⟨⟨th0, 1, 3, false, memWrite up 0x1000000100 (bytesOf 32 [(2, 2, 1), (6, 2, 4), (8, 2, 0x0202)]), bytesOf 32 [(2, 2, 1), (6, 2, 4), (8, 2, 0x0202)],
    by decide +kernel, by decide +kernel, ⟨256#32, by decide +kernel⟩, by decide +kernel⟩,
   ⟨th0, 1, 3, false, memWrite up 0x1000000100 (bytesOf 16 [(2, 2, 1), (4, 1, 1)]), bytesOf 16 [(2, 2, 1), (4, 1, 1)], by decide +kernel,
     by decide +kernel, ⟨256#32, by decide +kernel⟩, by decide +kernel⟩,
   ⟨th0, 1, memWrite up 0x1000000100 (bytesOf 32 [(6, 2, 1), (8, 6, 0x1000000400), (16, 2, 64), (18, 2, 1), (28, 4, 0x01020304)]), bytesOf 32 [(6, 2,
     1), (8, 6, 0x1000000400), (16, 2, 64), (18, 2, 1), (28, 4, 0x01020304)], 0, by decide +kernel, ⟨256#32, by decide +kernel⟩, by decide +kernel⟩,
   ⟨th0, false, up, by decide +kernel⟩⟩

theorem wit_EngineCompletion :
    (∃ (leaf : Fin 168) (s : State) (u : State) (op : EngOp) (rest : List EngOp),
    (getLeaf s leaf.val).mma = op :: rest ∧
    engOn s leaf.val = true ∧
    (∀ d ∈ (getLeaf s leaf.val).drain, ¬(d.tile = op.tile ∧ d.seq < op.seq)) ∧
    op.tile < 2 ∧
    mmaRun leaf.val op s = .ok u) ∧
    (∃ (leaf : Fin 168) (s : State) (op : EngOp) (rest : List EngOp) (acc : List Word),
    (getLeaf s leaf.val).drain = op :: rest ∧
    engOn s leaf.val = true ∧
    op.tile < 2 ∧
    accRead s leaf.val (decide (op.tile = 1)) 0 2048 = .ok acc ∧
    field op.blk 4 1 ≤ 1 ∧
    1 ≤ field op.blk 2 2 ∧
    (∀ m < 32, SpOpen s leaf.val ((field op.blk 0 2 + m * field op.blk 2 2) * 256) 256)) ∧
    (∃ (leaf : Fin 168) (slot : Fin 16) (s : State) (o : DmaOp),
    (getLeaf s leaf.val).dma = [o] ∧
    o.slot = slot.val ∧
    engOn s leaf.val = true ∧
    o.pcie = 0 ∧
    o.row < dRows o.desc ∧
    o.done < dRowBytes o.desc ∧
    dOp o.desc = 1 ∧
    ownSp leaf.val (addr48 (dstRow o.desc o.row) o.done) = true ∧
    SpOpen s leaf.val (addr48 (dstRow o.desc o.row) o.done - spBase leaf.val) (pieceLen o) ∧
    (∀ x ∈ s.cross.out, dmaKey leaf.val slot.val ∉ x.waits)) ∧
    (∃ (leaf : Fin 168) (slot : Fin 16) (s : State) (o : DmaOp),
    (getLeaf s leaf.val).dma = [o] ∧
    o.slot = slot.val ∧
    engOn s leaf.val = true ∧
    o.pcie = 0 ∧
    o.row < dRows o.desc ∧
    o.done < dRowBytes o.desc ∧
    dOp o.desc = 0 ∧
    addr48 (srcRow o.desc o.row) o.done % 64 + pieceLen o ≤ 64 ∧
    addr48 (srcRow o.desc o.row) o.done < 0x1000000000 ∧
    Accepted s (leafIni leaf.val) false (addr48 (srcRow o.desc o.row) o.done) (pieceLen o) ∧
    LineGood s (addr48 (srcRow o.desc o.row) o.done) ∧
    ownSp leaf.val (addr48 (dstRow o.desc o.row) o.done) = true ∧
    SpOpen s leaf.val (addr48 (dstRow o.desc o.row) o.done - spBase leaf.val) (pieceLen o)) :=
  ⟨(match mma_reads with | ⟨u, h⟩ => ⟨0, withMma zeroMma, u, zeroMma, [], by decide +kernel, by decide +kernel, by decide +kernel, by decide +kernel,
    h⟩),
   ⟨0, { upV with lv := { upV.lv with threads := [(0, { thread0 with toks := [(3, 2)] })], leaf := [(0, { getLeaf up 0 with drain := [{ tok := 3, blk := bytesOf 16 [(0, 2, 8), (2, 2, 2), (4, 1, 1)] }] })] } },
     { tok := 3, blk := bytesOf 16 [(0, 2, 8), (2, 2, 2), (4, 1, 1)] }, [], tread upV.lv.acc 0 2048, by decide +kernel⟩,
   ⟨0, 0, withDma { desc := bytesOf 32 [(6, 2, 1), (8, 6, 0x1000000401), (16, 2, 100), (18, 2, 1), (28, 4, 0x01020304)], done := 30 },
     { desc := bytesOf 32 [(6, 2, 1), (8, 6, 0x1000000401), (16, 2, 100), (18, 2, 1), (28, 4, 0x01020304)], done := 30 }, by decide +kernel⟩,
   ⟨0, 0, withDma { desc := bytesOf 32 [(0, 6, 0x20000010), (8, 6, 0x1000000410), (16, 2, 100), (18, 2, 1)], done := 0 },
     { desc := bytesOf 32 [(0, 6, 0x20000010), (8, 6, 0x1000000410), (16, 2, 100), (18, 2, 1)], done := 0 }, by decide +kernel⟩⟩

theorem wit_MatrixEntries :
    (∃ (ps : List (FVal × FVal)),
    (∃ p ∈ ps, p.1 = .nan ∨ p.2 = .nan ∨ ((∃ n, p.1 = .inf n) ∧ p.2.isZero = true) ∨ (p.1.isZero = true ∧ (∃ n, p.2 = .inf n)))) ∧
    (∃ (ps : List (FVal × FVal)),
    (∀ p ∈ ps, FVal.mul p.1 p.2 ≠ .nan) ∧
    (∃ p ∈ ps, FVal.mul p.1 p.2 = .inf false) ∧
    (∃ p ∈ ps, FVal.mul p.1 p.2 = .inf true)) ∧
    (∃ (ps : List (FVal × FVal)),
    (∀ p ∈ ps, FVal.mul p.1 p.2 ≠ .nan) ∧
    (∀ p ∈ ps, ∀ n, FVal.mul p.1 p.2 ≠ .inf n)) ∧
    (∃ (b : List Byte) (sa : List (List Byte)) (sb : List (List Byte)) (m : Nat) (n : Nat) (g : Nat),
    fmtMx (field b 8 1) = true ∧
    bitOf (field b 10 1) 0 = false ∧
    g * 32 < field b 6 2 ∧
    (field (sa.getD (g / 8) []) (g % 8 * 32 + m) 1 = 255 ∨ field (sb.getD (g / 4) []) (g % 4 * 64 + n) 1 = 255)) ∧
    (∃ (acc : Word),
    f32 acc = .nan) ∧
    (∃ (acc : Word),
    (f32 acc).isNan = false) ∧
    (∃ (acc : Word) (p : FVal),
    f32 (applyGroup acc p).1 = .nan) ∧
    (∃ (gs : List (List (FVal × FVal) × Int)),
    gs ≠ []) ∧
    (∃ (b : List Byte),
    field b 8 1 = 2 ∧
    field b 9 1 = 2 ∧
    bitOf (field b 10 1) 0 = false) :=
  ⟨⟨[(.nan, .fin false 1 0)], by decide +kernel⟩,
   ⟨[(.inf false, .fin false 1 0), (.inf true, .fin false 1 0)], by decide +kernel⟩,
   ⟨[(.fin false 1 0, .fin false 1 0)], by decide +kernel, by simp [FVal.mul]⟩,
   ⟨bytesOf 32 [(6, 2, 32), (8, 2, 0x0808)], [[255#8]], [], 0, 0, 0, by decide +kernel⟩,
   ⟨0x7FC00001#32, by decide +kernel⟩,
   ⟨1#32, by decide +kernel⟩,
   ⟨0x7FC00000#32, .fin false 1 0, by decide +kernel⟩,
   ⟨[([], 0)], by decide +kernel⟩,
   ⟨bytesOf 32 [(6, 2, 4), (8, 2, 0x0202)], by decide +kernel⟩⟩

theorem wit_QueuePushAndPop :
    (∃ (w : Thr) (rs1 : BitVec 5) (rs2 : BitVec 5) (qn : BitVec 8) (s : State) (q : Nat) (a : Word) (bs : List Byte),
    CanIssue w s ∧
    LocalQ w s rs2 qn q ∧
    Reads w s rs1 a ∧
    isProducer s (thrKey w) q = true ∧
    a.toNat % (getQ s q).esz = 0 ∧
    SpReads s (thrKey w / 64) a.toNat (getQ s q).esz bs ∧
    idleTh s (thrKey w) = true ∧
    (getQ s q).full = false ∧
    (∀ e j, runningJob s (thrKey w / 64) = some (e, j) → j.copy = 0) ∧
    (getTh s (thrKey w)).heldPush = none ∧
    PlaceOpen s ((getQ s q).base + (getQ s q).tail % 2 ^ (getQ s q).lg * (getQ s q).esz) (getQ s q).esz) ∧
    (∃ (w : Thr) (rs1 : BitVec 5) (rs2 : BitVec 5) (qn : BitVec 8) (s : State) (q : Nat) (a : Word) (bs : List Byte),
    CanIssue w s ∧
    LocalQ w s rs2 qn q ∧
    Reads w s rs1 a ∧
    isProducer s (thrKey w) q = true ∧
    a.toNat % (getQ s q).esz = 0 ∧
    SpReads s (thrKey w / 64) a.toNat (getQ s q).esz bs ∧
    (getQ s q).full = true ∧
    (∀ e j, runningJob s (thrKey w / 64) = some (e, j) → j.copy = 0)) ∧
    (∃ (w : Thr) (rs1 : BitVec 5) (rs2 : BitVec 5) (qn : BitVec 8) (s : State) (q : Nat) (a : Word),
    CanIssue w s ∧
    LocalQ w s rs2 qn q ∧
    Reads w s rs1 a ∧
    isConsumer s (thrKey w) q = true ∧
    a.toNat % (getQ s q).esz = 0 ∧
    SpOpen s (thrKey w / 64) a.toNat (getQ s q).esz ∧
    idleTh s (thrKey w) = true) ∧
    (∃ (w : Thr) (rs1 : BitVec 5) (rs2 : BitVec 5) (qn : BitVec 8) (s : State) (q : Nat) (a : Word),
    CanIssue w s ∧
    LocalQ w s rs2 qn q ∧
    Reads w s rs1 a ∧
    isConsumer s (thrKey w) q = true ∧
    a.toNat % (getQ s q).esz = 0 ∧
    SpOpen s (thrKey w / 64) a.toNat (getQ s q).esz ∧
    idleTh s (thrKey w) = true) :=
  ⟨⟨th0, 1, 0, 0, upQ, 5, 256#32, List.replicate 32 0, by decide +kernel, by decide +kernel, by decide +kernel, by decide +kernel, by decide +kernel,
    by decide +kernel, by decide +kernel, by decide +kernel, upQ_single, by decide +kernel⟩,
   ⟨th0, 1, 0, 2, upQ, 7, 256#32, List.replicate 32 0, by decide +kernel, by decide +kernel, by decide +kernel, by decide +kernel, by decide +kernel,
     by decide +kernel, by decide +kernel, upQ_single⟩,
   ⟨th0, 1, 0, 0, upQ, 5, 256#32, by decide +kernel⟩,
   ⟨th0, 1, 0, 0, upQ, 5, 256#32, by decide +kernel⟩⟩

theorem wit_QueueWaitRetireLength :
    (∃ (w : Thr) (rd : BitVec 5) (rs2 : BitVec 5) (qn : BitVec 8) (s : State) (q : Nat),
    CanIssue w s ∧
    LocalQ w s rs2 qn q ∧
    isProducer s (thrKey w) q = true ∧
    (getQ s q).kind = 0 ∧
    (getQ s q).full = false ∧
    rd.toNat % 2 = 0) ∧
    (∃ (w : Thr) (rs1 : BitVec 5) (rs2 : BitVec 5) (qn : BitVec 8) (s : State) (q : Nat) (a : Word),
    CanIssue w s ∧
    LocalQ w s rs2 qn q ∧
    Reads w s rs1 a ∧
    isConsumer s (thrKey w) q = true ∧
    (getQ s q).kind = 0 ∧
    1 ≤ a.toNat ∧
    a.toNat ≤ ((getQ s q).head + 2 * (getQ s q).n - (getQ s q).retire) % (2 * (getQ s q).n) ∧
    idleTh s (thrKey w) = true) ∧
    (∃ (w : Thr) (rs2 : BitVec 5) (qn : BitVec 8) (s : State) (q : Nat),
    CanIssue w s ∧
    LocalQ w s rs2 qn q ∧
    (isProducer s (thrKey w) q || isConsumer s (thrKey w) q) = true) :=
  ⟨⟨th0, 6, 0, 1, upQ, 6, by decide +kernel⟩,
   ⟨th0, 4, 0, 1, modQ (setReg 0 4 1 upQ) 6 fun q => { q with retire := 1 }, 6, 1#32, by decide +kernel⟩,
   ⟨th0, 0, 0, upQ, 5, by decide +kernel⟩⟩

theorem wit_Synchronisation :
    (∃ (w : Thr) (n : BitVec 4) (s : State),
    CanIssue w s ∧
    tget (getTh s (thrKey w)).toks n.toNat = 0) ∧
    (∃ (w : Thr) (n : BitVec 4) (s : State),
    CanIssue w s ∧
    tget (getTh s (thrKey w)).toks n.toNat ≠ 0) ∧
    (∃ (w : Thr) (s : State),
    CanIssue w s ∧
    idleTh s (thrKey w) = true ∧
    (getTh s (thrKey w)).bound = true) ∧
    (∃ (w : Thr) (s : State),
    CanIssue w s ∧
    idleTh s (thrKey w) = true) ∧
    (∃ (w : Thr) (s : State) (e : Nat) (j : Job) (k' : Nat),
    CanIssue w s ∧
    idleTh s (thrKey w) = true ∧
    runningJob s (thrKey w / 64) = some (e, j) ∧
    j.copy = 0 ∧
    k' ∈ jobThreads s j ∧
    k' ≠ thrKey w ∧
    (getTh s k').mode ≠ .halted) ∧
    (∃ (w : Thr) (s : State),
    (getTh s (thrKey w)).mode = .parity ∧
    (getTh s (thrKey w)).load = none ∧
    idleTh s (thrKey w) = true ∧
    engOn s (thrKey w / 64) = true ∧
    (getTh s (thrKey w)).badAt = none ∧
    tget s.lv.badShadow (thrKey w) = 0) :=
  ⟨⟨th0, 3, upQ, by decide +kernel⟩,
   ⟨th0, 3, modTh up 0 fun t => { t with toks := [(3, 1)] }, by decide +kernel⟩,
   ⟨th0, upQ, by decide +kernel⟩,
   ⟨th0, upQ, by decide +kernel⟩,
   ⟨th0, modTh up 1 fun t => { t with mode := .running }, 0, job0, 1, by decide +kernel⟩,
   ⟨th0, modTh up 0 fun t => { t with mode := .parity, shadow := { pc := 8 } }, by decide +kernel⟩⟩

/-- A linear texture of one RGBA8 texel. -/
def texDesc : List Byte := bytesOf 32 [(0, 6, 0x20000000), (6, 1, 3), (8, 2, 1), (10, 2, 1), (12, 2, 1), (16, 4, 256)]

/-- Its descriptor stands at 0x100 of leaf 0. -/
def upTex : State := memWrite up 0x1000000100 texDesc

/-- The lines that a sample of it reads. -/
def texRead : Moved × List (Nat × List Byte) := texLines (thrKey th0) (linesFor texDesc 0#32 (List.replicate 128 0) (List.replicate 128 0)) upTex

/-- A colour attachment. -/
def att0 : Att := { desc := texDesc, level := 0, layer := 0, load := 0, clear := [], store := true, resolve := false }

/-- A batch at 0x100 for bin 0, of one fragment. -/
def batch0 (g : Bool) (f : Frag) : FragBatch :=
  { off := 256, ring := 256, bin := 0, given := g, info := { buf := 4096, ring := 256, samples := 1, cols := [att0], depth := none }, frags := [f] }

/-- Thread 0 has claimed bin 0, for which leaf 0 holds these batches. -/
def upB (bs : List FragBatch) : State :=
  { upQ with lv := { upQ.lv with threads := [(0, { thread0 with bin := 1 })], leaf := [(0, { getLeaf upQ 0 with batches := bs })] } }

theorem wit_RasterOperations :
    (∃ x ∈ rasterForms, ∃ (w : Thr) (rs1 : BitVec 5) (tok : BitVec 4) (s : State) (a : Word) (b : List Byte),
    CanIssue w s ∧
    Reads w s rs1 a ∧
    SpReads s (thrKey w / 64) a.toNat 64 b ∧
    tget (getTh s (thrKey w)).toks tok.toNat < 255) ∧
    (∃ (w : Thr) (rs1 : BitVec 5) (tok : BitVec 4) (s : State) (a : Word) (b : List Byte) (e : Nat) (j : Job),
    CanIssue w s ∧
    runningJob s (thrKey w / 64) = some (e, j) ∧
    (getGfx s e).grow = false ∧
    (getGfx s e).render = false ∧
    Reads w s rs1 a ∧
    SpReads s (thrKey w / 64) a.toNat 64 b ∧
    tget (getTh s (thrKey w)).toks tok.toNat < 255 ∧
    (getGfx s e).used + Config.binBytes b % 2 ^ 32 ≤ (getGfx s e).cap) ∧
    (∃ (leaf : Fin 168) (s : State) (op : EngOp) (rest : List EngOp),
    (getLeaf s leaf.val).raster = op :: rest ∧
    engOn s leaf.val = true ∧
    op.tile = 0 ∨ (getTh s (leaf.val * 64 + op.thread)).bin = 0) ∧
    (∃ (leaf : Fin 168) (s : State) (u : State) (op : EngOp) (rest : List EngOp) (e : Nat) (j : Job),
    (getLeaf s leaf.val).raster = op :: rest ∧
    engOn s leaf.val = true ∧
    runningJob s leaf.val = some (e, j) ∧
    rasterRun e leaf.val op s = .ok u) :=
  ⟨⟨(.rsetup, 4), by simp [rasterForms], th0, 1, 3, upQ, 256#32, List.replicate 64 0, by decide +kernel⟩,
   ⟨th0, 1, 3, upG { cap := 0x200000000 }, 256#32, List.replicate 64 0, 0, job0, by decide +kernel, by decide +kernel, by decide +kernel,
     by decide +kernel, by decide +kernel, by decide +kernel, by decide +kernel,
     Nat.le_of_lt (Nat.lt_of_lt_of_le (Nat.lt_of_le_of_lt (by rw [show (getGfx (upG { cap := 0x200000000 }) 0).used = 0 by decide +kernel,
     Nat.zero_add]) (Nat.mod_lt _ (by decide))) (by decide +kernel))⟩,
   ⟨0, withRaster, zeroMma, [], by decide +kernel⟩,
   ⟨0, withRaster, withRaster, zeroMma, [], 0, job0, by decide +kernel, by decide +kernel, by decide +kernel, rfl⟩⟩

theorem wit_DrawsAndBins :
    (∃ (w : Thr) (s : State) (e : Nat) (j : Job),
    CanIssue w s ∧
    idleTh s (thrKey w) = true ∧
    runningJob s (thrKey w / 64) = some (e, j) ∧
    askAll s = s ∧
    (getGfx s e).ask = 0 ∧
    (getGfx s e).render = false) ∧
    (∃ (w : Thr) (s : State) (e : Nat) (j : Job),
    CanIssue w s ∧
    idleTh s (thrKey w) = true ∧
    runningJob s (thrKey w / 64) = some (e, j) ∧
    askAll s = s ∧
    (getGfx s e).ask = 0) :=
  ⟨⟨th0, upG {}, 0, job0, by decide +kernel⟩,
   ⟨th0, upG { render := true, bins := 5, claim := 4 }, 0, job0, by decide +kernel⟩⟩

theorem wit_FragmentOrder :
    (∃ (w : Thr) (rs1 : BitVec 5) (s : State) (a : Word) (y : FragBatch),
    CanIssue w s ∧
    Reads w s rs1 a ∧
    ((getLeaf s (thrKey w / 64)).batches.find? fun y => decide (y.ring = a.toNat) && decide (y.bin + 1 = (getTh s (thrKey w)).bin) && !y.given) = some y) ∧
    (∃ (w : Thr) (rs1 : BitVec 5) (s : State) (a : Word) (e : Nat) (j : Job),
    CanIssue w s ∧
    Reads w s rs1 a ∧
    ((getLeaf s (thrKey w / 64)).batches.find? fun y => decide (y.ring = a.toNat) && decide (y.bin + 1 = (getTh s (thrKey w)).bin) && !y.given) = none ∧
    runningJob s (thrKey w / 64) = some (e, j)) ∧
    (∃ (w : Thr) (vr : BitVec 5) (rs1 : BitVec 5) (s : State) (u : State) (a : Word) (ds : List Word) (y : FragBatch),
      ∃ (fs : List Frag),
    CanIssue w s ∧
    VReads w s vr ds ∧
    Reads w s rs1 a ∧
    batchAt s (thrKey w) a.toNat = some y ∧
    testBatch (thrKey w / 64) y (fun f i => if f.late then ds.getD i 0 else f.depth) s = .ok (u, fs)) ∧
    (∃ (w : Thr) (vr : BitVec 5) (rs1 : BitVec 5) (rs2 : BitVec 5) (s : State) (u : State) (q : State) (a : Word) (n : Word),
      ∃ (r : List Word) (g : List Word) (b : List Word) (al : List Word) (y : FragBatch) (x : Att × Nat) (fs : List Frag),
    CanIssue w s ∧
    vr.toNat + 4 ≤ (getTh s (thrKey w)).nv ∧
    vread s (thrKey w) vr.toNat = .ok r ∧
    vread s (thrKey w) (vr.toNat + 1) = .ok g ∧
    vread s (thrKey w) (vr.toNat + 2) = .ok b ∧
    vread s (thrKey w) (vr.toNat + 3) = .ok al ∧
    Reads w s rs1 a ∧
    Reads w s rs2 n ∧
    batchAt s (thrKey w) a.toNat = some y ∧
    (attsOf y.info)[n.toNat]? = some x ∧
    n.toNat < y.info.cols.length ∧
    (∀ f ∈ y.frags, f.live = true → writtenBefore s (thrKey w / 64) y (2 ^ n.toNat) f = true) ∧
    testBatch (thrKey w / 64) y (fun f _ => f.depth) s = .ok (u, fs) ∧
    blendLanes (thrKey w / 64) y.info y.pass n.toNat x [r, g, b, al] fs u = .ok q) ∧
    (∃ (w : Thr) (vr : BitVec 5) (rs1 : BitVec 5) (rs2 : BitVec 5) (s : State) (a : Word) (n : Word) (r : List Word),
      ∃ (g : List Word) (b : List Word) (al : List Word) (y : FragBatch) (x : Att × Nat) (f : Frag),
    CanIssue w s ∧
    vr.toNat + 4 ≤ (getTh s (thrKey w)).nv ∧
    vread s (thrKey w) vr.toNat = .ok r ∧
    vread s (thrKey w) (vr.toNat + 1) = .ok g ∧
    vread s (thrKey w) (vr.toNat + 2) = .ok b ∧
    vread s (thrKey w) (vr.toNat + 3) = .ok al ∧
    Reads w s rs1 a ∧
    Reads w s rs2 n ∧
    batchAt s (thrKey w) a.toNat = some y ∧
    (attsOf y.info)[n.toNat]? = some x ∧
    n.toNat < y.info.cols.length ∧
    f ∈ y.frags ∧
    f.live = true ∧
    writtenBefore s (thrKey w / 64) y (2 ^ n.toNat) f = false) :=
  ⟨⟨th0, 1, upB [batch0 false { pixel := 3, cover := 1, live := true }], 256#32, batch0 false { pixel := 3, cover := 1, live := true },
    by decide +kernel⟩,
   ⟨th0, 1, upB [batch0 true { pixel := 3, cover := 1, live := true }], 256#32, 0, job0, by decide +kernel⟩,
   ⟨th0, 0, 1, upB [batch0 true { pixel := 3, cover := 1, live := true }], upB [batch0 true { pixel := 3, cover := 1, live := true }], 256#32,
     List.replicate 128 0, batch0 true { pixel := 3, cover := 1, live := true }, [{ pixel := 3, cover := 1, live := true, tested := true }],
     by decide +kernel⟩,
   ⟨th0, 0, 1, 0, upB [batch0 true { pixel := 3, live := true, tested := true }], upB [batch0 true { pixel := 3, live := true, tested := true }],
     upB [batch0 true { pixel := 3, live := true, tested := true }], 256#32, 0#32, List.replicate 128 0, List.replicate 128 0, List.replicate 128 0,
     List.replicate 128 0, batch0 true { pixel := 3, live := true, tested := true }, (att0, 0), [{ pixel := 3, live := true, tested := true }],
     by decide +kernel⟩,
   ⟨th0, 0, 1, 0, upB [{ batch0 true { pixel := 3, live := true, tested := true } with off := 512 },
     batch0 true { pixel := 3, live := true, tested := true }], 256#32, 0#32, List.replicate 128 0, List.replicate 128 0, List.replicate 128 0,
     List.replicate 128 0, batch0 true { pixel := 3, live := true, tested := true }, (att0, 0), { pixel := 3, live := true, tested := true },
     by decide +kernel⟩⟩

theorem wit_TextureSamples :
    (∃ (w : Thr) (vr : BitVec 5) (rs1 : BitVec 5) (rs2 : BitVec 5) (s : State) (q : State) (a : Word) (m : Word),
      ∃ (d : List Byte) (u : List Word) (v : List Word) (ls : List (Nat × List Byte)),
    CanIssue w s ∧
    vr.toNat + 4 ≤ (getTh s (thrKey w)).nv ∧
    Reads w s rs1 a ∧
    Reads w s rs2 m ∧
    SpReads s (thrKey w / 64) a.toNat 32 d ∧
    imgOk .texture d = true ∧
    m.toNat ≤ bitsOf (field d 7 1) 7 4 ∧
    vread s (thrKey w) vr.toNat = .ok u ∧
    vread s (thrKey w) (vr.toNat + 1) = .ok v ∧
    texLines (thrKey w) (linesFor d m u v) s = (.ok q, ls) ∧
    getTh q (thrKey w) = getTh s (thrKey w)) ∧
    (∃ (k : Nat) (n : Nat) (s : State) (x : Nat × List Byte),
    ((getLeaf s (k / 64)).tex.find? fun y => decide (y.1 = n)) = some x) ∧
    (∃ (k : Nat) (n : Nat) (s : State),
    ((getLeaf s (k / 64)).tex.find? fun y => decide (y.1 = n)) = none ∧
    n * 64 < 0x1000000000 ∧
    Accepted s (leafIni (k / 64)) false (n * 64) 64 ∧
    LineGood s (n * 64)) :=
  ⟨⟨th0, 0, 1, 0, upTex, match texRead.1 with | .ok q => q | _ => up, 256#32, 0#32, texDesc, List.replicate 128 0, List.replicate 128 0, texRead.2,
    by decide +kernel⟩,
   ⟨0, 5, modLeaf up 0 fun x => { x with tex := [(5, [1])] }, (5, [1]), by decide +kernel⟩,
   ⟨0, 0x800000, up, by decide +kernel⟩⟩

theorem wit_GraphicsTimeouts :
    (∃ (e : Fin 16) (s : State) (j : Job),
    jobOf s e.val = some j ∧
    (getGfx s e.val).grow = true ∧
    (getGfx s e.val).growAt + j.gset.growUs * 100 ≤ s.ktime ∧
    (getGfx s e.val).flushedIn ≠ (getGfx s e.val).stopDraw + 1) ∧
    (∃ (e : Fin 16) (s : State) (j : Job),
    jobOf s e.val = some j ∧
    (getGfx s e.val).grow = true ∧
    (getGfx s e.val).growAt + j.gset.growUs * 100 ≤ s.ktime ∧
    (getGfx s e.val).flushedIn = (getGfx s e.val).stopDraw + 1) ∧
    (∃ (e : Fin 16) (s : State) (j : Job),
    jobOf s e.val = some j ∧
    (getGfx s e.val).ask ≠ 0 ∧
    (getGfx s e.val).askAt + (getGfx s e.val).askUs * 100 ≤ s.ktime) :=
  ⟨⟨(0 : Fin 16), upG { grow := true, used := 5, growAt := 3 }, job0, by decide +kernel⟩,
   ⟨(0 : Fin 16), upG { grow := true, used := 5, growAt := 3, flushedIn := 8, stopDraw := 7 }, job0, by decide +kernel⟩,
   ⟨(0 : Fin 16), modTh (upG { ask := 5, askAt := 0 }) 1 fun t => { t with mode := .preempted }, job0, by decide +kernel⟩⟩

/-- Estate 3 recovers. -/
def upRec : State := { up with jobs := { up.jobs with recovery := 4, est := [(3, { live := true, recovering := true, leaves := [1] })] } }
theorem upRec_replay (e x : Nat) : ∀ j, (getEst upRec x).replay = some j → e ∉ jobEsts x j := by
  refine none_all ?_
  show (tget [(3, ({ live := true, recovering := true, leaves := [1] } : Estate))] x).replay.isNone = true
  unfold tget; split <;> rfl

theorem wit_BusAccessPart :
    (∃ (s : State) (x : Access),
    x.write = false ∧
    1 ≤ x.len ∧
    x.addr.toNat % 64 + x.len ≤ 64 ∧
    x.addr.toNat < 0x1000000000 ∧
    fabricUp s = true ∧
    Accepted s x.ini false x.addr.toNat x.len ∧
    LineGood s x.addr.toNat) ∧
    (∃ (s : State) (x : Access),
    x.write = true ∧
    1 ≤ x.len ∧
    x.data.length = x.len ∧
    x.addr.toNat % 64 + x.len ≤ 64 ∧
    x.addr.toNat < 0x1000000000 ∧
    fabricUp s = true ∧
    Accepted s x.ini true x.addr.toNat x.len ∧
    LineGood s x.addr.toNat) ∧
    (∃ (s : State) (x : Access) (n : Fin 16) (p : Party) (a : Nat) (v : Verdict),
    x.ini = .core n p ∧
    1 ≤ x.len ∧
    x.len ≤ 64 ∧
    (x.write = true → x.data.length = x.len) ∧
    fabricUp s = true ∧
    s.boot.resetting = none ∧
    fabricAt s x.ini x.addr.toNat = none ∧
    firstRefused s x.ini (whoOf s x.ini) x.write x.addr.toNat x.len = some (a, v)) :=
  ⟨⟨upD, { ini := .core 1 (.g 0), write := false, posted := false, addr := 0x20001002, len := 8, data := [] }, by decide +kernel⟩,
   ⟨upD, { ini := .core 1 (.g 0), write := true, posted := false, addr := 0x20001002, len := 3, data := [1, 2, 3] }, by decide +kernel⟩,
   ⟨upD, { ini := .core 6 (.g 1), write := true, posted := false, addr := 0x20001002, len := 3, data := [1, 2, 3] }, 6, .g 1, 0x20001002, .refused,
     by decide +kernel⟩⟩

theorem wit_QueuePointerWrites :
    (∃ (b : BusAcc) (q : BitVec 18) (s : State),
    RegAccess b true (slotBase q.toNat) s ∧
    (getQ s q.toNat).tail < 2 * (getQ s q.toNat).n ∧
    (getQ s q.toNat).pushed.n ≤ statMax) ∧
    (∃ (b : BusAcc) (q : BitVec 18) (s : State),
    RegAccess b true (slotBase q.toNat + 8) s ∧
    (getQ s q.toNat).head < 2 * (getQ s q.toNat).n ∧
    (getQ s q.toNat).popped.n ≤ statMax) :=
  ⟨⟨⟨.core 5 (.g 0), 8, 0⟩, 9, upS, by decide +kernel⟩,
   ⟨⟨.core 5 (.g 0), 8, 0⟩, 4, modQ upS 4 fun q => { q with tail := 2 }, by decide +kernel⟩⟩

theorem wit_DoorbellPages :
    (∃ (b : BusAcc) (p : Party) (v : BitVec 64) (s : State),
    RegAccess b true (pageBase p) s ∧
    (getQ s (v.toNat % 2 ^ 18)).tail < 2 * (getQ s (v.toNat % 2 ^ 18)).n) ∧
    (∃ (b : BusAcc) (p : Party) (v : BitVec 64) (s : State),
    RegAccess b true (pageBase p + 8) s ∧
    v.toNat % 2 = 1 ∧
    (getParty s (pidx p)).busy = false ∧
    (pidx p = 17 ∨ (mboxAddr s (pidx p)).isSome = true) ∧
    ¬(pidx p = 16 ∧ s.world.gsClosed = true) ∧
    (s.pw.st = .doze → ∀ j < 17, (getParty s j).alarm.set = false)) ∧
    (∃ (b : BusAcc) (p : Party) (s : State),
    RegAccess b false (pageBase p + 16) s) :=
  ⟨⟨⟨.core 5 (.g 0), 8, 0⟩, .g 0, 0x100000003, upS, by decide +kernel⟩,
   ⟨⟨.core 5 (.g 0), 8, 0⟩, .g 0, 1, upS, by decide +kernel⟩,
   ⟨⟨.core 5 (.g 0), 8, 0⟩, .g 0, modParty upS 0 fun x => { x with notify := [4, 5] }, by decide +kernel⟩⟩

theorem wit_RegisterKinds :
    (∃ (b : BusAcc) (q : BitVec 18) (s : State),
    RegAccess b false (slotBase q.toNat + 0x28) s) ∧
    (∃ (b : BusAcc) (q : BitVec 18) (s : State),
    RegAccess b false (slotBase q.toNat + 0x30) s) ∧
    (∃ (b : BusAcc) (q : BitVec 18) (s : State),
    RegAccess b true (slotBase q.toNat + 0x20) s) ∧
    (∃ (b : BusAcc) (p : Party) (s : State),
    RegAccess b true (pageBase p + 0x18) s) ∧
    (∃ (b : BusAcc) (p : Party) (s : State),
    RegAccess b true (pageBase p + 0x20) s) ∧
    (∃ (b : BusAcc) (n : Fin 16) (p : Party) (s : State),
    b.ini = .core n p ∧
    b.size = 8 ∧
    b.off % 8 = 0 ∧
    fabricUp s = true ∧
    s.boot.resetting = none ∧
    fabricAt s (.core n p) 0x2300000008 = none) :=
  ⟨⟨⟨.core 5 (.g 0), 8, 0⟩, 9, modQ upS 9 fun q => { q with pushed := { n := 5, ovf := true } }, by decide +kernel⟩,
   ⟨⟨.core 5 (.g 0), 8, 0⟩, 9, modQ upS 9 fun q => { q with popped := { n := 5, ovf := true } }, by decide +kernel⟩,
   ⟨⟨.core 5 (.g 0), 8, 0⟩, 9, modQ upS 9 fun q => { q with badptr := true }, by decide +kernel⟩,
   ⟨⟨.core 5 (.g 0), 8, 0⟩, .g 0, modParty upS 0 fun x => { x with notifyOvf := true, submitErr := true }, by decide +kernel⟩,
   ⟨⟨.core 5 (.g 0), 8, 0⟩, .g 0, upS, by decide +kernel⟩,
   ⟨⟨.core 5 (.g 0), 8, 0⟩, 5, .g 0, upS, by decide +kernel⟩⟩

theorem wit_Heartbeats :
    (∃ (leaf : Fin 168) (s : State),
    (getLeaf s leaf.val).kind = .enabled ∧
    s.firm.act ≠ .open_ ∧
    s.pw.st = .run) ∧
    (∃ (leaf : Fin 168) (s : State),
    (getLeaf s leaf.val).kind = .enabled ∧
    s.firm.act ≠ .open_ ∧
    s.pw.st = .run ∧
    (getLeaf s leaf.val).misses = 0) ∧
    (∃ (leaf : Fin 168) (s : State),
    (getLeaf s leaf.val).kind = .enabled ∧
    s.firm.act ≠ .open_ ∧
    s.pw.st = .run ∧
    1 ≤ (getLeaf s leaf.val).misses ∧
    estOf s leaf.val = none) :=
  ⟨⟨1, { up with lv := { up.lv with leaf := [(1, { getLeaf up 1 with misses := 1 })] } }, by decide +kernel⟩,
   ⟨1, up, by decide +kernel⟩,
   ⟨1, { up with lv := { up.lv with leaf := [(1, { getLeaf up 1 with misses := 1 })] } }, by decide +kernel⟩⟩

theorem wit_SegmentsAndRecovery :
    (∃ (leaf : Fin 168) (seg : Fin 8) (s : State),
    tget (getLeaf s leaf.val).segs seg.val = .closing ∧
    tget (getLeaf s leaf.val).closeAt seg.val + 10000 ≤ s.ktime ∧
    segWrites s leaf.val seg.val ≠ 0) ∧
    (∃ (leaf : Fin 168) (seg : Fin 8) (s : State),
    (tget (getLeaf s leaf.val).segs seg.val = .closing ∨ tget (getLeaf s leaf.val).segs seg.val = .refusing) ∧
    segWrites s leaf.val seg.val = 0) ∧
    (∃ (leaf : Fin 168) (seg : Fin 8) (s : State),
    tget (getLeaf s leaf.val).segs seg.val = .zeroing) ∧
    (∃ (s : State) (e : Nat),
    s.jobs.recovery = e + 1 ∧
    s.firm.act ≠ .open_ ∧
    localising s = none ∧
    s.safe.halted = false ∧
    recoveringEsts s = [e] ∧
    (∀ x j, (getEst s x).replay = some j → e ∉ jobEsts x j) ∧
    (getEst s e).switchBack = false ∧
    s.jobs.heldQ = []) ∧
    (∃ (s : State) (p : Nat) (trig : Nat) (l : Fin 168),
    localising s = some (p, trig) ∧
    s.firm.act ≠ .open_ ∧
    s.safe.halted = false ∧
    l.val ∈ (getEst s p).leaves ∧
    (∀ j, jobOf s p = some j → j.copy = 0)) ∧
    (∃ (s : State) (p : Nat) (trig : Nat),
    localising s = some (p, trig) ∧
    s.firm.act ≠ .open_ ∧
    s.safe.halted = false ∧
    s.jobs.heldQ = [] ∧
    recoveringEsts s = [p]) :=
  ⟨⟨1, 2, { up with lv := { up.lv with leaf := [(1, { getLeaf up 1 with segs := [(1, .on), (2, .closing)], drain := [{ blk := bytesOf 32 [(0, 2, 0x800)] }] })] } },
    by decide +kernel⟩,
   ⟨1, 2, memWrite ({ up with lv := { up.lv with leaf := [(1, { getLeaf up 1 with segs := [(1, .on), (2, .refusing)] })] } }) 0x1000280000 [5],
     by decide +kernel⟩,
   ⟨1, 2, { up with lv := { up.lv with leaf := [(1, { getLeaf up 1 with segs := [(1, .on), (2, .zeroing)] })] } }, by decide +kernel⟩,
   ⟨upRec, 3, by decide +kernel, by decide +kernel, by decide +kernel, by decide +kernel, by decide +kernel, upRec_replay 3, by decide +kernel⟩,
   ⟨{ upRec with jobs := { upRec.jobs with localise := [(3, 1)] } }, 3, 1, (1 : Fin 168), by decide +kernel, by decide +kernel, by decide +kernel,
     by decide +kernel, none_all (by decide +kernel)⟩,
   ⟨{ up with jobs := { up.jobs with recovery := 1, localise := [(0, 1)], est := [(0, { getEst up 0 with recovering := true })] } }, 0, 1,
     by decide +kernel⟩⟩

theorem wit_TakingRecords :
    (∃ (q : BitVec 18) (s : State) (p : Nat),
    CanTake q.toNat p s ∧
    cqOk (afterTake q.toNat s) p (headEntry s q.toNat) = false) ∧
    (∃ (q : BitVec 18) (s : State) (p : Nat) (st : Nat),
    CanTake q.toNat p s ∧
    cqOk (afterTake q.toNat s) p (headEntry s q.toNat) = true ∧
    recBad (afterTake q.toNat s) p q.toNat (headEntry s q.toNat) = some st) ∧
    (∃ (q : BitVec 18) (s : State) (p : Nat) (tm : Tmpl),
    CanTake q.toNat p s ∧
    cqOk (afterTake q.toNat s) p (headEntry s q.toNat) = true ∧
    recBad (afterTake q.toNat s) p q.toNat (headEntry s q.toNat) = none ∧
    tmplOf (afterTake q.toNat s) p (recHandle (headEntry s q.toNat)) = some tm ∧
    (∃ e ∈ candidates (afterTake q.toNat s) p (queueBe s q.toNat) (recDual (headEntry s q.toNat)) tm.image,
      grantHolds (afterTake q.toNat s) p e (if recDual (headEntry s q.toNat) then 2 else 1) tm.image = true) ∧
    (∃ e ∈ candidates (afterTake q.toNat s) p (queueBe s q.toNat) (recDual (headEntry s q.toNat)) tm.image, (getEst s e).held = false)) ∧
    (∃ (q : BitVec 18) (s : State) (w : WaitRec) (e : Nat) (a : List Inst × List Nat × List Nat),
    s.jobs.waiting.find? (fun x => decide (x.qid = q.toNat)) = some w ∧
    admitting s = true ∧
    cqOk s w.party w.record = true ∧
    cqFree s w = true ∧
    (getParty s w.party).frozen = 0 ∧
    isTurn s w (ownStart s) = true ∧
    ownPick s w = some e ∧
    ((candidates s w.party w.be (recDual w.record) (recImg s w)).all fun x => (getEst s x).held) = false ∧
    recDual w.record = false ∧
    allocFor s w.party e (getEst s e).desc.cg (recImg s w) = some a) :=
  ⟨⟨3, taking (bytesOf 64 [(0, 2, 1), (4, 4, 9)]), 0, by decide +kernel⟩,
   ⟨3, taking (bytesOf 64 [(0, 2, 7), (4, 4, 4), (8, 8, 5)]), 0, stBAD_ARG, by decide +kernel⟩,
   ⟨3, taking rec1, 0, { party := 0, handle := 1, image := img1 }, by decide +kernel⟩,
   ⟨3, waitingRec, { qid := 3, record := rec1 }, 0, ([{ leaf := 0 }], [], []), by decide +kernel⟩⟩

theorem wit_SwitchAndPour :
    (∃ (e : Fin 16) (s : State) (j : Job) (x : Inst),
    jobOf s e.val = some j ∧
    j.phase = .switching ∧
    s.pw.st = .run ∧
    s.pw.pllLost = false ∧
    j.copy = 0 ∧
    j.insts = [x] ∧
    j.saved = [] ∧
    j.resumed = false) ∧
    (∃ (e : Fin 16) (missed : List (Fin 168 × List Nat)) (s : State) (l : Nat) (j : Job) (x : Inst),
    Pouring e.val l j x s ∧
    (getLeaf s l).attempt = 1 ∧
    (getLeaf s l).missed = [] ∧
    (getLeaf s l).missedN = 0 ∧
    (∀ m ∈ missed, m.1.val = l → m.2 = [])) ∧
    (∃ (leaf : Fin 168) (s : State) (e : Nat) (j : Job) (x : Inst) (n : Nat),
    Pouring e leaf.val j x s ∧
    (getLeaf s leaf.val).missed = [n]) ∧
    (∃ (leaf : Fin 168) (s : State) (e : Nat) (j : Job) (x : Inst) (n : Nat) (m : Nat) (r : List Nat),
    Pouring e leaf.val j x s ∧
    (getLeaf s leaf.val).missed = n :: m :: r) ∧
    (∃ (leaf : Fin 168) (s : State) (e : Nat) (j : Job) (x : Inst),
    Pouring e leaf.val j x s ∧
    (getLeaf s leaf.val).missed = [] ∧
    (getLeaf s leaf.val).missedN ≠ 0) ∧
    (∃ (leaf : Fin 168) (s : State) (e : Nat) (j : Job) (x : Inst),
    Pouring e leaf.val j x s ∧
    (getLeaf s leaf.val).missed = [] ∧
    (getLeaf s leaf.val).missedN ≠ 0 ∧
    (getLeaf s leaf.val).attempt < 3) ∧
    (∃ (leaf : Fin 168) (s : State) (e : Nat) (j : Job) (x : Inst),
    Pouring e leaf.val j x s ∧
    (getLeaf s leaf.val).missed ≠ []) :=
  ⟨⟨0, modJob up 0 fun _ => { job0 with phase := .switching }, { job0 with phase := .switching }, { leaf := 0 }, by decide +kernel⟩,
   ⟨0, [(3, [1])], pouringJob { attempt := 1, missedN := 0 }, 0, pourJob, { leaf := 0 }, by decide +kernel⟩,
   ⟨0, pouringJob { attempt := 1, missed := [2], missedN := 2 }, 0, pourJob, { leaf := 0 }, 2, by decide +kernel⟩,
   ⟨0, pouringJob { attempt := 1, missed := [2, 5, 6], missedN := 3 }, 0, pourJob, { leaf := 0 }, 2, 5, [6], by decide +kernel⟩,
   ⟨0, pouringJob { attempt := 1, missedN := 20 }, 0, pourJob, { leaf := 0 }, by decide +kernel⟩,
   ⟨0, pouringJob { attempt := 1, missedN := 20 }, 0, pourJob, { leaf := 0 }, by decide +kernel⟩,
   ⟨0, pouringJob { attempt := 1, missed := [2], missedN := 2 }, 0, pourJob, { leaf := 0 }, by decide +kernel⟩⟩

theorem wit_RunLimits :
    (∃ (e : Fin 16) (s : State) (j : Job),
    jobOf s e.val = some j ∧
    (j.phase = .running ∨ j.phase = .pouring) ∧
    (∀ k ∈ jobThreads s j, (getTh s k).mode ≠ .taster) ∧
    s.firm.act ≠ .open_ ∧
    j.progress + tStallUs (jobImg s j) * 100 ≤ s.ktime) ∧
    (∃ (e : Fin 16) (s : State) (j : Job),
    jobOf s e.val = some j ∧
    j.lent = false ∧
    j.overrun = false ∧
    j.durTclk ≤ j.runTclk) ∧
    (∃ (e : Fin 16) (s : State) (j : Job),
    jobOf s e.val = some j ∧
    (j.lent = true ∨ j.overrun = true ∨ j.runTclk < j.durTclk)) ∧
    (∃ (e : Fin 16) (s : State) (j : Job),
    jobOf s e.val = some j ∧
    (j.lent = false ∨ 10 * j.runTclk < 11 * j.durTclk)) ∧
    (∃ (e : Fin 16) (s : State) (j : Job),
    jobOf s e.val = some j ∧
    j.lent = true ∧
    11 * j.durTclk ≤ 10 * j.runTclk) :=
  ⟨⟨0, { up with ktime := 1000000 }, job0, by decide +kernel⟩,
   ⟨0, modJob up 0 fun _ => { job0 with runTclk := 1000 }, { job0 with runTclk := 1000 }, by decide +kernel⟩,
   ⟨0, up, job0, by decide +kernel⟩,
   ⟨0, up, job0, by decide +kernel⟩,
   ⟨0, modJob up 0 fun _ => { job0 with lent := true, runTclk := 1100 }, { job0 with lent := true, runTclk := 1100 }, by decide +kernel⟩⟩

theorem wit_KettleAndIslandFaults_1 : ∃ (x : Instr × Nat) (s : State), x ∈ [(Instr.kettleLockstepMismatch, 0), (.kettleWatchdogExpiry, 1)] ∧
    s.safe.kettleFault = false ∧ s.pw.supplied = true ∧ s.boot.held = false ∧ s.pw.st ≠ .rest ∧ s.firm.act ≠ .open_ :=
  ⟨(.kettleLockstepMismatch, 0), up, by decide +kernel⟩

theorem wit_PairMissZeroingFlush :
    (∃ (e : Fin 16) (s : State) (p : Pair) (r : TstReport) (j : Job),
    pairOf s e.val = some p ∧
    s.jobs.reports.find? (fun x => decide (x.primary = p.primary ∧ x.at_ + p.window * 100 ≤ s.ktime)) = some r ∧
    jobOf s p.primary = some j ∧
    s.jobs.recovery = 0) ∧
    (∃ (s : State),
    s.mem.unzeroed = true ∧
    fabricUp s = true) ∧
    (∃ (s : State),
    s.caddy.flushing = true ∧
    s.pw.parking = 0 ∧
    s.pw.dozing = 0 ∧
    s.caddy.flashAt < 524288) :=
  ⟨⟨0, pairUp, { primary := 0, partner := 1, window := 100 }, { primary := 0, copy := 1, ckpt := 4, at_ := 5 }, { job0 with copy := 1, twin := 1 },
    by decide +kernel⟩,
   ⟨{ up with mem := { up.mem with unzeroed := true } }, by decide +kernel⟩,
   ⟨event srcAfzan 0xA0F1 0 [1] { up with caddy := { flushing := true, flushPend := [{ party := 0, tag := 5, msg := 0x0B11, notice := false }] } },
     by decide +kernel⟩⟩

theorem wit_HushDozeWake :
    (∃ (s : State),
    awake s = true ∧
    s.pw.st = .run ∧
    anyWork s = false ∧
    s.pw.pllLost = false ∧
    s.firm.act = .none ∧
    s.pw.parking = 0 ∧
    s.pw.dozing = 0 ∧
    s.boot.resetting = none ∧
    100000 ≤ ktSince s s.jobs.idleSince ∧
    (voteLevel s).1 < 2) ∧
    (∃ (s : State),
    awake s = true ∧
    s.pw.st = .run ∧
    anyWork s = false ∧
    s.pw.pllLost = false ∧
    s.firm.act = .none ∧
    s.pw.parking = 0 ∧
    s.pw.dozing = 0 ∧
    s.boot.resetting = none ∧
    100000 ≤ ktSince s s.jobs.idleSince ∧
    (voteLevel s).1 = 2 ∧
    s.pw.thermalDoze = false ∧
    s.pw.forced = false) ∧
    (∃ (s : State),
    s.pw.st = .hush ∧
    s.pw.thermalDoze = false ∧
    s.pw.forced = false ∧
    s.pw.parking = 0) ∧
    (∃ (cls : Fin 10) (s : State),
    s.pw.st = .doze ∧
    cls ≠ 0 ∧
    s.pw.thermalDoze = false ∧
    s.pw.forced = false ∧
    s.pw.parking = 0) ∧
    (∃ (cls : Fin 10) (s : State),
    s.pw.st = .rest ∧
    (cls = 9 ∨ cls = 2)) ∧
    (∃ (inst : BitVec 16) (s : State),
    s.pw.st = .rest ∧
    bitOf s.field.wakeEn (inst.toNat % 24) = false) ∧
    (∃ (s : State),
    s.caddy.flushing = true ∧
    s.pw.dozing ≠ 0 ∧
    s.pw.st ≠ .doze ∧
    s.pw.st ≠ .hush ∧
    s.caddy.flushPend = []) :=
  ⟨⟨{ up with jobs := {} }, by decide +kernel⟩,
   ⟨idleVoted, by decide +kernel⟩,
   ⟨{ up with pw := { up.pw with st := .hush } }, by decide +kernel⟩,
   ⟨1, { up with pw := { up.pw with st := .doze } }, by decide +kernel⟩,
   ⟨9, { up with pw := { up.pw with st := .rest } }, by decide +kernel⟩,
   ⟨5, { up with pw := { up.pw with st := .rest }, field := { up.field with wakeEn := 0 } }, by decide +kernel⟩,
   ⟨{ up with caddy := { flushing := true }, pw := { up.pw with dozing := 2 } }, by decide +kernel⟩⟩

theorem wit_CurrentAndPowerLimits :
    (∃ (s : State),
    s.pw.pllLost = false ∧
    s.pw.supplied = true ∧
    s.pw.st ≠ .rest ∧
    s.pw.st ≠ .park) ∧
    (∃ (s : State),
    s.pw.fast = false ∧
    clocked s = true ∧
    s.pw.div ≤ 16) ∧
    (∃ (dw : Nat) (s : State),
    s.pw.supplied = true ∧
    s.pw.st ≠ .rest ∧
    s.pw.st ≠ .park ∧
    s.pw.fast = false ∧
    capDw s < dw ∧
    max s.pw.powerStep (max s.part.floor (requestedDiv s)) < 16) ∧
    (∃ (dw : Nat) (s : State),
    s.pw.supplied = true ∧
    s.pw.st ≠ .rest ∧
    s.pw.st ≠ .park ∧
    s.pw.fast = false ∧
    100 * dw < 95 * capDw s ∧
    s.pw.lowWindows < 9) ∧
    (∃ (dw : Nat) (s : State),
    s.pw.supplied = true ∧
    s.pw.st ≠ .rest ∧
    s.pw.st ≠ .park ∧
    s.pw.fast = false ∧
    100 * dw < 95 * capDw s ∧
    9 ≤ s.pw.lowWindows ∧
    max s.part.floor (requestedDiv s) ≤ stepUp s.pw.powerStep ∧
    stepUp s.pw.powerStep < s.pw.powerStep) ∧
    (∃ (s : State),
    s.pw.supplied = true ∧
    s.pw.st ≠ .rest ∧
    s.pw.st ≠ .park ∧
    s.pw.fast = true) ∧
    (∃ (s : State),
    clocked s = true) ∧
    (∃ (s : State),
    s.pw.supplied = true ∧
    s.pw.vddWait = false ∧
    s.pw.divNext = 0) ∧
    (∃ (s : State),
    s.pw.supplied = true ∧
    s.pw.vddWait = true ∧
    s.pw.st ≠ .hush) ∧
    (∃ (s : State),
    s.pw.supplied = true ∧
    s.pw.vddWait = false ∧
    s.pw.divNext ≠ 0 ∧
    s.pw.st = .run) :=
  ⟨⟨up, by decide +kernel⟩,
   ⟨up, by decide +kernel⟩,
   ⟨40000, up, by decide +kernel⟩,
   ⟨1, up, by decide +kernel⟩,
   ⟨1, { up with pw := { up.pw with lowWindows := 9, powerStep := 11 } }, by decide +kernel⟩,
   ⟨{ up with pw := { up.pw with fast := true } }, by decide +kernel⟩,
   ⟨up, by decide +kernel⟩,
   ⟨up, by decide +kernel⟩,
   ⟨{ up with pw := { up.pw with vddWait := true, vddTarget := 800 } }, by decide +kernel⟩,
   ⟨{ up with pw := { up.pw with divNext := 9, div := 12, vddTarget := 800 } }, by decide +kernel⟩⟩

theorem wit_ThermalLimits :
    (∃ (deci : Int) (s : State),
    s.pw.supplied = true ∧
    s.pw.st ≠ .rest ∧
    s.pw.st ≠ .park ∧
    Int.ofNat (10 * throttleC s) ≤ deci ∧
    (∀ t, s.pw.hotSince = some t → 100000 ≤ ktSince s t) ∧
    max s.pw.thermalStep s.part.floor < 16) ∧
    (∃ (deci : Int) (s : State) (t0 : Nat),
    s.pw.hotSince = some t0 ∧
    ktSince s t0 < 100000 ∧
    Int.ofNat (10 * throttleC s) ≤ deci) ∧
    (∃ (deci : Int) (s : State) (t0 : Nat),
    s.pw.supplied = true ∧
    s.pw.st ≠ .rest ∧
    s.pw.st ≠ .park ∧
    deci < Int.ofNat (10 * throttleC s) - 50 ∧
    s.pw.coolSince = some t0 ∧
    1000000 ≤ ktSince s t0 ∧
    otherDiv s < s.pw.thermalStep) ∧
    (∃ (deci : Int) (s : State),
    1250 ≤ deci ∧
    s.pw.thermalDoze = false ∧
    awake s = true) ∧
    (∃ (deci : Int) (s : State),
    s.pw.thermalDoze = true ∧
    s.pw.dozing = 0 ∧
    deci ≤ 1050) ∧
    (∃ (s : State),
    s.pw.supplied = true) ∧
    (∃ (s : State),
    s.boot.phase = 1 ∧
    s.field.wake &&& s.field.wakeEn ≠ 0) :=
  ⟨⟨1160, up, by decide +kernel, by decide +kernel, by decide +kernel, by decide +kernel, up_cool, by decide +kernel⟩,
   ⟨1160, { up with pw := { up.pw with hotSince := some 999999 } }, 999999, by decide +kernel⟩,
   ⟨900, { up with ktime := 3000000, pw := { up.pw with coolSince := some 5, thermalStep := 11 } }, 5, by decide +kernel⟩,
   ⟨1250, up, by decide +kernel⟩,
   ⟨1050, { up with pw := { up.pw with thermalDoze := true, st := .doze } }, by decide +kernel⟩,
   ⟨up, by decide +kernel⟩,
   ⟨{ up with boot := { phase := 1 }, field := { up.field with wake := 1, wakeEn := 1 } }, by decide +kernel⟩⟩

theorem wit_SelfTestSlices :
    (∃ (e : Fin 16) (s : State),
    admitting s = true ∧
    boundary s e.val = true ∧
    (getEst s e.val).test.source ≠ 0 ∧
    sliceMay s e.val = true) ∧
    (∃ (e : Fin 16) (s : State),
    (getEst s e.val).test.running = true ∧
    ((getEst s e.val).desc.be = true ∨ (getEst s e.val).test.source < 2)) ∧
    (∃ (e : Fin 16) (leaf : Fin 168) (s : State),
    admitting s = true ∧
    (getEst s e.val).test.running = false ∧
    estOf s leaf.val = none ∧
    (getLeaf s leaf.val).kind = .spare) ∧
    (∃ (e : Fin 16) (s : State),
    (getEst s e.val).live = true ∧
    (getEst s e.val).test.source ≠ 0 ∧
    (getEst s e.val).test.overdue = false ∧
    (getEst s e.val).test.dti * 100 ≤ ktSince s (getEst s e.val).test.cycleAt ∧
    s.pw.supplied = true) :=
  ⟨⟨0, modEst up 0 fun x => { x with job := none, desc := { mode := 1, horizon := 300 }, test := { source := 1, period := 1000, len := 500, dti := 5, next := 2 } },
    by decide +kernel⟩,
   ⟨0, modEst up 0 fun x => { x with job := none, test := { source := 1, period := 1000, len := 500, dti := 5, next := 2, running := true } },
     by decide +kernel⟩,
   ⟨3, 5, modLeaf up 5 fun x => { x with kind := .spare }, by decide +kernel⟩,
   ⟨0, modEst up 0 fun x => { x with job := none, test := { source := 1, period := 1000, len := 500, dti := 5, next := 2 } }, by decide +kernel⟩⟩

theorem wit_KettleAndIslandFaults :
    (∃ (n : Fin 2) (s : State),
    bitOf s.safe.pairFault n.val = false ∧
    s.pw.supplied = true ∧
    s.pw.st ≠ .rest) ∧
    (∃ (n : Fin 2) (s : State),
    bitOf s.safe.pairFault n.val = false ∧
    s.pw.supplied = true ∧
    s.pw.st ≠ .rest) :=
  ⟨⟨1, up, by decide +kernel⟩,
   ⟨1, up, by decide +kernel⟩⟩

/-- Pipe 2 shows one enabled layer of one pixel. -/
def layer1 : List Byte := bytesOf 64 [(0, 6, 0x20000000), (6, 1, 3), (8, 2, 1), (10, 2, 1), (12, 2, 1), (16, 4, 256), (36, 2, 1), (38, 2, 1),
  (44, 2, 1), (46, 2, 1), (48, 1, 255), (49, 1, 1)]
def upLayer : State :=
  { up with media := { pipe := [(2, { owner := 1, timing := bytesOf 32 [(1, 1, 60), (18, 1, 8), (19, 1, 4)], lanes := 4, rate := 540
                                      scan := true, link := true, layers := [(0, layer1)] })] } }
def layersRead : State × Nat × List Layer :=
  fetchLayers 2 (ownerOf (getPipe upLayer 2).owner) ((List.range 8).map (tget (getPipe upLayer 2).layers)) (nextFrame 2 (underEvent 2 upLayer))

/-- Flip queue 9 of pipe 2 holds a flip that enables no layer. -/
def upFlip : State :=
  { memWrite up 0x20005000 (bytesOf 64 [(0, 6, 0x20006000), (8, 8, 1)]) with
    queue := [(9, { bound := true, base := 0x20005000, lg := 2, esize := 2, kind := 1, tail := 1 })]
    media := { pipe := [(2, { owner := 1, scan := true, flip := 10 })] } }
def flipped : State × Latch := applyFlip 2 (headEntry upFlip 9) {} (popEntry 9 (nextFrame 2 (underEvent 2 upFlip)))

/-- A codec's image of 2 × 2 pixels in NV12. -/
def nv12 (a : Nat) : List (Nat × Nat × Nat) :=
  [(0, 6, a), (6, 1, 16), (8, 2, 2), (10, 2, 2), (12, 2, 1), (16, 4, 256), (24, 6, a + 4096)]

/-- Decoder session 36 has a picture ready, and a free picture. -/
def upDec : State :=
  { memWrite up 0x20007000 (bytesOf 64 (nv12 0x20010000)) with
    queue := [(9, { bound := true, base := 0x20005000, lg := 2, esize := 1, kind := 1 }),
              (10, { bound := true, base := 0x20006000, lg := 2, esize := 2, kind := 1 }),
              (11, { bound := true, base := 0x20007000, lg := 2, esize := 2, kind := 1, tail := 1 })]
    media := { ses := [(36, { owner := 1, pics := 1, open_ := bytesOf 64 [(0, 1, 1), (2, 2, 2), (4, 2, 2), (8, 4, 60), (12, 4, 9), (16, 4, 10), (20, 4, 11)] })] } }

/-- Encoder session 4 holds a picture. -/
def picRec0 : List Byte := bytesOf 64 (nv12 0x20010000)
def upEnc : State :=
  { memWrite up 0x20006000 (bytesOf 32 [(0, 6, 0x20008000), (8, 4, 4096)]) with
    queue := [(9, { bound := true, base := 0x20005000, lg := 2, esize := 2, kind := 1 }),
              (10, { bound := true, base := 0x20006000, lg := 2, esize := 1, kind := 1 })]
    media := { ses := [(4, { owner := 1, work := [picRec0], open_ := bytesOf 64 [(2, 2, 2), (4, 2, 2), (8, 4, 60), (12, 4, 9), (16, 4, 10)] })] } }
theorem upEnc_rec : encRec upEnc 4 = picRec0 := by
  show (getSes upEnc 4).work.getD (_ % max 1 1) [] = _
  rw [show max 1 1 = 1 by rfl, Nat.mod_one]; decide +kernel
def encIn : State × Nat × List (List Byte) × List (List Byte) :=
  getImage (sesIni 4) (picRec0.take 32) 0 (field picRec0 8 2) 0 (field picRec0 10 2) upEnc
def encOut : State × Nat :=
  busWrite (sesIni 4) (encBuf encIn.1 4).1 ((List.range 4).map (Config.encByte (runSlot encIn.1).release
    ((getSes upEnc 4).open_.take 12 ++ (getSes upEnc 4).open_.drop 36) (encFed upEnc 4 encIn.2.2.1 encIn.2.2.2))) encIn.1

/-- Stream 1 captures in bypass. -/
def upByp : State := { up with queue := [(9, { bound := true, base := 0x20005000, esize := 1, kind := 1, lg := 2, tail := 1 }), (10, { bound := true, base := 0x20006000, tbase := 0x20010000, stride := 16384, kind := 0, tail := 1, lg := 2 })], cap := { str := [(1, { owner := 1, conf := bytesOf 64 [(1, 1, 3), (2, 1, 0x2A), (3, 1, 1), (4, 2, 256), (6, 2, 8), (8, 4, 100000000), (16, 3, 9), (21, 3, 10), (24, 6, 0x20010000), (40, 4, 256), (44, 4, 4096)], frame := some { num := 4, lines := 2, buf := 1, at_ := 100 } })] } }

/-- Stream 1 after the lines of its frame; its party may allocate in no cache way. -/
def tileState : State :=
  { up with queue := [(10, { bound := true, base := 0x20006000, tbase := 0x20010000, stride := 16384, kind := 0, tail := 1, lg := 2 })]
            party := [(0, { grant := grant0, memWays := some 0 })]
            cap := { str := [(1, { owner := 1, conf := bytesOf 64 [(3, 1, 2), (4, 2, 256), (6, 2, 8), (21, 3, 10)], frame := some { num := 4, lines := 8 } })] } }

/-- `tileState` with other bytes and other records of the path to DRAM. -/
def tileWith (c : Tab Byte) (n : Tab (List Nat)) (g : Tab Cg) (f : Nat) : State :=
  { tileState with fresh := f, mem := { tileState.mem with cells := c, snoop := n, cg := g } }

theorem tile_line (c : Tab Byte) (n : Tab (List Nat)) (g : Tab Cg) (f l : Nat) :
    ∃ n' g', writeLine (strIni tileState 1) (whoOf tileState (strIni tileState 1)) l 64 (tileWith c n g f) = (tileWith c n' g' f, true) := by
  have hc : ∀ n g, cacheWay (tileWith c n g f) l = none := fun n g => by
    have : ∀ x : Nat, x < 16 → ¬(default : CLine).line = l + 1 := fun _ _ => nofun
    simpa [cacheWay, tget, tileWith, show tileState.mem.cache = [] from rfl]
  have hr : ∀ n g p a, rangeOf (tileWith c n g f) p a = none := fun n g p a => by
    simp [rangeOf, getRange, tget, tileWith, show tileState.mem.ranges = [] from rfl, show (default : SRange).cls = 0 from rfl]
  have hk : cacheCheck l (tileWith c n g f) = (tileWith c n g f, false) := by simp [cacheCheck, hc]
  have hs : ∃ n', snoopDrop l (tileWith c n g f) = tileWith c n' g f := ⟨_, rfl⟩
  obtain ⟨n', hs⟩ := hs
  have hd : ∀ n g, cgOf (tileWith c n g f) (l * 64) = cgOf tileState (l * 64) := fun _ _ => rfl
  have hm : ∃ g', modCg (tileWith c n' g f) (cgOf tileState (l * 64)) (fun x => { x with misses := x.misses.add 1 }) = tileWith c n' g' f := ⟨_, rfl⟩
  obtain ⟨g1, hm⟩ := hm
  have hi : ∃ g', strainerIn (cgOf tileState (l * 64)) .rt none 64 (tileWith c n' g1 f) = tileWith c n' g' f := ⟨_, rfl⟩
  obtain ⟨g2, hi⟩ := hi
  have hl : classOf (tileWith c n' g f) (strIni tileState 1) (whoOf tileState (strIni tileState 1)) (l * 64) = (.rt, none) := by
    show (TClass.rt, rangeOf (tileWith c n' g f) 0 (l * 64)) = _
    rw [hr]
  have ha : allocMask (tileWith c n' g2 f) (strIni tileState 1) (whoOf tileState (strIni tileState 1)) (l * 64) .rt none = 0 := rfl
  refine ⟨n', g2, ?_⟩
  unfold writeLine
  simp only [hk, Bool.false_eq_true, if_false, show isCore (strIni tileState 1) = false from rfl, hs, hc, hl, hd, hm, hi,
    show ¬(64 < 64) by omega, false_and, and_false, show ({ tileWith c n' g2 f with mem := { (tileWith c n' g2 f).mem with
      lineErr := tput (tileWith c n' g2 f).mem.lineErr l 0 } } : State) = tileWith c n' g2 f from rfl, ha, if_true]
  rfl

theorem tile_part (c : Tab Byte) (n : Tab (List Nat)) (g : Tab Cg) (f a k : Nat) (bs : List Byte)
    (h : target tileState (strIni tileState 1) (whoOf tileState (strIni tileState 1)) true a = .accept ∧ a < 0x1000000000 ∧
      a % 64 = 0 ∧ k = 64) :
    ∃ c' n' g', access (strIni tileState 1) true a k bs [] (tileWith c n g f) = (tileWith c' n' g' f, .done stOK []) := by
  obtain ⟨h1, h2, h3, rfl⟩ := h
  have hl := linesOf_one (a := a) (n := 64) (by omega) (by omega)
  obtain ⟨n', g', hw⟩ := tile_line c n g f (a / 64)
  refine ⟨twrite c a bs, n', g', ?_⟩
  have hd : dramAccess (strIni tileState 1) (whoOf tileState (strIni tileState 1)) true a 64 bs (tileWith c n g f) =
      (tileWith (twrite c a bs) n' g' f, .done stOK []) := by
    simp only [dramAccess, hl, List.foldl, hw, Bool.true_and, if_true]
    rfl
  rw [← hd]
  have hf : fabricAt (tileWith c n g f) (strIni tileState 1) a = none := by
    simp [fabricAt, tget, tileWith, show tileState.mem.fabricErr = [] from rfl, show strIni tileState 1 = .isp 1 from rfl]
    split <;> rfl
  have hq : firstRefused (tileWith c n g f) (strIni tileState 1) (whoOf tileState (strIni tileState 1)) true a 64 = none := by
    have ht : target (tileWith c n g f) (strIni tileState 1) (whoOf tileState (strIni tileState 1)) true a = .accept := by
      rw [← h1]; unfold target; rw [if_pos h2, if_pos h2]; rfl
    have hp : ((List.range (64 / 64 + 2)).map fun k => (a / 64 + 1 + k) * 64).filter (fun x => decide (x < a + 64)) = [] := by
      simp [List.filter_eq_nil_iff]; omega
    unfold firstRefused
    dsimp only
    rw [hp]
    simp only [List.findSome?, ht, show ¬(0x3000000000 ≤ a ∧ a < 0x8000000000) by omega, if_false]
  have hb : (tileWith c n g f).boot.resetting = none := rfl
  have hk : whoOf (tileWith c n g f) (strIni tileState 1) = whoOf tileState (strIni tileState 1) := rfl
  unfold access
  simp only [hb, hf, hq, hk, Option.isSome, Bool.false_and, Bool.false_eq_true, if_false, if_pos h2]

theorem unit_tile (c : Tab Byte) (n : Tab (List Nat)) (g : Tab Cg) (f a k : Nat) (bs : List Byte)
    (h : target tileState (strIni tileState 1) (whoOf tileState (strIni tileState 1)) true a = .accept ∧ a < 0x1000000000 ∧
      a % 64 = 0 ∧ k = 64) :
    ∃ c' n' g', unitAccess (strIni tileState 1) true a k bs (tileWith c n g f) = (tileWith c' n' g' f, .done stOK []) := by
  obtain ⟨c', n', g', e⟩ := tile_part c n g f a k bs h
  exact ⟨c', n', g', by simp [unitAccess, e]⟩

theorem tile_parts : ∀ (ps : List (Nat × Nat)) (c : Tab Byte) (n : Tab (List Nat)) (g : Tab Cg) (f a : Nat) (bs : List Byte),
    (∀ p ∈ ps, target tileState (strIni tileState 1) (whoOf tileState (strIni tileState 1)) true p.1 = .accept ∧
      p.1 < 0x1000000000 ∧ p.1 % 64 = 0 ∧ p.2 = 64) →
    (ps.foldl (fun (x : State × Nat) p => if x.2 ≠ stOK then x else
      let r := unitAccess (strIni tileState 1) true p.1 p.2 ((bs.drop (p.1 - a)).take p.2) x.1
      (r.1, endedStatus r.2)) (tileWith c n g f, stOK)).2 = stOK
  | [], _, _, _, _, _, _, _ => rfl
  | p :: ps, c, n, g, f, a, bs, h => by
    obtain ⟨c', n', g', e⟩ := unit_tile c n g f p.1 p.2 ((bs.drop (p.1 - a)).take p.2) (h p (by simp))
    simp only [List.foldl, ne_eq, not_true, if_false, e]
    exact tile_parts ps c' n' g' f a bs fun q hq => h q (by simp [hq])

/-- Every line of the tile is written. -/
theorem tile_written : (busWrite (strIni tileState 1) 0x20014000 (tileData tileState 1 { num := 4, lines := 8 }) tileState).2 = stOK := by
  have h : ∀ p ∈ lineParts 0x20014000 16384, target tileState (strIni tileState 1) (whoOf tileState (strIni tileState 1)) true p.1 = .accept ∧
      p.1 < 0x1000000000 ∧ p.1 % 64 = 0 ∧ p.2 = 64 := by decide +kernel
  have hl : (tileData tileState 1 { num := 4, lines := 8 }).length = 16384 := by simp only [tileData, IspIn.tile, List.length_map, List.length_range]
  unfold busWrite
  rw [hl]
  exact tile_parts _ _ _ _ _ _ _ h

theorem wit_DisplayLinks :
    (∃ (pipe : Fin 6) (lanes : Nat) (rate : Nat) (s : State) (d : Pend),
    (getPipe s pipe.val).training = some d ∧
    lanesOk pipe.val false lanes = true ∧
    lanes ≤ field (getPipe s pipe.val).timing 19 1 ∧
    rateOk pipe.val false rate = true ∧
    (field (getPipe s pipe.val).timing 20 2 = 0 ∨ rate ≤ field (getPipe s pipe.val).timing 20 2) ∧
    streamFits pipe.val (getPipe s pipe.val).timing lanes rate = true) ∧
    (∃ (pipe : Fin 6) (s : State) (d : Pend),
    (getPipe s pipe.val).training = some d) ∧
    (∃ (pipe : Fin 6) (lanes : Nat) (s : State) (d : Pend),
    (getPipe s pipe.val).training = some d ∧
    lanesOk pipe.val false lanes = false) ∧
    (∃ (pipe : Fin 6) (s : State),
    (getPipe s pipe.val).scan = true ∧
    (getPipe s pipe.val).link = true) ∧
    (∃ (pipe : Fin 6) (s : State),
    (getPipe s pipe.val).scan = true ∧
    (getPipe s pipe.val).link = false ∧
    (getPipe s pipe.val).relink = false ∧
    10000000 ≤ ktSince s (getPipe s pipe.val).triedAt) ∧
    (∃ (pipe : Fin 6) (s : State) (flags : Nat) (d : Pend),
    (getPipe s pipe.val).stop = some (flags, d) ∧
    (getPipe s pipe.val).scan = false ∧
    (getPipe s pipe.val).training = none) :=
  ⟨⟨2, 4, 540, { up with media := { pipe := [(2, { owner := 1, timing := bytesOf 32 [(1, 1, 60), (18, 1, 8), (19, 1, 4)], lanes := 4, rate := 540, training := some { party := 0, tag := 7, msg := 0x0E01, notice := false } })] } },
    { party := 0, tag := 7, msg := 0x0E01, notice := false }, by decide +kernel⟩,
   ⟨2, { up with media := { pipe := [(2, { owner := 1, timing := bytesOf 32 [(1, 1, 60), (18, 1, 8), (19, 1, 4)], lanes := 4, rate := 540, training := some { party := 0, tag := 7, msg := 0x0E01, notice := false } })] } },
     { party := 0, tag := 7, msg := 0x0E01, notice := false }, by decide +kernel⟩,
   ⟨2, 3, { up with media := { pipe := [(2, { owner := 1, timing := bytesOf 32 [(1, 1, 60), (18, 1, 8), (19, 1, 4)], lanes := 4, rate := 540, training := some { party := 0, tag := 7, msg := 0x0E01, notice := false } })] } },
     { party := 0, tag := 7, msg := 0x0E01, notice := false }, by decide +kernel⟩,
   ⟨2, { up with media := { pipe := [(2, { owner := 1, timing := bytesOf 32 [(1, 1, 60), (18, 1, 8), (19, 1, 4)], lanes := 4, rate := 540, scan := true, link := true })] } },
     by decide +kernel⟩,
   ⟨2, { { up with media := { pipe := [(2, { owner := 1, timing := bytesOf 32 [(1, 1, 60), (18, 1, 8), (19, 1, 4)], lanes := 4, rate := 540, scan := true, link := false, triedAt := 3 })] } } with ktime := 20000000 },
     by decide +kernel⟩,
   ⟨2, { up with media := { pipe := [(2, { owner := 1, timing := bytesOf 32 [(1, 1, 60), (18, 1, 8), (19, 1, 4)], lanes := 4, rate := 540, stop := some (2, { party := 0, tag := 7, msg := 0x0E01, notice := false }), link := true })] } },
     2, { party := 0, tag := 7, msg := 0x0E01, notice := false }, by decide +kernel⟩⟩

theorem wit_ScanOut :
    (∃ (pipe : Fin 6) (s : State),
    (getPipe s pipe.val).scan = true ∧
    s.pw.pllLost = false) ∧
    (∃ (pipe : Fin 6) (s : State),
    LatchNow pipe.val s ∧
    Plain pipe.val s ∧
    (getPipe s pipe.val).flip = 0 ∧
    (∀ i < 8, bitOf (field (tget (getPipe s pipe.val).layers i) 49 1) 0 = false)) ∧
    (∃ (pipe : Fin 6) (s : State) (v : State) (ls : List Layer),
    LatchNow pipe.val s ∧
    Plain pipe.val s ∧
    (getPipe s pipe.val).flip = 0 ∧
    (getPipe s pipe.val).link = true ∧
    blockOff s 4 pipe.val = false ∧
    fabricUp s = true ∧
    s.boot.resetting = none ∧
    fetchLayers pipe.val (ownerOf (getPipe s pipe.val).owner) ((List.range 8).map (tget (getPipe s pipe.val).layers)) (nextFrame pipe.val (underEvent pipe.val s)) = (v,
      stOK, ls)) ∧
    (∃ (pipe : Fin 6) (s : State) (x : Nat × Pend),
    LatchNow pipe.val s ∧
    (getPipe s pipe.val).stop = some x) ∧
    (∃ (pipe : Fin 6) (s : State) (v : State) (q : Nat) (l : Latch),
    LatchNow pipe.val s ∧
    Plain pipe.val s ∧
    (getPipe s pipe.val).flip = q + 1 ∧
    fabricUp s = true ∧
    s.boot.resetting = none ∧
    (getQ s q).len = 1 ∧
    field (headEntry s q) 8 8 ≤ ((getPipe s pipe.val).frame + 1) % 2 ^ 64 ∧
    field (headEntry s q) 16 6 = 0 ∧
    field (headEntry s q) 0 6 % 64 = 0 ∧
    field (headEntry s q) 0 6 + 512 ≤ 0x1000000000 ∧
    applyFlip pipe.val (headEntry s q) {} (popEntry q (nextFrame pipe.val (underEvent pipe.val s))) = (v, l) ∧
    l.taken = 1) :=
  ⟨⟨2, { up with media := { pipe := [(2, { owner := 1, timing := bytesOf 32 [(1, 1, 60), (18, 1, 8), (19, 1, 4)], lanes := 4, rate := 540, scan := true, link := true })] } },
    by decide +kernel⟩,
   ⟨2, { up with media := { pipe := [(2, { owner := 1, timing := bytesOf 32 [(1, 1, 60), (18, 1, 8), (19, 1, 4)], lanes := 4, rate := 540, scan := true, link := true, lineUnder := 3, frame := 7 })] } },
     by decide +kernel⟩,
   ⟨2, upLayer, layersRead.1, layersRead.2.2, by decide +kernel, by decide +kernel, by decide +kernel, by decide +kernel, by decide +kernel,
     by decide +kernel, by decide +kernel, tri_ok (by decide +kernel)⟩,
   ⟨2, { up with media := { pipe := [(2, { owner := 1, timing := bytesOf 32 [(1, 1, 60), (18, 1, 8), (19, 1, 4)], lanes := 4, rate := 540, scan := true, stop := some (2, { party := 0, tag := 7, msg := 0x0E01, notice := false }), link := true })] } },
     (2, { party := 0, tag := 7, msg := 0x0E01, notice := false }), by decide +kernel⟩,
   ⟨2, upFlip, flipped.1, 9, flipped.2, by decide +kernel, by decide +kernel, by decide +kernel, by decide +kernel, by decide +kernel,
     by decide +kernel, by decide +kernel, by decide +kernel, by decide +kernel, by decide +kernel, pair_ok (x := flipped) rfl, by decide +kernel⟩⟩

theorem wit_CodecSession :
    (∃ (k : Fin 64) (r : CodecResult) (s : State) (v : State),
    SesRuns k.val s ∧
    cdDec (getSes s k.val).open_ = true ∧
    cdTile (getSes s k.val).open_ = false ∧
    picsLeft (getSes s k.val) ≠ 0 ∧
    (getSes s k.val).tile = 0 ∧
    r.kind.val ≤ 1 ∧
    canPush s (cdOut (getSes s k.val).open_) = true ∧
    (getQ s (cdFree (getSes s k.val).open_)).len ≠ 0 ∧
    picOk (getSes s k.val).open_ (headEntry s (cdFree (getSes s k.val).open_)) = true ∧
    putPicture k.val ((headEntry s (cdFree (getSes s k.val).open_)).take 32) (noteErr k.val (r.kind.val == 1) s) = (v, stOK)) ∧
    (∃ (k : Fin 64) (r : CodecResult) (s : State) (v : State) (w : State) (p0 : List (List Byte)) (p1 : List (List Byte)),
    SesRuns k.val s ∧
    cdDec (getSes s k.val).open_ = false ∧
    (getSes s k.val).work ≠ [] ∧
    (getQ s (cdIn (getSes s k.val).open_)).len = 0 ∧
    canPush s (cdOut (getSes s k.val).open_) = true ∧
    getImage (sesIni k.val) ((encRec s k.val).take 32) 0 (field (encRec s k.val) 8 2) 0 (field (encRec s k.val) 10 2) s = (v, stOK, p0, p1) ∧
    r.bytes ≤ (encBuf v k.val).2 ∧
    busWrite (sesIni k.val) (encBuf v k.val).1 ((List.range r.bytes).map (Config.encByte (runSlot v).release ((getSes s k.val).open_.take 12 ++ (getSes s k.val).open_.drop 36) (encFed s k.val p0 p1))) v = (w,
      stOK)) ∧
    (∃ (k : Fin 64) (r : CodecResult) (s : State),
    SesRuns k.val s ∧
    cdDec (getSes s k.val).open_ = true ∧
    cdTile (getSes s k.val).open_ = true ∧
    picsLeft (getSes s k.val) ≠ 0 ∧
    r.kind.val = 2) :=
  ⟨⟨(36 : Fin 64), ⟨0, 0⟩, upDec, (putPicture 36 ((headEntry upDec 11).take 32) (noteErr 36 false upDec)).1, by decide +kernel, by decide +kernel,
    by decide +kernel, by decide +kernel, by decide +kernel, by decide +kernel, by decide +kernel, by decide +kernel, by decide +kernel,
    pair_ok (by decide +kernel)⟩,
   ⟨(4 : Fin 64), ⟨0, 4⟩, upEnc, encIn.1, encOut.1, encIn.2.2.1, encIn.2.2.2, by decide +kernel, by decide +kernel, by decide +kernel,
     by decide +kernel, by decide +kernel, by rw [show ((4 : Fin 64)).val = 4 from rfl, upEnc_rec]; exact tri_ok (x := encIn) (by decide +kernel),
     by decide +kernel, pair_ok (x := encOut) (by decide +kernel)⟩,
   ⟨(36 : Fin 64), ⟨2, 0⟩,
     { upDec with media := { ses := [(36, { owner := 1, pics := 1, pieces := [(bytesOf 64 [(16, 8, 5)], [])], open_ := bytesOf 64 [(0, 1, 5), (12, 4, 9), (16, 4, 10)] })] } },
     by decide +kernel⟩⟩

theorem wit_CaptureFramesPart :
    (∃ (r : Fin 4) (k : Nat) (vc : BitVec 4) (s : State),
    Listens r.val k vc s ∧
    (getStr s k).stopped = 0 ∧
    (getStr s k).frame = none ∧
    (getStr s k).tuneNext = none ∧
    blockOff s 5 k = false ∧
    blockOff s 7 r.val = false ∧
    2 ≤ freeSlots s (cOut (getStr s k).conf)) ∧
    (∃ (r : Fin 4) (k : Nat) (vc : BitVec 4) (s : State),
    Listens r.val k vc s ∧
    (getStr s k).stopped = 0 ∧
    (getStr s k).frame = none ∧
    (getStr s k).tuneNext = none ∧
    blockOff s 5 k = false ∧
    blockOff s 7 r.val = false ∧
    freeSlots s (cOut (getStr s k).conf) < 2) ∧
    (∃ (r : Fin 4) (k : Nat) (vc : BitVec 4) (dt : BitVec 8) (s : State) (f : Frame),
    Listens r.val k vc s ∧
    field (getStr s k).conf 2 1 = dt.toNat ∧
    dt ≠ 0x12#8 ∧
    InFrame k f s ∧
    fabricUp s = true ∧
    cMode (getStr s k).conf ≠ 1 ∧
    f.lines < cHeight (getStr s k).conf * cExp (getStr s k).conf) ∧
    (∃ (r : Fin 4) (k : Nat) (vc : BitVec 4) (dt : BitVec 8) (data : List Byte) (s : State) (v : State) (f : Frame),
    Listens r.val k vc s ∧
    field (getStr s k).conf 2 1 = dt.toNat ∧
    dt ≠ 0x12#8 ∧
    InFrame k f s ∧
    fabricUp s = true ∧
    cMode (getStr s k).conf = 1 ∧
    f.lines < cHeight (getStr s k).conf * cExp (getStr s k).conf ∧
    data.length ≤ cWidth (getStr s k).conf ∧
    f.lines * field (cImage (getStr s k).conf) 16 4 + data.length ≤ field (cImage (getStr s k).conf) 20 4 ∧
    busWrite (strIni s k) (field (cImage (getStr s k).conf) 0 6 + f.buf * field (cImage (getStr s k).conf) 20 4 + f.lines * field (cImage (getStr s k).conf) 16 4) data s = (v,
      stOK)) ∧
    (∃ (r : Fin 4) (k : Nat) (vc : BitVec 4) (dt : BitVec 8) (s : State) (f : Frame),
    Listens r.val k vc s ∧
    field (getStr s k).conf 2 1 = dt.toNat ∧
    InFrame k f s) ∧
    (∃ (r : Fin 4) (k : Nat) (vc : BitVec 4) (dt : BitVec 8) (s : State) (f : Frame),
    Listens r.val k vc s ∧
    field (getStr s k).conf 2 1 = dt.toNat ∧
    InFrame k f s ∧
    cMode (getStr s k).conf ≠ 1) ∧
    (∃ (r : Fin 4) (k : Nat) (vc : BitVec 4) (s : State) (f : Frame),
    Listens r.val k vc s ∧
    InFrame k f s ∧
    cMode (getStr s k).conf = 1 ∧
    f.errs = 0 ∧
    f.sensor = none ∧
    (getStr s k).closing = [] ∧
    f.num < 2 ^ 64 ∧
    canPush s (cOut (getStr s k).conf) = true ∧
    (getQ s (cOut (getStr s k).conf)).kind = 1 ∧
    (getQ s (cOut (getStr s k).conf)).esize = 1 ∧
    PlaceOpen s ((getQ s (cOut (getStr s k).conf)).slotAddr (getQ s (cOut (getStr s k).conf)).tail) 32) ∧
    (∃ (r : Fin 4) (k : Nat) (vc : BitVec 4) (s : State) (f : Frame),
    Listens r.val k vc s ∧
    InFrame k f s ∧
    cMode (getStr s k).conf = 2 ∧
    cStats (getStr s k).conf = 0 ∧
    f.errs = 0 ∧
    f.tile < tileCount (getStr s k).conf) ∧
    (∃ (k : Fin 24) (s : State) (f : Frame),
    InFrame k.val f s ∧
    2 * frameTime (getStr s k.val).conf ≤ ktSince s f.at_ ∧
    cMode (getStr s k.val).conf = 2 ∧
    cStats (getStr s k.val).conf = 0 ∧
    f.errs = 0 ∧
    f.tile < tileCount (getStr s k.val).conf) ∧
    (∃ (k : Fin 16) (s : State) (f : Frame),
    (getStr s k.val).frame = some f ∧
    f.dropped = false ∧
    f.ended = false) :=
  ⟨⟨(0 : Fin 4), 1, 3, { up with queue := [(9, { bound := true, base := 0x20005000, esize := 1, kind := 1, lg := 2, tail := 1 }), (10, { bound := true, base := 0x20006000, tbase := 0x20010000, stride := 16384, kind := 0, tail := 1, lg := 2 })], cap := { str := [(1, { owner := 1, conf := bytesOf 64 [(1, 1, 3), (2, 1, 0x2A), (3, 1, 2), (4, 2, 256), (6, 2, 8), (8, 4, 100000000), (16, 3, 9), (21, 3, 10)] })] } },
    by decide +kernel⟩,
   ⟨(0 : Fin 4), 1, 3, { up with queue := [(9, { bound := true, base := 0x20005000, esize := 1, kind := 1, lg := 2, tail := 3 }), (10, { bound := true, base := 0x20006000, tbase := 0x20010000, stride := 16384, kind := 0, tail := 3, lg := 2 })], cap := { str := [(1, { owner := 1, conf := bytesOf 64 [(1, 1, 3), (2, 1, 0x2A), (3, 1, 2), (4, 2, 256), (6, 2, 8), (8, 4, 100000000), (16, 3, 9), (21, 3, 10)] })] } },
     by decide +kernel⟩,
   ⟨(0 : Fin 4), 1, 3, 0x2A,
     { up with queue := [(9, { bound := true, base := 0x20005000, esize := 1, kind := 1, lg := 2, tail := 1 }), (10, { bound := true, base := 0x20006000, tbase := 0x20010000, stride := 16384, kind := 0, tail := 1, lg := 2 })], cap := { str := [(1, { owner := 1, conf := bytesOf 64 [(1, 1, 3), (2, 1, 0x2A), (3, 1, 2), (4, 2, 256), (6, 2, 8), (8, 4, 100000000), (16, 3, 9), (21, 3, 10)], frame := some { num := 4, lines := 2, buf := 1, at_ := 100 } })] } },
     { num := 4, lines := 2, buf := 1, at_ := 100 }, by decide +kernel⟩,
   ⟨(0 : Fin 4), 1, 3, 0x2A, [1, 2], upByp, (busWrite (strIni upByp 1) 0x20011200 [1, 2] upByp).1, { num := 4, lines := 2, buf := 1, at_ := 100 },
     by decide +kernel, by decide +kernel, by decide +kernel, by decide +kernel, by decide +kernel, by decide +kernel, by decide +kernel,
     by decide +kernel, by decide +kernel, pair_ok (by decide +kernel)⟩,
   ⟨(0 : Fin 4), 1, 3, 0x2A,
     { up with queue := [(9, { bound := true, base := 0x20005000, esize := 1, kind := 1, lg := 2, tail := 1 }), (10, { bound := true, base := 0x20006000, tbase := 0x20010000, stride := 16384, kind := 0, tail := 1, lg := 2 })], cap := { str := [(1, { owner := 1, conf := bytesOf 64 [(1, 1, 3), (2, 1, 0x2A), (3, 1, 2), (4, 2, 256), (6, 2, 8), (8, 4, 100000000), (16, 3, 9), (21, 3, 10)], frame := some { num := 4, lines := 2, buf := 1, at_ := 100 } })] } },
     { num := 4, lines := 2, buf := 1, at_ := 100 }, by decide +kernel⟩,
   ⟨(0 : Fin 4), 1, 3, 0x2A,
     { up with queue := [(9, { bound := true, base := 0x20005000, esize := 1, kind := 1, lg := 2, tail := 1 }), (10, { bound := true, base := 0x20006000, tbase := 0x20010000, stride := 16384, kind := 0, tail := 1, lg := 2 })], cap := { str := [(1, { owner := 1, conf := bytesOf 64 [(1, 1, 3), (2, 1, 0x2A), (3, 1, 2), (4, 2, 256), (6, 2, 8), (8, 4, 100000000), (16, 3, 9), (21, 3, 10)], frame := some { num := 4, lines := 2, buf := 1, at_ := 100 } })] } },
     { num := 4, lines := 2, buf := 1, at_ := 100 }, by decide +kernel⟩,
   ⟨(0 : Fin 4), 1, 3, { up with queue := [(9, { bound := true, base := 0x20005000, esize := 1, kind := 1, lg := 2, tail := 1 }), (10, { bound := true, base := 0x20006000, tbase := 0x20010000, stride := 16384, kind := 0, tail := 1, lg := 2 })], cap := { str := [(1, { owner := 1, conf := bytesOf 64 [(1, 1, 3), (2, 1, 0x2A), (3, 1, 1), (4, 2, 256), (6, 2, 8), (8, 4, 100000000), (16, 3, 9), (21, 3, 10), (24, 6, 0x20010000), (40, 4, 256), (44, 4, 4096)], frame := some { num := 4, lines := 8, buf := 1, at_ := 100 } })] } },
     { num := 4, lines := 8, buf := 1, at_ := 100 }, by decide +kernel⟩,
   ⟨(0 : Fin 4), 1, 3, { up with queue := [(9, { bound := true, base := 0x20005000, esize := 1, kind := 1, lg := 2, tail := 1 }), (10, { bound := true, base := 0x20006000, tbase := 0x20010000, stride := 16384, kind := 0, tail := 1, lg := 2 })], cap := { str := [(1, { owner := 1, conf := bytesOf 64 [(1, 1, 3), (2, 1, 0x2A), (3, 1, 2), (4, 2, 256), (6, 2, 8), (8, 4, 100000000), (16, 3, 9), (21, 3, 10)], frame := some { num := 4, lines := 8, buf := 1, at_ := 100 } })] } },
     { num := 4, lines := 8, buf := 1, at_ := 100 }, by decide +kernel⟩,
   ⟨(1 : Fin 24), { up with queue := [(9, { bound := true, base := 0x20005000, esize := 1, kind := 1, lg := 2, tail := 1 }), (10, { bound := true, base := 0x20006000, tbase := 0x20010000, stride := 16384, kind := 0, tail := 1, lg := 2 })], cap := { str := [(1, { owner := 1, conf := bytesOf 64 [(1, 1, 3), (2, 1, 0x2A), (3, 1, 2), (4, 2, 256), (6, 2, 8), (8, 4, 100000000), (16, 3, 9), (21, 3, 10)], frame := some { num := 4, lines := 8, buf := 1, at_ := 100 } })] } },
     { num := 4, lines := 8, buf := 1, at_ := 100 }, by decide +kernel⟩,
   ⟨(1 : Fin 16), { up with queue := [(9, { bound := true, base := 0x20005000, esize := 1, kind := 1, lg := 2, tail := 1 }), (10, { bound := true, base := 0x20006000, tbase := 0x20010000, stride := 16384, kind := 0, tail := 1, lg := 2 })], cap := { str := [(1, { owner := 1, conf := bytesOf 64 [(1, 1, 3), (2, 1, 0x2A), (3, 1, 2), (4, 2, 256), (6, 2, 8), (8, 4, 100000000), (16, 3, 9), (21, 3, 10)], frame := some { num := 4, lines := 8, buf := 1, at_ := 100 } })] } },
     { num := 4, lines := 8, buf := 1, at_ := 100 }, by decide +kernel⟩⟩

theorem wit_TilesAndTime :
    (∃ (k : Fin 16) (s : State) (f : Frame),
    (getStr s k.val).frame = some f ∧
    f.dropped = false ∧
    cMode (getStr s k.val).conf = 2 ∧
    f.tile + 1 < tileCount (getStr s k.val).conf ∧
    fabricUp s = true ∧
    tileNeeds (getStr s k.val).conf f.tile ≤ f.lines ∧
    freeSlots s (cTileQ (getStr s k.val).conf) < 2) ∧
    (∃ (k : Fin 16) (s : State) (f : Frame),
    (getStr s k.val).frame = some f ∧
    f.dropped = false ∧
    cMode (getStr s k.val).conf = 2 ∧
    f.tile + 1 < tileCount (getStr s k.val).conf ∧
    fabricUp s = true ∧
    tileNeeds (getStr s k.val).conf f.tile ≤ f.lines ∧
    2 ≤ freeSlots s (cTileQ (getStr s k.val).conf) ∧
    (getQ s (cTileQ (getStr s k.val).conf)).bufAddr (getQ s (cTileQ (getStr s k.val).conf)).tail + 16384 ≤ 0x1000000000 ∧
    (busWrite (strIni s k.val) ((getQ s (cTileQ (getStr s k.val).conf)).bufAddr (getQ s (cTileQ (getStr s k.val).conf)).tail) (tileData s k.val f) s).2 = stOK) :=
  ⟨⟨1, { up with queue := [(9, { bound := true, base := 0x20005000, esize := 1, kind := 1, lg := 2, tail := 3 }), (10, { bound := true, base := 0x20006000, tbase := 0x20010000, stride := 16384, kind := 0, tail := 3, lg := 2 })], cap := { str := [(1, { owner := 1, conf := bytesOf 64 [(1, 1, 3), (2, 1, 0x2A), (3, 1, 2), (4, 2, 256), (6, 2, 8), (8, 4, 100000000), (16, 3, 9), (21, 3, 10)], frame := some { num := 4, lines := 8, buf := 1, at_ := 100 } })] } },
    { num := 4, lines := 8, buf := 1, at_ := 100 }, by decide +kernel⟩,
   ⟨1, tileState, { num := 4, lines := 8 }, by decide +kernel, by decide +kernel, by decide +kernel, by decide +kernel, by decide +kernel,
     by decide +kernel, by decide +kernel, by decide +kernel, tile_written⟩⟩

theorem wit_FusionEngine :
    (∃ (s : State),
    fusOn s = true ∧
    (getFus s).wait = none ∧
    (getQ s (fMeas (getFus s).conf)).bound = true ∧
    (getQ s (fMeas (getFus s).conf)).len ≠ 0) ∧
    (∃ (s : State),
    fusOn s = true ∧
    fEgoOff (getFus s).conf = false ∧
    msUnits 200 ≤ ktSince s (getFus s).regAt ∧
    (getFus s).degraded = false) ∧
    (∃ (s : State) (b : Batch) (rest : List Batch) (n : BitVec 8),
    (getFus s).closed = b :: rest ∧
    b.sensor = n.toNat ∧
    fusOn s = true ∧
    (getFus s).wait = none ∧
    (fLate (getFus s).conf : Int) < timeDiff s.ktime b.time) ∧
    (∃ (s : State) (b : Batch) (rest : List Batch) (n : BitVec 8),
    (getFus s).closed = b :: rest ∧
    b.sensor = n.toNat ∧
    fusOn s = true ∧
    (getFus s).wait = none ∧
    timeDiff s.ktime b.time < -(msUnits 10 : Int)) ∧
    (∃ (s : State) (b : Batch) (rest : List Batch) (n : BitVec 8),
    (getFus s).closed = b :: rest ∧
    b.sensor = n.toNat ∧
    fusOn s = true ∧
    (getFus s).wait = none ∧
    timeDiff s.ktime b.time ≤ (fLate (getFus s).conf : Int) ∧
    -(msUnits 10 : Int) ≤ timeDiff s.ktime b.time ∧
    fEgoOff (getFus s).conf = true ∧
    (b.recs.any mTracks) = true ∧
    (∀ r ∈ b.recs, mKind r ≠ 2)) ∧
    (∃ (s : State) (l : FusList),
    (getFus s).wait = some l ∧
    fusOn s = true ∧
    (getQ s (fOut (getFus s).conf)).bound = true ∧
    2 ≤ freeSlots s (fOut (getFus s).conf) ∧
    (getFus s).closing = none ∧
    listAt s + (listBytes s l).length ≤ 0x1000000000 ∧
    (busWrite .fusion (listAt s) (listBytes s l) s).2 = stOK) :=
  ⟨⟨{ memWrite up 0x20005000 (bytesOf 64 [(0, 1, 1), (8, 8, 999000)]) with queue := [(9, { bound := true, base := 0x20005000, lg := 2, esize := 2, kind := 1, tail := 1 }), (10, { bound := true, base := 0x20006000, lg := 2, esize := 1, kind := 1, tail := 1 })], cap := { fus := { owner := 1, conf := bytesOf 64 [(0, 4, 9), (4, 4, 10), (8, 6, 0x20010000), (16, 4, 4096)], xf := [(0, bytesOf 128 [(84, 1, 1)])] } } },
    by decide +kernel⟩,
   ⟨{ { memWrite up 0x20005000 [] with queue := [(9, { bound := true, base := 0x20005000, lg := 2, esize := 2, kind := 1, tail := 1 }), (10, { bound := true, base := 0x20006000, lg := 2, esize := 1, kind := 1, tail := 1 })], cap := { fus := { owner := 1, conf := bytesOf 64 [(0, 4, 9), (4, 4, 10), (8, 6, 0x20010000), (16, 4, 4096)] } } } with ktime := 30000000 },
     by decide +kernel⟩,
   ⟨{ { memWrite up 0x20005000 [] with queue := [(9, { bound := true, base := 0x20005000, lg := 2, esize := 2, kind := 1, tail := 1 }), (10, { bound := true, base := 0x20006000, lg := 2, esize := 1, kind := 1, tail := 1 })], cap := { fus := { owner := 1, conf := bytesOf 64 [(0, 4, 9), (4, 4, 10), (8, 6, 0x20010000), (16, 4, 4096)], closed := [{ sensor := 2, time := 1000000, recs := [bytesOf 64 [(0, 1, 1)]] }] } } } with ktime := 30000000 },
     { sensor := 2, time := 1000000, recs := [bytesOf 64 [(0, 1, 1)]] }, [], 2, by decide +kernel⟩,
   ⟨{ { memWrite up 0x20005000 [] with queue := [(9, { bound := true, base := 0x20005000, lg := 2, esize := 2, kind := 1, tail := 1 }), (10, { bound := true, base := 0x20006000, lg := 2, esize := 1, kind := 1, tail := 1 })], cap := { fus := { owner := 1, conf := bytesOf 64 [(0, 4, 9), (4, 4, 10), (8, 6, 0x20010000), (16, 4, 4096)], closed := [{ sensor := 2, time := 40000000, recs := [bytesOf 64 [(0, 1, 1)]] }] } } } with ktime := 30000000 },
     { sensor := 2, time := 40000000, recs := [bytesOf 64 [(0, 1, 1)]] }, [], 2, by decide +kernel⟩,
   ⟨{ { memWrite up 0x20005000 [] with queue := [(9, { bound := true, base := 0x20005000, lg := 2, esize := 2, kind := 1, tail := 1 }), (10, { bound := true, base := 0x20006000, lg := 2, esize := 1, kind := 1, tail := 1 })], cap := { fus := { owner := 1, conf := bytesOf 64 [(0, 4, 9), (4, 4, 10), (8, 6, 0x20010000), (16, 4, 4096), (29, 1, 1)], closed := [{ sensor := 2, time := 29999000, recs := [bytesOf 64 [(0, 1, 1)]] }] } } } with ktime := 30000000 },
     { sensor := 2, time := 29999000, recs := [bytesOf 64 [(0, 1, 1)]] }, [], 2, by decide +kernel⟩,
   ⟨{ memWrite up 0x20005000 [] with queue := [(9, { bound := true, base := 0x20005000, lg := 2, esize := 2, kind := 1, tail := 1 }), (10, { bound := true, base := 0x20006000, lg := 2, esize := 1, kind := 1, tail := 1 })], cap := { fus := { owner := 1, conf := bytesOf 64 [(0, 4, 9), (4, 4, 10), (8, 6, 0x20010000), (16, 4, 4096), (29, 1, 1)], wait := some { time := 999000, sensor := 2, gen := 3 } } } },
     { time := 999000, sensor := 2, gen := 3 }, by decide +kernel⟩⟩

theorem wit_StrainerRules :
    (∃ (c : Fin 8) (s : State),
    fabricUp s = true ∧
    (getCg s c.val).reqs = []) ∧
    (∃ (c : Fin 8) (s : State) (q : SReq),
    fabricUp s = true ∧
    (getCg s c.val).reqs.find? (fun x => decide (x.cls = .rt)) = some q ∧
    2 ≤ min 64 ((getCg s c.val).budget + 1)) ∧
    (∃ (c : Fin 8) (s : State) (q : SReq),
    fabricUp s = true ∧
    (∀ x ∈ (getCg s c.val).reqs, x.cls ≠ .rt) ∧
    (getCg s c.val).reqs.find? (fun x => decide (x.cls = .be)) = some q ∧
    32 ≤ (getCg s c.val).beAge) :=
  ⟨⟨2, up, by decide +kernel⟩,
   ⟨2, { up with mem := { up.mem with cg := [(2, { budget := 5, beAge := 40, reqs := [{ cls := .rt, ord := 3 }] })] } }, { cls := .rt, ord := 3 },
     by decide +kernel⟩,
   ⟨2, { up with mem := { up.mem with cg := [(2, { budget := 5, beAge := 40, reqs := [{ cls := .be, ord := 3 }] })] } }, { cls := .be, ord := 3 },
     by decide +kernel⟩⟩

theorem wit_MemoryUpkeep :
    (∃ (c : Fin 8) (line : Nat) (s : State),
    dramOn s = true ∧
    line < cgBytes s / 64 ∧
    tget s.mem.lineErr (c.val * (cgBytes s / 64) + line) = 0 ∧
    tget s.mem.linkErr (c.val * 4 + line % 4) = 0) ∧
    (∃ (c : Fin 8) (line : Nat) (s : State),
    dramOn s = true ∧
    line < cgBytes s / 64 ∧
    tget s.mem.lineErr (c.val * (cgBytes s / 64) + line) = 0 ∧
    tget s.mem.linkErr (c.val * 4 + line % 4) = 1) ∧
    (∃ (c : Fin 8) (line : Nat) (s : State),
    dramOn s = true ∧
    line < cgBytes s / 64 ∧
    tget s.mem.lineErr (c.val * (cgBytes s / 64) + line) = 1 ∧
    tget s.mem.linkErr (c.val * 4 + line % 4) = 0) ∧
    (∃ (c : Fin 8) (line : Nat) (s : State),
    dramOn s = true ∧
    line < cgBytes s / 64 ∧
    2 ≤ tget s.mem.lineErr (c.val * (cgBytes s / 64) + line) ∧
    tget s.mem.linkErr (c.val * 4 + line % 4) = 0) ∧
    (∃ (c : Fin 8) (ch : Fin 4) (s : State),
    dramOn s = true ∧
    bitOf (getCg s c.val).failed ch.val = false) ∧
    (∃ (p : Party) (s : State) (o : CacheOp),
    s.mem.ops.find? (fun x => decide (x.pend.party = pidx p)) = some o ∧
    fabricUp s = true) ∧
    (∃ (g : Nat) (s : State),
    fabricUp s = true ∧
    s.mem.zeroing.find? (fun x => decide (cgOf s (x * 0x4000000) = cgOf s (g * 0x4000000))) = some g) :=
  ⟨⟨0, 5, upD, by decide +kernel⟩,
   ⟨0, 5, { upD with mem := { upD.mem with linkErr := [(1, 1)] } }, by decide +kernel⟩,
   ⟨0, 5, { upD with mem := { upD.mem with lineErr := [(5, 1)] } }, by decide +kernel⟩,
   ⟨0, 5, { upD with mem := { upD.mem with lineErr := [(5, 2)] } }, by decide +kernel⟩,
   ⟨2, 1, upD, by decide +kernel⟩,
   ⟨.g 0, { upD with mem := { upD.mem with ops := [{ pend := { party := 0, tag := 7, msg := 0x0402 }, lo := 0x800040, n := 4 }], cache := [(1, { line := 0x800041, dirty := true })] } },
     { pend := { party := 0, tag := 7, msg := 0x0402 }, lo := 0x800040, n := 4 }, by decide +kernel⟩,
   ⟨8, { upD with mem := { upD.mem with zeroing := [8] } }, by decide +kernel⟩⟩

theorem wit_FirmwareActivation :
    (∃ (s : State),
    s.firm.act = .asked ∧
    s.jobs.recovery = 0 ∧
    killNear s = false ∧
    s.safe.kettleFault = false ∧
    s.pw.supplied = true) ∧
    (∃ (s : State),
    s.firm.act = .open_ ∧
    windowTime s < 2000000) ∧
    (∃ (s : State),
    s.firm.act = .open_ ∧
    2000000 ≤ windowTime s) ∧
    (∃ (s : State) (d : Pend) (x : Slot) (v : Nat × Nat),
    s.firm.staging = some (d, x, v) ∧
    v.1 = stOK) ∧
    (∃ (s : State) (d : Pend) (x : Slot) (v : Nat × Nat),
    s.firm.staging = some (d, x, v) ∧
    v.1 ≠ stOK) ∧
    (∃ (s : State) (d : Pend) (x : Slot) (v : Nat × Nat),
    s.firm.staging = some (d, x, v) ∧
    v.1 = stOK) ∧
    (∃ (s : State),
    s.firm.deriving_ = true) :=
  ⟨⟨{ up with firm := { up.firm with act := .asked, actFlags := 3, openedAt := 0, actPend := { party := 16, tag := 9, msg := 0x0B01 } } },
    by decide +kernel⟩,
   ⟨{ up with firm := { up.firm with act := .open_, actFlags := 3, openedAt := 999000, actPend := { party := 16, tag := 9, msg := 0x0B01 } } },
     by decide +kernel⟩,
   ⟨{ { up with firm := { up.firm with act := .open_, actFlags := 3, openedAt := 1000, actPend := { party := 16, tag := 9, msg := 0x0B01 } } } with ktime := 3000000 },
     by decide +kernel⟩,
   ⟨{ up with firm := { up.firm with staging := some ({ party := 16, tag := 9, msg := 0x0B00 }, { full := true, release := 5, afi := 0x0400 }, (0, 0)) } },
     { party := 16, tag := 9, msg := 0x0B00 }, { full := true, release := 5, afi := 0x0400 }, (0, 0), by decide +kernel⟩,
   ⟨{ up with firm := { up.firm with staging := some ({ party := 16, tag := 9, msg := 0x0B00 }, { full := true, release := 5, afi := 0x0400 }, (4, 9)) } },
     { party := 16, tag := 9, msg := 0x0B00 }, { full := true, release := 5, afi := 0x0400 }, (4, 9), by decide +kernel⟩,
   ⟨{ up with firm := { up.firm with staging := some ({ party := 16, tag := 9, msg := 0x0B00 }, { full := true, release := 5, afi := 0x0400 }, (0, 0)) } },
     { party := 16, tag := 9, msg := 0x0B00 }, { full := true, release := 5, afi := 0x0400 }, (0, 0), by decide +kernel⟩,
   ⟨{ up with firm := { up.firm with deriving_ := true } }, by decide +kernel⟩⟩

theorem wit_TemplatesAndAlarms :
    (∃ (p : Party) (s : State) (d : Pend) (a : Nat) (n : Nat) (rest : List (Pend × Nat × Nat)),
    (getParty s (pidx p)).loading = (d, a, n) :: rest ∧
    d.party = pidx p ∧
    admitting s = true ∧
    tmplBad (memRead s a n) n = none ∧
    (tmplsOf s (pidx p)).length < 256) ∧
    (∃ (p : Party) (s : State) (d : Pend) (a : Nat) (n : Nat) (o : Nat) (rest : List (Pend × Nat × Nat)),
    (getParty s (pidx p)).loading = (d, a, n) :: rest ∧
    admitting s = true ∧
    tmplBad (memRead s a n) n = some o) ∧
    (∃ (p : Party) (s : State),
    (getParty s (pidx p)).alarm.set = true ∧
    (getParty s (pidx p)).alarm.time ≤ s.ktime ∧
    s.pw.supplied = true ∧
    (s.pw.st = .run ∨ s.pw.st = .hush ∧ s.pw.parking = 0 ∧ s.pw.thermalDoze = false ∧ s.pw.forced = false)) :=
  ⟨⟨.g 0, modParty ({ memWrite up 0x20010000 img1 with jobs := {} }) 0 fun t => { t with loading := [({ party := 0, tag := 7, msg := 0x0102 }, 0x20010000, 180)] },
    { party := 0, tag := 7, msg := 0x0102 }, 0x20010000, 180, [], by decide +kernel⟩,
   ⟨.g 0, modParty (memWrite up 0x20010000 (bytesOf 180 [(0, 4,
     0x4E545A31)])) 0 fun t => { t with loading := [({ party := 0, tag := 7, msg := 0x0102 }, 0x20010000, 180)] },
     { party := 0, tag := 7, msg := 0x0102 }, 0x20010000, 180, 4, [], by decide +kernel⟩,
   ⟨.g 0, modParty { up with pw := { up.pw with st := .hush } } 0 fun t => { t with alarm := { set := true, time := 900000, tag := 8 } },
     by decide +kernel⟩⟩

theorem wit_WorldsAndAttestation :
    (∃ (c : Fin 4) (s : State),
    awake s = true ∧
    bitOf s.world.changing c.val = true) ∧
    (∃ (c : Fin 4) (s : State),
    awake s = true ∧
    bitOf s.world.changing c.val = false) ∧
    (∃ (c : Fin 4) (s : State),
    awake s = true ∧
    bitOf s.world.changing c.val = true ∧
    10000000 ≤ ktSince s s.world.changeAt) ∧
    (∃ (s : State) (wipe : Bool) (a : Nat) (n : Nat) (d : Pend),
    s.world.restart = some (wipe, a, n, d) ∧
    s.safe.kettleFault = false ∧
    s.firm.act ≠ .open_ ∧
    awake s = true) ∧
    (∃ (s : State) (wipe : Bool) (a : Nat) (n : Nat) (d : Pend),
    s.world.restart = some (wipe, a, n, d) ∧
    s.safe.kettleFault = false ∧
    s.firm.act ≠ .open_ ∧
    awake s = true ∧
    a ≠ 0) ∧
    (∃ (s : State) (d : Pend) (a : Nat) (nonce : List Byte) (rest : List (Pend × Nat × List Byte)),
    s.firm.attest = (d, a, nonce) :: rest ∧
    s.firm.act ≠ .open_ ∧
    s.safe.kettleFault = false ∧
    awake s = true ∧
    inGrantNoPool s d.party a 17120 = true) ∧
    (∃ (s : State) (d : Pend) (a : Nat) (nonce : List Byte) (rest : List (Pend × Nat × List Byte)),
    s.firm.attest = (d, a, nonce) :: rest ∧
    s.firm.act ≠ .open_ ∧
    s.safe.kettleFault = false ∧
    awake s = true ∧
    inGrantNoPool s d.party a 17120 = false) :=
  ⟨⟨1, { up with world := { up.world with changing := 2, target := 2 } }, by decide +kernel⟩,
   ⟨1, { up with world := { up.world with changing := 0 } }, by decide +kernel⟩,
   ⟨1, { { up with world := { up.world with changing := 2, target := 2, changeAt := 500 } } with ktime := 11000000 }, by decide +kernel⟩,
   ⟨{ up with world := { up.world with restart := some (true, 0, 0, { party := 17, tag := 7, msg := 0x0803 }), gsClosed := true } }, true, 0, 0,
     { party := 17, tag := 7, msg := 0x0803 }, by decide +kernel⟩,
   ⟨{ up with world := { up.world with restart := some (true, 0x20010000, 256, { party := 17, tag := 7, msg := 0x0803 }), gsClosed := true } }, true,
     0x20010000, 256, { party := 17, tag := 7, msg := 0x0803 }, by decide +kernel⟩,
   ⟨{ up with firm := { up.firm with body := [1, 2, 3], attest := [({ party := 0, tag := 7, msg := 0x0802 }, 0x20010000, [9])] } },
     { party := 0, tag := 7, msg := 0x0802 }, 0x20010000, [9], [], by decide +kernel⟩,
   ⟨{ up with firm := { up.firm with body := [1, 2, 3], attest := [({ party := 0, tag := 7, msg := 0x0802 }, 0x60010000, [9])] } },
     { party := 0, tag := 7, msg := 0x0802 }, 0x60010000, [9], [], by decide +kernel⟩⟩

theorem wit_MessageChecks_open : PlainMsg .afiVersion 0x0001 0 isPartyGx ∧ ∃ (m : Msg) (s : State), served (pidx m.sender) s = true ∧
    s.firm.act = .open_ :=
  ⟨.inl ⟨rfl, rfl, rfl, rfl⟩, msg (.g 0) [], rings 0 ({ up with firm := { up.firm with act := .open_ } }), by decide +kernel⟩

theorem wit_MessageChecks_length : PlainMsg .afiVersion 0x0001 0 isPartyGx ∧ ∃ (m : Msg) (s : State), served (pidx m.sender) s = true ∧
    s.firm.act ≠ .open_ ∧ s.boot.ready = true ∧ m.payload.length = m.length.toNat ∧ m.length.toNat ≠ 0 :=
  ⟨.inl ⟨rfl, rfl, rfl, rfl⟩, msg (.g 0) [1], rings 0 (up), by decide +kernel⟩

theorem wit_MessageChecks_truncated : PlainMsg .afiVersion 0x0001 0 isPartyGx ∧ ∃ (m : Msg) (s : State), served (pidx m.sender) s = true ∧
    s.firm.act ≠ .open_ ∧ s.boot.ready = true ∧ m.payload.length ≠ m.length.toNat :=
  ⟨.inl ⟨rfl, rfl, rfl, rfl⟩, { msg (.g 0) [] with payload := [1] }, rings 0 (up), by decide +kernel⟩

theorem wit_MessageChecks_status : PlainMsg .afiVersion 0x0001 0 isPartyGx ∧ ∃ (m : Msg) (s : State), served (pidx m.sender) s = true ∧
    s.firm.act ≠ .open_ ∧ s.boot.ready = true ∧ m.length.toNat = 0 ∧ m.payload = [] ∧ m.status ≠ 0 :=
  ⟨.inl ⟨rfl, rfl, rfl, rfl⟩, { msg (.g 0) [] with status := 1 }, rings 0 (up), by decide +kernel⟩

theorem wit_MessageChecks_flags : PlainMsg .afiVersion 0x0001 0 isPartyGx ∧ ∃ (m : Msg) (s : State), served (pidx m.sender) s = true ∧
    s.firm.act ≠ .open_ ∧ s.boot.ready = true ∧ m.length.toNat = 0 ∧ m.payload = [] ∧ m.status = 0 ∧ m.flags ≠ 0 :=
  ⟨.inl ⟨rfl, rfl, rfl, rfl⟩, { msg (.g 0) [] with flags := 1 }, rings 0 (up), by decide +kernel⟩

theorem wit_MessageChecks_detail : PlainMsg .afiVersion 0x0001 0 isPartyGx ∧ ∃ (m : Msg) (s : State), served (pidx m.sender) s = true ∧
    s.firm.act ≠ .open_ ∧ s.boot.ready = true ∧ m.length.toNat = 0 ∧ m.payload = [] ∧ m.status = 0 ∧ m.flags = 0 ∧ m.detail ≠ 0 :=
  ⟨.inl ⟨rfl, rfl, rfl, rfl⟩, { msg (.g 0) [] with detail := 1 }, rings 0 (up), by decide +kernel⟩

theorem wit_MessageChecks_reserved : PlainMsg .afiVersion 0x0001 0 isPartyGx ∧ ∃ (m : Msg) (s : State), served (pidx m.sender) s = true ∧
    s.firm.act ≠ .open_ ∧ s.boot.ready = true ∧ m.length.toNat = 0 ∧ m.payload = [] ∧ m.status = 0 ∧ m.flags = 0 ∧ m.detail = 0 ∧ m.rsv ≠ 0 :=
  ⟨.inl ⟨rfl, rfl, rfl, rfl⟩, { msg (.g 0) [] with rsv := 1 }, rings 0 (up), by decide +kernel⟩

theorem wit_MessageChecks_sender : PlainMsg .powerLimitSet 0x0301 4 isGs ∧ ∃ (m : Msg) (s : State), served (pidx m.sender) s = true ∧
    s.firm.act ≠ .open_ ∧ s.boot.ready = true ∧ m.length.toNat = 4 ∧ m.payload.length = 4 ∧ m.status = 0 ∧ m.flags = 0 ∧ m.detail = 0 ∧ m.rsv = 0 ∧
      isGs (pidx m.sender) = false :=
  ⟨.inr (.inr (.inr (.inr (.inl ⟨rfl, rfl, rfl, rfl⟩)))), msg (.g 0) [0, 0, 0, 0], rings 0 (up), by decide +kernel⟩

theorem wit_MessageChecks_frozen : PlainMsg .irqRoute 0x0003 16 isParty ∧ ∃ (m : Msg) (s : State), served (pidx m.sender) s = true ∧
    s.firm.act ≠ .open_ ∧ s.boot.ready = true ∧ m.length.toNat = 16 ∧ m.payload.length = 16 ∧ m.status = 0 ∧ m.flags = 0 ∧ m.detail = 0 ∧ m.rsv = 0 ∧
      isParty (pidx m.sender) = true ∧ (getParty s (pidx m.sender)).frozen ≠ 0 ∧ frozenMsg 3 = false :=
  ⟨.inr (.inl ⟨rfl, rfl, rfl, rfl⟩), msg (.g 0) (bytesOf 16 []), rings 0 (modParty up 0 fun t => { t with frozen := 2 }), by decide +kernel⟩

/-- A candidate is enough for the placer to find a place. -/
theorem rect_found (cand : List Rect) (h : cand ≠ []) (b : Option Rect) :
    (cand.foldl (fun (b : Option Rect) x => match b with
      | none => some x
      | some y => if x.before y then some x else some y) b).isSome = true := by
  have hs : ∀ (cand : List Rect) (y : Rect), (cand.foldl (fun (b : Option Rect) x => match b with
      | none => some x
      | some y => if x.before y then some x else some y) (some y)).isSome = true := by
    intro cand
    induction cand with
    | nil => intro y; rfl
    | cons x xs ih => intro y; simp only [List.foldl]; split <;> exact ih _
  cases cand with
  | nil => exact absurd rfl h
  | cons x xs =>
    simp only [List.foldl]
    cases b with
    | none => exact hs xs x
    | some y => dsimp only; split <;> exact hs xs _

/-- Leaf 1 is free. -/
theorem place_one (s : State) (h : mayJoin s 16 1 = true) : ∃ ls, placeEst s 16 1 = some ls := by
  apply Option.isSome_iff_exists.mp
  unfold placeEst bestRect
  rw [Option.isSome_map]
  apply rect_found
  apply List.ne_nil_of_mem (a := { area := 1, others := _, sum := 1, pick := [1] })
  refine List.mem_flatMap.mpr ⟨1, by simp, List.mem_flatMap.mpr ⟨0, by simp, List.mem_flatMap.mpr ⟨0, by simp, List.mem_filterMap.mpr ⟨0, by simp,
    ?_⟩⟩⟩⟩
  simp [h]
  rfl

theorem wit_CoreMessages :
    (∃ (m : Msg) (s : State),
    Taken 0x0001 isPartyGx (lenIs 0) m s) ∧
    (∃ (m : Msg) (s : State),
    Taken 0x0002 isParty (lenIs 16) m s ∧
    fld m 0 6 % 8192 = 0 ∧
    fld m 6 2 = 0 ∧
    fld m 12 4 = 0 ∧
    bitsOf (fld m 8 4) 30 18 = 0 ∧
    (fld m 0 6 ≠ 0 → inReq s (pidx m.sender) (fld m 0 6) 8192 = true) ∧
    (bitOf (fld m 8 4) 31 = true → qReq s (pidx m.sender) (fld m 8 4 % 2 ^ 18) = true ∧ (getQ s (fld m 8 4 % 2 ^ 18)).bound = true ∧
      (getQ s (fld m 8 4 % 2 ^ 18)).kind = 1 ∧ (getQ s (fld m 8 4 % 2 ^ 18)).esize = 1 ∧ (getQ s (fld m 8 4 % 2 ^ 18)).prod = 3 ∧
      swEnd (getQ s (fld m 8 4 % 2 ^ 18)).cons = true) ∧
    (getParty s (pidx m.sender)).outstanding = 0) ∧
    (∃ (m : Msg) (s : State),
    Taken 0x0003 isParty (lenIs 16) m s ∧
    firstBad (irqBad m 0 ++ irqBad m 8) = none ∧
    irqDenied s (pidx m.sender) (irqEntry m 0) = false ∧
    irqDenied s (pidx m.sender) (irqEntry m 8) = false) ∧
    (∃ (m : Msg) (s : State),
    Taken 0x0100 isParty (lenIs 40) m s ∧
    fld m 0 4 < 2 ^ 18 ∧
    fld m 4 4 = 0 ∧
    qReq s (pidx m.sender) (fld m 0 4) = true ∧
    firstBad (bindBad m (queueOf m 8)) = none ∧
    ownBytes s (pidx m.sender) (queueOf m 8).base ((queueOf m 8).n * (queueOf m 8).esz) = true ∧
    ((queueOf m 8).kind = 0 → ownBytes s (pidx m.sender) (queueOf m 8).tbase ((queueOf m 8).n * (queueOf m 8).stride) = true) ∧
    queueBusy s (fld m 0 4) = false) ∧
    (∃ (m : Msg) (s : State),
    Taken 0x0101 isParty (lenIs 4) m s ∧
    fld m 0 4 < 2 ^ 18 ∧
    qInGrant s (pidx m.sender) (fld m 0 4) false = true ∧
    (getQ s (fld m 0 4)).bound = true ∧
    queueBusy s (fld m 0 4) = false) ∧
    (∃ (m : Msg) (s : State),
    Taken 0x0102 isParty (lenIs 16) m s ∧
    Room m s ∧
    fld m 6 2 = 0 ∧
    fld m 8 4 ≠ 0 ∧
    fld m 8 4 ≤ 0x4000000 ∧
    fld m 12 4 = 0 ∧
    inReq s (pidx m.sender) (fld m 0 6) (fld m 8 4) = true) ∧
    (∃ (m : Msg) (s : State) (x : Tmpl),
    Taken 0x0103 isParty (lenIs 2) m s ∧
    tmplOf s (pidx m.sender) (fld m 0 2) = some x ∧
    x.freePend = none ∧
    tmplRuns s (pidx m.sender) (fld m 0 2) = false) ∧
    (∃ (m : Msg) (s : State) (x : Tmpl),
    Taken 0x0103 isParty (lenIs 2) m s ∧
    Room m s ∧
    tmplOf s (pidx m.sender) (fld m 0 2) = some x ∧
    x.freePend = none ∧
    tmplRuns s (pidx m.sender) (fld m 0 2) = true) ∧
    (∃ (m : Msg) (s : State),
    Taken 0x0104 isPartyGx (lenIs 8) m s ∧
    fld m 4 1 < 2 ∧
    fld m 5 3 = 0 ∧
    let ls := if fld m 0 1 = 0 then [fld m 2 2] else (getEst s (fld m 1 1)).leaves
    ((fld m 0 1 = 0 ∧ fld m 2 2 < 168 ∧ ((getLeaf s (fld m 2 2)).kind = .enabled ∨ (getLeaf s (fld m 2 2)).kind = .spare) ∧
    (16 ≤ pidx m.sender ∨ ∃ e, estOf s (fld m 2 2) = some e ∧ (getEst s e).party = pidx m.sender)) ∨
    (fld m 0 1 = 1 ∧ fld m 1 1 < 16 ∧ (getEst s (fld m 1 1)).live = true ∧
    (16 ≤ pidx m.sender ∨ (getEst s (fld m 1 1)).party = pidx m.sender)))) ∧
    (∃ (m : Msg) (s : State),
    Taken 0x0105 isGs (lenIs 2) m s ∧
    fld m 0 2 < 168 ∧
    ((getLeaf s (fld m 0 2)).kind = .enabled ∨ (getLeaf s (fld m 0 2)).kind = .spare) ∧
    estOf s (fld m 0 2) = none) :=
  ⟨⟨msg (.g 0) ([]), rings 0 (up), by decide +kernel⟩,
   ⟨msg (.g 0) (bytesOf 16 [(0, 6, 0x20002000), (8, 4, 0x80000009)]),
     rings 0 ({ up with queue := [(9, { bound := true, base := 0x20005000, lg := 2, esize := 1, kind := 1, prod := 3, cons := 1 })] }),
     by decide +kernel⟩,
   ⟨msg (.g 0) (bytesOf 16 [(0, 1, 0x85), (2, 2, 77), (8, 1, 0)]), rings 0 (up), by decide +kernel⟩,
   ⟨msg (.g 0) (bytesOf 40 [(0, 4, 9), (8, 6, 0x20010000), (14, 1, 3), (15, 1, 0x06), (16, 1, 3), (17, 1, 1)]), rings 0 (up), by decide +kernel⟩,
   ⟨msg (.g 0) (bytesOf 4 [(0, 4, 9)]), rings 0 (upS), by decide +kernel⟩,
   ⟨msg (.g 0) (bytesOf 16 [(0, 6, 0x20010000), (8, 4, 180)]), rings 0 (up), by decide +kernel⟩,
   ⟨msg (.g 0) (bytesOf 2 [(0, 2, 1)]), rings 0 ({ up with jobs := { up.jobs with est := [] } }), { party := 0, handle := 1, image := img1 },
     by decide +kernel⟩,
   ⟨msg (.g 0) (bytesOf 2 [(0, 2, 1)]), rings 0 (up), { party := 0, handle := 1, image := img1 }, by decide +kernel⟩,
   ⟨msg (.g 0) (bytesOf 8 [(0, 1, 1), (4, 1, 1)]), rings 0 (modLeaf up 0 fun l => { l with idle := { n := 7, ovf := true } }), by decide +kernel,
     by decide +kernel, by decide +kernel, .inr (by decide +kernel)⟩,
   ⟨msg .gs (bytesOf 2 [(0, 2, 1)]), rings 16 (up), by decide +kernel⟩⟩

theorem wit_GrantEstateAndGuestMessages :
    (∃ (m : Msg) (s : State),
    Taken 0x0200 isGs grantLen m s ∧
    firstBad (grantBad s m (grantOf m)) = none ∧
    grantDenied s (fld m 0 1) (grantOf m) = false ∧
    (getParty s (fld m 0 1)).grantPend = none ∧
    grantShared s (fld m 0 1) (grantOf m) = 0 ∧
    leavesLack s (fld m 0 1) (grantOf m) = 0 ∧
    (getParty s (fld m 0 1)).grant = {} ∧
    estatesOf s (fld m 0 1) = [] ∧
    s.mem.unzeroed = false ∧
    (∀ g ∈ granules (grantOf m).dram, tget s.mem.lastOwner g = 0 ∧ g ∉ s.mem.zeroing) ∧
    (∀ x ∈ s.cross.win, x.2.owner ≠ fld m 0 1)) ∧
    (∃ (m : Msg) (s : State),
    Taken 0x0200 isGs grantLen m s ∧
    firstBad (grantBad s m (grantOf m)) = none ∧
    grantDenied s (fld m 0 1) (grantOf m) = false ∧
    (getParty s (fld m 0 1)).grantPend = none ∧
    grantShared s (fld m 0 1) (grantOf m) ≠ 0) ∧
    (∃ (m : Msg) (s : State) (ls : List Nat) (e : Nat),
    Taken 0x0201 isParty (lenIs 32) m s ∧
    fld m 0 1 = 0xFF ∧
    (descOf m).secure = false ∧
    firstBad (descBad s (pidx m.sender) m (descOf m)) = none ∧
    descDenied s (pidx m.sender) (descOf m) = false ∧
    estLack s (pidx m.sender) 16 (descOf m).leaves = 0 ∧
    (estatesOf s (pidx m.sender)).length < (reqGrant s (pidx m.sender)).estates ∧
    placeEst s 16 (descOf m).leaves = some ls ∧
    (List.range 16).find? (fun x => !(getEst s x).live) = some e) ∧
    (∃ (m : Msg) (s : State),
    Taken 0x0201 isParty (lenIs 32) m s ∧
    Room m s ∧
    fld m 0 1 < 16 ∧
    (getEst s (fld m 0 1)).live = true ∧
    (getEst s (fld m 0 1)).party = pidx m.sender ∧
    (descOf m).secure = false ∧
    (getEst s (fld m 0 1)).desc.secure = false ∧
    firstBad (descBad s (pidx m.sender) m (descOf m)) = none ∧
    descDenied s (pidx m.sender) (descOf m) = false ∧
    estLack s (pidx m.sender) (fld m 0 1) (descOf m).leaves = 0 ∧
    ((descOf m).leaves = (getEst s (fld m 0 1)).leaves.length ∨ placeLack s (fld m 0 1) (descOf m).leaves = 0) ∧
    estBusy s (fld m 0 1) = false ∧
    boundary s (fld m 0 1) = false) ∧
    (∃ (m : Msg) (s : State),
    Taken 0x0202 isParty (lenIs 4) m s ∧
    fld m 0 1 < 16 ∧
    (getEst s (fld m 0 1)).party = pidx m.sender ∧
    fld m 1 3 = 0 ∧
    estBusy s (fld m 0 1) = false ∧
    boundary s (fld m 0 1) = true) ∧
    (∃ (m : Msg) (s : State),
    GuestTaken m s ∧
    (∀ p < 16, (getParty s p).frozen = 0 ∧ partyRuns s p = false)) ∧
    (∃ (m : Msg) (s : State),
    GuestTaken m s ∧
    (∀ p < 16, (getParty s p).frozen = 2)) ∧
    (∃ (m : Msg) (s : State),
    GuestTaken m s ∧
    (∀ p < 16, (getParty s p).frozen = 2)) ∧
    (∃ (m : Msg) (s : State),
    GuestTaken m s) :=
  ⟨⟨msg .gs (bytesOf 32 [(0, 1, 1), (2, 2, 2), (4, 1, 2), (5, 1, 1), (6, 2, 0xFF00), (8, 2, 8), (10, 2, 1), (12, 2, 1), (16, 2, 5), (24, 2, 130), (26,
    2, 2)]), rings 16 ({ up with party := [(0, { grant := { grant0 with leaves := 0 } }), (16, { grant := { grantS with leaves := 0 } })] }),
    by decide +kernel⟩,
   ⟨msg .gs (bytesOf 32 [(0, 1, 1), (2, 2, 2), (4, 1, 3), (5, 1, 1), (6, 2, 0xFF00), (8, 2, 8), (10, 2, 1), (12, 2, 1), (16, 2, 5), (24, 2, 130), (26,
     2, 2)]), rings 16 (up), by decide +kernel⟩,
   (by
  obtain ⟨ls, h⟩ := place_one (rings 0 up) (by decide +kernel)
  exact ⟨msg (.g 0) (bytesOf 32 [(0, 1, 0xFF), (2, 2, 1), (4, 1, 1), (6, 2, 0xFF)]), rings 0 up, ls, 1, by decide +kernel, by decide +kernel,
    by decide +kernel, by decide +kernel, by decide +kernel, by decide +kernel, by decide +kernel, h,
    by decide +kernel⟩),
   ⟨msg (.g 0) (bytesOf 32 [(0, 1, 0), (2, 2, 1), (4, 1, 1), (6, 2, 0xFF)]), rings 0 (up), by decide +kernel⟩,
   ⟨msg (.g 0) (bytesOf 4 [(0, 1, 0)]), rings 0 (modEst up 0 fun x => { x with job := none }), by decide +kernel⟩,
   ⟨msg .gs ([]), rings 16 ({ up with jobs := {} }), by decide +kernel⟩,
   ⟨msg .gs ([]), rings 16 ({ up with party := (List.range 16).map (fun p => (p, { frozen := 2 })) ++ [(16, { grant := grantS })] }),
     by decide +kernel⟩,
   ⟨msg .gs ([]), rings 16 ({ up with party := (List.range 16).map (fun p => (p, { frozen := 2 })) ++ [(16, { grant := grantS })] }),
     by decide +kernel⟩,
   ⟨msg .gs ([]), rings 16 (up), by decide +kernel⟩⟩

theorem wit_PowerMessages :
    (∃ (m : Msg) (s : State),
    Taken 0x0300 isPartyGx (lenIs 8) m s ∧
    (fld m 0 1 = 0 ∨ fld m 0 1 = 2 ∨ fld m 0 1 = 3 ∨ fld m 0 1 = 4) ∧
    fld m 1 1 < 4 ∧
    (2 ≤ fld m 1 1 → pidx m.sender = 17) ∧
    (fld m 2 1 = 0 ∨ (fld m 2 1 ∈ tclkSteps ∧ s.part.floor ≤ fld m 2 1)) ∧
    fld m 3 5 = 0) ∧
    (∃ (m : Msg) (s : State),
    Taken 0x0301 isGs (lenIs 4) m s ∧
    (fld m 0 2 = 0 ∨ (fld m 0 2 ≤ fusedCap s ∧ fusedCap s ≤ 2 * fld m 0 2)) ∧
    (fld m 2 1 = 0 ∨ (95 ≤ fld m 2 1 ∧ fld m 2 1 ≤ 115)) ∧
    fld m 3 1 = 0) ∧
    (∃ (m : Msg) (s : State),
    Taken 0x0302 isParty (fun m => decide (8 ≤ m.length.toNat) && (decide (m.length.toNat = 8 + 8 * fld m 0 1) || decide (16 < fld m 0 1))) m s ∧
    fld m 0 1 ≤ 16 ∧
    fld m 1 7 = 0 ∧
    (∀ k ∈ keepList m, k.addr % 0x200000 = 0 ∧ inReq s (pidx m.sender) k.addr (k.units * 0x200000) = true ∧
      inKept s k.addr (k.units * 0x200000) = true) ∧
    keptUnits s (pidx m.sender) + ((keepList m).map (·.units)).sum ≤ 1920) ∧
    (∃ (m : Msg) (s : State),
    Taken 0x0303 isParty (lenIs 16) m s ∧
    (getParty s (pidx m.sender)).noticeOn = true ∧
    fld m 8 1 < 2 ∧
    fld m 9 7 = 0) ∧
    (∃ (m : Msg) (s : State),
    Taken 0x0304 isParty (lenIs 8) m s ∧
    (fld m 0 1 ∈ [1, 4, 5, 6, 7, 9, 10]) ∧
    blockRange (fld m 0 1) (fld m 1 2) = true ∧
    blockOwner s (fld m 0 1) (fld m 1 2) = pidx m.sender + 1 ∧
    fld m 3 1 < 2 ∧
    fld m 4 4 = 0 ∧
    (fld m 0 1 = 1 → fld m 3 1 = 1 → bitOf s.world.stopped (fld m 1 2) = true)) ∧
    (∃ (m : Msg) (s : State),
    Taken 0x0304 isParty (lenIs 8) m s ∧
    (fld m 0 1 ∈ [1, 4, 5, 6, 7, 9, 10]) ∧
    blockRange (fld m 0 1) (fld m 1 2) = true ∧
    blockOwner s (fld m 0 1) (fld m 1 2) = pidx m.sender + 1 ∧
    fld m 3 1 = 2 ∧
    fld m 4 4 = 0 ∧
    (fld m 0 1 = 1 → bitOf s.world.stopped (fld m 1 2) = true)) ∧
    (∃ (m : Msg) (s : State),
    Taken 0x0304 isParty (lenIs 8) m s ∧
    (fld m 0 1 ∈ [1, 4, 5, 6, 7]) ∧
    blockRange (fld m 0 1) (fld m 1 2) = true ∧
    blockOwner s (fld m 0 1) (fld m 1 2) = 17 ∧
    pidx m.sender ≠ 16 ∧
    (fld m 3 1 = 1 ∨ fld m 3 1 = 2)) ∧
    (∃ (m : Msg) (s : State),
    Taken 0x0305 isParty (lenIs 16) m s ∧
    fld m 0 1 < 2 ∧
    fld m 1 7 = 0 ∧
    fld m 8 8 % 4 = 0 ∧
    (if fld m 0 1 = 1 then pidx m.sender = 16 ∧ (fld m 8 8 = 0 ∨ (fld m 8 8 < s.world.swm * 0x4000000 ∧
      inReq s 16 (fld m 8 8) 4 = true)) else pidx m.sender = s.world.nwParty ∧ (fld m 8 8 = 0 ∨ (s.world.swm * 0x4000000 ≤ fld m 8 8 ∧
      fld m 8 8 + 4 ≤ dramEnd s ∧ inGrant s 16 (fld m 8 8) 4 = false)))) :=
  ⟨⟨msg (.g 0) (bytesOf 8 [(0, 1, 2), (2, 1, 12)]), rings 0 (up), by decide +kernel⟩,
   ⟨msg .gs (bytesOf 4 [(0, 2, 120), (2, 1, 100)]), rings 16 (up), by decide +kernel⟩,
   ⟨msg .gs (bytesOf 16 [(0, 1, 1), (8, 6, 0x10000000), (14, 2, 3)]), rings 16 (up), by decide +kernel⟩,
   ⟨msg (.g 0) (bytesOf 16 [(0, 8, 2000000), (8, 1, 1)]), rings 0 (modParty upS 0 fun t => { t with noticeOn := true, notice := 9 }),
     by decide +kernel⟩,
   ⟨msg (.g 0) (bytesOf 8 [(0, 1, 4), (1, 2, 2), (3, 1, 1)]), rings 0 ({ up with media := { pipe := [(2, { owner := 1 })] } }), by decide +kernel⟩,
   ⟨msg (.g 0) (bytesOf 8 [(0, 1, 4), (1, 2, 2), (3, 1, 2)]), rings 0 ({ up with media := { pipe := [(2, { owner := 1 })] } }), by decide +kernel⟩,
   ⟨msg (.g 0) (bytesOf 8 [(0, 1, 4), (1, 2, 2), (3, 1, 2)]), rings 0 ({ up with media := { pipe := [(2, { owner := 17 })] } }), by decide +kernel⟩,
   ⟨msg (.g 0) (bytesOf 16 [(0, 1, 0), (8, 8, 0x30000000)]), rings 0 (up), by decide +kernel⟩⟩

theorem wit_MemoryMessages :
    (∃ (m : Msg) (s : State),
    Taken 0x0400 isParty (lenIs 4) m s ∧
    fld m 2 2 = 0 ∧
    fld m 0 2 &&& (reqGrant s (pidx m.sender)).ways = fld m 0 2) ∧
    (∃ (m : Msg) (s : State),
    Taken 0x0401 isParty (lenIs 24) m s ∧
    Room m s ∧
    fld m 0 1 < 4 ∧
    fld m 1 1 = 0 ∧
    fld m 4 4 = 0 ∧
    fld m 14 2 = 0 ∧
    (if bitOf (fld m 0 1) 1 then fld m 8 6 = 0 ∧ fld m 16 8 = 0 ∧ fld m 2 2 &&& (reqGrant s (pidx m.sender)).ways = fld m 2 2 else fld m 2 2 = 0 ∧
      fld m 8 6 % 64 = 0 ∧ fld m 16 8 % 64 = 0 ∧ fld m 16 8 ≠ 0 ∧ fld m 8 6 + fld m 16 8 ≤ dramEnd s ∧
      inRanges (reqGrant s (pidx m.sender)).dram (fld m 8 6) (fld m 16 8) (fun _ => true) = true)) ∧
    (∃ (m : Msg) (s : State),
    Taken 0x0402 isParty (lenIs 16) m s ∧
    fld m 0 1 ≤ 15 ∧
    bitOf (reqGrant s (pidx m.sender)).ranges (fld m 0 1) = true ∧
    fld m 1 1 < 4 ∧
    fld m 2 1 < 2 ∧
    fld m 3 1 = 0 ∧
    fld m 6 2 ≠ 0 ∧
    fld m 12 4 = 0 ∧
    (if fld m 1 1 = 1 then 20 ≤ fld m 8 4 ∧ fld m 8 4 ≤ 10000 else fld m 8 4 = 0) ∧
    inRanges (reqGrant s (pidx m.sender)).dram (fld m 4 2 * 0x4000000) (fld m 6 2 * 0x4000000) (fun _ => true) = true) ∧
    (∃ (m : Msg) (s : State),
    Taken 0x0403 isParty (lenIs 4) m s ∧
    fld m 0 1 < 2 ∧
    fld m 1 3 = 0) :=
  ⟨⟨msg (.g 0) (bytesOf 4 [(0, 2, 15)]), rings 0 (up), by decide +kernel⟩,
   ⟨msg (.g 0) (bytesOf 24 [(0, 1, 1), (8, 6, 0x20000040), (16, 8, 128)]), rings 0 (up), by decide +kernel⟩,
   ⟨msg (.g 0) (bytesOf 16 [(0, 1, 1), (1, 1, 1), (2, 1, 1), (4, 2, 8), (6, 2, 2), (8, 4, 100)]), rings 0 (up), by decide +kernel⟩,
   ⟨msg (.g 0) (bytesOf 4 [(0, 1, 0)]),
     rings 0 ({ upD with mem := { upD.mem with ranges := [(1, { cls := 1, base := 8, count := 1, reqs := { n := 4 } }), (3, { reqs := { n := 2 } })], cg := [(0, { hits := { n := 3 } })] } }),
     by decide +kernel⟩⟩

theorem wit_SafetyMessages :
    (∃ (m : Msg) (s : State),
    Taken 0x0700 isParty (lenIs 16) m s ∧
    fld m 0 1 < 16 ∧
    fld m 1 1 < 16 ∧
    fld m 0 1 ≠ fld m 1 1 ∧
    (getEst s (fld m 0 1)).live = true ∧
    (getEst s (fld m 1 1)).live = true ∧
    (getEst s (fld m 0 1)).party = pidx m.sender ∧
    (getEst s (fld m 1 1)).party = pidx m.sender ∧
    fld m 2 1 = 0 ∧
    fld m 3 1 = 0 ∧
    (fld m 4 4 = 0 ∨ (50 ≤ fld m 4 4 ∧ fld m 4 4 ≤ 100000)) ∧
    fld m 8 8 = 0 ∧
    (getEst s (fld m 0 1)).desc.be = false ∧
    (getEst s (fld m 1 1)).desc.be = false ∧
    paired s (fld m 0 1) = false ∧
    paired s (fld m 1 1) = false ∧
    (getEst s (fld m 0 1)).leaves.length = (getEst s (fld m 1 1)).leaves.length ∧
    (getEst s (fld m 0 1)).desc.secure = (getEst s (fld m 1 1)).desc.secure ∧
    s.safe.injection = 0x7F ∧
    let p : Pair := { primary := fld m 0 1, partner := fld m 1 1, window := if fld m 4 4 = 0 then 2000 else fld m 4 4 }
    pairRuns s p = false) ∧
    (∃ (m : Msg) (s : State),
    Taken 0x0700 isParty (lenIs 16) m s ∧
    fld m 0 1 < 16 ∧
    fld m 1 1 < 16 ∧
    fld m 0 1 ≠ fld m 1 1 ∧
    (getEst s (fld m 0 1)).live = true ∧
    (getEst s (fld m 1 1)).live = true ∧
    (getEst s (fld m 0 1)).party = pidx m.sender ∧
    (getEst s (fld m 1 1)).party = pidx m.sender ∧
    fld m 2 1 = 0 ∧
    fld m 3 1 = 0 ∧
    (fld m 4 4 = 0 ∨ (50 ≤ fld m 4 4 ∧ fld m 4 4 ≤ 100000)) ∧
    fld m 8 8 = 0 ∧
    (getEst s (fld m 0 1)).desc.be = false ∧
    (getEst s (fld m 1 1)).desc.be = false ∧
    paired s (fld m 0 1) = false ∧
    paired s (fld m 1 1) = false ∧
    (getEst s (fld m 0 1)).leaves.length = (getEst s (fld m 1 1)).leaves.length ∧
    (getEst s (fld m 0 1)).desc.secure = (getEst s (fld m 1 1)).desc.secure ∧
    s.safe.injection = 0x7F ∧
    let p : Pair := { primary := fld m 0 1, partner := fld m 1 1, window := if fld m 4 4 = 0 then 2000 else fld m 4 4 }
    pairRuns s p = true ∧
    Room m s) ∧
    (∃ (m : Msg) (s : State),
    Taken 0x0701 isParty (lenIs 24) m s ∧
    fld m 0 1 < 16 ∧
    (getEst s (fld m 0 1)).live = true ∧
    (getEst s (fld m 0 1)).party = pidx m.sender ∧
    firstBad (gapsBad s m) = none) ∧
    (∃ (m : Msg) (s : State),
    Taken 0x0702 isGx (lenIs 8) m s ∧
    Room m s ∧
    fld m 0 1 = 1 ∧
    fld m 1 1 = 0 ∧
    fld m 4 4 = 0 ∧
    s.safe.level ≠ 4 ∧
    s.safe.levelPend = none) ∧
    (∃ (m : Msg) (s : State),
    Taken 0x0702 isGx (lenIs 8) m s ∧
    Room m s ∧
    fld m 0 1 = 0 ∧
    fld m 1 1 = 0 ∧
    fld m 4 4 = 0 ∧
    s.safe.level < 3 ∧
    s.safe.levelPend = none) ∧
    (∃ (m : Msg) (s : State),
    Taken 0x0703 isGsGx (lenIs 0) m s) :=
  ⟨⟨msg (.g 0) (bytesOf 16 [(0, 1, 0), (1, 1, 1), (4, 4, 100)]),
    rings 0 ({ up with jobs := { up.jobs with est := [(0, { getEst up 0 with job := none }), (1, { getEst up 0 with leaves := [1], job := none })] } }),
    by decide +kernel⟩,
   ⟨msg (.g 0) (bytesOf 16 [(0, 1, 0), (1, 1, 1), (4, 4, 100)]),
     rings 0 ({ up with jobs := { up.jobs with est := [(0, { getEst up 0 with job := some job0 }), (1, { getEst up 0 with leaves := [1], job := none })] } }),
     by decide +kernel⟩,
   ⟨msg (.g 0) (bytesOf 24 [(0, 1, 0), (1, 1, 2), (4, 4, 5000), (8, 4, 10), (12, 4, 500)]), rings 0 (up), by decide +kernel⟩,
   ⟨msg .gx (bytesOf 8 [(0, 1, 1), (2, 2, 1)]), rings 17 (up), by decide +kernel⟩,
   ⟨msg .gx (bytesOf 8 [(0, 1, 0), (2, 2, 1)]),
     rings 17 (modEst { up with safe := { up.safe with level := 1, levelEst := 1 } } 0 fun e => { e with safeStop := true }), by decide +kernel⟩,
   ⟨msg .gx ([]), rings 17 (up), by decide +kernel⟩⟩

theorem wit_SecurityMessages :
    (∃ (m : Msg) (s : State),
    Taken 0x0800 isGs (lenIs 8) m s ∧
    fld m 0 1 = 1 ∧
    fld m 1 1 = 0 ∧
    fld m 2 1 = 0 ∧
    fld m 3 1 = 0 ∧
    fld m 6 2 = 0 ∧
    4 ≤ fld m 4 2 ∧
    fld m 4 2 * 0x4000000 ≤ 4 * cgBytes s ∧
    (∀ c < 8, c * cgBytes s < fld m 4 2 * 0x4000000 → bitOf (reqGrant s 16).cg c = true) ∧
    swmLack s (fld m 4 2) = 0 ∧
    fld m 4 2 ≠ s.world.swm ∧
    s.world.pend = none) ∧
    (∃ (m : Msg) (s : State),
    Taken 0x0800 isGs (lenIs 8) m s ∧
    Room m s ∧
    fld m 0 1 = 4 ∧
    fld m 1 1 < 16 ∧
    fld m 2 1 = 0 ∧
    fld m 3 1 = 0 ∧
    fld m 4 2 = 0 ∧
    fld m 6 2 = 0 ∧
    diffMask (fld m 1 1) s.world.clusters ≠ 0 ∧
    s.world.pend = none) ∧
    (∃ (m : Msg) (s : State),
    Taken 0x0801 isGs (lenIs 16) m s ∧
    Room m s ∧
    fld m 6 2 = 0 ∧
    fld m 8 4 ≤ 0x4000000 ∧
    (fld m 0 6 = 0 ↔ fld m 8 4 = 0) ∧
    fld m 12 1 < 2 ∧
    fld m 13 3 = 0 ∧
    (fld m 0 6 ≠ 0 → inReq s 16 (fld m 0 6) (fld m 8 4) = true ∧ fld m 0 6 + fld m 8 4 ≤ s.world.swm * 0x4000000) ∧
    s.world.restart = none) ∧
    (∃ (m : Msg) (s : State),
    Taken 0x0802 isParty (lenIs 64) m s ∧
    Room m s ∧
    fld m 0 6 % 64 = 0 ∧
    fld m 6 2 = 0 ∧
    fld m 12 4 = 0 ∧
    inReq s (pidx m.sender) (fld m 0 6) (fld m 8 4) = true ∧
    17120 ≤ fld m 8 4 ∧
    (∀ x ∈ s.firm.attest, x.1.party ≠ pidx m.sender)) ∧
    (∃ (m : Msg) (s : State),
    Taken 0x0803 isPartyGx (lenIs 8) m s ∧
    fld m 6 2 = 0 ∧
    s.firm.deriving_ = false ∧
    (fld m 0 6 ≠ 0 → pidx m.sender ≠ 17 ∧ inReq s (pidx m.sender) (fld m 0 6) 34496 = true)) :=
  ⟨⟨msg .gs (bytesOf 8 [(0, 1, 1), (4, 2, 5)]), rings 16 (up), by decide +kernel⟩,
   ⟨msg .gs (bytesOf 8 [(0, 1, 4), (1, 1, 2)]), rings 16 (up), by decide +kernel⟩,
   ⟨msg .gs (bytesOf 16 [(12, 1, 1)]), rings 16 (up), by decide +kernel⟩,
   ⟨msg (.g 0) (bytesOf 64 [(0, 6, 0x20000000), (8, 4, 17120), (16, 4, 99)]), rings 0 (up), by decide +kernel⟩,
   ⟨msg (.g 0) (bytesOf 8 []), rings 0 (up), by decide +kernel⟩⟩

theorem wit_DisplayAndCodecMessages :
    (∃ (m : Msg) (s : State),
    Taken 0x0500 isParty (lenIs 24) m s ∧
    fld m 0 4 < 2 ^ 18 ∧
    qReq s (pidx m.sender) (fld m 0 4) = true ∧
    (getQ s (fld m 0 4)).bound = true ∧
    (getQ s (fld m 0 4)).kind = 2 ∧
    fld m 4 1 < 4 ∧
    fld m 5 3 = 0 ∧
    (fld m 8 4 = 0 ∨ (50 ≤ fld m 8 4 ∧ fld m 8 4 ≤ 100000)) ∧
    (fld m 12 4 = 0 ∨ (100 ≤ fld m 12 4 ∧ fld m 12 4 ≤ 100000)) ∧
    qOpBad (fld m 16 4) = false ∧
    (qOpOn (fld m 16 4) = true → qReq s (pidx m.sender) (qOpId (fld m 16 4)) = true ∧ qForm s (qOpId (fld m 16 4)) 1 1 (some 3) none = true) ∧
    fld m 20 4 = 0) ∧
    (∃ (m : Msg) (s : State) (j : Job),
    Taken 0x0501 isParty (fun m => decide (8 ≤ m.length.toNat) && (decide (m.length.toNat = 8 + 8 * fld m 1 1) || decide (16 < fld m 1 1))) m s ∧
    fld m 0 1 < 16 ∧
    (getEst s (fld m 0 1)).live = true ∧
    jobOf s (fld m 0 1) = some j ∧
    j.party = pidx m.sender ∧
    fld m 1 1 ≠ 0 ∧
    fld m 1 1 ≤ 16 ∧
    fld m 2 6 = 0 ∧
    (∀ x ∈ growEntries m, x.1 % pieceBytes = 0 ∧ x.2 ≠ 0 ∧ inReq s (pidx m.sender) x.1 (x.2 * pieceBytes) = true) ∧
    (tget s.media.gfx (fld m 0 1)).grow = true) ∧
    (∃ (m : Msg) (s : State),
    Taken 0x0510 isParty (lenIs 32) m s ∧
    fld m 0 1 < 6 ∧
    ((getPipe s (fld m 0 1)).owner = 0 ∨ (getPipe s (fld m 0 1)).owner = pidx m.sender + 1) ∧
    firstBad (timingBad m.payload) = none ∧
    (getPipe s (fld m 0 1)).scan = false ∧
    (getPipe s (fld m 0 1)).training = none ∧
    (getPipe s (fld m 0 1)).stop = none ∧
    4 ≤ fld m 0 1) ∧
    (∃ (m : Msg) (s : State),
    Taken 0x0510 isParty (lenIs 32) m s ∧
    fld m 0 1 < 6 ∧
    ((getPipe s (fld m 0 1)).owner = 0 ∨ (getPipe s (fld m 0 1)).owner = pidx m.sender + 1) ∧
    firstBad (timingBad m.payload) = none ∧
    (getPipe s (fld m 0 1)).scan = false ∧
    (getPipe s (fld m 0 1)).training = none ∧
    (getPipe s (fld m 0 1)).stop = none ∧
    fld m 0 1 < 4 ∧
    Room m s) ∧
    (∃ (m : Msg) (s : State),
    Taken 0x0511 isParty (lenIs 4) m s ∧
    fld m 0 1 < 6 ∧
    fld m 1 1 < 4 ∧
    fld m 2 2 = 0 ∧
    (getPipe s (fld m 0 1)).owner = pidx m.sender + 1 ∧
    (getPipe s (fld m 0 1)).stop = none ∧
    (getPipe s (fld m 0 1)).scan = true ∧
    Room m s) ∧
    (∃ (m : Msg) (s : State),
    Taken 0x0511 isParty (lenIs 4) m s ∧
    fld m 0 1 < 6 ∧
    fld m 1 1 < 4 ∧
    fld m 2 2 = 0 ∧
    (getPipe s (fld m 0 1)).owner = pidx m.sender + 1 ∧
    (getPipe s (fld m 0 1)).stop = none ∧
    (getPipe s (fld m 0 1)).scan = false ∧
    bitOf (fld m 1 1) 1 = false) ∧
    (∃ (m : Msg) (s : State),
    Taken 0x0511 isParty (lenIs 4) m s ∧
    fld m 0 1 < 6 ∧
    fld m 1 1 < 4 ∧
    fld m 2 2 = 0 ∧
    (getPipe s (fld m 0 1)).owner = pidx m.sender + 1 ∧
    (getPipe s (fld m 0 1)).stop = none ∧
    (getPipe s (fld m 0 1)).scan = false ∧
    bitOf (fld m 1 1) 1 = true) ∧
    (∃ (m : Msg) (s : State),
    Taken 0x0512 isParty (lenIs 12) m s ∧
    fld m 0 1 < 6 ∧
    fld m 1 3 = 0 ∧
    ((getPipe s (fld m 0 1)).owner = 0 ∨ (getPipe s (fld m 0 1)).owner = pidx m.sender + 1) ∧
    (getPipe s (fld m 0 1)).scan = false ∧
    qOpBad (fld m 4 4) = false ∧
    qOpBad (fld m 8 4) = false ∧
    (qOpOn (fld m 4 4) = true → qReq s (pidx m.sender) (qOpId (fld m 4 4)) = true ∧ qForm s (qOpId (fld m 4 4)) 1 2 none (some 6) = true) ∧
    (qOpOn (fld m 8 4) = true → qReq s (pidx m.sender) (qOpId (fld m 8 4)) = true ∧ qForm s (qOpId (fld m 8 4)) 1 1 (some 6) none = true)) ∧
    (∃ (m : Msg) (s : State) (k : Nat),
    Taken 0x0520 isParty (lenIs 64) m s ∧
    firstBad (codecBad s (pidx m.sender) m) = none ∧
    qReq s (pidx m.sender) (cdIn m.payload) = true ∧
    qReq s (pidx m.sender) (cdOut m.payload) = true ∧
    (cdDec m.payload = true → cdTile m.payload = false → qReq s (pidx m.sender) (cdFree m.payload) = true) ∧
    inReq s (pidx m.sender) (fld m 24 6) (fld m 32 4) = true ∧
    sesWork m.payload ≤ fld m 32 4 ∧
    sesRate s (cdDec m.payload) + fld m 8 4 ≤ 2000000000 ∧
    ((List.range 32).map fun i => i + if cdDec m.payload then 32 else 0).find? (fun k => !(sesOpen s (cdDec m.payload)).contains k) = some k) ∧
    (∃ (m : Msg) (s : State),
    Taken 0x0521 isParty (lenIs 4) m s ∧
    Room m s ∧
    fld m 0 1 < 64 ∧
    fld m 1 1 < 2 ∧
    fld m 2 2 = 0 ∧
    (getSes s (fld m 0 1)).owner = pidx m.sender + 1 ∧
    (getSes s (fld m 0 1)).closing = none) :=
  ⟨⟨msg (.g 0) (bytesOf 24 [(0, 4, 3), (4, 1, 2), (8, 4, 500), (12, 4, 200), (16, 4, 0x80000009)]),
    rings 0 ({ up with queue := [(3, { bound := true, base := 0x20003000, lg := 3, esize := 2, kind := 2, prod := 1, cons := 3 }), (9, { bound := true, base := 0x20009000, lg := 3, esize := 1, kind := 1, prod := 3, cons := 1 })] }),
    by decide +kernel⟩,
   ⟨msg (.g 0) (bytesOf 16 [(0, 1, 0), (1, 1, 1), (8, 6, 0x20200000), (14, 2, 2)]), rings 0 (upG { grow := true, cap := 0x200000 }), job0,
     by decide +kernel⟩,
   ⟨msg (.g 0) (bytesOf 32 [(0, 1, 4), (1, 1, 89), (2, 2, 1920), (4, 2, 2200), (6, 2, 88), (8, 2, 44), (10, 2, 1080), (12, 2, 1125), (14, 2, 4), (16,
     2, 5), (18, 1, 8), (19, 1, 4), (20, 2, 300)]), rings 0 (up), by decide +kernel⟩,
   ⟨msg (.g 0) (bytesOf 32 [(0, 1, 2), (1, 1, 89), (2, 2, 1920), (4, 2, 2200), (6, 2, 88), (8, 2, 44), (10, 2, 1080), (12, 2, 1125), (14, 2, 4), (16,
     2, 5), (18, 1, 8), (19, 1, 4), (20, 2, 540)]), rings 0 (up), by decide +kernel⟩,
   ⟨msg (.g 0) (bytesOf 4 [(0, 1, 2), (1, 1, 1)]), rings 0 ({ up with media := { pipe := [(2, { owner := 1, scan := true })] } }), by decide +kernel⟩,
   ⟨msg (.g 0) (bytesOf 4 [(0, 1, 2), (1, 1, 1)]), rings 0 ({ up with media := { pipe := [(2, { owner := 1, scan := false })] } }),
     by decide +kernel⟩,
   ⟨msg (.g 0) (bytesOf 4 [(0, 1, 2), (1, 1, 2)]), rings 0 ({ up with media := { pipe := [(2, { owner := 1, scan := false })] } }),
     by decide +kernel⟩,
   ⟨msg (.g 0) (bytesOf 12 [(0, 1, 2), (4, 4, 0x80000009), (8, 4, 0x8000000A)]),
     rings 0 ({ up with queue := [(9, { bound := true, base := 0x20009000, lg := 3, esize := 2, kind := 1, prod := 3, cons := 6 }), (10, { bound := true, base := 0x2000a000, lg := 3, esize := 1, kind := 1, prod := 6, cons := 3 })] }),
     by decide +kernel⟩,
   ⟨msg (.g 0) (bytesOf 64 [(2, 2, 640), (4, 2, 480), (8, 4, 9000000), (12, 4, 9), (16, 4, 10), (24, 6, 0x20100000), (32, 4, 0x1000000)]),
     rings 0 ({ up with queue := [(9, { bound := true, base := 0x20009000, lg := 3, esize := 2, kind := 1, prod := 3, cons := 5 }), (10, { bound := true, base := 0x2000a000, lg := 3, esize := 1, kind := 1, prod := 5, cons := 3 })] }),
     0, by decide +kernel⟩,
   ⟨msg (.g 0) (bytesOf 4 [(0, 1, 4), (1, 1, 0)]), rings 0 ({ up with media := { ses := [(4, { owner := 1, work := [[1, 2]] })] } }),
     by decide +kernel⟩⟩

theorem wit_CaptureAndFusionMessages :
    (∃ (m : Msg) (s : State),
    Taken 0x0600 isParty (lenIs 64) m s ∧
    firstBad (captureBad s m) = none ∧
    let k := fld m 0 1
    let c := m.payload
    let p := pidx m.sender
    qReq s p (cOut c) = true ∧
    (cMode c = 2 → qReq s p (cTileQ c) = true) ∧
    (isEth k = true → inReq s p (field (cImage c) 0 6) ((getQ s (cOut c)).n * field (cImage c) 20 4) = true) ∧
    (isEth k = false → cMode c ≠ 2 → imgIn s p (cImage c) = true) ∧
    (cStats c ≠ 0 → inReq s p (cStats c) ((getQ s (cOut c)).n * 16384) = true) ∧
    (isEth k = false → rcvOwner s (k / 4) = 0 ∨ rcvOwner s (k / 4) = p + 1) ∧
    (cMode c ≠ 1 → cRate c ≤ 1200000000 ∧ ispRate s + cRate c ≤ 4000000000) ∧
    (getStr s k).owner = 0) ∧
    (∃ (m : Msg) (s : State),
    Taken 0x0601 isParty (lenIs 4) m s ∧
    Room m s ∧
    fld m 0 1 ≤ 23 ∧
    fld m 1 3 = 0 ∧
    (getStr s (fld m 0 1)).owner = pidx m.sender + 1) ∧
    (∃ (m : Msg) (s : State),
    Taken 0x0602 isParty (lenIs 4) m s ∧
    fld m 0 1 ≤ 23 ∧
    fld m 1 1 < 2 ∧
    fld m 2 2 = 0 ∧
    (getStr s (fld m 0 1)).owner = pidx m.sender + 1) ∧
    (∃ (m : Msg) (s : State),
    Taken 0x0603 isParty (lenIs 16) m s ∧
    fld m 0 1 ≤ 23 ∧
    fld m 1 3 = 0 ∧
    64 ≤ fld m 4 4 ∧
    fld m 4 4 ≤ 65536 ∧
    fld m 8 6 % 64 = 0 ∧
    fld m 14 2 = 0 ∧
    inReq s (pidx m.sender) (fld m 8 6) (fld m 4 4) = true ∧
    (getStr s (fld m 0 1)).owner = pidx m.sender + 1 ∧
    cMode (getStr s (fld m 0 1)).conf ≠ 1 ∧
    memNat s (fld m 8 6) 4 = 0x5A495350 ∧
    memNat s (fld m 8 6 + 4) 4 = fld m 4 4) ∧
    (∃ (m : Msg) (s : State),
    Taken 0x0610 isParty (lenIs 64) m s ∧
    (getFus s).owner = 0 ∧
    firstBad (fusBad s m) = none ∧
    qReq s (pidx m.sender) (fMeas m.payload) = true ∧
    qReq s (pidx m.sender) (fOut m.payload) = true ∧
    inReq s (pidx m.sender) (fld m 8 6) (((getQ s (fOut m.payload)).n - 1) * fld m 16 4 + 64 * (fMax m.payload + 1)) = true) ∧
    (∃ (m : Msg) (s : State),
    Taken 0x0611 isParty (lenIs 0) m s ∧
    (getFus s).owner = pidx m.sender + 1 ∧
    (getFus s).wait = none) ∧
    (∃ (m : Msg) (s : State),
    Taken 0x0611 isParty (lenIs 0) m s ∧
    (getFus s).owner = pidx m.sender + 1 ∧
    (getFus s).wait ≠ none) ∧
    (∃ (m : Msg) (s : State),
    Taken 0x0612 isParty (lenIs 8) m s ∧
    fld m 0 6 % 64 = 0 ∧
    fld m 6 1 ≤ 31 ∧
    fld m 7 1 = 0 ∧
    (getFus s).owner = pidx m.sender + 1 ∧
    inReq s (pidx m.sender) (fld m 0 6) 128 = true ∧
    let e := memRead s (fld m 0 6) 128
    xfBad e = none ∧
    (field e 84 1 = 1 → inReq s (pidx m.sender) (field e 88 6) (field e 96 4) = true)) :=
  ⟨⟨msg (.g 0) (bytesOf 64 [(0, 1, 1), (1, 1, 3), (2, 1, 0x2B), (4, 2, 256), (6, 2, 64), (8, 4, 100000000), (12, 1, 1), (14, 2, 100), (16, 3, 9), (24,
    6, 0x20200000), (30, 1, 16), (32, 2, 256), (34, 2, 64), (36, 2, 8), (40, 4, 256), (44, 4, 16384), (48, 6, 0x20300000)]),
    rings 0 ({ up with queue := [(9, { bound := true, base := 0x20009000, lg := 3, esize := 1, kind := 1, prod := 4, cons := 3 })] }),
    by decide +kernel⟩,
   ⟨msg (.g 0) (bytesOf 4 [(0, 1, 1)]),
     rings 0 ({ up with cap := { str := [(1, { owner := 1, conf := bytesOf 64 [(3, 1, 2)], dropped := { n := 3 } })] } }), by decide +kernel⟩,
   ⟨msg (.g 0) (bytesOf 4 [(0, 1, 1), (1, 1, 1)]),
     rings 0 ({ up with cap := { str := [(1, { owner := 1, conf := bytesOf 64 [(3, 1, 2)], dropped := { n := 3 } })] } }), by decide +kernel⟩,
   ⟨msg (.g 0) (bytesOf 16 [(0, 1, 1), (4, 4, 64), (8, 6, 0x20010000)]),
     rings 0 (memWrite ({ up with cap := { str := [(1, { owner := 1, conf := bytesOf 64 [(3, 1, 2)] })] } }) 0x20010000 (bytesOf 64 [(0, 4,
     0x5A495350), (4, 4, 64)])), by decide +kernel⟩,
   ⟨msg (.g 0) (bytesOf 64 [(0, 4, 9), (4, 4, 10), (8, 6, 0x20100000), (14, 2, 10), (16, 4, 4096)]),
     rings 0 ({ up with queue := [(9, { bound := true, base := 0x20009000, lg := 3, esize := 2, kind := 1, prod := 3, cons := 7 }), (10, { bound := true, base := 0x2000a000, lg := 3, esize := 1, kind := 1, prod := 7, cons := 3 })] }),
     by decide +kernel⟩,
   ⟨msg (.g 0) ([]), rings 0 ({ up with cap := { fus := { owner := 1, conf := bytesOf 64 [], late := { n := 4 } } } }), by decide +kernel⟩,
   ⟨msg (.g 0) ([]), rings 0 ({ up with cap := { fus := { owner := 1, conf := bytesOf 64 [], wait := some { time := 5, sensor := 2, gen := 0 } } } }),
     by decide +kernel⟩,
   ⟨msg (.g 0) (bytesOf 8 [(0, 6, 0x20010000), (6, 1, 5)]),
     rings 0 (memWrite ({ up with cap := { fus := { owner := 1, conf := bytesOf 64 [], late := { n := 4 } } } }) 0x20010000 (bytesOf 128 [(60, 4,
     0x3F800000), (84, 1, 2), (100, 4, 7)])), by decide +kernel⟩⟩

theorem wit_StatisticsMessages :
    (∃ (m : Msg) (s : State),
    Taken 0x0513 isParty (lenIs 4) m s ∧
    fld m 0 1 < 6 ∧
    fld m 1 1 < 2 ∧
    fld m 2 2 = 0 ∧
    let x := getPipe s (fld m 0 1)
    x.owner = pidx m.sender + 1) ∧
    (∃ (m : Msg) (s : State),
    Taken 0x0513 isParty (lenIs 4) m s ∧
    fld m 0 1 < 6 ∧
    fld m 1 1 < 2 ∧
    fld m 2 2 = 0 ∧
    let x := getPipe s (fld m 0 1)
    x.owner ≠ pidx m.sender + 1) ∧
    (∃ (m : Msg) (s : State),
    Taken 0x0513 isParty (lenIs 4) m s ∧
    fld m 0 1 < 6 ∧
    2 ≤ fld m 1 1) ∧
    (∃ (m : Msg) (s : State),
    Taken 0x0513 isParty (lenIs 4) m s ∧
    fld m 0 1 < 6 ∧
    fld m 1 1 < 2 ∧
    fld m 2 2 ≠ 0) ∧
    (∃ (m : Msg) (s : State),
    Taken 0x0613 isParty (lenIs 4) m s ∧
    fld m 0 1 < 2 ∧
    fld m 1 3 = 0 ∧
    let f := getFus s
    f.owner = pidx m.sender + 1) ∧
    (∃ (m : Msg) (s : State),
    Taken 0x0613 isParty (lenIs 4) m s ∧
    fld m 0 1 < 2 ∧
    fld m 1 3 = 0 ∧
    let f := getFus s
    f.owner ≠ pidx m.sender + 1) ∧
    (∃ (m : Msg) (s : State),
    Taken 0x0613 isParty (lenIs 4) m s ∧
    2 ≤ fld m 0 1) ∧
    (∃ (m : Msg) (s : State),
    Taken 0x0613 isParty (lenIs 4) m s ∧
    fld m 0 1 < 2 ∧
    fld m 1 3 ≠ 0) :=
  ⟨⟨msg (.g 0) (bytesOf 4 [(0, 1, 2), (1, 1, 1)]),
    rings 0 ({ up with media := { pipe := [(2, { owner := 1, frame := 9, repeats := { n := 4 } })] } }), by decide +kernel⟩,
   ⟨msg (.g 0) (bytesOf 4 [(0, 1, 2)]), rings 0 ({ up with media := { pipe := [(2, { owner := 4, scan := true })] } }), by decide +kernel⟩,
   ⟨msg (.g 0) (bytesOf 4 [(0, 1, 2), (1, 1, 3)]),
     rings 0 ({ up with media := { pipe := [(2, { owner := 1, frame := 9, repeats := { n := 4 } })] } }), by decide +kernel⟩,
   ⟨msg (.g 0) (bytesOf 4 [(0, 1, 2), (2, 2, 3)]),
     rings 0 ({ up with media := { pipe := [(2, { owner := 1, frame := 9, repeats := { n := 4 } })] } }), by decide +kernel⟩,
   ⟨msg (.g 0) (bytesOf 4 [(0, 1, 1)]), rings 0 ({ up with cap := { fus := { owner := 1, conf := bytesOf 64 [], late := { n := 4 } } } }),
     by decide +kernel⟩,
   ⟨msg (.g 0) (bytesOf 4 [(0, 1, 1)]), rings 0 (up), by decide +kernel⟩,
   ⟨msg (.g 0) (bytesOf 4 [(0, 1, 2)]), rings 0 ({ up with cap := { fus := { owner := 1, conf := bytesOf 64 [], late := { n := 4 } } } }),
     by decide +kernel⟩,
   ⟨msg (.g 0) (bytesOf 4 [(1, 1, 2)]), rings 0 ({ up with cap := { fus := { owner := 1, conf := bytesOf 64 [], late := { n := 4 } } } }),
     by decide +kernel⟩⟩

theorem wit_WindowMessages :
    (∃ (m : Msg) (s : State) (w : Nat),
    Taken 0x0900 isParty (lenIs 32) m s ∧
    firstBad (winBad s m) = none ∧
    (pidx m.sender = 16 ∨ fld m 0 1 = pidx m.sender) ∧
    (bitOf (fld m 28 4) 31 = true → qReq s (fld m 0 1) (fld m 28 4 % 2 ^ 18) = true) ∧
    winAllowed s m = true ∧
    let k := fld m 1 1
    let base := (if bitOf k 1 then 128 else 0) + (if bitOf k 0 then 64 else 0)
    let a := fld m (if bitOf k 0 then 16 else 8) 8
    let start := fun (x : Window) => if bitOf k 0 then x.remote else x.loc
    (∀ j, base ≤ j → j < base + 64 → (getWin s j).live = true →
    a + winBytes m ≤ start (getWin s j) ∨ start (getWin s j) + (getWin s j).size ≤ a) ∧
    base ≤ w ∧
    w < base + 64 ∧
    (getWin s w).live = false ∧
    (∀ j, base ≤ j → j < w → (getWin s j).live = true) ∧
    (bitOf k 1 = true → 2 ≤ s.cross.count)) ∧
    (∃ (m : Msg) (s : State),
    Taken 0x0901 isParty (lenIs 8) m s ∧
    Room m s ∧
    fld m 1 7 = 0 ∧
    (getWin s (fld m 0 1)).live = true ∧
    (pidx m.sender = 16 ∨ (getWin s (fld m 0 1)).owner = pidx m.sender)) ∧
    (∃ (m : Msg) (s : State),
    Taken 0x0902 isGs (lenIs 8) m s ∧
    Room m s ∧
    1 ≤ fld m 0 1 ∧
    fld m 0 1 ≤ 4 ∧
    fld m 1 1 < fld m 0 1 ∧
    fld m 2 6 = 0 ∧
    (∀ x ∈ s.cross.win, x.2.live = true → x.1 < 128)) :=
  ⟨⟨msg (.g 0) (bytesOf 32 [(1, 1, 1), (4, 4, 500), (8, 8, 0x20100000), (16, 8, 0x1000), (24, 4, 16), (28, 4, 0x80000009)]),
    rings 0 ({ up with queue := [(9, { bound := true, base := 0x20009000, lg := 3, esize := 1, kind := 1, prod := 8, cons := 3 })] }), 64,
    by decide +kernel⟩,
   ⟨msg (.g 0) (bytesOf 8 [(0, 1, 70)]),
     rings 0 ({ up with cross := { up.cross with win := [(70, { live := true, owner := 0, loc := 0x20100000, size := 4096 })] } }),
     by decide +kernel⟩,
   ⟨msg .gs (bytesOf 8 [(0, 1, 2), (1, 1, 1)]), rings 16 ({ up with cross := { up.cross with port := [(1, { up := true })] } }), by decide +kernel⟩⟩

theorem wit_GatewayMessages :
    (∃ (m : Msg) (s : State),
    Taken 0x0A00 isParty (lenIs 32) m s ∧
    fld m 0 1 < 12 ∧
    (getCan s (fld m 0 1)).owner = 0 ∧
    firstBad (canBad s m) = none ∧
    (canRxOn m.payload = true → qReq s (pidx m.sender) (canRx m.payload) = true ∧
      inReq s (pidx m.sender) (fld m 16 6) ((getQ s (canRx m.payload)).n * fld m 22 2) = true) ∧
    (canTxOn m.payload = true → qReq s (pidx m.sender) (canTx m.payload) = true)) ∧
    (∃ (m : Msg) (s : State),
    Taken 0x0A01 isParty (lenIs 1) m s ∧
    fld m 0 1 ≤ 11 ∧
    (getCan s (fld m 0 1)).owner = pidx m.sender + 1) ∧
    (∃ (m : Msg) (s : State) (i : Nat),
    Taken 0x0A02 isParty (lenIs 64) m s ∧
    firstBad (routeBad s m) = none ∧
    (fld m 0 2 ≠ 0xFFFF → i = fld m 0 2) ∧
    (fld m 0 2 = 0xFFFF → i < 4096 ∧ (getRule s i).owner = 0 ∧ ∀ j < i, (getRule s j).owner ≠ 0) ∧
    ((getRule s i).owner = 0 ∨ (getRule s i).owner = pidx m.sender + 1 ∨ pidx m.sender = 16) ∧
    fld m 2 1 = 1) ∧
    (∃ (m : Msg) (s : State) (i : Nat),
    Taken 0x0A02 isParty (lenIs 64) m s ∧
    firstBad (routeBad s m) = none ∧
    (fld m 0 2 ≠ 0xFFFF → i = fld m 0 2) ∧
    (fld m 0 2 = 0xFFFF → i < 4096 ∧ (getRule s i).owner = 0 ∧ ∀ j < i, (getRule s j).owner ≠ 0) ∧
    ((getRule s i).owner = 0 ∨ (getRule s i).owner = pidx m.sender + 1 ∨ pidx m.sender = 16) ∧
    fld m 2 1 = 0 ∧
    routeSrcOk s (pidx m.sender) m.payload = true ∧
    routeDstOk s (pidx m.sender) m.payload = true) ∧
    (∃ (m : Msg) (s : State),
    Taken 0x0A03 isGs (lenIs 16) m s ∧
    Room m s ∧
    fld m 6 2 = 0 ∧
    fld m 12 4 = 0 ∧
    inReq s 16 (fld m 0 6) (fld m 8 4) = true) :=
  ⟨⟨msg (.g 0) (bytesOf 32 [(0, 1, 1), (2, 2, 500), (6, 1, 80), (8, 4, 0x80000009), (12, 4, 0x8000000A), (16, 6, 0x20100000), (22, 2, 64)]),
    rings 0 ({ up with queue := [(9, { bound := true, base := 0x20009000, lg := 3, esize := 1, kind := 1, prod := 9, cons := 3 }), (10, { bound := true, base := 0x2000a000, lg := 3, esize := 1, kind := 1, prod := 3, cons := 9 })] }),
    by decide +kernel⟩,
   ⟨msg (.g 0) (bytesOf 1 [(0, 1, 1)]), rings 0 ({ up with gw := { up.gw with can := [(1, { owner := 1 })] } }), by decide +kernel⟩,
   ⟨msg (.g 0) (bytesOf 64 [(0, 2, 3), (2, 1, 1)]),
     rings 0 ({ up with gw := { up.gw with can := [(1, { owner := 1 })], rule := [(3, { owner := 1 })] } }), 3, by decide +kernel⟩,
   ⟨msg (.g 0) (bytesOf 64 [(0, 2, 0xFFFF), (5, 1, 1), (17, 1, 1)]),
     rings 0 ({ up with gw := { up.gw with can := [(1, { owner := 1 })], rule := [(3, { owner := 1 })] } }), 0, by decide +kernel⟩,
   ⟨msg .gs (bytesOf 16 [(0, 6, 0x10000000)]), rings 16 (up), by decide +kernel⟩⟩

theorem wit_FieldMessages :
    (∃ (m : Msg) (s : State),
    Taken 0x0A10 isParty (lenIs 32) m s ∧
    fld m 0 1 = 5 ∧
    fld m 1 1 < 48 ∧
    fld m 2 2 = 0 ∧
    fld m 24 8 = 0 ∧
    s.field.linkUp = true ∧
    ((∀ k < 5, fld m 1 1 < kindChannels k → (getCh s k (fld m 1 1)).owner = 0) ∨ ∃ k < 5, fld m 1 1 < kindChannels k ∧
      (getCh s k (fld m 1 1)).owner = pidx m.sender + 1)) ∧
    (∃ (m : Msg) (s : State),
    Taken 0x0A10 isParty (lenIs 32) m s ∧
    fld m 0 1 < 5 ∧
    fld m 1 1 < kindChannels (fld m 0 1) ∧
    fld m 2 2 = 0 ∧
    let k := fld m 0 1
    let c := fld m 1 1
    let q := fld m 4 4
    let own := pidx m.sender + 1
    let x := getCh s k c
    ((getCh s k c).owner = 0 ∨ (getCh s k c).owner = own) ∧
    bitsOf q 30 18 = 0 ∧
    firstBad (confBad k c m) = none ∧
    fld m 24 8 = 0 ∧
    (bitOf q 31 = true → qForm s (q % 2 ^ 18) 1 1 (some 3) none = true ∧ qReq s (pidx m.sender) (q % 2 ^ 18) = true) ∧
    s.field.linkUp = false) ∧
    (∃ (m : Msg) (s : State),
    Taken 0x0A10 isParty (lenIs 32) m s ∧
    fld m 0 1 < 5 ∧
    fld m 1 1 < kindChannels (fld m 0 1) ∧
    fld m 2 2 = 0 ∧
    let k := fld m 0 1
    let c := fld m 1 1
    let q := fld m 4 4
    let own := pidx m.sender + 1
    let x := getCh s k c
    ((getCh s k c).owner = 0 ∨ (getCh s k c).owner = own) ∧
    bitsOf q 30 18 = 0 ∧
    firstBad (confBad k c m) = none ∧
    fld m 24 8 = 0 ∧
    (bitOf q 31 = true → qForm s (q % 2 ^ 18) 1 1 (some 3) none = true ∧ qReq s (pidx m.sender) (q % 2 ^ 18) = true) ∧
    s.field.linkUp = true) ∧
    (∃ (m : Msg) (s : State),
    Taken 0x0A11 isPartyGx (lenIs 2) m s ∧
    fld m 0 1 < 5 ∧
    (fld m 1 1 = 0xFF ∨ fld m 1 1 < kindChannels (fld m 0 1)) ∧
    let cs := if fld m 1 1 = 0xFF then List.range (kindChannels (fld m 0 1)) else [fld m 1 1]
    (pidx m.sender = 17 ∨ ∀ c ∈ cs, (getCh s (fld m 0 1) c).owner = pidx m.sender + 1) ∧
    s.field.linkUp = false) ∧
    (∃ (m : Msg) (s : State),
    Taken 0x0A11 isPartyGx (lenIs 2) m s ∧
    fld m 0 1 < 5 ∧
    (fld m 1 1 = 0xFF ∨ fld m 1 1 < kindChannels (fld m 0 1)) ∧
    let cs := if fld m 1 1 = 0xFF then List.range (kindChannels (fld m 0 1)) else [fld m 1 1]
    (pidx m.sender = 17 ∨ ∀ c ∈ cs, (getCh s (fld m 0 1) c).owner = pidx m.sender + 1) ∧
    s.field.linkUp = true) ∧
    (∃ (m : Msg) (s : State),
    Taken 0x0A12 isParty (lenIs 8) m s ∧
    fld m 0 1 ≤ 3 ∧
    fld m 1 1 ≤ 2 ∧
    15 ≤ fld m 2 1 ∧
    fld m 2 1 ≤ 100 ∧
    fld m 3 1 = 0 ∧
    let p := fld m 0 1
    let role := fld m 1 1
    let q := fld m 4 4
    bitsOf q 30 18 = 0 ∧
    ((getUc s p).owner = 0 ∨ (getUc s p).owner = pidx m.sender + 1) ∧
    (bitOf q 31 = true → qForm s (q % 2 ^ 18) 1 1 (some 3) none = true ∧ qReq s (pidx m.sender) (q % 2 ^ 18) = true) ∧
    s.field.linkUp = false) ∧
    (∃ (m : Msg) (s : State),
    Taken 0x0A12 isParty (lenIs 8) m s ∧
    fld m 0 1 ≤ 3 ∧
    fld m 1 1 ≤ 2 ∧
    15 ≤ fld m 2 1 ∧
    fld m 2 1 ≤ 100 ∧
    fld m 3 1 = 0 ∧
    let p := fld m 0 1
    let role := fld m 1 1
    let q := fld m 4 4
    bitsOf q 30 18 = 0 ∧
    ((getUc s p).owner = 0 ∨ (getUc s p).owner = pidx m.sender + 1) ∧
    (bitOf q 31 = true → qForm s (q % 2 ^ 18) 1 1 (some 3) none = true ∧ qReq s (pidx m.sender) (q % 2 ^ 18) = true) ∧
    s.field.linkUp = true) :=
  ⟨⟨msg (.g 0) (bytesOf 32 [(0, 1, 5), (1, 1, 3)]), rings 0 ({ up with field := { up.field with ch := [(3, { owner := 1, state := 1 })] } }),
    by decide +kernel⟩,
   ⟨msg (.g 0) (bytesOf 32 [(0, 1, 2), (1, 1, 3), (8, 1, 1), (10, 2, 2000), (13, 1, 2), (14, 1, 50)]),
     rings 0 ({ up with field := { up.field with linkUp := false } }), by decide +kernel⟩,
   ⟨msg (.g 0) (bytesOf 32 [(0, 1, 2), (1, 1, 3), (8, 1, 1), (10, 2, 2000), (13, 1, 2), (14, 1, 50)]), rings 0 (up), by decide +kernel⟩,
   ⟨msg .gx (bytesOf 2 [(0, 1, 2), (1, 1, 3)]), rings 17 ({ up with field := { up.field with linkUp := false } }), by decide +kernel⟩,
   ⟨msg .gx (bytesOf 2 [(0, 1, 2), (1, 1, 3)]), rings 17 (up), by decide +kernel⟩,
   ⟨msg (.g 0) (bytesOf 8 [(0, 1, 2), (1, 1, 1), (2, 1, 60)]), rings 0 ({ up with field := { up.field with linkUp := false } }), by decide +kernel⟩,
   ⟨msg (.g 0) (bytesOf 8 [(0, 1, 2), (1, 1, 1), (2, 1, 60)]), rings 0 (up), by decide +kernel⟩⟩

theorem wit_HostMessages :
    (∃ (m : Msg) (s : State),
    Taken 0x0A20 isParty (lenIs 32) m s ∧
    fld m 0 1 < 14 ∧
    (getUnit s (fld m 0 1)).owner = 0 ∧
    qReq s (pidx m.sender) (fld m 4 4 % 2 ^ 18) = true ∧
    qReq s (pidx m.sender) (fld m 8 4 % 2 ^ 18) = true ∧
    (fld m 0 1 = 9 → pidx m.sender = 16) ∧
    (fld m 0 1 < 8 → (getUc s (fld m 0 1 % 4)).owner = 0 ∨ (getUc s (fld m 0 1 % 4)).owner = pidx m.sender + 1) ∧
    firstBad (ioOpenBad s m) = none) ∧
    (∃ (m : Msg) (s : State),
    Taken 0x0A21 isParty (lenIs 4) m s ∧
    Room m s ∧
    fld m 0 1 < 14 ∧
    fld m 1 3 = 0 ∧
    (getUnit s (fld m 0 1)).owner = pidx m.sender + 1 ∧
    (getUnit s (fld m 0 1)).closing = none) ∧
    (∃ (m : Msg) (s : State) (v : Nat),
    Taken 0x0A22 isParty (lenIs 32) m s ∧
    (tget s.gw.vlan (fld m 2 2)).owner = pidx m.sender + 1 ∧
    qReq s (pidx m.sender) (vTx m.payload) = true ∧
    qReq s (pidx m.sender) (vRx m.payload) = true ∧
    qReq s (pidx m.sender) (vFree m.payload) = true ∧
    (∀ j < 32, (getVnic s j).owner ≠ 0 → field (getVnic s j).conf 2 2 ≠ fld m 2 2 ∨ field (getVnic s j).conf 4 6 ≠ fld m 4 6) ∧
    ((List.range 32).filter fun j => decide ((getVnic s j).owner = pidx m.sender + 1)).length < 8 ∧
    firstBad (vnicBad s m) = none ∧
    v < 32 ∧
    (getVnic s v).owner = 0 ∧
    (fld m 0 1 ≠ 0xFF → v = fld m 0 1) ∧
    (fld m 0 1 = 0xFF → ∀ j < v, (getVnic s j).owner ≠ 0)) ∧
    (∃ (m : Msg) (s : State),
    Taken 0x0A23 isParty (lenIs 4) m s ∧
    Room m s ∧
    fld m 0 1 < 32 ∧
    fld m 1 3 = 0 ∧
    (getVnic s (fld m 0 1)).owner = pidx m.sender + 1 ∧
    (getVnic s (fld m 0 1)).closing = none) :=
  ⟨⟨msg (.g 0) (bytesOf 32 [(0, 1, 13), (4, 4, 9), (8, 4, 10), (17, 1, 2), (18, 1, 16), (19, 1, 16)]),
    rings 0 ({ up with queue := [(9, { bound := true, base := 0x20009000, lg := 3, esize := 2, kind := 1, prod := 3, cons := 10 }), (10, { bound := true, base := 0x2000a000, lg := 3, esize := 1, kind := 1, prod := 10, cons := 3 })] }),
    by decide +kernel⟩,
   ⟨msg (.g 0) (bytesOf 4 [(0, 1, 5)]), rings 0 ({ up with io := { up.io with unit := [(5, { owner := 1 })] } }), by decide +kernel⟩,
   ⟨msg (.g 0) (bytesOf 32 [(0, 1, 0xFF), (2, 2, 5), (4, 6, 0x020000000000), (12, 4, 9), (16, 4, 10), (20, 4, 11), (24, 2, 2048)]),
     rings 0 ({ up with queue := [(9, { bound := true, base := 0x20009000, lg := 3, esize := 1, kind := 1, prod := 3, cons := 9 }), (10, { bound := true, base := 0x2000a000, lg := 3, esize := 1, kind := 1, prod := 9, cons := 3 }), (11, { bound := true, base := 0x2000b000, lg := 3, esize := 0, kind := 1, prod := 3, cons := 9 })], gw := { up.gw with vlan := [(5, { ports := 3, owner := 1 })] } }),
     0, by decide +kernel⟩,
   ⟨msg (.g 0) (bytesOf 4 [(0, 1, 5)]), rings 0 ({ up with io := { up.io with vnic := [(5, { owner := 1 })] } }), by decide +kernel⟩⟩

theorem wit_FirmwareMessages :
    (∃ (m : Msg) (s : State),
    Taken 0x0B00 isGs (lenIs 16) m s ∧
    Room m s ∧
    fld m 6 2 = 0 ∧
    fld m 12 4 = 0 ∧
    hdrBytes ≤ fld m 8 4 ∧
    fld m 8 4 ≤ 0x800000 ∧
    inReq s 16 (fld m 0 6) (fld m 8 4) = true ∧
    s.firm.committed = true ∧
    s.firm.act = .none ∧
    s.firm.staging = none) ∧
    (∃ (m : Msg) (s : State),
    Taken 0x0B01 isGs (lenIs 8) m s ∧
    Room m s ∧
    fld m 0 1 < 4 ∧
    fld m 1 7 = 0 ∧
    (bitOf (fld m 0 1) 1 = true → s.firm.committed = false) ∧
    (bitOf (fld m 0 1) 1 = false → s.firm.staged = true ∧ (bitOf (fld m 0 1) 0 = true ∨ (otherSlot s).afi = (runSlot s).afi)) ∧
    (s.pw.st = .run ∨ s.pw.st = .hush) ∧
    s.pw.thermalDoze = false ∧
    s.pw.forced = false ∧
    s.firm.act = .none ∧
    s.firm.staging = none) ∧
    (∃ (m : Msg) (s : State),
    Taken 0x0B02 isGs (lenIs 0) m s ∧
    s.firm.committed = false) ∧
    (∃ (m : Msg) (s : State),
    Taken 0x0B04 isGs (lenIs 16) m s ∧
    Room m s ∧
    fld m 6 2 = 0 ∧
    fld m 12 4 = 0 ∧
    hdrBytes ≤ fld m 8 4 ∧
    fld m 8 4 ≤ 0x40000 ∧
    inReq s 16 (fld m 0 6) (fld m 8 4) = true ∧
    s.firm.ucodeLoad = none) ∧
    (∃ (m : Msg) (s : State),
    Taken 0x0B05 isGs (lenIs 16) m s ∧
    Room m s ∧
    fld m 6 2 = 0 ∧
    1 ≤ fld m 12 1 ∧
    fld m 12 1 ≤ 3 ∧
    fld m 13 3 = 0 ∧
    fld m 8 4 = hdrBytes + calBytes (fld m 12 1) ∧
    inReq s 16 (fld m 0 6) (fld m 8 4) = true) :=
  ⟨⟨msg .gs (bytesOf 16 [(0, 6, 0x10000000), (8, 4, hdrBytes)]), rings 16 (up), by decide +kernel⟩,
   ⟨msg .gs (bytesOf 8 [(0, 1, 1)]), rings 16 ({ up with firm := { up.firm with staged := true } }), by decide +kernel⟩,
   ⟨msg .gs ([]), rings 16 ({ up with firm := { up.firm with committed := false, level3 := 0x0305, a := { up.firm.a with rollback := 2, revoke := 1 } } }),
     by decide +kernel⟩,
   ⟨msg .gs (bytesOf 16 [(0, 6, 0x10000000), (8, 4, hdrBytes)]), rings 16 (up), by decide +kernel⟩,
   ⟨msg .gs (bytesOf 16 [(0, 6, 0x10000000), (8, 4, hdrBytes + 7), (12, 1, 1)]), rings 16 (up), by decide +kernel⟩⟩

theorem wit_CaddyAndResetMessages :
    (∃ (m : Msg) (s : State),
    Taken 0x0B10 isGsGx (lenIs 12) m s) ∧
    (∃ (m : Msg) (s : State),
    Taken 0x0B11 isGsGx (lenIs 0) m s ∧
    Room m s) ∧
    (∃ (m : Msg) (s : State),
    Taken 0x0B12 isGsGx (lenIs 8) m s ∧
    2 ≤ fld m 0 1 ∧
    fld m 0 1 ≤ 4 ∧
    fld m 2 6 = 0) ∧
    (∃ (m : Msg) (s : State),
    Taken 0x0B12 isGsGx (lenIs 8) m s ∧
    Room m s ∧
    fld m 0 1 = 1 ∧
    fld m 1 1 < 16 ∧
    (getEst s (fld m 1 1)).live = true ∧
    fld m 2 6 = 0 ∧
    (getEst s (fld m 1 1)).halted = false) :=
  ⟨⟨msg .gx (bytesOf 12 [(0, 4, 5), (4, 8, 9)]), rings 17 (up), by decide +kernel⟩,
   ⟨msg .gx ([]), rings 17 (up), by decide +kernel⟩,
   ⟨msg .gx (bytesOf 8 [(0, 1, 2)]), rings 17 (up), by decide +kernel⟩,
   ⟨msg .gx (bytesOf 8 [(0, 1, 1), (1, 1, 0)]), rings 17 (up), by decide +kernel⟩⟩

theorem wit_SwitchAndWakeInputs :
    (∃ (ch : Fin 48) (b : Bool) (s : State),
    fieldRuns s = true ∧
    bitOf s.field.switch ch.val ≠ b ∧
    (getCh s 0 ch.val).owner = 0) ∧
    (∃ (ch : Fin 48) (b : Bool) (s : State),
    fieldRuns s = true ∧
    bitOf s.field.switch ch.val ≠ b ∧
    (getCh s 0 ch.val).owner ≠ 0 ∧
    Up s) ∧
    (∃ (ch : Fin 48) (s : State),
    fieldRuns s = true ∧
    ch.val % 2 = 0 ∧
    bitOf (chByte (getCh s 0 ch.val) 0) 4 = true ∧
    (getCh s 0 ch.val).owner ≠ 0 ∧
    (getCh s 0 ch.val).fault ≠ 7 ∧
    bitOf s.field.switch ch.val = bitOf s.field.switch (ch.val + 1)) ∧
    (∃ (s : State),
    fieldPowered s = true ∧
    s.field.park = true) ∧
    (∃ (s : State),
    fieldPowered s = true ∧
    s.field.park = true ∧
    s.field.timer ≠ 0) ∧
    (∃ (ch : Fin 8) (b : Bool) (s : State),
    fieldPowered s = true ∧
    (getCh s 3 ch.val).conf ≠ [] ∧
    (chByte (getCh s 3 ch.val) 0 % 4 = 2 ∨ chByte (getCh s 3 ch.val) 0 % 4 = if b then 0 else 1) ∧
    (getCh s 3 ch.val).owner = 0) ∧
    (∃ (ch : Fin 8) (b : Bool) (s : State),
    fieldPowered s = true ∧
    (getCh s 3 ch.val).conf ≠ [] ∧
    (chByte (getCh s 3 ch.val) 0 % 4 = 2 ∨ chByte (getCh s 3 ch.val) 0 % 4 = if b then 0 else 1) ∧
    (getCh s 3 ch.val).owner ≠ 0 ∧
    Up s) :=
  ⟨⟨3, true, up, by decide +kernel⟩,
   ⟨3, true, { up with field := { up.field with ch := [(2, { owner := 1, fault := 7, conf := bytesOf 16 [(0, 1, 0x18)] }), (3, { owner := 1 })] } },
     by decide +kernel⟩,
   ⟨2, { up with field := { up.field with ch := [(2, { owner := 1, conf := bytesOf 16 [(0, 1, 0x18)] })] } }, by decide +kernel⟩,
   ⟨{ up with field := { up.field with park := true, ch := [(2, { owner := 1, conf := bytesOf 16 [(0, 1, 0x18)] })] } }, by decide +kernel⟩,
   ⟨{ up with field := { up.field with park := true, timer := 9 } }, by decide +kernel⟩,
   ⟨2, true, { up with field := { up.field with ch := [(770, { conf := bytesOf 16 [(0, 1, 2)] })] } }, by decide +kernel⟩,
   ⟨2, true, { up with field := { up.field with ch := [(770, { owner := 1, conf := bytesOf 16 [(0, 1, 2)] })] } }, by decide +kernel⟩⟩

theorem wit_TouchAndAnalogInputs :
    (∃ (ch : Fin 16) (s : State),
    fieldRuns s = true ∧
    (getCh s 1 ch.val).owner ≠ 0) ∧
    (∃ (ch : Fin 4) (s : State),
    fieldRuns s = true ∧
    (getCh s 4 ch.val).owner ≠ 0) :=
  ⟨⟨2, { up with field := { up.field with ch := [(258, { owner := 1, conf := bytesOf 16 [(0, 1, 10), (1, 1, 2)] })] }, firm := { up.firm with cal := [(3, bytesOf 128 [(16, 2, 700), (18, 2, 100), (20, 2, 20)])] } },
    by decide +kernel⟩,
   ⟨2, { up with field := { up.field with ch := [(1026, { owner := 1, conf := bytesOf 16 [(2, 2, 10), (4, 2, 500), (6, 2, 3000)] })] }, firm := { up.firm with cal := [(2, bytesOf 32 [(16, 4, 0x3F800000), (20, 4, 0x40000000)])] } },
     by decide +kernel⟩⟩

theorem wit_Lamps :
    (∃ (ch : Fin 12) (s : State),
    fieldRuns s = true ∧
    (getCh s 2 ch.val).state = 1) ∧
    (∃ (ch : Fin 12) (s : State),
    fieldRuns s = true ∧
    (getCh s 2 ch.val).waiting = true) ∧
    (∃ (ch : Fin 12) (s : State),
    fieldRuns s = true ∧
    (getCh s 2 ch.val).state = 1) ∧
    (∃ (ch : Fin 12) (s : State),
    fieldRuns s = true ∧
    (getCh s 2 ch.val).owner ≠ 0 ∧
    (getCh s 2 ch.val).state ≠ 1 ∧
    bitOf (chByte (getCh s 2 ch.val) 0) 2 = true) :=
  ⟨⟨3, { up with field := { up.field with ch := [(515, { owner := 1, state := 1, retries := 2 })] } }, by decide +kernel⟩,
   ⟨3, { up with field := { up.field with ch := [(515, { owner := 1, waiting := true, retries := 2 })] } }, by decide +kernel⟩,
   ⟨3, { up with field := { up.field with ch := [(515, { owner := 1, state := 1 })] } }, by decide +kernel⟩,
   ⟨3, { upD with field := { upD.field with ch := [(515, { owner := 1, conf := bytesOf 16 [(0, 1, 4)] })] } }, by decide +kernel⟩⟩

theorem wit_TypeCPorts :
    (∃ (p : Fin 4) (st : Fin 3) (mv : BitVec 16) (ma : BitVec 16) (s : State),
    fieldPowered s = true ∧
    (getUc s p.val).cc = true ∧
    (getUc s p.val).role ≠ 0 ∧
    s.field.park = false ∧
    Up s ∧
    (st = 2 → (getUc s p.val).state ≠ 0 ∧ contractOk (getUc s p.val) mv.toNat ma.toNat = true)) ∧
    (∃ (p : Fin 4) (s : State),
    fieldPowered s = true ∧
    (getUc s p.val).cc = true ∧
    s.field.park = true) ∧
    (∃ (p : Fin 4) (s : State),
    fieldRuns s = true ∧
    (getUc s p.val).vbus = true) ∧
    (∃ (p : Fin 4) (s : State),
    fieldRuns s = true ∧
    (getUc s p.val).fault = 9) ∧
    (∃ (p : Fin 4) (s : State),
    fieldRuns s = true ∧
    (getUc s p.val).role ≠ 0) :=
  ⟨⟨2, 2, 9000, 3000, { up with field := { up.field with usbc := [(2, { owner := 1, role := 1, maxW := 60, state := 1 })] } }, by decide +kernel⟩,
   ⟨2, { up with field := { up.field with park := true, usbc := [(2, { owner := 1, role := 1 })] } }, by decide +kernel⟩,
   ⟨2, { up with field := { up.field with usbc := [(2, { owner := 1, role := 1, state := 2, vbus := true, mv := 5000 })] } }, by decide +kernel⟩,
   ⟨2, { up with field := { up.field with usbc := [(2, { owner := 1, role := 1, state := 1, fault := 9 })] } }, by decide +kernel⟩,
   ⟨2, { up with field := { up.field with usbc := [(2, { owner := 1, role := 1, state := 1 })] } }, by decide +kernel⟩⟩

theorem wit_SupplyAndFieldLink :
    (∃ (v : Int) (s : State),
    600 ≤ s.field.vbat ∧
    450 ≤ v ∧
    v < 600 ∧
    coreAlive s = true) ∧
    (∃ (v : Int) (s : State),
    450 ≤ s.field.vbat ∧
    s.field.vbat < 600 ∧
    600 ≤ v ∧
    v ≤ 3600) ∧
    (∃ (v : Int) (s : State),
    600 ≤ s.field.vbat ∧
    s.field.vbat ≤ 3600 ∧
    3600 < v ∧
    v ≤ 5800) ∧
    (∃ (v : Int) (s : State),
    450 ≤ s.field.vbat ∧
    v < 450 ∧
    s.boot.phase ≠ 0) ∧
    (∃ (v : Int) (s : State),
    600 ≤ s.field.vbat ∧
    s.field.vbat ≤ 3600 ∧
    600 ≤ v ∧
    v ≤ 3600) ∧
    (∃ (s : State),
    s.field.warn = true) ∧
    (∃ (fromCore : Bool) (s : State),
    s.field.linkUp = true ∧
    s.pw.supplied = true ∧
    Up s ∧
    (if fromCore then s.field.resends.2 else s.field.resends.1) < 3) ∧
    (∃ (fromCore : Bool) (s : State),
    s.field.linkUp = true ∧
    s.pw.supplied = true ∧
    Up s ∧
    3 ≤ (if fromCore then s.field.resends.2 else s.field.resends.1)) ∧
    (∃ (s : State),
    s.field.holding = true ∧
    Tab.wf s.field.ch = true ∧
    Tab.wf s.field.usbc = true) ∧
    (∃ (inst : BitVec 16) (s : State),
    s.pw.st = .park ∧
    bitOf s.field.wakeEn (inst.toNat % 24) = true ∧
    resumeGood s = true) ∧
    (∃ (inst : BitVec 16) (s : State),
    s.pw.st = .park ∧
    bitOf s.field.wakeEn (inst.toNat % 24) = true ∧
    resumeGood s = false) :=
  ⟨⟨500, up, by decide +kernel⟩,
   ⟨640, { up with field := { up.field with vbat := 500, warn := true, wakeEn := 0 } }, by decide +kernel⟩,
   ⟨4000, { up with field := { up.field with ch := [(515, { owner := 1, state := 1 })] } }, by decide +kernel⟩,
   ⟨-200, up, by decide +kernel⟩,
   ⟨700, up, by decide +kernel⟩,
   ⟨{ up with field := { up.field with warn := true } }, by decide +kernel⟩,
   ⟨true, up, by decide +kernel⟩,
   ⟨true, { up with field := { up.field with resends := (0, 3) } }, by decide +kernel⟩,
   ⟨{ up with field := { up.field with holding := true, ch := [(515, { owner := 1, state := 1, retries := 1 })], usbc := [(2, { state := 1 })] } },
     by decide +kernel⟩,
   ⟨3, { up with field := { up.field with wakeEn := 8, park := true }, pw := { up.pw with st := .park, supplied := false } }, by decide +kernel⟩,
   ⟨3, { up with field := { up.field with wakeEn := 8, park := true }, pw := { up.pw with st := .park, supplied := false }, mem := { up.mem with lineErr := [(5, 2)] } },
     by decide +kernel⟩⟩

theorem wit_ServicePort :
    (∃ (v : BitVec 32) (s : State),
    fieldPowered s = true ∧
    v.getLsbD 0 = true) ∧
    (∃ (v : BitVec 32) (s : State),
    fieldPowered s = true ∧
    v.getLsbD 0 = false) ∧
    (∃ (f : List Byte) (s : State),
    fieldPowered s = true ∧
    frameOk 2 f = true ∧
    frameAddr f + frameLen f ≤ 0x48) ∧
    (∃ (f : List Byte) (s : State),
    fieldPowered s = true ∧
    (frameOk 2 f = false ∨ 0x48 < frameAddr f + frameLen f)) ∧
    (∃ (f : List Byte) (s : State),
    fieldPowered s = true ∧
    frameOk 3 f = true ∧
    frameAddr f + frameLen f ≤ 0x48) ∧
    (∃ (f : List Byte) (s : State) (i : Nat),
    fieldPowered s = true ∧
    frameOk 3 f = true ∧
    i < 256 ∧
    frameAddr f = 0x1000 + 16 * i ∧
    frameLen f = 16 ∧
    (tget s.field.log i).length = 16) ∧
    (∃ (f : List Byte) (s : State),
    fieldPowered s = true ∧
    (frameOk 3 f = false ∨ (0x48 < frameAddr f + frameLen f ∧ frameAddr f < 0x1000))) ∧
    (∃ (f : List Byte) (s : State),
    fieldPowered s = true ∧
    field f 0 1 = 5) :=
  ⟨⟨3, up, by decide +kernel⟩,
   ⟨2, up, by decide +kernel⟩,
   ⟨withCrc (bytesOf 14 [(0, 1, 2), (1, 3, 12), (4, 2, 8), (6, 4, 3), (10, 4, 9)]), up, by decide +kernel⟩,
   ⟨[2, 0], up, by decide +kernel⟩,
   ⟨withCrc (bytesOf 6 [(0, 1, 3), (1, 3, 12), (4, 2, 8)]), up, by decide +kernel⟩,
   ⟨withCrc (bytesOf 6 [(0, 1, 3), (1, 3, 4128), (4, 2, 16)]), { up with field := { up.field with log := [(2, bytesOf 16 [(0, 4, 7)])] } }, 2,
     by decide +kernel⟩,
   ⟨[3, 0], up, by decide +kernel⟩,
   ⟨[5], { up with field := { up.field with crcErr := true } }, by decide +kernel⟩⟩

theorem wit_SafetyPort :
    (∃ (f : List Byte) (s : State),
    keepOn s = true ∧
    frameOk 2 f = true ∧
    s.boot.gxPcie = false ∧
    frameAddr f + frameLen f ≤ 0x2000) ∧
    (∃ (f : List Byte) (s : State),
    keepOn s = true ∧
    frameOk 2 f = true ∧
    s.boot.gxPcie = false ∧
    0x2000 ≤ frameAddr f ∧
    frameAddr f + 8 ≤ 0x3000 ∧
    frameLen f = 8 ∧
    frameAddr f % 8 = 0) ∧
    (∃ (f : List Byte) (s : State),
    keepOn s = true ∧
    frameOk 2 f = true ∧
    s.boot.gxPcie = false ∧
    0x2000 ≤ frameAddr f ∧
    frameAddr f + 4 ≤ 0x3000 ∧
    frameLen f = 4) ∧
    (∃ (f : List Byte) (s : State),
    keepOn s = true ∧
    frameOk 2 f = true ∧
    s.boot.gxPcie = false ∧
    0x10000 ≤ frameAddr f) ∧
    (∃ (f : List Byte) (s : State),
    keepOn s = true ∧
    (frameOk 2 f = false ∨ s.boot.gxPcie = true)) ∧
    (∃ (f : List Byte) (s : State),
    keepOn s = true ∧
    frameOk 3 f = true ∧
    s.boot.gxPcie = false ∧
    frameAddr f + frameLen f ≤ 0x2000) ∧
    (∃ (f : List Byte) (s : State),
    keepOn s = true ∧
    frameOk 3 f = true ∧
    s.boot.gxPcie = false ∧
    0x2000 ≤ frameAddr f ∧
    frameAddr f + 8 ≤ 0x3000 ∧
    frameLen f = 8 ∧
    frameAddr f % 8 = 0) ∧
    (∃ (f : List Byte) (s : State),
    keepOn s = true ∧
    frameOk 3 f = true ∧
    s.boot.gxPcie = false ∧
    0x10000 ≤ frameAddr f ∧
    frameAddr f + 32 ≤ 0x210000 ∧
    frameLen f = 32 ∧
    frameAddr f % 32 = 0) ∧
    (∃ (f : List Byte) (s : State),
    keepOn s = true ∧
    (frameOk 3 f = false ∨ s.boot.gxPcie = true)) ∧
    (∃ (f : List Byte) (s : State),
    keepOn s = true ∧
    field f 0 1 = 5) :=
  ⟨⟨withCrc (bytesOf 14 [(0, 1, 2), (1, 3, 16), (4, 2, 8), (6, 4, 3), (10, 4, 9)]), up, by decide +kernel⟩,
   ⟨withCrc (bytesOf 14 [(0, 1, 2), (1, 3, 8208), (4, 2, 8), (6, 4, 3)]), up, by decide +kernel⟩,
   ⟨withCrc (bytesOf 10 [(0, 1, 2), (1, 3, 8208), (4, 2, 4), (6, 4, 3)]), up, by decide +kernel⟩,
   ⟨withCrc (bytesOf 10 [(0, 1, 2), (1, 3, 65552), (4, 2, 4), (6, 4, 3)]), up, by decide +kernel⟩,
   ⟨[2], up, by decide +kernel⟩,
   ⟨withCrc (bytesOf 6 [(0, 1, 3), (1, 3, 16), (4, 2, 8)]), up, by decide +kernel⟩,
   ⟨withCrc (bytesOf 6 [(0, 1, 3), (1, 3, 8208), (4, 2, 8)]), up, by decide +kernel⟩,
   ⟨withCrc (bytesOf 6 [(0, 1, 3), (1, 3, 65568), (4, 2, 32)]), up, by decide +kernel⟩,
   ⟨[3], up, by decide +kernel⟩,
   ⟨[5], up, by decide +kernel⟩⟩

/-- The only buffered frame goes first. -/
theorem only_first (l : List CanBuf) (b : CanBuf) (h : l = [b]) :
    ∀ j x, l[j]? = some x → canPrio b.frame < canPrio x.frame ∨ (canPrio b.frame = canPrio x.frame ∧ 0 ≤ j) := by
  subst h; intro j x hx
  cases j with
  | zero => cases hx; exact .inr ⟨rfl, Nat.zero_le _⟩
  | succ j => cases hx

theorem wit_CanTransceivers_1_known : ∃ x : Instr × Fin 12 × Nat × Bool,
    (∃ c, x = (.canDominant c, c, 8, true) ∨ x = (.canBusFault c .shortToBattery, c, 1, true) ∨
      x = (.canBusFault c .shortToGround, c, 2, false) ∨ x = (.canOpenLoad c, c, 3, false)) ∧
    ∃ s : State, canWired s x.2.1.val = true ∧ (getCan s x.2.1.val).faults.contains x.2.2.1 = true :=
  ⟨(.canDominant 1, 1, 8, true), by decide +kernel,
    { up with queue := [(9, { bound := true, base := 0x20005000, lg := 2, esize := 1, kind := 1, prod := 9, cons := 3, tail := 1 })], gw := { up.gw with can := [(1, { owner := 1, conf := bytesOf 32 [(0, 1, 1), (2, 2, 500), (6, 1, 80), (16, 6, 0x20100000), (22, 2, 64)], faults := [8] })] } },
    by decide +kernel⟩

theorem wit_CanTransceivers_1_new : ∃ x : Instr × Fin 12 × Nat × Bool,
    (∃ c, x = (.canDominant c, c, 8, true) ∨ x = (.canBusFault c .shortToBattery, c, 1, true) ∨
      x = (.canBusFault c .shortToGround, c, 2, false) ∨ x = (.canOpenLoad c, c, 3, false)) ∧
    ∃ s : State, canWired s x.2.1.val = true ∧ (getCan s x.2.1.val).faults.contains x.2.2.1 = false :=
  ⟨(.canBusFault 1 .shortToGround, 1, 2, false), by decide +kernel,
    { up with queue := [(9, { bound := true, base := 0x20005000, lg := 2, esize := 1, kind := 1, prod := 9, cons := 3, tail := 1 })], gw := { up.gw with can := [(1, { owner := 1, conf := bytesOf 32 [(0, 1, 1), (2, 2, 500), (6, 1, 80), (16, 6, 0x20100000), (22, 2, 64)] })] } },
    by decide +kernel⟩

theorem wit_CanFrames :
    (∃ (c : Fin 12) (f : CanFrame) (s : State),
    fabricUp s = true ∧
    s.pw.st = .run ∧
    s.pw.parking = 0 ∧
    (getCan s c.val).owner ≠ 0 ∧
    (getCan s c.val).standby = false ∧
    blockOff s 10 c.val = false ∧
    canFits (canMode (getCan s c.val).conf) f = true ∧
    (∀ x ∈ (getCan s c.val).faults, x ≠ 3 ∧ x ≠ 8) ∧
    let conf := (getCan s c.val).conf
    let q := canRx conf
    let a := field conf 16 6 + (getQ s q).tail % (getQ s q).n * field conf 22 2
    let w := busWrite (gwIni (ownerOf (getCan s c.val).owner)) a f.data s
    canRxOn conf = false) ∧
    (∃ (c : Fin 12) (f : CanFrame) (s : State),
    fabricUp s = true ∧
    s.pw.st = .run ∧
    s.pw.parking = 0 ∧
    (getCan s c.val).owner ≠ 0 ∧
    (getCan s c.val).standby = false ∧
    blockOff s 10 c.val = false ∧
    canFits (canMode (getCan s c.val).conf) f = true ∧
    (∀ x ∈ (getCan s c.val).faults, x ≠ 3 ∧ x ≠ 8) ∧
    let conf := (getCan s c.val).conf
    let q := canRx conf
    let a := field conf 16 6 + (getQ s q).tail % (getQ s q).n * field conf 22 2
    let w := busWrite (gwIni (ownerOf (getCan s c.val).owner)) a f.data s
    canRxOn conf = true ∧
    canPush s q = false) ∧
    (∃ (c : Fin 12) (f : CanFrame) (s : State),
    fabricUp s = true ∧
    s.pw.st = .run ∧
    s.pw.parking = 0 ∧
    (getCan s c.val).owner ≠ 0 ∧
    (getCan s c.val).standby = false ∧
    blockOff s 10 c.val = false ∧
    canFits (canMode (getCan s c.val).conf) f = true ∧
    (∀ x ∈ (getCan s c.val).faults, x ≠ 3 ∧ x ≠ 8) ∧
    let conf := (getCan s c.val).conf
    let q := canRx conf
    let a := field conf 16 6 + (getQ s q).tail % (getQ s q).n * field conf 22 2
    let w := busWrite (gwIni (ownerOf (getCan s c.val).owner)) a f.data s
    canRxOn conf = true ∧
    canPush s q = true ∧
    w.2 = stOK) ∧
    (∃ (c : Fin 12) (f : CanFrame) (s : State),
    fabricUp s = true ∧
    s.pw.st = .run ∧
    s.pw.parking = 0 ∧
    (getCan s c.val).owner ≠ 0 ∧
    (getCan s c.val).standby = false ∧
    blockOff s 10 c.val = false ∧
    canFits (canMode (getCan s c.val).conf) f = true ∧
    (∀ x ∈ (getCan s c.val).faults, x ≠ 3 ∧ x ≠ 8) ∧
    let conf := (getCan s c.val).conf
    let q := canRx conf
    let a := field conf 16 6 + (getQ s q).tail % (getQ s q).n * field conf 22 2
    let w := busWrite (gwIni (ownerOf (getCan s c.val).owner)) a f.data s
    canRxOn conf = true ∧
    canPush s q = true ∧
    w.2 ≠ stOK) ∧
    (∃ (c : Fin 12) (s : State),
    canWired s c.val = true ∧
    (3 ∈ (getCan s c.val).faults ∨ 8 ∈ (getCan s c.val).faults)) ∧
    (∃ (c : Fin 12) (s : State) (i : Nat) (b : CanBuf),
    let v := canFeed c.val s
    canOn v c.val = true ∧
    (getCan v c.val).err ≠ 2 ∧
    (getCan v c.val).txOff = false ∧
    (getCan v c.val).standby = false ∧
    canListen (getCan v c.val).conf = false ∧
    (getCan v c.val).buf[i]? = some b ∧
    (∀ j x, (getCan v c.val).buf[j]? = some x → canPrio b.frame < canPrio x.frame ∨ (canPrio b.frame = canPrio x.frame ∧ i ≤ j))) ∧
    (∃ (c : Fin 12) (s : State),
    (getCan s c.val).owner ≠ 0 ∧
    (getCan s c.val).err = 2) :=
  ⟨⟨1, { id := 5, ide := false, fdf := false, xlf := false, brs := false, esi := false, rtr := false, xlCtrl := 0, xlAf := 0, data := [7, 8] },
    { up with queue := [(9, { bound := true, base := 0x20005000, lg := 2, esize := 1, kind := 1, prod := 9, cons := 3, tail := 1 })], gw := { up.gw with can := [(1, { owner := 1, conf := bytesOf 32 [(0, 1, 1), (2, 2, 500), (6, 1, 80), (16, 6, 0x20100000), (22, 2, 64)] })] } },
    by decide +kernel⟩,
   ⟨1, { id := 5, ide := false, fdf := false, xlf := false, brs := false, esi := false, rtr := false, xlCtrl := 0, xlAf := 0, data := [7, 8] },
     { up with queue := [(9, { bound := true, base := 0x20005000, lg := 2, esize := 1, kind := 1, prod := 9, cons := 3, tail := 4 })], gw := { up.gw with can := [(1, { owner := 1, conf := bytesOf 32 [(0, 1, 1), (2, 2, 500), (6, 1, 80), (8, 4, 0x80000009), (16, 6, 0x20100000), (22, 2, 64)] })] } },
     by decide +kernel⟩,
   ⟨1, { id := 5, ide := false, fdf := false, xlf := false, brs := false, esi := false, rtr := false, xlCtrl := 0, xlAf := 0, data := [7, 8] },
     { up with queue := [(9, { bound := true, base := 0x20005000, lg := 2, esize := 1, kind := 1, prod := 9, cons := 3, tail := 1 })], gw := { up.gw with can := [(1, { owner := 1, conf := bytesOf 32 [(0, 1, 1), (2, 2, 500), (6, 1, 80), (8, 4, 0x80000009), (16, 6, 0x20100000), (22, 2, 64)] })] } },
     by decide +kernel⟩,
   ⟨1, { id := 5, ide := false, fdf := false, xlf := false, brs := false, esi := false, rtr := false, xlCtrl := 0, xlAf := 0, data := [7, 8] },
     { up with queue := [(9, { bound := true, base := 0x20005000, lg := 2, esize := 1, kind := 1, prod := 9, cons := 3, tail := 1 })], gw := { up.gw with can := [(1, { owner := 1, conf := bytesOf 32 [(0, 1, 1), (2, 2, 500), (6, 1, 80), (8, 4, 0x80000009), (16, 6, 0x60100000), (22, 2, 64)] })] } },
     by decide +kernel⟩,
   ⟨1, { up with queue := [(9, { bound := true, base := 0x20005000, lg := 2, esize := 1, kind := 1, prod := 9, cons := 3, tail := 1 })], gw := { up.gw with can := [(1, { owner := 1, conf := bytesOf 32 [(0, 1, 1), (2, 2, 500), (6, 1, 80), (16, 6, 0x20100000), (22, 2, 64)], faults := [3, 8], txOff := true })] } },
     by decide +kernel⟩,
   ⟨1, { up with queue := [(9, { bound := true, base := 0x20005000, lg := 2, esize := 1, kind := 1, prod := 9, cons := 3, tail := 1 })], gw := { up.gw with can := [(1, { owner := 1, conf := bytesOf 32 [(0, 1, 1), (2, 2, 500), (6, 1, 80), (8, 4, 0x80000009), (16, 6, 0x20100000), (22, 2, 64)], buf := [{ frame := { id := 5, ide := false, fdf := false, xlf := false, brs := false, esi := false, rtr := false, xlCtrl := 0, xlAf := 0, data := [7, 8] } }] })] } },
     0, { frame := { id := 5, ide := false, fdf := false, xlf := false, brs := false, esi := false, rtr := false, xlCtrl := 0, xlAf := 0, data := [7, 8] } },
     by decide +kernel, by decide +kernel, by decide +kernel, by decide +kernel, by decide +kernel, by decide +kernel,
    only_first _ _ (by decide +kernel)⟩,
   ⟨1, { up with queue := [(9, { bound := true, base := 0x20005000, lg := 2, esize := 1, kind := 1, prod := 9, cons := 3, tail := 1 })], gw := { up.gw with can := [(1, { owner := 1, conf := bytesOf 32 [(0, 1, 1), (2, 2, 500), (6, 1, 80), (16, 6, 0x20100000), (22, 2, 64)], err := 2 })] } },
     by decide +kernel⟩⟩

theorem wit_CanTransceivers :
    (∃ (c : Fin 12) (s : State),
    canWired s c.val = true) ∧
    (∃ (c : Fin 12) (s : State),
    canWired s c.val = true ∧
    (getCan s c.val).txOff = true ∧
    (getCan s c.val).faults.contains 1 = true ∧
    (getCan s c.val).faults.contains 8 = false) ∧
    (∃ (c : Fin 12) (s : State),
    c.val < 8 ∧
    fieldPowered s = true ∧
    (getCan s c.val).standby = true ∧
    (getCan s c.val).owner ≠ 0 ∧
    canWake (getCan s c.val).conf = true) :=
  ⟨⟨1, { up with queue := [(9, { bound := true, base := 0x20005000, lg := 2, esize := 1, kind := 1, prod := 9, cons := 3, tail := 1 })], gw := { up.gw with can := [(1, { owner := 1, conf := bytesOf 32 [(0, 1, 1), (2, 2, 500), (6, 1, 80), (16, 6, 0x20100000), (22, 2, 64)], faults := [1, 8], txOff := true })] } },
    by decide +kernel⟩,
   ⟨1, { up with queue := [(9, { bound := true, base := 0x20005000, lg := 2, esize := 1, kind := 1, prod := 9, cons := 3, tail := 1 })], gw := { up.gw with can := [(1, { owner := 1, conf := bytesOf 32 [(0, 1, 1), (2, 2, 500), (6, 1, 80), (16, 6, 0x20100000), (22, 2, 64)], faults := [1], txOff := true })] } },
     by decide +kernel⟩,
   ⟨1, { up with queue := [(9, { bound := true, base := 0x20005000, lg := 2, esize := 1, kind := 1, prod := 9, cons := 3, tail := 1 })], gw := { up.gw with can := [(1, { owner := 1, conf := bytesOf 32 [(0, 1, 1), (1, 1, 0xFC), (2, 2, 500), (6, 1, 80), (16, 6, 0x20100000), (22, 2, 64)], standby := true })] } },
     by decide +kernel⟩⟩

theorem wit_SwitchAndRoutes :
    (∃ (p : Fin 12) (f : EthFrame) (s : State),
    fabricUp s = true ∧
    s.pw.st = .run ∧
    s.pw.parking = 0 ∧
    (getPort s p.val).on = true ∧
    (4 ≤ p.val → (getPort s p.val).up = true) ∧
    60 ≤ f.bytes.length ∧
    f.bytes.length ≤ 9212 ∧
    (s.gw.sect.any fun e => decide (e.1 / 256 = 7) || decide (e.1 / 256 = 8)) = false) ∧
    (∃ (p : Nat) (q : Nat) (f : EthFrame) (s : State),
    q ∈ forwardMask s p f) ∧
    (∃ (c : Fin 12) (s : State) (b : CanBuf) (rest : List CanBuf),
    (getCan s c.val).wait = b :: rest ∧
    1000000 ≤ ktSince s b.at_) ∧
    (∃ (r : Fin 4096) (s : State),
    (getRule s r.val).owner ≠ 0 ∧
    (getRule s r.val).batch ≠ [] ∧
    100 * field (getRule s r.val).conf 42 2 ≤ ktSince s (getRule s r.val).batchAt) ∧
    (∃ (p : Fin 12) (s : State) (g : List Byte),
    (getPort s p.val).gateNext = some g) ∧
    (∃ (p : Fin 12) (up : Bool) (role : BitVec 8) (s : State),
    4 ≤ p.val ∧
    ((getPort s p.val).up ≠ up ∨ (getPort s p.val).role ≠ role.toNat % 4)) :=
  ⟨⟨4, { vlan := 5, pcp := 0, dst := 7, src := 8, body := .other, bytes := List.replicate 60 0, payload := [], csumGood := true },
    { up with gw := { up.gw with vlan := [(5, { ports := 0x3A, owner := 1 })], port := [(3, { on := true }), (4, { on := true, up := true }), (5, { on := true, up := true })] } },
    by decide +kernel⟩,
   ⟨4, 3, { vlan := 5, pcp := 0, dst := 7, src := 8, body := .other, bytes := List.replicate 60 0, payload := [], csumGood := true },
     { up with gw := { up.gw with vlan := [(5, { ports := 0x3A, owner := 1 })], port := [(3, { on := true }), (4, { on := true, up := true }), (5, { on := true, up := true })] } },
     by decide +kernel⟩,
   ⟨1, { { up with queue := [(9, { bound := true, base := 0x20005000, lg := 2, esize := 1, kind := 1, prod := 9, cons := 3, tail := 1 })], gw := { up.gw with can := [(1, { owner := 1, conf := bytesOf 32 [(0, 1, 1), (2, 2, 500), (6, 1, 80), (16, 6, 0x20100000), (22, 2, 64)], wait := [{ frame := { id := 5, ide := false, fdf := false, xlf := false, brs := false, esi := false, rtr := false, xlCtrl := 0, xlAf := 0, data := [7, 8] }, rule := 3, at_ := 5 }] })] } } with ktime := 2000000 },
     { frame := { id := 5, ide := false, fdf := false, xlf := false, brs := false, esi := false, rtr := false, xlCtrl := 0, xlAf := 0, data := [7, 8] }, rule := 3, at_ := 5 },
     [], by decide +kernel⟩,
   ⟨3, { up with gw := { up.gw with rule := [(3, { owner := 1, batch := [{ id := 5, ide := false, fdf := false, xlf := false, brs := false, esi := false, rtr := false, xlCtrl := 0, xlAf := 0, data := [7, 8] }], conf := bytesOf 64 [(38, 2, 5)] })], vlan := [(5, { ports := 8 })], port := [(2, { on := true }), (3, { on := true })] } },
     by decide +kernel⟩,
   ⟨4, { up with gw := { up.gw with port := [(4, { gateNext := some [1, 2] })] } }, [1, 2], by decide +kernel⟩,
   ⟨4, true, 1, upD, by decide +kernel⟩⟩

theorem wit_InboundRequests_2_4_2 : ∃ (r : PcieReq) (s : State) (w : Nat) (v : State) (bs : List Byte),
    let x := getWin s w
    let loc := x.loc + (r.off.toNat - x.remote)
    Arrives r s ∧ r.bar0 = false ∧ inWindow s r.port.val r.off.toNat = some w ∧ x.closing = false ∧ r.len ≠ 0 ∧
    r.off.toNat + r.len ≤ x.remote + x.size ∧ (r.port = 0 ∨ bitOf x.device r.device.val = true) ∧
    (r.write = true → bitOf x.flags 3 = false) ∧ loc % laneUnit x = 0 ∧ r.len % laneUnit x = 0 ∧
    (r.write = true → bitOf x.flags 2 = false) ∧ winTarget s x.owner loc r.len = true ∧
    access (.crossing r.port (BitVec.ofNat 8 w)) r.write loc r.len (throughLanes x r.data) [] s = (v, .done stOK bs) :=
  ⟨{ port := 0, requester := 3, device := 1, off := 0x10010, bar0 := false, write := true, posted := false, data := [1, 2, 3, 4], len := 4 },
    { up with cross := { up.cross with win := [(64, { live := true, owner := 0, loc := 0x20100000, remote := 0x10000, size := 0x10000 })], port := [(0, { up := true }), (1, { up := true })] }, boot := { up.boot with endpoint := true } },
    64, (access (.crossing 0 64) true 0x20100010 4 ([1, 2, 3,
    4]) [] ({ up with cross := { up.cross with win := [(64, { live := true, owner := 0, loc := 0x20100000, remote := 0x10000, size := 0x10000 })], port := [(0, { up := true }), (1, { up := true })] }, boot := { up.boot with endpoint := true } })).1,
    [],
   by decide +kernel, by decide +kernel, by decide +kernel, by decide +kernel, by decide +kernel, by decide +kernel, by decide +kernel,
   by decide +kernel, by decide +kernel, by decide +kernel, by decide +kernel, by decide +kernel, Prod.ext rfl (by decide +kernel)⟩

/-- A read of BAR0 at offset 0x10. -/
def readBar0 : PcieReq := { port := 0, requester := 3, device := 1, off := 0x10, bar0 := true, write := false, posted := false, data := [], len := 8 }

/-- Port 0 is a link with window 64 of G0 open. -/
def upHost : State :=
  { up with cross := { up.cross with win := [(64, { live := true, owner := 0, loc := 0x20100000, remote := 0x10000, size := 0x10000 })], port := [(0, { up := true }), (1, { up := true })] }, boot := { up.boot with endpoint := true } }

theorem wit_InboundRequests_3_3_inner : ∃ (r : PcieReq) (s : State) (w : Nat) (v : State) (bs : List Byte),
    Arrives r s ∧ r.bar0 = true ∧ r.port = 0 ∧ s.boot.endpoint = true ∧ r.len ≠ 0 ∧
    r.off.toNat + r.len ≤ (r.off.toNat / 0x1000 + 1) * 0x1000 ∧ r.off.toNat < 0x10000 ∧ hostParty s (r.off.toNat / 0x1000) = some w ∧
    access (.crossing r.port (BitVec.ofNat 8 w)) r.write (0x2000000000 + r.off.toNat) r.len r.data [] s = (v, .done stOK bs) :=
  ⟨readBar0, upHost, 64, _, leBytes 8 (dblVal upHost 0 0x10),
   by decide +kernel, by decide +kernel, by decide +kernel, by decide +kernel, by decide +kernel, by decide +kernel, by decide +kernel,
   by decide +kernel, pair_ok (by decide +kernel)⟩

theorem wit_OutboundTransactions_2_1 : ∃ (tag : Nat) (s : State) (x : OutTx),
    s.cross.out.find? (fun y => decide (y.tag = tag)) = some x ∧ x.phase = .confirm ∧ x.win < 128 :=
  ⟨5, { up with cross := { up.cross with out := [{ tag := 5, phase := .confirm, win := 3, ini := 0x4001, addr := 0x3000000000, len := 4, sentAt := 5 }], win := [(3, { live := true, owner := 0, loc := 0x3000000000, size := 0x1000, timeout := 50 })], port := [(0, { up := true }), (1, { up := true })] }, boot := { up.boot with endpoint := true } },
    { tag := 5, phase := .confirm, win := 3, ini := 0x4001, addr := 0x3000000000, len := 4, sentAt := 5 }, by decide +kernel⟩

theorem wit_OutboundTransactions_2_2 : ∃ (tag : Nat) (s : State) (x : OutTx),
    s.cross.out.find? (fun y => decide (y.tag = tag)) = some x ∧ x.phase = .confirm ∧ 128 ≤ x.win :=
  ⟨5, { up with cross := { up.cross with out := [{ tag := 5, phase := .confirm, win := 130, ini := 0x4001, addr := 0x3000000000, len := 4, sentAt := 5 }], win := [(3, { live := true, owner := 0, loc := 0x3000000000, size := 0x1000, timeout := 50 })], port := [(0, { up := true }), (1, { up := true })] }, boot := { up.boot with endpoint := true } },
    { tag := 5, phase := .confirm, win := 130, ini := 0x4001, addr := 0x3000000000, len := 4, sentAt := 5 }, by decide +kernel⟩

theorem wit_OutboundTransactions_2_3 : ∃ (tag : Nat) (s : State) (x : OutTx),
    s.cross.out.find? (fun y => decide (y.tag = tag)) = some x ∧ x.phase = .read ∧ ([1, 2, 3, 4] : List Byte).length = x.len :=
  ⟨5, { up with cross := { up.cross with out := [{ tag := 5, phase := .read, win := 3, ini := 0x4001, addr := 0x3000000000, len := 4, sentAt := 5 }], win := [(3, { live := true, owner := 0, loc := 0x3000000000, size := 0x1000, timeout := 50 })], port := [(0, { up := true }), (1, { up := true })] }, boot := { up.boot with endpoint := true } },
    { tag := 5, phase := .read, win := 3, ini := 0x4001, addr := 0x3000000000, len := 4, sentAt := 5 }, by decide +kernel⟩

theorem wit_OutboundTransactions_2_4 : ∃ (tag : Nat) (s : State) (x : OutTx),
    s.cross.out.find? (fun y => decide (y.tag = tag)) = some x ∧ x.phase = .read ∧ (4 : Byte) ≠ 0 :=
  ⟨5, { up with cross := { up.cross with out := [{ tag := 5, phase := .read, win := 3, ini := 0x4001, addr := 0x3000000000, len := 4, sentAt := 5 }], win := [(3, { live := true, owner := 0, loc := 0x3000000000, size := 0x1000, timeout := 50 })], port := [(0, { up := true }), (1, { up := true })] }, boot := { up.boot with endpoint := true } },
    { tag := 5, phase := .read, win := 3, ini := 0x4001, addr := 0x3000000000, len := 4, sentAt := 5 }, by decide +kernel⟩

theorem wit_OutboundTransactions_2_5 : ∃ (tag : Nat) (s : State) (x : OutTx),
    s.cross.out.find? (fun y => decide (y.tag = tag)) = some x ∧ (x.phase = .read ∨ x.phase = .confirm) :=
  ⟨5, { up with cross := { up.cross with out := [{ tag := 5, phase := .read, win := 3, ini := 0x4001, addr := 0x3000000000, len := 4, sentAt := 5 }], win := [(3, { live := true, owner := 0, loc := 0x3000000000, size := 0x1000, timeout := 50 })], port := [(0, { up := true }), (1, { up := true })] }, boot := { up.boot with endpoint := true } },
    { tag := 5, phase := .read, win := 3, ini := 0x4001, addr := 0x3000000000, len := 4, sentAt := 5 }, by decide +kernel⟩

theorem wit_OutboundTransactions_2_6 : ∃ (tag : Nat) (s : State) (x : OutTx),
    s.cross.out.find? (fun y => decide (y.tag = tag)) = some x ∧ x.phase = .late :=
  ⟨5, { up with cross := { up.cross with out := [{ tag := 5, phase := .late, win := 3, ini := 0x4001, addr := 0x3000000000, len := 4, sentAt := 5 }], win := [(3, { live := true, owner := 0, loc := 0x3000000000, size := 0x1000, timeout := 50 })], port := [(0, { up := true }), (1, { up := true })] }, boot := { up.boot with endpoint := true } },
    { tag := 5, phase := .late, win := 3, ini := 0x4001, addr := 0x3000000000, len := 4, sentAt := 5 }, by decide +kernel⟩

theorem wit_OutboundTransactions_2_7 : ∃ (tag : Nat) (s : State) (x : OutTx),
    s.cross.out.find? (fun y => decide (y.tag = tag)) = some x ∧ (x.phase = .read ∨ x.phase = .confirm) ∧
      (getWin s x.win).timeout * 100 ≤ ktSince s x.sentAt :=
  ⟨5, { up with cross := { up.cross with out := [{ tag := 5, phase := .read, win := 3, ini := 0x4001, addr := 0x3000000000, len := 4, sentAt := 5 }], win := [(3, { live := true, owner := 0, loc := 0x3000000000, size := 0x1000, timeout := 50 })], port := [(0, { up := true }), (1, { up := true })] }, boot := { up.boot with endpoint := true } },
    { tag := 5, phase := .read, win := 3, ini := 0x4001, addr := 0x3000000000, len := 4, sentAt := 5 }, by decide +kernel⟩

theorem wit_InboundRequests :
    (∃ (r : PcieReq) (s : State),
    Arrives r s ∧
    r.bar0 = false ∧
    inWindow s r.port.val r.off.toNat = none) ∧
    (∃ (r : PcieReq) (s : State) (w : Nat),
    Arrives r s ∧
    r.bar0 = false ∧
    inWindow s r.port.val r.off.toNat = some w ∧
    let x := getWin s w
    let loc := x.loc + (r.off.toNat - x.remote)
    r.write = false ∧
    r.len = 0 ∧
    (r.port ≠ 0 ∨ x.closing = false)) ∧
    (∃ (r : PcieReq) (s : State) (w : Nat),
    Arrives r s ∧
    r.bar0 = false ∧
    inWindow s r.port.val r.off.toNat = some w ∧
    let x := getWin s w
    let loc := x.loc + (r.off.toNat - x.remote)
    x.closing = true ∧
    r.len ≠ 0) ∧
    (∃ (r : PcieReq) (s : State) (w : Nat),
    Arrives r s ∧
    r.bar0 = false ∧
    inWindow s r.port.val r.off.toNat = some w ∧
    let x := getWin s w
    let loc := x.loc + (r.off.toNat - x.remote)
    x.closing = false ∧
    r.len ≠ 0 ∧
    r.off.toNat + r.len ≤ x.remote + x.size ∧
    ((r.port ≠ 0 ∧ bitOf x.device r.device.val = false) ∨ (r.write = true ∧ bitOf x.flags 3 = true))) ∧
    (∃ (r : PcieReq) (s : State) (w : Nat),
    Arrives r s ∧
    r.bar0 = false ∧
    inWindow s r.port.val r.off.toNat = some w ∧
    let x := getWin s w
    let loc := x.loc + (r.off.toNat - x.remote)
    x.closing = false ∧
    r.len ≠ 0 ∧
    r.off.toNat + r.len ≤ x.remote + x.size ∧
    (r.port = 0 ∨ bitOf x.device r.device.val = true) ∧
    (r.write = true → bitOf x.flags 3 = false) ∧
    loc % laneUnit x = 0 ∧
    r.len % laneUnit x = 0 ∧
    r.write = true ∧
    bitOf x.flags 2 = true) ∧
    (∃ (r : PcieReq) (s : State),
    Arrives r s ∧
    r.bar0 = true ∧
    r.port = 0 ∧
    s.boot.endpoint = true ∧
    r.len ≠ 0 ∧
    0x14000 ≤ r.off.toNat ∧
    r.off.toNat + r.len ≤ 0x15000 ∧
    r.write = true) ∧
    (∃ (r : PcieReq) (s : State),
    Arrives r s ∧
    r.bar0 = true ∧
    r.port = 0 ∧
    s.boot.endpoint = true ∧
    r.len ≠ 0 ∧
    0x14000 ≤ r.off.toNat ∧
    r.off.toNat + r.len ≤ 0x15000 ∧
    r.write = false) :=
  ⟨⟨{ port := 0, requester := 3, device := 1, off := 0x50000, bar0 := false, write := true, posted := false, data := [1, 2, 3, 4], len := 4 },
    { up with cross := { up.cross with win := [(64, { live := true, owner := 0, loc := 0x20100000, remote := 0x10000, size := 0x10000 })], port := [(0, { up := true }), (1, { up := true })] }, boot := { up.boot with endpoint := true } },
    by decide +kernel⟩,
   ⟨{ port := 0, requester := 3, device := 1, off := 0x10010, bar0 := false, write := false, posted := false, data := [], len := 0 },
     { up with cross := { up.cross with win := [(64, { live := true, owner := 0, loc := 0x20100000, remote := 0x10000, size := 0x10000 })], bad := [(0, 3)], port := [(0, { up := true }), (1, { up := true })] }, boot := { up.boot with endpoint := true } },
     64, by decide +kernel⟩,
   ⟨{ port := 0, requester := 3, device := 1, off := 0x10010, bar0 := false, write := true, posted := false, data := [1, 2, 3, 4], len := 4 },
     { up with cross := { up.cross with win := [(64, { live := true, owner := 0, loc := 0x20100000, remote := 0x10000, size := 0x10000, closing := true })], port := [(0, { up := true }), (1, { up := true })] }, boot := { up.boot with endpoint := true } },
     64, by decide +kernel⟩,
   ⟨{ port := 0, requester := 3, device := 1, off := 0x10010, bar0 := false, write := true, posted := false, data := [1, 2, 3, 4], len := 4 },
     { up with cross := { up.cross with win := [(64, { live := true, owner := 0, loc := 0x20100000, remote := 0x10000, size := 0x10000, flags := 8 })], port := [(0, { up := true }), (1, { up := true })] }, boot := { up.boot with endpoint := true } },
     64, by decide +kernel⟩,
   ⟨{ port := 0, requester := 3, device := 1, off := 0x10010, bar0 := false, write := true, posted := false, data := [1, 2, 3, 4], len := 4 },
     { up with cross := { up.cross with win := [(64, { live := true, owner := 0, loc := 0x20100000, remote := 0x10000, size := 0x10000, flags := 4 })], port := [(0, { up := true }), (1, { up := true })] }, boot := { up.boot with endpoint := true } },
     64, by decide +kernel⟩,
   ⟨{ port := 0, requester := 3, device := 1, off := 0x14010, bar0 := true, write := true, posted := false, data := [1, 2, 3, 4], len := 4 },
     { up with cross := { up.cross with win := [(64, { live := true, owner := 0, loc := 0x20100000, remote := 0x10000, size := 0x10000 })], port := [(0, { up := true }), (1, { up := true })] }, boot := { up.boot with endpoint := true } },
     by decide +kernel⟩,
   ⟨{ port := 0, requester := 3, device := 1, off := 0x14010, bar0 := true, write := false, posted := false, data := [], len := 4 },
     { up with cross := { up.cross with win := [(64, { live := true, owner := 0, loc := 0x20100000, remote := 0x10000, size := 0x10000 })], msixTab := [(16, 7)], port := [(0, { up := true }), (1, { up := true })] }, boot := { up.boot with endpoint := true } },
     by decide +kernel⟩⟩

theorem wit_OutboundTransactions : ∃ (s : State),
    (s.cross.out.map fun x => x.tag).Nodup :=
  ⟨{ up with cross := { up.cross with out := [{ tag := 5, phase := .gather, win := 3, ini := 0x4001, addr := 0x3000000000, len := 4, sentAt := 5 }], win := [(3, { live := true, owner := 0, loc := 0x3000000000, size := 0x1000, timeout := 50 })], port := [(0, { up := true }), (1, { up := true })] }, boot := { up.boot with endpoint := true } },
    by decide +kernel⟩

theorem wit_BridgeLinks :
    (∃ (w : BitVec 8) (s : State),
    (getWin s w.toNat).closing = true ∧
    (∀ x ∈ s.cross.out, x.win = w.toNat → x.phase = .late)) ∧
    (∃ (p : Fin 3) (s : State),
    (getPcie s p.val).up = true ∧
    (∀ x ∈ s.cross.out, routeOf s x.win ≠ some p.val)) ∧
    (∃ (s : State),
    s.pw.supplied = true ∧
    s.boot.held = false ∧
    s.boot.endpoint = true ∧
    (s.pw.st = .run ∨ s.pw.st = .hush ∨ s.pw.st = .doze) ∧
    s.pw.parking = 0 ∧
    s.pw.thermalDoze = false ∧
    s.pw.forced = false ∧
    (∀ x ∈ s.cross.out, routeOf s x.win ≠ some 0)) ∧
    (∃ (s : State),
    s.pw.supplied = true ∧
    s.boot.held = false ∧
    s.boot.endpoint = true ∧
    (getPcie s 0).up = true) ∧
    (∃ (p : Fin 2) (s : State),
    s.pw.supplied = true ∧
    s.boot.held = false ∧
    5 ≤ s.boot.phase ∧
    s.boot.phase ≠ 11 ∧
    Up s ∧
    (getPcie s (p.val + 1)).up = false) ∧
    (∃ (u : Fin 20) (s : State),
    8 ≤ u.val ∧
    u ≠ 19 ∧
    s.pw.supplied = true ∧
    s.boot.held = false ∧
    5 ≤ s.boot.phase ∧
    s.boot.phase ≠ 11 ∧
    Up s ∧
    tget s.boot.linkUp u.val ≠ 1) :=
  ⟨⟨3, { up with cross := { up.cross with out := [{ tag := 5, phase := .late, win := 3, ini := 0x4001, addr := 0x3000000000, len := 4, sentAt := 5 }], win := [(3, { live := true, closing := true })], port := [(0, { up := true }), (1, { up := true })] }, boot := { up.boot with endpoint := true } },
    by decide +kernel⟩,
   ⟨0, { up with cross := { up.cross with out := [], port := [(0, { up := true }), (1, { up := true })] }, boot := { up.boot with endpoint := true } },
     by decide +kernel⟩,
   ⟨{ up with cross := { up.cross with out := [], port := [(0, { up := true }), (1, { up := true })] }, boot := { up.boot with endpoint := true } },
     by decide +kernel⟩,
   ⟨{ up with cross := { up.cross with out := [], port := [(0, { up := true }), (1, { up := true })] }, boot := { up.boot with endpoint := true } },
     by decide +kernel⟩,
   ⟨1, { up with cross := { up.cross with count := 2, device := 1, port := [(0, { up := true }), (1, { up := true })] }, boot := { up.boot with endpoint := true } },
     by decide +kernel⟩,
   ⟨8, { up with cross := { up.cross with count := 2, port := [(0, { up := true }), (1, { up := true })] }, boot := { up.boot with endpoint := true } },
     by decide +kernel⟩⟩

/-- A compute reset has run for more than 20 ms. -/
def inReset : State := { up with boot := { up.boot with resetting := some 3, resetAt := (0, 16) }, ktime := 3000000 }

theorem wit_ResetScopes_5 : ∃ (s : State) (n : Nat), s.pending = [] ∧ s.boot.resetting = some n ∧ 2000000 ≤ ktSince (tick s) s.boot.resetAt.1 :=
  ⟨inReset, 3, rfl, by decide +kernel⟩

theorem wit_PowerUp :
    (∃ (s : State),
    s.boot.phase = 0 ∧
    600 ≤ s.field.vbat ∧
    s.field.vbat ≤ 3600) ∧
    (∃ (s : State),
    s.boot.phase = 0 ∧
    s.field.vbat < 450) ∧
    (∃ (s : State),
    s.boot.phase = 2) ∧
    (∃ (s : State),
    s.boot.phase = 11) ∧
    (∃ (s : State),
    s.boot.phase = 2 ∧
    s.boot.held = false ∧
    Verifies s) ∧
    (∃ (s : State),
    s.boot.phase = 2 ∧
    s.firm.committed = true ∧
    slotGood s 0 = false ∧
    slotGood s 1 = false) ∧
    (∃ (s : State),
    s.boot.phase = 2 ∧
    s.boot.held = false ∧
    s.firm.committed = true ∧
    slotGood s s.firm.slot = true ∧
    (bootInput s).bootCfg = true ∧
    (bootInput s).ucode = false) ∧
    (∃ (s : State),
    s.pw.supplied = true ∧
    Up s) :=
  ⟨⟨{ State.reset with field := { vbat := 1200 } }, by decide +kernel⟩,
   ⟨{ State.reset with field := { vbat := 100 } }, by decide +kernel⟩,
   ⟨{ up with boot := { up.boot with phase := 2, pgoodFails := 3 } }, by decide +kernel⟩,
   ⟨{ up with boot := { up.boot with phase := 11 } }, by decide +kernel⟩,
   ⟨{ up with boot := { up.boot with phase := 2, kind := 1, ready := false, input := some { afzanA := true, afzanB := true, ucode := true, bootCfg := true, worlds := true, debugAuth := none, leafMapOk := true, leafFail := [], injectFail := [], endpoint := true, srisClk := false, gxPcie := true } }, firm := { up.firm with a := { full := true }, b := { full := true, rollback := 1 }, slot := 0, committed := true } },
     by decide +kernel⟩,
   ⟨{ up with boot := { up.boot with phase := 2, ready := false }, firm := { up.firm with a := { full := false }, b := { full := false }, slot := 0, committed := true } },
     by decide +kernel⟩,
   ⟨{ up with boot := { up.boot with phase := 2, ready := false, input := some { afzanA := true, afzanB := true, ucode := false, bootCfg := true, worlds := true, debugAuth := none, leafMapOk := true, leafFail := [], injectFail := [], endpoint := true, srisClk := false, gxPcie := true } }, firm := { up.firm with a := { full := true }, b := { full := true, rollback := 1 }, slot := 0, committed := true } },
     by decide +kernel⟩,
   ⟨up, by decide +kernel⟩⟩

theorem wit_TrainingAndTest :
    (∃ (u : Fin 20) (s : State),
    s.pw.supplied = true ∧
    s.boot.held = false ∧
    s.boot.service = false ∧
    tget s.boot.linkUp u.val ≠ 1 ∧
    (u.val < 8 → s.boot.phase = 5)) ∧
    (∃ (u : Fin 20) (s : State),
    s.pw.supplied = true ∧
    s.boot.held = false ∧
    s.boot.service = false ∧
    tget s.boot.linkUp u.val ≠ 1 ∧
    (u.val < 8 → s.boot.phase = 5)) ∧
    (∃ (u : Fin 20) (s : State),
    s.pw.supplied = true ∧
    s.boot.held = false ∧
    s.boot.service = false ∧
    tget s.boot.linkUp u.val ≠ 1 ∧
    (u.val < 8 → s.boot.phase = 5)) ∧
    (∃ (u : Fin 20) (s : State),
    u.val < 8 ∧
    s.pw.supplied = true ∧
    s.boot.held = false ∧
    s.boot.service = false ∧
    tget s.boot.linkUp u.val ≠ 1 ∧
    s.boot.phase = 5 ∧
    (∀ j < 8, j ≠ u.val → tget s.boot.linkUp j = 1) ∧
    (bootInput s).leafFail = [] ∧
    (bootInput s).leafMapOk = true ∧
    Tab.wf s.boot.map = true) ∧
    (∃ (s : State),
    s.boot.phase = 6 ∧
    s.boot.service = false ∧
    s.boot.held = false ∧
    s.boot.round < 4) ∧
    (∃ (bad : List (Fin 8)) (s : State),
    s.boot.phase = 6 ∧
    s.boot.service = false ∧
    s.boot.held = false ∧
    4 ≤ s.boot.round ∧
    bad = [] ∧
    (bootInput s).worlds = true) ∧
    (∃ (bad : List (Fin 8)) (s : State),
    s.boot.phase = 6 ∧
    s.boot.service = false ∧
    s.boot.held = false ∧
    4 ≤ s.boot.round ∧
    bad = [] ∧
    (bootInput s).worlds = true) ∧
    (∃ (bad : List (Fin 8)) (s : State),
    s.boot.phase = 6 ∧
    s.boot.service = false ∧
    s.boot.held = false ∧
    4 ≤ s.boot.round ∧
    bad = [] ∧
    (bootInput s).worlds = false) ∧
    (∃ (bad : List (Fin 8)) (s : State),
    s.boot.phase = 6 ∧
    s.boot.service = false ∧
    s.boot.held = false ∧
    4 ≤ s.boot.round ∧
    bad ≠ []) :=
  ⟨⟨3, { up with boot := { up.boot with service := false, held := false, phase := 5, ready := false, attempts := [(3, 2)] } }, by decide +kernel⟩,
   ⟨3, { up with boot := { up.boot with service := false, held := false, phase := 5, ready := false } }, by decide +kernel⟩,
   ⟨19, { up with boot := { up.boot with service := false, held := false, phase := 10 }, field := { up.field with linkUp := false, holding := true } },
     by decide +kernel⟩,
   ⟨7, { up with boot := { up.boot with service := false, held := false, phase := 5, ready := false, linkUp := [(0,1),(1,1),(2,1),(3,1),(4,1),(5,1),(6,1)], map := (List.range 168).map fun i => (i, if i = 5 then 1 else 2), input := some { afzanA := true, afzanB := true, ucode := true, bootCfg := true, worlds := true, debugAuth := none, leafMapOk := true, leafFail := [], injectFail := [], endpoint := true, srisClk := false, gxPcie := true } } },
     by decide +kernel⟩,
   ⟨{ up with boot := { up.boot with service := false, held := false, phase := 6, ready := false, round := 2, input := some { afzanA := true, afzanB := true, ucode := true, bootCfg := true, worlds := true, debugAuth := none, leafMapOk := true, leafFail := [], injectFail := [], endpoint := true, srisClk := false, gxPcie := true } } },
     by decide +kernel⟩,
   ⟨[], { up with boot := { up.boot with service := false, held := false, phase := 6, ready := false, round := 4, input := some { afzanA := true, afzanB := true, ucode := true, bootCfg := true, worlds := true, debugAuth := none, leafMapOk := true, leafFail := [], injectFail := [], endpoint := true, srisClk := false, gxPcie := true } } },
     by decide +kernel⟩,
   ⟨[], { up with boot := { up.boot with service := false, held := false, phase := 6, ready := false, round := 4, input := some { afzanA := true, afzanB := true, ucode := true, bootCfg := true, worlds := true, debugAuth := none, leafMapOk := true, leafFail := [], injectFail := [2], endpoint := true, srisClk := false, gxPcie := true } } },
     by decide +kernel⟩,
   ⟨[], { up with boot := { up.boot with service := false, held := false, phase := 6, ready := false, round := 4, input := some { afzanA := true, afzanB := true, ucode := true, bootCfg := true, worlds := false, debugAuth := none, leafMapOk := true, leafFail := [], injectFail := [], endpoint := true, srisClk := false, gxPcie := true } } },
     by decide +kernel⟩,
   ⟨[1], { up with boot := { up.boot with service := false, held := false, phase := 6, ready := false, round := 4, input := some { afzanA := true, afzanB := true, ucode := true, bootCfg := true, worlds := true, debugAuth := none, leafMapOk := true, leafFail := [], injectFail := [], endpoint := true, srisClk := false, gxPcie := true } } },
     by decide +kernel⟩⟩

theorem wit_ResetScopes :
    (∃ (s : State) (req : Nat),
    s.boot.resetAsk = some (2, req) ∧
    s.safe.kettleFault = false) ∧
    (∃ (s : State) (req : Nat),
    s.boot.resetAsk = some (3, req) ∧
    s.safe.kettleFault = false) ∧
    (∃ (s : State) (req : Nat),
    s.boot.resetAsk = some (4, req) ∧
    s.safe.kettleFault = false) ∧
    (∃ (s : State) (x : Nat × Nat),
    s.boot.resetAsk = some x ∧
    s.safe.kettleFault = true) ∧
    (∃ (us : Nat),
    us < 10) ∧
    (∃ (us : Nat) (s : State),
    s.pw.supplied = true ∧
    10 ≤ us ∧
    us ≤ 100000) ∧
    (∃ (us : Nat) (s : State),
    s.pw.supplied = true ∧
    100000 < us) ∧
    (∃ (s : State),
    5 ≤ s.boot.phase ∧
    s.boot.phase ≠ 11 ∧
    s.pw.st ≠ .park ∧
    (1024 ≤ seqDist s.caddy.unflushed s.caddy.next ∨ 100000000 ≤ ktSince s s.caddy.lastFlush)) :=
  ⟨⟨{ up with boot := { up.boot with resetAsk := some (2, 16) } }, 16, by decide +kernel⟩,
   ⟨{ up with boot := { up.boot with resetAsk := some (3, 16) } }, 16, by decide +kernel⟩,
   ⟨{ up with boot := { up.boot with resetAsk := some (4, 16) } }, 16, by decide +kernel⟩,
   ⟨{ up with boot := { up.boot with resetAsk := some (3, 16) }, safe := { up.safe with kettleFault := true } }, (3, 16), by decide +kernel⟩,
   ⟨9, by decide +kernel⟩,
   ⟨10, up, by decide +kernel⟩,
   ⟨100001, up, by decide +kernel⟩,
   ⟨{ up with ktime := 200000000 }, by decide +kernel⟩⟩

/-- Unit `u` of G0 is `x`, and command `c` stands at the head of its command queue. -/
def upIo (u : Nat) (c : List Byte) (x : IoUnit) : State :=
  memWrite { up with queue := [(20, { bound := true, base := 0x20000000, lg := 2, esize := 2, kind := 1, tail := 1 }),
                               (21, { bound := true, base := 0x20001000, lg := 2, esize := 1, kind := 1 })]
                     io := { up.io with unit := [(u, { x with owner := 1, conf := bytesOf 32 [(4, 4, 20), (8, 4, 21)] ++ x.conf })] } } 0x20000000 c

/-- A command of tag 7. -/
def ioCmd (op : Nat) (fs : List (Nat × Nat × Nat)) : List Byte := bytesOf 64 ([(0, 8, 7), (8, 1, op)] ++ fs)

theorem wit_HostCommands_1 : ∃ (x : Instr × Nat × Nat) (s : State) (c : List Byte), (∃ u : Fin 14,
      (u.val < 8 ∧ (x = (.usbPortReset u, u.val, 1) ∨ x = (.usbAddress u, u.val, 2))) ∨
      (u = 8 ∧ (x = (.ufsTask u, 8, 0x12) ∨ x = (.ufsLink u, 8, 0x13))) ∨
      (10 ≤ u.val ∧ (x = (.i2sPlay u, u.val, 0x20) ∨ x = (.i2sRecord u, u.val, 0x21)))) ∧ Commands x.2.1 x.2.2 c s :=
  ⟨(.i2sPlay 10, 10, 0x20), upIo 10 (ioCmd 0x20 [(12, 4, 64), (16, 6, 0x20000100)]) {  }, ioCmd 0x20 [(12, 4, 64), (16, 6, 0x20000100)], ⟨10,
    Or.inr (Or.inr ⟨by decide, Or.inl rfl⟩)⟩, by decide +kernel⟩

theorem wit_HostCommands_2 : ∃ (x : Instr × Nat) (s : State) (c : List Byte),
    x ∈ [((.xspiRead 9 : Instr), 0x30), (.xspiProgram 9, 0x31), (.xspiErase 9, 0x32)] ∧ Commands 9 x.2 c s ∧ s.caddy.flushing = false :=
  ⟨(.xspiRead 9, 0x30), upIo 9 (ioCmd 0x30 [(12, 4, 64), (16, 6, 0x20000100)]) {  }, ioCmd 0x30 [(12, 4, 64), (16, 6, 0x20000100)], by simp,
    by decide +kernel⟩

theorem wit_HostCommands_6 : ∃ (x : Instr × Nat × Nat) (s : State) (c : List Byte) (v : State) (bs : List Byte),
    (∃ u : Fin 14, (u.val < 8 ∧ x = (.usbTransfer u, u.val, 4) ∧ epIn c = false ∧
        ((getUnit s u.val).fly.filter fun x => decide (ioOp x.cmd = 4)).length < 512) ∨
      (u = 8 ∧ x = (.ufsScsi u, 8, 0x10) ∧ ioParam c 16 1 = 2 ∧ ((getUnit s 8).fly.filter fun x => decide (ioOp x.cmd = 0x10)).length < 32) ∨
      (u = 8 ∧ x = (.ufsQuery u, 8, 0x11))) ∧
    Commands x.2.1 x.2.2 c s ∧ busRead (ioIni x.2.1) (ioAddr c) (ioBytes c) (fetched x.2.1 s) = (v, stOK, bs) :=
  ⟨(.usbTransfer 1, 1, 4), upIo 1 (ioCmd 0x4 [(10, 2, 5), (12, 4, 8), (16, 6, 0x20000100)]) {  }, ioCmd 0x4 [(10, 2, 5), (12, 4, 8), (16, 6,
    0x20000100)], _, List.replicate 8 0, ⟨1, Or.inl ⟨by decide, rfl, by decide +kernel⟩⟩, by decide +kernel,
   pair_ok (by decide +kernel)⟩

theorem wit_HostEvents_1_5 : ∃ (u : Fin 14) (r : IoResult) (s : State) (x : IoCmd) (v w : State), ioOn s u.val = true ∧ u.val < 10 ∧
  ioStatusOk r.status.toNat = true ∧
    (u = 9 → s.caddy.flushing = false) ∧ (getUnit s u.val).held = [] ∧ ioFind (getUnit s u.val) (isUsb u.val) r.tag.toNat = some x ∧
    ((ioOp x.cmd = 4 ∧ epIn x.cmd = true ∧ r.detail = 0) ∨ ioOp x.cmd = 0x11) ∧
      v = { s with io := { s.io with unit := tmod s.io.unit u.val fun t => { t with fly := t.fly.erase x } } } ∧
    busWrite (ioIni u.val) (ioAddr x.cmd) (r.data.take (ioBytes x.cmd)) v = (w, stOK) :=
  ⟨8, { tag := 7, status := 0, detail := 0, bytes := 4, data := [1, 2, 3, 4] },
    upIo 8 ([]) { fly := [{ cmd := ioCmd 0x11 [(12, 4, 4), (16, 6, 0x20000100)] }] }, { cmd := ioCmd 0x11 [(12, 4, 4), (16, 6, 0x20000100)] }, _, _,
    by decide +kernel, by decide +kernel, by decide +kernel, by decide +kernel, by decide +kernel, by decide +kernel,
   by decide +kernel, rfl, pair_ok (by decide +kernel)⟩

theorem wit_HostEvents_1_8 : ∃ (u : Fin 14) (r : IoResult) (s : State) (x : IoCmd) (v w : State), ioOn s u.val = true ∧ u.val < 10 ∧
  ioStatusOk r.status.toNat = true ∧
    (u = 9 → s.caddy.flushing = false) ∧ (getUnit s u.val).held = [] ∧ ioFind (getUnit s u.val) (isUsb u.val) r.tag.toNat = some x ∧
    ioOp x.cmd = 0x30 ∧ r.status = 0 ∧ v = { s with io := { s.io with unit := tmod s.io.unit u.val fun t => { t with fly := t.fly.erase x } } } ∧
    busWrite (ioIni u.val) (ioAddr x.cmd) (flashRead s (ioParam x.cmd 0 4) r.data (ioBytes x.cmd)) v = (w, stOK) :=
  ⟨9, { tag := 7, status := 0, detail := 0, bytes := 4, data := [1, 2, 3, 4] },
    upIo 9 ([]) { fly := [{ cmd := ioCmd 0x30 [(12, 4, 4), (16, 6, 0x20000100)] }] }, { cmd := ioCmd 0x30 [(12, 4, 4), (16, 6, 0x20000100)] }, _, _,
    by decide +kernel, by decide +kernel, by decide +kernel, by decide +kernel, by decide +kernel, by decide +kernel,
   by decide +kernel, by decide +kernel, rfl, pair_ok (by decide +kernel)⟩

theorem wit_HostEvents_1_9 : ∃ (u : Fin 14) (r : IoResult) (s : State) (x : IoCmd) (v w : State) (bs : List Byte), ioOn s u.val = true ∧ u.val < 10 ∧
  ioStatusOk r.status.toNat = true ∧
    (u = 9 → s.caddy.flushing = false) ∧ (getUnit s u.val).held = [] ∧ ioFind (getUnit s u.val) (isUsb u.val) r.tag.toNat = some x ∧
    ioOp x.cmd = 0x31 ∧ r.status = 0 ∧ v = { s with io := { s.io with unit := tmod s.io.unit u.val fun t => { t with fly := t.fly.erase x } } } ∧
    busRead (ioIni u.val) (ioAddr x.cmd) (ioBytes x.cmd) v = (w, stOK, bs) ∧ w.io = v.io :=
  ⟨9, { tag := 7, status := 0, detail := 0, bytes := 4, data := [1, 2, 3, 4] },
    upIo 9 ([]) { fly := [{ cmd := ioCmd 0x31 [(12, 4, 4), (16, 6, 0x20000100)] }] }, { cmd := ioCmd 0x31 [(12, 4, 4), (16, 6, 0x20000100)] }, _, _,
    List.replicate 4 0, by decide +kernel, by decide +kernel, by decide +kernel, by decide +kernel, by decide +kernel, by decide +kernel,
   by decide +kernel, by decide +kernel, rfl, pair_ok (by decide +kernel), by decide +kernel⟩

/-- I²S port 2 of G0 plays a buffer: 4 bytes have gone out. -/
def upPlay : State :=
  memWrite { up with io := { up.io with unit := [(12, { owner := 1, conf := bytesOf 32 [(4, 4, 20), (8, 4, 21), (17, 1, 2), (19, 1, 16)], fly := [{ cmd := ioCmd 0x20 [(12, 4, 64), (16, 6, 0x20000100)], done := 4 }] })] } } 0x20000104 [1,
  2, 3, 4]

theorem wit_FramesAndInterfaces_2 : ∃ (p : Fin 4) (s : State) (x : IoCmd) (v : State) (bs : List Byte),
    let u := 10 + p.val
    let n := frameBytes (getUnit s u).conf
    ioOn s u = true ∧ (getUnit s u).fly = [x] ∧ ioOp x.cmd = 0x20 ∧ x.done + 2 * n ≤ ioBytes x.cmd ∧ x.done ≠ 0 ∧
    busRead (ioIni u) (ioAddr x.cmd + x.done) n s = (v, stOK, bs) ∧ v.io = s.io ∧ ioOn v u = true :=
  ⟨2, upPlay, { cmd := ioCmd 0x20 [(12, 4, 64), (16, 6, 0x20000100)], done := 4 }, _, [1, 2, 3, 4], by decide +kernel, by decide +kernel,
    by decide +kernel,
   by decide +kernel, by decide +kernel, pair_ok (by decide +kernel), by decide +kernel⟩

/-- Interface 4 of G0 has a frame to send in queue 20, receives into queue 21, and takes its buffers from queue 22. -/
def upNic : State :=
  memWrite (memWrite (memWrite
    { up with queue := [(20, { bound := true, base := 0x20000000, lg := 2, esize := 1, kind := 1, tail := 1 }),
                        (21, { bound := true, base := 0x20001000, lg := 2, esize := 1, kind := 1 }),
                        (22, { bound := true, base := 0x20002000, lg := 2, esize := 1, kind := 1, tail := 1 })]
              io := { up.io with vnic := [(4, { owner := 1, conf := bytesOf 32 [(1, 1, 1), (2, 2, 5), (12, 4, 20), (16, 4, 21), (20, 4, 22), (24, 2, 1024)] })] } }
    0x20000000 (leBytes 8 0x20004000)) 0x20000008 (leBytes 2 60)) 0x20002000 (leBytes 8 0x20005000)

/-- A frame of VLAN 5. -/
def frame5 : EthFrame :=
  { vlan := 5, pcp := 1, dst := 6, src := 8, body := .other, bytes := List.replicate 60 7, payload := [], csumGood := true }

theorem wit_FramesAndInterfaces_3 : ∃ (v : Fin 32) (s w : State) (bs : List Byte),
    let c := (getVnic s v.val).conf
    let q := vTx c
    let r := headEntry s q
    vnicOn s v.val = true ∧ (getVnic s v.val).held = [] ∧ (getQ s q).bound = true ∧ (getQ s q).len ≠ 0 ∧ 60 ≤ field r 8 2 ∧ field r 8 2 ≤ 9212 ∧
    field r 10 1 = 0 ∧
    busRead (vnicIni (ownerOf (getVnic s v.val).owner)) (field r 0 6) (field r 8 2) (clearOut (roomMade q (popEntry q s))) = (w, stOK, bs) :=
  ⟨4, upNic, _, List.replicate 60 0, by decide +kernel, by decide +kernel, by decide +kernel, by decide +kernel, by decide +kernel, by decide +kernel,
   by decide +kernel, pair_ok (by decide +kernel)⟩

theorem wit_FramesAndInterfaces_4 : ∃ (v : Fin 32) (f : EthFrame) (s w : State),
    let c := (getVnic s v.val).conf
    let q := vFree c
    vnicOn s v.val = true ∧ vnicFor c f = true ∧ (getQ s q).bound = true ∧ (getQ s q).len ≠ 0 ∧ canPush s (vRx c) = true ∧
    (getVnic s v.val).held = [] ∧ f.bytes.length ≤ field c 24 2 ∧
    busWrite (vnicIni (ownerOf (getVnic s v.val).owner)) (field (headEntry s q) 0 6) f.bytes (roomMade q (popEntry q s)) = (w, stOK) :=
  ⟨4, frame5, upNic, _, by decide +kernel, by decide +kernel, by decide +kernel, by decide +kernel, by decide +kernel, by decide +kernel,
   by decide +kernel, pair_ok (by decide +kernel)⟩

theorem wit_FramesAndInterfaces_4_drop : ∃ (v : Fin 32) (f : EthFrame) (s : State), vnicOn s v.val = true ∧ vnicFor (getVnic s v.val).conf f = true ∧
    (getQ s (vFree (getVnic s v.val).conf)).len = 0 :=
  ⟨4, frame5, { upNic with queue := [] }, by decide +kernel⟩

theorem wit_HostCommands :
    (∃ (u : Fin 14) (s : State) (c : List Byte),
    u.val < 8 ∧
    Commands u.val 3 c s ∧
    (tget (getUnit s u.val).eps (epKey c) ≠ [] ∨ (getUnit s u.val).eps.length < 64)) ∧
    (∃ (u : Fin 14) (s : State) (c : List Byte),
    u.val < 8 ∧
    Commands u.val 3 c s ∧
    tget (getUnit s u.val).eps (epKey c) = [] ∧
    64 ≤ (getUnit s u.val).eps.length) ∧
    (∃ (u : Fin 14) (s : State) (c : List Byte),
    u.val < 8 ∧
    Commands u.val 4 c s ∧
    epIn c = true ∧
    ((getUnit s u.val).fly.filter fun x => decide (ioOp x.cmd = 4)).length < 512) ∧
    (∃ (s : State) (c : List Byte),
    Commands 8 0x10 c s ∧
    ioParam c 16 1 ≠ 2 ∧
    ((getUnit s 8).fly.filter fun x => decide (ioOp x.cmd = 0x10)).length < 32) ∧
    (∃ (u : Fin 14) (s : State) (c : List Byte),
    u.val < 8 ∧
    Commands u.val 5 c s ∧
    (∀ x ∈ (getUnit s u.val).fly, ioOp x.cmd = 4 → epKey x.cmd ≠ epKey c)) ∧
    (∃ (u : Fin 14) (s : State) (c : List Byte),
    u.val < 8 ∧
    Commands u.val 5 c s) ∧
    (∃ (u : Fin 14) (s : State) (c : List Byte),
    10 ≤ u.val ∧
    Commands u.val 0x22 c s) ∧
    (∃ (u : Fin 14) (s : State) (c : List Byte),
    10 ≤ u.val ∧
    Commands u.val 0x22 c s) ∧
    (∃ (u : Fin 14) (s : State) (c : List Byte) (st : Nat),
    u.val < 8 ∧
    ioOn s u.val = true ∧
    (getUnit s u.val).closing = none ∧
    (getUnit s u.val).held = [] ∧
    (getQ s (cmdQ (getUnit s u.val))).bound = true ∧
    (getQ s (cmdQ (getUnit s u.val))).len ≠ 0 ∧
    headEntry s (cmdQ (getUnit s u.val)) = c ∧
    ioOp c = 1 ∧
    ioRefused s u.val c = some st) :=
  ⟨⟨2, upIo 2 (ioCmd 0x3 [(10, 2, 5)]) {  }, ioCmd 0x3 [(10, 2, 5)], by decide +kernel⟩,
   ⟨2, upIo 2 (ioCmd 0x3 [(10, 2, 5)]) { eps := (List.range 64).map fun i => (i + 100, [1]) }, ioCmd 0x3 [(10, 2, 5)], by decide +kernel⟩,
   ⟨1, upIo 1 (ioCmd 0x4 [(10, 2, 0x805), (12, 4, 64), (16, 6, 0x20000100)]) {  }, ioCmd 0x4 [(10, 2, 0x805), (12, 4, 64), (16, 6, 0x20000100)],
     by decide +kernel⟩,
   ⟨upIo 8 (ioCmd 0x10 [(12, 4, 64), (16, 6, 0x20000100)]) {  }, ioCmd 0x10 [(12, 4, 64), (16, 6, 0x20000100)], by decide +kernel⟩,
   ⟨1, upIo 1 (ioCmd 0x5 [(10, 2, 5)]) { fly := [{ cmd := ioCmd 0x4 [(10, 2, 6)] }], halted := [(5, 1)] }, ioCmd 0x5 [(10, 2, 5)], by decide +kernel⟩,
   ⟨1, upIo 1 (ioCmd 0x5 [(10, 2, 5)]) { fly := [{ cmd := ioCmd 0x4 [(10, 2, 6)] }, { cmd := ioCmd 0x4 [(10, 2, 5)] }], halted := [(5, 1)] },
     ioCmd 0x5 [(10, 2, 5)], by decide +kernel⟩,
   ⟨12, upIo 12 (ioCmd 0x22 []) { fly := [{ cmd := ioCmd 0x21 [] }] }, ioCmd 0x22 [], by decide +kernel⟩,
   ⟨12, upIo 12 (ioCmd 0x22 []) { fly := [{ cmd := ioCmd 0x21 [] }, { cmd := ioCmd 0x20 [] }] }, ioCmd 0x22 [], by decide +kernel⟩,
   ⟨3, upIo 3 (ioCmd 0x1 [(12, 4, 64), (16, 6, 0x30000100)]) {  }, ioCmd 0x1 [(12, 4, 64), (16, 6, 0x30000100)], stDENIED, by decide +kernel⟩⟩

theorem wit_HostEvents :
    (∃ (u : Fin 14) (r : IoResult) (s : State) (x : IoCmd),
    ioOn s u.val = true ∧
    u.val < 10 ∧
    ioStatusOk r.status.toNat = true ∧
    (u = 9 → s.caddy.flushing = false) ∧
    (getUnit s u.val).held = [] ∧
    ioFind (getUnit s u.val) (isUsb u.val) r.tag.toNat = some x ∧
    let rec_ := fun (v : State) => cplRec (ioTag x.cmd) r.status.toNat (ioOp x.cmd) r.detail.toNat r.bytes v.ktime
    ioOp x.cmd ∈ [1, 0x12, 0x22]) ∧
    (∃ (u : Fin 14) (r : IoResult) (s : State) (x : IoCmd),
    ioOn s u.val = true ∧
    u.val < 10 ∧
    ioStatusOk r.status.toNat = true ∧
    (u = 9 → s.caddy.flushing = false) ∧
    (getUnit s u.val).held = [] ∧
    ioFind (getUnit s u.val) (isUsb u.val) r.tag.toNat = some x ∧
    let rec_ := fun (v : State) => cplRec (ioTag x.cmd) r.status.toNat (ioOp x.cmd) r.detail.toNat r.bytes v.ktime
    ioOp x.cmd = 2) ∧
    (∃ (u : Fin 14) (r : IoResult) (s : State) (x : IoCmd),
    ioOn s u.val = true ∧
    u.val < 10 ∧
    ioStatusOk r.status.toNat = true ∧
    (u = 9 → s.caddy.flushing = false) ∧
    (getUnit s u.val).held = [] ∧
    ioFind (getUnit s u.val) (isUsb u.val) r.tag.toNat = some x ∧
    let rec_ := fun (v : State) => cplRec (ioTag x.cmd) r.status.toNat (ioOp x.cmd) r.detail.toNat r.bytes v.ktime
    ioOp x.cmd = 3) ∧
    (∃ (u : Fin 14) (r : IoResult) (s : State) (x : IoCmd),
    ioOn s u.val = true ∧
    u.val < 10 ∧
    ioStatusOk r.status.toNat = true ∧
    (u = 9 → s.caddy.flushing = false) ∧
    (getUnit s u.val).held = [] ∧
    ioFind (getUnit s u.val) (isUsb u.val) r.tag.toNat = some x ∧
    let rec_ := fun (v : State) => cplRec (ioTag x.cmd) r.status.toNat (ioOp x.cmd) r.detail.toNat r.bytes v.ktime
    ioOp x.cmd = 4 ∧
    epIn x.cmd = false) ∧
    (∃ (u : Fin 14) (r : IoResult) (s : State) (x : IoCmd),
    ioOn s u.val = true ∧
    u.val < 10 ∧
    ioStatusOk r.status.toNat = true ∧
    (u = 9 → s.caddy.flushing = false) ∧
    (getUnit s u.val).held = [] ∧
    ioFind (getUnit s u.val) (isUsb u.val) r.tag.toNat = some x ∧
    let rec_ := fun (v : State) => cplRec (ioTag x.cmd) r.status.toNat (ioOp x.cmd) r.detail.toNat r.bytes v.ktime
    ioOp x.cmd = 0x10 ∧
    ioParam x.cmd 16 1 ≠ 1 ∧
    r.detail.toNat % 256 ≠ 2) ∧
    (∃ (u : Fin 14) (r : IoResult) (s : State) (x : IoCmd),
    ioOn s u.val = true ∧
    u.val < 10 ∧
    ioStatusOk r.status.toNat = true ∧
    (u = 9 → s.caddy.flushing = false) ∧
    (getUnit s u.val).held = [] ∧
    ioFind (getUnit s u.val) (isUsb u.val) r.tag.toNat = some x ∧
    let rec_ := fun (v : State) => cplRec (ioTag x.cmd) r.status.toNat (ioOp x.cmd) r.detail.toNat r.bytes v.ktime
    ioOp x.cmd = 0x13) ∧
    (∃ (u : Fin 14) (r : IoResult) (s : State) (x : IoCmd),
    ioOn s u.val = true ∧
    u.val < 10 ∧
    ioStatusOk r.status.toNat = true ∧
    (u = 9 → s.caddy.flushing = false) ∧
    (getUnit s u.val).held = [] ∧
    ioFind (getUnit s u.val) (isUsb u.val) r.tag.toNat = some x ∧
    let rec_ := fun (v : State) => cplRec (ioTag x.cmd) r.status.toNat (ioOp x.cmd) r.detail.toNat r.bytes v.ktime
    ioOp x.cmd = 0x32 ∧
    r.status = 0) ∧
    (∃ (u : Fin 14) (s : State),
    u.val < 8 ∧
    ioOn s u.val = true ∧
    (getUnit s u.val).held = []) ∧
    (∃ (u : Fin 14) (s : State),
    u.val < 8 ∧
    ioOn s u.val = true ∧
    (getUnit s u.val).held = []) ∧
    (∃ (u : Fin 14) (s : State),
    u.val < 8 ∧
    ioOn s u.val = true ∧
    (getUnit s u.val).held = []) ∧
    (∃ (s : State),
    ioOn s 8 = true ∧
    (getUnit s 8).held = []) ∧
    (∃ (s : State),
    ioOn s 8 = true ∧
    (getUnit s 8).held = []) ∧
    (∃ (tag : BitVec 64) (s : State) (x : IoCmd),
    ioOn s 8 = true ∧
    (getUnit s 8).held = [] ∧
    (getUnit s 8).fly.find? (fun y => decide (ioOp y.cmd = 0x10) && decide (ioTag y.cmd = tag.toNat)) = some x ∧
    3000000000 ≤ ktSince s x.at_) :=
  ⟨⟨1, { tag := 7, status := 0, detail := 0, bytes := 4, data := [] },
    memWrite (upIo 1 ([]) { fly := [{ cmd := ioCmd 0x7f [(0, 8, 9)] }, { cmd := ioCmd 0x1 [] }] }) 0x20000040 [9], { cmd := ioCmd 0x1 [] },
    by decide +kernel⟩,
   ⟨1, { tag := 7, status := 0, detail := 0, bytes := 4, data := [] },
     memWrite (upIo 1 ([]) { fly := [{ cmd := ioCmd 0x7f [(0, 8, 9)] }, { cmd := ioCmd 0x2 [(10, 2, 5), (28, 4, 0x12345)] }] }) 0x20000040 [9],
     { cmd := ioCmd 0x2 [(10, 2, 5), (28, 4, 0x12345)] }, by decide +kernel⟩,
   ⟨1, { tag := 7, status := 0, detail := 0, bytes := 4, data := [] },
     memWrite (upIo 1 ([]) { fly := [{ cmd := ioCmd 0x7f [(0, 8, 9)] }, { cmd := ioCmd 0x3 [(10, 2, 5), (24, 5, 0x12345)] }] }) 0x20000040 [9],
     { cmd := ioCmd 0x3 [(10, 2, 5), (24, 5, 0x12345)] }, by decide +kernel⟩,
   ⟨1, { tag := 7, status := BitVec.ofNat 8 stDATA_ERROR, detail := 1, bytes := 4, data := [] },
     memWrite (upIo 1 ([]) { fly := [{ cmd := ioCmd 0x7f [(0, 8, 9)] }, { cmd := ioCmd 0x4 [(10, 2, 5), (12, 4, 64), (16, 6, 0x20000100)] }] }) 0x20000040 [9],
     { cmd := ioCmd 0x4 [(10, 2, 5), (12, 4, 64), (16, 6, 0x20000100)] }, by decide +kernel⟩,
   ⟨8, { tag := 7, status := 0, detail := 0, bytes := 4, data := [] },
     memWrite (upIo 8 ([]) { fly := [{ cmd := ioCmd 0x7f [(0, 8, 9)] }, { cmd := ioCmd 0x10 [(40, 1, 2), (12, 4, 64), (16, 6, 0x20000100)] }] }) 0x20000040 [9],
     { cmd := ioCmd 0x10 [(40, 1, 2), (12, 4, 64), (16, 6, 0x20000100)] }, by decide +kernel⟩,
   ⟨8, { tag := 7, status := 0, detail := 0, bytes := 4, data := [] },
     memWrite (upIo 8 ([]) { fly := [{ cmd := ioCmd 0x7f [(0, 8, 9)] }, { cmd := ioCmd 0x13 [(24, 1, 1)] }] }) 0x20000040 [9],
     { cmd := ioCmd 0x13 [(24, 1, 1)] }, by decide +kernel⟩,
   ⟨9, { tag := 7, status := 0, detail := 0, bytes := 4, data := [] },
     memWrite (upIo 9 ([]) { fly := [{ cmd := ioCmd 0x7f [(0, 8, 9)] }, { cmd := ioCmd 0x32 [(24, 4, 0), (12, 4, 0)] }] }) 0x20000040 [9],
     { cmd := ioCmd 0x32 [(24, 4, 0), (12, 4, 0)] }, by decide +kernel⟩,
   ⟨3, upIo 3 ([]) {  }, by decide +kernel⟩,
   ⟨3, upIo 3 ([]) { addrs := [(5, 0x22), (6, 0x33)], eps := [(5, [1]), (6, [2])] }, by decide +kernel⟩,
   ⟨3, upIo 3 ([]) { addrs := [(5, 0x22), (6, 0x33)], eps := [(5, [1]), (6, [2])], fly := [{ cmd := ioCmd 0x4 [(10, 2, 5)] }] }, by decide +kernel⟩,
   ⟨upIo 8 ([]) { fly := [{ cmd := ioCmd 0x10 [] }] }, by decide +kernel⟩,
   ⟨upIo 8 ([]) {  }, by decide +kernel⟩,
   ⟨7, { (upIo 8 ([]) { fly := [{ cmd := ioCmd 0x10 [] }] }) with ktime := 4000000000 }, { cmd := ioCmd 0x10 [] }, by decide +kernel⟩⟩

theorem wit_FramesAndInterfaces : ∃ (p : Fin 4) (s : State),
    ioOn s (10 + p.val) = true ∧
    (getUnit s (10 + p.val)).fly = [] :=
  ⟨2, upIo 12 ([]) { conf := [] }, by decide +kernel⟩


end Sys2Proof.Tests
end

/-! Matrix entries (R114 to R117): what a group sum can be, what applying a group writes, and the two kinds of entry. -/

namespace Sys2Proof.Machine

/-! ### Values -/

@[simp] theorem FVal.isNan_iff {v : FVal} : v.isNan = true ↔ v = .nan := by cases v <;> simp [FVal.isNan]

theorem FVal.isZero_iff {v : FVal} : v.isZero = true ↔ ∃ n e, v = .fin n 0 e := by
  cases v <;> simp [FVal.isZero]

@[simp] theorem FVal.mul_nan_left (v : FVal) : FVal.mul .nan v = .nan := rfl
@[simp] theorem FVal.mul_nan_right (v : FVal) : FVal.mul v .nan = .nan := by cases v <;> rfl
@[simp] theorem FVal.add_nan_left (rm : Rm) (v : FVal) : FVal.add rm .nan v = .nan := rfl
@[simp] theorem FVal.add_nan_right (rm : Rm) (v : FVal) : FVal.add rm v .nan = .nan := by cases v <;> rfl
@[simp] theorem FVal.scale_nan (k : Int) : FVal.scale .nan k = .nan := rfl

/-- Inf × 0 is NaN, in either order. -/
theorem FVal.mul_inf_zero {n : Bool} {v : FVal} (h : v.isZero = true) : FVal.mul (.inf n) v = .nan := by
  obtain ⟨s, e, rfl⟩ := FVal.isZero_iff.1 h
  rfl
theorem FVal.mul_zero_inf {n : Bool} {v : FVal} (h : v.isZero = true) : FVal.mul v (.inf n) = .nan := by
  obtain ⟨s, e, rfl⟩ := FVal.isZero_iff.1 h
  rfl

/-! ### The sum of a group (R117) -/

/-- One of the group's products is `v`. -/
def HasProduct (ps : List (FVal × FVal)) (v : FVal) : Prop := ∃ p ∈ ps, FVal.mul p.1 p.2 = v

theorem any_product_isNan {ps : List (FVal × FVal)} :
    ((ps.map fun p => FVal.mul p.1 p.2).any FVal.isNan) = true ↔ HasProduct ps .nan := by simp [HasProduct]

theorem any_product_eq {ps : List (FVal × FVal)} {v : FVal} :
    ((ps.map fun p => FVal.mul p.1 p.2).any fun x => decide (x = v)) = true ↔ HasProduct ps v := by simp [HasProduct]

theorem groupSum_of_nan {ps : List (FVal × FVal)} (h : HasProduct ps .nan) : groupSum ps = .nan := by
  simp [groupSum, any_product_isNan.2 h]

theorem groupSum_of_both_inf {ps : List (FVal × FVal)} (hp : HasProduct ps (.inf false)) (hn : HasProduct ps (.inf true)) :
    groupSum ps = .nan := by
  simp [groupSum, any_product_eq.2 hp, any_product_eq.2 hn]

theorem groupSum_of_inf {ps : List (FVal × FVal)} {n : Bool} (hnan : ¬ HasProduct ps .nan) (h : HasProduct ps (.inf n))
    (hopp : ¬ HasProduct ps (.inf !n)) : groupSum ps = .inf n := by
  have h1 := any_product_eq.2 h
  have h2 := Bool.eq_false_iff.2 (mt any_product_eq.1 hopp)
  have h3 := Bool.eq_false_iff.2 (mt any_product_isNan.1 hnan)
  cases n with
  | false => rw [Bool.not_false] at h2; simp only [groupSum, h1, h2, h3]; rfl
  | true => rw [Bool.not_true] at h2; simp only [groupSum, h1, h2, h3]; rfl

theorem groupSum_of_finite {ps : List (FVal × FVal)} (hnan : ¬ HasProduct ps .nan) (h : ∀ n, ¬ HasProduct ps (.inf n)) :
    ∃ n m e, groupSum ps = .fin n m e := by
  have hinf := fun n => Bool.eq_false_iff.2 (mt any_product_eq.1 (h n))
  simp only [groupSum, hinf, Bool.eq_false_iff.2 (mt any_product_isNan.1 hnan), Bool.false_and, Bool.or_false, Bool.false_eq_true,
    if_false]
  split
  · exact ⟨_, _, _, rfl⟩
  · exact ⟨_, _, _, rfl⟩

/-- R117 step 1: a NaN element, or Inf × 0, makes a product NaN. -/
theorem mul_eq_nan_of_special {a b : FVal} (h : a = .nan ∨ b = .nan ∨ ((∃ n, a = .inf n) ∧ b.isZero = true) ∨
    (a.isZero = true ∧ ∃ n, b = .inf n)) : FVal.mul a b = .nan := by
  rcases h with rfl | rfl | ⟨⟨n, rfl⟩, hz⟩ | ⟨hz, n, rfl⟩
  · exact FVal.mul_nan_left b
  · exact FVal.mul_nan_right a
  · exact FVal.mul_inf_zero hz
  · exact FVal.mul_zero_inf hz

/-! ### FP32 words -/

theorem f32_toF32_inf (n : Bool) : f32 (toF32 .rne (.inf n)) = .inf n := by cases n <;> decide

theorem toF32_inf (n : Bool) : toF32 .rne (.inf n) = if n then 0xFF800000#32 else 0x7F800000#32 := by cases n <;> decide

theorem f32_canonical_nan : f32 0x7FC00000#32 = .nan := by decide

/-- A magnitude code up to the largest finite one reads as a finite value of its sign. -/
theorem fp32_decode_signed {neg : Bool} {c : Nat} (h : c ≤ fp32.maxFin) :
    ∃ m e, fp32.decode (fp32.signed neg c) = .fin neg m e := by
  have hc : c < 2 ^ 31 := Nat.lt_of_le_of_lt h (by decide)
  have hmag : fp32.signed neg c % 2 ^ (fp32.eb + fp32.mb) = c := by
    show (b2n neg * 2 ^ 31 + c) % 2 ^ 31 = c
    omega
  have hneg : bitOf (fp32.signed neg c) (fp32.eb + fp32.mb) = neg := by
    show ((b2n neg * 2 ^ 31 + c) / 2 ^ 31 % 2 == 1) = neg
    cases neg <;> simp [b2n] <;> omega
  simp only [Fmt.decode, hmag, hneg, h, if_true]
  split
  · exact ⟨_, _, rfl⟩
  · exact ⟨_, _, rfl⟩

/-- A finite value rounds to a finite word of its sign, or to infinity. -/
theorem f32_toF32_fin (n : Bool) (m : Nat) (e : Int) :
    (∃ m' e', f32 (toF32 .rne (.fin n m e)) = .fin n m' e') ∨ f32 (toF32 .rne (.fin n m e)) = .inf n := by
  by_cases hc : fp32.magCode .rne n m e ≤ fp32.maxFin
  · left
    have hw : fp32.signed n (fp32.magCode .rne n m e) < 2 ^ 32 := by
      have hlt : fp32.magCode .rne n m e < 2 ^ 31 := Nat.lt_of_le_of_lt hc (by decide)
      have hsign : b2n n ≤ 1 := by cases n <;> decide
      show b2n n * 2 ^ 31 + _ < 2 ^ 32
      omega
    have hf : f32 (toF32 .rne (.fin n m e)) = fp32.decode (fp32.signed n (fp32.magCode .rne n m e)) := by
      simp only [f32, toF32, Fmt.encode, hc, if_true, BitVec.toNat_ofNat, Nat.mod_eq_of_lt hw]
    exact hf ▸ fp32_decode_signed hc
  · right
    have hinf : toF32 .rne (.fin n m e) = toF32 .rne (.inf n) := by simp [toF32, Fmt.encode, hc, ovfToInf]
    rw [hinf, f32_toF32_inf]

/-! ### Applying a group (R115 step 5, R116, R117) -/

theorem applyGroup_of_add_nan {acc : Word} {p : FVal} (h : FVal.add .rne (f32 acc) p = .nan) :
    applyGroup acc p = (0x7FC00000#32, !(f32 acc).isNan, false) := by simp only [applyGroup, h]

theorem applyGroup_of_add_inf {acc : Word} {p : FVal} {n : Bool} (h : FVal.add .rne (f32 acc) p = .inf n) :
    applyGroup acc p = (if n then 0xFF800000#32 else 0x7F800000#32, false, false) := by simp only [applyGroup, h, toF32_inf]

theorem applyGroup_of_add_fin {acc : Word} {p : FVal} {n : Bool} {m : Nat} {e : Int}
    (h : FVal.add .rne (f32 acc) p = .fin n m e) :
    (applyGroup acc p).1 = if (f32 (toF32 .rne (.fin n m e))).isZero then 0#32 else toF32 .rne (.fin n m e) := by
  simp only [applyGroup, h]
  split <;> rfl

/-- What applying a group writes: the canonical NaN, an infinity, +0, or a finite value that is not a zero. -/
theorem applyGroup_word (acc : Word) (p : FVal) :
    (applyGroup acc p).1 = 0x7FC00000#32 ∨ (∃ n, f32 (applyGroup acc p).1 = .inf n) ∨ (applyGroup acc p).1 = 0#32 ∨
    ∃ n m e, f32 (applyGroup acc p).1 = .fin n m e ∧ m ≠ 0 := by
  cases hadd : FVal.add .rne (f32 acc) p with
  | nan => exact .inl (by rw [applyGroup_of_add_nan hadd])
  | inf n => exact .inr (.inl ⟨n, by rw [applyGroup_of_add_inf hadd, ← toF32_inf, f32_toF32_inf]⟩)
  | fin n m e =>
    rw [applyGroup_of_add_fin hadd]
    split
    · exact .inr (.inr (.inl rfl))
    · next hz =>
      rcases f32_toF32_fin n m e with ⟨m', e', hf⟩ | hf
      · exact .inr (.inr (.inr ⟨n, m', e', hf, fun h0 => hz (FVal.isZero_iff.2 ⟨n, e', h0 ▸ hf⟩)⟩))
      · exact .inr (.inl ⟨n, hf⟩)

/-- R117: every NaN written is the canonical one. -/
theorem applyGroup_nan_canonical {acc : Word} {p : FVal} (h : f32 (applyGroup acc p).1 = .nan) :
    (applyGroup acc p).1 = 0x7FC00000#32 := by
  rcases applyGroup_word acc p with hw | ⟨n, hw⟩ | hw | ⟨n, m, e, hw, -⟩
  · exact hw
  · simp [hw] at h
  · exact absurd (hw ▸ h) (by decide)
  · simp [hw] at h

/-- R116: a zero that is written is +0. -/
theorem applyGroup_zero {acc : Word} {p : FVal} (h : (f32 (applyGroup acc p).1).isZero = true) :
    (applyGroup acc p).1 = 0#32 := by
  rcases applyGroup_word acc p with hw | ⟨n, hw⟩ | hw | ⟨n, m, e, hw, hm⟩
  · exact absurd (hw ▸ h) (by decide)
  · simp [hw, FVal.isZero] at h
  · exact hw
  · simp [hw, FVal.isZero, hm] at h

theorem applyGroup_nan_acc {acc : Word} (p : FVal) (h : f32 acc = .nan) :
    applyGroup acc p = (0x7FC00000#32, false, false) := by
  rw [applyGroup_of_add_nan (by rw [h, FVal.add_nan_left]), h]
  rfl

theorem applyGroup_nan_sum {acc : Word} (h : (f32 acc).isNan = false) : applyGroup acc .nan = (0x7FC00000#32, true, false) := by
  rw [applyGroup_of_add_nan (FVal.add_nan_right _ _), h]
  rfl

/-- R117: an infinite entry keeps its infinity, and the opposite infinity makes it NaN. -/
theorem applyGroup_inf_acc (n s : Bool) (m : Nat) (e : Int) : let inf := if n then 0xFF800000#32 else 0x7F800000#32
    applyGroup inf (.fin s m e) = (inf, false, false) ∧ applyGroup inf (.inf n) = (inf, false, false) ∧
    applyGroup inf (.inf !n) = (0x7FC00000#32, true, false) := by
  intro inf
  have hinf : f32 inf = .inf n := by rw [← f32_toF32_inf n, toF32_inf]
  refine ⟨applyGroup_of_add_inf ?_, applyGroup_of_add_inf ?_, ?_⟩
  · rw [hinf]; rfl
  · simp [hinf, FVal.add]
  · rw [applyGroup_of_add_nan (by simp [hinf, FVal.add]), hinf]; rfl

/-! ### All groups of an entry -/

/-- The word of an entry after one more group of `applyGroups`. -/
def groupStep (acc : Word) (g : List (FVal × FVal) × Int) : Word := (applyGroup acc ((groupSum g.1).scale g.2)).1

theorem applyGroups_fst (acc : Word) (gs : List (List (FVal × FVal) × Int)) :
    (applyGroups acc gs).1 = gs.foldl groupStep acc :=
  List.foldl_hom Prod.fst (fun _ _ => rfl) |>.symm

/-- An entry that took a group was written by the last one. -/
theorem applyGroups_last (acc : Word) {gs : List (List (FVal × FVal) × Int)} (h : gs ≠ []) :
    ∃ w p, (applyGroups acc gs).1 = (applyGroup w p).1 := by
  obtain ⟨init, g, rfl⟩ := (List.eq_nil_or_concat' gs).resolve_left h
  exact ⟨init.foldl groupStep acc, _, by rw [applyGroups_fst, List.foldl_concat]; rfl⟩

theorem groupStep_nan_acc (g : List (FVal × FVal) × Int) : groupStep 0x7FC00000#32 g = 0x7FC00000#32 := by
  rw [groupStep, applyGroup_nan_acc _ f32_canonical_nan]

theorem groupStep_nan_sum (acc : Word) {g : List (FVal × FVal) × Int} (h : groupSum g.1 = .nan) :
    groupStep acc g = 0x7FC00000#32 := by
  rw [groupStep, h, FVal.scale_nan, applyGroup_of_add_nan (FVal.add_nan_right _ _)]

/-- R117: one group whose sum is NaN makes the entry the canonical NaN, and it stays NaN through the later groups. -/
theorem applyGroups_of_nan_group (acc : Word) {gs : List (List (FVal × FVal) × Int)} {g : List (FVal × FVal) × Int}
    (hg : g ∈ gs) (h : groupSum g.1 = .nan) : (applyGroups acc gs).1 = 0x7FC00000#32 := by
  obtain ⟨before, after, rfl⟩ := List.append_of_mem hg
  rw [applyGroups_fst, List.foldl_append, List.foldl_cons, groupStep_nan_sum _ h]
  exact List.foldl_fixed' groupStep_nan_acc after

theorem applyGroups_zero (acc : Word) {gs : List (List (FVal × FVal) × Int)} (hne : gs ≠ [])
    (h : (f32 (applyGroups acc gs).1).isZero = true) : (applyGroups acc gs).1 = 0#32 := by
  obtain ⟨w, p, hw⟩ := applyGroups_last acc hne
  rw [hw] at h ⊢
  exact applyGroup_zero h

/-- R116: no entry that a group was added to is −0. -/
theorem applyGroups_ne_neg_zero (acc : Word) {gs : List (List (FVal × FVal) × Int)} (hne : gs ≠ []) :
    (applyGroups acc gs).1 ≠ 0x80000000#32 := by
  intro h
  exact absurd (h.symm.trans (applyGroups_zero acc hne (h ▸ by decide))) (by decide)

/-! ### One entry of a matrix operation -/

theorem foldl_add_mul (ps : List (Int × Int)) (acc : Int) :
    ps.foldl (fun a p => a + p.1 * p.2) acc = acc + (ps.map fun p => p.1 * p.2).sum := by
  induction ps generalizing acc with
  | nil => simp
  | cons p ps ih => simp [ih, add_assoc]

theorem ofInt_sat32 (i : Int) : BitVec.ofInt 32 (sat32 i) = Claims.clamp32 i := by
  unfold sat32 Claims.clamp32
  congr 1
  split
  · omega
  · split <;> omega

theorem bCol_dense {b : List Byte} {lines meta_ : List (List Byte)} {n : Nat} (h : bitOf (field b 10 1) 0 = false) :
    bCol b lines meta_ n = (List.range (field b 6 2)).map fun i => (i, bCode (field b 9 1) lines i n) := by
  simp [bCol, h]

section
variable {b : List Byte} {rows lines meta_ sa sb : List (List Byte)} {m n : Nat} {acc : Word}

theorem mmaEntry_int8 (hfa : field b 8 1 = 2) :
    mmaEntry b rows lines meta_ sa sb m n acc =
      let r := intEntry acc.toInt ((bCol b lines meta_ n).map fun c => (signedOf 8 (aCode 2 rows m c.1), signedOf 8 c.2))
      (BitVec.ofInt 32 r.1, false, false, r.2) := by
  simp [mmaEntry, hfa]

theorem mmaEntry_int8_dense (hfa : field b 8 1 = 2) (hfb : field b 9 1 = 2) (hd : bitOf (field b 10 1) 0 = false) :
    (mmaEntry b rows lines meta_ sa sb m n acc).1 = Claims.clamp32 (acc.toInt + ((List.range (field b 6 2)).map fun k =>
      signedOf 8 (field (rows.getD m []) k 1) * signedOf 8 (field (lines.getD (k / 4) []) (k % 4 * 64 + n) 1)).sum) := by
  rw [mmaEntry_int8 hfa, bCol_dense hd, hfb]
  show BitVec.ofInt 32 (sat32 _) = _
  rw [ofInt_sat32, foldl_add_mul, List.map_map, List.map_map]
  rfl

/-- Group `g` of an MX entry as `mmaEntry` forms it: its products, whose elements are NaN where a scale is 0xFF, and the
exponent of its scales. -/
def mxGroup (b : List Byte) (rows lines meta_ sa sb : List (List Byte)) (m n g : Nat) : List (FVal × FVal) × Int :=
  let xa := field (sa.getD (g / 8) []) (g % 8 * 32 + m) 1
  let xb := field (sb.getD (g / 4) []) (g % 4 * 64 + n) 1
  (((bCol b lines meta_ n).filter fun c => decide (c.1 / 32 = g)).map fun c =>
    (if xa == 255 || xb == 255 then FVal.nan else elemVal (field b 8 1) (aCode (field b 8 1) rows m c.1), elemVal (field b 9 1) c.2),
   (xa : Int) + (xb : Int) - 254)

theorem mmaEntry_mx (hmx : fmtMx (field b 8 1) = true) :
    (mmaEntry b rows lines meta_ sa sb m n acc).1 =
      (applyGroups acc ((List.range ((field b 6 2 + 31) / 32)).map (mxGroup b rows lines meta_ sa sb m n))).1 := by
  have hfa : ¬(field b 8 1 = 2 ∨ field b 8 1 = 3) := by
    rintro (h | h)
    · rw [h] at hmx; exact absurd hmx (by decide)
    · rw [h] at hmx; exact absurd hmx (by decide)
  simp only [mmaEntry, hfa, if_false, hmx, Bool.true_and, if_true]
  rfl

/-- R111, R117: a scale of 0xFF makes the sum of its block NaN. -/
theorem groupSum_mxGroup_of_scale {g : Nat} (hd : bitOf (field b 10 1) 0 = false) (hg : g * 32 < field b 6 2)
    (hs : field (sa.getD (g / 8) []) (g % 8 * 32 + m) 1 = 255 ∨ field (sb.getD (g / 4) []) (g % 4 * 64 + n) 1 = 255) :
    groupSum (mxGroup b rows lines meta_ sa sb m n g).1 = .nan := by
  have hmem : (g * 32, bCode (field b 9 1) lines (g * 32) n) ∈ (bCol b lines meta_ n).filter fun c => decide (c.1 / 32 = g) := by
    simp [bCol_dense hd, hg]
  refine groupSum_of_nan ⟨_, List.mem_map_of_mem hmem, ?_⟩
  have hbad : (field (sa.getD (g / 8) []) (g % 8 * 32 + m) 1 == 255 || field (sb.getD (g / 4) []) (g % 4 * 64 + n) 1 == 255) = true := by
    simpa using hs
  simp only [hbad, if_true, FVal.mul_nan_left]

theorem mmaEntry_of_scale {g : Nat} (hmx : fmtMx (field b 8 1) = true) (hd : bitOf (field b 10 1) 0 = false)
    (hg : g * 32 < field b 6 2)
    (hs : field (sa.getD (g / 8) []) (g % 8 * 32 + m) 1 = 255 ∨ field (sb.getD (g / 4) []) (g % 4 * 64 + n) 1 = 255) :
    (mmaEntry b rows lines meta_ sa sb m n acc).1 = 0x7FC00000#32 := by
  have hrange : g ∈ List.range ((field b 6 2 + 31) / 32) := List.mem_range.2 (by omega)
  rw [mmaEntry_mx hmx]
  exact applyGroups_of_nan_group acc (List.mem_map_of_mem hrange) (groupSum_mxGroup_of_scale hd hg hs)

end

/-- Table 4.3: the worked example ends with the word that the spec gives. -/
theorem applyGroups_worked_example : (applyGroups 0#32
    [([(e4m3.decode 0x7E, e4m3.decode 0x7E), (e4m3.decode 0xC5, e4m3.decode 0x3C), (e4m3.decode 0x01, e4m3.decode 0x01)], 1),
     ([(e4m3.decode 0x38, e4m3.decode 0x58), (e4m3.decode 0x30, e4m3.decode 0x30)], -10)]).1 = 0x48C3FEC9#32 := by
  decide +kernel

/-- Settles O16: each clause is the lemma above on the operation it speaks of. -/
theorem matrixEntries : Obligations.MatrixEntries := by
  unfold Obligations.MatrixEntries
  refine ⟨?special, ?infinities, ?scale, fun _ p h => applyGroup_nan_acc p h, fun _ h => applyGroup_nan_sum h, applyGroup_inf_acc,
    fun _ _ h => applyGroup_nan_canonical h, fun acc _ hne => ⟨applyGroups_ne_neg_zero acc hne, applyGroups_zero acc hne⟩,
    ?int8, applyGroups_worked_example⟩
  case special =>
    rintro ps ⟨p, hp, h⟩
    exact groupSum_of_nan ⟨p, hp, mul_eq_nan_of_special h⟩
  case infinities =>
    intro ps hnan
    have hnan' : ¬ HasProduct ps .nan := fun ⟨p, hp, h⟩ => hnan p hp h
    refine ⟨groupSum_of_both_inf, ?_, ?_⟩
    · intro n hinf hopp
      exact groupSum_of_inf hnan' hinf fun ⟨p, hp, h⟩ => hopp p hp h
    · intro hfin
      exact groupSum_of_finite hnan' fun n ⟨p, hp, h⟩ => hfin p hp n h
  case scale =>
    intro b rows lines meta_ sa sb m n g acc hmx hd hg hs
    exact mmaEntry_of_scale hmx hd hg hs
  case int8 =>
    intro b rows lines meta_ sa sb m n acc hfa hfb hd
    exact ⟨mmaEntry_int8_dense hfa hfb hd, by rw [mmaEntry_int8 hfa], by rw [mmaEntry_int8 hfa]⟩

end Sys2Proof.Machine

/-! Limits of a run (R227): the refutation. The stall clause asks that the event of the stall still stands in the ring after the job has
ended. While the ring is frozen it cycles through 1,024 slots (R518), and the Kettle may hold any number of records for a completion queue
(R149): when 1,024 records are pushed with the job's completion among them, each dropped by a segment that is off (event 0x1006, R98), the
last of those events takes the slot of the stall's.

The statement gives the state only up to the work of `settle`. So the proof also needs that no state from which `settle` leads there has
the lost event still in place: `settle` writes no event 0x1006 of leaf 1 where no party has a mailbox of its own or a notice queue. -/

namespace Sys2Proof.Machine

/-! ### What the Kettle's work at a boundary can write -/

/-- The record of an access to leaf 1's scratchpad that a segment which is off dropped (R98). -/
def CadRec.IsDrop (r : CadRec) : Prop := r.code = 0x1006 ∧ r.source = 1

/-- No party has set its mailbox address or has a notice queue. -/
def NoMail (s : State) : Prop := ∀ p, (getParty s p).mbox = 0 ∧ (getParty s p).noticeOn = false

/-- No party's mailbox address or notice queue changed. -/
structure SameMail (s t : State) : Prop where
  mbox : ∀ p, (getParty t p).mbox = (getParty s p).mbox
  notice : ∀ p, (getParty t p).noticeOn = (getParty s p).noticeOn

/-- Every drop in leaf 1 that the ring holds at the end was there before, where answers have no place but the first granule of a grant. -/
structure NoDrop (s t : State) : Prop where
  mail : SameMail s t
  ring : NoMail s → ∀ k, (tget t.caddy.ring k).IsDrop → tget t.caddy.ring k = tget s.caddy.ring k

theorem SameMail.of_party {s t : State} (h : t.party = s.party) : SameMail s t :=
  ⟨fun p => by simp [getParty, h], fun p => by simp [getParty, h]⟩

theorem SameMail.trans {s t u : State} (a : SameMail s t) (b : SameMail t u) : SameMail s u :=
  ⟨fun p => (b.mbox p).trans (a.mbox p), fun p => (b.notice p).trans (a.notice p)⟩

theorem SameMail.noMail_iff {s t : State} (h : SameMail s t) : NoMail t ↔ NoMail s :=
  forall_congr' fun p => by rw [h.mbox p, h.notice p]

theorem sameMail_modParty (s : State) (p : Nat) {f : PartySt → PartySt}
    (hf : ∀ x, (f x).mbox = x.mbox ∧ (f x).noticeOn = x.noticeOn := by exact fun _ => ⟨rfl, rfl⟩) : SameMail s (modParty s p f) := by
  constructor <;> intro j <;> rw [getParty_modParty] <;> split
  · next h => rw [h, (hf _).1]
  · rfl
  · next h => rw [h, (hf _).2]
  · rfl

theorem NoDrop.of_caddy {s t : State} (hm : SameMail s t) (hc : t.caddy = s.caddy) : NoDrop s t :=
  ⟨hm, fun _ k _ => by rw [hc]⟩

theorem NoDrop.of_same {s t : State} (hp : t.party = s.party) (hc : t.caddy = s.caddy) : NoDrop s t :=
  .of_caddy (.of_party hp) hc

theorem NoDrop.refl (s : State) : NoDrop s s := .of_same rfl rfl

theorem NoDrop.trans {s t u : State} (a : NoDrop s t) (b : NoDrop t u) : NoDrop s u where
  mail := a.mail.trans b.mail
  ring h k hk := by
    have hb := b.ring (a.mail.noMail_iff.2 h) k hk
    rw [hb] at hk ⊢
    exact a.ring h k hk

/-- What follows a change of other parts of the state follows the state before it. -/
theorem NoDrop.after_change {s t u : State} (h : NoDrop t u) (hp : t.party = s.party := by rfl)
    (hc : t.caddy = s.caddy := by rfl) : NoDrop s u :=
  (NoDrop.of_same hp hc).trans h

theorem noDrop_foldl {β : Type} {f : State → β → State} (hf : ∀ s x, NoDrop s (f s x)) (l : List β) (s : State) :
    NoDrop s (l.foldl f s) := by
  induction l generalizing s with
  | nil => exact .refl s
  | cons x l ih => exact (hf s x).trans (ih (f s x))

theorem noDrop_event_of {src code : Nat} (h : code = 0x1006 → src ≠ 1) (party : Nat) (args : List Byte) (s : State) :
    NoDrop s (event src code party args s) where
  mail := .of_party rfl
  ring _ k hk := by
    simp only [event, Caddy.put, tget_tput] at hk ⊢
    split at hk
    · obtain ⟨hcode, hsrc⟩ := hk
      exact absurd hsrc (h hcode)
    · next hne => rw [if_neg hne]

/-- An event of another code. -/
theorem noDrop_event (src code party : Nat) (args : List Byte) (s : State) (h : code ≠ 0x1006 := by decide) :
    NoDrop s (event src code party args s) :=
  noDrop_event_of (fun hc => absurd hc h) party args s

theorem noDrop_modParty (s : State) (p : Nat) {f : PartySt → PartySt}
    (hf : ∀ x, (f x).mbox = x.mbox ∧ (f x).noticeOn = x.noticeOn := by exact fun _ => ⟨rfl, rfl⟩) : NoDrop s (modParty s p f) :=
  .of_caddy (sameMail_modParty s p hf) rfl

/-! ### Operations that touch neither the ring nor a party -/

theorem noDrop_modLeaf (s : State) (l : Nat) (f : Leaf → Leaf) : NoDrop s (modLeaf s l f) := .of_same rfl rfl
theorem noDrop_modEst (s : State) (e : Nat) (f : Estate → Estate) : NoDrop s (modEst s e f) := .of_same rfl rfl
theorem noDrop_modCg (s : State) (c : Nat) (f : Cg → Cg) : NoDrop s (modCg s c f) := .of_same rfl rfl
theorem noDrop_putLine (k : Nat) (l : CLine) (s : State) : NoDrop s (putLine k l s) := .of_same rfl rfl
theorem noDrop_segWipe (l k : Nat) (s : State) : NoDrop s (segWipe l k s) := .of_same rfl rfl
theorem noDrop_segSet (l k : Nat) (g : Seg) (s : State) : NoDrop s (segSet l k g s) := .of_same rfl rfl
theorem noDrop_leafStop (l : Nat) (s : State) : NoDrop s (leafStop l s) := .of_same rfl rfl
theorem noDrop_dropTmpl (p h : Nat) (s : State) : NoDrop s (dropTmpl p h s) := .of_same rfl rfl

theorem noDrop_settleDiv (s : State) : NoDrop s (settleDiv s) := by
  unfold settleDiv
  dsimp only
  split
  · exact .refl s
  · split
    · exact .of_same rfl rfl
    · split <;> exact .of_same rfl rfl

theorem noDrop_raiseIrq (e : IrqEntry) (s : State) : NoDrop s (raiseIrq e s) := by
  unfold raiseIrq
  split
  · exact .refl s
  · split <;> exact .of_same rfl rfl

theorem noDrop_raiseMbox (p : Nat) (s : State) : NoDrop s (raiseMbox p s) := by
  unfold raiseMbox
  split
  · exact .of_same rfl rfl
  · exact noDrop_raiseIrq _ s

theorem noDrop_spPut (l off tag : Nat) (bs : List Byte) (s : State) : NoDrop s (spPut l off tag bs s) := by
  unfold spPut
  dsimp only
  split <;> exact .of_same rfl rfl

theorem noDrop_fireWatches (a n : Nat) (s : State) : NoDrop s (fireWatches a n s) := by
  rw [fireWatches_eq]
  exact .of_same rfl rfl

/-! ### Bytes that the Kettle and the queue slices write -/

theorem noDrop_refusal {code : Nat} (h : code ≠ 0x1006) (src p ini a : Nat) (sec write : Bool) (s : State) :
    NoDrop s (refusal src code p ini a sec write s) := by
  unfold refusal
  split
  · exact .of_same rfl rfl
  · exact noDrop_event _ _ _ _ s h

/-- Bytes written anywhere but to leaf 1 leave no drop in leaf 1. -/
theorem noDrop_putBytes {a : Nat} (h : spLeaf a ≠ some 1) (w : Writer) (bs : List Byte) (s : State) :
    NoDrop s (putBytes w a bs s) := by
  unfold putBytes
  split
  · have hmem : NoDrop s (memWrite s a bs) := .of_same rfl rfl
    exact hmem.trans (noDrop_fireWatches a _ _)
  · next l hl =>
    have hl1 : l ≠ 1 := by rintro rfl; exact h hl
    split
    · exact noDrop_refusal (by decide) _ _ _ _ _ _ s
    · split
      · exact noDrop_event_of (fun _ => hl1) _ _ s
      · exact noDrop_spPut _ _ _ _ s

@[simp] theorem putBytes_party (w : Writer) (a : Nat) (bs : List Byte) (s : State) : (putBytes w a bs s).party = s.party := by
  unfold putBytes
  split
  · rw [fireWatches_eq]; rfl
  · split
    · unfold refusal; split <;> rfl
    · split
      · rfl
      · unfold spPut; dsimp only; split <;> rfl

theorem sameMail_notifyPush (q n : Nat) (s : State) : SameMail s (notifyPush q n s) := by
  unfold notifyPush
  dsimp only
  split
  · split
    · unfold notify
      dsimp only
      split
      · exact .of_party rfl
      · split
        · exact sameMail_modParty s _
        · exact (sameMail_modParty s _).trans (noDrop_raiseIrq _ _).mail
    · exact .of_party rfl
  · exact .of_party rfl

theorem sameMail_pushEntry (q : Nat) (bs : List Byte) (s : State) : SameMail s (pushEntry q bs s) :=
  SameMail.trans (.of_party (by rw [modQ_party, putBytes_party])) (sameMail_notifyPush q _ _)

theorem sameMail_drainNotices (p n : Nat) (s : State) : SameMail s (drainNotices p n s) := by
  induction n generalizing s with
  | zero => exact .of_party rfl
  | succ n ih =>
    unfold drainNotices
    split
    · exact .of_party rfl
    · dsimp only
      split
      · exact (sameMail_modParty s p).trans <|
          (sameMail_pushEntry ..).trans <| (noDrop_raiseMbox p _).mail.trans (ih _)
      · exact .of_party rfl

theorem sameMail_pushNotice (p : Nat) (bs : List Byte) (s : State) : SameMail s (pushNotice p bs s) := by
  unfold pushNotice
  split
  · exact .of_party rfl
  · dsimp only
    have hput := sameMail_modParty s p (f := fun t => { t with heldNotices := t.heldNotices ++ [bs] })
    split
    · exact hput
    · exact hput.trans (sameMail_drainNotices p _ _)

/-! ### Answers -/

/-- A mailbox that no message placed begins at a granule (R357), and every granule lies in a scratchpad whose number is a multiple of 32. -/
theorem spLeaf_answerPage {s : State} (h : NoMail s) {p a : Nat} (ha : mboxAddr s p = some a) : spLeaf (a + 4096) ≠ some 1 := by
  have hgranule : ∃ g, a = g * 0x4000000 := by
    simp only [mboxAddr, (h p).1] at ha
    split at ha
    · contradiction
    · split at ha
      · next r _ => exact ⟨r.first, (Option.some.inj ha).symm⟩
      · cases ha
  obtain ⟨g, rfl⟩ := hgranule
  unfold spLeaf
  split
  · simp only [ne_eq, Option.some.injEq]; omega
  · simp

theorem noDrop_mboxWrite (p : Nat) (bs : List Byte) (s : State) : NoDrop s (mboxWrite p 4096 bs s) := by
  unfold mboxWrite
  split
  · exact .of_same rfl rfl
  · split
    · next a ha =>
      refine ⟨.of_party (putBytes_party ..), fun h => ?_⟩
      exact (noDrop_putBytes (spLeaf_answerPage h ha) byKettle bs s).ring h
    · exact .refl s

theorem noDrop_answer (p m tag : Nat) (a : Ans) (s : State) : NoDrop s (answer p m tag a s) :=
  (noDrop_mboxWrite p _ s).trans <| (noDrop_modParty _ p).trans (noDrop_raiseMbox p _)

theorem noDrop_finish (d : Pend) (a : Ans) (s : State) : NoDrop s (finish d a s) := by
  unfold finish
  split
  · dsimp only
    have hput := noDrop_modParty s d.party (f := fun t => { t with outstanding := t.outstanding - 1 })
    split
    · exact hput.trans (noDrop_mboxWrite d.party _ _)
    · next hon =>
      refine ⟨hput.mail.trans (sameMail_pushNotice ..), fun h => absurd ?_ hon⟩
      rw [hput.mail.notice, (h d.party).2]; rfl
  · exact noDrop_answer ..

/-! ### Leaves, estates and pairs -/

theorem noDrop_segEvent (l b : Nat) (s : State) : NoDrop s (segEvent l b s) := by
  unfold segEvent
  split
  · exact .refl s
  · exact noDrop_event _ _ _ _ s

theorem noDrop_segsOff (l : Nat) (s : State) : NoDrop s (segsOff l s) :=
  (noDrop_foldl (fun s k => (noDrop_segSet l k .off s).trans (noDrop_segWipe l k _)) _ s).trans (noDrop_segEvent l _ _)

theorem noDrop_stopAndOff (ls : List Nat) (s : State) :
    NoDrop s (ls.foldl (fun s l => if (getLeaf s l).kind = .fenced then s else segsOff l (leafStop l s)) s) := by
  refine noDrop_foldl (fun s l => ?_) ls s
  split
  · exact .refl s
  · exact (noDrop_leafStop l s).trans (noDrop_segsOff l _)

theorem noDrop_pairEvent (p : Pair) (st cause : Nat) (s : State) : NoDrop s (pairEvent p st cause s) :=
  noDrop_event _ _ _ _ s

theorem noDrop_dissolve (p : Pair) (cause : Nat) (s : State) : NoDrop s (dissolve p cause s) :=
  NoDrop.after_change (noDrop_pairEvent p 1 cause _)

theorem noDrop_formPair (p : Pair) (s : State) : NoDrop s (formPair p s) :=
  NoDrop.after_change (noDrop_pairEvent p 0 0 _)

theorem noDrop_pairCheck (e : Nat) (s : State) : NoDrop s (pairCheck e s) := by
  unfold pairCheck
  split
  · exact .refl s
  · split
    · exact .refl s
    · exact noDrop_dissolve _ 1 s

theorem noDrop_putLeaves (e : Nat) (ls : List Nat) (cause : Nat) (s : State) : NoDrop s (putLeaves e ls cause s) :=
  (noDrop_stopAndOff _ s).trans <| (noDrop_modEst _ e _).trans <|
    (noDrop_event _ _ _ _ _).trans (noDrop_pairCheck e _)

theorem noDrop_setLeaves (e : Nat) (ls : List Nat) (cause : Nat) (s : State) : NoDrop s (setLeaves e ls cause s) := by
  unfold setLeaves
  dsimp only
  split
  · exact noDrop_putLeaves e ls cause s
  · exact (noDrop_putLeaves e ls cause s).trans (noDrop_modEst _ e _)

theorem noDrop_moveKept {e cg : Nat} {s t : State} (h : moveKept e cg s = .inl t) : NoDrop s t := by
  unfold moveKept at h
  dsimp only at h
  split at h
  · cases h
  · cases h
    exact noDrop_modEst s e _

theorem noDrop_applySet (e : Nat) (d : EstDesc) (s : State) : NoDrop s (applySet e d s).1 := by
  have hfin : ∀ t, NoDrop t (settleDiv (modEst t e fun y => { y with desc := { d with leaves := y.leaves.length } })) :=
    fun t => (noDrop_modEst t e _).trans (noDrop_settleDiv _)
  unfold applySet
  dsimp only
  split
  · exact .refl s
  · next t ht =>
    have hmoved : NoDrop s t := by
      split at ht
      · cases ht; exact .refl s
      · exact noDrop_moveKept ht
    split
    · exact hmoved.trans (hfin t)
    · split
      · exact .refl s
      · exact hmoved.trans ((noDrop_setLeaves e _ 0 t).trans (hfin _))

theorem noDrop_freeEstate (e : Nat) (s : State) : NoDrop s (freeEstate e s) := by
  unfold freeEstate
  dsimp only
  refine NoDrop.trans ?pair <| (noDrop_stopAndOff _ _).trans <| (noDrop_modEst _ e _).trans <|
    (noDrop_event _ _ _ _ _).trans (noDrop_settleDiv _)
  case pair =>
    split
    · exact noDrop_dissolve _ 2 s
    · exact .refl s

theorem noDrop_settleEst (e : Nat) (s : State) : NoDrop s (settleEst e s) := by
  unfold settleEst
  split
  · exact .refl s
  · split
    · exact .refl s
    · exact (noDrop_modEst s e _).trans <| (noDrop_applySet e _ _).trans (noDrop_finish _ _ _)
    · exact (noDrop_freeEstate e s).trans (noDrop_finish _ _ _)

theorem noDrop_settlePairs (s : State) : NoDrop s (settlePairs s) := by
  refine noDrop_foldl (fun s x => ?_) _ s
  dsimp only
  split
  · exact .refl s
  · refine NoDrop.trans (.of_same (t := { s with jobs := { s.jobs with pairPend := s.jobs.pairPend.filter fun y => decide (y ≠ x) } })
      rfl rfl) ?_
    split
    · refine NoDrop.trans ?_ (noDrop_finish _ _ _)
      split
      · exact noDrop_dissolve _ 0 _
      · exact .refl _
    · split
      · exact (noDrop_formPair _ _).trans (noDrop_finish _ _ _)
      · exact noDrop_finish _ _ _

/-! ### Microcode -/

theorem noDrop_pourUcode (e v : Nat) (ls : List Nat) (s : State) : NoDrop s (pourUcode e v ls s) := by
  unfold pourUcode
  dsimp only
  split
  · exact .refl s
  · exact (noDrop_foldl (fun s l => noDrop_modLeaf s l _) _ s).trans (noDrop_event _ _ _ _ _)

theorem noDrop_ucodeEst (v e : Nat) (s : State) : NoDrop s (ucodeEst v e s) := by
  unfold ucodeEst
  extract_lets both
  split
  · exact noDrop_pourUcode e v _ s
  · exact .refl s

theorem noDrop_advance (c level set revoke : Nat) (s : State) : NoDrop s (advance c level set revoke s) := by
  unfold advance
  dsimp only
  split
  · exact .refl s
  · exact NoDrop.after_change (noDrop_event _ _ _ _ _)

theorem noDrop_settleUcode (s : State) : NoDrop s (settleUcode s) := by
  unfold settleUcode
  split
  · exact .refl s
  · next d u _ =>
    dsimp only
    set v := pourUcode 0xFF u.version (leafIdx.filter fun l => (estOf s l).isNone) s with hv
    have hpour : NoDrop s ((estates v).foldl (fun s e => ucodeEst u.version e s) v) :=
      (noDrop_pourUcode 0xFF u.version _ s).trans <| noDrop_foldl (fun s e => noDrop_ucodeEst u.version e s) _ v
    split
    · exact hpour.trans <| NoDrop.after_change ((noDrop_advance _ _ _ _ _).trans (noDrop_finish _ _ _))
    · exact hpour

/-! ### Grants -/

theorem noDrop_corrected (line kind : Nat) (s : State) : NoDrop s (corrected line kind s) := by
  unfold corrected
  dsimp only
  split
  · exact (noDrop_modCg s _ _).trans <| (noDrop_event _ _ _ _ _).trans (noDrop_modCg _ _ _)
  · exact noDrop_modCg s _ _

theorem noDrop_linkCross (w : Bool) (line : Nat) (s : State) : NoDrop s (linkCross w line s).1 := by
  unfold linkCross
  dsimp only
  split
  · exact .refl s
  · split
    · exact NoDrop.after_change (noDrop_corrected _ _ _)
    · exact .of_same rfl rfl

theorem noDrop_writeBack (key : Nat) (s : State) : NoDrop s (writeBack key s) := by
  unfold writeBack
  dsimp only
  split
  · unfold linkWrite
    dsimp only
    split
    · exact (noDrop_linkCross true _ s).trans (.of_same rfl rfl)
    · exact noDrop_linkCross true _ s
  · exact .refl s

theorem noDrop_cleanWays (mask : Nat) (s : State) : NoDrop s (cleanWays mask s) := by
  refine noDrop_foldl (fun s x => ?_) _ s
  dsimp only
  split
  · unfold cleanWay
    dsimp only
    split
    · exact .refl s
    · exact (noDrop_writeBack _ s).trans (noDrop_putLine _ _ _)
  · exact .refl s

theorem noDrop_closeWin (id : Nat) (s : State) : NoDrop s (closeWin id s) := by
  unfold closeWin
  dsimp only
  split
  · exact .refl s
  · exact NoDrop.after_change (noDrop_event _ _ _ _ _)

theorem noDrop_closeLost (p : Nat) (s : State) : NoDrop s (closeLost p s) := by
  refine noDrop_foldl (fun s x => ?_) _ s
  exact noDrop_closeWin x.1 s

theorem noDrop_grantDone (p : Nat) (g : Grant) (s : State) : NoDrop s (grantDone p g s) :=
  (noDrop_cleanWays _ s).trans <| NoDrop.after_change <| (noDrop_modParty _ p).trans <|
    (noDrop_closeLost p _).trans (noDrop_event _ _ _ _ _)

theorem noDrop_shrinkEst (e n : Nat) (s : State) : NoDrop s (shrinkEst e n s) := by
  unfold shrinkEst
  split
  · exact .refl s
  · split
    · exact noDrop_setLeaves e _ 3 s
    · exact .refl s

theorem noDrop_trimEst (g : Grant) (e : Nat) (s : State) : NoDrop s (trimEst g e s) := by
  unfold trimEst
  dsimp only
  split
  · exact .refl s
  · split
    · next t ht => exact (noDrop_moveKept ht).trans (noDrop_modEst t e _)
    · exact .refl s

theorem noDrop_settleGrant (p : Nat) (s : State) : NoDrop s (settleGrant p s) := by
  unfold settleGrant
  split
  · exact .refl s
  · next g _ =>
    extract_lets plan u v
    have hshrunk : NoDrop s v := (noDrop_foldl (fun s x => noDrop_shrinkEst x.1 x.2 s) plan s).trans <|
      noDrop_foldl (fun s e => noDrop_trimEst g.grant e s) (estatesOf u p) u
    split
    · exact hshrunk.trans (noDrop_modParty v p)
    · exact hshrunk.trans <| (noDrop_grantDone p g.grant v).trans (noDrop_finish _ _ _)

/-! ### Watermark, secure estate, freezes, templates -/

theorem noDrop_raiseEst (lwm e : Nat) (s : State) : NoDrop s (raiseEst lwm e s) := by
  unfold raiseEst
  dsimp only
  split
  · exact .refl s
  · split
    · exact noDrop_setLeaves e _ 0 s
    · exact .refl s

theorem noDrop_putLwm (lwm : Nat) (s : State) : NoDrop s (putLwm lwm s) :=
  (noDrop_foldl (fun s l => noDrop_segsOff l s) _ s).trans <|
    NoDrop.after_change (noDrop_event _ _ _ _ _)

theorem noDrop_createEst (p : Nat) (d : EstDesc) (ls : List Nat) (s : State) : NoDrop s (createEst p d ls s).1 := by
  unfold createEst
  split
  · exact .refl s
  · exact (noDrop_modEst s _ _).trans <| (noDrop_event _ _ _ _ _).trans (noDrop_settleDiv _)

theorem noDrop_settleWorld (s : State) : NoDrop s (settleWorld s) := by
  have hraise : ∀ (lwm : State → Nat) (s : State), NoDrop s ((estates s).foldl (fun s e => raiseEst (lwm s) e s) s) :=
    fun lwm s => noDrop_foldl (fun s e => noDrop_raiseEst (lwm s) e s) _ s
  unfold settleWorld
  extract_lets u
  have hlwm : NoDrop s u := by
    unfold u
    split
    · exact .refl s
    · next lwm _ =>
      dsimp only
      split
      · have hput := (hraise (fun _ => lwm) s).trans (noDrop_putLwm lwm _)
        split
        · split
          · exact hput.trans (noDrop_finish _ _ _).after_change
          · exact hput
        · exact hput
      · exact hraise (fun _ => lwm) s
  refine hlwm.trans ?_
  split
  · exact .refl u
  · dsimp only
    split
    · exact (hraise (·.world.lwm) u).trans <| NoDrop.after_change ((noDrop_createEst 16 _ _ _).trans (noDrop_finish _ _ _))
    · exact hraise (·.world.lwm) u

theorem noDrop_settleFreeze (p : Nat) (s : State) : NoDrop s (settleFreeze p s) := by
  unfold settleFreeze
  split
  · exact .refl s
  · split
    · exact .refl s
    · exact (noDrop_modParty s p).trans <| (noDrop_event _ _ _ _ _).trans (noDrop_finish _ _ _)

theorem noDrop_settleTmpls (s : State) : NoDrop s (settleTmpls s) := by
  refine noDrop_foldl (fun s t => ?_) _ s
  split
  · split
    · exact .refl s
    · exact (noDrop_dropTmpl _ _ s).trans (noDrop_finish _ _ _)
  · exact .refl s

theorem noDrop_settleSafe (s : State) : NoDrop s (settleSafe s) := by
  unfold settleSafe
  split
  · exact .refl s
  · split
    · exact .refl s
    · exact NoDrop.after_change (noDrop_finish _ _ _)

/-- The Kettle's work at a job boundary writes no drop in leaf 1. -/
theorem noDrop_settle (s : State) : NoDrop s (settle s) := by
  unfold settle
  extract_lets ucode ests pairs grants world freezes
  have hests : NoDrop s ests := (noDrop_settleUcode s).trans (noDrop_foldl (fun s e => noDrop_settleEst e s) _ ucode)
  have hgrants : NoDrop s grants :=
    hests.trans <| (noDrop_settlePairs ests).trans (noDrop_foldl (fun s p => noDrop_settleGrant p s) _ pairs)
  have hfreezes : NoDrop s freezes :=
    hgrants.trans <| (noDrop_settleWorld grants).trans (noDrop_foldl (fun s p => noDrop_settleFreeze p s) _ world)
  exact hfreezes.trans <| (noDrop_settleTmpls freezes).trans (noDrop_settleSafe _)

/-! ### Where nothing waits, `settle` does nothing -/

/-- Nothing waits for the end of a job. -/
structure NothingWaits (s : State) : Prop where
  ucode : s.firm.ucodeLoad = none
  change : ∀ e, (getEst s e).change = .none
  pairs : s.jobs.pairPend = []
  grant : ∀ p, (getParty s p).grantPend = none
  lwm : s.world.lwmNext = none
  secure : s.jobs.securePend = none
  freeze : ∀ p, (getParty s p).freezePend = none
  tmpls : s.jobs.tmpls = []
  level : s.safe.levelPend = none

theorem settle_of_nothingWaits {s : State} (h : NothingWaits s) : settle s = s := by
  have hucode : settleUcode s = s := by simp [settleUcode, h.ucode]
  have hests : (List.range 16).foldl (fun s e => settleEst e s) s = s :=
    List.foldl_fixed' (fun e => by simp [settleEst, h.change e]) _
  have hpairs : settlePairs s = s := by simp [settlePairs, h.pairs]
  have hgrants : (List.range 17).foldl (fun s p => settleGrant p s) s = s :=
    List.foldl_fixed' (fun p => by simp [settleGrant, h.grant p]) _
  have hworld : settleWorld s = s := by simp [settleWorld, h.lwm, h.secure]
  have hfreezes : (List.range 16).foldl (fun s p => settleFreeze p s) s = s :=
    List.foldl_fixed' (fun p => by simp [settleFreeze, h.freeze p]) _
  have htmpls : settleTmpls s = s := by simp [settleTmpls, h.tmpls]
  have hsafe : settleSafe s = s := by simp [settleSafe, h.level]
  simp only [settle, hucode, hests, hpairs, hgrants, hworld, hfreezes, htmpls, hsafe]

theorem nothingWaits_modEst {s : State} (h : NothingWaits s) (e : Nat) {f : Estate → Estate} (hf : ∀ x, (f x).change = x.change) :
    NothingWaits (modEst s e f) where
  ucode := h.ucode
  change j := by
    rw [getEst_modEst]
    split
    · rw [hf, h.change]
    · exact h.change j
  pairs := h.pairs
  grant := h.grant
  lwm := h.lwm
  secure := h.secure
  freeze := h.freeze
  tmpls := h.tmpls
  level := h.level

/-! ### The end of a job that holds no leaf and no queue -/

/-- Only the records of scheduling and of graphics changed. -/
def JobsOnly (s t : State) : Prop := t = { s with jobs := t.jobs, media := t.media }

theorem JobsOnly.trans {s t u : State} (a : JobsOnly s t) (b : JobsOnly t u) : JobsOnly s u := by
  rw [JobsOnly] at *
  rw [b, a]

section
variable {s : State} {e : Nat} {j : Job}

theorem stopJob_of_bare (h : NothingWaits s) (hi : j.insts = []) (hq : j.queues = []) :
    JobsOnly s (stopJob e j s).1 ∧ NothingWaits (stopJob e j s).1 := by
  have hstop : (stopJob e j s).1 = { s with jobs := { s.jobs with
      reports := s.jobs.reports.filter fun t => decide (t.primary ≠ e ∧ t.primary ≠ j.twin) } } := by
    simp [stopJob, closeQueues, jobLeaves, hi, hq]
  rw [hstop]
  exact ⟨rfl, { h with }⟩

theorem freeEst_frame (h : NothingWaits s) : JobsOnly s (freeEst e j s) ∧ NothingWaits (freeEst e j s) := by
  unfold freeEst
  extract_lets u
  have hu : NothingWaits u := nothingWaits_modEst h e fun _ => rfl
  split
  · exact ⟨rfl, { hu with }⟩
  · exact ⟨rfl, { hu with }⟩

/-- A single job that holds no leaf, no queue and no template ends with its completion, after a change of scheduling records. -/
theorem abortJob_of_bare (h : NothingWaits s) (hj : jobOf s e = some j) (hc : j.copy = 0) (hi : j.insts = []) (hq : j.queues = [])
    (reason : Nat) : ∃ bs t, abortJob e reason s = complete (recCq j.record) bs t ∧ JobsOnly s t ∧ NothingWaits t := by
  have hjob : (getEst s e).job = some j := hj
  obtain ⟨hstop, hstopped⟩ := stopJob_of_bare (e := e) h hi hq
  obtain ⟨hfree, hfreed⟩ := freeEst_frame (e := e) (j := j) hstopped
  have hclose : (closeJob e j s).1 = freeEst e j (stopJob e j s).1 := by simp [closeJob, jobEsts, hc, hj]
  have hleft : (closeJob e j s).2.job = j := by simp [closeJob, jobEsts, hc, hjob]
  have hreport : tReportBytes (jobImg (freeEst e j (stopJob e j s).1) j) = 0 := by
    simp only [jobImg, tmplOf, hfreed.tmpls]
    rfl
  have hrec : (closeRec (closeJob e j s).2 stABORTED reason (closeJob e j s).1).1 = freeEst e j (stopJob e j s).1 := by
    simp only [closeRec, hclose, hleft, writeReport, hreport]
    rfl
  refine ⟨(closeRec (closeJob e j s).2 stABORTED reason (closeJob e j s).1).2, dropWatches j.serial (freeEst e j (stopJob e j s).1),
    ?_, (hstop.trans hfree).trans rfl, { hfreed with }⟩
  simp only [abortJob, endJob, hj, writeDone, hrec, hleft]

end

/-! ### Completions that a segment which is off drops -/

/-- The slot of the last record written into a frozen ring (R518). -/
def Caddy.lastSlot (c : Caddy) : Nat := (c.marker + 1 + (c.tail - 1) % 1024) % 65536

/-- The last record written is a drop in leaf 1. -/
def LastDrop (s : State) : Prop := (tget s.caddy.ring s.caddy.lastSlot).IsDrop

/-- From `s`, `n` records were written into the frozen ring, the last a drop in leaf 1, and beside the ring only queues changed. -/
structure Dropped (n : Nat) (s t : State) : Prop where
  frame : t = { s with caddy := t.caddy, queue := t.queue }
  frozen : t.caddy.frozen = s.caddy.frozen
  marker : t.caddy.marker = s.caddy.marker
  tail : t.caddy.tail = s.caddy.tail + n
  last : 0 < n ∨ LastDrop s → LastDrop t

theorem Dropped.refl (s : State) : Dropped 0 s s := ⟨rfl, rfl, rfl, rfl, fun h => h.resolve_left (Nat.lt_irrefl 0)⟩

theorem Dropped.trans {m n : Nat} {s t u : State} (a : Dropped m s t) (b : Dropped n t u) : Dropped (m + n) s u where
  frame := by rw [b.frame, a.frame]
  frozen := b.frozen.trans a.frozen
  marker := b.marker.trans a.marker
  tail := by rw [b.tail, a.tail, Nat.add_assoc]
  last h := b.last <| by
    rcases Nat.eq_zero_or_pos n with rfl | hn
    · exact .inr (a.last h)
    · exact .inl hn

theorem Dropped.nothingWaits {n : Nat} {s t : State} (a : Dropped n s t) (h : NothingWaits s) : NothingWaits t := by
  rw [a.frame]
  exact { h with }

theorem Dropped.after_modQ {n q : Nat} {f : Queue → Queue} {s t : State} (h : Dropped n (modQ s q f) t) : Dropped n s t :=
  ⟨h.frame, h.frozen, h.marker, h.tail, h.last⟩

/-- Queue `q` is a COMPLETE queue of 1,024 entries of 32 bytes, with no notification, at the start of leaf 1's scratchpad. The leaf is not
fenced, its first segment is off, and the ring is frozen. -/
structure DroppingQ (q : Nat) (s : State) : Prop where
  bound : (getQ s q).bound = true
  kind : (getQ s q).kind = 3
  lg : (getQ s q).lg = 10
  esize : (getQ s q).esize = 1
  base : (getQ s q).base = spBase 1
  flags : (getQ s q).flags = 0
  retire : (getQ s q).retire = 0
  alive : (getLeaf s 1).kind ≠ .fenced
  off : tget (getLeaf s 1).segs 0 = .off
  frozen : s.caddy.frozen = true

section
variable {q : Nat} {s : State}

theorem DroppingQ.canPush (h : DroppingQ q s) (ht : (getQ s q).tail < 1024) : canPush s q = true := by
  have hused : (getQ s q).used ≠ 1024 := by
    simp only [Queue.used, Queue.n, h.lg, h.retire]; omega
  simpa [Machine.canPush, h.bound, Queue.full, Queue.n, h.lg] using hused

/-- A change of the queue that keeps its place keeps it dropping. -/
theorem DroppingQ.modQ (h : DroppingQ q s) {f : Queue → Queue}
    (hf : ∀ x, f x = { x with tail := (f x).tail, held := (f x).held, pushed := (f x).pushed, came := (f x).came }) :
    DroppingQ q (modQ s q f) where
  bound := by rw [getQ_modQ_same, hf]; exact h.bound
  kind := by rw [getQ_modQ_same, hf]; exact h.kind
  lg := by rw [getQ_modQ_same, hf]; exact h.lg
  esize := by rw [getQ_modQ_same, hf]; exact h.esize
  base := by rw [getQ_modQ_same, hf]; exact h.base
  flags := by rw [getQ_modQ_same, hf]; exact h.flags
  retire := by rw [getQ_modQ_same, hf]; exact h.retire
  alive := h.alive
  off := h.off
  frozen := h.frozen

/-- Bytes for a slot of the queue are dropped, with one event. -/
theorem DroppingQ.putBytes (h : DroppingQ q s) {i : Nat} (hi : i < 1024) (w : Writer) (bs : List Byte) :
    ∃ args, putBytes w (spBase 1 + i * 32) bs s = event 1 0x1006 noParty args s := by
  have hleaf : spLeaf (spBase 1 + i * 32) = some 1 := by
    have hbase : spBase 1 = 0x1000200000 := rfl
    rw [spLeaf, hbase, if_pos (by omega), Option.some.injEq]
    omega
  have hoff : Seg.off ∈ segsOf s 1 (i * 32) bs.length := by
    have hfirst : i * 32 / 0x40000 = 0 := by omega
    rw [segsOf, List.mem_map]
    exact ⟨0, List.mem_range.2 (by omega), by rw [hfirst]; exact h.off⟩
  exact ⟨_, by simp only [Machine.putBytes, hleaf, h.alive, if_false, Nat.add_sub_cancel_left, hoff, if_true]; rfl⟩

/-- A push to the queue: the entry is dropped, and TAIL advances. -/
theorem DroppingQ.push (h : DroppingQ q s) (ht : (getQ s q).tail < 1024) (bs : List Byte) :
    ∃ args, pushEntry q bs s = Machine.modQ (event 1 0x1006 noParty args s) q fun x =>
      { x with tail := x.adv x.tail 1, pushed := x.pushed.add 1, came := x.came ++ (if x.cons = 5 then [s.ktime] else []) } := by
  have hslot : (getQ s q).slotAddr (getQ s q).tail = spBase 1 + (getQ s q).tail * 32 := by
    simp only [Queue.slotAddr, Queue.n, Queue.esz, h.base, h.lg, h.esize]
    omega
  have hrec : (getQ s q).isTile = false := by simp [Queue.isTile, h.kind]
  obtain ⟨args, hput⟩ := h.putBytes ht (bySlice s q) bs
  refine ⟨args, ?_⟩
  have hflags : bitOf (getQ (event 1 0x1006 noParty args s) q).flags 0 = false := by
    rw [show getQ (event 1 0x1006 noParty args s) q = getQ s q from rfl, h.flags]; rfl
  simp [pushEntry, hslot, hrec, hput, notifyPush, hflags]

theorem dropped_push (h : DroppingQ q s) (ht : (getQ s q).tail < 1024) (bs : List Byte) : Dropped 1 s (pushEntry q bs s) := by
  obtain ⟨args, hpush⟩ := h.push ht bs
  rw [hpush]
  refine ⟨rfl, rfl, rfl, ?_, fun _ => ?_⟩
  · simp [event, Caddy.put, h.frozen]
  · simp [LastDrop, Caddy.lastSlot, event, Caddy.put, Caddy.slot, h.frozen, CadRec.IsDrop]

theorem DroppingQ.after_push (h : DroppingQ q s) (ht : (getQ s q).tail < 1024) (bs : List Byte) : DroppingQ q (pushEntry q bs s) := by
  obtain ⟨args, hpush⟩ := h.push ht bs
  have hevent : DroppingQ q (event 1 0x1006 noParty args s) := { h with frozen := h.frozen }
  rw [hpush]
  exact hevent.modQ fun _ => rfl

theorem DroppingQ.getQ_push (h : DroppingQ q s) (ht : (getQ s q).tail < 1024) (bs : List Byte) :
    (getQ (pushEntry q bs s) q).tail = (getQ s q).tail + 1 ∧ (getQ (pushEntry q bs s) q).held = (getQ s q).held := by
  obtain ⟨args, hpush⟩ := h.push ht bs
  have hget : getQ (event 1 0x1006 noParty args s) q = getQ s q := rfl
  rw [hpush, getQ_modQ_same, hget]
  refine ⟨?_, rfl⟩
  simp only [Queue.adv, Queue.n, h.lg]
  omega

/-- Every record held for the queue is dropped, one event each. -/
theorem dropped_drainHeld (n : Nat) (h : DroppingQ q s) (hroom : (getQ s q).tail + n ≤ 1024) (hheld : (getQ s q).held.length = n) :
    Dropped n s (drainHeld q n s) := by
  induction n generalizing s with
  | zero => exact .refl s
  | succ n ih =>
    obtain ⟨r, rs, hr⟩ := List.exists_cons_of_length_eq_add_one hheld
    have ht : (getQ s q).tail < 1024 := by omega
    set u := Machine.modQ s q fun x => { x with held := rs } with hu
    have hgetu : getQ u q = { getQ s q with held := rs } := getQ_modQ_same ..
    have hdrop : DroppingQ q u := h.modQ fun _ => rfl
    have htu : (getQ u q).tail < 1024 := by rw [hgetu]; exact ht
    obtain ⟨htail, hrest⟩ := hdrop.getQ_push htu r
    have hstep : drainHeld q (n + 1) s = drainHeld q n (pushEntry q r u) := by
      rw [drainHeld, hr]
      simp only [h.canPush ht, if_true, hu]
    have hmore : Dropped n (pushEntry q r u) (drainHeld q n (pushEntry q r u)) := by
      refine ih (hdrop.after_push htu r) ?room ?held
      case room => rw [htail, hgetu]; dsimp only; omega
      case held => rw [hrest, hgetu]; simpa [hr] using hheld
    rw [hstep, Nat.add_comm]
    exact ((dropped_push hdrop htu r).trans hmore).after_modQ

theorem dropped_complete (h : DroppingQ q s) (hact : s.firm.act ≠ .open_) (bs : List Byte)
    (hroom : (getQ s q).tail + (getQ s q).held.length < 1024) :
    Dropped ((getQ s q).held.length + 1) s (complete q bs s) := by
  have hget : getQ (Machine.modQ s q fun x => { x with held := x.held ++ [bs] }) q =
      { getQ s q with held := (getQ s q).held ++ [bs] } := getQ_modQ_same ..
  have hlen : (getQ (Machine.modQ s q fun x => { x with held := x.held ++ [bs] }) q).held.length = (getQ s q).held.length + 1 := by
    rw [hget, List.length_append]; rfl
  rw [complete, if_neg hact]
  dsimp only
  rw [hlen]
  refine (dropped_drainHeld _ (h.modQ fun _ => rfl) ?_ hlen).after_modQ
  rw [hget]
  exact hroom

end

/-! ### The counterexample -/

/-- JOB_STALLED on a job that is not excused: its event, its end, and the boundary's work (R165). -/
theorem exec_jobStalled {e : Fin 16} {s : State} {j : Job} (hj : jobOf s e.val = some j) (hrun : j.phase = .running ∨ j.phase = .pouring)
    (hwait : ∀ k ∈ jobThreads s j, (getTh s k).mode ≠ .taster) (hact : s.firm.act ≠ .open_)
    (hstall : j.progress + tStallUs (jobImg s j) * 100 ≤ s.ktime) :
    exec (.jobStalled e) s = .next (settle (abortJob e.val stTIMEOUT
      (event srcAfzan 0xA040 j.party (leBytes 1 e.val ++ leBytes 2 (recHandle j.record) ++ leBytes 4 (recTag j.record)) s))) := by
  show execJobStalled e s = _
  rw [execJobStalled]
  simp only [hj]
  rw [if_neg]
  rw [Bool.or_eq_true, Bool.or_eq_true, Bool.or_eq_true]
  rintro (((hidle | hpaused) | hopen) | hearly)
  · exact absurd hrun (by simpa using hidle)
  · obtain ⟨k, hk, hmode⟩ := List.any_eq_true.1 hpaused
    split at hmode
    · next h => exact hwait k hk h
    · cases hmode
  · exact hact (of_decide_eq_true hopen)
  · exact Nat.not_lt.2 hstall (of_decide_eq_true hearly)

/-- A job with nothing but its record, which is all zeros: handle 0, completion queue 0. -/
def bareJob : Job := { phase := .running, record := List.replicate 64 0#8 }

/-- The bare job stalls on estate 0 while the ring is frozen and 1,023 records are held for its completion queue, which lies in leaf 1's
scratchpad with every segment off. The queue has room for them, since the statement asks nothing of the queues of its state. -/
def crowded : State :=
  { State.reset with
    ktime := 1000000
    caddy := { frozen := true }
    queue := [(0, { bound := true, base := spBase 1, lg := 10, esize := 1, kind := 3,
                    held := List.replicate 1023 (List.replicate 32 0#8) })]
    jobs := { est := [(0, { live := true, job := some bareJob })] } }

theorem nothingWaits_crowded : NothingWaits crowded where
  ucode := rfl
  change e := by
    simp only [getEst, crowded, tget]
    split <;> rfl
  pairs := rfl
  grant _ := rfl
  lwm := rfl
  secure := rfl
  freeze _ := rfl
  tmpls := rfl
  level := rfl

theorem droppingQ_crowded : DroppingQ 0 crowded :=
  ⟨rfl, rfl, rfl, rfl, rfl, rfl, rfl, by decide, rfl, rfl⟩

/-- The stall's event. -/
def crowdedStall : State :=
  event srcAfzan 0xA040 bareJob.party (leBytes 1 0 ++ leBytes 2 (recHandle bareJob.record) ++ leBytes 4 (recTag bareJob.record)) crowded

/-- The end of the job writes 1,024 drops after the stall's event, and leaves nothing to wait. -/
theorem abortJob_crowdedStall : ∃ t, NothingWaits t ∧ JobsOnly crowdedStall t ∧ Dropped 1024 t (abortJob 0 stTIMEOUT crowdedStall) := by
  obtain ⟨bs, t, habort, hjobs, hwaits⟩ :=
    abortJob_of_bare (s := crowdedStall) (e := 0) (j := bareJob) { nothingWaits_crowded with } rfl rfl rfl rfl stTIMEOUT
  have hqueue : getQ t 0 = getQ crowded 0 := by rw [hjobs]; rfl
  have hlen : (getQ t 0).held.length = 1023 := by rw [hqueue]; exact List.length_replicate
  have hdrop : DroppingQ 0 t := by rw [hjobs]; exact { droppingQ_crowded with frozen := rfl }
  refine ⟨t, hwaits, hjobs, ?_⟩
  have hfirm : t.firm = crowdedStall.firm := by rw [hjobs]
  have hcomplete := dropped_complete hdrop (by rw [hfirm]; decide) bs (by rw [hlen, hqueue]; decide)
  rw [habort]
  rwa [hlen] at hcomplete

/-- No state from which the boundary's work leads to the end of the crowded stall has the stall's event in its slot: a drop stands there,
and that work writes none. -/
theorem stallEvent_lost {u : State} (h : settle u = settle (abortJob 0 stTIMEOUT crowdedStall)) :
    (tget u.caddy.ring crowded.caddy.slot).code = 0x1006 := by
  obtain ⟨t, hwaits, hjobs, hdropped⟩ := abortJob_crowdedStall
  generalize abortJob 0 stTIMEOUT crowdedStall = v at h hdropped
  have hwaits' : NothingWaits v := hdropped.nothingWaits hwaits
  rw [settle_of_nothingWaits hwaits'] at h
  have hmail : NoMail v := by
    intro p
    rw [hdropped.frame, hjobs]
    exact ⟨rfl, rfl⟩
  have hslot : v.caddy.lastSlot = crowded.caddy.slot := by
    have hmarker : t.caddy.marker = 0 := by rw [hjobs]; rfl
    have htail : t.caddy.tail = 1 := by rw [hjobs]; rfl
    have hfirst : crowded.caddy.slot = 1 := rfl
    rw [Caddy.lastSlot, hdropped.marker, hdropped.tail, hmarker, htail, hfirst]
  have hlast : (tget v.caddy.ring crowded.caddy.slot).IsDrop := hslot ▸ hdropped.last (.inl (by decide))
  have hsettle : NoDrop u v := h ▸ noDrop_settle u
  rw [← hsettle.ring (hsettle.mail.noMail_iff.1 hmail) _ hlast]
  exact hlast.1

/-- Refutes O27: the clause of the stall (which rests on log entry 17) also promises that its event still stands in the ring when the job
has ended. In the state `crowded` the end of the job pushes 1,024 completions whose entries are dropped, and the last of their events
takes the slot of the stall's. -/
theorem not_runLimits : ¬ Obligations.RunLimits := by
  unfold Obligations.RunLimits
  rintro ⟨hstall, -⟩
  have hjob : jobOf crowded (0 : Fin 16).val = some bareJob := rfl
  have hthreads : ∀ k ∈ jobThreads crowded bareJob, (getTh crowded k).mode ≠ .taster := fun _ hk => nomatch hk
  have hact : crowded.firm.act ≠ .open_ := by decide
  have hlate : bareJob.progress + tStallUs (jobImg crowded bareJob) * 100 ≤ crowded.ktime := by decide
  obtain ⟨u, hexec, -, hlogs⟩ := hstall 0 crowded bareJob hjob (.inl rfl) hthreads hact hlate
  rw [exec_jobStalled hjob (.inl rfl) hthreads hact hlate] at hexec
  have hlost := stallEvent_lost (Host.Outcome.next.inj hexec).symm
  rw [hlogs.1] at hlost
  exact absurd hlost (by decide)

end Sys2Proof.Machine

/-! The statistics messages DSP_STATS and FUS_STATS (R283, R328). A message that passes the checks of R362 is answered with what its own
checks and effect give, at its taking (`serve_of_taken`). What is left is each message's own part: its field checks, who holds the pipe or
the engine, and the counters before and after the read. -/

namespace Sys2Proof.Machine
open Sys2Proof.Claims

/-! ### The taking of a message (R360 to R362, R367) -/

/-- Taking a message takes the turn, and may note the sender's AFI. -/
theorem atTaking_frame (m : Msg) (s : State) : atTaking m s = { s with
    party := (atTaking m s).party, caddy := (atTaking m s).caddy, safe := (atTaking m s).safe
    firm := { s.firm with turn := (atTaking m s).firm.turn, lastG := (atTaking m s).firm.lastG } } := by
  unfold atTaking afiNote
  split <;> rfl

@[simp] theorem atTaking_media (m : Msg) (s : State) : (atTaking m s).media = s.media := by rw [atTaking_frame]
@[simp] theorem atTaking_cap (m : Msg) (s : State) : (atTaking m s).cap = s.cap := by rw [atTaking_frame]
@[simp] theorem atTaking_boot (m : Msg) (s : State) : (atTaking m s).boot = s.boot := by rw [atTaking_frame]
@[simp] theorem getPipe_atTaking (m : Msg) (s : State) (p : Nat) : getPipe (atTaking m s) p = getPipe s p := by simp [getPipe]
@[simp] theorem getFus_atTaking (m : Msg) (s : State) : getFus (atTaking m s) = getFus s := by simp [getFus]

@[simp] theorem pendOf_party (s : State) (code : Nat) (m : Msg) : (pendOf s code m).party = pidx m.sender := rfl

@[simp] theorem getParty_tookTurn (p j : Nat) (s : State) : getParty (tookTurn p s) j = getParty s j := rfl

@[simp] theorem frozen_atTaking (m : Msg) (s : State) (p : Nat) : (getParty (atTaking m s) p).frozen = (getParty s p).frozen := by
  unfold atTaking afiNote
  split
  · rw [getParty, event_party, ← getParty, getParty_modParty]
    split <;> simp [*]
  · rfl

/-- A message that passes the checks of R362 and answers at once is answered as its own checks and effect give. -/
theorem serve_of_taken {code : Nat} {allow : Nat → Bool} {len : Msg → Bool} {own : Own} {m : Msg} {s u : State} {a : Ans}
    (ht : Taken code allow len m s) (hown : own m (pendOf (atTaking m s) code m) (atTaking m s) = say a u) :
    serve code allow len own m s = answer (pidx m.sender) code m.tag.toNat a u := by
  obtain ⟨hserved, hact, hready, hheader, hallow, hfrozen⟩ := ht
  have hearly : (!(atTaking m s).boot.ready && !earlyMsg code) = false := by
    rcases hready with h | h <;> simp [h]
  have hthawed : (decide ((getParty (atTaking m s) (pidx m.sender)).frozen ≠ 0) && !frozenMsg code) = false := by
    rcases hfrozen with h | h <;> simp [h]
  have hclosed : (tookTurn (pidx m.sender) s).firm.act ≠ .open_ := hact
  unfold atTaking at hown hearly hthawed
  simp only [serve, serveAs, hserved, hclosed, hearly, hheader, hallow, hthawed, hown, say, Bool.and_true, Bool.not_true, Bool.false_eq_true,
    if_false]

theorem says_of_own {c : Instr} {code : Nat} {allow : Nat → Bool} {len : Msg → Bool} {own : Own} {m : Msg} {s u : State} {a : Ans}
    {P : State → State → Prop} (hexec : exec c s = .next (serve code allow len own m s)) (ht : Taken code allow len m s)
    (hown : own m (pendOf (atTaking m s) code m) (atTaking m s) = say a u) (hP : P (atTaking m s) u) : Says id c code m s a P :=
  ⟨u, by rw [hexec, serve_of_taken ht hown, id], hP⟩

/-! ### Checks of a message -/

@[simp] theorem firstBad_nil : firstBad [] = none := rfl
@[simp] theorem firstBad_cons (o : Nat) (b : Bool) (r : List (Nat × Bool)) : firstBad ((o, b) :: r) = if b then some o else firstBad r := rfl

theorem checked_of_bad {fs : List (Nat × Bool)} {o : Nat} (h : firstBad fs = some o) (s : State) (k : State × Option Ans) :
    checked fs s k = say (badArg o) s := by
  rw [checked, h, say]

theorem checked_of_good {fs : List (Nat × Bool)} (h : firstBad fs = none) (s : State) (k : State × Option Ans) : checked fs s k = k := by
  rw [checked, h]

theorem refusedBy_single (b : Bool) (st : Nat) (s : State) (k : State × Option Ans) :
    refusedBy [(b, st)] s k = if b then say (sts st) s else k := by
  cases b <;> rfl

theorem rsvBad_eq_false {m : Msg} {off n : Nat} : rsvBad m off n = false ↔ fld m off n = 0 := by simp [rsvBad]

theorem rsvBad_eq_true {m : Msg} {off n : Nat} : rsvBad m off n = true ↔ fld m off n ≠ 0 := by simp [rsvBad]

/-! ### Counters (R10, R11) -/

/-- The bytes of a counter in an answer. -/
theorem leBytes_val (c : Stat) : leBytes 8 c.val = counter c := by
  cases h : c.ovf <;> simp [counter, Stat.val, b2n, h]

theorem read_eq_afterRead {clear : Nat} (h : clear ≠ 1) (c : Stat) : c.read = afterRead clear c := (if_neg h).symm

theorem bitOf_zero_eq_true {c : Nat} (h : c < 2) : bitOf c 0 = true ↔ c = 1 := by
  simp only [bitOf, Nat.pow_zero, Nat.div_one, beq_iff_eq]
  omega

/-! ### DSP_STATS (R283) -/

theorem mediaOnly_modPipe (s : State) (p : Nat) (f : Pipe → Pipe) : MediaOnly s (modPipe s p f) := rfl

/-- A pipe after its statistics were read. -/
def Pipe.readStats (clear : Nat) (x : Pipe) : Pipe :=
  { x with repeats := afterRead clear x.repeats, under := afterRead clear x.under
           dropped := afterRead clear x.dropped, losses := afterRead clear x.losses }

/-- The read's effect on a pipe, as DSP_STATS writes it out. -/
theorem readStats_of_bit {clear : Nat} (h : clear < 2) : (fun y : Pipe =>
      if bitOf clear 0 then { y with repeats := {}, under := {}, dropped := {}, losses := {} }
      else { y with repeats := y.repeats.read, under := y.under.read, dropped := y.dropped.read, losses := y.losses.read }) =
    Pipe.readStats clear := by
  funext y
  by_cases hc : clear = 1
  · subst hc; rfl
  · rw [if_neg (mt (bitOf_zero_eq_true h).1 hc)]
    simp only [Pipe.readStats, read_eq_afterRead hc]

theorem dspStats_eq (x : Pipe) :
    dspStats x = leBytes 8 x.frame ++ counter x.repeats ++ counter x.under ++ counter x.dropped ++ counter x.losses := by
  simp only [dspStats, leBytes_val]

/-- The fields of DSP_STATS that are checked. -/
def dspStatsFields (m : Msg) : List (Nat × Bool) := [(0, decide (6 ≤ fld m 0 1)), (1, decide (2 ≤ fld m 1 1)), (2, rsvBad m 2 2)]

theorem dspStatsFields_good {m : Msg} (hpipe : fld m 0 1 < 6) (hclear : fld m 1 1 < 2) (hrsv : fld m 2 2 = 0) :
    firstBad (dspStatsFields m) = none := by
  simp [dspStatsFields, Nat.not_le.2 hpipe, Nat.not_le.2 hclear, rsvBad_eq_false.2 hrsv]

theorem dspStatsFields_badClear {m : Msg} (hpipe : fld m 0 1 < 6) (hclear : 2 ≤ fld m 1 1) : firstBad (dspStatsFields m) = some 1 := by
  simp [dspStatsFields, Nat.not_le.2 hpipe, hclear]

theorem dspStatsFields_badRsv {m : Msg} (hpipe : fld m 0 1 < 6) (hclear : fld m 1 1 < 2) (hrsv : fld m 2 2 ≠ 0) :
    firstBad (dspStatsFields m) = some 2 := by
  simp [dspStatsFields, Nat.not_le.2 hpipe, Nat.not_le.2 hclear, rsvBad_eq_true.2 hrsv]

/-- DSP_STATS with good fields: DENIED for a pipe of another party, else the answer and the read's effect. -/
theorem ownDspStats_of_good {m : Msg} (hpipe : fld m 0 1 < 6) (hclear : fld m 1 1 < 2) (hrsv : fld m 2 2 = 0) (d : Pend) (s : State) :
    ownDspStats m d s =
      if (getPipe s (fld m 0 1)).owner ≠ d.party + 1 then say (sts stDENIED) s
      else say (okWith (dspStats (getPipe s (fld m 0 1)))) (modPipe s (fld m 0 1) (Pipe.readStats (fld m 1 1))) := by
  rw [ownDspStats, readStats_of_bit hclear, ← dspStatsFields, checked_of_good (dspStatsFields_good hpipe hclear hrsv), refusedBy_single]
  simp only [decide_eq_true_eq]

/-- DSP_STATS names the first field that fails, whoever holds the pipe (assumption 27). -/
theorem ownDspStats_of_bad {m : Msg} {o : Nat} (hbad : firstBad (dspStatsFields m) = some o) (d : Pend) (s : State) :
    ownDspStats m d s = say (badArg o) s := checked_of_bad hbad s _

theorem exec_dspStats (m : Msg) (s : State) : exec (.dspStats m) s = .next (serve 0x0513 isParty (lenIs 4) ownDspStats m s) := rfl

section
variable {m : Msg} {s : State} (ht : Taken 0x0513 isParty (lenIs 4) m s)
include ht

/-- The answer to the pipe's own party, and the read's effect: on that pipe's four counters only. -/
theorem dspStats_says_counters (hpipe : fld m 0 1 < 6) (hclear : fld m 1 1 < 2) (hrsv : fld m 2 2 = 0)
    (howner : (getPipe s (fld m 0 1)).owner = pidx m.sender + 1) :
    Says id (.dspStats m) 0x0513 m s (okWith (dspStats (getPipe s (fld m 0 1)))) fun r u =>
      MediaOnly r u ∧ (∀ j, j ≠ fld m 0 1 → getPipe u j = getPipe s j) ∧
      getPipe u (fld m 0 1) = Pipe.readStats (fld m 1 1) (getPipe s (fld m 0 1)) := by
  refine says_of_own (u := modPipe (atTaking m s) (fld m 0 1) (Pipe.readStats (fld m 1 1))) (exec_dspStats m s) ht ?_
    ⟨mediaOnly_modPipe _ _ _, fun j hj => ?_, ?_⟩
  · rw [ownDspStats_of_good hpipe hclear hrsv, getPipe_atTaking, pendOf_party, if_neg (not_not.2 howner)]
  · rw [getPipe_modPipe_ne _ _ hj, getPipe_atTaking]
  · rw [getPipe_modPipe_same, getPipe_atTaking]

theorem dspStats_says_denied (hpipe : fld m 0 1 < 6) (hclear : fld m 1 1 < 2) (hrsv : fld m 2 2 = 0)
    (howner : (getPipe s (fld m 0 1)).owner ≠ pidx m.sender + 1) :
    Says id (.dspStats m) 0x0513 m s (sts stDENIED) fun r u => u = r := by
  refine says_of_own (exec_dspStats m s) ht ?_ rfl
  rw [ownDspStats_of_good hpipe hclear hrsv, getPipe_atTaking, pendOf_party, if_pos howner]

theorem dspStats_says_badArg {o : Nat} (hbad : firstBad (dspStatsFields m) = some o) :
    Says id (.dspStats m) 0x0513 m s (badArg o) fun r u => u = r :=
  says_of_own (exec_dspStats m s) ht (ownDspStats_of_bad hbad _ _) rfl

end

/-! ### FUS_STATS (R328) -/

theorem capOnly_modFus (s : State) (f : Fusion → Fusion) : CapOnly s (modFus s f) := rfl

@[simp] theorem getFus_modFus (s : State) (f : Fusion → Fusion) : getFus (modFus s f) = f (getFus s) := rfl

/-- The engine after its statistics were read. -/
def Fusion.readStats (clear : Nat) (f : Fusion) : Fusion :=
  { f with late := afterRead clear f.late, future := afterRead clear f.future, bad := afterRead clear f.bad
           unassigned := afterRead clear f.unassigned, overflowed := afterRead clear f.overflowed
           notStarted := afterRead clear f.notStarted }

/-- Table 10.15, of the engine's record alone. -/
theorem fusStats_eq (s : State) : fusStats s =
    leBytes 2 ((getFus s).tracks.filter fun x => x.2.live).length ++ leBytes 2 0 ++ leBytes 4 (getFus s).gen ++ counter (getFus s).late ++
      counter (getFus s).future ++ counter (getFus s).bad ++ counter (getFus s).unassigned ++ counter (getFus s).overflowed ++
      counter (getFus s).notStarted ++ (List.range 32).flatMap fun i => leBytes 4 (field (tget (getFus s).xf i) 100 4) := by
  simp only [fusStats, liveSlots, List.length_map, leBytes_val]

@[simp] theorem fusStats_atTaking (m : Msg) (s : State) : fusStats (atTaking m s) = fusStats s := by
  simp only [fusStats_eq, getFus_atTaking]

/-- The fields of FUS_STATS that are checked. -/
def fusStatsFields (m : Msg) : List (Nat × Bool) := [(0, decide (2 ≤ fld m 0 1)), (1, rsvBad m 1 3)]

theorem fusStatsFields_good {m : Msg} (hclear : fld m 0 1 < 2) (hrsv : fld m 1 3 = 0) : firstBad (fusStatsFields m) = none := by
  simp [fusStatsFields, Nat.not_le.2 hclear, rsvBad_eq_false.2 hrsv]

theorem fusStatsFields_badClear {m : Msg} (hclear : 2 ≤ fld m 0 1) : firstBad (fusStatsFields m) = some 0 := by
  simp [fusStatsFields, hclear]

theorem fusStatsFields_badRsv {m : Msg} (hclear : fld m 0 1 < 2) (hrsv : fld m 1 3 ≠ 0) : firstBad (fusStatsFields m) = some 1 := by
  simp [fusStatsFields, Nat.not_le.2 hclear, rsvBad_eq_true.2 hrsv]

/-- FUS_STATS with good fields: DENIED for a party that does not hold the engine, else the answer and the read's effect. -/
theorem ownFusStats_of_good {m : Msg} (hclear : fld m 0 1 < 2) (hrsv : fld m 1 3 = 0) (d : Pend) (s : State) :
    ownFusStats m d s =
      if (getFus s).owner ≠ d.party + 1 then say (sts stDENIED) s
      else say (okWith (fusStats s)) (modFus s (Fusion.readStats (fld m 0 1))) := by
  rw [ownFusStats, ← fusStatsFields, checked_of_good (fusStatsFields_good hclear hrsv)]
  rfl

/-- FUS_STATS names the first field that fails, whoever holds the engine (assumption 27). -/
theorem ownFusStats_of_bad {m : Msg} {o : Nat} (hbad : firstBad (fusStatsFields m) = some o) (d : Pend)
    (s : State) : ownFusStats m d s = say (badArg o) s := checked_of_bad hbad s _

theorem exec_fusStats (m : Msg) (s : State) : exec (.fusStats m) s = .next (serve 0x0613 isParty (lenIs 4) ownFusStats m s) := rfl

section
variable {m : Msg} {s : State} (ht : Taken 0x0613 isParty (lenIs 4) m s)
include ht

/-- The answer to the party that holds the engine, and the read's effect: on the engine's six counters only. -/
theorem fusStats_says_counters (hclear : fld m 0 1 < 2) (hrsv : fld m 1 3 = 0) (howner : (getFus s).owner = pidx m.sender + 1) :
    Says id (.fusStats m) 0x0613 m s (okWith (fusStats s)) fun r u =>
      CapOnly r u ∧ getFus u = Fusion.readStats (fld m 0 1) (getFus s) := by
  refine says_of_own (u := modFus (atTaking m s) (Fusion.readStats (fld m 0 1))) (exec_fusStats m s) ht ?_ ⟨capOnly_modFus _ _, ?_⟩
  · rw [ownFusStats_of_good hclear hrsv, getFus_atTaking, pendOf_party, if_neg (not_not.2 howner), fusStats_atTaking]
  · rw [getFus_modFus, getFus_atTaking]

theorem fusStats_says_denied (hclear : fld m 0 1 < 2) (hrsv : fld m 1 3 = 0) (howner : (getFus s).owner ≠ pidx m.sender + 1) :
    Says id (.fusStats m) 0x0613 m s (sts stDENIED) fun r u => u = r := by
  refine says_of_own (exec_fusStats m s) ht ?_ rfl
  rw [ownFusStats_of_good hclear hrsv, getFus_atTaking, pendOf_party, if_pos howner]

theorem fusStats_says_badArg {o : Nat} (hbad : firstBad (fusStatsFields m) = some o) :
    Says id (.fusStats m) 0x0613 m s (badArg o) fun r u => u = r :=
  says_of_own (exec_fusStats m s) ht (ownFusStats_of_bad hbad _ _) rfl

end

/-- Settles O46: each message's answers by its fields and its holder. That a bad field answers BAD_ARG whoever holds the pipe or the engine
is the model's order of checks (assumption 27). -/
theorem statisticsMessages : Obligations.StatisticsMessages := by
  unfold Obligations.StatisticsMessages
  refine ⟨?dsp, ?dspFields, ?fus, ?fusFields⟩
  case dsp =>
    intro m s ht hpipe hclear hrsv
    refine ⟨fun howner => ?_, dspStats_says_denied ht hpipe hclear hrsv⟩
    rw [← dspStats_eq]
    exact dspStats_says_counters ht hpipe hclear hrsv howner
  case dspFields =>
    intro m s ht hpipe
    exact ⟨fun hclear => dspStats_says_badArg ht (dspStatsFields_badClear hpipe hclear),
      fun hclear hrsv => dspStats_says_badArg ht (dspStatsFields_badRsv hpipe hclear hrsv)⟩
  case fus =>
    intro m s ht hclear hrsv
    refine ⟨fun howner => ?_, fusStats_says_denied ht hclear hrsv⟩
    rw [← fusStats_eq]
    exact fusStats_says_counters ht hclear hrsv howner
  case fusFields =>
    intro m s ht
    exact ⟨fun hclear => fusStats_says_badArg ht (fusStatsFields_badClear hclear),
      fun hclear hrsv => fusStats_says_badArg ht (fusStatsFields_badRsv hclear hrsv)⟩

end Sys2Proof.Machine

/-! The declarations from here on are elaborated one after another, as those of the tests are: the whole text is compiled in one process, and each
proof that waits for another one holds a stack of its bounded memory. -/

section
set_option Elab.async false

/-! Station words (R152 to R157, R256): the fields that each format of Table 5.6 lays down are the fields that the decoder reads, and a word
is laid down again by its fields where its unused bits are 0. -/

namespace Sys2Proof

/-! ### What the decoder reads of each format's word -/

section
variable {v w s l : Nat} {hi : BitVec v} {lo : BitVec w}

/-- The bits above what is laid down last. -/
theorem field_above {z : BitVec l} (h : hi.extractLsb' (s - w) l = z) (hs : w ≤ s := by decide) : (hi ++ lo).extractLsb' s l = z := by
  rw [BitVec.extractLsb'_append_eq_of_le hs, h]

theorem field_last : (hi ++ lo).extractLsb' 0 w = lo := by
  rw [BitVec.extractLsb'_append_eq_of_add_le (by omega), BitVec.extractLsb'_eq_self]

theorem bit_above {z : Bool} (h : hi.getLsbD (s - w) = z) (hs : w ≤ s := by decide) : (hi ++ lo).getLsbD s = z := by
  rw [BitVec.getLsbD_append, if_neg (by omega), h]

theorem bit_last {z : Bool} : (hi ++ BitVec.ofBool z).getLsbD 0 = z := by
  rw [BitVec.getLsbD_append, if_pos (by decide)]
  simp

theorem field_all {x : BitVec v} : x.extractLsb' 0 v = x := BitVec.extractLsb'_eq_self

end

section
variable (cls : BitVec 4) (op : BitVec 6) (a b c : BitVec 5) (rm : BitVec 2)

@[simp] theorem fields_encR : fcls (encR cls op a b c) = cls ∧ fop (encR cls op a b c) = op ∧ fa (encR cls op a b c) = a ∧
    fb (encR cls op a b c) = b ∧ fc (encR cls op a b c) = c ∧ lo7 (encR cls op a b c) = 0 :=
  ⟨field_above (field_above (field_above (field_above (field_above field_all)))),
    field_above (field_above (field_above (field_above field_last))),
    field_above (field_above (field_above field_last)),
    field_above (field_above field_last),
    field_above field_last,
    field_last⟩

@[simp] theorem lo12_encR : lo12 (encR cls op a b 0#5) = 0 := by
  ext i hi
  simp [lo12, encR]
  grind

@[simp] theorem fields_encI (i : BitVec 12) : fcls (encI cls op a b i) = cls ∧ fop (encI cls op a b i) = op ∧
    fa (encI cls op a b i) = a ∧ fb (encI cls op a b i) = b ∧ fi (encI cls op a b i) = i :=
  ⟨field_above (field_above (field_above (field_above field_all))),
    field_above (field_above (field_above field_last)),
    field_above (field_above field_last),
    field_above field_last,
    field_last⟩

@[simp] theorem fields_encU (u : BitVec 17) : fcls (encU cls op a u) = cls ∧ fop (encU cls op a u) = op ∧ fa (encU cls op a u) = a ∧
    fu (encU cls op a u) = u :=
  ⟨field_above (field_above (field_above field_all)),
    field_above (field_above field_last),
    field_above field_last,
    field_last⟩

@[simp] theorem fields_encB (p : BitVec 3) (s : Bool) (o : BitVec 18) : fcls (encB cls op p s o) = cls ∧ fop (encB cls op p s o) = op ∧
    fp (encB cls op p s o) = p ∧ fs (encB cls op p s o) = s ∧ fo (encB cls op p s o) = o :=
  ⟨field_above (field_above (field_above (field_above field_all))),
    field_above (field_above (field_above field_last)),
    field_above (field_above field_last),
    bit_above bit_last,
    field_last⟩

@[simp] theorem fields_encV : fcls (encV cls op a b c rm) = cls ∧ fop (encV cls op a b c rm) = op ∧ fa (encV cls op a b c rm) = a ∧
    fb (encV cls op a b c rm) = b ∧ fc (encV cls op a b c rm) = c ∧ frm (encV cls op a b c rm) = rm ∧
    lo5 (encV cls op a b c rm) = 0 :=
  ⟨field_above (field_above (field_above (field_above (field_above (field_above field_all))))),
    field_above (field_above (field_above (field_above (field_above field_last)))),
    field_above (field_above (field_above (field_above field_last))),
    field_above (field_above (field_above field_last)),
    field_above (field_above field_last),
    field_above field_last,
    field_last⟩

@[simp] theorem fields_encM (f : BitVec 4) (st : Bool) : fcls (encM cls op a b c f st rm) = cls ∧ fop (encM cls op a b c f st rm) = op ∧
    fa (encM cls op a b c f st rm) = a ∧ fb (encM cls op a b c f st rm) = b ∧ fc (encM cls op a b c f st rm) = c ∧
    ffmt (encM cls op a b c f st rm) = f ∧ fsat (encM cls op a b c f st rm) = st ∧ frm0 (encM cls op a b c f st rm) = rm :=
  ⟨field_above (field_above (field_above (field_above (field_above (field_above (field_above field_all)))))),
    field_above (field_above (field_above (field_above (field_above (field_above field_last))))),
    field_above (field_above (field_above (field_above (field_above field_last)))),
    field_above (field_above (field_above (field_above field_last))),
    field_above (field_above (field_above field_last)),
    field_above (field_above field_last),
    bit_above bit_last,
    field_last⟩

@[simp] theorem fields_encX (t : BitVec 4) (tl cl : Bool) : fcls (encX cls op a t tl cl) = cls ∧ fop (encX cls op a t tl cl) = op ∧
    fa (encX cls op a t tl cl) = a ∧ ft (encX cls op a t tl cl) = t ∧ ftl (encX cls op a t tl cl) = tl ∧
    fcl (encX cls op a t tl cl) = cl ∧ lo11 (encX cls op a t tl cl) = 0 :=
  ⟨field_above (field_above (field_above (field_above (field_above (field_above field_all))))),
    field_above (field_above (field_above (field_above (field_above field_last)))),
    field_above (field_above (field_above (field_above field_last))),
    field_above (field_above (field_above field_last)),
    bit_above (bit_above bit_last),
    bit_above bit_last,
    field_last⟩

@[simp] theorem lo13_encX (t : BitVec 4) : lo13 (encX cls op a t false false) = 0 := by
  ext i hi
  simp [lo13, encX]
  grind

@[simp] theorem lo17_encX : lo17 (encX cls op a 0#4 false false) = 0 := by
  ext i hi
  simp [lo17, encX]
  grind

@[simp] theorem fields_encQ (qn : BitVec 8) (p : BitVec 3) : fcls (encQ cls op a b qn p) = cls ∧ fop (encQ cls op a b qn p) = op ∧
    fa (encQ cls op a b qn p) = a ∧ fb (encQ cls op a b qn p) = b ∧ fqn (encQ cls op a b qn p) = qn ∧
    fqp (encQ cls op a b qn p) = p ∧ flo (encQ cls op a b qn p) = false :=
  ⟨field_above (field_above (field_above (field_above (field_above (field_above field_all))))),
    field_above (field_above (field_above (field_above (field_above field_last)))),
    field_above (field_above (field_above (field_above field_last))),
    field_above (field_above (field_above field_last)),
    field_above (field_above field_last),
    field_above field_last,
    bit_last (z := false)⟩

@[simp] theorem fields_encS (n : BitVec 4) (k : BitVec 6) : fcls (encS cls op n k) = cls ∧ fop (encS cls op n k) = op ∧
    fn (encS cls op n k) = n ∧ fcnt (encS cls op n k) = k ∧ lo12 (encS cls op n k) = 0 :=
  ⟨field_above (field_above (field_above (field_above field_all))),
    field_above (field_above (field_above field_last)),
    field_above (field_above field_last),
    field_above field_last,
    field_last⟩

@[simp] theorem lo18_encS (n : BitVec 4) : lo18 (encS cls op n 0#6) = 0 := by
  ext i hi
  simp [lo18, encS]
  grind

@[simp] theorem lo22_encS : lo22 (encS cls op 0#4 0#6) = 0 := by
  ext i hi
  simp [lo22, encS]
  grind

end

/-! ### A word is laid down again by its fields -/

section
variable {x : Word}

/-- A field laid below what stands above it. -/
theorem append_field {n s l : Nat} {y : BitVec n} (h : y = x.extractLsb' (s + l) n) : y ++ x.extractLsb' s l = x.extractLsb' s (n + l) := by
  subst h
  exact BitVec.extractLsb'_append_extractLsb'_eq_extractLsb' rfl

theorem ofBool_getLsbD (x : Word) (i : Nat) : BitVec.ofBool (x.getLsbD i) = x.extractLsb' i 1 := by
  ext j hj
  obtain rfl : j = 0 := by omega
  simp

/-- The fields within bits that are 0 are 0. -/
theorem field_zero {a n b m : Nat} (h : x.extractLsb' a n = 0) (hlo : a ≤ b) (hhi : b + m ≤ a + n) : x.extractLsb' b m = 0 := by
  ext i hi
  have hbit := congrArg (fun y => y.getLsbD (b + i - a)) h
  simp only [BitVec.getLsbD_extractLsb'] at hbit
  rw [show a + (b + i - a) = b + i by omega, decide_eq_true (show b + i - a < n by omega), Bool.true_and] at hbit
  simpa using hbit

theorem bit_zero {a n b : Nat} (h : x.extractLsb' a n = 0) (hlo : a ≤ b) (hhi : b < a + n) : x.getLsbD b = false := by
  have hfield : x.extractLsb' b 1 = 0 := field_zero h hlo hhi
  rw [← ofBool_getLsbD] at hfield
  cases hbit : x.getLsbD b
  · rfl
  · rw [hbit] at hfield
    exact absurd hfield (by decide)

theorem word_of_field {y : Word} (h : y = x.extractLsb' 0 32) : y = x := h.trans BitVec.extractLsb'_eq_self

theorem encR_fields (h : lo7 x = 0) : encR (fcls x) (fop x) (fa x) (fb x) (fc x) = x := by
  unfold encR
  rw [show 0#7 = lo7 x from h.symm]
  exact word_of_field (append_field (append_field (append_field (append_field (append_field rfl)))))

theorem encR_fields_ab (h : lo12 x = 0) : encR (fcls x) (fop x) (fa x) (fb x) 0#5 = x := by
  rw [show 0#5 = fc x from (field_zero h (by decide) (by decide)).symm]
  exact encR_fields (field_zero h (by decide) (by decide))

theorem encI_fields : encI (fcls x) (fop x) (fa x) (fb x) (fi x) = x :=
  word_of_field (append_field (append_field (append_field (append_field rfl))))

theorem encU_fields : encU (fcls x) (fop x) (fa x) (fu x) = x := word_of_field (append_field (append_field (append_field rfl)))

theorem encB_fields : encB (fcls x) (fop x) (fp x) (fs x) (fo x) = x := by
  unfold encB fs
  rw [ofBool_getLsbD]
  exact word_of_field (append_field (append_field (append_field (append_field rfl))))

theorem encV_fields (h : lo5 x = 0) : encV (fcls x) (fop x) (fa x) (fb x) (fc x) (frm x) = x := by
  unfold encV
  rw [show 0#5 = lo5 x from h.symm]
  exact word_of_field (append_field (append_field (append_field (append_field (append_field (append_field rfl))))))

theorem encM_fields : encM (fcls x) (fop x) (fa x) (fb x) (fc x) (ffmt x) (fsat x) (frm0 x) = x := by
  unfold encM fsat
  rw [ofBool_getLsbD]
  exact word_of_field (append_field (append_field (append_field (append_field (append_field (append_field (append_field rfl)))))))

theorem encX_fields (h : lo11 x = 0) : encX (fcls x) (fop x) (fa x) (ft x) (ftl x) (fcl x) = x := by
  unfold encX ftl fcl
  rw [ofBool_getLsbD, ofBool_getLsbD, show 0#11 = lo11 x from h.symm]
  exact word_of_field (append_field (append_field (append_field (append_field (append_field (append_field rfl))))))

theorem encX_fields_at (h : lo13 x = 0) : encX (fcls x) (fop x) (fa x) (ft x) false false = x := by
  have hfields := encX_fields (field_zero (b := 0) (m := 11) h (by decide) (by decide))
  rw [show ftl x = false from bit_zero h (by decide) (by decide), show fcl x = false from bit_zero h (by decide) (by decide)] at hfields
  exact hfields

theorem encX_fields_a (h : lo17 x = 0) : encX (fcls x) (fop x) (fa x) 0#4 false false = x := by
  rw [show 0#4 = ft x from (field_zero h (by decide) (by decide)).symm]
  exact encX_fields_at (field_zero h (by decide) (by decide))

theorem encQ_fields (h : flo x = false) : encQ (fcls x) (fop x) (fa x) (fb x) (fqn x) (fqp x) = x := by
  have hlo : 0#1 = x.extractLsb' 0 1 := by
    rw [← ofBool_getLsbD, show x.getLsbD 0 = false from h]
    rfl
  unfold encQ
  rw [hlo]
  exact word_of_field (append_field (append_field (append_field (append_field (append_field (append_field rfl))))))

theorem encS_fields (h : lo12 x = 0) : encS (fcls x) (fop x) (fn x) (fcnt x) = x := by
  unfold encS
  rw [show 0#12 = lo12 x from h.symm]
  exact word_of_field (append_field (append_field (append_field (append_field rfl))))

theorem encS_fields_n (h : lo18 x = 0) : encS (fcls x) (fop x) (fn x) 0#6 = x := by
  rw [show 0#6 = fcnt x from (field_zero h (by decide) (by decide)).symm]
  exact encS_fields (field_zero h (by decide) (by decide))

theorem encS_fields_none (h : lo22 x = 0) : encS (fcls x) (fop x) 0#4 0#6 = x := by
  rw [show 0#4 = fn x from (field_zero h (by decide) (by decide)).symm]
  exact encS_fields_n (field_zero h (by decide) (by decide))

end

/-! ### Decoding what was encoded -/

section
variable {w : Thr} {x : Word}

/-- Reading the class, then the operation within it, of a word whose two fields are known. -/
theorem decFields_scalar (hc : fcls x = 0) : decFields w x = decScalar w x := by unfold decFields; rw [hc]; rfl
theorem decFields_imm (hc : fcls x = 1) : decFields w x = decImm w x := by unfold decFields; rw [hc]; rfl
theorem decFields_scalMem (hc : fcls x = 2) : decFields w x = decScalMem w x := by unfold decFields; rw [hc]; rfl
theorem decFields_ctrl (hc : fcls x = 3) : decFields w x = decCtrl w x := by unfold decFields; rw [hc]; rfl
theorem decFields_vec (hc : fcls x = 4) : decFields w x = decVec w x := by unfold decFields; rw [hc]; rfl
theorem decFields_vecMem (hc : fcls x = 5) : decFields w x = decVecMem w x := by unfold decFields; rw [hc]; rfl
theorem decFields_sfu (hc : fcls x = 6) : decFields w x = decSfu w x := by unfold decFields; rw [hc]; rfl
theorem decFields_mat (hc : fcls x = 7) : decFields w x = decMat w x := by unfold decFields; rw [hc]; rfl
theorem decFields_dma (hc : fcls x = 8) : decFields w x = decDma w x := by unfold decFields; rw [hc]; rfl
theorem decFields_queue (hc : fcls x = 9) : decFields w x = decQueue w x := by unfold decFields; rw [hc]; rfl
theorem decFields_sync (hc : fcls x = 10) : decFields w x = decSync w x := by unfold decFields; rw [hc]; rfl
theorem decFields_raster (hc : fcls x = 11) : decFields w x = decRaster w x := by unfold decFields; rw [hc]; rfl

end

theorem and_beq {n m : Nat} {p : BitVec n} {q : BitVec m} (hp : p = 0) (hq : q = 0) : (p == 0 && q == 0) = true := by
  subst hp hq
  simp

theorem not_and_beq {n : Nat} {f : Bool} {q : BitVec n} (hf : f = false) (hq : q = 0) : (!f && q == 0) = true := by
  subst hf hq
  simp

/-- The fields of an instruction's word spell that instruction, whichever of the formats it has. -/
theorem decFields_of_encode {i : Instr} {x : Word} (h : encodeStation i = some x) : decFields (thrOf i) x = some i := by
  cases i
  case add w a b c | sub w a b c | and w a b c | or w a b c | xor w a b c | sll w a b c | srl w a b c | sra w a b c | mul w a b c |
      mulhu w a b c | min w a b c | max w a b c | peq w a b c | pne w a b c | plt w a b c | pltu w a b c =>
    obtain rfl : encR 0 _ a b c = x := Option.some.inj h
    obtain ⟨hc, ho, ha, hb, hcc, hl⟩ := fields_encR 0 _ a b c
    refine (decFields_scalar (w := w) hc).trans ?_
    rw [decScalar, ho]
    exact (if_pos (beq_iff_eq.2 hl)).trans (by rw [ha, hb, hcc])
  case addi w a b i | andi w a b i | ori w a b i | xori w a b i | slli w a b i | srli w a b i | srai w a b i =>
    obtain rfl : encI 1 _ a b i = x := Option.some.inj h
    obtain ⟨hc, ho, ha, hb, hi⟩ := fields_encI 1 _ a b i
    refine (decFields_imm (w := w) hc).trans ?_
    rw [decImm, ho]
    exact congrArg some (by rw [ha, hb, hi])
  case lui w a u | lli w a u =>
    obtain rfl : encU 1 _ a u = x := Option.some.inj h
    obtain ⟨hc, ho, ha, hu⟩ := fields_encU 1 _ a u
    refine (decFields_imm (w := w) hc).trans ?_
    rw [decImm, ho]
    exact congrArg some (by rw [ha, hu])
  case lb w a b i | lbu w a b i | lh w a b i | lhu w a b i | lw w a b i | ld w a b i | sb w a b i | sh w a b i | sw w a b i | sd w a b i |
      lwx w a b i | swx w a b i =>
    obtain rfl : encI 2 _ a b i = x := Option.some.inj h
    obtain ⟨hc, ho, ha, hb, hi⟩ := fields_encI 2 _ a b i
    refine (decFields_scalMem (w := w) hc).trans ?_
    rw [decScalMem, ho]
    exact congrArg some (by rw [ha, hb, hi])
  case br w p s o =>
    obtain rfl : encB 3 _ p s o = x := Option.some.inj h
    obtain ⟨hc, ho, hp, hs, hoff⟩ := fields_encB 3 _ p s o
    refine (decFields_ctrl (w := w) hc).trans ?_
    rw [decCtrl, ho]
    exact congrArg some (by rw [hp, hs, hoff])
  case jal w a u =>
    obtain rfl : encU 3 _ a u = x := Option.some.inj h
    obtain ⟨hc, ho, ha, hu⟩ := fields_encU 3 _ a u
    refine (decFields_ctrl (w := w) hc).trans ?_
    rw [decCtrl, ho]
    exact congrArg some (by rw [ha, hu])
  case jr w a b =>
    obtain rfl : encR 3 _ a b 0 = x := Option.some.inj h
    obtain ⟨hc, ho, ha, hb, -, -⟩ := fields_encR 3 _ a b 0
    refine (decFields_ctrl (w := w) hc).trans ?_
    rw [decCtrl, ho]
    exact (if_pos (beq_iff_eq.2 (lo12_encR ..))).trans (by rw [ha, hb])
  case vadd w a b c rm | vsub w a b c rm | vmul w a b c rm | vfma w a b c rm | vmin w a b c rm | vmax w a b c rm | viadd w a b c rm |
      visub w a b c rm | vimul w a b c rm | viadds w a b c rm | visubs w a b c rm | vsll w a b c rm | vsrl w a b c rm | vsra w a b c rm =>
    obtain rfl : encV 4 _ a b c rm = x := Option.some.inj h
    obtain ⟨hc, ho, ha, hb, hcc, hrm, hl⟩ := fields_encV 4 _ a b c rm
    refine (decFields_vec (w := w) hc).trans ?_
    rw [decVec, ho]
    exact (if_pos (beq_iff_eq.2 hl)).trans (by rw [ha, hb, hcc, hrm])
  case vrsum w a b rm | vrmax w a b rm =>
    obtain rfl : encV 4 _ a b 0 rm = x := Option.some.inj h
    obtain ⟨hc, ho, ha, hb, hcc, hrm, hl⟩ := fields_encV 4 _ a b 0 rm
    refine (decFields_vec (w := w) hc).trans ?_
    rw [decVec, ho]
    exact (if_pos (and_beq hl hcc)).trans (by rw [ha, hb, hrm])
  case vbc w a b | vmovs w a b =>
    obtain rfl : encR 4 _ a b 0 = x := Option.some.inj h
    obtain ⟨hc, ho, ha, hb, -, -⟩ := fields_encR 4 _ a b 0
    refine (decFields_vec (w := w) hc).trans ?_
    rw [decVec, ho]
    exact (if_pos (beq_iff_eq.2 (lo12_encR ..))).trans (by rw [ha, hb])
  case vldr w a b c f st rm | vldc w a b c f st rm | vlda w a b c f st rm | vstr w a b c f st rm | vstc w a b c f st rm |
      vsta w a b c f st rm =>
    obtain rfl : encM 5 _ a b c f st rm = x := Option.some.inj h
    obtain ⟨hc, ho, ha, hb, hcc, hf, hst, hrm⟩ := fields_encM 5 _ a b c rm f st
    refine (decFields_vecMem (w := w) hc).trans ?_
    rw [decVecMem, ho]
    exact congrArg some (by rw [ha, hb, hcc, hf, hst, hrm])
  case sexp2 w a b | slog2 w a b | srcp w a b | srsq w a b | ssqrt w a b | ssin w a b | scos w a b | stanh w a b | ssig w a b =>
    obtain rfl : encR 6 _ a b 0 = x := Option.some.inj h
    obtain ⟨hc, ho, ha, hb, -, -⟩ := fields_encR 6 _ a b 0
    refine (decFields_sfu (w := w) hc).trans ?_
    rw [decSfu, ho]
    exact (if_pos (beq_iff_eq.2 (lo12_encR ..))).trans (by rw [ha, hb])
  case mma w a t tl cl =>
    obtain rfl : encX 7 _ a t tl cl = x := Option.some.inj h
    obtain ⟨hc, ho, ha, ht, htl, hcl, hl⟩ := fields_encX 7 _ a t tl cl
    refine (decFields_mat (w := w) hc).trans ?_
    rw [decMat, ho]
    exact (if_pos (beq_iff_eq.2 hl)).trans (by rw [ha, ht, htl, hcl])
  case drain w a t tl =>
    obtain rfl : encX 7 _ a t tl false = x := Option.some.inj h
    obtain ⟨hc, ho, ha, ht, htl, hcl, hl⟩ := fields_encX 7 _ a t tl false
    refine (decFields_mat (w := w) hc).trans ?_
    rw [decMat, ho]
    exact (if_pos (by rw [hl, hcl]; rfl)).trans (by rw [ha, ht, htl])
  case accst w a tl =>
    obtain rfl : encX 7 _ a 0 tl false = x := Option.some.inj h
    obtain ⟨hc, ho, ha, ht, htl, hcl, hl⟩ := fields_encX 7 _ a 0 tl false
    refine (decFields_mat (w := w) hc).trans ?_
    rw [decMat, ho]
    exact (if_pos (by rw [hl, hcl, ht]; rfl)).trans (by rw [ha, htl])
  case dma w a =>
    obtain rfl : encX 8 _ a 0 false false = x := Option.some.inj h
    obtain ⟨hc, ho, ha, -, -, -, -⟩ := fields_encX 8 _ a 0 false false
    refine (decFields_dma (w := w) hc).trans ?_
    rw [decDma, ho]
    exact (if_pos (beq_iff_eq.2 (lo17_encX ..))).trans (by rw [ha])
  case qpush w a b qn | qpop w a b qn | qwait w a b qn | qret w a b qn | qlen w a b qn =>
    obtain rfl : encQ 9 _ a b qn 0 = x := Option.some.inj h
    obtain ⟨hc, ho, ha, hb, hqn, hp, hl⟩ := fields_encQ 9 _ a b qn 0
    refine (decFields_queue (w := w) hc).trans ?_
    rw [decQueue, ho]
    exact (if_pos (not_and_beq hl hp)).trans (by rw [ha, hb, hqn])
  case qtry w a b qn p =>
    obtain rfl : encQ 9 _ a b qn p = x := Option.some.inj h
    obtain ⟨hc, ho, ha, hb, hqn, hp, hl⟩ := fields_encQ 9 _ a b qn p
    refine (decFields_queue (w := w) hc).trans ?_
    rw [decQueue, ho]
    exact (if_pos (by rw [hl]; rfl)).trans (by rw [ha, hb, hqn, hp])
  case wait w n =>
    obtain rfl : encS 10 _ n 0 = x := Option.some.inj h
    obtain ⟨hc, ho, hn, -, -⟩ := fields_encS 10 _ n 0
    refine (decFields_sync (w := w) hc).trans ?_
    rw [decSync, ho]
    exact (if_pos (beq_iff_eq.2 (lo18_encS ..))).trans (by rw [hn])
  case bar w n k =>
    obtain rfl : encS 10 _ n k = x := Option.some.inj h
    obtain ⟨hc, ho, hn, hk, hl⟩ := fields_encS 10 _ n k
    refine (decFields_sync (w := w) hc).trans ?_
    rw [decSync, ho]
    exact (if_pos (beq_iff_eq.2 hl)).trans (by rw [hn, hk])
  case stepEnd w | halt w =>
    obtain rfl : encS 10 _ 0 0 = x := Option.some.inj h
    obtain ⟨hc, ho, -, -, -⟩ := fields_encS 10 _ 0 0
    refine (decFields_sync (w := w) hc).trans ?_
    rw [decSync, ho]
    exact if_pos (beq_iff_eq.2 (lo22_encS ..))
  case rdraw w =>
    obtain rfl : encS 11 _ 0 0 = x := Option.some.inj h
    obtain ⟨hc, ho, -, -, -⟩ := fields_encS 11 _ 0 0
    refine (decFields_raster (w := w) hc).trans ?_
    rw [decRaster, ho]
    exact if_pos (beq_iff_eq.2 (lo22_encS ..))
  case rbinw w a t | rload w a t | rsetup w a t | rstore w a t =>
    obtain rfl : encX 11 _ a t false false = x := Option.some.inj h
    obtain ⟨hc, ho, ha, ht, -, -, -⟩ := fields_encX 11 _ a t false false
    refine (decFields_raster (w := w) hc).trans ?_
    rw [decRaster, ho]
    exact (if_pos (beq_iff_eq.2 (lo13_encX ..))).trans (by rw [ha, ht])
  case rbin w a =>
    obtain rfl : encX 11 _ a 0 false false = x := Option.some.inj h
    obtain ⟨hc, ho, ha, -, -, -, -⟩ := fields_encX 11 _ a 0 false false
    refine (decFields_raster (w := w) hc).trans ?_
    rw [decRaster, ho]
    exact (if_pos (beq_iff_eq.2 (lo17_encX ..))).trans (by rw [ha])
  case rfrag w a b | rdepth w a b =>
    obtain rfl : encR 11 _ a b 0 = x := Option.some.inj h
    obtain ⟨hc, ho, ha, hb, -, -⟩ := fields_encR 11 _ a b 0
    refine (decFields_raster (w := w) hc).trans ?_
    rw [decRaster, ho]
    exact (if_pos (beq_iff_eq.2 (lo12_encR ..))).trans (by rw [ha, hb])
  case rtex w a b c | rblend w a b c =>
    obtain rfl : encR 11 _ a b c = x := Option.some.inj h
    obtain ⟨hc, ho, ha, hb, hcc, hl⟩ := fields_encR 11 _ a b c
    refine (decFields_raster (w := w) hc).trans ?_
    rw [decRaster, ho]
    exact (if_pos (beq_iff_eq.2 hl)).trans (by rw [ha, hb, hcc])
  all_goals exact nomatch (h : none = some x)

theorem stationRoundTripPart : Claims.StationRoundTripPart := by
  intro i x hwf h
  rw [decodeStation, decFields_of_encode h, Option.filter_some, if_pos hwf]

/-! ### Encoding what was decoded -/

/-- The instruction is of thread `w`, and `x` is its word. -/
def Spelled (w : Thr) (x : Word) (i : Instr) : Prop := encodeStation i = some x ∧ thrOf i = w

section
variable {w : Thr} {x : Word} {i : Instr} {c o : Nat} (hc : (fcls x).toNat = c) (ho : (fop x).toNat = o) (ht : thrOf i = w)
include hc ho ht

theorem spelled_encR (hlo : lo7 x = 0) (he : encodeStation i = some (encR (BitVec.ofNat 4 c) (BitVec.ofNat 6 o) (fa x) (fb x) (fc x))) :
    Spelled w x i := by
  subst hc ho
  exact ⟨by simpa [encR_fields hlo] using he, ht⟩

theorem spelled_encR_ab (hlo : lo12 x = 0) (he : encodeStation i = some (encR (BitVec.ofNat 4 c) (BitVec.ofNat 6 o) (fa x) (fb x) 0)) :
    Spelled w x i := by
  subst hc ho
  exact ⟨by simpa [encR_fields_ab hlo] using he, ht⟩

theorem spelled_encI (he : encodeStation i = some (encI (BitVec.ofNat 4 c) (BitVec.ofNat 6 o) (fa x) (fb x) (fi x))) : Spelled w x i := by
  subst hc ho
  exact ⟨by simpa [encI_fields] using he, ht⟩

theorem spelled_encU (he : encodeStation i = some (encU (BitVec.ofNat 4 c) (BitVec.ofNat 6 o) (fa x) (fu x))) : Spelled w x i := by
  subst hc ho
  exact ⟨by simpa [encU_fields] using he, ht⟩

theorem spelled_encB (he : encodeStation i = some (encB (BitVec.ofNat 4 c) (BitVec.ofNat 6 o) (fp x) (fs x) (fo x))) : Spelled w x i := by
  subst hc ho
  exact ⟨by simpa [encB_fields] using he, ht⟩

theorem spelled_encV (hlo : lo5 x = 0)
    (he : encodeStation i = some (encV (BitVec.ofNat 4 c) (BitVec.ofNat 6 o) (fa x) (fb x) (fc x) (frm x))) : Spelled w x i := by
  subst hc ho
  exact ⟨by simpa [encV_fields hlo] using he, ht⟩

theorem spelled_encM
    (he : encodeStation i = some (encM (BitVec.ofNat 4 c) (BitVec.ofNat 6 o) (fa x) (fb x) (fc x) (ffmt x) (fsat x) (frm0 x))) :
    Spelled w x i := by
  subst hc ho
  exact ⟨by simpa [encM_fields] using he, ht⟩

theorem spelled_encX (hlo : lo11 x = 0)
    (he : encodeStation i = some (encX (BitVec.ofNat 4 c) (BitVec.ofNat 6 o) (fa x) (ft x) (ftl x) (fcl x))) : Spelled w x i := by
  subst hc ho
  exact ⟨by simpa [encX_fields hlo] using he, ht⟩

theorem spelled_encX_at (hlo : lo13 x = 0)
    (he : encodeStation i = some (encX (BitVec.ofNat 4 c) (BitVec.ofNat 6 o) (fa x) (ft x) false false)) : Spelled w x i := by
  subst hc ho
  exact ⟨by simpa [encX_fields_at hlo] using he, ht⟩

theorem spelled_encX_a (hlo : lo17 x = 0)
    (he : encodeStation i = some (encX (BitVec.ofNat 4 c) (BitVec.ofNat 6 o) (fa x) 0 false false)) : Spelled w x i := by
  subst hc ho
  exact ⟨by simpa [encX_fields_a hlo] using he, ht⟩

theorem spelled_encQ (hlo : flo x = false)
    (he : encodeStation i = some (encQ (BitVec.ofNat 4 c) (BitVec.ofNat 6 o) (fa x) (fb x) (fqn x) (fqp x))) : Spelled w x i := by
  subst hc ho
  exact ⟨by simpa [encQ_fields hlo] using he, ht⟩

theorem spelled_encS (hlo : lo12 x = 0) (he : encodeStation i = some (encS (BitVec.ofNat 4 c) (BitVec.ofNat 6 o) (fn x) (fcnt x))) :
    Spelled w x i := by
  subst hc ho
  exact ⟨by simpa [encS_fields hlo] using he, ht⟩

theorem spelled_encS_n (hlo : lo18 x = 0) (he : encodeStation i = some (encS (BitVec.ofNat 4 c) (BitVec.ofNat 6 o) (fn x) 0)) :
    Spelled w x i := by
  subst hc ho
  exact ⟨by simpa [encS_fields_n hlo] using he, ht⟩

theorem spelled_encS_none (hlo : lo22 x = 0) (he : encodeStation i = some (encS (BitVec.ofNat 4 c) (BitVec.ofNat 6 o) 0 0)) :
    Spelled w x i := by
  subst hc ho
  exact ⟨by simpa [encS_fields_none hlo] using he, ht⟩

end

section
variable {w : Thr} {x : Word} {i : Instr}

theorem eq_of_guard {b : Bool} {j : Instr} (h : (if b then some j else none) = some i) : b = true ∧ j = i := by
  simpa using h

theorem spelled_of_decScalar (hc : (fcls x).toNat = 0) (h : decScalar w x = some i) : Spelled w x i := by
  unfold decScalar at h
  split at h
  case h_17 => cases h
  all_goals
    obtain ⟨hlo, rfl⟩ := eq_of_guard h
    exact spelled_encR hc ‹_› rfl (beq_iff_eq.1 hlo) rfl

theorem spelled_of_decImm (hc : (fcls x).toNat = 1) (h : decImm w x = some i) : Spelled w x i := by
  unfold decImm at h
  split at h <;> cases h
  case h_8 | h_9 => exact spelled_encU hc ‹_› rfl rfl
  all_goals exact spelled_encI hc ‹_› rfl rfl

theorem spelled_of_decScalMem (hc : (fcls x).toNat = 2) (h : decScalMem w x = some i) : Spelled w x i := by
  unfold decScalMem at h
  split at h <;> cases h
  all_goals exact spelled_encI hc ‹_› rfl rfl

theorem spelled_of_decCtrl (hc : (fcls x).toNat = 3) (h : decCtrl w x = some i) : Spelled w x i := by
  unfold decCtrl at h
  split at h
  · cases h; exact spelled_encB hc ‹_› rfl rfl
  · cases h; exact spelled_encU hc ‹_› rfl rfl
  · obtain ⟨hlo, rfl⟩ := eq_of_guard h
    exact spelled_encR_ab hc ‹_› rfl (beq_iff_eq.1 hlo) rfl
  · cases h

/-- A V-format word whose third register is 0. -/
theorem encodeV_c_zero {c o : Nat} (h : fc x = 0) : encV (BitVec.ofNat 4 c) (BitVec.ofNat 6 o) (fa x) (fb x) 0 (frm x) =
    encV (BitVec.ofNat 4 c) (BitVec.ofNat 6 o) (fa x) (fb x) (fc x) (frm x) := by rw [h]

theorem spelled_of_decVec (hc : (fcls x).toNat = 4) (h : decVec w x = some i) : Spelled w x i := by
  unfold decVec at h
  split at h
  case h_15 | h_16 =>
    obtain ⟨hlo, rfl⟩ := eq_of_guard h
    simp only [Bool.and_eq_true, beq_iff_eq] at hlo
    exact spelled_encV hc ‹_› rfl hlo.1 (congrArg some (encodeV_c_zero hlo.2))
  case h_17 | h_18 =>
    obtain ⟨hlo, rfl⟩ := eq_of_guard h
    exact spelled_encR_ab hc ‹_› rfl (beq_iff_eq.1 hlo) rfl
  case h_19 => cases h
  all_goals
    obtain ⟨hlo, rfl⟩ := eq_of_guard h
    exact spelled_encV hc ‹_› rfl (beq_iff_eq.1 hlo) rfl

theorem spelled_of_decVecMem (hc : (fcls x).toNat = 5) (h : decVecMem w x = some i) : Spelled w x i := by
  unfold decVecMem at h
  split at h <;> cases h
  all_goals exact spelled_encM hc ‹_› rfl rfl

theorem spelled_of_decSfu (hc : (fcls x).toNat = 6) (h : decSfu w x = some i) : Spelled w x i := by
  unfold decSfu at h
  split at h
  case h_10 => cases h
  all_goals
    obtain ⟨hlo, rfl⟩ := eq_of_guard h
    exact spelled_encR_ab hc ‹_› rfl (beq_iff_eq.1 hlo) rfl

theorem spelled_of_decMat (hc : (fcls x).toNat = 7) (h : decMat w x = some i) : Spelled w x i := by
  unfold decMat at h
  split at h
  · obtain ⟨hlo, rfl⟩ := eq_of_guard h
    exact spelled_encX hc ‹_› rfl (beq_iff_eq.1 hlo) rfl
  · obtain ⟨hlo, rfl⟩ := eq_of_guard h
    simp only [Bool.and_eq_true, beq_iff_eq, Bool.not_eq_true'] at hlo
    exact spelled_encX hc ‹_› rfl hlo.1 (by rw [hlo.2]; rfl)
  · obtain ⟨hlo, rfl⟩ := eq_of_guard h
    simp only [Bool.and_eq_true, beq_iff_eq, Bool.not_eq_true'] at hlo
    exact spelled_encX hc ‹_› rfl hlo.1.1 (by rw [hlo.1.2, hlo.2]; rfl)
  · cases h

theorem spelled_of_decDma (hc : (fcls x).toNat = 8) (h : decDma w x = some i) : Spelled w x i := by
  unfold decDma at h
  split at h
  · obtain ⟨hlo, rfl⟩ := eq_of_guard h
    exact spelled_encX_a hc ‹_› rfl (beq_iff_eq.1 hlo) rfl
  · cases h

theorem spelled_of_decQueue (hc : (fcls x).toNat = 9) (h : decQueue w x = some i) : Spelled w x i := by
  unfold decQueue at h
  split at h
  case h_3 =>
    obtain ⟨hlo, rfl⟩ := eq_of_guard h
    exact spelled_encQ hc ‹_› rfl (by simpa using hlo) rfl
  case h_7 => cases h
  all_goals
    obtain ⟨hlo, rfl⟩ := eq_of_guard h
    simp only [Bool.and_eq_true, beq_iff_eq, Bool.not_eq_true'] at hlo
    exact spelled_encQ hc ‹_› rfl hlo.1 (by rw [hlo.2]; rfl)

theorem spelled_of_decSync (hc : (fcls x).toNat = 10) (h : decSync w x = some i) : Spelled w x i := by
  unfold decSync at h
  split at h
  case h_5 => cases h
  all_goals obtain ⟨hlo, rfl⟩ := eq_of_guard h
  · exact spelled_encS_n hc ‹_› rfl (beq_iff_eq.1 hlo) rfl
  · exact spelled_encS hc ‹_› rfl (beq_iff_eq.1 hlo) rfl
  all_goals exact spelled_encS_none hc ‹_› rfl (beq_iff_eq.1 hlo) rfl

theorem spelled_of_decRaster (hc : (fcls x).toNat = 11) (h : decRaster w x = some i) : Spelled w x i := by
  unfold decRaster at h
  split at h
  case h_11 => cases h
  all_goals obtain ⟨hlo, rfl⟩ := eq_of_guard h
  case h_2 => exact spelled_encS_none hc ‹_› rfl (beq_iff_eq.1 hlo) rfl
  case h_3 => exact spelled_encX_a hc ‹_› rfl (beq_iff_eq.1 hlo) rfl
  case h_6 | h_8 => exact spelled_encR_ab hc ‹_› rfl (beq_iff_eq.1 hlo) rfl
  case h_7 | h_9 => exact spelled_encR hc ‹_› rfl (beq_iff_eq.1 hlo) rfl
  all_goals exact spelled_encX_at hc ‹_› rfl (beq_iff_eq.1 hlo) rfl

theorem spelled_of_decFields (h : decFields w x = some i) : Spelled w x i := by
  unfold decFields at h
  split at h
  · exact spelled_of_decScalar ‹_› h
  · exact spelled_of_decImm ‹_› h
  · exact spelled_of_decScalMem ‹_› h
  · exact spelled_of_decCtrl ‹_› h
  · exact spelled_of_decVec ‹_› h
  · exact spelled_of_decVecMem ‹_› h
  · exact spelled_of_decSfu ‹_› h
  · exact spelled_of_decMat ‹_› h
  · exact spelled_of_decDma ‹_› h
  · exact spelled_of_decQueue ‹_› h
  · exact spelled_of_decSync ‹_› h
  · exact spelled_of_decRaster ‹_› h
  · cases h

theorem stationWordsUnique : Claims.StationWordsUnique := by
  intro w x i h
  obtain ⟨hdec, hwf⟩ := Option.filter_eq_some_iff.1 h
  exact ⟨hwf, spelled_of_decFields hdec⟩

end

/-- Settles O4: a word's fields are read back as they were laid down, and a word whose unused bits are 0 is laid down again by its fields. -/
theorem stationRoundTrip : Obligations.StationRoundTrip := ⟨stationRoundTripPart, stationWordsUnique⟩

end Sys2Proof

/-! Every command answers a next state, and what an idle step changes (R51, R59, assumption 2). -/

namespace Sys2Proof.Machine

/-! ### The commands whose meaning branches before it answers -/

theorem execLwx_next (w : Thr) (rd rs1 : BitVec 5) (imm : BitVec 12) (s : State) : ∃ t, execLwx w rd rs1 imm s = .next t := by
  unfold execLwx
  dsimp only
  split
  · split <;> exact ⟨_, rfl⟩
  · exact ⟨_, rfl⟩

theorem execSwx_next (w : Thr) (rd rs1 : BitVec 5) (imm : BitVec 12) (s : State) : ∃ t, execSwx w rd rs1 imm s = .next t := by
  unfold execSwx
  dsimp only
  split
  · exact ⟨_, rfl⟩
  · split
    · exact ⟨_, rfl⟩
    · split
      · exact ⟨_, rfl⟩
      · split
        · exact ⟨_, rfl⟩
        · split <;> exact ⟨_, rfl⟩
        · exact ⟨_, rfl⟩

theorem execLoadReturn_next (w : Thr) (s : State) : ∃ t, execLoadReturn w s = .next t := by
  unfold execLoadReturn
  dsimp only
  split
  · exact ⟨_, rfl⟩
  · split
    · exact ⟨_, rfl⟩
    · split
      · split <;> exact ⟨_, rfl⟩
      · exact ⟨_, rfl⟩

/-- Every other command's meaning is written as a next state. -/
theorem noCommandStops : Claims.NoCommandStops := by
  intro c s
  cases c
  case lwx => exact execLwx_next ..
  case swx => exact execSwx_next ..
  case loadReturn => exact execLoadReturn_next ..
  all_goals exact ⟨_, rfl⟩

/-! ### An idle step -/

/-- An estate's record after 10 ns. -/
def Estate.tick (s : State) (x : Estate) : Estate := { x with job := if clocked s then x.job.map (Job.tick s.pw.div) else x.job }

theorem getEst_tick (s : State) (e : Nat) : getEst (tick s) e = Estate.tick s (getEst s e) := by
  show tget (s.jobs.est.map fun x => (x.1, Estate.tick s x.2)) e = Estate.tick s (tget s.jobs.est e)
  induction s.jobs.est with
  | nil =>
    show default = Estate.tick s default
    unfold Estate.tick
    split <;> rfl
  | cons x r ih =>
    simp only [List.map_cons, tget]
    split
    · rfl
    · exact ih

/-- A job's count of run cycles after 10 ns. -/
theorem Job.tick_spec (d : Nat) (j : Job) : if j.phase = .running ∨ j.phase = .pouring then
      Job.tick d j = { j with runTclk := (Job.tick d j).runTclk, runRem := (Job.tick d j).runRem } ∧
      (Job.tick d j).runTclk = j.runTclk + (j.runRem + 132) / d ∧ (Job.tick d j).runRem = (j.runRem + 132) % d
    else Job.tick d j = j := by
  unfold Job.tick
  split
  · exact ⟨rfl, rfl, rfl⟩
  · rfl

theorem idleTick : Claims.IdleTick := by
  intro s hpend hreset
  have hidle : step s = .next (tick s) := by
    have hquiet : (tick s).boot.resetting.isNone = true := by rw [show (tick s).boot = s.boot from rfl, hreset]; rfl
    simp only [step, hpend, idle, hquiet, if_true]
  refine ⟨tick s, hidle, rfl, ?time, fun e => by rw [getEst_tick]; rfl, ?jobs⟩
  case time => simp [tick]
  case jobs =>
    intro e j hj
    have hjob : jobOf (tick s) e = if clocked s then (jobOf s e).map (Job.tick s.pw.div) else jobOf s e := by
      rw [jobOf, getEst_tick]; rfl
    rw [hjob, hj]
    by_cases hc : clocked s = true
    · have hspec := Job.tick_spec s.pw.div j
      exact ⟨Job.tick s.pw.div j, by simp [hc], by simpa [hc] using hspec⟩
    · exact ⟨j, by simp [hc], by simp [hc]⟩

/-- Settles O2: no meaning is a fault or a refusal, and an idle step with no reset in progress is one tick. -/
theorem everyStepAnswers : Obligations.EveryStepAnswers := ⟨noCommandStops, idleTick⟩

end Sys2Proof.Machine

/-! Scalar arithmetic, predicates, branches and jumps (R154, classes 0x0, 0x1 and 0x3): an instruction that can issue and whose registers
read with good parity has one result, and touches its thread's own scalar state alone. -/

namespace Sys2Proof.Machine
open Sys2Proof.Claims

/-! ### Arithmetic -/

/-- What an instruction does whose result `v` goes to register `rd`. -/
def RegResult (w : Thr) (rd : BitVec 5) (v : Word) (s t : State) : Prop :=
  WritesReg (thrKey w) rd v s t ∧ (getTh t (thrKey w)).preds = (getTh s (thrKey w)).preds ∧ Steps (thrKey w) s t ∧
  ScalarFrame (thrKey w) s t

section
variable {c : Instr} {w : Thr} {rd rs1 rs2 : BitVec 5} {imm : BitVec 12} {s : State} {a b v : Word} {f : Word → Word → Word}

theorem runs_regResult {g : Nat → State → Chk State} (he : exec c s = .next (issueNext w g s)) (hi : CanIssue w s)
    (hg : g (thrKey w) s = .ok (setReg (thrKey w) rd v s)) : Runs c s (RegResult w rd v s) :=
  ⟨_, he, regResult hi hg⟩

theorem runs_aluRR (he : exec c s = .next (issueNext w (aluRR f rd rs1 rs2) s)) (hi : CanIssue w s) (ha : Reads w s rs1 a)
    (hb : Reads w s rs2 b) (hv : f a b = v) : Runs c s (RegResult w rd v s) :=
  runs_regResult he hi (by simp only [aluRR, ha, hb, hv])

theorem runs_aluRI (he : exec c s = .next (issueNext w (aluRI f rd rs1 imm) s)) (hi : CanIssue w s) (ha : Reads w s rs1 a)
    (hv : f a (imm.signExtend 32) = v) : Runs c s (RegResult w rd v s) :=
  runs_regResult he hi (by simp only [aluRI, ha, Except.map, hv])

end

theorem mul_eq_ofNat (a b : Word) : a * b = BitVec.ofNat 32 (a.toNat * b.toNat) := by
  apply BitVec.eq_of_toNat_eq
  simp [BitVec.toNat_mul]

theorem mulhuW_eq (a b : Word) : mulhuW a b = ((a.setWidth 64 * b.setWidth 64) >>> 32).setWidth 32 := by
  have hlt : a.toNat * b.toNat < 2 ^ 64 := by
    have := Nat.mul_lt_mul'' a.isLt b.isLt
    simpa using this
  have ha : a.toNat < 2 ^ 64 := Nat.lt_trans a.isLt (by decide)
  have hb : b.toNat < 2 ^ 64 := Nat.lt_trans b.isLt (by decide)
  apply BitVec.eq_of_toNat_eq
  simp only [mulhuW, BitVec.toNat_ofNat, BitVec.toNat_setWidth, BitVec.toNat_ushiftRight, BitVec.toNat_mul, Nat.shiftRight_eq_div_pow,
    Nat.mod_eq_of_lt ha, Nat.mod_eq_of_lt hb, Nat.mod_eq_of_lt hlt]

theorem minW_eq (a b : Word) : minW a b = if a.toInt ≤ b.toInt then a else b := by
  unfold minW
  split
  · rw [if_neg (by omega)]
  · rw [if_pos (by omega)]

theorem maxW_eq (a b : Word) : maxW a b = if a.toInt ≤ b.toInt then b else a := by
  unfold maxW
  rcases Int.lt_trichotomy a.toInt b.toInt with h | h | h
  · rw [if_pos h, if_pos h.le]
  · rw [if_neg h.not_lt, if_pos h.le, BitVec.eq_of_toInt_eq h]
  · rw [if_neg (by omega), if_neg (by omega)]

theorem scalarRegisterForms : ScalarRegisterForms := by
  unfold ScalarRegisterForms rrForms
  simp only [List.forall_mem_cons, List.not_mem_nil, false_implies, implies_true, and_true]
  refine ⟨?add, ?sub, ?and, ?or, ?xor, ?sll, ?srl, ?sra, ?mul, ?mulhu, ?min, ?max⟩ <;> intro w rd rs1 rs2 s a b hi ha hb
  case mul => exact runs_aluRR rfl hi ha hb (mul_eq_ofNat a b)
  case mulhu => exact runs_aluRR rfl hi ha hb (mulhuW_eq a b)
  case min => exact runs_aluRR rfl hi ha hb (minW_eq a b)
  case max => exact runs_aluRR rfl hi ha hb (maxW_eq a b)
  all_goals exact runs_aluRR rfl hi ha hb rfl

theorem setWidth_eq_ofNat (imm : BitVec 17) : imm.setWidth 32 = BitVec.ofNat 32 imm.toNat := by
  apply BitVec.eq_of_toNat_eq
  simp

theorem upper_eq_ofNat (imm : BitVec 17) : imm.setWidth 32 <<< 15 = BitVec.ofNat 32 (imm.toNat * 2 ^ 15) := by
  apply BitVec.eq_of_toNat_eq
  simp [BitVec.toNat_shiftLeft, Nat.shiftLeft_eq]

theorem scalarImmediateForms : ScalarImmediateForms := by
  refine ⟨?forms, ?lui, ?lli⟩
  case forms =>
    unfold riForms
    simp only [List.forall_mem_cons, List.not_mem_nil, false_implies, implies_true, and_true]
    refine ⟨?addi, ?andi, ?ori, ?xori, ?slli, ?srli, ?srai⟩ <;> intro w rd rs1 imm s a hi ha
    all_goals exact runs_aluRI rfl hi ha rfl
  case lui =>
    intro w rd imm s hi
    exact runs_regResult rfl hi (by rw [upper_eq_ofNat])
  case lli =>
    intro w rd imm s a hi ha himm
    exact runs_regResult rfl hi (by rw [orLow, if_neg (by omega), ha, ← setWidth_eq_ofNat]; rfl)

/-- Settles O7: every form reads its registers, writes one result to rd, and goes on to the next instruction. A shift by 32 or more gives
the free value of assumption 23. -/
theorem scalarArithmetic : Obligations.ScalarArithmetic := ⟨scalarRegisterForms, scalarImmediateForms⟩

/-! ### Predicates -/

theorem getLsbD_setPred (s : State) (k p : Nat) (b : Bool) {i : Nat} (hi : i < 8) :
    (getTh (setPred k p b s) k).preds.getLsbD i = if i = p then b else (getTh s k).preds.getLsbD i := by
  have hbit : (1#8 <<< p).getLsbD i = decide (i = p) := by
    rw [BitVec.getLsbD_shiftLeft, BitVec.getLsbD_one]
    by_cases h : i = p
    · subst h; simp [hi]
    · by_cases hlt : i < p
      · simp [h, hlt]
      · simp [h, show i - p ≠ 0 by omega]
  rw [setPred, getTh_modTh_same]
  cases b
  · simp only [Bool.false_eq_true, if_false, BitVec.getLsbD_and, BitVec.getLsbD_not, hbit, hi]
    by_cases h : i = p <;> simp [h]
  · simp only [if_true, BitVec.getLsbD_or, hbit]
    by_cases h : i = p <;> simp [h]

theorem runs_aluPred {c : Instr} {w : Thr} {rd rs1 rs2 : BitVec 5} {s : State} {a b : Word} {f : Word → Word → Bool} {v : Bool}
    (he : exec c s = .next (issueNext w (aluPred f rd rs1 rs2) s)) (hi : CanIssue w s) (ha : Reads w s rs1 a) (hb : Reads w s rs2 b)
    (hrd : rd.toNat < 8) (hv : f a b = v) : Runs c s fun t =>
      (∀ i < 8, (getTh t (thrKey w)).preds.getLsbD i = if i = rd.toNat then v else (getTh s (thrKey w)).preds.getLsbD i) ∧
      KeepsRegs (thrKey w) s t ∧ Steps (thrKey w) s t ∧ ScalarFrame (thrKey w) s t := by
  have hok : aluPred f rd rs1 rs2 (thrKey w) s = .ok (setPred (thrKey w) rd.toNat v s) := by
    simp [aluPred, predReg, hrd, ha, hb, hv]
  refine ⟨_, he.trans (congrArg _ (issueNext_ok hi hok)), fun i h8 => ?_, fun r => by simp, by simp [Steps],
    scalarFrame_issued ((ownRegs_setPred ..).trans (ownRegs_adv ..))⟩
  rw [getTh_issued, adv, getTh_modTh_same]
  exact getLsbD_setPred s _ _ v h8

theorem predicateForms : PredicateForms := by
  unfold PredicateForms predForms
  simp only [List.forall_mem_cons, List.not_mem_nil, false_implies, implies_true, and_true]
  refine ⟨?peq, ?pne, ?plt, ?pltu⟩ <;> intro w rd rs1 rs2 s a b hi ha hb hrd
  case peq => exact runs_aluPred rfl hi ha hb hrd (by simp [beq_eq_decide])
  case pne => exact runs_aluPred rfl hi ha hb hrd (by simp [bne, beq_eq_decide])
  case plt => exact runs_aluPred rfl hi ha hb hrd (BitVec.slt_eq_decide ..)
  case pltu => exact runs_aluPred rfl hi ha hb hrd (BitVec.ult_eq_decide ..)

/-! ### Branches and jumps -/

/-- A signed target within the address space, as the program counter holds it. -/
theorem pc_jumpTo_int (s : State) (k : Nat) (i : Int) : ((getTh (jumpTo k (i % (2 ^ 32 : Int)).toNat s) k).pc : Int) = i % 2 ^ 32 := by
  rw [pc_jumpTo]
  omega

theorem runs_issue {c : Instr} {w : Thr} {g : Nat → State → Chk State} {s t : State} {P : State → Prop}
    (he : exec c s = .next (issue w g s)) (hi : CanIssue w s) (hg : g (thrKey w) s = .ok t) (hP : P (issued (thrKey w) t)) : Runs c s P :=
  ⟨_, he.trans (congrArg _ (issue_ok hi hg)), hP⟩

theorem runs_br {w : Thr} {s : State} (hi : CanIssue w s) (p : BitVec 3) (sense : Bool) (off : BitVec 18) :
    Runs (.br w p sense off) s fun t =>
      ((getTh t (thrKey w)).pc : Int) = (if (getTh s (thrKey w)).preds.getLsbD p.toNat = sense then
        ((getTh s (thrKey w)).pc : Int) + 4 * off.toInt else (getTh s (thrKey w)).pc + 4) % 2 ^ 32 ∧
      (getTh t (thrKey w)).preds = (getTh s (thrKey w)).preds ∧ KeepsRegs (thrKey w) s t ∧ ScalarFrame (thrKey w) s t := by
  by_cases htake : (getTh s (thrKey w)).preds.getLsbD p.toNat = sense
  · refine runs_issue rfl hi (if_pos htake) ⟨?_, ?_, fun r => by simp, scalarFrame_issued (ownRegs_jumpTo ..)⟩
    · rw [getTh_issued, pc_jumpTo_int, if_pos htake]
    · rw [getTh_issued, jumpTo, getTh_modTh_same]
  · refine runs_issue rfl hi (if_neg htake) ⟨?_, ?_, fun r => by simp, scalarFrame_issued (ownRegs_adv ..)⟩
    · rw [getTh_issued, pc_adv, if_neg htake]
      push_cast
      rfl
    · rw [getTh_issued, adv, getTh_modTh_same]

/-- A jump with a link: the register is written, and the predicates stay. -/
theorem link_jumpTo (w : Thr) (rd : BitVec 5) (v : Word) (pc : Nat) (s : State) :
    let t := issued (thrKey w) (jumpTo (thrKey w) pc (setReg (thrKey w) rd v s))
    WritesReg (thrKey w) rd v s t ∧ (getTh t (thrKey w)).preds = (getTh s (thrKey w)).preds ∧ ScalarFrame (thrKey w) s t := by
  refine ⟨⟨fun hr => ?_, sreg_zero _ _, fun r hr => ?_⟩, ?_, scalarFrame_issued ((ownRegs_setReg ..).trans (ownRegs_jumpTo ..))⟩
  · simp [sreg_setReg_same s _ v hr]
  · simp [sreg_setReg_ne s _ v hr]
  · rw [getTh_issued, jumpTo, getTh_modTh_same]
    exact preds_setReg ..

theorem controlForms : ControlForms := by
  refine ⟨fun w p sense off s hi => runs_br hi p sense off, ?jal, ?jr⟩
  case jal =>
    intro w rd imm s hi
    refine runs_issue rfl hi rfl ⟨?_, link_jumpTo ..⟩
    rw [getTh_issued, pc_jumpTo_int]
  case jr =>
    intro w rd rs1 s a hi ha
    refine runs_issue rfl hi (t := jumpTo (thrKey w) a.toNat (setReg (thrKey w) rd (BitVec.ofNat 32 ((getTh s (thrKey w)).pc + 4)) s))
      (by rw [ha]; rfl) ⟨?_, link_jumpTo ..⟩
    rw [getTh_issued, pc_jumpTo, Nat.mod_eq_of_lt a.isLt]

/-- Settles O8: a compare writes one predicate, a branch tests one, and a jump links. -/
theorem predicatesAndControl : Obligations.PredicatesAndControl := ⟨predicateForms, controlForms⟩

end Sys2Proof.Machine

/-! Scalar loads and stores (R65, R76, R78, R90, R154 class 0x2): the own scratchpad, and any physical address. -/

namespace Sys2Proof.Machine
open Sys2Proof.Claims

/-! ### The own scratchpad: loads -/

theorem evenReg_of_mod {r : BitVec 5} (h : r.toNat % 2 = 0) : evenReg r = true := by
  simp [evenReg, BitVec.getElem_eq_testBit_toNat, Nat.testBit_zero, h]

theorem succ_ne_zero_of_even {r : BitVec 5} (h : r.toNat % 2 = 0) : r + 1 ≠ 0 := by
  intro h0
  have h1 := congrArg BitVec.toNat h0
  rw [BitVec.toNat_add] at h1
  have : (1 : BitVec 5).toNat = 1 := rfl
  have : (0 : BitVec 5).toNat = 0 := rfl
  omega

theorem succ_ne_self (r : BitVec 5) : r + 1 ≠ r := by
  intro h
  have h1 := congrArg BitVec.toNat h
  rw [BitVec.toNat_add] at h1
  have : (1 : BitVec 5).toNat = 1 := rfl
  omega

theorem ofInt_signedOf {n v : Nat} (hn : 0 < n) : BitVec.ofInt 32 (signedOf n v) = (BitVec.ofNat n v).signExtend 32 := by
  have hs : signedOf n v = (BitVec.ofNat n v).toInt := by
    have hhalf : 2 ^ n = 2 * 2 ^ (n - 1) := by rw [← pow_succ']; congr 1; omega
    simp only [signedOf, BitVec.toInt_eq_toNat_cond, BitVec.toNat_ofNat]
    split
    · rw [if_pos (by omega)]
    · rw [if_neg (by omega)]
  rw [hs]
  rfl

section
variable {w : Thr} {rd rs1 : BitVec 5} {imm : BitVec 12} {s : State} {b : Word}

theorem spAddr_ok {k : Nat} (hb : sreg s k rs1 = .ok b) : spAddr s k rs1 imm = .ok (spOff b imm) := by
  simp only [spAddr, hb, Except.map, spOff]

theorem loadN_ok {k n : Nat} {bs : List Byte} (hb : sreg s k rs1 = .ok b) (ha : spOff b imm % n = 0)
    (hr : spRead s (k / 64) (spOff b imm) n 0 = .ok bs) : loadN n rs1 imm k s = .ok bs := by
  simp only [loadN, spAddr_ok hb, ha, ne_eq, not_true_eq_false, if_false, hr]

theorem runs_loadTo {c : Instr} {n : Nat} {f : Nat → Word} {bs : List Byte} {v : Word} (he : exec c s = .next (issueNext w (loadTo n f rd rs1 imm) s))
    (hi : CanIssue w s) (hb : Reads w s rs1 b) (ha : spOff b imm % n = 0) (hr : SpReads s (thrKey w / 64) (spOff b imm) n bs)
    (hv : f (leNat bs) = v) : Runs c s (RegResult w rd v s) :=
  runs_regResult he hi (by rw [loadTo, loadN_ok hb ha hr, ← hv]; rfl)

theorem runs_ld {bs : List Byte} (hi : CanIssue w s) (hb : Reads w s rs1 b) (heven : rd.toNat % 2 = 0) (ha : spOff b imm % 8 = 0)
    (hr : SpReads s (thrKey w / 64) (spOff b imm) 8 bs) : Runs (.ld w rd rs1 imm) s fun t =>
      (rd ≠ 0 → sreg t (thrKey w) rd = .ok (BitVec.ofNat 32 (leNat (bs.take 4)))) ∧
      sreg t (thrKey w) (rd + 1) = .ok (BitVec.ofNat 32 (leNat (bs.drop 4))) ∧
      (∀ r, r ≠ rd → r ≠ rd + 1 → sreg t (thrKey w) r = sreg s (thrKey w) r) ∧
      (getTh t (thrKey w)).preds = (getTh s (thrKey w)).preds ∧ Steps (thrKey w) s t ∧ ScalarFrame (thrKey w) s t := by
  have hlen : bs.length = 8 := by rw [spRead_mem hr, memRead_length]
  have hlo : field bs 0 4 = leNat (bs.take 4) := rfl
  have hhi : field bs 4 4 = leNat (bs.drop 4) := by rw [field, List.take_of_length_le (by rw [List.length_drop, hlen])]
  set lo := BitVec.ofNat 32 (leNat (bs.take 4))
  set hi' := BitVec.ofNat 32 (leNat (bs.drop 4))
  refine ⟨_, congrArg Host.Outcome.next (issueNext_ok hi (t := setReg (thrKey w) (rd + 1) hi' (setReg (thrKey w) rd lo s)) ?hf),
    ?_, ?_, ?_, ?_, ?_, ?_⟩
  case hf =>
    simp only [evenReg_of_mod heven, Bool.not_true, Bool.false_eq_true, if_false, loadN_ok hb ha hr, Except.map, hlo, hhi, lo, hi']
  · intro hrd
    rw [sreg_issued, sreg_adv, sreg_setReg_ne _ _ _ (succ_ne_self rd).symm, sreg_setReg_same _ _ _ hrd]
  · rw [sreg_issued, sreg_adv, sreg_setReg_same _ _ _ (succ_ne_zero_of_even heven)]
  · intro r h1 h2
    rw [sreg_issued, sreg_adv, sreg_setReg_ne _ _ _ h2, sreg_setReg_ne _ _ _ h1]
  · rw [getTh_issued, adv, getTh_modTh_same]
    simp
  · simp [Steps]
  · exact scalarFrame_issued (((ownRegs_setReg ..).trans (ownRegs_setReg ..)).trans (ownRegs_adv ..))

end

theorem narrowLoads : NarrowLoads := by
  refine ⟨?one, fun w rd rs1 imm s b bs hi hb heven ha hr => runs_ld hi hb heven ha hr⟩
  unfold loadForms
  simp only [List.forall_mem_cons, List.not_mem_nil, false_implies, implies_true, and_true]
  refine ⟨?lb, ?lbu, ?lh, ?lhu, ?lw⟩ <;> intro w rd rs1 imm s b bs hi hb ha hr
  case lb => exact runs_loadTo rfl hi hb ha hr (ofInt_signedOf (by decide))
  case lh => exact runs_loadTo rfl hi hb ha hr (ofInt_signedOf (by decide))
  all_goals exact runs_loadTo rfl hi hb ha hr rfl

/-! ### The own scratchpad: stores -/

/-- Bytes put into a scratchpad stand there with good parity, and nowhere else. -/
theorem stored_spPut (l off tag : Nat) (bs : List Byte) (s : State) : Stored (spBase l + off) bs s (spPut l off tag bs s) := by
  refine ⟨?_, fun i hi => spPut_badByte l off tag bs s hi, fun x hx => ?_⟩
  · rw [memRead, spPut_cells, tread_twrite]
  · rw [spPut_cells, tget_twrite_out bs _ hx]

/-- Counting an instruction and going on leaves what was stored. -/
theorem stored_issued {a k : Nat} {bs : List Byte} {s t : State} (h : Stored a bs s t) : Stored a bs s (issued k (adv k t)) := by
  obtain ⟨hmem, hgood, hout⟩ := h
  refine ⟨?_, ?_, ?_⟩
  · rwa [memRead, issued_mem]
  · intro i hi; rw [issued_eq]; exact hgood i hi
  · intro x hx; rw [issued_mem]; exact hout x hx

/-- Estates do not read memory or what lies in a leaf, so the progress mark is the same. -/
theorem progress_jobs_memLv (l : Nat) (s : State) (m : Mem) (v : Leaves) : (progress l { s with mem := m, lv := v }).jobs = (progress l s).jobs := by
  have h : estOf { s with mem := m, lv := v } l = estOf s l := rfl
  simp only [progress, h]
  cases estOf s l <;> rfl

/-- Only bytes of memory changed, with their parity and reload tags. -/
def PutOnly (s t : State) : Prop :=
  t = { s with mem := { s.mem with cells := t.mem.cells }, lv := { s.lv with badByte := t.lv.badByte, lineTag := t.lv.lineTag } }

theorem PutOnly.refl (s : State) : PutOnly s s := rfl

theorem PutOnly.trans {s t u : State} (a : PutOnly s t) (b : PutOnly t u) : PutOnly s u := by
  rw [PutOnly] at *
  rw [b, a]

theorem putOnly_spPut (l off tag : Nat) (bs : List Byte) (s : State) : PutOnly s (spPut l off tag bs s) := spPut_eq ..

theorem PutOnly.getTh {s t : State} (h : PutOnly s t) (k : Nat) : getTh t k = getTh s k := by rw [h]; rfl
theorem PutOnly.getLeaf {s t : State} (h : PutOnly s t) (l : Nat) : getLeaf t l = getLeaf s l := by rw [h]; rfl
theorem PutOnly.spOpen {s t : State} (h : PutOnly s t) {l off n : Nat} (ho : SpOpen s l off n) : SpOpen t l off n := by
  have hseg : segsOf t l off n = segsOf s l off n := by simp only [segsOf, h.getLeaf]
  exact ⟨ho.1, by rw [hseg]; exact ho.2⟩

/-- A store that goes on to the next instruction keeps to the frame of a store. -/
theorem PutOnly.storeFrame {s t : State} (h : PutOnly s t) (k : Nat) : StoreFrame k s (issued k (adv k t)) := by
  have hth : ∀ j, Machine.getTh (issued k (adv k t)) j =
      if j = k then { Machine.getTh s k with pc := ((Machine.getTh s k).pc + 4) % 2 ^ 32 } else Machine.getTh s j := by
    intro j
    rw [getTh_issued, adv, getTh_modTh, h.getTh, h.getTh]
  have hjobs : (progress (k / 64) (adv k t)).jobs = (progress (k / 64) s).jobs := by
    rw [h]
    exact progress_jobs_memLv (k / 64) s _ _
  refine ⟨?_, ?_, fun j hj => by rw [hth, if_neg hj], by rw [hth, if_pos rfl], ?_, ?_⟩
  · rw [issued_eq, hjobs, h]
    rfl
  · rw [issued_eq, h]
    rfl
  · intro l hl; rw [getLeaf_issued, if_neg hl]; exact h.getLeaf l
  · rw [getLeaf_issued, if_pos rfl]; exact congrArg (fun x : Leaf => { x with issued := x.issued.add 1 }) (h.getLeaf _)

theorem PutOnly.steps {s t : State} (h : PutOnly s t) (k : Nat) : Steps k s (issued k (adv k t)) := by
  rw [Steps, getTh_issued, pc_adv, h.getTh]

section
variable {c : Instr} {w : Thr} {rd rs1 : BitVec 5} {imm : BitVec 12} {s : State} {b : Word}

theorem storeN_ok {k n : Nat} {bs : List Byte} (hlen : bs.length = n) (hb : sreg s k rs1 = .ok b) (ha : spOff b imm % n = 0)
    (ho : SpOpen s (k / 64) (spOff b imm) n) : storeN n bs rs1 imm k s = .ok (spPut (k / 64) (spOff b imm) 0 bs s) := by
  subst hlen
  simp only [storeN, spAddr_ok hb, ha, ne_eq, not_true_eq_false, if_false, spWrite_ok ho.1 ho.2]

theorem runs_store {n : Nat} {g : Nat → State → Chk State} {bs : List Byte} (he : exec c s = .next (issueNext w g s)) (hi : CanIssue w s)
    (hg : g (thrKey w) s = storeN n bs rs1 imm (thrKey w) s) (hlen : bs.length = n) (hb : Reads w s rs1 b)
    (ha : spOff b imm % n = 0) (ho : SpOpen s (thrKey w / 64) (spOff b imm) n) : Runs c s fun t =>
      Stored (spBase (thrKey w / 64) + spOff b imm) bs s t ∧ Steps (thrKey w) s t ∧ StoreFrame (thrKey w) s t := by
  refine ⟨_, he.trans (congrArg _ (issueNext_ok hi (hg.trans (storeN_ok hlen hb ha ho)))), stored_issued (stored_spPut ..),
    (putOnly_spPut ..).steps _, (putOnly_spPut ..).storeFrame _⟩

end

theorem narrowStores : NarrowStores := by
  refine ⟨?one, ?sd⟩
  case one =>
    unfold storeForms
    simp only [List.forall_mem_cons, List.not_mem_nil, false_implies, implies_true, and_true]
    refine ⟨?sb, ?sh, ?sw⟩ <;> intro w rd rs1 imm s b v hi hb hv ha ho <;>
      exact runs_store rfl hi (by rw [storeFrom, hv]) (leBytes_length ..) hb ha ho
  case sd =>
    intro w rd rs1 imm s b lo hi' hi hb heven hlo hhi ha ho
    refine runs_store (n := 8) (bs := leBytes 4 lo.toNat ++ leBytes 4 hi'.toNat) rfl hi ?_ (by simp) hb ha ho
    simp only [evenReg_of_mod heven, Bool.not_true, Bool.false_eq_true, if_false, hlo, hhi]


/-! ### Any physical address -/

/-- A transaction that its target accepts reaches DRAM. -/
theorem access_dram {s : State} {i : Initiator} {write : Bool} {a n : Nat} (hacc : Accepted s i write a n) (ha : a < 0x1000000000)
    (data : List Byte) (waiter : List Nat) : access i write a n data waiter s = dramAccess i (whoOf s i) write a n data s := by
  obtain ⟨hreset, hfabric, hfirst⟩ := hacc
  simp only [access, hreset, Option.isSome_none, Bool.false_and, Bool.false_eq_true, if_false, hfabric, hfirst, ha, if_true]

theorem physAddr_ok {k : Nat} {rs1 : BitVec 5} {imm : BitVec 12} {s : State} {lo hi : Word} (heven : rs1.toNat % 2 = 0)
    (hlo : sreg s k rs1 = .ok lo) (hhi : sreg s k (rs1 + 1) = .ok hi) (ha : physOff lo hi imm % 4 = 0) :
    physAddr s k rs1 imm = .ok (physOff lo hi imm) := by
  unfold physOff at ha ⊢
  simp only [physAddr, evenReg_of_mod heven, Bool.not_true, Bool.false_eq_true, if_false, hlo, hhi, ne_eq, ha, not_true_eq_false]

theorem load_none_of_ready {s : State} {k : Nat} (h : ready s k = true) : (getTh s k).load = none := by
  simp only [ready, Bool.and_eq_true, Option.isNone_iff_eq_none] at h
  exact h.1.1.1.2

theorem ready_false_of_load {s : State} {k : Nat} {p : PendLoad} (h : (getTh s k).load = some p) : ready s k = false := by
  simp [ready, h]

/-- A word that a thread's load waited for reaches its register, and the thread is free. -/
theorem loadAnswer_ok {k : Nat} {s : State} {p : PendLoad} {bs : List Byte} (hload : (getTh s k).load = some p) (htex : p.tex = false) :
    loadAnswer k (.done stOK bs) s = progress (k / 64)
      (setReg k (BitVec.ofNat 5 p.rd) (BitVec.ofNat 32 (leNat bs)) (modTh s k fun t => { t with load := none })) := by
  simp [loadAnswer, hload, htex]

/-- Registers are read from the leaves alone. -/
theorem sreg_congr {s t : State} (h : t.lv = s.lv) (k : Nat) (r : BitVec 5) : sreg t k r = sreg s k r := by
  simp only [sreg, getTh, h]

theorem getTh_congr {s t : State} (h : t.lv = s.lv) (k : Nat) : getTh t k = getTh s k := by simp only [getTh, h]

/-- A change of a thread that leaves its registers. -/
theorem sreg_modTh (s : State) (k : Nat) {f : Thread → Thread} (hf : ∀ x, (f x).regs = x.regs) (r : BitVec 5) :
    sreg (modTh s k f) k r = sreg s k r := by
  simp only [sreg, getTh_modTh_same, hf]
  rfl

@[simp] theorem setReg_mem (k : Nat) (r : BitVec 5) (v : Word) (s : State) : (setReg k r v s).mem = s.mem := by
  rw [(ownRegs_setReg k r v s).1]

/-- What the arrival of a word leaves: one register of one thread changed, and that thread is free. -/
structure LoadArrived (k : Nat) (r : BitVec 5) (v : Word) (s t : State) : Prop where
  reg : WritesReg k r v s t
  free : (getTh t k).load = none
  pc : (getTh t k).pc = (getTh s k).pc
  mem : t.mem.cells = s.mem.cells
  others : ∀ j, j ≠ k → getTh t j = getTh s j

theorem loadArrived (k : Nat) (r : BitVec 5) (v : Word) (s : State) :
    LoadArrived k r v s (progress (k / 64) (setReg k r v (modTh s k fun t => { t with load := none }))) := by
  set u := modTh s k fun t => { t with load := none } with hu
  have hreg : ∀ x, sreg (progress (k / 64) (setReg k r v u)) k x = sreg (setReg k r v u) k x := sreg_congr (progress_lv ..) k
  have hread : ∀ x, sreg u k x = sreg s k x := sreg_modTh s k (f := fun t => { t with load := none }) fun _ => rfl
  obtain ⟨-, hothers, hmine⟩ := ownRegs_setReg k r v u
  refine ⟨⟨fun hr => ?_, sreg_zero _ _, fun x hx => ?_⟩, ?_, ?_, by simp [hu], fun j hj => ?_⟩
  · rw [hreg, sreg_setReg_same _ _ _ hr]
  · rw [hreg, sreg_setReg_ne _ _ _ hx, hread]
  · rw [getTh_progress, hmine, hu, getTh_modTh_same]
  · rw [getTh_progress, pc_setReg, hu, getTh_modTh_same]
  · rw [getTh_progress, hothers j hj, hu, getTh_modTh_ne _ _ hj]

/-- A load from DRAM or a scratchpad leaves its bookkeeping elsewhere: the word arrives from the state `u`. -/
theorem LoadArrived.of_path {k : Nat} {r : BitVec 5} {v : Word} {s u t : State} (hu : PathOnly s u) (h : LoadArrived k r v u t) :
    LoadArrived k r v s t where
  reg := ⟨h.reg.1, h.reg.2.1, fun x hx => by rw [h.reg.2.2 x hx, sreg_congr hu.lv]⟩
  free := h.free
  pc := by rw [h.pc, getTh_congr hu.lv]
  mem := h.mem.trans hu.cells
  others j hj := by rw [h.others j hj, getTh_congr hu.lv]

section
variable {w : Thr} {s : State} {p : PendLoad}

/-- LOAD_RETURN of a word of the own scratchpad. -/
theorem exec_loadReturn_own {bs : List Byte} (hload : (getTh s (thrKey w)).load = some p) (hpcie : p.pcie = 0) (htex : p.tex = false)
    (hown : spLeaf p.addr = some (thrKey w / 64)) (hkind : (getLeaf s (thrKey w / 64)).kind = .enabled)
    (hr : SpReads s (thrKey w / 64) (p.addr - spBase (thrKey w / 64)) 4 bs) :
    ∃ t, exec (.loadReturn w) s = .next t ∧ LoadArrived (thrKey w) (BitVec.ofNat 5 p.rd) (BitVec.ofNat 32 (leNat bs)) s t := by
  refine ⟨_, ?_, loadArrived ..⟩
  rw [← loadAnswer_ok hload htex]
  show execLoadReturn w s = _
  simp only [execLoadReturn, hload, hpcie, ne_eq, not_true_eq_false, if_false, hown, hkind, and_self, if_true, hr]

/-- LOAD_RETURN of a word of DRAM. -/
theorem exec_loadReturn_dram (hload : (getTh s (thrKey w)).load = some p) (hpcie : p.pcie = 0) (htex : p.tex = false)
    (ha : p.addr < 0x1000000000) (hal : p.addr % 4 = 0) (hacc : Accepted s (leafIni (thrKey w / 64)) false p.addr 4)
    (hgood : LineGood s p.addr) : ∃ t, exec (.loadReturn w) s = .next t ∧
      LoadArrived (thrKey w) (BitVec.ofNat 5 p.rd) (BitVec.ofNat 32 (leNat (memRead s p.addr 4))) s t := by
  obtain ⟨u, hdram, hu⟩ := dramRead_ok (leafIni (thrKey w / 64)) (whoOf s (leafIni (thrKey w / 64))) [] (n := 4) (by decide) (by omega) hgood
  have hnone : spLeaf p.addr = none := by rw [spLeaf, if_neg (by omega)]
  have hloadu : (getTh u (thrKey w)).load = some p := by rw [getTh_congr hu.lv, hload]
  refine ⟨_, ?_, (loadArrived ..).of_path hu⟩
  rw [← loadAnswer_ok hloadu htex]
  show execLoadReturn w s = _
  simp only [execLoadReturn, hload, hpcie, ne_eq, not_true_eq_false, if_false, hnone, reduceCtorEq, false_and, access_dram hacc ha, hdram]

end

/-- LWX sends its load: the thread waits, whether or not the load leaves the part. -/
theorem runs_lwx {w : Thr} {rd rs1 : BitVec 5} {imm : BitVec 12} {s : State} {lo hi : Word} (hissue : CanIssue w s)
    (heven : rs1.toNat % 2 = 0) (hlo : Reads w s rs1 lo) (hhi : Reads w s (rs1 + 1) hi) (ha : physOff lo hi imm % 4 = 0)
    (hin : isOutside (physOff lo hi imm) = false) : Runs (.lwx w rd rs1 imm) s fun t =>
      getTh t (thrKey w) = { getTh s (thrKey w) with
        pc := ((getTh s (thrKey w)).pc + 4) % 2 ^ 32, load := some { rd := rd.toNat, addr := physOff lo hi imm } } ∧
      ready t (thrKey w) = false ∧ MemSame s t ∧ ∀ j, j ≠ thrKey w → getTh t j = getTh s j := by
  set u := modTh s (thrKey w) fun t => { t with load := some { rd := rd.toNat, addr := physOff lo hi imm } } with hu
  have hstep : issueNext w (fun k s => (physAddr s k rs1 imm).map fun a => modTh s k fun t => { t with load := some { rd := rd.toNat, addr := a } }) s =
      issued (thrKey w) (adv (thrKey w) u) := issueNext_ok hissue (by rw [physAddr_ok heven hlo hhi ha]; rfl)
  have hth : getTh (issued (thrKey w) (adv (thrKey w) u)) (thrKey w) = { getTh s (thrKey w) with
      pc := ((getTh s (thrKey w)).pc + 4) % 2 ^ 32, load := some { rd := rd.toNat, addr := physOff lo hi imm } } := by
    rw [getTh_issued, adv, getTh_modTh_same, hu, getTh_modTh_same]
  refine ⟨issued (thrKey w) (adv (thrKey w) u), ?_, hth, ready_false_of_load (by rw [hth]), fun x => by simp [adv, hu], fun j hj => ?_⟩
  · show execLwx w rd rs1 imm s = _
    simp only [execLwx, hstep, load_none_of_ready hissue.1, hth, hin, Bool.false_eq_true, if_false]
  · rw [getTh_issued, adv, getTh_modTh_ne _ _ hj, hu, getTh_modTh_ne _ _ hj]

theorem signWrite_none {s : State} {k a : Nat} (h : ∀ e j, runningJob s (k / 64) = some (e, j) → outBuffer s j a = none) (bs : List Byte) :
    signWrite k a bs s = (s, false) := by
  unfold signWrite
  split
  · rfl
  · next e j hrun => rw [h e j hrun]

/-- SWX of a word to DRAM. -/
theorem runs_swx {w : Thr} {rd rs1 : BitVec 5} {imm : BitVec 12} {s : State} {lo hi v : Word} (hissue : CanIssue w s)
    (heven : rs1.toNat % 2 = 0) (hlo : Reads w s rs1 lo) (hhi : Reads w s (rs1 + 1) hi) (hv : Reads w s rd v)
    (hal : physOff lo hi imm % 4 = 0) (ha : physOff lo hi imm < 0x1000000000)
    (hout : ∀ e j, runningJob s (thrKey w / 64) = some (e, j) → outBuffer s j (physOff lo hi imm) = none)
    (hacc : Accepted s (leafIni (thrKey w / 64)) true (physOff lo hi imm) 4) (hgood : LineGood s (physOff lo hi imm)) :
    Runs (.swx w rd rs1 imm) s fun t =>
      memRead t (physOff lo hi imm) 4 = leBytes 4 v.toNat ∧ MemOutside (physOff lo hi imm) 4 s t ∧
      (∀ j, getTh t j = { getTh s j with pc := if j = thrKey w then ((getTh s j).pc + 4) % 2 ^ 32 else (getTh s j).pc }) ∧
      t.queue = s.queue ∧ t.party = s.party := by
  have hlen : (leBytes 4 v.toNat).length = 4 := leBytes_length ..
  obtain ⟨u, hdram, hu⟩ := dramWrite_ok (leafIni (thrKey w / 64)) (whoOf s (leafIni (thrKey w / 64))) (leBytes 4 v.toNat)
    (by rw [hlen]; decide) (by rw [hlen]; omega) hgood
  rw [hlen] at hdram
  set x := fireWatches (physOff lo hi imm) 4 (memWrite u (physOff lo hi imm) (leBytes 4 v.toNat)) with hx
  have hxe : x = { memWrite u (physOff lo hi imm) (leBytes 4 v.toNat) with jobs := x.jobs } := fireWatches_eq ..
  have hcells : (issued (thrKey w) (adv (thrKey w) x)).mem.cells = twrite s.mem.cells (physOff lo hi imm) (leBytes 4 v.toNat) := by
    rw [issued_mem, ← hu.cells, show (adv (thrKey w) x).mem = x.mem from rfl, hxe]
    rfl
  refine ⟨issued (thrKey w) (adv (thrKey w) x), ?_, ?_, fun a hxa => ?_, fun j => ?_, ?_, ?_⟩
  · show execSwx w rd rs1 imm s = _
    simp only [execSwx, hissue.1, hissue.2, Bool.not_true, Bool.false_eq_true, if_false, Except.bind, physAddr_ok heven hlo hhi hal, hv,
      Except.map, signWrite_none hout, access_dram hacc ha, hdram, if_true]
  · have := tread_twrite (leBytes 4 v.toNat) s.mem.cells (physOff lo hi imm)
    rw [hlen] at this
    rw [memRead, hcells, this]
  · rw [hcells, tget_twrite_out _ _ (by rw [hlen]; exact hxa)]
  · have hthx : getTh x j = getTh s j := by rw [← getTh_congr hu.lv, hxe]; rfl
    rw [getTh_issued, adv, getTh_modTh]
    split
    · next h => subst h; rw [hthx]
    · rw [hthx]
  · rw [issued_queue, ← hu.queue, show (adv (thrKey w) x).queue = x.queue from rfl, hxe]
    rfl
  · rw [issued_eq, ← hu.party, show (adv (thrKey w) x).party = x.party from rfl, hxe]
    rfl

theorem longLoadsAndStores : LongLoadsAndStores := by
  refine ⟨?lwx, ?own, ?dram, ?swx⟩
  case lwx =>
    intro w rd rs1 imm s lo hi hissue heven hlo hhi ha hin
    exact runs_lwx hissue heven hlo hhi ha hin
  case own =>
    intro w s p bs hload hpcie htex _ hown hkind hr
    obtain ⟨t, ht, h⟩ := exec_loadReturn_own hload hpcie htex hown hkind hr
    exact ⟨t, ht, h.reg, h.free, h.pc, fun x => by rw [h.mem], h.others⟩
  case dram =>
    intro w s p hload hpcie htex _ ha hal hacc hgood
    obtain ⟨t, ht, h⟩ := exec_loadReturn_dram hload hpcie htex ha hal hacc hgood
    exact ⟨t, ht, h.reg, h.free, h.pc, fun x => by rw [h.mem], h.others⟩
  case swx =>
    intro w rd rs1 imm s lo hi v hissue heven hlo hhi hv hal ha hout hacc hgood
    exact runs_swx hissue heven hlo hhi hv hal ha hout hacc hgood

/-- Settles O9: narrow accesses move bytes of the own scratchpad; long ones send a load, take its word, or store one in DRAM. -/
theorem scalarLoadsAndStores : Obligations.ScalarLoadsAndStores := ⟨⟨narrowLoads, narrowStores⟩, longLoadsAndStores⟩

end Sys2Proof.Machine

/-! Program faults (R69): the refutation, by the crowded ring of O27. A fault of a thread writes event 0x1007 and then ends its job; with
the ring frozen, the end of the job can push 1,024 completions that a segment which is off drops, and the last of those events takes the
fault's slot. -/

namespace Sys2Proof.Machine
open Sys2Proof.Claims

/-! ### An event that the end of a job crowds out -/

/-- Estate 0 runs the bare job, nothing waits for a boundary, nobody has a mailbox of its own, and the first record of a frozen ring is the
next: its completion queue drops entries and holds 1,023 of them. -/
structure Crowded (s : State) : Prop where
  waits : NothingWaits s
  mail : NoMail s
  job : jobOf s 0 = some bareJob
  queue : DroppingQ 0 s
  room : (getQ s 0).tail = 0
  held : (getQ s 0).held.length = 1023
  closed : s.firm.act ≠ .open_
  marker : s.caddy.marker = 0
  tail : s.caddy.tail = 0

section
variable {s u : State} (h : Crowded s) (src code p reason : Nat) (args : List Byte)
include h

/-- The end of the job after an event writes 1,024 drops, and leaves nothing to wait. -/
theorem Crowded.abortJob_event :
    ∃ t, NothingWaits t ∧ JobsOnly (event src code p args s) t ∧ Dropped 1024 t (abortJob 0 reason (event src code p args s)) := by
  obtain ⟨bs, t, habort, hjobs, hwaits⟩ :=
    abortJob_of_bare (s := event src code p args s) (e := 0) (j := bareJob)
      { h.waits with level := by rw [event]; dsimp only; split <;> exact h.waits.level } h.job rfl rfl rfl reason
  have hqueue : getQ t 0 = getQ s 0 := by rw [hjobs]; rfl
  have hlen : (getQ t 0).held.length = 1023 := by rw [hqueue]; exact h.held
  have hdrop : DroppingQ 0 t := by rw [hjobs]; exact { h.queue with frozen := h.queue.frozen }
  refine ⟨t, hwaits, hjobs, ?_⟩
  have hfirm : t.firm = s.firm := by rw [hjobs]; rfl
  have hcomplete := dropped_complete hdrop (by rw [hfirm]; exact h.closed) bs (by rw [hlen, hqueue, h.room]; decide)
  rw [habort]
  rwa [hlen] at hcomplete

/-- No state from which the boundary's work leads to the end of the job has the event still in its slot: a drop stands there, and that
work writes none. -/
theorem Crowded.event_lost (hu : settle u = settle (abortJob 0 reason (event src code p args s))) :
    (tget u.caddy.ring s.caddy.slot).code = 0x1006 := by
  obtain ⟨t, hwaits, hjobs, hdropped⟩ := h.abortJob_event src code p reason args
  generalize abortJob 0 reason (event src code p args s) = v at hu hdropped
  rw [settle_of_nothingWaits (hdropped.nothingWaits hwaits)] at hu
  have hmail : NoMail v := by
    intro q
    rw [hdropped.frame, hjobs]
    exact h.mail q
  have hfrozen := h.queue.frozen
  have hslot : v.caddy.lastSlot = s.caddy.slot := by
    have hmarker : t.caddy.marker = 0 := by rw [hjobs]; exact h.marker
    have htail : t.caddy.tail = 1 := by rw [hjobs]; simp [event, Caddy.put, hfrozen, h.tail]
    rw [Caddy.lastSlot, hdropped.marker, hdropped.tail, hmarker, htail, Caddy.slot, hfrozen, h.marker, h.tail]
    rfl
  have hlast : (tget v.caddy.ring s.caddy.slot).IsDrop := hslot ▸ hdropped.last (.inl (by decide))
  have hsettle : NoDrop u v := hu ▸ noDrop_settle u
  rw [← hsettle.ring (hsettle.mail.noMail_iff.1 hmail) _ hlast]
  exact hlast.1

end

/-! ### The counterexample -/

/-- `crowded`, with estate 0 on leaf 2, whose thread 0 runs and stands at an all-zero word (ADD s0, s0, s0) of its scratchpad. -/
def crowdedLeaf : State :=
  { crowded with
    jobs := { est := [(0, { live := true, leaves := [2], job := some bareJob })] }
    lv := { leaf := [(2, { kind := .enabled, segs := [(0, .on)] })], threads := [(128, { mode := .running })] }
    pw := { crowded.pw with supplied := true } }

theorem crowded_crowdedLeaf : Crowded crowdedLeaf where
  waits := { nothingWaits_crowded with
    change := fun e => by
      simp only [getEst, crowdedLeaf, tget]
      split <;> rfl }
  mail _ := ⟨rfl, rfl⟩
  job := rfl
  queue := ⟨rfl, rfl, rfl, rfl, rfl, rfl, rfl, by decide, rfl, rfl⟩
  room := rfl
  held := List.length_replicate
  closed := by decide
  marker := rfl
  tail := rfl

/-- Thread 0 of leaf 2. -/
def crowdedThread : Thr := ⟨2, 0⟩

theorem canIssue_crowdedLeaf : CanIssue crowdedThread crowdedLeaf := ⟨by decide +kernel, by decide +kernel⟩

/-- VADD on a register that the thread does not own: its fault, the end of the job, and the boundary's work (R69 kind 1). -/
theorem exec_vadd_unowned {w : Thr} {va vb vd : BitVec 5} {rm : BitVec 2} {s : State} (hi : CanIssue w s)
    (hv : (getTh s (thrKey w)).nv ≤ va.toNat) : exec (.vadd w vd va vb rm) s = .next (progFault (thrKey w) 1 s) := by
  have hfault : vecRR (fadd (rmOf rm)) vd va vb (thrKey w) s = .error (.fault 1) := by
    simp [vecRR, vowned, hv]
  show Host.Outcome.next (issueNext w _ s) = _
  rw [issueNext, issue_stop hi (e := .fault 1) (by rw [hfault]; rfl)]
  rfl

/-- Refutes O10: the clauses also promise that the fault's event still stands in the ring when the job has ended. In the state
`crowdedLeaf` the end of the job writes 1,024 events after it. -/
theorem not_programFaults : ¬ Obligations.ProgramFaults := by
  unfold Obligations.ProgramFaults
  rintro ⟨-, -, hvadd, -⟩
  have hest : estOf crowdedLeaf (thrKey crowdedThread / 64) = some 0 := rfl
  obtain ⟨u, hexec, hlogs, -⟩ := hvadd crowdedThread 0 0 0 0 crowdedLeaf 0 canIssue_crowdedLeaf (Nat.le_refl 0) hest
  have hunowned : (getTh crowdedLeaf (thrKey crowdedThread)).nv ≤ (0 : BitVec 5).toNat := Nat.le_refl 0
  rw [exec_vadd_unowned canIssue_crowdedLeaf hunowned, progFault, programFault] at hexec
  simp only [hest] at hexec
  have hlost := crowded_crowdedLeaf.event_lost _ _ _ _ _ (Host.Outcome.next.inj hexec).symm
  rw [hlogs.1] at hlost
  exact absurd hlost (by decide)

end Sys2Proof.Machine

/-! Vector and special-function instructions (R128, R129, R131, R154 classes 0x4 and 0x6): an instruction whose registers the thread owns
writes one vector register, lane by lane. -/

namespace Sys2Proof.Machine
open Sys2Proof.Claims

/-- The registers of an instruction are the thread's own. -/
theorem vowned_ok {s : State} {k : Nat} {rs : List (BitVec 5)} (h : ∀ r ∈ rs, r.toNat < (getTh s k).nv) (f : Chk State) :
    vowned s k rs f = f := by
  rw [vowned, if_neg]
  simpa using h

/-- What an instruction does whose lanes `ws` go to vector register `vd`. -/
def VecResult (w : Thr) (vd : BitVec 5) (ws : List Word) (s t : State) : Prop :=
  WritesVec (thrKey w) vd.toNat ws s t ∧ VecFrame (thrKey w) s t

section
variable {c : Instr} {w : Thr} {vd va vb rs1 : BitVec 5} {s : State} {a b d ws : List Word}

theorem runs_vwrite {g : Nat → State → Chk State} (he : exec c s = .next (issueNext w g s)) (hi : CanIssue w s) (ho : OwnsVec w s vd)
    (hlen : ws.length = 128) (hg : g (thrKey w) s = vwrite (thrKey w) vd.toNat ws s) : Runs c s (VecResult w vd ws s) :=
  ⟨_, he, vecResult hi ho hlen hg⟩

theorem vecRR_ok {f : Word → Word → Word} {k : Nat} (ho : vd.toNat < (getTh s k).nv) (ha : vread s k va.toNat = .ok a)
    (hb : vread s k vb.toNat = .ok b) : vecRR f vd va vb k s = vwrite k vd.toNat (List.zipWith f a b) s := by
  rw [vecRR, vowned_ok (by simpa using ⟨ho, vread_own ha, vread_own hb⟩), ha, hb]

theorem runs_vecRR {f : Word → Word → Word} (he : exec c s = .next (issueNext w (vecRR f vd va vb) s)) (hi : CanIssue w s)
    (ho : OwnsVec w s vd) (ha : VReads w s va a) (hb : VReads w s vb b) : Runs c s (VecResult w vd (List.zipWith f a b) s) :=
  runs_vwrite he hi ho (by simp [vread_length ha, vread_length hb]) (vecRR_ok ho ha hb)

theorem runs_vecInt {f : Word → Word → Word} (he : exec c s = .next (issueNext w (vecInt f vd va vb 0) s)) (hi : CanIssue w s)
    (ho : OwnsVec w s vd) (ha : VReads w s va a) (hb : VReads w s vb b) : Runs c s (VecResult w vd (List.zipWith f a b) s) :=
  runs_vecRR he hi ho ha hb

theorem runs_vecR {f : Word → Word} (he : exec c s = .next (issueNext w (vecR f vd va) s)) (hi : CanIssue w s) (ho : OwnsVec w s vd)
    (ha : VReads w s va a) : Runs c s (VecResult w vd (a.map f) s) :=
  runs_vwrite he hi ho (by simp [vread_length ha]) (by rw [vecR, vowned_ok (by simpa using ⟨ho, vread_own ha⟩), ha])

theorem runs_vecFn {f : Nat → Word → Word} (he : exec c s = .next (issueNext w (vecFn f vd va) s)) (hi : CanIssue w s)
    (ho : OwnsVec w s vd) (ha : VReads w s va a) : Runs c s (VecResult w vd (a.map (f (getLeaf s (thrKey w / 64)).ucode)) s) :=
  runs_vwrite he hi ho (by simp [vread_length ha]) (by rw [vecFn, vecR, vowned_ok (by simpa using ⟨ho, vread_own ha⟩), ha])

theorem runs_vecReduce {f : List Word → Word} (he : exec c s = .next (issueNext w (vecReduce f vd va) s)) (hi : CanIssue w s)
    (hd : VReads w s vd d) (ha : VReads w s va a) : Runs c s (VecResult w vd (f a :: d.drop 1) s) :=
  runs_vwrite he hi (vread_own hd) (by simp [vread_length hd])
    (by rw [vecReduce, vowned_ok (by simpa using ⟨vread_own hd, vread_own ha⟩), ha, hd])

end

/-- The clamp of the saturating forms is sat32 (R114, R129). -/
theorem addSat_eq (a b : Word) : addSat a b = clamp32 (a.toInt + b.toInt) := ofInt_sat32 _
theorem subSat_eq (a b : Word) : subSat a b = clamp32 (a.toInt - b.toInt) := ofInt_sat32 _

/-- The lanes of a fused multiply-add, one by one. -/
theorem zipWith_zip_eq_map (f : Word → Word → Word → Word) {a b d : List Word} (ha : a.length = 128) (hb : b.length = 128)
    (hd : d.length = 128) : List.zipWith (fun (p : Word × Word) c => f p.1 p.2 c) (a.zip b) d =
      (List.range 128).map fun i => f (a.getD i 0) (b.getD i 0) (d.getD i 0) := by
  refine List.ext_getElem (by simp [ha, hb, hd]) fun i h1 h2 => ?_
  have hi : i < 128 := by simpa using h2
  simp [ha, hb, hd, hi]

/-- Settles O11: each form is one function of its lanes. -/
theorem vectorElementwise : Obligations.VectorElementwise := by
  refine ⟨?float, ?fma, ?int⟩
  case float =>
    unfold vecFloatForms
    simp only [List.forall_mem_cons, List.not_mem_nil, false_implies, implies_true, and_true]
    refine ⟨?vadd, ?vsub, ?vmul, ?vmin, ?vmax⟩ <;> intro w vd va vb rm s a b hi ho ha hb <;> exact runs_vecRR rfl hi ho ha hb
  case fma =>
    intro w vd va vb rm s a b d hi hd ha hb
    rw [← zipWith_zip_eq_map (ffma (Rm.ofCode rm.toNat)) (vread_length ha) (vread_length hb) (vread_length hd)]
    exact runs_vwrite rfl hi (vread_own hd) (by simp [vread_length ha, vread_length hb, vread_length hd])
      (by rw [vowned_ok (by simpa using ⟨vread_own hd, vread_own ha, vread_own hb⟩), ha, hb, hd]; rfl)
  case int =>
    unfold vecIntForms
    simp only [List.forall_mem_cons, List.not_mem_nil, false_implies, implies_true, and_true, ← addSat_eq, ← subSat_eq]
    refine ⟨?viadd, ?visub, ?vimul, ?viadds, ?visubs, ?vsll, ?vsrl, ?vsra⟩ <;> intro w vd va vb s a b hi ho ha hb <;>
      exact runs_vecInt rfl hi ho ha hb

/-- Settles O12: a special function acts on every lane, a reduction on lane 0, and the moves copy. -/
theorem vectorMovesAndReductions : Obligations.VectorMovesAndReductions := by
  refine ⟨?sfu, ?sum, ?max, ?bc, ?movs⟩
  case sfu =>
    unfold sfuForms
    simp only [List.forall_mem_cons, List.not_mem_nil, false_implies, implies_true, and_true]
    refine ⟨?exp2, ?log2, ?rcp, ?rsq, ?sqrt, ?sin, ?cos, ?tanh, ?sig⟩ <;> intro w vd va s a hi ho ha
    case sqrt => exact runs_vecR rfl hi ho ha
    case sin => exact runs_vecFn (f := fun u => strigOf u 5) rfl hi ho ha
    case cos => exact runs_vecFn (f := fun u => strigOf u 6) rfl hi ho ha
    all_goals exact runs_vecFn rfl hi ho ha
  case sum =>
    intro w vd va rm s a d hi hd ha
    exact runs_vecReduce rfl hi hd ha
  case max =>
    intro w vd va rm s a d hi hd ha
    exact runs_vecReduce rfl hi hd ha
  case bc =>
    intro w vd rs1 s a hi ho ha
    exact runs_vwrite rfl hi ho List.length_replicate (by rw [vowned_ok (by simpa using ho), ha]; rfl)
  case movs =>
    intro w rd va s a hi ha
    exact runs_regResult rfl hi (by rw [ha]; rfl)

end Sys2Proof.Machine

/-! Special values of the special functions, and the NaN results of the vector unit (R128, R131, R189, Table 4.5). -/

namespace Sys2Proof.Machine
open Sys2Proof.Claims

/-! ### Words as values -/

/-- A word of biased exponent 1 to 254 reads as its significand scaled. -/
theorem f32_normal {v : Word} {x : Nat} (hx : v.toNat / 2 ^ 23 % 256 = x) (h0 : x ≠ 0) (h255 : x ≠ 255) :
    f32 v = .fin (v.toNat / 2 ^ 31 % 2 == 1) (v.toNat % 2 ^ 23 + 2 ^ 23) (x - 150) := by
  have hmag : v.toNat % 2 ^ 31 / 2 ^ 23 = x := by omega
  have hfin : v.toNat % 2 ^ 31 ≤ 0x7F7FFFFF := by omega
  have hmod : v.toNat % 2 ^ 31 % 2 ^ 23 = v.toNat % 2 ^ 23 := by omega
  have hexp : (1 : Int) - 127 - 23 + x - 1 = x - 150 := by omega
  simp only [f32, Fmt.decode, fp32, Fmt.qmin, bitOf, hfin, if_true, hmag, h0, if_false, hmod, Nat.cast_ofNat, hexp, Nat.reduceAdd]

/-- Every word of the largest magnitude but NaN is an infinity. -/
theorem f32_inf {v : Word} (h : v.toNat % 2 ^ 31 = 0x7F800000) : f32 v = .inf (v.toNat / 2 ^ 31 % 2 == 1) := by
  simp only [f32, Fmt.decode, fp32, bitOf, Nat.reduceAdd, h]
  rfl

theorem log2_significand {m : Nat} (h : m < 2 ^ 23) : Nat.log2 (m + 2 ^ 23) = 23 :=
  (Nat.log2_eq_iff (by omega)).2 ⟨by omega, by omega⟩

/-- A value above the whole number `n`: by its exponent, or by its significand where the exponent is negative. -/
def Above (n m : Nat) (e : Int) : Prop := (0 ≤ e → n < m) ∧ (e < 0 → n * 2 ^ (-e).toNat < m)

theorem Above.whole_lt {n m : Nat} {e : Int} (h : Above n m e) :
    (n : Int) * 2 ^ (0 - min 0 e).toNat < (m : Int) * 2 ^ (e - min 0 e).toNat := by
  obtain ⟨hpos, hneg⟩ := h
  rcases le_or_gt 0 e with he | he
  · rw [min_eq_left he]
    have hpow : (1 : Int) ≤ 2 ^ (e - 0).toNat := one_le_pow₀ (by decide)
    have hlt : (n : Int) < m := by exact_mod_cast hpos he
    have hm : (m : Int) * 1 ≤ m * 2 ^ (e - 0).toNat := Int.mul_le_mul_of_nonneg_left hpow (by omega)
    simp only [sub_self, Int.toNat_zero, pow_zero, mul_one] at hm ⊢
    omega
  · rw [min_eq_right he.le]
    have hlt : ((n * 2 ^ (-e).toNat : Nat) : Int) < m := by exact_mod_cast hneg he
    simpa using hlt

theorem lt_of_above {n m : Nat} {e : Int} (h : Above n m e) :
    FVal.lt (.fin false n 0) (.fin false m e) = true ∧ FVal.lt (.fin true m e) (.fin true n 0) = true := by
  have hlt := h.whole_lt
  constructor
  · have hneg : (n : Int) * 2 ^ (0 - min 0 e).toNat + -(m : Int) * 2 ^ (e - min 0 e).toNat < 0 := by
      rw [Int.neg_mul]; omega
    simp only [FVal.lt, Dy.add, dyOf, Bool.not_false, if_true, Bool.false_eq_true, if_false, hneg, decide_true, hneg.ne]
  · have hneg : -(m : Int) * 2 ^ (e - min e 0).toNat + (n : Int) * 2 ^ (0 - min e 0).toNat < 0 := by
      rw [min_comm, Int.neg_mul]; omega
    simp only [FVal.lt, Dy.add, dyOf, Bool.not_true, if_true, Bool.false_eq_true, if_false, hneg, decide_true, hneg.ne]

/-- The biased exponent and the significand of a word, as parts of its magnitude. -/
theorem above_of_exponent {n t x m : Nat} (hm : 2 ^ 23 ≤ m) (ht : t ≤ x) (hlow : n * 2 ^ (150 - (t + 1)) < 2 ^ 23)
    (heq : x = t → n * 2 ^ (150 - t) < m) : Above n m ((x : Int) - 150) := by
  have hn : n < 2 ^ 23 := Nat.lt_of_le_of_lt (Nat.le_mul_of_pos_right n (by positivity)) hlow
  refine ⟨fun _ => by omega, fun he => ?_⟩
  have hk : (-((x : Int) - 150)).toNat = 150 - x := by omega
  rw [hk]
  by_cases hx : x = t
  · subst hx; exact heq rfl
  · have hpow : 2 ^ (150 - x) ≤ 2 ^ (150 - (t + 1)) := Nat.pow_le_pow_right (by decide) (by omega)
    have := Nat.mul_le_mul_left n hpow
    omega

/-! ### The special functions -/

section
variable {v : Word} (u : Nat)

theorem strigOf_large (f : Nat) (h : 0x47800000 < v.toNat % 2 ^ 31) (hle : v.toNat % 2 ^ 31 ≤ 0x7F800000) :
    strigOf u f v = 0x7FC00000#32 := by
  by_cases hinf : v.toNat % 2 ^ 31 = 0x7F800000
  · simp only [strigOf, f32_inf hinf]
  · have hv := f32_normal (v := v) rfl (by omega) (by omega)
    have habove : Above 65536 (v.toNat % 2 ^ 23 + 2 ^ 23) (((v.toNat / 2 ^ 23 % 256 : Nat) : Int) - 150) :=
      above_of_exponent (t := 143) (by omega) (by omega) (by decide) (by omega)
    simp only [strigOf, hv, (lt_of_above habove).1, if_true]

theorem sexp2Of_large (h : 0x43000000 ≤ v.toNat) (hle : v.toNat ≤ 0x7F800000) : sexp2Of u v = 0x7F800000#32 := by
  have hpos : (v.toNat / 2 ^ 31 % 2 == 1) = false := beq_eq_false_iff_ne.2 (by omega)
  by_cases hinf : v.toNat = 0x7F800000
  · simp only [sexp2Of, f32_inf (v := v) (by omega), hpos]
    rfl
  · have hv := f32_normal (v := v) rfl (by omega) (by omega)
    have hlog : 7 ≤ flog (v.toNat % 2 ^ 23 + 2 ^ 23) (((v.toNat / 2 ^ 23 % 256 : Nat) : Int) - 150) := by
      rw [flog, log2_significand (Nat.mod_lt _ (by decide))]
      omega
    simp only [sexp2Of, hv, hpos, Bool.not_false, hlog, decide_true, Bool.and_true, if_true, Nat.add_eq_zero_iff, Nat.pow_eq_zero,
      OfNat.ofNat_ne_zero, false_and, and_false, if_false]

theorem sexp2Of_small (h : 0xC2FC0000 < v.toNat) (hle : v.toNat ≤ 0xFF800000) : sexp2Of u v = 0#32 := by
  have hneg : (v.toNat / 2 ^ 31 % 2 == 1) = true := beq_iff_eq.2 (by omega)
  by_cases hinf : v.toNat = 0xFF800000
  · simp only [sexp2Of, f32_inf (v := v) (by omega), hneg]
    rfl
  · have hv := f32_normal (v := v) rfl (by omega) (by omega)
    have habove : Above 126 (v.toNat % 2 ^ 23 + 2 ^ 23) (((v.toNat / 2 ^ 23 % 256 : Nat) : Int) - 150) :=
      above_of_exponent (t := 133) (by omega) (by omega) (by decide) (by omega)
    simp only [sexp2Of, hv, hneg, Bool.not_true, Bool.false_and, Bool.false_eq_true, (lt_of_above habove).2, Bool.and_true,
      if_true, Nat.add_eq_zero_iff, Nat.pow_eq_zero, OfNat.ofNat_ne_zero, false_and, and_false, if_false]

/-- A word below zero that is neither −0 nor NaN reads as −Inf or as a negative number that is not zero. -/
theorem f32_below_zero (h : v.toInt < 0) (hz : v ≠ 0x80000000#32) (hnan : (f32 v).isNan = false) :
    f32 v = .inf true ∨ ∃ m e, f32 v = .fin true m e ∧ m ≠ 0 := by
  have hlt := v.isLt
  have hsign : 2 ^ 31 ≤ v.toNat := by
    rw [BitVec.toInt_eq_toNat_cond] at h
    split at h <;> omega
  have hbit : (v.toNat / 2 ^ 31 % 2 == 1) = true := beq_iff_eq.2 (by omega)
  have hmag : v.toNat % 2 ^ 31 ≠ 0 := fun h0 => hz (BitVec.eq_of_toNat_eq (by show v.toNat = 2 ^ 31; omega))
  have hdec : f32 v = fp32.decode v.toNat := rfl
  simp only [Fmt.decode, fp32, bitOf, Nat.reduceAdd, hbit] at hdec
  split at hdec
  · split at hdec
    · exact .inr ⟨_, _, hdec, hmag⟩
    · exact .inr ⟨_, _, hdec, by omega⟩
  · split at hdec
    · exact .inl hdec
    · rw [hdec] at hnan; cases hnan

theorem below_zero_nan (h : v.toInt < 0) (hz : v ≠ 0x80000000#32) (hnan : (f32 v).isNan = false) :
    slog2Of u v = 0x7FC00000#32 ∧ srsqOf u v = 0x7FC00000#32 ∧ ssqrtOf v = 0x7FC00000#32 := by
  rcases f32_below_zero h hz hnan with hv | ⟨m, e, hv, hm⟩
  · simp only [slog2Of, srsqOf, ssqrtOf, hv, if_true, and_self]
  · simp only [slog2Of, srsqOf, ssqrtOf, hv, hm, if_true, if_false, and_self]

end

theorem sfuForms_nan : ∀ x ∈ sfuForms, ∀ (u : Nat) (v : Word), f32 v = .nan → x.2 u v = 0x7FC00000#32 := by
  unfold sfuForms
  simp only [List.forall_mem_cons, List.not_mem_nil, false_implies, implies_true, and_true]
  refine ⟨?exp2, ?log2, ?rcp, ?rsq, ?sqrt, ?sin, ?cos, ?tanh, ?sig⟩ <;> intro u v h
  case exp2 => rw [sexp2Of, h]
  case log2 => rw [slog2Of, h]
  case rcp => rw [srcpOf, h]
  case rsq => rw [srsqOf, h]
  case sqrt => rw [ssqrtOf, h]
  case sin => rw [strigOf, h]
  case cos => rw [strigOf, h]
  case tanh => rw [stanhOf, h]
  case sig => rw [ssigOf, h]

theorem specialFunctionValues : SpecialFunctionValues :=
  ⟨sfuForms_nan, fun _ => ⟨rfl, rfl, rfl, rfl⟩, fun _ => ⟨rfl, rfl, rfl⟩, fun _ => ⟨rfl, rfl, rfl⟩, fun u _ h hz hnan => below_zero_nan u h hz hnan,
    rfl, fun u _ h hle => sexp2Of_large u h hle, fun u _ h hle => sexp2Of_small u h hle, fun _ => ⟨rfl, rfl⟩,
    fun u _ h hle => ⟨strigOf_large u 5 h hle, strigOf_large u 6 h hle⟩, fun _ => ⟨rfl, rfl, rfl, rfl⟩⟩

/-! ### NaN results of arithmetic -/

@[simp] theorem toF32_nan (rm : Rm) : toF32 rm .nan = 0x7FC00000#32 := rfl

section
variable {rm : Rm} {a b c : Word}

theorem arith_of_nan_left (h : f32 a = .nan) : fadd rm a b = 0x7FC00000#32 ∧ fsub rm a b = 0x7FC00000#32 ∧
    fmul rm a b = 0x7FC00000#32 ∧ ffma rm a b c = 0x7FC00000#32 ∧ ffma rm a c b = 0x7FC00000#32 ∧ ffma rm c a b = 0x7FC00000#32 := by
  simp only [fadd, fsub, fmul, ffma, h, FVal.add_nan_left, FVal.mul_nan_left, FVal.mul_nan_right, toF32_nan, and_self]

theorem arith_of_nan_right (h : f32 b = .nan) : fadd rm a b = 0x7FC00000#32 ∧ fsub rm a b = 0x7FC00000#32 ∧
    fmul rm a b = 0x7FC00000#32 ∧ ffma rm a b c = 0x7FC00000#32 ∧ ffma rm a c b = 0x7FC00000#32 ∧ ffma rm c a b = 0x7FC00000#32 := by
  simp only [fadd, fsub, fmul, ffma, h, FVal.opp, FVal.add_nan_right, FVal.add_nan_left, FVal.mul_nan_right, toF32_nan, and_self]

theorem minmax_one_nan (ha : f32 a = .nan) (hb : f32 b ≠ .nan) : fmin a b = b ∧ fmin b a = b ∧ fmax a b = b ∧ fmax b a = b := by
  have hb' : (f32 b).isNan = false := Bool.eq_false_iff.2 (mt FVal.isNan_iff.1 hb)
  have hnan : FVal.nan.isNan = true := rfl
  simp only [fmin, fmax, ha, hb', hnan, if_true, Bool.false_eq_true, if_false, and_self]

theorem minmax_both_nan (ha : f32 a = .nan) (hb : f32 b = .nan) : fmin a b = 0x7FC00000#32 ∧ fmax a b = 0x7FC00000#32 := by
  simp only [fmin, fmax, ha, hb, FVal.isNan, if_true, and_self]

end

theorem vectorNaN : VectorNaN := by
  refine ⟨?one, fun a b => minmax_one_nan, fun a b => minmax_both_nan, ?invalid⟩
  case one =>
    rintro rm a b c (h | h)
    · exact arith_of_nan_left h
    · exact arith_of_nan_right h
  case invalid =>
    intro rm n
    have hinf : f32 0x7F800000#32 = .inf false := by decide
    have hzero : (f32 (if n then 0x80000000#32 else 0#32)).isZero = true := by cases n <;> decide
    refine ⟨?_, by rw [fmul, hinf, FVal.mul_inf_zero hzero, toF32_nan]⟩
    rw [fadd, hinf, show f32 0xFF800000#32 = .inf true by decide]
    rfl

/-- Settles O13: NaN, infinities, zeros and the thresholds of the special functions; the order of two numbers is their exact one. -/
theorem specialAndNaNValues : Obligations.SpecialAndNaNValues := ⟨specialFunctionValues, vectorNaN⟩

end Sys2Proof.Machine

/-! Vector loads and stores (R77, R126, R127, R130, R155 class 0x5): rows, columns of 64 lines, and rows of an owned tile. -/

namespace Sys2Proof.Machine
open Sys2Proof.Claims

/-! ### Rows -/

theorem fmtReserved_eq_false {fmt : Nat} (h : fmt < 14) : fmtReserved fmt = false := by
  simp [fmtReserved, h]

theorem lt_of_fmtMx {fmt : Nat} (h : fmtMx fmt = true) : fmt < 14 := by
  simp only [fmtMx, Bool.and_eq_true, decide_eq_true_eq] at h
  omega

@[simp] theorem laneCodes_length (fmt : Nat) (bs sc : List Byte) : (laneCodes fmt bs sc).length = 128 := by simp [laneCodes]

section
variable {s : State} {k fmt : Nat} {vr rs1 rs2 : BitVec 5} {a c : Word} {bs sc : List Byte}

theorem vldrOp_plain (hf : fmt < 14) (hmx : fmtMx fmt = false) (ho : vr.toNat < (getTh s k).nv) (ha : sreg s k rs1 = .ok a)
    (hal : a.toNat % rowAlign fmt = 0) (hr : spRead s (k / 64) a.toNat (rowBytes fmt) 0 = .ok bs) :
    vldrOp vr rs1 rs2 fmt k s = vwrite k vr.toNat (lanesOf fmt bs []) s := by
  simp only [vldrOp, fmtReserved_eq_false hf, vowned_ok (rs := [vr]) (by simpa using ho), ha, scaleAt, hmx, hal, hr, Except.bind,
    Bool.false_eq_true, if_false, ne_eq, not_true_eq_false]
  rfl

theorem vldrOp_mx (hmx : fmtMx fmt = true) (ho : vr.toNat < (getTh s k).nv) (ha : sreg s k rs1 = .ok a) (hc : sreg s k rs2 = .ok c)
    (hal : a.toNat % rowAlign fmt = 0) (hr : spRead s (k / 64) a.toNat (rowBytes fmt) 0 = .ok bs)
    (hsc : spRead s (k / 64) c.toNat 4 0 = .ok sc) : vldrOp vr rs1 rs2 fmt k s = vwrite k vr.toNat (lanesOf fmt bs sc) s := by
  simp only [vldrOp, fmtReserved_eq_false (lt_of_fmtMx hmx), vowned_ok (rs := [vr]) (by simpa using ho), ha, scaleAt, hmx, hc, hal, hr, hsc,
    Except.bind, Except.map, Bool.false_eq_true, if_false, if_true, ne_eq, not_true_eq_false]
  rfl

theorem storeCodes_plain (hmx : fmtMx fmt = false) (sat : Bool) (rm : Rm) (ws : List Word) :
    (storeCodes fmt sat rm ws).1 = packCodes fmt (ws.map fun x => (narrow fmt rm sat x).1) := by
  simp only [storeCodes, hmx, Bool.false_eq_true, if_false]

theorem vstrOp_plain {sat : Bool} {rm : Rm} {ws : List Word} (hf : fmt < 14) (hmx : fmtMx fmt = false) (hv : vread s k vr.toNat = .ok ws)
    (ha : sreg s k rs1 = .ok a) (hal : a.toNat % rowAlign fmt = 0)
    (ho : SpOpen s (k / 64) a.toNat (packCodes fmt (ws.map fun x => (narrow fmt rm sat x).1)).length) :
    vstrOp vr rs1 rs2 fmt sat rm k s =
      .ok (spPut (k / 64) a.toNat 0 (packCodes fmt (ws.map fun x => (narrow fmt rm sat x).1)) s) := by
  simp only [vstrOp, fmtReserved_eq_false hf, vowned_ok (rs := [vr]) (by simpa using vread_own hv), ha, scaleAt, hmx, hal, hv,
    storeCodes_plain hmx, spWrite_ok ho.1 ho.2, Except.bind, Bool.false_eq_true, if_false, ne_eq, not_true_eq_false]

theorem vstrOp_mx {sat : Bool} {rm : Rm} {ws : List Word} (hmx : fmtMx fmt = true) (hv : vread s k vr.toNat = .ok ws)
    (ha : sreg s k rs1 = .ok a) (hc : sreg s k rs2 = .ok c) (hal : a.toNat % rowAlign fmt = 0)
    (ho : SpOpen s (k / 64) a.toNat (storeCodes fmt sat rm ws).1.length)
    (hoc : SpOpen s (k / 64) c.toNat (storeCodes fmt sat rm ws).2.length) :
    vstrOp vr rs1 rs2 fmt sat rm k s = .ok (spPut (k / 64) c.toNat 0 (storeCodes fmt sat rm ws).2
      (spPut (k / 64) a.toNat 0 (storeCodes fmt sat rm ws).1 s)) := by
  have hoc' := (putOnly_spPut (k / 64) a.toNat 0 (storeCodes fmt sat rm ws).1 s).spOpen hoc
  simp only [vstrOp, fmtReserved_eq_false (lt_of_fmtMx hmx), vowned_ok (rs := [vr]) (by simpa using vread_own hv), ha, scaleAt, hmx, hc,
    hal, hv, spWrite_ok ho.1 ho.2, spWrite_ok hoc'.1 hoc'.2, Except.bind, Except.map, Bool.false_eq_true, if_false, if_true, ne_eq,
    not_true_eq_false]

end

/-! ### Columns (R77) -/

section
variable {s : State} {k fmt : Nat} {vr rs1 rs2 : BitVec 5} {a d : Word}

theorem column_ok (ha : sreg s k rs1 = .ok a) (hd : sreg s k rs2 = .ok d) (h : ColOk a d) :
    column s k rs1 rs2 = .ok (a.toNat / 256, a.toNat / 4 % 64, d.toNat) := by
  obtain ⟨hal, hj, hd1, hd2, hl⟩ := h
  simp only [column, ha, hd, Except.bind, hal, ne_eq, not_true_eq_false, if_false]
  rw [if_neg (by omega)]

/-- Reads that succeed, gathered one after the other. -/
theorem foldl_gather {rd : Nat → Chk (List Byte)} {f : List Byte → Word} {val : Nat → List Byte} (is : List Nat)
    (h : ∀ i ∈ is, rd i = .ok (val i)) (acc : List Word) :
    is.foldl (fun (r : Chk (List Word)) i => r.bind fun ws => (rd i).map fun bs => ws ++ [f bs]) (.ok acc) =
      .ok (acc ++ is.map fun i => f (val i)) := by
  induction is generalizing acc with
  | nil => simp
  | cons i is ih =>
    simp only [List.foldl_cons, Except.bind, h i (List.mem_cons_self ..), Except.map] at ih ⊢
    rw [ih fun j hj => h j (List.mem_cons_of_mem _ hj)]
    simp

theorem vldcOp_ok {lo hi : Nat → List Byte} (hf : fmt < 2) (ho : vr.toNat < (getTh s k).nv) (ha : sreg s k rs1 = .ok a)
    (hd : sreg s k rs2 = .ok d) (hcol : ColOk a d)
    (hr : ∀ i < 64, spRead s (k / 64) (colOff a d i 0) 4 0 = .ok (lo i) ∧ spRead s (k / 64) (colOff a d i 1) 4 0 = .ok (hi i)) :
    vldcOp vr rs1 rs2 fmt k s = vwrite k vr.toNat (((List.range 64).map fun i => BitVec.ofNat 32 (leNat (lo i))) ++
      (List.range 64).map fun i => BitVec.ofNat 32 (leNat (hi i))) s := by
  have hlo := foldl_gather (f := fun bs => BitVec.ofNat 32 (leNat bs)) (List.range 64) (fun i hi => (hr i (List.mem_range.1 hi)).1) []
  have hhi := foldl_gather (f := fun bs => BitVec.ofNat 32 (leNat bs)) (List.range 64) (fun i hi => (hr i (List.mem_range.1 hi)).2) []
  simp only [colOff, Nat.add_zero] at hlo hhi
  simp only [vldcOp, if_neg (show ¬ 1 < fmt by omega), vowned_ok (rs := [vr]) (by simpa using ho), column_ok ha hd hcol]
  simp only [Except.bind] at hlo hhi ⊢
  simp only [hlo, hhi, List.nil_append]

/-- Bytes put at the places of a list, one after the other. -/
@[irreducible] def putAll (l : Nat) (off : Nat → Nat) (bs : Nat → List Byte) (is : List Nat) (s : State) : State :=
  is.foldl (fun s i => spPut l (off i) 0 (bs i) s) s

section
variable {l : Nat} {off : Nat → Nat} {bs : Nat → List Byte} {s : State}

theorem putAll_nil : putAll l off bs [] s = s := by simp [putAll]
theorem putAll_cons (i : Nat) (is : List Nat) : putAll l off bs (i :: is) s = putAll l off bs is (spPut l (off i) 0 (bs i) s) := by
  simp [putAll]
theorem putAll_concat (i : Nat) (is : List Nat) : putAll l off bs (is ++ [i]) s = spPut l (off i) 0 (bs i) (putAll l off bs is s) := by
  simp [putAll]

theorem putOnly_putAll (is : List Nat) : PutOnly s (putAll l off bs is s) := by
  induction is generalizing s with
  | nil => rw [putAll_nil]; exact .refl s
  | cons i is ih => rw [putAll_cons]; exact (putOnly_spPut ..).trans ih

theorem foldl_spWrite (is : List Nat) (h : ∀ i ∈ is, SpOpen s l (off i) (bs i).length) :
    is.foldl (fun (r : Chk State) i => r.bind fun s => spWrite l (off i) 0 (bs i) s) (.ok s) = .ok (putAll l off bs is s) := by
  induction is generalizing s with
  | nil => rw [putAll_nil, List.foldl_nil]
  | cons i is ih =>
    have hi := h i (List.mem_cons_self ..)
    simp only [List.foldl_cons, Except.bind, spWrite_ok hi.1 hi.2, putAll_cons] at ih ⊢
    exact ih fun j hj => (putOnly_spPut ..).spOpen (h j (List.mem_cons_of_mem _ hj))

theorem putAll_outside {x : Nat} (is : List Nat) (h : ∀ i ∈ is, x < spBase l + off i ∨ spBase l + off i + (bs i).length ≤ x) :
    tget (putAll l off bs is s).mem.cells x = tget s.mem.cells x := by
  induction is generalizing s with
  | nil => rw [putAll_nil]
  | cons i is ih =>
    rw [putAll_cons, ih fun j hj => h j (List.mem_cons_of_mem _ hj), spPut_cells, tget_twrite_out _ _ (h i (List.mem_cons_self ..))]

/-- Places of `len` bytes, each at or beyond the end of the one before: every one of them holds what was put there. -/
theorem memRead_putAll {len : Nat} (n : Nat) (hlen : ∀ i < n, (bs i).length = len)
    (hoff : ∀ i j, i < j → off i + len ≤ off j) {i : Nat} (hi : i < n) :
    memRead (putAll l off bs (List.range n) s) (spBase l + off i) len = bs i := by
  induction n with
  | zero => exact absurd hi (Nat.not_lt_zero i)
  | succ n ih =>
    rw [List.range_succ, putAll_concat, memRead, spPut_cells]
    by_cases h : i = n
    · subst h
      have := tread_twrite (bs i) (putAll l off bs (List.range i) s).mem.cells (spBase l + off i)
      rwa [hlen i (by omega)] at this
    · have := hoff i n (by omega)
      rw [tread_twrite_out _ _ (by omega)]
      exact ih (fun j hj => hlen j (by omega)) (by omega)

end

theorem colOff_apart {i j : Nat} (hd : 1 ≤ d.toNat) (h : i < j) : colOff a d i 0 + 8 ≤ colOff a d j 0 := by
  have hmul : i * d.toNat + d.toNat ≤ j * d.toNat := by
    rw [← Nat.succ_mul]; exact Nat.mul_le_mul_right _ h
  simp only [colOff]
  omega

/-- The two words of a line of a column store. -/
def colWords (ws : List Word) (i : Nat) : List Byte := leBytes 4 (ws.getD i 0).toNat ++ leBytes 4 (ws.getD (64 + i) 0).toNat

theorem colWords_length (ws : List Word) (i : Nat) : (colWords ws i).length = 8 := by simp [colWords]

theorem vstcOp_ok {ws : List Word} (hf : fmt < 2) (hv : vread s k vr.toNat = .ok ws) (ha : sreg s k rs1 = .ok a)
    (hd : sreg s k rs2 = .ok d) (hcol : ColOk a d) (ho : ∀ i < 64, SpOpen s (k / 64) (colOff a d i 0) 8) :
    vstcOp vr rs1 rs2 fmt k s = .ok (putAll (k / 64) (fun i => colOff a d i 0) (colWords ws) (List.range 64) s) := by
  have hput := foldl_spWrite (s := s) (l := k / 64) (off := fun i => colOff a d i 0) (bs := colWords ws) (List.range 64)
    fun i hi => by rw [colWords_length]; exact ho i (List.mem_range.1 hi)
  simp only [vstcOp, if_neg (show ¬ 1 < fmt by omega), vowned_ok (rs := [vr]) (by simpa using vread_own hv), column_ok ha hd hcol, hv]
  simp only [Except.bind, colOff, Nat.add_zero, colWords] at hput ⊢
  exact hput

end

/-! ### Rows of a tile -/

theorem tileRow_ok {s : State} {k : Nat} {rs1 : BitVec 5} {a : Word} (ha : sreg s k rs1 = .ok a)
    (ho : ownsTile s k (a.getLsbD 4) = true) : tileRow s k rs1 0 0 false 0 = .ok (a.getLsbD 4, a.toNat % 16) := by
  rw [tileRow, if_neg (by simp), ha]
  exact if_pos ho

/-- Entries written to a tile are read back, and no other entry changed. -/
theorem accRead_accWrite (l i : Nat) (a : Bool) {ws : List Word} (hlen : ws.length = 128) (s : State) :
    accRead (accWrite l a i ws s) l a i 128 = .ok ws := by
  have hgood : tread (tclear s.lv.badAcc (akey l a + i) 128) (akey l a + i) 128 = List.replicate 128 default :=
    tread_default _ _ _ fun x h1 h2 => tget_tclear_in _ ⟨h1, h2⟩
  have hread := tread_twrite ws s.lv.acc (akey l a + i)
  rw [hlen] at hread
  simp only [accRead, accWrite, hlen, hgood, hread]
  rfl

/-- A tile store that goes on to the next instruction. -/
theorem accWrite_issued (k i : Nat) (a : Bool) {ws : List Word} (hlen : ws.length = 128) (s : State) :
    let t := issued k (adv k (accWrite (k / 64) a i ws s))
    accRead t (k / 64) a i 128 = .ok ws ∧
    (∀ x, (x < akey (k / 64) a + i ∨ akey (k / 64) a + i + 128 ≤ x) → tget t.lv.acc x = tget s.lv.acc x) ∧
    MemSame s t ∧ KeepsRegs k s t ∧ Steps k s t ∧ OnlyLeaf (k / 64) s t ∧
    t.lv = { s.lv with leaf := t.lv.leaf, threads := t.lv.threads, acc := t.lv.acc, badAcc := t.lv.badAcc } := by
  intro t
  have hacc : t.lv.acc = twrite s.lv.acc (akey (k / 64) a + i) ws := by simp only [t]; rw [issued_eq]; rfl
  refine ⟨?_, fun x hx => ?_, fun x => ?_, fun r => ?_, ?_, ?_, ?_⟩
  · rw [← accRead_accWrite (k / 64) i a hlen s]
    simp only [t]
    rw [issued_eq]
    rfl
  · rw [hacc, tget_twrite_out _ _ (by omega)]
  · simp only [t, issued_mem]; rfl
  · simp only [t, sreg_issued, sreg_adv]; rfl
  · simp only [t, Steps, getTh_issued, pc_adv]; rfl
  · have hjobs : (progress (k / 64) (adv k (accWrite (k / 64) a i ws s))).jobs = (progress (k / 64) s).jobs := by
      show (progress (k / 64) { s with lv := _ }).jobs = _
      rw [progress_lvSet]
    simp only [t, OnlyLeaf]
    rw [issued_eq, hjobs]
    rfl
  · simp only [t]
    rw [issued_eq]
    rfl

/-- What is stored is there when the instruction has been counted. -/
theorem memRead_issued_adv (k : Nat) (s : State) (a n : Nat) : memRead (issued k (adv k s)) a n = memRead s a n := by
  rw [memRead, issued_mem]
  rfl

theorem tget_issued_adv (k : Nat) (s : State) (x : Nat) : tget (issued k (adv k s)).mem.cells x = tget s.mem.cells x := by
  rw [issued_mem]
  rfl

/-! ### The instructions -/

theorem vectorLoads : VectorLoads := by
  refine ⟨?plain, ?mx, ?col, ?tile⟩
  case plain =>
    intro w vr rs1 rs2 fmt sat rm s a bs hi ho hf hmx ha hal hr
    exact runs_vwrite rfl hi ho (laneCodes_length ..) (vldrOp_plain hf hmx ho ha hal hr)
  case mx =>
    intro w vr rs1 rs2 fmt sat rm s a c bs sc hi ho hmx ha hc hal hr hsc
    exact runs_vwrite rfl hi ho (laneCodes_length ..) (vldrOp_mx hmx ho ha hc hal hr hsc)
  case col =>
    intro w vr rs1 rs2 fmt sat rm s a d lo hi' hi ho hf ha hd hcol hr
    exact runs_vwrite rfl hi ho (by simp) (vldcOp_ok hf ho ha hd hcol hr)
  case tile =>
    intro w vr rs1 s a ws hi ho ha htile hr
    have hlen : ws.length = 128 := by
      unfold accRead at hr
      split at hr
      · cases hr
      · cases hr; exact tread_length ..
    exact runs_vwrite rfl hi ho hlen
      (by rw [vowned_ok (rs := [vr]) (by simpa using ho), tileRow_ok ha htile]; simp only [Except.bind, hr])

theorem runs_issueNext {c : Instr} {w : Thr} {g : Nat → State → Chk State} {s t : State} {P : State → Prop}
    (he : exec c s = .next (issueNext w g s)) (hi : CanIssue w s) (hg : g (thrKey w) s = .ok t)
    (hP : P (issued (thrKey w) (adv (thrKey w) t))) : Runs c s P :=
  ⟨_, he.trans (congrArg _ (issueNext_ok hi hg)), hP⟩

theorem vectorStores : VectorStores := by
  refine ⟨?plain, ?mx, ?col, ?tile⟩
  case plain =>
    intro w vr rs1 rs2 fmt sat rm s a ws hi hv hf hmx ha hal ho
    exact runs_issueNext rfl hi (vstrOp_plain (rm := Rm.ofCode rm.toNat) hf hmx hv ha hal ho)
      ⟨stored_issued (stored_spPut ..), (putOnly_spPut ..).steps _, (putOnly_spPut ..).storeFrame _⟩
  case mx =>
    intro w vr rs1 rs2 fmt sat rm s a c ws hi hv hmx ha hc hal ho hoc
    have hput := (putOnly_spPut (thrKey w / 64) a.toNat 0 (storeCodes fmt.toNat sat (Rm.ofCode rm.toNat) ws).1 s).trans
      (putOnly_spPut (thrKey w / 64) c.toNat 0 (storeCodes fmt.toNat sat (Rm.ofCode rm.toNat) ws).2 _)
    refine runs_issueNext rfl hi (vstrOp_mx (rm := Rm.ofCode rm.toNat) hmx hv ha hc hal ho hoc) ⟨?_, fun hapart => ?_, fun x h1 h2 => ?_, hput.steps _,
      hput.storeFrame _⟩
    · rw [memRead_issued_adv, memRead, spPut_cells, tread_twrite]
    · rw [memRead_issued_adv, memRead, spPut_cells, tread_twrite_out _ _ (by omega), spPut_cells, tread_twrite]
    · rw [tget_issued_adv, spPut_cells, tget_twrite_out _ _ h2, spPut_cells, tget_twrite_out _ _ h1]
  case col =>
    intro w vr rs1 rs2 fmt sat rm s a d ws hi hv hf ha hd hcol ho
    have hput := putOnly_putAll (s := s) (l := thrKey w / 64) (off := fun i => colOff a d i 0) (bs := colWords ws) (List.range 64)
    refine runs_issueNext rfl hi (vstcOp_ok hf hv ha hd hcol ho) ⟨fun i h64 => ?_, fun x hx => ?_, hput.steps _, hput.storeFrame _⟩
    · rw [memRead_issued_adv]
      exact memRead_putAll 64 (fun i _ => colWords_length ws i) (fun _ _ => colOff_apart hcol.2.2.1) h64
    · rw [tget_issued_adv]
      exact putAll_outside _ fun i h64 => by rw [colWords_length]; exact hx i (List.mem_range.1 h64)
  case tile =>
    intro w vr rs1 s a ws hi hv ha htile
    exact runs_issueNext rfl hi
      (by rw [vowned_ok (rs := [vr]) (by simpa using vread_own hv), tileRow_ok ha htile]; simp only [Except.bind, hv, Except.map])
      (accWrite_issued _ _ _ (vread_length hv) s)

/-- Settles O14: a load writes one vector register, and a store the bytes or entries that it names. -/
theorem vectorLoadsAndStores : Obligations.VectorLoadsAndStores := ⟨vectorLoads, vectorStores⟩

end Sys2Proof.Machine

/-! The front of the queue, the state before bring-up, and one word of each format. -/

namespace Sys2Proof.Machine
open Sys2Proof.Claims

/-- Settles O1: `step` looks at the queue first, and takes its front off it. -/
theorem stepRunsFront : Obligations.StepRunsFront := by
  intro c rest s
  simp only [step]

/-- Settles O3: every table of the state before bring-up lists nothing, so each reads as its default everywhere. -/
theorem resetState : Obligations.ResetState :=
  ⟨rfl, rfl, fun _ => rfl, fun _ => rfl, fun _ => rfl, fun _ => rfl, fun _ => rfl, rfl, rfl, rfl, rfl, rfl, rfl, rfl⟩

end Sys2Proof.Machine

namespace Sys2Proof

/-- Settles O5: a word that is laid down from an instruction's fields decodes to it, and the two reserved words have no instruction. -/
theorem stationWords : Obligations.StationWords := by
  intro w
  refine ⟨?_, ?_, ?_, ?_, ?_, ?_, ?_, ?_, ?_, ?_, ?_, ?_⟩ <;> rfl

end Sys2Proof

/-! The leaf engines (R67, R70, R73, R81 to R84, R118, R125, R157): what an issue queues, and what a completion does. -/

namespace Sys2Proof.Machine
open Sys2Proof.Claims

/-! ### Issue -/

/-- A leaf's record changed, and records that neither its threads nor memory hold. -/
structure LeafOnly (l : Nat) (s t : State) : Prop where
  cells : t.mem.cells = s.mem.cells
  threads : t.lv.threads = s.lv.threads
  badReg : t.lv.badReg = s.lv.badReg
  vregs : t.lv.vregs = s.lv.vregs
  acc : t.lv.acc = s.lv.acc
  accFlags : t.lv.accFlags = s.lv.accFlags
  others : ∀ j, j ≠ l → getLeaf t j = getLeaf s j

theorem LeafOnly.refl (l : Nat) (s : State) : LeafOnly l s s := ⟨rfl, rfl, rfl, rfl, rfl, rfl, fun _ _ => rfl⟩

theorem LeafOnly.modLeaf {l : Nat} {s t : State} (h : LeafOnly l s t) (f : Leaf → Leaf) : LeafOnly l s (modLeaf t l f) :=
  ⟨h.cells, h.threads, h.badReg, h.vregs, h.acc, h.accFlags, fun j hj => by rw [getLeaf_modLeaf_ne _ _ hj, h.others j hj]⟩

theorem LeafOnly.getTh {l : Nat} {s t : State} (h : LeafOnly l s t) (k : Nat) : Machine.getTh t k = Machine.getTh s k := by
  simp only [Machine.getTh, h.threads]

/-- An instruction that queues an operation and goes on has taken its token, and done nothing else to its thread. -/
theorem queued_issued {k tok : Nat} {s t : State} (h : LeafOnly (k / 64) s t) : Queued k tok s (issued k (adv k (tokInc k tok t))) := by
  have hth : ∀ j, getTh (issued k (adv k (tokInc k tok t))) j = if j = k then { getTh s k with
      pc := ((getTh s k).pc + 4) % 2 ^ 32, toks := tput (getTh s k).toks tok (tget (getTh s k).toks tok + 1) } else getTh s j := by
    intro j
    rw [getTh_issued, adv, tokInc, getTh_modTh, getTh_modTh, getTh_modTh, if_pos rfl, h.getTh, h.getTh]
    by_cases hj : j = k <;> simp [hj, tmod]
  refine ⟨by rw [hth, if_pos rfl], fun j hj => by rw [hth, if_neg hj], fun l hl => ?_, fun x => ?_, ?_, ?_, ?_, fun r => ?_⟩
  · rw [getLeaf_issued, if_neg hl]
    exact h.others l hl
  · rw [issued_mem]
    exact congrArg (tget · x) h.cells
  · rw [issued_eq]; exact h.vregs
  · rw [issued_eq]; exact h.acc
  · rw [issued_eq]; exact h.accFlags
  · have hbad : (issued k (adv k (tokInc k tok t))).lv.badReg = s.lv.badReg := by rw [issued_eq]; exact h.badReg
    rw [sreg, sreg, hth, if_pos rfl, hbad]

theorem blockAt_ok {w : Thr} {s : State} {rs1 : BitVec 5} {n : Nat} {b : List Byte} (h : Block w s rs1 n b) :
    blockAt rs1 n (thrKey w) s = .ok b := by
  obtain ⟨a, ha, hal, hr⟩ := h
  simp only [blockAt, ha, Except.bind, hal, ne_eq, not_true_eq_false, if_false, hr]

theorem tokFree_of_lt {s : State} {k tok : Nat} (h : tget (getTh s k).toks tok < 255) : tokFree s k tok = true := by
  simp [tokFree, h]

theorem getLeaf_issued_tokInc (k tok : Nat) (s : State) :
    getLeaf (issued k (adv k (tokInc k tok s))) (k / 64) =
      { getLeaf s (k / 64) with issued := (getLeaf s (k / 64)).issued.add 1 } := by
  rw [getLeaf_issued, if_pos rfl]
  rfl

/-- A transfer that is logged, or not, changes the leaf's log alone (R90). -/
theorem leafOnly_logDma (l : Nat) (d : List Byte) (s : State) :
    LeafOnly l s (logDma l d s).1 ∧ (getLeaf (logDma l d s).1 l).dma = (getLeaf s l).dma := by
  unfold logDma
  dsimp only
  split
  · exact ⟨.refl l s, rfl⟩
  · dsimp only
    refine ⟨LeafOnly.modLeaf ?_ _, ?_⟩
    · exact ⟨rfl, rfl, rfl, rfl, rfl, rfl, fun _ _ => rfl⟩
    · rw [getLeaf_modLeaf_same]
      rfl

theorem find_freeSlot {ops : List DmaOp} {free : Nat} (hlt : free < 16) (hfree : ∀ o ∈ ops, o.slot ≠ free)
    (hused : ∀ i < free, ∃ o ∈ ops, o.slot = i) :
    (List.range 16).find? (fun i => !(ops.any fun o => decide (o.slot = i))) = some free := by
  rw [List.find?_range_eq_some]
  refine ⟨by simpa using hfree, by simpa using hlt, fun j hj => ?_⟩
  obtain ⟨o, ho, hs⟩ := hused j hj
  simpa using ⟨o, ho, hs⟩

theorem engineIssue : EngineIssue := by
  refine ⟨?mma, ?drain, ?dma, ?accst⟩
  case mma =>
    intro w rs1 tok a clear s b hi hown hb hchk hlen htok
    refine runs_issueNext (t := ?mmaState) rfl hi ?mmaOk ?mmaEffect
    case mmaOk =>
      simp only [hown, blockAt_ok hb, hchk, Except.bind, Bool.not_true, Bool.false_eq_true, if_false, tokFree_of_lt htok, Bool.or_false,
        if_neg (show ¬ 8 ≤ (getLeaf s (thrKey w / 64)).mma.length by omega), decide_eq_true_eq]
      rfl
    case mmaEffect =>
      rw [getLeaf_issued_tokInc, getLeaf_modLeaf_same]
      exact ⟨⟨_, rfl, rfl, rfl, rfl, rfl, rfl⟩, rfl, queued_issued ((LeafOnly.refl _ s).modLeaf _)⟩
  case drain =>
    intro w rs1 tok a s b hi hown hb hchk htok
    refine runs_issueNext (t := ?drainState) rfl hi ?drainOk ?drainEffect
    case drainOk =>
      simp only [hown, blockAt_ok hb, hchk, Except.bind, Bool.not_true, Bool.false_eq_true, if_false, tokFree_of_lt htok]
      rfl
    case drainEffect =>
      rw [getLeaf_issued_tokInc, getLeaf_modLeaf_same]
      exact ⟨⟨_, rfl, rfl, rfl, rfl, rfl⟩, rfl, queued_issued ((LeafOnly.refl _ s).modLeaf _)⟩
  case dma =>
    intro w rs1 s d free hi hb hchk htok hlt hfree hused
    obtain ⟨honly, hdma⟩ := leafOnly_logDma (thrKey w / 64) d s
    refine runs_issueNext (t := ?dmaState) rfl hi ?dmaOk ?dmaEffect
    case dmaOk =>
      simp only [blockAt_ok hb, hchk, Except.bind, find_freeSlot hlt hfree hused, tokFree_of_lt htok, Bool.not_true, Bool.false_eq_true, if_false]
      rfl
    case dmaEffect =>
      rw [getLeaf_issued_tokInc, getLeaf_modLeaf_same]
      exact ⟨⟨_, rfl, rfl, rfl, rfl, rfl, congrArg (· ++ _) hdma⟩, queued_issued (honly.modLeaf _)⟩
  case accst =>
    intro w rd a s hi hown
    obtain ⟨t, hexec, hreg, -, hstep, hframe⟩ := runs_regResult (c := .accst w rd a) rfl hi (if_pos hown)
    exact ⟨t, hexec, hreg, hstep, hframe⟩


/-! ### Completion -/

theorem bind_ok {α β : Type} {x : Chk α} {f : α → Chk β} {b : β} (h : x.bind f = .ok b) : ∃ a, x = .ok a ∧ f a = .ok b := by
  cases x with
  | error e => cases h
  | ok a => exact ⟨a, rfl, h⟩

theorem map_ok {α β : Type} {x : Chk α} {f : α → β} {b : β} (h : x.map f = .ok b) : ∃ a, x = .ok a ∧ f a = b := by
  cases x with
  | error e => cases h
  | ok a => exact ⟨a, rfl, Except.ok.inj h⟩

/-- Sets the flags of a tile (R118). -/
def putFlags (key fl : Nat) (s : State) : State := { s with lv := { s.lv with accFlags := tput s.lv.accFlags key fl } }

/-- A matrix operation that can read its operands writes its tile and the tile's flags, and nothing else. -/
theorem mmaRun_writes {l : Nat} {op : EngOp} {s u : State} (h : mmaRun l op s = .ok u) :
    ∃ ws fl, ws.length = 2048 ∧ u = putFlags (l * 2 + op.tile) fl (accWrite l (decide (op.tile = 1)) 0 ws s) := by
  dsimp only [mmaRun] at h
  obtain ⟨rows, -, h⟩ := bind_ok h
  obtain ⟨lines, -, h⟩ := bind_ok h
  obtain ⟨meta_, -, h⟩ := bind_ok h
  obtain ⟨sa, -, h⟩ := bind_ok h
  obtain ⟨sb, -, h⟩ := bind_ok h
  obtain ⟨acc, -, h⟩ := map_ok h
  exact ⟨_, _, by rw [List.length_map, List.length_map, List.length_range], h.symm⟩

theorem b2n_tile {tile : Nat} (h : tile < 2) : b2n (decide (tile = 1)) = tile := by
  interval_cases tile <;> rfl

theorem accWrite_outside {l tile x : Nat} {ws : List Word} (ht : tile < 2) (hlen : ws.length = 2048) (s : State)
    (hx : x < (l * 2 + tile) * 2048 ∨ (l * 2 + tile) * 2048 + 2048 ≤ x) :
    tget (accWrite l (decide (tile = 1)) 0 ws s).lv.acc x = tget s.lv.acc x :=
  tget_twrite_out _ _ (by simpa only [akey, b2n_tile ht, hlen, Nat.add_zero] using hx)

/-- The completion of an engine's operation: the leaf forgets it, its token counts down, and its job makes progress. -/
def completed (l k tok : Nat) (f : Leaf → Leaf) (s : State) : State := progress l (tokDec k tok (modLeaf s l f))

section
variable (l k tok : Nat) (f : Leaf → Leaf) (s : State)

@[simp] theorem getLeaf_completed : getLeaf (completed l k tok f s) l = f (getLeaf s l) := by
  rw [completed, getLeaf_progress, tokDec, getLeaf_modTh, getLeaf_modLeaf_same]

@[simp] theorem completed_mem : (completed l k tok f s).mem = s.mem := by
  rw [completed, progress_mem]; rfl

theorem completed_lv : (completed l k tok f s).lv =
    { s.lv with leaf := tmod s.lv.leaf l f, threads := tmod s.lv.threads k fun t => { t with toks := tmod t.toks tok fun n => n - 1 } } := by
  rw [completed, progress_lv]; rfl

theorem tokBack_completed {s' : State} (h : getTh s k = getTh s' k) : TokBack k tok s' (completed l k tok f s) := by
  rw [TokBack, completed, getTh_progress, tokDec, getTh_modTh_same, getTh_modLeaf, h]
  simp only [tget_tmod_same]

end

theorem runs_mmaComplete (leaf : Fin 168) {s u : State} {op : EngOp} {rest : List EngOp} (hq : (getLeaf s leaf.val).mma = op :: rest)
    (hon : engOn s leaf.val = true) (hdrain : ∀ d ∈ (getLeaf s leaf.val).drain, ¬(d.tile = op.tile ∧ d.seq < op.seq))
    (hrun : mmaRun leaf.val op s = .ok u) : exec (.mmaComplete leaf) s =
      .next (completed leaf.val (leaf.val * 64 + op.thread) op.tok (fun x => { x with mma := rest }) u) := by
  have hany : ((getLeaf s leaf.val).drain.any fun d => decide (d.tile = op.tile ∧ d.seq < op.seq)) = false := by
    simpa using hdrain
  show execMmaComplete leaf s = _
  simp only [execMmaComplete, hq, hon, hany, hrun, Bool.not_true, Bool.or_false, Bool.false_eq_true, if_false, completed]

theorem mmaCompletes {leaf : Fin 168} {s u : State} {op : EngOp} {rest : List EngOp} (hq : (getLeaf s leaf.val).mma = op :: rest)
    (hon : engOn s leaf.val = true) (hdrain : ∀ d ∈ (getLeaf s leaf.val).drain, ¬(d.tile = op.tile ∧ d.seq < op.seq))
    (htile : op.tile < 2) (hrun : mmaRun leaf.val op s = .ok u) :
    Runs (.mmaComplete leaf) s fun t =>
      (getLeaf t leaf.val).mma = rest ∧ t.lv.acc = u.lv.acc ∧ t.lv.accFlags = u.lv.accFlags ∧
      (∀ x, (x < (leaf.val * 2 + op.tile) * 2048 ∨ (leaf.val * 2 + op.tile) * 2048 + 2048 ≤ x) → tget t.lv.acc x = tget s.lv.acc x) ∧
      TokBack (leaf.val * 64 + op.thread) op.tok s t ∧ MemSame s t ∧ t.lv.vregs = s.lv.vregs := by
  obtain ⟨ws, fl, hlen, hu⟩ := mmaRun_writes hrun
  refine ⟨_, runs_mmaComplete leaf hq hon hdrain hrun, ?_, ?_, ?_, fun x hx => ?_, ?_, fun x => ?_, ?_⟩
  · rw [getLeaf_completed]
  · rw [completed_lv]
  · rw [completed_lv]
  · rw [completed_lv, hu]
    exact accWrite_outside htile hlen s hx
  · exact tokBack_completed _ _ _ _ _ (by rw [hu]; rfl)
  · rw [completed_mem, hu]
    rfl
  · rw [completed_lv, hu]
    rfl

/-! #### Drains (R125) -/

/-- The bytes of row `m` of a tile in INT32 or FP32, and where they go. -/
def drainBytes (acc : List Word) (m : Nat) : List Byte := ((acc.drop (m * 64)).take 64).flatMap fun v => leBytes 4 v.toNat
def drainOff (b : List Byte) (m : Nat) : Nat := (field b 0 2 + m * field b 2 2) * 256

theorem drainBytes_length {acc : List Word} (hlen : acc.length = 2048) {m : Nat} (hm : m < 32) : (drainBytes acc m).length = 256 := by
  simp only [drainBytes, List.length_flatMap, leBytes_length, List.map_const', List.sum_replicate, List.length_take, List.length_drop,
    hlen, smul_eq_mul]
  omega

theorem drainOff_apart {b : List Byte} (hsd : 1 ≤ field b 2 2) {i j : Nat} (h : i < j) : drainOff b i + 256 ≤ drainOff b j := by
  have hmul : i * field b 2 2 + field b 2 2 ≤ j * field b 2 2 := by
    rw [← Nat.succ_mul]; exact Nat.mul_le_mul_right _ h
  simp only [drainOff]
  omega

theorem drainRow_word {b : List Byte} (hf : field b 4 1 ≤ 1) (ws : List Word) :
    drainRow b ws = (ws.flatMap fun w => leBytes 4 w.toNat, [], false) := by
  simp only [drainRow, if_pos (show field b 4 1 = 0 ∨ field b 4 1 = 1 by omega)]

theorem zipIdx_map_range {α : Type} (f : Nat → α) (n : Nat) : ((List.range n).map f).zipIdx = (List.range n).map fun m => (f m, m) := by
  apply List.ext_getElem <;> simp

theorem bind_ok_self {α : Type} (x : Chk α) : (x.bind fun a => .ok a) = x := by cases x <;> rfl

theorem accRead_length {s : State} {l i n : Nat} {a : Bool} {ws : List Word} (h : accRead s l a i n = .ok ws) : ws.length = n := by
  unfold accRead at h
  split at h
  · cases h
  · cases h; exact tread_length ..

/-- Writing back what a table holds changes no reading. -/
theorem tget_tput_self {α : Type} [DecidableEq α] [Inhabited α] (t : Tab α) (k x : Nat) : tget (tput t k (tget t k)) x = tget t x := by
  rw [tget_tput]
  split
  · next h => rw [h]
  · rfl

/-- A drain's rows land at their lines, one after the other. -/
theorem drainRun_ok {l : Nat} {op : EngOp} {s : State} {acc : List Word} (hacc : accRead s l (decide (op.tile = 1)) 0 2048 = .ok acc)
    (hf : field op.blk 4 1 ≤ 1) (hlen : acc.length = 2048) (hopen : ∀ m < 32, SpOpen s l (drainOff op.blk m) 256) :
    ∃ t, drainRun l op s = .ok t ∧ t.mem = (putAll l (drainOff op.blk) (drainBytes acc) (List.range 32) s).mem ∧
      (∀ k, getTh t k = getTh s k) ∧ t.lv.acc = s.lv.acc ∧ (∀ x, tget t.lv.accFlags x = tget s.lv.accFlags x) ∧
      (getLeaf t l) = getLeaf s l := by
  have hput : PutOnly s (putAll l (drainOff op.blk) (drainBytes acc) (List.range 32) s) := putOnly_putAll _
  have hfold := foldl_spWrite (l := l) (s := s) (off := drainOff op.blk) (bs := drainBytes acc) (List.range 32) fun m hm => by
    rw [drainBytes_length hlen (List.mem_range.1 hm)]; exact hopen m (List.mem_range.1 hm)
  generalize putAll l (drainOff op.blk) (drainBytes acc) (List.range 32) s = u at hput hfold ⊢
  have hstep : ∀ (r : Chk State) (m : Nat), (r.bind fun s => (spWrite l (drainOff op.blk m) 0 (drainRow op.blk ((acc.drop (m * 64)).take 64)).1 s).bind
      fun s => if (drainRow op.blk ((acc.drop (m * 64)).take 64)).2.1.isEmpty then .ok s else
        spWrite l (field op.blk 8 2 * 256 + 2 * m) 0 (drainRow op.blk ((acc.drop (m * 64)).take 64)).2.1 s) =
      r.bind fun s => spWrite l (drainOff op.blk m) 0 (drainBytes acc m) s := fun r m => by
    simp only [drainRow_word hf, List.isEmpty_nil, if_true, bind_ok_self, drainBytes]
  have hsat : (((List.range 32).map fun m => drainRow op.blk ((acc.drop (m * 64)).take 64)).any fun x => x.2.2) = false := by
    simp [drainRow_word hf]
  simp only [drainRun, hacc, zipIdx_map_range, List.foldl_map]
  simp only [Except.bind] at hstep hfold ⊢
  simp only [drainOff] at hstep hfold
  simp only [hstep, hfold, hsat, Except.map, Bool.false_eq_true, if_false, Nat.or_zero]
  have hflags : ∀ x, tget (tput u.lv.accFlags (l * 2 + op.tile) (tget u.lv.accFlags (l * 2 + op.tile))) x = tget s.lv.accFlags x := fun x => by
    rw [tget_tput_self, hput]
  refine ⟨_, rfl, ?_⟩
  split
  · exact ⟨rfl, hput.getTh, congrArg (·.lv.acc) hput, hflags, hput.getLeaf l⟩
  · exact ⟨rfl, hput.getTh, congrArg (·.lv.acc) hput, hflags, hput.getLeaf l⟩

theorem drainCompletes {leaf : Fin 168} {s : State} {op : EngOp} {rest : List EngOp} {acc : List Word}
    (hq : (getLeaf s leaf.val).drain = op :: rest) (hon : engOn s leaf.val = true)
    (hacc : accRead s leaf.val (decide (op.tile = 1)) 0 2048 = .ok acc) (hf : field op.blk 4 1 ≤ 1) (hsd : 1 ≤ field op.blk 2 2)
    (hopen : ∀ m < 32, SpOpen s leaf.val (drainOff op.blk m) 256) :
    Runs (.drainComplete leaf) s fun t =>
      (∀ m < 32, memRead t (spBase leaf.val + drainOff op.blk m) 256 = drainBytes acc m) ∧
      (∀ x, (∀ m < 32, x < spBase leaf.val + drainOff op.blk m ∨ spBase leaf.val + drainOff op.blk m + 256 ≤ x) →
        tget t.mem.cells x = tget s.mem.cells x) ∧
      (getLeaf t leaf.val).drain = rest ∧ TokBack (leaf.val * 64 + op.thread) op.tok s t ∧ t.lv.acc = s.lv.acc ∧
      ∀ x, tget t.lv.accFlags x = tget s.lv.accFlags x := by
  have hlen := accRead_length hacc
  obtain ⟨t, hrun, hmem, hth, hac, hfl, -⟩ := drainRun_ok hacc hf hlen hopen
  refine ⟨completed leaf.val (leaf.val * 64 + op.thread) op.tok (fun x => { x with drain := rest }) t, ?_, fun m hm => ?_, fun x hx => ?_,
    ?_, tokBack_completed _ _ _ _ _ (hth _), ?_, fun x => ?_⟩
  · show execDrainComplete leaf s = _
    simp only [execDrainComplete, hq, hon, hrun, Bool.not_true, Bool.false_eq_true, if_false, completed]
  · rw [memRead, completed_mem, hmem]
    exact memRead_putAll 32 (fun i hi => drainBytes_length hlen hi) (fun i j => drainOff_apart hsd) hm
  · rw [completed_mem, hmem]
    exact putAll_outside _ fun m hm => by
      rw [drainBytes_length hlen (List.mem_range.1 hm)]; exact hx m (List.mem_range.1 hm)
  · rw [getLeaf_completed]
  · rw [completed_lv]; exact hac
  · rw [completed_lv]; exact hfl x

/-! #### DMA pieces (R82 to R84) -/

/-- The target checks read of a leaf its kind and its microcode alone. -/
theorem target_modLeaf (s : State) (l : Nat) {f : Leaf → Leaf} (hk : ∀ x, (f x).kind = x.kind) (hu : ∀ x, (f x).ucode = x.ucode)
    (i : Initiator) (w : Who) (write : Bool) (a : Nat) : target (modLeaf s l f) i w write a = target s i w write a := by
  have hkind : ∀ j, (getLeaf (modLeaf s l f) j).kind = (getLeaf s j).kind := fun j => by
    rw [getLeaf_modLeaf]
    split
    · next h => rw [hk, h]
    · rfl
  have hucode : ∀ j, (getLeaf (modLeaf s l f) j).ucode = (getLeaf s j).ucode := fun j => by
    rw [getLeaf_modLeaf]
    split
    · next h => rw [hu, h]
    · rfl
  have hp : ∀ j, pullsUcode (modLeaf s l f) j = pullsUcode s j := fun j => by
    unfold pullsUcode
    rw [hkind, hucode]
    rfl
  have hd : dramCheck (modLeaf s l f) i w write a = dramCheck s i w write a := by
    unfold dramCheck
    rw [hp]
    rfl
  have hs : ∀ j, spCheck (modLeaf s l f) i w j = spCheck s i w j := fun j => by
    unfold spCheck
    rw [hkind]
    rfl
  unfold target
  rw [hd, hs]
  rfl

theorem accepted_modLeaf {s : State} {l : Nat} {f : Leaf → Leaf} {i : Initiator} {write : Bool} {a n : Nat}
    (hk : ∀ x, (f x).kind = x.kind) (hu : ∀ x, (f x).ucode = x.ucode) (h : Accepted s i write a n) :
    Accepted (modLeaf s l f) i write a n := by
  obtain ⟨hreset, hfabric, hfirst⟩ := h
  refine ⟨hreset, hfabric, ?_⟩
  have ht : target (modLeaf s l f) i (whoOf s i) write = target s i (whoOf s i) write :=
    funext fun x => target_modLeaf s l hk hu i _ write x
  have hw : whoOf (modLeaf s l f) i = whoOf s i := rfl
  unfold firstRefused at hfirst ⊢
  rw [hw, ht]
  exact hfirst

/-- The descriptor as it stands after a piece has landed. -/
def pieceLanded (o : DmaOp) : DmaOp :=
  if dRowBytes o.desc ≤ o.done + pieceLen o then { o with row := o.row + 1, done := 0 } else { o with done := o.done + pieceLen o }

theorem spBase_add_of_ownSp {l a : Nat} (h : ownSp l a = true) : spBase l + (a - spBase l) = a := by
  have hleaf : spLeaf a = some l := of_decide_eq_true h
  unfold spLeaf at hleaf
  split at hleaf
  · simp only [Option.some.injEq] at hleaf
    simp only [spBase]
    omega
  · cases hleaf

theorem ownSp_of_dram {l a : Nat} (h : a < 0x1000000000) : ownSp l a = false := by
  simp only [ownSp, spLeaf, if_neg (show ¬ (0x1000000000 ≤ a ∧ a < 0x1015000000) by omega), reduceCtorEq, decide_false]

theorem modDma_only {l : Nat} {s : State} {o : DmaOp} (f : DmaOp → DmaOp) (h : (getLeaf s l).dma = [o]) :
    (getLeaf (modDma l o.slot f s) l).dma = [f o] := by
  rw [modDma, getLeaf_modLeaf_same]
  simp [h]

@[simp] theorem dmaDone_mem (l slot : Nat) (s : State) : (dmaDone l slot s).mem = s.mem := by
  unfold dmaDone
  split
  · rfl
  · split <;> rfl

@[simp] theorem dmaNext_mem (l : Nat) (o : DmaOp) (s : State) : (dmaNext l o s).mem = s.mem := by
  simp only [dmaNext, dmaDone_mem, progress_mem]
  rfl

/-- A descriptor that is the leaf's only one completes when its rows are done and nothing waits. -/
theorem dmaDone_only {l : Nat} {s : State} {o : DmaOp} (hq : (getLeaf s l).dma = [o]) (hout : ∀ x ∈ s.cross.out, dmaKey l o.slot ∉ x.waits) :
    dmaDone l o.slot s = if o.row < dRows o.desc then s else tokDec (l * 64 + o.thread) (dTok o.desc) (dropDma l o.slot s) := by
  have hwaits : ¬ ∃ x ∈ s.cross.out, dmaKey l o.slot ∈ x.waits := by simpa using hout
  simp [dmaDone, hq, hwaits]

/-- What landing a piece does to the descriptor, which has started. -/
theorem landed_eq {o : DmaOp} (hpcie : o.pcie = 0) (hop : dOp o.desc ≠ 2) :
    (if dOp o.desc = 2 ∨ dRowBytes o.desc ≤ o.done + pieceLen o then
      { ({ o with started := true } : DmaOp) with row := o.row + 1, done := 0, pcie := 0 }
    else { ({ o with started := true } : DmaOp) with done := o.done + pieceLen o, pcie := 0 }) = { pieceLanded o with started := true } := by
  unfold pieceLanded
  rw [← hpcie]
  by_cases h : dRowBytes o.desc ≤ o.done + pieceLen o
  · rw [if_pos (Or.inr h), if_pos h]
  · rw [if_neg (by tauto), if_neg h]

theorem landed_slot (o : DmaOp) : ({ pieceLanded o with started := true } : DmaOp).slot = o.slot ∧ (pieceLanded o).desc = o.desc ∧
    (pieceLanded o).thread = o.thread := by
  unfold pieceLanded
  split <;> exact ⟨rfl, rfl, rfl⟩

/-- A piece that lands for the leaf's only descriptor: it goes on to the next piece, or completes. -/
theorem dmaNext_only {l : Nat} {s : State} {o : DmaOp} (hq : (getLeaf s l).dma = [{ o with started := true }]) (hpcie : o.pcie = 0)
    (hop : dOp o.desc ≠ 2) (hout : ∀ x ∈ s.cross.out, dmaKey l o.slot ∉ x.waits) :
    if (pieceLanded o).row < dRows o.desc then (getLeaf (dmaNext l o s) l).dma = [{ pieceLanded o with started := true }]
    else (getLeaf (dmaNext l o s) l).dma = [] ∧ TokBack (l * 64 + o.thread) (dTok o.desc) s (dmaNext l o s) := by
  obtain ⟨hslot, hdesc, hthread⟩ := landed_slot o
  set y : DmaOp := { pieceLanded o with started := true } with hy
  have hland : ∃ u, dmaNext l o s = dmaDone l y.slot u ∧ (getLeaf u l).dma = [y] ∧ u.cross = s.cross ∧ ∀ k, getTh u k = getTh s k := by
    refine ⟨_, by rw [hslot]; rfl, ?_, by rw [progress_eq]; rfl, fun k => by rw [getTh_progress]; rfl⟩
    rw [getLeaf_progress, modDma_only (o := { o with started := true }) _ hq]
    dsimp only
    rw [landed_eq hpcie hop]
  obtain ⟨u, hnext, hu, hcross, hth⟩ := hland
  have hdone := dmaDone_only hu (by rw [hcross, hslot]; exact hout)
  rw [show y.desc = o.desc from hdesc, show y.thread = o.thread from hthread] at hdone
  rw [hnext, hdone]
  by_cases h : y.row < dRows o.desc
  · rw [if_pos h, if_pos h]
    exact hu
  · rw [if_neg h, if_neg h]
    refine ⟨?_, ?_⟩
    · rw [tokDec, getLeaf_modTh, dropDma, getLeaf_modLeaf_same]
      simp [hu]
    · rw [TokBack, tokDec, getTh_modTh_same, dropDma, getTh_modLeaf, hth]
      simp only [tget_tmod_same]

/-- A piece whose bytes are read, for the own scratchpad, is stored, and the descriptor goes on. -/
theorem dmaLand_own {l : Nat} {o : DmaOp} {bs : List Byte} {s : State} (hop : dOp o.desc ≠ 2)
    (hown : ownSp l (addr48 (dstRow o.desc o.row) o.done) = true)
    (hopen : SpOpen s l (addr48 (dstRow o.desc o.row) o.done - spBase l) bs.length) :
    dmaLand l o bs s = dmaNext l o (spPut l (addr48 (dstRow o.desc o.row) o.done - spBase l) o.tag bs s) := by
  simp only [dmaLand, if_neg hop, hown, if_true, spWrite_ok hopen.1 hopen.2]

/-- The descriptor has started. -/
def dmaStarted (l : Nat) (o : DmaOp) (s : State) : State := modDma l o.slot (fun x => { x with started := true }) s

theorem dma_dmaStarted {l : Nat} {s : State} {o : DmaOp} (hq : (getLeaf s l).dma = [o]) :
    (getLeaf (dmaStarted l o s) l).dma = [{ o with started := true }] := modDma_only _ hq

theorem spOpen_dmaStarted {l off n : Nat} {o : DmaOp} {s : State} (h : SpOpen s l off n) : SpOpen (dmaStarted l o s) l off n := by
  have hseg : segsOf (dmaStarted l o s) l off n = segsOf s l off n := by
    simp only [segsOf, dmaStarted, modDma, getLeaf_modLeaf_same]
  exact ⟨h.1, by rw [hseg]; exact h.2⟩

theorem fillBytes_length (d : List Byte) (a n : Nat) : (fillBytes d a n).length = n := by simp [fillBytes]

section
variable {leaf : Fin 168} {slot : Fin 16} {s : State} {o : DmaOp}

theorem exec_fillPiece (hq : (getLeaf s leaf.val).dma = [o]) (hslot : o.slot = slot.val) (hon : engOn s leaf.val = true) (hpcie : o.pcie = 0)
    (hrow : o.row < dRows o.desc) (hop : dOp o.desc = 1) : exec (.dmaPieceComplete leaf slot) s =
      .next (dmaLand leaf.val o (fillBytes o.desc (addr48 (dstRow o.desc o.row) o.done) (pieceLen o)) (dmaStarted leaf.val o s)) := by
  have hfind : (getLeaf s leaf.val).dma.find? (fun o => decide (o.slot = slot.val)) = some o := by simp [hq, hslot]
  have hstart : mayStart s leaf.val o = true := by simp [mayStart, hq]
  show execDmaPieceComplete leaf slot s = _
  simp only [execDmaPieceComplete, hfind, hon, hpcie, hstart, Nat.not_le.2 hrow, decide_false, ne_eq, not_true_eq_false, Bool.not_true,
    Bool.or_self, Bool.false_eq_true, if_false, hop, if_true, dmaStarted]

theorem exec_copyPiece {u : State} {bs : List Byte} (hq : (getLeaf s leaf.val).dma = [o]) (hslot : o.slot = slot.val)
    (hon : engOn s leaf.val = true) (hpcie : o.pcie = 0) (hrow : o.row < dRows o.desc) (hop : dOp o.desc = 0)
    (hfar : ownSp leaf.val (addr48 (srcRow o.desc o.row) o.done) = false)
    (hread : access (leafIni leaf.val) false (addr48 (srcRow o.desc o.row) o.done) (pieceLen o) [] [dmaKey leaf.val o.slot]
      (dmaStarted leaf.val o s) = (u, .done stOK bs)) : exec (.dmaPieceComplete leaf slot) s = .next (dmaLand leaf.val o bs u) := by
  have hfind : (getLeaf s leaf.val).dma.find? (fun o => decide (o.slot = slot.val)) = some o := by simp [hq, hslot]
  have hstart : mayStart s leaf.val o = true := by simp [mayStart, hq]
  rw [dmaStarted] at hread
  show execDmaPieceComplete leaf slot s = _
  simp only [execDmaPieceComplete, hfind, hon, hpcie, hstart, Nat.not_le.2 hrow, decide_false, ne_eq, not_true_eq_false, Bool.not_true,
    Bool.or_self, Bool.false_eq_true, if_false, hop, Nat.zero_ne_one, hfar, hread, if_true]

theorem fillPiece (hq : (getLeaf s leaf.val).dma = [o]) (hslot : o.slot = slot.val) (hon : engOn s leaf.val = true) (hpcie : o.pcie = 0)
    (hrow : o.row < dRows o.desc) (hop : dOp o.desc = 1) (hown : ownSp leaf.val (addr48 (dstRow o.desc o.row) o.done) = true)
    (hopen : SpOpen s leaf.val (addr48 (dstRow o.desc o.row) o.done - spBase leaf.val) (pieceLen o))
    (hout : ∀ x ∈ s.cross.out, dmaKey leaf.val slot.val ∉ x.waits) :
    Runs (.dmaPieceComplete leaf slot) s fun t =>
      (∀ i < pieceLen o, tget t.mem.cells (addr48 (dstRow o.desc o.row) o.done + i) =
        BitVec.ofNat 8 (dFill o.desc / 256 ^ ((addr48 (dstRow o.desc o.row) o.done + i) % 4))) ∧
      MemOutside (addr48 (dstRow o.desc o.row) o.done) (pieceLen o) s t ∧
      (if (pieceLanded o).row < dRows o.desc then (getLeaf t leaf.val).dma = [{ pieceLanded o with started := true }]
       else (getLeaf t leaf.val).dma = [] ∧ TokBack (leaf.val * 64 + o.thread) (dTok o.desc) s t) := by
  have hop2 : dOp o.desc ≠ 2 := by omega
  set a := addr48 (dstRow o.desc o.row) o.done with ha
  have hlen := fillBytes_length o.desc a (pieceLen o)
  have hland := dmaLand_own hop2 hown (s := dmaStarted leaf.val o s) (bs := fillBytes o.desc a (pieceLen o))
    (by rw [hlen]; exact spOpen_dmaStarted hopen)
  set u := spPut leaf.val (a - spBase leaf.val) o.tag (fillBytes o.desc a (pieceLen o)) (dmaStarted leaf.val o s) with hu
  have hput : PutOnly (dmaStarted leaf.val o s) u := putOnly_spPut ..
  have hcells : u.mem.cells = twrite s.mem.cells a (fillBytes o.desc a (pieceLen o)) := by
    rw [hu, spPut_cells, spBase_add_of_ownSp hown]
    rfl
  have hth : ∀ k, getTh u k = getTh s k := hput.getTh
  refine ⟨_, (exec_fillPiece hq hslot hon hpcie hrow hop).trans (congrArg Host.Outcome.next hland), fun i hi => ?_, fun x hx => ?_, ?_⟩
  · rw [dmaNext_mem, hcells, tget_twrite_in _ _ _ _ (by rw [hlen]; exact hi)]
    simp [fillBytes]
  · rw [dmaNext_mem, hcells]
    exact tget_twrite_out _ _ (by rw [hlen]; exact hx)
  · have hnext := dmaNext_only (s := u) (l := leaf.val) (o := o) (by rw [hput.getLeaf]; exact dma_dmaStarted hq) hpcie hop2
      (by rw [hput, hslot]; exact hout)
    rw [TokBack, hth] at hnext
    exact hnext

theorem copyPiece (hq : (getLeaf s leaf.val).dma = [o]) (hslot : o.slot = slot.val) (hon : engOn s leaf.val = true) (hpcie : o.pcie = 0)
    (hrow : o.row < dRows o.desc) (hdone : o.done < dRowBytes o.desc) (hop : dOp o.desc = 0)
    (hline : addr48 (srcRow o.desc o.row) o.done % 64 + pieceLen o ≤ 64) (hdram : addr48 (srcRow o.desc o.row) o.done < 0x1000000000)
    (hacc : Accepted s (leafIni leaf.val) false (addr48 (srcRow o.desc o.row) o.done) (pieceLen o))
    (hgood : LineGood s (addr48 (srcRow o.desc o.row) o.done)) (hown : ownSp leaf.val (addr48 (dstRow o.desc o.row) o.done) = true)
    (hopen : SpOpen s leaf.val (addr48 (dstRow o.desc o.row) o.done - spBase leaf.val) (pieceLen o)) :
    Runs (.dmaPieceComplete leaf slot) s fun t =>
      memRead t (addr48 (dstRow o.desc o.row) o.done) (pieceLen o) = memRead s (addr48 (srcRow o.desc o.row) o.done) (pieceLen o) ∧
      MemOutside (addr48 (dstRow o.desc o.row) o.done) (pieceLen o) s t := by
  have hop2 : dOp o.desc ≠ 2 := by omega
  have hpos : 1 ≤ pieceLen o := by
    rw [pieceLen, if_neg hop2]
    have := Nat.mod_lt (addr48 (dstRow o.desc o.row) o.done) (show 0 < 64 by decide)
    omega
  set a := addr48 (dstRow o.desc o.row) o.done with ha
  set src := addr48 (srcRow o.desc o.row) o.done with hsrc
  have hacc' : Accepted (dmaStarted leaf.val o s) (leafIni leaf.val) false src (pieceLen o) :=
    accepted_modLeaf (fun _ => rfl) (fun _ => rfl) hacc
  have hgood' : LineGood (dmaStarted leaf.val o s) src := hgood
  obtain ⟨u, hread, hpath⟩ := dramRead_ok (leafIni leaf.val) (whoOf (dmaStarted leaf.val o s) (leafIni leaf.val)) [] hpos hline hgood'
  rw [← access_dram hacc' hdram [] [dmaKey leaf.val o.slot]] at hread
  set bs := memRead (dmaStarted leaf.val o s) src (pieceLen o) with hbs
  have hlen : bs.length = pieceLen o := memRead_length ..
  have hopen' : SpOpen u leaf.val (a - spBase leaf.val) bs.length := by
    have hs := spOpen_dmaStarted (o := o) hopen
    rw [hlen]
    simpa only [SpOpen, segsOf, getLeaf, hpath.lv] using hs
  have hcells : (spPut leaf.val (a - spBase leaf.val) o.tag bs u).mem.cells = twrite s.mem.cells a bs := by
    rw [spPut_cells, spBase_add_of_ownSp hown, hpath.cells]
    rfl
  refine ⟨_, (exec_copyPiece hq hslot hon hpcie hrow hop (ownSp_of_dram hdram) hread).trans
    (congrArg Host.Outcome.next (dmaLand_own hop2 hown hopen')), ?_, fun x hx => ?_⟩
  · have hstored := tread_twrite bs s.mem.cells a
    rw [hlen] at hstored
    rw [memRead, dmaNext_mem, hcells, hstored]
    rfl
  · rw [dmaNext_mem, hcells]
    exact tget_twrite_out _ _ (by rw [hlen]; exact hx)

end

theorem pieceLanded_cases {o : DmaOp} {rows : Nat} {P : Prop} {q : List DmaOp} (hrow : o.row < rows)
    (h : if (pieceLanded o).row < rows then q = [{ pieceLanded o with started := true }] else q = [] ∧ P) :
    if dRowBytes o.desc ≤ o.done + pieceLen o then
      if o.row + 1 = rows then q = [] ∧ P else q = [{ o with row := o.row + 1, done := 0, started := true }]
    else q = [{ o with done := o.done + pieceLen o, started := true }] := by
  unfold pieceLanded at h
  by_cases hlast : dRowBytes o.desc ≤ o.done + pieceLen o
  · rw [if_pos hlast] at h ⊢
    by_cases hend : o.row + 1 = rows
    · rw [if_neg (by dsimp only; omega)] at h
      rwa [if_pos hend]
    · rw [if_pos (by dsimp only; omega)] at h
      rwa [if_neg hend]
  · rw [if_neg hlast] at h ⊢
    rwa [if_pos hrow] at h

theorem engineCompletion : EngineCompletion := by
  refine ⟨?mma, ?drain, ?fill, ?copy⟩
  case mma => exact fun leaf s u op rest hq hon hdrain htile hrun => mmaCompletes hq hon hdrain htile hrun
  case drain => exact fun leaf s op rest acc hq hon _ hacc hf hsd hopen => drainCompletes hq hon hacc hf hsd hopen
  case fill =>
    intro leaf slot s o hq hslot hon hpcie hrow _ hop hown hopen hout
    obtain ⟨t, hexec, hfill, hother, hnext⟩ := fillPiece hq hslot hon hpcie hrow hop hown hopen hout
    exact ⟨t, hexec, hfill, hother, pieceLanded_cases hrow hnext⟩
  case copy =>
    exact fun leaf slot s o hq hslot hon hpcie hrow hdone hop hline hdram hacc hgood hown hopen =>
      copyPiece hq hslot hon hpcie hrow hdone hop hline hdram hacc hgood hown hopen

/-- Settles O15: an engine's operation joins its queue with its token, and its completion writes what it computed, where it says. -/
theorem leafEngines : Obligations.LeafEngines := ⟨engineIssue, engineCompletion⟩

end Sys2Proof.Machine

/-! Queue instructions and synchronisation (R65, R88, R91, R138 to R149, R154, R156): what a push, a pop and the end of a step leave. -/

namespace Sys2Proof.Machine
open Sys2Proof.Claims

/-! ### What the Kettle and the queue slices write -/

/-- Neither a thread's scalar state nor a queue changed. -/
structure ScalarsKept (s t : State) : Prop where
  threads : t.lv.threads = s.lv.threads
  badReg : t.lv.badReg = s.lv.badReg
  queue : t.queue = s.queue

theorem ScalarsKept.trans {s t u : State} (a : ScalarsKept s t) (b : ScalarsKept t u) : ScalarsKept s u :=
  ⟨b.threads.trans a.threads, b.badReg.trans a.badReg, b.queue.trans a.queue⟩

theorem scalarsKept_fireWatches (a n : Nat) (s : State) : ScalarsKept s (fireWatches a n s) := by
  rw [fireWatches_eq]; exact ⟨rfl, rfl, rfl⟩

theorem scalarsKept_refusal (src code p ini a : Nat) (sec write : Bool) (s : State) : ScalarsKept s (refusal src code p ini a sec write s) := by
  unfold refusal; split <;> exact ⟨rfl, rfl, rfl⟩

theorem scalarsKept_spPut (l off tag : Nat) (bs : List Byte) (s : State) : ScalarsKept s (spPut l off tag bs s) := by
  rw [spPut_eq]; exact ⟨rfl, rfl, rfl⟩

theorem scalarsKept_putBytes (w : Writer) (a : Nat) (bs : List Byte) (s : State) : ScalarsKept s (putBytes w a bs s) := by
  unfold putBytes
  split
  · exact ScalarsKept.trans (t := memWrite s a bs) ⟨rfl, rfl, rfl⟩ (scalarsKept_fireWatches ..)
  · split
    · exact scalarsKept_refusal ..
    · split
      · exact ⟨rfl, rfl, rfl⟩
      · exact scalarsKept_spPut ..

/-- A place that is open takes the bytes (R98, R103). -/
theorem putBytes_cells {s : State} {a : Nat} {bs : List Byte} (w : Writer) (h : PlaceOpen s a bs.length) :
    (putBytes w a bs s).mem.cells = twrite s.mem.cells a bs := by
  unfold putBytes
  split
  · rw [fireWatches_mem]; rfl
  · next l hl =>
    obtain ⟨hk, hs⟩ := h l hl
    rw [if_neg hk, if_neg hs, spPut_cells, spBase_add_of_ownSp (by simp [ownSp, hl])]

/-- A notification changes parties and interrupt files alone. -/
theorem notifyPush_eq (q n : Nat) (s : State) : notifyPush q n s = { s with party := (notifyPush q n s).party, world := (notifyPush q n s).world } := by
  unfold notifyPush notify raiseIrq
  dsimp only
  repeat' split
  all_goals rfl

theorem getBytes_eq (w : Writer) (a n : Nat) (s : State) :
    (getBytes w a n s).1 = { s with boot := (getBytes w a n s).1.boot, caddy := (getBytes w a n s).1.caddy, safe := (getBytes w a n s).1.safe } := by
  unfold getBytes refusal
  repeat' split
  all_goals rfl

theorem getBytes_length (w : Writer) (a n : Nat) (s : State) : (getBytes w a n s).2.length = n := by
  unfold getBytes
  repeat' split
  all_goals simp

theorem headEntry_length (s : State) (q : Nat) : (headEntry s q).length = (getQ s q).esz := getBytes_length ..

/-! ### The end of a step (R88) -/

section
variable (k : Nat) (s : State)

@[simp] theorem checkpoint_mem : (checkpoint k s).mem = s.mem := rfl
@[simp] theorem checkpoint_queue : (checkpoint k s).queue = s.queue := rfl
@[simp] theorem getLeaf_checkpoint (l : Nat) : getLeaf (checkpoint k s) l = getLeaf s l := rfl
@[simp] theorem checkpoint_badReg : (checkpoint k s).lv.badReg = s.lv.badReg := rfl

theorem getTh_checkpoint_ne {j : Nat} (h : j ≠ k) : getTh (checkpoint k s) j = getTh s j := by
  show getTh (modTh s k fun t => { t with shadow := _, replays := 0 }) j = _
  exact getTh_modTh_ne s _ h

theorem getTh_checkpoint_same : ∃ sh : Shadow, getTh (checkpoint k s) k = { getTh s k with shadow := sh, replays := 0 } ∧
    sh.pc = (getTh s k).pc ∧ sh.regs = (getTh s k).regs ∧ sh.preds = (getTh s k).preds := by
  show ∃ sh : Shadow, getTh (modTh s k fun t => { t with shadow := _, replays := 0 }) k = _ ∧ _
  refine ⟨_, getTh_modTh_same s k _, ?_⟩
  exact ⟨rfl, rfl, rfl⟩

theorem badShadow_checkpoint : tget (checkpoint k s).lv.badShadow k = 0 := tget_tput_same ..

end

/-- Thread `k` has its registers and its program counter as before. -/
structure RegsKept (k : Nat) (s t : State) : Prop where
  regs : (getTh t k).regs = (getTh s k).regs
  pc : (getTh t k).pc = (getTh s k).pc
  badReg : t.lv.badReg = s.lv.badReg

theorem RegsKept.keepsRegs {k : Nat} {s t : State} (h : RegsKept k s t) : KeepsRegs k s t := fun r => by
  simp only [sreg, h.regs, h.badReg]

theorem ScalarsKept.getTh {s t : State} (h : ScalarsKept s t) (k : Nat) : Machine.getTh t k = Machine.getTh s k := by
  simp only [Machine.getTh, h.threads]

theorem ScalarsKept.regsKept {s t : State} (h : ScalarsKept s t) (k : Nat) : RegsKept k s t :=
  ⟨by rw [h.getTh], by rw [h.getTh], h.badReg⟩

theorem regsKept_modTh {k : Nat} {f : Thread → Thread} (h : ∀ t, (f t).regs = t.regs ∧ (f t).pc = t.pc) (s : State) : RegsKept k s (modTh s k f) :=
  ⟨by rw [getTh_modTh_same, (h _).1], by rw [getTh_modTh_same, (h _).2], rfl⟩

theorem RegsKept.trans {k : Nat} {s t u : State} (a : RegsKept k s t) (b : RegsKept k t u) : RegsKept k s u :=
  ⟨b.regs.trans a.regs, b.pc.trans a.pc, b.badReg.trans a.badReg⟩

section
variable (k : Nat) (s : State)

theorem getTh_endStep_ne {j : Nat} (h : j ≠ k) : getTh (endStep k s) j = getTh s j := by
  rw [endStep, getTh_checkpoint_ne k _ h, adv, getTh_modTh_ne _ _ h]

theorem getTh_endStep_same : ∃ sh : Shadow, getTh (endStep k s) k =
      { getTh s k with pc := ((getTh s k).pc + 4) % 2 ^ 32, shadow := sh, replays := 0 } ∧
    sh.pc = ((getTh s k).pc + 4) % 2 ^ 32 ∧ sh.regs = (getTh s k).regs ∧ sh.preds = (getTh s k).preds := by
  obtain ⟨sh, hth, hpc, hregs, hpreds⟩ := getTh_checkpoint_same k (adv k s)
  rw [adv, getTh_modTh_same] at hth hpc hregs hpreds
  exact ⟨sh, hth, hpc, hregs, hpreds⟩

@[simp] theorem endStep_mem : (endStep k s).mem = s.mem := rfl
@[simp] theorem endStep_queue : (endStep k s).queue = s.queue := rfl
@[simp] theorem endStep_badReg : (endStep k s).lv.badReg = s.lv.badReg := rfl

end

/-- A step that ends at the next instruction, of a thread whose registers and program counter stand. -/
theorem stepEnded_endStep {k : Nat} {s u : State} (h : RegsKept k s u) : StepEnded k s (endStep k u) ∧ KeepsRegs k s (endStep k u) := by
  obtain ⟨sh, hth, hpc, hregs, hpreds⟩ := getTh_endStep_same k u
  refine ⟨⟨?_, ?_, ?_, ?_, ?_, badShadow_checkpoint k _⟩, fun r => ?_⟩
  · rw [Steps, hth, h.pc]
  · rw [hth]; exact hpc
  · rw [hth]; exact hregs
  · rw [hth]; exact hpreds
  · rw [hth]
  · rw [sreg, sreg, hth, endStep_badReg, h.badReg, h.regs]

theorem stepEnded_issued {k j : Nat} {s t : State} (h : StepEnded k s t) : StepEnded k s (issued j t) := by
  obtain ⟨hstep, hpc, hregs, hpreds, hrep, hbad⟩ := h
  simp only [StepEnded, Steps, getTh_issued]
  exact ⟨hstep, hpc, hregs, hpreds, hrep, by rw [issued_eq]; exact hbad⟩

theorem keepsRegs_issued {k j : Nat} {s t : State} (h : KeepsRegs k s t) : KeepsRegs k s (issued j t) := fun r => by rw [sreg_issued, h r]

theorem getQ_issued (k q : Nat) (s : State) : getQ (issued k s) q = getQ s q := by simp [getQ]

/-! ### A push and a pop -/

/-- The address of the slot of TAIL. -/
def tailSlot (x : Queue) : Nat := x.base + x.tail % 2 ^ x.lg * x.esz

theorem entryOf_length {x : Queue} {bs : List Byte} (h : bs.length = x.esz) : (entryOf x bs).length = x.esz := by
  have : 1 ≤ 2 ^ x.esize := Nat.one_le_two_pow
  unfold entryOf
  split
  · simp only [List.length_append, leBytes_length, List.length_drop, h, Queue.esz]
    omega
  · exact h

section
variable {q : Nat} {bs : List Byte} {s u : State}

/-- A push: where the entry lands, and what it leaves of queues and threads. -/
theorem pushEntry_effect (q : Nat) (bs : List Byte) (u : State) :
    ∃ v, ScalarsKept u v ∧ v = putBytes (bySlice u q) (tailSlot (getQ u q)) (entryOf (getQ u q) bs) u ∧
      (pushEntry q bs u).mem = v.mem ∧ (pushEntry q bs u).lv = v.lv ∧
      (pushEntry q bs u).queue = tmod u.queue q fun x =>
        { x with tail := x.adv x.tail 1, pushed := x.pushed.add 1, came := x.came ++ (if x.cons = 5 then [v.ktime] else []) } := by
  have he : (if (getQ u q).isTile then leBytes 6 ((getQ u q).bufAddr (getQ u q).tail) ++ bs.drop 6 else bs) = entryOf (getQ u q) bs := by
    simp only [Queue.isTile, decide_eq_true_eq, entryOf]
    rfl
  have hkept := scalarsKept_putBytes (bySlice u q) (tailSlot (getQ u q)) (entryOf (getQ u q) bs) u
  refine ⟨_, hkept, rfl, ?_, ?_, ?_⟩
  · dsimp only [pushEntry]
    rw [notifyPush_eq, he]
    rfl
  · dsimp only [pushEntry]
    rw [notifyPush_eq, he]
    rfl
  · dsimp only [pushEntry]
    rw [notifyPush_eq, he, ← hkept.queue]
    rfl

theorem scalars_pushEntry (q : Nat) (bs : List Byte) (u : State) : (pushEntry q bs u).lv.threads = u.lv.threads ∧
    (pushEntry q bs u).lv.badReg = u.lv.badReg := by
  obtain ⟨v, hkept, -, -, hlv, -⟩ := pushEntry_effect q bs u
  rw [hlv]
  exact ⟨hkept.threads, hkept.badReg⟩

theorem pushEntry_cells (h : PlaceOpen u (tailSlot (getQ u q)) (entryOf (getQ u q) bs).length) :
    (pushEntry q bs u).mem.cells = twrite u.mem.cells (tailSlot (getQ u q)) (entryOf (getQ u q) bs) := by
  obtain ⟨v, -, hv, hmem, -, -⟩ := pushEntry_effect q bs u
  rw [hmem, hv, putBytes_cells _ h]

theorem pushed_pushEntry (q : Nat) (bs : List Byte) (u : State) : Pushed q u (pushEntry q bs u) := by
  obtain ⟨v, -, -, -, -, hq⟩ := pushEntry_effect q bs u
  have hsame : getQ (pushEntry q bs u) q = _ := (congrArg (tget · q) hq).trans (tget_tmod_same ..)
  refine ⟨by rw [hsame]; rfl, by rw [hsame]; rfl, by rw [hsame]; rfl, by rw [hsame]; rfl, fun j hj => ?_⟩
  exact (congrArg (tget · j) hq).trans (tget_tmod_ne _ _ hj)

end

theorem popEntry_effect (q : Nat) (u : State) : (popEntry q u).mem = u.mem ∧ (popEntry q u).lv = u.lv ∧
    (popEntry q u).queue = tmod u.queue q fun x =>
      { x with head := x.adv x.head 1, retire := if x.isTile then x.retire else x.adv x.head 1, popped := x.popped.add 1, came := x.came.drop 1 } := by
  have h := getBytes_eq (bySlice u q) ((getQ u q).slotAddr (getQ u q).head) (getQ u q).esz u
  refine ⟨?_, ?_, ?_⟩
  · exact congrArg (·.mem) h
  · exact congrArg (·.lv) h
  · have hq : (headRead q u).1.queue = u.queue := congrArg (·.queue) h
    dsimp only [popEntry, modQ]
    rw [hq]

/-- A state that differs from `s` in which thread a queue's end belongs to, and in nothing else that a push or a pop reads or keeps. -/
structure EndTaken (k q : Nat) (s u : State) : Prop where
  regs : RegsKept k s u
  leaf : u.lv.leaf = s.lv.leaf
  queue : ∃ p c, getQ u q = { getQ s q with pThread := p, cThread := c }
  others : ∀ j, j ≠ q → getQ u j = getQ s j

theorem endTaken_modQ (k q : Nat) (s : State) {f : Queue → Queue} (h : ∀ x, ∃ p c, f x = { x with pThread := p, cThread := c }) :
    EndTaken k q s (modQ s q f) :=
  ⟨⟨rfl, rfl, rfl⟩, rfl, by rw [getQ_modQ_same]; exact h _, fun _ hj => getQ_modQ_ne _ _ hj⟩

theorem endTaken_modTh {k : Nat} (q : Nat) {s : State} {f : Thread → Thread} (h : ∀ t, (f t).regs = t.regs ∧ (f t).pc = t.pc) :
    EndTaken k q s (modTh s k f) := ⟨regsKept_modTh h s, rfl, ⟨_, _, rfl⟩, fun _ _ => rfl⟩

theorem EndTaken.trans {k q : Nat} {s t u : State} (a : EndTaken k q s t) (b : EndTaken k q t u) : EndTaken k q s u := by
  obtain ⟨p, c, h1⟩ := a.queue
  obtain ⟨p', c', h2⟩ := b.queue
  exact ⟨a.regs.trans b.regs, b.leaf.trans a.leaf, ⟨p', c', by rw [h2, h1]⟩, fun j hj => (b.others j hj).trans (a.others j hj)⟩

section
variable {k q : Nat} {s u : State} {bs : List Byte}

theorem EndTaken.pushed (h : EndTaken k q s u) : Pushed q s (pushEntry q bs u) := by
  obtain ⟨htail, hhead, hretire, hcount, hother⟩ := pushed_pushEntry q bs u
  obtain ⟨p, c, hq⟩ := h.queue
  rw [hq] at htail hhead hretire hcount
  exact ⟨htail, hhead, hretire, hcount, fun j hj => (hother j hj).trans (h.others j hj)⟩

theorem EndTaken.popped (h : EndTaken k q s u) : Popped q s (popEntry q u) := by
  obtain ⟨-, -, heff⟩ := popEntry_effect q u
  obtain ⟨p, c, hq⟩ := h.queue
  have hsame : getQ (popEntry q u) q = _ := (congrArg (tget · q) heff).trans (tget_tmod_same ..)
  have hq' : tget u.queue q = { getQ s q with pThread := p, cThread := c } := hq
  rw [hq'] at hsame
  refine ⟨by rw [hsame]; rfl, by rw [hsame], ?_, by rw [hsame], fun j hj => ?_⟩
  · rw [hsame]
    simp only [Queue.isTile, decide_eq_true_eq]
  · exact ((congrArg (tget · j) heff).trans (tget_tmod_ne _ _ hj)).trans (h.others j hj)

/-- The entry that a push put into the slot of TAIL stands there. -/
theorem EndTaken.push_cells (h : EndTaken k q s u) (hlen : bs.length = (getQ s q).esz)
    (hopen : PlaceOpen s (tailSlot (getQ s q)) (getQ s q).esz) :
    (pushEntry q bs u).mem.cells = twrite u.mem.cells (tailSlot (getQ s q)) (entryOf (getQ s q) bs) := by
  obtain ⟨p, c, hq⟩ := h.queue
  have hslot : tailSlot (getQ u q) = tailSlot (getQ s q) := by rw [hq]; rfl
  have hentry : entryOf (getQ u q) bs = entryOf (getQ s q) bs := by rw [hq]; rfl
  have hopen' : PlaceOpen u (tailSlot (getQ u q)) (entryOf (getQ u q) bs).length := by
    rw [hslot, hentry, entryOf_length hlen]
    simpa only [PlaceOpen, segsOf, getLeaf, h.leaf] using hopen
  rw [pushEntry_cells hopen', hslot, hentry]

theorem EndTaken.push_regs (h : EndTaken k q s u) : RegsKept k s (pushEntry q bs u) := by
  obtain ⟨hth, hbad⟩ := scalars_pushEntry q bs u
  exact h.regs.trans ⟨by simp only [getTh, hth], by simp only [getTh, hth], hbad⟩

theorem EndTaken.pop_regs (h : EndTaken k q s u) : RegsKept k s (popEntry q u) := by
  obtain ⟨-, hlv, -⟩ := popEntry_effect q u
  exact h.regs.trans ⟨by simp only [getTh, hlv], by simp only [getTh, hlv], by rw [hlv]⟩

end

theorem getQ_issued_endStep (j k q : Nat) (t : State) : getQ (issued j (endStep k t)) q = getQ t q := by rw [getQ_issued]; rfl

theorem pushed_issued_endStep {q j k : Nat} {s t : State} (h : Pushed q s t) : Pushed q s (issued j (endStep k t)) := by
  unfold Pushed
  simp only [getQ_issued_endStep]
  exact h

theorem popped_issued_endStep {q j k : Nat} {s t : State} (h : Popped q s t) : Popped q s (issued j (endStep k t)) := by
  unfold Popped
  simp only [getQ_issued_endStep]
  exact h

/-! ### The queue instructions -/

section
variable {w : Thr} {rs1 rs2 : BitVec 5} {qn : BitVec 8} {s : State} {q : Nat} {a : Word} {bs : List Byte}

/-- A push of a thread that is no dual job's: the entry is pushed from a state in which the thread holds the queue's end. -/
theorem exec_qpush (hi : CanIssue w s) (hq : LocalQ w s rs2 qn q) (ha : Reads w s rs1 a) (hprod : isProducer s (thrKey w) q = true)
    (hal : a.toNat % (getQ s q).esz = 0) (hr : SpReads s (thrKey w / 64) a.toNat (getQ s q).esz bs) (hidle : idleTh s (thrKey w) = true)
    (hfull : (getQ s q).full = false) (hcopy : ∀ e j, runningJob s (thrKey w / 64) = some (e, j) → j.copy = 0)
    (hheld : (getTh s (thrKey w)).heldPush = none) : ∃ u, EndTaken (thrKey w) q s u ∧ u.mem = s.mem ∧
      exec (.qpush w rs1 rs2 qn) s = .next (issued (thrKey w) (endStep (thrKey w) (pushEntry q bs u))) := by
  have hlocal : ∃ u, u = (modQ s q fun x => if x.isTile then { x with pThread := thrKey w + 1 } else x) ∧ EndTaken (thrKey w) q s u ∧ u.mem = s.mem :=
    ⟨_, rfl, endTaken_modQ _ _ _ fun x => by
      split
      · exact ⟨_, _, rfl⟩
      · exact ⟨_, _, rfl⟩, rfl⟩
  obtain ⟨u, hu, htaken, hmem⟩ := hlocal
  show ∃ u, _ ∧ _ ∧ execQpush w rs1 rs2 qn s = _
  rcases hrun : runningJob s (thrKey w / 64) with _ | ⟨e, j⟩
  · refine ⟨u, htaken, hmem, congrArg Host.Outcome.next (issue_ok hi ?_)⟩
    simp only [hq, ha, hr, hprod, hal, hidle, hfull, hrun, hu, Except.bind, Bool.not_true, Bool.false_eq_true, if_false, ne_eq, not_true_eq_false]
  · by_cases hown : (getQ s q).owner = 0
    · rcases hext : extBuffer s j (getTh s (thrKey w)).station q with _ | i
      · refine ⟨u, htaken, hmem, congrArg Host.Outcome.next (issue_ok hi ?_)⟩
        simp only [hq, ha, hr, hprod, hal, hidle, hfull, hrun, hu, hown, hext, Except.bind, Bool.not_true, Bool.false_eq_true, if_false,
          ne_eq, not_true_eq_false, if_true, Option.map]
      · refine ⟨modTh (sign (thrKey w) i 0 bs s) (thrKey w) fun t => { t with heldPush := none },
          ?_, rfl, congrArg Host.Outcome.next (issue_ok hi ?_)⟩
        · refine EndTaken.trans (t := sign (thrKey w) i 0 bs s) (endTaken_modTh q ?_) (endTaken_modTh q ?_) <;> exact fun _ => ⟨rfl, rfl⟩
        · simp only [hq, ha, hr, hprod, hal, hidle, hfull, hrun, hown, hext, hheld, hcopy e j hrun, Except.bind, Bool.not_true,
            Bool.false_eq_true, if_false, ne_eq, not_true_eq_false, if_true, Option.map, decide_false, Bool.false_and, Option.isNone_none]
    · refine ⟨u, htaken, hmem, congrArg Host.Outcome.next (issue_ok hi ?_)⟩
      simp only [hq, ha, hr, hprod, hal, hidle, hfull, hrun, hu, hown, Except.bind, Bool.not_true, Bool.false_eq_true, if_false, ne_eq,
        not_true_eq_false]

/-- A push waits while its queue is full (R149). -/
theorem exec_qpush_full (hi : CanIssue w s) (hq : LocalQ w s rs2 qn q) (ha : Reads w s rs1 a) (hprod : isProducer s (thrKey w) q = true)
    (hal : a.toNat % (getQ s q).esz = 0) (hr : SpReads s (thrKey w / 64) a.toNat (getQ s q).esz bs)
    (hfull : (getQ s q).full = true) (hcopy : ∀ e j, runningJob s (thrKey w / 64) = some (e, j) → j.copy = 0) :
    exec (.qpush w rs1 rs2 qn) s = .next s := by
  refine congrArg Host.Outcome.next (issue_stop (e := .wait) hi ?_)
  rcases hrun : runningJob s (thrKey w / 64) with _ | ⟨e, j⟩
  · simp only [hq, ha, hr, hprod, hal, hfull, Except.bind, Bool.not_true, Bool.false_eq_true, if_false, ne_eq, not_true_eq_false, if_true,
      ite_self]
  · by_cases hown : (getQ s q).owner = 0
    · rcases hext : extBuffer s j (getTh s (thrKey w)).station q with _ | i
      · simp only [hq, ha, hr, hprod, hal, hfull, hown, hext, Except.bind, Option.map, Bool.not_true, Bool.false_eq_true, if_false, ne_eq,
          not_true_eq_false, if_true, ite_self]
      · simp only [hq, ha, hr, hprod, hal, hfull, hown, hext, hcopy e j hrun, Except.bind, Option.map, Bool.not_true, Bool.false_eq_true,
          if_false, ne_eq, not_true_eq_false, if_true, decide_false, Bool.false_and, ite_self]
    · simp only [hq, ha, hr, hprod, hal, hfull, hown, Except.bind, Bool.not_true, Bool.false_eq_true, if_false, ne_eq, not_true_eq_false,
        if_true, ite_self]

/-! #### Pops -/

theorem popChk_ok {k : Nat} (hq : localQ k rs2 qn s = .ok q) (ha : sreg s k rs1 = .ok a) (hcons : isConsumer s k q = true)
    (hal : a.toNat % (getQ s q).esz = 0) (hopen : SpOpen s (k / 64) a.toNat (getQ s q).esz) (hidle : idleTh s k = true) :
    popChk rs1 rs2 qn k s = .ok (q, a) := by
  have hfit : ¬ spBytes < a.toNat + (getQ s q).esz := by
    have := hopen.1
    simp only [spBytes]
    omega
  simp only [popChk, hq, ha, hcons, hal, hfit, hidle, Except.bind, Bool.not_true, Bool.false_eq_true, if_false, ne_eq, not_true_eq_false]

/-- A pop brings the entry at HEAD to the scratchpad. -/
theorem popTo_ok {k : Nat} (hopen : SpOpen s (k / 64) a.toNat (getQ s q).esz) : ∃ u, popTo k q a s = .ok (popEntry q u) ∧
    EndTaken k q s u ∧ Stored (spBase (k / 64) + a.toNat) (headEntry s q) s (popEntry q u) := by
  have hlen := headEntry_length s q
  set v := spPut (k / 64) a.toNat 0 (headEntry s q) s with hv
  have hput : PutOnly s v := putOnly_spPut ..
  have hu : EndTaken k q s v := ⟨(scalarsKept_spPut ..).regsKept k, by rw [hput], ⟨_, _, by rw [hput]; rfl⟩, fun j _ => by rw [hput]; rfl⟩
  obtain ⟨hmem, hlv, -⟩ := popEntry_effect q (modQ v q fun x => if x.isTile then { x with cThread := k + 1 } else x)
  obtain ⟨hread, hgood, hout⟩ := stored_spPut (k / 64) a.toNat 0 (headEntry s q) s
  refine ⟨modQ v q fun x => if x.isTile then { x with cThread := k + 1 } else x, ?_, hu.trans (endTaken_modQ k q v fun x => ?_), ?_, ?_, ?_⟩
  · rw [popTo, spWrite_ok (by rw [hlen]; exact hopen.1) (by rw [hlen]; exact hopen.2)]
    rfl
  · split
    · exact ⟨_, _, rfl⟩
    · exact ⟨_, _, rfl⟩
  · rw [memRead, hmem]; exact hread
  · rw [hlv]; exact hgood
  · rw [MemOutside, hmem]; exact hout

end

theorem stored_issued_endStep {a j k : Nat} {bs : List Byte} {s t : State} (h : Stored a bs s t) : Stored a bs s (issued j (endStep k t)) := by
  obtain ⟨hread, hgood, hout⟩ := h
  refine ⟨?_, ?_, ?_⟩
  · rw [memRead, issued_mem, endStep_mem]; exact hread
  · rw [issued_eq]; exact hgood
  · rw [MemOutside, issued_mem, endStep_mem]; exact hout

theorem regsKept_setPred (k p : Nat) (b : Bool) (s : State) : RegsKept k s (setPred k p b s) := by
  unfold setPred
  refine regsKept_modTh ?_ s
  exact fun _ => ⟨rfl, rfl⟩

/-- A step that ends with a predicate set or cleared. -/
theorem setPred_endStep {k p : Nat} {s u : State} (h : RegsKept k s u) (b : Bool) (hp : p < 8) :
    let t := issued k (endStep k (setPred k p b u))
    (getTh t k).preds.getLsbD p = b ∧ StepEnded k s t ∧ KeepsRegs k s t := by
  obtain ⟨hend, hkeep⟩ := stepEnded_endStep (h.trans (regsKept_setPred k p b u))
  obtain ⟨sh, hth, -⟩ := getTh_endStep_same k (setPred k p b u)
  refine ⟨?_, stepEnded_issued hend, keepsRegs_issued hkeep⟩
  rw [getTh_issued, hth]
  exact (getLsbD_setPred u k p b hp).trans (if_pos rfl)

theorem queuePushAndPop : QueuePushAndPop := by
  refine ⟨?push, ?full, ?pop, ?try_⟩
  case push =>
    intro w rs1 rs2 qn s q a bs hi hq ha hprod hal hr hidle hfull hcopy hheld hopen
    obtain ⟨u, htaken, hmem, hexec⟩ := exec_qpush hi hq ha hprod hal hr hidle hfull hcopy hheld
    have hlen : bs.length = (getQ s q).esz := by rw [spRead_mem hr, memRead_length]
    have hcells : (issued (thrKey w) (endStep (thrKey w) (pushEntry q bs u))).mem.cells =
        twrite s.mem.cells (tailSlot (getQ s q)) (entryOf (getQ s q) bs) := by
      rw [issued_mem, endStep_mem, htaken.push_cells hlen hopen, hmem]
    obtain ⟨hend, hkeep⟩ := stepEnded_endStep (htaken.push_regs (bs := bs))
    refine ⟨_, hexec, pushed_issued_endStep htaken.pushed, ?_, fun x hx => ?_, stepEnded_issued hend, keepsRegs_issued hkeep⟩
    · have hstored := tread_twrite (entryOf (getQ s q) bs) s.mem.cells (tailSlot (getQ s q))
      rw [entryOf_length hlen] at hstored
      rw [memRead, hcells]
      exact hstored
    · rw [hcells]
      exact tget_twrite_out _ _ (by rw [entryOf_length hlen]; exact hx)
  case full =>
    exact fun w rs1 rs2 qn s q a bs hi hq ha hprod hal hr hfull hcopy => exec_qpush_full hi hq ha hprod hal hr hfull hcopy
  case pop =>
    intro w rs1 rs2 qn s q a hi hq ha hcons hal hopen hidle
    have hchk := popChk_ok hq ha hcons hal hopen hidle
    split
    · next hempty =>
      refine congrArg Host.Outcome.next (issue_stop (e := .wait) hi ?_)
      simp only [hchk, Except.bind, hempty, if_true]
    · next hsome =>
      obtain ⟨u, hpop, htaken, hstored⟩ := popTo_ok hopen
      obtain ⟨hend, hkeep⟩ := stepEnded_endStep htaken.pop_regs
      refine runs_issue (t := endStep (thrKey w) (popEntry q u)) rfl hi ?_ ⟨popped_issued_endStep htaken.popped, stored_issued_endStep hstored,
        stepEnded_issued hend, keepsRegs_issued hkeep⟩
      simp only [hchk, Except.bind, hsome, if_false, hpop, Except.map]
  case try_ =>
    intro w rs1 rs2 qn p s q a hi hq ha hcons hal hopen hidle
    have hchk := popChk_ok hq ha hcons hal hopen hidle
    by_cases hempty : (getQ s q).len = 0
    · obtain ⟨hpred, hend, hkeep⟩ := setPred_endStep (.mk rfl rfl rfl : RegsKept (thrKey w) s s) false p.isLt
      refine runs_issue (t := endStep (thrKey w) (setPred (thrKey w) p.toNat false s)) rfl hi ?_ ⟨?_, hend, hkeep, ?_⟩
      · simp only [hchk, Except.bind, hempty, if_true]
      · rw [hpred, decide_eq_false (by simp [hempty])]
      · rw [if_pos hempty]
        exact ⟨fun x => by rw [issued_mem]; rfl, by rw [issued_queue]; rfl⟩
    · obtain ⟨u, hpop, htaken, hstored⟩ := popTo_ok hopen
      obtain ⟨hpred, hend, hkeep⟩ := setPred_endStep htaken.pop_regs true p.isLt
      refine runs_issue (t := endStep (thrKey w) (setPred (thrKey w) p.toNat true (popEntry q u))) rfl hi ?_ ⟨?_, hend, hkeep, ?_⟩
      · simp only [hchk, Except.bind, hempty, if_false, hpop, Except.map]
      · rw [hpred, decide_eq_true hempty]
      · rw [if_neg hempty]
        exact ⟨popped_issued_endStep htaken.popped, stored_issued_endStep hstored⟩

/-! #### Buffers, retirement and lengths -/

theorem queueWaitRetireLength : QueueWaitRetireLength := by
  refine ⟨?wait, ?ret, ?len⟩
  case wait =>
    intro w rd rs2 qn s q hi hq hprod htile hfull heven
    have haddr : (getQ s q).bufAddr (getQ s q).tail = (getQ s q).tbase + (getQ s q).tail % 2 ^ (getQ s q).lg * (getQ s q).stride := rfl
    rw [← haddr]
    set x := (getQ s q).bufAddr (getQ s q).tail
    refine runs_issueNext (t := setReg (thrKey w) (rd + 1) (BitVec.ofNat 32 (x / 2 ^ 32)) (setReg (thrKey w) rd (BitVec.ofNat 32 x) s)) rfl hi ?_
      ⟨fun hrd => ?_, ?_, fun r h1 h2 => ?_, by simp [Steps], scalarFrame_issued (((ownRegs_setReg ..).trans (ownRegs_setReg ..)).trans (ownRegs_adv ..))⟩
    · simp only [evenReg_of_mod heven, hq, hprod, hfull, Queue.isTile, htile, Except.bind, Bool.not_true, decide_true, Bool.or_self,
        Bool.false_eq_true, if_false, x]
    · rw [sreg_issued, sreg_adv, sreg_setReg_ne _ _ _ (succ_ne_self rd).symm, sreg_setReg_same _ _ _ hrd]
    · rw [sreg_issued, sreg_adv, sreg_setReg_same _ _ _ (succ_ne_zero_of_even heven)]
    · rw [sreg_issued, sreg_adv, sreg_setReg_ne _ _ _ h2, sreg_setReg_ne _ _ _ h1]
  case ret =>
    intro w rs1 rs2 qn s q a hi hq ha hcons htile hpos hle hidle
    obtain ⟨hend, hkeep⟩ := stepEnded_endStep (.mk rfl rfl rfl : RegsKept (thrKey w) s s)
    refine runs_issue (t := modQ (endStep (thrKey w) s) q fun y => { y with retire := y.adv y.retire a.toNat }) rfl hi ?_
      ⟨?_, fun j hj => ?_, stepEnded_issued hend, keepsRegs_issued hkeep, fun x => by rw [issued_mem]; rfl⟩
    · have hbound : ¬ (a.toNat = 0 ∨ (getQ s q).dist (getQ s q).retire (getQ s q).head < a.toNat) := by
        simp only [Queue.dist]; omega
      simp only [hq, ha, hcons, hidle, hbound, Queue.isTile, htile, Except.bind, Bool.not_true, decide_true, Bool.or_self,
        Bool.false_eq_true, if_false]
    · rw [getQ_issued, getQ_modQ_same]
      rfl
    · rw [getQ_issued, getQ_modQ_ne _ _ hj]
      rfl
  case len =>
    intro w rd rs2 qn s q hi hq hends
    obtain ⟨t, hexec, hreg, -, hstep, hframe⟩ := runs_regResult (c := .qlen w rd rs2 qn) (rd := rd) (v := BitVec.ofNat 32 (getQ s q).len) rfl hi
      (by simp only [hq, hends, Except.bind, Bool.not_true, Bool.false_eq_true, if_false])
    exact ⟨t, hexec, hreg, hstep, hframe⟩

/-- Settles O17: a push and a pop move one entry and end the step, and each waits where it must. -/
theorem queueInstructions : Obligations.QueueInstructions := ⟨queuePushAndPop, queueWaitRetireLength⟩

end Sys2Proof.Machine

/-! Records of the Caddy (R516 to R518): what a run of events leaves in the ring. -/

namespace Sys2Proof.Machine
open Sys2Proof.Claims

/-- Slot of the `i`-th record from here. -/
def Caddy.slotNth (c : Caddy) (i : Nat) : Nat :=
  if c.frozen then (c.marker + 1 + (c.tail + i) % 1024) % 65536 else (c.next + i) % 65536

theorem Caddy.slot_eq (c : Caddy) : c.slot = c.slotNth 0 := rfl

theorem Caddy.slotNth_put (c : Caddy) (r : CadRec) (i : Nat) : (c.put r).slotNth i = c.slotNth (i + 1) := by
  unfold Caddy.slotNth Caddy.put
  cases c.frozen
  · simp only [Bool.false_eq_true, if_false]
    omega
  · simp only [if_true]
    rw [show c.tail + 1 + i = c.tail + (i + 1) by omega]

theorem Caddy.slotNth_inj (c : Caddy) {i j : Nat} (h : c.slotNth i = c.slotNth j) (hi : i < 1024) (hj : j < 1024) : i = j := by
  unfold Caddy.slotNth at h
  split at h <;> omega

/-- Records that are written one after the other. -/
def Caddy.putAll (c : Caddy) (rs : List CadRec) : Caddy := rs.foldl Caddy.put c

theorem ring_putAll_other (rs : List CadRec) (c : Caddy) {x : Nat} (h : ∀ i < rs.length, x ≠ c.slotNth i) :
    tget (c.putAll rs).ring x = tget c.ring x := by
  induction rs generalizing c with
  | nil => rfl
  | cons r rs ih =>
    have hrest := ih (c.put r) fun i hi => by rw [Caddy.slotNth_put]; exact h (i + 1) (by simpa using hi)
    refine hrest.trans ?_
    exact tget_tput_ne _ _ (h 0 (by simp))

/-- The `i`-th of up to 1,024 records stands in its slot. -/
theorem ring_putAll (rs : List CadRec) (c : Caddy) {i : Nat} (hi : i < rs.length) (hlen : rs.length ≤ 1024) :
    ∃ q, tget (c.putAll rs).ring (c.slotNth i) = { rs[i] with seq := q } ∧ (i = 0 → q = c.next) := by
  induction rs generalizing c i with
  | nil => simp at hi
  | cons r rs ih =>
    have hlen' : rs.length + 1 ≤ 1024 := by simpa using hlen
    cases i with
    | zero =>
      refine ⟨c.next, ?_, fun _ => rfl⟩
      have hrest : tget ((c.put r).putAll rs).ring (c.slotNth 0) = tget (c.put r).ring (c.slotNth 0) :=
        ring_putAll_other rs (c.put r) fun j hj h => by
          rw [Caddy.slotNth_put] at h
          have := c.slotNth_inj h (by omega) (by omega)
          omega
      exact hrest.trans (tget_tput_same ..)
    | succ i =>
      obtain ⟨q, hq, -⟩ := ih (c.put r) (i := i) (by simpa using hi) (by omega)
      rw [Caddy.slotNth_put] at hq
      exact ⟨q, hq, fun h => absurd h (by omega)⟩

/-- The record of an event (R517). -/
def recOf (src code party : Nat) (args : List Byte) (s : State) : CadRec :=
  { ktime := s.ktime, source := src, code := code, party := partyByte party, sev := sevOf code, args := args.take 12 }

@[simp] theorem getTh_event (src code party k : Nat) (args : List Byte) (s : State) : getTh (event src code party args s) k = getTh s k := rfl
@[simp] theorem getLeaf_event (src code party l : Nat) (args : List Byte) (s : State) : getLeaf (event src code party args s) l = getLeaf s l := rfl

theorem event_caddy (src code party : Nat) (args : List Byte) (s : State) :
    (event src code party args s).caddy = s.caddy.put (recOf src code party args s) := rfl

/-- The records `rs` are what the Caddy has taken since `s`, all at the same Kettle time. -/
structure Wrote (rs : List CadRec) (s t : State) : Prop where
  caddy : t.caddy = s.caddy.putAll rs
  ktime : t.ktime = s.ktime

theorem Wrote.refl (s : State) : Wrote [] s s := ⟨rfl, rfl⟩

theorem Wrote.event {rs : List CadRec} {s t : State} (h : Wrote rs s t) (src code party : Nat) (args : List Byte) :
    Wrote (rs ++ [recOf src code party args s]) s (event src code party args t) := by
  refine ⟨?_, h.ktime⟩
  rw [event_caddy, h.caddy, Caddy.putAll, Caddy.putAll, List.foldl_append]
  simp only [recOf, h.ktime]
  rfl

theorem Wrote.same {rs : List CadRec} {s t u : State} (h : Wrote rs s t) (hc : u.caddy = t.caddy) (hk : u.ktime = t.ktime) : Wrote rs s u :=
  ⟨hc.trans h.caddy, hk.trans h.ktime⟩

theorem Wrote.logsNth {rs : List CadRec} {s t : State} {i : Nat} (h : Wrote rs s t) (hi : i < rs.length) (hlen : rs.length ≤ 1024)
    {src code party : Nat} {args : List Byte} (hr : rs[i] = recOf src code party args s) (hargs : args.length ≤ 12) :
    LogsNth i code src args s t := by
  obtain ⟨q, hq, -⟩ := ring_putAll rs s.caddy hi hlen
  rw [← h.caddy, hr] at hq
  show (tget t.caddy.ring (s.caddy.slotNth i)).code = _ ∧ (tget t.caddy.ring (s.caddy.slotNth i)).source = _ ∧
    (tget t.caddy.ring (s.caddy.slotNth i)).args = _ ∧ (tget t.caddy.ring (s.caddy.slotNth i)).ktime = _
  rw [hq]
  exact ⟨rfl, rfl, List.take_of_length_le hargs, rfl⟩

theorem Wrote.logs {r : CadRec} {rs : List CadRec} {s t : State} (h : Wrote (r :: rs) s t) (hlen : rs.length < 1024)
    {src code party : Nat} {args : List Byte} (hr : r = recOf src code party args s) (hargs : args.length ≤ 12) :
    Logs code src args s t := by
  obtain ⟨q, hq, hnext⟩ := ring_putAll (r :: rs) s.caddy (i := 0) (by simp) (by simpa using hlen)
  rw [← h.caddy, List.getElem_cons_zero, hr, hnext rfl, ← Caddy.slot_eq] at hq
  unfold Logs
  rw [hq]
  exact ⟨rfl, rfl, List.take_of_length_le hargs, rfl, rfl⟩

/-- One event, in a state that has the Caddy and the time of `s`. -/
theorem logs_event {s u t : State} {src code party : Nat} {args : List Byte} (hargs : args.length ≤ 12) (hc : u.caddy = s.caddy)
    (hk : u.ktime = s.ktime) (ht : t.caddy = (event src code party args u).caddy) (htk : t.ktime = s.ktime) : Logs code src args s t := by
  have h : Wrote [recOf src code party args s] s t :=
    (((Wrote.refl s).same hc hk).event src code party args).same ht (htk.trans hk.symm)
  exact h.logs (by simp) rfl hargs

/-! ### Waits, barriers and halts (R65, R88, R154) -/

theorem thrKey_eq (w : Thr) : thrKey w / 64 * 64 + thrKey w % 64 = thrKey w := by omega

theorem mode_of_ready {s : State} {k : Nat} (h : ready s k = true) : (getTh s k).mode = .running := by
  simp only [ready, Bool.and_eq_true, decide_eq_true_eq] at h
  exact h.1.1.1.1

/-- Threads that are set running, one after the other. -/
def runAll (ks : List Nat) (s : State) : State := ks.foldl (fun s x => modTh s x fun t => { t with mode := .running }) s

theorem getTh_runAll (ks : List Nat) (s : State) (j : Nat) :
    getTh (runAll ks s) j = if j ∈ ks then { getTh s j with mode := .running } else getTh s j := by
  induction ks generalizing s with
  | nil => simp [runAll]
  | cons x ks ih =>
    have hstep : getTh (runAll (x :: ks) s) j = _ := ih (modTh s x fun t => { t with mode := .running })
    rw [hstep, getTh_modTh]
    by_cases hx : j = x
    · subst hx; simp
    · simp [hx]

theorem runAll_eq (ks : List Nat) (s : State) : runAll ks s = { s with lv := { s.lv with threads := (runAll ks s).lv.threads } } := by
  induction ks generalizing s with
  | nil => rfl
  | cons x ks ih => exact ih (modTh s x fun t => { t with mode := .running })

/-- The threads at a barrier are those that were there, and the one that has just come. -/
theorem mem_atBarrier_arrived {k n c : Nat} {s u : State} (hmine : getTh u k = { getTh s k with mode := .barrier n c, pc := (getTh u k).pc, shadow := (getTh u k).shadow, replays := (getTh u k).replays })
    (hothers : ∀ j, j ≠ k → getTh u j = getTh s j) (hrun : (getTh s k).mode = .running) (hbound : (getTh s k).bound = true) :
    ∀ x, x ∈ atBarrier u k n ↔ x = k ∨ x ∈ atBarrier s k n := by
  intro x
  have hst : (getTh u k).station = (getTh s k).station ∧ (getTh u k).inst = (getTh s k).inst := by rw [hmine]; exact ⟨rfl, rfl⟩
  by_cases hx : x = k
  · subst hx
    refine ⟨fun _ => .inl rfl, fun _ => ?_⟩
    unfold atBarrier
    simp only [List.mem_filter, List.mem_map, List.mem_range]
    refine ⟨⟨x % 64, Nat.mod_lt _ (by decide), by omega⟩, ?_⟩
    rw [hmine]
    simp [hbound]
  · simp only [hx, false_or]
    unfold atBarrier
    simp only [List.mem_filter, hothers x hx, hst]

theorem atBarrier_nodup (s : State) (k n : Nat) : (atBarrier s k n).Nodup := by
  refine List.Nodup.filter _ (List.Nodup.map (fun i j h => ?_) List.nodup_range)
  simpa using h

theorem not_mem_atBarrier {k n : Nat} {s : State} (h : (getTh s k).mode = .running) : k ∉ atBarrier s k n := by
  simp [atBarrier, h]

theorem length_atBarrier_arrived {k n : Nat} {s u : State} (h : ∀ x, x ∈ atBarrier u k n ↔ x = k ∨ x ∈ atBarrier s k n)
    (hrun : (getTh s k).mode = .running) : (atBarrier u k n).length = (atBarrier s k n).length + 1 := by
  have hperm : (atBarrier u k n).Perm (k :: atBarrier s k n) :=
    (List.perm_ext_iff_of_nodup (atBarrier_nodup ..) (List.nodup_cons.2 ⟨not_mem_atBarrier hrun, atBarrier_nodup ..⟩)).2 fun x => by
      rw [h x, List.mem_cons]
  exact hperm.length_eq

theorem stepEnded_mode {k : Nat} {m : ThMode} {s v t : State} (h : StepEnded k s v) (hth : getTh t k = { getTh v k with mode := m })
    (hb : t.lv.badShadow = v.lv.badShadow) : StepEnded k s t := by
  unfold StepEnded Steps at *
  rw [hth, hb]
  exact h

theorem keepsRegs_mode {k : Nat} {m : ThMode} {s v t : State} (h : KeepsRegs k s v) (hth : getTh t k = { getTh v k with mode := m })
    (hb : t.lv.badReg = v.lv.badReg) : KeepsRegs k s t := fun r => by
  rw [← h r, sreg, sreg, hth, hb]

theorem runs_bar {w : Thr} {nb : BitVec 4} {cnt : BitVec 6} {s : State} (hi : CanIssue w s) (hidle : idleTh s (thrKey w) = true)
    (hbound : (getTh s (thrKey w)).bound = true) :
    Runs (.bar w nb cnt) s fun t => KeepsRegs (thrKey w) s t ∧ StepEnded (thrKey w) s t ∧ MemSame s t ∧
      (if (atBarrier s (thrKey w) nb.toNat).length + 1 < cnt.toNat + 1 then
        (getTh t (thrKey w)).mode = .barrier nb.toNat (cnt.toNat + 1) ∧ ∀ j, j ≠ thrKey w → getTh t j = getTh s j
      else (getTh t (thrKey w)).mode = .running ∧ (∀ j ∈ atBarrier s (thrKey w) nb.toNat, (getTh t j).mode = .running) ∧
        ∀ j, j ≠ thrKey w → j ∉ atBarrier s (thrKey w) nb.toNat → getTh t j = getTh s j) := by
  have hrun := mode_of_ready hi.1
  generalize hk : thrKey w = k at *
  obtain ⟨hend, hkeep⟩ := stepEnded_endStep (.mk rfl rfl rfl : RegsKept k s s)
  obtain ⟨sh, hsame, -⟩ := getTh_endStep_same k s
  set u := modTh (endStep k s) k fun t => { t with mode := .barrier nb.toNat (cnt.toNat + 1) } with hu
  have hmine : getTh u k = { getTh (endStep k s) k with mode := .barrier nb.toNat (cnt.toNat + 1) } := getTh_modTh_same ..
  have hothers : ∀ j, j ≠ k → getTh u j = getTh s j := fun j hj => by
    rw [hu, getTh_modTh_ne _ _ hj, getTh_endStep_ne k s hj]
  have hmem := mem_atBarrier_arrived (n := nb.toNat) (c := cnt.toNat + 1) (by rw [hmine, hsame]) hothers hrun hbound
  have hlen := length_atBarrier_arrived hmem hrun
  have hbar : execBar w nb cnt s = .next (issued k (if cnt.toNat + 1 ≤ (atBarrier u k nb.toNat).length then runAll (atBarrier u k nb.toNat) u else u)) := by
    rw [← hk]
    refine congrArg Host.Outcome.next (issue_ok hi ?_)
    rw [hk]
    simp only [hidle, Bool.not_true, Bool.false_eq_true, if_false, runAll, hu]
  rw [hlen] at hbar
  refine ⟨_, hbar, ?_⟩
  by_cases hfew : (atBarrier s k nb.toNat).length + 1 < cnt.toNat + 1
  · rw [if_neg (by omega)]
    dsimp only
    rw [if_pos hfew]
    refine ⟨keepsRegs_issued (keepsRegs_mode hkeep hmine rfl), stepEnded_issued (stepEnded_mode hend hmine rfl),
      fun x => by rw [issued_mem]; rfl, ?_, fun j hj => by rw [getTh_issued, hothers j hj]⟩
    rw [getTh_issued, hmine]
  · rw [if_pos (by omega)]
    dsimp only
    rw [if_neg hfew]
    have hall : getTh (runAll (atBarrier u k nb.toNat) u) k = { getTh (endStep k s) k with mode := .running } := by
      rw [getTh_runAll, if_pos ((hmem k).2 (.inl rfl)), hmine]
    refine ⟨keepsRegs_issued (keepsRegs_mode hkeep hall ?_), stepEnded_issued (stepEnded_mode hend hall ?_), fun x => ?_, ?_, fun j hj => ?_,
      fun j hj hnot => ?_⟩
    · rw [runAll_eq]; rfl
    · rw [runAll_eq]; rfl
    · rw [issued_mem, runAll_eq]; rfl
    · rw [getTh_issued, hall]
    · rw [getTh_issued, getTh_runAll, if_pos ((hmem j).2 (.inr hj))]
    · rw [getTh_issued, getTh_runAll, if_neg fun h => ((hmem j).1 h).elim hj hnot, hothers j hj]

theorem estOf_of_runningJob {s : State} {l e : Nat} {j : Job} (h : runningJob s l = some (e, j)) :
    estOf s l = some e ∧ jobOf s e = some j ∧ j.phase = .running := by
  unfold runningJob at h
  split at h
  · cases h
  · split at h
    · split at h
      · cases h
        exact ⟨‹_›, ‹_›, ‹_›⟩
      · cases h
    · cases h

/-- A job goes on while one of its threads has not halted. -/
theorem haltThread_of_other {s : State} {k k' e : Nat} {j : Job} (hjob : runningJob s (k / 64) = some (e, j)) (hcopy : j.copy = 0)
    (hmem : k' ∈ jobThreads s j) (hne : k' ≠ k) (hmode : (getTh s k').mode ≠ .halted) :
    haltThread k s = modTh s k fun t => { t with mode := .halted } := by
  obtain ⟨hest, hj, hphase⟩ := estOf_of_runningJob hjob
  have hall : allHalted (modTh s k fun t => { t with mode := .halted }) e = false := by
    have hj' : jobOf (modTh s k fun t => { t with mode := .halted }) e = some j := hj
    unfold allHalted
    rw [hj']
    exact List.all_eq_false.2 ⟨k', hmem, by rw [getTh_modTh_ne _ _ hne]; simpa using hmode⟩
  have hest' : estOf (modTh s k fun t => { t with mode := .halted }) (k / 64) = some e := hest
  have hj' : jobOf (modTh s k fun t => { t with mode := .halted }) e = some j := hj
  unfold haltThread
  simp only [hest', jobEndCheck, hj', hphase, jobEsts, hcopy, if_true, List.all_cons, List.all_nil, hall, Bool.false_and, Bool.and_false,
    Bool.false_eq_true, if_false]

/-! ### Replay (R91) -/

/-- What a restore leaves outside the leaves, and of the thread. -/
theorem restore_outside (k : Nat) (s : State) : (restore k s).mem = s.mem ∧ (restore k s).queue = s.queue ∧ (restore k s).caddy = s.caddy ∧
    (restore k s).ktime = s.ktime := ⟨rfl, rfl, rfl, rfl⟩

theorem getTh_restore (k : Nat) (s : State) : getTh (restore k s) k = { getTh s k with
    regs := (getTh s k).shadow.regs, preds := (getTh s k).shadow.preds, pc := (getTh s k).shadow.pc, mode := .running, badAt := none } := by
  unfold restore
  exact getTh_modTh_same ..

theorem replays_restore (k l : Nat) (s : State) : (getLeaf (restore k s) l).replays = (getLeaf s l).replays := by
  have h : ∀ (u : State) (f : Leaf → Leaf), (∀ x, (f x).replays = x.replays) → u.lv.leaf = s.lv.leaf →
      (getLeaf (modLeaf u (k / 64) f) l).replays = (getLeaf s l).replays := fun u f hf hu => by
    have hl : ∀ j, getLeaf u j = getLeaf s j := fun j => by simp only [getLeaf, hu]
    rw [getLeaf_modLeaf, hl, hl]
    split
    · next h => rw [hf, h]
    · rfl
  unfold restore
  dsimp only
  rw [getLeaf_modTh]
  refine h _ _ ?_ rfl
  exact fun _ => rfl

theorem stepReplays {w : Thr} {s : State} (hmode : (getTh s (thrKey w)).mode = .parity) (hload : (getTh s (thrKey w)).load = none)
    (hidle : idleTh s (thrKey w) = true) (hon : engOn s (thrKey w / 64) = true) (hbad : (getTh s (thrKey w)).badAt = none)
    (hshadow : tget s.lv.badShadow (thrKey w) = 0) : ∃ p, exec (.stepReplay w) s = .next (event (thrKey w / 64) 0x1002 p
      (leBytes 2 (thrKey w / 64) ++ leBytes 1 (thrKey w % 64) ++ leBytes 1 ((getTh s (thrKey w)).replays + 1) ++ leBytes 2 0)
      (modLeaf (modTh (restore (thrKey w) s) (thrKey w) fun t => { t with replays := t.replays + 1, reloaded := 0 }) (thrKey w / 64)
        fun x => { x with replays := x.replays.add 1 })) := by
  refine ⟨match runningJob s (thrKey w / 64) with | some x => x.2.party | none => noParty, ?_⟩
  show execStepReplay w s = _
  simp only [execStepReplay, hmode, hload, hidle, hon, hbad, hshadow, ne_eq, not_true_eq_false, Option.isSome_none, Bool.false_eq_true,
    Bool.not_true, or_self, if_false]
  rfl

/-- Settles O18: a thread waits where it must, and a step's end, a barrier, a halt and a replay leave what R88 and R91 say. -/
theorem synchronisation : Obligations.Synchronisation := by
  refine ⟨?wait, ?waits, ?bar, ?step, ?halt, ?replay⟩
  case wait =>
    exact fun w n s hi htok => runs_issueNext rfl hi (if_pos htok) ⟨by simp [Steps], fun r => by simp, scalarFrame_issued (ownRegs_adv ..)⟩
  case waits =>
    intro w n s hi htok
    refine congrArg Host.Outcome.next (issue_stop (e := .wait) hi ?_)
    simp only [if_neg htok, Except.map]
  case bar => exact fun w n cnt s hi hidle hbound => runs_bar hi hidle hbound
  case step =>
    intro w s hi hidle
    obtain ⟨hend, hkeep⟩ := stepEnded_endStep (.mk rfl rfl rfl : RegsKept (thrKey w) s s)
    exact runs_issue rfl hi (if_pos hidle) ⟨stepEnded_issued hend, keepsRegs_issued hkeep, fun x => by rw [issued_mem]; rfl,
      fun j hj => by rw [getTh_issued, getTh_endStep_ne _ _ hj]⟩
  case halt =>
    intro w s e j k' hi hidle hjob hcopy hmem hne hmode
    have hmode' : (getTh (checkpoint (thrKey w) s) k').mode ≠ .halted := by rwa [getTh_checkpoint_ne _ _ hne]
    have hhalt := haltThread_of_other (s := checkpoint (thrKey w) s) hjob hcopy hmem hne hmode'
    have hjob' : runningJob (checkpoint (thrKey w) s) (thrKey w / 64) = some (e, j) := hjob
    obtain ⟨sh, hsame, -⟩ := getTh_checkpoint_same (thrKey w) s
    refine runs_issue (t := modTh (checkpoint (thrKey w) s) (thrKey w) fun t => { t with mode := .halted }) rfl hi ?_
      ⟨?_, ?_, fun x => by rw [issued_mem]; rfl, by rw [issued_queue]; rfl, fun i hne => ?_⟩
    · simp only [hidle, Bool.not_true, Bool.false_eq_true, if_false, hjob', hcopy, ne_eq, not_true_eq_false, hhalt]
    · rw [getTh_issued, getTh_modTh_same]
    · refine keepsRegs_issued fun r => ?_
      rw [sreg, sreg, getTh_modTh_same, hsame]
      rfl
    · rw [getTh_issued, getTh_modTh_ne _ _ hne, getTh_checkpoint_ne _ _ hne]
  case replay =>
    intro w s hmode hload hidle hon hbad hshadow
    obtain ⟨p, hexec⟩ := stepReplays hmode hload hidle hon hbad hshadow
    refine ⟨_, hexec, ?_⟩
    dsimp only
    rw [getTh_event, getTh_modLeaf, getTh_modTh_same, getTh_restore, getLeaf_event, getLeaf_modLeaf_same, getLeaf_modTh]
    obtain ⟨hmem, hqueue, hcaddy, hktime⟩ := restore_outside (thrKey w) s
    exact ⟨rfl, rfl, rfl, rfl, rfl, by rw [replays_restore], logs_event (by simp) hcaddy hktime rfl hktime, fun x => by rw [← hmem]; rfl, hqueue⟩

end Sys2Proof.Machine

/-! Raster operations (R67, R254, R256, R257): what an issue queues, and what a completion gives back. -/

namespace Sys2Proof.Machine
open Sys2Proof.Claims

section
variable {w : Thr} {rs1 : BitVec 5} {tok : BitVec 4} {s : State} {a : Word} {b : List Byte} {code : Nat}

/-- A raster operation of thread `k` that joins its leaf's queue, with its token. -/
def rasterQueued (k tok code : Nat) (b : List Byte) (s : State) : State :=
  tokInc k tok (modLeaf s (k / 64) fun x => { x with raster := x.raster ++ [{ thread := k % 64, tok := tok, tile := code, blk := b }] })

theorem rasterOp_ok (ha : Reads w s rs1 a) (hr : SpReads s (thrKey w / 64) a.toNat 64 b)
    (hpass : (code = 3 ∨ code = 9) → passOk (Config.passInfo b) = true) (htok : tget (getTh s (thrKey w)).toks tok.toNat < 255) :
    rasterOp code rs1 tok (thrKey w) s = .ok (rasterQueued (thrKey w) tok.toNat code b s) := by
  have hchk : ((code = 3 || code = 9) && !passOk (Config.passInfo b)) = false := by
    by_cases h : code = 3 ∨ code = 9
    · simp [hpass h]
    · simp [h]
  simp only [rasterOp, ha, hr, hchk, tokFree_of_lt htok, Except.bind, Bool.not_true, Bool.false_eq_true, if_false, rasterQueued]

theorem rasterOp_fault (ha : Reads w s rs1 a) (hr : SpReads s (thrKey w / 64) a.toNat 64 b) (hcode : code = 3 ∨ code = 9)
    (hpass : passOk (Config.passInfo b) ≠ true) : rasterOp code rs1 tok (thrKey w) s = .error (.fault 4) := by
  have hchk : ((code = 3 || code = 9) && !passOk (Config.passInfo b)) = true := by simp [hcode, hpass]
  simp only [rasterOp, ha, hr, hchk, Except.bind, if_true]

/-- What the issue of a raster operation leaves, whatever else it does outside the thread. -/
theorem rasterQueued_issued {t : State} (h : LeafOnly (thrKey w / 64) s t)
    (hraster : (getLeaf t (thrKey w / 64)).raster = (getLeaf s (thrKey w / 64)).raster) :
    RasterQueued w tok code b s (issued (thrKey w) (adv (thrKey w) (rasterQueued (thrKey w) tok.toNat code b t))) := by
  refine ⟨?_, queued_issued (h.modLeaf _)⟩
  rw [rasterQueued, getLeaf_issued_tokInc, getLeaf_modLeaf_same]
  exact ⟨_, rfl, rfl, rfl, rfl, congrArg (· ++ _) hraster⟩

theorem rasterForm {c : Instr} (he : exec c s = .next (issueNext w (rasterOp code rs1 tok) s)) (hcode : code = 3 ∨ code = 4 ∨ code = 9)
    (hi : CanIssue w s) (ha : Reads w s rs1 a) (hr : SpReads s (thrKey w / 64) a.toNat 64 b)
    (htok : tget (getTh s (thrKey w)).toks tok.toNat < 255) :
    if code = 4 ∨ passOk (Config.passInfo b) = true then Runs c s fun t => RasterQueued w tok code b s t
    else exec c s = .next (progFault (thrKey w) 4 s) := by
  split
  · next h =>
    refine runs_issueNext he hi (rasterOp_ok ha hr (fun h39 => ?_) htok) (rasterQueued_issued (.refl _ s) rfl)
    exact h.resolve_left (by omega)
  · next h =>
    obtain ⟨hne, hpass⟩ := not_or.1 h
    refine he.trans (congrArg Host.Outcome.next (issue_stop (e := .fault 4) hi ?_))
    rw [rasterOp_fault ha hr (by omega) hpass]
    rfl

end

/-! ### Bin memory (R254, R257) -/

theorem getGfx_modGfx_same (s : State) (e : Nat) (f : Gfx → Gfx) : getGfx (modGfx s e f) e = f (getGfx s e) := tget_tmod_same ..

/-- A triangle joins the bin lists once, in its place by key. -/
theorem mem_insert_tri (t y : Tri) (ts : List Tri) : y ∈ t.insert ts ↔ y ∈ ts ∨ y = t := by
  induction ts with
  | nil => simp [Tri.insert]
  | cons x ts ih =>
    unfold Tri.insert
    split
    · simp only [List.mem_cons]; tauto
    · split
      · next h => subst h; simp only [List.mem_cons]; tauto
      · simp only [List.mem_cons, ih]; tauto

theorem nextPass_of_binning {e : Nat} {s : State} (h : (getGfx s e).render = false) : nextPass e s = s := by
  simp [nextPass, h]

theorem binRoom_ok {e need : Nat} {j : Job} {s : State} (h : (getGfx s e).used + need ≤ (getGfx s e).cap) :
    binRoom e need j s = some (modGfx s e fun x => { x with used := x.used + need }) := by
  simp only [binRoom, h, if_true]

theorem runs_rbinw {w : Thr} {rs1 : BitVec 5} {tok : BitVec 4} {s : State} {a : Word} {b : List Byte} {e : Nat} {j : Job}
    (hi : CanIssue w s) (hjob : runningJob s (thrKey w / 64) = some (e, j)) (hgrow : (getGfx s e).grow = false)
    (hrender : (getGfx s e).render = false) (ha : Reads w s rs1 a) (hr : SpReads s (thrKey w / 64) a.toNat 64 b)
    (htok : tget (getTh s (thrKey w)).toks tok.toNat < 255) (hroom : (getGfx s e).used + Config.binBytes b % 2 ^ 32 ≤ (getGfx s e).cap) :
    Runs (.rbinw w rs1 tok) s fun t => RasterQueued w tok 0 b s t ∧ (getGfx t e).grow = false ∧ (getGfx t e).cap = (getGfx s e).cap ∧
      (getGfx t e).used = (getGfx s e).used + Config.binBytes b % 2 ^ 32 ∧
      ∀ y, y ∈ (getGfx t e).tris ↔ y ∈ (getGfx s e).tris ∨ y = triOf s e j b := by
  have hblk : rasterBlk rs1 (thrKey w) s = b := by
    simp only [rasterBlk, ha]
    exact (spRead_mem hr).symm
  have hop := rasterOp_ok (code := 0) ha hr (fun h => absurd h (by decide)) htok
  set u := rasterQueued (thrKey w) tok.toNat 0 b s with hu
  have hgfx : getGfx u e = getGfx s e := rfl
  have hnext : nextPass e u = u := nextPass_of_binning (by rw [hgfx, hrender])
  have hbin := binRoom_ok (j := j) (s := u) (by rw [hgfx]; exact hroom)
  set v := modGfx u e fun x => { x with used := x.used + Config.binBytes b % 2 ^ 32 } with hv
  have hgv : getGfx v e = { getGfx s e with used := (getGfx s e).used + Config.binBytes b % 2 ^ 32 } := by
    rw [hv, getGfx_modGfx_same, hgfx]
  have htri : ({ key := (Config.triInfo b).1 % 2 ^ 44, bins := (Config.triInfo b).2.filter fun x => decide (x < passBinsOf v e j), blk := b } : Tri) =
      triOf s e j b := by
    have hpass : passBinsOf v e j = passBinsOf s e j := by
      unfold passBinsOf
      rw [hgv]
      rfl
    rw [hpass]
    rfl
  refine ⟨issued (thrKey w) (adv (thrKey w) (modGfx v e fun g => { g with tris := (triOf s e j b).insert g.tris })), ?_, ?_⟩
  · show Host.Outcome.next _ = _
    simp only [hi.1, hi.2, hjob, hgrow, hop, hblk, hnext, hbin, htri, Except.bind, Bool.not_true, Bool.false_eq_true, if_false]
  · have hg : getGfx (issued (thrKey w) (adv (thrKey w) (modGfx v e fun g => { g with tris := (triOf s e j b).insert g.tris }))) e =
        { getGfx v e with tris := (triOf s e j b).insert (getGfx v e).tris } := by
      rw [issued_eq]
      exact getGfx_modGfx_same ..
    dsimp only
    rw [hg, hgv]
    exact ⟨rasterQueued_issued (t := modGfx (modGfx s e fun x => { x with used := x.used + Config.binBytes b % 2 ^ 32 }) e fun g =>
      { g with tris := (triOf s e j b).insert g.tris }) ⟨rfl, rfl, rfl, rfl, rfl, rfl, fun _ _ => rfl⟩ rfl, hgrow, rfl, rfl, fun y => mem_insert_tri ..⟩

/-! ### Completion -/

theorem isSome_of_engOn {s : State} {l : Nat} (h : engOn s l = true) : ∃ e j, runningJob s l = some (e, j) := by
  simp only [engOn, Bool.and_eq_true] at h
  obtain ⟨x, hx⟩ := Option.isSome_iff_exists.1 h.1.2
  exact ⟨x.1, x.2, hx⟩

theorem exec_rasterComplete {leaf : Fin 168} {s u : State} {op : EngOp} {rest : List EngOp} {e : Nat} {j : Job}
    (hq : (getLeaf s leaf.val).raster = op :: rest) (hon : engOn s leaf.val = true) (hjob : runningJob s leaf.val = some (e, j))
    (hrun : rasterRun e leaf.val op s = .ok u) : exec (.rasterOpComplete leaf) s =
      .next (completed leaf.val (leaf.val * 64 + op.thread) op.tok (fun x => { x with raster := rest }) u) := by
  show execRasterOpComplete leaf s = _
  simp only [execRasterOpComplete, hq, hon, hjob, hrun, Bool.not_true, Bool.false_eq_true, if_false, completed]

theorem rasterCompletes {leaf : Fin 168} {s u : State} {op : EngOp} {rest : List EngOp} {e : Nat} {j : Job}
    (hq : (getLeaf s leaf.val).raster = op :: rest) (hon : engOn s leaf.val = true) (hjob : runningJob s leaf.val = some (e, j))
    (hrun : rasterRun e leaf.val op s = .ok u) : Runs (.rasterOpComplete leaf) s fun t => (getLeaf t leaf.val).raster = rest ∧
      TokBack (leaf.val * 64 + op.thread) op.tok u t ∧ MemSame u t ∧ t.lv.vregs = u.lv.vregs ∧ t.lv.acc = u.lv.acc ∧ t.queue = u.queue := by
  refine ⟨_, exec_rasterComplete hq hon hjob hrun, ?_, tokBack_completed _ _ _ _ _ rfl, fun x => by rw [completed_mem], ?_, ?_, ?_⟩
  · rw [getLeaf_completed]
  · rw [completed_lv]
  · rw [completed_lv]
  · rw [completed, progress_queue]
    rfl

/-- Settles O19: a raster operation is queued with its token and gives it back when its work is done; a triangle joins its bins' lists. -/
theorem rasterOperations : Obligations.RasterOperations := by
  refine ⟨?forms, ?rbinw, ?idle, ?done⟩
  case forms =>
    unfold rasterForms
    simp only [List.forall_mem_cons, List.not_mem_nil, false_implies, implies_true, and_true]
    exact ⟨fun w rs1 tok s a b hi ha hr htok => rasterForm (c := .rload w rs1 tok) (code := 3) rfl (by decide) hi ha hr htok,
      fun w rs1 tok s a b hi ha hr htok => rasterForm (c := .rsetup w rs1 tok) (code := 4) rfl (by decide) hi ha hr htok,
      fun w rs1 tok s a b hi ha hr htok => rasterForm (c := .rstore w rs1 tok) (code := 9) rfl (by decide) hi ha hr htok⟩
  case rbinw =>
    exact fun w rs1 tok s a b e j hi hjob hgrow hrender ha hr htok hroom => runs_rbinw hi hjob hgrow hrender ha hr htok hroom
  case idle =>
    intro leaf s op rest hq hon hidle
    obtain ⟨e, j, hjob⟩ := isSome_of_engOn hon
    have hrun : rasterRun e leaf.val op s = .ok s := by simp [rasterRun, hidle]
    obtain ⟨t, hexec, hrest, htok, hmem, hvregs, hacc, -⟩ := rasterCompletes hq hon hjob hrun
    exact ⟨t, hexec, hrest, htok, hmem, hvregs, hacc⟩
  case done => exact fun leaf s u op rest e j hq hon hjob hrun => rasterCompletes hq hon hjob hrun

end Sys2Proof.Machine

/-! Fragment instructions and texture reads (R101, R249, R250, R254 to R256). -/

namespace Sys2Proof.Machine
open Sys2Proof.Claims

/-! ### Batches of fragments -/

section
variable {k : Nat} {s t : State} {f : Leaf → Leaf}

/-- An instruction that changed its leaf's record and its thread's scalars keeps to the frame of a batch. -/
theorem batchFrame_issued (h : OwnRegs k (modLeaf s (k / 64) f) t) : BatchFrame k s (issued k (adv k t)) := by
  obtain ⟨heq, hothers, -⟩ := h
  refine ⟨?_, ?_, ?_, ?_, fun j hj => ?_, fun l hl => ?_⟩
  · rw [issued_eq, heq]; rfl
  · rw [issued_eq, heq]; rfl
  · rw [issued_queue, heq]; rfl
  · rw [issued_eq, heq]; rfl
  · rw [getTh_issued, adv, getTh_modTh_ne _ _ hj, hothers j hj, getTh_modLeaf]
  · have hleaf : getLeaf t l = getLeaf (modLeaf s (k / 64) f) l := by unfold getLeaf; rw [heq]
    rw [getLeaf_issued, if_neg hl, adv, getLeaf_modTh, hleaf, getLeaf_modLeaf_ne _ _ hl]

theorem batches_issued (h : OwnRegs k (modLeaf s (k / 64) f) t) :
    (getLeaf (issued k (adv k t)) (k / 64)).batches = (f (getLeaf s (k / 64))).batches := by
  have hleaf : getLeaf t (k / 64) = getLeaf (modLeaf s (k / 64) f) (k / 64) := by unfold getLeaf; rw [h.1]
  rw [getLeaf_issued, if_pos rfl, adv, getLeaf_modTh, hleaf, getLeaf_modLeaf_same]

theorem memSame_issued (h : OwnRegs k (modLeaf s (k / 64) f) t) : MemSame s (issued k (adv k t)) := fun x => by
  rw [issued_mem, adv, modTh_mem, h.1]
  rfl

/-- Batches whose fragments are put back leave the thread's frame. -/
theorem putFrags_issued (y : FragBatch) (fs : List Frag) (u : State) : let t := issued k (adv k (putFrags (k / 64) y fs u))
    Steps k u t ∧ KeepsRegs k u t ∧ MemSame u t ∧ BatchFrame k u t ∧ (getLeaf t (k / 64)).batches = swapFrags y fs (getLeaf u (k / 64)).batches := by
  have h : OwnRegs k (modLeaf u (k / 64) fun x => { x with batches := swapFrags y fs x.batches }) (putFrags (k / 64) y fs u) := .refl ..
  refine ⟨?_, fun r => ?_, memSame_issued h, batchFrame_issued h, batches_issued h⟩
  · rw [Steps, getTh_issued, pc_adv, putFrags, getTh_modLeaf]
  · rw [sreg_issued, sreg_adv]
    rfl

end

section
variable {w : Thr} {rd vr rs1 rs2 : BitVec 5} {s : State} {a : Word}

/-- The batch that RFRAG gives is marked as given. -/
def giveBatch (k : Nat) (y : FragBatch) (s : State) : State :=
  modLeaf s (k / 64) fun x => { x with batches := x.batches.map fun z => if z = y then { z with given := true } else z }

theorem runs_rfrag {y : FragBatch} (hi : CanIssue w s) (ha : Reads w s rs1 a)
    (hfind : ((getLeaf s (thrKey w / 64)).batches.find? fun y =>
      decide (y.ring = a.toNat) && decide (y.bin + 1 = (getTh s (thrKey w)).bin) && !y.given) = some y) :
    Runs (.rfrag w rd rs1) s fun t => WritesReg (thrKey w) rd (BitVec.ofNat 32 y.off) s t ∧ Steps (thrKey w) s t ∧ MemSame s t ∧
      BatchFrame (thrKey w) s t ∧ (getLeaf t (thrKey w / 64)).batches =
        (getLeaf s (thrKey w / 64)).batches.map fun z => if z = y then { z with given := true } else z := by
  have hown : OwnRegs (thrKey w) (giveBatch (thrKey w) y s) (setReg (thrKey w) rd (BitVec.ofNat 32 y.off) (giveBatch (thrKey w) y s)) :=
    ownRegs_setReg _ _ _ _
  obtain ⟨hsame, hzero, hne⟩ := writesReg_setReg (giveBatch (thrKey w) y s) (thrKey w) rd (BitVec.ofNat 32 y.off)
  refine runs_issueNext (t := setReg (thrKey w) rd (BitVec.ofNat 32 y.off) (giveBatch (thrKey w) y s)) rfl hi ?ok
    ⟨⟨fun hrd => ?_, sreg_zero _ _, fun r hr => ?_⟩, ?_, memSame_issued hown, batchFrame_issued hown, batches_issued hown⟩
  case ok => simp only [ha, Except.bind, hfind, giveBatch]
  · rw [sreg_issued, sreg_adv, hsame hrd]
  · rw [sreg_issued, sreg_adv, hne r hr]
    rfl
  · rw [Steps, getTh_issued, pc_adv, pc_setReg, giveBatch, getTh_modLeaf]

theorem fragmentOrder : FragmentOrder := by
  refine ⟨?rfrag, ?end_, ?rdepth, ?rblend, ?waits⟩
  case rfrag => exact fun w rd rs1 s a y hi ha hfind => runs_rfrag hi ha hfind
  case end_ =>
    intro w rd rs1 s a e j hi ha hfind hjob
    split
    · next h =>
      refine congrArg Host.Outcome.next (issue_stop (e := .wait) hi ?_)
      simp only [ha, Except.bind, hfind, hjob, if_pos h, Except.map]
    · next h =>
      obtain ⟨t, hexec, hreg, -, hstep, hframe⟩ := runs_regResult (c := .rfrag w rd rs1) (rd := rd) (v := 0xFFFFFFFF#32) rfl hi
        (by simp only [ha, Except.bind, hfind, hjob, if_neg h])
      refine ⟨t, hexec, hreg, hstep, hframe⟩
  case rdepth =>
    intro w vr rs1 s u a ds y fs hi hv ha hbatch htest
    refine runs_issueNext (t := putFrags (thrKey w / 64) y fs u) rfl hi ?_ (putFrags_issued y fs u)
    simp only [hv, ha, Except.bind, hbatch, htest, Except.map]
  case rblend =>
    intro w vr rs1 rs2 s u q a n r g b al y x fs hi hnv hr hg hb hal ha hn hbatch hatt hcol hwritten htest hblend
    refine runs_issueNext (t := putFrags (thrKey w / 64) y (fs.map fun f => { f with done := setBit f.done n.toNat true }) q) rfl hi ?_
      (putFrags_issued y _ q)
    have hall : (y.frags.all fun f => !f.live || writtenBefore s (thrKey w / 64) y (2 ^ n.toNat) f) = true := by
      rw [List.all_eq_true]
      intro f hf
      cases hl : f.live
      · rfl
      · simp [hwritten f hf hl]
    simp only [if_neg (show ¬ (getTh s (thrKey w)).nv < vr.toNat + 4 by omega), hr, hg, hb, hal, ha, hn, hbatch, hatt,
      if_neg (show ¬ y.info.cols.length ≤ n.toNat by omega), hall, htest, hblend, Except.bind, Except.map, Bool.not_true, Bool.false_eq_true, if_false]
  case waits =>
    intro w vr rs1 rs2 s a n r g b al y x f hi hnv hr hg hb hal ha hn hbatch hatt hcol hf hlive hwritten
    refine congrArg Host.Outcome.next (issue_stop (e := .wait) hi ?_)
    have hall : (y.frags.all fun f => !f.live || writtenBefore s (thrKey w / 64) y (2 ^ n.toNat) f) = false :=
      List.all_eq_false.2 ⟨f, hf, by simp [hlive, hwritten]⟩
    simp only [if_neg (show ¬ (getTh s (thrKey w)).nv < vr.toNat + 4 by omega), hr, hg, hb, hal, ha, hn, hbatch, hatt,
      if_neg (show ¬ y.info.cols.length ≤ n.toNat by omega), hall, Except.bind, Except.map, Bool.not_false, if_true]

end

/-! ### Texture reads -/

theorem tread_congr {α : Type} [Inhabited α] {t u : Tab α} : (n a : Nat) → (∀ x, a ≤ x → x < a + n → tget t x = tget u x) →
    tread t a n = tread u a n
  | 0, _, _ => rfl
  | n + 1, a, h => by
    rw [tread, tread, h a (by omega) (by omega), tread_congr n (a + 1) fun x h1 h2 => h x (by omega) (by omega)]

/-- The first `n` of the vector registers from `r`, written with the lanes `ws i`. -/
def vputs (k r : Nat) (ws : Nat → List Word) : Nat → State → State
  | 0, s => s
  | n + 1, s => vput k (r + n) (ws n) (vputs k r ws n s)

section
variable {k r n : Nat} {ws : Nat → List Word} {s : State}

theorem vputs_eq : vputs k r ws n s = { s with lv := { s.lv with
    vregs := (vputs k r ws n s).lv.vregs, badVec := (vputs k r ws n s).lv.badVec } } := by
  induction n with
  | zero => rfl
  | succ n ih =>
    rw [vputs, vput]
    generalize vputs k r ws n s = t at ih ⊢
    rw [ih]

theorem getTh_vputs (j : Nat) : getTh (vputs k r ws n s) j = getTh s j := by rw [vputs_eq]; rfl

theorem vkey_vputs (i : Nat) : vkey (vputs k r ws n s) k i = vkey s k i := by rw [vkey, getTh_vputs, vkey]

theorem foldl_vwrite (hlen : ∀ i, (ws i).length = 128) (hn : r + n ≤ (getTh s k).nv) :
    (List.range n).foldl (fun (c : Chk State) i => c.bind (vwrite k (r + i) (ws i))) (.ok s) = .ok (vputs k r ws n s) := by
  induction n with
  | zero => rfl
  | succ n ih =>
    rw [List.range_succ, List.foldl_append, ih (by omega)]
    show vwrite k (r + n) (ws n) (vputs k r ws n s) = _
    rw [vwrite, getTh_vputs, if_neg (by omega), List.take_of_length_le (Nat.le_of_eq (hlen n)), vputs, vput]

/-- Registers that were not written keep their lanes and their parity. -/
theorem vputs_outside (hlen : ∀ i, (ws i).length = 128) {x : Nat} (hx : x < vkey s k r ∨ vkey s k r + 128 * n ≤ x) :
    tget (vputs k r ws n s).lv.vregs x = tget s.lv.vregs x ∧ tget (vputs k r ws n s).lv.badVec x = tget s.lv.badVec x := by
  induction n with
  | zero => exact ⟨rfl, rfl⟩
  | succ n ih =>
    have hkey : vkey s k (r + n) = vkey s k r + 128 * n := by unfold vkey; omega
    obtain ⟨hv, hb⟩ := ih (by omega)
    have hl := hlen n
    constructor
    · rw [vputs, vput, ← hv]
      exact tget_twrite_out _ _ (by rw [vkey_vputs]; omega)
    · rw [vputs, vput, ← hb]
      exact tget_tclear_out _ (by rw [vkey_vputs]; omega)

/-- The registers written hold their lanes, with good parity. -/
theorem vputs_inside (hlen : ∀ i, (ws i).length = 128) {i : Nat} (hi : i < n) :
    tread (vputs k r ws n s).lv.vregs (vkey s k (r + i)) 128 = ws i ∧
      ∀ x, vkey s k (r + i) ≤ x → x < vkey s k (r + i) + 128 → tget (vputs k r ws n s).lv.badVec x = 0 := by
  induction n with
  | zero => omega
  | succ n ih =>
    have hl := hlen n
    rcases Nat.lt_succ_iff_lt_or_eq.1 hi with hlt | rfl
    · obtain ⟨hv, hb⟩ := ih hlt
      have hkey : vkey s k (r + n) = vkey s k (r + i) + 128 * (n - i) := by unfold vkey; omega
      constructor
      · rw [← hv]
        refine tread_congr 128 _ fun x h1 h2 => ?_
        rw [vputs, vput]
        exact tget_twrite_out _ _ (by rw [vkey_vputs]; omega)
      · intro x h1 h2
        rw [← hb x h1 h2, vputs, vput]
        exact tget_tclear_out _ (by rw [vkey_vputs]; omega)
    · constructor
      · conv => lhs; rw [vputs, vput, vkey_vputs, ← hl]
        exact tread_twrite ..
      · intro x h1 h2
        rw [vputs, vput]
        exact tget_tclear_in _ (by rw [vkey_vputs]; omega)

theorem vread_vputs (hlen : ∀ i, (ws i).length = 128) (hn : r + n ≤ (getTh s k).nv) {i : Nat} (hi : i < n) :
    vread (vputs k r ws n s) k (r + i) = .ok (ws i) := by
  obtain ⟨hv, hb⟩ := vputs_inside (s := s) (k := k) (r := r) hlen hi
  have hbad : (tread (vputs k r ws n s).lv.badVec (vkey s k (r + i)) 128).any (fun b => decide (b ≠ 0)) = false := by
    rw [tread_default _ _ _ hb]
    simp
  rw [vread, getTh_vputs, if_neg (by omega), vkey_vputs, hbad, hv]
  rfl

theorem vread_issued_adv (i : Nat) : vread (issued k (adv k s)) k i = vread s k i := by
  have hn : (getTh (issued k (adv k s)) k).nv = (getTh s k).nv := by rw [getTh_issued, adv, getTh_modTh_same]
  have hb : (getTh (issued k (adv k s)) k).vbase = (getTh s k).vbase := by rw [getTh_issued, adv, getTh_modTh_same]
  have hlv : (issued k (adv k s)).lv.vregs = s.lv.vregs ∧ (issued k (adv k s)).lv.badVec = s.lv.badVec := by
    rw [issued_eq]; exact ⟨rfl, rfl⟩
  rw [vread, hn, vkey, hb, hlv.1, hlv.2, vread, vkey]

end

section
variable {w : Thr} {vr rs1 rs2 : BitVec 5} {s q : State} {a m : Word} {d : List Byte} {u v : List Word} {ls : List (Nat × List Byte)}

/-- Channel `i` of the samples of all lanes. -/
def texChannel (d : List Byte) (m : Word) (ls : List (Nat × List Byte)) (u v : List Word) (i : Nat) : List Word :=
  (u.zip v).map fun c => (sampleLane d m (lineBytes ls) c.1 c.2).getD i 0

theorem execRtex_ok (hi : CanIssue w s) (hnv : vr.toNat + 4 ≤ (getTh s (thrKey w)).nv) (ha : Reads w s rs1 a) (hm : Reads w s rs2 m)
    (hd : SpReads s (thrKey w / 64) a.toNat 32 d) (himg : imgOk .texture d = true) (hlvl : m.toNat ≤ bitsOf (field d 7 1) 7 4)
    (hu : vread s (thrKey w) vr.toNat = .ok u) (hv : vread s (thrKey w) (vr.toNat + 1) = .ok v)
    (hls : texLines (thrKey w) (linesFor d m u v) s = (.ok q, ls)) (hth : getTh q (thrKey w) = getTh s (thrKey w)) :
    execRtex w vr rs1 rs2 s = .next (issued (thrKey w) (adv (thrKey w) (vputs (thrKey w) vr.toNat (texChannel d m ls u v) 4 q))) := by
  have hlen : ∀ i, (texChannel d m ls u v i).length = 128 := fun i => by
    simp [texChannel, vread_length hu, vread_length hv]
  have hwrites := foldl_vwrite (n := 4) (s := q) (k := thrKey w) (r := vr.toNat) hlen (by rw [hth]; exact hnv)
  obtain ⟨hready, hfetch⟩ := hi
  have hop : (if (getTh s (thrKey w)).nv < vr.toNat + 4 then .error (.fault 1)
      else (fetchChk s (thrKey w)).bind fun _ => (sreg s (thrKey w) rs1).bind fun a => (sreg s (thrKey w) rs2).bind fun m =>
        (spRead s (thrKey w / 64) a.toNat 32 0).bind fun d =>
          if !imgOk .texture d then .error (.fault 4)
          else if bitsOf (field d 7 1) 7 4 < m.toNat then .error (.fault 2)
          else (vread s (thrKey w) vr.toNat).bind fun u => (vread s (thrKey w) (vr.toNat + 1)).map fun v => (d, m, u, v) :
      Chk (List Byte × Word × List Word × List Word)) = .ok (d, m, u, v) := by
    rw [if_neg (by omega), hfetch]
    simp only [Except.bind, ha, hm, hd, himg, hu, hv, Except.map, if_neg (Nat.not_lt.2 hlvl), Bool.not_true, Bool.false_eq_true, if_false]
  unfold execRtex
  simp only [hready, Bool.not_true, Bool.false_eq_true, if_false]
  rw [hop]
  have hchannel : ∀ i, ((u.zip v).map fun c => sampleLane d m (lineBytes ls) c.1 c.2).map (fun p => p.getD i 0) = texChannel d m ls u v i :=
    fun i => List.map_map
  simp only [hls, hchannel, hwrites]

theorem runs_rtex (hi : CanIssue w s) (hnv : vr.toNat + 4 ≤ (getTh s (thrKey w)).nv) (ha : Reads w s rs1 a) (hm : Reads w s rs2 m)
    (hd : SpReads s (thrKey w / 64) a.toNat 32 d) (himg : imgOk .texture d = true) (hlvl : m.toNat ≤ bitsOf (field d 7 1) 7 4)
    (hu : vread s (thrKey w) vr.toNat = .ok u) (hv : vread s (thrKey w) (vr.toNat + 1) = .ok v)
    (hls : texLines (thrKey w) (linesFor d m u v) s = (.ok q, ls)) (hth : getTh q (thrKey w) = getTh s (thrKey w)) :
    Runs (.rtex w vr rs1 rs2) s fun t => Steps (thrKey w) s t ∧ MemSame q t ∧ KeepsRegs (thrKey w) q t ∧
      (∀ i < 4, vread t (thrKey w) (vr.toNat + i) = .ok (texChannel d m ls u v i)) ∧
      ∀ x, (x < vkey q (thrKey w) vr.toNat ∨ vkey q (thrKey w) vr.toNat + 512 ≤ x) → tget t.lv.vregs x = tget q.lv.vregs x := by
  have hlen : ∀ i, (texChannel d m ls u v i).length = 128 := fun i => by
    simp [texChannel, vread_length hu, vread_length hv]
  refine ⟨_, execRtex_ok hi hnv ha hm hd himg hlvl hu hv hls hth, ?_, fun x => ?_, fun r => ?_, fun i hi => ?_, fun x hx => ?_⟩
  · rw [Steps, getTh_issued, pc_adv, getTh_vputs, hth]
  · rw [issued_mem, adv, modTh_mem, vputs_eq]
  · rw [sreg_issued, sreg_adv, vputs_eq]
    rfl
  · rw [vread_issued_adv]
    exact vread_vputs hlen (by rw [hth]; exact hnv) hi
  · rw [issued_eq]
    exact (vputs_outside hlen hx).1

end

/-- A line that the texture cache does not hold is read from DRAM, and joins it. -/
theorem texLine_miss {k n : Nat} {s : State} (hmiss : ((getLeaf s (k / 64)).tex.find? fun y => decide (y.1 = n)) = none)
    (hn : n * 64 < 0x1000000000) (hacc : Accepted s (leafIni (k / 64)) false (n * 64) 64) (hgood : LineGood s (n * 64)) :
    ∃ q, texLine k n s = (.ok (texInsert (k / 64) n (memRead s (n * 64) 64) q), memRead s (n * 64) 64) ∧ PathOnly s q := by
  obtain ⟨q, hread, hpath⟩ := dramRead_ok (leafIni (k / 64)) (whoOf s (leafIni (k / 64))) (n := 64) [] (by omega) (by omega) hgood
  refine ⟨q, ?_, hpath⟩
  have hown : spLeaf (n * 64) ≠ some (k / 64) := by
    rw [spLeaf, if_neg (by omega)]
    exact Option.some_ne_none _ |>.symm
  simp only [texLine, hmiss, if_neg hown, access_dram hacc hn, hread, if_true]

theorem textureSamples : TextureSamples := by
  refine ⟨?sample, ?hit, ?miss⟩
  case sample =>
    intro w vr rs1 rs2 s q a m d u v ls hi hnv ha hm hd himg hlvl hu hv hls hth
    exact runs_rtex hi hnv ha hm hd himg hlvl hu hv hls hth
  case hit =>
    intro k n s x hhit
    simp only [texLine, hhit]
  case miss =>
    intro k n s hmiss hn hacc hgood
    obtain ⟨q, hline, hpath⟩ := texLine_miss hmiss hn hacc hgood
    exact ⟨q, hline, hpath.cells, hpath.lv, hpath.queue, hpath.party, hpath.jobs⟩

/-- Settles O20: batches keep their order, and a texture read writes the four channels. -/
theorem fragmentInstructions : Obligations.FragmentInstructions := ⟨fragmentOrder, textureSamples⟩

end Sys2Proof.Machine

/-! What the pushes, completions, notices and answers of the Kettle may change (R98, R139, R146, R149, R164, R358, R361): memory, queues, parties,
interrupt files, events, and the marks of watched inputs. Everything else is as it was. -/

namespace Sys2Proof.Machine
open Sys2Proof.Claims

/-! ### Watches that fire (R164) -/

/-- The estate's jobs with serial numbers `ns` have changed inputs. -/
def Estate.fire (ns : List Nat) (e : Estate) : Estate := { e with job := e.job.map (Job.fire ns), replay := e.replay.map (Job.fire ns) }

/-- The table of estates after some watches have fired, some number of times. -/
inductive Fired (t : Tab Estate) : Tab Estate → Prop where
  | refl : Fired t t
  | fire {u : Tab Estate} (ns : List Nat) : Fired t u → Fired t (tmap (Estate.fire ns) u)

theorem Fired.trans {t u v : Tab Estate} (a : Fired t u) (b : Fired u v) : Fired t v := by
  induction b with
  | refl => exact a
  | fire ns _ ih => exact .fire ns ih

/-- The table lists no job of estate `e`. -/
def NoJob (e : Nat) (t : Tab Estate) : Prop := ∀ x ∈ t, x.1 = e → x.2.job = none

theorem NoJob.fired {e : Nat} {t u : Tab Estate} (h : NoJob e t) (f : Fired t u) : NoJob e u := by
  induction f with
  | refl => exact h
  | fire ns _ ih =>
    intro x hx he
    obtain ⟨y, hy, rfl⟩ := List.mem_map.1 (List.mem_of_mem_filter hx)
    rw [show (Estate.fire ns y.2).job = y.2.job.map (Job.fire ns) from rfl, ih y hy he]
    rfl

theorem NoJob.job_none {e : Nat} {t : Tab Estate} (h : NoJob e t) : (tget t e).job = none := by
  induction t with
  | nil => rfl
  | cons y t ih =>
    obtain ⟨k, v⟩ := y
    simp only [tget]
    split
    · next hk => exact h (k, v) (List.mem_cons_self ..) hk
    · exact ih fun x hx => h x (List.mem_cons_of_mem _ hx)

/-! ### The frame of what is posted -/

/-- `t` is `s` but for what a push, a completion, a notice or an answer may change. -/
def postedOver (s t : State) : State := { s with
  mem := { s.mem with cells := t.mem.cells }
  lv := { s.lv with badByte := t.lv.badByte, lineTag := t.lv.lineTag }
  queue := t.queue, party := t.party, caddy := t.caddy
  world := { s.world with irqs := t.world.irqs, msix := t.world.msix }
  safe := { s.safe with gxIrq := t.safe.gxIrq, gxEvent := t.safe.gxEvent, gxPages := t.safe.gxPages }
  boot := { s.boot with resetting := t.boot.resetting }
  jobs := { s.jobs with est := t.jobs.est, waiting := t.jobs.waiting }
  firm := { s.firm with heldOut := t.firm.heldOut } }

/-- What pushes, completions, notices and answers leave as it was, and what they may do to the estates' jobs. -/
structure Posted (s t : State) : Prop where
  eq : t = postedOver s t
  est : Fired s.jobs.est t.jobs.est

theorem Posted.refl (s : State) : Posted s s := ⟨rfl, .refl⟩

theorem Posted.trans {s t u : State} (a : Posted s t) (b : Posted t u) : Posted s u where
  eq := calc u = postedOver t u := b.eq
    _ = postedOver (postedOver s t) u := congrArg (postedOver · u) a.eq
    _ = postedOver s u := rfl
  est := a.est.trans b.est

section
variable {s t : State} (h : Posted s t)
include h
theorem Posted.ktime : t.ktime = s.ktime := by rw [h.eq]; rfl
theorem Posted.part : t.part = s.part := by rw [h.eq]; rfl
theorem Posted.pw : t.pw = s.pw := by rw [h.eq]; rfl
theorem Posted.media : t.media = s.media := by rw [h.eq]; rfl
theorem Posted.cap : t.cap = s.cap := by rw [h.eq]; rfl
theorem Posted.gw : t.gw = s.gw := by rw [h.eq]; rfl
theorem Posted.field : t.field = s.field := by rw [h.eq]; rfl
theorem Posted.io : t.io = s.io := by rw [h.eq]; rfl
theorem Posted.cross : t.cross = s.cross := by rw [h.eq]; rfl
theorem Posted.pending : t.pending = s.pending := by rw [h.eq]; rfl
theorem Posted.resp : t.resp = s.resp := by rw [h.eq]; rfl
theorem Posted.fresh : t.fresh = s.fresh := by rw [h.eq]; rfl
theorem Posted.threads : t.lv.threads = s.lv.threads := by rw [h.eq]; rfl
theorem Posted.leaf : t.lv.leaf = s.lv.leaf := by rw [h.eq]; rfl
theorem Posted.getTh (k : Nat) : Machine.getTh t k = Machine.getTh s k := by rw [Machine.getTh, h.threads, ← Machine.getTh]
theorem Posted.getLeaf (l : Nat) : Machine.getLeaf t l = Machine.getLeaf s l := by rw [Machine.getLeaf, h.leaf, ← Machine.getLeaf]
theorem Posted.getGfx (e : Nat) : Machine.getGfx t e = Machine.getGfx s e := by rw [Machine.getGfx, h.media, ← Machine.getGfx]
end

/-! ### Each operation -/

theorem posted_fireWatches (a n : Nat) (s : State) : Posted s (fireWatches a n s) := by
  unfold fireWatches
  dsimp only
  split
  · exact .refl s
  · exact ⟨rfl, .fire _ .refl⟩

theorem posted_memWrite (s : State) (a : Nat) (bs : List Byte) : Posted s (memWrite s a bs) := ⟨rfl, .refl⟩
theorem posted_event (src code p : Nat) (args : List Byte) (s : State) : Posted s (event src code p args s) := by
  refine ⟨?_, .refl⟩
  unfold event postedOver
  dsimp only
  split <;> rfl
theorem posted_refusal (src code p ini a : Nat) (sec write : Bool) (s : State) : Posted s (refusal src code p ini a sec write s) := by
  unfold refusal
  split
  · exact ⟨rfl, .refl⟩
  · exact posted_event ..
theorem posted_spPut (l off tag : Nat) (bs : List Byte) (s : State) : Posted s (spPut l off tag bs s) := by
  rw [spPut_eq]; exact ⟨rfl, .refl⟩
theorem posted_modQ (s : State) (q : Nat) (f : Queue → Queue) : Posted s (modQ s q f) := ⟨rfl, .refl⟩
theorem posted_modParty (s : State) (p : Nat) (f : PartySt → PartySt) : Posted s (modParty s p f) := ⟨rfl, .refl⟩

theorem posted_putBytes (w : Writer) (a : Nat) (bs : List Byte) (s : State) : Posted s (putBytes w a bs s) := by
  unfold putBytes
  split
  · exact (posted_memWrite s a bs).trans (posted_fireWatches ..)
  · split
    · exact posted_refusal ..
    · split
      · exact posted_event ..
      · exact posted_spPut ..

theorem posted_getBytes (w : Writer) (a n : Nat) (s : State) : Posted s (getBytes w a n s).1 := by
  unfold getBytes
  split
  · exact .refl s
  · split
    · exact posted_refusal ..
    · split
      · exact posted_event ..
      · exact .refl s

theorem posted_raiseIrq (i : IrqEntry) (s : State) : Posted s (raiseIrq i s) := by
  unfold raiseIrq
  split
  · exact .refl s
  · split <;> exact ⟨rfl, .refl⟩

theorem posted_raiseMbox (p : Nat) (s : State) : Posted s (raiseMbox p s) := by
  unfold raiseMbox
  split
  · exact ⟨rfl, .refl⟩
  · exact posted_raiseIrq ..

theorem posted_notify (p q : Nat) (s : State) : Posted s (notify p q s) := by
  unfold notify
  dsimp only
  split
  · exact .refl s
  · split
    · exact posted_modParty ..
    · exact (posted_modParty ..).trans (posted_raiseIrq ..)

theorem posted_notifyPush (q n : Nat) (s : State) : Posted s (notifyPush q n s) := by
  unfold notifyPush
  dsimp only
  split
  · split
    · exact posted_notify ..
    · exact .refl s
  · exact .refl s

theorem posted_pushEntry (q : Nat) (bs : List Byte) (s : State) : Posted s (pushEntry q bs s) :=
  ((posted_putBytes ..).trans (posted_modQ ..)).trans (posted_notifyPush ..)

theorem posted_popEntry (q : Nat) (s : State) : Posted s (popEntry q s) := (posted_getBytes ..).trans (posted_modQ ..)

theorem posted_drainHeld (q n : Nat) (s : State) : Posted s (drainHeld q n s) := by
  induction n generalizing s with
  | zero => exact .refl s
  | succ n ih =>
    unfold drainHeld
    split
    · exact .refl s
    · split
      · exact ((posted_modQ ..).trans (posted_pushEntry ..)).trans (ih _)
      · exact .refl s

theorem posted_complete (q : Nat) (bs : List Byte) (s : State) : Posted s (complete q bs s) := by
  unfold complete
  split
  · exact ⟨rfl, .refl⟩
  · exact (posted_modQ ..).trans (posted_drainHeld ..)

theorem posted_drainNotices (p n : Nat) (s : State) : Posted s (drainNotices p n s) := by
  induction n generalizing s with
  | zero => exact .refl s
  | succ n ih =>
    unfold drainNotices
    split
    · exact .refl s
    · dsimp only
      split
      · exact (((posted_modParty ..).trans (posted_pushEntry ..)).trans (posted_raiseMbox ..)).trans (ih _)
      · exact .refl s

theorem posted_pushNotice (p : Nat) (bs : List Byte) (s : State) : Posted s (pushNotice p bs s) := by
  unfold pushNotice
  split
  · exact .refl s
  · dsimp only
    split
    · exact posted_modParty ..
    · exact (posted_modParty ..).trans (posted_drainNotices ..)

theorem posted_mboxWrite (p off : Nat) (bs : List Byte) (s : State) : Posted s (mboxWrite p off bs s) := by
  unfold mboxWrite
  split
  · exact ⟨rfl, .refl⟩
  · split
    · exact posted_putBytes ..
    · exact .refl s

theorem posted_answer (p m tag : Nat) (a : Ans) (s : State) : Posted s (answer p m tag a s) :=
  ((posted_mboxWrite ..).trans (posted_modParty ..)).trans (posted_raiseMbox ..)

theorem posted_finish (d : Pend) (a : Ans) (s : State) : Posted s (finish d a s) := by
  unfold finish
  split
  · dsimp only
    split
    · exact (posted_modParty ..).trans (posted_mboxWrite ..)
    · exact (posted_modParty ..).trans (posted_pushNotice ..)
  · exact posted_answer ..

/-! ### Events that a push may write (R98, R103) -/

theorem wrote_fireWatches (a n : Nat) (s : State) : Wrote [] s (fireWatches a n s) := by
  rw [fireWatches_eq]; exact ⟨rfl, rfl⟩
theorem wrote_spPut (l off tag : Nat) (bs : List Byte) (s : State) : Wrote [] s (spPut l off tag bs s) := by
  rw [spPut_eq]; exact ⟨rfl, rfl⟩

theorem wrote_refusal (src code p ini a : Nat) (sec write : Bool) (s : State) :
    ∃ rs : List CadRec, rs.length ≤ 1 ∧ Wrote rs s (refusal src code p ini a sec write s) := by
  unfold refusal
  split
  · exact ⟨[], Nat.zero_le _, rfl, rfl⟩
  · exact ⟨_, Nat.le_refl _, (Wrote.refl s).event ..⟩

theorem wrote_putBytes (w : Writer) (a : Nat) (bs : List Byte) (s : State) : ∃ rs : List CadRec, rs.length ≤ 1 ∧ Wrote rs s (putBytes w a bs s) := by
  unfold putBytes
  split
  · exact ⟨[], Nat.zero_le _, (wrote_fireWatches a _ (memWrite s a bs)).caddy, (wrote_fireWatches a _ (memWrite s a bs)).ktime⟩
  · split
    · exact wrote_refusal ..
    · split
      · exact ⟨_, Nat.le_refl _, (Wrote.refl s).event ..⟩
      · exact ⟨[], Nat.zero_le _, wrote_spPut ..⟩

theorem wrote_pushEntry (q : Nat) (bs : List Byte) (s : State) : ∃ rs : List CadRec, rs.length ≤ 1 ∧ Wrote rs s (pushEntry q bs s) := by
  obtain ⟨rs, hlen, hw⟩ := wrote_putBytes (bySlice s q) ((getQ s q).slotAddr (getQ s q).tail)
    (if (getQ s q).isTile then leBytes 6 ((getQ s q).bufAddr (getQ s q).tail) ++ bs.drop 6 else bs) s
  refine ⟨rs, hlen, ?_⟩
  dsimp only [pushEntry]
  rw [notifyPush_eq]
  exact hw.same rfl rfl

theorem Wrote.trans {rs qs : List CadRec} {s t u : State} (a : Wrote rs s t) (b : Wrote qs t u) : Wrote (rs ++ qs) s u := by
  refine ⟨?_, b.ktime.trans a.ktime⟩
  rw [b.caddy, a.caddy, Caddy.putAll, Caddy.putAll, Caddy.putAll, List.foldl_append]

/-! ### The end of a job (R165, R166) -/

theorem mem_tins {α : Type} [DecidableEq α] [Inhabited α] {k : Nat} {v : α} {t : Tab α} {x : Nat × α} (h : x ∈ tins k v t) :
    x = (k, v) ∨ x ∈ t := by
  have hcons : ∀ {u : Tab α}, x ∈ tcons k v u → x = (k, v) ∨ x ∈ u := fun {u} hx => by
    unfold tcons at hx
    split at hx
    · exact .inr hx
    · exact List.mem_cons.1 hx
  induction t with
  | nil => exact hcons h
  | cons e r ih =>
    obtain ⟨k', w⟩ := e
    unfold tins at h
    split at h
    · exact hcons h
    · rcases List.mem_cons.1 h with rfl | h
      · exact .inr (List.mem_cons_self ..)
      · exact (ih h).imp_right (List.mem_cons_of_mem _)

theorem noJob_tput_same (e : Nat) {v : Estate} (hv : v.job = none) (t : Tab Estate) : NoJob e (tput t e v) := by
  intro x hx he
  rcases mem_tins hx with rfl | hx
  · exact hv
  · exact absurd he (by simpa using List.of_mem_filter hx)

theorem NoJob.tput_ne {e e' : Nat} {t : Tab Estate} (h : NoJob e t) (hne : e ≠ e') (v : Estate) : NoJob e (tput t e' v) := by
  intro x hx he
  rcases mem_tins hx with rfl | hx
  · exact absurd he.symm hne
  · exact h x (List.mem_of_mem_filter hx) he

theorem stopJob_est (e : Nat) (j : Job) (s : State) : (stopJob e j s).1.jobs.est = s.jobs.est := by
  have hfold : ∀ (ls : List Nat) (s : State), (ls.foldl (fun s l => leafStop l s) s).jobs = s.jobs := by
    intro ls
    induction ls with
    | nil => exact fun _ => rfl
    | cons l ls ih => exact fun s => ih (leafStop l s)
  show ((jobLeaves j).foldl (fun s l => leafStop l s) s).jobs.est = _
  rw [hfold]

/-- An estate without its job (R222, R232). -/
def freed (j : Job) (x : Estate) : Estate :=
  { x with
    job := none
    last := if j.lent then x.last else (j.party, recHandle j.record, x.leaves.length)
    switchBack := j.lent
    lentBy := if j.lent then some (j.party, recHandle j.record) else none }

theorem freeEst_est (e : Nat) (j : Job) (s : State) : (freeEst e j s).jobs.est = tput s.jobs.est e (freed j (getEst s e)) := by
  have h : ∀ (c : Bool) (u : State), (if c then u else { u with jobs := { u.jobs with idleSince := u.ktime } }).jobs.est = u.jobs.est := by
    intro c u
    cases c <;> rfl
  exact h _ _

/-- One estate of a job that ends. -/
def closeOne (a : State × Bool) (x : Nat) : State × Bool :=
  match jobOf a.1 x with
  | none => a
  | some k => (freeEst x k (stopJob x k a.1).1, a.2 || (stopJob x k a.1).2)

theorem closeJob_eq (e : Nat) (j : Job) (s : State) : (closeJob e j s).1 = ((jobEsts e j).foldl closeOne (s, false)).1 := rfl

/-- An estate whose job closes has none after that; another estate's close does not give it one. -/
theorem noJob_closeOne {e x : Nat} {a : State × Bool} (h : NoJob e a.1.jobs.est ∨ (jobOf a.1 e).isSome) :
    (NoJob e (closeOne a x).1.jobs.est ∨ (jobOf (closeOne a x).1 e).isSome) ∧ (x = e → NoJob e (closeOne a x).1.jobs.est) := by
  unfold closeOne
  split
  · next hnone =>
    refine ⟨h, fun hx => h.resolve_right ?_⟩
    rw [← hx, hnone]
    exact Bool.false_ne_true
  · next k hk =>
    have hest := freeEst_est x k (stopJob x k a.1).1
    have hsame : x = e → NoJob e (freeEst x k (stopJob x k a.1).1).jobs.est := fun hx => by
      rw [hest, hx]; exact noJob_tput_same e rfl _
    refine ⟨?_, hsame⟩
    by_cases hx : x = e
    · exact .inl (hsame hx)
    · refine h.imp (fun h => ?_) fun h => ?_
      · rw [hest, stopJob_est]
        exact h.tput_ne (Ne.symm hx) _
      · rw [jobOf, getEst, hest, stopJob_est, tget_tput_ne _ _ (Ne.symm hx)]
        exact h

theorem noJob_closeAll {e : Nat} {es : List Nat} (he : e ∈ es) {a : State × Bool} (h : NoJob e a.1.jobs.est ∨ (jobOf a.1 e).isSome) :
    NoJob e (es.foldl closeOne a).1.jobs.est := by
  have hkeep : ∀ (es : List Nat) (a : State × Bool), NoJob e a.1.jobs.est → NoJob e (es.foldl closeOne a).1.jobs.est := by
    intro es
    induction es with
    | nil => exact fun _ h => h
    | cons y es ih =>
      intro a h
      rw [List.foldl_cons]
      refine ih _ ?_
      rcases Nat.decEq y e with hy | hy
      · unfold closeOne
        split
        · exact h
        · next k _ =>
          rw [freeEst_est, stopJob_est]
          exact h.tput_ne (Ne.symm hy) _
      · exact (noJob_closeOne (.inl h)).2 hy
  induction es generalizing a with
  | nil => exact absurd he List.not_mem_nil
  | cons y es ih =>
    rw [List.foldl_cons]
    rcases List.mem_cons.1 he with rfl | he
    · exact hkeep es _ ((noJob_closeOne h).2 rfl)
    · exact ih he (noJob_closeOne h).1

theorem mem_jobEsts (e : Nat) (j : Job) : e ∈ jobEsts e j := by
  unfold jobEsts
  split
  · exact List.mem_cons_self ..
  · split <;> simp

theorem noJob_closeJob {e : Nat} {j : Job} {s : State} (h : jobOf s e = some j) : NoJob e (closeJob e j s).1.jobs.est := by
  rw [closeJob_eq]
  exact noJob_closeAll (mem_jobEsts e j) (.inr (by rw [h]; rfl))

theorem posted_closeRec (x : Left) (status reason : Nat) (s : State) : Posted s (closeRec x status reason s).1 := by
  show Posted s (writeReport x.job (jobImg s x.job) x.secs s).1
  unfold writeReport
  dsimp only
  split
  · exact .refl s
  · exact posted_putBytes ..

/-- A job that ends leaves its estate. -/
theorem jobOf_endJob (e status reason : Nat) (s : State) : jobOf (endJob e status reason s) e = none := by
  unfold endJob
  split
  · next h => exact h
  · next j h =>
    refine NoJob.job_none (NoJob.fired ?_ (posted_complete ..).est)
    exact (noJob_closeJob h).fired (posted_closeRec _ status reason _).est

end Sys2Proof.Machine

/-! Draws, bins and the times of a draw (R88, R251, R252, R258, R262). -/

namespace Sys2Proof.Machine
open Sys2Proof.Claims

/-! ### Draws and bins -/

theorem getGfx_issued (k e : Nat) (s : State) : getGfx (issued k s) e = getGfx s e := by rw [getGfx, issued_eq, getGfx]
theorem getGfx_endStep (k e : Nat) (s : State) : getGfx (endStep k s) e = getGfx s e := rfl
theorem getGfx_setReg (k e : Nat) (r : BitVec 5) (v : Word) (s : State) : getGfx (setReg k r v s) e = getGfx s e := by
  rw [getGfx, (ownRegs_setReg k r v s).1, getGfx]

theorem sreg_endStep (k : Nat) (r : BitVec 5) (s : State) : sreg (endStep k s) k r = sreg s k r := by
  obtain ⟨sh, hth, -⟩ := getTh_endStep_same k s
  rw [sreg, sreg, hth, endStep_badReg]

/-- A step ends at the next instruction, whatever its registers became. -/
theorem stepEnded_of_pc {k : Nat} {s u : State} (h : (getTh u k).pc = (getTh s k).pc) : StepEnded k s (endStep k u) := by
  obtain ⟨sh, hth, hpc, hregs, hpreds⟩ := getTh_endStep_same k u
  refine ⟨?_, ?_, ?_, ?_, ?_, badShadow_checkpoint k _⟩
  · rw [Steps, hth, h]
  · rw [hth]; exact hpc
  · rw [hth]; exact hregs
  · rw [hth]; exact hpreds
  · rw [hth]

/-- The thread has claimed a bin, or none. -/
def binClaimed (k : Nat) (rd : BitVec 5) (v : Word) (b : Nat) (s : State) : State :=
  endStep k (setReg k rd v (modTh s k fun t => { t with bin := b }))

theorem binClaimed_issued {k : Nat} {rd : BitVec 5} {v : Word} {b : Nat} {s u : State} (hth : getTh u k = getTh s k)
    (hbad : u.lv.badReg = s.lv.badReg) (hmem : u.mem = s.mem) : let t := issued k (binClaimed k rd v b u)
    StepEnded k s t ∧ MemSame s t ∧ WritesReg k rd v s t ∧ (getTh t k).bin = b ∧ ∀ e, getGfx t e = getGfx u e := by
  intro t
  have hsreg : ∀ r, sreg t k r = sreg (setReg k rd v (modTh u k fun t => { t with bin := b })) k r := fun r => by
    rw [sreg_issued, binClaimed, sreg_endStep]
  have hkept : ∀ r, sreg (modTh u k fun t => { t with bin := b }) k r = sreg s k r := fun r => by
    simp only [sreg, getTh_modTh_same, hth, modTh_lv_badReg, hbad]
  have hown := ownRegs_setReg k rd v (modTh u k fun t => { t with bin := b })
  obtain ⟨hsame, -, hne⟩ := writesReg_setReg (modTh u k fun t => { t with bin := b }) k rd v
  refine ⟨stepEnded_issued (stepEnded_of_pc ?_), fun x => ?_, ⟨fun hrd => ?_, sreg_zero _ _, fun r hr => ?_⟩, ?_, fun e => ?_⟩
  · rw [pc_setReg, getTh_modTh_same, hth]
  · rw [issued_mem, binClaimed, endStep_mem, setReg_mem, modTh_mem, hmem]
  · rw [hsreg, hsame hrd]
  · rw [hsreg, hne r hr, hkept]
  · obtain ⟨sh, hend, -⟩ := getTh_endStep_same k (setReg k rd v (modTh u k fun t => { t with bin := b }))
    rw [getTh_issued, binClaimed, hend, hown.2.2, getTh_modTh_same]
  · rw [getGfx_issued, binClaimed, getGfx_endStep, getGfx_setReg]
    rfl

/-- The first RBIN of a pass begins its rendering. -/
def rendering (e : Nat) (j : Job) (s : State) : State :=
  if (getGfx s e).render then s else modGfx s e fun g => { g with render := true, claim := 0, bins := passBinsOf s e j }

theorem rendering_eq (e : Nat) (j : Job) (s : State) : rendering e j s = { s with media := (rendering e j s).media } := by
  unfold rendering; split <;> rfl

theorem getGfx_rendering (e : Nat) (j : Job) (s : State) : (getGfx (rendering e j s) e).render = true ∧
    (getGfx (rendering e j s) e).claim = (if (getGfx s e).render then (getGfx s e).claim else 0) ∧
    (getGfx (rendering e j s) e).bins = (if (getGfx s e).render then (getGfx s e).bins else passBinsOf s e j) := by
  unfold rendering
  split
  · next h => exact ⟨h, rfl, rfl⟩
  · rw [getGfx_modGfx_same]
    exact ⟨rfl, rfl, rfl⟩

theorem drawsAndBins : DrawsAndBins := by
  refine ⟨?rdraw, ?rbin⟩
  case rdraw =>
    intro w s e j hi hidle hjob hall hask hrender
    have hop : issue w _ s = issued (thrKey w) _ := issue_ok (f := fun k s =>
      if !idleTh s k then .error .wait
      else match runningJob s (k / 64) with
        | none => .error .wait
        | some (e, _) =>
          let s := endStep k (modGfx (nextPass e (askAll s)) e fun g => { g with draws := tmod g.draws k fun n => min 1048576 (n + 1) })
          if (getGfx s e).ask = 0 then .ok s else boundaryStop e (k / 64) 0 s)
      (t := endStep (thrKey w) (modGfx s e fun g => { g with draws := tmod g.draws (thrKey w) fun n => min 1048576 (n + 1) })) hi (by
        simp only [hidle, hjob, hall, nextPass_of_binning hrender, getGfx_endStep, getGfx_modGfx_same, hask, Bool.not_true,
          Bool.false_eq_true, if_false, if_true])
    refine ⟨_, congrArg Host.Outcome.next hop, ?_⟩
    have hstep := stepEnded_endStep (k := thrKey w) (s := s) (u := modGfx s e fun g =>
      { g with draws := tmod g.draws (thrKey w) fun n => min 1048576 (n + 1) }) ⟨rfl, rfl, rfl⟩
    refine ⟨stepEnded_issued hstep.1, keepsRegs_issued hstep.2, fun x => ?_, ?_, ?_⟩
    · rw [issued_mem, endStep_mem]
      rfl
    · rw [getGfx_issued, getGfx_endStep, getGfx_modGfx_same]
      dsimp only
      rw [tget_tmod_same]
    · rw [getGfx_issued, getGfx_endStep, getGfx_modGfx_same]
  case rbin =>
    intro w rd s e j hi hidle hjob hall hask claim bins
    obtain ⟨hrender, hclaim, hbins⟩ := getGfx_rendering e j s
    have hgfx : ∀ f : Leaf → Leaf, getGfx (modLeaf (rendering e j s) (thrKey w / 64) f) e = getGfx (rendering e j s) e := fun _ => rfl
    have hth : ∀ f : Leaf → Leaf, getTh (modLeaf (rendering e j s) (thrKey w / 64) f) (thrKey w) = getTh s (thrKey w) := fun f => by
      rw [getTh_modLeaf, rendering_eq]; rfl
    have hlv : (rendering e j s).lv.badReg = s.lv.badReg := by rw [rendering_eq]
    have hmem : (rendering e j s).mem = s.mem := by rw [rendering_eq]
    by_cases hlt : claim < bins
    · simp only [if_pos hlt]
      obtain ⟨hend, hsame, hreg, hbin, hg⟩ := binClaimed_issued (k := thrKey w) (rd := rd) (v := BitVec.ofNat 32 claim) (b := claim + 1) (s := s)
        (u := modGfx (modLeaf (rendering e j s) (thrKey w / 64) fun x => { x with setup := tput x.setup (thrKey w % 64) 0 }) e fun x =>
          { x with claim := x.claim + 1 }) (hth _) hlv hmem
      refine ⟨_, congrArg Host.Outcome.next (issue_ok hi ?op), hend, hsame, ?_, ?_, hreg, ?_, hbin⟩
      case op =>
        simp only [hidle, hjob, hall, hask, ne_eq, not_true_eq_false, if_false, Bool.not_true, Bool.false_eq_true]
        rw [← rendering]
        simp only [hclaim, hbins]
        rw [if_pos hlt]
        rfl
      all_goals rw [hg, getGfx_modGfx_same, hgfx]
      · exact hrender
      · exact hbins
      · exact congrArg (· + 1) hclaim
    · simp only [if_neg hlt]
      obtain ⟨hend, hsame, hreg, hbin, hg⟩ := binClaimed_issued (k := thrKey w) (rd := rd) (v := 0xFFFFFFFF#32) (b := 0) (s := s)
        (u := modLeaf (rendering e j s) (thrKey w / 64) fun x => { x with setup := tput x.setup (thrKey w % 64) 0 }) (hth _) hlv hmem
      refine ⟨_, congrArg Host.Outcome.next (issue_ok hi ?op), hend, hsame, ?_, ?_, hreg, ?_, hbin⟩
      case op =>
        simp only [hidle, hjob, hall, hask, ne_eq, not_true_eq_false, if_false, Bool.not_true, Bool.false_eq_true]
        rw [← rendering]
        simp only [hclaim, hbins]
        rw [if_neg hlt]
        rfl
      all_goals rw [hg, hgfx]
      · exact hrender
      · exact hbins
      · exact hclaim

/-! ### Times of a draw -/

theorem posted_faultRec (e kind bytes : Nat) (s : State) : Posted s (faultRec e kind bytes s) := by
  unfold faultRec
  split
  · exact .refl s
  · dsimp only
    split
    · exact .refl s
    · exact posted_pushEntry ..

theorem wrote_faultRec (e kind bytes : Nat) (s : State) : ∃ rs : List CadRec, rs.length ≤ 1 ∧ Wrote rs s (faultRec e kind bytes s) := by
  unfold faultRec
  split
  · exact ⟨[], Nat.zero_le _, .refl s⟩
  · dsimp only
    split
    · exact ⟨[], Nat.zero_le _, .refl s⟩
    · exact wrote_pushEntry ..

/-- The first of the records written since `s` stands in the slot that was next then. -/
theorem Wrote.code_first {r : CadRec} {rs : List CadRec} {s t : State} (h : Wrote (r :: rs) s t) {code : Nat} (hr : r.code = code)
    (hlen : rs.length < 1024) : (tget t.caddy.ring s.caddy.slot).code = code := by
  obtain ⟨q, hq, hnext⟩ := ring_putAll (r :: rs) s.caddy (i := 0) (by simp) (by simpa using hlen)
  rw [← h.caddy, ← Caddy.slot_eq] at hq
  rw [hq]
  exact hr

/-- A record that was written first still stands after the record of a fault. -/
theorem wrote_faultRec_after {r : CadRec} {s t : State} (h : Wrote [r] s t) (e kind bytes : Nat) :
    ∃ rs : List CadRec, rs.length ≤ 1 ∧ Wrote (r :: rs) s (faultRec e kind bytes t) := by
  obtain ⟨rs, hlen, hrs⟩ := wrote_faultRec e kind bytes t
  exact ⟨rs, hlen, h.trans hrs⟩

/-- The bins that a flush renders, and the state with their samples stored. -/
def flushedBins (g : Gfx) : List Nat := insertAll (g.tris.flatMap (·.bins))
def flushStored (e : Nat) (j : Job) (s : State) : State :=
  (flushedBins (getGfx s e)).foldl (flushBin (passBlk s e j) ((jobLeaves j).headD 0) (getGfx s e)) s

/-- The pass after a flush. -/
def Gfx.flushedBy (bins : List Nat) (draw : Nat) (x : Gfx) : Gfx :=
  { x with used := 0, grow := false, tris := [], flushed := insertAll (x.flushed ++ bins), flushedIn := draw + 1 }

theorem flushPass_eq {e draw : Nat} {j : Job} {s : State} (hjob : jobOf s e = some j) : flushPass e draw s =
    faultRec e 2 0 (modGfx (event srcAfzan 0x8004 j.party (leBytes 1 e ++ leBytes 1 j.party ++ leBytes 2 (getGfx s e).pass ++
      leBytes 4 (flushedBins (getGfx s e)).length) (flushStored e j s)) e (Gfx.flushedBy (flushedBins (getGfx s e)) draw)) := by
  simp only [flushPass, hjob]
  rfl

theorem exec_growTimeout {e : Fin 16} {j : Job} {s : State} (hjob : jobOf s e.val = some j) (hgrow : (getGfx s e.val).grow = true)
    (htime : (getGfx s e.val).growAt + j.gset.growUs * 100 ≤ s.ktime) : exec (.binGrowTimeout e) s =
      .next (if (getGfx s e.val).flushedIn = (getGfx s e.val).stopDraw + 1 then
        settle (abortJob e.val stNO_RESOURCE (modGfx s e.val fun x => { x with grow := false }))
      else flushPass e.val (getGfx s e.val).stopDraw s) := by
  refine congrArg Host.Outcome.next ?_
  simp only [hjob, hgrow, Bool.not_true, Bool.false_or, decide_eq_true_eq, if_neg (Nat.not_lt.2 htime)]

theorem flushTimeout {e : Fin 16} {j : Job} {s : State} (hjob : jobOf s e.val = some j) (hgrow : (getGfx s e.val).grow = true)
    (htime : (getGfx s e.val).growAt + j.gset.growUs * 100 ≤ s.ktime) (hfirst : (getGfx s e.val).flushedIn ≠ (getGfx s e.val).stopDraw + 1) :
    Runs (.binGrowTimeout e) s fun t => (getGfx t e.val).used = 0 ∧ (getGfx t e.val).grow = false ∧ (getGfx t e.val).tris = [] ∧
      (getGfx t e.val).flushedIn = (getGfx s e.val).stopDraw + 1 ∧
      ((getGfx s e.val).tris = [] → t.lv.threads = s.lv.threads ∧ (getGfx t e.val).pass = (getGfx s e.val).pass ∧
        Logs 0x8004 srcAfzan (leBytes 1 e.val ++ leBytes 1 j.party ++ leBytes 2 (getGfx s e.val).pass ++ leBytes 4 0) s t) := by
  refine ⟨_, exec_growTimeout hjob hgrow htime, ?_⟩
  dsimp only
  rw [if_neg hfirst, flushPass_eq hjob, (posted_faultRec ..).getGfx, getGfx_modGfx_same, (posted_faultRec ..).threads]
  refine ⟨rfl, rfl, rfl, rfl, fun htris => ?_⟩
  have hbins : flushedBins (getGfx s e.val) = [] := by rw [flushedBins, htris]; rfl
  have hstored : flushStored e.val j s = s := by rw [flushStored, hbins]; rfl
  rw [hbins, hstored]
  obtain ⟨rs, hlen, hw⟩ := wrote_faultRec_after (((Wrote.refl s).event srcAfzan 0x8004 j.party
    (leBytes 1 e.val ++ leBytes 1 j.party ++ leBytes 2 (getGfx s e.val).pass ++ leBytes 4 0)).same (u := modGfx (event srcAfzan 0x8004 j.party
      (leBytes 1 e.val ++ leBytes 1 j.party ++ leBytes 2 (getGfx s e.val).pass ++ leBytes 4 0) s) e.val
      (Gfx.flushedBy [] (getGfx s e.val).stopDraw)) rfl rfl) e.val 2 0
  exact ⟨rfl, rfl, hw.logs (by omega) rfl (by simp)⟩

/-- The stopped threads of a list run on. -/
def resume (ks : List Nat) (s : State) : State :=
  ks.foldl (fun s k => if (getTh s k).mode = .preempted then modTh s k fun t => { t with mode := .running } else s) s

theorem getTh_resume (ks : List Nat) (s : State) (j : Nat) : getTh (resume ks s) j =
    if j ∈ ks ∧ (getTh s j).mode = .preempted then { getTh s j with mode := .running } else getTh s j := by
  induction ks generalizing s with
  | nil => simp [resume]
  | cons k ks ih =>
    have hstep : getTh (resume (k :: ks) s) j = _ := ih (if (getTh s k).mode = .preempted then modTh s k fun t => { t with mode := .running } else s)
    rw [hstep]
    by_cases hk : j = k
    · subst hk
      by_cases hm : (getTh s j).mode = .preempted <;> simp [hm]
    · have hsame : getTh (if (getTh s k).mode = .preempted then modTh s k fun t => { t with mode := .running } else s) j = getTh s j := by
        split
        · exact getTh_modTh_ne _ _ hk
        · rfl
      rw [hsame]
      simp [hk]

theorem resume_eq (ks : List Nat) (s : State) : resume ks s = { s with lv := { s.lv with threads := (resume ks s).lv.threads } } := by
  induction ks generalizing s with
  | nil => rfl
  | cons k ks ih =>
    have hstep : resume (k :: ks) s = resume ks (if (getTh s k).mode = .preempted then modTh s k fun t => { t with mode := .running } else s) := rfl
    rw [hstep, ih]
    split <;> rfl

theorem exec_preemptAbandoned {e : Fin 16} {j : Job} {s : State} (hjob : jobOf s e.val = some j) (hask : (getGfx s e.val).ask ≠ 0)
    (htime : (getGfx s e.val).askAt + (getGfx s e.val).askUs * 100 ≤ s.ktime) :
    ∃ args, exec (.preemptAbandoned e) s = .next (faultRec e.val 5 0
      (event srcAfzan 0x800A j.party args (modGfx (resume (jobThreads s j) s) e.val fun x => { x with ask := 0 }))) := by
  have hwait : ¬ (decide ((getGfx s e.val).ask = 0) || decide (s.ktime < (getGfx s e.val).askAt + (getGfx s e.val).askUs * 100)) = true := by
    simp [hask, Nat.not_lt.2 htime]
  refine ⟨?args, congrArg Host.Outcome.next ?eq⟩
  case eq =>
    simp only [hjob, hwait]
    rfl

theorem preemptAbandoned {e : Fin 16} {j : Job} {s : State} (hjob : jobOf s e.val = some j) (hask : (getGfx s e.val).ask ≠ 0)
    (htime : (getGfx s e.val).askAt + (getGfx s e.val).askUs * 100 ≤ s.ktime) :
    Runs (.preemptAbandoned e) s fun t => (getGfx t e.val).ask = 0 ∧
      (∀ k ∈ jobThreads s j, (getTh s k).mode = .preempted → (getTh t k).mode = .running) ∧
      (∀ k, (getTh s k).mode ≠ .preempted → getTh t k = getTh s k) ∧ (tget t.caddy.ring s.caddy.slot).code = 0x800A := by
  obtain ⟨args, hexec⟩ := exec_preemptAbandoned hjob hask htime
  set u := modGfx (resume (jobThreads s j) s) e.val fun x => { x with ask := 0 } with hu
  have hth : ∀ k, getTh (faultRec e.val 5 0 (event srcAfzan 0x800A j.party args u)) k = getTh (resume (jobThreads s j) s) k := fun k =>
    (posted_faultRec ..).getTh k
  have hsame : u.caddy = s.caddy ∧ u.ktime = s.ktime := by
    rw [hu, resume_eq]; exact ⟨rfl, rfl⟩
  obtain ⟨rs, hlen, hw⟩ := wrote_faultRec_after (((Wrote.refl s).same hsame.1 hsame.2).event srcAfzan 0x800A j.party args) e.val 5 0
  refine ⟨_, hexec, ?_, fun k hk hm => ?_, fun k hm => ?_, ?_⟩
  · rw [(posted_faultRec ..).getGfx]
    exact congrArg (·.ask) (getGfx_modGfx_same ..)
  · rw [hth, getTh_resume, if_pos ⟨hk, hm⟩]
  · rw [hth, getTh_resume, if_neg fun h => hm h.2]
  · exact hw.code_first rfl (by omega)

/-- The times that a draw may take. -/
theorem graphicsTimeouts : GraphicsTimeouts := by
  refine ⟨?flush, ?ends, ?abandon⟩
  case flush => exact fun e s j hjob hgrow htime hfirst => flushTimeout hjob hgrow htime hfirst
  case ends =>
    intro e s j hjob hgrow htime hagain
    have hend := jobOf_endJob e.val stABORTED stNO_RESOURCE (modGfx s e.val fun x => { x with grow := false })
    exact ⟨_, (exec_growTimeout hjob hgrow htime).trans (congrArg _ (if_pos hagain)), hend⟩
  case abandon => exact fun e s j hjob hask htime => preemptAbandoned hjob hask htime

/-- Settles O21: draws count, bins are claimed in order, and what stays pending ends in time. -/
theorem drawsBinsAndTimeouts : Obligations.DrawsBinsAndTimeouts := ⟨drawsAndBins, graphicsTimeouts⟩

end Sys2Proof.Machine

/-! Writes of queue pointers (R142, R143, R146): the refutation. A write of QPT_HEAD with the value that HEAD already has is accepted (R143: the
forward distance is 0), passes no entry and changes nothing. The clause asks that RETIRE of a queue that is no TILE queue then equals the value
written; it gives no hypothesis that RETIRE equalled HEAD before. In the state below it did not.

The statement gives the state only up to the work of `queueMoved`. So the proof also needs that this work keeps HEAD and RETIRE of such a queue
together where they are (a pop moves both to one place, and nothing else of it moves either). -/

namespace Sys2Proof.Machine
open Sys2Proof.Claims

/-! ### What reads of a unit leave of the queues -/

theorem queue_cacheCheck (line : Nat) (s : State) : (cacheCheck line s).1.queue = s.queue := by
  unfold cacheCheck
  split
  · rfl
  · dsimp only
    split
    · rfl
    · split
      · rfl
      · split <;> rfl

theorem queue_readLine (i : Initiator) (w : Who) (line : Nat) (s : State) : (readLine i w line s).1.queue = s.queue := by
  have hcheck := queue_cacheCheck line s
  unfold readLine
  dsimp only
  split
  · exact hcheck
  · have hsnoop : (if isCore i then snoopAdd line (cacheCheck line s).1 else (cacheCheck line s).1).queue = s.queue := by
      split
      · exact hcheck
      · exact hcheck
    generalize (if isCore i then snoopAdd line (cacheCheck line s).1 else (cacheCheck line s).1) = u at hsnoop ⊢
    split
    · exact hsnoop
    · have hmiss := ((path_modCg u (cgOf s (line * 64)) fun x => { x with misses := x.misses.add 1 }).trans
        (path_strainerIn (cgOf s (line * 64)) (classOf u i w (line * 64)).1 (classOf u i w (line * 64)).2 64 _)).trans
        (path_linkCross false line _)
      generalize linkCross false line _ = x at hmiss ⊢
      split
      · exact hmiss.queue.trans hsnoop
      · have hfix : PathOnly x.1 (if tget x.1.mem.lineErr line = 1 then dramCorrected line x.1 else x.1) := by
          split
          · exact path_dramCorrected line x.1
          · exact .refl x.1
        generalize (if tget x.1.mem.lineErr line = 1 then dramCorrected line x.1 else x.1) = v at hfix ⊢
        split
        · exact (hmiss.trans hfix).queue.trans hsnoop
        · exact ((hmiss.trans hfix).trans (path_allocLine _ _ _ _ _)).queue.trans hsnoop

theorem queue_dramRead (i : Initiator) (w : Who) (a n : Nat) (data : List Byte) (s : State) : (dramAccess i w false a n data s).1.queue = s.queue := by
  have hfold : ∀ (ls : List (Nat × Nat)) (x : State × Bool), (ls.foldl (fun (x : State × Bool) l =>
      ((readLine i w l.1 x.1).1, x.2 && (readLine i w l.1 x.1).2)) x).1.queue = x.1.queue := by
    intro ls
    induction ls with
    | nil => exact fun _ => rfl
    | cons l ls ih => exact fun x => (ih _).trans (queue_readLine ..)
  simp only [dramAccess, Bool.false_eq_true, if_false]
  split <;> exact hfold _ (s, true)

theorem queue_spOne (w : Who) (l off n : Nat) (data : List Byte) (s : State) : (spOne w false l off n data s).1.queue = s.queue := by
  unfold spOne
  dsimp only
  split
  · exact event_queue ..
  · split
    · rfl
    · rw [if_neg Bool.false_ne_true]
      split <;> rfl

theorem queue_foldl {β γ : Type} {f : State × β → γ → State × β} (hf : ∀ x p, (f x p).1.queue = x.1.queue) (ps : List γ) (x : State × β) :
    (ps.foldl f x).1.queue = x.1.queue := by
  induction ps generalizing x with
  | nil => rfl
  | cons p ps ih => exact (ih _).trans (hf x p)

theorem queue_ite {β : Type} {c : Prop} [Decidable c] {x y : State × β} {q : Tab Queue} (hx : x.1.queue = q) (hy : y.1.queue = q) :
    (if c then x else y).1.queue = q := by
  split <;> assumption

theorem queue_mk {β : Type} {r : State × β} {q : Tab Queue} (h : r.1.queue = q) (e : β) : (r.1, e).1.queue = q := h

theorem queue_spRead (w : Who) (a n : Nat) (data : List Byte) (s : State) : (spAccess w false a n data s).1.queue = s.queue := by
  unfold spAccess
  extract_lets ps at_
  refine queue_ite rfl (queue_foldl (fun x p => ?_) _ (s, Ended.done stOK []))
  exact queue_mk (queue_spOne w _ _ _ _ x.1) _

theorem queue_foldlS {γ : Type} {f : State → γ → State} (hf : ∀ x p, (f x p).queue = x.queue) (ps : List γ) (x : State) :
    (ps.foldl f x).queue = x.queue := by
  induction ps generalizing x with
  | nil => rfl
  | cons p ps ih => exact (ih _).trans (hf x p)

theorem queue_haltEst (e : Nat) (s : State) : (haltEst e s).queue = s.queue := by
  unfold haltEst
  dsimp only
  split
  · rfl
  · next j _ => exact queue_foldlS (f := fun s l => leafStop l s) (fun _ _ => rfl) (jobLeaves j) s

theorem queue_twoFault (es : List Nat) (src : Nat) (s : State) : (twoFault es src s).queue = s.queue := by
  have h := queue_foldlS (f := fun s e => haltEst e s) (fun s e => queue_haltEst e s) es s
  unfold twoFault freezeMarker
  dsimp only
  split <;> exact h

theorem queue_sharedFault (es : List Nat) (src : Nat) (s : State) : (sharedFault es src s).queue = s.queue := by
  unfold sharedFault
  split
  · rfl
  · exact queue_twoFault ..

theorem queue_fabricHit (x : Nat × Nat × Nat) (s : State) : (fabricHit x s).queue = s.queue := queue_sharedFault ..

theorem queue_refuseEvent (src : Nat) (w : Who) (write : Bool) (a : Nat) (v : Verdict) (s : State) :
    (refuseEvent src w write a v s).queue = s.queue := (scalarsKept_refusal ..).queue

theorem queue_endGroups (ini : Nat) (f : OutTx → Bool) (s : State) : (endGroups ini f s).queue = s.queue :=
  queue_foldlS (f := fun s (x : OutTx) => sendConfirm x.tag s) (fun _ _ => rfl) _ s

theorem queue_outRead (w : Who) (a n : Nat) (data : List Byte) (waiter : List Nat) (s : State) :
    (outAccess w false a n data waiter s).1.queue = s.queue := by
  unfold outAccess
  split
  · rfl
  · dsimp only
    split
    · rfl
    · split
      · exact event_queue ..
      · split
        · rfl
        · rw [if_neg Bool.false_ne_true]
          exact queue_endGroups ..

/-! ### HEAD and RETIRE together -/

/-- From `s` to `t`, queue `q` keeps its kind, and where it is no TILE queue and its RETIRE is at its HEAD, that stays so (R139). -/
structure StaysTogether (q : Nat) (s t : State) : Prop where
  kind : (getQ t q).kind = (getQ s q).kind
  keeps : (getQ s q).isTile = false → (getQ s q).retire = (getQ s q).head → (getQ t q).retire = (getQ t q).head

theorem StaysTogether.refl (q : Nat) (s : State) : StaysTogether q s s := ⟨rfl, fun _ h => h⟩
theorem StaysTogether.trans {q : Nat} {s t u : State} (a : StaysTogether q s t) (b : StaysTogether q t u) : StaysTogether q s u :=
  ⟨b.kind.trans a.kind, fun ht h => b.keeps (by rw [Queue.isTile, a.kind]; exact ht) (a.keeps ht h)⟩

theorem StaysTogether.of_queue {q : Nat} {s t : State} (h : t.queue = s.queue) : StaysTogether q s t := by
  constructor
  · rw [getQ, h, getQ]
  · rw [getQ, getQ, h]
    exact fun _ h => h

theorem StaysTogether.of_tmod {q j : Nat} {s t : State} {f : Queue → Queue} (h : t.queue = tmod s.queue j f)
    (hf : ∀ x, (f x).kind = x.kind ∧ (x.isTile = false → x.retire = x.head → (f x).retire = (f x).head)) : StaysTogether q s t := by
  by_cases hq : q = j
  · subst hq
    have hget : getQ t q = f (getQ s q) := by rw [getQ, h, tget_tmod_same, ← getQ]
    obtain ⟨hkind, hf⟩ := hf (getQ s q)
    exact ⟨by rw [hget, hkind], by rw [hget]; exact hf⟩
  · have hget : getQ t q = getQ s q := by rw [getQ, h, tget_tmod_ne _ _ hq, ← getQ]
    exact ⟨by rw [hget], by rw [hget]; exact fun _ h => h⟩

section
variable (q : Nat) (s : State)

theorem together_modQ (j : Nat) {f : Queue → Queue}
    (hf : ∀ x, (f x).kind = x.kind ∧ (f x).retire = x.retire ∧ (f x).head = x.head := by exact fun _ => ⟨rfl, rfl, rfl⟩) :
    StaysTogether q s (modQ s j f) := .of_tmod rfl fun x => by
  obtain ⟨hk, hr, hh⟩ := hf x
  exact ⟨hk, fun _ h => by rw [hr, hh, h]⟩

theorem together_pushEntry (j : Nat) (bs : List Byte) : StaysTogether q s (pushEntry j bs s) := by
  obtain ⟨v, -, -, -, -, hq⟩ := pushEntry_effect j bs s
  exact .of_tmod hq fun x => ⟨rfl, fun _ h => h⟩

theorem together_popEntry (j : Nat) : StaysTogether q s (popEntry j s) :=
  .of_tmod (popEntry_effect j s).2.2 fun x => ⟨rfl, fun htile _ => by simp [htile]⟩

theorem queue_raiseIrq (i : IrqEntry) : (raiseIrq i s).queue = s.queue := by
  unfold raiseIrq
  split
  · rfl
  · split <;> rfl

theorem queue_raiseMbox (p : Nat) : (raiseMbox p s).queue = s.queue := by
  unfold raiseMbox
  split
  · rfl
  · exact queue_raiseIrq ..

theorem queue_mboxWrite (p off : Nat) (bs : List Byte) : (mboxWrite p off bs s).queue = s.queue := by
  unfold mboxWrite
  split
  · rfl
  · split
    · exact (scalarsKept_putBytes ..).queue
    · rfl

theorem together_drainHeld (j n : Nat) : StaysTogether q s (drainHeld j n s) := by
  induction n generalizing s with
  | zero => exact .refl q s
  | succ n ih =>
    unfold drainHeld
    split
    · exact .refl q s
    · split
      · exact ((together_modQ q s j).trans (together_pushEntry ..)).trans (ih _)
      · exact .refl q s

theorem together_drainNotices (p n : Nat) : StaysTogether q s (drainNotices p n s) := by
  induction n generalizing s with
  | zero => exact .refl q s
  | succ n ih =>
    unfold drainNotices
    split
    · exact .refl q s
    · dsimp only
      split
      · exact (StaysTogether.trans (.of_queue (modParty_queue ..)) ((together_pushEntry q _ _ _).trans (.of_queue (queue_raiseMbox ..)))).trans (ih _)
      · exact .refl q s

theorem together_pushNotice (p : Nat) (bs : List Byte) : StaysTogether q s (pushNotice p bs s) := by
  unfold pushNotice
  split
  · exact .refl q s
  · dsimp only
    split
    · exact .of_queue (modParty_queue ..)
    · exact StaysTogether.trans (.of_queue (modParty_queue ..)) (together_drainNotices q _ p _)

theorem together_finish (d : Pend) (a : Ans) : StaysTogether q s (finish d a s) := by
  unfold finish
  split
  · dsimp only
    split
    · exact .of_queue (queue_mboxWrite ..)
    · exact StaysTogether.trans (.of_queue (modParty_queue ..)) (together_pushNotice q _ d.party _)
  · exact .of_queue ((queue_raiseMbox ..).trans (queue_mboxWrite ..))

theorem together_finish_of {u : State} (h : u.queue = s.queue) (d : Pend) (a : Ans) : StaysTogether q s (finish d a u) :=
  StaysTogether.trans (.of_queue h) (together_finish q u d a)

theorem together_foldl {γ : Type} {f : State → γ → State} (hf : ∀ s x, StaysTogether q s (f s x)) (xs : List γ) :
    StaysTogether q s (xs.foldl f s) := by
  induction xs generalizing s with
  | nil => exact .refl q s
  | cons x xs ih => exact (hf s x).trans (ih _)

theorem together_roomMade (j : Nat) : StaysTogether q s (roomMade j s) := by
  refine (together_drainHeld q s j _).trans (together_foldl q _ (fun s p => ?_) _)
  split
  · exact together_drainNotices ..
  · exact .refl q s

/-! ### The units that wait for a queue -/

theorem queue_dblReadEffect (p off : Nat) : (dblReadEffect p off s).queue = s.queue := by
  unfold dblReadEffect
  split <;> rfl

theorem queue_brgReadEffect (p off : Nat) : (brgReadEffect p off s).queue = s.queue := by
  unfold brgReadEffect
  dsimp only
  split
  · split <;> rfl
  · split
    · split <;> rfl
    · rfl

theorem together_qptReadEffect (j off : Nat) : StaysTogether q s (qptReadEffect j off s) := by
  unfold qptReadEffect
  split
  · exact together_modQ ..
  · exact together_modQ ..
  · exact .refl q s

theorem together_regRead (a n : Nat) (data : List Byte) (val : Nat → Nat) {rd : Nat → State → State} {wr : Bool → Nat → Nat → State → State}
    {base : Nat} (h : ∀ off, StaysTogether q s (rd off s)) : StaysTogether q s (regAccess false a n data val rd wr base s).1 := by
  unfold regAccess
  dsimp only
  rw [if_neg Bool.false_ne_true]
  split
  · exact h _
  · exact .refl q s

theorem together_accessRead (i : Initiator) (a n : Nat) (waiter : List Nat) : StaysTogether q s (access i false a n [] waiter s).1 := by
  unfold access
  dsimp only
  split
  · exact .of_queue (queue_refuseEvent ..)
  · split
    · exact .of_queue (queue_fabricHit ..)
    · split
      · exact .of_queue (queue_refuseEvent ..)
      · split
        · exact .of_queue (queue_dramRead ..)
        · split
          · exact .of_queue (queue_spRead ..)
          · split
            · exact together_regRead q s _ _ _ _ (fun off => .of_queue (queue_dblReadEffect s _ off))
            · split
              · exact together_regRead q s _ _ _ _ (fun off => together_qptReadEffect q s _ off)
              · split
                · split <;> exact .refl q s
                · split
                  · exact together_regRead q s _ _ _ _ (fun off => .of_queue (queue_brgReadEffect s _ off))
                  · exact .of_queue (queue_outRead ..)

theorem queue_zeroDone (a n : Nat) : (zeroDone a n s).queue = s.queue := by
  unfold zeroDone
  split
  · rfl
  · refine queue_foldlS (fun u i => ?_) _ s
    dsimp only
    split <;> rfl

theorem together_unitRead (i : Initiator) (a n : Nat) : StaysTogether q s (unitAccess i false a n [] s).1 := by
  unfold unitAccess
  dsimp only
  split
  · exact StaysTogether.trans (.of_queue (queue_zeroDone s a n)) (together_accessRead q _ i a n [])
  · exact together_accessRead ..

theorem together_busRead (i : Initiator) (a n : Nat) : StaysTogether q s (busRead i a n s).1 := by
  have hfold : ∀ (ps : List (Nat × Nat)) (x : State × Nat × List Byte), StaysTogether q x.1 (ps.foldl (fun (x : State × Nat × List Byte) p =>
      if x.2.1 ≠ stOK then x
      else ((unitAccess i false p.1 p.2 [] x.1).1, endedStatus (unitAccess i false p.1 p.2 [] x.1).2,
        x.2.2 ++ endedData (unitAccess i false p.1 p.2 [] x.1).2)) x).1 := by
    intro ps
    induction ps with
    | nil => exact fun x => .refl q x.1
    | cons p ps ih =>
      intro x
      refine StaysTogether.trans ?_ (ih _)
      beta_reduce
      split
      · exact .refl q x.1
      · exact together_unitRead q x.1 i p.1 p.2
  exact hfold (lineParts a n) (s, stOK, [])

theorem together_canDrop (c : Nat) : StaysTogether q s (canDrop c s) := by
  unfold canDrop
  dsimp only
  split <;> exact .of_queue rfl

theorem together_canFeedN (c n : Nat) : StaysTogether q s (canFeedN c n s) := by
  induction n generalizing s with
  | zero => exact .refl q s
  | succ n ih =>
    unfold canFeedN
    dsimp only
    split
    · exact .refl q s
    · split
      · exact StaysTogether.trans (.of_queue (modCan_queue ..)) (ih _)
      · split
        · exact .refl q s
        · refine StaysTogether.trans ?_ (ih _)
          have hread := ((together_popEntry q s (canTx (getCan s c).conf)).trans (together_roomMade q _ (canTx (getCan s c).conf))).trans
            (together_busRead q _ (gwIni (ownerOf (getCan s c).owner)) (field (headEntry s (canTx (getCan s c).conf)) 24 6)
              (field (headEntry s (canTx (getCan s c).conf)) 14 2))
          split
          · exact hread.trans (.of_queue (modCan_queue ..))
          · exact hread.trans (together_canDrop ..)

theorem together_canFeedQ (j : Nat) : StaysTogether q s (canFeedQ j s) := by
  refine together_foldl q s (fun s c => ?_) _
  split
  · exact together_canFeedN ..
  · exact .refl q s

theorem together_ioDrain (u n : Nat) : StaysTogether q s (ioDrain u n s) := by
  induction n generalizing s with
  | zero => exact .refl q s
  | succ n ih =>
    unfold ioDrain
    dsimp only
    split
    · exact .refl q s
    · split
      · exact (StaysTogether.trans (.of_queue (modUnit_queue ..)) (together_pushEntry q _ _ _)).trans (ih _)
      · exact .refl q s

theorem together_ioCloseIfDone (u : Nat) : StaysTogether q s (ioCloseIfDone u s) := by
  unfold ioCloseIfDone
  split
  · exact .refl q s
  · split
    · refine together_finish_of q s ?_ _ _
      rfl
    · exact .refl q s

theorem together_vnicDrain (v n : Nat) : StaysTogether q s (vnicDrain v n s) := by
  induction n generalizing s with
  | zero => exact .refl q s
  | succ n ih =>
    unfold vnicDrain
    dsimp only
    split
    · exact .refl q s
    · split
      · exact (StaysTogether.trans (.of_queue (modVnic_queue ..)) (together_pushEntry q _ _ _)).trans (ih _)
      · exact .refl q s

theorem together_vnicCloseIfDone (v : Nat) : StaysTogether q s (vnicCloseIfDone v s) := by
  unfold vnicCloseIfDone
  dsimp only
  split
  · exact .refl q s
  · split
    · refine together_finish_of q s ?_ _ _
      rfl
    · exact .refl q s

theorem together_unitRoom (j : Nat) : StaysTogether q s (unitRoom j s) := by
  refine StaysTogether.trans (together_foldl q s (fun s u => ?_) _) (together_foldl q _ (fun s v => ?_) _)
  · split
    · exact (together_ioDrain q s u _).trans (together_ioCloseIfDone q _ u)
    · exact .refl q s
  · split
    · exact (together_vnicDrain q s v _).trans (together_vnicCloseIfDone q _ v)
    · exact .refl q s

theorem together_closeSesIfDone (k : Nat) : StaysTogether q s (closeSesIfDone k s) := by
  have hclosed : ∀ (d : Pend) (u : State), StaysTogether q u (finish d ok (closeSes k u)) := fun d u => by
    refine together_finish_of q u ?_ d ok
    rfl
  unfold closeSesIfDone
  dsimp only
  split
  · exact .refl q s
  · split
    · exact .refl q s
    · split
      · exact hclosed _ _
      · split
        · exact .refl q s
        · exact (together_pushEntry q s _ _).trans (hclosed _ _)

theorem together_queueMoved (j : Nat) : StaysTogether q s (queueMoved j s) := by
  refine ((together_canFeedQ q s j).trans (together_unitRoom q _ j)).trans (together_foldl q _ (fun s k => ?_) _)
  split
  · exact together_closeSesIfDone ..
  · exact .refl q s

end

/-! ### The counterexample -/

/-- Queue 4 is a COMPLETE queue that software reads. Its HEAD is 0 and its RETIRE 1. -/
def retiredAhead : State := modQ Tests.upS 4 fun q => { q with tail := 2, retire := 1 }

/-- A core of G0 writes QPT_HEAD of queue 4 with the value that it has. -/
def sameHead : Instr := .qptHeadWrite ⟨.core 5 (.g 0), 8, 0⟩ 4 0

/-- Where the write of the same HEAD leads, the queue is still no TILE queue, and its pointers are apart. -/
theorem apart_sameHead : (match exec sameHead retiredAhead with
    | .next t => decide ((getQ t 4).kind = 3 ∧ (getQ t 4).retire ≠ (getQ t 4).head)
    | _ => false) = true := by decide +kernel

/-- Refutes O22: an accepted write of QPT_HEAD that passes no entry leaves RETIRE where it was. -/
theorem not_queuePointerWrites : ¬ Obligations.QueuePointerWrites := by
  unfold Obligations.QueuePointerWrites
  rintro ⟨-, hhead⟩
  obtain ⟨u, hexec, -, -, hu⟩ := hhead ⟨.core 5 (.g 0), 8, 0⟩ 4 0 retiredAhead (by decide +kernel) (by decide +kernel) (by decide +kernel)
  rw [if_pos (by decide +kernel)] at hu
  obtain ⟨hmoved, hretire, -⟩ := hu
  rw [if_neg (by decide +kernel)] at hretire
  have hapart := apart_sameHead
  rw [show exec sameHead retiredAhead = _ from hexec] at hapart
  obtain ⟨hkind, hapart⟩ := of_decide_eq_true hapart
  have hstays := together_queueMoved 4 u 4
  refine hapart (hstays.keeps ?_ (hretire.trans hmoved.symm))
  simp only [Queue.isTile, ← hstays.kind, decide_eq_false_iff_not]
  exact fun h => absurd (hkind.symm.trans h) (by decide)

end Sys2Proof.Machine

/-! Doorbell pages (R54, R145, R146, R358): an accepted register access, and what each register of a page does. -/

namespace Sys2Proof.Machine
open Sys2Proof.Claims

/-! ### Register accesses on the bus (R542) -/

theorem leNat_leBytes (n v : Nat) : leNat (leBytes n v) = v % 256 ^ n := by
  induction n generalizing v with
  | zero => simp [leBytes, leNat, Nat.mod_one]
  | succ n ih =>
    have hbyte : (BitVec.ofNat 8 v).toNat = v % 256 := BitVec.toNat_ofNat v 8
    rw [leBytes, leNat, ih, hbyte, Nat.pow_succ, Nat.mul_comm (256 ^ n) 256, Nat.mod_mul]

theorem leNat_word (v : BitVec 64) : leNat (leBytes 8 v.toNat) = v.toNat := by
  rw [leNat_leBytes]
  exact Nat.mod_eq_of_lt v.isLt

/-- The access of 8 bytes that a register command makes. -/
theorem regAcc_eq {b : BusAcc} {write : Bool} {base : Nat} (v : Nat) (hsize : b.size = 8) (hoff : b.off % 8 = 0) (hbase : base < 2 ^ 48) :
    regAcc b write base v = { ini := b.ini, write := write, posted := false, addr := BitVec.ofNat 48 base, len := 8
                              data := if write then leBytes 8 v else [] } ∧ (BitVec.ofNat 48 base).toNat = base := by
  refine ⟨?_, ?_⟩
  · simp [regAcc, hsize, hoff]
  · rw [BitVec.toNat_ofNat, Nat.mod_eq_of_lt hbase]

/-- A register command whose target accepts it and answers OK. -/
theorem transact_register {b : BusAcc} {write : Bool} {base v : Nat} {s u : State} {bs : List Byte} (h : RegAccess b write base s)
    (hbase : base < 2 ^ 48)
    (hacc : access b.ini write base 8 (if write then leBytes 8 v else []) [] s = (u, .done stOK bs)) :
    transact (regAcc b write base v) s = afterWrite write base (respond stOK bs u) := by
  obtain ⟨hsize, hoff, hreach, -⟩ := h
  obtain ⟨hreg, haddr⟩ := regAcc_eq (write := write) v hsize hoff hbase
  have hguard : ¬ (8 = 0 ∨ 4096 < 8 ∨ (write = true ∧ (if write then leBytes 8 v else []).length ≠ 8) ∨
      (!(fabricUp s || doorReach s base || stopReach s base)) = true) := by
    have hup : (fabricUp s || doorReach s base || stopReach s base) = true := by
      rcases hreach with h | h <;> simp [h]
    rw [hup]
    cases write <;> simp
  rw [hreg]
  unfold transact
  dsimp only
  rw [haddr, if_neg hguard, hacc]
  rfl

/-! ### Doorbell pages -/

theorem pidx_lt (p : Party) : pidx p < 18 := by
  cases p with
  | g n => have := n.isLt; simp only [pidx]; omega
  | gs => decide
  | gx => decide

theorem pageBase_lt (p : Party) {o : Nat} (ho : o < 0x1000) : 0x2000000000 ≤ pageBase p + o ∧ pageBase p + o < 0x2000012000 := by
  have := pidx_lt p
  unfold pageBase
  omega

theorem pageParty_pageBase (p : Party) {o : Nat} (ho : o < 0x1000) : pageParty (pageBase p + o - 0x2000000000) = pidx p := by
  unfold pageParty pageBase
  omega

theorem afterWrite_page {write : Bool} {p : Party} {o : Nat} (ho : o < 0x1000) (s : State) : afterWrite write (pageBase p + o) s = s := by
  have h := pageBase_lt p ho
  simp only [afterWrite, slotQueue, if_neg (show ¬ (0x2100000000 ≤ pageBase p + o ∧ pageBase p + o < 0x2101000000) by omega)]

/-- An accepted access to a doorbell page reaches its registers. -/
theorem access_page {i : Initiator} {write : Bool} {p : Party} {o n : Nat} {s : State} (ho : o < 0x1000)
    (hacc : Accepted s i write (pageBase p + o) n) (data : List Byte) (waiter : List Nat) :
    access i write (pageBase p + o) n data waiter s = regAccess write (pageBase p + o) n data (dblVal s (pidx p)) (dblReadEffect (pidx p))
      (fun wh off v => dblWrite wh (pidx p) off v) (pageBase p) s := by
  obtain ⟨hreset, hfabric, hfirst⟩ := hacc
  have h := pageBase_lt p ho
  simp only [access, hreset, Option.isSome_none, Bool.false_and, Bool.false_eq_true, if_false, hfabric, hfirst,
    if_neg (show ¬ pageBase p + o < 0x1000000000 by omega), if_neg (show ¬ pageBase p + o < 0x1015000000 by omega),
    if_pos h.2, pageParty_pageBase p ho]
  rfl

theorem regAccess_write {a : Nat} {data : List Byte} {val : Nat → Nat} {rd : Nat → State → State} {wr : Bool → Nat → Nat → State → State}
    {base o : Nat} {s : State} (ha : a = base + o) (hbase : base % 8 = 0) (ho : o % 8 = 0) :
    regAccess true a 8 data val rd wr base s = (wr true o (leNat data) s, .done stOK []) := by
  subst ha
  have hoff : (base + o - base) / 8 * 8 = o := by omega
  have hwhole : decide (8 = 8 ∧ (base + o) % 8 = 0) = true := by simp; omega
  unfold regAccess
  dsimp only
  rw [hoff, hwhole, if_pos rfl]

theorem regAccess_read {a : Nat} {data : List Byte} {val : Nat → Nat} {rd : Nat → State → State} {wr : Bool → Nat → Nat → State → State}
    {base o : Nat} {s : State} (ha : a = base + o) (hbase : base % 8 = 0) (ho : o % 8 = 0) :
    regAccess false a 8 data val rd wr base s = (rd o s, .done stOK (leBytes 8 (val o))) := by
  subst ha
  have hoff : (base + o - base) / 8 * 8 = o := by omega
  have hwhole : decide (8 = 8 ∧ (base + o) % 8 = 0) = true := by simp; omega
  unfold regAccess
  dsimp only
  rw [hoff, hwhole, if_neg Bool.false_ne_true, if_pos rfl]

theorem pageBase_mod (p : Party) : pageBase p % 8 = 0 := by
  unfold pageBase
  omega

theorem write_page {b : BusAcc} {p : Party} {o : Nat} {s : State} (v : BitVec 64) (h : RegAccess b true (pageBase p + o) s) (ho : o < 0x1000)
    (hal : o % 8 = 0) : transact (regAcc b true (pageBase p + o) v.toNat) s = respond stOK [] (dblWrite true (pidx p) o v.toNat s) := by
  have hlt := pageBase_lt p ho
  rw [transact_register h (by omega) (u := dblWrite true (pidx p) o v.toNat s) (bs := []), afterWrite_page ho]
  rw [access_page ho h.2.2.2, regAccess_write rfl (pageBase_mod p) hal, if_pos rfl, leNat_word]

theorem read_page {b : BusAcc} {p : Party} {o : Nat} {s : State} (h : RegAccess b false (pageBase p + o) s) (ho : o < 0x1000) (hal : o % 8 = 0) :
    transact (regAcc b false (pageBase p + o) 0) s = respond stOK (leBytes 8 (dblVal s (pidx p) o)) (dblReadEffect (pidx p) o s) := by
  have hlt := pageBase_lt p ho
  rw [transact_register h (by omega) (u := dblReadEffect (pidx p) o s) (bs := leBytes 8 (dblVal s (pidx p) o)), afterWrite_page ho]
  rw [access_page ho h.2.2.2, regAccess_read rfl (pageBase_mod p) hal]

/-! ### Leaving Hush and Doze (R44, R54, R57) -/

theorem foldl_stays {α β : Type} {f : α → β → α} {a : α} (l : List β) (h : ∀ x ∈ l, f a x = a) : l.foldl f a = a := by
  induction l with
  | nil => rfl
  | cons x l ih =>
    rw [List.foldl_cons, h x (List.mem_cons_self ..), ih fun y hy => h y (List.mem_cons_of_mem _ hy)]

theorem lateAlarms_of_none {s : State} (h : ∀ j < 17, (getParty s j).alarm.set = false) : lateAlarms s = s := by
  refine foldl_stays _ fun j hj => ?_
  simp only [h j (List.mem_range.1 hj), Bool.false_and, Bool.false_eq_true, if_false]

/-- The part back in Run, out of Hush (1) or of a Doze with no alarm set (2). -/
theorem exitEvent_frame {old : Nat} {s : State} (h : 2 ≤ old → ∀ j < 17, (getParty s j).alarm.set = false) :
    exitEvent old s = { s with fresh := (exitEvent old s).fresh, caddy := (exitEvent old s).caddy, safe := (exitEvent old s).safe } := by
  unfold exitEvent
  dsimp only
  split
  · next hold =>
    have hnone : ∀ (src code : Nat) (args : List Byte), lateAlarms (event src code noParty args (draw s).2) = event src code noParty args (draw s).2 :=
      fun src code args => lateAlarms_of_none (h hold)
    rw [hnone]
    rfl
  · rfl

theorem leaveTo_eq (st : PState) (s : State) : leaveTo st s = { s with pw := (leaveTo st s).pw } ∧ (leaveTo st s).pw.st = st := by
  unfold leaveTo
  split <;> exact ⟨rfl, rfl⟩

/-- A wake source that no alarm waits on changes the power record, the free values and the events alone. -/
theorem wakeFrom_frame (doze : Bool) (cls inst : Nat) {s : State} (h : s.pw.st = .doze → ∀ j < 17, (getParty s j).alarm.set = false) :
    wakeFrom doze cls inst s = { s with pw := (wakeFrom doze cls inst s).pw, fresh := (wakeFrom doze cls inst s).fresh
                                        caddy := (wakeFrom doze cls inst s).caddy, safe := (wakeFrom doze cls inst s).safe } := by
  unfold wakeFrom
  dsimp only
  split
  · split <;> rfl
  · split
    · next hwakes =>
      rw [exitEvent_frame, (leaveTo_eq ..).1]
      · rfl
      · intro hold
        rw [(leaveTo_eq ..).1]
        refine h ?_
        by_contra hne
        have hhush : s.pw.st = .hush := by
          simp only [hne, decide_false, Bool.false_and, Bool.or_false, Bool.and_eq_true, decide_eq_true_eq] at hwakes
          exact hwakes.1
        rw [if_pos hhush] at hold
        omega
    · rfl

theorem wakeFrom_run {doze : Bool} {cls inst : Nat} {s : State} (hst : s.pw.st = .hush ∨ (s.pw.st = .doze ∧ doze = true)) (hwake : CanWake s)
    (h : s.pw.st = .doze → ∀ j < 17, (getParty s j).alarm.set = false) : (wakeFrom doze cls inst s).pw.st = .run := by
  obtain ⟨hpark, hthermal, hforced⟩ := hwake
  have hwakes : ((decide (s.pw.st = .hush) || (decide (s.pw.st = .doze) && doze)) && !(s.pw.thermalDoze || s.pw.forced)) = true := by
    rcases hst with hst | ⟨hst, hd⟩ <;> simp [*]
  unfold wakeFrom
  dsimp only
  rw [if_neg (not_not.2 hpark), if_pos hwakes, exitEvent_frame]
  · exact (leaveTo_eq ..).2
  · intro hold
    rw [(leaveTo_eq ..).1]
    refine h ?_
    rcases hst with hst | hst
    · rw [if_pos hst] at hold
      omega
    · exact hst.1

/-- A source that does not wake from Doze changes nothing where the part is not in Hush. -/
theorem wakeFrom_awake {cls inst : Nat} {s : State} (hst : s.pw.st ≠ .hush) : wakeFrom false cls inst s = s := by
  simp [wakeFrom, hst]

/-! ### DBL_SUBMIT (R145) -/

theorem getQ_notifyPush (q n j : Nat) (s : State) : getQ (notifyPush q n s) j = getQ s j := by rw [notifyPush_eq]; rfl

/-- An accepted TAIL value moves the pointer, and changes nothing else of the queues or of memory but counts of what came. -/
theorem setTail_effect {q v : Nat} {s : State} (htail : (getQ s q).tail < 2 * (getQ s q).n) (hok : (getQ s q).tailOk v = true) :
    (getQ (setTail q v s) q).tail = v ∧ (getQ (setTail q v s) q).head = (getQ s q).head ∧ OnlyQ q s (setTail q v s) ∧
    setTail q v s = { s with queue := (setTail q v s).queue, party := (setTail q v s).party, world := (setTail q v s).world } := by
  obtain ⟨hv, -⟩ : v < 2 * (getQ s q).n ∧ _ := by simpa [Queue.tailOk] using hok
  unfold setTail
  dsimp only
  split
  · next hd =>
    have heq : (getQ s q).tail = v := by
      simp only [Queue.dist] at hd
      generalize (getQ s q).n = n at *
      generalize (getQ s q).tail = t at *
      rcases Nat.lt_or_ge t v with h | h
      · rw [show v + 2 * n - t = (v - t) + 2 * n by omega, Nat.add_mod_right, Nat.mod_eq_of_lt (by omega)] at hd
        omega
      · rcases Nat.eq_or_lt_of_le h with h | h
        · exact h.symm
        · rw [Nat.mod_eq_of_lt (by omega)] at hd
          omega
    exact ⟨heq, rfl, fun _ _ => rfl, rfl⟩
  · refine ⟨?_, ?_, fun j hj => ?_, ?_⟩
    · rw [getQ_notifyPush, getQ_modQ_same]
    · rw [getQ_notifyPush, getQ_modQ_same]
    · rw [getQ_notifyPush, getQ_modQ_ne _ _ hj]
    · rw [notifyPush_eq]
      rfl

/-- A queue whose records `ts` were announced at these times (R221). -/
def Queue.announced (ts : List Nat) (x : Queue) : Queue := { x with ann := x.ann ++ ts }

theorem submit_accepted {p v : Nat} {s : State} (howner : qOwner s (v % 2 ^ 18) = some p) (hbound : (getQ s (v % 2 ^ 18)).bound = true)
    (hkind : (getQ s (v % 2 ^ 18)).kind = 2) (hok : (getQ s (v % 2 ^ 18)).tailOk (bitsOf v 48 32) = true) :
    ∃ ts, dblSubmit true p v s = wakeFrom false 0 p (modQ (setTail (v % 2 ^ 18) (bitsOf v 48 32) s) (v % 2 ^ 18) (Queue.announced ts)) := by
  refine ⟨List.replicate ((getQ s (v % 2 ^ 18)).dist (getQ s (v % 2 ^ 18)).tail (bitsOf v 48 32)) (setTail (v % 2 ^ 18) (bitsOf v 48 32) s).ktime, ?_⟩
  simp only [dblSubmit, howner, hbound, hkind, hok, decide_true, Bool.and_self, Bool.not_true, Bool.false_eq_true, ne_eq,
    not_true_eq_false, if_false]
  rfl

theorem submit_refused {p v : Nat} {s : State} (h : ¬ (qOwner s (v % 2 ^ 18) = some p ∧ (getQ s (v % 2 ^ 18)).bound = true ∧
      (getQ s (v % 2 ^ 18)).kind = 2 ∧ (getQ s (v % 2 ^ 18)).tailOk (bitsOf v 48 32) = true)) :
    dblSubmit true p v s = submitRefuse p (v % 2 ^ 18) (if qOwner s (v % 2 ^ 18) = some p then stBAD_ARG else stDENIED) s := by
  unfold dblSubmit
  dsimp only
  rw [if_neg (by decide)]
  by_cases howner : qOwner s (v % 2 ^ 18) = some p
  · rw [if_neg (not_not.2 howner), if_pos howner]
    split
    · rfl
    · next hq =>
      split
      · rfl
      · next hok =>
        simp only [Bool.not_eq_true', Bool.not_eq_false, Bool.and_eq_true, decide_eq_true_eq] at hq hok
        exact absurd ⟨howner, hq.1, hq.2, hok⟩ h
  · rw [if_pos howner, if_neg howner]

theorem queue_wakeFrom_false (cls inst : Nat) (s : State) : wakeFrom false cls inst s = { s with
    pw := (wakeFrom false cls inst s).pw, fresh := (wakeFrom false cls inst s).fresh, caddy := (wakeFrom false cls inst s).caddy
    safe := (wakeFrom false cls inst s).safe } := by
  by_cases hdoze : s.pw.st = .doze
  · rw [wakeFrom_awake (by rw [hdoze]; decide)]
  · exact wakeFrom_frame false cls inst fun h => absurd h hdoze

/-- A post to a queue: what it does to the power state (R54, R57). -/
theorem post_power (cls inst : Nat) {s u : State} (hpw : u.pw = s.pw) :
    (s.pw.st = .hush → CanWake s → (wakeFrom false cls inst u).pw.st = .run) ∧ (s.pw.st ≠ .hush → (wakeFrom false cls inst u).pw = s.pw) := by
  refine ⟨fun hst hwake => ?_, fun hst => ?_⟩
  · refine wakeFrom_run (.inl (by rw [hpw, hst])) ?_ fun h => ?_
    · unfold CanWake
      rw [hpw]
      exact hwake
    · rw [hpw, hst] at h
      cases h
  · rw [wakeFrom_awake (by rw [hpw]; exact hst), hpw]

@[simp] theorem getParty_respond (st : Nat) (bs : List Byte) (s : State) (j : Nat) :
    getParty (respond st bs s) j = getParty s j := rfl

theorem dblReadEffect_notify (p : Nat) (s : State) : dblReadEffect p 16 s = modParty s p fun t => { t with notify := t.notify.drop 1 } := rfl

/-- Settles O23: a doorbell page's registers, by what each of them does. -/
theorem doorbellPages : Obligations.DoorbellPages := by
  unfold Obligations.DoorbellPages
  refine ⟨?submit, ?ring, ?notify⟩
  case submit =>
    intro b p v s hreg htail
    refine ⟨_, congrArg Host.Outcome.next (write_page (o := 0) v hreg (by decide) rfl), ⟨rfl, rfl⟩, ?_⟩
    show MemSame s (dblSubmit true (pidx p) v.toNat s) ∧ _
    split
    · next h =>
      obtain ⟨howner, hbound, hkind, hok⟩ := h
      obtain ⟨ts, hsubmit⟩ := submit_accepted howner hbound hkind hok
      obtain ⟨hnew, hhead, honly, hframe⟩ := setTail_effect htail hok
      set q := v.toNat % 2 ^ 18
      set u := modQ (setTail q (bitsOf v.toNat 48 32) s) q (Queue.announced ts) with hu
      have hget : ∀ j, getQ (wakeFrom false 0 (pidx p) u) j = getQ u j := fun j => by rw [queue_wakeFrom_false]; rfl
      have hpw : u.pw = s.pw := by rw [hu, hframe]; rfl
      have hpower := post_power 0 (pidx p) hpw
      refine ⟨fun x => ?_, ?_⟩
      · rw [hsubmit, queue_wakeFrom_false, hu, hframe]
        rfl
      · show (getQ (dblWrite true (pidx p) 0 v.toNat s) q).tail = _ ∧ (getQ (dblWrite true (pidx p) 0 v.toNat s) q).head = _ ∧
          OnlyQ q s (dblWrite true (pidx p) 0 v.toNat s) ∧ (_ → _ → (dblWrite true (pidx p) 0 v.toNat s).pw.st = _) ∧
          (_ → (dblWrite true (pidx p) 0 v.toNat s).pw = _)
        rw [show dblWrite true (pidx p) 0 v.toNat s = _ from hsubmit]
        refine ⟨?_, ?_, fun j hj => ?_, hpower⟩
        · rw [hget, hu, getQ_modQ_same]
          exact hnew
        · rw [hget, hu, getQ_modQ_same]
          exact hhead
        · rw [hget, hu, getQ_modQ_ne _ _ hj, honly j hj]
    · next h =>
      have hrefused : dblWrite true (pidx p) 0 v.toNat s = _ := submit_refused h
      have hsame : (getParty (respond stOK [] (dblWrite true (pidx p) 0 v.toNat s)) (pidx p)) = _ :=
        (congrArg (getParty · (pidx p)) hrefused).trans (getParty_modParty_same ..)
      rw [hsame, hrefused]
      refine ⟨fun x => ?_, rfl, rfl, rfl, rfl, rfl⟩
      rw [show dblSubmit true (pidx p) v.toNat s = _ from hrefused]
      rfl
  case ring =>
    intro b p v s hreg hring hbusy hbox hopen hdoze
    refine ⟨_, congrArg Host.Outcome.next (write_page (o := 8) v hreg (by decide) rfl), ⟨rfl, rfl⟩, ?_⟩
    set u := modParty s (pidx p) fun t => { t with busy := true, rung := true } with hu
    have hopen' : (!(decide (pidx p = 16) && s.world.gsClosed)) = true := by
      by_cases h16 : pidx p = 16
      · simp [h16, Bool.eq_false_iff.2 fun hc => hopen ⟨h16, hc⟩]
      · simp [h16]
    have hrung : dblWrite true (pidx p) 8 v.toNat s = wakeFrom true (if s.pw.st = .hush then 0 else 1) (pidx p) u := by
      have hbit : bitOf v.toNat 0 = true := by simp [bitOf, hring]
      have hbox' : (decide (pidx p = 17) || (mboxAddr s (pidx p)).isSome) = true := by simpa using hbox
      show dblRing true (pidx p) v.toNat s = _
      simp only [dblRing, hbit, hbusy, hbox', hopen', Bool.not_false, Bool.and_self, if_true, hu]
    have halarm : u.pw.st = .doze → ∀ j < 17, (getParty u j).alarm.set = false := fun hst j hj => by
      rw [hu, getParty_modParty]
      split
      · next hjp => exact hdoze hst (pidx p) (hjp ▸ hj)
      · exact hdoze hst j hj
    have hframe := wakeFrom_frame true (if s.pw.st = .hush then 0 else 1) (pidx p) halarm
    have hparty : ∀ j, getParty (respond stOK [] (dblWrite true (pidx p) 8 v.toNat s)) j = getParty u j := fun j => by
      rw [hrung, hframe]; rfl
    refine ⟨?_, fun hst hwake => ?_, ?_, ?_, fun j hj => ?_⟩
    · rw [hparty, hu, getParty_modParty_same]
    · rw [hrung]
      exact wakeFrom_run (s := u) (hst.imp_right fun h => ⟨h, rfl⟩) hwake halarm
    · rw [hrung, hframe]; rfl
    · rw [hrung, hframe]; rfl
    · rw [hparty, hu, getParty_modParty_ne _ _ hj]
  case notify =>
    intro b p s hreg
    refine ⟨_, congrArg Host.Outcome.next (read_page (o := 16) hreg (by decide) rfl), ⟨rfl, ?_⟩, ?_, rfl, fun j hj => ?_⟩
    · show leBytes 8 (dblVal s (pidx p) 16) = _
      unfold dblVal
      rfl
    · rw [dblReadEffect_notify, getParty_respond, getParty_modParty_same]
    · rw [dblReadEffect_notify, getParty_respond, getParty_modParty_ne _ _ hj]

end Sys2Proof.Machine

/-! Accesses on the bus, and the kinds of registers (R9, R10, R31, R32, R78, R335 to R342). -/

namespace Sys2Proof.Machine
open Sys2Proof.Claims

/-! ### What DRAM's bookkeeping leaves -/

/-- Only memory with its bookkeeping changed, and events of memory may have been written. -/
structure MemOnly (s t : State) : Prop where
  eq : t = { s with mem := t.mem, caddy := t.caddy }

namespace MemOnly

theorem refl (s : State) : MemOnly s s := ⟨rfl⟩

theorem trans {s t u : State} (h : MemOnly s t) (h' : MemOnly t u) : MemOnly s u := by
  obtain ⟨h⟩ := h
  obtain ⟨h'⟩ := h'
  rw [h] at h'
  exact ⟨h'⟩

theorem ite {s t u : State} {c : Prop} [Decidable c] (ht : MemOnly s t) (hu : MemOnly s u) : MemOnly s (if c then t else u) := by
  split <;> assumption

end MemOnly

theorem memOnly_modCg (s : State) (c : Nat) (f : Cg → Cg) : MemOnly s (modCg s c f) := ⟨rfl⟩

theorem memOnly_strainerIn (c : Nat) (k : TClass) (r : Option Nat) (n : Nat) (s : State) : MemOnly s (strainerIn c k r n s) := by
  unfold strainerIn
  cases r <;> exact ⟨rfl⟩

theorem memOnly_corrected (l k : Nat) (s : State) : MemOnly s (corrected l k s) := by
  unfold corrected
  dsimp only
  split <;> exact ⟨rfl⟩

theorem memOnly_linkCross (w : Bool) (l : Nat) (s : State) : MemOnly s (linkCross w l s).1 := by
  unfold linkCross
  dsimp only
  split
  · exact .refl s
  · split
    · exact MemOnly.trans ⟨rfl⟩ (memOnly_corrected ..)
    · exact ⟨rfl⟩

theorem memOnly_linkWrite (l : Nat) (s : State) : MemOnly s (linkWrite l s) := by
  unfold linkWrite
  dsimp only
  split
  · exact (memOnly_linkCross true l s).trans ⟨rfl⟩
  · exact memOnly_linkCross true l s

theorem memOnly_allocLine (l m : Nat) (d : Bool) (o : List Byte) (s : State) : MemOnly s (allocLine l m d o s) := by
  have hback : ∀ k, MemOnly s (writeBack k s) := fun k => by
    unfold writeBack
    exact .ite (memOnly_linkWrite ..) (.refl s)
  unfold allocLine
  dsimp only
  split
  · exact .refl s
  · exact (hback _).trans ⟨rfl⟩

theorem memOnly_dramCorrected (l : Nat) (s : State) : MemOnly s (dramCorrected l s) := by
  unfold dramCorrected
  dsimp only
  have hback := (MemOnly.trans (s := s) ⟨rfl⟩ (memOnly_strainerIn (cgOf s (l * 64)) .maint none 64
    { s with mem := { s.mem with lineErr := tput s.mem.lineErr l 0 } })).trans (memOnly_linkWrite l _)
  exact (hback.trans (memOnly_modCg _ (cgOf s (l * 64)) fun x => { x with corr := x.corr.add 1 })).trans (memOnly_corrected ..)

theorem memOnly_cacheCheck (line : Nat) (s : State) : MemOnly s (cacheCheck line s).1 := by
  unfold cacheCheck
  split
  · exact .refl s
  · dsimp only
    split
    · exact .refl s
    · split
      · exact ⟨rfl⟩
      · split <;> exact ⟨rfl⟩

theorem memOnly_readLine (i : Initiator) (w : Who) (line : Nat) (s : State) : MemOnly s (readLine i w line s).1 := by
  have hcheck := memOnly_cacheCheck line s
  unfold readLine
  dsimp only
  split
  · exact hcheck
  · have hsnoop : MemOnly s (if isCore i then snoopAdd line (cacheCheck line s).1 else (cacheCheck line s).1) :=
      .ite (hcheck.trans ⟨rfl⟩) hcheck
    generalize (if isCore i then snoopAdd line (cacheCheck line s).1 else (cacheCheck line s).1) = u at hsnoop ⊢
    refine hsnoop.trans ?_
    split
    · exact ⟨rfl⟩
    · have hmiss := ((memOnly_modCg u (cgOf s (line * 64)) fun x => { x with misses := x.misses.add 1 }).trans
        (memOnly_strainerIn (cgOf s (line * 64)) (classOf u i w (line * 64)).1 (classOf u i w (line * 64)).2 64 _)).trans
        (memOnly_linkCross false line _)
      generalize linkCross false line _ = x at hmiss ⊢
      refine hmiss.trans ?_
      split
      · exact ⟨rfl⟩
      · have hfix : MemOnly x.1 (if tget x.1.mem.lineErr line = 1 then dramCorrected line x.1 else x.1) :=
          .ite (memOnly_dramCorrected ..) (.refl _)
        generalize (if tget x.1.mem.lineErr line = 1 then dramCorrected line x.1 else x.1) = v at hfix ⊢
        refine hfix.trans ?_
        split
        · exact .refl v
        · exact memOnly_allocLine ..

theorem memOnly_writeLine (i : Initiator) (w : Who) (line n : Nat) (s : State) : MemOnly s (writeLine i w line n s).1 := by
  have hcheck := memOnly_cacheCheck line s
  unfold writeLine
  dsimp only
  split
  · exact hcheck
  · have hsnoop : MemOnly s (if isCore i then snoopAdd line (cacheCheck line s).1 else snoopDrop line (cacheCheck line s).1) :=
      .ite (hcheck.trans ⟨rfl⟩) (hcheck.trans ⟨rfl⟩)
    generalize (if isCore i then snoopAdd line (cacheCheck line s).1 else snoopDrop line (cacheCheck line s).1) = u at hsnoop ⊢
    refine hsnoop.trans ?_
    split
    · exact ⟨rfl⟩
    · have hmiss := (memOnly_modCg u (cgOf s (line * 64)) fun x => { x with misses := x.misses.add 1 }).trans
        (memOnly_strainerIn (cgOf s (line * 64)) (classOf u i w (line * 64)).1 (classOf u i w (line * 64)).2 n _)
      generalize strainerIn _ _ _ _ _ = v at hmiss ⊢
      have hcross : MemOnly v (if n < 64 then linkCross false line v else (v, false)).1 := by
        split
        · exact memOnly_linkCross ..
        · exact .refl v
      generalize (if n < 64 then linkCross false line v else (v, false)) = x at hcross ⊢
      refine (hmiss.trans hcross).trans ?_
      split
      · exact ⟨rfl⟩
      · have hfix : MemOnly x.1 (if tget x.1.mem.lineErr line = 1 ∧ n < 64 then dramCorrected line x.1
            else { x.1 with mem := { x.1.mem with lineErr := tput x.1.mem.lineErr line 0 } }) :=
          .ite (memOnly_dramCorrected ..) ⟨rfl⟩
        generalize (if tget x.1.mem.lineErr line = 1 ∧ n < 64 then dramCorrected line x.1
          else { x.1 with mem := { x.1.mem with lineErr := tput x.1.mem.lineErr line 0 } }) = y at hfix ⊢
        refine hfix.trans ?_
        split
        · exact memOnly_linkWrite ..
        · exact memOnly_allocLine ..

/-- `dramRead_ok`, with what the read leaves elsewhere. -/
theorem dramRead_line {s : State} (i : Initiator) (w : Who) {a n : Nat} (data : List Byte) (h1 : 1 ≤ n) (h2 : a % 64 + n ≤ 64)
    (h : LineGood s a) : ∃ u, dramAccess i w false a n data s = (u, .done stOK (memRead s a n)) ∧ PathOnly s u ∧ MemOnly s u := by
  obtain ⟨hok, hpath⟩ := readLine_ok i w h.1 h.2.1 h.2.2
  refine ⟨(readLine i w (a / 64) s).1, ?_, hpath, memOnly_readLine ..⟩
  simp [dramAccess, linesOf_one h1 h2, hok, memRead, hpath.cells]

/-- `dramWrite_ok`, with what the write leaves elsewhere. -/
theorem dramWrite_line {s : State} (i : Initiator) (w : Who) {a : Nat} (data : List Byte) (h1 : 1 ≤ data.length)
    (h2 : a % 64 + data.length ≤ 64) (h : LineGood s a) :
    ∃ u, dramAccess i w true a data.length data s = (fireWatches a data.length (memWrite u a data), .done stOK []) ∧ PathOnly s u ∧
      MemOnly s u := by
  obtain ⟨hok, hpath⟩ := writeLine_ok (n := data.length) i w h.1 h.2.1 h.2.2
  refine ⟨(writeLine i w (a / 64) data.length s).1, ?_, hpath, memOnly_writeLine ..⟩
  simp [dramAccess, linesOf_one h1 h2, hok]

/-! ### Reads, writes and refusals (R31, R32) -/

/-- A transaction within one line that its target answers. -/
theorem transact_of_access {x : Access} {s u : State} {st : Nat} {bs : List Byte} (hlen : 1 ≤ x.len) (hmax : x.len ≤ 4096)
    (hdata : x.write = true → x.data.length = x.len) (hup : fabricUp s = true)
    (hacc : access x.ini x.write x.addr.toNat x.len x.data [] s = (u, .done st bs)) :
    transact x s = if st = stOK then afterWrite x.write x.addr.toNat (respond st bs u) else initiatorSees x st (respond st bs u) := by
  unfold transact
  dsimp only
  rw [if_neg, hacc]
  rintro (h | h | ⟨hw, h⟩ | h)
  · omega
  · omega
  · exact h (hdata hw)
  · simp [hup] at h

theorem afterWrite_dram (write : Bool) {a : Nat} (ha : a < 0x1000000000) (s : State) : afterWrite write a s = s := by
  rw [afterWrite, slotQueue, if_neg (by omega)]

/-- A refused access of a core: the target's answer, and the event. -/
theorem access_refused {i : Initiator} {write : Bool} {a n x : Nat} {v : Verdict} {s : State} (hreset : s.boot.resetting = none)
    (hfabric : fabricAt s i a = none) (hfirst : firstRefused s i (whoOf s i) write a n = some (x, v)) (data : List Byte) (waiter : List Nat) :
    access i write a n data waiter s = (refuseEvent (detector s x) (whoOf s i) write x v s, .done stDENIED []) := by
  simp only [access, hreset, Option.isSome_none, Bool.false_and, Bool.false_eq_true, if_false, hfabric, hfirst]

/-- Outside a compute reset the refusal is one event. -/
theorem refuseEvent_eq {src a : Nat} {w : Who} {write : Bool} {v : Verdict} {s : State} (hreset : s.boot.resetting = none) :
    refuseEvent src w write a v s = event src (if v = .unbacked then 0x2001 else 0x4001) w.caddyParty
      (leBytes 2 w.code ++ leBytes 6 a ++ leBytes 1 (b2n w.sec) ++ leBytes 1 (b2n write)) s := by
  simp only [refuseEvent, refusal, hreset]

/-- A refusal stops no unit where a core asked. -/
theorem initiatorSees_core {x : Access} {n : Fin 16} {p : Party} (h : x.ini = .core n p) (st : Nat) (s : State) : initiatorSees x st s = s := by
  have hn := n.isLt
  have hunit : (0x1000 + n.val) / 4096 = 1 := by omega
  simp only [initiatorSees, h, whoOf, unitStops, hunit]

/-- A refused transaction of a core: DENIED, and one event. -/
theorem transact_refused {x : Access} {n : Fin 16} {p : Party} {a : Nat} {v : Verdict} {s : State} (hini : x.ini = .core n p) (hlen : 1 ≤ x.len)
    (hmax : x.len ≤ 4096) (hdata : x.write = true → x.data.length = x.len) (hup : fabricUp s = true) (hreset : s.boot.resetting = none)
    (hfabric : fabricAt s x.ini x.addr.toNat = none)
    (hfirst : firstRefused s x.ini (whoOf s x.ini) x.write x.addr.toNat x.len = some (a, v)) :
    transact x s = respond stDENIED [] (event (detector s a) (if v = .unbacked then 0x2001 else 0x4001) (whoOf s x.ini).caddyParty
      (leBytes 2 (0x1000 + n.val) ++ leBytes 6 a ++ leBytes 1 (b2n (bitOf s.world.clusters (n.val / 4))) ++ leBytes 1 (b2n x.write)) s) := by
  rw [transact_of_access hlen hmax hdata hup (access_refused hreset hfabric hfirst _ _), if_neg (by decide), initiatorSees_core hini,
    refuseEvent_eq hreset]
  simp only [hini, whoOf]

theorem event_of_memory {src party : Nat} {args : List Byte} (c : Prop) [Decidable c] (s : State) :
    event src (if c then 0x2001 else 0x4001) party args s = { s with
      caddy := (event src (if c then 0x2001 else 0x4001) party args s).caddy } := by
  split <;> rfl

theorem busAccessPart : BusAccessPart := by
  refine ⟨?read, ?write, ?refused⟩
  case read =>
    intro s x hread hlen hline ha hup hacc hgood
    obtain ⟨ini, write, posted, addr, len, data⟩ := x
    dsimp only at *
    subst hread
    obtain ⟨u, hdram, hu, hmem⟩ := dramRead_line ini (whoOf s ini) data hlen hline hgood
    refine ⟨_, congrArg Host.Outcome.next ((transact_of_access hlen (by dsimp only; omega) (by simp) hup
      ((access_dram hacc ha data []).trans hdram)).trans (if_pos rfl)), ?_⟩
    dsimp only
    rw [afterWrite_dram _ ha]
    refine ⟨⟨rfl, rfl⟩, fun y => congrArg (tget · y) hu.cells, ?_⟩
    rw [hmem.eq]
    rfl
  case write =>
    intro s x hwrite hlen hdata hline ha hup hacc hgood
    obtain ⟨ini, write, posted, addr, len, data⟩ := x
    dsimp only at *
    subst hwrite
    subst hdata
    obtain ⟨u, hdram, hu, hmem⟩ := dramWrite_line ini (whoOf s ini) data hlen hline hgood
    refine ⟨_, congrArg Host.Outcome.next ((transact_of_access hlen (by dsimp only; omega) (by simp) hup
      ((access_dram hacc ha data []).trans hdram)).trans (if_pos rfl)), ?_⟩
    dsimp only
    rw [afterWrite_dram _ ha, fireWatches_eq]
    refine ⟨⟨rfl, rfl⟩, ?_, fun y hy => ?_, ?_⟩
    · show tread (twrite u.mem.cells addr.toNat data) addr.toNat data.length = data
      exact tread_twrite ..
    · show tget (twrite u.mem.cells addr.toNat data) y = _
      rw [tget_twrite_out _ _ hy, hu.cells]
    · rw [hmem.eq]
      rfl
  case refused =>
    intro s x n p a v hini hlen hmax hdata hup hreset hfabric hfirst
    refine ⟨_, congrArg Host.Outcome.next (transact_refused hini hlen (by omega) hdata hup hreset hfabric hfirst), ⟨rfl, rfl⟩,
      logs_event (by simp) rfl rfl rfl rfl, ?_⟩
    rw [event_of_memory]
    rfl

/-! ### The registers of a queue's slot, of a doorbell page and of the bridge (R9, R10) -/

theorem access_slot {i : Initiator} {write : Bool} {q : BitVec 18} {o n : Nat} {s : State} (ho : o < 64)
    (hacc : Accepted s i write (slotBase q.toNat + o) n) (data : List Byte) (waiter : List Nat) :
    access i write (slotBase q.toNat + o) n data waiter s = regAccess write (slotBase q.toNat + o) n data (qptVal s q.toNat)
      (qptReadEffect q.toNat) (fun wh off v => qptWrite wh q.toNat off v) (slotBase q.toNat) s := by
  obtain ⟨hreset, hfabric, hfirst⟩ := hacc
  have hq := q.isLt
  have hslot : (slotBase q.toNat + o - 0x2100000000) / 64 = q.toNat := by unfold slotBase; omega
  have hbase : 0x2100000000 ≤ slotBase q.toNat + o ∧ slotBase q.toNat + o < 0x2101000000 := by unfold slotBase; omega
  simp only [access, hreset, Option.isSome_none, Bool.false_and, Bool.false_eq_true, if_false, hfabric, hfirst,
    if_neg (show ¬ slotBase q.toNat + o < 0x1000000000 by omega), if_neg (show ¬ slotBase q.toNat + o < 0x1015000000 by omega),
    if_neg (show ¬ slotBase q.toNat + o < 0x2000012000 by omega), if_pos hbase.2, hslot]
  rfl

theorem slotBase_mod (q : Nat) : slotBase q % 8 = 0 := by
  unfold slotBase
  omega

theorem afterWrite_slot (write : Bool) (q : BitVec 18) {o : Nat} (ho : o < 64) (s : State) :
    afterWrite write (slotBase q.toNat + o) s = if write then queueMoved q.toNat s else s := by
  have hq := q.isLt
  have hslot : slotQueue (slotBase q.toNat + o) = some q.toNat := by
    unfold slotQueue slotBase
    rw [if_pos (by omega)]
    congr 1
    omega
  rw [afterWrite, hslot]

theorem slotBase_lt (q : BitVec 18) {o : Nat} (ho : o < 64) : slotBase q.toNat + o < 2 ^ 48 := by
  have hq := q.isLt
  unfold slotBase
  omega

theorem write_slot {b : BusAcc} {q : BitVec 18} {o : Nat} {s : State} (v : BitVec 64) (h : RegAccess b true (slotBase q.toNat + o) s)
    (ho : o < 64) (hal : o % 8 = 0) : transact (regAcc b true (slotBase q.toNat + o) v.toNat) s =
      queueMoved q.toNat (respond stOK [] (qptWrite true q.toNat o v.toNat s)) := by
  rw [transact_register h (slotBase_lt q ho) (u := qptWrite true q.toNat o v.toNat s) (bs := []), afterWrite_slot _ _ ho, if_pos rfl]
  rw [access_slot ho h.2.2.2, regAccess_write rfl (slotBase_mod _) hal, if_pos rfl, leNat_word]

theorem read_slot {b : BusAcc} {q : BitVec 18} {o : Nat} {s : State} (h : RegAccess b false (slotBase q.toNat + o) s) (ho : o < 64)
    (hal : o % 8 = 0) : transact (regAcc b false (slotBase q.toNat + o) 0) s =
      respond stOK (leBytes 8 (qptVal s q.toNat o)) (qptReadEffect q.toNat o s) := by
  rw [transact_register h (slotBase_lt q ho) (u := qptReadEffect q.toNat o s) (bs := leBytes 8 (qptVal s q.toNat o)), afterWrite_slot _ _ ho,
    if_neg Bool.false_ne_true]
  rw [access_slot ho h.2.2.2, regAccess_read rfl (slotBase_mod _) hal]

theorem getQ_respond (st : Nat) (bs : List Byte) (s : State) (j : Nat) : getQ (respond st bs s) j = getQ s j := rfl

/-- A read of a count answers it with OVF, and clears OVF. -/
theorem runs_countRead {b : BusAcc} {r : RcReg} {q : BitVec 18} {o : Nat} {x : Stat} {f : Queue → Queue} {s : State}
    (hexec : exec (.rcFieldRead b r) s = .next (transact (regAcc b false (slotBase q.toNat + o) 0) s)) (ho : o < 64) (hal : o % 8 = 0)
    (hreg : RegAccess b false (slotBase q.toNat + o) s) (hval : qptVal s q.toNat o = x.val)
    (heffect : qptReadEffect q.toNat o s = modQ s q.toNat f) :
    Runs (.rcFieldRead b r) s fun t => Answers t stOK (leBytes 8 (x.n + b2n x.ovf * 2 ^ 63)) ∧ OnlyQ q.toNat s t ∧
      getQ t q.toNat = f (getQ s q.toNat) ∧ t = { s with queue := t.queue, resp := t.resp } := by
  refine ⟨_, hexec.trans (congrArg Host.Outcome.next (read_slot hreg ho hal)), ⟨rfl, congrArg (leBytes 8) hval⟩, fun j hj => ?_, ?_, ?_⟩
  · rw [getQ_respond, heffect, getQ_modQ_ne _ _ hj]
  · rw [getQ_respond, heffect, getQ_modQ_same]
  · rw [heffect]
    rfl

theorem bitOf_toNat (v : BitVec 64) (i : Nat) : bitOf v.toNat i = v.getLsbD i := by
  rw [BitVec.getLsbD, Nat.testBit_eq_decide_div_mod_eq]
  rfl

theorem qptWrite_stat (q v : Nat) (s : State) :
    qptWrite true q 0x20 v s = if bitOf v 2 then modQ s q fun k => { k with badptr := false } else s := rfl

theorem badptr_write (q v : Nat) (s : State) : ∀ j, getQ (qptWrite true q 0x20 v s) j =
    if j = q then { getQ s q with badptr := (getQ s q).badptr && !bitOf v 2 } else getQ s j := by
  intro j
  rw [qptWrite_stat]
  rcases hbit : bitOf v 2
  · simp only [Bool.false_eq_true, if_false, Bool.not_false, Bool.and_true]
    split
    · next h => rw [h]
    · rfl
  · simp only [if_true, Bool.not_true, Bool.and_false]
    exact getQ_modQ ..

theorem dblWrite_status (p v : Nat) (s : State) : dblWrite true p 0x18 v s = modParty s p fun t =>
    { t with notifyOvf := t.notifyOvf && !bitOf v 0, submitErr := t.submitErr && !bitOf v 1 } := rfl

/-- A transaction whose first address is refused. -/
theorem firstRefused_head {s : State} {i : Initiator} {w : Who} {write : Bool} {a n : Nat} (h : target s i w write a = .refused) :
    firstRefused s i w write a n = some (a, .refused) := by
  simp only [firstRefused, List.findSome?_cons, h]

theorem registerKinds : RegisterKinds := by
  refine ⟨?pushed, ?popped, ?stat, ?status, ?readOnly, ?log⟩
  case pushed =>
    intro b q s hreg
    exact runs_countRead (x := (getQ s q.toNat).pushed) (f := fun k => { k with pushed := k.pushed.read }) rfl (by decide) rfl hreg rfl rfl
  case popped =>
    intro b q s hreg
    exact runs_countRead (x := (getQ s q.toNat).popped) (f := fun k => { k with popped := k.popped.read }) rfl (by decide) rfl hreg rfl rfl
  case stat =>
    intro b q v s hreg
    have hget := badptr_write q.toNat v.toNat s
    refine ⟨_, congrArg Host.Outcome.next (write_slot v hreg (by decide) rfl), ⟨rfl, rfl⟩, fun j hj => ?_, ?_, ?_⟩
    · rw [getQ_respond, hget, if_neg hj]
    · rw [getQ_respond, hget, if_pos rfl, bitOf_toNat]
    · rw [qptWrite_stat]
      split <;> rfl
  case status =>
    intro b p v s hreg
    refine ⟨_, congrArg Host.Outcome.next (write_page v hreg (by decide) rfl), ⟨rfl, rfl⟩, ?_, rfl⟩
    rw [getParty_respond, dblWrite_status, getParty_modParty_same, bitOf_toNat, bitOf_toNat]
  case readOnly =>
    intro b p v s hreg
    exact ⟨_, congrArg Host.Outcome.next (write_page v hreg (by decide) rfl), rfl, rfl, rfl⟩
  case log =>
    intro b n p v s hini hsize hoff hup hreset hfabric
    obtain ⟨hacc, haddr⟩ := regAcc_eq (write := true) v.toNat hsize hoff (show 0x2300000008 < 2 ^ 48 by decide)
    have hfirst : firstRefused s b.ini (whoOf s b.ini) true 0x2300000008 8 = some (0x2300000008, .refused) :=
      firstRefused_head (by simp [target])
    have hrefused := transact_refused (x := regAcc b true 0x2300000008 v.toNat) (n := n) (p := p) (a := 0x2300000008) (v := .refused) (s := s)
      (by rw [hacc, hini]) (by simp [hacc]) (by simp [hacc]) (by rw [hacc]; simp) hup hreset (by rw [hacc, haddr, hini, hfabric])
      (by rw [hacc, haddr]; exact hfirst)
    refine ⟨_, congrArg Host.Outcome.next hrefused, ⟨rfl, rfl⟩, rfl, ?_⟩
    exact (logs_event (s := s) (by simp) rfl rfl rfl rfl : Logs 0x4001 _ _ _ _).1

/-- Settles O24: an access by its target's answer, and a register by what its kind lets it do. -/
theorem busAccess : Obligations.BusAccess := ⟨busAccessPart, registerKinds⟩

end Sys2Proof.Machine

/-! Heartbeats, segments and recovery (R407): the refutation, by the crowded ring of O27. A localisation that finds no leaf writes event
0x3008 and then ends the job, whose completion can be followed by enough drops to take the event's slot. -/

namespace Sys2Proof.Machine
open Sys2Proof.Claims

/-- `Crowded.event_lost`, where the end of the job is followed by work that writes no event and leaves nothing to wait. -/
theorem Crowded.event_lost_before {s u v : State} {src code p reason : Nat} {args : List Byte} (h : Crowded s)
    (hframe : v = { abortJob 0 reason (event src code p args s) with jobs := v.jobs }) (hwaits : NothingWaits v)
    (hu : settle u = settle v) : (tget u.caddy.ring s.caddy.slot).code = 0x1006 := by
  obtain ⟨t, ht, hjobs, hdropped⟩ := h.abortJob_event src code p reason args
  rw [settle_of_nothingWaits hwaits] at hu
  have hmail : NoMail v := by
    intro q
    rw [hframe, hdropped.frame, hjobs]
    exact h.mail q
  have hlost := h.event_lost (u := abortJob 0 reason (event src code p args s)) src code p reason args rfl
  generalize abortJob 0 reason (event src code p args s) = w at hframe hdropped hlost
  have hfrozen := h.queue.frozen
  have hslot : w.caddy.lastSlot = s.caddy.slot := by
    have hmarker : t.caddy.marker = 0 := by rw [hjobs]; exact h.marker
    have htail : t.caddy.tail = 1 := by rw [hjobs]; simp [event, Caddy.put, hfrozen, h.tail]
    rw [Caddy.lastSlot, hdropped.marker, hdropped.tail, hmarker, htail, Caddy.slot, hfrozen, h.marker, h.tail]
    rfl
  have hlast : (tget v.caddy.ring s.caddy.slot).IsDrop := by
    rw [hframe, ← hslot]
    exact hdropped.last (.inl (by decide))
  have hsettle : NoDrop u v := hu ▸ noDrop_settle u
  rw [← hsettle.ring (hsettle.mail.noMail_iff.1 hmail) _ hlast]
  exact hlast.1

/-- The end of the bare job leaves the list of held estates. -/
theorem heldQ_abortJob_of_bare {s : State} {e : Nat} (hj : jobOf s e = some bareJob) (reason : Nat) :
    (abortJob e reason s).jobs.heldQ = s.jobs.heldQ := by
  have hstop : (stopJob e bareJob s).1.jobs.heldQ = s.jobs.heldQ := by simp [stopJob, closeQueues, jobLeaves, bareJob]
  have hfree : ∀ u, (freeEst e bareJob u).jobs.heldQ = u.jobs.heldQ := fun u => by
    unfold freeEst
    extract_lets v
    split <;> rfl
  have hclose : (closeJob e bareJob s).1 = freeEst e bareJob (stopJob e bareJob s).1 := by simp [closeJob, jobEsts, bareJob, hj]
  have hjob : (getEst s e).job = some bareJob := hj
  have hleft : (closeJob e bareJob s).2.job = bareJob := by simp [closeJob, jobEsts, bareJob, hjob]
  have hposted : ∀ {t u : State}, Posted t u → u.jobs.heldQ = t.jobs.heldQ := fun h => by rw [h.eq]; rfl
  simp only [abortJob, endJob, hj, writeDone]
  rw [hposted (posted_complete ..)]
  show (closeRec _ _ _ _).1.jobs.heldQ = _
  rw [hposted (posted_closeRec ..), hclose, hfree, hstop]

/-- Nothing waits for a boundary at the end of a recovery that no other follows. -/
theorem endRecovery_of_nothingWaits {s : State} (h : NothingWaits s) (hq : s.jobs.heldQ = []) :
    endRecovery s = { s with jobs := (endRecovery s).jobs } ∧ NothingWaits (endRecovery s) := by
  have hfold : ∀ (es : List Nat) (u : State), NothingWaits u → u.jobs.heldQ = [] →
      let v := es.foldl (fun s e => modEst s e fun x => { x with recovering := false }) u
      v = { u with jobs := v.jobs } ∧ NothingWaits v ∧ v.jobs.heldQ = [] := by
    intro es
    induction es with
    | nil => exact fun u hu hq => ⟨rfl, hu, hq⟩
    | cons e es ih =>
      intro u hu hq
      obtain ⟨hframe, hwaits, hheld⟩ := ih (modEst u e fun x => { x with recovering := false }) (nothingWaits_modEst hu e fun _ => rfl) hq
      exact ⟨by rw [List.foldl_cons, hframe]; rfl, hwaits, hheld⟩
  obtain ⟨hframe, hwaits, hheld⟩ := hfold (recoveringEsts s) s h hq
  have hend : endRecovery s = { (recoveringEsts s).foldl (fun s e => modEst s e fun x => { x with recovering := false }) s with
      jobs := { ((recoveringEsts s).foldl (fun s e => modEst s e fun x => { x with recovering := false }) s).jobs with recovery := 0 } } := by
    unfold endRecovery nextHeld
    dsimp only
    rw [hheld]
  rw [hend]
  exact ⟨by rw [hframe], { hwaits with }⟩

/-- Estate 0, which recovers, with the bare job. -/
def crowdedRecovery : State :=
  { crowded with jobs := { est := [(0, { live := true, recovering := true, job := some bareJob })], recovery := 1, localise := [(0, 0)] } }

/-- `crowdedRecovery`, with its localisation taken off the list. -/
def crowdedLocalised : State := { crowdedRecovery with jobs := { crowdedRecovery.jobs with localise := [] } }

theorem crowded_crowdedLocalised : Crowded crowdedLocalised where
  waits := { nothingWaits_crowded with
    change := fun e => by
      simp only [getEst, crowdedLocalised, crowdedRecovery, tget]
      split <;> rfl }
  mail _ := ⟨rfl, rfl⟩
  job := rfl
  queue := ⟨rfl, rfl, rfl, rfl, rfl, rfl, rfl, by decide, rfl, rfl⟩
  room := rfl
  held := List.length_replicate
  closed := by decide
  marker := rfl
  tail := rfl

theorem exec_goldenFrameDone_crowded : exec (.goldenFrameDone []) crowdedRecovery =
    .next (settle (endRecovery (abortJob 0 stDATA_ERROR (localEvent 0 0xFFFF 0 crowdedLocalised)))) := by
  have hlocal : localising crowdedRecovery = some (0, 0) := by decide +kernel
  have hrest : (crowdedRecovery.jobs.localise.filter fun x => decide (x.1 ≠ 0)) = [] := by decide
  have hnone : (leafIdx.filter fun l => (([] : List (Fin 168)).any fun f => decide (f.val = l)) &&
      [0].any fun e => (getEst crowdedRecovery e).leaves.contains l) = [] := by simp
  have hclosed : ¬ (crowdedRecovery.firm.act = .open_ ∨ crowdedRecovery.safe.halted = true) := by decide
  have hjob : jobOf crowdedRecovery 0 = some bareJob := rfl
  have hests : jobEsts 0 bareJob = [0] := rfl
  show execGoldenFrameDone [] crowdedRecovery = _
  rw [execGoldenFrameDone, hlocal]
  dsimp only
  rw [if_neg hclosed, hjob]
  dsimp only
  rw [hests, hnone, hrest]
  rfl

/-- Refutes O25: the clause of a localisation that finds no leaf also promises that its event still stands in the ring when the job has
ended. In the state `crowdedRecovery` the end of the job writes 1,024 events after it. -/
theorem not_heartbeatsAndRecovery : ¬ Obligations.HeartbeatsAndRecovery := by
  unfold Obligations.HeartbeatsAndRecovery
  rintro ⟨-, -, -, -, -, hnone, -⟩
  obtain ⟨u, hexec, -, -, -, -, hlogs⟩ := hnone crowdedRecovery 0 0 (by decide +kernel) (by decide) (by decide) rfl (by decide +kernel)
  rw [exec_goldenFrameDone_crowded] at hexec
  have hcrowded := crowded_crowdedLocalised
  obtain ⟨t, hwaits, -, hdropped⟩ := hcrowded.abortJob_event srcAfzan 0x3008 (getEst crowdedLocalised 0).party stDATA_ERROR
    (leBytes 1 0 ++ leBytes 2 0xFFFF ++ leBytes 1 0)
  have hheld : (abortJob 0 stDATA_ERROR (localEvent 0 0xFFFF 0 crowdedLocalised)).jobs.heldQ = [] :=
    heldQ_abortJob_of_bare (s := localEvent 0 0xFFFF 0 crowdedLocalised) (e := 0) rfl stDATA_ERROR
  rw [localEvent] at hexec hheld
  obtain ⟨hframe, hend⟩ := endRecovery_of_nothingWaits (hdropped.nothingWaits hwaits) hheld
  have hlost := hcrowded.event_lost_before hframe hend (Host.Outcome.next.inj hexec).symm
  rw [show crowdedLocalised.caddy.slot = crowdedRecovery.caddy.slot from rfl, hlogs.1] at hlost
  exact absurd hlost (by decide)

end Sys2Proof.Machine

/-! Taking a record, the switch and Pour (R163, R221, R222, R233, R386 to R389, R544). -/

namespace Sys2Proof.Machine
open Sys2Proof.Claims

/-! ### Taking a record (R163, R221) -/

theorem afterTake_eq (q : Nat) (s : State) : (afterTake q s).mem = s.mem ∧ (afterTake q s).lv = s.lv ∧ (afterTake q s).jobs = s.jobs ∧
    (afterTake q s).party = s.party := by
  obtain ⟨hmem, hlv, -⟩ := popEntry_effect q (modQ s q fun x => { x with ann := x.ann.drop 1 })
  have hbytes := getBytes_eq (bySlice (modQ s q fun x => { x with ann := x.ann.drop 1 }) q)
    ((getQ (modQ s q fun x => { x with ann := x.ann.drop 1 }) q).slotAddr (getQ (modQ s q fun x => { x with ann := x.ann.drop 1 }) q).head)
    (getQ (modQ s q fun x => { x with ann := x.ann.drop 1 }) q).esz (modQ s q fun x => { x with ann := x.ann.drop 1 })
  exact ⟨hmem, hlv, congrArg (·.jobs) hbytes, congrArg (·.party) hbytes⟩

theorem getQ_afterTake_same (q : Nat) (s : State) : getQ (afterTake q s) q = { getQ s q with
    ann := (getQ s q).ann.drop 1, head := (getQ s q).adv (getQ s q).head 1
    retire := if (getQ s q).isTile then (getQ s q).retire else (getQ s q).adv (getQ s q).head 1
    popped := (getQ s q).popped.add 1, came := (getQ s q).came.drop 1 } := by
  obtain ⟨-, -, hqueue⟩ := popEntry_effect q (modQ s q fun x => { x with ann := x.ann.drop 1 })
  refine ((congrArg (tget · q) hqueue).trans (tget_tmod_same ..)).trans ?_
  rw [show tget (modQ s q fun x => { x with ann := x.ann.drop 1 }).queue q = _ from getQ_modQ_same ..]
  rfl

theorem getQ_afterTake_ne {q j : Nat} (hj : j ≠ q) (s : State) : getQ (afterTake q s) j = getQ s j := by
  obtain ⟨-, -, hqueue⟩ := popEntry_effect q (modQ s q fun x => { x with ann := x.ann.drop 1 })
  exact ((congrArg (tget · j) hqueue).trans (tget_tmod_ne _ _ hj)).trans (getQ_modQ_ne _ _ hj)

theorem popped_afterTake (q : Nat) (s : State) : Popped q s (afterTake q s) := by
  have hget := getQ_afterTake_same q s
  refine ⟨by rw [hget]; rfl, by rw [hget], ?_, by rw [hget], fun j hj => getQ_afterTake_ne hj s⟩
  rw [hget]
  simp only [Queue.isTile, decide_eq_true_eq]

theorem popped_of_queue {q : Nat} {s t u : State} (h : Popped q s t) (hu : u.queue = t.queue) : Popped q s u := by
  unfold Popped getQ at *
  rw [hu]
  exact h

theorem readArgs_of_mem {s t : State} (h : t.mem = s.mem) (r : List Byte) : readArgs t r = readArgs s r := by
  simp only [readArgs, memRead, h]

/-- A record of queue `q` that waits for an estate from the state `s` on. -/
def takenWait (q p ann : Nat) (r : List Byte) (s : State) : WaitRec :=
  { qid := q, party := p, record := r, takenAt := s.ktime, annAt := ann, args := readArgs s r, be := queueBe s q
    replay := bitOf (getQ s q).flags 2, gset := gsetOf s q, serial := s.jobs.serial }

/-- What the Kettle does with the record that it has taken. -/
def takenRec (q p ann : Nat) (r : List Byte) (s : State) : State :=
  if !cqOk s p r then discardRec p q s
  else match recBad s p q r with
    | some st => refuseRec r st s
    | none =>
      let img := match tmplOf s p (recHandle r) with | some t => t.image | none => []
      let cs := candidates s p (queueBe s q) (recDual r) img
      let w := takenWait q p ann r s
      let keep := askPreempt w { s with jobs := { s.jobs with waiting := s.jobs.waiting ++ [w], serial := s.jobs.serial + 1 } }
      if cs.isEmpty then
        (if queueBe s q && !recDual r && couldBorrow s p r img && lentHolds s p img then keep else refuseRec r stNO_RESOURCE s)
      else if !(cs.any fun e => grantHolds s p e (if recDual r then 2 else 1) img) then refuseRec r stNO_RESOURCE s
      else if cs.all fun e => (getEst s e).held then refuseRec r stBUSY s
      else keep

theorem exec_recordTake {q : BitVec 18} {p : Nat} {s : State} (h : CanTake q.toNat p s) :
    exec (.recordTake q) s = .next (takenRec q.toNat p ((getQ s q.toNat).ann.headD s.ktime) (headEntry s q.toNat) (afterTake q.toNat s)) := by
  obtain ⟨howner, hadmit, hbound, hkind, hlen, hwait, hfrozen⟩ := h
  have hfree : (s.jobs.waiting.any fun w => decide (w.qid = q.toNat)) = false := by
    rw [List.any_eq_false]
    exact fun w hw => by simpa using hwait w hw
  show execRecordTake q s = _
  rw [execRecordTake]
  simp only [howner, hadmit, hbound, hkind, hlen, hfree, hfrozen, Bool.not_true, ne_eq, not_true_eq_false, decide_false, Bool.or_self,
    Bool.false_eq_true, if_false]
  rfl

/-- Asking for a pre-emption sets a question of graphics alone (R260). -/
theorem askPreempt_eq (w : WaitRec) (s : State) : askPreempt w s = { s with media := (askPreempt w s).media } := by
  unfold askPreempt
  extract_lets img cs best
  clear_value best
  split
  · rfl
  · rcases best with - | ⟨e, j⟩
    · rfl
    · dsimp only
      split <;> rfl

theorem takingRecord_discarded {q : BitVec 18} {s : State} {p : Nat} (h : CanTake q.toNat p s)
    (hcq : cqOk (afterTake q.toNat s) p (headEntry s q.toNat) = false) :
    Runs (.recordTake q) s fun t => Popped q.toNat s t ∧ t.jobs = s.jobs ∧ MemSame s t ∧
      getParty t p = { getParty s p with submitErr := true, errQid := q.toNat, errStatus := stBAD_ARG } ∧
      ∀ j, j ≠ p → getParty t j = getParty s j := by
  obtain ⟨hmem, -, hjobs, hparty⟩ := afterTake_eq q.toNat s
  refine ⟨_, (exec_recordTake h).trans (congrArg Host.Outcome.next (if_pos (by rw [hcq]; rfl))), ?_⟩
  refine ⟨popped_of_queue (popped_afterTake ..) rfl, hjobs, fun x => congrArg (fun m => tget m.cells x) hmem, ?_, fun j hj => ?_⟩
  · exact (getParty_modParty_same ..).trans (by rw [getParty, hparty]; rfl)
  · exact (getParty_modParty_ne _ _ hj).trans (by rw [getParty, hparty]; rfl)

theorem takingRecord_refused {q : BitVec 18} {s : State} {p st : Nat} (h : CanTake q.toNat p s)
    (hcq : cqOk (afterTake q.toNat s) p (headEntry s q.toNat) = true)
    (hbad : recBad (afterTake q.toNat s) p q.toNat (headEntry s q.toNat) = some st) :
    Runs (.recordTake q) s fun t =>
      t = complete (recCq (headEntry s q.toNat)) (compRec (recTag (headEntry s q.toNat)) st 0 0xFF 0 0 0 0) (afterTake q.toNat s) := by
  refine ⟨_, exec_recordTake h, ?_⟩
  rw [takenRec, hcq, hbad]
  rfl

theorem takingRecord_waits {q : BitVec 18} {s : State} {p : Nat} {tm : Tmpl} (h : CanTake q.toNat p s)
    (hcq : cqOk (afterTake q.toNat s) p (headEntry s q.toNat) = true)
    (hbad : recBad (afterTake q.toNat s) p q.toNat (headEntry s q.toNat) = none)
    (htmpl : tmplOf (afterTake q.toNat s) p (recHandle (headEntry s q.toNat)) = some tm)
    (hgrant : ∃ e ∈ candidates (afterTake q.toNat s) p (queueBe s q.toNat) (recDual (headEntry s q.toNat)) tm.image,
      grantHolds (afterTake q.toNat s) p e (if recDual (headEntry s q.toNat) then 2 else 1) tm.image = true)
    (hheld : ∃ e ∈ candidates (afterTake q.toNat s) p (queueBe s q.toNat) (recDual (headEntry s q.toNat)) tm.image,
      (getEst s e).held = false) :
    Runs (.recordTake q) s fun t => Popped q.toNat s t ∧ MemSame s t ∧ t.lv = s.lv ∧
      ∃ w : WaitRec, t.jobs = { s.jobs with waiting := s.jobs.waiting ++ [w], serial := s.jobs.serial + 1 } ∧ w.qid = q.toNat ∧
        w.party = p ∧ w.record = headEntry s q.toNat ∧ w.takenAt = s.ktime ∧ w.be = queueBe s q.toNat ∧ w.serial = s.jobs.serial ∧
        w.args = readArgs s (headEntry s q.toNat) := by
  obtain ⟨hmem, hlv, hjobs, -⟩ := afterTake_eq q.toNat s
  obtain ⟨e, hcand, hgrant⟩ := hgrant
  obtain ⟨x, hx, hheld⟩ := hheld
  have hbe : queueBe (afterTake q.toNat s) q.toNat = queueBe s q.toNat := by rw [queueBe, getQ_afterTake_same]; rfl
  have htime : (afterTake q.toNat s).ktime = s.ktime := (posted_popEntry ..).ktime
  refine ⟨_, exec_recordTake h, ?_⟩
  set v := afterTake q.toNat s with hv
  set r := headEntry s q.toNat
  set cs := candidates v p (queueBe s q.toNat) (recDual r) tm.image with hcs
  have hsome : cs.isEmpty = false := by
    rw [List.isEmpty_eq_false_iff_exists_mem]
    exact ⟨e, hcand⟩
  have hholds : (cs.any fun e => grantHolds v p e (if recDual r then 2 else 1) tm.image) = true := List.any_eq_true.2 ⟨e, hcand, hgrant⟩
  have hfree : (cs.all fun e => (getEst v e).held) = false := by
    rw [List.all_eq_false]
    exact ⟨x, hx, by rw [getEst, hjobs, ← getEst, hheld]; decide⟩
  rw [takenRec, hcq, hbad]
  simp only [Bool.not_true, Bool.false_eq_true, if_false, htmpl, hbe, ← hcs, hsome, hholds, hfree]
  rw [askPreempt_eq]
  refine ⟨popped_of_queue (popped_afterTake ..) rfl, fun x => congrArg (fun m => tget m.cells x) hmem, hlv,
    takenWait q.toNat p ((getQ s q.toNat).ann.headD s.ktime) r v, ?_, rfl, rfl, rfl, htime, hbe,
    congrArg (·.serial) hjobs, readArgs_of_mem hmem r⟩
  dsimp only
  rw [hjobs]

/-! ### Starting a job (R222) -/

/-- What no step of a fold changes, the fold does not change. -/
theorem keeps_foldl {α β γ : Type} {f : α → β → α} (p : α → γ) (hf : ∀ a x, p (f a x) = p a) (l : List β) (a : α) : p (l.foldl f a) = p a := by
  induction l generalizing a with
  | nil => rfl
  | cons x l ih => exact (ih _).trans (hf a x)

theorem segEvent_jobs (l b : Nat) (s : State) : (segEvent l b s).jobs = s.jobs := by
  unfold segEvent
  split <;> rfl

theorem segSwitch_jobs (e : Nat) (img : List Byte) (is : List Inst) (same : Bool) (s : State) : (segSwitch e img is same s).jobs = s.jobs := by
  refine keeps_foldl (·.jobs) (fun u l => ?_) _ s
  extract_lets b need v w
  have hswitch : v.jobs = u.jobs := by
    refine keeps_foldl (·.jobs) (fun y k => ?_) _ u
    dsimp only
    split
    · split
      · rfl
      · split <;> rfl
    · split <;> rfl
  have hmark : w.jobs = v.jobs := by
    unfold w
    split <;> rfl
  exact (segEvent_jobs ..).trans (hmark.trans hswitch)

/-- The job stands on its estate when the switch begins; whether its kept buffers were lost is noted in it. -/
theorem jobOf_beginSwitch (e : Nat) (j : Job) (s : State) : ∃ lost, jobOf (beginSwitch e j s) e = some { j with keptLost := lost } := by
  unfold beginSwitch
  extract_lets h same u r v
  refine ⟨j.keptLost || r.2, ?_⟩
  rw [jobOf, getEst, segSwitch_jobs]
  show (getEst (modEst r.1 e fun x => { x with job := some { j with keptLost := j.keptLost || r.2 } }) e).job = _
  rw [getEst_modEst_same]

theorem admitRec_own {s : State} {w : WaitRec} {e : Nat} {a : List Inst × List Nat × List Nat} (hdual : recDual w.record = false)
    (halloc : allocFor s w.party e (getEst s e).desc.cg (recImg s w) = some a) :
    admitRec s w e false = some (beginSwitch e (mkJob s w (recImg s w) false 0 (partnerOf s e) a) s) := by
  simp [admitRec, hdual, halloc]

theorem askAll_jobs (s : State) : (askAll s).jobs = s.jobs :=
  keeps_foldl (·.jobs) (fun u w => by rw [askPreempt_eq]) _ s

/-- Watches leave the waiting records, and mark a job unarmed at most (R164). -/
theorem armWatches_jobs (x : Nat) (s : State) : (armWatches x s).jobs.waiting = s.jobs.waiting ∧
    ∀ e j, jobOf s e = some j → ∃ b, jobOf (armWatches x s) e = some { j with unarmed := b } := by
  have hsame : ∀ u : State, u.jobs.waiting = s.jobs.waiting → u.jobs.est = s.jobs.est → u.jobs.waiting = s.jobs.waiting ∧
      ∀ e j, jobOf s e = some j → ∃ b, jobOf u e = some { j with unarmed := b } := fun u hw he =>
    ⟨hw, fun e j hj => ⟨j.unarmed, by rw [jobOf, getEst, he]; exact hj⟩⟩
  unfold armWatches
  split
  · exact hsame s rfl rfl
  · split
    · exact hsame s rfl rfl
    · dsimp only
      split
      · refine ⟨rfl, fun e j hj => ?_⟩
        by_cases hx : e = x
        · subst hx
          refine ⟨true, ?_⟩
          rw [jobOf, modJob, getEst_modEst_same]
          simp only [show (getEst s e).job = some j from hj, Option.map_some]
        · refine ⟨j.unarmed, ?_⟩
          rw [jobOf, modJob, getEst_modEst_ne _ _ hx]
          exact hj
      · exact hsame _ rfl rfl

/-- After a start the record waits no longer, and the job stands on its estate. -/
theorem started_jobs (w : WaitRec) (s : State) : (∀ x ∈ (started w s).jobs.waiting, x.serial ≠ w.serial) ∧
    ∀ e j, jobOf s e = some j → ∃ b, jobOf (started w s) e = some { j with unarmed := b } := by
  have hdrop : ∀ x ∈ (dropRec w s).jobs.waiting, x.serial ≠ w.serial := fun x hx => by simpa using (List.mem_filter.1 hx).2
  unfold started
  extract_lets u
  split
  · exact ⟨hdrop, fun e j hj => ⟨j.unarmed, hj⟩⟩
  · next x _ =>
    obtain ⟨hwaiting, harmed⟩ := armWatches_jobs x u
    extract_lets v
    split
    · next k _ =>
      have hjobs : ∀ y : State, y.jobs = v.jobs → (askAll y).jobs = v.jobs := fun y hy => (askAll_jobs y).trans hy
      have hgfx : (askAll (if k.graphics then modGfx v x fun _ => if w.resumed then w.gfx else { cap := k.pieces.length * pieceBytes }
          else v)).jobs = v.jobs := hjobs _ (by split <;> rfl)
      refine ⟨?_, fun e j hj => ?_⟩
      · rw [hgfx, hwaiting]
        exact hdrop
      · rw [jobOf, getEst, hgfx]
        exact harmed e j hj
    · exact ⟨by rw [hwaiting]; exact hdrop, harmed⟩

theorem runs_jobStart {q : BitVec 18} {s : State} {w : WaitRec} {e : Nat} {a : List Inst × List Nat × List Nat}
    (hfind : s.jobs.waiting.find? (fun x => decide (x.qid = q.toNat)) = some w) (hadmit : admitting s = true)
    (hcq : cqOk s w.party w.record = true) (hfree : cqFree s w = true) (hfrozen : (getParty s w.party).frozen = 0)
    (hturn : isTurn s w (ownStart s) = true) (hpick : ownPick s w = some e)
    (hheld : ((candidates s w.party w.be (recDual w.record) (recImg s w)).all fun x => (getEst s x).held) = false)
    (hdual : recDual w.record = false) (halloc : allocFor s w.party e (getEst s e).desc.cg (recImg s w) = some a) :
    Runs (.jobStart q) s fun t => (∀ x ∈ t.jobs.waiting, x.serial ≠ w.serial) ∧
      ∃ j, jobOf t e = some j ∧ j.phase = .switching ∧ j.record = w.record ∧ j.party = w.party ∧ j.lent = false ∧ j.insts = a.1 ∧
        j.queues = a.2.1 ∧ j.qid = w.qid := by
  have hstart : ownStart s w = some (beginSwitch e (mkJob s w (recImg s w) false 0 (partnerOf s e) a) s) := by
    simp only [ownStart, hfree, hfrozen, hpick, Bool.not_true, ne_eq, not_true_eq_false, decide_false, Bool.or_self, Bool.false_eq_true, if_false,
      Option.bind_some, admitRec_own hdual halloc]
  have hexec : exec (.jobStart q) s = .next (started w (beginSwitch e (mkJob s w (recImg s w) false 0 (partnerOf s e) a) s)) := by
    show execJobStart q s = _
    simp only [execJobStart, hfind, hadmit, hcq, hheld, hturn, hstart, Bool.not_true, Bool.and_false, Bool.false_eq_true, if_false, if_true]
  obtain ⟨hwaiting, hjobs⟩ := started_jobs w (beginSwitch e (mkJob s w (recImg s w) false 0 (partnerOf s e) a) s)
  obtain ⟨lost, hbegin⟩ := jobOf_beginSwitch e (mkJob s w (recImg s w) false 0 (partnerOf s e) a) s
  obtain ⟨b, hjob⟩ := hjobs _ _ hbegin
  exact ⟨_, hexec, hwaiting, _, hjob, rfl, rfl, rfl, rfl, rfl, rfl, rfl⟩

theorem takingRecords : TakingRecords := by
  refine ⟨fun q s p h hcq => ?_, fun q s p st h hcq hbad => ?_, fun q s p tm h hcq hbad ht hgrant hheld => ?_, ?_⟩
  · exact takingRecord_discarded h hcq
  · exact takingRecord_refused h hcq hbad
  · exact takingRecord_waits h hcq hbad ht hgrant hheld
  · intro q s w e a hfind hadmit hcq hfree hfrozen hturn hpick hheld hdual halloc
    exact runs_jobStart hfind hadmit hcq hfree hfrozen hturn hpick hheld hdual halloc

/-! ### The threads of a job start (R389, R544) -/

/-- A thread, of any of a job's instances, as it starts, before its first checkpoint. -/
def firstThread (img : List Byte) (x : Inst) (t : Nat) : Thread :=
  { mode := .running, bound := true, pc := x.region + sEntry img x.station, station := x.station, inst := x.inst, tnum := t
    regs := tput (tput (tput (tput [] 1 (BitVec.ofNat 32 t)) 2 (BitVec.ofNat 32 x.inst)) 3 (BitVec.ofNat 32 x.region)) 4
      (BitVec.ofNat 32 (x.region + argOff img x.station))
    nv := sVregs img x.station, vbase := x.vbase + t * sVregs img x.station, accs := if t = 0 then sAcc img x.station else 0 }

/-- One thread of a job that is not resumed starts, with its vector registers cleared. -/
def startThread (img : List Byte) (x : Inst) (s : State) (t : Nat) : State :=
  let k := x.leaf * 64 + x.first + t
  let u := modTh s k fun _ => firstThread img x t
  checkpoint k { u with lv := { u.lv with
    vregs := tclear u.lv.vregs (vkey u k 0) (sVregs img x.station * 128)
    badVec := tclear u.lv.badVec (vkey u k 0) (sVregs img x.station * 128) } }

theorem startThread_eq (img : List Byte) (x : Inst) (s : State) (t : Nat) :
    startThread img x s t = { s with lv := (startThread img x s t).lv } ∧ (startThread img x s t).lv.leaf = s.lv.leaf := ⟨rfl, rfl⟩

theorem getTh_startThread_same (img : List Byte) (x : Inst) (s : State) (t : Nat) :
    ∃ sh, getTh (startThread img x s t) (x.leaf * 64 + x.first + t) = { firstThread img x t with shadow := sh } := by
  unfold startThread
  extract_lets k u
  have hfirst : getTh u k = firstThread img x t := getTh_modTh_same ..
  obtain ⟨sh, hcheck, -⟩ := getTh_checkpoint_same k { u with lv := { u.lv with
    vregs := tclear u.lv.vregs (vkey u k 0) (sVregs img x.station * 128)
    badVec := tclear u.lv.badVec (vkey u k 0) (sVregs img x.station * 128) } }
  exact ⟨sh, hcheck.trans (congrArg (fun t : Thread => { t with shadow := sh, replays := 0 }) hfirst)⟩

theorem getTh_startThread_ne (img : List Byte) (x : Inst) (s : State) {t j : Nat} (h : j ≠ x.leaf * 64 + x.first + t) :
    getTh (startThread img x s t) j = getTh s j := by
  unfold startThread
  extract_lets k u
  have hothers : getTh u j = getTh s j := getTh_modTh_ne s _ h
  exact (getTh_checkpoint_ne k _ h).trans hothers

/-- Every thread of one of the instances started, the others as they were, and nothing else of the leaf's record changed. -/
theorem startAll (img : List Byte) (x : Inst) (s : State) (n : Nat) : let u := (List.range n).foldl (startThread img x) s
    u = { s with lv := u.lv } ∧ u.lv.leaf = s.lv.leaf ∧
    ∀ i < n, ∃ sh, getTh u (x.leaf * 64 + x.first + i) = { firstThread img x i with shadow := sh } := by
  induction n with
  | zero => exact ⟨rfl, rfl, fun i hi => absurd hi (Nat.not_lt_zero i)⟩
  | succ n ih =>
    obtain ⟨hframe, hleaf, hthreads⟩ := ih
    rw [List.range_succ, List.foldl_append, List.foldl_cons, List.foldl_nil]
    generalize (List.range n).foldl (startThread img x) s = v at hframe hleaf hthreads
    dsimp only
    obtain ⟨hstep, hstepLeaf⟩ := startThread_eq img x v n
    refine ⟨?_, hstepLeaf.trans hleaf, fun i hi => ?_⟩
    · rw [hstep, hframe]
    · rcases Nat.lt_succ_iff_lt_or_eq.1 hi with hlt | rfl
      · rw [getTh_startThread_ne _ _ _ (by omega)]
        exact hthreads i hlt
      · exact getTh_startThread_same ..

/-- The start of a job whose count of instances is 1 and that is not resumed. -/
theorem startThreads_of {s : State} {e : Nat} {j : Job} {x : Inst} (hjob : jobOf s e = some j) (hinsts : j.insts = [x]) (hsaved : j.saved = [])
    (hresumed : j.resumed = false) : let u := (List.range (sThreads (jobImg s j) x.station)).foldl (startThread (jobImg s j) x) s
    startThreads e s = modJob u e fun y => { y with phase := .running, progress := u.ktime, saved := [], bins := [], resumed := false } := by
  unfold startThreads
  simp only [hjob, hinsts, hsaved, hresumed, List.foldl_cons, List.foldl_nil, List.find?_nil, Bool.false_eq_true, if_false]
  rfl

/-! ### Packets of an image (R386) -/

theorem leNat_lt (bs : List Byte) : leNat bs < 256 ^ bs.length := by
  induction bs with
  | nil => simp [leNat]
  | cons b bs ih =>
    have hb : b.toNat < 256 := b.isLt
    rw [leNat, List.length_cons, Nat.pow_succ]
    omega

theorem field_lt (bs : List Byte) (off n : Nat) : field bs off n < 256 ^ n :=
  (leNat_lt _).trans_le (Nat.pow_le_pow_right (by decide) (by simp))

/-- A field that was written in its place. -/
theorem field_leBytes {off : Nat} {a b : List Byte} (h : a.length = off) (n v : Nat) : field (a ++ (leBytes n v ++ b)) off n = v % 256 ^ n := by
  subst h
  have hlen : (leBytes n v).length = n := leBytes_length ..
  rw [field, List.drop_left, List.take_append_of_le_length (by rw [hlen]), List.take_of_length_le (by rw [hlen]), leNat_leBytes]

/-- Payload `n` of an image. -/
def payload (image : List Byte) (n : Nat) : List Byte := (image.drop (n * 4064)).take 4064

theorem pourPacket_fields {id target n : Nat} {image : List Byte} (ht : target < 2 ^ 32) (hn : n < 2 ^ 32) :
    let p := pourPacket id 0 image target n
    field p 16 4 = target ∧ field p 4 4 = n ∧ field p 12 2 = (payload image n).length ∧ (p.drop 28).take (field p 12 2) = payload image n := by
  have hpay : (payload image n).length < 65536 := by
    simp only [payload, List.length_take]
    omega
  obtain ⟨crc, hpacket⟩ : ∃ crc, pourPacket id 0 image target n = leBytes 4 id ++ leBytes 4 n ++ leBytes 4 (pourCount image.length) ++
      leBytes 2 (payload image n).length ++ leBytes 2 0 ++ leBytes 4 target ++ leBytes 8 0 ++ payload image n ++
      List.replicate (4064 - (payload image n).length) 0#8 ++ leBytes 4 crc := ⟨_, rfl⟩
  simp only [List.append_assoc] at hpacket
  have hseq : field (pourPacket id 0 image target n) 4 4 = n := by
    rw [hpacket, field_leBytes (leBytes_length ..)]
    exact Nat.mod_eq_of_lt hn
  have hlen : field (pourPacket id 0 image target n) 12 2 = (payload image n).length := by
    rw [hpacket, ← List.append_assoc, ← List.append_assoc, field_leBytes (by simp)]
    exact Nat.mod_eq_of_lt hpay
  have hplace : field (pourPacket id 0 image target n) 16 4 = target := by
    rw [hpacket, ← List.append_assoc, ← List.append_assoc, ← List.append_assoc, ← List.append_assoc, field_leBytes (by simp)]
    exact Nat.mod_eq_of_lt ht
  have hbody : ((pourPacket id 0 image target n).drop 28).take (payload image n).length = payload image n := by
    rw [hpacket]
    iterate 6 rw [← List.append_assoc]
    rw [List.drop_left' (by simp), List.take_left]
  exact ⟨hplace, hseq, hlen, by rw [hlen]; exact hbody⟩

/-! ### An image that has landed (R386, R389) -/

/-- Two writes, one after the other in place, are one. -/
theorem twrite_append {α : Type} [DecidableEq α] [Inhabited α] (xs ys : List α) (t : Tab α) (a : Nat) :
    twrite t a (xs ++ ys) = twrite (twrite t a xs) (a + xs.length) ys := by
  induction xs generalizing t a with
  | nil => rfl
  | cons x xs ih =>
    rw [List.cons_append, twrite, ih, twrite, List.length_cons]
    congr 1
    omega

theorem landPacket_cells {id target n : Nat} {image : List Byte} (ht : target < 2 ^ 32) (hn : n < 2 ^ 32) (l : Nat) (s : State) :
    (landPacket l (pourPacket id 0 image target n) s).mem.cells = twrite s.mem.cells (spBase l + target + n * 4064) (payload image n) := by
  obtain ⟨hplace, hseq, -, hbody⟩ := pourPacket_fields (id := id) (image := image) ht hn
  rw [landPacket, spPut_cells, hplace, hseq, hbody, Nat.add_assoc]

theorem take_payload (image : List Byte) (n : Nat) : image.take ((n + 1) * 4064) = image.take (n * 4064) ++ payload image n := by
  rw [payload, Nat.succ_mul, List.take_add]

/-- The first `n` packets of an image have landed. -/
theorem landPackets_cells {id target : Nat} {image : List Byte} (ht : target < 2 ^ 32) (l : Nat) (s : State) (n : Nat)
    (hn : n ≤ pourCount image.length) (hcount : pourCount image.length ≤ 2 ^ 32) :
    (((List.range n).map (pourPacket id 0 image target)).foldl (fun s p => landPacket l p s) s).mem.cells =
      twrite s.mem.cells (spBase l + target) (image.take (n * 4064)) := by
  induction n with
  | zero => simp [twrite]
  | succ n ih =>
    have hlen : (image.take (n * 4064)).length = n * 4064 := by
      rw [List.length_take]
      unfold pourCount at hn
      omega
    rw [List.range_succ, List.map_append, List.foldl_append, List.map_singleton, List.foldl_cons, List.foldl_nil,
      landPacket_cells ht (by omega), ih (by omega), take_payload, twrite_append, hlen]

theorem landAll_cells {id target : Nat} {image : List Byte} (ht : target < 2 ^ 32) (himage : image.length < 2 ^ 32) (l : Nat) (s : State) :
    ((pourPackets id image target).foldl (fun s p => landPacket l p s) s).mem.cells = twrite s.mem.cells (spBase l + target) image := by
  rw [pourPackets, landPackets_cells ht l s _ (Nat.le_refl _) (by unfold pourCount; omega), List.take_of_length_le]
  unfold pourCount
  omega

theorem sImage_length_lt (img : List Byte) (i : Nat) : (sImage img i).length < 2 ^ 32 := by
  have h : sImageBytes img i < 256 ^ 4 := field_lt ..
  rw [sImage, List.length_take]
  omega

theorem putOnly_landPackets (l : Nat) (ps : List (List Byte)) (s : State) : PutOnly s (ps.foldl (fun s p => landPacket l p s) s) := by
  induction ps generalizing s with
  | nil => exact .refl s
  | cons p ps ih => exact (putOnly_spPut ..).trans (ih _)

theorem jobOf_modJob {s : State} {e : Nat} {j : Job} (h : jobOf s e = some j) (f : Job → Job) : jobOf (modJob s e f) e = some (f j) := by
  rw [jobOf, modJob, getEst_modEst_same]
  show (getEst s e).job.map f = _
  rw [show (getEst s e).job = some j from h]
  rfl

/-- The last leaf of a job whose count of instances is 1 has its image: its threads start. -/
theorem loaded_leafLoaded {e l : Nat} {j : Job} {x : Inst} {s : State} (hjob : jobOf s e = some j) (hloading : j.loading = [l])
    (hinsts : j.insts = [x]) (hleaf : x.leaf = l) (hregion : x.region < 0x200000) (hsaved : j.saved = []) (hresumed : j.resumed = false) :
    Loaded e l j x s (leafLoaded e l s) ∧ (leafLoaded e l s).caddy = s.caddy ∧ (leafLoaded e l s).ktime = s.ktime := by
  have hland : PutOnly s ((pourPackets j.image (sImage (jobImg s j) x.station) x.region).foldl (fun s p => landPacket l p s) s) :=
    putOnly_landPackets ..
  have hcells := landAll_cells (id := j.image) (target := x.region) (image := sImage (jobImg s j) x.station) (by omega)
    (sImage_length_lt ..) l s
  have honLeaf : onLeaf j.insts l = [x] := by simp [onLeaf, hinsts, hleaf]
  set mark := imageMark j.party (recHandle j.record) (getEst s e).leaves.length with hmark
  set v := (pourPackets j.image (sImage (jobImg s j) x.station) x.region).foldl (fun s p => landPacket l p s) s with hv
  set u := modJob (modLeaf v l fun f => { f with image := mark, missed := [], missedN := 0, attempt := 0 }) e fun x =>
    { x with loading := x.loading.filter fun y => decide (y ≠ l) } with hu
  have hjobv : jobOf v e = some j := by rw [hland]; exact hjob
  have hjobu : jobOf u e = some { j with loading := [] } := by
    refine (jobOf_modJob (s := modLeaf v l _) hjobv _).trans ?_
    simp [hloading]
  have himg : jobImg u { j with loading := [] } = jobImg s j := by rw [hu, hland]; rfl
  have hloaded : leafLoaded e l s = startThreads e u := by
    simp only [leafLoaded, landImages, hjob, honLeaf, List.foldl_cons, List.foldl_nil]
    rw [← hmark, ← hv, ← hu, hjobu]
    rfl
  have hstart := startThreads_of (j := { j with loading := [] }) hjobu hinsts hsaved hresumed
  obtain ⟨hframe, hleaves, hthreads⟩ := startAll (jobImg s j) x u (sThreads (jobImg s j) x.station)
  rw [himg] at hstart
  set w := (List.range (sThreads (jobImg s j) x.station)).foldl (startThread (jobImg s j) x) u with hw
  have hjobw : jobOf w e = some { j with loading := [] } := by rw [hframe]; exact hjobu
  have hrest : w.caddy = s.caddy ∧ w.ktime = s.ktime := by
    rw [hframe, hu, hland]
    exact ⟨rfl, rfl⟩
  rw [hloaded, hstart]
  refine ⟨⟨?_, ?_, ⟨_, jobOf_modJob hjobw _, rfl, rfl, rfl⟩, fun i hi => ?_⟩, hrest⟩
  · have hmem : w.mem.cells = twrite s.mem.cells (spBase l + x.region) (sImage (jobImg s j) x.station) := by rw [hframe]; exact hcells
    show tread w.mem.cells _ _ = _
    rw [hmem, tread_twrite]
  · show (tget w.lv.leaf l).image = mark
    rw [hleaves]
    exact congrArg Leaf.image (getLeaf_modLeaf_same v l _)
  · obtain ⟨sh, hget⟩ := hthreads i hi
    rw [hleaf] at hget
    rw [show getTh (modJob w e _) (l * 64 + x.first + i) = _ from hget]
    refine ⟨rfl, rfl, ?_, ?_, ?_, ?_, rfl⟩ <;> simp [firstThread, tget_tput]

/-! ### Pour (R386 to R389) -/

theorem pourFabric_of_nil {s : State} (h : s.mem.fabricErr = []) (l : Nat) : pourFabric l s = s := by
  have hnone : flitError s (iniStop .pour) l = none := by rw [flitError, if_pos h]
  rw [pourFabric, hnone]

section
variable {e l : Nat} {j : Job} {x : Inst} {s : State} (h : Pouring e l j x s)
include h

theorem Pouring.loads : loadingJob s l = some (e, j) := by
  obtain ⟨hjob, hphase, hloading, -, -, -, -, -, hest, -, -⟩ := h
  simp [loadingJob, hest, hjob, hphase, hloading]

theorem Pouring.loaded : Loaded e l j x s (leafLoaded e l s) := by
  obtain ⟨hjob, -, hloading, hinsts, hleaf, hregion, hsaved, hresumed, -⟩ := h
  exact (loaded_leafLoaded hjob hloading hinsts hleaf hregion hsaved hresumed).1

end

/-- The broadcast ends on a leaf that missed nothing. -/
theorem exec_pourBroadcastEnd {e : Fin 16} {missed : List (Fin 168 × List Nat)} {s : State} {l : Nat} {j : Job} {x : Inst}
    (h : Pouring e.val l j x s) (hattempt : (getLeaf s l).attempt = 1) (hmissed : (getLeaf s l).missed = [])
    (hn : (getLeaf s l).missedN = 0) (hnone : ∀ m ∈ missed, m.1.val = l → m.2 = []) :
    exec (.pourBroadcastEnd e missed) s = .next (leafLoaded e.val l s) := by
  obtain ⟨hjob, hphase, hloading, -, -, -, -, -, -, hrefused, hfabric⟩ := h
  have hpackets : (missed.filter fun x => decide (x.1.val = l)).flatMap (·.2) = [] := by
    rw [List.flatMap_eq_nil_iff]
    intro m hm
    obtain ⟨hin, hl⟩ := List.mem_filter.1 hm
    exact hnone m hin (of_decide_eq_true hl)
  show execPourBroadcastEnd e missed s = _
  simp [execPourBroadcastEnd, hjob, hphase, hrefused, hloading, pourFabric_of_nil hfabric, hattempt, hmissed, hn, hpackets]

section
variable {leaf : Fin 168} {s : State} {e : Nat} {j : Job} {x : Inst} (h : Pouring e leaf.val j x s)
include h

/-- A missed packet returns to a leaf that loads. -/
theorem exec_pourPullDone {n : Nat} {r : List Nat} (hmissed : (getLeaf s leaf.val).missed = n :: r) (p : PullResult) :
    exec (.pourPullDone leaf p) s = .next (match p with
      | .dataError => settle (leafAbort leaf.val stDATA_ERROR s)
      | .crcFail => pourFailed leaf.val j (pullEvent leaf.val j.image ((getLeaf s leaf.val).missedN - r.length) j.party s)
      | .good =>
        if r.isEmpty then leafLoaded e leaf.val (pullEvent leaf.val j.image (getLeaf s leaf.val).missedN j.party s)
        else modLeaf s leaf.val fun f => { f with missed := r }) := by
  have hloads := Pouring.loads h
  obtain ⟨-, -, -, -, -, -, -, -, -, hrefused, hfabric⟩ := h
  show execPourPullDone leaf p s = _
  simp only [execPourPullDone, hloads, hmissed, pourFabric_of_nil hfabric, hrefused]
  rfl

/-- A whole reload ends. -/
theorem exec_pourReloadDone (hmissed : (getLeaf s leaf.val).missed = []) (hn : (getLeaf s leaf.val).missedN ≠ 0) (p : PullResult) :
    exec (.pourReloadDone leaf p) s = .next (match p with
      | .dataError => settle (leafAbort leaf.val stDATA_ERROR s)
      | .crcFail => pourFailed leaf.val j s
      | .good => leafLoaded e leaf.val s) := by
  have hloads := Pouring.loads h
  obtain ⟨-, -, -, -, -, -, -, -, -, hrefused, hfabric⟩ := h
  show execPourReloadDone leaf p s = _
  simp only [execPourReloadDone, hloads, hmissed, pourFabric_of_nil hfabric, hrefused, hn, List.isEmpty_nil, Bool.not_true, decide_false,
    Bool.or_self, Bool.false_eq_true, if_false]
  rfl

end

/-! ### The end of a switch (R233) -/

theorem segSettle_jobs (e : Nat) (s : State) : (segSettle e s).jobs = s.jobs := by
  refine keeps_foldl (·.jobs) (fun u l => ?_) _ s
  extract_lets b v
  refine (segEvent_jobs ..).trans (keeps_foldl (·.jobs) (fun y k => ?_) _ u)
  split
  · rfl
  · split <;> rfl
  · split <;> rfl
  · rfl

/-- The image identifier and the job of estate `e` are as they were. -/
structure SameJob (e : Nat) (s t : State) : Prop where
  job : jobOf t e = jobOf s e
  image : t.jobs.imageId = s.jobs.imageId

theorem SameJob.of_jobs {e : Nat} {s t : State} (h : t.jobs = s.jobs) : SameJob e s t := ⟨by simp only [jobOf, getEst, h], by rw [h]⟩

theorem SameJob.trans {e : Nat} {s t u : State} (h : SameJob e s t) (h' : SameJob e t u) : SameJob e s u :=
  ⟨h'.job.trans h.job, h'.image.trans h.image⟩

theorem sameJob_putKept (e x : Nat) (k : Kept) (s : State) : SameJob e s (putKept x k s) := by
  refine ⟨?_, rfl⟩
  rw [jobOf, putKept, getEst_modEst]
  split
  · next h => rw [h]; rfl
  · rfl

theorem spPut_jobs (l off tag : Nat) (bs : List Byte) (s : State) : (spPut l off tag bs s).jobs = s.jobs := by rw [spPut_eq]

theorem sameJob_writeKept (e x p h : Nat) (s : State) : SameJob e s (writeKept x p h s) := by
  unfold writeKept
  extract_lets home
  split
  · exact .of_jobs rfl
  · split
    · exact .of_jobs rfl
    · next k _ _ =>
      dsimp only
      refine SameJob.trans (.of_jobs ?_) (sameJob_putKept e home _ _)
      refine (keeps_foldl State.jobs (fun y z => segEvent_jobs ..) _ _).trans (keeps_foldl State.jobs (fun y z => ?_) _ s)
      refine (spPut_jobs ..).trans (keeps_foldl State.jobs (fun w i => ?_) _ y)
      unfold segUp
      split <;> rfl

theorem bindInternal_jobs (e : Nat) (j : Job) (img : List Byte) (s : State) : (bindInternal e j img s).jobs = s.jobs := by
  refine keeps_foldl State.jobs (fun u a => ?_) _ s
  show State.jobs (List.foldl _ (modQ _ _ _) _) = _
  exact keeps_foldl State.jobs (by exact fun _ _ => rfl) _ _

theorem bindExternal_jobs (j : Job) (img : List Byte) (s : State) : (bindExternal j img s).jobs = s.jobs := by
  refine keeps_foldl State.jobs (fun u a => ?_) _ s
  split
  · exact keeps_foldl State.jobs (by exact fun _ _ => rfl) _ _
  · rfl

/-- Starting threads, in whatever number, writes no memory and takes no image identifier, and leaves the job running with its record. -/
theorem startThreads_frame {s : State} {e : Nat} {j : Job} {x : Inst} (hjob : jobOf s e = some j) (hinsts : j.insts = [x]) (hsaved : j.saved = [])
    (hresumed : j.resumed = false) : (startThreads e s).mem = s.mem ∧ (startThreads e s).jobs.imageId = s.jobs.imageId ∧
      ∃ k, jobOf (startThreads e s) e = some k ∧ k.phase = .running ∧ k.record = j.record ∧ k.image = j.image := by
  have hstart := startThreads_of hjob hinsts hsaved hresumed
  obtain ⟨hframe, -, -⟩ := startAll (jobImg s j) x s (sThreads (jobImg s j) x.station)
  set w := (List.range (sThreads (jobImg s j) x.station)).foldl (startThread (jobImg s j) x) s
  have hjobw : jobOf w e = some j := by rw [hframe]; exact hjob
  rw [hstart]
  exact ⟨by rw [hframe]; rfl, by rw [hframe]; rfl, _, jobOf_modJob hjobw _, rfl, rfl, rfl⟩

/-- The run of a job whose count of instances is 1 and that is not resumed starts: its argument block lies in place, and Pour begins. -/
theorem startRun_of {s : State} {e : Nat} {j : Job} {x : Inst} (hjob : jobOf s e = some j) (hinsts : j.insts = [x]) (hsaved : j.saved = [])
    (hresumed : j.resumed = false) :
    memRead (startRun e s) (spBase x.leaf + x.region + argOff (jobImg s j) x.station) (argBlock j).length = argBlock j ∧
    (startRun e s).jobs.imageId = (s.jobs.imageId + 1) % 2 ^ 32 ∧
    ∃ k, jobOf (startRun e s) e = some k ∧ (k.phase = .pouring ∨ k.phase = .running) ∧ k.record = j.record ∧ k.image = s.jobs.imageId := by
  unfold startRun
  simp only [hjob, hinsts, List.foldl_cons, List.foldl_nil]
  have hprep : SameJob e s (bindExternal j (jobImg s j) (bindInternal e j (jobImg s j) (writeKept e j.party (recHandle j.record) (segSettle e s)))) :=
    SameJob.trans ((SameJob.of_jobs (segSettle_jobs e s)).trans (sameJob_writeKept e e _ _ _))
      (.of_jobs ((bindExternal_jobs ..).trans (bindInternal_jobs ..)))
  generalize bindExternal j (jobImg s j) (bindInternal e j (jobImg s j) (writeKept e j.party (recHandle j.record) (segSettle e s))) = u at hprep ⊢
  set v := spPut x.leaf (x.region + argOff (jobImg s j) x.station) 0 (argBlock j) u with hv
  have hjobv : SameJob e s v := hprep.trans (.of_jobs (spPut_jobs ..))
  have hmem : memRead v (spBase x.leaf + x.region + argOff (jobImg s j) x.station) (argBlock j).length = argBlock j := by
    rw [memRead, hv, spPut_cells, Nat.add_assoc, tread_twrite]
  have hmark : ∀ (ls : List Nat) (w : State), (ls.foldl (fun s l => modLeaf s l fun f => { f with attempt := 1, missed := [], missedN := 0 }) w).mem = w.mem ∧
      SameJob e w (ls.foldl (fun s l => modLeaf s l fun f => { f with attempt := 1, missed := [], missedN := 0 }) w) := fun ls w =>
    ⟨keeps_foldl State.mem (by exact fun _ _ => rfl) ls w, .of_jobs (keeps_foldl State.jobs (by exact fun _ _ => rfl) ls w)⟩
  generalize (leafIdx.filter fun l => ((jobLeaves j).filter fun l => !holdsImages v j (jobImg s j)
    (imageMark j.party (recHandle j.record) (getEst v e).leaves.length) l).contains l) = ls
  obtain ⟨hmemw, hjobw⟩ := hmark ls v
  have hsame := hjobv.trans hjobw
  generalize ls.foldl (fun s l => modLeaf s l fun f => { f with attempt := 1, missed := [], missedN := 0 }) v = w at hmemw hsame ⊢
  rw [memRead, ← hmemw] at hmem
  have hjobw : jobOf w e = some j := hsame.job.trans hjob
  have hpour := jobOf_modJob hjobw fun x => { x with
    phase := .pouring, startAt := if x.replayed then x.startAt else w.ktime, progress := w.ktime, loading := ls, image := w.jobs.imageId }
  split
  · obtain ⟨hmemt, himage, k, hk, hphase, hrecord, hid⟩ := startThreads_frame
      (s := { modJob w e _ with jobs := { (modJob w e _).jobs with imageId := (w.jobs.imageId + 1) % 2 ^ 32 } }) hpour hinsts hsaved hresumed
    refine ⟨?_, himage.trans (congrArg (fun n => (n + 1) % 2 ^ 32) hsame.image), k, hk, .inr hphase, hrecord, hid.trans hsame.image⟩
    rw [memRead, hmemt]
    exact hmem
  · refine ⟨?_, congrArg (fun n => (n + 1) % 2 ^ 32) hsame.image, _, hpour, .inl rfl, rfl, hsame.image⟩
    exact hmem

theorem switchAndPour : SwitchAndPour := by
  refine ⟨?switch, ?broadcast, ?last, ?more, ?reload, ?failed, ?dataError⟩
  case switch =>
    intro e s j x hjob hphase hst hpll hcopy hinsts hsaved hresumed
    refine ⟨startRun e.val s, ?_, startRun_of hjob hinsts hsaved hresumed⟩
    show execEstateSwitchDone e s = _
    simp [execEstateSwitchDone, show (getEst s e.val).job = some j from hjob, hphase, hst, hpll, hcopy]
  case broadcast =>
    intro e missed s l j x h hattempt hmissed hn hnone
    exact ⟨_, exec_pourBroadcastEnd h hattempt hmissed hn hnone, Pouring.loaded h⟩
  case last =>
    intro leaf s e j x n h hmissed
    obtain ⟨hjob, -, hloading, hinsts, hleaf, hregion, hsaved, hresumed, -⟩ := id h
    obtain ⟨hloaded, hcaddy, htime⟩ := loaded_leafLoaded
      (s := pullEvent leaf.val j.image (getLeaf s leaf.val).missedN j.party s) hjob hloading hinsts hleaf hregion hsaved hresumed
    exact ⟨_, exec_pourPullDone h hmissed .good, hloaded, logs_event (by simp) rfl rfl hcaddy htime⟩
  case more =>
    intro leaf s e j x n m r h hmissed
    exact ⟨_, exec_pourPullDone h hmissed .good, getLeaf_modLeaf_same .., fun k hk => getLeaf_modLeaf_ne _ _ hk, rfl⟩
  case reload =>
    intro leaf s e j x h hmissed hn
    exact ⟨_, exec_pourReloadDone h hmissed hn .good, Pouring.loaded h⟩
  case failed =>
    intro leaf s e j x h hmissed hn hattempt
    refine ⟨_, exec_pourReloadDone h hmissed hn .crcFail, ?_⟩
    dsimp only
    rw [pourFailed, if_neg (by omega)]
    refine ⟨congrArg Leaf.attempt (getLeaf_modLeaf_same ..), fun k hk => getLeaf_modLeaf_ne _ _ hk, rfl, logs_event (by simp) rfl rfl rfl rfl⟩
  case dataError =>
    intro leaf s e j x h hmissed
    obtain ⟨n, r, hmissed⟩ := List.exists_cons_of_ne_nil hmissed
    refine ⟨leafAbort leaf.val stDATA_ERROR s, exec_pourPullDone h hmissed .dataError, ?_⟩
    obtain ⟨-, -, -, -, -, -, -, -, hest, -⟩ := h
    rw [leafAbort, hest]
    exact jobOf_endJob ..

/-- Settles O26: a record by what its checks say of it, and a job's start by what lands before its threads run. -/
theorem recordsSwitchAndPour : Obligations.RecordsSwitchAndPour := ⟨takingRecords, switchAndPour⟩

end Sys2Proof.Machine

/-! Power states, twins and flushes (R57): the refutation. A wake source of Rest writes event 0x7007, and then the injection steps run. Where a
step fails, every pair is dissolved (R413), with an event each: with the ring frozen and more than 1,020 pairs in the state, those events come
round to the slot of the wake's. -/

namespace Sys2Proof.Machine
open Sys2Proof.Claims

/-! ### Records that notices cannot write -/

/-- Every record with code `c` in the ring at the end was there before. -/
structure KeepsCode (c : Nat) (s t : State) : Prop where
  ring : ∀ k, (tget t.caddy.ring k).code = c → tget t.caddy.ring k = tget s.caddy.ring k

section
variable {c : Nat}

theorem KeepsCode.of_caddy {s t : State} (h : t.caddy = s.caddy) : KeepsCode c s t := ⟨fun k _ => by rw [h]⟩

theorem KeepsCode.refl (s : State) : KeepsCode c s s := .of_caddy rfl

theorem KeepsCode.trans {s t u : State} (a : KeepsCode c s t) (b : KeepsCode c t u) : KeepsCode c s u where
  ring k hk := by
    have hb := b.ring k hk
    rw [hb] at hk ⊢
    exact a.ring k hk

/-- What follows a change of a party follows the state before it. -/
theorem KeepsCode.after_party {s t : State} {p : Nat} {f : PartySt → PartySt} (h : KeepsCode c (modParty s p f) t) : KeepsCode c s t := ⟨h.ring⟩

theorem keepsCode_event {code : Nat} (h : code ≠ c) (src party : Nat) (args : List Byte) (s : State) : KeepsCode c s (event src code party args s) where
  ring k hk := by
    simp only [event, Caddy.put, tget_tput] at hk ⊢
    split at hk
    · exact absurd hk h
    · next hne => rw [if_neg hne]

theorem keepsCode_foldl {β : Type} {f : State → β → State} (hf : ∀ s x, KeepsCode c s (f s x)) (l : List β) (s : State) :
    KeepsCode c s (l.foldl f s) := by
  induction l generalizing s with
  | nil => exact .refl s
  | cons x l ih => exact (hf s x).trans (ih _)

variable (h1 : 0x1006 ≠ c) (h2 : 0x2001 ≠ c)
include h1 h2

theorem keepsCode_putBytes (w : Writer) (a : Nat) (bs : List Byte) (s : State) : KeepsCode c s (putBytes w a bs s) := by
  unfold putBytes
  split
  · exact .of_caddy (wrote_fireWatches a _ (memWrite s a bs)).caddy
  · split
    · unfold refusal
      split
      · exact .of_caddy rfl
      · exact keepsCode_event h2 ..
    · split
      · exact keepsCode_event h1 ..
      · exact .of_caddy (wrote_spPut ..).caddy

theorem keepsCode_pushEntry (q : Nat) (bs : List Byte) (s : State) : KeepsCode c s (pushEntry q bs s) := by
  dsimp only [pushEntry]
  rw [notifyPush_eq]
  exact (keepsCode_putBytes h1 h2 ..).trans (.of_caddy rfl)

theorem keepsCode_drainNotices (p n : Nat) (s : State) : KeepsCode c s (drainNotices p n s) := by
  have hirq : ∀ u, KeepsCode c u (raiseMbox p u) := fun u => .of_caddy (by
    unfold raiseMbox raiseIrq
    repeat' split
    all_goals rfl)
  induction n generalizing s with
  | zero => exact .refl s
  | succ n ih =>
    unfold drainNotices
    split
    · exact .refl s
    · dsimp only
      split
      · exact (((keepsCode_pushEntry h1 h2 ..).trans (hirq _)).trans (ih _)).after_party
      · exact .refl s

theorem keepsCode_pushNotice (p : Nat) (bs : List Byte) (s : State) : KeepsCode c s (pushNotice p bs s) := by
  unfold pushNotice
  split
  · exact .refl s
  · dsimp only
    split
    · exact .of_caddy rfl
    · exact (keepsCode_drainNotices h1 h2 ..).after_party

/-- Alarms that fire late write no event but those of their notices. -/
theorem keepsCode_lateAlarms (s : State) : KeepsCode c s (lateAlarms s) := by
  refine keepsCode_foldl (fun u p => ?_) _ s
  split
  · exact (keepsCode_pushNotice h1 h2 ..).after_party
  · exact .refl u

end

/-! ### More records than the frozen ring holds -/

theorem Caddy.slotNth_putAll (rs : List CadRec) (c : Caddy) (i : Nat) : (c.putAll rs).slotNth i = c.slotNth (i + rs.length) := by
  induction rs generalizing c with
  | nil => rfl
  | cons r rs ih =>
    rw [Caddy.putAll, List.foldl_cons, ← Caddy.putAll, ih, Caddy.slotNth_put, List.length_cons, Nat.add_assoc]

/-- After 1,024 records a frozen ring comes round: the next takes the slot of the first. -/
theorem ring_putAll_round {c : Caddy} (hfrozen : c.frozen = true) {rs qs : List CadRec} {r : CadRec} (hlen : rs.length = 1024)
    (hfew : qs.length < 1024) : (tget (c.putAll (rs ++ r :: qs)).ring c.slot).code = r.code := by
  obtain ⟨q, hq, -⟩ := ring_putAll (r :: qs) (c.putAll rs) (i := 0) (by simp) (by simpa using hfew)
  have hslot : (c.putAll rs).slotNth 0 = c.slot := by
    rw [Caddy.slotNth_putAll, hlen, Caddy.slot_eq]
    simp only [Caddy.slotNth, hfrozen, if_true]
    omega
  rw [hslot] at hq
  rw [show c.putAll (rs ++ r :: qs) = (c.putAll rs).putAll (r :: qs) from List.foldl_append .., hq]
  rfl

/-! ### The counterexample -/

/-- Estates 0 and 1 as a pair. -/
def somePair : Pair := { primary := 0, partner := 1 }

/-- The part rests, with its ring frozen, `n` entries in its table of pairs, and an input of bring-up whose first injection step fails. -/
def pairedRest (n : Nat) : State :=
  { State.reset with
    caddy := { frozen := true }
    jobs := { pairs := List.replicate n somePair }
    pw := { State.reset.pw with st := .rest }
    boot := { State.reset.boot with input := some { bootInput State.reset with injectFail := [0] } } }

/-- Every pair that is dissolved writes one record. -/
theorem wrote_dissolveAll (n cause : Nat) (s : State) : Wrote (List.replicate n (recOf srcAfzan 0x300A (getEst s somePair.primary).party
      (leBytes 1 somePair.primary ++ leBytes 1 somePair.partner ++ leBytes 1 1 ++ leBytes 1 cause) s)) s
    ((List.replicate n somePair).foldl (fun s p => dissolve p cause s) s) := by
  induction n generalizing s with
  | zero => exact .refl s
  | succ n ih =>
    rw [List.replicate_succ, List.replicate_succ, List.foldl_cons]
    have hone : Wrote [recOf srcAfzan 0x300A (getEst s somePair.primary).party
        (leBytes 1 somePair.primary ++ leBytes 1 somePair.partner ++ leBytes 1 1 ++ leBytes 1 cause) s] s (dissolve somePair cause s) :=
      ⟨rfl, rfl⟩
    exact hone.trans (ih (dissolve somePair cause s))

theorem settleDiv_frame (s : State) : settleDiv s = { s with pw := (settleDiv s).pw } := by
  unfold settleDiv
  dsimp only
  split
  · rfl
  · split
    · rfl
    · split <;> rfl

/-- The events, the Kettle's time and the parties are as they were. -/
structure Unseen (s t : State) : Prop where
  caddy : t.caddy = s.caddy
  ktime : t.ktime = s.ktime
  party : t.party = s.party

theorem Unseen.trans {s t u : State} (a : Unseen s t) (b : Unseen t u) : Unseen s u :=
  ⟨b.caddy.trans a.caddy, b.ktime.trans a.ktime, b.party.trans a.party⟩

theorem unseen_clockUp (s : State) : Unseen s (clockUp s) := by
  unfold clockUp
  dsimp only
  rw [settleDiv_frame]
  exact ⟨rfl, rfl, rfl⟩

theorem unseen_releaseHarts (g : Nat → Bool) (cause : Nat) (s : State) : Unseen s (releaseHarts g cause s) := by
  unfold releaseHarts
  dsimp only
  refine ⟨(keeps_foldl State.caddy (fun u h => ?_) _ _).trans rfl, (keeps_foldl State.ktime (fun u h => ?_) _ _).trans rfl,
    (keeps_foldl State.party (fun u h => ?_) _ _).trans rfl⟩ <;> split <;> rfl

theorem unseen_freshCycles (s : State) : Unseen s (freshCycles s) :=
  ⟨keeps_foldl State.caddy (by exact fun _ _ => rfl) _ _, keeps_foldl State.ktime (by exact fun _ _ => rfl) _ _,
    keeps_foldl State.party (by exact fun _ _ => rfl) _ _⟩

/-- An injection step writes one record, and leaves the pairs and what bring-up met. -/
theorem injectStep_frame (s : State) (k : Nat) : (∃ r, Wrote [r] s (injectStep s k)) ∧ (injectStep s k).jobs = s.jobs ∧
    (injectStep s k).boot = s.boot ∧ (injectStep s k).party = s.party := by
  unfold injectStep
  extract_lets okK d u i v
  have hu : u.caddy = s.caddy ∧ u.ktime = s.ktime ∧ u.jobs = s.jobs ∧ u.boot = s.boot ∧ u.party = s.party := by
    unfold u
    split <;> exact ⟨rfl, rfl, rfl, rfl, rfl⟩
  obtain ⟨hcaddy, htime, hjobs, hboot, hparty⟩ := hu
  exact ⟨⟨_, (((Wrote.refl s).same hcaddy htime).event ..).same rfl rfl⟩, hjobs, hboot, hparty⟩

/-- The exit from Rest of `pairedRest`: what is written before, between and after the pairs' events. -/
theorem wrote_restExit (n : Nat) : ∃ (r : CadRec) (rs qs : List CadRec) (u : State), r.code = 0x300A ∧ rs.length = 3 ∧ qs.length = 2 ∧
    exec (.wake 9 0) (pairedRest n) = .next (lateAlarms u) ∧ (∀ p, (getParty u p).alarm.set = false) ∧
    Wrote (rs ++ (List.replicate n r ++ qs)) (pairedRest n) u := by
  set s1 := event srcKeep 0x7007 noParty (leBytes 1 9 ++ leBytes 2 0) (pairedRest n) with h1
  have hwrote1 : ∃ r, Wrote [r] (pairedRest n) s1 := ⟨_, (Wrote.refl (pairedRest n)).event ..⟩
  obtain ⟨r1, hwrote1⟩ := hwrote1
  obtain ⟨⟨r2, hwrote2⟩, hjobs2, hboot2, hparty2⟩ := injectStep_frame s1 1
  obtain ⟨⟨r3, hwrote3⟩, hjobs3, hboot3, hparty3⟩ := injectStep_frame (injectStep s1 1) 7
  set s2 := injectStep (injectStep s1 1) 7 with h2
  have hfails : [1, 7].all (stepPasses s2) = false := by
    have hfirst : stepPasses s2 1 = false := by rw [stepPasses, hboot3, hboot2]; rfl
    simp [hfirst]
  have hpairs : s2.jobs.pairs = List.replicate n somePair := by rw [hjobs3, hjobs2]; rfl
  have hwrote4 := wrote_dissolveAll n 3 s2
  set s3 := (List.replicate n somePair).foldl (fun s p => dissolve p 3 s) s2 with h3
  have hinject : inject [1, 7] s1 = assertFaultN 3 s3 := by
    show (if [1, 7].all (stepPasses s2) then s2 else assertFaultN 3 (s2.jobs.pairs.foldl (fun s p => dissolve p 3 s) s2)) = _
    rw [hfails, hpairs]
    rfl
  set s5 := releaseHarts (fun _ => true) 2 (freshCycles (assertFaultN 3 s3)) with h5
  set s6 := clockUp { s5 with jobs := { s5.jobs with idleSince := s5.ktime } } with h6
  set u := event srcAfzan 0x7006 noParty (leBytes 1 3 ++ leBytes 4 (Config.freeNat (draw s6).1)) (draw s6).2 with hu
  have hexec : exec (.wake 9 0) (pairedRest n) = .next (lateAlarms u) := by
    have hwake : exec (.wake 9 0) (pairedRest n) = .next (restExit 9 0 (pairedRest n)) := rfl
    rw [hwake, restExit]
    dsimp only
    rw [← h1, hinject, ← h5, ← h6]
    rfl
  have hidle : Unseen s5 { s5 with jobs := { s5.jobs with idleSince := s5.ktime } } := ⟨rfl, rfl, rfl⟩
  have hsame : Unseen (assertFaultN 3 s3) s6 :=
    (((unseen_freshCycles _).trans (unseen_releaseHarts ..)).trans hidle).trans (unseen_clockUp _)
  have hwrote5 : ∃ r, Wrote [r] s3 (assertFaultN 3 s3) := ⟨_, rfl, rfl⟩
  obtain ⟨r5, hwrote5⟩ := hwrote5
  have hwrote6 : ∃ r, Wrote [r] s6 u := ⟨_, rfl, rfl⟩
  obtain ⟨r6, hwrote6⟩ := hwrote6
  refine ⟨recOf srcAfzan 0x300A (getEst s2 somePair.primary).party
    (leBytes 1 somePair.primary ++ leBytes 1 somePair.partner ++ leBytes 1 1 ++ leBytes 1 3) s2, [r1, r2, r3], [r5, r6], u, rfl, rfl, rfl, hexec, ?_, ?_⟩
  · have hparty : u.party = [] := calc u.party = s6.party := rfl
      _ = s3.party := hsame.party
      _ = s2.party := keeps_foldl State.party (by exact fun _ _ => rfl) _ _
      _ = s1.party := hparty3.trans hparty2
    intro p
    rw [getParty, hparty]
    rfl
  · have hall := ((((hwrote1.trans hwrote2).trans hwrote3).trans hwrote4).trans ((hwrote5.same hsame.caddy hsame.ktime).trans hwrote6))
    simpa only [List.append_assoc, List.cons_append, List.nil_append] using hall

/-- Refutes O28: the clause of a wake from Rest also promises that the wake's event still stands in the ring after the injection steps. -/
theorem not_powerStatesAndFlush : ¬ Obligations.PowerStatesAndFlush := by
  unfold Obligations.PowerStatesAndFlush
  rintro ⟨-, -, -, -, hrest, -⟩
  obtain ⟨n, hn⟩ : ∃ n, n = 1022 := ⟨_, rfl⟩
  obtain ⟨r, rs, qs, v, hcode, hrs, hqs, hexec, halarms, hwrote⟩ := wrote_restExit n
  obtain ⟨u, hexec', -, hlogs⟩ := hrest 9 0 (pairedRest n) rfl (.inl rfl)
  have hv : lateAlarms u = v := (Host.Outcome.next.inj (hexec'.symm.trans hexec)).trans (lateAlarms_of_none fun j _ => halarms j)
  have hround : (tget v.caddy.ring (pairedRest n).caddy.slot).code = 0x300A := by
    rw [hwrote.caddy, ← hcode]
    rw [show List.replicate n r = List.replicate 1021 r ++ r :: [] by rw [hn]; exact List.replicate_succ', List.append_assoc, ← List.append_assoc rs]
    exact ring_putAll_round rfl (by rw [List.length_append, List.length_replicate, hrs]) (hqs.trans_lt (by decide))
  have hkept := (keepsCode_lateAlarms (by decide) (by decide) u).ring (pairedRest n).caddy.slot (hv ▸ hround)
  rw [hv] at hkept
  rw [hkept, hlogs.1] at hround
  exact absurd hround (by decide)

end Sys2Proof.Machine

/-! Self-test, and the faults of the Kettle and of the safety island (R356, R408 to R412, R415). -/

namespace Sys2Proof.Machine
open Sys2Proof.Claims

/-! ### FAULT_N and the freeze of the Caddy (R413, R518) -/

theorem logs_of_ring {code src : Nat} {args : List Byte} {s t u : State} (h : Logs code src args s t) (hr : u.caddy.ring = t.caddy.ring) :
    Logs code src args s u := by
  unfold Logs at *
  rw [hr]
  exact h

theorem logsNth_of_ring {i code src : Nat} {args : List Byte} {s t u : State} (h : LogsNth i code src args s t)
    (hr : u.caddy.ring = t.caddy.ring) : LogsNth i code src args s u := by
  unfold LogsNth at *
  rw [hr]
  exact h

theorem bitOf_add_pow {v i : Nat} (h : bitOf v i = false) : bitOf (v + 2 ^ i) i = true := by
  unfold bitOf at *
  rw [Nat.add_div_right _ (by positivity)]
  simp only [beq_eq_false_iff_ne, ne_eq, beq_iff_eq] at *
  omega

/-- FAULT_N is asserted: its cause is set, and one record tells it. -/
theorem assertFrom_effect (src bit : Nat) (s : State) : bitOf (assertFrom src bit s).safe.causes bit = true ∧
    assertFrom src bit s = { s with caddy := (assertFrom src bit s).caddy, safe := (assertFrom src bit s).safe } ∧
    Wrote [recOf src 0x3006 noParty (leBytes 1 (assertFrom src bit s).safe.causes ++ leBytes 1 bit) s] s (assertFrom src bit s) := by
  refine ⟨?_, rfl, rfl, rfl⟩
  show bitOf (if bitOf s.safe.causes bit then s.safe.causes else s.safe.causes + 2 ^ bit) bit = true
  split
  · assumption
  · next h => exact bitOf_add_pow (by simpa using h)

/-- A freeze marker writes one record, freezes the ring and begins a flush. -/
theorem freezeMarker_effect (bit est src : Nat) (s : State) : ∃ r u, Wrote [r] s u ∧ (freezeMarker bit est src s).caddy.ring = u.caddy.ring ∧
    (freezeMarker bit est src s).caddy.frozen = true ∧ (freezeMarker bit est src s).caddy.flushing = true ∧
    freezeMarker bit est src s = { s with caddy := (freezeMarker bit est src s).caddy, safe := (freezeMarker bit est src s).safe } := by
  refine ⟨_, event srcCaddy 0xA0F0 noParty (leBytes 1 bit ++ leBytes 1 est ++ leBytes 2 src) s, (Wrote.refl s).event .., ?_⟩
  unfold freezeMarker
  dsimp only
  split
  · next h => exact ⟨rfl, h, rfl, rfl⟩
  · exact ⟨rfl, rfl, rfl, rfl⟩

/-! ### Slices (R408 to R412) -/

theorem estOnly_modTest (s : State) (e : Nat) (f : SelfTest → SelfTest) : EstOnly e s (modTest s e f) :=
  ⟨rfl, fun _ h => getEst_modEst_ne s _ h⟩

theorem runs_selftestSliceStart {e : Fin 16} {s : State} (hadm : admitting s = true) (hb : boundary s e.val = true)
    (hsrc : (getEst s e.val).test.source ≠ 0) (hmay : sliceMay s e.val = true) :
    Runs (.selftestSliceStart e) s fun t =>
      getEst t e.val = { getEst s e.val with test := { (getEst s e.val).test with running := true } } ∧ EstOnly e.val s t := by
  refine ⟨modTest s e.val fun x => { x with running := true }, ?_, getEst_modEst_same .., estOnly_modTest ..⟩
  show execSelftestSliceStart e s = _
  simp [execSelftestSliceStart, hadm, hb, hsrc, hmay]

theorem runs_selftestSliceEnd_good {e : Fin 16} {s : State} (hrun : (getEst s e.val).test.running = true)
    (hkind : (getEst s e.val).desc.be = true ∨ (getEst s e.val).test.source < 2) :
    RunsThen (.selftestSliceEnd e []) s settle fun u => EstOnly e.val s u ∧
      getEst u e.val = { getEst s e.val with test :=
        if 4 ≤ (getEst s e.val).test.next then
          { (getEst s e.val).test with running := false, next := 0, cycleAt := s.ktime, overdue := false }
        else { (getEst s e.val).test with running := false, next := (getEst s e.val).test.next + 1 } } := by
  refine ⟨modTest s e.val fun x => x.nextSlice s.ktime, ?_, estOnly_modTest .., getEst_modEst_same ..⟩
  have hbe : (getEst (modTest s e.val fun x => x.nextSlice s.ktime) e.val).desc = (getEst s e.val).desc := by
    rw [modTest, getEst_modEst_same]
  show execSelftestSliceEnd e [] s = _
  simp only [execSelftestSliceEnd, List.any_nil, hrun, Bool.not_true, Bool.false_eq_true, if_false, List.filter_false, List.filter_nil,
    List.foldl_nil, ite_self, hbe, hkind, if_true]

theorem filter_leafIdx (leaf : Fin 168) : (leafIdx.filter fun l => [leaf].any fun x => decide (x.val = l)) = [leaf.val] := by
  have hsub : (leafIdx.filter fun l => [leaf].any fun x => decide (x.val = l)) = leafIdx.filter (· == leaf.val) :=
    List.filter_congr fun l _ => by simp [eq_comm, Bool.beq_eq_decide_eq]
  rw [hsub, leafIdx, List.filter_beq, List.count_eq_one_of_mem List.nodup_range (List.mem_range.2 leaf.isLt)]
  rfl

theorem kind_setKind (l : Nat) (k : LeafKind) (s : State) : (getLeaf (setKind l k s) l).kind = k := by
  rw [setKind]
  exact congrArg Leaf.kind (getLeaf_modLeaf_same s l fun x => { x with kind := k })

theorem caddy_setKind (l : Nat) (k : LeafKind) (s : State) : (setKind l k s).caddy = s.caddy := rfl

theorem ktime_setKind (l : Nat) (k : LeafKind) (s : State) : (setKind l k s).ktime = s.ktime := rfl

theorem caddy_leafWipe (l : Nat) (s : State) : (leafWipe l s).caddy = (segsOff l s).caddy := by
  unfold leafWipe leafStop
  generalize segsOff l s = u
  rfl

theorem ktime_leafWipe (l : Nat) (s : State) : (leafWipe l s).ktime = (segsOff l s).ktime := by
  unfold leafWipe leafStop
  generalize segsOff l s = u
  rfl

/-- A leaf in no estate that is no enabled leaf is fenced, with the events of its segments and of the fence. -/
theorem fenceLeaf_spare {l : Nat} (cause : Nat) {s : State} (hest : estOf s l = none) (hkind : (getLeaf s l).kind = .spare) :
    (getLeaf (fenceLeaf l cause s) l).kind = .fenced ∧ ∃ rs : List CadRec, rs.length ≤ 2 ∧ Wrote rs s (fenceLeaf l cause s) := by
  have hne : LeafKind.spare ≠ LeafKind.enabled := by decide
  have heq : fenceLeaf l cause s = fenceOnly l cause s := by
    unfold fenceLeaf
    rw [hest, hkind]
    exact if_neg hne
  rw [heq]
  refine ⟨?_, ?_⟩
  · rw [fenceOnly, getLeaf_event]
    exact kind_setKind ..
  · obtain ⟨rs, hlen, hw⟩ : ∃ rs : List CadRec, rs.length ≤ 1 ∧ Wrote rs s (segsOff l s) := by
      have hfold : Wrote [] s ((List.range 8).foldl (fun s k => segWipe l k (segSet l k .off s)) s) :=
        ⟨keeps_foldl State.caddy (by exact fun _ _ => rfl) _ _, keeps_foldl State.ktime (by exact fun _ _ => rfl) _ _⟩
      unfold segsOff segEvent
      dsimp only
      split
      · exact ⟨[], Nat.zero_le _, hfold⟩
      · exact ⟨_, Nat.le_refl _, hfold.event ..⟩
    have hwipe : Wrote rs s (setKind l .fenced (leafWipe l s)) :=
      hw.same ((caddy_setKind ..).trans (caddy_leafWipe l s)) ((ktime_setKind ..).trans (ktime_leafWipe l s))
    unfold fenceOnly
    exact ⟨_, (List.length_append).trans_le (Nat.add_le_add_right hlen 1), hwipe.event _ _ _ _⟩

theorem runs_selftestSliceEnd_own {e : Fin 16} {leaf : Fin 168} {s : State} (hadm : admitting s = true)
    (hrun : (getEst s e.val).test.running = false) (hest : estOf s leaf.val = none) (hkind : (getLeaf s leaf.val).kind = .spare) :
    RunsThen (.selftestSliceEnd e [leaf]) s settle fun u => (getLeaf u leaf.val).kind = .fenced ∧
      ∃ n, 1 ≤ n ∧ n ≤ 5 ∧ Logs 0x3004 srcAfzan (leBytes 1 0xFF ++ leBytes 2 leaf.val ++ leBytes 1 n) s u := by
  set n := 1 + Config.freeNat (draw s).1 % 5 with hn
  set v := event srcAfzan 0x3004 noParty (leBytes 1 0xFF ++ leBytes 2 leaf.val ++ leBytes 1 n) (draw s).2 with hv
  have hbad := filter_leafIdx leaf
  obtain ⟨hfenced, rs, hlen, hw⟩ := fenceLeaf_spare (l := leaf.val) (s := v) 4 hest hkind
  have hfirst : Wrote [recOf srcAfzan 0x3004 noParty (leBytes 1 0xFF ++ leBytes 2 leaf.val ++ leBytes 1 n) s] s v := ⟨rfl, rfl⟩
  refine ⟨fenceLeaf leaf.val 4 v, ?_, hfenced, n, by omega, by omega, ?_⟩
  · have hfree : ([leaf.val].filter fun l => (estOf s l).isNone && (decide ((getLeaf s l).kind = .enabled) || decide ((getLeaf s l).kind = .spare))) =
        [leaf.val] := by simp [hest, hkind]
    show execSelftestSliceEnd e [leaf] s = _
    unfold execSelftestSliceEnd
    dsimp only
    rw [hbad, hfree, if_pos hadm, hrun, List.foldl_cons, List.foldl_nil, Bool.not_false, if_pos rfl, ownFail, sliceFail, fence, if_pos rfl]
  · exact (hfirst.trans hw).logs (lt_of_le_of_lt hlen (by decide)) rfl (by simp)

theorem runs_selftestOverdue {e : Fin 16} {s : State} (hlive : (getEst s e.val).live = true) (hsrc : (getEst s e.val).test.source ≠ 0)
    (hover : (getEst s e.val).test.overdue = false)
    (hdti : (getEst s e.val).test.dti * 100 ≤ ktSince s (getEst s e.val).test.cycleAt) (hsup : s.pw.supplied = true) :
    Runs (.selftestOverdue e) s fun t => EstOnly e.val s t ∧
      getEst t e.val = { getEst s e.val with test := { (getEst s e.val).test with overdue := true } } ∧
      Logs 0x3005 srcTaster (leBytes 1 e.val ++ leBytes 1 ((getEst s e.val).test.next + 1) ++
        leBytes 4 (ktSince s (getEst s e.val).test.cycleAt / 100)) s t := by
  set u := modTest s e.val fun y => { y with overdue := true } with hu
  refine ⟨event srcTaster 0x3005 (getEst s e.val).party (leBytes 1 e.val ++ leBytes 1 ((getEst s e.val).test.next + 1) ++
        leBytes 4 (ktSince s (getEst s e.val).test.cycleAt / 100)) u, ?_, ⟨rfl, fun x hx => getEst_modEst_ne s _ hx⟩, ?_, ?_⟩
  · show execSelftestOverdue e s = _
    simp [execSelftestOverdue, hlive, hsrc, hover, hsup, Nat.not_lt.2 hdti, hu]
  · exact getEst_modEst_same ..
  · exact logs_event (s := s) (u := u) (by simp) rfl rfl rfl rfl

/-! ### Faults of the Kettle and the island (R356, R415) -/

theorem halted_of_modEst {x e : Nat} {s : State} {f : Estate → Estate} (hf : ∀ y, y.halted = true → (f y).halted = true)
    (h : (getEst s x).halted = true) : (getEst (modEst s e f) x).halted = true := by
  rw [getEst_modEst]
  split
  · next hx => exact hf _ (hx ▸ h)
  · exact h

/-- An estate that halts writes no event and changes nothing of the part's safety; halted estates stay halted. -/
structure Halting (s t : State) : Prop where
  wrote : Wrote [] s t
  safe : t.safe = s.safe
  est : ∀ x, (getEst s x).halted = true → (getEst t x).halted = true

theorem halting_haltEst (e : Nat) (s : State) : Halting s (haltEst e s) := by
  unfold haltEst
  dsimp only
  split
  · exact ⟨⟨rfl, rfl⟩, rfl, fun x => halted_of_modEst fun _ _ => rfl⟩
  · next j _ =>
    have hest : ∀ x, getEst ((jobLeaves j).foldl (fun s l => leafStop l s) s) x = getEst s x := fun x =>
      keeps_foldl (getEst · x) (by exact fun _ _ => rfl) (jobLeaves j) s
    refine ⟨⟨keeps_foldl State.caddy (by exact fun _ _ => rfl) (jobLeaves j) s, keeps_foldl State.ktime (by exact fun _ _ => rfl) (jobLeaves j) s⟩,
      keeps_foldl State.safe (by exact fun _ _ => rfl) (jobLeaves j) s, fun x h => ?_⟩
    exact halted_of_modEst (fun _ _ => rfl) (halted_of_modEst (fun _ h => h) (by rw [hest]; exact h))

theorem halted_haltEst (e : Nat) (s : State) : (getEst (haltEst e s) e).halted = true := by
  unfold haltEst
  rw [getEst_modEst_same]

theorem halting_haltAll (es : List Nat) (s : State) : Halting s (es.foldl (fun s e => haltEst e s) s) ∧
    ∀ e ∈ es, (getEst (es.foldl (fun s e => haltEst e s) s) e).halted = true := by
  induction es generalizing s with
  | nil => exact ⟨⟨.refl s, rfl, fun _ h => h⟩, fun _ h => absurd h List.not_mem_nil⟩
  | cons e es ih =>
    obtain ⟨hrest, hall⟩ := ih (haltEst e s)
    have hone := halting_haltEst e s
    refine ⟨⟨hone.wrote.trans hrest.wrote, hrest.safe.trans hone.safe, fun x h => hrest.est x (hone.est x h)⟩, fun x hx => ?_⟩
    rcases List.mem_cons.1 hx with rfl | hx
    · exact hrest.est _ (halted_haltEst ..)
    · exact hall x hx

/-- A fault of the Kettle halts every estate, asserts FAULT_N and freezes the Caddy. -/
theorem kettleFault_effect (cause : Nat) {s : State} (hk : s.safe.kettleFault = false) (hsup : s.pw.supplied = true)
    (hheld : s.boot.held = false) (hrest : s.pw.st ≠ .rest) (hact : s.firm.act ≠ .open_) :
    (kettleFault cause s).safe.kettleFault = true ∧ bitOf (kettleFault cause s).safe.causes 1 = true ∧
      (kettleFault cause s).caddy.frozen = true ∧ (kettleFault cause s).caddy.flushing = true ∧
      (∀ e < 16, (getEst s e).live = true → (getEst (kettleFault cause s) e).halted = true) ∧
      Logs 0x3006 0x2000 (leBytes 1 (kettleFault cause s).safe.causes ++ leBytes 1 1) s (kettleFault cause s) ∧
      LogsNth 1 0xA020 srcKeep (leBytes 1 cause) s (kettleFault cause s) := by
  set v := { s with safe := { s.safe with kettleFault := true } } with hv
  set h := (estates v).foldl (fun s e => haltEst e s) v with hh
  obtain ⟨hhalt, hall⟩ := halting_haltAll (estates v) v
  rw [← hh] at hhalt hall
  obtain ⟨hbit, hframe, hfault⟩ := assertFrom_effect 0x2000 1 h
  set a := assertFrom 0x2000 1 h with ha
  set b := event srcKeep 0xA020 noParty (leBytes 1 cause) a with hb
  obtain ⟨r, u, hlast, hring, hfrozen, hflush, hmark⟩ := freezeMarker_effect 1 (recoveryEst a) srcKeep b
  have heq : kettleFault cause s = freezeMarker 1 (recoveryEst a) srcKeep b := by
    unfold kettleFault
    rw [if_neg (by simp [hk, hsup, hheld, hrest]), if_neg hact]
    rfl
  have hsafe : (freezeMarker 1 (recoveryEst a) srcKeep b).safe = a.safe := by
    unfold freezeMarker
    dsimp only
    split <;> rfl
  have hest : ∀ e, getEst (freezeMarker 1 (recoveryEst a) srcKeep b) e = getEst h e := fun e => by
    rw [hmark, hb, hframe]
    rfl
  have hv0 : Wrote [] s h := ⟨hhalt.wrote.caddy, hhalt.wrote.ktime⟩
  have htime : h.ktime = s.ktime := hv0.ktime
  have hw := ((hv0.trans hfault).event srcKeep 0xA020 noParty (leBytes 1 cause)).trans hlast
  rw [heq, hsafe]
  refine ⟨?_, hbit, hfrozen, hflush, fun e he hlive => ?_, ?_, ?_⟩
  · have : a.safe.kettleFault = h.safe.kettleFault := rfl
    rw [this, hhalt.safe]
  · rw [hest]
    exact hall e (List.mem_filter.2 ⟨List.mem_range.2 he, hlive⟩)
  · exact logs_of_ring (hw.logs (by simp) (by rw [recOf, htime]; rfl) (by simp)) hring
  · exact logsNth_of_ring (hw.logsNth (i := 1) (by simp) (by simp) rfl (by simp)) hring

theorem runs_kettleFault {x : Instr × Nat} (hx : x ∈ [(Instr.kettleLockstepMismatch, 0), (.kettleWatchdogExpiry, 1)]) {s : State} :
    exec x.1 s = .next (kettleFault x.2 s) := by
  rcases List.mem_cons.1 hx with rfl | hx
  · rfl
  · rw [List.mem_singleton.1 hx]
    rfl

theorem runs_safetyIslandMismatch {n : Fin 2} {s : State} (hn : bitOf s.safe.pairFault n.val = false) (hsup : s.pw.supplied = true)
    (hrest : s.pw.st ≠ .rest) :
    Runs (.safetyIslandMismatch n) s fun t => t.safe.pairFault = s.safe.pairFault + 2 ^ n.val ∧ bitOf t.safe.causes 4 = true ∧
      t = { s with safe := t.safe, caddy := t.caddy } ∧ Logs 0x3006 (0x2000 + (1 - n.val)) (leBytes 1 t.safe.causes ++ leBytes 1 4) s t := by
  obtain ⟨hbit, hframe, hwrote⟩ := assertFrom_effect (0x2000 + (1 - n.val)) 4 (modSafe s fun f => { f with pairFault := f.pairFault + 2 ^ n.val })
  have hexec : exec (.safetyIslandMismatch n) s =
      .next (assertFrom (0x2000 + (1 - n.val)) 4 (modSafe s fun f => { f with pairFault := f.pairFault + 2 ^ n.val })) := by
    show execSafetyIslandMismatch n s = _
    rw [execSafetyIslandMismatch, if_neg (by simp [hn, hsup, hrest])]
  refine ⟨_, hexec, rfl, hbit, ?_, ?_⟩
  · exact hframe
  · exact Wrote.logs (s := s) ⟨hwrote.caddy, hwrote.ktime⟩ (by simp) rfl (by simp)

theorem runs_safetyIslandHeartbeatMiss {n : Fin 2} (b : Bool) {s : State} (hn : bitOf s.safe.pairFault n.val = false)
    (hsup : s.pw.supplied = true) (hrest : s.pw.st ≠ .rest) :
    Runs (.safetyIslandHeartbeatMiss n b) s fun t => t = { s with safe := t.safe, caddy := t.caddy, fresh := s.fresh + 1 } ∧
      ((t.safe = s.safe ∧ t.caddy = s.caddy) ∨
       (bitOf t.safe.causes 4 = true ∧ Logs 0x3006 (0x2000 + n.val) (leBytes 1 t.safe.causes ++ leBytes 1 4) s t)) := by
  have hexec : exec (.safetyIslandHeartbeatMiss n b) s =
      .next (if Config.freeBool (draw s).1 then assertFrom (0x2000 + n.val) 4 (draw s).2 else (draw s).2) := by
    show execSafetyIslandHeartbeatMiss n b s = _
    rw [execSafetyIslandHeartbeatMiss, if_neg (by simp [hn, hsup, hrest])]
  refine ⟨_, hexec, ?_⟩
  split
  · obtain ⟨hbit, hframe, hwrote⟩ := assertFrom_effect (0x2000 + n.val) 4 (draw s).2
    exact ⟨hframe, .inr ⟨hbit, Wrote.logs (s := s) ⟨hwrote.caddy, hwrote.ktime⟩ (by simp) rfl (by simp)⟩⟩
  · exact ⟨rfl, .inl ⟨rfl, rfl⟩⟩

/-- Settles O30. -/
theorem selfTestAndSafetyFaults : Obligations.SelfTestAndSafetyFaults :=
  ⟨⟨fun _ _ => runs_selftestSliceStart, fun _ _ => runs_selftestSliceEnd_good, fun _ _ _ => runs_selftestSliceEnd_own,
      fun _ _ => runs_selftestOverdue⟩,
    fun _ hx _ hk hsup hheld hrest hact => ⟨_, runs_kettleFault hx, kettleFault_effect _ hk hsup hheld hrest hact⟩,
    fun _ _ => runs_safetyIslandMismatch, fun _ b _ => runs_safetyIslandHeartbeatMiss b⟩

end Sys2Proof.Machine

/-! Display links: training, loss and retraining, and pipes whose link is idle (R264 to R266, R282). -/

namespace Sys2Proof.Machine
open Sys2Proof.Claims

/-! ### Changes of one pipe -/

theorem event_frame (src code party : Nat) (args : List Byte) (s : State) :
    event src code party args s = { s with caddy := (event src code party args s).caddy, safe := (event src code party args s).safe } := by
  unfold event
  dsimp only

/-- Only the record of pipe `p` changed, and an event may have been written. -/
structure PipeOnly (p : Nat) (s t : State) : Prop where
  media : MediaOnly s t
  other : ∀ j, j ≠ p → getPipe t j = getPipe s j

theorem PipeOnly.refl (p : Nat) (s : State) : PipeOnly p s s := ⟨rfl, fun _ _ => rfl⟩

theorem PipeOnly.modPipe {p : Nat} {s t : State} (h : PipeOnly p s t) (f : Pipe → Pipe) : PipeOnly p s (modPipe t p f) := by
  exact ⟨(congrArg (Machine.modPipe · p f) h.media).trans rfl, fun j hj => (getPipe_modPipe_ne t f hj).trans (h.other j hj)⟩

theorem PipeOnly.event {p : Nat} {s t : State} (h : PipeOnly p s t) (src code party : Nat) (args : List Byte) :
    PipeOnly p s (event src code party args t) := by
  refine ⟨(event_frame src code party args t).trans ?_, h.other⟩
  exact (congrArg (fun u : State => { u with
    caddy := (Machine.event src code party args t).caddy, safe := (Machine.event src code party args t).safe }) h.media).trans rfl

theorem pipeOnly_underEvent (p : Nat) (s : State) : PipeOnly p s (underEvent p s) ∧
    getPipe (underEvent p s) p = { getPipe s p with lineUnder := 0 } := by
  unfold underEvent
  dsimp only
  split
  · next h =>
    refine ⟨.refl p s, ?_⟩
    conv_rhs => rw [← h]
  · exact ⟨((PipeOnly.refl p s).modPipe _).event .., getPipe_modPipe_same ..⟩

/-! ### Training (R265) -/

theorem runs_linkTrainingResult_fits {pipe : Fin 6} {lanes rate : Nat} {s : State} {d : Pend} (htr : (getPipe s pipe.val).training = some d)
    (hlanes : lanesOk pipe.val false lanes = true) (hmax : lanes ≤ field (getPipe s pipe.val).timing 19 1)
    (hrate : rateOk pipe.val false rate = true)
    (hcap : field (getPipe s pipe.val).timing 20 2 = 0 ∨ rate ≤ field (getPipe s pipe.val).timing 20 2)
    (hfit : streamFits pipe.val (getPipe s pipe.val).timing lanes rate = true) :
    RunsThen (.linkTrainingResult pipe true lanes rate) s (finish d ok) fun u => MediaOnly s u ∧
      (getPipe u pipe.val).scan = true ∧ (getPipe u pipe.val).link = true ∧ (getPipe u pipe.val).lanes = lanes ∧
      (getPipe u pipe.val).rate = rate ∧ (getPipe u pipe.val).frame = 0 ∧ (getPipe u pipe.val).latchAt = s.ktime ∧
      (getPipe u pipe.val).training = none ∧ ∀ j, j ≠ pipe.val → getPipe u j = getPipe s j := by
  set v := modPipe s pipe.val fun y => { y with training := none } with hv
  refine ⟨pipeStart pipe.val lanes rate v, ?_, ?_⟩
  · have hcap' : (decide (field (getPipe s pipe.val).timing 20 2 = 0) || decide (rate ≤ field (getPipe s pipe.val).timing 20 2)) = true := by
      simpa using hcap
    show execLinkTrainingResult pipe true lanes rate s = _
    simp only [execLinkTrainingResult, htr, hlanes, hmax, hrate, hcap', hfit, decide_true, Bool.and_self, Bool.not_true, Bool.false_eq_true,
      if_false, if_true, hv]
  · have honly : PipeOnly pipe.val s (pipeStart pipe.val lanes rate v) := ((PipeOnly.refl _ s).modPipe _).modPipe _
    refine ⟨honly.media, ?_, ?_, ?_, ?_, ?_, ?_, ?_, honly.other⟩ <;> rw [pipeStart, getPipe_modPipe_same]
    rfl

theorem runs_linkTrainingResult_unplugged {pipe : Fin 6} (lanes rate : Nat) {s : State} {d : Pend}
    (htr : (getPipe s pipe.val).training = some d) :
    RunsThen (.linkTrainingResult pipe false lanes rate) s (finish d (sts stNOT_READY)) fun u => MediaOnly s u ∧
      getPipe u pipe.val = { getPipe s pipe.val with training := none } := by
  refine ⟨modPipe s pipe.val fun y => { y with training := none }, ?_, rfl, getPipe_modPipe_same ..⟩
  show execLinkTrainingResult pipe false lanes rate s = _
  simp only [execLinkTrainingResult, htr, Bool.not_false, if_true]

theorem runs_linkTrainingResult_noFit {pipe : Fin 6} {lanes : Nat} (rate : Nat) {s : State} {d : Pend}
    (htr : (getPipe s pipe.val).training = some d) (hlanes : lanesOk pipe.val false lanes = false) :
    RunsThen (.linkTrainingResult pipe true lanes rate) s (finish d (sts stNO_RESOURCE)) fun u => MediaOnly s u ∧
      getPipe u pipe.val = { getPipe s pipe.val with training := none } ∧ (tget u.caddy.ring s.caddy.slot).code = 0x8005 := by
  set u := modPipe s pipe.val fun y => { y with training := none } with hu
  have honly : PipeOnly pipe.val s u := (PipeOnly.refl _ s).modPipe _
  obtain ⟨n, hexec⟩ : ∃ n, exec (.linkTrainingResult pipe true lanes rate) s = .next (finish d (sts stNO_RESOURCE)
      (event (0x6000 + pipe.val) 0x8005 (ownerOf (getPipe s pipe.val).owner) (leBytes 1 pipe.val ++ leBytes 2 rate ++ leBytes 1 lanes ++ leBytes 4 n) u)) := by
    apply Exists.intro
    show execLinkTrainingResult pipe true lanes rate s = _
    simp only [execLinkTrainingResult, htr, hlanes, Bool.false_and, Bool.not_true, Bool.false_eq_true, if_false]
    rfl
  exact ⟨_, hexec, (honly.event ..).media, getPipe_modPipe_same .., (logs_event (s := s) (u := u) (by simp) rfl rfl rfl rfl).1⟩

/-! ### Loss and retraining (R266) -/

theorem runs_displayLinkLoss {pipe : Fin 6} (b : Bool) {s : State} (hscan : (getPipe s pipe.val).scan = true)
    (hlink : (getPipe s pipe.val).link = true) :
    Runs (.displayLinkLoss pipe b) s fun t => MediaOnly s t ∧
      getPipe t pipe.val = { getPipe s pipe.val with
        link := false, relink := false, losses := (getPipe s pipe.val).losses.add 1, lossCause := b2n b, triedAt := s.ktime, out := [] } ∧
      (∀ j, j ≠ pipe.val → getPipe t j = getPipe s j) ∧
      Logs 0x8006 (0x6000 + pipe.val) (leBytes 1 pipe.val ++ leBytes 1 0 ++ leBytes 1 (b2n b)) s t := by
  set u := modPipe s pipe.val fun y => { y with
    link := false, relink := false, losses := y.losses.add 1, lossCause := b2n b, triedAt := s.ktime, out := [] } with hu
  have honly : PipeOnly pipe.val s u := (PipeOnly.refl _ s).modPipe _
  refine ⟨linkEvent pipe.val 0 (b2n b) u, ?_, (honly.event ..).media, ?_, honly.other, ?_⟩
  · show execDisplayLinkLoss pipe b s = _
    simp only [execDisplayLinkLoss, hscan, hlink, Bool.true_or, Bool.not_true, Bool.or_self, Bool.false_eq_true, if_false, hu]
  · exact getPipe_modPipe_same ..
  · exact logs_event (s := s) (u := u) (by simp) rfl rfl rfl rfl

theorem runs_displayRetrain {pipe : Fin 6} (ok : Bool) {s : State} (hscan : (getPipe s pipe.val).scan = true)
    (hlink : (getPipe s pipe.val).link = false) (hrelink : (getPipe s pipe.val).relink = false)
    (htime : 10000000 ≤ ktSince s (getPipe s pipe.val).triedAt) :
    Runs (.displayRetrain pipe ok) s fun t => MediaOnly s t ∧
      getPipe t pipe.val = { getPipe s pipe.val with triedAt := s.ktime, relink := ok } ∧
      (∀ j, j ≠ pipe.val → getPipe t j = getPipe s j) ∧
      (ok = false → t.caddy = s.caddy) ∧
      (ok = true → Logs 0x8006 (0x6000 + pipe.val) (leBytes 1 pipe.val ++ leBytes 1 1 ++ leBytes 1 (getPipe s pipe.val).lossCause) s t) := by
  set u := modPipe s pipe.val fun y => { y with triedAt := s.ktime, relink := ok } with hu
  have honly : PipeOnly pipe.val s u := (PipeOnly.refl _ s).modPipe _
  have hexec : exec (.displayRetrain pipe ok) s = .next (if ok then linkEvent pipe.val 1 (getPipe s pipe.val).lossCause u else u) := by
    show execDisplayRetrain pipe ok s = _
    simp only [execDisplayRetrain, hscan, hlink, hrelink, retrainTicks, Nat.not_lt.2 htime, Bool.not_true, decide_false, Bool.or_self,
      Bool.false_eq_true, if_false, hu]
  refine ⟨_, hexec, ?_⟩
  cases ok with
  | false => exact ⟨honly.media, getPipe_modPipe_same .., honly.other, fun _ => rfl, fun h => absurd h (by decide)⟩
  | true =>
    exact ⟨(honly.event ..).media, getPipe_modPipe_same .., honly.other, fun h => absurd h (by decide),
      fun _ => logs_event (s := s) (u := u) (by simp) rfl rfl rfl rfl⟩

/-! ### Stopping (R282) -/

theorem dropTraining_of_none {p : Nat} {s : State} (h : (getPipe s p).training = none) : dropTraining p s = s := by
  unfold dropTraining
  rw [h]

theorem pipeOnly_pipeIdle {p : Nat} (flags : Nat) {s : State} (htr : (getPipe s p).training = none) : PipeOnly p s (pipeIdle p flags s) := by
  obtain ⟨honly, hpipe⟩ := pipeOnly_underEvent p s
  have hdrop := dropTraining_of_none (p := p) (s := underEvent p s) (by rw [hpipe]; exact htr)
  unfold pipeIdle
  dsimp only
  rw [hdrop]
  split <;> exact honly.modPipe _

theorem getPipe_pipeIdle (p flags : Nat) (s : State) : (getPipe (pipeIdle p flags s) p).stop = none ∧ (getPipe (pipeIdle p flags s) p).link = false ∧
    (getPipe (pipeIdle p flags s) p).scan = false ∧ (bitOf flags 1 = true → (getPipe (pipeIdle p flags s) p).owner = 0) ∧
    (bitOf flags 1 = false → (getPipe (pipeIdle p flags s) p).owner = (getPipe s p).owner) := by
  unfold pipeIdle
  dsimp only
  split
  · next h =>
    rw [getPipe_modPipe_same]
    exact ⟨rfl, rfl, rfl, fun _ => rfl, fun hf => absurd h (by rw [hf]; decide)⟩
  · next h =>
    rw [getPipe_modPipe_same, (pipeOnly_underEvent p s).2]
    exact ⟨rfl, rfl, rfl, fun hf => absurd hf h, fun _ => rfl⟩

theorem runs_pipeLinkIdle {pipe : Fin 6} {s : State} {flags : Nat} {d : Pend} (hstop : (getPipe s pipe.val).stop = some (flags, d))
    (hscan : (getPipe s pipe.val).scan = false) (htr : (getPipe s pipe.val).training = none) :
    RunsThen (.pipeLinkIdle pipe) s (finish d ok) fun u => MediaOnly s u ∧ (getPipe u pipe.val).stop = none ∧ (getPipe u pipe.val).link = false ∧
      (getPipe u pipe.val).scan = false ∧ (bitOf flags 1 = true → (getPipe u pipe.val).owner = 0) ∧
      (bitOf flags 1 = false → (getPipe u pipe.val).owner = (getPipe s pipe.val).owner) ∧ ∀ j, j ≠ pipe.val → getPipe u j = getPipe s j := by
  have honly := pipeOnly_pipeIdle (p := pipe.val) flags htr
  obtain ⟨h1, h2, h3, h4, h5⟩ := getPipe_pipeIdle pipe.val flags s
  refine ⟨pipeIdle pipe.val flags s, ?_, honly.media, h1, h2, h3, h4, h5, honly.other⟩
  show execPipeLinkIdle pipe s = _
  simp only [execPipeLinkIdle, hstop, hscan, Bool.false_eq_true, if_false]

/-- Settles O31. -/
theorem displayLinks : Obligations.DisplayLinks :=
  ⟨fun _ _ _ _ _ => runs_linkTrainingResult_fits, fun _ lanes rate _ _ => runs_linkTrainingResult_unplugged lanes rate,
    fun _ _ rate _ _ => runs_linkTrainingResult_noFit rate, fun _ b _ => runs_displayLinkLoss b, fun _ ok _ => runs_displayRetrain ok,
    fun _ _ _ _ => runs_pipeLinkIdle⟩

end Sys2Proof.Machine

/-! What an access on the bus leaves as it was (Table 1.6): display, codec, capture, gateway, field and I/O, the configuration of the part, and
time. An error of the fabric itself can end jobs (R395); an access that ends OK met none. -/

namespace Sys2Proof.Machine
open Sys2Proof.Claims

/-- `t` is `s` but for what an access on the bus, with what it sets off, may change. -/
def reachedOver (s t : State) : State := { s with
  mem := t.mem, lv := t.lv, queue := t.queue, party := t.party, caddy := t.caddy, world := t.world, safe := t.safe, jobs := t.jobs
  pw := t.pw, cross := t.cross, fresh := t.fresh, resp := t.resp
  firm := { s.firm with heldOut := t.firm.heldOut }, boot := { s.boot with resetting := t.boot.resetting } }

/-- `t` comes of `s` by accesses on the bus and by what they set off. -/
structure Reached (s t : State) : Prop where
  eq : t = reachedOver s t

theorem Reached.refl (s : State) : Reached s s := ⟨rfl⟩

theorem Reached.trans {s t u : State} (a : Reached s t) (b : Reached t u) : Reached s u where
  eq := calc u = reachedOver t u := b.eq
    _ = reachedOver (reachedOver s t) u := congrArg (reachedOver · u) a.eq
    _ = reachedOver s u := rfl

theorem Posted.reached {s t : State} (h : Posted s t) : Reached s t where
  eq := calc t = postedOver s t := h.eq
    _ = reachedOver s (postedOver s t) := rfl
    _ = reachedOver s t := congrArg (reachedOver s) h.eq.symm

theorem MemOnly.reached {s t : State} (h : MemOnly s t) : Reached s t where
  eq := h.eq.trans ((congrArg (reachedOver s) h.eq).symm ▸ rfl)

section
variable {s t : State} (h : Reached s t)
include h
theorem Reached.ktime : t.ktime = s.ktime := by rw [h.eq]; rfl
theorem Reached.part : t.part = s.part := by rw [h.eq]; rfl
theorem Reached.media : t.media = s.media := by rw [h.eq]; rfl
theorem Reached.cap : t.cap = s.cap := by rw [h.eq]; rfl
theorem Reached.gw : t.gw = s.gw := by rw [h.eq]; rfl
theorem Reached.field : t.field = s.field := by rw [h.eq]; rfl
theorem Reached.io : t.io = s.io := by rw [h.eq]; rfl
end

/-! ### Memory and scratchpads -/

theorem Reached.foldl {β : Type} {f : State → β → State} (hf : ∀ s x, Reached s (f s x)) (l : List β) (s : State) : Reached s (l.foldl f s) := by
  induction l generalizing s with
  | nil => exact .refl s
  | cons x l ih => exact (hf s x).trans (ih _)

theorem Reached.pair {α β : Type} {s : State} {p : State × α} (h : Reached s p.1) (c : β) : Reached s (p.1, c).1 := h

/-- A fold that carries something beside the state. -/
theorem Reached.foldl_fst {α β : Type} {f : State × α → β → State × α} (hf : ∀ a x, Reached a.1 (f a x).1) (l : List β) (s : State) (c : α) :
    Reached s (l.foldl f (s, c)).1 := by
  induction l generalizing s c with
  | nil => exact .refl _
  | cons x l ih => exact (hf (s, c) x).trans (ih ..)

theorem reached_dramAccess (i : Initiator) (w : Who) (write : Bool) (a n : Nat) (data : List Byte) (s : State) :
    Reached s (dramAccess i w write a n data s).1 := by
  unfold dramAccess
  dsimp only
  split
  · have hlines : Reached s ((linesOf a n).foldl (fun (x : State × Bool) l =>
        ((writeLine i w l.1 l.2 x.1).1, x.2 && (writeLine i w l.1 l.2 x.1).2)) (s, true)).1 := by
      refine Reached.foldl_fst (fun b x => ?_) _ s true
      exact (memOnly_writeLine i w x.1 x.2 b.1).reached
    split
    · exact hlines.trans ((posted_memWrite ..).trans (posted_fireWatches ..)).reached
    · exact hlines
  · have hlines : Reached s ((linesOf a n).foldl (fun (x : State × Bool) l =>
        ((readLine i w l.1 x.1).1, x.2 && (readLine i w l.1 x.1).2)) (s, true)).1 := by
      refine Reached.foldl_fst (fun b x => ?_) _ s true
      exact (memOnly_readLine i w x.1 b.1).reached
    split <;> exact hlines

theorem reached_spOne (w : Who) (write : Bool) (l off n : Nat) (data : List Byte) (s : State) : Reached s (spOne w write l off n data s).1 := by
  unfold spOne
  dsimp only
  split
  · exact (posted_event ..).reached
  · split
    · exact .refl s
    · split
      · exact (posted_spPut ..).reached
      · split <;> exact .refl s

theorem reached_spAccess (w : Who) (write : Bool) (a n : Nat) (data : List Byte) (s : State) : Reached s (spAccess w write a n data s).1 := by
  rw [spAccess]
  generalize (fun p : Nat × Nat => ((p.1 - 0x1000000000) / 0x200000, (p.1 - 0x1000000000) % 0x200000)) = place
  split
  · exact .refl s
  · refine Reached.foldl_fst (fun b x => ?_) _ s _
    exact Reached.pair (reached_spOne ..) _

theorem reached_zeroDone (a n : Nat) (s : State) : Reached s (zeroDone a n s) := by
  unfold zeroDone
  split
  · exact .refl s
  · refine Reached.foldl (fun s i => ?_) _ s
    dsimp only
    split
    · exact ⟨rfl⟩
    · exact .refl s

/-! ### Registers -/

theorem reached_lateAlarms (s : State) : Reached s (lateAlarms s) := by
  refine Reached.foldl (fun s p => ?_) _ s
  split
  · exact ((posted_modParty ..).trans (posted_pushNotice ..)).reached
  · exact .refl s

theorem reached_leaveTo (st : PState) (s : State) : Reached s (leaveTo st s) := by
  unfold leaveTo
  split <;> exact ⟨rfl⟩

theorem reached_exitEvent (old : Nat) (s : State) : Reached s (exitEvent old s) := by
  have hev : ∀ args : List Byte, Reached s (event srcAfzan 0x7006 noParty args (draw s).2) := fun args =>
    Reached.trans ⟨rfl⟩ (posted_event srcAfzan 0x7006 noParty args (draw s).2).reached
  unfold exitEvent
  dsimp only
  split
  · exact (hev _).trans (reached_lateAlarms _)
  · exact hev _

theorem reached_wakeFrom (doze : Bool) (cls inst : Nat) (s : State) : Reached s (wakeFrom doze cls inst s) := by
  unfold wakeFrom
  dsimp only
  split
  · split
    · exact ⟨rfl⟩
    · exact .refl s
  · split
    · exact ((posted_event ..).reached.trans (reached_leaveTo ..)).trans (reached_exitEvent ..)
    · exact .refl s

theorem reached_setTail (q v : Nat) (s : State) : Reached s (setTail q v s) := by
  unfold setTail
  dsimp only
  split
  · exact .refl s
  · exact ((posted_modQ ..).trans (posted_notifyPush ..)).reached

theorem posted_roomMade (q : Nat) (s : State) : Posted s (roomMade q s) := by
  have hfold : ∀ (l : List Nat) (s : State), Posted s (l.foldl (fun s p =>
      if (getParty s p).noticeOn && decide ((getParty s p).notice = q) && decide (s.firm.act ≠ .open_) then
        drainNotices p (getParty s p).heldNotices.length s else s) s) := by
    intro l
    induction l with
    | nil => exact fun s => .refl s
    | cons p l ih =>
      intro s
      refine Posted.trans ?_ (ih _)
      dsimp only
      split
      · exact posted_drainNotices ..
      · exact .refl s
  exact (posted_drainHeld ..).trans (hfold _ _)

theorem reached_dblWrite (whole : Bool) (p off v : Nat) (s : State) : Reached s (dblWrite whole p off v s) := by
  have hrefuse : ∀ q st, Reached s (submitRefuse p q st s) := fun q st => (posted_modParty ..).reached
  unfold dblWrite
  split
  · unfold dblSubmit
    dsimp only
    split
    · exact hrefuse ..
    · split
      · exact hrefuse ..
      · split
        · exact hrefuse ..
        · split
          · exact hrefuse ..
          · exact ((reached_setTail ..).trans (posted_modQ ..).reached).trans (reached_wakeFrom ..)
  · unfold dblRing
    dsimp only
    split
    · exact (posted_modParty ..).reached.trans (reached_wakeFrom ..)
    · exact .refl s
  · split
    · exact (posted_modParty ..).reached
    · exact .refl s
  · exact .refl s

theorem reached_dblReadEffect (p off : Nat) (s : State) : Reached s (dblReadEffect p off s) := by
  unfold dblReadEffect
  split
  · exact (posted_modParty ..).reached
  · exact .refl s

theorem reached_qptWrite (whole : Bool) (q off v : Nat) (s : State) : Reached s (qptWrite whole q off v s) := by
  unfold qptWrite
  split
  · unfold writeTail
    dsimp only
    split
    · exact (reached_setTail ..).trans (reached_wakeFrom ..)
    · exact (posted_modQ ..).reached
  · unfold writeHead
    dsimp only
    split
    · split
      · exact .refl s
      · exact ((posted_modQ ..).trans (posted_roomMade ..)).reached
    · exact (posted_modQ ..).reached
  · split
    · exact (posted_modQ ..).reached
    · exact .refl s
  · exact .refl s

theorem reached_qptReadEffect (q off : Nat) (s : State) : Reached s (qptReadEffect q off s) := by
  unfold qptReadEffect
  split
  · exact (posted_modQ ..).reached
  · exact (posted_modQ ..).reached
  · exact .refl s

theorem reached_brgReadEffect (reader off : Nat) (s : State) : Reached s (brgReadEffect reader off s) := by
  unfold brgReadEffect
  dsimp only
  split
  · split <;> exact ⟨rfl⟩
  · split
    · split <;> exact ⟨rfl⟩
    · exact .refl s

theorem reached_regAccess (write : Bool) (a n : Nat) (data : List Byte) (val : Nat → Nat) {rd : Nat → State → State}
    {wr : Bool → Nat → Nat → State → State} (base : Nat) (s : State) (hrd : ∀ off, Reached s (rd off s))
    (hwr : ∀ whole off v, Reached s (wr whole off v s)) : Reached s (regAccess write a n data val rd wr base s).1 := by
  unfold regAccess
  dsimp only
  split
  · exact hwr ..
  · split
    · exact hrd _
    · exact .refl s

/-! ### Outbound windows -/

theorem reached_sendConfirm (tag : Nat) (s : State) : Reached s (sendConfirm tag s) := ⟨rfl⟩

theorem reached_endGroups (ini : Nat) (f : OutTx → Bool) (s : State) : Reached s (endGroups ini f s) := by
  refine Reached.foldl (fun s x => ?_) _ s
  exact reached_sendConfirm ..

theorem reached_outAccess (w : Who) (write : Bool) (a n : Nat) (data : List Byte) (waiter : List Nat) (s : State) :
    Reached s (outAccess w write a n data waiter s).1 := by
  unfold outAccess
  split
  · exact .refl s
  · dsimp only
    split
    · exact .refl s
    · split
      · exact (posted_event ..).reached
      · split
        · exact .refl s
        · split
          · split
            · split
              · exact (reached_endGroups ..).trans (Reached.trans ⟨rfl⟩ (reached_sendConfirm ..))
              · exact (reached_endGroups ..).trans ⟨rfl⟩
            · split
              · exact (reached_endGroups ..).trans (Reached.trans ⟨rfl⟩ (reached_sendConfirm ..))
              · exact (reached_endGroups ..).trans ⟨rfl⟩
          · exact (reached_endGroups ..).trans ⟨rfl⟩

/-! ### Whole accesses -/

/-- An access that meets no error of the fabric. -/
theorem reached_access {i : Initiator} {a : Nat} {s : State} (write : Bool) (n : Nat) (data : List Byte) (waiter : List Nat)
    (h : endedStatus (access i write a n data waiter s).2 ≠ stDATA_ERROR ∨ fabricAt s i a = none) :
    Reached s (access i write a n data waiter s).1 := by
  unfold access at h ⊢
  dsimp only at h ⊢
  split
  · exact (posted_refusal ..).reached
  · split
    · next hreset _ x hfab =>
      rw [if_neg hreset, hfab] at h
      exact absurd (h.resolve_right (by simp)) (by simp [endedStatus])
    · split
      · exact (posted_refusal ..).reached
      · split
        · exact reached_dramAccess ..
        · split
          · exact reached_spAccess ..
          · split
            · exact reached_regAccess _ _ _ _ _ _ _ (fun _ => reached_dblReadEffect ..) fun _ _ _ => reached_dblWrite ..
            · split
              · exact reached_regAccess _ _ _ _ _ _ _ (fun _ => reached_qptReadEffect ..) fun _ _ _ => reached_qptWrite ..
              · split
                · split <;> exact .refl s
                · split
                  · exact reached_regAccess _ _ _ _ _ _ _ (fun _ => reached_brgReadEffect ..) fun _ _ _ => .refl s
                  · exact reached_outAccess ..

theorem reached_unitAccess {i : Initiator} {write : Bool} {a n : Nat} {data : List Byte} {s : State}
    (h : endedStatus (unitAccess i write a n data s).2 = stOK) : Reached s (unitAccess i write a n data s).1 := by
  unfold unitAccess at h ⊢
  dsimp only at h ⊢
  split at h
  · next hw =>
    rw [if_pos hw]
    exact (reached_zeroDone a n s).trans (reached_access write n data [] (.inl (by rw [h]; decide)))
  · next hw =>
    rw [if_neg hw]
    exact reached_access write n data [] (.inl (by rw [h]; decide))

/-- A sequence of steps that stops at the first status which is not OK, where it ends OK: each of them did. -/
theorem rel_foldl_ok {α β : Type} {R : State → State → Prop} (hrefl : ∀ s, R s s) (htrans : ∀ {s t u}, R s t → R t u → R s u)
    {f : State × α → β → State × α} {st : α → Nat} (hstop : ∀ a x, st a.2 ≠ stOK → f a x = a) {l : List β}
    (hf : ∀ a, ∀ x ∈ l, st (f a x).2 = stOK → R a.1 (f a x).1) {s : State} {c : α} (h : st (l.foldl f (s, c)).2 = stOK) :
    R s (l.foldl f (s, c)).1 := by
  have hstay : ∀ (l : List β) (a : State × α), st a.2 ≠ stOK → l.foldl f a = a := by
    intro l
    induction l with
    | nil => exact fun _ _ => rfl
    | cons x l ih =>
      intro a ha
      rw [List.foldl_cons, hstop a x ha, ih a ha]
  induction l generalizing s c with
  | nil => exact hrefl s
  | cons x l ih =>
    rw [List.foldl_cons] at h ⊢
    by_cases hx : st (f (s, c) x).2 = stOK
    · exact htrans (hf (s, c) x (List.mem_cons_self ..) hx) (ih (fun a y hy => hf a y (List.mem_cons_of_mem _ hy)) h)
    · rw [hstay l _ hx] at h
      exact absurd h hx

theorem reached_busRead {i : Initiator} {a n : Nat} {s : State} (h : (busRead i a n s).2.1 = stOK) : Reached s (busRead i a n s).1 := by
  refine rel_foldl_ok Reached.refl Reached.trans (st := Prod.fst) (fun b x hb => if_pos hb) (fun b x _ hx => ?_) h
  dsimp only at hx ⊢
  split at hx
  · next hb => exact absurd hx hb
  · next hb =>
    rw [if_neg hb]
    exact reached_unitAccess hx

theorem reached_busWrite {i : Initiator} {a : Nat} {bs : List Byte} {s : State} (h : (busWrite i a bs s).2 = stOK) :
    Reached s (busWrite i a bs s).1 := by
  refine rel_foldl_ok Reached.refl Reached.trans (st := id) (fun b x hb => if_pos hb) (fun b x _ hx => ?_) h
  dsimp only [id] at hx ⊢
  split at hx
  · next hb => exact absurd hx hb
  · next hb =>
    rw [if_neg hb]
    exact reached_unitAccess hx

/-! ### Reads of DRAM -/

theorem memOnly_readLines (i : Initiator) (w : Who) (l : List (Nat × Nat)) (s : State) (b : Bool) :
    MemOnly s (l.foldl (fun (x : State × Bool) l => ((readLine i w l.1 x.1).1, x.2 && (readLine i w l.1 x.1).2)) (s, b)).1 := by
  induction l generalizing s b with
  | nil => exact .refl s
  | cons x l ih => exact (memOnly_readLine i w x.1 s).trans (ih ..)

theorem zeroDone_dram {a n : Nat} {s : State} (ha : a < 0x1000000000) : zeroDone a n s = s := by
  have : spLeaf a = none := by
    unfold spLeaf
    rw [if_neg (by omega)]
  unfold zeroDone
  rw [this]

/-- An access to DRAM that ends OK is DRAM's own. -/
theorem access_dram_ok {i : Initiator} {write : Bool} {a n : Nat} {data : List Byte} {waiter : List Nat} {s : State} (ha : a < 0x1000000000)
    (h : endedStatus (access i write a n data waiter s).2 = stOK) :
    access i write a n data waiter s = dramAccess i (whoOf s i) write a n data s := by
  unfold access at h ⊢
  dsimp only at h ⊢
  split
  · next hreset =>
    rw [if_pos hreset] at h
    exact absurd (show stDENIED = stOK from h) (by decide)
  · next hreset =>
    rw [if_neg hreset] at h
    split
    · next x hfab =>
      rw [hfab] at h
      exact absurd (show stDATA_ERROR = stOK from h) (by decide)
    · next hfab =>
      rw [hfab] at h
      dsimp only at h
      split
      · next x v hfirst =>
        rw [hfirst] at h
        exact absurd (show stDENIED = stOK from h) (by decide)
      · rfl

theorem unitAccess_dram_ok {i : Initiator} {write : Bool} {a n : Nat} {data : List Byte} {s : State} (ha : a < 0x1000000000)
    (h : endedStatus (unitAccess i write a n data s).2 = stOK) :
    unitAccess i write a n data s = dramAccess i (whoOf s i) write a n data s := by
  have hwaits : (access i write a n data [] s).2 ≠ .waits := fun hw => by
    unfold unitAccess at h
    dsimp only at h
    rw [if_pos hw, zeroDone_dram ha, hw] at h
    exact absurd h (by decide)
  unfold unitAccess at h ⊢
  dsimp only at h ⊢
  rw [if_neg hwaits] at h ⊢
  exact access_dram_ok ha h

/-- A read of DRAM changes nothing but memory's bookkeeping. -/
theorem memOnly_dramRead (i : Initiator) (w : Who) (a n : Nat) (data : List Byte) (s : State) :
    MemOnly s (dramAccess i w false a n data s).1 := by
  unfold dramAccess
  rw [if_neg Bool.false_ne_true]
  have hlines := memOnly_readLines i w (linesOf a n) s true
  dsimp only
  split <;> exact hlines

theorem memOnly_writeLines (i : Initiator) (w : Who) (l : List (Nat × Nat)) (s : State) (b : Bool) :
    MemOnly s (l.foldl (fun (x : State × Bool) l => ((writeLine i w l.1 l.2 x.1).1, x.2 && (writeLine i w l.1 l.2 x.1).2)) (s, b)).1 := by
  induction l generalizing s b with
  | nil => exact .refl s
  | cons x l ih => exact (memOnly_writeLine i w x.1 x.2 s).trans (ih ..)

theorem MemOnly.queue {s t : State} (h : MemOnly s t) : t.queue = s.queue := by rw [h.eq]

/-- A write to DRAM leaves every queue as it was. -/
theorem queue_dramWrite (i : Initiator) (w : Who) (a n : Nat) (data : List Byte) (s : State) :
    (dramAccess i w true a n data s).1.queue = s.queue := by
  unfold dramAccess
  rw [if_pos rfl]
  have hlines := (memOnly_writeLines i w (linesOf a n) s true).queue
  dsimp only
  split
  · rw [fireWatches_eq]
    exact hlines
  · exact hlines

theorem lineParts_lt {a n : Nat} {p : Nat × Nat} (h : p ∈ lineParts a n) : p.1 < a + n := by
  unfold lineParts at h
  split at h
  · exact absurd h List.not_mem_nil
  · obtain ⟨k, hk, rfl⟩ := List.mem_map.1 h
    have := List.mem_range.1 hk
    dsimp only
    omega

theorem memOnly_busRead {i : Initiator} {a n : Nat} {s : State} (ha : a + n ≤ 0x1000000000) (h : (busRead i a n s).2.1 = stOK) :
    MemOnly s (busRead i a n s).1 := by
  refine rel_foldl_ok MemOnly.refl MemOnly.trans (st := Prod.fst) (fun b x hb => if_pos hb) (fun b x hmem hx => ?_) h
  dsimp only at hx ⊢
  split at hx
  · next hb => exact absurd hx hb
  · next hb =>
    rw [if_neg hb, unitAccess_dram_ok ((lineParts_lt hmem).trans_le ha) hx]
    exact memOnly_dramRead ..

theorem queue_busWrite {i : Initiator} {a : Nat} {bs : List Byte} {s : State} (ha : a + bs.length ≤ 0x1000000000)
    (h : (busWrite i a bs s).2 = stOK) : (busWrite i a bs s).1.queue = s.queue := by
  refine rel_foldl_ok (R := fun s t => t.queue = s.queue) (fun _ => rfl) (fun h h' => h'.trans h) (st := id) (fun b x hb => if_pos hb)
    (fun b x hmem hx => ?_) h
  dsimp only [id] at hx ⊢
  split at hx
  · next hb => exact absurd hx hb
  · next hb =>
    rw [if_neg hb, unitAccess_dram_ok ((lineParts_lt hmem).trans_le ha) hx]
    exact queue_dramWrite ..

end Sys2Proof.Machine

/-! Scan-out and the codec (R263, R266 to R273, R276 to R278). -/

namespace Sys2Proof.Machine
open Sys2Proof.Claims

/-! ### Images that are written or read whole -/

theorem putRow_stopped {x : State × Nat} (h : x.2 ≠ stOK) (i : Initiator) (d : List Byte) (base e w y : Nat) (px : Nat → List Byte) :
    putRow i d base e w y px x = x := by
  unfold putRow
  generalize rowRuns d e 0 w = l
  induction l with
  | nil => rfl
  | cons r l ih => rw [List.foldl_cons, if_pos h, ih]

theorem reached_putRow {x : State × Nat} {i : Initiator} {d : List Byte} {base e w y : Nat} {px : Nat → List Byte}
    (h : (putRow i d base e w y px x).2 = stOK) : Reached x.1 (putRow i d base e w y px x).1 := by
  refine rel_foldl_ok Reached.refl Reached.trans (st := id) (fun b x hb => if_pos hb) (fun b x _ hx => ?_) h
  dsimp only [id] at hx ⊢
  split at hx
  · next hb => exact absurd hx hb
  · next hb =>
    rw [if_neg hb]
    exact reached_busWrite hx

/-- A row that is written in both planes. -/
def putRows (i : Initiator) (d : List Byte) (base0 base1 : Nat) (p0 p1 : Nat → Nat → List Byte) (y : Nat) (x : State × Nat) : State × Nat :=
  let e := imgBytes (field d 6 1)
  let w := field d 8 2
  let x := putRow i d base0 e w y (fun c => p0 c y) x
  if twoPlane d && y % 2 == 0 then putRow i d base1 (2 * e) ((w + 1) / 2) (y / 2) (fun c => p1 c (y / 2)) x else x

theorem putRows_stopped {x : State × Nat} (h : x.2 ≠ stOK) (i : Initiator) (d : List Byte) (base0 base1 : Nat)
    (p0 p1 : Nat → Nat → List Byte) (y : Nat) : putRows i d base0 base1 p0 p1 y x = x := by
  unfold putRows
  dsimp only
  rw [putRow_stopped h, putRow_stopped h, ite_self]

theorem reached_putRows {x : State × Nat} {i : Initiator} {d : List Byte} {base0 base1 y : Nat} {p0 p1 : Nat → Nat → List Byte}
    (h : (putRows i d base0 base1 p0 p1 y x).2 = stOK) : Reached x.1 (putRows i d base0 base1 p0 p1 y x).1 := by
  unfold putRows at h ⊢
  dsimp only at h ⊢
  split at h
  · next hc =>
    rw [if_pos hc]
    by_cases hx : (putRow i d base0 (imgBytes (field d 6 1)) (field d 8 2) y (fun c => p0 c y) x).2 = stOK
    · exact (reached_putRow hx).trans (reached_putRow h)
    · rw [putRow_stopped hx] at h
      exact absurd h hx
  · next hc =>
    rw [if_neg hc]
    exact reached_putRow h

theorem reached_putImage {i : Initiator} {d : List Byte} {base0 base1 h : Nat} {keep : Nat → Bool} {p0 p1 : Nat → Nat → List Byte} {s : State}
    (hok : (putImage i d base0 base1 h keep p0 p1 s).2 = stOK) : Reached s (putImage i d base0 base1 h keep p0 p1 s).1 := by
  have hfold : putImage i d base0 base1 h keep p0 p1 s = (List.range (min h (field d 10 2))).foldl (fun x y =>
      if !keep y then x else putRows i d base0 base1 p0 p1 y x) (s, stOK) := rfl
  rw [hfold] at hok ⊢
  refine rel_foldl_ok Reached.refl Reached.trans (st := id) (fun b y hb => ?_) (fun b y _ hy => ?_) hok
  · rw [putRows_stopped hb, ite_self]
  · dsimp only [id] at hy ⊢
    split at hy
    · next hk =>
      rw [if_pos hk]
      exact .refl _
    · next hk =>
      rw [if_neg hk]
      exact reached_putRows hy

/-- Elements [x0, x0 + n) of row `y` of a plane. -/
def getRow (i : Initiator) (d : List Byte) (base e w x0 n y : Nat) (s : State) : State × Nat × List Byte :=
  (rowRuns d e x0 n).foldl (fun (x : State × Nat × List Byte) r =>
    if x.2.1 ≠ stOK then x
    else
      let t := busRead i (planeAddr d base e w r.1 y) (r.2 * e) x.1
      (t.1, t.2.1, x.2.2 ++ t.2.2)) (s, stOK, [])

theorem reached_getRow {i : Initiator} {d : List Byte} {base e w x0 n y : Nat} {s : State}
    (hok : (getRow i d base e w x0 n y s).2.1 = stOK) : Reached s (getRow i d base e w x0 n y s).1 := by
  refine rel_foldl_ok Reached.refl Reached.trans (st := Prod.fst) (fun b x hb => if_pos hb) (fun b r _ hr => ?_) hok
  dsimp only at hr ⊢
  split at hr
  · next hb => exact absurd hr hb
  · next hb =>
    rw [if_neg hb]
    exact reached_busRead hr

theorem reached_getRows {i : Initiator} {d : List Byte} {base e w x0 n y0 h : Nat} {s : State}
    (hok : (getRows i d base e w x0 n y0 h s).2.1 = stOK) : Reached s (getRows i d base e w x0 n y0 h s).1 := by
  have hfold : getRows i d base e w x0 n y0 h s = (List.range h).foldl (fun (x : State × Nat × List (List Byte)) j =>
      if x.2.1 ≠ stOK then x
      else ((getRow i d base e w x0 n (y0 + j) x.1).1, (getRow i d base e w x0 n (y0 + j) x.1).2.1,
        x.2.2 ++ [(getRow i d base e w x0 n (y0 + j) x.1).2.2])) (s, stOK, []) := rfl
  rw [hfold] at hok ⊢
  refine rel_foldl_ok Reached.refl Reached.trans (st := Prod.fst) (fun b x hb => if_pos hb) (fun b j _ hj => ?_) hok
  by_cases hb : b.2.1 ≠ stOK
  · rw [if_pos hb] at hj
    exact absurd hj hb
  · rw [if_neg hb] at hj ⊢
    exact reached_getRow hj

theorem reached_getImage {i : Initiator} {d : List Byte} {x0 n y0 h : Nat} {s : State} (hok : (getImage i d x0 n y0 h s).2.1 = stOK) :
    Reached s (getImage i d x0 n y0 h s).1 := by
  unfold getImage at hok ⊢
  dsimp only at hok ⊢
  split at hok
  · next hc =>
    rw [if_pos hc]
    exact reached_getRows hok
  · next hc =>
    rw [if_neg hc]
    exact (reached_getRows (not_not.1 (not_or.1 hc).1)).trans (reached_getRows hok)

/-! ### Scan-out (R263, R266 to R273) -/

theorem runs_scanoutUnderflow {pipe : Fin 6} {s : State} (hscan : (getPipe s pipe.val).scan = true) (hpll : s.pw.pllLost = false) :
    Runs (.scanoutUnderflow pipe) s fun t => MediaOnly s t ∧ t.caddy = s.caddy ∧ (∀ j, j ≠ pipe.val → getPipe t j = getPipe s j) ∧
      ∃ x y, getPipe t pipe.val = { getPipe s pipe.val with
        under := (getPipe s pipe.val).under.add 1
        lineUnder := min 65535 ((getPipe s pipe.val).lineUnder + 1)
        out := (getPipe s pipe.val).out.set y (cutLine (getPipe s pipe.val).timing x ((getPipe s pipe.val).out.getD y [])) } := by
  set f := freeNum s with hf
  set g := freeNum f.2 with hg
  have hexec : exec (.scanoutUnderflow pipe) s = .next (modPipe g.2 pipe.val fun x =>
      { x with under := x.under.add 1, lineUnder := min 65535 (x.lineUnder + 1)
               out := x.out.set (f.1 % max 1 x.out.length) (cutLine x.timing (g.1 % max 1 (field x.timing 2 2))
                 (x.out.getD (f.1 % max 1 x.out.length) [])) }) := by
    show execScanoutUnderflow pipe s = _
    simp only [execScanoutUnderflow, hscan, hpll, Bool.not_true, Bool.or_self, Bool.false_eq_true, if_false]
    rfl
  refine ⟨_, hexec, rfl, rfl, fun j hj => getPipe_modPipe_ne g.2 _ hj, g.1 % max 1 (field (getPipe s pipe.val).timing 2 2),
    f.1 % max 1 (getPipe s pipe.val).out.length, ?_⟩
  rw [getPipe_modPipe_same]
  rfl

/-- The state in which a latch's new frame has begun. -/
abbrev latched (p : Nat) (s : State) : State := nextFrame p (underEvent p s)

theorem pipeOnly_latched (p : Nat) (s : State) : PipeOnly p s (latched p s) := (pipeOnly_underEvent p s).1.modPipe _

theorem PipeOnly.ktime {p : Nat} {s t : State} (h : PipeOnly p s t) : t.ktime = s.ktime := by
  rw [show t = _ from h.media]

theorem getPipe_latched {p : Nat} {s : State} (hstatus : (getPipe s p).status = 0) (hnext : (getPipe s p).statusNext = 0) :
    getPipe (latched p s) p = { getPipe s p with
      frame := ((getPipe s p).frame + 1) % 2 ^ 64, latchAt := s.ktime, lineUnder := 0
      link := (getPipe s p).link || (getPipe s p).relink, relink := false } := by
  obtain ⟨honly, hpipe⟩ := pipeOnly_underEvent p s
  rw [latched, nextFrame, getPipe_modPipe_same, hpipe, honly.ktime]
  simp only [hnext, if_true]

theorem fabricUp_latched (p : Nat) (s : State) : fabricUp (latched p s) = fabricUp s := by
  rw [show latched p s = _ from (pipeOnly_latched p s).media]
  rfl

theorem resetting_latched (p : Nat) (s : State) : (latched p s).boot.resetting = s.boot.resetting := by
  rw [show latched p s = _ from (pipeOnly_latched p s).media]

theorem blockOff_latched (p : Nat) (s : State) (kind inst : Nat) : blockOff (latched p s) kind inst = blockOff s kind inst := by
  rw [show latched p s = _ from (pipeOnly_latched p s).media]
  rfl

theorem getQ_latched (p : Nat) (s : State) (q : Nat) : getQ (latched p s) q = getQ s q := by
  rw [show latched p s = _ from (pipeOnly_latched p s).media]
  rfl

/-- A latch of a pipe that does not stop. -/
theorem exec_vblankLatch {pipe : Fin 6} {s : State} (hnow : LatchNow pipe.val s) (hstop : (getPipe s pipe.val).stop = none) :
    exec (.vblankLatch pipe) s = .next (
      if !fabricUp (latched pipe.val s) || (latched pipe.val s).boot.resetting.isSome then showFrame pipe.val (latched pipe.val s)
      else
        let r := latchFlips pipe.val (latched pipe.val s)
        if !(getPipe r.1 pipe.val).scan then r.1 else showFrame pipe.val (pushStatus pipe.val r.2 r.1)) := by
  obtain ⟨hscan, hpll, hdue⟩ := hnow
  show execVblankLatch pipe s = _
  simp only [execVblankLatch, hscan, hpll, hdue, hstop, Bool.not_true, Bool.or_self, Bool.false_eq_true, if_false, Option.isSome_none]

theorem pushStatus_of_none {p : Nat} {s : State} (h : (getPipe s p).status = 0) (l : Latch) : pushStatus p l s = s := by
  unfold pushStatus
  exact if_pos h

/-- A latch that takes no flip shows the frame that begins. -/
theorem exec_vblankLatch_plain {pipe : Fin 6} {s : State} (hnow : LatchNow pipe.val s) (hplain : Plain pipe.val s)
    (hflip : (getPipe s pipe.val).flip = 0) : exec (.vblankLatch pipe) s = .next (showFrame pipe.val (latched pipe.val s)) := by
  obtain ⟨hstop, hstatus, hnext⟩ := hplain
  have hpipe := getPipe_latched hstatus hnext
  have hflips : latchFlips pipe.val (latched pipe.val s) = (latched pipe.val s, {}) := by
    simp only [latchFlips, hpipe, hflip, if_true, Bool.and_false, Bool.false_and, Bool.false_eq_true, if_false]
  have hscan : (getPipe (latched pipe.val s) pipe.val).scan = true := by rw [hpipe]; exact hnow.1
  rw [exec_vblankLatch hnow hstop, hflips]
  simp only [hscan, Bool.not_true, Bool.false_eq_true, if_false]
  rw [pushStatus_of_none (by rw [hpipe]; exact hstatus), ite_self]

theorem fetchLayers_none {p owner : Nat} {es : List (List Byte)} (h : ∀ e ∈ es, bitOf (field e 49 1) 0 = false) (s : State) :
    fetchLayers p owner es s = (s, stOK, []) := by
  unfold fetchLayers
  rw [List.filter_eq_nil_iff.2 fun e he => by simp [h e he]]
  rfl

theorem wrote_underEvent {p : Nat} {s : State} (h : (getPipe s p).lineUnder ≠ 0) : Wrote [recOf (0x6000 + p) 0x8007 (ownerOf (getPipe s p).owner)
    (leBytes 1 p ++ leBytes 4 (getPipe s p).frame ++ leBytes 2 (getPipe s p).lineUnder) s] s (underEvent p s) := by
  unfold underEvent
  dsimp only
  rw [if_neg h]
  exact ⟨rfl, rfl⟩

theorem runs_vblankLatch_background {pipe : Fin 6} {s : State} (hnow : LatchNow pipe.val s) (hplain : Plain pipe.val s)
    (hflip : (getPipe s pipe.val).flip = 0) (hlayers : ∀ i < 8, bitOf (field (tget (getPipe s pipe.val).layers i) 49 1) 0 = false) :
    Runs (.vblankLatch pipe) s fun t => MediaOnly s t ∧
      getPipe t pipe.val = { getPipe s pipe.val with
        frame := ((getPipe s pipe.val).frame + 1) % 2 ^ 64, latchAt := s.ktime, lineUnder := 0
        link := (getPipe s pipe.val).link || (getPipe s pipe.val).relink, relink := false
        out := if ((getPipe s pipe.val).link || (getPipe s pipe.val).relink) = true ∧ blockOff s 4 pipe.val = false then
          compose (getPipe s pipe.val).timing [] else [] } ∧
      (∀ j, j ≠ pipe.val → getPipe t j = getPipe s j) ∧
      ((getPipe s pipe.val).lineUnder ≠ 0 → Logs 0x8007 (0x6000 + pipe.val) (leBytes 1 pipe.val ++ leBytes 4 (getPipe s pipe.val).frame ++
        leBytes 2 (getPipe s pipe.val).lineUnder) s t) := by
  have hpipe := getPipe_latched hplain.2.1 hplain.2.2
  have hnone : ∀ e ∈ (List.range 8).map (tget (getPipe (latched pipe.val s) pipe.val).layers), bitOf (field e 49 1) 0 = false := by
    intro e he
    obtain ⟨i, hi, rfl⟩ := List.mem_map.1 he
    rw [hpipe]
    exact hlayers i (List.mem_range.1 hi)
  have hshow : showFrame pipe.val (latched pipe.val s) = modPipe (latched pipe.val s) pipe.val fun y => { y with
      out := if ((getPipe s pipe.val).link || (getPipe s pipe.val).relink) = true ∧ blockOff s 4 pipe.val = false then
          compose (getPipe s pipe.val).timing [] else [] } := by
    unfold showFrame
    dsimp only
    rw [fetchLayers_none hnone]
    simp only [hpipe, blockOff_latched]
    cases (getPipe s pipe.val).link || (getPipe s pipe.val).relink <;> cases blockOff s 4 pipe.val <;> simp
  have honly := pipeOnly_latched pipe.val s
  refine ⟨_, exec_vblankLatch_plain hnow hplain hflip, ?_⟩
  rw [hshow]
  refine ⟨(honly.modPipe _).media, ?_, (honly.modPipe _).other, fun hunder => ?_⟩
  · rw [getPipe_modPipe_same, hpipe]
  · exact ((wrote_underEvent hunder).same (u := latched pipe.val s) rfl rfl).logs (by simp) rfl (by simp)

theorem runs_vblankLatch_layers {pipe : Fin 6} {s v : State} {ls : List Layer} (hnow : LatchNow pipe.val s) (hplain : Plain pipe.val s)
    (hflip : (getPipe s pipe.val).flip = 0) (hlink : (getPipe s pipe.val).link = true) (hblock : blockOff s 4 pipe.val = false)
    (hup : fabricUp s = true) (hreset : s.boot.resetting = none)
    (hfetch : fetchLayers pipe.val (ownerOf (getPipe s pipe.val).owner) ((List.range 8).map (tget (getPipe s pipe.val).layers))
      (nextFrame pipe.val (underEvent pipe.val s)) = (v, stOK, ls)) :
    Runs (.vblankLatch pipe) s fun t => t = modPipe v pipe.val (fun y => { y with out := compose (getPipe s pipe.val).timing ls }) := by
  refine ⟨_, exec_vblankLatch_plain hnow hplain hflip, ?_⟩
  dsimp only
  unfold showFrame
  simp only [getPipe_latched hplain.2.1 hplain.2.2, hlink, Bool.true_or, Bool.not_true, blockOff_latched, hblock, fabricUp_latched, hup,
    resetting_latched, hreset, Option.isSome_none, Bool.or_self, Bool.false_eq_true, if_false]
  rw [hfetch]
  simp

theorem runs_vblankLatch_stop {pipe : Fin 6} {s : State} {x : Nat × Pend} (hnow : LatchNow pipe.val s)
    (hstop : (getPipe s pipe.val).stop = some x) :
    Runs (.vblankLatch pipe) s fun t => MediaOnly s t ∧
      getPipe t pipe.val = { getPipe s pipe.val with scan := false, lineUnder := 0, out := [] } := by
  obtain ⟨hscan, hpll, hdue⟩ := hnow
  obtain ⟨honly, hpipe⟩ := pipeOnly_underEvent pipe.val s
  refine ⟨modPipe (underEvent pipe.val s) pipe.val fun y => { y with scan := false, out := [] }, ?_, (honly.modPipe _).media, ?_⟩
  · show execVblankLatch pipe s = _
    simp only [execVblankLatch, hscan, hpll, hdue, hstop, Bool.not_true, Bool.or_self, Bool.false_eq_true, if_false, Option.isSome_some, if_true]
  · rw [getPipe_modPipe_same, hpipe]

/-! ### Flips (R269 to R271) -/

/-- A flip that was applied changed the pipe's layers alone, beside memory's bookkeeping. -/
theorem applyFlip_taken {p : Nat} {r : List Byte} {u v : State} {l : Latch} (haddr : field r 0 6 + 512 ≤ 0x1000000000)
    (h : applyFlip p r {} u = (v, l)) (htaken : l.taken = 1) : l = { taken := 1, tag := field r 32 8 } ∧
      v.queue = u.queue ∧ getPipe v p = { getPipe u p with layers := (getPipe v p).layers } := by
  unfold applyFlip at h
  dsimp only at h
  split at h
  · rw [← (Prod.mk.inj h).2] at htaken
    exact absurd htaken (by decide)
  · next hok =>
    have hmem : MemOnly u (busRead (pipeIni p) (field r 0 6) 512 u).1 := memOnly_busRead haddr (not_not.1 hok)
    split at h
    · rw [← (Prod.mk.inj h).2] at htaken
      exact absurd htaken (by decide)
    · obtain ⟨rfl, rfl⟩ := Prod.mk.inj h
      have hpipe : getPipe (busRead (pipeIni p) (field r 0 6) 512 u).1 p = getPipe u p := by rw [getPipe, hmem.reached.media, ← getPipe]
      refine ⟨rfl, ?_, ?_⟩
      · show (busRead (pipeIni p) (field r 0 6) 512 u).1.queue = u.queue
        rw [hmem.eq]
      · rw [getPipe_modPipe_same, hpipe]

/-- The bytes that a queue slice or the Kettle reads at a place (R98, R103). -/
def bytesAt (s : State) (a n : Nat) : List Byte :=
  match spLeaf a with
  | none => memRead s a n
  | some l => if (getLeaf s l).kind = .fenced ∨ Seg.off ∈ segsOf s l (a - spBase l) n then List.replicate n 0#8 else memRead s a n

theorem getBytes_snd (w : Writer) (a n : Nat) (s : State) : (getBytes w a n s).2 = bytesAt s a n := by
  unfold getBytes bytesAt
  cases spLeaf a with
  | none => rfl
  | some l =>
    dsimp only
    by_cases hfenced : (getLeaf s l).kind = .fenced
    · rw [if_pos hfenced, if_pos (Or.inl hfenced)]
    · rw [if_neg hfenced]
      by_cases hoff : Seg.off ∈ segsOf s l (a - spBase l) n
      · rw [if_pos hoff, if_pos (Or.inr hoff)]
      · rw [if_neg hoff, if_neg (not_or.2 ⟨hfenced, hoff⟩)]

theorem bytesAt_congr (a n : Nat) {s t : State} (hlv : t.lv = s.lv) (hmem : t.mem = s.mem) : bytesAt t a n = bytesAt s a n := by
  unfold bytesAt segsOf getLeaf memRead
  rw [hlv, hmem]

theorem headEntry_congr {s t : State} {q : Nat} (hq : getQ t q = getQ s q) (hlv : t.lv = s.lv) (hmem : t.mem = s.mem) :
    headEntry t q = headEntry s q := by
  unfold headEntry headRead
  dsimp only
  rw [hq]
  rw [getBytes_snd, getBytes_snd, bytesAt_congr _ _ hlv hmem]

theorem headEntry_latched (p : Nat) (s : State) (q : Nat) : headEntry (latched p s) q = headEntry s q := by
  have hmedia := (pipeOnly_latched p s).media
  exact headEntry_congr (getQ_latched p s q) (by rw [show latched p s = _ from hmedia]) (by rw [show latched p s = _ from hmedia])

theorem takeFlips_one {p q : Nat} {u v : State} {l : Latch} (hlen : (getQ u q).len = 1) (hscan : (getPipe u p).scan = true)
    (hdue : field (headEntry u q) 8 8 ≤ (getPipe u p).frame) (hfence : field (headEntry u q) 16 6 = 0)
    (halign : field (headEntry u q) 0 6 % 64 = 0) (happly : applyFlip p (headEntry u q) {} (popEntry q u) = (v, l)) :
    takeFlips p q (getQ u q).len u {} = (v, l) := by
  have hbad : flipBad (headEntry u q) = false := by simp [flipBad, hfence, halign]
  have hmet : fenceMet p (headEntry u q) u = (u, some true) := by simp [fenceMet, hfence]
  rw [hlen, takeFlips]
  simp only [hlen, hscan, Nat.not_lt.2 hdue, hbad, hmet, happly, Nat.one_ne_zero, decide_false, Bool.not_true, Bool.or_self,
    Bool.false_eq_true, if_false]
  rfl

theorem runs_vblankLatch_flip {pipe : Fin 6} {s v : State} {q : Nat} {l : Latch} (hnow : LatchNow pipe.val s) (hplain : Plain pipe.val s)
    (hflip : (getPipe s pipe.val).flip = q + 1) (hup : fabricUp s = true) (hreset : s.boot.resetting = none) (hlen : (getQ s q).len = 1)
    (hdue : field (headEntry s q) 8 8 ≤ ((getPipe s pipe.val).frame + 1) % 2 ^ 64) (hfence : field (headEntry s q) 16 6 = 0)
    (halign : field (headEntry s q) 0 6 % 64 = 0) (hdram : field (headEntry s q) 0 6 + 512 ≤ 0x1000000000)
    (happly : applyFlip pipe.val (headEntry s q) {} (popEntry q (nextFrame pipe.val (underEvent pipe.val s))) = (v, l)) (htaken : l.taken = 1) :
    Runs (.vblankLatch pipe) s fun t => t = showFrame pipe.val v ∧ Popped q s v ∧
      (getPipe v pipe.val).frame = ((getPipe s pipe.val).frame + 1) % 2 ^ 64 ∧ (getPipe v pipe.val).latchAt = s.ktime ∧
      l.tag = field (headEntry s q) 32 8 := by
  obtain ⟨hl, hqueue, hv⟩ := applyFlip_taken hdram happly htaken
  have hpipe := getPipe_latched hplain.2.1 hplain.2.2
  have hpop : getPipe (popEntry q (latched pipe.val s)) pipe.val = getPipe (latched pipe.val s) pipe.val := by
    rw [getPipe, (posted_popEntry q _).media, ← getPipe]
  rw [hpop, hpipe] at hv
  have hhead := headEntry_latched pipe.val s q
  have htake := takeFlips_one (p := pipe.val) (q := q) (u := latched pipe.val s) (v := v) (l := l) (by rw [getQ_latched, hlen])
    (by rw [hpipe]; exact hnow.1) (by rw [hhead, hpipe]; exact hdue) (by rw [hhead, hfence]) (by rw [hhead, halign]) (by rw [hhead]; exact happly)
  have hflips : latchFlips pipe.val (latched pipe.val s) = (v, l) := by
    unfold latchFlips
    simp only [hpipe, hflip, Nat.add_eq_zero_iff, Nat.one_ne_zero, and_false, if_false, Nat.add_sub_cancel, htake, hl, decide_false,
      Bool.and_false, Bool.false_eq_true]
  have hexec : exec (.vblankLatch pipe) s = .next (showFrame pipe.val v) := by
    rw [exec_vblankLatch hnow hplain.1, hflips]
    have hscan : (getPipe v pipe.val).scan = true := by rw [hv]; exact hnow.1
    have hstatus : (getPipe v pipe.val).status = 0 := by rw [hv]; exact hplain.2.1
    simp only [fabricUp_latched, hup, resetting_latched, hreset, Option.isSome_none, Bool.not_true, Bool.or_self, Bool.false_eq_true, if_false,
      hscan, pushStatus_of_none hstatus]
  have htaken : EndTaken 0 q s (latched pipe.val s) := by
    have hmedia := (pipeOnly_latched pipe.val s).media
    refine ⟨?_, ?_, ⟨(getQ s q).pThread, (getQ s q).cThread, getQ_latched ..⟩, fun j _ => getQ_latched ..⟩
    · rw [show latched pipe.val s = _ from hmedia]
      exact ⟨rfl, rfl, rfl⟩
    · rw [show latched pipe.val s = _ from hmedia]
  have hpopped : Popped q s v := by
    have hpop := htaken.popped
    unfold Popped getQ at hpop ⊢
    rw [hqueue]
    exact hpop
  exact ⟨_, hexec, rfl, hpopped, congrArg Pipe.frame hv, congrArg Pipe.latchAt hv, congrArg Latch.tag hl⟩

/-! ### Sessions of the codec (R276 to R278) -/

theorem closeSesIfDone_of_open {k : Nat} {s : State} (h : (getSes s k).closing = none) : closeSesIfDone k s = s := by
  unfold closeSesIfDone
  dsimp only
  rw [h]

theorem takePieces_of_ready {k : Nat} {s : State} (h : picsLeft (getSes s k) ≠ 0) (n : Nat) : takePieces k n s = s := by
  cases n with
  | zero => rfl
  | succ n => exact if_pos (.inr (.inr (.inr h)))

theorem exec_codecPictureDone_decoder {k : Fin 64} {r : CodecResult} {s : State} (hruns : SesRuns k.val s) (hdec : cdDec (getSes s k.val).open_ = true)
    (hready : picsLeft (getSes s k.val) ≠ 0) : exec (.codecPictureDone k r) s =
      .next (closeSesIfDone k.val (if r.kind.val = 2 then outside k.val s else decodeDone k.val (r.kind.val == 1) s)) := by
  obtain ⟨howner, hstopped, hup, hblock, hreset, hnext, -⟩ := hruns
  show execCodecPictureDone k r s = _
  simp only [execCodecPictureDone, howner, hstopped, hup, hblock, hreset, hnext, hdec, takePieces_of_ready hready, Option.isSome_none,
    ne_eq, not_true_eq_false, decide_false, Bool.not_true, Bool.or_self, Bool.false_eq_true, if_false, if_true]

theorem exec_codecPictureDone_encoder {k : Fin 64} {r : CodecResult} {s : State} (hruns : SesRuns k.val s)
    (hdec : cdDec (getSes s k.val).open_ = false) : exec (.codecPictureDone k r) s =
      .next (closeSesIfDone k.val (encodeDone k.val r.bytes (takePics k.val 4 s))) := by
  obtain ⟨howner, hstopped, hup, hblock, hreset, hnext, -⟩ := hruns
  show execCodecPictureDone k r s = _
  simp only [execCodecPictureDone, howner, hstopped, hup, hblock, hreset, hnext, hdec, Option.isSome_none,
    ne_eq, not_true_eq_false, decide_false, Bool.not_true, Bool.or_self, Bool.false_eq_true, if_false]

theorem getSes_of_reached {s t : State} (h : Reached s t) (k : Nat) : getSes t k = getSes s k := by
  rw [getSes, h.media, ← getSes]

theorem dropBad_of_ok {k q : Nat} {c : List Byte} {s : State} (h : picOk c (headEntry s q) = true) (n : Nat) : dropBad k q c n s = s := by
  cases n with
  | zero => rfl
  | succ n => exact if_pos (.inr h)

theorem runs_codecPictureDone_decoder {k : Fin 64} {r : CodecResult} {s v : State} (hruns : SesRuns k.val s)
    (hdec : cdDec (getSes s k.val).open_ = true) (htile : cdTile (getSes s k.val).open_ = false) (hready : picsLeft (getSes s k.val) ≠ 0)
    (hfirst : (getSes s k.val).tile = 0) (hkind : r.kind.val ≤ 1) (hpush : canPush s (cdOut (getSes s k.val).open_) = true)
    (hfree : (getQ s (cdFree (getSes s k.val).open_)).len ≠ 0)
    (hpic : picOk (getSes s k.val).open_ (headEntry s (cdFree (getSes s k.val).open_)) = true)
    (hput : putPicture k.val ((headEntry s (cdFree (getSes s k.val).open_)).take 32) (noteErr k.val (r.kind.val == 1) s) = (v, stOK)) :
    Runs (.codecPictureDone k r) s fun t =>
      t = pushEntry (cdOut (getSes s k.val).open_)
        (picRec ((headEntry s (cdFree (getSes s k.val).open_)).take 32) (field (pieceOf s k.val) 16 8)
          (2 * b2n (bitOf (field (pieceOf s k.val) 12 1) 0 && decide (picsLeft (getSes s k.val) = 1)) + 4 * b2n (r.kind.val == 1))
          (field (pieceOf s k.val) 24 8))
        (picOut k.val (if r.kind.val = 1 then decodeError k.val 1 (field (pieceOf s k.val) 16 8) v else v)) := by
  set c := r.kind.val == 1 with hc
  set n := noteErr k.val c s with hn
  have hses : getSes n k.val = { getSes s k.val with errs := (getSes s k.val).errs.take (getSes s k.val).count ++ [c] } := getSes_modSes_same ..
  have hopen : (getSes n k.val).open_ = (getSes s k.val).open_ := by rw [hses]
  have hhead : headEntry n (cdFree (getSes s k.val).open_) = headEntry s (cdFree (getSes s k.val).open_) := headEntry_congr rfl rfl rfl
  have hleft : picsLeft (getSes n k.val) = picsLeft (getSes s k.val) := by rw [hses]; rfl
  have hput' : putImage (sesIni k.val) ((headEntry s (cdFree (getSes s k.val).open_)).take 32)
      (field ((headEntry s (cdFree (getSes s k.val).open_)).take 32) 0 6) (field ((headEntry s (cdFree (getSes s k.val).open_)).take 32) 24 6)
      (cdH (getSes s k.val).open_) (fun _ => true) (sesSample (getSes n k.val) 0)
      (fun x y => sesSample (getSes n k.val) 1 x y ++ sesSample (getSes n k.val) 2 x y) (popEntry (cdFree (getSes s k.val).open_) n) = (v, stOK) := by
    rw [← hput, putPicture, hopen]
  have hv : Reached n v := by
    have h := (posted_popEntry (cdFree (getSes s k.val).open_) n).reached.trans (reached_putImage (congrArg Prod.snd hput'))
    rwa [hput'] at h
  have hdone : decodeDone k.val c s = pushEntry (cdOut (getSes s k.val).open_)
        (picRec ((headEntry s (cdFree (getSes s k.val).open_)).take 32) (field (pieceOf s k.val) 16 8)
          (2 * b2n (bitOf (field (pieceOf s k.val) 12 1) 0 && decide (picsLeft (getSes s k.val) = 1)) + 4 * b2n c)
          (field (pieceOf s k.val) 24 8))
        (picOut k.val (if c = true then decodeError k.val 1 (field (pieceOf s k.val) 16 8) v else v)) := by
    unfold decodeDone
    dsimp only
    rw [if_neg hready, if_pos hfirst, htile, if_neg Bool.false_ne_true]
    rw [show (modSes s k.val fun x => { x with errs := x.errs.take x.count ++ [c] }) = n from rfl]
    rw [dropBad_of_ok (by rw [hhead]; exact hpic), hhead, hput', hleft]
    rw [if_neg (show ¬(!canPush n (cdOut (getSes s k.val).open_) || decide ((getQ n (cdFree (getSes s k.val).open_)).len = 0)) = true by
      rw [show canPush n = canPush s from rfl, show getQ n = getQ s from rfl, hpush]
      simp [hfree])]
    rfl
  have hclosed : (getSes (decodeDone k.val c s) k.val).closing = none := by
    rw [hdone, getSes, (posted_pushEntry ..).media, ← getSes, picOut, getSes_modSes_same]
    have hsame : getSes (if c = true then decodeError k.val 1 (field (pieceOf s k.val) 16 8) v else v) k.val = getSes v k.val := by
      split <;> rfl
    rw [hsame, getSes_of_reached hv, hses]
    exact hruns.2.2.2.2.2.2
  have hkind' : r.kind.val ≠ 2 := by omega
  refine ⟨_, exec_codecPictureDone_decoder hruns hdec hready, ?_⟩
  dsimp only
  rw [if_neg hkind', closeSesIfDone_of_open hclosed, hdone]
  simp only [hc, beq_iff_eq]

/-! ### Encoder sessions -/

theorem takePics_of_empty {k : Nat} {s : State} (h : (getQ s (cdIn (getSes s k).open_)).len = 0) (n : Nat) : takePics k n s = s := by
  cases n with
  | zero => rfl
  | succ n =>
    unfold takePics
    dsimp only
    rw [h]
    exact if_pos (.inr (.inl h))

theorem eraseIdx_length_add_one {α : Type} {l : List α} (h : l ≠ []) (i : Nat) : (l.eraseIdx (i % max 1 l.length)).length + 1 = l.length := by
  have hpos : 0 < l.length := List.length_pos_iff.2 h
  have hlt : i % max 1 l.length < l.length := by
    rw [Nat.max_eq_right hpos]
    exact Nat.mod_lt _ hpos
  rw [List.length_eraseIdx_of_lt hlt]
  omega

theorem field_take {bs : List Byte} {off n len : Nat} (h : off + n ≤ len) : field (bs.take len) off n = field bs off n := by
  unfold field
  rw [List.drop_take, List.take_take, Nat.min_eq_left (by omega)]

theorem runs_codecPictureDone_encoder {k : Fin 64} {r : CodecResult} {s v w : State} {p0 p1 : List (List Byte)} (hruns : SesRuns k.val s)
    (hdec : cdDec (getSes s k.val).open_ = false) (hwork : (getSes s k.val).work ≠ []) (hin : (getQ s (cdIn (getSes s k.val).open_)).len = 0)
    (hpush : canPush s (cdOut (getSes s k.val).open_) = true)
    (hget : getImage (sesIni k.val) ((encRec s k.val).take 32) 0 (field (encRec s k.val) 8 2) 0 (field (encRec s k.val) 10 2) s = (v, stOK, p0, p1))
    (hfits : r.bytes ≤ (encBuf v k.val).2)
    (hput : busWrite (sesIni k.val) (encBuf v k.val).1 ((List.range r.bytes).map
      (Config.encByte (runSlot v).release ((getSes s k.val).open_.take 12 ++ (getSes s k.val).open_.drop 36) (encFed s k.val p0 p1))) v = (w, stOK)) :
    Runs (.codecPictureDone k r) s fun t =>
      ∃ u, t = pushEntry (cdOut (getSes s k.val).open_) (bitRec (encBuf v k.val).1 r.bytes
          (b2n (bitOf (field (encRec s k.val) 40 1) 1) + 4 * b2n (encIdr s k.val)) (field (encRec s k.val) 32 8) (field (encRec s k.val) 48 8)) u ∧
        u = { w with media := u.media } ∧ (getSes u k.val).count = (getSes s k.val).count + 1 ∧
        (getSes u k.val).sinceIdr = (if encIdr s k.val then 0 else (getSes s k.val).sinceIdr + 1) ∧
        (getSes u k.val).work.length + 1 = (getSes s k.val).work.length ∧ (getSes u k.val).fed = encFed s k.val p0 p1 ∧
        ∀ j, j ≠ k.val → getSes u j = getSes s j := by
  have hv : Reached s v := by
    have h := reached_getImage (congrArg (·.2.1) hget)
    rwa [hget] at h
  have hw : Reached v w := by
    have h := reached_busWrite (congrArg Prod.snd hput)
    rwa [hput] at h
  set i := Config.encNext ((getSes s k.val).open_.take 12 ++ (getSes s k.val).open_.drop 36) (getSes s k.val).count %
    max 1 (getSes s k.val).work.length with hi
  set u := modSes w k.val fun x => { x with
    sinceIdr := if encIdr s k.val then 0 else x.sinceIdr + 1, count := x.count + 1, fed := encFed s k.val p0 p1
    work := x.work.eraseIdx i, due := x.due.eraseIdx i } with hu
  have hbuf : encBuf v k.val = (field (memRead v ((getQ v (cdOut (getSes s k.val).open_)).slotAddr (getQ v (cdOut (getSes s k.val).open_)).tail) 32) 0 6,
      field (memRead v ((getQ v (cdOut (getSes s k.val).open_)).slotAddr (getQ v (cdOut (getSes s k.val).open_)).tail) 32) 8 4) := by
    unfold encBuf
    rw [getSes_of_reached hv]
  have hdone : encodeDone k.val r.bytes s = pushEntry (cdOut (getSes s k.val).open_) (bitRec (encBuf v k.val).1 r.bytes
      (b2n (bitOf (field (encRec s k.val) 40 1) 1) + 4 * b2n (encIdr s k.val)) (field (encRec s k.val) 32 8) (field (encRec s k.val) 48 8)) u := by
    have hwork' : (getSes s k.val).work.isEmpty = false := List.isEmpty_eq_false_iff.2 hwork
    rw [hbuf] at hfits hput ⊢
    have hpx : getImage (sesIni k.val) ((encRec s k.val).take 32) 0 (field ((encRec s k.val).take 32) 8 2) 0
        (field ((encRec s k.val).take 32) 10 2) s = (v, stOK, p0, p1) := by
      rw [field_take (by decide), field_take (by decide), hget]
    have hrec : (getSes s k.val).work.getD i [] = encRec s k.val := rfl
    unfold encodeDone
    dsimp only
    rw [if_neg (show ¬((getSes s k.val).work.isEmpty || !canPush s (cdOut (getSes s k.val).open_)) = true by simp [hwork', hpush]), hrec, hpx]
    dsimp only
    have hidr : (decide ((getSes s k.val).count = 0) || bitOf (field (encRec s k.val) 40 1) 0 ||
        decide (field (getSes s k.val).open_ 48 2 ≠ 0) && decide (field (getSes s k.val).open_ 48 2 ≤ (getSes s k.val).sinceIdr)) =
        encIdr s k.val := rfl
    have hfed : (getSes s k.val).fed ++ [(p0.flatten ++ p1.flatten, encIdr s k.val)] = encFed s k.val p0 p1 := rfl
    dsimp only at hfits hput
    rw [if_neg (not_not.2 rfl), hidr, hfed, Nat.min_eq_left hfits, hput, if_neg (not_not.2 rfl)]
    simp only [Nat.not_lt.2 hfits, decide_false, Bool.false_eq_true, if_false]
    rfl
  have hsame : getSes w k.val = getSes s k.val := (getSes_of_reached hw _).trans (getSes_of_reached hv _)
  have hses : getSes u k.val = { getSes s k.val with
      sinceIdr := if encIdr s k.val then 0 else (getSes s k.val).sinceIdr + 1, count := (getSes s k.val).count + 1, fed := encFed s k.val p0 p1
      work := (getSes s k.val).work.eraseIdx i, due := (getSes s k.val).due.eraseIdx i } := by rw [hu, getSes_modSes_same, hsame]
  have hclosed : (getSes (encodeDone k.val r.bytes s) k.val).closing = none := by
    rw [hdone, getSes, (posted_pushEntry ..).media, ← getSes, hses]
    exact hruns.2.2.2.2.2.2
  have hexec := exec_codecPictureDone_encoder (r := r) hruns hdec
  rw [takePics_of_empty hin, closeSesIfDone_of_open hclosed] at hexec
  refine ⟨_, hexec, u, hdone, rfl, congrArg Session.count hses, congrArg Session.sinceIdr hses, ?_, congrArg Session.fed hses, fun j hj => ?_⟩
  · rw [hses]
    exact eraseIdx_length_add_one hwork _
  · rw [hu, getSes_modSes_ne _ _ hj, getSes_of_reached hw, getSes_of_reached hv]

/-! ### A stream outside its session's limits -/

theorem runs_codecPictureDone_outside {k : Fin 64} {r : CodecResult} {s : State} (hruns : SesRuns k.val s)
    (hdec : cdDec (getSes s k.val).open_ = true) (htile : cdTile (getSes s k.val).open_ = true) (hready : picsLeft (getSes s k.val) ≠ 0)
    (hkind : r.kind.val = 2) :
    Runs (.codecPictureDone k r) s fun t => t = { s with media := t.media, caddy := t.caddy, safe := t.safe } ∧
      getSes t k.val = { getSes s k.val with stopped := stBAD_ARG, work := [], pieces := [], pics := 0, due := [], tile := 0 } ∧
      Logs 0x8008 (0x5000 + k.val) (leBytes 1 k.val ++ leBytes 1 2 ++ leBytes 4 (field ((getSes s k.val).pieces.getLastD ([], [])).1 16 8)) s t ∧
      ∀ j, j ≠ k.val → getSes t j = getSes s j := by
  set u := decodeError k.val 2 (field ((getSes s k.val).pieces.getLastD ([], [])).1 16 8) s with hu
  set t := modSes u k.val fun x => { x with stopped := stBAD_ARG, work := [], pieces := [], pics := 0, due := [], tile := 0 } with ht
  have hses : getSes t k.val = { getSes s k.val with stopped := stBAD_ARG, work := [], pieces := [], pics := 0, due := [], tile := 0 } :=
    getSes_modSes_same ..
  have hclosed : (getSes t k.val).closing = none := by
    rw [hses]
    exact hruns.2.2.2.2.2.2
  have hout : outside k.val s = t := by
    unfold outside haltSes
    simp only [htile, Bool.not_true, Bool.false_and, Bool.false_eq_true, if_false, if_true]
    exact closeSesIfDone_of_open hclosed
  have hexec := exec_codecPictureDone_decoder (r := r) hruns hdec hready
  rw [if_pos hkind, hout, closeSesIfDone_of_open hclosed] at hexec
  refine ⟨t, hexec, rfl, hses, logs_event (s := s) (u := s) (by simp) rfl rfl rfl rfl, fun j hj => ?_⟩
  exact getSes_modSes_ne u _ hj

/-- Settles O32. -/
theorem scanOutAndCodec : Obligations.ScanOutAndCodec :=
  ⟨⟨fun _ _ => runs_scanoutUnderflow, fun _ _ => runs_vblankLatch_background, fun _ _ _ _ => runs_vblankLatch_layers,
      fun _ _ _ => runs_vblankLatch_stop, fun _ _ _ _ _ => runs_vblankLatch_flip⟩,
    fun _ _ _ _ => runs_codecPictureDone_decoder, fun _ _ _ _ _ _ _ => runs_codecPictureDone_encoder,
    fun _ _ _ => runs_codecPictureDone_outside⟩

end Sys2Proof.Machine

/-! Capture: frames, their lines and ends, tiles, and the times they carry (R293 to R296, R303, R329). -/

namespace Sys2Proof.Machine
open Sys2Proof.Claims

/-! ### Changes of one stream -/

theorem streamOnly_refl (k : Nat) (s : State) : StreamOnly k s s := ⟨rfl, fun _ _ => rfl⟩

theorem streamOnly_modStr {k : Nat} {s t : State} (h : StreamOnly k s t) (f : Stream → Stream) : StreamOnly k s (modStr t k f) :=
  ⟨(congrArg (modStr · k f) h.1).trans rfl, fun j hj => (getStr_modStr_ne t f hj).trans (h.2 j hj)⟩

theorem streamOnly_event {k : Nat} {s t : State} (h : StreamOnly k s t) (src code party : Nat) (args : List Byte) :
    StreamOnly k s (event src code party args t) :=
  ⟨(event_frame src code party args t).trans ((congrArg (fun u : State => { u with
    caddy := (event src code party args t).caddy, safe := (event src code party args t).safe }) h.1).trans rfl), h.2⟩

theorem getStr_event (src code party k : Nat) (args : List Byte) (s : State) : getStr (event src code party args s) k = getStr s k := rfl

theorem streamOnly_modFrame {k : Nat} {s t : State} (h : StreamOnly k s t) (f : Frame → Frame) : StreamOnly k s (modFrame t k f) :=
  streamOnly_modStr h _

theorem getStr_modFrame {s : State} {k : Nat} {f : Frame} (h : (getStr s k).frame = some f) (g : Frame → Frame) :
    getStr (modFrame s k g) k = { getStr s k with frame := some (g f) } := by
  rw [modFrame, getStr_modStr_same, h, Option.map_some]

theorem frame_modFrame {s : State} {k : Nat} {f : Frame} (h : (getStr s k).frame = some f) (g : Frame → Frame) :
    (getStr (modFrame s k g) k).frame = some (g f) := congrArg Stream.frame (getStr_modFrame h g)

/-! ### Packets (R289, R293, R294) -/

section
variable {r : Fin 4} {k : Nat} {vc : BitVec 4} {s : State}

theorem mem_strOn (h : strOn s r vc none = [k]) : k / 4 = r ∧ (getStr s k).owner ≠ 0 := by
  have hmem : k ∈ strOn s r vc none := by rw [h]; exact List.mem_singleton_self k
  obtain ⟨hrange, hopen⟩ := List.mem_filter.1 hmem
  obtain ⟨i, hi, rfl⟩ := List.mem_map.1 hrange
  have := List.mem_range.1 hi
  simp only [Bool.and_true, Bool.and_eq_true, decide_eq_true_eq] at hopen
  exact ⟨by omega, hopen.1⟩

theorem strOn_type {dt : BitVec 8} (h : strOn s r vc none = [k]) (hdt : field (getStr s k).conf 2 1 = dt.toNat) :
    strOn s r vc (some dt) = [k] := by
  have hsplit : strOn s r vc (some dt) = (strOn s r vc none).filter fun k => decide (field (getStr s k).conf 2 1 = dt.toNat) := by
    unfold strOn
    rw [List.filter_filter]
    refine List.filter_congr fun x _ => ?_
    simp only [Bool.and_true]
    rw [Bool.and_comm]
  rw [hsplit, h]
  simp [hdt]

/-- A receiver that takes packets takes this one. -/
theorem exec_csiPacket (h : Listens r.val k vc s) (p : CsiPacket) : exec (.csiPacket r p) s = .next (match p with
    | .frameStart vc =>
      let dz := dozing s
      let st := rcvCounter s r
      (strOn s r vc none).foldl (fun s k => startFrame dz k st.1 none s) st.2
    | .line vc dt data ok =>
      let s := if dt = 0x12#8 && !(strOn s r vc (some dt)).isEmpty then embedded r vc data s else s
      (strOn s r vc (some dt)).foldl (fun s k => lineIn k data ok s) s
    | .badHeader vc dt => (strOn s r vc (some dt)).foldl (fun s k =>
        if (match (getStr s k).frame with | some f => f.dropped || f.ended | none => true) then s
        else modFrame s k fun f => { f with err := true, short := true, errs := f.errs + 1, lines := f.lines + 1, lost := f.lost + 1
                                            rows := f.rows ++ [none]
                                            kind := if f.errs = 0 then 1 else f.kind }) s
    | .overflow vc dt => (strOn s r vc (some dt)).foldl (fun s k =>
        if cMode (getStr s k).conf = 1 then s else modFrame s k fun f => { f with discard := true, short := true }) s
    | .frameEnd vc => (strOn s r vc none).foldl (fun s k => endFrame k false s) s) := by
  obtain ⟨hsup, hheld, hrun, -, -, -, hpll, -⟩ := h
  show execCsiPacket r p s = _
  unfold execCsiPacket
  dsimp only
  rw [if_neg (by simp [hsup, hheld, hrun, hpll])] <;> rfl

/-! #### Frame starts -/

/-- The state in which a frame's number is taken. -/
abbrev numbered (r k : Nat) (s : State) : State := modStr (rcvCounter s r).2 k fun t => { t with frames := ((getStr s k).frames + 1) % 2 ^ 64 }

theorem streamOnly_numbered (r k : Nat) (s : State) : StreamOnly k s (numbered r k s) := by
  refine streamOnly_modStr (t := (rcvCounter s r).2) ⟨rfl, fun _ _ => rfl⟩ _

theorem cutFrame_of_none {k : Nat} {s : State} (h : (getStr s k).frame = none) : cutFrame k s = s := by
  have hend : endFrame k true s = s := by
    unfold endFrame
    dsimp only
    rw [h]
  unfold cutFrame
  rw [hend]
  dsimp only
  rw [h]

theorem applyTune_of_none {k num : Nat} {s : State} (h : (getStr s k).tuneNext = none) : applyTune k num s = s := by
  unfold applyTune
  rw [h]

theorem wakeFrom_of_run (doze : Bool) (cls inst : Nat) {s : State} (hpark : s.pw.parking = 0) (hrun : s.pw.st = .run) :
    wakeFrom doze cls inst s = s := by
  unfold wakeFrom
  simp [hpark, hrun]

theorem startFrame_next {stamp : Nat} (h : Listens r.val k vc s) (hstopped : (getStr s k).stopped = 0) (hframe : (getStr s k).frame = none)
    (htune : (getStr s k).tuneNext = none) (hblock : blockOff s 5 k = false) (hrcv : blockOff s 7 r.val = false) :
    startFrame (dozing s) k stamp none (rcvCounter s r).2 =
      if freeSlots s (cOut (getStr s k).conf) < 2 then dropFrame k (((getStr s k).frames + 1) % 2 ^ 64) (some 0) (numbered r k s)
      else modStr (numbered r k s) k fun x => { x with before := false
                                                       frame := some {
          buf := (getQ s (cOut (getStr s k).conf)).tail % (getQ s (cOut (getStr s k).conf)).n, num := ((getStr s k).frames + 1) % 2 ^ 64
          at_ := s.ktime, arrival := stamp, sensor := none
          conv := if cStamp (getStr s k).conf = 2 then (getStr s k).fit else arrivalConv (numbered r k s) k, before := x.before } } := by
  obtain ⟨-, -, hrun, hpark, hdoze, hforced, -, hon⟩ := h
  obtain ⟨hk, howner⟩ := mem_strOn hon
  have hdz : dozing s = false := by simp [dozing, hrun, hdoze, hforced]
  have heth : isEth k = false := by
    have := r.isLt
    simp only [isEth, decide_eq_false_iff_not]
    omega
  have htune' : (getStr (numbered r k s) k).tuneNext = none := by
    rw [numbered, getStr_modStr_same]
    exact htune
  unfold startFrame
  dsimp only
  rw [hdz, cutFrame_of_none (s := (rcvCounter s r).2) hframe]
  rw [show getStr (rcvCounter s r).2 k = getStr s k from rfl, if_neg (not_or.2 ⟨howner, not_not.2 hstopped⟩), if_neg Bool.false_ne_true]
  rw [applyTune_of_none htune', wakeFrom_of_run (s := numbered r k s) true 3 k hpark hrun]
  rw [if_neg (show ¬(blockOff (numbered r k s) 5 k || (!isEth k && blockOff (numbered r k s) 7 (k / 4))) = true by
    rw [hk, show blockOff (numbered r k s) = blockOff s from rfl, hblock, hrcv, heth]
    decide)]
  rfl

theorem runs_frameStart_room (h : Listens r.val k vc s) (hstopped : (getStr s k).stopped = 0) (hframe : (getStr s k).frame = none)
    (htune : (getStr s k).tuneNext = none) (hblock : blockOff s 5 k = false) (hrcv : blockOff s 7 r.val = false)
    (hroom : 2 ≤ freeSlots s (cOut (getStr s k).conf)) :
    Runs (.csiPacket r (.frameStart vc)) s fun t => StreamOnly k s t ∧ t.caddy = s.caddy ∧
      (getStr t k).frames = ((getStr s k).frames + 1) % 2 ^ 64 ∧
      ∃ f, (getStr t k).frame = some f ∧ f.num = ((getStr s k).frames + 1) % 2 ^ 64 ∧ f.dropped = false ∧ f.lines = 0 ∧ f.at_ = s.ktime ∧
        f.buf = (getQ s (cOut (getStr s k).conf)).tail % (getQ s (cOut (getStr s k).conf)).n ∧ f.before = (getStr s k).before := by
  have hexec := exec_csiPacket h (.frameStart vc)
  dsimp only at hexec
  rw [h.2.2.2.2.2.2.2, List.foldl_cons, List.foldl_nil, startFrame_next h hstopped hframe htune hblock hrcv,
    if_neg (Nat.not_lt.2 hroom)] at hexec
  refine ⟨_, hexec, streamOnly_modStr (streamOnly_numbered r k s) _, rfl, ?_, ?_⟩
  · rw [getStr_modStr_same, numbered, getStr_modStr_same]
  · rw [getStr_modStr_same, numbered, getStr_modStr_same]
    exact ⟨_, rfl, rfl, rfl, rfl, rfl, rfl, rfl⟩

theorem runs_frameStart_full (h : Listens r.val k vc s) (hstopped : (getStr s k).stopped = 0) (hframe : (getStr s k).frame = none)
    (htune : (getStr s k).tuneNext = none) (hblock : blockOff s 5 k = false) (hrcv : blockOff s 7 r.val = false)
    (hfull : freeSlots s (cOut (getStr s k).conf) < 2) :
    Runs (.csiPacket r (.frameStart vc)) s fun t => StreamOnly k s t ∧ (getStr t k).before = true ∧
      (getStr t k).dropped = (getStr s k).dropped.add 1 ∧ (∃ f, (getStr t k).frame = some f ∧ f.dropped = true) ∧
      Logs 0x9002 srcAfzan (leBytes 1 k ++ leBytes 1 0 ++ leBytes 4 (((getStr s k).frames + 1) % 2 ^ 64)) s t := by
  have hexec := exec_csiPacket h (.frameStart vc)
  dsimp only at hexec
  rw [h.2.2.2.2.2.2.2, List.foldl_cons, List.foldl_nil, startFrame_next h hstopped hframe htune hblock hrcv, if_pos hfull] at hexec
  have hstr : getStr (dropFrame k (((getStr s k).frames + 1) % 2 ^ 64) (some 0) (numbered r k s)) k = { getStr s k with
      frames := ((getStr s k).frames + 1) % 2 ^ 64, dropped := (getStr s k).dropped.add 1, before := true
      frame := some { dropped := true, num := ((getStr s k).frames + 1) % 2 ^ 64, at_ := s.ktime } } := by
    unfold dropFrame
    dsimp only
    rw [getStr_modStr_same, getStr_event, numbered, getStr_modStr_same]
    rfl
  refine ⟨_, hexec, streamOnly_modStr (streamOnly_event (streamOnly_numbered r k s) ..) _, by rw [hstr], by rw [hstr], ⟨_, by rw [hstr], rfl⟩, ?_⟩
  exact logs_event (s := s) (u := numbered r k s) (by simp) rfl rfl rfl rfl

/-! #### Lines -/

theorem exec_line {dt : BitVec 8} (h : Listens r.val k vc s) (hdt : field (getStr s k).conf 2 1 = dt.toNat) (hne : dt ≠ 0x12#8)
    (data : List Byte) (crc : Bool) : exec (.csiPacket r (.line vc dt data crc)) s = .next (lineIn k data crc s) := by
  rw [exec_csiPacket h]
  dsimp only
  rw [if_neg (by simp [hne]), strOn_type h.2.2.2.2.2.2.2 hdt, List.foldl_cons, List.foldl_nil]

theorem runs_line_isp {dt : BitVec 8} {data : List Byte} {f : Frame} (h : Listens r.val k vc s)
    (hdt : field (getStr s k).conf 2 1 = dt.toNat) (hne : dt ≠ 0x12#8) (hin : InFrame k f s) (hup : fabricUp s = true)
    (hmode : cMode (getStr s k).conf ≠ 1) (hlines : f.lines < cHeight (getStr s k).conf * cExp (getStr s k).conf) :
    Runs (.csiPacket r (.line vc dt data true)) s fun t => StreamOnly k s t ∧
      getStr t k = { getStr s k with frame := some { f with lines := f.lines + 1, rows := f.rows ++ [some data] } } := by
  obtain ⟨hframe, hdropped, hended, hdiscard⟩ := hin
  have hline : lineIn k data true s = modFrame s k fun f => { f with lines := f.lines + 1, rows := f.rows ++ [some data] } := by
    unfold lineIn
    rw [hframe]
    simp only [hdropped, hended, hdiscard, hup, Bool.not_true, Bool.or_self, Bool.false_eq_true, if_false, if_true, hmode, Nat.not_le.2 hlines]
  refine ⟨_, exec_line h hdt hne data true, ?_⟩
  rw [hline]
  exact ⟨streamOnly_modFrame (streamOnly_refl k s) _, getStr_modFrame hframe _⟩

theorem runs_line_bypass {dt : BitVec 8} {data : List Byte} {v : State} {f : Frame} (h : Listens r.val k vc s)
    (hdt : field (getStr s k).conf 2 1 = dt.toNat) (hne : dt ≠ 0x12#8) (hin : InFrame k f s) (hup : fabricUp s = true)
    (hmode : cMode (getStr s k).conf = 1) (hlines : f.lines < cHeight (getStr s k).conf * cExp (getStr s k).conf)
    (hwidth : data.length ≤ cWidth (getStr s k).conf)
    (hsize : f.lines * field (cImage (getStr s k).conf) 16 4 + data.length ≤ field (cImage (getStr s k).conf) 20 4)
    (hput : busWrite (strIni s k) (field (cImage (getStr s k).conf) 0 6 + f.buf * field (cImage (getStr s k).conf) 20 4 +
      f.lines * field (cImage (getStr s k).conf) 16 4) data s = (v, stOK)) :
    Runs (.csiPacket r (.line vc dt data true)) s fun t => t = modStr v k (fun _ =>
      { getStr v k with frame := (getStr v k).frame.map fun g => { g with lines := g.lines + 1, bytes := g.bytes + data.length, trunc := g.trunc || false } }) := by
  obtain ⟨hframe, hdropped, hended, hdiscard⟩ := hin
  have htake : (data.take (cWidth (getStr s k).conf)).take
      (field (cImage (getStr s k).conf) 20 4 - f.lines * field (cImage (getStr s k).conf) 16 4) = data := by
    rw [List.take_of_length_le hwidth, List.take_of_length_le (by omega)]
  have hline : lineIn k data true s = modFrame v k fun g => { g with lines := g.lines + 1, bytes := g.bytes + data.length, trunc := g.trunc || false } := by
    unfold lineIn
    rw [hframe]
    simp only [hdropped, hended, hdiscard, hup, Bool.not_true, Bool.or_self, Bool.false_eq_true, if_false, if_true, hmode, bypassLine,
      Nat.not_le.2 hlines, htake, hput, Nat.lt_irrefl, decide_false, ne_eq, not_true_eq_false]
  refine ⟨_, exec_line h hdt hne data true, ?_⟩
  rw [hline]
  rfl

theorem runs_badHeader {dt : BitVec 8} {f : Frame} (h : Listens r.val k vc s) (hdt : field (getStr s k).conf 2 1 = dt.toNat) (hin : InFrame k f s) :
    Runs (.csiPacket r (.badHeader vc dt)) s fun t => StreamOnly k s t ∧ getStr t k = { getStr s k with frame := some { f with
      err := true, short := true, errs := f.errs + 1, lines := f.lines + 1, lost := f.lost + 1, rows := f.rows ++ [none]
      kind := if f.errs = 0 then 1 else f.kind } } := by
  obtain ⟨hframe, hdropped, hended, -⟩ := hin
  have hexec := exec_csiPacket h (.badHeader vc dt)
  dsimp only at hexec
  rw [strOn_type h.2.2.2.2.2.2.2 hdt, List.foldl_cons, List.foldl_nil, hframe, if_neg (by simp [hdropped, hended])] at hexec
  exact ⟨_, hexec, streamOnly_modFrame (streamOnly_refl k s) _, getStr_modFrame hframe _⟩

theorem runs_overflow {dt : BitVec 8} {f : Frame} (h : Listens r.val k vc s) (hdt : field (getStr s k).conf 2 1 = dt.toNat) (hin : InFrame k f s)
    (hmode : cMode (getStr s k).conf ≠ 1) :
    Runs (.csiPacket r (.overflow vc dt)) s fun t => StreamOnly k s t ∧
      getStr t k = { getStr s k with frame := some { f with discard := true, short := true } } := by
  have hexec := exec_csiPacket h (.overflow vc dt)
  dsimp only at hexec
  rw [strOn_type h.2.2.2.2.2.2.2 hdt, List.foldl_cons, List.foldl_nil, if_neg hmode] at hexec
  exact ⟨_, hexec, streamOnly_modFrame (streamOnly_refl k s) _, getStr_modFrame hin.1 _⟩

/-! #### Frame ends -/

theorem exec_frameEnd (h : Listens r.val k vc s) : exec (.csiPacket r (.frameEnd vc)) s = .next (endFrame k false s) := by
  rw [exec_csiPacket h]
  dsimp only
  rw [h.2.2.2.2.2.2.2, List.foldl_cons, List.foldl_nil]

/-- The input of a frame without errors ends while its tiles wait. -/
theorem endFrame_tiles {f : Frame} (cut : Bool) (hin : InFrame k f s) (hmode : cMode (getStr s k).conf = 2)
    (hstats : cStats (getStr s k).conf = 0) (herrs : f.errs = 0) (htile : f.tile < tileCount (getStr s k).conf) :
    endFrame k cut s = modStr s k fun t => { t with frame := some { f with short := f.short || cut, ended := true } } := by
  obtain ⟨hframe, hdropped, hended, -⟩ := hin
  unfold endFrame
  dsimp only
  rw [hframe]
  simp only [hdropped, hended, herrs, hmode, hstats, htile, Bool.false_eq_true, if_false, if_true, ne_eq, not_true_eq_false, decide_false,
    Bool.false_and, or_true, OfNat.ofNat_ne_zero, false_and, and_self]

theorem runs_frameEnd_tiles {f : Frame} (h : Listens r.val k vc s) (hin : InFrame k f s) (hmode : cMode (getStr s k).conf = 2)
    (hstats : cStats (getStr s k).conf = 0) (herrs : f.errs = 0) (htile : f.tile < tileCount (getStr s k).conf) :
    Runs (.csiPacket r (.frameEnd vc)) s fun t => StreamOnly k s t ∧ getStr t k = { getStr s k with frame := some { f with ended := true } } := by
  refine ⟨_, exec_frameEnd h, ?_⟩
  rw [endFrame_tiles false hin hmode hstats herrs htile]
  refine ⟨streamOnly_modStr (streamOnly_refl k s) _, ?_⟩
  rw [getStr_modStr_same, Bool.or_false]

end

/-! #### The record of a bypass frame -/

theorem refit_of_none {k : Nat} {f : Frame} (h : f.sensor = none) (s : State) : refit k f s = s := by
  unfold refit
  rw [h]

theorem closeIfAsked_of_none {k : Nat} {s : State} (h : (getStr s k).closing = []) : closeIfAsked k s = s := by
  unfold closeIfAsked
  dsimp only
  rw [h]
  rfl

/-- The state in which a frame's record is pushed, and the record. -/
structure FrameOut (k : Nat) (f : Frame) (s u : State) (bs : List Byte) : Prop where
  only : StreamOnly k s u
  frame : (getStr u k).frame = none
  closing : (getStr u k).closing = (getStr s k).closing
  length : bs.length = 32
  num : f.num < 2 ^ 64 → field bs 8 8 = f.num

theorem streamOnly_stamps (k : Nat) (f : Frame) (s : State) : StreamOnly k s (stamps s k f).2 ∧ getStr (stamps s k f).2 k = getStr s k := by
  unfold stamps
  dsimp only
  split
  · exact ⟨streamOnly_refl k s, rfl⟩
  · split
    · exact ⟨⟨rfl, fun _ _ => rfl⟩, rfl⟩
    · split
      · exact ⟨⟨rfl, fun _ _ => rfl⟩, rfl⟩
      · exact ⟨streamOnly_refl k s, rfl⟩

/-- A frame without a sensor stamp is pushed, where its stream does not close. -/
theorem pushFrame_effect {k : Nat} {f : Frame} {s : State} (hsensor : f.sensor = none) (hclosing : (getStr s k).closing = [])
    (hpush : canPush s (cOut (getStr s k).conf) = true) :
    ∃ u bs, FrameOut k f s u bs ∧ pushFrame k f s = pushEntry (cOut (getStr s k).conf) bs u := by
  unfold pushFrame
  extract_lets t c got short st s1 flags size bs s2 s3 s4 s5
  obtain ⟨hstamps, hstr⟩ := streamOnly_stamps k f s
  have h2 : StreamOnly k s s2 := by
    unfold s2
    split
    · exact streamOnly_event hstamps ..
    · exact hstamps
  have hstr2 : getStr s2 k = getStr s k := by
    unfold s2
    split <;> exact hstr
  have h3 : StreamOnly k s s3 := streamOnly_modStr h2 _
  have hstr3 : (getStr s3 k).frame = none ∧ (getStr s3 k).closing = (getStr s k).closing := by
    unfold s3
    rw [getStr_modStr_same, hstr2]
    exact ⟨rfl, rfl⟩
  have h4 : s4 = s3 := refit_of_none hsensor s3
  have hpush4 : canPush s4 (cOut c) = true := by
    rw [h4, show s3 = _ from h3.1]
    exact hpush
  have h5 : s5 = pushEntry (cOut (getStr s k).conf) bs s3 := by
    unfold s5
    rw [if_pos hpush4, h4]
  refine ⟨s3, bs, ⟨h3, hstr3.1, hstr3.2, ?_, fun hnum => ?_⟩, ?_⟩
  · simp [bs]
  · have hfield := field_leBytes (off := 8) (a := leBytes 1 k ++ leBytes 1 flags ++ leBytes 1 (if cMode c = 2 then 0xFF else f.buf) ++ leBytes 1 0 ++
      leBytes 4 size) (b := leBytes 8 st.1.1 ++ leBytes 8 st.1.2) (by simp) 8 f.num
    rw [Nat.mod_eq_of_lt (show f.num < 256 ^ 8 by omega)] at hfield
    rw [← hfield]
    simp only [bs, List.append_assoc]
  · rw [h5]
    refine closeIfAsked_of_none ?_
    rw [getStr, (posted_pushEntry ..).cap, ← getStr, hstr3.2, hclosing]

theorem runs_frameEnd_bypass {r : Fin 4} {k : Nat} {vc : BitVec 4} {s : State} {f : Frame} (h : Listens r.val k vc s) (hin : InFrame k f s)
    (hmode : cMode (getStr s k).conf = 1) (herrs : f.errs = 0) (hsensor : f.sensor = none) (hclosing : (getStr s k).closing = [])
    (hnum : f.num < 2 ^ 64) (hpush : canPush s (cOut (getStr s k).conf) = true) (hkind : (getQ s (cOut (getStr s k).conf)).kind = 1)
    (hesize : (getQ s (cOut (getStr s k).conf)).esize = 1)
    (hopen : PlaceOpen s ((getQ s (cOut (getStr s k).conf)).slotAddr (getQ s (cOut (getStr s k).conf)).tail) 32) :
    Runs (.csiPacket r (.frameEnd vc)) s fun t => Pushed (cOut (getStr s k).conf) s t ∧ (getStr t k).frame = none ∧
      (∀ j, j ≠ k → getStr t j = getStr s j) ∧
      field (memRead t ((getQ s (cOut (getStr s k).conf)).slotAddr (getQ s (cOut (getStr s k).conf)).tail) 32) 8 8 = f.num := by
  obtain ⟨hframe, hdropped, hended, -⟩ := hin
  set q := cOut (getStr s k).conf with hq
  obtain ⟨u, bs, hout, heq⟩ := pushFrame_effect (f := { f with short := f.short || false }) hsensor hclosing hpush
  have hend : endFrame k false s = pushFrame k { f with short := f.short || false } s := by
    unfold endFrame
    dsimp only
    rw [hframe]
    simp only [hdropped, hended, herrs, hmode, Bool.false_eq_true, if_false, if_true, ne_eq, not_true_eq_false, decide_false,
      Bool.false_and, true_or, OfNat.one_ne_ofNat, one_ne_zero, false_and]
  have hcapq : u.queue = s.queue ∧ u.lv = s.lv ∧ u.mem = s.mem := by
    rw [show u = _ from hout.only.1]
    exact ⟨rfl, rfl, rfl⟩
  obtain ⟨hqueue, hlv, hmem⟩ := hcapq
  have hgetQ : getQ u q = getQ s q := by rw [getQ, hqueue, ← getQ]
  have hentry : entryOf (getQ u q) bs = bs := by
    unfold entryOf
    rw [hgetQ, if_neg (by rw [hkind]; decide)]
  have hcells : (pushEntry q bs u).mem.cells = twrite s.mem.cells (tailSlot (getQ s q)) bs := by
    rw [pushEntry_cells, hentry, hgetQ, hmem]
    rw [hentry, hgetQ, hout.length]
    unfold PlaceOpen segsOf getLeaf at hopen ⊢
    rw [hlv]
    exact hopen
  refine ⟨_, exec_frameEnd h, ?_⟩
  rw [hend, heq]
  refine ⟨?_, ?_, fun j hj => ?_, ?_⟩
  · have hpushed := pushed_pushEntry q bs u
    unfold Pushed getQ at hpushed ⊢
    rw [hqueue] at hpushed
    exact hpushed
  · rw [getStr, (posted_pushEntry ..).cap, ← getStr]
    exact hout.frame
  · rw [getStr, (posted_pushEntry ..).cap, ← getStr]
    exact hout.only.2 j hj
  · show field (tread (pushEntry q bs u).mem.cells (tailSlot (getQ s q)) 32) 8 8 = f.num
    rw [hcells, ← hout.length, tread_twrite]
    exact hout.num hnum


theorem runs_missingFrameEnd {k : Fin 24} {s : State} {f : Frame} (hin : InFrame k.val f s)
    (hlate : 2 * frameTime (getStr s k.val).conf ≤ ktSince s f.at_) (hmode : cMode (getStr s k.val).conf = 2)
    (hstats : cStats (getStr s k.val).conf = 0) (herrs : f.errs = 0) (htile : f.tile < tileCount (getStr s k.val).conf) :
    Runs (.missingFrameEnd k) s fun t => StreamOnly k.val s t ∧
      getStr t k.val = { getStr s k.val with frame := some { f with ended := true, short := true } } := by
  have hexec : exec (.missingFrameEnd k) s = .next (endFrame k.val true s) := by
    show execMissingFrameEnd k s = _
    simp only [execMissingFrameEnd, hin.1, hin.2.2.1, Nat.not_lt.2 hlate, decide_false, Bool.or_self, Bool.false_eq_true, if_false]
  refine ⟨_, hexec, ?_⟩
  rw [endFrame_tiles true hin hmode hstats herrs htile]
  refine ⟨streamOnly_modStr (streamOnly_refl k.val s) _, ?_⟩
  rw [getStr_modStr_same, Bool.or_true]

theorem runs_csiLaneSyncLost {k : Fin 16} {s : State} {f : Frame} (hframe : (getStr s k.val).frame = some f) (hdropped : f.dropped = false)
    (hended : f.ended = false) :
    Runs (.csiLaneSyncLost k) s fun t => StreamOnly k.val s t ∧
      getStr t k.val = { getStr s k.val with frame := some { f with errs := f.errs + 1, kind := if f.errs = 0 then 3 else f.kind, evented := true } } ∧
      (f.evented = false → Logs 0x9001 srcAfzan (leBytes 1 (k.val / 4) ++ leBytes 1 k.val ++ leBytes 1 3 ++ leBytes 2 (f.errs + 1)) s t) := by
  set u := modFrame s k.val fun f => { f with errs := f.errs + 1, kind := if f.errs = 0 then 3 else f.kind, evented := true } with hu
  have honly : StreamOnly k.val s u := streamOnly_modFrame (streamOnly_refl _ s) _
  have hstr := getStr_modFrame hframe fun f => { f with errs := f.errs + 1, kind := if f.errs = 0 then 3 else f.kind, evented := true }
  have hexec : exec (.csiLaneSyncLost k) s = .next (if f.evented then u else linkError k.val 3 (f.errs + 1) u) := by
    show execCsiLaneSyncLost k s = _
    simp only [execCsiLaneSyncLost, hframe, hdropped, hended, Bool.or_self, Bool.false_eq_true, if_false]
    rfl
  refine ⟨_, hexec, ?_⟩
  split
  · next he => exact ⟨honly, hstr, fun h => absurd he (by rw [h]; decide)⟩
  · exact ⟨streamOnly_event honly .., hstr, fun _ => logs_event (s := s) (u := u) (by simp) rfl rfl rfl rfl⟩

/-! ### Tiles (R295) -/

theorem tileDone_more {k : Nat} {s : State} {f : Frame} (hframe : (getStr s k).frame = some f) (hmore : f.tile + 1 < tileCount (getStr s k).conf) :
    tileDone k s = modFrame s k fun f => { f with tile := f.tile + 1 } := by
  have hstr := getStr_modFrame hframe fun f => { f with tile := f.tile + 1 }
  unfold tileDone
  dsimp only
  rw [hstr]
  dsimp only
  rw [if_neg (by simp only [Bool.and_eq_true, decide_eq_true_eq]; omega)]

theorem runs_ispTilePush_dropped {k : Fin 16} {s : State} {f : Frame} (hframe : (getStr s k.val).frame = some f) (hdropped : f.dropped = false)
    (hmode : cMode (getStr s k.val).conf = 2) (hmore : f.tile + 1 < tileCount (getStr s k.val).conf) (hup : fabricUp s = true)
    (hlines : tileNeeds (getStr s k.val).conf f.tile ≤ f.lines) (hfull : freeSlots s (cTileQ (getStr s k.val).conf) < 2) :
    Runs (.ispTilePush k) s fun t => StreamOnly k.val s t ∧
      getStr t k.val = { getStr s k.val with frame := some { f with tile := f.tile + 1, tilesLost := true }
                                             tiles := (getStr s k.val).tiles.add 1 } ∧
      (f.tilesLost = false → Logs 0x9002 srcAfzan (leBytes 1 k.val ++ leBytes 1 2 ++ leBytes 4 f.num) s t) := by
  set u := if f.tilesLost then s else
    event srcAfzan 0x9002 (ownerOf (getStr s k.val).owner) (leBytes 1 k.val ++ leBytes 1 2 ++ leBytes 4 f.num) s with hu
  have hue : getStr u k.val = getStr s k.val := by
    rw [hu]
    split <;> rfl
  have honly : StreamOnly k.val s u := by
    rw [hu]
    split
    · exact streamOnly_refl _ s
    · exact streamOnly_event (streamOnly_refl _ s) ..
  set v := modFrame (modStr u k.val fun t => { t with tiles := t.tiles.add 1 }) k.val fun f => { f with tilesLost := true } with hv
  have hvs : getStr v k.val = { getStr s k.val with frame := some { f with tilesLost := true }, tiles := (getStr s k.val).tiles.add 1 } := by
    rw [hv, modFrame, getStr_modStr_same, getStr_modStr_same, hue, hframe]
    rfl
  have hdone : tileDone k.val v = modFrame v k.val fun f => { f with tile := f.tile + 1 } :=
    tileDone_more (f := { f with tilesLost := true }) (by rw [hvs]) (by rw [hvs]; exact hmore)
  have hexec : exec (.ispTilePush k) s = .next (tileDone k.val v) := by
    have hlast : f.tile + 1 ≠ tileCount (getStr s k.val).conf := by omega
    have hle : ¬ tileCount (getStr s k.val).conf ≤ f.tile := by omega
    show execIspTilePush k s = _
    simp only [execIspTilePush, hframe, hdropped, hmode, hlast, hle, hup, Nat.not_lt.2 hlines, Nat.not_le.2 hfull, ne_eq, not_true_eq_false,
      decide_false, Bool.and_false, Bool.not_true, Bool.or_self, Bool.false_and, Bool.false_eq_true, if_false]
    rfl
  refine ⟨_, hexec, ?_⟩
  rw [hdone]
  refine ⟨streamOnly_modFrame (streamOnly_modFrame (streamOnly_modStr honly _) _) _, ?_, fun hlost => ?_⟩
  · rw [getStr_modFrame (f := { f with tilesLost := true }) (by rw [hvs]), hvs]
  · refine logs_event (s := s) (u := s) (party := ownerOf (getStr s k.val).owner) (by simp) rfl rfl ?_ ?_
    · show u.caddy = _
      rw [hu, if_neg (by rw [hlost]; decide)]
    · show u.ktime = _
      rw [hu]
      split <;> rfl

theorem tile_eq_tileData (s : State) (k : Nat) (f : Frame) :
    (ispIn (getStr s k) f).tile (decide ((tileRows (getStr s k).conf).2.1 ≤ f.tile))
      ((if decide ((tileRows (getStr s k).conf).2.1 ≤ f.tile) then f.tile - (tileRows (getStr s k).conf).2.1 else f.tile) %
        (tileRows (getStr s k).conf).1)
      ((if decide ((tileRows (getStr s k).conf).2.1 ≤ f.tile) then f.tile - (tileRows (getStr s k).conf).2.1 else f.tile) /
        (tileRows (getStr s k).conf).1) = tileData s k f := by
  simp only [decide_eq_true_eq, tileData]

theorem length_tileData (s : State) (k : Nat) (f : Frame) : (tileData s k f).length = 16384 := by
  simp only [tileData, IspIn.tile, List.length_map, List.length_range]

theorem queue_modFrame (s : State) (k : Nat) (f : Frame → Frame) : (modFrame s k f).queue = s.queue := rfl

/-- A push is a matter of the queues alone. -/
theorem pushed_congr {q : Nat} {s s' t t' : State} (hs : s'.queue = s.queue) (ht : t.queue = t'.queue) (h : Pushed q s' t') : Pushed q s t := by
  unfold Pushed getQ at *
  rw [← hs, ht]
  exact h

theorem runs_ispTilePush_pushed {k : Fin 16} {s : State} {f : Frame} (hframe : (getStr s k.val).frame = some f) (hdropped : f.dropped = false)
    (hmode : cMode (getStr s k.val).conf = 2) (hmore : f.tile + 1 < tileCount (getStr s k.val).conf) (hup : fabricUp s = true)
    (hlines : tileNeeds (getStr s k.val).conf f.tile ≤ f.lines) (hroom : 2 ≤ freeSlots s (cTileQ (getStr s k.val).conf))
    (hdram : (getQ s (cTileQ (getStr s k.val).conf)).bufAddr (getQ s (cTileQ (getStr s k.val).conf)).tail + 16384 ≤ 0x1000000000)
    (hput : (busWrite (strIni s k.val) ((getQ s (cTileQ (getStr s k.val).conf)).bufAddr (getQ s (cTileQ (getStr s k.val).conf)).tail)
      (tileData s k.val f) s).2 = stOK) :
    Runs (.ispTilePush k) s fun t => Pushed (cTileQ (getStr s k.val).conf) s t ∧
      getStr t k.val = { getStr s k.val with frame := some { f with tile := f.tile + 1 } } := by
  set q := cTileQ (getStr s k.val).conf with hq
  have hend : (getQ s q).bufAddr (getQ s q).tail + (tileData s k.val f).length ≤ 0x1000000000 := by
    rw [length_tileData]
    exact hdram
  have hqueue := queue_busWrite hend hput
  have hreach := reached_busWrite hput
  set w := busWrite (strIni s k.val) ((getQ s q).bufAddr (getQ s q).tail) (tileData s k.val f) s with hw
  set v := pushEntry q (tileEntry f.tile (decide (f.tile + 1 = tileCount (getStr s k.val).conf))) w.1 with hv
  have hstr : getStr v k.val = getStr s k.val := by
    rw [hv, getStr, (posted_pushEntry ..).cap, hreach.cap, ← getStr]
  have hdone : tileDone k.val v = modFrame v k.val fun f => { f with tile := f.tile + 1 } :=
    tileDone_more (by rw [hstr, hframe]) (by rw [hstr]; exact hmore)
  have hexec : exec (.ispTilePush k) s = .next (tileDone k.val v) := by
    have hle : ¬ tileCount (getStr s k.val).conf ≤ f.tile := by omega
    have hwput : ¬ w.2 ≠ stOK := not_not.2 hput
    show execIspTilePush k s = _
    unfold execIspTilePush
    dsimp only
    rw [hframe]
    dsimp only
    rw [if_neg (by simp [hdropped, hmode, hle, hup, hlines]), if_pos (by simp [← hq, hroom])]
    rw [tile_eq_tileData, ← hq, ← hw, if_neg hwput]
  refine ⟨_, hexec, ?_⟩
  rw [hdone]
  refine ⟨?_, ?_⟩
  · exact pushed_congr hqueue (queue_modFrame ..) (pushed_pushEntry ..)
  · rw [getStr_modFrame (by rw [hstr, hframe]), hstr]

/-! ### Snapshots (R303) -/

/-- What a snapshot leaves as it was. -/
def Snapped (s t : State) : Prop := t = { s with cap := { s.cap with conv := t.cap.conv }, gw := { s.gw with port := t.gw.port }, fresh := t.fresh }

theorem Snapped.trans {s t u : State} (a : Snapped s t) (b : Snapped t u) : Snapped s u := by
  unfold Snapped at *
  rw [a] at b
  exact b

/-- Receiver `r` is latched. -/
def latchRcv (s : State) (r : Nat) : State :=
  let c := rcvCounter s r
  let d := freeNum c.2
  let s := d.2
  let old := tget s.cap.conv r
  { s with cap := { s.cap with conv := tput s.cap.conv r { c0 := c.1, k0 := (s.ktime + 2 ^ 64 + d.1 % 5 - 2) % 2 ^ 64, ratio := 2 ^ 39, at_ := s.ktime
                                                           snaps := (old.snaps ++ [(c.1, s.ktime)]).drop (old.snaps.length - 15) } } }

/-- External port `4 + i` is latched, and its conversion refitted. -/
def latchPort (eth : List (BitVec 64)) (s : State) (i : Nat) : State :=
  let c := (eth.getD i 0#64).toNat
  let old := tget s.cap.conv (4 + i)
  let ps := (old.snaps ++ [(c, s.ktime)]).drop (old.snaps.length - 15)
  let r := Config.portFit ps
  { s with
    cap := { s.cap with conv := tput s.cap.conv (4 + i) { c0 := r.1 % 2 ^ 64, k0 := r.2.1 % 2 ^ 64, ratio := r.2.2 % 2 ^ 64, at_ := s.ktime, snaps := ps } }
    gw := { s.gw with port := tmod s.gw.port (4 + i) fun p => { p with clock := c } } }

theorem snapped_latchRcv (s : State) (r : Nat) : Snapped s (latchRcv s r) := rfl
theorem snapped_latchPort (eth : List (BitVec 64)) (s : State) (i : Nat) : Snapped s (latchPort eth s i) := rfl

theorem snapped_foldl {f : State → Nat → State} (hf : ∀ s i, Snapped s (f s i)) (l : List Nat) (s : State) : Snapped s (l.foldl f s) := by
  induction l generalizing s with
  | nil => exact rfl
  | cons i l ih => exact (hf s i).trans (ih _)

theorem conv_latchRcv_ne {s : State} {r j : Nat} (h : j ≠ r) : tget (latchRcv s r).cap.conv j = tget s.cap.conv j := tget_tput_ne _ _ h

theorem conv_latchPort_ne {eth : List (BitVec 64)} {s : State} {i j : Nat} (h : j ≠ 4 + i) :
    tget (latchPort eth s i).cap.conv j = tget s.cap.conv j := tget_tput_ne _ _ h

theorem port_latchPort_ne {eth : List (BitVec 64)} {s : State} {i j : Nat} (h : j ≠ 4 + i) :
    tget (latchPort eth s i).gw.port j = tget s.gw.port j :=
  tget_tput_ne _ _ h

theorem foldl_same {γ : Type} {f : State → Nat → State} {p : State → γ} {l : List Nat} (h : ∀ s, ∀ i ∈ l, p (f s i) = p s) (s : State) :
    p (l.foldl f s) = p s := by
  induction l generalizing s with
  | nil => rfl
  | cons i l ih => exact (ih (fun s j hj => h s j (List.mem_cons_of_mem _ hj)) _).trans (h s i (List.mem_cons_self ..))

/-- What only one step of a fold changes comes of that step. -/
theorem foldl_at {γ : Type} {f : State → Nat → State} {p : State → γ} {key : Nat} (hsnap : ∀ s i, Snapped s (f s i))
    (hne : ∀ s i, i ≠ key → p (f s i) = p s) {l : List Nat} (hnodup : l.Nodup) (hmem : key ∈ l) (s : State) :
    ∃ v, p v = p s ∧ Snapped s v ∧ p (l.foldl f s) = p (f v key) := by
  induction l generalizing s with
  | nil => exact absurd hmem List.not_mem_nil
  | cons i l ih =>
    obtain ⟨hi, hl⟩ := List.nodup_cons.1 hnodup
    by_cases hkey : i = key
    · subst hkey
      exact ⟨s, rfl, rfl, foldl_same (fun s j hj => hne s j fun h => hi (h ▸ hj)) _⟩
    · obtain ⟨v, hp, hv, heq⟩ := ih hl ((List.mem_cons.1 hmem).resolve_left (Ne.symm hkey)) (f s i)
      exact ⟨v, hp.trans (hne s i hkey), (hsnap s i).trans hv, heq⟩

theorem Snapped.ktime {s t : State} (h : Snapped s t) : t.ktime = s.ktime := by rw [h]

theorem runs_timeSnapshot (eth : List (BitVec 64)) (s : State) : Runs (.timeSnapshot eth) s fun t =>
    t = { s with cap := { s.cap with conv := t.cap.conv }, gw := { s.gw with port := t.gw.port }, fresh := t.fresh } ∧
    (∀ r < 4, (tget t.cap.conv r).ratio = 2 ^ 39 ∧ (tget t.cap.conv r).at_ = s.ktime ∧
      ∃ d < 5, (tget t.cap.conv r).k0 = (s.ktime + 2 ^ 64 + d - 2) % 2 ^ 64) ∧
    ∀ i < min eth.length 8, (tget t.cap.conv (4 + i)).at_ = s.ktime ∧ (tget t.gw.port (4 + i)).clock = (eth.getD i 0#64).toNat ∧
      (tget t.cap.conv (4 + i)).snaps =
        ((tget s.cap.conv (4 + i)).snaps ++ [((eth.getD i 0#64).toNat, s.ktime)]).drop ((tget s.cap.conv (4 + i)).snaps.length - 15) := by
  set u := (List.range 4).foldl latchRcv s with hu
  have hsu : Snapped s u := snapped_foldl snapped_latchRcv _ s
  have hports : Snapped u ((List.range (min eth.length 8)).foldl (latchPort eth) u) := snapped_foldl (snapped_latchPort eth) _ u
  refine ⟨(List.range (min eth.length 8)).foldl (latchPort eth) u, rfl, hsu.trans hports, fun r hr => ?_, fun i hi => ?_⟩
  · have hkeep : tget ((List.range (min eth.length 8)).foldl (latchPort eth) u).cap.conv r = tget u.cap.conv r :=
      foldl_same (p := fun s => tget s.cap.conv r) (fun s i _ => conv_latchPort_ne (by omega)) u
    obtain ⟨v, -, hv, heq⟩ := foldl_at (p := fun s => tget s.cap.conv r) (key := r) snapped_latchRcv (fun s i hi => conv_latchRcv_ne (Ne.symm hi))
      List.nodup_range (List.mem_range.2 hr) s
    have hconv : tget (latchRcv v r).cap.conv r = _ := tget_tput_same ..
    rw [hkeep, hu, heq, hconv, ← hv.ktime]
    exact ⟨rfl, rfl, _, Nat.mod_lt _ (by decide), rfl⟩
  · obtain ⟨v, hp, hv, heq⟩ := foldl_at (p := fun s => (tget s.cap.conv (4 + i), tget s.gw.port (4 + i))) (key := i) (snapped_latchPort eth)
      (fun s j hj => Prod.ext (conv_latchPort_ne (by omega)) (port_latchPort_ne (by omega))) List.nodup_range (List.mem_range.2 hi) u
    obtain ⟨hconv, hport⟩ := Prod.mk.inj heq
    have hsame : tget u.cap.conv (4 + i) = tget s.cap.conv (4 + i) :=
      foldl_same (p := fun s => tget s.cap.conv (4 + i)) (fun s r hr => conv_latchRcv_ne (by have := List.mem_range.1 hr; omega)) s
    have hold : tget v.cap.conv (4 + i) = tget s.cap.conv (4 + i) := (Prod.mk.inj hp).1.trans hsame
    have hconv' : tget (latchPort eth v i).cap.conv (4 + i) = _ := tget_tput_same ..
    have hport' : tget (latchPort eth v i).gw.port (4 + i) = _ := tget_tput_same ..
    rw [hconv, hport, hconv', hport', ← hold, ← (hsu.trans hv).ktime]
    exact ⟨rfl, rfl, rfl⟩

/-- Settles O33. -/
theorem captureFrames : Obligations.CaptureFrames :=
  ⟨⟨fun _ _ _ _ => runs_frameStart_room, fun _ _ _ _ => runs_frameStart_full, fun _ _ _ _ _ _ _ => runs_line_isp,
      fun _ _ _ _ _ _ _ _ => runs_line_bypass, fun _ _ _ _ _ _ => runs_badHeader, fun _ _ _ _ _ _ => runs_overflow,
      fun _ _ _ _ _ => runs_frameEnd_bypass, fun _ _ _ _ _ => runs_frameEnd_tiles, fun _ _ _ => runs_missingFrameEnd,
      fun _ _ _ => runs_csiLaneSyncLost⟩,
    fun _ _ _ hframe hdropped hmode hmore hup hlines => ⟨runs_ispTilePush_dropped hframe hdropped hmode hmore hup hlines,
      runs_ispTilePush_pushed hframe hdropped hmode hmore hup hlines⟩, runs_timeSnapshot⟩

end Sys2Proof.Machine

/-! The fusion engine: records, ego-motion, batches and track lists (R308 to R312, R319). -/

namespace Sys2Proof.Machine
open Sys2Proof.Claims

/-! ### What waits for room in a queue moves no head -/

/-- No queue's HEAD moved. -/
def HeadsKept (s t : State) : Prop := ∀ j, (getQ t j).head = (getQ s j).head

theorem headsKept_modQ {q : Nat} {f : Queue → Queue} (hf : ∀ x, (f x).head = x.head) (s : State) : HeadsKept s (modQ s q f) := fun j => by
  by_cases hj : j = q
  · subst hj
    exact (congrArg Queue.head (getQ_modQ_same ..)).trans (hf _)
  · exact congrArg Queue.head (getQ_modQ_ne s f hj)

theorem headsKept_pushEntry (q : Nat) (bs : List Byte) (s : State) : HeadsKept s (pushEntry q bs s) := by
  obtain ⟨v, -, -, -, -, hq⟩ := pushEntry_effect q bs s
  have hmod := headsKept_modQ (q := q) (f := fun x => { x with
    tail := x.adv x.tail 1, pushed := x.pushed.add 1, came := x.came ++ (if x.cons = 5 then [v.ktime] else []) }) (fun _ => rfl) s
  exact fun j => (congrArg (fun m => (tget m j).head) hq).trans (hmod j)

theorem headsKept_drainHeld (q n : Nat) (s : State) : HeadsKept s (drainHeld q n s) := by
  induction n generalizing s with
  | zero => exact fun _ => rfl
  | succ n ih =>
    unfold drainHeld
    split
    · exact fun _ => rfl
    · split
      · exact fun j => (ih _ j).trans ((headsKept_pushEntry _ _ _ j).trans (headsKept_modQ (by exact fun _ => rfl) s j))
      · exact fun _ => rfl

theorem headsKept_drainNotices (p n : Nat) (s : State) : HeadsKept s (drainNotices p n s) := by
  induction n generalizing s with
  | zero => exact fun _ => rfl
  | succ n ih =>
    unfold drainNotices
    split
    · exact fun _ => rfl
    · dsimp only
      split
      · refine fun j => (ih _ j).trans ?_
        exact (congrArg (fun m => (tget m j).head) (queue_raiseMbox ..)).trans (headsKept_pushEntry _ _ _ j)
      · exact fun _ => rfl

theorem headsKept_roomMade (q : Nat) (s : State) : HeadsKept s (roomMade q s) := by
  unfold roomMade
  dsimp only
  refine fun j => (foldl_same (p := fun u => (getQ u j).head) (fun u p _ => ?_) _).trans (headsKept_drainHeld q _ s j)
  split
  · exact headsKept_drainNotices p _ u j
  · rfl

/-! ### Changes of the engine -/

theorem capOnly_refl (s : State) : CapOnly s s := rfl

theorem capOnly_trans {s t u : State} (h : CapOnly s t) (h' : CapOnly t u) : CapOnly s u :=
  h'.trans ((congrArg (fun v : State => { v with cap := u.cap, caddy := u.caddy, safe := u.safe, fresh := u.fresh }) h).trans rfl)

theorem capOnly_modFus_of {s t : State} (h : CapOnly s t) (f : Fusion → Fusion) : CapOnly s (modFus t f) :=
  (congrArg (modFus · f) h).trans rfl

theorem capOnly_event {s t : State} (h : CapOnly s t) (src code party : Nat) (args : List Byte) : CapOnly s (event src code party args t) :=
  (event_frame src code party args t).trans ((congrArg (fun u : State => { u with
    caddy := (event src code party args t).caddy, safe := (event src code party args t).safe }) h).trans rfl)

/-- The engine takes batches into tracks: only its tables and counters change, and what has closed and the transforms' generation stay. -/
structure Tracking (s t : State) : Prop where
  cap : CapOnly s t
  closed : (getFus t).closed = (getFus s).closed
  gen : (getFus t).gen = (getFus s).gen

namespace Tracking

theorem refl (s : State) : Tracking s s := ⟨rfl, rfl, rfl⟩

theorem modFus {s t : State} (h : Tracking s t) {f : Fusion → Fusion} (hc : ∀ x, (f x).closed = x.closed) (hg : ∀ x, (f x).gen = x.gen) :
    Tracking s (modFus t f) :=
  ⟨capOnly_modFus_of h.cap f, (hc _).trans h.closed, (hg _).trans h.gen⟩

theorem event {s t : State} (h : Tracking s t) (src code party : Nat) (args : List Byte) : Tracking s (event src code party args t) :=
  ⟨capOnly_event h.cap .., h.closed, h.gen⟩

theorem foldl {β : Type} {f : State → β → State} (hf : ∀ {s t} x, Tracking s t → Tracking s (f t x)) {s t : State} (h : Tracking s t) (l : List β) :
    Tracking s (l.foldl f t) := by
  induction l generalizing t with
  | nil => exact h
  | cons x l ih => exact ih (hf x h)

theorem foldl_fst {α β : Type} {f : State × α → β → State × α} (hf : ∀ {s} {a : State × α} x, Tracking s a.1 → Tracking s (f a x).1) {s : State}
    {a : State × α} (h : Tracking s a.1) (l : List β) : Tracking s (l.foldl f a).1 := by
  induction l generalizing a with
  | nil => exact h
  | cons x l ih => exact ih (hf x h)

theorem modTrack {s t : State} (h : Tracking s t) (k : Nat) (f : Track → Track) : Tracking s (modTrack t k f) :=
  h.modFus (fun _ => rfl) fun _ => rfl

theorem unassigned {s t : State} (h : Tracking s t) : Tracking s (Machine.modFus t fun f => { f with unassigned := f.unassigned.add 1 }) :=
  h.modFus (fun _ => rfl) fun _ => rfl

theorem notStarted {s t : State} (h : Tracking s t) : Tracking s (Machine.modFus t fun f => { f with notStarted := f.notStarted.add 1 }) :=
  h.modFus (fun _ => rfl) fun _ => rfl

theorem startTrack {s t : State} (h : Tracking s t) (m : Seen) : Tracking s (startTrack m t).1 := by
  unfold Machine.startTrack
  dsimp only
  split
  · exact h.unassigned
  · split
    · exact h.notStarted
    · exact h.modTrack ..

theorem dropTracks {s t : State} (h : Tracking s t) (time : Nat) : Tracking s (dropTracks time t) :=
  foldl (fun _ h => iteInduction (motive := Tracking _) (fun _ => h.modTrack ..) fun _ => h) h _

theorem trackBatch {s t : State} (h : Tracking s t) (b : Batch) (ms : List (Nat × Seen)) : Tracking s (trackBatch b ms t) := by
  have hpredict : Tracking s ((liveSlots t).foldl (predict b.time) t) := foldl (fun k h => h.modTrack ..) h _
  unfold Machine.trackBatch
  extract_lets p g a u r v
  have hupdate : Tracking s u := foldl (fun x h => by
    split
    · exact h.modTrack ..
    · exact h) hpredict _
  have hstart : Tracking s r.1 := foldl_fst (a := (u, 0)) (fun x h => by
    dsimp only
    split
    · exact h
    · split
      · exact h.unassigned
      · exact h.startTrack _) hupdate _
  refine dropTracks ?_ _
  unfold v
  split
  · exact hstart
  · exact hstart.event ..

end Tracking

/-! ### Measurements (R308, R309) -/

/-- A record that finds no open batch of its sensor and time opens one, which its last flag closes. -/
theorem joinBatch_new {r : List Byte} {s : State} (hnew : batchOf s r = none) (hroom : (getFus s).open_.length < 32) :
    joinBatch r s = modFus s fun f =>
      if mFlag r 0 then { f with closed := f.closed ++ [{ sensor := mSensor r, time := mTime r, recs := [r] }] }
      else { f with open_ := f.open_ ++ [{ sensor := mSensor r, time := mTime r, recs := [r] }] } := by
  set u := modFus s fun f => { f with open_ := f.open_ ++ [{ sensor := mSensor r, time := mTime r }] } with hu
  have hother : ∀ x ∈ s.cap.fus.open_, ¬ (x.sensor = mSensor r ∧ x.time = mTime r) := by
    simpa [batchOf, getFus, List.find?_eq_none] using hnew
  have hfind : batchOf u r = some { sensor := mSensor r, time := mTime r } := by
    unfold batchOf at hnew ⊢
    rw [show (getFus u).open_ = (getFus s).open_ ++ [_] from rfl, List.find?_append, hnew]
    simp
  have hmap : (s.cap.fus.open_ ++ [({ sensor := mSensor r, time := mTime r } : Batch)]).map (fun x => if x.sensor = mSensor r ∧ x.time = mTime r then
      ({ sensor := mSensor r, time := mTime r, recs := [r] } : Batch) else x) =
      s.cap.fus.open_ ++ [{ sensor := mSensor r, time := mTime r, recs := [r] }] := by
    rw [List.map_append, List.map_congr_left fun x hx => if_neg (hother x hx), List.map_id']
    simp
  have hfilter : (s.cap.fus.open_ ++ [({ sensor := mSensor r, time := mTime r, recs := [r] } : Batch)]).filter
      (fun x => !(decide (x.sensor = mSensor r) && decide (x.time = mTime r))) = s.cap.fus.open_ := by
    rw [List.filter_append, List.filter_eq_self.2 fun x hx => by simpa [← not_and_or] using hother x hx]
    simp
  unfold joinBatch
  extract_lets m v
  have hv : v = u := by
    unfold v m
    rw [hnew, if_neg (by simp)]
    cases ho : (getFus s).open_ with
    | nil => rfl
    | cons x rest =>
      rw [ho, List.length_cons] at hroom
      dsimp only
      rw [if_neg (by omega)]
  rw [hv, hfind]
  simp only [List.length_nil, List.nil_append, show ¬ (1024 ≤ 0) by omega, decide_false, Bool.false_eq_true, if_false]
  by_cases hlast : mFlag r 0 = true
  · simp only [hlast, if_true, closeBatch, u, modFus, hmap, hfilter]
  · simp only [hlast, Bool.false_eq_true, if_false, u, modFus, hmap]

theorem runs_fusMeasPop {s : State} (hon : fusOn s = true) (hwait : (getFus s).wait = none) (hbound : (getQ s (fMeas (getFus s).conf)).bound = true)
    (hlen : (getQ s (fMeas (getFus s).conf)).len ≠ 0) : ∃ u, exec .fusMeasPop s = .next
      (if measBad u (headEntry s (fMeas (getFus s).conf)) then modFus u fun f => { f with bad := f.bad.add 1 }
        else joinBatch (headEntry s (fMeas (getFus s).conf)) u) ∧ u.cap = s.cap ∧
      (getQ u (fMeas (getFus s).conf)).head = (getQ s (fMeas (getFus s).conf)).adv (getQ s (fMeas (getFus s).conf)).head 1 := by
  set q := fMeas (getFus s).conf with hq
  refine ⟨roomMade q (popEntry q s), ?_, ?_, ?_⟩
  · show execFusMeasPop s = _
    unfold execFusMeasPop
    dsimp only
    rw [if_neg (by simp [← hq, hon, hwait, hbound, hlen])]
  · rw [(posted_roomMade ..).cap, (posted_popEntry ..).cap]
  · obtain ⟨-, -, hpop⟩ := popEntry_effect q s
    rw [headsKept_roomMade q _ q]
    exact (congrArg (fun m => (tget m q).head) hpop).trans (congrArg Queue.head (tget_tmod_same ..))

theorem measBad_congr {s t : State} (h : t.cap = s.cap) (r : List Byte) : measBad t r = measBad s r := by
  unfold measBad getFus
  rw [h]

theorem batchOf_congr {s t : State} (h : t.cap = s.cap) (r : List Byte) : batchOf t r = batchOf s r := by
  unfold batchOf getFus
  rw [h]

theorem queue_joinBatch (r : List Byte) (s : State) : (joinBatch r s).queue = s.queue := by
  have hclose : ∀ (b : Batch) (s : State), (closeBatch b s).queue = s.queue := fun b s => by
    unfold closeBatch
    dsimp only
    split <;> rfl
  have hroom : (match (getFus s).open_ with
      | b :: rest => if 31 ≤ rest.length then closeBatch b s else s
      | [] => s).queue = s.queue := by
    split
    · split
      · exact hclose ..
      · rfl
    · rfl
  unfold joinBatch
  extract_lets m v
  have hv : v.queue = s.queue := by
    unfold v
    split
    · rfl
    · exact hroom
  split
  · exact hv
  · dsimp only
    split
    · exact (hclose ..).trans hv
    · exact hv

/-! ### Ego-motion and batches (R310, R312) -/

theorem runs_egoTimeout {s : State} (hon : fusOn s = true) (hoff : fEgoOff (getFus s).conf = false) (hlate : msUnits 200 ≤ ktSince s (getFus s).regAt)
    (hgood : (getFus s).degraded = false) : Runs .egoTimeout s fun t => CapOnly s t ∧ getFus t = { getFus s with degraded := true } ∧
      Logs 0x9014 srcAfzan (leBytes 1 1 ++ leBytes 1 2) s t := by
  set u := modFus s fun f => { f with degraded := true } with hu
  have hexec : exec .egoTimeout s = .next (event srcAfzan 0x9014 (ownerOf (getFus s).owner) (leBytes 1 1 ++ leBytes 1 2) u) := by
    show execEgoTimeout s = _
    unfold execEgoTimeout
    rw [if_neg (by simp [hon, hoff, Nat.not_lt.2 hlate])]
    unfold setEgo
    rw [if_neg (by simp [hgood])]
    rfl
  exact ⟨_, hexec, capOnly_event (capOnly_modFus_of (capOnly_refl s) _) .., rfl, logs_event (s := s) (u := u) (by simp) rfl rfl rfl rfl⟩

/-- One record of a batch as `seenOf` takes it, from what it has so far. -/
def seenStep (b : Batch) (s : State) (x : State × Nat × List (Nat × Seen)) (i : Nat) : State × Nat × List (Nat × Seen) :=
  let e := xfOf s b.sensor
  let r := b.recs.getD i []
  if x.2.1 ≠ stOK then x
  else
    let u := if mKind r = 2 then undistort e (fp32At r 16) (fp32At r 20) x.1 else (x.1, stOK, [])
    (u.1, u.2.1, x.2.2 ++ [(i, { t := toO (fEgoOff (getFus s).conf) (getFus s).poses e b.time, e := e, r := r, xy := u.2.2 })])

/-- No record of the batch is of the kind IMAGE: nothing is undistorted, and no read can fail. -/
theorem seenOf_without_images {b : Batch} {s : State} (h : ∀ r ∈ b.recs, mKind r ≠ 2) : (seenOf b s).1 = s ∧ (seenOf b s).2.1 = stOK := by
  have hkind : ∀ i, mTracks (b.recs.getD i []) = true → mKind (b.recs.getD i []) ≠ 2 := fun i ht => by
    by_cases hi : i < b.recs.length
    · rw [List.getD_eq_getElem _ _ hi]
      exact h _ (List.getElem_mem hi)
    · rw [List.getD_eq_default _ _ (Nat.not_lt.1 hi)] at ht
      exact absurd ht (by decide)
  unfold seenOf
  dsimp only
  generalize hl : (List.range b.recs.length).filter (fun i => mTracks (b.recs.getD i [])) = l
  have hmem : ∀ i ∈ l, mTracks (b.recs.getD i []) = true := fun i hi => by
    rw [← hl] at hi
    exact (List.mem_filter.1 hi).2
  clear hl
  suffices hall : ∀ ms : List (Nat × Seen), (l.foldl (seenStep b s) (s, stOK, ms)).1 = s ∧ (l.foldl (seenStep b s) (s, stOK, ms)).2.1 = stOK from hall []
  induction l with
  | nil => exact fun _ => ⟨rfl, rfl⟩
  | cons i l ih =>
    intro ms
    rw [List.foldl_cons]
    have hstep : ∃ ms', seenStep b s (s, stOK, ms) i = (s, stOK, ms') := by
      unfold seenStep
      dsimp only
      rw [if_neg (by simp), if_neg (hkind i (hmem i (List.mem_cons_self ..)))]
      exact ⟨_, rfl⟩
    obtain ⟨ms', hstep⟩ := hstep
    rw [hstep]
    exact ih (fun j hj => hmem j (List.mem_cons_of_mem _ hj)) ms'

theorem applyBatch_egoOff {b : Batch} {s : State} (hoff : fEgoOff (getFus s).conf = true) (htracks : b.recs.any mTracks = true)
    (himages : ∀ r ∈ b.recs, mKind r ≠ 2) : ∃ ms, applyBatch b s =
      modFus (trackBatch b ms s) fun f => { f with wait := some { time := b.time, sensor := b.sensor, gen := f.gen } } := by
  obtain ⟨hs, hok⟩ := seenOf_without_images (s := s) himages
  refine ⟨(seenOf b s).2.2, ?_⟩
  have hego : b.recs.foldl (fun (x : State × Nat) r => if x.2 ≠ stOK ∨ mTracks r ∨ fEgoOff (getFus s).conf then x else egoRecord r x.1)
      (s, stOK) = (s, stOK) := foldl_stays _ fun r _ => if_pos (.inr (.inr hoff))
  unfold applyBatch
  dsimp only
  rw [hego]
  dsimp only
  rw [if_neg (by simp), htracks, hoff]
  simp only [Bool.not_true, Bool.false_and, Bool.false_eq_true, if_false, hok, hs, ne_eq, not_true_eq_false]

theorem exec_fusBatchProcess {s : State} {b : Batch} {rest : List Batch} {n : BitVec 8} (hclosed : (getFus s).closed = b :: rest)
    (hsensor : b.sensor = n.toNat) (hon : fusOn s = true) (hwait : (getFus s).wait = none) :
    exec (.fusBatchProcess n) s = .next (
      if (fLate (getFus s).conf : Int) < timeDiff s.ktime b.time then
        event srcAfzan 0x9011 (ownerOf (getFus s).owner)
          (leBytes 1 b.sensor ++ leBytes 2 b.recs.length ++ leBytes 4 ((timeDiff s.ktime b.time).toNat / 100))
          (modFus (modFus s fun f => { f with closed := rest }) fun f => { f with late := f.late.add b.recs.length })
      else if timeDiff s.ktime b.time < -(msUnits 10 : Int) then
        modFus (modFus s fun f => { f with closed := rest }) fun f => { f with future := f.future.add b.recs.length }
      else applyBatch b (modFus s fun f => { f with closed := rest })) := by
  show execFusBatchProcess n s = _
  unfold execFusBatchProcess
  rw [hclosed]
  dsimp only
  rw [if_neg (by simp [hon, hwait, hsensor])]
  rfl

/-! ### Track lists (R319) -/

theorem pushed_of_queue {q : Nat} {s u t : State} (h : u.queue = s.queue) (hpush : Pushed q u t) : Pushed q s t := by
  unfold Pushed getQ at hpush ⊢
  rw [h] at hpush
  exact hpush

theorem runs_fusListPush {s : State} {l : FusList} (hwait : (getFus s).wait = some l) (hon : fusOn s = true)
    (hbound : (getQ s (fOut (getFus s).conf)).bound = true) (hroom : 2 ≤ freeSlots s (fOut (getFus s).conf)) (hclosing : (getFus s).closing = none)
    (hdram : listAt s + (listBytes s l).length ≤ 0x1000000000) (hput : (busWrite .fusion (listAt s) (listBytes s l) s).2 = stOK) :
    Runs .fusListPush s fun t => (getFus t).lists = ((getFus s).lists + 1) % 2 ^ 64 ∧ (getFus t).wait = none ∧
      Pushed (fOut (getFus s).conf) s t := by
  set q := fOut (getFus s).conf with hq
  have hqueue := queue_busWrite hdram hput
  have hreach := reached_busWrite hput
  generalize hw : busWrite .fusion (listAt s) (listBytes s l) s = w at hput hqueue hreach
  set u := modFus w.1 fun f => { f with lists := ((getFus s).lists + 1) % 2 ^ 64, wait := none } with hu
  have hat : field (getFus s).conf 8 6 + (getQ s q).tail % (getQ s q).n * field (getFus s).conf 16 4 = listAt s := rfl
  have hexec : ∃ bs, exec .fusListPush s = .next (fusCloseIfAsked (pushEntry q bs u)) := by
    apply Exists.intro
    show execFusListPush s = _
    unfold execFusListPush
    dsimp only
    rw [hwait]
    dsimp only
    rw [if_neg (by simp [← hq, hon, hbound, Nat.not_lt.2 hroom]), ← hq, hat, hw, if_neg (not_not.2 hput)]
  obtain ⟨bs, hexec⟩ := hexec
  have hfus : getFus (pushEntry q bs u) = { getFus s with lists := ((getFus s).lists + 1) % 2 ^ 64, wait := none } := by
    rw [getFus, (posted_pushEntry ..).cap]
    exact congrArg (fun c : Capture => { c.fus with lists := ((getFus s).lists + 1) % 2 ^ 64, wait := none }) hreach.cap
  have hopen : fusCloseIfAsked (pushEntry q bs u) = pushEntry q bs u := by
    unfold fusCloseIfAsked
    rw [hfus]
    dsimp only
    rw [hclosing]
  refine ⟨_, hexec, ?_⟩
  rw [hopen]
  dsimp only
  rw [hfus]
  refine ⟨rfl, rfl, ?_⟩
  exact pushed_of_queue hqueue (pushed_pushEntry q bs u)

/-- Settles O34, by what each operation of the engine does and the rule that processing a batch keeps what has closed. -/
theorem fusionEngine : Obligations.FusionEngine := by
  refine ⟨fun s hon hwait hbound hlen => ?_, fun s => runs_egoTimeout, fun s b rest n hclosed hsensor hon hwait => ⟨fun hlate => ?_, fun hfuture => ?_,
    fun hnotLate hnotFuture hoff htracks himages => ?_⟩, fun s l => runs_fusListPush⟩
  · obtain ⟨u, hexec, hcap, hhead⟩ := runs_fusMeasPop hon hwait hbound hlen
    set r := headEntry s (fMeas (getFus s).conf) with hr
    have hfus : getFus u = getFus s := congrArg Capture.fus hcap
    refine ⟨_, hexec, ?_, fun hbad => ?_, fun hgood hnew hroom => ?_⟩
    · split
      · exact hhead
      · exact (congrArg (fun m => (tget m (fMeas (getFus s).conf)).head) (queue_joinBatch ..)).trans hhead
    · rw [measBad_congr hcap, hbad, if_pos rfl, getFus_modFus, hfus]
    · rw [measBad_congr hcap, hgood, if_neg Bool.false_ne_true]
      rw [joinBatch_new ((batchOf_congr hcap r).trans hnew) (by rw [hfus]; exact hroom)]
      by_cases hlast : mFlag r 0 = true
      · simp only [hlast, if_true, getFus_modFus, hfus, and_self]
      · simp only [hlast, Bool.false_eq_true, if_false, getFus_modFus, hfus, and_self]
  · have hexec := exec_fusBatchProcess hclosed hsensor hon hwait
    rw [if_pos hlate] at hexec
    exact ⟨_, hexec, capOnly_event (capOnly_modFus_of (capOnly_modFus_of (capOnly_refl s) _) _) .., rfl, logs_event (s := s) (by simp) rfl rfl rfl rfl⟩
  · have hexec := exec_fusBatchProcess hclosed hsensor hon hwait
    rw [if_neg (by have : (0 : Int) ≤ msUnits 10 := by simp
                   omega), if_pos hfuture] at hexec
    exact ⟨_, hexec, capOnly_modFus_of (capOnly_modFus_of (capOnly_refl s) _) _, rfl⟩
  · have hexec := exec_fusBatchProcess hclosed hsensor hon hwait
    rw [if_neg (by omega), if_neg (by omega)] at hexec
    obtain ⟨ms, happly⟩ := applyBatch_egoOff (b := b) (s := modFus s fun f => { f with closed := rest }) hoff htracks himages
    have htrack := (Tracking.refl (modFus s fun f => { f with closed := rest })).trackBatch b ms
    rw [happly] at hexec
    refine ⟨_, hexec, ?_, htrack.closed, ?_⟩
    · exact capOnly_modFus_of (capOnly_trans (capOnly_modFus s _) htrack.cap) _
    · rw [getFus_modFus, htrack.gen]
      rfl

end Sys2Proof.Machine

/-! The Strainers and the upkeep of memory (R333, R338, R339, R344, R348, R431). -/

namespace Sys2Proof.Machine
open Sys2Proof.Claims

/-! ### Arbitration (R348) -/

/-- What one FCLK changes of the Strainer's record when `rule` passes `q`. -/
def Cg.passed (rule : Nat) (q : SReq) (x : Cg) : Cg :=
  let beAge := if x.reqs.any (fun q => decide (q.cls = TClass.be)) then min 64 (x.beAge + 1) else x.beAge
  let maintAge := if x.reqs.any (fun q => decide (q.cls = TClass.maint)) then min 64 (x.maintAge + 1) else x.maintAge
  { x with
    reqs := x.reqs.filter fun y => decide (y.ord ≠ q.ord)
    budget := if rule = 1 then x.budget - 2 else x.budget
    beAge := if q.cls = TClass.be then 0 else beAge
    maintAge := if q.cls = TClass.maint then 0 else maintAge
    rtOver := if rule = 4 ∧ q.cls = TClass.rt then x.rtOver.add 1 else x.rtOver
    beFloor := if rule = 2 then x.beFloor.add 1 else x.beFloor
    maintFloor := if rule = 3 then x.maintFloor.add 1 else x.maintFloor
    lastLc := (match q.cls with | TClass.lc r => r | _ => x.lastLc) }

/-- The Strainer's record at the start of an FCLK: its budget gains 1. -/
def Cg.paid (x : Cg) : Cg := { x with budget := min 64 (x.budget + 1) }

theorem exec_strainerArbitrate {c : Fin 8} {s : State} (hup : fabricUp s = true) : exec (.strainerArbitrate c) s = .next (strainerCycle c.val s) := by
  show execStrainerArbitrate c s = _
  unfold execStrainerArbitrate
  rw [if_pos hup]

theorem strainerCycle_idle {c : Nat} {s : State} (h : strainerPick (modCg s c Cg.paid) c = none) : strainerCycle c s = modCg s c Cg.paid := by
  unfold strainerCycle
  dsimp only
  rw [show strainerPick (modCg s c fun x => { x with budget := min 64 (x.budget + 1) }) c = none from h]
  rfl

theorem strainerCycle_passed {c rule : Nat} {q : SReq} {s : State} (h : strainerPick (modCg s c Cg.paid) c = some (rule, q))
    (hcls : ∀ r, q.cls ≠ .lc r) : strainerCycle c s = modCg (modCg s c Cg.paid) c (Cg.passed rule q) := by
  unfold strainerCycle
  dsimp only
  rw [show strainerPick (modCg s c fun x => { x with budget := min 64 (x.budget + 1) }) c = some (rule, q) from h]
  dsimp only
  split
  · next r hr => exact absurd hr (hcls r)
  · rfl

theorem runs_strainer_idle {c : Fin 8} {s : State} (hup : fabricUp s = true) (hreqs : (getCg s c.val).reqs = []) :
    Runs (.strainerArbitrate c) s fun t => getCg t c.val = { getCg s c.val with budget := min 64 ((getCg s c.val).budget + 1) } ∧
      t = { s with mem := { s.mem with cg := t.mem.cg } } ∧ ∀ j, j ≠ c.val → getCg t j = getCg s j := by
  have hpick : strainerPick (modCg s c.val Cg.paid) c.val = none := by
    simp [strainerPick, oldestReq, Cg.paid, hreqs]
  refine ⟨_, exec_strainerArbitrate hup, ?_⟩
  rw [strainerCycle_idle hpick]
  exact ⟨getCg_modCg_same .., rfl, fun j hj => getCg_modCg_ne s _ hj⟩

theorem runs_strainer_passed {c : Fin 8} {rule : Nat} {q : SReq} {s : State} (hup : fabricUp s = true)
    (hpick : strainerPick (modCg s c.val Cg.paid) c.val = some (rule, q)) (hcls : ∀ r, q.cls ≠ .lc r) :
    Runs (.strainerArbitrate c) s fun t => getCg t c.val = Cg.passed rule q (getCg s c.val).paid ∧
      t = { s with mem := { s.mem with cg := t.mem.cg } } ∧ ∀ j, j ≠ c.val → getCg t j = getCg s j := by
  refine ⟨_, exec_strainerArbitrate hup, ?_⟩
  rw [strainerCycle_passed hpick hcls]
  exact ⟨by rw [getCg_modCg_same, getCg_modCg_same], rfl, fun j hj => (getCg_modCg_ne _ _ hj).trans (getCg_modCg_ne s _ hj)⟩

theorem cls_of_find {l : List SReq} {k : TClass} {q : SReq} (h : l.find? (fun x => decide (x.cls = k)) = some q) : q.cls = k :=
  of_decide_eq_true (p := q.cls = k) (List.find?_some (p := fun x : SReq => decide (x.cls = k)) h)

theorem strainerRules : StrainerRules := by
  refine ⟨fun c s => runs_strainer_idle, fun c s q hup hfind hbudget => ?_, fun c s q hup hnot hfind hage => ?_⟩
  · have hpick : strainerPick (modCg s c.val Cg.paid) c.val = some (1, q) := by
      unfold strainerPick oldestReq
      dsimp only
      rw [getCg_modCg_same]
      rw [show (getCg s c.val).paid.reqs = (getCg s c.val).reqs from rfl, hfind, if_pos (by simpa [Cg.paid] using hbudget)]
      rfl
    obtain ⟨t, hexec, hcg, hframe⟩ := runs_strainer_passed hup hpick fun r => by rw [cls_of_find hfind]; simp
    exact ⟨t, hexec, by rw [hcg]; rfl, by rw [hcg]; rfl, hframe⟩
  · have hrt : (getCg s c.val).reqs.find? (fun x => decide (x.cls = .rt)) = none :=
      List.find?_eq_none.2 fun x hx => by simpa using hnot x hx
    have hpick : strainerPick (modCg s c.val Cg.paid) c.val = some (2, q) := by
      unfold strainerPick oldestReq
      dsimp only
      rw [getCg_modCg_same]
      rw [show (getCg s c.val).paid.reqs = (getCg s c.val).reqs from rfl, hrt, hfind, if_neg (by simp), if_pos (by simp [Cg.paid, hage])]
      rfl
    have hbe := cls_of_find hfind
    obtain ⟨t, hexec, hcg, hframe⟩ := runs_strainer_passed hup hpick fun r => by rw [hbe]; simp
    refine ⟨t, hexec, ?_, by rw [hcg]; rfl, by rw [hcg]; rfl, hframe⟩
    rw [hcg]
    exact if_pos hbe

/-! ### The patrol (R333, R338) -/

theorem cgBytes_pos (s : State) : cgBytes s = cgBytes s / 64 * 64 ∧ cgBytes s / 64 % 4 = 0 ∧ 0 < cgBytes s / 64 := by
  unfold cgBytes
  split <;> decide

/-- A line that a channel group numbers from its first lies in that group. -/
theorem cgOf_groupLine {c line : Nat} {s : State} (h : line < cgBytes s / 64) : cgOf s ((c * (cgBytes s / 64) + line) * 64) = c := by
  obtain ⟨hmul, -, hpos⟩ := cgBytes_pos s
  unfold cgOf
  rw [hmul, Nat.mul_div_mul_right _ _ (by decide), Nat.mul_div_cancel _ (by decide), Nat.mul_comm, Nat.mul_add_div hpos,
    Nat.div_eq_of_lt h, Nat.add_zero]

theorem chanOf_groupLine {c line : Nat} {s : State} (h : line < cgBytes s / 64) : chanOf s (c * (cgBytes s / 64) + line) = line % 4 := by
  unfold chanOf
  rw [cgOf_groupLine h, Nat.add_sub_cancel_left]

/-- The state in which the patrol's read has entered the Strainer. -/
def patrolled (c : Nat) (s : State) : State := strainerIn c .maint none 64 s

theorem exec_patrolScrub {c : Fin 8} {line : Nat} {s : State} (hon : dramOn s = true) (hline : line < cgBytes s / 64) :
    exec (.patrolScrub c line) s = .next (
      let x := linkCross false (c.val * (cgBytes s / 64) + line) (patrolled c.val s)
      match if x.2 then 2 else tget x.1.mem.lineErr (c.val * (cgBytes s / 64) + line) with
      | 0 => x.1
      | 1 => dramCorrected (c.val * (cgBytes s / 64) + line) x.1
      | _ => event (srcMc c.val) 0x2003 noParty (leBytes 2 (freeNum x.1).1 ++ leBytes 6 ((c.val * (cgBytes s / 64) + line) * 64) ++ leBytes 1 2)
          (freeNum x.1).2) := by
  show execPatrolScrub c line s = _
  unfold execPatrolScrub
  dsimp only
  rw [if_neg (by simp [hon, Nat.not_le.2 hline])] <;> rfl

theorem linkCross_good {w : Bool} {line : Nat} {s : State} (h : tget s.mem.linkErr (cgOf s (line * 64) * 4 + chanOf s line) = 0) :
    linkCross w line s = (s, false) := by
  unfold linkCross
  dsimp only
  rw [if_pos h]

/-- A correction that is told changes nothing of memory but the count of corrections since the last event. -/
theorem corrected_keeps (line kind : Nat) (s : State) : (corrected line kind s).mem = { s.mem with cg := (corrected line kind s).mem.cg } ∧
    ∀ j, (getCg (corrected line kind s) j).corr = (getCg s j).corr ∧ (getCg (corrected line kind s) j).linkCorr = (getCg s j).linkCorr := by
  have hmod : ∀ (u : State) (c j : Nat) (f : Cg → Cg), (∀ x, (f x).corr = x.corr ∧ (f x).linkCorr = x.linkCorr) →
      (getCg (modCg u c f) j).corr = (getCg u j).corr ∧ (getCg (modCg u c f) j).linkCorr = (getCg u j).linkCorr := fun u c j f hf => by
    by_cases hj : j = c
    · rw [hj, getCg_modCg_same]
      exact hf _
    · rw [getCg_modCg_ne _ _ hj]
      exact ⟨rfl, rfl⟩
  have hsince := fun j => hmod s (cgOf s (line * 64)) j (fun x => { x with corrSince := x.corrSince + 1 }) (by exact fun _ => ⟨rfl, rfl⟩)
  unfold corrected
  dsimp only
  split
  · refine ⟨rfl, fun j => ?_⟩
    obtain ⟨hc, hl⟩ := hmod (event (srcMc (cgOf s (line * 64))) 0x2002 noParty _ (modCg s (cgOf s (line * 64)) _)) (cgOf s (line * 64)) j
      (fun y => { y with corrSince := 0, corrAt := s.ktime + 1 }) (by exact fun _ => ⟨rfl, rfl⟩)
    exact ⟨hc.trans (hsince j).1, hl.trans (hsince j).2⟩
  · exact ⟨rfl, hsince⟩

/-- A one-bit error of the link is gone, and counted for its channel. -/
theorem linkCross_corrected {line : Nat} {s : State} (h : tget s.mem.linkErr (cgOf s (line * 64) * 4 + chanOf s line) = 1) :
    (linkCross false line s).2 = false ∧ (linkCross false line s).1.mem.cells = s.mem.cells ∧
    (linkCross false line s).1.mem.lineErr = s.mem.lineErr ∧
    (linkCross false line s).1.mem.linkErr = tput s.mem.linkErr (cgOf s (line * 64) * 4 + chanOf s line) 0 ∧
    tget (getCg (linkCross false line s).1 (cgOf s (line * 64))).linkCorr (chanOf s line) =
      (tget (getCg s (cgOf s (line * 64))).linkCorr (chanOf s line)).add 1 := by
  unfold linkCross
  dsimp only
  rw [if_neg (by rw [h]; decide), if_pos h]
  obtain ⟨hmem, hcg⟩ := corrected_keeps line 2 (modCg { s with mem := { s.mem with
    linkErr := tput s.mem.linkErr (cgOf s (line * 64) * 4 + chanOf s line) 0 } } (cgOf s (line * 64)) fun x =>
      { x with linkCorr := tmod x.linkCorr (chanOf s line) fun n => n.add 1 })
  refine ⟨rfl, (congrArg Mem.cells hmem).trans rfl, (congrArg Mem.lineErr hmem).trans rfl, (congrArg Mem.linkErr hmem).trans rfl, ?_⟩
  refine (congrArg (tget · (chanOf s line)) (hcg (cgOf s (line * 64))).2).trans ?_
  rw [getCg_modCg_same]
  exact tget_tmod_same (getCg s (cgOf s (line * 64))).linkCorr (chanOf s line) fun n => n.add 1

theorem getCg_strainerIn_corr (c j : Nat) (k : TClass) (n : Nat) (s : State) :
    (getCg (strainerIn c k none n s) j).corr = (getCg s j).corr ∧ (getCg (strainerIn c k none n s) j).linkCorr = (getCg s j).linkCorr := by
  unfold strainerIn
  dsimp only
  by_cases hj : j = c
  · rw [hj, getCg_modCg_same]
    exact ⟨rfl, rfl⟩
  · rw [getCg_modCg_ne _ _ hj]
    exact ⟨rfl, rfl⟩

/-- A corrected line of DRAM is good, and counted for its channel group. -/
theorem dramCorrected_effect {line : Nat} {s : State} (h : tget s.mem.linkErr (cgOf s (line * 64) * 4 + chanOf s line) = 0) :
    (dramCorrected line s).mem.cells = s.mem.cells ∧ tget (dramCorrected line s).mem.lineErr line = 0 ∧
    (getCg (dramCorrected line s) (cgOf s (line * 64))).corr = (getCg s (cgOf s (line * 64))).corr.add 1 := by
  set u := strainerIn (cgOf s (line * 64)) .maint none 64 { s with mem := { s.mem with lineErr := tput s.mem.lineErr line 0 } } with hu
  have hwrite : linkWrite line u = u := by
    unfold linkWrite
    rw [linkCross_good (show tget u.mem.linkErr (cgOf u (line * 64) * 4 + chanOf u line) = 0 from h)]
    exact if_neg Bool.false_ne_true
  have heq : dramCorrected line s = corrected line 0 (modCg u (cgOf s (line * 64)) fun x => { x with corr := x.corr.add 1 }) := by
    unfold dramCorrected
    dsimp only
    rw [← hu, hwrite]
  obtain ⟨hmem, hcg⟩ := corrected_keeps line 0 (modCg u (cgOf s (line * 64)) fun x => { x with corr := x.corr.add 1 })
  rw [heq]
  refine ⟨(congrArg Mem.cells hmem).trans rfl, ?_, ?_⟩
  · exact (congrArg (fun m : Mem => tget m.lineErr line) hmem).trans (tget_tput_same ..)
  · rw [(hcg _).1, getCg_modCg_same]
    exact congrArg (Stat.add · 1) (getCg_strainerIn_corr ..).1

section
variable {c : Fin 8} {line : Nat} {s : State}

/-- The patrol's read finds the link of its channel as it stands in `s`. -/
theorem linkErr_patrolled (hline : line < cgBytes s / 64) :
    tget (patrolled c.val s).mem.linkErr (cgOf (patrolled c.val s) ((c.val * (cgBytes s / 64) + line) * 64) * 4 +
      chanOf (patrolled c.val s) (c.val * (cgBytes s / 64) + line)) = tget s.mem.linkErr (c.val * 4 + line % 4) := by
  have hcg : cgOf (patrolled c.val s) ((c.val * (cgBytes s / 64) + line) * 64) = c.val := cgOf_groupLine hline
  have hchan : chanOf (patrolled c.val s) (c.val * (cgBytes s / 64) + line) = line % 4 := chanOf_groupLine hline
  rw [hcg, hchan]
  rfl

theorem memOnly_patrolled : MemOnly s (patrolled c.val s) := memOnly_strainerIn ..

theorem exec_patrolScrub_linkGood (hon : dramOn s = true) (hline : line < cgBytes s / 64) (hlink : tget s.mem.linkErr (c.val * 4 + line % 4) = 0) :
    exec (.patrolScrub c line) s = .next (
      match tget s.mem.lineErr (c.val * (cgBytes s / 64) + line) with
      | 0 => patrolled c.val s
      | 1 => dramCorrected (c.val * (cgBytes s / 64) + line) (patrolled c.val s)
      | _ => event (srcMc c.val) 0x2003 noParty (leBytes 2 (freeNum (patrolled c.val s)).1 ++
            leBytes 6 ((c.val * (cgBytes s / 64) + line) * 64) ++ leBytes 1 2) (freeNum (patrolled c.val s)).2) := by
  have hexec := exec_patrolScrub (c := c) hon hline
  rw [linkCross_good ((linkErr_patrolled hline).trans hlink)] at hexec
  exact hexec

theorem runs_patrolScrub_good (hon : dramOn s = true) (hline : line < cgBytes s / 64)
    (herr : tget s.mem.lineErr (c.val * (cgBytes s / 64) + line) = 0) (hlink : tget s.mem.linkErr (c.val * 4 + line % 4) = 0) :
    Runs (.patrolScrub c line) s fun t => MemSame s t ∧ t.caddy = s.caddy ∧ t = { s with mem := t.mem } ∧
      (getCg t c.val).corr = (getCg s c.val).corr := by
  have hexec := exec_patrolScrub_linkGood hon hline hlink
  rw [herr] at hexec
  exact ⟨_, hexec, fun _ => rfl, rfl, rfl, (getCg_strainerIn_corr ..).1⟩

theorem runs_patrolScrub_link (hon : dramOn s = true) (hline : line < cgBytes s / 64)
    (herr : tget s.mem.lineErr (c.val * (cgBytes s / 64) + line) = 0) (hlink : tget s.mem.linkErr (c.val * 4 + line % 4) = 1) :
    Runs (.patrolScrub c line) s fun t => MemSame s t ∧ t = { s with mem := t.mem, caddy := t.caddy } ∧
      t.mem.linkErr = tput s.mem.linkErr (c.val * 4 + line % 4) 0 ∧
      tget (getCg t c.val).linkCorr (line % 4) = (tget (getCg s c.val).linkCorr (line % 4)).add 1 := by
  have hexec := exec_patrolScrub (c := c) hon hline
  have honly := memOnly_patrolled.trans (memOnly_linkCross false (c.val * (cgBytes s / 64) + line) (patrolled c.val s))
  obtain ⟨hno, hcells, hline', hlink', hcorr⟩ := linkCross_corrected ((linkErr_patrolled hline).trans hlink)
  have hcg : cgOf (patrolled c.val s) ((c.val * (cgBytes s / 64) + line) * 64) = c.val := cgOf_groupLine hline
  have hchan : chanOf (patrolled c.val s) (c.val * (cgBytes s / 64) + line) = line % 4 := chanOf_groupLine hline
  rw [hcg, hchan] at hlink' hcorr
  generalize linkCross false (c.val * (cgBytes s / 64) + line) (patrolled c.val s) = x at hexec honly hno hcells hline' hlink' hcorr
  dsimp only at hexec
  rw [hno, hline', show (patrolled c.val s).mem.lineErr = s.mem.lineErr from rfl, herr] at hexec
  refine ⟨_, hexec, fun a => congrArg (tget · a) hcells, honly.eq, hlink', hcorr.trans ?_⟩
  exact congrArg (fun n => (tget n (line % 4)).add 1) (getCg_strainerIn_corr ..).2

theorem runs_patrolScrub_corrected (hon : dramOn s = true) (hline : line < cgBytes s / 64)
    (herr : tget s.mem.lineErr (c.val * (cgBytes s / 64) + line) = 1) (hlink : tget s.mem.linkErr (c.val * 4 + line % 4) = 0) :
    Runs (.patrolScrub c line) s fun t => MemSame s t ∧ t = { s with mem := t.mem, caddy := t.caddy } ∧
      tget t.mem.lineErr (c.val * (cgBytes s / 64) + line) = 0 ∧ (getCg t c.val).corr = (getCg s c.val).corr.add 1 := by
  have hexec := exec_patrolScrub_linkGood hon hline hlink
  rw [herr] at hexec
  obtain ⟨hcells, hgood, hcorr⟩ := dramCorrected_effect ((linkErr_patrolled hline).trans hlink)
  have hcg : cgOf (patrolled c.val s) ((c.val * (cgBytes s / 64) + line) * 64) = c.val := cgOf_groupLine hline
  rw [hcg] at hcorr
  exact ⟨_, hexec, fun a => congrArg (tget · a) hcells, (memOnly_patrolled.trans (memOnly_dramCorrected ..)).eq, hgood,
    hcorr.trans (congrArg (Stat.add · 1) (getCg_strainerIn_corr ..).1)⟩

theorem runs_patrolScrub_uncorrectable (hon : dramOn s = true) (hline : line < cgBytes s / 64)
    (herr : 2 ≤ tget s.mem.lineErr (c.val * (cgBytes s / 64) + line)) (hlink : tget s.mem.linkErr (c.val * 4 + line % 4) = 0) :
    Runs (.patrolScrub c line) s fun t => MemSame s t ∧ t.mem.lineErr = s.mem.lineErr ∧
      ∃ x, Logs 0x2003 (srcMc c.val) (leBytes 2 x ++ leBytes 6 ((c.val * (cgBytes s / 64) + line) * 64) ++ leBytes 1 2) s t := by
  have hexec := exec_patrolScrub_linkGood hon hline hlink
  obtain ⟨n, hn⟩ := Nat.exists_eq_add_of_le' herr
  rw [hn] at hexec
  exact ⟨_, hexec, fun _ => rfl, rfl, _, logs_event (s := s) (u := (freeNum (patrolled c.val s)).2) (by simp) rfl rfl rfl rfl⟩

end

/-! ### Channel failures (R339) -/

theorem mem_haltEst (e : Nat) (s : State) : (haltEst e s).mem = s.mem := by
  unfold haltEst
  dsimp only
  split
  · rfl
  · exact keeps_foldl State.mem (by exact fun _ _ => rfl) _ s

theorem twoFault_effect (es : List Nat) (src : Nat) (s : State) : (twoFault es src s).mem = s.mem ∧
    ∃ rs u, Wrote rs s u ∧ rs.length ≤ 2 ∧ (twoFault es src s).caddy.ring = u.caddy.ring := by
  unfold twoFault
  extract_lets r h
  obtain ⟨hhalt, -⟩ := halting_haltAll es s
  have hmem : h.mem = s.mem := keeps_foldl State.mem (by exact fun s e => mem_haltEst e s) es s
  obtain ⟨-, hframe, hwrote⟩ := assertFrom_effect 0x2000 0 { h with safe := { h.safe with halted := true } }
  obtain ⟨q, u, hlast, hring, -, -, hmark⟩ := freezeMarker_effect 0 r src (assertFaultN 0 { h with safe := { h.safe with halted := true } })
  refine ⟨?_, _, u, (hhalt.wrote.trans ⟨hwrote.caddy, hwrote.ktime⟩).trans hlast, by simp, hring⟩
  rw [hmark]
  exact (congrArg State.mem hframe).trans hmem

theorem sharedFault_effect (es : List Nat) (src : Nat) (s : State) : (sharedFault es src s).mem = s.mem ∧
    ∃ rs u, Wrote rs s u ∧ rs.length ≤ 2 ∧ (sharedFault es src s).caddy.ring = u.caddy.ring := by
  unfold sharedFault
  split
  · exact ⟨rfl, [], s, .refl s, by simp, rfl⟩
  · exact twoFault_effect ..

theorem runs_channelFail {c : Fin 8} {ch : Fin 4} {b : Bool} {s : State} (hon : dramOn s = true)
    (hgood : bitOf (getCg s c.val).failed ch.val = false) :
    RunsThen (.channelFail c ch b) s settle fun u => (getCg u c.val).failed = (getCg s c.val).failed ||| 2 ^ ch.val ∧
      Logs 0x2005 (srcMc c.val) (leBytes 1 c.val ++ leBytes 1 ch.val ++ leBytes 1 (b2n b)) s u ∧
      (s.jobs.recovery = 0 → u = { s with mem := u.mem, caddy := u.caddy }) := by
  set v := event (srcMc c.val) 0x2005 noParty (leBytes 1 c.val ++ leBytes 1 ch.val ++ leBytes 1 (b2n b))
    (modCg s c.val fun x => { x with failed := x.failed ||| 2 ^ ch.val }) with hv
  have hexec : ∃ es, exec (.channelFail c ch b) s = .next (settle (sharedFault es (srcMc c.val) v)) := by
    apply Exists.intro
    show execChannelFail c ch b s = _
    unfold execChannelFail
    dsimp only
    rw [if_neg (by simp [hon, hgood])]
  obtain ⟨es, hexec⟩ := hexec
  obtain ⟨hmem, rs, u, hwrote, hlen, hring⟩ := sharedFault_effect es (srcMc c.val) v
  have hfirst : Wrote [recOf (srcMc c.val) 0x2005 noParty (leBytes 1 c.val ++ leBytes 1 ch.val ++ leBytes 1 (b2n b)) s] s v :=
    ⟨rfl, rfl⟩
  refine ⟨_, hexec, ?_, ?_, fun hrec => ?_⟩
  · refine (congrArg (fun m : Mem => (tget m.cg c.val).failed) hmem).trans ?_
    exact congrArg Cg.failed (getCg_modCg_same ..)
  · exact logs_of_ring ((hfirst.trans hwrote).logs (by simp; omega) rfl (by simp)) hring
  · unfold sharedFault
    rw [if_pos (show v.jobs.recovery = 0 from hrec)]
    rfl

/-! ### Cache operations and zeroing (R344, R431) -/

theorem memOnly_cleanWay (key : Nat) (inval : Bool) (s : State) : MemOnly s (cleanWay key inval s) := by
  unfold cleanWay
  dsimp only
  split
  · exact .refl s
  · refine MemOnly.trans ?_ ⟨rfl⟩
    unfold writeBack
    exact .ite (memOnly_linkWrite ..) (.refl s)

theorem memOnly_cleanLines (f : Nat → Nat → Bool) (inval : Bool) (s : State) : MemOnly s (cleanLines f inval s) := by
  unfold cleanLines
  generalize s.mem.cache = l
  induction l generalizing s with
  | nil => exact .refl s
  | cons e l ih => exact (MemOnly.ite (memOnly_cleanWay ..) (.refl s)).trans (ih _)

/-- What a write-back leaves of memory: bytes, cache ways, operations under way and granules to zero. -/
structure LinesKept (s t : State) : Prop where
  cells : t.mem.cells = s.mem.cells
  ops : t.mem.ops = s.mem.ops
  zeroing : t.mem.zeroing = s.mem.zeroing

theorem LinesKept.refl (s : State) : LinesKept s s := ⟨rfl, rfl, rfl⟩

theorem LinesKept.trans {s t u : State} (a : LinesKept s t) (b : LinesKept t u) : LinesKept s u :=
  ⟨b.cells.trans a.cells, b.ops.trans a.ops, b.zeroing.trans a.zeroing⟩

theorem linesKept_linkCross (w : Bool) (line : Nat) (s : State) : LinesKept s (linkCross w line s).1 ∧ (linkCross w line s).1.mem.cache = s.mem.cache := by
  unfold linkCross
  dsimp only
  split
  · exact ⟨.refl s, rfl⟩
  · split
    · obtain ⟨hmem, -⟩ := corrected_keeps line (if w = true then 1 else 2) (modCg { s with mem := { s.mem with
        linkErr := tput s.mem.linkErr (cgOf s (line * 64) * 4 + chanOf s line) 0 } } (cgOf s (line * 64)) fun x =>
          { x with linkCorr := tmod x.linkCorr (chanOf s line) fun n => n.add 1 })
      exact ⟨⟨(congrArg Mem.cells hmem).trans rfl, (congrArg Mem.ops hmem).trans rfl, (congrArg Mem.zeroing hmem).trans rfl⟩,
        (congrArg Mem.cache hmem).trans rfl⟩
    · exact ⟨⟨rfl, rfl, rfl⟩, rfl⟩

theorem linesKept_writeBack (key : Nat) (s : State) : LinesKept s (writeBack key s) ∧ (writeBack key s).mem.cache = s.mem.cache := by
  unfold writeBack
  dsimp only
  split
  · have hcross := linesKept_linkCross true ((tget s.mem.cache key).line - 1) s
    unfold linkWrite
    dsimp only
    split
    · exact ⟨hcross.1.trans ⟨rfl, rfl, rfl⟩, hcross.2⟩
    · exact hcross
  · exact ⟨.refl s, rfl⟩

theorem linesKept_cleanWay (key : Nat) (inval : Bool) (s : State) : LinesKept s (cleanWay key inval s) := by
  unfold cleanWay
  dsimp only
  split
  · exact .refl s
  · exact (linesKept_writeBack key s).1.trans ⟨rfl, rfl, rfl⟩

theorem linesKept_cleanLines (f : Nat → Nat → Bool) (inval : Bool) (s : State) : LinesKept s (cleanLines f inval s) := by
  unfold cleanLines
  generalize s.mem.cache = l
  induction l generalizing s with
  | nil => exact .refl s
  | cons e l ih =>
    refine LinesKept.trans ?_ (ih _)
    dsimp only
    split
    · exact linesKept_cleanWay ..
    · exact .refl s

theorem cache_cleanWay_ne {key k : Nat} (h : k ≠ key) (inval : Bool) (s : State) :
    tget (cleanWay key inval s).mem.cache k = tget s.mem.cache k := by
  unfold cleanWay
  dsimp only
  split
  · rfl
  · exact (tget_tput_ne _ _ h).trans (congrArg (tget · k) (linesKept_writeBack key s).2)

/-- Whoever asks, a way that holds a line is clean once it was cleaned. -/
theorem dirty_cleanWay {k : Nat} {inval : Bool} {s : State} (h : (tget s.mem.cache k).line ≠ 0) :
    (tget (cleanWay k inval s).mem.cache k).dirty = false := by
  unfold cleanWay
  dsimp only
  rw [if_neg h]
  refine (congrArg CLine.dirty (tget_tput_same ..)).trans ?_
  split <;> rfl

theorem dirty_cleanWay_of_clean {k key : Nat} {inval : Bool} {s : State} (h : (tget s.mem.cache k).dirty = false) :
    (tget (cleanWay key inval s).mem.cache k).dirty = false := by
  by_cases hk : k = key
  · subst hk
    by_cases hline : (tget s.mem.cache k).line = 0
    · unfold cleanWay
      dsimp only
      rw [if_pos hline]
      exact h
    · exact dirty_cleanWay hline
  · rw [cache_cleanWay_ne hk]
    exact h

theorem dirty_cleanFold {f : Nat → Nat → Bool} {inval : Bool} {k : Nat} {x : CLine} (hline : x.line ≠ 0) (hf : f k (x.line - 1) = true)
    (l : Tab CLine) (u : State) (h : (tget u.mem.cache k).dirty = false ∨ (tget u.mem.cache k = x ∧ tget l k = x)) :
    (tget (l.foldl (fun s e => if f e.1 (e.2.line - 1) then cleanWay e.1 inval s else s) u).mem.cache k).dirty = false := by
  induction l generalizing u with
  | nil =>
    rcases h with h | ⟨-, h⟩
    · exact h
    · exact absurd (congrArg CLine.line h.symm) hline
  | cons e l ih =>
    refine ih _ ?_
    dsimp only
    rcases h with h | ⟨hu, hl⟩
    · refine .inl ?_
      split
      · exact dirty_cleanWay_of_clean h
      · exact h
    · by_cases hk : e.1 = k
      · rw [tget, if_pos hk] at hl
        refine .inl ?_
        rw [hl, hk, if_pos hf]
        exact dirty_cleanWay (by rw [hu]; exact hline)
      · rw [tget, if_neg hk] at hl
        refine .inr ⟨?_, hl⟩
        split
        · exact (cache_cleanWay_ne (Ne.symm hk) ..).trans hu
        · exact hu

/-- A way that the operation covers is clean at its end: before its turn it stands as it was, and from then on it stays clean. -/
theorem dirty_cleanLines {f : Nat → Nat → Bool} {inval : Bool} {k : Nat} {s : State} (hline : (tget s.mem.cache k).line ≠ 0)
    (hf : f k ((tget s.mem.cache k).line - 1) = true) : (tget (cleanLines f inval s).mem.cache k).dirty = false :=
  dirty_cleanFold hline hf _ s (.inr ⟨rfl, rfl⟩)

theorem runs_cacheOpDone {p : Party} {s : State} {o : CacheOp} (hop : s.mem.ops.find? (fun x => decide (x.pend.party = pidx p)) = some o)
    (hup : fabricUp s = true) : RunsThen (.cacheOpDone p) s (finish o.pend ok) fun u => u.mem.ops = s.mem.ops.erase o ∧ MemSame s u ∧
      u = { s with mem := u.mem, caddy := u.caddy } ∧
      ∀ k, (tget s.mem.cache k).line ≠ 0 → opCovers s o k ((tget s.mem.cache k).line - 1) = true → (tget u.mem.cache k).dirty = false := by
  have honly := memOnly_cleanLines (opCovers s o) o.inval s
  have hkept := linesKept_cleanLines (opCovers s o) o.inval s
  have hexec : exec (.cacheOpDone p) s = .next (finish o.pend ok { cleanLines (opCovers s o) o.inval s with
      mem := { (cleanLines (opCovers s o) o.inval s).mem with ops := (cleanLines (opCovers s o) o.inval s).mem.ops.erase o } }) := by
    show execCacheOpDone p s = _
    unfold execCacheOpDone
    rw [hop]
    dsimp only
    rw [if_neg (by simp [hup])]
  exact ⟨_, hexec, congrArg (List.erase · o) hkept.ops, fun a => congrArg (tget · a) hkept.cells, (honly.trans ⟨rfl⟩).eq,
    fun k hline hcov => dirty_cleanLines hline hcov⟩

theorem runs_granuleZeroed {g : Nat} {s : State} (hup : fabricUp s = true)
    (hfirst : s.mem.zeroing.find? (fun x => decide (cgOf s (x * 0x4000000) = cgOf s (g * 0x4000000))) = some g) :
    RunsThen (.granuleZeroed g) s settle fun u => (∀ i < 0x4000000, tget u.mem.cells (g * 0x4000000 + i) = 0) ∧
      MemOutside (g * 0x4000000) 0x4000000 s u ∧ u.mem.zeroing = s.mem.zeroing.filter (fun x => decide (x ≠ g)) ∧
      u = { s with mem := u.mem, caddy := u.caddy } := by
  have honly := memOnly_cleanLines (fun _ l => decide (g * (0x4000000 / 64) ≤ l) && decide (l < (g + 1) * (0x4000000 / 64))) true s
  have hkept := linesKept_cleanLines (fun _ l => decide (g * (0x4000000 / 64) ≤ l) && decide (l < (g + 1) * (0x4000000 / 64))) true s
  have hexec : exec (.granuleZeroed g) s = .next (settle { zeroGranule g s with
      mem := { (zeroGranule g s).mem with zeroing := (zeroGranule g s).mem.zeroing.filter fun x => decide (x ≠ g) } }) := by
    show execGranuleZeroed g s = _
    unfold execGranuleZeroed
    dsimp only
    rw [hfirst, if_neg (by simp [hup])]
  unfold zeroGranule at hexec
  dsimp only at hexec
  generalize cleanLines _ true s = v at hexec honly hkept
  refine ⟨_, hexec, fun i hi => ?_, fun x hx => ?_, congrArg (List.filter _) hkept.zeroing, (honly.trans ⟨rfl⟩).eq⟩
  · exact tget_tclear_in _ ⟨by omega, by omega⟩
  · exact (tget_tclear_out _ (by omega)).trans (congrArg (tget · x) hkept.cells)

theorem memoryUpkeep : MemoryUpkeep :=
  ⟨fun _ _ _ hon hline => ⟨fun herr hlink => runs_patrolScrub_good hon hline herr hlink, fun herr hlink => runs_patrolScrub_link hon hline herr hlink,
      fun herr hlink => runs_patrolScrub_corrected hon hline herr hlink, fun herr hlink => runs_patrolScrub_uncorrectable hon hline herr hlink⟩,
    fun _ _ _ _ => runs_channelFail, fun _ _ _ => runs_cacheOpDone, fun _ _ => runs_granuleZeroed⟩

/-- Settles O35. -/
theorem strainersAndUpkeep : Obligations.StrainersAndUpkeep := ⟨strainerRules, memoryUpkeep⟩

end Sys2Proof.Machine

/-! Staging, activation and rollback of firmware (R380 to R385, R442). -/

namespace Sys2Proof.Machine
open Sys2Proof.Claims

/-! ### Activation (R381 to R383) -/

theorem posted_finishAll (ds : List Pend) (a : Ans) (s : State) : Posted s (finishAll ds a s) := by
  unfold finishAll
  induction ds generalizing s with
  | nil => exact .refl s
  | cons d ds ih => exact (posted_finish d a s).trans (ih _)

/-- What the Kettle's queues and mailboxes write leaves the firmware's record but for the completions that it holds. -/
theorem Posted.firm {s t : State} (h : Posted s t) : t.firm = { s.firm with heldOut := t.firm.heldOut } := by
  rw [h.eq]
  rfl

theorem runs_activationWindowOpen {s : State} (hasked : s.firm.act = .asked) (hrec : s.jobs.recovery = 0) (hkill : killNear s = false)
    (hfault : s.safe.kettleFault = false) (hsup : s.pw.supplied = true) :
    Runs .activationWindowOpen s fun t => t.firm.act = .open_ ∧ t.firm.openedAt = s.ktime ∧ t.firm.attest = [] ∧ t.firm.slot = s.firm.slot ∧
      (s.pw.st = .hush → s.pw.parking = 0 → s.pw.thermalDoze = false → s.pw.forced = false → t.pw.st = .run) := by
  have hexec : exec .activationWindowOpen s = .next (modFirm (abortAttests (wakeFrom false 2 0xFF s)) fun f =>
      { f with act := .open_, openedAt := (abortAttests (wakeFrom false 2 0xFF s)).ktime }) := by
    show execActivationWindowOpen s = _
    unfold execActivationWindowOpen
    rw [if_neg (by simp [hasked, hrec, hkill, hfault, hsup])]
  have hwake := queue_wakeFrom_false 2 0xFF s
  set w := wakeFrom false 2 0xFF s with hw
  have hpost : Posted (modFirm w fun f => { f with attest := [], body := [] }) (abortAttests w) := posted_finishAll ..
  have hfirm : w.firm = s.firm := (congrArg State.firm hwake).trans rfl
  have hktime : w.ktime = s.ktime := (congrArg State.ktime hwake).trans rfl
  refine ⟨_, hexec, rfl, ?_, ?_, ?_, fun hhush hpark hthermal hforced => ?_⟩
  · exact hpost.ktime.trans hktime
  · exact (congrArg Firm.attest hpost.firm).trans rfl
  · exact ((congrArg Firm.slot hpost.firm).trans rfl : (abortAttests w).firm.slot = w.firm.slot).trans (congrArg Firm.slot hfirm)
  · refine (congrArg (·.st) hpost.pw).trans ?_
    exact wakeFrom_run (.inl hhush) ⟨hpark, hthermal, hforced⟩ fun hdoze => by rw [hhush] at hdoze; cases hdoze

/-- The state of a new Afzan's first moment: its slot runs, and every party's AFI is to be seen again. -/
def switched (s : State) : State :=
  { modFirm s fun f => { f with slot := 1 - f.slot, committed := bitOf s.firm.actFlags 1, staged := false, deriving_ := true } with
    party := tmap (fun (p : PartySt) => { p with afiSeen := false }) s.party }

theorem runs_activationReady {s : State} (hopen : s.firm.act = .open_) (htime : windowTime s < 2000000) :
    RunsThen .activationReady s
        (fun u => if bitOf s.firm.actFlags 0 then afiNotices (finish s.firm.actPend ok (endWindow u)) else finish s.firm.actPend ok (endWindow u))
      fun u => u.firm.slot = 1 - s.firm.slot ∧ u.firm.committed = bitOf s.firm.actFlags 1 ∧ u.firm.staged = false ∧
        u = { s with firm := u.firm, party := u.party, caddy := u.caddy } ∧
        Logs 0xA002 srcAfzan (leBytes 1 u.firm.slot ++ leBytes 4 (runSlot u).release ++ leBytes 4 (windowTime s / 100)) s u ∧
        (bitOf s.firm.actFlags 1 = true → LogsNth 1 0xA003 srcAfzan (leBytes 1 u.firm.slot ++ leBytes 1 1) s u) := by
  set v := event srcAfzan 0xA002 noParty (leBytes 1 (switched s).firm.slot ++ leBytes 4 (runSlot (switched s)).release ++
    leBytes 4 (windowTime s / 100)) (switched s) with hv
  set u := if bitOf s.firm.actFlags 1 then event srcAfzan 0xA003 noParty (leBytes 1 v.firm.slot ++ leBytes 1 1) v else v with hu
  have hexec : exec .activationReady s = .next
      (if bitOf s.firm.actFlags 0 then afiNotices (finish s.firm.actPend ok (endWindow u)) else finish s.firm.actPend ok (endWindow u)) := by
    show execActivationReady s = _
    unfold execActivationReady
    rw [if_neg (by simp [hopen, Nat.not_le.2 htime])]
    rfl
  have hv1 : Wrote [recOf srcAfzan 0xA002 noParty (leBytes 1 (switched s).firm.slot ++ leBytes 4 (runSlot (switched s)).release ++
      leBytes 4 (windowTime s / 100)) s] s v := ⟨rfl, rfl⟩
  refine ⟨u, hexec, ?_⟩
  by_cases hrevert : bitOf s.firm.actFlags 1 = true
  · rw [if_pos hrevert] at hu
    have hw := hv1.event srcAfzan 0xA003 noParty (leBytes 1 v.firm.slot ++ leBytes 1 1)
    rw [hu]
    exact ⟨rfl, rfl, rfl, rfl, hw.logs (by simp) rfl (by simp), fun _ => hw.logsNth (i := 1) (by simp) (by simp) rfl (by simp)⟩
  · rw [if_neg hrevert] at hu
    rw [hu]
    exact ⟨rfl, rfl, rfl, rfl, hv1.logs (by simp) rfl (by simp), fun h => absurd h hrevert⟩

theorem runs_activationWatchdog {s : State} (hopen : s.firm.act = .open_) (htime : 2000000 ≤ windowTime s) :
    RunsThen .activationWatchdog s (fun u => finish s.firm.actPend (sts stABORTED) (endWindow u)) fun u => u = { s with caddy := u.caddy } ∧
      Logs 0xA003 srcAfzan (leBytes 1 s.firm.slot ++ leBytes 1 0) s u := by
  have hexec : exec .activationWatchdog s = .next (rollback s) := by
    show execActivationWatchdog s = _
    unfold execActivationWatchdog
    rw [if_neg (by simp [hopen, Nat.not_lt.2 htime])]
  exact ⟨_, hexec, rfl, logs_event (s := s) (by simp) rfl rfl rfl rfl⟩

/-! ### Staging (R380) -/

section
variable {s : State} {d : Pend} {x : Slot} {v : Nat × Nat}

/-- Whichever slot runs, the other one takes the image. -/
theorem slots_putOther (x : Slot) (s : State) : otherSlot (putOther x s) = x ∧ runSlot (putOther x s) = runSlot s ∧
    putOther x s = { s with firm := (putOther x s).firm } := by
  unfold otherSlot runSlot putOther modFirm
  by_cases h : s.firm.slot = 0 <;> simp [h]

theorem runs_fwStageDone_good (hstaging : s.firm.staging = some (d, x, v)) (hok : v.1 = stOK) :
    RunsThen (.fwStageDone true) s (finish d (okWith (leBytes 2 x.afi ++ leBytes 4 x.release))) fun u => otherSlot u = x ∧
      runSlot u = runSlot s ∧ u.firm.staged = true ∧ u.firm.staging = none ∧ u = { s with firm := u.firm, caddy := u.caddy } ∧
      Logs 0xA001 srcAfzan (leBytes 1 (1 - s.firm.slot) ++ leBytes 4 x.release ++ leBytes 2 x.afi) s u := by
  obtain ⟨hother, hrun, hput⟩ := slots_putOther x (modFirm s fun f => { f with staging := none })
  set p := putOther x (modFirm s fun f => { f with staging := none }) with hp
  have hslot : p.firm.slot = s.firm.slot := by
    rw [hp, putOther, modFirm]
    dsimp only
    split <;> rfl
  have hstag : p.firm.staging = none := by
    rw [hp, putOther, modFirm]
    dsimp only
    split <;> rfl
  set w := modFirm p fun f => { f with staged := true } with hw
  have hexec : exec (.fwStageDone true) s = .next (finish d (okWith (leBytes 2 x.afi ++ leBytes 4 x.release))
      (event srcAfzan 0xA001 noParty (leBytes 1 (1 - w.firm.slot) ++ leBytes 4 x.release ++ leBytes 2 x.afi) w)) := by
    show execFwStageDone true s = _
    unfold execFwStageDone
    rw [hstaging]
    dsimp only
    rw [if_neg (not_not.2 hok), if_neg (by decide)]
  rw [show w.firm.slot = s.firm.slot from hslot] at hexec
  refine ⟨_, hexec, hother, hrun, rfl, hstag, ?_, logs_event (s := s) (u := w) (by simp) ?_ ?_ rfl ?_⟩
  · exact (congrArg (fun t : State => { t with
      firm := { p.firm with staged := true }
      caddy := (event srcAfzan 0xA001 noParty (leBytes 1 (1 - s.firm.slot) ++ leBytes 4 x.release ++ leBytes 2 x.afi) w).caddy }) hput).trans rfl
  · exact (congrArg State.caddy hput).trans rfl
  · exact (congrArg State.ktime hput).trans rfl
  · exact (congrArg State.ktime hput).trans rfl

theorem runs_fwStageDone_failed (b : Bool) (hstaging : s.firm.staging = some (d, x, v)) (hbad : v.1 ≠ stOK) :
    RunsThen (.fwStageDone b) s (finish d { status := v.1, detail := v.2 }) fun u => u = { s with firm := { s.firm with staging := none } } := by
  have hexec : exec (.fwStageDone b) s = .next (finish d { status := v.1, detail := v.2 } (modFirm s fun f => { f with staging := none })) := by
    show execFwStageDone b s = _
    unfold execFwStageDone
    rw [hstaging]
    dsimp only
    rw [if_pos hbad]
  exact ⟨_, hexec, rfl⟩

theorem runs_fwStageDone_readBack (hstaging : s.firm.staging = some (d, x, v)) (hok : v.1 = stOK) :
    RunsThen (.fwStageDone false) s (finish d (sts stDATA_ERROR)) fun u => otherSlot u = {} ∧ runSlot u = runSlot s ∧ u.firm.staged = false := by
  obtain ⟨hother, hrun, -⟩ := slots_putOther {} (modFirm s fun f => { f with staging := none })
  have hexec : exec (.fwStageDone false) s = .next (finish d (sts stDATA_ERROR)
      (modFirm (putOther {} (modFirm s fun f => { f with staging := none })) fun f => { f with staged := false })) := by
    show execFwStageDone false s = _
    unfold execFwStageDone
    rw [hstaging]
    dsimp only
    rw [if_neg (not_not.2 hok), if_pos (by decide)]
  exact ⟨_, hexec, hother, hrun, rfl⟩

end

theorem runs_aliasDerived {s : State} (h : s.firm.deriving_ = true) :
    Runs .aliasDerived s fun t => t = { s with firm := { s.firm with deriving_ := false, aliasGen := s.firm.aliasGen + 1 } } := by
  refine ⟨_, ?_, rfl⟩
  show execAliasDerived s = _
  unfold execAliasDerived
  rw [if_pos h]
  rfl

/-- Settles O36. -/
theorem firmwareActivation : Obligations.FirmwareActivation :=
  ⟨fun _ => runs_activationWindowOpen, fun _ => runs_activationReady, fun _ => runs_activationWatchdog, fun _ _ _ _ => runs_fwStageDone_good,
    fun _ b _ _ _ => runs_fwStageDone_failed b, fun _ _ _ _ => runs_fwStageDone_readBack, fun _ => runs_aliasDerived⟩

end Sys2Proof.Machine

/-! Template loads and alarms (R371, R377). -/

namespace Sys2Proof.Machine
open Sys2Proof.Claims

/-! ### Template loads -/

theorem exec_templateLoadDone {p : Party} {s : State} {d : Pend} {a n : Nat} {rest : List (Pend × Nat × Nat)}
    (hload : (getParty s (pidx p)).loading = (d, a, n) :: rest) (hadm : admitting s = true) :
    exec (.templateLoadDone p) s = .next (loadTmpl d a n (modParty s (pidx p) fun t => { t with loading := rest })) := by
  show execTemplateLoadDone p s = _
  unfold execTemplateLoadDone
  dsimp only
  rw [hload]
  dsimp only
  rw [if_neg (by simp [hadm])]

theorem memRead_modParty (s : State) (p : Nat) (f : PartySt → PartySt) (a n : Nat) : memRead (modParty s p f) a n = memRead s a n := by
  rw [memRead, modParty_mem, ← memRead]

theorem loadTmpl_bad {s : State} {d : Pend} {a n o : Nat} (hbad : tmplBad (memRead s a n) n = some o) :
    loadTmpl d a n s = finish d (badBuf o) s := by
  simp only [loadTmpl, hbad]

/-- A handle is from 1 to 65,535. -/
theorem freeHandle_range (s : State) (p : Nat) : 1 ≤ freeHandle s p ∧ freeHandle s p ≤ 65535 := by
  unfold freeHandle
  rcases hfind : List.find? (fun h => (tmplOf s p h).isNone) ((List.range 257).map fun i => ((getParty s p).nextHandle - 1 + i) % 65535 + 1) with _ | h
  · exact ⟨Nat.le_refl 1, by decide⟩
  · obtain ⟨i, -, hi⟩ := List.mem_map.1 (List.mem_of_find?_eq_some hfind)
    rw [Option.getD_some, ← hi]
    have := Nat.mod_lt ((getParty s p).nextHandle - 1 + i) (show 0 < 65535 by decide)
    omega

theorem runs_templateLoadDone_good {p : Party} {s : State} {d : Pend} {a n : Nat} {rest : List (Pend × Nat × Nat)} {ps : List Nat}
    (hload : (getParty s (pidx p)).loading = (d, a, n) :: rest) (hparty : d.party = pidx p) (hadm : admitting s = true)
    (hgood : tmplBad (memRead s a n) n = none) (hfew : (tmplsOf s (pidx p)).length < 256)
    (halloc : allocPieces (modParty s (pidx p) fun t => { t with loading := rest }) (pidx p)
      (reqGrant (modParty s (pidx p) fun t => { t with loading := rest }) (pidx p)).cg (piecesFor (copyBytes (memRead s a n))) = some ps) :
    ∃ h u, exec (.templateLoadDone p) s = .next (finish d (okWith (leBytes 2 h)) u) ∧ 1 ≤ h ∧ h ≤ 65535 ∧
      u.jobs = { s.jobs with tmpls := s.jobs.tmpls ++ [{ party := pidx p, handle := h, image := memRead s a n, pieces := ps }] } ∧
      (getParty u (pidx p)).loading = rest ∧ (getParty u (pidx p)).nextHandle = h % 65535 + 1 ∧ u = { s with jobs := u.jobs, party := u.party } := by
  set v := modParty s (pidx p) fun t => { t with loading := rest } with hv
  obtain ⟨hlow, hhigh⟩ := freeHandle_range v (pidx p)
  set h := freeHandle v (pidx p) with hh
  set u := modParty { v with jobs := { v.jobs with tmpls := v.jobs.tmpls ++ [{ party := pidx p, handle := h, image := memRead s a n, pieces := ps }] } }
    (pidx p) fun x => { x with nextHandle := h % 65535 + 1 } with hu
  have hexec : exec (.templateLoadDone p) s = .next (finish d (okWith (leBytes 2 h)) u) := by
    have hmem : memRead v a n = memRead s a n := memRead_modParty ..
    have hfew' : ¬ 256 ≤ (tmplsOf v (pidx p)).length := Nat.not_le.2 hfew
    rw [exec_templateLoadDone hload hadm, ← hv]
    simp only [loadTmpl, hparty, hmem, hgood, hfew', halloc, if_false]
    rfl
  have hparty' : getParty u (pidx p) = { getParty s (pidx p) with loading := rest, nextHandle := h % 65535 + 1 } := by
    rw [hu, getParty_modParty_same]
    show { getParty v (pidx p) with nextHandle := h % 65535 + 1 } = _
    rw [hv, getParty_modParty_same]
  exact ⟨h, u, hexec, hlow, hhigh, rfl, by rw [hparty'], by rw [hparty'], rfl⟩

theorem runs_templateLoadDone_bad {p : Party} {s : State} {d : Pend} {a n o : Nat} {rest : List (Pend × Nat × Nat)}
    (hload : (getParty s (pidx p)).loading = (d, a, n) :: rest) (hadm : admitting s = true) (hbad : tmplBad (memRead s a n) n = some o) :
    RunsThen (.templateLoadDone p) s (finish d (badBuf o)) fun u => u = modParty s (pidx p) fun t => { t with loading := rest } := by
  have hexec := exec_templateLoadDone hload hadm
  rw [loadTmpl_bad (by rw [memRead_modParty]; exact hbad)] at hexec
  exact ⟨_, hexec, rfl⟩

/-! ### Alarms -/

theorem wakeBy_awake {cls inst : Nat} {s : State} (h : s.pw.st = .run ∨ s.pw.st = .hush) :
    wakeBy cls inst s = wakeFrom (decide (cls ≠ 0)) cls inst s := by
  unfold wakeBy
  rcases h with h | h <;> rw [h]

theorem wakeFrom_st_of_run {doze : Bool} {cls inst : Nat} {s : State} (h : s.pw.st = .run) : (wakeFrom doze cls inst s).pw.st = .run := by
  unfold wakeFrom
  dsimp only
  split
  · split <;> exact h
  · rw [if_neg (by simp [h])]
    exact h

theorem runs_alarmFire {p : Party} {s : State} (hset : (getParty s (pidx p)).alarm.set = true) (hdue : (getParty s (pidx p)).alarm.time ≤ s.ktime)
    (hsup : s.pw.supplied = true)
    (hst : s.pw.st = .run ∨ s.pw.st = .hush ∧ s.pw.parking = 0 ∧ s.pw.thermalDoze = false ∧ s.pw.forced = false) :
    RunsThen (.alarmFire p) s (pushNotice (pidx p) (noticeRec (getParty s (pidx p)).alarm.tag 0x0303 stOK 2 0 s.ktime)) fun u =>
      getParty u (pidx p) = { getParty s (pidx p) with alarm := {} } ∧ u.pw.st = .run ∧ MemSame s u ∧ u.queue = s.queue := by
  have hawake : s.pw.st = .run ∨ s.pw.st = .hush := hst.imp_right (·.1)
  obtain ⟨doze, cls, hwake⟩ : ∃ doze cls, (if (getParty s (pidx p)).alarm.wake then wakeBy 2 (pidx p) s else wakeFrom false 0 (pidx p) s) =
      wakeFrom doze cls (pidx p) s := by
    split
    · exact ⟨_, _, wakeBy_awake hawake⟩
    · exact ⟨_, _, rfl⟩
  have hframe := wakeFrom_frame doze cls (pidx p) (s := s) fun h => by rcases hawake with h' | h' <;> rw [h'] at h <;> cases h
  have hrun : (wakeFrom doze cls (pidx p) s).pw.st = .run := by
    rcases hst with h | ⟨h, hcan⟩
    · exact wakeFrom_st_of_run h
    · exact wakeFrom_run (.inl h) hcan fun hdoze => by rw [h] at hdoze; cases hdoze
  set w := wakeFrom doze cls (pidx p) s with hw
  have hparty : getParty w (pidx p) = getParty s (pidx p) := by rw [hframe]; rfl
  have hktime : w.ktime = s.ktime := by rw [hframe]
  have hexec : exec (.alarmFire p) s = .next (pushNotice (pidx p) (noticeRec (getParty s (pidx p)).alarm.tag 0x0303 stOK 2 0 s.ktime)
      (modParty w (pidx p) fun t => { t with alarm := {} })) := by
    show execAlarmFire p s = _
    unfold execAlarmFire
    dsimp only
    rw [if_neg (by simp [hset, hsup, Nat.not_lt.2 hdue]), hwake, hparty, if_pos (by simp [hset, hrun]), fireAlarm, hparty, hktime]
  refine ⟨_, hexec, ?_, hrun, fun x => ?_, ?_⟩
  · rw [getParty_modParty_same, hparty]
  · show tget w.mem.cells x = _
    rw [hframe]
  · show w.queue = _
    rw [hframe]

/-- Settles O37. -/
theorem templatesAndAlarms : Obligations.TemplatesAndAlarms :=
  ⟨fun _ _ _ _ _ _ _ => runs_templateLoadDone_good, fun _ _ _ _ _ _ _ => runs_templateLoadDone_bad, fun _ _ => runs_alarmFire⟩

end Sys2Proof.Machine

/-! The checks that come before a message's own (R362). -/

namespace Sys2Proof.Machine
open Sys2Proof.Claims

/-- Each message of the sample is served with its code, senders and LENGTH. -/
theorem exec_plainMsg {f : Msg → Instr} {code len : Nat} {allow : Nat → Bool} (h : PlainMsg f code len allow) :
    ∃ own, ∀ m s, exec (f m) s = .next (serve code allow (lenIs len) own m s) := by
  obtain ⟨rfl, rfl, rfl, rfl⟩ | ⟨rfl, rfl, rfl, rfl⟩ | ⟨rfl, rfl, rfl, rfl⟩ | ⟨rfl, rfl, rfl, rfl⟩ | ⟨rfl, rfl, rfl, rfl⟩ | ⟨rfl, rfl, rfl, rfl⟩ |
    ⟨rfl, rfl, rfl, rfl⟩ | ⟨rfl, rfl, rfl, rfl⟩ | ⟨rfl, rfl, rfl, rfl⟩ | ⟨rfl, rfl, rfl, rfl⟩ | ⟨rfl, rfl, rfl, rfl⟩ | ⟨rfl, rfl, rfl, rfl⟩ := h
  all_goals exact ⟨_, fun _ _ => rfl⟩

section
variable {code : Nat} {allow : Nat → Bool} {len : Msg → Bool} {own : Own} {m : Msg} {s : State} (hserved : served (pidx m.sender) s = true)
include hserved

/-- Check 1: in an activation window every message is answered BUSY. -/
theorem serve_of_window (hact : s.firm.act = .open_) :
    serve code allow len own m s = answer (pidx m.sender) code m.tag.toNat (sts stBUSY) (tookTurn (pidx m.sender) s) := by
  have hopen : (tookTurn (pidx m.sender) s).firm.act = .open_ := hact
  simp only [serve, serveAs, hserved, hopen, Bool.not_true, Bool.false_eq_true, if_false, if_true]

variable (hact : s.firm.act ≠ .open_) (hready : s.boot.ready = true)
include hact hready

/-- Check 2: a header that fails is answered BAD_ARG with the offset of its first failing field. -/
theorem serve_of_headerBad {off : Nat} (hbad : headerBad m len = some off) : serve code allow len own m s =
    answer (pidx m.sender) code m.tag.toNat { status := stBAD_ARG, detail := off } (atTaking m s) := by
  have hclosed : (tookTurn (pidx m.sender) s).firm.act ≠ .open_ := hact
  have hboot : (atTaking m s).boot.ready = true := by rw [atTaking_boot]; exact hready
  unfold atTaking at hboot ⊢
  simp only [serve, serveAs, hserved, hclosed, hboot, hbad, Bool.not_true, Bool.false_and, Bool.false_eq_true, if_false]

/-- Check 3: another sender is answered DENIED. -/
theorem serve_of_denied (hgood : headerBad m len = none) (hdeny : allow (pidx m.sender) = false) : serve code allow len own m s =
    answer (pidx m.sender) code m.tag.toNat (sts stDENIED) (atTaking m s) := by
  have hclosed : (tookTurn (pidx m.sender) s).firm.act ≠ .open_ := hact
  have hboot : (atTaking m s).boot.ready = true := by rw [atTaking_boot]; exact hready
  unfold atTaking at hboot ⊢
  simp only [serve, serveAs, hserved, hclosed, hboot, hgood, hdeny, Bool.not_true, Bool.not_false, Bool.false_and, Bool.false_eq_true, if_false,
    if_true]

/-- Check 4: a frozen guest is answered BUSY. -/
theorem serve_of_frozen (hgood : headerBad m len = none) (hallow : allow (pidx m.sender) = true) (hfrozen : (getParty s (pidx m.sender)).frozen ≠ 0)
    (hmsg : frozenMsg code = false) : serve code allow len own m s =
    answer (pidx m.sender) code m.tag.toNat (sts stBUSY) (atTaking m s) := by
  have hclosed : (tookTurn (pidx m.sender) s).firm.act ≠ .open_ := hact
  have hboot : (atTaking m s).boot.ready = true := by rw [atTaking_boot]; exact hready
  have hguest : (getParty (atTaking m s) (pidx m.sender)).frozen ≠ 0 := by rw [frozen_atTaking]; exact hfrozen
  unfold atTaking at hboot hguest ⊢
  simp only [serve, serveAs, hserved, hclosed, hboot, hgood, hallow, hguest, hmsg, ne_eq, not_false_eq_true, decide_true, Bool.not_true,
    Bool.not_false, Bool.and_self, Bool.false_and, Bool.false_eq_true, if_false, if_true]

end

/-! ### The header's fields, in their order -/

theorem headerBad_length {m : Msg} {len : Nat} (h : m.payload.length ≠ m.length.toNat ∨ m.length.toNat ≠ len) : headerBad m (lenIs len) = some 2 := by
  unfold headerBad
  exact if_pos (by simpa [lenIs] using h)

theorem headerBad_of_length {m : Msg} {len : Nat} (hpay : m.payload.length = m.length.toNat) (hlen : m.length.toNat = len) :
    headerBad m (lenIs len) = if m.status ≠ 0 then some 4 else if m.flags ≠ 0 then some 5 else if m.detail ≠ 0 then some 16
      else if m.rsv ≠ 0 then some 24 else none := by
  unfold headerBad
  exact if_neg (by simp [lenIs, hpay, hlen])

/-- Settles O39: the checks of R362 are those of `serve`, in its order. -/
theorem messageChecks : Obligations.MessageChecks := by
  intro f code len allow hplain m s hserved
  obtain ⟨own, hexec⟩ := exec_plainMsg hplain
  simp only [hexec]
  refine ⟨fun hact => by rw [serve_of_window hserved hact], fun hact hready => ⟨fun hlen => ?_, fun hpay hlen => ?_⟩⟩
  · rw [serve_of_headerBad hserved hact hready (headerBad_length hlen)]
  · have hheader := headerBad_of_length hpay hlen
    refine ⟨fun hst => ?_, fun hst hfl => ?_, fun hst hfl hde => ?_, fun hst hfl hde hrsv => ?_, fun hst hfl hde hrsv => ⟨fun hdeny => ?_,
      fun hallow hfrozen hmsg => ?_⟩⟩
    · rw [serve_of_headerBad (off := 4) hserved hact hready (hheader.trans (by simp only [ne_eq, hst, not_false_eq_true, if_true]))]
    · rw [serve_of_headerBad (off := 5) hserved hact hready (hheader.trans (by simp only [ne_eq, hst, hfl, not_true_eq_false, not_false_eq_true, if_true, if_false]))]
    · rw [serve_of_headerBad (off := 16) hserved hact hready (hheader.trans (by simp only [ne_eq, hst, hfl, hde, not_true_eq_false, not_false_eq_true, if_true, if_false]))]
    · rw [serve_of_headerBad (off := 24) hserved hact hready (hheader.trans (by simp only [ne_eq, hst, hfl, hde, hrsv, not_true_eq_false, not_false_eq_true, if_true, if_false]))]
    · rw [serve_of_denied hserved hact hready (hheader.trans (by simp only [ne_eq, hst, hfl, hde, hrsv, not_true_eq_false, if_false])) hdeny]
    · rw [serve_of_frozen hserved hact hready (hheader.trans (by simp only [ne_eq, hst, hfl, hde, hrsv, not_true_eq_false, if_false])) hallow hfrozen hmsg]

end Sys2Proof.Machine

/-! What messages rest on (R358 to R362): their answers, the state at their taking, and the functions of the model that read the same there. -/

namespace Sys2Proof.Machine
open Sys2Proof.Claims

/-! ### The state at a message's taking -/

section
variable (m : Msg) (s : State)

@[simp] theorem atTaking_part : (atTaking m s).part = s.part := by rw [atTaking_frame]
@[simp] theorem atTaking_ktime : (atTaking m s).ktime = s.ktime := by rw [atTaking_frame]
@[simp] theorem atTaking_fresh : (atTaking m s).fresh = s.fresh := by rw [atTaking_frame]
@[simp] theorem atTaking_queue : (atTaking m s).queue = s.queue := by rw [atTaking_frame]
@[simp] theorem atTaking_lv : (atTaking m s).lv = s.lv := by rw [atTaking_frame]
@[simp] theorem atTaking_jobs : (atTaking m s).jobs = s.jobs := by rw [atTaking_frame]
@[simp] theorem atTaking_pw : (atTaking m s).pw = s.pw := by rw [atTaking_frame]
@[simp] theorem atTaking_mem : (atTaking m s).mem = s.mem := by rw [atTaking_frame]
@[simp] theorem atTaking_world : (atTaking m s).world = s.world := by rw [atTaking_frame]
@[simp] theorem atTaking_gw : (atTaking m s).gw = s.gw := by rw [atTaking_frame]
@[simp] theorem atTaking_field : (atTaking m s).field = s.field := by rw [atTaking_frame]
@[simp] theorem atTaking_io : (atTaking m s).io = s.io := by rw [atTaking_frame]
@[simp] theorem atTaking_cross : (atTaking m s).cross = s.cross := by rw [atTaking_frame]

theorem atTaking_firm : (atTaking m s).firm = { s.firm with turn := (atTaking m s).firm.turn, lastG := (atTaking m s).firm.lastG } := by
  rw [atTaking_frame]

/-- Of a party, taking a message notes at most that its AFI was seen. -/
theorem getParty_atTaking (p : Nat) :
    getParty (atTaking m s) p = { getParty s p with afiSeen := (getParty (atTaking m s) p).afiSeen } := by
  unfold atTaking afiNote
  split
  · rw [getParty, event_party, ← getParty, getParty_modParty]
    split
    · next h => rw [h]; rfl
    · rfl
  · rfl

variable (p : Nat)

@[simp] theorem grant_atTaking : (getParty (atTaking m s) p).grant = (getParty s p).grant := by rw [getParty_atTaking]
@[simp] theorem grantPend_atTaking : (getParty (atTaking m s) p).grantPend = (getParty s p).grantPend := by rw [getParty_atTaking]
@[simp] theorem noticeOn_atTaking : (getParty (atTaking m s) p).noticeOn = (getParty s p).noticeOn := by rw [getParty_atTaking]
@[simp] theorem notice_atTaking : (getParty (atTaking m s) p).notice = (getParty s p).notice := by rw [getParty_atTaking]
@[simp] theorem outstanding_atTaking : (getParty (atTaking m s) p).outstanding = (getParty s p).outstanding := by rw [getParty_atTaking]
@[simp] theorem alarm_atTaking : (getParty (atTaking m s) p).alarm = (getParty s p).alarm := by rw [getParty_atTaking]
@[simp] theorem keep_atTaking : (getParty (atTaking m s) p).keep = (getParty s p).keep := by rw [getParty_atTaking]
@[simp] theorem freezePend_atTaking : (getParty (atTaking m s) p).freezePend = (getParty s p).freezePend := by rw [getParty_atTaking]
@[simp] theorem voted_atTaking : (getParty (atTaking m s) p).voted = (getParty s p).voted := by rw [getParty_atTaking]
@[simp] theorem vote_atTaking : (getParty (atTaking m s) p).vote = (getParty s p).vote := by rw [getParty_atTaking]

@[simp] theorem getQ_atTaking : getQ (atTaking m s) p = getQ s p := by simp [getQ]
@[simp] theorem getEst_atTaking : getEst (atTaking m s) p = getEst s p := by simp [getEst]
@[simp] theorem getLeaf_atTaking : getLeaf (atTaking m s) p = getLeaf s p := by simp [getLeaf]
@[simp] theorem getCg_atTaking : getCg (atTaking m s) p = getCg s p := by simp [getCg]
@[simp] theorem getRange_atTaking : getRange (atTaking m s) p = getRange s p := by simp [getRange]
@[simp] theorem getStr_atTaking : getStr (atTaking m s) p = getStr s p := by simp [getStr]
@[simp] theorem getSes_atTaking : getSes (atTaking m s) p = getSes s p := by simp [getSes]
@[simp] theorem reqGrant_atTaking : reqGrant (atTaking m s) p = reqGrant s p := by simp [reqGrant]
@[simp] theorem dramEnd_atTaking : dramEnd (atTaking m s) = dramEnd s := by simp [dramEnd, cgBytes]
@[simp] theorem inReq_atTaking (a n : Nat) : inReq (atTaking m s) p a n = inReq s p a n := by simp [inReq]
@[simp] theorem inGrant_atTaking (a n : Nat) : inGrant (atTaking m s) p a n = inGrant s p a n := by simp [inGrant]
@[simp] theorem qReq_atTaking (q : Nat) : qReq (atTaking m s) p q = qReq s p q := by simp [qReq]
@[simp] theorem qInGrant_atTaking (q : Nat) (b : Bool) : qInGrant (atTaking m s) p q b = qInGrant s p q b := by simp [qInGrant]
@[simp] theorem memRead_atTaking (a n : Nat) : memRead (atTaking m s) a n = memRead s a n := by simp [memRead]
@[simp] theorem estates_atTaking : estates (atTaking m s) = estates s := by simp [estates]
@[simp] theorem estOf_atTaking : estOf (atTaking m s) p = estOf s p := by simp [estOf]
@[simp] theorem jobOf_atTaking : jobOf (atTaking m s) p = jobOf s p := by simp [jobOf]
@[simp] theorem tmplOf_atTaking (h : Nat) : tmplOf (atTaking m s) p h = tmplOf s p h := by simp [tmplOf]
@[simp] theorem runSlot_atTaking : runSlot (atTaking m s) = runSlot s := by
  rw [runSlot, atTaking_firm]
  rfl
@[simp] theorem otherSlot_atTaking : otherSlot (atTaking m s) = otherSlot s := by
  rw [otherSlot, atTaking_firm]
  rfl

theorem ownBytes_atTaking (a n : Nat) : ownBytes (atTaking m s) p a n = ownBytes s p a n := by
  unfold ownBytes
  rw [inReq_atTaking]
  cases spLeaf a <;> simp

end

/-! ### Answers -/

theorem getParty_raiseMbox (p j : Nat) (s : State) : getParty (raiseMbox p s) j = getParty s j := by
  unfold raiseMbox raiseIrq
  split
  · rfl
  · dsimp only
    split
    · rfl
    · split <;> rfl

theorem rung_of_served {p : Nat} {s : State} (h : served p s = true) : (getParty s p).rung = true := by
  simp only [served, Bool.and_eq_true] at h
  exact h.1.1.1.1.1.1.1

theorem taken_answer {p code tag : Nat} {a : Ans} {s u : State} (h : served p s = true) : taken p s (answer p code tag a u) = true := by
  have hrung : (getParty (answer p code tag a u) p).rung = false := by
    unfold answer
    rw [getParty_raiseMbox, getParty_modParty_same]
  rw [taken, rung_of_served h, hrung]
  rfl

/-- A message whose answer sets off the work `f`. -/
theorem says_then {c : Instr} {code : Nat} {allow : Nat → Bool} {len : Msg → Bool} {own : Own} {m : Msg} {s u : State} {a : Ans}
    {f : State → State} {P : State → State → Prop}
    (hexec : exec c s = .next (if taken (pidx m.sender) s (serve code allow len own m s) then f (serve code allow len own m s)
      else serve code allow len own m s)) (ht : Taken code allow len m s)
    (hown : own m (pendOf (atTaking m s) code m) (atTaking m s) = say a u) (hP : P (atTaking m s) u) : Says f c code m s a P := by
  refine ⟨u, ?_, hP⟩
  rw [hexec, serve_of_taken ht hown, taken_answer ht.1, if_pos rfl]

@[simp] theorem pendOf_atTaking (m m' : Msg) (s : State) (code : Nat) : pendOf (atTaking m s) code m' = pendOf s code m' := by simp [pendOf]

/-- What a message that cannot finish at once leaves: the answer PENDING, or the sender's mailbox held. -/
def pended (code : Nat) (m : Msg) (s u : State) : State :=
  if (getParty s (pidx m.sender)).noticeOn then
    answer (pidx m.sender) code m.tag.toNat (sts stPENDING) (modParty u (pidx m.sender) fun x => { x with outstanding := x.outstanding + 1 })
  else modParty u (pidx m.sender) fun x => { x with rung := false }

theorem taken_pended {code : Nat} {m : Msg} {s u : State} (h : served (pidx m.sender) s = true) :
    taken (pidx m.sender) s (pended code m s u) = true := by
  unfold pended
  split
  · exact taken_answer h
  · rw [taken, rung_of_served h, getParty_modParty_same]
    rfl

theorem serve_of_waits {code : Nat} {allow : Nat → Bool} {len : Msg → Bool} {own : Own} {m : Msg} {s u : State}
    (ht : Taken code allow len m s) (hroom : Room m s) (hown : own m (pendOf s code m) (atTaking m s) = (u, none)) :
    serve code allow len own m s = pended code m s u := by
  obtain ⟨hserved, hact, hready, hheader, hallow, hfrozen⟩ := ht
  have hearly : (!(atTaking m s).boot.ready && !earlyMsg code) = false := by
    rcases hready with h | h <;> simp [h]
  have hthawed : (decide ((getParty (atTaking m s) (pidx m.sender)).frozen ≠ 0) && !frozenMsg code) = false := by
    rcases hfrozen with h | h <;> simp [h]
  have hclosed : (tookTurn (pidx m.sender) s).firm.act ≠ .open_ := hact
  have hnotice : (pendOf s code m).notice = (getParty s (pidx m.sender)).noticeOn := rfl
  have hpend := pendOf_atTaking m m s code
  have hout := outstanding_atTaking m s (pidx m.sender)
  unfold atTaking at hown hearly hthawed hpend hout
  simp only [serve, serveAs, pended, hserved, hclosed, hearly, hheader, hallow, hthawed, hpend, hown, Bool.and_true,
    Bool.not_true, Bool.false_eq_true, if_false]
  rw [hnotice]
  by_cases hn : (getParty s (pidx m.sender)).noticeOn = true
  · have hfew : ¬ 32 ≤ (getParty s (pidx m.sender)).outstanding := Nat.not_le.2 (hroom hn)
    simp only [hn, hout, hfew, if_false, if_true]
  · rw [if_neg hn, if_neg hn]

theorem waits_of_own {c : Instr} {code : Nat} {allow : Nat → Bool} {len : Msg → Bool} {own : Own} {m : Msg} {s u : State}
    {P : Pend → State → State → Prop} (hexec : exec c s = .next (serve code allow len own m s)) (ht : Taken code allow len m s) (hroom : Room m s)
    (hown : own m (pendOf s code m) (atTaking m s) = (u, none)) (hP : P (pendOf s code m) (atTaking m s) u) : Waits id c code m s P :=
  ⟨u, by rw [hexec, serve_of_waits ht hroom hown]; rfl, hP⟩

/-- A message that waits, and whose taking sets off the work `f`. -/
theorem waits_then {c : Instr} {code : Nat} {allow : Nat → Bool} {len : Msg → Bool} {own : Own} {m : Msg} {s u : State} {f : State → State}
    {P : Pend → State → State → Prop}
    (hexec : exec c s = .next (if taken (pidx m.sender) s (serve code allow len own m s) then f (serve code allow len own m s)
      else serve code allow len own m s)) (ht : Taken code allow len m s) (hroom : Room m s)
    (hown : own m (pendOf s code m) (atTaking m s) = (u, none)) (hP : P (pendOf s code m) (atTaking m s) u) : Waits f c code m s P := by
  refine ⟨u, ?_, hP⟩
  rw [hexec, serve_of_waits ht hroom hown, taken_pended ht.1, if_pos rfl]
  rfl

/-- Refusals that do not apply leave the rest. -/
@[simp] theorem refusedBy_nil (s : State) (k : State × Option Ans) : refusedBy [] s k = k := rfl
@[simp] theorem refusedBy_cons_false (st : Nat) (r : List (Bool × Nat)) (s : State) (k : State × Option Ans) :
    refusedBy ((false, st) :: r) s k = refusedBy r s k := rfl
@[simp] theorem refusedBy_cons_true (st : Nat) (r : List (Bool × Nat)) (s : State) (k : State × Option Ans) :
    refusedBy ((true, st) :: r) s k = say (sts st) s := rfl

end Sys2Proof.Machine

/-! Mailbox, queue, template and leaf messages (R140, R158, R357, R364, R366, R369 to R373). -/

namespace Sys2Proof.Machine
open Sys2Proof.Claims

variable {m : Msg} {s : State}

/-! ### AFI_VERSION, MBOX_SET, IRQ_ROUTE -/

theorem versionBytes_atTaking (m : Msg) (s : State) : versionBytes (atTaking m s) = versionBytes s := by
  unfold versionBytes
  rw [runSlot_atTaking, otherSlot_atTaking, atTaking_firm]

theorem afiVersion_says (ht : Taken 0x0001 isPartyGx (lenIs 0) m s) :
    Says id (.afiVersion m) 0x0001 m s (okWith (versionBytes s)) fun r u => u = r :=
  says_of_own (own := ownAfiVersion) rfl ht (by rw [ownAfiVersion, versionBytes_atTaking]) rfl

theorem mboxSet_says (ht : Taken 0x0002 isParty (lenIs 16) m s) (haddr : fld m 0 6 % 8192 = 0) (hrsv : fld m 6 2 = 0) (hrsv' : fld m 12 4 = 0)
    (hbits : bitsOf (fld m 8 4) 30 18 = 0) (hin : fld m 0 6 ≠ 0 → inReq s (pidx m.sender) (fld m 0 6) 8192 = true)
    (hq : bitOf (fld m 8 4) 31 = true → qReq s (pidx m.sender) (fld m 8 4 % 2 ^ 18) = true ∧ (getQ s (fld m 8 4 % 2 ^ 18)).bound = true ∧
      (getQ s (fld m 8 4 % 2 ^ 18)).kind = 1 ∧ (getQ s (fld m 8 4 % 2 ^ 18)).esize = 1 ∧ (getQ s (fld m 8 4 % 2 ^ 18)).prod = 3 ∧
      swEnd (getQ s (fld m 8 4 % 2 ^ 18)).cons = true) (hout : (getParty s (pidx m.sender)).outstanding = 0) :
    Says (fun t => settle (moveMbox (pidx m.sender) t)) (.mboxSet m) 0x0002 m s ok fun r u =>
      u = modParty r (pidx m.sender) fun x => { x with
        mboxNext := fld m 0 6, noticeOn := bitOf (fld m 8 4) 31, notice := if bitOf (fld m 8 4) 31 then fld m 8 4 % 2 ^ 18 else 0 } := by
  refine says_then (own := ownMboxSet) rfl ht ?_ rfl
  have hdeny : (decide (fld m 0 6 ≠ 0) && !inReq s (pidx m.sender) (fld m 0 6) 8192) = false := by
    by_cases h : fld m 0 6 = 0
    · simp [h]
    · simp [hin h]
  have hqdeny : (bitOf (fld m 8 4) 31 && !qReq s (pidx m.sender) (fld m 8 4 % 2 ^ 18)) = false := by
    by_cases h : bitOf (fld m 8 4) 31 = true
    · simp only [(hq h).1, Bool.not_true, Bool.and_false]
    · simp [h]
  have hqueue : (bitOf (fld m 8 4) 31 && !((getQ s (fld m 8 4 % 2 ^ 18)).bound && decide ((getQ s (fld m 8 4 % 2 ^ 18)).kind = 1) &&
      decide ((getQ s (fld m 8 4 % 2 ^ 18)).esize = 1) && decide ((getQ s (fld m 8 4 % 2 ^ 18)).prod = 3) &&
      swEnd (getQ s (fld m 8 4 % 2 ^ 18)).cons)) = false := by
    by_cases h : bitOf (fld m 8 4) 31 = true
    · obtain ⟨-, hb, hk, he, hp, hc⟩ := hq h
      simp only [hb, hk, he, hp, hc, decide_true, Bool.and_self, Bool.not_true, Bool.and_false]
    · simp [h]
  unfold ownMboxSet
  dsimp only
  rw [pendOf_atTaking, pendOf_party, checked_of_good (by simp [haddr, hbits, rsvBad_eq_false.2 hrsv, rsvBad_eq_false.2 hrsv']),
    inReq_atTaking, qReq_atTaking, getQ_atTaking, outstanding_atTaking, hdeny, hqdeny, refusedBy_cons_false, refusedBy_cons_false, refusedBy_nil,
    checked_of_good (by rw [hqueue]; rfl), hout]
  rfl

theorem irqDenied_atTaking (m : Msg) (s : State) (p : Nat) (e : IrqEntry) : irqDenied (atTaking m s) p e = irqDenied s p e := by
  unfold irqDenied hostParty getWin
  rw [atTaking_cross, atTaking_world]

theorem irqRoute_says (ht : Taken 0x0003 isParty (lenIs 16) m s) (hgood : firstBad (irqBad m 0 ++ irqBad m 8) = none)
    (hfirst : irqDenied s (pidx m.sender) (irqEntry m 0) = false) (hsecond : irqDenied s (pidx m.sender) (irqEntry m 8) = false) :
    Says id (.irqRoute m) 0x0003 m s ok fun r u => u = modParty r (pidx m.sender) fun x => { x with irq0 := irqEntry m 0, irq1 := irqEntry m 8 } := by
  refine says_of_own (own := ownIrqRoute) rfl ht ?_ rfl
  unfold ownIrqRoute
  dsimp only
  rw [checked_of_good hgood, pendOf_party, irqDenied_atTaking, irqDenied_atTaking, hfirst, hsecond]
  rfl

/-! ### Queues -/

theorem queueBusy_atTaking (m : Msg) (s : State) (q : Nat) : queueBusy (atTaking m s) q = queueBusy s q :=
  (congrArg (queueBusy · q) (atTaking_frame m s)).trans rfl

theorem queueBind_says (ht : Taken 0x0100 isParty (lenIs 40) m s) (hid : fld m 0 4 < 2 ^ 18) (hrsv : fld m 4 4 = 0)
    (hq : qReq s (pidx m.sender) (fld m 0 4) = true) (hgood : firstBad (bindBad m (queueOf m 8)) = none)
    (hbytes : ownBytes s (pidx m.sender) (queueOf m 8).base ((queueOf m 8).n * (queueOf m 8).esz) = true)
    (htile : (queueOf m 8).kind = 0 → ownBytes s (pidx m.sender) (queueOf m 8).tbase ((queueOf m 8).n * (queueOf m 8).stride) = true)
    (hidle : queueBusy s (fld m 0 4) = false) :
    Says id (.queueBind m) 0x0100 m s ok fun r u => getQ u (fld m 0 4) = queueOf m 8 ∧ (getQ u (fld m 0 4)).tail = 0 ∧
      (getQ u (fld m 0 4)).head = 0 ∧ (getQ u (fld m 0 4)).bound = true ∧ OnlyQ (fld m 0 4) r u ∧ u = { r with queue := u.queue } := by
  have hdeny : (decide ((queueOf m 8).kind = 0) && !ownBytes s (pidx m.sender) (queueOf m 8).tbase ((queueOf m 8).n * (queueOf m 8).stride)) =
      false := by
    by_cases h : (queueOf m 8).kind = 0
    · simp [htile h]
    · simp [h]
  have hown : ownQueueBind m (pendOf (atTaking m s) 0x0100 m) (atTaking m s) =
      say ok { atTaking m s with queue := tput (atTaking m s).queue (fld m 0 4) (queueOf m 8) } := by
    unfold ownQueueBind
    dsimp only
    rw [checked_of_good (by simp [rsvBad_eq_false.2 hrsv]; omega), pendOf_party, qReq_atTaking, hq, Bool.not_true,
      refusedBy_cons_false, refusedBy_nil, checked_of_good hgood, ownBytes_atTaking, ownBytes_atTaking, queueBusy_atTaking, hbytes, hidle,
      Bool.not_true, Bool.false_or, hdeny, refusedBy_cons_false, refusedBy_cons_false, refusedBy_nil]
  have hget : getQ { atTaking m s with queue := tput (atTaking m s).queue (fld m 0 4) (queueOf m 8) } (fld m 0 4) = queueOf m 8 := tget_tput_same ..
  exact says_of_own (own := ownQueueBind) rfl ht hown ⟨hget, by rw [hget]; rfl, by rw [hget]; rfl, by rw [hget]; rfl,
    fun j hj => tget_tput_ne _ _ hj, rfl⟩

theorem queueUnbind_says (ht : Taken 0x0101 isParty (lenIs 4) m s) (hid : fld m 0 4 < 2 ^ 18)
    (hq : qInGrant s (pidx m.sender) (fld m 0 4) false = true) (hbound : (getQ s (fld m 0 4)).bound = true)
    (hidle : queueBusy s (fld m 0 4) = false) :
    Says settle (.queueUnbind m) 0x0101 m s ok fun r u => (getQ u (fld m 0 4)).bound = false ∧ OnlyQ (fld m 0 4) r u ∧
      u = { r with queue := u.queue } := by
  have hown : ownQueueUnbind m (pendOf (atTaking m s) 0x0101 m) (atTaking m s) =
      say ok { atTaking m s with queue := tput (atTaking m s).queue (fld m 0 4) {} } := by
    unfold ownQueueUnbind
    dsimp only
    rw [checked_of_good (by simp; omega), pendOf_party, qInGrant_atTaking, hq, getQ_atTaking, hbound, queueBusy_atTaking, hidle]
    rfl
  exact says_then (own := ownQueueUnbind) rfl ht hown ⟨congrArg Queue.bound (tget_tput_same ..), fun j hj => tget_tput_ne _ _ hj, rfl⟩

/-! ### Templates -/

theorem templateLoad_waits (ht : Taken 0x0102 isParty (lenIs 16) m s) (hroom : Room m s) (hrsv : fld m 6 2 = 0) (hpos : fld m 8 4 ≠ 0)
    (hmax : fld m 8 4 ≤ 0x4000000) (hrsv' : fld m 12 4 = 0) (hin : inReq s (pidx m.sender) (fld m 0 6) (fld m 8 4) = true) :
    Waits id (.templateLoad m) 0x0102 m s fun d r u =>
      u = modParty r (pidx m.sender) fun x => { x with loading := x.loading ++ [(d, fld m 0 6, fld m 8 4)] } := by
  refine waits_of_own (own := ownTemplateLoad) rfl ht hroom ?_ rfl
  unfold ownTemplateLoad
  dsimp only
  rw [checked_of_good (by simp [hpos, Nat.not_lt.2 hmax, rsvBad_eq_false.2 hrsv, rsvBad_eq_false.2 hrsv']), pendOf_party, inReq_atTaking, hin]
  rfl

theorem tmplRuns_atTaking (m : Msg) (s : State) (p h : Nat) : tmplRuns (atTaking m s) p h = tmplRuns s p h := by
  simp [tmplRuns]

theorem tmplOf_dropTmpl (p h : Nat) (s : State) : tmplOf (dropTmpl p h s) p h = none := by
  refine List.find?_eq_none.2 fun x hx => ?_
  have := (List.mem_filter.1 hx).2
  simpa [← not_and_or] using this

theorem templateFree_says {x : Tmpl} (ht : Taken 0x0103 isParty (lenIs 2) m s) (htmpl : tmplOf s (pidx m.sender) (fld m 0 2) = some x)
    (hfree : x.freePend = none) (hruns : tmplRuns s (pidx m.sender) (fld m 0 2) = false) :
    Says settle (.templateFree m) 0x0103 m s ok fun r u => tmplOf u (pidx m.sender) (fld m 0 2) = none ∧ u = { r with jobs := u.jobs } ∧
      ∀ y ∈ s.jobs.tmpls, (y.party ≠ pidx m.sender ∨ y.handle ≠ fld m 0 2) → y ∈ u.jobs.tmpls := by
  refine says_then (own := ownTemplateFree) (u := dropTmpl (pidx m.sender) (fld m 0 2) (atTaking m s)) rfl ht ?_
    ⟨tmplOf_dropTmpl .., rfl, fun y hy hne => ?_⟩
  · unfold ownTemplateFree
    simp only [pendOf_party, tmplOf_atTaking, htmpl, hfree, tmplRuns_atTaking, hruns, Option.isSome_none, Bool.false_eq_true, if_false]
  · refine List.mem_filter.2 ⟨by rw [atTaking_jobs]; exact hy, ?_⟩
    rcases hne with h | h <;> simp [h]

theorem templateFree_waits {x : Tmpl} (ht : Taken 0x0103 isParty (lenIs 2) m s) (hroom : Room m s)
    (htmpl : tmplOf s (pidx m.sender) (fld m 0 2) = some x) (hfree : x.freePend = none) (hruns : tmplRuns s (pidx m.sender) (fld m 0 2) = true) :
    Waits settle (.templateFree m) 0x0103 m s fun d r u =>
      u = { r with jobs := { r.jobs with tmpls := r.jobs.tmpls.map fun y => if y = x then { y with freePend := some d } else y } } := by
  refine waits_then (own := ownTemplateFree) rfl ht hroom ?_ rfl
  unfold ownTemplateFree
  simp only [pendOf_party, tmplOf_atTaking, htmpl, hfree, tmplRuns_atTaking, hruns, Option.isSome_none, Bool.false_eq_true, if_false, if_true]

/-! ### Leaves -/

theorem readStats_twice (b : Bool) (x : Leaf) : readStats b (readStats b x) = readStats b x := by
  cases b <;> rfl

/-- Reading the counters of several leaves, of one of them twice too, reads each once. -/
theorem getLeaf_readAll (b : Bool) (ls : List Nat) (s : State) (l : Nat) :
    getLeaf (ls.foldl (fun s l => modLeaf s l (readStats b)) s) l = if l ∈ ls then readStats b (getLeaf s l) else getLeaf s l := by
  induction ls generalizing s with
  | nil => rfl
  | cons x ls ih =>
    rw [List.foldl_cons, ih]
    by_cases hl : l = x
    · subst hl
      rw [getLeaf_modLeaf_same, readStats_twice, if_pos (List.mem_cons_self ..)]
      split <;> rfl
    · rw [getLeaf_modLeaf_ne _ _ hl]
      simp [hl]

theorem readAll_frame (b : Bool) (ls : List Nat) (s : State) :
    ls.foldl (fun s l => modLeaf s l (readStats b)) s = { s with lv := (ls.foldl (fun s l => modLeaf s l (readStats b)) s).lv } := by
  induction ls generalizing s with
  | nil => rfl
  | cons x ls ih => exact (ih _).trans rfl

theorem leafStat_atTaking (m : Msg) (s : State) (ls : List Nat) (k : Nat) : leafStat (atTaking m s) ls k = leafStat s ls k := by
  simp [leafStat]

theorem leafStats_says (ht : Taken 0x0104 isPartyGx (lenIs 8) m s) (hclear : fld m 4 1 < 2) (hrsv : fld m 5 3 = 0)
    (hscope : (fld m 0 1 = 0 ∧ fld m 2 2 < 168 ∧ ((getLeaf s (fld m 2 2)).kind = .enabled ∨ (getLeaf s (fld m 2 2)).kind = .spare) ∧
        (16 ≤ pidx m.sender ∨ ∃ e, estOf s (fld m 2 2) = some e ∧ (getEst s e).party = pidx m.sender)) ∨
      (fld m 0 1 = 1 ∧ fld m 1 1 < 16 ∧ (getEst s (fld m 1 1)).live = true ∧
        (16 ≤ pidx m.sender ∨ (getEst s (fld m 1 1)).party = pidx m.sender))) :
    Says id (.leafStats m) 0x0104 m s (okWith ((List.range 5).flatMap fun k =>
        statBytes (leafStat s (if fld m 0 1 = 0 then [fld m 2 2] else (getEst s (fld m 1 1)).leaves) k))) fun r u =>
      u = { r with lv := u.lv } ∧ ∀ l, getLeaf u l = if l ∈ (if fld m 0 1 = 0 then [fld m 2 2] else (getEst s (fld m 1 1)).leaves) then
        readStats (bitOf (fld m 4 1) 0) (getLeaf s l) else getLeaf s l := by
  refine says_of_own (own := ownLeafStats) (u := (if fld m 0 1 = 0 then [fld m 2 2] else (getEst s (fld m 1 1)).leaves).foldl
    (fun s l => modLeaf s l (readStats (bitOf (fld m 4 1) 0))) (atTaking m s)) rfl ht ?_ ⟨?_, fun l => ?_⟩
  · have hstats : (okWith ((List.range 5).flatMap fun k => statBytes (leafStat (atTaking m s)
        (if fld m 0 1 = 0 then [fld m 2 2] else (getEst s (fld m 1 1)).leaves) k))) =
        okWith ((List.range 5).flatMap fun k => statBytes (leafStat s
          (if fld m 0 1 = 0 then [fld m 2 2] else (getEst s (fld m 1 1)).leaves) k)) := by
      simp only [leafStat_atTaking]
    rw [← hstats]
    unfold ownLeafStats
    dsimp only
    rw [pendOf_party, getEst_atTaking, getLeaf_atTaking, estOf_atTaking]
    rcases hscope with ⟨h0, hl, hkind, hmine⟩ | ⟨h1, he, hlive, hmine⟩
    · have hfused : (getLeaf s (fld m 2 2)).kind ≠ .fusedOff := by rcases hkind with h | h <;> rw [h] <;> decide
      have hfenced : (getLeaf s (fld m 2 2)).kind ≠ .fenced := by rcases hkind with h | h <;> rw [h] <;> decide
      rw [checked_of_good (by simp [h0, Nat.not_le.2 hl, hfused, Nat.not_le.2 hclear, rsvBad_eq_false.2 hrsv]), decide_eq_false hfenced, Bool.and_false]
      rcases hmine with hbig | ⟨e, hest, hparty⟩
      · simp [hbig]
      · rw [hest]
        simp [h0, hparty]
    · rw [checked_of_good (by simp [h1, Nat.not_le.2 he, hlive, Nat.not_le.2 hclear, rsvBad_eq_false.2 hrsv])]
      rcases hmine with hbig | hparty
      · simp [h1, hbig]
      · simp [h1, hparty]
  · exact readAll_frame ..
  · rw [getLeaf_readAll, getLeaf_atTaking]

/-- The choice between the spare so far and the next one, by their distance to leaf `l`. -/
def nearer (l : Nat) (b : Option Nat) (x : Nat) : Option Nat :=
  match b with
  | none => some x
  | some y => if meshDist x l < meshDist y l then some x else some y

/-- A spare leaf is one of kind spare. -/
theorem kind_spareFor {e : Option Nat} {l x : Nat} {s : State} (h : spareFor s e l = some x) : (getLeaf s x).kind = .spare := by
  have hpick : ∀ (ls : List Nat) (b : Option Nat), (ls.foldl (nearer l) b = some x) → x ∈ ls ∨ b = some x := fun ls => by
    induction ls with
    | nil => exact fun b h => .inr h
    | cons y ls ih =>
      intro b hb
      rcases ih _ hb with hmem | hstep
      · exact .inl (List.mem_cons_of_mem _ hmem)
      · unfold nearer at hstep
        split at hstep
        · exact .inl (List.mem_cons.2 (.inl (Option.some.inj hstep).symm))
        · split at hstep
          · exact .inl (List.mem_cons.2 (.inl (Option.some.inj hstep).symm))
          · exact .inr hstep
  have hmem : x ∈ (leavesOf s .spare).filter (sideOk s e) := (hpick _ none h).resolve_right (by simp)
  exact of_decide_eq_true (List.mem_filter.1 (List.mem_filter.1 hmem).1).2

theorem fenceLeaf_free {l cause : Nat} {s : State} (hest : estOf s l = none)
    (hkind : (getLeaf s l).kind = .enabled ∨ (getLeaf s l).kind = .spare) :
    (getLeaf (fenceLeaf l cause s) l).kind = .fenced ∧ tget (fenceLeaf l cause s).boot.map l = 3 := by
  have honly : (getLeaf (fenceOnly l cause s) l).kind = .fenced ∧ tget (fenceOnly l cause s).boot.map l = 3 := by
    refine ⟨?_, tget_tput_same ..⟩
    rw [fenceOnly, getLeaf_event]
    exact kind_setKind ..
  unfold fenceLeaf
  dsimp only
  rw [hest]
  generalize fenceOnly l cause s = v at honly ⊢
  dsimp only
  split
  · cases hspare : spareFor v none l with
    | none => exact honly
    | some sp =>
      have hne : l ≠ sp := fun h => by
        have := kind_spareFor hspare
        rw [← h, honly.1] at this
        cases this
      dsimp only
      refine ⟨?_, ?_⟩
      · rw [getLeaf_event, getLeaf_modLeaf_ne _ _ hne]
        exact (congrArg Leaf.kind (getLeaf_modLeaf_ne _ _ hne)).trans honly.1
      · exact (tget_tput_ne _ _ hne).trans honly.2
  · exact honly

theorem leafFence_says (ht : Taken 0x0105 isGs (lenIs 2) m s) (hl : fld m 0 2 < 168)
    (hkind : (getLeaf s (fld m 0 2)).kind = .enabled ∨ (getLeaf s (fld m 0 2)).kind = .spare) (hest : estOf s (fld m 0 2) = none) :
    Says id (.leafFence m) 0x0105 m s ok fun r u => ∃ v, u = settle v ∧ v = fenceLeaf (fld m 0 2) 6 r ∧
      (getLeaf v (fld m 0 2)).kind = .fenced ∧ tget v.boot.map (fld m 0 2) = 3 := by
  have hfused : (getLeaf s (fld m 0 2)).kind ≠ .fusedOff := by rcases hkind with h | h <;> rw [h] <;> decide
  have hfenced : (getLeaf s (fld m 0 2)).kind ≠ .fenced := by rcases hkind with h | h <;> rw [h] <;> decide
  refine says_of_own (own := ownLeafFence) (u := fence (fld m 0 2) 6 (atTaking m s)) rfl ht ?_
    ⟨_, rfl, rfl, fenceLeaf_free (by rw [estOf_atTaking]; exact hest) (by rw [getLeaf_atTaking]; exact hkind)⟩
  unfold ownLeafFence
  dsimp only
  rw [getLeaf_atTaking, checked_of_good (by simp [hfused, hl]), decide_eq_false hfenced]
  rfl

/-- Settles O40. -/
theorem coreMessages : Obligations.CoreMessages :=
  ⟨fun _ _ => afiVersion_says, fun _ _ => mboxSet_says, fun _ _ => irqRoute_says, fun _ _ => queueBind_says, fun _ _ => queueUnbind_says,
    fun _ _ => templateLoad_waits, fun _ _ _ => templateFree_says, fun _ _ _ => templateFree_waits, fun _ _ => leafStats_says,
    fun _ _ => leafFence_says⟩

end Sys2Proof.Machine

/-! Grants, estates and guests (R212 to R220, R242 to R245). -/

namespace Sys2Proof.Machine
open Sys2Proof.Claims

variable {m : Msg} {s : State}

/-! ### Grants -/

theorem pidx_of_isGs {code : Nat} {len : Msg → Bool} (ht : Taken code isGs len m s) : pidx m.sender = 16 := by
  simpa [isGs] using ht.2.2.2.2.1

@[simp] theorem estatesOf_atTaking (m : Msg) (s : State) (p : Nat) : estatesOf (atTaking m s) p = estatesOf s p := by simp [estatesOf]

theorem otherGrants_atTaking (m : Msg) (s : State) (p : Nat) : otherGrants (atTaking m s) p = otherGrants s p := by
  unfold otherGrants
  simp only [grant_atTaking, grantPend_atTaking]

theorem grantShared_atTaking (m : Msg) (s : State) (p : Nat) (g : Grant) : grantShared (atTaking m s) p g = grantShared s p g := by
  unfold grantShared
  rw [otherGrants_atTaking]

theorem leavesLack_atTaking (m : Msg) (s : State) (p : Nat) (g : Grant) : leavesLack (atTaking m s) p g = leavesLack s p g := by
  unfold leavesLack leavesOf
  simp only [grant_atTaking, grantPend_atTaking, getLeaf_atTaking]

theorem grantDenied_atTaking (m : Msg) (s : State) (p : Nat) (g : Grant) : grantDenied (atTaking m s) p g = grantDenied s p g :=
  (congrArg (grantDenied · p g) (atTaking_frame m s)).trans rfl

theorem grantBad_atTaking (m m' : Msg) (s : State) (g : Grant) : grantBad (atTaking m s) m' g = grantBad s m' g :=
  (congrArg (grantBad · m' g) (atTaking_frame m s)).trans rfl

/-- GRANT_SET that names what others hold is refused. -/
theorem grantSet_says_shared (ht : Taken 0x0200 isGs grantLen m s) (hgood : firstBad (grantBad s m (grantOf m)) = none)
    (hdeny : grantDenied s (fld m 0 1) (grantOf m) = false) (hpend : (getParty s (fld m 0 1)).grantPend = none)
    (hshared : grantShared s (fld m 0 1) (grantOf m) ≠ 0) :
    Says (fun t => enterByVotes (settle t)) (.grantSet m) 0x0200 m s (noRes (grantShared s (fld m 0 1) (grantOf m))) fun r u => u = r := by
  refine says_then (own := ownGrantSet) (f := fun t => enterByVotes (settle t)) (by rw [pidx_of_isGs ht]; rfl) ht ?_ rfl
  unfold ownGrantSet
  dsimp only
  rw [checked_of_good (by rw [grantBad_atTaking]; exact hgood), grantDenied_atTaking, hdeny, grantPend_atTaking, hpend, grantShared_atTaking]
  simp only [Option.isSome_none, refusedBy_cons_false, refusedBy_nil, hshared, ne_eq, not_false_eq_true, if_true]

/-- A party whose grant is its first waits for nothing to take it. -/
theorem grantBusy_first {p : Nat} {x : GrantPend} {s : State} (hold : (getParty s p).grant = {}) (hests : estatesOf s p = [])
    (hzeroed : s.mem.unzeroed = false) (hfree : ∀ g ∈ granules x.grant.dram, g ∉ s.mem.zeroing) : grantBusy s p x = false := by
  have hnone : (granules x.grant.dram).any (fun g => s.mem.zeroing.contains g || (s.mem.unzeroed && !keptGranule s g)) = false := by
    simpa [hzeroed] using hfree
  unfold grantBusy
  simp only [hold, hests, hnone, show granules ({} : Grant).dram = [] from rfl]
  cases mboxAddr s p <;> simp

theorem cleanWays_zero (s : State) : cleanWays 0 s = s := by
  unfold cleanWays cleanLines
  simp only [show ∀ k, bitOf 0 k = false by simp [bitOf], Bool.false_eq_true, if_false, List.foldl_const]
  exact Function.iterate_fixed rfl _

/-- A party's first grant as it takes effect. -/
def firstGrant (g : Grant) (x : PartySt) : PartySt :=
  { x with grant := g, grantPend := none, memWays := x.memWays.map fun w => w &&& g.ways }

theorem grantDone_first {p : Nat} {g : Grant} {s : State} (hold : (getParty s p).grant = {}) (hwin : ∀ x ∈ s.cross.win, x.2.owner ≠ p) :
    grantDone p g s = grantEvent p g true (modParty s p (firstGrant g)) := by
  have hclose : ∀ t : State, t.cross = s.cross → closeLost p t = t := by
    intro t ht
    unfold closeLost
    rw [List.filter_eq_nil_iff.2 fun x hx => by simp [hwin x (ht ▸ hx)]]
    rfl
  have hlost : (List.range 16).filter (fun r => bitOf 0 r && !bitOf g.ranges r) = [] := by simp [bitOf]
  unfold grantDone
  simp only [hold, show ({} : Grant).ways = 0 from rfl, show ({} : Grant).ranges = 0 from rfl, show granules ({} : Grant).dram = [] from rfl,
    Nat.zero_and, cleanWays_zero, hlost, List.filter_nil, List.foldl_nil]
  exact congrArg (grantEvent p g true) (hclose _ rfl)

theorem shrinkPlan_none {p : Nat} {g : Grant} {s : State} (hests : estatesOf s p = []) : shrinkPlan s p g = some [] := by
  simp [shrinkPlan, hests]

/-- The first grant of a party that has none, as it is taken. -/
theorem takeGrant_first {p : Nat} {g : Grant} {d : Pend} (hold : (getParty s p).grant = {}) (hests : estatesOf s p = [])
    (hzeroed : s.mem.unzeroed = false) (hfree : ∀ x ∈ granules g.dram, tget s.mem.lastOwner x = 0 ∧ x ∉ s.mem.zeroing)
    (hwin : ∀ x ∈ s.cross.win, x.2.owner ≠ p) :
    ∃ f : PartySt → PartySt, takeGrant p g d s = say ok (grantEvent p g true (modParty (modParty s p f) p (firstGrant g))) := by
  have hfresh : (granules g.dram).filter (fun x => !(granules ({} : Grant).dram).contains x && decide (tget s.mem.lastOwner x ≠ 0) &&
      !s.mem.zeroing.contains x) = [] := List.filter_eq_nil_iff.2 fun x hx => by simp [(hfree x hx).1]
  refine ⟨fun x => { x with voted := x.voted && !grantAdds {} g, grantPend := some { grant := g, pend := d, shrink := [] } }, ?_⟩
  have hmem : { s with mem := { s.mem with zeroing := s.mem.zeroing ++ [] } } = s := by simp
  unfold takeGrant
  simp only [hold, hfresh, shrinkPlan_none hests, Option.getD_some, List.foldl_nil, hmem]
  generalize hu : modParty s p (fun x => { x with
    voted := x.voted && !grantAdds {} g, grantPend := some ({ grant := g, pend := d, shrink := [] } : GrantPend) }) = u
  have hgrant : (getParty u p).grant = {} := by
    rw [← hu, getParty_modParty_same]
    exact hold
  have hown : estatesOf u p = [] := by
    rw [← hu]
    exact hests
  have hmem' : u.mem = s.mem := by rw [← hu]; rfl
  have hcross : u.cross = s.cross := by rw [← hu]; rfl
  have hidle := grantBusy_first (x := { grant := g, pend := d, shrink := [] }) hgrant hown (hmem' ▸ hzeroed)
    fun x hx => hmem' ▸ (hfree x hx).2
  rw [hown, List.foldl_nil, hidle, grantDone_first hgrant (hcross ▸ hwin), ← hu]
  rfl

theorem grantSet_says_first (ht : Taken 0x0200 isGs grantLen m s) (hgood : firstBad (grantBad s m (grantOf m)) = none)
    (hdeny : grantDenied s (fld m 0 1) (grantOf m) = false) (hpend : (getParty s (fld m 0 1)).grantPend = none)
    (hshared : grantShared s (fld m 0 1) (grantOf m) = 0) (hlack : leavesLack s (fld m 0 1) (grantOf m) = 0)
    (hold : (getParty s (fld m 0 1)).grant = {}) (hests : estatesOf s (fld m 0 1) = []) (hzeroed : s.mem.unzeroed = false)
    (hfree : ∀ g ∈ granules (grantOf m).dram, tget s.mem.lastOwner g = 0 ∧ g ∉ s.mem.zeroing) (hwin : ∀ x ∈ s.cross.win, x.2.owner ≠ fld m 0 1) :
    Says (fun t => enterByVotes (settle t)) (.grantSet m) 0x0200 m s ok fun r u => (getParty u (fld m 0 1)).grant = grantOf m ∧
      (getParty u (fld m 0 1)).grantPend = none ∧ (∀ p, p ≠ fld m 0 1 → getParty u p = getParty r p) ∧
      Logs 0xA048 srcAfzan (leBytes 1 (fld m 0 1) ++ leBytes 2 (grantOf m).leaves ++ leBytes 1 (grantOf m).cg ++
        leBytes 2 (grantOf m).ways ++ leBytes 1 1) r u := by
  obtain ⟨f, hf⟩ := takeGrant_first (d := pendOf s 0x0200 m) (s := atTaking m s) (p := fld m 0 1) (g := grantOf m) (by simp [hold]) (by simp [hests])
    (by simp [hzeroed]) (by simpa using hfree) (by simpa using hwin)
  refine says_then (own := ownGrantSet) (f := fun t => enterByVotes (settle t)) (by rw [pidx_of_isGs ht]; rfl) ht
    (u := grantEvent (fld m 0 1) (grantOf m) true (modParty (modParty (atTaking m s) (fld m 0 1) f) (fld m 0 1) (firstGrant (grantOf m)))) ?_ ?_
  · rw [pendOf_atTaking]
    unfold ownGrantSet
    dsimp only
    rw [checked_of_good (by rw [grantBad_atTaking]; exact hgood), grantDenied_atTaking, hdeny, grantPend_atTaking, hpend, grantShared_atTaking,
      hshared, leavesLack_atTaking, hlack]
    simp only [Option.isSome_none, refusedBy_cons_false, refusedBy_nil, ne_eq, not_true_eq_false, if_false]
    exact hf
  · generalize atTaking m s = r
    unfold grantEvent
    refine ⟨?_, ?_, fun p hp => ?_, ?_⟩
    · rw [getParty, event_party, ← getParty, getParty_modParty_same]
      rfl
    · rw [getParty, event_party, ← getParty, getParty_modParty_same]
      rfl
    · rw [getParty, event_party, ← getParty, getParty_modParty_ne _ _ hp, getParty_modParty_ne _ _ hp]
    · exact logs_event (by simp) rfl rfl rfl rfl

/-! ### Estates -/

theorem firstBad_append_of_good {xs : List (Nat × Bool)} (ys : List (Nat × Bool)) (h : firstBad xs = none) : firstBad (xs ++ ys) = firstBad ys := by
  induction xs with
  | nil => rfl
  | cons x xs ih =>
    obtain ⟨o, b⟩ := x
    rw [firstBad_cons] at h
    cases b with
    | true => exact absurd h nofun
    | false => exact ih h

theorem descBad_atTaking (m m' : Msg) (s : State) (p : Nat) (d : EstDesc) : descBad (atTaking m s) p m' d = descBad s p m' d :=
  (congrArg (descBad · p m' d) (atTaking_frame m s)).trans rfl
theorem descDenied_atTaking (m : Msg) (s : State) (p : Nat) (d : EstDesc) : descDenied (atTaking m s) p d = descDenied s p d := by
  simp [descDenied]
theorem estLack_atTaking (m : Msg) (s : State) (p e n : Nat) : estLack (atTaking m s) p e n = estLack s p e n := by simp [estLack]
theorem placeLack_atTaking (m : Msg) (s : State) (e n : Nat) : placeLack (atTaking m s) e n = placeLack s e n :=
  (congrArg (placeLack · e n) (atTaking_frame m s)).trans rfl
theorem placeEst_atTaking (m : Msg) (s : State) (e n : Nat) : placeEst (atTaking m s) e n = placeEst s e n :=
  (congrArg (placeEst · e n) (atTaking_frame m s)).trans rfl
theorem estBusy_atTaking (m : Msg) (s : State) (e : Nat) : estBusy (atTaking m s) e = estBusy s e := by simp [estBusy]
theorem boundary_atTaking (m : Msg) (s : State) (e : Nat) : boundary (atTaking m s) e = boundary s e := by simp [boundary]

theorem getEst_event (src code p : Nat) (args : List Byte) (s : State) (e : Nat) : getEst (event src code p args s) e = getEst s e := by
  rw [getEst, event_jobs, ← getEst]

theorem getEst_settleDiv (s : State) (e : Nat) : getEst (settleDiv s) e = getEst s e := by
  rw [settleDiv_frame]
  rfl

theorem getParty_settleDiv (s : State) (p : Nat) : getParty (settleDiv s) p = getParty s p := by
  rw [settleDiv_frame]
  rfl

/-- Event 0xA043 of a new estate. -/
def estMade (e p n : Nat) : List Byte := leBytes 1 e ++ leBytes 1 p ++ leBytes 2 0 ++ leBytes 2 n ++ leBytes 1 0

theorem createEst_of_free {p e : Nat} {d : EstDesc} {ls : List Nat} {s : State} (hfree : (List.range 16).find? (fun x => !(getEst s x).live) = some e) :
    createEst p d ls s = (settleDiv (event srcAfzan 0xA043 p (estMade e p ls.length)
      (modEst s e fun _ => { live := true, party := p, desc := { d with leaves := ls.length }, leaves := ls })), okWith (leBytes 1 e ++ leBytes 3 0)) := by
  unfold createEst
  rw [hfree]
  rfl

theorem estateSet_says_new {ls : List Nat} {e : Nat} (ht : Taken 0x0201 isParty (lenIs 32) m s) (hnew : fld m 0 1 = 0xFF)
    (hsec : (descOf m).secure = false) (hgood : firstBad (descBad s (pidx m.sender) m (descOf m)) = none)
    (hdeny : descDenied s (pidx m.sender) (descOf m) = false) (hlack : estLack s (pidx m.sender) 16 (descOf m).leaves = 0)
    (hfew : (estatesOf s (pidx m.sender)).length < (reqGrant s (pidx m.sender)).estates) (hplace : placeEst s 16 (descOf m).leaves = some ls)
    (hfree : (List.range 16).find? (fun x => !(getEst s x).live) = some e) :
    Says settle (.estateSet m) 0x0201 m s (okWith (leBytes 1 e ++ leBytes 3 0)) fun r u =>
      getEst u e = { live := true, party := pidx m.sender, desc := { descOf m with leaves := ls.length }, leaves := ls } ∧
      (∀ j, j ≠ e → getEst u j = getEst s j) ∧
      Logs 0xA043 srcAfzan (leBytes 1 e ++ leBytes 1 (pidx m.sender) ++ leBytes 2 0 ++ leBytes 2 ls.length ++ leBytes 1 0) r u := by
  refine says_then (own := ownEstateSet) (f := settle) rfl ht
    (u := (createEst (pidx m.sender) (descOf m) ls (atTaking m s)).1) ?_ ?_
  · unfold ownEstateSet
    have hmade := createEst_of_free (p := pidx m.sender) (d := descOf m) (ls := ls) (s := atTaking m s) (by simpa using hfree)
    have hbad : firstBad (descBad (atTaking m s) (pidx m.sender) m (descOf m) ++
        [(1, (descOf m).secure && (descOf m).be || !decide (fld m 0 1 = 0xFF) && ((descOf m).secure != (getEst (atTaking m s) (fld m 0 1)).desc.secure)),
         (5, (descOf m).secure && decide (fld m 5 1 ≠ 0)),
         (2, (descOf m).secure && decide ((descOf m).leaves ≠ (secureLeaves (atTaking m s)).length))]) = none := by
      rw [descBad_atTaking, firstBad_append_of_good _ hgood]
      simp [hsec, hnew]
    dsimp only
    rw [checked_of_good (by simp [firstBad, hnew])]
    simp only [pendOf_atTaking, show (pendOf s 0x0201 m).party = pidx m.sender from rfl]
    rw [checked_of_good hbad]
    simp only [hsec, hnew, descDenied_atTaking, hdeny, Bool.false_and, Bool.and_false, decide_true, Bool.not_true, refusedBy_cons_false, refusedBy_nil,
      Bool.false_eq_true, if_false]
    unfold createNormal
    simp only [estLack_atTaking, hlack, estatesOf_atTaking, reqGrant_atTaking, Nat.not_le.2 hfew, placeEst_atTaking, hplace, ne_eq,
      not_true_eq_false, if_false]
    rw [hmade]
    rfl
  · rw [createEst_of_free (by simpa using hfree)]
    refine ⟨?_, fun j hj => ?_, ?_⟩
    · rw [getEst_settleDiv, getEst_event, getEst_modEst_same]
    · rw [getEst_settleDiv, getEst_event, getEst_modEst_ne _ _ hj, getEst_atTaking]
    · rw [settleDiv_frame]
      exact logs_event (by simp) rfl rfl rfl rfl

theorem estateSet_waits (ht : Taken 0x0201 isParty (lenIs 32) m s) (hroom : Room m s) (he : fld m 0 1 < 16)
    (hlive : (getEst s (fld m 0 1)).live = true) (hparty : (getEst s (fld m 0 1)).party = pidx m.sender) (hsec : (descOf m).secure = false)
    (hsec' : (getEst s (fld m 0 1)).desc.secure = false) (hgood : firstBad (descBad s (pidx m.sender) m (descOf m)) = none)
    (hdeny : descDenied s (pidx m.sender) (descOf m) = false) (hlack : estLack s (pidx m.sender) (fld m 0 1) (descOf m).leaves = 0)
    (hroomy : (descOf m).leaves = (getEst s (fld m 0 1)).leaves.length ∨ placeLack s (fld m 0 1) (descOf m).leaves = 0)
    (hbusy : estBusy s (fld m 0 1) = false) (hruns : boundary s (fld m 0 1) = false) :
    Waits settle (.estateSet m) 0x0201 m s fun d r u => u = modEst r (fld m 0 1) fun z => { z with change := .set (descOf m) d } := by
  refine waits_then (own := ownEstateSet) (f := settle) rfl ht hroom ?_ rfl
  have hbad : firstBad (descBad (atTaking m s) (pidx m.sender) m (descOf m) ++
      [(1, (descOf m).secure && (descOf m).be || !decide (fld m 0 1 = 0xFF) && ((descOf m).secure != (getEst (atTaking m s) (fld m 0 1)).desc.secure)),
       (5, (descOf m).secure && decide (fld m 5 1 ≠ 0)),
       (2, (descOf m).secure && decide ((descOf m).leaves ≠ (secureLeaves (atTaking m s)).length))]) = none := by
    rw [descBad_atTaking, firstBad_append_of_good _ hgood]
    simp [hsec, hsec']
  have hold : fld m 0 1 ≠ 0xFF := by omega
  have hfits : (decide ((descOf m).leaves ≠ (getEst s (fld m 0 1)).leaves.length) && !(descOf m).secure &&
      decide (placeLack s (fld m 0 1) (descOf m).leaves ≠ 0)) = false := by
    rcases hroomy with h | h <;> simp [h]
  unfold ownEstateSet
  dsimp only
  rw [checked_of_good (by simp [hlive, Nat.not_le.2 he])]
  simp only [show (pendOf s 0x0201 m).party = pidx m.sender from rfl]
  rw [checked_of_good hbad]
  simp only [hsec, hold, descDenied_atTaking, hdeny, getEst_atTaking, hparty, Bool.false_and, Bool.and_false, decide_false, Bool.not_false,
    ne_eq, not_true_eq_false, refusedBy_cons_false, refusedBy_nil, Bool.false_eq_true, if_false, if_true]
  unfold changeEst
  simp only [getEst_atTaking, hparty, estLack_atTaking, hlack, placeLack_atTaking, hfits, estBusy_atTaking, hbusy, boundary_atTaking, hruns, ne_eq,
    not_true_eq_false, Bool.false_eq_true, if_false]

theorem getEst_freeEstate (e : Nat) (s : State) : getEst (freeEstate e s) e = {} := by
  unfold freeEstate
  dsimp only
  rw [getEst_settleDiv, getEst_event, getEst_modEst_same]

theorem estateFree_says (ht : Taken 0x0202 isParty (lenIs 4) m s) (he : fld m 0 1 < 16) (hparty : (getEst s (fld m 0 1)).party = pidx m.sender)
    (hrsv : fld m 1 3 = 0) (hbusy : estBusy s (fld m 0 1) = false) (hrest : boundary s (fld m 0 1) = true) :
    Says (fun t => enterByVotes (settle t)) (.estateFree m) 0x0202 m s ok fun r u => u = freeEstate (fld m 0 1) r ∧ getEst u (fld m 0 1) = {} := by
  have hlive : (getEst s (fld m 0 1)).live = true := by
    simp only [boundary, Bool.and_eq_true] at hrest
    exact hrest.1.1.1.1.1.1.1
  refine says_then (own := ownEstateFree) (f := fun t => enterByVotes (settle t)) rfl ht ?_ ⟨rfl, getEst_freeEstate _ _⟩
  unfold ownEstateFree
  dsimp only
  rw [checked_of_good (by simp [hlive, Nat.not_le.2 he]), checked_of_good (by simp [rsvBad_eq_false.2 hrsv])]
  simp [pendOf, hparty, estBusy_atTaking, hbusy, boundary_atTaking, hrest]

/-! ### Guests -/

section
variable {c : Instr} {code : Nat} {allow : Nat → Bool}

theorem guestTaken_taken (ht : GuestTaken m s) (hallow : allow 16 = true) (hlen : Config.guestLen code m.length.toNat = true) :
    Taken code allow (guestLenIs code) m s := by
  obtain ⟨hserved, hsender, hact, hready, hheader, hfrozen⟩ := ht
  unfold Taken
  rw [hsender]
  refine ⟨hserved, hact, Or.inl hready, ?_, hallow, Or.inl hfrozen⟩
  simpa [headerBad, guestLenIs, hlen] using hheader

theorem headerBad_guestLen (h : headerBad m (fun _ => true) = none) (hlen : Config.guestLen code m.length.toNat = false) :
    headerBad m (guestLenIs code) = some 2 := by
  unfold headerBad
  rw [if_pos (Or.inr (by simp [guestLenIs, hlen]))]

/-- A guest-state message of GS: its payload's checks, and what it does where they pass. -/
theorem guestSays_of_own {k : Own} {P : Ans → State → State → Prop}
    (hexec : exec c s = .next (serve code allow (guestLenIs code) (fun m d s => guestChecks code m d s (k m d s)) m s)) (ht : GuestTaken m s)
    (hallow : allow 16 = true)
    (hown : GuestGood code m → ∃ a u, k m (pendOf s code m) (atTaking m s) = say a u ∧ P a (atTaking m s) u) :
    GuestSays c code m s P := by
  obtain ⟨hserved, hsender, hact, hready, hheader, hfrozen⟩ := id ht
  cases hlen : Config.guestLen code m.length.toNat with
  | false =>
    refine ⟨{ status := stBAD_ARG, detail := 2 }, atTaking m s, ?_, fun h => absurd h.1 (by simp [hlen]), fun _ => ⟨rfl, rfl⟩⟩
    rw [hexec, serve_of_headerBad (by rw [hsender]; exact hserved) hact hready (headerBad_guestLen hheader hlen), hsender]
  | true =>
    have htaken := guestTaken_taken (code := code) ht hallow hlen
    cases hbad : Config.guestBad code m.payload with
    | some o =>
      refine ⟨badArg o, atTaking m s, ?_, fun h => absurd h.2.1 (by simp [hbad]), fun _ => ⟨rfl, rfl⟩⟩
      rw [hexec, serve_of_taken htaken (u := atTaking m s) (a := badArg o) (by simp [guestChecks, hbad, say]), hsender]
    | none =>
      by_cases hguest : guestOf code m < 16
      · obtain ⟨a, u, hk, hP⟩ := hown ⟨hlen, hbad, hguest⟩
        refine ⟨a, u, ?_, fun _ => hP, fun h => absurd ⟨hlen, hbad, hguest⟩ h⟩
        rw [hexec, serve_of_taken htaken (u := u) (a := a)
          (by simp [guestChecks, hbad, Nat.not_le.2 hguest, hsender, hk]), hsender]
      · refine ⟨sts stBAD_ARG, atTaking m s, ?_, fun h => absurd h.2.2 hguest, fun _ => ⟨rfl, rfl⟩⟩
        rw [hexec, serve_of_taken htaken (u := atTaking m s) (a := sts stBAD_ARG) (by simp [guestChecks, hbad, Nat.not_lt.1 hguest, say]), hsender]

end

@[simp] theorem partyRuns_atTaking (m : Msg) (s : State) (p : Nat) : partyRuns (atTaking m s) p = partyRuns s p := by simp [partyRuns]

/-- Of a guest, the taking of a message of GS notes nothing. -/
theorem getParty_atTaking_guest {p : Nat} (hsender : pidx m.sender = 16) (hp : p < 16) : getParty (atTaking m s) p = getParty s p := by
  unfold atTaking afiNote
  split
  · rw [getParty, event_party, ← getParty, getParty_modParty_ne _ _ (by omega)]
    rfl
  · rfl

/-- What a guest's event 0xA047 leaves, after a change of its party. -/
theorem guestEvent_effect (p st : Nat) (f : PartySt → PartySt) (r : State) :
    let u := guestEvent p st (modParty r p f)
    getParty u p = f (getParty r p) ∧ u = { r with party := u.party, caddy := u.caddy } ∧
      Logs 0xA047 srcAfzan (leBytes 1 p ++ leBytes 1 st) r u := by
  refine ⟨?_, ?_, logs_event (by simp) rfl rfl rfl rfl⟩
  · unfold guestEvent
    rw [getParty, event_party, ← getParty, getParty_modParty_same]
  · rfl

theorem guestFreeze_says (ht : GuestTaken m s) (hidle : ∀ p < 16, (getParty s p).frozen = 0 ∧ partyRuns s p = false) :
    GuestSays (.guestFreeze m) 0x0203 m s fun a r u => a = ok ∧
      getParty u (guestOf 0x0203 m) = { getParty s (guestOf 0x0203 m) with frozen := 2 } ∧
      u = { r with party := u.party, caddy := u.caddy } ∧ Logs 0xA047 srcAfzan (leBytes 1 (guestOf 0x0203 m) ++ leBytes 1 2) r u := by
  refine guestSays_of_own (allow := isParty) rfl ht rfl fun hgood =>
    ⟨ok, guestEvent (guestOf 0x0203 m) 2 (modParty (atTaking m s) (guestOf 0x0203 m) fun t => { t with frozen := 2 }), ?_, rfl, ?_⟩
  · obtain ⟨hfrozen, hruns⟩ := hidle _ hgood.2.2
    simp only [getParty_atTaking_guest ht.2.1 hgood.2.2, partyRuns_atTaking, hfrozen, hruns, Bool.false_eq_true, if_false,
      show ¬ (0 = 1) by decide, show ¬ (0 = 2) by decide]
  · have h := guestEvent_effect (guestOf 0x0203 m) 2 (fun t => { t with frozen := 2 }) (atTaking m s)
    rw [getParty_atTaking_guest ht.2.1 hgood.2.2] at h
    exact h

theorem guestThaw_says (ht : GuestTaken m s) (hfrozen : ∀ p < 16, (getParty s p).frozen = 2) :
    GuestSays (.guestThaw m) 0x0206 m s fun a r u => a = ok ∧
      getParty u (guestOf 0x0206 m) = { getParty s (guestOf 0x0206 m) with frozen := 0 } ∧
      u = { r with party := u.party, caddy := u.caddy } ∧ Logs 0xA047 srcAfzan (leBytes 1 (guestOf 0x0206 m) ++ leBytes 1 0) r u := by
  refine guestSays_of_own (allow := isParty) rfl ht rfl fun hgood =>
    ⟨ok, guestEvent (guestOf 0x0206 m) 0 (modParty (atTaking m s) (guestOf 0x0206 m) fun t => { t with frozen := 0 }), ?_, rfl, ?_⟩
  · simp only [getParty_atTaking_guest ht.2.1 hgood.2.2, hfrozen _ hgood.2.2, ne_eq, not_true_eq_false, decide_false, refusedBy_cons_false,
      refusedBy_nil]
  · have h := guestEvent_effect (guestOf 0x0206 m) 0 (fun t => { t with frozen := 0 }) (atTaking m s)
    rw [getParty_atTaking_guest ht.2.1 hgood.2.2] at h
    exact h

theorem spLeaf_of_dram {a : Nat} {s : State} (h : a ≤ dramEnd s) : spLeaf a = none := by
  have hend : dramEnd s < 0x1000000000 := by
    unfold dramEnd cgBytes
    split <;> omega
  exact if_neg (by omega)

theorem inReq_le {p a n : Nat} {s : State} (h : inReq s p a n = true) : a + n ≤ dramEnd s := by
  simp only [inReq, Bool.and_eq_true, decide_eq_true_eq] at h
  exact h.1

/-- What GUEST_SAVE notes of an image is what the image stands for. -/
theorem imageState_noteImage (s : State) (p : Nat) : imageState (noteImage p s) (Config.guestEncode (guestState s p)) = some (guestState s p) := by
  unfold imageState noteImage
  simp [modFirm]

theorem guestSave_says (ht : GuestTaken m s) (hfrozen : ∀ p < 16, (getParty s p).frozen = 2) :
    let p := guestOf 0x0204 m
    let a := Config.guestField 0x0204 1 m.payload
    let n := Config.guestField 0x0204 2 m.payload
    GuestSays (.guestSave m) 0x0204 m s fun x r u =>
      (inReq s p a n = false → x = sts stDENIED ∧ u = r) ∧
      (inReq s p a n = true → n < (guestBytes r p).length → x = noRes (guestBytes r p).length ∧ u = r) ∧
      (inReq s p a n = true → (guestBytes r p).length ≤ n → x = ok ∧
        u = guestEvent p 3 (putBytes byKettle a (guestBytes r p) (noteImage p r)) ∧
        memRead u a (guestBytes r p).length = guestBytes r p ∧
        imageState u (Config.guestEncode (guestState r p)) = some (guestState r p)) := by
  intro p a n
  refine guestSays_of_own (allow := isParty) rfl ht rfl fun hgood => ?_
  simp only [getParty_atTaking_guest ht.2.1 hgood.2.2, hfrozen _ hgood.2.2, inReq_atTaking, ne_eq, not_true_eq_false, decide_false,
    refusedBy_cons_false]
  generalize atTaking m s = r
  have hput : inReq s p a n = true → putBytes byKettle a (guestBytes r p) (noteImage p r) =
      fireWatches a (guestBytes r p).length (memWrite (noteImage p r) a (guestBytes r p)) := by
    intro h
    have hdram := inReq_le h
    unfold putBytes
    rw [spLeaf_of_dram (s := s) (by omega)]
  cases hin : inReq s p a n with
  | false => exact ⟨sts stDENIED, r, by simp, fun _ => ⟨rfl, rfl⟩, nofun, nofun⟩
  | true =>
    by_cases hfits : n < (guestBytes r p).length
    · refine ⟨noRes (guestBytes r p).length, r, ?_, nofun, fun _ _ => ⟨rfl, rfl⟩, fun _ h => absurd h (Nat.not_le.2 hfits)⟩
      exact if_pos hfits
    · refine ⟨ok, guestEvent p 3 (putBytes byKettle a (guestBytes r p) (noteImage p r)), ?_, nofun, fun _ h => absurd h hfits, fun _ _ => ⟨rfl, rfl, ?_, ?_⟩⟩
      · exact if_neg hfits
      · rw [hput hin]
        unfold guestEvent
        rw [memRead, event_mem, fireWatches_mem, ← memRead, memRead_memWrite]
      · rw [hput hin, fireWatches_eq]
        exact imageState_noteImage r p

theorem restoreBad_atTaking (m : Msg) (s : State) (hdr : List Byte) : restoreBad (atTaking m s) hdr = restoreBad s hdr := by simp [restoreBad]

theorem imageState_atTaking (m : Msg) (s : State) (body : List Byte) : imageState (atTaking m s) body = imageState s body := by
  unfold imageState
  rw [atTaking_firm]

theorem tmplsOf_atTaking (m : Msg) (s : State) (p : Nat) : tmplsOf (atTaking m s) p = tmplsOf s p := by simp [tmplsOf]
theorem boundQueues_atTaking (m : Msg) (s : State) (p : Nat) : boundQueues (atTaking m s) p = boundQueues s p := by simp [boundQueues]

/-- A rebuilt guest is frozen. -/
theorem frozen_of_rebuild {p : Nat} {g : GuestImage} {s t : State} (h : rebuild p g s = some t) : (getParty t p).frozen = 2 := by
  obtain ⟨a, -, h⟩ := Option.bind_eq_some_iff.1 h
  obtain ⟨b, -, h⟩ := Option.bind_eq_some_iff.1 h
  obtain ⟨c, -, rfl⟩ := Option.map_eq_some_iff.1 h
  dsimp only
  rw [getParty_settleDiv, getParty_modParty_same]

/-- A branch whose two ways both end the message ends it. -/
theorem ends_ite {c : Prop} [Decidable c] {x y : State × Option Ans} (hx : ∃ a u, x = say a u) (hy : ∃ a u, y = say a u) :
    ∃ a u, (if c then x else y) = say a u := by
  by_cases h : c
  · rwa [if_pos h]
  · rwa [if_neg h]

theorem guestChecks_good {code : Nat} {d : Pend} {k : State × Option Ans} (hgood : GuestGood code m) (hparty : d.party = 16) :
    guestChecks code m d s k = k := by
  simp [guestChecks, hgood.2.1, Nat.not_le.2 hgood.2.2, hparty]

section
variable {d : Pend} (hgood : GuestGood 0x0205 m) (hparty : d.party = 16)
include hgood hparty

theorem ownGuestRestore_ends : ∃ x u, ownGuestRestore m d s = say x u := by
  have hend : ∀ x u, ∃ a t, (say x u : State × Option Ans) = say a t := fun x u => ⟨x, u, rfl⟩
  unfold ownGuestRestore
  rw [guestChecks_good hgood hparty]
  dsimp only
  rw [refusedBy_single]
  refine ends_ite (hend _ _) ?_
  split
  · exact hend _ _
  · refine ends_ite (hend _ _) (ends_ite (hend _ _) ?_)
    split
    · exact hend _ _
    · refine ends_ite (hend _ _) (ends_ite (hend _ _) ?_)
      split
      · exact hend _ _
      · exact hend _ _

theorem ownGuestRestore_denied (hin : inReq s 16 (Config.guestField 0x0205 1 m.payload) 128 = false) :
    ownGuestRestore m d s = say (sts stDENIED) s := by
  unfold ownGuestRestore
  rw [guestChecks_good hgood hparty]
  dsimp only
  rw [hin]
  rfl

theorem ownGuestRestore_restores {a : Nat} {hdr img : List Byte} {p : Nat} {g : GuestImage} {t : State}
    (hp : guestOf 0x0205 m = p) (ha : Config.guestField 0x0205 1 m.payload = a) (hin : inReq s 16 a 128 = true) (hhdr : memRead s a 128 = hdr)
    (hfine : restoreBad s hdr = none) (hlen : 128 ≤ field hdr 8 8) (hin' : inReq s 16 a (field hdr 8 8) = true)
    (himg : memRead s a (field hdr 8 8) = img) (hsha : sha (digestless img) = (img.drop 16).take 48)
    (hstate : imageState s (img.drop 128) = some g) (hests : estatesOf s p = []) (htmpls : tmplsOf s p = []) (hqs : boundQueues s p = [])
    (hgrant : grantSmaller (reqGrant s p) g.grant = false) (hbuilt : rebuild p g s = some t) :
    ownGuestRestore m d s = say ok (guestEvent p 4 (modFirm t fun f => { f with restored := tput f.restored p ((img.drop 16).take 48) })) := by
  have hfit : ¬ (field hdr 8 8 < 128 ∨ inReq s 16 a (field hdr 8 8) = false) := by simp [hin', hlen]
  unfold ownGuestRestore
  rw [guestChecks_good hgood hparty]
  simp only [hp, ha, hin, hhdr, hfine, if_neg hfit, himg, hsha, hstate, hests, htmpls, hqs, hgrant, hbuilt, Bool.not_true, refusedBy_cons_false,
    refusedBy_nil, ne_eq, not_true_eq_false, if_false, List.isEmpty_nil, Bool.or_false, Bool.false_eq_true]

end

theorem say_inj {a b : Ans} {s t : State} (h : say a s = say b t) : a = b ∧ s = t :=
  ⟨Option.some.inj (Prod.mk.inj h).2, (Prod.mk.inj h).1⟩

theorem guestRestore_says {p a : Nat} {hdr img : List Byte} (hp : guestOf 0x0205 m = p) (ha : Config.guestField 0x0205 1 m.payload = a)
    (hhdr : memRead s a 128 = hdr) (himg : memRead s a (field hdr 8 8) = img) (ht : GuestTaken m s) :
    GuestSays (.guestRestore m) 0x0205 m s fun x r u =>
      (inReq s 16 a 128 = false → x = sts stDENIED ∧ u = r) ∧
      (∀ g t, inReq s 16 a 128 = true → restoreBad s hdr = none → 128 ≤ field hdr 8 8 → inReq s 16 a (field hdr 8 8) = true →
        sha (digestless img) = (img.drop 16).take 48 → imageState s (img.drop 128) = some g → estatesOf s p = [] → tmplsOf s p = [] →
        boundQueues s p = [] → grantSmaller (reqGrant s p) g.grant = false → rebuild p g r = some t →
        x = ok ∧ (getParty u p).frozen = 2 ∧ tget u.firm.restored p = (img.drop 16).take 48) := by
  refine guestSays_of_own (allow := isGs) rfl ht rfl fun hgood => ?_
  have hparty : (pendOf s 0x0205 m).party = 16 := ht.2.1
  obtain ⟨x, u, hends⟩ := ownGuestRestore_ends (s := atTaking m s) hgood hparty
  refine ⟨x, u, (guestChecks_good hgood hparty).symm.trans hends, fun hin => ?_,
    fun g t hin hfine hlen hin' hsha hstate hests htmpls hqs hgrant hbuilt => ?_⟩
  · rw [ownGuestRestore_denied hgood hparty (by rw [inReq_atTaking, ha]; exact hin)] at hends
    exact ⟨(say_inj hends).1.symm, (say_inj hends).2.symm⟩
  · rw [ownGuestRestore_restores (a := a) (hdr := hdr) (img := img) (p := p) hgood hparty hp ha (by rwa [inReq_atTaking])
      (by rwa [memRead_atTaking]) (by rwa [restoreBad_atTaking]) hlen (by rwa [inReq_atTaking]) (by rwa [memRead_atTaking]) hsha
      (by rwa [imageState_atTaking]) (by rwa [estatesOf_atTaking]) (by rwa [tmplsOf_atTaking]) (by rwa [boundQueues_atTaking])
      (by rwa [reqGrant_atTaking]) hbuilt] at hends
    obtain ⟨rfl, rfl⟩ := say_inj hends
    refine ⟨rfl, ?_, ?_⟩
    · unfold guestEvent
      rw [getParty, event_party]
      exact frozen_of_rebuild (t := t) hbuilt
    · exact tget_tput_same _ _ _

/-- Settles O41: a first grant meets nothing that it must wait for, a new estate is made with the event first, and the guests' messages are
their own steps behind the checks that they share. -/
theorem grantEstateAndGuestMessages : Obligations.GrantEstateAndGuestMessages :=
  ⟨fun _ _ ht hgood hdeny hpend hshared hlack hold hests hzeroed hfree hwin =>
      grantSet_says_first ht hgood hdeny hpend hshared hlack hold hests hzeroed hfree hwin,
    fun _ _ ht hgood hdeny hpend hshared => grantSet_says_shared ht hgood hdeny hpend hshared,
    fun _ _ _ _ ht hnew hsec hgood hdeny hlack hfew hplace hfree => estateSet_says_new ht hnew hsec hgood hdeny hlack hfew hplace hfree,
    fun _ _ ht hroom he hlive hparty hsec hsec' hgood hdeny hlack hroomy hbusy hruns =>
      estateSet_waits ht hroom he hlive hparty hsec hsec' hgood hdeny hlack hroomy hbusy hruns,
    fun _ _ ht he hparty hrsv hbusy hrest => estateFree_says ht he hparty hrsv hbusy hrest,
    fun _ _ ht hidle => guestFreeze_says ht hidle, fun _ _ ht hfrozen => guestThaw_says ht hfrozen,
    fun _ _ ht hfrozen => guestSave_says ht hfrozen, fun _ _ ht => guestRestore_says rfl rfl rfl rfl ht⟩

end Sys2Proof.Machine

/-! Messages of power, clocks and memory (R346, R351 to R353, R374 to R379). -/

namespace Sys2Proof.Machine
open Sys2Proof.Claims

variable {m : Msg} {s : State}

/-! ### Votes, limits, lists of Park, alarms and resume vectors -/

theorem powerVote_says (ht : Taken 0x0300 isPartyGx (lenIs 8) m s) (hst : fld m 0 1 = 0 ∨ fld m 0 1 = 2 ∨ fld m 0 1 = 3 ∨ fld m 0 1 = 4)
    (hflags : fld m 1 1 < 4) (hforce : 2 ≤ fld m 1 1 → pidx m.sender = 17)
    (hdv : fld m 2 1 = 0 ∨ (fld m 2 1 ∈ tclkSteps ∧ s.part.floor ≤ fld m 2 1)) (hrsv : fld m 3 5 = 0) :
    Says enterByVotes (.powerVote m) 0x0300 m s ok fun r u =>
      let v := settleDiv (modParty r (pidx m.sender) fun x => { x with
        voted := true, vote := fld m 0 1, saved := bitOf (fld m 1 1) 0, divider := if fld m 2 1 = 0 then x.divider else fld m 2 1 })
      u = if pidx m.sender = 17 then (if 2 ≤ fld m 1 1 then forceDoze v else releaseDoze v) else v := by
  refine says_then (own := ownPowerVote) (f := enterByVotes) rfl ht ?_ rfl
  have hbit : bitOf (fld m 1 1) 1 = decide (2 ≤ fld m 1 1) := by
    simp only [bitOf, beq_eq_decide, decide_eq_decide]
    omega
  have hdiv : (decide (fld m 2 1 ≠ 0) && (!tclkSteps.contains (fld m 2 1) || decide (fld m 2 1 < s.part.floor))) = false := by
    rcases hdv with h | ⟨hin, hle⟩
    · simp [h]
    · simp [hin, Nat.not_lt.2 hle]
  have hstate : (decide (fld m 0 1 = 1) || decide (4 < fld m 0 1)) = false := by rcases hst with h | h | h | h <;> simp [h]
  have hmay : (decide (2 ≤ fld m 1 1) && decide (pidx m.sender ≠ 17)) = false := by
    by_cases h : 2 ≤ fld m 1 1
    · simp [hforce h]
    · simp [h]
  unfold ownPowerVote
  dsimp only
  rw [checked_of_good (by simp only [atTaking_part, hdiv, hstate, rsvBad_eq_false.2 hrsv, Nat.not_le.2 hflags, firstBad_cons, firstBad_nil, decide_false,
    Bool.false_eq_true, if_false])]
  simp only [pendOf_atTaking, show (pendOf s 0x0300 m).party = pidx m.sender from rfl, hbit, hmay, refusedBy_cons_false, refusedBy_nil,
    decide_eq_true_eq]
  by_cases h : pidx m.sender = 17 <;> simp [h]

theorem powerLimitSet_says (ht : Taken 0x0301 isGs (lenIs 4) m s) (hcap : fld m 0 2 = 0 ∨ (fld m 0 2 ≤ fusedCap s ∧ fusedCap s ≤ 2 * fld m 0 2))
    (htemp : fld m 2 1 = 0 ∨ (95 ≤ fld m 2 1 ∧ fld m 2 1 ≤ 115)) (hrsv : fld m 3 1 = 0) :
    Says id (.powerLimitSet m) 0x0301 m s ok fun r u => u = { r with pw := { r.pw with capW := fld m 0 2, throttleC := fld m 2 1 } } := by
  refine says_of_own (own := ownPowerLimitSet) rfl ht ?_ rfl
  have hcap' : (decide (fld m 0 2 ≠ 0) && (decide (fusedCap (atTaking m s) < fld m 0 2) || decide (2 * fld m 0 2 < fusedCap (atTaking m s)))) = false := by
    rw [show fusedCap (atTaking m s) = fusedCap s by simp [fusedCap]]
    rcases hcap with h | ⟨h1, h2⟩
    · simp [h]
    · simp [Nat.not_lt.2 h1, Nat.not_lt.2 h2]
  have htemp' : (decide (fld m 2 1 ≠ 0) && (decide (fld m 2 1 < 95) || decide (115 < fld m 2 1))) = false := by
    rcases htemp with h | ⟨h1, h2⟩
    · simp [h]
    · simp [Nat.not_lt.2 h1, Nat.not_lt.2 h2]
  exact checked_of_good (by simp only [hcap', htemp', rsvBad_eq_false.2 hrsv, firstBad_cons, firstBad_nil, Bool.false_eq_true, if_false]) _ _

@[simp] theorem keptUnits_atTaking (m : Msg) (s : State) (p : Nat) : keptUnits (atTaking m s) p = keptUnits s p := by simp [keptUnits]

@[simp] theorem inKept_atTaking (m : Msg) (s : State) (a n : Nat) : inKept (atTaking m s) a n = inKept s a n :=
  (congrArg (inKept · a n) (atTaking_frame m s)).trans rfl

theorem firstBad_map_of_good {l : List Nat} {f : Nat → Nat × Bool} (h : ∀ i ∈ l, (f i).2 = false) : firstBad (l.map f) = none := by
  induction l with
  | nil => rfl
  | cons i l ih =>
    rw [List.map_cons, firstBad, h i List.mem_cons_self]
    exact ih fun j hj => h j (List.mem_cons_of_mem _ hj)

theorem parkKeep_says
    (ht : Taken 0x0302 isParty (fun m => decide (8 ≤ m.length.toNat) && (decide (m.length.toNat = 8 + 8 * fld m 0 1) || decide (16 < fld m 0 1))) m s)
    (hn : fld m 0 1 ≤ 16) (hrsv : fld m 1 7 = 0)
    (hkeep : ∀ k ∈ keepList m, k.addr % 0x200000 = 0 ∧ inReq s (pidx m.sender) k.addr (k.units * 0x200000) = true ∧
      inKept s k.addr (k.units * 0x200000) = true)
    (hunits : keptUnits s (pidx m.sender) + ((keepList m).map (·.units)).sum ≤ 1920) :
    Says id (.parkKeep m) 0x0302 m s ok fun r u => u = modParty r (pidx m.sender) fun x => { x with keep := keepList m } := by
  refine says_of_own (own := ownParkKeep) rfl ht ?_ rfl
  have haligned : ∀ i, i < (keepList m).length → ((keepList m).getD i {}).addr % 0x200000 = 0 := fun i hi => by
    rw [List.getD_eq_getElem _ _ hi]
    exact (hkeep _ (List.getElem_mem hi)).1
  have hmine : ((keepList m).any fun k => !inReq s (pidx m.sender) k.addr (k.units * 0x200000) ||
      !inKept s k.addr (k.units * 0x200000)) = false := by
    rw [List.any_eq_false]
    intro k hk
    obtain ⟨-, hreq, hin⟩ := hkeep k hk
    simp [hreq, hin]
  unfold ownParkKeep
  dsimp only
  rw [checked_of_good]
  · simp only [pendOf_atTaking, show (pendOf s 0x0302 m).party = pidx m.sender from rfl, inReq_atTaking, inKept_atTaking, hmine, keptUnits_atTaking,
      refusedBy_cons_false, refusedBy_nil, Nat.not_lt.2 hunits, if_false]
  · rw [firstBad_append_of_good _ (by simp [Nat.not_lt.2 hn, rsvBad_eq_false.2 hrsv])]
    exact firstBad_map_of_good fun i hi => by
      dsimp only
      rw [haligned i (List.mem_range.1 hi)]
      rfl

theorem alarmSet_says (ht : Taken 0x0303 isParty (lenIs 16) m s) (hnotice : (getParty s (pidx m.sender)).noticeOn = true)
    (hwake : fld m 8 1 < 2) (hrsv : fld m 9 7 = 0) :
    Says id (.alarmSet m) 0x0303 m s ok fun r u =>
      let v := modParty r (pidx m.sender) fun x => { x with
        alarm := if fld m 0 8 = 0 then {} else { set := true, time := fld m 0 8, wake := bitOf (fld m 8 1) 0, tag := m.tag.toNat } }
      u = if fld m 0 8 ≠ 0 ∧ fld m 0 8 ≤ s.ktime then fireAlarm (pidx m.sender) v else v := by
  refine says_of_own (own := ownAlarmSet) rfl ht ?_ rfl
  unfold ownAlarmSet
  dsimp only
  rw [checked_of_good (by simp [Nat.not_le.2 hwake, rsvBad_eq_false.2 hrsv])]
  simp only [pendOf_atTaking, show (pendOf s 0x0303 m).party = pidx m.sender from rfl, show (pendOf s 0x0303 m).tag = m.tag.toNat from rfl,
    noticeOn_atTaking, hnotice, Bool.not_true, refusedBy_cons_false, refusedBy_nil]
  rw [show (modParty (atTaking m s) (pidx m.sender) _).ktime = s.ktime from atTaking_ktime m s]

theorem resumeSet_says (ht : Taken 0x0305 isParty (lenIs 16) m s) (hw : fld m 0 1 < 2) (hrsv : fld m 1 7 = 0) (hal : fld m 8 8 % 4 = 0)
    (hown : if fld m 0 1 = 1 then pidx m.sender = 16 ∧ (fld m 8 8 = 0 ∨ (fld m 8 8 < s.world.swm * 0x4000000 ∧ inReq s 16 (fld m 8 8) 4 = true))
     else pidx m.sender = s.world.nwParty ∧ (fld m 8 8 = 0 ∨
       (s.world.swm * 0x4000000 ≤ fld m 8 8 ∧ fld m 8 8 + 4 ≤ dramEnd s ∧ inGrant s 16 (fld m 8 8) 4 = false))) :
    Says id (.resumeSet m) 0x0305 m s ok fun r u => u = modPw r fun x =>
      if fld m 0 1 = 1 then { x with resumeS := fld m 8 8 } else { x with resumeN := fld m 8 8 } := by
  refine says_of_own (own := ownResumeSet) rfl ht ?_ rfl
  unfold ownResumeSet
  dsimp only
  simp only [pendOf_atTaking, show (pendOf s 0x0305 m).party = pidx m.sender from rfl, atTaking_world, inReq_atTaking, dramEnd_atTaking, inGrant_atTaking]
  by_cases h1 : fld m 0 1 = 1
  · rw [if_pos h1] at hown
    obtain ⟨hsender, hv⟩ := hown
    have hfine : (decide (fld m 8 8 ≠ 0) && !(decide (fld m 8 8 < s.world.swm * 0x4000000) && inReq s 16 (fld m 8 8) 4)) = false := by
      rcases hv with h | ⟨h, h'⟩
      · simp [h]
      · simp [h, h']
    simp only [h1, if_true, hfine, hsender, ne_eq, not_true_eq_false, decide_false, Bool.false_and, refusedBy_cons_false, refusedBy_nil]
    exact checked_of_good (by simp [rsvBad_eq_false.2 hrsv, hal]) _ _
  · rw [if_neg h1] at hown
    obtain ⟨hsender, hv⟩ := hown
    have hfine : (decide (fld m 8 8 ≠ 0) && !(decide (s.world.swm * 0x4000000 ≤ fld m 8 8) && decide (fld m 8 8 + 4 ≤ dramEnd s) &&
        !inGrant s 16 (fld m 8 8) 4)) = false := by
      rcases hv with h | ⟨h, h', h''⟩
      · simp [h]
      · simp [h, h', h'']
    simp only [h1, if_false, hfine, hsender, ne_eq, not_true_eq_false, decide_false, Bool.and_false, refusedBy_cons_false, refusedBy_nil]
    exact checked_of_good (by simp [rsvBad_eq_false.2 hrsv, hal, Nat.not_le.2 hw]) _ _

/-! ### Blocks (R27, R378) -/

theorem blockOwner_atTaking (m : Msg) (s : State) (k i : Nat) : blockOwner (atTaking m s) k i = blockOwner s k i :=
  (congrArg (blockOwner · k i) (atTaking_frame m s)).trans rfl

/-- A block's power as BLOCK_POWER sets it. -/
def setBlock (s : State) (k i v : Nat) : State := modPw s fun p => { p with blocks := tput p.blocks (k * 65536 + i) v }

section
variable (hkind : fld m 0 1 ∈ [1, 4, 5, 6, 7, 9, 10]) (hrange : blockRange (fld m 0 1) (fld m 1 2) = true)
include hkind hrange

/-- BLOCK_POWER of a block that the sender holds. -/
theorem ownBlockPower_mine (hown : blockOwner s (fld m 0 1) (fld m 1 2) = pidx m.sender + 1) (hr : fld m 3 1 < 3) (hrsv : fld m 4 4 = 0)
    (hstop : fld m 0 1 = 1 → fld m 3 1 ≠ 0 → bitOf s.world.stopped (fld m 1 2) = true) :
    ownBlockPower m (pendOf s 0x0304 m) (atTaking m s) = say ok (
      let kind := fld m 0 1
      let inst := fld m 1 2
      if fld m 3 1 = 1 then setBlock (atTaking m s) kind inst 1
      else if fld m 3 1 = 0 then setBlock (atTaking m s) kind inst 0
      else if kind = 1 then setBlock (atTaking m s) kind inst 2
      else if kind = 7 then setBlock (blockClose kind inst (atTaking m s)) kind inst 2
      else
        let s := setBlock (blockClose kind inst (atTaking m s)) kind inst 0
        if kind = 6 then closeSes inst s else if kind = 9 then modUnit s inst fun _ => {} else s) := by
  have hblock : ∀ k ∈ [1, 4, 5, 6, 7, 9, 10], (!(k == 1 || (decide (4 ≤ k) && decide (k ≤ 7)) || k == 9 || k == 10)) = false := by decide
  have hfree : (fld m 0 1 == 1 && decide (fld m 3 1 ≠ 0) && !bitOf s.world.stopped (fld m 1 2)) = false := by
    by_cases h : fld m 0 1 = 1
    · by_cases h' : fld m 3 1 = 0
      · simp [h']
      · simp [hstop h h']
    · simp [h]
  unfold ownBlockPower
  dsimp only
  rw [checked_of_good (by simp only [firstBad_cons, firstBad_nil, hblock _ hkind, hrange, Bool.not_true, Bool.false_eq_true, if_false])]
  simp only [show (pendOf s 0x0304 m).party = pidx m.sender from rfl, blockOwner_atTaking, hown, atTaking_world, hfree, ne_eq,
    not_true_eq_false, if_false, refusedBy_cons_false, refusedBy_nil]
  rw [checked_of_good (by simp [rsvBad_eq_false.2 hrsv, Nat.not_le.2 hr])]
  rfl

/-- BLOCK_POWER of a secure-held block. -/
theorem ownBlockPower_held (hheld : heldKind (fld m 0 1) = true) (hown : blockOwner s (fld m 0 1) (fld m 1 2) = 17) (hsender : pidx m.sender ≠ 16)
    (hr : fld m 3 1 = 1 ∨ fld m 3 1 = 2) :
    ownBlockPower m (pendOf s 0x0304 m) (atTaking m s) = say (sts stDENIED)
      (secureHeld (fld m 0 1) (fld m 1 2) (pidx m.sender) (if fld m 3 1 = 2 then 0 else 1) (draw (atTaking m s)).2) := by
  have hblock : ∀ k ∈ [1, 4, 5, 6, 7, 9, 10], (!(k == 1 || (decide (4 ≤ k) && decide (k ≤ 7)) || k == 9 || k == 10)) = false := by decide
  have hother : 17 ≠ pidx m.sender + 1 := by omega
  unfold ownBlockPower
  dsimp only
  rw [checked_of_good (by simp only [firstBad_cons, firstBad_nil, hblock _ hkind, hrange, Bool.not_true, Bool.false_eq_true, if_false])]
  simp only [show (pendOf s 0x0304 m).party = pidx m.sender from rfl, blockOwner_atTaking, hown, hheld, and_self, if_pos hother, if_true]
  rcases hr with h | h <;> simp [h]

end

theorem blockPower_runs (ht : Taken 0x0304 isParty (lenIs 8) m s) (hkind : fld m 0 1 ∈ [1, 4, 5, 6, 7, 9, 10])
    (hrange : blockRange (fld m 0 1) (fld m 1 2) = true) (hown : blockOwner s (fld m 0 1) (fld m 1 2) = pidx m.sender + 1) (hr : fld m 3 1 < 2)
    (hrsv : fld m 4 4 = 0) (hstop : fld m 0 1 = 1 → fld m 3 1 = 1 → bitOf s.world.stopped (fld m 1 2) = true) :
    Says id (.blockPower m) 0x0304 m s ok fun r u => u = { r with pw := { r.pw with blocks := u.pw.blocks } } ∧
      tget u.pw.blocks (fld m 0 1 * 65536 + fld m 1 2) = fld m 3 1 ∧
      ∀ k, k ≠ fld m 0 1 * 65536 + fld m 1 2 → tget u.pw.blocks k = tget s.pw.blocks k := by
  refine says_of_own (own := ownBlockPower) (u := setBlock (atTaking m s) (fld m 0 1) (fld m 1 2) (fld m 3 1)) rfl ht ?_
    ⟨rfl, tget_tput_same _ _ _, fun k hk => (tget_tput_ne _ _ hk).trans (by rw [atTaking_pw])⟩
  rw [pendOf_atTaking, ownBlockPower_mine hkind hrange hown (by omega) hrsv fun h h' => hstop h (by omega)]
  rcases (by omega : fld m 3 1 = 0 ∨ fld m 3 1 = 1) with h | h <;> simp [h]

/-! #### A block that is powered off holds no owner -/

theorem owner_pipeIdle_off (i : Nat) (s : State) : (getPipe (pipeIdle i 2 s) i).owner = 0 := by
  unfold pipeIdle
  rw [if_pos (by decide), getPipe_modPipe_same]

theorem owner_closePipe (i : Nat) (s : State) : (getPipe (blockClose 4 i s) i).owner = 0 := by
  show (getPipe (match (getPipe s i).stop with | some (_, d) => finish d ok (pipeIdle i 2 s) | none => pipeIdle i 2 s) i).owner = 0
  split
  · rw [getPipe, (posted_finish _ _ _).media, ← getPipe, owner_pipeIdle_off]
  · exact owner_pipeIdle_off i s

theorem getStr_closeStr (k j : Nat) (s : State) : getStr (closeStr k s) j = if j = k then {} else getStr s j := tget_tput _ _ _ _

theorem getStr_closed (ds : List Pend) (k j : Nat) (s : State) :
    getStr (finishAll ds ok (closeStr k s)) j = if j = k then {} else getStr s j := by
  rw [getStr, (posted_finishAll _ _ _).cap, ← getStr, getStr_closeStr]

theorem owner_closeStream (i : Nat) (s : State) : (getStr (blockClose 5 i s) i).owner = 0 := by
  show (getStr (finishAll (getStr s i).closing ok (closeStr i s)) i).owner = 0
  rw [getStr_closed, if_pos rfl]

theorem rcvOwner_closeReceiver (i : Nat) (s : State) : rcvOwner (blockClose 7 i s) i = 0 := by
  have hclosed : ∀ v < 4, getStr (blockClose 7 i s) (i * 4 + v) = {} := by
    intro v hv
    show getStr ((List.range 4).foldl (fun s v => finishAll (getStr s (i * 4 + v)).closing ok (closeStr (i * 4 + v) s)) s) _ = _
    have h : ∀ l : List Nat, ∀ s : State, getStr (l.foldl (fun s v => finishAll (getStr s (i * 4 + v)).closing ok (closeStr (i * 4 + v) s)) s) (i * 4 + v) =
        if v ∈ l then {} else getStr s (i * 4 + v) := by
      intro l
      induction l with
      | nil => exact fun _ => rfl
      | cons w l ih =>
        intro s
        rw [List.foldl_cons, ih, getStr_closed]
        by_cases hw : v = w <;> simp [hw]
    rw [h, if_pos (List.mem_range.2 hv)]
  have hnone : ((List.range 4).map fun v => (getStr (blockClose 7 i s) (i * 4 + v)).owner) = [0, 0, 0, 0] := by
    rw [List.map_congr_left fun v hv => congrArg Stream.owner (hclosed v (List.mem_range.1 hv))]
    rfl
  unfold rcvOwner
  rw [hnone]
  rfl

theorem blockOwner_setBlock (s : State) (k i v k' i' : Nat) : blockOwner (setBlock s k i v) k' i' = blockOwner s k' i' := rfl

theorem blockPower_off (ht : Taken 0x0304 isParty (lenIs 8) m s) (hkind : fld m 0 1 ∈ [1, 4, 5, 6, 7, 9, 10])
    (hrange : blockRange (fld m 0 1) (fld m 1 2) = true) (hown : blockOwner s (fld m 0 1) (fld m 1 2) = pidx m.sender + 1) (hr : fld m 3 1 = 2)
    (hrsv : fld m 4 4 = 0) (hstop : fld m 0 1 = 1 → bitOf s.world.stopped (fld m 1 2) = true) :
    Says id (.blockPower m) 0x0304 m s ok fun _ u =>
      tget u.pw.blocks (fld m 0 1 * 65536 + fld m 1 2) = (if fld m 0 1 = 1 ∨ fld m 0 1 = 7 then 2 else 0) ∧
      (fld m 0 1 ≠ 1 → blockOwner u (fld m 0 1) (fld m 1 2) = 0) := by
  refine says_of_own (own := ownBlockPower) rfl ht
    ((congrArg (ownBlockPower m · _) (pendOf_atTaking m m s 0x0304)).trans
      (ownBlockPower_mine hkind hrange hown (by omega) hrsv fun h _ => hstop h)) ?_
  generalize atTaking m s = r
  generalize hk : fld m 0 1 = k at hkind ⊢
  generalize fld m 1 2 = i
  simp only [List.mem_cons, List.not_mem_nil, or_false] at hkind
  rcases hkind with rfl | rfl | rfl | rfl | rfl | rfl | rfl <;> simp only [hr] <;> refine ⟨tget_tput_same _ _ _, fun hne => ?_⟩
  · exact absurd rfl hne
  · exact (blockOwner_setBlock _ _ _ _ _ _).trans (owner_closePipe i r)
  · exact (blockOwner_setBlock _ _ _ _ _ _).trans (owner_closeStream i r)
  · exact congrArg Session.owner (tget_tput_same _ _ _)
  · exact (blockOwner_setBlock _ _ _ _ _ _).trans (rcvOwner_closeReceiver i r)
  · exact congrArg IoUnit.owner (getUnit_modUnit_same _ _ _)
  · exact (blockOwner_setBlock _ _ _ _ _ _).trans (congrArg CanCtl.owner (tget_tput_same _ _ _))

theorem blockPower_denied (ht : Taken 0x0304 isParty (lenIs 8) m s) (hkind : fld m 0 1 ∈ [1, 4, 5, 6, 7])
    (hrange : blockRange (fld m 0 1) (fld m 1 2) = true) (hown : blockOwner s (fld m 0 1) (fld m 1 2) = 17) (hsender : pidx m.sender ≠ 16)
    (hr : fld m 3 1 = 1 ∨ fld m 3 1 = 2) :
    Says id (.blockPower m) 0x0304 m s (sts stDENIED) fun r u => u.pw = r.pw ∧ u.media = r.media ∧ u.cap = r.cap ∧
      Logs 0x4003 srcAfzan (leBytes 1 (fld m 0 1) ++ leBytes 2 (fld m 1 2) ++ leBytes 1 (pidx m.sender) ++
        leBytes 1 (if fld m 3 1 = 2 then 0 else 1)) r u := by
  have hblock := (by decide : ∀ k ∈ [1, 4, 5, 6, 7], k ∈ [1, 4, 5, 6, 7, 9, 10]) _ hkind
  have hheld := (by decide : ∀ k ∈ [1, 4, 5, 6, 7], heldKind k = true) _ hkind
  refine says_of_own (own := ownBlockPower) (u := secureHeld (fld m 0 1) (fld m 1 2) (pidx m.sender) (if fld m 3 1 = 2 then 0 else 1)
    (draw (atTaking m s)).2) rfl ht ?_ ?_
  · rw [pendOf_atTaking]
    exact ownBlockPower_held hblock hrange hheld hown hsender hr
  · exact ⟨rfl, rfl, rfl, logs_event (by simp) rfl rfl rfl rfl⟩

/-! ### Memory -/

theorem memWaysSet_says (ht : Taken 0x0400 isParty (lenIs 4) m s) (hrsv : fld m 2 2 = 0)
    (hways : fld m 0 2 &&& (reqGrant s (pidx m.sender)).ways = fld m 0 2) :
    Says id (.memWaysSet m) 0x0400 m s ok fun r u => u = modParty r (pidx m.sender) fun x => { x with memWays := some (fld m 0 2) } := by
  refine says_of_own (own := ownMemWaysSet) rfl ht ?_ rfl
  unfold ownMemWaysSet
  dsimp only
  rw [checked_of_good (by simp [rsvBad_eq_false.2 hrsv])]
  simp only [pendOf_atTaking, show (pendOf s 0x0400 m).party = pidx m.sender from rfl, reqGrant_atTaking, hways, ne_eq, not_true_eq_false, if_false]

theorem memCacheOp_waits (ht : Taken 0x0401 isParty (lenIs 24) m s) (hroom : Room m s) (hop : fld m 0 1 < 4) (hrsv : fld m 1 1 = 0)
    (hrsv' : fld m 4 4 = 0) (hrsv'' : fld m 14 2 = 0)
    (hscope : if bitOf (fld m 0 1) 1 then fld m 8 6 = 0 ∧ fld m 16 8 = 0 ∧ fld m 2 2 &&& (reqGrant s (pidx m.sender)).ways = fld m 2 2
      else fld m 2 2 = 0 ∧ fld m 8 6 % 64 = 0 ∧ fld m 16 8 % 64 = 0 ∧ fld m 16 8 ≠ 0 ∧ fld m 8 6 + fld m 16 8 ≤ dramEnd s ∧
        inRanges (reqGrant s (pidx m.sender)).dram (fld m 8 6) (fld m 16 8) (fun _ => true) = true) :
    Waits id (.memCacheOp m) 0x0401 m s fun d r u => u = { r with mem := { r.mem with ops := r.mem.ops ++
      [{ pend := d, inval := bitOf (fld m 0 1) 0, byWays := bitOf (fld m 0 1) 1, ways := fld m 2 2, lo := fld m 8 6 / 64, n := fld m 16 8 / 64 }] } } := by
  refine waits_of_own (own := ownMemCacheOp) rfl ht hroom ?_ rfl
  unfold ownMemCacheOp
  simp only [show (pendOf s 0x0401 m).party = pidx m.sender from rfl, reqGrant_atTaking, dramEnd_atTaking]
  cases hways : bitOf (fld m 0 1) 1 with
  | true =>
    rw [hways, if_pos rfl] at hscope
    obtain ⟨ha, hn, hmask⟩ := hscope
    rw [checked_of_good (by simp [Nat.not_le.2 hop, hrsv, hrsv', hrsv'', rsvBad, ha, hn])]
    simp only [if_true, hmask, ne_eq, not_true_eq_false, decide_false, Bool.false_eq_true, if_false]
  | false =>
    rw [hways, if_neg Bool.false_ne_true] at hscope
    obtain ⟨hmask, ha, hn, hn', hend, hin⟩ := hscope
    rw [checked_of_good (by simp [Nat.not_le.2 hop, hrsv, hrsv', hrsv'', rsvBad, ha, hn, hn', hmask])]
    simp only [hend, hin, decide_true, Bool.and_self, Bool.not_true, Bool.false_eq_true, if_false]

theorem memRangeSet_says (ht : Taken 0x0402 isParty (lenIs 16) m s) (hr : fld m 0 1 ≤ 15)
    (hmine : bitOf (reqGrant s (pidx m.sender)).ranges (fld m 0 1) = true) (hcls : fld m 1 1 < 4) (hflag : fld m 2 1 < 2) (hrsv : fld m 3 1 = 0)
    (hn : fld m 6 2 ≠ 0) (hrsv' : fld m 12 4 = 0) (htarget : if fld m 1 1 = 1 then 20 ≤ fld m 8 4 ∧ fld m 8 4 ≤ 10000 else fld m 8 4 = 0)
    (hin : inRanges (reqGrant s (pidx m.sender)).dram (fld m 4 2 * 0x4000000) (fld m 6 2 * 0x4000000) (fun _ => true) = true) :
    Says id (.memRangeSet m) 0x0402 m s ok fun r u => u = { r with mem := { r.mem with ranges := u.mem.ranges } } ∧
      getRange u (fld m 0 1) = { getRange s (fld m 0 1) with
        cls := fld m 1 1, noalloc := bitOf (fld m 2 1) 0, base := fld m 4 2, count := fld m 6 2, target := fld m 8 4, m := 0, missed := false } ∧
      ∀ j, j ≠ fld m 0 1 → getRange u j = getRange s j := by
  refine says_of_own (own := ownMemRangeSet) (u := modRange (atTaking m s) (fld m 0 1) fun x => { x with
    cls := fld m 1 1, noalloc := bitOf (fld m 2 1) 0, base := fld m 4 2, count := fld m 6 2, target := fld m 8 4, m := 0, missed := false }) rfl ht ?_
    ⟨rfl, by rw [getRange_modRange_same, getRange_atTaking], fun j hj => by rw [getRange_modRange_ne _ _ hj, getRange_atTaking]⟩
  have htarget' : (if fld m 1 1 = 1 then decide (fld m 8 4 < 20) || decide (10000 < fld m 8 4) else decide (fld m 8 4 ≠ 0)) = false := by
    by_cases h : fld m 1 1 = 1
    · rw [if_pos h] at htarget ⊢
      simp [Nat.not_lt.2 htarget.1, Nat.not_lt.2 htarget.2]
    · rw [if_neg h] at htarget ⊢
      simp [htarget]
  unfold ownMemRangeSet
  dsimp only
  rw [checked_of_good (by simp [Nat.not_lt.2 hr])]
  simp only [pendOf_atTaking, show (pendOf s 0x0402 m).party = pidx m.sender from rfl, reqGrant_atTaking, hmine, hin, Bool.not_true,
    Bool.false_eq_true, if_false]
  exact checked_of_good (by simp only [firstBad_cons, firstBad_nil, Nat.not_le.2 hcls, Nat.not_le.2 hflag, rsvBad_eq_false.2 hrsv,
    rsvBad_eq_false.2 hrsv', hn, htarget', decide_false, Bool.false_eq_true, if_false]) _ _

section
variable {β : Type} {get : State → Nat → β} {mod : State → Nat → (β → β) → State} {f : β → β}

/-- What a change of each item of a list leaves of one item. -/
theorem get_modAll (hsame : ∀ s i, get (mod s i f) i = f (get s i)) (hne : ∀ s i j, j ≠ i → get (mod s i f) j = get s j) {l : List Nat}
    (hl : l.Nodup) (s : State) (j : Nat) : get (l.foldl (fun s i => mod s i f) s) j = if j ∈ l then f (get s j) else get s j := by
  induction l generalizing s with
  | nil => rfl
  | cons i l ih =>
    obtain ⟨hi, hl'⟩ := List.nodup_cons.1 hl
    rw [List.foldl_cons, ih hl']
    by_cases hj : j = i
    · rw [hj, if_neg hi, if_pos List.mem_cons_self, hsame]
    · rw [hne _ _ _ hj]
      simp [hj]

end

theorem statRanges_atTaking (m : Msg) (s : State) (p : Nat) : statRanges (atTaking m s) p = statRanges s p := by simp [statRanges]
theorem statCgs_atTaking (m : Msg) (s : State) (p : Nat) : statCgs (atTaking m s) p = statCgs s p := by simp [statCgs]
theorem memStats_atTaking (m : Msg) (s : State) (p : Nat) : memStats (atTaking m s) p = memStats s p := by
  have hrange : rangeStats (atTaking m s) = rangeStats s := by funext r; simp [rangeStats]
  have hcg : cgStats (atTaking m s) = cgStats s := by funext c; simp [cgStats]
  unfold memStats
  rw [statRanges_atTaking, statCgs_atTaking, hrange, hcg]

/-- What MEM_STATS makes of a counter. -/
def readStat (clear : Bool) (c : Stat) : Stat := if clear then {} else c.read

/-- A range and a channel group whose counters MEM_STATS has read. -/
def SRange.stats (g : Stat → Stat) (x : SRange) : SRange := { x with reqs := g x.reqs, bytes := g x.bytes, lat := g x.lat, misses := g x.misses }
def Cg.stats (g : Stat → Stat) (x : Cg) : Cg := { x with
  linkCorr := tmap g x.linkCorr, corr := g x.corr, uncorr := g x.uncorr, rtOver := g x.rtOver, beFloor := g x.beFloor
  maintFloor := g x.maintFloor, hits := g x.hits, misses := g x.misses }

/-- The part after the counters of ranges and of channel groups are read. -/
def readMem (g : Stat → Stat) (rs cs : List Nat) (s : State) : State :=
  cs.foldl (fun s c => modCg s c (Cg.stats g)) (rs.foldl (fun s r => modRange s r (SRange.stats g)) s)

theorem readRanges_keeps (g : Stat → Stat) (rs : List Nat) (s : State) : let t := rs.foldl (fun s r => modRange s r (SRange.stats g)) s
    t = { s with mem := { s.mem with ranges := t.mem.ranges } } := by
  induction rs generalizing s with
  | nil => rfl
  | cons r rs ih =>
    rw [List.foldl_cons]
    exact (ih _).trans rfl

theorem readCgs_keeps (g : Stat → Stat) (cs : List Nat) (s : State) : let t := cs.foldl (fun s c => modCg s c (Cg.stats g)) s
    t = { s with mem := { s.mem with cg := t.mem.cg } } := by
  induction cs generalizing s with
  | nil => rfl
  | cons c cs ih =>
    rw [List.foldl_cons]
    exact (ih _).trans rfl

theorem readMem_keeps (g : Stat → Stat) (rs cs : List Nat) (s : State) : let t := readMem g rs cs s
    t = { s with mem := { s.mem with ranges := t.mem.ranges, cg := t.mem.cg } } := by
  have hr := readRanges_keeps g rs s
  have hc := readCgs_keeps g cs (rs.foldl (fun s r => modRange s r (SRange.stats g)) s)
  unfold readMem
  dsimp only at hr hc ⊢
  generalize rs.foldl (fun s r => modRange s r (SRange.stats g)) s = v at hr hc ⊢
  rw [hc, hr]

theorem getRange_readMem (g : Stat → Stat) {rs cs : List Nat} (hrs : rs.Nodup) (s : State) (x : Nat) :
    getRange (readMem g rs cs s) x = if x ∈ rs then SRange.stats g (getRange s x) else getRange s x := by
  unfold readMem
  rw [readCgs_keeps]
  exact get_modAll (get := getRange) (mod := modRange) (fun _ _ => getRange_modRange_same _ _ _) (fun _ _ _ h => getRange_modRange_ne _ _ h) hrs s x

theorem getCg_readMem (g : Stat → Stat) {rs cs : List Nat} (hcs : cs.Nodup) (s : State) (x : Nat) :
    getCg (readMem g rs cs s) x = if x ∈ cs then Cg.stats g (getCg s x) else getCg s x := by
  unfold readMem
  rw [get_modAll (get := getCg) (mod := modCg) (fun _ _ => getCg_modCg_same _ _ _) (fun _ _ _ h => getCg_modCg_ne _ _ h) hcs, readRanges_keeps]
  rfl

theorem nodup_statRanges (s : State) (p : Nat) : (statRanges s p).Nodup := List.nodup_range.filter _
theorem nodup_statCgs (s : State) (p : Nat) : (statCgs s p).Nodup := List.nodup_range.filter _

theorem memStats_says (ht : Taken 0x0403 isParty (lenIs 4) m s) (hclear : fld m 0 1 < 2) (hrsv : fld m 1 3 = 0) :
    let g := fun (c : Stat) => if fld m 0 1 = 1 then {} else { c with ovf := false }
    Says id (.memStats m) 0x0403 m s (okWith (memStats s (pidx m.sender))) fun r u => u = { r with mem := u.mem } ∧ MemSame r u ∧
      (∀ x ∈ statRanges s (pidx m.sender), getRange u x = { getRange s x with
        reqs := g (getRange s x).reqs, bytes := g (getRange s x).bytes, lat := g (getRange s x).lat, misses := g (getRange s x).misses }) ∧
      (∀ x, x ∉ statRanges s (pidx m.sender) → getRange u x = getRange s x) ∧
      (∀ c ∈ statCgs s (pidx m.sender), (getCg u c).corr = g (getCg s c).corr ∧ (getCg u c).uncorr = g (getCg s c).uncorr ∧
        (getCg u c).hits = g (getCg s c).hits ∧ (getCg u c).misses = g (getCg s c).misses ∧
        (getCg u c).linkCorr = tmap g (getCg s c).linkCorr ∧ (getCg u c).reqs = (getCg s c).reqs) ∧
      ∀ c, c ∉ statCgs s (pidx m.sender) → getCg u c = getCg s c := by
  intro g
  have hg : readStat (bitOf (fld m 0 1) 0) = g := by
    have hbit : (bitOf (fld m 0 1) 0 = true) = (fld m 0 1 = 1) := by
      simp only [bitOf, beq_iff_eq, eq_iff_iff]
      omega
    funext c
    simp only [readStat, hbit, g]
    rfl
  refine says_of_own (own := ownMemStats)
    (u := readMem g (statRanges s (pidx m.sender)) (statCgs s (pidx m.sender)) (atTaking m s)) rfl ht ?_ ?_
  · rw [← hg]
    unfold ownMemStats
    dsimp only
    rw [checked_of_good (by simp [Nat.not_le.2 hclear, rsvBad_eq_false.2 hrsv])]
    simp only [pendOf_atTaking, show (pendOf s 0x0403 m).party = pidx m.sender from rfl, statRanges_atTaking, statCgs_atTaking, memStats_atTaking]
    rfl
  · refine ⟨?_, fun a => ?_, fun x hx => ?_, fun x hx => ?_, fun c hc => ?_, fun c hc => ?_⟩
    · rw [readMem_keeps]
    · rw [readMem_keeps]
    · rw [getRange_readMem _ (nodup_statRanges _ _), if_pos hx, getRange_atTaking]
      rfl
    · rw [getRange_readMem _ (nodup_statRanges _ _), if_neg hx, getRange_atTaking]
    · rw [getCg_readMem _ (nodup_statCgs _ _), if_pos hc, getCg_atTaking]
      exact ⟨rfl, rfl, rfl, rfl, rfl, rfl⟩
    · rw [getCg_readMem _ (nodup_statCgs _ _), if_neg hc, getCg_atTaking]

/-- Settles O42: each message passes its checks at its taking and does its one step; a block that is powered off has been closed first. -/
theorem powerAndMemoryMessages : Obligations.PowerAndMemoryMessages :=
  ⟨⟨fun _ _ ht hst hflags hforce hdv hrsv => powerVote_says ht hst hflags hforce hdv hrsv,
    fun _ _ ht hcap htemp hrsv => powerLimitSet_says ht hcap htemp hrsv, fun _ _ ht hn hrsv hkeep hunits => parkKeep_says ht hn hrsv hkeep hunits,
    fun _ _ ht hnotice hwake hrsv => alarmSet_says ht hnotice hwake hrsv,
    fun _ _ ht hkind hrange hown hr hrsv hstop => blockPower_runs ht hkind hrange hown hr hrsv hstop,
    fun _ _ ht hkind hrange hown hr hrsv hstop => blockPower_off ht hkind hrange hown hr hrsv hstop,
    fun _ _ ht hkind hrange hown hsender hr => blockPower_denied ht hkind hrange hown hsender hr,
    fun _ _ ht hw hrsv hal hown => resumeSet_says ht hw hrsv hal hown⟩,
   ⟨fun _ _ ht hrsv hways => memWaysSet_says ht hrsv hways,
    fun _ _ ht hroom hop hrsv hrsv' hrsv'' hscope => memCacheOp_waits ht hroom hop hrsv hrsv' hrsv'' hscope,
    fun _ _ ht hr hmine hcls hflag hrsv hn hrsv' htarget hin => memRangeSet_says ht hr hmine hcls hflag hrsv hn hrsv' htarget hin,
    fun _ _ ht hclear hrsv => memStats_says ht hclear hrsv⟩⟩

end Sys2Proof.Machine

/-! Messages of safety and of security (R396, R409, R417, R418, R429, R430, R435, R443, R445). -/

namespace Sys2Proof.Machine
open Sys2Proof.Claims

variable {m : Msg} {s : State}

@[simp] theorem atTaking_safe (m : Msg) (s : State) : (atTaking m s).safe = s.safe := by
  unfold atTaking afiNote
  split <;> rfl

/-! ### Pairs and self-test -/

theorem pairRuns_atTaking (m : Msg) (s : State) (p : Pair) : pairRuns (atTaking m s) p = pairRuns s p := by simp [pairRuns]
theorem paired_atTaking (m : Msg) (s : State) (e : Nat) : paired (atTaking m s) e = paired s e := by simp [paired, pairOf]
theorem gapsBad_atTaking (m m' : Msg) (s : State) : gapsBad (atTaking m s) m' = gapsBad s m' :=
  (congrArg (gapsBad · m') (atTaking_frame m s)).trans rfl

/-- SAFETY_PAIR_SET that may form a pair. -/
theorem ownSafetyPairSet_pairs (ha : fld m 0 1 < 16) (hb : fld m 1 1 < 16) (hab : fld m 0 1 ≠ fld m 1 1) (hlive : (getEst s (fld m 0 1)).live = true)
    (hlive' : (getEst s (fld m 1 1)).live = true) (hparty : (getEst s (fld m 0 1)).party = pidx m.sender)
    (hparty' : (getEst s (fld m 1 1)).party = pidx m.sender) (hflags : fld m 2 1 = 0) (hrsv : fld m 3 1 = 0)
    (hwin : fld m 4 4 = 0 ∨ (50 ≤ fld m 4 4 ∧ fld m 4 4 ≤ 100000)) (hrsv' : fld m 8 8 = 0) (hbe : (getEst s (fld m 0 1)).desc.be = false)
    (hbe' : (getEst s (fld m 1 1)).desc.be = false) (hfree : paired s (fld m 0 1) = false) (hfree' : paired s (fld m 1 1) = false)
    (hsize : (getEst s (fld m 0 1)).leaves.length = (getEst s (fld m 1 1)).leaves.length)
    (hsec : (getEst s (fld m 0 1)).desc.secure = (getEst s (fld m 1 1)).desc.secure) (hinj : s.safe.injection = 0x7F) {p : Pair}
    (hp : p = { primary := fld m 0 1, partner := fld m 1 1, window := if fld m 4 4 = 0 then 2000 else fld m 4 4 }) (d : Pend) (hd : d.party = pidx m.sender) :
    ownSafetyPairSet m d (atTaking m s) =
      if pairRuns s p then ({ atTaking m s with jobs := { s.jobs with pairPend := s.jobs.pairPend ++ [(p, false, d)] } }, none)
      else say ok (formPair p (atTaking m s)) := by
  have hwin' : (decide (fld m 4 4 ≠ 0) && (decide (fld m 4 4 < 50) || decide (100000 < fld m 4 4))) = false := by
    rcases hwin with h | ⟨h, h'⟩
    · simp [h]
    · simp [Nat.not_lt.2 h, Nat.not_lt.2 h']
  unfold ownSafetyPairSet
  simp only [getEst_atTaking, hd, hparty, hparty', paired_atTaking, atTaking_safe, atTaking_jobs, show bitOf (fld m 2 1) 0 = false by simp [hflags, bitOf],
    pairRuns_atTaking]
  rw [checked_of_good (by simp [Nat.not_le.2 ha, Nat.not_le.2 hb, hlive, hlive'])]
  simp only [ne_eq, not_true_eq_false, decide_false, Bool.or_self, Bool.and_false, refusedBy_cons_false, refusedBy_nil, Bool.false_eq_true, if_false]
  rw [checked_of_good (by simp only [firstBad_cons, firstBad_nil, hflags, rsvBad_eq_false.2 hrsv, rsvBad_eq_false.2 hrsv', ← ne_eq, hwin',
      Nat.reduceLeDiff, decide_false, Bool.false_eq_true, if_false]),
    checked_of_good (by simp [hbe, hbe', hfree, hfree', hab, hsize, hsec])]
  simp only [hinj, not_true_eq_false, decide_false, refusedBy_cons_false, refusedBy_nil, ← hp]

/-- A pair that forms writes its event and is listed last. -/
theorem formPair_effect (p : Pair) (r : State) : let u := formPair p r
    u.jobs = { r.jobs with pairs := (r.jobs.pairs.filter fun x => decide (x.primary ≠ p.primary)) ++ [p] } ∧
      Logs 0x300A srcAfzan (leBytes 1 p.primary ++ leBytes 1 p.partner ++ leBytes 1 0 ++ leBytes 1 0) r u :=
  ⟨rfl, logs_event (by simp) rfl rfl rfl rfl⟩

theorem selftestGaps_says (ht : Taken 0x0701 isParty (lenIs 24) m s) (he : fld m 0 1 < 16) (hlive : (getEst s (fld m 0 1)).live = true)
    (hparty : (getEst s (fld m 0 1)).party = pidx m.sender) (hgood : firstBad (gapsBad s m) = none) :
    Says id (.selftestGaps m) 0x0701 m s ok fun r u => EstOnly (fld m 0 1) r u ∧ u.caddy = r.caddy ∧
      getEst u (fld m 0 1) = { getEst s (fld m 0 1) with test :=
        { source := fld m 1 1, pipe := fld m 2 1, period := fld m 4 4, offset := fld m 8 4, len := fld m 12 4
          dti := if fld m 16 4 = 0 then 50000 else fld m 16 4, next := 0, running := (getEst s (fld m 0 1)).test.running
          cycleAt := s.ktime, overdue := false } } := by
  refine says_of_own (own := ownSelftestGaps) (u := modTest (atTaking m s) (fld m 0 1) fun t =>
    { source := fld m 1 1, pipe := fld m 2 1, period := fld m 4 4, offset := fld m 8 4, len := fld m 12 4,
      dti := if fld m 16 4 = 0 then 50000 else fld m 16 4, next := 0, running := t.running, cycleAt := (atTaking m s).ktime, overdue := false })
    rfl ht ?_ ⟨⟨rfl, fun x hx => ?_⟩, rfl, ?_⟩
  · unfold ownSelftestGaps
    dsimp only
    rw [checked_of_good (by simp [Nat.not_le.2 he, hlive]), checked_of_good (by rw [gapsBad_atTaking]; exact hgood)]
    simp only [pendOf_atTaking, show (pendOf s 0x0701 m).party = pidx m.sender from rfl, getEst_atTaking, hparty, ne_eq, not_true_eq_false,
      decide_false, refusedBy_cons_false, refusedBy_nil]
  · exact getEst_modEst_ne _ _ hx
  · unfold modTest
    rw [getEst_modEst_same, getEst_atTaking, atTaking_ktime]

/-! ### SAFE_STATE and FAULT_STATUS -/

theorem faultStatus_says (ht : Taken 0x0703 isGsGx (lenIs 0) m s) :
    Says id (.faultStatus m) 0x0703 m s (okWith (faultStatus s)) fun r u =>
      u = { r with jobs := { r.jobs with mismatches := r.jobs.mismatches.read, skipped := r.jobs.skipped.read } } := by
  have hbytes : faultStatus (atTaking m s) = faultStatus s :=
    (congrArg faultStatus (atTaking_frame m s)).trans (by rw [atTaking_safe]; rfl)
  exact says_of_own (own := ownFaultStatus) rfl ht (by rw [ownFaultStatus, hbytes]) rfl

theorem supersede_none (h : s.safe.levelPend = none) : supersede s = s := by
  unfold supersede
  rw [h]

/-- A change of each estate of a list, in one estate. -/
theorem getEst_foldl_modEst {f : Estate → Estate} {es : List Nat} (hes : es.Nodup) (s : State) (e : Nat) :
    getEst (es.foldl (fun s e => modEst s e f) s) e = if e ∈ es then f (getEst s e) else getEst s e :=
  get_modAll (get := getEst) (mod := modEst) (fun _ _ => getEst_modEst_same _ _ _) (fun _ _ _ h => getEst_modEst_ne _ _ h) hes s e

theorem foldl_modEst_frame {f : Estate → Estate} (es : List Nat) (s : State) : let t := es.foldl (fun s e => modEst s e f) s
    t = { s with jobs := { s.jobs with est := t.jobs.est } } := by
  induction es generalizing s with
  | nil => rfl
  | cons e es ih =>
    rw [List.foldl_cons]
    exact (ih _).trans rfl

theorem nodup_estates (s : State) : (estates s).Nodup := List.nodup_range.filter _

theorem pidx_of_isGx {code : Nat} {len : Msg → Bool} (ht : Taken code isGx len m s) : pidx m.sender = 17 := by
  obtain ⟨-, -, -, -, hallow, -⟩ := ht
  simpa [isGx] using hallow

/-- Event 0x3007 of a SAFE_STATE. -/
def levelEvent (l mask : Nat) (s : State) : State := event srcAfzan 0x3007 17 (leBytes 1 l ++ leBytes 2 mask) s

theorem logs_levelEvent (l mask : Nat) {r u : State} (hu : u.caddy = (levelEvent l mask r).caddy) (hk : u.ktime = r.ktime) :
    Logs 0x3007 srcAfzan (leBytes 1 l ++ leBytes 2 mask) r u := logs_event (by simp) rfl rfl hu hk

theorem estates_levelEvent (l mask : Nat) (s : State) : estates (levelEvent l mask s) = estates s := rfl

/-- The estates of a mask that exist. -/
def namedEsts (s : State) (mask : Nat) : List Nat := (estates s).filter fun e => bitOf mask e

/-- What level 1 leaves: the named estates stop, and the message waits. -/
def stoppedAt (mask : Nat) (d : Pend) (s : State) : State :=
  modSafe (stopEsts (namedEsts s mask) (levelEvent 1 mask s)) fun f =>
    { f with level := max f.level 1, levelEst := f.levelEst ||| mask, levelPend := some d }

theorem stoppedAt_frame (mask : Nat) (d : Pend) (s : State) : let t := stoppedAt mask d s
    t = { levelEvent 1 mask s with
      jobs := { s.jobs with est := t.jobs.est }
      safe := { (levelEvent 1 mask s).safe with level := max s.safe.level 1, levelEst := s.safe.levelEst ||| mask, levelPend := some d } } := by
  unfold stoppedAt stopEsts
  rw [foldl_modEst_frame]
  rfl

theorem getEst_stoppedAt (mask : Nat) (d : Pend) (s : State) (e : Nat) : getEst (stoppedAt mask d s) e =
    if e ∈ namedEsts s mask then { getEst s e with safeStop := true } else getEst s e :=
  getEst_foldl_modEst ((nodup_estates s).filter _) (levelEvent 1 mask s) e

theorem safeState_stops (ht : Taken 0x0702 isGx (lenIs 8) m s) (hroom : Room m s) (hl : fld m 0 1 = 1) (hrsv : fld m 1 1 = 0) (hrsv' : fld m 4 4 = 0)
    (hlevel : s.safe.level ≠ 4) (hpend : s.safe.levelPend = none) :
    Waits (fun t => settle (giveDue t)) (.safeState m) 0x0702 m s fun d r u => u.safe.level = max s.safe.level 1 ∧
      u.safe.levelPend = some d ∧ u.safe.levelEst = s.safe.levelEst ||| fld m 2 2 ∧ Logs 0x3007 srcAfzan (leBytes 1 1 ++ leBytes 2 (fld m 2 2)) r u ∧
      ∀ e, getEst u e = { getEst s e with safeStop := (getEst s e).safeStop || ((estates s).contains e && bitOf (fld m 2 2) e) } := by
  refine waits_then (own := ownSafeState) (f := fun t => settle (giveDue t)) (by rw [pidx_of_isGx ht]; rfl) ht hroom
    (u := stoppedAt (fld m 2 2) (pendOf s 0x0702 m) (atTaking m s)) ?_ ?_
  · unfold ownSafeState
    dsimp only
    rw [checked_of_good (by simp [hl, rsvBad_eq_false.2 hrsv, rsvBad_eq_false.2 hrsv']), supersede_none (by rw [atTaking_safe]; exact hpend)]
    simp only [atTaking_safe, hlevel, hl, decide_false, decide_true, Bool.true_or, refusedBy_cons_false, refusedBy_nil, if_true,
      show ¬ (1 = 0) by decide, show ¬ (1 = 2) by decide, show ¬ (1 = 3) by decide, show ¬ (1 = 4) by decide, if_false]
    rfl
  · rw [stoppedAt_frame]
    refine ⟨by rw [atTaking_safe], rfl, by rw [atTaking_safe], logs_levelEvent _ _ rfl rfl, fun e => ?_⟩
    rw [← stoppedAt_frame, getEst_stoppedAt, getEst_atTaking, namedEsts, estates_atTaking]
    by_cases he : e ∈ (estates s).filter fun e => bitOf (fld m 2 2) e
    · obtain ⟨hin, hbit⟩ := List.mem_filter.1 he
      simp [hin, hbit]
    · have hnot : ((estates s).contains e && bitOf (fld m 2 2) e) = false := by
        rw [List.mem_filter] at he
        simpa using he
      rw [if_neg he, hnot, Bool.or_false]

theorem releaseLevels_low (h : s.safe.level < 3) :
    releaseLevels s = (estates s).foldl (fun s e => modEst s e fun x => { x with safeStop := false }) s := by
  unfold releaseLevels
  dsimp only
  rw [if_neg]
  rw [foldl_modEst_frame]
  exact Nat.not_le.2 h

/-- What level 0 leaves: every estate takes records again, and the answer is due. -/
def releasedAt (mask : Nat) (d : Pend) (s : State) : State :=
  addDue d stOK 0 (modSafe ((estates s).foldl (fun s e => modEst s e fun x => { x with safeStop := false }) (levelEvent 0 mask s)) fun f =>
    { f with level := 0, levelEst := 0 })

theorem releasedAt_frame (mask : Nat) (d : Pend) (s : State) : let t := releasedAt mask d s
    t = { levelEvent 0 mask s with
      jobs := { s.jobs with est := t.jobs.est }
      safe := { (levelEvent 0 mask s).safe with level := 0, levelEst := 0 }
      firm := { s.firm with due := s.firm.due ++ [(d, stOK, 0)] } } := by
  unfold releasedAt
  rw [foldl_modEst_frame]
  rfl

theorem getEst_releasedAt (mask : Nat) (d : Pend) (s : State) (e : Nat) : getEst (releasedAt mask d s) e =
    if e ∈ estates s then { getEst s e with safeStop := false } else getEst s e :=
  getEst_foldl_modEst (nodup_estates s) (levelEvent 0 mask s) e

theorem safeState_releases (ht : Taken 0x0702 isGx (lenIs 8) m s) (hroom : Room m s) (hl : fld m 0 1 = 0) (hrsv : fld m 1 1 = 0) (hrsv' : fld m 4 4 = 0)
    (hlevel : s.safe.level < 3) (hpend : s.safe.levelPend = none) :
    Waits (fun t => settle (giveDue t)) (.safeState m) 0x0702 m s fun d r u => u.safe.level = 0 ∧ u.safe.levelEst = 0 ∧
      u.firm.due = s.firm.due ++ [(d, stOK, 0)] ∧ Logs 0x3007 srcAfzan (leBytes 1 0 ++ leBytes 2 (fld m 2 2)) r u ∧
      ∀ e ∈ estates s, getEst u e = { getEst s e with safeStop := false } := by
  refine waits_then (own := ownSafeState) (f := fun t => settle (giveDue t)) (by rw [pidx_of_isGx ht]; rfl) ht hroom
    (u := releasedAt (fld m 2 2) (pendOf s 0x0702 m) (atTaking m s)) ?_ ?_
  · unfold ownSafeState
    dsimp only
    rw [checked_of_good (by simp [hl, rsvBad_eq_false.2 hrsv, rsvBad_eq_false.2 hrsv']), supersede_none (by rw [atTaking_safe]; exact hpend)]
    have hgone := releaseLevels_low (s := levelEvent 0 (fld m 2 2) (atTaking m s)) (by
      show (atTaking m s).safe.level < 3
      rwa [atTaking_safe])
    unfold levelEvent at hgone
    simp only [atTaking_safe, hl, show s.safe.level ≠ 4 by omega, decide_false, refusedBy_cons_false, refusedBy_nil, if_true, hgone,
      show ¬ (0 = 1) by decide, show ¬ (0 = 2) by decide, show ¬ (0 = 3) by decide, show ¬ (0 = 4) by decide, if_false, Bool.or_self,
      Bool.false_eq_true]
    rfl
  · rw [releasedAt_frame]
    refine ⟨rfl, rfl, ?_, logs_levelEvent _ _ rfl rfl, fun e he => ?_⟩
    · show (atTaking m s).firm.due ++ _ = _
      rw [atTaking_firm]
    · rw [← releasedAt_frame, getEst_releasedAt, estates_atTaking, if_pos he, getEst_atTaking]

/-! ### WORLD_SET -/

theorem cgBytes_atTaking (m : Msg) (s : State) : cgBytes (atTaking m s) = cgBytes s := by simp [cgBytes]
theorem swmLack_atTaking (m : Msg) (s : State) (v : Nat) : swmLack (atTaking m s) v = swmLack s v := by simp [swmLack]

/-- What a new SWM leaves. -/
def swmMoved (v : Nat) (s : State) : State :=
  modWorld (worldEvent 0 s.world.swm v 0 (modWorld s fun w => { w with swm := v })) fun w => { w with changing := 0, target := 0 }

theorem applyWorld_swm {d : Pend} {v : Nat} (h : v ≠ s.world.swm) : applyWorld d (some v) none none s = say ok (swmMoved v s) := by
  unfold applyWorld
  simp only [h, if_false]
  rfl

theorem worldSet_moves (ht : Taken 0x0800 isGs (lenIs 8) m s) (hitem : fld m 0 1 = 1) (hcl : fld m 1 1 = 0) (hlwm : fld m 2 1 = 0)
    (hrsv : fld m 3 1 = 0) (hrsv' : fld m 6 2 = 0) (hmin : 4 ≤ fld m 4 2) (hmax : fld m 4 2 * 0x4000000 ≤ 4 * cgBytes s)
    (hcg : ∀ c < 8, c * cgBytes s < fld m 4 2 * 0x4000000 → bitOf (reqGrant s 16).cg c = true) (hlack : swmLack s (fld m 4 2) = 0)
    (hnew : fld m 4 2 ≠ s.world.swm) (hpend : s.world.pend = none) :
    Says settle (.worldSet m) 0x0800 m s ok fun r u => u.world.swm = fld m 4 2 ∧ u.world.lwm = s.world.lwm ∧
      u.world.clusters = s.world.clusters ∧ u = { r with world := u.world, caddy := u.caddy } ∧
      Logs 0x4004 srcAfzan (leBytes 1 0 ++ leBytes 2 s.world.swm ++ leBytes 2 (fld m 4 2) ++ leBytes 1 0) r u := by
  have hcgs : (((List.range 8).filter fun c => decide (c * cgBytes s < fld m 4 2 * 0x4000000)).all fun c => bitOf (reqGrant s 16).cg c) = true := by
    rw [List.all_eq_true]
    intro c hc
    obtain ⟨hc, hlt⟩ := List.mem_filter.1 hc
    exact hcg c (List.mem_range.1 hc) (of_decide_eq_true hlt)
  refine says_then (own := ownWorldSet) (f := settle) (u := swmMoved (fld m 4 2) (atTaking m s)) (by rw [pidx_of_isGs ht]; rfl) ht ?_ ?_
  · unfold ownWorldSet
    dsimp only
    simp only [hitem, hcl, hlwm, show bitOf 1 0 = true by decide, show bitOf 1 1 = false by decide, show bitOf 1 2 = false by decide, cgBytes_atTaking,
      reqGrant_atTaking, swmLack_atTaking, hlack, atTaking_world, hpend, if_true, if_false, Bool.false_eq_true, Bool.false_and, ne_eq,
      not_true_eq_false, and_false, false_and, Option.isSome_none, refusedBy_cons_false, refusedBy_nil, decide_false]
    rw [checked_of_good (by simp only [firstBad_cons, firstBad_nil, rsvBad_eq_false.2 hrsv, rsvBad_eq_false.2 hrsv', hcgs, Nat.not_lt.2 hmin,
        Nat.not_lt.2 hmax, decide_false, Bool.not_true, Bool.or_self, Bool.false_eq_true, if_false, Nat.reduceLeDiff, Nat.one_ne_zero]),
      checked_of_good (by simp), checked_of_good (by simp)]
    exact applyWorld_swm (by rwa [atTaking_world])
  · refine ⟨rfl, ?_, ?_, rfl, ?_⟩
    · exact (congrArg World.lwm (atTaking_world m s) :)
    · exact (congrArg World.clusters (atTaking_world m s) :)
    · rw [← atTaking_world m s]
      exact logs_event (by simp) rfl rfl rfl rfl

theorem worldSet_waits (ht : Taken 0x0800 isGs (lenIs 8) m s) (hroom : Room m s) (hitem : fld m 0 1 = 4) (hcl : fld m 1 1 < 16) (hlwm : fld m 2 1 = 0)
    (hrsv : fld m 3 1 = 0) (hswm : fld m 4 2 = 0) (hrsv' : fld m 6 2 = 0) (hnew : diffMask (fld m 1 1) s.world.clusters ≠ 0)
    (hpend : s.world.pend = none) :
    Waits settle (.worldSet m) 0x0800 m s fun d r u => u = { r with world := { r.world with
      changing := diffMask (fld m 1 1) s.world.clusters, target := fld m 1 1, changeAt := s.ktime, pend := some d } } := by
  rw [← atTaking_world m s] at hnew hpend ⊢
  rw [← atTaking_ktime m s]
  refine waits_then (own := ownWorldSet) (f := settle) (by rw [pidx_of_isGs ht]; rfl) ht hroom ?_ rfl
  unfold ownWorldSet
  dsimp only
  simp only [hitem, hlwm, hswm, show bitOf 4 0 = false by decide, show bitOf 4 1 = false by decide, show bitOf 4 2 = true by decide,
    hpend, if_true, if_false, Bool.false_eq_true, Bool.false_and, ne_eq, not_true_eq_false, false_and, Option.isSome_none,
    refusedBy_cons_false, refusedBy_nil, decide_false]
  rw [checked_of_good (by simp [rsvBad_eq_false.2 hrsv, rsvBad_eq_false.2 hrsv']), checked_of_good (by simp),
    checked_of_good (by simp [Nat.not_le.2 hcl])]
  unfold applyWorld
  simp only [hnew, Bool.false_or, ne_eq, not_false_eq_true, decide_true, if_true, if_false, Option.getD_some]
  rfl

/-! ### SECURE_RESTART, ATTEST, IDENTITY_GET -/

theorem Posted.restart {s t : State} (h : Posted s t) : t.world.restart = s.world.restart := by
  rw [h.eq]
  rfl

theorem posted_pended (code : Nat) (m : Msg) (s u : State) : Posted u (pended code m s u) := by
  unfold pended
  split
  · exact (posted_modParty _ _ _).trans (posted_answer _ _ _ _ _)
  · exact posted_modParty _ _ _

theorem secureRestart_waits (ht : Taken 0x0801 isGs (lenIs 16) m s) (hroom : Room m s) (hrsv : fld m 6 2 = 0) (hn : fld m 8 4 ≤ 0x4000000)
    (hboth : fld m 0 6 = 0 ↔ fld m 8 4 = 0) (hflag : fld m 12 1 < 2) (hrsv' : fld m 13 3 = 0)
    (hin : fld m 0 6 ≠ 0 → inReq s 16 (fld m 0 6) (fld m 8 4) = true ∧ fld m 0 6 + fld m 8 4 ≤ s.world.swm * 0x4000000)
    (hfree : s.world.restart = none) :
    Waits (restartBegin (bitOf (fld m 12 1) 0) (fld m 0 6) (fld m 8 4)) (.secureRestart m) 0x0801 m s fun d r u =>
      u = { r with world := { r.world with restart := some (bitOf (fld m 12 1) 0, fld m 0 6, fld m 8 4, d) } } := by
  have hmine : (decide (fld m 0 6 ≠ 0) && (!inReq s 16 (fld m 0 6) (fld m 8 4) || decide (s.world.swm * 0x4000000 < fld m 0 6 + fld m 8 4))) = false := by
    by_cases h : fld m 0 6 = 0
    · simp [h]
    · simp [(hin h).1, Nat.not_lt.2 (hin h).2]
  have hown : ownSecureRestart m (pendOf s 0x0801 m) (atTaking m s) =
      (modWorld (atTaking m s) fun w => { w with restart := some (bitOf (fld m 12 1) 0, fld m 0 6, fld m 8 4, pendOf s 0x0801 m) }, none) := by
    unfold ownSecureRestart
    dsimp only
    rw [checked_of_good (by simp [rsvBad_eq_false.2 hrsv, rsvBad_eq_false.2 hrsv', Nat.not_lt.2 hn, Nat.not_le.2 hflag, hboth])]
    simp only [inReq_atTaking, atTaking_world, hmine, refusedBy_cons_false, refusedBy_nil]
  have hserve := serve_of_waits (code := 0x0801) ht hroom hown
  refine ⟨_, ?_, rfl⟩
  show (Host.Outcome.next (match s.world.restart, (serve 0x0801 isGs (lenIs 16) ownSecureRestart m s).world.restart with
    | none, some (wipe, a, n, _) => restartBegin wipe a n (serve 0x0801 isGs (lenIs 16) ownSecureRestart m s)
    | _, _ => serve 0x0801 isGs (lenIs 16) ownSecureRestart m s) : Res) = _
  rw [hserve, hfree, (posted_pended _ _ _ _).restart]
  rfl

@[simp] theorem attest_atTaking (m : Msg) (s : State) : (atTaking m s).firm.attest = s.firm.attest := by rw [atTaking_firm]
@[simp] theorem body_atTaking (m : Msg) (s : State) : (atTaking m s).firm.body = s.firm.body := by rw [atTaking_firm]
@[simp] theorem deriving_atTaking (m : Msg) (s : State) : (atTaking m s).firm.deriving_ = s.firm.deriving_ := by rw [atTaking_firm]

/-- A report that joins the line of those that wait for a signature. -/
def inLine (d : Pend) (a : Nat) (nonce : List Byte) (s : State) : State :=
  let t := modFirm s fun f => { f with attest := f.attest ++ [(d, a, nonce)] }
  if s.firm.attest.isEmpty then fixBody t else t

theorem inLine_effect (d : Pend) (a : Nat) (nonce : List Byte) (r : State) : let u := inLine d a nonce r
    u.firm.attest = r.firm.attest ++ [(d, a, nonce)] ∧ u = { r with firm := { r.firm with attest := u.firm.attest, body := u.firm.body } } ∧
      (r.firm.attest = [] → u.firm.body = reportBody r d.party nonce) ∧ (r.firm.attest ≠ [] → u.firm.body = r.firm.body) := by
  unfold inLine
  cases h : r.firm.attest with
  | nil =>
    have hfix : fixBody (modFirm r fun f => { f with attest := f.attest ++ [(d, a, nonce)] }) =
        modFirm r fun f => { f with attest := [(d, a, nonce)], body := reportBody r d.party nonce } := by
      unfold fixBody modFirm
      simp only [h, List.nil_append]
      rfl
    simp only [List.isEmpty_nil, if_true, hfix, List.nil_append]
    exact ⟨rfl, rfl, fun _ => rfl, fun h => absurd rfl h⟩
  | cons x xs =>
    simp only [List.isEmpty_cons, Bool.false_eq_true, if_false]
    exact ⟨congrArg (· ++ _) h, rfl, nofun, fun _ => rfl⟩

theorem attest_waits (ht : Taken 0x0802 isParty (lenIs 64) m s) (hroom : Room m s) (hal : fld m 0 6 % 64 = 0) (hrsv : fld m 6 2 = 0)
    (hrsv' : fld m 12 4 = 0) (hin : inReq s (pidx m.sender) (fld m 0 6) (fld m 8 4) = true) (hn : 17120 ≤ fld m 8 4)
    (hnone : ∀ x ∈ s.firm.attest, x.1.party ≠ pidx m.sender) :
    Waits id (.attest m) 0x0802 m s fun d r u => u.firm.attest = s.firm.attest ++ [(d, fld m 0 6, (m.payload.drop 16).take 48)] ∧
      u = { r with firm := { r.firm with attest := u.firm.attest, body := u.firm.body } } ∧
      (s.firm.attest = [] → u.firm.body = reportBody r (pidx m.sender) ((m.payload.drop 16).take 48)) ∧
      (s.firm.attest ≠ [] → u.firm.body = s.firm.body) := by
  refine waits_of_own (own := ownAttest) (u := inLine (pendOf s 0x0802 m) (fld m 0 6) ((m.payload.drop 16).take 48) (atTaking m s)) rfl ht hroom ?_ ?_
  · have hone : (s.firm.attest.any fun x => decide (x.1.party = pidx m.sender)) = false := by simpa using hnone
    unfold ownAttest
    dsimp only
    rw [checked_of_good (by simp [hal, rsvBad_eq_false.2 hrsv, rsvBad_eq_false.2 hrsv'])]
    simp only [show (pendOf s 0x0802 m).party = pidx m.sender from rfl, inReq_atTaking, hin, Bool.not_true, refusedBy_cons_false, refusedBy_nil,
      Nat.not_lt.2 hn, if_false, attest_atTaking, hone, Bool.false_eq_true]
    unfold inLine
    rw [attest_atTaking]
  · have h := inLine_effect (pendOf s 0x0802 m) (fld m 0 6) ((m.payload.drop 16).take 48) (atTaking m s)
    rw [attest_atTaking, body_atTaking] at h
    exact h

theorem statement_atTaking (m : Msg) (s : State) (k : Nat) : statement (atTaking m s) k = statement s k :=
  (congrArg (statement · k) (atTaking_frame m s)).trans rfl
theorem identityBytes_atTaking (m : Msg) (s : State) : identityBytes (atTaking m s) = identityBytes s :=
  (congrArg identityBytes (atTaking_frame m s)).trans rfl

/-- The Kettle's bytes in DRAM are read back. -/
theorem memRead_putBytes_dram {a : Nat} {bs : List Byte} (h : spLeaf a = none) (s : State) : memRead (putBytes byKettle a bs s) a bs.length = bs := by
  unfold putBytes
  rw [h]
  dsimp only
  rw [memRead, fireWatches_mem, ← memRead, memRead_memWrite]

theorem identityGet_says (ht : Taken 0x0803 isPartyGx (lenIs 8) m s) (hrsv : fld m 6 2 = 0) (hready : s.firm.deriving_ = false)
    (hin : fld m 0 6 ≠ 0 → pidx m.sender ≠ 17 ∧ inReq s (pidx m.sender) (fld m 0 6) 34496 = true) :
    Says id (.identityGet m) 0x0803 m s (okWith (identityBytes s)) fun r u => (fld m 0 6 = 0 → u = r) ∧
      (fld m 0 6 ≠ 0 → u = putBytes byKettle (fld m 0 6) (statement s 1 ++ statement s 2) r ∧
        memRead u (fld m 0 6) (statement s 1 ++ statement s 2).length = statement s 1 ++ statement s 2) := by
  have hmine : (decide (fld m 0 6 ≠ 0) && (decide (pidx m.sender = 17) || !inReq s (pidx m.sender) (fld m 0 6) 34496)) = false := by
    by_cases h : fld m 0 6 = 0
    · simp [h]
    · simp [(hin h).1, (hin h).2]
  refine says_of_own (own := ownIdentityGet)
    (u := if fld m 0 6 = 0 then atTaking m s else putBytes byKettle (fld m 0 6) (statement s 1 ++ statement s 2) (atTaking m s)) rfl ht ?_ ?_
  · unfold ownIdentityGet
    dsimp only
    rw [checked_of_good (by simp [rsvBad_eq_false.2 hrsv])]
    simp only [pendOf_atTaking, show (pendOf s 0x0803 m).party = pidx m.sender from rfl, inReq_atTaking, hmine, deriving_atTaking, hready,
      refusedBy_cons_false, refusedBy_nil, identityBytes_atTaking, statement_atTaking]
  · refine ⟨fun h => if_pos h, fun h => ?_⟩
    rw [if_neg h]
    have hdram := inReq_le (hin h).2
    exact ⟨rfl, memRead_putBytes_dram (spLeaf_of_dram (s := s) (by omega)) _⟩

/-- SAFETY_PAIR_SET forms a pair at once where neither estate runs a job, and waits where one does. -/
theorem safetyPairSet_forms_or_waits {p : Pair} (ht : Taken 0x0700 isParty (lenIs 16) m s)
    (hown : ∀ d : Pend, d.party = pidx m.sender → ownSafetyPairSet m d (atTaking m s) =
      if pairRuns s p then ({ atTaking m s with jobs := { s.jobs with pairPend := s.jobs.pairPend ++ [(p, false, d)] } }, none)
      else say ok (formPair p (atTaking m s))) :
    (pairRuns s p = false → Says id (.safetyPairSet m) 0x0700 m s ok fun r u =>
      u.jobs = { r.jobs with pairs := (r.jobs.pairs.filter fun x => decide (x.primary ≠ p.primary)) ++ [p] } ∧
      Logs 0x300A srcAfzan (leBytes 1 p.primary ++ leBytes 1 p.partner ++ leBytes 1 0 ++ leBytes 1 0) r u) ∧
    (pairRuns s p = true → Room m s → Waits id (.safetyPairSet m) 0x0700 m s fun d r u =>
      u = { r with jobs := { r.jobs with pairPend := r.jobs.pairPend ++ [(p, false, d)] } }) := by
  refine ⟨fun hruns => ?_, fun hruns hroom => ?_⟩
  · refine says_of_own (own := ownSafetyPairSet) rfl ht ?_ (formPair_effect p _)
    rw [pendOf_atTaking, hown _ rfl, hruns, if_neg Bool.false_ne_true]
  · refine waits_of_own (own := ownSafetyPairSet) rfl ht hroom ?_ rfl
    rw [hown _ rfl, hruns, ← atTaking_jobs m s, if_pos rfl]

/-- Settles O43: each message passes its checks at its taking and does its one step, of which its event is the first. -/
theorem safetyAndSecurityMessages : Obligations.SafetyAndSecurityMessages :=
  ⟨⟨fun _ _ ht ha hb hab hlive hlive' hparty hparty' hflags hrsv hwin hrsv' hbe hbe' hfree hfree' hsize hsec hinj =>
        safetyPairSet_forms_or_waits ht fun d hd => ownSafetyPairSet_pairs ha hb hab hlive hlive' hparty hparty' hflags hrsv hwin hrsv' hbe hbe'
          hfree hfree' hsize hsec hinj rfl d hd,
      fun _ _ ht he hlive hparty hgood => selftestGaps_says ht he hlive hparty hgood,
      fun _ _ ht hroom hl hrsv hrsv' hlevel hpend => safeState_stops ht hroom hl hrsv hrsv' hlevel hpend,
      fun _ _ ht hroom hl hrsv hrsv' hlevel hpend => safeState_releases ht hroom hl hrsv hrsv' hlevel hpend, fun _ _ ht => faultStatus_says ht⟩,
    ⟨fun _ _ ht hitem hcl hlwm hrsv hrsv' hmin hmax hcg hlack hnew hpend =>
        worldSet_moves ht hitem hcl hlwm hrsv hrsv' hmin hmax hcg hlack hnew hpend,
      fun _ _ ht hroom hitem hcl hlwm hrsv hswm hrsv' hnew hpend => worldSet_waits ht hroom hitem hcl hlwm hrsv hswm hrsv' hnew hpend,
      fun _ _ ht hroom hrsv hn hboth hflag hrsv' hin hfree => secureRestart_waits ht hroom hrsv hn hboth hflag hrsv' hin hfree,
      fun _ _ ht hroom hal hrsv hrsv' hin hn hnone => attest_waits ht hroom hal hrsv hrsv' hin hn hnone,
      fun _ _ ht hrsv hready hin => identityGet_says ht hrsv hready hin⟩⟩

end Sys2Proof.Machine

/-! Messages of graphics, display and codec (R264, R265, R279 to R285). -/

namespace Sys2Proof.Machine
open Sys2Proof.Claims

variable {m : Msg} {s : State}

@[simp] theorem qForm_atTaking (m : Msg) (s : State) (q k e : Nat) (a b : Option Nat) : qForm (atTaking m s) q k e a b = qForm s q k e a b := by
  simp [qForm]

/-! ### Graphics -/

/-- An optional bound of a payload's field: 0, or within two limits. -/
theorem outside_eq_false {v lo hi : Nat} (h : v = 0 ∨ (lo ≤ v ∧ v ≤ hi)) :
    (decide (v ≠ 0) && (decide (v < lo) || decide (hi < v))) = false := by
  rcases h with h | ⟨h, h'⟩
  · simp [h]
  · simp [Nat.not_lt.2 h, Nat.not_lt.2 h']

/-- A queue operand that names no queue, or one that the sender may use in the form asked for. -/
theorem operand_denied {v p : Nat} (h : qOpOn v = true → qReq s p (qOpId v) = true) : (qOpOn v && !qReq s p (qOpId v)) = false := by
  cases hon : qOpOn v with
  | false => rfl
  | true => simp [h hon]

theorem operand_bad {v k e : Nat} {a b : Option Nat} (hbad : qOpBad v = false) (h : qOpOn v = true → qForm s (qOpId v) k e a b = true) :
    (qOpBad v || (qOpOn v && !qForm s (qOpId v) k e a b)) = false := by
  cases hon : qOpOn v with
  | false => simp [hbad]
  | true => simp [hbad, h hon]

/-- A graphics queue with the priority and the times of GFX_QUEUE_SET. -/
def gfxSet (m : Msg) (s : State) : State :=
  let t := modQ s (fld m 0 4) fun x => { x with gfxPrio := fld m 4 1, preemptUs := fld m 8 4, binGrowUs := fld m 12 4 }
  { t with media := { t.media with faultQ := tput t.media.faultQ (fld m 0 4) (if qOpOn (fld m 16 4) then qOpId (fld m 16 4) + 1 else 0) } }

theorem getQ_gfxSet (m : Msg) (s : State) (j : Nat) : getQ (gfxSet m s) j =
    if j = fld m 0 4 then { getQ s (fld m 0 4) with gfxPrio := fld m 4 1, preemptUs := fld m 8 4, binGrowUs := fld m 12 4 } else getQ s j :=
  getQ_modQ s (fld m 0 4) j fun x => { x with gfxPrio := fld m 4 1, preemptUs := fld m 8 4, binGrowUs := fld m 12 4 }

theorem gfxQueueSet_says (ht : Taken 0x0500 isParty (lenIs 24) m s) (hq : fld m 0 4 < 2 ^ 18) (hmine : qReq s (pidx m.sender) (fld m 0 4) = true)
    (hbound : (getQ s (fld m 0 4)).bound = true) (hkind : (getQ s (fld m 0 4)).kind = 2) (hprio : fld m 4 1 < 4) (hrsv : fld m 5 3 = 0)
    (hpre : fld m 8 4 = 0 ∨ (50 ≤ fld m 8 4 ∧ fld m 8 4 ≤ 100000)) (hgrow : fld m 12 4 = 0 ∨ (100 ≤ fld m 12 4 ∧ fld m 12 4 ≤ 100000))
    (hop : qOpBad (fld m 16 4) = false) (hon : qOpOn (fld m 16 4) = true → qReq s (pidx m.sender) (qOpId (fld m 16 4)) = true ∧
      qForm s (qOpId (fld m 16 4)) 1 1 (some 3) none = true) (hrsv' : fld m 20 4 = 0) :
    Says id (.gfxQueueSet m) 0x0500 m s ok fun r u => OnlyQ (fld m 0 4) r u ∧
      getQ u (fld m 0 4) = { getQ s (fld m 0 4) with gfxPrio := fld m 4 1, preemptUs := fld m 8 4, binGrowUs := fld m 12 4 } ∧
      tget u.media.faultQ (fld m 0 4) = (if qOpOn (fld m 16 4) then qOpId (fld m 16 4) + 1 else 0) ∧
      u = { r with queue := u.queue, media := { r.media with faultQ := u.media.faultQ } } := by
  refine says_of_own (own := ownGfxQueueSet) (u := gfxSet m (atTaking m s)) rfl ht ?_
    ⟨fun j hj => by rw [getQ_gfxSet, if_neg hj], by rw [getQ_gfxSet, if_pos rfl, getQ_atTaking], tget_tput_same _ _ _, rfl⟩
  have hdenied := operand_denied fun h => (hon h).1
  unfold ownGfxQueueSet
  simp only [pendOf_atTaking, show (pendOf s 0x0500 m).party = pidx m.sender from rfl, qReq_atTaking, Nat.mod_eq_of_lt hq, hmine,
    hdenied, Bool.not_true, refusedBy_cons_false, refusedBy_nil]
  exact checked_of_good (by
    simp only [firstBad_cons, firstBad_nil, getQ_atTaking, hbound, hkind, qForm_atTaking, operand_bad hop fun h => (hon h).2, outside_eq_false hpre,
      outside_eq_false hgrow, rsvBad_eq_false.2 hrsv, rsvBad_eq_false.2 hrsv', Nat.not_le.2 hq, Nat.not_le.2 hprio, decide_false, decide_true,
      Bool.and_self, Bool.not_true, Bool.or_self, Bool.false_eq_true, if_false]) _ _

theorem firstBad_flatMap_of_good {l : List Nat} {f : Nat → List (Nat × Bool)} (h : ∀ i ∈ l, firstBad (f i) = none) : firstBad (l.flatMap f) = none := by
  induction l with
  | nil => rfl
  | cons i l ih =>
    rw [List.flatMap_cons, firstBad_append_of_good _ (h i List.mem_cons_self)]
    exact ih fun j hj => h j (List.mem_cons_of_mem _ hj)

theorem gfxBinGrow_says {j : Job}
    (ht : Taken 0x0501 isParty (fun m => decide (8 ≤ m.length.toNat) && (decide (m.length.toNat = 8 + 8 * fld m 1 1) || decide (16 < fld m 1 1))) m s)
    (he : fld m 0 1 < 16) (hlive : (getEst s (fld m 0 1)).live = true) (hjob : jobOf s (fld m 0 1) = some j) (hparty : j.party = pidx m.sender)
    (hn : fld m 1 1 ≠ 0) (hn' : fld m 1 1 ≤ 16) (hrsv : fld m 2 6 = 0)
    (hentries : ∀ x ∈ growEntries m, x.1 % pieceBytes = 0 ∧ x.2 ≠ 0 ∧ inReq s (pidx m.sender) x.1 (x.2 * pieceBytes) = true)
    (hgrow : (tget s.media.gfx (fld m 0 1)).grow = true) :
    let ps := (growEntries m).flatMap fun x => (List.range x.2).map fun i => x.1 + i * pieceBytes
    Says id (.gfxBinGrow m) 0x0501 m s ok fun r u => u = { r with media := { r.media with gfx := u.media.gfx } } ∧
      tget u.media.gfx (fld m 0 1) = { tget s.media.gfx (fld m 0 1) with
        grown := (tget s.media.gfx (fld m 0 1)).grown ++ ps, cap := (tget s.media.gfx (fld m 0 1)).cap + ps.length * pieceBytes, grow := false } ∧
      ∀ e, e ≠ fld m 0 1 → tget u.media.gfx e = tget s.media.gfx e := by
  intro ps
  refine says_of_own (own := ownGfxBinGrow) (u := { atTaking m s with media := { (atTaking m s).media with
    gfx := tmod (atTaking m s).media.gfx (fld m 0 1) fun g => { g with grown := g.grown ++ ps, cap := g.cap + ps.length * pieceBytes, grow := false } } })
    rfl ht ?_ ⟨rfl, ?_, fun e he => ?_⟩
  · have hmine : ((growEntries m).any fun x => !inReq s (pidx m.sender) x.1 (x.2 * pieceBytes)) = false := by
      rw [List.any_eq_false]
      intro x hx
      simp [(hentries x hx).2.2]
    unfold ownGfxBinGrow
    dsimp only
    rw [checked_of_good]
    · simp only [pendOf_atTaking, show (pendOf s 0x0501 m).party = pidx m.sender from rfl, jobOf_atTaking, hjob, hparty, inReq_atTaking, hmine,
        atTaking_media, hgrow, ne_eq, not_true_eq_false, decide_false, Bool.not_true, refusedBy_cons_false, refusedBy_nil]
      rfl
    · rw [firstBad_append_of_good _ (by simp [Nat.not_le.2 he, hlive, hn, Nat.not_lt.2 hn', rsvBad_eq_false.2 hrsv])]
      refine firstBad_flatMap_of_good fun i hi => ?_
      obtain ⟨hal, hsome, -⟩ := hentries _ (List.getElem_mem (List.mem_range.1 hi))
      rw [List.getD_eq_getElem _ _ (List.mem_range.1 hi)]
      simp [hal, hsome]
  · dsimp only
    rw [tget_tmod_same, atTaking_media]
  · dsimp only
    rw [tget_tmod_ne _ _ he, atTaking_media]

/-! ### Display pipes -/

theorem pipeSet_own {d : Pend} (hd : d.party = pidx m.sender) (hp : fld m 0 1 < 6)
    (hown : (getPipe s (fld m 0 1)).owner = 0 ∨ (getPipe s (fld m 0 1)).owner = pidx m.sender + 1) (hgood : firstBad (timingBad m.payload) = none)
    (hscan : (getPipe s (fld m 0 1)).scan = false) (htrain : (getPipe s (fld m 0 1)).training = none) (hstop : (getPipe s (fld m 0 1)).stop = none) :
    ownPipeSet m d (atTaking m s) =
      let t := modPipe (atTaking m s) (fld m 0 1) fun y => { y with owner := pidx m.sender + 1, timing := m.payload }
      if isDsi (fld m 0 1) then say ok (pipeStart (fld m 0 1) (fld m 19 1) (fld m 20 2) t)
      else (modPipe t (fld m 0 1) fun y => { y with training := some d }, none) := by
  have hmine : (decide ((getPipe s (fld m 0 1)).owner ≠ 0) && decide ((getPipe s (fld m 0 1)).owner ≠ pidx m.sender + 1)) = false := by
    rcases hown with h | h <;> simp [h]
  unfold ownPipeSet
  dsimp only
  rw [checked_of_good (by simp [Nat.not_le.2 hp]), checked_of_good hgood]
  simp only [getPipe_atTaking, hd, hmine, hscan, htrain, hstop, Option.isSome_none, Bool.or_self, refusedBy_cons_false, refusedBy_nil]
  rfl

section
variable (ht : Taken 0x0510 isParty (lenIs 32) m s) (hp : fld m 0 1 < 6)
  (hown : (getPipe s (fld m 0 1)).owner = 0 ∨ (getPipe s (fld m 0 1)).owner = pidx m.sender + 1) (hgood : firstBad (timingBad m.payload) = none)
  (hscan : (getPipe s (fld m 0 1)).scan = false) (htrain : (getPipe s (fld m 0 1)).training = none) (hstop : (getPipe s (fld m 0 1)).stop = none)
include ht hp hown hgood hscan htrain hstop

theorem pipeSet_starts (hdsi : 4 ≤ fld m 0 1) :
    Says id (.pipeSet m) 0x0510 m s ok fun r u => MediaOnly r u ∧ (∀ j, j ≠ fld m 0 1 → getPipe u j = getPipe s j) ∧
      getPipe u (fld m 0 1) = { getPipe s (fld m 0 1) with
        owner := pidx m.sender + 1, timing := m.payload, scan := true, training := none, frame := 0, latchAt := s.ktime, layers := []
        link := true, relink := false, lanes := fld m 19 1, rate := fld m 20 2, lineUnder := 0, stopped := 0, bad := none, out := [] } := by
  refine says_of_own (own := ownPipeSet) (u := pipeStart (fld m 0 1) (fld m 19 1) (fld m 20 2)
    (modPipe (atTaking m s) (fld m 0 1) fun y => { y with owner := pidx m.sender + 1, timing := m.payload })) rfl ht ?_ ?_
  · rw [pendOf_atTaking, pipeSet_own rfl hp hown hgood hscan htrain hstop]
    exact if_pos (decide_eq_true hdsi)
  · have honly := ((PipeOnly.refl (fld m 0 1) (atTaking m s)).modPipe fun y => { y with owner := pidx m.sender + 1, timing := m.payload }).modPipe
      fun x => { x with scan := true, training := none, frame := 0, latchAt := (atTaking m s).ktime, layers := [], link := true, relink := false,
                        lanes := fld m 19 1, rate := fld m 20 2, lineUnder := 0, stopped := 0, bad := none, out := [] }
    refine ⟨honly.media, fun j hj => (honly.other j hj).trans (by rw [getPipe_atTaking]), ?_⟩
    rw [pipeStart, getPipe_modPipe_same, getPipe_modPipe_same, getPipe_atTaking, ← atTaking_ktime m s]
    rfl

theorem pipeSet_trains (hroom : Room m s) (hdsi : fld m 0 1 < 4) : Waits id (.pipeSet m) 0x0510 m s fun d r u => MediaOnly r u ∧
      (∀ j, j ≠ fld m 0 1 → getPipe u j = getPipe s j) ∧
      getPipe u (fld m 0 1) = { getPipe s (fld m 0 1) with owner := pidx m.sender + 1, timing := m.payload, training := some d } := by
  refine waits_of_own (own := ownPipeSet) (u := modPipe
    (modPipe (atTaking m s) (fld m 0 1) fun y => { y with owner := pidx m.sender + 1, timing := m.payload }) (fld m 0 1) fun y =>
      { y with training := some (pendOf s 0x0510 m) }) rfl ht hroom ?_ ?_
  · rw [pipeSet_own rfl hp hown hgood hscan htrain hstop]
    exact if_neg (by simp [isDsi, Nat.not_le.2 hdsi])
  · have honly := ((PipeOnly.refl (fld m 0 1) (atTaking m s)).modPipe fun y => { y with owner := pidx m.sender + 1, timing := m.payload }).modPipe
      fun y => { y with training := some (pendOf s 0x0510 m) }
    refine ⟨honly.media, fun j hj => (honly.other j hj).trans (by rw [getPipe_atTaking]), ?_⟩
    rw [getPipe_modPipe_same, getPipe_modPipe_same, getPipe_atTaking]

end

/-- A pipe whose scan-out is to stop, when the link is idle or at once. -/
def stopping (p flags : Nat) (d : Pend) (s : State) : State :=
  let t := modPipe s p fun y => { y with stop := some (flags, d) }
  if bitOf flags 0 then modPipe (underEvent p t) p fun y => { y with scan := false, out := [] } else t

theorem stopping_effect (p flags : Nat) (d : Pend) (s : State) : PipeOnly p s (stopping p flags d s) ∧
    getPipe (stopping p flags d s) p = { getPipe s p with
      stop := some (flags, d), scan := if bitOf flags 0 then false else (getPipe s p).scan
      lineUnder := if bitOf flags 0 then 0 else (getPipe s p).lineUnder, out := if bitOf flags 0 then [] else (getPipe s p).out } := by
  have hstop := (PipeOnly.refl p s).modPipe fun y => { y with stop := some (flags, d) }
  unfold stopping
  cases hnow : bitOf flags 0 with
  | false =>
    refine ⟨hstop, ?_⟩
    simp only [Bool.false_eq_true, if_false, getPipe_modPipe_same]
  | true =>
    obtain ⟨honly, hpipe⟩ := pipeOnly_underEvent p (modPipe s p fun y => { y with stop := some (flags, d) })
    have hother := fun j (hj : j ≠ p) => ((honly.modPipe fun y => { y with scan := false, out := [] }).other j hj).trans (hstop.other j hj)
    refine ⟨⟨?_, hother⟩, ?_⟩
    · exact ((honly.modPipe fun y => { y with scan := false, out := [] }).media).trans rfl
    · simp only [if_true, getPipe_modPipe_same, hpipe]

/-- Lines that underran are told where the scan-out stops at once. -/
theorem logs_stopping {p flags : Nat} (d : Pend) {s : State} (hnow : bitOf flags 0 = true) (hunder : (getPipe s p).lineUnder ≠ 0) :
    Logs 0x8007 (0x6000 + p) (leBytes 1 p ++ leBytes 4 (getPipe s p).frame ++ leBytes 2 (getPipe s p).lineUnder) s (stopping p flags d s) := by
  unfold stopping underEvent
  simp only [hnow, if_true, getPipe_modPipe_same, hunder, if_false]
  exact logs_event (by simp) rfl rfl rfl rfl

theorem getPipe_dropTraining_ne {p j : Nat} (s : State) (h : j ≠ p) : getPipe (dropTraining p s) j = getPipe s j := by
  unfold dropTraining
  split
  · rfl
  · rw [getPipe, (posted_finish _ _ _).media, ← getPipe, getPipe_modPipe_ne _ _ h]

/-- A pipe that is closed holds nothing, and no other pipe changes. -/
theorem pipeIdle_closes (p : Nat) {flags : Nat} (s : State) (hclose : bitOf flags 1 = true) : (getPipe (pipeIdle p flags s) p).owner = 0 ∧
    (getPipe (pipeIdle p flags s) p).training = none ∧ ∀ j, j ≠ p → getPipe (pipeIdle p flags s) j = getPipe s j := by
  unfold pipeIdle
  dsimp only
  rw [if_pos hclose, getPipe_modPipe_same]
  exact ⟨rfl, rfl, fun j hj => by rw [getPipe_modPipe_ne _ _ hj, getPipe_dropTraining_ne _ hj, (pipeOnly_underEvent p s).1.other j hj]⟩

section
variable (ht : Taken 0x0511 isParty (lenIs 4) m s) (hp : fld m 0 1 < 6) (hflags : fld m 1 1 < 4) (hrsv : fld m 2 2 = 0)
  (hown : (getPipe s (fld m 0 1)).owner = pidx m.sender + 1) (hstop : (getPipe s (fld m 0 1)).stop = none)

include hp hflags hrsv hown hstop in
theorem pipeStop_own {d : Pend} (hd : d.party = pidx m.sender) : ownPipeStop m d (atTaking m s) =
    if (getPipe s (fld m 0 1)).scan then (stopping (fld m 0 1) (fld m 1 1) d (atTaking m s), none)
    else say ok (if bitOf (fld m 1 1) 1 then pipeIdle (fld m 0 1) (fld m 1 1) (atTaking m s) else atTaking m s) := by
  unfold ownPipeStop
  dsimp only
  rw [checked_of_good (by simp [Nat.not_le.2 hp, Nat.not_le.2 hflags, rsvBad_eq_false.2 hrsv])]
  simp only [getPipe_atTaking, hd, hown, hstop, ne_eq, not_true_eq_false, decide_false, Option.isSome_none, refusedBy_cons_false, refusedBy_nil]
  cases (getPipe s (fld m 0 1)).scan <;> rfl

include ht hp hflags hrsv hown hstop

theorem pipeStop_waits (hscan : (getPipe s (fld m 0 1)).scan = true) (hroom : Room m s) : Waits id (.pipeStop m) 0x0511 m s fun d r u => MediaOnly r u ∧
      (∀ j, j ≠ fld m 0 1 → getPipe u j = getPipe s j) ∧
      getPipe u (fld m 0 1) = { getPipe s (fld m 0 1) with
        stop := some (fld m 1 1, d), scan := !bitOf (fld m 1 1) 0
        lineUnder := if bitOf (fld m 1 1) 0 then 0 else (getPipe s (fld m 0 1)).lineUnder
        out := if bitOf (fld m 1 1) 0 then [] else (getPipe s (fld m 0 1)).out } ∧
      (bitOf (fld m 1 1) 0 = true → (getPipe s (fld m 0 1)).lineUnder ≠ 0 →
        Logs 0x8007 (0x6000 + fld m 0 1) (leBytes 1 (fld m 0 1) ++ leBytes 4 (getPipe s (fld m 0 1)).frame ++
          leBytes 2 (getPipe s (fld m 0 1)).lineUnder) r u) := by
  refine waits_of_own (own := ownPipeStop) (u := stopping (fld m 0 1) (fld m 1 1) (pendOf s 0x0511 m) (atTaking m s)) rfl ht hroom ?_ ?_
  · rw [pipeStop_own hp hflags hrsv hown hstop rfl, if_pos hscan]
  · obtain ⟨honly, hpipe⟩ := stopping_effect (fld m 0 1) (fld m 1 1) (pendOf s 0x0511 m) (atTaking m s)
    rw [getPipe_atTaking] at hpipe
    refine ⟨honly.media, fun j hj => (honly.other j hj).trans (by rw [getPipe_atTaking]), ?_, fun hnow hunder => ?_⟩
    · rw [hpipe, hscan]
      cases bitOf (fld m 1 1) 0 <;> rfl
    · rw [← getPipe_atTaking m s] at hunder ⊢
      exact logs_stopping _ hnow hunder

theorem pipeStop_rests (hscan : (getPipe s (fld m 0 1)).scan = false) (hclose : bitOf (fld m 1 1) 1 = false) :
    Says id (.pipeStop m) 0x0511 m s ok fun r u => u = r := by
  refine says_of_own (own := ownPipeStop) rfl ht ?_ rfl
  rw [pendOf_atTaking, pipeStop_own hp hflags hrsv hown hstop rfl, hscan, hclose, if_neg Bool.false_ne_true, if_neg Bool.false_ne_true]

theorem pipeStop_closes (hscan : (getPipe s (fld m 0 1)).scan = false) (hclose : bitOf (fld m 1 1) 1 = true) :
    Says id (.pipeStop m) 0x0511 m s ok fun r u =>
      (getPipe u (fld m 0 1)).owner = 0 ∧ (getPipe u (fld m 0 1)).training = none ∧ (∀ j, j ≠ fld m 0 1 → getPipe u j = getPipe s j) ∧
      ((getPipe s (fld m 0 1)).training = none → MediaOnly r u) := by
  refine says_of_own (own := ownPipeStop) (u := pipeIdle (fld m 0 1) (fld m 1 1) (atTaking m s)) rfl ht ?_ ?_
  · rw [pendOf_atTaking, pipeStop_own hp hflags hrsv hown hstop rfl, hscan, hclose, if_neg Bool.false_ne_true, if_pos rfl]
  · obtain ⟨howner, htrain, hother⟩ := pipeIdle_closes (fld m 0 1) (atTaking m s) hclose
    exact ⟨howner, htrain, fun j hj => (hother j hj).trans (getPipe_atTaking m s j),
      fun h => (pipeOnly_pipeIdle _ (by rw [getPipe_atTaking]; exact h)).media⟩

end

theorem pipeQueues_says (ht : Taken 0x0512 isParty (lenIs 12) m s) (hp : fld m 0 1 < 6) (hrsv : fld m 1 3 = 0)
    (hown : (getPipe s (fld m 0 1)).owner = 0 ∨ (getPipe s (fld m 0 1)).owner = pidx m.sender + 1) (hscan : (getPipe s (fld m 0 1)).scan = false)
    (hop : qOpBad (fld m 4 4) = false) (hop' : qOpBad (fld m 8 4) = false)
    (hon : qOpOn (fld m 4 4) = true → qReq s (pidx m.sender) (qOpId (fld m 4 4)) = true ∧ qForm s (qOpId (fld m 4 4)) 1 2 none (some 6) = true)
    (hon' : qOpOn (fld m 8 4) = true → qReq s (pidx m.sender) (qOpId (fld m 8 4)) = true ∧ qForm s (qOpId (fld m 8 4)) 1 1 (some 6) none = true) :
    Says id (.pipeQueues m) 0x0512 m s ok fun r u => MediaOnly r u ∧ (∀ j, j ≠ fld m 0 1 → getPipe u j = getPipe s j) ∧
      getPipe u (fld m 0 1) = { getPipe s (fld m 0 1) with
        owner := pidx m.sender + 1, flip := if qOpOn (fld m 4 4) then qOpId (fld m 4 4) + 1 else 0
        status := if qOpOn (fld m 8 4) then qOpId (fld m 8 4) + 1 else 0, statusNext := 0 } := by
  refine says_of_own (own := ownPipeQueues) (u := modPipe (atTaking m s) (fld m 0 1) fun y => { y with
    owner := pidx m.sender + 1, flip := if qOpOn (fld m 4 4) then qOpId (fld m 4 4) + 1 else 0
    status := if y.scan then y.status else if qOpOn (fld m 8 4) then qOpId (fld m 8 4) + 1 else 0
    statusNext := if y.scan then (if qOpOn (fld m 8 4) then qOpId (fld m 8 4) + 1 else 0) + 1 else 0 }) rfl ht ?_ ?_
  · have hmine : (decide ((getPipe s (fld m 0 1)).owner ≠ 0) && decide ((getPipe s (fld m 0 1)).owner ≠ pidx m.sender + 1)) = false := by
      rcases hown with h | h <;> simp [h]
    have hdenied := operand_denied fun h => (hon h).1
    have hdenied' := operand_denied fun h => (hon' h).1
    unfold ownPipeQueues
    dsimp only
    rw [checked_of_good (by simp [Nat.not_le.2 hp])]
    simp only [pendOf_atTaking, show (pendOf s 0x0512 m).party = pidx m.sender from rfl, getPipe_atTaking, hmine, qReq_atTaking, hdenied, hdenied',
      refusedBy_cons_false, refusedBy_nil, hscan, Bool.false_and]
    exact checked_of_good (by simp only [firstBad_cons, firstBad_nil, rsvBad_eq_false.2 hrsv, qForm_atTaking, operand_bad hop fun h => (hon h).2,
      operand_bad hop' fun h => (hon' h).2, Bool.false_eq_true, if_false]) _ _
  · have honly := (PipeOnly.refl (fld m 0 1) (atTaking m s)).modPipe fun y => { y with
      owner := pidx m.sender + 1, flip := if qOpOn (fld m 4 4) then qOpId (fld m 4 4) + 1 else 0
      status := if y.scan then y.status else if qOpOn (fld m 8 4) then qOpId (fld m 8 4) + 1 else 0
      statusNext := if y.scan then (if qOpOn (fld m 8 4) then qOpId (fld m 8 4) + 1 else 0) + 1 else 0 }
    refine ⟨honly.media, fun j hj => (honly.other j hj).trans (by rw [getPipe_atTaking]), ?_⟩
    simp only [getPipe_modPipe_same, getPipe_atTaking, hscan, Bool.false_eq_true, if_false]

/-! ### Codec sessions -/

theorem codecBad_atTaking (m m' : Msg) (s : State) (p : Nat) : codecBad (atTaking m s) p m' = codecBad s p m' := by simp [codecBad]
theorem sesOpen_atTaking (m : Msg) (s : State) (b : Bool) : sesOpen (atTaking m s) b = sesOpen s b := by simp [sesOpen]
theorem sesRate_atTaking (m : Msg) (s : State) (b : Bool) : sesRate (atTaking m s) b = sesRate s b := by simp [sesRate, sesOpen_atTaking]

theorem codecOpen_says {k : Nat} (ht : Taken 0x0520 isParty (lenIs 64) m s) (hgood : firstBad (codecBad s (pidx m.sender) m) = none)
    (hin : qReq s (pidx m.sender) (cdIn m.payload) = true) (hout : qReq s (pidx m.sender) (cdOut m.payload) = true)
    (hfree : cdDec m.payload = true → cdTile m.payload = false → qReq s (pidx m.sender) (cdFree m.payload) = true)
    (hmem : inReq s (pidx m.sender) (fld m 24 6) (fld m 32 4) = true) (hwork : sesWork m.payload ≤ fld m 32 4)
    (hrate : sesRate s (cdDec m.payload) + fld m 8 4 ≤ 2000000000)
    (hk : ((List.range 32).map fun i => i + if cdDec m.payload then 32 else 0).find? (fun k => !(sesOpen s (cdDec m.payload)).contains k) = some k) :
    Says id (.codecOpen m) 0x0520 m s (okWith (leBytes 1 k)) fun r u => MediaOnly r u ∧
      getSes u k = { owner := pidx m.sender + 1, open_ := m.payload } ∧ ∀ j, j ≠ k → getSes u j = getSes s j := by
  refine says_of_own (own := ownCodecOpen) (u := modSes (atTaking m s) k fun _ => { owner := pidx m.sender + 1, open_ := m.payload }) rfl ht ?_
    ⟨rfl, getSes_modSes_same _ _ _, fun j hj => by rw [getSes_modSes_ne _ _ hj, getSes_atTaking]⟩
  have hqueues : (!qReq s (pidx m.sender) (cdIn m.payload) || !qReq s (pidx m.sender) (cdOut m.payload) ||
      (cdDec m.payload && !cdTile m.payload && !qReq s (pidx m.sender) (cdFree m.payload))) = false := by
    rw [hin, hout]
    cases hdec : cdDec m.payload <;> cases htile : cdTile m.payload <;> simp_all
  unfold ownCodecOpen
  simp only [pendOf_atTaking, show (pendOf s 0x0520 m).party = pidx m.sender from rfl, codecBad_atTaking, qReq_atTaking, hqueues, inReq_atTaking, hmem,
    sesRate_atTaking, sesOpen_atTaking, Nat.not_lt.2 hwork, Nat.not_lt.2 hrate, if_false, hk, Bool.not_true, refusedBy_cons_false, refusedBy_nil]
  exact checked_of_good hgood _ _

theorem codecClose_waits (ht : Taken 0x0521 isParty (lenIs 4) m s) (hroom : Room m s) (hk : fld m 0 1 < 64) (hdrain : fld m 1 1 < 2)
    (hrsv : fld m 2 2 = 0) (hown : (getSes s (fld m 0 1)).owner = pidx m.sender + 1) (hclosing : (getSes s (fld m 0 1)).closing = none) :
    Waits (closeSesIfDone (fld m 0 1)) (.codecClose m) 0x0521 m s fun d r u => MediaOnly r u ∧
      (∀ j, j ≠ fld m 0 1 → getSes u j = getSes s j) ∧
      (fld m 1 1 = 1 → getSes u (fld m 0 1) = { getSes s (fld m 0 1) with closing := some d }) ∧
      (fld m 1 1 = 0 → getSes u (fld m 0 1) = { getSes s (fld m 0 1) with
        closing := some d, work := [], pieces := [], pics := 0, stopped := max 1 (getSes s (fld m 0 1)).stopped }) := by
  let f : Session → Session := fun x => { x with
    closing := some (pendOf s 0x0521 m), work := if bitOf (fld m 1 1) 0 then x.work else [], pieces := if bitOf (fld m 1 1) 0 then x.pieces else []
    pics := if bitOf (fld m 1 1) 0 then x.pics else 0, stopped := if bitOf (fld m 1 1) 0 then x.stopped else max 1 x.stopped }
  have hown' : ownCodecClose m (pendOf s 0x0521 m) (atTaking m s) = (modSes (atTaking m s) (fld m 0 1) f, none) := by
    unfold ownCodecClose
    dsimp only
    rw [checked_of_good (by simp [Nat.not_le.2 hk, Nat.not_le.2 hdrain, rsvBad_eq_false.2 hrsv])]
    simp only [show (pendOf s 0x0521 m).party = pidx m.sender from rfl, getSes_atTaking, hown, hclosing, ne_eq, not_true_eq_false, decide_false,
      Option.isSome_none, refusedBy_cons_false, refusedBy_nil]
    rfl
  refine ⟨modSes (atTaking m s) (fld m 0 1) f, ?_, rfl, fun j hj => by rw [getSes_modSes_ne _ _ hj, getSes_atTaking], fun h => ?_, fun h => ?_⟩
  · refine (congrArg (fun t => (Host.Outcome.next (closeSesIfDone (fld m 0 1 % 64) t) : Res)) (serve_of_waits ht hroom hown')).trans ?_
    rw [Nat.mod_eq_of_lt hk]
    rfl
  · rw [getSes_modSes_same, getSes_atTaking]
    simp only [f, h, show bitOf 1 0 = true by decide, if_true]
  · rw [getSes_modSes_same, getSes_atTaking]
    simp only [f, h, show bitOf 0 0 = false by decide, Bool.false_eq_true, if_false]

/-- Settles O44: each message passes its checks at its taking, and does its one step on the record of its queue, pipe or session. -/
theorem displayAndCodecMessages : Obligations.DisplayAndCodecMessages :=
  ⟨fun _ _ ht hq hmine hbound hkind hprio hrsv hpre hgrow hop hon hrsv' =>
      gfxQueueSet_says ht hq hmine hbound hkind hprio hrsv hpre hgrow hop hon hrsv',
    fun _ _ _ ht he hlive hjob hparty hn hn' hrsv hentries hgrow => gfxBinGrow_says ht he hlive hjob hparty hn hn' hrsv hentries hgrow,
    fun _ _ ht hp hown hgood hscan htrain hstop => ⟨pipeSet_starts ht hp hown hgood hscan htrain hstop,
      fun hdsi hroom => pipeSet_trains ht hp hown hgood hscan htrain hstop hroom hdsi⟩,
    fun _ _ ht hp hflags hrsv hown hstop => ⟨pipeStop_waits ht hp hflags hrsv hown hstop, pipeStop_rests ht hp hflags hrsv hown hstop,
      pipeStop_closes ht hp hflags hrsv hown hstop⟩,
    fun _ _ ht hp hrsv hown hscan hop hop' hon hon' => pipeQueues_says ht hp hrsv hown hscan hop hop' hon hon',
    fun _ _ _ ht hgood hin hout hfree hmem hwork hrate hk => codecOpen_says ht hgood hin hout hfree hmem hwork hrate hk,
    fun _ _ ht hroom hk hdrain hrsv hown hclosing => codecClose_waits ht hroom hk hdrain hrsv hown hclosing⟩

end Sys2Proof.Machine

/-! Messages of capture and fusion (R291, R292, R300, R304, R307, R323 to R327). -/

namespace Sys2Proof.Machine
open Sys2Proof.Claims

variable {m : Msg} {s : State}

/-! ### Capture -/

theorem captureBad_atTaking (m m' : Msg) (s : State) : captureBad (atTaking m s) m' = captureBad s m' := by
  have hconf : ∀ r, rcvConf (atTaking m s) r = rcvConf s r := fun r => by simp [rcvConf]
  have hflow : ∀ k v t, sameFlow (atTaking m s) k v t = sameFlow s k v t := fun k v t => by simp [sameFlow]
  simp only [captureBad, getQ_atTaking, qReq_atTaking, qForm_atTaking, hconf, hflow]
theorem imgIn_atTaking (m : Msg) (s : State) (p : Nat) (d : List Byte) : imgIn (atTaking m s) p d = imgIn s p d := by simp [imgIn]
theorem rcvOwner_atTaking (m : Msg) (s : State) (r : Nat) : rcvOwner (atTaking m s) r = rcvOwner s r := by simp [rcvOwner]
theorem ispRate_atTaking (m : Msg) (s : State) : ispRate (atTaking m s) = ispRate s := by simp [ispRate]
theorem captureStats_atTaking (m : Msg) (s : State) (k : Nat) : captureStats (atTaking m s) k = captureStats s k :=
  (congrArg (captureStats · k) (atTaking_frame m s)).trans rfl

/-- A receiver that is off is powered on, and its counter restarts. -/
theorem rcvUp_effect (r : Nat) (s : State) : rcvUp r s = { s with cap := { s.cap with upAt := (rcvUp r s).cap.upAt }, pw := (rcvUp r s).pw } ∧
    (4 ≤ r ∨ tget s.pw.blocks (7 * 65536 + r) ≠ 2 → (rcvUp r s).pw = s.pw ∧ (rcvUp r s).cap.upAt = s.cap.upAt) ∧
    (r < 4 → tget s.pw.blocks (7 * 65536 + r) = 2 → tget (rcvUp r s).pw.blocks (7 * 65536 + r) = 0 ∧ tget (rcvUp r s).cap.upAt r = s.ktime) := by
  unfold rcvUp
  split
  · next h => exact ⟨rfl, fun _ => ⟨rfl, rfl⟩, fun hr hoff => absurd h (not_or.2 ⟨Nat.not_le.2 hr, not_not.2 hoff⟩)⟩
  · next h => exact ⟨rfl, fun h' => absurd h' h, fun _ _ => ⟨tget_tput_same _ _ _, tget_tput_same _ _ _⟩⟩

/-- A capture stream as CAPTURE_OPEN opens it. -/
def strOpened (m : Msg) (s : State) : State :=
  rcvUp (fld m 0 1 / 4) (modStr s (fld m 0 1) fun _ => { owner := pidx m.sender + 1, conf := m.payload })

theorem getStr_strOpened (m : Msg) (s : State) (j : Nat) : getStr (strOpened m s) j =
    if j = fld m 0 1 then { owner := pidx m.sender + 1, conf := m.payload } else getStr s j := by
  unfold strOpened
  rw [(rcvUp_effect _ _).1]
  exact getStr_modStr s (fld m 0 1) j fun _ => { owner := pidx m.sender + 1, conf := m.payload }

theorem captureOpen_own (hgood : firstBad (captureBad s m) = none) (hout : qReq s (pidx m.sender) (cOut m.payload) = true)
    (htile : cMode m.payload = 2 → qReq s (pidx m.sender) (cTileQ m.payload) = true)
    (heth : isEth (fld m 0 1) = true → inReq s (pidx m.sender) (field (cImage m.payload) 0 6)
      ((getQ s (cOut m.payload)).n * field (cImage m.payload) 20 4) = true)
    (himg : isEth (fld m 0 1) = false → cMode m.payload ≠ 2 → imgIn s (pidx m.sender) (cImage m.payload) = true)
    (hstats : cStats m.payload ≠ 0 → inReq s (pidx m.sender) (cStats m.payload) ((getQ s (cOut m.payload)).n * 16384) = true)
    (hrcv : isEth (fld m 0 1) = false → rcvOwner s (fld m 0 1 / 4) = 0 ∨ rcvOwner s (fld m 0 1 / 4) = pidx m.sender + 1)
    (hrate : cMode m.payload ≠ 1 → cRate m.payload ≤ 1200000000 ∧ ispRate s + cRate m.payload ≤ 4000000000)
    (hfree : (getStr s (fld m 0 1)).owner = 0) :
    ownCaptureOpen m (pendOf s 0x0600 m) (atTaking m s) = say ok (strOpened m (atTaking m s)) := by
  have hqueues : (!qReq s (pidx m.sender) (cOut m.payload) || (cMode m.payload == 2 && !qReq s (pidx m.sender) (cTileQ m.payload))) = false := by
    by_cases h : cMode m.payload = 2
    · simp [hout, htile h]
    · simp [hout, h]
  have hstats' : (decide (cStats m.payload ≠ 0) && !inReq s (pidx m.sender) (cStats m.payload) ((getQ s (cOut m.payload)).n * 16384)) = false := by
    by_cases h : cStats m.payload = 0
    · simp [h]
    · simp [hstats h]
  have hrcv' : (!isEth (fld m 0 1) && decide (rcvOwner s (fld m 0 1 / 4) ≠ 0) && decide (rcvOwner s (fld m 0 1 / 4) ≠ pidx m.sender + 1)) = false := by
    cases h : isEth (fld m 0 1) with
    | true => rfl
    | false => rcases hrcv h with h' | h' <;> simp [h']
  have hbuf : (if isEth (fld m 0 1) then !inReq s (pidx m.sender) (field (cImage m.payload) 0 6) ((getQ s (cOut m.payload)).n * field (cImage m.payload) 20 4)
      else cMode m.payload != 2 && !imgIn s (pidx m.sender) (cImage m.payload)) = false := by
    cases h : isEth (fld m 0 1) with
    | true => simp [heth h]
    | false =>
      by_cases h2 : cMode m.payload = 2
      · simp [h2]
      · simp [himg h h2]
  have hslow : ¬ (cMode m.payload ≠ 1 ∧ 1200000000 < cRate m.payload) := fun h => absurd (hrate h.1).1 (Nat.not_le.2 h.2)
  have hslow' : ¬ (cMode m.payload ≠ 1 ∧ 4000000000 < ispRate s + cRate m.payload) := fun h => absurd (hrate h.1).2 (Nat.not_le.2 h.2)
  unfold ownCaptureOpen
  simp only [show (pendOf s 0x0600 m).party = pidx m.sender from rfl, captureBad_atTaking, qReq_atTaking, inReq_atTaking, imgIn_atTaking,
    rcvOwner_atTaking, ispRate_atTaking, getStr_atTaking, getQ_atTaking, hqueues, hbuf, hstats', hrcv', refusedBy_cons_false, refusedBy_nil,
    if_neg hslow, if_neg hslow', hfree, ne_eq, not_true_eq_false, if_false]
  exact checked_of_good hgood _ _

theorem captureOpen_opens (ht : Taken 0x0600 isParty (lenIs 64) m s)
    (hown : ownCaptureOpen m (pendOf s 0x0600 m) (atTaking m s) = say ok (strOpened m (atTaking m s))) :
    Says id (.captureOpen m) 0x0600 m s ok fun r u => getStr u (fld m 0 1) = { owner := pidx m.sender + 1, conf := m.payload } ∧
      (∀ j, j ≠ fld m 0 1 → getStr u j = getStr s j) ∧ u = { r with cap := u.cap, pw := u.pw } ∧
      (isEth (fld m 0 1) = true ∨ tget s.pw.blocks (7 * 65536 + fld m 0 1 / 4) ≠ 2 → u.pw = r.pw ∧ u.cap.upAt = r.cap.upAt) ∧
      (isEth (fld m 0 1) = false → tget s.pw.blocks (7 * 65536 + fld m 0 1 / 4) = 2 →
        tget u.pw.blocks (7 * 65536 + fld m 0 1 / 4) = 0 ∧ tget u.cap.upAt (fld m 0 1 / 4) = s.ktime) := by
  obtain ⟨-, hon, hoff⟩ := rcvUp_effect (fld m 0 1 / 4)
    (modStr (atTaking m s) (fld m 0 1) fun _ => { owner := pidx m.sender + 1, conf := m.payload })
  refine says_of_own (own := ownCaptureOpen) (u := strOpened m (atTaking m s)) rfl ht (by rwa [pendOf_atTaking])
    ⟨by rw [getStr_strOpened, if_pos rfl], fun j hj => by rw [getStr_strOpened, if_neg hj, getStr_atTaking], ?_, ?_, ?_⟩
  · unfold strOpened rcvUp
    split <;> rfl
  · intro h
    refine hon ?_
    rcases h with h | h
    · exact Or.inl (by simp only [isEth, decide_eq_true_eq] at h; omega)
    · exact Or.inr (by rw [← atTaking_pw m s] at h; exact h)
  · intro h h'
    rw [← atTaking_ktime m s]
    exact hoff (by simp only [isEth, decide_eq_false_iff_not] at h; omega) (by rw [← atTaking_pw m s] at h'; exact h')

theorem captureClose_waits (ht : Taken 0x0601 isParty (lenIs 4) m s) (hroom : Room m s) (hk : fld m 0 1 ≤ 23) (hrsv : fld m 1 3 = 0)
    (hown : (getStr s (fld m 0 1)).owner = pidx m.sender + 1) :
    Waits (fun t => (List.range 24).foldl (fun t k => closeIfAsked k t) t) (.captureClose m) 0x0601 m s fun d r u => CapOnly r u ∧
      getStr u (fld m 0 1) = { getStr s (fld m 0 1) with closing := (getStr s (fld m 0 1)).closing ++ [d] } ∧
      ∀ j, j ≠ fld m 0 1 → getStr u j = getStr s j := by
  have hown' : ownCaptureClose m (pendOf s 0x0601 m) (atTaking m s) =
      (modStr (atTaking m s) (fld m 0 1) fun t => { t with closing := t.closing ++ [pendOf s 0x0601 m] }, none) := by
    unfold ownCaptureClose
    dsimp only
    rw [checked_of_good (by simp [Nat.not_lt.2 hk, rsvBad_eq_false.2 hrsv])]
    simp only [getStr_atTaking, hown, show (pendOf s 0x0601 m).party = pidx m.sender from rfl, Nat.succ_ne_zero, ne_eq, not_true_eq_false, if_false]
  refine ⟨modStr (atTaking m s) (fld m 0 1) fun t => { t with closing := t.closing ++ [pendOf s 0x0601 m] }, ?_, rfl,
    by rw [getStr_modStr_same, getStr_atTaking], fun j hj => by rw [getStr_modStr_ne _ _ hj, getStr_atTaking]⟩
  exact congrArg (fun t => (Host.Outcome.next ((List.range 24).foldl (fun t k => closeIfAsked k t) t) : Res)) (serve_of_waits ht hroom hown')

theorem captureStats_says (ht : Taken 0x0602 isParty (lenIs 4) m s) (hk : fld m 0 1 ≤ 23) (hclear : fld m 1 1 < 2) (hrsv : fld m 2 2 = 0)
    (hown : (getStr s (fld m 0 1)).owner = pidx m.sender + 1) :
    Says id (.captureStats m) 0x0602 m s (okWith (captureStats s (fld m 0 1))) fun r u => CapOnly r u ∧
      (∀ j, j ≠ fld m 0 1 → getStr u j = getStr s j) ∧
      let x := getStr s (fld m 0 1)
      let g := afterRead (fld m 1 1)
      getStr u (fld m 0 1) = { x with dropped := g x.dropped, short := g x.short, error := g x.error, tiles := g x.tiles } := by
  refine says_of_own (own := ownCaptureStats) (u := modStr (atTaking m s) (fld m 0 1) fun x => { x with
    dropped := afterRead (fld m 1 1) x.dropped, short := afterRead (fld m 1 1) x.short, error := afterRead (fld m 1 1) x.error
    tiles := afterRead (fld m 1 1) x.tiles }) rfl ht ?_
    ⟨rfl, fun j hj => by rw [getStr_modStr_ne _ _ hj, getStr_atTaking], by rw [getStr_modStr_same, getStr_atTaking]⟩
  unfold ownCaptureStats
  dsimp only
  rw [checked_of_good (by simp [Nat.not_lt.2 hk, Nat.not_le.2 hclear, rsvBad_eq_false.2 hrsv])]
  simp only [getStr_atTaking, hown, pendOf_atTaking, show (pendOf s 0x0602 m).party = pidx m.sender from rfl, Nat.succ_ne_zero, ne_eq,
    not_true_eq_false, if_false, captureStats_atTaking]
  by_cases h : fld m 1 1 = 1
  · simp only [h, if_true, afterRead]
  · simp only [h, if_false, read_eq_afterRead h]

theorem memNat_atTaking (m : Msg) (s : State) (a n : Nat) : memNat (atTaking m s) a n = memNat s a n := by simp [memNat]

theorem ispTune_says (ht : Taken 0x0603 isParty (lenIs 16) m s) (hk : fld m 0 1 ≤ 23) (hrsv : fld m 1 3 = 0) (hn : 64 ≤ fld m 4 4)
    (hn' : fld m 4 4 ≤ 65536) (hal : fld m 8 6 % 64 = 0) (hrsv' : fld m 14 2 = 0)
    (hin : inReq s (pidx m.sender) (fld m 8 6) (fld m 4 4) = true) (hown : (getStr s (fld m 0 1)).owner = pidx m.sender + 1)
    (hmode : cMode (getStr s (fld m 0 1)).conf ≠ 1) (hmagic : memNat s (fld m 8 6) 4 = 0x5A495350) (hlen : memNat s (fld m 8 6 + 4) 4 = fld m 4 4) :
    Says id (.ispTune m) 0x0603 m s ok fun r u => CapOnly r u ∧ (∀ j, j ≠ fld m 0 1 → getStr u j = getStr s j) ∧
      getStr u (fld m 0 1) = { getStr s (fld m 0 1) with tuneNext := some (memRead s (fld m 8 6) (fld m 4 4)) } := by
  refine says_of_own (own := ownIspTune) (u := modStr (atTaking m s) (fld m 0 1) fun t => { t with
    tuneNext := some (memRead s (fld m 8 6) (fld m 4 4)) }) rfl ht ?_
    ⟨rfl, fun j hj => by rw [getStr_modStr_ne _ _ hj, getStr_atTaking], by rw [getStr_modStr_same, getStr_atTaking]⟩
  unfold ownIspTune
  dsimp only
  rw [checked_of_good (by simp [Nat.not_lt.2 hk, Nat.not_lt.2 hn, Nat.not_lt.2 hn', hal, rsvBad_eq_false.2 hrsv, rsvBad_eq_false.2 hrsv'])]
  simp only [getStr_atTaking, hown, pendOf_atTaking, show (pendOf s 0x0603 m).party = pidx m.sender from rfl, inReq_atTaking, hin, hmode,
    memNat_atTaking, hmagic, hlen, memRead_atTaking, Nat.succ_ne_zero, Bool.not_true, Bool.false_eq_true, ne_eq, not_true_eq_false, and_false, or_self,
    if_false]

/-! ### Fusion -/

theorem fusOpen_says (ht : Taken 0x0610 isParty (lenIs 64) m s) (hfree : (getFus s).owner = 0) (hgood : firstBad (fusBad s m) = none)
    (hmeas : qReq s (pidx m.sender) (fMeas m.payload) = true) (hout : qReq s (pidx m.sender) (fOut m.payload) = true)
    (hin : inReq s (pidx m.sender) (fld m 8 6) (((getQ s (fOut m.payload)).n - 1) * fld m 16 4 + 64 * (fMax m.payload + 1)) = true) :
    Says id (.fusOpen m) 0x0610 m s ok fun r u => CapOnly r u ∧ getFus u =
      { owner := pidx m.sender + 1, conf := m.payload, regAt := s.ktime, poses := [(s.ktime, List.replicate 6 0#32)] } := by
  have hbad : fusBad (atTaking m s) m = fusBad s m := by simp [fusBad]
  refine says_of_own (own := ownFusOpen) (u := modFus (atTaking m s) fun _ =>
    { owner := pidx m.sender + 1, conf := m.payload, regAt := s.ktime, poses := [(s.ktime, List.replicate 6 0#32)] }) rfl ht ?_ ⟨rfl, rfl⟩
  unfold ownFusOpen
  simp only [getFus_atTaking, hfree, hbad, pendOf_atTaking, show (pendOf s 0x0610 m).party = pidx m.sender from rfl, qReq_atTaking, hmeas, hout,
    getQ_atTaking, inReq_atTaking, hin, atTaking_ktime, ne_eq, not_true_eq_false, if_false, Bool.not_true, Bool.or_self, refusedBy_cons_false,
    refusedBy_nil]
  exact checked_of_good hgood _ _

section
variable {code : Nat} {allow : Nat → Bool} {len : Msg → Bool} {own : Own} {u : State}

/-- A message that no PENDING answers, as its own checks find it. -/
theorem serveAs_of_own {x : State × Option Ans} (ht : Taken code allow len m s)
    (hown : own m { pendOf s code m with notice := false } (atTaking m s) = x) : serveAs false code allow len own m s =
      (x.2.elim (modParty x.1 (pidx m.sender) fun y => { y with rung := false }) fun a => answer (pidx m.sender) code m.tag.toNat a x.1) := by
  obtain ⟨hserved, hact, hready, hheader, hallow, hfrozen⟩ := ht
  have hearly : (!(atTaking m s).boot.ready && !earlyMsg code) = false := by
    rcases hready with h | h <;> simp [h]
  have hthawed : (decide ((getParty (atTaking m s) (pidx m.sender)).frozen ≠ 0) && !frozenMsg code) = false := by
    rcases hfrozen with h | h <;> simp [h]
  have hclosed : (tookTurn (pidx m.sender) s).firm.act ≠ .open_ := hact
  have hpend := pendOf_atTaking m m s code
  unfold atTaking at hown hearly hthawed hpend
  simp only [serveAs, hserved, hclosed, hearly, hheader, hallow, hthawed, hpend, hown, Bool.and_false, Bool.not_true, Bool.false_eq_true, if_false]
  obtain ⟨t, _ | a⟩ := x <;> rfl

end

theorem fusClose_says (ht : Taken 0x0611 isParty (lenIs 0) m s) (hown : (getFus s).owner = pidx m.sender + 1) (hwait : (getFus s).wait = none) :
    Says id (.fusClose m) 0x0611 m s ok fun r u => CapOnly r u ∧ getFus u = {} := by
  refine ⟨closeFus (atTaking m s), ?_, rfl, rfl⟩
  show (Host.Outcome.next (serveAs false 0x0611 isParty (lenIs 0) ownFusClose m s) : Res) = _
  have h : ownFusClose m { pendOf s 0x0611 m with notice := false } (atTaking m s) = say ok (closeFus (atTaking m s)) := by
    unfold ownFusClose
    simp only [getFus_atTaking, hown, hwait, show (pendOf s 0x0611 m).party = pidx m.sender from rfl, ne_eq, not_true_eq_false, if_false,
      Option.isNone_none, if_true]
  rw [serveAs_of_own ht h]
  rfl

theorem fusClose_runs (ht : Taken 0x0611 isParty (lenIs 0) m s) (hown : (getFus s).owner = pidx m.sender + 1) (hwait : (getFus s).wait ≠ none) :
    Runs (.fusClose m) s fun t => getFus t = { getFus s with closing := some { pendOf s 0x0611 m with notice := false } } := by
  have h : ownFusClose m { pendOf s 0x0611 m with notice := false } (atTaking m s) =
      (modFus (atTaking m s) fun f => { f with closing := some { pendOf s 0x0611 m with notice := false } }, none) := by
    unfold ownFusClose
    simp only [getFus_atTaking, hown, show (pendOf s 0x0611 m).party = pidx m.sender from rfl, ne_eq, not_true_eq_false, if_false,
      Option.isNone_iff_eq_none, hwait]
  refine ⟨_, congrArg Host.Outcome.next (serveAs_of_own ht h), ?_⟩
  rw [← getFus_atTaking m s]
  rfl

theorem fusTransformLoad_says (ht : Taken 0x0612 isParty (lenIs 8) m s) (hal : fld m 0 6 % 64 = 0) (hk : fld m 6 1 ≤ 31) (hrsv : fld m 7 1 = 0)
    (hown : (getFus s).owner = pidx m.sender + 1) (hin : inReq s (pidx m.sender) (fld m 0 6) 128 = true) {e : List Byte}
    (he : memRead s (fld m 0 6) 128 = e) (hgood : xfBad e = none)
    (htable : field e 84 1 = 1 → inReq s (pidx m.sender) (field e 88 6) (field e 96 4) = true) :
    Says id (.fusTransformLoad m) 0x0612 m s ok fun r u => CapOnly r u ∧ (getFus u).gen = ((getFus s).gen + 1) % 2 ^ 32 ∧
      tget (getFus u).xf (fld m 6 1) = (if field e 84 1 = 0 then [] else e) ∧
      getFus u = { getFus s with gen := (getFus u).gen, xf := (getFus u).xf } ∧
      Logs 0x9013 srcAfzan (leBytes 1 (fld m 6 1) ++ leBytes 4 (field e 100 4) ++ leBytes 4 (((getFus s).gen + 1) % 2 ^ 32)) r u := by
  let g := ((getFus s).gen + 1) % 2 ^ 32
  refine says_of_own (own := ownFusTransformLoad) (u := event srcAfzan 0x9013 (pidx m.sender) (leBytes 1 (fld m 6 1) ++ leBytes 4 (field e 100 4) ++ leBytes 4 g)
    (modFus (atTaking m s) fun f => { f with gen := g, xf := tput f.xf (fld m 6 1) (if field e 84 1 = 0 then [] else e) })) rfl ht ?_
    ⟨?_, rfl, tget_tput_same _ _ _, ?_, logs_event (by simp) rfl rfl rfl rfl⟩
  · have hfine : ¬ (field e 84 1 = 1 ∧ (!inReq s (pidx m.sender) (field e 88 6) (field e 96 4)) = true) := fun h => by simp [htable h.1] at h
    unfold ownFusTransformLoad
    dsimp only
    rw [checked_of_good (by simp [hal, Nat.not_lt.2 hk, rsvBad_eq_false.2 hrsv])]
    simp only [getFus_atTaking, hown, pendOf_atTaking, show (pendOf s 0x0612 m).party = pidx m.sender from rfl, inReq_atTaking, hin, memRead_atTaking, he,
      hgood, if_neg hfine, ne_eq, not_true_eq_false, Bool.not_true, Bool.false_eq_true, or_self, if_false]
    rfl
  · exact capOnly_event (capOnly_modFus _ _) _ _ _ _
  · rw [← getFus_atTaking m s]
    rfl

/-- Settles O45: each message passes its checks at its taking, and does its one step on its stream, its receiver or the engine. -/
theorem captureAndFusionMessages : Obligations.CaptureAndFusionMessages :=
  ⟨fun _ _ ht hgood hout htile heth himg hstats hrcv hrate hfree =>
      captureOpen_opens ht (captureOpen_own hgood hout htile heth himg hstats hrcv hrate hfree),
    fun _ _ ht hroom hk hrsv hown => captureClose_waits ht hroom hk hrsv hown,
    fun _ _ ht hk hclear hrsv hown => captureStats_says ht hk hclear hrsv hown,
    fun _ _ ht hk hrsv hn hn' hal hrsv' hin hown hmode hmagic hlen => ispTune_says ht hk hrsv hn hn' hal hrsv' hin hown hmode hmagic hlen,
    fun _ _ ht hfree hgood hmeas hout hin => fusOpen_says ht hfree hgood hmeas hout hin, fun _ _ ht hown hwait => fusClose_says ht hown hwait,
    fun _ _ ht hown hwait => fusClose_runs ht hown hwait,
    fun _ _ ht hal hk hrsv hown hin hgood htable => fusTransformLoad_says ht hal hk hrsv hown hin rfl hgood htable⟩

end Sys2Proof.Machine

/-! Messages of the bridge and of the gateway (R456, R465, R466, R470, R472, R476 to R478). -/

namespace Sys2Proof.Machine
open Sys2Proof.Claims

variable {m : Msg} {s : State}

/-! ### Windows and the ring -/

@[simp] theorem getWin_atTaking (m : Msg) (s : State) (i : Nat) : getWin (atTaking m s) i = getWin s i := by simp [getWin]
@[simp] theorem getPcie_atTaking (m : Msg) (s : State) (p : Nat) : getPcie (atTaking m s) p = getPcie s p := by simp [getPcie]
@[simp] theorem qOwner_atTaking (m : Msg) (s : State) (q : Nat) : qOwner (atTaking m s) q = qOwner s q := by simp [qOwner]
theorem winBad_atTaking (m m' : Msg) (s : State) : winBad (atTaking m s) m' = winBad s m' := by simp [winBad]
theorem winTarget_atTaking (m : Msg) (s : State) (p a n : Nat) : winTarget (atTaking m s) p a n = winTarget s p a n := by
  have hmine : inGrantNoPool (atTaking m s) p a n = inGrantNoPool s p a n := by simp [inGrantNoPool]
  simp only [winTarget, hmine, estOf_atTaking, getEst_atTaking, qOwner_atTaking]
theorem winAllowed_atTaking (m m' : Msg) (s : State) : winAllowed (atTaking m s) m' = winAllowed s m' := by
  simp only [winAllowed, winTarget_atTaking, atTaking_cross]

theorem find_first {n base w : Nat} {f : Nat → Bool} (hw : base ≤ w) (hw' : w < base + n) (hf : f w = true)
    (hfirst : ∀ j, base ≤ j → j < w → f j = false) : ((List.range n).map (· + base)).find? f = some w := by
  have hfind : (List.range n).find? (f ∘ (· + base)) = some (w - base) := by
    refine List.find?_range_eq_some.2 ⟨(congrArg f (Nat.sub_add_cancel hw)).trans hf, List.mem_range.2 (by omega), fun j hj => ?_⟩
    simp [hfirst (j + base) (Nat.le_add_left _ _) (by omega)]
  rw [List.find?_map, hfind]
  exact congrArg some (Nat.sub_add_cancel hw)

/-- The window that a WINDOW_OPEN gives. -/
def winOf (m : Msg) : Window :=
  { live := true, owner := fld m 0 1, device := fld m 2 1, flags := fld m 3 1, loc := fld m 8 8, remote := fld m 16 8
    timeout := if fld m 4 4 = 0 then 10000 else fld m 4 4, size := winBytes m
    errQ := if bitOf (fld m 28 4) 31 then fld m 28 4 % 2 ^ 18 + 1 else 0 }

/-- The part with that window open in slot `w`. -/
def winOpened (m : Msg) (w : Nat) (s : State) : State := winEvent w 0 (modCross s fun c => { c with win := tput c.win w (winOf m) })

theorem winOpened_effect (m : Msg) (w : Nat) (s : State) : WinOnly s (winOpened m w s) ∧ (∀ j, j ≠ w → getWin (winOpened m w s) j = getWin s j) ∧
    getWin (winOpened m w s) w = winOf m ∧
    Logs 0x5005 (0x8000 + w / 128) (leBytes 1 w ++ leBytes 1 (fld m 0 1) ++ leBytes 1 0) s (winOpened m w s) := by
  have hown : (tget (modCross s fun c => { c with win := tput c.win w (winOf m) }).cross.win w).owner = fld m 0 1 :=
    congrArg Window.owner (tget_tput_same _ _ _)
  unfold winOpened winEvent
  rw [hown]
  exact ⟨rfl, fun j hj => tget_tput_ne _ _ hj, tget_tput_same _ _ _, logs_event (by simp) rfl rfl rfl rfl⟩

theorem windowOpen_says {w : Nat} (ht : Taken 0x0900 isParty (lenIs 32) m s) (hgood : firstBad (winBad s m) = none)
    (hfor : pidx m.sender = 16 ∨ fld m 0 1 = pidx m.sender)
    (hq : bitOf (fld m 28 4) 31 = true → qReq s (fld m 0 1) (fld m 28 4 % 2 ^ 18) = true) (hallowed : winAllowed s m = true) :
    let k := fld m 1 1
    let base := (if bitOf k 1 then 128 else 0) + (if bitOf k 0 then 64 else 0)
    let a := fld m (if bitOf k 0 then 16 else 8) 8
    let start := fun (x : Window) => if bitOf k 0 then x.remote else x.loc
    (∀ j, base ≤ j → j < base + 64 → (getWin s j).live = true →
      a + winBytes m ≤ start (getWin s j) ∨ start (getWin s j) + (getWin s j).size ≤ a) →
    base ≤ w → w < base + 64 → (getWin s w).live = false → (∀ j, base ≤ j → j < w → (getWin s j).live = true) →
    (bitOf k 1 = true → 2 ≤ s.cross.count) →
    Says id (.windowOpen m) 0x0900 m s (okWith (leBytes 1 w)) fun r u => WinOnly r u ∧ (∀ j, j ≠ w → getWin u j = getWin s j) ∧
      getWin u w = { live := true, owner := fld m 0 1, device := fld m 2 1, flags := fld m 3 1, loc := fld m 8 8, remote := fld m 16 8
                     timeout := if fld m 4 4 = 0 then 10000 else fld m 4 4, size := winBytes m
                     errQ := if bitOf (fld m 28 4) 31 then fld m 28 4 % 2 ^ 18 + 1 else 0 } ∧
      Logs 0x5005 (0x8000 + w / 128) (leBytes 1 w ++ leBytes 1 (fld m 0 1) ++ leBytes 1 0) r u := by
  intro k base a start hapart hlo hhi hfree hfirst hring
  refine says_of_own (own := ownWindowOpen) (u := winOpened m w (atTaking m s)) rfl ht ?_ ?_
  · have hmine : (decide (pidx m.sender ≠ 16) && decide (fld m 0 1 ≠ pidx m.sender)) = false := by rcases hfor with h | h <;> simp [h]
    have hq' : (bitOf (fld m 28 4) 31 && !qReq s (fld m 0 1) (fld m 28 4 % 2 ^ 18)) = false := by
      cases h : bitOf (fld m 28 4) 31 with
      | false => rfl
      | true =>
        rw [hq h]
        rfl
    have hoverlap : (((List.range 64).map (· + base)).any fun id => (getWin s id).live && decide (start (getWin s id) < a + winBytes m) &&
        decide (a < start (getWin s id) + (getWin s id).size)) = false := by
      rw [List.any_eq_false]
      intro j hj
      obtain ⟨i, hi, rfl⟩ := List.mem_map.1 hj
      have hi := List.mem_range.1 hi
      cases hlive : (getWin s (i + base)).live with
      | false => simp
      | true =>
        have := hapart (i + base) (Nat.le_add_left _ _) (by omega) hlive
        simp only [Bool.true_and, Bool.and_eq_true, decide_eq_true_eq, not_and, Nat.not_lt]
        omega
    have hslot : ((List.range 64).map (· + base)).find? (fun id => !(getWin s id).live) = some w :=
      find_first hlo hhi (by simp [hfree]) fun j hj hj' => by simp [hfirst j hj hj']
    have hready : ¬ (bitOf k 1 = true ∧ s.cross.count < 2) := fun h => absurd (hring h.1) (Nat.not_le.2 h.2)
    unfold ownWindowOpen
    simp only [winBad_atTaking, pendOf_atTaking, show (pendOf s 0x0900 m).party = pidx m.sender from rfl, hmine, qReq_atTaking, hq', winAllowed_atTaking,
      hallowed, getWin_atTaking, atTaking_cross]
    rw [checked_of_good hgood]
    simp only [Bool.not_true, refusedBy_cons_false]
    rw [show (((List.range 64).map (· + _)).any _) = false from hoverlap, refusedBy_cons_false, refusedBy_nil,
      show ((List.range 64).map (· + _)).find? _ = some w from hslot]
    dsimp only
    rw [if_neg hready]
    rfl
  · obtain ⟨honly, hother, hwin, hlogs⟩ := winOpened_effect m w (atTaking m s)
    exact ⟨honly, fun j hj => (hother j hj).trans (getWin_atTaking m s j), hwin, hlogs⟩

theorem getWin_modWin (f : Window → Window) (s : State) (w j : Nat) :
    getWin (modCross s fun c => { c with win := tmod c.win w f }) j = if j = w then f (getWin s w) else getWin s j := tget_tmod _ _ _ _
theorem getWin_putWin (x : Window) (s : State) (w j : Nat) :
    getWin (modCross s fun c => { c with win := tput c.win w x }) j = if j = w then x else getWin s j := tget_tput _ _ _ _
theorem getPcie_modPort (f : PciePort → PciePort) (s : State) (p j : Nat) :
    getPcie (modCross s fun c => { c with port := tmod c.port p f }) j = if j = p then f (getPcie s p) else getPcie s j := tget_tmod _ _ _ _

/-- A window that closes to new transactions, with its event the first time. -/
theorem closeWin_effect {w : Nat} {s : State} (hlive : (getWin s w).live = true) : WinOnly s (closeWin w s) ∧
    (∀ j, getWin (closeWin w s) j = if j = w then { getWin s w with closing := true } else getWin s j) ∧
    (closeWin w s).ktime = s.ktime ∧ ((getWin s w).closing = false → (closeWin w s).caddy =
      (event (0x8000 + w / 128) 0x5005 (getWin s w).owner (leBytes 1 w ++ leBytes 1 (getWin s w).owner ++ leBytes 1 1) s).caddy) := by
  have hlive' : (tget s.cross.win w).live = true := hlive
  unfold closeWin
  dsimp only
  cases hclosing : (getWin s w).closing with
  | true =>
    have hclosing' : (tget s.cross.win w).closing = true := hclosing
    rw [if_pos (by simp [hclosing'])]
    refine ⟨rfl, fun j => ?_, rfl, nofun⟩
    by_cases hj : j = w
    · rw [if_pos hj, hj, ← hclosing]
    · rw [if_neg hj]
  | false =>
    have hclosing' : (tget s.cross.win w).closing = false := hclosing
    rw [if_neg (by simp [hlive', hclosing'])]
    have hown : ∀ x : Window, (tget (tput s.cross.win w x) w).owner = x.owner := fun x => congrArg Window.owner (tget_tput_same _ _ _)
    unfold winEvent
    dsimp only
    rw [hown]
    exact ⟨rfl, fun j => getWin_putWin { getWin s w with closing := true } s w j, rfl, fun _ => rfl⟩

/-- A window that closes, and the message that waits for it. -/
def winClosing (w : Nat) (d : Pend) (s : State) : State :=
  modCross (closeWin w s) fun c => { c with win := tmod c.win w fun x => { x with pend := x.pend ++ [d] } }

theorem winClosing_effect {w : Nat} (d : Pend) {s : State} (hlive : (getWin s w).live = true) : WinOnly s (winClosing w d s) ∧
    (∀ j, j ≠ w → getWin (winClosing w d s) j = getWin s j) ∧
    getWin (winClosing w d s) w = { getWin s w with closing := true, pend := (getWin s w).pend ++ [d] } ∧
    ((getWin s w).closing = false →
      Logs 0x5005 (0x8000 + w / 128) (leBytes 1 w ++ leBytes 1 (getWin s w).owner ++ leBytes 1 1) s (winClosing w d s)) := by
  obtain ⟨honly, hwin, hktime, hcaddy⟩ := closeWin_effect hlive
  unfold winClosing
  generalize closeWin w s = t at honly hwin hktime hcaddy ⊢
  refine ⟨(congrArg (fun v : State => modCross v fun c => { c with win := tmod c.win w fun x => { x with pend := x.pend ++ [d] } }) honly).trans rfl,
    fun j hj => ?_, ?_, fun hopen => logs_event (by simp) rfl rfl (hcaddy hopen) hktime⟩
  · rw [getWin_modWin, if_neg hj, hwin, if_neg hj]
  · rw [getWin_modWin, if_pos rfl, hwin, if_pos rfl]

theorem windowClose_waits (ht : Taken 0x0901 isParty (lenIs 8) m s) (hroom : Room m s) (hrsv : fld m 1 7 = 0)
    (hlive : (getWin s (fld m 0 1)).live = true) (hfor : pidx m.sender = 16 ∨ (getWin s (fld m 0 1)).owner = pidx m.sender) :
    Waits id (.windowClose m) 0x0901 m s fun d r u => WinOnly r u ∧ (∀ j, j ≠ fld m 0 1 → getWin u j = getWin s j) ∧
      getWin u (fld m 0 1) = { getWin s (fld m 0 1) with closing := true, pend := (getWin s (fld m 0 1)).pend ++ [d] } ∧
      ((getWin s (fld m 0 1)).closing = false → Logs 0x5005 (0x8000 + fld m 0 1 / 128)
        (leBytes 1 (fld m 0 1) ++ leBytes 1 (getWin s (fld m 0 1)).owner ++ leBytes 1 1) r u) := by
  refine waits_of_own (own := ownWindowClose) (u := winClosing (fld m 0 1) (pendOf s 0x0901 m) (atTaking m s)) rfl ht hroom ?_ ?_
  · have hmine : (decide (pidx m.sender ≠ 16) && decide ((getWin s (fld m 0 1)).owner ≠ pidx m.sender)) = false := by rcases hfor with h | h <;> simp [h]
    unfold ownWindowClose
    dsimp only
    rw [checked_of_good (by simp [rsvBad_eq_false.2 hrsv])]
    simp only [getWin_atTaking, hlive, show (pendOf s 0x0901 m).party = pidx m.sender from rfl, hmine, Bool.not_true, refusedBy_cons_false, refusedBy_nil]
    rfl
  · have h := winClosing_effect (w := fld m 0 1) (pendOf s 0x0901 m) (s := atTaking m s) (by rw [getWin_atTaking]; exact hlive)
    simp only [getWin_atTaking] at h
    exact h

/-- The ring's links that are up, taken down. -/
def ringDown (s : State) : State := [1, 2].foldl (fun s p => if (getPcie s p).up then linkDown p s else s) s

theorem linkDown_idle {p : Nat} {s : State} (hout : s.cross.out = []) :
    linkDown p s = crossEvent p 1 (modBoot (modCross s fun c => { c with port := tmod c.port p fun x => { x with up := false, held := false } })
      fun b => { b with linkUp := tput b.linkUp (8 + p) 0 }) := by
  unfold linkDown
  simp only [hout, List.filter_nil, List.foldl_nil]

/-- A port that is taken down, where nothing is outstanding. -/
theorem linkDown_port {p : Nat} {s : State} (hout : s.cross.out = []) : (linkDown p s).cross.out = [] ∧
    (∀ j, getPcie (linkDown p s) j = if j = p then { getPcie s p with up := false, held := false } else getPcie s j) ∧
    ∀ k, tget (linkDown p s).boot.linkUp k = if k = 8 + p then 0 else tget s.boot.linkUp k := by
  rw [linkDown_idle hout]
  exact ⟨hout, fun j => getPcie_modPort (fun x => { x with up := false, held := false }) s p j, fun k => tget_tput _ _ _ _⟩

theorem ringDown_port {p : Nat} {s : State} (hout : s.cross.out = []) (hp : p = 1 ∨ p = 2) (hup : (getPcie s p).up = true) :
    getPcie (ringDown s) p = { getPcie s p with up := false, held := false } ∧ tget (ringDown s).boot.linkUp (8 + p) = 0 := by
  obtain ⟨hout1, hport1, hlink1⟩ := linkDown_port (p := 1) hout
  unfold ringDown
  rw [List.foldl_cons, List.foldl_cons, List.foldl_nil]
  rcases hp with rfl | rfl
  · rw [if_pos hup]
    obtain ⟨-, hport2, hlink2⟩ := linkDown_port (p := 2) hout1
    split
    · exact ⟨by rw [hport2, if_neg (by decide), hport1, if_pos rfl], by rw [hlink2, if_neg (by decide), hlink1, if_pos rfl]⟩
    · exact ⟨by rw [hport1, if_pos rfl], by rw [hlink1, if_pos rfl]⟩
  · split
    · obtain ⟨-, hport2, hlink2⟩ := linkDown_port (p := 2) hout1
      have hsame : getPcie (linkDown 1 s) 2 = getPcie s 2 := by rw [hport1, if_neg (by decide)]
      rw [hsame, if_pos hup]
      exact ⟨by rw [hport2, if_pos rfl, hsame], by rw [hlink2, if_pos rfl]⟩
    · obtain ⟨-, hport2, hlink2⟩ := linkDown_port (p := 2) hout
      exact ⟨by rw [hport2, if_pos rfl], by rw [hlink2, if_pos rfl]⟩

theorem ringDown_of_down {s : State} (h1 : (getPcie s 1).up = false) (h2 : (getPcie s 2).up = false) : ringDown s = s := by
  unfold ringDown
  simp [h1, h2]

theorem peerLink_waits (ht : Taken 0x0902 isGs (lenIs 8) m s) (hroom : Room m s) (hn : 1 ≤ fld m 0 1) (hn' : fld m 0 1 ≤ 4)
    (hdev : fld m 1 1 < fld m 0 1) (hrsv : fld m 2 6 = 0) (hnone : ∀ x ∈ s.cross.win, x.2.live = true → x.1 < 128) :
    Waits linkSet (.peerLink m) 0x0902 m s fun d r u => u.cross.count = fld m 0 1 ∧ u.cross.device = fld m 1 1 ∧ u.cross.linkPend = some d ∧
      ((getPcie s 1).up = false → (getPcie s 2).up = false →
        u = { r with cross := { r.cross with count := fld m 0 1, device := fld m 1 1, linkPend := some d } }) ∧
      (s.cross.out = [] → ∀ p, p = 1 ∨ p = 2 → (getPcie s p).up = true →
        getPcie u p = { getPcie s p with up := false, held := false } ∧ tget u.boot.linkUp (8 + p) = 0) := by
  have hown : ownPeerLink m (pendOf s 0x0902 m) (atTaking m s) = (modCross (ringDown (atTaking m s)) fun c =>
      { c with count := fld m 0 1, device := fld m 1 1, linkPend := some (pendOf s 0x0902 m) }, none) := by
    have hring : (s.cross.win.any fun x => x.2.live && decide (128 ≤ x.1)) = false := by
      rw [List.any_eq_false]
      intro x hx
      cases hlive : x.2.live with
      | false => simp
      | true => simp [hnone x hx hlive]
    unfold ownPeerLink
    dsimp only
    rw [checked_of_good (by simp [Nat.ne_of_gt hn, Nat.not_lt.2 hn', Nat.not_le.2 hdev, rsvBad_eq_false.2 hrsv]), atTaking_cross, hring]
    rfl
  refine ⟨_, congrArg (fun t => (Host.Outcome.next (linkSet t) : Res)) (serve_of_waits ht hroom hown), rfl, rfl, rfl, fun h1 h2 => ?_, fun hout p hp hup => ?_⟩
  · rw [ringDown_of_down (by rw [getPcie_atTaking]; exact h1) (by rw [getPcie_atTaking]; exact h2)]
    rfl
  · rw [← getPcie_atTaking m s]
    exact ringDown_port (by rw [atTaking_cross]; exact hout) hp (by rw [getPcie_atTaking]; exact hup)

/-! ### CAN controllers, routing rules and TSN sections -/

@[simp] theorem getCan_atTaking (m : Msg) (s : State) (c : Nat) : getCan (atTaking m s) c = getCan s c := by simp [getCan]
@[simp] theorem getRule_atTaking (m : Msg) (s : State) (r : Nat) : getRule (atTaking m s) r = getRule s r := by simp [getRule]
theorem canBad_atTaking (m m' : Msg) (s : State) : canBad (atTaking m s) m' = canBad s m' := by simp [canBad]
theorem routeBad_atTaking (m m' : Msg) (s : State) : routeBad (atTaking m s) m' = routeBad s m' := by simp [routeBad]
theorem routeSrcOk_atTaking (m : Msg) (s : State) (p : Nat) (r : List Byte) : routeSrcOk (atTaking m s) p r = routeSrcOk s p r := by simp [routeSrcOk]
theorem routeDstOk_atTaking (m : Msg) (s : State) (p : Nat) (r : List Byte) : routeDstOk (atTaking m s) p r = routeDstOk s p r := by
  simp only [routeDstOk, qOwner_atTaking, getCan_atTaking, qReq_atTaking, inReq_atTaking, getQ_atTaking, getStr_atTaking]

/-- A controller as CAN_OPEN opens it. -/
def canOf (m : Msg) : CanCtl :=
  { owner := pidx m.sender + 1, conf := m.payload, nom := (canNominal (canMode m.payload) (fld m 2 2)).getD (0, 0)
    dat := if canMode m.payload = 0 then (0, 0) else (canData (canMode m.payload) (fld m 4 2)).getD (0, 0) }

theorem canOpen_says (ht : Taken 0x0A00 isParty (lenIs 32) m s) (hc : fld m 0 1 < 12) (hfree : (getCan s (fld m 0 1)).owner = 0)
    (hgood : firstBad (canBad s m) = none) (hrx : canRxOn m.payload = true → qReq s (pidx m.sender) (canRx m.payload) = true ∧
      inReq s (pidx m.sender) (fld m 16 6) ((getQ s (canRx m.payload)).n * fld m 22 2) = true)
    (htx : canTxOn m.payload = true → qReq s (pidx m.sender) (canTx m.payload) = true) :
    Says id (.canOpen m) 0x0A00 m s ok fun r u => ∃ v, u = canFeed (fld m 0 1) v ∧ GwOnly r v ∧
      (∀ j, j ≠ fld m 0 1 → getCan v j = getCan s j) ∧
      getCan v (fld m 0 1) = { owner := pidx m.sender + 1, conf := m.payload, nom := (canNominal (canMode m.payload) (fld m 2 2)).getD (0, 0)
                               dat := if canMode m.payload = 0 then (0, 0) else (canData (canMode m.payload) (fld m 4 2)).getD (0, 0) } := by
  refine says_of_own (own := ownCanOpen) (u := canFeed (fld m 0 1) (modCan (atTaking m s) (fld m 0 1) fun _ => canOf m)) rfl ht ?_
    ⟨_, rfl, rfl, fun j hj => by rw [getCan_modCan_ne _ _ hj, getCan_atTaking], getCan_modCan_same _ _ _⟩
  have hrx' : (canRxOn m.payload && !qReq s (pidx m.sender) (canRx m.payload)) = false ∧
      (canRxOn m.payload && !inReq s (pidx m.sender) (fld m 16 6) ((getQ s (canRx m.payload)).n * fld m 22 2)) = false := by
    cases h : canRxOn m.payload with
    | false => exact ⟨rfl, rfl⟩
    | true => simp [hrx h]
  have htx' : (canTxOn m.payload && !qReq s (pidx m.sender) (canTx m.payload)) = false := by
    cases h : canTxOn m.payload with
    | false => rfl
    | true => simp [htx h]
  have hdat : (if canMode m.payload = 0 then some (0, 0) else canData (canMode m.payload) (fld m 4 2)).getD (0, 0) =
      if canMode m.payload = 0 then (0, 0) else (canData (canMode m.payload) (fld m 4 2)).getD (0, 0) := by split <;> rfl
  unfold ownCanOpen
  simp only [getCan_atTaking, hfree, canBad_atTaking, pendOf_atTaking, show (pendOf s 0x0A00 m).party = pidx m.sender from rfl, qReq_atTaking,
    inReq_atTaking, getQ_atTaking, hrx'.1, hrx'.2, htx', refusedBy_cons_false, refusedBy_nil, ne_eq, not_true_eq_false, and_false, if_false, hdat]
  exact checked_of_good hgood _ _

theorem canClose_says (ht : Taken 0x0A01 isParty (lenIs 1) m s) (hc : fld m 0 1 ≤ 11) (hown : (getCan s (fld m 0 1)).owner = pidx m.sender + 1) :
    Says id (.canClose m) 0x0A01 m s ok fun r u => GwOnly r u ∧ getCan u (fld m 0 1) = {} ∧
      ∀ j, j ≠ fld m 0 1 → getCan u j = getCan s j := by
  refine says_of_own (own := ownCanClose) (u := closeCan (fld m 0 1) (atTaking m s)) rfl ht ?_
    ⟨rfl, tget_tput_same _ _ _, fun j hj => (tget_tput_ne _ _ hj).trans (getCan_atTaking m s j)⟩
  unfold ownCanClose
  dsimp only
  rw [checked_of_good (by simp [Nat.not_lt.2 hc])]
  simp only [getCan_atTaking, hown, pendOf_atTaking, show (pendOf s 0x0A01 m).party = pidx m.sender from rfl, Nat.succ_ne_zero, ne_eq,
    not_true_eq_false, if_false]

/-- The slot of a rule, given or the first that is free. -/
theorem ruleSlot {i : Nat} (hgiven : fld m 0 2 ≠ 0xFFFF → i = fld m 0 2)
    (hfirst : fld m 0 2 = 0xFFFF → i < 4096 ∧ (getRule s i).owner = 0 ∧ ∀ j < i, (getRule s j).owner ≠ 0) :
    (if fld m 0 2 = 0xFFFF then (List.range 4096).find? fun i => decide ((getRule s i).owner = 0) else some (fld m 0 2)) = some i := by
  by_cases h : fld m 0 2 = 0xFFFF
  · obtain ⟨hi, hfree, hbusy⟩ := hfirst h
    rw [if_pos h]
    exact List.find?_range_eq_some.2 ⟨by simp [hfree], List.mem_range.2 hi, fun j hj => by simp [hbusy j hj]⟩
  · rw [if_neg h, hgiven h]

theorem routeSet_own {i : Nat} (hgood : firstBad (routeBad s m) = none) (hgiven : fld m 0 2 ≠ 0xFFFF → i = fld m 0 2)
    (hfirst : fld m 0 2 = 0xFFFF → i < 4096 ∧ (getRule s i).owner = 0 ∧ ∀ j < i, (getRule s j).owner ≠ 0)
    (hmine : (getRule s i).owner = 0 ∨ (getRule s i).owner = pidx m.sender + 1 ∨ pidx m.sender = 16) :
    ownRouteSet m (pendOf s 0x0A02 m) (atTaking m s) =
      let r := atTaking m s
      if fld m 2 1 == 1 then say (okWith (leBytes 2 i)) { r with gw := { r.gw with rule := tput r.gw.rule i {} } }
      else if !routeSrcOk s (pidx m.sender) m.payload || !routeDstOk s (pidx m.sender) m.payload then say (sts stDENIED) r
      else
        let t := sendBatch i (clearOut r)
        say (okWith (leBytes 2 i)) { t with gw := { t.gw with rule := tput t.gw.rule i { owner := pidx m.sender + 1, conf := m.payload } } } := by
  have hfree : ¬ ((getRule s i).owner ≠ 0 ∧ (getRule s i).owner ≠ pidx m.sender + 1 ∧ pidx m.sender ≠ 16) := by
    rintro ⟨h0, h1, h2⟩
    rcases hmine with h | h | h
    · exact h0 h
    · exact h1 h
    · exact h2 h
  unfold ownRouteSet
  dsimp only
  rw [checked_of_good (by rw [routeBad_atTaking]; exact hgood)]
  simp only [getRule_atTaking, ruleSlot hgiven hfirst, show (pendOf s 0x0A02 m).party = pidx m.sender from rfl, if_neg hfree, routeSrcOk_atTaking,
    routeDstOk_atTaking]

/-- What a rule's batch that is sent leaves. -/
theorem sendBatch_effect (i : Nat) (s : State) : GwOnly s (sendBatch i s) ∧ (∀ j, j ≠ i → getRule (sendBatch i s) j = getRule s j) ∧
    (sendBatch i s).gw = { s.gw with rule := (sendBatch i s).gw.rule, out := (sendBatch i s).gw.out } := by
  unfold sendBatch
  dsimp only
  split
  · exact ⟨rfl, fun _ _ => rfl, rfl⟩
  · exact ⟨rfl, fun j hj => getRule_modRule_ne (freeNum s).2 (fun x => { x with batch := [], seq := (x.seq + 1) % 256 }) hj, rfl⟩

section
variable {i : Nat} (ht : Taken 0x0A02 isParty (lenIs 64) m s) (hgood : firstBad (routeBad s m) = none) (hgiven : fld m 0 2 ≠ 0xFFFF → i = fld m 0 2)
  (hfirst : fld m 0 2 = 0xFFFF → i < 4096 ∧ (getRule s i).owner = 0 ∧ ∀ j < i, (getRule s j).owner ≠ 0)
  (hmine : (getRule s i).owner = 0 ∨ (getRule s i).owner = pidx m.sender + 1 ∨ pidx m.sender = 16)
include ht hgood hgiven hfirst hmine

theorem routeSet_clears (hdel : fld m 2 1 = 1) : Says id (.routeSet m) 0x0A02 m s (okWith (leBytes 2 i)) fun r u => GwOnly r u ∧ (getRule u i).owner = 0 ∧
      (getRule u i).conf = [] ∧ ∀ j, j ≠ i → getRule u j = getRule s j := by
  refine says_of_own (own := ownRouteSet) (u := { atTaking m s with gw := { (atTaking m s).gw with rule := tput (atTaking m s).gw.rule i {} } }) rfl ht ?_
    ⟨rfl, congrArg Rule.owner (tget_tput_same _ _ _), congrArg Rule.conf (tget_tput_same _ _ _),
      fun j hj => (tget_tput_ne _ _ hj).trans (getRule_atTaking m s j)⟩
  rw [pendOf_atTaking, routeSet_own hgood hgiven hfirst hmine, hdel]
  rfl

theorem routeSet_sets (hset : fld m 2 1 = 0) (hsrc : routeSrcOk s (pidx m.sender) m.payload = true)
    (hdst : routeDstOk s (pidx m.sender) m.payload = true) :
    Says id (.routeSet m) 0x0A02 m s (okWith (leBytes 2 i)) fun r u => GwOnly r u ∧ (∀ j, j ≠ i → getRule u j = getRule s j) ∧
        getRule u i = { owner := pidx m.sender + 1, conf := m.payload } ∧ u.gw.out = (sendBatch i (clearOut r)).gw.out ∧
        u.gw = { s.gw with rule := u.gw.rule, out := u.gw.out } := by
  obtain ⟨honly, hother, hgw⟩ := sendBatch_effect i (clearOut (atTaking m s))
  refine says_of_own (own := ownRouteSet) (u := { sendBatch i (clearOut (atTaking m s)) with gw := { (sendBatch i (clearOut (atTaking m s))).gw with
    rule := tput (sendBatch i (clearOut (atTaking m s))).gw.rule i { owner := pidx m.sender + 1, conf := m.payload } } }) rfl ht ?_
    ⟨?_, fun j hj => (tget_tput_ne _ _ hj).trans ((hother j hj).trans (getRule_atTaking m s j)), tget_tput_same _ _ _, rfl, ?_⟩
  · rw [pendOf_atTaking, routeSet_own hgood hgiven hfirst hmine, hset, hsrc, hdst]
    rfl
  · generalize sendBatch i (clearOut (atTaking m s)) = t at honly ⊢
    exact (congrArg (fun v : State => { v with gw := { t.gw with rule := tput t.gw.rule i { owner := pidx m.sender + 1, conf := m.payload } } }) honly).trans rfl
  · rw [← atTaking_gw m s]
    generalize sendBatch i (clearOut (atTaking m s)) = t at hgw ⊢
    exact (congrArg (fun g : Gateway => { g with rule := tput t.gw.rule i { owner := pidx m.sender + 1, conf := m.payload } }) hgw).trans rfl

end

theorem applySect_effect (s : State) (x : TsnSect) : GwOnly s (applySect s x) ∧ tget (applySect s x).gw.sect (x.type_ * 256 + x.port) = x.body ∧
    (∀ j, j ≠ x.port → getPort (applySect s x) j = getPort s j) ∧
    (x.type_ = 5 → (getPort (applySect s x) x.port) = { getPort s x.port with gateNext := some x.body }) := by
  unfold applySect
  generalize hkey : x.type_ * 256 + x.port = key
  dsimp only
  split
  · next h1 =>
    split <;> exact ⟨rfl, tget_tput_same _ _ _, fun j hj => getPort_modPort_ne s (fun p => { p with
      on := decide (Config.tsnField x.body 1 % 2 = 1), speed := Config.tsnField x.body 0 % 256
      up := p.up && decide ((getPort s x.port).speed = Config.tsnField x.body 0 % 256) }) hj, fun h => by omega⟩
  · exact ⟨rfl, tget_tput_same _ _ _, fun _ _ => rfl, fun h => by omega⟩
  · exact ⟨rfl, tget_tput_same _ _ _, fun _ _ => rfl, fun h => by omega⟩
  · exact ⟨rfl, tget_tput_same _ _ _, fun j hj => getPort_modPort_ne s (fun p => { p with gateNext := some x.body }) hj,
    fun _ => getPort_modPort_same s x.port fun p => { p with gateNext := some x.body }⟩
  · next h5 => exact ⟨rfl, tget_tput_same _ _ _, fun _ _ => rfl, fun h => absurd h h5⟩

theorem gwOnly_applySects (xs : List TsnSect) (s : State) : GwOnly s (xs.foldl applySect s) := by
  induction xs generalizing s with
  | nil => rfl
  | cons x xs ih =>
    rw [List.foldl_cons]
    exact (ih _).trans ((congrArg (fun v : State => { v with
      gw := (xs.foldl applySect (applySect s x)).gw, caddy := (xs.foldl applySect (applySect s x)).caddy
      fresh := (xs.foldl applySect (applySect s x)).fresh }) (applySect_effect s x).1).trans rfl)

theorem tsnSet_says (ht : Taken 0x0A03 isGs (lenIs 16) m s) (hroom : Room m s) (hrsv : fld m 6 2 = 0) (hrsv' : fld m 12 4 = 0)
    (hin : inReq s 16 (fld m 0 6) (fld m 8 4) = true) :
    match tsnSects (memRead s (fld m 0 6) (fld m 8 4)) (fld m 8 4 / 8 + 1) 0 [] with
    | .inr o => Says tsnDone (.tsnSet m) 0x0A03 m s (badBuf o) fun r u => u = r
    | .inl xs => Waits tsnDone (.tsnSet m) 0x0A03 m s fun d r u => GwOnly r u ∧ u.gw.tsnPend = some d ∧
        u.gw = { (xs.foldl applySect r).gw with tsnPend := some d } := by
  have hown : ∀ d : Pend, d.party = pidx m.sender → ownTsnSet m d (atTaking m s) =
      match tsnSects (memRead s (fld m 0 6) (fld m 8 4)) (fld m 8 4 / 8 + 1) 0 [] with
      | .inr o => say (badBuf o) (atTaking m s)
      | .inl xs => ({ xs.foldl applySect (atTaking m s) with gw := { (xs.foldl applySect (atTaking m s)).gw with tsnPend := some d } }, none) := by
    intro d hd
    unfold ownTsnSet
    dsimp only
    rw [checked_of_good (by simp [rsvBad_eq_false.2 hrsv, rsvBad_eq_false.2 hrsv']), hd, pidx_of_isGs ht, inReq_atTaking, hin, memRead_atTaking] <;> rfl
  cases hsects : tsnSects (memRead s (fld m 0 6) (fld m 8 4)) (fld m 8 4 / 8 + 1) 0 [] with
  | inr o =>
    refine ⟨atTaking m s, congrArg (fun t => (Host.Outcome.next (tsnDone t) : Res)) (serve_of_taken ht ?_), rfl⟩
    rw [pendOf_atTaking, hown _ rfl, hsects]
  | inl xs =>
    refine ⟨{ xs.foldl applySect (atTaking m s) with gw := { (xs.foldl applySect (atTaking m s)).gw with tsnPend := some (pendOf s 0x0A03 m) } },
      congrArg (fun t => (Host.Outcome.next (tsnDone t) : Res)) (serve_of_waits ht hroom ?_), ?_, rfl, rfl⟩
    · rw [hown _ rfl, hsects]
    · have honly := gwOnly_applySects xs (atTaking m s)
      generalize xs.foldl applySect (atTaking m s) = t at honly ⊢
      exact (congrArg (fun v : State => { v with gw := { t.gw with tsnPend := some (pendOf s 0x0A03 m) } }) honly).trans rfl

/-- Settles O47: each message passes its checks at its taking; a window, a controller and a rule are records of their own, and a section of a
TSN block touches one port's record at most. -/
theorem bridgeAndGatewayMessages : Obligations.BridgeAndGatewayMessages :=
  ⟨⟨fun _ _ _ ht hgood hfor hq hallowed => windowOpen_says ht hgood hfor hq hallowed,
    fun _ _ ht hroom hrsv hlive hfor => windowClose_waits ht hroom hrsv hlive hfor,
    fun _ _ ht hroom hn hn' hdev hrsv hnone => peerLink_waits ht hroom hn hn' hdev hrsv hnone⟩,
   ⟨fun _ _ ht hc hfree hgood hrx htx => canOpen_says ht hc hfree hgood hrx htx, fun _ _ ht hc hown => canClose_says ht hc hown,
    fun _ _ _ ht hgood hgiven hfirst hmine => ⟨routeSet_clears ht hgood hgiven hfirst hmine, routeSet_sets ht hgood hgiven hfirst hmine⟩,
    fun _ _ ht hroom hrsv hrsv' hin => tsnSet_says ht hroom hrsv hrsv' hin, applySect_effect⟩⟩

end Sys2Proof.Machine

/-! Messages of the field die, the I/O hosts and the virtual interfaces (R481, R490, R496, R502, R504). -/

namespace Sys2Proof.Machine
open Sys2Proof.Claims

/-! ### Field channels and USB Type-C ports -/

theorem chKey_inj {k c k' c' : Nat} (hc : c < 256) (hc' : c' < 256) (hne : k' ≠ k ∨ c' ≠ c) : chKey k' c' ≠ chKey k c := by
  unfold chKey
  omega

/-- A record of the field die reaches nothing of the channels and ports. -/
theorem field_fieldRecord (evq kind ch code state fault value : Nat) (s : State) :
    (fieldRecord evq kind ch code state fault value s).field =
      { s.field with resends := (fieldRecord evq kind ch code state fault value s).field.resends } := by
  unfold fieldRecord
  split
  · rfl
  · dsimp only
    split
    · rw [(reached_wakeFrom ..).field]
      rfl
    · rw [(posted_pushEntry ..).field, (reached_wakeFrom ..).field]
      rfl

theorem getCh_fieldRecord (evq kind ch code state fault value k c : Nat) (s : State) :
    getCh (fieldRecord evq kind ch code state fault value s) k c = getCh s k c := by
  rw [getCh, field_fieldRecord, ← getCh]

theorem switch_fieldRecord (evq kind ch code state fault value : Nat) (s : State) :
    (fieldRecord evq kind ch code state fault value s).field.switch = s.field.switch := by rw [field_fieldRecord]

theorem getUc_fieldRecord (evq kind ch code state fault value p : Nat) (s : State) :
    getUc (fieldRecord evq kind ch code state fault value s) p = getUc s p := by
  rw [getUc, field_fieldRecord, ← getUc]

theorem getCh_modCh (s : State) (k c k' c' : Nat) (f : FieldCh → FieldCh) :
    getCh (modCh s k c f) k' c' = if chKey k' c' = chKey k c then f (getCh s k c) else getCh s k' c' := tget_tmod ..

@[simp] theorem getCh_modCh_same (s : State) (k c : Nat) (f : FieldCh → FieldCh) : getCh (modCh s k c f) k c = f (getCh s k c) := by
  simp [getCh_modCh]

theorem getCh_chRecord (kind ch code fault k c : Nat) (s : State) : getCh (chRecord kind ch code fault s) k c = getCh s k c :=
  getCh_fieldRecord ..

theorem field_harnessFault (kind ch fault : Nat) (latched : Bool) (value party : Nat) (s : State) :
    (harnessFault kind ch fault latched value party s).field = s.field := by
  unfold harnessFault
  split <;> rfl

theorem field_harnessClear (kind ch fault party : Nat) (s : State) : (harnessClear kind ch fault party s).field = s.field := by
  unfold harnessClear
  split <;> rfl

theorem tget_eq_of_same_key {k c k' c' : Nat} {s : State} (h : chKey k' c' = chKey k c) : getCh s k' c' = getCh s k c := by
  rw [getCh, h, ← getCh]

/-- A new state of a channel, whether or not it is one. -/
theorem getCh_chState (k c st k' c' : Nat) (s : State) :
    getCh (chState k c st s) k' c' = if chKey k' c' = chKey k c then { getCh s k c with state := st } else getCh s k' c' := by
  unfold chState
  split
  · next hsame =>
    split
    · next hkey =>
      rw [tget_eq_of_same_key hkey, ← hsame]
    · rfl
  · dsimp only
    rw [getCh_chRecord, getCh_modCh]

theorem getCh_chFault (k c fault : Nat) (latched : Bool) (k' c' : Nat) (s : State) :
    getCh (chFault k c fault latched s) k' c' = if chKey k' c' = chKey k c then { getCh s k c with fault := fault } else getCh s k' c' := by
  unfold chFault
  dsimp only
  rw [getCh, field_harnessFault, ← getCh, getCh_chRecord]
  split
  · exact getCh_modCh s k c k' c' fun x => { x with fault := fault }
  · exact getCh_modCh s k c k' c' fun x => { x with fault := fault }

theorem getCh_chClear (k c k' c' : Nat) (s : State) :
    getCh (chClear k c s) k' c' = if chKey k' c' = chKey k c then { getCh s k c with fault := 0 } else getCh s k' c' := by
  unfold chClear
  dsimp only
  split
  · next hsame =>
    split
    · next hkey =>
      rw [tget_eq_of_same_key hkey, ← hsame]
    · rfl
  · rw [getCh, field_harnessClear, ← getCh, getCh_chRecord, getCh_modCh]

/-- The check of a pair of switch inputs at rest reaches no other channel, and of its own only the fault. -/
theorem getCh_restCheck (c k' c' : Nat) (s : State) :
    getCh (restCheck c s) k' c' =
      if chKey k' c' = chKey 0 c then { getCh s 0 c with fault := (getCh (restCheck c s) 0 c).fault } else getCh s k' c' := by
  have hself : ∀ t : State, t = s → getCh t k' c' = if chKey k' c' = chKey 0 c then { getCh s 0 c with fault := (getCh t 0 c).fault }
      else getCh s k' c' := by
    rintro t rfl
    split
    · next hkey => rw [tget_eq_of_same_key hkey]
    · rfl
  have hfault : getCh (chFault 0 c 6 false s) k' c' =
      if chKey k' c' = chKey 0 c then { getCh s 0 c with fault := (getCh (chFault 0 c 6 false s) 0 c).fault } else getCh s k' c' := by
    simp only [getCh_chFault, if_pos]
  have hclear : getCh (chClear 0 c s) k' c' =
      if chKey k' c' = chKey 0 c then { getCh s 0 c with fault := (getCh (chClear 0 c s) 0 c).fault } else getCh s k' c' := by
    simp only [getCh_chClear, if_pos]
  unfold restCheck
  dsimp only
  split
  · exact hself s rfl
  · split
    · split
      · exact hself s rfl
      · exact hfault
    · split
      · exact hclear
      · exact hself s rfl

/-- Two switch inputs that should differ and do not are a fault 6 of the even one. -/
theorem restCheck_differs {c : Nat} {s : State} (hpair : bitOf (chByte (getCh s 0 c) 0) 4 = true) (htest : bitOf (chByte (getCh s 0 c) 0) 6 = true)
    (heven : bitOf s.field.switch c = !bitOf (chByte (getCh s 0 c) 0) 5) (hodd : bitOf s.field.switch (c + 1) = bitOf (chByte (getCh s 0 c) 0) 5) :
    (getCh (restCheck c s) 0 c).fault = 6 := by
  unfold restCheck
  dsimp only
  rw [if_neg (by simp [hpair, htest]), if_pos (by simp [heven, hodd])]
  split
  · next h => exact h
  · rw [getCh_chFault, if_pos rfl]

/-- A lamp that is on and does not wait is lit, and its retries begin again. -/
theorem lampCommand_on {c : Nat} {s : State} (hon : bitOf (chByte (getCh s 2 c) 0) 0 = true) (hwait : (getCh s 2 c).waiting = false) (k' c' : Nat) :
    getCh (lampCommand c s) k' c' = if chKey k' c' = chKey 2 c then { getCh s 2 c with
        retries := chByte (getCh s 2 c) 5, state := 1
        fault := if (getCh s 2 c).fault = 1 ∨ (getCh s 2 c).fault = 4 then 0 else (getCh s 2 c).fault }
      else getCh s k' c' := by
  unfold lampCommand
  dsimp only
  rw [if_pos hon, if_neg (by simp [hwait])]
  split
  · simp only [getCh_chClear, getCh_chState, getCh_modCh, if_pos]
    split <;> rfl
  · simp only [getCh_chState, getCh_modCh, if_pos]
    split <;> rfl

theorem lampCommand_waits {c : Nat} {s : State} (hon : bitOf (chByte (getCh s 2 c) 0) 0 = true) (hwait : (getCh s 2 c).waiting = true) :
    lampCommand c s = s := by
  unfold lampCommand
  dsimp only
  rw [if_pos hon, if_pos hwait]

theorem lampCommand_off {c : Nat} {s : State} (hon : bitOf (chByte (getCh s 2 c) 0) 0 = false) (k' c' : Nat) :
    getCh (lampCommand c s) k' c' = if chKey k' c' = chKey 2 c then { getCh s 2 c with
        waiting := false, retries := 0, state := if (getCh s 2 c).state = 1 then 0 else (getCh s 2 c).state }
      else getCh s k' c' := by
  unfold lampCommand
  dsimp only
  rw [if_neg (by simp [hon])]
  split
  · simp only [getCh_chState, getCh_modCh, if_pos]
    split <;> rfl
  · simp only [getCh_modCh]

/-! ### FIELD_SET and FIELD_READ (R481) -/

@[simp] theorem getCh_atTaking (m : Msg) (s : State) (k c : Nat) : getCh (atTaking m s) k c = getCh s k c := by simp [getCh]
@[simp] theorem getUc_atTaking (m : Msg) (s : State) (p : Nat) : getUc (atTaking m s) p = getUc s p := by simp [getUc]

/-- Channels of one number released: they are as at reset, and no other is reached. -/
theorem releases_effect (c : Nat) (l : List Nat) (s : State) :
    l.foldl (fun s k => releaseCh k c s) s =
        { s with field := { s.field with ch := (l.foldl (fun s k => releaseCh k c s) s).field.ch } } ∧
      ∀ k' c', getCh (l.foldl (fun s k => releaseCh k c s) s) k' c' = if ∃ k ∈ l, chKey k' c' = chKey k c then {} else getCh s k' c' := by
  induction l generalizing s with
  | nil => exact ⟨rfl, fun k' c' => by simp⟩
  | cons k l ih =>
    obtain ⟨honly, hch⟩ := ih (releaseCh k c s)
    refine ⟨honly, fun k' c' => ?_⟩
    rw [List.foldl_cons, hch, show getCh (releaseCh k c s) k' c' = if chKey k' c' = chKey k c then {} else getCh s k' c' from tget_tput ..]
    by_cases hrest : ∃ j ∈ l, chKey k' c' = chKey j c
    · rw [if_pos hrest, if_pos (hrest.imp fun j hj => ⟨List.mem_cons_of_mem _ hj.1, hj.2⟩)]
    · rw [if_neg hrest]
      by_cases hk : chKey k' c' = chKey k c
      · rw [if_pos hk, if_pos ⟨k, List.mem_cons_self .., hk⟩]
      · rw [if_neg hk, if_neg]
        rintro ⟨j, hj, hkey⟩
        rcases List.mem_cons.1 hj with rfl | hj
        · exact hk hkey
        · exact hrest ⟨j, hj, hkey⟩

/-- The kinds of channel `c` that a party holds. -/
def heldKinds (s : State) (c p : Nat) : List Nat :=
  ((List.range 5).filter fun k => decide (c < kindChannels k) && decide ((getCh s k c).owner ≠ 0)).filter
    fun k => decide ((getCh s k c).owner = p + 1)

theorem mem_heldKinds {s : State} {c p k : Nat} : k ∈ heldKinds s c p ↔ k < 5 ∧ c < kindChannels k ∧ (getCh s k c).owner = p + 1 := by
  simp only [heldKinds, List.mem_filter, List.mem_range, Bool.and_eq_true, decide_eq_true_eq]
  constructor
  · rintro ⟨⟨hk, hc, -⟩, hown⟩
    exact ⟨hk, hc, hown⟩
  · rintro ⟨hk, hc, hown⟩
    exact ⟨⟨hk, hc, by omega⟩, hown⟩

section
variable {m : Msg} {s : State}

theorem fieldSet_releases (ht : Taken 0x0A10 isParty (lenIs 32) m s) (hk : fld m 0 1 = 5) (hc : fld m 1 1 < 48) (hrsv : fld m 2 2 = 0)
    (hrsv' : fld m 24 8 = 0) (hup : s.field.linkUp = true)
    (hmine : (∀ k < 5, fld m 1 1 < kindChannels k → (getCh s k (fld m 1 1)).owner = 0) ∨
      ∃ k < 5, fld m 1 1 < kindChannels k ∧ (getCh s k (fld m 1 1)).owner = pidx m.sender + 1) :
    Says id (.fieldSet m) 0x0A10 m s ok fun r u => u = { r with field := { r.field with ch := u.field.ch } } ∧
      ∀ k c, c < 256 → getCh u k c =
        (if k < 5 ∧ c = fld m 1 1 ∧ c < kindChannels k ∧ (getCh s k c).owner = pidx m.sender + 1 then {} else getCh s k c) := by
  have hown : ownFieldSet m (pendOf s 0x0A10 m) (atTaking m s) = say ok ((heldKinds s (fld m 1 1) (pidx m.sender)).foldl
      (fun s k => releaseCh k (fld m 1 1) s) (atTaking m s)) := by
    have hgood : firstBad [(0, decide (5 < fld m 0 1)), (1, decide (kindChannels (fld m 0 1) ≤ fld m 1 1)), (2, rsvBad m 2 2),
        (24, fld m 0 1 == 5 && rsvBad m 24 8)] = none := by
      simp [hk, rsvBad_eq_false.2 hrsv, rsvBad_eq_false.2 hrsv', show kindChannels 5 = 48 from rfl, hc]
    unfold ownFieldSet
    dsimp only
    rw [checked_of_good hgood, if_pos hk]
    simp only [getCh_atTaking, atTaking_field, hup, Bool.not_true, Bool.false_eq_true, if_false]
    rw [if_neg]
    · rfl
    · intro h
      simp only [Bool.and_eq_true, Bool.not_eq_true', List.isEmpty_iff] at h
      obtain ⟨hnone, hsome⟩ := h
      rcases hmine with hfree | ⟨k, hk5, hkc, hkown⟩
      · have : (List.range 5).filter (fun k => decide (fld m 1 1 < kindChannels k) && decide ((getCh s k (fld m 1 1)).owner ≠ 0)) = [] := by
          refine List.filter_eq_nil_iff.2 fun k hk5 => ?_
          simp only [Bool.and_eq_true, decide_eq_true_eq, not_and, Decidable.not_not]
          exact hfree k (List.mem_range.1 hk5)
        rw [this] at hsome
        exact absurd hsome (by decide)
      · exact List.ne_nil_of_mem (mem_heldKinds.2 ⟨hk5, hkc, hkown⟩) hnone
  obtain ⟨honly, hch⟩ := releases_effect (fld m 1 1) (heldKinds s (fld m 1 1) (pidx m.sender)) (atTaking m s)
  refine says_of_own rfl ht (by rw [pendOf_atTaking]; exact hown) ⟨honly, fun k c hc256 => ?_⟩
  rw [hch, getCh_atTaking]
  refine if_congr ⟨?_, ?_⟩ rfl rfl
  · rintro ⟨j, hj, hkey⟩
    have hkc : ¬ (k ≠ j ∨ c ≠ fld m 1 1) := fun hne => chKey_inj (by omega) hc256 hne hkey
    obtain ⟨rfl, rfl⟩ : k = j ∧ c = fld m 1 1 := by omega
    obtain ⟨h5, hlt, hown⟩ := mem_heldKinds.1 hj
    exact ⟨h5, rfl, hlt, hown⟩
  · rintro ⟨h5, rfl, hlt, hown⟩
    exact ⟨k, mem_heldKinds.2 ⟨h5, hlt, hown⟩, rfl⟩

end

/-- A channel as FIELD_SET leaves it before its kind's own work: its owner, event queue and CONFIG, and a switch input's contact. -/
def boundCh (k c p : Nat) (m : Msg) (s : State) : State := modCh s k c fun x =>
  { x with owner := p + 1, evq := if bitOf (fld m 4 4) 31 then fld m 4 4 % 2 ^ 18 + 1 else 0, conf := (m.payload.drop 8).take 16, scans := 0
           state := if k = 0 then b2n (bitOf s.field.switch c) else x.state }

section
variable (c p : Nat) (m : Msg) (s : State)

theorem setChannel_switch : setChannel 0 c p m s = restCheck c (boundCh 0 c p m s) := rfl
theorem setChannel_lamp : setChannel 2 c p m s = lampCommand c (boundCh 2 c p m s) := rfl
theorem setChannel_plain {k : Nat} (h : k = 1 ∨ k = 3 ∨ k = 4) : setChannel k c p m s = boundCh k c p m s := by
  rcases h with rfl | rfl | rfl <;> rfl

theorem getCh_boundCh (k k' c' : Nat) : getCh (boundCh k c p m s) k' c' = if chKey k' c' = chKey k c then { getCh s k c with
    owner := p + 1, evq := if bitOf (fld m 4 4) 31 then fld m 4 4 % 2 ^ 18 + 1 else 0, conf := (m.payload.drop 8).take 16, scans := 0
    state := if k = 0 then b2n (bitOf s.field.switch c) else (getCh s k c).state } else getCh s k' c' := getCh_modCh ..

theorem chByte_boundCh (k : Nat) {i : Nat} (hi : i < 16) : chByte (getCh (boundCh k c p m s) k c) i = fld m (8 + i) 1 := by
  rw [getCh_boundCh, if_pos rfl]
  show field ((m.payload.drop 8).take 16) i 1 = fld m (8 + i) 1
  rw [field_take (by omega)]
  unfold field
  rw [List.drop_drop]
  rfl

/-- `y` is channel `x` but for what the work of its kind sets. -/
def SameBinding (x y : FieldCh) : Prop := y = { x with state := y.state, fault := y.fault, retries := y.retries, waiting := y.waiting }

/-- What FIELD_SET makes of a channel: it reaches no other, and keeps the fields that its kind's work does not set. -/
theorem setChannel_effect {k : Nat} (hk : k < 5) {k' c' : Nat} : (chKey k' c' ≠ chKey k c → getCh (setChannel k c p m s) k' c' = getCh s k' c') ∧
    SameBinding (getCh (boundCh k c p m s) k c) (getCh (setChannel k c p m s) k c) := by
  have hbound : chKey k' c' ≠ chKey k c → getCh (boundCh k c p m s) k' c' = getCh s k' c' := fun hne => by rw [getCh_boundCh, if_neg hne]
  obtain rfl | rfl | hplain : k = 0 ∨ k = 2 ∨ (k = 1 ∨ k = 3 ∨ k = 4) := by omega
  · rw [setChannel_switch]
    refine ⟨fun hne => ?_, ?_⟩
    · rw [getCh_restCheck, if_neg hne, hbound hne]
    · rw [SameBinding, getCh_restCheck, if_pos rfl]
  · rw [setChannel_lamp]
    by_cases hon : bitOf (chByte (getCh (boundCh 2 c p m s) 2 c) 0) 0 = true
    · by_cases hwait : (getCh (boundCh 2 c p m s) 2 c).waiting = true
      · rw [lampCommand_waits hon hwait]
        exact ⟨hbound, rfl⟩
      · rw [Bool.not_eq_true] at hwait
        refine ⟨fun hne => ?_, ?_⟩
        · rw [lampCommand_on hon hwait, if_neg hne, hbound hne]
        · rw [SameBinding, lampCommand_on hon hwait, if_pos rfl]
    · rw [Bool.not_eq_true] at hon
      refine ⟨fun hne => ?_, ?_⟩
      · rw [lampCommand_off hon, if_neg hne, hbound hne]
      · rw [SameBinding, lampCommand_off hon, if_pos rfl]
  · rw [setChannel_plain c p m s hplain]
    exact ⟨hbound, rfl⟩

end

section
variable {m : Msg} {s : State} {k c q own : Nat} {x : FieldCh}

theorem fieldSet_sets (hkdef : fld m 0 1 = k) (hcdef : fld m 1 1 = c) (hqdef : fld m 4 4 = q) (howndef : pidx m.sender + 1 = own)
    (hxdef : getCh s k c = x) (ht : Taken 0x0A10 isParty (lenIs 32) m s) (hk : k < 5) (hc : c < kindChannels k) (hrsv : fld m 2 2 = 0)
    (hmine : x.owner = 0 ∨ x.owner = own) (hbits : bitsOf q 30 18 = 0)
    (hconf : firstBad (confBad k c m) = none) (hrsv' : fld m 24 8 = 0)
    (hq : bitOf q 31 = true → qForm s (q % 2 ^ 18) 1 1 (some 3) none = true ∧ qReq s (pidx m.sender) (q % 2 ^ 18) = true) :
    (s.field.linkUp = false → Says id (.fieldSet m) 0x0A10 m s (sts stTIMEOUT) fun r u => u = r) ∧
    (s.field.linkUp = true → Says id (.fieldSet m) 0x0A10 m s ok fun _ u =>
      (∀ k' c', c' < 256 → (k' ≠ k ∨ c' ≠ c) → getCh u k' c' = getCh s k' c') ∧ (getCh u k c).owner = own ∧
      (getCh u k c).evq = (if bitOf q 31 then q % 2 ^ 18 + 1 else 0) ∧ (getCh u k c).conf = (m.payload.drop 8).take 16 ∧
      (k = 0 → (getCh u k c).state = b2n (bitOf s.field.switch c) ∧
        (bitOf (fld m 8 1) 4 = true → bitOf (fld m 8 1) 6 = true → bitOf s.field.switch c = !bitOf (fld m 8 1) 5 →
          bitOf s.field.switch (c + 1) = bitOf (fld m 8 1) 5 → (getCh u k c).fault = 6)) ∧
      (k = 1 ∨ k = 3 ∨ k = 4 → getCh u k c = { x with owner := own, evq := (getCh u k c).evq, conf := (getCh u k c).conf, scans := 0 }) ∧
      (k = 2 → bitOf (fld m 8 1) 0 = true → x.waiting = false → (getCh u k c).state = 1 ∧ (getCh u k c).retries = fld m 13 1 ∧
        (x.fault = 1 ∨ x.fault = 4 → (getCh u k c).fault = 0)) ∧
      (k = 2 → bitOf (fld m 8 1) 0 = true → x.waiting = true → (getCh u k c).state = x.state ∧ (getCh u k c).waiting = true) ∧
      (k = 2 → bitOf (fld m 8 1) 0 = false → (getCh u k c).waiting = false ∧ (getCh u k c).retries = 0 ∧
        (getCh u k c).state = if x.state = 1 then 0 else x.state)) := by
  have hc48 : c < 256 := by
    have : kindChannels k ≤ 48 := by unfold kindChannels; split <;> omega
    omega
  have hown : ownFieldSet m (pendOf (atTaking m s) 0x0A10 m) (atTaking m s) = if s.field.linkUp = false then say (sts stTIMEOUT) (atTaking m s) else
      say ok (setChannel k c (pidx m.sender) m (modField (atTaking m s) fun f => { f with resends := (f.resends.1, 0) })) := by
    have hgood : firstBad [(0, decide (5 < k)), (1, decide (kindChannels k ≤ c)), (2, rsvBad m 2 2), (24, k == 5 && rsvBad m 24 8)] = none := by
      simp [rsvBad_eq_false.2 hrsv, rsvBad_eq_false.2 hrsv', show ¬ 5 < k by omega, hc]
    have hgood' : firstBad ((4, bitsOf q 30 18 != 0 || (bitOf q 31 && !qForm (atTaking m s) (q % 2 ^ 18) 1 1 (some 3) none)) ::
        confBad k c m ++ [(24, rsvBad m 24 8)]) = none := by
      rw [List.cons_append, firstBad_cons, firstBad_append_of_good _ hconf, firstBad_cons, rsvBad_eq_false.2 hrsv', hbits, qForm_atTaking]
      cases hb : bitOf q 31
      · rfl
      · rw [(hq hb).1]
        rfl
    unfold ownFieldSet
    dsimp only
    rw [hkdef, hcdef, hqdef, checked_of_good hgood, if_neg (by omega), getCh_atTaking, hxdef,
      if_neg (by rw [show (pendOf (atTaking m s) 0x0A10 m).party = pidx m.sender from rfl, howndef]; omega), checked_of_good hgood',
      if_neg (by
        intro h
        simp only [Bool.and_eq_true, Bool.not_eq_true', qReq_atTaking] at h
        exact absurd (hq h.1).2 (by rw [show pidx m.sender = (pendOf (atTaking m s) 0x0A10 m).party from rfl, h.2]; decide))]
    simp only [atTaking_field, Bool.not_eq_true']
    rfl
  refine ⟨fun hdown => says_of_own rfl ht (by rw [hown, if_pos hdown]) rfl, fun hup => ?_⟩
  generalize hr : modField (atTaking m s) (fun f => { f with resends := (f.resends.1, 0) }) = r at hown
  have hget : ∀ k' c', getCh r k' c' = getCh s k' c' := fun k' c' => by
    rw [← hr, ← getCh_atTaking m s]
    rfl
  have hswitch : r.field.switch = s.field.switch := by
    rw [← atTaking_field m s, ← hr]
    rfl
  have hbound := getCh_boundCh c (pidx m.sender) m r k k c
  rw [if_pos rfl, hget, hxdef, hswitch, howndef, hqdef] at hbound
  have hself := (setChannel_effect c (pidx m.sender) m r hk (k' := k) (c' := c)).2
  rw [SameBinding] at hself
  refine says_of_own rfl ht (by rw [hown, if_neg (by simp [hup])]) ⟨?_, ?_, ?_, ?_, ?_, ?_, ?_, ?_, ?_⟩
  · intro k' c' hc' hne
    rw [(setChannel_effect c (pidx m.sender) m r hk).1 (chKey_inj hc48 hc' hne), hget]
  · rw [hself, hbound]
  · rw [hself, hbound]
  · rw [hself, hbound]
  · rintro rfl
    have hb0 := chByte_boundCh c (pidx m.sender) m r 0 (i := 0) (by decide)
    have hsw : (boundCh 0 c (pidx m.sender) m r).field.switch = s.field.switch := hswitch
    rw [setChannel_switch]
    refine ⟨?_, fun hpair htest heven hodd => restCheck_differs ?_ ?_ ?_ ?_⟩
    · rw [getCh_restCheck, if_pos rfl, hbound]
      rfl
    · rwa [hb0]
    · rwa [hb0]
    · rwa [hb0, hsw]
    · rwa [hb0, hsw]
  · intro hplain
    have hk0 : k ≠ 0 := by omega
    rw [setChannel_plain c _ m r hplain, hbound, if_neg hk0]
  · rintro rfl hon hwait
    have hb0 := chByte_boundCh c (pidx m.sender) m r 2 (i := 0) (by decide)
    have hb5 := chByte_boundCh c (pidx m.sender) m r 2 (i := 5) (by decide)
    rw [setChannel_lamp, lampCommand_on (by rwa [hb0]) (by rw [hbound]; exact hwait), if_pos rfl]
    refine ⟨rfl, hb5, fun hf => ?_⟩
    rw [hbound]
    exact if_pos hf
  · rintro rfl hon hwait
    have hb0 := chByte_boundCh c (pidx m.sender) m r 2 (i := 0) (by decide)
    rw [setChannel_lamp, lampCommand_waits (by rwa [hb0]) (by rw [hbound]; exact hwait), hbound]
    exact ⟨rfl, hwait⟩
  · rintro rfl hoff
    have hb0 := chByte_boundCh c (pidx m.sender) m r 2 (i := 0) (by decide)
    rw [setChannel_lamp, lampCommand_off (by rwa [hb0]), if_pos rfl, hbound]
    exact ⟨rfl, rfl, rfl⟩

end

section
variable {m : Msg} {s : State}

theorem fieldRead_says (ht : Taken 0x0A11 isPartyGx (lenIs 2) m s) (hk : fld m 0 1 < 5)
    (hc : fld m 1 1 = 0xFF ∨ fld m 1 1 < kindChannels (fld m 0 1)) {cs : List Nat}
    (hcs : (if fld m 1 1 = 0xFF then List.range (kindChannels (fld m 0 1)) else [fld m 1 1]) = cs)
    (hmine : pidx m.sender = 17 ∨ ∀ c ∈ cs, (getCh s (fld m 0 1) c).owner = pidx m.sender + 1) :
    (s.field.linkUp = false → Says id (.fieldRead m) 0x0A11 m s (sts stTIMEOUT) fun r u => u = r) ∧
    (s.field.linkUp = true → Says id (.fieldRead m) 0x0A11 m s (okWith (cs.flatMap (readCh s (fld m 0 1))))
      fun r u => u = { r with field := { r.field with resends := (r.field.resends.1, 0) } }) := by
  have hread : readCh (atTaking m s) (fld m 0 1) = readCh s (fld m 0 1) := funext fun c => by simp [readCh]
  have hown : ownFieldRead m (pendOf (atTaking m s) 0x0A11 m) (atTaking m s) = if s.field.linkUp = false then say (sts stTIMEOUT) (atTaking m s) else
      say (okWith (cs.flatMap (readCh s (fld m 0 1)))) (modField (atTaking m s) fun f => { f with resends := (f.resends.1, 0) }) := by
    have hgood : firstBad [(0, decide (4 < fld m 0 1)), (1, decide (kindChannels (fld m 0 1) ≤ fld m 1 1) && decide (fld m 1 1 ≠ 0xFF))] = none := by
      rcases hc with h | h
      · simp [h, show ¬ 4 < fld m 0 1 by omega]
      · simp [show ¬ 4 < fld m 0 1 by omega, Nat.not_le.2 h]
    unfold ownFieldRead
    dsimp only
    rw [checked_of_good hgood, hcs, hread, if_neg]
    · simp only [atTaking_field, Bool.not_eq_true']
    · intro h
      simp only [Bool.and_eq_true, decide_eq_true_eq, List.any_eq_true, getCh_atTaking] at h
      obtain ⟨hgx, c, hmem, hne⟩ := h
      rcases hmine with hp | hall
      · exact hgx hp
      · exact hne (hall c hmem)
  refine ⟨fun hdown => says_of_own rfl ht (by rw [hown, if_pos hdown]) rfl, fun hup => ?_⟩
  exact says_of_own (u := modField (atTaking m s) fun f => { f with resends := (f.resends.1, 0) }) rfl ht (by rw [hown, if_neg (by simp [hup])]) rfl

/-! ### USBC_SET (R490) -/

theorem getUc_usbcRecord (p code fault j : Nat) (s : State) : getUc (usbcRecord p code fault s) j = getUc s j := getUc_fieldRecord ..

theorem getUc_usbcState (p j : Nat) (s : State) : getUc (usbcState p s) j = getUc s j := by
  unfold usbcState
  dsimp only
  split <;> rfl

variable {p role q : Nat}

theorem usbcSet_says (hpdef : fld m 0 1 = p) (hroledef : fld m 1 1 = role) (hqdef : fld m 4 4 = q)
    (ht : Taken 0x0A12 isParty (lenIs 8) m s) (hp : p ≤ 3) (hrole : role ≤ 2) (hlo : 15 ≤ fld m 2 1) (hhi : fld m 2 1 ≤ 100) (hrsv : fld m 3 1 = 0)
    (hbits : bitsOf q 30 18 = 0) (hmine : (getUc s p).owner = 0 ∨ (getUc s p).owner = pidx m.sender + 1)
    (hq : bitOf q 31 = true → qForm s (q % 2 ^ 18) 1 1 (some 3) none = true ∧ qReq s (pidx m.sender) (q % 2 ^ 18) = true) :
    (s.field.linkUp = false → Says id (.usbcSet m) 0x0A12 m s (sts stTIMEOUT) fun r u => u = r) ∧
    (s.field.linkUp = true → Says id (.usbcSet m) 0x0A12 m s ok fun _ u => (∀ j, j ≠ p → getUc u j = getUc s j) ∧
      getUc u p = { getUc s p with
        owner := if role = 0 then 0 else pidx m.sender + 1, role := role, maxW := fld m 2 1, evq := if bitOf q 31 then q % 2 ^ 18 + 1 else 0
        cc := true, fault := 0, state := if role = 0 then 0 else (getUc s p).state, mv := if role = 0 then 0 else (getUc s p).mv
        ma := if role = 0 then 0 else (getUc s p).ma
        vbus := decide (role = 1) && decide ((getUc s p).state ≠ 0) && decide (s.field.vbat ≤ 3600) }) := by
  have hgood : firstBad [(0, decide (3 < p)), (1, decide (2 < role)), (2, decide (fld m 2 1 < 15) || decide (100 < fld m 2 1)), (3, rsvBad m 3 1),
      (4, bitsOf q 30 18 != 0 || (bitOf q 31 && !qForm (atTaking m s) (q % 2 ^ 18) 1 1 (some 3) none))] = none := by
    have hform : (bitOf q 31 && !qForm (atTaking m s) (q % 2 ^ 18) 1 1 (some 3) none) = false := by
      rw [qForm_atTaking]
      cases hb : bitOf q 31
      · rfl
      · rw [(hq hb).1]
        rfl
    simp only [firstBad_cons, firstBad_nil, hform, hbits, rsvBad_eq_false.2 hrsv, show ¬ 3 < p by omega, show ¬ 2 < role by omega,
      show ¬ fld m 2 1 < 15 by omega, show ¬ 100 < fld m 2 1 by omega, decide_false, Bool.or_false, Bool.false_eq_true, if_false, bne_self_eq_false]
  have hasked : (bitOf q 31 && !qReq (atTaking m s) (pidx m.sender) (q % 2 ^ 18)) = false := by
    rw [qReq_atTaking]
    cases hb : bitOf q 31
    · rfl
    · rw [(hq hb).2]
      rfl
  have hown : ∃ u, ownUsbcSet m (pendOf (atTaking m s) 0x0A12 m) (atTaking m s) =
      (if s.field.linkUp = false then say (sts stTIMEOUT) (atTaking m s) else say ok u) ∧ ∀ j, getUc u j = if j = p then { getUc s p with
        owner := if role = 0 then 0 else pidx m.sender + 1, role := role, maxW := fld m 2 1, evq := if bitOf q 31 then q % 2 ^ 18 + 1 else 0
        cc := true, fault := 0, state := if role = 0 then 0 else (getUc s p).state, mv := if role = 0 then 0 else (getUc s p).mv
        ma := if role = 0 then 0 else (getUc s p).ma
        vbus := decide (role = 1) && decide ((getUc s p).state ≠ 0) && decide (s.field.vbat ≤ 3600) } else getUc s j := by
    unfold ownUsbcSet
    dsimp only
    rw [hpdef, hroledef, hqdef, checked_of_good hgood, getUc_atTaking,
      if_neg (by rw [show (pendOf (atTaking m s) 0x0A12 m).party = pidx m.sender from rfl]; omega),
      show (pendOf (atTaking m s) 0x0A12 m).party = pidx m.sender from rfl, hasked, if_neg (by decide)]
    simp only [atTaking_field, Bool.not_eq_true']
    refine ⟨_, rfl, fun j => ?_⟩
    have hrec : ∀ (b b' : Prop) [Decidable b] [Decidable b'] (n : Nat) (t : State), getUc (if b then usbcState p (if b' then usbcRecord p 2 n t else t)
        else if b' then usbcRecord p 2 n t else t) j = getUc t j := fun b b' _ _ n t => by
      split
      · rw [getUc_usbcState]
        split
        · exact getUc_usbcRecord ..
        · rfl
      · split
        · exact getUc_usbcRecord ..
        · rfl
    rw [hrec, getUc_modUc, ← getUc_atTaking m s p, ← getUc_atTaking m s j, ← atTaking_field m s]
    rfl
  obtain ⟨u, hown, huc⟩ := hown
  refine ⟨fun hdown => says_of_own rfl ht (by rw [hown, if_pos hdown]) rfl, fun hup => ?_⟩
  exact says_of_own rfl ht (by rw [hown, if_neg (by simp [hup])]) ⟨fun j hj => by rw [huc, if_neg hj], by rw [huc, if_pos rfl]⟩

end

theorem fieldMessages : FieldMessages :=
  ⟨fun _ _ ht hk hc hrsv hrsv' hup hmine => fieldSet_releases ht hk hc hrsv hrsv' hup hmine,
    fun _ _ ht hk hc hrsv hmine hbits hconf hrsv' hq => fieldSet_sets rfl rfl rfl rfl rfl ht hk hc hrsv hmine hbits hconf hrsv' hq,
    fun _ _ ht hk hc hmine => fieldRead_says ht hk hc rfl hmine,
    fun _ _ ht hp hrole hlo hhi hrsv hbits hmine hq => usbcSet_says rfl rfl rfl ht hp hrole hlo hhi hrsv hbits hmine hq⟩

/-! ### IO_OPEN and IO_CLOSE (R496, R504) -/

@[simp] theorem getUnit_atTaking (m : Msg) (s : State) (u : Nat) : getUnit (atTaking m s) u = getUnit s u := by simp [getUnit]
@[simp] theorem getVnic_atTaking (m : Msg) (s : State) (v : Nat) : getVnic (atTaking m s) v = getVnic s v := by simp [getVnic]

/-- Of the I/O hosts, at most the completions that host `u` holds differ. -/
structure HeldOnly (u : Nat) (s t : State) : Prop where
  same : getUnit t u = { getUnit s u with held := (getUnit t u).held }
  other : ∀ j, j ≠ u → getUnit t j = getUnit s j

theorem HeldOnly.refl (u : Nat) (s : State) : HeldOnly u s s := ⟨rfl, fun _ _ => rfl⟩

theorem HeldOnly.trans {u : Nat} {s t v : State} (a : HeldOnly u s t) (b : HeldOnly u t v) : HeldOnly u s v where
  same := b.same.trans (by rw [a.same])
  other j hj := (b.other j hj).trans (a.other j hj)

theorem HeldOnly.setHeld (u : Nat) (s : State) (f : IoUnit → List (List Byte)) : HeldOnly u s (modUnit s u fun x => { x with held := f x }) where
  same := by simp
  other _ hj := getUnit_modUnit_ne s _ hj

theorem HeldOnly.posted {u : Nat} {s t : State} (h : Posted s t) : HeldOnly u s t where
  same := by simp only [getUnit, h.io]
  other j _ := by simp only [getUnit, h.io]

theorem heldOnly_ioDrain (u n : Nat) (s : State) : HeldOnly u s (ioDrain u n s) := by
  induction n generalizing s with
  | zero => exact .refl u s
  | succ n ih =>
    unfold ioDrain
    dsimp only
    split
    · exact .refl u s
    · next rs _ =>
      split
      · exact ((HeldOnly.setHeld u s fun _ => rs).trans (.posted (posted_pushEntry ..))).trans (ih _)
      · exact .refl u s

theorem heldOnly_ioPush (u : Nat) (r : List Byte) (s : State) : HeldOnly u s (ioPush u r s) :=
  (HeldOnly.setHeld u s fun x => x.held ++ [r]).trans (heldOnly_ioDrain ..)

theorem heldOnly_ioDone (u : Nat) (c : List Byte) (status detail bytes ktime : Nat) (s : State) :
    HeldOnly u s (ioDone u c status detail bytes ktime s) := heldOnly_ioPush ..

/-- An end of commands in flight takes them from the host's list and, but for its held completions, changes no host. -/
theorem ioAbort_effect (u status : Nat) (f : IoCmd → Bool) (s : State) :
    HeldOnly u (modUnit s u fun t => { t with fly := t.fly.filter fun x => !f x }) (ioAbort u status f s) := by
  unfold ioAbort
  dsimp only
  generalize (modUnit s u fun t => { t with fly := t.fly.filter fun x => !f x }) = t
  induction (getUnit s u).fly.filter f generalizing t with
  | nil => exact .refl u t
  | cons x xs ih => exact (heldOnly_ioDone ..).trans (ih _)

section
variable {m : Msg} {s : State}

theorem ioOpen_says (ht : Taken 0x0A20 isParty (lenIs 32) m s) (hu : fld m 0 1 < 14) (hfree : (getUnit s (fld m 0 1)).owner = 0)
    (hcq : qReq s (pidx m.sender) (fld m 4 4 % 2 ^ 18) = true) (hpq : qReq s (pidx m.sender) (fld m 8 4 % 2 ^ 18) = true)
    (hserial : fld m 0 1 = 9 → pidx m.sender = 16)
    (husb : fld m 0 1 < 8 → (getUc s (fld m 0 1 % 4)).owner = 0 ∨ (getUc s (fld m 0 1 % 4)).owner = pidx m.sender + 1)
    (hgood : firstBad (ioOpenBad s m) = none) :
    Says id (.ioOpen m) 0x0A20 m s ok fun r u => u = { r with io := { r.io with unit := u.io.unit } } ∧
      getUnit u (fld m 0 1) = { owner := pidx m.sender + 1, conf := m.payload } ∧ ∀ j, j ≠ fld m 0 1 → getUnit u j = getUnit s j := by
  refine says_of_own (own := ownIoOpen) (u := modUnit (atTaking m s) (fld m 0 1) fun _ => { owner := pidx m.sender + 1, conf := m.payload })
    rfl ht ?_ ⟨rfl, getUnit_modUnit_same .., fun j hj => (getUnit_modUnit_ne _ _ hj).trans (getUnit_atTaking m s j)⟩
  have hbad : ioOpenBad (atTaking m s) m = ioOpenBad s m := by simp [ioOpenBad]
  have hnine : (decide (fld m 0 1 = 9) && decide (pidx m.sender ≠ 16)) = false := by
    rw [Bool.and_eq_false_imp]
    simp only [decide_eq_true_eq]
    exact fun h => by simp [hserial h]
  have hport : (isUsb (fld m 0 1) && decide ((tget s.field.usbc (fld m 0 1 % 4)).owner ≠ 0) &&
      decide ((tget s.field.usbc (fld m 0 1 % 4)).owner ≠ pidx m.sender + 1)) = false := by
    cases hisusb : isUsb (fld m 0 1) with
    | false => rfl
    | true =>
      rcases husb (of_decide_eq_true hisusb) with h | h <;>
      · rw [getUc] at h
        simp [h]
  unfold ownIoOpen
  dsimp only
  rw [getUnit_atTaking, if_neg (by simp [hfree]), show (pendOf (atTaking m s) 0x0A20 m).party = pidx m.sender from rfl, qReq_atTaking,
    qReq_atTaking, hcq, hpq, hnine, atTaking_field, hport, hbad, checked_of_good hgood]
  rfl

theorem ioClose_waits (ht : Taken 0x0A21 isParty (lenIs 4) m s) (hroom : Room m s) (hu : fld m 0 1 < 14) (hrsv : fld m 1 3 = 0)
    (hmine : (getUnit s (fld m 0 1)).owner = pidx m.sender + 1) (hopen : (getUnit s (fld m 0 1)).closing = none) :
    Waits (fun t => (List.range 14).foldl (fun t u => ioCloseIfDone u t) t) (.ioClose m) 0x0A21 m s fun d r u =>
      (getUnit u (fld m 0 1)).closing = some d ∧ (getUnit u (fld m 0 1)).fly = [] ∧ (getUnit u (fld m 0 1)).owner = pidx m.sender + 1 ∧
      (∀ j, j ≠ fld m 0 1 → getUnit u j = getUnit s j) ∧
      ((getUnit s (fld m 0 1)).fly = [] → u = { r with io := { r.io with unit := u.io.unit } } ∧
        getUnit u (fld m 0 1) = { getUnit s (fld m 0 1) with closing := some d }) := by
  have hown : ownIoClose m (pendOf s 0x0A21 m) (atTaking m s) = (ioAbort (fld m 0 1) stABORTED (fun _ => true)
      (modUnit (atTaking m s) (fld m 0 1) fun t => { t with closing := some (pendOf s 0x0A21 m) }), none) := by
    have hgood : firstBad [(0, decide (13 < fld m 0 1)), (1, rsvBad m 1 3)] = none := by
      simp [rsvBad_eq_false.2 hrsv, show ¬ 13 < fld m 0 1 by omega]
    unfold ownIoClose
    dsimp only
    rw [checked_of_good hgood, getUnit_atTaking, hmine, hopen, if_neg (by omega), show (pendOf s 0x0A21 m).party = pidx m.sender from rfl,
      if_neg (by simp), if_neg (by simp)]
  refine ⟨_, congrArg (fun t => (Host.Outcome.next ((List.range 14).foldl (fun t u => ioCloseIfDone u t) t) : Res)) (serve_of_waits ht hroom hown), ?_⟩
  generalize pendOf s 0x0A21 m = d
  obtain ⟨hsame, hother⟩ := ioAbort_effect (fld m 0 1) stABORTED (fun _ => true) (modUnit (atTaking m s) (fld m 0 1) fun t => { t with closing := some d })
  rw [getUnit_modUnit_same, getUnit_modUnit_same, getUnit_atTaking] at hsame
  refine ⟨by rw [hsame], ?_, by rw [hsame]; exact hmine, fun j hj => ?_, fun hidle => ?_⟩
  · rw [hsame]
    exact List.filter_eq_nil_iff.2 fun _ _ => by simp
  · rw [hother j hj, getUnit_modUnit_ne _ _ hj, getUnit_modUnit_ne _ _ hj, getUnit_atTaking]
  · have hnone : ioAbort (fld m 0 1) stABORTED (fun _ => true) (modUnit (atTaking m s) (fld m 0 1) fun t => { t with closing := some d }) =
        modUnit (modUnit (atTaking m s) (fld m 0 1) fun t => { t with closing := some d }) (fld m 0 1)
          fun t => { t with fly := t.fly.filter fun x => !(fun _ => true) x } := by
      unfold ioAbort
      dsimp only
      rw [getUnit_modUnit_same, getUnit_atTaking, hidle]
      rfl
    rw [hnone]
    refine ⟨rfl, ?_⟩
    rw [getUnit_modUnit_same, getUnit_modUnit_same, getUnit_atTaking, hidle]
    simp [hidle]

/-! ### VNIC_OPEN and VNIC_CLOSE (R502, R504) -/

theorem vnicOpen_says {v : Nat} (ht : Taken 0x0A22 isParty (lenIs 32) m s) (hvlan : (tget s.gw.vlan (fld m 2 2)).owner = pidx m.sender + 1)
    (htx : qReq s (pidx m.sender) (vTx m.payload) = true) (hrx : qReq s (pidx m.sender) (vRx m.payload) = true)
    (hfree : qReq s (pidx m.sender) (vFree m.payload) = true)
    (hdup : ∀ j < 32, (getVnic s j).owner ≠ 0 → field (getVnic s j).conf 2 2 ≠ fld m 2 2 ∨ field (getVnic s j).conf 4 6 ≠ fld m 4 6)
    (hfew : ((List.range 32).filter fun j => decide ((getVnic s j).owner = pidx m.sender + 1)).length < 8) (hgood : firstBad (vnicBad s m) = none)
    (hv : v < 32) (hown0 : (getVnic s v).owner = 0) (hnamed : fld m 0 1 ≠ 0xFF → v = fld m 0 1)
    (hfirst : fld m 0 1 = 0xFF → ∀ j < v, (getVnic s j).owner ≠ 0) :
    Says id (.vnicOpen m) 0x0A22 m s (okWith (leBytes 1 v)) fun r u => u = { r with io := { r.io with vnic := u.io.vnic } } ∧
      getVnic u v = { owner := pidx m.sender + 1, conf := m.payload } ∧ ∀ j, j ≠ v → getVnic u j = getVnic s j := by
  refine says_of_own (own := ownVnicOpen) (u := modVnic (atTaking m s) v fun _ => { owner := pidx m.sender + 1, conf := m.payload })
    rfl ht ?_ ⟨rfl, getVnic_modVnic_same .., fun j hj => (getVnic_modVnic_ne _ _ hj).trans (getVnic_atTaking m s j)⟩
  have hbad : vnicBad (atTaking m s) m = vnicBad s m := by simp [vnicBad]
  have hnodup : (((List.range 32).filter fun v => decide ((getVnic s v).owner ≠ 0)).any fun v =>
      decide (field (getVnic s v).conf 2 2 = fld m 2 2) && decide (field (getVnic s v).conf 4 6 = fld m 4 6)) = false := by
    rw [List.any_eq_false]
    intro j hj
    obtain ⟨hj32, hlive⟩ := List.mem_filter.1 hj
    rcases hdup j (List.mem_range.1 hj32) (of_decide_eq_true hlive) with h | h <;> simp [h]
  have hroom : ¬ (32 ≤ ((List.range 32).filter fun v => decide ((getVnic s v).owner ≠ 0)).length ∨
      8 ≤ (((List.range 32).filter fun v => decide ((getVnic s v).owner ≠ 0)).filter
        fun v => decide ((getVnic s v).owner = pidx m.sender + 1)).length) := by
    rw [not_or, Nat.not_le, Nat.not_le]
    constructor
    · have hlt := List.length_filter_lt_length_iff_exists (l := List.range 32) (p := fun v => decide ((getVnic s v).owner ≠ 0))
      rw [List.length_range] at hlt
      exact hlt.2 ⟨v, List.mem_range.2 hv, by simp [hown0]⟩
    · refine lt_of_le_of_lt ?_ hfew
      rw [List.filter_filter]
      refine List.Sublist.length_le (List.monotone_filter_right _ fun j hj => ?_)
      exact (Bool.and_eq_true_iff.1 hj).1
  have hslot : (if fld m 0 1 = 0xFF then (List.range 32).find? fun v => decide ((getVnic s v).owner = 0) else some (fld m 0 1)) = some v := by
    split
    · next hany =>
      exact List.find?_range_eq_some.2 ⟨by simp [hown0], List.mem_range.2 hv, fun j hj => by simp [hfirst hany j hj]⟩
    · next hone => rw [hnamed hone]
  have htaken : (decide (fld m 0 1 < 32) && decide ((getVnic s (fld m 0 1)).owner ≠ 0)) = false := by
    by_cases hone : fld m 0 1 = 0xFF
    · simp [hone]
    · rw [← hnamed hone]
      simp [hown0]
  unfold ownVnicOpen
  dsimp only
  simp only [getVnic_atTaking]
  rw [show (pendOf (atTaking m s) 0x0A22 m).party = pidx m.sender from rfl, qReq_atTaking, qReq_atTaking, qReq_atTaking, htx, hrx, hfree, hnodup,
    htaken, atTaking_gw, hvlan, if_neg hroom, hbad, checked_of_good hgood, hslot]
  simp

theorem vnicClose_waits (ht : Taken 0x0A23 isParty (lenIs 4) m s) (hroom : Room m s) (hv : fld m 0 1 < 32) (hrsv : fld m 1 3 = 0)
    (hmine : (getVnic s (fld m 0 1)).owner = pidx m.sender + 1) (hopen : (getVnic s (fld m 0 1)).closing = none) :
    Waits (fun t => (List.range 32).foldl (fun t v => vnicCloseIfDone v t) t) (.vnicClose m) 0x0A23 m s fun d r u =>
      u = { r with io := { r.io with vnic := u.io.vnic } } ∧ getVnic u (fld m 0 1) = { getVnic s (fld m 0 1) with closing := some d } ∧
      ∀ j, j ≠ fld m 0 1 → getVnic u j = getVnic s j := by
  have hown : ownVnicClose m (pendOf s 0x0A23 m) (atTaking m s) =
      (modVnic (atTaking m s) (fld m 0 1) fun t => { t with closing := some (pendOf s 0x0A23 m) }, none) := by
    have hgood : firstBad [(0, decide (31 < fld m 0 1)), (1, rsvBad m 1 3)] = none := by
      simp [rsvBad_eq_false.2 hrsv, show ¬ 31 < fld m 0 1 by omega]
    unfold ownVnicClose
    dsimp only
    rw [checked_of_good hgood, getVnic_atTaking, hmine, hopen, if_neg (by omega), show (pendOf s 0x0A23 m).party = pidx m.sender from rfl,
      if_neg (by simp), if_neg (by simp)]
  refine ⟨_, congrArg (fun t => (Host.Outcome.next ((List.range 32).foldl (fun t v => vnicCloseIfDone v t) t) : Res)) (serve_of_waits ht hroom hown),
    rfl, ?_, fun j hj => (getVnic_modVnic_ne _ _ hj).trans (getVnic_atTaking m s j)⟩
  rw [getVnic_modVnic_same, getVnic_atTaking]

end

/-- Settles O48: each message of the field die, the I/O hosts and the virtual interfaces, its checks passed. -/
theorem fieldAndHostMessages : Obligations.FieldAndHostMessages :=
  ⟨fieldMessages, fun _ _ ht hu hfree hcq hpq hserial husb hgood => ioOpen_says ht hu hfree hcq hpq hserial husb hgood,
    fun _ _ ht hroom hu hrsv hmine hopen => ioClose_waits ht hroom hu hrsv hmine hopen,
    fun _ _ _ ht hvlan htx hrx hfree hdup hfew hgood hv hown0 hnamed hfirst =>
      vnicOpen_says ht hvlan htx hrx hfree hdup hfew hgood hv hown0 hnamed hfirst,
    fun _ _ ht hroom hv hrsv hmine hopen => vnicClose_waits ht hroom hv hrsv hmine hopen⟩

end Sys2Proof.Machine

/-! Messages of firmware, the Caddy and resets (R380, R381, R384, R390, R391, R513, R521). -/

namespace Sys2Proof.Machine
open Sys2Proof.Claims

/-! ### Firmware (R380, R381, R384) -/

section
variable (m : Msg) (s : State)

@[simp] theorem committed_atTaking : (atTaking m s).firm.committed = s.firm.committed := by rw [atTaking_firm]
@[simp] theorem act_atTaking : (atTaking m s).firm.act = s.firm.act := by rw [atTaking_firm]
@[simp] theorem staging_atTaking : (atTaking m s).firm.staging = s.firm.staging := by rw [atTaking_firm]
@[simp] theorem staged_atTaking : (atTaking m s).firm.staged = s.firm.staged := by rw [atTaking_firm]
@[simp] theorem slot_atTaking : (atTaking m s).firm.slot = s.firm.slot := by rw [atTaking_firm]
@[simp] theorem counters_atTaking : (atTaking m s).firm.counters = s.firm.counters := by rw [atTaking_firm]
@[simp] theorem revoked_atTaking : (atTaking m s).firm.revoked = s.firm.revoked := by rw [atTaking_firm]
@[simp] theorem level3_atTaking : (atTaking m s).firm.level3 = s.firm.level3 := by rw [atTaking_firm]
@[simp] theorem ucodeLoad_atTaking : (atTaking m s).firm.ucodeLoad = s.firm.ucodeLoad := by rw [atTaking_firm]
@[simp] theorem cal_atTaking : (atTaking m s).firm.cal = s.firm.cal := by rw [atTaking_firm]

@[simp] theorem verdict_atTaking (kind levels set counter : Nat) (img : List Byte) :
    verdict (atTaking m s) kind levels set counter img = verdict s kind levels set counter img := by
  simp [verdict, accepted]

end

/-- One event is one record, in a state that has the Caddy and the time of `s`. -/
theorem wrote_event {s u : State} (hc : u.caddy = s.caddy) (hk : u.ktime = s.ktime) (src code party : Nat) (args : List Byte) :
    ∃ rs : List CadRec, rs.length ≤ 1 ∧ Wrote rs s (event src code party args u) :=
  ⟨[recOf src code party args s], Nat.le_refl 1, ((Wrote.refl s).same hc hk).event ..⟩

/-- A rollback counter goes to the highest level it was given, and the revoked images join: with at most one record. -/
structure Advanced (c level set revoke : Nat) (s t : State) : Prop where
  firm : t.firm = { s.firm with counters := t.firm.counters, revoked := t.firm.revoked }
  only : t = { s with firm := t.firm, caddy := t.caddy }
  counter : tget t.firm.counters c = max (tget s.firm.counters c) level
  counters : ∀ j, j ≠ c → tget t.firm.counters j = tget s.firm.counters j
  image : tget t.firm.revoked set = tget s.firm.revoked set ||| revoke
  images : ∀ j, j ≠ set → tget t.firm.revoked j = tget s.firm.revoked j
  wrote : ∃ rs : List CadRec, rs.length ≤ 1 ∧ Wrote rs s t

theorem advanced (c level set revoke : Nat) (s : State) : Advanced c level set revoke s (advance c level set revoke s) := by
  unfold advance
  dsimp only
  split
  · next h =>
    obtain ⟨hlevel, hrevoke⟩ := h
    exact ⟨rfl, rfl, (Nat.max_eq_left hlevel).symm, fun _ _ => rfl, hrevoke.symm, fun _ _ => rfl, [], by simp, .refl s⟩
  · exact ⟨rfl, rfl, tget_tput_same .., fun j hj => tget_tput_ne _ _ hj, tget_tput_same .., fun j hj => tget_tput_ne _ _ hj,
      wrote_event (by exact rfl) (by exact rfl) _ _ _ _⟩

section
variable {m : Msg} {s : State}

theorem fwStage_waits (ht : Taken 0x0B00 isGs (lenIs 16) m s) (hroom : Room m s) (hrsv : fld m 6 2 = 0) (hrsv' : fld m 12 4 = 0)
    (hlo : hdrBytes ≤ fld m 8 4) (hhi : fld m 8 4 ≤ 0x800000) (hin : inReq s 16 (fld m 0 6) (fld m 8 4) = true) (hcom : s.firm.committed = true)
    (hact : s.firm.act = .none) (hstaging : s.firm.staging = none) {img : List Byte} (himg : memRead s (fld m 0 6) (fld m 8 4) = img) :
    Waits id (.fwStage m) 0x0B00 m s fun d r u => u = { r with firm := { r.firm with
      staging := some (d, { full := true, release := field img 8 4, afi := field img 6 2, rollback := field img 12 2, revoke := field img 15 1
                            digest := sha img }, verdict s 1 64 0 0 img) } } := by
  have hgood : firstBad [(6, rsvBad m 6 2), (8, decide (fld m 8 4 < hdrBytes) || decide (0x800000 < fld m 8 4)), (12, rsvBad m 12 4)] = none := by
    simp only [firstBad_cons, firstBad_nil, rsvBad_eq_false.2 hrsv, rsvBad_eq_false.2 hrsv', Nat.not_lt.2 hlo, Nat.not_lt.2 hhi, decide_false,
      Bool.or_false, Bool.false_eq_true, if_false]
  refine waits_of_own (own := ownFwStage) (u := modFirm (atTaking m s) fun f => { f with
      staging := some (pendOf s 0x0B00 m, { full := true, release := field img 8 4, afi := field img 6 2, rollback := field img 12 2,
                                            revoke := field img 15 1, digest := sha img }, verdict s 1 64 0 0 img) }) rfl ht hroom ?_ rfl
  unfold ownFwStage
  dsimp only
  rw [checked_of_good hgood, inReq_atTaking, hin, committed_atTaking, hcom, act_atTaking, hact, staging_atTaking, hstaging, memRead_atTaking, himg,
    verdict_atTaking]
  rfl

theorem fwActivate_waits (ht : Taken 0x0B01 isGs (lenIs 8) m s) (hroom : Room m s) (hfl : fld m 0 1 < 4) (hrsv : fld m 1 7 = 0)
    (hrevert : bitOf (fld m 0 1) 1 = true → s.firm.committed = false)
    (hnew : bitOf (fld m 0 1) 1 = false → s.firm.staged = true ∧ (bitOf (fld m 0 1) 0 = true ∨ (otherSlot s).afi = (runSlot s).afi))
    (hst : s.pw.st = .run ∨ s.pw.st = .hush) (hthermal : s.pw.thermalDoze = false) (hforced : s.pw.forced = false) (hact : s.firm.act = .none)
    (hstaging : s.firm.staging = none) :
    Waits id (.fwActivate m) 0x0B01 m s fun d r u => u = { r with firm := { r.firm with act := .asked, actFlags := fld m 0 1, actPend := d } } := by
  have hgood : firstBad [(0, decide (4 ≤ fld m 0 1)), (1, rsvBad m 1 7)] = none := by
    simp only [firstBad_cons, firstBad_nil, rsvBad_eq_false.2 hrsv, Nat.not_le.2 hfl, decide_false, Bool.false_eq_true, if_false]
  have hready : (if bitOf (fld m 0 1) 1 then s.firm.committed else !s.firm.staged) = false := by
    cases hb : bitOf (fld m 0 1) 1
    · simp [(hnew hb).1]
    · simp [hrevert hb]
  have hafi : firstBad [(0, !bitOf (fld m 0 1) 1 && !bitOf (fld m 0 1) 0 && decide ((otherSlot s).afi ≠ (runSlot s).afi))] = none := by
    cases hb : bitOf (fld m 0 1) 1
    · rcases (hnew hb).2 with h | h <;> simp [h]
    · simp
  have hawake : decide (2 ≤ pCode s.pw.st) = false := by rcases hst with h | h <;> rw [h] <;> rfl
  refine waits_of_own (own := ownFwActivate) (u := modFirm (atTaking m s) fun f =>
    { f with act := .asked, actFlags := fld m 0 1, actPend := pendOf s 0x0B01 m }) rfl ht hroom ?_ rfl
  unfold ownFwActivate
  dsimp only
  rw [checked_of_good hgood, committed_atTaking, staged_atTaking, hready, refusedBy_cons_false, refusedBy_nil, otherSlot_atTaking, runSlot_atTaking,
    checked_of_good hafi, atTaking_pw, hawake, hthermal, hforced, act_atTaking, hact, staging_atTaking, hstaging]
  rfl

theorem fwCommit_says (ht : Taken 0x0B02 isGs (lenIs 0) m s) (hcom : s.firm.committed = false) :
    Says id (.fwCommit m) 0x0B02 m s ok fun r u => FirmOnly r u ∧ u.firm.committed = true ∧ u.firm.slot = s.firm.slot ∧
      tget u.firm.counters 0 = max (tget s.firm.counters 0) (runSlot s).rollback ∧
      tget u.firm.counters 3 = max (tget s.firm.counters 3) (s.firm.level3 % 256) ∧
      (∀ c, c ≠ 0 → c ≠ 3 → tget u.firm.counters c = tget s.firm.counters c) ∧
      tget u.firm.revoked 0 = tget s.firm.revoked 0 ||| (runSlot s).revoke ∧
      tget u.firm.revoked 1 = tget s.firm.revoked 1 ||| s.firm.level3 / 256 ∧
      ∃ i ≤ 2, LogsNth i 0xA004 srcAfzan (leBytes 1 s.firm.slot ++ leBytes 2 (runSlot s).rollback) r u := by
  generalize hc : modFirm (atTaking m s) (fun f => { f with committed := true }) = c
  have hfirm : c.firm = { (atTaking m s).firm with committed := true } := by rw [← hc]; rfl
  have hwrote : Wrote [] (atTaking m s) c := by rw [← hc]; exact (Wrote.refl _).same rfl rfl
  have honlyc : c = { atTaking m s with firm := c.firm, caddy := c.caddy } := by rw [← hc]; rfl
  have hown : ownFwCommit m (pendOf (atTaking m s) 0x0B02 m) (atTaking m s) = say ok (event srcAfzan 0xA004 noParty
      (leBytes 1 (advance 3 (c.firm.level3 % 256) 1 (c.firm.level3 / 256) (advance 0 (runSlot s).rollback 0 (runSlot s).revoke c)).firm.slot ++
        leBytes 2 (runSlot s).rollback)
      (advance 3 (c.firm.level3 % 256) 1 (c.firm.level3 / 256) (advance 0 (runSlot s).rollback 0 (runSlot s).revoke c))) := by
    unfold ownFwCommit
    rw [committed_atTaking, hcom, refusedBy_cons_false, refusedBy_nil, ← hc, ← runSlot_atTaking m s]
  have hlevel : c.firm.level3 = s.firm.level3 := by rw [hfirm]; exact level3_atTaking m s
  rw [hlevel] at hown
  obtain ⟨hfirm0, honly0, hcount0, hcounts0, himage0, himages0, rs0, hlen0, hwrote0⟩ := advanced 0 (runSlot s).rollback 0 (runSlot s).revoke c
  generalize advance 0 (runSlot s).rollback 0 (runSlot s).revoke c = a at *
  obtain ⟨hfirm3, honly3, hcount3, hcounts3, himage3, himages3, rs3, hlen3, hwrote3⟩ := advanced 3 (s.firm.level3 % 256) 1 (s.firm.level3 / 256) a
  generalize advance 3 (s.firm.level3 % 256) 1 (s.firm.level3 / 256) a = b at *
  have hcounters : ∀ j, tget c.firm.counters j = tget s.firm.counters j := fun j => by rw [hfirm]; simp
  have hrevoked : ∀ j, tget c.firm.revoked j = tget s.firm.revoked j := fun j => by rw [hfirm]; simp
  have hslot : b.firm.slot = s.firm.slot := by
    rw [hfirm3, hfirm0, hfirm]
    exact slot_atTaking m s
  refine says_of_own (own := ownFwCommit) rfl ht hown ⟨?_, ?_, hslot, ?_, ?_, fun j h0 h3 => ?_, ?_, ?_, rs0.length + rs3.length, by omega, ?_⟩
  · have honly : b = { atTaking m s with firm := b.firm, caddy := b.caddy } := by
      rw [honly3, honly0, honlyc]
    exact congrArg (fun v : State => { v with
      caddy := (event srcAfzan 0xA004 noParty (leBytes 1 b.firm.slot ++ leBytes 2 (runSlot s).rollback) b).caddy }) honly
  · show b.firm.committed = true
    rw [hfirm3, hfirm0, hfirm]
  · exact ((hcounts3 0 (by decide)).trans hcount0).trans (by rw [hcounters])
  · exact hcount3.trans (by rw [hcounts0 3 (by decide), hcounters])
  · exact ((hcounts3 j h3).trans (hcounts0 j h0)).trans (hcounters j)
  · exact ((himages3 0 (by decide)).trans himage0).trans (by rw [hrevoked])
  · exact himage3.trans (by rw [himages0 1 (by decide), hrevoked])
  · have hw := ((hwrote.trans hwrote0).trans hwrote3).event srcAfzan 0xA004 noParty (leBytes 1 b.firm.slot ++ leBytes 2 (runSlot s).rollback)
    rw [hslot] at hw ⊢
    exact hw.logsNth (by simp) (by simp; omega) (List.getElem_concat_length (by simp) _) (by simp)

/-! ### Microcode and calibration (R390, R391) -/

theorem ucodeLoad_waits (ht : Taken 0x0B04 isGs (lenIs 16) m s) (hroom : Room m s) (hrsv : fld m 6 2 = 0) (hrsv' : fld m 12 4 = 0)
    (hlo : hdrBytes ≤ fld m 8 4) (hhi : fld m 8 4 ≤ 0x40000) (hin : inReq s 16 (fld m 0 6) (fld m 8 4) = true) (hload : s.firm.ucodeLoad = none)
    {img : List Byte} (himg : memRead s (fld m 0 6) (fld m 8 4) = img) {v : Nat × Nat} (hv : verdict s 2 32 0 1 img = v) :
    Waits (fun t => settle (giveDue t)) (.ucodeLoad m) 0x0B04 m s fun d r u =>
      (v.1 ≠ stOK → u = { r with firm := { r.firm with due := r.firm.due ++ [(d, v.1, v.2)] } }) ∧
      (v.1 = stOK → u = { r with firm := { r.firm with
        ucodeLoad := some (d, { version := field img 8 2, rollback := field img 12 2, revoke := field img 15 1, digest := sha img })
        deriving_ := true } }) := by
  have hgood : firstBad [(6, rsvBad m 6 2), (8, decide (fld m 8 4 < hdrBytes) || decide (0x40000 < fld m 8 4)), (12, rsvBad m 12 4)] = none := by
    simp only [firstBad_cons, firstBad_nil, rsvBad_eq_false.2 hrsv, rsvBad_eq_false.2 hrsv', Nat.not_lt.2 hlo, Nat.not_lt.2 hhi, decide_false,
      Bool.or_false, Bool.false_eq_true, if_false]
  have hown : ownUcodeLoad m (pendOf s 0x0B04 m) (atTaking m s) = if v.1 ≠ stOK then later (pendOf s 0x0B04 m) v (atTaking m s) else
      (modFirm (atTaking m s) fun f => { f with
        ucodeLoad := some (pendOf s 0x0B04 m, { version := field img 8 2, rollback := field img 12 2, revoke := field img 15 1, digest := sha img })
        deriving_ := true }, none) := by
    unfold ownUcodeLoad
    dsimp only
    rw [checked_of_good hgood, inReq_atTaking, hin, ucodeLoad_atTaking, hload, memRead_atTaking, himg, verdict_atTaking, hv]
    rfl
  have hexec : exec (.ucodeLoad m) s = .next (if taken (pidx m.sender) s (serve 0x0B04 isGs (lenIs 16) ownUcodeLoad m s) then
      settle (giveDue (serve 0x0B04 isGs (lenIs 16) ownUcodeLoad m s)) else serve 0x0B04 isGs (lenIs 16) ownUcodeLoad m s) := by
    rw [pidx_of_isGs ht]
    rfl
  by_cases hok : v.1 = stOK
  · rw [if_neg (by simpa using hok)] at hown
    exact waits_then (f := fun t => settle (giveDue t)) hexec ht hroom hown ⟨fun hbad => absurd hok hbad, fun _ => rfl⟩
  · rw [if_pos hok] at hown
    exact waits_then (f := fun t => settle (giveDue t)) hexec ht hroom hown ⟨fun _ => rfl, fun h => absurd h hok⟩

/-- What a calibration table that comes into force changes. -/
theorem applyCal_effect (k : Nat) (img : List Byte) (s : State) : (applyCal k img s).firm = { s.firm with cal := tput s.firm.cal k (img.drop hdrBytes) } ∧
    (k = 1 → (applyCal k img s).pw.trim = trimOf (img.drop hdrBytes)) ∧ (k ≠ 1 → (applyCal k img s).pw = s.pw) ∧
    applyCal k img s = { s with firm := (applyCal k img s).firm, pw := (applyCal k img s).pw, caddy := (applyCal k img s).caddy } ∧
    Wrote [recOf srcAfzan 0xA006 noParty (leBytes 1 k ++ leBytes 4 (field img 8 4)) s] s (applyCal k img s) := by
  unfold applyCal
  dsimp only
  split
  · next h => exact ⟨rfl, fun _ => rfl, fun hne => absurd h hne, rfl, rfl, rfl⟩
  · next h => exact ⟨rfl, fun hk => absurd hk h, fun _ => rfl, rfl, rfl, rfl⟩

theorem calLoad_waits {k set : Nat} {img body : List Byte} {v : Nat × Nat} (hkdef : fld m 12 1 = k)
    (himg : memRead s (fld m 0 6) (fld m 8 4) = img) (hbody : img.drop hdrBytes = body) (hset : (if k = 1 then 0 else 1) = set)
    (hv : verdict s 3 32 set 2 img = v)
    (ht : Taken 0x0B05 isGs (lenIs 16) m s) (hroom : Room m s) (hrsv : fld m 6 2 = 0) (hlo : 1 ≤ k) (hhi : k ≤ 3) (hrsv' : fld m 13 3 = 0)
    (hsize : fld m 8 4 = hdrBytes + calBytes k) (hin : inReq s 16 (fld m 0 6) (fld m 8 4) = true) :
    Waits giveDue (.calLoad m) 0x0B05 m s fun d r u =>
      (v.1 ≠ stOK → u = { r with firm := { r.firm with due := r.firm.due ++ [(d, v.1, v.2)] } }) ∧
      (v.1 = stOK → ∀ o, trimBad k body = some o →
        u = { r with firm := { r.firm with due := r.firm.due ++ [(d, stBAD_ARG, 2 ^ 63 + hdrBytes + o)] } }) ∧
      (v.1 = stOK → trimBad k body = none → u.firm.due = r.firm.due ++ [(d, stOK, 0)] ∧ tget u.firm.cal k = body ∧
        (∀ j, j ≠ k → tget u.firm.cal j = tget s.firm.cal j) ∧ (k = 1 → u.pw.trim = trimOf body) ∧ (k ≠ 1 → u.pw = r.pw) ∧
        tget u.firm.counters 2 = max (tget s.firm.counters 2) (field img 12 2) ∧
        tget u.firm.revoked set = tget s.firm.revoked set ||| field img 15 1 ∧
        Logs 0xA006 srcAfzan (leBytes 1 k ++ leBytes 4 (field img 8 4)) r u ∧
        u = { r with firm := u.firm, pw := u.pw, caddy := u.caddy }) := by
  have hcal : calBytes k ≤ 128 := by
    unfold calBytes
    split <;> [omega; split <;> omega]
  have hgood : firstBad [(6, rsvBad m 6 2), (8, decide (fld m 8 4 = 0) || decide (0x10000 < fld m 8 4)), (12, decide (k = 0) || decide (4 ≤ k)),
      (13, rsvBad m 13 3)] = none := by
    have hbytes : hdrBytes = 17408 := rfl
    simp only [firstBad_cons, firstBad_nil, rsvBad_eq_false.2 hrsv, rsvBad_eq_false.2 hrsv', show ¬ fld m 8 4 = 0 by omega,
      show ¬ 0x10000 < fld m 8 4 by omega, show ¬ k = 0 by omega, show ¬ 4 ≤ k by omega, decide_false, Bool.or_false, Bool.false_eq_true, if_false]
  have hgood' : firstBad [(8, decide (fld m 8 4 ≠ hdrBytes + calBytes k))] = none := by simp [hsize]
  have hown : ownCalLoad m (pendOf s 0x0B05 m) (atTaking m s) = if v.1 ≠ stOK then later (pendOf s 0x0B05 m) v (atTaking m s) else
      match trimBad k body with
      | some o => later (pendOf s 0x0B05 m) (stBAD_ARG, 2 ^ 63 + hdrBytes + o) (atTaking m s)
      | none => later (pendOf s 0x0B05 m) (stOK, 0) (advance 2 (field img 12 2) set (field img 15 1) (applyCal k img (atTaking m s))) := by
    unfold ownCalLoad
    dsimp only
    rw [hkdef, checked_of_good hgood, checked_of_good hgood', inReq_atTaking, hin, memRead_atTaking, himg, hset, verdict_atTaking, hv, hbody] <;> rfl
  have hexec : exec (.calLoad m) s = .next (if taken (pidx m.sender) s (serve 0x0B05 isGs (lenIs 16) ownCalLoad m s) then
      giveDue (serve 0x0B05 isGs (lenIs 16) ownCalLoad m s) else serve 0x0B05 isGs (lenIs 16) ownCalLoad m s) := by
    rw [pidx_of_isGs ht]
    rfl
  by_cases hok : v.1 = stOK
  · rw [if_neg (by simpa using hok)] at hown
    cases htrim : trimBad k body with
    | some o =>
      rw [htrim] at hown
      refine waits_then hexec ht hroom hown ⟨fun hbad => absurd hok hbad, ?_, fun _ h => absurd h (by simp)⟩
      rintro - o' ⟨⟩
      rfl
    | none =>
      rw [htrim] at hown
      refine waits_then hexec ht hroom hown ⟨fun hbad => absurd hok hbad, fun _ _ h => absurd h (by simp), fun _ _ => ?_⟩
      obtain ⟨hfirm, htrims, hpw, honly, hwrote⟩ := applyCal_effect k img (atTaking m s)
      generalize applyCal k img (atTaking m s) = a at *
      obtain ⟨hfirm', honly', hcount, -, himage, -, rs, hlen, hwrote'⟩ := advanced 2 (field img 12 2) set (field img 15 1) a
      generalize advance 2 (field img 12 2) set (field img 15 1) a = b at *
      have hpw' : b.pw = a.pw := (congrArg State.pw honly').trans rfl
      have hcals : b.firm.cal = tput s.firm.cal k body := by
        rw [hfirm', hfirm, hbody, cal_atTaking]
      refine ⟨?_, ?_, fun j hj => ?_, fun hk => ?_, fun hk => ?_, ?_, ?_, ?_, ?_⟩
      · show b.firm.due ++ [(pendOf s 0x0B05 m, stOK, 0)] = _
        rw [hfirm', hfirm]
      · exact (congrArg (tget · k) hcals).trans (tget_tput_same ..)
      · exact (congrArg (tget · j) hcals).trans (tget_tput_ne _ _ hj)
      · exact (congrArg (·.trim) hpw').trans ((htrims hk).trans (by rw [hbody]))
      · exact hpw'.trans (hpw hk)
      · exact hcount.trans (by rw [hfirm, counters_atTaking])
      · exact himage.trans (by rw [hfirm, revoked_atTaking])
      · exact ((hwrote.trans hwrote').same rfl rfl).logs (Nat.lt_of_le_of_lt hlen (by decide)) rfl (by simp)
      · rw [honly', honly]
        rfl
  · rw [if_pos hok] at hown
    exact waits_then hexec ht hroom hown ⟨fun _ => rfl, fun h => absurd h hok, fun h => absurd h hok⟩

end

theorem firmwareMessages : FirmwareMessages :=
  ⟨fun _ _ ht hroom hrsv hrsv' hlo hhi hin hcom hact hstaging => fwStage_waits ht hroom hrsv hrsv' hlo hhi hin hcom hact hstaging rfl,
    fun _ _ ht hroom hfl hrsv hrevert hnew hst hthermal hforced hact hstaging =>
      fwActivate_waits ht hroom hfl hrsv hrevert hnew hst hthermal hforced hact hstaging,
    fun _ _ ht hcom => fwCommit_says ht hcom,
    fun _ _ ht hroom hrsv hrsv' hlo hhi hin hload => ucodeLoad_waits ht hroom hrsv hrsv' hlo hhi hin hload rfl rfl,
    fun _ _ ht hroom hrsv hlo hhi hrsv' hsize hin => calLoad_waits rfl rfl rfl rfl rfl ht hroom hrsv hlo hhi hrsv' hsize hin⟩

/-! ### The Caddy's messages, and RESET (R513, R521) -/

section
variable {m : Msg} {s : State}

theorem length_of_taken {code n : Nat} {allow : Nat → Bool} (ht : Taken code allow (lenIs n) m s) : m.payload.length = n := by
  obtain ⟨-, -, -, hheader, -, -⟩ := ht
  by_contra hne
  rw [headerBad_length (len := n) (by omega)] at hheader
  cases hheader

theorem caddyMark_says (ht : Taken 0x0B10 isGsGx (lenIs 12) m s) {t : State}
    (htdef : event srcCaddy 0xA0F1 (pidx m.sender) m.payload (atTaking m s) = t) :
    Says id (.caddyMark m) 0x0B10 m s
      (okWith (leBytes 4 ((t.caddy.next + 2 ^ 32 - 1) % 2 ^ 32) ++ leBytes 4 t.caddy.oldest ++ leBytes 4 t.caddy.flushed ++
        leBytes 1 (b2n t.caddy.frozen) ++ leBytes 3 0 ++ leBytes 8 t.caddy.lost.val ++ leBytes 8 t.caddy.flashLost.val))
      fun r u => Logs 0xA0F1 srcCaddy m.payload r u ∧
        u = { t with caddy := { t.caddy with lost := { t.caddy.lost with ovf := false }, flashLost := { t.caddy.flashLost with ovf := false } } } := by
  have hlen := length_of_taken ht
  have hown : (fun (m : Msg) (d : Pend) (s : State) =>
      let s := event srcCaddy 0xA0F1 d.party (m.payload.take 12) s
      say (okWith (caddyStatus s)) (caddyRead s)) m (pendOf (atTaking m s) 0x0B10 m) (atTaking m s) = say (okWith (caddyStatus t)) (caddyRead t) := by
    dsimp only
    rw [List.take_of_length_le (by omega), show (pendOf (atTaking m s) 0x0B10 m).party = pidx m.sender from rfl, htdef]
  refine says_of_own rfl ht hown ⟨?_, rfl⟩
  have hlog : Logs 0xA0F1 srcCaddy m.payload (atTaking m s) t :=
    logs_event (u := atTaking m s) (party := pidx m.sender) (by omega) rfl rfl (by rw [← htdef]) (by rw [← htdef]; rfl)
  exact logs_of_ring hlog rfl

theorem caddyFlush_waits (ht : Taken 0x0B11 isGsGx (lenIs 0) m s) (hroom : Room m s) :
    Waits id (.caddyFlush m) 0x0B11 m s fun d r u =>
      u = { r with caddy := { r.caddy with flushing := true, flushPend := r.caddy.flushPend ++ [d] } } :=
  waits_of_own (own := fun _ d s => (flushNow { s with caddy := { s.caddy with flushPend := s.caddy.flushPend ++ [d] } }, none)) rfl ht hroom rfl rfl

theorem reset_says (ht : Taken 0x0B12 isGsGx (lenIs 8) m s) (hlo : 2 ≤ fld m 0 1) (hhi : fld m 0 1 ≤ 4) (hrsv : fld m 2 6 = 0) :
    Says resetDone (.reset m) 0x0B12 m s ok fun r u =>
      u = { r with boot := { r.boot with resetAsk := some (fld m 0 1, pidx m.sender) } } := by
  have hgood : firstBad [(0, decide (fld m 0 1 = 0) || decide (4 < fld m 0 1)),
      (1, decide (fld m 0 1 = 1) && (decide (16 ≤ fld m 1 1) || !(getEst (atTaking m s) (fld m 1 1)).live)), (2, rsvBad m 2 6)] = none := by
    simp only [firstBad_cons, firstBad_nil, rsvBad_eq_false.2 hrsv, show ¬ fld m 0 1 = 0 by omega, show ¬ 4 < fld m 0 1 by omega,
      show ¬ fld m 0 1 = 1 by omega, decide_false, Bool.or_false, Bool.false_and, Bool.false_eq_true, if_false]
  have hown : ownReset m (pendOf (atTaking m s) 0x0B12 m) (atTaking m s) =
      say ok (modBoot (atTaking m s) fun b => { b with resetAsk := some (fld m 0 1, pidx m.sender) }) := by
    unfold ownReset
    dsimp only
    rw [checked_of_good hgood, if_neg (by omega)]
    rfl
  exact ⟨_, congrArg (fun t => (Host.Outcome.next (resetDone t) : Res)) (serve_of_taken ht hown), rfl⟩

end

/-! ### The reset of an estate (R513, R515) -/

/-- The table lists no job of estate `e`, and none that waits for a replay. -/
def Emptied (e : Nat) (t : Tab Estate) : Prop := ∀ x ∈ t, x.1 = e → x.2.job = none ∧ x.2.replay = none

theorem Emptied.fired {e : Nat} {t u : Tab Estate} (h : Emptied e t) (f : Fired t u) : Emptied e u := by
  induction f with
  | refl => exact h
  | fire ns _ ih =>
    intro x hx he
    obtain ⟨y, hy, rfl⟩ := List.mem_map.1 (List.mem_of_mem_filter hx)
    obtain ⟨hjob, hreplay⟩ := ih y hy he
    rw [show (Estate.fire ns y.2).job = y.2.job.map (Job.fire ns) from rfl, show (Estate.fire ns y.2).replay = y.2.replay.map (Job.fire ns) from rfl,
      hjob, hreplay]
    exact ⟨rfl, rfl⟩

theorem Emptied.none {e : Nat} {t : Tab Estate} (h : Emptied e t) : (tget t e).job = none ∧ (tget t e).replay = none := by
  induction t with
  | nil => exact ⟨rfl, rfl⟩
  | cons y t ih =>
    obtain ⟨k, v⟩ := y
    simp only [tget]
    split
    · next hk => exact h (k, v) (List.mem_cons_self ..) hk
    · exact ih fun x hx => h x (List.mem_cons_of_mem _ hx)

theorem emptied_tput (e : Nat) {v : Estate} (hjob : v.job = none) (hreplay : v.replay = none) (t : Tab Estate) : Emptied e (tput t e v) := by
  intro x hx he
  rcases mem_tins hx with rfl | hx
  · exact ⟨hjob, hreplay⟩
  · exact absurd he (by simpa using (List.mem_filter.1 hx).2)

theorem emptied_modEst {e : Nat} {s : State} (f : Estate → Estate) (hjob : (f (getEst s e)).job = none) (hreplay : (f (getEst s e)).replay = none) :
    Emptied e (modEst s e f).jobs.est := emptied_tput e hjob hreplay _

theorem fired_writeDone (d : Nat × Nat × List Byte) (s : State) : Fired s.jobs.est (writeDone d s).jobs.est :=
  (posted_complete d.1 d.2.2 (dropWatches d.2.1 s)).est

/-- With its job ended and its replay dropped, an estate has neither. -/
theorem dropReplay_empties {e : Nat} (status reason : Nat) {s : State} (hjob : jobOf s e = none) :
    jobOf (dropReplay e status reason s) e = none ∧ (getEst (dropReplay e status reason s) e).replay = none := by
  unfold dropReplay
  split
  · next hreplay => exact ⟨hjob, hreplay⟩
  · dsimp only
    refine Emptied.none (Emptied.fired ?_ (fired_writeDone ..))
    exact Emptied.fired (emptied_modEst _ hjob rfl) (posted_closeRec ..).est

theorem jobs_wipeSegs (l : Nat) (ks : List Nat) (s : State) : (ks.foldl (fun s k => segWipe l k (segSet l k .off s)) s).jobs = s.jobs := by
  induction ks generalizing s with
  | nil => rfl
  | cons k ks ih => exact (ih _).trans rfl

theorem jobs_segEvent (l before : Nat) (s : State) : (segEvent l before s).jobs = s.jobs := by
  unfold segEvent
  split
  · rfl
  · exact event_jobs ..

theorem jobs_segsOff (l : Nat) (s : State) : (segsOff l s).jobs = s.jobs := (jobs_segEvent ..).trans (jobs_wipeSegs ..)

theorem jobs_leafWipe (l : Nat) (s : State) : (leafWipe l s).jobs = s.jobs := by
  refine Eq.trans ?_ (jobs_segsOff l s)
  unfold leafWipe leafStop
  generalize segsOff l s = u
  rfl

theorem jobs_wipeLeaves (ls : List Nat) (s : State) :
    (ls.foldl (fun s l => if (getLeaf s l).kind = .fenced then s else leafWipe l s) s).jobs = s.jobs := by
  induction ls generalizing s with
  | nil => rfl
  | cons l ls ih =>
    refine (ih _).trans ?_
    dsimp only
    split
    · rfl
    · exact jobs_leafWipe l s

/-- The state in which a reset of an estate gives way to what waited for it. -/
def wipedEst (e req : Nat) (s : State) : State :=
  resetEvent 1 req 0 (liftFreeze ((getEst (keptZero e (dropReplay e stABORTED stNOT_READY (abortJob e stNOT_READY s))) e).leaves.foldl
    (fun s l => if (getLeaf s l).kind = .fenced then s else leafWipe l s) (keptZero e (dropReplay e stABORTED stNOT_READY (abortJob e stNOT_READY s)))))

theorem estateReset_eq {e : Nat} (req : Nat) {s : State} (h : (getEst s e).halted = false) : estateReset e req s = settle (wipedEst e req s) := by
  unfold estateReset
  rw [h]
  rfl

/-- An estate's reset ends its job, drops its replay, loses its kept buffers, and lifts a freeze of the Caddy. -/
theorem wipedEst_effect (e req : Nat) (s : State) : jobOf (wipedEst e req s) e = none ∧ (getEst (wipedEst e req s) e).replay = none ∧
    (∀ k ∈ (getEst (wipedEst e req s) e).kept, k.data = [] ∧ k.lost = true) ∧ (wipedEst e req s).caddy.frozen = false := by
  obtain ⟨hjob, hreplay⟩ := dropReplay_empties stABORTED stNOT_READY (jobOf_endJob e stABORTED stNOT_READY s)
  have hest : getEst (wipedEst e req s) e = getEst (keptZero e (dropReplay e stABORTED stNOT_READY (abortJob e stNOT_READY s))) e :=
    congrArg (fun j : Jobs => tget j.est e) (jobs_wipeLeaves ..)
  have hkept := getEst_modEst_same (dropReplay e stABORTED stNOT_READY (abortJob e stNOT_READY s)) e fun x =>
    { x with kept := x.kept.map (fun (k : Kept) => { k with data := [], lost := true, pieces := [] }), last := (0, 0, 0), lentBy := none
             switchBack := false }
  rw [keptZero, hkept] at hest
  rw [jobOf, hest]
  refine ⟨hjob, hreplay, fun k hk => ?_, rfl⟩
  obtain ⟨k', -, rfl⟩ := List.mem_map.1 hk
  exact ⟨rfl, rfl⟩

section
variable {m : Msg} {s : State}

theorem reset_waits (ht : Taken 0x0B12 isGsGx (lenIs 8) m s) (hroom : Room m s) (hscope : fld m 0 1 = 1) (he : fld m 1 1 < 16)
    (hlive : (getEst s (fld m 1 1)).live = true) (hrsv : fld m 2 6 = 0) (hhalt : (getEst s (fld m 1 1)).halted = false) :
    Waits resetDone (.reset m) 0x0B12 m s fun d _ u => ∃ w, u = { settle w with boot := { (settle w).boot with resetPend := some d } } ∧
      jobOf w (fld m 1 1) = none ∧ (getEst w (fld m 1 1)).replay = none ∧
      (∀ k ∈ (getEst w (fld m 1 1)).kept, k.data = [] ∧ k.lost = true) ∧ w.caddy.frozen = false := by
  have hgood : firstBad [(0, decide (fld m 0 1 = 0) || decide (4 < fld m 0 1)),
      (1, decide (fld m 0 1 = 1) && (decide (16 ≤ fld m 1 1) || !(getEst (atTaking m s) (fld m 1 1)).live)), (2, rsvBad m 2 6)] = none := by
    rw [getEst_atTaking, hlive]
    simp only [firstBad_cons, firstBad_nil, rsvBad_eq_false.2 hrsv, hscope, Nat.not_le.2 he, decide_false, Bool.or_false, Bool.and_false,
      Bool.not_true, Bool.false_eq_true, if_false, show ¬ (1 : Nat) = 0 by decide, show ¬ 4 < 1 by decide]
  have hown : ownReset m (pendOf s 0x0B12 m) (atTaking m s) = (modBoot (settle (wipedEst (fld m 1 1) (pidx m.sender) (atTaking m s)))
      fun b => { b with resetPend := some (pendOf s 0x0B12 m) }, none) := by
    unfold ownReset
    dsimp only
    rw [checked_of_good hgood, if_pos hscope, estateReset_eq _ (by rw [getEst_atTaking]; exact hhalt)]
    rfl
  exact ⟨_, congrArg (fun t => (Host.Outcome.next (resetDone t) : Res)) (serve_of_waits ht hroom hown), _, rfl, wipedEst_effect ..⟩

end

/-- Settles O49: each message of firmware, the Caddy and resets, its checks passed. -/
theorem firmwareAndResetMessages : Obligations.FirmwareAndResetMessages :=
  ⟨firmwareMessages, fun _ _ ht => caddyMark_says ht rfl, fun _ _ ht hroom => caddyFlush_waits ht hroom,
    fun _ _ ht hlo hhi hrsv => reset_says ht hlo hhi hrsv,
    fun _ _ ht hroom hscope he hlive hrsv hhalt => reset_waits ht hroom hscope he hlive hrsv hhalt⟩

end Sys2Proof.Machine

/-! A harness fault's record and its event (R103, R486, R487). -/

namespace Sys2Proof.Machine
open Sys2Proof.Claims

/-- A pair of switch inputs whose EVENT_QUEUE lies in the scratchpad of a leaf that was fenced since. -/
def pairOfFencedQueue : State :=
  { State.reset with
    pw := { supplied := true }
    lv := { leaf := [(0, { kind := .fenced })] }
    queue := [(0, { bound := true, base := spBase 0, lg := 3 })]
    field := { linkUp := true, vbat := 1200, park := false, ch := [(chKey 0 0, { owner := 1, evq := 1, conf := [16] })] } }

/-- Refutes O50: where a channel's EVENT_QUEUE lies in the scratchpad of a fenced leaf (R103), the record of a PAIR_IMPLAUSIBLE is refused
with event 0x2001, and this event, not 0x6002, is the next. -/
theorem not_fieldChannels : ¬ Obligations.FieldChannels := by
  unfold Obligations.FieldChannels
  rintro ⟨⟨⟨-, -, himplausible, -⟩, -⟩, -⟩
  obtain ⟨t, hexec, -, -, hlogged⟩ := himplausible 0 pairOfFencedQueue (by decide +kernel) (by decide) (by decide +kernel) (by decide +kernel)
    (by decide +kernel) (by decide +kernel)
  obtain ⟨hcode, -⟩ := hlogged (by decide +kernel) (by decide +kernel)
  have hnext : exec (.pairImplausible 0) pairOfFencedQueue = .next (chFault 0 0 7 false pairOfFencedQueue) := by
    have hfound : (fieldRuns pairOfFencedQueue && decide (pairBase pairOfFencedQueue 0 = some 0) &&
        decide ((getCh pairOfFencedQueue 0 0).owner ≠ 0) && decide ((getCh pairOfFencedQueue 0 0).fault ≠ 7) &&
        (bitOf pairOfFencedQueue.field.switch 0 == bitOf pairOfFencedQueue.field.switch (0 + 1))) = true := by decide +kernel
    show execPairImplausible 0 pairOfFencedQueue = _
    unfold execPairImplausible
    exact congrArg Host.Outcome.next (if_pos hfound)
  rw [← Host.Outcome.next.inj (hnext.symm.trans hexec)] at hcode
  exact absurd hcode (by decide +kernel)

end Sys2Proof.Machine

/-! The battery supply and the field control link (R17, R57, R488). -/

namespace Sys2Proof.Machine
open Sys2Proof.Claims

/-! ### Tables whose every value changes -/

section
variable {α : Type} [DecidableEq α] [Inhabited α]

/-- What the default and every new value of a table have, every read of it has. -/
theorem tget_tmap_of {P : α → Prop} {f : α → α} (hdef : P default) (hf : ∀ v, P (f v)) (t : Tab α) (k : Nat) : P (tget (tmap f t) k) := by
  unfold tmap
  induction t with
  | nil => exact hdef
  | cons e t ih =>
    rw [List.map_cons, List.filter_cons]
    split
    · unfold tget
      split
      · exact hf _
      · exact ih
    · exact ih

/-- A table in canonical form whose values change by their keys, nothing staying nothing. -/
theorem tget_mapKeys {g : Nat → α → α} (hdef : ∀ k, g k default = default) {t : Tab α} (hwf : Tab.wf t = true) (k : Nat) :
    tget ((t.map fun e => (e.1, g e.1 e.2)).filter fun e => decide (e.2 ≠ default)) k = g k (tget t k) := by
  induction t with
  | nil => exact (hdef k).symm
  | cons e t ih =>
    obtain ⟨k', v⟩ := e
    obtain ⟨-, habove, hwf'⟩ := Tab.wf_cons.1 hwf
    have hrest := ih hwf'
    rw [List.map_cons, List.filter_cons]
    dsimp only
    by_cases hk : k' = k
    · subst hk
      rw [tget_above habove, hdef] at hrest
      rw [show tget ((k', v) :: t) k' = v from if_pos rfl]
      split
      · exact if_pos rfl
      · next hdrop =>
        have hnone : g k' v = default := by simpa using hdrop
        rw [hrest, hnone]
    · rw [show tget ((k', v) :: t) k = tget t k from if_neg hk]
      split
      · exact (if_neg hk).trans hrest
      · exact hrest

theorem tget_tmap {f : α → α} (hdef : f default = default) {t : Tab α} (hwf : Tab.wf t = true) (k : Nat) : tget (tmap f t) k = f (tget t k) :=
  tget_mapKeys (g := fun _ => f) (fun _ => hdef) hwf k

end

/-! ### Losing a supply (R488, R529) -/

/-- With the core supplies off the core die and memory hold nothing. -/
theorem coreOff_effect (phase : Nat) (s : State) : (coreOff phase s).pw.supplied = false ∧ (coreOff phase s).boot.phase = phase ∧
    (∀ a, tget (coreOff phase s).mem.cells a = 0) ∧ (coreOff phase s).safe.causes = 0 ∧ (coreOff phase s).field.log = s.field.log ∧
    (coreOff phase s).field.logNext = s.field.logNext := ⟨rfl, rfl, fun _ => rfl, rfl, rfl, rfl⟩

theorem fieldLog_effect (code detail : Nat) (s : State) : (fieldLog code detail s).field.logNext = (s.field.logNext + 1) % 256 ∧
    (field (tget (fieldLog code detail s).field.log s.field.logNext) 10 1 = code % 256) := by
  refine ⟨rfl, ?_⟩
  show field (tget (tput s.field.log s.field.logNext (leBytes 8 (Config.freeNat s.fresh) ++ leBytes 2 s.field.pwron.n ++ leBytes 1 code ++
    leBytes 1 detail ++ leBytes 2 (codeOf 16 (s.field.vbat / 10)) ++ leBytes 2 0)) s.field.logNext) 10 1 = code % 256
  rw [tget_tput_same, List.append_assoc, List.append_assoc, List.append_assoc, List.append_assoc]
  rfl

/-! ### VBAT (R488, Table 16.11) -/

/-- VBAT as the field die measures it. -/
def vbatOf (v : Int) : Int := max (-2800) (min 5800 v)

/-- The state in which a change of VBAT shows its row of Table 16.11. -/
def vbatAt (v : Int) (s : State) : State := modField s fun f => { f with vbat := v, warn := f.warn && decide (v ≤ 650) }

theorem vbatRange_cases (v : Int) : (v < -100 ∧ vbatRange v = 0) ∨ (-100 ≤ v ∧ v < 450 ∧ vbatRange v = 1) ∨ (450 ≤ v ∧ v < 600 ∧ vbatRange v = 2) ∨
    (600 ≤ v ∧ v ≤ 3600 ∧ vbatRange v = 3) ∨ (3600 < v ∧ vbatRange v = 4) := by
  unfold vbatRange
  split_ifs <;> omega

theorem codeOf_of_nonneg {v : Int} (hlo : 0 ≤ v) (hhi : v < 65536) : codeOf 16 v = v.toNat := by
  unfold codeOf
  rw [Int.emod_eq_of_lt hlo (by exact_mod_cast hhi)]

theorem vbatEvent_frame (st : Nat) (s : State) : vbatEvent st s = { s with caddy := (vbatEvent st s).caddy } ∧
    (fieldHeard s = true → vbatEvent st s = event srcField 0x6009 noParty (leBytes 1 st ++ leBytes 2 (codeOf 16 s.field.vbat)) s) := by
  unfold vbatEvent
  split
  · exact ⟨rfl, fun _ => rfl⟩
  · next h => exact ⟨rfl, fun hh => absurd hh h⟩

/-- VBAT below 6 V, told to the core die. -/
def warned (v : Int) (s : State) : State := modField (fldFault 26 (vbatAt v s)) fun f => { f with warn := true }

theorem vbatChange_warns {v : Int} {s : State} (hold : 600 ≤ s.field.vbat) (hlo : 450 ≤ v) (hhi : v < 600) (halive : coreAlive s = true) :
    Runs (.vbatChange v) s fun t => t.field = { s.field with vbat := v, warn := true, fault := s.field.fault ||| 2 ^ 26 } ∧
      t.caddy.flushing = true ∧ t = { s with field := t.field, caddy := t.caddy } ∧
      (fieldHeard s = true → Logs 0x6009 srcField (leBytes 1 1 ++ leBytes 2 v.toNat) s t) := by
  have hexec : exec (.vbatChange v) s = .next (flushNow (vbatEvent 1 (warned v s))) := by
    have hclamp : max (-2800) (min 5800 v) = v := by omega
    have hb : vbatRange v = 2 := by have := vbatRange_cases v; omega
    have ha : 3 ≤ vbatRange s.field.vbat := by have := vbatRange_cases s.field.vbat; omega
    show execVbatChange v s = _
    unfold execVbatChange
    dsimp only
    rw [hclamp, hb, if_neg (by omega), if_neg (by omega)]
    refine congrArg Host.Outcome.next (if_neg ?_)
    rintro (hlow | hdead)
    · omega
    · have hlost : (!coreAlive s) = true := hdead
      rw [halive] at hlost
      cases hlost
  obtain ⟨hframe, hlogged⟩ := vbatEvent_frame 1 (warned v s)
  have hfield : (vbatEvent 1 (warned v s)).field = (warned v s).field := (congrArg State.field hframe).trans rfl
  refine ⟨_, hexec, hfield, rfl, ?_, fun hheard => ?_⟩
  · rw [hframe]
    rfl
  · rw [hlogged hheard, show (warned v s).field.vbat = v from rfl, codeOf_of_nonneg (by omega) (by omega)]
    exact logs_of_ring (logs_event (u := warned v s) (party := noParty) (by simp) rfl rfl rfl rfl) rfl

/-- VBAT back in range, told to the core die. -/
def backInRange (v : Int) (s : State) : State :=
  modField (vbatEvent 0 (vbatAt v s)) fun f => { f with wake := f.wake ||| 2 ^ 22 }

theorem fieldWake_eq (bit : Nat) (s : State) : fieldWake bit s = afterWake bit (modField s fun f => { f with wake := f.wake ||| 2 ^ bit }) := by
  unfold fieldWake afterWake
  dsimp only
  cases bitOf (modField s fun f => { f with wake := f.wake ||| 2 ^ bit }).field.wakeEn bit
  · rfl
  · cases hst : (modField s fun f => { f with wake := f.wake ||| 2 ^ bit }).pw.st <;> simp

theorem vbatChange_back {v : Int} {s : State} (hlo : 450 ≤ s.field.vbat) (hhi : s.field.vbat < 600) (hvlo : 600 ≤ v) (hvhi : v ≤ 3600) :
    RunsThen (.vbatChange v) s (afterWake 22) fun u =>
      u.field = { s.field with vbat := v, warn := s.field.warn && decide (v ≤ 650), wake := s.field.wake ||| 2 ^ 22 } ∧
      u = { s with field := u.field, caddy := u.caddy } ∧
      (fieldHeard s = true → Logs 0x6009 srcField (leBytes 1 0 ++ leBytes 2 v.toNat) s u) := by
  have hexec : exec (.vbatChange v) s = .next (afterWake 22 (backInRange v s)) := by
    have hclamp : max (-2800) (min 5800 v) = v := by omega
    have hb : vbatRange v = 3 := by have := vbatRange_cases v; omega
    have ha : vbatRange s.field.vbat = 2 := by have := vbatRange_cases s.field.vbat; omega
    refine Eq.trans ?_ (congrArg Host.Outcome.next (fieldWake_eq 22 (vbatEvent 0 (vbatAt v s))))
    show execVbatChange v s = _
    unfold execVbatChange
    dsimp only
    rw [hclamp, hb, ha]
    rfl
  obtain ⟨hframe, hlogged⟩ := vbatEvent_frame 0 (vbatAt v s)
  refine ⟨_, hexec, ?_, ?_, fun hheard => ?_⟩
  · rw [backInRange, hframe]
    rfl
  · rw [backInRange, hframe]
    rfl
  · rw [backInRange, hlogged hheard, show (vbatAt v s).field.vbat = v from rfl, codeOf_of_nonneg (by omega) (by omega)]
    exact logs_event (u := vbatAt v s) (party := noParty) (by simp) rfl rfl rfl rfl

/-! ### Overvoltage -/

theorem field_chState (kind ch st : Nat) (s : State) : (chState kind ch st s).field =
    { s.field with ch := (chState kind ch st s).field.ch, resends := (chState kind ch st s).field.resends } := by
  unfold chState
  split
  · rfl
  · dsimp only
    unfold chRecord
    rw [field_fieldRecord]
    rfl

/-- One lamp output goes off. -/
def lampOff (c : Nat) (s : State) : State := if (getCh s 2 c).state = 1 then chState 2 c 0 s else s

theorem lampOff_effect (c : Nat) (s : State) :
    (lampOff c s).field = { s.field with ch := (lampOff c s).field.ch, resends := (lampOff c s).field.resends } ∧
    ∀ x, (getCh (lampOff c s) 2 x).state = if x = c ∧ (getCh s 2 x).state = 1 then 0 else (getCh s 2 x).state := by
  unfold lampOff
  split
  · next hon =>
    refine ⟨field_chState .., fun x => ?_⟩
    rw [getCh_chState]
    by_cases hx : x = c
    · rw [hx, if_pos rfl, if_pos ⟨rfl, hon⟩]
    · rw [if_neg (by unfold chKey; omega), if_neg fun h => hx h.1]
  · next hoff =>
    refine ⟨rfl, fun x => ?_⟩
    rw [if_neg]
    rintro ⟨rfl, hon⟩
    exact hoff hon

theorem lampsOff_effect (l : List Nat) (s : State) :
    (l.foldl (fun s c => lampOff c s) s).field =
      { s.field with ch := (l.foldl (fun s c => lampOff c s) s).field.ch, resends := (l.foldl (fun s c => lampOff c s) s).field.resends } ∧
    ∀ x, (getCh (l.foldl (fun s c => lampOff c s) s) 2 x).state = if x ∈ l ∧ (getCh s 2 x).state = 1 then 0 else (getCh s 2 x).state := by
  induction l generalizing s with
  | nil => exact ⟨rfl, fun x => by simp⟩
  | cons c l ih =>
    obtain ⟨hfield, hstate⟩ := ih (lampOff c s)
    obtain ⟨hfield', hstate'⟩ := lampOff_effect c s
    refine ⟨hfield.trans (by rw [hfield']; rfl), fun x => ?_⟩
    rw [List.foldl_cons, hstate, hstate']
    simp only [List.mem_cons]
    by_cases hon : (getCh s 2 x).state = 1
    · rcases eq_or_ne x c with rfl | hx
      · simp [hon]
      · simp [hx, hon]
    · simp [hon]

/-- The field die above 36 V: lamp outputs and VBUS are off. -/
def Overvolted (v : Int) (s : State) (f : Field) : Prop := f.vbat = v ∧ f.fault = s.field.fault ||| 2 ^ 25 ∧
  (∀ c < 12, (tget f.ch (chKey 2 c)).state = if (getCh s 2 c).state = 1 then 0 else (getCh s 2 c).state) ∧ ∀ p, (tget f.usbc p).vbus = false

theorem overvolted_of_lamps {v : Int} {s t : State} (hfield : t.field = { (fldFault 25 (vbatAt v s)).field with
      ch := t.field.ch, resends := t.field.resends })
    (hstate : ∀ c < 12, (getCh t 2 c).state = if (getCh s 2 c).state = 1 then 0 else (getCh s 2 c).state) :
    Overvolted v s { t.field with usbc := tmap (fun (u : UsbcPort) => { u with vbus := false }) t.field.usbc } :=
  ⟨(congrArg Field.vbat hfield :), (congrArg Field.fault hfield :), hstate,
    fun p => tget_tmap_of (P := fun u : UsbcPort => u.vbus = false) (f := fun u => { u with vbus := false }) rfl (fun _ => rfl) _ p⟩

theorem overvoltOff_eq (s : State) : overvoltOff s = modField ((List.range 12).foldl (fun s c => lampOff c s) s) fun f =>
    { f with usbc := tmap (fun (u : UsbcPort) => { u with vbus := false }) f.usbc } := rfl

theorem overvoltOff_effect (v : Int) (s : State) : Overvolted v s (overvoltOff (fldFault 25 (vbatAt v s))).field := by
  obtain ⟨hfield, hstate⟩ := lampsOff_effect (List.range 12) (fldFault 25 (vbatAt v s))
  rw [overvoltOff_eq]
  generalize (List.range 12).foldl (fun s c => lampOff c s) (fldFault 25 (vbatAt v s)) = t at hfield hstate
  refine overvolted_of_lamps (t := t) hfield fun c hc => (hstate c).trans (if_congr ?_ rfl rfl)
  exact and_iff_right (List.mem_range.2 hc)

theorem vbatChange_overvolts {v : Int} {s : State} (hlo : 600 ≤ s.field.vbat) (hhi : s.field.vbat ≤ 3600) (hvlo : 3600 < v) (hvhi : v ≤ 5800) :
    Runs (.vbatChange v) s fun t => t.field.vbat = v ∧ t.field.fault = s.field.fault ||| 2 ^ 25 ∧
      (∀ c < 12, (getCh t 2 c).state = if (getCh s 2 c).state = 1 then 0 else (getCh s 2 c).state) ∧ ∀ p, (getUc t p).vbus = false := by
  have hexec : exec (.vbatChange v) s = .next (if 4000 < v then fieldLog 3 0 (vbatEvent 2 (overvoltOff (fldFault 25 (vbatAt v s))))
      else vbatEvent 2 (overvoltOff (fldFault 25 (vbatAt v s)))) := by
    have hclamp : max (-2800) (min 5800 v) = v := by omega
    have hb : vbatRange v = 4 := by have := vbatRange_cases v; omega
    have ha : vbatRange s.field.vbat = 3 := by have := vbatRange_cases s.field.vbat; omega
    show execVbatChange v s = _
    unfold execVbatChange
    dsimp only
    rw [hclamp, hb, ha]
    rfl
  have hover : Overvolted v s (vbatEvent 2 (overvoltOff (fldFault 25 (vbatAt v s)))).field := by
    rw [(vbatEvent_frame 2 (overvoltOff (fldFault 25 (vbatAt v s)))).1]
    exact overvoltOff_effect v s
  generalize vbatEvent 2 (overvoltOff (fldFault 25 (vbatAt v s))) = w at hexec hover
  refine ⟨_, hexec, (?_ : Overvolted v s (if 4000 < v then fieldLog 3 0 w else w).field)⟩
  split
  · exact hover
  · exact hover

theorem vbatChange_loses {v : Int} {s : State} (hlo : 450 ≤ s.field.vbat) (hv : v < 450) (hphase : s.boot.phase ≠ 0) :
    Runs (.vbatChange v) s fun t => t.pw.supplied = false ∧ t.boot.phase = 0 ∧ (∀ a, tget t.mem.cells a = 0) ∧ t.safe.causes = 0 ∧
      t.field.linkUp = false ∧ t.field.park = true ∧ t.field.logNext = (s.field.logNext + 1) % 256 ∧
      field (tget t.field.log s.field.logNext) 10 1 = (if v < -100 then 2 else 1) := by
  have hlost : ∀ (code : Nat) (w : State), w.boot.phase = s.boot.phase → w.field.log = s.field.log → w.field.logNext = s.field.logNext →
      (vbatLost code w).pw.supplied = false ∧ (vbatLost code w).boot.phase = 0 ∧ (∀ a, tget (vbatLost code w).mem.cells a = 0) ∧
      (vbatLost code w).safe.causes = 0 ∧ (vbatLost code w).field.linkUp = false ∧ (vbatLost code w).field.park = true ∧
      (vbatLost code w).field.logNext = (s.field.logNext + 1) % 256 ∧
      field (tget (vbatLost code w).field.log s.field.logNext) 10 1 = code % 256 := fun code w hw hlog hnext => by
    unfold vbatLost
    dsimp only
    rw [if_neg fun h => hphase (hw.symm.trans h.1)]
    obtain ⟨hnext', hentry⟩ := fieldLog_effect code 0 w
    rw [hnext] at hnext' hentry
    exact ⟨rfl, rfl, fun _ => rfl, rfl, rfl, rfl, hnext', hentry⟩
  have ha : 2 ≤ vbatRange s.field.vbat := by have := vbatRange_cases s.field.vbat; omega
  by_cases hrev : v < -100
  · rw [if_pos hrev]
    have hb : vbatRange (vbatOf v) = 0 := by have := vbatRange_cases (vbatOf v); unfold vbatOf at *; omega
    refine ⟨vbatLost 2 (fldFault 24 (vbatAt (vbatOf v) s)), ?_, hlost 2 _ rfl rfl rfl⟩
    show execVbatChange v s = _
    unfold execVbatChange
    dsimp only
    rw [← vbatOf, hb, if_neg (by omega), if_neg (by omega)]
    rfl
  · rw [if_neg hrev]
    have hb : vbatRange (vbatOf v) = 1 := by have := vbatRange_cases (vbatOf v); unfold vbatOf at *; omega
    refine ⟨vbatLost 1 (vbatAt (vbatOf v) s), ?_, hlost 1 _ rfl rfl rfl⟩
    show execVbatChange v s = _
    unfold execVbatChange
    dsimp only
    rw [← vbatOf, hb, if_neg (by omega), if_neg (by omega)]
    exact congrArg Host.Outcome.next (if_neg (by omega))

theorem vbatChange_within {v : Int} {s : State} (hlo : 600 ≤ s.field.vbat) (hhi : s.field.vbat ≤ 3600) (hvlo : 600 ≤ v) (hvhi : v ≤ 3600) :
    Runs (.vbatChange v) s fun t => t = { s with field := { s.field with vbat := v, warn := s.field.warn && decide (v ≤ 650) } } := by
  have hclamp : max (-2800) (min 5800 v) = v := by omega
  have hb : vbatRange v = 3 := by have := vbatRange_cases v; omega
  have ha : vbatRange s.field.vbat = 3 := by have := vbatRange_cases s.field.vbat; omega
  refine ⟨_, ?_, rfl⟩
  show execVbatChange v s = _
  unfold execVbatChange
  dsimp only
  rw [hclamp, hb, ha]
  exact congrArg Host.Outcome.next ((if_pos rfl).trans (if_neg (by omega)))

theorem vbatCut_loses {s : State} (hwarn : s.field.warn = true) :
    Runs .vbatCut s fun t => t.pw.supplied = false ∧ t.boot.phase = 0 ∧ t.field.warn = false ∧ (∀ a, tget t.mem.cells a = 0) := by
  refine ⟨modField (coreOff 0 s) fun f => { f with warn := false }, ?_, rfl, rfl, rfl, fun _ => rfl⟩
  show execVbatCut s = _
  unfold execVbatCut
  rw [hwarn]
  rfl

/-! ### The field control link (R17) -/

theorem fieldFrameCrcFail_effect (fromCore : Bool) {s : State} (hlink : s.field.linkUp = true) (hsup : s.pw.supplied = true) (hup : Up s) :
    ((if fromCore then s.field.resends.2 else s.field.resends.1) < 3 → Runs (.fieldFrameCrcFail fromCore) s fun t =>
      t = { s with field := { s.field with resends := if fromCore then (s.field.resends.1, s.field.resends.2 + 1)
        else (s.field.resends.1 + 1, s.field.resends.2) } }) ∧
    (3 ≤ (if fromCore then s.field.resends.2 else s.field.resends.1) → Runs (.fieldFrameCrcFail fromCore) s fun t =>
      t.field.linkUp = false ∧ t.field.holding = true ∧ t.field.resends = (0, 0) ∧ tget t.boot.linkUp 19 = 0 ∧
      Logs 0x6001 (if fromCore then srcAfzan else srcField) (leBytes 1 (b2n fromCore) ++ leBytes 1 3) s t) := by
  have hlives : ¬ ((!s.field.linkUp) = true ∨ (!s.pw.supplied) = true ∨ s.pw.st = .rest ∨ s.pw.st = .park) := by
    simp [hlink, hsup, hup.1, hup.2]
  have hexec : exec (.fieldFrameCrcFail fromCore) s = execFieldFrameCrcFail fromCore s := rfl
  unfold execFieldFrameCrcFail at hexec
  dsimp only at hexec
  rw [if_neg hlives] at hexec
  refine ⟨fun hfew => ?_, fun hmany => ?_⟩
  · rw [if_pos hfew] at hexec
    refine ⟨_, hexec, ?_⟩
    cases fromCore <;> rfl
  · rw [if_neg (Nat.not_lt.2 hmany)] at hexec
    refine ⟨_, hexec, rfl, rfl, rfl, tget_tput_same .., ?_⟩
    exact logs_event (u := s) (party := noParty) (by simp) rfl rfl rfl rfl

theorem fieldOutputHoldExpiry_effect {s : State} (hhold : s.field.holding = true) (hch : Tab.wf s.field.ch = true) (husbc : Tab.wf s.field.usbc = true) :
    Runs .fieldOutputHoldExpiry s fun t => t.field.holding = false ∧ t = { s with field := t.field, gw := t.gw } ∧
      (∀ c < 256, getCh t 2 c = { getCh s 2 c with state := 0, retries := 0, waiting := false }) ∧
      (∀ k c, c < 256 → k ≠ 2 → getCh t k c = getCh s k c) ∧
      ∀ p, getUc t p = { getUc s p with vbus := false, state := 0, mv := 0, ma := 0 } := by
  have hchan : ∀ k, tget (fieldDefaults s).field.ch k =
      if k / 256 = 2 then { tget s.field.ch k with state := 0, retries := 0, waiting := false } else tget s.field.ch k := fun k => by
    refine tget_mapKeys (g := fun k (x : FieldCh) => if k / 256 = 2 then { x with state := 0, retries := 0, waiting := false } else x) (fun k => ?_) hch k
    split <;> rfl
  refine ⟨modField (fieldDefaults s) fun f => { f with holding := false }, ?_, rfl, rfl, fun c hc => ?_, fun k c hc hk => ?_, fun p => ?_⟩
  · show execFieldOutputHoldExpiry s = _
    unfold execFieldOutputHoldExpiry
    rw [hhold]
    rfl
  · exact (hchan (chKey 2 c)).trans (if_pos (by unfold chKey; omega))
  · exact (hchan (chKey k c)).trans (if_neg (by unfold chKey; omega))
  · exact tget_tmap (f := fun (u : UsbcPort) => { u with vbus := false, state := 0, mv := 0, ma := 0 }) rfl husbc p

/-! ### Out of Park (R57) -/

/-- Memory, the field die's place in or out of Park, and whether the core die is supplied are as they were. -/
structure KeepsUp (s t : State) : Prop where
  mem : t.mem = s.mem
  park : t.field.park = s.field.park
  supplied : t.pw.supplied = s.pw.supplied

theorem KeepsUp.refl (s : State) : KeepsUp s s := ⟨rfl, rfl, rfl⟩

theorem KeepsUp.trans {s t u : State} (a : KeepsUp s t) (b : KeepsUp t u) : KeepsUp s u :=
  ⟨b.mem.trans a.mem, b.park.trans a.park, b.supplied.trans a.supplied⟩

theorem KeepsUp.foldl {β : Type} {f : State → β → State} (hf : ∀ s x, KeepsUp s (f s x)) (l : List β) (s : State) : KeepsUp s (l.foldl f s) := by
  induction l generalizing s with
  | nil => exact .refl s
  | cons x l ih => exact (hf s x).trans (ih _)

theorem keepsUp_event (src code party : Nat) (args : List Byte) (s : State) : KeepsUp s (event src code party args s) := ⟨rfl, rfl, rfl⟩

theorem keepsUp_copyLogs (s : State) : KeepsUp s (copyLogs s) := by
  have hlogs : KeepsUp s ((List.range s.field.uncopied).foldl (fun t i => copyLog ((t.field.logNext + 256 - s.field.uncopied + i) % 256) t) s) :=
    .foldl (fun t _ => keepsUp_event _ _ _ _ t) _ s
  exact hlogs.trans ⟨rfl, rfl, rfl⟩

theorem keepsUp_setUcode (s : State) : KeepsUp s (setUcode s) := KeepsUp.foldl (by exact fun _ _ => ⟨rfl, rfl, rfl⟩) _ s

theorem keepsUp_injectStep (s : State) (k : Nat) : KeepsUp s (injectStep s k) := by
  unfold injectStep
  dsimp only
  split
  · exact ⟨rfl, rfl, rfl⟩
  · exact ⟨rfl, rfl, rfl⟩

theorem keepsUp_inject (ks : List Nat) (s : State) : KeepsUp s (inject ks s) := by
  have hsteps : KeepsUp s (ks.foldl injectStep s) := .foldl keepsUp_injectStep ks s
  unfold inject
  dsimp only
  generalize ks.foldl injectStep s = t at hsteps
  split
  · exact hsteps
  · have hpairs : KeepsUp t (t.jobs.pairs.foldl (fun s p => dissolve p 3 s) t) := KeepsUp.foldl (by exact fun _ _ => ⟨rfl, rfl, rfl⟩) _ t
    exact (hsteps.trans hpairs).trans ⟨rfl, rfl, rfl⟩

theorem keepsUp_freshCycles (s : State) : KeepsUp s (freshCycles s) := KeepsUp.foldl (by exact fun _ _ => ⟨rfl, rfl, rfl⟩) _ s

theorem keepsUp_releaseHarts (g : Nat → Bool) (cause : Nat) (s : State) : KeepsUp s (releaseHarts g cause s) := by
  unfold releaseHarts
  dsimp only
  refine ⟨(keeps_foldl State.mem (fun u h => ?_) _ _).trans rfl, (keeps_foldl (fun u : State => u.field.park) (fun u h => ?_) _ _).trans rfl,
    (keeps_foldl (fun u : State => u.pw.supplied) (fun u h => ?_) _ _).trans rfl⟩ <;> split <;> rfl

theorem settleDiv_keeps (s : State) : KeepsUp s (settleDiv s) ∧ (settleDiv s).pw.st = s.pw.st := by
  unfold settleDiv
  dsimp only
  split
  · exact ⟨.refl s, rfl⟩
  · split
    · exact ⟨⟨rfl, rfl, rfl⟩, rfl⟩
    · split <;> exact ⟨⟨rfl, rfl, rfl⟩, rfl⟩

theorem clockUp_keeps (s : State) : KeepsUp s (clockUp s) ∧ (clockUp s).pw.st = .run := by
  unfold clockUp
  dsimp only
  obtain ⟨hkeeps, hst⟩ := settleDiv_keeps (modPw (portsUp s) fun p => { p with
    st := .run, div := (portsUp s).part.floor, divNext := 0, vddWait := false, vdd := fusedMv (portsUp s).part.floor
    vddTarget := fusedMv (portsUp s).part.floor })
  exact ⟨⟨hkeeps.mem, hkeeps.park, hkeeps.supplied⟩, hst⟩

theorem exitEvent_deep (s : State) : exitEvent 4 s =
    lateAlarms (event srcAfzan 0x7006 noParty (leBytes 1 4 ++ leBytes 4 (Config.freeNat (draw s).1)) (draw s).2) := by
  unfold exitEvent
  exact if_pos (by decide)

theorem keepsUp_restart (s : State) : KeepsUp s (bringupEvent 3 (caddyRestart s)) := ⟨rfl, rfl, rfl⟩

/-- With its resume image good, the part runs when it is out of Park. -/
theorem parkExit_good {s : State} (hgood : resumeGood s = true) :
    ∃ u, parkExit s = lateAlarms u ∧ u.pw.st = .run ∧ u.pw.supplied = true ∧ u.field.park = false ∧ u.mem.unzeroed = true := by
  unfold parkExit
  extract_lets b s1 d pt s2 src s3 s4 s5 src' s6 s7 d' s8
  have hkept : KeepsUp s3 s5 := ((keepsUp_restart s3).trans (keepsUp_event ..)).trans (keepsUp_copyLogs _)
  have hgood5 : resumeGood s5 = true := by
    rw [resumeGood, hkept.mem]
    exact hgood
  rw [hgood5, if_neg (by decide)]
  have hcode : KeepsUp { s5 with lv := mapLeaves s5, mem := { s5.mem with unzeroed := true } } s6 := keepsUp_setUcode _
  have hharts : KeepsUp s6 s7 := (keepsUp_inject allSteps s6).trans ((keepsUp_freshCycles _).trans (keepsUp_releaseHarts ..))
  clear_value s7 s6 src' s5
  have hlast : KeepsUp s7 s8 := ⟨rfl, rfl, rfl⟩
  have hresumed := (hcode.trans hharts).trans hlast
  obtain ⟨hclock, hst⟩ := clockUp_keeps { s8 with jobs := { s8.jobs with idleSince := s8.ktime } }
  generalize clockUp { s8 with jobs := { s8.jobs with idleSince := s8.ktime } } = w at *
  refine ⟨_, exitEvent_deep w, hst, ?_, ?_, ?_⟩
  · exact hclock.supplied.trans (hresumed.supplied.trans hkept.supplied)
  · exact hclock.park.trans (hresumed.park.trans hkept.park)
  · exact congrArg Mem.unzeroed (hclock.mem.trans hresumed.mem)

/-- With its resume image lost, the part is in a cold reset when it is out of Park. -/
theorem parkExit_bad {s : State} (hbad : resumeGood s = false) :
    (parkExit s).boot.phase = 2 ∧ (parkExit s).pw.supplied = false ∧ (∀ a, tget (parkExit s).mem.cells a = 0) := by
  unfold parkExit
  extract_lets b s1 d pt s2 src s3 s4 s5 src' s6 s7 d' s8
  have hkept : KeepsUp s3 s5 := ((keepsUp_restart s3).trans (keepsUp_event ..)).trans (keepsUp_copyLogs _)
  have hbad5 : resumeGood s5 = false := by
    rw [resumeGood, hkept.mem]
    exact hbad
  rw [hbad5, if_pos (by decide)]
  exact ⟨rfl, rfl, fun _ => rfl⟩

theorem wake_fromPark {inst : BitVec 16} {s : State} (hpark : s.pw.st = .park) (hen : bitOf s.field.wakeEn (inst.toNat % 24) = true) :
    (resumeGood s = true → RunsThen (.wake 8 inst) s lateAlarms fun u => u.pw.st = .run ∧ u.pw.supplied = true ∧ u.field.park = false ∧
      u.mem.unzeroed = true) ∧
    (resumeGood s = false → Runs (.wake 8 inst) s fun t => t.boot.phase = 2 ∧ t.pw.supplied = false ∧ (∀ a, tget t.mem.cells a = 0)) := by
  have hexec : exec (.wake 8 inst) s = .next (parkExit (modField s fun f => { f with wake := f.wake ||| 2 ^ (inst.toNat % 24) })) := by
    show Host.Outcome.next (wakeBy 8 inst.toNat s) = _
    unfold wakeBy
    rw [hpark]
    dsimp only
    rw [if_pos rfl, fieldWake_eq, afterWake, show (modField s _).field.wakeEn = s.field.wakeEn from rfl, hen, if_pos rfl,
      show (modField s _).pw.st = s.pw.st from rfl, hpark]
  refine ⟨fun hgood => ?_, fun hbad => ⟨_, hexec, parkExit_bad hbad⟩⟩
  obtain ⟨u, hu, hend⟩ := parkExit_good (s := modField s fun f => { f with wake := f.wake ||| 2 ^ (inst.toNat % 24) }) hgood
  exact ⟨u, hu ▸ hexec, hend⟩

/-- Settles O51: each row of Table 16.11, the field control link's resends and its loss, and the way out of Park. -/
theorem supplyAndFieldLink : Obligations.SupplyAndFieldLink :=
  ⟨fun _ _ hold hlo hhi halive => vbatChange_warns hold hlo hhi halive, fun _ _ hlo hhi hvlo hvhi => vbatChange_back hlo hhi hvlo hvhi,
    fun _ _ hlo hhi hvlo hvhi => vbatChange_overvolts hlo hhi hvlo hvhi, fun _ _ hlo hv hphase => vbatChange_loses hlo hv hphase,
    fun _ _ hlo hhi hvlo hvhi => vbatChange_within hlo hhi hvlo hvhi, fun _ hwarn => vbatCut_loses hwarn,
    fun fromCore _ hlink hsup hup => fieldFrameCrcFail_effect fromCore hlink hsup hup,
    fun _ hhold hch husbc => fieldOutputHoldExpiry_effect hhold hch husbc, fun _ _ hpark hen => wake_fromPark hpark hen⟩

end Sys2Proof.Machine

/-! The service and the safety SPI ports (R365, R493, Table 12.4, Table 16.12). -/

namespace Sys2Proof.Machine
open Sys2Proof.Claims

/-! ### Frames (Table 12.4) -/

/-- What a well-formed frame says of its length, address and data. -/
theorem frameOk_data {cmd : Nat} {f : List Byte} (h : frameOk cmd f = true) : 4 ≤ frameLen f ∧ frameLen f % 4 = 0 ∧ frameAddr f % 4 = 0 ∧
    (cmd = 2 → (frameData f).length = frameLen f) := by
  unfold frameOk at h
  simp only [Bool.and_eq_true, decide_eq_true_eq] at h
  obtain ⟨⟨⟨⟨⟨⟨-, hlen⟩, hlo⟩, -⟩, hmod⟩, haddr⟩, -⟩ := h
  refine ⟨hlo, hmod, haddr, ?_⟩
  rintro rfl
  rw [if_pos rfl] at hlen
  rw [frameData, List.length_take, List.length_drop]
  omega

/-! ### The service port's writes (R493) -/

theorem wakeNow_effect {v : BitVec 32} {s : State} (hpow : fieldPowered s = true) :
    (v.getLsbD 0 = true → RunsThen (.wakeNow v) s (fun u => match u.pw.st with
        | .park => parkExit u | .rest => restExit 8 (wakeBit u) u | _ => wakeFrom true 8 (wakeBit u) u)
      fun u => u = { s with field := { s.field with wake := s.field.wake ||| 2 ^ 23 } }) ∧
    (v.getLsbD 0 = false → Runs (.wakeNow v) s fun t => t = s) := by
  have hbit : bitOf v.toNat 0 = v.getLsbD 0 := by
    rw [BitVec.getLsbD, bitOf, pow_zero, Nat.div_one, Nat.testBit_zero]
    exact Bool.eq_iff_iff.2 (by simp)
  have hexec : exec (.wakeNow v) s = .next (fldCmd v.toNat s) := by
    show execWakeNow v s = _
    unfold execWakeNow
    rw [hpow, if_pos rfl]
  refine ⟨fun hv => ?_, fun hv => ?_⟩
  · refine ⟨_, hexec.trans (congrArg Host.Outcome.next ?_), rfl⟩
    rw [fldCmd, hbit, hv]
    rfl
  · refine ⟨_, hexec, ?_⟩
    rw [fldCmd, hbit, hv]
    rfl

/-- The registers that a write of [a, b) from the service port changes, but for FLD_CMD. -/
def regsWritten (a b : Nat) (d : List Byte) (s : State) : State :=
  let cov := fun (o : Nat) => decide (a ≤ o) && decide (o < b)
  let val := fun (o : Nat) => field d (o - a) 4
  { s with field := { s.field with
    spiOut := [], wake := if cov 0x0C then s.field.wake &&& (2 ^ 24 - 1 - val 0x0C % 2 ^ 24) else s.field.wake
    wakeEn := if cov 0x10 then val 0x10 % 2 ^ 24 else s.field.wakeEn, timer := if cov 0x14 then val 0x14 else s.field.timer
    fault := if cov 0x20 then s.field.fault &&& (2 ^ 27 - 1 - val 0x20 % 2 ^ 27) else s.field.fault } }

/-- What a write of [a, b) leads to: its last step is the wake of FLD_CMD, where it covers that register. -/
def serviceWritten (a b : Nat) (d : List Byte) (s : State) : State :=
  if (decide (a ≤ 0x38) && decide (0x38 < b)) && bitOf (field d (0x38 - a) 4) 0 then serviceWake (regsWritten a b d s) else regsWritten a b d s

/-- The offset of a register that a write of the service port changes. -/
def Writable (o : Nat) : Prop := o = 0x0C ∨ o = 0x10 ∨ o = 0x14 ∨ o = 0x20 ∨ o = 0x38

theorem fldWrite_other {o : Nat} (h : ¬ Writable o) (v : Nat) (s : State) : fldWrite o v s = s := by
  unfold Writable at h
  unfold fldWrite
  split <;> simp_all

theorem cov_step {a b o : Nat} (hb : b % 4 = 0) (ho : o % 4 = 0) (hne : o ≠ b) : (decide (a ≤ o) && decide (o < b + 4)) = (decide (a ≤ o) && decide (o < b)) := by
  rw [Bool.eq_iff_iff]
  simp only [Bool.and_eq_true, decide_eq_true_eq]
  omega

theorem cov_last {a b : Nat} (hab : a ≤ b) : (decide (a ≤ b) && decide (b < b + 4)) = true := by simp [hab]

theorem cov_end (a b : Nat) : (decide (a ≤ b) && decide (b < b)) = false := by simp

theorem serviceWritten_before {a b : Nat} (hb : b ≤ 0x38) (d : List Byte) (s : State) : serviceWritten a b d s = regsWritten a b d s := by
  unfold serviceWritten
  rw [decide_eq_false (show ¬ 0x38 < b by omega), Bool.and_false, Bool.false_and, if_neg (by decide)]

theorem regsWritten_step {a b : Nat} (d : List Byte) (s : State)
    (h : ∀ o, o = 0x0C ∨ o = 0x10 ∨ o = 0x14 ∨ o = 0x20 → (decide (a ≤ o) && decide (o < b + 4)) = (decide (a ≤ o) && decide (o < b))) :
    regsWritten a (b + 4) d s = regsWritten a b d s := by
  unfold regsWritten
  simp only [h 0x0C (by simp), h 0x10 (by simp), h 0x14 (by simp), h 0x20 (by simp)]

/-- One more register of a write. -/
theorem fldWrite_written {a b : Nat} (hab : a ≤ b) (hb : b % 4 = 0) (d : List Byte) (s : State) :
    fldWrite b (field d (b - a) 4) (serviceWritten a b d s) = serviceWritten a (b + 4) d s := by
  have hfield : field d (b - a) 4 % 2 ^ 32 = field d (b - a) 4 := Nat.mod_eq_of_lt (field_lt d (b - a) 4)
  by_cases hw : Writable b
  · rcases hw with rfl | rfl | rfl | rfl | rfl
    · rw [serviceWritten_before (by decide), serviceWritten_before (by decide)]
      simp only [fldWrite, regsWritten, modField, cov_last hab, cov_end, cov_step (a := a) (b := 0x0C) (o := 0x10) rfl rfl (by decide),
        cov_step (a := a) (b := 0x0C) (o := 0x14) rfl rfl (by decide), cov_step (a := a) (b := 0x0C) (o := 0x20) rfl rfl (by decide), if_true,
        Bool.false_eq_true, if_false]
    · rw [serviceWritten_before (by decide), serviceWritten_before (by decide)]
      simp only [fldWrite, regsWritten, modField, cov_last hab, cov_end, cov_step (a := a) (b := 0x10) (o := 0x0C) rfl rfl (by decide),
        cov_step (a := a) (b := 0x10) (o := 0x14) rfl rfl (by decide), cov_step (a := a) (b := 0x10) (o := 0x20) rfl rfl (by decide), if_true,
        Bool.false_eq_true, if_false]
    · rw [serviceWritten_before (by decide), serviceWritten_before (by decide)]
      simp only [fldWrite, regsWritten, modField, cov_last hab, cov_end, cov_step (a := a) (b := 0x14) (o := 0x0C) rfl rfl (by decide),
        cov_step (a := a) (b := 0x14) (o := 0x10) rfl rfl (by decide), cov_step (a := a) (b := 0x14) (o := 0x20) rfl rfl (by decide), if_true,
        Bool.false_eq_true, if_false, hfield]
    · rw [serviceWritten_before (by decide), serviceWritten_before (by decide)]
      simp only [fldWrite, regsWritten, modField, cov_last hab, cov_end, cov_step (a := a) (b := 0x20) (o := 0x0C) rfl rfl (by decide),
        cov_step (a := a) (b := 0x20) (o := 0x10) rfl rfl (by decide), cov_step (a := a) (b := 0x20) (o := 0x14) rfl rfl (by decide), if_true,
        Bool.false_eq_true, if_false]
    · rw [serviceWritten_before (by decide), serviceWritten, cov_last hab, Bool.true_and,
        regsWritten_step d s fun o ho => cov_step rfl (by omega) (by omega)]
      rfl
  · have hcov : ∀ o, Writable o → (decide (a ≤ o) && decide (o < b + 4)) = (decide (a ≤ o) && decide (o < b)) := fun o ho =>
      cov_step hb (by unfold Writable at ho; omega) fun h => hw (h ▸ ho)
    rw [fldWrite_other hw, serviceWritten, serviceWritten, hcov 0x38 (by simp [Writable]),
      regsWritten_step d s fun o ho => hcov o (by unfold Writable; omega)]

theorem serviceSpiWrite_effect {f : List Byte} {s : State} (hpow : fieldPowered s = true) (hok : frameOk 2 f = true)
    (hend : frameAddr f + frameLen f ≤ 0x48) : exec (.serviceSpiWrite f) s =
      .next (serviceWritten (frameAddr f) (frameAddr f + frameLen f) (frameData f) s) := by
  obtain ⟨-, hmod, haddr, -⟩ := frameOk_data hok
  have hregs : ∀ k, (List.range k).foldl (fun s i => fldWrite (frameAddr f + 4 * i) (field (frameData f) (4 * i) 4) s)
      (modField s fun f => { f with spiOut := [] }) = serviceWritten (frameAddr f) (frameAddr f + 4 * k) (frameData f) s := fun k => by
    induction k with
    | zero =>
      unfold serviceWritten regsWritten
      have hnone : ∀ o, (decide (frameAddr f ≤ o) && decide (o < frameAddr f + 4 * 0)) = false := fun o => by
        rw [Bool.and_eq_false_imp]
        simp
      simp only [hnone, Bool.false_and, Bool.false_eq_true, if_false]
      rfl
    | succ k ih =>
      rw [List.range_succ, List.foldl_append, ih]
      have hstep := fldWrite_written (a := frameAddr f) (b := frameAddr f + 4 * k) (by omega) (by omega) (frameData f) s
      rw [Nat.add_sub_cancel_left] at hstep
      exact hstep
  show execServiceSpiWrite f s = _
  unfold execServiceSpiWrite
  dsimp only
  rw [hpow, hok, if_neg (by decide), if_neg (by simp; omega), hregs, show 4 * (frameLen f / 4) = frameLen f by omega]

theorem serviceSpiWrite_bad {f : List Byte} {s : State} (hpow : fieldPowered s = true) (hbad : frameOk 2 f = false ∨ 0x48 < frameAddr f + frameLen f) :
    Runs (.serviceSpiWrite f) s fun t => t = { s with field := { s.field with crcErr := true, spiOut := [] } } := by
  refine ⟨_, ?_, rfl⟩
  show execServiceSpiWrite f s = _
  unfold execServiceSpiWrite
  dsimp only
  rw [hpow, if_neg (by decide), if_pos (by simpa using hbad)]
  rfl

/-! ### The service port's reads (R493, Table 16.12) -/

/-- The bytes of one register join the image of a read of [a, a + n). -/
def regRead (a n : Nat) (x : List Byte × State) (r : Nat × Nat × Nat) : List Byte × State :=
  if a + n ≤ r.1 ∨ r.1 + r.2.1 ≤ a then (x.1 ++ leBytes r.2.1 0, x.2)
  else
    let b := fldRegBytes (decide (a ≤ r.1) && decide (r.1 + r.2.1 ≤ a + n)) r.1 r.2.1 r.2.2 x.2
    (x.1 ++ b.1, b.2)

/-- Registers stand one after another from an offset on, none of them empty. -/
def Abut : Nat → List (Nat × Nat × Nat) → Prop
  | _, [] => True
  | o, r :: rs => r.1 = o ∧ 0 < r.2.1 ∧ Abut (o + r.2.1) rs

theorem regRead_effect (a n : Nat) (x : List Byte × State) (r : Nat × Nat × Nat) : ∃ bs, (regRead a n x r).1 = x.1 ++ bs ∧ bs.length = r.2.1 ∧
    (regRead a n x r).2 = { x.2 with fresh := (regRead a n x r).2.fresh } ∧
    (0 < r.2.1 → a ≤ r.1 → r.1 + r.2.1 ≤ a + n → (r.1 ≠ 0x18 ∨ x.2.field.park = false) → bs = leBytes r.2.1 r.2.2) := by
  unfold regRead
  split
  · next hout => exact ⟨_, rfl, leBytes_length .., rfl, fun _ _ _ _ => by omega⟩
  · dsimp only
    unfold fldRegBytes
    split
    · exact ⟨_, rfl, leBytes_length .., rfl, fun _ _ _ _ => rfl⟩
    · next hfree =>
      refine ⟨_, rfl, by simp [freeBytes], rfl, fun _ hlo hhi hpark => absurd ?_ hfree⟩
      rcases hpark with h | h <;> simp [hlo, hhi, h]

/-- An image of registers one after another: its length, what it draws, and each whole register in its place. -/
theorem regReads_effect (a n : Nat) (rs : List (Nat × Nat × Nat)) (x : List Byte × State) (habut : Abut x.1.length rs) :
    ∃ bs, (rs.foldl (regRead a n) x).1 = x.1 ++ bs ∧ bs.length = (rs.map fun r => r.2.1).sum ∧
      (rs.foldl (regRead a n) x).2 = { x.2 with fresh := (rs.foldl (regRead a n) x).2.fresh } ∧
      ∀ r ∈ rs, a ≤ r.1 → r.1 + r.2.1 ≤ a + n → (r.1 ≠ 0x18 ∨ x.2.field.park = false) →
        ((rs.foldl (regRead a n) x).1.drop r.1).take r.2.1 = leBytes r.2.1 r.2.2 := by
  induction rs generalizing x with
  | nil => exact ⟨[], by simp, rfl, rfl, fun r hr => absurd hr List.not_mem_nil⟩
  | cons r rs ih =>
    obtain ⟨hfirst, hsome, hrest⟩ := habut
    obtain ⟨bs, hbytes, hlen, hstate, hwhole⟩ := regRead_effect a n x r
    obtain ⟨bs', hbytes', hlen', hstate', hwhole'⟩ := ih (regRead a n x r) (by rw [hbytes, List.length_append, hlen]; exact hrest)
    have himage : ((r :: rs).foldl (regRead a n) x).1 = x.1 ++ (bs ++ bs') := by
      rw [List.foldl_cons, hbytes', hbytes, List.append_assoc]
    refine ⟨bs ++ bs', himage, by simp [hlen, hlen'], ?_, fun q hq hlo hhi hpark => ?_⟩
    · rw [List.foldl_cons, hstate', hstate]
    · rcases List.mem_cons.1 hq with rfl | hq
      · rw [himage, hfirst, List.drop_left, ← hlen, List.take_left, hlen]
        exact hwhole hsome hlo hhi hpark
      · refine hwhole' q hq hlo hhi ?_
        rw [hstate]
        exact hpark

theorem abut_fldRegs (s : State) : Abut 0 (fldRegs s) := by
  simp only [fldRegs, Abut]
  decide

theorem fldRead_regs {a n : Nat} (h : a + n ≤ 0x48) (s : State) : fldRead a n s =
    some ((((fldRegs s).foldl (regRead a n) ([], s)).1.drop a).take n, ((fldRegs s).foldl (regRead a n) ([], s)).2) := by
  unfold fldRead
  rw [if_neg (by omega)]
  exact if_pos h

theorem withCrc_take {bs : List Byte} {off n : Nat} (h : off + n ≤ bs.length) : ((withCrc bs).drop off).take n = (bs.drop off).take n := by
  unfold withCrc
  rw [List.drop_append_of_le_length (by omega), List.take_append_of_le_length (by rw [List.length_drop]; omega)]

theorem serviceSpiRead_regs {f : List Byte} {s : State} (hpow : fieldPowered s = true) (hok : frameOk 3 f = true)
    (hend : frameAddr f + frameLen f ≤ 0x48) :
    Runs (.serviceSpiRead f) s fun t => t = { s with field := { s.field with spiOut := t.field.spiOut, pwron := t.field.pwron }, fresh := t.fresh } ∧
      t.field.spiOut.length = frameLen f + 4 ∧
      (∀ x ∈ fldRegs s, frameAddr f ≤ x.1 → x.1 + x.2.1 ≤ frameAddr f + frameLen f → (x.1 ≠ 0x18 ∨ s.field.park = false) →
        (t.field.spiOut.drop (x.1 - frameAddr f)).take x.2.1 = leBytes x.2.1 x.2.2) ∧
      t.field.pwron = if frameAddr f ≤ 0x30 ∧ 0x38 ≤ frameAddr f + frameLen f then s.field.pwron.read else s.field.pwron := by
  generalize ha : frameAddr f = a at *
  generalize hn : frameLen f = n at *
  obtain ⟨bs, hbytes, hlen, hstate, hwhole⟩ := regReads_effect a n (fldRegs s) ([], s) (abut_fldRegs s)
  have hread := fldRead_regs hend s
  generalize (fldRegs s).foldl (regRead a n) ([], s) = img at *
  have hsize : img.1.length = 0x48 := by
    rw [hbytes, List.nil_append, hlen]
    rfl
  have hlen' : ((img.1.drop a).take n).length = n := by
    rw [List.length_take, List.length_drop]
    omega
  have hexec : exec (.serviceSpiRead f) s = .next (modField img.2 fun g => { g with
      spiOut := withCrc ((img.1.drop a).take n), pwron := if a ≤ 0x30 ∧ 0x38 ≤ a + n ∧ a < 0x1000 then g.pwron.read else g.pwron }) := by
    show execServiceSpiRead f s = _
    unfold execServiceSpiRead
    dsimp only
    rw [hpow, hok, ha, hn, hread]
    rfl
  refine ⟨_, hexec, ?_, ?_, fun x hx hlo hhi hpark => ?_, ?_⟩
  · conv_lhs => rw [hstate]
    conv_rhs => rw [hstate]
    rfl
  · show (withCrc _).length = n + 4
    rw [withCrc, List.length_append, hlen', leBytes_length]
  · show ((withCrc ((img.1.drop a).take n)).drop (x.1 - a)).take x.2.1 = _
    rw [withCrc_take (by omega), List.drop_take, List.take_take, List.drop_drop, Nat.add_sub_cancel' hlo, Nat.min_eq_left (by omega)]
    exact hwhole x hx hlo hhi hpark
  · show (if a ≤ 0x30 ∧ 0x38 ≤ a + n ∧ a < 0x1000 then img.2.field.pwron.read else img.2.field.pwron) = _
    rw [hstate]
    exact if_congr (by omega) rfl rfl

theorem serviceSpiRead_log {f : List Byte} {s : State} {i : Nat} (hpow : fieldPowered s = true) (hok : frameOk 3 f = true) (hi : i < 256)
    (ha : frameAddr f = 0x1000 + 16 * i) (hn : frameLen f = 16) (hlen : (tget s.field.log i).length = 16) :
    Runs (.serviceSpiRead f) s fun t => t = { s with field := { s.field with spiOut := withCrc (tget s.field.log i) } } := by
  have hread : fldRead (0x1000 + 16 * i) 16 s = some (tget s.field.log i, s) := by
    unfold fldRead
    rw [if_pos (by omega)]
    have himage : ((List.range (16 / 16 + 2)).flatMap fun j => (tget s.field.log ((0x1000 + 16 * i - 0x1000) / 16 + j) ++ leBytes 16 0).take 16) =
        tget s.field.log i ++ ((List.range' 1 2).flatMap fun j => (tget s.field.log (i + j) ++ leBytes 16 0).take 16) := by
      rw [show (0x1000 + 16 * i - 0x1000) / 16 = i by omega]
      show (tget s.field.log i ++ leBytes 16 0).take 16 ++ _ = _
      rw [List.take_append_of_le_length (by omega), List.take_of_length_le (by omega)]
      rfl
    dsimp only
    rw [himage, show (0x1000 + 16 * i) % 16 = 0 by omega, List.drop_zero, List.take_append_of_le_length (by omega), List.take_of_length_le (by omega)]
  refine ⟨_, ?_, rfl⟩
  show execServiceSpiRead f s = _
  unfold execServiceSpiRead
  dsimp only
  rw [hpow, hok, ha, hn, hread]
  dsimp only
  rw [if_neg (by decide), if_neg (by decide)]
  refine congrArg Host.Outcome.next (congrArg (fun p => modField s fun g => { g with spiOut := withCrc (tget s.field.log i), pwron := p }) (if_neg ?_))
  omega

theorem serviceSpiRead_bad {f : List Byte} {s : State} (hpow : fieldPowered s = true)
    (hbad : frameOk 3 f = false ∨ (0x48 < frameAddr f + frameLen f ∧ frameAddr f < 0x1000)) :
    Runs (.serviceSpiRead f) s fun t => t = { s with field := { s.field with crcErr := true, spiOut := withCrc (leBytes (frameLen f) 0) } } := by
  refine ⟨_, ?_, rfl⟩
  show execServiceSpiRead f s = _
  unfold execServiceSpiRead
  dsimp only
  rw [hpow, if_neg (by decide)]
  cases hok : frameOk 3 f with
  | false => rfl
  | true =>
    have hout : 0x48 < frameAddr f + frameLen f ∧ frameAddr f < 0x1000 := by simpa [hok] using hbad
    have hread : fldRead (frameAddr f) (frameLen f) s = none := by
      unfold fldRead
      rw [if_neg (by omega)]
      exact if_neg (by omega)
    rw [hread, if_neg (by decide)]
    rfl

theorem serviceSpiStatus_effect {f : List Byte} {s : State} (hpow : fieldPowered s = true) (hcmd : field f 0 1 = 5) :
    Runs (.serviceSpiStatus f) s fun t => t = { s with field := { s.field with crcErr := false, spiOut := t.field.spiOut }, fresh := t.fresh } ∧
      ∃ b, t.field.spiOut = [b] ∧ b.getLsbD 0 = s.field.crcErr ∧ b.toNat < 8 := by
  refine ⟨modField (freeNum s).2 fun f => { f with crcErr := false, spiOut := leBytes 1 (b2n f.crcErr + 2 * ((freeNum s).1 % 4)) }, ?_, rfl, _, rfl, ?_, ?_⟩
  · show execServiceSpiStatus f s = _
    unfold execServiceSpiStatus
    rw [hpow, hcmd, if_neg (by decide)]
  · show (BitVec.ofNat 8 (b2n s.field.crcErr + 2 * ((freeNum s).1 % 4))).getLsbD 0 = s.field.crcErr
    rw [BitVec.getLsbD_ofNat]
    cases s.field.crcErr <;> simp [b2n, Nat.add_mod]
  · show (BitVec.ofNat 8 (b2n s.field.crcErr + 2 * ((freeNum s).1 % 4))).toNat < 8
    rw [BitVec.toNat_ofNat]
    cases s.field.crcErr <;> simp only [b2n, if_true, Bool.false_eq_true, if_false] <;> omega

theorem servicePort : ServicePort :=
  ⟨fun _ _ hpow => wakeNow_effect hpow, fun _ s hpow hok hend => ⟨regsWritten _ _ _ s, serviceSpiWrite_effect hpow hok hend, rfl⟩,
    fun _ _ hpow hbad => serviceSpiWrite_bad hpow hbad, fun _ _ hpow hok hend => serviceSpiRead_regs hpow hok hend,
    fun _ _ _ hpow hok hi ha hn hlen => serviceSpiRead_log hpow hok hi ha hn hlen, fun _ _ hpow hbad => serviceSpiRead_bad hpow hbad,
    fun _ _ hpow hcmd => serviceSpiStatus_effect hpow hcmd⟩

/-! ### The safety port (R365) -/

theorem length_bytes (r : CadRec) : r.bytes.length = 32 := by simp [CadRec.bytes]

theorem length_cadBytes (s : State) (reader slot : Nat) : (cadBytes s reader slot 0 32).length = 32 := by
  unfold cadBytes
  dsimp only
  split
  · rfl
  · split <;> simp [length_bytes]

/-- The registers of the doorbell page that one whole register's access meets. -/
theorem wholeRegs_one {a : Nat} (h : a % 8 = 0) : wholeRegs a 8 = [a] ∧ partRegs a 8 = [] := by
  have hregs : (List.range (8 / 8 + 2)).map (fun i => a / 8 * 8 + 8 * i) = [a, a + 8, a + 16] := by
    rw [show a / 8 * 8 = a by omega]
    rfl
  unfold wholeRegs partRegs
  rw [hregs]
  constructor <;> simp

/-- The register of the doorbell page that half of one's access meets. -/
theorem partRegs_one {a : Nat} (h : a % 4 = 0) : wholeRegs a 4 = [] ∧ partRegs a 4 = [a / 8 * 8] := by
  have hregs : (List.range (4 / 8 + 2)).map (fun i => a / 8 * 8 + 8 * i) = [a / 8 * 8, a / 8 * 8 + 8] := rfl
  unfold wholeRegs partRegs
  rw [hregs]
  constructor
  · refine List.filter_eq_nil_iff.2 fun o _ => ?_
    simp only [Bool.and_eq_true, decide_eq_true_eq]
    omega
  · have hin : (decide (a / 8 * 8 < a + 4) && decide (a < a / 8 * 8 + 8) && !(decide (a ≤ a / 8 * 8) && decide (a / 8 * 8 + 8 ≤ a + 4))) = true := by
      simp only [Bool.and_eq_true, decide_eq_true_eq, Bool.not_eq_true', Bool.and_eq_false_imp, decide_eq_false_iff_not]
      omega
    have hout : (decide (a / 8 * 8 + 8 < a + 4) && decide (a < a / 8 * 8 + 8 + 8) &&
        !(decide (a ≤ a / 8 * 8 + 8) && decide (a / 8 * 8 + 8 + 8 ≤ a + 4))) = false := by
      rw [decide_eq_false (by omega)]
      rfl
    simp only [List.filter_cons, hin, hout, if_true, Bool.false_eq_true, if_false, List.filter_nil]

theorem gxRange_door {a n : Nat} (hlo : 0x2000 ≤ a) (hhi : a + n ≤ 0x3000) (hn : 0 < n) : gxRange a n = 2 := by
  unfold gxRange
  rw [if_neg (by omega), if_pos ⟨hlo, hhi⟩]

theorem gxRange_caddy {a n : Nat} (hlo : 0x10000 ≤ a) (hhi : a + n ≤ 0x210000) : gxRange a n = 3 := by
  unfold gxRange
  rw [if_neg (by omega), if_neg (by omega), if_pos ⟨hlo, hhi⟩]

theorem gxRange_high {a n : Nat} (hlo : 0x10000 ≤ a) : gxRange a n = 3 ∨ gxRange a n = 0 := by
  unfold gxRange
  rw [if_neg (by omega), if_neg (by omega)]
  split <;> simp

section
variable {f : List Byte} {s : State}

theorem safetySpiWrite_of_ok (hon : keepOn s = true) (hok : frameOk 2 f = true) (hsel : s.boot.gxPcie = false) :
    exec (.safetySpiWrite f) s = .next (match gxRange (frameAddr f) (frameLen f) with
      | 1 => mboxWrite 17 (frameAddr f) (frameData f) (modSafe s fun f => { f with spiOut := [] })
      | 2 => (wholeRegs (frameAddr f) (frameLen f)).foldl (fun s o => dblWrite true 17 (o - 0x2000) (field (frameData f) (o - frameAddr f) 8) s)
          ((partRegs (frameAddr f) (frameLen f)).foldl (fun s o => dblWrite false 17 (o - 0x2000) 0 s) (modSafe s fun f => { f with spiOut := [] }))
      | _ => safetyRefuse [] s) := by
  show execSafetySpiWrite f s = _
  unfold execSafetySpiWrite
  dsimp only
  rw [hon, hok, hsel] <;> rfl

theorem safetySpiWrite_effect (hon : keepOn s = true) (hok : frameOk 2 f = true) (hsel : s.boot.gxPcie = false) :
    (frameAddr f + frameLen f ≤ 0x2000 → Runs (.safetySpiWrite f) s fun t =>
      t = { s with safe := { s.safe with spiOut := [], gxPages := t.safe.gxPages } } ∧
      (∀ i < frameLen f, tget t.safe.gxPages (frameAddr f + i) = (frameData f).getD i 0#8) ∧
      ∀ a, (a < frameAddr f ∨ frameAddr f + frameLen f ≤ a) → tget t.safe.gxPages a = tget s.safe.gxPages a) ∧
    (0x2000 ≤ frameAddr f → frameAddr f + 8 ≤ 0x3000 → frameLen f = 8 → frameAddr f % 8 = 0 →
      RunsThen (.safetySpiWrite f) s (dblWrite true 17 (frameAddr f - 0x2000) (field (frameData f) 0 8))
        fun u => u = { s with safe := { s.safe with spiOut := [] } }) ∧
    (0x2000 ≤ frameAddr f → frameAddr f + 4 ≤ 0x3000 → frameLen f = 4 →
      RunsThen (.safetySpiWrite f) s (dblWrite false 17 (frameAddr f / 8 * 8 - 0x2000) 0)
        fun u => u = { s with safe := { s.safe with spiOut := [] } }) ∧
    (0x10000 ≤ frameAddr f → Runs (.safetySpiWrite f) s fun t => t = { s with safe := { s.safe with spiCrcErr := true, spiOut := [] } }) := by
  obtain ⟨hfour, -, haddr, hdata⟩ := frameOk_data hok
  have hlen := hdata rfl
  have hexec := safetySpiWrite_of_ok hon hok hsel
  refine ⟨fun hmbox => ?_, fun hlo hhi hn halign => ?_, fun hlo hhi hn => ?_, fun hcaddy => ?_⟩
  · rw [show gxRange (frameAddr f) (frameLen f) = 1 from if_pos hmbox] at hexec
    refine ⟨_, hexec, rfl, fun i hi => ?_, fun a ha => ?_⟩
    · refine (tget_twrite_in (frameData f) s.safe.gxPages (frameAddr f) i (by omega)).trans ?_
      rw [List.getD_eq_getElem _ _ (by omega)]
    · exact tget_twrite_out (frameData f) s.safe.gxPages (by rw [hlen]; exact ha)
  · have hrange := gxRange_door (n := frameLen f) hlo (by omega) (by omega)
    split at hexec
    · omega
    · rw [hn, (wholeRegs_one halign).1, (wholeRegs_one halign).2, List.foldl_cons, List.foldl_nil, List.foldl_nil, Nat.sub_self] at hexec
      exact ⟨_, hexec, rfl⟩
    · next hother => exact absurd hrange hother
  · have hrange := gxRange_door (n := frameLen f) hlo (by omega) (by omega)
    split at hexec
    · omega
    · rw [hn, (partRegs_one haddr).1, (partRegs_one haddr).2, List.foldl_cons, List.foldl_nil, List.foldl_nil] at hexec
      exact ⟨_, hexec, rfl⟩
    · next hother => exact absurd hrange hother
  · refine ⟨_, hexec, ?_⟩
    rcases gxRange_high (a := frameAddr f) (n := frameLen f) hcaddy with h | h <;> rw [h] <;> rfl

theorem safetySpiWrite_bad (hon : keepOn s = true) (hbad : frameOk 2 f = false ∨ s.boot.gxPcie = true) :
    Runs (.safetySpiWrite f) s fun t => t = { s with safe := { s.safe with spiCrcErr := true, spiOut := [] } } := by
  refine ⟨safetyRefuse [] s, ?_, rfl⟩
  show execSafetySpiWrite f s = _
  unfold execSafetySpiWrite
  dsimp only
  rw [hon, if_neg (by decide), if_pos (by simpa using hbad)]

theorem safetySpiRead_of_ok (hon : keepOn s = true) (hok : frameOk 3 f = true) (hsel : s.boot.gxPcie = false) :
    exec (.safetySpiRead f) s = .next (match gxRange (frameAddr f) (frameLen f) with
      | 1 => modSafe s fun g => { g with
          spiOut := withCrc (tread g.gxPages (frameAddr f) (frameLen f)), gxIrq := g.gxIrq && decide (frameAddr f + frameLen f ≤ 0x1000) }
      | 2 => (wholeRegs (frameAddr f) (frameLen f)).foldl (fun s o => dblReadEffect 17 (o - 0x2000) s)
          (modSafe s fun g => { g with spiOut := withCrc (dblBytes s (frameAddr f) (frameLen f)) })
      | 3 => modSafe s fun g => { g with
          spiOut := withCrc ((((List.range (frameLen f / 32 + 2)).flatMap fun i =>
            cadBytes s 17 (((frameAddr f - 0x10000) / 32 + i) % 0x10000) 0 32).drop (frameAddr f % 32)).take (frameLen f)), gxEvent := false }
      | _ => safetyRefuse (withCrc (leBytes (frameLen f) 0)) s) := by
  show execSafetySpiRead f s = _
  unfold execSafetySpiRead
  dsimp only
  rw [hon, hok, hsel] <;> rfl

theorem safetySpiRead_effect (hon : keepOn s = true) (hok : frameOk 3 f = true) (hsel : s.boot.gxPcie = false) :
    (frameAddr f + frameLen f ≤ 0x2000 → Runs (.safetySpiRead f) s fun t => t = { s with safe := { s.safe with
      spiOut := withCrc (tread s.safe.gxPages (frameAddr f) (frameLen f))
      gxIrq := s.safe.gxIrq && decide (frameAddr f + frameLen f ≤ 0x1000) } }) ∧
    (0x2000 ≤ frameAddr f → frameAddr f + 8 ≤ 0x3000 → frameLen f = 8 → frameAddr f % 8 = 0 →
      RunsThen (.safetySpiRead f) s (dblReadEffect 17 (frameAddr f - 0x2000))
        fun u => u = { s with safe := { s.safe with spiOut := withCrc (leBytes 8 (dblVal s 17 (frameAddr f - 0x2000))) } }) ∧
    (0x10000 ≤ frameAddr f → frameAddr f + 32 ≤ 0x210000 → frameLen f = 32 → frameAddr f % 32 = 0 →
      Runs (.safetySpiRead f) s fun t => t = { s with safe := { s.safe with
        spiOut := withCrc (cadBytes s 17 ((frameAddr f - 0x10000) / 32) 0 32), gxEvent := false } }) := by
  have hexec := safetySpiRead_of_ok hon hok hsel
  refine ⟨fun hmbox => ?_, fun hlo hhi hn halign => ?_, fun hlo hhi hn halign => ?_⟩
  · rw [show gxRange (frameAddr f) (frameLen f) = 1 from if_pos hmbox] at hexec
    exact ⟨_, hexec, rfl⟩
  · have hbytes : dblBytes s (frameAddr f) 8 = leBytes 8 (dblVal s 17 (frameAddr f - 0x2000)) := by
      unfold dblBytes
      dsimp only
      rw [halign, List.drop_zero, show (List.range (8 / 8 + 2)) = 0 :: List.range' 1 2 from rfl, List.flatMap_cons,
        show frameAddr f / 8 * 8 + 8 * 0 = frameAddr f by omega, if_pos (by omega), List.take_append_of_le_length (by simp),
        List.take_of_length_le (by simp)]
    have hrange := gxRange_door (n := frameLen f) hlo (by omega) (by omega)
    split at hexec
    · omega
    · rw [hn, (wholeRegs_one halign).1, hbytes, List.foldl_cons, List.foldl_nil] at hexec
      exact ⟨_, hexec, rfl⟩
    · omega
    · next hother _ => exact absurd hrange hother
  · have hbytes : (((List.range (32 / 32 + 2)).flatMap fun i => cadBytes s 17 (((frameAddr f - 0x10000) / 32 + i) % 0x10000) 0 32).drop
        (frameAddr f % 32)).take 32 = cadBytes s 17 ((frameAddr f - 0x10000) / 32) 0 32 := by
      have hlen := length_cadBytes s 17 ((frameAddr f - 0x10000) / 32)
      rw [halign, List.drop_zero, show (List.range (32 / 32 + 2)) = 0 :: List.range' 1 2 from rfl, List.flatMap_cons,
        show ((frameAddr f - 0x10000) / 32 + 0) % 0x10000 = (frameAddr f - 0x10000) / 32 by omega,
        List.take_append_of_le_length (by omega), List.take_of_length_le (by omega)]
    have hrange := gxRange_caddy (n := frameLen f) hlo (by omega)
    split at hexec
    · omega
    · omega
    · rw [hn, hbytes] at hexec
      exact ⟨_, hexec, rfl⟩
    · next hother => exact absurd hrange hother

theorem safetySpiRead_bad (hon : keepOn s = true) (hbad : frameOk 3 f = false ∨ s.boot.gxPcie = true) :
    Runs (.safetySpiRead f) s fun t => t = { s with safe := { s.safe with spiCrcErr := true, spiOut := withCrc (leBytes (frameLen f) 0) } } := by
  refine ⟨safetyRefuse (withCrc (leBytes (frameLen f) 0)) s, ?_, rfl⟩
  show execSafetySpiRead f s = _
  unfold execSafetySpiRead
  dsimp only
  rw [hon, if_neg (by decide), if_pos (by simpa using hbad)]

theorem safetySpiStatus_effect (hon : keepOn s = true) (hcmd : field f 0 1 = 5) :
    Runs (.safetySpiStatus f) s fun t => t = { s with safe := { s.safe with
      spiCrcErr := false, spiOut := [BitVec.ofNat 8 (b2n s.safe.spiCrcErr + 2 * b2n (getParty s 17).busy + 4 * b2n (decide (s.safe.causes ≠ 0)))] } } := by
  refine ⟨_, ?_, rfl⟩
  show execSafetySpiStatus f s = _
  unfold execSafetySpiStatus
  rw [hon, hcmd, if_neg (by decide)]
  rfl

end

theorem safetyPort : SafetyPort :=
  ⟨fun _ _ hon hok hsel => safetySpiWrite_effect hon hok hsel, fun _ _ hon hbad => safetySpiWrite_bad hon hbad,
    fun _ _ hon hok hsel => safetySpiRead_effect hon hok hsel, fun _ _ hon hbad => safetySpiRead_bad hon hbad,
    fun _ _ hon hcmd => safetySpiStatus_effect hon hcmd⟩

/-- Settles O52: the frames of the service port and of the safety port. -/
theorem spiPorts : Obligations.SpiPorts := ⟨servicePort, safetyPort⟩

end Sys2Proof.Machine

/-! CAN controllers and their transceivers (R471, R473, R487). -/

namespace Sys2Proof.Machine
open Sys2Proof.Claims

/-! ### Controllers -/

theorem gwOnly_refl (s : State) : GwOnly s s := rfl

theorem gwOnly_trans {s t u : State} (a : GwOnly s t) (b : GwOnly t u) : GwOnly s u := by
  rw [GwOnly] at *
  rw [b, a]

theorem gwOnly_modCan (s : State) (c : Nat) (f : CanCtl → CanCtl) : GwOnly s (modCan s c f) := rfl

theorem gwOnly_event {code : Nat} (h : code / 0x100 ≠ 0x30) (src party : Nat) (args : List Byte) (s : State) :
    GwOnly s (event src code party args s) := by
  unfold GwOnly event
  rw [if_neg h]

theorem getCan_event (src code party : Nat) (args : List Byte) (s : State) (c : Nat) : getCan (event src code party args s) c = getCan s c := rfl

/-- Of the CAN controllers, only `c` differs, and of it only what counts dropped frames. -/
structure DropOnly (c : Nat) (s t : State) : Prop where
  gw : GwOnly s t
  other : ∀ j, j ≠ c → getCan t j = getCan s j
  same : getCan t c = { getCan s c with dropped := (getCan t c).dropped, since := (getCan t c).since, evAt := (getCan t c).evAt }

theorem canDrop_effect (c : Nat) (s : State) : DropOnly c s (canDrop c s) ∧ (getCan (canDrop c s) c).dropped = (getCan s c).dropped.add 1 := by
  unfold canDrop
  dsimp only
  split
  · refine ⟨⟨?_, fun j hj => ?_, ?_⟩, ?_⟩
    · exact gwOnly_trans (gwOnly_trans (gwOnly_modCan ..) (gwOnly_modCan ..)) (gwOnly_event (by decide) ..)
    · rw [getCan_event, getCan_modCan_ne _ _ hj, getCan_modCan_ne _ _ hj]
    · simp only [getCan_event, getCan_modCan_same]
    · rw [getCan_event, getCan_modCan_same, getCan_modCan_same]
  · refine ⟨⟨gwOnly_modCan .., fun j hj => getCan_modCan_ne _ _ hj, ?_⟩, ?_⟩
    · simp only [getCan_modCan_same]
    · rw [getCan_modCan_same]

/-! ### Received frames (R473) -/

section
variable {c : Fin 12} {f : CanFrame} {s : State}

theorem exec_canFrameReceived_plain (hfaults : ∀ x ∈ (getCan s c.val).faults, x ≠ 3 ∧ x ≠ 8) :
    exec (.canFrameReceived c f) s = .next (canReceive c.val f s) := by
  have hnone : ((getCan s c.val).faults.any fun x => x == 3 || x == 8) = false := by
    rw [List.any_eq_false]
    intro x hx
    simp [hfaults x hx]
  show execCanFrameReceived c f s = _
  unfold execCanFrameReceived
  dsimp only
  rw [hnone, Bool.and_false, if_neg (by decide)]

/-- What a controller does with a frame that it takes. -/
theorem canReceive_of_fits (hfab : fabricUp s = true) (hrun : s.pw.st = .run) (hpark : s.pw.parking = 0) (hown : (getCan s c.val).owner ≠ 0)
    (hstand : (getCan s c.val).standby = false) (hblock : blockOff s 10 c.val = false) (hfits : canFits (canMode (getCan s c.val).conf) f = true) :
    canReceive c.val f s = routeCan c.val f (clearOut (
      if !canRxOn (getCan s c.val).conf then s
      else if !canPush s (canRx (getCan s c.val).conf) then canDrop c.val s
      else
        let a := field (getCan s c.val).conf 16 6 + (getQ s (canRx (getCan s c.val).conf)).tail % (getQ s (canRx (getCan s c.val).conf)).n *
          field (getCan s c.val).conf 22 2
        let w := busWrite (gwIni (ownerOf (getCan s c.val).owner)) a f.data s
        if w.2 ≠ stOK then canDrop c.val w.1
        else
          let k := kt20 w.1
          pushEntry (canRx (getCan s c.val).conf) (canRecord k.1 c.val a f false false) k.2)) := by
  have hup : s.pw.supplied = true ∧ s.boot.held = false ∧ s.pw.pllLost = false := by
    simp only [fabricUp, Bool.and_eq_true, Bool.not_eq_true'] at hfab
    obtain ⟨⟨⟨⟨⟨hsup, hheld⟩, hpll⟩, -⟩, -⟩, -⟩ := hfab
    exact ⟨hsup, hheld, hpll⟩
  obtain ⟨hsup, hheld, hpll⟩ := hup
  unfold canReceive
  dsimp only
  rw [if_neg (by simp [hown, hstand, hblock, hfits, hsup, hheld, hrun, hpll]), wakeFrom_of_run true 5 c.val hpark hrun, hfab, if_neg (by decide)]

theorem canFrameReceived_taken (hfab : fabricUp s = true) (hrun : s.pw.st = .run) (hpark : s.pw.parking = 0) (hown : (getCan s c.val).owner ≠ 0)
    (hstand : (getCan s c.val).standby = false) (hblock : blockOff s 10 c.val = false)
    (hfaults : ∀ x ∈ (getCan s c.val).faults, x ≠ 3 ∧ x ≠ 8) {conf : List Byte} {q a : Nat} {w : State × Nat}
    (hconf : (getCan s c.val).conf = conf) (hq : canRx conf = q) (ha : field conf 16 6 + (getQ s q).tail % (getQ s q).n * field conf 22 2 = a)
    (hw : busWrite (gwIni (ownerOf (getCan s c.val).owner)) a f.data s = w) (hfits : canFits (canMode conf) f = true) :
    (canRxOn conf = false → RunsThen (.canFrameReceived c f) s (fun u => routeCan c.val f (clearOut u)) fun u => u = s) ∧
    (canRxOn conf = true → canPush s q = false → RunsThen (.canFrameReceived c f) s (fun u => routeCan c.val f (clearOut u)) fun u =>
      GwOnly s u ∧ OnlyCan c.val s u ∧ (getCan u c.val).dropped = (getCan s c.val).dropped.add 1) ∧
    (canRxOn conf = true → canPush s q = true → w.2 = stOK → RunsThen (.canFrameReceived c f) s (fun u => routeCan c.val f (clearOut u)) fun u =>
      ∃ k n, (k = (w.1.ktime + 2 ^ 64 - 2 + n) % 2 ^ 64 ∧ n ≤ 4) ∧
        u = pushEntry q (canRecord k c.val a f false false) { w.1 with fresh := w.1.fresh + 1 }) ∧
    (canRxOn conf = true → canPush s q = true → w.2 ≠ stOK → RunsThen (.canFrameReceived c f) s (fun u => routeCan c.val f (clearOut u)) fun u =>
      GwOnly w.1 u ∧ (getCan u c.val).dropped = (getCan w.1 c.val).dropped.add 1) := by
  have hexec := (exec_canFrameReceived_plain hfaults).trans
    (congrArg Host.Outcome.next (canReceive_of_fits (f := f) hfab hrun hpark hown hstand hblock (by rw [hconf]; exact hfits)))
  rw [hconf, hq] at hexec
  dsimp only at hexec
  rw [ha, hw] at hexec
  refine ⟨fun hon => ?_, fun hon hpush => ?_, fun hon hpush hok => ?_, fun hon hpush hbad => ?_⟩
  · rw [hon, if_pos (by decide)] at hexec
    exact ⟨_, hexec, rfl⟩
  · rw [hon, hpush, if_neg (by decide), if_pos (by decide)] at hexec
    obtain ⟨honly, hdropped⟩ := canDrop_effect c.val s
    exact ⟨_, hexec, honly.gw, honly.other, hdropped⟩
  · rw [hon, hpush, if_neg (by decide), if_neg (by decide), if_neg (by simp [hok])] at hexec
    refine ⟨_, hexec, (kt20 w.1).1, Config.freeNat w.1.fresh % 5, ⟨?_, by omega⟩, rfl⟩
    show (w.1.ktime + 2 ^ 64 + Config.freeNat w.1.fresh % 5 - 2) % 2 ^ 64 = _
    congr 1
    omega
  · rw [hon, hpush, if_neg (by decide), if_neg (by decide), if_pos hbad] at hexec
    obtain ⟨honly, hdropped⟩ := canDrop_effect c.val w.1
    exact ⟨_, hexec, honly.gw, hdropped⟩

/-- An end of faults of a transceiver. -/
theorem canClear_effect (n : Nat) (which : Nat → Bool) (s : State) : GwOnly s (canClear n which s) ∧ OnlyCan n s (canClear n which s) ∧
    getCan (canClear n which s) n = { getCan s n with faults := (getCan s n).faults.filter fun f => !which f } := by
  have hclears : ∀ (p : Nat) (fs : List Nat) (t : State), GwOnly t (fs.foldl (fun s f => harnessClear Config.canKind n f p s) t) ∧
      ∀ j, getCan (fs.foldl (fun s f => harnessClear Config.canKind n f p s) t) j = getCan t j := fun p fs => by
    induction fs with
    | nil => exact fun t => ⟨gwOnly_refl t, fun _ => rfl⟩
    | cons x fs ih =>
      intro t
      have hone : GwOnly t (harnessClear Config.canKind n x p t) ∧ ∀ j, getCan (harnessClear Config.canKind n x p t) j = getCan t j := by
        unfold harnessClear
        split
        · exact ⟨gwOnly_refl t, fun _ => rfl⟩
        · exact ⟨gwOnly_event (by decide) .., fun _ => rfl⟩
      exact ⟨gwOnly_trans hone.1 (ih _).1, fun j => ((ih _).2 j).trans (hone.2 j)⟩
  unfold canClear
  dsimp only
  obtain ⟨hgw, hcan⟩ := hclears (ownerParty (getCan s n).owner) ((getCan s n).faults.filter which)
    (modCan s n fun t => { t with faults := t.faults.filter fun f => !which f })
  exact ⟨gwOnly_trans (gwOnly_modCan ..) hgw, fun j hj => (hcan j).trans (getCan_modCan_ne _ _ hj), (hcan n).trans (getCan_modCan_same ..)⟩

theorem canFrameReceived_ends (hwired : canWired s c.val = true) (hfault : 3 ∈ (getCan s c.val).faults ∨ 8 ∈ (getCan s c.val).faults) :
    RunsThen (.canFrameReceived c f) s (canReceive c.val f) fun u => OnlyCan c.val s u ∧ GwOnly s u ∧
      getCan u c.val = { getCan s c.val with
        faults := (getCan s c.val).faults.filter (fun x => decide (x ≠ 3 ∧ x ≠ 8))
        txOff := (getCan s c.val).txOff && (!(getCan s c.val).faults.contains 8 || (getCan s c.val).faults.contains 1) } := by
  have hsome : ((getCan s c.val).faults.any fun x => x == 3 || x == 8) = true := by
    rw [List.any_eq_true]
    rcases hfault with h | h
    · exact ⟨3, h, rfl⟩
    · exact ⟨8, h, rfl⟩
  have hexec : exec (.canFrameReceived c f) s = .next (canReceive c.val f (modCan (canClear c.val (fun x => x == 3 || x == 8) s) c.val
      fun t => { t with txOff := t.txOff && !((getCan s c.val).faults.contains 8 && !t.faults.contains 1) })) := by
    show execCanFrameReceived c f s = _
    unfold execCanFrameReceived
    dsimp only
    rw [hwired, hsome, if_pos (by decide)]
  obtain ⟨hgw, hother, hsame⟩ := canClear_effect c.val (fun x => x == 3 || x == 8) s
  have hfilter : (getCan s c.val).faults.filter (fun f => !(f == 3 || f == 8)) = (getCan s c.val).faults.filter fun x => decide (x ≠ 3 ∧ x ≠ 8) :=
    List.filter_congr fun x _ => by rw [Bool.eq_iff_iff]; simp
  have hone : ((getCan s c.val).faults.filter fun x => decide (x ≠ 3 ∧ x ≠ 8)).contains 1 = (getCan s c.val).faults.contains 1 := by
    rw [Bool.eq_iff_iff]
    simp
  refine ⟨_, hexec, fun j hj => (getCan_modCan_ne _ _ hj).trans (hother j hj), gwOnly_trans hgw (gwOnly_modCan ..), ?_⟩
  rw [getCan_modCan_same, hsame]
  dsimp only
  rw [hfilter, hone, Bool.not_and, Bool.not_not]

end

/-! ### Sent frames (R473) -/

/-- The frame that goes next is the one of lowest identifier, and of these the oldest. -/
theorem canNext_of_first {bs : List CanBuf} {i : Nat} {b : CanBuf} (hb : bs[i]? = some b)
    (hfirst : ∀ j x, bs[j]? = some x → canPrio b.frame < canPrio x.frame ∨ (canPrio b.frame = canPrio x.frame ∧ i ≤ j)) :
    canNext bs = some (i, b) := by
  have hlen : i < bs.length := (List.getElem?_eq_some_iff.1 hb).1
  have hscan : ∀ n, n ≤ bs.length → (i < n → (List.range n).foldl (fun (x : Option (Nat × CanBuf)) i =>
      match bs[i]?, x with
      | some b, none => some (i, b)
      | some b, some y => if canPrio b.frame < canPrio y.2.frame then some (i, b) else some y
      | none, x => x) none = some (i, b)) ∧
      (n ≤ i → ∀ y, (List.range n).foldl (fun (x : Option (Nat × CanBuf)) i =>
      match bs[i]?, x with
      | some b, none => some (i, b)
      | some b, some y => if canPrio b.frame < canPrio y.2.frame then some (i, b) else some y
      | none, x => x) none = some y → y.1 < n ∧ bs[y.1]? = some y.2) := fun n => by
    induction n with
    | zero => exact fun _ => ⟨fun h => absurd h (Nat.not_lt_zero i), fun _ y h => by cases h⟩
    | succ n ih =>
      intro hn
      obtain ⟨hafter, hbefore⟩ := ih (by omega)
      rw [List.range_succ, List.foldl_append]
      generalize (List.range n).foldl (fun (x : Option (Nat × CanBuf)) i =>
        match bs[i]?, x with
        | some b, none => some (i, b)
        | some b, some y => if canPrio b.frame < canPrio y.2.frame then some (i, b) else some y
        | none, x => x) none = r at *
      obtain ⟨x, hx⟩ : ∃ x, bs[n]? = some x := ⟨bs[n], List.getElem?_eq_getElem (by omega)⟩
      rw [List.foldl_cons, List.foldl_nil, hx]
      rcases Nat.lt_trichotomy i n with hlt | rfl | hgt
      · refine ⟨fun _ => ?_, fun h => by omega⟩
        rw [hafter hlt]
        exact if_neg (show ¬ canPrio x.frame < canPrio b.frame by have := hfirst n x hx; omega)
      · obtain rfl : b = x := Option.some.inj (hb.symm.trans hx)
        refine ⟨fun _ => ?_, fun h => by omega⟩
        cases r with
        | none => rfl
        | some y =>
          obtain ⟨hlt, hy⟩ := hbefore (Nat.le_refl i) y rfl
          exact if_pos (show canPrio b.frame < canPrio y.2.frame by have := hfirst y.1 y.2 hy; omega)
      · refine ⟨fun h => by omega, fun _ y hy => ?_⟩
        cases r with
        | none =>
          cases hy
          exact ⟨Nat.lt_succ_self n, hx⟩
        | some z =>
          obtain ⟨hlt, hz⟩ := hbefore (by omega) z rfl
          dsimp only at hy
          split at hy
          · cases hy
            exact ⟨Nat.lt_succ_self n, hx⟩
          · cases hy
            exact ⟨by omega, hz⟩
  exact (hscan bs.length (Nat.le_refl _)).1 hlen

/-- What the controller's record keeps when it echoes a frame. -/
theorem canEcho_effect (c : Nat) (f : CanFrame) (err : Bool) (s : State) :
    (∀ j, j ≠ c → getCan (canEcho c f err s) j = getCan s j) ∧
    getCan (canEcho c f err s) c = { getCan s c with
      dropped := (getCan (canEcho c f err s) c).dropped, since := (getCan (canEcho c f err s) c).since, evAt := (getCan (canEcho c f err s) c).evAt } ∧
    (canRxOn (getCan s c).conf = false → canEcho c f err s = s) ∧
    (canRxOn (getCan s c).conf = true → canPush s (canRx (getCan s c).conf) = true → ∃ k a,
      canEcho c f err s = pushEntry (canRx (getCan s c).conf) (canRecord k c a f true err) (freeNum (freeNum s).2).2) := by
  have hposted : ∀ (q : Nat) (bs : List Byte) (t : State) (j : Nat), getCan (pushEntry q bs t) j = getCan t j := fun q bs t j => by
    rw [getCan, (posted_pushEntry q bs t).gw, ← getCan]
  unfold canEcho
  dsimp only
  cases hon : canRxOn (getCan s c).conf with
  | false => exact ⟨fun _ _ => rfl, rfl, fun _ => rfl, fun h => by cases h⟩
  | true =>
    rw [if_neg (by decide)]
    cases hpush : canPush s (canRx (getCan s c).conf) with
    | false =>
      obtain ⟨hdrop, -⟩ := canDrop_effect c (freeNum (kt20 s).2).2
      exact ⟨fun j hj => hdrop.other j hj, hdrop.same, fun h => absurd h (by decide), fun _ h => absurd h (by decide)⟩
    | true =>
      rw [if_pos rfl]
      simp only [hposted]
      exact ⟨fun _ _ => rfl, rfl, fun h => absurd h (by decide), fun _ _ => ⟨_, _, rfl⟩⟩

theorem canState_effect (c st : Nat) (s : State) : GwOnly s (canState c st s) ∧ (∀ j, getCan (canState c st s) j = getCan s j) ∧
    ∃ a b, Logs 0x6004 srcAfzan (leBytes 1 c ++ leBytes 1 st ++ leBytes 1 a ++ leBytes 1 b) s (canState c st s) := by
  refine ⟨gwOnly_trans (t := (freeNum (freeNum s).2).2) rfl (gwOnly_event (by decide) ..), fun _ => rfl, (freeNum s).1,
    (freeNum (freeNum s).2).1, ?_⟩
  exact logs_event (u := (freeNum (freeNum s).2).2) (party := ownerOf (getCan s c).owner) (by simp) rfl rfl rfl rfl

/-- A controller whose frame left, or was abandoned, before its transmit buffers are filled again. -/
def canLeft (c i : Nat) (b : CanBuf) (ok : Bool) (v : State) : State :=
  let u := canEcho c b.frame (!ok) (modCan v c fun t => { t with buf := t.buf.eraseIdx i, sent := if ok then [b.frame] else [] })
  if ok then u else canState c 2 (modCan u c fun t => { t with err := 2 })

section
variable {c : Fin 12} {ok : Bool} {s v : State} {i : Nat} {b : CanBuf}

theorem canFrameSent_effect (hv : canFeed c.val s = v) (hon : canOn v c.val = true) (herr : (getCan v c.val).err ≠ 2)
    (htx : (getCan v c.val).txOff = false) (hstand : (getCan v c.val).standby = false) (hlisten : canListen (getCan v c.val).conf = false)
    (hb : (getCan v c.val).buf[i]? = some b)
    (hfirst : ∀ j x, (getCan v c.val).buf[j]? = some x → canPrio b.frame < canPrio x.frame ∨ (canPrio b.frame = canPrio x.frame ∧ i ≤ j)) :
    RunsThen (.canFrameSent c ok) s (canFeed c.val) fun u => OnlyCan c.val v u ∧ (getCan u c.val).buf = (getCan v c.val).buf.eraseIdx i ∧
      (getCan u c.val).sent = (if ok then [b.frame] else []) ∧ (getCan u c.val).err = (if ok then (getCan v c.val).err else 2) ∧
      (canRxOn (getCan v c.val).conf = false → GwOnly v u) ∧
      (ok = true → canRxOn (getCan v c.val).conf = true → canPush v (canRx (getCan v c.val).conf) = true → ∃ k a w,
        u = pushEntry (canRx (getCan v c.val).conf) (canRecord k c.val a b.frame true false) w ∧ GwOnly v w) := by
  have hexec : exec (.canFrameSent c ok) s = .next (canFeed c.val (canLeft c.val i b ok v)) := by
    show execCanFrameSent c ok s = _
    unfold execCanFrameSent
    dsimp only
    rw [hv, if_neg (by simp [hon, herr, htx, hstand, hlisten]), canNext_of_first hb hfirst]
    rfl
  generalize hm : modCan v c.val (fun t => { t with buf := t.buf.eraseIdx i, sent := if ok then [b.frame] else [] }) = m
  have hsame : getCan m c.val = { getCan v c.val with buf := (getCan v c.val).buf.eraseIdx i, sent := if ok then [b.frame] else [] } := by
    rw [← hm, getCan_modCan_same]
  have hother : ∀ j, j ≠ c.val → getCan m j = getCan v j := fun j hj => by rw [← hm, getCan_modCan_ne _ _ hj]
  have hgw : GwOnly v m := by rw [← hm]; exact gwOnly_modCan ..
  have hpushes : canPush m = canPush v := by rw [← hm]; rfl
  obtain ⟨hecho, hkept, hquiet, hloud⟩ := canEcho_effect c.val b.frame (!ok) m
  rw [hsame] at hkept hquiet hloud
  dsimp only at hkept hquiet hloud
  have hleft : canLeft c.val i b ok v = if ok then canEcho c.val b.frame (!ok) m
      else canState c.val 2 (modCan (canEcho c.val b.frame (!ok) m) c.val fun t => { t with err := 2 }) := by rw [← hm]; rfl
  rw [hleft] at hexec
  generalize canEcho c.val b.frame (!ok) m = e at *
  refine ⟨_, hexec, ?_⟩
  cases ok with
  | true =>
    rw [if_pos rfl]
    refine ⟨fun j hj => (hecho j hj).trans (hother j hj), by rw [hkept], by rw [hkept], by rw [hkept]; rfl, fun hoff => ?_, fun _ hrx hpush => ?_⟩
    · rw [hquiet hoff]
      exact hgw
    · obtain ⟨k, a, he⟩ := hloud hrx (by rw [hpushes]; exact hpush)
      exact ⟨k, a, _, he, gwOnly_trans hgw rfl⟩
  | false =>
    rw [if_neg (by decide)]
    obtain ⟨hstate, hcans, -⟩ := canState_effect c.val 2 (modCan e c.val fun t => { t with err := 2 })
    refine ⟨fun j hj => ?_, ?_, ?_, ?_, fun hoff => ?_, fun h => by cases h⟩
    · rw [hcans, getCan_modCan_ne _ _ hj, hecho j hj, hother j hj]
    · rw [hcans, getCan_modCan_same, hkept]
    · rw [hcans, getCan_modCan_same, hkept]
    · rw [hcans, getCan_modCan_same]
      rfl
    · rw [hquiet hoff] at hstate ⊢
      exact gwOnly_trans (gwOnly_trans hgw (gwOnly_modCan ..)) hstate

theorem canBusOffRecovery_effect (hown : (getCan s c.val).owner ≠ 0) (herr : (getCan s c.val).err = 2) :
    RunsThen (.canBusOffRecovery c) s (canFeed c.val) fun u => OnlyCan c.val s u ∧ GwOnly s u ∧
      getCan u c.val = { getCan s c.val with err := 0 } ∧
      ∃ a b, Logs 0x6004 srcAfzan (leBytes 1 c.val ++ leBytes 1 3 ++ leBytes 1 a ++ leBytes 1 b) s u := by
  have hexec : exec (.canBusOffRecovery c) s = .next (canFeed c.val (canState c.val 3 (modCan s c.val fun t => { t with err := 0 }))) := by
    show execCanBusOffRecovery c s = _
    unfold execCanBusOffRecovery
    dsimp only
    rw [if_neg (by simp [hown, herr])]
  obtain ⟨hgw, hcans, a, b, hlogs⟩ := canState_effect c.val 3 (modCan s c.val fun t => { t with err := 0 })
  refine ⟨_, hexec, fun j hj => by rw [hcans, getCan_modCan_ne _ _ hj], gwOnly_trans (gwOnly_modCan ..) hgw, by rw [hcans, getCan_modCan_same], a, b, hlogs⟩

end

theorem canFrames : CanFrames :=
  ⟨fun _ _ _ hfab hrun hpark hown hstand hblock hfits hfaults =>
      canFrameReceived_taken hfab hrun hpark hown hstand hblock hfaults rfl rfl rfl rfl hfits,
    fun _ _ _ hwired hfault => canFrameReceived_ends hwired hfault,
    fun _ _ _ _ _ hon herr htx hstand hlisten hb hfirst => canFrameSent_effect rfl hon herr htx hstand hlisten hb hfirst,
    fun _ _ hown herr => canBusOffRecovery_effect hown herr⟩

/-! ### Transceivers (R471, R487) -/

/-- A fault found again only turns the transmitter off; a new one is told. -/
theorem canFault_effect (c fault : Nat) (off : Bool) (s : State) :
    ((getCan s c).faults.contains fault = true → OnlyCan c s (canFault c fault off s) ∧
      getCan (canFault c fault off s) c = { getCan s c with txOff := (getCan s c).txOff || off } ∧
      canFault c fault off s = { s with gw := { s.gw with can := (canFault c fault off s).gw.can } }) ∧
    ((getCan s c).faults.contains fault = false → OnlyCan c s (canFault c fault off s) ∧
      getCan (canFault c fault off s) c = { getCan s c with txOff := (getCan s c).txOff || off, faults := (getCan s c).faults ++ [fault] } ∧
      (canFault c fault off s).field = { s.field with fault := s.field.fault ||| 2 ^ (12 + c) } ∧
      canFault c fault off s = { s with gw := { s.gw with can := (canFault c fault off s).gw.can }, field := (canFault c fault off s).field
                                        caddy := (canFault c fault off s).caddy, fresh := (canFault c fault off s).fresh } ∧
      (fieldHeard s = true → ∃ v, Logs 0x6002 srcField
        (leBytes 1 Config.canKind ++ leBytes 1 c ++ leBytes 2 fault ++ leBytes 1 0 ++ leBytes 4 v) s (canFault c fault off s))) := by
  refine ⟨fun hold => ?_, fun hnew => ?_⟩
  · have hsame : canFault c fault off s = modCan s c fun t => { t with txOff := t.txOff || off } := by
      unfold canFault
      dsimp only
      rw [if_pos hold]
    rw [hsame]
    exact ⟨fun j hj => getCan_modCan_ne _ _ hj, getCan_modCan_same .., rfl⟩
  · have hfound : canFault c fault off s = harnessFault Config.canKind c fault false (freeNum s).1 (ownerParty (getCan s c).owner)
        (fldFault (12 + c) (modCan (freeNum (modCan s c fun t => { t with txOff := t.txOff || off })).2 c
          fun t => { t with faults := t.faults ++ [fault] })) := by
      unfold canFault
      dsimp only
      rw [if_neg (by rw [hnew]; decide)]
      rfl
    have hcan : ∀ j, j ≠ c → getCan (fldFault (12 + c) (modCan (freeNum (modCan s c fun t => { t with txOff := t.txOff || off })).2 c
        fun t => { t with faults := t.faults ++ [fault] })) j = getCan s j := fun j hj =>
      (getCan_modCan_ne _ _ hj).trans (getCan_modCan_ne s (fun t => { t with txOff := t.txOff || off }) hj)
    have hself : getCan (fldFault (12 + c) (modCan (freeNum (modCan s c fun t => { t with txOff := t.txOff || off })).2 c
        fun t => { t with faults := t.faults ++ [fault] })) c =
        { getCan s c with txOff := (getCan s c).txOff || off, faults := (getCan s c).faults ++ [fault] } := by
      refine (getCan_modCan_same _ c _).trans ?_
      rw [show getCan (freeNum (modCan s c fun t => { t with txOff := t.txOff || off })).2 c =
        getCan (modCan s c fun t => { t with txOff := t.txOff || off }) c from rfl, getCan_modCan_same]
    rw [hfound]
    unfold harnessFault
    split
    · next hdeaf =>
      refine ⟨hcan, hself, rfl, rfl, fun hheard => ?_⟩
      have hquiet : (!fieldHeard s) = true := hdeaf
      rw [hheard] at hquiet
      cases hquiet
    · exact ⟨hcan, hself, rfl, rfl, fun _ => ⟨_, logs_event (u := fldFault (12 + c) (modCan
        (freeNum (modCan s c fun t => { t with txOff := t.txOff || off })).2 c fun t => { t with faults := t.faults ++ [fault] }))
        (party := ownerParty (getCan s c).owner) (by simp) rfl rfl rfl rfl⟩⟩

section
variable {c : Fin 12} {s : State}

theorem exec_canFault {x : Instr × Fin 12 × Nat × Bool} (hx : ∃ c, x = (.canDominant c, c, 8, true) ∨ x = (.canBusFault c .shortToBattery, c, 1, true) ∨
      x = (.canBusFault c .shortToGround, c, 2, false) ∨ x = (.canOpenLoad c, c, 3, false)) (hwired : canWired s x.2.1.val = true) :
    exec x.1 s = .next (canFault x.2.1.val x.2.2.1 x.2.2.2 s) := by
  obtain ⟨c, rfl | rfl | rfl | rfl⟩ := hx
  · show execCanDominant c s = _
    unfold execCanDominant
    rw [hwired, if_pos rfl]
  · show execCanBusFault c .shortToBattery s = _
    unfold execCanBusFault
    dsimp only
    rw [hwired, if_neg (by decide)]
  · show execCanBusFault c .shortToGround s = _
    unfold execCanBusFault
    dsimp only
    rw [hwired, if_neg (by decide)]
  · show execCanOpenLoad c s = _
    unfold execCanOpenLoad
    rw [hwired, if_pos rfl]

theorem canBusFault_cleared (hwired : canWired s c.val = true) :
    RunsThen (.canBusFault c .cleared) s (canFeed c.val) fun u => OnlyCan c.val s u ∧ GwOnly s u ∧ getCan u c.val = { getCan s c.val with
      txOff := false, faults := (getCan s c.val).faults.filter (fun x => decide (x ≠ 1 ∧ x ≠ 2 ∧ x ≠ 8)) } := by
  have hexec : exec (.canBusFault c .cleared) s = .next (canFeed c.val (modCan (canClear c.val (fun x => x == 1 || x == 2 || x == 8) s) c.val
      fun t => { t with txOff := false })) := by
    show execCanBusFault c .cleared s = _
    unfold execCanBusFault
    dsimp only
    rw [hwired, if_neg (by decide)]
  obtain ⟨hgw, hother, hsame⟩ := canClear_effect c.val (fun x => x == 1 || x == 2 || x == 8) s
  have hfilter : (getCan s c.val).faults.filter (fun f => !(f == 1 || f == 2 || f == 8)) =
      (getCan s c.val).faults.filter fun x => decide (x ≠ 1 ∧ x ≠ 2 ∧ x ≠ 8) :=
    List.filter_congr fun x _ => by rw [Bool.eq_iff_iff]; simp [and_assoc]
  refine ⟨_, hexec, fun j hj => (getCan_modCan_ne _ _ hj).trans (hother j hj), gwOnly_trans hgw (gwOnly_modCan ..), ?_⟩
  rw [getCan_modCan_same, hsame]
  dsimp only
  rw [hfilter]

theorem canTransmitterRetry_effect (hwired : canWired s c.val = true) (htx : (getCan s c.val).txOff = true)
    (hshort : (getCan s c.val).faults.contains 1 = true) (hdom : (getCan s c.val).faults.contains 8 = false) :
    RunsThen (.canTransmitterRetry c) s (canFeed c.val) fun u => OnlyCan c.val s u ∧ getCan u c.val = { getCan s c.val with txOff := false } ∧
      u = { s with gw := { s.gw with can := u.gw.can } } := by
  have hexec : exec (.canTransmitterRetry c) s = .next (canFeed c.val (modCan s c.val fun t => { t with txOff := false })) := by
    show execCanTransmitterRetry c s = _
    unfold execCanTransmitterRetry
    dsimp only
    rw [hwired, htx, hshort, hdom, if_pos (by decide)]
  exact ⟨_, hexec, fun j hj => getCan_modCan_ne _ _ hj, getCan_modCan_same .., rfl⟩

theorem canWup_fires (hc : c.val < 8) (hpow : fieldPowered s = true) (hstand : (getCan s c.val).standby = true) (hown : (getCan s c.val).owner ≠ 0)
    (hwake : canWake (getCan s c.val).conf = true) : Fires (.canWup c) (8 + c.val) s := by
  refine ⟨modField s fun f => { f with wake := f.wake ||| 2 ^ (8 + c.val) }, ?_, rfl⟩
  rw [← fieldWake_eq]
  show execCanWup c s = _
  unfold execCanWup
  dsimp only
  rw [if_pos ⟨hc, hpow, hstand, hown, hwake⟩]

end

theorem canTransceivers : CanTransceivers :=
  ⟨fun x hx s hwired =>
      ⟨fun hold => ⟨_, exec_canFault hx hwired, (canFault_effect x.2.1.val x.2.2.1 x.2.2.2 s).1 hold⟩,
        fun hnew => ⟨_, exec_canFault hx hwired, (canFault_effect x.2.1.val x.2.2.1 x.2.2.2 s).2 hnew⟩⟩,
    fun _ _ hwired => canBusFault_cleared hwired, fun _ _ hwired htx hshort hdom => canTransmitterRetry_effect hwired htx hshort hdom,
    fun _ _ hc hpow hstand hown hwake => canWup_fires hc hpow hstand hown hwake⟩

/-- Settles O53: frames of the CAN controllers, and the faults of their transceivers. -/
theorem canControllers : Obligations.CanControllers := ⟨canFrames, canTransceivers⟩

end Sys2Proof.Machine

/-! The TSN switch and the routing engine (R474 to R480). -/

namespace Sys2Proof.Machine
open Sys2Proof.Claims

/-! ### Frames that enter the switch -/

/-- Learning changes only the list of learned addresses. -/
theorem learn_gw (p : Nat) (f : EthFrame) (s : State) : learn p f s = { s with gw := { s.gw with learned := (learn p f s).gw.learned } } := by
  unfold learn
  dsimp only
  split <;> rfl

/-- Where no static entry names the source, its last port is the one that is learned. -/
theorem mem_learned {p : Nat} {f : EthFrame} {s : State} (hstatic : ∀ e ∈ s.gw.static_, ¬(e.1 = f.src.toNat ∧ e.2.1 = f.vlan.toNat))
    (e : Nat × Nat × Nat) : e ∈ (learn p f s).gw.learned ↔
      (e = (f.src.toNat, f.vlan.toNat, p) ∨ (e ∈ s.gw.learned ∧ ¬(e.1 = f.src.toNat ∧ e.2.1 = f.vlan.toNat))) := by
  have hnone : (s.gw.static_.any fun e => decide (e.1 = f.src.toNat) && decide (e.2.1 = f.vlan.toNat)) = false := by
    rw [List.any_eq_false]
    intro e he
    simpa using hstatic e he
  unfold learn
  dsimp only
  rw [hnone, if_neg (by decide)]
  simp only [List.mem_append, List.mem_filter, List.mem_singleton]
  rw [or_comm]
  simp [imp_iff_not_or]

section
variable {s : State} {p : Fin 12} {f : EthFrame}

theorem ethFrameIngress_effect (hup : fabricUp s = true) (hrun : s.pw.st = .run) (hpark : s.pw.parking = 0) (hon : (getPort s p.val).on = true)
    (hlink : 4 ≤ p.val → (getPort s p.val).up = true) (hmin : 60 ≤ f.bytes.length) (hmax : f.bytes.length ≤ 9212)
    (hsect : (s.gw.sect.any fun e => decide (e.1 / 256 = 7) || decide (e.1 / 256 = 8)) = false) :
    RunsThen (.ethFrameIngress p f) s
        (fun u => if (forwardMask u p.val f).contains 1 || (forwardMask u p.val f).contains 2 then
          routeEth (dozing s) ((forwardMask u p.val f).contains 2) p.val f u else u)
      fun u => u = { s with gw := { s.gw with learned := u.gw.learned, out := u.gw.out } } ∧
        u.gw.out = ((forwardMask u p.val f).filter fun q => q ≠ 1 && q ≠ 2).map (fun q => (q, f)) ∧
        ((∀ e ∈ s.gw.static_, ¬(e.1 = f.src.toNat ∧ e.2.1 = f.vlan.toNat)) → ∀ e,
          e ∈ u.gw.learned ↔ (e = (f.src.toNat, f.vlan.toNat, p.val) ∨ (e ∈ s.gw.learned ∧ ¬(e.1 = f.src.toNat ∧ e.2.1 = f.vlan.toNat)))) := by
  have hpass : ¬ (!s.pw.supplied || s.boot.held || decide (s.pw.st = .rest) || decide (s.pw.st = .park) || s.pw.pllLost ||
      !(getPort s p.val).on || (decide (4 ≤ p.val) && !(getPort s p.val).up) || decide (f.bytes.length < 60) ||
      decide (9212 < f.bytes.length)) = true := by
    simp only [fabricUp, Bool.and_eq_true, Bool.not_eq_true'] at hup
    obtain ⟨⟨⟨⟨⟨hsup, hheld⟩, hpll⟩, -⟩, -⟩, -⟩ := hup
    have hport : (decide (4 ≤ p.val) && !(getPort s p.val).up) = false := by
      by_cases h4 : 4 ≤ p.val
      · simp [hlink h4]
      · simp [h4]
    rw [hsup, hheld, hpll, hrun, hon, hport, decide_eq_false (by omega : ¬ f.bytes.length < 60),
      decide_eq_false (by omega : ¬ 9212 < f.bytes.length)]
    decide
  have hmask : forwardMask (learn p.val f (clearOut s)) p.val f = forwardMask (sendOut (forwardMask (learn p.val f (clearOut s)) p.val f) f
    (learn p.val f (clearOut s))) p.val f := rfl
  have hlearn := learn_gw p.val f (clearOut s)
  refine ⟨sendOut (forwardMask (learn p.val f (clearOut s)) p.val f) f (learn p.val f (clearOut s)), ?_, ?_, ?_,
    fun hstatic e => mem_learned (s := clearOut s) hstatic e⟩
  · show execEthFrameIngress p f s = _
    unfold execEthFrameIngress
    dsimp only
    rw [if_neg hpass, wakeFrom_of_run true 4 p.val (s := clearOut s) hpark hrun]
    have hfree : filtered (learn p.val f (clearOut s)) = (false, learn p.val f (clearOut s)) := by
      rw [hlearn]
      unfold filtered
      rw [if_neg]
      rw [show ({ clearOut s with gw := { (clearOut s).gw with learned := (learn p.val f (clearOut s)).gw.learned } } : State).gw.sect =
        s.gw.sect from rfl, hsect]
      decide
    unfold ingress
    dsimp only
    rw [hfree, if_neg Bool.false_ne_true]
    rfl
  · rw [hlearn]
    rfl
  · rw [← hmask]
    refine Eq.trans ?_ (List.nil_append _)
    refine congrArg (· ++ _) ?_
    rw [hlearn]
    rfl

theorem bitOf_iff_testBit {v i : Nat} : bitOf v i = true ↔ v.testBit i = true := by
  rw [Nat.testBit_eq_decide_div_mod_eq, bitOf, beq_iff_eq, decide_eq_true_eq]

theorem bitOf_of_and {v w i : Nat} (h : bitOf (v &&& w) i = true) : bitOf v i = true := by
  rw [bitOf_iff_testBit, Nat.testBit_and, Bool.and_eq_true] at h
  exact bitOf_iff_testBit.2 h.1

theorem forwardMask_spec {p q : Nat} {f : EthFrame} {s : State} (h : q ∈ forwardMask s p f) : q < 12 ∧ q ≠ p ∧
    bitOf (tget s.gw.vlan f.vlan.toNat).ports q = true ∧ (getPort s q).on = true ∧ (4 ≤ q → (getPort s q).up = true) := by
  unfold forwardMask at h
  extract_lets v key mask at h
  have hsub : bitOf mask q = true → bitOf v.ports q = true := by
    intro hbit
    simp only [mask] at hbit
    split at hbit
    · exact bitOf_of_and hbit
    · split at hbit
      · exact bitOf_of_and hbit
      · exact hbit
  clear_value mask
  simp only [List.mem_filter, List.mem_range, Bool.and_eq_true, Bool.or_eq_true, decide_eq_true_eq] at h
  obtain ⟨hlt, ⟨⟨hbit, hne⟩, hon⟩, hup⟩ := h
  exact ⟨hlt, hne, hsub hbit, hon, fun h4 => hup.resolve_left (by omega)⟩

end

/-! ### Drops, talkers, gate lists and links -/

/-- A frame dropped because its destination is full. -/
theorem routeDrop_full (r : Nat) (s : State) : getRule (routeDrop r 1 s) r = { getRule s r with drops := (getRule s r).drops.add 1 } ∧
    GwOnly s (routeDrop r 1 s) ∧ (∀ j, getCan (routeDrop r 1 s) j = getCan s j) ∧
    Logs 0x6006 srcAfzan (leBytes 2 r ++ leBytes 1 1 ++ leBytes 4 (getRule (routeDrop r 1 s) r).drops.n) s (routeDrop r 1 s) :=
  ⟨getRule_modRule_same s r _, gwOnly_event (by decide) _ _ _ (modRule s r _), fun _ => rfl,
    logs_event (u := modRule s r _) (by simp) rfl rfl rfl rfl⟩

section
variable {s : State}

theorem routeDestTimeout_drops {c : Fin 12} {b : CanBuf} {rest : List CanBuf} (hwait : (getCan s c.val).wait = b :: rest)
    (hlate : 1000000 ≤ ktSince s b.at_) :
    Runs (.routeDestTimeout c) s fun t => OnlyCan c.val s t ∧ getCan t c.val = { getCan s c.val with wait := rest } ∧
      getRule t (b.rule - 1) = { getRule s (b.rule - 1) with drops := (getRule s (b.rule - 1)).drops.add 1 } ∧ GwOnly s t ∧
      Logs 0x6006 srcAfzan (leBytes 2 (b.rule - 1) ++ leBytes 1 1 ++ leBytes 4 (getRule t (b.rule - 1)).drops.n) s t := by
  have hexec : exec (.routeDestTimeout c) s = .next (routeDrop (b.rule - 1) 1 (modCan s c.val fun t => { t with wait := rest })) := by
    show execRouteDestTimeout c s = _
    unfold execRouteDestTimeout
    dsimp only
    rw [hwait]
    dsimp only
    rw [if_neg (by omega)]
  obtain ⟨hrule, hgw, hcan, hlog⟩ := routeDrop_full (b.rule - 1) (modCan s c.val fun t => { t with wait := rest })
  exact ⟨_, hexec, fun j hj => (hcan j).trans (getCan_modCan_ne _ _ hj), (hcan c.val).trans (getCan_modCan_same _ _ _), hrule,
    gwOnly_trans (gwOnly_modCan ..) hgw, hlog⟩

theorem acfTalkerSend_effect {r : Fin 4096} (hown : (getRule s r.val).owner ≠ 0) (hbatch : (getRule s r.val).batch ≠ [])
    (hlate : 100 * field (getRule s r.val).conf 42 2 ≤ ktSince s (getRule s r.val).batchAt) :
    Runs (.acfTalkerSend r) s fun t => GwOnly s t ∧ (∀ j, j ≠ r.val → getRule t j = getRule s j) ∧
      getRule t r.val = { getRule s r.val with batch := [], seq := ((getRule s r.val).seq + 1) % 256 } ∧
      ∃ f : EthFrame, t.gw.out = ((forwardMask s 2 f).filter fun q => q ≠ 1 && q ≠ 2).map (fun q => (q, f)) ∧
        f.body = .acf (BitVec.ofNat 64 (field (getRule s r.val).conf 24 8)) (BitVec.ofNat 8 (getRule s r.val).seq) (getRule s r.val).batch ∧
        f.dst = BitVec.ofNat 48 (field (getRule s r.val).conf 32 6) ∧ f.vlan = BitVec.ofNat 12 (field (getRule s r.val).conf 38 2) := by
  have hempty : ¬ (getRule s r.val).batch.isEmpty = true := by simpa using hbatch
  have hexec : exec (.acfTalkerSend r) s = .next (sendBatch r.val (clearOut s)) := by
    show execAcfTalkerSend r s = _
    unfold execAcfTalkerSend
    dsimp only
    rw [if_neg]
    rintro (h | h | h)
    · exact hown h
    · exact hempty h
    · omega
  refine ⟨_, hexec, ?_⟩
  unfold sendBatch
  dsimp only
  rw [if_neg (show ¬ (getRule (clearOut s) r.val).batch.isEmpty = true from hempty)]
  exact ⟨rfl, fun j hj => getRule_modRule_ne (freeNum (clearOut s)).2 (fun x => { x with batch := [], seq := (x.seq + 1) % 256 }) hj,
    getRule_modRule_same (freeNum (clearOut s)).2 r.val fun x => { x with batch := [], seq := (x.seq + 1) % 256 }, _, rfl, rfl, rfl, rfl⟩

theorem gateListActivate_effect {p : Fin 12} {g : List Byte} (hnext : (getPort s p.val).gateNext = some g) :
    Runs (.gateListActivate p) s fun t => t = { s with gw := { s.gw with port := t.gw.port } } ∧ (∀ j, j ≠ p.val → getPort t j = getPort s j) ∧
      getPort t p.val = { getPort s p.val with gate := g, gateNext := none } := by
  have hexec : exec (.gateListActivate p) s = .next (modPort s p.val fun p => { p with gate := g, gateNext := none }) := by
    show execGateListActivate p s = _
    unfold execGateListActivate
    rw [hnext]
  exact ⟨_, hexec, rfl, fun j hj => getPort_modPort_ne _ _ hj, getPort_modPort_same _ _ _⟩

theorem tsnLinkChange_effect {p : Fin 12} {up : Bool} {speed role : BitVec 8} (hext : 4 ≤ p.val)
    (hnew : (getPort s p.val).up ≠ up ∨ (getPort s p.val).role ≠ role.toNat % 4) :
    Runs (.tsnLinkChange p up speed role) s fun t => GwOnly s t ∧ (∀ j, j ≠ p.val → getPort t j = getPort s j) ∧
      getPort t p.val = { getPort s p.val with up := up, speed := speed.toNat, role := role.toNat % 4 } ∧
      Logs 0x600B srcAfzan (leBytes 1 p.val ++ leBytes 1 (b2n up) ++ leBytes 1 speed.toNat ++ leBytes 1 (role.toNat % 4)) s t := by
  have hexec : exec (.tsnLinkChange p up speed role) s =
      .next (tsnEvent p.val (modPort s p.val fun x => { x with up := up, speed := speed.toNat, role := role.toNat % 4 })) := by
    show execTsnLinkChange p up speed role s = _
    unfold execTsnLinkChange
    dsimp only
    rw [if_neg]
    rintro (h | ⟨hup, hrole⟩)
    · omega
    · exact hnew.elim (· hup) (· hrole)
  have hself := getPort_modPort_same s p.val fun x => { x with up := up, speed := speed.toNat, role := role.toNat % 4 }
  refine ⟨_, hexec, gwOnly_event (by decide) _ _ _ _, fun j hj => getPort_modPort_ne s _ hj, hself, ?_⟩
  unfold tsnEvent
  dsimp only
  rw [hself]
  exact logs_event (u := modPort s p.val fun x => { x with up := up, speed := speed.toNat, role := role.toNat % 4 }) (party := noParty)
    (by simp) rfl rfl rfl rfl

end

/-- Settles O54: the switch forwards and learns, and the routing engine's drops, batches, gate lists and link changes. -/
theorem switchAndRoutes : Obligations.SwitchAndRoutes :=
  ⟨fun _ _ _ hup hrun hpark hon hlink hmin hmax hsect => ethFrameIngress_effect hup hrun hpark hon hlink hmin hmax hsect,
    fun _ _ _ _ h => forwardMask_spec h, fun _ _ _ _ hwait hlate => routeDestTimeout_drops hwait hlate,
    fun _ _ hown hbatch hlate => acfTalkerSend_effect hown hbatch hlate, fun _ _ _ hnext => gateListActivate_effect hnext,
    fun _ _ _ _ _ hext hnew => tsnLinkChange_effect hext hnew⟩

end Sys2Proof.Machine

/-! Traffic of the bridge (R451, R455, R458 to R464). -/

namespace Sys2Proof.Machine
open Sys2Proof.Claims

/-! ### The error log -/

/-- The log and the counts after one entry. -/
def logged (e : BrgEntry) (c : Crossing) : Crossing :=
  { c with log := tput c.log c.next e, next := (c.next + 1) % 1024, counts := tmod c.counts e.owner (fun x => x.add 1), countAll := c.countAll.add 1 }

theorem bridgeLogs_of_cross {e : BrgEntry} {s t : State} (hlog : t.cross.log = (logged e s.cross).log) (hnext : t.cross.next = (logged e s.cross).next)
    (hall : t.cross.countAll = (logged e s.cross).countAll) (hcounts : t.cross.counts = (logged e s.cross).counts) : BridgeLogs e s t :=
  ⟨by rw [hlog]; exact tget_tput_same s.cross.log s.cross.next e, hnext, hall, by rw [hcounts]; exact tget_tmod_same s.cross.counts e.owner fun x => x.add 1⟩

theorem brgLog_cross (e : BrgEntry) (errQ : Nat) (s : State) : (brgLog e errQ s).cross = logged e s.cross := by
  unfold brgLog
  dsimp only
  split
  · rfl
  · rw [(posted_pushEntry ..).cross]
    rfl

/-- An entry that no queue receives changes nothing but the bridge. -/
theorem brgLog_quiet {e : BrgEntry} {errQ : Nat} (h : e.kind ≠ 0 ∨ errQ = 0) (s : State) :
    brgLog e errQ s = { s with cross := logged e s.cross } := by
  unfold brgLog
  dsimp only
  rw [if_pos (by tauto)]
  rfl

theorem brgLog_resp (e : BrgEntry) (errQ : Nat) (s : State) : (brgLog e errQ s).resp = s.resp := by
  unfold brgLog
  dsimp only
  split
  · rfl
  · rw [(posted_pushEntry ..).resp]
    rfl

/-- An event of the other ranges than 0x30xx changes the Caddy alone. -/
theorem event_only_caddy {code : Nat} (h : code / 0x100 ≠ 0x30) (src party : Nat) (args : List Byte) (s : State) :
    event src code party args s = { s with caddy := (event src code party args s).caddy } := by
  unfold event
  rw [if_neg h]

/-- The Caddy's next slot holds the code of an event. -/
theorem event_code (src code party : Nat) (args : List Byte) (s : State) :
    (tget (event src code party args s).caddy.ring s.caddy.slot).code = code := by
  have hcut : event src code party args s = event src code party (args.take 12) s := by
    unfold event
    rw [List.take_take, Nat.min_self]
  rw [hcut]
  obtain ⟨hcode, -⟩ := logs_event (s := s) (u := s) (src := src) (code := code) (party := party) (List.length_take_le 12 args) rfl rfl rfl rfl
  exact hcode

theorem posted_refuseEvent (src : Nat) (w : Who) (write : Bool) (a : Nat) (v : Verdict) (s : State) : Posted s (refuseEvent src w write a v s) :=
  posted_refusal ..

/-- A refusal event writes no memory and moves no queue. -/
theorem refuseEvent_frame (src : Nat) (w : Who) (write : Bool) (a : Nat) (v : Verdict) (s : State) :
    (refuseEvent src w write a v s).mem = s.mem ∧ (refuseEvent src w write a v s).queue = s.queue := by
  unfold refuseEvent refusal
  split <;> exact ⟨rfl, rfl⟩

/-! ### Requests that do not land -/

/-- The window that an answer speaks of, and its owner. -/
def inWin (s : State) (win : Option Nat) : Window := match win with | some id => getWin s id | none => default
def inOwner (s : State) (win : Option Nat) : Nat := match win with | some id => (getWin s id).owner | none => noOwner

/-- The first status that a requester's writes met is kept (R461). -/
def noteBad (r : PcieReq) (win : Option Nat) (st : Nat) (s : State) : State :=
  match win with
  | some id => if tget s.cross.bad (badKey id r.requester.toNat) = 0 then
      modCross s fun c => { c with bad := tput c.bad (badKey id r.requester.toNat) st } else s
  | none => s

theorem noteBad_frame (r : PcieReq) (win : Option Nat) (st : Nat) (s : State) :
    noteBad r win st s = { s with cross := { s.cross with bad := (noteBad r win st s).cross.bad } } := by
  unfold noteBad
  split
  · split <;> rfl
  · rfl

theorem inFail_eq (r : PcieReq) (win : Option Nat) (st loc : Nat) (s : State) : inFail r win st loc s =
    if (r.write && r.posted) = true then
      if r.port.val ≠ 0 then noteBad r win st (respond st [] s)
      else event 0x8000 0x5001 (if inOwner s win = noOwner then noParty else inOwner s win)
        (leBytes 1 (win.getD 0xFF) ++ leBytes 1 st ++ leBytes 2 s.cross.next ++ leBytes 6 loc)
        (brgLog (inEntry r (win.getD 0xFFFF) (inOwner s win) st loc s) (inWin s win).errQ (noteBad r win st (respond st [] s)))
    else brgLog (inEntry r (win.getD 0xFFFF) (inOwner s win) st loc s) 0 (respond st [] s) := by
  cases win <;> rfl

/-- What a request that does not land leaves: the answer, and the entry where one is due. -/
theorem inFail_effect (r : PcieReq) (win : Option Nat) (st loc : Nat) (s : State) :
    Answers (inFail r win st loc s) st [] ∧
    ((inWin s win).errQ = 0 → (inFail r win st loc s).mem = s.mem ∧ (inFail r win st loc s).queue = s.queue) ∧
    (r.port = 0 ∨ r.write = false ∨ r.posted = false →
      BridgeLogs (inEntry r (win.getD 0xFFFF) (inOwner s win) st loc s) s (inFail r win st loc s)) := by
  have hnote := noteBad_frame r win st (respond st [] s)
  rw [inFail_eq]
  generalize noteBad r win st (respond st [] s) = v at hnote ⊢
  split
  · next hposted =>
    split
    · next hport =>
      refine ⟨?_, fun _ => ?_, fun h => ?_⟩
      · rw [hnote]; exact ⟨rfl, rfl⟩
      · rw [hnote]; exact ⟨rfl, rfl⟩
      · simp only [Bool.and_eq_true] at hposted
        simp only [hposted, Bool.true_eq_false, or_false] at h
        exact absurd (congrArg Fin.val h) hport
    · refine ⟨?_, fun hq => ?_, fun _ => ?_⟩
      · have hresp : ∀ src code p args u, (event src code p args u).resp = u.resp := fun _ _ _ _ _ => rfl
        unfold Answers
        rw [hresp, brgLog_resp, hnote]
        exact ⟨rfl, rfl⟩
      · rw [brgLog_quiet (.inr hq), hnote]
        exact ⟨rfl, rfl⟩
      · have hcross : ∀ src code p args u, (event src code p args u).cross = u.cross := fun _ _ _ _ _ => rfl
        refine bridgeLogs_of_cross ?_ ?_ ?_ ?_ <;> rw [hcross, brgLog_cross, hnote] <;> rfl
  · rw [brgLog_quiet (.inr rfl)]
    exact ⟨⟨rfl, rfl⟩, fun _ => ⟨rfl, rfl⟩, fun _ => bridgeLogs_of_cross rfl rfl rfl rfl⟩

/-! ### Requests through a window -/

section
variable {r : PcieReq} {s : State} {w : Nat}

theorem exec_inbound (h : Arrives r s) (hbar : r.bar0 = true → r.port = 0 ∧ s.boot.endpoint = true) : exec (.pcieInboundRequest r) s =
    .next (if r.bar0 = true then barRequest r s
      else match inWindow s r.port.val r.off.toNat with
        | some id => inThrough r id s
        | none => inFail r none stDENIED ((freeNum s).1 % 2 ^ 48) (refuseEvent (0x8000 + r.port.val)
            { code := 0x8000 + r.port.val, party := none, sec := false } r.write ((freeNum s).1 % 2 ^ 48) .unbacked (freeNum s).2)) := by
  obtain ⟨hon, hdata, hlen, hrun, hpark, hup⟩ := h
  show execPcieInboundRequest r s = _
  unfold execPcieInboundRequest
  dsimp only
  have hpass : ¬ ((!portOn s r.port.val) = true ∨ (r.write = true ∧ r.data.length ≠ r.len) ∨ 4096 < r.len ∨
      (r.bar0 = true ∧ (!(decide (r.port.val = 0) && s.boot.endpoint)) = true)) := by
    rintro (h | ⟨h, hne⟩ | h | ⟨h, hno⟩)
    · rw [hon] at h; cases h
    · exact hne (hdata h)
    · omega
    · obtain ⟨hport, hend⟩ := hbar h
      rw [hport, hend] at hno
      exact absurd hno (by decide)
  rw [if_neg hpass, wakeFrom_of_run true 7 r.port.val hpark hrun, if_neg (by rw [hup]; decide)] <;> rfl

theorem exec_through (h : Arrives r s) (hbar : r.bar0 = false) (hwin : inWindow s r.port.val r.off.toNat = some w) :
    exec (.pcieInboundRequest r) s = .next (inThrough r w s) := by
  rw [exec_inbound h (fun hb => by rw [hbar] at hb; cases hb), hbar, if_neg Bool.false_ne_true, hwin]

theorem inbound_unmapped (h : Arrives r s) (hbar : r.bar0 = false) (hwin : inWindow s r.port.val r.off.toNat = none) :
    Runs (.pcieInboundRequest r) s fun t => Answers t stDENIED [] ∧ t.mem = s.mem ∧ t.queue = s.queue ∧
      (r.port = 0 ∨ r.write = false ∨ r.posted = false → ∃ loc, BridgeLogs (inEntry r 0xFFFF 0xFF stDENIED loc s) s t) := by
  have hexec := exec_inbound h (fun hb => by rw [hbar] at hb; cases hb)
  rw [hbar, if_neg Bool.false_ne_true, hwin] at hexec
  obtain ⟨hans, hquiet, hlog⟩ := inFail_effect r none stDENIED ((freeNum s).1 % 2 ^ 48) (refuseEvent (0x8000 + r.port.val)
    { code := 0x8000 + r.port.val, party := none, sec := false } r.write ((freeNum s).1 % 2 ^ 48) .unbacked (freeNum s).2)
  obtain ⟨hmem, hqueue⟩ := hquiet rfl
  have hpost := posted_refuseEvent (0x8000 + r.port.val) { code := 0x8000 + r.port.val, party := none, sec := false } r.write
    ((freeNum s).1 % 2 ^ 48) .unbacked (freeNum s).2
  obtain ⟨hmem', hqueue'⟩ := refuseEvent_frame (0x8000 + r.port.val) { code := 0x8000 + r.port.val, party := none, sec := false } r.write
    ((freeNum s).1 % 2 ^ 48) .unbacked (freeNum s).2
  refine ⟨_, hexec, hans, hmem.trans hmem', hqueue.trans hqueue', fun hdue => ⟨(freeNum s).1 % 2 ^ 48, ?_⟩⟩
  have hentry := hlog hdue
  unfold BridgeLogs inEntry at hentry
  rw [hpost.cross, hpost.ktime] at hentry
  exact hentry

theorem inThrough_status (hwr : r.write = false) (hlen : r.len = 0) (hopen : r.port ≠ 0 ∨ (getWin s w).closing = false) :
    inThrough r w s = respond stOK (leBytes 4 (tget s.cross.bad (badKey w r.requester.toNat)))
      (modCross s fun c => { c with bad := tput c.bad (badKey w r.requester.toNat) 0 }) := by
  have hcond : (!r.write && decide (r.len = 0) && !(decide (r.port.val = 0) && (getWin s w).closing)) = true := by
    rw [hwr, hlen]
    rcases hopen with hport | hclosing
    · have : ¬ r.port.val = 0 := fun h0 => hport (Fin.ext h0)
      simp [this]
    · simp [hclosing]
  unfold inThrough
  dsimp only
  rw [hcond, if_pos rfl]

theorem inThrough_closing (hlen : r.len ≠ 0) (hclosing : (getWin s w).closing = true) :
    inThrough r w s = inFail r (some w) stWINDOW_CLOSED ((getWin s w).loc + (r.off.toNat - (getWin s w).remote)) s := by
  unfold inThrough
  dsimp only
  rw [decide_eq_false hlen, Bool.and_false, Bool.false_and, if_neg Bool.false_ne_true, hclosing, if_pos rfl]

section
variable (hlen : r.len ≠ 0) (hopen : (getWin s w).closing = false) (hfit : r.off.toNat + r.len ≤ (getWin s w).remote + (getWin s w).size)
include hlen hopen hfit

theorem inThrough_refused (hbad : (r.port ≠ 0 ∧ bitOf (getWin s w).device r.device.val = false) ∨ (r.write = true ∧ bitOf (getWin s w).flags 3 = true)) :
    inThrough r w s = inFail r (some w) stDENIED ((getWin s w).loc + (r.off.toNat - (getWin s w).remote))
      (inRefuse r w ((getWin s w).loc + (r.off.toNat - (getWin s w).remote)) .refused s) := by
  have hcond : ((!decide (r.port.val = 0) && !bitOf (getWin s w).device r.device.val) || (r.write && bitOf (getWin s w).flags 3)) = true := by
    rcases hbad with ⟨hport, hbit⟩ | ⟨hwr, hbit⟩
    · have : ¬ r.port.val = 0 := fun h0 => hport (Fin.ext h0)
      simp [this, hbit]
    · simp [hwr, hbit]
  unfold inThrough
  dsimp only
  rw [decide_eq_false hlen, Bool.and_false, Bool.false_and, if_neg Bool.false_ne_true, hopen, if_neg Bool.false_ne_true, if_neg (by omega), hcond,
    if_pos rfl]

section
variable (hdev : r.port = 0 ∨ bitOf (getWin s w).device r.device.val = true) (hro : r.write = true → bitOf (getWin s w).flags 3 = false)
  (hloc : ((getWin s w).loc + (r.off.toNat - (getWin s w).remote)) % laneUnit (getWin s w) = 0) (hunit : r.len % laneUnit (getWin s w) = 0)
include hdev hro hloc hunit

theorem inThrough_open : inThrough r w s =
    let loc := (getWin s w).loc + (r.off.toNat - (getWin s w).remote)
    if (r.write && bitOf (getWin s w).flags 2) = true then respond stOK [] (raiseIrq (getParty s (getWin s w).owner).irq1 s)
    else if (!winTarget s (getWin s w).owner loc r.len) = true then
      inFail r (some w) stDENIED (firstOut s (getWin s w).owner loc r.len) (inRefuse r w (firstOut s (getWin s w).owner loc r.len) .refused s)
    else match (access (.crossing r.port (BitVec.ofNat 8 w)) r.write loc r.len (throughLanes (getWin s w) r.data) [] s).2 with
      | .waits => s
      | .sent _ => (access (.crossing r.port (BitVec.ofNat 8 w)) r.write loc r.len (throughLanes (getWin s w) r.data) [] s).1
      | .done st bs => if st = stOK then respond stOK (throughLanes (getWin s w) bs) (afterWrite r.write loc
            (access (.crossing r.port (BitVec.ofNat 8 w)) r.write loc r.len (throughLanes (getWin s w) r.data) [] s).1)
          else inFail r (some w) st loc (access (.crossing r.port (BitVec.ofNat 8 w)) r.write loc r.len (throughLanes (getWin s w) r.data) [] s).1 := by
  have hcond : ((!decide (r.port.val = 0) && !bitOf (getWin s w).device r.device.val) || (r.write && bitOf (getWin s w).flags 3)) = false := by
    have hport : (!decide (r.port.val = 0) && !bitOf (getWin s w).device r.device.val) = false := by
      rcases hdev with h | h <;> simp [h]
    have hwrite : (r.write && bitOf (getWin s w).flags 3) = false := by
      cases hw : r.write
      · rfl
      · simp [hro hw]
    rw [hport, hwrite]
    rfl
  unfold inThrough
  dsimp only
  rw [decide_eq_false hlen, Bool.and_false, Bool.false_and, if_neg Bool.false_ne_true, hopen, if_neg Bool.false_ne_true, if_neg (by omega), hcond,
    if_neg Bool.false_ne_true, if_neg (show ¬ (_ ∨ _) from fun h => h.elim (· hloc) (· hunit))] <;> rfl

end

end

/-- A request that its window refuses: the answer, the memory and the log (R463). -/
theorem refused_through {st loc : Nat} {v : State} (hexec : exec (.pcieInboundRequest r) s = .next (inFail r (some w) st loc v))
    (hwin : v.cross = s.cross) (hk : v.ktime = s.ktime) (hmem : v.mem = s.mem) :
    Runs (.pcieInboundRequest r) s fun t => Answers t st [] ∧ ((getWin s w).errQ = 0 → t.mem = s.mem) ∧
      (r.port = 0 ∨ r.write = false ∨ r.posted = false → BridgeLogs (inEntry r w (getWin s w).owner st loc s) s t) := by
  obtain ⟨hans, hquiet, hlog⟩ := inFail_effect r (some w) st loc v
  have hw : getWin v w = getWin s w := congrArg (fun c : Crossing => tget c.win w) hwin
  refine ⟨_, hexec, hans, fun hq => ((hquiet ((congrArg Window.errQ hw).trans hq)).1).trans hmem, fun hdue => ?_⟩
  have hentry := hlog hdue
  have hown : inOwner v (some w) = (getWin s w).owner := congrArg Window.owner hw
  rw [hown] at hentry
  unfold BridgeLogs inEntry at hentry
  rw [hwin, hk] at hentry
  exact hentry

theorem inbound_through (h : Arrives r s) (hbar : r.bar0 = false) (hwin : inWindow s r.port.val r.off.toNat = some w) :
    let x := getWin s w
    let loc := x.loc + (r.off.toNat - x.remote)
    (r.write = false → r.len = 0 → (r.port ≠ 0 ∨ x.closing = false) → Runs (.pcieInboundRequest r) s fun t =>
      Answers t stOK (leBytes 4 (tget s.cross.bad (badKey w r.requester.toNat))) ∧ tget t.cross.bad (badKey w r.requester.toNat) = 0 ∧
      t = { s with cross := { s.cross with bad := t.cross.bad }, resp := t.resp }) ∧
    (x.closing = true → r.len ≠ 0 → Runs (.pcieInboundRequest r) s fun t => Answers t stWINDOW_CLOSED [] ∧ (x.errQ = 0 → t.mem = s.mem) ∧
      (r.port = 0 ∨ r.write = false ∨ r.posted = false → BridgeLogs (inEntry r w x.owner stWINDOW_CLOSED loc s) s t)) ∧
    (x.closing = false → r.len ≠ 0 → r.off.toNat + r.len ≤ x.remote + x.size →
      ((r.port ≠ 0 ∧ bitOf x.device r.device.val = false) ∨ (r.write = true ∧ bitOf x.flags 3 = true)) →
      Runs (.pcieInboundRequest r) s fun t => Answers t stDENIED [] ∧ (x.errQ = 0 → t.mem = s.mem) ∧
        (r.port = 0 ∨ r.write = false ∨ r.posted = false → BridgeLogs (inEntry r w x.owner stDENIED loc s) s t)) ∧
    (x.closing = false → r.len ≠ 0 → r.off.toNat + r.len ≤ x.remote + x.size → (r.port = 0 ∨ bitOf x.device r.device.val = true) →
      (r.write = true → bitOf x.flags 3 = false) → loc % laneUnit x = 0 → r.len % laneUnit x = 0 →
      (r.write = true → bitOf x.flags 2 = true → Runs (.pcieInboundRequest r) s fun t =>
        t = { raiseIrq (getParty s x.owner).irq1 s with resp := t.resp } ∧ Answers t stOK []) ∧
      ((r.write = true → bitOf x.flags 2 = false) → winTarget s x.owner loc r.len = true → ∀ v bs,
        access (.crossing r.port (BitVec.ofNat 8 w)) r.write loc r.len (throughLanes x r.data) [] s = (v, .done stOK bs) →
        RunsThen (.pcieInboundRequest r) s (fun u => respond stOK (throughLanes x bs) (afterWrite r.write loc u)) fun u => u = v)) := by
  dsimp only
  have hexec := exec_through h hbar hwin
  refine ⟨fun hwr hlen hopen => ?_, fun hclosing hlen => ?_, fun hopen hlen hfit hbad => ?_, fun hopen hlen hfit hdev hro hloc hunit => ⟨?_, ?_⟩⟩
  · rw [inThrough_status hwr hlen hopen] at hexec
    exact ⟨_, hexec, ⟨rfl, rfl⟩, tget_tput_same s.cross.bad _ 0, rfl⟩
  · rw [inThrough_closing hlen hclosing] at hexec
    exact refused_through hexec rfl rfl rfl
  · rw [inThrough_refused hlen hopen hfit hbad] at hexec
    have hpost := posted_refuseEvent (0x8000 + r.port.val) (whoOf s (.crossing r.port (BitVec.ofNat 8 w))) r.write
      ((getWin s w).loc + (r.off.toNat - (getWin s w).remote)) .refused s
    exact refused_through hexec hpost.cross hpost.ktime (refuseEvent_frame ..).1
  · intro hwr hsig
    rw [inThrough_open hlen hopen hfit hdev hro hloc hunit, hwr, hsig] at hexec
    exact ⟨_, hexec, rfl, rfl, rfl⟩
  · intro hsig htarget v bs hacc
    have hno : (r.write && bitOf (getWin s w).flags 2) = false := by
      cases hw : r.write
      · rfl
      · rw [hsig hw]
        rfl
    rw [inThrough_open hlen hopen hfit hdev hro hloc hunit] at hexec
    dsimp only at hexec
    rw [hno, if_neg Bool.false_ne_true, htarget, if_neg (by decide), hacc] at hexec
    exact ⟨v, hexec, rfl⟩

/-! ### BAR0 -/

theorem barRequest_msix (hlen : r.len ≠ 0) (hlo : 0x14000 ≤ r.off.toNat) (hhi : r.off.toNat + r.len ≤ 0x15000) : barRequest r s =
    if r.write = true then respond stOK [] (modCross s fun c => { c with msixTab := twrite c.msixTab (r.off.toNat - 0x14000) r.data })
    else respond stOK (tread s.cross.msixTab (r.off.toNat - 0x14000) r.len) s := by
  have hmax : max r.len 1 = r.len := by omega
  unfold barRequest
  extract_lets o n e refuse door
  rw [if_neg (show ¬ (o < 0x10000 ∧ _) from fun h => by have := h.1; omega),
    if_neg (show ¬ (0x11000 ≤ o ∧ e ≤ 0x12000 ∧ _) from fun h => by have := h.2.1; omega),
    if_neg (show ¬ (0x12000 ≤ o ∧ e ≤ 0x14000 ∧ _) from fun h => by have := h.2.1; omega),
    if_pos (show 0x14000 ≤ o ∧ e ≤ 0x15000 from ⟨hlo, by omega⟩)]

theorem barRequest_door (hlen : r.len ≠ 0) (hpage : r.off.toNat + r.len ≤ (r.off.toNat / 0x1000 + 1) * 0x1000) (hlow : r.off.toNat < 0x10000)
    (hhost : hostParty s (r.off.toNat / 0x1000) = some w) {v : State} {bs : List Byte}
    (hacc : access (.crossing r.port (BitVec.ofNat 8 w)) r.write (0x2000000000 + r.off.toNat) r.len r.data [] s = (v, .done stOK bs)) :
    barRequest r s = respond stOK bs v := by
  have hmax : max r.len 1 = r.len := by omega
  unfold barRequest
  extract_lets o n e refuse door
  rw [if_pos (show o < 0x10000 ∧ e ≤ (o / 0x1000 + 1) * 0x1000 from ⟨hlow, by simp only [e, n, o, hmax]; exact hpage⟩),
    show hostParty s (o / 0x1000) = some w from hhost]
  dsimp only [door]
  rw [hacc]
  rfl

theorem inbound_bar (h : Arrives r s) (hbar : r.bar0 = true) (hport : r.port = 0) (hend : s.boot.endpoint = true) (hlen : r.len ≠ 0) :
    (0x14000 ≤ r.off.toNat → r.off.toNat + r.len ≤ 0x15000 → r.write = true → Runs (.pcieInboundRequest r) s fun t => Answers t stOK [] ∧
      (∀ i < r.len, tget t.cross.msixTab (r.off.toNat - 0x14000 + i) = r.data.getD i 0#8) ∧
      t = { s with cross := { s.cross with msixTab := t.cross.msixTab }, resp := t.resp }) ∧
    (0x14000 ≤ r.off.toNat → r.off.toNat + r.len ≤ 0x15000 → r.write = false → Runs (.pcieInboundRequest r) s fun t =>
      Answers t stOK (tread s.cross.msixTab (r.off.toNat - 0x14000) r.len) ∧ t = { s with resp := t.resp }) ∧
    (∀ w v bs, r.off.toNat + r.len ≤ (r.off.toNat / 0x1000 + 1) * 0x1000 → r.off.toNat < 0x10000 →
      hostParty s (r.off.toNat / 0x1000) = some w →
      access (.crossing r.port (BitVec.ofNat 8 w)) r.write (0x2000000000 + r.off.toNat) r.len r.data [] s = (v, .done stOK bs) →
      Runs (.pcieInboundRequest r) s fun t => Answers t stOK bs ∧ t = { v with resp := t.resp }) := by
  have hexec := exec_inbound h (fun _ => ⟨hport, hend⟩)
  obtain ⟨-, hdata, -⟩ := h
  rw [hbar, if_pos rfl] at hexec
  refine ⟨fun hlo hhi hwr => ?_, fun hlo hhi hwr => ?_, fun w v bs hpage hlow hhost hacc => ?_⟩
  · rw [barRequest_msix hlen hlo hhi, hwr, if_pos rfl] at hexec
    have hi' : ∀ i < r.len, i < r.data.length := fun i hi => by rw [hdata hwr]; exact hi
    exact ⟨_, hexec, ⟨rfl, rfl⟩, fun i hi => (tget_twrite_in r.data s.cross.msixTab _ i (hi' i hi)).trans
      (List.getD_eq_getElem _ _ (hi' i hi)).symm, rfl⟩
  · rw [barRequest_msix hlen hlo hhi, hwr, if_neg Bool.false_ne_true] at hexec
    exact ⟨_, hexec, ⟨rfl, rfl⟩, rfl⟩
  · rw [barRequest_door hlen hpage hlow hhost hacc] at hexec
    exact ⟨_, hexec, ⟨rfl, rfl⟩, rfl⟩

end

theorem inboundRequests : InboundRequests :=
  ⟨fun _ _ h hbar hwin => inbound_unmapped h hbar hwin, fun _ _ _ h hbar hwin => inbound_through h hbar hwin,
    fun _ _ h hbar hport hend hlen => inbound_bar h hbar hport hend hlen⟩

/-! ### Outbound transactions (R458 to R460) -/

/-- A group of writes becomes its confirm read. -/
def asConfirm (at_ : Nat) (x : OutTx) : OutTx := { x with phase := .confirm, sentAt := at_ }

/-- The transactions named by their tags become confirm reads. -/
theorem confirms_effect (xs : List OutTx) (s : State) :
    (xs.foldl (fun s x => sendConfirm x.tag s) s).cross.out =
      s.cross.out.map (fun y => if y.phase = .gather ∧ y.tag ∈ xs.map fun x => x.tag then asConfirm s.ktime y else y) ∧
    xs.foldl (fun s x => sendConfirm x.tag s) s = { s with cross := { s.cross with
      out := (xs.foldl (fun s x => sendConfirm x.tag s) s).cross.out, sent := (xs.foldl (fun s x => sendConfirm x.tag s) s).cross.sent } } := by
  induction xs generalizing s with
  | nil => exact ⟨by simp, rfl⟩
  | cons x xs ih =>
    obtain ⟨hout, hframe⟩ := ih (sendConfirm x.tag s)
    rw [List.foldl_cons]
    refine ⟨?_, ?_⟩
    · rw [hout, show (sendConfirm x.tag s).cross.out = s.cross.out.map fun y => if y.tag = x.tag ∧ y.phase = .gather then asConfirm s.ktime y else y
        from rfl, List.map_map, show (sendConfirm x.tag s).ktime = s.ktime from rfl]
      refine List.map_congr_left fun y _ => ?_
      by_cases htag : y.tag = x.tag
      · by_cases hphase : y.phase = .gather <;> simp [htag, hphase, asConfirm]
      · simp [htag]
    · generalize xs.foldl (fun s x => sendConfirm x.tag s) (sendConfirm x.tag s) = t at hframe ⊢
      exact (congrArg (fun v : State => v) hframe).trans rfl

theorem writeGroupEnd_effect {win : BitVec 8} {ini : BitVec 16} {s : State} (hnodup : (s.cross.out.map fun x => x.tag).Nodup) :
    Runs (.writeGroupEnd win ini) s fun t => t = { s with cross := { s.cross with out := t.cross.out, sent := t.cross.sent } } ∧
      t.cross.out = s.cross.out.map fun x => if x.ini = ini.toNat ∧ x.phase = .gather ∧ x.win = win.toNat then
        { x with phase := .confirm, sentAt := s.ktime } else x := by
  obtain ⟨hout, hframe⟩ := confirms_effect (s.cross.out.filter fun x => decide (x.ini = ini.toNat ∧ x.phase = .gather) && decide (x.win = win.toNat)) s
  refine ⟨_, rfl, hframe, hout.trans (List.map_congr_left fun y hy => ?_)⟩
  have hsel : (y.phase = .gather ∧ y.tag ∈ (s.cross.out.filter fun x => decide (x.ini = ini.toNat ∧ x.phase = .gather) &&
      decide (x.win = win.toNat)).map fun x => x.tag) ↔ (y.ini = ini.toNat ∧ y.phase = .gather ∧ y.win = win.toNat) := by
    constructor
    · rintro ⟨-, hmem⟩
      obtain ⟨x, hx, htag⟩ := List.mem_map.1 hmem
      obtain ⟨hin, hcond⟩ := List.mem_filter.1 hx
      obtain rfl : x = y := List.inj_on_of_nodup_map hnodup hin hy htag
      simp only [Bool.and_eq_true, decide_eq_true_eq] at hcond
      tauto
    · rintro ⟨hini, hphase, hwin⟩
      exact ⟨hphase, List.mem_map.2 ⟨y, List.mem_filter.2 ⟨hy, by simp [hini, hphase, hwin]⟩, rfl⟩⟩
  rw [if_congr hsel rfl rfl]
  rfl

/-- The state in which the end of a transaction reaches what waits for it. -/
def txLeft (x : OutTx) (st : Nat) (s : State) : State :=
  if x.phase = .read ∨ st = stOK then dropTx x.tag s else brgLog (groupEntry x st s) 0 (dropTx x.tag s)

theorem endTx_eq (x : OutTx) (st : Nat) (bs : List Byte) (s : State) : endTx x st bs s = afterTx x st bs (txLeft x st s) := by
  show (if st = stOK then x.waits.eraseDups.foldl (fun s k => wakeWaiter x st bs k s) (txLeft x st s)
    else if x.ini < 4096 then x.waits.eraseDups.foldl (fun s k => wakeWaiter x st bs k s) (txLeft x st s)
    else unitStops x.ini st (x.waits.eraseDups.foldl (fun s k => wakeWaiter x st bs k s) (txLeft x st s))) = _
  unfold afterTx
  by_cases hst : st = stOK
  · rw [if_pos hst]
    exact (if_pos (.inl hst)).symm
  · rw [if_neg hst]
    exact if_congr (by simp [hst]) rfl rfl

theorem endsTx_of_exec {c : Instr} {f : State → State} {s : State} {x : OutTx} {st : Nat} {bs : List Byte}
    (hexec : exec c s = .next (f (endTx x st bs s))) : EndsTx c f s x st bs := by
  rw [endTx_eq] at hexec
  refine ⟨txLeft x st s, hexec, ?_⟩
  unfold txLeft
  by_cases hquiet : x.phase = .read ∨ st = stOK
  · rw [if_pos hquiet]
    exact ⟨rfl, rfl, fun _ => rfl, fun hread hst => absurd hquiet (by tauto)⟩
  · rw [if_neg hquiet, brgLog_quiet (.inr rfl)]
    exact ⟨rfl, rfl, fun h => absurd h hquiet, fun _ _ => bridgeLogs_of_cross rfl rfl rfl rfl⟩

section
variable {tag : Nat} {s : State} {x : OutTx} (hfind : s.cross.out.find? (fun y => decide (y.tag = tag)) = some x)
include hfind

theorem exec_completion (c : PcieCpl) : exec (.pcieCompletion tag c) s = .next (match x.phase with
      | .gather => s
      | .late => discard x s
      | .confirm => endTx x (match c with | .sc (b :: _) => (if 128 ≤ x.win then b.toNat else stOK) | c => cplStatus x.win c) [] s
      | .read =>
        match c with
        | .sc bs => if bs.length = x.len then endTx x stOK (throughLanes (getWin s x.win) bs) s else s
        | .peer b => if b.toNat = 0 then s else endTx x b.toNat [] s
        | c => endTx x (cplStatus x.win c) [] s) := by
  show execPcieCompletion tag c s = _
  unfold execPcieCompletion
  rw [hfind] <;> rfl

theorem completion_ends : (x.phase = .confirm → x.win < 128 → ∀ b bs, EndsTx (.pcieCompletion tag (.sc (b :: bs))) id s x stOK []) ∧
    (x.phase = .confirm → 128 ≤ x.win → ∀ b, EndsTx (.pcieCompletion tag (.peer b)) id s x b.toNat []) ∧
    (x.phase = .read → ∀ bs : List Byte, bs.length = x.len →
      EndsTx (.pcieCompletion tag (.sc bs)) id s x stOK (throughLanes (getWin s x.win) bs)) ∧
    (x.phase = .read → ∀ b : Byte, b ≠ 0 → EndsTx (.pcieCompletion tag (.peer b)) id s x b.toNat []) ∧
    (x.phase = .read ∨ x.phase = .confirm → EndsTx (.pcieCompletion tag .ur) id s x stDENIED [] ∧
      EndsTx (.pcieCompletion tag .ca) id s x stABORTED [] ∧ EndsTx (.pcieCompletion tag .ep) id s x stDATA_ERROR []) := by
  refine ⟨fun hp hw b bs => ?_, fun hp hw b => ?_, fun hp bs hlen => ?_, fun hp b hb => ?_, fun hp => ?_⟩
  · refine endsTx_of_exec ((exec_completion hfind _).trans ?_)
    rw [hp]
    dsimp only
    rw [if_neg (by omega)]
    rfl
  · refine endsTx_of_exec ((exec_completion hfind _).trans ?_)
    rw [hp]
    dsimp only [cplStatus]
    rw [if_pos hw]
    rfl
  · refine endsTx_of_exec ((exec_completion hfind _).trans ?_)
    rw [hp]
    dsimp only
    rw [if_pos hlen]
    rfl
  · refine endsTx_of_exec ((exec_completion hfind _).trans ?_)
    rw [hp]
    dsimp only
    rw [if_neg (show ¬ b.toNat = 0 from fun h0 => hb (BitVec.eq_of_toNat_eq h0))]
    rfl
  · refine ⟨endsTx_of_exec ((exec_completion hfind _).trans ?_), endsTx_of_exec ((exec_completion hfind _).trans ?_),
      endsTx_of_exec ((exec_completion hfind _).trans ?_)⟩ <;> rcases hp with hp | hp <;> rw [hp] <;> rfl

theorem completion_late (hphase : x.phase = .late) (c : PcieCpl) : Runs (.pcieCompletion tag c) s fun t =>
      t = { s with cross := t.cross, caddy := t.caddy } ∧
      t.cross.out = s.cross.out.filter (fun y => decide (y.tag ≠ tag)) ∧ t.cross.discardAll = s.cross.discardAll.add 1 ∧
      tget t.cross.discards (getWin s x.win).owner = (tget s.cross.discards (getWin s x.win).owner).add 1 ∧
      (tget t.cross.log s.cross.next).kind = 1 ∧ (tget t.cross.log s.cross.next).status = stTIMEOUT ∧
      (tget t.caddy.ring s.caddy.slot).code = 0x5002 := by
  have hexec := exec_completion hfind c
  have htag : x.tag = tag := by simpa using List.find?_some hfind
  rw [hphase] at hexec
  refine ⟨_, hexec, ?_⟩
  unfold discard
  dsimp only
  rw [brgLog_quiet (.inr rfl), htag]
  refine ⟨event_only_caddy (by decide) .., rfl, rfl, tget_tmod_same s.cross.discards _ fun y => y.add 1, ?_, ?_, ?_⟩
  · exact congrArg BrgEntry.kind (tget_tput_same s.cross.log s.cross.next _)
  · exact congrArg BrgEntry.status (tget_tput_same s.cross.log s.cross.next _)
  · exact event_code _ _ _ _ (modCross { dropTx tag s with cross := logged _ (dropTx tag s).cross } fun c =>
      { c with discards := tmod c.discards (getWin s x.win).owner (fun y => y.add 1), discardAll := c.discardAll.add 1 })

theorem readTimeout_ends (hphase : x.phase = .read ∨ x.phase = .confirm) (hlate : (getWin s x.win).timeout * 100 ≤ ktSince s x.sentAt) :
    EndsTx (.outboundReadTimeout tag)
        (fun v => { v with cross := { v.cross with out := v.cross.out ++ [{ x with phase := .late, waits := [] }] } }) s x stTIMEOUT [] := by
  refine endsTx_of_exec ?_
  show execOutboundReadTimeout tag s = _
  unfold execOutboundReadTimeout
  rw [hfind]
  dsimp only
  rw [if_neg]
  · rfl
  · rintro (h | h | h)
    · rw [h] at hphase
      exact absurd hphase (by decide)
    · rw [h] at hphase
      exact absurd hphase (by decide)
    · omega

end

theorem outboundTransactions : OutboundTransactions := by
  refine ⟨fun _ _ _ hnodup => writeGroupEnd_effect hnodup, fun _ _ x hfind => ?_⟩
  obtain ⟨h1, h2, h3, h4, h5⟩ := completion_ends hfind
  exact ⟨h1, h2, h3, h4, h5, fun hphase c => completion_late hfind hphase c, fun hphase hlate => readTimeout_ends hfind hphase hlate⟩

/-- Settles O55: requests that come in through the bridge, and transactions that go out. -/
theorem bridgeTraffic : Obligations.BridgeTraffic := ⟨inboundRequests, outboundTransactions⟩

end Sys2Proof.Machine

/-! Links of the bridge (R433, R450, R451, R465 to R467, R506). -/

namespace Sys2Proof.Machine
open Sys2Proof.Claims

/-! ### The wake of a power state leaves the bridge -/

theorem exitEvent_cross_pw (old : Nat) (s : State) : ((exitEvent old s).cross, (exitEvent old s).pw) = (s.cross, s.pw) := by
  unfold exitEvent
  dsimp only
  split
  · refine keeps_foldl (fun u : State => (u.cross, u.pw)) (fun u p => ?_) _ _
    split
    · have hposted : Posted u (fireAlarm p u) := (posted_modParty ..).trans (posted_pushNotice ..)
      rw [hposted.cross, hposted.pw]
    · rfl
  · rfl

theorem leaveTo_cross (st : PState) (s : State) : (leaveTo st s).cross = s.cross := by
  rw [(leaveTo_eq st s).1]

theorem wakeFrom_cross (cls inst : Nat) {s : State} (hst : s.pw.st = .run ∨ s.pw.st = .hush ∨ s.pw.st = .doze) (hpark : s.pw.parking = 0)
    (htherm : s.pw.thermalDoze = false) (hforced : s.pw.forced = false) :
    (wakeFrom true cls inst s).cross = s.cross ∧ (wakeFrom true cls inst s).pw.st = .run := by
  rcases hst with hst | hst
  · rw [wakeFrom_of_run true cls inst hpark hst]
    exact ⟨rfl, hst⟩
  · have hwakes : ((decide (s.pw.st = .hush) || (decide (s.pw.st = .doze) && true)) && !(s.pw.thermalDoze || s.pw.forced)) = true := by
      rcases hst with hst | hst <;> simp [hst, htherm, hforced]
    unfold wakeFrom
    dsimp only
    rw [if_neg (not_not.2 hpark), if_pos hwakes]
    generalize (if s.pw.st = .hush then 1 else 2) = old
    obtain ⟨hcross, hpw⟩ := Prod.ext_iff.1 (exitEvent_cross_pw old (leaveTo .run (event srcKeep 0x7007 noParty (leBytes 1 cls ++ leBytes 2 inst) s)))
    exact ⟨hcross.trans (leaveTo_cross ..), (congrArg Power.st hpw).trans (leaveTo_eq ..).2⟩

/-- A window's slot is free, with what was kept of its transactions. -/
def drained (w : Nat) (s : State) : State := modCross (winEvent w 2 s) fun c =>
  { c with win := tput c.win w {}, out := c.out.filter (fun x => decide (x.win ≠ w)), bad := tclear c.bad (w * 65536) 65536 }

section
variable {s : State}

/-! ### Windows that close, and links that go down -/

theorem windowDrainEnd_effect {w : BitVec 8} (hclosing : (getWin s w.toNat).closing = true)
    (hidle : ∀ x ∈ s.cross.out, x.win = w.toNat → x.phase = .late) :
    RunsThen (.windowDrainEnd w) s (finishAll (getWin s w.toNat).pend ok) fun u => (getWin u w.toNat).live = false ∧
      (∀ j, j ≠ w.toNat → getWin u j = getWin s j) ∧ u.cross.out = s.cross.out.filter (fun x => decide (x.win ≠ w.toNat)) ∧
      u = { s with cross := { s.cross with win := u.cross.win, out := u.cross.out, bad := u.cross.bad }, caddy := u.caddy } ∧
      Logs 0x5005 (0x8000 + w.toNat / 128) (leBytes 1 w.toNat ++ leBytes 1 (getWin s w.toNat).owner ++ leBytes 1 2) s u := by
  have hdone : ¬ ((!(getWin s w.toNat).closing) = true ∨
      s.cross.out.any (fun x => decide (x.win = w.toNat) && decide (x.phase ≠ .late)) = true) := by
    rintro (h | h)
    · rw [hclosing] at h
      cases h
    · obtain ⟨x, hx, hcond⟩ := List.any_eq_true.1 h
      simp only [Bool.and_eq_true, decide_eq_true_eq] at hcond
      exact hcond.2 (hidle x hx hcond.1)
  refine ⟨drained w.toNat s, ?_, congrArg Window.live (tget_tput_same s.cross.win w.toNat {}),
    fun j hj => tget_tput_ne s.cross.win _ hj, rfl, rfl, logs_event (u := s) (party := (getWin s w.toNat).owner) (by simp) rfl rfl rfl rfl⟩
  show execWindowDrainEnd w s = _
  unfold execWindowDrainEnd
  dsimp only
  rw [if_neg hdone]
  rfl

/-- A port that goes down with nothing on it. -/
theorem linkDown_free {p : Nat} (hfree : ∀ x ∈ s.cross.out, routeOf s x.win ≠ some p) :
    linkDown p s = crossEvent p 1 (modBoot (modCross s fun c => { c with port := tmod c.port p fun x => { x with up := false, held := false } })
      fun b => { b with linkUp := tput b.linkUp (8 + p) 0 }) := by
  have hnone : (s.cross.out.filter fun x => decide (routeOf s x.win = some p)) = [] :=
    List.filter_eq_nil_iff.2 fun x hx => by simpa using hfree x hx
  unfold linkDown
  rw [hnone]
  rfl

theorem pcieLinkDown_effect {p : Fin 3} (hup : (getPcie s p.val).up = true) (hfree : ∀ x ∈ s.cross.out, routeOf s x.win ≠ some p.val) :
    Runs (.pcieLinkDown p) s fun t => getPcie t p.val = { getPcie s p.val with up := false, held := false } ∧
      (∀ j, j ≠ p.val → getPcie t j = getPcie s j) ∧ tget t.boot.linkUp (8 + p.val) = 0 ∧
      t = { s with cross := { s.cross with port := t.cross.port }, boot := { s.boot with linkUp := t.boot.linkUp }, caddy := t.caddy } ∧
      Logs 0x5004 (0x8000 + p.val) (leBytes 1 p.val ++ leBytes 1 0 ++ leBytes 1 (getPcie s p.val).lanes ++ leBytes 1 (getPcie s p.val).rate ++
        leBytes 1 1) s t := by
  have hexec : exec (.pcieLinkDown p) s = .next (linkDown p.val s) := by
    show execPcieLinkDown p s = _
    unfold execPcieLinkDown
    rw [if_pos hup]
  rw [linkDown_free hfree] at hexec
  have hport := tget_tmod_same s.cross.port p.val fun x => { x with up := false, held := false }
  refine ⟨_, hexec, hport, fun j hj => tget_tmod_ne s.cross.port (fun x => { x with up := false, held := false }) hj,
    tget_tput_same s.boot.linkUp _ 0, rfl, ?_⟩
  unfold crossEvent
  dsimp only [modBoot, modCross]
  rw [hport]
  exact logs_event (u := modBoot (modCross s fun c => { c with port := tmod c.port p.val fun x => { x with up := false, held := false } })
      fun b => { b with linkUp := tput b.linkUp (8 + p.val) 0 }) (party := noParty) (by simp) rfl rfl rfl rfl

theorem pciePerst_effect (hsup : s.pw.supplied = true) (hheld : s.boot.held = false) (hend : s.boot.endpoint = true)
    (hst : s.pw.st = .run ∨ s.pw.st = .hush ∨ s.pw.st = .doze) (hpark : s.pw.parking = 0) (htherm : s.pw.thermalDoze = false)
    (hforced : s.pw.forced = false) (hfree : ∀ x ∈ s.cross.out, routeOf s x.win ≠ some 0) :
    Runs .pciePerst s fun t => t.pw.st = .run ∧ getPcie t 0 = { getPcie s 0 with
        up := false, held := if (getPcie s 0).up then false else (getPcie s 0).held, dState := 0, l2 := false } ∧
      (∀ j, j ≠ 0 → getPcie t j = getPcie s j) ∧ (s.pw.st = .run →
        t = { s with cross := { s.cross with port := t.cross.port }, boot := { s.boot with linkUp := t.boot.linkUp }, caddy := t.caddy }) := by
  have hwake : wakeBy 9 1 s = wakeFrom true 9 1 s := by
    unfold wakeBy
    rcases hst with h | h | h <;> rw [h] <;> rfl
  obtain ⟨hcross, hrun⟩ := wakeFrom_cross 9 1 hst hpark htherm hforced
  have hsame : s.pw.st = .run → wakeFrom true 9 1 s = s := fun h => wakeFrom_of_run true 9 1 hpark h
  have hexec : exec .pciePerst s = .next (modCross (if (getPcie (wakeFrom true 9 1 s) 0).up = true then linkDown 0 (wakeFrom true 9 1 s)
      else wakeFrom true 9 1 s) fun c => { c with port := tmod c.port 0 fun p => { p with dState := 0, l2 := false } }) := by
    show execPciePerst s = _
    unfold execPciePerst
    rw [if_neg (by simp [hsup, hheld, hend]), hwake]
  generalize wakeFrom true 9 1 s = v at hcross hrun hsame hexec
  have hpcie : ∀ j, getPcie v j = getPcie s j := fun j => congrArg (fun c : Crossing => tget c.port j) hcross
  have hroute : ∀ x ∈ v.cross.out, routeOf v x.win ≠ some 0 := by
    have : ∀ id, routeOf v id = routeOf s id := fun id => by unfold routeOf peerRoute; rw [hcross]
    rw [hcross]
    exact fun x hx => by rw [this]; exact hfree x hx
  rw [hpcie] at hexec
  refine ⟨_, hexec, ?_⟩
  split
  · next hup =>
    rw [linkDown_free hroute]
    refine ⟨hrun, ?_, fun j hj => ?_, fun h => ?_⟩
    · refine (getPcie_modPort _ _ 0 0).trans ?_
      rw [if_pos rfl, show ∀ u, getPcie (crossEvent 0 1 u) 0 = getPcie u 0 from fun _ => rfl]
      refine (congrArg (fun p : PciePort => { p with dState := 0, l2 := false }) (getPcie_modPort (fun x => { x with up := false, held := false })
        v 0 0)).trans ?_
      rw [if_pos rfl, hpcie]
    · refine (getPcie_modPort _ _ 0 j).trans ?_
      rw [if_neg hj]
      refine (getPcie_modPort (fun x => { x with up := false, held := false }) v 0 j).trans ?_
      rw [if_neg hj, hpcie]
    · rw [hsame h]
      rfl
  · next hup =>
    refine ⟨hrun, ?_, fun j hj => ?_, fun h => ?_⟩
    · refine (tget_tmod_same v.cross.port 0 fun p => { p with dState := 0, l2 := false }).trans ?_
      have hdown : (getPcie s 0).up = false := by simpa using hup
      rw [show tget v.cross.port 0 = getPcie s 0 from hpcie 0, hdown]
    · exact (tget_tmod_ne v.cross.port (fun p => { p with dState := 0, l2 := false }) hj).trans (hpcie j)
    · rw [hsame h]
      rfl

end

/-! ### Power management of the endpoint (R433, R449) -/

/-- A secure-held block of a class tells of a request. -/
def tellHeld (s : State) (k : Nat) : State :=
  secureHeld k (Config.freeNat (draw s).1) 0x12 (Config.freeNat (draw (draw s).2).1 % 4) (draw (draw s).2).2

/-- Its event's arguments. -/
def heldArgs (s : State) (k : Nat) : List Byte :=
  leBytes 1 k ++ leBytes 2 (Config.freeNat (draw s).1) ++ leBytes 1 0x12 ++ leBytes 1 (Config.freeNat (draw (draw s).2).1 % 4)

theorem tellHeld_effect (s : State) (k : Nat) : Wrote [recOf srcAfzan 0x4003 0x12 (heldArgs s k) s] s (tellHeld s k) ∧
    tellHeld s k = { s with caddy := (tellHeld s k).caddy, fresh := (tellHeld s k).fresh } := by
  refine ⟨((Wrote.refl s).same (u := (draw (draw s).2).2) rfl rfl).event srcAfzan 0x4003 0x12 (heldArgs s k), ?_⟩
  exact (event_only_caddy (by decide) srcAfzan 0x12 (heldArgs s k) (draw (draw s).2).2).trans rfl

/-- The events of secure-held classes: one for each, and nothing else but free values. -/
theorem tellHeld_events (ks : List Nat) (s : State) : ∃ rs : List CadRec, rs.length = ks.length ∧
    (∀ r ∈ rs, ∃ args, args.length ≤ 12 ∧ r = recOf srcAfzan 0x4003 0x12 args s) ∧
    Wrote rs s (ks.foldl tellHeld s) ∧ ks.foldl tellHeld s = { s with caddy := (ks.foldl tellHeld s).caddy, fresh := (ks.foldl tellHeld s).fresh } := by
  induction ks generalizing s with
  | nil => exact ⟨[], rfl, nofun, .refl s, rfl⟩
  | cons k ks ih =>
    obtain ⟨hfirst, hframe⟩ := tellHeld_effect s k
    obtain ⟨rs, hlen, hall, hw, hf⟩ := ih (tellHeld s k)
    refine ⟨recOf srcAfzan 0x4003 0x12 (heldArgs s k) s :: rs, by rw [List.length_cons, hlen, List.length_cons], fun r hr => ?_, hfirst.trans hw, ?_⟩
    · rcases List.mem_cons.1 hr with rfl | hr
      · exact ⟨heldArgs s k, by simp [heldArgs], rfl⟩
      · obtain ⟨args, hargs, rfl⟩ := hall r hr
        exact ⟨args, hargs, by rw [recOf, recOf, hframe]⟩
    · rw [List.foldl_cons]
      generalize ks.foldl tellHeld (tellHeld s k) = t at hf ⊢
      exact hf.trans ((congrArg (fun v : State => { v with caddy := t.caddy, fresh := t.fresh }) hframe).trans rfl)

/-- What the secure-held blocks do with a request: some class always tells of it. -/
theorem pmDenied_effect (s : State) : pmDenied s = { s with caddy := (pmDenied s).caddy, fresh := (pmDenied s).fresh } ∧
    (tget (pmDenied s).caddy.ring s.caddy.slot).code = 0x4003 := by
  obtain ⟨rs, hlen, hall, hw, hf⟩ := tellHeld_events ((List.range 9).filter (classHeld s)) s
  refine ⟨hf, ?_⟩
  have hne : (List.range 9).filter (classHeld s) ≠ [] :=
    List.ne_nil_of_mem (List.mem_filter.2 ⟨List.mem_range.2 (by decide : 8 < 9), rfl⟩)
  have hmax : ((List.range 9).filter (classHeld s)).length ≤ 9 := (List.length_filter_le _ _).trans (by simp)
  cases rs with
  | nil => exact absurd (List.length_eq_zero_iff.1 hlen.symm) hne
  | cons r rs =>
    obtain ⟨args, hargs, hr⟩ := hall r List.mem_cons_self
    rw [List.length_cons] at hlen
    obtain ⟨hcode, -⟩ := hw.logs (by omega) hr hargs
    exact hcode

/-- The host port after a request of its link partner. -/
def pmPort (r : PciePm) (p : PciePort) : PciePort := match r with | .dState d => { p with dState := d.val } | .l2 => { p with l2 := true }

/-! ### A port that comes up -/

/-- Event 0x5004 of a port, and nothing else. -/
theorem crossEvent_effect (p cause : Nat) (s : State) : crossEvent p cause s = { s with caddy := (crossEvent p cause s).caddy } ∧
    Logs 0x5004 (0x8000 + p) (leBytes 1 p ++ leBytes 1 (b2n (getPcie s p).up) ++ leBytes 1 (getPcie s p).lanes ++ leBytes 1 (getPcie s p).rate ++
      leBytes 1 cause) s (crossEvent p cause s) :=
  ⟨event_only_caddy (by decide) _ _ _ _, logs_event (u := s) (by simp) rfl rfl rfl rfl⟩

/-- A port that comes up, with the width and the rate that both ends support. -/
def portUp (p cause lanes rate : Nat) (s : State) : State := modCross s fun c =>
  { c with port := tmod c.port p fun x => { x with up := true, held := decide (cause = 2), lanes := lanes, rate := rate, l2 := false } }

theorem crossUp_eq (p cause : Nat) (s : State) : ∃ lanes rate, crossUp p cause s = crossEvent p cause (portUp p cause lanes rate (freeNum (freeNum s).2).2) :=
  ⟨_, _, rfl⟩

theorem wrote_crossUp (p cause : Nat) (s : State) : ∃ r, Wrote [r] s (crossUp p cause s) := by
  obtain ⟨lanes, rate, hup⟩ := crossUp_eq p cause s
  rw [hup]
  exact ⟨_, ((Wrote.refl s).same (u := portUp p cause lanes rate (freeNum (freeNum s).2).2) rfl rfl).event _ _ _ _⟩

theorem crossUp_effect (p cause : Nat) (s : State) : ∃ lanes rate,
    getPcie (crossUp p cause s) p = { getPcie s p with up := true, held := decide (cause = 2), lanes := lanes, rate := rate, l2 := false } ∧
    (∀ j, j ≠ p → getPcie (crossUp p cause s) j = getPcie s j) ∧ (crossUp p cause s).boot = s.boot ∧
    Logs 0x5004 (0x8000 + p) (leBytes 1 p ++ leBytes 1 1 ++ leBytes 1 lanes ++ leBytes 1 rate ++ leBytes 1 cause) s (crossUp p cause s) := by
  obtain ⟨lanes, rate, hup⟩ := crossUp_eq p cause s
  rw [hup]
  obtain ⟨hframe, hlog⟩ := crossEvent_effect p cause (portUp p cause lanes rate (freeNum (freeNum s).2).2)
  have hport : ∀ j, getPcie (portUp p cause lanes rate (freeNum (freeNum s).2).2) j = if j = p then
      { getPcie s p with up := true, held := decide (cause = 2), lanes := lanes, rate := rate, l2 := false } else getPcie s j :=
    fun j => getPcie_modPort _ (freeNum (freeNum s).2).2 p j
  rw [hport, if_pos rfl] at hlog
  rw [hframe]
  exact ⟨lanes, rate, (hport p).trans (if_pos rfl), fun j hj => (hport j).trans (if_neg hj), rfl, by rw [hframe] at hlog; exact hlog⟩

section
variable {s : State}

theorem pciePowerManagement_effect {x : PciePm} (hsup : s.pw.supplied = true) (hheld : s.boot.held = false) (hend : s.boot.endpoint = true)
    (hup : (getPcie s 0).up = true) :
    Runs (.pciePowerManagement x) s fun t => (∀ j, j ≠ 0 → getPcie t j = getPcie s j) ∧ t.pw = s.pw ∧ t.media = s.media ∧ t.lv = s.lv ∧
      (∀ d, x = .dState d → getPcie t 0 = { getPcie s 0 with dState := d.val }) ∧ (x = .l2 → getPcie t 0 = { getPcie s 0 with l2 := true }) ∧
      (x = .dState 0 → t = { s with cross := { s.cross with port := t.cross.port } }) ∧
      (x ≠ .dState 0 → (tget t.caddy.ring s.caddy.slot).code = 0x4003) := by
  have hexec : exec (.pciePowerManagement x) s = .next (if x = .dState 0 then modCross s fun c => { c with port := tmod c.port 0 (pmPort x) }
      else pmDenied (modCross s fun c => { c with port := tmod c.port 0 (pmPort x) })) := by
    show execPciePowerManagement x s = _
    unfold execPciePowerManagement
    rw [if_neg (by simp [hsup, hheld, hend, hup])]
    refine congrArg Host.Outcome.next ?_
    cases x with
    | dState d =>
      by_cases hd : d = 0
      · rw [hd]
        rfl
      · have hdown : decide (d.val ≠ 0) = true := decide_eq_true fun h => hd (Fin.ext h)
        exact (if_pos hdown).trans (if_neg fun h => hd (PciePm.dState.inj h)).symm
    | l2 => rfl
  have hport : ∀ j, getPcie (modCross s fun c => { c with port := tmod c.port 0 (pmPort x) }) j = if j = 0 then pmPort x (getPcie s 0) else getPcie s j :=
    getPcie_modPort _ _ 0
  have hself : (∀ d, x = .dState d → pmPort x (getPcie s 0) = { getPcie s 0 with dState := d.val }) ∧
      (x = .l2 → pmPort x (getPcie s 0) = { getPcie s 0 with l2 := true }) := ⟨fun d h => by rw [h]; rfl, fun h => by rw [h]; rfl⟩
  refine ⟨_, hexec, ?_⟩
  split
  · next h0 =>
    refine ⟨fun j hj => (hport j).trans (if_neg hj), rfl, rfl, rfl, fun d h => (hport 0).trans (hself.1 d h), fun h => (hport 0).trans (hself.2 h),
      fun _ => rfl, fun h => absurd h0 h⟩
  · next h0 =>
    obtain ⟨hframe, hcode⟩ := pmDenied_effect (modCross s fun c => { c with port := tmod c.port 0 (pmPort x) })
    have hcross : ∀ j, getPcie (pmDenied (modCross s fun c => { c with port := tmod c.port 0 (pmPort x) })) j =
        getPcie (modCross s fun c => { c with port := tmod c.port 0 (pmPort x) }) j := fun j => by rw [hframe]; rfl
    refine ⟨fun j hj => (hcross j).trans ((hport j).trans (if_neg hj)), by rw [hframe]; rfl, by rw [hframe]; rfl, by rw [hframe]; rfl,
      fun d h => (hcross 0).trans ((hport 0).trans (hself.1 d h)), fun h => (hcross 0).trans ((hport 0).trans (hself.2 h)),
      fun h => absurd h h0, fun _ => hcode⟩

/-! ### Links that come up -/

theorem peerLinkUp_effect {p : Fin 2} {n d : Nat} (hsup : s.pw.supplied = true) (hheld : s.boot.held = false) (hphase : 5 ≤ s.boot.phase)
    (hphase' : s.boot.phase ≠ 11) (hawake : Up s) (hdown : (getPcie s (p.val + 1)).up = false) :
    let good := n = s.cross.count ∧ 2 ≤ n ∧ d = (if p = 0 then (s.cross.device + 1) % s.cross.count else (s.cross.device + s.cross.count - 1) % s.cross.count)
    Runs (.peerLinkUp p n d) s fun t => (getPcie t (p.val + 1)).up = true ∧ ((getPcie t (p.val + 1)).held = true ↔ ¬good) ∧
      (getPcie t (p.val + 1)).l2 = false ∧ (∀ j, j ≠ p.val + 1 → getPcie t j = getPcie s j) ∧ tget t.boot.linkUp (9 + p.val) = 1 ∧
      Logs 0x5004 (0x8001 + p.val) (leBytes 1 (p.val + 1) ++ leBytes 1 1 ++ leBytes 1 (getPcie t (p.val + 1)).lanes ++
        leBytes 1 (getPcie t (p.val + 1)).rate ++ leBytes 1 (if (getPcie t (p.val + 1)).held then 2 else 0)) s t := by
  intro good
  obtain ⟨hrest, hpark⟩ := hawake
  have hwant : (if p.val + 1 = 1 then (s.cross.device + 1) % s.cross.count else (s.cross.device + s.cross.count - 1) % s.cross.count) =
      if p = 0 then (s.cross.device + 1) % s.cross.count else (s.cross.device + s.cross.count - 1) % s.cross.count :=
    if_congr (by rw [Fin.ext_iff, Nat.add_eq_right]; rfl) rfl rfl
  have hexec : exec (.peerLinkUp p n d) s =
      .next (crossUp (p.val + 1) (if good then 0 else 2) (modBoot s fun b => { b with linkUp := tput b.linkUp (8 + (p.val + 1)) 1 })) := by
    show execPeerLinkUp p n d s = _
    unfold execPeerLinkUp
    dsimp only
    rw [hwant, if_neg]
    simp [hsup, hheld, hrest, hpark, hphase', hdown, Nat.not_lt.2 hphase]
  obtain ⟨lanes, rate, hself, hothers, hboot, hlog⟩ := crossUp_effect (p.val + 1) (if good then 0 else 2)
    (modBoot s fun b => { b with linkUp := tput b.linkUp (8 + (p.val + 1)) 1 })
  have hheld : decide ((if good then 0 else 2) = 2) = decide (¬ good) := by
    by_cases hg : good <;> simp [hg]
  rw [hheld] at hself
  refine ⟨_, hexec, by rw [hself], by rw [hself]; exact decide_eq_true_iff, by rw [hself], hothers, ?_, ?_⟩
  · rw [hboot, show 9 + p.val = 8 + (p.val + 1) by omega]
    exact tget_tput_same _ _ _
  · rw [hself]
    have hcause : (if decide (¬ good) = true then 2 else 0) = if good then 0 else 2 := by
      by_cases hg : good <;> simp [hg]
    dsimp only
    rw [hcause, show 0x8001 + p.val = 0x8000 + (p.val + 1) by omega]
    exact hlog

/-- What follows the event of a link that trained again. -/
def retrained (u : Nat) (good : Bool) (s : State) : State :=
  if good then (if 11 ≤ u then tsnEvent (u - 7) (linkIsUp u s) else linkIsUp u s)
  else if 11 ≤ u then tsnEvent (u - 7) s else crossEvent (u - 8) 0 s

theorem linkIsUp_port {u : Nat} (hlow : 8 ≤ u) (hfield : u ≠ 19) (s : State) : ∃ rs : List CadRec, rs.length ≤ 1 ∧ Wrote rs s (linkIsUp u s) ∧
    (linkIsUp u s).boot = { s.boot with linkUp := tput s.boot.linkUp u 1 } ∧ (11 ≤ u → rs = []) ∧ (u = 8 → (getPcie (linkIsUp u s) 0).up = true) ∧
    (11 ≤ u → (getPort (linkIsUp u s) (u - 7)).up = true) := by
  unfold linkIsUp
  dsimp only
  rw [if_neg hfield]
  split
  · next h8 =>
    obtain ⟨lanes, rate, hself, -, hboot, -⟩ := crossUp_effect 0 0 (modBoot s fun b => { b with linkUp := tput b.linkUp u 1 })
    obtain ⟨r, hr⟩ := wrote_crossUp 0 0 (modBoot s fun b => { b with linkUp := tput b.linkUp u 1 })
    exact ⟨[r], le_rfl, ⟨hr.caddy, hr.ktime⟩, hboot, by omega, fun _ => by rw [hself], by omega⟩
  · split
    · next h8 h11 => exact ⟨[], Nat.zero_le 1, (Wrote.refl s).same rfl rfl, rfl, fun _ => rfl, fun h => absurd h h8,
        fun _ => congrArg TsnPort.up (tget_tmod_same s.gw.port (u - 7) fun p => { p with up := true })⟩
    · next h8 h11 => exact ⟨[], Nat.zero_le 1, (Wrote.refl s).same rfl rfl, rfl, fun _ => rfl, fun h => absurd h h8, fun h => absurd h h11⟩

theorem retrained_effect (u : Nat) (good : Bool) (s : State) (hlow : 8 ≤ u) (hfield : u ≠ 19) : ∃ rs : List CadRec, rs.length ≤ 1 ∧
    Wrote rs s (retrained u good s) ∧ (retrained u good s).boot.attempts = s.boot.attempts ∧
    (good = true → tget (retrained u good s).boot.linkUp u = 1 ∧ (u = 8 → (getPcie (retrained u good s) 0).up = true) ∧
      (11 ≤ u → (getPort (retrained u good s) (u - 7)).up = true)) ∧
    (good = false → (retrained u good s).boot.linkUp = s.boot.linkUp ∧ (retrained u good s).cross = s.cross ∧ (retrained u good s).gw = s.gw) := by
  unfold retrained
  cases good with
  | true =>
    obtain ⟨rs, hlen, hw, hboot, hnone, hpcie, hport⟩ := linkIsUp_port hlow hfield s
    rw [if_pos rfl]
    split
    · next h11 =>
      rw [hnone h11] at hw
      refine ⟨[_], le_rfl, hw.event _ _ _ _, (congrArg Boot.attempts hboot).trans rfl, fun _ => ⟨?_, by omega, hport⟩, nofun⟩
      exact (congrArg (fun b : Boot => tget b.linkUp u) hboot).trans (tget_tput_same _ _ _)
    · exact ⟨rs, hlen, hw, by rw [hboot], fun _ => ⟨by rw [hboot]; exact tget_tput_same _ _ _, hpcie, hport⟩, nofun⟩
  | false =>
    rw [if_neg Bool.false_ne_true]
    split
    · exact ⟨[_], le_rfl, (Wrote.refl s).event _ _ _ _, rfl, nofun, fun _ => ⟨rfl, rfl, rfl⟩⟩
    · exact ⟨[_], le_rfl, (Wrote.refl s).event _ _ _ _, rfl, nofun, fun _ => ⟨rfl, rfl, rfl⟩⟩

theorem linkRetrain_effect {u : Fin 20} {good : Bool} (hlow : 8 ≤ u.val) (hfield : u ≠ 19) (hsup : s.pw.supplied = true) (hheld : s.boot.held = false)
    (hphase : 5 ≤ s.boot.phase) (hphase' : s.boot.phase ≠ 11) (hawake : Up s) (hdown : tget s.boot.linkUp u.val ≠ 1) :
    let n := min 255 (tget s.boot.attempts u.val + 1)
    Runs (.linkRetrain u good) s fun t => tget t.boot.attempts u.val = n ∧
      Logs 0xA035 srcAfzan (leBytes 1 u.val ++ leBytes 1 (b2n !good) ++ leBytes 1 n) s t ∧
      (good = true → tget t.boot.linkUp u.val = 1 ∧ (u = 8 → (getPcie t 0).up = true) ∧
        (11 ≤ u.val → (getPort t (u.val - 7)).up = true)) ∧
      (good = false → t.boot.linkUp = s.boot.linkUp ∧ t.cross = s.cross ∧ t.gw = s.gw) := by
  intro n
  obtain ⟨hrest, hpark⟩ := hawake
  have hexec : exec (.linkRetrain u good) s = .next (retrained u.val good (trainEvent u.val good n (modBoot s fun b =>
      { b with attempts := tput b.attempts u.val n }))) := by
    show execLinkRetrain u good s = _
    unfold execLinkRetrain
    dsimp only
    rw [if_neg]
    · cases good <;> rfl
    · have h19 : u.val ≠ 19 := fun h => hfield (Fin.ext h)
      simp [hsup, hheld, hrest, hpark, hphase', hdown, h19, Nat.not_lt.2 hlow, Nat.not_lt.2 hphase]
  have hfirst : Wrote [recOf srcAfzan 0xA035 noParty (leBytes 1 u.val ++ leBytes 1 (b2n !good) ++ leBytes 1 n) s] s
      (trainEvent u.val good n (modBoot s fun b => { b with attempts := tput b.attempts u.val n })) :=
    ((Wrote.refl s).same (u := modBoot s fun b => { b with attempts := tput b.attempts u.val n }) rfl rfl).event srcAfzan 0xA035 noParty
      (leBytes 1 u.val ++ leBytes 1 (b2n !good) ++ leBytes 1 n)
  have hattempts : tget (trainEvent u.val good n (modBoot s fun b => { b with attempts := tput b.attempts u.val n })).boot.attempts u.val = n :=
    tget_tput_same _ _ _
  obtain ⟨rs, hlen, hwrote, hkeep, hup, hbad⟩ := retrained_effect u.val good
    (trainEvent u.val good n (modBoot s fun b => { b with attempts := tput b.attempts u.val n })) hlow (fun h => hfield (Fin.ext h))
  refine ⟨_, hexec, by rw [hkeep]; exact hattempts, (hfirst.trans hwrote).logs (rs := rs) (by omega) rfl (by simp), fun h => ?_, hbad⟩
  obtain ⟨hlink, hpcie, hport⟩ := hup h
  exact ⟨hlink, fun h8 => hpcie (by rw [h8]; rfl), hport⟩

end

/-- Settles O56: the bridge's windows that drain, and its links that go down, are reset, sleep, come up and train again. -/
theorem bridgeLinks : Obligations.BridgeLinks :=
  ⟨fun _ _ hclosing hidle => windowDrainEnd_effect hclosing hidle, fun _ _ hup hfree => pcieLinkDown_effect hup hfree,
    fun _ hsup hheld hend hst hpark htherm hforced hfree => pciePerst_effect hsup hheld hend hst hpark htherm hforced hfree,
    fun _ _ hsup hheld hend hup => pciePowerManagement_effect hsup hheld hend hup,
    fun _ _ _ _ hsup hheld hphase hphase' hawake hdown => peerLinkUp_effect hsup hheld hphase hphase' hawake hdown,
    fun _ _ _ hlow hfield hsup hheld hphase hphase' hawake hdown => linkRetrain_effect hlow hfield hsup hheld hphase hphase' hawake hdown⟩

end Sys2Proof.Machine

/-! Bring-up: what its parts leave as they were, and how many records they write (R390, R440, R494, R505 to R508, R514). -/

namespace Sys2Proof.Machine
open Sys2Proof.Claims

/-! ### Records counted -/

/-- Since `s` the Caddy has taken at most `n` records; it may have begun to flush. -/
def Told (n : Nat) (s t : State) : Prop :=
  ∃ rs : List CadRec, rs.length ≤ n ∧ t.caddy = { s.caddy.putAll rs with flushing := t.caddy.flushing }

theorem putAll_flushing (rs : List CadRec) (c : Caddy) (b : Bool) : ({ c with flushing := b } : Caddy).putAll rs = { c.putAll rs with flushing := b } := by
  induction rs generalizing c with
  | nil => rfl
  | cons r rs ih => exact ih (c.put r)

theorem Told.refl (s : State) : Told 0 s s := ⟨[], le_rfl, rfl⟩

theorem Told.of_caddy {s t : State} (h : t.caddy = s.caddy) : Told 0 s t := ⟨[], le_rfl, by rw [h]; rfl⟩

theorem Told.mono {m n : Nat} {s t : State} (h : Told m s t) (hle : m ≤ n) : Told n s t := by
  obtain ⟨rs, hlen, hc⟩ := h
  exact ⟨rs, hlen.trans hle, hc⟩

theorem Told.trans {m n : Nat} {s t u : State} (a : Told m s t) (b : Told n t u) : Told (m + n) s u := by
  obtain ⟨rs, hlen, hc⟩ := a
  obtain ⟨rs', hlen', hc'⟩ := b
  refine ⟨rs ++ rs', by rw [List.length_append]; omega, ?_⟩
  rw [hc', hc, putAll_flushing, Caddy.putAll, Caddy.putAll, Caddy.putAll, List.foldl_append]

theorem Told.same {n : Nat} {s t u : State} (h : Told n s t) (hc : u.caddy = t.caddy) : Told n s u := (h.trans (.of_caddy hc)).mono (by omega)

theorem told_event (src code party : Nat) (args : List Byte) (s : State) : Told 1 s (event src code party args s) :=
  ⟨[recOf src code party args s], le_rfl, rfl⟩

theorem told_wrote {rs : List CadRec} {s t : State} (h : Wrote rs s t) : Told rs.length s t := ⟨rs, le_rfl, by rw [h.caddy]⟩

theorem Told.foldl {β : Type} {n : Nat} {f : State → β → State} (hf : ∀ s x, Told n s (f s x)) (l : List β) (s : State) :
    Told (l.length * n) s (l.foldl f s) := by
  induction l generalizing s with
  | nil => exact (Told.refl s).mono (Nat.zero_le _)
  | cons x l ih => exact ((hf s x).trans (ih _)).mono (by rw [List.length_cons, Nat.succ_mul]; omega)

/-- The Caddy's next slot holds the first record. -/
theorem Told.first {n : Nat} {s u t : State} {src code party : Nat} {args : List Byte} (h : Told n (event src code party args u) t)
    (hc : u.caddy = s.caddy) (hn : n < 1024) : ∃ q, tget t.caddy.ring s.caddy.slot = { recOf src code party args u with seq := q } ∧ q = s.caddy.next := by
  obtain ⟨rs, hlen, hcad⟩ := h
  obtain ⟨q, hq, hnext⟩ := ring_putAll (recOf src code party args u :: rs) s.caddy (i := 0) (by simp) (by rw [List.length_cons]; omega)
  refine ⟨q, ?_, hnext rfl⟩
  rw [hcad, Caddy.slot_eq, event_caddy, hc]
  exact hq

theorem Told.logs {n : Nat} {s u t : State} {src code party : Nat} {args : List Byte} (h : Told n (event src code party args u) t)
    (hc : u.caddy = s.caddy) (hk : u.ktime = s.ktime) (hargs : args.length ≤ 12) (hn : n < 1024) : Logs code src args s t := by
  obtain ⟨q, hq, hnext⟩ := h.first hc hn
  unfold Logs
  rw [hq]
  exact ⟨rfl, rfl, List.take_of_length_le hargs, hnext, hk⟩

theorem Told.code {n : Nat} {s u t : State} {src code party : Nat} {args : List Byte} (h : Told n (event src code party args u) t)
    (hc : u.caddy = s.caddy) (hn : n < 1024) : (tget t.caddy.ring s.caddy.slot).code = code := by
  obtain ⟨q, hq, -⟩ := h.first hc hn
  rw [hq]
  rfl

/-- What relates each step of a fold relates its ends. -/
theorem foldl_related {R : State → State → Prop} {β : Type} {f : State → β → State} (hrefl : ∀ s, R s s)
    (htrans : ∀ {s t u}, R s t → R t u → R s u) (hf : ∀ s x, R s (f s x)) (l : List β) (s : State) : R s (l.foldl f s) := by
  induction l generalizing s with
  | nil => exact hrefl s
  | cons x l ih => exact htrans (hf s x) (ih _)

/-! ### The power-fail log's copy -/

theorem copyLog_effect (slot : Nat) (s : State) : copyLog slot s = { s with caddy := (copyLog slot s).caddy } ∧ Told 1 s (copyLog slot s) := by
  refine ⟨?_, told_event ..⟩
  unfold copyLog
  dsimp only
  split <;> exact event_only_caddy (by decide) ..

/-- The entries at places `is` of the log's newest `n` reach the Caddy. -/
def copied (n : Nat) (is : List Nat) (s : State) : State := is.foldl (fun s i => copyLog ((s.field.logNext + 256 - n + i) % 256) s) s

theorem copyLogs_eq (s : State) :
    copyLogs s = modField (copied s.field.uncopied (List.range s.field.uncopied) s) fun f => { f with uncopied := 0 } := rfl

theorem copied_effect (n : Nat) (is : List Nat) (s : State) : copied n is s = { s with caddy := (copied n is s).caddy } ∧
    Told is.length s (copied n is s) := by
  refine ⟨?_, (Told.foldl (fun u i => (copyLog_effect ((u.field.logNext + 256 - n + i) % 256) u).2) is s).mono (by rw [Nat.mul_one])⟩
  unfold copied
  induction is generalizing s with
  | nil => rfl
  | cons x is ih =>
    rw [List.foldl_cons]
    have hstep := (copyLog_effect ((s.field.logNext + 256 - n + x) % 256) s).1
    generalize copyLog ((s.field.logNext + 256 - n + x) % 256) s = w at hstep ⊢
    have hrest := ih w
    generalize is.foldl _ w = t at hrest ⊢
    exact hrest.trans ((congrArg (fun u : State => { u with caddy := t.caddy }) hstep).trans rfl)

theorem copyLogs_effect (s : State) : copyLogs s = { s with caddy := (copyLogs s).caddy, field := { s.field with uncopied := 0 } } ∧
    Told s.field.uncopied s (copyLogs s) := by
  rw [copyLogs_eq]
  obtain ⟨hframe, htold⟩ := copied_effect s.field.uncopied (List.range s.field.uncopied) s
  rw [List.length_range] at htold
  refine ⟨?_, htold.same rfl⟩
  generalize copied s.field.uncopied (List.range s.field.uncopied) s = t at hframe ⊢
  exact (congrArg (fun u : State => modField u fun f => { f with uncopied := 0 }) hframe).trans rfl

/-! ### Verification (R390, R440) -/

theorem slotGood_congr {s t : State} (hf : t.firm = s.firm) (hi : t.boot.input = s.boot.input) (i : Nat) : slotGood t i = slotGood s i := by
  unfold slotGood slotOf bootInput
  rw [hf, hi]

theorem bootInput_congr {s t : State} (hi : t.boot.input = s.boot.input) : bootInput t = bootInput s := by
  unfold bootInput
  rw [hi]

theorem verifies_congr {s t : State} (h : Verifies s) (hf : t.firm = s.firm) (hi : t.boot.input = s.boot.input) : Verifies t := by
  unfold Verifies at *
  rw [slotGood_congr hf hi, bootInput_congr hi, hf]
  exact h

theorem bootHeld_effect (stage kind place : Nat) (s : State) : (bootHeld stage kind place s).boot = { s.boot with held := true } ∧
    bitOf (bootHeld stage kind place s).safe.causes 1 = true ∧ Told 2 s (bootHeld stage kind place s) ∧
    bootHeld stage kind place s = { s with boot := { s.boot with held := true }, safe := (bootHeld stage kind place s).safe
                                           caddy := (bootHeld stage kind place s).caddy, fresh := s.fresh + 1 } := by
  obtain ⟨hbit, hframe, hwrote⟩ := assertFrom_effect 0x2000 1 (modBoot (event (if stage = 0 then srcKeep else srcAfzan) 0x4002 noParty
    (leBytes 1 stage ++ leBytes 1 kind ++ leBytes 1 (1 + Config.freeNat (draw s).1 % 5) ++ leBytes 1 place) (draw s).2) fun b => { b with held := true })
  have hfirst : Told 1 s (modBoot (event (if stage = 0 then srcKeep else srcAfzan) 0x4002 noParty
      (leBytes 1 stage ++ leBytes 1 kind ++ leBytes 1 (1 + Config.freeNat (draw s).1 % 5) ++ leBytes 1 place) (draw s).2) fun b => { b with held := true }) :=
    (((Told.refl s).same (u := (draw s).2) rfl).trans (told_event ..)).same rfl
  exact ⟨rfl, hbit, hfirst.trans (told_wrote hwrote), rfl⟩

/-- With the committed slot good, that slot boots. -/
theorem bootAfzan_good {s : State} (hc : s.firm.committed = true) (hgood : slotGood s s.firm.slot = true) : bootAfzan s = s := by
  unfold bootAfzan
  dsimp only
  rw [hc]
  simp only [if_true, hgood]

/-- With neither slot good, nothing boots. -/
theorem bootAfzan_none {s : State} (hc : s.firm.committed = true) (h0 : slotGood s 0 = false) (h1 : slotGood s 1 = false) :
    bootAfzan s = bootHeld 0 1 s.firm.slot s := by
  have hpos : ∀ i, i ≠ 0 → slotGood s i = slotGood s 1 := fun i hi => by
    unfold slotGood slotOf
    rw [if_neg hi, if_neg hi, if_neg one_ne_zero, if_neg one_ne_zero]
  have hany : ∀ i, slotGood s i = false := fun i => by
    by_cases hi : i = 0
    · rw [hi, h0]
    · rw [hpos i hi, h1]
  unfold bootAfzan
  dsimp only
  rw [hc]
  simp [hany]

theorem bootDebug_effect (s : State) : bootDebug s = { s with firm := { s.firm with debug := (bootDebug s).firm.debug }, caddy := (bootDebug s).caddy } ∧
    Told 1 s (bootDebug s) := by
  unfold bootDebug
  split
  · exact ⟨rfl, (Told.of_caddy rfl).mono (Nat.zero_le 1)⟩
  · exact ⟨event_only_caddy (by decide) .., ((Told.of_caddy rfl).trans (told_event ..))⟩

theorem measure_effect (s : State) : measure s = { s with
    firm := { s.firm with mBoot := (measure s).firm.mBoot, mSecure := (measure s).firm.mSecure, mNormal := (measure s).firm.mNormal
                          level3 := (measure s).firm.level3 }
    fresh := (measure s).fresh } := rfl

/-- The state in which the microcode is looked for. -/
def measured (s : State) : State := measure (bootDebug (bootConfig s))

theorem measured_effect (s : State) : measured s = { bootConfig s with
      firm := { s.firm with mBoot := (measured s).firm.mBoot, mSecure := (measured s).firm.mSecure, mNormal := (measured s).firm.mNormal
                            level3 := (measured s).firm.level3, debug := (measured s).firm.debug }
      fresh := (measured s).fresh, caddy := (measured s).caddy } ∧ Told 1 s (measured s) := by
  obtain ⟨hframe, htold⟩ := bootDebug_effect (bootConfig s)
  have hcaddy : (measured s).caddy = (bootDebug (bootConfig s)).caddy := by
    unfold measured
    rw [measure_effect]
  have hconfig : Told 0 s (bootConfig s) := .of_caddy rfl
  refine ⟨?_, (hconfig.trans htold).same hcaddy⟩
  have hm := measure_effect (bootDebug (bootConfig s))
  unfold measured
  generalize bootDebug (bootConfig s) = t at hframe hm ⊢
  generalize measure t = u at hm ⊢
  exact hm.trans ((congrArg (fun v : State => { v with
    firm := { v.firm with mBoot := u.firm.mBoot, mSecure := u.firm.mSecure, mNormal := u.firm.mNormal, level3 := u.firm.level3 }
    fresh := u.fresh }) hframe).trans (by rw [hm]; rfl))

/-- The microcode that a part of no replacement takes is the one that its release carries. -/
theorem bootUcode_carried {s : State} (hu : (bootInput s).ucode = true) (hpart : s.firm.ucodePart.version = 0) (hc : tget s.firm.counters 1 = 0) :
    bootUcode s = some ((Config.carriedUcode (runSlot s).release).1, Config.ident 2 (runSlot s).release) := by
  unfold bootUcode
  dsimp only
  rw [hu, hpart, hc]
  simp

theorem bootUcode_none {s : State} (hu : (bootInput s).ucode = false) : bootUcode s = none := by
  unfold bootUcode
  dsimp only
  rw [hu]
  rfl

theorem measured_input (s : State) : (measured s).boot = s.boot := by rw [(measured_effect s).1]; rfl

theorem measured_runSlot (s : State) : runSlot (measured s) = runSlot s := by rw [(measured_effect s).1]; rfl

theorem verify_good {s : State} (hheld : s.boot.held = false) (h : Verifies s) : verify s = (modFirm (measured s) fun f =>
    { f with ucode := (Config.carriedUcode (runSlot s).release).1, mUcode := Config.ident 2 (runSlot s).release, aliasGen := f.aliasGen + 1 }, true) := by
  obtain ⟨hcom, hslot, hcfg, hu, hpart, hcount⟩ := h
  have hucode : bootUcode (measured s) = some ((Config.carriedUcode (runSlot s).release).1, Config.ident 2 (runSlot s).release) := by
    rw [bootUcode_carried (by rw [bootInput_congr (congrArg Boot.input (measured_input s))]; exact hu)
      (by rw [(measured_effect s).1]; exact hpart) (by rw [(measured_effect s).1]; exact hcount), measured_runSlot]
  unfold verify
  dsimp only
  rw [bootAfzan_good hcom hslot, hheld, if_neg Bool.false_ne_true, hcfg, if_neg (by decide),
    show measure (bootDebug (bootConfig s)) = measured s from rfl, hucode]

theorem verify_noUcode {s : State} (hheld : s.boot.held = false) (hcom : s.firm.committed = true) (hslot : slotGood s s.firm.slot = true)
    (hcfg : (bootInput s).bootCfg = true) (hu : (bootInput s).ucode = false) : ∃ args, verify s =
      (event srcAfzan 0x4002 noParty args (draw (measured s)).2, false) := by
  unfold verify
  dsimp only
  rw [bootAfzan_good hcom hslot, hheld, if_neg Bool.false_ne_true, hcfg, if_neg (by decide),
    show measure (bootDebug (bootConfig s)) = measured s from rfl,
    bootUcode_none (by rw [bootInput_congr (congrArg Boot.input (measured_input s))]; exact hu)]
  exact ⟨_, rfl⟩

theorem verify_noImage {s : State} (hcom : s.firm.committed = true) (h0 : slotGood s 0 = false) (h1 : slotGood s 1 = false) :
    verify s = (bootHeld 0 1 s.firm.slot s, false) := by
  unfold verify
  dsimp only
  rw [bootAfzan_none hcom h0 h1, (bootHeld_effect 0 1 s.firm.slot s).1, if_pos rfl]

/-- What verification leaves as it was, whatever it finds. -/
def VerifyFrame (s t : State) : Prop := t = { s with
  firm := t.firm, boot := { s.boot with held := t.boot.held }, caddy := t.caddy, safe := t.safe, fresh := t.fresh, party := t.party, world := t.world }

theorem verifyFrame_trans {s t u : State} (a : VerifyFrame s t) (b : VerifyFrame t u) : VerifyFrame s u := by
  unfold VerifyFrame at *
  rw [b, a]

theorem verifyFrame_bootHeld (stage kind place : Nat) (s : State) : VerifyFrame s (bootHeld stage kind place s) := rfl

theorem verifyFrame_measured (s : State) : VerifyFrame s (measured s) := by
  have h := (measured_effect s).1
  unfold VerifyFrame
  generalize measured s = t at h ⊢
  rw [h]
  rfl

theorem bootAfzan_frame (s : State) : VerifyFrame s (bootAfzan s) ∧ Told 3 s (bootAfzan s) := by
  have hfirst : ∀ c, VerifyFrame s (if s.firm.committed then s
      else event srcAfzan 0xA003 noParty (leBytes 1 c ++ leBytes 1 2) (modFirm s fun f => { f with slot := c, committed := true, staged := false })) ∧
      Told 1 s (if s.firm.committed then s
      else event srcAfzan 0xA003 noParty (leBytes 1 c ++ leBytes 1 2) (modFirm s fun f => { f with slot := c, committed := true, staged := false })) := by
    intro c
    split
    · exact ⟨rfl, (Told.refl s).mono (Nat.zero_le 1)⟩
    · exact ⟨rfl, ((Told.of_caddy (t := modFirm s fun f => { f with slot := c, committed := true, staged := false }) rfl).trans (told_event ..))⟩
  unfold bootAfzan
  dsimp only
  generalize (if s.firm.committed = true then s.firm.slot else 1 - s.firm.slot) = c
  obtain ⟨hframe, htold⟩ := hfirst c
  generalize (if s.firm.committed = true then s else _) = v at hframe htold ⊢
  split
  · exact ⟨hframe, htold.mono (by omega)⟩
  · split
    · exact ⟨verifyFrame_trans hframe rfl, (htold.same rfl).mono (by omega)⟩
    · exact ⟨verifyFrame_trans hframe (verifyFrame_bootHeld ..), htold.trans (bootHeld_effect 0 1 c v).2.2.1⟩

theorem verify_frame (s : State) : VerifyFrame s (verify s).1 ∧ Told 5 s (verify s).1 := by
  obtain ⟨hframe, htold⟩ := bootAfzan_frame s
  unfold verify
  dsimp only
  generalize bootAfzan s = v at hframe htold ⊢
  obtain ⟨-, -, hheld, -⟩ := bootHeld_effect 1 4 0 v
  obtain ⟨-, hmeas⟩ := measured_effect v
  split
  · exact ⟨hframe, htold.mono (by omega)⟩
  · split
    · exact ⟨verifyFrame_trans hframe (verifyFrame_bootHeld ..), htold.trans hheld⟩
    · have hmframe := verifyFrame_trans hframe (verifyFrame_measured v)
      have hmtold := htold.trans hmeas
      rw [show measure (bootDebug (bootConfig v)) = measured v from rfl]
      generalize measured v = w at hmframe hmtold ⊢
      split
      · exact ⟨verifyFrame_trans hmframe rfl, (hmtold.same rfl).mono (by omega)⟩
      · exact ⟨verifyFrame_trans hmframe rfl, (hmtold.same (u := (draw w).2) rfl).trans (told_event ..)⟩

/-! ### The service state and the end of bring-up -/

theorem service_effect (s : State) : (service s).boot = { s.boot with service := true } ∧ (service s).caddy.flushing = true ∧ Told 1 s (service s) ∧
    service s = { s with boot := { s.boot with service := true }, caddy := (service s).caddy, fresh := s.fresh + 1 } := by
  refine ⟨rfl, rfl, ?_, rfl⟩
  obtain ⟨rs, hlen, hc⟩ := (Told.of_caddy (s := s) (t := modBoot (draw s).2 fun b => { b with service := true }) rfl).trans
    (told_event srcAfzan 0xA031 noParty (leBytes 1 s.boot.kind ++ leBytes 4 (Config.freeNat (draw s).1) ++
      leBytes 1 (leavesOf (modBoot (draw s).2 fun b => { b with service := true }) .enabled).length ++
      leBytes 1 (spareCount (modBoot (draw s).2 fun b => { b with service := true })) ++ leBytes 1 1)
      (modBoot (draw s).2 fun b => { b with service := true }))
  refine ⟨rs, hlen, ?_⟩
  exact congrArg (fun c : Caddy => { c with flushing := true }) hc

end Sys2Proof.Machine

/-! Bring-up: the supplies, the images and the start of training (R49, R440, R505, R527, R529). -/

namespace Sys2Proof.Machine
open Sys2Proof.Claims

/-! ### The core die starts -/

/-- The core die at the start of a run, with the straps sampled. -/
def sampled (s : State) : State :=
  modBoot s fun b => { b with phase := 5, endpoint := (bootInput s).endpoint, pcieClk := (bootInput s).srisClk, gxPcie := (bootInput s).gxPcie }

/-- The state in which the images are verified. -/
def ranUp (s : State) : State :=
  copyLogs (portsUp (bringupEvent s.boot.kind (if s.boot.kind = 1 then sampled s else caddyRestart (sampled s))))

theorem coreStart_eq (s : State) : coreStart s = if (verify (ranUp s)).2 = true then (verify (ranUp s)).1
    else if (verify (ranUp s)).1.boot.held = true then (verify (ranUp s)).1 else service (verify (ranUp s)).1 := rfl

theorem ranUp_effect (s : State) : (ranUp s).firm = s.firm ∧
    (∃ at_, (ranUp s).boot = { (sampled s).boot with startAt := at_ }) ∧ (ranUp s).pw = s.pw ∧ (ranUp s).field = { s.field with uncopied := 0 } := by
  have hframe : ∀ v : State, v.boot = (sampled s).boot → v.firm = s.firm → v.pw = s.pw → v.field = s.field →
      (copyLogs (portsUp (bringupEvent s.boot.kind v))).firm = s.firm ∧
      (∃ at_, (copyLogs (portsUp (bringupEvent s.boot.kind v))).boot = { (sampled s).boot with startAt := at_ }) ∧
      (copyLogs (portsUp (bringupEvent s.boot.kind v))).pw = s.pw ∧
      (copyLogs (portsUp (bringupEvent s.boot.kind v))).field = { s.field with uncopied := 0 } := by
    intro v hboot hfirm hpw hfield
    rw [(copyLogs_effect (portsUp (bringupEvent s.boot.kind v))).1]
    refine ⟨hfirm, ⟨v.ktime, ?_⟩, hpw, congrArg (fun f : Field => { f with uncopied := 0 }) hfield⟩
    exact congrArg (fun b : Boot => { b with kind := s.boot.kind, startAt := v.ktime }) hboot
  unfold ranUp
  split
  · exact hframe (sampled s) rfl rfl rfl rfl
  · exact hframe (caddyRestart (sampled s)) rfl rfl rfl rfl

/-- In a cold run the first record is that of bring-up. -/
theorem ranUp_code {n : Nat} {s t : State} (hkind : s.boot.kind = 1) (hlog : s.field.uncopied ≤ 256) (h : Told n (ranUp s) t) (hn : n ≤ 700) :
    (tget t.caddy.ring s.caddy.slot).code = 0xA030 := by
  have hcopy := (copyLogs_effect (portsUp (bringupEvent 1 (sampled s)))).2
  have hstart : ranUp s = copyLogs (portsUp (bringupEvent 1 (sampled s))) := by unfold ranUp; rw [hkind, if_pos rfl]
  rw [hstart] at h
  have hall := ((Told.of_caddy (s := bringupEvent 1 (sampled s)) (t := portsUp (bringupEvent 1 (sampled s))) rfl).trans hcopy).trans h
  refine hall.code (s := s) rfl ?_
  have : (portsUp (bringupEvent 1 (sampled s))).field.uncopied = s.field.uncopied := rfl
  omega

section
variable {s : State}

/-! ### The steps of the supplies -/

theorem bringup_inRange {r : BringupInput} (hphase : s.boot.phase = 0) (hlo : 600 ≤ s.field.vbat) (hhi : s.field.vbat ≤ 3600) :
    Runs (.bringup r) s fun t => t.boot = { s.boot with phase := 2, kind := 0, input := some r, pgoodFails := 0 } ∧
      t.field = { s.field with park := false, tripped := false } ∧ t = { s with boot := t.boot, field := t.field, fresh := t.fresh } := by
  refine ⟨_, rfl, ?_⟩
  dsimp only
  rw [if_neg (show ¬ s.boot.phase ≠ 0 from not_not.2 hphase), if_neg (show ¬ s.field.vbat < 450 by omega), if_pos ⟨hlo, hhi⟩]
  exact ⟨rfl, rfl, rfl⟩

theorem bringup_dead {r : BringupInput} (hphase : s.boot.phase = 0) (hlow : s.field.vbat < 450) :
    Runs (.bringup r) s fun t => t.boot = { s.boot with phase := 2, kind := 0, input := some r, pgoodFails := 0 } ∧ 600 ≤ t.field.vbat ∧
      t.field.vbat ≤ 3600 ∧ t.field.pwron = s.field.pwron.add 1 ∧ t.field.wakeEn = 0x400000 ∧ t.field.log = s.field.log ∧ t.field.park = false := by
  have hout : ¬ (600 ≤ (fieldOn s).field.vbat ∧ (fieldOn s).field.vbat ≤ 3600) := fun h => by
    have : (fieldOn s).field.vbat = s.field.vbat := rfl
    omega
  refine ⟨_, rfl, ?_⟩
  dsimp only
  rw [if_neg (by omega), if_pos hlow, if_neg hout]
  have hmod : Config.freeNat (draw (fieldOn s)).1 % 3001 ≤ 3000 := by omega
  refine ⟨rfl, ?_, ?_, rfl, rfl, rfl, rfl⟩
  · show (600 : Int) ≤ 600 + ((Config.freeNat (draw (fieldOn s)).1 % 3001 : Nat) : Int)
    omega
  · show 600 + ((Config.freeNat (draw (fieldOn s)).1 % 3001 : Nat) : Int) ≤ 3600
    omega

theorem pgoodSample_low (hphase : s.boot.phase = 2) : Runs (.pgoodSample false) s fun t =>
      t = { s with boot := { s.boot with phase := 11, pgoodFails := min 15 (s.boot.pgoodFails + 1) } } := by
  refine ⟨_, rfl, ?_⟩
  rw [if_neg (not_not.2 hphase), if_neg Bool.false_ne_true]
  rfl

theorem powerUpRetry_effect (hphase : s.boot.phase = 11) : Runs .powerUpRetry s fun t => t = { s with boot := { s.boot with phase := 2 } } := by
  refine ⟨_, rfl, ?_⟩
  rw [if_pos hphase]
  rfl

/-- The state in which a PGOOD that is good starts the core die. -/
def powered (s : State) : State := modPw s fun p => { p with supplied := true, trip := false }

theorem exec_pgoodSample (hphase : s.boot.phase = 2) : exec (.pgoodSample true) s = .next (coreStart (powered s)) := by
  show execPgoodSample true s = _
  unfold execPgoodSample
  rw [if_neg (not_not.2 hphase), if_pos rfl]
  rfl

theorem pgoodSample_starts (hphase : s.boot.phase = 2) (hheld : s.boot.held = false) (h : Verifies s) :
    Runs (.pgoodSample true) s fun t => t.pw.supplied = true ∧ t.boot.phase = 5 ∧ t.boot.held = false ∧ t.boot.service = s.boot.service ∧
      t.boot.endpoint = (bootInput s).endpoint ∧ t.boot.gxPcie = (bootInput s).gxPcie ∧ t.firm.slot = s.firm.slot ∧
      t.firm.ucode = (Config.carriedUcode (runSlot s).release).1 ∧ t.world.lwm = s.boot.lwm ∧ t.world.clusters = s.boot.clusters ∧
      t.world.nwParty = s.boot.nwParty ∧ t.field.uncopied = 0 ∧
      (s.boot.kind = 1 → s.field.uncopied ≤ 256 → (tget t.caddy.ring s.caddy.slot).code = 0xA030) := by
  obtain ⟨hfirm, ⟨at_, hboot⟩, hpw, hfield⟩ := ranUp_effect (powered s)
  have hinput : bootInput (powered s) = bootInput s := rfl
  have hverify := verify_good (s := ranUp (powered s)) (by rw [hboot]; exact hheld) (verifies_congr h hfirm (by rw [hboot]; rfl))
  have hexec := exec_pgoodSample hphase
  rw [coreStart_eq, hverify, if_pos rfl] at hexec
  obtain ⟨hmeas, htold⟩ := measured_effect (ranUp (powered s))
  have hrun : runSlot (ranUp (powered s)) = runSlot s := by unfold runSlot; rw [hfirm]; rfl
  rw [hrun] at hexec
  have hmboot := measured_input (ranUp (powered s))
  refine ⟨_, hexec, ?_, ?_, ?_, ?_, ?_, ?_, ?_, rfl, ?_, ?_, ?_, ?_, fun hkind hlog => ?_⟩
  · show (measured (ranUp (powered s))).pw.supplied = true
    rw [hmeas]
    exact congrArg Power.supplied hpw
  · exact (congrArg Boot.phase (hmboot.trans hboot)).trans rfl
  · exact (congrArg Boot.held (hmboot.trans hboot)).trans hheld
  · exact (congrArg Boot.service (hmboot.trans hboot)).trans rfl
  · exact (congrArg Boot.endpoint (hmboot.trans hboot)).trans rfl
  · exact (congrArg Boot.gxPcie (hmboot.trans hboot)).trans rfl
  · show (measured (ranUp (powered s))).firm.slot = _
    rw [hmeas]
    exact (congrArg Firm.slot hfirm : (ranUp (powered s)).firm.slot = _)
  · show (measured (ranUp (powered s))).world.lwm = _
    rw [hmeas]
    exact (congrArg Boot.lwm hboot : (ranUp (powered s)).boot.lwm = _)
  · show (measured (ranUp (powered s))).world.clusters = _
    rw [hmeas]
    exact (congrArg Boot.clusters hboot : (ranUp (powered s)).boot.clusters = _)
  · show (measured (ranUp (powered s))).world.nwParty = _
    rw [hmeas]
    exact (congrArg Boot.nwParty hboot : (ranUp (powered s)).boot.nwParty = _)
  · show (measured (ranUp (powered s))).field.uncopied = _
    rw [hmeas]
    exact congrArg Field.uncopied hfield
  · exact ranUp_code (s := powered s) hkind hlog (htold.same rfl) (by decide)

theorem pgoodSample_noImage (hphase : s.boot.phase = 2) (hcom : s.firm.committed = true) (h0 : slotGood s 0 = false) (h1 : slotGood s 1 = false) :
    Runs (.pgoodSample true) s fun t => t.boot.held = true ∧ bitOf t.safe.causes 1 = true := by
  obtain ⟨hfirm, ⟨at_, hboot⟩, -, -⟩ := ranUp_effect (powered s)
  have hin : (ranUp (powered s)).boot.input = s.boot.input := by rw [hboot]; rfl
  have hverify := verify_noImage (s := ranUp (powered s)) (by rw [hfirm]; exact hcom) ((slotGood_congr hfirm hin 0).trans h0)
    ((slotGood_congr hfirm hin 1).trans h1)
  obtain ⟨hheld, hbit, -, -⟩ := bootHeld_effect 0 1 (ranUp (powered s)).firm.slot (ranUp (powered s))
  have hexec := exec_pgoodSample hphase
  rw [coreStart_eq, hverify, if_neg Bool.false_ne_true, if_pos (by rw [hheld])] at hexec
  exact ⟨_, hexec, by rw [hheld], hbit⟩

theorem pgoodSample_noUcode (hphase : s.boot.phase = 2) (hheld : s.boot.held = false) (hcom : s.firm.committed = true)
    (hslot : slotGood s s.firm.slot = true) (hcfg : (bootInput s).bootCfg = true) (hu : (bootInput s).ucode = false) :
    Runs (.pgoodSample true) s fun t => t.boot.service = true ∧ t.boot.held = false ∧ t.caddy.flushing = true := by
  obtain ⟨hfirm, ⟨at_, hboot⟩, -, -⟩ := ranUp_effect (powered s)
  have hin : (ranUp (powered s)).boot.input = s.boot.input := by rw [hboot]; rfl
  have hheld' : (ranUp (powered s)).boot.held = false := by rw [hboot]; exact hheld
  obtain ⟨args, hverify⟩ := verify_noUcode (s := ranUp (powered s)) hheld' (by rw [hfirm]; exact hcom)
    (by rw [slotGood_congr hfirm hin, hfirm]; exact hslot) (by rw [bootInput_congr hin]; exact hcfg) (by rw [bootInput_congr hin]; exact hu)
  have hmheld : (event srcAfzan 0x4002 noParty args (draw (measured (ranUp (powered s)))).2).boot.held = false :=
    (congrArg Boot.held (measured_input (ranUp (powered s)))).trans hheld'
  obtain ⟨hserv, hflush, -, -⟩ := service_effect (event srcAfzan 0x4002 noParty args (draw (measured (ranUp (powered s)))).2)
  have hexec := exec_pgoodSample hphase
  rw [coreStart_eq, hverify, if_neg Bool.false_ne_true, if_neg (by rw [hmheld]; decide)] at hexec
  exact ⟨_, hexec, by rw [hserv], by rw [hserv]; exact hmheld, hflush⟩

theorem pgoodFall_effect (hsup : s.pw.supplied = true) (hawake : Up s) : Runs .pgoodFall s fun t => CoreEmpty t ∧ t.pw.supplied = false ∧
      t.boot.phase = 1 ∧ (∀ a, tget t.mem.cells a = 0) ∧ t.safe.causes = 0 ∧ field (tget t.field.log s.field.logNext) 10 1 = 5 := by
  obtain ⟨hrest, hpark⟩ := hawake
  have hexec : exec .pgoodFall s = .next (fieldLog 5 0 (coreOff 1 s)) := by
    show execPgoodFall s = _
    unfold execPgoodFall
    rw [if_neg (by simp [hsup, hrest, hpark])]
  exact ⟨_, hexec, ⟨rfl, rfl, rfl, rfl, rfl, rfl, rfl, rfl, rfl⟩, rfl, rfl, fun _ => rfl, rfl, (fieldLog_effect 5 0 (coreOff 1 s)).2⟩

end

theorem powerUp : PowerUp :=
  ⟨fun _ _ hphase hlo hhi => bringup_inRange hphase hlo hhi, fun _ _ hphase hlow => bringup_dead hphase hlow, fun _ hphase => pgoodSample_low hphase,
    fun _ hphase => powerUpRetry_effect hphase, fun _ hphase hheld h => pgoodSample_starts hphase hheld h,
    fun _ hphase hcom h0 h1 => pgoodSample_noImage hphase hcom h0 h1,
    fun _ hphase hheld hcom hslot hcfg hu => pgoodSample_noUcode hphase hheld hcom hslot hcfg hu, fun _ hsup hawake => pgoodFall_effect hsup hawake⟩

end Sys2Proof.Machine

/-! Bring-up: training, leaf repair, the DRAM test and the end (R413, R414, R506 to R509, R514). -/

namespace Sys2Proof.Machine
open Sys2Proof.Claims

/-! ### Leaf repair (R507) -/

/-- What leaf repair leaves as it was. -/
def RepairFrame (s t : State) : Prop := t = { s with lv := t.lv, boot := { s.boot with map := t.boot.map, fuses := t.boot.fuses }, caddy := t.caddy }

theorem repairFrame_trans {s t u : State} (a : RepairFrame s t) (b : RepairFrame t u) : RepairFrame s u := by
  unfold RepairFrame at *
  rw [b, a]

theorem repairFrame_foldl {β : Type} {f : State → β → State} (hf : ∀ s x, RepairFrame s (f s x)) (l : List β) (s : State) :
    RepairFrame s (l.foldl f s) := foldl_related (R := RepairFrame) (fun _ => rfl) repairFrame_trans hf l s

theorem repairEvent_effect (l res runs : Nat) (s : State) : RepairFrame s (repairEvent l res runs s) ∧ Told 1 s (repairEvent l res runs s) ∧
    ∀ j, getLeaf (repairEvent l res runs s) j = getLeaf s j :=
  ⟨event_only_caddy (by decide) .., told_event .., fun _ => rfl⟩

theorem told_repairSet (l res runs : Nat) (k : LeafKind) (s : State) : RepairFrame s (repairEvent l res runs (setKind l k s)) ∧
    Told 1 s (repairEvent l res runs (setKind l k s)) :=
  ⟨rfl, (Told.of_caddy (t := setKind l k s) rfl).trans (told_event ..)⟩

theorem repairTest_effect (s : State) (l : Nat) : RepairFrame s (repairTest s l) ∧ Told 1 s (repairTest s l) := by
  unfold repairTest
  dsimp only
  generalize (if (getLeaf s l).kind = .fenced then 3 else 1) = runs
  split
  · exact ⟨rfl, (Told.refl s).mono (Nat.zero_le 1)⟩
  · split
    · obtain ⟨hframe, htold⟩ := told_repairSet l 1 runs .fusedOff s
      exact ⟨repairFrame_trans hframe rfl, htold.same rfl⟩
    · split
      · exact told_repairSet l 2 runs .spare s
      · exact ⟨(repairEvent_effect l 0 runs s).1, (repairEvent_effect l 0 runs s).2.1⟩

theorem repairReplace_effect (s : State) (l : Nat) : RepairFrame s (repairReplace s l) ∧ Told 1 s (repairReplace s l) := by
  unfold repairReplace
  split
  · exact told_repairSet _ 3 1 .enabled s
  · exact ⟨rfl, (Told.refl s).mono (Nat.zero_le 1)⟩

theorem setUcode_effect (s : State) : RepairFrame s (setUcode s) ∧ (setUcode s).caddy = s.caddy ∧
    ∀ j, (getLeaf (setUcode s) j).kind = (getLeaf s j).kind := by
  unfold setUcode
  refine ⟨repairFrame_foldl (by exact fun _ _ => rfl) _ s, keeps_foldl State.caddy (by exact fun _ _ => rfl) _ s,
    fun j => keeps_foldl (fun v : State => (getLeaf v j).kind) (fun v l => ?_) _ s⟩
  by_cases hj : j = l
  · rw [hj, getLeaf_modLeaf_same]
  · rw [getLeaf_modLeaf_ne _ _ hj]

/-- The leaves as the map names them, and each of them tested. -/
def mapped (s : State) : State :=
  let v := modBoot s fun b => { b with map := if (bootInput s).leafMapOk then b.map else b.fuses }
  { v with lv := mapLeaves v }
def tested (s : State) : State := leafIdx.foldl repairTest (mapped s)
/-- Spares stand in for the enabled leaves that failed. -/
def replaced (s : State) : State :=
  ((leavesOf (mapped s) .enabled).filter fun l => decide ((getLeaf (tested s) l).kind = .fusedOff)).foldl repairReplace (tested s)
/-- With fewer than 160 good leaves every one is enabled. -/
def enabledAll (s : State) : State :=
  if (leavesOf (replaced s) .enabled).length + spareCount (replaced s) < 160 then
    (leavesOf (replaced s) .spare).foldl (fun s l => repairEvent l 3 1 (setKind l .enabled s)) (replaced s)
  else replaced s

theorem leafRepair_eq (s : State) : leafRepair s = setUcode (enabledAll s) := rfl

theorem length_leafIdx : leafIdx.length = 168 := List.length_range

theorem leavesOf_length_le (s : State) (k : LeafKind) : (leavesOf s k).length ≤ 168 :=
  (List.length_filter_le _ _).trans length_leafIdx.le

theorem leafRepair_effect (s : State) : RepairFrame s (leafRepair s) ∧ Told 504 s (leafRepair s) := by
  have htest : RepairFrame s (tested s) ∧ Told 168 s (tested s) := by
    have hfold := Told.foldl (fun v l => (repairTest_effect v l).2) leafIdx (mapped s)
    rw [length_leafIdx, Nat.mul_one] at hfold
    have hfirst : RepairFrame s (mapped s) := rfl
    have hframe := repairFrame_trans hfirst (repairFrame_foldl (fun v l => (repairTest_effect v l).1) leafIdx (mapped s))
    have hmap : Told 0 s (mapped s) := .of_caddy rfl
    have htold := hmap.trans hfold
    rw [Nat.zero_add] at htold
    exact ⟨hframe, htold⟩
  have hrepl : RepairFrame s (replaced s) ∧ Told 336 s (replaced s) := by
    have hlen := (List.length_filter_le (fun l => decide ((getLeaf (tested s) l).kind = .fusedOff)) (leavesOf (mapped s) .enabled)).trans
      (leavesOf_length_le (mapped s) .enabled)
    exact ⟨repairFrame_trans htest.1 (repairFrame_foldl (fun v l => (repairReplace_effect v l).1) _ _),
      (htest.2.trans (Told.foldl (fun v l => (repairReplace_effect v l).2) _ (tested s))).mono (by omega)⟩
  have hall : RepairFrame s (enabledAll s) ∧ Told 504 s (enabledAll s) := by
    unfold enabledAll
    split
    · have hlen := leavesOf_length_le (replaced s) .spare
      exact ⟨repairFrame_trans hrepl.1 (repairFrame_foldl (fun v l => (told_repairSet l 3 1 .enabled v).1) _ _),
        (hrepl.2.trans (Told.foldl (fun v l => (told_repairSet l 3 1 .enabled v).2) _ (replaced s))).mono (by omega)⟩
    · exact ⟨hrepl.1, hrepl.2.mono (by decide)⟩
  obtain ⟨hframe, hcaddy, -⟩ := setUcode_effect (enabledAll s)
  exact ⟨repairFrame_trans hall.1 hframe, hall.2.same hcaddy⟩

/-! ### A repair in which no leaf fails -/

/-- The kind that the leaf map gives. -/
def mapKind (v : Nat) : LeafKind := if v = 0 then .fusedOff else if v = 1 then .spare else if v = 2 then .enabled else .fenced

theorem kind_mapLeaves {s : State} (hwf : Tab.wf s.boot.map = true) (l : Nat) :
    (tget (mapLeaves s).leaf l).kind = mapKind (tget s.boot.map l) := by
  unfold mapLeaves
  generalize s.boot.map = m at hwf ⊢
  dsimp only
  induction m with
  | nil => rfl
  | cons e m ih =>
    obtain ⟨hne, -, hrest⟩ := Tab.wf_cons.1 hwf
    rw [List.filter_cons_of_pos (by simpa using hne), List.map_cons]
    unfold tget
    by_cases hkey : e.1 = l
    · rw [if_pos hkey, if_pos hkey]
      have hne' : e.2 ≠ 0 := hne
      unfold mapKind
      rw [if_neg hne']
    · rw [if_neg hkey, if_neg hkey]
      exact ih hrest

section
variable {s : State} (hfail : (bootInput s).leafFail = [])
include hfail

/-- A leaf whose test passes keeps its kind, but that a fenced one becomes a spare. -/
theorem kind_repairTest (l j : Nat) : (getLeaf (repairTest s l) j).kind =
    if j = l ∧ (getLeaf s j).kind = .fenced then .spare else (getLeaf s j).kind := by
  have hset : ∀ v : State, (∀ k, getLeaf v k = getLeaf s k) → (getLeaf (setKind l .spare v) j).kind = if j = l then .spare else (getLeaf s j).kind := by
    intro v hv
    by_cases hj : j = l
    · rw [if_pos hj, hj]
      exact kind_setKind ..
    · rw [if_neg hj]
      exact congrArg Leaf.kind ((getLeaf_modLeaf_ne v (fun x => { x with kind := .spare }) hj).trans (hv j))
  unfold repairTest
  dsimp only
  rw [hfail]
  by_cases hoff : (getLeaf s l).kind = .fusedOff
  · rw [if_pos hoff, if_neg]
    rintro ⟨rfl, h⟩
    rw [hoff] at h
    cases h
  · rw [if_neg hoff, if_neg (by simp)]
    by_cases hfenced : (getLeaf s l).kind = .fenced
    · rw [if_pos hfenced, (repairEvent_effect ..).2.2, hset s fun _ => rfl]
      by_cases hj : j = l
      · rw [if_pos hj, if_pos ⟨hj, by rw [hj]; exact hfenced⟩]
      · rw [if_neg hj, if_neg fun h => hj h.1]
    · rw [if_neg hfenced, (repairEvent_effect ..).2.2, if_neg]
      rintro ⟨rfl, h⟩
      exact hfenced h

end

theorem bootInput_repair {s t : State} (h : RepairFrame s t) : bootInput t = bootInput s := bootInput_congr (by rw [h])

theorem kind_repairTests {s : State} (hfail : (bootInput s).leafFail = []) (ls : List Nat) (j : Nat) : (getLeaf (ls.foldl repairTest s) j).kind =
    if j ∈ ls ∧ (getLeaf s j).kind = .fenced then .spare else (getLeaf s j).kind := by
  induction ls generalizing s with
  | nil => simp
  | cons l ls ih =>
    have hstep := (repairTest_effect s l).1
    rw [List.foldl_cons, ih (by rw [bootInput_repair hstep]; exact hfail), kind_repairTest hfail]
    by_cases hf : (getLeaf s j).kind = .fenced
    · by_cases hj : j = l
      · subst hj
        simp [hf]
      · simp [hf, hj]
    · simp [hf]

section
variable {s : State} (hok : (bootInput s).leafMapOk = true) (hfail : (bootInput s).leafFail = []) (hwf : Tab.wf s.boot.map = true)
include hok hwf

theorem kind_mapped (l : Nat) : (getLeaf (mapped s) l).kind = mapKind (tget s.boot.map l) := by
  unfold mapped
  simp only [hok, if_true]
  exact kind_mapLeaves (s := modBoot s fun b => { b with map := b.map }) hwf l

include hfail

theorem kind_tested {l : Nat} (hl : l < 168) : (getLeaf (tested s) l).kind =
    if mapKind (tget s.boot.map l) = .fenced then .spare else mapKind (tget s.boot.map l) := by
  unfold tested
  rw [kind_repairTests (s := mapped s) hfail, kind_mapped hok hwf]
  simp [leafIdx, hl]

theorem replaced_tested : replaced s = tested s := by
  have hnone : (leavesOf (mapped s) .enabled).filter (fun l => decide ((getLeaf (tested s) l).kind = .fusedOff)) = [] := by
    refine List.filter_eq_nil_iff.2 fun l hl => ?_
    obtain ⟨hidx, hen⟩ := List.mem_filter.1 hl
    rw [kind_mapped hok hwf, decide_eq_true_eq] at hen
    rw [kind_tested hok hfail hwf (List.mem_range.1 hidx), hen]
    decide
  unfold replaced
  rw [hnone, List.foldl_nil]

/-- Every leaf that the map names is good, as an enabled leaf or as a spare. -/
theorem goodLeaves : (leavesOf (tested s) .enabled).length + spareCount (tested s) =
    ((List.range 168).filter fun l => decide (tget s.boot.map l ≠ 0)).length := by
  have hsplit : ∀ ls : List Nat, (∀ l ∈ ls, l < 168) → (ls.filter fun l => decide ((getLeaf (tested s) l).kind = .enabled)).length +
      (ls.filter fun l => decide ((getLeaf (tested s) l).kind = .spare)).length = (ls.filter fun l => decide (tget s.boot.map l ≠ 0)).length := by
    intro ls
    induction ls with
    | nil => exact fun _ => rfl
    | cons l ls ih =>
      intro hall
      have hrest := ih fun x hx => hall x (List.mem_cons_of_mem l hx)
      have hkind := kind_tested hok hfail hwf (hall l List.mem_cons_self)
      unfold mapKind at hkind
      simp only [ne_eq, decide_not] at hrest ⊢
      by_cases h0 : tget s.boot.map l = 0
      · simp [h0] at hkind
        simp [h0, hkind, hrest]
      · by_cases h1 : tget s.boot.map l = 1
        · simp [h1] at hkind
          simp [h1, hkind, ← hrest]
          omega
        · by_cases h2 : tget s.boot.map l = 2
          · simp [h2] at hkind
            simp [h2, hkind, ← hrest]
            omega
          · simp [h0, h1, h2] at hkind
            simp [h0, hkind, ← hrest]
            omega
  exact hsplit (List.range 168) fun l hl => List.mem_range.1 hl

theorem kind_repaired_enabled {l : Nat} (hl : l < 168) (hmap : tget s.boot.map l = 2) : (getLeaf (leafRepair s) l).kind = .enabled := by
  have hen : (getLeaf (tested s) l).kind = .enabled := by
    rw [kind_tested hok hfail hwf hl, hmap]
    rfl
  rw [leafRepair_eq, (setUcode_effect _).2.2]
  unfold enabledAll
  rw [replaced_tested hok hfail hwf]
  split
  · generalize leavesOf (tested s) .spare = ls
    generalize tested s = v at hen
    induction ls generalizing v with
    | nil => exact hen
    | cons x ls ih =>
      refine ih _ ?_
      rw [(repairEvent_effect ..).2.2]
      by_cases hx : l = x
      · rw [hx]
        exact kind_setKind ..
      · exact (congrArg Leaf.kind (getLeaf_modLeaf_ne v (fun y => { y with kind := .enabled }) hx)).trans hen
  · exact hen

theorem kind_repaired_spare {l : Nat} (hl : l < 168) (hmany : 160 ≤ ((List.range 168).filter fun l => decide (tget s.boot.map l ≠ 0)).length)
    (hmap : tget s.boot.map l = 1 ∨ 3 ≤ tget s.boot.map l) : (getLeaf (leafRepair s) l).kind = .spare := by
  rw [leafRepair_eq, (setUcode_effect _).2.2]
  unfold enabledAll
  rw [replaced_tested hok hfail hwf, goodLeaves hok hfail hwf, if_neg (by omega), kind_tested hok hfail hwf hl]
  unfold mapKind
  rcases hmap with h | h
  · rw [h]
    rfl
  · rw [if_neg (show ¬ tget s.boot.map l = 0 by omega), if_neg (show ¬ tget s.boot.map l = 1 by omega),
      if_neg (show ¬ tget s.boot.map l = 2 by omega)]
    rfl

end

/-! ### Training (R506) -/

theorem linkIsUp_told (u : Nat) (s : State) : Told 1 s (linkIsUp u s) ∧ tget (linkIsUp u s).boot.linkUp u = 1 ∧
    (u = 19 → (linkIsUp u s).field.linkUp = true ∧ (linkIsUp u s).field.holding = false) := by
  unfold linkIsUp
  dsimp only
  split
  · exact ⟨(Told.of_caddy rfl).mono (Nat.zero_le 1), tget_tput_same s.boot.linkUp u 1, fun _ => ⟨rfl, rfl⟩⟩
  · next h19 =>
    split
    · obtain ⟨-, -, -, -, hboot, -⟩ := crossUp_effect 0 0 (modBoot s fun b => { b with linkUp := tput b.linkUp u 1 })
      obtain ⟨r, hr⟩ := wrote_crossUp 0 0 (modBoot s fun b => { b with linkUp := tput b.linkUp u 1 })
      have hfirst : Told 0 s (modBoot s fun b => { b with linkUp := tput b.linkUp u 1 }) := .of_caddy rfl
      exact ⟨hfirst.trans (told_wrote hr), by rw [hboot]; exact tget_tput_same _ _ _, fun h => absurd h h19⟩
    · split
      · exact ⟨(Told.of_caddy rfl).mono (Nat.zero_le 1), tget_tput_same s.boot.linkUp u 1, fun h => absurd h h19⟩
      · exact ⟨(Told.of_caddy rfl).mono (Nat.zero_le 1), tget_tput_same s.boot.linkUp u 1, fun h => absurd h h19⟩

/-- A trainer's result is in the Caddy, and counted. -/
def trainedAt (u k n : Nat) (good : Bool) (s : State) : State := trainEvent u good n (modBoot s fun b => { b with attempts := tput b.attempts u k })

theorem trainedAt_logs {u k n m : Nat} {good : Bool} {s t : State} (h : Told m (trainedAt u k n good s) t) (hm : m < 1024) :
    Logs 0xA035 srcAfzan (leBytes 1 u ++ leBytes 1 (b2n !good) ++ leBytes 1 n) s t :=
  Told.logs (u := modBoot s fun b => { b with attempts := tput b.attempts u k }) h rfl rfl (by simp) hm

/-- A channel group that trained. -/
def groupUp (u : Nat) (s : State) : State := modBoot s fun b => { b with linkUp := tput b.linkUp u 1 }
/-- Whether all eight are up. -/
def groupsUp (s : State) : Bool := (List.range 8).all fun c => decide (tget s.boot.linkUp c = 1)
/-- Leaf repair runs beside the memory test, which begins. -/
def testBegun (s : State) : State := modBoot (leafRepair s) fun b => { b with phase := 6, round := 1 }

theorem testBegun_effect (s : State) : (testBegun s).boot.linkUp = s.boot.linkUp ∧ (testBegun s).boot.attempts = s.boot.attempts ∧
    Told 504 s (testBegun s) ∧ (testBegun s).boot.phase = 6 ∧ (testBegun s).boot.round = 1 ∧
    ∀ l, getLeaf (testBegun s) l = getLeaf (leafRepair s) l := by
  obtain ⟨hframe, htold⟩ := leafRepair_effect s
  unfold testBegun
  generalize leafRepair s = t at hframe htold ⊢
  unfold RepairFrame at hframe
  have hup : t.boot.linkUp = s.boot.linkUp := (congrArg (fun v : State => v.boot.linkUp) hframe).trans rfl
  have hattempts : t.boot.attempts = s.boot.attempts := (congrArg (fun v : State => v.boot.attempts) hframe).trans rfl
  exact ⟨hup, hattempts, htold.same rfl, rfl, rfl, fun _ => rfl⟩

/-- What a channel group that trained leaves. -/
theorem groupUp_effect (u : Nat) (s : State) : Told 504 s (if groupsUp (groupUp u s) then testBegun (groupUp u s) else groupUp u s) ∧
    tget (if groupsUp (groupUp u s) then testBegun (groupUp u s) else groupUp u s).boot.linkUp u = 1 ∧
    (if groupsUp (groupUp u s) then testBegun (groupUp u s) else groupUp u s).boot.attempts = s.boot.attempts ∧
    (∀ j < 8, j ≠ u → tget s.boot.linkUp j ≠ 1 →
      (if groupsUp (groupUp u s) then testBegun (groupUp u s) else groupUp u s).boot.phase = s.boot.phase) := by
  have hnext : Told 0 s (groupUp u s) := .of_caddy rfl
  have hlink : tget (groupUp u s).boot.linkUp u = 1 := tget_tput_same s.boot.linkUp u 1
  split
  · next hall =>
    obtain ⟨hup, hattempts, htold, -, -, -⟩ := testBegun_effect (groupUp u s)
    refine ⟨(hnext.trans htold).mono (by omega), by rw [hup]; exact hlink, hattempts, fun j hj hne hdown => ?_⟩
    have hjup : tget (groupUp u s).boot.linkUp j = 1 := by simpa using List.all_eq_true.1 hall j (List.mem_range.2 hj)
    exact absurd ((tget_tput_ne s.boot.linkUp 1 hne).symm.trans hjup) hdown
  · exact ⟨hnext.mono (by omega), hlink, rfl, fun _ _ _ _ => rfl⟩

section
variable {s : State} {u : Fin 20}

theorem exec_training (good : Bool) (hsup : s.pw.supplied = true) (hheld : s.boot.held = false) (hserv : s.boot.service = false)
    (hdown : tget s.boot.linkUp u.val ≠ 1) (hphase : u.val < 8 → s.boot.phase = 5) : exec (.training u good) s = .next (
      if u.val < 8 then
        if good then
          if groupsUp (groupUp u.val (trainedAt u.val (tget s.boot.attempts u.val + 1) (tget s.boot.attempts u.val + 1) good s)) then
            testBegun (groupUp u.val (trainedAt u.val (tget s.boot.attempts u.val + 1) (tget s.boot.attempts u.val + 1) good s))
          else groupUp u.val (trainedAt u.val (tget s.boot.attempts u.val + 1) (tget s.boot.attempts u.val + 1) good s)
        else if 3 ≤ tget s.boot.attempts u.val + 1 then
          service (trainedAt u.val (tget s.boot.attempts u.val + 1) (tget s.boot.attempts u.val + 1) good s)
        else trainedAt u.val (tget s.boot.attempts u.val + 1) (tget s.boot.attempts u.val + 1) good s
      else if good then linkIsUp u.val (trainedAt u.val (min 255 (tget s.boot.attempts u.val + 1)) (tget s.boot.attempts u.val + 1) good s)
      else trainedAt u.val (min 255 (tget s.boot.attempts u.val + 1)) (tget s.boot.attempts u.val + 1) good s) := by
  show execTraining u good s = _
  unfold execTraining
  dsimp only
  rw [if_neg (by simp [hsup, hheld, hserv, hdown])]
  by_cases hu : u.val < 8
  · rw [if_pos hu, if_pos hu, if_neg (not_not.2 (hphase hu))]
    rfl
  · rw [if_neg hu, if_neg hu]
    rfl

theorem training_effect {good : Bool} (hsup : s.pw.supplied = true) (hheld : s.boot.held = false) (hserv : s.boot.service = false)
    (hdown : tget s.boot.linkUp u.val ≠ 1) (hphase : u.val < 8 → s.boot.phase = 5) :
    Runs (.training u good) s fun t =>
      Logs 0xA035 srcAfzan (leBytes 1 u.val ++ leBytes 1 (b2n !good) ++ leBytes 1 (tget s.boot.attempts u.val + 1)) s t ∧
      (good = true → tget t.boot.linkUp u.val = 1) ∧ (good = false → t.boot.linkUp = s.boot.linkUp) ∧
      (u.val < 8 → tget t.boot.attempts u.val = tget s.boot.attempts u.val + 1) ∧
      (u.val < 8 → good = false → (t.boot.service = true ↔ 2 ≤ tget s.boot.attempts u.val)) ∧
      (u.val < 8 → good = true → (∃ j < 8, j ≠ u.val ∧ tget s.boot.linkUp j ≠ 1) → t.boot.phase = 5) ∧
      (u = 19 → good = true → t.field.linkUp = true ∧ t.field.holding = false) := by
  have hexec := exec_training good hsup hheld hserv hdown hphase
  have hattempts : ∀ k, tget (trainedAt u.val k (tget s.boot.attempts u.val + 1) good s).boot.attempts u.val = k := fun k => tget_tput_same _ _ _
  refine ⟨_, hexec, ?_⟩
  by_cases hu : u.val < 8
  · have h19 : u ≠ 19 := fun h => by rw [h] at hu; exact absurd hu (by decide)
    rw [if_pos hu]
    cases good with
    | true =>
      rw [if_pos rfl]
      obtain ⟨htold, hlink, hcount, hphase'⟩ := groupUp_effect u.val
        (trainedAt u.val (tget s.boot.attempts u.val + 1) (tget s.boot.attempts u.val + 1) true s)
      exact ⟨trainedAt_logs htold (by decide), fun _ => hlink, nofun, fun _ => by rw [hcount]; exact hattempts _, nofun,
        fun _ _ ⟨j, hj, hne, hdown'⟩ => (hphase' j hj hne hdown').trans (hphase hu), fun h => absurd h h19⟩
    | false =>
      rw [if_neg Bool.false_ne_true]
      split
      · next h3 =>
        obtain ⟨hboot, -, htold, -⟩ := service_effect
          (trainedAt u.val (tget s.boot.attempts u.val + 1) (tget s.boot.attempts u.val + 1) false s)
        exact ⟨trainedAt_logs htold (by decide), nofun, fun _ => by rw [hboot]; rfl, fun _ => by rw [hboot]; exact hattempts _,
          fun _ _ => ⟨fun _ => by omega, fun _ => by rw [hboot]⟩, nofun, fun h => absurd h h19⟩
      · next h3 =>
        exact ⟨trainedAt_logs (Told.refl _) (by decide), nofun, fun _ => rfl, fun _ => hattempts _,
          fun _ _ => ⟨fun h => absurd (hserv.symm.trans h) Bool.false_ne_true, fun h => absurd h (by omega)⟩, nofun, fun h => absurd h h19⟩
  · rw [if_neg hu]
    cases good with
    | true =>
      obtain ⟨htold, hlink, hfield⟩ := linkIsUp_told u.val
        (trainedAt u.val (min 255 (tget s.boot.attempts u.val + 1)) (tget s.boot.attempts u.val + 1) true s)
      exact ⟨trainedAt_logs htold (by decide), fun _ => hlink, nofun, fun h => absurd h hu, fun h => absurd h hu, fun h => absurd h hu,
        fun h _ => hfield (by rw [h]; rfl)⟩
    | false => exact ⟨trainedAt_logs (Told.refl _) (by decide), nofun, fun _ => rfl, fun h => absurd h hu, fun h => absurd h hu,
        fun h => absurd h hu, nofun⟩

theorem training_last (hu : u.val < 8) (hsup : s.pw.supplied = true) (hheld : s.boot.held = false) (hserv : s.boot.service = false)
    (hdown : tget s.boot.linkUp u.val ≠ 1) (hphase : s.boot.phase = 5) (hothers : ∀ j < 8, j ≠ u.val → tget s.boot.linkUp j = 1)
    (hfail : (bootInput s).leafFail = []) (hok : (bootInput s).leafMapOk = true) (hwf : Tab.wf s.boot.map = true) :
    Runs (.training u true) s fun t => t.boot.phase = 6 ∧ t.boot.round = 1 ∧ (∀ l < 168, tget s.boot.map l = 2 → (getLeaf t l).kind = .enabled) ∧
      (160 ≤ ((List.range 168).filter fun l => decide (tget s.boot.map l ≠ 0)).length → ∀ l < 168,
        (tget s.boot.map l = 1 ∨ 3 ≤ tget s.boot.map l) → (getLeaf t l).kind = .spare) := by
  have hexec := exec_training true hsup hheld hserv hdown fun _ => hphase
  have hall : groupsUp (groupUp u.val (trainedAt u.val (tget s.boot.attempts u.val + 1) (tget s.boot.attempts u.val + 1) true s)) = true := by
    refine List.all_eq_true.2 fun j hj => decide_eq_true ?_
    by_cases hju : j = u.val
    · rw [hju]
      exact tget_tput_same _ _ _
    · exact (tget_tput_ne s.boot.linkUp _ hju).trans (hothers j (List.mem_range.1 hj) hju)
  rw [if_pos hu, if_pos rfl, hall, if_pos rfl] at hexec
  obtain ⟨-, -, -, hphase', hround, hleaf⟩ := testBegun_effect
    (groupUp u.val (trainedAt u.val (tget s.boot.attempts u.val + 1) (tget s.boot.attempts u.val + 1) true s))
  have hmap : (groupUp u.val (trainedAt u.val (tget s.boot.attempts u.val + 1) (tget s.boot.attempts u.val + 1) true s)).boot.map = s.boot.map := rfl
  have hin : (groupUp u.val (trainedAt u.val (tget s.boot.attempts u.val + 1) (tget s.boot.attempts u.val + 1) true s)).boot.input = s.boot.input := rfl
  generalize groupUp u.val (trainedAt u.val (tget s.boot.attempts u.val + 1) (tget s.boot.attempts u.val + 1) true s) = v
    at hexec hphase' hround hleaf hmap hin
  rw [← bootInput_congr hin] at hok hfail
  rw [← hmap] at hwf ⊢
  exact ⟨_, hexec, hphase', hround, fun l hl hl2 => by rw [hleaf]; exact kind_repaired_enabled hok hfail hwf hl hl2,
    fun hmany l hl hl1 => by rw [hleaf]; exact kind_repaired_spare hok hfail hwf hl hmany hl1⟩

end

end Sys2Proof.Machine

/-! Bring-up: the injections, the DRAM test and the end (R413, R414, R508, R509, R514). -/

namespace Sys2Proof.Machine
open Sys2Proof.Claims

/-! ### Causes of FAULT_N -/

/-- A cause taken out of FAULT_N's. -/
def clearBit (c b : Nat) : Nat := if bitOf c b then c - 2 ^ b else c

theorem bitOf_eq_testBit (v i : Nat) : bitOf v i = v.testBit i := Bool.eq_iff_iff.2 bitOf_iff_testBit

theorem bitOf_clearBit_same (c b : Nat) : bitOf (clearBit c b) b = false := by
  unfold clearBit
  split
  · next h =>
    have hle : 2 ^ b ≤ c := Nat.ge_two_pow_of_testBit (bitOf_iff_testBit.1 h)
    have hflip := Nat.testBit_two_pow_add_eq (c - 2 ^ b) b
    rw [Nat.add_sub_of_le hle, bitOf_iff_testBit.1 h] at hflip
    rw [bitOf_eq_testBit]
    simpa using hflip.symm
  · next h => simpa using h

theorem bitOf_clearBit_lower {c b j : Nat} (hj : j < b) : bitOf (clearBit c b) j = bitOf c j := by
  unfold clearBit
  split
  · next h =>
    have hle : 2 ^ b ≤ c := Nat.ge_two_pow_of_testBit (bitOf_iff_testBit.1 h)
    have hkeep := Nat.testBit_two_pow_add_gt hj (c - 2 ^ b)
    rw [Nat.add_sub_of_le hle] at hkeep
    rw [bitOf_eq_testBit, bitOf_eq_testBit, hkeep]
  · rfl

theorem bitOf_cleared (n c : Nat) : ∀ b < n, bitOf ((List.range n).foldl clearBit c) b = false := by
  induction n with
  | zero => exact fun b hb => absurd hb (Nat.not_lt_zero b)
  | succ n ih =>
    intro b hb
    rw [List.range_succ, List.foldl_append, List.foldl_cons, List.foldl_nil]
    by_cases hbn : b = n
    · rw [hbn]
      exact bitOf_clearBit_same _ n
    · rw [bitOf_clearBit_lower (by omega)]
      exact ih b (by omega)

/-! ### The injections (R413, R414) -/

/-- What the injections leave as it was. -/
def InjectFrame (s t : State) : Prop := t = { s with
  caddy := t.caddy, safe := t.safe, fresh := t.fresh, jobs := { s.jobs with pairs := t.jobs.pairs } }

theorem injectFrame_trans {s t u : State} (a : InjectFrame s t) (b : InjectFrame t u) : InjectFrame s u := by
  unfold InjectFrame at *
  rw [b, a]

theorem injectFrame_foldl {β : Type} {f : State → β → State} (hf : ∀ s x, InjectFrame s (f s x)) (l : List β) (s : State) :
    InjectFrame s (l.foldl f s) := foldl_related (R := InjectFrame) (fun _ => rfl) injectFrame_trans hf l s

theorem injectStep_effect (s : State) (k : Nat) : InjectFrame s (injectStep s k) ∧ (injectStep s k).safe.causes = s.safe.causes ∧
    Told 1 s (injectStep s k) := by
  obtain ⟨⟨r, hr⟩, -⟩ := injectStep_frame s k
  refine ⟨?_, ?_, told_wrote hr⟩
  · unfold injectStep
    dsimp only
    split <;> rfl
  · unfold injectStep
    dsimp only
    split <;> rfl

theorem dissolve_effect (p : Pair) (cause : Nat) (s : State) : InjectFrame s (dissolve p cause s) ∧ Told 1 s (dissolve p cause s) :=
  ⟨rfl, (Told.of_caddy (t := { s with jobs := { s.jobs with pairs := s.jobs.pairs.filter fun x => decide (x ≠ p) } }) rfl).trans (told_event ..)⟩

theorem injectSteps_effect (ks : List Nat) (s : State) : InjectFrame s (ks.foldl injectStep s) ∧ Told ks.length s (ks.foldl injectStep s) ∧
    (ks.foldl injectStep s).safe.causes = s.safe.causes ∧ (ks.foldl injectStep s).jobs = s.jobs :=
  ⟨injectFrame_foldl (fun v k => (injectStep_effect v k).1) ks s,
    (Told.foldl (fun v k => (injectStep_effect v k).2.2) ks s).mono (Nat.mul_one _).le,
    keeps_foldl (fun v : State => v.safe.causes) (fun v k => (injectStep_effect v k).2.1) ks s,
    keeps_foldl State.jobs (fun v k => (injectStep_frame v k).2.1) ks s⟩

theorem stepPasses_congr {s t : State} (h : t.boot.input = s.boot.input) (k : Nat) : stepPasses t k = stepPasses s k := by
  unfold stepPasses
  rw [h]

theorem passes_congr {s t : State} (h : t.boot.input = s.boot.input) (ks : List Nat) : ks.all (stepPasses t) = ks.all (stepPasses s) :=
  congrArg ks.all (funext fun k => stepPasses_congr h k)

/-- What an injection sequence leaves: all of it passes and the causes stay, or FAULT_N has cause 3. -/
theorem inject_effect (ks : List Nat) (s : State) : InjectFrame s (inject ks s) ∧ Told (ks.length + s.jobs.pairs.length + 1) s (inject ks s) ∧
    (ks.all (stepPasses s) = true → (inject ks s).safe.causes = s.safe.causes) ∧
    (ks.all (stepPasses s) = false → bitOf (inject ks s).safe.causes 3 = true) := by
  obtain ⟨hframe, htold, hcauses, hjobs⟩ := injectSteps_effect ks s
  have hin : (ks.foldl injectStep s).boot.input = s.boot.input := by
    unfold InjectFrame at hframe
    rw [hframe]
  unfold inject
  dsimp only
  rw [passes_congr hin]
  generalize ks.foldl injectStep s = v at hframe htold hcauses hjobs ⊢
  split
  · next hall => exact ⟨hframe, htold.mono (by omega), fun _ => hcauses, fun h => by rw [hall] at h; cases h⟩
  · next hfail =>
    have hpairs := Told.foldl (fun u p => (dissolve_effect p 3 u).2) v.jobs.pairs v
    have hpframe := injectFrame_foldl (fun u p => (dissolve_effect p 3 u).1) v.jobs.pairs v
    rw [Nat.mul_one, hjobs] at hpairs
    rw [hjobs] at hpframe ⊢
    generalize s.jobs.pairs.foldl (fun s p => dissolve p 3 s) v = w at hpairs hpframe ⊢
    obtain ⟨hbit, haf, hw⟩ := assertFrom_effect 0x2000 3 w
    refine ⟨injectFrame_trans (injectFrame_trans hframe hpframe) ?_, (htold.trans hpairs).trans (told_wrote hw), fun h => absurd h hfail, fun _ => hbit⟩
    unfold InjectFrame
    exact haf

/-! ### The end of bring-up -/

/-- What the release of harts leaves as it was. -/
def HartsFrame (s t : State) : Prop := t = { s with
  world := { s.world with stopped := t.world.stopped }, pw := { s.pw with hartA0 := t.pw.hartA0, hartPc := t.pw.hartPc } }

theorem hartsFrame_trans {s t u : State} (a : HartsFrame s t) (b : HartsFrame t u) : HartsFrame s u := by
  unfold HartsFrame at *
  rw [b, a]

theorem releaseHarts_frame (g : Nat → Bool) (cause : Nat) (s : State) : HartsFrame s (releaseHarts g cause s) := by
  unfold releaseHarts
  extract_lets f w v
  have hfirst : HartsFrame s v := rfl
  refine hartsFrame_trans hfirst (foldl_related (R := HartsFrame) (fun _ => rfl) hartsFrame_trans (fun u h => ?_) _ _)
  dsimp only
  split <;> rfl

theorem releaseFaults_frame (bits : List Nat) (s : State) : releaseFaults bits s = { s with
      safe := { s.safe with causes := (releaseFaults bits s).safe.causes } } ∧
    (allSteps.all (stepPasses s) = true → (releaseFaults bits s).safe.causes = bits.foldl clearBit s.safe.causes) ∧
    (allSteps.all (stepPasses s) = false → releaseFaults bits s = s) := by
  unfold releaseFaults
  split
  · next h => exact ⟨rfl, fun _ => rfl, fun h' => by rw [h] at h'; cases h'⟩
  · next h => exact ⟨rfl, fun h' => absurd h' h, fun _ => rfl⟩

/-- What the end of bring-up leaves as it was. -/
def FinishFrame (s t : State) : Prop := t = { s with
  caddy := t.caddy, safe := t.safe, fresh := t.fresh, jobs := { s.jobs with pairs := t.jobs.pairs, idleSince := t.jobs.idleSince }
  world := { s.world with stopped := t.world.stopped }, pw := { s.pw with hartA0 := t.pw.hartA0, hartPc := t.pw.hartPc }
  boot := { s.boot with phase := t.boot.phase, ready := t.boot.ready, held := t.boot.held } }

/-- The state that the Kettle announces: the injections have run, and the harts go. -/
def released (causes : List Nat) (s : State) : State := releaseHarts (fun _ => true) 0 (releaseFaults causes (inject allSteps s))

/-- Event 0xA031 of a run that has come to its end. -/
def readyEvent (s : State) : State :=
  event srcAfzan 0xA031 noParty (leBytes 1 (draw s).2.boot.kind ++ leBytes 4 (Config.freeNat (draw s).1) ++ leBytes 1 (leavesOf (draw s).2 .enabled).length ++
    leBytes 1 (spareCount (draw s).2) ++ leBytes 1 0) (draw s).2

theorem finishBoot_eq {s : State} (causes : List Nat) (hworlds : (bootInput s).worlds = true) : finishBoot causes s =
    { (modBoot (readyEvent (released causes s)) fun b => { b with phase := 10, ready := true }) with
      jobs := { (readyEvent (released causes s)).jobs with idleSince := (readyEvent (released causes s)).ktime } } := by
  unfold finishBoot
  rw [hworlds]
  rfl

theorem released_effect (causes : List Nat) (s : State) : FinishFrame s (released causes s) ∧ (released causes s).boot = s.boot ∧
    Told (8 + s.jobs.pairs.length) s (released causes s) ∧
    (allSteps.all (stepPasses s) = true → (released causes s).safe.causes = causes.foldl clearBit s.safe.causes) ∧
    (allSteps.all (stepPasses s) = false → bitOf (released causes s).safe.causes 3 = true) := by
  obtain ⟨hframe, htold, hpass, hfail⟩ := inject_effect allSteps s
  have hin : (inject allSteps s).boot.input = s.boot.input := by
    unfold InjectFrame at hframe
    rw [hframe]
  unfold released
  generalize inject allSteps s = v at hframe htold hpass hfail hin ⊢
  obtain ⟨hrf, hrpass, hrfail⟩ := releaseFaults_frame causes v
  rw [passes_congr hin] at hrpass hrfail
  have hharts := releaseHarts_frame (fun _ => true) 0 (releaseFaults causes v)
  generalize releaseFaults causes v = w at hrf hrpass hrfail hharts ⊢
  generalize releaseHarts (fun _ => true) 0 w = t at hharts ⊢
  unfold HartsFrame at hharts
  unfold InjectFrame at hframe
  have hcaddy : t.caddy = v.caddy := by rw [hharts, hrf]
  have hsafe : t.safe.causes = w.safe.causes := by rw [hharts]
  refine ⟨?_, by rw [hharts, hrf, hframe], (htold.same hcaddy).mono (by simp [allSteps]), fun h => ?_, fun h => ?_⟩
  · unfold FinishFrame
    rw [hharts, hrf, hframe]
  · rw [hsafe, hrpass h, hpass h]
  · rw [hsafe, hrfail h]
    exact hfail h

theorem finishBoot_good {s : State} (causes : List Nat) (hworlds : (bootInput s).worlds = true) : FinishFrame s (finishBoot causes s) ∧
    (finishBoot causes s).boot = { s.boot with phase := 10, ready := true } ∧ Told (9 + s.jobs.pairs.length) s (finishBoot causes s) ∧
    (allSteps.all (stepPasses s) = true → (finishBoot causes s).safe.causes = causes.foldl clearBit s.safe.causes) ∧
    (allSteps.all (stepPasses s) = false → bitOf (finishBoot causes s).safe.causes 3 = true) := by
  obtain ⟨hframe, hboot, htold, hpass, hfail⟩ := released_effect causes s
  have hev : readyEvent (released causes s) = { released causes s with
      caddy := (readyEvent (released causes s)).caddy, fresh := (readyEvent (released causes s)).fresh } := by
    unfold readyEvent
    exact (event_only_caddy (by decide) ..).trans rfl
  have hevtold : Told 1 (released causes s) (readyEvent (released causes s)) := by
    have hdraw : Told 0 (released causes s) (draw (released causes s)).2 := .of_caddy rfl
    exact hdraw.trans (told_event ..)
  rw [finishBoot_eq causes hworlds]
  generalize released causes s = v at hframe hboot htold hpass hfail hev hevtold ⊢
  generalize readyEvent v = w at hev hevtold ⊢
  refine ⟨?_, ?_, ((htold.trans hevtold).same rfl).mono (by omega), fun h => ?_, fun h => ?_⟩
  · unfold FinishFrame at *
    rw [hev, hframe]
    rfl
  · show { w.boot with phase := 10, ready := true } = { s.boot with phase := 10, ready := true }
    rw [hev, ← hboot]
  · show w.safe.causes = _
    rw [hev]
    exact hpass h
  · show bitOf w.safe.causes 3 = true
    rw [hev]
    exact hfail h

theorem finishBoot_bad {s : State} (causes : List Nat) (hworlds : (bootInput s).worlds = false) : finishBoot causes s = bootHeld 1 5 0 s := by
  unfold finishBoot
  rw [hworlds]
  rfl

/-- Every injection passes where none was met that fails. -/
theorem passes_iff (s : State) : allSteps.all (stepPasses s) = true ↔ (bootInput s).injectFail = [] := by
  unfold stepPasses bootInput
  cases hin : s.boot.input with
  | none => simp [allSteps]
  | some r =>
    constructor
    · intro hall
      refine List.eq_nil_iff_forall_not_mem.2 fun x hx => ?_
      have hstep := List.all_eq_true.1 hall (x.val + 1) (by
        have := x.isLt
        simp only [allSteps, List.mem_cons, List.not_mem_nil, or_false]
        omega)
      simp only [Bool.not_eq_true', List.any_eq_false, decide_eq_true_eq] at hstep
      exact hstep x hx rfl
    · intro hnone
      have hnil : r.injectFail = [] := hnone
      simp [hnil]

/-! ### The DRAM test (R508) -/

/-- A fold of events writes one record for each, and changes nothing else. -/
theorem wrote_events {β : Type} {code : Nat} (hcode : code / 0x100 ≠ 0x30) (src : β → Nat) (args : β → List Byte) (l : List β) (s : State) :
    Wrote (l.map fun c => recOf (src c) code noParty (args c) s) s (l.foldl (fun s c => event (src c) code noParty (args c) s) s) ∧
    l.foldl (fun s c => event (src c) code noParty (args c) s) s =
      { s with caddy := (l.foldl (fun s c => event (src c) code noParty (args c) s) s).caddy } := by
  induction l generalizing s with
  | nil => exact ⟨.refl s, rfl⟩
  | cons c l ih =>
    obtain ⟨hw, hf⟩ := ih (event (src c) code noParty (args c) s)
    have hfirst : Wrote [recOf (src c) code noParty (args c) s] s (event (src c) code noParty (args c) s) := (Wrote.refl s).event ..
    have hev := event_only_caddy hcode (src c) noParty (args c) s
    rw [List.foldl_cons, List.map_cons]
    refine ⟨hfirst.trans hw, ?_⟩
    generalize l.foldl _ (event (src c) code noParty (args c) s) = t at hf ⊢
    exact hf.trans ((congrArg (fun v : State => { v with caddy := t.caddy }) hev).trans rfl)

/-- Event 0xA033's arguments of a channel group. -/
def roundArgs (one : List Nat) (k c : Nat) : List Byte := leBytes 1 c ++ leBytes 1 k ++ leBytes 4 (one.getD c 0) ++ leBytes 2 0 ++ leBytes 1 0
def isBad (bad : List (Fin 8)) (c : Nat) : Bool := bad.any fun x => decide (x.val = c)
def rowArgs (rows : List Nat) (bad : List (Fin 8)) (c : Nat) : List Byte :=
  leBytes 1 c ++ leBytes 1 0 ++ leBytes 4 0 ++ leBytes 2 (rows.getD c 0) ++ leBytes 1 (b2n (isBad bad c))

/-- A round's records. -/
def roundTold (one : List Nat) (k : Nat) (s : State) : State := (List.range 8).foldl (fun s c => event (srcMc c) 0xA033 noParty (roundArgs one k c) s) s
/-- The channel groups with rows to tell of. -/
def rowGroups (rows : List Nat) (bad : List (Fin 8)) : List Nat := (List.range 8).filter fun c => !(decide (rows.getD c 0 = 0) && !isBad bad c)
/-- The records of repaired rows. -/
def rowsTold (rows : List Nat) (bad : List (Fin 8)) (s : State) : State :=
  (rowGroups rows bad).foldl (fun s c => event (srcMc c) 0xA033 noParty (rowArgs rows bad c) s) s
/-- The state after the last round. -/
def testEnded (one rows : List Nat) (bad : List (Fin 8)) (s : State) : State :=
  dramLost false (modBoot (rowsTold rows bad (roundTold one s.boot.round s)) fun b => { b with round := 0 })

section
variable {one rows : List Nat} {bad : List (Fin 8)} {s : State}

theorem exec_dramTestRound (hphase : s.boot.phase = 6) (hserv : s.boot.service = false) (hheld : s.boot.held = false) :
    exec (.dramTestRound one rows bad) s = .next (if s.boot.round < 4 then modBoot (roundTold one s.boot.round s) fun b => { b with round := s.boot.round + 1 }
      else if bad.isEmpty then finishBoot allCauses (testEnded one rows bad s) else service (testEnded one rows bad s)) := by
  have hrows : ∀ v : State, rowsTold rows bad v = (List.range 8).foldl (fun s c => if rows.getD c 0 = 0 ∧ (!isBad bad c) = true then s
      else event (srcMc c) 0xA033 noParty (rowArgs rows bad c) s) v := by
    intro v
    unfold rowsTold rowGroups
    rw [List.foldl_filter]
    refine List.foldl_ext _ _ v fun u c _ => ?_
    by_cases h0 : rows.getD c 0 = 0 <;> cases isBad bad c <;> simp
  show execDramTestRound one rows bad s = _
  unfold execDramTestRound testEnded
  rw [hrows]
  dsimp only
  rw [if_neg (by simp [hphase, hserv, hheld])]
  rfl

theorem testEnded_effect : (∃ rs : List CadRec, rs.length = 8 + (rowGroups rows bad).length ∧ Wrote rs s (testEnded one rows bad s) ∧
      ∀ i, (h : i < (rowGroups rows bad).length) → ∃ hi : 8 + i < rs.length,
        rs[8 + i] = recOf (srcMc (rowGroups rows bad)[i]) 0xA033 noParty (rowArgs rows bad (rowGroups rows bad)[i]) s) ∧
    (testEnded one rows bad s).boot = { s.boot with round := 0 } ∧ (∀ a, tget (testEnded one rows bad s).mem.cells a = 0) := by
  obtain ⟨hw1, hf1⟩ := wrote_events (code := 0xA033) (by decide) srcMc (roundArgs one s.boot.round) (List.range 8) s
  obtain ⟨hw2, hf2⟩ := wrote_events (code := 0xA033) (by decide) srcMc (rowArgs rows bad) (rowGroups rows bad) (roundTold one s.boot.round s)
  have htime : ∀ c, recOf (srcMc c) 0xA033 noParty (rowArgs rows bad c) (roundTold one s.boot.round s) =
      recOf (srcMc c) 0xA033 noParty (rowArgs rows bad c) s := fun c => by
    rw [recOf, recOf, show (roundTold one s.boot.round s).ktime = s.ktime from hw1.ktime]
  simp only [htime] at hw2
  have hboot : (rowsTold rows bad (roundTold one s.boot.round s)).boot = s.boot := by
    unfold rowsTold
    rw [hf2]
    show (roundTold one s.boot.round s).boot = s.boot
    unfold roundTold
    rw [hf1]
  refine ⟨⟨_, ?_, (hw1.trans hw2).same rfl rfl, fun i hi => ?_⟩, ?_, fun a => rfl⟩
  · rw [List.length_append, List.length_map, List.length_map, List.length_range]
  · have hlen : ((List.range 8).map fun c => recOf (srcMc c) 0xA033 noParty (roundArgs one s.boot.round c) s).length = 8 := by
      rw [List.length_map, List.length_range]
    refine ⟨by rw [List.length_append, hlen, List.length_map]; omega, ?_⟩
    rw [List.getElem_append_right (by rw [hlen]; omega), List.getElem_map]
    simp only [hlen, Nat.add_sub_cancel_left]
  · exact congrArg (fun b : Boot => { b with round := 0 }) hboot

theorem dramTestRound_next (hphase : s.boot.phase = 6) (hserv : s.boot.service = false) (hheld : s.boot.held = false) (hround : s.boot.round < 4) :
    Runs (.dramTestRound one rows bad) s fun t => t.boot = { s.boot with round := s.boot.round + 1 } ∧
      t = { s with boot := t.boot, caddy := t.caddy } ∧ ∀ c < 8, LogsNth c 0xA033 (srcMc c)
        (leBytes 1 c ++ leBytes 1 s.boot.round ++ leBytes 4 (one.getD c 0) ++ leBytes 2 0 ++ leBytes 1 0) s t := by
  have hexec := exec_dramTestRound (one := one) (rows := rows) (bad := bad) hphase hserv hheld
  rw [if_pos hround] at hexec
  obtain ⟨hw, hf⟩ := wrote_events (code := 0xA033) (by decide) srcMc (roundArgs one s.boot.round) (List.range 8) s
  refine ⟨_, hexec, ?_, ?_, fun c hc => ?_⟩
  · have hboot : (roundTold one s.boot.round s).boot = s.boot := by unfold roundTold; rw [hf]
    exact congrArg (fun b : Boot => { b with round := s.boot.round + 1 }) hboot
  · unfold roundTold
    generalize (List.range 8).foldl _ s = t at hf ⊢
    exact (congrArg (fun v : State => modBoot v fun b => { b with round := s.boot.round + 1 }) hf).trans (by rw [hf]; rfl)
  · have hlen : ((List.range 8).map fun c => recOf (srcMc c) 0xA033 noParty (roundArgs one s.boot.round c) s).length = 8 := by
      rw [List.length_map, List.length_range]
    refine (hw.same (u := modBoot (roundTold one s.boot.round s) fun b => { b with round := s.boot.round + 1 }) rfl rfl).logsNth (party := noParty)
      (by rw [hlen]; exact hc) (by rw [hlen]; decide) ?_ (by simp)
    rw [List.getElem_map, List.getElem_range]
    rfl

theorem dramTestRound_ready (hphase : s.boot.phase = 6) (hserv : s.boot.service = false) (hheld : s.boot.held = false) (hround : 4 ≤ s.boot.round)
    (hbad : bad = []) (hworlds : (bootInput s).worlds = true) : Runs (.dramTestRound one rows bad) s fun t =>
      t.boot.ready = true ∧ t.boot.phase = 10 ∧ t.boot.round = 0 ∧ (∀ a, tget t.mem.cells a = 0) ∧
      ((bootInput s).injectFail = [] → ∀ b ≤ 5, bitOf t.safe.causes b = false) ∧
      ((bootInput s).injectFail ≠ [] → bitOf t.safe.causes 3 = true) := by
  have hexec := exec_dramTestRound (one := one) (rows := rows) (bad := bad) hphase hserv hheld
  rw [if_neg (by omega), if_pos (by rw [hbad]; rfl)] at hexec
  obtain ⟨-, hboot, hmem⟩ := testEnded_effect (one := one) (rows := rows) (bad := bad) (s := s)
  generalize testEnded one rows bad s = v at hexec hboot hmem
  have hin : v.boot.input = s.boot.input := by rw [hboot]
  obtain ⟨hframe, hboot', -, hpass, hfail⟩ := finishBoot_good (s := v) allCauses (by rw [bootInput_congr hin]; exact hworlds)
  rw [passes_congr hin] at hpass hfail
  generalize finishBoot allCauses v = t at hexec hframe hboot' hpass hfail
  refine ⟨t, hexec, by rw [hboot'], by rw [hboot'], by rw [hboot', hboot], fun a => ?_, fun hnone b hb => ?_, fun hsome => hfail ?_⟩
  · have htmem : t.mem = v.mem := by unfold FinishFrame at hframe; rw [hframe]
    rw [htmem]
    exact hmem a
  · rw [hpass ((passes_iff s).2 hnone)]
    exact bitOf_cleared 6 _ b (by omega)
  · exact Bool.eq_false_iff.2 fun h => hsome ((passes_iff s).1 h)

theorem dramTestRound_noWorlds (hphase : s.boot.phase = 6) (hserv : s.boot.service = false) (hheld : s.boot.held = false) (hround : 4 ≤ s.boot.round)
    (hbad : bad = []) (hworlds : (bootInput s).worlds = false) : Runs (.dramTestRound one rows bad) s fun t =>
      t.boot.held = true ∧ t.boot.ready = s.boot.ready ∧ bitOf t.safe.causes 1 = true := by
  have hexec := exec_dramTestRound (one := one) (rows := rows) (bad := bad) hphase hserv hheld
  rw [if_neg (by omega), if_pos (by rw [hbad]; rfl)] at hexec
  obtain ⟨-, hboot, -⟩ := testEnded_effect (one := one) (rows := rows) (bad := bad) (s := s)
  generalize testEnded one rows bad s = v at hexec hboot
  rw [finishBoot_bad allCauses (by rw [bootInput_congr (s := s) (by rw [hboot])]; exact hworlds)] at hexec
  obtain ⟨hheld', hbit, -, -⟩ := bootHeld_effect 1 5 0 v
  exact ⟨_, hexec, by rw [hheld'], by rw [hheld', hboot], hbit⟩

theorem dramTestRound_bad (hphase : s.boot.phase = 6) (hserv : s.boot.service = false) (hheld : s.boot.held = false) (hround : 4 ≤ s.boot.round)
    (hbad : bad ≠ []) : Runs (.dramTestRound one rows bad) s fun t => t.boot.service = true ∧ t.boot.ready = s.boot.ready ∧
      ∃ c < 8, ∃ i < 17, LogsNth i 0xA033 (srcMc c) (leBytes 1 c ++ leBytes 1 0 ++ leBytes 4 0 ++ leBytes 2 (rows.getD c 0) ++ leBytes 1 1) s t := by
  have hexec := exec_dramTestRound (one := one) (rows := rows) (bad := bad) hphase hserv hheld
  rw [if_neg (by omega), if_neg (by simpa using hbad)] at hexec
  obtain ⟨⟨rs, hlen, hwrote, hrec⟩, hboot, -⟩ := testEnded_effect (one := one) (rows := rows) (bad := bad) (s := s)
  obtain ⟨hboot', -, htold, -⟩ := service_effect (testEnded one rows bad s)
  obtain ⟨x, hx⟩ := List.exists_mem_of_ne_nil bad hbad
  have hisBad : isBad bad x.val = true := List.any_eq_true.2 ⟨x, hx, decide_eq_true rfl⟩
  have hmem : x.val ∈ rowGroups rows bad := List.mem_filter.2 ⟨List.mem_range.2 x.isLt, by rw [hisBad]; simp⟩
  obtain ⟨i, hi, hget⟩ := List.getElem_of_mem hmem
  have hle : (rowGroups rows bad).length ≤ 8 := (List.length_filter_le _ _).trans (by simp)
  obtain ⟨hi8, hrec8⟩ := hrec i hi
  refine ⟨_, hexec, by rw [hboot'], by rw [hboot', hboot], x.val, x.isLt, 8 + i, by omega, ?_⟩
  obtain ⟨qs, hqlen, hcaddy⟩ := htold
  obtain ⟨q, hq, -⟩ := ring_putAll (rs ++ qs) s.caddy (i := 8 + i) (by rw [List.length_append]; omega) (by rw [List.length_append]; omega)
  have hring : (service (testEnded one rows bad s)).caddy.ring = (s.caddy.putAll (rs ++ qs)).ring := by
    rw [hcaddy, hwrote.caddy, Caddy.putAll, Caddy.putAll, Caddy.putAll, List.foldl_append]
  rw [List.getElem_append_left hi8, hrec8, hget, ← hring] at hq
  show (tget (service (testEnded one rows bad s)).caddy.ring (s.caddy.slotNth (8 + i))).code = _ ∧
    (tget (service (testEnded one rows bad s)).caddy.ring (s.caddy.slotNth (8 + i))).source = _ ∧
    (tget (service (testEnded one rows bad s)).caddy.ring (s.caddy.slotNth (8 + i))).args = _ ∧
    (tget (service (testEnded one rows bad s)).caddy.ring (s.caddy.slotNth (8 + i))).ktime = _
  rw [hq]
  refine ⟨rfl, rfl, ?_, rfl⟩
  show (rowArgs rows bad x.val).take 12 = _
  rw [rowArgs, hisBad, List.take_of_length_le (by simp)]
  rfl

end

theorem trainingAndTest : TrainingAndTest :=
  ⟨fun _ _ _ hsup hheld hserv hdown hphase => training_effect hsup hheld hserv hdown hphase,
    fun _ _ hu hsup hheld hserv hdown hphase hothers hfail hok hwf => training_last hu hsup hheld hserv hdown hphase hothers hfail hok hwf,
    fun _ _ _ _ hphase hserv hheld => ⟨fun hround => dramTestRound_next hphase hserv hheld hround,
      fun hround hbad hworlds => dramTestRound_ready hphase hserv hheld hround hbad hworlds,
      fun hround hbad hworlds => dramTestRound_noWorlds hphase hserv hheld hround hbad hworlds,
      fun hround hbad => dramTestRound_bad hphase hserv hheld hround hbad⟩⟩

/-- Settles O57: the supplies and the images of bring-up, its training, the DRAM test and its end. -/
theorem bringUp : Obligations.BringUp := ⟨powerUp, trainingAndTest⟩

end Sys2Proof.Machine

/-! The reset scopes (R511 to R515, R519). -/

namespace Sys2Proof.Machine
open Sys2Proof.Claims

/-! ### Warm and cold resets -/

/-- What a run of the Kettle's start leaves as it was. -/
def bootOver (s t : State) : State := { s with
  firm := t.firm, caddy := t.caddy, safe := t.safe, fresh := t.fresh, party := t.party, world := t.world, lv := t.lv, field := t.field, ktime := t.ktime
  boot := { s.boot with held := t.boot.held, service := t.boot.service, phase := t.boot.phase, ready := t.boot.ready, map := t.boot.map
                        fuses := t.boot.fuses }
  jobs := { s.jobs with pairs := t.jobs.pairs, idleSince := t.jobs.idleSince }
  pw := { s.pw with hartA0 := t.pw.hartA0, hartPc := t.pw.hartPc } }

def BootFrame (s t : State) : Prop := t = bootOver s t

theorem bootFrame_trans {s t u : State} (a : BootFrame s t) (b : BootFrame t u) : BootFrame s u := by
  unfold BootFrame at *
  calc u = bootOver t u := b
    _ = bootOver (bootOver s t) u := congrArg (bootOver · u) a
    _ = bootOver s u := rfl

theorem bootFrame_of_verify {s t : State} (h : VerifyFrame s t) : BootFrame s t := by
  unfold VerifyFrame at h
  unfold BootFrame
  rw [h]
  rfl

theorem bootFrame_of_finish {s t : State} (h : FinishFrame s t) : BootFrame s t := by
  unfold FinishFrame at h
  unfold BootFrame
  rw [h]
  rfl

theorem bootFrame_of_repair {s t : State} (h : RepairFrame s t) : BootFrame s t := by
  unfold RepairFrame at h
  unfold BootFrame
  rw [h]
  rfl

theorem bootFrame_copyLogs (s : State) : BootFrame s (copyLogs s) := by
  have h := (copyLogs_effect s).1
  unfold BootFrame
  generalize copyLogs s = t at h ⊢
  rw [h]
  rfl

/-- The core die with its contents gone, its rails kept. -/
def warmed (req : Nat) (s : State) : State :=
  let v := coreLost (dramLost true (resetEvent 3 req 0 (liftFreeze s)))
  { v with mem := { v.mem with unzeroed := true }, safe := { v.safe with kettleFault := false, halted := false, pairFault := 0 } }

theorem warmReset_eq (req : Nat) (s : State) : warmReset req s =
    if (verify (bringupEvent 2 (warmed req s))).2 = true then
      finishBoot allCauses (setUcode (copyLogs (verify (bringupEvent 2 (warmed req s))).1))
    else if (copyLogs (verify (bringupEvent 2 (warmed req s))).1).boot.held = true then copyLogs (verify (bringupEvent 2 (warmed req s))).1
    else service (copyLogs (verify (bringupEvent 2 (warmed req s))).1) := rfl

/-- The start of the Kettle after a warm reset. -/
theorem warmReset_effect (req : Nat) (s : State) : BootFrame (bringupEvent 2 (warmed req s)) (warmReset req s) ∧
    Told (s.field.uncopied + 15) (warmed req s) (warmReset req s) := by
  have hfirst : Told 1 (warmed req s) (bringupEvent 2 (warmed req s)) := by
    have hsame : Told 0 (warmed req s) { (modBoot (warmed req s) fun b => { b with kind := 2, startAt := (warmed req s).ktime }) with
      ktime := max 1 (warmed req s).ktime } := .of_caddy rfl
    exact hsame.trans (told_event ..)
  obtain ⟨hvframe, hvtold⟩ := verify_frame (bringupEvent 2 (warmed req s))
  rw [warmReset_eq]
  have hfield : (bringupEvent 2 (warmed req s)).field.uncopied = s.field.uncopied := rfl
  have hpairs : (bringupEvent 2 (warmed req s)).jobs.pairs = [] := rfl
  generalize bringupEvent 2 (warmed req s) = b at hfirst hvframe hvtold hfield hpairs ⊢
  generalize hv : verify b = v at hvframe hvtold ⊢
  have hcopy := bootFrame_copyLogs v.1
  have hctold := (copyLogs_effect v.1).2
  have hvb := bootFrame_of_verify hvframe
  have huncopied : v.1.field.uncopied = s.field.uncopied := by
    unfold VerifyFrame at hvframe
    rw [hvframe]
    exact hfield
  have hcpairs : (copyLogs v.1).jobs.pairs = [] := by
    rw [(copyLogs_effect v.1).1]
    show v.1.jobs.pairs = []
    unfold VerifyFrame at hvframe
    rw [hvframe]
    exact hpairs
  rw [huncopied] at hctold
  generalize copyLogs v.1 = c at hcopy hctold hcpairs ⊢
  have hbc := bootFrame_trans hvb hcopy
  have htold := (hfirst.trans hvtold).trans hctold
  split
  · obtain ⟨huframe, hucaddy, -⟩ := setUcode_effect c
    have hupairs : (setUcode c).jobs.pairs = [] := by
      unfold RepairFrame at huframe
      rw [huframe]
      exact hcpairs
    have hub := bootFrame_trans hbc (bootFrame_of_repair huframe)
    have hutold := htold.same hucaddy
    generalize setUcode c = u at hupairs hub hutold ⊢
    cases hworlds : (bootInput u).worlds with
    | true =>
      obtain ⟨hff, -, hft, -, -⟩ := finishBoot_good allCauses hworlds
      rw [hupairs] at hft
      exact ⟨bootFrame_trans hub (bootFrame_of_finish hff), (hutold.trans hft).mono (by simp; omega)⟩
    | false =>
      rw [finishBoot_bad allCauses hworlds]
      exact ⟨bootFrame_trans hub (bootFrame_of_verify (verifyFrame_bootHeld ..)), (hutold.trans (bootHeld_effect 1 5 0 u).2.2.1).mono (by omega)⟩
  · split
    · exact ⟨hbc, htold.mono (by omega)⟩
    · obtain ⟨-, -, hst, hsf⟩ := service_effect c
      refine ⟨bootFrame_trans hbc ?_, (htold.trans hst).mono (by omega)⟩
      unfold BootFrame
      generalize service c = w at hsf ⊢
      rw [hsf]
      rfl

/-- A record of which the ring of a Caddy that is not frozen is told first. -/
theorem logs_of_unfrozen {code src n : Nat} {args : List Byte} {party : Nat} {s t : State} (hfrozen : s.caddy.frozen = false)
    (h : Told n (event src code party args (liftFreeze s)) t) (hargs : args.length ≤ 12) (hn : n < 1024) : Logs code src args s t := by
  have hlog : Logs code src args (liftFreeze s) t := h.logs rfl rfl hargs hn
  have hslot : (liftFreeze s).caddy.slot = s.caddy.slot := by
    unfold Caddy.slot
    rw [hfrozen]
    rfl
  unfold Logs at *
  rw [hslot] at hlog
  exact hlog

theorem tget_cells_filter (f : Nat → Bool) (t : Tab Byte) (a : Nat) : tget (t.filter fun e => f e.1) a = if f a = true then tget t a else 0 := by
  split
  · next h => exact tget_filter fun e _ he => by rw [he]; exact h
  · next h => exact tget_filter_none fun e _ he => by rw [he]; simpa using h

theorem warmReset_warms (req : Nat) (s : State) : WarmReset req s (warmReset req s) ∧ (warmReset req s).boot.resetAsk = none := by
  obtain ⟨hframe, htold⟩ := warmReset_effect req s
  have hlog : s.caddy.frozen = false → s.field.uncopied ≤ 256 → Logs 0xA034 srcAfzan
      (leBytes 1 3 ++ leBytes 1 (if req = 16 then 0x10 else if req = 17 then 0x11 else req) ++ leBytes 4 0) s (warmReset req s) := by
    intro hfrozen huncopied
    have hfirst : Told 0 (resetEvent 3 req 0 (liftFreeze s)) (warmed req s) := .of_caddy rfl
    exact logs_of_unfrozen hfrozen (hfirst.trans htold) (by simp) (by omega)
  generalize warmReset req s = t at hframe hlog ⊢
  have hcells : ∀ a, tget t.mem.cells a = if a < dramEnd s ∧ a % cgBytes s < 0x20000000 then tget s.mem.cells a else 0 := by
    intro a
    have hmem : t.mem.cells = s.mem.cells.filter fun e => decide (e.1 < dramEnd s) && decide (e.1 % cgBytes s < 0x20000000) := by
      rw [hframe]
      rfl
    rw [hmem, tget_cells_filter (fun x => decide (x < dramEnd s) && decide (x % cgBytes s < 0x20000000))]
    exact if_congr (by rw [Bool.and_eq_true, decide_eq_true_eq, decide_eq_true_eq]) rfl rfl
  refine ⟨⟨?_, hcells, ?_, ?_, ?_, ?_, hlog⟩, ?_⟩ <;> rw [hframe]
  · exact ⟨rfl, rfl, rfl, rfl, rfl, rfl, rfl, rfl, rfl⟩
  all_goals rfl

theorem coldReset_colds (req : Nat) (s : State) : ColdReset req s (coldReset req s) ∧ (coldReset req s).boot.resetAsk = none := by
  refine ⟨⟨⟨rfl, rfl, rfl, rfl, rfl, rfl, rfl, rfl, rfl⟩, fun _ => rfl, rfl, rfl, rfl, rfl, fun hfrozen => ?_⟩, rfl⟩
  exact logs_of_unfrozen (n := 0) hfrozen (.of_caddy rfl) (by simp) (by decide)

/-! ### A compute reset begins -/

theorem haltEst_frame (e : Nat) (s : State) : (haltEst e s).boot = s.boot ∧ (haltEst e s).mem = s.mem ∧ (haltEst e s).ktime = s.ktime := by
  unfold haltEst
  dsimp only
  split
  · exact ⟨rfl, rfl, rfl⟩
  · exact ⟨keeps_foldl State.boot (by exact fun _ _ => rfl) _ s, keeps_foldl State.mem (by exact fun _ _ => rfl) _ s,
      keeps_foldl State.ktime (by exact fun _ _ => rfl) _ s⟩

/-- Every estate of a list halted. -/
def haltEach (es : List Nat) (s : State) : State := es.foldl (fun s e => haltEst e s) s

theorem haltEach_frame (es : List Nat) (s : State) : (haltEach es s).boot = s.boot ∧ (haltEach es s).mem = s.mem ∧ (haltEach es s).ktime = s.ktime ∧
    (haltEach es s).queue = s.queue :=
  ⟨keeps_foldl State.boot (fun v e => (haltEst_frame e v).1) es s, keeps_foldl State.mem (fun v e => (haltEst_frame e v).2.1) es s,
    keeps_foldl State.ktime (fun v e => (haltEst_frame e v).2.2) es s, keeps_foldl State.queue (fun v e => queue_haltEst e v) es s⟩

theorem mem_estates {s : State} {e : Nat} : e ∈ estates s ↔ e < 16 ∧ (getEst s e).live = true := by
  rw [estates, List.mem_filter, List.mem_range]

section
variable {s : State}

theorem resetBegin_compute {req : Nat} (hask : s.boot.resetAsk = some (2, req)) (hgood : s.safe.kettleFault = false) :
    Runs .resetBegin s fun t => t.boot.resetting = some 0 ∧ t.boot.resetAt = (s.ktime, req) ∧ t.boot.resetAsk = none ∧
      (∀ e < 16, (getEst s e).live = true → (getEst t e).halted = true) ∧ MemSame s t ∧ t.queue = s.queue := by
  have hexec : exec .resetBegin s = .next (computeBegin req (modBoot s fun b => { b with resetAsk := none })) := by
    show execResetBegin s = _
    unfold execResetBegin
    rw [hask, hgood]
    rfl
  obtain ⟨-, hhalted⟩ := halting_haltAll (estates s) (modBoot s fun b => { b with resetAsk := none })
  obtain ⟨hboot, hmem, htime, hqueue⟩ := haltEach_frame (estates s) (modBoot s fun b => { b with resetAsk := none })
  have hclean := memOnly_cleanLines (fun _ _ => true) true (haltEach (estates s) (modBoot s fun b => { b with resetAsk := none }))
  have hlines := linesKept_cleanLines (fun _ _ => true) true (haltEach (estates s) (modBoot s fun b => { b with resetAsk := none }))
  have hbegin : computeBegin req (modBoot s fun b => { b with resetAsk := none }) =
      modBoot (cleanLines (fun _ _ => true) true (haltEach (estates s) (modBoot s fun b => { b with resetAsk := none }))) fun b =>
        { b with resetting := some 0, resetAt := ((haltEach (estates s) (modBoot s fun b => { b with resetAsk := none })).ktime, req) } := rfl
  rw [hbegin, htime] at hexec
  change ∀ e ∈ estates s, (getEst (haltEach (estates s) _) e).halted = true at hhalted
  generalize haltEach (estates s) (modBoot s fun b => { b with resetAsk := none }) = v at hexec hhalted hboot hmem hqueue hclean hlines
  have hcboot : (cleanLines (fun _ _ => true) true v).boot = v.boot := by rw [hclean.eq]
  refine ⟨_, hexec, rfl, rfl, ?_, fun e he hlive => ?_, fun x => ?_, ?_⟩
  · show (cleanLines (fun _ _ => true) true v).boot.resetAsk = none
    rw [hcboot, hboot]
    rfl
  · have hest : getEst (cleanLines (fun _ _ => true) true v) e = getEst v e := by
      unfold getEst
      rw [hclean.eq]
    exact (congrArg Estate.halted hest).trans (hhalted e (mem_estates.2 ⟨he, hlive⟩))
  · exact congrArg (tget · x) (hlines.cells.trans (congrArg Mem.cells hmem))
  · have hcq : (cleanLines (fun _ _ => true) true v).queue = v.queue := by rw [hclean.eq]
    exact hcq.trans hqueue

theorem resetBegin_warm {req : Nat} (hask : s.boot.resetAsk = some (3, req)) (hgood : s.safe.kettleFault = false) :
    Runs .resetBegin s fun t => WarmReset req s t ∧ t.boot.resetAsk = none := by
  have hexec : exec .resetBegin s = .next (warmReset req (modBoot s fun b => { b with resetAsk := none })) := by
    show execResetBegin s = _
    unfold execResetBegin
    rw [hask, hgood]
    rfl
  exact ⟨_, hexec, warmReset_warms req (modBoot s fun b => { b with resetAsk := none })⟩

theorem resetBegin_cold {req : Nat} (hask : s.boot.resetAsk = some (4, req)) (hgood : s.safe.kettleFault = false) :
    Runs .resetBegin s fun t => ColdReset req s t ∧ t.boot.resetAsk = none := by
  have hexec : exec .resetBegin s = .next (coldReset req (modBoot s fun b => { b with resetAsk := none })) := by
    show execResetBegin s = _
    unfold execResetBegin
    rw [hask, hgood]
    rfl
  exact ⟨_, hexec, coldReset_colds req (modBoot s fun b => { b with resetAsk := none })⟩

theorem resetBegin_faulted {x : Nat × Nat} (hask : s.boot.resetAsk = some x) (hfault : s.safe.kettleFault = true) : Runs .resetBegin s fun t => t = s := by
  refine ⟨s, ?_, rfl⟩
  show execResetBegin s = _
  unfold execResetBegin
  rw [hask, hfault]
  rfl

theorem resetNPin_short {us : Nat} (hshort : us < 10) : Runs (.resetNPin us) s fun t => t = s := by
  refine ⟨s, ?_, rfl⟩
  show execResetNPin us s = _
  unfold execResetNPin
  rw [if_pos (.inl hshort)]

theorem resetNPin_warm {us : Nat} (hsup : s.pw.supplied = true) (hlong : 10 ≤ us) (hmax : us ≤ 100000) :
    Runs (.resetNPin us) s fun t => WarmReset 0x7F s t := by
  refine ⟨warmReset 0x7F s, ?_, (warmReset_warms 0x7F s).1⟩
  show execResetNPin us s = _
  unfold execResetNPin
  rw [if_neg (by rw [hsup]; simp; omega), if_pos hmax]

theorem resetNPin_cold {us : Nat} (hsup : s.pw.supplied = true) (hlong : 100000 < us) :
    Runs (.resetNPin us) s fun t => ColdReset 0x7F s t := by
  refine ⟨coldReset 0x7F s, ?_, (coldReset_colds 0x7F s).1⟩
  show execResetNPin us s = _
  unfold execResetNPin
  rw [if_neg (by rw [hsup]; simp; omega), if_neg (by omega)]

/-! ### The background flush -/

theorem caddyBackgroundFlush_effect (hphase : 5 ≤ s.boot.phase) (hphase' : s.boot.phase ≠ 11) (hpark : s.pw.st ≠ .park)
    (hdue : 1024 ≤ seqDist s.caddy.unflushed s.caddy.next ∨ 100000000 ≤ ktSince s s.caddy.lastFlush) :
    Runs .caddyBackgroundFlush s fun t => t = { s with caddy := t.caddy } ∧ t.caddy.unflushed = s.caddy.next ∧ t.caddy.lastFlush = s.ktime ∧
      t.caddy.ring = s.caddy.ring ∧ t.caddy.next = s.caddy.next := by
  have hexec : exec .caddyBackgroundFlush s = .next (flushCaddy s) := by
    show execCaddyBackgroundFlush s = _
    unfold execCaddyBackgroundFlush
    dsimp only
    rw [if_neg (by simp [hphase', hpark, Nat.not_lt.2 hphase]), if_pos hdue]
  exact ⟨_, hexec, rfl, keeps_foldl Caddy.next (by exact fun _ _ => rfl) _ _, rfl, keeps_foldl Caddy.ring (by exact fun _ _ => rfl) _ _,
    keeps_foldl Caddy.next (by exact fun _ _ => rfl) _ _⟩

end

end Sys2Proof.Machine

/-! The end of a compute reset (R512). -/

namespace Sys2Proof.Machine
open Sys2Proof.Claims

/-! ### What the end of a reset never brings back -/

/-- The table lists estate `e` as not halted. -/
def Unhalted (e : Nat) (t : Tab Estate) : Prop := ∀ x ∈ t, x.1 = e → x.2.halted = false

theorem Unhalted.fired {e : Nat} {t u : Tab Estate} (h : Unhalted e t) (f : Fired t u) : Unhalted e u := by
  induction f with
  | refl => exact h
  | fire ns _ ih =>
    intro x hx he
    obtain ⟨y, hy, rfl⟩ := List.mem_map.1 (List.mem_of_mem_filter hx)
    exact ih y hy he

theorem Unhalted.get {e : Nat} {t : Tab Estate} (h : Unhalted e t) : (tget t e).halted = false := by
  induction t with
  | nil => rfl
  | cons y t ih =>
    obtain ⟨k, v⟩ := y
    simp only [tget]
    split
    · next hk => exact h (k, v) (List.mem_cons_self ..) hk
    · exact ih fun x hx => h x (List.mem_cons_of_mem _ hx)

theorem unhalted_tput (e : Nat) {v : Estate} (hv : v.halted = false) (t : Tab Estate) : Unhalted e (tput t e v) := by
  intro x hx he
  rcases mem_tins hx with rfl | hx
  · exact hv
  · exact absurd he (by simpa using (List.mem_filter.1 hx).2)

/-- From `s` to `t` no estate is halted, given a job or a replay, and no compute reset begins. -/
structure Calm (s t : State) : Prop where
  halted : ∀ e, Unhalted e s.jobs.est → Unhalted e t.jobs.est
  emptied : ∀ e, Emptied e s.jobs.est → Emptied e t.jobs.est
  resetting : s.boot.resetting = none → t.boot.resetting = none

theorem Calm.refl (s : State) : Calm s s := ⟨fun _ h => h, fun _ h => h, id⟩

theorem Calm.trans {s t u : State} (a : Calm s t) (b : Calm t u) : Calm s u :=
  ⟨fun e h => b.halted e (a.halted e h), fun e h => b.emptied e (a.emptied e h), fun h => b.resetting (a.resetting h)⟩

theorem calm_foldl {β : Type} {f : State → β → State} (hf : ∀ s x, Calm s (f s x)) (l : List β) (s : State) : Calm s (l.foldl f s) :=
  foldl_related (R := Calm) .refl .trans hf l s

theorem calm_of_same {s t : State} (hest : t.jobs.est = s.jobs.est) (hreset : t.boot.resetting = s.boot.resetting) : Calm s t :=
  ⟨fun _ h => hest ▸ h, fun _ h => hest ▸ h, fun h => hreset.trans h⟩

theorem calm_of_frame {s t : State} (h : BootFrame s t) : Calm s t := by
  unfold BootFrame at h
  exact calm_of_same (by rw [h]; rfl) (by rw [h]; rfl)

/-- A change of an estate's record that halts nothing and gives no job. -/
theorem calm_modEst (s : State) (e : Nat) {f : Estate → Estate} (hhalt : ∀ x, x.halted = false → (f x).halted = false)
    (hjob : ∀ x, x.job = none → (f x).job = none) (hreplay : ∀ x, x.replay = none → (f x).replay = none) : Calm s (modEst s e f) := by
  refine ⟨fun e' h x hx he => ?_, fun e' h x hx he => ?_, id⟩
  · rcases mem_tins hx with rfl | hx
    · obtain rfl : e = e' := he
      exact hhalt _ h.get
    · exact h x (List.mem_of_mem_filter hx) he
  · rcases mem_tins hx with rfl | hx
    · obtain rfl : e = e' := he
      obtain ⟨hj, hr⟩ := h.none
      exact ⟨hjob _ hj, hreplay _ hr⟩
    · exact h x (List.mem_of_mem_filter hx) he

theorem calm_event (src code p : Nat) (args : List Byte) (s : State) : Calm s (event src code p args s) :=
  calm_of_same (congrArg Jobs.est (event_jobs ..)) rfl

/-! ### Posts during the end of a reset -/

theorem resetting_refusal {s : State} (h : s.boot.resetting = none) (src code p ini a : Nat) (sec write : Bool) :
    (refusal src code p ini a sec write s).boot.resetting = none := by
  unfold refusal
  rw [h]
  exact h

theorem calm_putBytes (w : Writer) (a : Nat) (bs : List Byte) (s : State) : Calm s (putBytes w a bs s) := by
  refine ⟨fun e h => h.fired (posted_putBytes ..).est, fun e h => h.fired (posted_putBytes ..).est, fun h => ?_⟩
  unfold putBytes
  split
  · rw [fireWatches_eq]
    exact h
  · split
    · exact resetting_refusal h ..
    · split
      · exact h
      · rw [spPut_eq]
        exact h

theorem boot_raiseIrq (i : IrqEntry) (s : State) : (raiseIrq i s).boot = s.boot := by
  unfold raiseIrq
  split
  · rfl
  · split <;> rfl

theorem boot_notifyPush (q n : Nat) (s : State) : (notifyPush q n s).boot = s.boot := by
  unfold notifyPush notify
  dsimp only
  split
  · split
    · split
      · rfl
      · split
        · rfl
        · exact boot_raiseIrq ..
    · rfl
  · rfl

theorem calm_pushEntry (q : Nat) (bs : List Byte) (s : State) : Calm s (pushEntry q bs s) := by
  refine ⟨fun e h => h.fired (posted_pushEntry ..).est, fun e h => h.fired (posted_pushEntry ..).est, fun h => ?_⟩
  exact (congrArg Boot.resetting (boot_notifyPush ..)).trans ((calm_putBytes ..).resetting h)

theorem calm_drainHeld (q n : Nat) (s : State) : Calm s (drainHeld q n s) := by
  induction n generalizing s with
  | zero => exact .refl s
  | succ n ih =>
    unfold drainHeld
    split
    · exact .refl s
    · split
      · have hmod : ∀ f, Calm s (modQ s q f) := fun f => calm_of_same rfl rfl
        exact ((hmod _).trans (calm_pushEntry ..)).trans (ih _)
      · exact .refl s

theorem calm_complete (q : Nat) (bs : List Byte) (s : State) : Calm s (complete q bs s) := by
  unfold complete
  split
  · exact calm_of_same rfl rfl
  · have hmod : ∀ f, Calm s (modQ s q f) := fun f => calm_of_same rfl rfl
    exact (hmod _).trans (calm_drainHeld ..)

theorem calm_writeDone (d : Nat × Nat × List Byte) (s : State) : Calm s (writeDone d s) := by
  have hdrop : Calm s (dropWatches d.2.1 s) := calm_of_same rfl rfl
  exact hdrop.trans (calm_complete ..)

/-! ### The end of jobs -/

theorem calm_closeRec (x : Left) (status reason : Nat) (s : State) : Calm s (closeRec x status reason s).1 := by
  show Calm s (writeReport x.job (jobImg s x.job) x.secs s).1
  unfold writeReport
  dsimp only
  split
  · exact .refl s
  · exact calm_putBytes ..

theorem calm_freeEst (e : Nat) (j : Job) (s : State) : Calm s (freeEst e j s) := by
  unfold freeEst
  extract_lets t m u
  have hfree : Calm s t := calm_modEst s e (fun _ h => h) (fun _ _ => rfl) fun _ h => h
  have hgfx : Calm t u := calm_of_same rfl rfl
  split
  · exact hfree.trans hgfx
  · exact (hfree.trans hgfx).trans (calm_of_same rfl rfl)

theorem calm_leafStops (ls : List Nat) (s : State) : Calm s (ls.foldl (fun s l => leafStop l s) s) :=
  calm_foldl (by exact fun _ _ => calm_of_same rfl rfl) ls s

theorem calm_stopJob (e : Nat) (j : Job) (s : State) : Calm s (stopJob e j s).1 :=
  (calm_leafStops (jobLeaves j) s).trans (calm_of_same rfl rfl)

theorem calm_closeJob (e : Nat) (j : Job) (s : State) : Calm s (closeJob e j s).1 := by
  unfold closeJob
  dsimp only
  generalize jobEsts e j = es
  generalize hb : false = b
  clear hb
  induction es generalizing s b with
  | nil => exact .refl s
  | cons x es ih =>
    rw [List.foldl_cons]
    dsimp only
    split
    · exact ih s b
    · exact ((calm_stopJob ..).trans (calm_freeEst ..)).trans (ih _ _)

theorem calm_endJob (e status reason : Nat) (s : State) : Calm s (endJob e status reason s) := by
  unfold endJob
  split
  · exact .refl s
  · exact ((calm_closeJob ..).trans (calm_closeRec ..)).trans (calm_writeDone ..)

theorem calm_dropReplay (e status reason : Nat) (s : State) : Calm s (dropReplay e status reason s) := by
  unfold dropReplay
  split
  · exact .refl s
  · have hmod : Calm s (modEst s e fun x => { x with replay := none }) := calm_modEst s e (fun _ h => h) (fun _ h => h) fun _ _ => rfl
    exact (hmod.trans (calm_closeRec ..)).trans (calm_writeDone ..)

/-! ### Leaf repair at the end of a reset -/

theorem calm_putKept (e : Nat) (k : Kept) (s : State) : Calm s (putKept e k s) :=
  calm_modEst s e (fun _ h => h) (fun _ h => h) fun _ h => h

theorem calm_readKept (e : Nat) (s : State) : Calm s (readKept e s) := by
  unfold readKept
  split
  · exact .refl s
  · dsimp only
    split
    · exact .refl s
    · split
      · exact .refl s
      · exact calm_putKept ..

theorem calm_fenceKept (e l : Nat) (s : State) : Calm s (fenceKept e l s) := by
  unfold fenceKept
  split
  · exact .refl s
  · dsimp only
    split
    · exact .refl s
    · split
      · exact calm_putKept ..
      · exact .refl s

theorem calm_segEvent (l before : Nat) (s : State) : Calm s (segEvent l before s) := by
  unfold segEvent
  split
  · exact .refl s
  · exact calm_event ..

theorem calm_wipeSegs (l : Nat) (ks : List Nat) (s : State) : Calm s (ks.foldl (fun s k => segWipe l k (segSet l k .off s)) s) :=
  calm_foldl (by exact fun _ _ => calm_of_same rfl rfl) ks s

theorem calm_segsOff (l : Nat) (s : State) : Calm s (segsOff l s) := (calm_wipeSegs l (List.range 8) s).trans (calm_segEvent ..)

theorem calm_segUp (l k : Nat) (s : State) : Calm s (segUp l k s) := by
  unfold segUp
  split
  · exact .refl s
  · exact calm_of_same rfl rfl

theorem calm_spPut (l off tag : Nat) (bs : List Byte) (s : State) : Calm s (spPut l off tag bs s) := by
  rw [spPut_eq]
  exact calm_of_same rfl rfl

theorem calm_writeKept (e p h : Nat) (s : State) : Calm s (writeKept e p h s) := by
  unfold writeKept
  dsimp only
  split
  · exact .refl s
  · split
    · exact .refl s
    · refine Calm.trans ?_ (calm_putKept ..)
      refine Calm.trans ?_ (calm_foldl (fun v x => calm_segEvent ..) _ _)
      exact calm_foldl (fun v x => (calm_foldl (fun v i => calm_segUp ..) _ v).trans (calm_spPut ..)) _ s

theorem calm_dissolve (p : Pair) (cause : Nat) (s : State) : Calm s (dissolve p cause s) := calm_of_same rfl rfl

theorem calm_pairCheck (e : Nat) (s : State) : Calm s (pairCheck e s) := by
  unfold pairCheck
  split
  · exact .refl s
  · split
    · exact .refl s
    · exact calm_dissolve ..

/-- A leaf that an estate gives up is stopped and switched off, unless it is fenced. -/
theorem calm_leafGone (s : State) (l : Nat) : Calm s (if (getLeaf s l).kind = .fenced then s else segsOff l (leafStop l s)) := by
  split
  · exact .refl s
  · have hstop : Calm s (leafStop l s) := calm_of_same rfl rfl
    exact hstop.trans (calm_segsOff ..)

theorem calm_putLeaves (e : Nat) (ls : List Nat) (cause : Nat) (s : State) : Calm s (putLeaves e ls cause s) := by
  unfold putLeaves
  extract_lets x gone t u w
  have hgone : Calm s t := calm_foldl calm_leafGone gone s
  have hput : Calm t u := calm_modEst t e (fun _ h => h) (fun _ h => h) fun _ h => h
  exact ((hgone.trans hput).trans (calm_event ..)).trans (calm_pairCheck e w)

theorem calm_shrinkBy (e l : Nat) (s : State) : Calm s (shrinkBy e l s) := by
  have hput := (((calm_readKept e s).trans (calm_fenceKept e l _)).trans
    (calm_putLeaves e ((getEst s e).leaves.filter fun x => decide (x ≠ l)) 1 _))
  unfold shrinkBy
  dsimp only
  split
  · refine (hput.trans ?_).trans (calm_writeKept ..)
    exact calm_modEst _ e (fun _ h => h) (fun _ h => h) fun _ h => h
  · exact hput.trans (calm_modEst _ e (fun _ h => h) (fun _ h => h) fun _ h => h)

theorem calm_repairLeaf (e l : Nat) (s : State) : Calm s (repairLeaf e l s) := by
  unfold repairLeaf
  split
  · next sp _ =>
    dsimp only
    have hkept := (calm_readKept e s).trans (calm_fenceKept e l _)
    have hspare : ∀ f, Calm (fenceKept e l (readKept e s)) (modLeaf (setKind sp .enabled (fenceKept e l (readKept e s))) sp f) :=
      fun f => calm_of_same rfl rfl
    split
    · exact (((hkept.trans (hspare _)).trans (calm_event ..)).trans (calm_putLeaves ..)).trans (calm_writeKept ..)
    · exact ((hkept.trans (hspare _)).trans (calm_event ..)).trans (calm_putLeaves ..)
  · exact calm_shrinkBy ..

theorem calm_keptZero (e : Nat) (s : State) : Calm s (keptZero e s) := calm_modEst s e (fun _ h => h) (fun _ h => h) fun _ h => h

theorem calm_repairEst (e : Nat) (s : State) : Calm s (repairEst e s) := calm_foldl (fun v l => calm_repairLeaf e l v) _ s

/-! ### Each estate at the end of a reset -/

/-- Estate `e` with its freeze lifted, and with neither a job nor a replay. -/
def freedEst (e : Nat) (s : State) : State :=
  dropReplay e stABORTED stNOT_READY (abortJob e stNOT_READY (modEst s e fun x =>
    { x with halted := false, held := false, recovering := false, test := { x.test with next := 0, running := false, cycleAt := s.ktime } }))

theorem calm_freedEst (e : Nat) (s : State) : Calm s (freedEst e s) := by
  refine Calm.trans (Calm.trans ?_ (calm_endJob ..)) (calm_dropReplay ..)
  exact calm_modEst s e (fun _ _ => rfl) (fun _ h => h) fun _ h => h

/-- The completion that was held back for the estate's self-test. -/
def heldDoneOut (e : Nat) (s : State) : State :=
  match (getEst s e).heldDone with
  | some d => writeDone d (modEst s e fun x => { x with heldDone := none })
  | none => s

theorem calm_heldDoneOut (e : Nat) (s : State) : Calm s (heldDoneOut e s) := by
  unfold heldDoneOut
  split
  · have hmod : Calm s (modEst s e fun x => { x with heldDone := none }) := calm_modEst s e (fun _ h => h) (fun _ h => h) fun _ h => h
    exact hmod.trans (calm_writeDone ..)
  · exact .refl s

theorem heldDoneOut_empties {e : Nat} {s : State} (h : jobOf s e = none ∧ (getEst s e).replay = none) :
    jobOf (heldDoneOut e s) e = none ∧ (getEst (heldDoneOut e s) e).replay = none := by
  unfold heldDoneOut
  split
  · exact Emptied.none ((emptied_modEst _ h.1 h.2).fired (fired_writeDone ..))
  · exact h

theorem computeEst_eq (s : State) (e : Nat) : computeEst s e = repairEst e (keptZero e (heldDoneOut e (freedEst e s))) := rfl

theorem calm_computeEst (s : State) (e : Nat) : Calm s (computeEst s e) := by
  rw [computeEst_eq]
  exact (((calm_freedEst e s).trans (calm_heldDoneOut e _)).trans (calm_keptZero e _)).trans (calm_repairEst e _)

/-- The end of a reset frees an estate: it is not halted, and has neither a job nor a replay. -/
theorem computeEst_frees (s : State) (e : Nat) : Unhalted e (computeEst s e).jobs.est ∧ Emptied e (computeEst s e).jobs.est := by
  rw [computeEst_eq]
  constructor
  · refine (((calm_heldDoneOut e (freedEst e s)).trans (calm_keptZero e _)).trans (calm_repairEst e _)).halted e ?_
    exact ((calm_endJob ..).trans (calm_dropReplay ..)).halted e (unhalted_tput e rfl _)
  · obtain ⟨hjob, hreplay⟩ := heldDoneOut_empties (dropReplay_empties stABORTED stNOT_READY (jobOf_endJob e stABORTED stNOT_READY (modEst s e fun x =>
      { x with halted := false, held := false, recovering := false, test := { x.test with next := 0, running := false, cycleAt := s.ktime } })))
    exact (calm_repairEst e _).emptied e (emptied_modEst _ hjob hreplay)

theorem computeEsts_free (es : List Nat) (s : State) : ∀ e ∈ es,
    Unhalted e (es.foldl computeEst s).jobs.est ∧ Emptied e (es.foldl computeEst s).jobs.est := by
  induction es generalizing s with
  | nil => exact fun _ h => absurd h List.not_mem_nil
  | cons e es ih =>
    intro e' he'
    rcases List.mem_cons.1 he' with rfl | he'
    · obtain ⟨hhalt, hempty⟩ := computeEst_frees s e'
      have hrest := calm_foldl calm_computeEst es (computeEst s e')
      exact ⟨hrest.halted e' hhalt, hrest.emptied e' hempty⟩
    · exact ih (computeEst s e) e' he'

/-! ### The end of the reset (R512) -/

/-- The leaves of a list switched off. -/
def clearLeaves (ls : List Nat) (s : State) : State := ls.foldl (fun s l => if segMask s l = 0 then s else segsOff l s) s

theorem clearLeaves_frame (ls : List Nat) (s : State) : (clearLeaves ls s).jobs.est = s.jobs.est ∧ Calm s (clearLeaves ls s) := by
  refine ⟨keeps_foldl (fun v : State => v.jobs.est) (fun v l => ?_) ls s, calm_foldl (fun v l => ?_) ls s⟩
  · split
    · rfl
    · exact congrArg Jobs.est (jobs_segsOff ..)
  · split
    · exact .refl v
    · exact calm_segsOff ..

theorem computeClear_frame (s : State) : (computeClear s).jobs.est = s.jobs.est ∧ Calm s (computeClear s) := by
  obtain ⟨hest, hcalm⟩ := clearLeaves_frame leafIdx s
  unfold computeClear
  extract_lets t
  have ht : t = clearLeaves leafIdx s := rfl
  rw [← ht] at hest hcalm
  clear_value t
  exact ⟨hest, hcalm.trans (calm_of_same rfl rfl)⟩

/-- The state in which the end of a compute reset gives way to what waited for it. -/
def computeEnded (n : Nat) (s : State) : State :=
  resetEvent 2 s.boot.resetAt.2 n (liftFreeze (levelReset (modSafe (releaseFaults computeCauses (inject allSteps
    ((estates (computeClear (modBoot s fun b => { b with resetting := none }))).foldl computeEst (computeClear (modBoot s fun b => { b with resetting := none })))))
    fun f => { f with halted := false })))

theorem computeEnd_eq {s : State} {n : Nat} (h : s.boot.resetting = some n) : computeEnd s = settle (computeEnded n s) := by
  unfold computeEnd
  rw [h]
  rfl

theorem calm_released (s : State) : Calm s (levelReset (modSafe (releaseFaults computeCauses (inject allSteps s)) fun f => { f with halted := false })) := by
  have hinject : Calm s (inject allSteps s) := by
    have h := (inject_effect allSteps s).1
    unfold InjectFrame at h
    exact calm_of_same (by rw [h]) (by rw [h])
  refine hinject.trans ?_
  have h := (releaseFaults_frame computeCauses (inject allSteps s)).1
  have hrel : Calm (inject allSteps s) (releaseFaults computeCauses (inject allSteps s)) := calm_of_same (by rw [h]) (by rw [h])
  refine hrel.trans ?_
  unfold levelReset
  split <;> exact calm_of_same rfl rfl

theorem computeEnded_effect {s : State} {n : Nat} (h : s.boot.resetting = some n) : (computeEnded n s).boot.resetting = none ∧
    (computeEnded n s).caddy.frozen = false ∧ ∀ e ∈ estates s,
      jobOf (computeEnded n s) e = none ∧ (getEst (computeEnded n s) e).halted = false ∧ (getEst (computeEnded n s) e).replay = none := by
  obtain ⟨hest, hclear⟩ := computeClear_frame (modBoot s fun b => { b with resetting := none })
  have hlive : estates (computeClear (modBoot s fun b => { b with resetting := none })) = estates s := by
    unfold estates getEst
    rw [hest]
    rfl
  have hreset : (computeClear (modBoot s fun b => { b with resetting := none })).boot.resetting = none :=
    hclear.resetting rfl
  unfold computeEnded
  rw [hlive]
  generalize computeClear (modBoot s fun b => { b with resetting := none }) = c at hreset ⊢
  have hfree := computeEsts_free (estates s) c
  have hcalm := calm_foldl calm_computeEst (estates s) c
  generalize (estates s).foldl computeEst c = d at hfree hcalm ⊢
  have hend := calm_released d
  generalize levelReset (modSafe (releaseFaults computeCauses (inject allSteps d)) fun f => { f with halted := false }) = w at hend ⊢
  have hlift : Calm w (resetEvent 2 s.boot.resetAt.2 n (liftFreeze w)) := calm_of_same (congrArg Jobs.est (event_jobs ..)) rfl
  refine ⟨((hcalm.trans hend).trans hlift).resetting hreset, rfl, fun e he => ?_⟩
  obtain ⟨hhalt, hempty⟩ := hfree e he
  obtain ⟨hjob, hreplay⟩ := ((hend.trans hlift).emptied e hempty).none
  exact ⟨hjob, ((hend.trans hlift).halted e hhalt).get, hreplay⟩

theorem idle_ends {s : State} {n : Nat} (hpend : s.pending = []) (hreset : s.boot.resetting = some n)
    (htime : 2000000 ≤ ktSince (tick s) s.boot.resetAt.1) : ∃ w, step s = .next (settle w) ∧ w.boot.resetting = none ∧ w.caddy.frozen = false ∧
      ∀ e < 16, (getEst s e).live = true → jobOf w e = none ∧ (getEst w e).halted = false ∧ (getEst w e).replay = none := by
  have hreset' : (tick s).boot.resetting = some n := hreset
  have hover : computeOver (tick s) = true := by
    unfold computeOver
    rw [hreset']
    simp [show (tick s).boot.resetAt = s.boot.resetAt from rfl, htime]
  have hidle : idle s = computeEnd { tick s with fresh := (tick s).fresh + 1 } := by
    unfold idle
    dsimp only
    rw [hreset', hover]
    rfl
  have hended : ({ tick s with fresh := (tick s).fresh + 1 } : State).boot.resetting = some n := hreset
  obtain ⟨hnone, hfrozen, hall⟩ := computeEnded_effect hended
  refine ⟨_, ?_, hnone, hfrozen, fun e he hlive => hall e (mem_estates.2 ⟨he, ?_⟩)⟩
  · unfold step
    rw [hpend]
    exact congrArg Host.Outcome.next (hidle.trans (computeEnd_eq hended))
  · have hget : getEst { tick s with fresh := (tick s).fresh + 1 } e = Estate.tick s (getEst s e) := getEst_tick s e
    rw [hget]
    exact hlive

/-- Settles O58: a reset of scope 2 halts the estates and its end frees them; scopes 3 and 4, and RESET_N, are a warm and a cold reset. -/
theorem resetScopes : Obligations.ResetScopes :=
  ⟨fun _ _ hask hgood => resetBegin_compute hask hgood, fun _ _ hask hgood => resetBegin_warm hask hgood,
    fun _ _ hask hgood => resetBegin_cold hask hgood, fun _ _ hask hfault => resetBegin_faulted hask hfault,
    fun _ _ hpend hreset htime => idle_ends hpend hreset htime, fun _ _ hshort => resetNPin_short hshort,
    fun _ _ hsup hlong hmax => resetNPin_warm hsup hlong hmax, fun _ _ hsup hlong => resetNPin_cold hsup hlong,
    fun _ hphase hphase' hpark hdue => caddyBackgroundFlush_effect hphase hphase' hpark hdue⟩

end Sys2Proof.Machine

/-! The commands of the I/O hosts (R497 to R501). -/

namespace Sys2Proof.Machine
open Sys2Proof.Claims

/-! ### A push does not see the I/O hosts -/

/-- The state with other I/O hosts and interfaces. -/
def withIo (i : IoState) (s : State) : State := { s with io := i }

theorem refusal_withIo (src code p ini a : Nat) (sec write : Bool) (i : IoState) (s : State) :
    refusal src code p ini a sec write (withIo i s) = withIo i (refusal src code p ini a sec write s) := by
  unfold refusal
  have hboot : (withIo i s).boot = s.boot := rfl
  rw [hboot]
  split <;> rfl

theorem fireWatches_withIo (a n : Nat) (i : IoState) (s : State) : fireWatches a n (withIo i s) = withIo i (fireWatches a n s) := by
  unfold fireWatches
  have hjobs : (withIo i s).jobs = s.jobs := rfl
  rw [hjobs]
  dsimp only
  split <;> rfl

theorem putBytes_withIo (w : Writer) (a : Nat) (bs : List Byte) (i : IoState) (s : State) :
    putBytes w a bs (withIo i s) = withIo i (putBytes w a bs s) := by
  unfold putBytes
  have hleaf : getLeaf (withIo i s) = getLeaf s := rfl
  have hsegs : segsOf (withIo i s) = segsOf s := rfl
  rw [hleaf, hsegs]
  split
  · exact fireWatches_withIo a bs.length i (memWrite s a bs)
  · split
    · exact refusal_withIo ..
    · split
      · rfl
      · unfold spPut
        dsimp only
        split <;> rfl

theorem raiseIrq_withIo (e : IrqEntry) (i : IoState) (s : State) : raiseIrq e (withIo i s) = withIo i (raiseIrq e s) := by
  unfold raiseIrq
  split
  · rfl
  · split <;> rfl

theorem notify_withIo (p q : Nat) (i : IoState) (s : State) : notify p q (withIo i s) = withIo i (notify p q s) := by
  unfold notify
  have hparty : getParty (withIo i s) = getParty s := rfl
  rw [hparty]
  dsimp only
  split
  · rfl
  · split
    · rfl
    · exact raiseIrq_withIo _ i (modParty s p fun t => { t with notify := t.notify ++ [q] })

theorem notifyPush_withIo (q n : Nat) (i : IoState) (s : State) : notifyPush q n (withIo i s) = withIo i (notifyPush q n s) := by
  unfold notifyPush
  have hq : getQ (withIo i s) = getQ s := rfl
  have howner : qOwner (withIo i s) = qOwner s := rfl
  rw [hq, howner]
  dsimp only
  split
  · split
    · exact notify_withIo ..
    · rfl
  · rfl

theorem pushEntry_withIo (q : Nat) (bs : List Byte) (i : IoState) (s : State) : pushEntry q bs (withIo i s) = withIo i (pushEntry q bs s) := by
  unfold pushEntry
  have hq : getQ (withIo i s) = getQ s := rfl
  have hby : bySlice (withIo i s) = bySlice s := rfl
  rw [hq, hby]
  extract_lets k e t n v m
  have ht : t = withIo i v := putBytes_withIo ..
  clear_value t v
  subst ht
  have hn : n = withIo i m := rfl
  rw [hn]
  exact notifyPush_withIo ..

/-! ### Completions (R497) -/

section
variable {u : Nat}

theorem onlyUnit_refl (u : Nat) (s : State) : OnlyUnit u s s := ⟨rfl, fun _ _ => rfl⟩

theorem onlyUnit_trans {s t v : State} (a : OnlyUnit u s t) (b : OnlyUnit u t v) : OnlyUnit u s v := by
  obtain ⟨heq, hother⟩ := a
  obtain ⟨heq', hother'⟩ := b
  refine ⟨?_, fun j hj => (hother' j hj).trans (hother j hj)⟩
  rw [heq', heq]

theorem onlyUnit_ktime {s v : State} (h : OnlyUnit u s v) : v.ktime = s.ktime := by rw [h.1]

theorem onlyUnit_modUnit (s : State) (f : IoUnit → IoUnit) : OnlyUnit u s (modUnit s u f) :=
  ⟨rfl, fun _ hj => getUnit_modUnit_ne s f hj⟩

/-- A push after a change of one host is that change after the push. -/
theorem onlyUnit_pushEntry {s v : State} (h : OnlyUnit u s v) (q : Nat) (r : List Byte) : OnlyUnit u (pushEntry q r s) (pushEntry q r v) := by
  obtain ⟨heq, hother⟩ := h
  have hio := (posted_pushEntry q r v).io
  have hio' := (posted_pushEntry q r s).io
  refine ⟨?_, fun j hj => ?_⟩
  · rw [hio, hio']
    exact (congrArg (pushEntry q r) heq).trans (pushEntry_withIo ..)
  · unfold getUnit
    rw [hio, hio']
    exact hother j hj

theorem held_pushEntry (q : Nat) (r : List Byte) (s : State) : getUnit (pushEntry q r s) u = getUnit s u := by
  unfold getUnit
  rw [(posted_pushEntry q r s).io]

/-- With no completion held, one is pushed where there is room, and is held where there is none. -/
theorem ioPush_eq (r : List Byte) {s : State} (hheld : (getUnit s u).held = []) : ioPush u r s =
    if canPush s (cplQ (getUnit s u)) = true then
      pushEntry (cplQ (getUnit s u)) r (modUnit (modUnit s u fun x => { x with held := x.held ++ [r] }) u fun x => { x with held := [] })
    else modUnit s u fun x => { x with held := x.held ++ [r] } := by
  unfold ioPush
  have hone : (getUnit (modUnit s u fun x => { x with held := x.held ++ [r] }) u).held = [r] := by
    rw [getUnit_modUnit_same, hheld]
    rfl
  have hconf : cplQ (getUnit (modUnit s u fun x => { x with held := x.held ++ [r] }) u) = cplQ (getUnit s u) := by
    unfold cplQ
    rw [getUnit_modUnit_same]
  dsimp only
  rw [hone]
  rw [List.length_singleton]
  unfold ioDrain
  dsimp only
  rw [hone, hconf]
  rfl

/-- A completion of a host whose record alone differs from `s`. -/
theorem ends_ioPush {s v : State} (hv : OnlyUnit u s v) (hconf : (getUnit v u).conf = (getUnit s u).conf) (hheld : (getUnit v u).held = [])
    (r : List Byte) : Ends u r s (ioPush u r v) := by
  have hq : cplQ (getUnit v u) = cplQ (getUnit s u) := by
    unfold cplQ
    rw [hconf]
  have hcan : canPush v (cplQ (getUnit v u)) = canPush s (cplQ (getUnit s u)) := by
    rw [hq]
    unfold canPush getQ
    rw [hv.1]
  rw [ioPush_eq r hheld, hcan]
  constructor <;> intro h
  · rw [if_pos h, hq]
    refine ⟨onlyUnit_pushEntry (onlyUnit_trans hv (onlyUnit_trans (onlyUnit_modUnit ..) (onlyUnit_modUnit ..))) .., ?_⟩
    rw [held_pushEntry, getUnit_modUnit_same]
  · rw [h, if_neg Bool.false_ne_true]
    refine ⟨onlyUnit_trans hv (onlyUnit_modUnit ..), ?_⟩
    rw [getUnit_modUnit_same, hheld]
    rfl

/-- What of the host changes after a completion, but for what it holds, leaves the completion. -/
theorem ends_onlyUnit {r : List Byte} {s t v : State} (h : Ends u r s t) (hv : OnlyUnit u t v) (hheld : (getUnit v u).held = (getUnit t u).held) :
    Ends u r s v :=
  ⟨fun hcan => ⟨onlyUnit_trans (h.1 hcan).1 hv, hheld.trans (h.1 hcan).2⟩, fun hcan => ⟨onlyUnit_trans (h.2 hcan).1 hv, hheld.trans (h.2 hcan).2⟩⟩

/-! ### Taking a command -/

variable {op : Nat} {c : List Byte} {s : State}

theorem posted_fetched (u : Nat) (s : State) : Posted s (fetched u s) := (posted_popEntry ..).trans (posted_roomMade ..)

@[simp] theorem getUnit_fetched (u j : Nat) (s : State) : getUnit (fetched u s) j = getUnit s j := by
  unfold getUnit
  rw [(posted_fetched u s).io]

@[simp] theorem ktime_fetched (u : Nat) (s : State) : (fetched u s).ktime = s.ktime := (posted_fetched u s).ktime

/-- A command that the host takes. -/
theorem ioTake_commands (h : Commands u op c s) {room : IoUnit → List Byte → Bool} (hroom : room (getUnit s u) c = true)
    (f : List Byte → State → State) : ioTake u op room f s = f c (fetched u s) := by
  obtain ⟨hon, hclosing, hheld, hbound, hlen, hhead, hop, hops, hok⟩ := h
  unfold ioTake
  dsimp only
  rw [if_neg (by simp [hon, hclosing, hheld, hbound, hlen]), hhead, if_neg (by simp [hop]), hok]
  dsimp only
  rw [if_pos hroom]

theorem flies_ioFly (u : Nat) (c : List Byte) (s : State) : Flies u c s (ioFly u c (fetched u s)) := by
  refine ⟨onlyUnit_modUnit .., ?_⟩
  unfold ioFly
  rw [getUnit_modUnit_same, getUnit_fetched, ktime_fetched]

/-- A command that sends its buffer, once the buffer is read. -/
theorem ioSend_ok {t v : State} {bs : List Byte} (h : busRead (ioIni u) (ioAddr c) (ioBytes c) t = (v, stOK, bs)) :
    OnlyUnit u v (ioSend u c t) ∧ (getUnit (ioSend u c t) u).dataOut = bs ∧
      (getUnit (ioSend u c t) u).fly = (getUnit v u).fly ++ [{ cmd := c, at_ := v.ktime }] := by
  have heq : ioSend u c t = ioFly u c (modUnit v u fun x => { x with dataOut := bs }) := by
    unfold ioSend
    rw [h]
    exact if_neg fun h => h rfl
  rw [heq]
  refine ⟨onlyUnit_trans (onlyUnit_modUnit ..) (onlyUnit_modUnit ..), ?_, ?_⟩
  all_goals
    unfold ioFly
    rw [getUnit_modUnit_same, getUnit_modUnit_same]
  rfl

/-! ### Aborted commands -/

/-- With no command to abort, an abort changes nothing of what is in flight. -/
theorem ioAbort_none {status : Nat} {f : IoCmd → Bool} (h : (getUnit s u).fly.filter f = []) :
    ioAbort u status f s = modUnit s u fun t => { t with fly := t.fly.filter fun x => !f x } := by
  unfold ioAbort
  rw [h]
  rfl

theorem filter_not_of_filter {α : Type} {f : α → Bool} {l : List α} (h : l.filter f = []) : (l.filter fun x => !f x) = l :=
  List.filter_eq_self.2 fun x hx => by simpa using List.filter_eq_nil_iff.1 h x hx

theorem filter_of_filter_not {α : Type} {f : α → Bool} {l : List α} (h : (l.filter fun x => !f x) = l) : l.filter f = [] :=
  List.filter_eq_nil_iff.2 fun x hx => by simpa using List.filter_eq_self.1 h x hx

end

/-! ### The commands -/

section
variable {u : Nat} {op : Nat} {c : List Byte} {s : State}

/-- A command that goes into flight at once. -/
theorem runs_flies {i : Instr} (h : Commands u op c s) (hexec : exec i s = .next (ioTake u op (fun _ _ => true) (ioFly u) s)) :
    Runs i s (Flies u c s) :=
  ⟨_, hexec.trans (congrArg Host.Outcome.next (ioTake_commands h rfl _)), flies_ioFly u c s⟩

/-- A command that completes without going into flight. -/
theorem ends_fetched {v : State} (h : Commands u op c s) (hv : OnlyUnit u (fetched u s) v) (hconf : (getUnit v u).conf = (getUnit s u).conf)
    (hheld : (getUnit v u).held = (getUnit s u).held) {k : Nat} (htime : k = s.ktime) (status detail bytes : Nat) :
    Ends u (cplRec (ioTag c) status op detail bytes s.ktime) (fetched u s) (ioDone u c status detail bytes k v) := by
  obtain ⟨-, -, hnone, -, -, -, hop, -⟩ := h
  unfold ioDone
  rw [hop, htime]
  exact ends_ioPush hv (hconf.trans (by rw [getUnit_fetched])) (hheld.trans hnone) _

theorem plainCommand_flies {x : Instr × Nat × Nat} (hx : ∃ u : Fin 14,
      (u.val < 8 ∧ (x = (.usbPortReset u, u.val, 1) ∨ x = (.usbAddress u, u.val, 2))) ∨
      (u = 8 ∧ (x = (.ufsTask u, 8, 0x12) ∨ x = (.ufsLink u, 8, 0x13))) ∨
      (10 ≤ u.val ∧ (x = (.i2sPlay u, u.val, 0x20) ∨ x = (.i2sRecord u, u.val, 0x21)))) (h : Commands x.2.1 x.2.2 c s) :
    Runs x.1 s (Flies x.2.1 c s) := by
  obtain ⟨u, ⟨hu, rfl | rfl⟩ | ⟨rfl, rfl | rfl⟩ | ⟨hu, rfl | rfl⟩⟩ := hx
  · exact runs_flies h (congrArg Host.Outcome.next (if_pos (decide_eq_true hu)))
  · exact runs_flies h (congrArg Host.Outcome.next (if_pos (decide_eq_true hu)))
  · exact runs_flies h rfl
  · exact runs_flies h rfl
  · exact runs_flies h (congrArg Host.Outcome.next (if_pos (decide_eq_true hu)))
  · exact runs_flies h (congrArg Host.Outcome.next (if_pos (decide_eq_true hu)))

theorem flashCommand_flies {x : Instr × Nat} (hx : x ∈ [(.xspiRead 9, 0x30), (.xspiProgram 9, 0x31), (.xspiErase 9, 0x32)])
    (h : Commands 9 x.2 c s) (hfree : s.caddy.flushing = false) : Runs x.1 s (Flies 9 c s) := by
  have hcond : ((decide ((9 : Fin 14).val = 9) && flashFree s) = true) := by
    unfold flashFree
    rw [hfree]
    rfl
  simp only [List.mem_cons, List.not_mem_nil, or_false] at hx
  rcases hx with rfl | rfl | rfl
  · exact runs_flies h (congrArg Host.Outcome.next (if_pos hcond))
  · exact runs_flies h (congrArg Host.Outcome.next (if_pos hcond))
  · exact runs_flies h (congrArg Host.Outcome.next (if_pos hcond))

end

section
variable {u : Fin 14} {c : List Byte} {s : State} (hu : u.val < 8)
include hu

theorem exec_endpointSet (h : Commands u.val 3 c s) : exec (.usbEndpointSet u) s = .next
    (if tget (getUnit s u.val).eps (epKey c) = [] ∧ 64 ≤ (getUnit s u.val).eps.length then
      ioDone u.val c stNOT_READY 5 0 (fetched u.val s).ktime (fetched u.val s) else ioFly u.val c (fetched u.val s)) := by
  show execUsbEndpointSet u s = _
  unfold execUsbEndpointSet
  dsimp only
  rw [if_pos (show isUsb u.val = true from decide_eq_true hu), ioTake_commands h rfl, getUnit_fetched]

theorem endpointSet_flies (h : Commands u.val 3 c s) (hroom : tget (getUnit s u.val).eps (epKey c) ≠ [] ∨ (getUnit s u.val).eps.length < 64) :
    Runs (.usbEndpointSet u) s (Flies u.val c s) := by
  refine ⟨_, exec_endpointSet hu h, ?_⟩
  rw [if_neg (by rintro ⟨hnone, hfull⟩; exact hroom.elim (fun h => h hnone) (by omega))]
  exact flies_ioFly ..

theorem endpointSet_full (h : Commands u.val 3 c s) (hnone : tget (getUnit s u.val).eps (epKey c) = []) (hfull : 64 ≤ (getUnit s u.val).eps.length) :
    Runs (.usbEndpointSet u) s fun t => Ends u.val (cplRec (ioTag c) stNOT_READY 3 5 0 s.ktime) (fetched u.val s) t := by
  refine ⟨_, exec_endpointSet hu h, ?_⟩
  rw [if_pos ⟨hnone, hfull⟩]
  exact ends_fetched h (onlyUnit_refl ..) (by rw [getUnit_fetched]) (by rw [getUnit_fetched]) (ktime_fetched ..) ..

theorem exec_transfer (h : Commands u.val 4 c s) (hroom : ((getUnit s u.val).fly.filter fun x => decide (ioOp x.cmd = 4)).length < 512) :
    exec (.usbTransfer u) s = .next (if epIn c = true then ioFly u.val c (fetched u.val s) else ioSend u.val c (fetched u.val s)) := by
  show execUsbTransfer u s = _
  unfold execUsbTransfer
  dsimp only
  rw [if_pos (show isUsb u.val = true from decide_eq_true hu), ioTake_commands h (decide_eq_true hroom)]

theorem transfer_flies (h : Commands u.val 4 c s) (hin : epIn c = true)
    (hroom : ((getUnit s u.val).fly.filter fun x => decide (ioOp x.cmd = 4)).length < 512) : Runs (.usbTransfer u) s (Flies u.val c s) := by
  refine ⟨_, exec_transfer hu h hroom, ?_⟩
  rw [if_pos hin]
  exact flies_ioFly ..

/-- The queued transfers of an endpoint. -/
def onEndpoint (k : Nat) (x : IoCmd) : Bool := decide (ioOp x.cmd = 4) && decide (epKey x.cmd = k)

theorem exec_endpointClear (h : Commands u.val 5 c s) : exec (.usbEndpointClear u) s = .next
    (ioDone u.val c stOK 0 0 (ioAbort u.val stABORTED (onEndpoint (epKey c)) (fetched u.val s)).ktime
      (modUnit (ioAbort u.val stABORTED (onEndpoint (epKey c)) (fetched u.val s)) u.val fun t => { t with halted := tput t.halted (epKey c) 0 })) := by
  show execUsbEndpointClear u s = _
  unfold execUsbEndpointClear
  dsimp only
  rw [if_pos (show isUsb u.val = true from decide_eq_true hu), ioTake_commands h rfl]
  rfl

/-- A clear of an endpoint ends its transfers and lifts its halt. -/
theorem endpointClear_effect (h : Commands u.val 5 c s) :
    Runs (.usbEndpointClear u) s fun t => tget (getUnit t u.val).halted (epKey c) = 0 ∧ (∀ j, j ≠ u.val → getUnit t j = getUnit s j) ∧
      (getUnit t u.val).fly = (getUnit s u.val).fly.filter fun x => !(decide (ioOp x.cmd = 4) && decide (epKey x.cmd = epKey c)) := by
  refine ⟨_, exec_endpointClear hu h, ?_⟩
  have habort := ioAbort_effect u.val stABORTED (onEndpoint (epKey c)) (fetched u.val s)
  generalize ioAbort u.val stABORTED (onEndpoint (epKey c)) (fetched u.val s) = v at habort ⊢
  have hdone := heldOnly_ioDone u.val c stOK 0 0 v.ktime (modUnit v u.val fun t => { t with halted := tput t.halted (epKey c) 0 })
  refine ⟨?_, fun j hj => ?_, ?_⟩
  · rw [hdone.same, getUnit_modUnit_same]
    exact tget_tput_same ..
  · rw [hdone.other j hj, getUnit_modUnit_ne _ _ hj, habort.other j hj, getUnit_modUnit_ne _ _ hj, getUnit_fetched]
  · rw [hdone.same, getUnit_modUnit_same]
    show (getUnit v u.val).fly = _
    rw [habort.same, getUnit_modUnit_same, getUnit_fetched]
    rfl

/-- A clear of an endpoint with no transfer queued completes alone. -/
theorem endpointClear_alone (h : Commands u.val 5 c s) (halone : ∀ x ∈ (getUnit s u.val).fly, ioOp x.cmd = 4 → epKey x.cmd ≠ epKey c) :
    Runs (.usbEndpointClear u) s fun t => Ends u.val (cplRec (ioTag c) stOK 5 0 0 s.ktime) (fetched u.val s) t ∧
      tget (getUnit t u.val).halted (epKey c) = 0 ∧ (getUnit t u.val).fly = (getUnit s u.val).fly := by
  have hnone : (getUnit (fetched u.val s) u.val).fly.filter (onEndpoint (epKey c)) = [] := by
    rw [getUnit_fetched]
    exact List.filter_eq_nil_iff.2 fun x hx => by simpa [onEndpoint] using halone x hx
  obtain ⟨t, ht, hhalt, -, hfly⟩ := endpointClear_effect hu h
  refine ⟨t, ht, ?_, hhalt, hfly.trans ?_⟩
  · rw [exec_endpointClear hu h] at ht
    obtain rfl := Host.Outcome.next.inj ht
    rw [ioAbort_none hnone]
    refine ends_fetched h (onlyUnit_trans (onlyUnit_modUnit ..) (onlyUnit_modUnit ..)) ?_ ?_
      ((onlyUnit_ktime (onlyUnit_modUnit ..)).trans (ktime_fetched ..)) ..
    all_goals rw [getUnit_modUnit_same, getUnit_modUnit_same, getUnit_fetched]
  · rw [getUnit_fetched] at hnone
    exact filter_not_of_filter hnone

theorem portReset_refused {st : Nat} (hon : ioOn s u.val = true) (hclosing : (getUnit s u.val).closing = none) (hheld : (getUnit s u.val).held = [])
    (hbound : (getQ s (cmdQ (getUnit s u.val))).bound = true) (hlen : (getQ s (cmdQ (getUnit s u.val))).len ≠ 0)
    (hhead : headEntry s (cmdQ (getUnit s u.val)) = c) (hop : ioOp c = 1) (hbad : ioRefused s u.val c = some st) :
    Runs (.usbPortReset u) s fun t => Ends u.val (cplRec (ioTag c) st 1 0 0 s.ktime) (fetched u.val s) t := by
  refine ⟨ioDone u.val c st 0 0 s.ktime (fetched u.val s), ?_, ?_⟩
  · show execUsbPortReset u s = _
    unfold execUsbPortReset
    rw [if_pos (show isUsb u.val = true from decide_eq_true hu)]
    unfold ioTake
    dsimp only
    rw [if_neg (by simp [hon, hclosing, hheld, hbound, hlen]), hhead, if_neg (by simp [hop]), hbad]
  · unfold ioDone
    rw [hop]
    exact ends_ioPush (onlyUnit_refl ..) rfl (by rw [getUnit_fetched]; exact hheld) _

end

section
variable {c : List Byte} {s : State}

theorem sends_effect {x : Instr × Nat × Nat} {v : State} {bs : List Byte}
    (hx : ∃ u : Fin 14, (u.val < 8 ∧ x = (.usbTransfer u, u.val, 4) ∧ epIn c = false ∧
        ((getUnit s u.val).fly.filter fun x => decide (ioOp x.cmd = 4)).length < 512) ∨
      (u = 8 ∧ x = (.ufsScsi u, 8, 0x10) ∧ ioParam c 16 1 = 2 ∧ ((getUnit s 8).fly.filter fun x => decide (ioOp x.cmd = 0x10)).length < 32) ∨
      (u = 8 ∧ x = (.ufsQuery u, 8, 0x11)))
    (h : Commands x.2.1 x.2.2 c s) (hread : busRead (ioIni x.2.1) (ioAddr c) (ioBytes c) (fetched x.2.1 s) = (v, stOK, bs)) :
    Runs x.1 s fun t => OnlyUnit x.2.1 v t ∧ (getUnit t x.2.1).dataOut = bs ∧
      (getUnit t x.2.1).fly = (getUnit v x.2.1).fly ++ [{ cmd := c, at_ := v.ktime }] := by
  have hsent : ∀ {i : Instr}, exec i s = .next (ioSend x.2.1 c (fetched x.2.1 s)) → Runs i s fun t => OnlyUnit x.2.1 v t ∧
      (getUnit t x.2.1).dataOut = bs ∧ (getUnit t x.2.1).fly = (getUnit v x.2.1).fly ++ [{ cmd := c, at_ := v.ktime }] :=
    fun hexec => ⟨_, hexec, ioSend_ok hread⟩
  obtain ⟨u, ⟨hu, rfl, hout, hroom⟩ | ⟨rfl, rfl, hwrite, hroom⟩ | ⟨rfl, rfl⟩⟩ := hx
  · refine hsent ((exec_transfer hu h hroom).trans ?_)
    rw [hout]
    rfl
  · refine hsent (congrArg Host.Outcome.next ((if_pos rfl).trans ((ioTake_commands h (decide_eq_true hroom) _).trans ?_)))
    exact if_pos hwrite
  · exact hsent (congrArg Host.Outcome.next ((if_pos rfl).trans (ioTake_commands h rfl _)))

theorem scsi_flies (h : Commands 8 0x10 c s) (hread : ioParam c 16 1 ≠ 2)
    (hroom : ((getUnit s 8).fly.filter fun x => decide (ioOp x.cmd = 0x10)).length < 32) : Runs (.ufsScsi 8) s (Flies 8 c s) := by
  refine ⟨_, congrArg Host.Outcome.next ((if_pos rfl).trans (ioTake_commands h (decide_eq_true hroom) _)), ?_⟩
  rw [if_neg hread]
  exact flies_ioFly ..

theorem i2sStop_effect {u : Fin 14} (hu : 10 ≤ u.val) (h : Commands u.val 0x22 c s) :
    Runs (.i2sStop u) s fun t => (∀ j, j ≠ u.val → getUnit t j = getUnit s j) ∧
      (getUnit t u.val).fly = ((getUnit s u.val).fly.filter fun x => !decide (ioOp x.cmd = 0x20 + ioParam c 0 1)) ∧
      ((getUnit t u.val).fly = (getUnit s u.val).fly → Ends u.val (cplRec (ioTag c) stOK 0x22 0 0 s.ktime) (fetched u.val s) t) := by
  have habort := ioAbort_effect u.val stABORTED (fun x => decide (ioOp x.cmd = 0x20 + ioParam c 0 1)) (fetched u.val s)
  have halone := ioAbort_none (u := u.val) (s := fetched u.val s) (status := stABORTED) (f := fun x => decide (ioOp x.cmd = 0x20 + ioParam c 0 1))
  refine ⟨_, congrArg Host.Outcome.next ((if_pos (decide_eq_true hu)).trans (ioTake_commands h rfl _)), ?_⟩
  dsimp only
  generalize ioAbort u.val stABORTED (fun x => decide (ioOp x.cmd = 0x20 + ioParam c 0 1)) (fetched u.val s) = v at habort halone ⊢
  have hdone := heldOnly_ioDone u.val c stOK 0 0 v.ktime v
  have hfly : (getUnit (ioDone u.val c stOK 0 0 v.ktime v) u.val).fly =
      (getUnit s u.val).fly.filter fun x => !decide (ioOp x.cmd = 0x20 + ioParam c 0 1) := by
    rw [hdone.same]
    show (getUnit v u.val).fly = _
    rw [habort.same, getUnit_modUnit_same, getUnit_fetched]
  refine ⟨fun j hj => ?_, hfly, fun hsame => ?_⟩
  · rw [hdone.other j hj, habort.other j hj, getUnit_modUnit_ne _ _ hj, getUnit_fetched]
  · rw [hfly] at hsame
    rw [halone (by rw [getUnit_fetched]; exact filter_of_filter_not hsame)]
    refine ends_fetched h (onlyUnit_modUnit ..) ?_ ?_ ((onlyUnit_ktime (onlyUnit_modUnit ..)).trans (ktime_fetched ..)) ..
    all_goals rw [getUnit_modUnit_same, getUnit_fetched]

end

theorem hostCommands : HostCommands :=
  ⟨fun _ hx _ _ h => plainCommand_flies hx h, fun _ hx _ _ h hfree => flashCommand_flies hx h hfree,
    fun _ _ _ hu h hroom => endpointSet_flies hu h hroom, fun _ _ _ hu h hnone hfull => endpointSet_full hu h hnone hfull,
    fun _ _ _ hu h hin hroom => transfer_flies hu h hin hroom, fun _ _ _ _ _ hx h hread => sends_effect hx h hread,
    fun _ _ h hread hroom => scsi_flies h hread hroom, fun _ _ _ hu h halone => endpointClear_alone hu h halone,
    fun _ _ _ hu h => endpointClear_effect hu h, fun _ _ _ hu h => i2sStop_effect hu h,
    fun _ _ _ _ hu hon hclosing hheld hbound hlen hhead hop hbad => portReset_refused hu hon hclosing hheld hbound hlen hhead hop hbad⟩

end Sys2Proof.Machine

/-! What the devices of the I/O hosts do (R497 to R501). -/

namespace Sys2Proof.Machine
open Sys2Proof.Claims

/-! ### Completions (R497) -/

/-- A command has left flight. -/
def flown (u : Nat) (x : IoCmd) (s : State) : State := modUnit s u fun t => { t with fly := t.fly.erase x }

theorem getUnit_flown (u : Nat) (x : IoCmd) (s : State) :
    getUnit (flown u x s) u = { getUnit s u with fly := (getUnit s u).fly.erase x } := getUnit_modUnit_same ..

theorem flash_ioPush {u : Nat} {s : State} (hheld : (getUnit s u).held = []) (r : List Byte) : (ioPush u r s).io.flash = s.io.flash := by
  rw [ioPush_eq r hheld]
  split
  · rw [(posted_pushEntry ..).io]
    rfl
  · rfl

section
variable {u : Fin 14} {r : IoResult} {s : State} {x : IoCmd}

/-- The device ends the command `x`, which is in flight on a host that runs. -/
structure Completing (u : Fin 14) (r : IoResult) (s : State) (x : IoCmd) : Prop where
  on : ioOn s u.val = true
  host : u.val < 10
  status : ioStatusOk r.status.toNat = true
  flash : u = 9 → s.caddy.flushing = false
  held : (getUnit s u.val).held = []
  cmd : ioFind (getUnit s u.val) (isUsb u.val) r.tag.toNat = some x

variable (h : Completing u r s x)
include h

/-- A completion whose effect goes well. -/
theorem Completing.exec {e : State} (he : ioEffect u.val x.cmd r (flown u.val x s) = (e, stOK)) : Machine.exec (.ioCompletion u r) s =
    .next (ioPush u.val (cplRec (ioTag x.cmd) r.status.toNat (ioOp x.cmd) r.detail.toNat r.bytes e.ktime) e) := by
  have hflash : (decide (u.val = 9) && !flashFree s) = false := by
    by_cases hu : u.val = 9
    · unfold flashFree
      rw [h.flash (Fin.ext hu)]
      simp
    · simp [hu]
  show execIoCompletion u r s = _
  unfold execIoCompletion
  dsimp only
  have hu := h.host
  rw [if_neg (by simp [h.on, h.status, hflash]; omega), h.cmd]
  dsimp only
  change Host.Outcome.next (if (ioEffect u.val x.cmd r (flown u.val x s)).2 ≠ stOK then _ else _) = _
  rw [show modUnit s u.val (fun t => { t with fly := t.fly.erase x }) = flown u.val x s from rfl, he]
  rfl

/-- A completion is pushed, or held, after its effect. -/
theorem Completing.ends {b e : State} (he : ioEffect u.val x.cmd r (flown u.val x s) = (e, stOK)) (hbe : OnlyUnit u.val b e)
    (hconf : (getUnit e u.val).conf = (getUnit b u.val).conf) (hheld : (getUnit e u.val).held = []) :
    Runs (.ioCompletion u r) s fun t =>
      Ends u.val (cplRec (ioTag x.cmd) r.status.toNat (ioOp x.cmd) r.detail.toNat r.bytes b.ktime) b t ∧
      getUnit t u.val = { getUnit e u.val with held := (getUnit t u.val).held } ∧ t.io.flash = e.io.flash := by
  refine ⟨_, h.exec he, ?_, (heldOnly_ioPush ..).same, flash_ioPush hheld _⟩
  rw [onlyUnit_ktime hbe]
  exact ends_ioPush hbe hconf hheld _

/-- A completion that changes only the host's own record. -/
theorem Completing.ends_unit {e : State} {v : IoUnit} (he : ioEffect u.val x.cmd r (flown u.val x s) = (e, stOK))
    (hse : OnlyUnit u.val s e) (hunit : getUnit e u.val = v) (hconf : v.conf = (getUnit s u.val).conf) (hheld : v.held = (getUnit s u.val).held) :
    Runs (.ioCompletion u r) s fun t =>
      Ends u.val (cplRec (ioTag x.cmd) r.status.toNat (ioOp x.cmd) r.detail.toNat r.bytes s.ktime) s t ∧
      getUnit t u.val = { v with held := (getUnit t u.val).held } := by
  obtain ⟨t, ht, hends, hsame, -⟩ := h.ends he hse (by rw [hunit, hconf]) (by rw [hunit, hheld, h.held])
  rw [hunit] at hsame
  exact ⟨t, ht, hends, hsame⟩

/-- A completion without an effect of its own. -/
theorem Completing.plain (he : ioEffect u.val x.cmd r (flown u.val x s) = (flown u.val x s, stOK)) :
    Runs (.ioCompletion u r) s fun t =>
      Ends u.val (cplRec (ioTag x.cmd) r.status.toNat (ioOp x.cmd) r.detail.toNat r.bytes s.ktime) s t ∧
      getUnit t u.val = { getUnit s u.val with fly := (getUnit s u.val).fly.erase x, held := (getUnit t u.val).held } :=
  h.ends_unit he (onlyUnit_modUnit ..) (getUnit_modUnit_same ..) rfl rfl

/-- A completion that also changes a part of the host's record, where `p` says so. -/
theorem Completing.changed {p : Prop} [Decidable p] {f : IoUnit → IoUnit} (hconf : ∀ v, (f v).conf = v.conf) (hheld : ∀ v, (f v).held = v.held)
    (he : ioEffect u.val x.cmd r (flown u.val x s) = (if p then modUnit (flown u.val x s) u.val f else flown u.val x s, stOK)) :
    Runs (.ioCompletion u r) s fun t =>
      Ends u.val (cplRec (ioTag x.cmd) r.status.toNat (ioOp x.cmd) r.detail.toNat r.bytes s.ktime) s t ∧
      getUnit t u.val = { (if p then f { getUnit s u.val with fly := (getUnit s u.val).fly.erase x } else
        { getUnit s u.val with fly := (getUnit s u.val).fly.erase x }) with held := (getUnit t u.val).held } := by
  by_cases hp : p
  · rw [if_pos hp] at he
    rw [if_pos hp]
    refine h.ends_unit he (onlyUnit_trans (onlyUnit_modUnit ..) (onlyUnit_modUnit ..)) ?_ (hconf _) (hheld _)
    rw [getUnit_modUnit_same]
    exact congrArg f (getUnit_modUnit_same ..)
  · rw [if_neg hp] at he
    rw [if_neg hp]
    exact h.plain he

/-- A completion after a write of the data received. -/
theorem Completing.written {w : State} {a : Nat} {bs : List Byte} (he : ioEffect u.val x.cmd r (flown u.val x s) = (w, stOK))
    (hw : busWrite (ioIni u.val) a bs (flown u.val x s) = (w, stOK)) :
    Runs (.ioCompletion u r) s fun t =>
      Ends u.val (cplRec (ioTag x.cmd) r.status.toNat (ioOp x.cmd) r.detail.toNat r.bytes w.ktime) w t := by
  have hreach := reached_busWrite (i := ioIni u.val) (a := a) (bs := bs) (s := flown u.val x s) (by rw [hw])
  rw [hw] at hreach
  have hunit : getUnit w u.val = getUnit (flown u.val x s) u.val := by
    unfold getUnit
    rw [hreach.io]
  obtain ⟨t, ht, hends, -⟩ := h.ends he (onlyUnit_refl ..) rfl (by rw [hunit, getUnit_flown]; exact h.held)
  exact ⟨t, ht, hends⟩

/-! ### The completion of each operation -/

theorem Completing.simple (hop : ioOp x.cmd ∈ [1, 0x12, 0x22]) : Runs (.ioCompletion u r) s fun t =>
    Ends u.val (cplRec (ioTag x.cmd) r.status.toNat (ioOp x.cmd) r.detail.toNat r.bytes s.ktime) s t ∧
      getUnit t u.val = { getUnit s u.val with fly := (getUnit s u.val).fly.erase x, held := (getUnit t u.val).held } := by
  refine h.plain ?_
  unfold ioEffect
  simp only [List.mem_cons, List.not_mem_nil, or_false] at hop
  rcases hop with hop | hop | hop <;> rw [hop] <;> rfl

omit h in
theorem okay_iff : decide (r.status.toNat = stOK) = true ↔ r.status = 0 := by
  rw [decide_eq_true_iff]
  exact ⟨fun h => BitVec.eq_of_toNat_eq h, fun h => by rw [h]; rfl⟩

theorem Completing.address (hop : ioOp x.cmd = 2) : Runs (.ioCompletion u r) s fun t =>
    Ends u.val (cplRec (ioTag x.cmd) r.status.toNat (ioOp x.cmd) r.detail.toNat r.bytes s.ktime) s t ∧
      (getUnit t u.val).fly = (getUnit s u.val).fly.erase x ∧
      tget (getUnit t u.val).addrs (ioTarget x.cmd % 128) = if r.status = 0 then ioParam x.cmd 4 4 % 2 ^ 20 + 1
        else tget (getUnit s u.val).addrs (ioTarget x.cmd % 128) := by
  have he : ioEffect u.val x.cmd r (flown u.val x s) = (if decide (r.status.toNat = stOK) = true then
      modUnit (flown u.val x s) u.val fun t => { t with addrs := tput t.addrs (ioTarget x.cmd % 128) (ioParam x.cmd 4 4 % 2 ^ 20 + 1) }
      else flown u.val x s, stOK) := by
    unfold ioEffect
    rw [hop] <;> rfl
  obtain ⟨t, ht, hends, hunit⟩ := h.changed (by exact fun _ => rfl) (by exact fun _ => rfl) he
  refine ⟨t, ht, hends, ?_, ?_⟩ <;> rw [hunit]
  · split <;> rfl
  · by_cases hok : r.status = 0
    · rw [if_pos hok, if_pos (okay_iff.2 hok)]
      exact tget_tput_same ..
    · rw [if_neg hok, if_neg (mt okay_iff.1 hok)]

theorem Completing.endpoint (hop : ioOp x.cmd = 3) : Runs (.ioCompletion u r) s fun t =>
    Ends u.val (cplRec (ioTag x.cmd) r.status.toNat (ioOp x.cmd) r.detail.toNat r.bytes s.ktime) s t ∧
      (getUnit t u.val).fly = (getUnit s u.val).fly.erase x ∧
      tget (getUnit t u.val).eps (epKey x.cmd) = if r.status = 0 then (x.cmd.drop 24).take 5 else tget (getUnit s u.val).eps (epKey x.cmd) := by
  have he : ioEffect u.val x.cmd r (flown u.val x s) = (if decide (r.status.toNat = stOK) = true then
      modUnit (flown u.val x s) u.val fun t => { t with eps := tput t.eps (epKey x.cmd) ((x.cmd.drop 24).take 5) }
      else flown u.val x s, stOK) := by
    unfold ioEffect
    rw [hop] <;> rfl
  obtain ⟨t, ht, hends, hunit⟩ := h.changed (by exact fun _ => rfl) (by exact fun _ => rfl) he
  refine ⟨t, ht, hends, ?_, ?_⟩ <;> rw [hunit]
  · split <;> rfl
  · by_cases hok : r.status = 0
    · rw [if_pos hok, if_pos (okay_iff.2 hok)]
      exact tget_tput_same ..
    · rw [if_neg hok, if_neg (mt okay_iff.1 hok)]

theorem Completing.transferOut (hop : ioOp x.cmd = 4) (hout : epIn x.cmd = false) : Runs (.ioCompletion u r) s fun t =>
    Ends u.val (cplRec (ioTag x.cmd) r.status.toNat (ioOp x.cmd) r.detail.toNat r.bytes s.ktime) s t ∧
      (getUnit t u.val).fly = (getUnit s u.val).fly.erase x ∧
      tget (getUnit t u.val).halted (epKey x.cmd) = if r.status.toNat = stDATA_ERROR ∧ r.detail = 1 then 1
        else tget (getUnit s u.val).halted (epKey x.cmd) := by
  have he : ioEffect u.val x.cmd r (flown u.val x s) = (if r.status.toNat = stDATA_ERROR ∧ r.detail = 1 then
      modUnit (flown u.val x s) u.val fun t => { t with halted := tput t.halted (epKey x.cmd) 1 } else flown u.val x s, stOK) := by
    unfold ioEffect
    rw [hop, hout]
    rfl
  obtain ⟨t, ht, hends, hunit⟩ := h.changed (by exact fun _ => rfl) (by exact fun _ => rfl) he
  refine ⟨t, ht, hends, ?_, ?_⟩ <;> rw [hunit]
  · split <;> rfl
  · by_cases hhalt : r.status.toNat = stDATA_ERROR ∧ r.detail = 1
    · rw [if_pos hhalt, if_pos hhalt]
      exact tget_tput_same ..
    · rw [if_neg hhalt, if_neg hhalt]

theorem Completing.received {w : State} (hop : (ioOp x.cmd = 4 ∧ epIn x.cmd = true ∧ r.detail = 0) ∨ ioOp x.cmd = 0x11)
    (hw : busWrite (ioIni u.val) (ioAddr x.cmd) (r.data.take (ioBytes x.cmd)) (flown u.val x s) = (w, stOK)) :
    Runs (.ioCompletion u r) s fun t => Ends u.val (cplRec (ioTag x.cmd) r.status.toNat (ioOp x.cmd) r.detail.toNat r.bytes w.ktime) w t := by
  refine h.written ?_ hw
  unfold ioEffect
  rcases hop with ⟨hop, hin, hdetail⟩ | hop
  · have hhalt : ¬(r.status.toNat = stDATA_ERROR ∧ r.detail = 1) := by
      rw [hdetail]
      exact fun h => absurd h.2 (by decide)
    rw [hop, hin]
    dsimp only
    rw [if_neg hhalt]
    exact hw
  · rw [hop]
    exact hw

omit h in
theorem ioEffect_scsi {w : Nat} {c : List Byte} {t : State} (hop : ioOp c = 0x10) (hread : ioParam c 16 1 ≠ 1) (hsense : r.detail.toNat % 256 ≠ 2) :
    ioEffect w c r t = (t, stOK) := by
  unfold ioEffect
  rw [hop]
  show (if (if ioParam c 16 1 = 1 then busWrite (ioIni w) (ioAddr c) (r.data.take (ioBytes c)) t else (t, stOK)).2 = stOK ∧
    r.detail.toNat % 256 = 2 ∧ ioParam c 24 6 ≠ 0 then _ else if ioParam c 16 1 = 1 then _ else (t, stOK)) = _
  rw [if_neg hread, if_neg fun hs => hsense hs.2.1]

theorem Completing.scsi (hop : ioOp x.cmd = 0x10) (hread : ioParam x.cmd 16 1 ≠ 1) (hsense : r.detail.toNat % 256 ≠ 2) :
    Runs (.ioCompletion u r) s fun t =>
      Ends u.val (cplRec (ioTag x.cmd) r.status.toNat (ioOp x.cmd) r.detail.toNat r.bytes s.ktime) s t ∧
      (getUnit t u.val).fly = (getUnit s u.val).fly.erase x := by
  obtain ⟨t, ht, hends, hunit⟩ := h.plain (ioEffect_scsi hop hread hsense)
  exact ⟨t, ht, hends, by rw [hunit]⟩

theorem Completing.linkState (hop : ioOp x.cmd = 0x13) : Runs (.ioCompletion u r) s fun t =>
    Ends u.val (cplRec (ioTag x.cmd) r.status.toNat (ioOp x.cmd) r.detail.toNat r.bytes s.ktime) s t ∧
      (getUnit t u.val).fly = (getUnit s u.val).fly.erase x ∧
      (getUnit t u.val).link = if r.status = 0 then (if ioParam x.cmd 0 1 = 0 then 1 else 0) else (getUnit s u.val).link := by
  have he : ioEffect u.val x.cmd r (flown u.val x s) = (if decide (r.status.toNat = stOK) = true then
      modUnit (flown u.val x s) u.val fun t => { t with link := if ioParam x.cmd 0 1 = 0 then 1 else 0 } else flown u.val x s, stOK) := by
    unfold ioEffect
    rw [hop] <;> rfl
  obtain ⟨t, ht, hends, hunit⟩ := h.changed (by exact fun _ => rfl) (by exact fun _ => rfl) he
  refine ⟨t, ht, hends, ?_, ?_⟩ <;> rw [hunit]
  · split <;> rfl
  · by_cases hok : r.status = 0
    · rw [if_pos hok, if_pos (okay_iff.2 hok)]
    · rw [if_neg hok, if_neg (mt okay_iff.1 hok)]

/-! ### Flash (R501) -/

omit h in
theorem ioEffect_flashRead {w : Nat} {c : List Byte} {t : State} (hop : ioOp c = 0x30) (hok : r.status = 0) : ioEffect w c r t =
    busWrite (ioIni w) (ioAddr c) (Machine.flashRead t (ioParam c 0 4) r.data (ioBytes c)) t := by
  unfold ioEffect
  rw [hop]
  exact if_pos (okay_iff.2 hok)

omit h in
theorem ioEffect_program {w : Nat} {c bs : List Byte} {t v : State} (hop : ioOp c = 0x31) (hok : r.status = 0)
    (hread : busRead (ioIni w) (ioAddr c) (ioBytes c) t = (v, stOK, bs)) : ioEffect w c r t = (flashProgram (ioParam c 0 4) bs v, stOK) := by
  unfold ioEffect
  rw [hop, hread]
  exact if_pos (okay_iff.2 hok)

omit h in
theorem ioEffect_erase {w : Nat} {c : List Byte} {t : State} (hop : ioOp c = 0x32) (hok : r.status = 0) : ioEffect w c r t =
    ({ t with io := { t.io with flash := twrite t.io.flash (ioParam c 0 4) (List.replicate (ioBytes c) 1) } }, stOK) := by
  unfold ioEffect
  rw [hop]
  exact congrArg (·, stOK) (if_pos (okay_iff.2 hok))

theorem Completing.flashRead {w : State} (hop : ioOp x.cmd = 0x30) (hok : r.status = 0)
    (hw : busWrite (ioIni u.val) (ioAddr x.cmd) (Machine.flashRead s (ioParam x.cmd 0 4) r.data (ioBytes x.cmd)) (flown u.val x s) = (w, stOK)) :
    Runs (.ioCompletion u r) s fun t => Ends u.val (cplRec (ioTag x.cmd) r.status.toNat (ioOp x.cmd) r.detail.toNat r.bytes w.ktime) w t :=
  h.written ((ioEffect_flashRead hop hok).trans hw) hw

omit h in
/-- What a flash holds after a program of some of its bytes, by address. -/
theorem tget_programmed (off : Nat) (bs : List Byte) (n : Nat) (t : Tab Nat) (a : Nat) :
    tget ((List.range n).foldl (fun (t : Tab Nat) i => tput t (off + i) (if tget t (off + i) = 1 then (bs.getD i 0#8).toNat + 2 else 0)) t) a =
      if off ≤ a ∧ a < off + n then (if tget t a = 1 then (bs.getD (a - off) 0#8).toNat + 2 else 0) else tget t a := by
  induction n with
  | zero =>
    rw [if_neg (by omega)]
    rfl
  | succ n ih =>
    rw [List.range_succ, List.foldl_append, List.foldl_cons, List.foldl_nil]
    by_cases ha : a = off + n
    · subst ha
      have hbefore : ¬(off ≤ off + n ∧ off + n < off + n) := by omega
      have hnow : off ≤ off + n ∧ off + n < off + (n + 1) := by omega
      rw [tget_tput_same, ih, if_neg hbefore, if_pos hnow, Nat.add_sub_cancel_left]
    · rw [tget_tput_ne _ _ ha, ih]
      exact if_congr (by omega) rfl rfl

theorem Completing.programmed {w : State} {bs : List Byte} (hop : ioOp x.cmd = 0x31) (hok : r.status = 0)
    (hread : busRead (ioIni u.val) (ioAddr x.cmd) (ioBytes x.cmd) (flown u.val x s) = (w, stOK, bs)) (hio : w.io = (flown u.val x s).io) :
    Runs (.ioCompletion u r) s fun t => (∀ i < bs.length, tget t.io.flash (ioParam x.cmd 0 4 + i) =
        if tget s.io.flash (ioParam x.cmd 0 4 + i) = 1 then (bs.getD i 0#8).toNat + 2 else 0) ∧
      ∀ a, (a < ioParam x.cmd 0 4 ∨ ioParam x.cmd 0 4 + bs.length ≤ a) → tget t.io.flash a = tget s.io.flash a := by
  have hunit : getUnit (flashProgram (ioParam x.cmd 0 4) bs w) u.val = getUnit (flown u.val x s) u.val := by
    show tget w.io.unit u.val = tget (flown u.val x s).io.unit u.val
    rw [hio]
  obtain ⟨t, ht, -, -, hflash⟩ := h.ends (ioEffect_program hop hok hread) (onlyUnit_refl ..) rfl
    (by rw [hunit, getUnit_flown]; exact h.held)
  have hget : ∀ a, tget t.io.flash a = if ioParam x.cmd 0 4 ≤ a ∧ a < ioParam x.cmd 0 4 + bs.length then
      (if tget s.io.flash a = 1 then (bs.getD (a - ioParam x.cmd 0 4) 0#8).toNat + 2 else 0) else tget s.io.flash a := by
    intro a
    have hbefore : w.io.flash = s.io.flash := by
      rw [hio]
      rfl
    rw [hflash, ← hbefore]
    exact tget_programmed ..
  refine ⟨t, ht, fun i hi => ?_, fun a ha => ?_⟩
  · rw [hget, if_pos (by omega), Nat.add_sub_cancel_left]
  · rw [hget, if_neg (by omega)]

theorem Completing.erased (hop : ioOp x.cmd = 0x32) (hok : r.status = 0) : Runs (.ioCompletion u r) s fun t =>
    ∀ a, (ioParam x.cmd 0 4 ≤ a ∧ a < ioParam x.cmd 0 4 + ioBytes x.cmd → tget t.io.flash a = 1) ∧
      (a < ioParam x.cmd 0 4 ∨ ioParam x.cmd 0 4 + ioBytes x.cmd ≤ a → tget t.io.flash a = tget s.io.flash a) := by
  obtain ⟨t, ht, -, -, hflash⟩ := h.ends (ioEffect_erase hop hok) (onlyUnit_refl ..) rfl (by
    show (getUnit (flown u.val x s) u.val).held = []
    rw [getUnit_flown]
    exact h.held)
  refine ⟨t, ht, fun a => ⟨fun ha => ?_, fun ha => ?_⟩⟩
  · obtain ⟨i, rfl⟩ := Nat.exists_eq_add_of_le ha.1
    rw [hflash]
    exact (tget_twrite_in (List.replicate (ioBytes x.cmd) 1) s.io.flash (ioParam x.cmd 0 4) i (by simpa using by omega)).trans (List.getElem_replicate ..)
  · rw [hflash]
    exact tget_twrite_out _ _ (by simpa using ha)

end

/-! ### Attached and detached devices, lost links, time-outs -/

section
variable {u : Fin 14} {s : State}

theorem usbAttach_effect {speed : BitVec 16} {route : BitVec 32} (hu : u.val < 8) (hon : ioOn s u.val = true) (hheld : (getUnit s u.val).held = []) :
    Runs (.usbAttach u speed route) s fun t => Ends u.val (cplRec 0 stOK 0x80 speed.toNat route.toNat s.ktime) s t ∧
      getUnit t u.val = { getUnit s u.val with held := (getUnit t u.val).held } := by
  refine ⟨_, congrArg Host.Outcome.next (if_pos ?_), ends_ioPush (onlyUnit_refl ..) rfl hheld _, (heldOnly_ioPush ..).same⟩
  rw [hon, Bool.and_true]
  exact decide_eq_true hu

/-- The device at an address of USB host `u` is on a route. -/
def goneOn (u : Nat) (route : Nat) (s : State) (a : Nat) : Bool :=
  decide (tget (getUnit s u).addrs a ≠ 0) && onRoute route (tget (getUnit s u).addrs a - 1)

/-- A detach, with its record and the ends of the transfers that it breaks off. -/
def detached (u route : Nat) (s : State) : State :=
  modUnit (ioAbort u stNOT_READY (fun x => decide (ioOp x.cmd = 4) && goneOn u route s (ioTarget x.cmd % 128))
    (ioPush u (cplRec 0 stOK 0x81 0 route s.ktime) s)) u fun t =>
      { t with addrs := t.addrs.filter (fun e => !onRoute route (e.2 - 1)), eps := t.eps.filter (fun e => !goneOn u route s (e.1 % 128))
               halted := t.halted.filter fun e => !goneOn u route s (e.1 % 128) }

theorem usbDetach_effect {route : BitVec 32} (hu : u.val < 8) (hon : ioOn s u.val = true) (hheld : (getUnit s u.val).held = []) :
    let gone := fun (a : Nat) => decide (tget (getUnit s u.val).addrs a ≠ 0) && onRoute route.toNat (tget (getUnit s u.val).addrs a - 1)
    Runs (.usbDetach u route) s fun t => (∀ j, j ≠ u.val → getUnit t j = getUnit s j) ∧
      (getUnit t u.val).fly = ((getUnit s u.val).fly.filter fun x => !(decide (ioOp x.cmd = 4) && gone (ioTarget x.cmd % 128))) ∧
      (∀ e ∈ (getUnit t u.val).addrs, onRoute route.toNat (e.2 - 1) = false) ∧ (∀ e ∈ (getUnit t u.val).eps, gone (e.1 % 128) = false) ∧
      ((getUnit s u.val).fly = [] → Ends u.val (cplRec 0 stOK 0x81 0 route.toNat s.ktime) s t) := by
  intro gone
  have hexec : exec (.usbDetach u route) s = .next (detached u.val route.toNat s) := by
    refine congrArg Host.Outcome.next (if_pos ?_)
    rw [hon, Bool.and_true]
    exact decide_eq_true hu
  refine ⟨_, hexec, ?_⟩
  have hpush := heldOnly_ioPush u.val (cplRec 0 stOK 0x81 0 route.toNat s.ktime) s
  have hends := ends_ioPush (onlyUnit_refl u.val s) rfl hheld (cplRec 0 stOK 0x81 0 route.toNat s.ktime)
  unfold detached
  generalize ioPush u.val (cplRec 0 stOK 0x81 0 route.toNat s.ktime) s = p at hpush hends ⊢
  have habort := ioAbort_effect u.val stNOT_READY (fun x => decide (ioOp x.cmd = 4) && goneOn u.val route.toNat s (ioTarget x.cmd % 128)) p
  have hnone := ioAbort_none (u := u.val) (s := p) (status := stNOT_READY)
    (f := fun x => decide (ioOp x.cmd = 4) && goneOn u.val route.toNat s (ioTarget x.cmd % 128))
  generalize ioAbort u.val stNOT_READY (fun x => decide (ioOp x.cmd = 4) && goneOn u.val route.toNat s (ioTarget x.cmd % 128)) p = v at habort hnone ⊢
  have hflyp : (getUnit p u.val).fly = (getUnit s u.val).fly := by rw [hpush.same]
  refine ⟨fun j hj => ?_, ?_, ?_, ?_, fun hfly => ?_⟩
  · rw [getUnit_modUnit_ne _ _ hj, habort.other j hj, getUnit_modUnit_ne _ _ hj, hpush.other j hj]
  · rw [getUnit_modUnit_same]
    show (getUnit v u.val).fly = _
    rw [habort.same, getUnit_modUnit_same, ← hflyp]
    rfl
  · rw [getUnit_modUnit_same]
    exact fun e he => by simpa using (List.mem_filter.1 he).2
  · rw [getUnit_modUnit_same]
    intro e he
    have hgone : (!gone (e.1 % 128)) = true := (List.mem_filter.1 he).2
    simpa using hgone
  · rw [hnone (by rw [hflyp, hfly]; rfl)]
    refine ends_onlyUnit hends (onlyUnit_trans (onlyUnit_modUnit ..) (onlyUnit_modUnit ..)) ?_
    rw [getUnit_modUnit_same, getUnit_modUnit_same]

theorem ufsLinkLost_effect (hon : ioOn s 8 = true) (hheld : (getUnit s 8).held = []) :
    Runs .ufsLinkLost s fun t => (getUnit t 8).link = 2 ∧ (getUnit t 8).fly = [] ∧ (∀ j, j ≠ 8 → getUnit t j = getUnit s j) ∧
      ((getUnit s 8).fly = [] → Ends 8 (cplRec 0 stOK 0x90 0 0 s.ktime) s t) := by
  refine ⟨_, congrArg Host.Outcome.next (if_pos hon), ?_⟩
  have hpush := heldOnly_ioPush 8 (cplRec 0 stOK 0x90 0 0 s.ktime) s
  have hends := ends_ioPush (onlyUnit_refl 8 s) rfl hheld (cplRec 0 stOK 0x90 0 0 s.ktime)
  dsimp only
  generalize ioPush 8 (cplRec 0 stOK 0x90 0 0 s.ktime) s = p at hpush hends ⊢
  have habort := ioAbort_effect 8 stNOT_READY (fun _ => true) (modUnit p 8 fun t => { t with link := 2 })
  have hnone := ioAbort_none (u := 8) (s := modUnit p 8 fun t => { t with link := 2 }) (status := stNOT_READY) (f := fun _ => true)
  generalize ioAbort 8 stNOT_READY (fun _ => true) (modUnit p 8 fun t => { t with link := 2 }) = v at habort hnone ⊢
  refine ⟨?_, ?_, fun j hj => ?_, fun hfly => ?_⟩
  · rw [habort.same, getUnit_modUnit_same, getUnit_modUnit_same]
  · rw [habort.same, getUnit_modUnit_same]
    exact List.filter_false _
  · rw [habort.other j hj, getUnit_modUnit_ne _ _ hj, getUnit_modUnit_ne _ _ hj, hpush.other j hj]
  · have hflyp : (getUnit p 8).fly = (getUnit s 8).fly := by rw [hpush.same]
    rw [hnone (by rw [getUnit_modUnit_same]; show (getUnit p 8).fly.filter _ = []; rw [hflyp, hfly]; rfl)]
    refine ends_onlyUnit hends (onlyUnit_trans (onlyUnit_modUnit ..) (onlyUnit_modUnit ..)) ?_
    rw [getUnit_modUnit_same, getUnit_modUnit_same]

theorem ufsScsiTimeout_effect {tag : BitVec 64} {x : IoCmd} (hon : ioOn s 8 = true) (hheld : (getUnit s 8).held = [])
    (hfind : (getUnit s 8).fly.find? (fun y => decide (ioOp y.cmd = 0x10) && decide (ioTag y.cmd = tag.toNat)) = some x)
    (hlate : 3000000000 ≤ ktSince s x.at_) : Runs (.ufsScsiTimeout tag) s fun t =>
      Ends 8 (cplRec (ioTag x.cmd) stTIMEOUT 0x10 0 0 s.ktime) s t ∧ (getUnit t 8).fly = (getUnit s 8).fly.erase x := by
  have hop : ioOp x.cmd = 0x10 := by
    have hx := List.find?_some hfind
    rw [Bool.and_eq_true, decide_eq_true_iff] at hx
    exact hx.1
  have hexec : exec (.ufsScsiTimeout tag) s = .next (ioDone 8 x.cmd stTIMEOUT 0 0 s.ktime (flown 8 x s)) := by
    show execUfsScsiTimeout tag s = _
    unfold execUfsScsiTimeout
    rw [hfind]
    dsimp only
    rw [if_neg (by simp [hon]; omega)]
    rfl
  refine ⟨_, hexec, ?_, ?_⟩
  · unfold ioDone
    rw [hop]
    exact ends_ioPush (v := flown 8 x s) (onlyUnit_modUnit ..) (by rw [getUnit_flown]) (by rw [getUnit_flown]; exact hheld) _
  · rw [(heldOnly_ioDone ..).same, getUnit_flown]

end

theorem hostEvents : HostEvents := by
  refine ⟨?_, fun _ _ _ _ hu hon hheld => usbAttach_effect hu hon hheld, fun _ _ _ hu hon hheld => usbDetach_effect hu hon hheld,
    fun _ hon hheld => ufsLinkLost_effect hon hheld, fun _ _ _ hon hheld hfind hlate => ufsScsiTimeout_effect hon hheld hfind hlate⟩
  intro u r s x hon hhost hstatus hflash hheld hcmd
  have h : Completing u r s x := ⟨hon, hhost, hstatus, hflash, hheld, hcmd⟩
  exact ⟨h.simple, h.address, h.endpoint, h.transferOut, fun hop v w hv hw => by subst hv; exact h.received hop hw, h.scsi, h.linkState,
    fun hop hok v w hv hw => by subst hv; exact h.flashRead hop hok hw,
    fun hop hok v w bs hv hread hio => by subst hv; exact h.programmed hop hok hread hio, h.erased⟩

/-- Settles O59: the commands of the I/O hosts, and what their devices answer. -/
theorem ioHosts : Obligations.IoHosts := ⟨hostCommands, hostEvents⟩

end Sys2Proof.Machine

/-! Frames of the I²S ports and of the virtual interfaces (R500, R503). -/

namespace Sys2Proof.Machine
open Sys2Proof.Claims

/-! ### A read on the bus leaves the power state as it was -/

theorem foldl_fst_related {α β : Type} {R : State → State → Prop} (hrefl : ∀ s, R s s) (htrans : ∀ {s t u}, R s t → R t u → R s u)
    {f : State × α → β → State × α} (hf : ∀ a x, R a.1 (f a x).1) (l : List β) (s : State) (c : α) : R s (l.foldl f (s, c)).1 := by
  induction l generalizing s c with
  | nil => exact hrefl _
  | cons x l ih => exact htrans (hf (s, c) x) (ih ..)

/-- The power state is as it was. -/
def SamePw (s t : State) : Prop := t.pw = s.pw

theorem samePw_refl (s : State) : SamePw s s := rfl
theorem samePw_trans {s t u : State} (a : SamePw s t) (b : SamePw t u) : SamePw s u := Eq.trans b a

theorem samePw_pair {α β : Type} {s : State} {p : State × α} (h : SamePw s p.1) (c : β) : SamePw s (p.1, c).1 := h

theorem samePw_spRead (w : Who) (l off n : Nat) (data : List Byte) (s : State) : SamePw s (spOne w false l off n data s).1 := by
  unfold spOne
  dsimp only
  split
  · rfl
  · split
    · rfl
    · rw [if_neg Bool.false_ne_true]
      split <;> rfl

theorem samePw_spAccess (w : Who) (a n : Nat) (data : List Byte) (s : State) : SamePw s (spAccess w false a n data s).1 := by
  rw [spAccess]
  generalize (fun p : Nat × Nat => ((p.1 - 0x1000000000) / 0x200000, (p.1 - 0x1000000000) % 0x200000)) = place
  split
  · rfl
  · refine foldl_fst_related samePw_refl samePw_trans (fun b x => ?_) _ s _
    exact samePw_pair (samePw_spRead ..) _

theorem samePw_regRead (a n : Nat) (data : List Byte) (val : Nat → Nat) {rd : Nat → State → State} {wr : Bool → Nat → Nat → State → State}
    (base : Nat) (s : State) (hrd : ∀ off, SamePw s (rd off s)) : SamePw s (regAccess false a n data val rd wr base s).1 := by
  unfold regAccess
  dsimp only
  rw [if_neg Bool.false_ne_true]
  split
  · exact hrd _
  · rfl

theorem samePw_dblReadEffect (p off : Nat) (s : State) : SamePw s (dblReadEffect p off s) := by
  unfold dblReadEffect
  split <;> rfl

theorem samePw_qptReadEffect (q off : Nat) (s : State) : SamePw s (qptReadEffect q off s) := by
  unfold qptReadEffect
  split <;> rfl

theorem samePw_brgReadEffect (reader off : Nat) (s : State) : SamePw s (brgReadEffect reader off s) := by
  unfold brgReadEffect
  dsimp only
  split
  · split <;> rfl
  · split
    · split <;> rfl
    · rfl

theorem samePw_outRead (w : Who) (a n : Nat) (data : List Byte) (waiter : List Nat) (s : State) :
    SamePw s (outAccess w false a n data waiter s).1 := by
  have hgroups : SamePw s (endGroups w.code (fun _ => true) s) := keeps_foldl State.pw (by exact fun _ _ => rfl) _ s
  unfold outAccess
  split
  · rfl
  · dsimp only
    split
    · rfl
    · split
      · rfl
      · split
        · rfl
        · rw [if_neg Bool.false_ne_true]
          exact hgroups

/-- A read that meets no error of the fabric. -/
theorem samePw_access {i : Initiator} {a n : Nat} {data : List Byte} {waiter : List Nat} {s : State}
    (h : endedStatus (access i false a n data waiter s).2 ≠ stDATA_ERROR) : SamePw s (access i false a n data waiter s).1 := by
  unfold access at h ⊢
  dsimp only at h ⊢
  split
  · exact (posted_refusal ..).pw
  · split
    · next hreset _ x hfab =>
      rw [if_neg hreset, hfab] at h
      exact absurd h (by simp [endedStatus])
    · split
      · exact (posted_refusal ..).pw
      · split
        · unfold SamePw
          rw [(memOnly_dramRead ..).eq]
        · split
          · exact samePw_spAccess ..
          · split
            · exact samePw_regRead _ _ _ _ _ _ fun _ => samePw_dblReadEffect ..
            · split
              · exact samePw_regRead _ _ _ _ _ _ fun _ => samePw_qptReadEffect ..
              · split
                · split <;> rfl
                · split
                  · exact samePw_regRead _ _ _ _ _ _ fun _ => samePw_brgReadEffect ..
                  · exact samePw_outRead ..

theorem samePw_zeroDone (a n : Nat) (s : State) : SamePw s (zeroDone a n s) := by
  unfold zeroDone
  split
  · rfl
  · refine keeps_foldl State.pw (fun v i => ?_) _ s
    dsimp only
    split <;> rfl

theorem samePw_unitRead {i : Initiator} {a n : Nat} {data : List Byte} {s : State} (h : endedStatus (unitAccess i false a n data s).2 = stOK) :
    SamePw s (unitAccess i false a n data s).1 := by
  unfold unitAccess at h ⊢
  dsimp only at h ⊢
  split at h
  · next hw =>
    rw [if_pos hw]
    exact samePw_trans (samePw_zeroDone a n s) (samePw_access (by rw [h]; decide))
  · next hw =>
    rw [if_neg hw]
    exact samePw_access (by rw [h]; decide)

theorem pw_busRead {i : Initiator} {a n : Nat} {s : State} (h : (busRead i a n s).2.1 = stOK) : (busRead i a n s).1.pw = s.pw := by
  refine rel_foldl_ok samePw_refl samePw_trans (st := Prod.fst) (fun b x hb => if_pos hb) (fun b x _ hx => ?_) h
  dsimp only at hx ⊢
  split at hx
  · next hb => exact absurd hx hb
  · next hb =>
    rw [if_neg hb]
    exact samePw_unitRead hx

/-! ### I²S frames (R500) -/

section
variable {u : Nat} {s : State}

/-- Whether a host runs is a matter of its owner, its status, and the part. -/
theorem ioOn_onlyUnit {t : State} (h : OnlyUnit u s t) (howner : (getUnit t u).owner = (getUnit s u).owner)
    (hstop : (getUnit t u).stopped = (getUnit s u).stopped) : ioOn t u = ioOn s u := by
  unfold ioOn
  rw [howner, hstop]
  have hblock : blockOff t 9 u = blockOff s 9 u := by
    unfold blockOff
    rw [h.1]
  have hup : fabricUp t = fabricUp s := by
    unfold fabricUp
    rw [h.1]
  rw [hblock, hup]

/-- A port that records into no buffer loses the frame. -/
theorem i2sIn_none {xs : List (BitVec 32)} (hnone : ∀ x ∈ (getUnit s u).fly, ioOp x.cmd ≠ 0x21) :
    i2sIn u xs s = modUnit s u fun t => { t with lost := t.lost + 1 } := by
  unfold i2sIn
  dsimp only
  have hfind : ((getUnit s u).fly.find? fun x => decide (ioOp x.cmd = 0x21) && decide (x.done + frameBytes (getUnit s u).conf ≤ ioBytes x.cmd)) = none :=
    List.find?_eq_none.2 fun x hx => by simp [hnone x hx]
  rw [hfind]

/-- A frame of a port with no buffer. -/
theorem i2sFrame_idle {p : Fin 4} {xs : List (BitVec 32)} (hon : ioOn s (10 + p.val) = true) (hfly : (getUnit s (10 + p.val)).fly = []) :
    Runs (.i2sFrame p xs) s fun t => OnlyUnit (10 + p.val) s t ∧ getUnit t (10 + p.val) = { getUnit s (10 + p.val) with
      zeros := (getUnit s (10 + p.val)).zeros + 1, lost := (getUnit s (10 + p.val)).lost + 1
      frameOut := List.replicate (field (getUnit s (10 + p.val)).conf 17 1) 0#32 } := by
  have hshort : i2sShort (10 + p.val) s = s := by
    unfold i2sShort
    dsimp only
    rw [hfly]
    rfl
  have hout : i2sOut (10 + p.val) s = modUnit s (10 + p.val) fun t =>
      { t with zeros := t.zeros + 1, frameOut := List.replicate (field t.conf 17 1) 0#32 } := by
    unfold i2sOut
    dsimp only
    rw [hfly]
    rfl
  have hsent := onlyUnit_modUnit (u := 10 + p.val) s fun t => { t with zeros := t.zeros + 1, frameOut := List.replicate (field t.conf 17 1) 0#32 }
  have hon' := ioOn_onlyUnit hsent (by rw [getUnit_modUnit_same]) (by rw [getUnit_modUnit_same])
  have hexec : exec (.i2sFrame p xs) s = .next (i2sIn (10 + p.val) xs (i2sOut (10 + p.val) s)) := by
    show execI2sFrame p xs s = _
    unfold execI2sFrame
    dsimp only
    rw [if_pos hon, hshort, hout, if_pos (hon'.trans hon)]
  rw [hout, i2sIn_none (by rw [getUnit_modUnit_same]; intro x hx; rw [show (getUnit s (10 + p.val)).fly = [] from hfly] at hx; cases hx)] at hexec
  refine ⟨_, hexec, onlyUnit_trans hsent (onlyUnit_modUnit ..), ?_⟩
  rw [getUnit_modUnit_same, getUnit_modUnit_same]

/-- The next frame of a playback buffer that has begun and holds one more. -/
theorem i2sMoved_within {x : IoCmd} {gap : Nat} (hfly : (getUnit s u).fly = [x]) (hbegun : x.done ≠ 0)
    (hmore : x.done + 2 * frameBytes (getUnit s u).conf ≤ ioBytes x.cmd) :
    OnlyUnit u s (i2sMoved u x gap s) ∧ getUnit (i2sMoved u x gap s) u = { getUnit s u with
      fly := [{ x with done := x.done + frameBytes (getUnit s u).conf }] } := by
  have hmoved : i2sMoved u x gap s = modUnit s u fun t => { t with
      fly := t.fly.map fun z => if z = x then { x with done := x.done + frameBytes (getUnit s u).conf } else z } := by
    unfold i2sMoved
    dsimp only
    rw [if_neg hbegun, if_neg hbegun, if_neg (by omega)]
  rw [hmoved]
  refine ⟨onlyUnit_modUnit .., ?_⟩
  rw [getUnit_modUnit_same, hfly, List.map_singleton, if_pos rfl]

theorem i2sFrame_plays {p : Fin 4} {xs : List (BitVec 32)} {x : IoCmd} {v : State} {bs : List Byte} (hudef : 10 + p.val = u)
    (hon : ioOn s u = true) (hfly : (getUnit s u).fly = [x]) (hop : ioOp x.cmd = 0x20)
    (hmore : x.done + 2 * frameBytes (getUnit s u).conf ≤ ioBytes x.cmd) (hbegun : x.done ≠ 0)
    (hread : busRead (ioIni u) (ioAddr x.cmd + x.done) (frameBytes (getUnit s u).conf) s = (v, stOK, bs)) (hio : v.io = s.io)
    (honv : ioOn v u = true) : Runs (.i2sFrame p xs) s fun t => OnlyUnit u v t ∧ getUnit t u = { getUnit s u with
      frameOut := samplesOf (sampleBytes (getUnit s u).conf) (field (getUnit s u).conf 17 1) bs, lost := (getUnit s u).lost + 1
      fly := [{ x with done := x.done + frameBytes (getUnit s u).conf }] } := by
  have hunit : getUnit v u = getUnit s u := by
    unfold getUnit
    rw [hio]
  have hshort : i2sShort u s = s := by
    unfold i2sShort
    dsimp only
    rw [hfly, List.foldl_cons, List.foldl_nil, if_neg (by omega)]
  have hout : i2sOut u s = i2sMoved u x (getUnit s u).zeros (modUnit v u fun t => { t with
      frameOut := samplesOf (sampleBytes t.conf) (field t.conf 17 1) bs, zeros := t.zeros }) := by
    unfold i2sOut
    dsimp only
    rw [hfly, List.find?_cons_of_pos (by simp [hop]; omega)]
    dsimp only
    rw [hread]
    dsimp only
    rw [if_neg (by simp)]
    simp only [if_neg hbegun]
  have hsent : getUnit (modUnit v u fun t => { t with
      frameOut := samplesOf (sampleBytes t.conf) (field t.conf 17 1) bs, zeros := t.zeros }) u = { getUnit s u with
        frameOut := samplesOf (sampleBytes (getUnit s u).conf) (field (getUnit s u).conf 17 1) bs } := by
    rw [getUnit_modUnit_same, hunit]
  obtain ⟨honly, hmoved⟩ := i2sMoved_within (u := u) (x := x) (gap := (getUnit s u).zeros) (s := modUnit v u fun t => { t with
      frameOut := samplesOf (sampleBytes t.conf) (field t.conf 17 1) bs, zeros := t.zeros }) (by rw [hsent]; exact hfly) hbegun (by rw [hsent]; exact hmore)
  rw [← hout] at honly hmoved
  rw [hsent] at hmoved
  have honly' := onlyUnit_trans (onlyUnit_modUnit ..) honly
  have hon' := ioOn_onlyUnit honly' (by rw [hmoved, hunit]) (by rw [hmoved, hunit])
  have hexec : exec (.i2sFrame p xs) s = .next (i2sIn u xs (i2sOut u s)) := by
    show execI2sFrame p xs s = _
    unfold execI2sFrame
    dsimp only
    rw [hudef, if_pos hon, hshort, if_pos (hon'.trans honv)]
  rw [i2sIn_none (by rw [hmoved]; intro y hy; rw [List.mem_singleton.1 hy]; exact fun h => absurd (hop.symm.trans h) (by decide))] at hexec
  refine ⟨_, hexec, onlyUnit_trans honly' (onlyUnit_modUnit ..), ?_⟩
  rw [getUnit_modUnit_same, hmoved]

end

/-! ### Virtual interfaces (R503) -/

section
variable {v : Fin 32} {s : State}

/-- The frame of a transmit record without a checksum to fill in. -/
def sentFrame (c r bs : List Byte) : EthFrame :=
  { vlan := BitVec.ofNat 12 (field c 2 2), dst := BitVec.ofNat 48 (field bs 0 6), src := BitVec.ofNat 48 (field bs 6 6)
    pcp := BitVec.ofNat 3 (if bitOf (field r 11 1) 3 then field r 11 1 % 8 else field c 10 1)
    body := Config.ethBody bs, bytes := bs, payload := Config.ethPayload bs, csumGood := true }

/-- The state in which an interface has taken its next record. -/
def txTaken (v : Nat) (s : State) : State := clearOut (roomMade (vTx (getVnic s v).conf) (popEntry (vTx (getVnic s v).conf) s))

theorem pw_clearOut (s : State) : (clearOut s).pw = s.pw := rfl

theorem pw_txTaken (v : Nat) (s : State) : (txTaken v s).pw = s.pw := by
  unfold txTaken
  rw [pw_clearOut, (posted_roomMade ..).pw, (posted_popEntry ..).pw]

theorem exec_vnicTransmit {w : State} {bs : List Byte} (hon : vnicOn s v.val = true) (hheld : (getVnic s v.val).held = [])
    (hbound : (getQ s (vTx (getVnic s v.val).conf)).bound = true) (hlen : (getQ s (vTx (getVnic s v.val).conf)).len ≠ 0)
    (hmin : 60 ≤ field (headEntry s (vTx (getVnic s v.val).conf)) 8 2) (hmax : field (headEntry s (vTx (getVnic s v.val).conf)) 8 2 ≤ 9212)
    (hplain : field (headEntry s (vTx (getVnic s v.val).conf)) 10 1 = 0)
    (hread : busRead (vnicIni (ownerOf (getVnic s v.val).owner)) (field (headEntry s (vTx (getVnic s v.val).conf)) 0 6)
      (field (headEntry s (vTx (getVnic s v.val).conf)) 8 2) (txTaken v.val s) = (w, stOK, bs)) :
    exec (.vnicTransmit v) s = .next (ingress (dozing (modVnic w v.val fun t => { t with sent := t.sent.add 1 })) 0
      (sentFrame (getVnic s v.val).conf (headEntry s (vTx (getVnic s v.val).conf)) bs) (modVnic w v.val fun t => { t with sent := t.sent.add 1 })) := by
  show execVnicTransmit v s = _
  unfold execVnicTransmit
  extract_lets i t q r p n d bs' pcp f u rec_ y z
  have hbit : ∀ j, bitOf (field r 10 1) j = false := by
    intro j
    rw [show field r 10 1 = 0 from hplain, bitOf_eq_testBit, Nat.zero_testBit]
  have hd : d = (w, stOK, bs) := hread
  have hbs : bs' = bs := by
    refine (if_neg ?_).trans (congrArg (fun x : State × Nat × List Byte => x.2.2) hd)
    rw [hbit, Bool.false_and]
    exact Bool.false_ne_true
  have hz : z = u := if_neg (by rw [hbit]; exact Bool.false_ne_true)
  have hu : u = modVnic w v.val fun t => { t with sent := t.sent.add 1 } := by
    show (modVnic d.1 v.val fun t => { t with sent := t.sent.add 1 }) = _
    rw [hd]
  have hf : f = sentFrame (getVnic s v.val).conf (headEntry s (vTx (getVnic s v.val).conf)) bs := by
    unfold sentFrame
    rw [← hbs]
  have hlong : ¬(n < 60 ∨ 9212 < n) := by
    show ¬(field r 8 2 < 60 ∨ 9212 < field r 8 2)
    have hmin' : 60 ≤ field r 8 2 := hmin
    have hmax' : field r 8 2 ≤ 9212 := hmax
    omega
  have htakes : ¬((!vnicOn s v.val || !t.held.isEmpty || !(getQ s q).bound || decide ((getQ s q).len = 0)) = true) := by
    rw [hon, show t.held = [] from hheld, show (getQ s q).bound = true from hbound, decide_eq_false (show ¬(getQ s q).len = 0 from hlen)]
    decide
  rw [if_neg htakes, if_neg hlong, if_neg (by rw [hd]; exact fun h => h rfl), hz, hu, hf]

theorem vnicTransmit_effect {w : State} {bs : List Byte} (hon : vnicOn s v.val = true) (hheld : (getVnic s v.val).held = [])
    (hbound : (getQ s (vTx (getVnic s v.val).conf)).bound = true) (hlen : (getQ s (vTx (getVnic s v.val).conf)).len ≠ 0)
    (hmin : 60 ≤ field (headEntry s (vTx (getVnic s v.val).conf)) 8 2) (hmax : field (headEntry s (vTx (getVnic s v.val).conf)) 8 2 ≤ 9212)
    (hplain : field (headEntry s (vTx (getVnic s v.val).conf)) 10 1 = 0)
    (hread : busRead (vnicIni (ownerOf (getVnic s v.val).owner)) (field (headEntry s (vTx (getVnic s v.val).conf)) 0 6)
      (field (headEntry s (vTx (getVnic s v.val).conf)) 8 2) (txTaken v.val s) = (w, stOK, bs)) :
    ∃ f : EthFrame, f.bytes = bs ∧ f.vlan = BitVec.ofNat 12 (field (getVnic s v.val).conf 2 2) ∧ f.dst = BitVec.ofNat 48 (field bs 0 6) ∧
      f.body = Config.ethBody bs ∧
      RunsThen (.vnicTransmit v) s (ingress (dozing s) 0 f) fun u => u = { w with io := { w.io with vnic := u.io.vnic } } ∧
        getVnic u v.val = { getVnic w v.val with sent := (getVnic w v.val).sent.add 1 } ∧ ∀ j, j ≠ v.val → getVnic u j = getVnic w j := by
  have hexec := exec_vnicTransmit hon hheld hbound hlen hmin hmax hplain hread
  have hstatus := congrArg (fun x : State × Nat × List Byte => x.2.1) hread
  have hpw := (pw_busRead hstatus).trans (pw_txTaken v.val s)
  rw [hread] at hpw
  have hdozing : dozing (modVnic w v.val fun t => { t with sent := t.sent.add 1 }) = dozing s := by
    have hsent : (modVnic w v.val fun t => { t with sent := t.sent.add 1 }).pw = s.pw := hpw
    unfold dozing
    rw [hsent]
  rw [hdozing] at hexec
  refine ⟨sentFrame (getVnic s v.val).conf (headEntry s (vTx (getVnic s v.val).conf)) bs, rfl, rfl, rfl, rfl, _, hexec, rfl, ?_, fun j hj => ?_⟩
  · exact getVnic_modVnic_same ..
  · exact getVnic_modVnic_ne _ _ hj

/-- A frame that finds no place is dropped. -/
theorem vnicReceive_drops {f : EthFrame} (hon : vnicOn s v.val = true) (hfor : vnicFor (getVnic s v.val).conf f = true)
    (hfull : (getQ s (vFree (getVnic s v.val).conf)).bound = false ∨ (getQ s (vFree (getVnic s v.val).conf)).len = 0 ∨
      canPush s (vRx (getVnic s v.val).conf) = false ∨ field (getVnic s v.val).conf 24 2 < f.bytes.length) :
    Runs (.vnicReceive v f) s fun t => t = { s with io := { s.io with vnic := t.io.vnic } } ∧
      getVnic t v.val = { getVnic s v.val with dropped := (getVnic s v.val).dropped.add 1 } ∧ ∀ j, j ≠ v.val → getVnic t j = getVnic s j := by
  have hexec : exec (.vnicReceive v f) s = .next (modVnic s v.val fun t => { t with dropped := t.dropped.add 1 }) := by
    show execVnicReceive v f s = _
    unfold execVnicReceive
    dsimp only
    rw [if_neg (by simp [hon, hfor]), if_pos]
    rcases hfull with h | h | h | h <;> simp [h]
  exact ⟨_, hexec, rfl, getVnic_modVnic_same .., fun j hj => getVnic_modVnic_ne _ _ hj⟩

/-- A frame that finds an empty buffer goes there, with its record. -/
theorem vnicReceive_stores {f : EthFrame} {w : State} (hon : vnicOn s v.val = true) (hfor : vnicFor (getVnic s v.val).conf f = true)
    (hbound : (getQ s (vFree (getVnic s v.val).conf)).bound = true) (hlen : (getQ s (vFree (getVnic s v.val).conf)).len ≠ 0)
    (hcan : canPush s (vRx (getVnic s v.val).conf) = true) (hheld : (getVnic s v.val).held = [])
    (hfits : f.bytes.length ≤ field (getVnic s v.val).conf 24 2)
    (hwrite : busWrite (vnicIni (ownerOf (getVnic s v.val).owner)) (field (headEntry s (vFree (getVnic s v.val).conf)) 0 6) f.bytes
      (roomMade (vFree (getVnic s v.val).conf) (popEntry (vFree (getVnic s v.val).conf) s)) = (w, stOK)) :
    Runs (.vnicReceive v f) s fun t => ∃ k fl u, t = pushEntry (vRx (getVnic s v.val).conf)
        (vnicRec 0 fl f.bytes.length (field (headEntry s (vFree (getVnic s v.val).conf)) 0 6) f.pcp.toNat 0 k) u ∧
      fl % 4 = (if bitOf (field (getVnic s v.val).conf 1 1) 1 then (if f.csumGood then 1 else 2) else 0) ∧
      u = { w with io := { w.io with vnic := u.io.vnic }, fresh := u.fresh } ∧
      getVnic u v.val = { getVnic w v.val with recvd := (getVnic w v.val).recvd.add 1 } := by
  have hexec : exec (.vnicReceive v f) s = .next (pushEntry (vRx (getVnic s v.val).conf)
      (vnicRec 0 ((if bitOf (field (getVnic s v.val).conf 1 1) 1 then (if f.csumGood then 1 else 2) else 0) + 4 * ((freeNum (freeNum w).2).1 % 2))
        f.bytes.length (field (headEntry s (vFree (getVnic s v.val).conf)) 0 6) f.pcp.toNat 0 ((freeNum w).1 % 2 ^ 64))
      (modVnic (freeNum (freeNum w).2).2 v.val fun t => { t with recvd := t.recvd.add 1 })) := by
    show execVnicReceive v f s = _
    unfold execVnicReceive
    dsimp only
    rw [if_neg (by simp [hon, hfor]), if_neg (by simp [hbound, hlen, hcan, hheld, hfits]), hwrite]
    dsimp only
    rw [if_neg (fun h => h rfl)]
  refine ⟨_, hexec, _, _, _, rfl, ?_, rfl, getVnic_modVnic_same ..⟩
  rw [Nat.add_mul_mod_self_left]
  split
  · split <;> rfl
  · rfl

end

/-- Settles O60: frames of the I²S ports, and frames that the virtual interfaces send and receive. -/
theorem framesAndInterfaces : Obligations.FramesAndInterfaces :=
  ⟨fun _ _ _ hon hfly => i2sFrame_idle hon hfly,
    fun _ _ _ _ _ _ hon hfly hop hmore hbegun hread hio honv => i2sFrame_plays rfl hon hfly hop hmore hbegun hread hio honv,
    fun _ _ _ _ hon hheld hbound hlen hmin hmax hplain hread => vnicTransmit_effect hon hheld hbound hlen hmin hmax hplain hread,
    fun _ _ _ hon hfor => ⟨fun hfull => vnicReceive_drops hon hfor hfull, fun hbound hlen hcan hheld hfits _ hwrite =>
      vnicReceive_stores hon hfor hbound hlen hcan hheld hfits hwrite⟩⟩

end Sys2Proof.Machine

/-! The limits on current, power and temperature (R38, R41, R44 to R50). -/

namespace Sys2Proof.Machine
open Sys2Proof.Claims

/-! ### Steps of the divider -/

theorem lt_stepDown {d : Nat} (h : d < 16) : d < stepDown d := by
  unfold stepDown tclkSteps
  interval_cases d <;> decide

/-! ### The root PLL (R38) -/

theorem runs_pllUnlock {n : BitVec 32} {s : State} (hlost : s.pw.pllLost = false) (hsup : s.pw.supplied = true) (hrest : s.pw.st ≠ .rest)
    (hpark : s.pw.st ≠ .park) : Runs (.pllUnlock n) s fun t => t.pw = { s.pw with pllLost := true } ∧ bitOf t.safe.causes 2 = true ∧
      t.caddy.frozen = true ∧ t.caddy.flushing = true ∧ PwOnly s t ∧ Logs 0x3006 0x2000 (leBytes 1 t.safe.causes ++ leBytes 1 2) s t ∧
      LogsNth 1 0x7008 srcKeep (leBytes 4 n.toNat) s t := by
  set a := assertFaultN 2 (modPw s fun p => { p with pllLost := true }) with ha
  obtain ⟨hbit, hframe, hwrote⟩ := assertFrom_effect 0x2000 2 (modPw s fun p => { p with pllLost := true })
  rw [show assertFrom 0x2000 2 (modPw s fun p => { p with pllLost := true }) = a from rfl] at hbit hframe hwrote
  set b := event srcKeep 0x7008 noParty (leBytes 4 n.toNat) a with hb
  obtain ⟨r, u, hlast, hring, hfrozen, hflush, hmark⟩ := freezeMarker_effect 2 (recoveryEst a) srcKeep b
  have hexec : exec (.pllUnlock n) s = .next (freezeMarker 2 (recoveryEst a) srcKeep b) := by
    show execPllUnlock n s = _
    simp only [execPllUnlock, hlost, hsup, hrest, hpark, Bool.not_true, decide_false, Bool.or_self, Bool.false_eq_true, if_false]
    rfl
  have hsafe : (freezeMarker 2 (recoveryEst a) srcKeep b).safe.causes = a.safe.causes := by
    unfold freezeMarker
    dsimp only
    split <;> rfl
  have hall : Wrote [recOf 0x2000 0x3006 noParty (leBytes 1 a.safe.causes ++ leBytes 1 2) s, recOf srcKeep 0x7008 noParty (leBytes 4 n.toNat) s, r] s u :=
    ((Wrote.event (s := s) ⟨hwrote.caddy, hwrote.ktime⟩ srcKeep 0x7008 noParty (leBytes 4 n.toNat)).trans hlast)
  refine ⟨_, hexec, ?_, ?_, hfrozen, hflush, ?_, ?_, ?_⟩
  · rw [hmark, hb, hframe]
    rfl
  · rw [hsafe]
    exact hbit
  · unfold PwOnly
    rw [hmark, hb, hframe]
    rfl
  · rw [hsafe]
    exact logs_of_ring (hall.logs (by simp) rfl (by simp)) hring
  · exact logsNth_of_ring (hall.logsNth (i := 1) (by simp) (by simp) rfl (by simp)) hring


/-! ### Current and power (R45, R46) -/

theorem pwOnly_trans {s t u : State} (a : PwOnly s t) (b : PwOnly t u) : PwOnly s u := by
  unfold PwOnly at *
  rw [b, a]

theorem pwOnly_of_frame {s t : State} (h : PwOnly s t) : PwOnly s (settleDiv t) := by
  unfold PwOnly at *
  have hset := settleDiv_frame t
  generalize settleDiv t = u at hset ⊢
  rw [hset, h]

theorem wrote_settleDiv {rs : List CadRec} {s t : State} (h : Wrote rs s t) : Wrote rs s (settleDiv t) := by
  have hset := settleDiv_frame t
  refine h.same ?_ ?_
  · rw [hset]
  · rw [hset]

/-- A divider that does not quicken takes effect at once. -/
theorem settleDiv_slower {t : State} {d : Nat} (hclock : ¬(t.pw.st = .hush ∨ t.pw.vddWait = true)) (hd : effDiv t = d) (hslow : t.pw.div ≤ d) :
    (settleDiv t).pw = { t.pw with div := d, divNext := 0, vddTarget := fusedMv d } := by
  unfold settleDiv
  dsimp only
  rw [if_neg hclock, hd]
  split
  · next h => rw [h]
  · next h => rw [if_pos (by omega)]

theorem runs_fastCurrentLimit {s : State} (hfast : s.pw.fast = false) (hclocked : clocked s = true) (hdiv : s.pw.div ≤ 16) :
    Runs .fastCurrentLimit s fun t => t.pw = { s.pw with fast := true, div := 16, divNext := 0, vddTarget := fusedMv 16 } ∧ PwOnly s t ∧
      Logs 0x7001 srcKeep (leBytes 1 (effDiv s) ++ leBytes 1 16 ++ leBytes 2 0xFFFF ++ leBytes 1 1) s t := by
  have hexec : exec .fastCurrentLimit s = .next (settleDiv (powerEvent (effDiv s) 16 0xFFFF 1 (modPw s fun p => { p with fast := true }))) := by
    show execFastCurrentLimit s = _
    unfold execFastCurrentLimit
    rw [hfast, hclocked]
    rfl
  have honly : PwOnly s (powerEvent (effDiv s) 16 0xFFFF 1 (modPw s fun p => { p with fast := true })) := rfl
  have hwrote : Wrote [recOf srcKeep 0x7001 noParty (leBytes 1 (effDiv s) ++ leBytes 1 16 ++ leBytes 2 0xFFFF ++ leBytes 1 1) s] s
      (powerEvent (effDiv s) 16 0xFFFF 1 (modPw s fun p => { p with fast := true })) := by
    have hsame : Wrote [] s (modPw s fun p => { p with fast := true }) := ⟨rfl, rfl⟩
    exact hsame.event ..
  have hclock : ¬(s.pw.st = .hush ∨ s.pw.vddWait = true) := by
    unfold clocked at hclocked
    simp only [Bool.and_eq_true, decide_eq_true_eq, Bool.not_eq_true'] at hclocked
    obtain ⟨⟨⟨⟨⟨⟨hrun, -⟩, -⟩, -⟩, -⟩, -⟩, hwait⟩ := hclocked
    rw [hrun, hwait]
    simp
  exact ⟨_, hexec, settleDiv_slower (t := powerEvent (effDiv s) 16 0xFFFF 1 (modPw s fun p => { p with fast := true })) hclock rfl hdiv,
    pwOnly_of_frame honly, (wrote_settleDiv hwrote).logs (by simp) rfl (by simp)⟩

/-- A window that ends, in a part that runs and whose fast limiter is at rest. -/
theorem exec_powerWindow {dw : Nat} {s : State} (hsup : s.pw.supplied = true) (hrest : s.pw.st ≠ .rest) (hpark : s.pw.st ≠ .park)
    (hfast : s.pw.fast = false) : exec (.powerLimitWindow dw) s = .next (settleDiv (
      if capDw s < dw then movePower true dw (modPw s fun p => { p with lowWindows := 0 })
      else if 100 * dw < 95 * capDw s then
        if 9 ≤ s.pw.lowWindows then movePower false dw (modPw s fun p => { p with lowWindows := 0 })
        else modPw s fun p => { p with lowWindows := p.lowWindows + 1 }
      else modPw s fun p => { p with lowWindows := 0 })) := by
  show execPowerLimitWindow dw s = _
  unfold execPowerLimitWindow
  simp only [hsup, hrest, hpark, hfast, Bool.not_true, decide_false, Bool.or_self, Bool.false_eq_true, if_false]

/-- power_step moves to another step. -/
theorem movePower_moves {down : Bool} {dw new : Nat} {s : State} (hnew : max (max s.part.floor (requestedDiv s))
      (if down then stepDown (max s.pw.powerStep (max s.part.floor (requestedDiv s))) else stepUp (max s.pw.powerStep (max s.part.floor (requestedDiv s)))) = new)
    (hne : new ≠ max s.pw.powerStep (max s.part.floor (requestedDiv s))) : movePower down dw s =
      powerEvent (max s.pw.powerStep (max s.part.floor (requestedDiv s))) new (min dw 0xFFFE) 0 (modPw s fun p => { p with powerStep := new }) := by
  unfold movePower
  dsimp only
  rw [hnew, if_neg hne]

theorem runs_windowAbove {dw : Nat} {s : State} (hsup : s.pw.supplied = true) (hrest : s.pw.st ≠ .rest) (hpark : s.pw.st ≠ .park)
    (hfast : s.pw.fast = false) (hcap : capDw s < dw) (hmore : max s.pw.powerStep (max s.part.floor (requestedDiv s)) < 16) :
    RunsThen (.powerLimitWindow dw) s settleDiv fun u => PwOnly s u ∧
      u.pw = { s.pw with lowWindows := 0, powerStep := stepDown (max s.pw.powerStep (max s.part.floor (requestedDiv s))) } ∧
      Logs 0x7001 srcKeep (leBytes 1 (max s.pw.powerStep (max s.part.floor (requestedDiv s))) ++ leBytes 1 u.pw.powerStep ++
        leBytes 2 (min dw 0xFFFE) ++ leBytes 1 0) s u := by
  have hstep := lt_stepDown hmore
  have hmoves : movePower true dw (modPw s fun p => { p with lowWindows := 0 }) = _ :=
    movePower_moves (new := stepDown (max s.pw.powerStep (max s.part.floor (requestedDiv s)))) (Nat.max_eq_right (by
      show max s.part.floor (requestedDiv s) ≤ stepDown (max s.pw.powerStep (max s.part.floor (requestedDiv s)))
      omega)) (Nat.ne_of_gt hstep)
  have hexec := exec_powerWindow hsup hrest hpark hfast (dw := dw)
  rw [if_pos hcap, hmoves] at hexec
  exact ⟨_, hexec, rfl, rfl, logs_event (by simp) rfl rfl rfl rfl⟩

theorem runs_windowLow {dw : Nat} {s : State} (hsup : s.pw.supplied = true) (hrest : s.pw.st ≠ .rest) (hpark : s.pw.st ≠ .park)
    (hfast : s.pw.fast = false) (hlow : 100 * dw < 95 * capDw s) (hcount : s.pw.lowWindows < 9) :
    RunsThen (.powerLimitWindow dw) s settleDiv fun u => u = { s with pw := { s.pw with lowWindows := s.pw.lowWindows + 1 } } := by
  have hexec := exec_powerWindow hsup hrest hpark hfast (dw := dw)
  rw [if_neg (by omega), if_pos hlow, if_neg (by omega)] at hexec
  exact ⟨_, hexec, rfl⟩

theorem runs_windowTenth {dw : Nat} {s : State} (hsup : s.pw.supplied = true) (hrest : s.pw.st ≠ .rest) (hpark : s.pw.st ≠ .park)
    (hfast : s.pw.fast = false) (hlow : 100 * dw < 95 * capDw s) (hcount : 9 ≤ s.pw.lowWindows)
    (hreq : max s.part.floor (requestedDiv s) ≤ stepUp s.pw.powerStep) (hup : stepUp s.pw.powerStep < s.pw.powerStep) :
    RunsThen (.powerLimitWindow dw) s settleDiv fun u => PwOnly s u ∧ u.pw = { s.pw with lowWindows := 0, powerStep := stepUp s.pw.powerStep } := by
  have hbase : max s.pw.powerStep (max s.part.floor (requestedDiv s)) = s.pw.powerStep := Nat.max_eq_left (by omega)
  have hexec := exec_powerWindow hsup hrest hpark hfast (dw := dw)
  have hmoves : movePower false dw (modPw s fun p => { p with lowWindows := 0 }) = _ :=
    movePower_moves (new := stepUp s.pw.powerStep) (by
      show max (max s.part.floor (requestedDiv s)) (stepUp (max s.pw.powerStep (max s.part.floor (requestedDiv s)))) = _
      rw [hbase]
      exact Nat.max_eq_right hreq) (by
      show stepUp s.pw.powerStep ≠ max s.pw.powerStep (max s.part.floor (requestedDiv s))
      rw [hbase]
      exact Nat.ne_of_lt hup)
  rw [if_neg (by omega), if_pos hlow, if_pos hcount, hmoves] at hexec
  exact ⟨_, hexec, rfl, rfl⟩

theorem pwOnly_movePower (down : Bool) (dw : Nat) (s : State) : PwOnly s (movePower down dw s) := by
  unfold movePower
  extract_lets req base new
  split <;> rfl

/-- A window that ends frees the fast limiter. -/
theorem runs_windowFast {dw : Nat} {s : State} (hsup : s.pw.supplied = true) (hrest : s.pw.st ≠ .rest) (hpark : s.pw.st ≠ .park)
    (hfast : s.pw.fast = true) : Runs (.powerLimitWindow dw) s fun t => t.pw.fast = false ∧ PwOnly s t := by
  have hslow : ∀ u, u.pw.fast = false → PwOnly s u → (settleDiv u).pw.fast = false ∧ PwOnly s (settleDiv u) := by
    intro u hu honly
    refine ⟨?_, pwOnly_of_frame honly⟩
    unfold settleDiv
    dsimp only
    split
    · exact hu
    · split
      · exact hu
      · split <;> exact hu
  have hmove : ∀ down u, u.pw.fast = false → (movePower down dw u).pw.fast = false := by
    intro down u hu
    unfold movePower
    extract_lets req base new
    split <;> exact hu
  have hfirst : PwOnly s (powerEvent 16 (effDiv (modPw s fun p => { p with fast := false })) 0xFFFF 1 (modPw s fun p => { p with fast := false })) := rfl
  have hslowed : (powerEvent 16 (effDiv (modPw s fun p => { p with fast := false })) 0xFFFF 1 (modPw s fun p => { p with fast := false })).pw.fast = false :=
    rfl
  refine ⟨_, by
    show execPowerLimitWindow dw s = _
    unfold execPowerLimitWindow
    simp only [hsup, hrest, hpark, hfast, Bool.not_true, decide_false, Bool.or_self, Bool.false_eq_true, if_false, if_true]
    rfl, ?_⟩
  generalize powerEvent 16 (effDiv (modPw s fun p => { p with fast := false })) 0xFFFF 1 (modPw s fun p => { p with fast := false }) = v at hfirst hslowed ⊢
  split
  · exact hslow _ (hmove _ _ hslowed) (pwOnly_trans hfirst (pwOnly_trans (t := modPw v fun p => { p with lowWindows := 0 }) rfl (pwOnly_movePower ..)))
  · split
    · split
      · exact hslow _ (hmove _ _ hslowed) (pwOnly_trans hfirst (pwOnly_trans (t := modPw v fun p => { p with lowWindows := 0 }) rfl (pwOnly_movePower ..)))
      · exact hslow _ hslowed (pwOnly_trans hfirst rfl)
    · exact hslow _ hslowed (pwOnly_trans hfirst rfl)

/-! ### Voltage (R41, R44) -/

theorem runs_voltageTrim {mv : Nat} {s : State} (hclocked : clocked s = true) :
    Runs (.voltageTrimCycle mv) s fun t => 650 ≤ t.pw.vddTarget ∧ t.pw.vddTarget ≤ 850 ∧ t.pw.vddTarget % 5 = 0 ∧
      t.pw = { s.pw with vddTarget := t.pw.vddTarget } ∧ PwOnly s t ∧
      (s.pw.trim.getD (tclkSteps.idxOf s.pw.div) 0 = 0 → 650 ≤ mv → mv ≤ 850 → t.pw.vddTarget = mv / 5 * 5 ∧ t.caddy = s.caddy) := by
  have hbounds : ∀ ask : Nat, 650 ≤ max 650 (min 850 (ask / 5 * 5)) ∧ max 650 (min 850 (ask / 5 * 5)) ≤ 850 ∧
      max 650 (min 850 (ask / 5 * 5)) % 5 = 0 := by intro ask; omega
  have hexec : exec (.voltageTrimCycle mv) s = .next (
      if (Int.ofNat mv + (s.pw.trim.getD (tclkSteps.idxOf s.pw.div) 0) * 5).toNat < 650 ∨
          850 < (Int.ofNat mv + (s.pw.trim.getD (tclkSteps.idxOf s.pw.div) 0) * 5).toNat then
        event srcAfzan 0x7009 noParty (leBytes 2 (min (Int.ofNat mv + (s.pw.trim.getD (tclkSteps.idxOf s.pw.div) 0) * 5).toNat 65535) ++
            leBytes 2 (max 650 (min 850 ((Int.ofNat mv + (s.pw.trim.getD (tclkSteps.idxOf s.pw.div) 0) * 5).toNat / 5 * 5))))
          (modPw s fun p => { p with
            vddTarget := max 650 (min 850 ((Int.ofNat mv + (s.pw.trim.getD (tclkSteps.idxOf s.pw.div) 0) * 5).toNat / 5 * 5)) })
      else modPw s fun p => { p with
        vddTarget := max 650 (min 850 ((Int.ofNat mv + (s.pw.trim.getD (tclkSteps.idxOf s.pw.div) 0) * 5).toNat / 5 * 5)) }) := by
    show execVoltageTrimCycle mv s = _
    unfold execVoltageTrimCycle
    rw [hclocked]
    rfl
  obtain ⟨hlo, hhi, hmod⟩ := hbounds (Int.ofNat mv + (s.pw.trim.getD (tclkSteps.idxOf s.pw.div) 0) * 5).toNat
  refine ⟨_, hexec, ?_⟩
  split
  · next hout =>
    refine ⟨hlo, hhi, hmod, rfl, rfl, fun hzero hmin hmax => absurd hout ?_⟩
    rw [hzero]
    have : (Int.ofNat mv + (0 : Int) * 5).toNat = mv := by simp
    rw [this]
    omega
  · refine ⟨hlo, hhi, hmod, rfl, rfl, fun hzero hmin hmax => ⟨?_, rfl⟩⟩
    show max 650 (min 850 ((Int.ofNat mv + (s.pw.trim.getD (tclkSteps.idxOf s.pw.div) 0) * 5).toNat / 5 * 5)) = mv / 5 * 5
    rw [hzero]
    have : (Int.ofNat mv + (0 : Int) * 5).toNat = mv := by simp
    rw [this]
    omega

theorem runs_vddPlain {s : State} (hsup : s.pw.supplied = true) (hwait : s.pw.vddWait = false) (hnext : s.pw.divNext = 0) :
    Runs .vddLeafReachesSetting s fun t => t = { s with pw := { s.pw with vdd := s.pw.vddTarget } } := by
  refine ⟨_, ?_, rfl⟩
  show execVddLeafReachesSetting s = _
  unfold execVddLeafReachesSetting
  simp [hsup, hwait, hnext, modPw]

theorem runs_vddRestarts {s : State} (hsup : s.pw.supplied = true) (hwait : s.pw.vddWait = true) (hst : s.pw.st ≠ .hush) :
    RunsThen .vddLeafReachesSetting s settleDiv fun u =>
      u = { s with pw := { s.pw with vdd := s.pw.vddTarget, div := 16, divNext := 0, vddWait := false } } := by
  refine ⟨_, ?_, rfl⟩
  show execVddLeafReachesSetting s = _
  unfold execVddLeafReachesSetting
  simp [hsup, hwait, hst, modPw]

theorem runs_vddQuickens {s : State} (hsup : s.pw.supplied = true) (hwait : s.pw.vddWait = false) (hnext : s.pw.divNext ≠ 0) (hst : s.pw.st = .run) :
    RunsThen .vddLeafReachesSetting s settleDiv fun u =>
      u = { s with pw := { s.pw with vdd := s.pw.vddTarget, div := s.pw.divNext, divNext := 0 } } := by
  refine ⟨_, ?_, rfl⟩
  show execVddLeafReachesSetting s = _
  unfold execVddLeafReachesSetting
  simp [hsup, hwait, hnext, hst, modPw]

theorem currentAndPowerLimits : CurrentAndPowerLimits :=
  ⟨fun _ _ hlost hsup hrest hpark => runs_pllUnlock hlost hsup hrest hpark, fun _ hfast hclocked hdiv => runs_fastCurrentLimit hfast hclocked hdiv,
    fun _ _ hsup hrest hpark hfast hcap hmore => runs_windowAbove hsup hrest hpark hfast hcap hmore,
    fun _ _ hsup hrest hpark hfast hlow hcount => runs_windowLow hsup hrest hpark hfast hlow hcount,
    fun _ _ hsup hrest hpark hfast hlow hcount hreq hup => runs_windowTenth hsup hrest hpark hfast hlow hcount hreq hup,
    fun _ _ hsup hrest hpark hfast => runs_windowFast hsup hrest hpark hfast, fun _ _ hclocked => runs_voltageTrim hclocked,
    fun _ hsup hwait hnext => runs_vddPlain hsup hwait hnext, fun _ hsup hwait hst => runs_vddRestarts hsup hwait hst,
    fun _ hsup hwait hnext hst => runs_vddQuickens hsup hwait hnext hst⟩

end Sys2Proof.Machine

/-! The limits on temperature (R47 to R50). -/

namespace Sys2Proof.Machine
open Sys2Proof.Claims

/-! ### thermal_step (R47, R50) -/

section
variable {n : Fin 28} {deci : Int} {s : State}

/-- thermal_step moves one step down from below /16. -/
theorem thermalDown_moves {sensor : Nat} {t : State} (hmore : max t.pw.thermalStep t.part.floor < 16) : thermalDown sensor deci t =
    thermalEvent (max t.pw.thermalStep t.part.floor) (stepDown (max t.pw.thermalStep t.part.floor)) sensor deci
      (modPw t fun p => { p with thermalStep := stepDown (max t.pw.thermalStep t.part.floor) }) := by
  unfold thermalDown
  exact if_neg (Nat.ne_of_gt (lt_stepDown hmore))

theorem runs_throttle (hsup : s.pw.supplied = true) (hrest : s.pw.st ≠ .rest) (hpark : s.pw.st ≠ .park)
    (hhot : Int.ofNat (10 * throttleC s) ≤ deci) (hsince : ∀ t, s.pw.hotSince = some t → 100000 ≤ ktSince s t)
    (hmore : max s.pw.thermalStep s.part.floor < 16) : RunsThen (.thermalThrottle n deci) s settleDiv fun u => PwOnly s u ∧
      u.pw.thermalStep = stepDown (max s.pw.thermalStep s.part.floor) ∧ u.pw.hotSince = some s.ktime ∧
      u.pw = { s.pw with thermalStep := u.pw.thermalStep, hotSince := u.pw.hotSince, coolSince := u.pw.coolSince } ∧
      Logs 0x7002 srcKeep (leBytes 1 (max s.pw.thermalStep s.part.floor) ++ leBytes 1 u.pw.thermalStep ++ leBytes 1 n.val ++
        leBytes 2 (codeOf 16 deci)) s u := by
  have hexec : ∃ c, exec (.thermalThrottle n deci) s =
      .next (settleDiv (thermalDown n.val deci (modPw s fun p => { p with hotSince := some s.ktime, coolSince := c }))) := by
    show ∃ c, execThermalThrottle n deci s = _
    unfold execThermalThrottle
    simp only [hsup, hrest, hpark, hhot, Bool.not_true, decide_false, Bool.or_self, Bool.false_eq_true, if_false, if_true]
    split
    · next t ht =>
      rw [if_neg (Nat.not_lt.2 (hsince t ht))]
      exact ⟨s.pw.coolSince, rfl⟩
    · exact ⟨none, rfl⟩
  obtain ⟨c, hexec⟩ := hexec
  rw [thermalDown_moves (t := modPw s fun p => { p with hotSince := some s.ktime, coolSince := c }) hmore] at hexec
  exact ⟨_, hexec, rfl, rfl, rfl, rfl, logs_event (by simp) rfl rfl rfl rfl⟩

theorem exec_throttle_early {t0 : Nat} (hsince : s.pw.hotSince = some t0) (hearly : ktSince s t0 < 100000) (hhot : Int.ofNat (10 * throttleC s) ≤ deci) :
    exec (.thermalThrottle n deci) s = .next s := by
  show execThermalThrottle n deci s = _
  unfold execThermalThrottle
  dsimp only
  rw [if_pos hhot, hsince]
  dsimp only
  rw [if_pos hearly, ite_self]

theorem runs_cooled {t0 : Nat} (hsup : s.pw.supplied = true) (hrest : s.pw.st ≠ .rest) (hpark : s.pw.st ≠ .park)
    (hcool : deci < Int.ofNat (10 * throttleC s) - 50) (hsince : s.pw.coolSince = some t0) (hlate : 1000000 ≤ ktSince s t0)
    (hmore : otherDiv s < s.pw.thermalStep) : RunsThen (.thermalThrottle n deci) s settleDiv fun u => PwOnly s u ∧
      u.pw = { s.pw with thermalStep := stepUp s.pw.thermalStep, hotSince := none, coolSince := some s.ktime } ∧
      Logs 0x7002 srcKeep (leBytes 1 s.pw.thermalStep ++ leBytes 1 u.pw.thermalStep ++ leBytes 1 n.val ++ leBytes 2 (codeOf 16 deci)) s u := by
  have hup : thermalUp n.val deci (modPw s fun p => { p with hotSince := none, coolSince := some s.ktime }) = _ := if_neg (Nat.not_le.2 hmore)
  have hexec : exec (.thermalThrottle n deci) s =
      .next (settleDiv (thermalUp n.val deci (modPw s fun p => { p with hotSince := none, coolSince := some s.ktime }))) := by
    show execThermalThrottle n deci s = _
    unfold execThermalThrottle
    simp only [hsup, hrest, hpark, Bool.not_true, decide_false, Bool.or_self, Bool.false_eq_true, if_false]
    rw [if_neg (by omega), if_pos hcool, hsince]
    dsimp only
    rw [if_neg (Nat.not_lt.2 hlate)]
  rw [hup] at hexec
  exact ⟨_, hexec, rfl, rfl, logs_event (by simp) rfl rfl rfl rfl⟩

end

/-! ### What a hardware Doze spares (R48) -/

/-- An estate's record that is not empty after a change of every record is changed in its place. -/
theorem tget_tmap_of_ne {α : Type} [DecidableEq α] [Inhabited α] {f : α → α} {t : Tab α} {k : Nat} (hdef : tget t k ≠ default)
    (hne : f (tget t k) ≠ default) : tget (tmap f t) k = f (tget t k) := by
  induction t with
  | nil => exact absurd rfl hdef
  | cons x t ih =>
    obtain ⟨k', v⟩ := x
    unfold tmap at ih ⊢
    rw [List.map_cons, List.filter_cons]
    by_cases hk : k' = k
    · rw [show tget ((k', v) :: t) k = v from if_pos hk] at hne ⊢
      rw [if_pos (decide_eq_true hne)]
      exact if_pos hk
    · rw [show tget ((k', v) :: t) k = tget t k from if_neg hk] at hdef hne ⊢
      split
      · exact (if_neg hk).trans (ih hdef hne)
      · exact ih hdef hne

/-- The estate lives on, is halted no more and no less, and is not given a job. -/
structure Spared (x y : Estate) : Prop where
  live : x.live = true → y.live = true
  halted : x.live = true → y.halted = x.halted
  job : x.live = true → x.job = none → y.job = none

theorem Spared.refl (x : Estate) : Spared x x := ⟨id, fun _ => rfl, fun _ h => h⟩

theorem Spared.trans {x y z : Estate} (a : Spared x y) (b : Spared y z) : Spared x z :=
  ⟨fun h => b.live (a.live h), fun h => (b.halted (a.live h)).trans (a.halted h), fun h hj => b.job (a.live h) (a.job h hj)⟩

theorem Spared.fired {e : Nat} {t u : Tab Estate} (h : Fired t u) : Spared (tget t e) (tget u e) := by
  induction h with
  | refl => exact .refl ..
  | @fire u ns _ ih =>
    refine ih.trans ?_
    by_cases hlive : (tget u e).live = true
    · have hne : tget u e ≠ default := by
        intro h
        rw [h] at hlive
        cases hlive
      have hget : tget (tmap (Estate.fire ns) u) e = Estate.fire ns (tget u e) := tget_tmap_of_ne hne (by
        intro h
        have hl : (Estate.fire ns (tget u e)).live = true := hlive
        rw [h] at hl
        cases hl)
      rw [hget]
      exact ⟨id, fun _ => rfl, fun _ hj => by
        show (tget u e).job.map (Job.fire ns) = none
        rw [hj]
        rfl⟩
    · exact ⟨fun h => absurd h hlive, fun h => absurd h hlive, fun h => absurd h hlive⟩

/-- From `s` to `t` every estate is spared, and the power state stands. -/
structure Mild (s t : State) : Prop where
  est : ∀ e, Spared (getEst s e) (getEst t e)
  pw : t.pw = s.pw

theorem Mild.refl (s : State) : Mild s s := ⟨fun _ => .refl .., rfl⟩
theorem Mild.trans {s t u : State} (a : Mild s t) (b : Mild t u) : Mild s u := ⟨fun e => (a.est e).trans (b.est e), b.pw.trans a.pw⟩

theorem mild_foldl {β : Type} {f : State → β → State} (hf : ∀ s x, Mild s (f s x)) (l : List β) (s : State) : Mild s (l.foldl f s) :=
  foldl_related (R := Mild) .refl .trans hf l s

theorem mild_of_same {s t : State} (hest : t.jobs.est = s.jobs.est) (hpw : t.pw = s.pw) : Mild s t :=
  ⟨fun e => by unfold getEst; rw [hest]; exact .refl .., hpw⟩

theorem mild_posted {s t : State} (h : Posted s t) : Mild s t := ⟨fun _ => .fired h.est, h.pw⟩

theorem mild_modEst (s : State) (e : Nat) {f : Estate → Estate} (hf : ∀ x, Spared x (f x)) : Mild s (modEst s e f) := by
  refine ⟨fun e' => ?_, rfl⟩
  by_cases he : e' = e
  · subst he
    rw [getEst_modEst_same]
    exact hf _
  · rw [getEst_modEst_ne _ _ he]
    exact .refl ..

theorem mild_freeEst (e : Nat) (j : Job) (s : State) : Mild s (freeEst e j s) := by
  unfold freeEst
  extract_lets t m u
  have hfree : Mild s t := mild_modEst s e fun x => ⟨id, fun _ => rfl, fun _ _ => rfl⟩
  have hgfx : Mild t u := mild_of_same rfl rfl
  split
  · exact hfree.trans hgfx
  · exact (hfree.trans hgfx).trans (mild_of_same rfl rfl)

theorem mild_stopJob (e : Nat) (j : Job) (s : State) : Mild s (stopJob e j s).1 := by
  have hstops : Mild s ((jobLeaves j).foldl (fun s l => leafStop l s) s) := mild_foldl (by exact fun _ _ => mild_of_same rfl rfl) _ s
  exact hstops.trans (mild_of_same rfl rfl)

theorem mild_closeAll (es : List Nat) (a : State × Bool) : Mild a.1 (es.foldl closeOne a).1 := by
  induction es generalizing a with
  | nil => exact .refl _
  | cons x es ih =>
    rw [List.foldl_cons]
    refine Mild.trans ?_ (ih _)
    unfold closeOne
    split
    · exact .refl _
    · exact (mild_stopJob ..).trans (mild_freeEst ..)

theorem mild_writeDone (d : Nat × Nat × List Byte) (s : State) : Mild s (writeDone d s) := by
  have hdrop : Mild s (dropWatches d.2.1 s) := mild_of_same rfl rfl
  exact hdrop.trans (mild_posted (posted_complete ..))

theorem mild_endJob (e status reason : Nat) (s : State) : Mild s (endJob e status reason s) := by
  unfold endJob
  split
  · exact .refl s
  · next j _ =>
    have hclose : Mild s (closeJob e j s).1 := by
      rw [closeJob_eq]
      exact mild_closeAll (jobEsts e j) (s, false)
    exact (hclose.trans (mild_posted (posted_closeRec ..))).trans (mild_writeDone ..)

theorem mild_dropReplay (e status reason : Nat) (s : State) : Mild s (dropReplay e status reason s) := by
  unfold dropReplay
  split
  · exact .refl s
  · have hmod : Mild s (modEst s e fun x => { x with replay := none }) := mild_modEst s e fun x => ⟨id, fun _ => rfl, fun _ h => h⟩
    exact (hmod.trans (mild_posted (posted_closeRec ..))).trans (mild_writeDone ..)

/-! ### The end of every job (R48) -/

/-- An estate's job that waits for its replay ends. -/
def replayOut (a : State × Nat) (e : Nat) : State × Nat :=
  match (getEst a.1 e).replay with
  | some _ => (dropReplay e stABORTED stNO_RESOURCE a.1, a.2 + 1)
  | none => a

/-- An estate's job ends, unless the estate is halted. -/
def jobOut (a : State × Nat) (e : Nat) : State × Nat :=
  match jobOf a.1 e with
  | none => a
  | some _ => if (getEst a.1 e).halted then a else (abortJob e stNO_RESOURCE a.1, a.2 + 1)

/-- One estate of a hardware Doze. -/
def abortOne (a : State × Nat) (e : Nat) : State × Nat := jobOut (replayOut a e) e

theorem abortAll_eq (s : State) : abortAll s = (estates s).foldl abortOne (s, 0) := rfl

theorem mild_replayOut (a : State × Nat) (e : Nat) : Mild a.1 (replayOut a e).1 := by
  unfold replayOut
  split
  · exact mild_dropReplay ..
  · exact .refl _

theorem jobOut_effect (a : State × Nat) (e : Nat) : Mild a.1 (jobOut a e).1 ∧ ((getEst a.1 e).halted = false → jobOf (jobOut a e).1 e = none) := by
  unfold jobOut
  split
  · next h => exact ⟨.refl _, fun _ => h⟩
  · split
    · next h => exact ⟨.refl _, fun hun => by rw [hun] at h; cases h⟩
    · exact ⟨mild_endJob .., fun _ => jobOf_endJob ..⟩

theorem abortOne_effect (a : State × Nat) (e : Nat) : Mild a.1 (abortOne a e).1 ∧
    ((getEst a.1 e).live = true → (getEst a.1 e).halted = false → jobOf (abortOne a e).1 e = none) := by
  have hreplay := mild_replayOut a e
  obtain ⟨hmild, hjob⟩ := jobOut_effect (replayOut a e) e
  exact ⟨hreplay.trans hmild, fun hlive hun => hjob (((hreplay.est e).halted hlive).trans hun)⟩

theorem abortOnes_effect (es : List Nat) (a : State × Nat) : Mild a.1 (es.foldl abortOne a).1 ∧
    ∀ e ∈ es, (getEst a.1 e).live = true → (getEst a.1 e).halted = false → jobOf (es.foldl abortOne a).1 e = none := by
  induction es generalizing a with
  | nil => exact ⟨.refl _, fun _ h => absurd h List.not_mem_nil⟩
  | cons x es ih =>
    obtain ⟨hone, hjob⟩ := abortOne_effect a x
    obtain ⟨hrest, hall⟩ := ih (abortOne a x)
    refine ⟨hone.trans hrest, fun e he hlive hun => ?_⟩
    rcases List.mem_cons.1 he with rfl | he
    · exact (hrest.est e).job ((hone.est e).live hlive) (hjob hlive hun)
    · exact hall e he ((hone.est e).live hlive) (((hone.est e).halted hlive).trans hun)

/-! ### Pipes go idle (R48) -/

theorem mild_modPipe (s : State) (p : Nat) (f : Pipe → Pipe) : Mild s (modPipe s p f) := mild_of_same rfl rfl

theorem mild_underEvent (p : Nat) (s : State) : Mild s (underEvent p s) := by
  unfold underEvent
  dsimp only
  split
  · exact .refl s
  · exact (mild_modPipe ..).trans (mild_posted (posted_event ..))

theorem mild_dropTraining (p : Nat) (s : State) : Mild s (dropTraining p s) := by
  unfold dropTraining
  split
  · exact .refl s
  · exact (mild_modPipe ..).trans (mild_posted (posted_finish ..))

theorem mild_pipeIdle (p flags : Nat) (s : State) : Mild s (pipeIdle p flags s) := by
  unfold pipeIdle
  dsimp only
  split
  · exact ((mild_underEvent ..).trans (mild_dropTraining ..)).trans (mild_modPipe ..)
  · exact (mild_underEvent ..).trans (mild_modPipe ..)

theorem mild_pipesIdle (s : State) : Mild s (pipesIdle s) := by
  refine mild_foldl (fun v p => ?_) _ s
  dsimp only
  split
  · exact (mild_pipeIdle ..).trans (mild_posted (posted_finish ..))
  · split
    · exact mild_pipeIdle ..
    · exact mild_dropTraining ..

/-! ### The hardware Doze (R48) -/

/-- The state of a hardware Doze that gives way to what waited for the estates. -/
def dozed (voter sensor reading : Nat) (s : State) : State :=
  modPw (flushNow (event srcKeep 0x7003 noParty (leBytes 1 sensor ++ leBytes 2 reading ++ leBytes 2 (abortAll s).2) (pipesIdle (abortAll s).1)))
    fun p => { p with parking := 0, woken := none, dozing := voter + 1 }

theorem hardDoze_eq (voter sensor reading : Nat) (s : State) : hardDoze voter sensor reading s = settle (dozed voter sensor reading s) := rfl

theorem dozed_effect (voter sensor reading : Nat) (s : State) :
    (dozed voter sensor reading s).pw = { s.pw with parking := 0, woken := none, dozing := voter + 1 } ∧
    (dozed voter sensor reading s).caddy.flushing = true ∧
    ∀ e < 16, (getEst s e).live = true → (getEst s e).halted = false → jobOf (dozed voter sensor reading s) e = none := by
  obtain ⟨habort, hjobs⟩ := abortOnes_effect (estates s) (s, 0)
  have hidle := mild_pipesIdle (abortAll s).1
  unfold dozed
  rw [abortAll_eq] at hidle ⊢
  generalize (estates s).foldl abortOne (s, 0) = a at habort hjobs hidle ⊢
  generalize pipesIdle a.1 = v at hidle ⊢
  refine ⟨?_, rfl, fun e he hlive hun => ?_⟩
  · show { v.pw with parking := 0, woken := none, dozing := voter + 1 } = _
    rw [hidle.pw, habort.pw]
  · have hnone : jobOf v e = none := (hidle.est e).job ((habort.est e).live hlive) (hjobs e (mem_estates.2 ⟨he, hlive⟩) hlive hun)
    exact hnone

section
variable {n : Fin 28} {deci : Int} {s : State}

theorem runs_thermalDoze (hhot : 1250 ≤ deci) (hdoze : s.pw.thermalDoze = false) (hawake : awake s = true) :
    RunsThen (.thermalDoze n deci) s settle fun u => u.pw = { s.pw with thermalDoze := true, dozing := 0x100, parking := 0, woken := none } ∧
      u.caddy.flushing = true ∧ ∀ e < 16, (getEst s e).live = true → (getEst s e).halted = false → jobOf u e = none := by
  have hexec : exec (.thermalDoze n deci) s =
      .next (settle (dozed 0xFF n.val (codeOf 16 deci) (modPw s fun p => { p with thermalDoze := true }))) := by
    show execThermalDoze n deci s = _
    unfold execThermalDoze
    rw [if_neg (by simp [hdoze, hawake]; omega), hardDoze_eq]
  obtain ⟨hpw, hflush, hjobs⟩ := dozed_effect 0xFF n.val (codeOf 16 deci) (modPw s fun p => { p with thermalDoze := true })
  exact ⟨_, hexec, hpw, hflush, hjobs⟩

/-- Event 0x7002 of the step to /16, where it is a step. -/
def stepTold (deci : Int) (s : State) : State :=
  if s.pw.thermalStep = 16 then s else thermalEvent s.pw.thermalStep 16 (Config.freeNat (draw s).1 % 28) deci (draw s).2

/-- The state in which 1 s at 105 °C or less has ended. -/
def cooledState (deci : Int) (s : State) : State := settleDiv (modPw (stepTold deci s) fun p =>
  { p with thermalDoze := false, thermalStep := 16, hotSince := none, coolSince := some (stepTold deci s).ktime })

theorem settleDiv_pw (s : State) : (settleDiv s).pw.thermalDoze = s.pw.thermalDoze ∧ (settleDiv s).pw.thermalStep = s.pw.thermalStep ∧
    (settleDiv s).pw.st = s.pw.st ∧ (settleDiv s).pw.forced = s.pw.forced := by
  unfold settleDiv
  dsimp only
  split
  · exact ⟨rfl, rfl, rfl, rfl⟩
  · split
    · exact ⟨rfl, rfl, rfl, rfl⟩
    · split <;> exact ⟨rfl, rfl, rfl, rfl⟩

theorem cooledState_effect (deci : Int) (s : State) : PwOnly s (cooledState deci s) ∧ (cooledState deci s).pw.thermalDoze = false ∧
    (cooledState deci s).pw.thermalStep = 16 ∧ (cooledState deci s).pw.st = s.pw.st ∧ (cooledState deci s).pw.forced = s.pw.forced := by
  have htold : PwOnly s (stepTold deci s) ∧ (stepTold deci s).pw = s.pw := by
    unfold stepTold
    split <;> exact ⟨rfl, rfl⟩
  unfold cooledState
  generalize stepTold deci s = v at htold ⊢
  obtain ⟨honly, hpw⟩ := htold
  have hcool : PwOnly v (modPw v fun p => { p with thermalDoze := false, thermalStep := 16, hotSince := none, coolSince := some v.ktime }) := rfl
  obtain ⟨hdoze, hstep, hst, hforced⟩ := settleDiv_pw (modPw v fun p =>
    { p with thermalDoze := false, thermalStep := 16, hotSince := none, coolSince := some v.ktime })
  refine ⟨pwOnly_of_frame (pwOnly_trans honly hcool), hdoze, hstep, ?_, ?_⟩
  · rw [hst]
    show v.pw.st = s.pw.st
    rw [hpw]
  · rw [hforced]
    show v.pw.forced = s.pw.forced
    rw [hpw]

theorem runs_thermalDozeExit (hdoze : s.pw.thermalDoze = true) (hflushed : s.pw.dozing = 0) (hcool : deci ≤ 1050) :
    RunsThen (.thermalDozeExit deci) s (if s.pw.forced then id else lateAlarms) fun u => u.pw.thermalDoze = false ∧ u.pw.thermalStep = 16 ∧
      PwOnly s u ∧ u.pw.st = (if s.pw.forced then s.pw.st else .run) := by
  obtain ⟨honly, hnodoze, hstep, hst, hforced⟩ := cooledState_effect deci s
  have hexec : exec (.thermalDozeExit deci) s = .next (if (cooledState deci s).pw.forced then cooledState deci s
      else exitEvent 2 (leaveTo .run (cooledState deci s))) := by
    show execThermalDozeExit deci s = _
    unfold execThermalDozeExit
    refine congrArg Host.Outcome.next ((if_neg ?_).trans rfl)
    simp [hdoze, hflushed, hcool]
  rw [hforced] at hexec
  generalize cooledState deci s = c at honly hnodoze hstep hst hexec
  cases h : s.pw.forced with
  | true =>
    rw [h] at hexec
    exact ⟨c, hexec, hnodoze, hstep, honly, hst⟩
  | false =>
    rw [h] at hexec
    refine ⟨event srcAfzan 0x7006 noParty (leBytes 1 2 ++ leBytes 4 (Config.freeNat (draw (leaveTo .run c)).1)) (draw (leaveTo .run c)).2,
      hexec, ?_, ?_, ?_, ?_⟩
    · show (leaveTo .run c).pw.thermalDoze = false
      unfold leaveTo
      split <;> exact hnodoze
    · show (leaveTo .run c).pw.thermalStep = 16
      unfold leaveTo
      split <;> exact hstep
    · refine pwOnly_trans honly ?_
      unfold leaveTo
      split <;> rfl
    · show (leaveTo .run c).pw.st = .run
      unfold leaveTo
      split <;> rfl

theorem runs_thermalTrip (hsup : s.pw.supplied = true) :
    Runs .thermalTrip s fun t => t.pw.trip = true ∧ t.pw.supplied = false ∧ t.boot.phase = 1 ∧ t.queue = [] ∧ t.jobs = {} ∧
      field (tget t.field.log s.field.logNext) 10 1 = (if s.field.linkUp then 4 else 5) := by
  have hexec : exec .thermalTrip s = .next (fieldLog (if s.field.linkUp then 4 else 5) 0
      (modField (modPw (coreOff 1 s) fun p => { p with trip := true }) fun f => { f with tripped := s.field.linkUp })) := by
    show execThermalTrip s = _
    unfold execThermalTrip
    rw [hsup]
    rfl
  obtain ⟨-, hcode⟩ := fieldLog_effect (if s.field.linkUp then 4 else 5) 0
    (modField (modPw (coreOff 1 s) fun p => { p with trip := true }) fun f => { f with tripped := s.field.linkUp })
  refine ⟨_, hexec, rfl, rfl, rfl, rfl, rfl, hcode.trans ?_⟩
  cases s.field.linkUp <;> rfl

theorem runs_tripRestart (hphase : s.boot.phase = 1) (hwake : s.field.wake &&& s.field.wakeEn ≠ 0) :
    Runs .tripRestart s fun t => t.boot = { s.boot with phase := 2, kind := 0 } ∧ t.pw = { s.pw with trip := false } ∧
      t.caddy = s.caddy ∧ t.mem = s.mem := by
  have hexec : exec .tripRestart s = .next (modBoot (modField (modPw s fun p => { p with trip := false }) fun f => { f with tripped := false })
      fun b => { b with phase := 2, kind := 0 }) := by
    show execTripRestart s = _
    unfold execTripRestart
    rw [if_neg (by rintro (h | h); exacts [h hphase, hwake h])]
  exact ⟨_, hexec, rfl, rfl, rfl, rfl⟩

end

theorem thermalLimits : ThermalLimits :=
  ⟨fun _ _ _ hsup hrest hpark hhot hsince hmore => runs_throttle hsup hrest hpark hhot hsince hmore,
    fun _ _ _ _ hsince hearly hhot => exec_throttle_early hsince hearly hhot,
    fun _ _ _ _ hsup hrest hpark hcool hsince hlate hmore => runs_cooled hsup hrest hpark hcool hsince hlate hmore,
    fun _ _ _ hhot hdoze hawake => runs_thermalDoze hhot hdoze hawake, fun _ _ hdoze hflushed hcool => runs_thermalDozeExit hdoze hflushed hcool,
    fun _ hsup => runs_thermalTrip hsup, fun _ hphase hwake => runs_tripRestart hphase hwake⟩

/-- Settles O29: the limits on current, power and temperature. -/
theorem powerAndThermalLimits : Obligations.PowerAndThermalLimits := ⟨currentAndPowerLimits, thermalLimits⟩

end Sys2Proof.Machine

/-! What every step keeps of memory (assumption 9): the cells' canonical form. -/

namespace Sys2Proof.Machine

/-- The cells of memory are in canonical form. -/
def Wf (s : State) : Prop := Tab.wf s.mem.cells = true

/-- A state that may have been reached, if it was. -/
def WfO (o : Option State) : Prop := ∀ t, o = some t → Wf t
def WfC (c : Chk State) : Prop := ∀ t, c = .ok t → Wf t
def WfC1 {β : Type} (c : Chk (State × β)) : Prop := ∀ p, c = .ok p → Wf p.1
def WfM : Moved → Prop
  | .ok t => Wf t
  | .failed _ t => Wf t
  | .stop _ => True
def WfR (r : Res) : Prop := ∀ t, r = .next t → Wf t

section
variable {s t : State} {β γ : Type}

/-- A change of anything but the cells. -/
theorem wf_keep (h : Wf s) (e : t.mem.cells = s.mem.cells) : Wf t := by
  unfold Wf
  rw [e]
  exact h

theorem wf_sift {f : Nat × Byte → Bool} (h : Wf s) (e : t.mem.cells = s.mem.cells.filter f) : Wf t := by
  unfold Wf
  rw [e]
  exact wf_filter _ _ h

theorem wf_pair {b : β} (h : Wf s) : Wf (s, b).1 := h
theorem wf_pair_snd {b : β} (h : Wf s) : Wf (b, s).2 := h
theorem wf_fst {p : State × β} {b : β} (e : p = (s, b)) (h : Wf p.1) : Wf s := by subst e; exact h
theorem wf_snd {p : β × State} {b : β} (e : p = (b, s)) (h : Wf p.2) : Wf s := by subst e; exact h
theorem wf_some {o : Option State} (e : o = some s) (h : WfO o) : Wf s := h s e
theorem wf_ok {c : Chk State} (e : c = .ok s) (h : WfC c) : Wf s := h s e
theorem wf_ok_fst {c : Chk (State × β)} {b : β} (e : c = .ok (s, b)) (h : WfC1 c) : Wf s := h _ e
theorem wf_ok_pair {c : Chk (State × β)} {p : State × β} (e : c = .ok p) (h : WfC1 c) : Wf p.1 := h p e
theorem wf_moved {m : Moved} (e : m = .ok s) (h : WfM m) : Wf s := by subst e; exact h
theorem wf_failed {m : Moved} {st : Nat} (e : m = .failed st s) (h : WfM m) : Wf s := by subst e; exact h
theorem wf_next {r : Res} (e : r = .next s) (h : WfR r) : Wf s := h s e

theorem wfO_none : WfO none := fun _ e => nomatch e
theorem wfO_some (h : Wf s) : WfO (some s) := fun _ e => Option.some.inj e ▸ h
theorem wfC_ok (h : Wf s) : WfC (.ok s) := fun _ e => Except.ok.inj e ▸ h
theorem wfC_error {e : Stop} : WfC (.error e) := fun _ h => nomatch h
theorem wfC1_ok {p : State × β} (h : Wf p.1) : WfC1 (.ok p) := fun _ e => Except.ok.inj e ▸ h
theorem wfC1_error {e : Stop} : WfC1 (β := β) (.error e) := fun _ h => nomatch h
theorem wfM_ok (h : Wf s) : WfM (.ok s) := h
theorem wfM_failed {st : Nat} (h : Wf s) : WfM (.failed st s) := h
theorem wfM_stop {x : Stop} : WfM (.stop x) := trivial
theorem wfR_fault {x : Fault} : WfR (.fault x) := fun _ e => nomatch e
theorem wfR_refused {x : Refusal} : WfR (.refused x) := fun _ e => nomatch e
theorem wfR_next (h : Wf s) : WfR (.next s) := fun _ e => Host.Outcome.next.inj e ▸ h

theorem wf_ite {c : Prop} [Decidable c] (hs : Wf s) (ht : Wf t) : Wf (if c then s else t) := by
  split
  · exact hs
  · exact ht

theorem wfC_bind {c : Chk State} {f : State → Chk State} (hc : WfC c) (hf : ∀ t, Wf t → WfC (f t)) : WfC (c >>= f) := by
  cases c with
  | error e => exact wfC_error
  | ok t => exact hf t (hc t rfl)

theorem wfC_bind_fst {c : Chk (State × β)} {f : State × β → Chk State} (hc : WfC1 c) (hf : ∀ p, Wf p.1 → WfC (f p)) : WfC (c >>= f) := by
  cases c with
  | error e => exact wfC_error
  | ok t => exact hf t (hc t rfl)

theorem wfC_bind_any {c : Chk β} {f : β → Chk State} (hf : ∀ x, WfC (f x)) : WfC (c >>= f) := by
  cases c with
  | error e => exact wfC_error
  | ok t => exact hf t

theorem wfC1_bind {c : Chk State} {f : State → Chk (State × β)} (hc : WfC c) (hf : ∀ t, Wf t → WfC1 (f t)) : WfC1 (c >>= f) := by
  cases c with
  | error e => exact wfC1_error
  | ok t => exact hf t (hc t rfl)

theorem wfC1_bind_fst {c : Chk (State × γ)} {f : State × γ → Chk (State × β)} (hc : WfC1 c) (hf : ∀ p, Wf p.1 → WfC1 (f p)) :
    WfC1 (c >>= f) := by
  cases c with
  | error e => exact wfC1_error
  | ok t => exact hf t (hc t rfl)

theorem wfC1_bind_any {c : Chk γ} {f : γ → Chk (State × β)} (hf : ∀ x, WfC1 (f x)) : WfC1 (c >>= f) := by
  cases c with
  | error e => exact wfC1_error
  | ok t => exact hf t

theorem wfC_map_any {c : Chk β} {f : β → State} (hf : ∀ x, Wf (f x)) : WfC (c.map f) := by
  cases c with
  | error e => exact wfC_error
  | ok x => exact wfC_ok (hf x)

theorem wfC_map_st {c : Chk State} {f : State → State} (hc : WfC c) (hf : ∀ t, Wf t → Wf (f t)) : WfC (c.map f) := by
  cases c with
  | error e => exact wfC_error
  | ok x => exact wfC_ok (hf x (hc x rfl))

theorem wfC_map_fst {c : Chk (State × β)} {f : State × β → State} (hc : WfC1 c) (hf : ∀ p, Wf p.1 → Wf (f p)) : WfC (c.map f) := by
  cases c with
  | error e => exact wfC_error
  | ok x => exact wfC_ok (hf x (hc x rfl))

theorem wfC1_map_any {c : Chk β} {f : β → State × γ} (hf : ∀ x, Wf (f x).1) : WfC1 (c.map f) := by
  cases c with
  | error e => exact wfC1_error
  | ok x => exact wfC1_ok (hf x)

theorem wfC1_map_st {c : Chk State} {f : State → State × γ} (hc : WfC c) (hf : ∀ t, Wf t → Wf (f t).1) : WfC1 (c.map f) := by
  cases c with
  | error e => exact wfC1_error
  | ok x => exact wfC1_ok (hf x (hc x rfl))

theorem wfC1_map_fst {c : Chk (State × β)} {f : State × β → State × γ} (hc : WfC1 c) (hf : ∀ p, Wf p.1 → Wf (f p).1) :
    WfC1 (c.map f) := by
  cases c with
  | error e => exact wfC1_error
  | ok x => exact wfC1_ok (hf x (hc x rfl))

theorem wfO_map {o : Option β} {f : β → State} (hf : ∀ x, Wf (f x)) : WfO (o.map f) := by
  cases o with
  | none => exact wfO_none
  | some x => exact wfO_some (hf x)

theorem wfO_bind {o : Option State} {f : State → Option State} (ho : WfO o) (hf : ∀ t, Wf t → WfO (f t)) : WfO (o.bind f) := by
  cases o with
  | none => exact wfO_none
  | some t => exact hf t (ho t rfl)

theorem wfO_bind_any {o : Option β} {f : β → Option State} (hf : ∀ x, WfO (f x)) : WfO (o.bind f) := by
  cases o with
  | none => exact wfO_none
  | some x => exact hf x

theorem wf_foldl {f : State → β → State} (hf : ∀ s x, Wf s → Wf (f s x)) {l : List β} (h : Wf s) : Wf (l.foldl f s) := by
  induction l generalizing s with
  | nil => exact h
  | cons x l ih => exact ih (hf s x h)

theorem wf_foldl_fst {f : State × γ → β → State × γ} (hf : ∀ p x, Wf p.1 → Wf (f p x).1) {l : List β} {p : State × γ} (h : Wf p.1) :
    Wf (l.foldl f p).1 := by
  induction l generalizing p with
  | nil => exact h
  | cons x l ih => exact ih (hf p x h)

theorem wf_foldl_snd {f : γ × State → β → γ × State} (hf : ∀ p x, Wf p.2 → Wf (f p x).2) {l : List β} {p : γ × State} (h : Wf p.2) :
    Wf (l.foldl f p).2 := by
  induction l generalizing p with
  | nil => exact h
  | cons x l ih => exact ih (hf p x h)

theorem wfC_foldl {f : Chk State → β → Chk State} (hf : ∀ c x, WfC c → WfC (f c x)) {l : List β} {c : Chk State} (h : WfC c) :
    WfC (l.foldl f c) := by
  induction l generalizing c with
  | nil => exact h
  | cons x l ih => exact ih (hf c x h)

theorem wfC1_foldl {f : Chk (State × γ) → β → Chk (State × γ)} (hf : ∀ c x, WfC1 c → WfC1 (f c x)) {l : List β} {c : Chk (State × γ)}
    (h : WfC1 c) : WfC1 (l.foldl f c) := by
  induction l generalizing c with
  | nil => exact h
  | cons x l ih => exact ih (hf c x h)

theorem wfM_foldl {f : Moved → β → Moved} (hf : ∀ m x, WfM m → WfM (f m x)) {l : List β} {m : Moved} (h : WfM m) : WfM (l.foldl f m) := by
  induction l generalizing m with
  | nil => exact h
  | cons x l ih => exact ih (hf m x h)

theorem wfM_foldl_fst {f : Moved × γ → β → Moved × γ} (hf : ∀ p x, WfM p.1 → WfM (f p x).1) {l : List β} {p : Moved × γ}
    (h : WfM p.1) : WfM (l.foldl f p).1 := by
  induction l generalizing p with
  | nil => exact h
  | cons x l ih => exact ih (hf p x h)

theorem wfO_foldl {f : Option State → β → Option State} (hf : ∀ o x, WfO o → WfO (f o x)) {l : List β} {o : Option State} (h : WfO o) :
    WfO (l.foldl f o) := by
  induction l generalizing o with
  | nil => exact h
  | cons x l ih => exact ih (hf o x h)

end

theorem wf_memWrite {s : State} {a : Nat} {bs : List Byte} (h : Wf s) : Wf (memWrite s a bs) := wf_twrite _ _ _ h
theorem wf_memZero {s : State} {a n : Nat} (h : Wf s) : Wf (memZero s a n) := wf_tclear _ _ _ h

end Sys2Proof.Machine

/-! The operations that commands share keep the canonical form of memory. -/

namespace Sys2Proof.Machine

section
set_option autoImplicit true

/-! ### Events, queues, notices and registers (Machine/Ops.lean) -/

theorem wf_draw (h : Wf s) : Wf (draw s).2 :=
  wf_pair_snd (wf_keep h rfl)

theorem wf_event (h : Wf s) : Wf (event src code party args s) :=
  wf_keep h rfl

theorem wf_flushNow (h : Wf s) : Wf (flushNow s) :=
  wf_keep h rfl

theorem wf_freezeMarker (h : Wf s) : Wf (freezeMarker causeBit estate src s) := by
  unfold freezeMarker
  extract_lets _ _ s3 _ s5
  have h6 : Wf s3 := wf_event h
  clear_value s3
  have h7 : Wf s5 := wf_ite h6 (wf_keep h6 rfl)
  exact wf_flushNow h7

theorem wf_flushCaddy (h : Wf s) : Wf (flushCaddy s) :=
  wf_keep h rfl

theorem wf_modParty (h : Wf s) : Wf (modParty s p f) :=
  wf_keep h rfl

theorem wf_raiseIrq (h : Wf s) : Wf (raiseIrq e s) := by
  unfold raiseIrq
  exact wf_ite h (wf_ite (wf_keep h rfl) (wf_keep h rfl))

theorem wf_raiseMbox (h : Wf s) : Wf (raiseMbox p s) := by
  unfold raiseMbox
  exact wf_ite (wf_keep h rfl) (wf_raiseIrq h)

theorem wf_modQ (h : Wf s) : Wf (modQ s q f) :=
  wf_keep h rfl

theorem wf_notify (h : Wf s) : Wf (notify p q s) := by
  unfold notify
  extract_lets _
  exact wf_ite h (wf_ite (wf_modParty h) (wf_raiseIrq (wf_modParty h)))

theorem wf_notifyPush (h : Wf s) : Wf (notifyPush q before s) := by
  unfold notifyPush
  extract_lets _
  split
  · split
    · exact wf_notify h
    · exact h
  · exact h

theorem wf_modLeaf (h : Wf s) : Wf (modLeaf s l f) :=
  wf_keep h rfl

theorem wf_spPut (h : Wf s) : Wf (spPut l off tag bs s) := by
  unfold spPut
  extract_lets s1 _ _
  have h4 : Wf s1 := wf_memWrite h
  clear_value s1
  exact wf_ite h4 (wf_keep h4 rfl)

theorem wf_bankOffEvent (h : Wf s) : Wf (bankOffEvent l ini p off write s) :=
  wf_event h

theorem wf_refusal (h : Wf s) : Wf (refusal src code party ini a sec write s) := by
  unfold refusal
  split
  · exact wf_keep h rfl
  · exact wf_event h

theorem wf_fireWatches (h : Wf s) : Wf (fireWatches a n s) := by
  unfold fireWatches
  extract_lets _ _
  exact wf_ite h (wf_keep h rfl)

theorem wf_putBytes (h : Wf s) : Wf (putBytes w a bs s) := by
  unfold putBytes
  split
  · exact wf_fireWatches (wf_memWrite h)
  · exact wf_ite (wf_refusal h) (wf_ite (wf_bankOffEvent h) (wf_spPut h))

theorem wf_getBytes (h : Wf s) : Wf (getBytes w a n s).1 := by
  unfold getBytes
  split
  · exact h
  · split
    · exact wf_pair (wf_refusal h)
    · split
      · exact wf_pair (wf_bankOffEvent h)
      · exact h

theorem wf_pushEntry (h : Wf s) : Wf (pushEntry q bs s) := by
  unfold pushEntry
  extract_lets _ _ s3 s4
  have h5 : Wf s3 := wf_putBytes h
  have h6 : Wf s4 := wf_modQ h5
  exact wf_notifyPush h6

theorem wf_headRead (h : Wf s) : Wf (headRead q s).1 := by
  unfold headRead
  extract_lets _
  exact wf_getBytes h

theorem wf_popEntry (h : Wf s) : Wf (popEntry q s) :=
  wf_modQ (wf_headRead h)

theorem wf_drainHeld (h : Wf s) : Wf (drainHeld q n s) := by
  induction n generalizing s with
  | zero =>
    rw [drainHeld]
    exact h
  | succ n ih =>
    rw [drainHeld]
    split
    · exact h
    · exact wf_ite (ih (wf_pushEntry (wf_modQ h))) h

theorem wf_complete (h : Wf s) : Wf (complete q bs s) := by
  unfold complete
  exact wf_ite (wf_keep h rfl) (wf_drainHeld (wf_modQ h))

theorem wf_drainNotices (h : Wf s) : Wf (drainNotices p n s) := by
  induction n generalizing s with
  | zero =>
    rw [drainNotices]
    exact h
  | succ n ih =>
    rw [drainNotices]
    split
    · exact h
    · extract_lets _
      exact wf_ite (ih (wf_raiseMbox (wf_pushEntry (wf_modParty h)))) h

theorem wf_pushNotice (h : Wf s) : Wf (pushNotice p bs s) := by
  unfold pushNotice
  exact wf_ite h (wf_ite (wf_modParty h) (wf_drainNotices (wf_modParty h)))

theorem wf_modEst (h : Wf s) : Wf (modEst s e f) :=
  wf_keep h rfl

theorem wf_settleDiv (h : Wf s) : Wf (settleDiv s) := by
  unfold settleDiv
  extract_lets _ _
  exact wf_ite h (wf_ite (wf_keep h rfl) (wf_ite (wf_keep h rfl) (wf_keep h rfl)))

theorem wf_tick (h : Wf s) : Wf (tick s) :=
  wf_keep h rfl

/-! ### Messages and their answers (Machine/Msg.lean) -/

theorem wf_mboxWrite (h : Wf s) : Wf (mboxWrite p off bs s) := by
  unfold mboxWrite
  split
  · exact wf_keep h rfl
  · split
    · exact wf_putBytes h
    · exact h

theorem wf_answer (h : Wf s) : Wf (answer p msg tag a s) := by
  unfold answer
  extract_lets s1
  have h2 : Wf s1 := wf_mboxWrite h
  exact wf_raiseMbox (wf_modParty h2)

theorem wf_finish (h : Wf s) : Wf (finish d a s) := by
  unfold finish
  exact wf_ite (wf_ite (wf_mboxWrite (wf_modParty h)) (wf_pushNotice (wf_modParty h))) (wf_answer h)

theorem wf_finishAll (h : Wf s) : Wf (finishAll ds a s) := by
  unfold finishAll
  exact wf_foldl (fun _ _ h1 => wf_finish h1) h

theorem wf_tookTurn (h : Wf s) : Wf (tookTurn p s) :=
  wf_keep h rfl

theorem wf_afiNote (h : Wf s) : Wf (afiNote p m s) := by
  unfold afiNote
  exact wf_ite (wf_event (wf_modParty h)) h

theorem wf_serveAs (h_own : ∀ y0 y1 t, Wf t → Wf (own y0 y1 t).1) (h : Wf s) : Wf (serveAs mayPend code allow len own m s) := by
  unfold serveAs
  extract_lets _ s2 _ s4 _ _
  have h7 : Wf s2 := wf_tookTurn h
  have h8 : Wf s4 := wf_afiNote h7
  split
  · exact h
  · split
    · exact wf_answer h7
    · split
      · exact wf_answer h8
      · split
        · exact wf_answer h8
        · split
          · exact wf_answer h8
          · split
            · exact wf_answer h8
            · split
              · rename_i s25 _ e27
                have h28 : Wf s25 := wf_fst e27 (h_own _ _ _ h8)
                exact wf_answer h28
              · rename_i s30 e31
                have h32 : Wf s30 := wf_fst e31 (h_own _ _ _ h8)
                exact wf_ite (wf_ite (wf_answer h8) (wf_answer (wf_modParty h32))) (wf_modParty h32)

theorem wf_serve (h_own : ∀ y0 y1 t, Wf t → Wf (own y0 y1 t).1) (h : Wf s) : Wf (serve code allow len own m s) :=
  wf_serveAs h_own h

/-! ### Jobs: how they wait and end (Machine/JobOps.lean) -/

theorem wf_modTh (h : Wf s) : Wf (modTh s k f) :=
  wf_keep h rfl

theorem wf_segWipe (h : Wf s) : Wf (segWipe l k s) := by
  unfold segWipe
  extract_lets _ s2 _
  have h4 : Wf s2 := wf_memZero h
  clear_value s2
  exact wf_keep h4 rfl

theorem wf_segSet (h : Wf s) : Wf (segSet l k g s) :=
  wf_modLeaf h

theorem wf_segEvent (h : Wf s) : Wf (segEvent l before s) := by
  unfold segEvent
  exact wf_ite h (wf_event h)

theorem wf_segsOff (h : Wf s) : Wf (segsOff l s) := by
  unfold segsOff
  extract_lets _ s2
  have h3 : Wf s2 := wf_foldl (fun _ _ h4 => wf_segWipe (wf_segSet h4)) h
  exact wf_segEvent h3

theorem wf_leafStop (h : Wf s) : Wf (leafStop l s) := by
  unfold leafStop
  extract_lets _ s2 _ _ s5
  have h6 : Wf s2 := wf_keep h rfl
  clear_value s2
  have h7 : Wf s5 := wf_keep h6 rfl
  exact wf_modLeaf h7

theorem wf_leafWipe (h : Wf s) : Wf (leafWipe l s) := by
  unfold leafWipe
  extract_lets s1 _ s3
  have h4 : Wf s1 := wf_leafStop (wf_segsOff h)
  clear_value s1
  have h5 : Wf s3 := wf_keep h4 rfl
  exact wf_modLeaf h5

theorem wf_setKind (h : Wf s) : Wf (setKind l k s) := by
  unfold setKind
  extract_lets s1 _
  have h3 : Wf s1 := wf_modLeaf h
  clear_value s1
  exact wf_keep h3 rfl

theorem wf_modJob (h : Wf s) : Wf (modJob s e f) :=
  wf_modEst h

theorem wf_completeRec (h : Wf s) : Wf (completeRec r status reason estate flags leaves run wait s) :=
  wf_complete h

theorem wf_writeReport (h : Wf s) : Wf (writeReport j img secs' s).1 := by
  unfold writeReport
  extract_lets _ _ _ _
  split
  · exact h
  · exact wf_pair (wf_putBytes h)

theorem wf_closeQueues (h : Wf s) : Wf (closeQueues j s).1 := by
  unfold closeQueues
  extract_lets _
  exact wf_pair (wf_keep h rfl)

theorem wf_stopJob (h : Wf s) : Wf (stopJob e j s).1 := by
  unfold stopJob
  extract_lets s1 s2 _ _
  have h5 : Wf s1 := wf_foldl (fun _ _ h6 => wf_leafStop h6) h
  clear_value s1
  have h7 : Wf s2.1 := wf_closeQueues h5
  exact wf_pair (wf_keep h7 rfl)

theorem wf_dropWatches (h : Wf s) : Wf (dropWatches n s) :=
  wf_keep h rfl

theorem wf_freeEst (h : Wf s) : Wf (freeEst e j s) := by
  unfold freeEst
  extract_lets s1 _ s3 _
  have h5 : Wf s1 := wf_modEst h
  clear_value s1
  have h6 : Wf s3 := wf_keep h5 rfl
  clear_value s3
  exact wf_ite h6 (wf_keep h6 rfl)

theorem wf_putKept (h : Wf s) : Wf (putKept e k s) :=
  wf_modEst h

theorem wf_readKept (h : Wf s) : Wf (readKept e s) := by
  unfold readKept
  split
  · exact h
  · extract_lets _
    split
    · exact h
    · exact wf_ite h (wf_putKept h)

theorem wf_segUp (h : Wf s) : Wf (segUp l k s) := by
  unfold segUp
  exact wf_ite h (wf_segSet h)

theorem wf_writeKept (h : Wf s) : Wf (writeKept e p nh s) := by
  unfold writeKept
  extract_lets _ _ _
  split
  · exact h
  · exact wf_ite h (wf_putKept (wf_foldl (fun _ _ h11 => wf_segEvent h11) (wf_foldl
      (fun _ _ h9 => wf_spPut (wf_foldl (fun _ _ h10 => wf_segUp h10) h9)) h)))

theorem wf_loseKept (h : Wf s) : Wf (loseKept e p nh n s) := by
  unfold loseKept
  split
  · exact h
  · exact wf_putKept h

theorem wf_fenceKept (h : Wf s) : Wf (fenceKept e l s) := by
  unfold fenceKept
  split
  · exact h
  · extract_lets _
    split
    · exact h
    · exact wf_ite (wf_putKept h) h

theorem wf_closeJob (h : Wf s) : Wf (closeJob e j s).1 := by
  unfold closeJob
  extract_lets _ _ _ _ _ s6
  have h7 : Wf s6.1 := by
    unfold s6
    refine wf_foldl_fst (fun s9 x10 h8 => ?_) h
    split
    · exact h8
    · extract_lets s16
      have h17 : Wf s16.1 := wf_stopJob h8
      exact wf_pair (wf_freeEst h17)
  exact wf_pair h7

theorem wf_closeRec (h : Wf s) : Wf (closeRec x status reason s).1 := by
  unfold closeRec
  extract_lets _ s2 _
  have h4 : Wf s2.1 := wf_writeReport h
  exact wf_pair h4

theorem wf_writeDone (h : Wf s) : Wf (writeDone d s) :=
  wf_complete (wf_dropWatches h)

theorem wf_endJob (h : Wf s) : Wf (endJob e status reason s) := by
  unfold endJob
  split
  · exact h
  · extract_lets s6 s7
    have h8 : Wf s6.1 := wf_closeJob h
    have h9 : Wf s7.1 := wf_closeRec h8
    exact wf_writeDone h9

theorem wf_abortJob (h : Wf s) : Wf (abortJob e reason s) :=
  wf_endJob h

theorem wf_pairEvent (h : Wf s) : Wf (pairEvent p st cause s) :=
  wf_event h

theorem wf_dissolve (h : Wf s) : Wf (dissolve p cause s) :=
  wf_pairEvent (wf_keep h rfl)

theorem wf_pairCheck (h : Wf s) : Wf (pairCheck e s) := by
  unfold pairCheck
  split
  · exact h
  · exact wf_ite h (wf_dissolve h)

theorem wf_putLeaves (h : Wf s) : Wf (putLeaves e ls cause s) := by
  unfold putLeaves
  extract_lets _ _ s3 s4 s5
  have h6 : Wf s3 := wf_foldl (fun _ _ h7 => wf_ite h7 (wf_segsOff (wf_leafStop h7))) h
  have h8 : Wf s4 := wf_modEst h6
  have h9 : Wf s5 := wf_event h8
  exact wf_pairCheck h9

theorem wf_setLeaves (h : Wf s) : Wf (setLeaves e ls cause s) := by
  unfold setLeaves
  extract_lets _ s2
  have h3 : Wf s2 := wf_putLeaves h
  exact wf_ite h3 (wf_modEst h3)

theorem wf_assertFrom (h : Wf s) : Wf (assertFrom src bit s) := by
  unfold assertFrom
  extract_lets _ _
  exact wf_event (wf_keep h rfl)

theorem wf_assertFaultN (h : Wf s) : Wf (assertFaultN bit s) :=
  wf_assertFrom h

theorem wf_haltEst (h : Wf s) : Wf (haltEst e s) := by
  unfold haltEst
  extract_lets s1
  have h2 : Wf s1 := by
    unfold s1
    split
    · exact h
    · exact wf_modJob (wf_foldl (fun _ _ h8 => wf_leafStop h8) h)
  exact wf_modEst h2

theorem wf_twoFault (h : Wf s) : Wf (twoFault es src s) := by
  unfold twoFault
  extract_lets _ s2 _
  have h4 : Wf s2 := wf_foldl (fun _ _ h5 => wf_haltEst h5) h
  clear_value s2
  exact wf_freezeMarker (wf_assertFaultN (wf_keep h4 rfl))

theorem wf_sharedFault (h : Wf s) : Wf (sharedFault es src s) := by
  unfold sharedFault
  exact wf_ite h (wf_twoFault h)

theorem wf_shrinkBy (h : Wf s) : Wf (shrinkBy e l s) := by
  unfold shrinkBy
  extract_lets _ _ x3 s4 s5 s6
  have h7 : Wf s4 := wf_fenceKept (wf_readKept h)
  have h8 : Wf s5 := wf_putLeaves h7
  have h9 : Wf s6 := wf_modEst h8
  clear_value x3
  split
  · exact wf_writeKept h9
  · exact h9

theorem wf_repairLeaf (h : Wf s) : Wf (repairLeaf e l s) := by
  unfold repairLeaf
  split
  · extract_lets x4 s5 s6 s7 _ s9 s10
    have h11 : Wf s5 := wf_fenceKept (wf_readKept h)
    have h12 : Wf s6 := wf_setKind h11
    have h13 : Wf s7 := wf_modLeaf h12
    have h14 : Wf s9 := wf_event h13
    have h15 : Wf s10 := wf_putLeaves h14
    clear_value x4
    split
    · exact wf_writeKept h15
    · exact h15
  · exact wf_shrinkBy h

theorem wf_repairEst (h : Wf s) : Wf (repairEst e s) := by
  unfold repairEst
  exact wf_foldl (fun _ _ h1 => wf_repairLeaf h1) h

theorem wf_beginRecovery (h : Wf s) : Wf (beginRecovery e s) := by
  unfold beginRecovery
  extract_lets _ s2 s3
  have h4 : Wf s2 := wf_keep h rfl
  have h5 : Wf s3 := wf_modEst h4
  exact wf_ite h5 (wf_repairEst h5)

theorem wf_faultJob (h : Wf s) : Wf (faultJob e hold s) := by
  unfold faultJob
  split
  · exact h
  · extract_lets _ _ s8 s9
    have h10 : Wf s8.1 := wf_closeJob h
    have h11 : Wf s9.1 := wf_closeRec h10
    exact wf_ite (wf_modEst h10) (wf_ite (wf_modEst h11) (wf_abortJob h))

theorem wf_estFault (h : Wf s) : Wf (estFault e src s) := by
  unfold estFault
  exact wf_ite (wf_beginRecovery (wf_faultJob h)) (wf_ite (wf_twoFault h) (wf_ite h (wf_event (wf_keep (wf_faultJob h) rfl))))

theorem wf_fenceOnly (h : Wf s) : Wf (fenceOnly l cause s) := by
  unfold fenceOnly
  extract_lets _ s2
  have h3 : Wf s2 := wf_setKind (wf_leafWipe h)
  exact wf_event h3

theorem wf_fenceLeaf (h : Wf s) : Wf (fenceLeaf l cause s) := by
  unfold fenceLeaf
  extract_lets _ x2 s3
  have h4 : Wf s3 := wf_fenceOnly h
  clear_value x2
  split
  · exact wf_estFault h4
  · split
    · split
      · exact wf_event (wf_modLeaf (wf_setKind h4))
      · exact h4
    · exact h4

theorem wf_programFault (h : Wf s) : Wf (programFault w kind s) := by
  unfold programFault
  extract_lets _
  split
  · exact h
  · extract_lets s7
    have h8 : Wf s7 := wf_event h
    exact wf_abortJob h8

theorem wf_leafAbort (h : Wf s) : Wf (leafAbort l reason s) := by
  unfold leafAbort
  split
  · exact h
  · exact wf_abortJob h

/-! ### The cache and its writes back (Machine/Cache.lean) -/

theorem wf_modCg (h : Wf s) : Wf (modCg s c f) :=
  wf_keep h rfl

theorem wf_corrected (h : Wf s) : Wf (corrected line kind s) := by
  unfold corrected
  extract_lets _ s2 _ s4
  have h5 : Wf s2 := wf_modCg h
  have h6 : Wf s4 := wf_event h5
  exact wf_ite (wf_modCg h6) h5

theorem wf_linkCross (h : Wf s) : Wf (linkCross write line s).1 := by
  unfold linkCross
  extract_lets _ _ _ _ s5
  have h6 : Wf s5 := wf_keep h rfl
  split
  · exact h
  · split
    · exact wf_pair (wf_corrected (wf_modCg h6))
    · exact h6

theorem wf_linkWrite (h : Wf s) : Wf (linkWrite line s) := by
  unfold linkWrite
  extract_lets s1 _ _
  have h4 : Wf s1.1 := wf_linkCross h
  exact wf_ite (wf_keep h4 rfl) h4

theorem wf_putLine (h : Wf s) : Wf (putLine key l s) :=
  wf_keep h rfl

theorem wf_touchWay (h : Wf s) : Wf (touchWay line w s) := by
  unfold touchWay
  extract_lets _ _
  exact wf_keep h rfl

theorem wf_writeBack (h : Wf s) : Wf (writeBack key s) := by
  unfold writeBack
  extract_lets _
  exact wf_ite (wf_linkWrite h) h

theorem wf_allocLine (h : Wf s) : Wf (allocLine line mask dirty old s) := by
  unfold allocLine
  extract_lets _ _
  split
  · exact h
  · exact wf_touchWay (wf_putLine (wf_writeBack h))

theorem wf_cleanWay (h : Wf s) : Wf (cleanWay key inval s) := by
  unfold cleanWay
  extract_lets _
  exact wf_ite h (wf_putLine (wf_writeBack h))

theorem wf_cleanLines (h : Wf s) : Wf (cleanLines f inval s) := by
  unfold cleanLines
  exact wf_foldl (fun _ _ h1 => wf_ite (wf_cleanWay h1) h1) h

theorem wf_cleanWays (h : Wf s) : Wf (cleanWays mask s) :=
  wf_cleanLines h

theorem wf_modRange (h : Wf s) : Wf (modRange s r f) :=
  wf_keep h rfl

theorem wf_strainerIn (h : Wf s) : Wf (strainerIn c cls rng bytes s) := by
  unfold strainerIn
  extract_lets s1
  have h2 : Wf s1 := wf_modCg h
  split
  · exact wf_modRange h2
  · exact h2

theorem wf_lcDone (h : Wf s) : Wf (lcDone c r lat s) := by
  unfold lcDone
  extract_lets _ _ _ _ _ s6 _
  have h8 : Wf s6 := wf_modRange h
  exact wf_ite (wf_event h8) h8

theorem wf_strainerCycle (h : Wf s) : Wf (strainerCycle c s) := by
  unfold strainerCycle
  extract_lets s1 _
  have h3 : Wf s1 := wf_modCg h
  split
  · exact h3
  · extract_lets s10
    have h11 : Wf s10 := wf_modCg h3
    split
    · exact wf_lcDone h11
    · exact h11

/-! ### Estates: stop, recovery and start (Machine/EstOps.lean) -/

theorem wf_moveKept (he : moveKept e cg s = .inl t) (h : Wf s) : Wf t := by
  unfold moveKept at he
  extract_lets x need free r at he
  split at he
  · cases he
  · cases he
    exact h

theorem wf_applySet (h : Wf s) : Wf (applySet e d s).1 := by
  unfold applySet
  extract_lets x fin
  have hfin : ∀ t, Wf t → Wf (fin t).1 := fun t ht => wf_settleDiv ht
  clear_value fin
  split
  · exact h
  · next t hmoved =>
    have ht : Wf t := by
      split at hmoved
      · exact Sum.inl.inj hmoved ▸ h
      · exact wf_moveKept hmoved h
    split
    · exact hfin _ ht
    · split
      · exact h
      · exact hfin _ (wf_setLeaves ht)

theorem wf_freeEstate (h : Wf s) : Wf (freeEstate e s) := by
  unfold freeEstate
  extract_lets _ s2 s3 s4
  have h5 : Wf s2 := by
    unfold s2
    split
    · exact wf_dissolve h
    · exact h
  have h11 : Wf s3 := wf_foldl (fun _ _ h12 => wf_ite h12 (wf_segsOff (wf_leafStop h12))) h5
  have h13 : Wf s4 := wf_modEst h11
  exact wf_settleDiv (wf_event h13)

theorem wf_settleEst (h : Wf s) : Wf (settleEst e s) := by
  unfold settleEst
  split
  · exact h
  · split
    · exact h
    · extract_lets s9
      have h10 : Wf s9.1 := wf_applySet (wf_modEst h)
      exact wf_finish h10
    · exact wf_finish (wf_freeEstate h)

theorem wf_shrinkEst (h : Wf s) : Wf (shrinkEst e n s) := by
  unfold shrinkEst
  split
  · exact h
  · split
    · exact wf_setLeaves h
    · exact h

theorem wf_trimEst (h : Wf s) : Wf (trimEst g e s) := by
  unfold trimEst
  extract_lets d cg ways
  split
  · exact h
  · split
    · next t hmoved => exact wf_moveKept (t := t) hmoved h
    · exact h

theorem wf_grantEvent (h : Wf s) : Wf (grantEvent p g done s) :=
  wf_event h

theorem wf_winEvent (h : Wf s) : Wf (winEvent id' st s) := by
  unfold winEvent
  extract_lets _
  exact wf_event h

theorem wf_closeWin (h : Wf s) : Wf (closeWin id' s) := by
  unfold closeWin
  extract_lets _ _
  exact wf_ite h (wf_winEvent (wf_keep h rfl))

theorem wf_closeLost (h : Wf s) : Wf (closeLost p s) := by
  unfold closeLost
  exact wf_foldl (fun _ _ h1 => wf_closeWin h1) h

theorem wf_grantDone (h : Wf s) : Wf (grantDone p g s) := by
  unfold grantDone
  extract_lets _ _ _ s4 _ _ s7
  have h8 : Wf s4 := wf_cleanWays h
  clear_value s4
  have h9 : Wf s7 := wf_keep h8 rfl
  exact wf_grantEvent (wf_closeLost (wf_modParty h9))

theorem wf_settleGrant (h : Wf s) : Wf (settleGrant p s) := by
  unfold settleGrant
  split
  · exact h
  · extract_lets _ s7 s8
    have h9 : Wf s7 := wf_foldl (fun _ _ h10 => wf_shrinkEst h10) h
    have h11 : Wf s8 := wf_foldl (fun _ _ h12 => wf_trimEst h12) h9
    exact wf_ite (wf_modParty h11) (wf_finish (wf_grantDone h11))

theorem wf_raiseEst (h : Wf s) : Wf (raiseEst lwm e s) := by
  unfold raiseEst
  extract_lets _
  split
  · exact h
  · split
    · exact wf_setLeaves h
    · exact h

theorem wf_createEst (h : Wf s) : Wf (createEst p d ls s).1 := by
  unfold createEst
  split
  · exact h
  · extract_lets s6 s7
    have h8 : Wf s6 := wf_modEst h
    have h9 : Wf s7 := wf_event h8
    exact wf_pair (wf_settleDiv h9)

theorem wf_worldEvent (h : Wf s) : Wf (worldEvent item old new forced s) :=
  wf_event h

theorem wf_putLwm (h : Wf s) : Wf (putLwm lwm s) := by
  unfold putLwm
  extract_lets _ _ s3 _
  have h5 : Wf s3 := wf_foldl (fun _ _ h6 => wf_segsOff h6) h
  clear_value s3
  exact wf_worldEvent (wf_keep h5 rfl)

theorem wf_settleWorld (h : Wf s) : Wf (settleWorld s) := by
  unfold settleWorld
  extract_lets s1 s2 _
  have h4 : Wf s1 := by
    unfold s1
    split
    · exact h
    · extract_lets s10 s11 _
      have h13 : Wf s10 := wf_foldl (fun _ _ h14 => wf_raiseEst h14) h
      clear_value s10
      have h15 : Wf s11 := wf_putLwm h13
      clear_value s11
      split
      · split
        · split
          · exact wf_finish (wf_keep h15 rfl)
          · exact h15
        · exact h15
      · exact h13
  clear_value s1
  have h25 : Wf s2 := wf_foldl (fun _ _ h26 => wf_raiseEst h26) h4
  clear_value s2
  split
  · exact h4
  · exact wf_ite (wf_finish (wf_createEst (wf_keep h25 rfl))) h25

theorem wf_formPair (h : Wf s) : Wf (formPair p s) :=
  wf_pairEvent (wf_keep h rfl)

theorem wf_settlePairs (h : Wf s) : Wf (settlePairs s) := by
  unfold settlePairs
  refine wf_foldl (fun t x ht => ?_) h
  split
  · exact ht
  · extract_lets _ u
    have hu : Wf u := wf_keep ht rfl
    clear_value u
    split
    · exact wf_finish (wf_ite (wf_dissolve hu) hu)
    · exact wf_ite (wf_finish (wf_formPair hu)) (wf_finish hu)

theorem wf_guestEvent (h : Wf s) : Wf (guestEvent p st s) :=
  wf_event h

theorem wf_settleFreeze (h : Wf s) : Wf (settleFreeze p s) := by
  unfold settleFreeze
  split
  · exact h
  · exact wf_ite h (wf_finish (wf_guestEvent (wf_modParty h)))

theorem wf_dropTmpl (h : Wf s) : Wf (dropTmpl p nh s) :=
  wf_keep h rfl

theorem wf_settleTmpls (h : Wf s) : Wf (settleTmpls s) := by
  unfold settleTmpls
  refine wf_foldl (fun s3 x4 h2 => ?_) h
  split
  · exact wf_ite h2 (wf_finish (wf_dropTmpl h2))
  · exact h2

theorem wf_settleSafe (h : Wf s) : Wf (settleSafe s) := by
  unfold settleSafe
  split
  · exact h
  · exact wf_ite h (wf_finish (wf_keep h rfl))

theorem wf_advance (h : Wf s) : Wf (advance c level set' revoke s) := by
  unfold advance
  extract_lets _ _ _
  exact wf_ite h (wf_event (wf_keep h rfl))

theorem wf_ucodeEvent (h : Wf s) : Wf (ucodeEvent e v n s) :=
  wf_event h

theorem wf_pourUcode (h : Wf s) : Wf (pourUcode e v ls s) := by
  unfold pourUcode
  extract_lets _
  exact wf_ite h (wf_ucodeEvent (wf_foldl (fun _ _ h2 => wf_modLeaf h2) h))

theorem wf_ucodeEst (h : Wf s) : Wf (ucodeEst v e s) := by
  unfold ucodeEst
  extract_lets _
  exact wf_ite (wf_pourUcode h) h

theorem wf_settleUcode (h : Wf s) : Wf (settleUcode s) := by
  unfold settleUcode
  split
  · exact h
  · extract_lets s7 s8 _ s10
    have h11 : Wf s7 := wf_pourUcode h
    clear_value s7
    have h12 : Wf s8 := wf_foldl (fun _ _ h13 => wf_ucodeEst h13) h11
    clear_value s8
    have h14 : Wf s10 := wf_keep h12 rfl
    exact wf_ite (wf_finish (wf_advance h14)) h12

theorem wf_settle (h : Wf s) : Wf (settle s) := by
  unfold settle
  extract_lets s1 s2 s3 s4 s5 s6
  have h7 : Wf s1 := wf_settleUcode h
  have h8 : Wf s2 := wf_foldl (fun _ _ h9 => wf_settleEst h9) h7
  have h10 : Wf s3 := wf_settlePairs h8
  have h11 : Wf s4 := wf_foldl (fun _ _ h12 => wf_settleGrant h12) h10
  have h13 : Wf s5 := wf_settleWorld h11
  have h14 : Wf s6 := wf_foldl (fun _ _ h15 => wf_settleFreeze h15) h13
  exact wf_settleSafe (wf_settleTmpls h14)

theorem wf_progFault (h : Wf s) : Wf (progFault w kind s) :=
  wf_settle (wf_programFault h)

theorem wf_abortOn (h : Wf s) : Wf (abortOn l reason s) :=
  wf_settle (wf_leafAbort h)

theorem wf_fence (h : Wf s) : Wf (fence l cause s) :=
  wf_settle (wf_fenceLeaf h)

/-! ### The mesh (Machine/Mesh.lean) -/

theorem wf_fabricFault (h : Wf s) : Wf (fabricFault kind unit q s) := by
  unfold fabricFault
  extract_lets _ s2 _
  have h4 : Wf s2 := wf_event h
  exact wf_sharedFault h4

theorem wf_fabricHit (h : Wf s) : Wf (fabricHit x s) :=
  wf_fabricFault (wf_keep h rfl)

end

end Sys2Proof.Machine

/-! The station instructions keep the canonical form of memory. -/

namespace Sys2Proof.Machine

section
set_option autoImplicit true

/-! ### The issue of a station instruction (Machine/Issue.lean) -/

theorem wfC_spWrite (h : Wf s) : WfC (spWrite l off tag bs s) := by
  unfold spWrite
  extract_lets _
  split
  · exact wfC_error
  · split
    · exact wfC_error
    · split
      · exact wfC_error
      · exact wfC_ok (wf_spPut h)

theorem wf_setReg (h : Wf s) : Wf (setReg k r v s) := by
  unfold setReg
  exact wf_ite h (wf_keep h rfl)

theorem wf_setPred (h : Wf s) : Wf (setPred k p b s) :=
  wf_modTh h

theorem wfC_vwrite (h : Wf s) : WfC (vwrite k r ws s) := by
  unfold vwrite
  split
  · exact wfC_error
  · exact wfC_ok (wf_keep h rfl)

theorem wf_accWrite (h : Wf s) : Wf (accWrite l a i ws s) :=
  wf_keep h rfl

theorem wf_checkpoint (h : Wf s) : Wf (checkpoint k s) := by
  unfold checkpoint
  extract_lets _ _ _ s4 _
  have h6 : Wf s4 := wf_modTh h
  clear_value s4
  exact wf_keep h6 rfl

theorem wf_restore (h : Wf s) : Wf (restore k s) := by
  unfold restore
  extract_lets _ _ _ _ _ s6 s7
  have h8 : Wf s6 := wf_keep h rfl
  have h9 : Wf s7 := wf_modLeaf h8
  exact wf_modTh h9

theorem wf_parityEvent (h : Wf s) : Wf (parityEvent k kind loc s) := by
  unfold parityEvent
  extract_lets _ _ s3
  have h4 : Wf s3 := wf_event h
  exact wf_modLeaf h4

theorem wf_parityErr (h : Wf s) : Wf (parityErr k kind loc s) := by
  unfold parityErr
  extract_lets _ _ _ _ s5
  have h6 : Wf s5 := wf_parityEvent h
  exact wf_ite (wf_fence (wf_event h6)) (wf_modTh h6)

theorem wf_stopTh (h : Wf s) : Wf (stopTh k e s) := by
  unfold stopTh
  split
  · exact h
  · exact wf_progFault h
  · exact wf_fabricHit h
  · exact wf_parityErr h
  · exact wf_abortOn (wf_bankOffEvent h)

theorem wf_progress (h : Wf s) : Wf (progress l s) := by
  unfold progress
  split
  · exact wf_modJob h
  · exact h

theorem wf_issued (h : Wf s) : Wf (issued k s) :=
  wf_progress (wf_modLeaf h)

theorem wf_issue (h_f : ∀ y0 t, Wf t → WfC (f y0 t)) (h : Wf s) : Wf (issue w f s) := by
  unfold issue
  extract_lets _
  split
  · exact h
  · split
    · exact wf_stopTh h
    · split
      · exact wf_stopTh h
      · rename_i s14 e15
        have h16 : Wf s14 := wf_ok e15 (h_f _ _ h)
        exact wf_issued h16

theorem wf_adv (h : Wf s) : Wf (adv k s) :=
  wf_modTh h

theorem wf_jumpTo (h : Wf s) : Wf (jumpTo k pc s) :=
  wf_modTh h

theorem wf_issueNext (h_f : ∀ y0 t, Wf t → WfC (f y0 t)) (h : Wf s) : Wf (issueNext w f s) :=
  wf_issue (fun _ _ h1 => wfC_map_st (h_f _ _ h1) fun _ h2 => wf_adv h2) h

/-! ### Vector instructions (Machine/Vector.lean) -/

theorem wfC_vowned (h_f : WfC f) : WfC (vowned s k rs f) := by
  unfold vowned
  split
  · exact wfC_error
  · exact h_f

theorem wfC_vecRR (h : Wf s) : WfC (vecRR f vd va vb k s) := by
  unfold vecRR
  refine wfC_vowned ?_
  split
  · exact wfC_vwrite h
  · exact wfC_error
  · exact wfC_error

theorem wfC_vecInt (h : Wf s) : WfC (vecInt f vd va vb rm k s) := by
  unfold vecInt
  split
  · exact wfC_error
  · exact wfC_vecRR h

theorem wfC_vecR (h : Wf s) : WfC (vecR f vd va k s) := by
  unfold vecR
  refine wfC_vowned ?_
  split
  · exact wfC_vwrite h
  · exact wfC_error

theorem wfC_vecReduce (h : Wf s) : WfC (vecReduce f vd va k s) := by
  unfold vecReduce
  refine wfC_vowned ?_
  split
  · exact wfC_vwrite h
  · exact wfC_error
  · exact wfC_error

theorem wfR_execVadd (h : Wf s) : WfR (execVadd w vd va vb rm s) :=
  wfR_next (wf_issueNext (fun _ _ h1 => wfC_vecRR h1) h)

theorem wfR_execVsub (h : Wf s) : WfR (execVsub w vd va vb rm s) :=
  wfR_next (wf_issueNext (fun _ _ h1 => wfC_vecRR h1) h)

theorem wfR_execVmul (h : Wf s) : WfR (execVmul w vd va vb rm s) :=
  wfR_next (wf_issueNext (fun _ _ h1 => wfC_vecRR h1) h)

theorem wfR_execVfma (h : Wf s) : WfR (execVfma w vd va vb rm s) := by
  unfold execVfma
  refine wfR_next ?_
  refine wf_issueNext (fun x5 x6 h7 => ?_) h
  refine wfC_vowned ?_
  split
  · exact wfC_vwrite h7
  · exact wfC_error
  · exact wfC_error
  · exact wfC_error

theorem wfR_execVmin (h : Wf s) : WfR (execVmin w vd va vb x s) :=
  wfR_next (wf_issueNext (fun _ _ h1 => wfC_vecRR h1) h)

theorem wfR_execVmax (h : Wf s) : WfR (execVmax w vd va vb x s) :=
  wfR_next (wf_issueNext (fun _ _ h1 => wfC_vecRR h1) h)

theorem wfR_execViadd (h : Wf s) : WfR (execViadd w vd va vb rm s) :=
  wfR_next (wf_issueNext (fun _ _ h1 => wfC_vecInt h1) h)

theorem wfR_execVisub (h : Wf s) : WfR (execVisub w vd va vb rm s) :=
  wfR_next (wf_issueNext (fun _ _ h1 => wfC_vecInt h1) h)

theorem wfR_execVimul (h : Wf s) : WfR (execVimul w vd va vb rm s) :=
  wfR_next (wf_issueNext (fun _ _ h1 => wfC_vecInt h1) h)

theorem wfR_execViadds (h : Wf s) : WfR (execViadds w vd va vb rm s) :=
  wfR_next (wf_issueNext (fun _ _ h1 => wfC_vecInt h1) h)

theorem wfR_execVisubs (h : Wf s) : WfR (execVisubs w vd va vb rm s) :=
  wfR_next (wf_issueNext (fun _ _ h1 => wfC_vecInt h1) h)

theorem wfR_execVsll (h : Wf s) : WfR (execVsll w vd va vb rm s) :=
  wfR_next (wf_issueNext (fun _ _ h1 => wfC_vecInt h1) h)

theorem wfR_execVsrl (h : Wf s) : WfR (execVsrl w vd va vb rm s) :=
  wfR_next (wf_issueNext (fun _ _ h1 => wfC_vecInt h1) h)

theorem wfR_execVsra (h : Wf s) : WfR (execVsra w vd va vb rm s) :=
  wfR_next (wf_issueNext (fun _ _ h1 => wfC_vecInt h1) h)

theorem wfR_execVrsum (h : Wf s) : WfR (execVrsum w vd va rm s) :=
  wfR_next (wf_issueNext (fun _ _ h1 => wfC_vecReduce h1) h)

theorem wfR_execVrmax (h : Wf s) : WfR (execVrmax w vd va x s) :=
  wfR_next (wf_issueNext (fun _ _ h1 => wfC_vecReduce h1) h)

theorem wfR_execVbc (h : Wf s) : WfR (execVbc w vd rs1 s) :=
  wfR_next (wf_issueNext (fun _ _ h1 => wfC_vowned (wfC_bind_any fun _ => wfC_vwrite h1)) h)

theorem wfR_execVmovs (h : Wf s) : WfR (execVmovs w rd va s) :=
  wfR_next (wf_issueNext (fun _ _ h1 => wfC_map_any fun _ => wf_setReg h1) h)

theorem wfC_vecFn (h : Wf s) : WfC (vecFn f vd va k s) :=
  wfC_vecR h

theorem wfR_execSexp2 (h : Wf s) : WfR (execSexp2 w vd va s) :=
  wfR_next (wf_issueNext (fun _ _ h1 => wfC_vecFn h1) h)

theorem wfR_execSlog2 (h : Wf s) : WfR (execSlog2 w vd va s) :=
  wfR_next (wf_issueNext (fun _ _ h1 => wfC_vecFn h1) h)

theorem wfR_execSrcp (h : Wf s) : WfR (execSrcp w vd va s) :=
  wfR_next (wf_issueNext (fun _ _ h1 => wfC_vecFn h1) h)

theorem wfR_execSrsq (h : Wf s) : WfR (execSrsq w vd va s) :=
  wfR_next (wf_issueNext (fun _ _ h1 => wfC_vecFn h1) h)

theorem wfR_execSsqrt (h : Wf s) : WfR (execSsqrt w vd va s) :=
  wfR_next (wf_issueNext (fun _ _ h1 => wfC_vecR h1) h)

theorem wfR_execSsin (h : Wf s) : WfR (execSsin w vd va s) :=
  wfR_next (wf_issueNext (fun _ _ h1 => wfC_vecFn h1) h)

theorem wfR_execScos (h : Wf s) : WfR (execScos w vd va s) :=
  wfR_next (wf_issueNext (fun _ _ h1 => wfC_vecFn h1) h)

theorem wfR_execStanh (h : Wf s) : WfR (execStanh w vd va s) :=
  wfR_next (wf_issueNext (fun _ _ h1 => wfC_vecFn h1) h)

theorem wfR_execSsig (h : Wf s) : WfR (execSsig w vd va s) :=
  wfR_next (wf_issueNext (fun _ _ h1 => wfC_vecFn h1) h)

/-! ### Vector loads and stores (Machine/VecMem.lean) -/

theorem wfC_vldrOp (h : Wf s) : WfC (vldrOp vr rs1 rs2 fmt k s) := by
  unfold vldrOp
  extract_lets _
  split
  · exact wfC_error
  · refine wfC_vowned ?_
    refine wfC_bind_any fun s11 => ?_
    refine wfC_bind_any fun s14 => ?_
    split
    · exact wfC_error
    · exact wfC_bind_any fun _ => wfC_bind_any fun _ => wfC_vwrite h

theorem wfC_vstrOp (h : Wf s) : WfC (vstrOp vr rs1 rs2 fmt sat rm k s) := by
  unfold vstrOp
  extract_lets _
  split
  · exact wfC_error
  · refine wfC_vowned ?_
    refine wfC_bind_any fun s11 => ?_
    refine wfC_bind_any fun s14 => ?_
    split
    · exact wfC_error
    · refine wfC_bind_any fun s20 => ?_
      extract_lets _
      refine wfC_bind (wfC_spWrite h) fun s24 h23 => ?_
      split
      · exact wfC_spWrite h23
      · exact wfC_ok h23

theorem wfC_vldcOp (h : Wf s) : WfC (vldcOp vr rs1 rs2 fmt k s) := by
  unfold vldcOp
  split
  · exact wfC_error
  · exact wfC_vowned (wfC_bind_any fun _ => wfC_bind_any fun _ => wfC_bind_any fun _ => wfC_vwrite h)

theorem wfC_vstcOp (h : Wf s) : WfC (vstcOp vr rs1 rs2 fmt k s) := by
  unfold vstcOp
  split
  · exact wfC_error
  · refine wfC_vowned ?_
    refine wfC_bind_any fun s10 => ?_
    refine wfC_bind_any fun s13 => ?_
    refine wfC_foldl (fun s15 x16 h14 => ?_) (wfC_ok h)
    exact wfC_bind h14 fun _ h17 => wfC_spWrite h17

theorem wfR_execVldr (h : Wf s) : WfR (execVldr w vr rs1 rs2 fmt x x1 s) :=
  wfR_next (wf_issueNext (fun _ _ h1 => wfC_vldrOp h1) h)

theorem wfR_execVldc (h : Wf s) : WfR (execVldc w vr rs1 rs2 fmt x x1 s) :=
  wfR_next (wf_issueNext (fun _ _ h1 => wfC_vldcOp h1) h)

theorem wfR_execVlda (h : Wf s) : WfR (execVlda w vr rs1 rs2 fmt sat rm s) :=
  wfR_next (wf_issueNext (fun _ _ h1 => wfC_vowned (wfC_bind_any fun _ => wfC_bind_any fun _ => wfC_vwrite h1)) h)

theorem wfR_execVstr (h : Wf s) : WfR (execVstr w vr rs1 rs2 fmt sat rm s) :=
  wfR_next (wf_issueNext (fun _ _ h1 => wfC_vstrOp h1) h)

theorem wfR_execVstc (h : Wf s) : WfR (execVstc w vr rs1 rs2 fmt x x1 s) :=
  wfR_next (wf_issueNext (fun _ _ h1 => wfC_vstcOp h1) h)

theorem wfR_execVsta (h : Wf s) : WfR (execVsta w vr rs1 rs2 fmt sat rm s) :=
  wfR_next (wf_issueNext (fun _ _ h1 => wfC_vowned (wfC_bind_any fun _ => wfC_map_any fun _ => wf_accWrite h1)) h)

/-! ### Matrix operations (Machine/Matrix.lean) -/

theorem wf_tokInc (h : Wf s) : Wf (tokInc k tok s) :=
  wf_modTh h

theorem wf_tokDec (h : Wf s) : Wf (tokDec k tok s) :=
  wf_modTh h

theorem wfR_execMma (h : Wf s) : WfR (execMma w rs1 tok a clear s) := by
  unfold execMma
  refine wfR_next ?_
  refine wf_issueNext (fun x5 x6 h7 => ?_) h
  extract_lets _
  split
  · exact wfC_error
  · refine wfC_bind_any fun s14 => ?_
    refine wfC_bind_any fun s17 => ?_
    split
    · exact wfC_error
    · extract_lets _ _
      exact wfC_ok (wf_tokInc (wf_modLeaf h7))

theorem wfC_mmaRun (h : Wf s) : WfC (mmaRun l op s) := by
  unfold mmaRun
  extract_lets b f k fa fb tile aBytes bLine
  refine wfC_bind_any fun rows => wfC_bind_any fun lines => wfC_bind_any fun metas => wfC_bind_any fun sa => wfC_bind_any fun sb =>
    wfC_map_any fun acc => ?_
  extract_lets es fl t _
  have ht : Wf t := wf_accWrite h
  clear_value fl t
  exact wf_keep ht rfl

theorem wf_engStop (h : Wf s) : Wf (engStop k tok e s) :=
  wf_stopTh (wf_tokDec h)

theorem wfR_execMmaComplete (h : Wf s) : WfR (execMmaComplete leaf s) := by
  unfold execMmaComplete
  extract_lets _
  refine wfR_next ?_
  split
  · exact h
  · split
    · exact h
    · extract_lets _
      split
      · exact h
      · exact wf_engStop (wf_modLeaf h)
      · rename_i s18 e19
        have h20 : Wf s18 := wf_ok e19 (wfC_mmaRun h)
        exact wf_progress (wf_tokDec (wf_modLeaf h20))

theorem wfR_execDrain (h : Wf s) : WfR (execDrain w rs1 tok a s) := by
  unfold execDrain
  refine wfR_next ?_
  refine wf_issueNext (fun x5 x6 h7 => ?_) h
  extract_lets _
  split
  · exact wfC_error
  · refine wfC_bind_any fun s14 => ?_
    refine wfC_bind_any fun s17 => ?_
    split
    · exact wfC_error
    · extract_lets _
      exact wfC_ok (wf_tokInc (wf_modLeaf h7))

theorem wfC_drainRun (h : Wf s) : WfC (drainRun l op s) := by
  unfold drainRun
  extract_lets _ _ _
  refine wfC_bind_any fun s7 => ?_
  extract_lets _ s9
  have h10 : WfC s9 := by
    unfold s9
    refine wfC_foldl (fun s12 x13 h11 => ?_) (wfC_ok h)
    refine wfC_bind h11 fun s17 h16 => ?_
    refine wfC_bind (wfC_spWrite h16) fun s20 h19 => ?_
    split
    · exact wfC_ok h19
    · exact wfC_spWrite h19
  refine wfC_map_st h10 fun s24 h25 => ?_
  extract_lets _ _ s28
  have h29 : Wf s28 := wf_keep h25 rfl
  split
  · exact wf_modJob h29
  · exact h29

theorem wfR_execDrainComplete (h : Wf s) : WfR (execDrainComplete leaf s) := by
  unfold execDrainComplete
  extract_lets _
  refine wfR_next ?_
  split
  · exact h
  · split
    · exact h
    · extract_lets _
      split
      · exact h
      · exact wf_engStop (wf_modLeaf h)
      · rename_i s18 e19
        have h20 : Wf s18 := wf_ok e19 (wfC_drainRun h)
        exact wf_progress (wf_tokDec (wf_modLeaf h20))

theorem wfR_execAccst (h : Wf s) : WfR (execAccst w rd a s) := by
  unfold execAccst
  refine wfR_next ?_
  refine wf_issueNext (fun x5 x6 h7 => ?_) h
  split
  · exact wfC_ok (wf_setReg h7)
  · exact wfC_error

/-! ### Writes of queue pointers (Machine/Pointers.lean) -/

theorem wf_fireAlarm (h : Wf s) : Wf (fireAlarm p s) := by
  unfold fireAlarm
  extract_lets _
  exact wf_pushNotice (wf_modParty h)

theorem wf_lateAlarms (h : Wf s) : Wf (lateAlarms s) := by
  unfold lateAlarms
  exact wf_foldl (fun _ _ h1 => wf_ite (wf_fireAlarm h1) h1) h

theorem wf_exitEvent (h : Wf s) : Wf (exitEvent old s) := by
  unfold exitEvent
  extract_lets s1 s2
  have h3 : Wf s1.2 := wf_draw h
  have h4 : Wf s2 := wf_event h3
  exact wf_ite (wf_lateAlarms h4) h4

theorem wf_leaveTo (h : Wf s) : Wf (leaveTo st s) := by
  unfold leaveTo
  exact wf_ite (wf_keep h rfl) (wf_keep h rfl)

theorem wf_wakeFrom (h : Wf s) : Wf (wakeFrom doze cls inst s) := by
  unfold wakeFrom
  extract_lets _ _ _
  exact wf_ite (wf_ite (wf_keep h rfl) h) (wf_ite (wf_exitEvent (wf_leaveTo (wf_event h))) h)

theorem wf_qptReadEffect (h : Wf s) : Wf (qptReadEffect q off s) := by
  unfold qptReadEffect
  split
  · exact wf_modQ h
  · exact wf_modQ h
  · exact h

theorem wf_setBadptr (h : Wf s) : Wf (setBadptr q s) :=
  wf_modQ h

theorem wf_setTail (h : Wf s) : Wf (setTail q v s) := by
  unfold setTail
  extract_lets _ _
  exact wf_ite h (wf_notifyPush (wf_modQ h))

theorem wf_writeTail (h : Wf s) : Wf (writeTail whole q v s) := by
  unfold writeTail
  extract_lets _
  exact wf_ite (wf_wakeFrom (wf_setTail h)) (wf_setBadptr h)

theorem wf_roomMade (h : Wf s) : Wf (roomMade q s) := by
  unfold roomMade
  extract_lets s1
  have h2 : Wf s1 := wf_drainHeld h
  exact wf_foldl (fun _ _ h3 => wf_ite (wf_drainNotices h3) h3) h2

theorem wf_writeHead (h : Wf s) : Wf (writeHead whole q v s) := by
  unfold writeHead
  extract_lets _ _
  exact wf_ite (wf_ite h (wf_roomMade (wf_modQ h))) (wf_setBadptr h)

theorem wf_qptWrite (h : Wf s) : Wf (qptWrite whole q off v s) := by
  unfold qptWrite
  split
  · exact wf_writeTail h
  · exact wf_writeHead h
  · exact wf_ite (wf_modQ h) h
  · exact h

theorem wf_dblReadEffect (h : Wf s) : Wf (dblReadEffect p off s) := by
  unfold dblReadEffect
  split
  · exact wf_modParty h
  · exact h

theorem wf_submitRefuse (h : Wf s) : Wf (submitRefuse p q status s) :=
  wf_modParty h

theorem wf_dblSubmit (h : Wf s) : Wf (dblSubmit whole p v s) := by
  unfold dblSubmit
  extract_lets _ _ _ _ s5 s6
  have h7 : Wf s5 := wf_setTail h
  have h8 : Wf s6 := wf_modQ h7
  exact wf_ite (wf_submitRefuse h) (wf_ite (wf_submitRefuse h) (wf_ite (wf_submitRefuse h) (wf_ite (wf_submitRefuse h) (wf_wakeFrom h8))))

theorem wf_dblRing (h : Wf s) : Wf (dblRing whole p v s) := by
  unfold dblRing
  extract_lets _
  exact wf_ite (wf_wakeFrom (wf_modParty h)) h

theorem wf_dblWrite (h : Wf s) : Wf (dblWrite whole p off v s) := by
  unfold dblWrite
  split
  · exact wf_dblSubmit h
  · exact wf_dblRing h
  · exact wf_ite (wf_modParty h) h
  · exact h

theorem wf_brgReadEffect (h : Wf s) : Wf (brgReadEffect reader off s) := by
  unfold brgReadEffect
  extract_lets _
  exact wf_ite (wf_ite (wf_keep h rfl) (wf_keep h rfl)) (wf_ite (wf_ite (wf_keep h rfl) (wf_keep h rfl)) h)

/-! ### Accesses on the bus (Machine/Access.lean) -/

theorem wf_refuseEvent (h : Wf s) : Wf (refuseEvent src w write a v s) :=
  wf_refusal h

theorem wf_snoopAdd (h : Wf s) : Wf (snoopAdd line s) := by
  unfold snoopAdd
  extract_lets _ _ _
  exact wf_keep h rfl

theorem wf_snoopDrop (h : Wf s) : Wf (snoopDrop line s) := by
  unfold snoopDrop
  extract_lets _ _
  exact wf_keep h rfl

theorem wf_dramCorrected (h : Wf s) : Wf (dramCorrected line s) := by
  unfold dramCorrected
  extract_lets _ _ s3 s4
  have h5 : Wf s3 := wf_keep h rfl
  have h6 : Wf s4 := wf_linkWrite (wf_strainerIn h5)
  exact wf_corrected (wf_modCg h6)

theorem wf_dramUncorrectable (h : Wf s) : Wf (dramUncorrectable w line src s) := by
  unfold dramUncorrectable
  extract_lets _ s2
  have h3 : Wf s2 := wf_modCg h
  exact wf_event h3

theorem wf_cacheCheck (h : Wf s) : Wf (cacheCheck line s).1 := by
  unfold cacheCheck
  split
  · exact h
  · extract_lets _ _ _ s9 _ s11 s12
    have h13 : Wf s9 := wf_putLine h
    clear_value s9
    have h14 : Wf s11 := wf_putLine h
    clear_value s11
    have h15 : Wf s12 := wf_ite (wf_memWrite h14) h14
    clear_value s12
    split
    · exact h
    · split
      · exact wf_pair (wf_keep h13 rfl)
      · exact wf_pair (wf_event h15)

theorem wf_readLine (h : Wf s) : Wf (readLine i w line s).1 := by
  unfold readLine
  extract_lets _ _ s3 s4 _ s6 s7 _ s9 _
  have h11 : Wf s3.1 := wf_cacheCheck h
  have h12 : Wf s4 := wf_ite (wf_snoopAdd h11) h11
  have h13 : Wf s6 := wf_strainerIn (wf_modCg h12)
  have h14 : Wf s7.1 := wf_linkCross h13
  have h16 : Wf s9 := wf_ite (wf_dramCorrected h14) h14
  split
  · exact wf_pair h11
  · split
    · exact wf_pair (wf_touchWay (wf_modCg h12))
    · split
      · exact wf_pair (wf_dramUncorrectable h14)
      · exact wf_pair (wf_ite h16 (wf_allocLine h16))

theorem wf_writeLine (h : Wf s) : Wf (writeLine i w line n s).1 := by
  unfold writeLine
  extract_lets _ _ s3 s4 s5 _ s7 s8 _ _ _ s12 _
  have h14 : Wf s3.1 := wf_cacheCheck h
  have h15 : Wf s4 := wf_ite (wf_snoopAdd h14) (wf_snoopDrop h14)
  clear_value s4
  have h16 : Wf s5 := wf_modCg h15
  clear_value s5
  have h17 : Wf s7 := wf_strainerIn (wf_modCg h15)
  clear_value s7
  have h18 : Wf s8.1 := by
    unfold s8
    split
    · exact wf_linkCross h17
    · exact h17
  have h22 : Wf s12 := wf_ite (wf_dramCorrected h18) (wf_keep h18 rfl)
  split
  · exact wf_pair h14
  · split
    · extract_lets _ _
      exact wf_pair (wf_touchWay (wf_putLine h16))
    · split
      · exact wf_pair (wf_dramUncorrectable h18)
      · exact wf_pair (wf_ite (wf_linkWrite h22) (wf_allocLine h22))

theorem wf_dramAccess (h : Wf s) : Wf (dramAccess i w write a n data s).1 := by
  unfold dramAccess
  split
  · extract_lets s2
    have h3 : Wf s2.1 := by
      unfold s2
      refine wf_foldl_fst (fun s5 x6 h4 => ?_) h
      extract_lets s7
      have h8 : Wf s7.1 := wf_writeLine h4
      exact wf_pair h8
    split
    · exact wf_pair (wf_fireWatches (wf_memWrite h3))
    · exact wf_pair h3
  · extract_lets s12
    have h13 : Wf s12.1 := by
      unfold s12
      refine wf_foldl_fst (fun s15 x16 h14 => ?_) h
      extract_lets s17
      have h18 : Wf s17.1 := wf_readLine h14
      exact wf_pair h18
    split
    · exact wf_pair h13
    · exact wf_pair h13

theorem wf_spOne (h : Wf s) : Wf (spOne w write l off n data s).1 := by
  unfold spOne
  extract_lets _
  split
  · exact wf_pair (wf_bankOffEvent h)
  · split
    · exact h
    · split
      · exact wf_pair (wf_spPut h)
      · split
        · exact h
        · exact h

theorem wf_spAccess (h : Wf s) : Wf (spAccess w write a n data s).1 := by
  unfold spAccess
  extract_lets ps at_
  clear_value at_
  split
  · exact h
  · exact wf_foldl_fst (fun _ _ hx => wf_pair (wf_spOne hx)) h

theorem wf_regAccess (h_rd : ∀ y0 t, Wf t → Wf (rd y0 t)) (h_wr : ∀ y0 y1 y2 t, Wf t → Wf (wr y0 y1 y2 t)) (h : Wf s) : Wf
    (regAccess write a n data val rd wr base s).1 := by
  unfold regAccess
  extract_lets _ _
  split
  · exact wf_pair (h_wr _ _ _ _ h)
  · split
    · exact wf_pair (h_rd _ _ h)
    · exact h

theorem wf_sendConfirm (h : Wf s) : Wf (sendConfirm tag s) :=
  wf_keep h rfl

theorem wf_endGroups (h : Wf s) : Wf (endGroups ini f s) := by
  unfold endGroups
  exact wf_foldl (fun _ _ h1 => wf_sendConfirm h1) h

theorem wf_outAccess (h : Wf s) : Wf (outAccess w write a n data waiter s).1 := by
  unfold outAccess
  split
  · exact h
  · extract_lets _ _ s8 _ s10 _ _ s13 s14 _ _
    have h17 : Wf s8 := wf_endGroups h
    clear_value s8
    have h18 : Wf s10 := wf_keep h17 rfl
    clear_value s10
    have h19 : Wf s13 := wf_keep h18 rfl
    clear_value s13
    have h20 : Wf s14 := wf_endGroups h
    clear_value s14
    split
    · exact h
    · split
      · exact wf_pair (wf_event h)
      · split
        · exact h
        · split
          · split
            · extract_lets s34
              have h35 : Wf s34 := wf_keep h18 rfl
              exact wf_pair (wf_ite (wf_sendConfirm h35) h35)
            · exact wf_pair (wf_ite (wf_sendConfirm h19) h19)
          · exact wf_pair (wf_keep h20 rfl)

theorem wf_access (h : Wf s) : Wf (access i write a n data waiter s).1 := by
  unfold access
  extract_lets _ _ _ _ _
  split
  · exact wf_pair (wf_refuseEvent h)
  · split
    · exact wf_pair (wf_fabricHit h)
    · split
      · exact wf_pair (wf_refuseEvent h)
      · split
        · exact wf_dramAccess h
        · split
          · exact wf_spAccess h
          · split
            · exact wf_regAccess (fun _ _ h24 => wf_dblReadEffect h24) (fun _ _ _ _ h25 => wf_dblWrite h25) h
            · split
              · exact wf_regAccess (fun _ _ h28 => wf_qptReadEffect h28) (fun _ _ _ _ h29 => wf_qptWrite h29) h
              · split
                · split
                  · exact h
                  · exact h
                · split
                  · exact wf_regAccess (fun _ _ h36 => wf_brgReadEffect h36) (fun _ _ _ _ h37 => h37) h
                  · exact wf_outAccess h

/-! ### Scalar loads and stores (Machine/ScalarMem.lean) -/

theorem wf_sign (h : Wf s) : Wf (sign k buffer off bs s) :=
  wf_modTh h

theorem wf_signWrite (h : Wf s) : Wf (signWrite k a bs s).1 := by
  unfold signWrite
  split
  · exact h
  · split
    · exact h
    · exact wf_pair (wf_sign h)

theorem wfC_loadTo (h : Wf s) : WfC (loadTo n f rd rs1 imm k s) :=
  wfC_map_any fun _ => wf_setReg h

theorem wfC_storeN (h : Wf s) : WfC (storeN n bs rs1 imm k s) := by
  unfold storeN
  split
  · exact wfC_error
  · split
    · exact wfC_error
    · exact wfC_spWrite h

theorem wfC_storeFrom (h : Wf s) : WfC (storeFrom n rd rs1 imm k s) := by
  unfold storeFrom
  split
  · exact wfC_error
  · exact wfC_storeN h

theorem wfR_execLb (h : Wf s) : WfR (execLb w rd rs1 imm s) :=
  wfR_next (wf_issueNext (fun _ _ h1 => wfC_loadTo h1) h)

theorem wfR_execLbu (h : Wf s) : WfR (execLbu w rd rs1 imm s) :=
  wfR_next (wf_issueNext (fun _ _ h1 => wfC_loadTo h1) h)

theorem wfR_execLh (h : Wf s) : WfR (execLh w rd rs1 imm s) :=
  wfR_next (wf_issueNext (fun _ _ h1 => wfC_loadTo h1) h)

theorem wfR_execLhu (h : Wf s) : WfR (execLhu w rd rs1 imm s) :=
  wfR_next (wf_issueNext (fun _ _ h1 => wfC_loadTo h1) h)

theorem wfR_execLw (h : Wf s) : WfR (execLw w rd rs1 imm s) :=
  wfR_next (wf_issueNext (fun _ _ h1 => wfC_loadTo h1) h)

theorem wfR_execLd (h : Wf s) : WfR (execLd w rd rs1 imm s) := by
  unfold execLd
  refine wfR_next ?_
  refine wf_issueNext (fun x5 x6 h7 => ?_) h
  split
  · exact wfC_error
  · exact wfC_map_any fun _ => wf_setReg (wf_setReg h7)

theorem wfR_execSb (h : Wf s) : WfR (execSb w rd rs1 imm s) :=
  wfR_next (wf_issueNext (fun _ _ h1 => wfC_storeFrom h1) h)

theorem wfR_execSh (h : Wf s) : WfR (execSh w rd rs1 imm s) :=
  wfR_next (wf_issueNext (fun _ _ h1 => wfC_storeFrom h1) h)

theorem wfR_execSw (h : Wf s) : WfR (execSw w rd rs1 imm s) :=
  wfR_next (wf_issueNext (fun _ _ h1 => wfC_storeFrom h1) h)

theorem wfR_execSd (h : Wf s) : WfR (execSd w rd rs1 imm s) := by
  unfold execSd
  refine wfR_next ?_
  refine wf_issueNext (fun x5 x6 h7 => ?_) h
  split
  · exact wfC_error
  · split
    · exact wfC_storeN h7
    · exact wfC_error
    · exact wfC_error

theorem wf_texInsert (h : Wf s) : Wf (texInsert l line bs s) :=
  wf_modLeaf h

theorem wf_loadAnswer (h : Wf s) : Wf (loadAnswer k e s) := by
  unfold loadAnswer
  split
  · exact h
  · split
    · extract_lets s9
      have h10 : Wf s9 := wf_modTh h
      exact wf_ite (wf_progress (wf_texInsert h10)) (wf_ite (wf_progress (wf_setReg h10)) (wf_abortOn h10))
    · exact wf_modTh h
    · exact h

theorem wfR_execLwx (h : Wf s) : WfR (execLwx w rd rs1 imm s) := by
  unfold execLwx
  extract_lets _ s2
  have h3 : Wf s2 := wf_issueNext (fun _ _ h4 => wfC_map_any fun _ => wf_modTh h4) h
  split
  · split
    · extract_lets s12
      have h13 : Wf s12.1 := wf_access h3
      exact wfR_next (wf_loadAnswer h13)
    · exact wfR_next h3
  · exact wfR_next h3

theorem wfR_execLoadReturn (h : Wf s) : WfR (execLoadReturn w s) := by
  unfold execLoadReturn
  extract_lets _
  split
  · exact wfR_next h
  · split
    · exact wfR_next h
    · split
      · split
        · exact wfR_next (wf_loadAnswer h)
        · exact wfR_next h
        · exact wfR_next (wf_stopTh (wf_modTh h))
      · extract_lets s20
        have h21 : Wf s20.1 := wf_access h
        exact wfR_next (wf_loadAnswer h21)

theorem wfR_execSwx (h : Wf s) : WfR (execSwx w rd rs1 imm s) := by
  unfold execSwx
  extract_lets _ _
  split
  · exact wfR_next h
  · split
    · exact wfR_next (wf_stopTh h)
    · extract_lets _ s13 s14
      have h15 : Wf s13.1 := wf_signWrite h
      have h16 : Wf s14.1 := wf_access h15
      split
      · exact wfR_next (wf_issued (wf_adv h15))
      · split
        · exact wfR_next h
        · split
          · exact wfR_next (wf_issued (wf_adv h16))
          · exact wfR_next (wf_abortOn (wf_issued h16))
        · exact wfR_next (wf_issued (wf_adv h16))

/-! ### DMA and drains (Machine/Dma.lean) -/

theorem wf_logDma (h : Wf s) : Wf (logDma l d s).1 := by
  unfold logDma
  split
  · exact h
  · extract_lets _ _ s5
    have h6 : Wf s5 := wf_keep h rfl
    exact wf_pair (wf_modLeaf h6)

theorem wfR_execDma (h : Wf s) : WfR (execDma w rs1 s) := by
  unfold execDma
  refine wfR_next ?_
  refine wf_issueNext (fun x13 x14 h15 => ?_) h
  extract_lets _
  refine wfC_bind_any fun s20 => ?_
  refine wfC_bind_any fun s23 => ?_
  split
  · exact wfC_error
  · split
    · exact wfC_error
    · extract_lets s31
      have h32 : Wf s31.1 := wf_logDma h15
      exact wfC_ok (wf_tokInc (wf_modLeaf h32))

theorem wf_modDma (h : Wf s) : Wf (modDma l slot f s) :=
  wf_modLeaf h

theorem wf_dropDma (h : Wf s) : Wf (dropDma l slot s) :=
  wf_modLeaf h

theorem wf_dmaDone (h : Wf s) : Wf (dmaDone l slot s) := by
  unfold dmaDone
  split
  · exact h
  · exact wf_ite h (wf_tokDec (wf_dropDma h))

theorem wf_dmaNext (h : Wf s) : Wf (dmaNext l o s) := by
  unfold dmaNext
  extract_lets _ s2
  have h3 : Wf s2 := wf_modDma h
  exact wf_dmaDone (wf_progress h3)

theorem wf_dmaFail (h : Wf s) : Wf (dmaFail l st s) :=
  wf_abortOn h

theorem wfC_transposeRow (h : Wf s) : WfC (transposeRow l o bs s) := by
  unfold transposeRow
  extract_lets _
  refine wfC_foldl (fun s3 x4 h2 => ?_) (wfC_ok h)
  exact wfC_bind h2 fun _ h5 => wfC_spWrite h5

theorem wf_dmaLand (h : Wf s) : Wf (dmaLand l o bs s) := by
  unfold dmaLand
  extract_lets _ _ _ s4 s5
  have h6 : Wf s4.1 := wf_signWrite h
  have h7 : Wf s5.1 := wf_access h6
  split
  · split
    · rename_i s10 e11
      have h12 : Wf s10 := wf_ok e11 (wfC_transposeRow h)
      exact wf_dmaNext h12
    · exact h
    · exact wf_engStop (wf_dropDma h)
  · split
    · split
      · rename_i s22 e23
        have h24 : Wf s22 := wf_ok e23 (wfC_spWrite h)
        exact wf_dmaNext h24
      · exact h
      · exact wf_engStop (wf_dropDma h)
    · split
      · exact wf_dmaNext h6
      · split
        · exact h
        · exact wf_dmaNext h7
        · exact wf_ite (wf_dmaNext h7) (wf_dmaFail h7)

theorem wfR_execDmaPieceComplete (h : Wf s) : WfR (execDmaPieceComplete leaf slot s) := by
  unfold execDmaPieceComplete
  extract_lets _
  refine wfR_next ?_
  split
  · exact h
  · extract_lets _ _ s9 _ _ s12
    have h13 : Wf s9 := wf_modDma h
    have h14 : Wf s12.1 := wf_access h13
    split
    · exact h
    · split
      · exact wf_dmaLand h13
      · split
        · split
          · exact wf_dmaLand h13
          · exact h13
          · exact wf_engStop (wf_dropDma h13)
        · split
          · exact h13
          · exact wf_modDma h14
          · exact wf_ite (wf_dmaLand h14) (wf_dmaFail h14)

/-! ### Queue instructions, waits and barriers (Machine/Station.lean) -/

theorem wf_jobEndCheck (h : Wf s) : Wf (jobEndCheck e s) := by
  unfold jobEndCheck
  split
  · exact h
  · exact wf_ite (wf_settle (wf_endJob h)) h

theorem wf_haltThread (h : Wf s) : Wf (haltThread k s) := by
  unfold haltThread
  extract_lets s1
  have h2 : Wf s1 := wf_modTh h
  split
  · exact wf_jobEndCheck h2
  · exact h2

theorem wf_beginLocalise (h : Wf s) : Wf (beginLocalise p trigger s) := by
  unfold beginLocalise
  split
  · exact h
  · extract_lets _ x7 s8 _ s10 _ s12
    have h13 : Wf s8 := by
      unfold s8
      refine wf_foldl (fun s17 x18 h16 => ?_) h
      unfold x7
      extract_lets s19
      have h20 : Wf s19 := by
        unfold s19
        split
        · exact wf_foldl (fun _ _ h24 => wf_modTh h24) h16
        · exact h16
      exact wf_modJob h20
    clear_value s8
    have h27 : Wf s10 := wf_keep h13 rfl
    clear_value s10
    have h28 : Wf s12 := wf_keep h27 rfl
    clear_value s12
    exact wf_ite (wf_foldl (fun _ _ h29 => wf_modEst h29) (wf_keep h27 rfl))
        (wf_ite (wf_twoFault h27) (wf_foldl (fun _ _ h30 => wf_event (wf_modEst h30)) h28))

theorem wf_releaseTaster (h : Wf s) : Wf (releaseTaster k copy s) := by
  unfold releaseTaster
  extract_lets _
  split
  · exact wf_haltThread (wf_modTh h)
  · exact wf_ite (wf_checkpoint (wf_adv (wf_modTh h))) (wf_ite (wf_checkpoint (wf_adv (wf_pushEntry (wf_modTh h)))) (wf_modTh h))

theorem wf_tasterReport (h : Wf s) : Wf (tasterReport e j k s) := by
  unfold tasterReport
  extract_lets s1 _ _ _ _ _
  have h7 : Wf s1 := wf_modTh h
  clear_value s1
  split
  · exact wf_keep h7 rfl
  · extract_lets s13 _ _ _ s17
    have h18 : Wf s13 := wf_keep h7 rfl
    clear_value s13
    have h19 : Wf s17 := wf_keep h18 rfl
    exact wf_ite (wf_releaseTaster (wf_releaseTaster h18)) (wf_beginLocalise (wf_event h19))

theorem wfR_execPairWindowMiss (h : Wf s) : WfR (execPairWindowMiss e s) := by
  unfold execPairWindowMiss
  refine wfR_next ?_
  split
  · exact h
  · split
    · exact h
    · extract_lets _ s12
      have h13 : Wf s12 := wf_keep h rfl
      exact wf_beginLocalise (wf_event h13)

theorem wf_endStep (h : Wf s) : Wf (endStep k s) :=
  wf_checkpoint (wf_adv h)

theorem wfR_execQpush (h : Wf s) : WfR (execQpush w rs1 rs2 qn s) := by
  unfold execQpush
  refine wfR_next ?_
  refine wf_issue (fun x13 x14 h15 => ?_) h
  refine wfC_bind_any fun s19 => ?_
  refine wfC_bind_any fun s22 => ?_
  extract_lets _ _ x25
  split
  · exact wfC_error
  · split
    · exact wfC_error
    · refine wfC_bind_any fun s32 => ?_
      split
      · exact wfC_error
      · clear_value x25
        split
        · split
          · exact wfC_ok (wf_tasterReport (wf_modTh (wf_sign h15)))
          · split
            · exact wfC_error
            · extract_lets s43
              have h44 : Wf s43 := wf_ite (wf_sign h15) h15
              exact wfC_ok (wf_endStep (wf_pushEntry (wf_modTh h44)))
        · split
          · exact wfC_error
          · exact wfC_ok (wf_endStep (wf_pushEntry (wf_modQ h15)))

theorem wfC_popTo (h : Wf s) : WfC (popTo k q a s) :=
  wfC_map_st (wfC_spWrite h) fun _ h1 => wf_popEntry (wf_modQ h1)

theorem wfR_execQpop (h : Wf s) : WfR (execQpop w rs1 rs2 qn s) := by
  unfold execQpop
  refine wfR_next ?_
  refine wf_issue (fun x9 x10 h11 => ?_) h
  refine wfC_bind_any fun s14 => ?_
  split
  · exact wfC_error
  · exact wfC_map_st (wfC_popTo h11) fun _ h17 => wf_endStep h17

theorem wfR_execQtry (h : Wf s) : WfR (execQtry w rs1 rs2 qn p s) := by
  unfold execQtry
  refine wfR_next ?_
  refine wf_issue (fun x9 x10 h11 => ?_) h
  refine wfC_bind_any fun s14 => ?_
  split
  · exact wfC_ok (wf_endStep (wf_setPred h11))
  · exact wfC_map_st (wfC_popTo h11) fun _ h17 => wf_endStep (wf_setPred h17)

theorem wfR_execQwait (h : Wf s) : WfR (execQwait w rd rs2 qn s) := by
  unfold execQwait
  refine wfR_next ?_
  refine wf_issueNext (fun x5 x6 h7 => ?_) h
  split
  · exact wfC_error
  · refine wfC_bind_any fun s12 => ?_
    extract_lets _ _
    split
    · exact wfC_error
    · split
      · exact wfC_error
      · exact wfC_ok (wf_setReg (wf_setReg h7))

theorem wfR_execQret (h : Wf s) : WfR (execQret w rs1 rs2 qn s) := by
  unfold execQret
  refine wfR_next ?_
  refine wf_issue (fun x13 x14 h15 => ?_) h
  refine wfC_bind_any fun s19 => ?_
  refine wfC_bind_any fun s22 => ?_
  extract_lets _
  split
  · exact wfC_error
  · split
    · exact wfC_error
    · split
      · exact wfC_error
      · exact wfC_ok (wf_modQ (wf_endStep h15))

theorem wfR_execQlen (h : Wf s) : WfR (execQlen w rd rs2 qn s) := by
  unfold execQlen
  refine wfR_next ?_
  refine wf_issueNext (fun x9 x10 h11 => ?_) h
  refine wfC_bind_any fun s14 => ?_
  split
  · exact wfC_error
  · exact wfC_ok (wf_setReg h11)

theorem wfR_execWait (h : Wf s) : WfR (execWait w n s) := by
  unfold execWait
  refine wfR_next ?_
  refine wf_issueNext (fun x5 x6 h7 => ?_) h
  split
  · exact wfC_ok h7
  · exact wfC_error

theorem wfR_execBar (h : Wf s) : WfR (execBar w n cnt s) := by
  unfold execBar
  refine wfR_next ?_
  refine wf_issue (fun x5 x6 h7 => ?_) h
  split
  · exact wfC_error
  · extract_lets s10 _
    have h12 : Wf s10 := wf_modTh (wf_endStep h7)
    exact wfC_ok (wf_ite (wf_foldl (fun _ _ h13 => wf_modTh h13) h12) h12)

theorem wfR_execStepEnd (h : Wf s) : WfR (execStepEnd w s) := by
  unfold execStepEnd
  refine wfR_next ?_
  refine wf_issue (fun x5 x6 h7 => ?_) h
  split
  · exact wfC_ok (wf_endStep h7)
  · exact wfC_error

theorem wfR_execHalt (h : Wf s) : WfR (execHalt w s) := by
  unfold execHalt
  refine wfR_next ?_
  refine wf_issue (fun x5 x6 h7 => ?_) h
  split
  · exact wfC_error
  · extract_lets s10
    have h11 : Wf s10 := wf_checkpoint h7
    split
    · exact wfC_ok (wf_ite (wf_tasterReport h11) (wf_haltThread h11))
    · exact wfC_ok (wf_haltThread h11)

theorem wf_reloadLine (h : Wf s) : Wf (reloadLine l line s).1 := by
  unfold reloadLine
  extract_lets tag put ps i ps' r
  have hput : ∀ t x b, Wf t → Wf (put t x b) := fun t x b ht => wf_keep (wf_memWrite ht) rfl
  clear_value put
  have hr : Wf r.1 := wf_foldl_fst (fun _ _ hx => wf_pair (wf_readLine hx)) h
  split
  · exact wf_pair (wf_foldl (fun _ _ ht => hput _ _ _ ht) h)
  · split
    · exact h
    · split
      · exact wf_pair (wf_foldl (fun _ _ ht => hput _ _ _ ht) hr)
      · exact hr

theorem wf_rereadWord (h : Wf s) : Wf (rereadWord l o s).1 := by
  unfold rereadWord
  extract_lets _ _ s3 _ s5
  have h6 : Wf s3 := wf_keep h rfl
  have h7 : Wf s5.1 := wf_reloadLine h6
  split
  · exact h6
  · split
    · exact h6
    · split
      · exact wf_pair h7
      · exact h7

theorem wfR_execStepReplay (h : Wf s) : WfR (execStepReplay w s) := by
  unfold execStepReplay
  extract_lets _ _ _ s4 _ s6
  have h7 : Wf s4.1 := by
    unfold s4
    split
    · exact wf_rereadWord h
    · exact h
  have h14 : Wf s6 := wf_restore h7
  refine wfR_next ?_
  split
  · exact h
  · split
    · exact wf_abortOn h7
    · exact wf_ite (wf_abortOn (wf_parityEvent h7)) (wf_event (wf_modLeaf (wf_modTh h14)))

/-! ### Candidates of a batch (Machine/Candidates.lean) -/

theorem wf_modGfx (h : Wf s) : Wf (modGfx s e f) :=
  wf_keep h rfl

theorem wf_askPreempt (h : Wf s) : Wf (askPreempt w s) := by
  unfold askPreempt
  extract_lets _ _ x3
  split
  · exact h
  · clear_value x3
    split
    · exact wf_ite (wf_modGfx h) h
    · exact h

theorem wf_askAll (h : Wf s) : Wf (askAll s) := by
  unfold askAll
  exact wf_foldl (fun _ _ h1 => wf_askPreempt h1) h

/-! ### Raster operations, fragments and textures (Machine/Raster.lean) -/

theorem wf_faultRec (h : Wf s) : Wf (faultRec e kind bytes s) := by
  unfold faultRec
  split
  · exact h
  · extract_lets _
    exact wf_ite h (wf_pushEntry h)

theorem wf_nextPass (h : Wf s) : Wf (nextPass e s) := by
  unfold nextPass
  extract_lets _ s2
  have h3 : Wf s2 := wf_modGfx h
  split
  · split
    · exact wf_foldl (fun _ _ h8 => wf_modLeaf h8) h3
    · exact h3
  · exact h

theorem wfM_andThen (hm : WfM m) (hf : ∀ t, Wf t → WfM (f t)) : WfM (m.andThen f) := by
  cases m with
  | ok t => exact hf t hm
  | failed st t => exact hm
  | stop e => exact hm

theorem wfM_moved (hc : WfC c) : WfM (moved c) := by
  cases c with
  | ok t => exact hc t rfl
  | error e => exact wfM_stop

theorem wfM_loadAtt (h : Wf s) : WfM (loadAtt l p flushed b x s) := by
  unfold loadAtt
  extract_lets a
  clear_value a
  split
  · exact wfM_ok h
  · generalize binSamples a p.samples b = ys
    refine wfM_foldl (fun m y hm => wfM_andThen hm fun t ht => ?_) (wfM_ok h)
    extract_lets o r
    have hr : Wf r.1 := wf_access ht
    split
    · exact wfM_moved (wfC_spWrite ht)
    · split
      · split
        · exact wfM_moved (wfC_spWrite hr)
        · exact wfM_failed hr
      · exact wfM_failed hr
      · exact wfM_stop

theorem wfM_storeOne (h : Wf s) : WfM (storeOne l addr bs s) := by
  unfold storeOne
  extract_lets s1
  have h2 : Wf s1.1 := wf_access h
  split
  · split
    · exact wfM_ok h2
    · exact wfM_failed h2
  · exact wfM_ok h2
  · exact wfM_stop

theorem wfM_storeAtt (h : Wf s) : WfM (storeAtt l p b x s) := by
  unfold storeAtt
  extract_lets a
  clear_value a
  split
  · exact wfM_ok h
  · split
    · generalize binSamples a 1 b = ys
      refine wfM_foldl (fun m y hm => wfM_andThen hm fun t ht => ?_) (wfM_ok h)
      split
      · exact wfM_stop
      · exact wfM_storeOne ht
    · generalize binSamples a p.samples b = ys
      refine wfM_foldl (fun m y hm => wfM_andThen hm fun t ht => ?_) (wfM_ok h)
      split
      · exact wfM_stop
      · exact wfM_storeOne ht

theorem wfC1_depthTest (h : Wf s) : WfC1 (depthTest l p blk f depth s) := by
  unfold depthTest
  split
  · exact wfC1_ok h
  · extract_lets _
    refine wfC1_map_fst ?_ fun _ h9 => wf_pair h9
    refine wfC1_foldl (fun s11 x12 h10 => ?_) (wfC1_ok h)
    exact wfC1_bind_fst h10 fun _ h13 => wfC1_bind_any fun _ => wfC1_map_st (wfC_spWrite h13) fun _ h15 => h15

theorem wfC1_newFrags (h : Wf s) : WfC1 (newFrags l b blk ts s) := by
  unfold newFrags
  extract_lets _
  refine wfC1_foldl (fun s3 x4 h2 => ?_) (wfC1_ok h)
  refine wfC1_bind_fst h2 fun s7 h6 => ?_
  split
  · exact wfC1_ok (wf_pair h6)
  · exact wfC1_map_fst (wfC1_depthTest h6) fun _ h10 => wf_pair h10

theorem wfM_setupRun (h : Wf s) : WfM (setupRun e l th blk s) := by
  unfold setupRun
  extract_lets _ _ _ _ _ _
  split
  · exact wfM_ok h
  · split
    · exact wfM_stop
    · rename_i s13 e14
      have h15 : Wf s13.1 := wf_ok_pair e14 (wfC1_newFrags h)
      extract_lets _ s17
      have h18 : WfM s17 := by
        unfold s17
        refine wfM_foldl (fun s20 x21 h19 => ?_) (wfM_ok h15)
        exact wfM_andThen h19 (fun _ h22 => wfM_moved (wfC_spWrite h22))
      exact wfM_andThen h18 (fun _ h23 => wfM_ok (wf_modLeaf h23))

theorem wf_flushBin (h : Wf s) : Wf (flushBin blk l g s b) := by
  unfold flushBin
  extract_lets _
  exact wf_foldl (fun _ _ h2 => wf_foldl (fun _ _ h3 => wf_access h3) h2) h

theorem wf_flushPass (h : Wf s) : Wf (flushPass e draw' s) := by
  unfold flushPass
  split
  · exact h
  · extract_lets _ _ _ s9 s10
    have h11 : Wf s9 := wf_foldl (fun _ _ h12 => wf_flushBin h12) h
    have h13 : Wf s10 := wf_event h11
    exact wf_faultRec (wf_modGfx h13)

theorem wfO_binRoom (h : Wf s) : WfO (binRoom e need j s) := by
  unfold binRoom
  extract_lets _
  split
  · exact wfO_some (wf_modGfx h)
  · exact wfO_map fun _ => wf_modGfx h

theorem wf_binFull (h : Wf s) : Wf (binFull e draw' need blk j s) := by
  unfold binFull
  extract_lets _ _ s3 s4
  have h5 : Wf s3 := wf_modGfx h
  have h6 : Wf s4 := wf_event h5
  exact wf_ite (wf_ite (wf_settle (wf_abortJob h)) (wf_flushPass h)) (wf_faultRec h6)

theorem wfR_execBinGrowTimeout (h : Wf s) : WfR (execBinGrowTimeout e s) := by
  unfold execBinGrowTimeout
  refine wfR_next ?_
  split
  · exact h
  · extract_lets _
    exact wf_ite h (wf_ite (wf_settle (wf_abortJob (wf_modGfx h))) (wf_flushPass h))

theorem wfC_rasterOp (h : Wf s) : WfC (rasterOp code rs1 tok k s) := by
  unfold rasterOp
  refine wfC_bind_any fun s6 => ?_
  refine wfC_bind_any fun s9 => ?_
  split
  · exact wfC_error
  · split
    · exact wfC_error
    · exact wfC_ok (wf_tokInc (wf_modLeaf h))

theorem wfR_execRbinw (h : Wf s) : WfR (execRbinw w rs1 tok s) := by
  unfold execRbinw
  extract_lets _ _ _ _ _
  refine wfR_next ?_
  split
  · exact h
  · split
    · exact h
    · split
      · exact h
      · split
        · exact wf_stopTh h
        · rename_i s20 e21
          have h22 : Wf s20 := wf_ok e21 (wfC_bind_any fun _ => wfC_rasterOp h)
          split
          · exact wf_binFull (wf_nextPass h)
          · rename_i s27 e28
            have h29 : Wf s27 := wf_some e28 (wfO_binRoom (wf_nextPass h22))
            extract_lets _
            exact wf_issued (wf_adv (wf_modGfx h29))

theorem wf_stopLeaf (h : Wf s) : Wf (stopLeaf l s) := by
  unfold stopLeaf
  refine wf_foldl (fun s3 x4 h2 => ?_) h
  extract_lets _
  split
  · exact wf_modTh (wf_checkpoint h2)
  · exact wf_modTh (wf_checkpoint (wf_modTh h2))
  · exact h2

theorem wf_preemptDone (h : Wf s) : Wf (preemptDone e s) := by
  unfold preemptDone
  split
  · exact h
  · extract_lets _ s7 s8 _ _ s11 s12 _
    have h14 : Wf s7 := wf_event h
    clear_value s7
    have h15 : Wf s8 := wf_faultRec h14
    clear_value s8
    have h16 : Wf s11.1 := wf_stopJob h15
    have h17 : Wf s12 := wf_freeEst h16
    clear_value s12
    exact wf_ite h (wf_settle (wf_keep h17 rfl))

theorem wfC_boundaryStop (h : Wf s) : WfC (boundaryStop e l b s) := by
  unfold boundaryStop
  split
  · exact wfC_error
  · exact wfC_ok (wf_preemptDone (wf_stopLeaf (wf_modGfx h)))

theorem wfR_execRdraw (h : Wf s) : WfR (execRdraw w s) := by
  unfold execRdraw
  refine wfR_next ?_
  refine wf_issue (fun x5 x6 h7 => ?_) h
  split
  · exact wfC_error
  · split
    · exact wfC_error
    · extract_lets s16
      have h17 : Wf s16 := wf_endStep (wf_modGfx (wf_nextPass (wf_askAll h7)))
      split
      · exact wfC_ok h17
      · exact wfC_boundaryStop h17

theorem wfR_execRbin (h : Wf s) : WfR (execRbin w rd s) := by
  unfold execRbin
  refine wfR_next ?_
  refine wf_issue (fun x5 x6 h7 => ?_) h
  split
  · exact wfC_error
  · split
    · exact wfC_error
    · extract_lets s16 s17 _ s19
      have h20 : Wf s16 := wf_askAll h7
      have h21 : Wf s17 := wf_ite h20 (wf_modGfx h20)
      have h22 : Wf s19 := wf_modLeaf h21
      split
      · exact wfC_boundaryStop h20
      · split
        · exact wfC_ok (wf_endStep (wf_setReg (wf_modTh (wf_modGfx h22))))
        · exact wfC_ok (wf_endStep (wf_setReg (wf_modTh h22)))

theorem wfR_execRload (h : Wf s) : WfR (execRload w rs1 tok s) :=
  wfR_next (wf_issueNext (fun _ _ h1 => wfC_rasterOp h1) h)

theorem wfR_execRsetup (h : Wf s) : WfR (execRsetup w rs1 tok s) :=
  wfR_next (wf_issueNext (fun _ _ h1 => wfC_rasterOp h1) h)

theorem wfR_execRstore (h : Wf s) : WfR (execRstore w rs1 tok s) :=
  wfR_next (wf_issueNext (fun _ _ h1 => wfC_rasterOp h1) h)

theorem wfM_rasterRun (h : Wf s) : WfM (rasterRun e l op s) := by
  unfold rasterRun
  extract_lets _ _ _
  split
  · exact wfM_ok h
  · split
    · refine wfM_foldl (fun s8 x9 h7 => ?_) (wfM_ok h)
      exact wfM_andThen h7 (fun _ h10 => wfM_loadAtt h10)
    · split
      · exact wfM_setupRun h
      · refine wfM_andThen ?_ (fun _ h18 => wfM_ok (wf_modLeaf h18))
        refine wfM_foldl (fun s15 x16 h14 => ?_) (wfM_ok h)
        exact wfM_andThen h14 (fun _ h17 => wfM_storeAtt h17)

theorem wfR_execRasterOpComplete (h : Wf s) : WfR (execRasterOpComplete leaf s) := by
  unfold execRasterOpComplete
  extract_lets _
  refine wfR_next ?_
  split
  · exact h
  · extract_lets _ _
    split
    · exact h
    · split
      · exact h
      · split
        · rename_i s19 e20
          have h21 : Wf s19 := wf_moved e20 (wfM_rasterRun h)
          exact wf_progress (wf_tokDec (wf_modLeaf h21))
        · rename_i s24 e25
          have h26 : Wf s24 := wf_failed e25 (wfM_rasterRun h)
          exact wf_abortOn (wf_modLeaf h26)
        · exact h
        · exact wf_engStop (wf_modLeaf h)

theorem wfR_execRfrag (h : Wf s) : WfR (execRfrag w rd rs1 s) := by
  unfold execRfrag
  refine wfR_next ?_
  refine wf_issueNext (fun x9 x10 h11 => ?_) h
  refine wfC_bind_any fun s14 => ?_
  extract_lets _ _ _ _
  split
  · exact wfC_ok (wf_setReg (wf_modLeaf h11))
  · split
    · exact wfC_error
    · exact wfC_ok (wf_setReg h11)

theorem wf_putFrags (h : Wf s) : Wf (putFrags l y fs' s) :=
  wf_modLeaf h

theorem wfC1_testBatch (h : Wf s) : WfC1 (testBatch l y depth s) := by
  unfold testBatch
  extract_lets _
  split
  · exact wfC1_error
  · refine wfC1_foldl (fun s5 x6 h4 => ?_) (wfC1_ok h)
    refine wfC1_bind_fst h4 fun s9 h8 => ?_
    split
    · exact wfC1_ok (wf_pair h8)
    · exact wfC1_map_fst (wfC1_depthTest h8) fun _ h12 => wf_pair h12

theorem wfR_execRdepth (h : Wf s) : WfR (execRdepth w vr rs1 s) := by
  unfold execRdepth
  refine wfR_next ?_
  refine wf_issueNext (fun x13 x14 h15 => ?_) h
  refine wfC_bind_any fun s19 => ?_
  refine wfC_bind_any fun s22 => ?_
  split
  · exact wfC_error
  · exact wfC_map_fst (wfC1_testBatch h15) fun _ h28 => wf_putFrags h28

theorem wfC_blendFrag (h : Wf s) : WfC (blendFrag l p blk n x f rgba s) := by
  unfold blendFrag
  extract_lets _
  refine wfC_foldl (fun s3 x4 h2 => ?_) (wfC_ok h)
  exact wfC_bind h2 fun _ h5 => wfC_bind_any fun _ => wfC_spWrite h5

theorem wfC_blendLanes (h : Wf s) : WfC (blendLanes l p blk n x px fs' s) := by
  unfold blendLanes
  refine wfC_foldl (fun s2 x3 h1 => ?_) (wfC_ok h)
  refine wfC_bind h1 fun s6 h5 => ?_
  split
  · exact wfC_blendFrag h5
  · exact wfC_ok h5

theorem wfR_execRblend (h : Wf s) : WfR (execRblend w vr rs1 rs2 s) := by
  unfold execRblend
  refine wfR_next ?_
  refine wf_issueNext (fun x5 x6 h7 => ?_) h
  extract_lets _
  split
  · exact wfC_error
  · refine wfC_bind_any fun s18 => ?_
    refine wfC_bind_any fun s25 => ?_
    refine wfC_bind_any fun s31 => ?_
    refine wfC_bind_any fun s36 => ?_
    refine wfC_bind_any fun s40 => ?_
    refine wfC_bind_any fun s43 => ?_
    split
    · exact wfC_error
    · extract_lets _
      split
      · exact wfC_error
      · split
        · exact wfC_error
        · split
          · exact wfC_error
          · exact wfC_bind_fst (wfC1_testBatch h7) fun _ h59 => wfC_map_st (wfC_blendLanes h59) fun _ h60 => wf_putFrags h60

theorem wfM_texLine (h : Wf s) : WfM (texLine k line s).1 := by
  unfold texLine
  extract_lets _ s2
  have h3 : Wf s2.1 := wf_access h
  split
  · exact wfM_ok h
  · split
    · split
      · exact wfM_ok (wf_texInsert h)
      · exact wfM_stop
    · split
      · split
        · exact wfM_ok (wf_texInsert h3)
        · exact wfM_failed h3
      · exact wfM_failed (wf_modTh h3)
      · exact wfM_stop

theorem wfM_texLines (h : Wf s) : WfM (texLines k ls s).1 := by
  unfold texLines
  refine wfM_foldl_fst (fun s2 x3 h1 => ?_) (wfM_ok h)
  split
  · rename_i s5 e6
    have h7 : Wf s5 := wf_moved e6 h1
    extract_lets s8
    have h9 : WfM s8.1 := wfM_texLine h7
    exact h9
  · exact h1

theorem wfR_execRtex (h : Wf s) : WfR (execRtex w vr rs1 rs2 s) := by
  unfold execRtex
  extract_lets _ _ x3
  refine wfR_next ?_
  split
  · exact h
  · clear_value x3
    split
    · exact wf_stopTh h
    · extract_lets s13 _
      have h15 : WfM s13.1 := wfM_texLines h
      split
      · exact wf_stopTh h
      · rename_i s21 e22
        have h23 : Wf s21 := wf_failed e22 h15
        exact wf_ite h23 (wf_abortOn (wf_issued h23))
      · rename_i s25 e26
        have h27 : Wf s25 := wf_moved e26 h15
        split
        · rename_i s29 e30
          have h31 : Wf s29 := wf_ok e30 (by
              refine wfC_foldl (fun s33 x34 h32 => ?_) (wfC_ok h27)
              exact wfC_bind h32 fun _ h35 => wfC_vwrite h35)
          exact wf_issued (wf_adv h31)
        · exact wf_stopTh h

theorem wfR_execPreemptAbandoned (h : Wf s) : WfR (execPreemptAbandoned e s) := by
  unfold execPreemptAbandoned
  refine wfR_next ?_
  split
  · exact h
  · extract_lets _ _ s8 s9 s10
    have h11 : Wf s8 := wf_foldl (fun _ _ h12 => wf_ite (wf_modTh h12) h12) h
    have h13 : Wf s9 := wf_modGfx h11
    have h14 : Wf s10 := wf_event h13
    exact wf_ite h (wf_faultRec h14)

end

end Sys2Proof.Machine

/-! Jobs, recovery, capture and fusion keep the canonical form of memory. -/

namespace Sys2Proof.Machine

section
set_option autoImplicit true

/-! ### Records, the switch and the Pour (Machine/Jobs.lean) -/

theorem wf_discardRec (h : Wf s) : Wf (discardRec p q s) :=
  wf_submitRefuse h

theorem wf_refuseRec (h : Wf s) : Wf (refuseRec r status s) :=
  wf_completeRec h

theorem wfR_execRecordTake (h : Wf s) : WfR (execRecordTake q s) := by
  unfold execRecordTake
  extract_lets _ _ _ _ s5 _ _ _
  have h9 : Wf s5 := wf_popEntry (wf_modQ h)
  clear_value s5
  refine wfR_next ?_
  split
  · exact h
  · split
    · exact h
    · split
      · exact wf_discardRec h9
      · split
        · exact wf_refuseRec h9
        · extract_lets _ _ _ s27
          have h28 : Wf s27 := wf_askPreempt (wf_keep h9 rfl)
          exact wf_ite (wf_ite h28 (wf_refuseRec h9)) (wf_ite (wf_refuseRec h9) (wf_ite (wf_refuseRec h9) h28))

theorem wf_armWatches (h : Wf s) : Wf (armWatches e s) := by
  unfold armWatches
  split
  · exact h
  · exact wf_ite h (wf_ite (wf_modJob h) (wf_keep h rfl))

theorem wf_saveKept (h : Wf s) : Wf (saveKept e s) := by
  unfold saveKept
  split
  · exact h
  · extract_lets _ _
    split
    · exact h
    · split
      · exact h
      · split
        · exact h
        · split
          · exact wf_putKept h
          · exact wf_putKept h

theorem wf_segSwitch (h : Wf s) : Wf (segSwitch e img is same s) := by
  unfold segSwitch
  exact wf_foldl (fun _ _ h1 => wf_segEvent (wf_ite (wf_foldl (fun _ _ h2 => wf_ite
      (wf_ite (wf_segSet h2) (wf_ite (wf_segSet h2) (wf_segSet (wf_segWipe h2)))) (wf_ite h2 (wf_modLeaf (wf_segSet h2)))) h1)
      (wf_modLeaf (wf_foldl (fun _ _ h3 => wf_ite (wf_ite (wf_segSet h3) (wf_ite (wf_segSet h3) (wf_segSet (wf_segWipe h3))))
      (wf_ite h3 (wf_modLeaf (wf_segSet h3)))) h1)))) h

theorem wf_segSettle (h : Wf s) : Wf (segSettle e s) := by
  unfold segSettle
  refine wf_foldl (fun s4 x5 h3 => ?_) h
  extract_lets _ s7
  have h8 : Wf s7 := by
    unfold s7
    refine wf_foldl (fun s12 x13 h11 => ?_) h3
    split
    · exact wf_segSet h11
    · exact wf_ite (wf_segWipe (wf_segSet h11)) h11
    · exact wf_ite (wf_segWipe (wf_segSet h11)) h11
    · exact h11
  exact wf_segEvent h8

theorem wf_noteKept (h : Wf s) : Wf (noteKept home p nh n s).1 := by
  unfold noteKept
  split
  · exact h
  · split
    · exact wf_pair (wf_putKept h)
    · exact wf_pair (wf_putKept h)

theorem wf_beginSwitch (h : Wf s) : Wf (beginSwitch e j s) := by
  unfold beginSwitch
  extract_lets _ _ s3 s4 s5
  have h6 : Wf s3 := wf_ite h (wf_saveKept h)
  have h7 : Wf s4.1 := wf_noteKept h6
  have h8 : Wf s5 := wf_modEst h7
  exact wf_segSwitch h8

theorem wfO_admitRec (h : Wf s) : WfO (admitRec s w e lent) := by
  unfold admitRec
  extract_lets _ _ _ _
  refine wfO_bind_any fun x5 => ?_
  extract_lets s6
  have h7 : Wf s6 := wf_beginSwitch h
  split
  · exact wfO_map fun _ => wf_beginSwitch h7
  · exact wfO_some h7

theorem wfO_ownStart (h : Wf s) : WfO (ownStart s w) := by
  unfold ownStart
  split
  · exact wfO_none
  · exact wfO_bind_any fun _ => wfO_admitRec h

theorem wfO_lentStart (h : Wf s) : WfO (lentStart s w) := by
  unfold lentStart
  split
  · exact wfO_none
  · exact wfO_bind_any fun _ => wfO_admitRec h

theorem wf_dropRec (h : Wf s) : Wf (dropRec w s) :=
  wf_keep h rfl

theorem wf_started (h : Wf s) : Wf (started w s) := by
  unfold started
  extract_lets s1
  have h2 : Wf s1 := wf_dropRec h
  split
  · exact h2
  · extract_lets s8
    have h9 : Wf s8 := wf_armWatches h2
    split
    · exact wf_askAll (wf_ite (wf_modGfx h9) h9)
    · exact h9

theorem wfR_execJobStart (h : Wf s) : WfR (execJobStart q s) := by
  unfold execJobStart
  refine wfR_next ?_
  split
  · exact h
  · split
    · exact h
    · extract_lets _ _
      split
      · exact wf_discardRec (wf_dropRec h)
      · split
        · exact wf_refuseRec (wf_dropRec h)
        · split
          · rename_i s15 e16
            have h17 : Wf s15 := wf_some e16 (by
                split
                · exact wfO_ownStart h
                · exact wfO_none)
            exact wf_started h17
          · split
            · split
              · rename_i s24 e25
                have h26 : Wf s24 := wf_some e25 (wfO_lentStart h)
                exact wf_started (wf_keep h26 rfl)
              · exact h
            · exact h

theorem wf_mapPut (h : Wf s) : Wf (mapPut x n q s) :=
  wf_modLeaf h

theorem wf_bindInternal (h : Wf s) : Wf (bindInternal e j img s) := by
  unfold bindInternal
  extract_lets _
  exact wf_foldl (fun _ _ h2 => wf_mapPut (wf_foldl (fun _ _ h3 => wf_mapPut h3) (wf_modQ h2))) h

theorem wf_bindExternal (h : Wf s) : Wf (bindExternal j img s) := by
  unfold bindExternal
  exact wf_foldl (fun _ _ h1 => wf_ite (wf_foldl (fun _ _ h2 => wf_mapPut h2) h1) h1) h

theorem wf_startThreads (h : Wf s) : Wf (startThreads e s) := by
  unfold startThreads
  split
  · exact h
  · extract_lets _ s7 s8
    have h9 : Wf s7 := by
      unfold s7
      refine wf_foldl (fun s15 x16 h14 => ?_) h
      refine wf_foldl (fun s19 x20 h18 => ?_) h14
      extract_lets _ _ _ s24 _ s26 _
      have h28 : Wf s24 := wf_modTh h18
      clear_value s24
      have h29 : Wf s26 := wf_keep h28 rfl
      split
      · exact wf_checkpoint (wf_restore (wf_modTh h29))
      · exact wf_checkpoint (wf_ite (wf_modTh h29) h29)
    have h35 : Wf s8 := wf_modJob h9
    exact wf_ite (wf_faultRec h35) h35

theorem wf_landPacket (h : Wf s) : Wf (landPacket l p s) :=
  wf_spPut h

theorem wf_landImages (h : Wf s) : Wf (landImages j img mark l s) := by
  unfold landImages
  extract_lets s1
  have h2 : Wf s1 := wf_foldl (fun _ _ h3 => wf_foldl (fun _ _ h4 => wf_landPacket h4) h3) h
  exact wf_modLeaf h2

theorem wf_leafLoaded (h : Wf s) : Wf (leafLoaded e l s) := by
  unfold leafLoaded
  split
  · exact h
  · extract_lets s6 s7
    have h8 : Wf s6 := wf_landImages h
    have h9 : Wf s7 := wf_modJob h8
    split
    · exact wf_ite (wf_startThreads h9) h9
    · exact h9

theorem wf_startRun (h : Wf s) : Wf (startRun e s) := by
  unfold startRun
  split
  · exact h
  · extract_lets _ _ s8 s9 s10 _ _ _ s14 _ s16 _ s18
    have h19 : Wf s8 := wf_writeKept (wf_segSettle h)
    clear_value s8
    have h20 : Wf s9 := wf_bindExternal (wf_bindInternal h19)
    clear_value s9
    have h21 : Wf s10 := wf_foldl (fun _ _ h22 => wf_spPut h22) h20
    clear_value s10
    have h23 : Wf s14 := wf_foldl (fun _ _ h24 => wf_modLeaf h24) h21
    clear_value s14
    have h25 : Wf s16 := wf_modJob h23
    clear_value s16
    have h26 : Wf s18 := wf_keep h25 rfl
    exact wf_ite (wf_startThreads h26) h26

theorem wf_finishBack (h : Wf s) : Wf (finishBack e s) := by
  unfold finishBack
  extract_lets s1 _ x3 _ _ s6 s7
  have h8 : Wf s1 := wf_saveKept h
  have h9 : Wf s6 := wf_segSettle (wf_segSwitch h8)
  have h10 : Wf s7 := by
    unfold s7
    clear_value x3
    split
    · exact wf_writeKept h9
    · exact h9
  exact wf_modEst h10

theorem wfR_execEstateSwitchDone (h : Wf s) : WfR (execEstateSwitchDone e s) := by
  unfold execEstateSwitchDone
  extract_lets _ _ s3
  have h4 : Wf s3 := wf_modJob h
  refine wfR_next ?_
  split
  · split
    · exact h
    · split
      · exact wf_startRun h
      · split
        · exact wf_ite (wf_startRun (wf_startRun h4)) h4
        · exact h4
  · exact wf_ite (wf_settle (wf_finishBack h)) h

theorem wf_pullEvent (h : Wf s) : Wf (pullEvent l img pulled p s) :=
  wf_event h

theorem wf_reloadEvent (h : Wf s) : Wf (reloadEvent l img attempt missed p s) :=
  wf_event h

theorem wf_pourFabric (h : Wf s) : Wf (pourFabric l s) := by
  unfold pourFabric
  split
  · exact wf_fabricHit h
  · exact h

theorem wf_pourDenied (h : Wf s) : Wf (pourDenied e x s) :=
  wf_settle (wf_abortJob (wf_refuseEvent h))

theorem wfR_execPourBroadcastEnd (h : Wf s) : WfR (execPourBroadcastEnd e missed s) := by
  unfold execPourBroadcastEnd
  extract_lets _
  refine wfR_next ?_
  split
  · exact h
  · split
    · exact h
    · split
      · exact wf_pourDenied h
      · extract_lets s14
        have h15 : Wf s14 := wf_foldl (fun _ _ h16 => wf_pourFabric h16) h
        exact wf_foldl (fun _ _ h17 => wf_ite (wf_leafLoaded h17) (wf_ite (wf_modLeaf h17) (wf_reloadEvent (wf_modLeaf h17)))) h15

theorem wf_pourFailed (h : Wf s) : Wf (pourFailed l j s) := by
  unfold pourFailed
  extract_lets _
  exact wf_ite (wf_fence h) (wf_reloadEvent (wf_modLeaf h))

theorem wfR_execPourPullDone (h : Wf s) : WfR (execPourPullDone leaf r s) := by
  unfold execPourPullDone
  extract_lets _ s2
  have h3 : Wf s2 := wf_pourFabric h
  refine wfR_next ?_
  split
  · exact h
  · split
    · exact h
    · split
      · exact wf_pourDenied h3
      · split
        · exact wf_abortOn h3
        · exact wf_pourFailed (wf_pullEvent h3)
        · exact wf_ite (wf_leafLoaded (wf_pullEvent h3)) (wf_modLeaf h3)

theorem wfR_execPourReloadDone (h : Wf s) : WfR (execPourReloadDone leaf r s) := by
  unfold execPourReloadDone
  extract_lets _ _ s3
  have h4 : Wf s3 := wf_pourFabric h
  refine wfR_next ?_
  split
  · exact h
  · split
    · exact h4
    · split
      · exact wf_pourDenied h4
      · split
        · exact wf_abortOn h4
        · exact wf_pourFailed h4
        · exact wf_leafLoaded h4

theorem wfR_execJobStalled (h : Wf s) : WfR (execJobStalled e s) := by
  unfold execJobStalled
  extract_lets _
  refine wfR_next ?_
  split
  · exact h
  · extract_lets _ _ s9
    have h10 : Wf s9 := wf_event h
    exact wf_ite h (wf_settle (wf_abortJob h10))

theorem wfR_execDurationOverrun (h : Wf s) : WfR (execDurationOverrun e s) := by
  unfold execDurationOverrun
  extract_lets _
  refine wfR_next ?_
  split
  · exact h
  · exact wf_ite h (wf_event (wf_modJob h))

theorem wfR_execLendKill (h : Wf s) : WfR (execLendKill e s) := by
  unfold execLendKill
  extract_lets _
  refine wfR_next ?_
  split
  · exact h
  · exact wf_ite h (wf_settle (wf_modEst (wf_loseKept (wf_abortJob (wf_event h)))))

/-! ### Heartbeats, segments and recovery (Machine/Recovery.lean) -/

theorem wfR_execLeafHeartbeat (h : Wf s) : WfR (execLeafHeartbeat leaf answered s) := by
  unfold execLeafHeartbeat
  extract_lets _ _ _ s4 s5
  have h6 : Wf s4 := wf_modLeaf h
  have h7 : Wf s5 := wf_event h6
  exact wfR_next (wf_ite h (wf_ite (wf_modLeaf h) (wf_ite (wf_fence h7) h7)))

theorem wfR_execSegmentCloseTimeout (h : Wf s) : WfR (execSegmentCloseTimeout leaf seg s) := by
  unfold execSegmentCloseTimeout
  extract_lets _
  exact wfR_next (wf_ite (wf_segSet h) h)

theorem wfR_execSegmentOff (h : Wf s) : WfR (execSegmentOff leaf seg s) := by
  unfold execSegmentOff
  extract_lets _
  exact wfR_next (wf_ite (wf_segEvent (wf_segWipe (wf_segSet h))) h)

theorem wfR_execSegmentZeroed (h : Wf s) : WfR (execSegmentZeroed leaf seg s) :=
  wfR_next (wf_ite (wf_segSet h) h)

theorem wfO_replayStart (h : Wf s) : WfO (replayStart s e j) := by
  unfold replayStart
  extract_lets _ _ _ _ _ _ _ s8
  have h9 : Wf s8 := wf_modEst h
  split
  · exact wfO_none
  · refine wfO_bind_any fun x12 => ?_
    extract_lets s13
    have h14 : Wf s13 := wf_segSwitch (wf_ite (wf_modGfx (wf_modEst (wf_noteKept h9))) (wf_modEst (wf_noteKept h9)))
    split
    · exact wfO_map fun _ => wf_startRun (wf_startRun (wf_segSwitch (wf_ite (wf_modGfx (wf_modEst (wf_noteKept h14)))
        (wf_modEst (wf_noteKept h14)))))
    · exact wfO_some (wf_startRun h14)

theorem wf_dropReplay (h : Wf s) : Wf (dropReplay e status reason s) := by
  unfold dropReplay
  split
  · exact h
  · extract_lets s6 s7
    have h8 : Wf s6 := wf_modEst h
    have h9 : Wf s7.1 := wf_closeRec h8
    exact wf_writeDone h9

theorem wf_endReplay (h : Wf s) : Wf (endReplay e s).1 := by
  unfold endReplay
  split
  · exact h
  · split
    · rename_i s7 e8
      have h9 : Wf s7 := wf_some e8 (wfO_replayStart h)
      exact h9
    · exact wf_pair (wf_dropReplay h)

theorem wf_nextHeld (h : Wf s) : Wf (nextHeld s) := by
  unfold nextHeld
  split
  · exact h
  · extract_lets _ s8 _ _ s11
    have h12 : Wf s8 := wf_keep h rfl
    clear_value s8
    have h13 : Wf s11 := by
      unfold s11
      split
      · exact wf_writeDone (wf_modEst h12)
      · exact h12
    clear_value s11
    exact wf_ite (wf_foldl (fun _ _ h19 => wf_modEst h19) (wf_keep h12 rfl)) (wf_beginRecovery h13)

theorem wf_endRecovery (h : Wf s) : Wf (endRecovery s) := by
  unfold endRecovery
  extract_lets _ s2 _
  have h4 : Wf s2 := wf_foldl (fun _ _ h5 => wf_modEst h5) h
  clear_value s2
  exact wf_nextHeld (wf_keep h4 rfl)

theorem wfR_execRecoveryEnd (h : Wf s) : WfR (execRecoveryEnd s) := by
  unfold execRecoveryEnd
  refine wfR_next ?_
  split
  · exact h
  · extract_lets _ _ _ s6 _ s8 s9 s10 _
    have h12 : Wf s6 := wf_foldl (fun _ _ h13 => wf_modEst h13) h
    clear_value s6
    have h14 : Wf s8.1 := by
      unfold s8
      refine wf_foldl_fst (fun s16 x17 h15 => ?_) h12
      extract_lets s18
      have h19 : Wf s18.1 := wf_endReplay h15
      exact wf_pair h19
    have h20 : Wf s9 := wf_foldl (fun _ _ h21 => wf_ite (wf_finishBack h21) h21) h14
    clear_value s9
    have h22 : Wf s10 := wf_event h20
    clear_value s10
    exact wf_settle (wf_nextHeld (wf_keep h22 rfl))

theorem wf_localEvent (h : Wf s) : Wf (localEvent p leaf trigger s) :=
  wf_event h

theorem wfR_execGoldenFrameDone (h : Wf s) : WfR (execGoldenFrameDone failed s) := by
  unfold execGoldenFrameDone
  refine wfR_next ?_
  split
  · exact h
  · split
    · exact h
    · extract_lets _ x10 _ s12 s13 s14 s15 _
      have h17 : Wf s12 := wf_keep h rfl
      clear_value s12
      have h18 : Wf s13 := wf_localEvent h17
      clear_value s13
      have h19 : Wf s14 := wf_foldl (fun _ _ h20 => wf_fenceOnly (wf_localEvent h20)) h17
      clear_value s14
      have h21 : Wf s15 := wf_faultJob h19
      clear_value s15
      clear_value x10
      split
      · exact wf_settle (wf_endRecovery (wf_abortJob h18))
      · extract_lets _ s27
        have h28 : Wf s27 := wf_keep h21 rfl
        exact wf_settle (wf_foldl (fun _ _ h29 => wf_repairEst h29) h28)

/-! ### Units of the leaf and their ends (Machine/Units.lean) -/

theorem wf_checked (h : Wf s) (h_k : Wf k.1) : Wf (checked fs' s k).1 := by
  unfold checked
  split
  · exact h
  · exact h_k

theorem wf_say (h : Wf s) : Wf (say a s).1 :=
  h

theorem wf_refusedBy (h : Wf s) (h_k : Wf k.1) : Wf (refusedBy rs s k).1 := by
  unfold refusedBy
  split
  · exact h
  · exact h_k

theorem wf_zeroDone (h : Wf s) : Wf (zeroDone a n s) := by
  unfold zeroDone
  split
  · exact h
  · extract_lets _
    exact wf_foldl (fun _ _ h7 => wf_ite (wf_segSet h7) h7) h

theorem wf_unitAccess (h : Wf s) : Wf (unitAccess i write a n data s).1 := by
  unfold unitAccess
  extract_lets s1
  have h2 : Wf s1.1 := wf_access h
  split
  · exact wf_access (wf_zeroDone h)
  · exact h2

theorem wf_busWrite (h : Wf s) : Wf (busWrite i a bs s).1 := by
  unfold busWrite
  refine wf_foldl_fst (fun s2 x3 h1 => ?_) h
  split
  · exact h1
  · extract_lets s6
    have h7 : Wf s6.1 := wf_unitAccess h1
    exact wf_pair h7

theorem wf_busRead (h : Wf s) : Wf (busRead i a n s).1 := by
  unfold busRead
  refine wf_foldl_fst (fun s2 x3 h1 => ?_) h
  split
  · exact h1
  · extract_lets s6
    have h7 : Wf s6.1 := wf_unitAccess h1
    exact wf_pair h7

theorem wf_tell (h : Wf s) : Wf (tell owner i st s) :=
  wf_modParty h

theorem wf_putRow (h_x : Wf x.1) : Wf (putRow i d base e w y px x).1 := by
  unfold putRow
  refine wf_foldl_fst (fun s2 x3 h1 => ?_) h_x
  split
  · exact h1
  · exact wf_busWrite h1

theorem wf_putImage (h : Wf s) : Wf (putImage i d base0 base1 nh keep p0 p1 s).1 := by
  unfold putImage
  extract_lets _ _
  refine wf_foldl_fst (fun s4 x5 h3 => ?_) h
  split
  · exact h3
  · extract_lets s8
    have h9 : Wf s8.1 := wf_putRow h3
    split
    · exact wf_putRow h9
    · exact h9

theorem wf_getRows (h : Wf s) : Wf (getRows i d base e w x0 n y0 nh s).1 := by
  unfold getRows
  refine wf_foldl_fst (fun s2 x3 h1 => ?_) h
  split
  · exact h1
  · extract_lets s6
    have h7 : Wf s6.1 := by
      unfold s6
      refine wf_foldl_fst (fun s9 x10 h8 => ?_) (wf_pair h1)
      split
      · exact h8
      · extract_lets s13
        have h14 : Wf s13.1 := wf_busRead h8
        exact wf_pair h14
    exact wf_pair h7

theorem wf_getImage (h : Wf s) : Wf (getImage i d x0 n y0 nh s).1 := by
  unfold getImage
  extract_lets _ _ s3 s4
  have h5 : Wf s3.1 := wf_getRows h
  have h6 : Wf s4.1 := wf_getRows h5
  split
  · exact wf_pair h5
  · exact wf_pair h6

theorem wf_freeBytes (h : Wf s) : Wf (freeBytes n s).2 :=
  wf_pair_snd (wf_keep h rfl)

theorem wf_freeNum (h : Wf s) : Wf (freeNum s).2 :=
  wf_pair_snd (wf_keep h rfl)

theorem wf_portsUp (h : Wf s) : Wf (portsUp s) :=
  wf_keep h rfl

/-! ### Capture (Machine/Capture.lean) -/

theorem wf_modStr (h : Wf s) : Wf (modStr s k f) :=
  wf_keep h rfl

theorem wf_modFrame (h : Wf s) : Wf (modFrame s k f) :=
  wf_modStr h

theorem wf_rcvCounter (h : Wf s) : Wf (rcvCounter s r).2 := by
  unfold rcvCounter
  extract_lets s1
  have h2 : Wf s1.2 := wf_freeNum h
  exact h2

theorem wf_refit (h : Wf s) : Wf (refit k f s) := by
  unfold refit
  split
  · exact h
  · exact wf_ite h (wf_modStr (wf_ite (wf_event h) h))

theorem wf_stamps (h : Wf s) : Wf (stamps s k f).2 := by
  unfold stamps
  extract_lets _ s2 s3
  have h4 : Wf s2.2 := wf_freeNum h
  have h5 : Wf s3.2 := wf_freeNum h4
  split
  · exact h
  · split
    · exact h5
    · split
      · exact h4
      · exact h

theorem wf_closeStr (h : Wf s) : Wf (closeStr k s) :=
  wf_keep h rfl

theorem wf_closeIfAsked (h : Wf s) : Wf (closeIfAsked k s) := by
  unfold closeIfAsked
  extract_lets _
  exact wf_ite h (wf_finishAll (wf_closeStr h))

theorem wf_stopStr (h : Wf s) : Wf (stopStr k st s) :=
  wf_closeIfAsked (wf_tell (wf_modStr h))

theorem wf_ispRows (h : Wf s) : Wf (ispRows i p d base0 base1 s).1 := by
  unfold ispRows
  extract_lets _
  exact wf_putImage h

theorem wf_linkError (h : Wf s) : Wf (linkError k kind errs s) :=
  wf_event h

theorem wf_pushFrame (h : Wf s) : Wf (pushFrame k f s) := by
  unfold pushFrame
  extract_lets _ _ _ _ s5 _ _ _ _ s10 s11 s12 s13
  have h14 : Wf s5.2 := wf_stamps h
  have h16 : Wf s10 := wf_ite (wf_event h14) h14
  have h17 : Wf s11 := wf_modStr h16
  have h18 : Wf s12 := wf_refit h17
  have h19 : Wf s13 := wf_ite (wf_pushEntry h18) h18
  exact wf_closeIfAsked h19

theorem wf_endFrame (h : Wf s) : Wf (endFrame k cut s) := by
  unfold endFrame
  extract_lets _ _ _
  split
  · exact h
  · split
    · exact wf_closeIfAsked (wf_modStr h)
    · split
      · exact h
      · extract_lets _ s14 _ s16 s17
        have h18 : Wf s14 := wf_ite (wf_linkError h) h
        have h19 : Wf s16.1 := by
          unfold s16
          split
          · exact h18
          · exact wf_busWrite h18
        have h22 : Wf s17.1 := by
          unfold s17
          split
          · exact wf_ispRows h19
          · exact h19
        exact wf_ite (wf_stopStr h22) (wf_ite (wf_modStr h22) (wf_pushFrame h22))

theorem wf_cutFrame (h : Wf s) : Wf (cutFrame k s) := by
  unfold cutFrame
  extract_lets s1
  have h2 : Wf s1 := wf_endFrame h
  split
  · exact h2
  · extract_lets _ s9
    have h10 : Wf s9 := wf_ite (wf_event h2) h2
    exact wf_pushFrame (wf_modStr h10)

theorem wf_dropFrame (h : Wf s) : Wf (dropFrame k num reason s) := by
  unfold dropFrame
  extract_lets s1
  have h2 : Wf s1 := by
    unfold s1
    split
    · exact wf_event h
    · exact h
  exact wf_modStr h2

theorem wf_applyTune (h : Wf s) : Wf (applyTune k num s) := by
  unfold applyTune
  split
  · exact h
  · exact wf_event (wf_modStr h)

theorem wf_startFrame (h : Wf s) : Wf (startFrame dz k stamp sensor s) := by
  unfold startFrame
  extract_lets s1 _ _ s4 s5 _
  have h7 : Wf s1 := wf_cutFrame h
  have h8 : Wf s4 := wf_applyTune (wf_modStr h7)
  have h9 : Wf s5 := wf_wakeFrom h8
  exact wf_ite h7 (wf_ite (wf_wakeFrom (wf_dropFrame h8)) (wf_ite (wf_dropFrame h9) (wf_ite (wf_dropFrame h9) (wf_modStr h9))))

theorem wf_bypassLine (h : Wf s) : Wf (bypassLine k f data s) := by
  unfold bypassLine
  extract_lets _ _ _ _ s5
  have h6 : Wf s5.1 := wf_busWrite h
  exact wf_ite (wf_modFrame h) (wf_ite (wf_stopStr h6) (wf_modFrame h6))

theorem wf_lineIn (h : Wf s) : Wf (lineIn k data crcOk s) := by
  unfold lineIn
  split
  · exact h
  · exact wf_ite h (wf_ite (wf_bypassLine (wf_ite h (wf_modFrame h))) (wf_ite (wf_modFrame (wf_ite h (wf_modFrame h)))
      (wf_modFrame (wf_ite h (wf_modFrame h)))))

theorem wf_embedded (h : Wf s) : Wf (embedded r vc data s) := by
  unfold embedded
  exact wf_ite h (wf_foldl (fun _ _ h1 => wf_ite h1 (wf_modFrame h1)) h)

theorem wfR_execCsiPacket (h : Wf s) : WfR (execCsiPacket rcv p s) := by
  unfold execCsiPacket
  extract_lets _ _ s3
  have h4 : Wf s3.2 := wf_rcvCounter h
  refine wfR_next ?_
  split
  · exact h
  · split
    · exact wf_foldl (fun _ _ h9 => wf_startFrame h9) h4
    · extract_lets s15
      have h16 : Wf s15 := wf_ite (wf_embedded h) h
      exact wf_foldl (fun _ _ h17 => wf_lineIn h17) h16
    · exact wf_foldl (fun _ _ h21 => wf_ite h21 (wf_modFrame h21)) h
    · exact wf_foldl (fun _ _ h25 => wf_ite h25 (wf_modFrame h25)) h
    · exact wf_foldl (fun _ _ h28 => wf_endFrame h28) h

theorem wfR_execMissingFrameEnd (h : Wf s) : WfR (execMissingFrameEnd stream s) := by
  unfold execMissingFrameEnd
  extract_lets _
  refine wfR_next ?_
  split
  · exact h
  · exact wf_ite h (wf_endFrame h)

theorem wfR_execCsiLaneSyncLost (h : Wf s) : WfR (execCsiLaneSyncLost stream s) := by
  unfold execCsiLaneSyncLost
  extract_lets _ s2
  have h3 : Wf s2 := wf_modFrame h
  refine wfR_next ?_
  split
  · exact h
  · exact wf_ite h (wf_ite h3 (wf_linkError h3))

theorem wf_tileDone (h : Wf s) : Wf (tileDone k s) := by
  unfold tileDone
  extract_lets s1
  have h2 : Wf s1 := wf_modFrame h
  split
  · exact wf_ite (wf_pushFrame h2) h2
  · exact h2

theorem wfR_execIspTilePush (h : Wf s) : WfR (execIspTilePush stream s) := by
  unfold execIspTilePush
  extract_lets _ _ _ _ _ _
  refine wfR_next ?_
  split
  · exact h
  · extract_lets _ _ _ s15 s16
    have h17 : Wf s15.1 := wf_busWrite h
    have h18 : Wf s16 := wf_ite h (wf_event h)
    exact wf_ite h (wf_ite (wf_ite (wf_stopStr h17) (wf_tileDone (wf_pushEntry h17))) (wf_ite h (wf_tileDone (wf_modFrame (wf_modStr h18)))))

theorem wf_ethCapture (h : Wf s) : Wf (ethCapture dz k port bytes eof sensor s).1 := by
  unfold ethCapture
  extract_lets _ s2 _ s4 _ s6 _
  have h8 : Wf s2.2 := wf_freeNum h
  have h9 : Wf s4 := wf_modStr h8
  clear_value s4
  have h10 : Wf s6 := wf_ite h (wf_startFrame (wf_keep h9 rfl))
  split
  · exact h
  · split
    · exact h10
    · extract_lets _ _ s20 s21
      have h22 : Wf s20.1 := by
        unfold s20
        split
        · exact h10
        · exact wf_busWrite h10
      have h25 : Wf s21 := wf_modFrame h22
      split
      · exact wf_pair h22
      · exact wf_pair (wf_ite (wf_endFrame h25) h25)

theorem wfR_execTimeSnapshot (h : Wf s) : WfR (execTimeSnapshot eth s) := by
  unfold execTimeSnapshot
  refine wfR_next (wf_foldl (fun t i ht => ?_) (wf_foldl (fun t r ht => ?_) h))
  · exact wf_keep ht rfl
  · extract_lets c d u old
    have hu : Wf u := wf_freeNum (wf_rcvCounter ht)
    clear_value u
    exact wf_keep hu rfl

theorem wf_rcvUp (h : Wf s) : Wf (rcvUp r s) := by
  unfold rcvUp
  exact wf_ite h (wf_keep h rfl)

theorem wf_ownCaptureOpen (h : Wf s) : Wf (ownCaptureOpen x x1 s).1 := by
  unfold ownCaptureOpen
  extract_lets _ _ _ _ _ _ _ _
  refine wf_checked h ?_
  refine wf_refusedBy h ?_
  split
  · exact wf_say h
  · split
    · exact wf_say h
    · split
      · exact wf_say h
      · exact wf_say (wf_rcvUp (wf_modStr h))

theorem wfR_execCaptureOpen (h : Wf s) : WfR (execCaptureOpen m s) :=
  wfR_next (wf_serve (fun _ _ _ h1 => wf_ownCaptureOpen h1) h)

theorem wf_ownCaptureClose (h : Wf s) : Wf (ownCaptureClose x x1 s).1 := by
  unfold ownCaptureClose
  extract_lets _
  refine wf_checked h ?_
  split
  · exact wf_say h
  · split
    · exact wf_say h
    · exact wf_pair (wf_modStr h)

theorem wfR_execCaptureClose (h : Wf s) : WfR (execCaptureClose m s) :=
  wfR_next (wf_foldl (fun _ _ h2 => wf_closeIfAsked h2) (wf_serve (fun _ _ _ h1 => wf_ownCaptureClose h1) h))

theorem wf_ownCaptureStats (h : Wf s) : Wf (ownCaptureStats x x1 s).1 := by
  unfold ownCaptureStats
  extract_lets _ _
  refine wf_checked h ?_
  split
  · exact wf_say h
  · split
    · exact wf_say h
    · exact wf_say (wf_ite (wf_modStr h) (wf_modStr h))

theorem wfR_execCaptureStats (h : Wf s) : WfR (execCaptureStats m s) :=
  wfR_next (wf_serve (fun _ _ _ h1 => wf_ownCaptureStats h1) h)

theorem wf_ownIspTune (h : Wf s) : Wf (ownIspTune x x1 s).1 := by
  unfold ownIspTune
  extract_lets _ _ _ _
  refine wf_checked h ?_
  split
  · exact wf_say h
  · split
    · exact wf_say h
    · split
      · exact wf_say h
      · split
        · exact wf_say h
        · exact wf_say (wf_modStr h)

theorem wfR_execIspTune (h : Wf s) : WfR (execIspTune m s) :=
  wfR_next (wf_serve (fun _ _ _ h1 => wf_ownIspTune h1) h)

theorem wf_closeAllStr (h : Wf s) : Wf (closeAllStr s) := by
  unfold closeAllStr
  exact wf_foldl (fun _ _ h1 => wf_finishAll (wf_closeStr h1)) h

/-! ### Ego-motion (Machine/Ego.lean) -/

theorem wf_undistort (h : Wf s) : Wf (undistort e u v s).1 := by
  unfold undistort
  split
  · extract_lets _ s10 s11 _
    have h13 : Wf s10.1 := wf_busRead h
    have h14 : Wf s11.1 := wf_busRead h13
    split
    · exact wf_pair h13
    · exact wf_pair h14
  · exact h

/-! ### The fusion engine (Machine/Fusion.lean) -/

theorem wf_modFus (h : Wf s) : Wf (modFus s f) :=
  wf_keep h rfl

theorem wf_closeBatch (h : Wf s) : Wf (closeBatch b s) := by
  unfold closeBatch
  extract_lets s1
  have h2 : Wf s1 := wf_modFus h
  exact wf_ite h2 (wf_event h2)

theorem wf_joinBatch (h : Wf s) : Wf (joinBatch r s) := by
  unfold joinBatch
  extract_lets s1 s2
  have h3 : Wf s1 := by
    unfold s1
    split
    · exact wf_ite (wf_closeBatch h) h
    · exact h
  have h10 : Wf s2 := wf_ite h (wf_modFus h3)
  split
  · exact h10
  · extract_lets _ _ s18
    have h19 : Wf s18 := wf_modFus h10
    exact wf_ite (wf_closeBatch h19) h19

theorem wfR_execFusMeasPop (h : Wf s) : WfR (execFusMeasPop s) := by
  unfold execFusMeasPop
  extract_lets _ _ s3
  have h4 : Wf s3 := wf_roomMade (wf_popEntry h)
  exact wfR_next (wf_ite h (wf_ite (wf_modFus h4) (wf_joinBatch h4)))

theorem wf_setEgo (h : Wf s) : Wf (setEgo deg cause s) := by
  unfold setEgo
  exact wf_ite h (wf_event (wf_modFus h))

theorem wf_readPoints (h : Wf s) : Wf (readPoints r s).1 := by
  unfold readPoints
  extract_lets _ _ s3
  have h4 : Wf s3.1 := wf_busRead h
  exact wf_pair h4

theorem wf_addScan (h : Wf s) : Wf (addScan time pose pts s) :=
  wf_setEgo (wf_modFus h)

theorem wf_registerScan (h : Wf s) : Wf (registerScan sensor time raw s) := by
  unfold registerScan
  extract_lets _ _ _ _ _ _ _ _ _ _
  exact wf_ite (wf_addScan h) (wf_ite (wf_setEgo h) (wf_addScan h))

theorem wf_undistortAll (h : Wf s) : Wf (undistortAll e ps s).1 := by
  unfold undistortAll
  refine wf_foldl_fst (fun s2 x3 h1 => ?_) h
  split
  · exact h1
  · extract_lets s6
    have h7 : Wf s6.1 := wf_undistort h1
    exact wf_pair h7

theorem wf_takeFlow (h : Wf s) : Wf (takeFlow r raw s).1 := by
  unfold takeFlow
  extract_lets _ s2 _
  have h4 : Wf s2.1 := wf_undistortAll h
  split
  · exact wf_pair h4
  · exact wf_pair (wf_modFus h4)

theorem wf_egoRecord (h : Wf s) : Wf (egoRecord r s).1 := by
  unfold egoRecord
  extract_lets s1
  have h2 : Wf s1.1 := wf_readPoints h
  split
  · exact wf_pair h2
  · split
    · exact wf_pair (wf_registerScan h2)
    · exact wf_takeFlow h2

theorem wfR_execEgoTimeout (h : Wf s) : WfR (execEgoTimeout s) :=
  wfR_next (wf_ite h (wf_setEgo h))

theorem wf_modTrack (h : Wf s) : Wf (modTrack s k f) :=
  wf_modFus h

theorem wf_predict (h : Wf s) : Wf (predict time s k) := by
  unfold predict
  extract_lets _
  exact wf_modTrack h

theorem wf_updateTrack (h : Wf s) : Wf (updateTrack k m s) := by
  unfold updateTrack
  extract_lets _
  exact wf_modTrack h

theorem wf_startTrack (h : Wf s) : Wf (startTrack m s).1 := by
  unfold startTrack
  extract_lets _ _ _
  split
  · exact wf_pair (wf_modFus h)
  · split
    · exact wf_pair (wf_modFus h)
    · exact wf_pair (wf_modTrack h)

theorem wf_dropTracks (h : Wf s) : Wf (dropTracks time s) := by
  unfold dropTracks
  extract_lets _
  exact wf_foldl (fun _ _ h2 => wf_ite (wf_modTrack h2) h2) h

theorem wf_seenOf (h : Wf s) : Wf (seenOf b s).1 := by
  unfold seenOf
  extract_lets _ _ _
  refine wf_foldl_fst (fun s5 x6 h4 => ?_) h
  extract_lets _ s8
  have h9 : Wf s8.1 := by
    unfold s8
    split
    · exact wf_undistort h4
    · exact wf_pair h4
  split
  · exact h4
  · exact wf_pair h9

theorem wf_trackBatch (h : Wf s) : Wf (trackBatch b ms s) := by
  unfold trackBatch
  extract_lets s1 _ _ s4 s5 s6
  have h7 : Wf s1 := wf_foldl (fun _ _ h8 => wf_predict h8) h
  have h9 : Wf s4 := by
    unfold s4
    refine wf_foldl (fun s13 x14 h12 => ?_) h7
    split
    · exact wf_updateTrack h12
    · exact h12
  have h20 : Wf s5.1 := by
    unfold s5
    refine wf_foldl_fst (fun s22 x23 h21 => ?_) h9
    split
    · exact h21
    · split
      · exact wf_pair (wf_modFus h21)
      · extract_lets s28
        have h29 : Wf s28.1 := wf_startTrack h21
        exact wf_pair h29
  have h30 : Wf s6 := wf_ite h20 (wf_event h20)
  exact wf_dropTracks h30

theorem wf_closeFus (h : Wf s) : Wf (closeFus s) :=
  wf_keep h rfl

theorem wf_fusCloseIfAsked (h : Wf s) : Wf (fusCloseIfAsked s) := by
  unfold fusCloseIfAsked
  split
  · exact h
  · exact wf_ite h (wf_finish (wf_closeFus h))

theorem wf_stopFus (h : Wf s) : Wf (stopFus st s) :=
  wf_fusCloseIfAsked (wf_tell (wf_modFus h))

theorem wf_applyBatch (h : Wf s) : Wf (applyBatch b s) := by
  unfold applyBatch
  extract_lets _ s2 _ s4 s5
  have h6 : Wf s2.1 := by
    unfold s2
    refine wf_foldl_fst (fun s8 x9 h7 => ?_) h
    split
    · exact h7
    · exact wf_egoRecord h7
  have h13 : Wf s4 := wf_ite (wf_setEgo h6) h6
  have h14 : Wf s5.1 := wf_seenOf h13
  exact wf_ite (wf_stopFus h6) (wf_ite h6 (wf_ite (wf_stopFus h14) (wf_modFus (wf_trackBatch h14))))

theorem wfR_execFusBatchProcess (h : Wf s) : WfR (execFusBatchProcess sensor s) := by
  unfold execFusBatchProcess
  refine wfR_next ?_
  split
  · exact h
  · exact wf_ite h (wf_ite (wf_event (wf_modFus (wf_modFus h))) (wf_ite (wf_modFus (wf_modFus h)) (wf_applyBatch (wf_modFus h))))

theorem wfR_execFusListPush (h : Wf s) : WfR (execFusListPush s) := by
  unfold execFusListPush
  extract_lets _ _ _ _ _ _
  refine wfR_next ?_
  split
  · exact h
  · exact wf_ite h (wf_ite (wf_stopFus (wf_busWrite h)) (wf_fusCloseIfAsked (wf_pushEntry (wf_modFus (wf_busWrite h)))))

theorem wf_ownFusOpen (h : Wf s) : Wf (ownFusOpen x x1 s).1 := by
  unfold ownFusOpen
  extract_lets _ _ _
  split
  · exact wf_say h
  · exact wf_checked h (wf_refusedBy h (wf_say (wf_modFus h)))

theorem wfR_execFusOpen (h : Wf s) : WfR (execFusOpen m s) :=
  wfR_next (wf_serve (fun _ _ _ h1 => wf_ownFusOpen h1) h)

theorem wf_ownFusClose (h : Wf s) : Wf (ownFusClose x x1 s).1 := by
  unfold ownFusClose
  split
  · exact wf_say h
  · split
    · exact wf_say (wf_closeFus h)
    · exact wf_pair (wf_modFus h)

theorem wfR_execFusClose (h : Wf s) : WfR (execFusClose m s) :=
  wfR_next (wf_serveAs (fun _ _ _ h1 => wf_ownFusClose h1) h)

theorem wf_ownFusTransformLoad (h : Wf s) : Wf (ownFusTransformLoad x x1 s).1 := by
  unfold ownFusTransformLoad
  extract_lets _ _ _ _
  refine wf_checked h ?_
  split
  · exact wf_say h
  · split
    · exact wf_say h
    · split
      · exact wf_say h
      · exact wf_say (wf_event (wf_modFus h))

theorem wfR_execFusTransformLoad (h : Wf s) : WfR (execFusTransformLoad m s) :=
  wfR_next (wf_serve (fun _ _ _ h1 => wf_ownFusTransformLoad h1) h)

theorem wf_ownFusStats (h : Wf s) : Wf (ownFusStats x x1 s).1 := by
  unfold ownFusStats
  extract_lets _ _
  refine wf_checked h ?_
  split
  · exact wf_say h
  · exact wf_say (wf_modFus h)

theorem wfR_execFusStats (h : Wf s) : WfR (execFusStats m s) :=
  wfR_next (wf_serve (fun _ _ _ h1 => wf_ownFusStats h1) h)

theorem wf_closeAllFus (h : Wf s) : Wf (closeAllFus s) := by
  unfold closeAllFus
  split
  · exact wf_finish (wf_closeFus h)
  · exact wf_closeFus h

end

end Sys2Proof.Machine

/-! Gateway, I/O hosts, bring-up and display keep the canonical form of memory. -/

namespace Sys2Proof.Machine

section
set_option autoImplicit true

/-! ### The gateway (Machine/Gateway.lean) -/

theorem wf_modCan (h : Wf s) : Wf (modCan s c f) :=
  wf_keep h rfl

theorem wf_modRule (h : Wf s) : Wf (modRule s r f) :=
  wf_keep h rfl

theorem wf_kt20 (h : Wf s) : Wf (kt20 s).2 := by
  unfold kt20
  extract_lets s1
  have h2 : Wf s1.2 := wf_freeNum h
  exact h2

theorem wf_canDrop (h : Wf s) : Wf (canDrop c s) := by
  unfold canDrop
  extract_lets _ s2
  have h3 : Wf s2 := wf_modCan h
  exact wf_ite (wf_event (wf_modCan h3)) h3

theorem wf_canFeedN (h : Wf s) : Wf (canFeedN c n s) := by
  induction n generalizing s with
  | zero =>
    rw [canFeedN]
    exact h
  | succ n ih =>
    rw [canFeedN]
    split
    · exact h
    · split
      · exact ih (wf_modCan h)
      · extract_lets _ _ s11 s12
        have h13 : Wf s11 := wf_roomMade (wf_popEntry h)
        have h14 : Wf s12.1 := wf_busRead h13
        exact wf_ite h (ih (wf_ite (wf_modCan h14) (wf_canDrop h14)))

theorem wf_canFeed (h : Wf s) : Wf (canFeed c s) :=
  wf_canFeedN h

theorem wf_canFeedQ (h : Wf s) : Wf (canFeedQ q s) := by
  unfold canFeedQ
  exact wf_foldl (fun _ _ h1 => wf_ite (wf_canFeed h1) h1) h

theorem wf_canEcho (h : Wf s) : Wf (canEcho c f err s) := by
  unfold canEcho
  extract_lets _ s2 s3
  have h4 : Wf s2.2 := wf_kt20 h
  have h5 : Wf s3.2 := wf_freeNum h4
  exact wf_ite h (wf_ite (wf_pushEntry h5) (wf_canDrop h5))

theorem wf_canState (h : Wf s) : Wf (canState c st s) := by
  unfold canState
  extract_lets s1 s2
  have h3 : Wf s1.2 := wf_freeNum h
  have h4 : Wf s2.2 := wf_freeNum h3
  exact wf_event h4

theorem wfR_execCanFrameSent (h : Wf s) : WfR (execCanFrameSent ctrl ok' s) := by
  unfold execCanFrameSent
  extract_lets _ s2 _
  have h4 : Wf s2 := wf_canFeed h
  refine wfR_next ?_
  split
  · exact h4
  · split
    · exact h4
    · extract_lets s12 s13 s14
      have h15 : Wf s12 := wf_modCan h4
      have h16 : Wf s13 := wf_canEcho h15
      have h17 : Wf s14 := wf_ite h16 (wf_canState (wf_modCan h16))
      exact wf_canFeed h17

theorem wfR_execCanBusOffRecovery (h : Wf s) : WfR (execCanBusOffRecovery ctrl s) := by
  unfold execCanBusOffRecovery
  extract_lets _
  exact wfR_next (wf_ite h (wf_canFeed (wf_canState (wf_modCan h))))

theorem wf_routeDrop (h : Wf s) : Wf (routeDrop r reason s) := by
  unfold routeDrop
  extract_lets s1 _
  have h3 : Wf s1 := wf_modRule h
  exact wf_event h3

theorem wf_toCan (h : Wf s) : Wf (toCan r dst f s) := by
  unfold toCan
  extract_lets _
  exact wf_ite (wf_modRule h) (wf_ite (wf_modCan h) (wf_modCan h))

theorem wf_toQueue (h : Wf s) : Wf (toQueue r src f s) := by
  unfold toQueue
  extract_lets _ _ _ _ s5 s6
  have h7 : Wf s5.1 := wf_busWrite h
  have h8 : Wf s6.2 := wf_kt20 h7
  exact wf_ite (wf_routeDrop h) (wf_ite (wf_modRule h7) (wf_pushEntry h8))

theorem wfR_execRouteDestTimeout (h : Wf s) : WfR (execRouteDestTimeout ctrl s) := by
  unfold execRouteDestTimeout
  extract_lets _
  refine wfR_next ?_
  split
  · exact h
  · exact wf_ite h (wf_routeDrop (wf_modCan h))

theorem wf_modPort (h : Wf s) : Wf (modPort s p f) :=
  wf_keep h rfl

theorem wf_learn (h : Wf s) : Wf (learn port f s) := by
  unfold learn
  extract_lets _ _
  exact wf_ite h (wf_keep h rfl)

theorem wf_filtered (h : Wf s) : Wf (filtered s).2 := by
  unfold filtered
  split
  · exact wf_pair_snd (wf_keep h rfl)
  · exact h

theorem wf_sendOut (h : Wf s) : Wf (sendOut ps f s) :=
  wf_keep h rfl

theorem wf_sendBatch (h : Wf s) : Wf (sendBatch r s) := by
  unfold sendBatch
  extract_lets _ s2 _ s4
  have h5 : Wf s2.2 := wf_freeNum h
  have h6 : Wf s4 := wf_modRule h5
  exact wf_ite h (wf_sendOut h6)

theorem wf_toTalker (h : Wf s) : Wf (toTalker r f s) := by
  unfold toTalker
  exact wf_ite (wf_routeDrop h) (wf_modRule (wf_ite (wf_sendBatch h) h))

theorem wf_routeTo (h : Wf s) : Wf (routeTo r src f s) := by
  unfold routeTo
  extract_lets _
  split
  · exact wf_toCan h
  · exact wf_toTalker h
  · exact wf_toQueue h
  · exact h

theorem wf_routeCan (h : Wf s) : Wf (routeCan c f s) := by
  unfold routeCan
  exact wf_foldl (fun _ _ h1 => wf_routeTo h1) h

theorem wf_toCapture (h : Wf s) : Wf (toCapture dz r port f s) := by
  unfold toCapture
  extract_lets _ _ _ _ s5
  have h6 : Wf s5.2 := wf_freeNum h
  split
  · exact wf_ite (wf_modRule (wf_ethCapture h)) (wf_ethCapture h)
  · exact wf_ite (wf_ite (wf_modRule (wf_ethCapture h)) (wf_ethCapture h)) (wf_ite (wf_modRule (wf_ethCapture (wf_modStr h6)))
      (wf_ethCapture (wf_modStr h6)))
  · exact h

theorem wf_listen (h : Wf s) : Wf (listen r seq msgs s) := by
  unfold listen
  extract_lets _ s2 s3
  have h4 : Wf s2 := by
    unfold s2
    split
    · exact wf_ite h (wf_routeDrop h)
    · exact h
  have h10 : Wf s3 := wf_modRule h4
  exact wf_foldl (fun _ _ h11 => wf_routeTo h11) h10

theorem wf_routeEth (h : Wf s) : Wf (routeEth dz gate port f s) := by
  unfold routeEth
  refine wf_foldl (fun s3 x4 h2 => ?_) h
  split
  · exact wf_toCapture h2
  · split
    · exact wf_listen h2
    · exact h2

theorem wf_ingress (h : Wf s) : Wf (ingress dz port f s) := by
  unfold ingress
  extract_lets s1 _ s3
  have h4 : Wf s1.2 := wf_filtered (wf_learn h)
  have h5 : Wf s3 := wf_sendOut h4
  exact wf_ite h4 (wf_ite (wf_routeEth h5) h5)

theorem wf_clearOut (h : Wf s) : Wf (clearOut s) :=
  wf_keep h rfl

theorem wfR_execEthFrameIngress (h : Wf s) : WfR (execEthFrameIngress port f s) := by
  unfold execEthFrameIngress
  extract_lets _ _ s3
  have h4 : Wf s3 := wf_wakeFrom (wf_clearOut h)
  exact wfR_next (wf_ite h (wf_ingress h4))

theorem wf_canReceive (h : Wf s) : Wf (canReceive c f s) := by
  unfold canReceive
  extract_lets _ s2 _ _ s5 s6 s7
  have h8 : Wf s2 := wf_wakeFrom h
  have h9 : Wf s5.1 := wf_busWrite h8
  have h10 : Wf s6.2 := wf_kt20 h9
  have h11 : Wf s7 := wf_ite h8 (wf_ite (wf_canDrop h8) (wf_ite (wf_canDrop h9) (wf_pushEntry h10)))
  exact wf_ite h (wf_ite (wf_canDrop h8) (wf_routeCan (wf_clearOut h11)))

theorem wfR_execAcfTalkerSend (h : Wf s) : WfR (execAcfTalkerSend rule s) := by
  unfold execAcfTalkerSend
  extract_lets _ _
  exact wfR_next (wf_ite h (wf_sendBatch (wf_clearOut h)))

theorem wfR_execGateListActivate (h : Wf s) : WfR (execGateListActivate port s) := by
  unfold execGateListActivate
  refine wfR_next ?_
  split
  · exact h
  · exact wf_modPort h

theorem wf_tsnEvent (h : Wf s) : Wf (tsnEvent p s) := by
  unfold tsnEvent
  extract_lets _
  exact wf_event h

theorem wfR_execTsnLinkChange (h : Wf s) : WfR (execTsnLinkChange port up speed role s) := by
  unfold execTsnLinkChange
  extract_lets _ _
  exact wfR_next (wf_ite h (wf_tsnEvent (wf_modPort h)))

theorem wf_ownCanOpen (h : Wf s) : Wf (ownCanOpen x x1 s).1 := by
  unfold ownCanOpen
  extract_lets _ _ _ _ _ _ _
  split
  · exact wf_say h
  · exact wf_checked h (wf_refusedBy h (wf_say (wf_canFeed (wf_modCan h))))

theorem wfR_execCanOpen (h : Wf s) : WfR (execCanOpen m s) :=
  wfR_next (wf_serve (fun _ _ _ h1 => wf_ownCanOpen h1) h)

theorem wf_closeCan (h : Wf s) : Wf (closeCan c s) :=
  wf_keep h rfl

theorem wf_ownCanClose (h : Wf s) : Wf (ownCanClose x x1 s).1 := by
  unfold ownCanClose
  extract_lets _
  refine wf_checked h ?_
  split
  · exact wf_say h
  · split
    · exact wf_say h
    · exact wf_say (wf_closeCan h)

theorem wfR_execCanClose (h : Wf s) : WfR (execCanClose m s) :=
  wfR_next (wf_serve (fun _ _ _ h1 => wf_ownCanClose h1) h)

theorem wf_ownRouteSet (h : Wf s) : Wf (ownRouteSet x x1 s).1 := by
  unfold ownRouteSet
  extract_lets _ _ _ x4 _
  refine wf_checked h ?_
  clear_value x4
  split
  · exact wf_say h
  · extract_lets _ s10 _
    have h12 : Wf s10 := wf_sendBatch (wf_clearOut h)
    clear_value s10
    split
    · exact wf_say h
    · split
      · exact wf_say (wf_keep h rfl)
      · split
        · exact wf_say h
        · exact wf_say (wf_keep h12 rfl)

theorem wfR_execRouteSet (h : Wf s) : WfR (execRouteSet m s) :=
  wfR_next (wf_serve (fun _ _ _ h1 => wf_ownRouteSet h1) h)

theorem wf_applySect (h : Wf s) : Wf (applySect s x) := by
  unfold applySect
  extract_lets _ _ s3 _ _ s6 _ _
  have h9 : Wf s3 := wf_keep h rfl
  clear_value s3
  have h10 : Wf s6 := wf_modPort h9
  clear_value s6
  split
  · exact wf_ite (wf_tsnEvent h10) h10
  · exact wf_keep h9 rfl
  · exact wf_keep h9 rfl
  · exact wf_modPort h9
  · exact h9

theorem wf_ownTsnSet (h : Wf s) : Wf (ownTsnSet x x1 s).1 := by
  unfold ownTsnSet
  extract_lets _ _
  refine wf_checked h ?_
  split
  · exact wf_say h
  · split
    · exact wf_say h
    · extract_lets s11 _
      have h13 : Wf s11 := wf_foldl (fun _ _ h14 => wf_applySect h14) h
      clear_value s11
      exact wf_pair (wf_keep h13 rfl)

theorem wf_tsnDone (h : Wf s) : Wf (tsnDone s) := by
  unfold tsnDone
  split
  · exact h
  · exact wf_finish (wf_keep h rfl)

theorem wfR_execTsnSet (h : Wf s) : WfR (execTsnSet m s) :=
  wfR_next (wf_tsnDone (wf_serve (fun _ _ _ h1 => wf_ownTsnSet h1) h))

/-! ### I/O hosts (Machine/IoHosts.lean) -/

theorem wf_modUnit (h : Wf s) : Wf (modUnit s u f) :=
  wf_keep h rfl

theorem wf_ioCloseIfDone (h : Wf s) : Wf (ioCloseIfDone u s) := by
  unfold ioCloseIfDone
  split
  · exact h
  · exact wf_ite (wf_finish (wf_keep h rfl)) h

theorem wf_ioDrain (h : Wf s) : Wf (ioDrain u n s) := by
  induction n generalizing s with
  | zero =>
    rw [ioDrain]
    exact h
  | succ n ih =>
    rw [ioDrain]
    split
    · exact h
    · exact wf_ite (ih (wf_pushEntry (wf_modUnit h))) h

theorem wf_ioPush (h : Wf s) : Wf (ioPush u r s) := by
  unfold ioPush
  extract_lets s1
  have h2 : Wf s1 := wf_modUnit h
  exact wf_ioDrain h2

theorem wf_ioDone (h : Wf s) : Wf (ioDone u c status detail bytes ktime s) :=
  wf_ioPush h

theorem wf_ioStop (h : Wf s) : Wf (ioStop u st c s) :=
  wf_ioDone (wf_modUnit h)

theorem wf_ioAbort (h : Wf s) : Wf (ioAbort u status f s) := by
  unfold ioAbort
  extract_lets _
  exact wf_foldl (fun _ _ h2 => wf_ioDone h2) (wf_modUnit h)

theorem wf_ioTake (h_f : ∀ y0 t, Wf t → Wf (f y0 t)) (h : Wf s) : Wf (ioTake u op room f s) := by
  unfold ioTake
  extract_lets _ _ _
  split
  · exact h
  · split
    · exact h
    · split
      · exact wf_ioDone (wf_roomMade (wf_popEntry h))
      · exact wf_ite (h_f _ _ (wf_roomMade (wf_popEntry h))) h

theorem wf_ioFly (h : Wf s) : Wf (ioFly u c s) :=
  wf_modUnit h

theorem wf_ioSend (h : Wf s) : Wf (ioSend u c s) := by
  unfold ioSend
  extract_lets s1
  have h2 : Wf s1.1 := wf_busRead h
  exact wf_ite (wf_ioStop h2) (wf_ioFly (wf_modUnit h2))

theorem wfR_execUsbPortReset (h : Wf s) : WfR (execUsbPortReset unit s) :=
  wfR_next (wf_ite (wf_ioTake (fun _ _ h1 => wf_ioFly h1) h) h)

theorem wfR_execUsbAddress (h : Wf s) : WfR (execUsbAddress unit s) :=
  wfR_next (wf_ite (wf_ioTake (fun _ _ h1 => wf_ioFly h1) h) h)

theorem wfR_execUsbEndpointSet (h : Wf s) : WfR (execUsbEndpointSet unit s) := by
  unfold execUsbEndpointSet
  extract_lets _
  exact wfR_next (wf_ite (wf_ioTake (fun _ _ h2 => wf_ite (wf_ioDone h2) (wf_ioFly h2)) h) h)

theorem wfR_execUsbTransfer (h : Wf s) : WfR (execUsbTransfer unit s) := by
  unfold execUsbTransfer
  extract_lets _
  exact wfR_next (wf_ite (wf_ioTake (fun _ _ h2 => wf_ite (wf_ioFly h2) (wf_ioSend h2)) h) h)

theorem wfR_execUsbEndpointClear (h : Wf s) : WfR (execUsbEndpointClear unit s) := by
  unfold execUsbEndpointClear
  extract_lets _
  exact wfR_next (wf_ite (wf_ioTake (fun _ _ h2 => wf_ioDone (wf_modUnit (wf_ioAbort h2))) h) h)

theorem wfR_execUsbAttach (h : Wf s) : WfR (execUsbAttach unit speed route s) :=
  wfR_next (wf_ite (wf_ioPush h) h)

theorem wfR_execUsbDetach (h : Wf s) : WfR (execUsbDetach unit route s) := by
  unfold execUsbDetach
  extract_lets _ _ _ s4 s5
  have h6 : Wf s4 := wf_ioPush h
  have h7 : Wf s5 := wf_ioAbort h6
  exact wfR_next (wf_ite (wf_modUnit h7) h)

theorem wfR_execUfsScsi (h : Wf s) : WfR (execUfsScsi unit s) :=
  wfR_next (wf_ite (wf_ioTake (fun _ _ h1 => wf_ite (wf_ioSend h1) (wf_ioFly h1)) h) h)

theorem wfR_execUfsQuery (h : Wf s) : WfR (execUfsQuery unit s) :=
  wfR_next (wf_ite (wf_ioTake (fun _ _ h1 => wf_ioSend h1) h) h)

theorem wfR_execUfsTask (h : Wf s) : WfR (execUfsTask unit s) :=
  wfR_next (wf_ite (wf_ioTake (fun _ _ h1 => wf_ioFly h1) h) h)

theorem wfR_execUfsLink (h : Wf s) : WfR (execUfsLink unit s) :=
  wfR_next (wf_ite (wf_ioTake (fun _ _ h1 => wf_ioFly h1) h) h)

theorem wfR_execUfsLinkLost (h : Wf s) : WfR (execUfsLinkLost s) :=
  wfR_next (wf_ite (wf_ioAbort (wf_modUnit (wf_ioPush h))) h)

theorem wfR_execUfsScsiTimeout (h : Wf s) : WfR (execUfsScsiTimeout tag s) := by
  unfold execUfsScsiTimeout
  refine wfR_next ?_
  split
  · exact h
  · exact wf_ite h (wf_ioDone (wf_modUnit h))

theorem wfR_execXspiRead (h : Wf s) : WfR (execXspiRead unit s) :=
  wfR_next (wf_ite (wf_ioTake (fun _ _ h1 => wf_ioFly h1) h) h)

theorem wfR_execXspiProgram (h : Wf s) : WfR (execXspiProgram unit s) :=
  wfR_next (wf_ite (wf_ioTake (fun _ _ h1 => wf_ioFly h1) h) h)

theorem wfR_execXspiErase (h : Wf s) : WfR (execXspiErase unit s) :=
  wfR_next (wf_ite (wf_ioTake (fun _ _ h1 => wf_ioFly h1) h) h)

theorem wf_flashProgram (h : Wf s) : Wf (flashProgram off bs s) :=
  wf_keep h rfl

theorem wf_ioEffect (h : Wf s) : Wf (ioEffect u c r s).1 := by
  unfold ioEffect
  extract_lets _ _ s3 s4 s5 s6 _
  have h8 : Wf s3 := wf_ite (wf_modUnit h) h
  clear_value s3
  have h9 : Wf s4.1 := by
    unfold s4
    split
    · exact wf_busWrite h
    · exact h
  have h12 : Wf s5.2 := wf_freeBytes h9
  have h13 : Wf s6.1 := wf_busRead h
  split
  · exact wf_pair (wf_ite (wf_modUnit h) h)
  · exact wf_pair (wf_ite (wf_modUnit h) h)
  · split
    · exact wf_busWrite h8
    · exact h8
  · split
    · exact wf_busWrite h12
    · exact h9
  · exact wf_busWrite h
  · exact wf_pair (wf_ite (wf_modUnit h) h)
  · split
    · exact wf_busWrite h
    · exact h
  · split
    · exact wf_pair (wf_ite (wf_flashProgram h13) h13)
    · exact h
  · exact wf_pair (wf_ite (wf_keep h rfl) h)
  · exact h

theorem wfR_execIoCompletion (h : Wf s) : WfR (execIoCompletion unit r s) := by
  unfold execIoCompletion
  extract_lets _
  refine wfR_next ?_
  split
  · exact h
  · split
    · exact h
    · extract_lets s9 s10
      have h11 : Wf s9 := wf_modUnit h
      have h12 : Wf s10.1 := wf_ioEffect h11
      exact wf_ite (wf_ioStop h12) (wf_ioDone h12)

theorem wfR_execI2sPlay (h : Wf s) : WfR (execI2sPlay unit s) :=
  wfR_next (wf_ite (wf_ioTake (fun _ _ h1 => wf_ioFly h1) h) h)

theorem wfR_execI2sRecord (h : Wf s) : WfR (execI2sRecord unit s) :=
  wfR_next (wf_ite (wf_ioTake (fun _ _ h1 => wf_ioFly h1) h) h)

theorem wfR_execI2sStop (h : Wf s) : WfR (execI2sStop unit s) := by
  unfold execI2sStop
  extract_lets _
  exact wfR_next (wf_ite (wf_ioTake (fun _ _ h2 => wf_ioDone (wf_ioAbort h2)) h) h)

theorem wf_i2sMoved (h : Wf s) : Wf (i2sMoved u x gap s) := by
  unfold i2sMoved
  extract_lets _ _
  exact wf_ite (wf_ioDone (wf_modUnit h)) (wf_modUnit h)

theorem wf_i2sOut (h : Wf s) : Wf (i2sOut u s) := by
  unfold i2sOut
  extract_lets _ _
  split
  · exact wf_modUnit h
  · extract_lets s8 s9
    have h10 : Wf s8.1 := wf_busRead h
    have h11 : Wf s9 := wf_modUnit h10
    exact wf_ite (wf_ioStop (wf_modUnit h10)) (wf_i2sMoved h11)

theorem wf_i2sIn (h : Wf s) : Wf (i2sIn u samples s) := by
  unfold i2sIn
  extract_lets _ _ _
  split
  · exact wf_modUnit h
  · extract_lets s9
    have h10 : Wf s9.1 := wf_busWrite h
    exact wf_ite (wf_ioStop (wf_modUnit h10)) (wf_i2sMoved (wf_modUnit h10))

theorem wf_i2sShort (h : Wf s) : Wf (i2sShort u s) := by
  unfold i2sShort
  extract_lets _
  exact wf_foldl (fun _ _ h2 => wf_ite (wf_ioDone (wf_modUnit h2)) h2) h

theorem wfR_execI2sFrame (h : Wf s) : WfR (execI2sFrame port samples s) := by
  unfold execI2sFrame
  extract_lets _ s2
  have h3 : Wf s2 := wf_i2sOut (wf_i2sShort h)
  exact wfR_next (wf_ite (wf_ite (wf_i2sIn h3) h3) h)

theorem wf_modVnic (h : Wf s) : Wf (modVnic s v f) :=
  wf_keep h rfl

theorem wf_vnicCloseIfDone (h : Wf s) : Wf (vnicCloseIfDone v s) := by
  unfold vnicCloseIfDone
  extract_lets _ _
  split
  · exact h
  · exact wf_ite (wf_finish (wf_keep h rfl)) h

theorem wf_vnicDrain (h : Wf s) : Wf (vnicDrain v n s) := by
  induction n generalizing s with
  | zero =>
    rw [vnicDrain]
    exact h
  | succ n ih =>
    rw [vnicDrain]
    split
    · exact h
    · exact wf_ite (ih (wf_pushEntry (wf_modVnic h))) h

theorem wfR_execVnicTransmit (h : Wf s) : WfR (execVnicTransmit v s) := by
  unfold execVnicTransmit
  extract_lets _ _ _ _ s5 _ s7 _ _ _ s11 _ s13 s14
  have h15 : Wf s5 := wf_clearOut (wf_roomMade (wf_popEntry h))
  have h16 : Wf s7.1 := wf_busRead h15
  have h17 : Wf s11 := wf_modVnic h16
  have h18 : Wf s13 := wf_modVnic h17
  have h19 : Wf s14 := wf_ite (wf_vnicDrain h18) h17
  exact wfR_next (wf_ite h (wf_ite (wf_modVnic h15) (wf_ite (wf_modVnic h16) (wf_ingress h19))))

theorem wfR_execVnicReceive (h : Wf s) : WfR (execVnicReceive v f s) := by
  unfold execVnicReceive
  extract_lets _ _ _ _ _ s6 s7 s8 s9 _
  have h11 : Wf s6 := wf_roomMade (wf_popEntry h)
  have h12 : Wf s7.1 := wf_busWrite h11
  have h13 : Wf s8.2 := wf_freeNum h12
  have h14 : Wf s9.2 := wf_freeNum h13
  exact wfR_next (wf_ite h (wf_ite (wf_modVnic h) (wf_ite (wf_modVnic h12) (wf_pushEntry (wf_modVnic h14)))))

theorem wf_unitRoom (h : Wf s) : Wf (unitRoom q s) := by
  unfold unitRoom
  extract_lets s1
  have h2 : Wf s1 := wf_foldl (fun _ _ h3 => wf_ite (wf_ioCloseIfDone (wf_ioDrain h3)) h3) h
  exact wf_foldl (fun _ _ h4 => wf_ite (wf_vnicCloseIfDone (wf_vnicDrain h4)) h4) h2

theorem wf_ownIoOpen (h : Wf s) : Wf (ownIoOpen x x1 s).1 := by
  unfold ownIoOpen
  extract_lets _ _ _ _ _
  split
  · exact wf_say h
  · exact wf_refusedBy h (wf_checked h (wf_say (wf_modUnit h)))

theorem wfR_execIoOpen (h : Wf s) : WfR (execIoOpen m s) :=
  wfR_next (wf_serve (fun _ _ _ h1 => wf_ownIoOpen h1) h)

theorem wf_ownIoClose (h : Wf s) : Wf (ownIoClose x x1 s).1 := by
  unfold ownIoClose
  extract_lets _
  refine wf_checked h ?_
  split
  · exact wf_say h
  · split
    · exact wf_say h
    · split
      · exact wf_say h
      · exact wf_pair (wf_ioAbort (wf_modUnit h))

theorem wfR_execIoClose (h : Wf s) : WfR (execIoClose m s) :=
  wfR_next (wf_foldl (fun _ _ h2 => wf_ioCloseIfDone h2) (wf_serve (fun _ _ _ h1 => wf_ownIoClose h1) h))

theorem wf_ownVnicOpen (h : Wf s) : Wf (ownVnicOpen x x1 s).1 := by
  unfold ownVnicOpen
  extract_lets _ _ _ _ x5 _
  refine wf_refusedBy h ?_
  split
  · exact wf_say h
  · refine wf_checked h ?_
    clear_value x5
    split
    · exact wf_say h
    · exact wf_say (wf_modVnic h)

theorem wfR_execVnicOpen (h : Wf s) : WfR (execVnicOpen m s) :=
  wfR_next (wf_serve (fun _ _ _ h1 => wf_ownVnicOpen h1) h)

theorem wf_ownVnicClose (h : Wf s) : Wf (ownVnicClose x x1 s).1 := by
  unfold ownVnicClose
  extract_lets _
  refine wf_checked h ?_
  split
  · exact wf_say h
  · split
    · exact wf_say h
    · split
      · exact wf_say h
      · exact wf_pair (wf_modVnic h)

theorem wfR_execVnicClose (h : Wf s) : WfR (execVnicClose m s) :=
  wfR_next (wf_foldl (fun _ _ h2 => wf_vnicCloseIfDone h2) (wf_serve (fun _ _ _ h1 => wf_ownVnicClose h1) h))

/-! ### Bring-up and resets (Machine/Boot.lean) -/

theorem wf_modBoot (h : Wf s) : Wf (modBoot s f) :=
  wf_keep h rfl

theorem wf_modPw (h : Wf s) : Wf (modPw s f) :=
  wf_keep h rfl

theorem wf_modField (h : Wf s) : Wf (modField s f) :=
  wf_keep h rfl

theorem wf_modFirm (h : Wf s) : Wf (modFirm s f) :=
  wf_keep h rfl

theorem wf_modSafe (h : Wf s) : Wf (modSafe s f) :=
  wf_keep h rfl

theorem wf_fieldLog (h : Wf s) : Wf (fieldLog code detail s) := by
  unfold fieldLog
  extract_lets s1 _ _
  have h4 : Wf s1.2 := wf_draw h
  exact wf_modField h4

theorem wf_copyLog (h : Wf s) : Wf (copyLog slot s) := by
  unfold copyLog
  extract_lets _
  exact wf_event h

theorem wf_copyLogs (h : Wf s) : Wf (copyLogs s) := by
  unfold copyLogs
  extract_lets _
  exact wf_modField (wf_foldl (fun _ _ h2 => wf_copyLog h2) h)

theorem wf_liftFreeze (h : Wf s) : Wf (liftFreeze s) :=
  wf_keep h rfl

theorem wf_caddyRestart (h : Wf s) : Wf (caddyRestart s) := by
  unfold caddyRestart
  extract_lets _ _
  exact wf_keep h rfl

theorem wf_dramLost (h : Wf s) : Wf (dramLost keep s) := by
  unfold dramLost
  extract_lets _ _
  exact wf_ite (wf_sift h rfl) rfl

theorem wf_setUcode (h : Wf s) : Wf (setUcode s) := by
  unfold setUcode
  exact wf_foldl (fun _ _ h1 => wf_modLeaf h1) h

theorem wf_coreLost (h : Wf s) : Wf (coreLost s) := by
  unfold coreLost
  extract_lets _ _ _
  exact wf_keep h rfl

theorem wf_coreOff (h : Wf s) : Wf (coreOff phase s) := by
  unfold coreOff
  extract_lets s1 s2 _
  have h4 : Wf s1 := wf_coreLost (wf_dramLost h)
  clear_value s1
  have h5 : Wf s2 := wf_modPw h4
  clear_value s2
  exact wf_modBoot (wf_keep h5 rfl)

theorem wf_injectStep (h : Wf s) : Wf (injectStep s k) := by
  unfold injectStep
  extract_lets _ s2 s3 _ s5
  have h6 : Wf s2.2 := wf_draw h
  have h7 : Wf s3 := wf_ite h h6
  have h8 : Wf s5 := wf_event h7
  exact wf_modSafe h8

theorem wf_inject (h : Wf s) : Wf (inject ks s) := by
  unfold inject
  extract_lets s1
  have h2 : Wf s1 := wf_foldl (fun _ _ h3 => wf_injectStep h3) h
  exact wf_ite h2 (wf_assertFaultN (wf_foldl (fun _ _ h4 => wf_dissolve h4) h2))

theorem wf_releaseFaults (h : Wf s) : Wf (releaseFaults bits s) := by
  unfold releaseFaults
  exact wf_ite (wf_modSafe h) h

theorem wf_bootHeld (h : Wf s) : Wf (bootHeld stage kind place s) := by
  unfold bootHeld
  extract_lets s1 s2
  have h3 : Wf s1.2 := wf_draw h
  have h4 : Wf s2 := wf_event h3
  exact wf_assertFaultN (wf_modBoot h4)

theorem wf_bootAfzan (h : Wf s) : Wf (bootAfzan s) := by
  unfold bootAfzan
  extract_lets _ s2
  have h3 : Wf s2 := wf_ite h (wf_event (wf_modFirm h))
  exact wf_ite h3 (wf_ite (wf_modFirm h3) (wf_bootHeld h3))

theorem wf_bootConfig (h : Wf s) : Wf (bootConfig s) := by
  unfold bootConfig
  extract_lets _ _
  exact wf_keep h rfl

theorem wf_bootDebug (h : Wf s) : Wf (bootDebug s) := by
  unfold bootDebug
  split
  · exact wf_modFirm h
  · exact wf_event (wf_modFirm h)

theorem wf_verifyOwner (h : Wf s) : Wf (verifyOwner s) := by
  unfold verifyOwner
  extract_lets s1 s2 _ _
  have h5 : Wf s1.2 := wf_freeNum h
  have h6 : Wf s2.2 := wf_freeNum h5
  exact wf_modFirm h6

theorem wf_measure (h : Wf s) : Wf (measure s) := by
  unfold measure
  extract_lets s1 s2 s3
  have h4 : Wf s1.2 := wf_freeBytes h
  have h5 : Wf s2.2 := wf_freeBytes h4
  have h6 : Wf s3.2 := wf_freeBytes h5
  exact wf_verifyOwner (wf_modFirm h6)

theorem wf_verify (h : Wf s) : Wf (verify s).1 := by
  unfold verify
  extract_lets s1 s2 s3
  have h4 : Wf s1 := wf_bootAfzan h
  have h5 : Wf s2 := wf_measure (wf_bootDebug (wf_bootConfig h4))
  have h6 : Wf s3.2 := wf_draw h5
  split
  · exact h4
  · split
    · exact wf_pair (wf_bootHeld h4)
    · split
      · exact wf_pair (wf_modFirm h5)
      · exact wf_pair (wf_event h6)

theorem wf_service (h : Wf s) : Wf (service s) := by
  unfold service
  extract_lets s1 s2
  have h3 : Wf s1.2 := wf_draw h
  have h4 : Wf s2 := wf_modBoot h3
  exact wf_flushNow (wf_event h4)

theorem wf_releaseHarts (h : Wf s) : Wf (releaseHarts g cause s) := by
  unfold releaseHarts
  extract_lets _ _ s3
  have h4 : Wf s3 := wf_keep h rfl
  exact wf_foldl (fun _ _ h5 => wf_ite h5 (wf_modPw h5)) h4

theorem wf_repairEvent (h : Wf s) : Wf (repairEvent l res runs s) :=
  wf_event h

theorem wf_repairTest (h : Wf s) : Wf (repairTest s l) := by
  unfold repairTest
  extract_lets _ _ s3
  have h4 : Wf s3 := wf_repairEvent (wf_setKind h)
  exact wf_ite h (wf_ite (wf_modBoot h4) (wf_ite (wf_repairEvent (wf_setKind h)) (wf_repairEvent h)))

theorem wf_repairReplace (h : Wf s) : Wf (repairReplace s l) := by
  unfold repairReplace
  split
  · exact wf_repairEvent (wf_setKind h)
  · exact h

theorem wf_leafRepair (h : Wf s) : Wf (leafRepair s) := by
  unfold leafRepair
  extract_lets s1 s2 _ s4 s5 s6
  have h7 : Wf s1 := wf_modBoot h
  clear_value s1
  have h8 : Wf s2 := wf_keep h7 rfl
  have h9 : Wf s4 := wf_foldl (fun _ _ h10 => wf_repairTest h10) h8
  have h11 : Wf s5 := wf_foldl (fun _ _ h12 => wf_repairReplace h12) h9
  have h13 : Wf s6 := wf_ite (wf_foldl (fun _ _ h14 => wf_repairEvent (wf_setKind h14)) h11) h11
  exact wf_setUcode h13

theorem wf_bringupEvent (h : Wf s) : Wf (bringupEvent kind s) :=
  wf_event (wf_keep h rfl)

theorem wf_finishBoot (h : Wf s) : Wf (finishBoot causes s) := by
  unfold finishBoot
  exact wf_ite (wf_bootHeld h) (wf_keep (wf_draw (wf_releaseHarts (wf_releaseFaults (wf_inject h)))) rfl)

theorem wf_coreStart (h : Wf s) : Wf (coreStart s) := by
  unfold coreStart
  extract_lets _ s2 _ s4 s5 s6
  have h7 : Wf s2 := wf_modBoot h
  have h8 : Wf s4 := wf_ite h7 (wf_caddyRestart h7)
  have h9 : Wf s5 := wf_copyLogs (wf_portsUp (wf_bringupEvent h8))
  have h10 : Wf s6.1 := wf_verify h9
  exact wf_ite h10 (wf_ite h10 (wf_service h10))

theorem wf_resetEvent (h : Wf s) : Wf (resetEvent scope req refused s) :=
  wf_event h

theorem wf_keptZero (h : Wf s) : Wf (keptZero e s) :=
  wf_modEst h

theorem wf_estateReset (h : Wf s) : Wf (estateReset e req s) := by
  unfold estateReset
  extract_lets s1 s2 s3
  have h4 : Wf s1 := wf_ite h (wf_dropReplay (wf_abortJob h))
  have h5 : Wf s2 := wf_keptZero h4
  have h6 : Wf s3 := wf_foldl (fun _ _ h7 => wf_ite h7 (wf_leafWipe h7)) h5
  exact wf_settle (wf_resetEvent (wf_liftFreeze h6))

theorem wf_computeBegin (h : Wf s) : Wf (computeBegin req s) := by
  unfold computeBegin
  extract_lets s1
  have h2 : Wf s1 := wf_foldl (fun _ _ h3 => wf_haltEst h3) h
  exact wf_modBoot (wf_cleanLines h2)

theorem wf_computeClear (h : Wf s) : Wf (computeClear s) := by
  unfold computeClear
  extract_lets s1 _ _
  have h4 : Wf s1 := wf_foldl (fun _ _ h5 => wf_ite h5 (wf_segsOff h5)) h
  clear_value s1
  exact wf_sift h4 rfl

theorem wf_computeEst (h : Wf s) : Wf (computeEst s e) := by
  unfold computeEst
  extract_lets s1 s2 s3
  have h4 : Wf s1 := wf_modEst h
  have h5 : Wf s2 := wf_dropReplay (wf_abortJob h4)
  have h6 : Wf s3 := by
    unfold s3
    split
    · exact wf_writeDone (wf_modEst h5)
    · exact h5
  exact wf_repairEst (wf_keptZero h6)

theorem wf_levelReset (h : Wf s) : Wf (levelReset s) := by
  unfold levelReset
  exact wf_ite (wf_modSafe h) h

theorem wf_computeEnd (h : Wf s) : Wf (computeEnd s) := by
  unfold computeEnd
  split
  · exact h
  · extract_lets _ s7 s8 s9
    have h10 : Wf s7 := wf_computeClear (wf_modBoot h)
    have h11 : Wf s8 := wf_foldl (fun _ _ h12 => wf_computeEst h12) h10
    have h13 : Wf s9 := wf_levelReset (wf_modSafe (wf_releaseFaults (wf_inject h11)))
    exact wf_settle (wf_resetEvent (wf_liftFreeze h13))

theorem wf_idle (h : Wf s) : Wf (idle s) := by
  unfold idle
  extract_lets s1
  have h2 : Wf s1 := wf_tick h
  clear_value s1
  exact wf_ite h2 (wf_ite (wf_computeEnd (wf_keep h2 rfl)) (wf_keep h2 rfl))

theorem wf_warmReset (h : Wf s) : Wf (warmReset req s) := by
  unfold warmReset
  extract_lets s1 s2 _ _ s5 s6 s7 s8
  have h9 : Wf s1 := wf_resetEvent (wf_liftFreeze h)
  clear_value s1
  have h10 : Wf s2 := wf_coreLost (wf_dramLost h9)
  clear_value s2
  have h11 : Wf s5 := wf_keep h10 rfl
  have h12 : Wf s6 := wf_bringupEvent h11
  have h13 : Wf s7.1 := wf_verify h12
  have h14 : Wf s8 := wf_copyLogs h13
  exact wf_ite (wf_finishBoot (wf_setUcode h14)) (wf_ite h14 (wf_service h14))

theorem wf_coldReset (h : Wf s) : Wf (coldReset req s) := by
  unfold coldReset
  extract_lets s1 s2 s3
  have h4 : Wf s1 := wf_resetEvent (wf_liftFreeze h)
  clear_value s1
  have h5 : Wf s2 := wf_coreLost (wf_dramLost h4)
  clear_value s2
  have h6 : Wf s3 := wf_modPw h5
  clear_value s3
  exact wf_modBoot (wf_keep h6 rfl)

theorem wf_ownReset (h : Wf s) : Wf (ownReset x x1 s).1 := by
  unfold ownReset
  extract_lets _ _
  refine wf_checked h ?_
  split
  · exact wf_pair (wf_modBoot (wf_estateReset h))
  · exact wf_say (wf_modBoot h)

theorem wf_resetDone (h : Wf s) : Wf (resetDone s) := by
  unfold resetDone
  split
  · exact wf_finish (wf_modBoot h)
  · exact h

theorem wfR_execReset (h : Wf s) : WfR (execReset m s) :=
  wfR_next (wf_resetDone (wf_serve (fun _ _ _ h1 => wf_ownReset h1) h))

theorem wf_resetScope (h : Wf s) : Wf (resetScope scope req s) := by
  unfold resetScope
  exact wf_ite (wf_computeBegin h) (wf_ite (wf_warmReset h) (wf_coldReset h))

theorem wfR_execResetBegin (h : Wf s) : WfR (execResetBegin s) := by
  unfold execResetBegin
  refine wfR_next ?_
  split
  · exact h
  · exact wf_ite h (wf_resetScope (wf_modBoot h))

theorem wfR_execResetNPin (h : Wf s) : WfR (execResetNPin lowUs s) :=
  wfR_next (wf_ite h (wf_ite (wf_warmReset h) (wf_coldReset h)))

theorem wf_fieldOn (h : Wf s) : Wf (fieldOn s) := by
  unfold fieldOn
  extract_lets _
  exact wf_keep h rfl

theorem wfR_execBringup (h : Wf s) : WfR (execBringup r s) :=
  wfR_next (wf_ite h (wf_modBoot (wf_modField (wf_ite (wf_ite (wf_fieldOn h) h) (wf_modField (wf_draw (wf_ite (wf_fieldOn h) h)))))))

theorem wfR_execPgoodSample (h : Wf s) : WfR (execPgoodSample good s) :=
  wfR_next (wf_ite h (wf_ite (wf_coreStart (wf_modPw h)) (wf_modBoot h)))

theorem wfR_execPowerUpRetry (h : Wf s) : WfR (execPowerUpRetry s) :=
  wfR_next (wf_ite (wf_modBoot h) h)

theorem wfR_execPgoodFall (h : Wf s) : WfR (execPgoodFall s) :=
  wfR_next (wf_ite h (wf_fieldLog (wf_coreOff h)))

theorem wf_trainEvent (h : Wf s) : Wf (trainEvent unit okT attempts s) :=
  wf_event h

theorem wf_crossEvent (h : Wf s) : Wf (crossEvent port cause s) := by
  unfold crossEvent
  extract_lets _
  exact wf_event h

theorem wf_crossUp (h : Wf s) : Wf (crossUp port cause s) := by
  unfold crossUp
  extract_lets s1 s2 _ _ _ _
  have h7 : Wf s1.2 := wf_freeNum h
  have h8 : Wf s2.2 := wf_freeNum h7
  exact wf_crossEvent (wf_keep h8 rfl)

theorem wf_linkIsUp (h : Wf s) : Wf (linkIsUp unit s) := by
  unfold linkIsUp
  extract_lets s1 _ s3
  have h4 : Wf s1 := wf_modBoot h
  clear_value s1
  have h5 : Wf s3 := wf_keep h4 rfl
  clear_value s3
  exact wf_ite (wf_modField h5) (wf_ite (wf_crossUp h4) (wf_ite (wf_keep h4 rfl) h4))

theorem wfR_execTraining (h : Wf s) : WfR (execTraining unit ok' s) := by
  unfold execTraining
  extract_lets _ _ s3 s4 s5
  have h6 : Wf s3 := wf_trainEvent (wf_modBoot h)
  have h7 : Wf s4 := wf_modBoot h6
  have h8 : Wf s5 := wf_trainEvent (wf_modBoot h)
  exact wfR_next (wf_ite h (wf_ite (wf_ite h (wf_ite (wf_ite (wf_modBoot (wf_leafRepair h7)) h7) (wf_ite (wf_service h6) h6)))
      (wf_ite (wf_linkIsUp h8) h8)))

theorem wfR_execDramTestRound (h : Wf s) : WfR (execDramTestRound oneBit rows bad s) := by
  unfold execDramTestRound
  extract_lets _ _ s3 s4 s5
  have h6 : Wf s3 := wf_foldl (fun _ _ h7 => wf_event h7) h
  have h8 : Wf s4 := wf_foldl (fun _ _ h9 => wf_ite h9 (wf_event h9)) h6
  have h10 : Wf s5 := wf_dramLost (wf_modBoot h8)
  exact wfR_next (wf_ite h (wf_ite (wf_modBoot h6) (wf_ite (wf_finishBoot h10) (wf_service h10))))

theorem wfR_execCaddyBackgroundFlush (h : Wf s) : WfR (execCaddyBackgroundFlush s) := by
  unfold execCaddyBackgroundFlush
  extract_lets _
  exact wfR_next (wf_ite h (wf_ite (wf_flushCaddy h) h))

theorem wf_caddyRead (h : Wf s) : Wf (caddyRead s) :=
  wf_keep h rfl

theorem wfR_execCaddyMark (h : Wf s) : WfR (execCaddyMark m s) :=
  wfR_next (wf_serve (fun _ _ _ h1 => wf_say (wf_caddyRead (wf_event h1))) h)

theorem wfR_execCaddyFlush (h : Wf s) : WfR (execCaddyFlush m s) :=
  wfR_next (wf_serve (fun _ _ _ h1 => wf_pair (wf_flushNow (wf_keep h1 rfl))) h)

/-! ### Control (Machine/Control.lean) -/

theorem wfR_execBr (h : Wf s) : WfR (execBr w p sense off s) := by
  unfold execBr
  refine wfR_next ?_
  refine wf_issue (fun x5 x6 h7 => ?_) h
  split
  · exact wfC_ok (wf_jumpTo h7)
  · exact wfC_ok (wf_adv h7)

theorem wfR_execJal (h : Wf s) : WfR (execJal w rd imm s) :=
  wfR_next (wf_issue (fun _ _ h1 => wfC_ok (wf_jumpTo (wf_setReg h1))) h)

theorem wfR_execJr (h : Wf s) : WfR (execJr w rd rs1 s) :=
  wfR_next (wf_issue (fun _ _ h1 => wfC_map_any fun _ => wf_jumpTo (wf_setReg h1)) h)

/-! ### Scan-out (Machine/Scanout.lean) -/

theorem wf_fetchLayer (h : Wf s) : Wf (fetchLayer p owner e s).1 := by
  unfold fetchLayer
  extract_lets _ s2 s3 s4
  have h5 : Wf s2.1 := wf_getImage h
  have h6 : Wf s3.1 := by
    unfold s3
    split
    · exact h
    · exact wf_pair h5
  have h9 : Wf s4.1 := wf_getImage h6
  split
  · exact wf_pair h6
  · exact wf_pair h9

theorem wf_fetchLayers (h : Wf s) : Wf (fetchLayers p owner es s).1 := by
  unfold fetchLayers
  refine wf_foldl_fst (fun s2 x3 h1 => ?_) h
  split
  · exact h1
  · extract_lets s6
    have h7 : Wf s6.1 := wf_fetchLayer h1
    exact wf_pair h7

/-! ### Display, codec and their messages (Machine/Display.lean) -/

theorem wf_modPipe (h : Wf s) : Wf (modPipe s p f) :=
  wf_keep h rfl

theorem wf_pipeStart (h : Wf s) : Wf (pipeStart p lanes' rate s) :=
  wf_modPipe h

theorem wf_underEvent (h : Wf s) : Wf (underEvent p s) := by
  unfold underEvent
  extract_lets _
  exact wf_ite h (wf_event (wf_modPipe h))

theorem wf_dropTraining (h : Wf s) : Wf (dropTraining p s) := by
  unfold dropTraining
  split
  · exact h
  · exact wf_finish (wf_modPipe h)

theorem wf_ownPipeSet (h : Wf s) : Wf (ownPipeSet x x1 s).1 := by
  unfold ownPipeSet
  extract_lets _ _ _ s4
  have h5 : Wf s4 := wf_modPipe h
  refine wf_checked h ?_
  refine wf_refusedBy h ?_
  refine wf_checked h ?_
  refine wf_refusedBy h ?_
  split
  · exact wf_say (wf_pipeStart h5)
  · exact wf_pair (wf_modPipe h5)

theorem wfR_execPipeSet (h : Wf s) : WfR (execPipeSet m s) :=
  wfR_next (wf_serve (fun _ _ _ h1 => wf_ownPipeSet h1) h)

theorem wfR_execLinkTrainingResult (h : Wf s) : WfR (execLinkTrainingResult pipe hpd lanes' rate s) := by
  unfold execLinkTrainingResult
  extract_lets _ _ s3 _
  have h5 : Wf s3 := wf_modPipe h
  refine wfR_next ?_
  split
  · exact h
  · exact wf_ite (wf_finish h5) (wf_ite (wf_finish (wf_pipeStart h5)) (wf_finish (wf_event h5)))

theorem wf_linkEvent (h : Wf s) : Wf (linkEvent p st cause s) :=
  wf_event h

theorem wfR_execDisplayLinkLoss (h : Wf s) : WfR (execDisplayLinkLoss pipe training s) := by
  unfold execDisplayLinkLoss
  extract_lets _ _
  exact wfR_next (wf_ite h (wf_linkEvent (wf_modPipe h)))

theorem wfR_execDisplayRetrain (h : Wf s) : WfR (execDisplayRetrain pipe ok' s) := by
  unfold execDisplayRetrain
  extract_lets _ _ s3
  have h4 : Wf s3 := wf_modPipe h
  exact wfR_next (wf_ite h (wf_ite (wf_linkEvent h4) h4))

theorem wfR_execScanoutUnderflow (h : Wf s) : WfR (execScanoutUnderflow pipe s) := by
  unfold execScanoutUnderflow
  extract_lets _ s2 s3
  have h4 : Wf s2.2 := wf_freeNum h
  have h5 : Wf s3.2 := wf_freeNum h4
  exact wfR_next (wf_ite h (wf_modPipe h5))

theorem wf_pipeStopped (h : Wf s) : Wf (pipeStopped p st s) := by
  unfold pipeStopped
  extract_lets s1
  have h2 : Wf s1 := wf_underEvent h
  exact wf_tell (wf_modPipe h2)

theorem wf_fenceMet (h : Wf s) : Wf (fenceMet p r s).1 := by
  unfold fenceMet
  extract_lets _ s2
  have h3 : Wf s2.1 := wf_busRead h
  split
  · exact h
  · split
    · exact wf_pair (wf_pipeStopped h3)
    · exact wf_pair h3

theorem wf_refuseFlip (h : Wf s) : Wf (refuseFlip p r s) :=
  wf_modPipe h

theorem wf_applyFlip (h : Wf s) : Wf (applyFlip p r l s).1 := by
  unfold applyFlip
  extract_lets s1 _
  have h3 : Wf s1.1 := wf_busRead h
  split
  · exact wf_pair (wf_pipeStopped h3)
  · split
    · exact wf_pair (wf_refuseFlip h3)
    · exact wf_pair (wf_modPipe h3)

theorem wf_takeFlips (h : Wf s) : Wf (takeFlips p q n s x).1 := by
  induction n generalizing s x with
  | zero =>
    rw [takeFlips]
    exact h
  | succ n ih =>
    rw [takeFlips]
    split
    · exact h
    · extract_lets _ s4 s5
      have h6 : Wf s4.1 := wf_fenceMet h
      have h7 : Wf s5.1 := wf_applyFlip (wf_popEntry h6)
      split
      · exact h
      · split
        · exact ih (wf_refuseFlip (wf_popEntry h))
        · split
          · exact wf_pair h6
          · exact wf_pair h6
          · exact ih h7

theorem wf_pushStatus (h : Wf s) : Wf (pushStatus p l s) := by
  unfold pushStatus
  extract_lets _ _
  exact wf_ite h (wf_ite (wf_pushEntry h) (wf_modPipe h))

theorem wf_showFrame (h : Wf s) : Wf (showFrame p s) := by
  unfold showFrame
  extract_lets _ _ s3
  have h4 : Wf s3.1 := wf_fetchLayers h
  exact wf_ite (wf_modPipe h) (wf_ite (wf_modPipe h) (wf_ite (wf_pipeStopped h4) (wf_modPipe h4)))

theorem wf_nextFrame (h : Wf s) : Wf (nextFrame p s) :=
  wf_modPipe h

theorem wf_latchFlips (h : Wf s) : Wf (latchFlips p s).1 := by
  unfold latchFlips
  extract_lets _ s2
  have h3 : Wf s2.1 := by
    unfold s2
    split
    · exact h
    · exact wf_takeFlips h
  split
  · exact wf_pair (wf_event (wf_modPipe h3))
  · exact h3

theorem wfR_execVblankLatch (h : Wf s) : WfR (execVblankLatch pipe s) := by
  unfold execVblankLatch
  extract_lets _ _ s3 s4 s5
  have h6 : Wf s3 := wf_underEvent h
  have h7 : Wf s4 := wf_nextFrame h6
  have h8 : Wf s5.1 := wf_latchFlips h7
  exact wfR_next (wf_ite h (wf_ite (wf_modPipe h6) (wf_ite (wf_showFrame h7) (wf_ite h8 (wf_showFrame (wf_pushStatus h8))))))

theorem wf_pipeIdle (h : Wf s) : Wf (pipeIdle p flags s) := by
  unfold pipeIdle
  extract_lets s1
  have h2 : Wf s1 := wf_underEvent h
  exact wf_ite (wf_modPipe (wf_dropTraining h2)) (wf_modPipe h2)

theorem wf_ownPipeStop (h : Wf s) : Wf (ownPipeStop x x1 s).1 := by
  unfold ownPipeStop
  extract_lets _ _ _ s4
  have h5 : Wf s4 := wf_modPipe h
  refine wf_checked h ?_
  refine wf_refusedBy h ?_
  split
  · exact wf_say (wf_ite (wf_pipeIdle h) h)
  · exact wf_pair (wf_ite (wf_modPipe (wf_underEvent h5)) h5)

theorem wfR_execPipeStop (h : Wf s) : WfR (execPipeStop m s) :=
  wfR_next (wf_serve (fun _ _ _ h1 => wf_ownPipeStop h1) h)

theorem wfR_execPipeLinkIdle (h : Wf s) : WfR (execPipeLinkIdle pipe s) := by
  unfold execPipeLinkIdle
  extract_lets _ _
  refine wfR_next ?_
  split
  · exact h
  · exact wf_ite h (wf_finish (wf_pipeIdle h))

theorem wf_ownPipeQueues (h : Wf s) : Wf (ownPipeQueues x x1 s).1 := by
  unfold ownPipeQueues
  extract_lets _ _ _ _ _ _
  exact wf_checked h (wf_refusedBy h (wf_checked h (wf_refusedBy h (wf_say (wf_modPipe h)))))

theorem wfR_execPipeQueues (h : Wf s) : WfR (execPipeQueues m s) :=
  wfR_next (wf_serve (fun _ _ _ h1 => wf_ownPipeQueues h1) h)

theorem wf_ownDspStats (h : Wf s) : Wf (ownDspStats x x1 s).1 := by
  unfold ownDspStats
  extract_lets _ _
  exact wf_checked h (wf_refusedBy h (wf_say (wf_modPipe h)))

theorem wfR_execDspStats (h : Wf s) : WfR (execDspStats m s) :=
  wfR_next (wf_serve (fun _ _ _ h1 => wf_ownDspStats h1) h)

theorem wf_ownGfxQueueSet (h : Wf s) : Wf (ownGfxQueueSet x x1 s).1 := by
  unfold ownGfxQueueSet
  extract_lets _ _ _ _ s5 _
  have h7 : Wf s5 := wf_modQ h
  clear_value s5
  exact wf_refusedBy h (wf_checked h (wf_say (wf_keep h7 rfl)))

theorem wfR_execGfxQueueSet (h : Wf s) : WfR (execGfxQueueSet m s) :=
  wfR_next (wf_serve (fun _ _ _ h1 => wf_ownGfxQueueSet h1) h)

theorem wf_ownGfxBinGrow (h : Wf s) : Wf (ownGfxBinGrow x x1 s).1 := by
  unfold ownGfxBinGrow
  extract_lets _ _ _ _ _
  exact wf_checked h (wf_refusedBy h (wf_say (wf_keep h rfl)))

theorem wfR_execGfxBinGrow (h : Wf s) : WfR (execGfxBinGrow m s) :=
  wfR_next (wf_serve (fun _ _ _ h1 => wf_ownGfxBinGrow h1) h)

theorem wf_modSes (h : Wf s) : Wf (modSes s k f) :=
  wf_keep h rfl

theorem wf_ownCodecOpen (h : Wf s) : Wf (ownCodecOpen x x1 s).1 := by
  unfold ownCodecOpen
  extract_lets _ _ _ _
  refine wf_checked h ?_
  refine wf_refusedBy h ?_
  split
  · exact wf_say h
  · split
    · exact wf_say h
    · split
      · exact wf_say h
      · exact wf_say (wf_modSes h)

theorem wfR_execCodecOpen (h : Wf s) : WfR (execCodecOpen m s) :=
  wfR_next (wf_serve (fun _ _ _ h1 => wf_ownCodecOpen h1) h)

theorem wf_closeSes (h : Wf s) : Wf (closeSes k s) :=
  wf_keep h rfl

theorem wf_closeSesIfDone (h : Wf s) : Wf (closeSesIfDone k s) := by
  unfold closeSesIfDone
  extract_lets _ _
  split
  · exact h
  · exact wf_ite h (wf_ite (wf_finish (wf_closeSes h)) (wf_ite h (wf_finish (wf_closeSes (wf_pushEntry h)))))

theorem wf_ownCodecClose (h : Wf s) : Wf (ownCodecClose x x1 s).1 := by
  unfold ownCodecClose
  extract_lets _ _ _
  exact wf_checked h (wf_refusedBy h (wf_pair (wf_modSes h)))

theorem wfR_execCodecClose (h : Wf s) : WfR (execCodecClose m s) :=
  wfR_next (wf_closeSesIfDone (wf_serve (fun _ _ _ h1 => wf_ownCodecClose h1) h))

theorem wf_decodeError (h : Wf s) : Wf (decodeError k kind pts s) :=
  wf_event h

theorem wf_haltSes (h : Wf s) : Wf (haltSes k st s) :=
  wf_closeSesIfDone (wf_modSes h)

theorem wf_stopSes (h : Wf s) : Wf (stopSes k st s) :=
  wf_haltSes (wf_tell h)

theorem wf_pushTiles (h : Wf s) : Wf (pushTiles k n s) := by
  induction n generalizing s with
  | zero =>
    rw [pushTiles]
    exact h
  | succ n ih =>
    rw [pushTiles]
    exact wf_ite h (wf_ite (wf_stopSes (wf_busWrite h)) (ih (wf_pushEntry (wf_modSes (wf_busWrite h)))))

theorem wf_refusePic (h : Wf s) : Wf (refusePic k r s) :=
  wf_modSes h

theorem wf_dropBad (h : Wf s) : Wf (dropBad k q c n s) := by
  induction n generalizing s with
  | zero =>
    rw [dropBad]
    exact h
  | succ n ih =>
    rw [dropBad]
    exact wf_ite h (ih (wf_popEntry (wf_refusePic h)))

theorem wf_takePics (h : Wf s) : Wf (takePics k n s) := by
  induction n generalizing s with
  | zero =>
    rw [takePics]
    exact h
  | succ n ih =>
    rw [takePics]
    exact wf_ite (wf_dropBad h) (ih (wf_modSes (wf_popEntry (wf_dropBad h))))

theorem wf_takePieces (h : Wf s) : Wf (takePieces k n s) := by
  induction n generalizing s with
  | zero =>
    rw [takePieces]
    exact h
  | succ n ih =>
    rw [takePieces]
    exact wf_ite h (wf_ite (wf_stopSes (wf_busRead (wf_popEntry h))) (ih (wf_modSes (wf_busRead (wf_popEntry h)))))

theorem wf_encodeDone (h : Wf s) : Wf (encodeDone k bytes s) := by
  unfold encodeDone
  extract_lets _ _ _ _ _ _ s7 _ _ _ _ _ _ _ s15 _ s17 s18
  have h19 : Wf s7.1 := wf_getImage h
  have h21 : Wf s15.1 := wf_busWrite h19
  have h22 : Wf s17 := wf_ite (wf_event h21) h21
  have h23 : Wf s18 := wf_modSes h22
  exact wf_ite h (wf_ite (wf_stopSes h19) (wf_ite (wf_stopSes h21) (wf_pushEntry h23)))

theorem wf_outside (h : Wf s) : Wf (outside k s) := by
  unfold outside
  extract_lets _ _ _
  exact wf_ite h (wf_haltSes (wf_decodeError (wf_ite h (wf_pushEntry h))))

theorem wf_picOut (h : Wf s) : Wf (picOut k s) :=
  wf_modSes h

theorem wf_decodeDone (h : Wf s) : Wf (decodeDone k concealed s) := by
  unfold decodeDone
  extract_lets _ _ _ _ _ s6 _ s8 s9 _ _ s12 _
  have h14 : Wf s6 := wf_ite (wf_modSes h) h
  have h15 : Wf s8 := wf_pushTiles h14
  have h16 : Wf s9 := wf_dropBad h14
  have h17 : Wf s12.1 := wf_putImage (wf_popEntry h16)
  exact wf_ite h (wf_ite (wf_ite (wf_picOut (wf_ite (wf_decodeError h15) h15)) h15)
      (wf_ite h16 (wf_ite (wf_stopSes h17) (wf_pushEntry (wf_picOut (wf_ite (wf_decodeError h17) h17))))))

theorem wfR_execCodecPictureDone (h : Wf s) : WfR (execCodecPictureDone session r s) := by
  unfold execCodecPictureDone
  extract_lets _ _ s3
  have h4 : Wf s3 := wf_takePieces h
  exact wfR_next (wf_ite (wf_closeSesIfDone h) (wf_ite (wf_closeSesIfDone (wf_ite (wf_outside h4) (wf_decodeDone h4)))
      (wf_closeSesIfDone (wf_encodeDone (wf_takePics h)))))

end

end Sys2Proof.Machine

/-! Power, the field die, the bridge and firmware keep the canonical form of memory. -/

namespace Sys2Proof.Machine

section
set_option autoImplicit true

/-! ### Power, clocks and temperature (Machine/Power.lean) -/

theorem wfR_execPllUnlock (h : Wf s) : WfR (execPllUnlock periods s) :=
  wfR_next (wf_ite h (wf_freezeMarker (wf_event (wf_assertFaultN (wf_modPw h)))))

theorem wf_powerEvent (h : Wf s) : Wf (powerEvent old new power cause s) :=
  wf_event h

theorem wfR_execFastCurrentLimit (h : Wf s) : WfR (execFastCurrentLimit s) :=
  wfR_next (wf_ite h (wf_settleDiv (wf_powerEvent (wf_modPw h))))

theorem wf_movePower (h : Wf s) : Wf (movePower down dw s) := by
  unfold movePower
  extract_lets _ _ _
  exact wf_ite h (wf_powerEvent (wf_modPw h))

theorem wfR_execPowerLimitWindow (h : Wf s) : WfR (execPowerLimitWindow deciwatts s) :=
  wfR_next (wf_ite h (wf_settleDiv (wf_ite (wf_movePower (wf_modPw (wf_ite (wf_powerEvent (wf_modPw h)) h)))
      (wf_ite (wf_ite (wf_movePower (wf_modPw (wf_ite (wf_powerEvent (wf_modPw h)) h))) (wf_modPw (wf_ite (wf_powerEvent (wf_modPw h)) h)))
      (wf_modPw (wf_ite (wf_powerEvent (wf_modPw h)) h))))))

theorem wf_thermalEvent (h : Wf s) : Wf (thermalEvent old new sensor deci s) :=
  wf_event h

theorem wf_thermalDown (h : Wf s) : Wf (thermalDown sensor deci s) := by
  unfold thermalDown
  extract_lets _ _
  exact wf_ite h (wf_thermalEvent (wf_modPw h))

theorem wf_thermalUp (h : Wf s) : Wf (thermalUp sensor deci s) := by
  unfold thermalUp
  extract_lets _
  exact wf_ite h (wf_thermalEvent (wf_modPw h))

theorem wfR_execThermalThrottle (h : Wf s) : WfR (execThermalThrottle sensor deci s) := by
  unfold execThermalThrottle
  extract_lets _
  refine wfR_next ?_
  split
  · exact h
  · split
    · split
      · exact wf_ite h (wf_settleDiv (wf_thermalDown (wf_modPw h)))
      · exact wf_settleDiv (wf_thermalDown (wf_modPw h))
    · split
      · split
        · exact wf_modPw h
        · exact wf_ite h (wf_settleDiv (wf_thermalUp (wf_modPw h)))
      · exact wf_modPw h

theorem wfR_execVoltageTrimCycle (h : Wf s) : WfR (execVoltageTrimCycle mv s) := by
  unfold execVoltageTrimCycle
  extract_lets _ _ _ s4
  have h5 : Wf s4 := wf_modPw h
  exact wfR_next (wf_ite h (wf_ite (wf_event h5) h5))

theorem wfR_execVddLeafReachesSetting (h : Wf s) : WfR (execVddLeafReachesSetting s) :=
  wfR_next (wf_ite h (wf_ite (wf_settleDiv (wf_modPw (wf_modPw h))) (wf_ite (wf_modPw h) (wf_settleDiv (wf_modPw (wf_modPw h))))))

theorem wf_enterEvent (h : Wf s) : Wf (enterEvent new voter s) :=
  wf_event h

theorem wf_loseInPlace (h : Wf s) : Wf (loseInPlace s e) := by
  unfold loseInPlace
  extract_lets s1
  have h2 : Wf s1 := by
    unfold s1
    split
    · exact h
    · extract_lets _
      split
      · exact wf_ite (wf_loseKept h) h
      · exact h
  exact wf_modEst h2

theorem wf_gateLeaves (h : Wf s) : Wf (gateLeaves s) := by
  unfold gateLeaves
  extract_lets s1
  have h2 : Wf s1 := wf_foldl (fun _ _ h3 => wf_loseInPlace h3) h
  refine wf_foldl (fun s6 x7 h5 => ?_) h2
  split
  · exact wf_leafWipe h5
  · exact wf_leafWipe h5
  · exact h5

theorem wf_abortAll (h : Wf s) : Wf (abortAll s).1 := by
  unfold abortAll
  refine wf_foldl_fst (fun s2 x3 h1 => ?_) h
  extract_lets s4
  have h5 : Wf s4.1 := by
    unfold s4
    split
    · exact wf_pair (wf_dropReplay h1)
    · exact h1
  split
  · exact h5
  · split
    · exact h5
    · exact wf_pair (wf_abortJob h5)

theorem wf_pipesIdle (h : Wf s) : Wf (pipesIdle s) := by
  unfold pipesIdle
  refine wf_foldl (fun s3 x4 h2 => ?_) h
  extract_lets _
  split
  · exact wf_finish (wf_pipeIdle h2)
  · exact wf_ite (wf_pipeIdle h2) (wf_dropTraining h2)

theorem wf_dozeNow (h : Wf s) : Wf (dozeNow voter s) := by
  unfold dozeNow
  extract_lets s1
  have h2 : Wf s1 := wf_gateLeaves h
  exact wf_ite h2 (wf_leaveTo (wf_enterEvent h2))

theorem wf_hardDoze (h : Wf s) : Wf (hardDoze voter sensor reading s) := by
  unfold hardDoze
  extract_lets s1 s2 s3
  have h4 : Wf s1.1 := wf_abortAll h
  have h5 : Wf s2 := wf_pipesIdle h4
  have h6 : Wf s3 := wf_flushNow (wf_event h5)
  exact wf_settle (wf_modPw h6)

theorem wfR_execThermalDoze (h : Wf s) : WfR (execThermalDoze sensor deci s) :=
  wfR_next (wf_ite h (wf_hardDoze (wf_modPw h)))

theorem wfR_execThermalDozeExit (h : Wf s) : WfR (execThermalDozeExit deci s) :=
  wfR_next (wf_ite h (wf_ite (wf_settleDiv (wf_modPw (wf_ite h (wf_thermalEvent (wf_draw h)))))
      (wf_exitEvent (wf_leaveTo (wf_settleDiv (wf_modPw (wf_ite h (wf_thermalEvent (wf_draw h)))))))))

theorem wf_forceDoze (h : Wf s) : Wf (forceDoze s) := by
  unfold forceDoze
  exact wf_ite h (wf_hardDoze (wf_modPw (wf_draw (wf_draw h))))

theorem wf_releaseDoze (h : Wf s) : Wf (releaseDoze s) := by
  unfold releaseDoze
  exact wf_ite h (wf_ite (wf_modPw h) (wf_pushNotice (wf_draw (wf_exitEvent (wf_leaveTo (wf_modPw (wf_modPw h)))))))

theorem wf_restDown (h : Wf s) : Wf (restDown s) := by
  unfold restDown
  extract_lets s1 s2 _ _ _ _
  have h7 : Wf s1 := wf_pipesIdle (wf_closeAllFus (wf_closeAllStr (wf_cleanLines h)))
  clear_value s1
  have h8 : Wf s2 := wf_gateLeaves h7
  clear_value s2
  exact wf_keep h8 rfl

theorem wf_fieldDefaults (h : Wf s) : Wf (fieldDefaults s) := by
  unfold fieldDefaults
  extract_lets _ s2
  have h3 : Wf s2 := wf_keep h rfl
  exact wf_modField h3

theorem wf_armWake (h : Wf s) : Wf (armWake s) :=
  wf_modField h

theorem wf_restEntry (h : Wf s) : Wf (restEntry voter s) := by
  unfold restEntry
  extract_lets s1
  have h2 : Wf s1 := wf_armWake (wf_restDown h)
  exact wf_modPw (wf_enterEvent h2)

theorem wf_parkBegin (h : Wf s) : Wf (parkBegin voter s) :=
  wf_flushNow (wf_modPw (wf_enterEvent h))

theorem wf_parkEntry (h : Wf s) : Wf (parkEntry s) := by
  unfold parkEntry
  extract_lets s1 s2 s3 s4 _
  have h6 : Wf s1 := wf_restDown h
  clear_value s1
  have h7 : Wf s2 := wf_modField h6
  clear_value s2
  have h8 : Wf s3 := wf_fieldDefaults (wf_fieldLog (wf_armWake h7))
  clear_value s3
  have h9 : Wf s4 := wf_dramLost (wf_modBoot h8)
  clear_value s4
  exact wf_modPw (wf_keep h9 rfl)

theorem wf_enterByVotes (h : Wf s) : Wf (enterByVotes s) := by
  unfold enterByVotes
  extract_lets _
  exact wf_ite h (wf_ite (wf_dozeNow h) (wf_ite (wf_restEntry h) (wf_parkBegin h)))

theorem wf_parkStop (h : Wf s) : Wf (parkStop s) := by
  unfold parkStop
  extract_lets _ s2
  have h3 : Wf s2 := wf_event h
  exact wf_exitEvent (wf_leaveTo (wf_modPw h3))

theorem wfR_execImmediateFlushDone (h : Wf s) : WfR (execImmediateFlushDone s) :=
  wfR_next (wf_ite h (wf_ite (wf_settle (wf_dozeNow (wf_modPw (wf_finishAll (wf_ite (wf_keep h rfl) (wf_caddyRead (wf_keep h rfl)))))))
      (wf_ite (wf_finishAll (wf_ite (wf_keep h rfl) (wf_caddyRead (wf_keep h rfl))))
      (wf_ite (wf_parkStop (wf_finishAll (wf_ite (wf_keep h rfl) (wf_caddyRead (wf_keep h rfl)))))
      (wf_parkEntry (wf_finishAll (wf_ite (wf_keep h rfl) (wf_caddyRead (wf_keep h rfl)))))))))

theorem wfR_execHushEntry (h : Wf s) : WfR (execHushEntry s) :=
  wfR_next (wf_ite h (wf_ite (wf_enterByVotes h) (wf_modPw (wf_enterEvent h))))

theorem wf_freshCycles (h : Wf s) : Wf (freshCycles s) := by
  unfold freshCycles
  exact wf_foldl (fun _ _ h1 => wf_modEst h1) h

theorem wf_clockUp (h : Wf s) : Wf (clockUp s) := by
  unfold clockUp
  extract_lets s1
  have h2 : Wf s1 := wf_portsUp h
  exact wf_settleDiv (wf_modPw h2)

theorem wf_restExit (h : Wf s) : Wf (restExit cls inst s) := by
  unfold restExit
  extract_lets s1 s2 _
  have h4 : Wf s1 := wf_event h
  clear_value s1
  have h5 : Wf s2 := wf_releaseHarts (wf_freshCycles (wf_inject h4))
  clear_value s2
  exact wf_exitEvent (wf_clockUp (wf_keep h5 rfl))

theorem wf_parkExit (h : Wf s) : Wf (parkExit s) := by
  unfold parkExit
  extract_lets _ s2 s3 _ s5 s6 s7 s8 s9 _ s11 s12 s13 s14 _
  have h16 : Wf s2 := wf_fieldLog h
  clear_value s2
  have h17 : Wf s3.2 := wf_draw h16
  have h18 : Wf s5 := wf_modField h17
  clear_value s5
  have h19 : Wf s6 := wf_modPw h18
  clear_value s6
  have h20 : Wf s7 := wf_keep h19 rfl
  clear_value s7
  have h21 : Wf s8 := wf_bringupEvent (wf_caddyRestart h20)
  clear_value s8
  have h22 : Wf s9 := wf_copyLogs (wf_event h21)
  clear_value s9
  have h23 : Wf s11 := wf_setUcode (wf_keep h22 rfl)
  clear_value s11
  have h24 : Wf s12 := wf_releaseHarts (wf_freshCycles (wf_inject h23))
  clear_value s12
  have h25 : Wf s13.2 := wf_draw h24
  have h26 : Wf s14 := wf_event h25
  clear_value s14
  exact wf_ite (wf_coldReset (wf_modPw h22)) (wf_exitEvent (wf_clockUp (wf_keep h26 rfl)))

theorem wf_fieldWake (h : Wf s) : Wf (fieldWake bit s) := by
  unfold fieldWake
  extract_lets s1
  have h2 : Wf s1 := wf_modField h
  exact wf_ite h2 (wf_ite (wf_parkExit h2) (wf_ite (wf_restExit h2) h2))

theorem wf_wakeBy (h : Wf s) : Wf (wakeBy cls inst s) := by
  unfold wakeBy
  split
  · exact wf_ite (wf_fieldWake h) (wf_ite (wf_restExit h) h)
  · exact wf_ite (wf_fieldWake h) h
  · exact wf_wakeFrom h

theorem wfR_execWake (h : Wf s) : WfR (execWake cls inst s) :=
  wfR_next (wf_wakeBy h)

theorem wfR_execDramZeroingDone (h : Wf s) : WfR (execDramZeroingDone s) :=
  wfR_next (wf_ite (wf_settle (wf_keep h rfl)) h)

theorem wfR_execThermalTrip (h : Wf s) : WfR (execThermalTrip s) :=
  wfR_next (wf_ite h (wf_fieldLog (wf_modField (wf_modPw (wf_coreOff h)))))

theorem wfR_execTripRestart (h : Wf s) : WfR (execTripRestart s) :=
  wfR_next (wf_ite h (wf_modBoot (wf_modField (wf_modPw h))))

theorem wf_ownPowerVote (h : Wf s) : Wf (ownPowerVote x x1 s).1 := by
  unfold ownPowerVote
  extract_lets _ _ _ _ s5 s6
  have h7 : Wf s5 := wf_modParty h
  have h8 : Wf s6 := wf_settleDiv h7
  exact wf_checked h (wf_refusedBy h (wf_say (wf_ite h8 (wf_ite (wf_forceDoze h8) (wf_releaseDoze h8)))))

theorem wfR_execPowerVote (h : Wf s) : WfR (execPowerVote m s) := by
  unfold execPowerVote
  extract_lets s1
  have h2 : Wf s1 := wf_serve (fun _ _ _ h3 => wf_ownPowerVote h3) h
  exact wfR_next (wf_ite (wf_enterByVotes h2) h2)

theorem wf_ownPowerLimitSet (h : Wf s) : Wf (ownPowerLimitSet x x1 s).1 := by
  unfold ownPowerLimitSet
  extract_lets _ _
  exact wf_checked h (wf_say (wf_modPw h))

theorem wfR_execPowerLimitSet (h : Wf s) : WfR (execPowerLimitSet m s) :=
  wfR_next (wf_serve (fun _ _ _ h1 => wf_ownPowerLimitSet h1) h)

theorem wf_ownParkKeep (h : Wf s) : Wf (ownParkKeep x x1 s).1 := by
  unfold ownParkKeep
  extract_lets _ _
  refine wf_checked h ?_
  refine wf_refusedBy h ?_
  split
  · exact wf_say h
  · exact wf_say (wf_modParty h)

theorem wfR_execParkKeep (h : Wf s) : WfR (execParkKeep m s) :=
  wfR_next (wf_serve (fun _ _ _ h1 => wf_ownParkKeep h1) h)

theorem wf_ownAlarmSet (h : Wf s) : Wf (ownAlarmSet x x1 s).1 := by
  unfold ownAlarmSet
  extract_lets _ _ s3
  have h4 : Wf s3 := wf_modParty h
  exact wf_checked h (wf_refusedBy h (wf_say (wf_ite (wf_fireAlarm h4) h4)))

theorem wfR_execAlarmSet (h : Wf s) : WfR (execAlarmSet m s) :=
  wfR_next (wf_serve (fun _ _ _ h1 => wf_ownAlarmSet h1) h)

theorem wfR_execAlarmFire (h : Wf s) : WfR (execAlarmFire party s) := by
  unfold execAlarmFire
  extract_lets _ _ s3
  have h4 : Wf s3 := wf_ite (wf_wakeBy h) (wf_wakeFrom h)
  exact wfR_next (wf_ite h (wf_ite (wf_fireAlarm h4) h4))

theorem wf_secureHeld (h : Wf s) : Wf (secureHeld kind inst req code s) :=
  wf_event h

theorem wf_blockClose (h : Wf s) : Wf (blockClose kind inst s) := by
  unfold blockClose
  split
  · split
    · exact wf_finish (wf_pipeIdle h)
    · exact wf_pipeIdle h
  · exact wf_finishAll (wf_closeStr h)
  · exact wf_haltSes h
  · exact wf_foldl (fun _ _ h11 => wf_finishAll (wf_closeStr h11)) h
  · exact wf_ioAbort h
  · exact wf_closeCan h
  · exact h

theorem wf_ownBlockPower (h : Wf s) : Wf (ownBlockPower x x1 s).1 := by
  unfold ownBlockPower
  extract_lets _ _ _ _ _ s6 s7
  have h8 : Wf s6.2 := wf_draw h
  have h9 : Wf s7 := wf_modPw (wf_blockClose h)
  refine wf_checked h ?_
  split
  · exact wf_say (wf_ite (wf_secureHeld h8) h)
  · exact wf_refusedBy h (wf_checked h (wf_say (wf_ite (wf_modPw h) (wf_ite (wf_modPw h)
      (wf_ite (wf_modPw h) (wf_ite (wf_modPw (wf_blockClose h)) (wf_ite (wf_closeSes h9) (wf_ite (wf_modUnit h9) h9))))))))

theorem wfR_execBlockPower (h : Wf s) : WfR (execBlockPower m s) :=
  wfR_next (wf_serve (fun _ _ _ h1 => wf_ownBlockPower h1) h)

theorem wf_ownResumeSet (h : Wf s) : Wf (ownResumeSet x x1 s).1 := by
  unfold ownResumeSet
  extract_lets _ _ _ _
  exact wf_refusedBy h (wf_checked h (wf_refusedBy h (wf_say (wf_modPw h))))

theorem wfR_execResumeSet (h : Wf s) : WfR (execResumeSet m s) :=
  wfR_next (wf_serve (fun _ _ _ h1 => wf_ownResumeSet h1) h)

/-! ### The field die (Machine/Field.lean) -/

theorem wf_modCh (h : Wf s) : Wf (modCh s kind ch f) :=
  wf_modField h

theorem wf_modUc (h : Wf s) : Wf (modUc s p f) :=
  wf_modField h

theorem wf_fieldRecord (h : Wf s) : Wf (fieldRecord evq kind ch code state fault value s) := by
  unfold fieldRecord
  exact wf_ite h (wf_ite (wf_wakeFrom (wf_modField h)) (wf_pushEntry (wf_wakeFrom (wf_modField h))))

theorem wf_chRecord (h : Wf s) : Wf (chRecord kind ch code fault s) := by
  unfold chRecord
  extract_lets _
  exact wf_fieldRecord h

theorem wf_harnessFault (h : Wf s) : Wf (harnessFault kind ch fault held value party s) := by
  unfold harnessFault
  exact wf_ite h (wf_event h)

theorem wf_harnessClear (h : Wf s) : Wf (harnessClear kind ch fault party s) := by
  unfold harnessClear
  exact wf_ite h (wf_event h)

theorem wf_fldFault (h : Wf s) : Wf (fldFault bit s) :=
  wf_modField h

theorem wf_chFault (h : Wf s) : Wf (chFault kind ch fault held s) := by
  unfold chFault
  extract_lets s1 s2 _
  have h4 : Wf s1 := wf_modCh h
  have h5 : Wf s2 := wf_ite (wf_fldFault h4) h4
  exact wf_harnessFault (wf_chRecord h5)

theorem wf_chClear (h : Wf s) : Wf (chClear kind ch s) := by
  unfold chClear
  extract_lets _ s2
  have h3 : Wf s2 := wf_modCh h
  exact wf_ite h (wf_harnessClear (wf_chRecord h3))

theorem wf_chState (h : Wf s) : Wf (chState kind ch st s) := by
  unfold chState
  exact wf_ite h (wf_chRecord (wf_modCh h))

theorem wfR_execSwitchInputChange (h : Wf s) : WfR (execSwitchInputChange ch closed s) := by
  unfold execSwitchInputChange
  extract_lets _ _ s3 s4 s5
  have h6 : Wf s3 := wf_modField h
  have h7 : Wf s4 := wf_ite (wf_fieldWake h6) h6
  have h8 : Wf s5 := wf_chState h7
  refine wfR_next ?_
  split
  · exact h
  · split
    · exact h6
    · split
      · exact wf_ite (wf_chClear h8) h8
      · exact h8

theorem wfR_execPairImplausible (h : Wf s) : WfR (execPairImplausible ch s) := by
  unfold execPairImplausible
  extract_lets _
  exact wfR_next (wf_ite (wf_chFault h) h)

theorem wf_calTable (h : Wf s) : Wf (calTable kind n s).2 := by
  unfold calTable
  extract_lets _
  split
  · exact h
  · exact wf_freeBytes h

theorem wfR_execTouchScan (h : Wf s) : WfR (execTouchScan ch count s) := by
  unfold execTouchScan
  extract_lets _ _ s3 _ _ _ _ _ _ _ _ _ _ _ s15
  have h16 : Wf s3.2 := wf_calTable h
  have h18 : Wf s15 := wf_modCh h16
  exact wfR_next (wf_ite h (wf_ite (wf_chState h18) h18))

theorem wfR_execAnalogSample (h : Wf s) : WfR (execAnalogSample ch raw s) := by
  unfold execAnalogSample
  extract_lets _ _ s3 s4 _ _ _ _ _ _ _ s12 s13
  have h14 : Wf s3.2 := wf_calTable h
  have h15 : Wf s4.2 := wf_freeNum h14
  have h17 : Wf s12 := wf_modCh h15
  have h18 : Wf s13 := wf_chState h17
  exact wfR_next (wf_ite h (wf_ite (wf_ite h18 (wf_chFault h18)) (wf_chClear h18)))

theorem wfR_execWakeInputEdge (h : Wf s) : WfR (execWakeInputEdge ch rising s) := by
  unfold execWakeInputEdge
  extract_lets _ _ _ s4 s5
  have h6 : Wf s4 := wf_fieldWake h
  have h7 : Wf s5.2 := wf_freeNum h6
  exact wfR_next (wf_ite h (wf_ite h6 (wf_chRecord (wf_modCh h7))))

theorem wfR_execParkSwitchPoll (h : Wf s) : WfR (execParkSwitchPoll closed s) :=
  wfR_next (wf_ite h (wf_ite (wf_fieldWake (wf_foldl (fun _ _ h1 => wf_ite (wf_modCh h1) h1) (wf_modField h)))
      (wf_foldl (fun _ _ h2 => wf_ite (wf_modCh h2) h2) (wf_modField h))))

theorem wfR_execFieldTimerExpiry (h : Wf s) : WfR (execFieldTimerExpiry s) :=
  wfR_next (wf_ite h (wf_fieldWake h))

theorem wfR_execLampTurnOff (h : Wf s) : WfR (execLampTurnOff ch cause ma s) := by
  unfold execLampTurnOff
  extract_lets _ _ _ _ s5
  have h6 : Wf s5 := wf_modCh h
  exact wfR_next (wf_ite h (wf_ite (wf_chFault h6) (wf_ite (wf_harnessFault (wf_chRecord h6)) h6)))

theorem wfR_execLampRetry (h : Wf s) : WfR (execLampRetry ch s) := by
  unfold execLampRetry
  extract_lets _
  exact wfR_next (wf_ite h (wf_modCh h))

theorem wfR_execLampOpenLoad (h : Wf s) : WfR (execLampOpenLoad ch ma s) := by
  unfold execLampOpenLoad
  extract_lets _ s2
  have h3 : Wf s2 := wf_modCh h
  exact wfR_next (wf_ite h (wf_ite (wf_ite h3 (wf_chFault h3)) (wf_ite (wf_chClear h3) h3)))

theorem wfR_execLampOffDiag (h : Wf s) : WfR (execLampOffDiag ch downMv upMv s) := by
  unfold execLampOffDiag
  extract_lets _ _
  exact wfR_next (wf_ite h (wf_ite (wf_ite h (wf_chFault h)) (wf_ite (wf_ite h (wf_chFault h)) (wf_ite (wf_chClear h) h))))

theorem wf_lampCommand (h : Wf s) : Wf (lampCommand c s) := by
  unfold lampCommand
  extract_lets _ _ s3 s4 s5
  have h6 : Wf s3 := wf_modCh h
  have h7 : Wf s4 := wf_chState h6
  have h8 : Wf s5 := wf_modCh h
  exact wf_ite (wf_ite h (wf_ite (wf_chClear h7) h7)) (wf_ite (wf_chState h8) h8)

theorem wf_restCheck (h : Wf s) : Wf (restCheck c s) := by
  unfold restCheck
  extract_lets _ _ _ _
  exact wf_ite h (wf_ite (wf_ite h (wf_chFault h)) (wf_ite (wf_chClear h) h))

theorem wf_setChannel (h : Wf s) : Wf (setChannel k c p m s) := by
  unfold setChannel
  extract_lets _ _ s3
  have h4 : Wf s3 := wf_modCh h
  split
  · exact wf_restCheck h4
  · exact wf_lampCommand h4
  · exact h4

theorem wf_releaseCh (h : Wf s) : Wf (releaseCh k c s) :=
  wf_modField h

theorem wf_ownFieldSet (h : Wf s) : Wf (ownFieldSet x x1 s).1 := by
  unfold ownFieldSet
  extract_lets _ _ _ _ _
  refine wf_checked h ?_
  split
  · split
    · exact wf_say h
    · split
      · exact wf_say h
      · exact wf_say (wf_foldl (fun _ _ h11 => wf_releaseCh h11) h)
  · split
    · exact wf_say h
    · refine wf_checked h ?_
      split
      · exact wf_say h
      · split
        · exact wf_say h
        · exact wf_say (wf_setChannel (wf_modField h))

theorem wfR_execFieldSet (h : Wf s) : WfR (execFieldSet m s) :=
  wfR_next (wf_serve (fun _ _ _ h1 => wf_ownFieldSet h1) h)

theorem wf_ownFieldRead (h : Wf s) : Wf (ownFieldRead x x1 s).1 := by
  unfold ownFieldRead
  extract_lets _ _ _
  refine wf_checked h ?_
  split
  · exact wf_say h
  · split
    · exact wf_say h
    · exact wf_say (wf_modField h)

theorem wfR_execFieldRead (h : Wf s) : WfR (execFieldRead m s) :=
  wfR_next (wf_serve (fun _ _ _ h1 => wf_ownFieldRead h1) h)

theorem wf_canFault (h : Wf s) : Wf (canFault c fault off s) := by
  unfold canFault
  extract_lets _ s2 s3 s4
  have h5 : Wf s2 := wf_modCan h
  have h6 : Wf s3.2 := wf_freeNum h5
  have h7 : Wf s4 := wf_fldFault (wf_modCan h6)
  exact wf_ite h5 (wf_harnessFault h7)

theorem wf_canClear (h : Wf s) : Wf (canClear c which s) := by
  unfold canClear
  extract_lets _ s2
  have h3 : Wf s2 := wf_modCan h
  exact wf_foldl (fun _ _ h4 => wf_harnessClear h4) h3

theorem wfR_execCanFrameReceived (h : Wf s) : WfR (execCanFrameReceived ctrl f s) := by
  unfold execCanFrameReceived
  extract_lets _ _ s3 s4
  have h5 : Wf s3 := wf_canClear h
  have h6 : Wf s4 := wf_ite (wf_modCan h5) h
  exact wfR_next (wf_canReceive h6)

theorem wfR_execCanDominant (h : Wf s) : WfR (execCanDominant ctrl s) :=
  wfR_next (wf_ite (wf_canFault h) h)

theorem wfR_execCanWup (h : Wf s) : WfR (execCanWup ctrl s) := by
  unfold execCanWup
  extract_lets _
  exact wfR_next (wf_ite (wf_fieldWake h) h)

theorem wfR_execCanBusFault (h : Wf s) : WfR (execCanBusFault ctrl f s) := by
  unfold execCanBusFault
  extract_lets _
  refine wfR_next ?_
  split
  · exact h
  · split
    · exact wf_canFault h
    · exact wf_canFault h
    · exact wf_canFeed (wf_modCan (wf_canClear h))

theorem wfR_execCanOpenLoad (h : Wf s) : WfR (execCanOpenLoad ctrl s) :=
  wfR_next (wf_ite (wf_canFault h) h)

theorem wfR_execCanTransmitterRetry (h : Wf s) : WfR (execCanTransmitterRetry ctrl s) := by
  unfold execCanTransmitterRetry
  extract_lets _ _
  exact wfR_next (wf_ite (wf_canFeed (wf_modCan h)) h)

theorem wf_usbcRecord (h : Wf s) : Wf (usbcRecord p code fault s) := by
  unfold usbcRecord
  extract_lets s1 s2
  have h3 : Wf s1.2 := wf_freeNum h
  have h4 : Wf s2.2 := wf_freeNum h3
  exact wf_fieldRecord h4

theorem wf_usbcState (h : Wf s) : Wf (usbcState p s) := by
  unfold usbcState
  extract_lets _
  exact wf_ite h (wf_event h)

theorem wfR_execUsbcAttach (h : Wf s) : WfR (execUsbcAttach port state mv ma s) := by
  unfold execUsbcAttach
  extract_lets _ _ _ s4 s5
  have h6 : Wf s4 := wf_modUc h
  have h7 : Wf s5 := wf_ite (wf_fieldWake h6) h6
  exact wfR_next (wf_ite h (wf_ite (wf_ite (wf_fieldWake h) h) (wf_usbcRecord (wf_usbcState h7))))

theorem wf_usbcFault (h : Wf s) : Wf (usbcFault p fault s) := by
  unfold usbcFault
  extract_lets _ s2 s3 s4
  have h5 : Wf s2 := wf_modUc h
  have h6 : Wf s3 := wf_fldFault h5
  have h7 : Wf s4 := wf_ite (wf_event h6) h6
  exact wf_ite h5 (wf_usbcRecord h7)

theorem wfR_execVbusFault (h : Wf s) : WfR (execVbusFault port s) := by
  unfold execVbusFault
  extract_lets _
  exact wfR_next (wf_ite h (wf_usbcFault (wf_modUc h)))

theorem wfR_execVbusRetry (h : Wf s) : WfR (execVbusRetry port s) := by
  unfold execVbusRetry
  extract_lets _ s2
  have h3 : Wf s2 := wf_modUc h
  exact wfR_next (wf_ite h (wf_usbcRecord h3))

theorem wfR_execCcOvervoltage (h : Wf s) : WfR (execCcOvervoltage port s) :=
  wfR_next (wf_ite h (wf_usbcFault h))

theorem wf_ownUsbcSet (h : Wf s) : Wf (ownUsbcSet x x1 s).1 := by
  unfold ownUsbcSet
  extract_lets _ _ _ _ s5 s6 s7
  have h8 : Wf s5 := wf_modField h
  have h9 : Wf s6 := wf_modUc h8
  have h10 : Wf s7 := wf_ite (wf_usbcRecord h9) h9
  refine wf_checked h ?_
  split
  · exact wf_say h
  · split
    · exact wf_say h
    · split
      · exact wf_say h
      · exact wf_say (wf_ite (wf_usbcState h10) h10)

theorem wfR_execUsbcSet (h : Wf s) : WfR (execUsbcSet m s) :=
  wfR_next (wf_serve (fun _ _ _ h1 => wf_ownUsbcSet h1) h)

theorem wf_vbatEvent (h : Wf s) : Wf (vbatEvent st s) := by
  unfold vbatEvent
  exact wf_ite (wf_event h) h

theorem wf_overvoltOff (h : Wf s) : Wf (overvoltOff s) := by
  unfold overvoltOff
  extract_lets s1
  have h2 : Wf s1 := wf_foldl (fun _ _ h3 => wf_ite (wf_chState h3) h3) h
  exact wf_modField h2

theorem wf_overvoltBack (h : Wf s) : Wf (overvoltBack s) := by
  unfold overvoltBack
  extract_lets s1
  have h2 : Wf s1 := wf_foldl (fun _ _ h3 => wf_ite (wf_chState h3) h3) h
  exact wf_modField h2

theorem wf_vbatLost (h : Wf s) : Wf (vbatLost code s) := by
  unfold vbatLost
  extract_lets s1 s2
  have h3 : Wf s1 := wf_fieldLog h
  have h4 : Wf s2 := wf_ite h3 (wf_coreOff h3)
  exact wf_modField h4

theorem wfR_execVbatChange (h : Wf s) : WfR (execVbatChange centivolts s) := by
  unfold execVbatChange
  extract_lets _ _ _ x4 s5 s6 s7 s8 s9
  have h10 : Wf s5 := wf_ite (wf_fieldOn h) h
  have h11 : Wf s6 := wf_modField h10
  have h12 : Wf s7 := wf_fldFault h11
  have h13 : Wf s8 := wf_ite (wf_overvoltBack h11) h11
  have h14 : Wf s9 := wf_vbatEvent (wf_overvoltOff (wf_fldFault h11))
  refine wfR_next ?_
  split
  · exact wf_ite (wf_fieldLog h11) h11
  · clear_value x4
    split
    · exact wf_vbatLost (wf_fldFault h11)
    · exact wf_ite h11 (wf_vbatLost h11)
    · exact wf_ite h12 (wf_flushNow (wf_vbatEvent (wf_modField h12)))
    · exact wf_fieldWake (wf_vbatEvent h13)
    · exact wf_ite (wf_fieldLog h14) h14

theorem wfR_execVbatCut (h : Wf s) : WfR (execVbatCut s) :=
  wfR_next (wf_ite h (wf_modField (wf_coreOff h)))

theorem wfR_execFieldFrameCrcFail (h : Wf s) : WfR (execFieldFrameCrcFail fromCore s) := by
  unfold execFieldFrameCrcFail
  extract_lets _ s2 s3
  have h4 : Wf s2 := wf_event h
  have h5 : Wf s3 := wf_modBoot h4
  exact wfR_next (wf_ite h (wf_ite (wf_modField h) (wf_fieldLog (wf_modField h5))))

theorem wfR_execFieldOutputHoldExpiry (h : Wf s) : WfR (execFieldOutputHoldExpiry s) :=
  wfR_next (wf_ite h (wf_modField (wf_fieldDefaults h)))

theorem wf_fldRegBytes (h : Wf s) : Wf (fldRegBytes whole off n v s).2 := by
  unfold fldRegBytes
  split
  · exact h
  · exact wf_freeBytes h

theorem wf_fldRead (he : fldRead a n s = some (bs, t)) (h : Wf s) : Wf t := by
  unfold fldRead at he
  split at he
  · cases he
    exact h
  · extract_lets img at he
    have himg : Wf img.2 := by
      refine wf_foldl_snd (fun p r hp => ?_) h
      split
      · exact hp
      · exact wf_fldRegBytes hp
    split at he
    · cases he
      exact himg
    · cases he

theorem wf_serviceWake (h : Wf s) : Wf (serviceWake s) := by
  unfold serviceWake
  extract_lets s1
  have h2 : Wf s1 := wf_modField h
  split
  · exact wf_parkExit h2
  · exact wf_restExit h2
  · exact wf_wakeFrom h2

theorem wf_fldCmd (h : Wf s) : Wf (fldCmd v s) := by
  unfold fldCmd
  exact wf_ite (wf_serviceWake h) h

theorem wf_fldWrite (h : Wf s) : Wf (fldWrite off v s) := by
  unfold fldWrite
  split
  · exact wf_modField h
  · exact wf_modField h
  · exact wf_modField h
  · exact wf_modField h
  · exact wf_fldCmd h
  · exact h

theorem wfR_execWakeNow (h : Wf s) : WfR (execWakeNow v s) :=
  wfR_next (wf_ite (wf_fldCmd h) h)

theorem wf_serviceRefuse (h : Wf s) : Wf (serviceRefuse out s) :=
  wf_modField h

theorem wfR_execServiceSpiWrite (h : Wf s) : WfR (execServiceSpiWrite frame s) := by
  unfold execServiceSpiWrite
  extract_lets _ _
  exact wfR_next (wf_ite h (wf_ite (wf_serviceRefuse h) (wf_foldl (fun _ _ h3 => wf_fldWrite h3) (wf_modField h))))

theorem wfR_execServiceSpiRead (h : Wf s) : WfR (execServiceSpiRead frame s) := by
  unfold execServiceSpiRead
  extract_lets a n
  refine wfR_next ?_
  split
  · exact h
  · split
    · exact h
    · split
      · exact h
      · next t hread => exact wf_fldRead (t := t) hread h

theorem wfR_execServiceSpiStatus (h : Wf s) : WfR (execServiceSpiStatus frame s) :=
  wfR_next (wf_ite h (wf_modField (wf_freeNum h)))

theorem wf_safetyRefuse (h : Wf s) : Wf (safetyRefuse out s) :=
  wf_modSafe h

theorem wfR_execSafetySpiWrite (h : Wf s) : WfR (execSafetySpiWrite frame s) := by
  unfold execSafetySpiWrite
  extract_lets _ _ _ s4 s5
  have h6 : Wf s4 := wf_modSafe h
  have h7 : Wf s5 := wf_foldl (fun _ _ h8 => wf_dblWrite h8) h6
  refine wfR_next ?_
  split
  · exact h
  · split
    · exact wf_safetyRefuse h
    · split
      · exact wf_mboxWrite h6
      · exact wf_foldl (fun _ _ h17 => wf_dblWrite h17) h7
      · exact wf_safetyRefuse h

theorem wfR_execSafetySpiRead (h : Wf s) : WfR (execSafetySpiRead frame s) := by
  unfold execSafetySpiRead
  extract_lets _ _ _
  refine wfR_next ?_
  split
  · exact h
  · split
    · exact wf_safetyRefuse h
    · split
      · exact wf_modSafe h
      · exact wf_foldl (fun _ _ h12 => wf_dblReadEffect h12) (wf_modSafe h)
      · exact wf_modSafe h
      · exact wf_safetyRefuse h

theorem wfR_execSafetySpiStatus (h : Wf s) : WfR (execSafetySpiStatus frame s) :=
  wfR_next (wf_ite h (wf_modSafe h))

/-! ### The bridge (Machine/Cross.lean) -/

theorem wf_modCross (h : Wf s) : Wf (modCross s f) :=
  wf_keep h rfl

theorem wf_respond (h : Wf s) : Wf (respond st bs s) :=
  wf_keep h rfl

theorem wf_unitStops (h : Wf s) : Wf (unitStops code st s) := by
  unfold unitStops
  extract_lets _
  split
  · exact wf_abortOn h
  · exact wf_stopStr h
  · exact wf_stopSes h
  · exact wf_pipeStopped h
  · exact wf_stopFus h
  · split
    · exact wf_ioStop (wf_modUnit h)
    · exact wf_modUnit h
  · exact h

theorem wf_brgLog (h : Wf s) : Wf (brgLog e errQ s) := by
  unfold brgLog
  extract_lets s1
  have h2 : Wf s1 := wf_modCross h
  exact wf_ite h2 (wf_pushEntry h2)

theorem wf_inFail (h : Wf s) : Wf (inFail r win st loc s) := by
  unfold inFail
  extract_lets _ _ _ _ s5 _ s7
  have h8 : Wf s5 := wf_respond h
  have h9 : Wf s7 := by
    unfold s7
    split
    · extract_lets _
      exact wf_ite (wf_modCross h8) h8
    · exact h8
  exact wf_ite (wf_ite h9 (wf_event (wf_brgLog h9))) (wf_brgLog h8)

theorem wf_inRefuse (h : Wf s) : Wf (inRefuse r id' loc v s) :=
  wf_refuseEvent h

theorem wf_queueMoved (h : Wf s) : Wf (queueMoved q s) := by
  unfold queueMoved
  extract_lets s1
  have h2 : Wf s1 := wf_unitRoom (wf_canFeedQ h)
  exact wf_foldl (fun _ _ h3 => wf_ite (wf_closeSesIfDone h3) h3) h2

theorem wf_afterWrite (h : Wf s) : Wf (afterWrite write a s) := by
  unfold afterWrite
  split
  · exact wf_ite (wf_queueMoved h) h
  · exact h

theorem wf_inThrough (h : Wf s) : Wf (inThrough r id' s) := by
  unfold inThrough
  extract_lets _ _ _ _ _ _ _ _ s9
  have h10 : Wf s9.1 := wf_access h
  split
  · exact wf_respond (wf_modCross h)
  · split
    · exact wf_inFail h
    · split
      · exact wf_inFail (wf_inRefuse h)
      · split
        · exact wf_inFail (wf_inRefuse h)
        · split
          · exact wf_inFail (wf_event h)
          · split
            · exact wf_respond (wf_raiseIrq h)
            · split
              · exact wf_inFail (wf_inRefuse h)
              · split
                · exact h
                · exact h10
                · exact wf_ite (wf_respond (wf_afterWrite h10)) (wf_inFail h10)

theorem wf_barRequest (h : Wf s) : Wf (barRequest r s) := by
  unfold barRequest
  extract_lets _ _ _ _ x5 _ _ _ _ _ _
  split
  · split
    · unfold x5
      extract_lets s16
      have h17 : Wf s16.1 := wf_access h
      split
      · exact wf_ite (wf_respond h17) (wf_inFail h17)
      · exact h
    · exact wf_inFail (wf_inRefuse h)
  · split
    · unfold x5
      extract_lets s28
      have h29 : Wf s28.1 := wf_access h
      split
      · exact wf_ite (wf_respond h29) (wf_inFail h29)
      · exact h
    · exact wf_ite (wf_ite (wf_respond (wf_mboxWrite h)) (wf_respond (wf_modSafe h)))
        (wf_ite (wf_ite (wf_respond (wf_modCross h)) (wf_respond h)) (wf_ite (wf_ite (wf_respond h) (wf_respond h))
        (wf_ite (wf_ite (wf_respond (wf_ite (wf_modCross h) (wf_ite (wf_modCross h) h))) (wf_respond h)) (wf_inFail (wf_inRefuse h)))))

theorem wfR_execPcieInboundRequest (h : Wf s) : WfR (execPcieInboundRequest r s) := by
  unfold execPcieInboundRequest
  extract_lets _ s2 s3
  have h4 : Wf s2 := wf_wakeFrom h
  have h5 : Wf s3.2 := wf_freeNum h4
  refine wfR_next ?_
  split
  · exact h
  · split
    · exact h4
    · split
      · exact wf_barRequest h4
      · split
        · exact wf_inThrough h4
        · exact wf_inFail (wf_refuseEvent h5)

theorem wf_dropTx (h : Wf s) : Wf (dropTx tag s) :=
  wf_modCross h

theorem wf_wakeWaiter (h : Wf s) : Wf (wakeWaiter x st bs key s) := by
  unfold wakeWaiter
  split
  · extract_lets _ _
    split
    · exact h
    · exact wf_ite (wf_ite h (wf_ite (wf_dmaLand (wf_modDma h)) (wf_dmaFail h))) (wf_ite (wf_dmaDone h) (wf_dmaFail h))
  · extract_lets _
    exact wf_ite (wf_loadAnswer h) (wf_ite h (wf_abortOn h))

theorem wf_endTx (h : Wf s) : Wf (endTx x st bs s) := by
  unfold endTx
  extract_lets _ _ s3 s4 s5
  have h6 : Wf s3 := wf_dropTx h
  have h7 : Wf s4 := wf_ite h6 (wf_brgLog h6)
  have h8 : Wf s5 := wf_foldl (fun _ _ h9 => wf_wakeWaiter h9) h7
  exact wf_ite h8 (wf_ite h8 (wf_unitStops h8))

theorem wf_discard (h : Wf s) : Wf (discard x s) := by
  unfold discard
  extract_lets _ _ _ s4 s5
  have h6 : Wf s4 := wf_brgLog (wf_dropTx h)
  have h7 : Wf s5 := wf_modCross h6
  exact wf_event h7

theorem wfR_execWriteGroupEnd (h : Wf s) : WfR (execWriteGroupEnd win ini s) :=
  wfR_next (wf_endGroups h)

theorem wfR_execPcieCompletion (h : Wf s) : WfR (execPcieCompletion tag c s) := by
  unfold execPcieCompletion
  refine wfR_next ?_
  split
  · exact h
  · extract_lets _
    split
    · exact h
    · exact wf_discard h
    · exact wf_endTx h
    · split
      · exact wf_ite (wf_endTx h) h
      · exact wf_ite h (wf_endTx h)
      · exact wf_endTx h

theorem wfR_execOutboundReadTimeout (h : Wf s) : WfR (execOutboundReadTimeout tag s) := by
  unfold execOutboundReadTimeout
  refine wfR_next ?_
  split
  · exact h
  · exact wf_ite h (wf_modCross (wf_endTx h))

theorem wf_linkDown (h : Wf s) : Wf (linkDown port s) := by
  unfold linkDown
  extract_lets _ s2 s3 s4
  have h5 : Wf s2 := wf_modCross h
  have h6 : Wf s3 := wf_modBoot h5
  have h7 : Wf s4 := wf_crossEvent h6
  exact wf_foldl (fun _ _ h8 => wf_ite (wf_dropTx h8) (wf_endTx h8)) h7

theorem wfR_execPcieLinkDown (h : Wf s) : WfR (execPcieLinkDown port s) :=
  wfR_next (wf_ite (wf_linkDown h) h)

theorem wfR_execPciePerst (h : Wf s) : WfR (execPciePerst s) :=
  wfR_next (wf_ite h (wf_modCross (wf_ite (wf_linkDown (wf_wakeBy h)) (wf_wakeBy h))))

theorem wf_pmDenied (h : Wf s) : Wf (pmDenied s) := by
  unfold pmDenied
  exact wf_foldl (fun _ _ h1 => wf_secureHeld (wf_draw (wf_draw h1))) h

theorem wfR_execPciePowerManagement (h : Wf s) : WfR (execPciePowerManagement r s) :=
  wfR_next (wf_ite h (wf_ite (wf_pmDenied (wf_modCross h)) (wf_modCross h)))

theorem wfR_execPeerLinkUp (h : Wf s) : WfR (execPeerLinkUp port n d s) := by
  unfold execPeerLinkUp
  extract_lets _ _ _
  exact wfR_next (wf_ite h (wf_crossUp (wf_modBoot h)))

theorem wfR_execLinkRetrain (h : Wf s) : WfR (execLinkRetrain unit ok' s) := by
  unfold execLinkRetrain
  extract_lets _ _ s3
  have h4 : Wf s3 := wf_trainEvent (wf_modBoot h)
  exact wfR_next (wf_ite h (wf_ite (wf_ite (wf_tsnEvent (wf_linkIsUp h4)) (wf_linkIsUp h4)) (wf_ite (wf_tsnEvent h4) (wf_crossEvent h4))))

theorem wf_ownWindowOpen (h : Wf s) : Wf (ownWindowOpen x x1 s).1 := by
  unfold ownWindowOpen
  extract_lets _ _ _ _ _ _ _ _ _ _ _
  refine wf_checked h ?_
  refine wf_refusedBy h ?_
  split
  · exact wf_say h
  · split
    · exact wf_say h
    · exact wf_say (wf_winEvent (wf_modCross h))

theorem wfR_execWindowOpen (h : Wf s) : WfR (execWindowOpen m s) :=
  wfR_next (wf_serve (fun _ _ _ h1 => wf_ownWindowOpen h1) h)

theorem wf_ownWindowClose (h : Wf s) : Wf (ownWindowClose x x1 s).1 := by
  unfold ownWindowClose
  extract_lets _ _ s3
  have h4 : Wf s3 := wf_closeWin h
  exact wf_checked h (wf_refusedBy h (wf_pair (wf_modCross h4)))

theorem wfR_execWindowClose (h : Wf s) : WfR (execWindowClose m s) :=
  wfR_next (wf_serve (fun _ _ _ h1 => wf_ownWindowClose h1) h)

theorem wfR_execWindowDrainEnd (h : Wf s) : WfR (execWindowDrainEnd win s) := by
  unfold execWindowDrainEnd
  extract_lets _ _ s3
  have h4 : Wf s3 := wf_winEvent h
  exact wfR_next (wf_ite h (wf_finishAll (wf_modCross h4)))

theorem wf_ownPeerLink (h : Wf s) : Wf (ownPeerLink x x1 s).1 := by
  unfold ownPeerLink
  extract_lets _ _ s3
  have h4 : Wf s3 := wf_foldl (fun _ _ h5 => wf_ite (wf_linkDown h5) h5) h
  refine wf_checked h ?_
  split
  · exact wf_say h
  · exact wf_pair (wf_modCross h4)

theorem wf_linkSet (h : Wf s) : Wf (linkSet s) := by
  unfold linkSet
  split
  · exact h
  · exact wf_finish (wf_modCross h)

theorem wfR_execPeerLink (h : Wf s) : WfR (execPeerLink m s) :=
  wfR_next (wf_linkSet (wf_serve (fun _ _ _ h1 => wf_ownPeerLink h1) h))

/-! ### Targets of accesses (Machine/Target.lean) -/

theorem wf_initiatorSees (h : Wf s) : Wf (initiatorSees t st s) := by
  unfold initiatorSees
  split
  · exact wf_inFail h
  · exact wf_unitStops h

theorem wf_transact (h : Wf s) : Wf (transact t s) := by
  unfold transact
  extract_lets _ s2
  have h3 : Wf s2.1 := wf_access h
  split
  · exact h
  · split
    · exact h
    · exact wf_respond h3
    · extract_lets s15
      have h16 : Wf s15 := wf_respond h3
      exact wf_ite (wf_afterWrite h16) (wf_initiatorSees h16)

theorem wfR_execTargetAccess (h : Wf s) : WfR (execTargetAccess t s) :=
  wfR_next (wf_transact h)

theorem wfR_execQptTailWrite (h : Wf s) : WfR (execQptTailWrite b q v s) :=
  wfR_next (wf_transact h)

theorem wfR_execQptHeadWrite (h : Wf s) : WfR (execQptHeadWrite b q v s) :=
  wfR_next (wf_transact h)

theorem wfR_execDblSubmitWrite (h : Wf s) : WfR (execDblSubmitWrite b page v s) :=
  wfR_next (wf_transact h)

theorem wfR_execDblMboxRing (h : Wf s) : WfR (execDblMboxRing b page v s) :=
  wfR_next (wf_transact h)

theorem wfR_execDblNotifyRead (h : Wf s) : WfR (execDblNotifyRead b page s) :=
  wfR_next (wf_transact h)

theorem wfR_execRcFieldRead (h : Wf s) : WfR (execRcFieldRead b r s) := by
  unfold execRcFieldRead
  extract_lets _
  exact wfR_next (wf_transact h)

theorem wfR_execRegisterWrite (h : Wf s) : WfR (execRegisterWrite b r v s) := by
  unfold execRegisterWrite
  extract_lets _
  exact wfR_next (wf_transact h)

/-! ### Memory upkeep (Machine/Memory.lean) -/

theorem wfR_execStrainerArbitrate (h : Wf s) : WfR (execStrainerArbitrate cg s) :=
  wfR_next (wf_ite (wf_strainerCycle h) h)

theorem wfR_execPatrolScrub (h : Wf s) : WfR (execPatrolScrub cg line s) := by
  unfold execPatrolScrub
  extract_lets _ _ s3 s4 _ s6
  have h7 : Wf s3 := wf_strainerIn h
  have h8 : Wf s4.1 := wf_linkCross h7
  have h10 : Wf s6.2 := wf_freeNum h8
  refine wfR_next ?_
  split
  · exact h
  · split
    · exact h8
    · exact wf_dramCorrected h8
    · exact wf_event h10

theorem wfR_execChannelFail (h : Wf s) : WfR (execChannelFail cg ch silent s) := by
  unfold execChannelFail
  extract_lets _ s2
  have h3 : Wf s2 := wf_event (wf_modCg h)
  exact wfR_next (wf_ite h (wf_settle (wf_sharedFault h3)))

theorem wfR_execCacheOpDone (h : Wf s) : WfR (execCacheOpDone party s) := by
  unfold execCacheOpDone
  refine wfR_next ?_
  split
  · exact h
  · exact wf_ite h (wf_finish (wf_keep (wf_cleanLines h) rfl))

theorem wf_zeroGranule (h : Wf s) : Wf (zeroGranule g s) := by
  unfold zeroGranule
  extract_lets _ s2 s3 _
  have h5 : Wf s2 := wf_cleanLines h
  clear_value s2
  have h6 : Wf s3 := wf_memZero h5
  clear_value s3
  exact wf_keep h6 rfl

theorem wfR_execGranuleZeroed (h : Wf s) : WfR (execGranuleZeroed granule s) := by
  unfold execGranuleZeroed
  extract_lets _ s2 _
  have h4 : Wf s2 := wf_zeroGranule h
  clear_value s2
  exact wfR_next (wf_ite h (wf_settle (wf_keep h4 rfl)))

theorem wf_ownMemWaysSet (h : Wf s) : Wf (ownMemWaysSet x x1 s).1 := by
  unfold ownMemWaysSet
  extract_lets _
  refine wf_checked h ?_
  split
  · exact wf_say h
  · exact wf_say (wf_modParty h)

theorem wfR_execMemWaysSet (h : Wf s) : WfR (execMemWaysSet m s) :=
  wfR_next (wf_serve (fun _ _ _ h1 => wf_ownMemWaysSet h1) h)

theorem wf_ownMemCacheOp (h : Wf s) : Wf (ownMemCacheOp x x1 s).1 := by
  unfold ownMemCacheOp
  extract_lets _ _ _ _ _ _ _ _
  refine wf_checked h ?_
  split
  · split
    · exact wf_say h
    · exact wf_pair (wf_keep h rfl)
  · split
    · exact wf_say h
    · exact wf_pair (wf_keep h rfl)

theorem wfR_execMemCacheOp (h : Wf s) : WfR (execMemCacheOp m s) :=
  wfR_next (wf_serve (fun _ _ _ h1 => wf_ownMemCacheOp h1) h)

theorem wf_ownMemRangeSet (h : Wf s) : Wf (ownMemRangeSet x x1 s).1 := by
  unfold ownMemRangeSet
  extract_lets _ _ _ _ _ _
  refine wf_checked h ?_
  split
  · exact wf_say h
  · refine wf_checked h ?_
    split
    · exact wf_say h
    · exact wf_say (wf_modRange h)

theorem wfR_execMemRangeSet (h : Wf s) : WfR (execMemRangeSet m s) :=
  wfR_next (wf_serve (fun _ _ _ h1 => wf_ownMemRangeSet h1) h)

theorem wf_ownMemStats (h : Wf s) : Wf (ownMemStats x x1 s).1 := by
  unfold ownMemStats
  extract_lets _ _ _ _ s5 s6
  have h7 : Wf s5 := wf_foldl (fun _ _ h8 => wf_modRange h8) h
  have h9 : Wf s6 := wf_foldl (fun _ _ h10 => wf_modCg h10) h7
  exact wf_checked h (wf_say h9)

theorem wfR_execMemStats (h : Wf s) : WfR (execMemStats m s) :=
  wfR_next (wf_serve (fun _ _ _ h1 => wf_ownMemStats h1) h)

/-! ### Firmware (Machine/Firm.lean) -/

theorem wf_giveDue (h : Wf s) : Wf (giveDue s) := by
  unfold giveDue
  exact wf_foldl (fun _ _ h1 => wf_finish h1) (wf_modFirm h)

theorem wf_addDue (h : Wf s) : Wf (addDue d st detail s) :=
  wf_modFirm h

theorem wf_later (h : Wf s) : Wf (later d v s).1 :=
  wf_pair (wf_addDue h)

theorem wf_ownFwStage (h : Wf s) : Wf (ownFwStage x x1 s).1 := by
  unfold ownFwStage
  extract_lets _ _ _ _
  exact wf_checked h (wf_refusedBy h (wf_pair (wf_modFirm h)))

theorem wfR_execFwStage (h : Wf s) : WfR (execFwStage m s) :=
  wfR_next (wf_serve (fun _ _ _ h1 => wf_ownFwStage h1) h)

theorem wf_putOther (h : Wf s) : Wf (putOther x s) :=
  wf_modFirm h

theorem wfR_execFwStageDone (h : Wf s) : WfR (execFwStageDone readBackOk s) := by
  unfold execFwStageDone
  refine wfR_next ?_
  split
  · exact h
  · extract_lets s8 s9 s10
    have h11 : Wf s8 := wf_modFirm h
    have h12 : Wf s9 := wf_modFirm (wf_putOther h11)
    have h13 : Wf s10 := wf_event h12
    exact wf_ite (wf_finish h11) (wf_ite (wf_finish (wf_modFirm (wf_putOther h11))) (wf_finish h13))

theorem wf_ownFwActivate (h : Wf s) : Wf (ownFwActivate x x1 s).1 := by
  unfold ownFwActivate
  extract_lets _ _
  exact wf_checked h (wf_refusedBy h (wf_checked h (wf_refusedBy h (wf_pair (wf_modFirm h)))))

theorem wfR_execFwActivate (h : Wf s) : WfR (execFwActivate m s) :=
  wfR_next (wf_serve (fun _ _ _ h1 => wf_ownFwActivate h1) h)

theorem wf_abortAttests (h : Wf s) : Wf (abortAttests s) := by
  unfold abortAttests
  extract_lets _
  exact wf_finishAll (wf_modFirm h)

theorem wfR_execActivationWindowOpen (h : Wf s) : WfR (execActivationWindowOpen s) :=
  wfR_next (wf_ite h (wf_modFirm (wf_abortAttests (wf_wakeFrom h))))

theorem wf_endWindow (h : Wf s) : Wf (endWindow s) := by
  unfold endWindow
  extract_lets _ s2 s3 s4
  have h5 : Wf s2 := wf_modFirm h
  have h6 : Wf s3 := wf_foldl (fun _ _ h7 => wf_complete h7) h5
  have h8 : Wf s4 := wf_foldl (fun _ _ h9 => wf_drainNotices h9) h6
  exact wf_settle (wf_foldl (fun _ _ h10 => wf_repairEst h10) h8)

theorem wf_afiNotices (h : Wf s) : Wf (afiNotices s) := by
  unfold afiNotices
  extract_lets s1 _
  have h3 : Wf s1 := wf_foldl (fun _ _ h4 => wf_pushNotice h4) h
  clear_value s1
  exact wf_keep h3 rfl

theorem wfR_execActivationReady (h : Wf s) : WfR (execActivationReady s) :=
  wfR_next (wf_ite h (wf_ite (wf_afiNotices (wf_finish (wf_endWindow (wf_ite (wf_event (wf_event (wf_keep h rfl))) (wf_event (wf_keep h rfl))))))
      (wf_finish (wf_endWindow (wf_ite (wf_event (wf_event (wf_keep h rfl))) (wf_event (wf_keep h rfl)))))))

theorem wf_rollback (h : Wf s) : Wf (rollback s) := by
  unfold rollback
  extract_lets _ s2
  have h3 : Wf s2 := wf_event h
  exact wf_finish (wf_endWindow h3)

theorem wfR_execActivationWatchdog (h : Wf s) : WfR (execActivationWatchdog s) :=
  wfR_next (wf_ite h (wf_rollback h))

theorem wf_ownFwCommit (h : Wf s) : Wf (ownFwCommit x x1 s).1 :=
  wf_refusedBy h (wf_say (wf_event (wf_advance (wf_advance (wf_modFirm h)))))

theorem wfR_execFwCommit (h : Wf s) : WfR (execFwCommit m s) :=
  wfR_next (wf_serve (fun _ _ _ h1 => wf_ownFwCommit h1) h)

theorem wf_ownUcodeLoad (h : Wf s) : Wf (ownUcodeLoad x x1 s).1 := by
  unfold ownUcodeLoad
  extract_lets _ _ _ _ _
  refine wf_checked h ?_
  refine wf_refusedBy h ?_
  split
  · exact wf_later h
  · exact wf_pair (wf_modFirm h)

theorem wfR_execUcodeLoad (h : Wf s) : WfR (execUcodeLoad m s) := by
  unfold execUcodeLoad
  extract_lets s1
  have h2 : Wf s1 := wf_serve (fun _ _ _ h3 => wf_ownUcodeLoad h3) h
  exact wfR_next (wf_ite (wf_settle (wf_giveDue h2)) h2)

theorem wf_applyCal (h : Wf s) : Wf (applyCal kind img s) := by
  unfold applyCal
  extract_lets _ s2 s3
  have h4 : Wf s2 := wf_modFirm h
  have h5 : Wf s3 := wf_ite (wf_modPw h4) h4
  exact wf_event h5

theorem wf_ownCalLoad (h : Wf s) : Wf (ownCalLoad x x1 s).1 := by
  unfold ownCalLoad
  extract_lets _ _ _ _ _ _
  refine wf_checked h ?_
  refine wf_checked h ?_
  refine wf_refusedBy h ?_
  split
  · exact wf_later h
  · split
    · exact wf_later h
    · exact wf_later (wf_advance (wf_applyCal h))

theorem wfR_execCalLoad (h : Wf s) : WfR (execCalLoad m s) := by
  unfold execCalLoad
  extract_lets s1
  have h2 : Wf s1 := wf_serve (fun _ _ _ h3 => wf_ownCalLoad h3) h
  exact wfR_next (wf_ite (wf_giveDue h2) h2)

theorem wfR_execAliasDerived (h : Wf s) : WfR (execAliasDerived s) :=
  wfR_next (wf_ite (wf_modFirm h) h)

/-! ### Self-test and safety (Machine/SelfTest.lean) -/

theorem wf_modTest (h : Wf s) : Wf (modTest s e f) :=
  wf_modEst h

theorem wf_noteSkip (h : Wf s) : Wf (noteSkip e s) := by
  unfold noteSkip
  split
  · exact h
  · extract_lets _ s7 _
    have h9 : Wf s7 := wf_modTest h
    clear_value s7
    exact wf_ite h (wf_keep h9 rfl)

theorem wfR_execSelftestSliceStart (h : Wf s) : WfR (execSelftestSliceStart e s) := by
  unfold execSelftestSliceStart
  extract_lets _
  exact wfR_next (wf_ite h (wf_ite (wf_modTest h) (wf_ite (wf_noteSkip h) h)))

theorem wf_sliceFail (h : Wf s) : Wf (sliceFail e slice l s) :=
  wf_fence (wf_event h)

theorem wf_ownFail (h : Wf s) : Wf (ownFail s l) := by
  unfold ownFail
  extract_lets s1
  have h2 : Wf s1.2 := wf_draw h
  exact wf_sliceFail h2

theorem wfR_execSelftestSliceEnd (h : Wf s) : WfR (execSelftestSliceEnd e failed s) := by
  unfold execSelftestSliceEnd
  extract_lets _ _ _ _ _ s6 s7 s8
  have h9 : Wf s6 := wf_ite (wf_foldl (fun _ _ h10 => wf_ownFail h10) h) h
  have h11 : Wf s7 := wf_modTest h9
  have h12 : Wf s8 := wf_ite h11 (wf_noteSkip h11)
  exact wfR_next (wf_ite h9 (wf_settle (wf_foldl (fun _ _ h13 => wf_sliceFail h13) h12)))

theorem wfR_execSelftestOverdue (h : Wf s) : WfR (execSelftestOverdue e s) := by
  unfold execSelftestOverdue
  extract_lets _ _ _
  exact wfR_next (wf_ite h (wf_event (wf_modTest h)))

theorem wf_ownSelftestGaps (h : Wf s) : Wf (ownSelftestGaps x x1 s).1 := by
  unfold ownSelftestGaps
  extract_lets _ _ _
  exact wf_checked h (wf_refusedBy h (wf_checked h (wf_say (wf_modTest h))))

theorem wfR_execSelftestGaps (h : Wf s) : WfR (execSelftestGaps m s) :=
  wfR_next (wf_serve (fun _ _ _ h1 => wf_ownSelftestGaps h1) h)

theorem wf_ownSafetyPairSet (h : Wf s) : Wf (ownSafetyPairSet x x1 s).1 := by
  unfold ownSafetyPairSet
  extract_lets _ _ _ _ _ _ _ _
  refine wf_checked h ?_
  refine wf_refusedBy h ?_
  refine wf_checked h ?_
  split
  · split
    · exact h
    · split
      · exact wf_pair (wf_keep h rfl)
      · exact wf_say (wf_dissolve h)
  · refine wf_checked h ?_
    refine wf_refusedBy h ?_
    split
    · exact wf_pair (wf_keep h rfl)
    · exact wf_say (wf_formPair h)

theorem wfR_execSafetyPairSet (h : Wf s) : WfR (execSafetyPairSet m s) :=
  wfR_next (wf_serve (fun _ _ _ h1 => wf_ownSafetyPairSet h1) h)

theorem wf_kettleFault (h : Wf s) : Wf (kettleFault cause s) := by
  unfold kettleFault
  exact wf_ite h (wf_ite (wf_rollback h) (wf_freezeMarker (wf_event (wf_assertFaultN (wf_foldl (fun _ _ h1 => wf_haltEst h1) (wf_keep h rfl))))))

theorem wfR_execKettleLockstepMismatch (h : Wf s) : WfR (execKettleLockstepMismatch s) :=
  wfR_next (wf_kettleFault h)

theorem wfR_execKettleWatchdogExpiry (h : Wf s) : WfR (execKettleWatchdogExpiry s) :=
  wfR_next (wf_kettleFault h)

theorem wfR_execSafetyIslandMismatch (h : Wf s) : WfR (execSafetyIslandMismatch pair s) :=
  wfR_next (wf_ite h (wf_assertFrom (wf_modSafe h)))

theorem wfR_execSafetyIslandHeartbeatMiss (h : Wf s) : WfR (execSafetyIslandHeartbeatMiss pair x s) :=
  wfR_next (wf_ite h (wf_ite (wf_assertFrom (wf_draw h)) (wf_draw h)))

theorem wf_stopEsts (h : Wf s) : Wf (stopEsts es s) := by
  unfold stopEsts
  exact wf_foldl (fun _ _ h1 => wf_modEst h1) h

theorem wf_denyJob (h : Wf s) : Wf (denyJob s e) := by
  unfold denyJob
  extract_lets s1
  have h2 : Wf s1 := wf_ite h (wf_abortJob h)
  exact wf_dropReplay h2

theorem wf_haltAll (h : Wf s) : Wf (haltAll s) := by
  unfold haltAll
  extract_lets s1
  have h2 : Wf s1 := wf_foldl (fun _ _ h3 => wf_haltEst h3) h
  exact wf_freezeMarker (wf_assertFaultN (wf_modSafe h2))

theorem wf_releaseLevels (h : Wf s) : Wf (releaseLevels s) := by
  unfold releaseLevels
  extract_lets s1
  have h2 : Wf s1 := wf_foldl (fun _ _ h3 => wf_modEst h3) h
  exact wf_ite (wf_releaseDoze h2) h2

theorem wf_supersede (h : Wf s) : Wf (supersede s) := by
  unfold supersede
  split
  · exact wf_finish (wf_modSafe h)
  · exact h

theorem wf_ownSafeState (h : Wf s) : Wf (ownSafeState x x1 s).1 := by
  unfold ownSafeState
  extract_lets _ _ _ _ s5 s6 s7 s8
  have h9 : Wf s5 := wf_event (wf_supersede h)
  have h10 : Wf s6 := wf_ite (wf_releaseLevels h9) (wf_ite (wf_stopEsts h9) h9)
  have h11 : Wf s7 := wf_ite (wf_foldl (fun _ _ h12 => wf_denyJob h12) h10) (wf_ite (wf_forceDoze h10) (wf_ite (wf_haltAll h10) h10))
  have h13 : Wf s8 := wf_modSafe h11
  refine wf_checked h ?_
  refine wf_refusedBy h ?_
  split
  · exact wf_pair (wf_modSafe h13)
  · exact wf_later h13

theorem wfR_execSafeState (h : Wf s) : WfR (execSafeState m s) := by
  unfold execSafeState
  extract_lets s1
  have h2 : Wf s1 := wf_serve (fun _ _ _ h3 => wf_ownSafeState h3) h
  exact wfR_next (wf_ite (wf_settle (wf_giveDue h2)) h2)

theorem wf_ownFaultStatus (h : Wf s) : Wf (ownFaultStatus x x1 s).1 :=
  wf_say (wf_keep h rfl)

theorem wfR_execFaultStatus (h : Wf s) : WfR (execFaultStatus m s) :=
  wfR_next (wf_serve (fun _ _ _ h1 => wf_ownFaultStatus h1) h)

end

end Sys2Proof.Machine

/-! Messages, guests, security and so every step keep the canonical form of memory (O6). -/

namespace Sys2Proof.Machine

section
set_option autoImplicit true

/-! ### Messages (Machine/Messages.lean) -/

theorem wf_ownAfiVersion (h : Wf s) : Wf (ownAfiVersion x x1 s).1 :=
  wf_say h

theorem wfR_execAfiVersion (h : Wf s) : WfR (execAfiVersion m s) :=
  wfR_next (wf_serve (fun _ _ _ h1 => wf_ownAfiVersion h1) h)

theorem wf_ownMboxSet (h : Wf s) : Wf (ownMboxSet x x1 s).1 := by
  unfold ownMboxSet
  extract_lets _ _ _ _ _
  exact wf_checked h (wf_refusedBy h (wf_checked h (wf_refusedBy h (wf_say (wf_modParty h)))))

theorem wf_moveMbox (h : Wf s) : Wf (moveMbox p s) := by
  unfold moveMbox
  extract_lets s1
  have h2 : Wf s1 := wf_modParty h
  exact wf_ite (wf_drainNotices h2) h2

theorem wfR_execMboxSet (h : Wf s) : WfR (execMboxSet m s) := by
  unfold execMboxSet
  extract_lets _ s2
  have h3 : Wf s2 := wf_serve (fun _ _ _ h4 => wf_ownMboxSet h4) h
  exact wfR_next (wf_ite (wf_settle (wf_moveMbox h3)) h3)

theorem wf_ownIrqRoute (h : Wf s) : Wf (ownIrqRoute x x1 s).1 := by
  unfold ownIrqRoute
  extract_lets _ _
  exact wf_checked h (wf_refusedBy h (wf_say (wf_modParty h)))

theorem wfR_execIrqRoute (h : Wf s) : WfR (execIrqRoute m s) :=
  wfR_next (wf_serve (fun _ _ _ h1 => wf_ownIrqRoute h1) h)

theorem wf_ownQueueBind (h : Wf s) : Wf (ownQueueBind x x1 s).1 := by
  unfold ownQueueBind
  extract_lets _ _
  exact wf_checked h (wf_refusedBy h (wf_checked h (wf_refusedBy h (wf_say (wf_keep h rfl)))))

theorem wfR_execQueueBind (h : Wf s) : WfR (execQueueBind m s) :=
  wfR_next (wf_serve (fun _ _ _ h1 => wf_ownQueueBind h1) h)

theorem wf_ownQueueUnbind (h : Wf s) : Wf (ownQueueUnbind x x1 s).1 := by
  unfold ownQueueUnbind
  extract_lets _
  exact wf_checked h (wf_refusedBy h (wf_say (wf_keep h rfl)))

theorem wfR_execQueueUnbind (h : Wf s) : WfR (execQueueUnbind m s) := by
  unfold execQueueUnbind
  extract_lets _ s2
  have h3 : Wf s2 := wf_serve (fun _ _ _ h4 => wf_ownQueueUnbind h4) h
  exact wfR_next (wf_ite (wf_settle h3) h3)

theorem wf_ownTemplateLoad (h : Wf s) : Wf (ownTemplateLoad x x1 s).1 := by
  unfold ownTemplateLoad
  extract_lets _ _
  exact wf_checked h (wf_refusedBy h (wf_pair (wf_modParty h)))

theorem wfR_execTemplateLoad (h : Wf s) : WfR (execTemplateLoad m s) :=
  wfR_next (wf_serve (fun _ _ _ h1 => wf_ownTemplateLoad h1) h)

theorem wf_loadTmpl (h : Wf s) : Wf (loadTmpl d a n s) := by
  cases hbad : tmplBad (memRead s a n) n with
  | some o =>
    simp only [loadTmpl, hbad]
    exact wf_finish h
  | none =>
    cases halloc : allocPieces s d.party (reqGrant s d.party).cg (piecesFor (copyBytes (memRead s a n))) with
    | none =>
      simp only [loadTmpl, hbad, halloc]
      exact wf_ite (wf_finish h) (wf_finish h)
    | some ps =>
      simp only [loadTmpl, hbad, halloc]
      exact wf_ite (wf_finish h) (wf_finish (wf_modParty (wf_keep h rfl)))

theorem wfR_execTemplateLoadDone (h : Wf s) : WfR (execTemplateLoadDone party s) := by
  unfold execTemplateLoadDone
  extract_lets _
  refine wfR_next ?_
  split
  · exact h
  · exact wf_ite h (wf_loadTmpl (wf_modParty h))

theorem wf_ownTemplateFree (h : Wf s) : Wf (ownTemplateFree x x1 s).1 := by
  unfold ownTemplateFree
  extract_lets _ _ _
  split
  · exact h
  · split
    · exact wf_say h
    · split
      · exact wf_pair (wf_keep h rfl)
      · exact wf_say (wf_dropTmpl h)

theorem wfR_execTemplateFree (h : Wf s) : WfR (execTemplateFree m s) := by
  unfold execTemplateFree
  extract_lets _ s2
  have h3 : Wf s2 := wf_serve (fun _ _ _ h4 => wf_ownTemplateFree h4) h
  exact wfR_next (wf_ite (wf_settle h3) h3)

theorem wf_ownLeafStats (h : Wf s) : Wf (ownLeafStats x x1 s).1 := by
  unfold ownLeafStats
  extract_lets _ _ _ _ _ _
  exact wf_checked h (wf_refusedBy h (wf_say (wf_foldl (fun _ _ h7 => wf_modLeaf h7) h)))

theorem wfR_execLeafStats (h : Wf s) : WfR (execLeafStats m s) :=
  wfR_next (wf_serve (fun _ _ _ h1 => wf_ownLeafStats h1) h)

theorem wf_ownLeafFence (h : Wf s) : Wf (ownLeafFence x x1 s).1 := by
  unfold ownLeafFence
  extract_lets _
  exact wf_checked h (wf_refusedBy h (wf_say (wf_fence h)))

theorem wfR_execLeafFence (h : Wf s) : WfR (execLeafFence m s) :=
  wfR_next (wf_serve (fun _ _ _ h1 => wf_ownLeafFence h1) h)

theorem wf_takeGrant (h : Wf s) : Wf (takeGrant p g d s).1 := by
  unfold takeGrant
  extract_lets _ _ _ _ _ s6 s7 s8 s9
  have h10 : Wf s6 := wf_keep h rfl
  have h11 : Wf s7 := wf_modParty h10
  have h12 : Wf s8 := wf_foldl (fun _ _ h13 => wf_shrinkEst h13) h11
  have h14 : Wf s9 := wf_foldl (fun _ _ h15 => wf_trimEst h15) h12
  split
  · exact wf_pair (wf_grantEvent h14)
  · exact wf_say (wf_grantDone h14)

theorem wf_ownGrantSet (h : Wf s) : Wf (ownGrantSet x x1 s).1 := by
  unfold ownGrantSet
  extract_lets _ _
  refine wf_checked h ?_
  refine wf_refusedBy h ?_
  split
  · exact wf_say h
  · split
    · exact wf_say h
    · exact wf_takeGrant h

theorem wfR_execGrantSet (h : Wf s) : WfR (execGrantSet m s) := by
  unfold execGrantSet
  extract_lets s1
  have h2 : Wf s1 := wf_serve (fun _ _ _ h3 => wf_ownGrantSet h3) h
  exact wfR_next (wf_ite (wf_enterByVotes (wf_settle h2)) h2)

theorem wf_createSecure (h : Wf s) : Wf (createSecure x d s).1 := by
  unfold createSecure
  extract_lets _ s2 _
  have h4 : Wf s2.1 := wf_createEst h
  split
  · exact wf_say h
  · split
    · exact wf_say h
    · split
      · exact wf_pair h4
      · split
        · exact wf_say h
        · exact wf_pair (wf_keep h rfl)

theorem wf_createNormal (h : Wf s) : Wf (createNormal p x s).1 := by
  unfold createNormal
  split
  · exact wf_say h
  · split
    · exact wf_say h
    · split
      · exact wf_say h
      · extract_lets s10
        have h11 : Wf s10.1 := wf_createEst h
        exact wf_pair h11

theorem wf_changeEst (h : Wf s) : Wf (changeEst e x d s).1 := by
  unfold changeEst
  extract_lets _ s2
  have h3 : Wf s2.1 := wf_applySet h
  split
  · exact wf_say h
  · split
    · exact wf_say h
    · split
      · exact wf_say h
      · split
        · exact wf_pair h3
        · exact wf_pair (wf_modEst h)

theorem wf_ownEstateSet (h : Wf s) : Wf (ownEstateSet x x1 s).1 := by
  unfold ownEstateSet
  extract_lets _ _ _ _ _ _
  refine wf_checked h ?_
  refine wf_refusedBy h ?_
  split
  · exact wf_say h
  · refine wf_checked h ?_
    refine wf_refusedBy h ?_
    split
    · exact wf_changeEst h
    · split
      · exact wf_createSecure h
      · exact wf_createNormal h

theorem wfR_execEstateSet (h : Wf s) : WfR (execEstateSet m s) := by
  unfold execEstateSet
  extract_lets _ s2
  have h3 : Wf s2 := wf_serve (fun _ _ _ h4 => wf_ownEstateSet h4) h
  exact wfR_next (wf_ite (wf_settle h3) h3)

theorem wf_ownEstateFree (h : Wf s) : Wf (ownEstateFree x x1 s).1 := by
  unfold ownEstateFree
  extract_lets _
  refine wf_checked h ?_
  refine wf_refusedBy h ?_
  refine wf_checked h ?_
  refine wf_refusedBy h ?_
  split
  · exact wf_say (wf_freeEstate h)
  · exact wf_pair (wf_modEst h)

theorem wfR_execEstateFree (h : Wf s) : WfR (execEstateFree m s) := by
  unfold execEstateFree
  extract_lets _ s2
  have h3 : Wf s2 := wf_serve (fun _ _ _ h4 => wf_ownEstateFree h4) h
  exact wfR_next (wf_ite (wf_enterByVotes (wf_settle h3)) h3)

/-! ### Guests (Machine/Guest.lean) -/

theorem wf_guestChecks (h : Wf s) (h_k : Wf k.1) : Wf (guestChecks code m d s k).1 := by
  unfold guestChecks
  split
  · exact h
  · split
    · exact wf_say h
    · exact wf_refusedBy h h_k

theorem wf_ownGuestFreeze (h : Wf s) : Wf (ownGuestFreeze x x1 s).1 := by
  unfold ownGuestFreeze
  refine wf_guestChecks h ?_
  extract_lets _ _
  split
  · exact wf_say h
  · split
    · exact wf_say h
    · split
      · exact wf_pair (wf_guestEvent (wf_modParty h))
      · exact wf_say (wf_guestEvent (wf_modParty h))

theorem wfR_execGuestFreeze (h : Wf s) : WfR (execGuestFreeze m s) :=
  wfR_next (wf_serve (fun _ _ _ h1 => wf_ownGuestFreeze h1) h)

theorem wf_ownGuestThaw (h : Wf s) : Wf (ownGuestThaw x x1 s).1 :=
  wf_guestChecks h (wf_refusedBy h (wf_say (wf_guestEvent (wf_modParty h))))

theorem wfR_execGuestThaw (h : Wf s) : WfR (execGuestThaw m s) :=
  wfR_next (wf_serve (fun _ _ _ h1 => wf_ownGuestThaw h1) h)

theorem wf_noteImage (h : Wf s) : Wf (noteImage p s) := by
  unfold noteImage
  extract_lets _
  exact wf_modFirm h

theorem wf_ownGuestSave (h : Wf s) : Wf (ownGuestSave x x1 s).1 := by
  unfold ownGuestSave
  refine wf_guestChecks h ?_
  extract_lets _ _ _ _
  refine wf_refusedBy h ?_
  split
  · exact h
  · exact wf_say (wf_guestEvent (wf_putBytes (wf_noteImage h)))

theorem wfR_execGuestSave (h : Wf s) : WfR (execGuestSave m s) :=
  wfR_next (wf_serve (fun _ _ _ h1 => wf_ownGuestSave h1) h)

theorem wf_restoreEst (he : restoreEst p x a = some b) (h : Wf a.1) : Wf b.1 := by
  unfold restoreEst at he
  extract_lets s free pick at he
  split at he
  · cases he
    exact h
  · cases he

theorem wfO_restoreTmpl (h : Wf s) : WfO (restoreTmpl p x s) := by
  unfold restoreTmpl
  exact wfO_map fun _ => wf_keep h rfl

theorem wfO_restoreKept (h : Wf s) : WfO (restoreKept p nums x s) := by
  unfold restoreKept
  extract_lets _ _
  split
  · exact wfO_some h
  · exact wfO_map fun _ => wf_putKept h

theorem wf_restoreRing (h : Wf s) : Wf (restoreRing p s x) := by
  unfold restoreRing
  exact wf_ite (wf_memWrite h) h

/-- The estates of an image, set up one after another. -/
theorem wf_restoreEsts {xs : List (Nat × EstDesc)} {a b : State × List (Nat × Nat)}
    (he : xs.foldl (fun (o : Option (State × List (Nat × Nat))) x => o.bind (restoreEst p x)) (some a) = some b) (h : Wf a.1) : Wf b.1 := by
  induction xs generalizing a with
  | nil => exact Option.some.inj he ▸ h
  | cons x xs ih =>
    rw [List.foldl_cons, Option.bind_some] at he
    cases hx : restoreEst p x a with
    | none =>
      rw [hx, List.foldl_fixed' (fun _ => rfl)] at he
      cases he
    | some c =>
      rw [hx] at he
      exact ih he (wf_restoreEst hx h)

theorem wfO_rebuild (h : Wf s) : WfO (rebuild p g s) := by
  intro t he
  unfold rebuild at he
  simp only [Option.bind_eq_some_iff, Option.map_eq_some_iff] at he
  obtain ⟨a, hests, u, htmpls, v, hkept, rfl⟩ := he
  have ha : Wf a.1 := wf_restoreEsts hests h
  have hu : Wf u := wf_some htmpls (wfO_foldl (fun _ _ ho => wfO_bind ho fun _ hs => wfO_restoreTmpl hs) (wfO_some ha))
  have hv : Wf v := wf_some hkept (wfO_foldl (fun _ _ ho => wfO_bind ho fun _ hs => wfO_restoreKept hs) (wfO_some hu))
  exact wf_settleDiv (wf_foldl (fun _ _ hs => wf_restoreRing hs) hv)

theorem wf_ownGuestRestore (h : Wf s) : Wf (ownGuestRestore x x1 s).1 := by
  unfold ownGuestRestore
  refine wf_guestChecks h ?_
  extract_lets _ _ _ _ _ _
  refine wf_refusedBy h ?_
  split
  · exact h
  · split
    · exact h
    · split
      · exact wf_say h
      · split
        · exact h
        · split
          · exact wf_say h
          · split
            · exact wf_say h
            · split
              · exact wf_say h
              · rename_i s28 e29
                have h30 : Wf s28 := wf_some e29 (wfO_rebuild h)
                exact wf_say (wf_guestEvent (wf_modFirm h30))

theorem wfR_execGuestRestore (h : Wf s) : WfR (execGuestRestore m s) :=
  wfR_next (wf_serve (fun _ _ _ h1 => wf_ownGuestRestore h1) h)

/-! ### Scalar and control instructions (Machine/Scalar.lean) -/

theorem wfC_aluRR (h : Wf s) : WfC (aluRR f rd rs1 rs2 k s) := by
  unfold aluRR
  split
  · exact wfC_ok (wf_setReg h)
  · exact wfC_error
  · exact wfC_error

theorem wfC_aluPred (h : Wf s) : WfC (aluPred f rd rs1 rs2 k s) := by
  unfold aluPred
  split
  · exact wfC_error
  · split
    · exact wfC_ok (wf_setPred h)
    · exact wfC_error
    · exact wfC_error

theorem wfC_aluRI (h : Wf s) : WfC (aluRI f rd rs1 imm k s) :=
  wfC_map_any fun _ => wf_setReg h

theorem wfC_orLow (h : Wf s) : WfC (orLow rd imm k s) := by
  unfold orLow
  split
  · exact wfC_error
  · exact wfC_map_any fun _ => wf_setReg h

theorem wfR_execAdd (h : Wf s) : WfR (execAdd w rd rs1 rs2 s) :=
  wfR_next (wf_issueNext (fun _ _ h1 => wfC_aluRR h1) h)

theorem wfR_execSub (h : Wf s) : WfR (execSub w rd rs1 rs2 s) :=
  wfR_next (wf_issueNext (fun _ _ h1 => wfC_aluRR h1) h)

theorem wfR_execAnd (h : Wf s) : WfR (execAnd w rd rs1 rs2 s) :=
  wfR_next (wf_issueNext (fun _ _ h1 => wfC_aluRR h1) h)

theorem wfR_execOr (h : Wf s) : WfR (execOr w rd rs1 rs2 s) :=
  wfR_next (wf_issueNext (fun _ _ h1 => wfC_aluRR h1) h)

theorem wfR_execXor (h : Wf s) : WfR (execXor w rd rs1 rs2 s) :=
  wfR_next (wf_issueNext (fun _ _ h1 => wfC_aluRR h1) h)

theorem wfR_execSll (h : Wf s) : WfR (execSll w rd rs1 rs2 s) :=
  wfR_next (wf_issueNext (fun _ _ h1 => wfC_aluRR h1) h)

theorem wfR_execSrl (h : Wf s) : WfR (execSrl w rd rs1 rs2 s) :=
  wfR_next (wf_issueNext (fun _ _ h1 => wfC_aluRR h1) h)

theorem wfR_execSra (h : Wf s) : WfR (execSra w rd rs1 rs2 s) :=
  wfR_next (wf_issueNext (fun _ _ h1 => wfC_aluRR h1) h)

theorem wfR_execMul (h : Wf s) : WfR (execMul w rd rs1 rs2 s) :=
  wfR_next (wf_issueNext (fun _ _ h1 => wfC_aluRR h1) h)

theorem wfR_execMulhu (h : Wf s) : WfR (execMulhu w rd rs1 rs2 s) :=
  wfR_next (wf_issueNext (fun _ _ h1 => wfC_aluRR h1) h)

theorem wfR_execMin (h : Wf s) : WfR (execMin w rd rs1 rs2 s) :=
  wfR_next (wf_issueNext (fun _ _ h1 => wfC_aluRR h1) h)

theorem wfR_execMax (h : Wf s) : WfR (execMax w rd rs1 rs2 s) :=
  wfR_next (wf_issueNext (fun _ _ h1 => wfC_aluRR h1) h)

theorem wfR_execPeq (h : Wf s) : WfR (execPeq w rd rs1 rs2 s) :=
  wfR_next (wf_issueNext (fun _ _ h1 => wfC_aluPred h1) h)

theorem wfR_execPne (h : Wf s) : WfR (execPne w rd rs1 rs2 s) :=
  wfR_next (wf_issueNext (fun _ _ h1 => wfC_aluPred h1) h)

theorem wfR_execPlt (h : Wf s) : WfR (execPlt w rd rs1 rs2 s) :=
  wfR_next (wf_issueNext (fun _ _ h1 => wfC_aluPred h1) h)

theorem wfR_execPltu (h : Wf s) : WfR (execPltu w rd rs1 rs2 s) :=
  wfR_next (wf_issueNext (fun _ _ h1 => wfC_aluPred h1) h)

theorem wfR_execAddi (h : Wf s) : WfR (execAddi w rd rs1 imm s) :=
  wfR_next (wf_issueNext (fun _ _ h1 => wfC_aluRI h1) h)

theorem wfR_execAndi (h : Wf s) : WfR (execAndi w rd rs1 imm s) :=
  wfR_next (wf_issueNext (fun _ _ h1 => wfC_aluRI h1) h)

theorem wfR_execOri (h : Wf s) : WfR (execOri w rd rs1 imm s) :=
  wfR_next (wf_issueNext (fun _ _ h1 => wfC_aluRI h1) h)

theorem wfR_execXori (h : Wf s) : WfR (execXori w rd rs1 imm s) :=
  wfR_next (wf_issueNext (fun _ _ h1 => wfC_aluRI h1) h)

theorem wfR_execSlli (h : Wf s) : WfR (execSlli w rd rs1 imm s) :=
  wfR_next (wf_issueNext (fun _ _ h1 => wfC_aluRI h1) h)

theorem wfR_execSrli (h : Wf s) : WfR (execSrli w rd rs1 imm s) :=
  wfR_next (wf_issueNext (fun _ _ h1 => wfC_aluRI h1) h)

theorem wfR_execSrai (h : Wf s) : WfR (execSrai w rd rs1 imm s) :=
  wfR_next (wf_issueNext (fun _ _ h1 => wfC_aluRI h1) h)

theorem wfR_execLui (h : Wf s) : WfR (execLui w rd imm s) :=
  wfR_next (wf_issueNext (fun _ _ h1 => wfC_ok (wf_setReg h1)) h)

theorem wfR_execLli (h : Wf s) : WfR (execLli w rd imm s) :=
  wfR_next (wf_issueNext (fun _ _ h1 => wfC_orLow h1) h)

/-! ### Security (Machine/Security.lean) -/

theorem wf_modWorld (h : Wf s) : Wf (modWorld s f) :=
  wf_keep h rfl

theorem wf_clearIrqs (h : Wf s) : Wf (clearIrqs f s) := by
  unfold clearIrqs
  extract_lets _ s2
  have h3 : Wf s2 := wf_keep h rfl
  exact wf_modWorld h3

theorem wf_worldDone (h : Wf s) : Wf (worldDone s) := by
  unfold worldDone
  split
  · exact h
  · split
    · exact wf_finish (wf_modWorld h)
    · exact h

theorem wf_changeCluster (h : Wf s) : Wf (changeCluster c forced s) := by
  unfold changeCluster
  extract_lets _ _ s3 s4
  have h5 : Wf s3 := wf_clearIrqs h
  have h6 : Wf s4 := wf_modWorld h5
  exact wf_worldDone (wf_releaseHarts (wf_worldEvent h6))

theorem wfR_execHartsStop (h : Wf s) : WfR (execHartsStop cluster s) := by
  unfold execHartsStop
  extract_lets _
  exact wfR_next (wf_ite h (wf_ite (wf_changeCluster h) (wf_modWorld h)))

theorem wfR_execHartStopTimeout (h : Wf s) : WfR (execHartStopTimeout cluster s) := by
  unfold execHartStopTimeout
  extract_lets _ s2
  have h3 : Wf s2.2 := wf_draw h
  exact wfR_next (wf_ite h (wf_changeCluster h3))

theorem wf_applyWorld (h : Wf s) : Wf (applyWorld d swm lwm clusters s).1 := by
  unfold applyWorld
  extract_lets s1 _ s3 _ s5
  have h6 : Wf s1 := by
    unfold s1
    split
    · exact wf_ite h (wf_worldEvent (wf_modWorld h))
    · exact h
  have h10 : Wf s3 := by
    unfold s3
    split
    · exact wf_ite h6 (wf_ite (wf_modWorld h6) (wf_putLwm h6))
    · exact h6
  have h14 : Wf s5 := wf_modWorld h10
  split
  · exact wf_pair (wf_modWorld h14)
  · exact wf_say h14

theorem wf_ownWorldSet (h : Wf s) : Wf (ownWorldSet x x1 s).1 := by
  unfold ownWorldSet
  extract_lets _ _ _ _ _ _ _ _
  refine wf_checked h ?_
  split
  · exact wf_say h
  · refine wf_checked h ?_
    refine wf_refusedBy h ?_
    split
    · exact wf_say h
    · exact wf_checked h (wf_refusedBy h (wf_applyWorld h))

theorem wfR_execWorldSet (h : Wf s) : WfR (execWorldSet m s) := by
  unfold execWorldSet
  extract_lets s1
  have h2 : Wf s1 := wf_serve (fun _ _ _ h3 => wf_ownWorldSet h3) h
  exact wfR_next (wf_ite (wf_settle h2) h2)

theorem wf_ownSecureRestart (h : Wf s) : Wf (ownSecureRestart x x1 s).1 := by
  unfold ownSecureRestart
  extract_lets _ _ _
  exact wf_checked h (wf_refusedBy h (wf_pair (wf_modWorld h)))

theorem wf_wipeGs (h : Wf s) : Wf (wipeGs s) := by
  unfold wipeGs
  extract_lets _ s2 s3 s4 s5
  have h6 : Wf s2 := wf_foldl (fun _ _ h10 => wf_ite (wf_ite (wf_closeSes (wf_blockClose h10)) (wf_blockClose h10)) h10)
      (wf_foldl (fun _ _ h9 => wf_ite (wf_ite (wf_closeSes (wf_blockClose h9)) (wf_blockClose h9)) h9)
      (wf_foldl (fun _ _ h8 => wf_ite (wf_ite (wf_closeSes (wf_blockClose h8)) (wf_blockClose h8)) h8)
      (wf_foldl (fun _ _ h7 => wf_ite (wf_ite (wf_closeSes (wf_blockClose h7)) (wf_blockClose h7)) h7) h)))
  clear_value s2
  have h11 : Wf s3 := wf_foldl (fun _ _ h12 => wf_closeWin h12) h6
  clear_value s3
  have h13 : Wf s4 := wf_keep h11 rfl
  have h14 : Wf s5 := wf_foldl (fun _ _ h15 => wf_freeEstate (wf_ite h15 (wf_denyJob h15))) h13
  exact wf_foldl (fun _ _ h16 => wf_dropTmpl h16) h14

theorem wf_wipeDram (h : Wf s) : Wf (wipeDram a n s) := by
  unfold wipeDram
  extract_lets _ s2 _
  have h4 : Wf s2 := wf_cleanLines h
  clear_value s2
  exact wf_sift h4 rfl

theorem wf_restartBegin (h : Wf s) : Wf (restartBegin wipe a n s) := by
  unfold restartBegin
  extract_lets s1 s2 s3 s4
  have h5 : Wf s1 := wf_modWorld h
  have h6 : Wf s2 := by
    unfold s2
    split
    · exact wf_denyJob h5
    · exact h5
  have h12 : Wf s3 := wf_ite (wf_wipeGs h6) h6
  have h13 : Wf s4 := wf_clearIrqs h12
  exact wf_settle (wf_ite (wf_wipeDram h13) h13)

theorem wfR_execSecureRestart (h : Wf s) : WfR (execSecureRestart m s) := by
  unfold execSecureRestart
  extract_lets s1
  have h2 : Wf s1 := wf_serve (fun _ _ _ h3 => wf_ownSecureRestart h3) h
  refine wfR_next ?_
  split
  · exact wf_restartBegin h2
  · exact h2

theorem wf_restartAnswer (h : Wf s) : Wf (restartAnswer d a s) := by
  unfold restartAnswer
  extract_lets s1
  have h2 : Wf s1 := wf_modParty h
  exact wf_answer h2

theorem wfR_execSecureRestartDone (h : Wf s) : WfR (execSecureRestartDone imageOk s) := by
  unfold execSecureRestartDone
  refine wfR_next ?_
  split
  · exact h
  · split
    · exact h
    · extract_lets x11 _ s13 s14 s15 s16 s17 s18 s19
      have h20 : Wf s13 := wf_modWorld h
      have h21 : Wf s14 := wf_event h20
      have h22 : Wf s15.2 := wf_freeBytes h20
      have h23 : Wf s16 := by
        unfold s16
        clear_value x11
        split
        · exact wf_modFirm h20
        · exact wf_verifyOwner (wf_modFirm h22)
      have h27 : Wf s17 := wf_modWorld h23
      have h28 : Wf s18 := wf_restartAnswer h27
      have h29 : Wf s19 := wf_event h28
      exact wf_ite (wf_restartAnswer (wf_modWorld h21)) (wf_releaseHarts h29)

theorem wf_ownIdentityGet (h : Wf s) : Wf (ownIdentityGet x x1 s).1 := by
  unfold ownIdentityGet
  extract_lets _
  exact wf_checked h (wf_refusedBy h (wf_say (wf_ite h (wf_putBytes h))))

theorem wfR_execIdentityGet (h : Wf s) : WfR (execIdentityGet m s) :=
  wfR_next (wf_serve (fun _ _ _ h1 => wf_ownIdentityGet h1) h)

theorem wf_fixBody (h : Wf s) : Wf (fixBody s) := by
  unfold fixBody
  split
  · exact wf_modFirm h
  · exact wf_modFirm h

theorem wf_ownAttest (h : Wf s) : Wf (ownAttest x x1 s).1 := by
  unfold ownAttest
  extract_lets _ _ _ s4
  have h5 : Wf s4 := wf_modFirm h
  refine wf_checked h ?_
  refine wf_refusedBy h ?_
  split
  · exact wf_say h
  · split
    · exact wf_say h
    · exact wf_pair (wf_ite (wf_fixBody h5) h5)

theorem wfR_execAttest (h : Wf s) : WfR (execAttest m s) :=
  wfR_next (wf_serve (fun _ _ _ h1 => wf_ownAttest h1) h)

theorem wfR_execAttestSigned (h : Wf s) : WfR (execAttestSigned ms s) := by
  unfold execAttestSigned
  refine wfR_next ?_
  split
  · exact h
  · exact wf_ite h (wf_ite (wf_finish (wf_fixBody (wf_modFirm h))) (wf_finish (wf_event (wf_putBytes (wf_fixBody (wf_modFirm h))))))

/-! ### Every command (Machine/Dispatch.lean) -/

theorem wfR_exec (h : Wf s) : WfR (exec i s) := by
  cases i with
  | add => exact wfR_execAdd h
  | sub => exact wfR_execSub h
  | and => exact wfR_execAnd h
  | or => exact wfR_execOr h
  | xor => exact wfR_execXor h
  | sll => exact wfR_execSll h
  | srl => exact wfR_execSrl h
  | sra => exact wfR_execSra h
  | mul => exact wfR_execMul h
  | mulhu => exact wfR_execMulhu h
  | min => exact wfR_execMin h
  | max => exact wfR_execMax h
  | peq => exact wfR_execPeq h
  | pne => exact wfR_execPne h
  | plt => exact wfR_execPlt h
  | pltu => exact wfR_execPltu h
  | addi => exact wfR_execAddi h
  | andi => exact wfR_execAndi h
  | ori => exact wfR_execOri h
  | xori => exact wfR_execXori h
  | slli => exact wfR_execSlli h
  | srli => exact wfR_execSrli h
  | srai => exact wfR_execSrai h
  | lui => exact wfR_execLui h
  | lli => exact wfR_execLli h
  | lb => exact wfR_execLb h
  | lbu => exact wfR_execLbu h
  | lh => exact wfR_execLh h
  | lhu => exact wfR_execLhu h
  | lw => exact wfR_execLw h
  | ld => exact wfR_execLd h
  | sb => exact wfR_execSb h
  | sh => exact wfR_execSh h
  | sw => exact wfR_execSw h
  | sd => exact wfR_execSd h
  | lwx => exact wfR_execLwx h
  | swx => exact wfR_execSwx h
  | br => exact wfR_execBr h
  | jal => exact wfR_execJal h
  | jr => exact wfR_execJr h
  | vadd => exact wfR_execVadd h
  | vsub => exact wfR_execVsub h
  | vmul => exact wfR_execVmul h
  | vfma => exact wfR_execVfma h
  | vmin _ _ _ _ rm => exact wfR_execVmin (x := rm) h
  | vmax _ _ _ _ rm => exact wfR_execVmax (x := rm) h
  | viadd => exact wfR_execViadd h
  | visub => exact wfR_execVisub h
  | vimul => exact wfR_execVimul h
  | viadds => exact wfR_execViadds h
  | visubs => exact wfR_execVisubs h
  | vsll => exact wfR_execVsll h
  | vsrl => exact wfR_execVsrl h
  | vsra => exact wfR_execVsra h
  | vrsum => exact wfR_execVrsum h
  | vrmax _ _ _ rm => exact wfR_execVrmax (x := rm) h
  | vbc => exact wfR_execVbc h
  | vmovs => exact wfR_execVmovs h
  | vldr _ _ _ _ _ sat rm => exact wfR_execVldr (x := sat) (x1 := rm) h
  | vldc _ _ _ _ _ sat rm => exact wfR_execVldc (x := sat) (x1 := rm) h
  | vlda => exact wfR_execVlda h
  | vstr => exact wfR_execVstr h
  | vstc _ _ _ _ _ sat rm => exact wfR_execVstc (x := sat) (x1 := rm) h
  | vsta => exact wfR_execVsta h
  | sexp2 => exact wfR_execSexp2 h
  | slog2 => exact wfR_execSlog2 h
  | srcp => exact wfR_execSrcp h
  | srsq => exact wfR_execSrsq h
  | ssqrt => exact wfR_execSsqrt h
  | ssin => exact wfR_execSsin h
  | scos => exact wfR_execScos h
  | stanh => exact wfR_execStanh h
  | ssig => exact wfR_execSsig h
  | mma => exact wfR_execMma h
  | drain => exact wfR_execDrain h
  | accst => exact wfR_execAccst h
  | dma => exact wfR_execDma h
  | qpush => exact wfR_execQpush h
  | qpop => exact wfR_execQpop h
  | qtry => exact wfR_execQtry h
  | qwait => exact wfR_execQwait h
  | qret => exact wfR_execQret h
  | qlen => exact wfR_execQlen h
  | wait => exact wfR_execWait h
  | bar => exact wfR_execBar h
  | stepEnd => exact wfR_execStepEnd h
  | halt => exact wfR_execHalt h
  | rbinw => exact wfR_execRbinw h
  | rdraw => exact wfR_execRdraw h
  | rbin => exact wfR_execRbin h
  | rload => exact wfR_execRload h
  | rsetup => exact wfR_execRsetup h
  | rfrag => exact wfR_execRfrag h
  | rtex => exact wfR_execRtex h
  | rdepth => exact wfR_execRdepth h
  | rblend => exact wfR_execRblend h
  | rstore => exact wfR_execRstore h
  | loadReturn => exact wfR_execLoadReturn h
  | mmaComplete => exact wfR_execMmaComplete h
  | drainComplete => exact wfR_execDrainComplete h
  | dmaPieceComplete => exact wfR_execDmaPieceComplete h
  | rasterOpComplete => exact wfR_execRasterOpComplete h
  | stepReplay => exact wfR_execStepReplay h
  | leafHeartbeat => exact wfR_execLeafHeartbeat h
  | recoveryEnd => exact wfR_execRecoveryEnd h
  | segmentCloseTimeout => exact wfR_execSegmentCloseTimeout h
  | segmentOff => exact wfR_execSegmentOff h
  | segmentZeroed => exact wfR_execSegmentZeroed h
  | targetAccess => exact wfR_execTargetAccess h
  | qptTailWrite => exact wfR_execQptTailWrite h
  | qptHeadWrite => exact wfR_execQptHeadWrite h
  | dblSubmitWrite => exact wfR_execDblSubmitWrite h
  | dblMboxRing => exact wfR_execDblMboxRing h
  | dblNotifyRead => exact wfR_execDblNotifyRead h
  | rcFieldRead => exact wfR_execRcFieldRead h
  | registerWrite => exact wfR_execRegisterWrite h
  | recordTake => exact wfR_execRecordTake h
  | jobStart => exact wfR_execJobStart h
  | estateSwitchDone => exact wfR_execEstateSwitchDone h
  | pourBroadcastEnd => exact wfR_execPourBroadcastEnd h
  | pourPullDone => exact wfR_execPourPullDone h
  | pourReloadDone => exact wfR_execPourReloadDone h
  | jobStalled => exact wfR_execJobStalled h
  | durationOverrun => exact wfR_execDurationOverrun h
  | lendKill => exact wfR_execLendKill h
  | hushEntry => exact wfR_execHushEntry h
  | wake => exact wfR_execWake h
  | dramZeroingDone => exact wfR_execDramZeroingDone h
  | pllUnlock => exact wfR_execPllUnlock h
  | fastCurrentLimit => exact wfR_execFastCurrentLimit h
  | powerLimitWindow => exact wfR_execPowerLimitWindow h
  | thermalThrottle => exact wfR_execThermalThrottle h
  | thermalDoze => exact wfR_execThermalDoze h
  | thermalDozeExit => exact wfR_execThermalDozeExit h
  | thermalTrip => exact wfR_execThermalTrip h
  | tripRestart => exact wfR_execTripRestart h
  | voltageTrimCycle => exact wfR_execVoltageTrimCycle h
  | selftestSliceStart => exact wfR_execSelftestSliceStart h
  | selftestSliceEnd => exact wfR_execSelftestSliceEnd h
  | selftestOverdue => exact wfR_execSelftestOverdue h
  | pairWindowMiss => exact wfR_execPairWindowMiss h
  | goldenFrameDone => exact wfR_execGoldenFrameDone h
  | safetyIslandMismatch => exact wfR_execSafetyIslandMismatch h
  | kettleLockstepMismatch => exact wfR_execKettleLockstepMismatch h
  | kettleWatchdogExpiry => exact wfR_execKettleWatchdogExpiry h
  | binGrowTimeout => exact wfR_execBinGrowTimeout h
  | preemptAbandoned => exact wfR_execPreemptAbandoned h
  | vblankLatch => exact wfR_execVblankLatch h
  | linkTrainingResult => exact wfR_execLinkTrainingResult h
  | displayLinkLoss => exact wfR_execDisplayLinkLoss h
  | displayRetrain => exact wfR_execDisplayRetrain h
  | scanoutUnderflow => exact wfR_execScanoutUnderflow h
  | codecPictureDone => exact wfR_execCodecPictureDone h
  | csiPacket => exact wfR_execCsiPacket h
  | missingFrameEnd => exact wfR_execMissingFrameEnd h
  | ispTilePush => exact wfR_execIspTilePush h
  | timeSnapshot => exact wfR_execTimeSnapshot h
  | fusMeasPop => exact wfR_execFusMeasPop h
  | fusBatchProcess => exact wfR_execFusBatchProcess h
  | fusListPush => exact wfR_execFusListPush h
  | egoTimeout => exact wfR_execEgoTimeout h
  | strainerArbitrate => exact wfR_execStrainerArbitrate h
  | patrolScrub => exact wfR_execPatrolScrub h
  | channelFail => exact wfR_execChannelFail h
  | cacheOpDone => exact wfR_execCacheOpDone h
  | granuleZeroed => exact wfR_execGranuleZeroed h
  | alarmFire => exact wfR_execAlarmFire h
  | activationWindowOpen => exact wfR_execActivationWindowOpen h
  | activationReady => exact wfR_execActivationReady h
  | activationWatchdog => exact wfR_execActivationWatchdog h
  | fwStageDone => exact wfR_execFwStageDone h
  | templateLoadDone => exact wfR_execTemplateLoadDone h
  | hartStopTimeout => exact wfR_execHartStopTimeout h
  | aliasDerived => exact wfR_execAliasDerived h
  | attestSigned => exact wfR_execAttestSigned h
  | safetySpiWrite => exact wfR_execSafetySpiWrite h
  | safetySpiRead => exact wfR_execSafetySpiRead h
  | safetySpiStatus => exact wfR_execSafetySpiStatus h
  | serviceSpiWrite => exact wfR_execServiceSpiWrite h
  | serviceSpiRead => exact wfR_execServiceSpiRead h
  | serviceSpiStatus => exact wfR_execServiceSpiStatus h
  | wakeNow => exact wfR_execWakeNow h
  | fieldFrameCrcFail => exact wfR_execFieldFrameCrcFail h
  | fieldOutputHoldExpiry => exact wfR_execFieldOutputHoldExpiry h
  | pcieInboundRequest => exact wfR_execPcieInboundRequest h
  | writeGroupEnd => exact wfR_execWriteGroupEnd h
  | pcieCompletion => exact wfR_execPcieCompletion h
  | outboundReadTimeout => exact wfR_execOutboundReadTimeout h
  | windowDrainEnd => exact wfR_execWindowDrainEnd h
  | pciePerst => exact wfR_execPciePerst h
  | pciePowerManagement => exact wfR_execPciePowerManagement h
  | peerLinkUp => exact wfR_execPeerLinkUp h
  | pcieLinkDown => exact wfR_execPcieLinkDown h
  | canFrameReceived => exact wfR_execCanFrameReceived h
  | canFrameSent => exact wfR_execCanFrameSent h
  | canBusOffRecovery => exact wfR_execCanBusOffRecovery h
  | canDominant => exact wfR_execCanDominant h
  | canWup => exact wfR_execCanWup h
  | ethFrameIngress => exact wfR_execEthFrameIngress h
  | routeDestTimeout => exact wfR_execRouteDestTimeout h
  | acfTalkerSend => exact wfR_execAcfTalkerSend h
  | gateListActivate => exact wfR_execGateListActivate h
  | switchInputChange => exact wfR_execSwitchInputChange h
  | pairImplausible => exact wfR_execPairImplausible h
  | touchScan => exact wfR_execTouchScan h
  | lampTurnOff => exact wfR_execLampTurnOff h
  | lampRetry => exact wfR_execLampRetry h
  | lampOpenLoad => exact wfR_execLampOpenLoad h
  | analogSample => exact wfR_execAnalogSample h
  | wakeInputEdge => exact wfR_execWakeInputEdge h
  | parkSwitchPoll => exact wfR_execParkSwitchPoll h
  | fieldTimerExpiry => exact wfR_execFieldTimerExpiry h
  | usbcAttach => exact wfR_execUsbcAttach h
  | vbusFault => exact wfR_execVbusFault h
  | vbusRetry => exact wfR_execVbusRetry h
  | ccOvervoltage => exact wfR_execCcOvervoltage h
  | vbatChange => exact wfR_execVbatChange h
  | vbatCut => exact wfR_execVbatCut h
  | bringup => exact wfR_execBringup h
  | dramTestRound => exact wfR_execDramTestRound h
  | training => exact wfR_execTraining h
  | linkRetrain => exact wfR_execLinkRetrain h
  | pgoodSample => exact wfR_execPgoodSample h
  | powerUpRetry => exact wfR_execPowerUpRetry h
  | pgoodFall => exact wfR_execPgoodFall h
  | resetNPin => exact wfR_execResetNPin h
  | resetBegin => exact wfR_execResetBegin h
  | caddyBackgroundFlush => exact wfR_execCaddyBackgroundFlush h
  | i2sFrame => exact wfR_execI2sFrame h
  | usbPortReset => exact wfR_execUsbPortReset h
  | usbAddress => exact wfR_execUsbAddress h
  | usbEndpointSet => exact wfR_execUsbEndpointSet h
  | usbTransfer => exact wfR_execUsbTransfer h
  | usbEndpointClear => exact wfR_execUsbEndpointClear h
  | usbAttach => exact wfR_execUsbAttach h
  | usbDetach => exact wfR_execUsbDetach h
  | ufsScsi => exact wfR_execUfsScsi h
  | ufsQuery => exact wfR_execUfsQuery h
  | ufsTask => exact wfR_execUfsTask h
  | ufsLink => exact wfR_execUfsLink h
  | ufsLinkLost => exact wfR_execUfsLinkLost h
  | ufsScsiTimeout => exact wfR_execUfsScsiTimeout h
  | i2sPlay => exact wfR_execI2sPlay h
  | i2sRecord => exact wfR_execI2sRecord h
  | i2sStop => exact wfR_execI2sStop h
  | xspiRead => exact wfR_execXspiRead h
  | xspiProgram => exact wfR_execXspiProgram h
  | xspiErase => exact wfR_execXspiErase h
  | ioCompletion => exact wfR_execIoCompletion h
  | vnicTransmit => exact wfR_execVnicTransmit h
  | vnicReceive => exact wfR_execVnicReceive h
  | afiVersion => exact wfR_execAfiVersion h
  | mboxSet => exact wfR_execMboxSet h
  | irqRoute => exact wfR_execIrqRoute h
  | queueBind => exact wfR_execQueueBind h
  | queueUnbind => exact wfR_execQueueUnbind h
  | templateLoad => exact wfR_execTemplateLoad h
  | templateFree => exact wfR_execTemplateFree h
  | leafStats => exact wfR_execLeafStats h
  | leafFence => exact wfR_execLeafFence h
  | grantSet => exact wfR_execGrantSet h
  | estateSet => exact wfR_execEstateSet h
  | estateFree => exact wfR_execEstateFree h
  | guestFreeze => exact wfR_execGuestFreeze h
  | guestSave => exact wfR_execGuestSave h
  | guestRestore => exact wfR_execGuestRestore h
  | guestThaw => exact wfR_execGuestThaw h
  | powerVote => exact wfR_execPowerVote h
  | powerLimitSet => exact wfR_execPowerLimitSet h
  | parkKeep => exact wfR_execParkKeep h
  | alarmSet => exact wfR_execAlarmSet h
  | blockPower => exact wfR_execBlockPower h
  | resumeSet => exact wfR_execResumeSet h
  | memWaysSet => exact wfR_execMemWaysSet h
  | memCacheOp => exact wfR_execMemCacheOp h
  | memRangeSet => exact wfR_execMemRangeSet h
  | memStats => exact wfR_execMemStats h
  | gfxQueueSet => exact wfR_execGfxQueueSet h
  | gfxBinGrow => exact wfR_execGfxBinGrow h
  | pipeSet => exact wfR_execPipeSet h
  | pipeStop => exact wfR_execPipeStop h
  | pipeQueues => exact wfR_execPipeQueues h
  | dspStats => exact wfR_execDspStats h
  | codecOpen => exact wfR_execCodecOpen h
  | codecClose => exact wfR_execCodecClose h
  | captureOpen => exact wfR_execCaptureOpen h
  | captureClose => exact wfR_execCaptureClose h
  | captureStats => exact wfR_execCaptureStats h
  | ispTune => exact wfR_execIspTune h
  | fusOpen => exact wfR_execFusOpen h
  | fusClose => exact wfR_execFusClose h
  | fusTransformLoad => exact wfR_execFusTransformLoad h
  | fusStats => exact wfR_execFusStats h
  | safetyPairSet => exact wfR_execSafetyPairSet h
  | selftestGaps => exact wfR_execSelftestGaps h
  | safeState => exact wfR_execSafeState h
  | faultStatus => exact wfR_execFaultStatus h
  | worldSet => exact wfR_execWorldSet h
  | secureRestart => exact wfR_execSecureRestart h
  | attest => exact wfR_execAttest h
  | identityGet => exact wfR_execIdentityGet h
  | windowOpen => exact wfR_execWindowOpen h
  | windowClose => exact wfR_execWindowClose h
  | peerLink => exact wfR_execPeerLink h
  | canOpen => exact wfR_execCanOpen h
  | canClose => exact wfR_execCanClose h
  | routeSet => exact wfR_execRouteSet h
  | tsnSet => exact wfR_execTsnSet h
  | fieldSet => exact wfR_execFieldSet h
  | fieldRead => exact wfR_execFieldRead h
  | usbcSet => exact wfR_execUsbcSet h
  | ioOpen => exact wfR_execIoOpen h
  | ioClose => exact wfR_execIoClose h
  | vnicOpen => exact wfR_execVnicOpen h
  | vnicClose => exact wfR_execVnicClose h
  | fwStage => exact wfR_execFwStage h
  | fwActivate => exact wfR_execFwActivate h
  | fwCommit => exact wfR_execFwCommit h
  | ucodeLoad => exact wfR_execUcodeLoad h
  | calLoad => exact wfR_execCalLoad h
  | caddyMark => exact wfR_execCaddyMark h
  | caddyFlush => exact wfR_execCaddyFlush h
  | reset => exact wfR_execReset h
  | vddLeafReachesSetting => exact wfR_execVddLeafReachesSetting h
  | pipeLinkIdle => exact wfR_execPipeLinkIdle h
  | hartsStop => exact wfR_execHartsStop h
  | secureRestartDone => exact wfR_execSecureRestartDone h
  | immediateFlushDone => exact wfR_execImmediateFlushDone h
  | tsnLinkChange => exact wfR_execTsnLinkChange h
  | csiLaneSyncLost => exact wfR_execCsiLaneSyncLost h
  | canBusFault => exact wfR_execCanBusFault h
  | canOpenLoad => exact wfR_execCanOpenLoad h
  | canTransmitterRetry => exact wfR_execCanTransmitterRetry h
  | lampOffDiag => exact wfR_execLampOffDiag h
  | safetyIslandHeartbeatMiss _ fromKettle => exact wfR_execSafetyIslandHeartbeatMiss (x := fromKettle) h

/-! ### The step (Machine/Step.lean) -/

theorem wfR_step (h : Wf s) : WfR (step s) := by
  unfold step
  split
  · exact wfR_next (wf_idle h)
  · exact wfR_exec (wf_keep h rfl)

end

/-- Settles O6: every command, and the idle step, leaves the cells of memory in canonical form. -/
theorem memoryStaysCanonical : Obligations.MemoryStaysCanonical := by
  unfold Obligations.MemoryStaysCanonical
  intro s t h e
  exact wf_next e (wfR_step h)

end Sys2Proof.Machine

end
